-- ==== Sys2Proof/Word.lean ====
section
/-! DEFINITION. The words the manual names (R6, R7): bytes, 64-bit words, and the one sparse table
the whole model keeps its large stores in. Nothing here carries a meaning of its own. -/
namespace Sys2Proof

/-- One byte of memory, scratchpad or a register (R6). -/
abbrev Byte := BitVec 8

/-- A 64-bit value, the width of every scalar register (R107, R237). -/
abbrev W64 := BitVec 64

/-- The eight slots of a bundle in slot order (R173). -/
inductive Slot where
  | C | A | B | V | M | F | X | G
  deriving DecidableEq, Repr

/-- Slots A and B share the opcodes 0x01 to 0x3F (R234); the lane says which slot holds the word. -/
inductive Lane where
  | A | B
  deriving DecidableEq, Repr

/-- The slot a lane stands for. -/
def Lane.slot : Lane → Slot
  | .A => .A
  | .B => .B

/-- The guard of a slot word: predicate number GP and the inversion bit GN (R179). -/
structure Guard where
  gp : BitVec 4
  gn : Bool
  deriving DecidableEq, Repr

/-- Who makes an access to the device register space (R414). -/
inductive Requester where
  /-- a core's slot-B access at user privilege -/
  | userCore
  /-- a core's slot-B access at kernel privilege; `ns` is the world of the access under R66 -/
  | kernelCore (ns : Bool)
  /-- the host through BAR0, BAR2 or BAR4: kernel, non-secure -/
  | host
  /-- the management controller: kernel, non-secure -/
  | controller
  /-- the security processor: kernel, secure -/
  | security
  /-- an IOD engine -/
  | engine
  /-- any other agent: not admitted -/
  | other
  deriving DecidableEq, Repr

/-- A firmware image presented to the boot chain (R420): the stage it is for, its bytes, the key
offered and the signature, its security version and its advance flag, and, for the stage-1 image, the
keys it names for the two later stages. -/
structure BootImage where
  stage : Nat
  bytes : List Byte
  key : BitVec 512
  sig : BitVec 512
  version : BitVec 6
  advance : Bool
  controllerKey : BitVec 512
  partitionKey : BitVec 512
  deriving DecidableEq, Repr

/-- A sparse table: pairs of a key and a value, the keys strictly rising. A key that is not listed
stands for the value the owner of the table names. -/
abbrev Table (α : Type) := List (Nat × α)

/-- The keys of a table rise strictly. -/
def Table.sorted {α : Type} : Table α → Bool
  | [] => true
  | [_] => true
  | a :: b :: r => decide (a.1 < b.1) && Table.sorted (b :: r)

/-- What a base die finds wrong at an activate (R28, R29): nothing, copy A or copy B of the bank's remap entry
uncorrectable, both of them, or a failing row, which is then retired. -/
inductive DramUpset where
  | none
  | copyA
  | copyB
  | both
  | failing
  deriving DecidableEq, Repr

/-- An activate (R26): the bank, the row and what the base die finds wrong at it. -/
structure DramAct where
  bank : Nat
  row : Nat
  up : DramUpset
  deriving DecidableEq, Repr

/-- An error in a word of a scratchpad (R102): of one bit, which is corrected, uncorrectable in the data, or
uncorrectable with the full/empty bit in it. -/
inductive SpadUpset where
  | corrected
  | data
  | fullBit
  deriving DecidableEq, Repr

end Sys2Proof
end

