-- ==== Sys2Proof/Config.lean ====
section
/-! DEFINITION. What the manual leaves to an implementation, to a device outside the model or to chance.
Each value is an opaque constant: nothing can evaluate it or prove what it is, so a claim that holds does
so for every choice. The argument `tick` is State's own count of steps, which makes each drawing a fresh
one. -/
namespace Sys2Proof.Config

/-- Nanoseconds that pass in a step: fewer than 2^32, so that the count of R419 never steps back by a wrap within one
step (the rule fixes only the unit).
DESIGN CHOICE, log entry 3. -/
opaque elapsed : Nat → BitVec 32

/-- Cycles of the arithmetic clock that a core's turn takes beyond one: the latencies and lost cycles that
the model does not count (R182 code 63, R272, R297).
DESIGN CHOICE, log entry 4. -/
opaque extraCycles : Nat → Nat

/-- A choice the device makes among the possibilities a rule states: drawn afresh at each use.
DESIGN CHOICE, log entry 2. -/
opaque choice : Nat → Nat

/-- Rounds of turns after which no event and no record that could come is left out any longer: R366 has every eligible record
dispatched in finite time.
DESIGN CHOICE, log entry 141. -/
opaque patience : Nat

/-- The block coordinates that a core without a block reads (R182, codes 59 to 62): the manual gives
them from the record only.
DESIGN CHOICE, log entry 13. -/
opaque idleSource : Nat → W64

/-- The stack that holds the first granule of a tier-0 frame: R39 spreads consecutive 2 KiB granules over the eight
stacks and does not say which comes first.
DESIGN CHOICE, log entry 16. -/
opaque firstStack : Nat → Nat

/-- The bank and row of a stack that hold its n-th 2 KiB granule (R24, R26).
DESIGN CHOICE, log entry 16. -/
opaque rowOf : Nat → Nat → Nat × Nat

/-- The subarray of a row of a bank of a stack (R24).
DESIGN CHOICE, log entry 16. -/
opaque subarrayOf : Nat → Nat → Nat → Nat

/-- The pattern that a subarray's reserved pattern row holds beside the all-zero and all-ones rows (R24).
DESIGN CHOICE, log entry 16. -/
opaque patternRow : Nat → Nat → Nat → BitVec 64

/-- A row stands open when an access to it is served, so that the access needs no activate: the base die decides the
timing of every activate (R26). Drawn afresh at each step.
DESIGN CHOICE, log entry 16. -/
opaque rowOpen : Nat → Nat → Bool

/-- Bytes that a page takes in tier 1 or 2 under a method of R34 (1 block-lossless, 2 exponent packing), by its bytes and
its poisoned beats: the coding is not given.
DESIGN CHOICE, log entry 17. -/
opaque packedSize : Nat → List Host.Cell → List Nat → Nat

/-- A page with these bytes holds MX blocks, to which exponent packing is not applied (R35): the rule does not say how the
tier engine knows them.
DESIGN CHOICE, log entry 17. -/
opaque holdsBlocks : List Host.Cell → Bool

/-- The poison indications of the reads by which a page comes back from CXL memory, by beat (R33).
DESIGN CHOICE, log entry 18. -/
opaque cxlPoison : Nat → Nat → BitVec 1024

/-- 4 KiB blocks that the pager's image of an object takes, a function of its contents (R142: the method of
compression is not given).
DESIGN CHOICE, log entry 89. -/
opaque imageBlocks : List (Nat × BitVec 32 × Bool) → Nat

/-- SM2 verification of a signature over a digest with a public key (R420). The algorithm is named and
not given.
DESIGN CHOICE, log entry 106. -/
opaque sm2Verify : BitVec 512 → BitVec 256 → BitVec 512 → Bool

/-- The signature over a digest with the private half of a module's identity key pair (R421): it never leaves the
device, and each module has its own. -/
opaque sm2Sign : Nat → BitVec 256 → BitVec 512

/-- The X.509 certificate of the identity key (R421). -/
opaque certificate : Nat → List Byte

/-- The bytes by which the attestation report's third digest covers PCTL.NS of each partition and the cluster
worlds (R422): the order is given and the packing is not. -/
opaque worldBytes : List Bool → List Bool → List Byte

/-- Nanoseconds in which the token of a fabric unit goes once round its ring (R76).
DESIGN CHOICE, log entry 33. -/
opaque ringTrip : Nat → BitVec 24

/-- What is measured (R427): the averages of current and power, drawn afresh at each read.
DESIGN CHOICE, log entry 117. -/
opaque sensor : Nat → BitVec 32

end Sys2Proof.Config
end

