-- ==== Sys2Proof/Syntax.lean ====
section
/-! DEFINITION. The steps of the machine: one constructor of `Instr` for every row of the manual's
table of operations and events. A row that is a slot word (R179) carries its guard and its form
fields; a row that is an event of the device carries the names of the units it concerns. -/
namespace Sys2Proof

/-- Every operation and event of the machine, in the order of the manual's table. -/
inductive Instr where
  /-- SYNC_WAIT (R177): Holds the group until a counting flag reaches COUNT. -/
  | syncWait (f : BitVec 4) (c : BitVec 6)
  /-- SYNC_POST (R177): Adds COUNT to the core's own flag after the group's synchronous effects. -/
  | syncPost (f : BitVec 4) (c : BitVec 6)
  /-- SYNC_TAKE (R177): Waits for a flag to reach COUNT and subtracts it at issue. -/
  | syncTake (f : BitVec 4) (c : BitVec 6)
  /-- NULLIFIER_SKIP (R194): Fetch skips a group whose guards are all false and that has no sync op. -/
  | nullifierSkip
  /-- PARTIAL_SUM_ARRIVE (R297): Six issue cycles after a narrow mma its partial sum lands on the port, overwriting any unconsumed sum. -/
  | partialSumArrive (core : Nat)
  /-- M_COMMAND_COMPLETE (R294): A full-path or conversion command finishes writing its tile and accrues its flags. -/
  | mCommandComplete (core : Nat)
  /-- F_COMMAND_COMPLETE (R312): An F command's effects on object and tiles are made; FWSTAT, flags and status causes follow. -/
  | fCommandComplete (core : Nat)
  /-- STATE_EVICT (R142): The pager starts evicting the least recently accessed qualifying object. -/
  | stateEvict (cl : Nat)
  /-- STATE_EVICT_DONE (R142): An eviction's image is written and the object becomes ABSENT. -/
  | stateEvictDone (cl : Nat) (slot : Nat)
  /-- STATE_PAGEIN_DONE (R144): A state page-in completes; the object is RESIDENT and page-in flags are posted. -/
  | statePageinDone (cl : Nat) (slot : Nat) (ok : Bool)
  /-- FW_MIGRATION_COPY_DONE (R145): A migration copy finishes and held commands are applied to the new object. -/
  | fwMigrationCopyDone (cl : Nat) (slot : Nat)
  /-- FW_RESIDENCY_HOLD_EXPIRE (R142): 64 µs after a page-in the object may again be evicted. -/
  | fwResidencyHoldExpire (cl : Nat) (slot : Nat)
  /-- X_COMMAND_COMPLETE (R228): An X command completes: TSTAT and own post, then remote post, arrival and future, then interrupt. -/
  | xCommandComplete (core : Nat) (id : Nat)
  /-- G_COMMAND_COMPLETE (R314): A G command completes and reports like an X command. -/
  | gCommandComplete (core : Nat) (id : Nat)
  /-- SPARSE_INDEX_PUSH (R316): The sparse-index engine pushes positions into the operand queue when there is room. -/
  | sparseIndexPush (core : Nat)
  /-- COLLECTIVE_CONTRIBUTION (R320): A member's contribution arrives at the combining point and is combined. -/
  | collectiveContribution (core : Nat) (id : Nat)
  /-- COLLECTIVE_TIMEOUT (R321): A contribution still missing 1 ms after the first abandons the instance. -/
  | collectiveTimeout (inst : Nat)
  /-- MAILBOX_DESCRIPTOR_ARRIVE (R322): A descriptor enters a mailbox or pairs with a waiting grecv. -/
  | mailboxDescriptorArrive (core : Nat) (id : Nat)
  /-- MAILBOX_DESCRIPTOR_TIMEOUT (R322): An unpaired descriptor is withdrawn after 1 ms. -/
  | mailboxDescriptorTimeout (core : Nat) (id : Nat)
  /-- GRECV_TIMEOUT (R322): An unpaired grecv completes TIMEOUT after 1 ms. -/
  | grecvTimeout (core : Nat) (id : Nat)
  /-- READ (R18): Base die serves a tagged read packet. -/
  | read (id : Nat)
  /-- WRITE (R20): Base die performs a masked write and acknowledges it. -/
  | write (id : Nat)
  /-- ATOMIC (R22): Base-die atomic unit performs a read-modify-write and returns the old value. -/
  | atomic (id : Nat)
  /-- ROWCOPY (R24): Base die copies within a stack, in-array where rows qualify. -/
  | rowcopy (src : Nat) (dst : Nat) (len : Nat)
  /-- ROWINIT (R24): Base die fills a range with a pattern. -/
  | rowinit (dst : Nat) (len : Nat) (pat : BitVec 64)
  /-- SUBSCRIBE (R87): Base-die loaders take a ring subscription and start pushing slots. -/
  | subscribe (cl : Nat) (ring : Nat)
  /-- PULL (R88): Base-die storers take a publish ring and start pulling slots. -/
  | pull (cl : Nat) (ring : Nat)
  /-- PACKET_DISCARD (R18): An unknown packet kind is discarded and counted in STKSTAT. -/
  | packetDiscard (stack : Nat) (kind : BitVec 4)
  /-- DRAM_ACTIVATE (R26): An activate counts against its bank and may issue refresh management. -/
  | dramActivate (stack : Nat) (act : DramAct)
  /-- DRAM_REFRESH (R26): A bank refresh lowers its activation counter by DECAY. -/
  | dramRefresh (stack : Nat) (bank : Nat)
  /-- RMLOG_VALID_CLEAR (R30): Writing 1 to RMLOG.VALID clears the event and loads the next one. -/
  | rmlogValidClear (stack : Nat)
  /-- TIER_DEMOTE (R39): The tier engine demotes the least recently used qualifying page to free a frame. -/
  | tierDemote (chip : Nat)
  /-- PAGE_IN_COMPLETE (R44): A page becomes resident, its translation updates and waiting accesses and resident flags proceed. -/
  | pageInComplete (page : Nat) (read : Option (BitVec 1024))
  /-- RESIDENCY_HOLD_EXPIRE (R44): 64 µs after a page-in the page may again be demoted. -/
  | residencyHoldExpire (page : Nat)
  /-- TRANSLATION_WALK (R61): A table walk ends and completes every coalesced miss it covers. -/
  | translationWalk (id : Nat)
  /-- REMOTE_SCRATCHPAD_ACCESS (R97): A remote access arrives at a scratchpad bank and performs or parks. -/
  | remoteScratchpadAccess (id : Nat)
  /-- WAIT_WITHDRAW (R99): A withdrawal reaches the home bank and answers withdrawn or performed. -/
  | waitWithdraw (id : Nat)
  /-- WAITER_TABLE_RETRY (R74): A request refused by a full waiter table is re-sent after 64 to 127 fabric cycles. -/
  | waiterTableRetry (id : Nat)
  /-- FE_WAIT_LIMIT (R98): A waiting access or flag wait reaches WAITLIM and traps. -/
  | feWaitLimit (core : Nat)
  /-- REMOTE_ACCESS_TIMEOUT (R82): A remote access uncompleted after 50 µs is failed. -/
  | remoteAccessTimeout (id : Nat)
  /-- FLAG_POST_ARRIVE (R83): A post adds its count and status to a counting flag indivisibly. -/
  | flagPostArrive (id : Nat)
  /-- FLIT_REPLAY (R70): A flit failing its CRC is replayed. -/
  | flitReplay (unit : Nat) (link : Nat)
  /-- LINK_FAILED (R70): After 64 consecutive replays a link is declared failed. -/
  | linkFailed (unit : Nat) (link : Nat)
  /-- FABLINK_RETRAIN (R79): Writing 1 to a FABLINK bit starts retraining of that link. -/
  | fablinkRetrain (unit : Nat) (link : Nat)
  /-- LINK_TRAINING_DONE (R79): Retraining ends; success clears the bit and returns the link to routing. -/
  | linkTrainingDone (unit : Nat) (link : Nat) (ok : Bool)
  /-- HEAD_SUSPECT (R72): A blocked-head counter reaches FABCFG.TIMEOUT and marks its packet suspect. -/
  | headSuspect (unit : Nat) (router : Nat)
  /-- MERIDIAN_CAPTURE (R73): A router with a suspect packet captures the token and drains one packet through the DBL. -/
  | meridianCapture (unit : Nat) (router : Nat)
  /-- TOKEN_REGENERATE (R76): A missing token is regenerated after four round-trip times. -/
  | tokenRegenerate (unit : Nat)
  /-- RING_SLOT_LAND (R87): A feeder writes a slot once its home words are empty and posts the ring flag. -/
  | ringSlotLand (cl : Nat) (ring : Nat)
  /-- RING_SLOT_DRAIN (R88): A puller drains a full slot to its destination and marks it empty. -/
  | ringSlotDrain (cl : Nat) (ring : Nat)
  /-- RING_ENLARGE (R90): A crew stalled 4096 cycles has its smallest IN ring enlarged. -/
  | ringEnlarge (cl : Nat) (crew : Nat)
  /-- RING_EXTENSION_MOVE (R91): An extension slot moves into a home slot that has become empty. -/
  | ringExtensionMove (cl : Nat) (ring : Nat)
  /-- SCRATCHPAD_ECC_ERROR (R102): An uncorrectable scratchpad error poisons its word. -/
  | scratchpadEccError (core : Nat) (word : Nat) (up : SpadUpset)
  /-- RECORD_ENQUEUE (R355): A record arrives at a queue, is checked and stored, or a WAKE releases a parked record. -/
  | recordEnqueue (id : Nat)
  /-- ENQUEUE_WINDOW_WRITE (R360): A 64-byte aligned write to an enqueue window enqueues its record. -/
  | enqueueWindowWrite (ma : Nat) (bytes : List (BitVec 8)) (bad : Bool)
  /-- JOIN_DECREMENT (R261): A join word's COUNT is lowered and at zero its record is read and enqueued. -/
  | joinDecrement (id : Nat)
  /-- SPILL_TO_OVERFLOW (R359): With under 64 free entries the newest ready records move to overflow rings. -/
  | spillToOverflow (cl : Nat)
  /-- FILL_FROM_OVERFLOW (R359): With 256 free entries records move back from overflow rings. -/
  | fillFromOverflow (cl : Nat)
  /-- DISPATCH (R363): An idle core receives a chosen eligible record and starts its block. -/
  | dispatch (core : Nat)
  /-- BUDGET (R365): The budget counter reaches zero and the BUDGET user trap is taken. -/
  | budget (core : Nat)
  /-- LAUNCH_RECORD_PLACE (R325): The launch unit places a held launch record when room appears. -/
  | launchRecordPlace (cl : Nat)
  /-- SHAPE_RESOLVE (R374): A shape word first becomes full; outside blocks are squashed, a tail launched and stalls released. -/
  | shapeResolve (launch : Nat)
  /-- RETRACT (R376): After squashed blocks and their commands finish, their retractable allocations are freed. -/
  | retract (launch : Nat)
  /-- CREW_COMPLETE (R356): A crew with nothing live or outstanding frees its id. -/
  | crewComplete (part : Nat) (crew : Nat)
  /-- QUEUE_DESTROY (R358): Clearing a queue entry's V raises GEN and discards every held record. -/
  | queueDestroy (cl : Nat) (queue : Nat)
  /-- QSTAT_CLEAR (R361): Any write of QSTAT clears BADREC, DROP and LATE. -/
  | qstatClear (cl : Nat)
  /-- ORRERY_GO (R371): Writing GO loads the node table and fires every node with NPRED 0. -/
  | orreryGo (cl : Nat)
  /-- ORRERY_NODE_FIRE (R370): A signal lowers a node's count and at zero the node fires by its kind. -/
  | orreryNodeFire (cl : Nat) (node : Nat)
  /-- ORRERY_INDEX_TAKE (R370): An indexed node takes its full index word and signals the chosen entry. -/
  | orreryIndexTake (cl : Nat) (node : Nat)
  /-- UE_MESSAGE_RECEIVE (R379): An Ultra Ethernet message is matched to an endpoint or refused. -/
  | ueMessageReceive (chip : Nat) (port : Nat) (job : Nat) (pid : Nat) (message : Nat × List (BitVec 8))
  /-- TOKENISE_REQUEST (R386): A tokeniser engine begins a request and BPE-merges its pieces. -/
  | tokeniseRequest (chip : Nat) (e : Nat)
  /-- REQUEST_WORD_LAND (R387): A token word lands in an empty request-ring word and is set full. -/
  | requestWordLand (chip : Nat) (e : Nat)
  /-- TEMPLATE_ENQUEUE (R388): After the first word performs, the template record is enqueued. -/
  | templateEnqueue (chip : Nat) (e : Nat)
  /-- DETOKENISE_WORD (R389): A full reply word is turned into UTF-8 bytes and emptied. -/
  | detokeniseWord (chip : Nat) (e : Nat)
  /-- ENDPOINT_WRITE (R382): An endpoint entry write; setting V zeroes KIN and KOUT, clearing V discards requests. -/
  | endpointWrite (chip : Nat) (e : Nat) (first : Nat × BitVec 64) (rest : List (Nat × BitVec 64)) (who : Requester)
  /-- ALMANAC_LOAD (R384): Writing ALMLOAD starts an almanac load into a slot. -/
  | almanacLoad (chip : Nat) (val : BitVec 64) (who : Requester)
  /-- ALMANAC_LOAD_DONE (R385): The load's checks end in STATE 2 or 3. -/
  | almanacLoadDone (chip : Nat)
  /-- USER_TRAP_ENTRY (R398): A user cause enters the user handler with banks exchanged. -/
  | userTrapEntry (core : Nat)
  /-- KERNEL_TRAP_ENTRY (R401): A kernel cause enters the system handler at kernel privilege. -/
  | kernelTrapEntry (core : Nat)
  /-- SWAP_OUT (R408): Setting SWOUT halts the partition's cores and saves their images. -/
  | swapOut (part : Nat)
  /-- SWAP_IN (R410): Setting SWIN restores a partition's images and refills weight buffers. -/
  | swapIn (part : Nat)
  /-- SWAP_COMPLETE (R408): A granule's image exchange finishes and the cores resume or stay out. -/
  | swapComplete (part : Nat)
  /-- PARTITION_RESET (R411): Writing PRST resets a partition's cores, records, crews and rings. -/
  | partitionReset (part : Nat)
  /-- MANAGEMENT_RESTART (R411): Writing RESTART returns stopped cores to idle and discards their blocks. -/
  | managementRestart (part : Nat)
  /-- POWER_ON_RESET (R411): Power-on sets every register to reset and starts the boot chain. -/
  | powerOnReset (chip : Nat)
  /-- BOOT_STAGE_VERIFY (R420): A boot stage image is loaded and its SM2 signature checked. -/
  | bootStageVerify (chip : Nat) (img : BootImage)
  /-- ATTESTATION_START (R422): Writing ATTGO starts a signed attestation report. -/
  | attestationStart (chip : Nat)
  /-- ATTESTATION_DONE (R422): The report is written and ATTDONE set. -/
  | attestationDone (chip : Nat)
  /-- FREEZE_CYCLE (R424): A cycle whose window charge would exceed the limit freezes the core. -/
  | freezeCycle (core : Nat)
  /-- THERMAL_THROTTLE (R426): A temperature reaching 100 °C starts lowering CLIMCAP. -/
  | thermalThrottle (chip : Nat) (unit : Nat) (temp : Nat)
  /-- CLIMCAP_STEP (R426): Every 100 µs CLIMCAP moves by 1/16 of 11136 and is copied to every core. -/
  | climcapStep (chip : Nat)
  /-- THERMAL_STOP (R426): At 110 °C every core stops and TEMPSTOP is set. -/
  | thermalStop (chip : Nat) (unit : Nat) (temp : Nat)
  /-- REGISTER_WRITE (R8): A write to a register without its own row, under its field map and access codes. -/
  | registerWrite (ma : Nat) (n : Nat) (val : BitVec 64) (who : Requester)
  /-- REMOTE_ACCESS_REPLY (R81): The reply or acknowledgement of a remote slot-B access arrives at the requesting core, completing the access and making its destination register ready. -/
  | remoteAccessReply (id : Nat)
  /-- DEMOTION_COMPLETE (R40): A demotion under way finishes: the page lies in its lower tier, its entry is updated, translations invalidated and the tier-0 frame released. -/
  | demotionComplete (page : Nat)
  /-- STATE_SRAM_ECC_ERROR (R122): An uncorrectable error in a state SRAM word marks that word poisoned, and a single-bit error is corrected and counted. -/
  | stateSramEccError (cl : Nat) (slot : Nat) (elem : Nat) (hard : Bool)
  /-- ADD (R238): Adds two scalar sources modulo 2^64 and writes D or only the latches. -/
  | add (sl : Lane) (g : Guard) (d : BitVec 6) (a : BitVec 6) (b : BitVec 6) (w : Bool)
  /-- SUB (R238): Subtracts source B from source A modulo 2^64. -/
  | sub (sl : Lane) (g : Guard) (d : BitVec 6) (a : BitVec 6) (b : BitVec 6) (w : Bool)
  /-- MUL (R238): Writes the low 64 bits of the product. -/
  | mul (sl : Lane) (g : Guard) (d : BitVec 6) (a : BitVec 6) (b : BitVec 6) (w : Bool)
  /-- MULH (R238): Writes bits 127:64 of the signed 128-bit product. -/
  | mulh (sl : Lane) (g : Guard) (d : BitVec 6) (a : BitVec 6) (b : BitVec 6) (w : Bool)
  /-- MULHN (R238): Writes bits 127:64 of the unsigned 128-bit product. -/
  | mulhn (sl : Lane) (g : Guard) (d : BitVec 6) (a : BitVec 6) (b : BitVec 6) (w : Bool)
  /-- DIV (R239): Signed division truncating toward zero; a zero divisor gives all ones and sets IDZ. -/
  | div (sl : Lane) (g : Guard) (d : BitVec 6) (a : BitVec 6) (b : BitVec 6) (w : Bool)
  /-- DIVN (R239): Unsigned division; a zero divisor gives all ones and sets IDZ. -/
  | divn (sl : Lane) (g : Guard) (d : BitVec 6) (a : BitVec 6) (b : BitVec 6) (w : Bool)
  /-- REM (R239): Signed remainder with the dividend's sign. -/
  | rem (sl : Lane) (g : Guard) (d : BitVec 6) (a : BitVec 6) (b : BitVec 6) (w : Bool)
  /-- REMN (R239): Unsigned remainder. -/
  | remn (sl : Lane) (g : Guard) (d : BitVec 6) (a : BitVec 6) (b : BitVec 6) (w : Bool)
  /-- MIN (R238): Signed minimum. -/
  | min (sl : Lane) (g : Guard) (d : BitVec 6) (a : BitVec 6) (b : BitVec 6) (w : Bool)
  /-- MAX (R238): Signed maximum. -/
  | max (sl : Lane) (g : Guard) (d : BitVec 6) (a : BitVec 6) (b : BitVec 6) (w : Bool)
  /-- MINN (R238): Unsigned minimum. -/
  | minn (sl : Lane) (g : Guard) (d : BitVec 6) (a : BitVec 6) (b : BitVec 6) (w : Bool)
  /-- MAXN (R238): Unsigned maximum. -/
  | maxn (sl : Lane) (g : Guard) (d : BitVec 6) (a : BitVec 6) (b : BitVec 6) (w : Bool)
  /-- ABS (R238): Signed absolute value; -2^63 stays -2^63. -/
  | abs (sl : Lane) (g : Guard) (d : BitVec 6) (a : BitVec 6) (w : Bool)
  /-- AND (R238): Bitwise AND of two sources. -/
  | and (sl : Lane) (g : Guard) (d : BitVec 6) (a : BitVec 6) (b : BitVec 6) (w : Bool)
  /-- OR (R238): Bitwise OR of two sources. -/
  | or (sl : Lane) (g : Guard) (d : BitVec 6) (a : BitVec 6) (b : BitVec 6) (w : Bool)
  /-- XOR (R238): Bitwise XOR of two sources. -/
  | xor (sl : Lane) (g : Guard) (d : BitVec 6) (a : BitVec 6) (b : BitVec 6) (w : Bool)
  /-- ANDN (R238): Computes a AND NOT b. -/
  | andn (sl : Lane) (g : Guard) (d : BitVec 6) (a : BitVec 6) (b : BitVec 6) (w : Bool)
  /-- SHL (R238): Shifts left by an unsigned amount; 64 or more gives 0. -/
  | shl (sl : Lane) (g : Guard) (d : BitVec 6) (a : BitVec 6) (b : BitVec 6) (w : Bool)
  /-- SHR (R238): Logical right shift; 64 or more gives 0. -/
  | shr (sl : Lane) (g : Guard) (d : BitVec 6) (a : BitVec 6) (b : BitVec 6) (w : Bool)
  /-- SRA (R238): Arithmetic right shift; 64 or more gives copies of the sign. -/
  | sra (sl : Lane) (g : Guard) (d : BitVec 6) (a : BitVec 6) (b : BitVec 6) (w : Bool)
  /-- ROL (R238): Rotates left by b mod 64. -/
  | rol (sl : Lane) (g : Guard) (d : BitVec 6) (a : BitVec 6) (b : BitVec 6) (w : Bool)
  /-- CLZ (R238): Counts leading zeros. -/
  | clz (sl : Lane) (g : Guard) (d : BitVec 6) (a : BitVec 6) (w : Bool)
  /-- CTZ (R238): Counts trailing zeros, 64 for zero. -/
  | ctz (sl : Lane) (g : Guard) (d : BitVec 6) (a : BitVec 6) (w : Bool)
  /-- POPC (R238): Counts set bits. -/
  | popc (sl : Lane) (g : Guard) (d : BitVec 6) (a : BitVec 6) (w : Bool)
  /-- SEL (R240): Selects a or b into s0-s15 by a predicate read before the group's writes. -/
  | sel (sl : Lane) (g : Guard) (p : BitVec 4) (d : BitVec 4) (a : BitVec 6) (b : BitVec 6)
  /-- ADD_IMM (R238): Adds a sign-extended imm8. -/
  | addImm (sl : Lane) (g : Guard) (d : BitVec 6) (a : BitVec 6) (i : BitVec 8)
  /-- MUL_IMM (R238): Multiplies by a sign-extended imm8. -/
  | mulImm (sl : Lane) (g : Guard) (d : BitVec 6) (a : BitVec 6) (i : BitVec 8)
  /-- AND_IMM (R238): ANDs with a sign-extended imm8. -/
  | andImm (sl : Lane) (g : Guard) (d : BitVec 6) (a : BitVec 6) (i : BitVec 8)
  /-- OR_IMM (R238): ORs with a sign-extended imm8. -/
  | orImm (sl : Lane) (g : Guard) (d : BitVec 6) (a : BitVec 6) (i : BitVec 8)
  /-- XOR_IMM (R238): XORs with a sign-extended imm8. -/
  | xorImm (sl : Lane) (g : Guard) (d : BitVec 6) (a : BitVec 6) (i : BitVec 8)
  /-- SHL_IMM (R238): Shifts left by imm8 treated as unsigned 64-bit. -/
  | shlImm (sl : Lane) (g : Guard) (d : BitVec 6) (a : BitVec 6) (i : BitVec 8)
  /-- SHR_IMM (R238): Logical right shift by imm8. -/
  | shrImm (sl : Lane) (g : Guard) (d : BitVec 6) (a : BitVec 6) (i : BitVec 8)
  /-- SRA_IMM (R238): Arithmetic right shift by imm8. -/
  | sraImm (sl : Lane) (g : Guard) (d : BitVec 6) (a : BitVec 6) (i : BitVec 8)
  /-- ROL_IMM (R238): Rotates left by imm8 mod 64. -/
  | rolImm (sl : Lane) (g : Guard) (d : BitVec 6) (a : BitVec 6) (i : BitVec 8)
  /-- MOVI (R241): Sets D to the sign-extended imm14. -/
  | movi (sl : Lane) (g : Guard) (d : BitVec 6) (i : BitVec 14)
  /-- MOVK (R241): Shifts D left by 14 and ORs in the unsigned imm14. -/
  | movk (sl : Lane) (g : Guard) (d : BitVec 6) (i : BitVec 14)
  /-- CMP_EQ (R242): Writes bit-pattern equality and its complement to two predicates. -/
  | cmpEq (sl : Lane) (g : Guard) (p : BitVec 4) (q : BitVec 4) (a : BitVec 6) (b : BitVec 6)
  /-- CMP_NE (R242): Writes inequality and its complement to two predicates. -/
  | cmpNe (sl : Lane) (g : Guard) (p : BitVec 4) (q : BitVec 4) (a : BitVec 6) (b : BitVec 6)
  /-- CMP_LT (R242): Signed less-than into a predicate pair. -/
  | cmpLt (sl : Lane) (g : Guard) (p : BitVec 4) (q : BitVec 4) (a : BitVec 6) (b : BitVec 6)
  /-- CMP_LE (R242): Signed less-or-equal into a predicate pair. -/
  | cmpLe (sl : Lane) (g : Guard) (p : BitVec 4) (q : BitVec 4) (a : BitVec 6) (b : BitVec 6)
  /-- CMP_GT (R242): Signed greater-than into a predicate pair. -/
  | cmpGt (sl : Lane) (g : Guard) (p : BitVec 4) (q : BitVec 4) (a : BitVec 6) (b : BitVec 6)
  /-- CMP_GE (R242): Signed greater-or-equal into a predicate pair. -/
  | cmpGe (sl : Lane) (g : Guard) (p : BitVec 4) (q : BitVec 4) (a : BitVec 6) (b : BitVec 6)
  /-- CMP_LTN (R242): Unsigned less-than into a predicate pair. -/
  | cmpLtn (sl : Lane) (g : Guard) (p : BitVec 4) (q : BitVec 4) (a : BitVec 6) (b : BitVec 6)
  /-- CMP_LEN (R242): Unsigned less-or-equal into a predicate pair. -/
  | cmpLen (sl : Lane) (g : Guard) (p : BitVec 4) (q : BitVec 4) (a : BitVec 6) (b : BitVec 6)
  /-- CMP_GTN (R242): Unsigned greater-than into a predicate pair. -/
  | cmpGtn (sl : Lane) (g : Guard) (p : BitVec 4) (q : BitVec 4) (a : BitVec 6) (b : BitVec 6)
  /-- CMP_GEN (R242): Unsigned greater-or-equal into a predicate pair. -/
  | cmpGen (sl : Lane) (g : Guard) (p : BitVec 4) (q : BitVec 4) (a : BitVec 6) (b : BitVec 6)
  /-- PAND (R243): ANDs two predicates into P1 and its complement into P2. -/
  | pand (sl : Lane) (g : Guard) (p : BitVec 4) (q : BitVec 4) (a : BitVec 4) (b : BitVec 4)
  /-- POR (R243): ORs two predicates into P1 and its complement into P2. -/
  | por (sl : Lane) (g : Guard) (p : BitVec 4) (q : BitVec 4) (a : BitVec 4) (b : BitVec 4)
  /-- PXOR (R243): XORs two predicates into P1 and its complement into P2. -/
  | pxor (sl : Lane) (g : Guard) (p : BitVec 4) (q : BitVec 4) (a : BitVec 4) (b : BitVec 4)
  /-- PNOT (R243): Writes NOT pa to P1 and pa to P2. -/
  | pnot (sl : Lane) (g : Guard) (p : BitVec 4) (q : BitVec 4) (a : BitVec 4)
  /-- QSET (R244): Writes one 64-bit word of a stream register from source A. -/
  | qset (g : Guard) (d : BitVec 6) (a : BitVec 6)
  /-- XSET (R244): Writes one 64-bit word of a staging register from source A. -/
  | xset (g : Guard) (d : BitVec 6) (a : BitVec 6)
  /-- HSET (R244): Writes a fast-weight handle register from source A. -/
  | hset (g : Guard) (d : BitVec 6) (a : BitVec 6)
  /-- VCFG (R244): Writes VCFG from source A for later groups. -/
  | vcfg (g : Guard) (a : BitVec 6)
  /-- BTSET_OFFSET (R244): Sets a branch-target register to the bundle address plus 4 times imm14. -/
  | btsetOffset (g : Guard) (d : BitVec 6) (i : BitVec 14)
  /-- BTSET_REGISTER (R244): Sets a branch-target register from a source with bits 1:0 cleared. -/
  | btsetRegister (g : Guard) (d : BitVec 6) (a : BitVec 6)
  /-- RDSR (R245): Reads a control register named by its CSR number into D. -/
  | rdsr (g : Guard) (d : BitVec 6) (c : BitVec 14)
  /-- WRSR (R245): Writes a control register named by its CSR number, under its field map. -/
  | wrsr (g : Guard) (sr : BitVec 6) (c : BitVec 14)
  /-- TREAD (R247): Reads the 48-bit device time into D. -/
  | tread (g : Guard) (d : BitVec 6)
  /-- LD_1 (R248): Loads one byte zero-extended. -/
  | ld1 (g : Guard) (d : BitVec 6) (b : BitVec 6) (o : BitVec 8)
  /-- LD_2 (R248): Loads two bytes zero-extended. -/
  | ld2 (g : Guard) (d : BitVec 6) (b : BitVec 6) (o : BitVec 8)
  /-- LD_4 (R248): Loads four bytes zero-extended. -/
  | ld4 (g : Guard) (d : BitVec 6) (b : BitVec 6) (o : BitVec 8)
  /-- LD (R248): Loads eight bytes. -/
  | ld (g : Guard) (d : BitVec 6) (b : BitVec 6) (o : BitVec 8)
  /-- LD_4_ACQ (R253): Four-byte load with acquire. -/
  | ld4Acq (g : Guard) (d : BitVec 6) (b : BitVec 6) (o : BitVec 8)
  /-- LD_ACQ (R253): Eight-byte load with acquire. -/
  | ldAcq (g : Guard) (d : BitVec 6) (b : BitVec 6) (o : BitVec 8)
  /-- ST_1 (R248): Stores the low byte of Data. -/
  | st1 (g : Guard) (d : BitVec 6) (b : BitVec 6) (o : BitVec 8)
  /-- ST_2 (R248): Stores the low two bytes of Data. -/
  | st2 (g : Guard) (d : BitVec 6) (b : BitVec 6) (o : BitVec 8)
  /-- ST_4 (R248): Stores the low four bytes of Data. -/
  | st4 (g : Guard) (d : BitVec 6) (b : BitVec 6) (o : BitVec 8)
  /-- ST (R248): Stores eight bytes of Data. -/
  | st (g : Guard) (d : BitVec 6) (b : BitVec 6) (o : BitVec 8)
  /-- ST_4_REL (R253): Four-byte store with release. -/
  | st4Rel (g : Guard) (d : BitVec 6) (b : BitVec 6) (o : BitVec 8)
  /-- ST_REL (R253): Eight-byte store with release. -/
  | stRel (g : Guard) (d : BitVec 6) (b : BitVec 6) (o : BitVec 8)
  /-- LDF (R249): Waits for full, loads, leaves full; acquire at cluster scope. -/
  | ldf (g : Guard) (d : BitVec 6) (b : BitVec 6) (o : BitVec 8)
  /-- LDF_DOM (R249): As ldf with acquire at domain scope. -/
  | ldfDom (g : Guard) (d : BitVec 6) (b : BitVec 6) (o : BitVec 8)
  /-- LDFE (R249): Waits for full, loads and sets the word empty. -/
  | ldfe (g : Guard) (d : BitVec 6) (b : BitVec 6) (o : BitVec 8)
  /-- LDFE_DOM (R249): As ldfe with acquire at domain scope. -/
  | ldfeDom (g : Guard) (d : BitVec 6) (b : BitVec 6) (o : BitVec 8)
  /-- STE (R249): Waits for empty, stores and sets full; release at cluster scope. -/
  | ste (g : Guard) (d : BitVec 6) (b : BitVec 6) (o : BitVec 8)
  /-- STE_DOM (R249): As ste with release at domain scope. -/
  | steDom (g : Guard) (d : BitVec 6) (b : BitVec 6) (o : BitVec 8)
  /-- STF (R249): Stores and sets full without waiting. -/
  | stf (g : Guard) (d : BitVec 6) (b : BitVec 6) (o : BitVec 8)
  /-- STF_DOM (R249): As stf with release at domain scope. -/
  | stfDom (g : Guard) (d : BitVec 6) (b : BitVec 6) (o : BitVec 8)
  /-- FESET (R249): Sets a scratchpad word's full/empty bit to full. -/
  | feset (g : Guard) (b : BitVec 6) (o : BitVec 8)
  /-- FECLR (R249): Sets a scratchpad word's full/empty bit to empty. -/
  | feclr (g : Guard) (b : BitVec 6) (o : BitVec 8)
  /-- AADD_4 (R251): Four-byte atomic add returning the old value. -/
  | aadd4 (g : Guard) (d : BitVec 6) (b : BitVec 6) (r : BitVec 2) (sr : BitVec 6)
  /-- AADD (R251): Eight-byte atomic add returning the old value. -/
  | aadd (g : Guard) (d : BitVec 6) (b : BitVec 6) (r : BitVec 2) (sr : BitVec 6)
  /-- AAND_4 (R251): Four-byte atomic AND. -/
  | aand4 (g : Guard) (d : BitVec 6) (b : BitVec 6) (r : BitVec 2) (sr : BitVec 6)
  /-- AAND (R251): Eight-byte atomic AND. -/
  | aand (g : Guard) (d : BitVec 6) (b : BitVec 6) (r : BitVec 2) (sr : BitVec 6)
  /-- AOR_4 (R251): Four-byte atomic OR. -/
  | aor4 (g : Guard) (d : BitVec 6) (b : BitVec 6) (r : BitVec 2) (sr : BitVec 6)
  /-- AOR (R251): Eight-byte atomic OR. -/
  | aor (g : Guard) (d : BitVec 6) (b : BitVec 6) (r : BitVec 2) (sr : BitVec 6)
  /-- AXOR_4 (R251): Four-byte atomic XOR. -/
  | axor4 (g : Guard) (d : BitVec 6) (b : BitVec 6) (r : BitVec 2) (sr : BitVec 6)
  /-- AXOR (R251): Eight-byte atomic XOR. -/
  | axor (g : Guard) (d : BitVec 6) (b : BitVec 6) (r : BitVec 2) (sr : BitVec 6)
  /-- AMIN_4 (R251): Four-byte atomic signed minimum. -/
  | amin4 (g : Guard) (d : BitVec 6) (b : BitVec 6) (r : BitVec 2) (sr : BitVec 6)
  /-- AMIN (R251): Eight-byte atomic signed minimum. -/
  | amin (g : Guard) (d : BitVec 6) (b : BitVec 6) (r : BitVec 2) (sr : BitVec 6)
  /-- AMAX_4 (R251): Four-byte atomic signed maximum. -/
  | amax4 (g : Guard) (d : BitVec 6) (b : BitVec 6) (r : BitVec 2) (sr : BitVec 6)
  /-- AMAX (R251): Eight-byte atomic signed maximum. -/
  | amax (g : Guard) (d : BitVec 6) (b : BitVec 6) (r : BitVec 2) (sr : BitVec 6)
  /-- AMINN_4 (R251): Four-byte atomic unsigned minimum. -/
  | aminn4 (g : Guard) (d : BitVec 6) (b : BitVec 6) (r : BitVec 2) (sr : BitVec 6)
  /-- AMINN (R251): Eight-byte atomic unsigned minimum. -/
  | aminn (g : Guard) (d : BitVec 6) (b : BitVec 6) (r : BitVec 2) (sr : BitVec 6)
  /-- AMAXN_4 (R251): Four-byte atomic unsigned maximum. -/
  | amaxn4 (g : Guard) (d : BitVec 6) (b : BitVec 6) (r : BitVec 2) (sr : BitVec 6)
  /-- AMAXN (R251): Eight-byte atomic unsigned maximum. -/
  | amaxn (g : Guard) (d : BitVec 6) (b : BitVec 6) (r : BitVec 2) (sr : BitVec 6)
  /-- AXCHG_4 (R251): Four-byte atomic exchange. -/
  | axchg4 (g : Guard) (d : BitVec 6) (b : BitVec 6) (r : BitVec 2) (sr : BitVec 6)
  /-- AXCHG (R251): Eight-byte atomic exchange. -/
  | axchg (g : Guard) (d : BitVec 6) (b : BitVec 6) (r : BitVec 2) (sr : BitVec 6)
  /-- ACAS_4 (R251): Four-byte compare-and-swap against Data's prior value. -/
  | acas4 (g : Guard) (d : BitVec 6) (b : BitVec 6) (r : BitVec 2) (sr : BitVec 6)
  /-- ACAS (R251): Eight-byte compare-and-swap against Data's prior value. -/
  | acas (g : Guard) (d : BitVec 6) (b : BitVec 6) (r : BitVec 2) (sr : BitVec 6)
  /-- AFADD_F32 (R251): FP32 atomic add rounded to nearest even. -/
  | afaddF32 (g : Guard) (d : BitVec 6) (b : BitVec 6) (r : BitVec 2) (sr : BitVec 6)
  /-- AFADD_F64 (R251): FP64 atomic add rounded to nearest even. -/
  | afaddF64 (g : Guard) (d : BitVec 6) (b : BitVec 6) (r : BitVec 2) (sr : BitVec 6)
  /-- AFMIN_F32 (R252): FP32 atomic minimum. -/
  | afminF32 (g : Guard) (d : BitVec 6) (b : BitVec 6) (r : BitVec 2) (sr : BitVec 6)
  /-- AFMAX_F32 (R252): FP32 atomic maximum. -/
  | afmaxF32 (g : Guard) (d : BitVec 6) (b : BitVec 6) (r : BitVec 2) (sr : BitVec 6)
  /-- AFMIN_F64 (R252): FP64 atomic minimum. -/
  | afminF64 (g : Guard) (d : BitVec 6) (b : BitVec 6) (r : BitVec 2) (sr : BitVec 6)
  /-- AFMAX_F64 (R252): FP64 atomic maximum. -/
  | afmaxF64 (g : Guard) (d : BitVec 6) (b : BitVec 6) (r : BitVec 2) (sr : BitVec 6)
  /-- CHUNK (R256): Hands out a guided chunk from a 16-byte counter object indivisibly. -/
  | chunk (g : Guard) (d : BitVec 6) (b : BitVec 6) (r : BitVec 2)
  /-- FENCE (R255): Orders later slot-B and X remote accesses after earlier ones at a scope. -/
  | fence (g : Guard) (i : BitVec 14)
  /-- DRAIN (R255): Stalls until every earlier access has performed at a scope. -/
  | drain (g : Guard) (i : BitVec 14)
  /-- BAR_ARR (R258): Arrives at a barrier and returns its phase. -/
  | barArr (g : Guard) (d : BitVec 6) (a : BitVec 6) (w : Bool)
  /-- BAR_WT (R258): Waits until a barrier's phase differs from a given bit. -/
  | barWt (g : Guard) (a : BitVec 6) (b : BitVec 6)
  /-- BAR_SYNC (R258): Arrives at a barrier and waits for its phase to change. -/
  | barSync (g : Guard) (a : BitVec 6)
  /-- CFSET (R259): Sets a counting flag's count and its status to OK. -/
  | cfset (g : Guard) (d : BitVec 6) (a : BitVec 6)
  /-- CFADD (R259): Posts a count with release to a flag of any core. -/
  | cfadd (g : Guard) (a : BitVec 6) (b : BitVec 6)
  /-- CFRD (R259): Reads a flag's status and count. -/
  | cfrd (g : Guard) (d : BitVec 6) (f : BitVec 6)
  /-- FRES (R261): Resolves a future at its bank or answers DOUBLE_RESOLVE. -/
  | fres (g : Guard) (a : BitVec 6) (b : BitVec 6)
  /-- FJOIN (R262): Registers a join word on a future or decrements it at once. -/
  | fjoin (g : Guard) (d : BitVec 6) (a : BitVec 6) (b : BitVec 6) (w : Bool)
  /-- FPOLL (R263): Reads a future's state, acquiring on resolution. -/
  | fpoll (g : Guard) (d : BitVec 6) (a : BitVec 6) (w : Bool)
  /-- XINV (R264): Kernel invalidation of cached translations and code at a scope. -/
  | xinv (g : Guard) (a : BitVec 6) (b : BitVec 6)
  /-- NOP (R191): Does nothing in its slot. -/
  | nop (sl : Slot) (g : Guard)
  /-- BR (R265): Branches by a signed word offset. -/
  | br (g : Guard) (o : BitVec 20)
  /-- BRT (R185): Tree branch choosing one of five targets from four predicates and setting path predicates. -/
  | brt (g : Guard) (sr : BitVec 2) (t : BitVec 4) (u : BitVec 4) (v : BitVec 4) (w : BitVec 4) (b : BitVec 2)
  /-- CALL (R265): Branches by offset and writes the return address to s47. -/
  | call (g : Guard) (o : BitVec 20)
  /-- CALLR (R265): Calls to a register target. -/
  | callr (g : Guard) (sr : BitVec 6)
  /-- RET (R265): Returns to s47. -/
  | ret (g : Guard)
  /-- JR (R265): Jumps to a register target. -/
  | jr (g : Guard) (sr : BitVec 6)
  /-- JT (R187): Jumps through a code jump table or raises JT_RANGE. -/
  | jt (g : Guard) (i : BitVec 6) (o : BitVec 14)
  /-- LOOP_LC0 (R266): Decrements lc0 and branches while it exceeds 1. -/
  | loopLc0 (g : Guard) (o : BitVec 20)
  /-- LOOP_LC1 (R266): Decrements lc1 and branches while it exceeds 1. -/
  | loopLc1 (g : Guard) (o : BitVec 20)
  /-- SUSPEND (R267): Writes the continuation record and parks the block. -/
  | suspend (g : Guard)
  /-- YIELD (R267): Writes the continuation record and requeues it as ready. -/
  | yield (g : Guard)
  /-- END (R267): Retires the block. -/
  | endBlock (g : Guard)
  /-- END_F (R267): Resolves a future with s2 and retires the block. -/
  | endF (g : Guard) (sr : BitVec 6)
  /-- TRAP (R268): Raises TRAP_INSTR with an 8-bit code. -/
  | trap (g : Guard) (i : BitVec 8)
  /-- UIRET (R399): Returns from the user handler, retrying the trapped group. -/
  | uiret (g : Guard)
  /-- UIRET_SKIP (R399): Returns from the user handler to the group after the trapped one. -/
  | uiretSkip (g : Guard)
  /-- ERET (R402): Returns from the system handler to the kernel bank's s47. -/
  | eret (g : Guard)
  /-- HALT (R268): Kernel stop of the core until a partition reset or management restart. -/
  | halt (g : Guard)
  /-- VADD (R275): Integer element-wise add. -/
  | vadd (g : Guard) (d : BitVec 5) (a : BitVec 5) (b : BitVec 5) (p : BitVec 2) (q : BitVec 2) (k : Bool)
  /-- VSUB (R275): Integer element-wise subtract. -/
  | vsub (g : Guard) (d : BitVec 5) (a : BitVec 5) (b : BitVec 5) (p : BitVec 2) (q : BitVec 2) (k : Bool)
  /-- VMUL (R275): Integer element-wise multiply. -/
  | vmul (g : Guard) (d : BitVec 5) (a : BitVec 5) (b : BitVec 5) (p : BitVec 2) (q : BitVec 2) (k : Bool)
  /-- VMULH (R275): High half of the element product. -/
  | vmulh (g : Guard) (d : BitVec 5) (a : BitVec 5) (b : BitVec 5) (p : BitVec 2) (q : BitVec 2) (k : Bool)
  /-- VADDSAT (R275): Saturating element add setting SAT when clamped. -/
  | vaddsat (g : Guard) (d : BitVec 5) (a : BitVec 5) (b : BitVec 5) (p : BitVec 2) (q : BitVec 2) (k : Bool)
  /-- VSUBSAT (R275): Saturating element subtract. -/
  | vsubsat (g : Guard) (d : BitVec 5) (a : BitVec 5) (b : BitVec 5) (p : BitVec 2) (q : BitVec 2) (k : Bool)
  /-- VAVG (R275): Rounded-up element average. -/
  | vavg (g : Guard) (d : BitVec 5) (a : BitVec 5) (b : BitVec 5) (p : BitVec 2) (q : BitVec 2) (k : Bool)
  /-- VMIN (R275): Integer element minimum. -/
  | vmin (g : Guard) (d : BitVec 5) (a : BitVec 5) (b : BitVec 5) (p : BitVec 2) (q : BitVec 2) (k : Bool)
  /-- VMAX (R275): Integer element maximum. -/
  | vmax (g : Guard) (d : BitVec 5) (a : BitVec 5) (b : BitVec 5) (p : BitVec 2) (q : BitVec 2) (k : Bool)
  /-- VABS (R275): Integer element absolute value. -/
  | vabs (g : Guard) (d : BitVec 5) (a : BitVec 5) (p : BitVec 2) (k : Bool)
  /-- VAND (R275): Element bitwise AND. -/
  | vand (g : Guard) (d : BitVec 5) (a : BitVec 5) (b : BitVec 5) (p : BitVec 2) (q : BitVec 2) (k : Bool)
  /-- VOR (R275): Element bitwise OR. -/
  | vor (g : Guard) (d : BitVec 5) (a : BitVec 5) (b : BitVec 5) (p : BitVec 2) (q : BitVec 2) (k : Bool)
  /-- VXOR (R275): Element bitwise XOR. -/
  | vxor (g : Guard) (d : BitVec 5) (a : BitVec 5) (b : BitVec 5) (p : BitVec 2) (q : BitVec 2) (k : Bool)
  /-- VANDN (R275): Element a AND NOT b. -/
  | vandn (g : Guard) (d : BitVec 5) (a : BitVec 5) (b : BitVec 5) (p : BitVec 2) (q : BitVec 2) (k : Bool)
  /-- VSHL (R275): Element left shift. -/
  | vshl (g : Guard) (d : BitVec 5) (a : BitVec 5) (b : BitVec 5) (p : BitVec 2) (q : BitVec 2) (k : Bool)
  /-- VSHR (R275): Element logical right shift. -/
  | vshr (g : Guard) (d : BitVec 5) (a : BitVec 5) (b : BitVec 5) (p : BitVec 2) (q : BitVec 2) (k : Bool)
  /-- VSRA (R275): Element arithmetic right shift. -/
  | vsra (g : Guard) (d : BitVec 5) (a : BitVec 5) (b : BitVec 5) (p : BitVec 2) (q : BitVec 2) (k : Bool)
  /-- VCMP_EQ (R276): Integer equality into a mask. -/
  | vcmpEq (g : Guard) (m : BitVec 3) (a : BitVec 5) (b : BitVec 5) (p : BitVec 2) (q : BitVec 2) (k : Bool)
  /-- VCMP_NE (R276): Integer inequality into a mask. -/
  | vcmpNe (g : Guard) (m : BitVec 3) (a : BitVec 5) (b : BitVec 5) (p : BitVec 2) (q : BitVec 2) (k : Bool)
  /-- VCMP_LT (R276): Integer less-than into a mask. -/
  | vcmpLt (g : Guard) (m : BitVec 3) (a : BitVec 5) (b : BitVec 5) (p : BitVec 2) (q : BitVec 2) (k : Bool)
  /-- VCMP_LE (R276): Integer less-or-equal into a mask. -/
  | vcmpLe (g : Guard) (m : BitVec 3) (a : BitVec 5) (b : BitVec 5) (p : BitVec 2) (q : BitVec 2) (k : Bool)
  /-- VCMP_GT (R276): Integer greater-than into a mask. -/
  | vcmpGt (g : Guard) (m : BitVec 3) (a : BitVec 5) (b : BitVec 5) (p : BitVec 2) (q : BitVec 2) (k : Bool)
  /-- VCMP_GE (R276): Integer greater-or-equal into a mask. -/
  | vcmpGe (g : Guard) (m : BitVec 3) (a : BitVec 5) (b : BitVec 5) (p : BitVec 2) (q : BitVec 2) (k : Bool)
  /-- VSEL (R276): Selects elements by the MSEL mask over all N positions. -/
  | vsel (g : Guard) (d : BitVec 5) (a : BitVec 5) (b : BitVec 5) (p : BitVec 2) (q : BitVec 2)
  /-- VFADD (R278): Floating element add rounded once. -/
  | vfadd (g : Guard) (d : BitVec 5) (a : BitVec 5) (b : BitVec 5) (p : BitVec 2) (q : BitVec 2) (k : Bool)
  /-- VFSUB (R278): Floating element subtract. -/
  | vfsub (g : Guard) (d : BitVec 5) (a : BitVec 5) (b : BitVec 5) (p : BitVec 2) (q : BitVec 2) (k : Bool)
  /-- VFMUL (R278): Floating element multiply. -/
  | vfmul (g : Guard) (d : BitVec 5) (a : BitVec 5) (b : BitVec 5) (p : BitVec 2) (q : BitVec 2) (k : Bool)
  /-- VFFMA (R278): Fused a*b+d with one rounding. -/
  | vffma (g : Guard) (d : BitVec 5) (a : BitVec 5) (b : BitVec 5) (p : BitVec 2) (q : BitVec 2) (k : Bool)
  /-- VFFMS (R278): Fused a*b-d with one rounding. -/
  | vffms (g : Guard) (d : BitVec 5) (a : BitVec 5) (b : BitVec 5) (p : BitVec 2) (q : BitVec 2) (k : Bool)
  /-- VFNMA (R278): Fused -(a*b)+d with one rounding. -/
  | vfnma (g : Guard) (d : BitVec 5) (a : BitVec 5) (b : BitVec 5) (p : BitVec 2) (q : BitVec 2) (k : Bool)
  /-- VFMIN (R252): Floating element minimum. -/
  | vfmin (g : Guard) (d : BitVec 5) (a : BitVec 5) (b : BitVec 5) (p : BitVec 2) (q : BitVec 2) (k : Bool)
  /-- VFMAX (R252): Floating element maximum. -/
  | vfmax (g : Guard) (d : BitVec 5) (a : BitVec 5) (b : BitVec 5) (p : BitVec 2) (q : BitVec 2) (k : Bool)
  /-- VFDIV (R278): Floating element division. -/
  | vfdiv (g : Guard) (d : BitVec 5) (a : BitVec 5) (b : BitVec 5) (p : BitVec 2) (q : BitVec 2) (k : Bool)
  /-- VFSQRT (R278): Floating element square root. -/
  | vfsqrt (g : Guard) (d : BitVec 5) (a : BitVec 5) (p : BitVec 2) (k : Bool)
  /-- VFRCP (R279): Floating element reciprocal. -/
  | vfrcp (g : Guard) (d : BitVec 5) (a : BitVec 5) (p : BitVec 2) (k : Bool)
  /-- VFRSQ (R279): Floating element reciprocal square root. -/
  | vfrsq (g : Guard) (d : BitVec 5) (a : BitVec 5) (p : BitVec 2) (k : Bool)
  /-- VFEXP2 (R279): Base-2 exponential rounded to nearest even. -/
  | vfexp2 (g : Guard) (d : BitVec 5) (a : BitVec 5) (p : BitVec 2) (k : Bool)
  /-- VFLOG2 (R279): Base-2 logarithm rounded to nearest even. -/
  | vflog2 (g : Guard) (d : BitVec 5) (a : BitVec 5) (p : BitVec 2) (k : Bool)
  /-- VFTANH (R279): Hyperbolic tangent rounded to nearest even. -/
  | vftanh (g : Guard) (d : BitVec 5) (a : BitVec 5) (p : BitVec 2) (k : Bool)
  /-- VFCLS (R277): Writes each element's floating class code. -/
  | vfcls (g : Guard) (d : BitVec 5) (a : BitVec 5) (p : BitVec 2) (k : Bool)
  /-- VFCMP_EQ (R276): Floating equality into a mask. -/
  | vfcmpEq (g : Guard) (m : BitVec 3) (a : BitVec 5) (b : BitVec 5) (p : BitVec 2) (q : BitVec 2) (k : Bool)
  /-- VFCMP_NE (R276): Floating inequality into a mask. -/
  | vfcmpNe (g : Guard) (m : BitVec 3) (a : BitVec 5) (b : BitVec 5) (p : BitVec 2) (q : BitVec 2) (k : Bool)
  /-- VFCMP_LT (R276): Floating less-than into a mask. -/
  | vfcmpLt (g : Guard) (m : BitVec 3) (a : BitVec 5) (b : BitVec 5) (p : BitVec 2) (q : BitVec 2) (k : Bool)
  /-- VFCMP_LE (R276): Floating less-or-equal into a mask. -/
  | vfcmpLe (g : Guard) (m : BitVec 3) (a : BitVec 5) (b : BitVec 5) (p : BitVec 2) (q : BitVec 2) (k : Bool)
  /-- VFCMP_GT (R276): Floating greater-than into a mask. -/
  | vfcmpGt (g : Guard) (m : BitVec 3) (a : BitVec 5) (b : BitVec 5) (p : BitVec 2) (q : BitVec 2) (k : Bool)
  /-- VFCMP_GE (R276): Floating greater-or-equal into a mask. -/
  | vfcmpGe (g : Guard) (m : BitVec 3) (a : BitVec 5) (b : BitVec 5) (p : BitVec 2) (q : BitVec 2) (k : Bool)
  /-- VCVT (R280): Converts elements to a target format, optionally saturating. -/
  | vcvt (g : Guard) (d : BitVec 5) (a : BitVec 5) (t : BitVec 5) (p : BitVec 2) (sr : Bool) (k : Bool)
  /-- VMXPACK (R281): Forms MX blocks and scales from wider values. -/
  | vmxpack (g : Guard) (d : BitVec 5) (a : BitVec 5) (f : BitVec 5) (p : BitVec 2)
  /-- VMXUNPACK (R282): Expands MX blocks to VCFG.TYPE values. -/
  | vmxunpack (g : Guard) (d : BitVec 5) (a : BitVec 5) (f : BitVec 5) (p : BitVec 2)
  /-- VREDADD (R283): Tree sum of each row. -/
  | vredadd (g : Guard) (d : BitVec 5) (a : BitVec 5) (p : BitVec 2) (k : Bool)
  /-- VREDMIN (R283): Tree minimum of each row. -/
  | vredmin (g : Guard) (d : BitVec 5) (a : BitVec 5) (p : BitVec 2) (k : Bool)
  /-- VREDMAX (R283): Tree maximum of each row. -/
  | vredmax (g : Guard) (d : BitVec 5) (a : BitVec 5) (p : BitVec 2) (k : Bool)
  /-- VSCAN (R283): Inclusive running sum of each row. -/
  | vscan (g : Guard) (d : BitVec 5) (a : BitVec 5) (p : BitVec 2) (k : Bool)
  /-- VPERM (R284): Gathers elements by index. -/
  | vperm (g : Guard) (d : BitVec 5) (a : BitVec 5) (b : BitVec 5) (p : BitVec 2) (q : BitVec 2) (k : Bool)
  /-- VCOMPRESS (R284): Packs masked elements to the front. -/
  | vcompress (g : Guard) (d : BitVec 5) (a : BitVec 5) (p : BitVec 2)
  /-- VEXPAND (R284): Spreads leading elements to masked positions. -/
  | vexpand (g : Guard) (d : BitVec 5) (a : BitVec 5) (p : BitVec 2)
  /-- VMOV (R284): Copies active elements with their poison. -/
  | vmov (g : Guard) (d : BitVec 5) (a : BitVec 5) (p : BitVec 2) (k : Bool)
  /-- VSPLAT (R284): Writes a scalar to every active position. -/
  | vsplat (g : Guard) (d : BitVec 5) (sr : BitVec 6) (k : Bool)
  /-- VEXT (R284): Extracts one element into a scalar register. -/
  | vext (g : Guard) (sr : BitVec 6) (a : BitVec 5) (i : BitVec 6)
  /-- VINS (R284): Inserts a scalar into one element position. -/
  | vins (g : Guard) (d : BitVec 5) (v : BitVec 6) (i : BitVec 6)
  /-- MAND (R285): Mask AND over 4096 bits. -/
  | mand (g : Guard) (d : BitVec 3) (a : BitVec 3) (b : BitVec 3)
  /-- MOR (R285): Mask OR over 4096 bits. -/
  | mor (g : Guard) (d : BitVec 3) (a : BitVec 3) (b : BitVec 3)
  /-- MXOR (R285): Mask XOR over 4096 bits. -/
  | mxor (g : Guard) (d : BitVec 3) (a : BitVec 3) (b : BitVec 3)
  /-- MNOT (R285): Mask complement. -/
  | mnot (g : Guard) (d : BitVec 3) (a : BitVec 3)
  /-- MPOPC (R285): Counts set mask bits below N into a scalar. -/
  | mpopc (g : Guard) (sr : BitVec 6) (m : BitVec 3)
  /-- MFIRST (R285): Writes the lowest set mask position below N. -/
  | mfirst (g : Guard) (sr : BitVec 6) (m : BitVec 3)
  /-- LACLR (R286): Clears a long accumulator and its sticky bits. -/
  | laclr (g : Guard) (l : BitVec 2)
  /-- LAFMA (R286): Adds exact FP64 products of active pairs to a long accumulator. -/
  | lafma (g : Guard) (l : BitVec 2) (a : BitVec 5) (b : BitVec 5) (p : BitVec 2) (q : BitVec 2) (k : Bool)
  /-- LAADD (R286): Adds active FP64 elements exactly to a long accumulator. -/
  | laadd (g : Guard) (l : BitVec 2) (a : BitVec 5) (p : BitVec 2) (k : Bool)
  /-- LAROUND (R287): Rounds a long accumulator to FP64 into a vector register. -/
  | laround (g : Guard) (d : BitVec 5) (l : BitVec 2)
  /-- LASGN (R287): Writes the accumulator's sign into a predicate pair. -/
  | lasgn (g : Guard) (p : BitVec 4) (q : BitVec 4) (l : BitVec 2)
  /-- LAMOV_TO_VECTOR (R288): Copies L and sticky bits into a vector register. -/
  | lamovToVector (g : Guard) (d : BitVec 5) (l : BitVec 2)
  /-- LAMOV_FROM_VECTOR (R288): Loads L and sticky bits from a vector register. -/
  | lamovFromVector (g : Guard) (l : BitVec 2) (a : BitVec 5)
  /-- MMA (R294): Matrix product into a tile, queued on the full path or as a partial sum on the narrow path. -/
  | mma (g : Guard) (c : BitVec 4) (a : BitVec 4) (b : BitVec 4) (o : BitVec 8)
  /-- MMA_SP (R294): Matrix product with a bitmap-sparse b stream. -/
  | mmaSp (g : Guard) (c : BitVec 4) (a : BitVec 4) (b : BitVec 4) (o : BitVec 8)
  /-- MMA_MK (R294): Full-path product masked by the mask block. -/
  | mmaMk (g : Guard) (c : BitVec 4) (a : BitVec 4) (b : BitVec 4) (o : BitVec 8)
  /-- MSCALE (R298): Scales the port's partial sum into its accumulator or counts EMPTY. -/
  | mscale (g : Guard)
  /-- MMA_S (R289): mma fused with an mscale in the same issue cycle. -/
  | mmaS (g : Guard) (c : BitVec 4) (a : BitVec 4) (b : BitVec 4) (o : BitVec 8)
  /-- MMA_SP_S (R289): mma.sp fused with an mscale. -/
  | mmaSpS (g : Guard) (c : BitVec 4) (a : BitVec 4) (b : BitVec 4) (o : BitVec 8)
  /-- MZERO (R302): Zeroes a tile. -/
  | mzero (g : Guard) (t : BitVec 4)
  /-- MCVT (R302): Converts a tile to another element format. -/
  | mcvt (g : Guard) (sr : BitVec 4) (d : BitVec 4) (i : Bool) (t : BitVec 4) (r : BitVec 3) (a : Bool)
  /-- MMOV (R302): Copies a whole tile. -/
  | mmov (g : Guard) (d : BitVec 4) (sr : BitVec 4)
  /-- MTR (R302): Transposes a 64 by 64 tile. -/
  | mtr (g : Guard) (d : BitVec 4) (sr : BitVec 4) (e : BitVec 2)
  /-- MMASK (R295): Copies the mask block from a tile. -/
  | mmask (g : Guard) (t : BitVec 4)
  /-- MCLRMASK (R295): Sets every mask-block bit to 1. -/
  | mclrmask (g : Guard)
  /-- FWBIND (R309): Creates a zeroed LIVE object and writes its handle. -/
  | fwbind (g : Guard) (h : BitVec 4)
  /-- FWREAD (R308): Returns S times Q rows without changing S. -/
  | fwread (g : Guard) (q : BitVec 4) (h : BitVec 4)
  /-- FWSTEP_DELTA_PRE (R135): Delta-rule fused step returning Y. -/
  | fwstepDeltaPre (g : Guard) (k : BitVec 4) (v : BitVec 4) (q : BitVec 4) (h : BitVec 4)
  /-- FWSTEP_DELTA_POST (R135): Delta-rule fused step returning P. -/
  | fwstepDeltaPost (g : Guard) (k : BitVec 4) (v : BitVec 4) (q : BitVec 4) (h : BitVec 4)
  /-- FWSTEP_HEBB (R136): Hebbian fused step returning Y. -/
  | fwstepHebb (g : Guard) (k : BitVec 4) (v : BitVec 4) (q : BitVec 4) (h : BitVec 4)
  /-- FWSTEP_GRAD (R136): Gradient fused step from a supplied tile, returning Y. -/
  | fwstepGrad (g : Guard) (k : BitVec 4) (q : BitVec 4) (h : BitVec 4)
  /-- FWFADE (R136): Applies only the fade to S. -/
  | fwfade (g : Guard) (h : BitVec 4)
  /-- FWOUTER (R136): Adds outer products to S without fade. -/
  | fwouter (g : Guard) (k : BitVec 4) (v : BitVec 4) (h : BitVec 4)
  /-- FWCOMMIT (R130): Advances next_seq and releases matching waiters. -/
  | fwcommit (g : Guard) (h : BitVec 4)
  /-- FWSNAP (R138): Creates a shared SNAP object of the source. -/
  | fwsnap (g : Guard) (h : BitVec 4) (d : BitVec 4)
  /-- FWFORK (R138): Creates one to four LIVE children sharing the source's units. -/
  | fwfork (g : Guard) (c : BitVec 2) (h : BitVec 4) (d : BitVec 4)
  /-- FWAVG (R139): Writes the weighted mean of two to four sources into a target. -/
  | fwavg (g : Guard) (a : BitVec 4) (b : BitVec 4) (c : BitVec 4) (h : BitVec 4) (e : BitVec 4)
  /-- FWROLL (R140): Gives a LIVE target a snapshot's contents and sequence. -/
  | fwroll (g : Guard) (h : BitVec 4) (sr : BitVec 4)
  /-- FWDROP (R141): Frees an object's slot and raises its generation. -/
  | fwdrop (g : Guard) (h : BitVec 4)
  /-- FWMIGR (R145): Moves an object to another cluster leaving a forwarding stub. -/
  | fwmigr (g : Guard) (h : BitVec 4) (d : BitVec 4)
  /-- FWPAGEIN (R144): Starts or joins a state page-in and posts a flag when resident. -/
  | fwpagein (g : Guard) (h : BitVec 4) (f : BitVec 4)
  /-- FWEVICT (R311): Asks the pager to evict an object if it qualifies. -/
  | fwevict (g : Guard) (h : BitVec 4)
  /-- FWSTAT (R311): Writes a 64-byte object status record into a tile. -/
  | fwstat (g : Guard) (t : BitVec 4) (h : BitVec 4)
  /-- XLD (R208): Loads memory rows into a tile. -/
  | xld (g : Guard) (t : BitVec 4) (sr : BitVec 3) (f : BitVec 4) (i : Bool) (p : Bool) (e : Bool)
  /-- XLD_TR (R208): Loads memory rows into a tile transposed. -/
  | xldTr (g : Guard) (t : BitVec 4) (sr : BitVec 3) (f : BitVec 4) (i : Bool) (p : Bool) (e : Bool)
  /-- XST (R208): Stores tile rows to memory. -/
  | xst (g : Guard) (t : BitVec 4) (sr : BitVec 3) (f : BitVec 4) (i : Bool) (p : Bool) (e : Bool)
  /-- XLDV (R209): Loads LEN bytes into a vector register. -/
  | xldv (g : Guard) (v : BitVec 4) (sr : BitVec 3) (f : BitVec 4) (i : Bool) (p : Bool) (e : Bool) (w : Bool)
  /-- XSTV (R209): Stores LEN bytes of a vector register. -/
  | xstv (g : Guard) (v : BitVec 4) (sr : BitVec 3) (f : BitVec 4) (i : Bool) (p : Bool) (e : Bool) (w : Bool)
  /-- XLDW (R211): Fills weight-buffer regions and records their sources. -/
  | xldw (g : Guard) (sr : BitVec 3) (f : BitVec 4) (i : Bool) (p : Bool) (e : Bool)
  /-- XCOPY (R213): Copies bytes or MX blocks, optionally posting a remote flag. -/
  | xcopy (g : Guard) (sr : BitVec 3) (f : BitVec 4) (i : Bool) (p : Bool) (e : Bool) (x : Bool) (m : BitVec 3)
  /-- XFILL (R215): Fills memory with an address-tied pattern, optionally setting full/empty. -/
  | xfill (g : Guard) (sr : BitVec 3) (f : BitVec 4) (i : Bool) (p : Bool) (e : Bool) (a : BitVec 2)
  /-- XSUB (R216): Registers an IN ring. -/
  | xsub (g : Guard) (sr : BitVec 3) (f : BitVec 4) (i : Bool) (p : Bool) (e : Bool) (x : BitVec 3)
  /-- XPUB (R216): Registers an OUT ring. -/
  | xpub (g : Guard) (sr : BitVec 3) (f : BitVec 4) (i : Bool) (p : Bool) (e : Bool) (x : BitVec 3)
  /-- XUNSUB (R217): Releases a ring by index. -/
  | xunsub (g : Guard) (sr : BitVec 3) (f : BitVec 4) (i : Bool) (p : Bool) (e : Bool) (x : BitVec 3)
  /-- XPRE (R220): Requests page-ins for an extent. -/
  | xpre (g : Guard) (sr : BitVec 3) (f : BitVec 4) (i : Bool) (p : Bool) (e : Bool)
  /-- XPRE_BAR (R221): Prefetch that arrives at a barrier on completion. -/
  | xpreBar (g : Guard) (sr : BitVec 3) (f : BitVec 4) (i : Bool) (p : Bool) (e : Bool)
  /-- XPIN (R220): Brings pages in and raises their pin counts. -/
  | xpin (g : Guard) (sr : BitVec 3) (f : BitVec 4) (i : Bool) (p : Bool) (e : Bool)
  /-- XUNPIN (R220): Lowers pages' pin counts. -/
  | xunpin (g : Guard) (sr : BitVec 3) (f : BitVec 4) (i : Bool) (p : Bool) (e : Bool)
  /-- XMIG (R220): Moves pages to a named tier. -/
  | xmig (g : Guard) (sr : BitVec 3) (f : BitVec 4) (i : Bool) (p : Bool) (e : Bool) (t : BitVec 2)
  /-- XWAIT (R222): Stalls until a resource has no busy bit set. -/
  | xwait (g : Guard) (r : BitVec 4) (kd : BitVec 2) (v4 : Bool)
  /-- GGATH (R315): Gathers elements by index into a tile. -/
  | ggath (g : Guard) (t : BitVec 4) (f : BitVec 4) (p : Bool) (e : Bool) (q : Bool) (sr : BitVec 3)
  /-- GSCAT (R315): Scatters tile elements by index. -/
  | gscat (g : Guard) (t : BitVec 4) (f : BitVec 4) (p : Bool) (e : Bool) (q : Bool) (sr : BitVec 3)
  /-- GSPD (R316): Starts the sparse-index engine decoding metadata. -/
  | gspd (g : Guard) (f : BitVec 4) (p : Bool) (e : Bool) (r : BitVec 3) (sr : BitVec 3)
  /-- GCAR (R319): All-reduce over a collective group. -/
  | gcar (g : Guard) (u : BitVec 4) (f : BitVec 4) (p : Bool) (e : Bool) (sr : BitVec 3)
  /-- GCRED (R319): Reduce to the root member. -/
  | gcred (g : Guard) (u : BitVec 4) (f : BitVec 4) (p : Bool) (e : Bool) (sr : BitVec 3)
  /-- GCBC (R319): Broadcast from the root member. -/
  | gcbc (g : Guard) (u : BitVec 4) (f : BitVec 4) (p : Bool) (e : Bool) (sr : BitVec 3)
  /-- GCAG (R319): All-gather over a collective group. -/
  | gcag (g : Guard) (u : BitVec 4) (f : BitVec 4) (p : Bool) (e : Bool) (sr : BitVec 3)
  /-- GSEND (R322): Places a message descriptor in a remote mailbox. -/
  | gsend (g : Guard) (m : BitVec 2) (f : BitVec 4) (p : Bool) (e : Bool) (sr : BitVec 3)
  /-- GRECV (R322): Pairs with a mailbox descriptor and receives its bytes. -/
  | grecv (g : Guard) (m : BitVec 2) (f : BitVec 4) (p : Bool) (e : Bool) (sr : BitVec 3)
  /-- GENQ (R323): Sends a 64-byte record to a queue. -/
  | genq (g : Guard) (f : BitVec 4) (p : Bool) (e : Bool) (sr : BitVec 3)
  /-- GLAUNCH (R325): Builds and enqueues the records of a kernel launch. -/
  | glaunch (g : Guard) (f : BitVec 4) (p : Bool) (e : Bool) (sr : BitVec 3)
  /-- GALLOC (R326): Allocates from an arena, setting a predicate on failure. -/
  | galloc (g : Guard) (a : BitVec 4) (d : BitVec 6) (sr : BitVec 6) (p : BitVec 4)
  /-- GALLOC_R (R327): Retractable allocation tagged with the launch and block. -/
  | gallocR (g : Guard) (a : BitVec 4) (d : BitVec 6) (sr : BitVec 6) (p : BitVec 4)
  /-- GALLOC_F (R326): Allocation that raises ALLOC_EXHAUSTED on failure. -/
  | gallocF (g : Guard) (a : BitVec 4) (d : BitVec 6) (sr : BitVec 6)
  /-- GALLOC_F_R (R327): Retractable allocation that traps on failure. -/
  | gallocFR (g : Guard) (a : BitVec 4) (d : BitVec 6) (sr : BitVec 6)
  /-- GFREE (R326): Frees an allocation. -/
  | gfree (g : Guard) (a : BitVec 4) (sr : BitVec 6) (p : BitVec 4)
  /-- GRETRACT (R326): Frees the launch's retractable allocations from a block index upward. -/
  | gretract (g : Guard) (sr : BitVec 6)
  /-- STOPK (R328): Fills a candidate set with the top-K logits. -/
  | stopk (g : Guard) (u : BitVec 4) (f : BitVec 4) (p : Bool) (e : Bool) (sr : BitVec 3)
  /-- STEMP (R328): Divides every logit of a set by a temperature. -/
  | stemp (g : Guard) (u : BitVec 4) (f : BitVec 4) (p : Bool) (e : Bool) (sr : BitVec 3)
  /-- STOPP (R330): Cuts a set at cumulative probability P. -/
  | stopp (g : Guard) (u : BitVec 4) (f : BitVec 4) (p : Bool) (e : Bool) (sr : BitVec 3)
  /-- SGRAM (R328): Removes ids not admitted by a grammar bitmap. -/
  | sgram (g : Guard) (u : BitVec 4) (f : BitVec 4) (p : Bool) (e : Bool) (sr : BitVec 3)
  /-- SDRAW (R331): Draws a token from a set using a counter-based generator. -/
  | sdraw (g : Guard) (u : BitVec 4) (f : BitVec 4) (p : Bool) (e : Bool) (sr : BitVec 3)
  /-- SACCEPT (R332): Tests draft tokens against sets and writes the acceptance index. -/
  | saccept (g : Guard) (u : BitVec 4) (f : BitVec 4) (p : Bool) (e : Bool) (sr : BitVec 3)
  /-- STOK (R328): Writes a set's drawn-token word with release. -/
  | stok (g : Guard) (u : BitVec 4) (f : BitVec 4) (p : Bool) (e : Bool) (sr : BitVec 3)
  deriving DecidableEq, Repr

end Sys2Proof
end

