-- ==== Sys2Proof/WellFormed.lean ====
section
/-! DEFINITION. The decode-checked limits of R189 and R438 that depend on the slot word alone: a word
whose fields break one of them raises ILLEGAL_SLOT whatever its guard. -/
namespace Sys2Proof

/-- A scalar destination code: 0 to 47 (R183, R189). -/
def destOk (d : BitVec 6) : Bool := decide (d.toNat < 48)

/-- A predicate destination: the path predicates p11 to p15 are not destinations (R109, R189). -/
def predOk (p : BitVec 4) : Bool := decide (p.toNat < 11)

/-- The two predicate destinations of SC and LP: neither a path predicate, and not one predicate
twice unless both are p0 (R189, R270). -/
def pairOk (p q : BitVec 4) : Bool := predOk p && predOk q && (p != q || p == 0)

/-- W = 1 asks for D = 0 (R181, R189). -/
def latchOk (w : Bool) (d : BitVec 6) : Bool := !w || d == 0

/-- A tested predicate of a tree branch: not a path predicate (R185, R189). -/
def testOk (t : BitVec 4) : Bool := decide (t.toNat < 11)

/-- PE = 0 asks for a zero flag field (R205, R314). -/
def flagOk (pe : Bool) (f : BitVec 4) : Bool := pe || f == 0

/-- The CSR numbers of R245. -/
def csrKnown (c : BitVec 14) : Bool :=
  decide (c.toNat < 15) || c == 0x010 || c == 0x011 || c == 0x020 || c == 0x021 || c == 0x100

/-- The target codes of `vcvt` that no value of VCFG makes legal are 15 and 18 to 31 (R280). -/
def cvtTarget (t : BitVec 5) : Bool := decide (t.toNat < 18) && t != 15

/-- The MX format codes of R281: 1 to 6. -/
def mxCode (f : BitVec 5) : Bool := decide (1 ≤ f.toNat) && decide (f.toNat ≤ 6)

/-- TGT, RND and SRCINT of `mcvt` (R302). -/
def mcvtOk (t : BitVec 4) (r : BitVec 3) (i : Bool) : Bool :=
  (decide (t.toNat < 4) || t == 8 || t == 9 || (decide (12 ≤ t.toNat) && decide (t.toNat ≤ 14)))
    && decide (r.toNat < 6) && (!i || decide (t.toNat < 10))

/-- The decode checks on the fields of one instruction (R189, R438). Events of the device carry no
encoded field and pass. -/
def Instr.wellFormed (i : Instr) : Bool :=
  match i with
  | .syncWait _ _ => true
  | .syncPost _ _ => true
  | .syncTake _ _ => true
  | .nullifierSkip => true
  | .partialSumArrive _ => true
  | .mCommandComplete _ => true
  | .fCommandComplete _ => true
  | .stateEvict _ => true
  | .stateEvictDone _ _ => true
  | .statePageinDone _ _ _ => true
  | .fwMigrationCopyDone _ _ => true
  | .fwResidencyHoldExpire _ _ => true
  | .xCommandComplete _ _ => true
  | .gCommandComplete _ _ => true
  | .sparseIndexPush _ => true
  | .collectiveContribution _ _ => true
  | .collectiveTimeout _ => true
  | .mailboxDescriptorArrive _ _ => true
  | .mailboxDescriptorTimeout _ _ => true
  | .grecvTimeout _ _ => true
  | .read _ => true
  | .write _ => true
  | .atomic _ => true
  | .rowcopy _ _ _ => true
  | .rowinit _ _ _ => true
  | .subscribe _ _ => true
  | .pull _ _ => true
  | .packetDiscard _ _ => true
  | .dramActivate _ _ => true
  | .dramRefresh _ _ => true
  | .rmlogValidClear _ => true
  | .tierDemote _ => true
  | .pageInComplete _ _ => true
  | .residencyHoldExpire _ => true
  | .translationWalk _ => true
  | .remoteScratchpadAccess _ => true
  | .waitWithdraw _ => true
  | .waiterTableRetry _ => true
  | .feWaitLimit _ => true
  | .remoteAccessTimeout _ => true
  | .flagPostArrive _ => true
  | .flitReplay _ _ => true
  | .linkFailed _ _ => true
  | .fablinkRetrain _ _ => true
  | .linkTrainingDone _ _ _ => true
  | .headSuspect _ _ => true
  | .meridianCapture _ _ => true
  | .tokenRegenerate _ => true
  | .ringSlotLand _ _ => true
  | .ringSlotDrain _ _ => true
  | .ringEnlarge _ _ => true
  | .ringExtensionMove _ _ => true
  | .scratchpadEccError _ _ _ => true
  | .recordEnqueue _ => true
  | .enqueueWindowWrite _ _ _ => true
  | .joinDecrement _ => true
  | .spillToOverflow _ => true
  | .fillFromOverflow _ => true
  | .dispatch _ => true
  | .budget _ => true
  | .launchRecordPlace _ => true
  | .shapeResolve _ => true
  | .retract _ => true
  | .crewComplete _ _ => true
  | .queueDestroy _ _ => true
  | .qstatClear _ => true
  | .orreryGo _ => true
  | .orreryNodeFire _ _ => true
  | .orreryIndexTake _ _ => true
  | .ueMessageReceive _ _ _ _ _ => true
  | .tokeniseRequest _ _ => true
  | .requestWordLand _ _ => true
  | .templateEnqueue _ _ => true
  | .detokeniseWord _ _ => true
  | .endpointWrite _ _ _ _ _ => true
  | .almanacLoad _ _ _ => true
  | .almanacLoadDone _ => true
  | .userTrapEntry _ => true
  | .kernelTrapEntry _ => true
  | .swapOut _ => true
  | .swapIn _ => true
  | .swapComplete _ => true
  | .partitionReset _ => true
  | .managementRestart _ => true
  | .powerOnReset _ => true
  | .bootStageVerify _ _ => true
  | .attestationStart _ => true
  | .attestationDone _ => true
  | .freezeCycle _ => true
  | .thermalThrottle _ _ _ => true
  | .climcapStep _ => true
  | .thermalStop _ _ _ => true
  | .registerWrite _ _ _ _ => true
  | .remoteAccessReply _ => true
  | .demotionComplete _ => true
  | .stateSramEccError _ _ _ _ => true
  | .add _ _ d _ _ w => destOk d && latchOk w d
  | .sub _ _ d _ _ w => destOk d && latchOk w d
  | .mul _ _ d _ _ w => destOk d && latchOk w d
  | .mulh _ _ d _ _ w => destOk d && latchOk w d
  | .mulhn _ _ d _ _ w => destOk d && latchOk w d
  | .div _ _ d _ _ w => destOk d && latchOk w d
  | .divn _ _ d _ _ w => destOk d && latchOk w d
  | .rem _ _ d _ _ w => destOk d && latchOk w d
  | .remn _ _ d _ _ w => destOk d && latchOk w d
  | .min _ _ d _ _ w => destOk d && latchOk w d
  | .max _ _ d _ _ w => destOk d && latchOk w d
  | .minn _ _ d _ _ w => destOk d && latchOk w d
  | .maxn _ _ d _ _ w => destOk d && latchOk w d
  | .abs _ _ d _ w => destOk d && latchOk w d
  | .and _ _ d _ _ w => destOk d && latchOk w d
  | .or _ _ d _ _ w => destOk d && latchOk w d
  | .xor _ _ d _ _ w => destOk d && latchOk w d
  | .andn _ _ d _ _ w => destOk d && latchOk w d
  | .shl _ _ d _ _ w => destOk d && latchOk w d
  | .shr _ _ d _ _ w => destOk d && latchOk w d
  | .sra _ _ d _ _ w => destOk d && latchOk w d
  | .rol _ _ d _ _ w => destOk d && latchOk w d
  | .clz _ _ d _ w => destOk d && latchOk w d
  | .ctz _ _ d _ w => destOk d && latchOk w d
  | .popc _ _ d _ w => destOk d && latchOk w d
  | .sel _ _ _ _ _ _ => true
  | .addImm _ _ d _ _ => destOk d
  | .mulImm _ _ d _ _ => destOk d
  | .andImm _ _ d _ _ => destOk d
  | .orImm _ _ d _ _ => destOk d
  | .xorImm _ _ d _ _ => destOk d
  | .shlImm _ _ d _ _ => destOk d
  | .shrImm _ _ d _ _ => destOk d
  | .sraImm _ _ d _ _ => destOk d
  | .rolImm _ _ d _ _ => destOk d
  | .movi _ _ d _ => destOk d
  | .movk _ _ d _ => destOk d
  | .cmpEq _ _ p q _ _ => pairOk p q
  | .cmpNe _ _ p q _ _ => pairOk p q
  | .cmpLt _ _ p q _ _ => pairOk p q
  | .cmpLe _ _ p q _ _ => pairOk p q
  | .cmpGt _ _ p q _ _ => pairOk p q
  | .cmpGe _ _ p q _ _ => pairOk p q
  | .cmpLtn _ _ p q _ _ => pairOk p q
  | .cmpLen _ _ p q _ _ => pairOk p q
  | .cmpGtn _ _ p q _ _ => pairOk p q
  | .cmpGen _ _ p q _ _ => pairOk p q
  | .pand _ _ p q _ _ => pairOk p q
  | .por _ _ p q _ _ => pairOk p q
  | .pxor _ _ p q _ _ => pairOk p q
  | .pnot _ _ p q _ => pairOk p q
  | .qset _ d _ => decide (d.toNat < 64)
  | .xset _ d _ => decide (d.toNat < 32)
  | .hset _ d _ => decide (d.toNat < 16)
  | .vcfg _ _ => true
  | .btsetOffset _ d _ => decide (d.toNat < 8)
  | .btsetRegister _ d _ => decide (d.toNat < 8)
  | .rdsr _ d c => destOk d && csrKnown c
  | .wrsr _ _ c => csrKnown c
  | .tread _ d => destOk d
  | .ld1 _ d _ _ => destOk d
  | .ld2 _ d _ _ => destOk d
  | .ld4 _ d _ _ => destOk d
  | .ld _ d _ _ => destOk d
  | .ld4Acq _ d _ _ => destOk d
  | .ldAcq _ d _ _ => destOk d
  | .st1 _ _ _ _ => true
  | .st2 _ _ _ _ => true
  | .st4 _ _ _ _ => true
  | .st _ _ _ _ => true
  | .st4Rel _ _ _ _ => true
  | .stRel _ _ _ _ => true
  | .ldf _ d _ _ => destOk d
  | .ldfDom _ d _ _ => destOk d
  | .ldfe _ d _ _ => destOk d
  | .ldfeDom _ d _ _ => destOk d
  | .ste _ _ _ _ => true
  | .steDom _ _ _ _ => true
  | .stf _ _ _ _ => true
  | .stfDom _ _ _ _ => true
  | .feset _ _ _ => true
  | .feclr _ _ _ => true
  | .aadd4 _ d _ _ _ => destOk d
  | .aadd _ d _ _ _ => destOk d
  | .aand4 _ d _ _ _ => destOk d
  | .aand _ d _ _ _ => destOk d
  | .aor4 _ d _ _ _ => destOk d
  | .aor _ d _ _ _ => destOk d
  | .axor4 _ d _ _ _ => destOk d
  | .axor _ d _ _ _ => destOk d
  | .amin4 _ d _ _ _ => destOk d
  | .amin _ d _ _ _ => destOk d
  | .amax4 _ d _ _ _ => destOk d
  | .amax _ d _ _ _ => destOk d
  | .aminn4 _ d _ _ _ => destOk d
  | .aminn _ d _ _ _ => destOk d
  | .amaxn4 _ d _ _ _ => destOk d
  | .amaxn _ d _ _ _ => destOk d
  | .axchg4 _ d _ _ _ => destOk d
  | .axchg _ d _ _ _ => destOk d
  | .acas4 _ d _ _ _ => destOk d
  | .acas _ d _ _ _ => destOk d
  | .afaddF32 _ d _ _ _ => destOk d
  | .afaddF64 _ d _ _ _ => destOk d
  | .afminF32 _ d _ _ _ => destOk d
  | .afmaxF32 _ d _ _ _ => destOk d
  | .afminF64 _ d _ _ _ => destOk d
  | .afmaxF64 _ d _ _ _ => destOk d
  | .chunk _ d _ _ => destOk d
  | .fence _ i => decide (i.toNat < 8)
  | .drain _ i => decide (i.toNat < 8)
  | .barArr _ d _ w => destOk d && latchOk w d
  | .barWt _ _ _ => true
  | .barSync _ _ => true
  | .cfset _ d _ => decide (d.toNat < 16)
  | .cfadd _ _ _ => true
  | .cfrd _ d f => destOk d && decide (f.toNat < 16)
  | .fres _ _ _ => true
  | .fjoin _ d _ _ w => destOk d && latchOk w d
  | .fpoll _ d _ w => destOk d && latchOk w d
  | .xinv _ _ _ => true
  | .nop _ _ => true
  | .br _ _ => true
  | .brt _ _ t u v w _ => testOk t && testOk u && testOk v && testOk w
  | .call _ _ => true
  | .callr _ _ => true
  | .ret _ => true
  | .jr _ _ => true
  | .jt _ _ _ => true
  | .loopLc0 _ _ => true
  | .loopLc1 _ _ => true
  | .suspend _ => true
  | .yield _ => true
  | .endBlock _ => true
  | .endF _ _ => true
  | .trap _ _ => true
  | .uiret _ => true
  | .uiretSkip _ => true
  | .eret _ => true
  | .halt _ => true
  | .vadd _ _ _ _ _ _ _ => true
  | .vsub _ _ _ _ _ _ _ => true
  | .vmul _ _ _ _ _ _ _ => true
  | .vmulh _ _ _ _ _ _ _ => true
  | .vaddsat _ _ _ _ _ _ _ => true
  | .vsubsat _ _ _ _ _ _ _ => true
  | .vavg _ _ _ _ _ _ _ => true
  | .vmin _ _ _ _ _ _ _ => true
  | .vmax _ _ _ _ _ _ _ => true
  | .vabs _ _ _ _ _ => true
  | .vand _ _ _ _ _ _ _ => true
  | .vor _ _ _ _ _ _ _ => true
  | .vxor _ _ _ _ _ _ _ => true
  | .vandn _ _ _ _ _ _ _ => true
  | .vshl _ _ _ _ _ _ _ => true
  | .vshr _ _ _ _ _ _ _ => true
  | .vsra _ _ _ _ _ _ _ => true
  | .vcmpEq _ _ _ _ _ _ _ => true
  | .vcmpNe _ _ _ _ _ _ _ => true
  | .vcmpLt _ _ _ _ _ _ _ => true
  | .vcmpLe _ _ _ _ _ _ _ => true
  | .vcmpGt _ _ _ _ _ _ _ => true
  | .vcmpGe _ _ _ _ _ _ _ => true
  | .vsel _ _ _ _ _ _ => true
  | .vfadd _ _ _ _ _ _ _ => true
  | .vfsub _ _ _ _ _ _ _ => true
  | .vfmul _ _ _ _ _ _ _ => true
  | .vffma _ _ _ _ _ _ _ => true
  | .vffms _ _ _ _ _ _ _ => true
  | .vfnma _ _ _ _ _ _ _ => true
  | .vfmin _ _ _ _ _ _ _ => true
  | .vfmax _ _ _ _ _ _ _ => true
  | .vfdiv _ _ _ _ _ _ _ => true
  | .vfsqrt _ _ _ _ _ => true
  | .vfrcp _ _ _ _ _ => true
  | .vfrsq _ _ _ _ _ => true
  | .vfexp2 _ _ _ _ _ => true
  | .vflog2 _ _ _ _ _ => true
  | .vftanh _ _ _ _ _ => true
  | .vfcls _ _ _ _ _ => true
  | .vfcmpEq _ _ _ _ _ _ _ => true
  | .vfcmpNe _ _ _ _ _ _ _ => true
  | .vfcmpLt _ _ _ _ _ _ _ => true
  | .vfcmpLe _ _ _ _ _ _ _ => true
  | .vfcmpGt _ _ _ _ _ _ _ => true
  | .vfcmpGe _ _ _ _ _ _ _ => true
  | .vcvt _ _ _ t _ _ _ => cvtTarget t
  | .vmxpack _ _ _ f _ => mxCode f
  | .vmxunpack _ _ _ f _ => mxCode f
  | .vredadd _ _ _ _ _ => true
  | .vredmin _ _ _ _ _ => true
  | .vredmax _ _ _ _ _ => true
  | .vscan _ _ _ _ _ => true
  | .vperm _ _ _ _ _ _ _ => true
  | .vcompress _ _ _ _ => true
  | .vexpand _ _ _ _ => true
  | .vmov _ _ _ _ _ => true
  | .vsplat _ _ _ _ => true
  | .vext _ sr _ _ => destOk sr
  | .vins _ _ _ _ => true
  | .mand _ _ _ _ => true
  | .mor _ _ _ _ => true
  | .mxor _ _ _ _ => true
  | .mnot _ _ _ => true
  | .mpopc _ sr _ => destOk sr
  | .mfirst _ sr _ => destOk sr
  | .laclr _ _ => true
  | .lafma _ _ _ _ _ _ _ => true
  | .laadd _ _ _ _ _ => true
  | .laround _ _ _ => true
  | .lasgn _ p q _ => pairOk p q
  | .lamovToVector _ _ _ => true
  | .lamovFromVector _ _ _ => true
  | .mma _ _ _ _ _ => true
  | .mmaSp _ _ _ _ _ => true
  | .mmaMk _ _ _ _ o => decide (o.toNat / 64 = 0) && decide (o.toNat / 16 % 2 = 0)
  | .mscale _ => true
  | .mmaS _ _ _ _ _ => true
  | .mmaSpS _ _ _ _ _ => true
  | .mzero _ _ => true
  | .mcvt _ _ _ i t r _ => mcvtOk t r i
  | .mmov _ _ _ => true
  | .mtr _ _ _ e => decide (e.toNat < 3)
  | .mmask _ _ => true
  | .mclrmask _ => true
  | .fwbind _ _ => true
  | .fwread _ _ _ => true
  | .fwstepDeltaPre _ _ _ _ _ => true
  | .fwstepDeltaPost _ _ _ _ _ => true
  | .fwstepHebb _ _ _ _ _ => true
  | .fwstepGrad _ _ _ _ => true
  | .fwfade _ _ => true
  | .fwouter _ _ _ _ => true
  | .fwcommit _ _ => true
  | .fwsnap _ _ _ => true
  | .fwfork _ c _ d => decide (d.toNat + c.toNat < 16)
  | .fwavg _ _ _ _ _ _ => true
  | .fwroll _ _ _ => true
  | .fwdrop _ _ => true
  | .fwmigr _ _ _ => true
  | .fwpagein _ _ _ => true
  | .fwevict _ _ => true
  | .fwstat _ _ _ => true
  | .xld _ _ _ f _ p _ => flagOk p f
  | .xldTr _ _ _ f _ p _ => flagOk p f
  | .xst _ _ _ f _ p _ => flagOk p f
  | .xldv _ _ _ f _ p _ _ => flagOk p f
  | .xstv _ _ _ f _ p _ _ => flagOk p f
  | .xldw _ _ f _ p _ => flagOk p f
  | .xcopy _ _ f _ p _ _ _ => flagOk p f
  | .xfill _ _ f _ p _ _ => flagOk p f
  | .xsub _ _ f _ p _ _ => flagOk p f
  | .xpub _ _ f _ p _ _ => flagOk p f
  | .xunsub _ _ f _ p _ _ => flagOk p f
  | .xpre _ _ f _ p _ => flagOk p f
  | .xpreBar _ _ f _ p _ => flagOk p f
  | .xpin _ _ f _ p _ => flagOk p f
  | .xunpin _ _ f _ p _ => flagOk p f
  | .xmig _ _ f _ p _ _ => flagOk p f
  | .xwait _ _ kd v4 => decide (kd.toNat < 3) && (kd == 1 || !v4)
  | .ggath _ _ f p _ _ _ => flagOk p f
  | .gscat _ _ f p _ _ _ => flagOk p f
  | .gspd _ f p _ _ _ => flagOk p f
  | .gcar _ _ f p _ _ => flagOk p f
  | .gcred _ _ f p _ _ => flagOk p f
  | .gcbc _ _ f p _ _ => flagOk p f
  | .gcag _ _ f p _ _ => flagOk p f
  | .gsend _ _ f p _ _ => flagOk p f
  | .grecv _ _ f p _ _ => flagOk p f
  | .genq _ f p _ _ => flagOk p f
  | .glaunch _ f p _ _ => flagOk p f
  | .galloc _ _ d _ p => destOk d && predOk p
  | .gallocR _ _ d _ p => destOk d && predOk p
  | .gallocF _ _ d _ => destOk d
  | .gallocFR _ _ d _ => destOk d
  | .gfree _ _ _ p => predOk p
  | .gretract _ _ => true
  | .stopk _ _ f p _ _ => flagOk p f
  | .stemp _ _ f p _ _ => flagOk p f
  | .stopp _ _ f p _ _ => flagOk p f
  | .sgram _ _ f p _ _ => flagOk p f
  | .sdraw _ _ f p _ _ => flagOk p f
  | .saccept _ _ f p _ _ => flagOk p f
  | .stok _ _ f p _ _ => flagOk p f

end Sys2Proof
end

