-- ==== Sys2Proof/Decode.lean ====
section
/-! DEFINITION. Reading code: slot words (R179 to R192), bundle headers (R174), bundles and the
encoder. Every field is taken out of its word here, once. Numbers are written with division and
remainder so that a field is visibly a run of bits: `w / 2^lo % 2^k` is FIELD[lo+k-1 : lo]. The
functions that build an `Instr` are marked noncomputable only because Lean's compiler numbers at most
245 constructors that carry fields; the kernel evaluates them. -/
namespace Sys2Proof

/-- Why a slot word is no instruction (R189): ILLEGAL_SLOT is raised for each. -/
inductive DecodeError where
  /-- the opcode is unassigned in the slot -/
  | unassigned
  /-- a field that must be zero, or must hold a constant, does not -/
  | zeroField
  /-- a decode-checked operand limit -/
  | operand
  /-- fewer words than the header's presence mask asks for -/
  | short
  deriving DecidableEq, Repr

/-- FIELD[lo+k-1:lo] of a word. -/
def fld (w : BitVec 32) (lo k : Nat) : BitVec k := BitVec.ofNat k (w.toNat / 2 ^ lo)

/-- A single bit of a word. -/
def flag (w : BitVec 32) (lo : Nat) : Bool := w.toNat / 2 ^ lo % 2 == 1

/-- The opcode of a slot word, bits [26:20] (R179). -/
def opcodeOf (w : BitVec 32) : Nat := w.toNat / 2 ^ 20 % 2 ^ 7

/-- The guard of a slot word, bits [31:27] (R179). -/
def guardOf (w : BitVec 32) : Guard := ⟨fld w 28 4, flag w 27⟩

/-- A run of bits of a word holds a constant. -/
def holds (w : BitVec 32) (lo k c : Nat) : Bool := w.toNat / 2 ^ lo % 2 ^ k == c

/-- A word whose constant fields all hold is the instruction. -/
def accept (ok : Bool) (i : Instr) : Except DecodeError Instr :=
  if ok then .ok i else .error .zeroField

/-- The opcodes that slots A and B share (R234). -/
def decodeShared (sl : Lane) (w : BitVec 32) : Except DecodeError Instr :=
  match opcodeOf w with
  | 0x01 => accept (holds w 0 1 0) (.add sl (guardOf w) (fld w 14 6) (fld w 8 6) (fld w 2 6) (flag w 1))
  | 0x02 => accept (holds w 0 1 0) (.sub sl (guardOf w) (fld w 14 6) (fld w 8 6) (fld w 2 6) (flag w 1))
  | 0x03 => accept (holds w 0 1 0) (.mul sl (guardOf w) (fld w 14 6) (fld w 8 6) (fld w 2 6) (flag w 1))
  | 0x04 => accept (holds w 0 1 0) (.mulh sl (guardOf w) (fld w 14 6) (fld w 8 6) (fld w 2 6) (flag w 1))
  | 0x05 => accept (holds w 0 1 0) (.mulhn sl (guardOf w) (fld w 14 6) (fld w 8 6) (fld w 2 6) (flag w 1))
  | 0x06 => accept (holds w 0 1 0) (.div sl (guardOf w) (fld w 14 6) (fld w 8 6) (fld w 2 6) (flag w 1))
  | 0x07 => accept (holds w 0 1 0) (.divn sl (guardOf w) (fld w 14 6) (fld w 8 6) (fld w 2 6) (flag w 1))
  | 0x08 => accept (holds w 0 1 0) (.rem sl (guardOf w) (fld w 14 6) (fld w 8 6) (fld w 2 6) (flag w 1))
  | 0x09 => accept (holds w 0 1 0) (.remn sl (guardOf w) (fld w 14 6) (fld w 8 6) (fld w 2 6) (flag w 1))
  | 0x0A => accept (holds w 0 1 0) (.min sl (guardOf w) (fld w 14 6) (fld w 8 6) (fld w 2 6) (flag w 1))
  | 0x0B => accept (holds w 0 1 0) (.max sl (guardOf w) (fld w 14 6) (fld w 8 6) (fld w 2 6) (flag w 1))
  | 0x0C => accept (holds w 0 1 0) (.minn sl (guardOf w) (fld w 14 6) (fld w 8 6) (fld w 2 6) (flag w 1))
  | 0x0D => accept (holds w 0 1 0) (.maxn sl (guardOf w) (fld w 14 6) (fld w 8 6) (fld w 2 6) (flag w 1))
  | 0x0E => accept (holds w 0 1 0 && holds w 2 6 0) (.abs sl (guardOf w) (fld w 14 6) (fld w 8 6) (flag w 1))
  | 0x0F => accept (holds w 0 1 0) (.and sl (guardOf w) (fld w 14 6) (fld w 8 6) (fld w 2 6) (flag w 1))
  | 0x10 => accept (holds w 0 1 0) (.or sl (guardOf w) (fld w 14 6) (fld w 8 6) (fld w 2 6) (flag w 1))
  | 0x11 => accept (holds w 0 1 0) (.xor sl (guardOf w) (fld w 14 6) (fld w 8 6) (fld w 2 6) (flag w 1))
  | 0x12 => accept (holds w 0 1 0) (.andn sl (guardOf w) (fld w 14 6) (fld w 8 6) (fld w 2 6) (flag w 1))
  | 0x13 => accept (holds w 0 1 0) (.shl sl (guardOf w) (fld w 14 6) (fld w 8 6) (fld w 2 6) (flag w 1))
  | 0x14 => accept (holds w 0 1 0) (.shr sl (guardOf w) (fld w 14 6) (fld w 8 6) (fld w 2 6) (flag w 1))
  | 0x15 => accept (holds w 0 1 0) (.sra sl (guardOf w) (fld w 14 6) (fld w 8 6) (fld w 2 6) (flag w 1))
  | 0x16 => accept (holds w 0 1 0) (.rol sl (guardOf w) (fld w 14 6) (fld w 8 6) (fld w 2 6) (flag w 1))
  | 0x17 => accept (holds w 0 1 0 && holds w 2 6 0) (.clz sl (guardOf w) (fld w 14 6) (fld w 8 6) (flag w 1))
  | 0x18 => accept (holds w 0 1 0 && holds w 2 6 0) (.ctz sl (guardOf w) (fld w 14 6) (fld w 8 6) (flag w 1))
  | 0x19 => accept (holds w 0 1 0 && holds w 2 6 0) (.popc sl (guardOf w) (fld w 14 6) (fld w 8 6) (flag w 1))
  | 0x1A => accept (true) (.sel sl (guardOf w) (fld w 16 4) (fld w 12 4) (fld w 6 6) (fld w 0 6))
  | 0x20 => accept (true) (.addImm sl (guardOf w) (fld w 14 6) (fld w 8 6) (fld w 0 8))
  | 0x21 => accept (true) (.mulImm sl (guardOf w) (fld w 14 6) (fld w 8 6) (fld w 0 8))
  | 0x22 => accept (true) (.andImm sl (guardOf w) (fld w 14 6) (fld w 8 6) (fld w 0 8))
  | 0x23 => accept (true) (.orImm sl (guardOf w) (fld w 14 6) (fld w 8 6) (fld w 0 8))
  | 0x24 => accept (true) (.xorImm sl (guardOf w) (fld w 14 6) (fld w 8 6) (fld w 0 8))
  | 0x25 => accept (true) (.shlImm sl (guardOf w) (fld w 14 6) (fld w 8 6) (fld w 0 8))
  | 0x26 => accept (true) (.shrImm sl (guardOf w) (fld w 14 6) (fld w 8 6) (fld w 0 8))
  | 0x27 => accept (true) (.sraImm sl (guardOf w) (fld w 14 6) (fld w 8 6) (fld w 0 8))
  | 0x28 => accept (true) (.rolImm sl (guardOf w) (fld w 14 6) (fld w 8 6) (fld w 0 8))
  | 0x2C => accept (true) (.movi sl (guardOf w) (fld w 14 6) (fld w 0 14))
  | 0x2D => accept (true) (.movk sl (guardOf w) (fld w 14 6) (fld w 0 14))
  | 0x30 => accept (true) (.cmpEq sl (guardOf w) (fld w 16 4) (fld w 12 4) (fld w 6 6) (fld w 0 6))
  | 0x31 => accept (true) (.cmpNe sl (guardOf w) (fld w 16 4) (fld w 12 4) (fld w 6 6) (fld w 0 6))
  | 0x32 => accept (true) (.cmpLt sl (guardOf w) (fld w 16 4) (fld w 12 4) (fld w 6 6) (fld w 0 6))
  | 0x33 => accept (true) (.cmpLe sl (guardOf w) (fld w 16 4) (fld w 12 4) (fld w 6 6) (fld w 0 6))
  | 0x34 => accept (true) (.cmpGt sl (guardOf w) (fld w 16 4) (fld w 12 4) (fld w 6 6) (fld w 0 6))
  | 0x35 => accept (true) (.cmpGe sl (guardOf w) (fld w 16 4) (fld w 12 4) (fld w 6 6) (fld w 0 6))
  | 0x36 => accept (true) (.cmpLtn sl (guardOf w) (fld w 16 4) (fld w 12 4) (fld w 6 6) (fld w 0 6))
  | 0x37 => accept (true) (.cmpLen sl (guardOf w) (fld w 16 4) (fld w 12 4) (fld w 6 6) (fld w 0 6))
  | 0x38 => accept (true) (.cmpGtn sl (guardOf w) (fld w 16 4) (fld w 12 4) (fld w 6 6) (fld w 0 6))
  | 0x39 => accept (true) (.cmpGen sl (guardOf w) (fld w 16 4) (fld w 12 4) (fld w 6 6) (fld w 0 6))
  | 0x3C => accept (holds w 4 2 0 && holds w 10 2 0) (.pand sl (guardOf w) (fld w 16 4) (fld w 12 4) (fld w 6 4) (fld w 0 4))
  | 0x3D => accept (holds w 4 2 0 && holds w 10 2 0) (.por sl (guardOf w) (fld w 16 4) (fld w 12 4) (fld w 6 4) (fld w 0 4))
  | 0x3E => accept (holds w 4 2 0 && holds w 10 2 0) (.pxor sl (guardOf w) (fld w 16 4) (fld w 12 4) (fld w 6 4) (fld w 0 4))
  | 0x3F => accept (holds w 0 6 0 && holds w 10 2 0) (.pnot sl (guardOf w) (fld w 16 4) (fld w 12 4) (fld w 6 4))
  | _ => .error .unassigned

/-- `nop` of a slot: opcode 0x7F with every form field zero (R191). -/
def decodeNop (sl : Slot) (w : BitVec 32) : Except DecodeError Instr :=
  accept (holds w 0 20 0) (.nop sl (guardOf w))

/-- The opcodes of slot A from 0x40 upward (R235). -/
def decodeA (w : BitVec 32) : Except DecodeError Instr :=
  match opcodeOf w with
  | 0x40 => accept (holds w 0 8 0) (.qset (guardOf w) (fld w 14 6) (fld w 8 6))
  | 0x41 => accept (holds w 0 8 0) (.xset (guardOf w) (fld w 14 6) (fld w 8 6))
  | 0x42 => accept (holds w 0 8 0) (.hset (guardOf w) (fld w 14 6) (fld w 8 6))
  | 0x43 => accept (holds w 0 8 0 && holds w 14 6 0) (.vcfg (guardOf w) (fld w 8 6))
  | 0x44 => accept (true) (.btsetOffset (guardOf w) (fld w 14 6) (fld w 0 14))
  | 0x45 => accept (holds w 0 8 0) (.btsetRegister (guardOf w) (fld w 14 6) (fld w 8 6))
  | 0x46 => accept (true) (.rdsr (guardOf w) (fld w 14 6) (fld w 0 14))
  | 0x47 => accept (true) (.wrsr (guardOf w) (fld w 14 6) (fld w 0 14))
  | 0x48 => accept (holds w 0 14 0) (.tread (guardOf w) (fld w 14 6))
  | _ => decodeShared .A w

/-- The opcodes of slot B from 0x40 upward (R235). -/
def decodeB (w : BitVec 32) : Except DecodeError Instr :=
  match opcodeOf w with
  | 0x40 => accept (true) (.ld1 (guardOf w) (fld w 14 6) (fld w 8 6) (fld w 0 8))
  | 0x41 => accept (true) (.ld2 (guardOf w) (fld w 14 6) (fld w 8 6) (fld w 0 8))
  | 0x42 => accept (true) (.ld4 (guardOf w) (fld w 14 6) (fld w 8 6) (fld w 0 8))
  | 0x43 => accept (true) (.ld (guardOf w) (fld w 14 6) (fld w 8 6) (fld w 0 8))
  | 0x44 => accept (true) (.ld4Acq (guardOf w) (fld w 14 6) (fld w 8 6) (fld w 0 8))
  | 0x45 => accept (true) (.ldAcq (guardOf w) (fld w 14 6) (fld w 8 6) (fld w 0 8))
  | 0x46 => accept (true) (.st1 (guardOf w) (fld w 14 6) (fld w 8 6) (fld w 0 8))
  | 0x47 => accept (true) (.st2 (guardOf w) (fld w 14 6) (fld w 8 6) (fld w 0 8))
  | 0x48 => accept (true) (.st4 (guardOf w) (fld w 14 6) (fld w 8 6) (fld w 0 8))
  | 0x49 => accept (true) (.st (guardOf w) (fld w 14 6) (fld w 8 6) (fld w 0 8))
  | 0x4A => accept (true) (.st4Rel (guardOf w) (fld w 14 6) (fld w 8 6) (fld w 0 8))
  | 0x4B => accept (true) (.stRel (guardOf w) (fld w 14 6) (fld w 8 6) (fld w 0 8))
  | 0x4C => accept (true) (.ldf (guardOf w) (fld w 14 6) (fld w 8 6) (fld w 0 8))
  | 0x4D => accept (true) (.ldfDom (guardOf w) (fld w 14 6) (fld w 8 6) (fld w 0 8))
  | 0x4E => accept (true) (.ldfe (guardOf w) (fld w 14 6) (fld w 8 6) (fld w 0 8))
  | 0x4F => accept (true) (.ldfeDom (guardOf w) (fld w 14 6) (fld w 8 6) (fld w 0 8))
  | 0x50 => accept (true) (.ste (guardOf w) (fld w 14 6) (fld w 8 6) (fld w 0 8))
  | 0x51 => accept (true) (.steDom (guardOf w) (fld w 14 6) (fld w 8 6) (fld w 0 8))
  | 0x52 => accept (true) (.stf (guardOf w) (fld w 14 6) (fld w 8 6) (fld w 0 8))
  | 0x53 => accept (true) (.stfDom (guardOf w) (fld w 14 6) (fld w 8 6) (fld w 0 8))
  | 0x54 => accept (holds w 14 6 0) (.feset (guardOf w) (fld w 8 6) (fld w 0 8))
  | 0x55 => accept (holds w 14 6 0) (.feclr (guardOf w) (fld w 8 6) (fld w 0 8))
  | 0x56 => accept (true) (.aadd4 (guardOf w) (fld w 14 6) (fld w 8 6) (fld w 6 2) (fld w 0 6))
  | 0x57 => accept (true) (.aadd (guardOf w) (fld w 14 6) (fld w 8 6) (fld w 6 2) (fld w 0 6))
  | 0x58 => accept (true) (.aand4 (guardOf w) (fld w 14 6) (fld w 8 6) (fld w 6 2) (fld w 0 6))
  | 0x59 => accept (true) (.aand (guardOf w) (fld w 14 6) (fld w 8 6) (fld w 6 2) (fld w 0 6))
  | 0x5A => accept (true) (.aor4 (guardOf w) (fld w 14 6) (fld w 8 6) (fld w 6 2) (fld w 0 6))
  | 0x5B => accept (true) (.aor (guardOf w) (fld w 14 6) (fld w 8 6) (fld w 6 2) (fld w 0 6))
  | 0x5C => accept (true) (.axor4 (guardOf w) (fld w 14 6) (fld w 8 6) (fld w 6 2) (fld w 0 6))
  | 0x5D => accept (true) (.axor (guardOf w) (fld w 14 6) (fld w 8 6) (fld w 6 2) (fld w 0 6))
  | 0x5E => accept (true) (.amin4 (guardOf w) (fld w 14 6) (fld w 8 6) (fld w 6 2) (fld w 0 6))
  | 0x5F => accept (true) (.amin (guardOf w) (fld w 14 6) (fld w 8 6) (fld w 6 2) (fld w 0 6))
  | 0x60 => accept (true) (.amax4 (guardOf w) (fld w 14 6) (fld w 8 6) (fld w 6 2) (fld w 0 6))
  | 0x61 => accept (true) (.amax (guardOf w) (fld w 14 6) (fld w 8 6) (fld w 6 2) (fld w 0 6))
  | 0x62 => accept (true) (.aminn4 (guardOf w) (fld w 14 6) (fld w 8 6) (fld w 6 2) (fld w 0 6))
  | 0x63 => accept (true) (.aminn (guardOf w) (fld w 14 6) (fld w 8 6) (fld w 6 2) (fld w 0 6))
  | 0x64 => accept (true) (.amaxn4 (guardOf w) (fld w 14 6) (fld w 8 6) (fld w 6 2) (fld w 0 6))
  | 0x65 => accept (true) (.amaxn (guardOf w) (fld w 14 6) (fld w 8 6) (fld w 6 2) (fld w 0 6))
  | 0x66 => accept (true) (.axchg4 (guardOf w) (fld w 14 6) (fld w 8 6) (fld w 6 2) (fld w 0 6))
  | 0x67 => accept (true) (.axchg (guardOf w) (fld w 14 6) (fld w 8 6) (fld w 6 2) (fld w 0 6))
  | 0x68 => accept (true) (.acas4 (guardOf w) (fld w 14 6) (fld w 8 6) (fld w 6 2) (fld w 0 6))
  | 0x69 => accept (true) (.acas (guardOf w) (fld w 14 6) (fld w 8 6) (fld w 6 2) (fld w 0 6))
  | 0x6A => accept (true) (.afaddF32 (guardOf w) (fld w 14 6) (fld w 8 6) (fld w 6 2) (fld w 0 6))
  | 0x6B => accept (true) (.afaddF64 (guardOf w) (fld w 14 6) (fld w 8 6) (fld w 6 2) (fld w 0 6))
  | 0x6C => accept (true) (.afminF32 (guardOf w) (fld w 14 6) (fld w 8 6) (fld w 6 2) (fld w 0 6))
  | 0x6D => accept (true) (.afmaxF32 (guardOf w) (fld w 14 6) (fld w 8 6) (fld w 6 2) (fld w 0 6))
  | 0x6E => accept (true) (.afminF64 (guardOf w) (fld w 14 6) (fld w 8 6) (fld w 6 2) (fld w 0 6))
  | 0x6F => accept (true) (.afmaxF64 (guardOf w) (fld w 14 6) (fld w 8 6) (fld w 6 2) (fld w 0 6))
  | 0x70 => accept (holds w 0 6 0) (.chunk (guardOf w) (fld w 14 6) (fld w 8 6) (fld w 6 2))
  | 0x71 => accept (holds w 14 6 0) (.fence (guardOf w) (fld w 0 14))
  | 0x72 => accept (holds w 14 6 0) (.drain (guardOf w) (fld w 0 14))
  | 0x73 => accept (holds w 0 1 0 && holds w 2 6 0) (.barArr (guardOf w) (fld w 14 6) (fld w 8 6) (flag w 1))
  | 0x74 => accept (holds w 0 2 0 && holds w 14 6 0) (.barWt (guardOf w) (fld w 8 6) (fld w 2 6))
  | 0x75 => accept (holds w 0 8 0 && holds w 14 6 0) (.barSync (guardOf w) (fld w 8 6))
  | 0x76 => accept (holds w 0 8 0) (.cfset (guardOf w) (fld w 14 6) (fld w 8 6))
  | 0x77 => accept (holds w 0 2 0 && holds w 14 6 0) (.cfadd (guardOf w) (fld w 8 6) (fld w 2 6))
  | 0x78 => accept (holds w 0 8 0) (.cfrd (guardOf w) (fld w 14 6) (fld w 8 6))
  | 0x79 => accept (holds w 0 2 0 && holds w 14 6 0) (.fres (guardOf w) (fld w 8 6) (fld w 2 6))
  | 0x7A => accept (holds w 0 1 0) (.fjoin (guardOf w) (fld w 14 6) (fld w 8 6) (fld w 2 6) (flag w 1))
  | 0x7B => accept (holds w 0 1 0 && holds w 2 6 0) (.fpoll (guardOf w) (fld w 14 6) (fld w 8 6) (flag w 1))
  | 0x7C => accept (holds w 0 2 0 && holds w 14 6 0) (.xinv (guardOf w) (fld w 8 6) (fld w 2 6))
  | _ => decodeShared .B w

/-- The opcodes of slot C (R236). -/
def decodeC (w : BitVec 32) : Except DecodeError Instr :=
  match opcodeOf w with
  | 0x01 => accept (true) (.br (guardOf w) (fld w 0 20))
  | 0x02 => accept (true) (.brt (guardOf w) (fld w 18 2) (fld w 14 4) (fld w 10 4) (fld w 6 4) (fld w 2 4) (fld w 0 2))
  | 0x03 => accept (true) (.call (guardOf w) (fld w 0 20))
  | 0x04 => accept (holds w 0 14 0) (.callr (guardOf w) (fld w 14 6))
  | 0x05 => accept (holds w 0 20 0) (.ret (guardOf w))
  | 0x06 => accept (holds w 0 14 0) (.jr (guardOf w) (fld w 14 6))
  | 0x07 => accept (true) (.jt (guardOf w) (fld w 14 6) (fld w 0 14))
  | 0x08 => accept (true) (.loopLc0 (guardOf w) (fld w 0 20))
  | 0x09 => accept (true) (.loopLc1 (guardOf w) (fld w 0 20))
  | 0x0A => accept (holds w 0 20 0) (.suspend (guardOf w))
  | 0x0B => accept (holds w 0 20 0) (.yield (guardOf w))
  | 0x0C => accept (holds w 0 20 0) (.endBlock (guardOf w))
  | 0x0D => accept (holds w 0 14 0) (.endF (guardOf w) (fld w 14 6))
  | 0x0E => accept (holds w 8 12 0) (.trap (guardOf w) (fld w 0 8))
  | 0x0F => accept (holds w 0 20 0) (.uiret (guardOf w))
  | 0x10 => accept (holds w 0 20 0) (.uiretSkip (guardOf w))
  | 0x11 => accept (holds w 0 20 0) (.eret (guardOf w))
  | 0x12 => accept (holds w 0 20 0) (.halt (guardOf w))
  | _ => .error .unassigned

/-- The opcodes of slot V (R269, R270). -/
noncomputable def decodeV (w : BitVec 32) : Except DecodeError Instr :=
  match opcodeOf w with
  | 0x01 => accept (true) (.vadd (guardOf w) (fld w 15 5) (fld w 10 5) (fld w 5 5) (fld w 3 2) (fld w 1 2) (flag w 0))
  | 0x02 => accept (true) (.vsub (guardOf w) (fld w 15 5) (fld w 10 5) (fld w 5 5) (fld w 3 2) (fld w 1 2) (flag w 0))
  | 0x03 => accept (true) (.vmul (guardOf w) (fld w 15 5) (fld w 10 5) (fld w 5 5) (fld w 3 2) (fld w 1 2) (flag w 0))
  | 0x04 => accept (true) (.vmulh (guardOf w) (fld w 15 5) (fld w 10 5) (fld w 5 5) (fld w 3 2) (fld w 1 2) (flag w 0))
  | 0x05 => accept (true) (.vaddsat (guardOf w) (fld w 15 5) (fld w 10 5) (fld w 5 5) (fld w 3 2) (fld w 1 2) (flag w 0))
  | 0x06 => accept (true) (.vsubsat (guardOf w) (fld w 15 5) (fld w 10 5) (fld w 5 5) (fld w 3 2) (fld w 1 2) (flag w 0))
  | 0x07 => accept (true) (.vavg (guardOf w) (fld w 15 5) (fld w 10 5) (fld w 5 5) (fld w 3 2) (fld w 1 2) (flag w 0))
  | 0x08 => accept (true) (.vmin (guardOf w) (fld w 15 5) (fld w 10 5) (fld w 5 5) (fld w 3 2) (fld w 1 2) (flag w 0))
  | 0x09 => accept (true) (.vmax (guardOf w) (fld w 15 5) (fld w 10 5) (fld w 5 5) (fld w 3 2) (fld w 1 2) (flag w 0))
  | 0x0A => accept (holds w 1 2 0 && holds w 5 5 0) (.vabs (guardOf w) (fld w 15 5) (fld w 10 5) (fld w 3 2) (flag w 0))
  | 0x0B => accept (true) (.vand (guardOf w) (fld w 15 5) (fld w 10 5) (fld w 5 5) (fld w 3 2) (fld w 1 2) (flag w 0))
  | 0x0C => accept (true) (.vor (guardOf w) (fld w 15 5) (fld w 10 5) (fld w 5 5) (fld w 3 2) (fld w 1 2) (flag w 0))
  | 0x0D => accept (true) (.vxor (guardOf w) (fld w 15 5) (fld w 10 5) (fld w 5 5) (fld w 3 2) (fld w 1 2) (flag w 0))
  | 0x0E => accept (true) (.vandn (guardOf w) (fld w 15 5) (fld w 10 5) (fld w 5 5) (fld w 3 2) (fld w 1 2) (flag w 0))
  | 0x0F => accept (true) (.vshl (guardOf w) (fld w 15 5) (fld w 10 5) (fld w 5 5) (fld w 3 2) (fld w 1 2) (flag w 0))
  | 0x10 => accept (true) (.vshr (guardOf w) (fld w 15 5) (fld w 10 5) (fld w 5 5) (fld w 3 2) (fld w 1 2) (flag w 0))
  | 0x11 => accept (true) (.vsra (guardOf w) (fld w 15 5) (fld w 10 5) (fld w 5 5) (fld w 3 2) (fld w 1 2) (flag w 0))
  | 0x12 => accept (holds w 18 2 0) (.vcmpEq (guardOf w) (fld w 15 3) (fld w 10 5) (fld w 5 5) (fld w 3 2) (fld w 1 2) (flag w 0))
  | 0x13 => accept (holds w 18 2 0) (.vcmpNe (guardOf w) (fld w 15 3) (fld w 10 5) (fld w 5 5) (fld w 3 2) (fld w 1 2) (flag w 0))
  | 0x14 => accept (holds w 18 2 0) (.vcmpLt (guardOf w) (fld w 15 3) (fld w 10 5) (fld w 5 5) (fld w 3 2) (fld w 1 2) (flag w 0))
  | 0x15 => accept (holds w 18 2 0) (.vcmpLe (guardOf w) (fld w 15 3) (fld w 10 5) (fld w 5 5) (fld w 3 2) (fld w 1 2) (flag w 0))
  | 0x16 => accept (holds w 18 2 0) (.vcmpGt (guardOf w) (fld w 15 3) (fld w 10 5) (fld w 5 5) (fld w 3 2) (fld w 1 2) (flag w 0))
  | 0x17 => accept (holds w 18 2 0) (.vcmpGe (guardOf w) (fld w 15 3) (fld w 10 5) (fld w 5 5) (fld w 3 2) (fld w 1 2) (flag w 0))
  | 0x18 => accept (holds w 0 1 0) (.vsel (guardOf w) (fld w 15 5) (fld w 10 5) (fld w 5 5) (fld w 3 2) (fld w 1 2))
  | 0x20 => accept (true) (.vfadd (guardOf w) (fld w 15 5) (fld w 10 5) (fld w 5 5) (fld w 3 2) (fld w 1 2) (flag w 0))
  | 0x21 => accept (true) (.vfsub (guardOf w) (fld w 15 5) (fld w 10 5) (fld w 5 5) (fld w 3 2) (fld w 1 2) (flag w 0))
  | 0x22 => accept (true) (.vfmul (guardOf w) (fld w 15 5) (fld w 10 5) (fld w 5 5) (fld w 3 2) (fld w 1 2) (flag w 0))
  | 0x23 => accept (true) (.vffma (guardOf w) (fld w 15 5) (fld w 10 5) (fld w 5 5) (fld w 3 2) (fld w 1 2) (flag w 0))
  | 0x24 => accept (true) (.vffms (guardOf w) (fld w 15 5) (fld w 10 5) (fld w 5 5) (fld w 3 2) (fld w 1 2) (flag w 0))
  | 0x25 => accept (true) (.vfnma (guardOf w) (fld w 15 5) (fld w 10 5) (fld w 5 5) (fld w 3 2) (fld w 1 2) (flag w 0))
  | 0x26 => accept (true) (.vfmin (guardOf w) (fld w 15 5) (fld w 10 5) (fld w 5 5) (fld w 3 2) (fld w 1 2) (flag w 0))
  | 0x27 => accept (true) (.vfmax (guardOf w) (fld w 15 5) (fld w 10 5) (fld w 5 5) (fld w 3 2) (fld w 1 2) (flag w 0))
  | 0x28 => accept (true) (.vfdiv (guardOf w) (fld w 15 5) (fld w 10 5) (fld w 5 5) (fld w 3 2) (fld w 1 2) (flag w 0))
  | 0x29 => accept (holds w 1 2 0 && holds w 5 5 0) (.vfsqrt (guardOf w) (fld w 15 5) (fld w 10 5) (fld w 3 2) (flag w 0))
  | 0x2A => accept (holds w 1 2 0 && holds w 5 5 0) (.vfrcp (guardOf w) (fld w 15 5) (fld w 10 5) (fld w 3 2) (flag w 0))
  | 0x2B => accept (holds w 1 2 0 && holds w 5 5 0) (.vfrsq (guardOf w) (fld w 15 5) (fld w 10 5) (fld w 3 2) (flag w 0))
  | 0x2C => accept (holds w 1 2 0 && holds w 5 5 0) (.vfexp2 (guardOf w) (fld w 15 5) (fld w 10 5) (fld w 3 2) (flag w 0))
  | 0x2D => accept (holds w 1 2 0 && holds w 5 5 0) (.vflog2 (guardOf w) (fld w 15 5) (fld w 10 5) (fld w 3 2) (flag w 0))
  | 0x2E => accept (holds w 1 2 0 && holds w 5 5 0) (.vftanh (guardOf w) (fld w 15 5) (fld w 10 5) (fld w 3 2) (flag w 0))
  | 0x2F => accept (holds w 1 2 0 && holds w 5 5 0) (.vfcls (guardOf w) (fld w 15 5) (fld w 10 5) (fld w 3 2) (flag w 0))
  | 0x30 => accept (holds w 18 2 0) (.vfcmpEq (guardOf w) (fld w 15 3) (fld w 10 5) (fld w 5 5) (fld w 3 2) (fld w 1 2) (flag w 0))
  | 0x31 => accept (holds w 18 2 0) (.vfcmpNe (guardOf w) (fld w 15 3) (fld w 10 5) (fld w 5 5) (fld w 3 2) (fld w 1 2) (flag w 0))
  | 0x32 => accept (holds w 18 2 0) (.vfcmpLt (guardOf w) (fld w 15 3) (fld w 10 5) (fld w 5 5) (fld w 3 2) (fld w 1 2) (flag w 0))
  | 0x33 => accept (holds w 18 2 0) (.vfcmpLe (guardOf w) (fld w 15 3) (fld w 10 5) (fld w 5 5) (fld w 3 2) (fld w 1 2) (flag w 0))
  | 0x34 => accept (holds w 18 2 0) (.vfcmpGt (guardOf w) (fld w 15 3) (fld w 10 5) (fld w 5 5) (fld w 3 2) (fld w 1 2) (flag w 0))
  | 0x35 => accept (holds w 18 2 0) (.vfcmpGe (guardOf w) (fld w 15 3) (fld w 10 5) (fld w 5 5) (fld w 3 2) (fld w 1 2) (flag w 0))
  | 0x38 => accept (holds w 2 1 0) (.vcvt (guardOf w) (fld w 15 5) (fld w 10 5) (fld w 5 5) (fld w 3 2) (flag w 1) (flag w 0))
  | 0x39 => accept (holds w 0 3 0) (.vmxpack (guardOf w) (fld w 15 5) (fld w 10 5) (fld w 5 5) (fld w 3 2))
  | 0x3A => accept (holds w 0 3 0) (.vmxunpack (guardOf w) (fld w 15 5) (fld w 10 5) (fld w 5 5) (fld w 3 2))
  | 0x40 => accept (holds w 1 2 0 && holds w 5 5 0) (.vredadd (guardOf w) (fld w 15 5) (fld w 10 5) (fld w 3 2) (flag w 0))
  | 0x41 => accept (holds w 1 2 0 && holds w 5 5 0) (.vredmin (guardOf w) (fld w 15 5) (fld w 10 5) (fld w 3 2) (flag w 0))
  | 0x42 => accept (holds w 1 2 0 && holds w 5 5 0) (.vredmax (guardOf w) (fld w 15 5) (fld w 10 5) (fld w 3 2) (flag w 0))
  | 0x43 => accept (holds w 1 2 0 && holds w 5 5 0) (.vscan (guardOf w) (fld w 15 5) (fld w 10 5) (fld w 3 2) (flag w 0))
  | 0x48 => accept (true) (.vperm (guardOf w) (fld w 15 5) (fld w 10 5) (fld w 5 5) (fld w 3 2) (fld w 1 2) (flag w 0))
  | 0x49 => accept (holds w 0 3 1 && holds w 5 5 0) (.vcompress (guardOf w) (fld w 15 5) (fld w 10 5) (fld w 3 2))
  | 0x4A => accept (holds w 0 3 1 && holds w 5 5 0) (.vexpand (guardOf w) (fld w 15 5) (fld w 10 5) (fld w 3 2))
  | 0x4B => accept (holds w 1 2 0 && holds w 5 5 0) (.vmov (guardOf w) (fld w 15 5) (fld w 10 5) (fld w 3 2) (flag w 0))
  | 0x4C => accept (holds w 1 4 0 && holds w 11 4 0) (.vsplat (guardOf w) (fld w 15 5) (fld w 5 6) (flag w 0))
  | 0x4D => accept (holds w 0 3 0) (.vext (guardOf w) (fld w 14 6) (fld w 9 5) (fld w 3 6))
  | 0x4E => accept (holds w 0 3 0) (.vins (guardOf w) (fld w 15 5) (fld w 9 6) (fld w 3 6))
  | 0x50 => accept (holds w 0 5 0 && holds w 8 2 0 && holds w 13 2 0 && holds w 18 2 0) (.mand (guardOf w) (fld w 15 3) (fld w 10 3) (fld w 5 3))
  | 0x51 => accept (holds w 0 5 0 && holds w 8 2 0 && holds w 13 2 0 && holds w 18 2 0) (.mor (guardOf w) (fld w 15 3) (fld w 10 3) (fld w 5 3))
  | 0x52 => accept (holds w 0 5 0 && holds w 8 2 0 && holds w 13 2 0 && holds w 18 2 0) (.mxor (guardOf w) (fld w 15 3) (fld w 10 3) (fld w 5 3))
  | 0x53 => accept (holds w 0 10 0 && holds w 13 2 0 && holds w 18 2 0) (.mnot (guardOf w) (fld w 15 3) (fld w 10 3))
  | 0x54 => accept (holds w 0 11 0) (.mpopc (guardOf w) (fld w 14 6) (fld w 11 3))
  | 0x55 => accept (holds w 0 11 0) (.mfirst (guardOf w) (fld w 14 6) (fld w 11 3))
  | 0x58 => accept (holds w 0 15 0 && holds w 17 3 0) (.laclr (guardOf w) (fld w 15 2))
  | 0x59 => accept (holds w 17 3 0) (.lafma (guardOf w) (fld w 15 2) (fld w 10 5) (fld w 5 5) (fld w 3 2) (fld w 1 2) (flag w 0))
  | 0x5A => accept (holds w 1 2 0 && holds w 5 5 0 && holds w 17 3 0) (.laadd (guardOf w) (fld w 15 2) (fld w 10 5) (fld w 3 2) (flag w 0))
  | 0x5B => accept (holds w 0 10 0 && holds w 12 3 0) (.laround (guardOf w) (fld w 15 5) (fld w 10 2))
  | 0x5C => accept (holds w 0 10 0) (.lasgn (guardOf w) (fld w 16 4) (fld w 12 4) (fld w 10 2))
  | 0x5D => accept (holds w 0 10 0 && holds w 12 3 0) (.lamovToVector (guardOf w) (fld w 15 5) (fld w 10 2))
  | 0x5E => accept (holds w 0 10 0 && holds w 17 3 0) (.lamovFromVector (guardOf w) (fld w 15 2) (fld w 10 5))
  | _ => .error .unassigned

/-- The opcodes of slot M (R289). -/
noncomputable def decodeM (w : BitVec 32) : Except DecodeError Instr :=
  match opcodeOf w with
  | 0x01 => accept (true) (.mma (guardOf w) (fld w 16 4) (fld w 12 4) (fld w 8 4) (fld w 0 8))
  | 0x02 => accept (true) (.mmaSp (guardOf w) (fld w 16 4) (fld w 12 4) (fld w 8 4) (fld w 0 8))
  | 0x03 => accept (true) (.mmaMk (guardOf w) (fld w 16 4) (fld w 12 4) (fld w 8 4) (fld w 0 8))
  | 0x04 => accept (holds w 0 20 0) (.mscale (guardOf w))
  | 0x05 => accept (true) (.mmaS (guardOf w) (fld w 16 4) (fld w 12 4) (fld w 8 4) (fld w 0 8))
  | 0x06 => accept (true) (.mmaSpS (guardOf w) (fld w 16 4) (fld w 12 4) (fld w 8 4) (fld w 0 8))
  | 0x08 => accept (holds w 0 16 0) (.mzero (guardOf w) (fld w 16 4))
  | 0x09 => accept (holds w 9 3 0) (.mcvt (guardOf w) (fld w 16 4) (fld w 12 4) (flag w 8) (fld w 4 4) (fld w 1 3) (flag w 0))
  | 0x0A => accept (holds w 0 12 0) (.mmov (guardOf w) (fld w 16 4) (fld w 12 4))
  | 0x0B => accept (holds w 2 10 0) (.mtr (guardOf w) (fld w 16 4) (fld w 12 4) (fld w 0 2))
  | 0x0C => accept (holds w 0 16 0) (.mmask (guardOf w) (fld w 16 4))
  | 0x0D => accept (holds w 0 20 0) (.mclrmask (guardOf w))
  | _ => .error .unassigned

/-- The opcodes of slot F (R304). -/
noncomputable def decodeF (w : BitVec 32) : Except DecodeError Instr :=
  match opcodeOf w with
  | 0x01 => accept (holds w 0 4 0 && holds w 8 12 0) (.fwbind (guardOf w) (fld w 4 4))
  | 0x02 => accept (holds w 0 4 0 && holds w 12 8 0) (.fwread (guardOf w) (fld w 8 4) (fld w 4 4))
  | 0x03 => if holds w 0 4 0 then .ok (.fwstepDeltaPre (guardOf w) (fld w 16 4) (fld w 12 4) (fld w 8 4) (fld w 4 4)) else if holds w 0 4 1 then .ok (.fwstepDeltaPost (guardOf w) (fld w 16 4) (fld w 12 4) (fld w 8 4) (fld w 4 4)) else if holds w 0 4 2 then .ok (.fwstepHebb (guardOf w) (fld w 16 4) (fld w 12 4) (fld w 8 4) (fld w 4 4)) else if holds w 0 4 3 && holds w 12 4 0 then .ok (.fwstepGrad (guardOf w) (fld w 16 4) (fld w 8 4) (fld w 4 4)) else .error .zeroField
  | 0x04 => accept (holds w 0 4 0 && holds w 8 12 0) (.fwfade (guardOf w) (fld w 4 4))
  | 0x05 => accept (holds w 0 4 0 && holds w 8 4 0) (.fwouter (guardOf w) (fld w 16 4) (fld w 12 4) (fld w 4 4))
  | 0x06 => accept (holds w 0 4 0 && holds w 8 12 0) (.fwcommit (guardOf w) (fld w 4 4))
  | 0x08 => accept (holds w 8 12 0) (.fwsnap (guardOf w) (fld w 4 4) (fld w 0 4))
  | 0x09 => accept (holds w 8 8 0 && holds w 18 2 0) (.fwfork (guardOf w) (fld w 16 2) (fld w 4 4) (fld w 0 4))
  | 0x0A => accept (true) (.fwavg (guardOf w) (fld w 16 4) (fld w 12 4) (fld w 8 4) (fld w 4 4) (fld w 0 4))
  | 0x0B => accept (holds w 8 12 0) (.fwroll (guardOf w) (fld w 4 4) (fld w 0 4))
  | 0x0C => accept (holds w 0 4 0 && holds w 8 12 0) (.fwdrop (guardOf w) (fld w 4 4))
  | 0x10 => accept (holds w 8 12 0) (.fwmigr (guardOf w) (fld w 4 4) (fld w 0 4))
  | 0x11 => accept (holds w 8 12 0) (.fwpagein (guardOf w) (fld w 4 4) (fld w 0 4))
  | 0x12 => accept (holds w 0 4 0 && holds w 8 12 0) (.fwevict (guardOf w) (fld w 4 4))
  | 0x13 => accept (holds w 0 4 0 && holds w 8 8 0) (.fwstat (guardOf w) (fld w 16 4) (fld w 4 4))
  | _ => .error .unassigned

/-- The opcodes of slot X (R204). -/
noncomputable def decodeX (w : BitVec 32) : Except DecodeError Instr :=
  match opcodeOf w with
  | 0x01 => accept (holds w 0 6 0) (.xld (guardOf w) (fld w 16 4) (fld w 13 3) (fld w 9 4) (flag w 8) (flag w 7) (flag w 6))
  | 0x02 => accept (holds w 0 6 0) (.xldTr (guardOf w) (fld w 16 4) (fld w 13 3) (fld w 9 4) (flag w 8) (flag w 7) (flag w 6))
  | 0x03 => accept (holds w 0 6 0) (.xst (guardOf w) (fld w 16 4) (fld w 13 3) (fld w 9 4) (flag w 8) (flag w 7) (flag w 6))
  | 0x04 => accept (holds w 1 5 0) (.xldv (guardOf w) (fld w 16 4) (fld w 13 3) (fld w 9 4) (flag w 8) (flag w 7) (flag w 6) (flag w 0))
  | 0x05 => accept (holds w 1 5 0) (.xstv (guardOf w) (fld w 16 4) (fld w 13 3) (fld w 9 4) (flag w 8) (flag w 7) (flag w 6) (flag w 0))
  | 0x06 => accept (holds w 0 6 0 && holds w 16 4 0) (.xldw (guardOf w) (fld w 13 3) (fld w 9 4) (flag w 8) (flag w 7) (flag w 6))
  | 0x08 => accept (holds w 4 2 0 && holds w 16 4 0) (.xcopy (guardOf w) (fld w 13 3) (fld w 9 4) (flag w 8) (flag w 7) (flag w 6) (flag w 3) (fld w 0 3))
  | 0x09 => accept (holds w 2 4 0 && holds w 16 4 0) (.xfill (guardOf w) (fld w 13 3) (fld w 9 4) (flag w 8) (flag w 7) (flag w 6) (fld w 0 2))
  | 0x0A => accept (holds w 3 3 0 && holds w 16 4 0) (.xsub (guardOf w) (fld w 13 3) (fld w 9 4) (flag w 8) (flag w 7) (flag w 6) (fld w 0 3))
  | 0x0B => accept (holds w 3 3 0 && holds w 16 4 0) (.xpub (guardOf w) (fld w 13 3) (fld w 9 4) (flag w 8) (flag w 7) (flag w 6) (fld w 0 3))
  | 0x0C => accept (holds w 3 3 0 && holds w 16 4 0) (.xunsub (guardOf w) (fld w 13 3) (fld w 9 4) (flag w 8) (flag w 7) (flag w 6) (fld w 0 3))
  | 0x10 => if holds w 0 6 0 && holds w 16 4 0 then .ok (.xpre (guardOf w) (fld w 13 3) (fld w 9 4) (flag w 8) (flag w 7) (flag w 6)) else if holds w 0 6 1 && holds w 16 4 0 then .ok (.xpreBar (guardOf w) (fld w 13 3) (fld w 9 4) (flag w 8) (flag w 7) (flag w 6)) else .error .zeroField
  | 0x11 => accept (holds w 0 6 0 && holds w 16 4 0) (.xpin (guardOf w) (fld w 13 3) (fld w 9 4) (flag w 8) (flag w 7) (flag w 6))
  | 0x12 => accept (holds w 0 6 0 && holds w 16 4 0) (.xunpin (guardOf w) (fld w 13 3) (fld w 9 4) (flag w 8) (flag w 7) (flag w 6))
  | 0x13 => accept (holds w 2 4 0 && holds w 16 4 0) (.xmig (guardOf w) (fld w 13 3) (fld w 9 4) (flag w 8) (flag w 7) (flag w 6) (fld w 0 2))
  | 0x18 => accept (holds w 3 13 0) (.xwait (guardOf w) (fld w 16 4) (fld w 1 2) (flag w 0))
  | _ => .error .unassigned

/-- The opcodes of slot G (R313). -/
noncomputable def decodeG (w : BitVec 32) : Except DecodeError Instr :=
  match opcodeOf w with
  | 0x01 => accept (holds w 3 2 0 && holds w 16 4 0) (.ggath (guardOf w) (fld w 12 4) (fld w 8 4) (flag w 7) (flag w 6) (flag w 5) (fld w 0 3))
  | 0x02 => accept (holds w 3 2 0 && holds w 16 4 0) (.gscat (guardOf w) (fld w 12 4) (fld w 8 4) (flag w 7) (flag w 6) (flag w 5) (fld w 0 3))
  | 0x03 => accept (holds w 12 8 0) (.gspd (guardOf w) (fld w 8 4) (flag w 7) (flag w 6) (fld w 3 3) (fld w 0 3))
  | 0x08 => accept (holds w 3 3 0 && holds w 12 4 0) (.gcar (guardOf w) (fld w 16 4) (fld w 8 4) (flag w 7) (flag w 6) (fld w 0 3))
  | 0x09 => accept (holds w 3 3 0 && holds w 12 4 0) (.gcred (guardOf w) (fld w 16 4) (fld w 8 4) (flag w 7) (flag w 6) (fld w 0 3))
  | 0x0A => accept (holds w 3 3 0 && holds w 12 4 0) (.gcbc (guardOf w) (fld w 16 4) (fld w 8 4) (flag w 7) (flag w 6) (fld w 0 3))
  | 0x0B => accept (holds w 3 3 0 && holds w 12 4 0) (.gcag (guardOf w) (fld w 16 4) (fld w 8 4) (flag w 7) (flag w 6) (fld w 0 3))
  | 0x10 => accept (holds w 3 3 0 && holds w 12 4 0 && holds w 18 2 0) (.gsend (guardOf w) (fld w 16 2) (fld w 8 4) (flag w 7) (flag w 6) (fld w 0 3))
  | 0x11 => accept (holds w 3 3 0 && holds w 12 4 0 && holds w 18 2 0) (.grecv (guardOf w) (fld w 16 2) (fld w 8 4) (flag w 7) (flag w 6) (fld w 0 3))
  | 0x12 => accept (holds w 3 3 0 && holds w 12 8 0) (.genq (guardOf w) (fld w 8 4) (flag w 7) (flag w 6) (fld w 0 3))
  | 0x14 => accept (holds w 3 3 0 && holds w 12 8 0) (.glaunch (guardOf w) (fld w 8 4) (flag w 7) (flag w 6) (fld w 0 3))
  | 0x18 => accept (true) (.galloc (guardOf w) (fld w 16 4) (fld w 10 6) (fld w 4 6) (fld w 0 4))
  | 0x19 => accept (true) (.gallocR (guardOf w) (fld w 16 4) (fld w 10 6) (fld w 4 6) (fld w 0 4))
  | 0x1A => accept (holds w 0 4 0) (.gallocF (guardOf w) (fld w 16 4) (fld w 10 6) (fld w 4 6))
  | 0x1B => accept (holds w 0 4 0) (.gallocFR (guardOf w) (fld w 16 4) (fld w 10 6) (fld w 4 6))
  | 0x1C => accept (holds w 10 6 0) (.gfree (guardOf w) (fld w 16 4) (fld w 4 6) (fld w 0 4))
  | 0x1D => accept (holds w 0 4 0 && holds w 10 10 0) (.gretract (guardOf w) (fld w 4 6))
  | 0x20 => accept (holds w 3 3 0 && holds w 12 4 0) (.stopk (guardOf w) (fld w 16 4) (fld w 8 4) (flag w 7) (flag w 6) (fld w 0 3))
  | 0x21 => accept (holds w 3 3 0 && holds w 12 4 0) (.stemp (guardOf w) (fld w 16 4) (fld w 8 4) (flag w 7) (flag w 6) (fld w 0 3))
  | 0x22 => accept (holds w 3 3 0 && holds w 12 4 0) (.stopp (guardOf w) (fld w 16 4) (fld w 8 4) (flag w 7) (flag w 6) (fld w 0 3))
  | 0x23 => accept (holds w 3 3 0 && holds w 12 4 0) (.sgram (guardOf w) (fld w 16 4) (fld w 8 4) (flag w 7) (flag w 6) (fld w 0 3))
  | 0x24 => accept (holds w 3 3 0 && holds w 12 4 0) (.sdraw (guardOf w) (fld w 16 4) (fld w 8 4) (flag w 7) (flag w 6) (fld w 0 3))
  | 0x25 => accept (holds w 3 3 0 && holds w 12 4 0) (.saccept (guardOf w) (fld w 16 4) (fld w 8 4) (flag w 7) (flag w 6) (fld w 0 3))
  | 0x26 => accept (holds w 3 3 0 && holds w 12 4 0) (.stok (guardOf w) (fld w 16 4) (fld w 8 4) (flag w 7) (flag w 6) (fld w 0 3))
  | _ => .error .unassigned

/-- The instruction a slot word names in a slot, before the operand limits are looked at. -/
noncomputable def decodeRaw (sl : Slot) (w : BitVec 32) : Except DecodeError Instr :=
  if opcodeOf w = 0x7F then decodeNop sl w
  else match sl with
    | .C => decodeC w
    | .A => decodeA w
    | .B => decodeB w
    | .V => decodeV w
    | .M => decodeM w
    | .F => decodeF w
    | .X => decodeX w
    | .G => decodeG w

/-- The instruction a slot word names, with every decode check that its fields alone decide (R189,
R438). -/
noncomputable def decodeSlot (sl : Slot) (w : BitVec 32) : Except DecodeError Instr :=
  match decodeRaw sl w with
  | .ok i => if i.wellFormed then .ok i else .error .operand
  | .error e => .error e

/-! ## The encoder, from the same tables -/

/-- A slot word from its guard, opcode and form fields (R179). -/
def slotWord (g : Guard) (op form : Nat) : BitVec 32 :=
  BitVec.ofNat 32 (g.gp.toNat * 2 ^ 28 + g.gn.toNat * 2 ^ 27 + op * 2 ^ 20 + form)

/-- The form fields of a slot word: each value at its lowest bit (R181 to R188). -/
def place : List (Nat × Nat) → Nat
  | [] => 0
  | p :: r => p.1 * 2 ^ p.2 + place r

/-- The slot whose words name the instruction; an event of the device has none. -/
def Instr.slot? (i : Instr) : Option Slot :=
  match i with
  | .syncWait _ _ => none
  | .syncPost _ _ => none
  | .syncTake _ _ => none
  | .nullifierSkip => none
  | .partialSumArrive _ => none
  | .mCommandComplete _ => none
  | .fCommandComplete _ => none
  | .stateEvict _ => none
  | .stateEvictDone _ _ => none
  | .statePageinDone _ _ _ => none
  | .fwMigrationCopyDone _ _ => none
  | .fwResidencyHoldExpire _ _ => none
  | .xCommandComplete _ _ => none
  | .gCommandComplete _ _ => none
  | .sparseIndexPush _ => none
  | .collectiveContribution _ _ => none
  | .collectiveTimeout _ => none
  | .mailboxDescriptorArrive _ _ => none
  | .mailboxDescriptorTimeout _ _ => none
  | .grecvTimeout _ _ => none
  | .read _ => none
  | .write _ => none
  | .atomic _ => none
  | .rowcopy _ _ _ => none
  | .rowinit _ _ _ => none
  | .subscribe _ _ => none
  | .pull _ _ => none
  | .packetDiscard _ _ => none
  | .dramActivate _ _ => none
  | .dramRefresh _ _ => none
  | .rmlogValidClear _ => none
  | .tierDemote _ => none
  | .pageInComplete _ _ => none
  | .residencyHoldExpire _ => none
  | .translationWalk _ => none
  | .remoteScratchpadAccess _ => none
  | .waitWithdraw _ => none
  | .waiterTableRetry _ => none
  | .feWaitLimit _ => none
  | .remoteAccessTimeout _ => none
  | .flagPostArrive _ => none
  | .flitReplay _ _ => none
  | .linkFailed _ _ => none
  | .fablinkRetrain _ _ => none
  | .linkTrainingDone _ _ _ => none
  | .headSuspect _ _ => none
  | .meridianCapture _ _ => none
  | .tokenRegenerate _ => none
  | .ringSlotLand _ _ => none
  | .ringSlotDrain _ _ => none
  | .ringEnlarge _ _ => none
  | .ringExtensionMove _ _ => none
  | .scratchpadEccError _ _ _ => none
  | .recordEnqueue _ => none
  | .enqueueWindowWrite _ _ _ => none
  | .joinDecrement _ => none
  | .spillToOverflow _ => none
  | .fillFromOverflow _ => none
  | .dispatch _ => none
  | .budget _ => none
  | .launchRecordPlace _ => none
  | .shapeResolve _ => none
  | .retract _ => none
  | .crewComplete _ _ => none
  | .queueDestroy _ _ => none
  | .qstatClear _ => none
  | .orreryGo _ => none
  | .orreryNodeFire _ _ => none
  | .orreryIndexTake _ _ => none
  | .ueMessageReceive _ _ _ _ _ => none
  | .tokeniseRequest _ _ => none
  | .requestWordLand _ _ => none
  | .templateEnqueue _ _ => none
  | .detokeniseWord _ _ => none
  | .endpointWrite _ _ _ _ _ => none
  | .almanacLoad _ _ _ => none
  | .almanacLoadDone _ => none
  | .userTrapEntry _ => none
  | .kernelTrapEntry _ => none
  | .swapOut _ => none
  | .swapIn _ => none
  | .swapComplete _ => none
  | .partitionReset _ => none
  | .managementRestart _ => none
  | .powerOnReset _ => none
  | .bootStageVerify _ _ => none
  | .attestationStart _ => none
  | .attestationDone _ => none
  | .freezeCycle _ => none
  | .thermalThrottle _ _ _ => none
  | .climcapStep _ => none
  | .thermalStop _ _ _ => none
  | .registerWrite _ _ _ _ => none
  | .remoteAccessReply _ => none
  | .demotionComplete _ => none
  | .stateSramEccError _ _ _ _ => none
  | .add sl _ _ _ _ _ => some sl.slot
  | .sub sl _ _ _ _ _ => some sl.slot
  | .mul sl _ _ _ _ _ => some sl.slot
  | .mulh sl _ _ _ _ _ => some sl.slot
  | .mulhn sl _ _ _ _ _ => some sl.slot
  | .div sl _ _ _ _ _ => some sl.slot
  | .divn sl _ _ _ _ _ => some sl.slot
  | .rem sl _ _ _ _ _ => some sl.slot
  | .remn sl _ _ _ _ _ => some sl.slot
  | .min sl _ _ _ _ _ => some sl.slot
  | .max sl _ _ _ _ _ => some sl.slot
  | .minn sl _ _ _ _ _ => some sl.slot
  | .maxn sl _ _ _ _ _ => some sl.slot
  | .abs sl _ _ _ _ => some sl.slot
  | .and sl _ _ _ _ _ => some sl.slot
  | .or sl _ _ _ _ _ => some sl.slot
  | .xor sl _ _ _ _ _ => some sl.slot
  | .andn sl _ _ _ _ _ => some sl.slot
  | .shl sl _ _ _ _ _ => some sl.slot
  | .shr sl _ _ _ _ _ => some sl.slot
  | .sra sl _ _ _ _ _ => some sl.slot
  | .rol sl _ _ _ _ _ => some sl.slot
  | .clz sl _ _ _ _ => some sl.slot
  | .ctz sl _ _ _ _ => some sl.slot
  | .popc sl _ _ _ _ => some sl.slot
  | .sel sl _ _ _ _ _ => some sl.slot
  | .addImm sl _ _ _ _ => some sl.slot
  | .mulImm sl _ _ _ _ => some sl.slot
  | .andImm sl _ _ _ _ => some sl.slot
  | .orImm sl _ _ _ _ => some sl.slot
  | .xorImm sl _ _ _ _ => some sl.slot
  | .shlImm sl _ _ _ _ => some sl.slot
  | .shrImm sl _ _ _ _ => some sl.slot
  | .sraImm sl _ _ _ _ => some sl.slot
  | .rolImm sl _ _ _ _ => some sl.slot
  | .movi sl _ _ _ => some sl.slot
  | .movk sl _ _ _ => some sl.slot
  | .cmpEq sl _ _ _ _ _ => some sl.slot
  | .cmpNe sl _ _ _ _ _ => some sl.slot
  | .cmpLt sl _ _ _ _ _ => some sl.slot
  | .cmpLe sl _ _ _ _ _ => some sl.slot
  | .cmpGt sl _ _ _ _ _ => some sl.slot
  | .cmpGe sl _ _ _ _ _ => some sl.slot
  | .cmpLtn sl _ _ _ _ _ => some sl.slot
  | .cmpLen sl _ _ _ _ _ => some sl.slot
  | .cmpGtn sl _ _ _ _ _ => some sl.slot
  | .cmpGen sl _ _ _ _ _ => some sl.slot
  | .pand sl _ _ _ _ _ => some sl.slot
  | .por sl _ _ _ _ _ => some sl.slot
  | .pxor sl _ _ _ _ _ => some sl.slot
  | .pnot sl _ _ _ _ => some sl.slot
  | .qset _ _ _ => some .A
  | .xset _ _ _ => some .A
  | .hset _ _ _ => some .A
  | .vcfg _ _ => some .A
  | .btsetOffset _ _ _ => some .A
  | .btsetRegister _ _ _ => some .A
  | .rdsr _ _ _ => some .A
  | .wrsr _ _ _ => some .A
  | .tread _ _ => some .A
  | .ld1 _ _ _ _ => some .B
  | .ld2 _ _ _ _ => some .B
  | .ld4 _ _ _ _ => some .B
  | .ld _ _ _ _ => some .B
  | .ld4Acq _ _ _ _ => some .B
  | .ldAcq _ _ _ _ => some .B
  | .st1 _ _ _ _ => some .B
  | .st2 _ _ _ _ => some .B
  | .st4 _ _ _ _ => some .B
  | .st _ _ _ _ => some .B
  | .st4Rel _ _ _ _ => some .B
  | .stRel _ _ _ _ => some .B
  | .ldf _ _ _ _ => some .B
  | .ldfDom _ _ _ _ => some .B
  | .ldfe _ _ _ _ => some .B
  | .ldfeDom _ _ _ _ => some .B
  | .ste _ _ _ _ => some .B
  | .steDom _ _ _ _ => some .B
  | .stf _ _ _ _ => some .B
  | .stfDom _ _ _ _ => some .B
  | .feset _ _ _ => some .B
  | .feclr _ _ _ => some .B
  | .aadd4 _ _ _ _ _ => some .B
  | .aadd _ _ _ _ _ => some .B
  | .aand4 _ _ _ _ _ => some .B
  | .aand _ _ _ _ _ => some .B
  | .aor4 _ _ _ _ _ => some .B
  | .aor _ _ _ _ _ => some .B
  | .axor4 _ _ _ _ _ => some .B
  | .axor _ _ _ _ _ => some .B
  | .amin4 _ _ _ _ _ => some .B
  | .amin _ _ _ _ _ => some .B
  | .amax4 _ _ _ _ _ => some .B
  | .amax _ _ _ _ _ => some .B
  | .aminn4 _ _ _ _ _ => some .B
  | .aminn _ _ _ _ _ => some .B
  | .amaxn4 _ _ _ _ _ => some .B
  | .amaxn _ _ _ _ _ => some .B
  | .axchg4 _ _ _ _ _ => some .B
  | .axchg _ _ _ _ _ => some .B
  | .acas4 _ _ _ _ _ => some .B
  | .acas _ _ _ _ _ => some .B
  | .afaddF32 _ _ _ _ _ => some .B
  | .afaddF64 _ _ _ _ _ => some .B
  | .afminF32 _ _ _ _ _ => some .B
  | .afmaxF32 _ _ _ _ _ => some .B
  | .afminF64 _ _ _ _ _ => some .B
  | .afmaxF64 _ _ _ _ _ => some .B
  | .chunk _ _ _ _ => some .B
  | .fence _ _ => some .B
  | .drain _ _ => some .B
  | .barArr _ _ _ _ => some .B
  | .barWt _ _ _ => some .B
  | .barSync _ _ => some .B
  | .cfset _ _ _ => some .B
  | .cfadd _ _ _ => some .B
  | .cfrd _ _ _ => some .B
  | .fres _ _ _ => some .B
  | .fjoin _ _ _ _ _ => some .B
  | .fpoll _ _ _ _ => some .B
  | .xinv _ _ _ => some .B
  | .nop sl _ => some sl
  | .br _ _ => some .C
  | .brt _ _ _ _ _ _ _ => some .C
  | .call _ _ => some .C
  | .callr _ _ => some .C
  | .ret _ => some .C
  | .jr _ _ => some .C
  | .jt _ _ _ => some .C
  | .loopLc0 _ _ => some .C
  | .loopLc1 _ _ => some .C
  | .suspend _ => some .C
  | .yield _ => some .C
  | .endBlock _ => some .C
  | .endF _ _ => some .C
  | .trap _ _ => some .C
  | .uiret _ => some .C
  | .uiretSkip _ => some .C
  | .eret _ => some .C
  | .halt _ => some .C
  | .vadd _ _ _ _ _ _ _ => some .V
  | .vsub _ _ _ _ _ _ _ => some .V
  | .vmul _ _ _ _ _ _ _ => some .V
  | .vmulh _ _ _ _ _ _ _ => some .V
  | .vaddsat _ _ _ _ _ _ _ => some .V
  | .vsubsat _ _ _ _ _ _ _ => some .V
  | .vavg _ _ _ _ _ _ _ => some .V
  | .vmin _ _ _ _ _ _ _ => some .V
  | .vmax _ _ _ _ _ _ _ => some .V
  | .vabs _ _ _ _ _ => some .V
  | .vand _ _ _ _ _ _ _ => some .V
  | .vor _ _ _ _ _ _ _ => some .V
  | .vxor _ _ _ _ _ _ _ => some .V
  | .vandn _ _ _ _ _ _ _ => some .V
  | .vshl _ _ _ _ _ _ _ => some .V
  | .vshr _ _ _ _ _ _ _ => some .V
  | .vsra _ _ _ _ _ _ _ => some .V
  | .vcmpEq _ _ _ _ _ _ _ => some .V
  | .vcmpNe _ _ _ _ _ _ _ => some .V
  | .vcmpLt _ _ _ _ _ _ _ => some .V
  | .vcmpLe _ _ _ _ _ _ _ => some .V
  | .vcmpGt _ _ _ _ _ _ _ => some .V
  | .vcmpGe _ _ _ _ _ _ _ => some .V
  | .vsel _ _ _ _ _ _ => some .V
  | .vfadd _ _ _ _ _ _ _ => some .V
  | .vfsub _ _ _ _ _ _ _ => some .V
  | .vfmul _ _ _ _ _ _ _ => some .V
  | .vffma _ _ _ _ _ _ _ => some .V
  | .vffms _ _ _ _ _ _ _ => some .V
  | .vfnma _ _ _ _ _ _ _ => some .V
  | .vfmin _ _ _ _ _ _ _ => some .V
  | .vfmax _ _ _ _ _ _ _ => some .V
  | .vfdiv _ _ _ _ _ _ _ => some .V
  | .vfsqrt _ _ _ _ _ => some .V
  | .vfrcp _ _ _ _ _ => some .V
  | .vfrsq _ _ _ _ _ => some .V
  | .vfexp2 _ _ _ _ _ => some .V
  | .vflog2 _ _ _ _ _ => some .V
  | .vftanh _ _ _ _ _ => some .V
  | .vfcls _ _ _ _ _ => some .V
  | .vfcmpEq _ _ _ _ _ _ _ => some .V
  | .vfcmpNe _ _ _ _ _ _ _ => some .V
  | .vfcmpLt _ _ _ _ _ _ _ => some .V
  | .vfcmpLe _ _ _ _ _ _ _ => some .V
  | .vfcmpGt _ _ _ _ _ _ _ => some .V
  | .vfcmpGe _ _ _ _ _ _ _ => some .V
  | .vcvt _ _ _ _ _ _ _ => some .V
  | .vmxpack _ _ _ _ _ => some .V
  | .vmxunpack _ _ _ _ _ => some .V
  | .vredadd _ _ _ _ _ => some .V
  | .vredmin _ _ _ _ _ => some .V
  | .vredmax _ _ _ _ _ => some .V
  | .vscan _ _ _ _ _ => some .V
  | .vperm _ _ _ _ _ _ _ => some .V
  | .vcompress _ _ _ _ => some .V
  | .vexpand _ _ _ _ => some .V
  | .vmov _ _ _ _ _ => some .V
  | .vsplat _ _ _ _ => some .V
  | .vext _ _ _ _ => some .V
  | .vins _ _ _ _ => some .V
  | .mand _ _ _ _ => some .V
  | .mor _ _ _ _ => some .V
  | .mxor _ _ _ _ => some .V
  | .mnot _ _ _ => some .V
  | .mpopc _ _ _ => some .V
  | .mfirst _ _ _ => some .V
  | .laclr _ _ => some .V
  | .lafma _ _ _ _ _ _ _ => some .V
  | .laadd _ _ _ _ _ => some .V
  | .laround _ _ _ => some .V
  | .lasgn _ _ _ _ => some .V
  | .lamovToVector _ _ _ => some .V
  | .lamovFromVector _ _ _ => some .V
  | .mma _ _ _ _ _ => some .M
  | .mmaSp _ _ _ _ _ => some .M
  | .mmaMk _ _ _ _ _ => some .M
  | .mscale _ => some .M
  | .mmaS _ _ _ _ _ => some .M
  | .mmaSpS _ _ _ _ _ => some .M
  | .mzero _ _ => some .M
  | .mcvt _ _ _ _ _ _ _ => some .M
  | .mmov _ _ _ => some .M
  | .mtr _ _ _ _ => some .M
  | .mmask _ _ => some .M
  | .mclrmask _ => some .M
  | .fwbind _ _ => some .F
  | .fwread _ _ _ => some .F
  | .fwstepDeltaPre _ _ _ _ _ => some .F
  | .fwstepDeltaPost _ _ _ _ _ => some .F
  | .fwstepHebb _ _ _ _ _ => some .F
  | .fwstepGrad _ _ _ _ => some .F
  | .fwfade _ _ => some .F
  | .fwouter _ _ _ _ => some .F
  | .fwcommit _ _ => some .F
  | .fwsnap _ _ _ => some .F
  | .fwfork _ _ _ _ => some .F
  | .fwavg _ _ _ _ _ _ => some .F
  | .fwroll _ _ _ => some .F
  | .fwdrop _ _ => some .F
  | .fwmigr _ _ _ => some .F
  | .fwpagein _ _ _ => some .F
  | .fwevict _ _ => some .F
  | .fwstat _ _ _ => some .F
  | .xld _ _ _ _ _ _ _ => some .X
  | .xldTr _ _ _ _ _ _ _ => some .X
  | .xst _ _ _ _ _ _ _ => some .X
  | .xldv _ _ _ _ _ _ _ _ => some .X
  | .xstv _ _ _ _ _ _ _ _ => some .X
  | .xldw _ _ _ _ _ _ => some .X
  | .xcopy _ _ _ _ _ _ _ _ => some .X
  | .xfill _ _ _ _ _ _ _ => some .X
  | .xsub _ _ _ _ _ _ _ => some .X
  | .xpub _ _ _ _ _ _ _ => some .X
  | .xunsub _ _ _ _ _ _ _ => some .X
  | .xpre _ _ _ _ _ _ => some .X
  | .xpreBar _ _ _ _ _ _ => some .X
  | .xpin _ _ _ _ _ _ => some .X
  | .xunpin _ _ _ _ _ _ => some .X
  | .xmig _ _ _ _ _ _ _ => some .X
  | .xwait _ _ _ _ => some .X
  | .ggath _ _ _ _ _ _ _ => some .G
  | .gscat _ _ _ _ _ _ _ => some .G
  | .gspd _ _ _ _ _ _ => some .G
  | .gcar _ _ _ _ _ _ => some .G
  | .gcred _ _ _ _ _ _ => some .G
  | .gcbc _ _ _ _ _ _ => some .G
  | .gcag _ _ _ _ _ _ => some .G
  | .gsend _ _ _ _ _ _ => some .G
  | .grecv _ _ _ _ _ _ => some .G
  | .genq _ _ _ _ _ => some .G
  | .glaunch _ _ _ _ _ => some .G
  | .galloc _ _ _ _ _ => some .G
  | .gallocR _ _ _ _ _ => some .G
  | .gallocF _ _ _ _ => some .G
  | .gallocFR _ _ _ _ => some .G
  | .gfree _ _ _ _ => some .G
  | .gretract _ _ => some .G
  | .stopk _ _ _ _ _ _ => some .G
  | .stemp _ _ _ _ _ _ => some .G
  | .stopp _ _ _ _ _ _ => some .G
  | .sgram _ _ _ _ _ _ => some .G
  | .sdraw _ _ _ _ _ _ => some .G
  | .saccept _ _ _ _ _ _ => some .G
  | .stok _ _ _ _ _ _ => some .G

/-- The slot word of an instruction; an event of the device has none. -/
def Instr.encode (i : Instr) : Option (BitVec 32) :=
  match i with
  | .syncWait _ _ => none
  | .syncPost _ _ => none
  | .syncTake _ _ => none
  | .nullifierSkip => none
  | .partialSumArrive _ => none
  | .mCommandComplete _ => none
  | .fCommandComplete _ => none
  | .stateEvict _ => none
  | .stateEvictDone _ _ => none
  | .statePageinDone _ _ _ => none
  | .fwMigrationCopyDone _ _ => none
  | .fwResidencyHoldExpire _ _ => none
  | .xCommandComplete _ _ => none
  | .gCommandComplete _ _ => none
  | .sparseIndexPush _ => none
  | .collectiveContribution _ _ => none
  | .collectiveTimeout _ => none
  | .mailboxDescriptorArrive _ _ => none
  | .mailboxDescriptorTimeout _ _ => none
  | .grecvTimeout _ _ => none
  | .read _ => none
  | .write _ => none
  | .atomic _ => none
  | .rowcopy _ _ _ => none
  | .rowinit _ _ _ => none
  | .subscribe _ _ => none
  | .pull _ _ => none
  | .packetDiscard _ _ => none
  | .dramActivate _ _ => none
  | .dramRefresh _ _ => none
  | .rmlogValidClear _ => none
  | .tierDemote _ => none
  | .pageInComplete _ _ => none
  | .residencyHoldExpire _ => none
  | .translationWalk _ => none
  | .remoteScratchpadAccess _ => none
  | .waitWithdraw _ => none
  | .waiterTableRetry _ => none
  | .feWaitLimit _ => none
  | .remoteAccessTimeout _ => none
  | .flagPostArrive _ => none
  | .flitReplay _ _ => none
  | .linkFailed _ _ => none
  | .fablinkRetrain _ _ => none
  | .linkTrainingDone _ _ _ => none
  | .headSuspect _ _ => none
  | .meridianCapture _ _ => none
  | .tokenRegenerate _ => none
  | .ringSlotLand _ _ => none
  | .ringSlotDrain _ _ => none
  | .ringEnlarge _ _ => none
  | .ringExtensionMove _ _ => none
  | .scratchpadEccError _ _ _ => none
  | .recordEnqueue _ => none
  | .enqueueWindowWrite _ _ _ => none
  | .joinDecrement _ => none
  | .spillToOverflow _ => none
  | .fillFromOverflow _ => none
  | .dispatch _ => none
  | .budget _ => none
  | .launchRecordPlace _ => none
  | .shapeResolve _ => none
  | .retract _ => none
  | .crewComplete _ _ => none
  | .queueDestroy _ _ => none
  | .qstatClear _ => none
  | .orreryGo _ => none
  | .orreryNodeFire _ _ => none
  | .orreryIndexTake _ _ => none
  | .ueMessageReceive _ _ _ _ _ => none
  | .tokeniseRequest _ _ => none
  | .requestWordLand _ _ => none
  | .templateEnqueue _ _ => none
  | .detokeniseWord _ _ => none
  | .endpointWrite _ _ _ _ _ => none
  | .almanacLoad _ _ _ => none
  | .almanacLoadDone _ => none
  | .userTrapEntry _ => none
  | .kernelTrapEntry _ => none
  | .swapOut _ => none
  | .swapIn _ => none
  | .swapComplete _ => none
  | .partitionReset _ => none
  | .managementRestart _ => none
  | .powerOnReset _ => none
  | .bootStageVerify _ _ => none
  | .attestationStart _ => none
  | .attestationDone _ => none
  | .freezeCycle _ => none
  | .thermalThrottle _ _ _ => none
  | .climcapStep _ => none
  | .thermalStop _ _ _ => none
  | .registerWrite _ _ _ _ => none
  | .remoteAccessReply _ => none
  | .demotionComplete _ => none
  | .stateSramEccError _ _ _ _ => none
  | .add _ g d a b w => some (slotWord g 0x01 (place [(d.toNat, 14), (a.toNat, 8), (b.toNat, 2), (w.toNat, 1)]))
  | .sub _ g d a b w => some (slotWord g 0x02 (place [(d.toNat, 14), (a.toNat, 8), (b.toNat, 2), (w.toNat, 1)]))
  | .mul _ g d a b w => some (slotWord g 0x03 (place [(d.toNat, 14), (a.toNat, 8), (b.toNat, 2), (w.toNat, 1)]))
  | .mulh _ g d a b w => some (slotWord g 0x04 (place [(d.toNat, 14), (a.toNat, 8), (b.toNat, 2), (w.toNat, 1)]))
  | .mulhn _ g d a b w => some (slotWord g 0x05 (place [(d.toNat, 14), (a.toNat, 8), (b.toNat, 2), (w.toNat, 1)]))
  | .div _ g d a b w => some (slotWord g 0x06 (place [(d.toNat, 14), (a.toNat, 8), (b.toNat, 2), (w.toNat, 1)]))
  | .divn _ g d a b w => some (slotWord g 0x07 (place [(d.toNat, 14), (a.toNat, 8), (b.toNat, 2), (w.toNat, 1)]))
  | .rem _ g d a b w => some (slotWord g 0x08 (place [(d.toNat, 14), (a.toNat, 8), (b.toNat, 2), (w.toNat, 1)]))
  | .remn _ g d a b w => some (slotWord g 0x09 (place [(d.toNat, 14), (a.toNat, 8), (b.toNat, 2), (w.toNat, 1)]))
  | .min _ g d a b w => some (slotWord g 0x0A (place [(d.toNat, 14), (a.toNat, 8), (b.toNat, 2), (w.toNat, 1)]))
  | .max _ g d a b w => some (slotWord g 0x0B (place [(d.toNat, 14), (a.toNat, 8), (b.toNat, 2), (w.toNat, 1)]))
  | .minn _ g d a b w => some (slotWord g 0x0C (place [(d.toNat, 14), (a.toNat, 8), (b.toNat, 2), (w.toNat, 1)]))
  | .maxn _ g d a b w => some (slotWord g 0x0D (place [(d.toNat, 14), (a.toNat, 8), (b.toNat, 2), (w.toNat, 1)]))
  | .abs _ g d a w => some (slotWord g 0x0E (place [(d.toNat, 14), (a.toNat, 8), (w.toNat, 1)]))
  | .and _ g d a b w => some (slotWord g 0x0F (place [(d.toNat, 14), (a.toNat, 8), (b.toNat, 2), (w.toNat, 1)]))
  | .or _ g d a b w => some (slotWord g 0x10 (place [(d.toNat, 14), (a.toNat, 8), (b.toNat, 2), (w.toNat, 1)]))
  | .xor _ g d a b w => some (slotWord g 0x11 (place [(d.toNat, 14), (a.toNat, 8), (b.toNat, 2), (w.toNat, 1)]))
  | .andn _ g d a b w => some (slotWord g 0x12 (place [(d.toNat, 14), (a.toNat, 8), (b.toNat, 2), (w.toNat, 1)]))
  | .shl _ g d a b w => some (slotWord g 0x13 (place [(d.toNat, 14), (a.toNat, 8), (b.toNat, 2), (w.toNat, 1)]))
  | .shr _ g d a b w => some (slotWord g 0x14 (place [(d.toNat, 14), (a.toNat, 8), (b.toNat, 2), (w.toNat, 1)]))
  | .sra _ g d a b w => some (slotWord g 0x15 (place [(d.toNat, 14), (a.toNat, 8), (b.toNat, 2), (w.toNat, 1)]))
  | .rol _ g d a b w => some (slotWord g 0x16 (place [(d.toNat, 14), (a.toNat, 8), (b.toNat, 2), (w.toNat, 1)]))
  | .clz _ g d a w => some (slotWord g 0x17 (place [(d.toNat, 14), (a.toNat, 8), (w.toNat, 1)]))
  | .ctz _ g d a w => some (slotWord g 0x18 (place [(d.toNat, 14), (a.toNat, 8), (w.toNat, 1)]))
  | .popc _ g d a w => some (slotWord g 0x19 (place [(d.toNat, 14), (a.toNat, 8), (w.toNat, 1)]))
  | .sel _ g p d a b => some (slotWord g 0x1A (place [(p.toNat, 16), (d.toNat, 12), (a.toNat, 6), (b.toNat, 0)]))
  | .addImm _ g d a i => some (slotWord g 0x20 (place [(d.toNat, 14), (a.toNat, 8), (i.toNat, 0)]))
  | .mulImm _ g d a i => some (slotWord g 0x21 (place [(d.toNat, 14), (a.toNat, 8), (i.toNat, 0)]))
  | .andImm _ g d a i => some (slotWord g 0x22 (place [(d.toNat, 14), (a.toNat, 8), (i.toNat, 0)]))
  | .orImm _ g d a i => some (slotWord g 0x23 (place [(d.toNat, 14), (a.toNat, 8), (i.toNat, 0)]))
  | .xorImm _ g d a i => some (slotWord g 0x24 (place [(d.toNat, 14), (a.toNat, 8), (i.toNat, 0)]))
  | .shlImm _ g d a i => some (slotWord g 0x25 (place [(d.toNat, 14), (a.toNat, 8), (i.toNat, 0)]))
  | .shrImm _ g d a i => some (slotWord g 0x26 (place [(d.toNat, 14), (a.toNat, 8), (i.toNat, 0)]))
  | .sraImm _ g d a i => some (slotWord g 0x27 (place [(d.toNat, 14), (a.toNat, 8), (i.toNat, 0)]))
  | .rolImm _ g d a i => some (slotWord g 0x28 (place [(d.toNat, 14), (a.toNat, 8), (i.toNat, 0)]))
  | .movi _ g d i => some (slotWord g 0x2C (place [(d.toNat, 14), (i.toNat, 0)]))
  | .movk _ g d i => some (slotWord g 0x2D (place [(d.toNat, 14), (i.toNat, 0)]))
  | .cmpEq _ g p q a b => some (slotWord g 0x30 (place [(p.toNat, 16), (q.toNat, 12), (a.toNat, 6), (b.toNat, 0)]))
  | .cmpNe _ g p q a b => some (slotWord g 0x31 (place [(p.toNat, 16), (q.toNat, 12), (a.toNat, 6), (b.toNat, 0)]))
  | .cmpLt _ g p q a b => some (slotWord g 0x32 (place [(p.toNat, 16), (q.toNat, 12), (a.toNat, 6), (b.toNat, 0)]))
  | .cmpLe _ g p q a b => some (slotWord g 0x33 (place [(p.toNat, 16), (q.toNat, 12), (a.toNat, 6), (b.toNat, 0)]))
  | .cmpGt _ g p q a b => some (slotWord g 0x34 (place [(p.toNat, 16), (q.toNat, 12), (a.toNat, 6), (b.toNat, 0)]))
  | .cmpGe _ g p q a b => some (slotWord g 0x35 (place [(p.toNat, 16), (q.toNat, 12), (a.toNat, 6), (b.toNat, 0)]))
  | .cmpLtn _ g p q a b => some (slotWord g 0x36 (place [(p.toNat, 16), (q.toNat, 12), (a.toNat, 6), (b.toNat, 0)]))
  | .cmpLen _ g p q a b => some (slotWord g 0x37 (place [(p.toNat, 16), (q.toNat, 12), (a.toNat, 6), (b.toNat, 0)]))
  | .cmpGtn _ g p q a b => some (slotWord g 0x38 (place [(p.toNat, 16), (q.toNat, 12), (a.toNat, 6), (b.toNat, 0)]))
  | .cmpGen _ g p q a b => some (slotWord g 0x39 (place [(p.toNat, 16), (q.toNat, 12), (a.toNat, 6), (b.toNat, 0)]))
  | .pand _ g p q a b => some (slotWord g 0x3C (place [(p.toNat, 16), (q.toNat, 12), (a.toNat, 6), (b.toNat, 0)]))
  | .por _ g p q a b => some (slotWord g 0x3D (place [(p.toNat, 16), (q.toNat, 12), (a.toNat, 6), (b.toNat, 0)]))
  | .pxor _ g p q a b => some (slotWord g 0x3E (place [(p.toNat, 16), (q.toNat, 12), (a.toNat, 6), (b.toNat, 0)]))
  | .pnot _ g p q a => some (slotWord g 0x3F (place [(p.toNat, 16), (q.toNat, 12), (a.toNat, 6)]))
  | .qset g d a => some (slotWord g 0x40 (place [(d.toNat, 14), (a.toNat, 8)]))
  | .xset g d a => some (slotWord g 0x41 (place [(d.toNat, 14), (a.toNat, 8)]))
  | .hset g d a => some (slotWord g 0x42 (place [(d.toNat, 14), (a.toNat, 8)]))
  | .vcfg g a => some (slotWord g 0x43 (place [(a.toNat, 8)]))
  | .btsetOffset g d i => some (slotWord g 0x44 (place [(d.toNat, 14), (i.toNat, 0)]))
  | .btsetRegister g d a => some (slotWord g 0x45 (place [(d.toNat, 14), (a.toNat, 8)]))
  | .rdsr g d c => some (slotWord g 0x46 (place [(d.toNat, 14), (c.toNat, 0)]))
  | .wrsr g sr c => some (slotWord g 0x47 (place [(sr.toNat, 14), (c.toNat, 0)]))
  | .tread g d => some (slotWord g 0x48 (place [(d.toNat, 14)]))
  | .ld1 g d b o => some (slotWord g 0x40 (place [(d.toNat, 14), (b.toNat, 8), (o.toNat, 0)]))
  | .ld2 g d b o => some (slotWord g 0x41 (place [(d.toNat, 14), (b.toNat, 8), (o.toNat, 0)]))
  | .ld4 g d b o => some (slotWord g 0x42 (place [(d.toNat, 14), (b.toNat, 8), (o.toNat, 0)]))
  | .ld g d b o => some (slotWord g 0x43 (place [(d.toNat, 14), (b.toNat, 8), (o.toNat, 0)]))
  | .ld4Acq g d b o => some (slotWord g 0x44 (place [(d.toNat, 14), (b.toNat, 8), (o.toNat, 0)]))
  | .ldAcq g d b o => some (slotWord g 0x45 (place [(d.toNat, 14), (b.toNat, 8), (o.toNat, 0)]))
  | .st1 g d b o => some (slotWord g 0x46 (place [(d.toNat, 14), (b.toNat, 8), (o.toNat, 0)]))
  | .st2 g d b o => some (slotWord g 0x47 (place [(d.toNat, 14), (b.toNat, 8), (o.toNat, 0)]))
  | .st4 g d b o => some (slotWord g 0x48 (place [(d.toNat, 14), (b.toNat, 8), (o.toNat, 0)]))
  | .st g d b o => some (slotWord g 0x49 (place [(d.toNat, 14), (b.toNat, 8), (o.toNat, 0)]))
  | .st4Rel g d b o => some (slotWord g 0x4A (place [(d.toNat, 14), (b.toNat, 8), (o.toNat, 0)]))
  | .stRel g d b o => some (slotWord g 0x4B (place [(d.toNat, 14), (b.toNat, 8), (o.toNat, 0)]))
  | .ldf g d b o => some (slotWord g 0x4C (place [(d.toNat, 14), (b.toNat, 8), (o.toNat, 0)]))
  | .ldfDom g d b o => some (slotWord g 0x4D (place [(d.toNat, 14), (b.toNat, 8), (o.toNat, 0)]))
  | .ldfe g d b o => some (slotWord g 0x4E (place [(d.toNat, 14), (b.toNat, 8), (o.toNat, 0)]))
  | .ldfeDom g d b o => some (slotWord g 0x4F (place [(d.toNat, 14), (b.toNat, 8), (o.toNat, 0)]))
  | .ste g d b o => some (slotWord g 0x50 (place [(d.toNat, 14), (b.toNat, 8), (o.toNat, 0)]))
  | .steDom g d b o => some (slotWord g 0x51 (place [(d.toNat, 14), (b.toNat, 8), (o.toNat, 0)]))
  | .stf g d b o => some (slotWord g 0x52 (place [(d.toNat, 14), (b.toNat, 8), (o.toNat, 0)]))
  | .stfDom g d b o => some (slotWord g 0x53 (place [(d.toNat, 14), (b.toNat, 8), (o.toNat, 0)]))
  | .feset g b o => some (slotWord g 0x54 (place [(b.toNat, 8), (o.toNat, 0)]))
  | .feclr g b o => some (slotWord g 0x55 (place [(b.toNat, 8), (o.toNat, 0)]))
  | .aadd4 g d b r sr => some (slotWord g 0x56 (place [(d.toNat, 14), (b.toNat, 8), (r.toNat, 6), (sr.toNat, 0)]))
  | .aadd g d b r sr => some (slotWord g 0x57 (place [(d.toNat, 14), (b.toNat, 8), (r.toNat, 6), (sr.toNat, 0)]))
  | .aand4 g d b r sr => some (slotWord g 0x58 (place [(d.toNat, 14), (b.toNat, 8), (r.toNat, 6), (sr.toNat, 0)]))
  | .aand g d b r sr => some (slotWord g 0x59 (place [(d.toNat, 14), (b.toNat, 8), (r.toNat, 6), (sr.toNat, 0)]))
  | .aor4 g d b r sr => some (slotWord g 0x5A (place [(d.toNat, 14), (b.toNat, 8), (r.toNat, 6), (sr.toNat, 0)]))
  | .aor g d b r sr => some (slotWord g 0x5B (place [(d.toNat, 14), (b.toNat, 8), (r.toNat, 6), (sr.toNat, 0)]))
  | .axor4 g d b r sr => some (slotWord g 0x5C (place [(d.toNat, 14), (b.toNat, 8), (r.toNat, 6), (sr.toNat, 0)]))
  | .axor g d b r sr => some (slotWord g 0x5D (place [(d.toNat, 14), (b.toNat, 8), (r.toNat, 6), (sr.toNat, 0)]))
  | .amin4 g d b r sr => some (slotWord g 0x5E (place [(d.toNat, 14), (b.toNat, 8), (r.toNat, 6), (sr.toNat, 0)]))
  | .amin g d b r sr => some (slotWord g 0x5F (place [(d.toNat, 14), (b.toNat, 8), (r.toNat, 6), (sr.toNat, 0)]))
  | .amax4 g d b r sr => some (slotWord g 0x60 (place [(d.toNat, 14), (b.toNat, 8), (r.toNat, 6), (sr.toNat, 0)]))
  | .amax g d b r sr => some (slotWord g 0x61 (place [(d.toNat, 14), (b.toNat, 8), (r.toNat, 6), (sr.toNat, 0)]))
  | .aminn4 g d b r sr => some (slotWord g 0x62 (place [(d.toNat, 14), (b.toNat, 8), (r.toNat, 6), (sr.toNat, 0)]))
  | .aminn g d b r sr => some (slotWord g 0x63 (place [(d.toNat, 14), (b.toNat, 8), (r.toNat, 6), (sr.toNat, 0)]))
  | .amaxn4 g d b r sr => some (slotWord g 0x64 (place [(d.toNat, 14), (b.toNat, 8), (r.toNat, 6), (sr.toNat, 0)]))
  | .amaxn g d b r sr => some (slotWord g 0x65 (place [(d.toNat, 14), (b.toNat, 8), (r.toNat, 6), (sr.toNat, 0)]))
  | .axchg4 g d b r sr => some (slotWord g 0x66 (place [(d.toNat, 14), (b.toNat, 8), (r.toNat, 6), (sr.toNat, 0)]))
  | .axchg g d b r sr => some (slotWord g 0x67 (place [(d.toNat, 14), (b.toNat, 8), (r.toNat, 6), (sr.toNat, 0)]))
  | .acas4 g d b r sr => some (slotWord g 0x68 (place [(d.toNat, 14), (b.toNat, 8), (r.toNat, 6), (sr.toNat, 0)]))
  | .acas g d b r sr => some (slotWord g 0x69 (place [(d.toNat, 14), (b.toNat, 8), (r.toNat, 6), (sr.toNat, 0)]))
  | .afaddF32 g d b r sr => some (slotWord g 0x6A (place [(d.toNat, 14), (b.toNat, 8), (r.toNat, 6), (sr.toNat, 0)]))
  | .afaddF64 g d b r sr => some (slotWord g 0x6B (place [(d.toNat, 14), (b.toNat, 8), (r.toNat, 6), (sr.toNat, 0)]))
  | .afminF32 g d b r sr => some (slotWord g 0x6C (place [(d.toNat, 14), (b.toNat, 8), (r.toNat, 6), (sr.toNat, 0)]))
  | .afmaxF32 g d b r sr => some (slotWord g 0x6D (place [(d.toNat, 14), (b.toNat, 8), (r.toNat, 6), (sr.toNat, 0)]))
  | .afminF64 g d b r sr => some (slotWord g 0x6E (place [(d.toNat, 14), (b.toNat, 8), (r.toNat, 6), (sr.toNat, 0)]))
  | .afmaxF64 g d b r sr => some (slotWord g 0x6F (place [(d.toNat, 14), (b.toNat, 8), (r.toNat, 6), (sr.toNat, 0)]))
  | .chunk g d b r => some (slotWord g 0x70 (place [(d.toNat, 14), (b.toNat, 8), (r.toNat, 6)]))
  | .fence g i => some (slotWord g 0x71 (place [(i.toNat, 0)]))
  | .drain g i => some (slotWord g 0x72 (place [(i.toNat, 0)]))
  | .barArr g d a w => some (slotWord g 0x73 (place [(d.toNat, 14), (a.toNat, 8), (w.toNat, 1)]))
  | .barWt g a b => some (slotWord g 0x74 (place [(a.toNat, 8), (b.toNat, 2)]))
  | .barSync g a => some (slotWord g 0x75 (place [(a.toNat, 8)]))
  | .cfset g d a => some (slotWord g 0x76 (place [(d.toNat, 14), (a.toNat, 8)]))
  | .cfadd g a b => some (slotWord g 0x77 (place [(a.toNat, 8), (b.toNat, 2)]))
  | .cfrd g d f => some (slotWord g 0x78 (place [(d.toNat, 14), (f.toNat, 8)]))
  | .fres g a b => some (slotWord g 0x79 (place [(a.toNat, 8), (b.toNat, 2)]))
  | .fjoin g d a b w => some (slotWord g 0x7A (place [(d.toNat, 14), (a.toNat, 8), (b.toNat, 2), (w.toNat, 1)]))
  | .fpoll g d a w => some (slotWord g 0x7B (place [(d.toNat, 14), (a.toNat, 8), (w.toNat, 1)]))
  | .xinv g a b => some (slotWord g 0x7C (place [(a.toNat, 8), (b.toNat, 2)]))
  | .nop _ g => some (slotWord g 0x7F (place []))
  | .br g o => some (slotWord g 0x01 (place [(o.toNat, 0)]))
  | .brt g sr t u v w b => some (slotWord g 0x02 (place [(sr.toNat, 18), (t.toNat, 14), (u.toNat, 10), (v.toNat, 6), (w.toNat, 2), (b.toNat, 0)]))
  | .call g o => some (slotWord g 0x03 (place [(o.toNat, 0)]))
  | .callr g sr => some (slotWord g 0x04 (place [(sr.toNat, 14)]))
  | .ret g => some (slotWord g 0x05 (place []))
  | .jr g sr => some (slotWord g 0x06 (place [(sr.toNat, 14)]))
  | .jt g i o => some (slotWord g 0x07 (place [(i.toNat, 14), (o.toNat, 0)]))
  | .loopLc0 g o => some (slotWord g 0x08 (place [(o.toNat, 0)]))
  | .loopLc1 g o => some (slotWord g 0x09 (place [(o.toNat, 0)]))
  | .suspend g => some (slotWord g 0x0A (place []))
  | .yield g => some (slotWord g 0x0B (place []))
  | .endBlock g => some (slotWord g 0x0C (place []))
  | .endF g sr => some (slotWord g 0x0D (place [(sr.toNat, 14)]))
  | .trap g i => some (slotWord g 0x0E (place [(i.toNat, 0)]))
  | .uiret g => some (slotWord g 0x0F (place []))
  | .uiretSkip g => some (slotWord g 0x10 (place []))
  | .eret g => some (slotWord g 0x11 (place []))
  | .halt g => some (slotWord g 0x12 (place []))
  | .vadd g d a b p q k => some (slotWord g 0x01 (place [(d.toNat, 15), (a.toNat, 10), (b.toNat, 5), (p.toNat, 3), (q.toNat, 1), (k.toNat, 0)]))
  | .vsub g d a b p q k => some (slotWord g 0x02 (place [(d.toNat, 15), (a.toNat, 10), (b.toNat, 5), (p.toNat, 3), (q.toNat, 1), (k.toNat, 0)]))
  | .vmul g d a b p q k => some (slotWord g 0x03 (place [(d.toNat, 15), (a.toNat, 10), (b.toNat, 5), (p.toNat, 3), (q.toNat, 1), (k.toNat, 0)]))
  | .vmulh g d a b p q k => some (slotWord g 0x04 (place [(d.toNat, 15), (a.toNat, 10), (b.toNat, 5), (p.toNat, 3), (q.toNat, 1), (k.toNat, 0)]))
  | .vaddsat g d a b p q k => some (slotWord g 0x05 (place [(d.toNat, 15), (a.toNat, 10), (b.toNat, 5), (p.toNat, 3), (q.toNat, 1), (k.toNat, 0)]))
  | .vsubsat g d a b p q k => some (slotWord g 0x06 (place [(d.toNat, 15), (a.toNat, 10), (b.toNat, 5), (p.toNat, 3), (q.toNat, 1), (k.toNat, 0)]))
  | .vavg g d a b p q k => some (slotWord g 0x07 (place [(d.toNat, 15), (a.toNat, 10), (b.toNat, 5), (p.toNat, 3), (q.toNat, 1), (k.toNat, 0)]))
  | .vmin g d a b p q k => some (slotWord g 0x08 (place [(d.toNat, 15), (a.toNat, 10), (b.toNat, 5), (p.toNat, 3), (q.toNat, 1), (k.toNat, 0)]))
  | .vmax g d a b p q k => some (slotWord g 0x09 (place [(d.toNat, 15), (a.toNat, 10), (b.toNat, 5), (p.toNat, 3), (q.toNat, 1), (k.toNat, 0)]))
  | .vabs g d a p k => some (slotWord g 0x0A (place [(d.toNat, 15), (a.toNat, 10), (p.toNat, 3), (k.toNat, 0)]))
  | .vand g d a b p q k => some (slotWord g 0x0B (place [(d.toNat, 15), (a.toNat, 10), (b.toNat, 5), (p.toNat, 3), (q.toNat, 1), (k.toNat, 0)]))
  | .vor g d a b p q k => some (slotWord g 0x0C (place [(d.toNat, 15), (a.toNat, 10), (b.toNat, 5), (p.toNat, 3), (q.toNat, 1), (k.toNat, 0)]))
  | .vxor g d a b p q k => some (slotWord g 0x0D (place [(d.toNat, 15), (a.toNat, 10), (b.toNat, 5), (p.toNat, 3), (q.toNat, 1), (k.toNat, 0)]))
  | .vandn g d a b p q k => some (slotWord g 0x0E (place [(d.toNat, 15), (a.toNat, 10), (b.toNat, 5), (p.toNat, 3), (q.toNat, 1), (k.toNat, 0)]))
  | .vshl g d a b p q k => some (slotWord g 0x0F (place [(d.toNat, 15), (a.toNat, 10), (b.toNat, 5), (p.toNat, 3), (q.toNat, 1), (k.toNat, 0)]))
  | .vshr g d a b p q k => some (slotWord g 0x10 (place [(d.toNat, 15), (a.toNat, 10), (b.toNat, 5), (p.toNat, 3), (q.toNat, 1), (k.toNat, 0)]))
  | .vsra g d a b p q k => some (slotWord g 0x11 (place [(d.toNat, 15), (a.toNat, 10), (b.toNat, 5), (p.toNat, 3), (q.toNat, 1), (k.toNat, 0)]))
  | .vcmpEq g m a b p q k => some (slotWord g 0x12 (place [(m.toNat, 15), (a.toNat, 10), (b.toNat, 5), (p.toNat, 3), (q.toNat, 1), (k.toNat, 0)]))
  | .vcmpNe g m a b p q k => some (slotWord g 0x13 (place [(m.toNat, 15), (a.toNat, 10), (b.toNat, 5), (p.toNat, 3), (q.toNat, 1), (k.toNat, 0)]))
  | .vcmpLt g m a b p q k => some (slotWord g 0x14 (place [(m.toNat, 15), (a.toNat, 10), (b.toNat, 5), (p.toNat, 3), (q.toNat, 1), (k.toNat, 0)]))
  | .vcmpLe g m a b p q k => some (slotWord g 0x15 (place [(m.toNat, 15), (a.toNat, 10), (b.toNat, 5), (p.toNat, 3), (q.toNat, 1), (k.toNat, 0)]))
  | .vcmpGt g m a b p q k => some (slotWord g 0x16 (place [(m.toNat, 15), (a.toNat, 10), (b.toNat, 5), (p.toNat, 3), (q.toNat, 1), (k.toNat, 0)]))
  | .vcmpGe g m a b p q k => some (slotWord g 0x17 (place [(m.toNat, 15), (a.toNat, 10), (b.toNat, 5), (p.toNat, 3), (q.toNat, 1), (k.toNat, 0)]))
  | .vsel g d a b p q => some (slotWord g 0x18 (place [(d.toNat, 15), (a.toNat, 10), (b.toNat, 5), (p.toNat, 3), (q.toNat, 1)]))
  | .vfadd g d a b p q k => some (slotWord g 0x20 (place [(d.toNat, 15), (a.toNat, 10), (b.toNat, 5), (p.toNat, 3), (q.toNat, 1), (k.toNat, 0)]))
  | .vfsub g d a b p q k => some (slotWord g 0x21 (place [(d.toNat, 15), (a.toNat, 10), (b.toNat, 5), (p.toNat, 3), (q.toNat, 1), (k.toNat, 0)]))
  | .vfmul g d a b p q k => some (slotWord g 0x22 (place [(d.toNat, 15), (a.toNat, 10), (b.toNat, 5), (p.toNat, 3), (q.toNat, 1), (k.toNat, 0)]))
  | .vffma g d a b p q k => some (slotWord g 0x23 (place [(d.toNat, 15), (a.toNat, 10), (b.toNat, 5), (p.toNat, 3), (q.toNat, 1), (k.toNat, 0)]))
  | .vffms g d a b p q k => some (slotWord g 0x24 (place [(d.toNat, 15), (a.toNat, 10), (b.toNat, 5), (p.toNat, 3), (q.toNat, 1), (k.toNat, 0)]))
  | .vfnma g d a b p q k => some (slotWord g 0x25 (place [(d.toNat, 15), (a.toNat, 10), (b.toNat, 5), (p.toNat, 3), (q.toNat, 1), (k.toNat, 0)]))
  | .vfmin g d a b p q k => some (slotWord g 0x26 (place [(d.toNat, 15), (a.toNat, 10), (b.toNat, 5), (p.toNat, 3), (q.toNat, 1), (k.toNat, 0)]))
  | .vfmax g d a b p q k => some (slotWord g 0x27 (place [(d.toNat, 15), (a.toNat, 10), (b.toNat, 5), (p.toNat, 3), (q.toNat, 1), (k.toNat, 0)]))
  | .vfdiv g d a b p q k => some (slotWord g 0x28 (place [(d.toNat, 15), (a.toNat, 10), (b.toNat, 5), (p.toNat, 3), (q.toNat, 1), (k.toNat, 0)]))
  | .vfsqrt g d a p k => some (slotWord g 0x29 (place [(d.toNat, 15), (a.toNat, 10), (p.toNat, 3), (k.toNat, 0)]))
  | .vfrcp g d a p k => some (slotWord g 0x2A (place [(d.toNat, 15), (a.toNat, 10), (p.toNat, 3), (k.toNat, 0)]))
  | .vfrsq g d a p k => some (slotWord g 0x2B (place [(d.toNat, 15), (a.toNat, 10), (p.toNat, 3), (k.toNat, 0)]))
  | .vfexp2 g d a p k => some (slotWord g 0x2C (place [(d.toNat, 15), (a.toNat, 10), (p.toNat, 3), (k.toNat, 0)]))
  | .vflog2 g d a p k => some (slotWord g 0x2D (place [(d.toNat, 15), (a.toNat, 10), (p.toNat, 3), (k.toNat, 0)]))
  | .vftanh g d a p k => some (slotWord g 0x2E (place [(d.toNat, 15), (a.toNat, 10), (p.toNat, 3), (k.toNat, 0)]))
  | .vfcls g d a p k => some (slotWord g 0x2F (place [(d.toNat, 15), (a.toNat, 10), (p.toNat, 3), (k.toNat, 0)]))
  | .vfcmpEq g m a b p q k => some (slotWord g 0x30 (place [(m.toNat, 15), (a.toNat, 10), (b.toNat, 5), (p.toNat, 3), (q.toNat, 1), (k.toNat, 0)]))
  | .vfcmpNe g m a b p q k => some (slotWord g 0x31 (place [(m.toNat, 15), (a.toNat, 10), (b.toNat, 5), (p.toNat, 3), (q.toNat, 1), (k.toNat, 0)]))
  | .vfcmpLt g m a b p q k => some (slotWord g 0x32 (place [(m.toNat, 15), (a.toNat, 10), (b.toNat, 5), (p.toNat, 3), (q.toNat, 1), (k.toNat, 0)]))
  | .vfcmpLe g m a b p q k => some (slotWord g 0x33 (place [(m.toNat, 15), (a.toNat, 10), (b.toNat, 5), (p.toNat, 3), (q.toNat, 1), (k.toNat, 0)]))
  | .vfcmpGt g m a b p q k => some (slotWord g 0x34 (place [(m.toNat, 15), (a.toNat, 10), (b.toNat, 5), (p.toNat, 3), (q.toNat, 1), (k.toNat, 0)]))
  | .vfcmpGe g m a b p q k => some (slotWord g 0x35 (place [(m.toNat, 15), (a.toNat, 10), (b.toNat, 5), (p.toNat, 3), (q.toNat, 1), (k.toNat, 0)]))
  | .vcvt g d a t p sr k => some (slotWord g 0x38 (place [(d.toNat, 15), (a.toNat, 10), (t.toNat, 5), (p.toNat, 3), (sr.toNat, 1), (k.toNat, 0)]))
  | .vmxpack g d a f p => some (slotWord g 0x39 (place [(d.toNat, 15), (a.toNat, 10), (f.toNat, 5), (p.toNat, 3)]))
  | .vmxunpack g d a f p => some (slotWord g 0x3A (place [(d.toNat, 15), (a.toNat, 10), (f.toNat, 5), (p.toNat, 3)]))
  | .vredadd g d a p k => some (slotWord g 0x40 (place [(d.toNat, 15), (a.toNat, 10), (p.toNat, 3), (k.toNat, 0)]))
  | .vredmin g d a p k => some (slotWord g 0x41 (place [(d.toNat, 15), (a.toNat, 10), (p.toNat, 3), (k.toNat, 0)]))
  | .vredmax g d a p k => some (slotWord g 0x42 (place [(d.toNat, 15), (a.toNat, 10), (p.toNat, 3), (k.toNat, 0)]))
  | .vscan g d a p k => some (slotWord g 0x43 (place [(d.toNat, 15), (a.toNat, 10), (p.toNat, 3), (k.toNat, 0)]))
  | .vperm g d a b p q k => some (slotWord g 0x48 (place [(d.toNat, 15), (a.toNat, 10), (b.toNat, 5), (p.toNat, 3), (q.toNat, 1), (k.toNat, 0)]))
  | .vcompress g d a p => some (slotWord g 0x49 (place [(d.toNat, 15), (a.toNat, 10), (p.toNat, 3), (1, 0)]))
  | .vexpand g d a p => some (slotWord g 0x4A (place [(d.toNat, 15), (a.toNat, 10), (p.toNat, 3), (1, 0)]))
  | .vmov g d a p k => some (slotWord g 0x4B (place [(d.toNat, 15), (a.toNat, 10), (p.toNat, 3), (k.toNat, 0)]))
  | .vsplat g d sr k => some (slotWord g 0x4C (place [(d.toNat, 15), (sr.toNat, 5), (k.toNat, 0)]))
  | .vext g sr a i => some (slotWord g 0x4D (place [(sr.toNat, 14), (a.toNat, 9), (i.toNat, 3)]))
  | .vins g d v i => some (slotWord g 0x4E (place [(d.toNat, 15), (v.toNat, 9), (i.toNat, 3)]))
  | .mand g d a b => some (slotWord g 0x50 (place [(d.toNat, 15), (a.toNat, 10), (b.toNat, 5)]))
  | .mor g d a b => some (slotWord g 0x51 (place [(d.toNat, 15), (a.toNat, 10), (b.toNat, 5)]))
  | .mxor g d a b => some (slotWord g 0x52 (place [(d.toNat, 15), (a.toNat, 10), (b.toNat, 5)]))
  | .mnot g d a => some (slotWord g 0x53 (place [(d.toNat, 15), (a.toNat, 10)]))
  | .mpopc g sr m => some (slotWord g 0x54 (place [(sr.toNat, 14), (m.toNat, 11)]))
  | .mfirst g sr m => some (slotWord g 0x55 (place [(sr.toNat, 14), (m.toNat, 11)]))
  | .laclr g l => some (slotWord g 0x58 (place [(l.toNat, 15)]))
  | .lafma g l a b p q k => some (slotWord g 0x59 (place [(l.toNat, 15), (a.toNat, 10), (b.toNat, 5), (p.toNat, 3), (q.toNat, 1), (k.toNat, 0)]))
  | .laadd g l a p k => some (slotWord g 0x5A (place [(l.toNat, 15), (a.toNat, 10), (p.toNat, 3), (k.toNat, 0)]))
  | .laround g d l => some (slotWord g 0x5B (place [(d.toNat, 15), (l.toNat, 10)]))
  | .lasgn g p q l => some (slotWord g 0x5C (place [(p.toNat, 16), (q.toNat, 12), (l.toNat, 10)]))
  | .lamovToVector g d l => some (slotWord g 0x5D (place [(d.toNat, 15), (l.toNat, 10)]))
  | .lamovFromVector g l a => some (slotWord g 0x5E (place [(l.toNat, 15), (a.toNat, 10)]))
  | .mma g c a b o => some (slotWord g 0x01 (place [(c.toNat, 16), (a.toNat, 12), (b.toNat, 8), (o.toNat, 0)]))
  | .mmaSp g c a b o => some (slotWord g 0x02 (place [(c.toNat, 16), (a.toNat, 12), (b.toNat, 8), (o.toNat, 0)]))
  | .mmaMk g c a b o => some (slotWord g 0x03 (place [(c.toNat, 16), (a.toNat, 12), (b.toNat, 8), (o.toNat, 0)]))
  | .mscale g => some (slotWord g 0x04 (place []))
  | .mmaS g c a b o => some (slotWord g 0x05 (place [(c.toNat, 16), (a.toNat, 12), (b.toNat, 8), (o.toNat, 0)]))
  | .mmaSpS g c a b o => some (slotWord g 0x06 (place [(c.toNat, 16), (a.toNat, 12), (b.toNat, 8), (o.toNat, 0)]))
  | .mzero g t => some (slotWord g 0x08 (place [(t.toNat, 16)]))
  | .mcvt g sr d i t r a => some (slotWord g 0x09 (place [(sr.toNat, 16), (d.toNat, 12), (i.toNat, 8), (t.toNat, 4), (r.toNat, 1), (a.toNat, 0)]))
  | .mmov g d sr => some (slotWord g 0x0A (place [(d.toNat, 16), (sr.toNat, 12)]))
  | .mtr g d sr e => some (slotWord g 0x0B (place [(d.toNat, 16), (sr.toNat, 12), (e.toNat, 0)]))
  | .mmask g t => some (slotWord g 0x0C (place [(t.toNat, 16)]))
  | .mclrmask g => some (slotWord g 0x0D (place []))
  | .fwbind g h => some (slotWord g 0x01 (place [(h.toNat, 4)]))
  | .fwread g q h => some (slotWord g 0x02 (place [(q.toNat, 8), (h.toNat, 4)]))
  | .fwstepDeltaPre g k v q h => some (slotWord g 0x03 (place [(k.toNat, 16), (v.toNat, 12), (q.toNat, 8), (h.toNat, 4)]))
  | .fwstepDeltaPost g k v q h => some (slotWord g 0x03 (place [(k.toNat, 16), (v.toNat, 12), (q.toNat, 8), (h.toNat, 4), (1, 0)]))
  | .fwstepHebb g k v q h => some (slotWord g 0x03 (place [(k.toNat, 16), (v.toNat, 12), (q.toNat, 8), (h.toNat, 4), (2, 0)]))
  | .fwstepGrad g k q h => some (slotWord g 0x03 (place [(k.toNat, 16), (q.toNat, 8), (h.toNat, 4), (3, 0)]))
  | .fwfade g h => some (slotWord g 0x04 (place [(h.toNat, 4)]))
  | .fwouter g k v h => some (slotWord g 0x05 (place [(k.toNat, 16), (v.toNat, 12), (h.toNat, 4)]))
  | .fwcommit g h => some (slotWord g 0x06 (place [(h.toNat, 4)]))
  | .fwsnap g h d => some (slotWord g 0x08 (place [(h.toNat, 4), (d.toNat, 0)]))
  | .fwfork g c h d => some (slotWord g 0x09 (place [(c.toNat, 16), (h.toNat, 4), (d.toNat, 0)]))
  | .fwavg g a b c h e => some (slotWord g 0x0A (place [(a.toNat, 16), (b.toNat, 12), (c.toNat, 8), (h.toNat, 4), (e.toNat, 0)]))
  | .fwroll g h sr => some (slotWord g 0x0B (place [(h.toNat, 4), (sr.toNat, 0)]))
  | .fwdrop g h => some (slotWord g 0x0C (place [(h.toNat, 4)]))
  | .fwmigr g h d => some (slotWord g 0x10 (place [(h.toNat, 4), (d.toNat, 0)]))
  | .fwpagein g h f => some (slotWord g 0x11 (place [(h.toNat, 4), (f.toNat, 0)]))
  | .fwevict g h => some (slotWord g 0x12 (place [(h.toNat, 4)]))
  | .fwstat g t h => some (slotWord g 0x13 (place [(t.toNat, 16), (h.toNat, 4)]))
  | .xld g t sr f i p e => some (slotWord g 0x01 (place [(t.toNat, 16), (sr.toNat, 13), (f.toNat, 9), (i.toNat, 8), (p.toNat, 7), (e.toNat, 6)]))
  | .xldTr g t sr f i p e => some (slotWord g 0x02 (place [(t.toNat, 16), (sr.toNat, 13), (f.toNat, 9), (i.toNat, 8), (p.toNat, 7), (e.toNat, 6)]))
  | .xst g t sr f i p e => some (slotWord g 0x03 (place [(t.toNat, 16), (sr.toNat, 13), (f.toNat, 9), (i.toNat, 8), (p.toNat, 7), (e.toNat, 6)]))
  | .xldv g v sr f i p e w => some (slotWord g 0x04 (place [(v.toNat, 16), (sr.toNat, 13), (f.toNat, 9), (i.toNat, 8), (p.toNat, 7), (e.toNat, 6), (w.toNat, 0)]))
  | .xstv g v sr f i p e w => some (slotWord g 0x05 (place [(v.toNat, 16), (sr.toNat, 13), (f.toNat, 9), (i.toNat, 8), (p.toNat, 7), (e.toNat, 6), (w.toNat, 0)]))
  | .xldw g sr f i p e => some (slotWord g 0x06 (place [(sr.toNat, 13), (f.toNat, 9), (i.toNat, 8), (p.toNat, 7), (e.toNat, 6)]))
  | .xcopy g sr f i p e x m => some (slotWord g 0x08 (place [(sr.toNat, 13), (f.toNat, 9), (i.toNat, 8), (p.toNat, 7), (e.toNat, 6), (x.toNat, 3), (m.toNat, 0)]))
  | .xfill g sr f i p e a => some (slotWord g 0x09 (place [(sr.toNat, 13), (f.toNat, 9), (i.toNat, 8), (p.toNat, 7), (e.toNat, 6), (a.toNat, 0)]))
  | .xsub g sr f i p e x => some (slotWord g 0x0A (place [(sr.toNat, 13), (f.toNat, 9), (i.toNat, 8), (p.toNat, 7), (e.toNat, 6), (x.toNat, 0)]))
  | .xpub g sr f i p e x => some (slotWord g 0x0B (place [(sr.toNat, 13), (f.toNat, 9), (i.toNat, 8), (p.toNat, 7), (e.toNat, 6), (x.toNat, 0)]))
  | .xunsub g sr f i p e x => some (slotWord g 0x0C (place [(sr.toNat, 13), (f.toNat, 9), (i.toNat, 8), (p.toNat, 7), (e.toNat, 6), (x.toNat, 0)]))
  | .xpre g sr f i p e => some (slotWord g 0x10 (place [(sr.toNat, 13), (f.toNat, 9), (i.toNat, 8), (p.toNat, 7), (e.toNat, 6)]))
  | .xpreBar g sr f i p e => some (slotWord g 0x10 (place [(sr.toNat, 13), (f.toNat, 9), (i.toNat, 8), (p.toNat, 7), (e.toNat, 6), (1, 0)]))
  | .xpin g sr f i p e => some (slotWord g 0x11 (place [(sr.toNat, 13), (f.toNat, 9), (i.toNat, 8), (p.toNat, 7), (e.toNat, 6)]))
  | .xunpin g sr f i p e => some (slotWord g 0x12 (place [(sr.toNat, 13), (f.toNat, 9), (i.toNat, 8), (p.toNat, 7), (e.toNat, 6)]))
  | .xmig g sr f i p e t => some (slotWord g 0x13 (place [(sr.toNat, 13), (f.toNat, 9), (i.toNat, 8), (p.toNat, 7), (e.toNat, 6), (t.toNat, 0)]))
  | .xwait g r kd v4 => some (slotWord g 0x18 (place [(r.toNat, 16), (kd.toNat, 1), (v4.toNat, 0)]))
  | .ggath g t f p e q sr => some (slotWord g 0x01 (place [(t.toNat, 12), (f.toNat, 8), (p.toNat, 7), (e.toNat, 6), (q.toNat, 5), (sr.toNat, 0)]))
  | .gscat g t f p e q sr => some (slotWord g 0x02 (place [(t.toNat, 12), (f.toNat, 8), (p.toNat, 7), (e.toNat, 6), (q.toNat, 5), (sr.toNat, 0)]))
  | .gspd g f p e r sr => some (slotWord g 0x03 (place [(f.toNat, 8), (p.toNat, 7), (e.toNat, 6), (r.toNat, 3), (sr.toNat, 0)]))
  | .gcar g u f p e sr => some (slotWord g 0x08 (place [(u.toNat, 16), (f.toNat, 8), (p.toNat, 7), (e.toNat, 6), (sr.toNat, 0)]))
  | .gcred g u f p e sr => some (slotWord g 0x09 (place [(u.toNat, 16), (f.toNat, 8), (p.toNat, 7), (e.toNat, 6), (sr.toNat, 0)]))
  | .gcbc g u f p e sr => some (slotWord g 0x0A (place [(u.toNat, 16), (f.toNat, 8), (p.toNat, 7), (e.toNat, 6), (sr.toNat, 0)]))
  | .gcag g u f p e sr => some (slotWord g 0x0B (place [(u.toNat, 16), (f.toNat, 8), (p.toNat, 7), (e.toNat, 6), (sr.toNat, 0)]))
  | .gsend g m f p e sr => some (slotWord g 0x10 (place [(m.toNat, 16), (f.toNat, 8), (p.toNat, 7), (e.toNat, 6), (sr.toNat, 0)]))
  | .grecv g m f p e sr => some (slotWord g 0x11 (place [(m.toNat, 16), (f.toNat, 8), (p.toNat, 7), (e.toNat, 6), (sr.toNat, 0)]))
  | .genq g f p e sr => some (slotWord g 0x12 (place [(f.toNat, 8), (p.toNat, 7), (e.toNat, 6), (sr.toNat, 0)]))
  | .glaunch g f p e sr => some (slotWord g 0x14 (place [(f.toNat, 8), (p.toNat, 7), (e.toNat, 6), (sr.toNat, 0)]))
  | .galloc g a d sr p => some (slotWord g 0x18 (place [(a.toNat, 16), (d.toNat, 10), (sr.toNat, 4), (p.toNat, 0)]))
  | .gallocR g a d sr p => some (slotWord g 0x19 (place [(a.toNat, 16), (d.toNat, 10), (sr.toNat, 4), (p.toNat, 0)]))
  | .gallocF g a d sr => some (slotWord g 0x1A (place [(a.toNat, 16), (d.toNat, 10), (sr.toNat, 4)]))
  | .gallocFR g a d sr => some (slotWord g 0x1B (place [(a.toNat, 16), (d.toNat, 10), (sr.toNat, 4)]))
  | .gfree g a sr p => some (slotWord g 0x1C (place [(a.toNat, 16), (sr.toNat, 4), (p.toNat, 0)]))
  | .gretract g sr => some (slotWord g 0x1D (place [(sr.toNat, 4)]))
  | .stopk g u f p e sr => some (slotWord g 0x20 (place [(u.toNat, 16), (f.toNat, 8), (p.toNat, 7), (e.toNat, 6), (sr.toNat, 0)]))
  | .stemp g u f p e sr => some (slotWord g 0x21 (place [(u.toNat, 16), (f.toNat, 8), (p.toNat, 7), (e.toNat, 6), (sr.toNat, 0)]))
  | .stopp g u f p e sr => some (slotWord g 0x22 (place [(u.toNat, 16), (f.toNat, 8), (p.toNat, 7), (e.toNat, 6), (sr.toNat, 0)]))
  | .sgram g u f p e sr => some (slotWord g 0x23 (place [(u.toNat, 16), (f.toNat, 8), (p.toNat, 7), (e.toNat, 6), (sr.toNat, 0)]))
  | .sdraw g u f p e sr => some (slotWord g 0x24 (place [(u.toNat, 16), (f.toNat, 8), (p.toNat, 7), (e.toNat, 6), (sr.toNat, 0)]))
  | .saccept g u f p e sr => some (slotWord g 0x25 (place [(u.toNat, 16), (f.toNat, 8), (p.toNat, 7), (e.toNat, 6), (sr.toNat, 0)]))
  | .stok g u f p e sr => some (slotWord g 0x26 (place [(u.toNat, 16), (f.toNat, 8), (p.toNat, 7), (e.toNat, 6), (sr.toNat, 0)]))

/-- The opcode of an instruction's slot word; 0 for an event (R397 records it). -/
def Instr.opcode (i : Instr) : BitVec 7 :=
  match i.encode with
  | some w => BitVec.ofNat 7 (opcodeOf w)
  | none => 0

/-- The guard of an instruction's slot word; an event of the device has none (R179). -/
def Instr.guard? (i : Instr) : Option Guard :=
  match i with
  | .syncWait _ _ => none
  | .syncPost _ _ => none
  | .syncTake _ _ => none
  | .nullifierSkip => none
  | .partialSumArrive _ => none
  | .mCommandComplete _ => none
  | .fCommandComplete _ => none
  | .stateEvict _ => none
  | .stateEvictDone _ _ => none
  | .statePageinDone _ _ _ => none
  | .fwMigrationCopyDone _ _ => none
  | .fwResidencyHoldExpire _ _ => none
  | .xCommandComplete _ _ => none
  | .gCommandComplete _ _ => none
  | .sparseIndexPush _ => none
  | .collectiveContribution _ _ => none
  | .collectiveTimeout _ => none
  | .mailboxDescriptorArrive _ _ => none
  | .mailboxDescriptorTimeout _ _ => none
  | .grecvTimeout _ _ => none
  | .read _ => none
  | .write _ => none
  | .atomic _ => none
  | .rowcopy _ _ _ => none
  | .rowinit _ _ _ => none
  | .subscribe _ _ => none
  | .pull _ _ => none
  | .packetDiscard _ _ => none
  | .dramActivate _ _ => none
  | .dramRefresh _ _ => none
  | .rmlogValidClear _ => none
  | .tierDemote _ => none
  | .pageInComplete _ _ => none
  | .residencyHoldExpire _ => none
  | .translationWalk _ => none
  | .remoteScratchpadAccess _ => none
  | .waitWithdraw _ => none
  | .waiterTableRetry _ => none
  | .feWaitLimit _ => none
  | .remoteAccessTimeout _ => none
  | .flagPostArrive _ => none
  | .flitReplay _ _ => none
  | .linkFailed _ _ => none
  | .fablinkRetrain _ _ => none
  | .linkTrainingDone _ _ _ => none
  | .headSuspect _ _ => none
  | .meridianCapture _ _ => none
  | .tokenRegenerate _ => none
  | .ringSlotLand _ _ => none
  | .ringSlotDrain _ _ => none
  | .ringEnlarge _ _ => none
  | .ringExtensionMove _ _ => none
  | .scratchpadEccError _ _ _ => none
  | .recordEnqueue _ => none
  | .enqueueWindowWrite _ _ _ => none
  | .joinDecrement _ => none
  | .spillToOverflow _ => none
  | .fillFromOverflow _ => none
  | .dispatch _ => none
  | .budget _ => none
  | .launchRecordPlace _ => none
  | .shapeResolve _ => none
  | .retract _ => none
  | .crewComplete _ _ => none
  | .queueDestroy _ _ => none
  | .qstatClear _ => none
  | .orreryGo _ => none
  | .orreryNodeFire _ _ => none
  | .orreryIndexTake _ _ => none
  | .ueMessageReceive _ _ _ _ _ => none
  | .tokeniseRequest _ _ => none
  | .requestWordLand _ _ => none
  | .templateEnqueue _ _ => none
  | .detokeniseWord _ _ => none
  | .endpointWrite _ _ _ _ _ => none
  | .almanacLoad _ _ _ => none
  | .almanacLoadDone _ => none
  | .userTrapEntry _ => none
  | .kernelTrapEntry _ => none
  | .swapOut _ => none
  | .swapIn _ => none
  | .swapComplete _ => none
  | .partitionReset _ => none
  | .managementRestart _ => none
  | .powerOnReset _ => none
  | .bootStageVerify _ _ => none
  | .attestationStart _ => none
  | .attestationDone _ => none
  | .freezeCycle _ => none
  | .thermalThrottle _ _ _ => none
  | .climcapStep _ => none
  | .thermalStop _ _ _ => none
  | .registerWrite _ _ _ _ => none
  | .remoteAccessReply _ => none
  | .demotionComplete _ => none
  | .stateSramEccError _ _ _ _ => none
  | .add _ g _ _ _ _ => some g
  | .sub _ g _ _ _ _ => some g
  | .mul _ g _ _ _ _ => some g
  | .mulh _ g _ _ _ _ => some g
  | .mulhn _ g _ _ _ _ => some g
  | .div _ g _ _ _ _ => some g
  | .divn _ g _ _ _ _ => some g
  | .rem _ g _ _ _ _ => some g
  | .remn _ g _ _ _ _ => some g
  | .min _ g _ _ _ _ => some g
  | .max _ g _ _ _ _ => some g
  | .minn _ g _ _ _ _ => some g
  | .maxn _ g _ _ _ _ => some g
  | .abs _ g _ _ _ => some g
  | .and _ g _ _ _ _ => some g
  | .or _ g _ _ _ _ => some g
  | .xor _ g _ _ _ _ => some g
  | .andn _ g _ _ _ _ => some g
  | .shl _ g _ _ _ _ => some g
  | .shr _ g _ _ _ _ => some g
  | .sra _ g _ _ _ _ => some g
  | .rol _ g _ _ _ _ => some g
  | .clz _ g _ _ _ => some g
  | .ctz _ g _ _ _ => some g
  | .popc _ g _ _ _ => some g
  | .sel _ g _ _ _ _ => some g
  | .addImm _ g _ _ _ => some g
  | .mulImm _ g _ _ _ => some g
  | .andImm _ g _ _ _ => some g
  | .orImm _ g _ _ _ => some g
  | .xorImm _ g _ _ _ => some g
  | .shlImm _ g _ _ _ => some g
  | .shrImm _ g _ _ _ => some g
  | .sraImm _ g _ _ _ => some g
  | .rolImm _ g _ _ _ => some g
  | .movi _ g _ _ => some g
  | .movk _ g _ _ => some g
  | .cmpEq _ g _ _ _ _ => some g
  | .cmpNe _ g _ _ _ _ => some g
  | .cmpLt _ g _ _ _ _ => some g
  | .cmpLe _ g _ _ _ _ => some g
  | .cmpGt _ g _ _ _ _ => some g
  | .cmpGe _ g _ _ _ _ => some g
  | .cmpLtn _ g _ _ _ _ => some g
  | .cmpLen _ g _ _ _ _ => some g
  | .cmpGtn _ g _ _ _ _ => some g
  | .cmpGen _ g _ _ _ _ => some g
  | .pand _ g _ _ _ _ => some g
  | .por _ g _ _ _ _ => some g
  | .pxor _ g _ _ _ _ => some g
  | .pnot _ g _ _ _ => some g
  | .qset g _ _ => some g
  | .xset g _ _ => some g
  | .hset g _ _ => some g
  | .vcfg g _ => some g
  | .btsetOffset g _ _ => some g
  | .btsetRegister g _ _ => some g
  | .rdsr g _ _ => some g
  | .wrsr g _ _ => some g
  | .tread g _ => some g
  | .ld1 g _ _ _ => some g
  | .ld2 g _ _ _ => some g
  | .ld4 g _ _ _ => some g
  | .ld g _ _ _ => some g
  | .ld4Acq g _ _ _ => some g
  | .ldAcq g _ _ _ => some g
  | .st1 g _ _ _ => some g
  | .st2 g _ _ _ => some g
  | .st4 g _ _ _ => some g
  | .st g _ _ _ => some g
  | .st4Rel g _ _ _ => some g
  | .stRel g _ _ _ => some g
  | .ldf g _ _ _ => some g
  | .ldfDom g _ _ _ => some g
  | .ldfe g _ _ _ => some g
  | .ldfeDom g _ _ _ => some g
  | .ste g _ _ _ => some g
  | .steDom g _ _ _ => some g
  | .stf g _ _ _ => some g
  | .stfDom g _ _ _ => some g
  | .feset g _ _ => some g
  | .feclr g _ _ => some g
  | .aadd4 g _ _ _ _ => some g
  | .aadd g _ _ _ _ => some g
  | .aand4 g _ _ _ _ => some g
  | .aand g _ _ _ _ => some g
  | .aor4 g _ _ _ _ => some g
  | .aor g _ _ _ _ => some g
  | .axor4 g _ _ _ _ => some g
  | .axor g _ _ _ _ => some g
  | .amin4 g _ _ _ _ => some g
  | .amin g _ _ _ _ => some g
  | .amax4 g _ _ _ _ => some g
  | .amax g _ _ _ _ => some g
  | .aminn4 g _ _ _ _ => some g
  | .aminn g _ _ _ _ => some g
  | .amaxn4 g _ _ _ _ => some g
  | .amaxn g _ _ _ _ => some g
  | .axchg4 g _ _ _ _ => some g
  | .axchg g _ _ _ _ => some g
  | .acas4 g _ _ _ _ => some g
  | .acas g _ _ _ _ => some g
  | .afaddF32 g _ _ _ _ => some g
  | .afaddF64 g _ _ _ _ => some g
  | .afminF32 g _ _ _ _ => some g
  | .afmaxF32 g _ _ _ _ => some g
  | .afminF64 g _ _ _ _ => some g
  | .afmaxF64 g _ _ _ _ => some g
  | .chunk g _ _ _ => some g
  | .fence g _ => some g
  | .drain g _ => some g
  | .barArr g _ _ _ => some g
  | .barWt g _ _ => some g
  | .barSync g _ => some g
  | .cfset g _ _ => some g
  | .cfadd g _ _ => some g
  | .cfrd g _ _ => some g
  | .fres g _ _ => some g
  | .fjoin g _ _ _ _ => some g
  | .fpoll g _ _ _ => some g
  | .xinv g _ _ => some g
  | .nop _ g => some g
  | .br g _ => some g
  | .brt g _ _ _ _ _ _ => some g
  | .call g _ => some g
  | .callr g _ => some g
  | .ret g => some g
  | .jr g _ => some g
  | .jt g _ _ => some g
  | .loopLc0 g _ => some g
  | .loopLc1 g _ => some g
  | .suspend g => some g
  | .yield g => some g
  | .endBlock g => some g
  | .endF g _ => some g
  | .trap g _ => some g
  | .uiret g => some g
  | .uiretSkip g => some g
  | .eret g => some g
  | .halt g => some g
  | .vadd g _ _ _ _ _ _ => some g
  | .vsub g _ _ _ _ _ _ => some g
  | .vmul g _ _ _ _ _ _ => some g
  | .vmulh g _ _ _ _ _ _ => some g
  | .vaddsat g _ _ _ _ _ _ => some g
  | .vsubsat g _ _ _ _ _ _ => some g
  | .vavg g _ _ _ _ _ _ => some g
  | .vmin g _ _ _ _ _ _ => some g
  | .vmax g _ _ _ _ _ _ => some g
  | .vabs g _ _ _ _ => some g
  | .vand g _ _ _ _ _ _ => some g
  | .vor g _ _ _ _ _ _ => some g
  | .vxor g _ _ _ _ _ _ => some g
  | .vandn g _ _ _ _ _ _ => some g
  | .vshl g _ _ _ _ _ _ => some g
  | .vshr g _ _ _ _ _ _ => some g
  | .vsra g _ _ _ _ _ _ => some g
  | .vcmpEq g _ _ _ _ _ _ => some g
  | .vcmpNe g _ _ _ _ _ _ => some g
  | .vcmpLt g _ _ _ _ _ _ => some g
  | .vcmpLe g _ _ _ _ _ _ => some g
  | .vcmpGt g _ _ _ _ _ _ => some g
  | .vcmpGe g _ _ _ _ _ _ => some g
  | .vsel g _ _ _ _ _ => some g
  | .vfadd g _ _ _ _ _ _ => some g
  | .vfsub g _ _ _ _ _ _ => some g
  | .vfmul g _ _ _ _ _ _ => some g
  | .vffma g _ _ _ _ _ _ => some g
  | .vffms g _ _ _ _ _ _ => some g
  | .vfnma g _ _ _ _ _ _ => some g
  | .vfmin g _ _ _ _ _ _ => some g
  | .vfmax g _ _ _ _ _ _ => some g
  | .vfdiv g _ _ _ _ _ _ => some g
  | .vfsqrt g _ _ _ _ => some g
  | .vfrcp g _ _ _ _ => some g
  | .vfrsq g _ _ _ _ => some g
  | .vfexp2 g _ _ _ _ => some g
  | .vflog2 g _ _ _ _ => some g
  | .vftanh g _ _ _ _ => some g
  | .vfcls g _ _ _ _ => some g
  | .vfcmpEq g _ _ _ _ _ _ => some g
  | .vfcmpNe g _ _ _ _ _ _ => some g
  | .vfcmpLt g _ _ _ _ _ _ => some g
  | .vfcmpLe g _ _ _ _ _ _ => some g
  | .vfcmpGt g _ _ _ _ _ _ => some g
  | .vfcmpGe g _ _ _ _ _ _ => some g
  | .vcvt g _ _ _ _ _ _ => some g
  | .vmxpack g _ _ _ _ => some g
  | .vmxunpack g _ _ _ _ => some g
  | .vredadd g _ _ _ _ => some g
  | .vredmin g _ _ _ _ => some g
  | .vredmax g _ _ _ _ => some g
  | .vscan g _ _ _ _ => some g
  | .vperm g _ _ _ _ _ _ => some g
  | .vcompress g _ _ _ => some g
  | .vexpand g _ _ _ => some g
  | .vmov g _ _ _ _ => some g
  | .vsplat g _ _ _ => some g
  | .vext g _ _ _ => some g
  | .vins g _ _ _ => some g
  | .mand g _ _ _ => some g
  | .mor g _ _ _ => some g
  | .mxor g _ _ _ => some g
  | .mnot g _ _ => some g
  | .mpopc g _ _ => some g
  | .mfirst g _ _ => some g
  | .laclr g _ => some g
  | .lafma g _ _ _ _ _ _ => some g
  | .laadd g _ _ _ _ => some g
  | .laround g _ _ => some g
  | .lasgn g _ _ _ => some g
  | .lamovToVector g _ _ => some g
  | .lamovFromVector g _ _ => some g
  | .mma g _ _ _ _ => some g
  | .mmaSp g _ _ _ _ => some g
  | .mmaMk g _ _ _ _ => some g
  | .mscale g => some g
  | .mmaS g _ _ _ _ => some g
  | .mmaSpS g _ _ _ _ => some g
  | .mzero g _ => some g
  | .mcvt g _ _ _ _ _ _ => some g
  | .mmov g _ _ => some g
  | .mtr g _ _ _ => some g
  | .mmask g _ => some g
  | .mclrmask g => some g
  | .fwbind g _ => some g
  | .fwread g _ _ => some g
  | .fwstepDeltaPre g _ _ _ _ => some g
  | .fwstepDeltaPost g _ _ _ _ => some g
  | .fwstepHebb g _ _ _ _ => some g
  | .fwstepGrad g _ _ _ => some g
  | .fwfade g _ => some g
  | .fwouter g _ _ _ => some g
  | .fwcommit g _ => some g
  | .fwsnap g _ _ => some g
  | .fwfork g _ _ _ => some g
  | .fwavg g _ _ _ _ _ => some g
  | .fwroll g _ _ => some g
  | .fwdrop g _ => some g
  | .fwmigr g _ _ => some g
  | .fwpagein g _ _ => some g
  | .fwevict g _ => some g
  | .fwstat g _ _ => some g
  | .xld g _ _ _ _ _ _ => some g
  | .xldTr g _ _ _ _ _ _ => some g
  | .xst g _ _ _ _ _ _ => some g
  | .xldv g _ _ _ _ _ _ _ => some g
  | .xstv g _ _ _ _ _ _ _ => some g
  | .xldw g _ _ _ _ _ => some g
  | .xcopy g _ _ _ _ _ _ _ => some g
  | .xfill g _ _ _ _ _ _ => some g
  | .xsub g _ _ _ _ _ _ => some g
  | .xpub g _ _ _ _ _ _ => some g
  | .xunsub g _ _ _ _ _ _ => some g
  | .xpre g _ _ _ _ _ => some g
  | .xpreBar g _ _ _ _ _ => some g
  | .xpin g _ _ _ _ _ => some g
  | .xunpin g _ _ _ _ _ => some g
  | .xmig g _ _ _ _ _ _ => some g
  | .xwait g _ _ _ => some g
  | .ggath g _ _ _ _ _ _ => some g
  | .gscat g _ _ _ _ _ _ => some g
  | .gspd g _ _ _ _ _ => some g
  | .gcar g _ _ _ _ _ => some g
  | .gcred g _ _ _ _ _ => some g
  | .gcbc g _ _ _ _ _ => some g
  | .gcag g _ _ _ _ _ => some g
  | .gsend g _ _ _ _ _ => some g
  | .grecv g _ _ _ _ _ => some g
  | .genq g _ _ _ _ => some g
  | .glaunch g _ _ _ _ => some g
  | .galloc g _ _ _ _ => some g
  | .gallocR g _ _ _ _ => some g
  | .gallocF g _ _ _ => some g
  | .gallocFR g _ _ _ => some g
  | .gfree g _ _ _ => some g
  | .gretract g _ => some g
  | .stopk g _ _ _ _ _ => some g
  | .stemp g _ _ _ _ _ => some g
  | .stopp g _ _ _ _ _ => some g
  | .sgram g _ _ _ _ _ => some g
  | .sdraw g _ _ _ _ _ => some g
  | .saccept g _ _ _ _ _ => some g
  | .stok g _ _ _ _ _ => some g

/-! ## Bundles -/

/-- A bundle header (R174). -/
structure Header where
  presence : BitVec 8
  stop : Bool
  sync : BitVec 2
  flag : BitVec 4
  count : BitVec 6
  reserved : BitVec 11
  deriving DecidableEq, Repr

/-- The fields of a header word (R174). -/
def decodeHeader (w : BitVec 32) : Header :=
  ⟨fld w 24 8, Sys2Proof.flag w 23, fld w 21 2, fld w 17 4, fld w 11 6, fld w 0 11⟩

/-- The word of a header (R174). -/
def encodeHeader (h : Header) : BitVec 32 :=
  BitVec.ofNat 32 (h.presence.toNat * 2 ^ 24 + h.stop.toNat * 2 ^ 23 + h.sync.toNat * 2 ^ 21
    + h.flag.toNat * 2 ^ 17 + h.count.toNat * 2 ^ 11 + h.reserved.toNat)

/-- The slots whose words follow a header, in slot order (R173, R174). -/
def Header.slots (h : Header) : List Slot :=
  ([(0, Slot.C), (1, .A), (2, .B), (3, .V), (4, .M), (5, .F), (6, .X), (7, .G)].filter
    fun p => h.presence.getLsbD p.1).map (·.2)

/-- The conditions of R176 that one header breaks by itself. -/
def Header.legal (h : Header) : Bool :=
  h.presence != 0 && h.reserved == 0 && (h.sync != 0 || (h.flag == 0 && h.count == 0))

/-- A bundle: its header and one word for each slot it uses (R173). -/
structure Bundle where
  header : Header
  words : List (Slot × BitVec 32)
  deriving DecidableEq, Repr

/-- The bytes a bundle occupies: 8 to 36 (R173). -/
def Bundle.size (b : Bundle) : Nat := 4 + 4 * b.words.length

/-- The first bundle of a list of code words, and the words after it. -/
def decodeBundle : List (BitVec 32) → Except DecodeError (Bundle × List (BitVec 32))
  | [] => .error .short
  | h :: ws =>
    let hd := decodeHeader h
    if ws.length < hd.slots.length then .error .short
    else .ok (⟨hd, hd.slots.zip ws⟩, ws.drop hd.slots.length)

/-- Four bytes as a little-endian word (R6). -/
def wordOfBytes : List Byte → List (BitVec 32)
  | a :: b :: c :: d :: r =>
    BitVec.ofNat 32 (a.toNat + b.toNat * 2 ^ 8 + c.toNat * 2 ^ 16 + d.toNat * 2 ^ 24) :: wordOfBytes r
  | _ => []

/-- The bundle at the front of any list of bytes, or the reason there is none. -/
def decodeBytes (bs : List Byte) : Except DecodeError (Bundle × List (BitVec 32)) :=
  decodeBundle (wordOfBytes bs)

/-- The header of a bundle that holds one slot word, ends its group and has no sync op. -/
def soloHeader (sl : Slot) : Header :=
  ⟨match sl with
    | .C => 0x01 | .A => 0x02 | .B => 0x04 | .V => 0x08
    | .M => 0x10 | .F => 0x20 | .X => 0x40 | .G => 0x80, true, 0, 0, 0, 0⟩

/-- The slot in which a bare slot word is read: opcodes are assigned separately for each slot (R192),
so a word without its header names an instruction of several. The first slot, in the order A, B, C, V,
M, F, X, G, that gives the word a meaning is taken.
DESIGN CHOICE, log entry 7. -/
noncomputable def slotOfWord (w : BitVec 32) : Option Slot :=
  [Slot.A, .B, .C, .V, .M, .F, .X, .G].find? fun sl =>
    match decodeSlot sl w with
    | .ok _ => true
    | .error _ => false

/-- The instruction the decoder reads from a bare slot word of the table. -/
noncomputable def decodeTableWord (nbits w : Nat) : Option Instr :=
  let v := BitVec.ofNat 32 (w % 2 ^ nbits)
  match slotOfWord v with
  | some sl =>
    match decodeSlot sl v with
    | .ok i => some i
    | .error _ => none
  | none => none

end Sys2Proof
end

