-- ==== Sys2Proof/Machine/State.lean ====
section
/-! DEFINITION. The state of the machine: every module of the load/store domain, every core, engine,
queue, page, object and register that the manual names, as plain data; and the machine right after
power-on reset. Stores are sparse tables (`Table`): a key that is not listed holds the reset value.

Names of units are plain numbers:
chip, the CHIP number 0 to 255;
cluster, CHIP * 16 + DIE * 2 + CLUSTER (R182, code 58);
core, cluster * 256 + core number 0 to 129 (R182, code 57);
part, CHIP * 64 + partition 0 to 39;
stack, CHIP * 8 + stack 0 to 7;
unit, CHIP * 32 + fabric unit (dies 0 to 4, IOD 5, planes 6 to 23, R413);
page, MA[55:16]; object, cluster * 4096 + slot; queue, cluster * 4096 + id; ring, cluster * 512 + number. -/
namespace Sys2Proof.Machine

/-! ## Registers of a core (R107) -/

/-- A scalar register or latch: its value, its poison bit (R23) and, while the reply of an access is
awaited, the number of that access (R237, R110). -/
structure Cell64 where
  val : W64
  poison : Bool
  pend : Option Nat
  deriving DecidableEq, Repr

/-- The reset value of a scalar register (R107). -/
def Cell64.zero : Cell64 := ⟨0, false, none⟩

/-- A vector register: 4 KiB and one poison bit per byte (R107, R115, R23). -/
structure VReg where
  bits : BitVec 32768
  poison : BitVec 4096
  deriving DecidableEq, Repr

/-- A tile register: 64 rows of 256 bytes and one poison bit per byte (R107, R116, R23). -/
structure TReg where
  bits : BitVec 131072
  poison : BitVec 16384
  deriving DecidableEq, Repr

/-- A long accumulator (R171). -/
structure LongAcc where
  val : BitVec 4288
  nan : Bool
  pinf : Bool
  ninf : Bool
  deriving DecidableEq, Repr

/-- A barrier's state at its home core (R112); the waiters themselves are parked accesses. -/
structure Barrier where
  phase : Bool
  expect : BitVec 16
  arrived : BitVec 16
  waiters : BitVec 7
  deriving DecidableEq, Repr

/-- A scratchpad word: data, full/empty bit and poison bit (R93). -/
structure SpWord where
  data : W64
  full : Bool
  poison : Bool
  deriving DecidableEq, Repr

/-- What a scratchpad word holds after reset: zero, full, not poisoned (R93). -/
def SpWord.reset : SpWord := ⟨0, true, false⟩

/-- Everything of a core that the operands of an issue group read: the registers of R107, the
block-held and core-held control registers of R245, the scratchpad and the mask block. A group reads
these as they stand before its first write (R13, R180). -/
structure Arch where
  /-- `s0`-`s47` -/
  s : Vector Cell64 48
  /-- `l0`-`l7` -/
  l : Vector Cell64 8
  /-- `p0`-`p15`; bits 11 to 15 hold nothing (R109) -/
  p : BitVec 16
  bt : Vector W64 8
  lc : Vector (BitVec 32) 2
  q : Vector (BitVec 256) 16
  x : Vector (BitVec 256) 8
  h : Vector W64 16
  t : Vector TReg 16
  v : Vector VReg 32
  m : Vector (BitVec 4096) 8
  la : Vector LongAcc 4
  vpat : Vector W64 3
  vcfg : W64
  fstat : W64
  mactl : W64
  uivec : W64
  /-- the mask block of the matrix engine (R295) -/
  maskBlk : BitVec 4096
  /-- the block's current chunk sequence (R129) -/
  seq : BitVec 16
  /-- the budget counter (R365) -/
  budget : BitVec 32
  cf : Vector (BitVec 16) 16
  cfstat : W64
  bar : Vector Barrier 32
  swz : W64
  waitlim : BitVec 32
  srseed : BitVec 32
  tstat : W64
  fwstat : W64
  pslost : W64
  clim : W64
  frzcnt : W64
  spad : Table SpWord
  deriving DecidableEq, Repr

/-- The registers after reset (R93, R107, R113, R160, R425).
DESIGN CHOICE, log entry 10. -/
def Arch.reset : Arch where
  s := Vector.replicate 48 Cell64.zero
  l := Vector.replicate 8 Cell64.zero
  p := 1
  bt := Vector.replicate 8 0
  lc := Vector.replicate 2 0
  q := Vector.replicate 16 0
  x := Vector.replicate 8 0
  h := Vector.replicate 16 0
  t := Vector.replicate 16 ⟨0, 0⟩
  v := Vector.replicate 32 ⟨0, 0⟩
  m := Vector.replicate 8 (BitVec.allOnes 4096)
  la := Vector.replicate 4 ⟨0, false, false, false⟩
  vpat := Vector.replicate 3 0
  vcfg := BitVec.ofNat 64 (16 * 2 ^ 17 + 64 * 2 ^ 4 + 10)
  fstat := 0
  mactl := 0
  uivec := 0
  maskBlk := BitVec.allOnes 4096
  seq := 0
  budget := 0
  cf := Vector.replicate 16 0
  cfstat := 0
  bar := Vector.replicate 32 ⟨false, 0, 0, 0⟩
  swz := 0
  waitlim := 0x00100000
  srseed := 1
  tstat := 0
  fwstat := 0
  pslost := 0
  clim := BitVec.ofNat 64 (11136 * 2 ^ 32 + 11136)
  frzcnt := 0
  spad := []

/-! ## Causes, groups and blocks -/

/-- A cause with all that TRAPINFO and the handler's `s46` record of it (R396, R397). -/
structure Cause where
  code : BitVec 6
  async : Bool
  slot : BitVec 3
  bundle : Bool
  opcode : BitVec 7
  status : BitVec 4
  staging : BitVec 3
  info : BitVec 8
  operand : W64
  deriving DecidableEq, Repr

/-- The four stages of R190 and R440 at which a group can be refused: a smaller number is found
first. -/
inductive Stage where
  /-- FETCH_RANGE, ILLEGAL_HEADER, ILLEGAL_SLOT -/
  | decode
  /-- PRIVILEGE -/
  | privilege
  /-- a cause that execution detects before any access is sent -/
  | check
  /-- the allocator's answer, which is asked once nothing else holds the group (R326, R440) -/
  | allocator
  /-- a cause that the answer of the group's own access raises (R440) -/
  | answer
  deriving DecidableEq, Repr

/-- What the slot operations of the group have come to so far. -/
inductive Progress where
  /-- every slot word so far has taken effect -/
  | running
  /-- a slot word raised a synchronous cause found at the stage, and its entry has been made (R14) -/
  | trapped (stage : Stage)
  /-- a slot word holds the group at issue -/
  | stalled
  /-- a slot word waits for a translation, whose fault would be found at the stage `check` (R61) -/
  | missing
  /-- a slot word has sent an access, or asked for a page, whose answer the group awaits (R440) -/
  | sent
  /-- the block has left the core, or the core has changed its handler level -/
  | left
  deriving DecidableEq, Repr

/-- The issue group in hand: the header address of the bundle whose word executes and whether it is
the group's second bundle, the address after the group's last bundle, the target of a taken control
transfer (R186), the path predicates p11 to p15 of the bundle (R185) and what has come of the group. -/
structure Group where
  bundle : W64
  second : Bool
  next : W64
  target : Option W64
  path : BitVec 5
  status : Progress
  deriving DecidableEq, Repr

/-- No group in hand. -/
def Group.none : Group := ⟨0, false, 0, Option.none, 0, .running⟩

/-- How a record that is held for a queue stands (R359, R367).
DEDUCED, log entry 94. -/
inductive RecState where
  /-- ready for dispatch -/
  | ready
  /-- parked by `suspend` -/
  | parked
  /-- in the waiter chain of an object (R129) -/
  | waiting (object : Nat)
  /-- a pending wake (R367) -/
  | wake
  /-- in the queue's overflow ring, at a place of it (R359) -/
  | overflow (place : Nat)
  deriving DecidableEq, Repr

/-- A continuation record (R352) as the device holds it: its eight words, its number, its queue and that queue's generation, how
it stands, its arrival order, the user causes held with it (R229, R368) and the launch that built
it. -/
structure Rec where
  uid : Nat
  words : Vector W64 8
  queue : Nat
  gen : Nat
  state : RecState
  age : Nat
  held : List Cause
  launch : Option Nat
  deriving DecidableEq, Repr

/-- The block that holds a core: its record as dispatched, with the causes held since (R229), before each of which as many
of the causes still pending on the core came as `ahead` says; its partition, context and world, whether its launch has
squashed it (R375), and whether its context was invalid at dispatch and no fetch has found that yet (R49). -/
structure Block where
  rcd : Rec
  ahead : List Nat
  part : Nat
  ctx : BitVec 12
  ns : Bool
  squashed : Bool
  badCtx : Bool
  deriving DecidableEq, Repr

/-- A shadow bank of `s40`-`s47` and `p8`-`p10` (R398, R401). -/
structure Bank where
  s : Vector Cell64 8
  p : BitVec 3
  deriving DecidableEq, Repr

/-- An empty shadow bank. -/
def Bank.zero : Bank := ⟨Vector.replicate 8 Cell64.zero, 0⟩

/-! ## Engines of a core -/

/-- A region of the weight buffer (R103 to R106): contents, poison by byte, format, filled bytes, the
recorded source with its context, partition, world and privilege, and whether a page that its refill needs could not be
brought in. -/
structure WRegion where
  bits : BitVec 131072
  poison : BitVec 16384
  fmt : BitVec 2
  len : Nat
  src : Option Nat
  part : Nat
  ctx : BitVec 12
  ns : Bool
  kernel : Bool
  lost : Bool
  deriving DecidableEq, Repr

/-- A region that was never filled (R103). -/
def WRegion.empty : WRegion := ⟨0, 0, 0, 0, none, 0, 0, false, false, false⟩

/-- Who issued a command: the record's number, crew, launch index, partition, context and world. -/
structure Owner where
  uid : Nat
  crew : BitVec 24
  launch : Option Nat
  index : W64
  part : Nat
  ctx : BitVec 12
  ns : Bool
  kernel : Bool
  deriving DecidableEq, Repr

/-- A resource that the scoreboard tracks (R117, R310): a tile, a vector register, a region of the weight
buffer or a handle register. -/
inductive Res where
  | tile (n : Nat)
  | vec (n : Nat)
  | region (n : Nat)
  | handle (n : Nat)
  deriving DecidableEq, Repr

/-- A run of bytes, in a core's own scratchpad when `local` is meant: first byte and length. -/
structure Extent where
  base : Nat
  len : Nat
  deriving DecidableEq, Repr

/-- Where an access goes once translated: memory, host or device space by MA (R50), or a scratchpad
byte of a core (R46). -/
inductive Target where
  | mem (ma : Nat)
  | spad (core off : Nat)
  deriving DecidableEq, Repr

/-- A run within one granule, translated: where its bytes lie, the attribute field, and whether it is performed as
non-secure (R57, R59, R66). -/
structure Piece where
  va : Nat
  len : Nat
  target : Target
  attr : BitVec 16
  ns : Bool
  deriving DecidableEq, Repr

/-- How a command ends: its status, the value its future receives on OK, the kind and VA of a fault or the VA
of a page, whether a tier page-in gave the status, and whether the future receives the value on any status
(R228 to R230, R322). -/
structure Verdict where
  status : Nat
  value : Nat
  kind : Nat
  va : Nat
  tier : Bool
  always : Bool
  deriving DecidableEq, Repr

/-- A part of a transfer still to perform: its place among the bytes moved, the unit that must perform whole (R154),
and where it lies. -/
structure Part where
  off : Nat
  unit : Nat
  piece : Piece
  deriving DecidableEq, Repr

/-- A packet of a transfer in flight (R18, R80): whether it writes, the place of its bytes among those moved and how many
they are, whether it is a ROWCOPY or ROWINIT (R24), the stack and the tag that it holds there (R19), and since when it is timed (R82). -/
structure Packet where
  write : Bool
  off : Nat
  len : Nat
  row : Bool
  tag : Option (Nat × Nat)
  since : BitVec 48
  deriving DecidableEq, Repr

/-- A transfer under way (R59, R80, R347): the parts still to read and to write, the bytes read so far, whether a unit
performs whole or word by word (R345), what a write leaves in the full/empty bit of a scratchpad word (R215), how the
command ends once all has performed, the VA that the world check has refused first (R67), its packets in flight, each
with some bytes of those parts (R82), and whether one of them has been lost with a link (R79). -/
structure Job where
  rd : List Part
  wr : List Part
  buf : List (Byte × Bool)
  whole : Bool
  full : Option Bool
  verdict : Verdict
  world : Option Nat
  out : List Packet
  lost : Bool
  deriving DecidableEq, Repr

/-- A cached translation (R60): its partition and context, the first and last VA it covers, the
offset from VA to MA, the attribute field, the world bit of the context, and the tier-0 frame of each page of the core's own
module that it has resolved. -/
structure XEntry where
  part : Nat
  ctx : BitVec 12
  first : Nat
  last : Nat
  offset : Nat
  attr : BitVec 16
  ctxNs : Bool
  frames : List (Nat × Nat)
  deriving DecidableEq, Repr

/-- An accepted X or G command (R223, R314): its slot word, the staging register it copied and the
paired one, its issuer, the order number of its group among the core's accesses, the local extents
it has still to read and to write (R226), the scratchpad words as they stood before its own group's
stores, the tile or vector bytes it stores, the busy bits it holds (R117: true = W-busy), a status that
is already fixed, whether a tier page-in gave it (R229), progress that its kind keeps, the positions taken from
the operand queue (R317), the device time of its acceptance, the runs that it reads and writes, the entries and the
faults, by granule, that its translations have come to so far (R59, R61), its transfer under way, and the widest scope at
which its accesses count as performed though they are not (R334; 0 = none). -/
structure Cmd where
  id : Nat
  slotG : Bool
  word : BitVec 32
  stg : BitVec 256
  pair : BitVec 256
  own : Owner
  ord : Nat
  rd : List Extent
  wr : List Extent
  before : Table SpWord
  data : List (Byte × Bool)
  busy : List (Res × Bool)
  status : Option (BitVec 4)
  tier : Bool
  value : W64
  fail : W64
  kind : BitVec 8
  phase : Nat
  idx : List (BitVec 32)
  since : BitVec 48
  src : List (Nat × Nat)
  dst : List (Nat × Nat)
  tlb : List XEntry
  miss : List (Nat × Nat)
  job : Option Job
  seen : Nat
  deriving DecidableEq, Repr

/-- A row of a stream as read: 32 elements and whether one of them, or the scale, is poisoned (R293). -/
abbrev StreamRow := List Nat × Bool

/-- An accepted full-path matrix command or a command of R302 (R294): its word, the copied streams, the
rows read from them, the source tile of R302, the mask block, the flush control and the generator state
before its draws (R163, R160), the busy bits it holds and its issuer. -/
structure MCmd where
  word : BitVec 32
  qa : BitVec 256
  qb : BitVec 256
  a : List StreamRow
  b : List StreamRow
  src : TReg
  mask : BitVec 4096
  accftz : Bool
  seed : BitVec 32
  busy : List (Res × Bool)
  own : Owner
  deriving DecidableEq, Repr

/-- An accepted F command (R307): its word, the copied stream register and per-row alpha vector, the
handles it names, the handle it was forwarded to (R145; 0 = none), the bytes of its input extents, the
block's sequence at acceptance, its issuer, its arrival order and the busy bits it holds.
DEDUCED, log entry 92. -/
structure FCmd where
  id : Nat
  word : BitVec 32
  q : BitVec 256
  alpha : VReg
  handles : List W64
  fwd : W64
  inputs : List (List (Byte × Bool))
  seq : BitVec 16
  own : Owner
  ord : Nat
  busy : List (Res × Bool)
  status : Option (BitVec 4)
  phase : Nat
  deriving DecidableEq, Repr

/-- An exact partial product sum (R166): a NaN, an infinity, or (-1)^neg * mag * 2^exp. -/
inductive Exact where
  | nan
  | inf (neg : Bool)
  | fin (neg : Bool) (mag : Nat) (exp : Int)
  deriving DecidableEq, Repr

/-- A partial sum of the narrow pipe (R296): the issue position of its `mma`, its tile, its first
row and column and its width, the sums in row-major order, the scale codes of rows and columns (none
for a plain stream), the flags raised and the poison of each element. -/
structure PartialSum where
  pos : Nat
  tile : BitVec 4
  row : Nat
  col : Nat
  width : Nat
  sums : List Exact
  sa : List (Option Byte)
  sb : List (Option Byte)
  flags : BitVec 7
  poison : List Bool
  deriving DecidableEq, Repr

/-- The sparse-index engine (R316): whether it decodes, the mode, the metadata address, the number of
bits or entries and the next one, the position, the operand queue, the pushes made, the command it
serves and RATE. -/
structure SparseEngine where
  busy : Bool
  mode : BitVec 2
  base : Nat
  count : Nat
  next : Nat
  pos : Nat
  queue : List (BitVec 32)
  pushed : Nat
  cmd : Nat
  rate : Nat
  deriving DecidableEq, Repr

/-- An idle sparse-index engine. -/
def SparseEngine.idle : SparseEngine := ⟨false, 0, 0, 0, 0, 0, [], 0, 0, 1⟩

/-- A mailbox descriptor (R322): the partition, core and number of the `gsend`, the length, and the device
time of its arrival. -/
structure Descriptor where
  part : Nat
  core : Nat
  cmd : Nat
  len : Nat
  since : BitVec 48
  deriving DecidableEq, Repr

/-- A candidate of a sampling set: id, FP32 logit and FP32 weight (R328). -/
structure Candidate where
  id : BitVec 32
  logit : BitVec 32
  weight : BitVec 32
  deriving DecidableEq, Repr

/-- A candidate set with its drawn-token word (R328, R331). -/
structure CandidateSet where
  cands : List Candidate
  drawn : W64
  deriving DecidableEq, Repr

/-- An empty set: the drawn word holds id 0xFFFF_FFFF with status EMPTY (R329). -/
def CandidateSet.empty : CandidateSet := ⟨[], 0x00000001FFFFFFFF⟩

/-- A group's own access that has been sent and whose answer the group awaits (R440): its number, the
slot, the group's address and level, the bundles of the group as they were fetched, and the answer: the value, its
poison bit and whether the access was refused (R258, R261) or withdrawn (R99) and has not performed. -/
structure Await where
  acc : Nat
  slot : Slot
  pc : W64
  kernel : Bool
  handler : Bool
  code : List (W64 × List (BitVec 32))
  answer : Option (W64 × Bool × Bool)
  deriving DecidableEq, Repr

/-- A bundle in the instruction cache: its partition, context and address, with its words (R193). -/
structure CodeLine where
  part : Nat
  ctx : BitVec 12
  va : Nat
  words : List (BitVec 32)
  deriving DecidableEq, Repr

/-- A core with its engines (R4, R107). -/
structure Core where
  r : Arch
  /-- the registers as they stood before the group in hand, while a group of several slot words
  executes -/
  pre : Option Arch
  grp : Group
  pc : W64
  /-- 1 = kernel privilege (R401) -/
  kernel : Bool
  /-- stopped by `halt`, by R403 or by R426 -/
  stopped : Bool
  blk : Option Block
  /-- the user handler is active (R398) -/
  handler : Bool
  bankU : Bank
  bankK : Bank
  retryU : W64
  skipU : W64
  trapU : W64
  trapK : W64
  /-- pending kernel and user causes, the oldest first (R400) -/
  pendK : List Cause
  pendU : List Cause
  /-- cycles counted since the group's first attempt while it waits (R98, R178) -/
  waited : Nat
  /-- the group in hand has taken its own limit and is to be withdrawn (R99) -/
  limit : Bool
  /-- the group in hand holds a narrow `mma` that waits until the matrix engine is idle (R296) -/
  idleWait : Bool
  cycles : W64
  /-- issue-cycle position (R297) and fetch position (R194) -/
  issue : Nat
  fetch : Nat
  /-- one more than the fetch position of the last write of each predicate (R194) -/
  wrote : Vector Nat 16
  /-- the budget counter reached zero and BUDGET has still to be taken (R365) -/
  budgetDue : Bool
  /-- order number for the core's accesses, and the fences in force with their scopes (R255) -/
  ord : Nat
  fences : List (Nat × Nat)
  awaits : List Await
  psums : List PartialSum
  port : Option PartialSum
  mq : List MCmd
  fq : List FCmd
  xq : List Cmd
  wb : Vector WRegion 16
  spx : SparseEngine
  mbox : Vector (List Descriptor) 4
  sets : Vector CandidateSet 16
  ucache : List XEntry
  icache : List CodeLine
  /-- charges of the last 127 cycles, the newest first (R424) -/
  charge : List Nat
  /-- the cycles for which an operation of slot V still works, each with a charge (R423) -/
  vleft : Nat
  /-- the granule of a walk that ended in a fault, with its kind (R58, R61) -/
  walkFault : Option (Nat × BitVec 8)
  /-- a page-in that failed for this core's access, with its status (R42) -/
  pageFault : Option (Nat × BitVec 4)
  deriving DecidableEq, Repr

/-- A core after reset: idle, at user privilege, with the registers of R93 and R107.
DESIGN CHOICE, log entry 10. -/
def Core.reset : Core where
  r := Arch.reset
  pre := none
  grp := Group.none
  pc := 0
  kernel := false
  stopped := false
  blk := none
  handler := false
  bankU := Bank.zero
  bankK := Bank.zero
  retryU := 0
  skipU := 0
  trapU := 0
  trapK := 0
  pendK := []
  pendU := []
  waited := 0
  limit := false
  idleWait := false
  cycles := 0
  issue := 0
  fetch := 0
  wrote := Vector.replicate 16 0
  budgetDue := false
  ord := 0
  fences := []
  awaits := []
  psums := []
  port := none
  mq := []
  fq := []
  xq := []
  wb := Vector.replicate 16 WRegion.empty
  spx := SparseEngine.idle
  mbox := Vector.replicate 4 []
  sets := Vector.replicate 16 CandidateSet.empty
  ucache := []
  icache := []
  charge := []
  vleft := 0
  walkFault := none
  pageFault := none

/-! ## Accesses and messages in flight -/

/-- What a slot-B access does at its target (R248 to R263). -/
inductive AccKind where
  | load
  | store
  /-- a full/empty form: waits for full or empty, reads or writes, and the bit afterwards (R97) -/
  | fullEmpty (op : BitVec 7)
  /-- an atomic of R251, by its opcode -/
  | atomic (op : BitVec 7)
  | chunk
  | resolve
  | join
  | poll
  | arrive
  | await
  | sync
  | post
  deriving DecidableEq, Repr

/-- How far an access has got (R74, R81, R82): on its way, parked at its bank, returned for a retry, performed with
its reply on the way, lost with a link or for want of a path (R70, R79), or answered with a refusal, which holds the code 0 for MISUSE and DOUBLE_RESOLVE, 1 for a
withdrawal and 2 for the world check at its target (R67, R99, R258, R261). -/
inductive Phase where
  | sent
  | parked
  | retry
  | done (value : W64) (poison : Bool) (flags : BitVec 7)
  | lost
  | refused (value : W64)
  deriving DecidableEq, Repr

/-- A remote slot-B access in flight (R81): its number, issuing core, issuer, partition and order number, what it does, where
(and where each byte goes when it performs bytewise, R248), the attribute field of its mapping, its width, operands, ordering marks and world, whether its group awaits it (R440), whether it goes
through a CA = 0 mapping (R337), since when it is timed (R82), how far it has got, whether its request has left the core, the bytes of a
bytewise access that have still to perform (R248), the tag that its packet holds at a stack (R19), the widest scope at which it counts as
performed though it is not (R334; 0 = none), the cause that its refusal raises when a command has sent it (R229), and its VA. -/
structure Acc where
  id : Nat
  core : Nat
  own : Owner
  part : Nat
  ord : Nat
  kind : AccKind
  target : Target
  split : List Target
  attr : BitVec 16
  bytes : Nat
  data : W64
  data2 : W64
  poison : Bool
  acq : Bool
  rel : Bool
  scope : Nat
  ns : Bool
  held : Bool
  device : Bool
  since : BitVec 48
  phase : Phase
  out : Bool
  todo : List Nat
  tag : Option Nat
  seen : Nat
  cmd : Option Cause
  va : W64
  deriving DecidableEq, Repr

/-- A counting-flag post on its way (R83): the core, the partition that sent it, whose image may receive it when it is
out (R84), the flag, count and status, and the sending core, the access order number and the scope of the release that
the post is (R338). -/
structure Post where
  id : Nat
  core : Nat
  part : Nat
  flag : BitVec 4
  count : BitVec 16
  status : BitVec 4
  src : Nat
  ord : Nat
  scope : Nat
  deriving DecidableEq, Repr

/-- A decrement of a join word on its way (R261): the partition that sent it, the join word's VA, the cluster of its future,
the world of the future, and the core that caused it with the order number up to which it releases what that core sent
(R338, R343). -/
structure Decrement where
  id : Nat
  part : Nat
  join : W64
  cluster : Nat
  ns : Bool
  src : Nat
  ord : Nat
  deriving DecidableEq, Repr

/-- A record on its way to a queue from a join, an orrery or an endpoint (R354, R388). -/
structure RecMsg where
  id : Nat
  cluster : Nat
  queue : Nat
  words : Vector W64 8
  poison : Bool
  deriving DecidableEq, Repr

/-! ## Units of a cluster, die, module and partition -/

/-- An element of a state object: FP32 bits (or BF16 in the low half) and poison (R122, R123). -/
structure Elem where
  bits : BitVec 32
  poison : Bool
  deriving DecidableEq, Repr

/-- Where an object stands (R142, R311). -/
inductive Residency where
  | resident
  | pagingOut
  | absent
  | pagingIn
  | stub
  deriving DecidableEq, Repr

/-- A slot of a cluster's slot table with its state object (R121 to R145). `base` and `own` name the
units: unit u is `(base, u)` unless `own` lists a private number for it (R138), and `since` is the device time at which
its residency hold began (R142). -/
structure Obj where
  used : Bool
  gen : BitVec 16
  kind : BitVec 8
  heads : Nat
  dim : Nat
  bf16 : Bool
  data : Table Elem
  nextSeq : BitVec 16
  state : Residency
  base : Nat
  own : Table Nat
  lru : Nat
  hold : Bool
  since : BitVec 48
  image : Nat
  posts : List (Nat × Nat × BitVec 4)
  forward : W64
  moving : Option Nat
  deriving DecidableEq, Repr

/-- A slot that was never used: its next object gets generation 1 (R127). -/
def Obj.free : Obj :=
  ⟨false, 1, 0, 0, 0, false, [], 0, .absent, 0, [], 0, false, 0, 0, [], 0, none⟩

/-- How far a word of a slot in flight has got (R87, R88): still to be read, read with its poison and still to be
written, or written. -/
inductive WordAt where
  | unread
  | held (v : W64) (bad : Bool)
  | written
  deriving DecidableEq, Repr

/-- A slot in flight (R87, R88): its number on its ring, its number on the peer IN ring once it has its place there,
whether that place is in the extension, its words that are still to be written or to become empty, and whether the world
check has refused one of them (R67). -/
structure Flight where
  slot : Nat
  dest : Option Nat
  toExt : Bool
  words : List (Nat × WordAt)
  refused : Bool
  deriving DecidableEq, Repr

/-- A registered ring (R85 to R92, R216 to R219): its core and index, its owner, its descriptor, the
next slot to start, the slots in flight, the slots of its extension with their capacity, the peer of a MODE 3 ring,
the slots that a released OUT ring has still to drain (R217; a released IN ring takes none), whether its
feeder or puller has started, and whether it was registered at kernel privilege. -/
structure Ring where
  core : Nat
  index : BitVec 3
  crew : BitVec 24
  uid : Nat
  part : Nat
  ctx : BitVec 12
  ns : Bool
  desc : Vector W64 4
  next : Nat
  flights : List Flight
  ext : List (List (W64 × Bool))
  extCap : Nat
  peer : Option Nat
  closing : Option (List Nat)
  started : Bool
  kernel : Bool
  deriving DecidableEq, Repr

/-- A node of the orrery (R369) with its pending count and the firings of it that wait for its index word (R370). -/
structure Node where
  words : Vector W64 8
  pending : Nat
  waiting : Nat
  deriving DecidableEq, Repr

/-- An entry of the ephemeris (R372): the descriptor VA, the last true shapes, the newest first, and
the order of its last use. -/
structure Ephemeris where
  desc : Nat
  shapes : List (Nat × Nat × Nat)
  used : Nat
  deriving DecidableEq, Repr

/-- Whose miss a walk serves (R60, R61): that of a core's group, of a command of its engines, of a ring's feeder or
puller, or of a cluster's orrery. -/
inductive Seeker where
  | group
  | command (id : Nat)
  | ring (n : Nat)
  | orrery (cl : Nat)
  deriving DecidableEq, Repr

/-- A walk in flight or a miss that waits for one (R61). -/
structure Walk where
  id : Nat
  cluster : Nat
  core : Nat
  who : Seeker
  part : Nat
  ctx : BitVec 12
  granule : Nat
  page : Option Nat
  deriving DecidableEq, Repr

/-- A cluster (R3): its queue table and record store, its scheduler count, QSTAT, orrery, ephemeris
and range cache, code cache, the wait at which each crew was last found stalled (R90), its world (R65), and what the
orrery's reads have met: the granules whose walk ended in a fault, with its kind (R61), and the pages that could not be
brought in, with the status (R42). -/
structure Cluster where
  queues : Table (Vector W64 8)
  store : List Rec
  run : Nat
  badrec : BitVec 16
  drop : BitVec 16
  late : BitVec 16
  orrbase : W64
  orrctl : W64
  nodes : List Node
  signals : List Nat
  eph : List Ephemeris
  cache : List XEntry
  code : List CodeLine
  stalls : Table Nat
  ns : Bool
  omiss : List (Nat × Nat)
  olost : List (Nat × Nat)
  deriving DecidableEq, Repr

/-- A cluster after reset.
DESIGN CHOICE, log entry 10. -/
def Cluster.reset : Cluster :=
  ⟨[], [], 0, 0, 0, 0, 0, 0, [], [], [], [], [], [], false, [], []⟩

/-- One launch (R325, R372 to R376): the issuing cluster, core and command, the orrery node, its
partition, context, crew and descriptor, the descriptor's dimensions, the shape it was built at,
whether its shape is open and where its shape word lies, the records still to be placed, and the
indices of squashed blocks whose retraction is due. -/
structure Launch where
  id : Nat
  cluster : Nat
  core : Nat
  cmd : Nat
  node : Option Nat
  part : Nat
  ctx : BitVec 12
  ns : Bool
  crew : BitVec 24
  desc : Nat
  dims : Nat × Nat × Nat
  shape : Nat × Nat × Nat
  stages : Nat
  entry : W64
  deadline : BitVec 48
  budget : BitVec 32
  arg : W64
  cmask : BitVec 10
  word : Option (Nat × Nat)
  openShape : Bool
  pending : List (Nat × Vector W64 8)
  failed : Bool
  clamped : Bool
  reported : Bool
  retract : List W64
  deriving DecidableEq, Repr

/-- A live allocation (R326, R327): context, arena, address, length and, for a retractable one, its
launch and block index. -/
structure Alloc where
  ctx : BitVec 12
  arena : BitVec 4
  addr : Nat
  len : Nat
  tag : Option (Nat × W64)
  deriving DecidableEq, Repr

/-- A contribution to a collective (R320): the member's core and rank and its bytes. -/
structure Contribution where
  core : Nat
  rank : Nat
  bytes : List (Byte × Bool)
  deriving DecidableEq, Repr

/-- A collective instance (R319): its number, its partition number and group, the combining point that holds a slot for it
(R416), which collective of the group it is, the number of members, the command and the parameters of its first member,
the status with which it has failed (R321), the contributions in arrival order, the device time of the first, and the
members that have completed. -/
structure Collective where
  id : Nat
  part : Nat
  group : BitVec 4
  place : Nat
  seq : Nat
  size : Nat
  op : BitVec 7
  param : W64
  failed : Option (BitVec 4)
  got : List Contribution
  since : BitVec 48
  left : List Nat
  deriving DecidableEq, Repr

/-- Where a partition stands, PCTL.STATE (R406). -/
inductive Residence where
  | resident
  | goingOut
  | out
  | comingIn
  deriving DecidableEq, Repr

/-- A partition (R406) with its registers, its saved image (R408), the collective group table (R417),
the collectives each member has issued, the allocations of its contexts, the crews whose LIVE has fallen to 0 (R356) and since
when a reset under way has released its rings (R219, R411). -/
structure Partition where
  pgran : BitVec 40
  state : Residence
  ns : Bool
  lostU : BitVec 16
  lostK : BitVec 16
  refused : BitVec 16
  kfault : Bool
  kvec : W64
  crewcfg : W64
  arenatab : W64
  ctxtab : W64
  groups : Vector (W64 × W64) 16
  image : Table Core
  saved : Bool
  wantReset : Bool
  counts : Table Nat
  allocs : List Alloc
  ending : List Nat
  releasing : Option (BitVec 48)
  deriving DecidableEq, Repr

/-- A partition after power-on reset: no granule, swapped out, with an empty image (R406). -/
def Partition.reset : Partition :=
  ⟨0, .out, false, 0, 0, 0, false, 0, 0, 0, 0, Vector.replicate 16 (0, 0), [], false, false, [], [], [], none⟩

/-- An event of a stack's remap table (R30). -/
structure RemapEvent where
  kind : BitVec 2
  chan : BitVec 5
  pch : Bool
  bank : BitVec 4
  deriving DecidableEq, Repr

/-- A bank of a stack (R26, R28, R29): its activation counter, whether the two copies of its remap
entry are good, whether it is fenced, and the refresh-management commands issued to it. -/
structure Bank4 where
  count : Nat
  copyA : Bool
  copyB : Bool
  fenced : Bool
  rfm : Nat
  deriving DecidableEq, Repr

/-- A bank after reset. -/
def Bank4.reset : Bank4 := ⟨0, true, true, false, 0⟩

/-- An HBM4E stack's base die (R18 to R31): ABUDGET, the banks by number, the remap events held with
the overflow mark, the count of discarded packets, and the rows that carry a retirement marker. -/
structure Stack where
  abudget : BitVec 32
  banks : Table Bank4
  events : List RemapEvent
  lost : Bool
  badpkt : BitVec 8
  retired : List Nat
  deriving DecidableEq, Repr

/-- A stack after reset (R27, R30, R31).
PRESUMED, log entry 11. -/
def Stack.reset : Stack := ⟨BitVec.ofNat 32 (32 * 2 ^ 16 + 256 * 2 ^ 4 + 1), [], [], false, 0, []⟩

/-- A fabric unit (R71 to R79): FABCFG.TIMEOUT, the two counts of FABSTAT, FABLINK, the links in
training and the replays of each link, the input buffers whose head packet is suspect, where the
token stands and its epoch, the blocked heads by input buffer with the order of their arrival and their counters (R72),
the device time at which the token last passed the controller, and whether a stale token may reappear (R76). An input
buffer is router * 16 + buffer; buffer 15 is the deadlock buffer lane's.
DESIGN CHOICE, log entry 33. -/
structure Fabric where
  timeout : BitVec 16
  tokregen : BitVec 16
  dblpkt : BitVec 32
  failed : BitVec 256
  training : BitVec 256
  replays : Table Nat
  suspects : List Nat
  token : Option Nat
  epoch : Bool
  blocked : Table (Nat × Nat)
  passed : BitVec 48
  stale : Bool
  deriving DecidableEq, Repr

/-- A fabric unit after reset (R77 to R79): one token on its ring.
DESIGN CHOICE, log entry 10. -/
def Fabric.reset : Fabric := ⟨2048, 0, 0, 0, 0, [], [], some 0, false, [], 0, false⟩

/-- The placement entry of a 64 KiB page (R51, R37 to R44): its tier, its tier-0 frame, its pin count and policy, the
device time at which its residency hold began, the method and the size under which a lower tier stores it (R34); with
the page-in under way and its place in the order of requests (R43), the demotion under way, and the requests the page-in
has joined: the resident flags that are due (the number of the command, its partition and core, the flag), the cores
whose group waits, and the commands, rings and orreries that wait, with the VA at which each reached the page. -/
structure Page where
  tier : Option (BitVec 2)
  pin : BitVec 8
  home : BitVec 2
  nodem : Bool
  comp : BitVec 2
  hold : Bool
  since : BitVec 48
  lru : Nat
  frame : Nat
  method : BitVec 2
  stored : Nat
  incoming : Bool
  order : Nat
  demoting : Option (BitVec 2)
  flags : List (Nat × Nat × Nat × BitVec 4)
  waiters : List Nat
  cmds : List (Seeker × W64)
  deriving DecidableEq, Repr

/-- A page that has never been written: it occupies no tier (R51). -/
def Page.reset : Page := ⟨none, 0, 0, false, 0, false, 0, 0, 0, 0, 0, false, 0, none, [], [], []⟩

/-- A request that an endpoint has accepted (R379): the fabric endpoint that sent it and the bytes received. -/
abbrev Request := Nat × List Byte

/-- The request a tokeniser engine works on (R386, R387): the fabric endpoint that sent it, the endpoint words it is
served under, KIN before its first word, the words still to land with the place of each in the request, whether the first
has landed, whether the template has been sent, and whether the request has been discarded and counted (R388). -/
structure Tokenising where
  sender : Nat
  entry : Vector W64 8
  base : BitVec 32
  words : List (Nat × W64)
  landed : Bool
  sent : Bool
  dropped : Bool
  deriving DecidableEq, Repr

/-- An endpoint (R380 to R389): words 0 to 6 of its entry, the three counts of word 7, KIN and KOUT,
the accepted requests, the one being tokenised, the detokeniser's held bytes, the reply bytes sent
for the open message, the messages ended with the fabric endpoint that each is sent to, and the requesters still to be
answered, the oldest first (R379). -/
structure Endpoint where
  words : Vector W64 8
  badid : BitVec 16
  dropreq : BitVec 16
  truncs : BitVec 16
  kin : BitVec 32
  kout : BitVec 32
  waiting : List Request
  cur : Option Tokenising
  heldBytes : List Byte
  sent : List Byte
  replies : List (Nat × List Byte)
  asked : List Nat
  deriving DecidableEq, Repr

/-- An endpoint after reset. -/
def Endpoint.reset : Endpoint :=
  ⟨Vector.replicate 8 0, 0, 0, 0, 0, 0, [], none, [], [], [], []⟩

/-- A loaded almanac (R383): its image and its digest. -/
structure Almanac where
  image : List Byte
  digest : BitVec 256
  deriving DecidableEq, Repr

/-- How far the boot chain has got and what the fuses hold (R420): stages verified, the chain's stop,
the digests of the stages, the keys the stage-1 image named, the four root-key hashes with their
revocation fuses and the count of version fuses. -/
structure Boot where
  stage : Nat
  failed : Bool
  digests : Vector (BitVec 256) 3
  controllerKey : BitVec 512
  partitionKey : BitVec 512
  rootHash : Vector (BitVec 256) 4
  revoked : BitVec 4
  version : Nat
  deriving DecidableEq, Repr

/-- The management, tier, almanac and host side of one module (R412 to R427); `interrupts` counts the interrupts
sent to the management controller, `throttle` tells that a temperature has reached 100 degrees and not fallen
since, and `lowered` the steps by which CLIMCAP stands lowered (R426). -/
structure Chip where
  domcfg : BitVec 8
  dommember : BitVec 256
  domwin : W64
  climcap : BitVec 16
  tiercfg : BitVec 32
  tierUsed : Bool
  wrgn : Vector (BitVec 128) 32
  almload : W64
  /-- the load under way was begun by a non-secure requester (R67) -/
  almns : Bool
  almstat : W64
  almdig : Vector (BitVec 256) 16
  almanacs : Table Almanac
  attnonce : BitVec 256
  attgo : Bool
  attdone : Bool
  /-- the body of the report whose signature is being made (R422) -/
  attbody : List Byte
  report : List Byte
  temps : Vector (BitVec 10) 6
  tempstop : Bool
  secnt : Vector W64 5
  endpoints : Table Endpoint
  boot : Boot
  interrupts : Nat
  throttle : Bool
  lowered : Nat
  /-- the time of the domain at this module's power-on reset, which its own time counts from (R419) -/
  epoch : BitVec 48
  deriving DecidableEq, Repr

/-- A module after power-on reset (R32, R65, R384, R415, R422, R426).
DESIGN CHOICE, log entry 12. -/
def Chip.reset : Chip where
  domcfg := 0
  dommember := 1
  domwin := 0
  climcap := 11136
  tiercfg := BitVec.ofNat 32 (64 * 2 ^ 12 + 1)
  tierUsed := false
  wrgn := Vector.replicate 32 0
  almload := 0
  almns := false
  almstat := 0
  almdig := Vector.replicate 16 0
  almanacs := []
  attnonce := 0
  attgo := false
  attdone := false
  attbody := []
  report := []
  temps := Vector.replicate 6 0
  tempstop := false
  secnt := Vector.replicate 5 0
  endpoints := []
  boot := ⟨0, false, Vector.replicate 3 0, 0, 0, Vector.replicate 4 0, 0, 0⟩
  interrupts := 0
  throttle := false
  lowered := 0
  epoch := 0

/-! ## The machine -/

/-- How a unit of the device changes a word of a table of its own in memory (R356, R359): a field is set, lowered to 0 at
least or raised and saturating, or bits are set. -/
inductive EditOp where
  | set (lo n v : Nat)
  | lower (lo n v : Nat)
  | raise (lo n v : Nat)
  | bits (v : W64)
  deriving DecidableEq, Repr

/-- A change of a word of such a table that waits until its page is in tier 0 (R17): the word, the change, and the
partition and crew whose LIVE it is, which may have fallen to 0 (R356). -/
structure TableEdit where
  ma : Nat
  op : EditOp
  crew : Option (Nat × Nat)
  deriving DecidableEq, Repr

/-- The machine: the modules of one load/store domain and what is under way between their units. -/
structure State where
  /-- the count that draws the next free value -/
  tick : Nat
  /-- device time in ns (R419) -/
  now : BitVec 48
  /-- the core whose issue group comes next, and the cores whose turn follows -/
  here : Nat
  turns : List Nat
  /-- the events of the device that come before that group -/
  agenda : List Instr
  cores : Table Core
  clusters : Table Cluster
  chips : Table Chip
  parts : Table Partition
  hbm : Table Stack
  fabric : Table Fabric
  pages : Table Page
  objs : Table Obj
  rings : Table Ring
  /-- memory by MA (R50); a byte that is not listed reads as zero (R51) -/
  mem : List Host.Cell
  /-- the poisoned 64-byte beats, by MA / 64, rising (R439) -/
  beats : List Nat
  accs : List Acc
  posts : List Post
  decs : List Decrement
  recs : List RecMsg
  walks : List Walk
  launches : List Launch
  colls : List Collective
  /-- the issuers of cancelled blocks whose commands have still to complete before LIVE falls (R375) -/
  dying : List Owner
  /-- changes of the device's own tables that wait for a page, the oldest first (R17) -/
  edits : List TableEdit
  /-- rounds of turns since an event or a record that could come was last left out (R366) -/
  quiet : Nat
  /-- the next number for an access, command, record, message or order of use -/
  fresh : Nat
  deriving DecidableEq, Repr

/-- Right after power-on reset (R411): every register at its reset value, every core idle, every
partition swapped out with an empty image, memory with nothing listed. The turn is that of core 0 of
cluster 0 of chip 0.
DESIGN CHOICE, log entry 5; DESIGN CHOICE, log entry 6. -/
def State.reset : State where
  tick := 0
  now := 0
  here := 0
  turns := []
  agenda := []
  cores := []
  clusters := []
  chips := []
  parts := []
  hbm := []
  fabric := []
  pages := []
  objs := []
  rings := []
  mem := []
  beats := []
  accs := []
  posts := []
  decs := []
  recs := []
  walks := []
  launches := []
  colls := []
  dying := []
  edits := []
  quiet := 0
  fresh := 1

/-! ## Outcomes other than a next state -/

/-- Why the machine stops. -/
inductive Fault where
  /-- raised by `step` when `here` names no core of R3: a state that no part of the model makes. Safe:
  the model stops where it has nothing to say. -/
  | noSuchCore (core : Nat)
  deriving DecidableEq, Repr

/-- Why an instruction has no meaning. -/
inductive Refusal where
  /-- raised by `exec` for an instruction whose meaning has not been written. Safe: the model stops. -/
  | notModelled (mnemonic : String)
  deriving DecidableEq, Repr

end Sys2Proof.Machine
end

