-- ==== Sys2Proof/Machine/Cells.lean ====
section
/-! DEFINITION. Reading and writing the parts of State by name: sparse tables, units by their numbers,
bytes and bit fields. -/
namespace Sys2Proof.Machine

/-! ## Tables -/

/-- The entry of a key, if the table lists it. -/
def Table.look {α : Type} : Table α → Nat → Option α
  | [], _ => none
  | p :: r, k => if p.1 = k then some p.2 else Table.look r k

/-- The table with the key's entry set; the keys stay in rising order. -/
def Table.put {α : Type} : Table α → Nat → α → Table α
  | [], k, v => [(k, v)]
  | p :: r, k, v =>
    if k < p.1 then (k, v) :: p :: r
    else if k = p.1 then (k, v) :: r
    else p :: Table.put r k v

/-- The table without the key. -/
def Table.drop {α : Type} : Table α → Nat → Table α
  | [], _ => []
  | p :: r, k => if p.1 = k then Table.drop r k else p :: Table.drop r k

/-- The table with the key's value set, where a value equal to what an unlisted key holds is not
listed. -/
def Table.store {α : Type} [DecidableEq α] (t : Table α) (dflt : α) (k : Nat) (v : α) : Table α :=
  if v = dflt then Table.drop t k else Table.put t k v

/-! ## Bits and bytes -/

/-- X[lo+k-1:lo] of a number. -/
def bitsOf (x lo k : Nat) : Nat := x / 2 ^ lo % 2 ^ k

/-- FIELD[lo+k-1:lo] of a 64-bit value. -/
def field (x : W64) (lo k : Nat) : Nat := bitsOf x.toNat lo k

/-- A single bit of a 64-bit value. -/
def bit (x : W64) (n : Nat) : Bool := field x n 1 == 1

/-- A 64-bit value with FIELD[lo+k-1:lo] replaced. -/
def setField (x : W64) (lo k v : Nat) : W64 :=
  BitVec.ofNat 64 (x.toNat - field x lo k * 2 ^ lo + v % 2 ^ k * 2 ^ lo)

/-- A truth value as a number. -/
def ofBool (b : Bool) : Nat := if b then 1 else 0

/-- The little-endian bytes of a number (R6). -/
def toBytes : Nat → Nat → List Byte
  | 0, _ => []
  | n + 1, x => BitVec.ofNat 8 x :: toBytes n (x / 256)

/-- The number that little-endian bytes hold (R6). -/
def ofBytes : List Byte → Nat
  | [] => 0
  | b :: r => b.toNat + 256 * ofBytes r

/-- A count that saturates. -/
def satAdd (limit a b : Nat) : Nat := min limit (a + b)

/-- Bytes with their poison, as a transfer carries them (R23). -/
abbrev Data := List (Byte × Bool)

/-- Clean bytes. -/
def clean (bs : List Byte) : Data := bs.map fun b => (b, false)

/-- The elements of a list from a position, a number of them. -/
def slice {α : Type} (l : List α) (at_ n : Nat) : List α := (l.drop at_).take n

/-! ## Names of units (R46, R182, R406, R413) -/

/-- The cluster of a core. -/
def clusterOf (core : Nat) : Nat := core / 256
/-- The core number 0 to 129 on its cluster (R182, code 57). -/
def coreNum (core : Nat) : Nat := core % 256
/-- The chip of a cluster. -/
def chipOfCluster (cl : Nat) : Nat := cl / 16
/-- The die of a cluster. -/
def dieOfCluster (cl : Nat) : Nat := cl / 2 % 8
/-- The cluster's number 0 to 9 on its module: 2 * DIE + CLUSTER (R360). -/
def clusterNum (cl : Nat) : Nat := cl % 16
/-- The chip of a core. -/
def chipOf (core : Nat) : Nat := chipOfCluster (clusterOf core)
/-- The die of a core. -/
def dieOf (core : Nat) : Nat := dieOfCluster (clusterOf core)
/-- A sextant core (R3). -/
def isSextant (core : Nat) : Bool := decide (128 ≤ coreNum core)
/-- A core of R3: 5 dies, 2 clusters each, cores 0 to 129. -/
def isCore (core : Nat) : Bool :=
  decide (chipOf core < 256) && decide (dieOf core ≤ 4) && decide (coreNum core ≤ 129)
/-- The core with a number on a cluster. -/
def coreAt (cl n : Nat) : Nat := cl * 256 + n
/-- The granule of a core: a sextant core belongs with the granule of core 0 (R406). -/
def granuleOf (core : Nat) : Nat :=
  dieOf core * 8 + clusterOf core % 2 * 4 + (if isSextant core then 0 else coreNum core / 32)

/-- A core named by CHIP, DIE, CLUSTER, CORE and SX at the positions [55:36] of R46; none outside its
limits, the membership of the chip apart. -/
def coreNamed (v : W64) : Option Nat :=
  let sx := field v 36 1
  let n := field v 37 7
  if 4 < field v 45 3 || (sx == 1 && 1 < n) then none
  else some (coreAt (field v 48 8 * 16 + field v 45 3 * 2 + field v 44 1) (if sx == 1 then 128 + n else n))

/-- The SRAM-window address of a scratchpad offset of a core (R46). -/
def windowVA (core off : Nat) : Nat :=
  2 ^ 56 + chipOf core * 2 ^ 48 + dieOf core * 2 ^ 45 + clusterOf core % 2 * 2 ^ 44
    + (coreNum core % 128) * 2 ^ 37 + ofBool (isSextant core) * 2 ^ 36 + off

/-- The bytes of a scratchpad (R93). -/
def spadBytes : Nat := 0xC0000

/-! ## Units of State -/

namespace State

/-- The boot chain of a module has stopped: it accepts nothing but a signed recovery image (R420). -/
def closed (s : State) (ch : Nat) : Bool := (Table.look s.chips ch).elim false fun c => c.boot.failed

/-- The time of a module (R419): it counts from its own power-on reset, or from the domain's once the domain has brought
the modules to one time. -/
def timeAt (s : State) (ch : Nat) : BitVec 48 := s.now - (Table.look s.chips ch).elim 0 Chip.epoch

/-- Device time that has passed since a reading, which wraps (R419). -/
def passed (s : State) (t : BitVec 48) : Nat := (s.now - t).toNat

/-- A core's state. -/
def core (s : State) (k : Nat) : Core := (Table.look s.cores k).getD Core.reset
/-- The state with a core replaced. -/
def setCore (s : State) (k : Nat) (c : Core) : State := { s with cores := Table.put s.cores k c }
/-- The core whose turn it is. -/
def me (s : State) : Core := s.core s.here
/-- The state with that core replaced. -/
def setMe (s : State) (c : Core) : State := s.setCore s.here c
/-- A cluster's state. -/
def cluster (s : State) (k : Nat) : Cluster := (Table.look s.clusters k).getD Cluster.reset
/-- The state with a cluster replaced. -/
def setCluster (s : State) (k : Nat) (c : Cluster) : State :=
  { s with clusters := Table.put s.clusters k c }
/-- A module's own state. -/
def chip (s : State) (k : Nat) : Chip := (Table.look s.chips k).getD Chip.reset
/-- The state with a module replaced. -/
def setChip (s : State) (k : Nat) (c : Chip) : State := { s with chips := Table.put s.chips k c }
/-- A partition. -/
def part (s : State) (k : Nat) : Partition := (Table.look s.parts k).getD Partition.reset
/-- The state with a partition replaced. -/
def setPart (s : State) (k : Nat) (p : Partition) : State := { s with parts := Table.put s.parts k p }
/-- A stack's base die. -/
def stack (s : State) (k : Nat) : Stack := (Table.look s.hbm k).getD Stack.reset
/-- The state with a stack replaced. -/
def setStack (s : State) (k : Nat) (x : Stack) : State := { s with hbm := Table.put s.hbm k x }
/-- A fabric unit. A switch plane that several modules reach through their own management spaces has its registers in each of
them.
DESIGN CHOICE, log entry 165. -/
def fab (s : State) (k : Nat) : Fabric := (Table.look s.fabric k).getD Fabric.reset
/-- The state with a fabric unit replaced. -/
def setFab (s : State) (k : Nat) (x : Fabric) : State := { s with fabric := Table.put s.fabric k x }
/-- A page's placement entry. -/
def page (s : State) (k : Nat) : Page := (Table.look s.pages k).getD Page.reset
/-- The state with a placement entry replaced. -/
def setPage (s : State) (k : Nat) (x : Page) : State := { s with pages := Table.put s.pages k x }
/-- A slot of a slot table. -/
def obj (s : State) (k : Nat) : Obj := (Table.look s.objs k).getD Obj.free
/-- The state with a slot replaced. -/
def setObj (s : State) (k : Nat) (x : Obj) : State := { s with objs := Table.put s.objs k x }
/-- A registered ring. -/
def ring? (s : State) (k : Nat) : Option Ring := Table.look s.rings k
/-- The state with a ring registered or replaced. -/
def setRing (s : State) (k : Nat) (x : Ring) : State := { s with rings := Table.put s.rings k x }
/-- The state with a ring released. -/
def dropRing (s : State) (k : Nat) : State := { s with rings := Table.drop s.rings k }
/-- An endpoint of a module. -/
def endpoint (s : State) (ch e : Nat) : Endpoint :=
  (Table.look (s.chip ch).endpoints e).getD Endpoint.reset
/-- The state with an endpoint replaced. -/
def setEndpoint (s : State) (ch e : Nat) (x : Endpoint) : State :=
  s.setChip ch { s.chip ch with endpoints := Table.put (s.chip ch).endpoints e x }

/-- The next number for an access, command, record or message, and the state that has used it. -/
def take (s : State) : Nat × State := (s.fresh, { s with fresh := s.fresh + 1 })

/-- The partition that is resident on a core, if one is (R406). -/
def owner (s : State) (core : Nat) : Option Nat :=
  (s.parts.find? fun p => p.1 / 64 == chipOf core && p.2.state == .resident
    && p.2.pgran.getLsbD (granuleOf core)).map (·.1)

/-- The partition of what runs on a core: its block's, or the one resident there. -/
def partOf (s : State) (core : Nat) : Nat :=
  match (s.core core).blk with
  | some b => b.part
  | none => (s.owner core).getD (chipOf core * 64)

/-- The partition is out of its cores, so that its image receives what arrives for them (R409). -/
def isOut (s : State) (p : Nat) : Bool :=
  match (s.part p).state with
  | .resident => false
  | .goingOut => (s.part p).saved
  | .out => true
  | .comingIn => true

/-- A partition reset is under way: it waits for the accepted commands of the partition's cores (R411). -/
def resetting (s : State) (p : Nat) : Bool :=
  (s.part p).wantReset && ((s.part p).state == .resident || (s.part p).state == .out)

/-- A core is one of a partition's. -/
def holds (s : State) (p k : Nat) : Bool := p / 64 == chipOf k && (s.part p).pgran.getLsbD (granuleOf k)

/-- The partition whose image receives what partition `p` sends to core `k`: `p` itself when it is out and the core is
one of its own; otherwise, when no partition is resident on the core, the lowest that is out of it and has a saved image
(R84, R409).
DEDUCED, log entry 110. -/
def imageOf (s : State) (p k : Nat) : Option Nat :=
  if s.isOut p && s.holds p k then some p
  else if (s.owner k).isSome then none
  else ((s.parts.filter fun q => q.2.saved && s.isOut q.1 && s.holds q.1 k).map (·.1)).min?

/-- What partition `p` sends to core `k` is applied to an image (R84, R409). -/
def inImage (s : State) (p k : Nat) : Bool := (s.imageOf p k).isSome

/-- The core that an arrival from partition `p` finds at `k`: the core itself or its image. -/
def coreOf (s : State) (p k : Nat) : Core :=
  match s.imageOf p k with
  | some q => (Table.look (s.part q).image k).getD Core.reset
  | none => s.core k

/-- The state with that core, or its image, replaced. -/
def setCoreOf (s : State) (p k : Nat) (c : Core) : State :=
  match s.imageOf p k with
  | some q => s.setPart q { s.part q with image := Table.put (s.part q).image k c }
  | none => s.setCore k c

/-- The link of a fabric unit is not recorded as failed (R79). -/
def linkUp (s : State) (unit link : Nat) : Bool := !(s.fab unit).failed.getLsbD link

/-- A link joins two units of a module (dies 0 to 4, the IOD 5) and both its ends stand (R79). -/
def joined (s : State) (ch u v : Nat) : Bool :=
  let f := ch * 32
  if u = 5 then decide (v < 5) && s.linkUp (f + 5) v && s.linkUp (f + v) 2
  else if v = 5 then s.linkUp (f + u) 2 && s.linkUp (f + 5) u
  else (v == (u + 1) % 5 && s.linkUp (f + u) 1 && s.linkUp (f + v) 0)
    || (u == (v + 1) % 5 && s.linkUp (f + u) 0 && s.linkUp (f + v) 1)

/-- The units that some units of a module reach in a number of hops over links that stand. -/
def reachedFrom (s : State) (ch : Nat) : Nat → List Nat → List Nat
  | 0, us => us
  | n + 1, us => reachedFrom s ch n (us ++ (List.range 6).filter fun v => !us.contains v && us.any fun u => s.joined ch u v)

/-- A switch plane joins two modules over links that stand (R79). -/
def planeJoins (s : State) (a b p : Nat) : Bool :=
  s.linkUp (a * 32 + 5) (5 + p) && s.linkUp (b * 32 + 5) (5 + p)
    && s.linkUp (a * 32 + 6 + p) a && s.linkUp (a * 32 + 6 + p) b && s.linkUp (b * 32 + 6 + p) a && s.linkUp (b * 32 + 6 + p) b

/-- A path remains between two units of two modules (R79).
DESIGN CHOICE, log entry 33. -/
def path (s : State) (a u b v : Nat) : Bool :=
  s.fabric.all (fun f => f.2.failed == 0)
    || (if a = b then (s.reachedFrom a 5 [u]).contains v
      else (s.reachedFrom a 5 [u]).contains 5 && (s.reachedFrom b 5 [v]).contains 5
        && (List.range 18).any (s.planeJoins a b))

/-- The unit of a module where an access ends: the die of a scratchpad, and the IOD for memory, the host link and the
device register space. -/
def targetUnit : Target → Nat × Nat
  | .mem ma => (ma / 2 ^ 48, 5)
  | .spad k _ => (chipOf k, dieOf k)

/-- A path remains between a core and a target (R79). -/
def pathTo (s : State) (k : Nat) (t : Target) : Bool := s.path (chipOf k) (dieOf k) (targetUnit t).1 (targetUnit t).2

/-- Chip `n` is a member of the domain that chip `ch` knows (R415). -/
def member (s : State) (ch n : Nat) : Bool :=
  (s.chip ch).dommember.getLsbD n || n == (s.chip ch).domcfg.toNat

end State

/-! ## Scratchpads (R93) -/

/-- A word of a scratchpad. -/
def Arch.word (r : Arch) (w : Nat) : SpWord := (Table.look r.spad w).getD SpWord.reset

/-- The scratchpad with a word replaced; a word at its reset value is not listed. -/
def Arch.setWord (r : Arch) (w : Nat) (x : SpWord) : Arch :=
  { r with spad := Table.store r.spad SpWord.reset w x }

/-- Bytes of a scratchpad from an offset; each byte carries its word's poison. -/
def Arch.spadData (r : Arch) (off : Nat) : Nat → Data
  | 0 => []
  | n + 1 =>
    let w := r.word (off / 8)
    (BitVec.ofNat 8 (w.data.toNat / 2 ^ (8 * (off % 8))), w.poison) :: Arch.spadData r (off + 1) n

/-- A word with one byte replaced: a store of an unpoisoned value clears the word's poison bit and a
store of a poisoned value sets it (R102). -/
def SpWord.setByte (w : SpWord) (n : Nat) (b : Byte) (bad : Bool) : SpWord :=
  { w with data := setField w.data (8 * n) 8 b.toNat, poison := bad }

/-- Bytes stored into one word from byte `n` on: the word's poison bit becomes that of the bytes. -/
def SpWord.setBytes (w : SpWord) : Nat → Data → SpWord
  | _, [] => w
  | n, d :: r =>
    let w' := SpWord.setBytes (w.setByte n d.1 d.2) (n + 1) r
    { w' with poison := d.2 || (r != [] && w'.poison) }

/-- The scratchpad with bytes stored from an offset (R97: the full/empty bits are unchanged). The
fuel is a bound on the words touched. -/
def Arch.storeSpad (r : Arch) (off : Nat) (d : Data) : Nat → Arch
  | 0 => r
  | n + 1 =>
    if d = [] then r
    else
      let k := 8 - off % 8
      Arch.storeSpad (r.setWord (off / 8) ((r.word (off / 8)).setBytes (off % 8) (d.take k)))
        (off + min k d.length) (d.drop k) n

/-- The scratchpad with bytes stored from an offset. -/
def Arch.putSpad (r : Arch) (off : Nat) (d : Data) : Arch := r.storeSpad off d (d.length + 1)

end Sys2Proof.Machine
end

