-- ==== Sys2Proof/Machine/Memory.lean ====
section
/-! DEFINITION. Memory by memory address (R50): bytes in canonical form, the poison bits of its beats
(R439), the regions of a chip's addresses, their worlds (R65) and the placement of pages (R37 to R51). -/
namespace Sys2Proof.Machine

/-- Memory: bytes by MA, addresses rising, no listed byte equal to zero, which is what an unlisted
address reads as (R51). -/
abbrev Memory := List Host.Cell

/-- The canonical form. -/
def Memory.wf (m : Memory) : Bool := Table.sorted m && m.all fun c => c.2 != 0

/-- The byte at an address.
DESIGN CHOICE, log entry 14. -/
def Memory.read (m : Memory) (a : Nat) : Byte := (Table.look m a).getD 0

/-- Memory with one byte written. -/
def Memory.write (m : Memory) (a : Nat) (b : Byte) : Memory := Table.store m 0 a b

/-- Bytes from an address. -/
def Memory.bytes (m : Memory) (a : Nat) : Nat → List Byte
  | 0 => []
  | n + 1 => Memory.read m a :: Memory.bytes m (a + 1) n

/-- Memory with bytes written from an address. -/
def Memory.writes (m : Memory) (a : Nat) : List Byte → Memory
  | [] => m
  | b :: r => Memory.writes (Memory.write m a b) (a + 1) r

/-- A rising list of numbers with one added. -/
def insertBeat (k : Nat) : List Nat → List Nat
  | [] => [k]
  | x :: r => if k < x then k :: x :: r else if k = x then x :: r else x :: insertBeat k r

/-- The poison bits of beats after a run of bytes at `a` is written (R439): a beat whose 64 bytes are
all written takes the poison of what is written; a beat written in part is set by a poisoned byte and
otherwise left. -/
def beatsAfter (beats : List Nat) (a : Nat) (d : Data) : Nat → List Nat
  | 0 => beats
  | n + 1 =>
    let last := (a + d.length - 1) / 64
    let b := last - n
    let bad := (slice d (b * 64 - a) (b * 64 + 64 - max a (b * 64))).any (·.2)
    let rest := beatsAfter beats a d n
    if bad then insertBeat b rest
    else if a ≤ b * 64 && b * 64 + 64 ≤ a + d.length then rest.filter (· != b)
    else rest

/-! ## Regions of MA[47:0] on a chip (R50, R413) -/

/-- What lies at a memory address. -/
inductive Region where
  | tiered
  | host
  | device
  | nothing
  deriving DecidableEq, Repr

/-- The region of a memory address (R50).
DESIGN CHOICE, log entry 15. -/
def regionOf (ma : Nat) : Region :=
  let a := ma % 2 ^ 48
  if a < 0x200000000000 then .tiered
  else if a < 0x300000000000 then .host
  else if a < 0x300100000000 then .device
  else .nothing

/-- The page of a memory address. -/
def pageOf (ma : Nat) : Nat := ma / 2 ^ 16

/-- Banks of a stack: 32 channels of two pseudo-channels of 16 banks (R30). -/
def stackBanks : Nat := 1024

/-- A row of a bank of a stack. A row holds one 2 KiB granule of a frame.
DESIGN CHOICE, log entry 16. -/
structure DramRow where
  stack : Nat
  bank : Nat
  row : Nat
  deriving DecidableEq, Repr

namespace State

/-- Eight bytes of memory as a word. -/
def mem64 (s : State) (ma : Nat) : W64 := BitVec.ofNat 64 (ofBytes (Memory.bytes s.mem ma 8))

/-- The number of a row of a bank, as a stack lists it. -/
def rowName (bank row : Nat) : Nat := row * 1024 + bank

/-- The DRAM row of a 2 KiB granule of a tier-0 frame of a chip: consecutive granules are spread over the eight
stacks (R39).
DESIGN CHOICE, log entry 16. -/
def granuleRow (ch frame g : Nat) : DramRow :=
  let k := ch * 8 + (Config.firstStack frame + g) % 8
  let x := Config.rowOf k (frame * 4 + g / 8)
  ⟨k, x.1 % stackBanks, x.2⟩

/-- The DRAM row in which a memory address lies: its page must be in tier 0. -/
def dramRow (s : State) (ma : Nat) : Option DramRow :=
  let g := s.page (pageOf ma)
  if regionOf ma = .tiered && g.tier == some 0 then some (granuleRow (ma / 2 ^ 48) g.frame (ma % 65536 / 2048))
  else none

/-- The bank of a row is fenced (R28). -/
def fencedBank (s : State) (r : DramRow) : Bool :=
  ((Table.look (s.stack r.stack).banks r.bank).getD Bank4.reset).fenced

/-- The row has been retired: it is remapped and carries the retirement marker (R28). -/
def retiredRow (s : State) (r : DramRow) : Bool := (s.stack r.stack).retired.contains (rowName r.bank r.row)

/-- A memory address lies in a row with a retirement marker, in a fenced bank (R29).
DEDUCED, log entry 22. -/
def fencedRow (s : State) (ma : Nat) : Bool :=
  if s.hbm.all (fun x => x.2.retired.isEmpty) then false
  else match s.dramRow ma with
    | some r => s.retiredRow r && s.fencedBank r
    | none => false

/-- The beat of a memory address is poisoned; only tiered memory keeps poison (R439). -/
def badBeat (s : State) (ma : Nat) : Bool := s.beats.contains (ma / 64) || s.fencedRow ma

/-- Bytes of memory with the poison of their beats (R23). -/
def memData (s : State) (ma : Nat) : Nat → Data
  | 0 => []
  | n + 1 => (Memory.read s.mem ma, s.badBeat ma) :: memData s (ma + 1) n

/-- What a write of bytes from an address stores: a byte of a row that R29 guards stays as it is. -/
def shielded (s : State) (ma : Nat) : Data → Data
  | [] => []
  | d :: r =>
    (if s.fencedRow ma then (Memory.read s.mem ma, s.beats.contains (ma / 64)) else d) :: shielded s (ma + 1) r

/-- Memory with a run of bytes written in one write (R20, R29, R439). -/
def writeMem (s : State) (ma : Nat) (d : Data) : State :=
  if d = [] then s
  else
    let d := if s.hbm.all (fun x => x.2.retired.isEmpty) then d else s.shielded ma d
    { s with
      mem := Memory.writes s.mem ma (d.map (·.1))
      beats := if regionOf ma = .tiered then
          beatsAfter s.beats ma d ((ma + d.length - 1) / 64 - ma / 64 + 1)
        else s.beats }

/-- A word written to memory without poison. -/
def writeMem64 (s : State) (ma : Nat) (v : W64) : State := s.writeMem ma (clean (toBytes 8 v.toNat))

/-! ### Worlds of memory (R65) -/

/-- A memory address lies in an enabled secure region of its chip. -/
def secureMA (s : State) (ma : Nat) : Bool :=
  (s.chip (ma / 2 ^ 48)).wrgn.toList.any fun r =>
    r.getLsbD 0 && r.getLsbD 1 && decide (bitsOf r.toNat 16 32 * 2 ^ 16 ≤ ma % 2 ^ 48)
      && decide (ma % 2 ^ 48 ≤ bitsOf r.toNat 80 32 * 2 ^ 16 + 0xFFFF)

/-- The cluster's scratchpads are secure (R66). -/
def secureCluster (s : State) (cl : Nat) : Bool := !(s.cluster cl).ns

/-! ### Placement of pages (R37 to R51) -/

/-- The page's data may be reached now: it is in tier 0, or has never been written (R42, R51). -/
def present (s : State) (p : Nat) : Bool :=
  match (s.page p).tier with
  | none => true
  | some t => t == 0

/-- Pages that a tier holds on a chip. -/
def pagesIn (s : State) (ch : Nat) (t : BitVec 2) : List Nat :=
  (s.pages.filter fun p => p.1 / 2 ^ 32 == ch && p.2.tier == some t).map (·.1)

/-- Tier-0 frames of a module: 512 GiB of 64 KiB (R16, R39).
DESIGN CHOICE, log entry 20. -/
def frames : Nat := 2 ^ 23

/-- Bytes of a lower tier: tier 1 is 768 GiB less the pager's region (R32), tier 2 up to 16 TiB (R33). -/
def tierBytes (s : State) (ch : Nat) (t : BitVec 2) : Nat :=
  if t = 1 then (768 - bitsOf (s.chip ch).tiercfg.toNat 12 10) * 2 ^ 30 else 2 ^ 44

/-- TIERCFG.CXLEN: tier 2 is in use (R32). -/
def cxl (s : State) (ch : Nat) : Bool := (s.chip ch).tiercfg.getLsbD 1

/-- TIERCFG.COMPEN: pages may be compressed (R32). -/
def compressing (s : State) (ch : Nat) : Bool := (s.chip ch).tiercfg.getLsbD 0

/-- The method and the size under which a page would be stored in a lower tier now (R34): raw unless the recorded
allowance and COMPEN let it be compressed and a method brings it to 60 KiB; the allowances 2 and 3 name exponent packing
too (R53), which a page with MX blocks is never given (R35).
DESIGN CHOICE, log entry 17. -/
def packing (s : State) (p : Nat) : BitVec 2 × Nat :=
  let comp := (s.page p).comp
  if comp = 0 || !s.compressing (p / 2 ^ 32) then (0, 65536)
  else
    let cells := s.mem.filter fun c => pageOf c.1 == p
    let bad := s.beats.filter fun b => pageOf (b * 64) == p
    let block := Config.packedSize 1 cells bad
    let expo := Config.packedSize 2 cells bad
    if 2 ≤ comp.toNat && !Config.holdsBlocks cells && expo < block && expo ≤ 61440 then (2, expo)
    else if block ≤ 61440 then (1, block)
    else (0, 65536)

/-- A lower tier is in use and has room for one more page (R39): the pages it holds, as they are stored (R34), and
those on their way to it leave 64 KiB. The rule says only 'has room': a full 64 KiB is asked although the page may be
stored smaller.
DESIGN CHOICE, log entry 17. -/
def tierRoom (s : State) (ch : Nat) (t : BitVec 2) : Bool :=
  (t == 1 || (t == 2 && s.cxl ch)) &&
    decide (((s.pagesIn ch t).map fun p => (s.page p).stored).foldl (· + ·) 0
      + 65536 * (s.pages.filter fun p => p.1 / 2 ^ 32 == ch && p.2.demoting == some t).length + 65536
      ≤ s.tierBytes ch t)

/-- Where a demoted page goes: its HOME tier, or tier 1 when HOME is 0, else the other lower tier (R39). -/
def demotionTier (s : State) (p : Nat) : Option (BitVec 2) :=
  let ch := p / 2 ^ 32
  let want : BitVec 2 := if (s.page p).home == 2 && s.cxl ch then 2 else 1
  let other : BitVec 2 := if want == 1 then 2 else 1
  if s.tierRoom ch want then some want else if s.tierRoom ch other then some other else none

/-- A frame touches a fenced bank, so that no page is placed in it (R29). -/
def fencedFrame (s : State) (ch f : Nat) : Bool :=
  (s.hbm.any fun x => x.1 / 8 == ch && x.2.banks.any fun b => b.2.fenced)
    && (List.range 32).any fun g => s.fencedBank (granuleRow ch f g)

/-- The first number from `n` on, among as many as the fuel, that a test passes. -/
def firstNat (ok : Nat → Bool) : Nat → Nat → Option Nat
  | 0, _ => none
  | k + 1, n => if ok n then some n else firstNat ok k (n + 1)

/-- The frame that the next page on a chip takes: the lowest that is free and touches no fenced bank (R29, R39).
DESIGN CHOICE, log entry 20. -/
def freeFrame (s : State) (ch : Nat) : Option Nat :=
  let used := (s.pagesIn ch 0).map fun p => (s.page p).frame
  firstNat (fun f => !used.contains f && !s.fencedFrame ch f) frames 0

/-- A tier-0 frame is free on a chip. -/
def frameFree (s : State) (ch : Nat) : Bool := (s.freeFrame ch).isSome

/-- A target lies in a page. -/
def inPage (p : Nat) (t : Target) : Bool :=
  match t with
  | .mem ma => regionOf ma = .tiered && pageOf ma == p
  | .spad _ _ => false

/-- A command's transfer under way has a part in the page still to perform. -/
def moves (p : Nat) (c : Core) : Bool :=
  c.xq.any fun x => match x.job with
    | some j => (j.rd ++ j.wr).any fun r => inPage p r.piece.target
    | none => false

/-- An access is in flight to the page: one of slot B, or one of a command (R39). -/
def inFlight (s : State) (p : Nat) : Bool :=
  (s.accs.any fun a => a.phase == .sent && (a.target :: a.split).any (inPage p))
    || s.cores.any (fun c => moves p c.2) || s.parts.any fun q => q.2.image.any fun c => moves p c.2

/-- The page may be demoted now (R39). -/
def demotable (s : State) (p : Nat) : Bool :=
  let g := s.page p
  g.tier == some 0 && g.pin == 0 && !g.nodem && !g.hold && g.demoting.isNone && !s.inFlight p
    && (s.demotionTier p).isSome

/-- The least recently used of the pages that qualify on a chip (R39). -/
def victim (s : State) (ch : Nat) : Option Nat :=
  ((s.pagesIn ch 0).filter s.demotable).foldl
    (fun best p => match best with
      | none => some p
      | some b => if (s.page p).lru < (s.page b).lru then some p else some b) none

/-- A cached translation resolves a memory page. -/
def resolves (e : XEntry) (p : Nat) : Bool :=
  let va := (p * 2 ^ 16 + 2 ^ 56 - e.offset % 2 ^ 56) % 2 ^ 56
  decide (e.first ≤ va) && decide (va ≤ e.last)

/-- Cached translations removed from the micro caches of some cores and the range caches of some
clusters (R62). -/
def purge (s : State) (cores clusters : Nat → Bool) (hit : XEntry → Bool) : State :=
  { s with
    cores := s.cores.map fun p =>
      (p.1, if cores p.1 then { p.2 with ucache := p.2.ucache.filter fun e => !hit e } else p.2)
    clusters := s.clusters.map fun p =>
      (p.1, if clusters p.1 then { p.2 with cache := p.2.cache.filter fun e => !hit e } else p.2) }

/-- The translations that the commands of some cores hold removed, where one is selected (R62). -/
def purgeCmds (s : State) (cores : Nat → Bool) (hit : XEntry → Bool) : State :=
  let f := fun (p : Nat × Core) => (p.1, if cores p.1 then
      { p.2 with xq := p.2.xq.map fun c => { c with tlb := c.tlb.filter fun e => !hit e } } else p.2)
  { s with
    cores := s.cores.map f
    parts := s.parts.map fun q => (q.1, { q.2 with image := q.2.image.map f }) }

/-- The poison of a page that is read to be moved: a row that R29 guards is read poisoned, and the page keeps that. -/
def keepPoison (s : State) (p : Nat) : State :=
  if s.hbm.all (fun x => x.2.retired.isEmpty) then s
  else { s with beats := ((List.range 1024).map fun i => p * 1024 + i).foldl (init := s.beats) fun l b =>
    if s.fencedRow (b * 64) then insertBeat b l else l }

/-- The beats of a page that its reads from CXL memory report as poisoned are poisoned (R33, R23). -/
def cxlRead (s : State) (p : Nat) (bad : BitVec 1024) : State :=
  if (s.page p).tier = some 2 then
    { s with beats := (List.range 1024).foldl (fun l i => if bad.getLsbD i then insertBeat (p * 1024 + i) l else l) s.beats }
  else s

/-- A page demoted to a tier: its translations are invalidated in the whole domain first (R40, R63), it is stored
there as R34 says, and the lower tiers count as used (R32). -/
def demote (s : State) (p : Nat) (t : BitVec 2) : State :=
  let s := s.purge (fun _ => true) (fun _ => true) fun e => resolves e p
  let s := s.keepPoison p
  let z := s.packing p
  let s := s.setPage p { s.page p with tier := some t, demoting := none, method := z.1, stored := z.2 }
  s.setChip (p / 2 ^ 32) { s.chip (p / 2 ^ 32) with tierUsed := true }

/-- A demotion under way can finish now: its reads have been served, and the page has not been pinned (R40,
R41). -/
def finishable (s : State) (p : Nat) : Bool :=
  let g := s.page p
  g.tier == some 0 && g.demoting.isSome && g.pin == 0 && !s.inFlight p

/-- A demotion under way finishes (R40). -/
def finishDemotion (s : State) (p : Nat) : State :=
  match (s.page p).demoting with
  | some t => if s.finishable p then s.demote p t else s
  | none => s

/-- A page of a chip leaves tier 0: a demotion under way finishes, or else the least recently used page that qualifies is
demoted (R39); none when there is no such page. That a demotion under way comes first is not in the rule.
DESIGN CHOICE, log entry 20. -/
def evictPage (s : State) (ch : Nat) : Option State :=
  match (s.pagesIn ch 0).find? s.finishable with
  | some p => some (s.finishDemotion p)
  | none =>
    match s.victim ch with
    | none => none
    | some p => (s.demotionTier p).map (s.demote p)

/-- Pages of a chip leave tier 0, as many as the fuel, until a frame is free that touches no fenced bank (R29, R39). -/
def makeFrameIn (ch : Nat) : Nat → State → Option State
  | 0, s => if s.frameFree ch then some s else none
  | n + 1, s => if s.frameFree ch then some s else (s.evictPage ch).bind (makeFrameIn ch n)

/-- A tier-0 frame is made ready on a chip; none when no page can leave (R42). -/
def makeFrame (s : State) (ch : Nat) : Option State :=
  if s.frameFree ch then some s else makeFrameIn ch (s.pagesIn ch 0).length s

/-- HOME of an attribute field (R53). -/
def attrHome (attr : BitVec 16) : BitVec 2 := BitVec.ofNat 2 (attr.toNat / 2 ^ 10)
/-- MISS of an attribute field: 1 = notify. -/
def attrMiss (attr : BitVec 16) : Bool := attr.getLsbD 12
/-- NODEM of an attribute field. -/
def attrNodem (attr : BitVec 16) : Bool := attr.getLsbD 13
/-- COMP of an attribute field. -/
def attrComp (attr : BitVec 16) : BitVec 2 := BitVec.ofNat 2 (attr.toNat / 2 ^ 8)
/-- CA of an attribute field: 0 = device access. -/
def attrCA (attr : BitVec 16) : Bool := attr.getLsbD 7

/-- The device has reached a page for itself, through no entry: its use is the latest (R39). -/
def use (s : State) (p : Nat) : State :=
  if (s.page p).tier.isNone then s
  else { s with fresh := s.fresh + 1 }.setPage p { s.page p with lru := s.fresh }

/-- An access has reached a page: its use is the latest, and an access through an entry whose
compression allowance is 0 sets COMP to 0 (R37).
DEDUCED, log entry 19. -/
def touch (s : State) (p : Nat) (attr : BitVec 16) : State :=
  let g := s.page p
  if g.tier.isNone then s
  else { s with fresh := s.fresh + 1 }.setPage p
    { g with lru := s.fresh, comp := if attrComp attr == 0 then 0 else g.comp }

/-- The frame that a page takes once one is ready. -/
def nextFrame (s : State) (p : Nat) : Nat := (s.freeFrame (p / 2 ^ 32)).getD 0

/-- A page made ready for a write or atomic: a page never written is placed in tier 0 with the HOME,
NODEM and COMP of the access (R51, R37), and a demotion under way is abandoned (R40). None when no frame
can be had (R42). -/
def placeForWrite (s : State) (p : Nat) (attr : BitVec 16) : Option State :=
  match (s.page p).tier with
  | none =>
    (s.makeFrame (p / 2 ^ 32)).map fun s =>
      { s with fresh := s.fresh + 1 }.setPage p
        { s.page p with tier := some 0, frame := s.nextFrame p, home := attrHome attr, nodem := attrNodem attr,
                        comp := attrComp attr, lru := s.fresh }
  | some _ => some ((s.setPage p { s.page p with demoting := none }).touch p attr)

/-- A page-in of an absent page is asked for, or the request joins the one under way (R43); HOME, NODEM
and COMP are those of the access (R37, R51), and `flag` is the resident flag due with it. -/
def requestPage (s : State) (p : Nat) (attr : BitVec 16) (flag : Option (Nat × Nat × Nat × BitVec 4)) :
    State :=
  let g := s.page p
  { s with fresh := s.fresh + 1 }.setPage p { g with
    incoming := true
    order := if g.incoming then g.order else s.fresh
    home := if g.incoming then g.home else attrHome attr
    nodem := if g.incoming then g.nodem else attrNodem attr
    comp := if g.incoming then g.comp else attrComp attr
    flags := g.flags ++ flag.toList }

/-- The first page outside tier 0 among those that a run of bytes by MA touches (R17). -/
def absentPage (s : State) (ma len : Nat) : Option Nat :=
  (List.range ((ma % 65536 + len + 65535) / 65536)).findSome? fun i =>
    let a := ma + 65536 * i
    if regionOf a = .tiered && !s.present (pageOf a) then some (pageOf a) else none

/-- The attribute field under which the device brings in a page for its own reads and writes, which no entry governs: HOME,
NODEM and COMP are recorded as 0.
DESIGN CHOICE, log entry 156. -/
def tableAttr : BitVec 16 := 0x00F8

/-- What the device finds of a page of one of its own tables that it is to write (R17): ready, asked for, or without a
frame (R42). -/
inductive Ready where
  | now (s : State)
  | wait (s : State)
  | noFrame

/-- The device reaches a word of such a table: a page never written is placed (R51), the demotion of its page is abandoned
(R40), and a page outside tier 0 is asked for and waited for (R17). -/
def readyTable (s : State) (ma : Nat) : Ready :=
  if regionOf ma ≠ .tiered then .now s
  else
    let p := pageOf ma
    match (s.page p).tier with
    | none => match s.placeForWrite p tableAttr with
      | some t => .now t
      | none => .noFrame
    | some t => if t = 0 then .now ((s.setPage p { s.page p with demoting := none }).use p)
      else .wait (s.requestPage p tableAttr none)

/-- A change of a word of a page waits (R17). -/
def editing (s : State) (p : Nat) : Bool := s.edits.any fun e => pageOf e.ma == p

/-- The page-in of a page is one of the 1024 that a module holds in flight; later requests wait in the order of their
arrival (R43). -/
def pageUnderWay (s : State) (p : Nat) : Bool :=
  let g := s.page p
  g.incoming && decide ((s.pages.filter fun x =>
    x.1 / 2 ^ 32 == p / 2 ^ 32 && x.2.incoming && decide (x.2.order < g.order)).length < 1024)

end State

/-- The word that a change of a table leaves. -/
def EditOp.apply : EditOp → W64 → W64
  | .set lo n v, w => setField w lo n v
  | .lower lo n v, w => setField w lo n (field w lo n - v)
  | .raise lo n v, w => setField w lo n (satAdd (2 ^ n - 1) (field w lo n) v)
  | .bits v, w => w ||| v

end Sys2Proof.Machine
end

