-- ==== Sys2Proof/Machine/Walk.lean ====
section
/-! DEFINITION. Virtual addresses (R45, R46), contexts (R48, R49), range entries (R52 to R54), pages (R55,
R56), permission and world checks (R57, R66) and the cached translations (R60). -/
namespace Sys2Proof.Machine

/-! ## Kinds of translation fault (R58) -/

/-- VA[63:57] non-zero. -/
def kNoncanon : Nat := 0
/-- An SRAM-window field out of its limits. -/
def kSramwin : Nat := 1
/-- No range entry and no valid page. -/
def kNomap : Nat := 2
/-- A permission check failed. -/
def kPerm : Nat := 3
/-- A malformed entry. -/
def kFormat : Nat := 4
/-- An MA outside every region, a chip outside the domain, or a device access too wide. -/
def kMap : Nat := 5
/-- The context descriptor is invalid. -/
def kCtx : Nat := 6
/-- Not a kind of R58: a walk has met a poisoned word of a table, which it uses as an operand (R23).
DESIGN CHOICE, log entry 26. -/
def kPoison : Nat := 7
/-- Not a kind of R58: with a status of R111 added, a walk has ended because a page of a table could not be brought into
tier 0 (R42, R56). -/
def kTier : Nat := 8

/-! ## Tables -/

/-- An attribute field that no valid entry holds: bit 14 set or HOME = 3 (R54). -/
def badAttr (w : W64) : Bool := bit w 14 || field w 10 2 == 3

/-- A valid range entry is malformed (R54). -/
def badRange (w0 w1 w2 w3 : W64) : Bool :=
  field w0 57 6 != 0 || field w0 0 16 != 0 || field w1 57 7 != 0 || field w1 0 16 != 0
    || field w2 57 7 != 0 || field w2 0 16 != 0 || field w3 16 48 != 0 || field w3 0 3 != 0
    || badAttr w3 || bit w0 56 || bit w1 56 || decide (field w1 16 41 < field w0 16 41)

/-- An entry cut to the side on which an address lies of the granules that a lower-numbered entry covers, which
wins there (R54).
DEDUCED, log entry 30. -/
def XEntry.beside (e : XEntry) (va base limit : Nat) : XEntry :=
  if limit < va / 2 ^ 16 then { e with first := max e.first ((limit + 1) * 2 ^ 16) }
  else { e with last := min e.last (base * 2 ^ 16 - 1) }

/-- The walk of a range table from an index on: the first valid entry that is malformed or covers the
address decides, and what the pages give when no entry does (R54, R55). An entry in a poisoned beat ends the walk (R23).
DESIGN CHOICE, log entry 26. -/
def rangeWalk (s : State) (base part : Nat) (ctx : BitVec 12) (ns : Bool) (va : Nat) (pages : Except Nat XEntry)
    (i : Nat) : Nat → Except Nat XEntry
  | 0 => pages
  | n + 1 =>
    let at_ := base + 32 * i
    let w0 := s.mem64 at_
    let w1 := s.mem64 (at_ + 8)
    let w2 := s.mem64 (at_ + 16)
    let w3 := s.mem64 (at_ + 24)
    if s.badBeat at_ then .error kPoison
    else if !bit w0 63 then rangeWalk s base part ctx ns va pages (i + 1) n
    else if badRange w0 w1 w2 w3 then .error kFormat
    else if field w0 16 41 ≤ va / 2 ^ 16 && va / 2 ^ 16 ≤ field w1 16 41 then
      .ok ⟨part, ctx, field w0 16 41 * 2 ^ 16, field w1 16 41 * 2 ^ 16 + 0xFFFF,
        field w2 16 41 * 2 ^ 16, BitVec.ofNat 16 (field w3 3 13 * 8), ns, []⟩
    else (rangeWalk s base part ctx ns va pages (i + 1) n).map fun e => e.beside va (field w0 16 41) (field w1 16 41)

/-- The walk of the page table through the levels that remain, each with the low bit and the width of
its index (R55, R56). -/
def pageWalk (s : State) (part : Nat) (ctx : BitVec 12) (ns : Bool) (va table : Nat) :
    List (Nat × Nat) → Except Nat XEntry
  | [] => .error kFormat
  | (lo, k) :: rest =>
    let e := s.mem64 (table + 8 * bitsOf va lo k)
    if s.badBeat (table + 8 * bitsOf va lo k) then .error kPoison
    else if !bit e 63 then .error kNomap
    else if field e 56 6 != 0 then .error kFormat
    else if bit e 62 then
      if lo == 39 || field e 0 3 != 0 || badAttr e || field e 16 (lo - 16) != 0 then .error kFormat
      else
        let first := va / 2 ^ lo * 2 ^ lo
        .ok ⟨part, ctx, first, first + 2 ^ lo - 1,
          (field e 16 40 * 2 ^ 16 + 2 ^ 56 - first) % 2 ^ 56, BitVec.ofNat 16 (field e 3 13 * 8), ns, []⟩
    else if field e 0 8 != 0 || (lo ≥ 30 && field e 8 4 != 0) then .error kFormat
    else pageWalk s part ctx ns va (field e 8 48 * 2 ^ 8) rest

/-- The addresses that the walk of a range table reads from an index on, and then those of the pages (R54). -/
def rangeReads (s : State) (base va : Nat) (pages : List Nat) (i : Nat) : Nat → List Nat
  | 0 => pages
  | n + 1 =>
    let at_ := base + 32 * i
    let w0 := s.mem64 at_
    let w1 := s.mem64 (at_ + 8)
    if s.badBeat at_ || bit w0 63 && (badRange w0 w1 (s.mem64 (at_ + 16)) (s.mem64 (at_ + 24))
        || decide (field w0 16 41 ≤ va / 2 ^ 16) && decide (va / 2 ^ 16 ≤ field w1 16 41)) then [at_]
    else at_ :: rangeReads s base va pages (i + 1) n

/-- The addresses that the walk of a page table reads (R55). -/
def pageReads (s : State) (va table : Nat) : List (Nat × Nat) → List Nat
  | [] => []
  | (lo, k) :: rest =>
    let at_ := table + 8 * bitsOf va lo k
    let e := s.mem64 at_
    if s.badBeat at_ || !bit e 63 || bit e 62 then [at_] else at_ :: pageReads s va (field e 8 48 * 2 ^ 8) rest

/-- The levels of a page table (R55). -/
def levels : List (Nat × Nat) := [(39, 17), (30, 9), (21, 9), (16, 5)]

namespace State

/-- The address of a context's descriptor, if its id is below COUNT (R48, R49). -/
def descriptor (s : State) (part : Nat) (ctx : BitVec 12) : Option Nat :=
  let t := (s.part part).ctxtab
  if ctx.toNat < field t 0 12 then some (field t 12 44 * 2 ^ 12 + 64 * ctx.toNat) else none

/-- The words 0 and 1 of a valid descriptor (R49). -/
def context (s : State) (part : Nat) (ctx : BitVec 12) : Option (W64 × W64) :=
  match s.descriptor part ctx with
  | none => none
  | some at_ =>
    let w0 := s.mem64 at_
    let w1 := s.mem64 (at_ + 8)
    if bit w0 63 && field w0 56 6 == 0 && field w0 7 4 == 0 && field w1 56 8 == 0 && field w1 1 19 == 0
        && (Memory.bytes s.mem (at_ + 16) 48).all (· == 0)
    then some (w0, w1) else none

/-- The context's descriptor lies in a poisoned beat. -/
def badDescriptor (s : State) (part : Nat) (ctx : BitVec 12) : Bool := (s.descriptor part ctx).any s.badBeat

/-- The walk for a memory-space address (R54, R55): the governing entry or the kind of the fault. The walker's own reads of
the descriptor and of the tables are tested for no world, no region of R65 and no membership of the domain: the rules name
no such test of them.
DESIGN CHOICE, log entry 157. -/
def walk (s : State) (part : Nat) (ctx : BitVec 12) (va : Nat) : Except Nat XEntry :=
  match s.context part ctx with
  | none => .error (if s.badDescriptor part ctx then kPoison else kCtx)
  | some (w0, w1) =>
    if s.badDescriptor part ctx then .error kPoison
    else if 64 < field w0 0 7 then .error kFormat
    else
      rangeWalk s (field w0 11 45 * 2 ^ 11) part ctx (bit w0 62) va
        (if bit w1 0 then pageWalk s part ctx (bit w0 62) va (field w1 20 36 * 2 ^ 20) levels else .error kNomap)
        0 (field w0 0 7)

/-- The addresses of the descriptor, range and page table that a walk reads, in their order (R49, R54, R55). -/
def walkReads (s : State) (part : Nat) (ctx : BitVec 12) (va : Nat) : List Nat :=
  match s.descriptor part ctx with
  | none => []
  | some at_ => at_ :: match s.context part ctx with
    | none => []
    | some (w0, w1) =>
      if s.badDescriptor part ctx || decide (64 < field w0 0 7) then []
      else rangeReads s (field w0 11 45 * 2 ^ 11) va
        (if bit w1 0 then pageReads s va (field w1 20 36 * 2 ^ 20) levels else []) 0 (field w0 0 7)

/-- The pages that a walk reads, all in tier 0, have been used (R39). -/
def useTables (s : State) (part : Nat) (ctx : BitVec 12) (va : Nat) : State :=
  (((s.walkReads part ctx va).filter fun ma => regionOf ma = .tiered).map pageOf).eraseDups.foldl use s

/-- The first page outside tier 0 that a walk reads: the walk waits for it (R42, R56). -/
def walkAbsent (s : State) (part : Nat) (ctx : BitVec 12) (va : Nat) : Option Nat :=
  (s.walkReads part ctx va).findSome? fun ma =>
    if regionOf ma = .tiered && !s.present (pageOf ma) then some (pageOf ma) else none

end State

/-- A cached entry governs an address of a context. -/
def XEntry.covers (e : XEntry) (part : Nat) (ctx : BitVec 12) (va : Nat) : Bool :=
  e.part == part && e.ctx == ctx && decide (e.first ≤ va) && decide (va ≤ e.last)

/-- Two cached entries are the same translation. -/
def XEntry.same (e f : XEntry) : Bool := { e with frames := f.frames } == f

/-- An entry that governs an address of a context, with the frame of the page that it resolves there (R60). -/
def XEntry.resolved (e : XEntry) (part : Nat) (ctx : BitVec 12) (va p frame : Nat) : XEntry :=
  if e.covers part ctx va && !e.frames.contains (p, frame) then { e with frames := (p, frame) :: e.frames } else e

/-- The MA that an entry gives an address: (VA + OFFSET) mod 2^56 (R52). -/
def XEntry.ma (e : XEntry) (va : Nat) : Nat := (va + e.offset) % 2 ^ 56

/-- The mapping's world is non-secure (R66). -/
def XEntry.ns (e : XEntry) : Bool := e.attr.getLsbD 15 || e.ctxNs

namespace State

/-- The cached translation of an address: the core's micro cache, then its cluster's (R60). What the cluster's cache gives
is not copied into the micro cache (DESIGN CHOICE, log entry 166).
DEDUCED, log entry 30. -/
def cached (s : State) (core part : Nat) (ctx : BitVec 12) (va : Nat) : Option XEntry :=
  match (s.core core).ucache.find? fun e => e.covers part ctx va with
  | some e => some e
  | none => (s.cluster (clusterOf core)).cache.find? fun e => e.covers part ctx va

/-- An entry installed in a cluster's cache, which holds 256 (R60): a full one drops the entry installed first.
DESIGN CHOICE, log entry 166. -/
def installShared (s : State) (cl : Nat) (e : XEntry) : State :=
  let x := s.cluster cl
  s.setCluster cl { x with cache := (e :: x.cache.filter fun y => !y.same e).take 256 }

/-- An entry installed in both caches, which hold 16 and 256 (R60): a full one drops the entry installed first.
DESIGN CHOICE, log entry 166. -/
def install (s : State) (core : Nat) (e : XEntry) : State :=
  let c := s.core core
  (s.setCore core { c with ucache := (e :: c.ucache.filter fun y => !y.same e).take 16 }).installShared (clusterOf core) e

/-- The frame of a page of the core's own module is recorded in the cached entries that have resolved it there (R60). -/
def noteFrame (s : State) (core part : Nat) (ctx : BitVec 12) (va p : Nat) : State :=
  let g := s.page p
  if g.tier ≠ some 0 || p / 2 ^ 32 ≠ chipOf core || (s.cached core part ctx va).isNone then s
  else
    let f := fun (e : XEntry) => e.resolved part ctx va p g.frame
    let c := s.core core
    let s := if c.ucache.any fun e => e.covers part ctx va then s.setCore core { c with ucache := c.ucache.map f } else s
    let x := s.cluster (clusterOf core)
    s.setCluster (clusterOf core) { x with cache := x.cache.map f }

/-- A cached entry, or the one a walk finds now: how an engine of a core translates a granule (R59). -/
def entryFor (s : State) (core part : Nat) (ctx : BitVec 12) (va : Nat) : Except Nat XEntry :=
  match s.cached core part ctx va with
  | some e => .ok e
  | none => s.walk part ctx va

end State

/-! ## Checks -/

/-- What an access needs of a mapping (R57). -/
structure Need where
  r : Bool
  w : Bool
  x : Bool
  deriving DecidableEq, Repr

/-- A read. -/
def Need.load : Need := ⟨true, false, false⟩
/-- A write. -/
def Need.store : Need := ⟨false, true, false⟩
/-- A read and a write. -/
def Need.both : Need := ⟨true, true, false⟩
/-- An instruction fetch. -/
def Need.fetch : Need := ⟨false, false, true⟩

/-- The attribute field permits the access (R57). -/
def permits (attr : BitVec 16) (user : Bool) (n : Need) : Bool :=
  (!n.r || attr.getLsbD 3) && (!n.w || attr.getLsbD 4) && (!n.x || attr.getLsbD 5)
    && (!user || attr.getLsbD 6)

/-- An entry that governs an address lets an access of `bytes` bytes through, or the kind of the fault (R50, R57). The
rules give no order among the failing checks of one access: MAP for its region or chip comes first, then PERM, then MAP
for the widths that CA = 0 allows.
DESIGN CHOICE, log entry 149. -/
def State.admitted (s : State) (chip : Nat) (e : XEntry) (va bytes : Nat) (user : Bool) (n : Need) :
    Except Nat Nat :=
  let ma := e.ma va
  if regionOf ma = .nothing || !s.member chip (ma / 2 ^ 48) then .error kMap
  else if !permits e.attr user n then .error kPerm
  else if !attrCA e.attr && !n.x && !(bytes ≤ 8 && (bytes == 1 || bytes == 2 || bytes == 4 || bytes == 8)
      && va % bytes == 0) then .error kMap
  else .ok ma

/-- The core and offset that the fields of an SRAM-window address name, or none outside the limits of R46. -/
def State.window (s : State) (chip : Nat) (va : W64) (bytes : Nat) : Option (Nat × Nat) :=
  match coreNamed va with
  | none => none
  | some k =>
    if field va 20 16 == 0 && s.member chip (chipOf k) && field va 0 20 + bytes ≤ spadBytes
    then some (k, field va 0 20) else none

/-- The core and offset of an address that must lie in the SRAM window (R46): VA[56] is 1 and VA[63:57] is 0. -/
def State.spadWindow (s : State) (chip : Nat) (va : W64) (bytes : Nat) : Option (Nat × Nat) :=
  if field va 56 8 = 1 then s.window chip va bytes else none

/-- Where an access of a core goes. -/
inductive Reach where
  /-- translated and permitted: the target, the attribute field (for a scratchpad, that of a normal
  mapping) and whether it performs as non-secure -/
  | hit (t : Target) (attr : BitVec 16) (ns : Bool)
  /-- the translation of the VA's granule is not cached -/
  | miss (granule : Nat)
  /-- a translation fault of a kind (R58) -/
  | fault (kind : Nat)
  /-- the world check refuses it (R66) -/
  | world
  /-- a user access to the register space (R414) -/
  | privilege
  deriving DecidableEq, Repr

/-- The management register space or the endpoint table, which no user access reaches (R413, R414). -/
def privileged (ma : Nat) : Bool :=
  let a := ma % 2 ^ 48
  (0x300080000000 ≤ a && a < 0x300084000000) || (0x300010000000 ≤ a && a < 0x300010400000)

/-- The attribute field that stands for an SRAM-window access, which no mapping governs. -/
def spadAttr : BitVec 16 := 0x00F8

/-- The context a core runs in: its block's, or context 0 (R401). -/
def Core.ctx (c : Core) : BitVec 12 := match c.blk with | some b => b.ctx | none => 0

/-- The world of a core's accesses: its block's, or its partition's (R66, R401). -/
def State.worldOf (s : State) (k : Nat) : Bool :=
  match (s.core k).blk with
  | some b => b.ns
  | none => (s.part (s.partOf k)).ns

/-- Where a slot-B access of a core goes (R45 to R66).
DEDUCED, log entry 27. -/
def State.reach (s : State) (k : Nat) (va : W64) (bytes : Nat) (n : Need) : Reach :=
  let c := s.core k
  let ns := s.worldOf k
  if 2 ^ 57 ≤ va.toNat then .fault kNoncanon
  else if 2 ^ 56 ≤ va.toNat then
    match s.window (chipOf k) va bytes with
    | none => .fault kSramwin
    | some (t, off) =>
      if ns && s.secureCluster (clusterOf t) then .world else .hit (.spad t off) spadAttr ns
  else
    let g := va.toNat / 2 ^ 16
    let part := s.partOf k
    match s.cached k part c.ctx va.toNat with
    | none =>
      match c.walkFault with
      | some (g', kind) => if g' = g then .fault kind.toNat else .miss g
      | none => .miss g
    | some e =>
      if privileged (e.ma va.toNat) && s.member (chipOf k) (e.ma va.toNat / 2 ^ 48) && !c.kernel then .privilege
      else match s.admitted (chipOf k) e va.toNat bytes (!c.kernel) n with
      | .error kind => .fault kind
      | .ok ma =>
        if (ns || e.ns) && s.secureMA ma then .world
        else .hit (.mem ma) e.attr (ns || e.ns)

end Sys2Proof.Machine
end

