-- ==== Sys2Proof/Machine/Records.lean ====
section
/-! DEFINITION. Continuation records (R352 to R355), crew table entries (R356), queues and their store
(R358, R359), the causes and flags that follow a record (R229, R368), and the words of a scratchpad that
futures and joins use (R260 to R262). -/
namespace Sys2Proof.Machine

/-! ## Records -/

/-- A record's STATE (R353). -/
def recState (w : Vector W64 8) : Nat := field w[0] 0 2
/-- A record's crew. -/
def recCrew (w : Vector W64 8) : Nat := field w[1] 40 24
/-- The key of a record: X, Y, Z and STAGE, beside its queue (R367). -/
def recKey (w : Vector W64 8) : Nat := field w[1] 0 40
/-- A record's deadline; all ones = none (R352). -/
def recDeadline (w : Vector W64 8) : Nat := field w[2] 16 48
/-- No deadline. -/
def noDeadline : Nat := 2 ^ 48 - 1
/-- CLASS (R353). -/
def recClass (w : Vector W64 8) : Nat := field w[2] 12 4
/-- TAGV: word 5 holds a speculation tag. -/
def recTagged (w : Vector W64 8) : Bool := bit w[2] 3
/-- HV: word 4 names a fast-weight object whose order is enforced. -/
def recOrdered (w : Vector W64 8) : Bool := bit w[2] 2
/-- SEQ (R129). -/
def recSeq (w : Vector W64 8) : Nat := field w[3] 16 16
/-- BUDGET (R365). -/
def recBudget (w : Vector W64 8) : Nat := field w[3] 32 32

/-- A record with CAUSE set (R353). -/
def setCause (w : Vector W64 8) (c : Nat) : Vector W64 8 := w.set 2 (setField w[2] 4 8 c)
/-- A record with HELD set (R352). -/
def setHeld (w : Vector W64 8) (b : Bool) : Vector W64 8 := w.set 2 (setField w[2] 1 1 (ofBool b))
/-- A record with SPEC set (R352). -/
def setSpec (w : Vector W64 8) (b : Bool) : Vector W64 8 := w.set 2 (setField w[2] 0 1 (ofBool b))

/-- The scratchpad word that a 48-bit name gives: core and word index (R354). -/
def spadName (n : Nat) : Option (Nat × Nat) :=
  let w := bitsOf n 0 17
  if bitsOf n 37 3 ≤ 4 && w < 98304 then
    some (coreAt (bitsOf n 40 8 * 16 + bitsOf n 37 3 * 2 + bitsOf n 36 1) (bitsOf n 29 7), w)
  else none

/-- The checks that every arriving record passes (R355). -/
def State.validRecord (s : State) (ch : Nat) (w : Vector W64 8) : Bool :=
  field w[0] 57 7 == 0 && recState w < 2 && recClass w < 2 && !bit w[2] 1 && !bit w[2] 0
    && field w[3] 7 9 == 0
    && (if recTagged w then
          match spadName (field w[5] 16 48) with
          | some (k, _) => s.member ch (chipOf k) && field w[5] 33 12 == 0
          | none => false
        else w[5] == 0)

/-! ## Crew table (R356, R357) -/

namespace State

/-- The MA of a crew entry. -/
def crewMA (s : State) (p crew : Nat) : Nat := field (s.part p).crewcfg 0 40 * 2 ^ 16 + 32 * crew

/-- A crew whose LIVE is 0 may be complete (R356). -/
def noteCrew (s : State) (p crew : Nat) : State :=
  if crew = 0 || field (s.mem64 (s.crewMA p crew + 8)) 32 32 ≠ 0 || (s.part p).ending.contains crew then s
  else s.setPart p { s.part p with ending := (s.part p).ending ++ [crew] }

/-- A change of a word of one of the device's tables comes to pass: a LIVE that it lowers may have fallen to 0 (R356). -/
def applyEdit (s : State) (e : TableEdit) : State :=
  let s := s.writeMem64 e.ma (e.op.apply (s.mem64 e.ma))
  match e.crew with
  | some (p, crew) => s.noteCrew p crew
  | none => s

/-- A word of one of the device's tables is to be changed: at once where its page is ready, or else once it is, behind the
earlier changes of that page (R17). -/
def editTable (s : State) (e : TableEdit) : State :=
  let wait := fun (s : State) => { s with edits := s.edits ++ [e] }
  if s.editing (pageOf e.ma) then wait s
  else match s.readyTable e.ma with
    | .now t => t.applyEdit e
    | .wait t => wait t
    | .noFrame => wait s

/-- The changes that wait are tried again in their order. -/
def runEdits (s : State) : State := s.edits.foldl editTable { s with edits := [] }

/-- A crew entry's word is to be changed: an atomic at its home (R356); crew 0 has no entry. -/
def editCrew (s : State) (p crew w : Nat) (op : EditOp) (live : Bool) : State :=
  if crew = 0 then s else s.editTable ⟨s.crewMA p crew + 8 * w, op, if live then some (p, crew) else none⟩

/-- LIVE of a crew is lowered. -/
def lowerLive (s : State) (p crew n : Nat) : State := s.editCrew p crew 1 (.lower 32 32 n) true

/-- Held user causes that are discarded are counted in LOSTCAUSE (R368). -/
def loseCauses (s : State) (p crew n : Nat) : State :=
  if n = 0 then s else s.editCrew p crew 1 (.raise 16 16 n) false

/-- Sticky FP flags accrued to a crew (R368). -/
def crewFlags (s : State) (p crew : Nat) (fl : BitVec 7) : State :=
  if fl = 0 then s else s.editCrew p crew 0 (.bits (fl.zeroExtend 64)) false

/-- The crew's entry can be read now: its page is in tier 0, or has never been written, and no change of it waits (R17). -/
def crewHere (s : State) (p crew : Nat) : Bool :=
  let page := pageOf (s.crewMA p crew)
  (regionOf (s.crewMA p crew) != .tiered || s.present page) && !s.editing page

/-! ## Queues (R358, R359) -/

/-- A queue's entry. -/
def queue (s : State) (cl q : Nat) : Vector W64 8 :=
  (Table.look (s.cluster cl).queues q).getD (Vector.replicate 8 0)

/-- V of a queue. -/
def queueV (s : State) (cl q : Nat) : Bool := bit (s.queue cl q)[0] 63
/-- GEN of a queue. -/
def queueGen (s : State) (cl q : Nat) : Nat := field (s.queue cl q)[0] 16 16
/-- NS of a queue. -/
def queueNs (s : State) (cl q : Nat) : Bool := bit (s.queue cl q)[0] 62
/-- PART of a queue, as a partition of the cluster's module. -/
def queuePart (s : State) (cl q : Nat) : Nat :=
  chipOfCluster cl * 64 + field (s.queue cl q)[0] 32 8
/-- CTX of a queue. -/
def queueCtx (s : State) (cl q : Nat) : BitVec 12 := BitVec.ofNat 12 (field (s.queue cl q)[0] 44 12)

/-- Records a queue's overflow ring holds; 0 without a ring (R358). -/
def ringRoom (s : State) (cl q : Nat) : Nat :=
  let l := field (s.queue cl q)[5] 0 5
  if 6 ≤ l && l ≤ 20 then 2 ^ l else 0

end State

/-- The place of a record in its queue's overflow ring, if it lies there (R359). -/
def Rec.place (r : Rec) : Option Nat :=
  match r.state with
  | .overflow n => some n
  | _ => none

/-- The record occupies an entry of the store (R359). -/
def Rec.inStore (r : Rec) : Bool := r.place.isNone

/-- The 64 bytes of a record (R352). -/
def recordBytes (w : Vector W64 8) : List Byte := w.toList.flatMap fun x => toBytes 8 x.toNat

namespace State

/-- Entries in use in a cluster's store. -/
def storeUsed (s : State) (cl : Nat) : Nat := ((s.cluster cl).store.filter Rec.inStore).length

/-- Records of a queue in its overflow ring. -/
def overflowed (s : State) (cl q : Nat) : Nat :=
  ((s.cluster cl).store.filter fun r => r.queue == q && r.place.isSome).length

/-- The MA of a place in a queue's overflow ring (R358). -/
def overflowAt (s : State) (cl q n : Nat) : Nat := field (s.queue cl q)[4] 12 44 * 2 ^ 12 + 64 * n

/-- The lowest free place in a queue's overflow ring.
DESIGN CHOICE, log entry 95. -/
def freePlace (s : State) (cl q : Nat) : Option Nat :=
  (List.range (min (s.overflowed cl q + 1) (s.ringRoom cl q))).find? fun n =>
    !(s.cluster cl).store.any fun r => r.queue == q && r.place == some n

/-- A record added to a cluster's store list, as the newest. -/
def addRec (s : State) (cl : Nat) (r : Rec) : State :=
  let c := s.cluster cl
  s.setCluster cl { c with store := c.store ++ [r] }

/-- The records of a cluster changed. -/
def mapStore (s : State) (cl : Nat) (f : Rec → Rec) : State :=
  let c := s.cluster cl
  s.setCluster cl { c with store := c.store.map f }

/-- A word of a record that a cluster's store holds, or its queue's overflow ring, is changed: in the ring's memory too
when the record lies there (R359). -/
def editRec (s : State) (cl uid : Nat) (w : Fin 8) (op : EditOp) : State :=
  let t := s.mapStore cl fun r => if r.uid == uid then { r with words := r.words.set w (op.apply r.words[w]) } else r
  match ((s.cluster cl).store.find? fun r => r.uid == uid) with
  | some r => match r.place with
    | some n => t.editTable ⟨s.overflowAt cl r.queue n + 8 * w.val, op, none⟩
    | none => t
  | none => t

/-- A record removed from a cluster's store. -/
def dropRec (s : State) (cl uid : Nat) : State :=
  let c := s.cluster cl
  s.setCluster cl { c with store := c.store.filter fun r => r.uid != uid }

/-- QSTAT.BADREC raised (R361). -/
def badrec (s : State) (cl : Nat) : State :=
  let c := s.cluster cl
  s.setCluster cl { c with badrec := BitVec.ofNat 16 (satAdd 0xFFFF c.badrec.toNat 1) }

/-- QSTAT.DROP raised by a number (R361). -/
def dropped (s : State) (cl n : Nat) : State :=
  let c := s.cluster cl
  s.setCluster cl { c with drop := BitVec.ofNat 16 (satAdd 0xFFFF c.drop.toNat n) }

end State

/-- The oldest of some records. -/
def oldest : List Rec → Option Rec
  | [] => none
  | r :: rest =>
    match oldest rest with
    | none => some r
    | some b => if b.age < r.age then some b else some r

/-- What becomes of a record that arrives at a queue (R358, R359); it waits for a page of the overflow ring that lies
outside tier 0 (R17). -/
inductive Arrival where
  | taken (s : State)
  | stale
  | noSpace
  | wait (s : State)

namespace State

/-- A record placed in the store: a WAKE releases the oldest parked record of its key or is held as a
pending wake; any other record becomes ready (R367). -/
def placeRec (s : State) (cl : Nat) (r : Rec) : State :=
  if recState r.words = 1 then
    match oldest ((s.cluster cl).store.filter fun p =>
        p.queue == r.queue && p.state == .parked && recKey p.words == recKey r.words) with
    | some p =>
      s.mapStore cl fun x => if x.uid == p.uid then
        { x with state := .ready, age := r.age
                 words := setCause ((x.words.set 6 r.words[6]).set 7 r.words[7]) 4 } else x
    | none => s.addRec cl { r with state := .wake }
  else s.addRec cl { r with state := .ready }

/-- A record appended to its queue's overflow ring: its 64 bytes are written to the ring's memory (R359). -/
def putOverflow (s : State) (cl : Nat) (r : Rec) : Arrival :=
  match s.freePlace cl r.queue with
  | none => .noSpace
  | some n =>
    let ma := s.overflowAt cl r.queue n
    if s.editing (pageOf ma) then .wait s
    else match s.readyTable ma with
    | .wait t => .wait t
    | .noFrame => .noSpace
    | .now t => .taken ((t.writeMem ma (clean (recordBytes r.words))).addRec cl { r with state := .overflow n })

/-- A record arrives at a queue (R359). -/
def arrive (s : State) (cl q : Nat) (words : Vector W64 8) (launch : Option Nat) : Arrival :=
  if !s.queueV cl q then .stale
  else
    let uid := s.fresh
    let s := { s with fresh := s.fresh + 1 }
    let r : Rec := ⟨uid, setCause words 0, q, s.queueGen cl q, .ready, uid, [], launch⟩
    if s.overflowed cl q != 0 || 4096 ≤ s.storeUsed cl || s.isOut (s.queuePart cl q) then
      s.putOverflow cl r
    else .taken (s.placeRec cl r)

/-- A record without a command to report to arrives: a bad one is counted in BADREC, a stale or refused
one in DROP (R355, R358, R359). -/
def arriveQuiet (s : State) (cl q : Nat) (words : Vector W64 8) (bad : Bool) : State :=
  if bad || !s.validRecord (chipOfCluster cl) words then s.badrec cl
  else
    match s.arrive cl q words none with
    | .taken s' => s'
    | .stale => s.dropped cl 1
    | .noSpace => s.dropped cl 1
    | .wait t => { t with fresh := t.fresh + 1, recs := t.recs ++ [⟨t.fresh, cl, q, words, bad⟩] }

end State

/-! ## Posts and causes -/

/-- A counting flag and its status after a post (R111): the count saturates, and a status other than OK
is kept only when the field holds OK. -/
def Arch.post (r : Arch) (f : BitVec 4) (n : Nat) (st : BitVec 4) : Arch :=
  let i : Fin 16 := f.toFin
  { r with
    cf := r.cf.set i (BitVec.ofNat 16 (satAdd 0xFFFF r.cf[i].toNat n))
    cfstat := if field r.cfstat (4 * i.val) 4 = 0 then setField r.cfstat (4 * i.val) 4 st.toNat
      else r.cfstat }

/-- CFSTAT's field of a flag. -/
def Arch.flagStatus (r : Arch) (f : BitVec 4) : Nat := field r.cfstat (4 * f.toNat) 4

/-- The cause codes of R396. -/
def cTrapInstr : Nat := 0x01
/-- R396. -/
def cWaitLimit : Nat := 0x02
/-- R396. -/
def cBudget : Nat := 0x03
/-- R396. -/
def cStateAbsent : Nat := 0x04
/-- R396. -/
def cDoubleResolve : Nat := 0x05
/-- R396. -/
def cAllocExhausted : Nat := 0x06
/-- R396. -/
def cBarrierMisuse : Nat := 0x07
/-- R396. -/
def cJtRange : Nat := 0x08
/-- R396. -/
def cMisaligned : Nat := 0x09
/-- R396. -/
def cDataArrival : Nat := 0x0A
/-- R396. -/
def cIllegalHeader : Nat := 0x20
/-- R396. -/
def cIllegalSlot : Nat := 0x21
/-- R396. -/
def cFetchRange : Nat := 0x22
/-- R396. -/
def cPrivilege : Nat := 0x23
/-- R396. -/
def cXlate : Nat := 0x24
/-- R396. -/
def cWorld : Nat := 0x25
/-- R396. -/
def cPoison : Nat := 0x26
/-- R396. -/
def cRingPool : Nat := 0x27
/-- R396. -/
def cHandleInvalid : Nat := 0x28
/-- R396. -/
def cTransferError : Nat := 0x29
/-- R396. -/
def cTierUnavailable : Nat := 0x2A
/-- R396. -/
def cNested : Nat := 0x2B

/-- A user cause enters the block's user handler (R396). -/
def Cause.user (c : Cause) : Bool := decide (c.code.toNat < 0x20)

namespace State

/-- A kernel cause made pending on a core of a partition; a seventeenth is discarded and counted in
PSTAT.LOSTK (R400). -/
def pendKernel (s : State) (p k : Nat) (c : Cause) : State :=
  let co := s.coreOf p k
  if co.pendK.length < 16 then s.setCoreOf p k { co with pendK := co.pendK ++ [c] }
  else s.setPart p { s.part p with lostK := BitVec.ofNat 16 (satAdd 0xFFFF (s.part p).lostK.toNat 1) }

/-- A user cause made pending on a core of a partition; a seventeenth is discarded and counted in
PSTAT.LOSTU (R400). -/
def pendUser (s : State) (p k : Nat) (c : Cause) : State :=
  let co := s.coreOf p k
  if co.pendU.length < 16 then s.setCoreOf p k { co with pendU := co.pendU ++ [c] }
  else s.setPart p { s.part p with lostU := BitVec.ofNat 16 (satAdd 0xFFFF (s.part p).lostU.toNat 1) }

/-- The core, of this partition or of its image, that runs a record. -/
def runs (s : State) (p uid : Nat) : Option Nat :=
  ((if s.isOut p then (s.part p).image else s.cores).find? fun c =>
    match c.2.blk with
    | some b => b.rcd.uid == uid
    | none => false).map (·.1)

/-- The cluster whose store holds a record. -/
def storedAt (s : State) (uid : Nat) : Option Nat :=
  (s.clusters.find? fun c => c.2.store.any fun r => r.uid == uid).map (·.1)

/-- A user cause of a command: pending on the issuing core while its record runs there; else held with
the record, at most 8, or counted in LOSTCAUSE (R229, R368). -/
def userCause (s : State) (o : Owner) (k : Nat) (c : Cause) : State :=
  match s.runs o.part o.uid with
  | some k' =>
    if k' = k then s.pendUser o.part k c
    else
      let co := s.coreOf o.part k'
      match co.blk with
      | some b =>
        if b.rcd.held.length < 8 then
          s.setCoreOf o.part k' { co with blk := some { b with
            rcd := { b.rcd with held := b.rcd.held ++ [c] }, ahead := b.ahead ++ [co.pendU.length] } }
        else s.loseCauses o.part o.crew.toNat 1
      | none => s
  | none =>
    match s.storedAt o.uid with
    | some cl =>
      if ((s.cluster cl).store.any fun r => r.uid == o.uid && r.held.length < 8) then
        (s.mapStore cl fun r => if r.uid == o.uid then { r with held := r.held ++ [c] } else r).editRec cl o.uid 2 (.bits 2)
      else s.loseCauses o.part o.crew.toNat 1
    | none => s.loseCauses o.part o.crew.toNat 1

/-- Flags of an accepted command accrue at completion: to the FSTAT of the core that runs its record, to
the FPFLAGS of a record that is ready or in a waiter chain, else to its crew's entry (R368). -/
def accrue (s : State) (o : Owner) (fl : BitVec 7) : State :=
  if fl = 0 then s
  else
    match s.runs o.part o.uid with
    | some k =>
      let c := s.coreOf o.part k
      s.setCoreOf o.part k { c with r := { c.r with fstat := c.r.fstat ||| fl.zeroExtend 64 } }
    | none =>
      match s.storedAt o.uid with
      | some cl =>
        if ((s.cluster cl).store.any fun r => r.uid == o.uid && r.state != .parked) then
          s.editRec cl o.uid 3 (.bits (fl.zeroExtend 64))
        else s.crewFlags o.part o.crew.toNat fl
      | none => s.crewFlags o.part o.crew.toNat fl

/-! ## Words at a bank -/

/-- A post sent to a flag of a core (R83, R259): it releases, at a scope, what precedes an access order number of the
sending core (R338), and it is applied when it arrives.
DEDUCED, log entry 40. -/
def sendPost (s : State) (p src dst : Nat) (f : BitVec 4) (n : Nat) (st : BitVec 4) (ord scope : Nat) : State :=
  { s with
    fresh := s.fresh + 1
    posts := s.posts ++ [⟨s.fresh, dst, p, f, BitVec.ofNat 16 (min 0xFFFF n), st, src, ord, scope⟩] }

/-- A decrement of a join word sent to its bank (R261): it releases what core `src` has sent before an order number. -/
def sendDecrement (s : State) (p : Nat) (join : W64) (cl : Nat) (ns : Bool) (src ord : Nat) : State :=
  { s with fresh := s.fresh + 1, decs := s.decs ++ [⟨s.fresh, p, join, cl, ns, src, ord⟩] }

/-- A scratchpad word of a core as accesses of a partition find it. -/
def bankWord (s : State) (p k w : Nat) : SpWord := (s.coreOf p k).r.word w

/-- That word replaced. -/
def setBankWord (s : State) (p k w : Nat) (x : SpWord) : State :=
  let c := s.coreOf p k
  s.setCoreOf p k { c with r := c.r.setWord w x }

/-- A future resolved at its bank, in one step (R261, R230): a future that is EMPTY or ARMED receives
the value and the state, and an ARMED one decrements its join word; none when it is already resolved. What core `src`
has sent before an order number comes before what the join word causes. -/
def resolve (s : State) (p k off : Nat) (state : Nat) (v : W64) (src ord : Nat) : Option State :=
  let ns := (s.cluster (clusterOf k)).ns
  let w0 := s.bankWord p k (off / 8)
  let old := field w0.data 62 2
  if 2 ≤ old then none
  else
    let s := s.setBankWord p k (off / 8) { w0 with data := setField w0.data 62 2 state }
    let s := s.setBankWord p k (off / 8 + 1) { s.bankWord p k (off / 8 + 1) with data := v, poison := false }
    some (if old = 1 then s.sendDecrement p (BitVec.ofNat 64 (field w0.data 0 57)) (clusterOf k) ns src ord else s)

/-- The result code of `fjoin` and the future after it (R262). -/
def register (s : State) (p k off : Nat) (join : W64) (src ord : Nat) : Nat × State :=
  let ns := (s.cluster (clusterOf k)).ns
  let w0 := s.bankWord p k (off / 8)
  match field w0.data 62 2 with
  | 0 => (0, s.setBankWord p k (off / 8)
      { w0 with data := BitVec.ofNat 64 (2 ^ 62 + join.toNat % 2 ^ 57) })
  | 1 => (2, s)
  | _ => (1, s.sendDecrement p join (clusterOf k) ns src ord)

/-! ## Barriers (R112, R257) -/

/-- The participants' waits at a barrier. -/
def barrierWaits (s : State) (k : Nat) (b : Nat) : List Acc :=
  s.accs.filter fun a => a.phase == .parked && a.target == .spad k b && (a.kind == .await || a.kind == .sync)

/-- One arrival at a barrier: none for MISUSE, else the phase it returns (R257). A phase that ends
releases every waiter of that core or image (R112, R409), and the grant restarts the waiter's timer (R82). -/
def arriveAt (s : State) (p k : Nat) (b : Fin 32) (n : BitVec 16) : Option (Bool × State) :=
  let c := s.coreOf p k
  let x := c.r.bar[b]
  if n = 0 || (x.expect != 0 && n != x.expect) then none
  else
    let x : Barrier := { x with expect := n, arrived := x.arrived + 1 }
    if x.arrived = x.expect then
      let s := s.setCoreOf p k { c with r := { c.r with bar := c.r.bar.set b ⟨!x.phase, 0, 0, 0⟩ } }
      some (x.phase, { s with accs := s.accs.map fun a =>
        if a.phase == .parked && a.target == .spad k b.val && (a.kind == .await || a.kind == .sync)
          && (s.imageOf a.part k == s.imageOf p k)
        then { a with phase := .done 0 false 0, since := s.now } else a })
    else some (x.phase, s.setCoreOf p k { c with r := { c.r with bar := c.r.bar.set b x } })

end State

end Sys2Proof.Machine
end

