-- ==== Sys2Proof/Machine/Ops.lean ====
section
/-! DEFINITION. The operations every meaning is built from: what stops a slot word, taking an exception
and returning from one (R396 to R403), leaving a core (R267, R367, R375), the guard (R179), and sending an
access whose answer is awaited (R81, R440). -/
namespace Sys2Proof.Machine

/-! ## Slot words and what stops them -/

/-- A slot word of the group in hand: its slot and its 32 bits (R179). -/
structure Site where
  slot : Slot
  word : BitVec 32
  deriving DecidableEq, Repr

/-- The number of a slot in TRAPINFO.SLOT (R397). -/
def slotNumber : Slot → BitVec 3
  | .C => 0 | .A => 1 | .B => 2 | .V => 3 | .M => 4 | .F => 5 | .X => 6 | .G => 7

/-- Why a slot word with a true guard does not take effect now. -/
inductive Stop where
  /-- it raises a synchronous cause, found at a stage -/
  | trap (stage : Stage) (c : Cause)
  /-- it holds its group; `counts` when the wait counts toward WAITLIM (R98) -/
  | stall (counts : Bool)
  /-- a narrow `mma` that meets a full-path command waits until the matrix engine is idle (R296) -/
  | engine
  /-- the translation of a granule is awaited (R61) -/
  | miss (granule : Nat)
  /-- a page outside tier 0 is awaited (R42) -/
  | absent (page : Nat) (attr : BitVec 16)
  /-- the access is sent and its answer awaited (R440) -/
  | send (slot : Slot) (a : Acc)
  /-- the block's speculation tag has failed at a leaving group: the block is discarded (R377) -/
  | discard
  /-- the block is squashed and its group is one of those that R375 names: the block is cancelled -/
  | cancel
  /-- the block waits in an object's waiter chain (R129) -/
  | orderWait (object : Nat)
  deriving DecidableEq, Repr

/-- An access waits at its target for a word or a barrier: the cycles of its group count toward WAITLIM (R98, R258). -/
def Acc.waits (a : Acc) : Bool :=
  match a.kind with
  | .fullEmpty _ => true
  | .await => true
  | .sync => true
  | _ => false

/-- What a slot word comes to. -/
abbrev Eff (α : Type) := Except Stop α

/-- A synchronous cause of the group in hand (R396, R397). -/
def causeAt (s : State) (w : Site) (code info : Nat) (operand : W64) : Cause :=
  ⟨BitVec.ofNat 6 code, false, slotNumber w.slot, s.me.grp.second, BitVec.ofNat 7 (opcodeOf w.word), 0, 0,
   BitVec.ofNat 8 info, operand⟩

/-- The slot word raises a cause that execution detects before any access is sent. -/
def raise {α : Type} (s : State) (w : Site) (code info : Nat) (operand : W64) : Eff α :=
  .error (.trap .check (causeAt s w code info operand))

/-- The slot word raises PRIVILEGE (R190, R268). -/
def raisePrivilege {α : Type} (s : State) (w : Site) : Eff α :=
  .error (.trap .privilege (causeAt s w cPrivilege 0 (w.word.zeroExtend 64)))

/-- The slot word raises ILLEGAL_SLOT for a condition found at issue (R438). -/
def raiseIllegal {α : Type} (s : State) (w : Site) : Eff α :=
  raise s w cIllegalSlot 0 (w.word.zeroExtend 64)

/-- POISON, with the source code or register number of the poisoned operand (R404). -/
def raisePoison {α : Type} (s : State) (w : Site) (n : Nat) : Eff α := raise s w cPoison n 0

/-- The cause that the answer of the group's own access raises (R440). -/
def raiseAnswer {α : Type} (s : State) (w : Site) (code info : Nat) (operand : W64) : Eff α :=
  .error (.trap .answer (causeAt s w code info operand))

/-- The group is held. -/
def hold {α : Type} : Eff α := .error (.stall false)

/-- The group is held unless a condition is met. -/
def ready (ok : Bool) : Eff Unit := if ok then .ok () else hold

/-! ## Handlers (R397 to R403) -/

/-- TRAPINFO for a cause (R397). -/
def trapInfo (c : Cause) : W64 :=
  BitVec.ofNat 64 (c.code.toNat * 2 ^ 58 + ofBool c.async * 2 ^ 57 + c.slot.toNat * 2 ^ 54
    + ofBool c.bundle * 2 ^ 53 + c.opcode.toNat * 2 ^ 46 + c.status.toNat * 2 ^ 42
    + c.staging.toNat * 2 ^ 39 + c.info.toNat * 2 ^ 31)

/-- The latches zeroed (R110). -/
def Arch.zeroLatches (r : Arch) : Arch := { r with l := Vector.replicate 8 Cell64.zero }

/-- `s40` to `s47` of a register file. -/
def Arch.high (r : Arch) : Vector Cell64 8 :=
  #v[r.s[40], r.s[41], r.s[42], r.s[43], r.s[44], r.s[45], r.s[46], r.s[47]]

/-- The register file with `s40` to `s47` and `p8` to `p10` replaced by a bank's. -/
def Arch.loadBank (r : Arch) (b : Bank) : Arch :=
  { r with
    s := ((((((((r.s.set 40 b.s[0]).set 41 b.s[1]).set 42 b.s[2]).set 43 b.s[3]).set 44 b.s[4]).set 45
      b.s[5]).set 46 b.s[6]).set 47 b.s[7])
    p := BitVec.ofNat 16 (r.p.toNat - bitsOf r.p.toNat 8 3 * 2 ^ 8 + b.p.toNat * 2 ^ 8) }

/-- The bank that `s40` to `s47` and `p8` to `p10` fill. -/
def Arch.bank (r : Arch) : Bank := ⟨r.high, BitVec.ofNat 3 (bitsOf r.p.toNat 8 3)⟩

/-- A scalar register with a clean value. -/
def known (v : W64) : Cell64 := ⟨v, false, none⟩

/-- Every pending partial sum is discarded and counted in PSLOST.LOST (R299, R300). -/
def Core.dropSums (c : Core) : Core :=
  let n := c.psums.length + (if c.port.isSome then 1 else 0)
  if n = 0 then c
  else
    { c with
      psums := []
      port := none
      r := { c.r with pslost := setField c.r.pslost 0 32 (satAdd 0xFFFFFFFF (field c.r.pslost 0 32) n) } }

/-- The core's wait on the access it sent from this slot of this group, if it has sent one (R440).
DEDUCED, log entry 46. -/
def Core.awaiting (c : Core) (slot : Slot) : Option Await :=
  c.awaits.find? fun a => a.slot == slot && a.pc == c.pc && a.kernel == c.kernel && a.handler == c.handler

/-- The access of the group in hand has been sent, and its answer is awaited or has come. -/
def Core.asked (c : Core) : Option Await :=
  c.awaits.find? fun a => a.pc == c.pc && a.kernel == c.kernel && a.handler == c.handler

/-- The access of the group in hand has performed: the group issues with every slot taking effect (R440). -/
def Core.performed (c : Core) : Bool :=
  match c.asked with
  | some a => (match a.answer with | some x => !x.2.2 | none => false)
  | none => false

/-- The answers of the group in hand are used up (R440). -/
def Core.dropAwaits (c : Core) : Core :=
  { c with awaits := c.awaits.filter fun a =>
      !(a.pc == c.pc && a.kernel == c.kernel && a.handler == c.handler) }

/-- The waits of the group in hand are over. -/
def Core.endWait (c : Core) : Core :=
  { c with waited := 0, limit := false, idleWait := false, walkFault := none, pageFault := none }

/-- A handler's entry counts as writing every predicate other than `p0` at the position before the next group
(R194). -/
def Core.touchPredicates (c : Core) : Core := { c with wrote := Vector.replicate 16 c.fetch }

/-- Entry into the user handler (R398): the banks are exchanged, TRAPINFO, `s46` and `s47` are written,
the latches are zeroed and the PC is UIVEC.HANDLER * 4. -/
def Core.enterUser (c : Core) (x : Cause) (retry skip : W64) : Core :=
  let c := c.dropSums.touchPredicates
  let r := c.r.loadBank c.bankU
  { c with
    bankU := c.r.bank
    r := { r with s := (r.s.set 46 (known x.operand)).set 47 (known retry) }.zeroLatches
    trapU := trapInfo x
    retryU := retry
    skipU := skip
    handler := true
    pc := BitVec.ofNat 64 (field c.r.uivec 2 55 * 4) }

/-- Entry into the system handler (R401): as the user handler's, with the kernel bank and the kernel copy
of TRAPINFO, at kernel privilege, at KVEC.HANDLER * 4. -/
def Core.enterKernel (c : Core) (kvec : W64) (x : Cause) (retry : W64) : Core :=
  let c := c.dropSums.touchPredicates
  let r := c.r.loadBank c.bankK
  { c with
    bankK := c.r.bank
    r := { r with s := (r.s.set 46 (known x.operand)).set 47 (known retry) }.zeroLatches
    trapK := trapInfo x
    kernel := true
    pc := BitVec.ofNat 64 (field kvec 2 55 * 4) }

/-- The return from the user handler (R399): the banks are exchanged back, the latches zeroed, the mark
cleared and the PC set; its group counts as writing every predicate other than `p0` (R194). -/
def Core.returnUser (c : Core) (pc : W64) : Core :=
  { c with
    r := (c.r.loadBank c.bankU).zeroLatches
    bankU := c.r.bank
    handler := false
    wrote := Vector.replicate 16 (c.fetch + 1)
    pc := pc }

/-- What ends the system handler (R402): the kernel bank is exchanged back, the latches are zeroed and the
core returns to user privilege. -/
def Core.returnKernel (c : Core) : Core :=
  { c with
    r := (c.r.loadBank c.bankK).zeroLatches
    bankK := c.r.bank
    kernel := false }

/-! ## Rings (R85, R86) -/

namespace Ring

/-- MODE. -/
def mode (r : Ring) : Nat := field r.desc[1] 40 2
/-- NSLOT. -/
def nslot (r : Ring) : Nat := field r.desc[1] 32 8
/-- 8-byte words of a slot. -/
def words (r : Ring) : Nat := field r.desc[1] 20 12 * 8
/-- Bytes of a slot. -/
def slotBytes (r : Ring) : Nat := r.words * 8
/-- The words of home slot i, by their index in the scratchpad. -/
def slotWords (r : Ring) (i : Nat) : List Nat :=
  (List.range r.words).map (field r.desc[1] 0 20 / 8 + i % r.nslot * r.words + ·)
/-- Slots still to move: all of those a ring can hold when COUNT is 0. -/
def left (r : Ring) : Nat := if r.desc[2] = 0 then 256 else r.desc[2].toNat - r.next
/-- The VA of slot i in memory. -/
def slotVA (r : Ring) (i : Nat) : Nat :=
  let stride := field r.desc[3] 32 32
  field r.desc[0] 0 57 + i * (if stride = 0 then r.slotBytes else stride)

/-- The flights of a ring that some test selects go back, from the first on behind which no slot has begun to be written:
the slots are moved anew, if they are. -/
def withdraw (r : Ring) (sel : Flight → Bool) : Ring :=
  let back := (r.flights.reverse.takeWhile fun f => sel f).reverse
  match back with
  | [] => r
  | f :: _ => { r with next := f.slot, flights := r.flights.take (r.flights.length - back.length) }

end Ring

/-- A word of a slot in flight has been written (R218). -/
def Flight.begun (f : Flight) : Bool := f.words.any fun w => w.2 == .written

namespace State

/-- The management controller is interrupted.
DESIGN CHOICE, log entry 135. -/
def interrupt (s : State) (ch : Nat) : State :=
  s.setChip ch { s.chip ch with interrupts := (s.chip ch).interrupts + 1 }

/-- A synchronous cause at kernel privilege stops the core (R403). -/
def stopCore (s : State) (k : Nat) (x : Cause) : State :=
  let c := s.core k
  let p := s.partOf k
  let s := s.setCore k { c with trapK := trapInfo x, stopped := true }
  let s := s.setPart p { s.part p with kfault := true }
  s.interrupt (chipOf k)

/-! ## Leaving a core -/

/-- The owner that a command accepted now on a core carries. -/
def ownerOf (s : State) (k : Nat) : Owner :=
  let c := s.core k
  match c.blk with
  | some b =>
    let dims := match s.launches.find? fun l => some l.id == b.rcd.launch with
      | some l => l.dims
      | none => (0, 0, 0)
    let w := b.rcd.words
    ⟨b.rcd.uid, BitVec.ofNat 24 (recCrew w), b.rcd.launch,
      BitVec.ofNat 64 (field w[1] 24 16 + dims.1 * (field w[1] 12 12 + dims.2.1 * field w[1] 4 8)),
      b.part, b.ctx, b.ns, c.kernel⟩
  | none => ⟨0, 0, none, 0, s.partOf k, 0, s.worldOf k, c.kernel⟩

/-- A command of the record has still to complete. -/
def hasCommands (s : State) (uid : Nat) : Bool :=
  let busy := fun (c : Core) => c.xq.any (fun x => x.own.uid == uid) || c.fq.any (fun x => x.own.uid == uid)
    || c.mq.any (fun x => x.own.uid == uid)
  s.cores.any (fun c => busy c.2) || s.parts.any fun p => p.2.image.any fun c => busy c.2

/-- The MODE 3 ring that feeds a MODE 1 ring (R87). -/
def feeder (s : State) (n : Nat) : Option (Nat × Ring) := s.rings.find? fun r => r.2.peer == some n

/-- The slots that are landing in an IN ring, each with whether its place is in the extension: those in flight of its own
and those that the puller of its peer has given a place and not wholly written. -/
def landings (s : State) (n : Nat) : List (Nat × Bool) :=
  (match s.ring? n with
    | some r => if r.mode < 2 then r.flights.map fun f => (f.slot, f.toExt) else []
    | none => [])
  ++ match s.feeder n with
    | some o => o.2.flights.filterMap fun f =>
        if f.words.any fun w => w.2 != .written then f.dest.map (·, f.toExt) else none
    | none => []

/-- A ring leaves its cluster's rings: the OUT ring that it was fed by holds its next slot and has no peer any
more, and goes too when it was draining (R217, R218). -/
def removeRing (s : State) (k : Nat) : State :=
  let s := s.dropRing k
  { s with rings := (s.rings.map fun (r : Nat × Ring) =>
        if r.2.peer == some k then (r.1, { r.2.withdraw (fun f => f.dest.isNone) with
          peer := none, closing := r.2.closing.map fun _ => [] }) else r).filter fun (r : Nat × Ring) =>
      !(r.2.peer.isNone && r.2.mode == 3 && r.2.closing.isSome && r.2.flights.isEmpty) }

/-- Every word of home slot i is full. -/
def slotFull (s : State) (r : Ring) (i : Nat) : Bool :=
  (r.slotWords i).all fun w => ((s.coreOf r.part r.core).r.word w).full

/-- Every word of home slot i is empty. -/
def slotEmpty (s : State) (r : Ring) (i : Nat) : Bool :=
  (r.slotWords i).all fun w => !((s.coreOf r.part r.core).r.word w).full

/-- A released ring is gone once none of its words will be written again by its feeder or puller (R217). -/
def endRing (s : State) (k : Nat) : State :=
  match s.ring? k with
  | none => s
  | some r =>
    if r.closing == some [] && r.flights.isEmpty && (s.landings k).isEmpty then s.removeRing k else s

/-- The home slots of an OUT ring, by slot number, that are wholly full and not in flight. -/
def fullSlots (s : State) (r : Ring) : List Nat :=
  ((List.range (min r.nslot r.left)).map (· + r.next)).filter fun i =>
    s.slotFull r i && r.flights.all fun f => f.slot % r.nslot != i % r.nslot

/-- A ring is released (R217 to R219): an IN ring takes no more slots, those of which a word has landed finish, and the
others and those held in its extension, or on their way there, are discarded; a slot of its peer that has reached the
extension whole has been taken from the peer; an OUT ring's puller still drains every home slot that is wholly full now, but for
one that has no peer to drain into. -/
def releaseRing (s : State) (k : Nat) : State :=
  match s.ring? k with
  | none => s
  | some r =>
    if r.closing.isSome then s
    else if r.mode < 2 then
      let s := s.setRing k { r with
        flights := r.flights.filter fun f => f.begun && !f.toExt, closing := some [], ext := [], extCap := 0 }
      (match s.feeder k with
        | some o => s.setRing o.1 (o.2.withdraw fun f => !f.begun)
        | none => s).endRing k
    else (s.setRing k { r with closing := some (if r.mode == 3 && r.peer.isNone then [] else s.fullSlots r) }).endRing k

/-- The rings that some test selects are released. -/
def releaseRings (s : State) (sel : Ring → Bool) : State :=
  (s.rings.filter fun r => sel r.2).foldl (fun s r => s.releaseRing r.1) s

/-- A block has retired or been cancelled: a ring it registered without a crew is released (R219). -/
def endOfBlock (s : State) (o : Owner) : State :=
  if o.crew = 0 then s.releaseRings fun r => r.uid == o.uid && r.crew == 0 else s

/-- LIVE falls for each cancelled block whose commands have all completed (R375). -/
def settle (s : State) : State :=
  let due := s.dying.filter fun o => !s.hasCommands o.uid
  due.foldl (fun s o => s.lowerLive o.part o.crew.toNat 1)
    { s with dying := s.dying.filter fun o => s.hasCommands o.uid }

end State

/-- A core whose block has left it: idle at user privilege, its pending sums discarded and its latches
zeroed (R110, R299, R402). -/
def Core.vacate (c : Core) : Core :=
  let c := if c.kernel then c.returnKernel else c
  { c.dropSums.endWait with
    r := c.dropSums.r.zeroLatches
    blk := none
    kernel := false
    handler := false
    pendU := []
    awaits := []
    budgetDue := false
    grp := { c.grp with status := .left } }

namespace State

/-- A block is cancelled (R375): the core is idle, its record and held causes are discarded, and LIVE of
its crew falls once its commands have completed. -/
def cancel (s : State) (k : Nat) : State :=
  let c := s.core k
  match c.blk with
  | none => s
  | some b =>
    let o := s.ownerOf k
    let s := s.setCore k c.vacate
    let s := s.loseCauses b.part (recCrew b.rcd.words) (c.pendU.length + b.rcd.held.length)
    ({ s with dying := s.dying ++ [o] }.endOfBlock o).settle

/-- A block retires (R267, R367): LIVE of its crew falls by one; user causes still held are lost (R368). -/
def retire (s : State) (k : Nat) : State :=
  let c := s.core k
  match c.blk with
  | none => s
  | some b =>
    let o := s.ownerOf k
    let s := s.setCore k c.vacate
    let s := s.loseCauses b.part (recCrew b.rcd.words) (c.pendU.length + b.rcd.held.length)
    (s.lowerLive b.part (recCrew b.rcd.words) 1).endOfBlock o

/-- The record that a block writes when it leaves (R267, R129, R365): PC, `s1`, `s2`, the chunk sequence,
the flags and the remaining budget. -/
def leavingWords (c : Core) (w : Vector W64 8) (pc : W64) (why : Nat) : Vector W64 8 :=
  let w := w.set 0 (BitVec.ofNat 64 (field pc 2 62 * 4))
  let w := (setCause w why).set 3 (BitVec.ofNat 64
    (c.r.budget.toNat * 2 ^ 32 + c.r.seq.toNat * 2 ^ 16 + field c.r.fstat 0 7))
  (w.set 6 c.r.s[1].val).set 7 c.r.s[2].val

/-- The causes of a block in the order of their completion (R364, R402): those pending on its core, and those held with its
record since, each behind as many of the others as `ahead` says. -/
def causesOf (b : Block) (pend : List Cause) : List Cause :=
  let late := (b.ahead ++ List.replicate b.rcd.held.length 0).zip b.rcd.held
  (List.range (pend.length + 1)).flatMap fun i =>
    ((late.filter fun x => min x.1 pend.length == i).map (·.2)) ++ (pend.drop i).take 1

/-- A block leaves with its record kept in the cluster's store in a state (R367). The causes still held
go with the record, at most 8 (R368). A queue destroyed meanwhile takes it no more (R378). -/
def leaveWith (s : State) (k : Nat) (pc : W64) (why : Nat) (st : RecState) : State :=
  let c := s.core k
  match c.blk with
  | none => s
  | some b =>
    let cl := clusterOf k
    let held := (causesOf b c.pendU).take 8
    let lost := b.rcd.held.length + c.pendU.length - held.length
    let words := setHeld (leavingWords c b.rcd.words pc why) (held != [])
    let s := s.setCore k c.vacate
    let s := s.loseCauses b.part (recCrew words) lost
    if !s.queueV cl b.rcd.queue || s.queueGen cl b.rcd.queue != b.rcd.gen then
      ((s.dropped cl 1).loseCauses b.part (recCrew words) held.length).lowerLive b.part (recCrew words) 1
    else
      let r : Rec := { b.rcd with words := words, held := held, state := st, age := s.fresh }
      let t := { s with fresh := s.fresh + 1 }
      if st == .ready && s.overflowed cl r.queue != 0 then
        match t.putOverflow cl r with
        | .taken u => u
        | _ => t.addRec cl r
      else t.addRec cl r

/-! ## Taking a synchronous cause -/

/-- The fetch of a block's first group has found its context invalid (R49), if that is the cause. -/
def ctxFound (c : Core) (x : Cause) : Core :=
  if x.code.toNat = cFetchRange && x.info.toNat = kCtx then { c with blk := c.blk.map fun b => { b with badCtx := false } }
  else c

/-- The partition's system handler is entered for a cause found at a group. -/
def toSystem (s : State) (k : Nat) (x : Cause) : State :=
  let c := ctxFound (s.core k) x
  s.setCore k (c.dropAwaits.endWait.enterKernel (s.part (s.partOf k)).kvec x c.pc)

/-- A synchronous cause of the group of a core is taken (R14, R398, R401, R403): at kernel privilege the
core stops; a squashed block is cancelled (R375); a kernel cause, a user cause with UIVEC.EN = 0 and one
raised inside the user handler (NESTED) enter the system handler; any other enters the user handler. -/
def takeSync (s : State) (k : Nat) (stage : Stage) (x : Cause) : State :=
  let c := s.core k
  let mark := fun (s : State) =>
    s.setCore k { s.core k with grp := { (s.core k).grp with status := .trapped stage } }
  if c.kernel then mark (s.stopCore k x)
  else if (match c.blk with | some b => b.squashed | none => false) then mark (s.cancel k)
  else if !x.user then mark (s.toSystem k x)
  else if c.handler then
    mark (s.toSystem k { x with code := BitVec.ofNat 6 cNested, info := x.code.zeroExtend 8 })
  else if !bit c.r.uivec 0 then mark (s.toSystem k x)
  else mark (s.setCore k
    (c.dropAwaits.endWait.enterUser x c.pc (c.grp.target.getD c.grp.next)))

/-! ## Squashed blocks -/

/-- Retractable allocations tagged with a launch, from a block index on, are freed (R327, R376). -/
def freeTagged (s : State) (p l : Nat) (hit : W64 → Bool) : State :=
  s.setPart p { s.part p with allocs := (s.part p).allocs.filter fun a =>
    match a.tag with
    | some t => !(t.1 == l && hit t.2)
    | none => true }

/-- The retractable allocations of a squashed block are to be freed once its commands have completed (R376). -/
def retractLater (s : State) (o : Owner) : State :=
  match o.launch with
  | none => s
  | some l => { s with launches := s.launches.map fun x =>
      if x.id = l then { x with retract := x.retract ++ [o.index] } else x }

/-- A block whose tag fails leaves without effect: its record is discarded, LIVE of its crew is lowered as
for a retirement and its retractable allocations are to be freed (R377). -/
def discardBlock (s : State) (k : Nat) : State :=
  let o := s.ownerOf k
  let mark := fun (s : State) =>
    s.setCore k { s.core k with grp := { (s.core k).grp with status := .trapped .check } }
  mark ((s.retire k).retractLater o)

/-- The block of the core whose turn it is has been squashed (R375).
DEDUCED, log entry 125. -/
def squashedHere (s : State) : Bool := match s.me.blk with | some b => b.squashed | none => false

/-- A squashed block is cancelled at its group, which takes no effect (R375). -/
def cancelBlock (s : State) (k : Nat) : State :=
  let s := s.cancel k
  s.setCore k { s.core k with grp := { (s.core k).grp with status := .trapped .check } }

/-- ORDER_WAIT (R129): the group takes no effect, and the block is suspended at it with CAUSE 3, in the
object's waiter chain. -/
def waitInOrder (s : State) (k object : Nat) : State :=
  let s := s.leaveWith k (s.core k).pc 3 (.waiting object)
  s.setCore k { s.core k with grp := { (s.core k).grp with status := .trapped .check } }

/-! ## Outcomes that hold the group -/

/-- The status of the group in hand. -/
def setStatus (s : State) (p : Progress) : State :=
  s.setMe { s.me with grp := { s.me.grp with status := p } }

/-- The group is held; a wait under WAITLIM counts its cycle (R98). -/
def held (s : State) (counts : Bool) : State :=
  s.setMe { s.me with waited := s.me.waited + (if counts then 1 else 0)
                      grp := { s.me.grp with status := .stalled } }

/-- A walk for a granule in a context, for one that misses it at a core: registered unless one is in flight (R61). -/
def seek (s : State) (k : Nat) (who : Seeker) (p : Nat) (ctx : BitVec 12) (granule : Nat) : State :=
  if s.walks.any fun w => w.core == k && w.who == who && w.granule == granule && w.ctx == ctx && w.part == p then s
  else { s with fresh := s.fresh + 1
                walks := s.walks ++ [(⟨s.fresh, clusterOf k, k, who, p, ctx, granule, none⟩ : Walk)] }

/-- A walk for a granule in the core's context. -/
def startWalk (s : State) (k granule : Nat) : State := s.seek k .group (s.partOf k) (s.core k).ctx granule

/-- A page that the group of a core waits for (R42). -/
def awaitPage (s : State) (k p : Nat) (attr : BitVec 16) : State :=
  let s := s.requestPage p attr none
  let g := s.page p
  s.setPage p { g with waiters := if g.waiters.contains k then g.waiters else g.waiters ++ [k] }

/-- The group's own access is sent and its answer awaited (R440); one that waits for a word or a barrier counts its cycles
from this attempt on (R98). -/
def sendAwaited (s : State) (slot : Slot) (a : Acc) : State :=
  let id := s.fresh
  let c := s.me
  { s with fresh := s.fresh + 1, accs := s.accs ++ [{ a with id := id }] }.setMe
    { c with waited := c.waited + ofBool a.waits
             awaits := c.awaits ++ [(⟨id, slot, c.pc, c.kernel, c.handler, [], none⟩ : Await)]
             grp := { c.grp with status := .sent } }

end State

/-- The outcomes of this machine. -/
abbrev Out := Host.Outcome State Fault Refusal

/-- What a slot word comes to as an outcome of the machine: its effect, the exception it takes, or the
group held. -/
def finish (s : State) : Eff State → Out
  | .ok t => .next t
  | .error (.trap st x) => .next (s.takeSync s.here st x)
  | .error (.stall counts) => .next (s.held counts)
  | .error .engine => .next ((s.setMe { s.me with idleWait := true }).held false)
  | .error (.miss g) => .next ((s.startWalk s.here g).setStatus .missing)
  | .error (.absent p attr) => .next ((s.awaitPage s.here p attr).setStatus .sent)
  | .error (.send slot a) => .next (s.sendAwaited slot a)
  | .error .discard => .next (s.discardBlock s.here)
  | .error .cancel => .next (s.cancelBlock s.here)
  | .error (.orderWait object) =>
    .next (if s.storeUsed (clusterOf s.here) < 4096 then s.waitInOrder s.here object else s.held false)

/-! ## Guards (R109, R179, R180) -/

/-- The registers that the operands of the group read: as they stood before its first write (R180). -/
def Core.view (c : Core) : Arch := c.pre.getD c.r

/-- A predicate as the group reads it: `p0` is true, and the path predicates are the bundle's (R109,
R185). -/
def Core.pred (c : Core) (n : BitVec 4) : Bool :=
  if 11 ≤ n.toNat then c.grp.path.getLsbD (n.toNat - 11) else n == 0 || c.view.p.getLsbD n.toNat

/-- The guard holds (R179). -/
def Core.guarded (c : Core) (g : Guard) : Bool := c.pred g.gp != g.gn

/-- A slot word: with a false guard it has no effect of any kind (R180). -/
def runSlot (s : State) (g : Guard) (e : Eff State) : Out :=
  if s.me.guarded g then finish s e else .next s

/-! ## Scopes (R333, R334) -/

/-- The smallest scope that holds two cores (R333). -/
def scopeOf (j k : Nat) : Nat :=
  if j = k then 1 else if clusterOf j = clusterOf k then 2
  else if clusterOf j / 2 = clusterOf k / 2 then 3 else if chipOf j = chipOf k then 4 else 5

/-- A core, or the host through its window, lies in a scope around another core (R333): from host scope on the hosts of
the domain's modules are contained, and the system scope contains every agent. The engine scope, code 0, holds the slot
or engine alone. -/
def State.inScope (s : State) (scope k j : Nat) : Bool :=
  match scope with
  | 0 => j == k
  | 1 => j == k
  | 2 => clusterOf j == clusterOf k
  | 3 => clusterOf j / 2 == clusterOf k / 2
  | 4 => chipOf j == chipOf k
  | 5 => s.member (chipOf k) (chipOf j)
  | 6 => s.member (chipOf k) (chipOf j) || decide (2 ^ 32 ≤ j)
  | _ => true

/-- A scope wider than domain acts at domain scope on a scratchpad word (R255, R334). -/
def scopeAt (scope : Nat) : Target → Nat
  | .mem _ => scope
  | .spad _ _ => min scope 5

/-- The bytes that an access reaches; a barrier and a flag are no bytes. -/
def Acc.spans (a : Acc) : List (Target × Nat) :=
  match a.kind with
  | .arrive => []
  | .await => []
  | .sync => []
  | .post => []
  | _ => if a.split = [] then [(a.target, a.bytes)] else a.split.map (·, 1)

/-- The access writes what it reaches. -/
def Acc.writes (a : Acc) : Bool :=
  match a.kind with
  | .load => false
  | .poll => false
  | .fullEmpty op => 0x4E ≤ op.toNat
  | _ => true

/-- Two runs of bytes have a byte in common. -/
def spansMeet (x y : Target × Nat) : Bool :=
  match x.1, y.1 with
  | .mem a, .mem b => decide (a < b + y.2) && decide (b < a + x.2)
  | .spad j a, .spad k b => j == k && decide (a < b + y.2) && decide (b < a + x.2)
  | _, _ => false

/-- The bytes that a command's transfer under way has still to read and to write. -/
def Cmd.spans (x : Cmd) : List (Target × Nat) × List (Target × Nat) :=
  match x.job with
  | some j => (j.rd.map fun r => (r.piece.target, r.piece.len), j.wr.map fun r => (r.piece.target, r.piece.len))
  | none => ([], [])

/-! ## The accesses of a core in order (R253, R255, R335)

An access that is still in flight may count as performed at a scope (`seen`, one more than the code): then every agent
inside that scope that would observe its bytes waits for it, while an agent outside may still find them as they were
(R334). This is how an ordering of a narrow scope holds for the agents that it names and for no other. -/

/-- A command has accesses beyond those of its transfer under way: a collective whose result is still to come (R319), an
`saccept` that has still to write its index (R332). -/
def Cmd.unfinished (x : Cmd) : Bool :=
  x.slotG && (decide (0x08 ≤ opcodeOf x.word ∧ opcodeOf x.word ≤ 0x0B) && x.phase != 3
    || opcodeOf x.word == 0x25 && x.phase != 2)

/-- No remote access of a command is still to perform: a command of a ring or of a tier makes none, a `grecv` receives into
its core's scratchpad (R322), a `glaunch` whose launch has been made waits for its shape and its records (R374), and a
transfer may have nothing left beyond the core's own scratchpad.
DEDUCED, log entry 144. -/
def Cmd.remoteDone (k : Nat) (x : Cmd) : Bool :=
  (if x.slotG then opcodeOf x.word == 0x11 || opcodeOf x.word == 0x14 && x.phase != 0
    else decide (0x0A ≤ opcodeOf x.word))
    || !x.unfinished && match x.job with
      | some j => (j.rd ++ j.wr).all fun r => match r.piece.target with
        | .spad j _ => j == k
        | .mem _ => false
      | none => false

/-- A command's transfer under way performs by itself: nothing of another core's is awaited any more. -/
def Cmd.underWay (x : Cmd) : Bool := x.job.isSome && !x.unfinished

/-- An access has not performed. -/
def Acc.undone (a : Acc) : Bool :=
  match a.phase with
  | .done _ _ _ => false
  | _ => true

/-- An access has performed at a scope, or counts so. -/
def Acc.countsAt (a : Acc) (scope : Nat) : Bool :=
  match a.phase with
  | .done _ _ _ => true
  | _ => decide (scopeAt scope a.target < a.seen)

namespace State

/-- Accesses of a core's earlier groups, for the partition whose accesses they are (R344). -/
def earlier (s : State) (p k ord : Nat) : List Acc :=
  s.accs.filter fun a => a.core == k && a.part == p && decide (a.ord < ord)

/-- STATE of the future that a remote `fpoll` on its way would read now (R263). -/
def pollState (s : State) (a : Acc) : Option Nat :=
  match a.kind, a.phase, a.target with
  | .poll, .sent, .spad k off => some (field (s.bankWord a.part k (off / 8)).data 62 2)
  | _, _, _ => none

/-- An `fpoll` whose future is not resolved acquires nothing: accesses of later groups pass it, and it reads no later state
than the one they found (R263, R338). `data2` keeps that state, raised by one.
DEDUCED, log entry 48. -/
def passable (s : State) (a : Acc) : Bool := a.data2 != 0 || (s.pollState a).any (· < 2)

/-- No acquire of an earlier group is still to perform, so that an access of this group may (R253). -/
def acquired (s : State) (p k ord : Nat) : Bool :=
  (s.earlier p k ord).all fun a => !a.acq || match a.kind, a.phase with
    | _, .done _ _ _ => true
    | .poll, _ => s.passable a
    | _, _ => false

/-- The `fpoll`s that an access of a later group passes. -/
def passPolls (s : State) (p k ord : Nat) : State :=
  let hit := fun (a : Acc) => a.core == k && a.part == p && decide (a.ord < ord) && a.data2 == 0 && (s.pollState a).isSome
  if s.accs.any hit then
    { s with accs := s.accs.map fun (a : Acc) => if hit a then
        { a with data2 := BitVec.ofNat 64 ((s.pollState a).getD 0 + 1) } else a : State }
  else s

/-- A command's remote accesses have performed at a scope, or count so. -/
def cmdCounts (k scope : Nat) (x : Cmd) : Bool := x.remoteDone k || decide (scope < x.seen)

/-- What the groups of a core before an order number have sent has performed at a scope, or counts so (R255). -/
def allCount (s : State) (p k ord scope : Nat) : Bool :=
  (s.earlier p k ord).all (fun a => a.countsAt scope)
    && (s.coreOf p k).xq.all (fun x => decide (ord ≤ x.ord) || cmdCounts k scope x)
    && s.posts.all fun x => !(x.src == k && x.part == p && decide (x.ord < ord))

/-- Bytes that agent `k` would observe or change are those of an access in flight that counts as performed for it, or of
such a command: the agent waits. An access of the same core waits for an earlier one only. -/
def promised (s : State) (p k ord id : Nat) (spans : List (Target × Nat)) (write : Bool) : Bool :=
  let before := fun (q j o scope : Nat) => if j = k && q = p then decide (o < ord) else s.inScope scope j k
  let meet := fun (l : List (Target × Nat)) => spans.any fun x => l.any (spansMeet x)
  (s.accs.any fun a => a.seen != 0 && a.phase == .sent && a.id != id && before a.part a.core a.ord (a.seen - 1)
      && (write || a.writes) && meet a.spans)
    || (s.cores ++ s.parts.flatMap fun q => q.2.image).any fun c => c.2.xq.any fun x => x.seen != 0 && x.id != id
      && before x.own.part c.1 x.ord (x.seen - 1) && (meet x.spans.2 || write && meet x.spans.1)

/-- An access in flight may come to count as performed at a scope: nothing that comes before it is still to perform. -/
def mayPromise (s : State) (a : Acc) : Bool :=
  a.phase == .sent && !a.device && s.acquired a.part a.core a.ord
    && ((s.coreOf a.part a.core).fences.all fun f => decide (a.ord ≤ f.1) || s.allCount a.part a.core f.1 f.2)
    && (!a.rel || s.allCount a.part a.core a.ord a.scope)
    && (a.seen != 0 || !s.promised a.part a.core a.ord a.id a.spans a.writes)

/-- What the groups of a core before an order number have sent has performed at a scope, or can count so from now on: at
system scope it must have performed (R255, R334). -/
def performedBefore (s : State) (p k ord scope : Nat) : Bool :=
  (s.earlier p k ord).all (fun a => a.countsAt scope || (decide (scope < 7) && s.mayPromise a))
    && (s.coreOf p k).xq.all (fun x => decide (ord ≤ x.ord) || cmdCounts k scope x
      || (decide (scope < 7) && x.underWay))
    && s.posts.all fun x => !(x.src == k && x.part == p && decide (x.ord < ord))

/-- What has not performed yet counts as performed at the scope from now on. -/
def promiseBefore (s : State) (p k ord scope : Nat) : State :=
  if s.allCount p k ord scope then s
  else
    let s := s.passPolls p k ord
    let c := s.coreOf p k
    { s with accs := s.accs.map fun (a : Acc) =>
        if a.core == k && a.part == p && decide (a.ord < ord) && !a.countsAt scope
        then { a with seen := max a.seen (scopeAt scope a.target + 1) } else a : State }.setCoreOf p k
      { c with xq := c.xq.map fun x => if decide (x.ord < ord) && !cmdCounts k scope x
          then { x with seen := max x.seen (scope + 1) } else x }

/-- An access of a core's group may perform: the acquires of earlier groups have performed, and what each fence of an
earlier group covers has performed at its scope (R253, R255). -/
def inOrder (s : State) (p k ord : Nat) : Bool :=
  s.acquired p k ord && (s.coreOf p k).fences.all fun f => decide (ord ≤ f.1) || s.performedBefore p k f.1 f.2

/-- The fences before an access, and its own release when it is one, make what they order count as performed. -/
def keepOrder (s : State) (p k ord : Nat) (rel : Option Nat) : State :=
  let s := s.passPolls p k ord
  let s := ((s.coreOf p k).fences.filter fun f => decide (f.1 < ord)).foldl (fun s f => s.promiseBefore p k f.1 f.2) s
  match rel with
  | some scope => s.promiseBefore p k ord scope
  | none => s

end State

end Sys2Proof.Machine
end

