-- ==== Sys2Proof/Machine/BaseDie.lean ====
section
/-! DEFINITION. The base die of an HBM4E stack (R18 to R31): the packets it serves, copies and fills within the stack, the packets it
discards, the rolling activation budget, and the remap table with its log. -/
namespace Sys2Proof.Machine

/-! ## The activation budget (R26, R27) -/

/-- ABUDGET.ENABLE. -/
def Stack.counting (x : Stack) : Bool := x.abudget.getLsbD 0
/-- ABUDGET.LEVEL. -/
def Stack.level (x : Stack) : Nat := bitsOf x.abudget.toNat 4 12
/-- ABUDGET.DECAY. -/
def Stack.decay (x : Stack) : Nat := bitsOf x.abudget.toNat 16 8
/-- A bank of a stack. -/
def Stack.bank (x : Stack) (b : Nat) : Bank4 := (Table.look x.banks b).getD Bank4.reset
/-- The stack with a bank replaced. -/
def Stack.setBank (x : Stack) (b : Nat) (y : Bank4) : Stack := { x with banks := Table.put x.banks b y }

/-- One activate counts, and at LEVEL a refresh-management command is issued (R26). -/
def Bank4.activate (y : Bank4) (level : Nat) : Bank4 :=
  if level ≤ y.count + 1 then { y with count := y.count + 1 - level, rfm := y.rfm + 1 }
  else { y with count := y.count + 1 }

/-- Some activates of a bank. -/
def activates (level : Nat) : Nat → Bank4 → Bank4
  | 0, y => y
  | n + 1, y => activates level n (y.activate level)

/-! ## The remap table (R28 to R30) -/

/-- An event of the remap table is logged; beyond 16 it is lost (R30).
DESIGN CHOICE, log entry 133. -/
def Stack.log (x : Stack) (kind : BitVec 2) (bank : Nat) : Stack :=
  if x.events.length < 16 then
    { x with events := x.events ++
        [⟨kind, BitVec.ofNat 5 (bank / 32), bank / 16 % 2 == 1, BitVec.ofNat 4 bank⟩] }
  else { x with lost := true }

/-- Both copies of a bank's entry are checked, repaired, or the bank fenced (R28); true when the management
controller is interrupted. -/
def Stack.lookup (x : Stack) (b : Nat) : Stack × Bool :=
  let y := x.bank b
  if y.fenced then (x, false)
  else
    match y.copyA, y.copyB with
    | true, true => (x, false)
    | false, true => ((x.setBank b { y with copyA := true }).log 0 b, false)
    | true, false => ((x.setBank b { y with copyB := true }).log 1 b, false)
    | false, false => ((x.setBank b { y with fenced := true }).log 2 b, true)

/-- The banks of a stack that are fenced (R31). -/
def Stack.fencedBanks (x : Stack) : Nat := (x.banks.filter fun b => b.2.fenced).length

/-- RMLOG as it reads (R30). KIND, CHAN, PCH and BANK are those of the event that VALID announces; the rule gives them the
value 0 at reset and does not say what they read once VALID has been cleared and no event is left: they read 0 again.
DESIGN CHOICE, log entry 133. -/
def Stack.rmlog (x : Stack) : W64 :=
  BitVec.ofNat 64 (match x.events with
    | [] => ofBool x.lost * 2 ^ 62
    | e :: _ => 2 ^ 63 + ofBool x.lost * 2 ^ 62 + e.kind.toNat * 2 ^ 60 + e.chan.toNat * 2 ^ 16
        + ofBool e.pch * 2 ^ 15 + e.bank.toNat * 2 ^ 10)

/-- STKSTAT as it reads (R31). -/
def Stack.stkstat (x : Stack) : W64 :=
  BitVec.ofNat 64 (x.fencedBanks * 2 ^ 16 + x.badpkt.toNat * 2 ^ 8 + ofBool (x.fencedBanks != 0))

/-! ## Packets (R18, R26, R28) -/

/-- The base die serves a packet on a row: the remap entry of its bank is looked up, and some activates count while
the budget is active (R26, R28). -/
def State.serveRow (s : State) (r : DramRow) (n : Nat) : State :=
  let (x, fenced) := (s.stack r.stack).lookup r.bank
  let x := if x.counting then x.setBank r.bank (activates x.level n (x.bank r.bank)) else x
  let s := s.setStack r.stack x
  if fenced then s.interrupt (r.stack / 8) else s

/-- The packets that carry a run of memory, each with its address and its length in beats: 64 B aligned and within one
2 KiB granule, so that none is longer than 2 KiB (R18). -/
def packetsFrom : Nat → Nat → Nat → List (Nat × Nat)
  | 0, _, _ => []
  | k + 1, ma, len =>
    if len = 0 then []
    else
      let n := min len (2048 - ma % 2048)
      (ma / 64 * 64, (ma % 64 + n + 63) / 64) :: packetsFrom k (ma + n) (len - n)

/-- The packets of a run. -/
def packets (ma len : Nat) : List (Nat × Nat) := packetsFrom (len / 2048 + 2) ma len

/-- The rows that a run touches; none where its page is not in tier 0. -/
def State.rowsAt (s : State) (ma len : Nat) : List (Option DramRow) := (packets ma len).map fun p => s.dramRow p.1

/-- The base dies serve the packets of a READ, WRITE or ATOMIC: each row that does not stand open is activated. -/
def State.serve (s : State) (ma len : Nat) : State :=
  (s.rowsAt ma len).foldl (fun s r => match r with
    | some r => s.serveRow r (if Config.rowOpen s.tick (State.rowName r.bank r.row) then 0 else 1)
    | none => s) s

/-! ### Tags (R19) -/

/-- The tags that the packets of a core's commands hold at a stack. -/
def Core.tags (k : Nat) (c : Core) : List Nat :=
  c.xq.flatMap fun x => match x.job with
    | some j => j.out.filterMap fun p => match p.tag with
      | some (st, n) => if st = k then some n else none
      | none => none
    | none => []

/-- The tags in use at a stack. -/
def State.tagsAt (s : State) (k : Nat) : List Nat :=
  (s.accs.filterMap fun a => match a.tag, a.target with
    | some t, .mem ma => match s.dramRow ma with
      | some r => if r.stack = k then some t else none
      | none => none
    | _, _ => none)
  ++ (s.cores ++ s.parts.flatMap fun q => q.2.image).flatMap fun c => c.2.tags k

/-- The stack that a request for a target goes to, with the tag that it takes there: that of the lowest number that is
free; `none` when all 4096 are in use, and no tag at all for a target beyond the stacks (R19). -/
def State.packetTag (s : State) (t : Target) : Option (Option (Nat × Nat)) :=
  match t with
  | .mem ma => match s.dramRow ma with
    | some r => (State.firstNat (fun n => !(s.tagsAt r.stack).contains n) 4096 0).map fun n => some (r.stack, n)
    | none => some none
  | .spad _ _ => some none

/-- The tag that a request takes. -/
def State.freeTag (s : State) (t : Target) : Option (Option Nat) := (s.packetTag t).map fun x => x.map (·.2)

/-! ## Copies and fills (R24, R25, R439) -/

/-- The pages of a run of memory, each ready for a write by the base die: a demotion under way is abandoned, and what
the entry records stays; none when one of them is outside tier 0 or can have no frame. -/
def readyRun (s : State) (ma len : Nat) : Option State :=
  ((List.range ((ma + len - 1) / 65536 - ma / 65536 + 1)).map (· + ma / 65536)).foldl
    (fun o p => match o with
      | none => none
      | some s => if !s.present p then none
          else if (s.page p).tier.isNone then s.placeForWrite p 0
          else some ({ s with fresh := s.fresh + 1 }.setPage p { s.page p with demoting := none, lru := s.fresh }))
    (some s)

/-- The bytes of a pattern repeated (R24). -/
def patternBytes (pat : BitVec 64) (n : Nat) : Data :=
  (List.range n).map fun i => (BitVec.ofNat 8 (pat.toNat / 2 ^ (8 * (i % 8))), false)

/-- A run of bytes written to memory by the base die itself: nothing is written when a page is not in tier 0.
DEDUCED, log entry 21. -/
def baseWrite (s : State) (dst len : Nat) (d : Data) : State :=
  if len = 0 then s else match readyRun s dst len with
    | some t => t.writeMem dst d
    | none => s

/-- Every row of a run is in tier 0 and in one stack: that stack (R18). -/
def State.stackOf (s : State) (ma len : Nat) : Option Nat :=
  match s.rowsAt ma len with
  | some r :: l => if l.all fun (x : Option DramRow) => match x with | some y => y.stack == r.stack | none => false
      then some r.stack else none
  | _ => none

/-- A row is copied in-array (R24): it is covered whole, from a row of the same bank and subarray, neither row is
remapped, the bank is not fenced, and no beat of the source is poisoned. -/
def State.copyInArray (s : State) (src dst n : Nat) : Bool :=
  match s.dramRow src, s.dramRow dst with
  | some a, some b =>
    src % 2048 == 0 && dst % 2048 == 0 && n == 2048 && a.stack == b.stack && a.bank == b.bank
      && Config.subarrayOf a.stack a.bank a.row == Config.subarrayOf b.stack b.bank b.row
      && !s.retiredRow a && !s.retiredRow b && !s.fencedBank b
      && (List.range 32).all fun i => !s.badBeat (src + 64 * i)
  | _, _ => false

/-- A row is initialised in-array (R24): it is covered whole and not remapped, its bank is not fenced, and the pattern
is all zeros, all ones, or that of the subarray's reserved row. -/
def State.fillInArray (s : State) (dst n : Nat) (pat : BitVec 64) : Bool :=
  match s.dramRow dst with
  | some b =>
    dst % 2048 == 0 && n == 2048 && !s.retiredRow b && !s.fencedBank b
      && (pat == 0 || pat == BitVec.allOnes 64
        || pat == Config.patternRow b.stack b.bank (Config.subarrayOf b.stack b.bank b.row))
  | none => false

/-- The rows of a copy are served, each by the method that R24 gives it: an in-array copy takes two activates of its
bank (R25), and the ordinary path reads the source and writes the destination. -/
def State.serveCopy : Nat → State → Nat → Nat → Nat → State
  | 0, s, _, _, _ => s
  | k + 1, s, src, dst, len =>
    if len = 0 then s
    else
      let n := min len (min (2048 - dst % 2048) (2048 - src % 2048))
      let s := if s.copyInArray src dst n
        then match s.dramRow dst with | some r => s.serveRow r 2 | none => s
        else (s.serve src n).serve dst n
      State.serveCopy k s (src + n) (dst + n) (len - n)

/-- The rows of a fill are served: one initialised in-array takes the two activates of a row copy from the pattern
row.
DEDUCED, log entry 21. -/
def State.serveFill : Nat → State → Nat → Nat → BitVec 64 → State
  | 0, s, _, _, _ => s
  | k + 1, s, dst, len, pat =>
    if len = 0 then s
    else
      let n := min len (2048 - dst % 2048)
      let s := if s.fillInArray dst n pat
        then match s.dramRow dst with | some r => s.serveRow r 2 | none => s
        else s.serve dst n
      State.serveFill k s (dst + n) (len - n) pat

/-! ### Acknowledgements -/

/-- A target some bytes further on. -/
def Target.shift (t : Target) (n : Nat) : Target :=
  match t with
  | .mem ma => .mem (ma + n)
  | .spad k off => .spad k (off + n)

/-- Some bytes of a piece. -/
def Piece.sub (p : Piece) (i n : Nat) : Piece := { p with va := p.va + i, len := n, target := p.target.shift i }

/-- A part without the bytes from a place on, as many as `n`. -/
def Part.minus (lo n : Nat) (p : Part) : List Part :=
  let e := p.off + p.piece.len
  (if p.off < lo then [{ p with piece := p.piece.sub 0 (min e lo - p.off) }] else [])
    ++ (if lo + n < e then
      [{ p with off := max p.off (lo + n), piece := p.piece.sub (max p.off (lo + n) - p.off) (e - max p.off (lo + n)) }]
      else [])

/-- The place among a transfer's bytes of a run of memory that one of its parts covers. -/
def placeIn (l : List Part) (ma len : Nat) : Option Nat :=
  (l.findSome? fun p => match p.piece.target with
    | .mem m => if m ≤ ma && ma + len ≤ m + p.piece.len then some (p.off + (ma - m)) else none
    | .spad _ _ => none)

/-- A packet has bytes still to read or to write. -/
def Job.holds (j : Job) (x : Packet) : Bool :=
  (if x.write then j.wr else j.rd).any fun r => decide (r.off < x.off + x.len) && decide (x.off < r.off + r.piece.len)

/-- The packets of a transfer that are answered leave it: nothing of theirs is left to read or to write (R18). -/
def Job.prune (j : Job) : Job := { j with out := j.out.filter j.holds }

/-- A transfer whose ROWCOPY is acknowledged: those bytes have been read and written. -/
def Job.copied (j : Job) (src dst len : Nat) : Option Job :=
  match placeIn j.rd src len, placeIn j.wr dst len with
  | some a, some b => if a = b && !j.whole then
      some (Job.prune { j with rd := j.rd.flatMap (Part.minus a len), wr := j.wr.flatMap (Part.minus a len) }) else none
  | _, _ => none

/-- A transfer whose ROWINIT is acknowledged: those bytes have been written. -/
def Job.filled (j : Job) (dst len : Nat) (d : Data) : Option Job :=
  match placeIn j.wr dst len with
  | some b => if j.rd.isEmpty && (j.buf.drop b).take len == d then
      some (Job.prune { j with wr := j.wr.flatMap (Part.minus b len) }) else none
  | none => none

/-- The reply of a ROWCOPY or ROWINIT reaches the commands that sent it (R18, R24). -/
def State.replyRow (s : State) (op : Nat) (f : Job → Option Job) : State :=
  let g := fun (x : Cmd) => if x.slotG || opcodeOf x.word != op then x
    else match x.job with
      | some j => match f j with
        | some j' => { x with job := some j' }
        | none => x
      | none => x
  let h := fun (c : Core) => { c with xq := c.xq.map g }
  { s with
    cores := s.cores.map fun p => (p.1, h p.2)
    parts := s.parts.map fun p => (p.1, { p.2 with image := p.2.image.map fun q => (q.1, h q.2) }) }

/-! ## Meanings -/

/-- ROWCOPY (R18, R24, R25, R439): where source and destination lie in one stack, the bytes of the source lie at the
destination, each beat with the poison of its source as by a WRITE of the whole beat; each row takes the method that R24
gives it, and the acknowledgement reaches the command that sent the packet. -/
def execRowcopy (src dst len : Nat) (s : State) : Out :=
  .next (if (s.stackOf src len).isSome && s.stackOf src len == s.stackOf dst len then
      let t := State.serveCopy (len / 1024 + 3) s src dst len
      (baseWrite t dst len (t.memData src len)).replyRow 0x08 fun j => j.copied src dst len
    else s)

/-- ROWINIT (R18, R24, R25, R439): where the destination lies in one stack, it is filled with the pattern, and the
acknowledgement reaches the command that sent the packet. -/
def execRowinit (dst len : Nat) (pat : BitVec 64) (s : State) : Out :=
  .next (if (s.stackOf dst len).isSome then
      (baseWrite (State.serveFill (len / 2048 + 2) s dst len pat) dst len (patternBytes pat len)).replyRow 0x09
        fun j => j.filled dst len (patternBytes pat len)
    else s)

/-- A packet of a kind that R18 does not list is discarded and counted in STKSTAT.BADPKT, which saturates at
255 (R18, R31). -/
def execPacketDiscard (stack : Nat) (kind : BitVec 4) (s : State) : Out :=
  let x := s.stack stack
  .next (if kind.toNat ≤ 6 then s
    else s.setStack stack { x with badpkt := BitVec.ofNat 8 (satAdd 255 x.badpkt.toNat 1) })

/-- What the base die finds wrong at an activate comes to pass (R28, R29): a copy of the bank's remap entry is
uncorrectable, or the row fails and is retired, which no row of a fenced bank is. -/
def Stack.upset (x : Stack) (b row : Nat) (up : DramUpset) : Stack :=
  let y := x.bank b
  match up with
  | .none => x
  | .copyA => x.setBank b { y with copyA := false }
  | .copyB => x.setBank b { y with copyB := false }
  | .both => x.setBank b { y with copyA := false, copyB := false }
  | .failing =>
    if y.fenced || x.retired.contains (State.rowName b row) then x
    else { x with retired := x.retired ++ [State.rowName b row] }

/-- An activate of a row (R26, R28): the remap entry of its bank is looked up, and the activate counts while the budget
is active. -/
def execDramActivate (stack : Nat) (act : DramAct) (s : State) : Out :=
  let b := act.bank % stackBanks
  .next ((s.setStack stack ((s.stack stack).upset b act.row act.up)).serveRow ⟨stack, b, act.row⟩ 1)

/-- A refresh of a bank lowers its counter by DECAY, to 0 at least, whether or not the budget is active (R26).
DEDUCED, log entry 132. -/
def execDramRefresh (stack bank : Nat) (s : State) : Out :=
  let b := bank % stackBanks
  let x := s.stack stack
  .next (s.setStack stack (x.setBank b { x.bank b with count := (x.bank b).count - x.decay }))

/-- Writing 1 to RMLOG.VALID clears the event, and the next one loads (R30). -/
def execRmlogValidClear (stack : Nat) (s : State) : Out :=
  let x := s.stack stack
  .next (s.setStack stack { x with events := x.events.drop 1 })

end Sys2Proof.Machine
end

