-- ==== Sys2Proof/Machine/Flags.lean ====
section
/-! DEFINITION. Number formats (R147 to R153), rounding with its flags (R156 to R160), exact arithmetic on
the values of R13, minimum and maximum (R252), conversions (R158), and the flags of FSTAT (R161). A value
is an exact dyadic number (`Exact`); a result that is no dyadic number is carried as a truncated magnitude
with a sticky mark, and rounded once. -/
namespace Sys2Proof.Machine

/-! ## Flags (R161) -/

/-- The sticky flags NV, DZ, OF, UF, NX, IDZ, SAT in bits 0 to 6. -/
abbrev Flags := BitVec 7

/-- Invalid operation. -/
def fNV : Flags := 1
/-- Floating division by zero. -/
def fDZ : Flags := 2
/-- Overflow. -/
def fOF : Flags := 4
/-- Underflow. -/
def fUF : Flags := 8
/-- Inexact. -/
def fNX : Flags := 16
/-- Integer division by zero. -/
def fIDZ : Flags := 32
/-- A result was clamped. -/
def fSAT : Flags := 64

/-- Flags when a condition holds. -/
def Flags.on (f : Flags) (b : Bool) : Flags := if b then f else 0

/-- Flags accrue by OR (R162). -/
def Arch.accrue (r : Arch) (f : Flags) : Arch := { r with fstat := r.fstat ||| f.zeroExtend 64 }

/-- FSTAT.ACCFTZ. -/
def Arch.accftz (r : Arch) : Bool := bit r.fstat 14
/-- FSTAT.NFTZ. -/
def Arch.nftz (r : Arch) : Bool := bit r.fstat 15

/-! ## Formats (R149, R150) -/

/-- A floating format: exponent and mantissa bits, bias, whether it has infinities, the first NaN
encoding above the largest finite one (none: it has no NaN), and the largest finite encoding. -/
structure Fmt where
  e : Nat
  m : Nat
  bias : Nat
  hasInf : Bool
  hasNan : Bool
  maxFin : Nat
  deriving DecidableEq, Repr

/-- binary64. -/
def f64 : Fmt := ⟨11, 52, 1023, true, true, 0x7FEFFFFFFFFFFFFF⟩
/-- binary32. -/
def f32 : Fmt := ⟨8, 23, 127, true, true, 0x7F7FFFFF⟩
/-- binary16. -/
def f16 : Fmt := ⟨5, 10, 15, true, true, 0x7BFF⟩
/-- bfloat16. -/
def bf16 : Fmt := ⟨8, 7, 127, true, true, 0x7F7F⟩
/-- FP8 with infinities. -/
def e5m2 : Fmt := ⟨5, 2, 15, true, true, 0x7B⟩
/-- FP8 without infinities. -/
def e4m3 : Fmt := ⟨4, 3, 7, false, true, 0x7E⟩
/-- FP6. -/
def e3m2 : Fmt := ⟨3, 2, 3, false, false, 0x1F⟩
/-- FP6. -/
def e2m3 : Fmt := ⟨2, 3, 1, false, false, 0x1F⟩
/-- FP4. -/
def e2m1 : Fmt := ⟨2, 1, 1, false, false, 0x7⟩

/-- Width of an encoding. -/
def Fmt.width (f : Fmt) : Nat := 1 + f.e + f.m

/-- The magnitude bits of an encoding. -/
def Fmt.magBits (f : Fmt) (x : Nat) : Nat := x % 2 ^ (f.e + f.m)

/-- The sign of an encoding. -/
def Fmt.sign (f : Fmt) (x : Nat) : Bool := x / 2 ^ (f.e + f.m) % 2 == 1

/-- The encoding of an infinity's magnitude. -/
def Fmt.infBits (f : Fmt) : Nat := (2 ^ f.e - 1) * 2 ^ f.m

/-- The encoding is a NaN (R150). -/
def Fmt.isNan (f : Fmt) (x : Nat) : Bool :=
  f.hasNan && (if f.hasInf then decide (f.infBits < f.magBits x) else decide (f.maxFin < f.magBits x))

/-- The encoding is a signalling NaN: its quiet bit is 0, in the formats that have one (R150). -/
def Fmt.isSignalling (f : Fmt) (x : Nat) : Bool :=
  f.isNan x && f.hasInf && f.magBits x / 2 ^ (f.m - 1) % 2 == 0

/-- The canonical quiet NaN (R150); `+0` in the formats without NaN (R158). -/
def Fmt.qnan (f : Fmt) : Nat :=
  if !f.hasNan then 0 else if f.hasInf then f.infBits + 2 ^ (f.m - 1) else f.maxFin + 1

/-- The value of an encoding (R149, R150). -/
def Fmt.value (f : Fmt) (x : Nat) : Exact :=
  let g := f.magBits x
  if f.isNan x then .nan
  else if f.hasInf && g == f.infBits then .inf (f.sign x)
  else
    let ex := g / 2 ^ f.m
    let ma := g % 2 ^ f.m
    if ex = 0 then .fin (f.sign x) ma (1 - (f.bias : Int) - f.m)
    else .fin (f.sign x) (2 ^ f.m + ma) ((ex : Int) - f.bias - f.m)

/-- A subnormal encoding. -/
def Fmt.isSubnormal (f : Fmt) (x : Nat) : Bool :=
  f.magBits x / 2 ^ f.m == 0 && f.magBits x % 2 ^ f.m != 0

/-- An encoding with a sign. -/
def Fmt.signed (f : Fmt) (neg : Bool) (mag : Nat) : Nat := (if neg then 2 ^ (f.e + f.m) else 0) + mag

/-! ## Rounding (R156 to R159) -/

/-- An encoding with the flags raised in forming it. -/
structure Rounded where
  bits : Nat
  flags : Flags
  deriving DecidableEq, Repr

/-- The rounding modes of VCFG.RM. -/
def rmRNE : Nat := 0
/-- Toward zero. -/
def rmRTZ : Nat := 1
/-- Toward +∞. -/
def rmRUP : Nat := 2
/-- Toward -∞. -/
def rmRDN : Nat := 3
/-- Nearest, ties away. -/
def rmRNA : Nat := 4
/-- Stochastic. -/
def rmStochastic : Nat := 5

/-- Stochastic where the operation is not a stochastic conversion: RNE (R156). -/
def plainMode (rm : Nat) : Nat := if rm = 5 then 0 else rm

/-- A magnitude cut to a whole number of quanta 2^q. -/
structure Cut where
  n : Nat
  rem : Nat
  den : Nat
  more : Bool
  deriving DecidableEq, Repr

/-- The magnitude mag * 2^exp (a little more when `more`) as n quanta 2^q and rem / den of one. -/
def cut (mag : Nat) (exp : Int) (more : Bool) (q : Int) : Cut :=
  let s := q - exp
  if s ≤ 0 then ⟨mag * 2 ^ (-s).toNat, 0, 1, more⟩
  else ⟨mag / 2 ^ s.toNat, mag % 2 ^ s.toNat, 2 ^ s.toNat, more⟩

/-- The cut is exact. -/
def Cut.exact (c : Cut) : Bool := c.rem == 0 && !c.more

/-- The quanta after rounding by a mode; `draw` is the generator state of a stochastic rounding. -/
def Cut.round (c : Cut) (rm : Nat) (neg : Bool) (draw : Nat) : Nat :=
  let up :=
    if c.exact then false
    else if rm = 1 then false
    else if rm = 2 then !neg
    else if rm = 3 then neg
    else if rm = 4 then decide (c.den ≤ 2 * c.rem)
    else if rm = 5 then decide (2 ^ 32 ≤ c.rem * 2 ^ 32 / c.den + draw)
    else decide (c.den < 2 * c.rem) || (2 * c.rem == c.den && (c.more || c.n % 2 == 1))
  if up then c.n + 1 else c.n

/-- floor(log2 mag) + exp: the exponent of a non-zero magnitude. -/
def topExp (mag : Nat) (exp : Int) : Int := (Nat.log2 mag : Int) + exp

/-- The encoding of n quanta 2^q, where q is the quantum of the binade or of the subnormals; above the
largest finite encoding when the magnitude is out of range. -/
def Fmt.assemble (f : Fmt) (n : Nat) (q : Int) : Nat :=
  if n < 2 ^ f.m then n
  else
    let n' := if 2 ^ (f.m + 1) ≤ n then n / 2 else n
    let q' := if 2 ^ (f.m + 1) ≤ n then q + 1 else q
    ((q' + f.m + f.bias).toNat) * 2 ^ f.m + (n' - 2 ^ f.m)

/-- The overflow result of a mode (R157, R158, R159). -/
def Fmt.overflow (f : Fmt) (rm : Nat) (sat neg : Bool) : Rounded :=
  if !f.hasInf || sat then ⟨f.signed neg f.maxFin, fOF ||| fNX ||| fSAT⟩
  else if rm = 1 || (rm = 2 && neg) || (rm = 3 && !neg) then ⟨f.signed neg f.maxFin, fOF ||| fNX⟩
  else ⟨f.signed neg f.infBits, fOF ||| fNX⟩

/-- A finite magnitude mag * 2^exp (a little more when `more`) rounded to a format by a mode (R157); it is tiny when the
same rounding with the range unbounded below, with the same draw, gives less than the smallest normal (R157, R159).
DEDUCED, log entry 83. -/
def Fmt.round (f : Fmt) (rm : Nat) (sat : Bool) (draw : Nat) (neg : Bool) (mag : Nat) (exp : Int)
    (more : Bool) : Rounded :=
  if mag = 0 && !more then ⟨f.signed neg 0, 0⟩
  else
    let emin : Int := 1 - f.bias
    let top := topExp mag exp
    let q : Int := max (top - f.m) (emin - f.m)
    let c := cut mag exp more q
    let n := c.round rm neg draw
    let code := f.assemble n q
    if f.maxFin < code then f.overflow rm sat neg
    else
      let q' : Int := top - f.m
      let tiny := decide (topExp ((cut mag exp more q').round rm neg draw) q' < emin)
      ⟨f.signed neg code, Flags.on fNX (!c.exact) ||| Flags.on fUF (tiny && !c.exact)⟩

/-- A value rounded to a format by a mode; a NaN gives the canonical quiet NaN. -/
def Fmt.ofExact (f : Fmt) (rm : Nat) : Exact → Rounded
  | .nan => ⟨f.qnan, 0⟩
  | .inf neg => ⟨f.signed neg f.infBits, 0⟩
  | .fin neg mag exp => f.round rm false 0 neg mag exp false

/-! ## Exact arithmetic -/

/-- The value is a NaN. -/
def Exact.isNan : Exact → Bool
  | .nan => true
  | _ => false
/-- The value is an infinity. -/
def Exact.isInf : Exact → Bool
  | .inf _ => true
  | _ => false
/-- The value is a zero. -/
def Exact.isZero : Exact → Bool
  | .fin _ 0 _ => true
  | _ => false
/-- The sign of a value. -/
def Exact.neg : Exact → Bool
  | .nan => false
  | .inf n => n
  | .fin n _ _ => n
/-- The value with its sign reversed. -/
def Exact.negate : Exact → Exact
  | .nan => .nan
  | .inf n => .inf !n
  | .fin n a e => .fin (!n) a e

/-- Zero. -/
def Exact.zero : Exact := .fin false 0 0

/-- The exact product; NaN for 0 * ∞. -/
def Exact.mul : Exact → Exact → Exact
  | .nan, _ => .nan
  | _, .nan => .nan
  | .inf a, .inf b => .inf (a != b)
  | .inf a, .fin b m _ => if m = 0 then .nan else .inf (a != b)
  | .fin a m _, .inf b => if m = 0 then .nan else .inf (a != b)
  | .fin a m e, .fin b n k => .fin (a != b) (m * n) (e + k)

/-- A magnitude with its sign as an integer count of 2^e, for e at most its exponent. -/
def scaled (neg : Bool) (mag : Nat) (exp e : Int) : Int :=
  let v : Int := (mag * 2 ^ (exp - e).toNat : Nat)
  if neg then -v else v

/-- The exact sum under a mode, which fixes the sign of a zero sum; NaN for ∞ - ∞. -/
def Exact.add (rm : Nat) : Exact → Exact → Exact
  | .nan, _ => .nan
  | _, .nan => .nan
  | .inf a, .inf b => if a = b then .inf a else .nan
  | .inf a, _ => .inf a
  | _, .inf b => .inf b
  | .fin a m e, .fin b n k =>
    let lo := min e k
    let v := scaled a m e lo + scaled b n k lo
    if v = 0 then .fin (if a = b then a else rm == 3) 0 lo
    else .fin (decide (v < 0)) v.natAbs lo

/-- The value times 2^k. -/
def Exact.scale (k : Int) : Exact → Exact
  | .fin n m e => .fin n m (e + k)
  | x => x

/-- a < b for values that are not NaN. -/
def Exact.lt : Exact → Exact → Bool
  | .nan, _ => false
  | _, .nan => false
  | .inf a, .inf b => a && !b
  | .inf a, _ => a
  | _, .inf b => !b
  | .fin a m e, .fin b n k =>
    let lo := min e k
    decide (scaled a m e lo < scaled b n k lo)

/-- a = b for values that are not NaN; the zeros are equal. -/
def Exact.eq (a b : Exact) : Bool := !a.isNan && !b.isNan && !a.lt b && !b.lt a

/-! ## Operations with their flags -/

/-- NV when an operand is a signalling NaN. -/
def Fmt.signals (f : Fmt) (xs : List Nat) : Flags := Flags.on fNV (xs.any f.isSignalling)

/-- A result that is a NaN: the canonical quiet NaN, with NV when the operation is invalid or an operand
signals (R278). -/
def Fmt.nanResult (f : Fmt) (invalid : Bool) (xs : List Nat) : Rounded :=
  ⟨f.qnan, Flags.on fNV invalid ||| f.signals xs⟩

/-- a + b, rounded once. -/
def Fmt.add (f : Fmt) (rm : Nat) (a b : Nat) : Rounded :=
  match Exact.add rm (f.value a) (f.value b) with
  | .nan => f.nanResult (!f.isNan a && !f.isNan b) [a, b]
  | v => f.ofExact rm v

/-- An encoding with its sign reversed. -/
def Fmt.flip (f : Fmt) (x : Nat) : Nat := f.signed (!f.sign x) (f.magBits x)

/-- a - b, rounded once. -/
def Fmt.sub (f : Fmt) (rm : Nat) (a b : Nat) : Rounded := f.add rm a (f.flip b)

/-- a * b, rounded once. -/
def Fmt.mul (f : Fmt) (rm : Nat) (a b : Nat) : Rounded :=
  match Exact.mul (f.value a) (f.value b) with
  | .nan => f.nanResult (!f.isNan a && !f.isNan b) [a, b]
  | v => f.ofExact rm v

/-- ±(a * b) ± c with the product exact and one rounding; 0 * ∞ is invalid whatever c holds (R278). The
operands may be of another format than the addend. -/
def Fmt.fma (f g : Fmt) (rm : Nat) (flipProduct flipAddend : Bool) (a b c : Nat) : Rounded :=
  let p := Exact.mul (g.value a) (g.value b)
  let badProduct := p.isNan && !g.isNan a && !g.isNan b
  let p := if flipProduct then p.negate else p
  let z := if flipAddend then (f.value c).negate else f.value c
  match Exact.add rm p z with
  | .nan => ⟨f.qnan, Flags.on fNV (badProduct || (!p.isNan && !z.isNan))
      ||| g.signals [a, b] ||| f.signals [c]⟩
  | v => f.ofExact rm v

/-- a / b, rounded once (R278). -/
def Fmt.div (f : Fmt) (rm : Nat) (a b : Nat) : Rounded :=
  match f.value a, f.value b with
  | .nan, _ => f.nanResult false [a, b]
  | _, .nan => f.nanResult false [a, b]
  | .inf _, .inf _ => f.nanResult true []
  | .inf x, .fin y _ _ => ⟨f.signed (x != y) f.infBits, 0⟩
  | .fin x _ _, .inf y => ⟨f.signed (x != y) 0, 0⟩
  | .fin x m e, .fin y n k =>
    if n = 0 then
      if m = 0 then f.nanResult true [] else ⟨f.signed (x != y) f.infBits, fDZ⟩
    else
      let t := f.m + 4 + Nat.log2 n
      f.round rm false 0 (x != y) (m * 2 ^ t / n) (e - k - t) (m * 2 ^ t % n != 0)

/-- The integer square root, one bit of the root at a time from bit `b - 1` down. -/
def rootFrom (n : Nat) : Nat → Nat → Nat
  | 0, r => r
  | b + 1, r => rootFrom n b (if (r + 2 ^ b) * (r + 2 ^ b) ≤ n then r + 2 ^ b else r)

/-- The integer square root. -/
def root (n : Nat) : Nat := rootFrom n (Nat.log2 n / 2 + 1) 0

/-- The square root, rounded once (R278). -/
def Fmt.sqrt (f : Fmt) (rm : Nat) (a : Nat) : Rounded :=
  match f.value a with
  | .nan => f.nanResult false [a]
  | .inf true => f.nanResult true []
  | .inf false => ⟨f.infBits, 0⟩
  | .fin neg m e =>
    if m = 0 then ⟨f.signed neg 0, 0⟩
    else if neg then f.nanResult true []
    else
      let t := 2 * (f.m + 4) + (if (e % 2) = 0 then 0 else 1)
      let n := m * 2 ^ t
      let r := root n
      f.round rm false 0 false r ((e - t) / 2) (r * r != n)

/-- 1 / √a, rounded once (R278, R279). -/
def Fmt.rsqrt (f : Fmt) (rm : Nat) (a : Nat) : Rounded :=
  match f.value a with
  | .nan => f.nanResult false [a]
  | .inf true => f.nanResult true []
  | .inf false => ⟨0, 0⟩
  | .fin neg m e =>
    if m = 0 then ⟨f.signed neg f.infBits, fDZ⟩
    else if neg then f.nanResult true []
    else
      let m' := if (e % 2) = 0 then m else 2 * m
      let e' := if (e % 2) = 0 then e else e - 1
      let p := f.m + 4 + Nat.log2 m'
      let r := root (2 ^ (2 * p) / m')
      f.round rm false 0 false r (-(p : Int) - e' / 2) (r * r * m' != 2 ^ (2 * p))

/-- 1 / a, rounded once. -/
def Fmt.rcp (f : Fmt) (rm : Nat) (a : Nat) : Rounded := f.div rm (f.bias * 2 ^ f.m) a

/-- Floating minimum or maximum (R252). -/
def Fmt.minMax (f : Fmt) (isMax : Bool) (a b : Nat) : Rounded :=
  let nv := f.signals [a, b]
  if f.isNan a && f.isNan b then ⟨f.qnan, nv⟩
  else if f.isNan a then ⟨b, nv⟩
  else if f.isNan b then ⟨a, nv⟩
  else
    let x := f.value a
    let y := f.value b
    let takeA :=
      if x.isZero && y.isZero then f.sign a != isMax
      else if isMax then !x.lt y else !y.lt x
    ⟨if takeA then a else b, 0⟩

/-- The relations of `vfcmp` and `vcmp`. -/
inductive Rel where
  | eq | ne | lt | le | gt | ge
  deriving DecidableEq, Repr

/-- A relation from equality and order. -/
def Rel.holds (r : Rel) (eq lt : Bool) : Bool :=
  match r with
  | .eq => eq
  | .ne => !eq
  | .lt => lt
  | .le => lt || eq
  | .gt => !lt && !eq
  | .ge => !lt

/-- A floating relation with its flag (R276). -/
def Fmt.compare (f : Fmt) (r : Rel) (a b : Nat) : Bool × Flags :=
  if f.isNan a || f.isNan b then
    (r == .ne, Flags.on fNV ((r != .eq && r != .ne)) ||| f.signals [a, b])
  else (r.holds ((f.value a).eq (f.value b)) ((f.value a).lt (f.value b)), 0)

/-- The class code of `vfcls` (R277). -/
def Fmt.classify (f : Fmt) (a : Nat) : Nat :=
  if f.isNan a then (if f.isSignalling a then 8 else 9)
  else
    let n := f.sign a
    match f.value a with
    | .nan => 9
    | .inf _ => if n then 0 else 7
    | .fin _ m _ =>
      if m = 0 then (if n then 3 else 4)
      else if f.isSubnormal a then (if n then 2 else 5)
      else if n then 1 else 6

/-! ## Elementary functions (R279) -/

/-- Σ z^(2k+1) / (2k+1) in units of 2^-p, by the terms that are not zero. -/
def atanhSum (p z2 : Nat) : Nat → Nat → Nat → Nat → Nat
  | 0, _, _, acc => acc
  | fuel + 1, k, t, acc =>
    if t = 0 then acc else atanhSum p z2 fuel (k + 1) (t * z2 / 2 ^ p) (acc + t / (2 * k + 1))

/-- 2 * atanh(a / b) in units of 2^-p, truncated, for a < b. -/
def logRatio (p a b : Nat) : Nat :=
  let z := a * 2 ^ p / b
  2 * atanhSum p (z * z / 2 ^ p) p 0 z 0

/-- ln 2 in units of 2^-p, truncated. -/
def ln2 (p : Nat) : Nat := logRatio p 1 3

/-- Σ y^k / k! in units of 2^-p. -/
def expSum (p y : Nat) : Nat → Nat → Nat → Nat → Nat
  | 0, _, _, acc => acc
  | fuel + 1, k, t, acc =>
    if t = 0 then acc else expSum p y fuel (k + 1) (t * y / 2 ^ p / (k + 1)) (acc + t)

/-- e^y in units of 2^-p for y in units of 2^-p. -/
def expFix (p y : Nat) : Nat := expSum p y p 0 (2 ^ p) 0

/-- An approximation a of a magnitude in units of 2^-p (times 2^k), within 2^24 units: when both ends
round alike, that rounding; none when more digits are needed.
DEDUCED, log entry 72. -/
def settleAt (f : Fmt) (neg : Bool) (a p : Nat) (k : Int) : Option Rounded :=
  if a ≤ 2 ^ 25 then none
  else
    let lo := f.round 0 false 0 neg (a - 2 ^ 24) (k - p) true
    let hi := f.round 0 false 0 neg (a + 2 ^ 24) (k - p) true
    if lo = hi then some lo else none

/-- The first precision that settles a rounding: 256 bits, doubled at each try. -/
def settleFrom (f : Fmt) (at_ : Nat → Bool × Nat × Int) : Nat → Nat → Rounded
  | 0, p =>
    let r := at_ p
    f.round 0 false 0 r.1 r.2.1 (r.2.2 - p) true
  | fuel + 1, p =>
    let r := at_ p
    match settleAt f r.1 r.2.1 p r.2.2 with
    | some x => x
    | none => settleFrom f at_ fuel (2 * p)

/-- 2^x for a finite x (R279). -/
def exp2Fin (f : Fmt) (neg : Bool) (mag : Nat) (exp : Int) : Rounded :=
  if mag = 0 then f.round 0 false 0 false 1 0 false
  else if 12 ≤ topExp mag exp then
    f.round 0 false 0 false 1 (if neg then -5000 else 5000) true
  else
    -- x = n + r / 2^d with 0 ≤ r < 2^d
    let d := (-(min exp 0)).toNat
    let v : Int := scaled neg mag exp (-(d : Int))
    let n := v / (2 ^ d : Nat)
    let r := (v % (2 ^ d : Nat)).toNat
    if r = 0 then f.round 0 false 0 false 1 n false
    else settleFrom f (fun p => (false, expFix p (r * ln2 p / 2 ^ d), n)) 8 256

/-- log2 of a finite positive value (R279). -/
def log2Fin (f : Fmt) (mag : Nat) (exp : Int) : Rounded :=
  let t := Nat.log2 mag
  let e : Int := exp + t
  if mag = 2 ^ t then f.round 0 false 0 (decide (e < 0)) e.natAbs 0 false
  else
    settleFrom f (fun p =>
      let l := logRatio p (mag - 2 ^ t) (mag + 2 ^ t) * 2 ^ p / ln2 p
      let v : Int := e * (2 ^ p : Nat) + l
      (decide (v < 0), v.natAbs, 0)) 8 256

/-- tanh of a finite non-zero magnitude (R279). -/
def tanhFin (f : Fmt) (neg : Bool) (mag : Nat) (exp : Int) : Rounded :=
  if topExp mag exp < -40 then f.round 0 false 0 neg (mag * 2 ^ 20 - 1) (exp - 20) true
  else if 5 ≤ topExp mag exp then f.round 0 false 0 neg (2 ^ 80 - 1) (-80) true
  else
    settleFrom f (fun p =>
      let y := if 0 ≤ exp then 2 * mag * 2 ^ exp.toNat * 2 ^ p else 2 * mag * 2 ^ p / 2 ^ (-exp).toNat
      let l := ln2 p
      let n := y / l
      let e := expFix p (y % l) * 2 ^ n
      (neg, (e - 2 ^ p) * 2 ^ p / (e + 2 ^ p), 0)) 8 256

/-- `vfexp2` (R279). -/
def Fmt.exp2 (f : Fmt) (a : Nat) : Rounded :=
  match f.value a with
  | .nan => f.nanResult false [a]
  | .inf neg => ⟨if neg then 0 else f.infBits, 0⟩
  | .fin neg m e => exp2Fin f neg m e

/-- `vflog2` (R279). -/
def Fmt.log2 (f : Fmt) (a : Nat) : Rounded :=
  match f.value a with
  | .nan => f.nanResult false [a]
  | .inf neg => if neg then f.nanResult true [] else ⟨f.infBits, 0⟩
  | .fin neg m e =>
    if m = 0 then ⟨f.signed true f.infBits, fDZ⟩
    else if neg then f.nanResult true []
    else log2Fin f m e

/-- `vftanh` (R279). -/
def Fmt.tanh (f : Fmt) (a : Nat) : Rounded :=
  match f.value a with
  | .nan => f.nanResult false [a]
  | .inf neg => ⟨f.signed neg (f.bias * 2 ^ f.m), 0⟩
  | .fin neg m e => if m = 0 then ⟨f.signed neg 0, 0⟩ else tanhFin f neg m e

/-! ## Element types and conversions (R147, R148, R158) -/

/-- Bytes of an element position by type code (R147). -/
def typeBytes (t : Nat) : Nat :=
  if t < 2 then 1 else if t < 4 then 2 else if t < 6 then 4 else if t < 8 then 8
  else if t < 10 then 2 else if t = 10 then 4 else if t = 11 then 8 else 1

/-- The floating format of a type code; 16 and 17 are the FP6 targets (R280). -/
def fmtOf (t : Nat) : Option Fmt :=
  match t with
  | 8 => some bf16
  | 9 => some f16
  | 10 => some f32
  | 11 => some f64
  | 12 => some e4m3
  | 13 => some e5m2
  | 14 => some e2m1
  | 16 => some e3m2
  | 17 => some e2m3
  | _ => none

/-- A signed integer type. -/
def typeSigned (t : Nat) : Bool := t % 2 == 0

/-- A bit pattern of a width as a signed integer. -/
def toSigned (w x : Nat) : Int := if x % 2 ^ w < 2 ^ (w - 1) then (x % 2 ^ w : Nat) else (x % 2 ^ w : Nat) - (2 ^ w : Nat)

/-- A bit pattern as an integer, by signedness. -/
def asInt (signed : Bool) (w x : Nat) : Int := if signed then toSigned w x else (x % 2 ^ w : Nat)

/-- An integer modulo 2^w. -/
def wrap (w : Nat) (v : Int) : Nat := (v % (2 ^ w : Nat)).toNat

/-- Least and greatest value of an integer type. -/
def intRange (signed : Bool) (w : Nat) : Int × Int :=
  if signed then (-(2 ^ (w - 1) : Nat), (2 ^ (w - 1) : Nat) - 1) else (0, (2 ^ w : Nat) - 1)

/-- An integer clamped to a type's range, with SAT when it was out of it (R148). -/
def clamp (signed : Bool) (w : Nat) (v : Int) : Rounded :=
  let r := intRange signed w
  if v < r.1 then ⟨wrap w r.1, fSAT⟩ else if r.2 < v then ⟨wrap w r.2, fSAT⟩ else ⟨wrap w v, 0⟩

/-- A floating value to an integer type (R158). -/
def toInteger (rm : Nat) (signed : Bool) (w : Nat) (v : Exact) : Rounded :=
  let r := intRange signed w
  match v with
  | .nan => ⟨0, fNV⟩
  | .inf neg => ⟨wrap w (if neg then r.1 else r.2), fNV ||| fSAT⟩
  | .fin neg mag exp =>
    let c := cut mag exp false 0
    let n : Int := c.round rm neg 0
    let n := if neg then -n else n
    if n < r.1 then ⟨wrap w r.1, fNV ||| fSAT⟩
    else if r.2 < n then ⟨wrap w r.2, fNV ||| fSAT⟩
    else ⟨wrap w n, Flags.on fNX (!c.exact)⟩

/-- A floating source value to a floating target (R158): `signalling` says the source is a signalling
NaN. -/
def Fmt.convert (f : Fmt) (rm : Nat) (sat : Bool) (draw : Nat) (signalling : Bool) (v : Exact) : Rounded :=
  match v with
  | .nan => if f.hasNan then ⟨f.qnan, Flags.on fNV signalling⟩ else ⟨0, fNV⟩
  | .inf neg =>
    if f.hasInf && !sat then ⟨f.signed neg f.infBits, 0⟩ else ⟨f.signed neg f.maxFin, fSAT⟩
  | .fin neg mag exp => f.round rm sat draw neg mag exp false

/-- A conversion is stochastic under the stochastic mode (R156): the target is floating and cannot hold
every value of the source type. Codes as in R280; the source is below 15. -/
def isStochastic (src dst : Nat) : Bool :=
  match fmtOf dst with
  | none => false
  | some g =>
    match fmtOf src with
    | some f => src != 14 && (decide (g.e < f.e) || decide (g.m < f.m))
    | none =>
      let w := 8 * typeBytes src
      let bits := if typeSigned src then w - 1 else w
      decide (g.m + 1 < bits)
        || (match g.value g.maxFin with
            | .fin _ m e => (Exact.fin false m e).lt (.fin false (2 ^ bits - (if typeSigned src then 0 else 1)) 0)
            | _ => false)

/-- One element converted from a type to a target (R158, R280): bit pattern in, bit pattern out. -/
def convertElement (src dst rm : Nat) (sat : Bool) (draw x : Nat) : Rounded :=
  let rm := if rm = 5 && !isStochastic src dst then 0 else rm
  match fmtOf src, fmtOf dst with
  | some f, some g => g.convert rm sat draw (f.isSignalling x) (f.value x)
  | some f, none => toInteger rm (typeSigned dst) (8 * typeBytes dst) (f.value x)
  | none, some g =>
    let v := asInt (typeSigned src) (8 * typeBytes src) x
    g.convert rm sat draw false (.fin (decide (v < 0)) v.natAbs 0)
  | none, none =>
    let v := asInt (typeSigned src) (8 * typeBytes src) x
    if sat then clamp (typeSigned dst) (8 * typeBytes dst) v else ⟨wrap (8 * typeBytes dst) v, 0⟩

/-! ## The generator (R160) -/

/-- One step of the LFSR. -/
def stepSeed (x : BitVec 32) : BitVec 32 :=
  if x.getLsbD 0 then (x >>> 1) ^^^ 0x80200003 else x >>> 1

/-- A number of steps of the LFSR. -/
def stepSeeds : Nat → BitVec 32 → BitVec 32
  | 0, x => x
  | n + 1, x => stepSeeds n (stepSeed x)

/-! ## Floating atomics and MX blocks -/

/-- The E8M0 exponent of a scale byte; none for 0xFF (R152). -/
def scaleExp (x : Byte) : Option Int := if x = 0xFF then none else some ((x.toNat : Int) - 127)

end Sys2Proof.Machine
end

