-- ==== Sys2Proof/Machine/Operands.lean ====
section
/-! DEFINITION. The operand forms of slots A, B and C: source codes (R182), destinations (R183), the bypass
latches (R110), readiness (R237) and poison (R404). -/
namespace Sys2Proof.Machine

/-- The read-only values of source codes 56 to 63 (R182). A core without a block has no record to read
its coordinates from: those codes then read a free value. -/
def fixedSource (s : State) (n : Nat) : W64 :=
  let c := s.me
  let coord := fun lo k => match c.blk with
    | some b => BitVec.ofNat 64 (field b.rcd.words[1] lo k)
    | none => Config.idleSource s.tick
  match n with
  | 57 => BitVec.ofNat 64 (coreNum s.here)
  | 58 => BitVec.ofNat 64 (clusterOf s.here)
  | 59 => coord 24 16
  | 60 => coord 12 12
  | 61 => coord 4 8
  | 62 => coord 0 4
  | 63 => c.cycles
  | _ => 0

/-- The value of a source code as the group reads it, with its poison and pending state (R182). -/
def source (s : State) (code : BitVec 6) : Cell64 :=
  let v := s.me.view
  let n := code.toNat
  if n = 0 then Cell64.zero
  else if h : n < 48 then v.s[n]
  else if h : n < 56 then v.l[n - 48]
  else known (fixedSource s n)

/-- The result of a source is ready (R237). -/
def available (s : State) (code : BitVec 6) : Bool := (source s code).pend.isNone

/-- A scalar destination whose earlier result is ready, so that it may be overwritten (R237). -/
def writable (s : State) (d : BitVec 6) : Bool :=
  if h : d.toNat < 48 then s.me.view.s[d.toNat].pend.isNone else true

/-- The latch entry that a shift of the lane drops is ready (R110, R237). -/
def latchFree (s : State) (sl : Lane) : Bool :=
  match sl with
  | .A => s.me.view.l[3].pend.isNone
  | .B => s.me.view.l[7].pend.isNone

/-- An operand used in arithmetic, a compare, an address or a control value: a poisoned one raises POISON
with its source code (R404). -/
def operand (s : State) (w : Site) (code : BitVec 6) : Eff W64 :=
  if (source s code).poison then raisePoison s w code.toNat else .ok (source s code).val

/-- A scalar register written; `s0` and the codes above 47 discard (R183). -/
def Core.setS (c : Core) (d : BitVec 6) (v : Cell64) : Core :=
  if h : d.toNat < 48 then
    if d = 0 then c else { c with r := { c.r with s := c.r.s.set d.toNat v } }
  else c

/-- The latches of a lane shifted (R110). -/
def Core.shift (c : Core) (sl : Lane) (v : Cell64) : Core :=
  let l := c.r.l
  match sl with
  | .A => { c with r := { c.r with l := #v[v, l[0], l[1], l[2], l[4], l[5], l[6], l[7]] } }
  | .B => { c with r := { c.r with l := #v[l[0], l[1], l[2], l[3], v, l[4], l[5], l[6]] } }

/-- A scalar result: the destination written and the lane's latches shifted (R110, R183). -/
def Core.result (c : Core) (sl : Lane) (d : BitVec 6) (v : Cell64) : Core := (c.setS d v).shift sl v

/-- A predicate written: `p0` discards and the path predicates are no destination (R109); the fetch
position of the write is kept for the nullifier (R194). -/
def Core.setP (c : Core) (n : BitVec 4) (b : Bool) : Core :=
  if n = 0 || 11 ≤ n.toNat then c
  else
    let p := c.r.p.toNat - bitsOf c.r.p.toNat n.toNat 1 * 2 ^ n.toNat + ofBool b * 2 ^ n.toNat
    { c with r := { c.r with p := BitVec.ofNat 16 p }, wrote := c.wrote.set n.toFin (c.fetch + 1) }

/-- The registers a scalar operation waits for: its sources, its destination and the latch (R237). -/
def scalarReady (s : State) (sl : Lane) (d : BitVec 6) (srcs : List (BitVec 6)) : Bool :=
  srcs.all (available s) && writable s d && latchFree s sl

/-- A two-source scalar operation (R238). -/
def binary (s : State) (w : Site) (sl : Lane) (d a b : BitVec 6) (f : W64 → W64 → W64) : Eff State := do
  ready (scalarReady s sl d [a, b])
  let x ← operand s w a
  let y ← operand s w b
  return s.setMe (s.me.result sl d (known (f x y)))

/-- A one-source scalar operation (R238). -/
def unary (s : State) (w : Site) (sl : Lane) (d a : BitVec 6) (f : W64 → W64) : Eff State := do
  ready (scalarReady s sl d [a])
  let x ← operand s w a
  return s.setMe (s.me.result sl d (known (f x)))

/-- A compare: P1 receives the relation and P2 its complement (R242). -/
def compare (s : State) (w : Site) (p q : BitVec 4) (a b : BitVec 6) (f : W64 → W64 → Bool) :
    Eff State := do
  ready (available s a && available s b)
  let x ← operand s w a
  let y ← operand s w b
  return s.setMe ((s.me.setP p (f x y)).setP q (!f x y))

/-- An operation on predicates: P1 receives the result and P2 its complement (R243). -/
def predicates (s : State) (p q : BitVec 4) (r : Bool) : Eff State :=
  .ok (s.setMe ((s.me.setP p r).setP q (!r)))

/-- A write of one register from source A that holds no poison bit (R244, R404). -/
def stage (s : State) (w : Site) (a : BitVec 6) (f : W64 → Core → Core) : Eff State := do
  ready (available s a)
  let x ← operand s w a
  return s.setMe (f x s.me)

end Sys2Proof.Machine
end

