-- ==== Sys2Proof/Machine/Scoreboard.lean ====
section
/-! DEFINITION. The scoreboard: the busy bits of R117 and R118, which the accepted commands of a core hold
until they complete; and the charge of a core's cycles (R423, R424). -/
namespace Sys2Proof.Machine

/-- The busy bits that the commands of the transfer, gather and fast-weight engines hold. A group of several
slot words finds its bits as they stood before it: its words take effect only when none was set. -/
def Core.heldBusy (c : Core) : List (Res × Bool) :=
  if c.pre.isSome then [] else c.xq.flatMap (·.busy) ++ c.fq.flatMap (·.busy)

/-- Every busy bit of a core. -/
def Core.busy (c : Core) : List (Res × Bool) :=
  if c.pre.isSome then [] else c.heldBusy ++ c.mq.flatMap (·.busy)

/-- A group that reads a resource does not stall on it (R117). -/
def Core.canRead (c : Core) (r : Res) : Bool := !c.busy.contains (r, true)

/-- A group that writes a resource does not stall on it (R117). -/
def Core.canWrite (c : Core) (r : Res) : Bool := !c.busy.contains (r, true) && !c.busy.contains (r, false)

/-- An M-slot operation may write a tile: the matrix engine applies its own commands in issue order
(R118). -/
def Core.canAccumulate (c : Core) (t : Nat) : Bool :=
  !c.heldBusy.contains (.tile t, true) && !c.busy.contains (.tile t, false)

/-- No scalar result is pending (R267). -/
def Core.settled (c : Core) : Bool :=
  c.view.s.toList.all (fun x => x.pend.isNone) && c.view.l.toList.all fun x => x.pend.isNone

/-- What a leaving group waits for (R119, R267): no busy bit is set and no scalar result is pending. -/
def Core.mayLeave (c : Core) : Bool := c.busy.isEmpty && c.settled

/-! ## Cycles and their charge (R182, R423, R424) -/

/-- The limit on the charge of 128 cycles (R424). -/
def Core.windowLimit (c : Core) : Nat := min (field c.r.clim 0 16) (field c.r.clim 32 16)

/-- The charge of an operation of slot V for each of its pass cycles (R423). -/
def passCharge : Nat := 11

/-- The charges of the last 127 cycles, the latest first, after a number of cycles in which only the engines draw, slot V
among them for the pass cycles that it has left; how many of those were freeze cycles, in which no engine advances; and the
pass cycles left then (R423, R424). -/
def drawn (limit e : Nat) : Nat → Nat → List Nat → List Nat × Nat × Nat
  | 0, v, l => (l, 0, v)
  | n + 1, v, l =>
    let q := if v = 0 then e else e + passCharge
    let frozen := decide (limit < l.foldl (· + ·) 0 + q)
    let r := drawn limit e n (if frozen then v else v - 1) (((if frozen then 0 else q) :: l).take 127)
    (r.1, r.2.1 + if frozen then 1 else 0, r.2.2)

/-- FRZCNT after some freeze cycles (R424, R425). -/
def frozenCount (w : W64) (n : Nat) : W64 :=
  if n = 0 then w else BitVec.ofNat 64 (satAdd (2 ^ 48 - 1) (field w 0 48) n)

/-- Cycles pass on a core in which nothing issues, each with the charge of the engines that work (R182, R424). -/
def Core.age (c : Core) (n e : Nat) : Core :=
  let x := drawn c.windowLimit e n c.vleft c.charge
  { c with
    cycles := c.cycles + BitVec.ofNat 64 n
    charge := x.1
    vleft := x.2.2
    r := { c.r with frzcnt := frozenCount c.r.frzcnt x.2.1 } }

/-- The cycles that have passed on a core that had no turns (R182, R424): their number is free, and nothing drew in them.
DESIGN CHOICE, log entry 4. -/
def Core.idled (c : Core) (tick : Nat) : Core := c.age (Config.extraCycles tick) 0

end Sys2Proof.Machine
end

