-- ==== Sys2Proof/Machine/Staging.lean ====
section
/-! DEFINITION. The operations of slot A alone: staging registers, control registers and time (R235, R244 to R247). -/
namespace Sys2Proof.Machine

/-- Word w of a 256-bit staging register. -/
def word256 (x : BitVec 256) (w : Nat) : W64 := BitVec.ofNat 64 (x.toNat / 2 ^ (64 * w))

/-- A 256-bit staging register with word w replaced. -/
def setWord256 (x : BitVec 256) (w : Nat) (v : W64) : BitVec 256 :=
  BitVec.ofNat 256 (x.toNat - (word256 x w).toNat * 2 ^ (64 * w) + v.toNat * 2 ^ (64 * w))

/-- A vector of registers with one replaced. -/
def setReg {α : Type} {n : Nat} (v : Vector α n) (i : Nat) (x : α) : Vector α n :=
  if h : i < n then v.set i x else v

/-- A register of a vector, or the value given for a number it does not have. -/
def getReg {α : Type} {n : Nat} (v : Vector α n) (i : Nat) (dflt : α) : α :=
  if h : i < n then v[i] else dflt

/-- A code address with bits [1:0] cleared (R186, R244). -/
def codeAddress (x : W64) : W64 := BitVec.ofNat 64 (x.toNat / 4 * 4)

/-- VCFG after a write: any ROWS, COLS, TYPE and MSEL; a reserved RM is left (R113, R114, R11). -/
def Arch.writeVcfg (r : Arch) (x : W64) : Arch :=
  let rm := if 6 ≤ field x 35 3 then field r.vcfg 35 3 else field x 35 3
  { r with vcfg := BitVec.ofNat 64 (rm * 2 ^ 35 + field x 32 3 * 2 ^ 32 + field x 0 30) }

/-! ## Control registers (R245) -/

/-- The CSR numbers of R245. -/
def csrs : List Nat :=
  [0x000, 0x001, 0x002, 0x003, 0x004, 0x005, 0x006, 0x007, 0x008, 0x009, 0x00A, 0x00B, 0x00C, 0x00D, 0x00E,
   0x010, 0x011, 0x020, 0x021, 0x100]

/-- A register with an RK field: a user access raises PRIVILEGE (R8, R245). -/
def csrPrivileged (n : Nat) : Bool := n == 0x020 || n == 0x100

/-- The value `rdsr` reads (R245); TRAPINFO is the copy of the privilege it is read at (R397). -/
def readCsr (s : State) (n : Nat) : W64 :=
  let c := s.me
  let r := c.view
  match n with
  | 0x000 => r.vcfg
  | 0x001 => r.fstat
  | 0x002 => r.srseed.zeroExtend 64
  | 0x003 => r.swz
  | 0x004 => r.waitlim.zeroExtend 64
  | 0x005 => r.cfstat
  | 0x006 => r.tstat
  | 0x007 => r.fwstat
  | 0x008 => r.mactl
  | 0x009 => r.lc[0].zeroExtend 64
  | 0x00A => r.lc[1].zeroExtend 64
  | 0x00B => r.vpat[0]
  | 0x00C => r.vpat[1]
  | 0x00D => r.vpat[2]
  | 0x00E => r.pslost
  | 0x010 => if c.kernel then c.trapK else c.trapU
  | 0x011 => r.uivec
  | 0x020 => r.clim
  | 0x021 => r.frzcnt
  | 0x100 => (s.part (s.partOf s.here)).ctxtab
  | _ => 0

/-- SWZ after a write: a reserved code leaves its region's code (R94).
DEDUCED, log entry 49. -/
def swizzleAfter (old x : W64) : Nat → Nat
  | 0 => 0
  | j + 1 =>
    let v := field x (4 * j) 4
    let v := if v = 0 || (5 ≤ v && v ≤ 10) then v else field old (4 * j) 4
    swizzleAfter old x j + v * 2 ^ (4 * j)

/-- A lane pattern after a write: a reserved KIND is left (R273, R11). -/
def patternAfter (old x : W64) : W64 :=
  let kind := if 5 ≤ field x 0 3 then field old 0 3 else field x 0 3
  BitVec.ofNat 64 (field x 3 5 * 2 ^ 3 + kind)

/-- The registers after a `wrsr` (R245, R8). -/
def Arch.writeCsr (r : Arch) (n : Nat) (x : W64) : Arch :=
  match n with
  | 0x000 => r.writeVcfg x
  | 0x001 => { r with fstat := BitVec.ofNat 64 (field x 14 2 * 2 ^ 14 + field x 0 7) }
  | 0x002 => { r with srseed := if x.truncate 32 = (0 : BitVec 32) then 1 else x.truncate 32 }
  | 0x003 => { r with swz := BitVec.ofNat 64 (swizzleAfter r.swz x 12) }
  | 0x004 => { r with waitlim := x.truncate 32 }
  | 0x005 => { r with cfstat := x }
  | 0x006 => { r with tstat := setField r.tstat 16 16 (field x 16 16) }
  | 0x008 => { r with mactl := BitVec.ofNat 64 (field x 0 1) }
  | 0x009 => { r with lc := r.lc.set 0 (x.truncate 32) }
  | 0x00A => { r with lc := r.lc.set 1 (x.truncate 32) }
  | 0x00B => { r with vpat := r.vpat.set 0 (patternAfter r.vpat[0] x) }
  | 0x00C => { r with vpat := r.vpat.set 1 (patternAfter r.vpat[1] x) }
  | 0x00D => { r with vpat := r.vpat.set 2 (patternAfter r.vpat[2] x) }
  | 0x00E => { r with pslost := x }
  | 0x011 => { r with uivec := BitVec.ofNat 64 (field x 2 55 * 4 + field x 0 1) }
  | 0x020 => { r with clim := setField r.clim 0 16 (max 128 (field x 0 16)) }
  | 0x021 => { r with frzcnt := BitVec.ofNat 64 (field x 0 48) }
  | _ => r

/-- The state after a `wrsr` of any CSR; CTXTAB belongs to the partition (R48). -/
def writeCsr (s : State) (n : Nat) (x : W64) : State :=
  if n = 0x100 then
    let p := s.partOf s.here
    s.setPart p { s.part p with ctxtab := BitVec.ofNat 64 (field x 0 56) }
  else s.setMe { s.me with r := s.me.r.writeCsr n x }

/-- Some access to a core's scratchpad has still to perform: of the core, its engines or a remote requester (R95). -/
def State.spadBusy (s : State) (k : Nat) : Bool :=
  let here := fun (t : Target) => match t with
    | .spad j _ => j == k
    | .mem _ => false
  (s.core k).xq.any (fun x => !(x.rd.isEmpty && x.wr.isEmpty))
    || s.accs.any (fun a => a.undone && a.spans.any fun x => here x.1)
    || s.cores.any fun c => c.2.xq.any fun x => match x.job with
      | some j => (j.rd ++ j.wr).any fun r => here r.piece.target
      | none => false

/-- What a `wrsr` waits for: FSTAT for every atomic reply of the core (R245), SWZ for every earlier access
to the core's scratchpad (R95). -/
def csrReady (s : State) (n : Nat) : Bool :=
  if n = 0x001 then
    s.accs.all fun a => !(a.core == s.here && (match a.kind with | .atomic _ => true | _ => false))
  else n != 0x003 || !s.spadBusy s.here

/-- `rdsr` (R245). -/
def readControl (s : State) (w : Site) (d : BitVec 6) (n : Nat) : Eff State :=
  if !csrs.contains n then raiseIllegal s w
  else if csrPrivileged n && !s.me.kernel then raisePrivilege s w
  else do
    ready (scalarReady s .A d [])
    return s.setMe (s.me.result .A d (known (readCsr s n)))

/-- `wrsr` (R245). -/
def writeControl (s : State) (w : Site) (a : BitVec 6) (n : Nat) : Eff State :=
  if !csrs.contains n then raiseIllegal s w
  else if csrPrivileged n && !s.me.kernel then raisePrivilege s w
  else do
    ready (available s a && csrReady s n)
    let x ← operand s w a
    return writeCsr s n x

/-! ## Meanings -/

/-- `qset` (R244). -/
def execQset (g : Guard) (d a : BitVec 6) (s : State) : Out :=
  let W : Site := ⟨.A, slotWord g 0x40 (place [(d.toNat, 14), (a.toNat, 8)])⟩
  runSlot s g (stage s W a fun x c => { c with r := { c.r with q := setReg c.r.q (d.toNat / 4) (setWord256 (getReg c.r.q (d.toNat / 4) 0) (d.toNat % 4) x) } })

/-- `xset` (R244). -/
def execXset (g : Guard) (d a : BitVec 6) (s : State) : Out :=
  let W : Site := ⟨.A, slotWord g 0x41 (place [(d.toNat, 14), (a.toNat, 8)])⟩
  runSlot s g (stage s W a fun x c => { c with r := { c.r with x := setReg c.r.x (d.toNat / 4) (setWord256 (getReg c.r.x (d.toNat / 4) 0) (d.toNat % 4) x) } })

/-- `hset` (R244, R310). -/
def execHset (g : Guard) (d a : BitVec 6) (s : State) : Out :=
  let W : Site := ⟨.A, slotWord g 0x42 (place [(d.toNat, 14), (a.toNat, 8)])⟩
  runSlot s g (do
    ready (s.me.canWrite (.handle d.toNat))
    stage s W a fun x c => { c with r := { c.r with h := setReg c.r.h d.toNat x } })

/-- `vcfg` (R244, R114). -/
def execVcfg (g : Guard) (a : BitVec 6) (s : State) : Out :=
  let W : Site := ⟨.A, slotWord g 0x43 (place [(a.toNat, 8)])⟩
  runSlot s g (stage s W a fun x c => { c with r := c.r.writeVcfg x })

/-- `btset` with an offset (R244): the bundle's address + 4 * imm14. -/
def execBtsetOffset (g : Guard) (d : BitVec 6) (i : BitVec 14) (s : State) : Out :=
  runSlot s g (.ok (s.setMe { s.me with r := { s.me.r with bt := setReg s.me.r.bt d.toNat (codeAddress (s.me.grp.bundle + i.signExtend 64 * 4)) } }))

/-- `btset` with a register (R244). -/
def execBtsetRegister (g : Guard) (d a : BitVec 6) (s : State) : Out :=
  let W : Site := ⟨.A, slotWord g 0x45 (place [(d.toNat, 14), (a.toNat, 8)])⟩
  runSlot s g (stage s W a fun x c => { c with r := { c.r with bt := setReg c.r.bt d.toNat (codeAddress x) } })

/-- `rdsr` (R245). -/
def execRdsr (g : Guard) (d : BitVec 6) (c : BitVec 14) (s : State) : Out :=
  let W : Site := ⟨.A, slotWord g 0x46 (place [(d.toNat, 14), (c.toNat, 0)])⟩
  runSlot s g (readControl s W d c.toNat)

/-- `wrsr` (R245). -/
def execWrsr (g : Guard) (sr : BitVec 6) (c : BitVec 14) (s : State) : Out :=
  let W : Site := ⟨.A, slotWord g 0x47 (place [(sr.toNat, 14), (c.toNat, 0)])⟩
  runSlot s g (writeControl s W sr c.toNat)

/-- `tread` (R247): device time, zero-extended. -/
def execTread (g : Guard) (d : BitVec 6) (s : State) : Out :=
  runSlot s g (do
    ready (scalarReady s .A d [])
    return s.setMe (s.me.result .A d (known ((s.timeAt (chipOf s.here)).zeroExtend 64))))

end Sys2Proof.Machine
end

