-- ==== Sys2Proof/Machine/LoadStore.lean ====
section
/-! DEFINITION. The operations of slot B alone: loads and stores (R248), full/empty forms (R249), atomics (R250 to R252), fences (R255), `chunk` (R256), barriers (R257, R258), counting flags (R259), futures (R260 to R263) and `xinv` (R264). -/
namespace Sys2Proof.Machine

/-! ## Addresses and local order -/

/-- The address of the SM form: base + offset * N (R181, R248). -/
def effective (x : W64) (o : BitVec 8) (n : Nat) : W64 := x + o.signExtend 64 * BitVec.ofNat 64 n

/-- An extent and a run of bytes share a 256-byte line (R226). -/
def Extent.meets (e : Extent) (off n : Nat) : Bool :=
  e.len != 0 && decide (e.base / 256 ≤ (off + n - 1) / 256) && decide (off / 256 ≤ (e.base + e.len - 1) / 256)

/-- No accepted command has still to write the lines of an access to the core's own scratchpad, nor, for a
write, to read them (R226). -/
def Core.localFree (c : Core) (write : Bool) (off n : Nat) : Bool :=
  c.pre.isSome || c.xq.all fun x => x.wr.all (fun e => !e.meets off n) && (!write || x.rd.all fun e => !e.meets off n)

/-- A local access may perform now: earlier acquires, what the fences in force cover and, for a release at a scope,
every earlier access have performed, no access that counts as performed for this core is still on its way to the bytes,
and no accepted command stands in its way (R226, R253, R255, R334). -/
def State.localReady (s : State) (rel : Option Nat) (write : Bool) (off n : Nat) : Bool :=
  let p := s.partOf s.here
  s.inOrder p s.here s.me.ord
    && (match rel with | some scope => s.performedBefore p s.here s.me.ord scope | none => true)
    && !s.promised p s.here s.me.ord 0 [(.spad s.here off, n)] write && s.me.localFree write off n

/-- A local access performs in that order. -/
def State.localOrder (s : State) (rel : Option Nat) (write : Bool) (off n : Nat) : Eff State := do
  ready (s.localReady rel write off n)
  return s.keepOrder (s.partOf s.here) s.here s.me.ord rel

/-- The launch of the core's block while its shape is open: the block is speculative (R351); a squashed
block stays under the same restrictions until it is cancelled (R375).
DEDUCED, log entry 54. -/
def State.speculative (s : State) : Option Nat :=
  match s.me.blk with
  | none => none
  | some b => if b.squashed then b.rcd.launch else (s.launches.find? fun l => some l.id == b.rcd.launch && l.openShape).map (·.id)

/-- An access that a speculative block may not make holds its group; the group of a squashed block is
cancelled there (R351, R375). -/
def State.commit (s : State) (ok : Bool) : Eff Unit :=
  if ok then .ok () else if s.squashedHere then .error .cancel else hold

/-- A speculative block may make this write: it lies wholly within a retractable allocation of its launch
(R351). -/
def State.mayWrite (s : State) (va : W64) (bytes : Nat) : Bool :=
  match s.speculative with
  | none => true
  | some l => (s.part (s.partOf s.here)).allocs.any fun a =>
      a.ctx == s.me.ctx && (match a.tag with | some t => t.1 == l | none => false)
        && decide (a.addr ≤ va.toNat) && decide (va.toNat + bytes ≤ a.addr + a.len)

/-! ## Where an access goes -/

/-- An access's targets in address order (one, or one for each byte of a bytewise access), the attribute
field of its mapping, its world and its VA. -/
structure Aim where
  targets : List Target
  attr : BitVec 16
  ns : Bool
  va : W64
  deriving DecidableEq, Repr

/-- One translated and checked access (R57 to R66); a walk that meets a poisoned word raises POISON (R23). -/
def reachOne (s : State) (w : Site) (va : W64) (bytes : Nat) (n : Need) : Eff (Target × BitVec 16 × Bool) :=
  match s.reach s.here va bytes n with
  | .hit t attr ns => .ok (t, attr, ns)
  | .miss g => .error (.miss g)
  | .fault k => if kTier ≤ k then raiseAnswer s w cTierUnavailable 0 (BitVec.ofNat 64 (va.toNat / 2 ^ 16 * 2 ^ 16))
      else if k = kPoison then raisePoison s w 0
      else raise s w cXlate k va
  | .world => raise s w cWorld 0 va
  | .privilege => raisePrivilege s w

/-- The aim of a bytewise access: every byte is checked (R248). R57 asks MAP of an access through a CA = 0 mapping that is
not naturally aligned, and R248 makes a misaligned one single-byte accesses: the bytes are what R57 is asked of, so that
they pass.
DESIGN CHOICE, log entry 150. -/
def aimBytes (s : State) (w : Site) (n : Need) : W64 → Nat → Eff Aim
  | va, 0 => .ok ⟨[], spadAttr, false, va⟩
  | va, k + 1 => do
    let (t, attr, ns) ← reachOne s w va 1 n
    let r ← aimBytes s w n (va + 1) k
    return ⟨t :: r.targets, attr, ns || r.ns, va⟩

/-- The aim of an access: MISALIGNED where alignment is required, or MACTL.MAEN = 1 (R248). -/
def aim (s : State) (w : Site) (va : W64) (bytes : Nat) (n : Need) (aligned : Bool) : Eff Aim :=
  if va.toNat % bytes = 0 then do
    let (t, attr, ns) ← reachOne s w va bytes n
    return ⟨[t], attr, ns, va⟩
  else if aligned || bit s.me.view.mactl 0 then raise s w cMisaligned 0 va
  else aimBytes s w n va bytes

/-- The aim of an access to a scratchpad word: a memory-space address raises XLATE with kind MAP (R249,
R260). -/
def aimWord (s : State) (w : Site) (va : W64) (bytes : Nat) : Eff (Nat × Nat × Bool) :=
  if va.toNat % bytes ≠ 0 then raise s w cMisaligned 0 va
  else if va.toNat < 2 ^ 56 then raise s w cXlate kMap va
  else do
    let (t, _, ns) ← reachOne s w va bytes .both
    match t with
    | .spad k off => return (k, off, ns)
    | .mem _ => raise s w cXlate kMap va

/-- The targets lie in the core's own scratchpad: the offset of the first. -/
def Aim.own (a : Aim) (here : Nat) : Option Nat :=
  match a.targets with
  | .spad k off :: r => if k = here ∧ r.all (fun t => match t with | .spad j _ => j == here | .mem _ => false)
      then some off else none
  | _ => none

/-- The pages of an access's target, or of each of its bytes from `va` (R248), are ready: an absent page is awaited, or its failure raises TIER_UNAVAILABLE; a
page that has never been written is placed by its first write (R42, R51). -/
def placePages (w : Site) (va : W64) (attr : BitVec 16) (write : Bool) : State → List Target → Eff State
  | s, [] => .ok s
  | s, .spad _ _ :: r => placePages w (va + 1) attr write s r
  | s, .mem ma :: r =>
    let p := pageOf ma
    let va' := BitVec.ofNat 64 (va.toNat / 2 ^ 16 * 2 ^ 16)
    if regionOf ma ≠ .tiered then placePages w (va + 1) attr write s r
    else if !s.present p then
      if (match s.me.pageFault with | some f => f.1 == p | none => false)
      then raiseAnswer s w cTierUnavailable 0 va' else .error (.absent p attr)
    else if write && (s.page p).tier.isNone then
      match s.placeForWrite p attr with
      | some s' => placePages w (va + 1) attr write s' r
      | none => raiseAnswer s w cTierUnavailable 0 va'
    else placePages w (va + 1) attr write s r

/-! ## Sending -/

/-- The scope of an `.acq` or `.rel` access: system, or domain for an SRAM-window word (R253). -/
def orderScope : Target → Nat
  | .mem _ => 7
  | .spad _ _ => 5

/-- An access of the group in hand, to be sent.
DEDUCED, log entry 45. -/
def newAcc (s : State) (kind : AccKind) (a : Aim) (bytes : Nat) (data data2 : W64) (poison acq rel : Bool) : Acc :=
  let t := a.targets.headD (.mem 0)
  { id := 0, core := s.here, own := s.ownerOf s.here, part := s.partOf s.here, ord := s.me.ord, kind := kind, target := t,
    split := if a.targets.length ≤ 1 then [] else a.targets, attr := a.attr, bytes := bytes, data := data,
    data2 := data2, poison := poison, acq := acq, rel := rel, scope := orderScope t, ns := a.ns,
    held := false, device := !State.attrCA a.attr, since := s.now, phase := .sent, out := false,
    todo := if a.targets.length ≤ 1 then [] else List.range a.targets.length, tag := none, seen := 0, cmd := none, va := a.va }

/-- An access sent; it performs later (R80, R254). -/
def State.send (s : State) (a : Acc) : State :=
  { s with fresh := s.fresh + 1, accs := s.accs ++ [{ a with id := s.fresh }] }

/-- A cell that awaits the reply of the access sent next (R237). -/
def State.promise (s : State) : Cell64 := ⟨0, false, some s.fresh⟩

/-- An access sent whose reply fills the destination and the lane's latch (R237, R110). -/
def sendFor (s : State) (d : BitVec 6) (a : Acc) : State :=
  (s.setMe (s.me.result .B d s.promise)).send a

/-- The answer of the access that the group awaits, sent once (R440); `counts` when the wait counts under
WAITLIM (R98). One that the world check of its target has refused raises WORLD at the group (R67). -/
def ask (s : State) (w : Site) (counts : Bool) (a : Acc) : Eff (W64 × Bool × Bool) :=
  match s.me.awaiting w.slot with
  | none => .error (.send w.slot a)
  | some x =>
    match x.answer with
    | some r => if r.2.2 && r.1 == 2 then raiseAnswer s w cWorld 0 a.va else .ok r
    | none => .error (.stall counts)

/-! ## Loads and stores (R248) -/

/-- A load of N bytes. -/
def loadBytes (s : State) (w : Site) (d b : BitVec 6) (o : BitVec 8) (n : Nat) (acq : Bool) : Eff State := do
  ready (scalarReady s .B d [b])
  let x ← operand s w b
  let va := effective x o n
  let a ← aim s w va n .load false
  match a.own s.here with
  | some off =>
    let s ← s.localOrder none false off n
    let data := s.me.view.spadData off n
    return s.setMe (s.me.result .B d
      ⟨BitVec.ofNat 64 (ofBytes (data.map (·.1))), data.any (·.2), none⟩)
  | none =>
    let s ← placePages w va a.attr false s a.targets
    return sendFor s d (newAcc s .load a n 0 0 false acq false)

/-- A store of N bytes; a poisoned register is stored poisoned (R404). -/
def storeBytes (s : State) (w : Site) (d b : BitVec 6) (o : BitVec 8) (n : Nat) (rel : Bool) : Eff State := do
  ready (available s d && available s b)
  let x ← operand s w b
  let va := effective x o n
  let a ← aim s w va n .store false
  let v := source s d
  match a.own s.here with
  | some off =>
    let s ← s.localOrder (if rel then some 5 else none) true off n
    let data : Data := (toBytes n v.val.toNat).map fun y => (y, v.poison)
    return s.setMe { s.me with r := s.me.r.putSpad off data }
  | none =>
    s.commit (s.mayWrite va n)
    let s ← placePages w va a.attr true s a.targets
    return s.send (newAcc s .store a n v.val 0 v.poison false rel)

/-! ## Full/empty forms (R97 to R99, R249) -/

/-- The form waits for a full word. -/
def waitsFull (op : Nat) : Bool := 0x4C ≤ op && op ≤ 0x4F
/-- The form waits for an empty word. -/
def waitsEmpty (op : Nat) : Bool := op == 0x50 || op == 0x51

/-- A scratchpad word after a full/empty form (R97). -/
def fullEmptyWord (op : Nat) (x : SpWord) (v : W64) (poison : Bool) : SpWord :=
  if op ≤ 0x4D then x
  else if op ≤ 0x4F then { x with full := false }
  else if op ≤ 0x53 then ⟨v, true, poison⟩
  else { x with full := op == 0x54 }

/-- The form may perform on a word (R97). -/
def fullEmptyMay (op : Nat) (x : SpWord) : Bool :=
  (!waitsFull op || x.full) && (!waitsEmpty op || !x.full)

/-- FE_WAIT_LIMIT at an attempt whose limit has passed, else the group waits (R98). -/
def waitHere {α : Type} (s : State) (w : Site) (info : Nat) (v : W64) : Eff α :=
  if s.me.limit then raise s w cWaitLimit info v else .error (.stall true)

/-- A full/empty form: `ldf` and `ldfe` acquire, `ste` and `stf` release (R253). -/
def fullEmpty (s : State) (w : Site) (op : Nat) (dst : Option (BitVec 6)) (src : Option (BitVec 6))
    (b : BitVec 6) (o : BitVec 8) : Eff State := do
  let loads := waitsFull op
  let rel := 0x50 ≤ op && op ≤ 0x53
  ready (available s b && (match src with | some a => available s a | none => true)
    && (match dst with | some d => writable s d && latchFree s .B | none => true))
  let x ← operand s w b
  let va := effective x o 8
  let v : Cell64 := match src with | some a => source s a | none => Cell64.zero
  let (k, off, ns) ← aimWord s w va 8
  let done := fun (s : State) (r : Cell64) => match dst with
    | some d => s.setMe (s.me.result .B d r)
    | none => s
  if k = s.here then
    let s ← s.localOrder (if rel then some (if op % 2 = 1 then 5 else 2) else none) (!loads || 0x4E ≤ op) off 8
    let y := s.me.view.word (off / 8)
    if !fullEmptyMay op y then waitHere s w 0 va
    else
      let s' := s.setMe { s.me with r := s.me.r.setWord (off / 8) (fullEmptyWord op y v.val v.poison) }
      return done s' ⟨y.data, y.poison, none⟩
  else
    s.commit (op ≤ 0x4D || s.mayWrite va 8 && (!loads || s.speculative.isNone))
    let a := { newAcc s (.fullEmpty (BitVec.ofNat 7 op)) ⟨[.spad k off], spadAttr, ns, va⟩ 8 v.val 0 v.poison loads rel
      with scope := if op % 2 = 1 then 5 else 2 }
    if 0x52 ≤ op then return s.send a
    else
      let r ← ask s w true { a with held := true }
      if r.2.2 then raiseAnswer s w cWaitLimit 0 va
      else return done s ⟨r.1, r.2.1, none⟩

/-! ## Atomics (R250 to R252) -/

/-- Bytes of an atomic's word. -/
def atomicBytes (op : Nat) : Nat :=
  if op ≤ 0x69 then (if op % 2 = 0 then 4 else 8) else if op = 0x6B || 0x6E ≤ op then 8 else 4

/-- The new memory value of an atomic and the flags it raises: `old`, operand and comparand. -/
def atomicResult (op old x y : Nat) : Nat × Flags :=
  let w := 8 * atomicBytes op
  let old := old % 2 ^ w
  let x := x % 2 ^ w
  let f := if w = 32 then f32 else f64
  let lessS := decide (toSigned w old < toSigned w x)
  match op / 2 with
  | 0x2B => ((old + x) % 2 ^ w, 0)
  | 0x2C => (old &&& x, 0)
  | 0x2D => (old ||| x, 0)
  | 0x2E => (old ^^^ x, 0)
  | 0x2F => (if lessS then old else x, 0)
  | 0x30 => (if lessS then x else old, 0)
  | 0x31 => (min old x, 0)
  | 0x32 => (max old x, 0)
  | 0x33 => (x, 0)
  | 0x34 => (if old = y % 2 ^ w then x else old, 0)
  | 0x35 => let r := f.add 0 old x; (r.bits, r.flags)
  | 0x36 => let r := f.minMax (op == 0x6D) old x; (r.bits, r.flags)
  | _ => let r := f.minMax (op == 0x6F) old x; (r.bits, r.flags)

/-- A scratchpad word after an atomic at a byte offset in it, with the value it returns, its poison and
the flags: a poisoned word is left and returns its value poisoned (R101). -/
def atomicWord (op : Nat) (z : SpWord) (off x y : Nat) : SpWord × W64 × Bool × Flags :=
  let n := atomicBytes op
  let lo := 8 * (off % 8)
  let old := field z.data lo (8 * n)
  if z.poison then (z, BitVec.ofNat 64 old, true, 0)
  else
    let r := atomicResult op old x y
    ({ z with data := setField z.data lo (8 * n) r.1 }, BitVec.ofNat 64 old, false, r.2)

/-- ORD holds acquire. -/
def ordAcq (r : BitVec 2) : Bool := r.getLsbD 0
/-- ORD holds release. -/
def ordRel (r : BitVec 2) : Bool := r.getLsbD 1

/-- An atomic: Data receives the old value (R251). -/
def atomic (s : State) (w : Site) (op : Nat) (d b : BitVec 6) (r : BitVec 2) (sr : BitVec 6) : Eff State := do
  let cas := op = 0x68 ∨ op = 0x69
  ready (scalarReady s .B d [b, sr] && (!decide cas || available s d))
  let va ← operand s w b
  let x ← operand s w sr
  let y ← if cas then operand s w d else .ok 0
  let n := atomicBytes op
  let a ← aim s w va n .both true
  match a.own s.here with
  | some off =>
    let s ← s.localOrder (if ordRel r then some 5 else none) true off n
    let (z, old, bad, fl) := atomicWord op (s.me.view.word (off / 8)) off x.toNat y.toNat
    let c := s.me.result .B d ⟨old, bad, none⟩
    return s.setMe { c with r := (c.r.setWord (off / 8) z).accrue fl }
  | none =>
    s.commit (s.mayWrite va n)
    let s ← placePages w va a.attr true s a.targets
    return sendFor s d (newAcc s (.atomic (BitVec.ofNat 7 op)) a n x y false (ordAcq r) (ordRel r))

/-- What `chunk` returns and word 0 after it (R256). -/
def chunkStep (w0 w1 : Nat) : Nat × Nat :=
  let next := bitsOf w0 0 32
  let end_ := bitsOf w0 32 32
  let p := max (bitsOf w1 0 16) 1
  let mn := max (bitsOf w1 16 16) 1
  let rem := end_ - next
  let cnt := if rem = 0 then 0 else min rem (max mn ((rem + 2 * p - 1) / (2 * p)))
  (cnt * 2 ^ 32 + next, end_ * 2 ^ 32 + next + cnt)

/-- `chunk` (R256). -/
def chunkAt (s : State) (w : Site) (d b : BitVec 6) (r : BitVec 2) : Eff State := do
  ready (scalarReady s .B d [b])
  let va ← operand s w b
  let a ← aim s w va 16 .both true
  match a.own s.here with
  | some off =>
    let s ← s.localOrder (if ordRel r then some 5 else none) true off 16
    let x := s.me.view.word (off / 8)
    let y := s.me.view.word (off / 8 + 1)
    let q := chunkStep x.data.toNat y.data.toNat
    let bad := x.poison || y.poison
    let c := s.me.result .B d ⟨BitVec.ofNat 64 q.1, bad, none⟩
    return s.setMe (if bad then c else
      { c with r := c.r.setWord (off / 8) { x with data := BitVec.ofNat 64 q.2 } })
  | none =>
    s.commit (s.mayWrite va 16)
    let s ← placePages w va a.attr true s a.targets
    return sendFor s d (newAcc s .chunk a 16 0 0 false (ordAcq r) (ordRel r))

/-! ## Fences (R255) -/

/-- `fence`: accesses of later groups wait for those of earlier groups. -/
def fenceAt (s : State) (scope : Nat) : Eff State :=
  .ok (s.setMe { s.me with fences := s.me.fences ++ [(s.me.ord, scope)] })

/-- `drain`: the group waits until the accesses of earlier groups have completed (R81, R255); a write to the host address
space performs at host scope only once the host link reports it, and a drain of a narrower scope does not wait for that:
the write counts as performed for the agents of the drain's scope (R334). -/
def drainAt (s : State) (scope : Nat) : Eff State := do
  let p := s.partOf s.here
  let far := fun (a : Acc) => decide (scope < 6) && a.kind == .store && match a.target with
    | .mem ma => regionOf ma == .host
    | .spad _ _ => false
  ready ((s.earlier p s.here s.me.ord).all (fun a => far a && (a.countsAt scope || s.mayPromise a))
    && s.me.xq.all (fun x => decide (s.me.ord ≤ x.ord) || x.remoteDone s.here)
    && s.posts.all fun x => !(x.src == s.here && x.part == p && decide (x.ord < s.me.ord)))
  return s.promiseBefore p s.here s.me.ord scope

/-! ## Barriers and counting flags (R257 to R259) -/

/-- A descriptor whose HOME lies outside the limits of R46 or the domain raises XLATE with kind SRAMWIN.
DEDUCED, log entry 128. -/
def homeOf (s : State) (w : Site) (x : W64) : Eff Nat :=
  match coreNamed x with
  | some k => if s.member (chipOf s.here) (chipOf k) then .ok k else raise s w cXlate kSramwin x
  | none => raise s w cXlate kSramwin x

/-- A barrier operation: the home core's answer is awaited. -/
def barrierAt (s : State) (w : Site) (kind : AccKind) (a b : BitVec 6) (dst : Option (BitVec 6)) : Eff State := do
  ready (available s a && available s b
    && (match dst with | some d => writable s d && latchFree s .B | none => true))
  let x ← operand s w a
  let y ← operand s w b
  if field x 56 8 != 0 || field x 32 4 != 0 || field x 3 8 != 0 then raiseIllegal s w
  else
    let k ← homeOf s w x
    let bar := field x 11 5
    let arrives := kind != .await
    let acc := { newAcc s kind ⟨[.spad k bar], spadAttr, s.worldOf s.here, x⟩ 0 (BitVec.ofNat 64 (field x 16 16)) y false
        (kind != .arrive) arrives with scope := field x 0 3, held := true }
    let r ← ask s w (kind != .arrive) acc
    if r.2.2 then
      if r.1 = 0 then raiseAnswer s w cBarrierMisuse 0 x else raiseAnswer s w cWaitLimit 2 x
    else match dst with
      | some d => return s.setMe (s.me.result .B d ⟨r.1, r.2.1, none⟩)
      | none => return s

/-- `cfset` (R259). -/
def setFlag (s : State) (w : Site) (n : Nat) (a : BitVec 6) : Eff State := do
  ready (available s a)
  let x ← operand s w a
  let c := s.me
  return s.setMe { c with r := { c.r with
    cf := setReg c.r.cf n (BitVec.ofNat 16 (min 0xFFFF x.toNat))
    cfstat := setField c.r.cfstat (4 * n) 4 0 } }

/-- `cfrd` (R259). -/
def readFlag (s : State) (d : BitVec 6) (n : Nat) : Eff State := do
  ready (scalarReady s .B d [])
  let r := s.me.view
  return s.setMe (s.me.result .B d
    (known (BitVec.ofNat 64 (field r.cfstat (4 * n) 4 * 2 ^ 16 + (getReg r.cf n 0).toNat))))

/-- `cfadd` (R259): the post is sent, and arrives after the accesses it releases. -/
def addFlag (s : State) (w : Site) (a b : BitVec 6) : Eff State := do
  ready (available s a && available s b)
  let x ← operand s w a
  let y ← operand s w b
  if field x 56 8 != 0 || field x 3 29 != 0 then raiseIllegal s w
  else
    let k ← homeOf s w x
    s.commit s.speculative.isNone
    return s.sendPost (s.partOf s.here) s.here k (BitVec.ofNat 4 (field x 32 4)) y.toNat 0 s.me.ord (field x 0 3)

/-! ## Futures (R260 to R263) -/

/-- `fres`, and the resolution of `end.f`, whose block ends: the answer of the future's bank is awaited. -/
def resolveAt (s : State) (w : Site) (a : W64) (v : W64) (ends : Bool) : Eff State := do
  let (k, off, ns) ← aimWord s w a 16
  s.commit s.speculative.isNone
  ready (k != s.here || s.me.localFree true off 16)
  let acc := { newAcc s .resolve ⟨[.spad k off], spadAttr, ns, a⟩ 16 v (if ends then 4 else 2) false false true
    with scope := scopeOf s.here k, held := true }
  let r ← ask s w false acc
  if r.2.2 then raiseAnswer s w cDoubleResolve 0 a else return s

/-- `fjoin` (R262). -/
def joinAt (s : State) (w : Site) (d a b : BitVec 6) : Eff State := do
  ready (scalarReady s .B d [a, b])
  let x ← operand s w a
  let y ← operand s w b
  let (k, off, ns) ← aimWord s w x 16
  let _ ← aimWord s w y 8
  s.commit s.speculative.isNone
  ready (k != s.here || s.me.localFree true off 16)
  let acc := { newAcc s .join ⟨[.spad k off], spadAttr, ns, x⟩ 16 y 0 false true false
    with scope := scopeOf s.here k, held := true }
  let r ← ask s w false acc
  return s.setMe (s.me.result .B d ⟨r.1, r.2.1, none⟩)

/-- `fpoll` (R263).
DEDUCED, log entry 48. -/
def pollAt (s : State) (w : Site) (d a : BitVec 6) : Eff State := do
  ready (scalarReady s .B d [a])
  let x ← operand s w a
  let (k, off, ns) ← aimWord s w x 16
  if k = s.here then
    let s ← s.localOrder none false off 16
    let z := s.me.view.word (off / 8)
    return s.setMe (s.me.result .B d ⟨BitVec.ofNat 64 (field z.data 62 2), z.poison, none⟩)
  else
    return sendFor s d
      { newAcc s .poll ⟨[.spad k off], spadAttr, ns, x⟩ 16 0 0 false true false with scope := scopeOf s.here k }

/-! ## Translation maintenance (R62, R264) -/

/-- A cached translation is selected (R62, R264). -/
def selected (part : Nat) (x y : W64) (e : XEntry) : Bool :=
  let ctx := BitVec.ofNat 12 (field x 16 12)
  match field x 4 2 with
  | 0 => true
  | 1 => e.part == part && e.ctx == ctx
  | 2 => e.part == part && e.ctx == ctx && decide (y.toNat / 2 ^ 16 * 2 ^ 16 ≤ e.last)
      && decide (e.first < (y.toNat / 2 ^ 16 + field x 32 32) * 2 ^ 16)
  | _ => State.resolves e (pageOf (y.toNat % 2 ^ 56))

/-- Cached code is selected: all of it, that of a context, or that of a range of it; for a memory page, all
of it. -/
def codeSelected (part : Nat) (x y : W64) (l : CodeLine) : Bool :=
  let ctx := BitVec.ofNat 12 (field x 16 12)
  match field x 4 2 with
  | 1 => l.part == part && l.ctx == ctx
  | 2 => l.part == part && l.ctx == ctx && decide (y.toNat / 2 ^ 16 ≤ (l.va + 31) / 2 ^ 16)
      && decide (l.va / 2 ^ 16 < y.toNat / 2 ^ 16 + field x 32 32)
  | _ => true

/-- `xinv`: PRIVILEGE at user privilege; the group waits until the accesses in flight have performed, those of the other
cores of the cluster among them that an entry of its shared cache may have translated; then the selected translations, and
code, are dropped. -/
def invalidate (s : State) (w : Site) (a b : BitVec 6) : Eff State := do
  if !s.me.kernel then raisePrivilege s w
  ready (available s a && available s b)
  let x ← operand s w a
  let y ← operand s w b
  let scope := field x 0 3
  if field x 28 4 != 0 || field x 9 7 != 0 || field x 6 2 != 0 || field x 3 1 != 0 || scope = 0 || 5 < scope
      || (field x 4 2 == 2 && field x 32 32 == 0) then raiseIllegal s w
  else
    let inside := s.inScope scope s.here
    let part := s.partOf s.here
    let shared := fun (j : Nat) => clusterOf j == clusterOf s.here
    let dropped := (s.cluster (clusterOf s.here)).cache.filter (selected part x y)
    ready (s.allCount part s.here s.me.ord scope && s.accs.all (fun z =>
      !(inside z.core && z.phase == .sent && (match z.target with | .mem _ => true | .spad _ _ => false)))
      && s.cores.all fun c => !inside c.1 || c.2.xq.all fun x => (x.spans.1 ++ x.spans.2).all fun t => match t.1 with
        | .mem _ => false
        | .spad _ _ => true)
    ready (s.accs.all (fun z => !(shared z.core && z.phase == .sent && dropped.any fun e => e.covers z.part z.own.ctx z.va.toNat))
      && s.cores.all fun c => !shared c.1 || c.2.xq.all fun x => (x.spans.1 ++ x.spans.2).isEmpty
        || x.tlb.all fun e => dropped.all fun d => !d.same e)
    let held := fun cl => if scope = 1 then cl == clusterOf s.here else inside (coreAt cl 0)
    let s := (s.purge inside held (selected part x y)).purgeCmds inside (selected part x y)
    if bit x 8 then
      return { s with
        cores := s.cores.map fun p =>
          (p.1, if inside p.1 then { p.2 with icache := p.2.icache.filter fun l => !codeSelected part x y l } else p.2)
        clusters := s.clusters.map fun p =>
          (p.1, if held p.1 then { p.2 with code := p.2.code.filter fun l => !codeSelected part x y l } else p.2) }
    else return s

/-! ## Meanings -/

/-- `ld.1` (R248). -/
def execLd1 (g : Guard) (d b : BitVec 6) (o : BitVec 8) (s : State) : Out :=
  let W : Site := ⟨.B, slotWord g 0x40 (place [(d.toNat, 14), (b.toNat, 8), (o.toNat, 0)])⟩
  runSlot s g (loadBytes s W d b o 1 false)

/-- `ld.2` (R248). -/
def execLd2 (g : Guard) (d b : BitVec 6) (o : BitVec 8) (s : State) : Out :=
  let W : Site := ⟨.B, slotWord g 0x41 (place [(d.toNat, 14), (b.toNat, 8), (o.toNat, 0)])⟩
  runSlot s g (loadBytes s W d b o 2 false)

/-- `ld.4` (R248). -/
def execLd4 (g : Guard) (d b : BitVec 6) (o : BitVec 8) (s : State) : Out :=
  let W : Site := ⟨.B, slotWord g 0x42 (place [(d.toNat, 14), (b.toNat, 8), (o.toNat, 0)])⟩
  runSlot s g (loadBytes s W d b o 4 false)

/-- `ld` (R248). -/
def execLd (g : Guard) (d b : BitVec 6) (o : BitVec 8) (s : State) : Out :=
  let W : Site := ⟨.B, slotWord g 0x43 (place [(d.toNat, 14), (b.toNat, 8), (o.toNat, 0)])⟩
  runSlot s g (loadBytes s W d b o 8 false)

/-- `ld.4.acq` (R248, R253). -/
def execLd4Acq (g : Guard) (d b : BitVec 6) (o : BitVec 8) (s : State) : Out :=
  let W : Site := ⟨.B, slotWord g 0x44 (place [(d.toNat, 14), (b.toNat, 8), (o.toNat, 0)])⟩
  runSlot s g (loadBytes s W d b o 4 true)

/-- `ld.acq` (R248, R253). -/
def execLdAcq (g : Guard) (d b : BitVec 6) (o : BitVec 8) (s : State) : Out :=
  let W : Site := ⟨.B, slotWord g 0x45 (place [(d.toNat, 14), (b.toNat, 8), (o.toNat, 0)])⟩
  runSlot s g (loadBytes s W d b o 8 true)

/-- `st.1` (R248). -/
def execSt1 (g : Guard) (d b : BitVec 6) (o : BitVec 8) (s : State) : Out :=
  let W : Site := ⟨.B, slotWord g 0x46 (place [(d.toNat, 14), (b.toNat, 8), (o.toNat, 0)])⟩
  runSlot s g (storeBytes s W d b o 1 false)

/-- `st.2` (R248). -/
def execSt2 (g : Guard) (d b : BitVec 6) (o : BitVec 8) (s : State) : Out :=
  let W : Site := ⟨.B, slotWord g 0x47 (place [(d.toNat, 14), (b.toNat, 8), (o.toNat, 0)])⟩
  runSlot s g (storeBytes s W d b o 2 false)

/-- `st.4` (R248). -/
def execSt4 (g : Guard) (d b : BitVec 6) (o : BitVec 8) (s : State) : Out :=
  let W : Site := ⟨.B, slotWord g 0x48 (place [(d.toNat, 14), (b.toNat, 8), (o.toNat, 0)])⟩
  runSlot s g (storeBytes s W d b o 4 false)

/-- `st` (R248). -/
def execSt (g : Guard) (d b : BitVec 6) (o : BitVec 8) (s : State) : Out :=
  let W : Site := ⟨.B, slotWord g 0x49 (place [(d.toNat, 14), (b.toNat, 8), (o.toNat, 0)])⟩
  runSlot s g (storeBytes s W d b o 8 false)

/-- `st.4.rel` (R248, R253). -/
def execSt4Rel (g : Guard) (d b : BitVec 6) (o : BitVec 8) (s : State) : Out :=
  let W : Site := ⟨.B, slotWord g 0x4A (place [(d.toNat, 14), (b.toNat, 8), (o.toNat, 0)])⟩
  runSlot s g (storeBytes s W d b o 4 true)

/-- `st.rel` (R248, R253). -/
def execStRel (g : Guard) (d b : BitVec 6) (o : BitVec 8) (s : State) : Out :=
  let W : Site := ⟨.B, slotWord g 0x4B (place [(d.toNat, 14), (b.toNat, 8), (o.toNat, 0)])⟩
  runSlot s g (storeBytes s W d b o 8 true)

/-- `ldf` (R97, R249, R253). -/
def execLdf (g : Guard) (d b : BitVec 6) (o : BitVec 8) (s : State) : Out :=
  let W : Site := ⟨.B, slotWord g 0x4C (place [(d.toNat, 14), (b.toNat, 8), (o.toNat, 0)])⟩
  runSlot s g (fullEmpty s W 0x4C (some d) none b o)

/-- `ldf.dom` (R97, R249, R253). -/
def execLdfDom (g : Guard) (d b : BitVec 6) (o : BitVec 8) (s : State) : Out :=
  let W : Site := ⟨.B, slotWord g 0x4D (place [(d.toNat, 14), (b.toNat, 8), (o.toNat, 0)])⟩
  runSlot s g (fullEmpty s W 0x4D (some d) none b o)

/-- `ldfe` (R97, R249, R253). -/
def execLdfe (g : Guard) (d b : BitVec 6) (o : BitVec 8) (s : State) : Out :=
  let W : Site := ⟨.B, slotWord g 0x4E (place [(d.toNat, 14), (b.toNat, 8), (o.toNat, 0)])⟩
  runSlot s g (fullEmpty s W 0x4E (some d) none b o)

/-- `ldfe.dom` (R97, R249, R253). -/
def execLdfeDom (g : Guard) (d b : BitVec 6) (o : BitVec 8) (s : State) : Out :=
  let W : Site := ⟨.B, slotWord g 0x4F (place [(d.toNat, 14), (b.toNat, 8), (o.toNat, 0)])⟩
  runSlot s g (fullEmpty s W 0x4F (some d) none b o)

/-- `ste` (R97, R249, R253). -/
def execSte (g : Guard) (d b : BitVec 6) (o : BitVec 8) (s : State) : Out :=
  let W : Site := ⟨.B, slotWord g 0x50 (place [(d.toNat, 14), (b.toNat, 8), (o.toNat, 0)])⟩
  runSlot s g (fullEmpty s W 0x50 none (some d) b o)

/-- `ste.dom` (R97, R249, R253). -/
def execSteDom (g : Guard) (d b : BitVec 6) (o : BitVec 8) (s : State) : Out :=
  let W : Site := ⟨.B, slotWord g 0x51 (place [(d.toNat, 14), (b.toNat, 8), (o.toNat, 0)])⟩
  runSlot s g (fullEmpty s W 0x51 none (some d) b o)

/-- `stf` (R97, R249, R253). -/
def execStf (g : Guard) (d b : BitVec 6) (o : BitVec 8) (s : State) : Out :=
  let W : Site := ⟨.B, slotWord g 0x52 (place [(d.toNat, 14), (b.toNat, 8), (o.toNat, 0)])⟩
  runSlot s g (fullEmpty s W 0x52 none (some d) b o)

/-- `stf.dom` (R97, R249, R253). -/
def execStfDom (g : Guard) (d b : BitVec 6) (o : BitVec 8) (s : State) : Out :=
  let W : Site := ⟨.B, slotWord g 0x53 (place [(d.toNat, 14), (b.toNat, 8), (o.toNat, 0)])⟩
  runSlot s g (fullEmpty s W 0x53 none (some d) b o)

/-- `feset` (R97, R249, R253). -/
def execFeset (g : Guard) (b : BitVec 6) (o : BitVec 8) (s : State) : Out :=
  let W : Site := ⟨.B, slotWord g 0x54 (place [(b.toNat, 8), (o.toNat, 0)])⟩
  runSlot s g (fullEmpty s W 0x54 none none b o)

/-- `feclr` (R97, R249, R253). -/
def execFeclr (g : Guard) (b : BitVec 6) (o : BitVec 8) (s : State) : Out :=
  let W : Site := ⟨.B, slotWord g 0x55 (place [(b.toNat, 8), (o.toNat, 0)])⟩
  runSlot s g (fullEmpty s W 0x55 none none b o)

/-- `aadd.4` (R250, R251). -/
def execAadd4 (g : Guard) (d b : BitVec 6) (r : BitVec 2) (sr : BitVec 6) (s : State) : Out :=
  let W : Site := ⟨.B, slotWord g 0x56 (place [(d.toNat, 14), (b.toNat, 8), (r.toNat, 6), (sr.toNat, 0)])⟩
  runSlot s g (atomic s W 0x56 d b r sr)

/-- `aadd` (R250, R251). -/
def execAadd (g : Guard) (d b : BitVec 6) (r : BitVec 2) (sr : BitVec 6) (s : State) : Out :=
  let W : Site := ⟨.B, slotWord g 0x57 (place [(d.toNat, 14), (b.toNat, 8), (r.toNat, 6), (sr.toNat, 0)])⟩
  runSlot s g (atomic s W 0x57 d b r sr)

/-- `aand.4` (R250, R251). -/
def execAand4 (g : Guard) (d b : BitVec 6) (r : BitVec 2) (sr : BitVec 6) (s : State) : Out :=
  let W : Site := ⟨.B, slotWord g 0x58 (place [(d.toNat, 14), (b.toNat, 8), (r.toNat, 6), (sr.toNat, 0)])⟩
  runSlot s g (atomic s W 0x58 d b r sr)

/-- `aand` (R250, R251). -/
def execAand (g : Guard) (d b : BitVec 6) (r : BitVec 2) (sr : BitVec 6) (s : State) : Out :=
  let W : Site := ⟨.B, slotWord g 0x59 (place [(d.toNat, 14), (b.toNat, 8), (r.toNat, 6), (sr.toNat, 0)])⟩
  runSlot s g (atomic s W 0x59 d b r sr)

/-- `aor.4` (R250, R251). -/
def execAor4 (g : Guard) (d b : BitVec 6) (r : BitVec 2) (sr : BitVec 6) (s : State) : Out :=
  let W : Site := ⟨.B, slotWord g 0x5A (place [(d.toNat, 14), (b.toNat, 8), (r.toNat, 6), (sr.toNat, 0)])⟩
  runSlot s g (atomic s W 0x5A d b r sr)

/-- `aor` (R250, R251). -/
def execAor (g : Guard) (d b : BitVec 6) (r : BitVec 2) (sr : BitVec 6) (s : State) : Out :=
  let W : Site := ⟨.B, slotWord g 0x5B (place [(d.toNat, 14), (b.toNat, 8), (r.toNat, 6), (sr.toNat, 0)])⟩
  runSlot s g (atomic s W 0x5B d b r sr)

/-- `axor.4` (R250, R251). -/
def execAxor4 (g : Guard) (d b : BitVec 6) (r : BitVec 2) (sr : BitVec 6) (s : State) : Out :=
  let W : Site := ⟨.B, slotWord g 0x5C (place [(d.toNat, 14), (b.toNat, 8), (r.toNat, 6), (sr.toNat, 0)])⟩
  runSlot s g (atomic s W 0x5C d b r sr)

/-- `axor` (R250, R251). -/
def execAxor (g : Guard) (d b : BitVec 6) (r : BitVec 2) (sr : BitVec 6) (s : State) : Out :=
  let W : Site := ⟨.B, slotWord g 0x5D (place [(d.toNat, 14), (b.toNat, 8), (r.toNat, 6), (sr.toNat, 0)])⟩
  runSlot s g (atomic s W 0x5D d b r sr)

/-- `amin.4` (R250, R251). -/
def execAmin4 (g : Guard) (d b : BitVec 6) (r : BitVec 2) (sr : BitVec 6) (s : State) : Out :=
  let W : Site := ⟨.B, slotWord g 0x5E (place [(d.toNat, 14), (b.toNat, 8), (r.toNat, 6), (sr.toNat, 0)])⟩
  runSlot s g (atomic s W 0x5E d b r sr)

/-- `amin` (R250, R251). -/
def execAmin (g : Guard) (d b : BitVec 6) (r : BitVec 2) (sr : BitVec 6) (s : State) : Out :=
  let W : Site := ⟨.B, slotWord g 0x5F (place [(d.toNat, 14), (b.toNat, 8), (r.toNat, 6), (sr.toNat, 0)])⟩
  runSlot s g (atomic s W 0x5F d b r sr)

/-- `amax.4` (R250, R251). -/
def execAmax4 (g : Guard) (d b : BitVec 6) (r : BitVec 2) (sr : BitVec 6) (s : State) : Out :=
  let W : Site := ⟨.B, slotWord g 0x60 (place [(d.toNat, 14), (b.toNat, 8), (r.toNat, 6), (sr.toNat, 0)])⟩
  runSlot s g (atomic s W 0x60 d b r sr)

/-- `amax` (R250, R251). -/
def execAmax (g : Guard) (d b : BitVec 6) (r : BitVec 2) (sr : BitVec 6) (s : State) : Out :=
  let W : Site := ⟨.B, slotWord g 0x61 (place [(d.toNat, 14), (b.toNat, 8), (r.toNat, 6), (sr.toNat, 0)])⟩
  runSlot s g (atomic s W 0x61 d b r sr)

/-- `aminn.4` (R250, R251). -/
def execAminn4 (g : Guard) (d b : BitVec 6) (r : BitVec 2) (sr : BitVec 6) (s : State) : Out :=
  let W : Site := ⟨.B, slotWord g 0x62 (place [(d.toNat, 14), (b.toNat, 8), (r.toNat, 6), (sr.toNat, 0)])⟩
  runSlot s g (atomic s W 0x62 d b r sr)

/-- `aminn` (R250, R251). -/
def execAminn (g : Guard) (d b : BitVec 6) (r : BitVec 2) (sr : BitVec 6) (s : State) : Out :=
  let W : Site := ⟨.B, slotWord g 0x63 (place [(d.toNat, 14), (b.toNat, 8), (r.toNat, 6), (sr.toNat, 0)])⟩
  runSlot s g (atomic s W 0x63 d b r sr)

/-- `amaxn.4` (R250, R251). -/
def execAmaxn4 (g : Guard) (d b : BitVec 6) (r : BitVec 2) (sr : BitVec 6) (s : State) : Out :=
  let W : Site := ⟨.B, slotWord g 0x64 (place [(d.toNat, 14), (b.toNat, 8), (r.toNat, 6), (sr.toNat, 0)])⟩
  runSlot s g (atomic s W 0x64 d b r sr)

/-- `amaxn` (R250, R251). -/
def execAmaxn (g : Guard) (d b : BitVec 6) (r : BitVec 2) (sr : BitVec 6) (s : State) : Out :=
  let W : Site := ⟨.B, slotWord g 0x65 (place [(d.toNat, 14), (b.toNat, 8), (r.toNat, 6), (sr.toNat, 0)])⟩
  runSlot s g (atomic s W 0x65 d b r sr)

/-- `axchg.4` (R250, R251). -/
def execAxchg4 (g : Guard) (d b : BitVec 6) (r : BitVec 2) (sr : BitVec 6) (s : State) : Out :=
  let W : Site := ⟨.B, slotWord g 0x66 (place [(d.toNat, 14), (b.toNat, 8), (r.toNat, 6), (sr.toNat, 0)])⟩
  runSlot s g (atomic s W 0x66 d b r sr)

/-- `axchg` (R250, R251). -/
def execAxchg (g : Guard) (d b : BitVec 6) (r : BitVec 2) (sr : BitVec 6) (s : State) : Out :=
  let W : Site := ⟨.B, slotWord g 0x67 (place [(d.toNat, 14), (b.toNat, 8), (r.toNat, 6), (sr.toNat, 0)])⟩
  runSlot s g (atomic s W 0x67 d b r sr)

/-- `acas.4` (R250, R251). -/
def execAcas4 (g : Guard) (d b : BitVec 6) (r : BitVec 2) (sr : BitVec 6) (s : State) : Out :=
  let W : Site := ⟨.B, slotWord g 0x68 (place [(d.toNat, 14), (b.toNat, 8), (r.toNat, 6), (sr.toNat, 0)])⟩
  runSlot s g (atomic s W 0x68 d b r sr)

/-- `acas` (R250, R251). -/
def execAcas (g : Guard) (d b : BitVec 6) (r : BitVec 2) (sr : BitVec 6) (s : State) : Out :=
  let W : Site := ⟨.B, slotWord g 0x69 (place [(d.toNat, 14), (b.toNat, 8), (r.toNat, 6), (sr.toNat, 0)])⟩
  runSlot s g (atomic s W 0x69 d b r sr)

/-- `afadd.f32` (R250, R251). -/
def execAfaddF32 (g : Guard) (d b : BitVec 6) (r : BitVec 2) (sr : BitVec 6) (s : State) : Out :=
  let W : Site := ⟨.B, slotWord g 0x6A (place [(d.toNat, 14), (b.toNat, 8), (r.toNat, 6), (sr.toNat, 0)])⟩
  runSlot s g (atomic s W 0x6A d b r sr)

/-- `afadd.f64` (R250, R251). -/
def execAfaddF64 (g : Guard) (d b : BitVec 6) (r : BitVec 2) (sr : BitVec 6) (s : State) : Out :=
  let W : Site := ⟨.B, slotWord g 0x6B (place [(d.toNat, 14), (b.toNat, 8), (r.toNat, 6), (sr.toNat, 0)])⟩
  runSlot s g (atomic s W 0x6B d b r sr)

/-- `afmin.f32` (R250, R251, R252). -/
def execAfminF32 (g : Guard) (d b : BitVec 6) (r : BitVec 2) (sr : BitVec 6) (s : State) : Out :=
  let W : Site := ⟨.B, slotWord g 0x6C (place [(d.toNat, 14), (b.toNat, 8), (r.toNat, 6), (sr.toNat, 0)])⟩
  runSlot s g (atomic s W 0x6C d b r sr)

/-- `afmax.f32` (R250, R251, R252). -/
def execAfmaxF32 (g : Guard) (d b : BitVec 6) (r : BitVec 2) (sr : BitVec 6) (s : State) : Out :=
  let W : Site := ⟨.B, slotWord g 0x6D (place [(d.toNat, 14), (b.toNat, 8), (r.toNat, 6), (sr.toNat, 0)])⟩
  runSlot s g (atomic s W 0x6D d b r sr)

/-- `afmin.f64` (R250, R251, R252). -/
def execAfminF64 (g : Guard) (d b : BitVec 6) (r : BitVec 2) (sr : BitVec 6) (s : State) : Out :=
  let W : Site := ⟨.B, slotWord g 0x6E (place [(d.toNat, 14), (b.toNat, 8), (r.toNat, 6), (sr.toNat, 0)])⟩
  runSlot s g (atomic s W 0x6E d b r sr)

/-- `afmax.f64` (R250, R251, R252). -/
def execAfmaxF64 (g : Guard) (d b : BitVec 6) (r : BitVec 2) (sr : BitVec 6) (s : State) : Out :=
  let W : Site := ⟨.B, slotWord g 0x6F (place [(d.toNat, 14), (b.toNat, 8), (r.toNat, 6), (sr.toNat, 0)])⟩
  runSlot s g (atomic s W 0x6F d b r sr)

/-- `chunk` (R256). -/
def execChunk (g : Guard) (d b : BitVec 6) (r : BitVec 2) (s : State) : Out :=
  let W : Site := ⟨.B, slotWord g 0x70 (place [(d.toNat, 14), (b.toNat, 8), (r.toNat, 6)])⟩
  runSlot s g (chunkAt s W d b r)

/-- `fence` (R255); a scope code of 8 or more is no instruction. -/
def execFence (g : Guard) (i : BitVec 14) (s : State) : Out :=
  let W : Site := ⟨.B, slotWord g 0x71 (place [(i.toNat, 0)])⟩
  runSlot s g (if 8 ≤ i.toNat then raiseIllegal s W else fenceAt s i.toNat)

/-- `drain` (R255); a scope code of 8 or more is no instruction. -/
def execDrain (g : Guard) (i : BitVec 14) (s : State) : Out :=
  let W : Site := ⟨.B, slotWord g 0x72 (place [(i.toNat, 0)])⟩
  runSlot s g (if 8 ≤ i.toNat then raiseIllegal s W else drainAt s i.toNat)

/-- `bar.arr` (R257, R258). -/
def execBarArr (g : Guard) (d a : BitVec 6) (w : Bool) (s : State) : Out :=
  let W : Site := ⟨.B, slotWord g 0x73 (place [(d.toNat, 14), (a.toNat, 8), (w.toNat, 1)])⟩
  runSlot s g (barrierAt s W .arrive a 0 (some d))

/-- `bar.wt` (R257, R258). -/
def execBarWt (g : Guard) (a b : BitVec 6) (s : State) : Out :=
  let W : Site := ⟨.B, slotWord g 0x74 (place [(a.toNat, 8), (b.toNat, 2)])⟩
  runSlot s g (barrierAt s W .await a b none)

/-- `bar.sync` (R257, R258). -/
def execBarSync (g : Guard) (a : BitVec 6) (s : State) : Out :=
  let W : Site := ⟨.B, slotWord g 0x75 (place [(a.toNat, 8)])⟩
  runSlot s g (barrierAt s W .sync a 0 none)

/-- `cfset` (R259); a flag above 15 is no instruction. -/
def execCfset (g : Guard) (d a : BitVec 6) (s : State) : Out :=
  let W : Site := ⟨.B, slotWord g 0x76 (place [(d.toNat, 14), (a.toNat, 8)])⟩
  runSlot s g (if 16 ≤ d.toNat then raiseIllegal s W else setFlag s W d.toNat a)

/-- `cfadd` (R259). -/
def execCfadd (g : Guard) (a b : BitVec 6) (s : State) : Out :=
  let W : Site := ⟨.B, slotWord g 0x77 (place [(a.toNat, 8), (b.toNat, 2)])⟩
  runSlot s g (addFlag s W a b)

/-- `cfrd` (R259); a flag above 15 is no instruction. -/
def execCfrd (g : Guard) (d f : BitVec 6) (s : State) : Out :=
  let W : Site := ⟨.B, slotWord g 0x78 (place [(d.toNat, 14), (f.toNat, 8)])⟩
  runSlot s g (if 16 ≤ f.toNat then raiseIllegal s W else readFlag s d f.toNat)

/-- `fres` (R261). -/
def execFres (g : Guard) (a b : BitVec 6) (s : State) : Out :=
  let W : Site := ⟨.B, slotWord g 0x79 (place [(a.toNat, 8), (b.toNat, 2)])⟩
  runSlot s g (do
    ready (available s a && available s b)
    let x ← operand s W a
    let y ← operand s W b
    resolveAt s W x y false)

/-- `fjoin` (R262). -/
def execFjoin (g : Guard) (d a b : BitVec 6) (w : Bool) (s : State) : Out :=
  let W : Site := ⟨.B, slotWord g 0x7A (place [(d.toNat, 14), (a.toNat, 8), (b.toNat, 2), (w.toNat, 1)])⟩
  runSlot s g (joinAt s W d a b)

/-- `fpoll` (R263). -/
def execFpoll (g : Guard) (d a : BitVec 6) (w : Bool) (s : State) : Out :=
  let W : Site := ⟨.B, slotWord g 0x7B (place [(d.toNat, 14), (a.toNat, 8), (w.toNat, 1)])⟩
  runSlot s g (pollAt s W d a)

/-- `xinv` (R264). -/
def execXinv (g : Guard) (a b : BitVec 6) (s : State) : Out :=
  let W : Site := ⟨.B, slotWord g 0x7C (place [(a.toNat, 8), (b.toNat, 2)])⟩
  runSlot s g (invalidate s W a b)

/-- `nop` in any slot (R191). -/
def execNop (sl : Slot) (g : Guard) (s : State) : Out :=
  runSlot s g (.ok s)

end Sys2Proof.Machine
end

