-- ==== Sys2Proof/Machine/Fabric.lean ====
section
/-! DEFINITION. The fabric's links and what is lost with one (R70, R79), blocked heads and suspect packets (R72), meridian
tokens (R73, R76), and soft errors of a scratchpad (R102). Packets are not tracked through routers: which heads are blocked
and for how long is a free choice. -/
namespace Sys2Proof.Machine

/-! ## Units and links -/

/-- A fabric unit of a module exists (R413). -/
def isUnit (unit : Nat) : Bool := decide (unit % 32 < 24) && decide (unit < 8192)

/-- A link of a unit exists (R79). -/
def isLink (unit link : Nat) : Bool :=
  let u := unit % 32
  if u < 5 then decide (link < 3) else if u = 5 then decide (link < 23)
  else decide (u < 24) && decide (link < 256)

/-- The unit at the other end of a link (R79). -/
def neighbour (unit link : Nat) : Option Nat :=
  let f := unit / 32 * 32
  let u := unit % 32
  if !isLink unit link then none
  else if u < 5 then some (if link = 0 then f + (u + 4) % 5 else if link = 1 then f + (u + 1) % 5 else f + 5)
  else if u = 5 then some (if link < 5 then f + link else f + link + 1)
  else some (link * 32 + 5)

/-- A 256-bit set with one bit set or cleared. -/
def setLink (x : BitVec 256) (n : Nat) (b : Bool) : BitVec 256 :=
  if b then x ||| BitVec.twoPow 256 n else x &&& ~~~(BitVec.twoPow 256 n)

/-! ## What passes with a link (R70, R79) -/

/-- What goes from a core to a target may pass a link: a link between modules when it names both ends' modules, and a
link of a module when it is that of an end.
DESIGN CHOICE, log entry 33. -/
def passes (k : Nat) (t : Target) (unit link : Nat) : Bool :=
  let a := chipOf k
  let b := (State.targetUnit t).1
  let u := unit % 32
  if 6 ≤ u || (u = 5 && 5 ≤ link) then a != b && (let n := if u = 5 then unit / 32 else link; n == a || n == b)
  else (a, dieOf k) != State.targetUnit t && (unit / 32 == a || unit / 32 == b)

/-- An access of which a link held a packet when it failed, freely chosen, is lost (R79). -/
def Acc.cutOff (tick unit link : Nat) (a : Acc) : Acc :=
  let held := match a.phase with
    | .sent => a.out
    | .parked => false
    | .retry => false
    | .done _ _ _ => true
    | .lost => false
    | .refused _ => true
  if held && passes a.core a.target unit link && Config.choice (tick + a.id) % 2 = 0 then { a with phase := .lost, tag := none }
  else a

/-- A command of a core of whose transfer the link held a packet, freely chosen, has lost it. -/
def Cmd.cutOff (tick unit link k : Nat) (c : Cmd) : Cmd :=
  { c with job := c.job.map fun j => { j with
      lost := j.lost || (((j.rd ++ j.wr).any fun r => passes k r.piece.target unit link)
        && Config.choice (tick + c.id) % 2 = 0) } }

namespace State

/-- A flit fails its check and is replayed (R70).
DESIGN CHOICE, log entry 34. -/
def replayFlit (s : State) (unit link : Nat) : State :=
  let x := s.fab unit
  if !isLink unit link || x.failed.getLsbD link then s
  else s.setFab unit { x with replays := Table.put x.replays link (((Table.look x.replays link).getD 0) + 1) }

/-- A link that has not delivered after 64 consecutive replays is declared failed, and what it held is lost (R70,
R79). -/
def failLink (s : State) (unit link : Nat) : State :=
  let x := s.fab unit
  if !isLink unit link || (Table.look x.replays link).getD 0 < 64 then s
  else
    let s := s.setFab unit { x with failed := setLink x.failed link true, replays := Table.drop x.replays link }
    let cut := fun (c : Nat × Core) => (c.1, { c.2 with xq := c.2.xq.map (Cmd.cutOff s.tick unit link c.1) })
    { s with
      accs := s.accs.map (Acc.cutOff s.tick unit link)
      cores := s.cores.map cut
      parts := s.parts.map fun (p : Nat × Partition) => (p.1, { p.2 with image := p.2.image.map cut }) }

/-- Retraining of a link starts (R79). The rule does not say what writing 1 to the bit of a link that has not failed does:
its training starts too, during which the link carries its traffic, and a training that fails sets the bit.
DESIGN CHOICE, log entry 148. -/
def retrain (s : State) (unit link : Nat) : State :=
  let x := s.fab unit
  if !isLink unit link then s else s.setFab unit { x with training := setLink x.training link true }

/-- DOMMEMBER of a chip as it reads: the bit that DOMCFG names is 1 (R415). -/
def members (s : State) (ch : Nat) : BitVec 256 :=
  (s.chip ch).dommember ||| BitVec.twoPow 256 (s.chip ch).domcfg.toNat

/-- A link is refused (R415): the port of a switch plane joins a module whose DOMMEMBER bits differ from those of the
module, and an XW link of the IOD stands while some member of the domain has other bits.
DEDUCED, log entry 35. -/
def refusesLink (s : State) (unit link : Nat) : Bool :=
  let ch := unit / 32
  if 6 ≤ unit % 32 then s.members link != s.members ch
  else unit % 32 == 5 && 5 ≤ link
    && (List.range 256).any fun n => n != ch && s.member ch n && s.members n != s.members ch

/-- Training of a link ends: on success its bit clears, and on failure it is set again (R79, R415). -/
def endTraining (s : State) (unit link : Nat) (ok : Bool) : State :=
  let x := s.fab unit
  if !x.training.getLsbD link then s
  else s.setFab unit { x with
    training := setLink x.training link false
    failed := setLink x.failed link (!ok || s.refusesLink unit link)
    replays := Table.drop x.replays link }

end State

/-! ## Blocked heads and the meridian token (R72 to R76) -/

/-- Fabric cycles, of 2.6 GHz, in some nanoseconds (R69). -/
def fabricCycles (ns : Nat) : Nat := ns * 13 / 5

/-- The router of an input buffer. -/
def routerOf (b : Nat) : Nat := b / 16

/-- The input buffer is that of the deadlock buffer lane of its router (R71, R73). -/
def isLane (b : Nat) : Bool := b % 16 == 15

namespace Fabric

/-- The heads of a router whose counters have reached TIMEOUT (R72). -/
def timedOut (x : Fabric) (router : Nat) : List Nat :=
  (x.blocked.filter fun b => routerOf b.1 == router && !isLane b.1 && decide (x.timeout.toNat ≤ b.2.2)
    && !x.suspects.contains b.1).map (·.1)

/-- When the packet at the head of an input buffer arrived at its router. -/
def arrived (x : Fabric) (b : Nat) : Nat := ((Table.look x.blocked b).map (·.1)).getD 0

/-- The oldest suspect packet of a router, by its arrival there (R73). -/
def oldest (x : Fabric) (router : Nat) : Option Nat :=
  (x.suspects.filter fun b => routerOf b == router).foldl (init := none) fun o b => match o with
    | none => some b
    | some a => if x.arrived b < x.arrived a then some b else some a

/-- A packet that enters a unit's deadlock buffer lane at a router is treated as suspect at once (R73). -/
def enterLane (x : Fabric) (router tick : Nat) : Fabric :=
  { x with suspects := x.suspects ++ [router * 16 + 15], blocked := Table.put x.blocked (router * 16 + 15) (tick, 0) }

/-- Time passes in a unit (R72, R76): the counter of a blocked head rises until the head advances, which resets it and
ends its being suspect, and a token that is not lost passes the controller; `goes` tells which heads advance. -/
def pass (x : Fabric) (ns : Nat) (now : BitVec 48) (goes : Nat → Bool) : Fabric :=
  let on := fun b => !isLane b && goes b
  { x with
    blocked := (x.blocked.filter fun b => !on b.1).map fun b => (b.1, b.2.1, b.2.2 + fabricCycles ns)
    suspects := x.suspects.filter fun b => !on b
    passed := if x.token.isSome then now else x.passed
    stale := x.stale && !goes 0 }

/-- What else may come of a unit in a step: a head is blocked, the token is lost, or a link delivers a flit, so that its
next replay is no longer consecutive (R70). -/
def stir (x : Fabric) (tick what n : Nat) : Fabric :=
  if what % 3 = 0 then
    if isLane n || (Table.look x.blocked n).isSome then x else { x with blocked := Table.put x.blocked n (tick, 0) }
  else if what % 3 = 1 then { x with token := none }
  else { x with replays := Table.drop x.replays n }

end Fabric

namespace State

/-- The fabric as time passes: what the manual leaves to traffic is freely chosen.
DESIGN CHOICE, log entry 33. -/
def fabricTime (s : State) (ns : Nat) : Table Fabric :=
  let t := s.tick
  let on := fun x : Fabric => x.pass ns s.now fun b => Config.choice (t + b) % 2 == 0
  let u := Config.choice (t + 5)
  let f := s.fabric.map fun x => (x.1, on x.2)
  if isUnit u then Table.put f u ((on (s.fab u)).stir t (Config.choice (t + 6)) (Config.choice (t + 7))) else f

/-- The blocked-head counters of a router that have reached TIMEOUT mark their head packets as suspect (R72). -/
def suspect (s : State) (unit router : Nat) : State :=
  let x := s.fab unit
  let due := x.timedOut router
  if due.isEmpty then s else s.setFab unit { x with suspects := x.suspects ++ due }

/-- Where a packet that leaves the unit enters another one's deadlock buffer lane: a link that stands, and a router with
the lane free there. -/
def onward (s : State) (unit : Nat) : Option (Nat × Nat) :=
  let link := Config.choice (s.tick + 1)
  let r := Config.choice (s.tick + 2)
  match neighbour unit link with
  | some v => if s.linkUp unit link && !(s.fab v).suspects.contains (r * 16 + 15) then some (v, r) else none
  | none => none

/-- A router with a suspect packet captures the token, drains its oldest one through the DBL and releases the
token, which goes on from there; the packet is delivered, or crosses into another unit, where it waits for that unit's
token (R73, R78). -/
def capture (s : State) (unit router : Nat) : State :=
  let x := s.fab unit
  match x.token, x.oldest router with
  | some _, some b =>
    let s := s.setFab unit { x with
      suspects := x.suspects.erase b
      blocked := Table.drop x.blocked b
      token := some router
      dblpkt := BitVec.ofNat 32 (satAdd 0xFFFFFFFF x.dblpkt.toNat 1) }
    match s.onward unit with
    | some (v, r) => s.setFab v ((s.fab v).enterLane r s.tick)
    | none => s
  | _, _ => s

/-- A token that has not passed the controller for four times the ring's round trip is regenerated: the epoch bit tells a
stale one from it, which is discarded when it reappears (R76). -/
def regenerate (s : State) (unit : Nat) : State :=
  let x := s.fab unit
  if x.token.isSome || s.passed x.passed < 4 * (Config.ringTrip unit).toNat then s
  else s.setFab unit { x with
    token := some 0
    epoch := !x.epoch
    stale := true
    passed := s.now
    tokregen := BitVec.ofNat 16 (satAdd 0xFFFF x.tokregen.toNat 1) }

/-! ## Soft errors (R102) -/

/-- An error in a scratchpad word: one of one bit is corrected and counted in the telemetry of the die, and an
uncorrectable one poisons the word; one in the full/empty bit sets that bit to full (R102).
DEDUCED, log entry 39. -/
def spadError (s : State) (k w : Nat) (up : SpadUpset) : State :=
  let c := s.core k
  let x := c.r.word w
  let ch := s.chip (chipOf k)
  if 98304 ≤ w then s
  else if up = .corrected then s.setChip (chipOf k) { ch with
    secnt := setReg ch.secnt (dieOf k) (setField (getReg ch.secnt (dieOf k) 0) 0 32
      (satAdd 0xFFFFFFFF (field (getReg ch.secnt (dieOf k) 0) 0 32) 1)) }
  else s.setCore k { c with r := c.r.setWord w { x with poison := true, full := x.full || decide (up = .fullBit) } }

end State

/-! ## Meanings -/

/-- FLIT_REPLAY (R70). -/
def execFlitReplay (unit link : Nat) (s : State) : Out := .next (s.replayFlit unit link)

/-- LINK_FAILED (R70). -/
def execLinkFailed (unit link : Nat) (s : State) : Out := .next (s.failLink unit link)

/-- FABLINK_RETRAIN (R79). -/
def execFablinkRetrain (unit link : Nat) (s : State) : Out := .next (s.retrain unit link)

/-- LINK_TRAINING_DONE (R79, R415). -/
def execLinkTrainingDone (unit link : Nat) (ok : Bool) (s : State) : Out := .next (s.endTraining unit link ok)

/-- HEAD_SUSPECT (R72). -/
def execHeadSuspect (unit router : Nat) (s : State) : Out := .next (s.suspect unit router)

/-- MERIDIAN_CAPTURE (R73). -/
def execMeridianCapture (unit router : Nat) (s : State) : Out := .next (s.capture unit router)

/-- TOKEN_REGENERATE (R76). -/
def execTokenRegenerate (unit : Nat) (s : State) : Out := .next (s.regenerate unit)

/-- SCRATCHPAD_ECC_ERROR (R102). -/
def execScratchpadEccError (core word : Nat) (up : SpadUpset) (s : State) : Out :=
  .next (s.spadError core word up)

end Sys2Proof.Machine
end

