-- ==== Sys2Proof/Machine/Scalar.lean ====
section
/-! DEFINITION. The operations that slots A and B share (R234, R238 to R243). -/
namespace Sys2Proof.Machine

/-! ## The functions of R238 and R239 -/

/-- Bits [127:64] of the signed product. -/
def mulHigh (a b : W64) : W64 := BitVec.ofInt 64 (a.toInt * b.toInt / 2 ^ 64)
/-- Bits [127:64] of the unsigned product. -/
def mulHighN (a b : W64) : W64 := BitVec.ofNat 64 (a.toNat * b.toNat / 2 ^ 64)
/-- Signed quotient, truncated toward zero; all ones for a divisor of 0 (R239). -/
def quotient (a b : W64) : W64 :=
  if b = 0 then BitVec.allOnes 64 else BitVec.ofInt 64 (a.toInt.tdiv b.toInt)
/-- Unsigned quotient; all ones for a divisor of 0 (R239). -/
def quotientN (a b : W64) : W64 := if b = 0 then BitVec.allOnes 64 else BitVec.ofNat 64 (a.toNat / b.toNat)
/-- Signed remainder with the dividend's sign; `a` for a divisor of 0 (R239). -/
def remainder (a b : W64) : W64 := if b = 0 then a else BitVec.ofInt 64 (a.toInt.tmod b.toInt)
/-- Unsigned remainder; `a` for a divisor of 0 (R239). -/
def remainderN (a b : W64) : W64 := if b = 0 then a else BitVec.ofNat 64 (a.toNat % b.toNat)
/-- Signed minimum. -/
def minS (a b : W64) : W64 := if b.toInt < a.toInt then b else a
/-- Signed maximum. -/
def maxS (a b : W64) : W64 := if a.toInt < b.toInt then b else a
/-- Unsigned minimum. -/
def minU (a b : W64) : W64 := if b.toNat < a.toNat then b else a
/-- Unsigned maximum. -/
def maxU (a b : W64) : W64 := if a.toNat < b.toNat then b else a
/-- |a| as signed; -2^63 gives -2^63. -/
def absS (a : W64) : W64 := if a.toInt < 0 then -a else a
/-- a shifted left; 0 for 64 or more. -/
def shiftL (a b : W64) : W64 := if 64 ≤ b.toNat then 0 else BitVec.ofNat 64 (a.toNat * 2 ^ b.toNat)
/-- a shifted right; 0 for 64 or more. -/
def shiftR (a b : W64) : W64 := if 64 ≤ b.toNat then 0 else BitVec.ofNat 64 (a.toNat / 2 ^ b.toNat)
/-- a shifted right with its sign; 64 copies of the sign for 64 or more. -/
def shiftA (a b : W64) : W64 := BitVec.ofInt 64 (a.toInt / (2 ^ min 63 b.toNat : Nat))
/-- a rotated left by b mod 64. -/
def rotateL (a b : W64) : W64 :=
  let n := b.toNat % 64
  BitVec.ofNat 64 (a.toNat * 2 ^ n + a.toNat / 2 ^ (64 - n))
/-- Leading zeros. -/
def leadingZeros (a : W64) : W64 := BitVec.ofNat 64 (if a = 0 then 64 else 63 - Nat.log2 a.toNat)
/-- Set bits of the low n bits of a number. -/
def setBits : Nat → Nat → Nat
  | 0, _ => 0
  | n + 1, x => x % 2 + setBits n (x / 2)
/-- Trailing zeros: the set bits of the ones below the lowest set bit; 64 for 0. -/
def trailingZeros (a : W64) : W64 :=
  if a = 0 then 64 else BitVec.ofNat 64 (Nat.log2 ((a &&& (-a)).toNat))
/-- Set bits. -/
def popCount (a : W64) : W64 := BitVec.ofNat 64 (setBits 64 a.toNat)
/-- An imm8, sign-extended (R238). -/
def imm8 (i : BitVec 8) : W64 := i.signExtend 64

/-- A division: as any two-source operation, and a divisor of 0 sets FSTAT.IDZ (R239). -/
def division (s : State) (w : Site) (sl : Lane) (d a b : BitVec 6) (f : W64 → W64 → W64) : Eff State := do
  ready (scalarReady s sl d [a, b])
  let x ← operand s w a
  let y ← operand s w b
  let c := s.me.result sl d (known (f x y))
  return s.setMe { c with r := c.r.accrue (Flags.on fIDZ (y == 0)) }

/-- `sel` (R240): the destination is one of `s0` to `s15`. -/
def select (s : State) (w : Site) (sl : Lane) (p d : BitVec 4) (a b : BitVec 6) : Eff State := do
  let dst : BitVec 6 := d.zeroExtend 6
  ready (scalarReady s sl dst [a, b])
  let x ← operand s w a
  let y ← operand s w b
  return s.setMe (s.me.result sl dst (known (if s.me.pred p then x else y)))

/-- `movi` (R241). -/
def moveImm (s : State) (sl : Lane) (d : BitVec 6) (i : BitVec 14) : Eff State := do
  ready (scalarReady s sl d [])
  return s.setMe (s.me.result sl d (known (i.signExtend 64)))

/-- `movk` (R241): it reads D as a source. -/
def moveKeep (s : State) (w : Site) (sl : Lane) (d : BitVec 6) (i : BitVec 14) : Eff State :=
  unary s w sl d d fun x => BitVec.ofNat 64 (x.toNat * 2 ^ 14 + i.toNat)

/-! ## Meanings -/

/-- `add` (R238). -/
def execAdd (sl : Lane) (g : Guard) (d a b : BitVec 6) (w : Bool) (s : State) : Out :=
  let W : Site := ⟨sl.slot, slotWord g 0x01 (place [(d.toNat, 14), (a.toNat, 8), (b.toNat, 2), (w.toNat, 1)])⟩
  runSlot s g (binary s W sl d a b (· + ·))

/-- `sub` (R238). -/
def execSub (sl : Lane) (g : Guard) (d a b : BitVec 6) (w : Bool) (s : State) : Out :=
  let W : Site := ⟨sl.slot, slotWord g 0x02 (place [(d.toNat, 14), (a.toNat, 8), (b.toNat, 2), (w.toNat, 1)])⟩
  runSlot s g (binary s W sl d a b (· - ·))

/-- `mul` (R238). -/
def execMul (sl : Lane) (g : Guard) (d a b : BitVec 6) (w : Bool) (s : State) : Out :=
  let W : Site := ⟨sl.slot, slotWord g 0x03 (place [(d.toNat, 14), (a.toNat, 8), (b.toNat, 2), (w.toNat, 1)])⟩
  runSlot s g (binary s W sl d a b (· * ·))

/-- `mulh` (R238). -/
def execMulh (sl : Lane) (g : Guard) (d a b : BitVec 6) (w : Bool) (s : State) : Out :=
  let W : Site := ⟨sl.slot, slotWord g 0x04 (place [(d.toNat, 14), (a.toNat, 8), (b.toNat, 2), (w.toNat, 1)])⟩
  runSlot s g (binary s W sl d a b mulHigh)

/-- `mulhn` (R238). -/
def execMulhn (sl : Lane) (g : Guard) (d a b : BitVec 6) (w : Bool) (s : State) : Out :=
  let W : Site := ⟨sl.slot, slotWord g 0x05 (place [(d.toNat, 14), (a.toNat, 8), (b.toNat, 2), (w.toNat, 1)])⟩
  runSlot s g (binary s W sl d a b mulHighN)

/-- `min` (R238). -/
def execMin (sl : Lane) (g : Guard) (d a b : BitVec 6) (w : Bool) (s : State) : Out :=
  let W : Site := ⟨sl.slot, slotWord g 0x0A (place [(d.toNat, 14), (a.toNat, 8), (b.toNat, 2), (w.toNat, 1)])⟩
  runSlot s g (binary s W sl d a b minS)

/-- `max` (R238). -/
def execMax (sl : Lane) (g : Guard) (d a b : BitVec 6) (w : Bool) (s : State) : Out :=
  let W : Site := ⟨sl.slot, slotWord g 0x0B (place [(d.toNat, 14), (a.toNat, 8), (b.toNat, 2), (w.toNat, 1)])⟩
  runSlot s g (binary s W sl d a b maxS)

/-- `minn` (R238). -/
def execMinn (sl : Lane) (g : Guard) (d a b : BitVec 6) (w : Bool) (s : State) : Out :=
  let W : Site := ⟨sl.slot, slotWord g 0x0C (place [(d.toNat, 14), (a.toNat, 8), (b.toNat, 2), (w.toNat, 1)])⟩
  runSlot s g (binary s W sl d a b minU)

/-- `maxn` (R238). -/
def execMaxn (sl : Lane) (g : Guard) (d a b : BitVec 6) (w : Bool) (s : State) : Out :=
  let W : Site := ⟨sl.slot, slotWord g 0x0D (place [(d.toNat, 14), (a.toNat, 8), (b.toNat, 2), (w.toNat, 1)])⟩
  runSlot s g (binary s W sl d a b maxU)

/-- `and` (R238). -/
def execAnd (sl : Lane) (g : Guard) (d a b : BitVec 6) (w : Bool) (s : State) : Out :=
  let W : Site := ⟨sl.slot, slotWord g 0x0F (place [(d.toNat, 14), (a.toNat, 8), (b.toNat, 2), (w.toNat, 1)])⟩
  runSlot s g (binary s W sl d a b (· &&& ·))

/-- `or` (R238). -/
def execOr (sl : Lane) (g : Guard) (d a b : BitVec 6) (w : Bool) (s : State) : Out :=
  let W : Site := ⟨sl.slot, slotWord g 0x10 (place [(d.toNat, 14), (a.toNat, 8), (b.toNat, 2), (w.toNat, 1)])⟩
  runSlot s g (binary s W sl d a b (· ||| ·))

/-- `xor` (R238). -/
def execXor (sl : Lane) (g : Guard) (d a b : BitVec 6) (w : Bool) (s : State) : Out :=
  let W : Site := ⟨sl.slot, slotWord g 0x11 (place [(d.toNat, 14), (a.toNat, 8), (b.toNat, 2), (w.toNat, 1)])⟩
  runSlot s g (binary s W sl d a b (· ^^^ ·))

/-- `andn` (R238). -/
def execAndn (sl : Lane) (g : Guard) (d a b : BitVec 6) (w : Bool) (s : State) : Out :=
  let W : Site := ⟨sl.slot, slotWord g 0x12 (place [(d.toNat, 14), (a.toNat, 8), (b.toNat, 2), (w.toNat, 1)])⟩
  runSlot s g (binary s W sl d a b (fun x y => x &&& ~~~y))

/-- `shl` (R238). -/
def execShl (sl : Lane) (g : Guard) (d a b : BitVec 6) (w : Bool) (s : State) : Out :=
  let W : Site := ⟨sl.slot, slotWord g 0x13 (place [(d.toNat, 14), (a.toNat, 8), (b.toNat, 2), (w.toNat, 1)])⟩
  runSlot s g (binary s W sl d a b shiftL)

/-- `shr` (R238). -/
def execShr (sl : Lane) (g : Guard) (d a b : BitVec 6) (w : Bool) (s : State) : Out :=
  let W : Site := ⟨sl.slot, slotWord g 0x14 (place [(d.toNat, 14), (a.toNat, 8), (b.toNat, 2), (w.toNat, 1)])⟩
  runSlot s g (binary s W sl d a b shiftR)

/-- `sra` (R238). -/
def execSra (sl : Lane) (g : Guard) (d a b : BitVec 6) (w : Bool) (s : State) : Out :=
  let W : Site := ⟨sl.slot, slotWord g 0x15 (place [(d.toNat, 14), (a.toNat, 8), (b.toNat, 2), (w.toNat, 1)])⟩
  runSlot s g (binary s W sl d a b shiftA)

/-- `rol` (R238). -/
def execRol (sl : Lane) (g : Guard) (d a b : BitVec 6) (w : Bool) (s : State) : Out :=
  let W : Site := ⟨sl.slot, slotWord g 0x16 (place [(d.toNat, 14), (a.toNat, 8), (b.toNat, 2), (w.toNat, 1)])⟩
  runSlot s g (binary s W sl d a b rotateL)

/-- `div` (R239). -/
def execDiv (sl : Lane) (g : Guard) (d a b : BitVec 6) (w : Bool) (s : State) : Out :=
  let W : Site := ⟨sl.slot, slotWord g 0x06 (place [(d.toNat, 14), (a.toNat, 8), (b.toNat, 2), (w.toNat, 1)])⟩
  runSlot s g (division s W sl d a b quotient)

/-- `divn` (R239). -/
def execDivn (sl : Lane) (g : Guard) (d a b : BitVec 6) (w : Bool) (s : State) : Out :=
  let W : Site := ⟨sl.slot, slotWord g 0x07 (place [(d.toNat, 14), (a.toNat, 8), (b.toNat, 2), (w.toNat, 1)])⟩
  runSlot s g (division s W sl d a b quotientN)

/-- `rem` (R239). -/
def execRem (sl : Lane) (g : Guard) (d a b : BitVec 6) (w : Bool) (s : State) : Out :=
  let W : Site := ⟨sl.slot, slotWord g 0x08 (place [(d.toNat, 14), (a.toNat, 8), (b.toNat, 2), (w.toNat, 1)])⟩
  runSlot s g (division s W sl d a b remainder)

/-- `remn` (R239). -/
def execRemn (sl : Lane) (g : Guard) (d a b : BitVec 6) (w : Bool) (s : State) : Out :=
  let W : Site := ⟨sl.slot, slotWord g 0x09 (place [(d.toNat, 14), (a.toNat, 8), (b.toNat, 2), (w.toNat, 1)])⟩
  runSlot s g (division s W sl d a b remainderN)

/-- `abs` (R238). -/
def execAbs (sl : Lane) (g : Guard) (d a : BitVec 6) (w : Bool) (s : State) : Out :=
  let W : Site := ⟨sl.slot, slotWord g 0x0E (place [(d.toNat, 14), (a.toNat, 8), (w.toNat, 1)])⟩
  runSlot s g (unary s W sl d a absS)

/-- `clz` (R238). -/
def execClz (sl : Lane) (g : Guard) (d a : BitVec 6) (w : Bool) (s : State) : Out :=
  let W : Site := ⟨sl.slot, slotWord g 0x17 (place [(d.toNat, 14), (a.toNat, 8), (w.toNat, 1)])⟩
  runSlot s g (unary s W sl d a leadingZeros)

/-- `ctz` (R238). -/
def execCtz (sl : Lane) (g : Guard) (d a : BitVec 6) (w : Bool) (s : State) : Out :=
  let W : Site := ⟨sl.slot, slotWord g 0x18 (place [(d.toNat, 14), (a.toNat, 8), (w.toNat, 1)])⟩
  runSlot s g (unary s W sl d a trailingZeros)

/-- `popc` (R238). -/
def execPopc (sl : Lane) (g : Guard) (d a : BitVec 6) (w : Bool) (s : State) : Out :=
  let W : Site := ⟨sl.slot, slotWord g 0x19 (place [(d.toNat, 14), (a.toNat, 8), (w.toNat, 1)])⟩
  runSlot s g (unary s W sl d a popCount)

/-- `sel` (R240). -/
def execSel (sl : Lane) (g : Guard) (p d : BitVec 4) (a b : BitVec 6) (s : State) : Out :=
  let W : Site := ⟨sl.slot, slotWord g 0x1A (place [(p.toNat, 16), (d.toNat, 12), (a.toNat, 6), (b.toNat, 0)])⟩
  runSlot s g (select s W sl p d a b)

/-- `add` with an immediate (R238). -/
def execAddImm (sl : Lane) (g : Guard) (d a : BitVec 6) (i : BitVec 8) (s : State) : Out :=
  let W : Site := ⟨sl.slot, slotWord g 0x20 (place [(d.toNat, 14), (a.toNat, 8), (i.toNat, 0)])⟩
  runSlot s g (unary s W sl d a fun x => x + imm8 i)

/-- `mul` with an immediate (R238). -/
def execMulImm (sl : Lane) (g : Guard) (d a : BitVec 6) (i : BitVec 8) (s : State) : Out :=
  let W : Site := ⟨sl.slot, slotWord g 0x21 (place [(d.toNat, 14), (a.toNat, 8), (i.toNat, 0)])⟩
  runSlot s g (unary s W sl d a fun x => x * imm8 i)

/-- `and` with an immediate (R238). -/
def execAndImm (sl : Lane) (g : Guard) (d a : BitVec 6) (i : BitVec 8) (s : State) : Out :=
  let W : Site := ⟨sl.slot, slotWord g 0x22 (place [(d.toNat, 14), (a.toNat, 8), (i.toNat, 0)])⟩
  runSlot s g (unary s W sl d a fun x => x &&& imm8 i)

/-- `or` with an immediate (R238). -/
def execOrImm (sl : Lane) (g : Guard) (d a : BitVec 6) (i : BitVec 8) (s : State) : Out :=
  let W : Site := ⟨sl.slot, slotWord g 0x23 (place [(d.toNat, 14), (a.toNat, 8), (i.toNat, 0)])⟩
  runSlot s g (unary s W sl d a fun x => x ||| imm8 i)

/-- `xor` with an immediate (R238). -/
def execXorImm (sl : Lane) (g : Guard) (d a : BitVec 6) (i : BitVec 8) (s : State) : Out :=
  let W : Site := ⟨sl.slot, slotWord g 0x24 (place [(d.toNat, 14), (a.toNat, 8), (i.toNat, 0)])⟩
  runSlot s g (unary s W sl d a fun x => x ^^^ imm8 i)

/-- `shl` with an immediate (R238). -/
def execShlImm (sl : Lane) (g : Guard) (d a : BitVec 6) (i : BitVec 8) (s : State) : Out :=
  let W : Site := ⟨sl.slot, slotWord g 0x25 (place [(d.toNat, 14), (a.toNat, 8), (i.toNat, 0)])⟩
  runSlot s g (unary s W sl d a fun x => shiftL x (imm8 i))

/-- `shr` with an immediate (R238). -/
def execShrImm (sl : Lane) (g : Guard) (d a : BitVec 6) (i : BitVec 8) (s : State) : Out :=
  let W : Site := ⟨sl.slot, slotWord g 0x26 (place [(d.toNat, 14), (a.toNat, 8), (i.toNat, 0)])⟩
  runSlot s g (unary s W sl d a fun x => shiftR x (imm8 i))

/-- `sra` with an immediate (R238). -/
def execSraImm (sl : Lane) (g : Guard) (d a : BitVec 6) (i : BitVec 8) (s : State) : Out :=
  let W : Site := ⟨sl.slot, slotWord g 0x27 (place [(d.toNat, 14), (a.toNat, 8), (i.toNat, 0)])⟩
  runSlot s g (unary s W sl d a fun x => shiftA x (imm8 i))

/-- `rol` with an immediate (R238). -/
def execRolImm (sl : Lane) (g : Guard) (d a : BitVec 6) (i : BitVec 8) (s : State) : Out :=
  let W : Site := ⟨sl.slot, slotWord g 0x28 (place [(d.toNat, 14), (a.toNat, 8), (i.toNat, 0)])⟩
  runSlot s g (unary s W sl d a fun x => rotateL x (imm8 i))

/-- `movi` (R241). -/
def execMovi (sl : Lane) (g : Guard) (d : BitVec 6) (i : BitVec 14) (s : State) : Out :=
  runSlot s g (moveImm s sl d i)

/-- `movk` (R241). -/
def execMovk (sl : Lane) (g : Guard) (d : BitVec 6) (i : BitVec 14) (s : State) : Out :=
  let W : Site := ⟨sl.slot, slotWord g 0x2D (place [(d.toNat, 14), (i.toNat, 0)])⟩
  runSlot s g (moveKeep s W sl d i)

/-- `cmp.eq` (R242). -/
def execCmpEq (sl : Lane) (g : Guard) (p q : BitVec 4) (a b : BitVec 6) (s : State) : Out :=
  let W : Site := ⟨sl.slot, slotWord g 0x30 (place [(p.toNat, 16), (q.toNat, 12), (a.toNat, 6), (b.toNat, 0)])⟩
  runSlot s g (compare s W p q a b fun x y => decide (x = y))

/-- `cmp.ne` (R242). -/
def execCmpNe (sl : Lane) (g : Guard) (p q : BitVec 4) (a b : BitVec 6) (s : State) : Out :=
  let W : Site := ⟨sl.slot, slotWord g 0x31 (place [(p.toNat, 16), (q.toNat, 12), (a.toNat, 6), (b.toNat, 0)])⟩
  runSlot s g (compare s W p q a b fun x y => decide (x ≠ y))

/-- `cmp.lt` (R242). -/
def execCmpLt (sl : Lane) (g : Guard) (p q : BitVec 4) (a b : BitVec 6) (s : State) : Out :=
  let W : Site := ⟨sl.slot, slotWord g 0x32 (place [(p.toNat, 16), (q.toNat, 12), (a.toNat, 6), (b.toNat, 0)])⟩
  runSlot s g (compare s W p q a b fun x y => decide (x.toInt < y.toInt))

/-- `cmp.le` (R242). -/
def execCmpLe (sl : Lane) (g : Guard) (p q : BitVec 4) (a b : BitVec 6) (s : State) : Out :=
  let W : Site := ⟨sl.slot, slotWord g 0x33 (place [(p.toNat, 16), (q.toNat, 12), (a.toNat, 6), (b.toNat, 0)])⟩
  runSlot s g (compare s W p q a b fun x y => decide (x.toInt ≤ y.toInt))

/-- `cmp.gt` (R242). -/
def execCmpGt (sl : Lane) (g : Guard) (p q : BitVec 4) (a b : BitVec 6) (s : State) : Out :=
  let W : Site := ⟨sl.slot, slotWord g 0x34 (place [(p.toNat, 16), (q.toNat, 12), (a.toNat, 6), (b.toNat, 0)])⟩
  runSlot s g (compare s W p q a b fun x y => decide (y.toInt < x.toInt))

/-- `cmp.ge` (R242). -/
def execCmpGe (sl : Lane) (g : Guard) (p q : BitVec 4) (a b : BitVec 6) (s : State) : Out :=
  let W : Site := ⟨sl.slot, slotWord g 0x35 (place [(p.toNat, 16), (q.toNat, 12), (a.toNat, 6), (b.toNat, 0)])⟩
  runSlot s g (compare s W p q a b fun x y => decide (y.toInt ≤ x.toInt))

/-- `cmp.ltn` (R242). -/
def execCmpLtn (sl : Lane) (g : Guard) (p q : BitVec 4) (a b : BitVec 6) (s : State) : Out :=
  let W : Site := ⟨sl.slot, slotWord g 0x36 (place [(p.toNat, 16), (q.toNat, 12), (a.toNat, 6), (b.toNat, 0)])⟩
  runSlot s g (compare s W p q a b fun x y => decide (x.toNat < y.toNat))

/-- `cmp.len` (R242). -/
def execCmpLen (sl : Lane) (g : Guard) (p q : BitVec 4) (a b : BitVec 6) (s : State) : Out :=
  let W : Site := ⟨sl.slot, slotWord g 0x37 (place [(p.toNat, 16), (q.toNat, 12), (a.toNat, 6), (b.toNat, 0)])⟩
  runSlot s g (compare s W p q a b fun x y => decide (x.toNat ≤ y.toNat))

/-- `cmp.gtn` (R242). -/
def execCmpGtn (sl : Lane) (g : Guard) (p q : BitVec 4) (a b : BitVec 6) (s : State) : Out :=
  let W : Site := ⟨sl.slot, slotWord g 0x38 (place [(p.toNat, 16), (q.toNat, 12), (a.toNat, 6), (b.toNat, 0)])⟩
  runSlot s g (compare s W p q a b fun x y => decide (y.toNat < x.toNat))

/-- `cmp.gen` (R242). -/
def execCmpGen (sl : Lane) (g : Guard) (p q : BitVec 4) (a b : BitVec 6) (s : State) : Out :=
  let W : Site := ⟨sl.slot, slotWord g 0x39 (place [(p.toNat, 16), (q.toNat, 12), (a.toNat, 6), (b.toNat, 0)])⟩
  runSlot s g (compare s W p q a b fun x y => decide (y.toNat ≤ x.toNat))

/-- `pand` (R243). -/
def execPand (sl : Lane) (g : Guard) (p q a b : BitVec 4) (s : State) : Out :=
  runSlot s g (predicates s p q (s.me.pred a && s.me.pred b))

/-- `por` (R243). -/
def execPor (sl : Lane) (g : Guard) (p q a b : BitVec 4) (s : State) : Out :=
  runSlot s g (predicates s p q (s.me.pred a || s.me.pred b))

/-- `pxor` (R243). -/
def execPxor (sl : Lane) (g : Guard) (p q a b : BitVec 4) (s : State) : Out :=
  runSlot s g (predicates s p q (s.me.pred a != s.me.pred b))

/-- `pnot` (R243). -/
def execPnot (sl : Lane) (g : Guard) (p q a : BitVec 4) (s : State) : Out :=
  runSlot s g (predicates s p q (!s.me.pred a))

end Sys2Proof.Machine
end

