-- ==== Sys2Proof/Machine/Vector.lean ====
section
/-! DEFINITION. The V slot (R269 to R288). -/
namespace Sys2Proof.Machine

/-! ## Registers as bits -/

/-- Numbers of a width packed in rising order: number i at bit i * k. -/
def packBits (k : Nat) (f : Nat → Nat) : Nat → Nat
  | 0 => 0
  | n + 1 => packBits k f n + f n % 2 ^ k * 2 ^ (k * n)

/-- A bit string with [lo+k-1:lo] replaced. -/
def putBits (x lo k v : Nat) : Nat := x - bitsOf x lo k * 2 ^ lo + v % 2 ^ k * 2 ^ lo

/-- A vector register as a group reads it. -/
def Core.vec (c : Core) (n : BitVec 5) : VReg := c.view.v[n.toFin]

/-- A vector register with new contents. -/
def Core.setVec (c : Core) (n : BitVec 5) (x : VReg) : Core := { c with r := { c.r with v := c.r.v.set n.toFin x } }

/-- A mask register as a group reads it; `m0` is all ones (R276, R285). -/
def Core.mask (c : Core) (n : BitVec 3) : BitVec 4096 := c.view.m[n.toFin]

/-- A mask register written; `m0` discards. -/
def Core.setMask (c : Core) (n : BitVec 3) (x : BitVec 4096) : Core :=
  if n = 0 then c else { c with r := { c.r with m := c.r.m.set n.toFin x } }

/-- Element i of a register, for an element size in bytes. -/
def VReg.elem (x : VReg) (eb i : Nat) : Nat := bitsOf x.bits.toNat (8 * eb * i) (8 * eb)

/-- Bytes from an offset hold poison. -/
def VReg.bad (x : VReg) (off n : Nat) : Bool := bitsOf x.poison.toNat off n != 0

/-- Bits [lo+k-1:lo] written; the bytes they touch become clean.
DEDUCED, log entry 84. -/
def VReg.putBits (x : VReg) (lo k v : Nat) : VReg :=
  ⟨BitVec.ofNat 32768 (Machine.putBits x.bits.toNat lo k v),
    BitVec.ofNat 4096 (Machine.putBits x.poison.toNat (lo / 8) ((lo + k + 7) / 8 - lo / 8) 0)⟩

/-- Element i written. -/
def VReg.putElem (x : VReg) (eb i v : Nat) : VReg := x.putBits (8 * eb * i) (8 * eb) v

/-! ## VCFG (R113, R114, R271) -/

/-- VCFG as a V instruction uses it. -/
structure Shape where
  rows : Nat
  cols : Nat
  type : Nat
  rm : Nat
  mask : BitVec 4096
  deriving DecidableEq, Repr

/-- Element positions. -/
def Shape.n (sh : Shape) : Nat := sh.rows * sh.cols
/-- Bytes of an element position. -/
def Shape.eb (sh : Shape) : Nat := typeBytes sh.type
/-- The floating format of the type. -/
def Shape.fmt (sh : Shape) : Fmt := (fmtOf sh.type).getD f32
/-- The type is floating. -/
def Shape.floating (sh : Shape) : Bool := 8 ≤ sh.type
/-- Bits of an element. -/
def Shape.w (sh : Shape) : Nat := 8 * sh.eb
/-- The type is signed. -/
def Shape.signed (sh : Shape) : Bool := typeSigned sh.type

/-- VCFG of a core as the group reads it. -/
def Core.shape (c : Core) : Shape :=
  let v := c.view.vcfg
  ⟨field v 17 13, field v 4 13, field v 0 4, field v 35 3, c.mask (BitVec.ofNat 3 (field v 32 3))⟩

/-- The shape of a V instruction, under the checks of R114 and its own type column (R269). -/
def shapeFor (s : State) (w : Site) (lo hi : Nat) : Eff Shape :=
  let sh := s.me.shape
  if sh.rows = 0 || sh.cols = 0 || sh.type = 15 || 4096 < sh.n * sh.eb || sh.type < lo || hi < sh.type then
    raiseIllegal s w
  else .ok sh

/-- The active positions (R271). -/
def Shape.active (sh : Shape) (k : Bool) : List Nat :=
  (List.range sh.n).filter fun i => !k || sh.mask.getLsbD i

/-! ## Operands -/

/-- The unit of a block that a pattern reads as unit j (R274). -/
def patternUnit (kind amt b j : Nat) : Nat :=
  match kind with
  | 1 => (j + amt) % b
  | 2 => b - 1 - j
  | 3 => j ^^^ (amt % 8)
  | 4 => amt % b
  | _ => j

/-- A register reordered by a pattern register's value (R274). -/
def VReg.reorder (x : VReg) (pat : W64) (eb : Nat) : VReg :=
  if field pat 0 3 = 0 then x
  else
    let u := if eb = 8 then 8 else 4
    let b := 128 / u
    let src := fun k => k / b * b + patternUnit (field pat 0 3) (field pat 3 5) b (k % b)
    ⟨BitVec.ofNat 32768 (packBits (8 * u) (fun k => bitsOf x.bits.toNat (8 * u * src k) (8 * u)) (4096 / u)),
      BitVec.ofNat 4096 (packBits u (fun k => bitsOf x.poison.toNat (u * src k) u) (4096 / u))⟩

/-- A vector operand: its register and its pattern selector. -/
abbrev VSrc := BitVec 5 × BitVec 2

/-- A vector operand as read. -/
def readVec (s : State) (eb : Nat) (x : VSrc) : VReg :=
  let r := s.me.vec x.1
  if x.2 = 0 then r else r.reorder (getReg s.me.view.vpat (x.2.toNat - 1) 0) eb

/-- POISON for an operand whose element at some position is poisoned (R271, R404). -/
def checkVec (s : State) (w : Site) (reg : BitVec 5) (x : VReg) (eb : Nat) (at_ : List Nat) : Eff Unit :=
  if at_.any fun i => x.bad (eb * i) eb then raisePoison s w reg.toNat else .ok ()

/-- The vector registers an instruction reads and writes are not busy (R117). -/
def vecReady (s : State) (srcs : List (BitVec 5)) (dst : List (BitVec 5)) : Eff Unit :=
  ready (srcs.all (fun r => s.me.canRead (.vec r.toNat)) && dst.all fun r => s.me.canWrite (.vec r.toNat))

/-- Operands read and checked at some positions. -/
def readAll (s : State) (w : Site) (eb : Nat) (at_ : List Nat) : List VSrc → Eff (List VReg)
  | [] => .ok []
  | x :: r => do
    checkVec s w x.1 (readVec s eb x) eb at_
    let t ← readAll s w eb at_ r
    return readVec s eb x :: t

/-! ## Element-wise operations (R271) -/

/-- Results written at positions of a register, with the flags raised. -/
def mapElems (eb : Nat) (f : Nat → Rounded) : List Nat → VReg → Flags → VReg × Flags
  | [], d, fl => (d, fl)
  | i :: r, d, fl => mapElems eb f r (d.putElem eb i (f i).bits) (fl ||| (f i).flags)

/-- A core with a vector result and its flags. -/
def Core.vresult (c : Core) (d : BitVec 5) (x : VReg × Flags) : Core :=
  let c := c.setVec d x.1
  { c with r := c.r.accrue x.2 }

/-- An element-wise operation: `f` gets the elements of the operands, the prior destination's last where
`prior` holds. -/
def lanes (s : State) (w : Site) (lo hi : Nat) (d : BitVec 5) (srcs : List VSrc) (prior k : Bool)
    (f : Shape → List Nat → Rounded) : Eff State := do
  let srcs := if prior then srcs ++ [(d, 0)] else srcs
  vecReady s (srcs.map (·.1)) [d]
  let sh ← shapeFor s w lo hi
  let act := sh.active k
  let xs ← readAll s w sh.eb act srcs
  let g := fun i => f sh (xs.map fun x => x.elem sh.eb i)
  return s.setMe (s.me.vresult d (mapElems sh.eb g act (s.me.vec d) 0))

/-- A result without flags. -/
def exactly (v : Nat) : Rounded := ⟨v, 0⟩

/-- An element-wise operation on two elements. -/
def lanes2 (s : State) (w : Site) (lo hi : Nat) (d a b : BitVec 5) (p q : BitVec 2) (k : Bool)
    (f : Shape → Nat → Nat → Rounded) : Eff State :=
  lanes s w lo hi d [(a, p), (b, q)] false k fun sh xs =>
    match xs with | [x, y] => f sh x y | _ => exactly 0

/-- An element-wise operation on one element. -/
def lanes1 (s : State) (w : Site) (lo hi : Nat) (d a : BitVec 5) (p : BitVec 2) (k : Bool)
    (f : Shape → Nat → Rounded) : Eff State :=
  lanes s w lo hi d [(a, p)] false k fun sh xs => match xs with | [x] => f sh x | _ => exactly 0

/-- An integer operation modulo 2^w on signed or unsigned elements (R275). -/
def intOp (f : Int → Int → Int) (sh : Shape) (x y : Nat) : Rounded :=
  exactly (wrap sh.w (f (asInt sh.signed sh.w x) (asInt sh.signed sh.w y)))

/-- An integer operation clamped to the type's range (R275). -/
def satOp (f : Int → Int → Int) (sh : Shape) (x y : Nat) : Rounded :=
  clamp sh.signed sh.w (f (asInt sh.signed sh.w x) (asInt sh.signed sh.w y))

/-- A bitwise operation or shift on the patterns of the elements (R275). -/
def bitOp (f : Nat → Nat → Nat → Nat) (sh : Shape) (x y : Nat) : Rounded := exactly (f sh.w x y % 2 ^ sh.w)

/-- `vsra` (R275). -/
def shiftArith (w x n : Nat) : Nat := wrap w (toSigned w x / (2 ^ min n (w - 1) : Nat))

/-- The rounding mode of floating arithmetic: stochastic as RNE (R278). -/
def Shape.mode (sh : Shape) : Nat := plainMode sh.rm

/-- The fused multiply-add forms: signs of product and addend (R278). -/
def fused (s : State) (w : Site) (d a b : BitVec 5) (p q : BitVec 2) (k negP negD : Bool) : Eff State :=
  lanes s w 8 11 d [(a, p), (b, q)] true k fun sh xs =>
    match xs with
    | [x, y, z] => sh.fmt.fma sh.fmt sh.mode negP negD x y z
    | _ => exactly 0

/-! ## Masks (R276, R285) -/

/-- A compare: bit i of the mask for each active position. -/
def compareLanes (s : State) (w : Site) (lo hi : Nat) (m : BitVec 3) (a b : BitVec 5) (p q : BitVec 2) (k : Bool)
    (f : Shape → Nat → Nat → Bool × Flags) : Eff State := do
  vecReady s [a, b] []
  let sh ← shapeFor s w lo hi
  let act := sh.active k
  checkVec s w a (readVec s sh.eb (a, p)) sh.eb act
  checkVec s w b (readVec s sh.eb (b, q)) sh.eb act
  let x := readVec s sh.eb (a, p)
  let y := readVec s sh.eb (b, q)
  let r := act.map fun i => (i, f sh (x.elem sh.eb i) (y.elem sh.eb i))
  let bits := r.foldl (fun z t => putBits z t.1 1 (ofBool t.2.1)) (s.me.mask m).toNat
  let fl := r.foldl (fun z t => z ||| t.2.2) (0 : Flags)
  let c := s.me.setMask m (BitVec.ofNat 4096 bits)
  return s.setMe { c with r := c.r.accrue fl }

/-- An integer relation (R276). -/
def relInt (r : Rel) (sh : Shape) (x y : Nat) : Bool × Flags :=
  let a := asInt sh.signed sh.w x
  let b := asInt sh.signed sh.w y
  (r.holds (a == b) (decide (a < b)), 0)

/-- A floating relation (R276). -/
def relFloat (r : Rel) (sh : Shape) (x y : Nat) : Bool × Flags := sh.fmt.compare r x y

/-- A mask operation over all 4096 bits. -/
def maskOp (s : State) (d : BitVec 3) (x : BitVec 4096) : Eff State := .ok (s.setMe (s.me.setMask d x))

/-- A scalar result of the V slot: no latch shifts (R284). -/
def scalarFromMask (s : State) (w : Site) (d : BitVec 6) (f : Nat → Nat) : Eff State := do
  ready (writable s d)
  let sh ← shapeFor s w 0 14
  return s.setMe (s.me.setS d (known (BitVec.ofNat 64 (f sh.n))))

/-- The lowest set position below N, or all ones. -/
def firstSet (m n : Nat) : Nat := ((List.range n).find? fun i => m.testBit i).getD (2 ^ 64 - 1)

/-- `vsel` (R276). -/
def selectLanes (s : State) (w : Site) (d a b : BitVec 5) (p q : BitVec 2) : Eff State := do
  vecReady s [a, b] [d]
  let sh ← shapeFor s w 0 14
  let act := sh.active false
  checkVec s w a (readVec s sh.eb (a, p)) sh.eb act
  checkVec s w b (readVec s sh.eb (b, q)) sh.eb act
  let g := fun i => exactly
    ((if sh.mask.getLsbD i then readVec s sh.eb (a, p) else readVec s sh.eb (b, q)).elem sh.eb i)
  return s.setMe (s.me.vresult d (mapElems sh.eb g act (s.me.vec d) 0))

/-! ## Conversions (R280 to R282) -/

/-- Bits of a converted element: a nibble for `e2m1`, six bits for FP6. -/
def targetBits (t : Nat) : Nat := if t = 14 then 4 else if t = 16 || t = 17 then 6 else 8 * typeBytes t

/-- The values that a conversion reads, in rising order: their destination index, position and bit
pattern. An `e2m1` position holds two values (R280). -/
def sourceValues (type eb : Nat) (x : VReg) (act : List Nat) : List (Nat × Nat) :=
  if type = 14 then act.flatMap fun i => [(2 * i, x.elem 1 i % 16), (2 * i + 1, x.elem 1 i / 16)]
  else act.map fun i => (i, x.elem eb i)

/-- Converted values written at their places, drawing a generator state for each under stochastic
rounding. -/
def convertAll (src dst rm : Nat) (sat draws : Bool) : List (Nat × Nat) → VReg → Flags → BitVec 32 →
    VReg × Flags × BitVec 32
  | [], d, fl, seed => (d, fl, seed)
  | (i, v) :: r, d, fl, seed =>
    let seed := if draws then stepSeed seed else seed
    let y := convertElement src dst rm sat seed.toNat v
    convertAll src dst rm sat draws r (d.putBits (targetBits dst * i) (targetBits dst) y.bits) (fl ||| y.flags) seed

/-- A core with a converted vector, its flags and the generator after its draws. -/
def Core.converted (c : Core) (d : BitVec 5) (x : VReg × Flags × BitVec 32) : Core :=
  let c := c.vresult d (x.1, x.2.1)
  { c with r := { c.r with srseed := x.2.2 } }

/-- `vcvt` (R280). -/
def convertLanes (s : State) (w : Site) (d a : BitVec 5) (t : Nat) (p : BitVec 2) (sat k : Bool) : Eff State := do
  if t = 15 || 18 ≤ t then raiseIllegal s w
  vecReady s [a] [d]
  let sh ← shapeFor s w 0 14
  let values := if sh.type = 14 then 2 * sh.n else sh.n
  let extent := (values * targetBits t + 7) / 8
  if t = sh.type || 4096 < extent then raiseIllegal s w
  else
    let act := sh.active k
    let x := readVec s sh.eb (a, p)
    checkVec s w a x sh.eb act
    let draws := sh.rm == 5 && isStochastic sh.type t
    let r := convertAll sh.type t sh.rm sat draws (sourceValues sh.type sh.eb x act) (s.me.vec d) 0 s.me.r.srseed
    let fp6 := t == 16 || t == 17
    let y := if fp6 && values * 6 % 8 != 0 then r.1.putBits (values * 6) (8 - values * 6 % 8) 0 else r.1
    return s.setMe (s.me.converted d (y, r.2))

/-- The element format of an MX format code (R281); none for MXINT8. -/
def mxFmt (code : Nat) : Option Fmt :=
  match code with
  | 1 => some e4m3
  | 2 => some e5m2
  | 3 => some e2m3
  | 4 => some e3m2
  | 5 => some e2m1
  | _ => none

/-- Bits of an element of an MX format. -/
def mxBits (code : Nat) : Nat := if code = 3 || code = 4 then 6 else if code = 5 then 4 else 8

/-- emax of an MX format (R155). -/
def mxTop (code : Nat) : Int :=
  match code with
  | 1 => 8
  | 2 => 15
  | 3 => 2
  | 4 => 4
  | 5 => 2
  | _ => 0

/-- The exponent of the leading bit of a finite value; none for zero. -/
def leadingExp : Exact → Option Int
  | .fin _ m e => if m = 0 then none else some (topExp m e)
  | _ => none

/-- The elements of a block converted, each with its own draw. -/
def packElems (code rm : Nat) (t : Int) (draws : Bool) : List Exact → BitVec 32 → List Nat × Flags × BitVec 32
  | [], seed => ([], 0, seed)
  | v :: r, seed =>
    let seed := if draws then stepSeed seed else seed
    let y : Rounded := match mxFmt code with
      | some f =>
        let y := f.convert (if draws then rm else plainMode rm) true seed.toNat false (v.scale (-t))
        ⟨y.bits, y.flags &&& ~~~fOF⟩
      | none =>
        let y := toInteger (plainMode rm) true 8 (v.scale (6 - t))
        ⟨y.bits, y.flags &&& ~~~fNV⟩
    let q := packElems code rm t draws r seed
    (y.bits :: q.1, y.flags ||| q.2.1, q.2.2)

/-- An MX block formed from wider values (R155): scale byte, elements, flags and the generator after its
draws.
DEDUCED, log entry 82. -/
def packBlock (code rm : Nat) (draws : Bool) (vs : List Exact) (seed : BitVec 32) :
    Nat × List Nat × Flags × BitVec 32 :=
  let after := if draws then stepSeeds vs.length seed else seed
  if vs.any fun v => v.isNan || v.isInf then (0xFF, vs.map fun _ => 0, fNV, after)
  else
    match vs.filterMap leadingExp with
    | [] => (0x7F, vs.map fun v => match mxFmt code with | some f => f.signed v.neg 0 | none => 0, 0, after)
    | e :: r =>
      let t := min 127 (max (-127) (r.foldl max e - mxTop code))
      let q := packElems code rm t draws vs seed
      ((t + 127).toNat, q.1, q.2.1, q.2.2)

/-- The blocks of a register formed one after another. -/
def packBlocks (code rm : Nat) (draws : Bool) (val : Nat → Exact) (nb bb : Nat) :
    List Nat → VReg → Flags → BitVec 32 → VReg × Flags × BitVec 32
  | [], d, fl, seed => (d, fl, seed)
  | b :: r, d, fl, seed =>
    let q := packBlock code rm draws ((List.range 32).map fun i => val (32 * b + i)) seed
    let data := packBits (mxBits code) (fun i => q.2.1.getD i 0) 32
    let d := (d.putBits (8 * bb * b) (8 * bb) data).putBits (8 * (nb * bb + b)) 8 q.1
    packBlocks code rm draws val nb bb r d (fl ||| q.2.2.1) q.2.2.2

/-- `vmxpack` (R281). -/
def packLanes (s : State) (w : Site) (d a : BitVec 5) (code : Nat) (p : BitVec 2) : Eff State := do
  if code = 0 || 7 ≤ code then raiseIllegal s w
  vecReady s [a] [d]
  let sh ← shapeFor s w 8 10
  if sh.n % 32 ≠ 0 then raiseIllegal s w
  else
    let x := readVec s sh.eb (a, p)
    checkVec s w a x sh.eb (sh.active false)
    let draws := sh.rm == 5 && code != 6
    let nb := sh.n / 32
    let r := packBlocks code sh.rm draws (fun i => sh.fmt.value (x.elem sh.eb i)) nb (4 * mxBits code)
      (List.range nb) (s.me.vec d) 0 s.me.r.srseed
    return s.setMe (s.me.converted d r)

/-- `vmxunpack` (R282). -/
def unpackLanes (s : State) (w : Site) (d a : BitVec 5) (code : Nat) (p : BitVec 2) : Eff State := do
  if code = 0 || 7 ≤ code then raiseIllegal s w
  vecReady s [a] [d]
  let sh ← shapeFor s w 8 10
  if sh.n % 32 ≠ 0 then raiseIllegal s w
  else
    let x := readVec s sh.eb (a, p)
    let nb := sh.n / 32
    let bb := 4 * mxBits code
    checkVec s w a x 1 (List.range (nb * bb + nb))
    let g := fun i =>
      let e := bitsOf x.bits.toNat (8 * bb * (i / 32) + mxBits code * (i % 32)) (mxBits code)
      match scaleExp (BitVec.ofNat 8 (x.elem 1 (nb * bb + i / 32))) with
      | none => (⟨sh.fmt.qnan, fNV⟩ : Rounded)
      | some t =>
        match mxFmt code with
        | some f => sh.fmt.convert sh.mode false 0 (f.isSignalling e) ((f.value e).scale t)
        | none =>
          let v := toSigned 8 e
          sh.fmt.convert sh.mode false 0 false (.fin (decide (v < 0)) v.natAbs (t - 6))
    return s.setMe (s.me.vresult d (mapElems sh.eb g (sh.active false) (s.me.vec d) 0))

/-! ## Reductions and scans (R170, R283) -/

/-- One level of the pairwise tree: an odd last element passes up unchanged. -/
def pairUp (f : Nat → Nat → Rounded) : List Nat → List Nat × Flags
  | a :: b :: r => let q := pairUp f r; ((f a b).bits :: q.1, (f a b).flags ||| q.2)
  | l => (l, 0)

/-- The pairwise tree; the fuel bounds its levels. -/
def treeReduce (f : Nat → Nat → Rounded) : Nat → List Nat → Flags → List Nat × Flags
  | 0, l, fl => (l, fl)
  | n + 1, l, fl =>
    match l with
    | [] => ([], fl)
    | [a] => ([a], fl)
    | l => let q := pairUp f l; treeReduce f n q.1 (fl ||| q.2)

/-- The inclusive running sums after a first one. -/
def runningSums (f : Nat → Nat → Rounded) : Nat → List Nat → List Nat × Flags
  | _, [] => ([], 0)
  | acc, x :: r =>
    let y := f acc x
    let q := runningSums f y.bits r
    (y.bits :: q.1, y.flags ||| q.2)

/-- Values written at positions of a register. -/
def putAll (eb : Nat) : List (Nat × Nat) → VReg → VReg
  | [], d => d
  | (i, v) :: r, d => putAll eb r (d.putElem eb i v)

/-- The active positions of a row. -/
def Shape.row (sh : Shape) (act : List Nat) (r : Nat) : List Nat := act.filter fun i => i / sh.cols == r

/-- A reduction of each row to flat position r. -/
def reduceRows (s : State) (w : Site) (d a : BitVec 5) (p : BitVec 2) (k : Bool)
    (f : Shape → Nat → Nat → Rounded) : Eff State := do
  vecReady s [a] [d]
  let sh ← shapeFor s w 0 11
  let act := sh.active k
  let x := readVec s sh.eb (a, p)
  checkVec s w a x sh.eb act
  let rows := (List.range sh.rows).map fun r =>
    (r, treeReduce (f sh) 13 ((sh.row act r).map fun i => x.elem sh.eb i) 0)
  let out := rows.filterMap fun t => match t.2.1 with | [v] => some (t.1, v) | _ => none
  let fl := rows.foldl (fun z t => z ||| t.2.2) (0 : Flags)
  return s.setMe (s.me.vresult d (putAll sh.eb out (s.me.vec d), fl))

/-- `vscan`. -/
def scanRows (s : State) (w : Site) (d a : BitVec 5) (p : BitVec 2) (k : Bool)
    (f : Shape → Nat → Nat → Rounded) : Eff State := do
  vecReady s [a] [d]
  let sh ← shapeFor s w 0 11
  let act := sh.active k
  let x := readVec s sh.eb (a, p)
  checkVec s w a x sh.eb act
  let rows := (List.range sh.rows).map fun r =>
    let at_ := sh.row act r
    match at_.map fun i => x.elem sh.eb i with
    | [] => ([], (0 : Flags))
    | v :: rest => let q := runningSums (f sh) v rest; (at_.zip (v :: q.1), q.2)
  let fl := rows.foldl (fun z t => z ||| t.2) (0 : Flags)
  return s.setMe (s.me.vresult d (putAll sh.eb (rows.flatMap (·.1)) (s.me.vec d), fl))

/-- The sum of two elements of a type. -/
def sumOp (sh : Shape) (x y : Nat) : Rounded :=
  if sh.floating then sh.fmt.add sh.mode x y else intOp (· + ·) sh x y

/-- The minimum or maximum of two elements of a type (R252). -/
def minMaxOp (isMax : Bool) (sh : Shape) (x y : Nat) : Rounded :=
  if sh.floating then sh.fmt.minMax isMax x y
  else intOp (if isMax then max else min) sh x y

/-! ## Movement (R284) -/

/-- `vperm`. -/
def permute (s : State) (w : Site) (d a b : BitVec 5) (p q : BitVec 2) (k : Bool) : Eff State := do
  vecReady s [a, b] [d]
  let sh ← shapeFor s w 0 14
  let act := sh.active k
  let x := readVec s sh.eb (a, p)
  let y := readVec s sh.eb (b, q)
  checkVec s w a x sh.eb ((act.map fun i => y.elem sh.eb i).filter fun j => decide (j < sh.n))
  checkVec s w b y sh.eb act
  let g := fun i => exactly (if y.elem sh.eb i < sh.n then x.elem sh.eb (y.elem sh.eb i) else 0)
  return s.setMe (s.me.vresult d (mapElems sh.eb g act (s.me.vec d) 0))

/-- The set positions below N, numbered from 0: pairs of number and position. -/
def Shape.numbered (sh : Shape) : List (Nat × Nat) := (List.range (sh.active true).length).zip (sh.active true)

/-- `vcompress` and `vexpand`: source and destination positions in pairs. -/
def moveLanes (s : State) (w : Site) (d a : BitVec 5) (p : BitVec 2) (f : Shape → List (Nat × Nat)) : Eff State := do
  vecReady s [a] [d]
  let sh ← shapeFor s w 0 14
  let x := readVec s sh.eb (a, p)
  checkVec s w a x sh.eb ((f sh).map (·.1))
  return s.setMe (s.me.vresult d (putAll sh.eb ((f sh).map fun t => (t.2, x.elem sh.eb t.1)) (s.me.vec d), 0))

/-- `vmov`: active bytes with their poison (R271, R404). -/
def moveVector (s : State) (w : Site) (d a : BitVec 5) (p : BitVec 2) (k : Bool) : Eff State := do
  vecReady s [a] [d]
  let sh ← shapeFor s w 0 14
  let x := readVec s sh.eb (a, p)
  let r := (sh.active k).foldl (fun (y : VReg) i =>
    let y := y.putElem sh.eb i (x.elem sh.eb i)
    ⟨y.bits, BitVec.ofNat 4096 (putBits y.poison.toNat (sh.eb * i) sh.eb (bitsOf x.poison.toNat (sh.eb * i) sh.eb))⟩)
    (s.me.vec d)
  return s.setMe (s.me.setVec d r)

/-- `vsplat`. -/
def splat (s : State) (w : Site) (d : BitVec 5) (code : BitVec 6) (k : Bool) : Eff State := do
  ready (available s code)
  vecReady s [] [d]
  let sh ← shapeFor s w 0 14
  let x ← operand s w code
  return s.setMe (s.me.vresult d (mapElems sh.eb (fun _ => exactly x.toNat) (sh.active k) (s.me.vec d) 0))

/-- `vext`. -/
def extract (s : State) (w : Site) (d : BitVec 6) (a : BitVec 5) (code : BitVec 6) : Eff State := do
  ready (available s code && writable s d)
  vecReady s [a] []
  let sh ← shapeFor s w 0 14
  let i ← operand s w code
  if sh.n ≤ i.toNat then return s.setMe (s.me.setS d (known 0))
  else
    checkVec s w a (s.me.vec a) sh.eb [i.toNat]
    return s.setMe (s.me.setS d (known (BitVec.ofNat 64 ((s.me.vec a).elem sh.eb i.toNat))))

/-- `vins`. -/
def insert (s : State) (w : Site) (d : BitVec 5) (v code : BitVec 6) : Eff State := do
  ready (available s v && available s code)
  vecReady s [] [d]
  let sh ← shapeFor s w 0 14
  let x ← operand s w v
  let i ← operand s w code
  if sh.n ≤ i.toNat then return s
  else return s.setMe (s.me.setVec d ((s.me.vec d).putElem sh.eb i.toNat x.toNat))

/-! ## Long accumulators (R171, R172, R286 to R288) -/

/-- A long accumulator as a group reads it. -/
def Core.long (c : Core) (n : BitVec 2) : LongAcc := c.view.la[n.toFin]

/-- A long accumulator written. -/
def Core.setLong (c : Core) (n : BitVec 2) (x : LongAcc) : Core := { c with r := { c.r with la := c.r.la.set n.toFin x } }

/-- One pair added (R172). -/
def addPair (l : LongAcc) (a b : Nat) : LongAcc × Flags :=
  let x := f64.value a
  let y := f64.value b
  if x.isNan || y.isNan then ({ l with nan := true }, f64.signals [a, b])
  else if (x.isInf && y.isZero) || (y.isInf && x.isZero) then ({ l with nan := true }, fNV)
  else if x.isInf || y.isInf then
    if x.neg == y.neg then ({ l with pinf := true }, 0) else ({ l with ninf := true }, 0)
  else
    match x.mul y with
    | .fin neg m e => ({ l with val := l.val + BitVec.ofInt 4288 (scaled neg m e (-2148)) }, 0)
    | _ => (l, 0)

/-- Pairs added in turn. -/
def addPairs : List (Nat × Nat) → LongAcc → Flags → LongAcc × Flags
  | [], l, fl => (l, fl)
  | (a, b) :: r, l, fl => let q := addPair l a b; addPairs r q.1 (fl ||| q.2)

/-- `lafma` and `laadd`: both operands as f64; `b` is 1.0 for `laadd`. -/
def accumulate (s : State) (w : Site) (l : BitVec 2) (a : VSrc) (b : Option VSrc) (k : Bool) : Eff State := do
  vecReady s (a.1 :: b.toList.map (·.1)) []
  let sh ← shapeFor s w 11 11
  let act := sh.active k
  let xs ← readAll s w 8 act (a :: b.toList)
  let pair := fun i => match xs with
    | [x] => (x.elem 8 i, 0x3FF0000000000000)
    | x :: y :: _ => (x.elem 8 i, y.elem 8 i)
    | [] => (0, 0)
  let q := addPairs (act.map pair) (s.me.long l) 0
  let c := s.me.setLong l q.1
  return s.setMe { c with r := c.r.accrue q.2 }

/-- The value `laround` reads out (R172). -/
def LongAcc.read (l : LongAcc) (rm : Nat) : Rounded :=
  if l.pinf && l.ninf then ⟨f64.qnan, fNV⟩
  else if l.nan then ⟨f64.qnan, 0⟩
  else if l.pinf then ⟨f64.infBits, 0⟩
  else if l.ninf then ⟨f64.signed true f64.infBits, 0⟩
  else
    let v := l.val.toInt
    f64.ofExact (plainMode rm) (.fin (decide (v < 0)) v.natAbs (-2148))

/-- `laround` (R287). -/
def roundLong (s : State) (d : BitVec 5) (l : BitVec 2) : Eff State := do
  vecReady s [] [d]
  let r := (s.me.long l).read s.me.shape.rm
  return s.setMe (s.me.vresult d ((s.me.vec d).putElem 8 0 r.bits, r.flags))

/-- `lasgn` (R287). -/
def signLong (s : State) (p q : BitVec 4) (l : BitVec 2) : Eff State :=
  let x := s.me.long l
  let nan := x.nan || (x.pinf && x.ninf)
  let plain := !x.pinf && !x.ninf
  let pos := nan || x.pinf || (plain && decide (0 < x.val.toInt))
  let neg := nan || x.ninf || (plain && decide (x.val.toInt < 0))
  let c := (s.me.setP p pos).setP q neg
  .ok (s.setMe { c with r := c.r.accrue (Flags.on fNV nan) })

/-- `lamov` to a vector register (R288). -/
def longToVector (s : State) (d : BitVec 5) (l : BitVec 2) : Eff State := do
  vecReady s [] [d]
  let x := s.me.long l
  let sticky := ofBool x.nan + 2 * ofBool x.pinf + 4 * ofBool x.ninf
  return s.setMe (s.me.setVec d ((s.me.vec d).putBits 0 (8 * 537) (sticky * 2 ^ 4288 + x.val.toNat)))

/-- `lamov` from a vector register (R288). -/
def vectorToLong (s : State) (w : Site) (l : BitVec 2) (a : BitVec 5) : Eff State := do
  vecReady s [a] []
  let x := s.me.vec a
  checkVec s w a x 1 (List.range 537)
  let sticky := x.elem 1 536
  return s.setMe (s.me.setLong l ⟨BitVec.ofNat 4288 x.bits.toNat, sticky.testBit 0, sticky.testBit 1, sticky.testBit 2⟩)

/-! ## Meanings -/

/-- `vadd` (R275). -/
def execVadd (g : Guard) (d a b : BitVec 5) (p q : BitVec 2) (k : Bool) (s : State) : Out :=
  let W : Site := ⟨.V, slotWord g 0x01 (place [(d.toNat, 15), (a.toNat, 10), (b.toNat, 5), (p.toNat, 3), (q.toNat, 1), (k.toNat, 0)])⟩
  runSlot s g (lanes2 s W 0 7 d a b p q k (intOp (· + ·)))

/-- `vsub` (R275). -/
def execVsub (g : Guard) (d a b : BitVec 5) (p q : BitVec 2) (k : Bool) (s : State) : Out :=
  let W : Site := ⟨.V, slotWord g 0x02 (place [(d.toNat, 15), (a.toNat, 10), (b.toNat, 5), (p.toNat, 3), (q.toNat, 1), (k.toNat, 0)])⟩
  runSlot s g (lanes2 s W 0 7 d a b p q k (intOp (· - ·)))

/-- `vmul` (R275). -/
def execVmul (g : Guard) (d a b : BitVec 5) (p q : BitVec 2) (k : Bool) (s : State) : Out :=
  let W : Site := ⟨.V, slotWord g 0x03 (place [(d.toNat, 15), (a.toNat, 10), (b.toNat, 5), (p.toNat, 3), (q.toNat, 1), (k.toNat, 0)])⟩
  runSlot s g (lanes2 s W 0 7 d a b p q k (intOp (· * ·)))

/-- `vmulh` (R275). -/
def execVmulh (g : Guard) (d a b : BitVec 5) (p q : BitVec 2) (k : Bool) (s : State) : Out :=
  let W : Site := ⟨.V, slotWord g 0x04 (place [(d.toNat, 15), (a.toNat, 10), (b.toNat, 5), (p.toNat, 3), (q.toNat, 1), (k.toNat, 0)])⟩
  runSlot s g (lanes2 s W 0 7 d a b p q k (fun sh => intOp (fun x y => x * y / (2 ^ sh.w : Nat)) sh))

/-- `vaddsat` (R275). -/
def execVaddsat (g : Guard) (d a b : BitVec 5) (p q : BitVec 2) (k : Bool) (s : State) : Out :=
  let W : Site := ⟨.V, slotWord g 0x05 (place [(d.toNat, 15), (a.toNat, 10), (b.toNat, 5), (p.toNat, 3), (q.toNat, 1), (k.toNat, 0)])⟩
  runSlot s g (lanes2 s W 0 7 d a b p q k (satOp (· + ·)))

/-- `vsubsat` (R275). -/
def execVsubsat (g : Guard) (d a b : BitVec 5) (p q : BitVec 2) (k : Bool) (s : State) : Out :=
  let W : Site := ⟨.V, slotWord g 0x06 (place [(d.toNat, 15), (a.toNat, 10), (b.toNat, 5), (p.toNat, 3), (q.toNat, 1), (k.toNat, 0)])⟩
  runSlot s g (lanes2 s W 0 7 d a b p q k (satOp (· - ·)))

/-- `vavg` (R275). -/
def execVavg (g : Guard) (d a b : BitVec 5) (p q : BitVec 2) (k : Bool) (s : State) : Out :=
  let W : Site := ⟨.V, slotWord g 0x07 (place [(d.toNat, 15), (a.toNat, 10), (b.toNat, 5), (p.toNat, 3), (q.toNat, 1), (k.toNat, 0)])⟩
  runSlot s g (lanes2 s W 0 7 d a b p q k (intOp fun x y => (x + y + 1) / 2))

/-- `vmin` (R275). -/
def execVmin (g : Guard) (d a b : BitVec 5) (p q : BitVec 2) (k : Bool) (s : State) : Out :=
  let W : Site := ⟨.V, slotWord g 0x08 (place [(d.toNat, 15), (a.toNat, 10), (b.toNat, 5), (p.toNat, 3), (q.toNat, 1), (k.toNat, 0)])⟩
  runSlot s g (lanes2 s W 0 7 d a b p q k (intOp min))

/-- `vmax` (R275). -/
def execVmax (g : Guard) (d a b : BitVec 5) (p q : BitVec 2) (k : Bool) (s : State) : Out :=
  let W : Site := ⟨.V, slotWord g 0x09 (place [(d.toNat, 15), (a.toNat, 10), (b.toNat, 5), (p.toNat, 3), (q.toNat, 1), (k.toNat, 0)])⟩
  runSlot s g (lanes2 s W 0 7 d a b p q k (intOp max))

/-- `vabs` (R275). -/
def execVabs (g : Guard) (d a : BitVec 5) (p : BitVec 2) (k : Bool) (s : State) : Out :=
  let W : Site := ⟨.V, slotWord g 0x0A (place [(d.toNat, 15), (a.toNat, 10), (p.toNat, 3), (k.toNat, 0)])⟩
  runSlot s g (lanes1 s W 0 7 d a p k fun sh x => exactly (wrap sh.w (asInt sh.signed sh.w x).natAbs))

/-- `vand` (R275). -/
def execVand (g : Guard) (d a b : BitVec 5) (p q : BitVec 2) (k : Bool) (s : State) : Out :=
  let W : Site := ⟨.V, slotWord g 0x0B (place [(d.toNat, 15), (a.toNat, 10), (b.toNat, 5), (p.toNat, 3), (q.toNat, 1), (k.toNat, 0)])⟩
  runSlot s g (lanes2 s W 0 14 d a b p q k (bitOp fun _ x y => x &&& y))

/-- `vor` (R275). -/
def execVor (g : Guard) (d a b : BitVec 5) (p q : BitVec 2) (k : Bool) (s : State) : Out :=
  let W : Site := ⟨.V, slotWord g 0x0C (place [(d.toNat, 15), (a.toNat, 10), (b.toNat, 5), (p.toNat, 3), (q.toNat, 1), (k.toNat, 0)])⟩
  runSlot s g (lanes2 s W 0 14 d a b p q k (bitOp fun _ x y => x ||| y))

/-- `vxor` (R275). -/
def execVxor (g : Guard) (d a b : BitVec 5) (p q : BitVec 2) (k : Bool) (s : State) : Out :=
  let W : Site := ⟨.V, slotWord g 0x0D (place [(d.toNat, 15), (a.toNat, 10), (b.toNat, 5), (p.toNat, 3), (q.toNat, 1), (k.toNat, 0)])⟩
  runSlot s g (lanes2 s W 0 14 d a b p q k (bitOp fun _ x y => x ^^^ y))

/-- `vandn` (R275). -/
def execVandn (g : Guard) (d a b : BitVec 5) (p q : BitVec 2) (k : Bool) (s : State) : Out :=
  let W : Site := ⟨.V, slotWord g 0x0E (place [(d.toNat, 15), (a.toNat, 10), (b.toNat, 5), (p.toNat, 3), (q.toNat, 1), (k.toNat, 0)])⟩
  runSlot s g (lanes2 s W 0 14 d a b p q k (bitOp fun w x y => x &&& (2 ^ w - 1 - y)))

/-- `vshl` (R275). -/
def execVshl (g : Guard) (d a b : BitVec 5) (p q : BitVec 2) (k : Bool) (s : State) : Out :=
  let W : Site := ⟨.V, slotWord g 0x0F (place [(d.toNat, 15), (a.toNat, 10), (b.toNat, 5), (p.toNat, 3), (q.toNat, 1), (k.toNat, 0)])⟩
  runSlot s g (lanes2 s W 0 7 d a b p q k (bitOp fun w x n => if w ≤ n then 0 else x * 2 ^ n))

/-- `vshr` (R275). -/
def execVshr (g : Guard) (d a b : BitVec 5) (p q : BitVec 2) (k : Bool) (s : State) : Out :=
  let W : Site := ⟨.V, slotWord g 0x10 (place [(d.toNat, 15), (a.toNat, 10), (b.toNat, 5), (p.toNat, 3), (q.toNat, 1), (k.toNat, 0)])⟩
  runSlot s g (lanes2 s W 0 7 d a b p q k (bitOp fun w x n => if w ≤ n then 0 else x / 2 ^ n))

/-- `vsra` (R275). -/
def execVsra (g : Guard) (d a b : BitVec 5) (p q : BitVec 2) (k : Bool) (s : State) : Out :=
  let W : Site := ⟨.V, slotWord g 0x11 (place [(d.toNat, 15), (a.toNat, 10), (b.toNat, 5), (p.toNat, 3), (q.toNat, 1), (k.toNat, 0)])⟩
  runSlot s g (lanes2 s W 0 7 d a b p q k (bitOp shiftArith))

/-- `vcmp.eq` (R276). -/
def execVcmpEq (g : Guard) (m : BitVec 3) (a b : BitVec 5) (p q : BitVec 2) (k : Bool) (s : State) : Out :=
  let W : Site := ⟨.V, slotWord g 0x12 (place [(m.toNat, 15), (a.toNat, 10), (b.toNat, 5), (p.toNat, 3), (q.toNat, 1), (k.toNat, 0)])⟩
  runSlot s g (compareLanes s W 0 7 m a b p q k (relInt .eq))

/-- `vcmp.ne` (R276). -/
def execVcmpNe (g : Guard) (m : BitVec 3) (a b : BitVec 5) (p q : BitVec 2) (k : Bool) (s : State) : Out :=
  let W : Site := ⟨.V, slotWord g 0x13 (place [(m.toNat, 15), (a.toNat, 10), (b.toNat, 5), (p.toNat, 3), (q.toNat, 1), (k.toNat, 0)])⟩
  runSlot s g (compareLanes s W 0 7 m a b p q k (relInt .ne))

/-- `vcmp.lt` (R276). -/
def execVcmpLt (g : Guard) (m : BitVec 3) (a b : BitVec 5) (p q : BitVec 2) (k : Bool) (s : State) : Out :=
  let W : Site := ⟨.V, slotWord g 0x14 (place [(m.toNat, 15), (a.toNat, 10), (b.toNat, 5), (p.toNat, 3), (q.toNat, 1), (k.toNat, 0)])⟩
  runSlot s g (compareLanes s W 0 7 m a b p q k (relInt .lt))

/-- `vcmp.le` (R276). -/
def execVcmpLe (g : Guard) (m : BitVec 3) (a b : BitVec 5) (p q : BitVec 2) (k : Bool) (s : State) : Out :=
  let W : Site := ⟨.V, slotWord g 0x15 (place [(m.toNat, 15), (a.toNat, 10), (b.toNat, 5), (p.toNat, 3), (q.toNat, 1), (k.toNat, 0)])⟩
  runSlot s g (compareLanes s W 0 7 m a b p q k (relInt .le))

/-- `vcmp.gt` (R276). -/
def execVcmpGt (g : Guard) (m : BitVec 3) (a b : BitVec 5) (p q : BitVec 2) (k : Bool) (s : State) : Out :=
  let W : Site := ⟨.V, slotWord g 0x16 (place [(m.toNat, 15), (a.toNat, 10), (b.toNat, 5), (p.toNat, 3), (q.toNat, 1), (k.toNat, 0)])⟩
  runSlot s g (compareLanes s W 0 7 m a b p q k (relInt .gt))

/-- `vcmp.ge` (R276). -/
def execVcmpGe (g : Guard) (m : BitVec 3) (a b : BitVec 5) (p q : BitVec 2) (k : Bool) (s : State) : Out :=
  let W : Site := ⟨.V, slotWord g 0x17 (place [(m.toNat, 15), (a.toNat, 10), (b.toNat, 5), (p.toNat, 3), (q.toNat, 1), (k.toNat, 0)])⟩
  runSlot s g (compareLanes s W 0 7 m a b p q k (relInt .ge))

/-- `vsel` (R276). -/
def execVsel (g : Guard) (d a b : BitVec 5) (p q : BitVec 2) (s : State) : Out :=
  let W : Site := ⟨.V, slotWord g 0x18 (place [(d.toNat, 15), (a.toNat, 10), (b.toNat, 5), (p.toNat, 3), (q.toNat, 1)])⟩
  runSlot s g (selectLanes s W d a b p q)

/-- `vfadd` (R278). -/
def execVfadd (g : Guard) (d a b : BitVec 5) (p q : BitVec 2) (k : Bool) (s : State) : Out :=
  let W : Site := ⟨.V, slotWord g 0x20 (place [(d.toNat, 15), (a.toNat, 10), (b.toNat, 5), (p.toNat, 3), (q.toNat, 1), (k.toNat, 0)])⟩
  runSlot s g (lanes2 s W 8 11 d a b p q k (fun sh => sh.fmt.add sh.mode))

/-- `vfsub` (R278). -/
def execVfsub (g : Guard) (d a b : BitVec 5) (p q : BitVec 2) (k : Bool) (s : State) : Out :=
  let W : Site := ⟨.V, slotWord g 0x21 (place [(d.toNat, 15), (a.toNat, 10), (b.toNat, 5), (p.toNat, 3), (q.toNat, 1), (k.toNat, 0)])⟩
  runSlot s g (lanes2 s W 8 11 d a b p q k (fun sh => sh.fmt.sub sh.mode))

/-- `vfmul` (R278). -/
def execVfmul (g : Guard) (d a b : BitVec 5) (p q : BitVec 2) (k : Bool) (s : State) : Out :=
  let W : Site := ⟨.V, slotWord g 0x22 (place [(d.toNat, 15), (a.toNat, 10), (b.toNat, 5), (p.toNat, 3), (q.toNat, 1), (k.toNat, 0)])⟩
  runSlot s g (lanes2 s W 8 11 d a b p q k (fun sh => sh.fmt.mul sh.mode))

/-- `vffma` (R278). -/
def execVffma (g : Guard) (d a b : BitVec 5) (p q : BitVec 2) (k : Bool) (s : State) : Out :=
  let W : Site := ⟨.V, slotWord g 0x23 (place [(d.toNat, 15), (a.toNat, 10), (b.toNat, 5), (p.toNat, 3), (q.toNat, 1), (k.toNat, 0)])⟩
  runSlot s g (fused s W d a b p q k false false)

/-- `vffms` (R278). -/
def execVffms (g : Guard) (d a b : BitVec 5) (p q : BitVec 2) (k : Bool) (s : State) : Out :=
  let W : Site := ⟨.V, slotWord g 0x24 (place [(d.toNat, 15), (a.toNat, 10), (b.toNat, 5), (p.toNat, 3), (q.toNat, 1), (k.toNat, 0)])⟩
  runSlot s g (fused s W d a b p q k false true)

/-- `vfnma` (R278). -/
def execVfnma (g : Guard) (d a b : BitVec 5) (p q : BitVec 2) (k : Bool) (s : State) : Out :=
  let W : Site := ⟨.V, slotWord g 0x25 (place [(d.toNat, 15), (a.toNat, 10), (b.toNat, 5), (p.toNat, 3), (q.toNat, 1), (k.toNat, 0)])⟩
  runSlot s g (fused s W d a b p q k true false)

/-- `vfmin` (R252). -/
def execVfmin (g : Guard) (d a b : BitVec 5) (p q : BitVec 2) (k : Bool) (s : State) : Out :=
  let W : Site := ⟨.V, slotWord g 0x26 (place [(d.toNat, 15), (a.toNat, 10), (b.toNat, 5), (p.toNat, 3), (q.toNat, 1), (k.toNat, 0)])⟩
  runSlot s g (lanes2 s W 8 11 d a b p q k (fun sh => sh.fmt.minMax false))

/-- `vfmax` (R252). -/
def execVfmax (g : Guard) (d a b : BitVec 5) (p q : BitVec 2) (k : Bool) (s : State) : Out :=
  let W : Site := ⟨.V, slotWord g 0x27 (place [(d.toNat, 15), (a.toNat, 10), (b.toNat, 5), (p.toNat, 3), (q.toNat, 1), (k.toNat, 0)])⟩
  runSlot s g (lanes2 s W 8 11 d a b p q k (fun sh => sh.fmt.minMax true))

/-- `vfdiv` (R278). -/
def execVfdiv (g : Guard) (d a b : BitVec 5) (p q : BitVec 2) (k : Bool) (s : State) : Out :=
  let W : Site := ⟨.V, slotWord g 0x28 (place [(d.toNat, 15), (a.toNat, 10), (b.toNat, 5), (p.toNat, 3), (q.toNat, 1), (k.toNat, 0)])⟩
  runSlot s g (lanes2 s W 8 11 d a b p q k (fun sh => sh.fmt.div sh.mode))

/-- `vfsqrt` (R278, R279). -/
def execVfsqrt (g : Guard) (d a : BitVec 5) (p : BitVec 2) (k : Bool) (s : State) : Out :=
  let W : Site := ⟨.V, slotWord g 0x29 (place [(d.toNat, 15), (a.toNat, 10), (p.toNat, 3), (k.toNat, 0)])⟩
  runSlot s g (lanes1 s W 8 11 d a p k fun sh => sh.fmt.sqrt sh.mode)

/-- `vfrcp` (R278, R279). -/
def execVfrcp (g : Guard) (d a : BitVec 5) (p : BitVec 2) (k : Bool) (s : State) : Out :=
  let W : Site := ⟨.V, slotWord g 0x2A (place [(d.toNat, 15), (a.toNat, 10), (p.toNat, 3), (k.toNat, 0)])⟩
  runSlot s g (lanes1 s W 8 11 d a p k fun sh => sh.fmt.rcp sh.mode)

/-- `vfrsq` (R278, R279). -/
def execVfrsq (g : Guard) (d a : BitVec 5) (p : BitVec 2) (k : Bool) (s : State) : Out :=
  let W : Site := ⟨.V, slotWord g 0x2B (place [(d.toNat, 15), (a.toNat, 10), (p.toNat, 3), (k.toNat, 0)])⟩
  runSlot s g (lanes1 s W 8 11 d a p k fun sh => sh.fmt.rsqrt sh.mode)

/-- `vfexp2` (R279). -/
def execVfexp2 (g : Guard) (d a : BitVec 5) (p : BitVec 2) (k : Bool) (s : State) : Out :=
  let W : Site := ⟨.V, slotWord g 0x2C (place [(d.toNat, 15), (a.toNat, 10), (p.toNat, 3), (k.toNat, 0)])⟩
  runSlot s g (lanes1 s W 8 11 d a p k fun sh => sh.fmt.exp2)

/-- `vflog2` (R279). -/
def execVflog2 (g : Guard) (d a : BitVec 5) (p : BitVec 2) (k : Bool) (s : State) : Out :=
  let W : Site := ⟨.V, slotWord g 0x2D (place [(d.toNat, 15), (a.toNat, 10), (p.toNat, 3), (k.toNat, 0)])⟩
  runSlot s g (lanes1 s W 8 11 d a p k fun sh => sh.fmt.log2)

/-- `vftanh` (R279). -/
def execVftanh (g : Guard) (d a : BitVec 5) (p : BitVec 2) (k : Bool) (s : State) : Out :=
  let W : Site := ⟨.V, slotWord g 0x2E (place [(d.toNat, 15), (a.toNat, 10), (p.toNat, 3), (k.toNat, 0)])⟩
  runSlot s g (lanes1 s W 8 11 d a p k fun sh => sh.fmt.tanh)

/-- `vfcls` (R277). -/
def execVfcls (g : Guard) (d a : BitVec 5) (p : BitVec 2) (k : Bool) (s : State) : Out :=
  let W : Site := ⟨.V, slotWord g 0x2F (place [(d.toNat, 15), (a.toNat, 10), (p.toNat, 3), (k.toNat, 0)])⟩
  runSlot s g (lanes1 s W 8 11 d a p k fun sh x => exactly (sh.fmt.classify x))

/-- `vfcmp.eq` (R276). -/
def execVfcmpEq (g : Guard) (m : BitVec 3) (a b : BitVec 5) (p q : BitVec 2) (k : Bool) (s : State) : Out :=
  let W : Site := ⟨.V, slotWord g 0x30 (place [(m.toNat, 15), (a.toNat, 10), (b.toNat, 5), (p.toNat, 3), (q.toNat, 1), (k.toNat, 0)])⟩
  runSlot s g (compareLanes s W 8 11 m a b p q k (relFloat .eq))

/-- `vfcmp.ne` (R276). -/
def execVfcmpNe (g : Guard) (m : BitVec 3) (a b : BitVec 5) (p q : BitVec 2) (k : Bool) (s : State) : Out :=
  let W : Site := ⟨.V, slotWord g 0x31 (place [(m.toNat, 15), (a.toNat, 10), (b.toNat, 5), (p.toNat, 3), (q.toNat, 1), (k.toNat, 0)])⟩
  runSlot s g (compareLanes s W 8 11 m a b p q k (relFloat .ne))

/-- `vfcmp.lt` (R276). -/
def execVfcmpLt (g : Guard) (m : BitVec 3) (a b : BitVec 5) (p q : BitVec 2) (k : Bool) (s : State) : Out :=
  let W : Site := ⟨.V, slotWord g 0x32 (place [(m.toNat, 15), (a.toNat, 10), (b.toNat, 5), (p.toNat, 3), (q.toNat, 1), (k.toNat, 0)])⟩
  runSlot s g (compareLanes s W 8 11 m a b p q k (relFloat .lt))

/-- `vfcmp.le` (R276). -/
def execVfcmpLe (g : Guard) (m : BitVec 3) (a b : BitVec 5) (p q : BitVec 2) (k : Bool) (s : State) : Out :=
  let W : Site := ⟨.V, slotWord g 0x33 (place [(m.toNat, 15), (a.toNat, 10), (b.toNat, 5), (p.toNat, 3), (q.toNat, 1), (k.toNat, 0)])⟩
  runSlot s g (compareLanes s W 8 11 m a b p q k (relFloat .le))

/-- `vfcmp.gt` (R276). -/
def execVfcmpGt (g : Guard) (m : BitVec 3) (a b : BitVec 5) (p q : BitVec 2) (k : Bool) (s : State) : Out :=
  let W : Site := ⟨.V, slotWord g 0x34 (place [(m.toNat, 15), (a.toNat, 10), (b.toNat, 5), (p.toNat, 3), (q.toNat, 1), (k.toNat, 0)])⟩
  runSlot s g (compareLanes s W 8 11 m a b p q k (relFloat .gt))

/-- `vfcmp.ge` (R276). -/
def execVfcmpGe (g : Guard) (m : BitVec 3) (a b : BitVec 5) (p q : BitVec 2) (k : Bool) (s : State) : Out :=
  let W : Site := ⟨.V, slotWord g 0x35 (place [(m.toNat, 15), (a.toNat, 10), (b.toNat, 5), (p.toNat, 3), (q.toNat, 1), (k.toNat, 0)])⟩
  runSlot s g (compareLanes s W 8 11 m a b p q k (relFloat .ge))

/-- `vcvt` (R280). -/
def execVcvt (g : Guard) (d a t : BitVec 5) (p : BitVec 2) (sr k : Bool) (s : State) : Out :=
  let W : Site := ⟨.V, slotWord g 0x38 (place [(d.toNat, 15), (a.toNat, 10), (t.toNat, 5), (p.toNat, 3), (sr.toNat, 1), (k.toNat, 0)])⟩
  runSlot s g (convertLanes s W d a t.toNat p sr k)

/-- `vmxpack` (R281). -/
def execVmxpack (g : Guard) (d a f : BitVec 5) (p : BitVec 2) (s : State) : Out :=
  let W : Site := ⟨.V, slotWord g 0x39 (place [(d.toNat, 15), (a.toNat, 10), (f.toNat, 5), (p.toNat, 3)])⟩
  runSlot s g (packLanes s W d a f.toNat p)

/-- `vmxunpack` (R282). -/
def execVmxunpack (g : Guard) (d a f : BitVec 5) (p : BitVec 2) (s : State) : Out :=
  let W : Site := ⟨.V, slotWord g 0x3A (place [(d.toNat, 15), (a.toNat, 10), (f.toNat, 5), (p.toNat, 3)])⟩
  runSlot s g (unpackLanes s W d a f.toNat p)

/-- `vredadd` (R283). -/
def execVredadd (g : Guard) (d a : BitVec 5) (p : BitVec 2) (k : Bool) (s : State) : Out :=
  let W : Site := ⟨.V, slotWord g 0x40 (place [(d.toNat, 15), (a.toNat, 10), (p.toNat, 3), (k.toNat, 0)])⟩
  runSlot s g (reduceRows s W d a p k sumOp)

/-- `vredmin` (R283). -/
def execVredmin (g : Guard) (d a : BitVec 5) (p : BitVec 2) (k : Bool) (s : State) : Out :=
  let W : Site := ⟨.V, slotWord g 0x41 (place [(d.toNat, 15), (a.toNat, 10), (p.toNat, 3), (k.toNat, 0)])⟩
  runSlot s g (reduceRows s W d a p k (minMaxOp false))

/-- `vredmax` (R283). -/
def execVredmax (g : Guard) (d a : BitVec 5) (p : BitVec 2) (k : Bool) (s : State) : Out :=
  let W : Site := ⟨.V, slotWord g 0x42 (place [(d.toNat, 15), (a.toNat, 10), (p.toNat, 3), (k.toNat, 0)])⟩
  runSlot s g (reduceRows s W d a p k (minMaxOp true))

/-- `vscan` (R283). -/
def execVscan (g : Guard) (d a : BitVec 5) (p : BitVec 2) (k : Bool) (s : State) : Out :=
  let W : Site := ⟨.V, slotWord g 0x43 (place [(d.toNat, 15), (a.toNat, 10), (p.toNat, 3), (k.toNat, 0)])⟩
  runSlot s g (scanRows s W d a p k sumOp)

/-- `vperm` (R284). -/
def execVperm (g : Guard) (d a b : BitVec 5) (p q : BitVec 2) (k : Bool) (s : State) : Out :=
  let W : Site := ⟨.V, slotWord g 0x48 (place [(d.toNat, 15), (a.toNat, 10), (b.toNat, 5), (p.toNat, 3), (q.toNat, 1), (k.toNat, 0)])⟩
  runSlot s g (permute s W d a b p q k)

/-- `vcompress` (R284). -/
def execVcompress (g : Guard) (d a : BitVec 5) (p : BitVec 2) (s : State) : Out :=
  let W : Site := ⟨.V, slotWord g 0x49 (place [(d.toNat, 15), (a.toNat, 10), (p.toNat, 3), (1, 0)])⟩
  runSlot s g (moveLanes s W d a p fun sh => sh.numbered.map fun t => (t.2, t.1))

/-- `vexpand` (R284). -/
def execVexpand (g : Guard) (d a : BitVec 5) (p : BitVec 2) (s : State) : Out :=
  let W : Site := ⟨.V, slotWord g 0x4A (place [(d.toNat, 15), (a.toNat, 10), (p.toNat, 3), (1, 0)])⟩
  runSlot s g (moveLanes s W d a p Shape.numbered)

/-- `vmov` (R284). -/
def execVmov (g : Guard) (d a : BitVec 5) (p : BitVec 2) (k : Bool) (s : State) : Out :=
  let W : Site := ⟨.V, slotWord g 0x4B (place [(d.toNat, 15), (a.toNat, 10), (p.toNat, 3), (k.toNat, 0)])⟩
  runSlot s g (moveVector s W d a p k)

/-- `vsplat` (R284). -/
def execVsplat (g : Guard) (d : BitVec 5) (sr : BitVec 6) (k : Bool) (s : State) : Out :=
  let W : Site := ⟨.V, slotWord g 0x4C (place [(d.toNat, 15), (sr.toNat, 5), (k.toNat, 0)])⟩
  runSlot s g (splat s W d sr k)

/-- `vext` (R284). -/
def execVext (g : Guard) (sr : BitVec 6) (a : BitVec 5) (i : BitVec 6) (s : State) : Out :=
  let W : Site := ⟨.V, slotWord g 0x4D (place [(sr.toNat, 14), (a.toNat, 9), (i.toNat, 3)])⟩
  runSlot s g (extract s W sr a i)

/-- `vins` (R284). -/
def execVins (g : Guard) (d : BitVec 5) (v i : BitVec 6) (s : State) : Out :=
  let W : Site := ⟨.V, slotWord g 0x4E (place [(d.toNat, 15), (v.toNat, 9), (i.toNat, 3)])⟩
  runSlot s g (insert s W d v i)

/-- `mand` (R285). -/
def execMand (g : Guard) (d a b : BitVec 3) (s : State) : Out :=
  runSlot s g (maskOp s d (s.me.mask a &&& s.me.mask b))

/-- `mor` (R285). -/
def execMor (g : Guard) (d a b : BitVec 3) (s : State) : Out :=
  runSlot s g (maskOp s d (s.me.mask a ||| s.me.mask b))

/-- `mxor` (R285). -/
def execMxor (g : Guard) (d a b : BitVec 3) (s : State) : Out :=
  runSlot s g (maskOp s d (s.me.mask a ^^^ s.me.mask b))

/-- `mnot` (R285). -/
def execMnot (g : Guard) (d a : BitVec 3) (s : State) : Out :=
  runSlot s g (maskOp s d (~~~s.me.mask a))

/-- `mpopc` (R285). -/
def execMpopc (g : Guard) (sr : BitVec 6) (m : BitVec 3) (s : State) : Out :=
  let W : Site := ⟨.V, slotWord g 0x54 (place [(sr.toNat, 14), (m.toNat, 11)])⟩
  runSlot s g (scalarFromMask s W sr fun n => setBits n (s.me.mask m).toNat)

/-- `mfirst` (R285). -/
def execMfirst (g : Guard) (sr : BitVec 6) (m : BitVec 3) (s : State) : Out :=
  let W : Site := ⟨.V, slotWord g 0x55 (place [(sr.toNat, 14), (m.toNat, 11)])⟩
  runSlot s g (scalarFromMask s W sr (firstSet (s.me.mask m).toNat))

/-- `laclr` (R286). -/
def execLaclr (g : Guard) (l : BitVec 2) (s : State) : Out :=
  runSlot s g (.ok (s.setMe (s.me.setLong l ⟨0, false, false, false⟩)))

/-- `lafma` (R286). -/
def execLafma (g : Guard) (l : BitVec 2) (a b : BitVec 5) (p q : BitVec 2) (k : Bool) (s : State) : Out :=
  let W : Site := ⟨.V, slotWord g 0x59 (place [(l.toNat, 15), (a.toNat, 10), (b.toNat, 5), (p.toNat, 3), (q.toNat, 1), (k.toNat, 0)])⟩
  runSlot s g (accumulate s W l (a, p) (some (b, q)) k)

/-- `laadd` (R286). -/
def execLaadd (g : Guard) (l : BitVec 2) (a : BitVec 5) (p : BitVec 2) (k : Bool) (s : State) : Out :=
  let W : Site := ⟨.V, slotWord g 0x5A (place [(l.toNat, 15), (a.toNat, 10), (p.toNat, 3), (k.toNat, 0)])⟩
  runSlot s g (accumulate s W l (a, p) none k)

/-- `laround` (R287). -/
def execLaround (g : Guard) (d : BitVec 5) (l : BitVec 2) (s : State) : Out :=
  runSlot s g (roundLong s d l)

/-- `lasgn` (R287). -/
def execLasgn (g : Guard) (p q : BitVec 4) (l : BitVec 2) (s : State) : Out :=
  runSlot s g (signLong s p q l)

/-- `lamov` to a vector register (R288). -/
def execLamovToVector (g : Guard) (d : BitVec 5) (l : BitVec 2) (s : State) : Out :=
  runSlot s g (longToVector s d l)

/-- `lamov` from a vector register (R288). -/
def execLamovFromVector (g : Guard) (l : BitVec 2) (a : BitVec 5) (s : State) : Out :=
  let W : Site := ⟨.V, slotWord g 0x5E (place [(l.toNat, 15), (a.toNat, 10)])⟩
  runSlot s g (vectorToLong s W l a)

end Sys2Proof.Machine
end

