-- ==== Sys2Proof/Machine/Matrix.lean ====
section
/-! DEFINITION. The M slot (R289 to R303). -/
namespace Sys2Proof.Machine

/-! ## Tiles (R116) -/

/-- A tile register as a group reads it. -/
def Core.tile (c : Core) (n : Nat) : TReg := getReg c.view.t n ⟨0, 0⟩

/-- A tile register with new contents. -/
def Core.setTile (c : Core) (n : Nat) (x : TReg) : Core := { c with r := { c.r with t := setReg c.r.t n x } }

/-- Bytes of a tile from an offset, as a number. -/
def TReg.get (x : TReg) (off n : Nat) : Nat := bitsOf x.bits.toNat (8 * off) (8 * n)

/-- Bytes of a tile hold poison. -/
def TReg.bad (x : TReg) (off n : Nat) : Bool := bitsOf x.poison.toNat off n != 0

/-- Bytes of a tile written, all clean or all poisoned. -/
def TReg.put (x : TReg) (off n v : Nat) (bad : Bool) : TReg :=
  ⟨BitVec.ofNat 131072 (putBits x.bits.toNat (8 * off) (8 * n) v),
    BitVec.ofNat 16384 (putBits x.poison.toNat off n (if bad then 2 ^ n - 1 else 0))⟩

/-- Every element (i, j) of a 64 x 64 tile, row by row. -/
def tileCells : List (Nat × Nat) := (List.range 4096).map fun n => (n / 64, n % 64)

/-! ## Streams (R291 to R293) -/

/-- A stream register's fields. -/
structure Stream where
  src : Nat
  tile : Nat
  base : Nat
  fmt : Nat
  mx : Bool
  sparse : Bool
  pitch : Nat
  klen : Nat
  gbytes : Nat
  sloc : Nat
  stile : Nat
  spitch : Nat
  sstr : Nat
  sbase : Nat
  deriving DecidableEq, Repr

/-- The fields of a stream register (R291). -/
def streamOf (q : BitVec 256) : Stream :=
  let w0 := word256 q 0
  let w1 := word256 q 1
  let w2 := word256 q 2
  ⟨field w0 62 2, field w0 56 4, field w0 0 20, field w1 59 5, bit w1 58, bit w1 57, field w1 32 16,
    field w1 16 10, field w1 0 16, field w2 62 2, field w2 56 4, field w2 40 16, field w2 20 16, field w2 0 20⟩

/-- A stream register breaks a rule of R291 or R292 that concerns it alone.
DEDUCED, log entry 85. -/
def badStream (q : BitVec 256) : Bool :=
  let x := streamOf q
  field (word256 q 0) 60 2 != 0 || field (word256 q 0) 20 36 != 0 || field (word256 q 1) 48 9 != 0
    || field (word256 q 1) 26 6 != 0 || field (word256 q 2) 60 2 != 0 || field (word256 q 2) 36 4 != 0
    || word256 q 3 != 0 || x.src == 3 || x.sloc == 3 || x.mx != (x.sloc != 0) || x.klen == 0
    || (x.sparse && (x.sloc == 1 || x.gbytes == 0)) || (!x.sparse && x.gbytes != 0)

/-- Bits of an element of a stream. -/
def streamBits (fmt : Nat) : Nat :=
  if fmt = 8 || fmt = 9 then 16 else if fmt = 14 then 4 else if fmt = 16 || fmt = 17 then 6 else 8

/-- The path of a pair of formats (R292). -/
inductive Path where
  | fp
  | int
  | narrow
  deriving DecidableEq, Repr

/-- A narrow floating format. -/
def narrowFmt (f : Nat) : Bool := f == 12 || f == 13 || f == 14 || f == 16 || f == 17

/-- The path that a pair of streams selects; none for any other pair (R292). -/
def pathOf (a b : Stream) : Option Path :=
  if a.fmt == b.fmt && (a.fmt == 8 || a.fmt == 9) && !a.mx && !b.mx then some .fp
  else if a.fmt < 2 && b.fmt < 2 && !a.mx && !b.mx then some .int
  else if a.fmt == 0 && b.fmt == 0 && a.mx && b.mx then some .narrow
  else if narrowFmt a.fmt && narrowFmt b.fmt then some .narrow
  else none

/-- A product's operation field has a bit that R290 marks zero on the full path, which the formats of its streams select as
they stand before the group: a decode check, whatever the guard (R438).
DEDUCED, log entry 137. -/
def Arch.refusesProduct (r : Arch) (sl : Slot) (w : BitVec 32) : Bool :=
  let op := opcodeOf w
  let at_ := fun lo k => bitsOf w.toNat lo k
  sl == .M && (op == 1 || op == 2 || op == 5 || op == 6)
    && (match pathOf (streamOf (getReg r.q (at_ 12 4) 0)) (streamOf (getReg r.q (at_ 8 4) 0)) with
      | some .fp => true
      | some .int => true
      | _ => false)
    && at_ 4 4 != 0

/-- Bytes of a stream's storage: tile, weight buffer, scratchpad. -/
def storageBytes (src : Nat) : Nat := if src = 0 then 0x4000 else if src = 1 then 0x40000 else spadBytes

/-- One byte of a region of the weight buffer: zero beyond what it was filled with (R103).
DEDUCED, log entry 131. -/
def WRegion.byte (r : WRegion) (off : Nat) : Byte × Bool :=
  (if off < r.len then BitVec.ofNat 8 (r.bits.toNat / 2 ^ (8 * off)) else 0, r.poison.getLsbD off)

/-- Bytes of a stream's storage (R293). -/
def Core.stored (c : Core) (src tile off n : Nat) : Data :=
  match src with
  | 0 => (List.range n).map fun i =>
      (BitVec.ofNat 8 ((c.tile tile).get (off + i) 1), (c.tile tile).bad (off + i) 1)
  | 1 => (List.range n).map fun i => (getReg c.wb ((off + i) / 0x4000) WRegion.empty).byte ((off + i) % 0x4000)
  | _ => c.view.spadData off n

/-- Bytes as one number. -/
def dataNat (d : Data) : Nat := ofBytes (d.map (·.1))

/-- Elements of K-block kb that the stream holds: those below KLEN. -/
def Stream.count (x : Stream) (kb : Nat) : Nat := min 32 (x.klen - 32 * kb)

/-- Where row r's part of K-block kb starts (R293). -/
def Stream.start (x : Stream) (r kb : Nat) : Nat :=
  let bb := 4 * streamBits x.fmt
  x.base + r * x.pitch
    + (if x.sparse then kb * x.gbytes else if x.sloc = 1 then kb * (bb + 1) else kb * bb)

/-- The bytes that a row's part of a K-block reads, as (storage tile, offset, length): the elements (for a
sparse group its bitmap and stored elements) and the scale (R293). -/
def Stream.reads (c : Core) (x : Stream) (r kb : Nat) : List (Nat × Nat × Nat) :=
  let v := x.count kb
  let at_ := x.start r kb
  let elems := if v = 0 then []
    else if x.sparse then
      let n := setBits v (dataNat (c.stored x.src x.tile at_ 4))
      [(x.tile, at_, min x.gbytes (4 + (n * streamBits x.fmt + 7) / 8))]
    else [(x.tile, at_, (v * streamBits x.fmt + 7) / 8)]
  let scale := if x.sloc = 1 then [(x.tile, at_ + 4 * streamBits x.fmt, 1)]
    else if x.sloc = 2 then [(x.stile, x.sbase + r * x.spitch + kb * x.sstr, 1)] else []
  elems ++ scale

/-- A row's 32 elements, with the poison of any of them or of the scale. -/
def Stream.row (c : Core) (x : Stream) (r kb : Nat) : StreamRow :=
  let nb := streamBits x.fmt
  let v := x.count kb
  let at_ := x.start r kb
  let bad := (x.reads c r kb).any fun t => (c.stored x.src t.1 t.2.1 t.2.2).any (·.2)
  if x.sparse then
    let d := dataNat (c.stored x.src x.tile at_ x.gbytes)
    ((List.range 32).map fun k =>
      let lo := 32 + nb * setBits k d
      if k < v && d.testBit k && lo + nb ≤ 8 * x.gbytes then bitsOf d lo nb else 0, bad)
  else
    let d := dataNat (c.stored x.src x.tile at_ ((v * nb + 7) / 8))
    ((List.range 32).map fun k => if k < v then bitsOf d (nb * k) nb else 0, bad)

/-- A row's scale code; none for a plain stream. -/
def Stream.scale (c : Core) (x : Stream) (r kb : Nat) : Option Byte :=
  if x.sloc = 0 then none
  else
    let off := if x.sloc = 1 then x.start r kb + 4 * streamBits x.fmt else x.sbase + r * x.spitch + kb * x.sstr
    some (BitVec.ofNat 8 (dataNat (c.stored x.src (if x.sloc = 2 then x.stile else x.tile) off 1)))

/-- A read beyond the storage, or a region of another format (R292). -/
def Stream.outside (c : Core) (x : Stream) (rows : List Nat) (kb : Nat) : Bool :=
  rows.any fun r => (x.reads c r kb).any fun t =>
    decide (storageBytes x.src < t.2.1 + t.2.2)
      || (x.src == 1 && [t.2.1 / 0x4000, (t.2.1 + t.2.2 - 1) / 0x4000].any fun g =>
            let w := getReg c.wb g WRegion.empty
            w.src.isSome && w.fmt.toNat != ofBool x.sparse)

/-- The tiles and regions a stream reads (R117). -/
def Stream.uses (c : Core) (x : Stream) (rows : List Nat) (kb : Nat) : List Res :=
  match x.src with
  | 0 => .tile x.tile :: (if x.sloc = 2 then [.tile x.stile] else [])
  | 1 => (rows.flatMap fun r => (x.reads c r kb).flatMap fun t =>
      [Res.region (t.2.1 / 0x4000), Res.region ((t.2.1 + t.2.2 - 1) / 0x4000)]).eraseDups
  | _ => []

/-- No accepted command has still to write what a scratchpad stream reads (R226, R303). -/
def Stream.free (c : Core) (x : Stream) (rows : List Nat) (kb : Nat) : Bool :=
  x.src != 2 || rows.all fun r => (x.reads c r kb).all fun t => c.localFree false t.2.1 t.2.2

/-! ## Products (R165 to R169) -/

/-- A subnormal accumulator result flushed under ACCFTZ (R169). -/
def flushed (on : Bool) (r : Rounded) : Rounded :=
  if on && f32.isSubnormal r.bits then ⟨f32.signed (f32.sign r.bits) 0, r.flags ||| fUF ||| fNX⟩ else r

/-- One accumulator element of a BF16 or FP16 product: K ascending, one rounding for each step (R165). -/
def chain (f : Fmt) (ftz : Bool) : List Nat → List Nat → Nat → Flags → Nat × Flags
  | a :: ar, b :: br, c, fl =>
    let r := flushed ftz (f32.fma f rmRNE false false a b c)
    chain f ftz ar br r.bits (fl ||| r.flags)
  | _, _, c, fl => (c, fl)

/-- The exact sum of integer products. -/
def intDot (sa sb : Bool) : List Nat → List Nat → Int
  | a :: ar, b :: br => asInt sa 8 a * asInt sb 8 b + intDot sa sb ar br
  | _, _ => 0

/-- The exact value of a narrow element, flushed under NFTZ (R166, R168); an `i8` is taken * 2^-6. -/
def narrowValue (fmt : Nat) (nftz : Bool) (x : Nat) : Exact :=
  match fmtOf fmt with
  | some f => if nftz && f.isSubnormal x then .fin (f.sign x) 0 0 else f.value x
  | none => .fin (decide (toSigned 8 x < 0)) (toSigned 8 x).natAbs (-6)

/-- A narrow element is a signalling NaN. -/
def narrowSignals (fmt x : Nat) : Bool := match fmtOf fmt with | some f => f.isSignalling x | none => false

/-- The exact sum of 32 products and the flags it raises (R166). -/
def exactDot (fa fb : Nat) (nftz : Bool) (a b : List Nat) : Exact × Flags :=
  let ps := (a.zip b).map fun t => ((narrowValue fa nftz t.1).mul (narrowValue fb nftz t.2),
    (narrowValue fa nftz t.1).isNan || (narrowValue fb nftz t.2).isNan,
    narrowSignals fa t.1 || narrowSignals fb t.2)
  let vs := ps.map (·.1)
  let both := vs.contains (.inf false) && vs.contains (.inf true)
  let invalid := ps.any (fun t => t.1.isNan && !t.2.1) || ps.any (·.2.2) || both
  if both || vs.any (·.isNan) then (.nan, Flags.on fNV invalid)
  else
    match vs with
    | [] => (Exact.zero, 0)
    | v :: r => (r.foldl (fun x y => x.add rmRNE y) v, 0)

/-- An FP32 accumulator element plus an exact value, rounded once (R166). -/
def addExact (c : Nat) (p : Exact) : Rounded :=
  if f32.isNan c || p.isNan then ⟨f32.qnan, f32.signals [c]⟩
  else
    let v := (f32.value c).add rmRNE p
    if v.isNan then ⟨f32.qnan, fNV⟩ else f32.ofExact rmRNE v

/-! ## The partial-sum port (R296 to R301) -/

/-- PSLOST with lost sums or empty reads counted (R300). -/
def Arch.countSums (r : Arch) (lost empty : Nat) : Arch :=
  let p := setField r.pslost 0 32 (satAdd 0xFFFFFFFF (field r.pslost 0 32) lost)
  { r with pslost := setField p 32 32 (satAdd 0xFFFFFFFF (field p 32 32) empty) }

/-- The sums that have arrived by the present position are put on the port; one that an arrival finds
there is lost (R297). -/
def Core.arriveSums (c : Core) : Core :=
  let due := c.psums.filter fun p => decide (p.pos + 6 ≤ c.issue)
  match due.getLast? with
  | none => c
  | some p =>
    { c with
      psums := c.psums.filter fun p => !decide (p.pos + 6 ≤ c.issue)
      port := some p
      r := c.r.countSums (due.length - 1 + (if c.port.isSome then 1 else 0)) 0 }

/-- A narrow partial sum is pending (R195, R301). -/
def Core.narrowPending (c : Core) : Bool := !c.psums.isEmpty || c.port.isSome

/-- One element scaled and added (R298). -/
def scaleCell (ftz : Bool) (p : PartialSum) (t : TReg × Flags) (n : Nat) : TReg × Flags :=
  let i := n / p.width
  let j := n % p.width
  let off := 256 * (p.row + i) + 4 * (p.col + j)
  let code := fun (l : List (Option Byte)) k => (l.getD k none).getD 127
  let r : Rounded :=
    match scaleExp (code p.sa i), scaleExp (code p.sb j) with
    | some x, some y => flushed ftz (addExact (t.1.get off 4) ((p.sums.getD n Exact.zero).scale (x + y)))
    | _, _ => ⟨f32.qnan, fNV⟩
  (t.1.put off 4 r.bits (p.poison.getD n false || t.1.bad off 4), t.2 ||| r.flags)

/-- What `mscale` makes of a tile (R298). -/
def scaleTile (ftz : Bool) (p : PartialSum) (t : TReg) : TReg × Flags :=
  (List.range p.sums.length).foldl (scaleCell ftz p) (t, p.flags)

/-! ## The engine's commands (R294, R302) -/

/-- A command of the full path. -/
def MCmd.full (m : MCmd) : Bool := opcodeOf m.word ≤ 6

/-- One accumulator element of a full-path command (R294). -/
def fullCell (m : MCmd) (t : TReg × Flags) (ij : Nat × Nat) : TReg × Flags :=
  let a := streamOf m.qa
  let b := streamOf m.qb
  let off := 256 * ij.1 + 4 * ij.2
  let x := m.a.getD ij.1 ([], false)
  let y := m.b.getD ij.2 ([], false)
  let bad := x.2 || y.2 || t.1.bad off 4
  let fp := a.fmt == 8 || a.fmt == 9
  if opcodeOf m.word = 3 && !m.mask.getLsbD (64 * ij.1 + ij.2) then
    if m.word.getLsbD 5 then (t.1.put off 4 (if fp then 0xFF800000 else 0x80000000) false, t.2) else t
  else if fp then
    let r := chain (if a.fmt = 8 then bf16 else f16) m.accftz x.1 y.1 (t.1.get off 4) 0
    (t.1.put off 4 r.1 bad, t.2 ||| r.2)
  else
    (t.1.put off 4 (wrap 32 ((t.1.get off 4 : Int) + intDot (a.fmt == 0) (b.fmt == 0) x.1 y.1)) bad, t.2)

/-- One element transposed. -/
def transposeCell (eb : Nat) (src : TReg) (t : TReg) (n : Nat × Nat × Nat) : TReg :=
  let at_ := 256 * n.1 + eb * n.2.1 + n.2.2
  t.put (256 * n.2.1 + eb * n.1 + n.2.2) 1 (src.get at_ 1) (src.bad at_ 1)

/-- One element converted by `mcvt`, with the generator (R302). -/
def convertCell (w : BitVec 32) (src : TReg) (t : TReg × Flags × BitVec 32) (ij : Nat × Nat) :
    TReg × Flags × BitVec 32 :=
  let tgt := bitsOf w.toNat 4 4
  let rm := bitsOf w.toNat 1 3
  let from_ := if w.getLsbD 8 then 4 else 10
  let draws := rm == 5 && isStochastic from_ tgt
  let seed := if draws then stepSeed t.2.2 else t.2.2
  let off := 256 * ij.1 + 4 * ij.2
  let r := convertElement from_ tgt rm (w.getLsbD 0) seed.toNat (src.get off 4)
  let bad := src.bad off 4
  let y :=
    if tgt = 14 then
      let at_ := 256 * ij.1 + ij.2 / 2
      let old := t.1.get at_ 1
      t.1.put at_ 1 (putBits old (4 * (ij.2 % 2)) 4 r.bits) (bad || (ij.2 % 2 == 1 && t.1.bad at_ 1))
    else t.1.put (256 * ij.1 + typeBytes tgt * ij.2) (typeBytes tgt) r.bits bad
  (y, t.2.1 ||| r.flags, seed)

/-- The tile a command writes. -/
def MCmd.dest (m : MCmd) : Nat := if opcodeOf m.word = 9 then bitsOf m.word.toNat 12 4 else bitsOf m.word.toNat 16 4

/-- The tile after a command, and the flags it accrues. -/
def MCmd.run (m : MCmd) (t : TReg) : TReg × Flags :=
  match opcodeOf m.word with
  | 0x08 => (⟨0, 0⟩, 0)
  | 0x09 =>
    let r := tileCells.foldl (convertCell m.word m.src) (t, 0, m.seed)
    (r.1, r.2.1)
  | 0x0A => (m.src, 0)
  | 0x0B =>
    let eb := 2 ^ bitsOf m.word.toNat 0 2
    (tileCells.foldl (fun t ij => (List.range eb).foldl (fun t k => transposeCell eb m.src t (ij.1, ij.2, k)) t) t, 0)
  | _ => tileCells.foldl (fullCell m) (t, 0)

/-- The first accepted command of a core's matrix engine completes: its tile is written, its busy bits
clear and its flags accrue (R294, R302). -/
def State.completeMatrix (s : State) (k : Nat) : State :=
  let c := s.core k
  match c.mq with
  | [] => s
  | m :: rest =>
    let old := getReg c.r.t m.dest ⟨0, 0⟩
    let r := m.run old
    ((s.setCore k { c.setTile m.dest r.1 with mq := rest }).accrue m.own r.2).settle

/-- Accepted commands completed, at most a number of them.
DEDUCED, log entry 87. -/
def State.drainMatrix (s : State) (k : Nat) : Nat → State
  | 0 => s
  | n + 1 => (s.completeMatrix k).drainMatrix k n

/-- A command accepted by the matrix engine. -/
def State.acceptMatrix (s : State) (m : MCmd) : State :=
  s.setMe { s.me with mq := s.me.mq ++ [m] }

/-- `mscale`: no interlock; accepted commands into tiles apply first (R298).
DEDUCED, log entry 86. -/
def scalePort (s : State) : State :=
  let s := (s.drainMatrix s.here s.me.mq.length)
  let c := s.me.arriveSums
  match c.port with
  | none => s.setMe { c with r := c.r.countSums 0 1 }
  | some p =>
    let old := getReg c.r.t p.tile.toNat ⟨0, 0⟩
    let t := scaleTile c.view.accftz p old
    let c := { c.setTile p.tile.toNat t.1 with port := none }
    s.setMe { c with r := c.r.accrue t.2 }

/-- An empty command with a word, to be filled in. -/
def newMCmd (s : State) (w : Site) (busy : List (Res × Bool)) : MCmd :=
  ⟨w.word, 0, 0, [], [], ⟨0, 0⟩, 0, s.me.view.accftz, s.me.r.srseed, busy, s.ownerOf s.here⟩

/-- The rows a product reads. -/
def rows64 : List Nat := List.range 64

/-- What holds a product at issue before any of its checks is made (R117, R119, R226, R294, R296): what its streams read,
and for a full path its accumulator and the engine's four commands; a narrow one waits for an engine with a full-path
command. -/
def productWaits (s : State) (path : Option Path) (acc : Nat) (qa qb : BitVec 256) (ra rb : List Nat) (kb : Nat) : Eff Unit := do
  let c := s.me
  let a := streamOf qa
  let b := streamOf qb
  if path = some .narrow && (c.mq.any MCmd.full || (c.idleWait && !c.mq.isEmpty)) then .error .engine
  ready ((path == some .narrow || decide ((c.mq.filter MCmd.full).length < 4) && c.canAccumulate acc)
    && (a.uses c ra kb ++ b.uses c rb kb).all c.canRead && a.free c ra kb && b.free c rb kb)

/-- The command of a full-path product, once nothing holds it (R294, R301). -/
def fullProduct (s : State) (w : Site) (acc : Nat) (qa qb : BitVec 256) (kb : Nat) : Eff MCmd := do
  let c := s.me
  let a := streamOf qa
  let b := streamOf qb
  let ua := a.uses c rows64 kb
  let ub := b.uses c rows64 kb
  if c.narrowPending || a.outside c rows64 kb || b.outside c rows64 kb then raiseIllegal s w
  else
    let m := newMCmd s w ((.tile acc, true) :: ((ua ++ ub).eraseDups.map fun r => (r, false)))
    return { m with
      qa := qa, qb := qb, mask := c.view.maskBlk
      a := rows64.map fun r => a.row c r kb
      b := rows64.map fun r => b.row c r kb }

/-- The columns of a sub-block (R292). -/
def subWidth (a b : Stream) : Nat := if a.fmt = 14 && b.fmt = 14 then 32 else 16

/-- The rows of a product's first stream, or of its second, that it reads on a path (R292, R296). -/
def productRows (path : Option Path) (width n : Nat) : List Nat :=
  if path = some .narrow then (List.range width).map (· + width * n) else rows64

/-- The partial sum of a narrow product, once nothing holds it (R296). -/
def narrowProduct (s : State) (w : Site) (acc : Nat) (qa qb : BitVec 256) (ib jb kb : Nat) : Eff PartialSum := do
  let c := s.me
  let a := streamOf qa
  let b := streamOf qb
  let width := subWidth a b
  let ra := productRows (some .narrow) 16 ib
  let rb := productRows (some .narrow) width jb
  if (width = 32 && 2 ≤ jb) || a.outside c ra kb || b.outside c rb kb then raiseIllegal s w
  else
    let xa := ra.map fun r => a.row c r kb
    let xb := rb.map fun r => b.row c r kb
    let nftz := c.view.nftz
    let cells := xa.flatMap fun x => xb.map fun y => (exactDot a.fmt b.fmt nftz x.1 y.1, x.2 || y.2)
    return ⟨c.issue, BitVec.ofNat 4 acc, 16 * ib, width * jb, width, cells.map (·.1.1),
      ra.map fun r => a.scale c r kb, rb.map fun r => b.scale c r kb,
      cells.foldl (fun z t => z ||| t.1.2) 0, cells.map (·.2)⟩

/-- A partial sum enters the narrow pipe (R296). -/
def State.pushSum (s : State) (p : PartialSum) : State := s.setMe { s.me with psums := s.me.psums ++ [p] }

/-- The `mma` family: its opcode, accumulator, streams and operation field (R289 to R301). The `.s` forms do what
`mscale` does beside the product, whose operands are read before any tile is written (R180). What would trap is looked
for only once nothing holds the group (R119). -/
def product (s : State) (w : Site) (op : Nat) (c a b : BitVec 4) (o : BitVec 8) : Eff State := do
  let sp := op = 2 ∨ op = 6
  let qa := getReg s.me.view.q a.toNat 0
  let qb := getReg s.me.view.q b.toNat 0
  let x := streamOf qa
  let y := streamOf qb
  let kb := bitsOf o.toNat 0 4
  let path := pathOf x y
  productWaits s path c.toNat qa qb (productRows path 16 (bitsOf o.toNat 6 2))
    (productRows path (subWidth x y) (bitsOf o.toNat 4 2)) kb
  if badStream qa || badStream qb || x.sparse || y.sparse != decide sp then raiseIllegal s w
  else
    match path with
    | none => raiseIllegal s w
    | some .narrow =>
      if op = 3 then raiseIllegal s w
      else
        let p ← narrowProduct s w c.toNat qa qb (bitsOf o.toNat 6 2) (bitsOf o.toNat 4 2) kb
        return (if op = 5 ∨ op = 6 then scalePort s else s).pushSum p
    | some _ =>
      if bitsOf o.toNat 6 2 ≠ 0 || o.getLsbD 4 || (o.getLsbD 5 && op ≠ 3) then raiseIllegal s w
      else
        let m ← fullProduct s w c.toNat qa qb kb
        return (if op = 5 ∨ op = 6 then scalePort s else s).acceptMatrix m

/-- A command of R302 accepted: its destination and, where it reads one, its source tile. -/
def acceptMove (s : State) (w : Site) (d : Nat) (src : Option Nat) : Eff State := do
  ready (s.me.canAccumulate d && (match src with | some t => s.me.canRead (.tile t) | none => true))
  let m := newMCmd s w ((.tile d, true) :: (src.toList.map fun t => (.tile t, false)))
  return s.acceptMatrix { m with src := (src.map s.me.tile).getD ⟨0, 0⟩ }

/-- What holds a command of R302 at issue: its destination and its source tile (R117, R118). -/
def moveReady (s : State) (d src : Nat) : Bool := s.me.canAccumulate d && s.me.canRead (.tile src)

/-- `mcvt`: its draws are made at acceptance (R160, R302); it uses every element of its source, so that a poisoned one
raises POISON at its group (R23, R404).
DEDUCED, log entry 88. -/
def convertTile (s : State) (w : Site) (d src : Nat) (int : Bool) (tgt rm : Nat) : Eff State := do
  ready (moveReady s d src)
  if !(tgt ≤ 3 || tgt = 8 || tgt = 9 || (12 ≤ tgt && tgt ≤ 14)) || 6 ≤ rm || (int && 12 ≤ tgt) then raiseIllegal s w
  if (s.me.tile src).poison ≠ 0 then raisePoison s w src
  let t ← acceptMove s w d (some src)
  if rm = 5 && isStochastic (if int then 4 else 10) tgt then
    return t.setMe { t.me with r := { t.me.r with srseed := stepSeeds 4096 t.me.r.srseed } }
  else return t

/-- The mask block that a tile holds (R295). -/
def maskOfTile (t : TReg) : BitVec 4096 := BitVec.ofNat 4096 (packBits 64 (fun i => t.get (256 * i) 8) 64)

/-- `mmask` (R295). -/
def loadMask (s : State) (w : Site) (n : BitVec 4) : Eff State := do
  ready (s.me.canRead (.tile n.toNat))
  let t := s.me.tile n.toNat
  if (List.range 64).any fun i => t.bad (256 * i) 8 then raisePoison s w n.toNat
  else return s.setMe { s.me with r := { s.me.r with maskBlk := maskOfTile t } }

/-! ## Meanings -/

/-- `mma` (R289 to R301). -/
def execMma (g : Guard) (c a b : BitVec 4) (o : BitVec 8) (s : State) : Out :=
  let W : Site := ⟨.M, slotWord g 0x01 (place [(c.toNat, 16), (a.toNat, 12), (b.toNat, 8), (o.toNat, 0)])⟩
  runSlot s g (product s W 1 c a b o)

/-- `mma.sp` (R289 to R301). -/
def execMmaSp (g : Guard) (c a b : BitVec 4) (o : BitVec 8) (s : State) : Out :=
  let W : Site := ⟨.M, slotWord g 0x02 (place [(c.toNat, 16), (a.toNat, 12), (b.toNat, 8), (o.toNat, 0)])⟩
  runSlot s g (product s W 2 c a b o)

/-- `mma.mk` (R289 to R301). -/
def execMmaMk (g : Guard) (c a b : BitVec 4) (o : BitVec 8) (s : State) : Out :=
  let W : Site := ⟨.M, slotWord g 0x03 (place [(c.toNat, 16), (a.toNat, 12), (b.toNat, 8), (o.toNat, 0)])⟩
  runSlot s g (product s W 3 c a b o)

/-- `mscale` (R298). -/
def execMscale (g : Guard) (s : State) : Out :=
  runSlot s g (.ok (scalePort s))

/-- `mma.s` (R289 to R301). -/
def execMmaS (g : Guard) (c a b : BitVec 4) (o : BitVec 8) (s : State) : Out :=
  let W : Site := ⟨.M, slotWord g 0x05 (place [(c.toNat, 16), (a.toNat, 12), (b.toNat, 8), (o.toNat, 0)])⟩
  runSlot s g (product s W 5 c a b o)

/-- `mma.sp.s` (R289 to R301). -/
def execMmaSpS (g : Guard) (c a b : BitVec 4) (o : BitVec 8) (s : State) : Out :=
  let W : Site := ⟨.M, slotWord g 0x06 (place [(c.toNat, 16), (a.toNat, 12), (b.toNat, 8), (o.toNat, 0)])⟩
  runSlot s g (product s W 6 c a b o)

/-- `mzero` (R302). -/
def execMzero (g : Guard) (t : BitVec 4) (s : State) : Out :=
  let W : Site := ⟨.M, slotWord g 0x08 (place [(t.toNat, 16)])⟩
  runSlot s g (acceptMove s W t.toNat none)

/-- `mcvt` (R302). -/
def execMcvt (g : Guard) (sr d : BitVec 4) (i : Bool) (t : BitVec 4) (r : BitVec 3) (a : Bool) (s : State) : Out :=
  let W : Site := ⟨.M, slotWord g 0x09 (place [(sr.toNat, 16), (d.toNat, 12), (i.toNat, 8), (t.toNat, 4), (r.toNat, 1), (a.toNat, 0)])⟩
  runSlot s g (convertTile s W d.toNat sr.toNat i t.toNat r.toNat)

/-- `mmov` (R302). -/
def execMmov (g : Guard) (d sr : BitVec 4) (s : State) : Out :=
  let W : Site := ⟨.M, slotWord g 0x0A (place [(d.toNat, 16), (sr.toNat, 12)])⟩
  runSlot s g (acceptMove s W d.toNat (some sr.toNat))

/-- `mtr` (R302). -/
def execMtr (g : Guard) (d sr : BitVec 4) (e : BitVec 2) (s : State) : Out :=
  let W : Site := ⟨.M, slotWord g 0x0B (place [(d.toNat, 16), (sr.toNat, 12), (e.toNat, 0)])⟩
  runSlot s g (do
    ready (moveReady s d.toNat sr.toNat)
    if e.toNat = 3 then raiseIllegal s W else acceptMove s W d.toNat (some sr.toNat))

/-- `mmask` (R295). -/
def execMmask (g : Guard) (t : BitVec 4) (s : State) : Out :=
  let W : Site := ⟨.M, slotWord g 0x0C (place [(t.toNat, 16)])⟩
  runSlot s g (loadMask s W t)

/-- `mclrmask` (R295). -/
def execMclrmask (g : Guard) (s : State) : Out :=
  runSlot s g (.ok (s.setMe { s.me with r := { s.me.r with maskBlk := BitVec.allOnes 4096 } }))

end Sys2Proof.Machine
end

