-- ==== Sys2Proof/Machine/FastWeight.lean ====
section
/-! DEFINITION. The F slot (R304 to R312) and fast-weight state (R120 to R146, R436, R437): handles and their checks, the step arithmetic, the snapshot commands, the pager and migration. -/
namespace Sys2Proof.Machine

/-! ## Handles and objects (R121 to R127) -/

/-- The slot a handle names, as an object's number (R124). -/
def handleKey (h : W64) : Nat := field h 40 24
/-- The cluster a handle names. -/
def handleCluster (h : W64) : Nat := field h 52 12
/-- GEN of a handle. -/
def handleGen (h : W64) : Nat := field h 24 16
/-- KIND of a handle. -/
def handleKind (h : W64) : Nat := field h 16 8
/-- The handle of an object. -/
def makeHandle (key : Nat) (o : Obj) : W64 :=
  BitVec.ofNat 64 (key * 2 ^ 40 + o.gen.toNat * 2 ^ 24 + o.kind.toNat * 2 ^ 16)

/-- The next generation of a slot: 0xFFFF is followed by 1 (R127). -/
def nextGen (g : BitVec 16) : BitVec 16 := if g = 0xFFFF then 1 else g + 1

/-- Bytes of an element in state SRAM (R123). -/
def Obj.bytes (o : Obj) : Nat := if o.bf16 then 2 else 4
/-- Units an object's elements fill (R123). -/
def Obj.units (o : Obj) : Nat := (o.heads * o.dim * o.dim * o.bytes + 255) / 256
/-- The object holds units of state SRAM. -/
def Obj.holds (o : Obj) : Bool := o.used && (o.state == .resident || o.state == .pagingOut)
/-- The identity of an object's unit: shared units have one identity (R138). -/
def Obj.unit (o : Obj) (u : Nat) : Nat × Nat :=
  match Table.look o.own u with
  | some n => (n, 0)
  | none => (o.base, u + 1)
/-- The units an object holds. -/
def Obj.held (o : Obj) : List (Nat × Nat) := if o.holds then (List.range o.units).map o.unit else []

/-- Units of a cluster's state SRAM: 96 MiB of 256 bytes (R120, R121). -/
def stateUnits : Nat := 393216
/-- Slots of a cluster's slot table. -/
def stateSlots : Nat := 4096

namespace State

/-- The objects of a cluster. -/
def objectsOf (s : State) (cl : Nat) : List (Nat × Obj) := s.objs.filter fun o => o.1 / 4096 == cl && o.2.used

/-- Units of a cluster in use, each counted once. -/
def unitsUsed (s : State) (cl : Nat) : Nat := ((s.objectsOf cl).flatMap fun o => o.2.held).eraseDups.length

/-- The objects of a cluster that share a unit. -/
def sharers (s : State) (cl : Nat) (u : Nat × Nat) : List Nat :=
  ((s.objectsOf cl).filter fun o => o.2.held.contains u).map (·.1)

/-- The units among some of an object that another object shares. -/
def sharedUnits (s : State) (key : Nat) (us : List Nat) : List Nat :=
  us.filter fun u => (s.sharers (key / 4096) ((s.obj key).unit u)).any (· != key)

/-- Every accepted F command, those in a saved image among them. -/
def allF (s : State) : List FCmd :=
  s.cores.flatMap (fun c => c.2.fq) ++ s.parts.flatMap fun p => p.2.image.flatMap fun c => c.2.fq

end State

/-- The objects a command names. -/
def FCmd.keys (c : FCmd) : List Nat := c.handles.map handleKey
/-- The opcode of a command. -/
def FCmd.op (c : FCmd) : Nat := opcodeOf c.word
/-- A field of a command's word. -/
def FCmd.fld (c : FCmd) (lo n : Nat) : Nat := bitsOf c.word.toNat lo n

namespace State

/-- The records that wait for an object (R129). -/
def waitersOf (s : State) (key : Nat) : Nat :=
  ((s.clusters.map fun c => (c.2.store.filter fun r => r.state == RecState.waiting key).length)).foldl (· + ·) 0

/-- Records of an object's waiter chain that a test selects become ready, with a CAUSE (R353); the release counts as an
arrival (R130, R140, R363). -/
def releaseWaiters (s : State) (key why : Nat) (sel : Rec → Bool) : State :=
  let f := fun (r : Rec) =>
    if r.state == RecState.waiting key && sel r then
      { r with state := .ready, age := s.fresh, words := setCause r.words why } else r
  { s with
    fresh := s.fresh + 1
    clusters := s.clusters.map fun c => (c.1, { c.2 with store := c.2.store.map f }) }

/-! ## Room in state SRAM and in the pager's region (R142, R437) -/

/-- 4 KiB blocks of an object's image: its compressed size, at most that of its units. -/
def imageSize (o : Obj) : Nat :=
  max 1 (min (Config.imageBlocks (o.data.map fun e => (e.1, e.2.bits, e.2.poison))) ((o.units + 15) / 16))

/-- Blocks of a chip's pager region in use. -/
def imagesUsed (s : State) (ch : Nat) : Nat :=
  ((s.objs.filter fun o => o.1 / 65536 == ch).map (·.2.image)).foldl (· + ·) 0

/-- The pager region has room for an object's image (R32, R142). -/
def imageFits (s : State) (key : Nat) : Bool :=
  let ch := key / 65536
  decide (s.imagesUsed ch + imageSize (s.obj key) ≤ bitsOf (s.chip ch).tiercfg.toNat 12 10 * 2 ^ 18)

/-- The object may be evicted, room in the region apart (R142): resident, no other F command on it in flight,
its waiter chain empty and its hold expired. -/
def idleObject (s : State) (key : Nat) : Bool :=
  let o := s.obj key
  o.used && o.state == .resident && !o.hold && o.moving.isNone && s.waitersOf key == 0
    && !s.allF.any fun c => c.op != 0x12 && c.keys.contains key

/-- The object qualifies for eviction. -/
def qualifies (s : State) (key : Nat) : Bool := s.idleObject key && s.imageFits key

/-- The least recently accessed object of a cluster that qualifies.
DEDUCED, log entry 93. -/
def evictable (s : State) (cl : Nat) : Option Nat :=
  (((s.objectsOf cl).map (·.1)).filter s.qualifies).foldl
    (fun best k => match best with
      | none => some k
      | some b => if (s.obj k).lru < (s.obj b).lru then some k else some b) none

/-- A free slot of a cluster. -/
def freeSlot (s : State) (cl : Nat) : Option Nat :=
  ((List.range stateSlots).find? fun n => !(s.obj (cl * 4096 + n)).used).map (cl * 4096 + ·)

end State

/-- Whether units can be had (R437). -/
inductive Grant where
  | now
  | wait
  | never
  deriving DecidableEq, Repr

namespace State

/-- A number of units of a cluster: there now, awaited while the pager evicts, or not to be had (R127,
R437). -/
def grant (s : State) (cl n : Nat) : Grant :=
  if s.unitsUsed cl + n ≤ stateUnits then .now
  else if (s.evictable cl).isSome || (s.objectsOf cl).any (fun o => o.2.state == .pagingOut) then .wait
  else .never

/-- An object with private copies of some of its units, which have been granted (R138). -/
def makePrivate (s : State) (key : Nat) (us : List Nat) : State :=
  us.foldl (fun s u =>
    let o := s.obj key
    { s with fresh := s.fresh + 1 }.setObj key { o with own := Table.put o.own u s.fresh }) s

/-- A new object in a free slot. -/
def create (s : State) (key : Nat) (o : Obj) : State :=
  { s with fresh := s.fresh + 1 }.setObj key
    { o with used := true, gen := (s.obj key).gen, lru := s.fresh, hold := false, image := 0, posts := []
             forward := 0, moving := none, state := .resident }

/-- A slot freed: its generation is raised (R127). -/
def freeObject (s : State) (key : Nat) : State :=
  s.setObj key { Obj.free with gen := nextGen (s.obj key).gen }

end State

/-! ## Checks (R125, R126, R129, R143) -/

/-- A handle that a command names: the kinds it is permitted on, and whether checks 5 and 6 apply. -/
structure Use where
  handle : W64
  live : Bool
  snap : Bool
  seq : Bool
  page : Bool
  deriving DecidableEq, Repr

/-- The object behind a migrated handle: a forwarding stub stands for the new object (R145). -/
def resolveHandle (s : State) : Nat → W64 → W64
  | 0, h => h
  | n + 1, h =>
    let o := s.obj (handleKey h)
    if o.used && o.state == .stub && o.gen.toNat == handleGen h && o.kind.toNat == handleKind h then
      resolveHandle s n o.forward
    else h

/-- HANDLE_INVALID with a reason (R125, R396). -/
def badHandle {α : Type} (s : State) (w : Site) (reason : Nat) (h : W64) : Eff α := raise s w cHandleInvalid reason h

/-- Check n of R125 on one handle. R129 gives a command ahead of its object's sequence a suspension of its block; on a
core that holds no block there is none to suspend, and the group is held.
DESIGN CHOICE, log entry 153. -/
def checkHandle (s : State) (w : Site) (shape : Bool) (n : Nat) (u : Use) : Eff Unit :=
  let h := u.handle
  let o := s.obj (handleKey h)
  match n with
  | 1 => if field h 0 16 == 0 && s.member (chipOf s.here) (field h 56 8) && decide (field h 53 3 ≤ 4)
        && (handleKind h == 1 || handleKind h == 2) then .ok () else badHandle s w 0 h
  | 2 => if o.used && o.gen.toNat == handleGen h then .ok () else badHandle s w 1 h
  | 3 => if o.kind.toNat == handleKind h && (if handleKind h = 1 then u.live else u.snap) then .ok ()
      else badHandle s w 2 h
  | 4 => if s.worldOf s.here == (s.cluster (handleCluster h)).ns then .ok () else raise s w cWorld 0 h
  | 5 =>
    let d := s.me.view.seq - o.nextSeq
    if !u.seq || handleKind h != 1 || d == 0 then .ok ()
    else if d.toNat ≤ 0x7FFF then
      if s.squashedHere then .error .cancel
      else if s.me.blk.isNone then hold
      else if s.me.mayLeave then .error (.orderWait (handleKey h))
      else hold
    else badHandle s w 3 h
  | 6 => if u.page && (o.state == .absent || o.state == .pagingIn) then raise s w cStateAbsent 0 h else .ok ()
  | _ => if shape then .ok () else badHandle s w 4 h

/-- One check on each handle in turn: of several handles that fail the same check, the first decides the operand, the
target coming before the sources in the order of their list, which R125 leaves open.
DESIGN CHOICE, log entry 151. -/
def checkEach (s : State) (w : Site) (shape : Bool) (n : Nat) : List Use → Eff Unit
  | [] => .ok ()
  | u :: r => do
    checkHandle s w shape n u
    checkEach s w shape n r

/-- The checks of R125 in their order, each on every handle; the shapes are looked at last. -/
def checkAll (s : State) (w : Site) (us : List Use) (shape : Bool) : List Nat → Eff Unit
  | [] => .ok ()
  | n :: r => do
    checkEach s w shape n us
    checkAll s w us shape r

/-- The verdict of R307 on a group's F command. -/
def verdict (s : State) (w : Site) (us : List Use) (shape : Bool) : Eff Unit :=
  checkAll s w us shape [1, 2, 3, 4, 5, 6, 7]

/-! ## Parameters (R305, R306) -/

/-- The step layout. -/
structure StepParams where
  beta : Nat
  alpha : Nat
  nh : Nat
  head : Nat
  rows : Nat
  avreg : Nat
  av : Bool
  bf16 : Bool
  deriving DecidableEq, Repr

/-- The step layout of a stream register, or none where a reserved bit is set or a field is out of its
limits. -/
def stepParams (q : BitVec 256) : Option StepParams :=
  let w0 := word256 q 0
  let w1 := word256 q 1
  if field w1 30 34 != 0 || field w1 22 2 != 0 || field w1 15 1 != 0 || word256 q 2 != 0 || word256 q 3 != 0
      || field w1 8 7 == 0 || 64 < field w1 8 7 || 2 ≤ field w1 0 2 then none
  else some ⟨field w0 32 32, field w0 0 32, field w1 24 6 + 1, field w1 16 6, field w1 8 7, field w1 3 5,
    bit w1 2, field w1 0 2 == 1⟩

/-- Element bytes of the operands. -/
def StepParams.eb (x : StepParams) : Nat := if x.bf16 then 2 else 4

/-- The tiles of an extent (R306). -/
def tilesOf (t len : Nat) : List Nat := (List.range ((len + 16383) / 16384)).map (t + ·)

/-- Bytes of a core's tiles from byte 0 of a tile on (R306). -/
def tileBytes (c : Core) (t : Nat) (len : Nat) : Data :=
  (List.range len).map fun o =>
    let x := c.tile (t + o / 16384)
    (BitVec.ofNat 8 (x.get (o % 16384) 1), x.bad (o % 16384) 1)

/-- The extents pass no tile but `t15`, and no two of them overlap. -/
def extentsFit (xs : List (Nat × Nat)) : Bool :=
  xs.all (fun x => (tilesOf x.1 x.2).all (· < 16)) &&
    (xs.flatMap fun x => tilesOf x.1 x.2).eraseDups.length == (xs.flatMap fun x => tilesOf x.1 x.2).length

/-- What a command of the step family reads and writes: its form, its input extents in the order G or K, V, Q,
and whether Q is also its output. -/
structure StepShape where
  par : StepParams
  inputs : List (Nat × Nat)
  out : Option (Nat × Nat)
  deriving DecidableEq, Repr

/-- The shape of a step command on an object, or none where check 7 fails. Forms: 0 `.delta.pre`, 1
`.delta.post`, 2 `.hebb`, 3 `.grad`, 4 `fwread`, 5 `fwfade`, 6 `fwouter`. -/
def stepShape (q : BitVec 256) (o : Obj) (form k v qq : Nat) : Option StepShape :=
  match stepParams q with
  | none => none
  | some p =>
    let rows := p.nh * p.rows * o.dim * p.eb
    let square := p.nh * o.dim * o.dim * p.eb
    let ins := match form with
      | 3 => [(k, square), (qq, rows)]
      | 4 => [(qq, rows)]
      | 5 => []
      | 6 => [(k, rows), (v, rows)]
      | _ => [(k, rows), (v, rows), (qq, rows)]
    if o.heads < p.head + p.nh || (p.av && 1024 < p.nh * o.dim) || !extentsFit ins then none
    else some ⟨p, ins, if form ≤ 4 then some (qq, rows) else none⟩

/-! ## State arithmetic (R134 to R137) -/

/-- An FP32 value with its poison and the flags raised in forming it. -/
abbrev Val := Nat × Bool × Flags

/-- +0. -/
def Val.zero : Val := (0, false, 0)

/-- A rounded result of some values. -/
def Val.of (r : Rounded) (xs : List Val) : Val :=
  (r.bits, xs.any (·.2.1), xs.foldl (fun f x => f ||| x.2.2) r.flags)

/-- Sum, product, difference and fused product-sum, each rounded once to nearest even. -/
def Val.add (a b : Val) : Val := Val.of (f32.add 0 a.1 b.1) [a, b]
/-- Product. -/
def Val.mul (a b : Val) : Val := Val.of (f32.mul 0 a.1 b.1) [a, b]
/-- Difference. -/
def Val.sub (a b : Val) : Val := Val.of (f32.sub 0 a.1 b.1) [a, b]
/-- a * b + c. -/
def Val.fma (a b c : Val) : Val := Val.of (f32.fma f32 0 false false a.1 b.1 c.1) [a, b, c]
/-- c - a * b. -/
def Val.fms (a b c : Val) : Val := Val.of (f32.fma f32 0 true false a.1 b.1 c.1) [a, b, c]

/-- The list in groups of 16 (R134). -/
def groups16 {α : Type} : Nat → List α → List (List α)
  | 0, _ => []
  | n + 1, l => if l.isEmpty then [] else l.take 16 :: groups16 n (l.drop 16)

/-- One pass of the pairwise tree; a last group without a partner passes up unchanged. -/
def pairPass : List Val → List Val
  | a :: b :: r => Val.add a b :: pairPass r
  | l => l

/-- The pairwise tree. -/
def pairTree : Nat → List Val → Val
  | 0, l => l.headD Val.zero
  | n + 1, l => if 1 < l.length then pairTree n (pairPass l) else l.headD Val.zero

/-- The dot product of R134. -/
def dot (x y : List Val) : Val :=
  pairTree x.length ((groups16 x.length (x.zip y)).map fun g =>
    g.foldl (fun a p => Val.fma p.1 p.2 a) Val.zero)

/-- A head's matrix or a block of rows. -/
abbrev Rows := List (List Val)

/-- Every row faded by its alpha (R135). -/
def fade (alpha : Nat → Val) (m : Rows) : Rows :=
  ((List.range m.length).zip m).map fun r => r.2.map (Val.mul (alpha r.1))

/-- One outer product added: row i of the matrix plus e[i] * k. -/
def outerAdd (m : Rows) (e k : List Val) : Rows :=
  (m.zip e).map fun r => (r.1.zip k).map fun x => Val.fma r.2 x.2 x.1

/-- The outer products of the chunk's rows added in ascending order. -/
def outerAll (m : Rows) (es ks : Rows) : Rows := (es.zip ks).foldl (fun m x => outerAdd m x.1 x.2) m

/-- The rows read through a matrix: each row's dot products with the matrix's rows. -/
def readThrough (m : Rows) (xs : Rows) : Rows := xs.map fun x => m.map fun row => dot row x

/-- P of `.post` (R135). -/
def postRows (alpha : Nat → Val) (y e ks qs : Rows) : Rows :=
  (y.zip qs).map fun r =>
    let a := ks.map fun k => dot k r.2
    ((List.range r.1.length).zip r.1).map fun x =>
      (e.zip a).foldl (fun p z => Val.fma (z.1.getD x.1 Val.zero) z.2 p)
        (Val.mul (alpha x.1) x.2)

/-- One head's step: the new matrix and the rows returned (R135, R136, R308). -/
def headStep (form : Nat) (alpha : Nat → Val) (beta : Val) (m k v q : Rows) : Rows × Rows :=
  match form with
  | 2 =>
    (outerAll (fade alpha m) (v.map fun r => r.map (Val.mul beta)) k, readThrough m q)
  | 3 =>
    (((fade alpha m).zip k).map fun r => (r.1.zip r.2).map fun x => Val.fms beta x.2 x.1, readThrough m q)
  | 4 => (m, readThrough m q)
  | 5 => (fade alpha m, [])
  | 6 => (outerAll m v k, [])
  | _ =>
    let u := readThrough m k
    let y := readThrough m q
    let e := (v.zip u).map fun r => (r.1.zip r.2).map fun x => Val.mul beta (Val.sub x.1 x.2)
    (outerAll (fade alpha m) e k, if form = 1 then postRows alpha y e k q else y)

/-! ## Elements in objects, tiles and vectors -/

/-- A BF16 number widened exactly (R135). -/
def widen (x : Nat) : Nat := x * 2 ^ 16

/-- A value rounded to BF16 by RNE (R135, R306). -/
def Val.narrow (x : Val) : Val := Val.of (bf16.convert 0 false 0 false (f32.value x.1)) [x]

/-- An element of an object as FP32. -/
def Obj.elem (o : Obj) (i : Nat) : Val :=
  let e := (Table.look o.data i).getD ⟨0, false⟩
  (if o.bf16 then widen (e.bits.toNat % 2 ^ 16) else e.bits.toNat, e.poison, 0)

/-- An element of an object replaced, rounded to its storage; with the flags of the rounding. -/
def Obj.setElem (o : Obj) (i : Nat) (x : Val) : Obj × Flags :=
  let y := if o.bf16 then x.narrow else x
  ({ o with data := Table.store o.data ⟨0, false⟩ i ⟨BitVec.ofNat 32 y.1, y.2.1⟩ }, y.2.2)

/-- Elements of an object replaced in turn. -/
def Obj.setElems (o : Obj) : List (Nat × Val) → Obj × Flags
  | [] => (o, 0)
  | x :: r =>
    let a := o.setElem x.1 x.2
    let b := a.1.setElems r
    (b.1, a.2 ||| b.2)

/-- A head's matrix. -/
def Obj.matrix (o : Obj) (h : Nat) : Rows :=
  (List.range o.dim).map fun i => (List.range o.dim).map fun j => o.elem (h * o.dim * o.dim + i * o.dim + j)

/-- Element number n of an operand's bytes as FP32 (R306). -/
def operandElem (bf : Bool) (d : Data) (n : Nat) : Val :=
  let eb := if bf then 2 else 4
  let b := slice d (n * eb) eb
  let x := ofBytes (b.map (·.1))
  (if bf then widen x else x, b.any (·.2), 0)

/-- A block of rows of d elements of an operand, from a row number on. -/
def operandRows (bf : Bool) (d : Data) (dim first n : Nat) : Rows :=
  (List.range n).map fun c => (List.range dim).map fun j => operandElem bf d ((first + c) * dim + j)

/-- The rows of an operand: `per` rows of each head. -/
def FCmd.rows (c : FCmd) (p : StepParams) (dim per hh i : Nat) : Rows :=
  operandRows p.bf16 (c.inputs.getD i []) dim (hh * per) per

/-- The per-row or scalar alpha of a head (R306). -/
def FCmd.alphaOf (c : FCmd) (p : StepParams) (dim hh i : Nat) : Val :=
  if p.av then
    let n := hh * dim + i
    (c.alpha.elem 4 n, c.alpha.bad (4 * n) 4, 0)
  else (p.alpha, false, 0)

/-- Bytes stored into tiles from byte 0 of a tile on (R306). -/
def putTileBytes (c : Core) (t : Nat) : Nat → Data → Core
  | _, [] => c
  | o, b :: r =>
    let n := t + o / 16384
    putTileBytes (c.setTile n ((getReg c.r.t n ⟨0, 0⟩).put (o % 16384) 1 b.1.toNat b.2)) t (o + 1) r

/-- The bytes of output rows, rounded to the output format, with the flags raised. -/
def rowBytes (bf : Bool) (m : Rows) : Data × Flags :=
  (m.flatMap id).foldl (fun acc x =>
    let y := if bf then x.narrow else x
    (acc.1 ++ (toBytes (if bf then 2 else 4) y.1).map (fun b => (b, y.2.1)), acc.2 ||| y.2.2)) ([], 0)

/-! ## Acceptance (R307, R312) -/

/-- The form of a step command by its word. -/
def formOf (op opt : Nat) : Nat :=
  if op = 2 then 4 else if op = 4 then 5 else if op = 5 then 6 else opt

namespace State

/-- A command has arrived at its objects: each is accessed now, an eviction under way is abandoned (R143) and a
stub that forwarded it is freed (R145). An arriving `fwevict` joins the eviction under way instead of abandoning it, which
R143 does not say (DESIGN CHOICE, log entry 155). Of two forwarding stubs in a row only the one that the command names is
freed, which R145 does not say either.
DESIGN CHOICE, log entry 159. -/
def arriveAtObjects (s : State) (op : Nat) (named handles : List W64) : State :=
  let s := handles.foldl (fun s h =>
    let o := s.obj (handleKey h)
    { s with fresh := s.fresh + 1 }.setObj (handleKey h)
      { o with lru := s.fresh, state := if o.state == Residency.pagingOut && op != 0x12 then .resident else o.state }) s
  (named.zip handles).foldl (fun s x => if x.1 = x.2 then s else s.freeObject (handleKey x.1)) s

/-- A command accepted (R307). -/
def acceptF (s : State) (w : Site) (named handles : List W64) (q : BitVec 256) (alpha : VReg)
    (inputs : List Data) (busy : List (Res × Bool)) : State :=
  let s := s.arriveAtObjects (opcodeOf w.word) named handles
  let fwd := ((named.zip handles).find? fun x => x.1 != x.2).map (·.2)
  let c : FCmd := ⟨s.fresh, w.word, q, alpha, handles, fwd.getD 0, inputs, s.me.view.seq, s.ownerOf s.here, s.fresh,
    busy, none, 0⟩
  { s with fresh := s.fresh + 1 }.setMe { s.me with fq := s.me.fq ++ [c] }

end State

/-- A drop of one of the objects is on its way: what arrives after it finds the slot freed, so the verdict is
awaited (R141). -/
def dropPending (s : State) (hs : List W64) : Bool :=
  s.allF.any fun c => c.op == 0x0C && c.keys.any ((hs.map handleKey).contains ·)

/-- A core may accept one more F command, whose busy bits are free (R117, R307). -/
def Core.mayAcceptF (c : Core) (busy : List (Res × Bool)) : Bool :=
  decide (c.fq.length < 4) && busy.all fun b => if b.2 then c.canWrite b.1 else c.canRead b.1

/-- An F command issued: its handles are read, the verdict found on them, and the command accepted when its
resources and the queue are free (R125, R307). `shape` is check 7 on the objects behind the handles. -/
def issueF (s : State) (w : Site) (us : List Use) (q : BitVec 256) (alpha : VReg) (shape : List Obj → Bool)
    (ins : List (Nat × Nat)) (busy : List (Res × Bool)) : Eff State := do
  let n := s.objs.length + 1
  let us' := us.map fun u => { u with handle := if opcodeOf w.word = 0x13 then u.handle else resolveHandle s n u.handle }
  let hs := us'.map (·.handle)
  ready (!dropPending s hs && s.me.mayAcceptF busy)
  if s.me.performed then pure () else verdict s w us' (shape (hs.map fun h => s.obj (handleKey h)))
  let c := s.me
  return s.acceptF w (us.map (·.handle)) hs q alpha (ins.map fun x => tileBytes c x.1 x.2) busy

/-- A handle register as a group reads it; a W-busy one holds the group (R310). -/
def handleReg (s : State) (n : Nat) : Eff W64 := do
  ready (s.me.canRead (.handle n))
  return getReg s.me.view.h n 0

/-- The stream register of a command's parameters. -/
def paramsOf (s : State) (h : Nat) : BitVec 256 := getReg s.me.view.q h 0

/-- A command of the step family (R305 to R308). -/
def issueStep (s : State) (w : Site) (h form k v q : Nat) : Eff State := do
  let x ← handleReg s h
  let par := paramsOf s h
  let o := s.obj (handleKey (resolveHandle s (s.objs.length + 1) x))
  let sh := stepShape par o form k v q
  let ins := match sh with | some z => z.inputs | none => []
  let out := match sh with | some z => z.out.toList | none => []
  let av := match sh with | some z => if z.par.av then [z.par.avreg] else [] | none => []
  ready (av.all fun n => s.me.canRead (.vec n))
  issueF s w [⟨x, true, form == 4, true, true⟩] par (getReg s.me.view.v (av.headD 0) ⟨0, 0⟩) (fun _ => sh.isSome) ins
    ((ins.flatMap fun e => (tilesOf e.1 e.2).map fun t => (Res.tile t, false))
      ++ out.flatMap fun e => (tilesOf e.1 e.2).map fun t => (Res.tile t, true))

/-- The objects have one shape. -/
def sameShape : List Obj → Bool
  | [] => true
  | o :: r => r.all fun x => x.heads == o.heads && x.dim == o.dim

/-- A command on the one object of a handle register. -/
def issueOn (s : State) (w : Site) (h : Nat) (u : W64 → Use) (busy : List (Res × Bool)) : Eff State := do
  let x ← handleReg s h
  issueF s w [u x] 0 ⟨0, 0⟩ (fun _ => true) [] busy

/-- `fwavg` (R139, R305): the target and the first NSRC sources. -/
def issueAverage (s : State) (w : Site) (h : Nat) (srcs : List Nat) : Eff State := do
  let par := paramsOf s h
  let n := field (word256 par 2) 0 2 + 2
  let t ← handleReg s h
  let xs ← (srcs.take n).mapM (handleReg s)
  let ok := field (word256 par 2) 2 62 == 0 && decide (n ≤ 4) && word256 par 3 == 0
  issueF s w (⟨t, true, false, true, true⟩ :: xs.map fun x => ⟨x, true, true, true, true⟩) par ⟨0, 0⟩
    (fun os => ok && sameShape os) [] []

/-- `fwroll` (R140, R310).
DEDUCED, log entry 91. -/
def issueRoll (s : State) (w : Site) (h src : Nat) : Eff State := do
  let t ← handleReg s h
  let x ← handleReg s src
  issueF s w [⟨t, true, false, false, true⟩, ⟨x, false, true, false, true⟩] 0 ⟨0, 0⟩ sameShape [] []

/-- `fwmigr` (R145, R305): a destination of another world raises WORLD, which is found after the checks 1 to 4 of R125 and
before the others; the rules give no place for it among them.
DESIGN CHOICE, log entry 160. -/
def issueMigrate (s : State) (w : Site) (h d : Nat) : Eff State := do
  let x ← handleReg s h
  let par := paramsOf s h
  let dest := field (word256 par 0) 52 12
  let ok := field (word256 par 0) 0 52 == 0 && word256 par 1 == 0 && word256 par 2 == 0 && word256 par 3 == 0
    && decide (dest / 2 % 8 ≤ 4) && s.member (chipOf s.here) (dest / 16)
  let y := resolveHandle s (s.objs.length + 1) x
  let us : List Use := [⟨y, true, true, false, true⟩]
  ready (s.me.mayAcceptF [(.handle d, true)])
  if s.me.performed then pure () else checkAll s w us true [1, 2, 3, 4]
  if !s.me.performed && ok && (s.cluster dest).ns != (s.cluster (handleCluster y)).ns then raise s w cWorld 0 x
  else issueF s w [⟨x, true, true, false, true⟩] par ⟨0, 0⟩ (fun _ => ok) [] [(.handle d, true)]

/-- `fwbind` (R305, R309): no object to check; the command creates one in the core's own cluster. -/
def issueBind (s : State) (w : Site) (h : Nat) : Eff State :=
  issueF s w [] (paramsOf s h) ⟨0, 0⟩ (fun _ => true) [] [(.handle h, true)]

/-! ## Performance (R128 to R145, R308 to R312) -/

/-- What a command has come to: it waits, with its progress kept, or it is done, with a status, the handle it
created and the register that receives it, the flags raised and the tile bytes it writes. -/
inductive FResult where
  | wait (s : State) (phase : Nat)
  | done (s : State) (status : Nat) (handles : List W64) (reg : Nat) (fl : Flags) (out : Option (Nat × Data))

/-- A command that is done without a handle, a flag or a tile. -/
def FResult.plain (s : State) (status : Nat) : FResult := .done s status [] 0 0 none

/-- A number of units of a cluster granted, or the wait for them, or NOSPACE (status 2). -/
def withUnits (s : State) (cl n : Nat) (f : State → FResult) : FResult :=
  match s.grant cl n with
  | .now => f s
  | .wait => .wait s 3
  | .never => FResult.plain s 2

/-- Units that an object's elements from an index on lie in. -/
def unitsFrom (o : Obj) (first n : Nat) : List Nat :=
  if n = 0 then []
  else
    let lo := first * o.bytes / 256
    (List.range ((first + n) * o.bytes / 256 + (if (first + n) * o.bytes % 256 = 0 then 0 else 1) - lo)).map (lo + ·)

/-- A step command performed on its object (R135, R136, R138, R308). -/
def runStep (s : State) (c : FCmd) (form : Nat) : FResult :=
  let key := handleKey (c.handles.headD 0)
  let o := s.obj key
  match stepShape c.q o form (c.fld 16 4) (c.fld 12 4) (c.fld 8 4) with
  | none => FResult.plain s 6
  | some sh =>
    let p := sh.par
    let d := o.dim
    let go := fun (s : State) =>
      let res := (List.range p.nh).map fun hh =>
        let m := o.matrix (p.head + hh)
        let k := if form = 3 then c.rows p d d hh 0 else if form = 4 || form = 5 then [] else c.rows p d p.rows hh 0
        let v := if form ≤ 2 || form = 6 then c.rows p d p.rows hh 1 else []
        let q := if form = 4 then c.rows p d p.rows hh 0 else if form = 3 then c.rows p d p.rows hh 1
          else if form ≤ 2 then c.rows p d p.rows hh 2 else []
        (hh, headStep form (c.alphaOf p d hh) (p.beta, false, 0) m k v q)
      let new := if form = 4 then [] else res.flatMap fun r =>
        (((List.range (d * d)).zip (r.2.1.flatMap id)).map fun x => ((p.head + r.1) * d * d + x.1, x.2))
      let w := (s.obj key).setElems new
      let fl := (new.map (·.2.2.2)).foldl (· ||| ·) w.2
      let out := rowBytes p.bf16 (res.flatMap (·.2.2))
      let fo := ((res.flatMap (·.2.2)).flatMap fun r => r.map (·.2.2)).foldl (· ||| ·) out.2
      FResult.done (s.setObj key w.1) 0 [] 0 (fl ||| fo) (sh.out.map fun e => (e.1, out.1))
    if form = 4 then go s
    else
      let us := s.sharedUnits key (unitsFrom o (p.head * d * d) (p.nh * d * d))
      withUnits s (key / 4096) us.length fun s => go (s.makePrivate key us)

/-- `fwbind` performed (R127, R305, R309). -/
def runBind (s : State) (c : FCmd) (k : Nat) : FResult :=
  let w0 := word256 c.q 0
  if field w0 17 31 != 0 || field w0 13 3 != 0 || field w0 6 2 != 0 || word256 c.q 1 != 0 || word256 c.q 2 != 0
      || word256 c.q 3 != 0 then FResult.plain s 6
  else
    let o : Obj := { Obj.free with
      kind := 1, heads := field w0 0 6 + 1, dim := 8 * (field w0 8 5 + 1), bf16 := bit w0 16
      nextSeq := BitVec.ofNat 16 (field w0 48 16), base := s.fresh }
    let cl := clusterOf k
    match s.freeSlot cl with
    | none => FResult.plain s 2
    | some key => withUnits s cl o.units fun s =>
        let s := { s with fresh := s.fresh + 1 }.create key o
        .done s 0 [makeHandle key (s.obj key)] (c.fld 4 4) 0 none

/-- New objects that share a source's units (R138). -/
def spawn (s : State) (src : Obj) (kind : BitVec 8) (cl : Nat) : Nat → Option (State × List W64)
  | 0 => some (s, [])
  | n + 1 =>
    match s.freeSlot cl with
    | none => none
    | some key =>
      let s := s.create key { src with kind := kind }
      match spawn s src kind cl n with
      | none => none
      | some (t, hs) => some (t, makeHandle key (s.obj key) :: hs)

/-- `fwsnap` and `fwfork` performed: no slot leaves everything unchanged with NOSPACE. -/
def runSpawn (s : State) (c : FCmd) (kind : BitVec 8) (n : Nat) : FResult :=
  let key := handleKey (c.handles.headD 0)
  match spawn s (s.obj key) kind (key / 4096) n with
  | none => FResult.plain s 2
  | some (t, hs) => .done t 0 hs (c.fld 0 4) 0 none

/-- `fwavg` performed (R139, R437). -/
def runAverage (s : State) (c : FCmd) : FResult :=
  let key := handleKey (c.handles.headD 0)
  let o := s.obj key
  let srcs := (c.handles.drop 1).map fun h => s.obj (handleKey h)
  let weight := fun i => ((field (word256 c.q (i / 2)) (32 * (i % 2)) 32, false, 0) : Val)
  let us := s.sharedUnits key (List.range o.units)
  withUnits s (key / 4096) us.length fun s =>
    let s := s.makePrivate key us
    let new := (List.range (o.heads * o.dim * o.dim)).map fun e =>
      (e, match (List.range srcs.length).zip srcs with
        | [] => Val.zero
        | x :: r => r.foldl (fun a y => Val.fma (weight y.1) (y.2.elem e) a) (Val.mul (weight x.1) (x.2.elem e)))
    let w := (s.obj key).setElems new
    .done (s.setObj key w.1) 0 [] 0 ((new.map (·.2.2.2)).foldl (· ||| ·) w.2) none

/-- `fwroll` performed (R140, R437). -/
def runRoll (s : State) (c : FCmd) : FResult :=
  let key := handleKey (c.handles.headD 0)
  let skey := handleKey (c.handles.getD 1 0)
  let go := fun (s : State) (base : Nat) (own : Table Nat) =>
    let x := s.obj skey
    let s := s.setObj key { s.obj key with
      data := x.data, nextSeq := x.nextSeq, bf16 := x.bf16, base := base, own := own }
    FResult.plain (s.releaseWaiters key 5 fun _ => true) 0
  if key / 4096 = skey / 4096 then go s (s.obj skey).base (s.obj skey).own
  else withUnits s (key / 4096) (s.obj skey).units fun s => go { s with fresh := s.fresh + 1 } s.fresh []

/-- `fwcommit` performed (R130): the object's sequence advances, the block's follows it wherever its record
is, and the waiters of the new sequence are released. -/
def runCommit (s : State) (c : FCmd) : FResult :=
  let key := handleKey (c.handles.headD 0)
  let n := (s.obj key).nextSeq + 1
  let s := s.setObj key { s.obj key with nextSeq := n }
  let s := match s.runs c.own.part c.own.uid with
    | some k =>
      let x := s.coreOf c.own.part k
      s.setCoreOf c.own.part k { x with r := { x.r with seq := n } }
    | none => match s.storedAt c.own.uid with
      | some cl => s.editRec cl c.own.uid 3 (.set 16 16 n.toNat)
      | none => s
  FResult.plain (s.releaseWaiters key 3 fun r => recSeq r.words == n.toNat) 0

/-- `fwmigr` performed (R145): the copy is started once the destination has a slot and units; its end is an
event of its own, which leaves the new handle with the command. -/
def runMigrate (s : State) (c : FCmd) : FResult :=
  let key := handleKey (c.handles.headD 0)
  let o := s.obj key
  if c.phase = 2 then .done s 0 [c.fwd] (c.fld 0 4) 0 none
  else if c.phase = 1 then .wait s 1
  else
    let cl := field (word256 c.q 0) 52 12
    match s.freeSlot cl with
    | none => FResult.plain s 2
    | some new => withUnits s cl o.units fun s =>
        let s := { s with fresh := s.fresh + 1 }.create new { o with base := s.fresh, own := [] }
        let s := s.setObj new { s.obj new with hold := true }
        .wait (s.setObj key { o with moving := some new }) 1

/-- `fwevict` performed (R142, R311). -/
def runEvict (s : State) (c : FCmd) : FResult :=
  let key := handleKey (c.handles.headD 0)
  let o := s.obj key
  if c.phase = 4 then FResult.plain s 2
  else if o.state == .pagingOut then .wait s 1
  else if c.phase = 1 then FResult.plain s 0
  else if !s.idleObject key then FResult.plain s 0
  else if !s.imageFits key then FResult.plain s 2
  else .wait (s.setObj key { o with state := .pagingOut }) 1

/-- `fwpagein` performed (R144): it starts the page-in of an absent object, or joins the one under way, and completes when
its flag is posted; a resident object posts at once. -/
def runPageIn (s : State) (c : FCmd) (k : Nat) : FResult :=
  let key := handleKey (c.handles.headD 0)
  let o := s.obj key
  let f : BitVec 4 := BitVec.ofNat 4 (c.fld 0 4)
  match c.status with
  | some st => FResult.plain s st.toNat
  | none =>
    if c.phase = 1 && o.state == .pagingIn then .wait s 1
    else if o.state == .absent || o.state == .pagingIn then
      .wait (s.setObj key { o with state := .pagingIn, posts := o.posts ++ [(k, c.id, f)] }) 1
    else FResult.plain (s.sendPost c.own.part k k f 1 0 0 2) 0

/-- The 64 bytes of `fwstat` (R311).
DEDUCED, log entry 90. -/
def statBytes (s : State) (h : W64) : Data :=
  let key := handleKey h
  let o := s.obj key
  let st := match o.state with
    | .resident => 0 | .pagingOut => 1 | .absent => 2 | .pagingIn => 3 | .stub => 4
  let sharing := ((s.objectsOf (key / 4096)).filter fun x => x.1 == key || x.2.held.any o.held.contains).length
  clean (toBytes 8 h.toNat ++ toBytes 1 st ++ toBytes 1 o.kind.toNat ++ toBytes 1 (o.heads - 1)
    ++ toBytes 1 (o.dim / 8 - 1) ++ toBytes 1 (ofBool o.bf16) ++ toBytes 1 0 ++ toBytes 2 o.nextSeq.toNat
    ++ toBytes 4 o.held.length ++ toBytes 2 (s.waitersOf key) ++ toBytes 2 sharing ++ toBytes 40 0)

/-- A command performed. -/
def runF (s : State) (c : FCmd) (k : Nat) : FResult :=
  let key := handleKey (c.handles.headD 0)
  match c.op with
  | 0x01 => runBind s c k
  | 0x02 => runStep s c 4
  | 0x03 => runStep s c (c.fld 0 4)
  | 0x04 => runStep s c 5
  | 0x05 => runStep s c 6
  | 0x06 => runCommit s c
  | 0x08 => runSpawn s c 2 1
  | 0x09 => runSpawn s c 1 (c.fld 16 2 + 1)
  | 0x0A => runAverage s c
  | 0x0B => runRoll s c
  | 0x0C =>
    if (s.obj key).state == .pagingIn then .wait s 0
    else FResult.plain ((s.freeObject key).releaseWaiters key 5 fun _ => true) 0
  | 0x10 => runMigrate s c
  | 0x11 => runPageIn s c k
  | 0x12 => runEvict s c
  | 0x13 => .done s 0 [] 0 0 (some (c.fld 16 4, statBytes s (c.handles.headD 0)))
  | _ => FResult.plain s 0

/-- The accepted commands of a core, or of its saved images. -/
def commandsF (s : State) (k : Nat) : List FCmd :=
  (s.core k).fq ++ s.parts.flatMap fun p => match Table.look p.2.image k with
    | some c => c.fq
    | none => []

/-- A command need not wait for an earlier one of another core on an object of its own: `fwevict` is no command in flight
on its object and completes at once beside one (R142, R311), though `fwdrop` waits for it as for every accepted command
(R141), `fwstat` shows a page-in under way (R311), and page-ins of one object go together (R144). -/
def passable (x c : FCmd) : Bool :=
  (x.op == 0x12 && c.op != 0x0C) || c.op == 0x12 || (x.op == 0x11 && (c.op == 0x13 || c.op == 0x11))

/-- A command may perform: no earlier one that is still in flight names an object of its own, but for those of other cores
that it need not wait for (R130, R133, R140, R144, R436). -/
def turnOf (s : State) (k : Nat) (c : FCmd) : Bool :=
  let before := fun (x : FCmd) => decide (x.ord < c.ord) && x.keys.any (c.keys.contains ·)
  !(commandsF s k).any before && !s.allF.any fun x => before x && !passable x c

/-- Handle registers written from a register on (R310). -/
def putHandles (r : Arch) (n : Nat) : List W64 → Arch
  | [] => r
  | h :: hs => putHandles { r with h := setReg r.h n h } (n + 1) hs

/-- A completed command leaves the queue: tiles, handle registers and FWSTAT are written, the flags accrue, and
NOSPACE and FORMAT raise TRANSFER_ERROR (R128, R310, R312). FWSTAT.HANDLE of a command that creates a handle and was
forwarded by a stub too is the created one, which R128 leaves open.
DESIGN CHOICE, log entry 152. -/
def completeF (s : State) (k : Nat) (c : FCmd) (status : Nat) (hs : List W64) (reg : Nat) (fl : Flags)
    (out : Option (Nat × Data)) : State :=
  let p := c.own.part
  let x := s.coreOf p k
  let x := match out with | some o => putTileBytes x o.1 0 o.2 | none => x
  let h := hs.headD c.fwd
  let st := BitVec.ofNat 64 (field h 16 48 * 2 ^ 16 + (if hs.isEmpty then 0 else reg) * 2 ^ 4 + status)
  let x := { x with
    fq := x.fq.filter fun y => y.id != c.id
    r := { putHandles x.r reg hs with fwstat := st } }
  let s := (s.setCoreOf p k x).accrue c.own fl
  let s := if status = 0 then s
    else s.pendKernel p k ⟨BitVec.ofNat 6 cTransferError, true, 5, false, BitVec.ofNat 7 c.op,
      BitVec.ofNat 4 status, 0, 0, 0⟩
  s.settle

/-- The next command of a core that can complete does so; one that has to wait keeps its progress. R133 orders the
commands of one object: of a core's commands on different objects, the first in its queue that is able goes first.
DESIGN CHOICE, log entry 154. -/
def advanceF (s : State) (k : Nat) : List FCmd → State
  | [] => s
  | c :: r =>
    if !turnOf s k c then advanceF s k r
    else
      match runF s c k with
      | .done t st hs reg fl out => completeF t k c st hs reg fl out
      | .wait t ph =>
        let x := t.coreOf c.own.part k
        advanceF (t.setCoreOf c.own.part k { x with fq := x.fq.map fun y =>
          if y.id == c.id then { y with phase := ph } else y }) k r

/-! ## The pager, the migration copy and errors (R122, R142 to R145) -/

/-- The state once the evictions under way in a cluster have ended. -/
def evictionsEnded (s : State) (cl : Nat) : State :=
  { s with objs := s.objs.map fun o =>
      (o.1, if o.1 / 4096 == cl && o.2.state == .pagingOut then { o.2 with state := .absent } else o.2) }

/-- The cluster whose units a command needs (R437). -/
def FCmd.unitCluster (c : FCmd) (k : Nat) : Nat :=
  if c.op = 1 then clusterOf k else if c.op = 0x10 then field (word256 c.q 0) 52 12 else c.keys.headD 0 / 4096

/-- A command that waits for units would wait for them still. -/
def FCmd.lacksUnits (t : State) (cl k : Nat) (c : FCmd) : Bool :=
  c.phase == 3 && c.unitCluster k == cl && match runF t c k with
    | .wait _ 3 => true
    | _ => false

/-- A command, or a page-in, waits for units of a cluster that the evictions under way do not free (R142,
R437). -/
def unitsAwaited (s : State) (cl : Nat) : Bool :=
  let t := evictionsEnded s cl
  (s.cores.any fun x => (commandsF s x.1).any (FCmd.lacksUnits t cl x.1))
    || (s.objectsOf cl).any fun o => o.2.state == .pagingIn && t.unitsUsed cl + o.2.units > stateUnits

/-- Queued F commands changed, in cores and images. -/
def State.mapF (s : State) (f : FCmd → FCmd) : State :=
  { s with
    cores := s.cores.map fun c => (c.1, { c.2 with fq := c.2.fq.map f })
    parts := s.parts.map fun p => (p.1, { p.2 with
      image := p.2.image.map fun c => (c.1, { c.2 with fq := c.2.fq.map f }) }) }

/-- A page-in has ended with a status: the flags are posted, and the commands that named them may complete
(R144). -/
def endPageIn (s : State) (key : Nat) (st : BitVec 4) : State :=
  let posts := (s.obj key).posts
  let s := s.setObj key { s.obj key with posts := [] }
  let s := s.mapF fun c => if posts.any (fun x => x.2.1 == c.id) then { c with status := some st } else c
  posts.foldl (fun s x =>
    let p := match s.allF.find? fun c => c.id == x.2.1 with | some c => c.own.part | none => s.partOf x.1
    s.sendPost p x.1 x.1 x.2.2 1 st 0 2) s

/-- The page-in of an object ends (R144, R437). -/
def pageInEnd (s : State) (key : Nat) (ok : Bool) : State :=
  let o := s.obj key
  if !(o.used && o.state == .pagingIn) then s
  else if !ok then endPageIn (s.setObj key { o with state := .absent }) key 3
  else
    match s.grant (key / 4096) o.units with
    | .wait => s
    | .never => endPageIn (s.setObj key { o with state := .absent }) key 2
    | .now => endPageIn ({ s with fresh := s.fresh + 1 }.setObj key
        { o with state := .resident, hold := true, since := s.now, image := 0, base := s.fresh, own := [] }) key 0

/-- The copy of a migration ends: the object stands in its new slot, its waiters with it, the old slot becomes
a forwarding stub, and the commands held meanwhile apply to the new object (R145). -/
def copyEnd (s : State) (key : Nat) : State :=
  let o := s.obj key
  match o.moving with
  | none => s
  | some new =>
    let n := s.obj new
    let s := s.setObj new { n with data := o.data, nextSeq := o.nextSeq, hold := false }
    let h := makeHandle new (s.obj new)
    let s := s.setObj key { Obj.free with
      used := true, gen := o.gen, kind := o.kind, heads := o.heads, dim := o.dim, bf16 := o.bf16
      nextSeq := o.nextSeq, state := .stub, forward := h }
    let f := fun (r : Rec) => if r.state == RecState.waiting key then { r with state := .waiting new } else r
    let s := { s with clusters := s.clusters.map fun (c : Nat × Cluster) =>
      (c.1, { c.2 with store := c.2.store.map f }) }
    s.mapF fun c => if c.keys.contains key then
      { c with
        handles := c.handles.map fun x => if handleKey x = key then h else x
        fwd := h
        phase := if c.op = 0x10 && c.phase == 1 then 2 else c.phase }
    else c

/-- A word of state SRAM with an uncorrectable error is poisoned, for every object that shares its unit; a
corrected error is counted (R122). -/
def stateError (s : State) (cl slot elem : Nat) (hard : Bool) : State :=
  let key := cl * 4096 + slot
  let o := s.obj key
  if !(o.holds && decide (elem < o.heads * o.dim * o.dim)) then s
  else if !hard then
    let ch := chipOfCluster cl
    let d := dieOfCluster cl
    let x := getReg (s.chip ch).secnt d 0
    s.setChip ch { s.chip ch with
      secnt := setReg (s.chip ch).secnt d (setField x 32 32 (satAdd 0xFFFFFFFF (field x 32 32) 1)) }
  else
    let per := 8 / o.bytes
    let at_ := (List.range per).map (elem / per * per + ·)
    (s.sharers cl (o.unit (elem * o.bytes / 256))).foldl (fun s k =>
      let x := s.obj k
      s.setObj k { x with data := at_.foldl (fun t i =>
        Table.put t i { (Table.look t i).getD ⟨0, false⟩ with poison := true }) x.data }) s

/-! ## Meanings -/


/-- `fwbind` (R127, R309). -/
def execFwbind (g : Guard) (h : BitVec 4) (s : State) : Out :=
  let W : Site := ⟨.F, slotWord g 0x01 (place [(h.toNat, 4)])⟩
  runSlot s g (issueBind s W h.toNat)

/-- `fwread` (R308). -/
def execFwread (g : Guard) (q h : BitVec 4) (s : State) : Out :=
  let W : Site := ⟨.F, slotWord g 0x02 (place [(q.toNat, 8), (h.toNat, 4)])⟩
  runSlot s g (issueStep s W h.toNat 4 0 0 q.toNat)

/-- `fwstep.delta.pre` (R135). -/
def execFwstepDeltaPre (g : Guard) (k v q h : BitVec 4) (s : State) : Out :=
  let W : Site := ⟨.F, slotWord g 0x03 (place [(k.toNat, 16), (v.toNat, 12), (q.toNat, 8), (h.toNat, 4)])⟩
  runSlot s g (issueStep s W h.toNat 0 k.toNat v.toNat q.toNat)

/-- `fwstep.delta.post` (R135). -/
def execFwstepDeltaPost (g : Guard) (k v q h : BitVec 4) (s : State) : Out :=
  let W : Site := ⟨.F, slotWord g 0x03 (place [(k.toNat, 16), (v.toNat, 12), (q.toNat, 8), (h.toNat, 4), (1, 0)])⟩
  runSlot s g (issueStep s W h.toNat 1 k.toNat v.toNat q.toNat)

/-- `fwstep.hebb` (R136). -/
def execFwstepHebb (g : Guard) (k v q h : BitVec 4) (s : State) : Out :=
  let W : Site := ⟨.F, slotWord g 0x03 (place [(k.toNat, 16), (v.toNat, 12), (q.toNat, 8), (h.toNat, 4), (2, 0)])⟩
  runSlot s g (issueStep s W h.toNat 2 k.toNat v.toNat q.toNat)

/-- `fwstep.grad` (R136). -/
def execFwstepGrad (g : Guard) (k q h : BitVec 4) (s : State) : Out :=
  let W : Site := ⟨.F, slotWord g 0x03 (place [(k.toNat, 16), (q.toNat, 8), (h.toNat, 4), (3, 0)])⟩
  runSlot s g (issueStep s W h.toNat 3 k.toNat 0 q.toNat)

/-- `fwfade` (R136). -/
def execFwfade (g : Guard) (h : BitVec 4) (s : State) : Out :=
  let W : Site := ⟨.F, slotWord g 0x04 (place [(h.toNat, 4)])⟩
  runSlot s g (issueStep s W h.toNat 5 0 0 0)

/-- `fwouter` (R136). -/
def execFwouter (g : Guard) (k v h : BitVec 4) (s : State) : Out :=
  let W : Site := ⟨.F, slotWord g 0x05 (place [(k.toNat, 16), (v.toNat, 12), (h.toNat, 4)])⟩
  runSlot s g (issueStep s W h.toNat 6 k.toNat v.toNat 0)

/-- `fwcommit` (R130). -/
def execFwcommit (g : Guard) (h : BitVec 4) (s : State) : Out :=
  let W : Site := ⟨.F, slotWord g 0x06 (place [(h.toNat, 4)])⟩
  runSlot s g (issueOn s W h.toNat (fun x => ⟨x, true, false, true, true⟩) [])

/-- `fwsnap` (R138). -/
def execFwsnap (g : Guard) (h d : BitVec 4) (s : State) : Out :=
  let W : Site := ⟨.F, slotWord g 0x08 (place [(h.toNat, 4), (d.toNat, 0)])⟩
  runSlot s g (issueOn s W h.toNat (fun x => ⟨x, true, false, true, true⟩) [(.handle d.toNat, true)])

/-- `fwfork` (R138, R304): destinations beyond `h15` are no instruction. -/
def execFwfork (g : Guard) (c : BitVec 2) (h d : BitVec 4) (s : State) : Out :=
  let W : Site := ⟨.F, slotWord g 0x09 (place [(c.toNat, 16), (h.toNat, 4), (d.toNat, 0)])⟩
  runSlot s g (if 16 ≤ d.toNat + c.toNat then raiseIllegal s W else issueOn s W h.toNat (fun x => ⟨x, true, true, true, true⟩) ((List.range (c.toNat + 1)).map fun i => (.handle (d.toNat + i), true)))

/-- `fwavg` (R139). -/
def execFwavg (g : Guard) (a b c h e : BitVec 4) (s : State) : Out :=
  let W : Site := ⟨.F, slotWord g 0x0A (place [(a.toNat, 16), (b.toNat, 12), (c.toNat, 8), (h.toNat, 4), (e.toNat, 0)])⟩
  runSlot s g (issueAverage s W h.toNat [a.toNat, b.toNat, c.toNat, e.toNat])

/-- `fwroll` (R140). -/
def execFwroll (g : Guard) (h sr : BitVec 4) (s : State) : Out :=
  let W : Site := ⟨.F, slotWord g 0x0B (place [(h.toNat, 4), (sr.toNat, 0)])⟩
  runSlot s g (issueRoll s W h.toNat sr.toNat)

/-- `fwdrop` (R141). -/
def execFwdrop (g : Guard) (h : BitVec 4) (s : State) : Out :=
  let W : Site := ⟨.F, slotWord g 0x0C (place [(h.toNat, 4)])⟩
  runSlot s g (issueOn s W h.toNat (fun x => ⟨x, true, true, false, false⟩) [])

/-- `fwmigr` (R145). -/
def execFwmigr (g : Guard) (h d : BitVec 4) (s : State) : Out :=
  let W : Site := ⟨.F, slotWord g 0x10 (place [(h.toNat, 4), (d.toNat, 0)])⟩
  runSlot s g (issueMigrate s W h.toNat d.toNat)

/-- `fwpagein` (R144). -/
def execFwpagein (g : Guard) (h f : BitVec 4) (s : State) : Out :=
  let W : Site := ⟨.F, slotWord g 0x11 (place [(h.toNat, 4), (f.toNat, 0)])⟩
  runSlot s g (issueOn s W h.toNat (fun x => ⟨x, true, true, false, false⟩) [])

/-- `fwevict` (R142, R311). -/
def execFwevict (g : Guard) (h : BitVec 4) (s : State) : Out :=
  let W : Site := ⟨.F, slotWord g 0x12 (place [(h.toNat, 4)])⟩
  runSlot s g (issueOn s W h.toNat (fun x => ⟨x, true, true, false, false⟩) [])

/-- `fwstat` (R311). -/
def execFwstat (g : Guard) (t h : BitVec 4) (s : State) : Out :=
  let W : Site := ⟨.F, slotWord g 0x13 (place [(t.toNat, 16), (h.toNat, 4)])⟩
  runSlot s g (issueOn s W h.toNat (fun x => ⟨x, true, true, false, false⟩) [(.tile t.toNat, true)])

/-- An F command completes (R312). -/
def execFCommandComplete (core : Nat) (s : State) : Out :=
  .next (advanceF s core (commandsF s core))

/-- The pager starts to evict the least recently accessed object that qualifies, when units are awaited (R142, R437). -/
def execStateEvict (cl : Nat) (s : State) : Out :=
  .next (if unitsAwaited s cl then
    match s.evictable cl with
    | some k => s.setObj k { s.obj k with state := .pagingOut }
    | none => s
  else s)

/-- An eviction ends: the object is ABSENT with its image in the pager region, or, where the region has become full for it,
RESIDENT, and an `fwevict` of it completes NOSPACE (R142, R311). -/
def execStateEvictDone (cl slot : Nat) (s : State) : Out :=
  let key := cl * 4096 + slot
  let o := s.obj key
  .next (if !(o.used && o.state == .pagingOut) then s
    else if s.imageFits key then s.setObj key { o with state := .absent, image := State.imageSize o, own := [] }
    else (s.setObj key { o with state := .resident }).mapF fun c =>
      if c.op == 0x12 && c.phase == 1 && c.keys.contains key then { c with phase := 4 } else c)

/-- A page-in of state ends (R144). -/
def execStatePageinDone (cl slot : Nat) (ok : Bool) (s : State) : Out :=
  .next (pageInEnd s (cl * 4096 + slot) ok)

/-- The copy of a migration ends (R145). -/
def execFwMigrationCopyDone (cl slot : Nat) (s : State) : Out :=
  .next (copyEnd s (cl * 4096 + slot))

/-- The residency hold of an object ends 64 µs after its last page-in (R142). -/
def execFwResidencyHoldExpire (cl slot : Nat) (s : State) : Out :=
  let key := cl * 4096 + slot
  let o := s.obj key
  .next (if o.used && o.hold && decide (64000 ≤ s.passed o.since) && s.objs.all (fun x => x.2.moving != some key) then s.setObj key { o with hold := false } else s)

/-- A soft error in state SRAM (R122). -/
def execStateSramEccError (cl slot elem : Nat) (hard : Bool) (s : State) : Out :=
  .next (stateError s cl slot elem hard)

end Sys2Proof.Machine
end

