-- ==== Sys2Proof/Machine/Engine.lean ====
section
/-! DEFINITION. What the transfer and gather engines share (R223 to R231, R314): a command's acceptance, the
translation of its extents granule by granule, the transfer of its bytes word by word, the order of its local side, and
its completion. -/
namespace Sys2Proof.Machine

/-- Statuses of R111. -/
def stOk : Nat := 0
/-- R111. -/
def stAbsent : Nat := 1
/-- R111. -/
def stNoSpace : Nat := 2
/-- R111. -/
def stFailed : Nat := 3
/-- R111. -/
def stXlate : Nat := 4
/-- R111. -/
def stWorld : Nat := 5
/-- R111. -/
def stFormat : Nat := 6
/-- R111. -/
def stStale : Nat := 7
/-- R111. -/
def stTimeout : Nat := 8

/-! ## Fields of a command -/

namespace Cmd

/-- The opcode. -/
def op (c : Cmd) : Nat := opcodeOf c.word
/-- A field of the slot word. -/
def fld (c : Cmd) (lo n : Nat) : Nat := bitsOf c.word.toNat lo n
/-- A field of a word of the staging register. -/
def stf (c : Cmd) (w lo n : Nat) : Nat := field (word256 c.stg w) lo n
/-- A field of a word of the paired staging register. -/
def prf (c : Cmd) (w lo n : Nat) : Nat := field (word256 c.pair w) lo n
/-- The number of the staging register. -/
def staging (c : Cmd) : Nat := if c.slotG then c.fld 0 3 else c.fld 13 3
/-- The ring commands take their completion word from the paired register (R224). -/
def completionWord (c : Cmd) : W64 :=
  if !c.slotG && (c.op = 0x0A || c.op = 0x0B) then word256 c.pair 3 else word256 c.stg 3
/-- PE (R205, R314). -/
def pe (c : Cmd) : Bool := c.fld 7 1 == 1
/-- FE (R205, R314). -/
def fe (c : Cmd) : Bool := c.fld 6 1 == 1
/-- The flag that PE posts. -/
def flag (c : Cmd) : BitVec 4 := BitVec.ofNat 4 (if c.slotG then c.fld 8 4 else c.fld 9 4)
/-- The user interrupt of an X command. -/
def interrupts (c : Cmd) : Bool := !c.slotG && c.fld 8 1 == 1
/-- The VA of the future. -/
def fut (c : Cmd) : W64 := BitVec.ofNat 64 (field c.completionWord 4 53 * 16)

end Cmd

/-- The future that a command resolves, if its address is within the limits of R46 (R224). -/
def State.futureOf (s : State) (k : Nat) (c : Cmd) : Option (Nat × Nat) :=
  s.spadWindow (chipOf k) c.fut 16

/-- The completion word is within its limits: the reserved bits, and FUT when the command resolves a future
(R224); a G command has RFEN and RFLAG zero too (R314).
DEDUCED, log entry 53. -/
def State.goodCompletion (s : State) (k : Nat) (c : Cmd) : Bool :=
  let w := c.completionWord
  field w 57 2 == 0 && field w 0 4 == 0 && (!c.slotG || field w 59 5 == 0)
    && (!c.fe || (s.futureOf k c).isSome)

/-! ## Extents -/

/-- A run of bytes from a VA, cut at 64 KiB granules (R59).
DEDUCED, log entry 25. -/
def runsOf : Nat → Nat → Nat → List (Nat × Nat)
  | 0, _, _ => []
  | n + 1, va, len =>
    if len = 0 then []
    else
      let k := min len (65536 - va % 65536)
      (va, k) :: runsOf n (va + k) (len - k)

/-- A run of bytes as runs within granules. -/
def runs (va len : Nat) : List (Nat × Nat) := runsOf (len / 65536 + 2) va len

/-- The pieces of an extent up to the first translation fault, with its kind and VA (R59). -/
structure Plan where
  pieces : List Piece
  fault : Option (Nat × Nat)
  deriving DecidableEq, Repr

namespace State

/-- A run within one granule translated and checked (R57, R59, R66), with what translates its address. -/
def pieceAt (s : State) (look : Nat → Except Nat XEntry) (k : Nat) (o : Owner) (n : Need) (va len : Nat) :
    Except Nat Piece :=
  if 2 ^ 57 ≤ va then .error kNoncanon
  else if 2 ^ 56 ≤ va then
    match s.window (chipOf k) (BitVec.ofNat 64 va) len with
    | none => .error kSramwin
    | some (j, off) => .ok ⟨va, len, .spad j off, spadAttr, o.ns⟩
  else
    match look va with
    | .error kind => .error kind
    | .ok e =>
      match s.admitted (chipOf k) e va len (!o.kernel) n with
      | .error kind => .error kind
      | .ok ma => if regionOf ma = .device then .error kMap else .ok ⟨va, len, .mem ma, e.attr, o.ns || e.ns⟩

/-- The runs of an extent translated until one faults.
DEDUCED, log entry 28. -/
def planBy (s : State) (look : Nat → Except Nat XEntry) (k : Nat) (o : Owner) (n : Need) : List (Nat × Nat) → Plan
  | [] => ⟨[], none⟩
  | r :: rest =>
    match s.pieceAt look k o n r.1 r.2 with
    | .error kind => ⟨[], some (kind, r.1)⟩
    | .ok p => let q := planBy s look k o n rest; ⟨p :: q.pieces, q.fault⟩

end State

/-! ### Translations of a command (R59 to R61) -/

/-- A command's translation of an address, once it has come: an entry or the kind of a fault. -/
def Cmd.entry (c : Cmd) (va : Nat) : Option (Except Nat XEntry) :=
  match c.tlb.find? fun e => e.covers c.own.part c.own.ctx va with
  | some e => some (.ok e)
  | none => (c.miss.find? fun m => m.1 == va / 65536).map fun m => .error m.2

/-- The granules of memory space that some runs touch. -/
def granulesOf (rs : List (Nat × Nat)) : List Nat :=
  ((rs.filter fun r => r.2 != 0 && decide (r.1 < 2 ^ 56)).map fun r => r.1 / 65536).eraseDups

namespace State

/-- A walk for a granule of a command, unless it waits for one already (R61). -/
def startCmdWalk (s : State) (k : Nat) (c : Cmd) (g : Nat) : State := s.seek k (.command c.id) c.own.part c.own.ctx g

/-- A command of a core with something of it changed. -/
def setCmd (s : State) (k : Nat) (c : Cmd) : State :=
  let co := s.coreOf c.own.part k
  s.setCoreOf c.own.part k { co with xq := co.xq.map fun x => if x.id = c.id then c else x }

/-- A command's granules translated (R60, R61): one that the caches hold is taken from them, and a walk is asked for any
other; the command with what it has, and whether nothing is awaited. -/
def translate (s : State) (k : Nat) (c : Cmd) (rs : List (Nat × Nat)) : State × Cmd × Bool :=
  let x := (granulesOf rs).foldl (fun (x : State × Cmd × Bool) g =>
    if (x.2.1.entry (g * 65536)).isSome then x
    else match s.cached k c.own.part c.own.ctx (g * 65536) with
      | some e => (x.1, { x.2.1 with tlb := e :: x.2.1.tlb }, x.2.2)
      | none => (x.1.startCmdWalk k c g, x.2.1, false)) (s, c, true)
  (x.1.setCmd k x.2.1, x.2.1, x.2.2)

/-- The walks that a ring's feeder or puller, or an orrery, still needs for some runs: asked for, with the rest of those that
wait (R61); none when the caches hold every granule, or its walk has ended in one of some faults. -/
def seekRuns (s : State) (k : Nat) (who : Seeker) (o : Owner) (missed : List (Nat × Nat)) (rs : List (Nat × Nat)) :
    Option State :=
  match (granulesOf rs).filter fun g => (s.cached k o.part o.ctx (g * 65536)).isNone && !missed.any fun m => m.1 == g with
  | [] => none
  | l => some (l.foldl (fun s g => s.seek k who o.part o.ctx g) s)

/-- The runs of an extent whose granules the caches hold, or whose walks have ended in one of some faults.
DEDUCED, log entry 28. -/
def planFor (s : State) (k : Nat) (o : Owner) (n : Need) (missed : List (Nat × Nat)) (rs : List (Nat × Nat)) : Plan :=
  s.planBy (fun va => match s.cached k o.part o.ctx va with
    | some e => .ok e
    | none => .error (((missed.find? fun m => m.1 == va / 65536).map (·.2)).getD kNomap)) k o n rs

/-- The runs of an extent of a command, whose granules have been translated.
DEDUCED, log entry 28. -/
def planOf (s : State) (k : Nat) (c : Cmd) (n : Need) (rs : List (Nat × Nat)) : Plan :=
  s.planBy (fun va => match c.entry va with
    | some e => e
    | none => s.entryFor k c.own.part c.own.ctx va) k c.own n rs

/-- The world check refuses an access at its target, under the assignment in force when it arrives (R66, R68). -/
def refusedAt (s : State) (ns : Bool) (t : Target) : Bool :=
  ns && match t with
    | .mem ma => s.secureMA ma
    | .spad k _ => s.secureCluster (clusterOf k)

/-- The first refused piece (R67). -/
def refusedIn (s : State) (ps : List Piece) : Option Nat := (ps.find? fun p => s.refusedAt p.ns p.target).map (·.va)

end State

/-- Bytes of some pieces. -/
def lenOf (ps : List Piece) : Nat := (ps.map (·.len)).foldl (· + ·) 0

/-- The first bytes of some pieces. -/
def cutTo : Nat → List Piece → List Piece
  | _, [] => []
  | n, p :: r =>
    if n = 0 then [] else if n < p.len then [{ p with len := n }] else p :: cutTo (n - p.len) r

namespace State

/-- The pages of some pieces that lie outside tier 0, each with its attribute field and the VA at which it is
reached (R42). -/
def absentIn (s : State) (ps : List Piece) : List (Nat × BitVec 16 × Nat) :=
  ps.filterMap fun p => match p.target with
    | .mem ma => if regionOf ma = .tiered && !s.present (pageOf ma) then some (pageOf ma, p.attr, p.va) else none
    | .spad _ _ => none

/-- The pages that pieces write are ready: a page never written is placed; the VA of the first that can have no
frame otherwise (R42, R51). -/
def readyPages : State → List Piece → Except Nat State
  | s, [] => .ok s
  | s, p :: r =>
    match p.target with
    | .mem ma =>
      if regionOf ma = .tiered then
        match s.placeForWrite (pageOf ma) p.attr with
        | some s' => readyPages s' r
        | none => .error p.va
      else readyPages s r
    | .spad _ _ => readyPages s r

/-- The pages that pieces read are touched (R37, R39). -/
def touchPages (s : State) (ps : List Piece) : State :=
  ps.foldl (fun s p => match p.target with
    | .mem ma => if regionOf ma = .tiered then s.touch (pageOf ma) p.attr else s
    | .spad _ _ => s) s

/-- The frames of the pages that pieces reach are recorded with the translations that gave their addresses (R60). -/
def noteFrames (s : State) (k : Nat) (o : Owner) (ps : List Piece) : State :=
  ps.foldl (fun s p => match p.target with
    | .mem ma => if regionOf ma = .tiered then s.noteFrame k o.part o.ctx p.va (pageOf ma) else s
    | .spad _ _ => s) s

/-- The bytes of a piece as a command reads them: its own group's stores do not reach it (R180, R226), and a
refused read gives poison (R67). -/
def readPiece (s : State) (k : Nat) (c : Cmd) (p : Piece) : Data :=
  if s.refusedAt p.ns p.target then List.replicate p.len (0, true)
  else match p.target with
    | .mem ma => s.memData ma p.len
    | .spad j off =>
      let r := (s.coreOf c.own.part j).r
      let r := if j = k then c.before.foldl (fun r w => r.setWord w.1 w.2) r else r
      r.spadData off p.len

/-- The bytes of pieces. -/
def readPieces (s : State) (k : Nat) (c : Cmd) (ps : List Piece) : Data := ps.flatMap (s.readPiece k c)

/-- The stacks serve the packets of a piece (R18, R26, R28). -/
def servePiece (s : State) (p : Piece) : State :=
  match p.target with
  | .mem ma => if regionOf ma = .tiered then s.serve ma p.len else s
  | .spad _ _ => s

/-- Bytes written where a piece lies, with what they leave in the full/empty bits of a scratchpad's words (R215); a
refused write is discarded (R67), and a demotion of the page under way is abandoned (R40). -/
def writePiece (s : State) (o : Owner) (full : Option Bool) (p : Piece) (d : Data) : State :=
  if s.refusedAt p.ns p.target then s
  else match p.target with
    | .mem ma => (if regionOf ma = .tiered then (s.placeForWrite (pageOf ma) p.attr).getD s else s).writeMem ma d
    | .spad j off =>
      let c := s.coreOf o.part j
      let r := c.r.putSpad off d
      s.setCoreOf o.part j { c with r := match full with
        | none => r
        | some b => (List.range (p.len / 8)).foldl (fun (r : Arch) i =>
            r.setWord (off / 8 + i) { r.word (off / 8 + i) with full := b }) r }

/-- Bytes written over pieces in turn. -/
def writePieces (s : State) (o : Owner) : List Piece → Data → State
  | [], _ => s
  | p :: r, d => writePieces (s.writePiece o none p (d.take p.len)) o r (d.drop p.len)

end State

/-! ## What a command comes to when it runs -/

/-- A command has ended, or waits. -/
inductive Engine where
  | done (s : State) (v : Verdict)
  | wait (s : State)

/-- The verdict of a status alone.
DEDUCED, log entry 56. -/
def Verdict.of (st value : Nat) : Verdict := ⟨st, value, 0, 0, false, false⟩
/-- No tier-0 frame can be had (R42). -/
def Verdict.noFrame (va : Nat) : Verdict := ⟨stNoSpace, 0, 0, va, true, false⟩
/-- The verdict of a translation fault (R59); a walk whose table page could not be brought in ends as the page-in does
(R42, R56), and one that meets a poisoned word of a table FAILED, since POISON belongs to a group (R396).
DESIGN CHOICE, log entry 26. -/
def Verdict.fault (f : Nat × Nat) (value : Nat) : Verdict :=
  if kTier ≤ f.1 then ⟨f.1 - kTier, value, 0, f.2, true, false⟩
  else if f.1 = kPoison then .of stFailed value
  else ⟨stXlate, value, f.1, f.2, false, false⟩

/-- The verdict of an extent whose bytes have performed: a fault, a refusal by the world check, or success. -/
def Verdict.moved (fault : Option (Nat × Nat)) (refused : Option Nat) (value : Nat) : Verdict :=
  match fault with
  | some f => .fault f value
  | none =>
    match refused with
    | some va => ⟨stWorld, value, 0, va, false, false⟩
    | none => .of stOk value

/-! ## Transfers word by word (R80, R345, R347) -/

/-- A piece performs through a CA = 0 mapping to the host address space. -/
def Piece.host (p : Piece) : Bool :=
  !State.attrCA p.attr && match p.target with
    | .mem m => regionOf m == .host
    | .spad _ _ => false

/-- How far a packet reaches from a target: within one 2 KiB granule, and where `beats` asks it, with a beat that is not
covered whole in a packet of its own (R18). -/
def packetLen (beats : Bool) (t : Target) (len : Nat) : Nat :=
  match t with
  | .mem ma =>
    let g := min len (2048 - ma % 2048)
    if !beats then g else if ma % 64 ≠ 0 then min g (64 - ma % 64) else if 64 ≤ g then g / 64 * 64 else g
  | .spad _ off => min len (2048 - off % 2048)

/-- A piece cut into what its packets carry; an access through a CA = 0 mapping is not cut (R57). -/
def packetPieces (beats : Bool) : Nat → Piece → List Piece
  | 0, _ => []
  | k + 1, p =>
    if p.len = 0 then []
    else
      let n := if State.attrCA p.attr then packetLen beats p.target p.len else p.len
      p.sub 0 n :: packetPieces beats k (p.sub n (p.len - n))

/-- Pieces cut into what their packets carry. -/
def packetsOf (beats : Bool) (ps : List Piece) : List Piece :=
  ps.flatMap fun p => packetPieces beats (p.len / 2048 + 5) p

/-- The pieces of a source and of a destination cut alike, so that one packet can carry both ends of a run (R18); whole
beats are kept together where they meet whole beats. -/
def pairPieces : Nat → List Piece → List Piece → List (Piece × Piece)
  | 0, _, _ => []
  | _, [], _ => []
  | _, _, [] => []
  | k + 1, p :: ps, q :: qs =>
    if p.len = 0 then pairPieces k ps (q :: qs)
    else if q.len = 0 then pairPieces k (p :: ps) qs
    else
      let beats := match p.target, q.target with
        | .mem a, .mem b => a % 64 == b % 64
        | _, _ => false
      let n := if State.attrCA p.attr && State.attrCA q.attr
        then min (packetLen beats p.target p.len) (packetLen beats q.target q.len) else min p.len q.len
      (p.sub 0 n, q.sub 0 n) :: pairPieces k (p.sub n (p.len - n) :: ps) (q.sub n (q.len - n) :: qs)

/-- Pieces as the parts of a transfer, in units of as many bytes. -/
def partsFrom (u : Nat) : Nat → List Piece → List Part
  | _, [] => []
  | off, p :: r => ⟨off, off / u, p⟩ :: partsFrom u (off + p.len) r

/-- Bytes put in their place among others. -/
def putAt (l : Data) (off : Nat) (d : Data) : Data := l.take off ++ d ++ l.drop (off + d.length)

/-- A choice among some numbers from 0; nothing is drawn where there is but one. -/
def pickFrom (tick n : Nat) : Nat := if n ≤ 1 then 0 else Config.choice tick % n

/-- Where the indivisible unit begins in which byte i of a run lies: an aligned word wholly inside the run, else the
byte alone (R345). -/
def unitStart (va len i : Nat) : Nat :=
  let w := (va + i) / 8 * 8
  if va ≤ w && w + 8 ≤ va + len then w - va else i

/-- Where that unit ends. -/
def unitEnd (va len i : Nat) : Nat :=
  let w := (va + i) / 8 * 8
  if va ≤ w && w + 8 ≤ va + len then w + 8 - va else i + 1

/-- Some units of a part, freely chosen; an access through a CA = 0 mapping is one unit (R57). A beat that a transfer covers
whole may so be written in parts, each of which acts on its poison bit by itself (R439).
DESIGN CHOICE, log entry 163. -/
def Part.choose (tick : Nat) (p : Part) : Part :=
  let n := p.piece.len
  if !State.attrCA p.piece.attr then p
  else
    let i := unitStart p.piece.va n (pickFrom tick n)
    let e := unitEnd p.piece.va n (i + pickFrom (tick + 1) (n - i))
    { p with off := p.off + i, piece := p.piece.sub i (e - i) }

namespace Job

/-- A transfer with nothing left to read or write. -/
def ended (j : Job) : Bool := j.rd.isEmpty && j.wr.isEmpty

/-- How a transfer ends that has performed (R59, R67). -/
def result (j : Job) : Verdict :=
  match j.world with
  | some va => if j.verdict.status = stOk then ⟨stWorld, j.verdict.value, 0, va, false, false⟩ else j.verdict
  | none => j.verdict

/-- A byte of a run is still to be read. -/
def unread (j : Job) (p : Part) : Bool :=
  j.rd.any fun r => decide (r.off < p.off + p.piece.len) && decide (p.off < r.off + r.piece.len)

/-- What a transfer does next among its parts: a part to read, or one to write whose bytes have been read. -/
def next (j : Job) (tick : Nat) (writes : Bool) : Option (Bool × Part) :=
  let l := j.rd.map (false, ·) ++ if writes then j.wr.map (true, ·) else []
  l[pickFrom tick l.length]?

end Job

namespace State

/-- A VA of a command goes to the host address space through a CA = 0 mapping. -/
def hostRun (s : State) (k : Nat) (c : Cmd) (va : Nat) : Bool :=
  decide (va < 2 ^ 56) && match (match c.entry va with
      | some e => e
      | none => s.entryFor k c.own.part c.own.ctx va) with
    | .ok e => !attrCA e.attr && regionOf (e.ma va) == .host
    | .error _ => false

/-- No command before an access order number of a core has a CA = 0 access to the host address space still to make
(R337). -/
def deviceTurn (s : State) (p k ord : Nat) (t : Target) : Bool :=
  match t with
  | .mem ma => regionOf ma != .host || (s.coreOf p k).xq.all fun x => decide (ord ≤ x.ord)
      || (match x.job with
        | some j => (j.rd ++ j.wr).all fun r => !Piece.host r.piece
        | none => (x.src ++ x.dst).all fun r => !s.hostRun k x r.1)
  | .spad _ _ => true

/-- A part of a command's transfer has its turn: no access that counts as performed for its core is on its way to its bytes
(R334), and every earlier CA = 0 access of the core to the host address space has completed (R337). -/
def partTurn (s : State) (k : Nat) (c : Cmd) (write : Bool) (p : Piece) : Bool :=
  (c.seen != 0 || !s.promised c.own.part k c.ord c.id [(p.target, p.len)] write)
    && (!Piece.host p || (s.deviceTurn c.own.part k c.ord p.target
      && s.accs.all fun a => !(a.core == k && a.part == c.own.part && decide (a.ord < c.ord) && a.device
        && (match a.target with
          | .mem m => regionOf m == .host
          | .spad _ _ => false))))

/-- A part of a command's transfer may perform: it is its turn, and a path remains to its bytes (R79). -/
def partFree (s : State) (k : Nat) (c : Cmd) (write : Bool) (p : Piece) : Bool :=
  s.pathTo k p.target && s.partTurn k c write p

/-- Some parts of a transfer are read: their bytes take their places; `k` and `c` are the core and the command in whose
name they are read. -/
def readParts (s : State) (k : Nat) (c : Cmd) (j : Job) (ps : List Part) : State × Job :=
  (ps.foldl (fun s p => s.servePiece p.piece) s,
    ps.foldl (fun (j : Job) p =>
      { j with rd := j.rd.flatMap (Part.minus p.off p.piece.len), buf := putAt j.buf p.off (s.readPiece k c p.piece)
               world := match j.world with
                 | some va => some va
                 | none => s.refusedIn [p.piece] }) j)

/-- Some parts of a transfer are written; when the world check refuses one of the parts of an indivisible unit, none of
them is (R67, R154). -/
def writeJob (s : State) (o : Owner) (j : Job) (ps : List Part) : State × Job :=
  let bad := s.refusedIn (ps.map (·.piece))
  (if bad.isSome then s
    else ps.foldl (fun s p => (s.servePiece p.piece).writePiece o j.full p.piece ((j.buf.drop p.off).take p.piece.len)) s,
    { j with wr := ps.foldl (fun l p => l.flatMap (Part.minus p.off p.piece.len)) j.wr
             world := match j.world with
               | some va => some va
               | none => bad })

/-- A part to write has to wait for one before it in the list whose bytes it overwrites (R208, R315). -/
def behind (j : Job) (p : Part) : Bool :=
  j.wr.any fun r => decide (r.off < p.off) && spansMeet (r.piece.target, r.piece.len) (p.piece.target, p.piece.len)

/-- A piece lies in a core's own scratchpad, which no packet reaches. -/
def ownPiece (k : Nat) (p : Piece) : Bool :=
  match p.target with
  | .spad j _ => j == k
  | .mem _ => false

/-- The packet of a transfer that carries a part. -/
def carrier (j : Job) (w : Bool) (p : Part) : Option Packet :=
  j.out.find? fun x => (x.row || x.write == w) && decide (x.off ≤ p.off) && decide (p.off + p.piece.len ≤ x.off + x.len)

/-- Two parts of a transfer carry the same bytes. -/
def sameBytes (p q : Part) : Bool := p.off == q.off && p.piece.len == q.piece.len

/-- The ROWCOPY or ROWINIT as which a part of an `xcopy` or `xfill` is sent (R24): its bytes are whole beats that lie in one
stack, and so do those they come from. -/
def rowPacket (s : State) (c : Cmd) (j : Job) (p : Part) : Option Instr :=
  if c.slotG || j.whole || p.piece.len % 64 ≠ 0 then none
  else match j.wr.find? (sameBytes p) with
    | none => none
    | some b => match b.piece.target with
      | .spad _ _ => none
      | .mem y =>
        let n := b.piece.len
        if y % 64 ≠ 0 || behind j b || s.refusedAt b.piece.ns b.piece.target || (s.stackOf y n).isNone then none
        else if c.op = 0x08 then
          match j.rd.find? (sameBytes p) with
          | some a => match a.piece.target with
            | .mem x => if x % 64 = 0 && !s.refusedAt a.piece.ns a.piece.target && s.stackOf x n == s.stackOf y n
                then some (.rowcopy x y n) else none
            | .spad _ _ => none
          | none => none
        else
          let d := (j.buf.drop b.off).take n
          let pat := BitVec.ofNat 64 (ofBytes ((d.take 8).map (·.1)))
          if c.op = 0x09 && j.rd.isEmpty && d == patternBytes pat n then some (.rowinit y n pat) else none

/-- The packet of a part leaves: it takes a tag, or waits for one (R19), and is timed from then (R82). -/
def sendPart (s : State) (k : Nat) (c : Cmd) (j : Job) (w row : Bool) (p : Part) : State :=
  match s.packetTag p.piece.target with
  | none => s
  | some t => s.setCmd k { c with job := some { j with out := j.out ++ [⟨w, p.off, p.piece.len, row, t, s.now⟩] } }

/-- A part of a transfer that no packet carries is sent once it is its turn; a packet that writes leaves once its bytes have
been read. -/
def launchPart (s : State) (rk : Nat) (rc : Cmd) (k : Nat) (c : Cmd) (j : Job) (w : Bool) (p : Part) : State :=
  if w && (j.unread p || behind j p) || !(if w then s.partTurn k c true p.piece else s.partTurn rk rc false p.piece) then s
  else s.sendPart k c j w false p

/-- One step of a transfer: the packet of a part is sent, or some words of one part perform, freely chosen, or one
indivisible unit, or the base die takes a ROWCOPY or ROWINIT; a write waits for the read of its bytes. The bytes are read in
the name of command `rc` of core `rk`, and the transfer is that of `c` of core `k`. -/
def jobStep (s : State) (rk : Nat) (rc : Cmd) (k : Nat) (c : Cmd) (j : Job) (writes : Bool) : State :=
  let put := fun (x : State × Job) => x.1.setCmd k { c with job := some x.2.prune }
  match j.next s.tick writes with
  | none => s
  | some (w, p) =>
    if j.lost then s
    else if j.whole then
      let l := j.rd.filter fun r => r.unit == p.unit
      if !l.isEmpty then
        match l.find? fun r => !ownPiece rk r.piece && (carrier j false r).isNone with
        | some r => s.launchPart rk rc k c j false r
        | none => if l.all fun r => s.partFree rk rc false r.piece then put (s.readParts rk rc j l) else s
      else
        let l := j.wr.filter fun r => r.unit == p.unit
        if !writes then s
        else match l.find? fun r => !ownPiece k r.piece && (carrier j true r).isNone with
          | some r => s.launchPart rk rc k c j true r
          | none => if l.all fun r => s.partFree k c true r.piece then put (s.writeJob c.own j l) else s
    else match s.rowPacket c j p with
      | some i =>
        if !((j.rd.filter (sameBytes p)).all fun r => s.partTurn rk rc false r.piece)
            || !((j.wr.filter (sameBytes p)).all fun r => s.partTurn k c true r.piece) then s
        else match carrier j w p with
          | none => s.sendPart k c j true true ((j.wr.find? (sameBytes p)).getD p)
          | some _ => if ((j.rd ++ j.wr).filter (sameBytes p)).all (fun r => s.pathTo k r.piece.target) && !s.agenda.contains i
              then { s with agenda := s.agenda ++ [i] } else s
      | none =>
        if !ownPiece (if w then k else rk) p.piece && (carrier j w p).isNone then s.launchPart rk rc k c j w p
        else
          let q := p.choose (s.tick + 1)
          if w then if j.unread q || behind j q || !s.partFree k c true q.piece then s else put (s.writeJob c.own j [q])
          else if s.partFree rk rc false q.piece then put (s.readParts rk rc j [q]) else s

/-- A packet of a transfer has been timed for 50 µs (R82): one that counts as performed has to perform
first (R334), unless it has been lost with a link or no path to its bytes remains (R79).
DEDUCED, log entry 36. -/
def jobLate (s : State) (k : Nat) (c : Cmd) (j : Job) : Bool :=
  j.out.any (fun x => decide (50000 ≤ s.passed x.since))
    && (c.seen = 0 || j.lost || (j.rd ++ j.wr).any fun r => !s.pathTo k r.piece.target)

/-- A command's transfer goes on (R347): it starts, or some of its words perform, or it has failed (R82), or it ends. -/
def runJob (s : State) (k : Nat) (c : Cmd) (start : Unit → Engine) (finish : Job → State) : Engine :=
  match c.job with
  | none => start ()
  | some j =>
    if j.ended then .done (finish j) j.result
    else if s.jobLate k c j then .done s (.of stFailed 0)
    else .wait (s.jobStep k c k c j true)

/-- A command that ends with a verdict once it may report (R228). -/
def endWith (s : State) (k : Nat) (c : Cmd) (v : Verdict) : State :=
  s.setCmd k { c with job := some ⟨[], [], [], false, none, v, none, [], false⟩ }

/-- A command's transfer begins (R253, R255): the fences before it make what they cover count as performed. -/
def beginJob (s : State) (k : Nat) (c : Cmd) (j : Job) : Engine :=
  .wait ((s.keepOrder c.own.part k c.ord none).setCmd k { c with job := some j })

/-- Pages are waited for: each is asked for, and knows for whom and at which VA (R42, R43). -/
def waitPagesFor (s : State) (who : Seeker) (ps : List (Nat × BitVec 16 × Nat)) : State :=
  ps.foldl (fun s p =>
    let s := s.requestPage p.1 p.2.1 none
    let g := s.page p.1
    if g.cmds.any (fun x => x.1 == who) then s
    else s.setPage p.1 { g with cmds := g.cmds ++ [(who, BitVec.ofNat 64 p.2.2)] }) s

/-- A command waits for pages (R42). -/
def waitPages (s : State) (c : Cmd) (ps : List (Nat × BitVec 16 × Nat)) : State := s.waitPagesFor (.command c.id) ps

/-- A command whose extents have been translated goes on; one of whose granules a walk is awaited waits (R61). -/
def translated (s : State) (k : Nat) (c : Cmd) (rs : List (Nat × Nat)) (go : State → Cmd → Engine) : Engine :=
  match s.translate k c rs with
  | (t, c, true) => go t c
  | (t, _, false) => .wait t

/-- The bytes of two lists of runs of equal length moved from the one to the other (R208, R213), in units of `u` bytes
that are indivisible when `whole`: both sides are translated, the whole units before the first fault move, each byte is
read before it is written. -/
def moveRuns (s : State) (k : Nat) (c : Cmd) (src dst : List (Nat × Nat)) (u : Nat) (whole : Bool) (value : Nat → Nat) :
    Engine :=
  s.runJob k c (start := fun _ => s.translated k c (src ++ dst) fun s c =>
    let a := s.planOf k c .load src
    let b := s.planOf k c .store dst
    let n := min (lenOf a.pieces) (lenOf b.pieces)
    let n := if whole then n / u * u else n
    let z := pairPieces (a.pieces.length + b.pieces.length + 2 * n) (cutTo n a.pieces) (cutTo n b.pieces)
    let rd := if whole then packetsOf false (cutTo n a.pieces) else z.map (·.1)
    let wr := if whole then packetsOf false (cutTo n b.pieces) else z.map (·.2)
    let fault := if lenOf a.pieces ≤ lenOf b.pieces && a.fault.isSome then a.fault else b.fault
    match s.absentIn (rd ++ wr) with
    | x :: r => .wait (s.waitPages c (x :: r))
    | [] =>
      match (s.touchPages rd).readyPages wr with
      | .error va => .done s (.noFrame va)
      | .ok s => (s.noteFrames k c.own (rd ++ wr)).beginJob k c ⟨partsFrom u 0 rd, partsFrom u 0 wr,
          List.replicate n (0, false), whole, none, .moved fault none (value n), none, [], false⟩) fun _ => s

/-- Runs of bytes read into a core, with what the engine does with them (R208 to R211); `notify` when the command
takes the notify policy (R42, R225). -/
def loadRuns (s : State) (k : Nat) (c : Cmd) (src : List (Nat × Nat)) (notify : Bool)
    (put : Core → Data → Core) : Engine :=
  s.runJob k c (start := fun _ => s.translated k c src fun s c =>
    let a := s.planOf k c .load src
    match s.absentIn a.pieces with
    | x :: r =>
      if notify && (x :: r).all (fun p => attrMiss p.2.1) then
        let w := c.completionWord
        let flag := if field w 59 1 = 1 then some (c.id, c.own.part, k, BitVec.ofNat 4 (field w 60 4)) else none
        .done ((x :: r).foldl (fun s p => s.requestPage p.1 p.2.1
          (if (s.page p.1).flags.any (fun f => f.1 == c.id) then none else flag)) s) (.of stAbsent 0)
      else .wait (s.waitPages c (x :: r))
    | [] =>
      ((s.touchPages a.pieces).noteFrames k c.own a.pieces).beginJob k c ⟨partsFrom 1 0 (packetsOf false a.pieces), [],
        List.replicate (lenOf a.pieces) (0, false), false, none, .moved a.fault none (lenOf a.pieces), none, [], false⟩) fun j =>
    s.setCoreOf c.own.part k (put (s.coreOf c.own.part k) j.buf)

/-- Runs of bytes that a core holds written out, with what they leave in the full/empty bits (R208, R209, R215). -/
def storeRuns (s : State) (k : Nat) (c : Cmd) (dst : List (Nat × Nat)) (d : List Piece → Data) (full : Option Bool) :
    Engine :=
  s.runJob k c (start := fun _ => s.translated k c dst fun s c =>
    let b := s.planOf k c .store dst
    match s.absentIn b.pieces with
    | x :: r => .wait (s.waitPages c (x :: r))
    | [] =>
      match s.readyPages b.pieces with
      | .error va => .done s (.noFrame va)
      | .ok s => (s.noteFrames k c.own b.pieces).beginJob k c ⟨[], partsFrom 1 0 (packetsOf true b.pieces), d b.pieces,
          false, full, .moved b.fault none (lenOf b.pieces), none, [], false⟩) fun _ => s

end State

/-! ## Acceptance (R223, R226) -/

/-- The words of a scratchpad that differ from another, as they stand in the other.
DEDUCED, log entry 124. -/
def wordsBefore (old new : Arch) : Table SpWord :=
  ((old.spad.map (·.1) ++ new.spad.map (·.1)).filter fun w => old.word w != new.word w).foldl
    (fun t w => Table.put t w (old.word w)) []

/-- A slot-X or slot-G word is a command: neither `nop`, `xwait` nor an allocator operation. -/
def isCommand (sl : Slot) (op : Nat) : Bool :=
  op != 0x7F && ((sl == .X && op != 0x18) || (sl == .G && (op < 0x18 || 0x20 ≤ op)))

/-- A command of the group in hand: the staging registers are copied (R117, R223). -/
def newCmd (s : State) (w : Site) : Cmd :=
  let g := w.slot == .G
  let n := if g then bitsOf w.word.toNat 0 3 else bitsOf w.word.toNat 13 3
  { id := s.fresh, slotG := g, word := w.word, stg := getReg s.me.view.x n 0
    pair := getReg s.me.view.x ((n + 1) % 8) 0, own := s.ownerOf s.here, ord := s.me.ord, rd := [], wr := []
    before := wordsBefore s.me.view s.me.r, data := [], busy := [], status := none, tier := false
    value := 0, fail := 0, kind := 0, phase := 0, idx := [], since := s.now, src := [], dst := [], tlb := []
    miss := [], job := none, seen := 0 }

/-- The runs of an extent that lie in the core's own scratchpad: the local side (R226). -/
def localSide (s : State) (rs : List (Nat × Nat)) : List Extent :=
  rs.filterMap fun r =>
    if r.2 = 0 || r.1 < 2 ^ 56 then none
    else match s.window (chipOf s.here) (BitVec.ofNat 64 r.1) r.2 with
      | some (k, off) => if k = s.here then some ⟨off, r.2⟩ else none
      | none => none

/-- What a kind of command asks of its acceptance: the busy bits it sets, the limits of its staging fields, the
runs it reads and writes, whether it acts beyond those, and the bytes of registers it stores. -/
structure Accept where
  busy : Cmd → List (Res × Bool)
  good : Cmd → Bool
  src : Cmd → List (Nat × Nat)
  dst : Cmd → List (Nat × Nat)
  beyond : Cmd → Bool
  data : Cmd → Data

/-- A speculative block may issue the command: it writes its core's own scratchpad and the launch's retractable
allocations only, and resolves no future (R351). -/
def State.mayCommand (s : State) (a : Accept) (c : Cmd) : Bool :=
  s.speculative.isNone || (!c.fe && !a.beyond c && (c.status.isSome || (a.dst c).all fun r =>
    r.2 == 0 || !(localSide s [r]).isEmpty || s.mayWrite (BitVec.ofNat 64 r.1) r.2))

/-- A command's busy bits may be set (R117). -/
def Core.mayHold (c : Core) (busy : List (Res × Bool)) : Bool :=
  busy.all fun b => if b.2 then c.canWrite b.1 else c.canRead b.1

/-- The command that has just been accepted, with something of it changed. -/
def State.setMine (s : State) (c : Cmd) : State := s.setMe { s.me with xq := s.me.xq.dropLast ++ [c] }

/-- A command accepted: the core holds at most 16, its registers must be free, and its staging fields are checked
(R223). -/
def acceptCommand (s : State) (w : Site) (a : Accept) : Eff State := do
  ready (s.me.pre.isSome || s.me.xq.length < 16)
  let c := newCmd s w
  ready (s.me.mayHold (a.busy c))
  let c := if s.goodCompletion s.here c && a.good c
    then { c with busy := a.busy c, rd := localSide s (a.src c), wr := localSide s (a.dst c), data := a.data c
                  src := a.src c, dst := a.dst c }
    else { c with busy := a.busy c, status := some 6 }
  s.commit (s.mayCommand a c)
  return { s with fresh := s.fresh + 1 }.setMe { s.me with xq := s.me.xq ++ [c] }

/-! ## Order on the local side (R226) -/

/-- Some of the extents share a line. -/
def meetAny (xs ys : List Extent) : Bool := xs.any fun x => ys.any fun y => y.len != 0 && x.meets y.base y.len

/-- Command d acts on the local side before command c. In one group reads come before writes (R180), and when
each reads what the other writes the X command comes first. -/
def Cmd.precedes (d c : Cmd) : Bool :=
  if d.ord < c.ord then meetAny d.wr c.rd || meetAny d.wr c.wr || meetAny d.rd c.wr
  else d.ord == c.ord && d.id != c.id && meetAny d.rd c.wr && (!meetAny c.rd d.wr || !d.slotG)

/-- The command's accesses may perform: in order after fences and acquires, and after the commands that come
before it on the local side (R226, R253, R255). -/
def State.mayRun (s : State) (k : Nat) (c : Cmd) : Bool :=
  s.inOrder c.own.part k c.ord && (s.coreOf c.own.part k).xq.all fun d => !d.precedes c

/-! ## Completion (R228 to R232) -/

/-- A cause that a completion raises (R229, R397). -/
def Cmd.cause (c : Cmd) (code status info : Nat) (operand : W64) : Cause :=
  ⟨BitVec.ofNat 6 code, true, if c.slotG then 7 else 6, false, BitVec.ofNat 7 c.op, BitVec.ofNat 4 status,
    BitVec.ofNat 3 c.staging, BitVec.ofNat 8 info, operand⟩

/-- TSTAT after a completion (R232).
DEDUCED, log entry 50. -/
def tstatAfter (t : W64) (op status : Nat) : W64 :=
  let t := setField t 0 4 status
  if status = 0 then t
  else setField (setField (setField t 5 7 op) 12 4 status) 16 16 (satAdd 0xFFFF (field t 16 16) 1)

/-- The cause that a status raises (R229, R314). -/
def Cmd.statusCause (c : Cmd) (v : Verdict) : Option Cause :=
  if v.status = stOk || v.status = stAbsent || v.status = stStale then none
  else if v.tier then
    some (c.cause cTierUnavailable v.status 0 (BitVec.ofNat 64 (v.va / 65536 * 65536)))
  else if v.status = stWorld then some (c.cause cWorld v.status 0 (BitVec.ofNat 64 v.va))
  else if v.status = stXlate then some (c.cause cTransferError v.status v.kind (BitVec.ofNat 64 v.va))
  else some (c.cause cTransferError v.status 0 0)

/-- DCORE of an `xcopy` (R212). -/
def State.dcore (s : State) (k : Nat) (c : Cmd) : Option Nat :=
  match coreNamed (BitVec.ofNat 64 ((word256 c.stg 2).toNat / 8)) with
  | some j => if s.member (chipOf k) (chipOf j) then some j else none
  | none => none

/-- The smallest scope that contains a core and where a run of a command's lies (R83): memory of the core's own module
lies in package scope, that of another module in domain scope, and the host address space in host scope. -/
def State.runScope (s : State) (k : Nat) (c : Cmd) (j : Nat) (r : Nat × Nat) : Nat :=
  if r.2 = 0 then 1
  else if 2 ^ 56 ≤ r.1 then
    match s.window (chipOf k) (BitVec.ofNat 64 r.1) r.2 with
    | some (i, _) => scopeOf j i
    | none => 1
  else match c.entry r.1 with
    | some (.ok e) =>
      if regionOf (e.ma r.1) = .host then 6 else if e.ma r.1 / 2 ^ 48 = chipOf j then 4 else 5
    | _ => 1

/-- The scope at which a command's report to a core releases: the smallest that contains the command's core, the data's
destination and that core (R83, R338). -/
def State.reportScope (s : State) (k : Nat) (c : Cmd) (j : Nat) : Nat :=
  c.dst.foldl (fun n r => max n (s.runScope k c j r)) (scopeOf k j)

/-- A command may report its completion to its own core's flag: that post is a release, so that what the groups before
the command have sent has performed (R335, R338). -/
def State.mayReport (s : State) (k : Nat) (c : Cmd) : Bool :=
  !c.pe || s.performedBefore c.own.part k c.ord (s.reportScope k c k)

/-- A message of a command's completion to a word or barrier of another core: a release, sent when the command completes
and performed on its own (R228, R338); the cause is raised when it is refused. -/
def State.sendReport (s : State) (k : Nat) (c : Cmd) (kind : AccKind) (j at_ : Nat) (d d2 : W64) (x : Cause) : State :=
  { s with
    fresh := s.fresh + 1
    accs := s.accs ++ [({ id := s.fresh, core := k, own := c.own, part := c.own.part, ord := c.ord, kind := kind
                          target := .spad j at_, split := [], attr := spadAttr, bytes := 16, data := d, data2 := d2
                          poison := false, acq := false, rel := true, scope := s.reportScope k c j, ns := c.own.ns
                          held := false, device := false, since := s.now, phase := .sent, out := false, todo := []
                          tag := none, seen := 0, cmd := some x, va := BitVec.ofNat 64 (windowVA j at_) } : Acc)] }

/-- The DEN post of an `xcopy` (R212, R228). -/
def State.reportFlag (s : State) (k : Nat) (c : Cmd) (v : Verdict) : State :=
  if !c.slotG && c.op = 0x08 && c.stf 2 63 1 = 1 then
    match s.dcore k c with
    | some j => s.sendPost c.own.part k j (BitVec.ofNat 4 (c.stf 2 59 4)) 1 (BitVec.ofNat 4 v.status) c.ord
        (s.reportScope k c j)
    | none => s
  else s

/-- The arrival of an `xpre.bar` is sent (R221, R228). -/
def State.reportArrival (s : State) (k : Nat) (c : Cmd) (v : Verdict) : State :=
  if !c.slotG && c.op = 0x10 && c.fld 0 1 = 1 && v.status ≠ stFormat then
    let x := word256 c.stg 1
    match coreNamed x with
    | some j => s.sendReport k c .arrive j (field x 11 5) (BitVec.ofNat 64 (field x 16 16)) 0
        (c.cause cBarrierMisuse v.status 0 x)
    | none => s
  else s

/-- The resolution of a command's future is sent (R230): `data2` holds the state that it gives. -/
def State.reportFuture (s : State) (k : Nat) (c : Cmd) (v : Verdict) : State :=
  if !c.fe then s
  else
    match s.futureOf k c with
    | none => s
    | some (j, off) =>
      let word := if v.status = stOk || v.always then v.value else v.status
      s.sendReport k c .resolve j off (BitVec.ofNat 64 word) (if v.status = stOk then 2 else 3)
        (c.cause cDoubleResolve v.status 0 c.fut)

/-- A command completes (R228): TSTAT and its own flag, then the post, arrival and future of other places,
which a partition reset discards (R411), then the causes and the user interrupt (R229, R231). -/
def State.complete (s : State) (k : Nat) (c : Cmd) (v : Verdict) : State :=
  let p := c.own.part
  let st := BitVec.ofNat 4 v.status
  let s := if c.pe then s.promiseBefore p k c.ord (s.reportScope k c k) else s
  let co := s.coreOf p k
  let r := { co.r with tstat := tstatAfter co.r.tstat c.op v.status }
  let s := s.setCoreOf p k
    { co with r := if c.pe then r.post c.flag 1 st else r, xq := co.xq.filter fun x => x.id != c.id }
  let s := if s.resetting p then s else ((s.reportFlag k c v).reportArrival k c v).reportFuture k c v
  let s := match c.statusCause v with
    | some x => s.pendKernel p k x
    | none => s
  let s := if c.interrupts then s.userCause c.own k (c.cause cDataArrival v.status 0 0) else s
  s.settle

/-- The command of a core with a number, or of the image of a partition that is out: its commands go on against
the image (R233, R409). -/
def State.commandAt (s : State) (k id : Nat) : Option Cmd :=
  ((s.core k).xq ++ s.parts.flatMap fun p => match Table.look p.2.image k with
    | some c => if s.isOut p.1 then c.xq else []
    | none => []).find? fun c => c.id == id

/-- A command that has ended completes once its report may be made; one that waits goes on later. -/
def State.settleCommand (s : State) (k : Nat) (c : Cmd) (e : Engine) : State :=
  match e with
  | .done t v => if t.mayReport k c then t.complete k c v else s
  | .wait t => t

/-- How a command ends whose status is fixed. -/
def Cmd.fixedVerdict (c : Cmd) : Verdict :=
  ⟨(c.status.getD 0).toNat, 0, c.kind.toNat, c.fail.toNat, c.tier, false⟩

/-- A command whose status is fixed as a verdict has it. -/
def Cmd.fixed (c : Cmd) (v : Verdict) : Cmd :=
  { c with status := some (BitVec.ofNat 4 v.status), kind := BitVec.ofNat 8 v.kind, fail := BitVec.ofNat 64 v.va
           tier := v.tier }

/-- The sampling commands of a core complete in issue order (R328). -/
def State.samplerTurn (s : State) (k : Nat) (c : Cmd) : Bool :=
  !(c.slotG && decide (0x20 ≤ c.op)) || (s.coreOf c.own.part k).xq.all fun d =>
    !(d.slotG && decide (0x20 ≤ d.op) && decide (d.id < c.id))

/-- A command whose status is fixed ends as `leave` says, which takes it from what it takes part in; any other runs
when its turn on the local side has come. -/
def State.engineStep (s : State) (k id : Nat) (slotG : Bool) (run leave : State → Cmd → Engine) : State :=
  match s.commandAt k id with
  | none => s
  | some c =>
    if c.slotG != slotG || !s.samplerTurn k c then s
    else
      match c.status with
      | some _ => s.settleCommand k c (leave s c)
      | none => if s.mayRun k c then s.settleCommand k c (run s c) else s

end Sys2Proof.Machine
end

