-- ==== Sys2Proof/Machine/Transfer.lean ====
section
/-! DEFINITION. The X slot (R204 to R233). -/
namespace Sys2Proof.Machine

/-! ## Staging layouts (R207 to R215) -/

/-- ADDR, SRC or DST of word 0, with its reserved bits zero. -/
def Cmd.addr (c : Cmd) : Nat := c.stf 0 0 57
/-- ROWS of the tile layout. -/
def Cmd.rows (c : Cmd) : Nat := c.stf 1 40 8
/-- RB of the tile layout. -/
def Cmd.rowBytes (c : Cmd) : Nat := c.stf 2 0 9
/-- PITCH of the tile layout. -/
def Cmd.pitch (c : Cmd) : Nat := c.stf 1 0 32

/-- The tile layout is within its limits (R207). -/
def goodTile (transposed : Bool) (c : Cmd) : Bool :=
  let e := 2 ^ c.stf 1 48 2
  c.stf 0 57 7 == 0 && c.stf 1 50 14 == 0 && c.stf 1 32 8 == 0 && c.stf 2 9 55 == 0
    && decide (1 ≤ c.rows ∧ c.rows ≤ 64) && decide (1 ≤ c.rowBytes ∧ c.rowBytes ≤ 256)
    && (!transposed || (c.rowBytes % e == 0 && decide (c.rowBytes / e ≤ 64) && decide (c.rows * e ≤ 256)))

/-- The memory rows of a tile command, in order (R208). -/
def tileRuns (c : Cmd) : List (Nat × Nat) :=
  (List.range c.rows).flatMap fun r => runs (c.addr + r * c.pitch) c.rowBytes

/-- Byte i of the rows read lands here in the tile (R208). -/
def tilePlace (transposed : Bool) (c : Cmd) (i : Nat) : Nat :=
  let e := 2 ^ c.stf 1 48 2
  let r := i / c.rowBytes
  let b := i % c.rowBytes
  if transposed then 256 * (b / e) + e * r + b % e else 256 * r + b

/-- A tile with bytes put in it, each at its place; the rest keep their values. -/
def TReg.putBytes (x : TReg) (at_ : Nat → Nat) : Nat → Data → TReg
  | _, [] => x
  | i, d :: r => TReg.putBytes (x.put (at_ i) 1 d.1.toNat d.2) at_ (i + 1) r

/-- A core's tile of the register file itself. -/
def Core.tileNow (c : Core) (n : Nat) : TReg := getReg c.r.t n ⟨0, 0⟩

/-- The bytes of a tile that an `xst` stores, row after row.
DEDUCED, log entry 52. -/
def tileData (x : TReg) (c : Cmd) : Data :=
  (List.range (c.rows * c.rowBytes)).map fun i =>
    let o := tilePlace false c i
    (BitVec.ofNat 8 (x.get o 1), x.bad o 1)

/-- Rows merged where one begins within the bytes before it or right behind them; a later row's bytes win
(R208). -/
def joinRows : Nat × Data → List (Nat × Data) → List (Nat × Data)
  | x, [] => [x]
  | x, y :: r =>
    if x.1 ≤ y.1 ∧ y.1 ≤ x.1 + x.2.length then
      joinRows (x.1, x.2.take (y.1 - x.1) ++ y.2 ++ x.2.drop (y.1 - x.1 + y.2.length)) r
    else x :: joinRows y r

/-- The merged rows of an `xst`. -/
def storedRows (c : Cmd) : List (Nat × Data) :=
  match (List.range c.rows).map fun r =>
      (c.addr + r * c.pitch, slice c.data (r * c.rowBytes) c.rowBytes) with
  | [] => []
  | x :: r => joinRows x r

/-- The vector layout is within its limits (R209). -/
def goodVector (c : Cmd) : Bool :=
  c.stf 0 57 7 == 0 && word256 c.stg 1 == 0 && c.stf 2 13 51 == 0 && decide (1 ≤ c.stf 2 0 13 ∧ c.stf 2 0 13 ≤ 4096)

/-- LEN of the vector layout. -/
def vectorLen (c : Cmd) : Nat := c.stf 2 0 13
/-- The bytes of a vector command in memory. -/
def vectorRuns (c : Cmd) : List (Nat × Nat) := runs c.addr (vectorLen c)
/-- The vector register of `xldv` and `xstv` (R205). -/
def Cmd.vec (c : Cmd) : Nat := c.fld 16 4 + 16 * c.fld 0 1

/-- A vector register with its low bytes replaced. -/
def VReg.putBytes (x : VReg) (d : Data) : VReg :=
  let n := d.length
  let keep := x.bits.toNat / 2 ^ (8 * n) * 2 ^ (8 * n)
  let poison := x.poison.toNat / 2 ^ n * 2 ^ n
  ⟨BitVec.ofNat 32768 (keep + ofBytes (d.map (·.1))),
    BitVec.ofNat 4096 (poison + (d.mapIdx fun i b => if b.2 then 2 ^ i else 0).foldl (· + ·) 0)⟩

/-- The low bytes of a vector register. -/
def vectorData (x : VReg) (n : Nat) : Data :=
  (List.range n).map fun i => (BitVec.ofNat 8 (x.elem 1 i), x.bad i 1)

/-- The weight layout is within its limits (R210, R104). -/
def goodWeight (c : Cmd) : Bool :=
  c.stf 0 57 7 == 0 && c.stf 1 6 58 == 0 && decide (c.stf 1 4 2 ≤ 1) && c.stf 2 19 45 == 0
    && decide (1 ≤ c.stf 2 0 19 ∧ c.stf 2 0 19 ≤ (16 - c.stf 1 0 4) * 16384)

/-- The regions that an `xldw` fills (R211). -/
def weightRegions (c : Cmd) : List Nat :=
  ((List.range ((c.stf 2 0 19 + 16383) / 16384)).map (c.stf 1 0 4 + ·)).filter (· < 16)

/-- A region filled with bytes, its source recorded (R106, R211). -/
def fillRegion (fmt : BitVec 2) (src : Nat) (o : Owner) (d : Data) : WRegion :=
  ⟨BitVec.ofNat 131072 (ofBytes (d.map (·.1))),
    BitVec.ofNat 16384 ((d.mapIdx fun i b => if b.2 then 2 ^ i else 0).foldl (· + ·) 0),
    fmt, d.length, some src, o.part, o.ctx, o.ns, o.kernel, false⟩

/-- The weight buffer with a command's bytes in regions from REGION on (R211). -/
def fillWeights (c : Cmd) (co : Core) (d : Data) : Core :=
  { co with wb := (List.range ((d.length + 16383) / 16384)).foldl (fun wb i =>
      setReg wb (c.stf 1 0 4 + i) (fillRegion (BitVec.ofNat 2 (c.stf 1 4 2)) (c.addr + 16384 * i) c.own
        (slice d (16384 * i) 16384))) co.wb }

/-! ## Copies and fills (R212 to R215) -/

/-- MXF of an `xcopy`. -/
def Cmd.mxf (c : Cmd) : Nat := c.fld 0 3
/-- Scales lie apart from their blocks. -/
def Cmd.sep (c : Cmd) : Bool := c.fld 3 1 == 1 && c.mxf != 0
/-- Bytes of a block without its scale (R213). -/
def Cmd.blockBytes (c : Cmd) : Nat := match c.mxf with | 2 => 24 | 3 => 16 | _ => 32
/-- LEN of an `xcopy`. -/
def Cmd.copyLen (c : Cmd) : Nat := c.stf 2 0 39

/-- Two ranges of bytes overlap. -/
def overlap (a n b m : Nat) : Bool := n != 0 && m != 0 && decide (a < b + m) && decide (b < a + n)

/-- Bytes of the data extents of an `xcopy`. -/
def Cmd.copyBytes (c : Cmd) : Nat :=
  if c.mxf = 0 then c.copyLen
  else if c.sep then c.copyLen * c.blockBytes else c.copyLen * (c.blockBytes + 1)

/-- Bytes that a strided scale array spans. -/
def Cmd.scaleSpan (c : Cmd) (stride : Nat) : Nat := if c.copyLen = 0 then 0 else (c.copyLen - 1) * stride + 1

/-- The copy layout is within its limits, and neither the data extents nor the scale extents overlap (R212 to
R214). -/
def goodCopy (s : State) (c : Cmd) : Bool :=
  c.stf 0 57 7 == 0 && c.stf 1 57 7 == 0 && decide (c.mxf ≤ 4)
    && (s.dcore s.here c).isSome
    && !overlap c.addr c.copyBytes (c.stf 1 0 57) c.copyBytes
    && (!c.sep || (c.prf 0 57 7 == 0 && c.prf 1 57 7 == 0 && c.prf 2 32 32 == 0 && c.prf 2 0 16 != 0
      && c.prf 2 16 16 != 0
      && !overlap (c.prf 0 0 57) (c.scaleSpan (c.prf 2 0 16)) (c.prf 1 0 57) (c.scaleSpan (c.prf 2 16 16))))

/-- Bytes of a block with its scale, which an MX-aware copy moves as one indivisible unit (R154, R213). -/
def Cmd.unitBytes (c : Cmd) : Nat := if c.mxf = 0 then 1 else c.blockBytes + 1

/-- The runs of one side of an `xcopy`, block by block in MX mode: with separate scales each block is followed by its
scale (R213). -/
def copyRuns (c : Cmd) (base scale stride : Nat) : List (Nat × Nat) :=
  if c.sep then
    (List.range c.copyLen).flatMap fun i =>
      runs (base + i * c.blockBytes) c.blockBytes ++ [(scale + i * stride, 1)]
  else if c.mxf != 0 then (List.range c.copyLen).flatMap fun i => runs (base + i * c.unitBytes) c.unitBytes
  else runs base c.copyBytes

/-- The source runs of an `xcopy`. -/
def copySource (c : Cmd) : List (Nat × Nat) := copyRuns c c.addr (c.prf 0 0 57) (c.prf 2 0 16)
/-- The destination runs of an `xcopy`. -/
def copyTarget (c : Cmd) : List (Nat × Nat) := copyRuns c (c.stf 1 0 57) (c.prf 1 0 57) (c.prf 2 16 16)

/-- What the future of an `xcopy` receives for a number of bytes moved (R230). -/
def copyValue (c : Cmd) (n : Nat) : Nat := if c.mxf = 0 then n else n / (c.blockBytes + 1)

/-- FEA of an `xfill`. -/
def Cmd.fea (c : Cmd) : Nat := c.fld 0 2

/-- The fill layout is within its limits (R215): with FEA the extent lies in the SRAM window (R46). -/
def goodFill (s : State) (c : Cmd) : Bool :=
  c.stf 0 57 7 == 0 && c.stf 2 40 24 == 0 && c.fea != 3
    && (c.fea == 0 || (c.addr % 8 == 0 && c.stf 2 0 40 % 8 == 0 && (c.stf 2 0 40 == 0 ||
      (s.spadWindow (chipOf s.here) (BitVec.ofNat 64 c.addr) (c.stf 2 0 40)).isSome)))

/-- The runs of an `xfill`. -/
def fillRuns (c : Cmd) : List (Nat × Nat) := runs c.addr (c.stf 2 0 40)

/-- The pattern over some pieces: it is tied to the address. -/
def fillData (c : Cmd) (ps : List Piece) : Data :=
  ps.flatMap fun p => (List.range p.len).map fun i =>
    (BitVec.ofNat 8 (field (word256 c.stg 1) (8 * ((p.va + i) % 8)) 8), false)

/-! ## Rings (R85, R86, R216 to R218) -/

/-- MODE of a ring descriptor. -/
def Cmd.ringMode (c : Cmd) : Nat := c.stf 1 40 2
/-- The ring index that a command names. -/
def Cmd.ringIndex (c : Cmd) : BitVec 3 := BitVec.ofNat 3 (c.fld 0 3)
/-- The home extent of a ring: BASE and the bytes of its slots. -/
def homeExtent (w1 : W64) : Nat × Nat := (field w1 0 20, field w1 32 8 * (field w1 20 12 * 64))

/-- The registered MODE 1 ring whose BASE a VA names. -/
def State.ringAtVA (s : State) (va : Nat) : Option Nat :=
  (s.rings.find? fun r => field r.2.desc[1] 40 2 == 1 && r.2.closing.isNone
    && windowVA r.2.core (field r.2.desc[1] 0 20) == va).map (·.1)

/-- A MODE 3 ring feeds the ring. -/
def State.ringFed (s : State) (n : Nat) : Bool := s.rings.any fun r => r.2.peer == some n

/-- A ring descriptor is within its limits (R85, R216). -/
def goodRing (s : State) (out : Bool) (c : Cmd) : Bool :=
  let e := homeExtent (word256 c.stg 1)
  let peer := c.stf 0 0 57
  c.stf 0 57 7 == 0 && c.stf 1 47 17 == 0 && decide (2 ≤ c.stf 1 32 8) && c.stf 1 20 12 != 0 && e.1 % 64 == 0
    && decide (e.1 + e.2 ≤ spadBytes) && c.stf 3 0 32 == 0 && c.stf 3 32 32 % 64 == 0
    && (if out then decide (2 ≤ c.ringMode) else decide (c.ringMode < 2))
    && (match c.ringMode with
      | 1 => peer == 0 && c.stf 3 32 32 == 0
      | 3 => c.stf 3 32 32 == 0 && (match s.ringAtVA peer with
        | some n => !s.ringFed n
        | none => false)
      | _ => decide (peer < 2 ^ 56))

/-- The rings of a core. -/
def State.ringsOf (s : State) (k : Nat) : List (Nat × Ring) := s.rings.filter fun r => r.2.core == k

/-- The lowest free ring number of a cluster (R216). -/
def State.freeRing (s : State) (cl : Nat) : Option Nat :=
  ((List.range 512).find? fun n => (s.ring? (cl * 512 + n)).isNone).map (cl * 512 + ·)

/-- A ring registered, or refused (R216). A new MODE 1 ring is fed by the held peer whose PEER names its BASE
(R218).
DEDUCED, log entry 43; DEDUCED, log entry 55. -/
def registerRing (s : State) (k : Nat) (c : Cmd) : Engine :=
  let e := homeExtent (word256 c.stg 1)
  let mine := s.ringsOf k
  let peer := if c.ringMode = 3 then s.ringAtVA (c.stf 0 0 57) else none
  let refused := match peer with
    | some n => (match s.ring? n with
      | some r => c.own.ns && s.secureCluster (clusterOf r.core)
      | none => false)
    | none => false
  if mine.any (fun r => r.2.index == c.ringIndex)
      || mine.any (fun r => overlap e.1 e.2 (homeExtent r.2.desc[1]).1 (homeExtent r.2.desc[1]).2)
      || (c.ringMode == 3 && (match peer with | some n => s.ringFed n | none => true)) then
    .done s (.of stFormat 0)
  else if refused then .done s ⟨stWorld, 0, 0, c.stf 0 0 57, false, false⟩
  else if 8 ≤ mine.length then .done s (.of stNoSpace 0)
  else match s.freeRing (clusterOf k) with
    | none => .done s (.of stNoSpace 0)
    | some n =>
      let started := c.ringMode % 2 == 1
      let desc := #v[word256 c.stg 0, word256 c.stg 1, word256 c.stg 2, word256 c.stg 3]
      let s := s.setRing n
        { core := k, index := c.ringIndex, crew := c.own.crew, uid := c.own.uid, part := c.own.part
          ctx := c.own.ctx, ns := c.own.ns, desc := desc, next := 0, flights := [], ext := [], extCap := 0
          peer := peer, closing := none, started := started, kernel := c.own.kernel }
      let waits := s.rings.find? fun r => field r.2.desc[1] 40 2 == 3 && r.2.peer.isNone && r.2.closing.isNone
        && c.ringMode == 1 && r.2.desc[0].toNat == windowVA k e.1
      let s := match waits with
        | some r => s.setRing r.1 { r.2 with peer := some n }
        | none => s
      if started then .done s (.of stOk 0)
      else .wait (s.setCmd k { c with phase := 1, value := BitVec.ofNat 64 n })

/-- `xsub` and `xpub`: registration, then for MODE 0 and MODE 2 the base dies' acknowledgement (R216). -/
def runRegister (s : State) (k : Nat) (c : Cmd) : Engine :=
  if c.phase = 0 then registerRing s k c
  else match s.ring? c.value.toNat with
    | some r => if r.started then .done s (.of stOk 0) else .wait s
    | none => .done s (.of stOk 0)

/-- A ring of a core by its index. -/
def State.ringIndexed (s : State) (k : Nat) (i : BitVec 3) : Option Nat :=
  ((s.ringsOf k).find? fun r => r.2.index == i).map (·.1)

/-- `xunsub`: the ring is released at acceptance, or when an earlier command has registered it; the command
completes when its puller has drained what was full (R217). -/
def runUnsub (s : State) (k : Nat) (c : Cmd) : Engine :=
  if c.phase = 0 then
    if (s.coreOf c.own.part k).xq.any (fun d => decide (d.id < c.id) && !d.slotG && (d.op == 0x0A || d.op == 0x0B)
        && d.ringIndex == c.ringIndex) then .wait s
    else match s.ringIndexed k c.ringIndex with
      | none => .done s (.of stFormat 0)
      | some n => .wait ((s.releaseRing n).setCmd k { c with phase := 1, value := BitVec.ofNat 64 n })
  else match s.ring? c.value.toNat with
    | none => .done s (.of stOk 0)
    | some r => if r.closing.isNone then .done s (.of stOk 0) else .wait s

/-- The acceptance of an `xunsub`.
DEDUCED, log entry 44; DEDUCED, log entry 57. -/
def acceptUnsub (s : State) (w : Site) (a : Accept) : Eff State := do
  let t ← acceptCommand s w a
  match t.me.xq.getLast?, s.ringIndexed s.here (newCmd s w).ringIndex with
  | some c, some n =>
    return if c.status.isSome then t
      else (t.releaseRing n).setMine { c with phase := 1, value := BitVec.ofNat 64 n }
  | _, _ => return t

/-! ## Tiers (R220, R221) -/

/-- LEN of the range layout. -/
def Cmd.rangeLen (c : Cmd) : Nat := c.stf 2 0 40
/-- BAR of an `xpre`. -/
def Cmd.bar (c : Cmd) : Bool := c.op == 0x10 && c.fld 0 1 == 1

/-- The range layout is within its limits (R220, R221). -/
def goodRange (s : State) (c : Cmd) : Bool :=
  let w1 := word256 c.stg 1
  c.stf 0 57 7 == 0 && c.stf 2 40 24 == 0 && decide (1 ≤ c.rangeLen)
    && (c.op != 0x13 || c.fld 0 2 != 3)
    && (if c.bar then
          field w1 56 8 == 0 && field w1 32 4 == 0 && field w1 0 11 == 0 && field w1 16 16 != 0
            && (match coreNamed w1 with
              | some j => s.member (chipOf s.here) (chipOf j)
              | none => false)
        else w1 == 0)

/-- A page of tiered memory that an extent touches. -/
structure Touch where
  page : Nat
  attr : BitVec 16
  va : Nat
  deriving DecidableEq, Repr

/-- The pages that an extent touches up to the first fault, with the first page the world check refuses; pages
outside tiered memory are left out (R59, R66, R220), and the device register space is a fault of kind MAP (R414).
DEDUCED, log entry 58. -/
def State.touched (s : State) (k : Nat) (c : Cmd) :
    List (Nat × Nat) → List Touch × Option (Nat × Nat) × Option Nat
  | [] => ([], none, none)
  | r :: rest =>
    let o := c.own
    let more := fun (x : List Touch) (bad : Option Nat) =>
      let q := touched s k c rest
      (x ++ q.1, q.2.1, match bad with | some v => some v | none => q.2.2)
    if 2 ^ 57 ≤ r.1 then ([], some (kNoncanon, r.1), none)
    else if 2 ^ 56 ≤ r.1 then
      if (s.window (chipOf k) (BitVec.ofNat 64 r.1) r.2).isSome then more [] none
      else ([], some (kSramwin, r.1), none)
    else match (match c.entry r.1 with
        | some e => e
        | none => s.entryFor k o.part o.ctx r.1) with
      | .error kind => ([], some (kind, r.1), none)
      | .ok e =>
        let ma := e.ma r.1
        if regionOf ma = .nothing || regionOf ma = .device || !s.member (chipOf k) (ma / 2 ^ 48) then
          ([], some (kMap, r.1), none)
        else if !o.kernel && !e.attr.getLsbD 6 then ([], some (kPerm, r.1), none)
        else if regionOf ma ≠ .tiered then more [] none
        else if (o.ns || e.ns) && s.secureMA ma then more [] (some r.1)
        else more [⟨pageOf ma, e.attr, r.1⟩] none

/-- The verdict of a tier command: a fault, a refusal, what a page-in reported, or success. -/
def tierVerdict (c : Cmd) (fault : Option (Nat × Nat)) (refused : Option Nat) (v : Verdict) : Verdict :=
  match fault, refused with
  | some f, _ => .fault f 0
  | none, some va => ⟨stWorld, 0, 0, va, false, false⟩
  | none, none => if c.tier then ⟨c.kind.toNat, 0, 0, c.fail.toNat, true, false⟩ else v

/-- Pages awaited by a command. -/
def Touch.awaited (ts : List Touch) : List (Nat × BitVec 16 × Nat) := ts.map fun t => (t.page, t.attr, t.va)

/-- `xpre`: every page resident in tier 0 (R220). -/
def runPrefetch (s : State) (k : Nat) (c : Cmd) : Engine :=
  let q := s.touched k c (runs c.addr c.rangeLen)
  match q.1.filter fun t => !s.present t.page with
  | [] => .done s (tierVerdict c q.2.1 q.2.2 (.of stOk 0))
  | t :: r => .wait (s.waitPages c (Touch.awaited (t :: r)))

/-- One pin: the page is placed if it was never written; a count of 255 stays (R41, R220). The first trouble is
kept. -/
def pinPage (x : State × Verdict) (t : Touch) : State × Verdict :=
  let keep := fun (v : Verdict) => if x.2.status = stOk then v else x.2
  let pin := fun (s : State) =>
    let g := s.page t.page
    if g.pin = 255 then (s, keep (.of stNoSpace 0)) else (s.setPage t.page { g with pin := g.pin + 1 }, x.2)
  if (x.1.page t.page).tier.isNone then
    match x.1.placeForWrite t.page t.attr with
    | some s => pin s
    | none => (x.1, keep (.noFrame t.va))
  else if x.1.present t.page then pin (x.1.setPage t.page { x.1.page t.page with demoting := none })
  else x

/-- `xpin`: absent pages are brought in first; a page that could not be is left unpinned (R220). -/
def runPin (s : State) (k : Nat) (c : Cmd) : Engine :=
  let q := s.touched k c (runs c.addr c.rangeLen)
  match q.1.filter fun t => !s.present t.page && ((s.page t.page).incoming || !c.tier) with
  | t :: r => .wait (s.waitPages c (Touch.awaited (t :: r)))
  | [] =>
    let x := q.1.foldl pinPage (s, Verdict.of stOk 0)
    .done x.1 (tierVerdict c q.2.1 q.2.2 x.2)

/-- `xunpin` (R220). -/
def runUnpin (s : State) (k : Nat) (c : Cmd) : Engine :=
  let q := s.touched k c (runs c.addr c.rangeLen)
  let x := q.1.foldl (fun (x : State × Bool) t =>
    let g := x.1.page t.page
    if g.tier.isNone || g.pin = 0 then (x.1, true)
    else (x.1.setPage t.page { g with pin := g.pin - 1 }, x.2)) (s, false)
  .done x.1 (tierVerdict c q.2.1 q.2.2 (.of (if x.2 then stFormat else stOk) 0))

/-- One page on its way to a lower tier (R220): a page of tier 0 that may go is demoted when its demotion ends,
a page of the other lower tier moves, its translations invalidated first (R63), read with the poison that CXL memory
indicates (R33) and stored as R34 says, and one that cannot is left. -/
def migratePage (tier : BitVec 2) (x : State × Verdict) (t : Touch) : State × Verdict :=
  let s := x.1
  let g := s.page t.page
  if g.tier.isNone || g.tier == some tier || g.demoting == some tier then x
  else if g.tier == some 0 && (g.pin != 0 || g.nodem || g.hold) then x
  else if !s.tierRoom (t.page / 2 ^ 32) tier then (s, if x.2.status = stOk then .noFrame t.va else x.2)
  else if g.tier == some 0 then (s.setPage t.page { g with demoting := some tier }, x.2)
  else
    let s := s.cxlRead t.page (Config.cxlPoison s.tick t.page)
    let z := s.packing t.page
    ((s.purge (fun _ => true) (fun _ => true) fun e => State.resolves e t.page).setPage t.page
      { g with tier := some tier, method := z.1, stored := z.2 }, x.2)

/-- `xmig` to tier 0 brings pages in; to a lower tier it starts their demotions and ends with the last (R220). -/
def runTierMove (s : State) (k : Nat) (c : Cmd) : Engine :=
  let q := s.touched k c (runs c.addr c.rangeLen)
  let tier := BitVec.ofNat 2 (c.fld 0 2)
  if tier = 0 then
    match q.1.filter fun t => !s.present t.page && ((s.page t.page).incoming || !c.tier) with
    | t :: r => .wait (s.waitPages c (Touch.awaited (t :: r)))
    | [] => .done s (tierVerdict c q.2.1 q.2.2 (.of stOk 0))
  else if c.phase = 0 then
    if q.1.any fun t => (s.page t.page).incoming then .wait s
    else
      let x := q.1.foldl (migratePage tier) (s, Verdict.of stOk 0)
      .wait (x.1.setCmd k { c with
        phase := 1, tier := x.2.tier, kind := BitVec.ofNat 8 x.2.status, fail := BitVec.ofNat 64 x.2.va })
  else if q.1.any fun t => (s.page t.page).demoting == some tier then .wait s
  else .done s (tierVerdict c q.2.1 q.2.2 (.of stOk 0))

/-! ## Running an X command -/

/-- What an X command does when its turn has come.
DEDUCED, log entry 51. -/
def runX (k : Nat) (s : State) (c : Cmd) : Engine :=
  let tile := c.fld 16 4
  let intoTile := fun (tr : Bool) (co : Core) (d : Data) =>
    { co with r := { co.r with t := setReg co.r.t tile ((co.tileNow tile).putBytes (tilePlace tr c) 0 d) } }
  match c.op with
  | 0x01 => s.loadRuns k c (tileRuns c) true (intoTile false)
  | 0x02 => s.loadRuns k c (tileRuns c) true (intoTile true)
  | 0x03 =>
    let rows := storedRows c
    s.storeRuns k c (rows.flatMap fun r => runs r.1 r.2.length) (fun _ => rows.flatMap (·.2)) none
  | 0x04 =>
    let intoVec := fun (co : Core) (d : Data) =>
      { co with r := { co.r with v := setReg co.r.v c.vec ((getReg co.r.v c.vec ⟨0, 0⟩).putBytes d) } }
    s.loadRuns k c (vectorRuns c) true intoVec
  | 0x05 => s.storeRuns k c (vectorRuns c) (fun _ => c.data) none
  | 0x06 => s.loadRuns k c (runs c.addr (c.stf 2 0 19)) true (fillWeights c)
  | 0x08 => s.moveRuns k c (copySource c) (copyTarget c) c.unitBytes (c.mxf != 0) (copyValue c)
  | 0x09 => s.storeRuns k c (fillRuns c) (fillData c) (if c.fea = 0 then none else some (c.fea == 1))
  | 0x0A => runRegister s k c
  | 0x0B => runRegister s k c
  | 0x0C => runUnsub s k c
  | 0x10 => s.translated k c (runs c.addr c.rangeLen) fun s c => runPrefetch s k c
  | 0x11 => s.translated k c (runs c.addr c.rangeLen) fun s c => runPin s k c
  | 0x12 => s.translated k c (runs c.addr c.rangeLen) fun s c => runUnpin s k c
  | 0x13 => s.translated k c (runs c.addr c.rangeLen) fun s c => runTierMove s k c
  | _ => .done s (.of stFormat 0)

/-! ## Acceptance -/

/-- A command that reads a tile or a vector register, or neither, and writes what it says. -/
def acceptPlain (good : Cmd → Bool) (beyond : Bool) : Accept :=
  ⟨fun _ => [], good, fun _ => [], fun _ => [], fun _ => beyond, fun _ => []⟩

/-- `xld` and `xld.tr`. -/
def acceptTileLoad (transposed : Bool) (t : Nat) : Accept :=
  { acceptPlain (goodTile transposed) false with busy := fun _ => [(.tile t, true)], src := tileRuns }

/-- `xst`: the tile as its group finds it. -/
def acceptTileStore (s : State) (t : Nat) : Accept :=
  { acceptPlain (goodTile false) false with
    busy := fun _ => [(.tile t, false)], dst := tileRuns, data := fun c => tileData (s.me.tile t) c }

/-- `xldv`. -/
def acceptVectorLoad (n : Nat) : Accept :=
  { acceptPlain goodVector false with busy := fun _ => [(.vec n, true)], src := vectorRuns }

/-- `xstv`: the register as its group finds it. -/
def acceptVectorStore (s : State) (n : Nat) : Accept :=
  { acceptPlain goodVector false with
    busy := fun _ => [(.vec n, false)], dst := vectorRuns
    data := fun c => vectorData (s.me.vec (BitVec.ofNat 5 n)) (vectorLen c) }

/-- `xldw`. -/
def acceptWeights : Accept :=
  { acceptPlain goodWeight false with
    busy := fun c => (weightRegions c).map fun r => (.region r, true), src := fun c => runs c.addr (c.stf 2 0 19) }

/-- `xcopy`. -/
def acceptCopy (s : State) : Accept :=
  { acceptPlain (goodCopy s) false with
    src := copySource, dst := copyTarget, beyond := fun c => c.stf 2 63 1 == 1 }

/-- `xfill`. -/
def acceptFill (s : State) : Accept := { acceptPlain (goodFill s) false with dst := fillRuns }

/-- `xwait` (R222). -/
def waitFor (s : State) (w : Site) (kd : BitVec 2) (v4 : Bool) (n : Nat) : Eff State :=
  if kd = 3 || (v4 && kd != 1) then raiseIllegal s w
  else do
    ready (s.me.canWrite (if kd = 0 then .tile n else if kd = 1 then .vec (n + 16 * ofBool v4) else .region n))
    return s

/-! ## Meanings -/


/-- `xld` (R208). -/
def execXld (g : Guard) (t : BitVec 4) (sr : BitVec 3) (f : BitVec 4) (i p e : Bool) (s : State) : Out :=
  let W : Site := ⟨.X, slotWord g 0x01 (place [(t.toNat, 16), (sr.toNat, 13), (f.toNat, 9), (i.toNat, 8), (p.toNat, 7), (e.toNat, 6)])⟩
  runSlot s g (acceptCommand s W (acceptTileLoad false t.toNat))

/-- `xld.tr` (R208). -/
def execXldTr (g : Guard) (t : BitVec 4) (sr : BitVec 3) (f : BitVec 4) (i p e : Bool) (s : State) : Out :=
  let W : Site := ⟨.X, slotWord g 0x02 (place [(t.toNat, 16), (sr.toNat, 13), (f.toNat, 9), (i.toNat, 8), (p.toNat, 7), (e.toNat, 6)])⟩
  runSlot s g (acceptCommand s W (acceptTileLoad true t.toNat))

/-- `xst` (R208). -/
def execXst (g : Guard) (t : BitVec 4) (sr : BitVec 3) (f : BitVec 4) (i p e : Bool) (s : State) : Out :=
  let W : Site := ⟨.X, slotWord g 0x03 (place [(t.toNat, 16), (sr.toNat, 13), (f.toNat, 9), (i.toNat, 8), (p.toNat, 7), (e.toNat, 6)])⟩
  runSlot s g (acceptCommand s W (acceptTileStore s t.toNat))

/-- `xldv` (R209). -/
def execXldv (g : Guard) (v : BitVec 4) (sr : BitVec 3) (f : BitVec 4) (i p e w : Bool) (s : State) : Out :=
  let W : Site := ⟨.X, slotWord g 0x04 (place [(v.toNat, 16), (sr.toNat, 13), (f.toNat, 9), (i.toNat, 8), (p.toNat, 7), (e.toNat, 6), (w.toNat, 0)])⟩
  runSlot s g (acceptCommand s W (acceptVectorLoad (v.toNat + 16 * ofBool w)))

/-- `xstv` (R209). -/
def execXstv (g : Guard) (v : BitVec 4) (sr : BitVec 3) (f : BitVec 4) (i p e w : Bool) (s : State) : Out :=
  let W : Site := ⟨.X, slotWord g 0x05 (place [(v.toNat, 16), (sr.toNat, 13), (f.toNat, 9), (i.toNat, 8), (p.toNat, 7), (e.toNat, 6), (w.toNat, 0)])⟩
  runSlot s g (acceptCommand s W (acceptVectorStore s (v.toNat + 16 * ofBool w)))

/-- `xldw` (R211). -/
def execXldw (g : Guard) (sr : BitVec 3) (f : BitVec 4) (i p e : Bool) (s : State) : Out :=
  let W : Site := ⟨.X, slotWord g 0x06 (place [(sr.toNat, 13), (f.toNat, 9), (i.toNat, 8), (p.toNat, 7), (e.toNat, 6)])⟩
  runSlot s g (acceptCommand s W acceptWeights)

/-- `xcopy` (R212 to R214). -/
def execXcopy (g : Guard) (sr : BitVec 3) (f : BitVec 4) (i p e x : Bool) (m : BitVec 3) (s : State) : Out :=
  let W : Site := ⟨.X, slotWord g 0x08 (place [(sr.toNat, 13), (f.toNat, 9), (i.toNat, 8), (p.toNat, 7), (e.toNat, 6), (x.toNat, 3), (m.toNat, 0)])⟩
  runSlot s g (acceptCommand s W (acceptCopy s))

/-- `xfill` (R215). -/
def execXfill (g : Guard) (sr : BitVec 3) (f : BitVec 4) (i p e : Bool) (a : BitVec 2) (s : State) : Out :=
  let W : Site := ⟨.X, slotWord g 0x09 (place [(sr.toNat, 13), (f.toNat, 9), (i.toNat, 8), (p.toNat, 7), (e.toNat, 6), (a.toNat, 0)])⟩
  runSlot s g (acceptCommand s W (acceptFill s))

/-- `xsub` (R216). -/
def execXsub (g : Guard) (sr : BitVec 3) (f : BitVec 4) (i p e : Bool) (x : BitVec 3) (s : State) : Out :=
  let W : Site := ⟨.X, slotWord g 0x0A (place [(sr.toNat, 13), (f.toNat, 9), (i.toNat, 8), (p.toNat, 7), (e.toNat, 6), (x.toNat, 0)])⟩
  runSlot s g (acceptCommand s W (acceptPlain (goodRing s false) false))

/-- `xpub` (R216). -/
def execXpub (g : Guard) (sr : BitVec 3) (f : BitVec 4) (i p e : Bool) (x : BitVec 3) (s : State) : Out :=
  let W : Site := ⟨.X, slotWord g 0x0B (place [(sr.toNat, 13), (f.toNat, 9), (i.toNat, 8), (p.toNat, 7), (e.toNat, 6), (x.toNat, 0)])⟩
  runSlot s g (acceptCommand s W (acceptPlain (goodRing s true) true))

/-- `xunsub` (R217). -/
def execXunsub (g : Guard) (sr : BitVec 3) (f : BitVec 4) (i p e : Bool) (x : BitVec 3) (s : State) : Out :=
  let W : Site := ⟨.X, slotWord g 0x0C (place [(sr.toNat, 13), (f.toNat, 9), (i.toNat, 8), (p.toNat, 7), (e.toNat, 6), (x.toNat, 0)])⟩
  runSlot s g (acceptUnsub s W (acceptPlain (fun _ => true) false))

/-- `xpre` (R220). -/
def execXpre (g : Guard) (sr : BitVec 3) (f : BitVec 4) (i p e : Bool) (s : State) : Out :=
  let W : Site := ⟨.X, slotWord g 0x10 (place [(sr.toNat, 13), (f.toNat, 9), (i.toNat, 8), (p.toNat, 7), (e.toNat, 6)])⟩
  runSlot s g (acceptCommand s W (acceptPlain (goodRange s) false))

/-- `xpre.bar` (R221). -/
def execXpreBar (g : Guard) (sr : BitVec 3) (f : BitVec 4) (i p e : Bool) (s : State) : Out :=
  let W : Site := ⟨.X, slotWord g 0x10 (place [(sr.toNat, 13), (f.toNat, 9), (i.toNat, 8), (p.toNat, 7), (e.toNat, 6), (1, 0)])⟩
  runSlot s g (acceptCommand s W (acceptPlain (goodRange s) true))

/-- `xpin` (R220). -/
def execXpin (g : Guard) (sr : BitVec 3) (f : BitVec 4) (i p e : Bool) (s : State) : Out :=
  let W : Site := ⟨.X, slotWord g 0x11 (place [(sr.toNat, 13), (f.toNat, 9), (i.toNat, 8), (p.toNat, 7), (e.toNat, 6)])⟩
  runSlot s g (acceptCommand s W (acceptPlain (goodRange s) false))

/-- `xunpin` (R220). -/
def execXunpin (g : Guard) (sr : BitVec 3) (f : BitVec 4) (i p e : Bool) (s : State) : Out :=
  let W : Site := ⟨.X, slotWord g 0x12 (place [(sr.toNat, 13), (f.toNat, 9), (i.toNat, 8), (p.toNat, 7), (e.toNat, 6)])⟩
  runSlot s g (acceptCommand s W (acceptPlain (goodRange s) false))

/-- `xmig` (R220). -/
def execXmig (g : Guard) (sr : BitVec 3) (f : BitVec 4) (i p e : Bool) (t : BitVec 2) (s : State) : Out :=
  let W : Site := ⟨.X, slotWord g 0x13 (place [(sr.toNat, 13), (f.toNat, 9), (i.toNat, 8), (p.toNat, 7), (e.toNat, 6), (t.toNat, 0)])⟩
  runSlot s g (acceptCommand s W (acceptPlain (goodRange s) false))

/-- `xwait` (R222). -/
def execXwait (g : Guard) (r : BitVec 4) (kd : BitVec 2) (v4 : Bool) (s : State) : Out :=
  let W : Site := ⟨.X, slotWord g 0x18 (place [(r.toNat, 16), (kd.toNat, 1), (v4.toNat, 0)])⟩
  runSlot s g (waitFor s W kd v4 r.toNat)

/-- An X command completes (R228). -/
def execXCommandComplete (core id : Nat) (s : State) : Out :=
  .next (s.engineStep core id false (runX core) fun s c => .done s c.fixedVerdict)

end Sys2Proof.Machine
end

