-- ==== Sys2Proof/Machine/Gather.lean ====
section
/-! DEFINITION. Gather, scatter and the sparse-index engine (R315 to R317); collectives (R318 to R321,
R417). -/
namespace Sys2Proof.Machine

/-! ## Gather and scatter (R315) -/

/-- ESZ of a gather as bytes. -/
def Cmd.elemBytes (c : Cmd) : Nat := 2 ^ c.stf 1 48 2
/-- COUNT. -/
def Cmd.count (c : Cmd) : Nat := c.stf 1 0 15
/-- IDX: the indices come from the operand queue. -/
def Cmd.queued (c : Cmd) : Bool := c.fld 5 1 == 1

/-- The gather layout is within its limits. -/
def goodGather (c : Cmd) : Bool :=
  c.stf 0 57 7 == 0 && c.stf 1 50 14 == 0 && c.stf 1 38 10 == 0 && c.stf 1 15 17 == 0
    && decide (1 ≤ c.count ∧ c.count * c.elemBytes ≤ 16384)
    && (if c.queued then word256 c.stg 2 == 0
        else c.stf 2 20 44 == 0 && c.stf 2 0 20 % 4 == 0 && decide (c.stf 2 0 20 + 4 * c.count ≤ spadBytes))

/-- The index list of a gather, in the core's own scratchpad. -/
def indexRuns (k : Nat) (c : Cmd) : List (Nat × Nat) :=
  if c.queued then [] else runs (windowVA k (c.stf 2 0 20)) (4 * c.count)

/-- The address of an element: BASE + (index << SHIFT), modulo 2^57. -/
def elementVA (c : Cmd) (i : Nat) : Nat := (c.addr + i * 2 ^ c.stf 1 32 6) % 2 ^ 57

/-- An element is one access when its address is a multiple of its size, else bytewise. -/
def elementRuns (c : Cmd) (i : Nat) : List (Nat × Nat) :=
  let e := c.elemBytes
  let a := elementVA c i
  if a % e = 0 then [(a, e)] else (List.range e).map fun j => ((a + j) % 2 ^ 57, 1)

/-- The indices of a list with the poison of their words.
DEDUCED, log entry 59. -/
def indexList (d : Data) : Nat → List (Nat × Bool)
  | 0 => []
  | n + 1 =>
    let w := d.take 4
    (ofBytes (w.map (·.1)), w.any (·.2)) :: indexList (d.drop 4) n

/-- Poison added to the bytes of the elements whose index is poisoned. -/
def poisonElements (e : Nat) (bad : List Bool) (d : Data) : Data :=
  d.mapIdx fun n b => (b.1, b.2 || (bad.getD (n / e) false))

/-- The positions that a command has, taking more from the operand queue (R317), in whose turn the commands of the
core take them: the state afterwards, the command, and whether it has what it needs. -/
def takePositions (s : State) (k : Nat) (c : Cmd) : State × Cmd × Bool :=
  let co := s.coreOf c.own.part k
  let first := co.xq.all fun d => !(d.slotG && (d.op == 1 || d.op == 2) && d.queued && d.status.isNone
    && d.phase == 0 && decide (d.id < c.id))
  if !first then (s, c, false)
  else
    let n := c.count - c.idx.length
    let idx := c.idx ++ co.spx.queue.take n
    let co := { co with spx := { co.spx with queue := co.spx.queue.drop n } }
    let whole := idx.length == c.count || (!co.spx.busy && co.spx.queue.isEmpty)
    let c := { c with idx := idx, phase := if whole then 1 else 0 }
    ((s.setCoreOf c.own.part k co).setCmd k c, c, whole)

/-- What a gather or scatter does once its indices are known: the first elements move; a gather's others
become zero. -/
def moveElements (s : State) (k : Nat) (c : Cmd) : Engine :=
  let e := c.elemBytes
  let rs := c.idx.flatMap fun i => elementRuns c i.toNat
  let n := c.idx.length
  let tile := c.fld 12 4
  let value := fun (x : Engine) => match x with
    | .done s v => Engine.done s (if n < c.count then { v with value := v.value / e } else v)
    | .wait s => .wait s
  if c.op = 1 then
    let fill := fun (co : Core) (d : Data) =>
      let d := poisonElements e (c.data.map (·.2)) d
      let d := if d.length = n * e then d ++ clean (List.replicate ((c.count - n) * e) 0) else d
      { co with r := { co.r with t := setReg co.r.t tile ((co.tileNow tile).putBytes (fun i => i) 0 d) } }
    value (s.loadRuns k c rs false fill)
  else value (s.storeRuns k c rs (fun _ => c.data) none)

/-- The index list of a gather is read (R226, R315): the command then has its indices, and a gather whether each is
poisoned. -/
def readIndices (s : State) (k : Nat) (c : Cmd) : Engine :=
  match s.runJob k c (start := fun _ =>
      let a := s.planOf k c .load (indexRuns k c)
      s.beginJob k c ⟨partsFrom 1 0 a.pieces, [], List.replicate (lenOf a.pieces) (0, false), false, none,
        .moved a.fault none 0, none, [], false⟩) fun _ => s with
  | .wait t => .wait t
  | .done t v =>
    if v.status ≠ stOk then .done t v
    else
      let ix := indexList ((c.job.map (·.buf)).getD []) c.count
      .wait (t.setCmd k { c with
        job := none, phase := 1, idx := ix.map fun i => BitVec.ofNat 32 i.1
        data := if c.op = 1 then ix.map fun i => (0, i.2) else c.data })

/-- `ggath` and `gscat`.
DEDUCED, log entry 60. -/
def runGather (s : State) (k : Nat) (c : Cmd) : Engine :=
  if c.phase = 1 then moveElements s k c
  else if !c.queued then readIndices s k c
  else
    let x := takePositions s k c
    if x.2.2 then moveElements x.1 k x.2.1 else .wait x.1

/-! ## The sparse-index engine (R316, R317) -/

/-- The layout of `gspd` is within its limits. -/
def goodSparse (c : Cmd) : Bool :=
  c.stf 0 57 7 == 0 && decide (c.stf 1 62 2 ≤ 1) && c.stf 1 32 30 == 0 && c.stf 1 0 32 != 0
    && word256 c.stg 2 == 0

/-- Bytes of metadata that a `gspd` reads. -/
def metaRuns (c : Cmd) : List (Nat × Nat) :=
  runs c.addr (if c.stf 1 62 2 = 0 then (c.stf 1 0 32 + 7) / 8 else 2 * c.stf 1 0 32)

/-- The acceptance of a `gspd`: FORMAT while the engine still decodes, else the engine starts. -/
def acceptSparse (s : State) (w : Site) (a : Accept) : Eff State := do
  let t ← acceptCommand s w a
  match t.me.xq.getLast? with
  | some c =>
    if c.status.isSome then return t
    else if s.me.spx.busy then return t.setMine { c with status := some 6 }
    else
      let x := t.me.spx
      return t.setMe { t.me with spx :=
        { x with busy := true, mode := BitVec.ofNat 2 (c.stf 1 62 2), base := c.addr, count := c.stf 1 0 32, next := 0
                 pos := 0, pushed := 0, cmd := c.id, rate := c.fld 3 3 + 1 } }
  | none => return t

/-- The next unit of the metadata: its value, a wait, or what ends the command. -/
inductive MetaRead where
  | value (s : State) (c : Cmd) (n : Nat)
  | wait (s : State)
  | fault (v : Verdict)

/-- One unit of metadata is read: a bit or an entry. -/
def readMeta (s : State) (k : Nat) (c : Cmd) (x : SparseEngine) : MetaRead :=
  let run := if x.mode = 0 then (x.base + x.next / 8, 1) else (x.base + 2 * x.next, 2)
  match s.translate k c (runs run.1 run.2) with
  | (t, _, false) => .wait t
  | (s, c, true) =>
    let a := s.planOf k c .load (runs run.1 run.2)
    match s.absentIn a.pieces with
    | y :: r => .wait (s.waitPages c (y :: r))
    | [] =>
      match a.fault, s.refusedIn a.pieces with
      | none, none =>
        if !a.pieces.all (s.partFree k c false ·) then .wait s
        else
          let n := ofBytes ((s.readPieces k c a.pieces).map (·.1))
          .value (a.pieces.foldl (fun s p => s.servePiece p) (s.touchPages a.pieces)) c
            (if x.mode = 0 then n / 2 ^ (x.next % 8) % 2 else n)
      | f, r => .fault (.moved f r 0)

/-- The engine decodes until it has pushed RATE positions, a push waits for room in the queue, a page is awaited, or it has
ended; at most some units of metadata in one step. A bit that is 0 pushes nothing and waits for no room (R316). -/
def decodeMeta (k : Nat) : Nat → Nat → State → Cmd → State
  | 0, _, s, _ => s
  | n + 1, left, s, c =>
    let co := s.coreOf c.own.part k
    let x := co.spx
    let put := fun (s : State) (y : SparseEngine) =>
      s.setCoreOf c.own.part k { s.coreOf c.own.part k with spx := y }
    if x.count ≤ x.next then
      (put s { x with busy := false }).setCmd k { c with phase := 1, value := BitVec.ofNat 64 x.pushed }
    else if left = 0 || (256 ≤ x.queue.length && x.mode != 0) then s
    else
      match readMeta s k c x with
      | .wait t => t
      | .fault v => (put s { x with busy := false }).setCmd k (c.fixed v)
      | .value s c m =>
        let y := { x with next := x.next + 1 }
        if x.mode = 0 then
          if m = 1 then
            if 256 ≤ x.queue.length then s
            else decodeMeta k n (left - 1) (put s
              { y with queue := x.queue ++ [BitVec.ofNat 32 x.next], pushed := x.pushed + 1 }) c
          else decodeMeta k n left (put s y) c
        else
          decodeMeta k n (left - 1) (put s
            { y with pos := x.pos + m + 1, queue := x.queue ++ [BitVec.ofNat 32 (x.pos + m)]
                     pushed := x.pushed + 1 }) c

/-- The engine of a core goes on with its command.
DESIGN CHOICE, log entry 61. -/
def pushIndices (s : State) (k : Nat) : State :=
  let try_ := fun (co : Core) =>
    if co.spx.busy then co.xq.find? fun c => c.slotG && c.id == co.spx.cmd && c.status.isNone else none
  let cs := (try_ (s.core k)).toList ++ s.parts.flatMap fun p => match Table.look p.2.image k with
    | some co => if s.isOut p.1 then (try_ co).toList else []
    | none => []
  cs.foldl (fun s c =>
    if s.mayRun k c then
      decodeMeta k 64 (s.coreOf c.own.part k).spx.rate (s.keepOrder c.own.part k c.ord none) c
    else s) s

/-- `gspd` completes after its last push; its future takes the count of positions. -/
def runSparse (s : State) (c : Cmd) : Engine :=
  if c.phase = 1 then .done s (.of stOk c.value.toNat) else .wait s

/-- A `gspd` whose status is fixed leaves the engine that decodes for it idle (R42, R316). -/
def leaveSparse (s : State) (k : Nat) (c : Cmd) : Engine :=
  let co := s.coreOf c.own.part k
  .done (if co.spx.busy && co.spx.cmd == c.id
    then s.setCoreOf c.own.part k { co with spx := { co.spx with busy := false } } else s) c.fixedVerdict

/-! ## Collectives (R318 to R321) -/

/-- The bytes of a group's member list (R417). -/
def groupList (s : State) (p g : Nat) : Nat × Nat :=
  let e := getReg (s.part p).groups g (0, 0)
  (field e.1 0 56, 4 * (field e.2 0 16 + 1))

/-- The members of a group as its table lists them: none when the entry has a duplicate member, a non-zero
reserved bit or a member outside the limits of R46, beside whether a core is on the list (R417). -/
def groupMembers (s : State) (p : Nat) (g : Nat) : List (Option Nat) :=
  let l := groupList s p g
  (List.range (l.2 / 4)).map fun i =>
    let w := ofBytes (Memory.bytes s.mem (l.1 + 4 * i) 4)
    if bitsOf w 19 13 = 0 && decide (bitsOf w 8 3 ≤ 4) && s.member (p / 64) (bitsOf w 11 8) then
      some (coreAt (bitsOf w 11 8 * 16 + bitsOf w 8 3 * 2 + bitsOf w 7 1) (bitsOf w 0 7))
    else none

/-- The entry of a group is well formed. -/
def goodGroup (s : State) (p g : Nat) : Bool :=
  let e := getReg (s.part p).groups g (0, 0)
  let ms := groupMembers s p g
  field e.1 56 8 == 0 && field e.2 16 48 == 0 && ms.all (·.isSome) && ms.eraseDups.length == ms.length

/-- The group of a collective. -/
def Cmd.group (c : Cmd) : Nat := c.fld 16 4
/-- The members of its group. -/
def membersOf (s : State) (c : Cmd) : List Nat := (groupMembers s c.own.part c.group).filterMap (fun m => m)
/-- The members of its group as its acceptance found them. -/
def Cmd.members (c : Cmd) : List Nat := c.idx.map (·.toNat)
/-- A core's rank among them. -/
def Cmd.rankOf (c : Cmd) (k : Nat) : Nat := (c.members.idxOf? k).getD 0
/-- LEN of a collective. -/
def Cmd.collLen (c : Cmd) : Nat := c.stf 2 0 40
/-- TYPE of a collective. -/
def Cmd.collType (c : Cmd) : Nat := c.stf 2 40 4
/-- OP of a collective. -/
def Cmd.collOp (c : Cmd) : Nat := c.stf 2 44 4
/-- ROOT of a collective. -/
def Cmd.root (c : Cmd) : Nat := c.stf 2 48 16

/-- The collective layout is within its limits, and the core is a member of a well-formed group (R318, R417). -/
def goodCollective (s : State) (c : Cmd) : Bool :=
  let n := (groupMembers s c.own.part c.group).length
  let size := if c.op = 0x0B then n * c.collLen else c.collLen
  c.stf 0 57 7 == 0 && c.stf 1 57 7 == 0 && decide (4 ≤ c.collType ∧ c.collType ≤ 11)
    && c.collLen % typeBytes c.collType == 0 && decide (size ≤ 2 ^ 18)
    && (if c.op = 0x09 || c.op = 0x0A then decide (c.root < n) else c.root == 0)
    && (if c.op ≤ 0x09 then decide (c.collOp ≤ 2) else c.collOp == 0)
    && goodGroup s c.own.part c.group && (membersOf s c).contains s.here

/-- Where a member's result goes, if it has one (R319). -/
def resultRuns (rank n : Nat) (c : Cmd) : List (Nat × Nat) :=
  match c.op with
  | 0x09 => if rank = c.root then runs (c.stf 1 0 57) c.collLen else []
  | 0x0B => runs (c.stf 1 0 57) (n * c.collLen)
  | _ => runs (c.stf 1 0 57) c.collLen

/-- What a member contributes (R319). -/
def sourceRuns (rank : Nat) (c : Cmd) : List (Nat × Nat) :=
  if c.op = 0x0A && rank != c.root then [] else runs c.addr c.collLen

/-- How a collective is accepted. -/
def collectiveAccept (s : State) : Accept :=
  { acceptPlain (goodCollective s) false with
    src := fun c => sourceRuns (((membersOf s c).idxOf? s.here).getD 0) c
    dst := fun c => resultRuns (((membersOf s c).idxOf? s.here).getD 0) (membersOf s c).length c }

/-- The instance that a command joins. -/
def instanceOf (s : State) (c : Cmd) : Option Collective :=
  s.colls.find? fun x => x.part == c.own.part % 64 && x.group.toNat == c.group && x.seq == c.value.toNat

/-- An instance changed. -/
def State.setColl (s : State) (x : Collective) : State :=
  { s with colls := s.colls.map fun y => if y.id = x.id then x else y }

/-- The instance of a command, made by its first arrival with a slot at a combining point. -/
def openInstance (s : State) (c : Cmd) (place : Nat) : State × Collective :=
  match instanceOf s c with
  | some x => (s, x)
  | none =>
    let x : Collective := ⟨s.fresh, c.own.part % 64, BitVec.ofNat 4 c.group, place, c.value.toNat, c.members.length,
      BitVec.ofNat 7 c.op, word256 c.stg 2, none, [], s.now, []⟩
    ({ s with fresh := s.fresh + 1, colls := s.colls ++ [x] }, x)

/-- The combining points that an instance of a command's group may take, each with the slots it has (R319, R416): the IOD of
the module in which all members lie, else the switch planes, as units of R413. -/
def combiners (c : Cmd) : List (Nat × Nat) :=
  match c.members with
  | [] => []
  | m :: r =>
    if r.all fun n => chipOf n == chipOf m then [(chipOf m * 32 + 5, 64)]
    else (List.range 18).map fun i => (6 + i, 512)

/-- The combining point with a free slot for an instance: the rules do not say which switch plane an instance takes, and it
is the lowest with room. An instance that has failed holds none (R321).
DESIGN CHOICE, log entry 167. -/
def freeCombiner (s : State) (c : Cmd) : Option Nat :=
  ((combiners c).find? fun p => decide ((s.colls.filter fun x => x.place == p.1 && x.failed.isNone).length < p.2)).map (·.1)

/-- A member's command differs from the instance's first in command, ROOT, OP, TYPE or LEN (R319). -/
def Collective.differs (x : Collective) (c : Cmd) : Bool := x.op.toNat != c.op || x.param != word256 c.stg 2

/-- A member has completed: the instance goes when all have. -/
def leaveInstance (s : State) (x : Collective) (k : Nat) : State :=
  let y := { x with left := x.left ++ [k] }
  if y.size ≤ y.left.length then { s with colls := s.colls.filter fun z => z.id != x.id } else s.setColl y

/-- A member fails and leaves: the instance fails with it for the others, as one of FORMAT when the member's command
differs from theirs (R319, R321). -/
def failInstance (s : State) (k : Nat) (c : Cmd) : State :=
  let y := openInstance s c 0
  let st : BitVec 4 := if y.2.differs c then 6 else y.2.failed.getD 3
  leaveInstance y.1 { y.2 with failed := some st, got := [] } k

/-- The acceptance of a collective by a member counts which of the group's it is (R319); the member list is read then,
and a page of it outside tier 0 is waited for (R17).
DESIGN CHOICE, log entry 138. -/
def acceptCollective (s : State) (w : Site) : Eff State := do
  let c := newCmd s w
  let l := groupList s c.own.part c.group
  let lost := match s.absentPage l.1 l.2 with
    | some p => if (match s.me.pageFault with | some f => f.1 == p | none => false) then s.me.pageFault else none
    | none => none
  match s.absentPage l.1 l.2, lost with
  | some p, none => .error (.absent p State.tableAttr)
  | _, _ =>
    let t ← acceptCommand s w (collectiveAccept s)
    match lost with
    | some f => return t.setMine (c.fixed ⟨f.2.toNat, 0, 0, 0, true, false⟩)
    | none =>
      if !(membersOf s c).contains s.here then return t
      else
        match t.me.xq.getLast? with
        | some c =>
          let key := c.group * 2 ^ 16 + s.here % 2 ^ 16
          let p := t.part c.own.part
          let n := (Table.look p.counts key).getD 0
          let bad := c.status.isSome && goodGroup s c.own.part c.group
          let c := { c with value := BitVec.ofNat 64 n, idx := (membersOf s c).map (BitVec.ofNat 32)
                            phase := if c.status.isSome then 2 else 0 }
          let t := (t.setPart c.own.part { p with counts := Table.put p.counts key (n + 1) }).setMine c
          return if bad then failInstance t s.here c else t
        | none => return t

/-- One millisecond (R321, R322). -/
def oneMs : Nat := 1000000

/-- A member whose source or destination fails: it leaves its instance, and every member completes with FAILED (R321).
DEDUCED, log entry 62. -/
def failMember (s : State) (k : Nat) (c : Cmd) (v : Verdict) : State :=
  (failInstance s k c).setCmd k { (c.fixed { v with status := stFailed }) with phase := 2 }

/-- The members' commands whose contributions an instance holds, each with its core. -/
def contributors (s : State) (x : Collective) : List (Nat × Cmd) :=
  x.got.filterMap fun y => ((s.coreOf (chipOf y.core * 64 + x.part) y.core).xq.find? fun d =>
    d.slotG && decide (0x08 ≤ d.op) && decide (d.op ≤ 0x0B) && d.group == x.group.toNat && d.value.toNat == x.seq).map
      fun d => (y.core, d)

/-- A member's destination cannot be written now: the world check refuses it, or no path remains to it (R67, R79). -/
def cannotWrite (s : State) (m : Nat × Cmd) : Bool :=
  match m.2.job with
  | some j => (s.refusedIn (j.wr.map (·.piece))).isSome || j.wr.any fun r => !s.pathTo m.1 r.piece.target
  | none => false

/-- An instance whose result is whole is settled for all members at once: no destination byte has been written, and if some
member's cannot be, the instance fails for every one of them (R321, R349).
DEDUCED, log entry 62. -/
def settleInstance (s : State) (x : Collective) : Collective :=
  if x.size ≤ x.got.length && (contributors s x).any (cannotWrite s) then { x with failed := some 3, got := [] } else x

/-- A member's contribution has been read and arrives at the combining point (R320): one that differs makes the instance
FORMAT; after a millisecond it is abandoned (R319, R321). The first waits for a slot at a combining point (R416). -/
def deposit (s : State) (k : Nat) (c : Cmd) (d : Data) : State :=
  match instanceOf s c, freeCombiner s c with
  | none, none => s
  | _, p =>
    let y := openInstance s c (p.getD 0)
    let x := y.2
    let x := if x.failed == some 8 then x
      else if x.got.length < x.size && decide (oneMs ≤ s.passed x.since) then { x with failed := some 8, got := [] }
      else if x.differs c then { x with failed := some 6, got := [] }
      else if x.failed.isSome then x
      else settleInstance s { x with got := x.got ++ [⟨k, c.rankOf k, d⟩] }
    (y.1.setColl x).setCmd k { c with phase := 1 }

/-- A member's contribution is made ready, its destination with it, so that no destination can fail once the result is
whole (R349); its bytes are read word by word (R347) and arrive. A member that fails takes the instance with it. -/
def contribute (s : State) (k : Nat) (c : Cmd) : State :=
  match c.job with
  | some j =>
    if j.world.isSome then failMember s k c j.result
    else if j.rd.isEmpty then deposit s k c j.buf
    else if s.jobLate k c { j with wr := [] } then failMember s k c (.of stFailed 0)
    else s.jobStep k c k c j false
  | none =>
    let src := sourceRuns (c.rankOf k) c
    let dst := resultRuns (c.rankOf k) c.members.length c
    match s.translate k c (src ++ dst) with
    | (t, _, false) => t
    | (s, c, true) =>
      let a := s.planOf k c .load src
      let b := s.planOf k c .store dst
      match s.absentIn (a.pieces ++ b.pieces) with
      | x :: r => s.waitPages c (x :: r)
      | [] =>
        match (match a.fault with | some f => some f | none => b.fault), s.refusedIn (a.pieces ++ b.pieces) with
        | none, none =>
          match (s.touchPages a.pieces).readyPages b.pieces with
          | .error va => failMember s k c (.noFrame va)
          | .ok s =>
            ((s.noteFrames k c.own (a.pieces ++ b.pieces)).keepOrder c.own.part k c.ord none).setCmd k { c with
              job := some ⟨partsFrom 1 0 (packetsOf false a.pieces), partsFrom 1 0 (packetsOf true b.pieces),
                List.replicate (lenOf a.pieces) (0, false), false, none, .of stOk (lenOf b.pieces), none, [], false⟩ }
        | f, r => failMember s k c (.moved f r 0)

/-- An element combined with another (R320, R252): sums of `bf16` and `f16` are held as `f32`. -/
def combine (type op : Nat) (x y : Nat × Flags) : Nat × Flags :=
  let r : Rounded :=
    match fmtOf type with
    | none =>
      let w := 8 * typeBytes type
      let a := asInt (typeSigned type) w x.1
      let b := asInt (typeSigned type) w y.1
      ⟨wrap w (if op = 0 then a + b else if op = 1 then min a b else max a b), 0⟩
    | some f =>
      if op = 0 then (if type = 8 || type = 9 then f32 else f).add 0 x.1 y.1 else f.minMax (op == 2) x.1 y.1
  (r.bits, r.flags ||| x.2 ||| y.2)

/-- Element i of some contributions combined in their order of arrival. -/
def combineElement (type op i : Nat) (cs : List (List (Byte × Bool))) : (Nat × Flags) × Bool :=
  let e := typeBytes type
  let narrow := op == 0 && (type == 8 || type == 9)
  let parts := cs.map fun c => slice c (i * e) e
  let vals := parts.map fun d =>
    let x := ofBytes (d.map (·.1))
    if narrow then
      let r := convertElement type 10 0 false 0 x
      (r.bits, r.flags)
    else (x, (0 : Flags))
  let sum := match vals with
    | [] => (0, 0)
    | x :: r => r.foldl (combine type op) x
  let sum := if narrow then
      let r := convertElement 10 type 0 false 0 sum.1
      (r.bits, r.flags ||| sum.2)
    else sum
  (sum, parts.any fun d => d.any (·.2))

/-- The result of an instance for its members, with the flags raised (R319, R320). -/
def instanceResult (c : Cmd) (x : Collective) : Data × Flags :=
  let e := typeBytes c.collType
  let byRank := fun (n : Nat) => ((x.got.find? fun y => y.rank == n).map (·.bytes)).getD []
  match c.op with
  | 0x0A => (byRank c.root, 0)
  | 0x0B => ((List.range x.got.length).flatMap byRank, 0)
  | _ =>
    let es := (List.range (c.collLen / e)).map fun i => combineElement c.collType c.collOp i (x.got.map (·.bytes))
    (es.flatMap fun y => (toBytes e y.1.1).map fun b => (b, y.2), es.foldl (fun f y => f ||| y.1.2) 0)

/-- The bytes of a result on their way to a member's destination, which has been found writable for every member: they are
written under the assignment of worlds in force then. -/
def resultJob (j : Job) (d : Data) : Job :=
  { j with wr := j.wr.map (fun (r : Part) => { r with piece := { r.piece with ns := false } }), buf := d, out := [] }

/-- A member completes (R321): with the instance's failure, or once the whole result stands and its destination has been
written (R349). From then on a member no longer fails: its writes wait for a path, and what a failed link held is sent again.
DEDUCED, log entry 62. -/
def runCollective (s : State) (k : Nat) (c : Cmd) : Engine :=
  match c.job with
  | none => .wait s
  | some j =>
    if c.phase = 3 then
      if j.ended then .done s j.result else .wait (s.jobStep k c k c { j with lost := false } true)
    else if c.phase ≠ 1 then .wait s
    else match instanceOf s c with
      | none => .done s (.of stFailed 0)
      | some x =>
        match x.failed with
        | some st => .done (leaveInstance s x k) (.of st.toNat 0)
        | none =>
          let rootDone := x.left.contains (c.members.getD c.root k)
          if x.got.length < x.size || (c.op = 0x09 && c.rankOf k != c.root && !rootDone) then .wait s
          else .wait (s.setCmd k { c with phase := 3, job := some (resultJob j (instanceResult c x).1) })

/-- A collective with the whole result at hand: the flags accrue as it completes, and it leaves its instance. -/
def endCollective (s : State) (k : Nat) (c : Cmd) : Engine :=
  match runCollective s k c, instanceOf s c with
  | .done t v, some x =>
    if c.phase = 3 then .done ((leaveInstance t x k).accrue c.own (instanceResult c x).2) v else .done t v
  | e, _ => e

/-- A collective whose status is fixed, as by a page that cannot be had, leaves its instance, which fails (R42, R321). -/
def leaveCollective (s : State) (k : Nat) (c : Cmd) : Engine :=
  if c.phase = 2 || c.idx.isEmpty then .done s c.fixedVerdict
  else .done (failInstance s k c) { c.fixedVerdict with status := stFailed }

/-- The contribution of a command arrives. -/
def arriveContribution (s : State) (k id : Nat) : State :=
  match s.commandAt k id with
  | some c =>
    if c.slotG && 0x08 ≤ c.op && c.op ≤ 0x0B && c.phase == 0 && c.status.isNone && s.mayRun k c then contribute s k c
    else s
  | none => s

/-- An instance whose contributions are not complete a millisecond after the first is abandoned (R321). -/
def abandonInstance (s : State) (id : Nat) : State :=
  { s with colls := s.colls.map fun x =>
      if x.id == id && x.failed.isNone && x.got.length < x.size && decide (oneMs ≤ s.passed x.since) then
        { x with failed := some 8, got := [] }
      else x }

end Sys2Proof.Machine
end

