-- ==== Sys2Proof/Machine/Message.lean ====
section
/-! DEFINITION. Mailboxes (R322), remote enqueue (R323) and the device allocator (R326, R327, R418). -/
namespace Sys2Proof.Machine

/-! ## Mailboxes (R322) -/

/-- The mailbox that a command names. -/
def Cmd.mailbox (c : Cmd) : Nat := c.fld 16 2
/-- LEN of a `gsend`, CAP of a `grecv`. -/
def Cmd.messageLen (c : Cmd) : Nat := c.stf 2 0 17

/-- LEN or CAP is within its limits. -/
def goodLength (c : Cmd) : Bool :=
  c.stf 2 17 47 == 0 && decide (1 ≤ c.messageLen ∧ c.messageLen ≤ 65536)

/-- The core a `gsend` names, within the limits of R46. -/
def receiverOf (s : State) (k : Nat) (c : Cmd) : Option Nat :=
  let w := word256 c.stg 1
  if field w 56 8 = 0 && field w 0 36 = 0 then
    match coreNamed w with
    | some j => if s.member (chipOf k) (chipOf j) then some j else none
    | none => none
  else none

/-- The layout of `gsend` is within its limits. -/
def goodSend (s : State) (c : Cmd) : Bool :=
  c.stf 0 57 7 == 0 && (receiverOf s s.here c).isSome && goodLength c

/-- The layout of `grecv` is within its limits: BUF with CAP bytes lies in the core's own scratchpad. -/
def goodReceive (s : State) (c : Cmd) : Bool :=
  c.stf 0 57 7 == 0 && word256 c.stg 1 == 0 && goodLength c
    && (match s.spadWindow (chipOf s.here) (BitVec.ofNat 64 c.addr) c.messageLen with
      | some (j, _) => j == s.here
      | none => false)

/-- The bytes a message command reads or writes. -/
def messageRuns (c : Cmd) : List (Nat × Nat) := runs c.addr c.messageLen

/-- A mailbox of a core changed. -/
def Core.setMailbox (c : Core) (m : Nat) (ds : List Descriptor) : Core := { c with mbox := setReg c.mbox m ds }

/-- The oldest `grecv` of a mailbox that has not been paired. -/
def waitingReceive (co : Core) (m : Nat) : Option Cmd :=
  co.xq.find? fun d => d.slotG && d.op == 0x11 && d.mailbox == m && d.status.isNone && d.phase == 0

/-- The command that placed a descriptor, if it is still accepted. -/
def State.commandOf (s : State) (p k id : Nat) : Option Cmd :=
  (s.coreOf p k).xq.find? fun c => c.id == id && c.own.part == p

/-- The oldest descriptor of a mailbox pairs with the oldest `grecv` that waits there (R322): the receiving command names
the sending one, and neither times out any more. -/
def pairMailbox (s : State) (p j m : Nat) : State :=
  let co := s.coreOf p j
  match getReg co.mbox m [], waitingReceive co m with
  | d :: r, some c =>
    let co := co.setMailbox m r
    let s := s.setCoreOf p j { co with xq := co.xq.map fun x => if x.id = c.id then
      { c with phase := 1, value := BitVec.ofNat 64 d.cmd, idx := [BitVec.ofNat 32 d.core, BitVec.ofNat 32 d.part] } else x }
    match s.commandOf d.part d.core d.cmd with
    | some x => s.setCmd d.core { x with phase := 2 }
    | none => s
  | _, _ => s

/-- The descriptor of a `gsend` arrives at its mailbox: it enters, or finds it full; a refused write is
discarded (R322, R67). -/
def arriveDescriptor (s : State) (k id : Nat) : State :=
  match s.commandAt k id with
  | none => s
  | some c =>
    if !(c.slotG && c.op == 0x10 && c.phase == 0 && c.status.isNone && s.mayRun k c) then s
    else match receiverOf s k c with
      | none => s
      | some j =>
        let s := s.keepOrder c.own.part k c.ord none
        let co := s.coreOf c.own.part j
        let box := getReg co.mbox c.mailbox []
        if c.own.ns && s.secureCluster (clusterOf j) then
          s.endWith k { c with phase := 3 } ⟨stWorld, 0, 0, windowVA j 0, false, false⟩
        else if 16 ≤ box.length then s.endWith k { c with phase := 3 } (.of stNoSpace 0)
        else
          let d : Descriptor := ⟨c.own.part, k, c.id, c.messageLen, s.now⟩
          pairMailbox ((s.setCoreOf c.own.part j (co.setMailbox c.mailbox (box ++ [d]))).setCmd k { c with phase := 1 })
            c.own.part j c.mailbox

/-- The acceptance of a `grecv`: it pairs at once with a descriptor that is there. -/
def acceptReceive (s : State) (w : Site) (a : Accept) : Eff State := do
  let t ← acceptCommand s w a
  let c := newCmd s w
  return pairMailbox t c.own.part s.here c.mailbox

/-- The paired `gsend` ends with its own verdict, and the `grecv` with OK or FAILED (R322).
DEDUCED, log entry 63. -/
def endPair (s : State) (k : Nat) (c : Cmd) (j : Nat) (x : Cmd) (v : Verdict) : Engine :=
  .done (s.endWith j x v) (if v.status = stOk then { v with value := x.messageLen } else .of stFailed 0)

/-- A paired message moves from SRC to BUF word by word, and both commands complete (R322): a fault of one side's extent
is that command's status, and the other then fails. The source is read in the name of the `gsend`, command `x` of core
`j`.
DEDUCED, log entry 64. -/
def deliver (s : State) (k : Nat) (c : Cmd) (j : Nat) (x : Cmd) : Engine :=
  match c.job with
  | some b =>
    if b.ended then endPair s k c j x b.result
    else if s.jobLate j x { b with wr := [] } then endPair s k c j x (.of stFailed 0)
    else .wait (s.jobStep j x k c b true)
  | none =>
    if c.messageLen < x.messageLen then
      .done (s.endWith j x (.of stFormat 0)) ⟨stFormat, x.messageLen, 0, 0, false, true⟩
    else s.translated j x (messageRuns x) fun s x =>
      let a := s.planOf j x .load (messageRuns x)
      let b := s.planOf k c .store (runs c.addr x.messageLen)
      match s.absentIn a.pieces, s.refusedIn b.pieces with
      | y :: r, _ => .wait (s.waitPages x (y :: r))
      | [], some va => .done (s.endWith j x (.of stFailed 0)) ⟨stWorld, 0, 0, va, false, false⟩
      | [], none =>
        let n := lenOf a.pieces
        (((s.touchPages a.pieces).noteFrames j x.own a.pieces).keepOrder x.own.part j x.ord none).beginJob k c
          ⟨partsFrom 1 0 (packetsOf false a.pieces), partsFrom 1 0 (cutTo n b.pieces), List.replicate n (0, false), false,
            none, .moved a.fault none x.messageLen, none, [], false⟩

/-- `grecv` goes on with the `gsend` that it is paired with; it fails when that one has gone.
DEDUCED, log entry 63. -/
def runReceive (s : State) (k : Nat) (c : Cmd) : Engine :=
  match c.phase, c.idx with
  | 1, [j, p] =>
    match s.commandOf p.toNat j.toNat c.value.toNat with
    | none => .done s (.of stFailed 0)
    | some x => if x.status.isSome then .done s (.of stFailed 0) else deliver s k c j.toNat x
  | _, _ => s.runJob k c (fun _ => .wait s) fun _ => s

/-- `gsend` ends as its mailbox or its receiver has decided. -/
def runSend (s : State) (k : Nat) (c : Cmd) : Engine := s.runJob k c (fun _ => .wait s) fun _ => s

/-- A descriptor that has not been paired a millisecond after its arrival is withdrawn. -/
def withdrawDescriptor (s : State) (k id : Nat) : State :=
  match s.commandAt k id with
  | none => s
  | some c =>
    if !(c.slotG && c.op == 0x10 && c.phase == 1) then s
    else match receiverOf s k c with
      | none => s
      | some j =>
        let co := s.coreOf c.own.part j
        let box := getReg co.mbox c.mailbox []
        if box.any (fun d => d.cmd == id && d.core == k && decide (oneMs ≤ s.passed d.since)) then
          (s.setCoreOf c.own.part j (co.setMailbox c.mailbox
            (box.filter fun d => !(d.cmd == id && d.core == k)))).endWith k { c with phase := 3 } (.of stTimeout 0)
        else s

/-- A `grecv` that has not been paired a millisecond after its acceptance times out. -/
def timeoutReceive (s : State) (k id : Nat) : State :=
  match s.commandAt k id with
  | none => s
  | some c =>
    if c.slotG && c.op == 0x11 && c.status.isNone && c.phase == 0 && decide (oneMs ≤ s.passed c.since)
      then s.endWith k { c with phase := 3 } (.of stTimeout 0) else s

/-! ## Remote enqueue (R323) -/

/-- The layout of `genq` is within its limits: a queue handle and a record in the core's own scratchpad.
DEDUCED, log entry 67. -/
def goodEnqueue (s : State) (c : Cmd) : Bool :=
  let a := c.stf 1 0 64
  c.stf 0 0 24 == 0 && decide (c.stf 0 53 3 ≤ 4) && s.member (chipOf s.here) (c.stf 0 56 8)
    && word256 c.stg 2 == 0 && a % 64 == 0
    && (match s.spadWindow (chipOf s.here) (word256 c.stg 1) 64 with
      | some (j, _) => j == s.here
      | none => false)

/-- The record of a `genq`. -/
def recordRuns (c : Cmd) : List (Nat × Nat) := runs (c.stf 1 0 64) 64

/-- Eight words from 64 bytes. -/
def wordsOf (d : Data) : Vector W64 8 :=
  Vector.ofFn fun i => BitVec.ofNat 64 (ofBytes ((slice d (8 * i.val) 8).map (·.1)))

/-- `genq`: sent once every access of earlier groups has performed at domain scope, and written as one record (R323,
R345). -/
def runEnqueue (s : State) (k : Nat) (c : Cmd) : Engine :=
  if !s.performedBefore c.own.part k c.ord 5 then .wait s
  else
    let s := s.promiseBefore c.own.part k c.ord 5
    let ps := (s.planOf k c .load (recordRuns c)).pieces
    let d := s.readPieces k c ps
    let cl := c.stf 0 52 12
    let q := c.stf 0 40 12
    if !s.queueV cl q || s.queueGen cl q != c.stf 0 24 16 then .done s (.of stStale 0)
    else if d.any (·.2) || !s.validRecord (chipOfCluster cl) (wordsOf d) then .done s (.of stFormat 0)
    else match s.arrive cl q (wordsOf d) none with
      | .taken t => .done t (.of stOk 64)
      | .stale => .done s (.of stStale 0)
      | .noSpace => .done s (.of stNoSpace 0)
      | .wait t => .wait t

/-! ## The allocator (R326, R327, R418) -/

/-- Where the entry of an arena of a context lies (R418). -/
def State.arenaEntry (s : State) (p : Nat) (ctx : BitVec 12) (a : Nat) : Nat :=
  field (s.part p).arenatab 12 44 * 2 ^ 12 + 256 * ctx.toNat + 16 * a

/-- An arena of a context: base, length and granule; none when it is unconfigured (R418). -/
def State.arena (s : State) (p : Nat) (ctx : BitVec 12) (a : Nat) : Option (Nat × Nat × Nat) :=
  let at_ := s.arenaEntry p ctx a
  let w0 := s.mem64 at_
  let w1 := s.mem64 (at_ + 8)
  let g := 2 ^ (field w1 60 4 + 6)
  let base := field w0 0 57
  let len := field w1 0 57
  if len = 0 || 10 < field w1 60 4 || base % g != 0 || len % g != 0 || field w0 57 7 != 0 || field w1 57 3 != 0
  then none else some (base, len, g)

/-- The live allocations of an arena. -/
def State.liveIn (s : State) (p : Nat) (ctx : BitVec 12) (a : Nat) : List Alloc :=
  (s.part p).allocs.filter fun x => x.ctx == ctx && x.arena.toNat == a

/-- The lowest granule-aligned address of a free run: the arena's first granule, or the first one behind an allocation. -/
def lowestRun (base len g size : Nat) (live : List Alloc) : Option Nat :=
  (((base + g - 1) / g * g :: live.map fun x => (x.addr + x.len + g - 1) / g * g).filter fun a =>
      decide (base ≤ a ∧ a + size ≤ base + len) && live.all fun x => !overlap a size x.addr x.len).foldl
    (fun best a => match best with
      | none => some a
      | some b => some (min a b)) none

/-- The tag of a retractable allocation: the block's launch and index (R327). -/
def allocTag (s : State) (retractable : Bool) : Option (Nat × W64) :=
  if !retractable then none
  else match (s.ownerOf s.here).launch with
    | some l => some (l, (s.ownerOf s.here).index)
    | none => none

/-- The allocator's answer to a request: the address and the state after it, or none when no run fits.
DEDUCED, log entry 127. -/
def allocate (s : State) (a : Nat) (size : Nat) (retractable : Bool) : Option (Nat × State) :=
  if size = 0 then some (0, s)
  else
    let p := s.partOf s.here
    let ctx := s.me.ctx
    match s.arena p ctx a with
    | none => none
    | some (base, len, g) =>
      let n := (size + g - 1) / g * g
      match lowestRun base len g n (s.liveIn p ctx a) with
      | none => none
      | some v => some (v, s.setPart p { s.part p with
          allocs := (s.part p).allocs ++ [⟨ctx, BitVec.ofNat 4 a, v, n, allocTag s retractable⟩] })

/-- The allocator can read an arena's entry: its page is in tier 0, and is waited for otherwise (R17).
DESIGN CHOICE, log entry 138. -/
def arenaReady (s : State) (w : Site) (a : Nat) : Eff Unit :=
  match s.absentPage (s.arenaEntry (s.partOf s.here) s.me.ctx a) 16 with
  | none => .ok ()
  | some p =>
    match s.me.pageFault with
    | some f => if f.1 = p then raiseAnswer s w cTierUnavailable 0 0 else .error (.absent p State.tableAttr)
    | none => .error (.absent p State.tableAttr)

/-- `galloc` and `galloc.r`: P reports whether no run fits. -/
def allocPlain (s : State) (w : Site) (a d sr : Nat) (p : BitVec 4) (retractable : Bool) : Eff State := do
  ready (available s (BitVec.ofNat 6 sr) && writable s (BitVec.ofNat 6 d))
  let x ← operand s w (BitVec.ofNat 6 sr)
  arenaReady s w a
  match allocate s a x.toNat retractable with
  | some (v, t) => return t.setMe ((t.me.setS (BitVec.ofNat 6 d) (known (BitVec.ofNat 64 v))).setP p false)
  | none => return s.setMe ((s.me.setS (BitVec.ofNat 6 d) (known 0)).setP p true)

/-- `galloc.f` and `galloc.f.r`: failure raises ALLOC_EXHAUSTED, unless another access of the group has performed
already: the group then waits for a free run (R440).
DESIGN CHOICE, log entry 139. -/
def allocTrap (s : State) (w : Site) (a d sr : Nat) (retractable : Bool) : Eff State := do
  ready (available s (BitVec.ofNat 6 sr) && writable s (BitVec.ofNat 6 d))
  let x ← operand s w (BitVec.ofNat 6 sr)
  arenaReady s w a
  match allocate s a x.toNat retractable with
  | some (v, t) => return t.setMe (t.me.setS (BitVec.ofNat 6 d) (known (BitVec.ofNat 64 v)))
  | none => if s.me.performed then hold else .error (.trap .allocator (causeAt s w cAllocExhausted a x))

/-- `gfree`. -/
def freeAt (s : State) (w : Site) (a sr : Nat) (p : BitVec 4) : Eff State := do
  ready (available s (BitVec.ofNat 6 sr))
  let x ← operand s w (BitVec.ofNat 6 sr)
  let pt := s.partOf s.here
  let hit := fun (y : Alloc) => y.ctx == s.me.ctx && y.arena.toNat == a && y.addr == x.toNat
  let live := (s.part pt).allocs.any hit
  let t := s.setPart pt { s.part pt with allocs := (s.part pt).allocs.filter fun y => !hit y }
  return t.setMe (t.me.setP p (!live))

/-- `gretract`: the launch's retractable allocations from a block index on. -/
def retractFrom (s : State) (w : Site) (sr : Nat) : Eff State := do
  ready (available s (BitVec.ofNat 6 sr))
  let x ← operand s w (BitVec.ofNat 6 sr)
  match (s.ownerOf s.here).launch with
  | some l => return s.freeTagged (s.partOf s.here) l fun i => decide (x.toNat ≤ i.toNat)
  | none => return s

end Sys2Proof.Machine
end

