-- ==== Sys2Proof/Machine/Launch.lean ====
section
/-! DEFINITION. Kernel launches (R200, R324, R325), crews (R356), and speculative shapes: the ephemeris,
resolution, squash and retraction (R372 to R376). -/
namespace Sys2Proof.Machine

/-! ## Inputs that an engine reads -/

/-- What a read of an input comes to. -/
inductive Input where
  | data (s : State) (d : Data)
  | wait (s : State)
  | fault (v : Verdict)

/-- Bytes that a command uses, rather than moves: they are read word by word, and absent pages are awaited (R42). -/
def State.readInput (s : State) (k : Nat) (c : Cmd) (rs : List (Nat × Nat)) : Input :=
  match s.loadRuns k c rs false (fun co _ => co) with
  | .wait t => .wait t
  | .done t v => if v.status = stOk then .data t ((c.job.map (·.buf)).getD []) else .fault v

/-- The agent as which an orrery reads and takes words: one of its cluster that is no core. -/
def orreryAgent (cl : Nat) : Nat := coreAt cl 255

/-- A command in whose name an orrery, or the device for itself, reads: the number is that of no command. -/
def deviceCmd (s : State) (o : Owner) (data : Data) : Cmd :=
  { id := 2 ^ 64, slotG := true, word := 0, stg := 0, pair := 0, own := o, ord := 0, rd := [], wr := [], before := []
    data := data, busy := [], status := none, tier := false, value := 0, fail := 0, kind := 0, phase := 0, idx := []
    since := s.now, src := [], dst := [], tlb := [], miss := [], job := none, seen := 0 }

/-- The verdict on a page that a cluster's orrery waited for and could not have (R42). -/
def lostPage (s : State) (cl p va : Nat) : Option Verdict :=
  ((s.cluster cl).olost.find? fun y => y.1 == p).map fun y => ⟨y.2, 0, 0, va, true, false⟩

/-- Bytes that a cluster's orrery reads in a single step: its misses go to the cluster's walkers (R60, R61), absent pages
are awaited (R17), and so is what counts as performed for it (R334). -/
def State.readNow (s : State) (cl : Nat) (o : Owner) (rs : List (Nat × Nat)) : Input :=
  let k := orreryAgent cl
  match s.seekRuns k (.orrery cl) o (s.cluster cl).omiss rs with
  | some t => .wait t
  | none =>
    let a := s.planFor k o .load (s.cluster cl).omiss rs
    match s.absentIn a.pieces with
    | x :: r => match (x :: r).findSome? fun p => lostPage s cl p.1 p.2.2 with
      | some v => .fault v
      | none => .wait (s.waitPagesFor (.orrery cl) (x :: r))
    | [] =>
      if s.promised o.part k 0 0 (a.pieces.map fun p => (p.target, p.len)) false then .wait s
      else
        match a.fault, s.refusedIn a.pieces with
        | none, none =>
          let t := a.pieces.foldl (fun s p => s.servePiece p) ((s.touchPages a.pieces).noteFrames k o a.pieces)
          .data t (s.readPieces k (deviceCmd s o []) a.pieces)
        | f, r => .fault (.moved f r 0)

/-! ## The descriptor (R200) -/

/-- A shape: X, Y and Z. -/
abbrev Dims := Nat × Nat × Nat

/-- The dimensions in a descriptor's word 1 or a shape word.
DEDUCED, log entry 66. -/
def dimsOf (w : W64) : Dims := (field w 0 16, field w 16 12, field w 28 8)
/-- A shape clamped per dimension (R372). -/
def clampTo (a b : Dims) : Dims := (min a.1 b.1, min a.2.1 b.2.1, min a.2.2 b.2.2)
/-- The greater of two shapes per dimension. -/
def maxDims (a b : Dims) : Dims := (max a.1 b.1, max a.2.1 b.2.1, max a.2.2 b.2.2)
/-- A block lies in a shape. -/
def inside (b t : Dims) : Bool := decide (b.1 < t.1 ∧ b.2.1 < t.2.1 ∧ b.2.2 < t.2.2)
/-- Blocks of a shape. -/
def volume (t : Dims) : Nat := t.1 * t.2.1 * t.2.2
/-- The index of a block: s2 (R325, R373). -/
def indexIn (dims b : Dims) : Nat := b.1 + dims.1 * (b.2.1 + dims.2.1 * b.2.2)
/-- The blocks of a shape in ascending order of their index. -/
def blocksOf (t : Dims) : List Dims :=
  (List.range t.2.2).flatMap fun z => (List.range t.2.1).flatMap fun y => (List.range t.1).map fun x => (x, y, z)

/-- The four words of a descriptor are within their limits.
DEDUCED, log entry 73. -/
def goodDescriptor (w0 w1 w2 w3 : W64) : Bool :=
  field w0 57 7 == 0 && field w0 0 2 == 0 && field w1 0 16 != 0 && field w1 16 12 != 0 && field w1 28 8 != 0
    && decide (1 ≤ field w1 36 5 ∧ field w1 36 5 ≤ 16) && field w1 41 23 == 0 && field w2 48 16 == 0
    && field w3 32 32 == 0

/-! ## Launches (R324, R325) -/

/-- What is asked of a launch: who issues it, and the fields of R324. -/
structure LaunchAsk where
  cluster : Nat
  core : Nat
  cmd : Nat
  node : Option Nat
  own : Owner
  pmode : Bool
  desc : Nat
  arg : W64
  shapew : Nat
  cmask : BitVec 10
  since : BitVec 48
  deriving DecidableEq, Repr

/-- The clusters that a CMASK names on a chip, in the order of its bits. -/
def maskClusters (ch : Nat) (m : BitVec 10) : List Nat :=
  ((List.range 10).filter fun i => m.getLsbD i).map (ch * 16 + ·)

/-- The launch queue of a context on a cluster: the lowest of those marked (R358). -/
def State.launchQueue (s : State) (cl part : Nat) (ctx : BitVec 12) : Option Nat :=
  ((s.cluster cl).queues.find? fun q => bit q.2[0] 63 && bit q.2[0] 61
    && chipOfCluster cl * 64 + field q.2[0] 32 8 == part && field q.2[0] 44 12 == ctx.toNat).map (·.1)

/-- The lowest free crew id of a partition (R356, R357).
DEDUCED, log entry 68. -/
def State.freeCrew (s : State) (p : Nat) : Option Nat :=
  (List.range (field (s.part p).crewcfg 40 24)).find? fun n =>
    n != 0 && !bit (s.mem64 (s.crewMA p n + 8)) 0

/-- The record of a block and stage (R325, R352). -/
def launchRecord (l : Launch) (spec : Bool) (b : Dims) (stage : Nat) : Vector W64 8 :=
  #v[l.entry,
    BitVec.ofNat 64 (l.crew.toNat * 2 ^ 40 + b.1 * 2 ^ 24 + b.2.1 * 2 ^ 12 + b.2.2 * 2 ^ 4 + stage),
    BitVec.ofNat 64 (l.deadline.toNat * 2 ^ 16 + ofBool spec),
    BitVec.ofNat 64 (l.budget.toNat * 2 ^ 32), 0, 0, l.arg, BitVec.ofNat 64 (indexIn l.dims b)]

/-- The records of some blocks with the queue each goes to: block b to the (b mod m)-th cluster of CMASK. -/
def launchRecords (s : State) (l : Launch) (spec : Bool) (bs : List Dims) : List (Nat × Vector W64 8) :=
  let cls := maskClusters (chipOfCluster l.cluster) l.cmask
  bs.flatMap fun b =>
    let cl := cls.getD (indexIn l.dims b % cls.length) 0
    let q := (s.launchQueue cl l.part l.ctx).getD 0
    (List.range l.stages).map fun g => (cl * 4096 + q, launchRecord l spec b g)

/-! ## The ephemeris (R372) -/

/-- An entry used or made, the least recently used giving way. -/
def touchEphemeris (now desc : Nat) (es : List Ephemeris) : List Ephemeris :=
  if es.any fun e => e.desc == desc then es.map fun e => if e.desc = desc then { e with used := now } else e
  else
    let oldest := es.foldl (fun (m : Nat) e => min m e.used) now
    (if es.length < 64 then es else es.filter fun e => e.used != oldest) ++ [⟨desc, [], now⟩]

/-- The predicted shape of a kernel (R372). -/
def predict (es : List Ephemeris) (desc : Nat) (dims : Dims) : Dims :=
  match es.find? fun e => e.desc == desc with
  | some e => if e.shapes.isEmpty then dims else clampTo (e.shapes.foldl maxDims (0, 0, 0)) dims
  | none => dims

namespace State

/-- A cluster's ephemeris used for a kernel. -/
def useEphemeris (s : State) (cl desc : Nat) : State :=
  let c := s.cluster cl
  { s with fresh := s.fresh + 1 }.setCluster cl { c with eph := touchEphemeris s.fresh desc c.eph }

/-- A true shape recorded, before clamping (R372). -/
def recordShape (s : State) (cl desc : Nat) (t : Dims) : State :=
  let s := s.useEphemeris cl desc
  let c := s.cluster cl
  s.setCluster cl { c with eph := c.eph.map fun e =>
    if e.desc = desc then { e with shapes := (t :: e.shapes).take 4 } else e }

end State

/-! ## Squash and resolution (R374, R375) -/

/-- A launch of the device changed. -/
def State.setLaunch (s : State) (l : Launch) : State :=
  { s with launches := s.launches.map fun x => if x.id = l.id then l else x }

/-- The block of a record. -/
def recBlock (w : Vector W64 8) : Dims := (field w[1] 24 16, field w[1] 12 12, field w[1] 4 8)

/-- The owner that a record of a launch's commands carry. -/
def ownerOfRec (l : Launch) (r : Rec) : Owner :=
  ⟨r.uid, l.crew, some l.id, BitVec.ofNat 64 (indexIn l.dims (recBlock r.words)), l.part, l.ctx, l.ns, false⟩

/-- A record that is not running is squashed: it leaves the store, its held causes are lost, and LIVE falls once
its commands have completed (R375). -/
def squashRec (l : Launch) (s : State) (x : Nat × Rec) : State :=
  let s := (s.dropRec x.1 x.2.uid).loseCauses l.part l.crew.toNat x.2.held.length
  { s with dying := s.dying ++ [ownerOfRec l x.2] }.endOfBlock (ownerOfRec l x.2)

/-- A core's block is squashed when it is one of those. -/
def Core.squash (l : Launch) (t : Dims) (c : Core) : Core :=
  match c.blk with
  | some b =>
    if b.rcd.launch == some l.id && !inside (recBlock b.rcd.words) t
    then { c with blk := some { b with squashed := true } } else c
  | none => c

/-- The blocks of a launch outside a shape are squashed. -/
def squashOutside (s : State) (l : Launch) (t : Dims) : State :=
  let held := s.clusters.flatMap fun c => (c.2.store.filter fun r =>
    r.launch == some l.id && !inside (recBlock r.words) t).map fun r => (c.1, r)
  let s := held.foldl (squashRec l) s
  let s := { s with
    cores := s.cores.map fun (c : Nat × Core) => (c.1, c.2.squash l t)
    parts := s.parts.map fun (p : Nat × Partition) =>
      (p.1, { p.2 with image := p.2.image.map fun (c : Nat × Core) => (c.1, c.2.squash l t) }) }
  s.settle

/-- A launch that waits for its shape resolves to a true shape (R374): the blocks outside it are squashed, the missing
ones are built, and the crew's OPEN is cleared.
DEDUCED, log entry 65. -/
def resolveTo (s : State) (id : Nat) (t : Dims) : State :=
  match s.launches.find? fun l => l.id == id with
  | none => s
  | some l =>
    let shape := clampTo t l.dims
    let s := squashOutside (s.recordShape l.cluster l.desc t) l shape
    let kept := l.pending.filter fun e => inside (recBlock e.2) shape
    let l' := { l with shape := shape, openShape := false, word := none, clamped := decide (shape ≠ t) }
    let tail := launchRecords s l' false ((blocksOf shape).filter fun b => !inside b l.shape)
    let gone := ((blocksOf l.shape).filter fun b => !inside b shape).map fun b =>
      BitVec.ofNat 64 (indexIn l.dims b)
    let crew := l.crew.toNat
    let s := ((s.editCrew l.part crew 1 (.raise 32 32 tail.length) false).editCrew l.part crew 1 (.set 1 1 0) false).lowerLive
      l.part crew (l.pending.length - kept.length)
    s.setLaunch { l' with pending := kept ++ tail, retract := l.retract ++ gone }

/-! ## Building a launch -/

/-- What an attempt to launch comes to. -/
inductive Launched where
  | made (s : State)
  | wait (s : State)
  | refused (v : Verdict)

/-- The crew entry of a new launch (R356), whose page is ready. -/
def State.openCrew (s : State) (p crew live : Nat) (open_ : Bool) (budget : BitVec 32) (desc : Nat) : State :=
  s.writeMem (s.crewMA p crew) (clean (toBytes 8 0 ++ toBytes 8 (live * 2 ^ 32 + ofBool open_ * 2 + 1)
    ++ toBytes 8 budget.toNat ++ toBytes 8 desc))

/-- Who waits for the pages of a launch (R42). -/
def LaunchAsk.seeker (a : LaunchAsk) : Seeker := if a.node.isSome then .orrery a.cluster else .command a.cmd

/-- A crew id for a launch, with the page of its entry ready: a page of the crew table outside tier 0 is waited for (R17),
as is a change of the entry's page that waits; a page that cannot be had ends the launch (R42). -/
inductive CrewId where
  | ready (s : State) (crew : Nat)
  | wait (s : State)
  | refused (v : Verdict)

/-- The crew id that a launch takes. -/
def takeCrew (s : State) (a : LaunchAsk) : CrewId :=
  match s.absentPage (s.crewMA a.own.part 0) (32 * field (s.part a.own.part).crewcfg 40 24), s.freeCrew a.own.part with
  | some p, _ => match (if a.node.isSome then lostPage s a.cluster p 0 else none) with
    | some v => .refused v
    | none => .wait (s.waitPagesFor a.seeker [(p, State.tableAttr, p * 65536)])
  | none, none => .refused (.of stNoSpace 0)
  | none, some crew =>
    if s.editing (pageOf (s.crewMA a.own.part crew)) then .wait s
    else match s.readyTable (s.crewMA a.own.part crew) with
      | .now t => .ready t crew
      | .wait t => .wait t
      | .noFrame => .refused (.noFrame 0)

/-- The launch is made at a shape: its crew, its records, and what remains to be placed. -/
def makeLaunch (s : State) (a : LaunchAsk) (w : Vector W64 4) (shape : Dims) (word : Option (Nat × Nat))
    (clamped : Bool) : Launched :=
  match takeCrew s a with
  | .wait t => .wait t
  | .refused v => .refused v
  | .ready s crew =>
    let d := field w[2] 0 48
    let deadline := if d = noDeadline || noDeadline ≤ a.since.toNat + d then noDeadline else a.since.toNat + d
    let l : Launch :=
      { id := s.fresh, cluster := a.cluster, core := a.core, cmd := a.cmd, node := a.node, part := a.own.part
        ctx := a.own.ctx, ns := a.own.ns, crew := BitVec.ofNat 24 crew, desc := a.desc, dims := dimsOf w[1]
        shape := shape, stages := field w[1] 36 5, entry := w[0], deadline := BitVec.ofNat 48 deadline
        budget := BitVec.ofNat 32 (field w[3] 0 32), arg := a.arg, cmask := a.cmask, word := word
        openShape := word.isSome, pending := [], failed := false, clamped := clamped, reported := false
        retract := [] }
    let rs := launchRecords s l word.isSome (blocksOf shape)
    let s := s.openCrew a.own.part crew rs.length word.isSome l.budget a.desc
    .made { s with fresh := s.fresh + 1, launches := s.launches ++ [{ l with pending := rs }] }

/-- A `glaunch` that has not made its launch yet, and whose shape word has been found empty. -/
def Cmd.awaitsShape (c : Cmd) : Bool :=
  c.slotG && c.op == 0x14 && c.phase == 0 && c.status.isNone && c.data.isEmpty && c.idx.isEmpty && c.stf 0 63 1 == 1

/-- The launches of a cluster that wait on shape words, those accepted and not yet built among them (R373). -/
def shapeWaits (s : State) (cl : Nat) : Nat :=
  (s.launches.filter fun l => l.cluster == cl && l.openShape).length
    + ((s.cores ++ s.parts.flatMap fun p => p.2.image).filter fun c => clusterOf c.1 == cl).foldl
        (fun n c => n + (c.2.xq.filter Cmd.awaitsShape).length) 0

/-- The shape word as the acceptance of its `glaunch` found it, when it was full (R373). -/
def shapeThen (c : Cmd) : Option W64 :=
  if c.data = [] then none else some (BitVec.ofNat 64 (ofBytes (c.data.map (·.1))))

/-- A launch made, with something done then. -/
def Launched.andThen (x : Launched) (f : State → State) : Launched :=
  match x with
  | .made t => .made (f t)
  | .wait t => .wait t
  | .refused v => .refused v

/-- A launch from its descriptor, as far as it has been read (R325); under PMODE 1 from its shape word or the prediction
(R372, R373), which takes or records the shape once the launch is made. An orrery's launch with an empty word waits while 64
of its cluster do. -/
def buildLaunch (s : State) (k : Nat) (c : Cmd) (a : LaunchAsk) (desc : Input) : Launched :=
  match desc with
  | .wait t => .wait t
  | .fault v => .refused v
  | .data s d =>
    let w : Vector W64 4 := Vector.ofFn fun i => BitVec.ofNat 64 (ofBytes ((slice d (8 * i.val) 8).map (·.1)))
    let dims := dimsOf w[1]
    if d.any (·.2) || !goodDescriptor w[0] w[1] w[2] w[3]
        || (maskClusters (chipOfCluster a.cluster) a.cmask).any
          (fun cl => (s.launchQueue cl a.own.part a.own.ctx).isNone)
    then .refused (.of stFormat 0)
    else if !a.pmode then makeLaunch s a w dims none false
    else
      match s.window (chipOf k) (BitVec.ofNat 64 a.shapew) 8 with
      | none => .refused ⟨stXlate, 0, kSramwin, a.shapew, false, false⟩
      | some (j, off) =>
        if a.own.ns && s.secureCluster (clusterOf j) then .refused ⟨stWorld, 0, 0, a.shapew, false, false⟩
        else
          match shapeThen c with
          | some v =>
            let t := dimsOf v
            let shape := clampTo t dims
            (makeLaunch s a w shape none (decide (shape ≠ t))).andThen fun u => u.recordShape a.cluster a.desc t
          | none =>
            if a.node.isSome && 64 ≤ shapeWaits s a.cluster then .wait s
            else
              (makeLaunch s a w (predict (s.cluster a.cluster).eph a.desc dims) (some (j, off / 8)) false).andThen fun t =>
                let u := t.useEphemeris a.cluster a.desc
                match c.idx, t.launches.getLast? with
                | [lo, hi], some l => resolveTo u l.id (dimsOf (hi ++ lo))
                | _, _ => u

/-- The layout of `glaunch` is within its limits (R324). -/
def goodLaunch (s : State) (c : Cmd) : Bool :=
  c.stf 0 57 6 == 0 && c.prf 0 10 54 == 0 && c.prf 0 0 10 != 0
    && (if c.stf 0 63 1 = 1 then
          c.stf 2 57 7 == 0 && c.stf 2 56 1 == 1 && c.stf 2 0 3 == 0
            && (s.window (chipOf s.here) (word256 c.stg 2) 8).isSome
        else word256 c.stg 2 == 0)

/-- What a `glaunch` asks. -/
def askOf (k : Nat) (c : Cmd) : LaunchAsk :=
  ⟨clusterOf k, k, c.id, none, c.own, c.stf 0 63 1 == 1, c.addr, word256 c.stg 1, c.stf 2 0 57,
    BitVec.ofNat 10 (c.prf 0 0 10), c.since⟩

/-- `glaunch` completes when every record has been enqueued and its shape is known (R325, R374). Its records are enqueued
once what the groups before it have sent has performed at domain scope (R338). -/
def runLaunch (s : State) (k : Nat) (c : Cmd) : Engine :=
  if c.phase = 0 then
    match buildLaunch s k c (askOf k c) (s.readInput k c (runs c.addr 32)) with
    | .wait t => .wait t
    | .refused v => .done s v
    | .made t =>
      if !s.performedBefore c.own.part k c.ord 5 then .wait s
      else .wait ((t.promiseBefore c.own.part k c.ord 5).setCmd k { c with phase := 1 })
  else match s.launches.find? fun l => l.core == k && l.cmd == c.id && l.node.isNone with
    | none => .done s (.of stFailed 0)
    | some l =>
      if !l.pending.isEmpty || l.openShape then .wait s
      else
        let s := s.setLaunch { l with reported := true }
        let n := volume l.shape
        .done s (if l.failed then .of stFailed 0
          else if l.clamped then ⟨stFormat, n, 0, 0, false, true⟩ else .of stOk n)

/-! ## Placing records (R325) -/

/-- A held record of a launch is taken from it. -/
def Launch.placed (l : Launch) (e : Nat × Vector W64 8) : Launch := { l with pending := l.pending.erase e }

/-- The first record for a cluster that its queue can take is placed; one whose queue is gone is discarded. -/
def placeHeld (s : State) (cl : Nat) : List Launch → State
  | [] => s
  | l :: r =>
    match l.pending.find? fun e => e.1 / 4096 == cl with
    | none => placeHeld s cl r
    | some e =>
      match s.arrive cl (e.1 % 4096) e.2 (some l.id) with
      | .taken t => t.setLaunch (l.placed e)
      | .stale => ((s.dropped cl 1).lowerLive l.part l.crew.toNat 1).setLaunch
          { l.placed e with failed := true }
      | .noSpace => placeHeld s cl r
      | .wait t => placeHeld t cl r

/-! ## Resolution and retraction (R374, R376) -/

/-- The word of an open launch is full. -/
def wordFull (s : State) (l : Launch) : Bool :=
  match l.word with
  | some (j, w) => l.openShape && (s.bankWord l.part j w).full
  | none => false

/-- A launch that the orrery of a cluster has made runs on without it. -/
def Launch.detach (cl : Nat) (l : Launch) : Launch :=
  if l.cluster = cl && l.node.isSome then { l with node := none, reported := true } else l

/-- The orrery of a cluster takes a fault at a node: it fires nothing further, and the launches that it has made
run on without it (R371).
DEDUCED, log entry 96. -/
def State.orreryFault (s : State) (cl node code : Nat) : State :=
  let c := s.cluster cl
  let s := s.setCluster cl { c with
    signals := []
    nodes := c.nodes.map fun n => { n with waiting := 0 }
    orrctl := setField (setField (setField c.orrctl 62 2 3) 52 10 node) 48 4 code }
  { s with launches := s.launches.map (Launch.detach cl) }.interrupt (chipOfCluster cl)

/-- A launch that an orrery has made with a shape that was clamped has status FORMAT, which is the fault of its node
(R370, R373). -/
def clampFault (s : State) (id : Nat) : State :=
  match s.launches.find? fun l => l.id == id with
  | some l => match l.node with
    | some n => if l.clamped then s.orreryFault l.cluster n 1 else s
    | none => s
  | none => s

/-- A launch resolves when its shape word has become full (R374). -/
def resolveShape (s : State) (id : Nat) : State :=
  match s.launches.find? fun l => l.id == id with
  | none => s
  | some l =>
    match l.word with
    | none => s
    | some (j, w) =>
      if !wordFull s l then s
      else
        clampFault (resolveTo s id (dimsOf (s.bankWord l.part j w).data)) id

/-- A `glaunch` that has not made its launch yet, and whose shape word was empty when it was accepted, takes note of
the first value that the word is full with (R374). -/
def Cmd.noteShape (s : State) (k : Nat) (c : Cmd) : Cmd :=
  if c.awaitsShape then
    match s.window (chipOf k) (BitVec.ofNat 64 (c.stf 2 0 57)) 8 with
    | some (j, off) =>
      let x := s.bankWord c.own.part j (off / 8)
      if x.full then { c with idx := [x.data.setWidth 32, (x.data >>> 32).setWidth 32] } else c
    | none => c
  else c

/-- Every accepted command that waits for its shape word looks at it, those of the images of partitions that are out among
them. -/
def State.noteShapes (s : State) : State :=
  let f := fun (x : Nat × Core) => (x.1, { x.2 with xq := x.2.xq.map (Cmd.noteShape s x.1) })
  if (s.cores ++ s.parts.flatMap fun p => p.2.image).all fun x => x.2.xq.all fun c => !c.awaitsShape then s
  else { s with
    cores := s.cores.map f
    parts := s.parts.map fun (p : Nat × Partition) => (p.1, { p.2 with image := p.2.image.map f }) }

/-- A block of a launch with one of some indices is still in the store, on a core or has commands of any engine or accesses
under way. -/
def blocksRemain (s : State) (l : Launch) : Bool :=
  let hit := fun (w : Vector W64 8) => l.retract.contains (BitVec.ofNat 64 (indexIn l.dims (recBlock w)))
  let mine := fun (o : Owner) => o.launch == some l.id && l.retract.contains o.index
  let core := fun (c : Core) => (match c.blk with
      | some b => b.rcd.launch == some l.id && hit b.rcd.words
      | none => false) || c.xq.any (fun x => mine x.own) || c.fq.any (fun x => mine x.own) || c.mq.any fun x => mine x.own
  s.clusters.any (fun c => c.2.store.any fun r => r.launch == some l.id && hit r.words)
    || s.cores.any (fun c => core c.2) || s.parts.any (fun p => p.2.image.any fun c => core c.2)
    || s.accs.any fun a => mine a.own && a.undone

/-- The retractable allocations of squashed blocks are freed once none of them is left (R376).
DEDUCED, log entry 126. -/
def retractLaunch (s : State) (id : Nat) : State :=
  match s.launches.find? fun l => l.id == id with
  | none => s
  | some l =>
    if l.retract.isEmpty || blocksRemain s l then s
    else (s.freeTagged l.part l.id fun i => l.retract.contains i).setLaunch { l with retract := [] }

/-! ## Crews (R356, R219, R370) -/

/-- A command of a crew has still to complete, or an access to perform (R343, R356). -/
def crewCommands (s : State) (p : Nat) (crew : BitVec 24) : Bool :=
  let mine := fun (o : Owner) => o.part == p && o.crew == crew
  let core := fun (c : Core) => c.xq.any (fun x => mine x.own) || c.fq.any fun x => mine x.own
  s.cores.any (fun c => core c.2) || s.parts.any (fun p => p.2.image.any fun c => core c.2)
    || s.accs.any fun a => mine a.own && a.undone

/-- The shape of a crew is known and its commands and launches are done. -/
def crewQuiet (s : State) (p crew : Nat) : Bool :=
  crew != 0 && decide (crew < field (s.part p).crewcfg 40 24) && !crewCommands s p (BitVec.ofNat 24 crew)
    && s.launches.all fun l => !(l.part == p && l.crew.toNat == crew)
      || (l.pending.isEmpty && (l.reported || l.node.isSome) && l.retract.isEmpty)

/-- A crew is complete: nothing of it is live, its shape is known and its commands are done; its entry is read once its page
is in tier 0 (R17). -/
def crewDone (s : State) (p crew : Nat) : Bool :=
  let w := s.mem64 (s.crewMA p crew + 8)
  s.crewHere p crew && bit w 0 && field w 32 32 == 0 && !bit w 1 && crewQuiet s p crew

/-- The crews of which a launch, a ring or a LIVE that has fallen to 0 is left. -/
def crewsLeft (s : State) : List (Nat × Nat) :=
  s.launches.map (fun l => (l.part, l.crew.toNat)) ++ s.rings.map (fun r => (r.2.part, r.2.crew.toNat))
    ++ s.parts.flatMap fun p => p.2.ending.map (p.1, ·)

/-- The pages of the entries of crews that may be complete are asked for (R17). -/
def State.seekCrews (s : State) : State :=
  ((crewsLeft s).filter fun x => !s.crewHere x.1 x.2 && crewQuiet s x.1 x.2).foldl (fun s x =>
    match s.readyTable (s.crewMA x.1 x.2) with
    | .wait t => t
    | .now _ => s
    | .noFrame => s) s

/-- The successors of a node of an orrery that are valid (R369). -/
def Node.successors (n : Node) (first second : Bool) : List Nat :=
  (if first && bit n.words[0] 20 then [field n.words[0] 0 10] else [])
    ++ (if second && bit n.words[0] 21 then [field n.words[0] 10 10] else [])

/-- Signals sent on a cluster while its orrery runs; a fault has ended those of an earlier run (R371). -/
def State.signal (s : State) (cl : Nat) (ns : List Nat) : State :=
  let c := s.cluster cl
  if field c.orrctl 62 2 ≠ 1 then s else s.setCluster cl { c with signals := c.signals ++ ns }

/-- The orrery of a cluster is done when no launch of its graph is incomplete, no indexed node waits and no
signal remains (R371). -/
def State.orrerySettle (s : State) (cl : Nat) : State :=
  let c := s.cluster cl
  if field c.orrctl 62 2 = 1 && c.signals.isEmpty && c.nodes.all (fun n => n.waiting == 0)
      && s.launches.all fun l => !(l.cluster == cl && l.node.isSome)
  then (s.setCluster cl { c with orrctl := setField c.orrctl 62 2 2 }).interrupt (chipOfCluster cl)
  else s

/-- A complete crew frees its id and releases its rings; the orrery node that launched it signals. -/
def completeCrew (s : State) (p crew : Nat) : State :=
  if !crewDone s p crew then s
  else
    let s := s.editCrew p crew 1 (.set 0 1 0) false
    let s := s.releaseRings fun r => r.part == p && r.crew.toNat == crew
    let s := s.setPart p { s.part p with ending := (s.part p).ending.erase crew }
    let done := s.launches.filter fun l => l.part == p && l.crew.toNat == crew
    let s := { s with launches := s.launches.filter fun l => !(l.part == p && l.crew.toNat == crew) }
    done.foldl (fun s l => match l.node with
      | some n =>
        (match (s.cluster l.cluster).nodes[n]? with
          | some x => s.signal l.cluster (x.successors true true)
          | none => s).orrerySettle l.cluster
      | none => s) s

end Sys2Proof.Machine
end

