-- ==== Sys2Proof/Machine/Orrery.lean ====
section
/-! DEFINITION. The orrery of a cluster: GO, the firing of nodes and the taking of an index word (R369 to
R371). -/
namespace Sys2Proof.Machine

/-! ## Faults and the node table -/

namespace State

/-- The bytes of a node table, if it can be read: it lies in tiered or host memory of a module of the domain,
outside the secure regions for a non-secure cluster, and is not poisoned (R369, R371).
DEDUCED, log entry 99. -/
def nodeTable (s : State) (cl base n : Nat) : Option (List Byte) :=
  let last := base + 64 * n - 1
  let d := s.memData base (64 * n)
  if (regionOf base != .tiered && regionOf base != .host) || regionOf last != regionOf base
      || !s.member (chipOfCluster cl) (base / 2 ^ 48) || d.any (·.2)
      || ((s.cluster cl).ns && (s.secureMA base || s.secureMA last))
  then none else some (d.map (·.1))

/-- A node changed. -/
def setNode (s : State) (cl n : Nat) (f : Node → Node) : State :=
  let c := s.cluster cl
  s.setCluster cl { c with nodes := c.nodes.mapIdx fun i x => if i = n then f x else x }

end State

/-- A node of the table as it is loaded: its pending count is NPRED (R370). -/
def loadNode (bs : List Byte) : Node :=
  let w : Vector W64 8 := Vector.ofFn fun i => BitVec.ofNat 64 (ofBytes (slice bs (8 * i.val) 8))
  ⟨w, field w[0] 32 16, 0⟩

/-- What an orrery's reads have met is forgotten: they have been used, and no fault is ever kept (R61). -/
def forgetLosses (s : State) (cl : Nat) : State :=
  if (s.cluster cl).omiss.isEmpty && (s.cluster cl).olost.isEmpty then s
  else s.setCluster cl { s.cluster cl with omiss := [], olost := [] }

/-- GO (R369 to R371): ignored while the orrery runs; the table is read, once its pages are in tier 0 (R17), and every
node that needs no signal is due to fire. A page of it that cannot be had is a failed read (R42). -/
def orreryStart (s : State) (cl : Nat) : State :=
  let c := s.cluster cl
  if field c.orrctl 62 2 = 1 && !c.nodes.isEmpty then s
  else
    let n := field c.orrbase 0 10 + 1
    let base := field c.orrbase 12 44 * 2 ^ 12
    let go := field c.orrctl 62 2 ≠ 1
    let c := { c with omiss := if go then [] else c.omiss, olost := if go then [] else c.olost }
    let c := { c with orrctl := setField (setField (setField c.orrctl 62 2 1) 52 10 0) 48 4 0, signals := [], nodes := [] }
    let s := { s with launches := s.launches.map (Launch.detach cl) }
    match s.absentPage base (64 * n), s.nodeTable cl base n with
    | some p, _ => if (lostPage (s.setCluster cl c) cl p 0).isSome then forgetLosses ((s.setCluster cl c).orreryFault cl 0 4) cl
        else (s.setCluster cl c).waitPagesFor (.orrery cl) [(p, State.tableAttr, p * 65536)]
    | none, none => (s.setCluster cl c).orreryFault cl 0 4
    | none, some bs =>
      let ns := (List.range n).map fun i => loadNode (slice bs (64 * i) 64)
      (s.setCluster cl { c with
        nodes := ns
        signals := (List.range n).filter fun i => (ns[i]?.map fun (x : Node) => x.pending).getD 1 == 0 }).orrerySettle cl

/-! ## Firing (R370) -/

/-- The launch queue of the graph's context on its cluster, or on a cluster of CMASK, gives the partition and the
world of its launches.
DEDUCED, log entry 97. -/
def graphOwner (s : State) (cl : Nat) (m : BitVec 10) : Owner :=
  let ctx := field (s.cluster cl).orrctl 36 12
  let cands := cl :: maskClusters (chipOfCluster cl) m
  let hit := cands.findSome? fun x => ((s.cluster x).queues.find? fun q =>
    bit q.2[0] 63 && bit q.2[0] 61 && field q.2[0] 44 12 == ctx).map fun q => (x, q.1)
  match hit with
  | some (x, q) => ⟨0, 0, none, 0, s.queuePart x q, BitVec.ofNat 12 ctx, s.queueNs x q || (s.cluster cl).ns, true⟩
  | none => ⟨0, 0, none, 0, chipOfCluster cl * 64, BitVec.ofNat 12 ctx, (s.cluster cl).ns, true⟩

/-- What a firing node comes to: it signals others, or has launched and then taken a fault. -/
inductive Fired where
  | done (s : State) (signals : List Nat)
  | fault (s : State) (code : Nat)
  | wait (s : State)

/-- The shape word of a launch node as its firing finds it, when it is full (R373). -/
def shapeNow (s : State) (cl : Nat) (o : Owner) (w : W64) : Data :=
  match s.window (chipOfCluster cl) w 8 with
  | some (j, off) =>
    let x := s.bankWord o.part j (off / 8)
    if x.full then clean (toBytes 8 x.data.toNat) else []
  | none => []

/-- A launch node: words 1 to 3 are staging words 0 to 2 of R324.
DEDUCED, log entry 98. -/
def fireLaunch (s : State) (cl node : Nat) (w : Vector W64 8) : Fired :=
  let m := BitVec.ofNat 10 (field w[4] 0 10)
  let o := graphOwner s cl m
  let pmode := bit w[1] 63
  let ask : LaunchAsk := ⟨cl, orreryAgent cl, 2 ^ 64, some node, o, pmode, field w[1] 0 57, w[2], field w[3] 0 57, m, s.now⟩
  let good := field w[1] 57 6 == 0 && m != 0
    && (if pmode then field w[3] 57 7 == 0 && bit w[3] 56 && field w[3] 0 3 == 0
          && (s.window (chipOfCluster cl) w[3] 8).isSome
        else w[3] == 0)
  if !good then .fault s 1
  else if pmode && (match s.window (chipOfCluster cl) w[3] 8 with
      | some (j, off) => s.promised o.part (orreryAgent cl) 0 0 [(.spad j off, 8)] false
      | none => false) then .wait s
  else
    let c := deviceCmd s o (if pmode then shapeNow s cl o w[3] else [])
    match buildLaunch s (orreryAgent cl) c ask (s.readNow cl o (runs ask.desc 32)) with
    | .made t => if t.launches.any fun l => l.clamped && l.node == some node && l.cluster == cl then .fault t 1 else .done t []
    | .wait t => .wait t
    | .refused _ => .fault s 1

/-- A cond or while node: its word is read with acquire at domain scope. -/
def fireChoice (s : State) (cl : Nat) (n : Node) : Fired :=
  let o := graphOwner s cl 0
  match s.readNow cl o (runs n.words[1].toNat 8) with
  | .wait t => .wait t
  | .fault _ => .fault s 4
  | .data s d =>
    if d.any (·.2) then .fault s 4
    else .done s (n.successors (ofBytes (d.map (·.1)) != 0) (ofBytes (d.map (·.1)) == 0))

/-- A node fires by its kind. -/
def fireNode (s : State) (cl node : Nat) (n : Node) : Fired :=
  match field n.words[0] 60 4 with
  | 0 => fireLaunch s cl node n.words
  | 1 => .done s (n.successors true true)
  | 2 => fireChoice s cl n
  | 3 => fireChoice s cl n
  | 4 => .done (s.setNode cl node fun x => { x with waiting := x.waiting + 1 }) []
  | _ => .fault s 3

/-- A signal reaches a node: the node's pending count falls by 1, and at 0 the node fires with its count reset
to NPRED. A node whose read is awaited keeps the signal. -/
def deliverSignal (s : State) (cl node : Nat) : State :=
  let c := s.cluster cl
  if field c.orrctl 62 2 ≠ 1 || !c.signals.contains node then s
  else
    match c.nodes[node]? with
    | none => s.orreryFault cl node 3
    | some n =>
      let taken := fun (s : State) => s.setCluster cl
        { s.cluster cl with signals := (s.cluster cl).signals.erase node }
      if 1 < n.pending then taken (s.setNode cl node fun x => { x with pending := x.pending - 1 })
      else
        match fireNode s cl node n with
        | .wait t => t
        | .fault t code => forgetLosses (t.orreryFault cl node code) cl
        | .done t next =>
          ((taken ((forgetLosses t cl).setNode cl node fun x => { x with pending := field x.words[0] 32 16 })).signal cl
            next).orrerySettle cl

/-! ## Index words (R370) -/

/-- Entry i of an indexed node. -/
def Node.entry (n : Node) (i : Nat) : Nat := field (getReg n.words (4 + i / 4) 0) (i % 4 * 16) 10

/-- An indexed node's word, when it is full, is taken as `ldfe.dom` takes it, and its entry is signalled. -/
def takeIndex (s : State) (cl node : Nat) : State :=
  let c := s.cluster cl
  match c.nodes[node]? with
  | none => s
  | some n =>
    if n.waiting = 0 || field c.orrctl 62 2 ≠ 1 then s
    else
      let o := graphOwner s cl 0
      match s.window (chipOfCluster cl) n.words[1] 8 with
      | none => s.orreryFault cl node 4
      | some (k, off) =>
        if field n.words[1] 57 7 ≠ 0 || !bit n.words[1] 56 || off % 8 ≠ 0 || (o.ns && s.secureCluster (clusterOf k))
        then s.orreryFault cl node 4
        else
          let x := s.bankWord o.part k (off / 8)
          if !x.full || s.promised o.part (orreryAgent cl) 0 0 [(.spad k off, 8)] true then s
          else
            let s := s.setBankWord o.part k (off / 8) { x with full := false }
            if x.poison then s.orreryFault cl node 4
            else if field n.words[2] 0 5 ≤ x.data.toNat then s.orreryFault cl node 2
            else ((s.setNode cl node fun y => { y with waiting := y.waiting - 1 }).signal cl
              [n.entry x.data.toNat]).orrerySettle cl

/-! ## Meanings -/

/-- ORRERY_GO (R371). -/
def execOrreryGo (cl : Nat) (s : State) : Out := .next (orreryStart s cl)

/-- ORRERY_NODE_FIRE (R370). -/
def execOrreryNodeFire (cl node : Nat) (s : State) : Out := .next (deliverSignal s cl node)

/-- ORRERY_INDEX_TAKE (R370). -/
def execOrreryIndexTake (cl node : Nat) (s : State) : Out := .next (takeIndex s cl node)

end Sys2Proof.Machine
end

