-- ==== Sys2Proof/Machine/Digest.lean ====
section
/-! DEFINITION. The SM3 digest (R383, R385, R420, R421), by the algorithm that carries that name: the manual
names it and does not restate it. -/
namespace Sys2Proof.Machine

/-- A 32-bit word of SM3. -/
abbrev W32 := BitVec 32

/-- The eight words of SM3's chaining value. -/
abbrev Sm3Words := Vector W32 8

/-- The initial value. -/
def sm3Start : Sm3Words :=
  #v[0x7380166F, 0x4914B2B9, 0x172442D7, 0xDA8A0600, 0xA96F30BC, 0x163138AA, 0xE38DEE4D, 0xB0FB0E4E]

/-- The permutation P0. -/
def sm3P0 (x : W32) : W32 := x ^^^ x.rotateLeft 9 ^^^ x.rotateLeft 17

/-- The permutation P1. -/
def sm3P1 (x : W32) : W32 := x ^^^ x.rotateLeft 15 ^^^ x.rotateLeft 23

/-- The boolean function FF of a round. -/
def sm3FF (j : Nat) (x y z : W32) : W32 :=
  if j < 16 then x ^^^ y ^^^ z else (x &&& y) ||| (x &&& z) ||| (y &&& z)

/-- The boolean function GG of a round. -/
def sm3GG (j : Nat) (x y z : W32) : W32 :=
  if j < 16 then x ^^^ y ^^^ z else (x &&& y) ||| (~~~x &&& z)

/-- The constant of a round. -/
def sm3T (j : Nat) : W32 := (if j < 16 then 0x79CC4519 else 0x7A879D8A : W32).rotateLeft (j % 32)

/-- The expanded words, the newest first, with a number of words added. -/
def sm3Expand : Nat → List W32 → List W32
  | 0, w => w
  | n + 1, w =>
    sm3Expand n ((sm3P1 (w.getD 15 0 ^^^ w.getD 8 0 ^^^ (w.getD 2 0).rotateLeft 15)
      ^^^ (w.getD 12 0).rotateLeft 7 ^^^ w.getD 5 0) :: w)

/-- One round with the words W and W'. -/
def sm3Round (v : Sm3Words) (j : Nat) (w w' : W32) : Sm3Words :=
  let s1 := (v[0].rotateLeft 12 + v[4] + sm3T j).rotateLeft 7
  let s2 := s1 ^^^ v[0].rotateLeft 12
  let t1 := sm3FF j v[0] v[1] v[2] + v[3] + s2 + w'
  let t2 := sm3GG j v[4] v[5] v[6] + v[7] + s1 + w
  #v[t1, v[0], v[1].rotateLeft 9, v[2], sm3P0 t2, v[4], v[5].rotateLeft 19, v[6]]

/-- A block of 16 words compressed into a chaining value. -/
def sm3Block (v : Sm3Words) (ws : List W32) : Sm3Words :=
  let w := (sm3Expand 52 ws.reverse).reverse
  let r := (List.range 64).foldl (fun r j => sm3Round r j (w.getD j 0) (w.getD j 0 ^^^ w.getD (j + 4) 0)) v
  Vector.zipWith (· ^^^ ·) r v

/-- The big-endian words of some bytes. -/
def wordsBE : Nat → List Byte → List W32
  | 0, _ => []
  | n + 1, bs => BitVec.ofNat 32 (ofBytes (bs.take 4).reverse) :: wordsBE n (bs.drop 4)

/-- The message with its padding. -/
def sm3Pad (bs : List Byte) : List Byte :=
  bs ++ [0x80] ++ List.replicate ((119 - bs.length % 64) % 64) 0 ++ (toBytes 8 (bs.length * 8)).reverse

/-- Blocks of 64 bytes compressed in turn. -/
def sm3Blocks : Nat → Sm3Words → List Byte → Sm3Words
  | 0, v, _ => v
  | n + 1, v, bs => sm3Blocks n (sm3Block v (wordsBE 16 bs)) (bs.drop 64)

/-- The 32 bytes of the digest. -/
def sm3Bytes (bs : List Byte) : List Byte :=
  let m := sm3Pad bs
  (sm3Blocks (m.length / 64) sm3Start m).toList.flatMap fun w => (toBytes 4 w.toNat).reverse

/-- The digest as a register holds it: byte k at bits [8k+7:8k] (R384).
PRESUMED, log entry 105. -/
def sm3 (bs : List Byte) : BitVec 256 := BitVec.ofNat 256 (ofBytes (sm3Bytes bs))

end Sys2Proof.Machine
end

