-- ==== Sys2Proof/Machine/Power.lean ====
section
/-! DEFINITION. Power-on reset and the boot chain (R411, R420), attestation (R422), and the thermal limits with
CLIMCAP (R425, R426). -/
namespace Sys2Proof.Machine

/-! ## The cores of a module -/

/-- The 1300 cores of a module (R3). -/
def coresOfChip (ch : Nat) : List Nat :=
  (List.range 10).flatMap fun c => (List.range 130).map fun n => coreAt (ch * 16 + c) n

/-- Every core of a module changed. -/
def State.mapChip (s : State) (ch : Nat) (f : Core → Core) : State :=
  (coresOfChip ch).foldl (fun s k => s.setCore k (f (s.core k))) s

/-! ## Power-on reset (R411) -/

/-- The entries of a table that belong to other modules than one. -/
def Table.without {α : Type} (t : Table α) (ch per : Nat) : Table α := t.filter fun p => p.1 / per != ch

/-- A module right after power-on reset: every register at its Reset value, its scratchpads, state SRAM and memory
without contents, and the boot chain at its first stage; the fuses keep what has been blown (R411, R420). Its device
time starts at 0 (R419).
DEDUCED, log entry 111. -/
def State.powerOn (s : State) (ch : Nat) : State :=
  let b := (s.chip ch).boot
  let t := { s with
    cores := Table.without s.cores ch 4096
    clusters := Table.without s.clusters ch 16
    parts := Table.without s.parts ch 64
    hbm := Table.without s.hbm ch 8
    fabric := Table.without s.fabric ch 32
    pages := Table.without s.pages ch (2 ^ 32)
    objs := Table.without s.objs ch 65536
    rings := Table.without s.rings ch 8192
    mem := s.mem.filter fun (c : Host.Cell) => !(c.1 / 2 ^ 48 == ch && regionOf c.1 == Region.tiered)
    beats := s.beats.filter fun b => b * 64 / 2 ^ 48 != ch
    accs := (s.accs.filter fun (a : Acc) => chipOf a.core != ch).map fun (a : Acc) => match a.target with
      | .spad k _ => if a.phase == Phase.parked && chipOf k == ch then { a with phase := Phase.retry } else a
      | .mem _ => a
    posts := s.posts.filter fun x => chipOf x.core != ch && chipOf x.src != ch
    decs := s.decs.filter fun x => chipOfCluster x.cluster != ch
    recs := s.recs.filter fun x => chipOfCluster x.cluster != ch
    walks := s.walks.filter fun x => chipOfCluster x.cluster != ch
    launches := s.launches.filter fun x => chipOfCluster x.cluster != ch
    colls := s.colls.filter fun x => x.part / 64 != ch
    dying := s.dying.filter fun x => x.part / 64 != ch
    edits := s.edits.filter fun x => x.ma / 2 ^ 48 != ch }
  t.setChip ch { Chip.reset with
    epoch := s.now
    boot := { Chip.reset.boot with rootHash := b.rootHash, revoked := b.revoked, version := b.version } }

/-! ## The boot chain (R420) -/

/-- The bytes of a 512-bit key. -/
def keyBytes (k : BitVec 512) : List Byte := toBytes 64 k.toNat

/-- A root key whose hash is in a fuse slot that is not revoked. -/
def rootKey (b : Boot) (k : BitVec 512) : Bool :=
  (List.finRange 4).any fun i => !b.revoked.getLsbD i.val && b.rootHash[i] == sm3 (keyBytes k)

/-- The key that a stage trusts. -/
def trusted (b : Boot) (img : BootImage) : Bool :=
  match img.stage with
  | 0 => rootKey b img.key
  | 1 => img.key == b.controllerKey
  | _ => img.key == b.partitionKey

/-- An image passes its stage: its key is trusted, its signature verifies and its version is not below the blown
fuses.
DEDUCED, log entry 115. -/
def goodImage (b : Boot) (img : BootImage) : Bool :=
  trusted b img && Config.sm2Verify img.key (sm3 img.bytes) img.sig && decide (b.version ≤ img.version.toNat)

/-- The chain after an image has booted: its digest, the keys that the first stage names, and the version fuses that
its advance flag blows. -/
def Boot.accept (b : Boot) (img : BootImage) : Boot :=
  { b with
    stage := img.stage + 1
    failed := false
    digests := setReg b.digests img.stage (sm3 img.bytes)
    controllerKey := if img.stage = 0 then img.controllerKey else b.controllerKey
    partitionKey := if img.stage = 0 then img.partitionKey else b.partitionKey
    version := if img.advance then max b.version img.version.toNat else b.version }

/-- A stage's image is checked: the chain goes on or stops. A stopped chain takes a signed recovery image, which
begins it again; a chain that is complete takes none. -/
def verifyStage (b : Boot) (img : BootImage) : Boot :=
  let want := if b.failed then 0 else b.stage
  if 3 ≤ b.stage && !b.failed then b
  else if img.stage = want && goodImage b img then b.accept img
  else { b with failed := true }

/-! ## Attestation (R422) -/

/-- A WRGN register as it reads: the low bits of LIMIT are ones (R65). -/
def wrgnAsRead (r : BitVec 128) : BitVec 128 := r ||| (0xFFFF#128 <<< 64)

/-- What the third digest of the report covers: WRGN0 to WRGN31, PGRAN0 to PGRAN39, PCTL.NS and the cluster
worlds. -/
def worldState (s : State) (ch : Nat) : List Byte :=
  (s.chip ch).wrgn.toList.flatMap (fun r => toBytes 16 (wrgnAsRead r).toNat)
    ++ (List.range 40).flatMap (fun p => toBytes 8 (s.part (ch * 64 + p)).pgran.toNat)
    ++ Config.worldBytes ((List.range 40).map fun p => (s.part (ch * 64 + p)).ns)
      ((List.range 10).map fun c => (s.cluster (ch * 16 + c)).ns)

/-- Bytes 0 to 679 of the report. -/
def reportBody (s : State) (ch : Nat) : List Byte :=
  let c := s.chip ch
  toBytes 32 c.attnonce.toNat ++ c.boot.digests.toList.flatMap (fun d => toBytes 32 d.toNat)
    ++ c.almdig.toList.flatMap (fun d => toBytes 32 d.toNat) ++ sm3Bytes (worldState s ch)
    ++ toBytes 8 (s.timeAt ch).toNat

/-- The report of a body: its signature with the module's own key and the certificate stand behind it, in at most 12 KiB
(R421, R422). -/
def signed (ch : Nat) (body : List Byte) : List Byte :=
  (body ++ toBytes 64 (Config.sm2Sign ch (sm3 body)).toNat ++ Config.certificate ch).take 0x3000

/-- A write of GO, at which the signature begins, so that the report describes the state then: ignored while a report is
being built.
DEDUCED, log entry 116. -/
def State.startReport (s : State) (ch : Nat) : State :=
  let c := s.chip ch
  if c.attgo then s else s.setChip ch { c with attgo := true, attdone := false, attbody := reportBody s ch }

/-- The report is complete. -/
def State.endReport (s : State) (ch : Nat) : State :=
  let c := s.chip ch
  if c.attgo then s.setChip ch { c with attgo := false, attdone := true, report := signed ch c.attbody, attbody := [] } else s

/-! ## Thermal limits (R426) -/

/-- 95, 100 and 110 degrees in units of a quarter (R427). -/
def coolAt : Nat := 380
/-- 100 degrees. -/
def hotAt : Nat := 400
/-- 110 degrees. -/
def stopAt : Nat := 440

/-- Every temperature is below 95 degrees. -/
def Chip.cool (c : Chip) : Bool := c.temps.toList.all fun t => decide (t.toNat < coolAt)

/-- A unit's junction temperature as reported: below 95 everywhere ends a throttling, and 100 begins one. -/
def Chip.heat (c : Chip) (unit temp : Nat) : Chip :=
  let c := { c with temps := setReg c.temps unit (BitVec.ofNat 10 (min temp 1023)) }
  { c with throttle := decide (hotAt ≤ temp) || (c.throttle && !c.cool) }

/-- A core with CLIM.CAP set; a value below 128 stores 128 (R425). -/
def Core.setCap (cap : Nat) (c : Core) : Core :=
  { c with r := { c.r with clim := setField c.r.clim 32 16 (max 128 cap) } }

/-- CLIMCAP set, and copied to every core of the module (R426).
DEDUCED, log entry 113. -/
def State.setClimcap (s : State) (ch cap : Nat) : State :=
  let cap := max 128 cap
  (s.setChip ch { s.chip ch with climcap := BitVec.ofNat 16 cap }).mapChip ch (Core.setCap cap)

/-- A step of CLIMCAP: down while a temperature has reached 100 degrees and not fallen below 95 since, then up
again until the steps down are made good.
DEDUCED, log entry 114. -/
def State.stepCap (s : State) (ch : Nat) : State :=
  let c := s.chip ch
  if c.throttle then
    (s.setChip ch { c with lowered := c.lowered + 1 }).setClimcap ch (c.climcap.toNat - 696)
  else if c.lowered = 0 then s
  else (s.setChip ch { c with lowered := c.lowered - 1 }).setClimcap ch (min 11136 (c.climcap.toNat + 696))

/-- A core stops as `halt` stops it: out of a system handler the kernel bank is exchanged back, the latches are zeroed and the
privilege is user (R402, R426). -/
def Core.heatHalt (c : Core) : Core :=
  if c.stopped then c else if c.kernel then { c.returnKernel with stopped := true } else { c with stopped := true }

/-- A temperature is reported; from 110 degrees on every core of the module stops as `halt` stops it, and TEMPSTOP is set. -/
def State.heatStop (s : State) (ch unit temp : Nat) : State :=
  let s := s.setChip ch ((s.chip ch).heat unit temp)
  if temp < stopAt then s
  else (s.setChip ch { s.chip ch with tempstop := true }).mapChip ch Core.heatHalt

/-! ## Meanings -/

/-- POWER_ON_RESET (R411). -/
def execPowerOnReset (chip : Nat) (s : State) : Out := .next (s.powerOn chip)

/-- BOOT_STAGE_VERIFY (R420). -/
def execBootStageVerify (chip : Nat) (img : BootImage) (s : State) : Out :=
  .next (s.setChip chip { s.chip chip with boot := verifyStage (s.chip chip).boot img })

/-- ATTESTATION_START (R422). -/
def execAttestationStart (chip : Nat) (s : State) : Out := .next (s.startReport chip)

/-- ATTESTATION_DONE (R422). -/
def execAttestationDone (chip : Nat) (s : State) : Out := .next (s.endReport chip)

/-- THERMAL_THROTTLE (R426). -/
def execThermalThrottle (chip unit temp : Nat) (s : State) : Out := .next (s.heatStop chip unit temp)

/-- CLIMCAP_STEP (R426). -/
def execClimcapStep (chip : Nat) (s : State) : Out := .next (s.stepCap chip)

/-- THERMAL_STOP (R426). -/
def execThermalStop (chip unit temp : Nat) (s : State) : Out := .next (s.heatStop chip unit temp)

end Sys2Proof.Machine
end

