-- ==== Sys2Proof/Machine/Fetch.lean ====
section
/-! DEFINITION. Reading code (R47, R58, R193): how a word of code is fetched, which bundles a group holds
(R173 to R176), and the registers a group's words write (R183). -/
namespace Sys2Proof.Machine

/-- FETCH_RANGE or another cause of a fetch: slot 0, no opcode (R397). -/
def fetchCause (second : Bool) (code info : Nat) (va : W64) : Cause :=
  ⟨BitVec.ofNat 6 code, false, 0, second, 0, 0, 0, BitVec.ofNat 8 info, va⟩

/-- A word of code that the caches do not hold, through a translation with X permission into tiered memory
(R193); every failure is FETCH_RANGE with its kind, a refusal by the world check WORLD (R58), which is found after every
kind. The first fetch of a block whose context its dispatch found invalid has kind CTX (R49), unless the address itself is
non-canonical or lies in the SRAM window (DESIGN CHOICE, log entry 158), and one whose page, or a page of whose tables,
cannot be had raises TIER_UNAVAILABLE (R42). A walk that meets a poisoned word raises POISON (R23).
DEDUCED, log entry 32. -/
def fetchWord (s : State) (cause : Nat → Nat → W64 → Cause) (va : W64) : Eff (BitVec 32) :=
  let range := fun k => Except.error (Stop.trap .decode (cause cFetchRange k va))
  let tier := Except.error (Stop.trap .decode (cause cTierUnavailable 0 (BitVec.ofNat 64 (va.toNat / 2 ^ 16 * 2 ^ 16))))
  if 2 ^ 57 ≤ va.toNat then range kNoncanon
  else if 2 ^ 56 ≤ va.toNat then range kSramwin
  else if s.me.walkFault = some (va.toNat / 2 ^ 16, BitVec.ofNat 8 kCtx) || (!s.me.kernel && s.me.blk.any (·.badCtx)) then
    range kCtx
  else
    match s.reach s.here va 4 .fetch with
    | .miss g => .error (.miss g)
    | .fault k => if kTier ≤ k then tier else if k = kPoison then .error (.trap .decode (cause cPoison 0 0)) else range k
    | .world => match s.cached s.here (s.partOf s.here) s.me.ctx va.toNat with
      | some e => if regionOf (e.ma va.toNat) ≠ .tiered then range kMap else .error (.trap .decode (cause cWorld 0 va))
      | none => .error (.trap .decode (cause cWorld 0 va))
    | .privilege => range kMap
    | .hit t attr _ =>
      match t with
      | .spad _ _ => range kSramwin
      | .mem ma =>
        if regionOf ma ≠ .tiered then range kMap
        else if !s.present (pageOf ma) then
          match s.me.pageFault with
          | some f =>
            if f.1 = pageOf ma then tier else .error (.absent (pageOf ma) attr)
          | none => .error (.absent (pageOf ma) attr)
        else .ok (BitVec.ofNat 32 (ofBytes (Memory.bytes s.mem ma 4)))

/-- The memory address of a word of code, with the attribute field of its mapping. -/
def State.codeMA (s : State) (va : W64) : Option (Nat × BitVec 16) :=
  match s.reach s.here va 4 .fetch with
  | .hit (.mem ma) attr _ => if regionOf ma = .tiered then some (ma, attr) else none
  | _ => none

/-- A word of code has been read from its page, which that uses (R37, R39, R60). -/
def State.touchCode (s : State) (va : W64) : State :=
  match s.codeMA va with
  | some (ma, attr) => (s.touch (pageOf ma) attr).noteFrame s.here (s.partOf s.here) s.me.ctx va.toNat (pageOf ma)
  | none => s

/-- The words from an address on. -/
def fetchWords (s : State) (cause : Nat → Nat → W64 → Cause) : W64 → Nat → Eff (List (BitVec 32))
  | _, 0 => .ok []
  | va, n + 1 => do
    let w ← fetchWord s cause va
    let r ← fetchWords s cause (va + 4) n
    return w :: r

/-- Code at an address may be kept in a cache: its mapping has CA = 1 (R53, R57). -/
def State.keepsCode (s : State) (va : W64) : Bool :=
  match s.reach s.here va 4 .fetch with
  | .hit _ attr _ => State.attrCA attr
  | _ => false

/-- A bundle as the caches hold it: the core's instruction cache, or its cluster's code cache (R3, R4). -/
def State.keptCode (s : State) (va : W64) : Option CodeLine :=
  let part := s.partOf s.here
  let hit := fun (l : CodeLine) => l.part == part && l.ctx == s.me.ctx && l.va == va.toNat
  if !s.keepsCode va then none
  else match s.me.icache.find? hit with
    | some l => some l
    | none => (s.cluster (clusterOf s.here)).code.find? hit

/-- A bundle: its header word and the words its presence mask names (R173). Cached code is read as it was
cached (R193), once its address still translates. -/
def fetchBundle (s : State) (second : Bool) (va : W64) : Eff (List (BitVec 32)) := do
  let h ← fetchWord s (fetchCause second) va
  match s.keptCode va with
  | some l =>
    let _ ← fetchWords s (fetchCause second) (va + 4) (l.words.length - 1)
    return l.words
  | none =>
    let ws ← fetchWords s (fetchCause second) (va + 4) (decodeHeader h).slots.length
    return h :: ws

/-- The first lines of a cache that its bytes hold. -/
def fitting : Nat → List CodeLine → List CodeLine
  | _, [] => []
  | n, l :: r => if n < 4 * l.words.length then [] else l :: fitting (n - 4 * l.words.length) r

/-- A cache with a line put first, unless it holds one for that address. -/
def withLine (bytes : Nat) (l : CodeLine) (ls : List CodeLine) : List CodeLine :=
  if ls.any fun x => x.part == l.part && x.ctx == l.ctx && x.va == l.va then ls else fitting bytes (l :: ls)

/-- A bundle kept in the core's instruction cache of 64 KiB and in its cluster's code cache of 2 MiB (R3, R4, R193),
unless a word of it is mapped with CA = 0 (R53, R57). Code that no cache held has been read from its pages.
DESIGN CHOICE, log entry 31. -/
def State.cacheCode (s : State) (va : W64) (ws : List (BitVec 32)) : State :=
  let last := va + BitVec.ofNat 64 (4 * (ws.length - 1))
  let kept := s.keepsCode va && s.keepsCode last
  let s := if (s.keptCode va).isSome then s
    else if va.toNat / 2 ^ 16 = last.toNat / 2 ^ 16 then s.touchCode va else (s.touchCode va).touchCode last
  if !kept then s
  else
    let line : CodeLine := ⟨s.partOf s.here, s.me.ctx, va.toNat, ws⟩
    let s := s.setMe { s.me with icache := withLine 65536 line s.me.icache }
    let cl := s.cluster (clusterOf s.here)
    s.setCluster (clusterOf s.here) { cl with code := withLine (2 ^ 21) line cl.code }

/-! ## Registers that a slot word writes (R183) -/

/-- A register that two slots of a group may not both write. -/
inductive Dest where
  | s (n : Nat) | p (n : Nat) | x (n : Nat) | q (n : Nat) | h (n : Nat) | bt (n : Nat)
  | v (n : Nat) | t (n : Nat) | m (n : Nat) | lc (n : Nat) | cfstat
  deriving DecidableEq, Repr

/-- The scalar destination, unless it is `s0`. -/
def scalarDest (n : Nat) : List Dest := if n = 0 then [] else [.s n]

/-- The predicate destination, unless it is `p0`. -/
def predDest (n : Nat) : List Dest := if n = 0 then [] else [.p n]

/-- The registers a slot word writes. -/
def destinations (sl : Slot) (w : BitVec 32) : List Dest :=
  let op := opcodeOf w
  let at_ := fun lo k => bitsOf w.toNat lo k
  let shared :=
    if op = 0x1A then scalarDest (at_ 12 4)
    else if 0x30 ≤ op && op ≤ 0x3F then predDest (at_ 16 4) ++ predDest (at_ 12 4)
    else scalarDest (at_ 14 6)
  match sl with
  | .C => if op = 0x03 || op = 0x04 then [.s 47] else if op = 0x08 || op = 0x09 then [.lc (op - 8)] else []
  | .A =>
    if op < 0x40 then shared
    else if op = 0x40 then [.q (at_ 16 4)]
    else if op = 0x41 then [.x (at_ 16 4)]
    else if op = 0x42 then [.h (at_ 14 6)]
    else if op = 0x44 || op = 0x45 then [.bt (at_ 14 6)]
    else if op = 0x46 || op = 0x48 then scalarDest (at_ 14 6)
    else if op = 0x47 then
      if at_ 0 14 = 0x005 then [.cfstat] else if at_ 0 14 = 0x009 then [.lc 0] else if at_ 0 14 = 0x00A then [.lc 1]
      else []
    else []
  | .B =>
    if op < 0x40 then shared
    else if op ≤ 0x45 || (0x4C ≤ op && op ≤ 0x4F) || (0x56 ≤ op && op ≤ 0x70) || op = 0x73 || op = 0x78
        || op = 0x7A || op = 0x7B then scalarDest (at_ 14 6)
    else if op = 0x76 then [.cfstat]
    else []
  | .V =>
    if (0x12 ≤ op && op ≤ 0x17) || (0x30 ≤ op && op ≤ 0x35) || (0x50 ≤ op && op ≤ 0x53) then [.m (at_ 15 3)]
    else if op = 0x4D || op = 0x54 || op = 0x55 then scalarDest (at_ 14 6)
    else if op = 0x5C then predDest (at_ 16 4) ++ predDest (at_ 12 4)
    else if op = 0x58 || op = 0x59 || op = 0x5A || op = 0x5E || op = 0x7F then []
    else [.v (at_ 15 5)]
  | .M =>
    if (0x01 ≤ op && op ≤ 0x03) || op = 0x05 || op = 0x06 || op = 0x08 || op = 0x0A || op = 0x0B then [.t (at_ 16 4)]
    else if op = 0x09 then [.t (at_ 12 4)]
    else []
  | .F =>
    if op = 0x01 then [.h (at_ 4 4)]
    else if op = 0x02 || op = 0x03 then [.t (at_ 8 4)]
    else if op = 0x08 || op = 0x10 then [.h (at_ 0 4)]
    else if op = 0x09 then (List.range (at_ 16 2 + 1)).map fun i => .h (at_ 0 4 + i)
    else if op = 0x13 then [.t (at_ 16 4)]
    else []
  | .X =>
    if op = 0x01 || op = 0x02 then [.t (at_ 16 4)]
    else if op = 0x04 then [.v (at_ 16 4 + 16 * at_ 0 1)]
    else []
  | .G =>
    if op = 0x01 then [.t (at_ 12 4)]
    else if op = 0x18 || op = 0x19 then scalarDest (at_ 10 6) ++ predDest (at_ 0 4)
    else if op = 0x1A || op = 0x1B then scalarDest (at_ 10 6)
    else if op = 0x1C then predDest (at_ 0 4)
    else []

/-! ## The group at the program counter (R173 to R176, R189, R190) -/

/-- A slot word of a fetched group: the address of its bundle, whether that is the second, the slot, the
word and the instruction it decodes to. -/
structure CodeWord where
  bundle : W64
  second : Bool
  slot : Slot
  word : BitVec 32
  instr : Instr

/-- A fetched and decoded group: its bundles with their words, the address after them, the headers' sync
ops and the slot words. -/
structure Code where
  bundles : List (W64 × List (BitVec 32))
  next : W64
  sync : BitVec 2
  flag : BitVec 4
  count : BitVec 6
  words : List CodeWord

/-- The bundles of the group at an address (R175). -/
def fetchGroup (s : State) (pc : W64) : Eff (List (W64 × List (BitVec 32))) := do
  let a ← fetchBundle s false pc
  if (decodeHeader (a.headD 0)).stop then return [(pc, a)]
  else
    let pc2 := pc + BitVec.ofNat 64 (4 * a.length)
    let b ← fetchBundle s true pc2
    return [(pc, a), (pc2, b)]

/-- ILLEGAL_HEADER: the operand is the header word (R396).
DEDUCED, log entry 78. -/
def headerCause (second : Bool) (h : BitVec 32) : Cause :=
  ⟨BitVec.ofNat 6 cIllegalHeader, false, 0, second, 0, 0, 0, 0, h.zeroExtend 64⟩

/-- The first of the headers that breaks a condition of R176; what the two share is charged to the second. -/
def headerFault : List (W64 × List (BitVec 32)) → Option Cause
  | [(_, a)] =>
    let h := a.headD 0
    if (decodeHeader h).legal then none else some (headerCause false h)
  | (_, a) :: (_, b) :: _ =>
    let h := a.headD 0
    let k := b.headD 0
    let x := decodeHeader h
    let y := decodeHeader k
    if !x.legal then some (headerCause false h)
    else if !y.legal || x.presence &&& y.presence != 0 || !y.stop || (x.sync != 0 && y.sync != 0) then
      some (headerCause true k)
    else none
  | [] => none

/-- The slot words of the bundles, each with its bundle's address (R173). -/
def rawWords (bs : List (W64 × List (BitVec 32))) : List (W64 × Bool × Slot × BitVec 32) :=
  let of_ := fun (second : Bool) (b : W64 × List (BitVec 32)) =>
    ((decodeHeader (b.2.headD 0)).slots.zip (b.2.drop 1)).map fun x => (b.1, second, x.1, x.2)
  match bs with
  | [] => []
  | a :: r => of_ false a ++ r.flatMap (of_ true)

/-- A sampling opcode (R189). -/
def samplingWord (sl : Slot) (w : BitVec 32) : Bool := sl == .G && 0x20 ≤ opcodeOf w && opcodeOf w ≤ 0x26

/-- ILLEGAL_SLOT for a word (R189, R396).
DEDUCED, log entry 77. -/
def slotCause (second : Bool) (sl : Slot) (w : BitVec 32) : Cause :=
  ⟨BitVec.ofNat 6 cIllegalSlot, false, slotNumber sl, second, BitVec.ofNat 7 (opcodeOf w), 0, 0, 0,
    w.zeroExtend 64⟩

/-- The slot words decoded, or the first that R189 refuses: a word that is no instruction, a sampling word
on another core than a sextant core, a word with a field that its path marks zero (`refused`, R438), or a word that writes
a register an earlier word writes. -/
noncomputable def decodeWords (sextant : Bool) (refused : Slot → BitVec 32 → Bool) :
    List Dest → List (W64 × Bool × Slot × BitVec 32) → Except Cause (List CodeWord)
  | _, [] => .ok []
  | seen, (va, second, sl, w) :: rest =>
    match decodeSlot sl w with
    | .error _ => .error (slotCause second sl w)
    | .ok i =>
      let mine := destinations sl w
      if (samplingWord sl w && !sextant) || refused sl w || mine.any seen.contains then .error (slotCause second sl w)
      else
        match decodeWords sextant refused (seen ++ mine) rest with
        | .error c => .error c
        | .ok ws => .ok (⟨va, second, sl, w, i⟩ :: ws)

/-- The sync op of a group: that of the header with a non-zero SYNC (R176, R177). -/
def syncOf (bs : List (W64 × List (BitVec 32))) : BitVec 2 × BitVec 4 × BitVec 6 :=
  match bs.find? fun b => (decodeHeader (b.2.headD 0)).sync != 0 with
  | some b => let h := decodeHeader (b.2.headD 0); (h.sync, h.flag, h.count)
  | none => (0, 0, 0)

/-- The bundles of the group at an address: those of a group whose own access has been sent are the ones that sent it
(R440). -/
def groupBundles (s : State) (pc : W64) : Eff (List (W64 × List (BitVec 32))) :=
  match s.me.asked with
  | some a => if a.code.isEmpty then fetchGroup s pc else .ok a.code
  | none => fetchGroup s pc

/-- The group at an address, fetched and decoded; the causes are found in the order of R190. -/
noncomputable def codeAt (s : State) (refused : Slot → BitVec 32 → Bool) (pc : W64) : Eff Code := do
  let bs ← groupBundles s pc
  match headerFault bs with
  | some c => .error (.trap .decode c)
  | none =>
    match decodeWords (isSextant s.here) refused [] (rawWords bs) with
    | .error c => .error (.trap .decode c)
    | .ok ws =>
      let y := syncOf bs
      return ⟨bs, pc + BitVec.ofNat 64 (4 * (bs.map (·.2.length)).foldl (· + ·) 0), y.1, y.2.1, y.2.2, ws⟩

/-- Every guard of the group is false; the path predicates read false, since no tree branch of the group
has a true guard (R194, R195). -/
def Core.allFalse (c : Core) (ws : List (BitVec 32)) : Bool :=
  let c := { c with grp := { c.grp with path := 0 } }
  ws.all fun w => !c.guarded (guardOf w)

end Sys2Proof.Machine
end

