-- ==== Sys2Proof/Machine/Control.lean ====
section
/-! DEFINITION. The operations of slot C: branches and jumps (R184 to R187, R265, R266), leaving a core (R267), traps, returns and `halt` (R268, R399, R402). -/
namespace Sys2Proof.Machine

/-! ## Targets (R184 to R187) -/

/-- The address a word offset names, from the header of the bundle that holds the C word. -/
def State.offset (s : State) (n k : Nat) : W64 :=
  s.me.grp.bundle + BitVec.ofInt 64 (toSigned k n * 4)

/-- A control transfer to an address, whose bits [1:0] are cleared (R186). -/
def State.jump (s : State) (pc : W64) : State :=
  s.setMe { s.me with grp := { s.me.grp with target := some (codeAddress pc) } }

/-- `s47` := next, for `call` and `callr` (R265). -/
def State.link (s : State) : State := s.setMe (s.me.setS 47 (known s.me.grp.next))

/-- The leaf a tree branch chooses (R185). -/
def leaf (shape : Nat) (a b c d : Bool) : Nat :=
  if shape = 0 then (if a then 0 else if b then 1 else if c then 2 else if d then 3 else 4)
  else if shape = 1 then (if a then (if b then 0 else 1) else if c then 2 else if d then 3 else 4)
  else if shape = 2 then (if a then (if b then 0 else if c then 1 else 2) else if d then 3 else 4)
  else if a then (if b then (if c then 0 else 1) else 2) else if d then 3 else 4

/-- A tree branch: the path predicate of its leaf, and the target (R185). -/
def treeBranch (s : State) (shape : BitVec 2) (a b c d : BitVec 4) (base : BitVec 2) : State :=
  let p := s.me.pred
  let k := leaf shape.toNat (p a) (p b) (p c) (p d)
  let s := s.setMe { s.me with grp := { s.me.grp with path := BitVec.ofNat 5 (2 ^ k) } }
  s.jump (getReg s.me.view.bt ((base.toNat + k) % 8) 0)

/-- A jump through a register (R265). -/
def jumpTo (s : State) (w : Site) (code : BitVec 6) : Eff W64 := do
  ready (available s code)
  operand s w code

/-- A word of code lies in a poisoned beat. -/
def badCode (s : State) (va : W64) : Bool := (s.codeMA va).any fun x => s.badBeat x.1

/-- The address `jt` jumps to (R187): the table's words are instruction fetches, and a poisoned one is used as an operand
(R23).
DESIGN CHOICE, log entry 26. -/
def tableTarget (s : State) (w : Site) (code : BitVec 6) (table : W64) : Eff W64 := do
  ready (available s code)
  let i ← operand s w code
  let n ← fetchWord s (causeAt s w) table
  if badCode s table then raisePoison s w code.toNat
  let count := if 2 ^ 24 ≤ n.toNat then 0 else n.toNat
  if count ≤ i.toNat then raise s w cJtRange 0 i
  else
    let e ← fetchWord s (causeAt s w) (table + (i + 1) * 4)
    if badCode s (table + (i + 1) * 4) then raisePoison s w code.toNat
    return table + BitVec.ofInt 64 (toSigned 32 e.toNat * 4)

/-- `loop` (R266). -/
def loopOn (s : State) (n : Nat) (target : W64) : State :=
  let v := getReg s.me.view.lc n 0
  let set := fun (x : BitVec 32) => s.setMe { s.me with r := { s.me.r with lc := setReg s.me.r.lc n x } }
  if 1 < v.toNat then (set (v - 1)).jump target else set 0

/-! ## Leaving (R267, R367, R402) -/

/-- The block's speculation tag no longer holds: its generation word does not read GEXP, or cannot be read
(R377). -/
def State.tagFails (s : State) (b : Block) (k : Nat) : Bool :=
  recTagged b.rcd.words &&
    match spadName (field b.rcd.words[5] 16 48) with
    | none => true
    | some (j, n) =>
      let w := s.bankWord b.part j n
      !s.member (chipOf k) (chipOf j) || w.poison || (b.ns && s.secureCluster (clusterOf j))
        || field w.data 0 16 != field b.rcd.words[5] 0 16

/-- A change of the block's generation word that counts as performed for a core is on its way: the check, an acquire at
domain scope, waits for it (R334, R377). -/
def State.tagAwaited (s : State) (b : Block) (k : Nat) : Bool :=
  recTagged b.rcd.words && match spadName (field b.rcd.words[5] 16 48) with
    | none => false
    | some (j, n) => s.promised b.part k (s.coreOf b.part k).ord 0 [(.spad j (8 * n), 8)] false

/-- What every leaving group checks (R267, R377, R402): a block, no busy bit and no pending result, and its
tag. A group whose own access has performed issues, whatever has become of its block or of the tag since (R440). -/
def leaving (s : State) (w : Site) : Eff Block :=
  match s.me.blk with
  | none => raiseIllegal s w
  | some b =>
    if b.squashed && !s.me.performed then .error .cancel
    else if !s.me.mayLeave then hold
    else if s.me.performed then .ok b
    else if s.tagAwaited b s.here then hold
    else if s.tagFails b s.here then .error .discard
    else .ok b

/-- A record that leaves ready while older ones of its queue lie in the overflow ring goes there too (R359): its block waits
for a place in the ring, and for the page of that place (R17). -/
def ringReady (s : State) (b : Block) : Eff Unit :=
  let cl := clusterOf s.here
  let q := b.rcd.queue
  if !s.queueV cl q || s.queueGen cl q != b.rcd.gen || s.overflowed cl q = 0 then .ok ()
  else match s.freePlace cl q with
    | none => hold
    | some n =>
      if s.editing (pageOf (s.overflowAt cl q n)) then hold
      else match s.readyTable (s.overflowAt cl q n) with
        | .now _ => .ok ()
        | .wait _ => .error (.absent (pageOf (s.overflowAt cl q n)) State.tableAttr)
        | .noFrame => hold

/-- The PC of the record: the next group, or, from the system handler, the kernel bank's `s47` (R402). -/
def leavingPc (s : State) (w : Site) : Eff W64 := if s.me.kernel then operand s w 47 else .ok s.me.grp.next

/-- An entry of the cluster's store is free for the record of a leaving block, or its queue is gone (R359). -/
def State.roomToLeave (s : State) (k : Nat) : Bool :=
  decide (s.storeUsed (clusterOf k) < 4096) || match (s.core k).blk with
    | some b => !s.queueV (clusterOf k) b.rcd.queue
    | none => false

/-- The pending wakes for the key of a block, at the queue that its record came from: one destroyed since then holds
none for it (R378). -/
def wakesFor (s : State) (b : Block) : List Rec :=
  if s.queueGen (clusterOf s.here) b.rcd.queue != b.rcd.gen then []
  else (s.cluster (clusterOf s.here)).store.filter fun r =>
    r.queue == b.rcd.queue && r.state == .wake && recKey r.words == recKey b.rcd.words

/-- A wake for the key of a block is pending. -/
def wakePending (s : State) (b : Block) : Bool := !(wakesFor s b).isEmpty

/-- `suspend` (R367): parked with CAUSE 1, or ready with CAUSE 4, and the wake's `s1` and `s2`, when a wake for its key is
pending. -/
def suspendBlock (s : State) (b : Block) (pc : W64) : State :=
  let cl := clusterOf s.here
  match oldest (wakesFor s b) with
  | none => s.leaveWith s.here pc 1 .parked
  | some wake =>
    let t := (s.dropRec cl wake.uid).leaveWith s.here pc 4 .ready
    (t.editRec cl b.rcd.uid 6 (.set 0 64 wake.words[6].toNat)).editRec cl b.rcd.uid 7 (.set 0 64 wake.words[7].toNat)

/-- `end.f`: the future is resolved with `s2`, then the block retires (R267). -/
def endResolving (s : State) (w : Site) (code : BitVec 6) : Eff State := do
  ready (available s code && available s 2)
  let _ ← leaving s w
  let a ← operand s w code
  let v ← operand s w 2
  let t ← resolveAt s w a v true
  return t.retire s.here

/-! ## Handlers -/

/-- `uiret` and `uiret.skip` (R399). -/
def returnTo (s : State) (w : Site) (pc : Core → W64) : Eff State :=
  if !s.me.handler then raiseIllegal s w
  else
    let c := s.me.returnUser (pc s.me)
    .ok (s.setMe { c with grp := { c.grp with status := .left } })

/-- `eret` (R402): to user privilege at the kernel bank's `s47`; a core without a block becomes idle. -/
def returnSystem (s : State) (w : Site) : Eff State :=
  if !s.me.kernel then raisePrivilege s w
  else do
    ready (available s 47)
    let pc ← operand s w 47
    let c := { s.me.returnKernel with pc := codeAddress pc }
    return s.setMe { c with grp := { c.grp with status := .left } }

/-- `halt` (R268, R402): the core stops; the kernel bank is exchanged back and its privilege is user. -/
def haltCore (s : State) (w : Site) : Eff State :=
  if !s.me.kernel then raisePrivilege s w
  else
    let c := { s.me.returnKernel with stopped := true }
    .ok (s.setMe { c with grp := { c.grp with status := .left } })

/-! ## Meanings -/

/-- `br` (R265). -/
def execBr (g : Guard) (o : BitVec 20) (s : State) : Out :=
  runSlot s g (.ok (s.jump (s.offset o.toNat 20)))

/-- `brt` (R185). -/
def execBrt (g : Guard) (sr : BitVec 2) (t u v w : BitVec 4) (b : BitVec 2) (s : State) : Out :=
  let W : Site := ⟨.C, slotWord g 0x02 (place [(sr.toNat, 18), (t.toNat, 14), (u.toNat, 10), (v.toNat, 6), (w.toNat, 2), (b.toNat, 0)])⟩
  runSlot s g (if 11 ≤ t.toNat || 11 ≤ u.toNat || 11 ≤ v.toNat || 11 ≤ w.toNat then raiseIllegal s W else .ok (treeBranch s sr t u v w b))

/-- `call` (R265). -/
def execCall (g : Guard) (o : BitVec 20) (s : State) : Out :=
  runSlot s g (do
    ready (writable s 47)
    return (s.jump (s.offset o.toNat 20)).link)

/-- `callr` (R265). -/
def execCallr (g : Guard) (sr : BitVec 6) (s : State) : Out :=
  let W : Site := ⟨.C, slotWord g 0x04 (place [(sr.toNat, 14)])⟩
  runSlot s g (do
    let x ← jumpTo s W sr
    ready (writable s 47)
    return (s.jump x).link)

/-- `ret` (R265). -/
def execRet (g : Guard) (s : State) : Out :=
  let W : Site := ⟨.C, slotWord g 0x05 0⟩
  runSlot s g (do
    let x ← jumpTo s W 47
    return s.jump x)

/-- `jr` (R265). -/
def execJr (g : Guard) (sr : BitVec 6) (s : State) : Out :=
  let W : Site := ⟨.C, slotWord g 0x06 (place [(sr.toNat, 14)])⟩
  runSlot s g (do
    let x ← jumpTo s W sr
    return s.jump x)

/-- `jt` (R187, R265). -/
def execJt (g : Guard) (i : BitVec 6) (o : BitVec 14) (s : State) : Out :=
  let W : Site := ⟨.C, slotWord g 0x07 (place [(i.toNat, 14), (o.toNat, 0)])⟩
  runSlot s g (do
    let x ← tableTarget s W i (s.offset o.toNat 14)
    return (s.touchCode (s.offset o.toNat 14)).jump x)

/-- `loop` on `lc0` (R266). -/
def execLoopLc0 (g : Guard) (o : BitVec 20) (s : State) : Out :=
  runSlot s g (.ok (loopOn s 0 (s.offset o.toNat 20)))

/-- `loop` on `lc1` (R266). -/
def execLoopLc1 (g : Guard) (o : BitVec 20) (s : State) : Out :=
  runSlot s g (.ok (loopOn s 1 (s.offset o.toNat 20)))

/-- `suspend` (R267, R367). -/
def execSuspend (g : Guard) (s : State) : Out :=
  let W : Site := ⟨.C, slotWord g 0x0A 0⟩
  runSlot s g (do
    let b ← leaving s W
    ready (wakePending s b || s.roomToLeave s.here)
    if wakePending s b then ringReady s b
    return suspendBlock s b (← leavingPc s W))

/-- `yield` (R267, R367): ready again, CAUSE 2. -/
def execYield (g : Guard) (s : State) : Out :=
  let W : Site := ⟨.C, slotWord g 0x0B 0⟩
  runSlot s g (do
    let b ← leaving s W
    ready (s.roomToLeave s.here)
    ringReady s b
    return s.leaveWith s.here (← leavingPc s W) 2 .ready)

/-- `end` (R267, R367). -/
def execEndBlock (g : Guard) (s : State) : Out :=
  let W : Site := ⟨.C, slotWord g 0x0C 0⟩
  runSlot s g (do
    let _ ← leaving s W
    return s.retire s.here)

/-- `end.f` (R267, R402). -/
def execEndF (g : Guard) (sr : BitVec 6) (s : State) : Out :=
  let W : Site := ⟨.C, slotWord g 0x0D (place [(sr.toNat, 14)])⟩
  runSlot s g (endResolving s W sr)

/-- `trap` (R268). -/
def execTrap (g : Guard) (i : BitVec 8) (s : State) : Out :=
  let W : Site := ⟨.C, slotWord g 0x0E (place [(i.toNat, 0)])⟩
  runSlot s g (raise s W cTrapInstr i.toNat 0)

/-- `uiret` (R399). -/
def execUiret (g : Guard) (s : State) : Out :=
  let W : Site := ⟨.C, slotWord g 0x0F 0⟩
  runSlot s g (returnTo s W (·.retryU))

/-- `uiret.skip` (R399). -/
def execUiretSkip (g : Guard) (s : State) : Out :=
  let W : Site := ⟨.C, slotWord g 0x10 0⟩
  runSlot s g (returnTo s W (·.skipU))

/-- `eret` (R402). -/
def execEret (g : Guard) (s : State) : Out :=
  let W : Site := ⟨.C, slotWord g 0x11 0⟩
  runSlot s g (returnSystem s W)

/-- `halt` (R268, R402). -/
def execHalt (g : Guard) (s : State) : Out :=
  let W : Site := ⟨.C, slotWord g 0x12 0⟩
  runSlot s g (haltCore s W)

end Sys2Proof.Machine
end

