-- ==== Sys2Proof/Machine/Scheduler.lean ====
section
/-! DEFINITION. The queues' engines (R354 to R361): arrivals, the enqueue windows, join decrements, the overflow
rings and the destruction of a queue; and the dispatch of a record (R108, R362 to R365, R377). -/
namespace Sys2Proof.Machine

/-! ## Arrivals (R354, R355, R360, R261) -/

/-- The cluster and queue of an enqueue window's address, with the offset in the window (R360). -/
def windowOf (ma : Nat) : Option (Nat × Nat × Nat) :=
  let a := ma % 2 ^ 48 - 0x300040000000
  if 0x300040000000 ≤ ma % 2 ^ 48 && a < 10 * 0x40000 then
    some (ma / 2 ^ 48 * 16 + a / 0x40000, a % 0x40000 / 64, a % 64)
  else none

namespace State

/-- A write to an enqueue window: a single aligned one of 64 bytes enqueues its record, any other is counted in
BADREC (R360). -/
def writeWindow (s : State) (ma : Nat) (bytes : List Byte) (bad : Bool) : State :=
  match windowOf ma with
  | none => s
  | some (cl, q, off) =>
    if off = 0 && bytes.length = 64 then s.arriveQuiet cl q (wordsOf (clean bytes)) bad else s.badrec cl

/-- The record that a CRP names, read at its bank and sent to its queue (R354); a CRP outside its limits, and a
record that the future's world may not read, count in BADREC. -/
def enqueueNamed (s : State) (d : Decrement) (bank crp : Nat) : State :=
  let ch := chipOfCluster d.cluster
  let named := bitsOf crp 40 8 * 16 + bitsOf crp 37 3 * 2 + bitsOf crp 36 1
  let valid := decide (bitsOf crp 37 3 ≤ 4) && s.member ch (bitsOf crp 40 8)
  match spadName crp with
  | some (k, w) =>
    if !valid then s.badrec (clusterOf bank)
    else if !s.pathTo bank (.spad k 0) then s
    else if w % 8 ≠ 0 || (d.ns && s.secureCluster (clusterOf k)) then s.badrec named
    else
      let ws := (List.range 8).map fun i => s.bankWord d.part k (w + i)
      let words := #v[(ws.getD 0 SpWord.reset).data, (ws.getD 1 SpWord.reset).data, (ws.getD 2 SpWord.reset).data,
        (ws.getD 3 SpWord.reset).data, (ws.getD 4 SpWord.reset).data, (ws.getD 5 SpWord.reset).data,
        (ws.getD 6 SpWord.reset).data, (ws.getD 7 SpWord.reset).data]
      { s with
        fresh := s.fresh + 1
        recs := s.recs ++ [⟨s.fresh, clusterOf k, bitsOf crp 17 12, words, ws.any (·.poison)⟩] }
  | none => s.badrec (if valid then named else clusterOf bank)

/-- A decrement reaches its join word, where a path remains (R79, R261): COUNT falls, and at 0 the record is enqueued. A JOIN that may receive
none is counted in BADREC of the future's cluster. -/
def decrementJoin (s : State) (d : Decrement) : State :=
  let va := d.join
  let bad := s.badrec d.cluster
  if field va 56 8 ≠ 1 || va.toNat % 8 ≠ 0 then bad
  else match s.window (chipOfCluster d.cluster) va 8 with
    | none => bad
    | some (k, off) =>
      let x := s.bankWord d.part k (off / 8)
      if !s.path (chipOfCluster d.cluster) (dieOfCluster d.cluster) (chipOf k) (dieOf k) then s
      else if x.poison || (d.ns && s.secureCluster (clusterOf k)) then bad
      else
        let n := field x.data 48 16
        if n = 0 then s
        else
          let s := s.setBankWord d.part k (off / 8) { x with data := setField x.data 48 16 (n - 1) }
          if n = 1 then s.enqueueNamed d k (field x.data 0 48) else s

/-- A record that the device discards: LIVE of its crew falls and its held causes are lost (R356, R368). A wake
belongs to no crew (R367). -/
def discardRec (s : State) (cl p : Nat) (r : Rec) : State :=
  let s := s.dropRec cl r.uid
  if recState r.words = 1 then s
  else
    let crew := recCrew r.words
    ((s.lowerLive p crew 1).loseCauses p crew r.held.length).endOfBlock
      ⟨r.uid, BitVec.ofNat 24 crew, r.launch, 0, p, 0, false, false⟩

/-! ## Overflow rings (R359) -/

/-- The newest ready record of a cluster whose queue's ring has room. -/
def spillable (s : State) (cl : Nat) : Option Rec :=
  ((s.cluster cl).store.filter fun r => r.state == .ready && (s.freePlace cl r.queue).isSome).foldl
    (fun b r => match b with
      | none => some r
      | some x => if x.age < r.age then some r else some x) none

/-- Ready records move to their queues' rings, the newest first, until 128 entries are free.
DESIGN CHOICE, log entry 95. -/
def spill (s : State) (cl : Nat) : Nat → State
  | 0 => s
  | n + 1 =>
    if 128 ≤ 4096 - s.storeUsed cl then s
    else match s.spillable cl with
      | none => s
      | some r =>
        match (s.dropRec cl r.uid).putOverflow cl r with
        | .taken t => spill t cl n
        | .wait _ => match s.absentPage (s.overflowAt cl r.queue ((s.freePlace cl r.queue).getD 0)) 64 with
          | some p => s.requestPage p tableAttr none
          | none => s
        | _ => s

/-- The oldest record of a queue in overflow is read from the ring's memory and moves back into the store; one that is
read poisoned is discarded and counted in BADREC (R355, R359).
DEDUCED, log entry 142. -/
def fillOne (s : State) (cl q : Nat) : State :=
  match oldest ((s.cluster cl).store.filter fun r => r.queue == q && r.place.isSome) with
  | none => s
  | some r =>
    let ma := s.overflowAt cl q (r.place.getD 0)
    match s.absentPage ma 64 with
    | some p => s.requestPage p tableAttr none
    | none =>
      if s.editing (pageOf ma) then s
      else
      let s := if regionOf ma = .tiered then s.use (pageOf ma) else s
      let d := s.memData ma 64
      if d.any (·.2) then (s.discardRec cl (s.queuePart cl q) r).badrec cl
      else (s.dropRec cl r.uid).placeRec cl { r with
        words := Vector.ofFn fun i => BitVec.ofNat 64 (ofBytes (((d.drop (8 * i.val)).take 8).map (·.1))) }

/-- The queues of a cluster with records in overflow, in turn. -/
def overflowing (s : State) (cl : Nat) : List Nat :=
  (((s.cluster cl).store.filter fun r => r.place.isSome).map (·.queue)).eraseDups

/-- A record of each queue in turn moves back, while 256 entries are free. -/
def fill (s : State) (cl : Nat) : State :=
  (s.overflowing cl).foldl (fun s q => if 256 ≤ 4096 - s.storeUsed cl then s.fillOne cl q else s) s

/-! ## Destruction (R358, R325, R411) -/

/-- Every record held for a queue is discarded and counted in DROP, those a launch still holds for it among them. -/
def discardQueue (s : State) (cl q : Nat) : State :=
  let p := s.queuePart cl q
  let recs := (s.cluster cl).store.filter fun r => r.queue == q
  let s := (recs.foldl (fun s r => s.discardRec cl p r) s).dropped cl recs.length
  s.launches.foldl (fun s l =>
    let n := (l.pending.filter fun e => e.1 == cl * 4096 + q).length
    if n = 0 then s
    else ((s.dropped cl n).lowerLive l.part l.crew.toNat n).setLaunch
      { l with pending := l.pending.filter fun e => e.1 != cl * 4096 + q, failed := true }) s

/-- A word of a queue's entry replaced. -/
def setQueueWord (s : State) (cl q : Nat) (f : Vector W64 8 → Vector W64 8) : State :=
  let c := s.cluster cl
  s.setCluster cl { c with queues := Table.put c.queues q (f (s.queue cl q)) }

/-- GEN of a queue is raised by 1 modulo 2^16. -/
def raiseGen (s : State) (cl q : Nat) : State :=
  s.setQueueWord cl q fun e => e.set 0 (setField e[0] 16 16 (field e[0] 16 16 + 1))

/-- A queue is destroyed (R358). -/
def destroyQueue (s : State) (cl q : Nat) : State :=
  if !s.queueV cl q then s
  else ((s.discardQueue cl q).setQueueWord cl q fun e => e.set 0 (setField e[0] 63 1 0)).raiseGen cl q

/-- QSTAT's counts are cleared (R361). -/
def clearQstat (s : State) (cl : Nat) : State :=
  let c := s.cluster cl
  s.setCluster cl { c with badrec := 0, drop := 0, late := 0 }

/-! ## Dispatch (R108, R362 to R365, R377) -/

/-- The fast-weight order condition of a record (R131): its sequence is that of the object, or the handle names no
object. A SNAP object has no `next_seq`: the record's is compared with the sequence recorded in the snapshot.
DESIGN CHOICE, log entry 161. -/
def orderMet (s : State) (ch : Nat) (w : Vector W64 8) : Bool :=
  let h := resolveHandle s 16 w[4]
  let o := s.obj (handleKey h)
  !recOrdered w || recSeq w == o.nextSeq.toNat
    || !(field h 0 16 == 0 && s.member ch (field h 56 8) && decide (field h 53 3 ≤ 4)
      && (handleKind h == 1 || handleKind h == 2))
    || !(o.used && o.gen.toNat == handleGen h)

/-- What a record's block did before it left has performed (R343). -/
def leftBehind (s : State) (uid : Nat) : Bool :=
  s.accs.any (fun a => a.own.uid == uid && a.undone)
    || (s.cores.any fun c => c.2.xq.any fun x => x.own.uid == uid && !x.remoteDone c.1)
    || s.parts.any fun p => p.2.image.any fun c => c.2.xq.any fun x => x.own.uid == uid && !x.remoteDone c.1

/-- CMASK, SMASK and CLASS permit the core (R362). -/
def admitsCore (s : State) (cl : Nat) (r : Rec) (k : Nat) : Bool :=
  let e := s.queue cl r.queue
  let n := coreNum k
  if isSextant k then recClass r.words == 1 && bit e[3] (n - 128)
  else recClass r.words == 0 && (if n < 64 then bit e[1] n else bit e[2] (n - 64))

/-- A record is eligible for a core (R362, R343). -/
def eligible (s : State) (r : Rec) (k : Nat) : Bool :=
  let cl := clusterOf k
  r.state == .ready && s.admitsCore cl r k && s.owner k == some (s.queuePart cl r.queue)
    && !(s.part (s.queuePart cl r.queue)).wantReset
    && s.queueNs cl r.queue == (s.cluster cl).ns && s.orderMet (chipOf k) r.words && !s.leftBehind r.uid

/-- A core can take a record: it runs nothing, is not stopped, and no command still uses its registers (R117).
DEDUCED, log entry 74. -/
def idle (s : State) (k : Nat) : Bool :=
  let c := s.core k
  c.blk.isNone && !c.kernel && !c.stopped && c.busy.isEmpty

/-- The record that the scheduler picks for an idle core, with `run` after it (R363). -/
def pick (s : State) (k : Nat) : Option (Rec × Nat) :=
  let c := s.cluster (clusterOf k)
  let e := c.store.filter fun r => s.eligible r k
  let none_ := oldest (e.filter fun r => recDeadline r.words == noDeadline)
  let d := e.filter fun r => recDeadline r.words != noDeadline
  let least := (d.map fun r => recDeadline r.words).foldl min noDeadline
  let due := oldest (d.filter fun r => recDeadline r.words == least)
  match none_, due with
  | none, none => none
  | some n, none => some (n, 0)
  | some n, some r => if 63 ≤ c.run then some (n, 0) else some (r, min (c.run + 1) 63)
  | none, some r => some (r, min (c.run + 1) 63)

end State

/-- The registers at dispatch (R108): every block register at its reset value, then those the record loads; what
the core holds stays (R107). -/
def Arch.dispatch (r : Arch) (w : Vector W64 8) (budget : BitVec 32) : Arch :=
  { Arch.reset with
    s := (Arch.reset.s.set 1 (known w[6])).set 2 (known w[7])
    h := Arch.reset.h.set 0 w[4]
    fstat := BitVec.ofNat 64 (field w[3] 0 7)
    seq := BitVec.ofNat 16 (recSeq w)
    budget := budget
    cf := r.cf
    cfstat := r.cfstat
    bar := r.bar
    swz := r.swz
    waitlim := r.waitlim
    srseed := r.srseed
    tstat := r.tstat
    fwstat := r.fwstat
    pslost := r.pslost
    clim := r.clim
    frzcnt := r.frzcnt
    spad := r.spad }

/-- A core that begins a block (R108, R364): its held user causes are pending, the oldest first. -/
def Core.begin (c : Core) (b : Block) (budget : BitVec 32) : Core :=
  let c := c.dropSums.touchPredicates.endWait
  { c with
    r := c.r.dispatch b.rcd.words budget
    pc := BitVec.ofNat 64 (field b.rcd.words[0] 2 62 * 4)
    kernel := false
    handler := false
    bankU := Bank.zero
    pendU := b.rcd.held
    awaits := []
    budgetDue := false
    blk := some { b with rcd := { b.rcd with held := [], words := setHeld b.rcd.words false } } }

namespace State

/-- The budget that a record's block begins with (R365). -/
def firstBudget (s : State) (p : Nat) (w : Vector W64 8) : BitVec 32 :=
  if recBudget w ≠ 0 then BitVec.ofNat 32 (recBudget w)
  else if recCrew w = 0 then BitVec.allOnes 32
  else BitVec.ofNat 32 (field (s.mem64 (s.crewMA p (recCrew w) + 16)) 0 32)

/-- The first page outside tier 0 that a dispatch reads: that of the context's descriptor, or that of the crew's entry when
the record has no budget of its own (R17, R49, R365). -/
def dispatchNeeds (s : State) (p : Nat) (ctx : BitVec 12) (w : Vector W64 8) : Option Nat :=
  match (s.descriptor p ctx).bind fun at_ => s.absentPage at_ 64 with
  | some pg => some pg
  | none => if recBudget w = 0 && recCrew w != 0 then s.absentPage (s.crewMA p (recCrew w) + 16) 8 else none

/-- A core is given the record that its scheduler picks (R363). A record whose tag fails is dropped instead
(R377). The context's descriptor is read as it stands, once its page is in tier 0: when it is invalid the first fetch
takes a fault of kind CTX (R49, R64). -/
def dispatch (s : State) (k : Nat) : State :=
  if !isCore k || !s.idle k then s
  else match s.pick k with
    | none => s
    | some (r, run) =>
      let cl := clusterOf k
      let p := s.queuePart cl r.queue
      let ctx := s.queueCtx cl r.queue
      let b : Block :=
        { rcd := r, ahead := [], part := p, ctx := ctx, ns := s.queueNs cl r.queue, squashed := false
          badCtx := (s.context p ctx).isNone }
      match s.dispatchNeeds p ctx r.words with
      | some pg => s.requestPage pg tableAttr none
      | none =>
      if s.tagAwaited b k then s
      else
      let s := s.setCluster cl { s.cluster cl with run := run }
      if s.tagFails b k then
        let index := match s.launches.find? fun l => some l.id == r.launch with
          | some l => BitVec.ofNat 64 (indexIn l.dims (recBlock r.words))
          | none => 0
        (s.discardRec cl p r).retractLater ⟨r.uid, BitVec.ofNat 24 (recCrew r.words), r.launch, index, p, b.ctx, b.ns, false⟩
      else
        let late := recDeadline r.words != noDeadline && decide (recDeadline r.words < (s.timeAt (chipOf k)).toNat)
        let s := s.dropRec cl r.uid
        let c := s.cluster cl
        let s := if late then
            s.setCluster cl { c with late := BitVec.ofNat 16 (satAdd 0xFFFF c.late.toNat 1) } else s
        let x := ((s.core k).idled s.tick).begin b (s.firstBudget p r.words)
        s.setCore k { x with walkFault := if (s.context p b.ctx).isNone then some (x.pc.toNat / 2 ^ 16, BitVec.ofNat 8 kCtx) else none }

end State

/-! ## Meanings -/

/-- A record on its way arrives at its queue (R355, R358, R359). -/
def execRecordEnqueue (id : Nat) (s : State) : Out :=
  .next (match s.recs.find? fun m => m.id == id with
    | none => s
    | some m => { s with recs := s.recs.filter fun x => x.id != id }.arriveQuiet m.cluster m.queue m.words m.poison)

/-- A write to an enqueue window (R360). -/
def execEnqueueWindowWrite (ma : Nat) (bytes : List (BitVec 8)) (bad : Bool) (s : State) : Out :=
  .next (s.writeWindow ma bytes bad)

/-- A decrement reaches its join word (R261), once what its resolver sent before it has performed at domain scope (R338,
R343); that of an `end.f` waits until the group has issued, whose own store comes before it too.
DEDUCED, log entry 143. -/
def execJoinDecrement (id : Nat) (s : State) : Out :=
  .next (match s.decs.find? fun d => d.id == id with
    | none => s
    | some d =>
      if !s.performedBefore d.part d.src d.ord 5 || decide ((s.coreOf d.part d.src).ord < d.ord) then s
      else ({ s with decs := s.decs.filter fun x => x.id != id }.promiseBefore d.part d.src d.ord 5).decrementJoin d)

/-- With fewer than 64 entries free, the newest ready records move to overflow rings (R359). -/
def execSpillToOverflow (cl : Nat) (s : State) : Out :=
  .next (if 4096 - s.storeUsed cl < 64 then s.spill cl 128 else s)

/-- With 256 entries free, records move back from overflow rings (R359). -/
def execFillFromOverflow (cl : Nat) (s : State) : Out := .next (s.fill cl)

/-- An idle core receives a record (R363). -/
def execDispatch (core : Nat) (s : State) : Out := .next (s.dispatch core)

/-- A queue is destroyed (R358). -/
def execQueueDestroy (cl queue : Nat) (s : State) : Out := .next (s.destroyQueue cl queue)

/-- A write of QSTAT (R361). -/
def execQstatClear (cl : Nat) (s : State) : Out := .next (s.clearQstat cl)

end Sys2Proof.Machine
end

