-- ==== Sys2Proof/Machine/Partition.lean ====
section
/-! DEFINITION. Partitions: swap-out, swap-in, the image, partition reset and management restart (R406 to R411). -/
namespace Sys2Proof.Machine

/-- A core lies in a granule of a partition. -/
def State.inPart (s : State) (p k : Nat) : Bool := p / 64 == chipOf k && (s.part p).pgran.getLsbD (granuleOf k)

/-! ## Swap-out (R407, R408) -/

/-- A core as its image keeps it: the weight buffer's contents are discarded and its refill records kept, and CLIM
and FRZCNT stay with the core (R408, R425). -/
def Core.imaged (c : Core) : Core :=
  { c with wb := c.wb.map fun w => { w with bits := 0, poison := 0 }, charge := [], vleft := 0 }

/-- What stays at a core whose image has left: CLIM, FRZCNT, the charges of its last cycles (R424, R425) and its cycle
counter, which a swap does not reset (R182). -/
def Core.left (c : Core) : Core :=
  { Core.reset with r := { Arch.reset with clim := c.r.clim, frzcnt := c.r.frzcnt }, charge := c.charge, cycles := c.cycles }

/-- An image in a core: CLIM, FRZCNT, the charges and the cycle counter are the core's own. -/
def Core.restored (c img : Core) : Core :=
  { img with r := { img.r with clim := c.r.clim, frzcnt := c.r.frzcnt }, charge := c.charge, cycles := c.cycles }

/-- A full/empty access parked at a core that leaves is returned with the retry indication (R409). -/
def Acc.returned (gone : Nat → Bool) (a : Acc) : Acc :=
  match a.target, a.kind with
  | .spad k _, .fullEmpty _ => if a.phase == .parked && gone k then { a with phase := .retry } else a
  | _, _ => a

/-- Granules of a partition on a die. -/
def granulesOn (x : Partition) (die : Nat) : Nat :=
  ((List.range 8).filter fun g => x.pgran.getLsbD (die * 8 + g)).length

/-- Every die has a free slot of its shadow store for each granule that the partitions would send there (R407). -/
def State.roomFor (s : State) (ch : Nat) (out : List Nat) : Bool :=
  (List.range 5).all fun d =>
    let held := ((s.parts.filter fun p => p.1 / 64 == ch && p.2.saved).map fun p => granulesOn p.2 d).foldl (· + ·) 0
    let new := (out.map fun p => granulesOn (s.part p) d).foldl (· + ·) 0
    decide (new = 0) || decide (held + new ≤ 2)

/-- A resident partition leaves its cores: they halt before their next groups, and their state becomes the image. -/
def State.moveOut (s : State) (p : Nat) : State :=
  let x := s.part p
  let mine := s.cores.filter fun c => s.inPart p c.1
  { s with
    cores := s.cores.map fun (c : Nat × Core) => if s.inPart p c.1 then (c.1, c.2.left) else c
    accs := s.accs.map (Acc.returned (s.inPart p)) }.setPart p
    { x with state := .goingOut, saved := true, image := mine.map fun (c : Nat × Core) => (c.1, c.2.imaged) }

/-- A refused swap request is counted. -/
def State.refuseSwap (s : State) (p : Nat) : State :=
  s.setPart p { s.part p with refused := BitVec.ofNat 16 (satAdd 0xFFFF (s.part p).refused.toNat 1) }

/-- SWOUT (R406, R407). -/
def State.swapOut (s : State) (p : Nat) : State :=
  if (s.part p).state ≠ .resident || s.closed (p / 64) then s
  else if s.roomFor (p / 64) [p] then s.moveOut p else s.refuseSwap p

/-! ## Swap-in (R407, R410) -/

/-- Partitions other than p that share a granule with it and stand in a state. -/
def State.rivals (s : State) (p : Nat) (st : Residence) : List Nat :=
  (s.parts.filter fun q => q.1 != p && q.1 / 64 == p / 64 && q.2.state == st
    && q.2.pgran &&& (s.part p).pgran != 0).map (·.1)

/-- SWIN (R406, R407): the resident partitions that hold a granule of it go out first. A granule that another
partition is coming in to counts as one that cannot be freed.
DEDUCED, log entry 107. -/
def State.swapIn (s : State) (p : Nat) : State :=
  let out := s.rivals p .resident
  if (s.part p).state ≠ .out || s.closed (p / 64) then s
  else if !(s.rivals p .comingIn).isEmpty || !s.roomFor (p / 64) out then s.refuseSwap p
  else
    let s := out.foldl (fun s q => s.moveOut q) s
    s.setPart p { s.part p with state := .comingIn }

/-- For whom a region is refilled: the recorded context, world and privilege (R106). -/
def WRegion.owner (w : WRegion) : Owner := ⟨0, 0, none, 0, w.part, w.ctx, w.ns, w.kernel⟩

/-- The pieces from which a region of a core's weight buffer is refilled, through the recorded context's tables as they
stand (R106).
DEDUCED, log entry 109. -/
def refillPlan (s : State) (k : Nat) (w : WRegion) (va : Nat) : Plan :=
  s.planBy (fun a => s.walk w.part w.ctx a) k w.owner .load (runs va w.len)

/-- A region refilled from its recorded source; one whose refill does not complete with status OK is poisoned. -/
def refill (s : State) (k : Nat) (w : WRegion) : WRegion :=
  match w.src with
  | none => w
  | some va =>
    let a := refillPlan s k w va
    if w.lost || a.fault.isSome || (s.refusedIn a.pieces).isSome then
      { w with bits := 0, poison := BitVec.allOnes 16384, lost := false }
    else
      let d := s.readPieces k (deviceCmd s w.owner []) a.pieces
      { fillRegion w.fmt va w.owner d with len := w.len }

/-- Pages outside tier 0 that the refill of a region needs: those of its tables first (R42, R56). -/
def refillNeeds (s : State) (k : Nat) (w : WRegion) : List (Nat × BitVec 16) :=
  match w.src with
  | none => []
  | some va =>
    if w.lost then []
    else match (granulesOf (runs va w.len)).findSome? fun g => s.walkAbsent w.part w.ctx (g * 65536) with
      | some p => [(p, State.tableAttr)]
      | none => (s.absentIn (refillPlan s k w va).pieces).map fun x => (x.1, x.2.1)

/-- An image whose regions that need a page have lost their refill. -/
def refillLost (s : State) (k p : Nat) (c : Core) : Core :=
  { c with wb := c.wb.map fun w => if (refillNeeds s k w).any fun x => x.1 == p then { w with lost := true } else w }

/-- The page-ins that have failed for the refills of a partition are taken note of. -/
def State.noteRefills (s : State) (p : Nat) : State :=
  (s.part p).image.foldl (fun s c => match (s.core c.1).pageFault with
    | none => s
    | some f => (s.setCore c.1 { s.core c.1 with pageFault := none }).setPart p
        { s.part p with image := Table.put (s.part p).image c.1 (refillLost s c.1 f.1 c.2) }) s

/-- A partition comes in: its image is restored and its weight buffers are refilled before its cores go on
(R410). Pages that a refill needs are brought in first. -/
def State.restore (s : State) (p : Nat) : State :=
  let s := s.noteRefills p
  let x := s.part p
  let pages := x.image.flatMap fun c => c.2.wb.toList.flatMap fun w => (refillNeeds s c.1 w).map (c.1, ·)
  if !pages.isEmpty then pages.foldl (fun s g => s.awaitPage g.1 g.2.1 g.2.2) s
  else
    let s := x.image.foldl (fun s c => s.setCore c.1 (((s.core c.1).idled s.tick).restored c.2)) s
    let s := s.setPart p { x with state := .resident, saved := false, image := [] }
    x.image.foldl (fun s c => s.setCore c.1 { s.core c.1 with wb := (s.core c.1).wb.map (refill s c.1) }) s

/-- The clusters that a partition has a granule on take its world, if it is resident: the security processor
assigns them as the partition boots (R65, R66, R68). Of the IOD's engines and ports nothing is assigned: the manual names no
register for it, and their registers are reached as WRGN and the endpoint's NS have it.
DEDUCED, log entry 29; DESIGN CHOICE, log entry 164. -/
def State.assignWorlds (s : State) (p : Nat) : State :=
  let x := s.part p
  if x.state != .resident then s
  else ((List.range 10).filter fun i => (List.range 4).any fun g => x.pgran.getLsbD (4 * i + g)).foldl
    (fun s i => s.setCluster (p / 64 * 16 + i) { s.cluster (p / 64 * 16 + i) with ns := x.ns }) s

/-- A swap ends (R408, R410). -/
def State.endSwap (s : State) (p : Nat) : State :=
  match (s.part p).state with
  | .goingOut => s.setPart p { s.part p with state := .out }
  | .comingIn =>
    if (s.rivals p .resident).isEmpty && (s.rivals p .goingOut).isEmpty then (s.restore p).assignWorlds p else s
  | .resident => s
  | .out => s

/-! ## Partition reset (R411) -/

/-- The cores of a partition, or of its image, have no accepted command under way.
DEDUCED, log entry 108. -/
def State.calm (s : State) (p : Nat) : Bool :=
  let done := fun (c : Core) => c.xq.isEmpty && c.fq.isEmpty
  s.cores.all (fun c => !(s.inPart p c.1) || (s.part p).state != .resident || done c.2)
    && (s.part p).image.all fun c => done c.2

/-- The records held for the queues of a partition are discarded, and the queues' generations raised. -/
def State.resetQueues (s : State) (p : Nat) : State :=
  let qs := s.clusters.flatMap fun c => (c.2.queues.filter fun q => s.queueV c.1 q.1 && s.queuePart c.1 q.1 == p).map
    fun q => (c.1, q.1)
  qs.foldl (fun s q => (s.discardQueue q.1 q.2).raiseGen q.1 q.2) s

/-- Bytes of a partition's crew table (R355, R357). -/
def State.crewBytes (s : State) (p : Nat) : Nat := 32 * field (s.part p).crewcfg 40 24

/-- The pages of a partition's crew table, by the address of their first byte of it. -/
def State.crewPages (s : State) (p : Nat) : List Nat :=
  (List.range ((s.crewBytes p + 65535) / 65536)).map fun i => s.crewMA p 0 + 65536 * i

/-- The pages of a partition's crew table are reached as for any other write of the device's; whether none is still awaited
stands beside it (R17, R51). -/
def State.readyCrews (s : State) (p : Nat) : State × Bool :=
  (s.crewPages p).foldl (fun x ma => match x.1.readyTable ma with
    | .now t => (t, x.2)
    | .wait t => (t, false)
    | .noFrame => x) (s, true)

/-- Every entry of a partition's crew table is cleared, and the changes that waited for one of its pages with it; a page that
was never written and finds no frame stays so (R51). -/
def State.clearCrews (s : State) (p : Nat) : State :=
  let n := s.crewBytes p
  let at_ := s.crewMA p 0
  let s := { s with edits := s.edits.filter fun e => !(decide (at_ ≤ e.ma) && decide (e.ma < at_ + n)) }
  ((s.crewPages p).filter fun ma => regionOf ma != .tiered || s.present (pageOf ma)).foldl
    (fun s ma => s.writeMem ma (clean (List.replicate (min 65536 (at_ + n - ma)) 0))) s

/-- What was on its way for a partition is discarded: posts, decrements and records, launches, collectives and
walks, and accesses that wait at a target. -/
def State.dropArrivals (s : State) (p : Nat) : State :=
  let s := { s with
    posts := s.posts.filter fun x => x.part != p
    decs := s.decs.filter fun x => x.part != p
    recs := s.recs.filter fun x => s.queuePart x.cluster x.queue != p
    walks := s.walks.filter fun x => x.part != p
    dying := s.dying.filter fun x => x.part != p
    colls := s.colls.filter fun x => x.part != p
    launches := s.launches.filter fun x => x.part != p
    accs := s.accs.filter fun (a : Acc) => !(a.part == p && (a.phase == Phase.parked || a.phase == Phase.retry)) }
  s.clusters.foldl (fun s c => s.orrerySettle c.1) s

/-- The steps of a partition reset, once the accepted commands have completed and the rings are released. -/
def State.resetPartition (s : State) (p : Nat) : State :=
  let was := (s.part p).state
  let s := (s.resetQueues p).dropArrivals p
  let s := s.clearCrews p
  let s := (s.rings.filter fun r => r.2.part == p).foldl (fun s r => s.removeRing r.1) s
  let s := if was = .resident then
      { s with
        cores := s.cores.map fun (c : Nat × Core) => if s.inPart p c.1 then (c.1, { c.2.left with cycles := 0 }) else c
        accs := s.accs.map fun (a : Acc) => match a.target with
          | .spad k _ => if a.phase == Phase.parked && s.inPart p k then { a with phase := Phase.retry } else a
          | .mem _ => a }
    else s
  s.setPart p { s.part p with
    lostU := 0, lostK := 0, refused := 0, kfault := false, saved := false, wantReset := false, counts := []
    image := [], ending := [], releasing := none }

/-- A ring of a partition is still registered. -/
def State.ringsRemain (s : State) (p : Nat) : Bool := s.rings.any fun r => r.2.part == p

/-- The rings of a resident partition that is reset are released as `xunsub` releases them: what was full drains first
(R217, R219), for at most the 100 µs that the reset may take (R411).
DESIGN CHOICE, log entry 145. -/
def State.releaseFirst (s : State) (p : Nat) : State :=
  match (s.part p).releasing with
  | none =>
    if (s.part p).state != .resident || !s.ringsRemain p then s.resetPartition p
    else
      let s := s.releaseRings fun r => r.part == p
      s.setPart p { s.part p with releasing := some s.now }
  | some t => if s.ringsRemain p && s.passed t < 100000 then s else s.resetPartition p

/-- PRST, or the reset it has started going on: held while a swap is under way, and then until the accepted
commands of the partition's cores have completed and the crew table stands in tier 0. -/
def State.partitionReset (s : State) (p : Nat) : State :=
  let s := s.setPart p { s.part p with wantReset := true }
  if s.resetting p && s.calm p then
    let x := s.readyCrews p
    if x.2 then x.1.releaseFirst p else x.1
  else s

/-! ## Management restart (R411) -/

/-- A stopped core returns to idle at user privilege; the rest of its state stays. -/
def Core.restarted (c : Core) : Core :=
  { c with stopped := false, kernel := false, handler := false, blk := none, pendU := [], awaits := [] }.endWait

/-- The block that a stopped core held is discarded. -/
def State.discardHeld (s : State) (c : Core) : State :=
  match c.blk with
  | none => s
  | some b =>
    let crew := recCrew b.rcd.words
    ((s.lowerLive b.part crew 1).loseCauses b.part crew (c.pendU.length + b.rcd.held.length)).endOfBlock
      ⟨b.rcd.uid, BitVec.ofNat 24 crew, b.rcd.launch, 0, b.part, b.ctx, b.ns, false⟩

/-- RESTART: every stopped core of the partition returns to idle; in a module that stopped its cores at 110 degrees, once
every temperature is below 95 (R426). -/
def State.restartPartition (s : State) (p : Nat) : State :=
  let out := s.isOut p
  let cs := if (s.chip (p / 64)).tempstop && !(s.chip (p / 64)).cool || s.closed (p / 64) then [] else
    (if out then (s.part p).image else s.cores).filter fun c => (out || s.inPart p c.1) && c.2.stopped
  cs.foldl (fun s c => (s.setCoreOf p c.1 c.2.restarted).discardHeld c.2) s

/-! ## Meanings -/

/-- SWAP_OUT (R407, R408). -/
def execSwapOut (part : Nat) (s : State) : Out := .next (s.swapOut part)

/-- SWAP_IN (R407, R410). -/
def execSwapIn (part : Nat) (s : State) : Out := .next (s.swapIn part)

/-- SWAP_COMPLETE (R408 to R410). -/
def execSwapComplete (part : Nat) (s : State) : Out := .next (s.endSwap part)

/-- PARTITION_RESET (R411). -/
def execPartitionReset (part : Nat) (s : State) : Out := .next (s.partitionReset part)

/-- MANAGEMENT_RESTART (R411). -/
def execManagementRestart (part : Nat) (s : State) : Out := .next (s.restartPartition part)

end Sys2Proof.Machine
end

