-- ==== Sys2Proof/Machine/Pipeline.lean ====
section
/-! DEFINITION. From request bytes to records and from reply words to bytes: endpoints (R379 to R382), almanacs
(R383 to R385), tokenising (R386 to R388) and detokenising (R389). -/
namespace Sys2Proof.Machine

/-! ## Almanacs (R383) -/

/-- A 32-bit number of an image. -/
def u32 (img : List Byte) (off : Nat) : Nat := ofBytes (slice img off 4)
/-- NTOK. -/
def ntok (img : List Byte) : Nat := u32 img 4
/-- NMERGE. -/
def nmerge (img : List Byte) : Nat := u32 img 8
/-- LEN. -/
def almanacLen (img : List Byte) : Nat := ofBytes (slice img 16 8)
/-- BYTEMAP. -/
def byteMap (img : List Byte) (b : Byte) : Nat := u32 img (128 + 4 * b.toNat)
/-- Where the string of a token lies: its first byte and its length. -/
def tokenPlace (img : List Byte) (i : Nat) : Nat × Nat :=
  (u32 img (1152 + 8 * i), ofBytes (slice img (1152 + 8 * i + 4) 1))
/-- The string of a token. -/
def tokenString (img : List Byte) (i : Nat) : List Byte := slice img (tokenPlace img i).1 (tokenPlace img i).2
/-- BOUND of a byte. -/
def isBound (img : List Byte) (b : Byte) : Bool := (img.getD (32 + b.toNat / 8) 0).getLsbD (b.toNat % 8)

/-- A row of the merge table: LEFT, RIGHT, RESULT and RANK. -/
structure Merge where
  left : Nat
  right : Nat
  result : Nat
  rank : Nat
  deriving DecidableEq, Repr

/-- The merge table of an image. -/
def merges (img : List Byte) : List Merge :=
  (List.range (nmerge img)).map fun i =>
    let at_ := 1152 + 8 * ntok img + 16 * i
    ⟨u32 img at_, u32 img (at_ + 4), u32 img (at_ + 8), u32 img (at_ + 12)⟩

/-! ### The checks of a load (R385) -/

/-- All of some bytes are zero. -/
def allZero (bs : List Byte) : Bool := bs.all (· == 0)

/-- MAGIC matches and every reserved field is zero.
DEDUCED, log entry 104. -/
def goodHeader (img : List Byte) : Bool :=
  u32 img 0 == 0x31434C41 && allZero (slice img 12 4) && allZero (slice img 24 8) && allZero (slice img 96 32)
    && (List.range (min (ntok img) 262144)).all fun i => allZero (slice img (1152 + 8 * i + 5) 3)

/-- The counts are within their limits, and every table and string lies below LEN. -/
def goodExtent (img : List Byte) : Bool :=
  decide (256 ≤ ntok img) && decide (ntok img ≤ 262144) && decide (nmerge img + 256 ≤ ntok img)
    && decide (almanacLen img ≤ 0x4000000)
    && decide (1152 + 8 * ntok img + 16 * nmerge img ≤ almanacLen img)
    && (List.range (ntok img)).all fun i => decide ((tokenPlace img i).1 + (tokenPlace img i).2 ≤ almanacLen img)

/-- Every BYTEMAP id is a token whose string is that one byte. -/
def goodBytes (img : List Byte) : Bool :=
  (List.range 256).all fun b =>
    decide (byteMap img (BitVec.ofNat 8 b) < ntok img)
      && tokenString img (byteMap img (BitVec.ofNat 8 b)) == [BitVec.ofNat 8 b]

/-- Every merge joins the strings of two tokens into that of a third. -/
def goodMerges (img : List Byte) : Bool :=
  (merges img).all fun m =>
    decide (m.left < ntok img) && decide (m.right < ntok img) && decide (m.result < ntok img)
      && tokenString img m.result == tokenString img m.left ++ tokenString img m.right

/-- No two merges share a pair or a rank. -/
def distinctMerges : List Merge → Bool
  | [] => true
  | m :: r => r.all (fun n => !(n.left == m.left && n.right == m.right) && n.rank != m.rank) && distinctMerges r

/-- The first check that fails, or 0. -/
def almanacCode (img : List Byte) (poisoned inUse : Bool) : Nat :=
  if !goodHeader img then 1
  else if !goodExtent img then 2
  else if !goodBytes img then 3
  else if !goodMerges img then 4
  else if !distinctMerges (merges img) then 5
  else if sm3Bytes (slice img 128 (almanacLen img - 128)) != slice img 64 32 then 6
  else if inUse then 7
  else if poisoned then 8
  else 0

/-! ## Tokenising (R386) -/

/-- The bytes of a request as pieces: a piece begins at the first byte, at a byte of BOUND and after 4096 bytes. -/
def pieces (img : List Byte) : List Byte → List (List Byte)
  | [] => []
  | b :: r =>
    match pieces img r with
    | [] => [[b]]
    | p :: ps => match p with
      | [] => [b] :: ps
      | c :: _ => if isBound img c then [b] :: p :: ps else (b :: p) :: ps

/-- A piece cut after every 4096 of its bytes. -/
def cutPiece : Nat → List Byte → List (List Byte)
  | 0, _ => []
  | n + 1, p => if p.length ≤ 4096 then [p] else p.take 4096 :: cutPiece n (p.drop 4096)

/-- The position of the pair to merge next: the leftmost of the lowest rank. -/
def bestPair (ms : List Merge) : List Nat → Option (Nat × Merge)
  | a :: b :: r =>
    let rest := (bestPair ms (b :: r)).map fun p => (p.1 + 1, p.2)
    match ms.find? fun m => m.left == a && m.right == b, rest with
    | none, x => x
    | some m, none => some (0, m)
    | some m, some (i, n) => if n.rank < m.rank then some (i, n) else some (0, m)
  | _ => none

/-- A piece's tokens merged until no pair is left. -/
def mergeAll (ms : List Merge) : Nat → List Nat → List Nat
  | 0, ts => ts
  | n + 1, ts =>
    match bestPair ms ts with
    | none => ts
    | some (i, m) => mergeAll ms n (ts.take i ++ m.result :: ts.drop (i + 2))

/-- The token sequence of some bytes. -/
def tokenise (img : List Byte) (bs : List Byte) : List Nat :=
  ((pieces img bs).flatMap fun p => cutPiece (p.length / 4096 + 1) p).flatMap fun p =>
    mergeAll (merges img) p.length (p.map (byteMap img))

/-- The request-ring words of a request (R387), each with its place. -/
def requestWords (img : List Byte) (maxreq : Nat) (bs : List Byte) : List (Nat × W64) :=
  let ts := if bs.isEmpty then [byteMap img 0] else tokenise img (bs.take maxreq)
  ts.mapIdx fun i t => (i, BitVec.ofNat 64 (t + (if i + 1 = ts.length then
    2 ^ 63 + ofBool (decide (maxreq < bs.length)) * 2 ^ 62 else 0)))

/-! ## Detokenising (R389) -/

/-- The ranges of the bytes that follow a first byte in well-formed UTF-8; none for a byte that begins nothing. -/
def utf8Ranges (b : Byte) : Option (List (Nat × Nat)) :=
  let n := b.toNat
  if n < 0x80 then some []
  else if n < 0xC2 then none
  else if n < 0xE0 then some [(0x80, 0xBF)]
  else if n = 0xE0 then some [(0xA0, 0xBF), (0x80, 0xBF)]
  else if n = 0xED then some [(0x80, 0x9F), (0x80, 0xBF)]
  else if n < 0xF0 then some [(0x80, 0xBF), (0x80, 0xBF)]
  else if n = 0xF0 then some [(0x90, 0xBF), (0x80, 0xBF), (0x80, 0xBF)]
  else if n < 0xF4 then some [(0x80, 0xBF), (0x80, 0xBF), (0x80, 0xBF)]
  else if n = 0xF4 then some [(0x80, 0x8F), (0x80, 0xBF), (0x80, 0xBF)]
  else none

/-- How many leading bytes lie in the ranges in turn. -/
def matched : List (Nat × Nat) → List Byte → Nat
  | p :: ps, b :: r => if p.1 ≤ b.toNat && b.toNat ≤ p.2 then matched ps r + 1 else 0
  | _, _ => 0

/-- U+FFFD. -/
def replacement : List Byte := [0xEF, 0xBF, 0xBD]

/-- What held bytes give out and what stays held: complete sequences pass, each maximal ill-formed subpart becomes
U+FFFD, and a trailing subpart that could still be completed stays. -/
def emitUtf8 : Nat → List Byte → List Byte × List Byte
  | 0, bs => ([], bs)
  | _, [] => ([], [])
  | n + 1, b :: r =>
    match utf8Ranges b with
    | none => let x := emitUtf8 n r; (replacement ++ x.1, x.2)
    | some rs =>
      let m := matched rs r
      if m = rs.length then let x := emitUtf8 n (r.drop m); (b :: r.take m ++ x.1, x.2)
      else if m = r.length then ([], b :: r)
      else let x := emitUtf8 n (r.drop m); (replacement ++ x.1, x.2)

/-! ## Endpoints (R380 to R382) -/

namespace Endpoint

/-- V. -/
def v (e : Endpoint) : Bool := bit e.words[0] 63
/-- NS. -/
def ns (e : Endpoint) : Bool := bit e.words[0] 62
/-- A reserved field of words 0 to 6 is not zero. -/
def badReserved (w : Vector W64 8) : Bool :=
  field w[0] 51 7 != 0 || field w[0] 0 48 != 0 || field w[1] 56 8 != 0 || field w[1] 12 20 != 0
    || field w[2] 0 24 != 0 || field w[3] 56 8 != 0 || field w[4] 60 4 != 0 || field w[5] 60 4 != 0
    || field w[6] 24 40 != 0
/-- The queue of an endpoint: its cluster, id and generation (R323). -/
def queueOf (w : Vector W64 8) : Nat × Nat × Nat := (field w[2] 52 12, field w[2] 40 12, field w[2] 24 16)
/-- The ring of a word 4 or 5: its core, first word and number of words. -/
def ringOf (w : W64) : Option (Nat × Nat × Nat) :=
  match spadName (field w 0 48) with
  | some (k, i) =>
    if field w 17 12 == 0 && i + field w 48 12 ≤ 98303 then some (k, i, field w 48 12 + 1) else none
  | none => none

end Endpoint

/-- The almanac that endpoint words name (R383). -/
def almanacOf (s : State) (ch : Nat) (w : Vector W64 8) : Option Almanac :=
  Table.look (s.chip ch).almanacs (field w[0] 58 4)

/-- The partition for whose words the device acts at an endpoint: that of its queue. -/
def endpointPart (s : State) (w : Vector W64 8) : Nat :=
  s.queuePart (Endpoint.queueOf w).1 (Endpoint.queueOf w).2.1

/-- The entry discards every request (R381).
DEDUCED, log entry 102. -/
def badEntry (s : State) (ch : Nat) (w : Vector W64 8) : Bool :=
  let q := Endpoint.queueOf w
  let ns := bit w[0] 62
  Endpoint.badReserved w || (almanacOf s ch w).isNone || s.queueNs q.1 q.2.1 != ns
    || (match Endpoint.ringOf w[4], Endpoint.ringOf w[5] with
        | some a, some b => s.secureCluster (clusterOf a.1) == ns || s.secureCluster (clusterOf b.1) == ns
            || !s.member ch (chipOf a.1) || !s.member ch (chipOf b.1)
        | _, _ => true)

/-- Requests discarded are counted. -/
def Endpoint.drop (e : Endpoint) (n : Nat) : Endpoint :=
  { e with dropreq := BitVec.ofNat 16 (satAdd 0xFFFF e.dropreq.toNat n) }

/-- A request received from a fabric endpoint (R379): a message that matches no entry in use is refused by the
transport, as is one for a module whose boot chain has stopped (R420). -/
def receiveRequest (s : State) (ch port job pid : Nat) (bs : List Byte) (sender : Nat) : State :=
  if s.closed ch then s
  else match (s.chip ch).endpoints.find? fun e => e.2.v && field e.2.words[0] 48 3 == port
      && field e.2.words[1] 32 24 == job && field e.2.words[1] 0 12 == pid with
  | none => s
  | some e => s.setEndpoint ch e.1 { e.2 with waiting := e.2.waiting ++ [(sender, bs)] }

/-- One of the module's 16 tokeniser engines is free: a request holds its engine until its last word has landed
(R2, R386). -/
def engineFree (s : State) (ch : Nat) : Bool :=
  decide (((s.chip ch).endpoints.filter fun (e : Nat × Endpoint) => match e.2.cur with
    | some t => !t.words.isEmpty
    | none => false).length < 16)

/-- A tokeniser engine begins the endpoint's next request, under the entry as it stands (R381, R386, R387). -/
def beginRequest (s : State) (ch e : Nat) : State :=
  let x := s.endpoint ch e
  match x.waiting with
  | [] => s
  | (sender, bs) :: rest =>
    if !x.v || x.cur.isSome || !engineFree s ch then s
    else if badEntry s ch x.words then s.setEndpoint ch e { x.drop 1 with waiting := rest }
    else
      match almanacOf s ch x.words with
      | none => s
      | some a =>
        let m := field x.words[6] 0 24
        s.setEndpoint ch e { x with
          waiting := rest
          truncs := if m < bs.length then BitVec.ofNat 16 (satAdd 0xFFFF x.truncs.toNat 1) else x.truncs
          cur := some ⟨sender, x.words, x.kin, requestWords a.image m bs, false, false, false⟩ }

/-- A word of the request in hand lands in its empty ring word (R387). The engine writes a word only when its ring
word is empty and waits while it is not, so no word goes past one whose ring word is full; those it has written land
in any order, within one turn of the ring.
DESIGN CHOICE, log entry 100. -/
def landRequestWord (s : State) (ch e : Nat) : State :=
  let x := s.endpoint ch e
  match x.cur with
  | none => s
  | some t =>
    match Endpoint.ringOf t.entry[4], t.words with
    | some (k, i, n), (first, _) :: _ =>
      let p := endpointPart s t.entry
      let at_ := fun (w : Nat × W64) => i + (t.base + BitVec.ofNat 32 w.1).toNat % n
      let free := (t.words.filter fun w => decide (w.1 < first + n)).takeWhile fun w => !(s.bankWord p k (at_ w)).full
      match free[Config.choice s.tick % free.length]? with
      | none => s
      | some w =>
        (s.setBankWord p k (at_ w) ⟨w.2, true, false⟩).setEndpoint ch e { x with
          kin := x.kin + 1
          cur := if t.words.length = 1 && (t.sent || t.dropped) then none
            else some { t with words := t.words.erase w, landed := t.landed || w.1 == 0 } }
    | _, _ => s

/-- A request in hand whose remaining bytes are discarded, with a number of words landed (R388): the words written
before one that has landed still land, so that KIN counts them all (R387).
DEDUCED, log entry 101. -/
def Tokenising.discard (t : Tokenising) (landed : Nat) : Option Tokenising :=
  let written := (t.words.zipIdx.filter fun w => decide (w.1.1 - w.2 < landed)).map (·.1)
  if written.isEmpty then none else some { t with words := written, dropped := true }

/-- The template's record with KIN of the request's first word and the endpoint's number (R388). -/
def templateRecord (s : State) (t : Tokenising) (e : Nat) : Vector W64 8 :=
  ((wordsOf (s.memData (field t.entry[3] 0 56) 64)).set 6 (t.base.setWidth 64)).set 7 (BitVec.ofNat 64 e)

/-- The template cannot be read: it lies outside memory or the domain, it is poisoned, or the world check refuses it.
DEDUCED, log entry 101. -/
def badTemplate (s : State) (ch : Nat) (t : Tokenising) : Bool :=
  let ma := field t.entry[3] 0 56
  (regionOf ma != .tiered && regionOf ma != .host) || !s.member ch (ma / 2 ^ 48)
    || (s.memData ma 64).any (·.2) || (bit t.entry[0] 62 && s.secureMA ma)

/-- The template's record enqueued once the request's first word has landed (R388): a refusal discards the rest
of the request. The sender of a request whose template has been enqueued awaits a reply (R379).
DEDUCED, log entry 146. -/
def sendTemplate (s : State) (ch e : Nat) : State :=
  let x := s.endpoint ch e
  match x.cur with
  | none => s
  | some t =>
    let ma := field t.entry[3] 0 56
    let q := Endpoint.queueOf t.entry
    let dropped := s.setEndpoint ch e { x.drop 1 with cur := t.discard (x.kin - t.base).toNat }
    if !t.landed || t.sent || t.dropped then s
    else if regionOf ma = .tiered && !s.present (pageOf ma) then s.requestPage (pageOf ma) 0x00E8 none
    else if badTemplate s ch t || !s.queueV q.1 q.2.1 || s.queueGen q.1 q.2.1 != q.2.2
        || s.queueNs q.1 q.2.1 != bit t.entry[0] 62
        || !s.validRecord (chipOfCluster q.1) (templateRecord s t e) then dropped
    else
      match s.arrive q.1 q.2.1 (templateRecord s t e) none with
      | .taken s' => s'.setEndpoint ch e
          { x with cur := if t.words.isEmpty then none else some { t with sent := true }, asked := x.asked ++ [t.sender] }
      | .wait t => t
      | .stale => dropped
      | .noSpace => dropped

/-- One reply word (R389): its last one ends a message to the fabric endpoint of the request that is answered (R379). -/
def replyWord (s : State) (ch e : Nat) : State :=
  let x := s.endpoint ch e
  match almanacOf s ch x.words, Endpoint.ringOf x.words[5] with
  | some a, some (k, i, n) =>
    let p := endpointPart s x.words
    let at_ := i + x.kout.toNat % n
    let w := s.bankWord p k at_
    if !x.v || badEntry s ch x.words || !w.full then s
    else
      let id := field w.data 0 32
      let bad := w.poison || decide (ntok a.image ≤ id)
      let bs := x.heldBytes ++ (if bad then [] else tokenString a.image id)
      let out := emitUtf8 (bs.length + 1) bs
      let last := bit w.data 63
      let sent := x.sent ++ out.1 ++ (if last && !out.2.isEmpty then replacement else [])
      (s.setBankWord p k at_ { w with full := false }).setEndpoint ch e { x with
        badid := if bad then BitVec.ofNat 16 (satAdd 0xFFFF x.badid.toNat 1) else x.badid
        kout := x.kout + 1
        heldBytes := if last then [] else out.2
        sent := if last then [] else sent
        replies := if last then x.replies ++ [(x.asked.headD 0, sent)] else x.replies
        asked := if last then x.asked.drop 1 else x.asked }
  | _, _ => s

/-! ## Who reaches the device register space (R414) -/

/-- The requester's access is at kernel privilege. -/
def kernelAccess : Requester → Bool
  | .userCore => false
  | .kernelCore _ => true
  | .host => true
  | .controller => true
  | .security => true
  | .engine => false
  | .other => false

/-- The requester's access is secure. -/
def secureAccess : Requester → Bool
  | .userCore => false
  | .kernelCore ns => !ns
  | .host => false
  | .controller => false
  | .security => true
  | .engine => false
  | .other => false

/-- Words of an entry replaced; word 7 is the device's (R380). -/
def Endpoint.putWords (x : Endpoint) (vals : List (Nat × W64)) : Endpoint :=
  { x with words := (vals.filter fun w => decide (w.1 < 7)).foldl (fun ws w => setReg ws w.1 w.2) x.words }

/-- The request that a tokeniser works on has not been wholly tokenised, nor discarded before (R381). -/
def Endpoint.unfinished (x : Endpoint) : Bool :=
  match x.cur with
  | some t => !t.words.isEmpty && !t.dropped
  | none => false

/-- Words of an endpoint's entry written at once (R380 to R382): word 7 and a non-secure write to a secure entry are
ignored, and what V brings about follows the entry's other words. When V is cleared no further word of the request in
progress lands, so that KIN stands still until V is next set. A module whose boot chain has stopped takes no write (R420).
DEDUCED, log entry 101. -/
def writeEndpoint (s : State) (ch e : Nat) (vals : List (Nat × W64)) (who : Requester) : State :=
  let x := s.endpoint ch e
  if s.closed ch || !kernelAccess who || 65536 ≤ e || (!x.ns && !secureAccess who) then s
  else
    let y := x.putWords vals
    if !x.v && y.v then s.setEndpoint ch e { y with kin := 0, kout := 0, heldBytes := [] }
    else if x.v && !y.v then
      s.setEndpoint ch e { y.drop (x.waiting.length + ofBool x.unfinished) with
        waiting := [], cur := x.cur.filter fun t => t.words.isEmpty }
    else s.setEndpoint ch e y

/-- Word 7 of an entry as it reads (R380, R382). -/
def Endpoint.word7 (x : Endpoint) : W64 :=
  BitVec.ofNat 64 (x.badid.toNat * 2 ^ 48 + x.dropreq.toNat * 2 ^ 32 + x.truncs.toNat * 2 ^ 16 + x.kin.toNat % 2 ^ 16)

/-! ## Loading an almanac (R384, R385) -/

/-- A write of ALMLOAD starts a load, unless one is under way or the module's boot chain has stopped (R420). -/
def startAlmanac (s : State) (ch : Nat) (val : W64) (who : Requester) : State :=
  let c := s.chip ch
  if s.closed ch || !kernelAccess who || field c.almstat 62 2 = 1 then s
  else s.setChip ch { c with
    almload := setField val 56 4 0
    almns := !secureAccess who
    almstat := BitVec.ofNat 64 (2 ^ 62 + field val 60 4 * 2 ^ 58) }

/-- Bytes of an image as the load reads them: a read that the world check refuses, or that reaches no memory of the
domain, completes poisoned (R67).
DEDUCED, log entry 103. -/
def imageData (s : State) (ch ma n : Nat) : List (Byte × Bool) :=
  if !((regionOf ma == .tiered || regionOf ma == .host) && s.member ch (ma / 2 ^ 48)) then List.replicate n (0, true)
  else if (s.chip ch).almns then
    (s.memData ma n).mapIdx fun i b => if s.secureMA (ma + i) then (0, true) else b
  else s.memData ma n

/-- The pages of a range of tiered memory that lie in a lower tier. -/
def absentPages (s : State) (ma n : Nat) : List Nat :=
  if regionOf ma ≠ .tiered then []
  else ((List.range (pageOf (ma + n - 1) - pageOf ma + 1)).map (pageOf ma + ·)).filter fun p => !s.present p

/-- How many bytes a load reads: the header, and what its LEN tells. -/
def imageLen (s : State) (ch ma : Nat) : Nat :=
  max 128 (min (almanacLen ((imageData s ch ma 128).map (·.1))) 0x4000000)

/-- A load ends: every check passes and the slot's almanac is replaced, or the first that fails is shown. It waits for
the pages of the image (R17).
DEDUCED, log entry 103; DESIGN CHOICE, log entry 138. -/
def endAlmanac (s : State) (ch : Nat) : State :=
  let c := s.chip ch
  let ma := field c.almload 0 56
  let gone := absentPages s ma (imageLen s ch ma)
  if field c.almstat 62 2 ≠ 1 then s
  else if !gone.isEmpty then gone.foldl (fun s p => s.requestPage p 0x00E8 none) s
  else
    let slot := field c.almload 60 4
    let d := imageData s ch ma (imageLen s ch ma)
    let inUse := c.endpoints.any fun e => e.2.v && field e.2.words[0] 58 4 == slot
    let img := d.map (·.1)
    let code := almanacCode img (d.any (·.2)) inUse
    let stat := fun (st : Nat) => BitVec.ofNat 64 (st * 2 ^ 62 + slot * 2 ^ 58 + code * 2 ^ 48)
    if code ≠ 0 then s.setChip ch { c with almstat := stat 3 }
    else
      let dig := sm3 (slice img 128 (almanacLen img - 128))
      s.setChip ch { c with
        almstat := stat 2
        almdig := setReg c.almdig slot dig
        almanacs := Table.put c.almanacs slot ⟨img, dig⟩ }

/-! ## Meanings -/

/-- UE_MESSAGE_RECEIVE (R379): a message is its sender's fabric endpoint and its bytes. -/
def execUeMessageReceive (chip port job pid : Nat) (message : Nat × List (BitVec 8)) (s : State) : Out :=
  .next (receiveRequest s chip port job pid message.2 message.1)

/-- TOKENISE_REQUEST (R386). -/
def execTokeniseRequest (chip e : Nat) (s : State) : Out := .next (beginRequest s chip e)

/-- REQUEST_WORD_LAND (R387). -/
def execRequestWordLand (chip e : Nat) (s : State) : Out := .next (landRequestWord s chip e)

/-- TEMPLATE_ENQUEUE (R388). -/
def execTemplateEnqueue (chip e : Nat) (s : State) : Out := .next (sendTemplate s chip e)

/-- DETOKENISE_WORD (R389). -/
def execDetokeniseWord (chip e : Nat) (s : State) : Out := .next (replyWord s chip e)

/-- ENDPOINT_WRITE (R380 to R382): one write of the entry, of one word or of several at once. -/
def execEndpointWrite (chip e : Nat) (first : Nat × BitVec 64) (rest : List (Nat × BitVec 64)) (who : Requester)
    (s : State) : Out :=
  .next (writeEndpoint s chip e (first :: rest) who)

/-- ALMANAC_LOAD (R384). -/
def execAlmanacLoad (chip : Nat) (val : BitVec 64) (who : Requester) (s : State) : Out :=
  .next (startAlmanac s chip val who)

/-- ALMANAC_LOAD_DONE (R385). -/
def execAlmanacLoadDone (chip : Nat) (s : State) : Out := .next (endAlmanac s chip)

end Sys2Proof.Machine
end

