-- ==== Sys2Proof/Machine/Registers.lean ====
section
/-! DEFINITION. The device register space (R413, R414): the registers of a module by their offsets, what each
reads and what a write does under its field map and access codes (R8 to R10). -/
namespace Sys2Proof.Machine

/-- A 64-bit word of the management register space, or a register of at most 64 bits (R413). -/
inductive Reg where
  | dtime
  | domcfg
  | domwin
  | climcap
  | dommember (w : Nat)
  | temps
  | railcur
  | pkgcur
  | pkgpwr
  | tempstop
  | frzsum (cl : Nat)
  | secnt (die : Nat)
  | abudget (st : Nat)
  | rmlog (st : Nat)
  | stkstat (st : Nat)
  | tiercfg
  | almload
  | almstat
  | almdig (n w : Nat)
  | wrgn (n w : Nat)
  | fabcfg (u : Nat)
  | fabstat (u : Nat)
  | fablink (u w : Nat)
  | pgran (p : Nat)
  | pctl (p : Nat)
  | pstat (p : Nat)
  | kvec (p : Nat)
  | crewcfg (p : Nat)
  | arenatab (p : Nat)
  | group (p g w : Nat)
  | qstat (c : Nat)
  | orrbase (c : Nat)
  | orrctl (c : Nat)
  | queueWord (c q w : Nat)
  | attnonce (w : Nat)
  | attgo
  | attdone
  | report (i : Nat)
  deriving DecidableEq, Repr

/-- The registers below offset 0x10_0000. -/
def lowReg (o : Nat) : Option Reg :=
  if o = 0x00 then some .dtime
  else if o = 0x08 then some .domcfg
  else if o = 0x10 then some .domwin
  else if o = 0x18 then some .climcap
  else if 0x20 ≤ o && o < 0x40 then some (.dommember ((o - 0x20) / 8))
  else if o = 0x1000 then some .temps
  else if o = 0x1008 then some .railcur
  else if o = 0x1010 then some .pkgcur
  else if o = 0x1018 then some .pkgpwr
  else if o = 0x1020 then some .tempstop
  else if 0x1040 ≤ o && o < 0x1040 + 80 then some (.frzsum ((o - 0x1040) / 8))
  else if 0x1100 ≤ o && o < 0x1100 + 40 then some (.secnt ((o - 0x1100) / 8))
  else none

/-- The registers of stacks, tiers, almanacs, worlds and the fabric: offsets 0x10_0000 to 0x3F_FFFF. -/
def midReg (o : Nat) : Option Reg :=
  if o < 0x200000 then
    let st := (o - 0x100000) / 0x100
    if 8 ≤ st then none
    else match o % 0x100 with
      | 0x00 => some (.abudget st)
      | 0x08 => some (.rmlog st)
      | 0x10 => some (.stkstat st)
      | _ => none
  else if o = 0x200000 then some .tiercfg
  else if o = 0x200010 then some .almload
  else if o = 0x200018 then some .almstat
  else if 0x200100 ≤ o && o < 0x200300 then some (.almdig ((o - 0x200100) / 0x20) (o % 0x20 / 8))
  else if 0x201000 ≤ o && o < 0x201200 then some (.wrgn ((o - 0x201000) / 0x10) (o % 0x10 / 8))
  else if 0x300000 ≤ o then
    let u := (o - 0x300000) / 0x100
    if 24 ≤ u then none
    else match o % 0x100 with
      | 0x00 => some (.fabcfg u)
      | 0x08 => some (.fabstat u)
      | 0x20 => some (.fablink u 0)
      | 0x28 => some (.fablink u 1)
      | 0x30 => some (.fablink u 2)
      | 0x38 => some (.fablink u 3)
      | _ => none
  else none

/-- The registers of partitions: offsets from 0x40_0000. -/
def partReg (o : Nat) : Option Reg :=
  let p := (o - 0x400000) / 0x1000
  let r := o % 0x1000
  if 40 ≤ p then none
  else match r with
    | 0x000 => some (.pgran p)
    | 0x008 => some (.pctl p)
    | 0x010 => some (.pstat p)
    | 0x018 => some (.kvec p)
    | 0x020 => some (.crewcfg p)
    | 0x028 => some (.arenatab p)
    | _ => if 0x100 ≤ r && r < 0x200 then some (.group p ((r - 0x100) / 16) (r % 16 / 8)) else none

/-- The registers of clusters: offsets from 0x80_0000. -/
def clusterReg (o : Nat) : Option Reg :=
  let c := (o - 0x800000) / 0x80000
  let r := o % 0x80000
  if 10 ≤ c then none
  else if 0x40000 ≤ r then some (.queueWord c ((r - 0x40000) / 64) (r % 64 / 8))
  else if r = 0 then some (.qstat c)
  else if r = 8 then some (.orrbase c)
  else if r = 0x10 then some (.orrctl c)
  else none

/-- The registers of attestation: offsets from 0x100_0000. -/
def attestReg (o : Nat) : Option Reg :=
  if o < 0x1000020 then some (.attnonce ((o - 0x1000000) / 8))
  else if o = 0x1000020 then some .attgo
  else if o = 0x1000028 then some .attdone
  else if 0x1001000 ≤ o && o < 0x1004000 then some (.report ((o - 0x1001000) / 8))
  else none

/-- The register word at an 8-byte aligned offset of the management register space (R413). -/
def regAt (o : Nat) : Option Reg :=
  if o % 8 ≠ 0 then none
  else if o < 0x100000 then lowReg o
  else if o < 0x400000 then midReg o
  else if o < 0x800000 then partReg o
  else if o < 0x1000000 then clusterReg o
  else attestReg o

/-- A register of 32 bits, which a 4-byte access reaches too (R413). -/
def Reg.narrow : Reg → Bool
  | .abudget _ => true
  | .stkstat _ => true
  | .tiercfg => true
  | .fabcfg _ => true
  | _ => false

/-- Every field of the register that holds a value is RS (R8). -/
def Reg.secureOnly : Reg → Bool
  | .domcfg => true
  | .dommember _ => true
  | .abudget _ => true
  | .tiercfg => true
  | .wrgn _ _ => true
  | .fabcfg _ => true
  | .pgran _ => true
  | _ => false

/-- A 64-bit word of a wider register. -/
def wordAt {n : Nat} (x : BitVec n) (w : Nat) : W64 := BitVec.ofNat 64 (x.toNat / 2 ^ (64 * w))

/-- A wider register with one of its 64-bit words replaced. -/
def setWordAt {n : Nat} (x : BitVec n) (w : Nat) (v : W64) : BitVec n :=
  BitVec.ofNat n (x.toNat - bitsOf x.toNat (64 * w) 64 * 2 ^ (64 * w) + v.toNat * 2 ^ (64 * w))

/-! ## Reads -/

/-- PCTL.STATE of a partition. -/
def residenceCode : Residence → Nat
  | .resident => 0
  | .goingOut => 1
  | .out => 2
  | .comingIn => 3

/-- FRZCNT summed over a cluster's cores, saturating (R427). -/
def freezeSum (s : State) (cl : Nat) : Nat :=
  min (2 ^ 48 - 1) (((s.cores.filter fun c => clusterOf c.1 == cl).map fun c => field c.2.r.frzcnt 0 48).foldl
    (· + ·) 0)

/-- QSTAT as it reads (R361). -/
def qstatOf (s : State) (cl : Nat) : Nat :=
  let c := s.cluster cl
  c.badrec.toNat * 2 ^ 48 + c.drop.toNat * 2 ^ 32 + c.late.toNat * 2 ^ 16
    + min 0xFFFF (c.store.filter fun r => r.place.isSome).length

/-- What a register of a chip reads. A swap or restart that PCTL has asked for has begun with the write, so that SWOUT,
SWIN and RESTART read 0, and PRST reads 1 until the reset has taken place; and ORRCTL.GO reads 0, since the load that it
starts shows in STATE at once.
DESIGN CHOICE, log entry 147; DESIGN CHOICE, log entry 162. -/
def Reg.value (s : State) (ch : Nat) (secure : Bool) : Reg → Nat
  | .dtime => (s.timeAt ch).toNat
  | .domcfg => (s.chip ch).domcfg.toNat
  | .domwin => (s.chip ch).domwin.toNat
  | .climcap => (s.chip ch).climcap.toNat
  | .dommember w =>
    (wordAt (s.members ch) w).toNat
  | .temps => ((s.chip ch).temps.toList.mapIdx fun i t => t.toNat * 2 ^ (10 * i)).foldl (· + ·) 0
  | .railcur => (Config.sensor (3 * s.tick)).toNat
  | .pkgcur => (Config.sensor (3 * s.tick + 1)).toNat
  | .pkgpwr => (Config.sensor (3 * s.tick + 2)).toNat
  | .tempstop => ofBool (s.chip ch).tempstop
  | .frzsum c => freezeSum s (ch * 16 + c)
  | .secnt d => (getReg (s.chip ch).secnt d 0).toNat
  | .abudget t => (s.stack (ch * 8 + t)).abudget.toNat
  | .rmlog t => (s.stack (ch * 8 + t)).rmlog.toNat
  | .stkstat t => (s.stack (ch * 8 + t)).stkstat.toNat
  | .tiercfg => (s.chip ch).tiercfg.toNat
  | .almload => (s.chip ch).almload.toNat
  | .almstat => (s.chip ch).almstat.toNat
  | .almdig n w => (wordAt (getReg (s.chip ch).almdig n 0) w).toNat
  | .wrgn n w => (wordAt (getReg (s.chip ch).wrgn n 0) w).toNat ||| (if w = 1 then 0xFFFF else 0)
  | .fabcfg u => (s.fab (ch * 32 + u)).timeout.toNat
  | .fabstat u => (s.fab (ch * 32 + u)).tokregen.toNat * 2 ^ 32 + (s.fab (ch * 32 + u)).dblpkt.toNat
  | .fablink u w => (wordAt (s.fab (ch * 32 + u)).failed w).toNat
  | .pgran p => (s.part (ch * 64 + p)).pgran.toNat
  | .pctl p => residenceCode (s.part (ch * 64 + p)).state * 2 ^ 62
      + ofBool (secure && (s.part (ch * 64 + p)).ns) * 2 ^ 61
      + ofBool (s.part (ch * 64 + p)).wantReset * 2 ^ 58
  | .pstat p =>
    let x := s.part (ch * 64 + p)
    x.lostU.toNat * 2 ^ 48 + x.lostK.toNat * 2 ^ 32 + x.refused.toNat * 2 ^ 16 + ofBool x.kfault
  | .kvec p => (s.part (ch * 64 + p)).kvec.toNat
  | .crewcfg p => (s.part (ch * 64 + p)).crewcfg.toNat
  | .arenatab p => (s.part (ch * 64 + p)).arenatab.toNat
  | .group p g w =>
    let e := getReg (s.part (ch * 64 + p)).groups g (0, 0)
    (if w = 0 then e.1 else e.2).toNat
  | .qstat c => qstatOf s (ch * 16 + c)
  | .orrbase c => (s.cluster (ch * 16 + c)).orrbase.toNat
  | .orrctl c => (s.cluster (ch * 16 + c)).orrctl.toNat
  | .queueWord c q w => (getReg (s.queue (ch * 16 + c) q) w 0).toNat
  | .attnonce w => (wordAt (s.chip ch).attnonce w).toNat
  | .attgo => ofBool (s.chip ch).attgo
  | .attdone => ofBool (s.chip ch).attdone
  | .report i => ofBytes (slice (s.chip ch).report (8 * i) 8)

/-! ## Writes -/

/-- Some fields of a value taken from another: the fields lie under a mask. -/
def underMask (mask : Nat) (old v : W64) : W64 := (old &&& ~~~(BitVec.ofNat 64 mask)) ||| (v &&& BitVec.ofNat 64 mask)

/-- The bits of a word of a queue's entry that software writes (R358). -/
def queueMask : Nat → Nat
  | 0 => 0xE0FFF0FF00000000
  | 1 => 0xFFFFFFFFFFFFFFFF
  | 2 => 0xFFFFFFFFFFFFFFFF
  | 3 => 0x3
  | 4 => 0x00FFFFFFFFFFF000
  | 5 => 0x1F
  | _ => 0

/-- A word of a queue's entry written (R358): clearing V destroys the queue. -/
def writeQueue (s : State) (cl q w : Nat) (v : W64) : State :=
  let s := if w = 0 && s.queueV cl q && !bit v 63 then s.destroyQueue cl q else s
  s.setQueueWord cl q fun e => setReg e w (underMask (queueMask w) (getReg e w 0) v)

/-- Some id of a partition's crew table is in use (R357). -/
def anyCrew (s : State) (p : Nat) : Bool :=
  (List.range (field (s.part p).crewcfg 40 24)).any fun n => n != 0 && bit (s.mem64 (s.crewMA p n + 8)) 0

/-- PCTL written (R406): NS by a secure requester, and the actions whose bits are 1. A partition's own cores do
not start its restart (R411). -/
def writePctl (s : State) (p : Nat) (v : W64) (secure own : Bool) : State :=
  let s := if secure then (s.setPart p { s.part p with ns := bit v 61 }).assignWorlds p else s
  let s := if bit v 60 then s.swapOut p else s
  let s := if bit v 59 then s.swapIn p else s
  let s := if bit v 58 then s.partitionReset p else s
  if bit v 57 && !own then s.restartPartition p else s

/-- Links whose FABLINK bit is written 1 are retrained (R79). -/
def retrainLinks (s : State) (u w : Nat) (v : W64) : State :=
  ((List.range 64).filter fun i => v.getLsbD i).foldl (fun s i => s.retrain u (64 * w + i)) s

/-- A table whose keys go over to others, which an injective function gives. -/
def Table.rekey {α : Type} (f : Nat → Nat) (t : Table α) : Table α :=
  t.foldr (fun x u => Table.put u (f x.1) x.2) []

/-- A name, of which each module has `size`, when two modules exchange their numbers. -/
def exchange (a b size n : Nat) : Nat :=
  if n / size = a then b * size + n % size else if n / size = b then a * size + n % size else n

/-- A target when modules exchange their numbers. -/
def Target.renumbered (e : Nat → Nat → Nat) : Target → Target
  | .mem ma => .mem (e (2 ^ 48) ma)
  | .spad k off => .spad (e 4096 k) off

/-- An owner when modules exchange their numbers. -/
def Owner.renumbered (e : Nat → Nat → Nat) (o : Owner) : Owner := { o with part := e 64 o.part }

/-- An access in flight when modules exchange their numbers. -/
def Acc.renumbered (e : Nat → Nat → Nat) (a : Acc) : Acc :=
  { a with
    core := e 4096 a.core, own := a.own.renumbered e, part := e 64 a.part
    target := a.target.renumbered e, split := a.split.map (Target.renumbered e) }

/-- A core when modules exchange their numbers: the partition of its block and of its commands. -/
def Core.renumbered (e : Nat → Nat → Nat) (c : Core) : Core :=
  { c with
    blk := c.blk.map fun (b : Block) => { b with part := e 64 b.part }
    xq := c.xq.map fun (x : Cmd) => { x with own := x.own.renumbered e }
    fq := c.fq.map fun (x : FCmd) => { x with own := x.own.renumbered e } }

/-- Who seeks a translation when modules exchange their numbers. -/
def Seeker.renumbered (e : Nat → Nat → Nat) : Seeker → Seeker
  | .group => .group
  | .command id => .command id
  | .ring n => .ring (e 8192 n)
  | .orrery cl => .orrery (e 16 cl)

/-- A page when modules exchange their numbers: the flags and the cores that wait for it, and who else does. -/
def Page.renumbered (e : Nat → Nat → Nat) (p : Page) : Page :=
  { p with
    flags := p.flags.map fun f => (e 64 f.1, e 4096 f.2.1, f.2.2)
    waiters := p.waiters.map (e 4096)
    cmds := p.cmds.map fun x => (x.1.renumbered e, x.2) }

/-- A module takes another CHIP number, under which the domain names its units, pages, memory and what is under way between
them from then on (R415): it exchanges numbers with the module that had that one, whose DOMCFG then names its own.
DEDUCED, log entry 112. -/
def State.renumber (s : State) (a b : Nat) : State :=
  if a = b then s
  else
    let e := exchange a b
    { s with
      here := e 4096 s.here
      turns := s.turns.map (e 4096)
      cores := (Table.rekey (e 4096) s.cores).map fun (c : Nat × Core) => (c.1, c.2.renumbered e)
      clusters := Table.rekey (e 16) s.clusters
      chips := (Table.rekey (e 1) s.chips).map fun (c : Nat × Chip) =>
        (c.1, if c.1 = a then { c.2 with domcfg := BitVec.ofNat 8 a } else c.2)
      parts := (Table.rekey (e 64) s.parts).map fun (p : Nat × Partition) => (p.1, { p.2 with
        image := p.2.image.map fun (c : Nat × Core) => (e 4096 c.1, c.2.renumbered e) })
      hbm := Table.rekey (e 8) s.hbm
      fabric := Table.rekey (e 32) s.fabric
      pages := (Table.rekey (e (2 ^ 32)) s.pages).map fun (p : Nat × Page) => (p.1, p.2.renumbered e)
      objs := Table.rekey (e 65536) s.objs
      rings := (Table.rekey (e 8192) s.rings).map fun (r : Nat × Ring) =>
        (r.1, { r.2 with core := e 4096 r.2.core, part := e 64 r.2.part })
      mem := s.mem.foldr (fun c m => Memory.write m (e (2 ^ 48) c.1) c.2) []
      beats := s.beats.foldr (fun b l => insertBeat (e (2 ^ 42) b) l) []
      accs := s.accs.map (Acc.renumbered e)
      posts := s.posts.map fun (x : Post) => { x with core := e 4096 x.core, part := e 64 x.part, src := e 4096 x.src }
      decs := s.decs.map fun (x : Decrement) =>
        { x with part := e 64 x.part, cluster := e 16 x.cluster, src := e 4096 x.src }
      recs := s.recs.map fun (x : RecMsg) => { x with cluster := e 16 x.cluster }
      walks := s.walks.map fun (x : Walk) => { x with
        cluster := e 16 x.cluster, core := e 4096 x.core, who := x.who.renumbered e, part := e 64 x.part
        page := x.page.map (e (2 ^ 32)) }
      launches := s.launches.map fun (l : Launch) =>
        { l with cluster := e 16 l.cluster, core := e 4096 l.core, part := e 64 l.part }
      colls := s.colls.map fun (x : Collective) => { x with part := e 64 x.part }
      dying := s.dying.map (Owner.renumbered e)
      edits := s.edits.map fun (x : TableEdit) =>
        { x with ma := e (2 ^ 48) x.ma, crew := x.crew.map fun c => (e 64 c.1, c.2) } }

/-- Links that stand between a module and another of its domain, by either's bits, are refused when the two do not hold the
same DOMMEMBER bits: those of each one's own units (R79, R415).
DEDUCED, log entry 35. -/
def State.refuseLinks (s : State) (ch : Nat) : State :=
  (s.chips.map (·.1)).foldl (fun s n =>
    if n = ch || s.members n = s.members ch || !(s.member ch n || s.member n ch) then s
    else [(ch, n), (n, ch)].foldl (fun s x =>
      (List.range 18).foldl (fun s p =>
        let iod := s.fab (x.1 * 32 + 5)
        let s := s.setFab (x.1 * 32 + 5) { iod with failed := setLink iod.failed (5 + p) true }
        let plane := s.fab (x.1 * 32 + 6 + p)
        s.setFab (x.1 * 32 + 6 + p) { plane with failed := setLink plane.failed x.2 true }) s) s) s

/-- The modules that hold the same DOMMEMBER bits as one, and name each other in them, come to one time: the latest of
theirs, since a correction never steps a count back (R419).
DEDUCED, log entry 111. -/
def State.oneTime (s : State) (ch : Nat) : State :=
  let all := s.chips.filter fun c => c.1 == ch || (s.member ch c.1 && s.member c.1 ch && s.members c.1 == s.members ch)
  let first := all.foldl (fun m c => max m (s.timeAt c.1).toNat) 0
  all.foldl (fun s c => s.setChip c.1 { s.chip c.1 with epoch := s.now - BitVec.ofNat 48 first }) s

/-- What a write does to a register of a chip by a requester of kernel privilege; `from_` is the partition whose
core writes, if one does. A write of 1 to ORRCTL.GO starts the orrery and leaves the bit at 0.
DEDUCED, log entry 112; DEDUCED, log entry 118; DESIGN CHOICE, log entry 162. -/
def Reg.write (s : State) (ch : Nat) (v : W64) (who : Requester) (from_ : Option Nat) (r : Reg) : State :=
  let c := s.chip ch
  let secure := secureAccess who
  if r.secureOnly && !secure then s
  else
    match r with
    | .domcfg =>
      let n := field v 0 8
      let s := s.renumber ch n
      s.setChip n { s.chip n with domcfg := v.setWidth 8 }
    | .domwin => s.setChip ch { c with domwin := underMask 0x00FFFFFFC0000000 0 v }
    | .climcap => s.setClimcap ch (field v 0 16)
    | .dommember w => ((s.setChip ch { c with dommember := setWordAt c.dommember w v }).refuseLinks ch).oneTime ch
    | .abudget t =>
      let x := s.stack (ch * 8 + t)
      s.setStack (ch * 8 + t) { x with
        abudget := BitVec.ofNat 32 (field v 16 8 * 2 ^ 16 + max 32 (field v 4 12) * 2 ^ 4 + field v 0 1) }
    | .rmlog t =>
      let x := s.stack (ch * 8 + t)
      s.setStack (ch * 8 + t) { x with
        events := if bit v 63 then x.events.drop 1 else x.events, lost := x.lost && !bit v 62 }
    | .tiercfg =>
      if c.tierUsed then s
      else s.setChip ch { c with
        tiercfg := BitVec.ofNat 32 (min 768 (field v 12 10) * 2 ^ 12 + field v 0 2) }
    | .almload => startAlmanac s ch v who
    | .wrgn n w => s.setChip ch { c with
        wrgn := setReg c.wrgn n (setWordAt (getReg c.wrgn n 0) w
          (if w = 0 then underMask 0x0000FFFFFFFF0003 0 v else underMask 0x0000FFFFFFFF0000 0xFFFF v)) }
    | .fabcfg u => s.setFab (ch * 32 + u)
        { s.fab (ch * 32 + u) with timeout := BitVec.ofNat 16 (max 256 (field v 0 16)) }
    | .fablink u w => retrainLinks s (ch * 32 + u) w v
    | .pgran p => s.setPart (ch * 64 + p) { s.part (ch * 64 + p) with pgran := v.setWidth 40 }
    | .pctl p => writePctl s (ch * 64 + p) v secure (from_ == some (ch * 64 + p))
    | .pstat p => s.setPart (ch * 64 + p)
        { s.part (ch * 64 + p) with kfault := (s.part (ch * 64 + p)).kfault && !bit v 0 }
    | .kvec p => s.setPart (ch * 64 + p) { s.part (ch * 64 + p) with kvec := underMask 0x01FFFFFFFFFFFFFC 0 v }
    | .crewcfg p => if anyCrew s (ch * 64 + p) then s
        else s.setPart (ch * 64 + p) { s.part (ch * 64 + p) with crewcfg := v }
    | .arenatab p => s.setPart (ch * 64 + p)
        { s.part (ch * 64 + p) with arenatab := underMask 0x00FFFFFFFFFFF000 0 v }
    | .group p g w =>
      let x := s.part (ch * 64 + p)
      let e := getReg x.groups g (0, 0)
      s.setPart (ch * 64 + p) { x with groups := setReg x.groups g (if w = 0 then (v, e.2) else (e.1, v)) }
    | .qstat k => s.clearQstat (ch * 16 + k)
    | .orrbase k => s.setCluster (ch * 16 + k)
        { s.cluster (ch * 16 + k) with orrbase := underMask 0x00FFFFFFFFFFF3FF 0 v }
    | .orrctl k =>
      let x := s.cluster (ch * 16 + k)
      let s := s.setCluster (ch * 16 + k) { x with orrctl := underMask 0x0000FFF000000000 x.orrctl v }
      if bit v 10 then orreryStart s (ch * 16 + k) else s
    | .queueWord k q w => writeQueue s (ch * 16 + k) q w v
    | .attnonce w => s.setChip ch { c with attnonce := setWordAt c.attnonce w v }
    | .attgo => if bit v 0 then s.startReport ch else s
    | .attdone => if bit v 0 then s.setChip ch { c with attdone := false } else s
    | .dtime => s
    | .temps => s
    | .railcur => s
    | .pkgcur => s
    | .pkgpwr => s
    | .tempstop => s
    | .frzsum _ => s
    | .secnt _ => s
    | .stkstat _ => s
    | .almstat => s
    | .almdig _ _ => s
    | .fabstat _ => s
    | .report _ => s

/-! ## The device register space (R50, R413) -/

/-- The first MA[47:0] of the endpoint table, and of the management register space. -/
def endpointBase : Nat := 0x300010000000
/-- The management register space. -/
def managementBase : Nat := 0x300080000000

/-- An aligned access of n bytes reaches a register: 8 bytes, or 4 at a register of 32 bits. -/
def reaches (r : Reg) (n : Nat) : Bool := n == 8 || (n == 4 && r.narrow)

/-- What a read of n bytes at an address of the device register space returns (R413, R414).
DESIGN CHOICE, log entry 23. -/
def deviceRead (s : State) (ma n : Nat) (who : Requester) : Nat :=
  let ch := ma / 2 ^ 48
  let a := ma % 2 ^ 48
  if !kernelAccess who then 0
  else if endpointBase ≤ a && a < endpointBase + 0x400000 then
    if n = 8 && a % 8 = 0 then
      let e := s.endpoint ch ((a - endpointBase) / 64)
      let w := a % 64 / 8
      (if w = 7 then e.word7 else getReg e.words w 0).toNat
    else 0
  else if managementBase ≤ a && a < managementBase + 0x4000000 then
    match regAt (a - managementBase) with
    | some r => if reaches r n && (!r.secureOnly || secureAccess who)
        then r.value s ch (secureAccess who) % 2 ^ (8 * n) else 0
    | none => 0
  else 0

/-- What a write of n bytes at an address of the device register space does: nothing in a module whose boot chain has
stopped (R420).
DEDUCED, log entry 119. -/
def deviceWrite (s : State) (ma n : Nat) (v : W64) (who : Requester) (from_ : Option Nat) : State :=
  let ch := ma / 2 ^ 48
  let a := ma % 2 ^ 48
  if s.closed ch then s
  else if (windowOf ma).isSome then (if who = .other then s else s.writeWindow ma (toBytes n v.toNat) false)
  else if !kernelAccess who then s
  else if endpointBase ≤ a && a < endpointBase + 0x400000 then
    if n = 8 && a % 8 = 0 then writeEndpoint s ch ((a - endpointBase) / 64) [(a % 64 / 8, v)] who else s
  else if managementBase ≤ a && a < managementBase + 0x4000000 then
    match regAt (a - managementBase) with
    | some r => if reaches r n then
        r.write s ch (if n = 8 then v else BitVec.ofNat 64 (field v 0 32)) who from_ else s
    | none => s
  else s

/-- REGISTER_WRITE (R8, R414). -/
def execRegisterWrite (ma n : Nat) (val : BitVec 64) (who : Requester) (s : State) : Out :=
  .next (deviceWrite s ma n val who none)

end Sys2Proof.Machine
end

