-- ==== Sys2Proof/Machine/Access.lean ====
section
/-! DEFINITION. Accesses in flight at their targets: at memory (R18 to R23), host and device space (R413, R414),
and at the bank of a scratchpad word (R74, R97 to R101, R257 to R263); their replies (R81), withdrawals (R99) and
timeouts (R82); the posts of counting flags (R83, R84); and the completion of a matrix command (R294). -/
namespace Sys2Proof.Machine

/-! ## When an access performs (R253, R255, R337) -/

/-- Two accesses through CA = 0 mappings that are kept single: both to one chip's device register space, or both to
the host address space (R337). -/
def serial (a b : Acc) : Bool :=
  a.device && b.device && a.core == b.core
    && match a.target, b.target with
      | .mem x, .mem y => (regionOf x == .device && regionOf y == .device && x / 2 ^ 48 == y / 2 ^ 48)
          || (regionOf x == .host && regionOf y == .host)
      | _, _ => false

/-- The order that earlier accesses of its core impose on an access is met, and no access that counts as performed for
its core is still on its way to its bytes (R334). -/
def State.mayPerform (s : State) (a : Acc) : Bool :=
  s.inOrder a.part a.core a.ord && (!a.rel || s.performedBefore a.part a.core a.ord a.scope)
    && (a.seen != 0 || !s.promised a.part a.core a.ord a.id a.spans a.writes)
    && (s.accs.all fun b => !(decide (b.ord < a.ord) && serial a b))
    && (!a.device || s.deviceTurn a.part a.core a.ord a.target)

/-- An access that is sent, with a number. -/
def State.sentAcc (s : State) (id : Nat) : Option Acc := s.accs.find? fun a => a.id == id && a.phase == .sent

/-- An access replaced. -/
def State.setAcc (s : State) (a : Acc) : State :=
  { s with accs := s.accs.map fun x => if x.id = a.id then a else x }

/-- The accesses before one count as performed where the fences between, or its own release, ask it (R334, R335). -/
def State.keepOrderOf (s : State) (a : Acc) : State :=
  s.keepOrder a.part a.core a.ord (if a.rel then some a.scope else none)

/-- An access has performed: its reply carries a value, its poison and the flags raised, and gives back its tag (R19). -/
def State.performed (s : State) (a : Acc) (v : W64) (bad : Bool) (fl : Flags) : State :=
  s.setAcc { a with phase := .done v bad fl, tag := none }

/-- A request leaves its core, which times it from now on (R82): its order must be met, and its packet needs a tag
(R19). -/
def State.sendOut (s : State) (a : Acc) : Option Acc :=
  if a.out then some a
  else if s.mayPerform a then (s.freeTag a.target).map fun t => { a with out := true, since := s.now, tag := t }
  else none

/-! ## Memory, host and device space -/

/-- The core number under which an access of the host is in flight (R412): no core of a domain has it. Its target names
the module, the BAR and the offset in that window, CHIP * 2^48 + BAR * 2^44 + offset, until its request leaves, and the
memory address that it maps to from then on.
DESIGN CHOICE, log entry 15. -/
def hostPort : Nat := 2 ^ 32

/-- The core number of an access of the host through BAR0, BAR2 or BAR4 whose window has been mapped. -/
def hostRegs : Nat := 2 ^ 32 + 1

/-- The access is one of the host. -/
def Acc.host (a : Acc) : Bool := a.core == hostPort || a.core == hostRegs

/-- Where an access of the host through a window of a module goes, and under which number (R412): BAR0 to the management
registers, BAR2 to the endpoint table, BAR4 to the enqueue windows, and BAR6 to DOMWIN.BASE upward on any chip of the
domain. -/
def State.hostMap (s : State) (w : Nat) : Option (Nat × Nat) :=
  let ch := w / 2 ^ 48
  let o := w % 2 ^ 44
  match w / 2 ^ 44 % 16 with
  | 0 => if o < 0x4000000 then some (ch * 2 ^ 48 + managementBase + o, hostRegs) else none
  | 2 => if o < 0x400000 then some (ch * 2 ^ 48 + endpointBase + o, hostRegs) else none
  | 4 => if o < 0x400000 then some (ch * 2 ^ 48 + 0x300040000000 + o, hostRegs) else none
  | 6 =>
    let ma := (field (s.chip ch).domwin 30 26 * 2 ^ 30 + o) % 2 ^ 56
    if o < 2 ^ 36 && regionOf ma != .nothing && s.member ch (ma / 2 ^ 48) then some (ma, hostPort) else none
  | _ => none

/-- The world check refuses an access of the host, which is always non-secure (R412, R66). -/
def State.hostRefused (s : State) (a : Acc) (ma : Nat) : Bool := a.host && s.secureMA ma

/-- The requester that an access stands for at the device register space: only an enqueue window is reached from
user privilege, and the host reaches that space through its other windows alone (R414). -/
def Acc.requester (a : Acc) (ma : Nat) : Requester :=
  if a.core = hostPort then .other
  else if a.core = hostRegs then .host
  else if (windowOf ma).isSome then .userCore else .kernelCore a.ns

/-- Where an access goes. -/
def Acc.targets (a : Acc) : List Target := if a.split = [] then [a.target] else a.split

/-- The parts of an access: its target whole, or each byte at its own (R248). -/
def Acc.parts (a : Acc) : List (Target × Nat) := if a.split = [] then [(a.target, a.bytes)] else a.split.map (·, 1)

/-- A barrier from which a wait has been withdrawn: it has one waiter less if the wait was parked, and the arrival of a
`bar.sync` whose phase has not ended is taken back, since the access has not performed (R99, R112, R258). -/
def Barrier.withdrawn (x : Barrier) (parked arrived : Bool) : Barrier :=
  let x := if parked then { x with waiters := x.waiters - 1 } else x
  if arrived && x.arrived ≠ 0 then
    { x with arrived := x.arrived - 1, expect := if x.arrived = 1 then 0 else x.expect }
  else x

namespace State

/-- Bytes read where one part of an access lies; a refused read of the host completes poisoned (R412). -/
def readPart (s : State) (a : Acc) (x : Target × Nat) : Data :=
  match x.1 with
  | .mem ma => if s.hostRefused a ma then List.replicate x.2 (0, true)
      else if regionOf ma = .device then clean (toBytes x.2 (deviceRead s ma x.2 (a.requester ma)))
      else s.memData ma x.2
  | .spad k off => (s.coreOf a.part k).r.spadData off x.2

/-- Bytes written where one part of an access lies (R51: a page that nothing has written is placed); a refused
write of the host is discarded (R412). -/
def writePart (s : State) (a : Acc) (x : Target × Nat) (d : Data) : State :=
  match x.1 with
  | .mem ma =>
    if s.hostRefused a ma then s
    else match regionOf ma with
    | .device => deviceWrite s ma x.2 (BitVec.ofNat 64 (ofBytes (d.map (·.1)))) (a.requester ma) (some a.part)
    | .tiered => ((s.placeForWrite (pageOf ma) a.attr).getD s).writeMem ma d
    | .host => s.writeMem ma d
    | .nothing => s
  | .spad k off =>
    let c := s.coreOf a.part k
    s.setCoreOf a.part k { c with r := c.r.putSpad off d }

/-- Bytes written over the parts of an access. -/
def writeParts (s : State) (a : Acc) : List (Target × Nat) → Data → State
  | [], _ => s
  | x :: r, d => writeParts (s.writePart a x (d.take x.2)) a r (d.drop x.2)

/-- The page of byte `i` of an access has been reached (R37), and the entry that translated it keeps its frame (R60).
DEDUCED, log entry 24. -/
def touchTarget (s : State) (a : Acc) (i : Nat) (t : Target) : State :=
  match t with
  | .mem ma => if regionOf ma = .tiered
      then (s.touch (pageOf ma) a.attr).noteFrame a.core a.part a.own.ctx (a.va.toNat + i) (pageOf ma) else s
  | .spad _ _ => s

/-- The stacks serve the packets of an access (R18, R26, R28). -/
def serveAcc (s : State) (a : Acc) : State :=
  match a.target with
  | .mem ma => if regionOf ma = .tiered then s.serve ma a.bytes else s
  | .spad _ _ => s

/-- One byte of a bytewise access, chosen freely among those that have still to perform (R248, R345): its place, and
the places left after it.
DEDUCED, log entry 129. -/
def nextByte (s : State) (a : Acc) : Option (Nat × List Nat) :=
  match a.todo[Config.choice (s.tick + 3) % a.todo.length]? with
  | some i => some (i, a.todo.erase i)
  | none => none

/-- A byte of a bytewise load performs: it takes its place in the value. -/
def loadByte (s : State) (a : Acc) (i : Nat) (rest : List Nat) : State :=
  let t := a.split[i]?.getD a.target
  let d := (s.readPart a (t, 1)).headD (0, false)
  let a := { a with data := setField a.data (8 * i) 8 d.1.toNat, poison := a.poison || d.2, todo := rest }
  let s := s.touchTarget a i t
  if rest = [] then s.performed a a.data a.poison 0 else s.setAcc a

/-- A byte of a bytewise store performs. -/
def storeByte (s : State) (a : Acc) (i : Nat) (rest : List Nat) : State :=
  let t := a.split[i]?.getD a.target
  let s := s.writePart a (t, 1) [(BitVec.ofNat 8 (field a.data (8 * i) 8), a.poison)]
  if rest = [] then s.performed { a with todo := rest } 0 false 0 else s.setAcc { a with todo := rest }

/-- A load performs: whole, or one of the bytes of a bytewise load. -/
def performLoad (s : State) (a : Acc) : State :=
  match s.nextByte a with
  | some (i, rest) => s.loadByte a i rest
  | none =>
    let d := a.parts.flatMap (s.readPart a)
    (a.parts.foldl (fun s x => s.touchTarget a 0 x.1) s).performed a (BitVec.ofNat 64 (ofBytes (d.map (·.1))))
      (d.any (·.2)) 0

/-- A store performs: whole, or one of the bytes of a bytewise store. -/
def performStore (s : State) (a : Acc) : State :=
  match s.nextByte a with
  | some (i, rest) => s.storeByte a i rest
  | none =>
    (s.writeParts a a.parts ((toBytes a.bytes a.data.toNat).map fun b => (b, a.poison))).performed a 0 false 0

/-- The page of an atomic is ready for it: a demotion under way is abandoned (R40), and the access counts as a use
(R37), whether or not the word's beat is poisoned. -/
def readyAtomic (s : State) (a : Acc) : State :=
  match a.target with
  | .mem ma => if regionOf ma = .tiered then (s.placeForWrite (pageOf ma) a.attr).getD s else s
  | .spad _ _ => s

/-- An atomic, or `chunk`, performs on memory (R22, R256, R439): a poisoned beat is left, and the old value returns
poisoned. -/
def performAtomic (s : State) (a : Acc) : State :=
  let s := s.readyAtomic a
  let d := a.parts.flatMap (s.readPart a)
  let old := ofBytes (d.map (·.1))
  let bad := d.any (·.2)
  match a.kind with
  | .atomic op =>
    let r := atomicResult op.toNat old a.data.toNat a.data2.toNat
    if bad then s.performed a (BitVec.ofNat 64 old) true 0
    else (s.writeParts a a.parts (clean (toBytes a.bytes r.1))).performed a (BitVec.ofNat 64 old) false r.2
  | _ =>
    let q := chunkStep (old % 2 ^ 64) (old / 2 ^ 64)
    if bad then s.performed a (BitVec.ofNat 64 q.1) true 0
    else (s.writeParts a (a.parts.map fun x => (x.1, 8)) (clean (toBytes 8 q.2))).performed a
      (BitVec.ofNat 64 q.1) false 0

/-- An access of the host as its window maps it: one that maps to nothing, or that comes to a module whose boot chain has
stopped (R420), completes poisoned. -/
def mapHost (s : State) (a : Acc) : Option Acc :=
  if a.core = hostPort && !a.out then
    match a.target with
    | .mem w => if s.closed (w / 2 ^ 48) then none else (s.hostMap w).map fun x => { a with target := .mem x.1, core := x.2 }
    | .spad _ _ => some a
  else some a

/-- An access of the host to a page that is in a lower tier (R42). -/
def hostMiss (s : State) (a : Acc) (ma : Nat) : Bool :=
  a.host && regionOf ma == .tiered && !s.present (pageOf ma)

/-- No path remains over which the packets of an access could go (R79). -/
def noPath (s : State) (a : Acc) : Bool := !a.host && a.targets.any fun t => !s.pathTo a.core t

/-- A packet of an access is discarded for want of a path (R79). -/
def lose (s : State) (a : Acc) : State := s.setAcc { a with phase := .lost, tag := none }

/-- An access is refused when it arrives, under an assignment of worlds made since its group was tried (R68): it does not
perform. That of a group which still awaits it raises WORLD at that group (R67); of one that has issued, WORLD is raised on
its core and a register it fills receives poison.
DESIGN CHOICE, log entry 136. -/
def refuseLate (s : State) (a : Acc) : State :=
  if a.held then s.setAcc { a with phase := .refused 2, tag := none }
  else (s.performed a 0 true 0).pendKernel a.part a.core (match a.cmd with
    | some x => { x with code := BitVec.ofNat 6 cWorld }
    | none => ⟨BitVec.ofNat 6 cWorld, true, 2, false, 0, BitVec.ofNat 4 stWorld, 0, 0, a.va⟩)

/-- An access of some kinds performs at memory when its order is met and its request has left; one of the host waits
for its page. -/
def atMemory (s : State) (id : Nat) (ok : AccKind → Bool) (go : State → Acc → State) : State :=
  match s.sentAcc id with
  | none => s
  | some b => match s.mapHost b with
    | none => s.performed b 0 true 0
    | some a => match a.target with
      | .mem ma =>
        if !(ok a.kind && s.mayPerform a) then s
        else if s.hostMiss a ma then s.requestPage (pageOf ma) a.attr none
        else match s.sendOut a with
          | none => s
          | some a =>
            if s.noPath a then s.lose a
            else if !a.host && a.targets.any (s.refusedAt a.ns) then s.refuseLate a
            else go ((s.keepOrderOf a).serveAcc a) a
      | .spad _ _ => s

/-! ## Scratchpad banks -/

/-- The bank of a word under the swizzle of its region (R94). -/
def bankNumber (r : Arch) (w : Nat) : Nat :=
  let code := field r.swz (4 * (w / 2 ^ 13)) 4
  if code = 0 then w % 32 else (w % 32) ^^^ (w / 2 ^ code % 32)

/-- Accesses parked at the bank of a core's word (R74). -/
def parkedAt (s : State) (p k w : Nat) : Nat :=
  let r := (s.coreOf p k).r
  (s.accs.filter fun a => a.phase == Phase.parked && match a.kind, a.target with
    | .fullEmpty _, .spad j off => j == k && bankNumber r (off / 8) == bankNumber r w
    | _, _ => false).length

/-- An access parked, behind those parked before it, or returned for a retry when the table is full or the bank is
an image's (R74, R409). -/
def park (s : State) (a : Acc) (room : Bool) : State :=
  if room then { s with accs := s.accs.filter (fun x => x.id != a.id) ++ [{ a with phase := .parked }] }
  else s.setAcc { a with phase := .retry }

/-- An access parked earlier on the same word has its condition met. -/
def servedFirst (s : State) (p k off : Nat) : List Acc → Nat → Bool
  | [], _ => false
  | b :: r, id =>
    if b.id = id then false
    else (match b.kind with
      | .fullEmpty op => b.phase == Phase.parked && b.target == Target.spad k off
          && fullEmptyMay op.toNat (s.bankWord p k (off / 8))
      | _ => false) || servedFirst s p k off r id

/-- A full/empty access at its bank (R97, R100). -/
def fullEmptyHere (s : State) (a : Acc) (op k off : Nat) : State :=
  let x := s.bankWord a.part k (off / 8)
  if a.phase == Phase.parked && s.servedFirst a.part k off s.accs a.id then s
  else if fullEmptyMay op x then
    (s.setBankWord a.part k (off / 8) (fullEmptyWord op x a.data a.poison)).performed a x.data x.poison 0
  else if a.phase == Phase.parked then s
  else s.park a (!s.inImage a.part k && decide (s.parkedAt a.part k (off / 8) < 64))

/-- A wait at a barrier (R258): until the phase is other than the one it names; at most 127 wait. The wait of `bar.sync`
is one whose arrival has been made, which `bytes` = 1 tells. -/
def barrierWait (s : State) (a : Acc) (k b : Nat) : State :=
  let c := s.coreOf a.part k
  let i : Fin 32 := (BitVec.ofNat 5 b).toFin
  let x := c.r.bar[i]
  if x.phase != a.data2.getLsbD 0 then s.performed a 0 false 0
  else if a.phase == Phase.parked then s
  else if x.waiters.toNat < 127 then
    (s.setCoreOf a.part k { c with r := { c.r with bar := c.r.bar.set i { x with waiters := x.waiters + 1 } } }).park
      a true
  else s.park a false

/-- An arrival at a barrier (R257, R258): MISUSE, or the phase that it returns; `bar.sync` then waits.
DEDUCED, log entry 47. -/
def barrierArrive (s : State) (a : Acc) (k b : Nat) : State :=
  match s.arriveAt a.part k (BitVec.ofNat 5 b).toFin (BitVec.ofNat 16 a.data.toNat) with
  | none => s.setAcc { a with phase := .refused 0 }
  | some (ph, t) =>
    if a.kind == .sync then
      t.barrierWait { a with kind := .await, bytes := 1, data2 := BitVec.ofNat 64 (ofBool ph) } k b
    else t.performed a (BitVec.ofNat 64 (ofBool ph)) false 0

/-- An access at the scratchpad that it names. -/
def atBank (s : State) (a : Acc) (k off : Nat) : State :=
  match a.kind with
  | .load => s.performLoad a
  | .store => s.performStore a
  | .fullEmpty op => s.fullEmptyHere a op.toNat k off
  | .atomic op =>
    let r := atomicWord op.toNat (s.bankWord a.part k (off / 8)) off a.data.toNat a.data2.toNat
    (s.setBankWord a.part k (off / 8) r.1).performed a r.2.1 r.2.2.1 r.2.2.2
  | .chunk =>
    let x := s.bankWord a.part k (off / 8)
    let y := s.bankWord a.part k (off / 8 + 1)
    let q := chunkStep x.data.toNat y.data.toNat
    let bad := x.poison || y.poison
    (if bad then s else s.setBankWord a.part k (off / 8) { x with data := BitVec.ofNat 64 q.2 }).performed a
      (BitVec.ofNat 64 q.1) bad 0
  | .resolve =>
    match s.resolve a.part k off (if a.data2 = 3 then 3 else 2) a.data a.core (a.ord + if a.data2 = 4 then 1 else 0) with
    | some t => t.performed a 0 false 0
    | none => s.setAcc { a with phase := .refused 0 }
  | .join =>
    let r := s.register a.part k off a.data a.core a.ord
    r.2.performed a (BitVec.ofNat 64 r.1) false 0
  | .poll =>
    let x := s.bankWord a.part k (off / 8)
    s.performed a (if a.data2 = 0 then BitVec.ofNat 64 (field x.data 62 2) else a.data2 - 1) x.poison 0
  | .arrive => s.barrierArrive a k off
  | .sync => s.barrierArrive a k off
  | .await => s.barrierWait a k off
  | .post => s.performed a 0 false 0

/-- What a withdrawal leaves at the bank (R99, R112).
DEDUCED, log entry 37. -/
def unpark (s : State) (a : Acc) : State :=
  match a.kind, a.target with
  | .await, .spad k b =>
    let c := s.coreOf a.part k
    let i : Fin 32 := (BitVec.ofNat 5 b).toFin
    let x := c.r.bar[i]
    let y := Barrier.withdrawn x (a.phase == .parked) (a.bytes == 1 && x.phase == a.data2.getLsbD 0)
    s.setCoreOf a.part k { c with r := { c.r with bar := c.r.bar.set i y } }
  | _, _ => s

/-- An access is over. -/
def dropAcc (s : State) (id : Nat) : State := { s with accs := s.accs.filter fun a => a.id != id }

/-- The group that waits for an access is gone: its block has been cancelled or its core restarted.
DEDUCED, log entry 38. -/
def orphan (s : State) (a : Acc) : Bool :=
  a.held && (s.coreOf a.part a.core).awaits.all fun w => w.acc != a.id

/-- A remote access reaches its bank, or a parked one is tried again when its word has changed, and its grant starts the
timer of the reply's journey (R82); a parked one for which no group waits any more is withdrawn. -/
def bankStep (s : State) (id : Nat) : State :=
  match s.accs.find? fun a => a.id == id && (a.phase == Phase.sent || a.phase == Phase.parked) with
  | none => s
  | some a => match a.target with
    | .spad k off =>
      if a.phase == Phase.parked && s.orphan a then (s.unpark a).dropAcc id
      else if a.phase == Phase.parked then s.atBank { a with since := s.now } k off
      else if !s.mayPerform a then s
      else
        let a := { a with since := if a.out then a.since else s.now, out := true }
        if s.noPath a then s.lose a
        else if a.targets.any (s.refusedAt a.ns) then s.refuseLate a
        else (s.keepOrderOf a).atBank a k off
    | .mem _ => s

/-! ## Withdrawals, retries and timeouts -/

/-- The accesses parked on an access's word before it, the first first. -/
def parkedBefore (s : State) (a : Acc) : List Nat :=
  ((s.accs.takeWhile fun b => b.id != a.id).filter fun b => b.phase == Phase.parked && b.target == a.target).map (·.id)

/-- What an access waits for at its bank has come about: its word, or, when its arrival stands or it is parked, the end of
its barrier's phase. -/
def granted (s : State) (a : Acc) : Bool :=
  match a.kind, a.target with
  | .fullEmpty op, .spad k off => a.phase == Phase.parked && fullEmptyMay op.toNat (s.bankWord a.part k (off / 8))
      && !s.servedFirst a.part k off s.accs a.id
  | .await, .spad k b => (a.bytes == 1 || a.phase == Phase.parked)
      && (s.coreOf a.part k).r.bar[(BitVec.ofNat 5 b).toFin].phase != a.data2.getLsbD 0
  | _, _ => false

/-- A withdrawal reaches the bank (R99): an access whose condition has been met performs, after those parked before it
whose own has, and one that has not performed is withdrawn. The answer's journey is timed from now (R82).
DEDUCED, log entry 37. -/
def withdraw (s : State) (id : Nat) : State :=
  match s.accs.find? fun a => a.id == id && a.held with
  | none => s
  | some a =>
    if !(s.coreOf a.part a.core).limit then s
    else
      let s := if a.phase == Phase.parked then (s.parkedBefore a).foldl bankStep s else s
      let answer :=
        if s.granted a then match a.target with
          | .spad k off => s.atBank { a with since := s.now } k off
          | .mem _ => s
        else (s.unpark a).setAcc { a with phase := .refused 1, since := s.now }
      match a.phase with
      | .sent => answer
      | .parked => answer
      | .retry => answer
      | .done _ _ _ => s
      | .lost => s
      | .refused _ => s

/-- A request that came back is sent again (R74). -/
def resend (s : State) (id : Nat) : State :=
  match s.accs.find? fun a => a.id == id && a.phase == Phase.retry with
  | none => s
  | some a => s.setAcc { a with phase := .sent, since := s.now, out := true }

end State

/-- A cell that awaited an access receives its reply. -/
def Cell64.fill (id : Nat) (v : W64) (bad : Bool) (x : Cell64) : Cell64 :=
  if x.pend = some id then ⟨v, bad, none⟩ else x

/-- A core whose registers, latches and banked registers receive the reply of an access (R81, R237). -/
def Core.receive (id : Nat) (v : W64) (bad : Bool) (c : Core) : Core :=
  { c with
    r := { c.r with s := c.r.s.map (Cell64.fill id v bad), l := c.r.l.map (Cell64.fill id v bad) }
    bankU := { c.bankU with s := c.bankU.s.map (Cell64.fill id v bad) }
    bankK := { c.bankK with s := c.bankK.s.map (Cell64.fill id v bad) } }

/-- A core whose waiting group receives the answer of its own access (R440). -/
def Core.answered (id : Nat) (v : W64) (bad refused : Bool) (c : Core) : Core :=
  { c with awaits := c.awaits.map fun w => if w.acc = id then { w with answer := some (v, bad, refused) } else w }

namespace State

/-- The answer of an access reaches its core: the group that waits for it, or the registers that it fills. That of
a host access leaves the module. -/
def deliver (s : State) (a : Acc) (v : W64) (bad refused : Bool) : State :=
  let c := s.coreOf a.part a.core
  if a.host then s.dropAcc a.id
  else (s.dropAcc a.id).setCoreOf a.part a.core
    (if a.held then c.answered a.id v bad refused else c.receive a.id v bad)

/-- Flags that an access raised accrue to its core, or to the record that has left it (R22, R368). -/
def accrueAcc (s : State) (a : Acc) (fl : Flags) : State :=
  if fl = 0 then s
  else if a.own.uid = 0 then
    let c := s.coreOf a.part a.core
    s.setCoreOf a.part a.core { c with r := c.r.accrue fl }
  else s.accrue a.own fl

/-- A reply or acknowledgement reaches the core (R81), where a path remains (R79). -/
def reply (s : State) (id : Nat) : State :=
  match s.accs.find? fun a => a.id == id with
  | none => s
  | some a =>
    if s.noPath a then s.lose a
    else match a.phase with
    | .done v bad fl => (s.accrueAcc a fl).deliver a v bad false
    | .refused v => match a.cmd with
      | some x => (s.dropAcc id).userCause a.own a.core x
      | none => s.deliver a v false true
    | .sent => s
    | .parked => s
    | .retry => s
    | .lost => s

/-- An access that has been timed for 50 µs fails (R82): a store, or what a command sent, raises TRANSFER_ERROR on its
core, and any other access is answered with poisoned data. One that counts as performed has to perform first (R334). A
request that has not left its core yet leaves it once it may, and its timer starts.
DEDUCED, log entry 36. -/
def timeout (s : State) (id : Nat) : State :=
  match s.accs.find? fun a => a.id == id with
  | none => s
  | some a =>
    let timed := match a.phase with
      | .sent => a.out && a.seen = 0
      | .done _ _ _ => true
      | .refused _ => true
      | .lost => true
      | .parked => false
      | .retry => false
    if !a.out && a.phase == .sent then
      match s.sendOut a with
      | some a => s.setAcc a
      | none => s
    else if !timed || s.passed a.since < 50000 || a.host then s
    else if a.kind == .store || a.cmd.isSome || (a.kind matches .fullEmpty _ && !a.held) then
      (s.dropAcc id).pendKernel a.part a.core
        ⟨BitVec.ofNat 6 cTransferError, true, 2, false, 0, BitVec.ofNat 4 stFailed, 0, 0, 0⟩
    else s.deliver a 0 true false

/-- A post reaches its flag, where a path remains (R79, R83, R84): once the fences before it are kept and what it releases
has performed (R335). -/
def postArrives (s : State) (id : Nat) : State :=
  match s.posts.find? fun x => x.id == id with
  | none => s
  | some x =>
    let gone := fun (s : State) => { s with posts := s.posts.filter fun y => y.id != id : State }
    if !(s.inOrder x.part x.src x.ord && s.performedBefore x.part x.src x.ord x.scope) then s
    else if !s.pathTo x.src (.spad x.core 0) then gone s
    else
      let s := s.keepOrder x.part x.src x.ord (some x.scope)
      let c := s.coreOf x.part x.core
      (gone s).setCoreOf x.part x.core
        { c with r := c.r.post x.flag x.count.toNat x.status }

end State

/-! ## Meanings -/

/-- READ (R18, R21, R23).
DEDUCED, log entry 134. -/
def execRead (id : Nat) (s : State) : Out :=
  .next (s.atMemory id (fun k => k == .load) State.performLoad)

/-- WRITE (R20, R439). -/
def execWrite (id : Nat) (s : State) : Out :=
  .next (s.atMemory id (fun k => k == .store) State.performStore)

/-- ATOMIC (R22, R256). -/
def execAtomic (id : Nat) (s : State) : Out :=
  .next (s.atMemory id (fun k => match k with | .atomic _ => true | .chunk => true | _ => false) State.performAtomic)

/-- REMOTE_SCRATCHPAD_ACCESS (R97). -/
def execRemoteScratchpadAccess (id : Nat) (s : State) : Out := .next (s.bankStep id)

/-- WAIT_WITHDRAW (R99). -/
def execWaitWithdraw (id : Nat) (s : State) : Out := .next (s.withdraw id)

/-- WAITER_TABLE_RETRY (R74). -/
def execWaiterTableRetry (id : Nat) (s : State) : Out := .next (s.resend id)

/-- REMOTE_ACCESS_TIMEOUT (R82). -/
def execRemoteAccessTimeout (id : Nat) (s : State) : Out := .next (s.timeout id)

/-- REMOTE_ACCESS_REPLY (R81). -/
def execRemoteAccessReply (id : Nat) (s : State) : Out := .next (s.reply id)

/-- FLAG_POST_ARRIVE (R83). -/
def execFlagPostArrive (id : Nat) (s : State) : Out := .next (s.postArrives id)

/-- M_COMMAND_COMPLETE (R294). -/
def execMCommandComplete (core : Nat) (s : State) : Out := .next (s.completeMatrix core)

end Sys2Proof.Machine
end

