-- ==== Sys2Proof/Machine/Sampling.lean ====
section
/-! DEFINITION. Sampling on the sextant cores (R328 to R332): the candidate sets and the seven commands. -/
namespace Sys2Proof.Machine

/-! ## Sets (R328) -/

/-- Candidate a comes before candidate b: the higher logit, and of equal logits the lower id. -/
def Candidate.before (a b : Candidate) : Bool :=
  let x := f32.value a.logit.toNat
  let y := f32.value b.logit.toNat
  y.lt x || (!x.lt y && decide (a.id.toNat < b.id.toNat))

/-- A candidate put in its place among ordered ones. -/
def insertCandidate (a : Candidate) : List Candidate → List Candidate
  | [] => [a]
  | b :: r => if a.before b then a :: b :: r else b :: insertCandidate a r

/-- Candidates in the order of a set. -/
def orderSet (cs : List Candidate) : List Candidate := cs.foldr insertCandidate []

/-- The set that a command names. -/
def Cmd.set (c : Cmd) : Nat := c.fld 16 4
/-- A set of a core. -/
def Core.set (c : Core) (n : Nat) : CandidateSet := getReg c.sets n CandidateSet.empty
/-- A set of a core replaced. -/
def Core.setSet (c : Core) (n : Nat) (x : CandidateSet) : Core := { c with sets := setReg c.sets n x }
/-- A command's set replaced. -/
def State.putSet (s : State) (k : Nat) (c : Cmd) (x : CandidateSet) : State :=
  s.setCoreOf c.own.part k ((s.coreOf c.own.part k).setSet c.set x)

/-- The exact e^x of a finite value, rounded once to nearest even (R330).
DEDUCED, log entry 71. -/
def expFin (f : Fmt) (neg : Bool) (mag : Nat) (exp : Int) : Rounded :=
  if mag = 0 then f.round 0 false 0 false 1 0 false
  else if 12 ≤ topExp mag exp then f.round 0 false 0 false 1 (if neg then -5000 else 5000) true
  else
    settleFrom f (fun p =>
      let y := if 0 ≤ exp then mag * 2 ^ exp.toNat * 2 ^ p else mag * 2 ^ p / 2 ^ (-exp).toNat
      let l := ln2 p
      if neg then (false, expFix p (l * (y / l + 1) - y), -((y / l + 1 : Nat) : Int))
      else (false, expFix p (y % l), ((y / l : Nat) : Int))) 8 256

/-- e^x as an FP32 value with the flags raised. -/
def expValue : Exact → Rounded
  | .nan => ⟨f32.qnan, 0⟩
  | .inf neg => ⟨if neg then 0 else f32.infBits, 0⟩
  | .fin neg mag exp => expFin f32 neg mag exp

/-- The difference of two logits, exact, with NV where infinities cancel. -/
def logitDiff (l l0 : Nat) : Exact × Flags :=
  let a := f32.value l
  let b := (f32.value l0).negate
  (a.add 0 b, Flags.on fNV (a.isInf && b.isInf && a.neg != b.neg))

/-- The weights of a set in its order, each with the running sum, and the flags raised (R330). -/
def weigh (l0 : Nat) : List Candidate → Option Nat → Flags → List (Candidate × Nat) × Flags
  | [], _, fl => ([], fl)
  | c :: r, sum, fl =>
    let d := logitDiff c.logit.toNat l0
    let w := expValue d.1
    let s : Rounded := match sum with
      | none => ⟨w.bits, 0⟩
      | some z => f32.add 0 z w.bits
    let q := weigh l0 r (some s.bits) (fl ||| d.2 ||| w.flags ||| s.flags)
    (({ c with weight := BitVec.ofNat 32 w.bits }, s.bits) :: q.1, q.2)

/-- The weights of a whole set. -/
def weighSet (cs : List Candidate) : List (Candidate × Nat) × Flags :=
  weigh ((cs.headD ⟨0, 0, 0⟩).logit.toNat) cs none 0

/-- Z of a weighed set. -/
def totalOf (ws : List (Candidate × Nat)) : Nat := (ws.getLastD (⟨0, 0, 0⟩, 0)).2

/-! ## Layouts (R328) -/

/-- The layout of `stopk` is within its limits.
DEDUCED, log entry 69. -/
def goodTopK (_ : State) (c : Cmd) : Bool :=
  c.stf 0 57 7 == 0 && decide (1 ≤ c.stf 1 32 32 ∧ c.stf 1 32 32 ≤ 4096)
    && decide (1 ≤ c.stf 1 0 32 ∧ c.stf 1 0 32 ≤ 262144)

/-- T of `stemp` is finite and above zero. -/
def goodTemp (_ : State) (c : Cmd) : Bool :=
  match f32.value (c.stf 0 0 32) with
  | .fin neg m _ => !neg && m != 0
  | _ => false

/-- P of `stopp` lies in (0, 1]. -/
def goodTopP (_ : State) (c : Cmd) : Bool :=
  match f32.value (c.stf 0 0 32) with
  | .fin neg m e => !neg && m != 0 && !(Exact.fin false 1 0).lt (.fin neg m e)
  | _ => false

/-- The layout of `sgram` is within its limits. -/
def goodGrammar (_ : State) (c : Cmd) : Bool := c.stf 0 57 7 == 0

/-- The RNG object of `sdraw` lies in the core's own scratchpad. -/
def goodDraw (s : State) (c : Cmd) : Bool :=
  match s.window (chipOf s.here) (word256 c.stg 0) 16 with
  | some (j, _) => j == s.here && c.stf 0 56 8 == 1
  | none => false

/-- An SRAM-window VA of an aligned 8-byte word. -/
def goodWindowWord (s : State) (x : W64) : Bool :=
  field x 56 8 == 1 && field x 0 3 == 0 && (s.window (chipOf s.here) x 8).isSome

/-- TOKW of `stok`. -/
def goodToken (s : State) (c : Cmd) : Bool := goodWindowWord s (word256 c.stg 0)

/-- The layout of `saccept` is within its limits.
DEDUCED, log entry 70. -/
def goodAccept (s : State) (c : Cmd) : Bool :=
  c.stf 0 57 7 == 0 && c.stf 1 57 7 == 0 && c.stf 1 0 2 == 0 && goodWindowWord s (word256 c.stg 2)

/-- The bytes that a sampling command reads. -/
def sampleSource (c : Cmd) : List (Nat × Nat) :=
  match c.op with
  | 0x20 => runs c.addr (4 * c.stf 1 0 32)
  | 0x23 => runs c.addr ((c.stf 1 0 32 + 7) / 8)
  | 0x24 => runs c.addr 16
  | 0x25 => runs c.addr (4 * c.set) ++ runs (c.stf 1 0 57) 4
  | _ => []

/-- The bytes that a sampling command writes. -/
def sampleTarget (c : Cmd) : List (Nat × Nat) :=
  match c.op with
  | 0x24 => runs c.addr 16
  | 0x25 => runs (c.stf 1 0 57) 4 ++ runs (c.stf 2 0 57) 8
  | 0x26 => runs c.addr 8
  | _ => []

/-- The acceptance of a sampling command. -/
def acceptSampler (s : State) (w : Site) (good : State → Cmd → Bool) : Eff State :=
  acceptCommand s w { acceptPlain (good s) false with src := sampleSource, dst := sampleTarget }

/-! ## Effects -/

/-- A sampling command has read what it needs: a fault ends it, and poison makes it FAILED (R328). -/
def withInput (s : State) (k : Nat) (c : Cmd) (rs : List (Nat × Nat)) (f : List Byte → Engine) : Engine :=
  match s.readInput k c rs with
  | .wait t => .wait t
  | .fault v => .done s v
  | .data _ d => if d.any (·.2) then .done s (.of stFailed 0) else f (d.map (·.1))

/-- The 32-bit words of some bytes. -/
def words32 : Nat → List Byte → List Nat
  | 0, _ => []
  | n + 1, bs => ofBytes (bs.take 4) :: words32 n (bs.drop 4)

/-- `stopk`: the ids of highest logit, NaN logits excluded. -/
def runTopK (s : State) (k : Nat) (c : Cmd) : Engine :=
  withInput s k c (runs c.addr (4 * c.stf 1 0 32)) fun bs =>
    let all := (words32 (c.stf 1 0 32) bs).mapIdx fun i l => (⟨BitVec.ofNat 32 i, BitVec.ofNat 32 l, 0⟩ : Candidate)
    let cs := (orderSet (all.filter fun x => !f32.isNan x.logit.toNat)).take (min (c.stf 1 32 32) (c.stf 1 0 32))
    .done (s.putSet k c { (s.coreOf c.own.part k).set c.set with cands := cs }) (.of stOk cs.length)

/-- `stemp`: every logit divided by T. -/
def runTemp (s : State) (k : Nat) (c : Cmd) : Engine :=
  let x := (s.coreOf c.own.part k).set c.set
  let rs := x.cands.map fun y => (y, f32.div 0 y.logit.toNat (c.stf 0 0 32))
  let cs := orderSet (rs.map fun y => { y.1 with logit := BitVec.ofNat 32 y.2.bits })
  .done ((s.putSet k c { x with cands := cs }).accrue c.own (rs.foldl (fun f y => f ||| y.2.flags) 0))
    (.of stOk cs.length)

/-- The candidates up to the first whose running sum reaches c, that one included. -/
def cutAt (c : Exact) : List (Candidate × Nat) → List Candidate
  | [] => []
  | x :: r =>
    let cum := f32.value x.2
    if c.lt cum || c.eq cum then [x.1] else x.1 :: cutAt c r

/-- `stopp` (R330). -/
def runTopP (s : State) (k : Nat) (c : Cmd) : Engine :=
  let x := (s.coreOf c.own.part k).set c.set
  if x.cands.isEmpty then .done s (.of stOk 0)
  else
    let w := weighSet x.cands
    let cut := f32.mul 0 (c.stf 0 0 32) (totalOf w.1)
    let cs := cutAt (f32.value cut.bits) w.1
    .done ((s.putSet k c { x with cands := cs }).accrue c.own (w.2 ||| cut.flags)) (.of stOk cs.length)

/-- `sgram`: ids that the bitmap does not permit are removed. -/
def runGrammar (s : State) (k : Nat) (c : Cmd) : Engine :=
  let v := c.stf 1 0 32
  withInput s k c (runs c.addr ((v + 7) / 8)) fun bs =>
    let x := (s.coreOf c.own.part k).set c.set
    let cs := x.cands.filter fun y =>
      decide (y.id.toNat < v) && ((bs.getD (y.id.toNat / 8) 0).getLsbD (y.id.toNat % 8))
    .done (s.putSet k c { x with cands := cs }) (.of stOk cs.length)

/-- u of R331 from KEY and CTR. -/
def drawBits (key ctr : W64) : Nat :=
  let z := key + ctr * 0x9E3779B97F4A7C15
  let z := (z ^^^ (z >>> 30)) * 0xBF58476D1CE4E5B9
  let z := (z ^^^ (z >>> 27)) * 0x94D049BB133111EB
  field (z ^^^ (z >>> 31)) 32 32

/-- The first candidate whose running sum exceeds r, else the last. -/
def drawnFrom (r : Exact) : List (Candidate × Nat) → BitVec 32
  | [] => 0xFFFFFFFF
  | x :: rest => if r.lt (f32.value x.2) || rest.isEmpty then x.1.id else drawnFrom r rest

/-- `sdraw` (R331). -/
def runDraw (s : State) (k : Nat) (c : Cmd) : Engine :=
  withInput s k c (runs c.addr 16) fun bs =>
    let co := s.coreOf c.own.part k
    let x := co.set c.set
    if x.cands.isEmpty then
      .done (s.putSet k c { x with drawn := CandidateSet.empty.drawn }) (.of stOk CandidateSet.empty.drawn.toNat)
    else
      let ctr := BitVec.ofNat 64 (ofBytes (bs.drop 8))
      let u := drawBits (BitVec.ofNat 64 (ofBytes (bs.take 8))) ctr
      let w := weighSet x.cands
      let z := f32.value (totalOf w.1)
      let r := f32.ofExact 0 (z.mul (.fin false u (-32)))
      let id := drawnFrom (f32.value r.bits) w.1
      let co := { co with r := co.r.putSpad (field (word256 c.stg 0) 0 20 + 8) (clean (toBytes 8 (ctr + 1).toNat)) }
      let s := s.setCoreOf c.own.part k (co.setSet c.set
        { cands := w.1.map (·.1), drawn := id.zeroExtend 64 })
      .done (s.accrue c.own (w.2 ||| r.flags ||| Flags.on fNV (z.isInf && u == 0))) (.of stOk id.toNat)

/-- A scratchpad word is to be written with its bit set full, as `stf.dom` does: a release at domain scope, made once what
the core's earlier groups have sent has performed; a refused write is discarded (R328). -/
def fillWord (s : State) (k : Nat) (c : Cmd) (va v : Nat) : Engine :=
  if !s.performedBefore c.own.part k c.ord 5 then .wait s
  else match s.window (chipOf k) (BitVec.ofNat 64 va) 8 with
    | none => .done s (.fault (kSramwin, va) 0)
    | some (j, off) =>
      (s.promiseBefore c.own.part k c.ord 5).beginJob k c ⟨[], partsFrom 1 0 [⟨va, 8, .spad j off, spadAttr, c.own.ns⟩],
        clean (toBytes 8 v), false, some true, .moved none none v, none, [], false⟩

/-- `stok`: the drawn-token word is written. -/
def runToken (s : State) (k : Nat) (c : Cmd) : Engine :=
  s.runJob k c (fun _ => fillWord s k c c.addr ((s.coreOf c.own.part k).set c.set).drawn.toNat) fun _ => s

/-- The position of the first draft token that its set does not hold (R332). -/
def refusedAt (co : Core) : Nat → List Nat → Nat
  | i, [] => i
  | i, t :: r => if (co.set i).cands.any fun x => x.id.toNat == t then refusedAt co (i + 1) r else i

/-- `saccept` has what its index word receives, which it writes last (R332). -/
def Cmd.accepted (c : Cmd) (index : Nat) : Cmd := { c with phase := 1, job := none, value := BitVec.ofNat 64 index }

/-- GENW raised by one: a 32-bit atomic in one step, which leaves a poisoned word (R101); its packet takes a tag and is timed
from when it leaves (R19, R82). -/
def raiseGeneration (s : State) (k : Nat) (c : Cmd) (j : Job) (index : Nat) : Engine :=
  let rs := runs (c.stf 1 0 57) 4
  s.translated k c rs fun s c =>
    let a := s.planOf k c .both rs
    match s.absentIn a.pieces with
    | x :: r => .wait (s.waitPages c (x :: r))
    | [] =>
      match s.readyPages a.pieces, (partsFrom 1 0 a.pieces).find? fun r => !State.ownPiece k r.piece && j.out.isEmpty with
      | .error va, _ => .done s (.noFrame va)
      | .ok _, some r => .wait (if s.partTurn k c true r.piece then s.sendPart k c j true false r else s)
      | .ok t, none =>
        if t.jobLate k c { j with wr := partsFrom 1 0 a.pieces } then .done s (.of stFailed 0)
        else if !a.pieces.all (s.partFree k c true) then .wait s
        else
          match a.fault, t.refusedIn a.pieces with
          | none, none =>
            let t := a.pieces.foldl State.servePiece t
            let d := t.readPieces k c a.pieces
            let n := ofBytes (d.map (·.1)) + 1
            let t := if d.any (·.2) then t else t.writePieces c.own a.pieces (clean (toBytes 4 n))
            .wait (t.setCmd k (c.accepted index))
          | f, r => .done t (.moved f r 0)

/-- `saccept` (R332): the drafts are tested, GENW is raised when one is refused, and then the index is written. -/
def runAccept (s : State) (k : Nat) (c : Cmd) : Engine :=
  let n := c.set
  match c.phase with
  | 0 => withInput s k c (runs c.addr (4 * n)) fun bs =>
    let co := s.coreOf c.own.part k
    let a := refusedAt co 0 (words32 n bs)
    let index := if a < n && (co.set a).cands.isEmpty then n + 1 else a
    match c.job with
    | some j => if a < n then raiseGeneration s k c j index else .wait (s.setCmd k (c.accepted index))
    | none => .wait s
  | 1 => fillWord s k { c with phase := 2 } (c.stf 2 0 57) c.value.toNat
  | _ => s.runJob k c (fun _ => .wait s) fun _ => s

end Sys2Proof.Machine
end

