-- ==== Sys2Proof/Machine/Command.lean ====
section
/-! DEFINITION. The G slot (R313 to R332) and the events that carry its commands on. -/
namespace Sys2Proof.Machine

/-! ## Running a G command -/

/-- The indices of a scatter as its acceptance finds them: from its list; a queue's positions are not known
yet. -/
def gatherTargets (s : State) (c : Cmd) : List Nat :=
  if c.queued then []
  else (indexList (s.me.view.spadData (c.stf 2 0 20) (4 * c.count)) c.count).map (·.1)

/-- `ggath` and `gscat`. -/
def gatherAccept (s : State) (t : Nat) (scatter : Bool) : Accept :=
  { acceptPlain goodGather false with
    busy := fun _ => [(.tile t, !scatter)]
    src := indexRuns s.here
    dst := fun c => if scatter then (gatherTargets s c).flatMap (fun i => elementRuns c i) else []
    beyond := fun c => scatter && c.queued
    data := fun c => if scatter then
        (List.range (c.count * c.elemBytes)).map fun i =>
          (BitVec.ofNat 8 ((s.me.tile t).get i 1), (s.me.tile t).bad i 1)
      else [] }

/-- `gspd`. -/
def sparseAccept : Accept := { acceptPlain goodSparse false with src := metaRuns }

/-- `gsend`. -/
def sendAccept (s : State) : Accept := { acceptPlain (goodSend s) true with src := messageRuns }

/-- `grecv`. -/
def receiveAccept (s : State) : Accept := { acceptPlain (goodReceive s) false with dst := messageRuns }

/-- `genq`. -/
def enqueueAccept (s : State) : Accept := { acceptPlain (goodEnqueue s) true with src := recordRuns }

/-- Where the shape word of a `glaunch` lies, if it has one. -/
def shapePlace (s : State) (c : Cmd) : Option (Nat × Nat) :=
  if c.stf 0 63 1 = 0 then none else s.window (chipOf s.here) (BitVec.ofNat 64 (c.stf 2 0 57)) 8

/-- The shape word as the acceptance of a `glaunch` finds it: its bytes when it is full. -/
def shapeData (s : State) (c : Cmd) : Data :=
  match shapePlace s c with
  | none => []
  | some (k, off) =>
    let x := if k = s.here then s.me.view.word (off / 8) else s.bankWord c.own.part k (off / 8)
    if x.full then clean (toBytes 8 x.data.toNat) else []

/-- `glaunch`: one that has a shape word reads it, and keeps what it finds when it is full (R373). -/
def launchAccept (s : State) : Accept :=
  { acceptPlain (goodLaunch s) true with src := fun c => runs c.addr 32, data := shapeData s }

/-- The shape word of a `glaunch` may be read, with acquire at domain scope, and one that is empty leaves fewer than 64
launches of the cluster to wait on such words (R373). -/
def mayReadShape (s : State) (c : Cmd) : Bool :=
  match shapePlace s c with
  | none => true
  | some (k, off) => !s.promised c.own.part s.here c.ord c.id [(.spad k off, 8)] false
      && (!(shapeData s c).isEmpty || decide (shapeWaits s (clusterOf s.here) < 64))

/-- The acceptance of a `glaunch`: it waits while its shape word may not be read, or while 64 launches of the cluster wait on
such words (R373). -/
def acceptLaunch (s : State) (w : Site) : Eff State := do
  ready (mayReadShape s (newCmd s w))
  acceptCommand s w (launchAccept s)

/-- What a G command does when its turn has come. -/
def runG (k : Nat) (s : State) (c : Cmd) : Engine :=
  match c.op with
  | 0x01 => runGather s k c
  | 0x02 => runGather s k c
  | 0x03 => runSparse s c
  | 0x08 => endCollective s k c
  | 0x09 => endCollective s k c
  | 0x0A => endCollective s k c
  | 0x0B => endCollective s k c
  | 0x10 => runSend s k c
  | 0x11 => runReceive s k c
  | 0x12 => runEnqueue s k c
  | 0x14 => runLaunch s k c
  | 0x20 => runTopK s k c
  | 0x21 => runTemp s k c
  | 0x22 => runTopP s k c
  | 0x23 => runGrammar s k c
  | 0x24 => runDraw s k c
  | 0x25 => runAccept s k c
  | _ => runToken s k c

/-! ## Meanings -/


/-- `ggath` (R315). -/
def execGgath (g : Guard) (t f : BitVec 4) (p e q : Bool) (sr : BitVec 3) (s : State) : Out :=
  let W : Site := ⟨.G, slotWord g 0x01 (place [(t.toNat, 12), (f.toNat, 8), (p.toNat, 7), (e.toNat, 6), (q.toNat, 5), (sr.toNat, 0)])⟩
  runSlot s g (acceptCommand s W (gatherAccept s t.toNat false))

/-- `gscat` (R315). -/
def execGscat (g : Guard) (t f : BitVec 4) (p e q : Bool) (sr : BitVec 3) (s : State) : Out :=
  let W : Site := ⟨.G, slotWord g 0x02 (place [(t.toNat, 12), (f.toNat, 8), (p.toNat, 7), (e.toNat, 6), (q.toNat, 5), (sr.toNat, 0)])⟩
  runSlot s g (acceptCommand s W (gatherAccept s t.toNat true))

/-- `gspd` (R316). -/
def execGspd (g : Guard) (f : BitVec 4) (p e : Bool) (r sr : BitVec 3) (s : State) : Out :=
  let W : Site := ⟨.G, slotWord g 0x03 (place [(f.toNat, 8), (p.toNat, 7), (e.toNat, 6), (r.toNat, 3), (sr.toNat, 0)])⟩
  runSlot s g (acceptSparse s W sparseAccept)

/-- `gcar` (R319). -/
def execGcar (g : Guard) (u f : BitVec 4) (p e : Bool) (sr : BitVec 3) (s : State) : Out :=
  let W : Site := ⟨.G, slotWord g 0x08 (place [(u.toNat, 16), (f.toNat, 8), (p.toNat, 7), (e.toNat, 6), (sr.toNat, 0)])⟩
  runSlot s g (acceptCollective s W)

/-- `gcred` (R319). -/
def execGcred (g : Guard) (u f : BitVec 4) (p e : Bool) (sr : BitVec 3) (s : State) : Out :=
  let W : Site := ⟨.G, slotWord g 0x09 (place [(u.toNat, 16), (f.toNat, 8), (p.toNat, 7), (e.toNat, 6), (sr.toNat, 0)])⟩
  runSlot s g (acceptCollective s W)

/-- `gcbc` (R319). -/
def execGcbc (g : Guard) (u f : BitVec 4) (p e : Bool) (sr : BitVec 3) (s : State) : Out :=
  let W : Site := ⟨.G, slotWord g 0x0A (place [(u.toNat, 16), (f.toNat, 8), (p.toNat, 7), (e.toNat, 6), (sr.toNat, 0)])⟩
  runSlot s g (acceptCollective s W)

/-- `gcag` (R319). -/
def execGcag (g : Guard) (u f : BitVec 4) (p e : Bool) (sr : BitVec 3) (s : State) : Out :=
  let W : Site := ⟨.G, slotWord g 0x0B (place [(u.toNat, 16), (f.toNat, 8), (p.toNat, 7), (e.toNat, 6), (sr.toNat, 0)])⟩
  runSlot s g (acceptCollective s W)

/-- `gsend` (R322). -/
def execGsend (g : Guard) (m : BitVec 2) (f : BitVec 4) (p e : Bool) (sr : BitVec 3) (s : State) : Out :=
  let W : Site := ⟨.G, slotWord g 0x10 (place [(m.toNat, 16), (f.toNat, 8), (p.toNat, 7), (e.toNat, 6), (sr.toNat, 0)])⟩
  runSlot s g (acceptCommand s W (sendAccept s))

/-- `grecv` (R322). -/
def execGrecv (g : Guard) (m : BitVec 2) (f : BitVec 4) (p e : Bool) (sr : BitVec 3) (s : State) : Out :=
  let W : Site := ⟨.G, slotWord g 0x11 (place [(m.toNat, 16), (f.toNat, 8), (p.toNat, 7), (e.toNat, 6), (sr.toNat, 0)])⟩
  runSlot s g (acceptReceive s W (receiveAccept s))

/-- `genq` (R323). -/
def execGenq (g : Guard) (f : BitVec 4) (p e : Bool) (sr : BitVec 3) (s : State) : Out :=
  let W : Site := ⟨.G, slotWord g 0x12 (place [(f.toNat, 8), (p.toNat, 7), (e.toNat, 6), (sr.toNat, 0)])⟩
  runSlot s g (acceptCommand s W (enqueueAccept s))

/-- `glaunch` (R324, R325). -/
def execGlaunch (g : Guard) (f : BitVec 4) (p e : Bool) (sr : BitVec 3) (s : State) : Out :=
  let W : Site := ⟨.G, slotWord g 0x14 (place [(f.toNat, 8), (p.toNat, 7), (e.toNat, 6), (sr.toNat, 0)])⟩
  runSlot s g (acceptLaunch s W)

/-- `galloc` (R326). -/
def execGalloc (g : Guard) (a : BitVec 4) (d sr : BitVec 6) (p : BitVec 4) (s : State) : Out :=
  let W : Site := ⟨.G, slotWord g 0x18 (place [(a.toNat, 16), (d.toNat, 10), (sr.toNat, 4), (p.toNat, 0)])⟩
  runSlot s g (allocPlain s W a.toNat d.toNat sr.toNat p false)

/-- `galloc.r` (R327). -/
def execGallocR (g : Guard) (a : BitVec 4) (d sr : BitVec 6) (p : BitVec 4) (s : State) : Out :=
  let W : Site := ⟨.G, slotWord g 0x19 (place [(a.toNat, 16), (d.toNat, 10), (sr.toNat, 4), (p.toNat, 0)])⟩
  runSlot s g (allocPlain s W a.toNat d.toNat sr.toNat p true)

/-- `galloc.f` (R326). -/
def execGallocF (g : Guard) (a : BitVec 4) (d sr : BitVec 6) (s : State) : Out :=
  let W : Site := ⟨.G, slotWord g 0x1A (place [(a.toNat, 16), (d.toNat, 10), (sr.toNat, 4)])⟩
  runSlot s g (allocTrap s W a.toNat d.toNat sr.toNat false)

/-- `galloc.f.r` (R327). -/
def execGallocFR (g : Guard) (a : BitVec 4) (d sr : BitVec 6) (s : State) : Out :=
  let W : Site := ⟨.G, slotWord g 0x1B (place [(a.toNat, 16), (d.toNat, 10), (sr.toNat, 4)])⟩
  runSlot s g (allocTrap s W a.toNat d.toNat sr.toNat true)

/-- `gfree` (R326). -/
def execGfree (g : Guard) (a : BitVec 4) (sr : BitVec 6) (p : BitVec 4) (s : State) : Out :=
  let W : Site := ⟨.G, slotWord g 0x1C (place [(a.toNat, 16), (sr.toNat, 4), (p.toNat, 0)])⟩
  runSlot s g (freeAt s W a.toNat sr.toNat p)

/-- `gretract` (R326). -/
def execGretract (g : Guard) (sr : BitVec 6) (s : State) : Out :=
  let W : Site := ⟨.G, slotWord g 0x1D (place [(sr.toNat, 4)])⟩
  runSlot s g (retractFrom s W sr.toNat)

/-- `stopk` (R328). -/
def execStopk (g : Guard) (u f : BitVec 4) (p e : Bool) (sr : BitVec 3) (s : State) : Out :=
  let W : Site := ⟨.G, slotWord g 0x20 (place [(u.toNat, 16), (f.toNat, 8), (p.toNat, 7), (e.toNat, 6), (sr.toNat, 0)])⟩
  runSlot s g (acceptSampler s W goodTopK)

/-- `stemp` (R328). -/
def execStemp (g : Guard) (u f : BitVec 4) (p e : Bool) (sr : BitVec 3) (s : State) : Out :=
  let W : Site := ⟨.G, slotWord g 0x21 (place [(u.toNat, 16), (f.toNat, 8), (p.toNat, 7), (e.toNat, 6), (sr.toNat, 0)])⟩
  runSlot s g (acceptSampler s W goodTemp)

/-- `stopp` (R330). -/
def execStopp (g : Guard) (u f : BitVec 4) (p e : Bool) (sr : BitVec 3) (s : State) : Out :=
  let W : Site := ⟨.G, slotWord g 0x22 (place [(u.toNat, 16), (f.toNat, 8), (p.toNat, 7), (e.toNat, 6), (sr.toNat, 0)])⟩
  runSlot s g (acceptSampler s W goodTopP)

/-- `sgram` (R328). -/
def execSgram (g : Guard) (u f : BitVec 4) (p e : Bool) (sr : BitVec 3) (s : State) : Out :=
  let W : Site := ⟨.G, slotWord g 0x23 (place [(u.toNat, 16), (f.toNat, 8), (p.toNat, 7), (e.toNat, 6), (sr.toNat, 0)])⟩
  runSlot s g (acceptSampler s W goodGrammar)

/-- `sdraw` (R331). -/
def execSdraw (g : Guard) (u f : BitVec 4) (p e : Bool) (sr : BitVec 3) (s : State) : Out :=
  let W : Site := ⟨.G, slotWord g 0x24 (place [(u.toNat, 16), (f.toNat, 8), (p.toNat, 7), (e.toNat, 6), (sr.toNat, 0)])⟩
  runSlot s g (acceptSampler s W goodDraw)

/-- `saccept` (R332). -/
def execSaccept (g : Guard) (u f : BitVec 4) (p e : Bool) (sr : BitVec 3) (s : State) : Out :=
  let W : Site := ⟨.G, slotWord g 0x25 (place [(u.toNat, 16), (f.toNat, 8), (p.toNat, 7), (e.toNat, 6), (sr.toNat, 0)])⟩
  runSlot s g (acceptSampler s W goodAccept)

/-- `stok` (R328). -/
def execStok (g : Guard) (u f : BitVec 4) (p e : Bool) (sr : BitVec 3) (s : State) : Out :=
  let W : Site := ⟨.G, slotWord g 0x26 (place [(u.toNat, 16), (f.toNat, 8), (p.toNat, 7), (e.toNat, 6), (sr.toNat, 0)])⟩
  runSlot s g (acceptSampler s W goodToken)

/-- How a G command ends whose status is fixed: it leaves what it takes part in (R316, R321). -/
def leaveG (k : Nat) (s : State) (c : Cmd) : Engine :=
  if c.op = 0x03 then leaveSparse s k c
  else if 0x08 ≤ c.op && c.op ≤ 0x0B then leaveCollective s k c
  else .done s c.fixedVerdict

/-- A G command completes (R314). -/
def execGCommandComplete (core id : Nat) (s : State) : Out :=
  .next (s.engineStep core id true (runG core) (leaveG core))

/-- The sparse-index engine pushes positions (R316). -/
def execSparseIndexPush (core : Nat) (s : State) : Out :=
  .next (pushIndices s core)

/-- A contribution arrives at the combining point (R320). -/
def execCollectiveContribution (core id : Nat) (s : State) : Out :=
  .next (arriveContribution s core id)

/-- An incomplete instance is abandoned (R321). -/
def execCollectiveTimeout (inst : Nat) (s : State) : Out :=
  .next (abandonInstance s inst)

/-- A descriptor arrives at its mailbox (R322). -/
def execMailboxDescriptorArrive (core id : Nat) (s : State) : Out :=
  .next (arriveDescriptor s core id)

/-- A descriptor is withdrawn (R322). -/
def execMailboxDescriptorTimeout (core id : Nat) (s : State) : Out :=
  .next (withdrawDescriptor s core id)

/-- A `grecv` times out (R322). -/
def execGrecvTimeout (core id : Nat) (s : State) : Out :=
  .next (timeoutReceive s core id)

/-- The launch unit places a held record (R325). -/
def execLaunchRecordPlace (cl : Nat) (s : State) : Out :=
  .next (placeHeld s cl s.launches)

/-- A launch resolves (R374). -/
def execShapeResolve (launch : Nat) (s : State) : Out :=
  .next (resolveShape s launch)

/-- Retractable allocations of squashed blocks are freed (R376). -/
def execRetract (launch : Nat) (s : State) : Out :=
  .next (retractLaunch s launch)

/-- A crew is complete (R356). -/
def execCrewComplete (part crew : Nat) (s : State) : Out :=
  .next (completeCrew s part crew)

end Sys2Proof.Machine
end

