-- ==== Sys2Proof/Machine/Issue.lean ====
section
/-! DEFINITION. What happens around a group: its sync op (R177), the nullifier (R194), the limits that a waiting group and a core run into (R98, R365, R424), and the causes taken at its boundary (R398, R400, R401). -/
namespace Sys2Proof.Machine

/-! ## Cycles (R98, R182, R365, R423, R424) -/

/-- The budget counter after some cycles in which the block holds the core: 0xFFFF_FFFF never falls, and the
counter stays at 0 (R365).
DEDUCED, log entry 81. -/
def budgetAfter (b : BitVec 32) (n : Nat) : BitVec 32 :=
  if b = BitVec.allOnes 32 then b else BitVec.ofNat 32 (b.toNat - n)

/-- A cycle with this charge would exceed the window limit (R424). -/
def Core.overLimit (c : Core) (q : Nat) : Bool := decide (c.windowLimit < c.charge.foldl (· + ·) 0 + q)

/-- Cycles pass on a core, all of them with the charge of the engines but, where a group issues, the first, behind which its
slot V has some pass cycles left: the cycle counter rises, the budget counter falls but for the freeze cycles among them,
which FRZCNT counts, and BUDGET is due when the budget reaches 0 (R365, R424).
DEDUCED, log entry 120; DEDUCED, log entry 122. -/
def Core.spend (c : Core) (n : Nat) (first : Option (Nat × Nat)) (e : Nat) : Core :=
  let x := match first with
    | some (q, v) => drawn c.windowLimit e (n - 1) v ((q :: c.charge).take 127)
    | none => drawn c.windowLimit e n c.vleft c.charge
  let b := if c.blk.isSome then budgetAfter c.r.budget (n - x.2.1) else c.r.budget
  { c with
    cycles := c.cycles + BitVec.ofNat 64 n
    r := { c.r with budget := b, frzcnt := frozenCount c.r.frzcnt x.2.1 }
    budgetDue := c.budgetDue || (c.r.budget != 0 && b == 0)
    charge := x.1
    vleft := x.2.2 }

/-- The X engine of a core drains a MODE 3 ring (R88). -/
def State.pulling (s : State) (k : Nat) : Bool :=
  s.rings.any fun r => r.2.core == k && r.2.mode == 3 && !r.2.flights.isEmpty

/-- The charge of the engines of a core but for slot V in a cycle: M 40, F 20, X 6, G 4 while busy (R423). -/
def State.engineCharge (s : State) (k : Nat) : Nat :=
  let c := s.core k
  (if c.mq.isEmpty then 0 else 40) + (if c.fq.isEmpty then 0 else 20)
    + (if c.xq.any (fun x => !x.slotG) || s.pulling k then 6 else 0) + (if c.xq.any (·.slotG) then 4 else 0)

/-- The charge of a cycle of a core in which nothing issues: that of its engines, slot V among them (R423). -/
def State.stallCharge (s : State) (k : Nat) : Nat :=
  s.engineCharge k + if (s.core k).vleft = 0 then 0 else passCharge

/-- The pass cycles of a V word (R272). -/
def vPasses (c : Core) (w : BitVec 32) : Nat :=
  let sh := c.shape
  let q := fun (eb : Nat) => max 1 ((sh.n * eb + 255) / 256)
  let op := opcodeOf w
  if op = 0x4D || op = 0x54 || op = 0x55 || op = 0x58 || op = 0x5B || op = 0x5C then 1
  else if op = 0x5D || op = 0x5E then 3
  else if op = 0x59 || op = 0x5A then (sh.n + 31) / 32
  else if 0x28 ≤ op && op ≤ 0x2B then 4 * q sh.eb
  else if 0x2C ≤ op && op ≤ 0x2E then 2 * q sh.eb
  else if op = 0x38 then q (max sh.eb (typeBytes (bitsOf w.toNat 5 5)))
  else q sh.eb

/-- A product of slot M is one of the narrow path, which its streams select (R291, R296). -/
def narrowWord (c : Core) (w : BitVec 32) : Bool :=
  let op := opcodeOf w
  (op == 1 || op == 2 || op == 5 || op == 6)
    && pathOf (streamOf (getReg c.view.q (bitsOf w.toNat 12 4) 0)) (streamOf (getReg c.view.q (bitsOf w.toNat 8 4) 0))
      == some .narrow

/-- The partition of a core's granule is being swapped or reset, so that the core is halted (R408, R410, R411); and no core
of a module runs whose boot chain has stopped (R420). -/
def State.halted (s : State) (k : Nat) : Bool :=
  s.closed (chipOf k) || s.parts.any fun p => p.1 / 64 == chipOf k && p.2.pgran.getLsbD (granuleOf k)
    && (p.2.state == .goingOut || p.2.state == .comingIn || (p.2.state == .resident && p.2.wantReset))

/-! ## Sync ops (R177, R178) -/

/-- A counting flag of the core whose turn it is. -/
def State.flag (s : State) (f : BitVec 4) : Nat := s.me.r.cf[f.toFin].toNat

/-- That flag set. -/
def State.setFlag (s : State) (f : BitVec 4) (n : Nat) : State :=
  s.setMe { s.me with r := { s.me.r with cf := s.me.r.cf.set f.toFin (BitVec.ofNat 16 n) } }

/-- A flag whose condition does not hold: the group waits, and takes FE_WAIT_LIMIT at the limit (R178). -/
def flagWait (s : State) (f : BitVec 4) : State :=
  if s.me.limit then
    s.takeSync s.here .check ⟨BitVec.ofNat 6 cWaitLimit, false, 0, false, 0, 0, 0, 1, f.zeroExtend 64⟩
  else s.held true

/-! ## The nullifier (R194, R195) -/

/-- One more than the fetch position at which a guard predicate of a group was last written; `p0` is never
written. -/
def Core.guardWritten (c : Core) (ws : List (BitVec 32)) : Nat :=
  (ws.map fun w =>
    let n := (guardOf w).gp
    if n = 0 then 0 else c.wrote[n.toFin]).foldl Nat.max 0

/-- Every guard of the group is that of `p0`. -/
def onlyP0 (ws : List (BitVec 32)) : Bool := ws.all fun w => (guardOf w).gp == 0

/-- The cycles that a skip costs.
DEDUCED, log entry 121. -/
def Core.skipCost (c : Core) (ws : List (BitVec 32)) : Nat :=
  if onlyP0 ws || c.guardWritten ws + 2 ≤ c.fetch then 0 else 1

/-- A group that fetch skips: every guard false, no sync op, and no partial sum pending. -/
def Core.skippable (c : Core) (sync : BitVec 2) (ws : List (BitVec 32)) : Bool :=
  sync == 0 && !ws.isEmpty && c.allFalse ws && !c.narrowPending

/-- The group at the PC is skipped. -/
def skipGroup (s : State) : State :=
  match fetchGroup s s.me.pc with
  | .error _ => s
  | .ok bs =>
    let ws := (rawWords bs).map (·.2.2.2)
    let c := s.me
    if c.skippable (syncOf bs).1 ws then
      let n := c.skipCost ws
      let c := if n = 0 then c else c.spend n none (s.engineCharge s.here)
      s.setMe { c.endWait with
        pc := c.pc + BitVec.ofNat 64 (4 * (bs.map (·.2.length)).foldl (· + ·) 0)
        fetch := c.fetch + 1 }
    else s

/-! ## Boundary causes (R398, R400, R401) -/

/-- The oldest pending user cause enters the user handler, or the system handler when UIVEC.EN = 0; the trap
entry of a squashed block cancels it (R375). -/
def userEntry (s : State) (k : Nat) : State :=
  let c := s.core k
  match c.pendU with
  | [] => s
  | x :: rest =>
    if c.handler || c.kernel || c.stopped || c.blk.isNone || !c.pendK.isEmpty then s
    else if (match c.blk with | some b => b.squashed | none => false) then s.cancel k
    else
      let c := { c with pendU := rest, blk := c.blk.map fun (b : Block) => { b with ahead := b.ahead.map (· - 1) } }.endWait
      if bit c.r.uivec 0 then s.setCore k (c.enterUser x c.pc c.pc)
      else s.setCore k (c.enterKernel (s.part (s.partOf k)).kvec x c.pc)

/-- The oldest pending kernel cause enters the system handler, taken by whatever runs on the core (R405); of an idle one the
cycles that passed before count (R182). -/
def kernelEntry (s : State) (k : Nat) : State :=
  let c := s.core k
  let c := if c.blk.isNone && !c.kernel && !c.stopped then c.idled s.tick else c
  match c.pendK with
  | [] => s
  | x :: rest =>
    if c.kernel || c.stopped then s
    else if (match c.blk with | some b => b.squashed | none => false) then s.cancel k
    else s.setCore k (({ c with pendK := rest }.endWait).enterKernel (s.part (s.partOf k)).kvec x c.pc)

/-! ## Meanings -/


/-- `wait` (R177): the group may issue when the flag has reached COUNT.
DEDUCED, log entry 79. -/
def execSyncWait (f : BitVec 4) (c : BitVec 6) (s : State) : Out :=
  .next (if c.toNat ≤ s.flag f then s else flagWait s f)

/-- `post` (R177): the flag rises by COUNT and saturates; CFSTAT is unchanged. It releases at core scope: what the core's
earlier groups have sent counts as performed there (R338). -/
def execSyncPost (f : BitVec 4) (c : BitVec 6) (s : State) : Out :=
  let s := s.promiseBefore (s.partOf s.here) s.here s.me.ord 1
  .next (s.setFlag f (Nat.min 0xFFFF (s.flag f + c.toNat)))

/-- `take` (R177): as `wait`, and the flag falls by COUNT. -/
def execSyncTake (f : BitVec 4) (c : BitVec 6) (s : State) : Out :=
  .next (if c.toNat ≤ s.flag f then s.setFlag f (s.flag f - c.toNat) else flagWait s f)

/-- A group that fetch skips (R194, R195). -/
def execNullifierSkip (s : State) : Out :=
  .next (skipGroup s)

/-- The partial sums that are due reach the port (R297). -/
def execPartialSumArrive (core : Nat) (s : State) : Out :=
  .next (s.setCore core (s.core core).arriveSums)

/-- The count of a waiting group has reached WAITLIM.LIMIT (R98, R99, R178): its next attempt traps, and
a parked remote access is withdrawn first. -/
def execFeWaitLimit (core : Nat) (s : State) : Out :=
  let c := s.core core
  let l := c.r.waitlim.toNat
  .next (if l != 0 && l ≤ c.waited then s.setCore core { c with limit := true } else s)

/-- A freeze cycle (R424): nothing issues, FRZCNT rises, and the cycle counts toward WAITLIM only. -/
def execFreezeCycle (core : Nat) (s : State) : Out :=
  let c := s.core core
  .next (s.setCore core { c with
    cycles := c.cycles + 1
    waited := if c.waited = 0 then 0 else c.waited + 1
    charge := (0 :: c.charge).take 127
    r := { c.r with frzcnt := BitVec.ofNat 64 (satAdd (2 ^ 48 - 1) (field c.r.frzcnt 0 48) 1) } })

/-- The BUDGET user cause becomes pending, once per dispatch (R365). -/
def execBudget (core : Nat) (s : State) : Out :=
  let c := s.core core
  .next (if c.budgetDue && c.blk.isSome then
    (s.setCore core { c with budgetDue := false }).pendUser (s.partOf core) core
      ⟨BitVec.ofNat 6 cBudget, true, 0, false, 0, 0, 0, 0, 0⟩
  else s)

/-- A pending user cause is taken (R398, R400). -/
def execUserTrapEntry (core : Nat) (s : State) : Out :=
  .next (userEntry s core)

/-- A pending kernel cause is taken (R400, R401).
DEDUCED, log entry 80. -/
def execKernelTrapEntry (core : Nat) (s : State) : Out :=
  .next (kernelEntry s core)

end Sys2Proof.Machine
end

