-- ==== Sys2Proof/Machine/Tier.lean ====
section
/-! DEFINITION. The tier engine (R37 to R44): demotions, page-ins and what they release; and the walks of the
translation unit (R60, R61). -/
namespace Sys2Proof.Machine

/-! ## Page-ins (R42 to R44) -/

/-- Every accepted X and G command changed, those of saved images among them. -/
def State.mapCmds (s : State) (f : Cmd → Cmd) : State :=
  let g := fun (c : Core) => { c with xq := c.xq.map f }
  { s with
    cores := s.cores.map fun p => (p.1, g p.2)
    parts := s.parts.map fun p => (p.1, { p.2 with image := p.2.image.map fun q => (q.1, g q.2) }) }

/-- A command that waited for a page which cannot be had: `xpin` and `xmig` go on with their other pages and
keep the status; any other command ends with it (R42, R220). -/
def Cmd.pageFailed (c : Cmd) (status : Nat) (va : W64) : Cmd :=
  if !c.slotG && (c.op = 0x11 || c.op = 0x13) then
    if c.tier then c else { c with tier := true, kind := BitVec.ofNat 8 status, fail := va }
  else { c with tier := true, status := some (BitVec.ofNat 4 status), fail := va }

namespace State

/-- A page-in has ended: the page holds no request any more. -/
def pageEnded (s : State) (p : Nat) : State :=
  s.setPage p { s.page p with incoming := false, flags := [], waiters := [], cmds := [] }

/-- The resident flag of a request is posted on the core it names (R42, R44). -/
def postResident (s : State) (st : Nat) (f : Nat × Nat × Nat × BitVec 4) : State :=
  s.sendPost f.2.1 f.2.2.1 f.2.2.1 f.2.2.2 1 (BitVec.ofNat 4 st) 0 5

/-- Another page still awaited for the request with this number. -/
def awaitedElsewhere (s : State) (id : Nat) : Bool := s.pages.any fun g => g.2.flags.any fun f => f.1 == id

/-- The page is resident (R44): its translations are dropped (R63), its residency hold begins, and each resident
flag that waits for no other page is posted. -/
def pageArrived (s : State) (p : Nat) : State :=
  let s := s.purge (fun _ => true) (fun _ => true) fun e => resolves e p
  let flags := (s.page p).flags
  let s := { s with fresh := s.fresh + 1 }.setPage p
    { s.page p with tier := some 0, hold := true, since := s.now, lru := s.fresh }
  let s := s.pageEnded p
  (flags.filter fun f => !s.awaitedElsewhere f.1).foldl (fun s f => s.postResident stOk f) s

/-- A page that a ring's feeder or puller waits for cannot be had: TIER_UNAVAILABLE is raised on its core with the status
(R42), and the slot waits on.
DEDUCED, log entry 41. -/
def ringLost (s : State) (n st va : Nat) : State :=
  match s.ring? n with
  | some r => s.pendKernel r.part r.core ⟨BitVec.ofNat 6 cTierUnavailable, true, 6, false, if r.mode < 2 then 0x0A else 0x0B,
      BitVec.ofNat 4 st, 0, 0, BitVec.ofNat 64 (va / 65536 * 65536)⟩
  | none => s

/-- A walk has ended in a fault, which is kept for the retry of those who wait for it and never cached (R60, R61): the
group of the core, while it is in the walk's context, the command, or the orrery. A ring's slot waits on, and walks again;
a walk of its that could have no table page ends as the slot's own page would. -/
def walkFailed (s : State) (x : Walk) (kind : Nat) : State :=
  let s := { s with walks := s.walks.filter fun y => y.id != x.id }
  match x.who with
  | .command id => s.mapCmds fun c => if c.id = id then { c with miss := (x.granule, kind) :: c.miss } else c
  | .group =>
    if s.partOf x.core = x.part && (s.core x.core).ctx = x.ctx then
      s.setCore x.core { s.core x.core with walkFault := some (x.granule, BitVec.ofNat 8 kind) }
    else s
  | .ring n => if kTier ≤ kind then s.ringLost n (kind - kTier) (x.granule * 65536) else s
  | .orrery cl => s.setCluster cl { s.cluster cl with omiss := (x.granule, kind) :: (s.cluster cl).omiss }

/-- A walk has found the entry that governs its granule: it is installed (R60), and a command that waits takes it. An orrery
has no micro cache. -/
def walkFound (s : State) (x : Walk) (e : XEntry) : State :=
  let s := { s with walks := s.walks.filter fun y => y.id != x.id }
  match x.who with
  | .command id => (s.install x.core e).mapCmds fun c => if c.id = id then { c with tlb := e :: c.tlb } else c
  | .orrery cl => s.installShared cl e
  | _ => s.install x.core e

/-- What the loss of a page means for one that is no command and waits for it. -/
def seekerLost (s : State) (p st : Nat) (x : Seeker × W64) : State :=
  match x.1 with
  | .ring n => s.ringLost n st x.2.toNat
  | .orrery cl => s.setCluster cl { s.cluster cl with olost := (p, st) :: (s.cluster cl).olost }
  | _ => s

/-- The page cannot be brought in (R42): every request it has joined ends with the status. -/
def pageLost (s : State) (p st : Nat) : State :=
  let g := s.page p
  let s := s.pageEnded p
  let s := g.flags.foldl (fun s f => s.postResident st f)
    { s with pages := s.pages.map fun (x : Nat × Page) =>
        (x.1, { x.2 with flags := x.2.flags.filter fun f => !g.flags.any fun y => y.1 == f.1 }) }
  let s := g.waiters.foldl (fun s k => s.setCore k { s.core k with pageFault := some (p, BitVec.ofNat 4 st) }) s
  let s := (s.walks.filter fun w => w.page == some p).foldl (fun s w => s.walkFailed w (kTier + st)) s
  let s := g.cmds.foldl (fun s x => s.seekerLost p st x) s
  s.mapCmds fun c =>
    match g.cmds.find? fun x => x.1 == .command c.id with
    | some x => c.pageFailed st x.2
    | none => c

/-- A page-in that is under way ends: the page takes a tier-0 frame, or ends its requests with NOSPACE when there is
none and with FAILED when the lower tier failed. -/
def endPageIn (s : State) (p : Nat) (ok : Bool) (bad : BitVec 1024) : State :=
  let g := s.page p
  if !s.pageUnderWay p then s
  else if g.tier.isNone || g.tier == some 0 then s.pageArrived p
  else if !ok then s.pageLost p stFailed
  else
    match s.makeFrame (p / 2 ^ 32) with
    | some t => ((t.cxlRead p bad).setPage p { t.page p with frame := t.nextFrame p }).pageArrived p
    | none => s.pageLost p stNoSpace

/-! ## Fenced banks (R29) -/

/-- A page of a chip whose frame touches a fenced bank, and which no access is in flight to. -/
def touching (s : State) (ch : Nat) : Option Nat :=
  if s.hbm.any fun x => x.1 / 8 == ch && x.2.banks.any fun b => b.2.fenced then
    (s.pagesIn ch 0).find? fun p => s.fencedFrame ch (s.page p).frame && !s.inFlight p
  else none

/-- A page is moved to another frame (R29), for which another page leaves tier 0 where none is free (R39): it keeps its
poison, and its translations are invalidated (R63). A page that itself had to leave tier 0 lies in no fenced bank any more. -/
def moveFrame (s : State) (p : Nat) : State :=
  match s.makeFrame (p / 2 ^ 32) with
  | some t => if (t.page p).tier ≠ some 0 then t
      else ((t.keepPoison p).purge (fun _ => true) (fun _ => true) fun e => resolves e p).setPage p
        { t.page p with frame := t.nextFrame p }
  | none => s

/-- The tier engine of a chip needs a frame: none is free, and a page comes in (R39). -/
def needsFrame (s : State) (ch : Nat) : Bool :=
  !s.frameFree ch && s.pages.any fun p => p.1 / 2 ^ 32 == ch && p.2.incoming && p.2.tier != some 0

/-! ## Walks (R61) -/

/-- The distinct misses of a cluster in their order of arrival, of which the first 64 are walked. -/
def walking (s : State) (cl : Nat) : List (Nat × BitVec 12 × Nat) :=
  (((s.walks.filter fun w => w.cluster == cl).map fun w => (w.part, w.ctx, w.granule)).eraseDups).take 64

/-- A walk ends (R61): the entry it finds is installed for every waiting miss that it covers, and a fault is that of every
miss of its granule. A walk that reads a page outside tier 0 asks for it and waits (R42, R56); no entry governs that page,
so that it comes in with HOME, NODEM and COMP 0.
DESIGN CHOICE, log entry 156. -/
def endWalk (s : State) (id : Nat) : State :=
  match s.walks.find? fun w => w.id == id with
  | none => s
  | some w =>
    if !(s.walking w.cluster).contains (w.part, w.ctx, w.granule) then s
    else
      let same := fun (x : Walk) =>
        x.cluster == w.cluster && x.part == w.part && x.ctx == w.ctx && x.granule == w.granule
      match s.walkAbsent w.part w.ctx (w.granule * 65536) with
      | some p =>
        { s with walks := s.walks.map fun (x : Walk) => if same x then { x with page := some p } else x : State
          }.requestPage p tableAttr none
      | none =>
        let s := s.useTables w.part w.ctx (w.granule * 65536)
        match s.walk w.part w.ctx (w.granule * 65536) with
        | .ok e => (s.walks.filter fun x => x.cluster == w.cluster && e.covers x.part x.ctx (x.granule * 65536)).foldl
            (fun s x => s.walkFound x e) s
        | .error kind => (s.walks.filter same).foldl (fun s x => s.walkFailed x kind) s

end State

/-! ## Meanings -/

/-- The tier engine moves a page off a fenced bank (R29); otherwise, when it needs a frame, it selects the least
recently used page that qualifies and starts its demotion to its target tier (R39, R40). -/
def execTierDemote (chip : Nat) (s : State) : Out :=
  .next (match s.touching chip with
    | some p => s.moveFrame p
    | none =>
      if s.needsFrame chip then
        match s.victim chip with
        | some p => s.setPage p { s.page p with demoting := s.demotionTier p }
        | none => s
      else s)

/-- A demotion under way finishes (R40): the page's translations are invalidated and it lies in its lower tier.
A page that is read just now or has been pinned stays. -/
def execDemotionComplete (page : Nat) (s : State) : Out := .next (s.finishDemotion page)

/-- A page-in ends (R42 to R44): the lower tier gives the page, with the beats that CXL memory indicates as poisoned, or
fails.
DESIGN CHOICE, log entry 18. -/
def execPageInComplete (page : Nat) (read : Option (BitVec 1024)) (s : State) : Out :=
  .next (s.endPageIn page read.isSome (read.getD 0))

/-- The residency hold of a page is over 64 µs after its page-in: it may be selected for demotion again (R44). -/
def execResidencyHoldExpire (page : Nat) (s : State) : Out :=
  .next (if (s.page page).hold && decide (64000 ≤ s.passed (s.page page).since) then s.setPage page { s.page page with hold := false } else s)

/-- A table walk ends and completes every miss it covers (R61). -/
def execTranslationWalk (id : Nat) (s : State) : Out := .next (s.endWalk id)

end Sys2Proof.Machine
end

