-- ==== Sys2Proof/Machine/Rings.lean ====
section
/-! DEFINITION. Rings (R85 to R92): feeders that land slots, pullers that drain them, and the enlargement of a ring
whose crew is stalled. -/
namespace Sys2Proof.Machine

/-! ## Slots -/

/-- Who a ring's accesses to memory are made for. -/
def Ring.owner (r : Ring) : Owner := ⟨r.uid, r.crew, none, 0, r.part, r.ctx, r.ns, r.kernel⟩

/-- What a feeder or puller may do next with the slots of a ring (R87, R88, R91). -/
inductive RingAct where
  /-- the next slot starts: that of a ring's own numbering, or the oldest that its peer's puller holds -/
  | start
  /-- a word of a slot in flight is read -/
  | read (slot i : Nat)
  /-- a word of a slot in flight that has been read is written to its destination -/
  | put (slot i : Nat)
  /-- a word of a slot that has been written becomes empty in its home slot -/
  | empty (slot i : Nat)
  /-- a slot in flight that has been read goes to the end of the extension -/
  | append (slot : Nat)
  /-- as `put`, of a slot of the peer's puller, by its number on the peer -/
  | putFed (slot i : Nat)
  /-- as `append`, of a slot of the peer's puller -/
  | appendFed (slot : Nat)
  deriving DecidableEq, Repr

/-- A word of a flight changed; a word that has become empty leaves it. -/
def Flight.setWord (f : Flight) (i : Nat) (w : Option WordAt) : Flight :=
  { f with words := match w with
      | some x => f.words.map fun y => if y.1 == i then (i, x) else y
      | none => f.words.filter fun y => y.1 != i }

/-- Every word of a flight has been read. -/
def Flight.whole (f : Flight) : Bool := f.words.all fun w => w.2 != .unread

/-- A flight of a ring by its slot. -/
def Ring.flight (r : Ring) (slot : Nat) : Option Flight := r.flights.find? fun f => f.slot == slot

/-- A flight of a ring changed. -/
def Ring.setFlight (r : Ring) (f : Flight) : Ring :=
  { r with flights := r.flights.map fun g => if g.slot == f.slot then f else g }

/-- A flight of a ring is over. -/
def Ring.endFlight (r : Ring) (slot : Nat) : Ring := { r with flights := r.flights.filter fun g => g.slot != slot }

/-- A slot in flight whose words are all still to be read. -/
def Ring.newFlight (r : Ring) (slot : Nat) (toExt : Bool) : Flight :=
  ⟨slot, none, toExt, (List.range r.words).map (·, .unread), false⟩

/-- The word of home slot `slot` with an index, in its scratchpad. -/
def Ring.wordOf (r : Ring) (slot i : Nat) : Nat := field r.desc[1] 0 20 / 8 + slot % r.nslot * r.words + i

namespace State

/-- A word of a ring's scratchpad changed, in the image when its partition is out (R409). -/
def setRingWord (s : State) (r : Ring) (w : Nat) (f : SpWord → SpWord) : State :=
  let c := s.coreOf r.part r.core
  s.setCoreOf r.part r.core { c with r := c.r.setWord w (f (c.r.word w)) }

/-- The flag of a ring is posted on its core for a slot landed or drained (R85). -/
def postRing (s : State) (r : Ring) : State :=
  if bit r.desc[1] 46 then
    s.sendPost r.part r.core r.core (BitVec.ofNat 4 (field r.desc[1] 42 4)) 1 0 0 5
  else s

/-- The ring starts slots now: its feeder or puller has started, COUNT is not reached, it is not released, and its
partition is not swapped out (R89, R217). -/
def ringMoves (s : State) (r : Ring) : Bool :=
  r.started && r.left != 0 && r.closing.isNone && !s.isOut r.part

/-- No slot is landing in the home slot of a slot number. -/
def homeQuiet (s : State) (n : Nat) (r : Ring) (slot : Nat) : Bool :=
  (s.landings n).all fun l => l.2 || l.1 % r.nslot != slot % r.nslot

/-- The next slot of an IN ring may go into its home slot: that slot is wholly empty and no older slot is in the
extension (R87, R91). -/
def homeFree (s : State) (n : Nat) (r : Ring) : Bool :=
  r.ext.isEmpty && (s.landings n).all (fun l => !l.2) && s.homeQuiet n r r.next && s.slotEmpty r r.next

/-- Slots that an extension holds or that are on their way into it. -/
def extTaken (s : State) (n : Nat) (r : Ring) : Nat := r.ext.length + ((s.landings n).filter (·.2)).length

/-- The next slot of an IN ring can be placed (R87, R90). -/
def placeable (s : State) (n : Nat) (r : Ring) : Bool := s.homeFree n r || decide (s.extTaken n r < r.extCap)

/-- WORLD is raised on a ring's core for a word that the world check refuses (R67), once for a slot.
DEDUCED, log entry 140. -/
def ringRefused (s : State) (r : Ring) (f : Flight) (va : Nat) : State :=
  if f.refused then s
  else s.pendKernel r.part r.core
    ⟨BitVec.ofNat 6 cWorld, true, 6, false, if r.mode < 2 then 0x0A else 0x0B, 5, 0, 0, BitVec.ofNat 64 va⟩

/-- No access that counts as performed for a ring's core is on its way to the bytes (R334). -/
def ringFree (s : State) (r : Ring) (spans : List (Target × Nat)) (write : Bool) : Bool :=
  !s.promised r.part r.core (s.coreOf r.part r.core).ord 0 spans write

/-! ### An IN ring (R87, R91) -/

/-- What the feeder of an IN ring and the moves out of its extension can do: `n` is the ring, and a MODE 1 ring is fed
with the flights of its peer. Nothing while the partition of the ring, or of its peer, is out (R89, R409). -/
def landActs (s : State) (n : Nat) (r : Ring) : List RingAct :=
  let peer := (s.feeder n).filter fun o => !s.isOut o.2.part
  let mine := r.flights.flatMap fun f =>
    f.words.filterMap (fun w => match w.2 with
      | .unread => some (.read f.slot w.1)
      | .held _ _ => if f.toExt then none else some (.put f.slot w.1)
      | .written => none)
    ++ if f.toExt && f.whole && (r.flights.find? (·.toExt)).map (·.slot) == some f.slot then [.append f.slot] else []
  let fed := match peer with
    | none => []
    | some o => o.2.flights.flatMap fun f =>
        if f.dest.isNone then []
        else if f.toExt then
          if f.whole && f.words.any (fun w => w.2 != .written)
              && (o.2.flights.find? fun g => g.toExt && g.words.any fun w => w.2 != .written).map (·.slot) == some f.slot
          then [.appendFed f.slot] else []
        else f.words.filterMap fun w => match w.2 with
          | .held _ _ => some (.putFed f.slot w.1)
          | _ => none
  let start := s.ringMoves r && s.placeable n r && (r.mode == 0 || match peer with
    | some o => o.2.flights.any (·.dest.isNone)
    | none => false)
  if s.isOut r.part then [] else (if start then [.start] else []) ++ mine ++ fed

/-- A word of a slot in memory, translated, whose pages are there and to which a path remains (R42, R60, R61, R79): until
then its walks and its pages are asked for, and waited for. -/
def ringWord (s : State) (n : Nat) (r : Ring) (f : Flight) (i : Nat) (need : Need) : Except State (List Piece) :=
  let rs := Sys2Proof.Machine.runs (r.slotVA f.slot + 8 * i) 8
  match s.seekRuns r.core (.ring n) r.owner [] rs with
  | some t => .error t
  | none =>
    let p := s.planFor r.core r.owner need [] rs
    match s.absentIn p.pieces with
    | x :: rest => .error (s.waitPagesFor (.ring n) (x :: rest))
    | [] =>
      if p.fault.isSome || !s.ringFree r (p.pieces.map fun x => (x.target, x.len)) (need == .store)
          || p.pieces.any (fun x => !s.pathTo r.core x.target) then .error s
      else .ok p.pieces

/-- A word of a slot is read from memory (R87): a refused word is poisoned. -/
def readRing (s : State) (n : Nat) (r : Ring) (f : Flight) (i : Nat) : State :=
  match s.ringWord n r f i .load with
  | .error t => t
  | .ok ps =>
      let d := ps.flatMap fun x =>
        if s.refusedAt x.ns x.target then List.replicate x.len (0, true)
        else match x.target with
          | .mem ma => s.memData ma x.len
          | .spad j off => (s.coreOf r.part j).r.spadData off x.len
      let bad := s.refusedIn ps
      let t := ps.foldl (fun s x => s.servePiece x) ((s.touchPages ps).noteFrames r.core r.owner ps)
      let t := match bad with
        | some va => t.ringRefused r f va
        | none => t
      t.setRing n (r.setFlight { f.setWord i (some (.held (BitVec.ofNat 64 (ofBytes (d.map (·.1)))) (d.any (·.2)))) with
        refused := f.refused || bad.isSome })

/-- A word that has been read is written to its home slot and set full (R87); with the slot's last word its flag is
posted, and `next` says what becomes of the flight. `by_` is the ring whose feeder or puller writes: it needs a path to the
bank (R79), and a write that the world check refuses is discarded (R67, R68). -/
def putHome (s : State) (n : Nat) (r by_ : Ring) (slot i : Nat) (f : Flight) (next : State → Flight → State) : State :=
  let at_ := 8 * r.wordOf slot i
  match f.words.find? fun w => w.1 == i with
  | some (_, .held v bad) =>
    if !s.ringFree r [(.spad r.core at_, 8)] true || !s.pathTo by_.core (.spad r.core at_) then s
    else if s.refusedAt by_.ns (.spad r.core at_) then
      (next (s.ringRefused by_ f (windowVA r.core at_)) { f.setWord i (some .written) with refused := true }).endRing n
    else
      let g := f.setWord i (some .written)
      let t := next (s.setRingWord r (r.wordOf slot i) fun _ => ⟨v, true, bad⟩) g
      (if g.words.all fun w => w.2 == .written then t.postRing r else t).endRing n
  | _ => s

/-- The words of a flight that have been read, as a slot of the extension. -/
def slotWordsOf (f : Flight) : List (W64 × Bool) :=
  f.words.map fun w => match w.2 with
    | .held v bad => (v, bad)
    | _ => (0, true)

/-- One step of an IN ring's feeder.
DEDUCED, log entry 41. -/
def landDo (s : State) (n : Nat) (r : Ring) : RingAct → State
  | .start =>
    let ext := !s.homeFree n r
    if r.mode = 0 then
      s.setRing n { r with next := r.next + 1, flights := r.flights ++ [r.newFlight r.next ext] }
    else match s.feeder n with
      | none => s
      | some o => match o.2.flights.find? (·.dest.isNone) with
        | none => s
        | some f => (s.setRing o.1 (o.2.setFlight { f with dest := some r.next, toExt := ext })).setRing n
            { r with next := r.next + 1 }
  | .read slot i => match r.flight slot with
    | some f => s.readRing n r f i
    | none => s
  | .put slot i =>
    match r.flight slot with
    | some f => s.putHome n r r slot i f fun s g =>
        s.setRing n (if g.words.all fun w => w.2 == .written then r.endFlight slot else r.setFlight g)
    | none => s
  | .putFed slot i =>
    match s.feeder n with
    | some o => match o.2.flight slot with
      | some f => s.putHome n r o.2 (f.dest.getD 0) i f fun s g => s.setRing o.1 (o.2.setFlight g)
      | none => s
    | none => s
  | .append slot =>
    match r.flight slot with
    | some f => s.setRing n { r.endFlight slot with ext := r.ext ++ [slotWordsOf f] }
    | none => s
  | .appendFed slot =>
    match s.feeder n with
    | some o => match o.2.flight slot with
      | some f =>
        let no := s.refusedAt o.2.ns (.spad r.core 0)
        let d := slotWordsOf f
        let s := if no then s.ringRefused o.2 f (windowVA r.core (8 * r.wordOf (f.dest.getD 0) 0)) else s
        if !s.pathTo o.2.core (.spad r.core 0) then s
        else (s.setRing o.1 (o.2.setFlight { f with
          words := f.words.map fun w => (w.1, .written), refused := f.refused || no })).setRing n
            { r with ext := r.ext ++ [if no then d.map fun _ => (0, true) else d] }
      | none => s
    | none => s
  | .empty _ _ => s

/-- A freely chosen step of the feeder of an IN ring (R87): its slots start in order, and the words of those in flight
land in any order. -/
def landSlot (s : State) (n : Nat) : State :=
  match s.ring? n with
  | none => s
  | some r =>
    if 2 ≤ r.mode then s
    else
      let l := s.landActs n r
      match l[pickFrom s.tick l.length]? with
      | some x => s.landDo n r x
      | none => s

/-! ### An OUT ring (R88) -/

/-- The slot that an OUT ring's puller starts next: that whose home slot is wholly full and not in flight, in order; of a
released ring, the next that was full then (R217). -/
def nextOut (s : State) (r : Ring) : Option Nat :=
  if !r.started || s.isOut r.part || r.left = 0 || (r.mode == 3 && r.peer.isNone) then none
  else match r.closing with
    | some l => l.head?
    | none => if (s.fullSlots r).contains r.next then some r.next else none

/-- What the puller of an OUT ring can do: a word is read once, written to memory or taken to the peer, and made empty
once all of its slot have been written. Nothing while its partition is out (R89, R409). -/
def drainActs (s : State) (r : Ring) : List RingAct :=
  if s.isOut r.part then [] else
  (if (s.nextOut r).isSome then [.start] else [])
  ++ r.flights.flatMap fun f => f.words.filterMap fun w => match w.2 with
      | .unread => some (.read f.slot w.1)
      | .held _ _ => if r.mode = 2 then some (.put f.slot w.1) else none
      | .written => if f.words.all fun v => v.2 == .written then some (.empty f.slot w.1) else none

/-- A word that a puller has read is written to memory (R88): a refused write is discarded, and for a page that can have no
frame TIER_UNAVAILABLE is raised, once for a slot, which waits on (R42).
DEDUCED, log entry 41. -/
def putMemory (s : State) (n : Nat) (r : Ring) (f : Flight) (i : Nat) (v : W64) (bad : Bool) : State :=
  match s.ringWord n r f i .store with
  | .error t => t
  | .ok ps =>
    match s.readyPages ps with
      | .error va => if f.refused then s
          else (s.ringLost n stNoSpace va).setRing n (r.setFlight { f with refused := true })
      | .ok t =>
        let no := t.refusedIn ps
        let t := (ps.foldl (fun s x => s.servePiece x) (t.noteFrames r.core r.owner ps)).writePieces r.owner ps
          ((toBytes 8 v.toNat).map fun b => (b, bad))
        let t := match no with
          | some va => t.ringRefused r f va
          | none => t
        t.setRing n (r.setFlight { f.setWord i (some .written) with refused := f.refused || no.isSome })

/-- One step of an OUT ring's puller.
DEDUCED, log entry 41. -/
def drainDo (s : State) (n : Nat) (r : Ring) : RingAct → State
  | .start => match s.nextOut r with
    | none => s
    | some k => s.setRing n { r with
        next := max r.next (k + 1), flights := r.flights ++ [r.newFlight k false], closing := r.closing.map (·.drop 1) }
  | .read slot i => match r.flight slot with
    | some f =>
      if !s.ringFree r [(.spad r.core (8 * r.wordOf slot i), 8)] false then s
      else
        let x := (s.coreOf r.part r.core).r.word (r.wordOf slot i)
        s.setRing n (r.setFlight (f.setWord i (some (.held x.data x.poison))))
    | none => s
  | .put slot i => match r.flight slot with
    | some f => match f.words.find? fun w => w.1 == i with
      | some (_, .held v bad) => s.putMemory n r f i v bad
      | _ => s
    | none => s
  | .empty slot i => match r.flight slot with
    | some f =>
      let g := f.setWord i none
      let t := s.setRingWord r (r.wordOf slot i) fun x => { x with full := false }
      if g.words.isEmpty then ((t.setRing n (r.endFlight slot)).postRing r).endRing n
      else t.setRing n (r.setFlight g)
    | none => s
  | .append _ => s
  | .putFed _ _ => s
  | .appendFed _ => s

/-- A freely chosen step of the puller of an OUT ring (R88): its slots start in order, several may be in flight, and
their words are read, written and made empty in any order. -/
def drainSlot (s : State) (n : Nat) : State :=
  match s.ring? n with
  | none => s
  | some r =>
    if r.mode < 2 then s
    else
      let l := s.drainActs r
      match l[pickFrom s.tick l.length]? with
      | some x => s.drainDo n r x
      | none => s

/-- The oldest slot of the extension. -/
def extHead (s : State) (n : Nat) (r : Ring) : Nat := r.next - s.extTaken n r

/-- The oldest slot of the extension starts into its home slot once that is wholly empty, and lands there (R91). -/
def moveExtension (s : State) (n : Nat) : State :=
  match s.ring? n with
  | none => s
  | some r =>
    match r.ext with
    | [] => s
    | d :: rest =>
      let k := s.extHead n r
      if s.isOut r.part || !s.slotEmpty r k || !s.homeQuiet n r k then s
      else s.setRing n { r with
        ext := rest
        flights := r.flights ++ [⟨k, none, false, d.mapIdx fun i w => (i, .held w.1 w.2), false⟩] }

/-! ## Enlargement (R90 to R92) -/

/-- A ring has consumed its COUNT slots: its extensions return to the pool for good (R91). -/
def consumed (s : State) (n : Nat) (r : Ring) : Bool :=
  decide (r.mode < 2) && r.desc[2] != 0 && r.left == 0 && r.ext.isEmpty && (s.landings n).isEmpty
    && (List.range r.nslot).all (s.slotEmpty r)

/-- The rings of a cluster. -/
def clusterRings (s : State) (cl : Nat) : List (Nat × Ring) := s.rings.filter fun r => r.1 / 512 == cl

/-- Bytes of a cluster's ring pool in use. -/
def poolUsed (s : State) (cl : Nat) : Nat := ((s.clusterRings cl).map fun r => r.2.extCap * r.2.slotBytes).foldl (· + ·) 0

/-- Bytes of a cluster's ring pool (R90). -/
def poolBytes : Nat := 8 * 2 ^ 20

/-- The scratchpad word whose full/empty bit the group of a core waits for: that of its slot-B word, a waiting
full/empty form whose guard is true and whose word is not as it waits for, in a group whose sync op does not hold it (R97,
R98, R177). -/
def waitsOnWord (s : State) (k : Nat) : Option (Nat × Nat) :=
  let s := { s with here := k }
  if s.me.waited = 0 then none
  else match fetchGroup s s.me.pc with
    | .error _ => none
    | .ok bs =>
      let held := (syncOf bs).1.getLsbD 0 && decide (s.flag (syncOf bs).2.1 < (syncOf bs).2.2.toNat)
      match (rawWords bs).find? fun w => w.2.2.1 == .B && 0x4C ≤ opcodeOf w.2.2.2 && opcodeOf w.2.2.2 ≤ 0x51
          && s.me.guarded (guardOf w.2.2.2) && !held with
      | none => none
      | some w =>
        let x := w.2.2.2.toNat
        let va := effective (source s (BitVec.ofNat 6 (bitsOf x 8 6))).val (BitVec.ofNat 8 (bitsOf x 0 8)) 8
        if field va 56 1 = 1 then (s.window (chipOf k) va 8).filter fun x =>
          !fullEmptyMay (opcodeOf w.2.2.2) (s.bankWord (s.partOf k) x.1 (x.2 / 8))
        else none

/-- A word lies in the home slots of a ring. -/
def inRing (r : Ring) (k off : Nat) : Bool :=
  let base := field r.desc[1] 0 20
  r.core == k && decide (base ≤ off) && decide (off < base + r.nslot * r.slotBytes)

/-- A core waits on one of some rings: in a full/empty access on a word of one, or in an X command that waits for
one. -/
def waitsOnRing (s : State) (rs : List (Nat × Ring)) (k : Nat) : Bool :=
  (match s.waitsOnWord k with
    | some w => rs.any fun r => inRing r.2 w.1 w.2
    | none => false)
  || ((s.core k).waited != 0 && (s.core k).xq.any fun c =>
      !c.slotG && c.op == 0x0C && c.phase == 1 && rs.any fun r => r.1 == c.value.toNat)

/-- The feeder of an IN ring holds a slot that it cannot place (R90). -/
def heldBack (s : State) (n : Nat) (r : Ring) : Bool :=
  decide (r.mode < 2) && s.ringMoves r && !s.placeable n r
    && (r.mode == 0 || match s.feeder n with
      | some o => o.2.flights.any fun f => f.dest.isNone && f.whole
      | none => false)

/-- The cores that run a block of a crew of a partition. -/
def crewCores (s : State) (p crew : Nat) : List Nat :=
  (s.cores.filter fun c => match c.2.blk with
    | some b => recCrew b.rcd.words == crew && b.part == p
    | none => false).map (·.1)

/-- The rings of a crew of a partition that a cluster holds. -/
def crewRings (s : State) (cl p crew : Nat) : List (Nat × Ring) :=
  (s.clusterRings cl).filter fun r => r.2.crew.toNat == crew && r.2.part == p

/-- The key of a crew of a partition. -/
def crewKey (p crew : Nat) : Nat := p * 2 ^ 24 + crew

/-- The least wait of the cores of a crew, in cycles. -/
def leastWait (s : State) (p crew : Nat) : Nat := ((s.crewCores p crew).map fun k => (s.core k).waited).foldl min (2 ^ 64)

/-- A crew stands still now (R90): each of its cores waits on a ring of the crew, and a feeder holds a slot. -/
def stillNow (s : State) (cl p crew : Nat) : Bool :=
  let ks := s.crewCores p crew
  let rs := s.crewRings cl p crew
  !ks.isEmpty && ks.all (s.waitsOnRing (s.rings.filter fun r => r.2.crew.toNat == crew && r.2.part == p))
    && rs.any fun r => s.heldBack r.1 r.2

/-- What the rings of the clusters come to as time passes: a crew that stands still does so from the wait at which that
began (R90), and a ring that has consumed its slots gives back its extensions (R91).
DEDUCED, log entry 130. -/
def noteRings (s : State) : State :=
  if s.rings.isEmpty then s
  else
    let s := { s with rings := s.rings.map fun (r : Nat × Ring) =>
        if r.2.extCap != 0 && s.consumed r.1 r.2 then (r.1, { r.2 with extCap := 0 }) else r : State }
    { s with clusters := s.clusters.map fun (c : Nat × Cluster) =>
        let crews := (((s.clusterRings c.1).filter fun r => r.2.crew != 0).map fun r => (r.2.part, r.2.crew.toNat)).eraseDups
        (c.1, { c.2 with stalls := (crews.filter fun x => s.stillNow c.1 x.1 x.2).foldl (fun (t : Table Nat) x =>
          Table.put t (crewKey x.1 x.2)
            ((Table.look c.2.stalls (crewKey x.1 x.2)).getD (s.leastWait x.1 x.2))) [] }) : State }

/-- The ring that is enlarged: that with the smallest capacity, of those the lowest number, whose feeder holds a slot. -/
def smallestHeld (s : State) (rs : List (Nat × Ring)) : Option (Nat × Ring) :=
  let size := fun (r : Ring) => (r.nslot + r.extCap) * r.slotBytes
  (rs.filter fun r => s.heldBack r.1 r.2).foldl
    (fun (b : Option (Nat × Ring)) r => match b with
      | none => some r
      | some x => if size r.2 < size x.2 then some r else some x) none

/-- A crew that has stood still for 4096 cycles has a ring enlarged (R90); without room in the pool RING_POOL_EXHAUSTED
is raised on its core (R92).
DEDUCED, log entry 42; DEDUCED, log entry 130. -/
def enlargeFor (s : State) (cl p crew : Nat) : State :=
  let wait := s.leastWait p crew
  match Table.look (s.cluster cl).stalls (crewKey p crew), s.smallestHeld (s.crewRings cl p crew) with
  | some since, some (n, r) =>
    if wait < since + 4096 || !s.stillNow cl p crew then s
    else
      let s := s.setCluster cl { s.cluster cl with stalls := Table.put (s.cluster cl).stalls (crewKey p crew) wait }
      let size := (r.nslot + r.extCap) * r.slotBytes
      if s.poolUsed cl + size ≤ poolBytes then s.setRing n { r with extCap := 2 * r.extCap + r.nslot }
      else s.pendKernel r.part r.core
        ⟨BitVec.ofNat 6 cRingPool, true, 0, false, 0, 0, 0, r.index.zeroExtend 8, BitVec.ofNat 64 (n % 512)⟩
  | _, _ => s

/-- Each partition's crew of a number that holds rings of a cluster and stands still has a ring enlarged. -/
def enlarge (s : State) (cl crew : Nat) : State :=
  ((((s.clusterRings cl).filter fun r => r.2.crew.toNat == crew).map fun r => r.2.part).eraseDups).foldl
    (fun s p => s.enlargeFor cl p crew) s

end State

/-! ## Meanings -/

/-- The number of a ring of a cluster. -/
def ringKey (cl ring : Nat) : Nat := cl * 512 + ring % 512

/-- The base dies take the subscription of a MODE 0 ring (R87). -/
def execSubscribe (cl ring : Nat) (s : State) : Out :=
  .next (match s.ring? (ringKey cl ring) with
    | some r => if r.mode = 0 then s.setRing (ringKey cl ring) { r with started := true } else s
    | none => s)

/-- The base dies take the publication of a MODE 2 ring (R88). -/
def execPull (cl ring : Nat) (s : State) : Out :=
  .next (match s.ring? (ringKey cl ring) with
    | some r => if r.mode = 2 then s.setRing (ringKey cl ring) { r with started := true } else s
    | none => s)

/-- The feeder of a ring goes one step (R87). -/
def execRingSlotLand (cl ring : Nat) (s : State) : Out := .next (s.landSlot (ringKey cl ring))

/-- The puller of a ring goes one step (R88). -/
def execRingSlotDrain (cl ring : Nat) (s : State) : Out := .next (s.drainSlot (ringKey cl ring))

/-- A crew found stalled for 4096 cycles has a ring enlarged (R90, R92). -/
def execRingEnlarge (cl crew : Nat) (s : State) : Out := .next (s.enlarge cl crew)

/-- A slot of a ring's extension moves into its home slot (R91). -/
def execRingExtensionMove (cl ring : Nat) (s : State) : Out := .next (s.moveExtension (ringKey cl ring))

end Sys2Proof.Machine
end

