-- ==== Sys2Proof/Machine/Dispatch.lean ====
section
/-! DEFINITION. The meaning of every instruction and event of the table, one arm each. -/
namespace Sys2Proof.Machine

/-- What an operation or event does to the machine. -/
def exec (i : Instr) (s : State) : Host.Outcome State Fault Refusal :=
  match i with
  | .syncWait f c => Sys2Proof.Machine.execSyncWait f c s
  | .syncPost f c => Sys2Proof.Machine.execSyncPost f c s
  | .syncTake f c => Sys2Proof.Machine.execSyncTake f c s
  | .nullifierSkip => Sys2Proof.Machine.execNullifierSkip s
  | .partialSumArrive core => Sys2Proof.Machine.execPartialSumArrive core s
  | .mCommandComplete core => Sys2Proof.Machine.execMCommandComplete core s
  | .fCommandComplete core => Sys2Proof.Machine.execFCommandComplete core s
  | .stateEvict cl => Sys2Proof.Machine.execStateEvict cl s
  | .stateEvictDone cl slot => Sys2Proof.Machine.execStateEvictDone cl slot s
  | .statePageinDone cl slot ok => Sys2Proof.Machine.execStatePageinDone cl slot ok s
  | .fwMigrationCopyDone cl slot => Sys2Proof.Machine.execFwMigrationCopyDone cl slot s
  | .fwResidencyHoldExpire cl slot => Sys2Proof.Machine.execFwResidencyHoldExpire cl slot s
  | .xCommandComplete core id => Sys2Proof.Machine.execXCommandComplete core id s
  | .gCommandComplete core id => Sys2Proof.Machine.execGCommandComplete core id s
  | .sparseIndexPush core => Sys2Proof.Machine.execSparseIndexPush core s
  | .collectiveContribution core id => Sys2Proof.Machine.execCollectiveContribution core id s
  | .collectiveTimeout inst => Sys2Proof.Machine.execCollectiveTimeout inst s
  | .mailboxDescriptorArrive core id => Sys2Proof.Machine.execMailboxDescriptorArrive core id s
  | .mailboxDescriptorTimeout core id => Sys2Proof.Machine.execMailboxDescriptorTimeout core id s
  | .grecvTimeout core id => Sys2Proof.Machine.execGrecvTimeout core id s
  | .read id => Sys2Proof.Machine.execRead id s
  | .write id => Sys2Proof.Machine.execWrite id s
  | .atomic id => Sys2Proof.Machine.execAtomic id s
  | .rowcopy src dst len => Sys2Proof.Machine.execRowcopy src dst len s
  | .rowinit dst len pat => Sys2Proof.Machine.execRowinit dst len pat s
  | .subscribe cl ring => Sys2Proof.Machine.execSubscribe cl ring s
  | .pull cl ring => Sys2Proof.Machine.execPull cl ring s
  | .packetDiscard stack kind => Sys2Proof.Machine.execPacketDiscard stack kind s
  | .dramActivate stack act => Sys2Proof.Machine.execDramActivate stack act s
  | .dramRefresh stack bank => Sys2Proof.Machine.execDramRefresh stack bank s
  | .rmlogValidClear stack => Sys2Proof.Machine.execRmlogValidClear stack s
  | .tierDemote chip => Sys2Proof.Machine.execTierDemote chip s
  | .pageInComplete page read => Sys2Proof.Machine.execPageInComplete page read s
  | .residencyHoldExpire page => Sys2Proof.Machine.execResidencyHoldExpire page s
  | .translationWalk id => Sys2Proof.Machine.execTranslationWalk id s
  | .remoteScratchpadAccess id => Sys2Proof.Machine.execRemoteScratchpadAccess id s
  | .waitWithdraw id => Sys2Proof.Machine.execWaitWithdraw id s
  | .waiterTableRetry id => Sys2Proof.Machine.execWaiterTableRetry id s
  | .feWaitLimit core => Sys2Proof.Machine.execFeWaitLimit core s
  | .remoteAccessTimeout id => Sys2Proof.Machine.execRemoteAccessTimeout id s
  | .flagPostArrive id => Sys2Proof.Machine.execFlagPostArrive id s
  | .flitReplay unit link => Sys2Proof.Machine.execFlitReplay unit link s
  | .linkFailed unit link => Sys2Proof.Machine.execLinkFailed unit link s
  | .fablinkRetrain unit link => Sys2Proof.Machine.execFablinkRetrain unit link s
  | .linkTrainingDone unit link ok => Sys2Proof.Machine.execLinkTrainingDone unit link ok s
  | .headSuspect unit router => Sys2Proof.Machine.execHeadSuspect unit router s
  | .meridianCapture unit router => Sys2Proof.Machine.execMeridianCapture unit router s
  | .tokenRegenerate unit => Sys2Proof.Machine.execTokenRegenerate unit s
  | .ringSlotLand cl ring => Sys2Proof.Machine.execRingSlotLand cl ring s
  | .ringSlotDrain cl ring => Sys2Proof.Machine.execRingSlotDrain cl ring s
  | .ringEnlarge cl crew => Sys2Proof.Machine.execRingEnlarge cl crew s
  | .ringExtensionMove cl ring => Sys2Proof.Machine.execRingExtensionMove cl ring s
  | .scratchpadEccError core word up => Sys2Proof.Machine.execScratchpadEccError core word up s
  | .recordEnqueue id => Sys2Proof.Machine.execRecordEnqueue id s
  | .enqueueWindowWrite ma bytes bad => Sys2Proof.Machine.execEnqueueWindowWrite ma bytes bad s
  | .joinDecrement id => Sys2Proof.Machine.execJoinDecrement id s
  | .spillToOverflow cl => Sys2Proof.Machine.execSpillToOverflow cl s
  | .fillFromOverflow cl => Sys2Proof.Machine.execFillFromOverflow cl s
  | .dispatch core => Sys2Proof.Machine.execDispatch core s
  | .budget core => Sys2Proof.Machine.execBudget core s
  | .launchRecordPlace cl => Sys2Proof.Machine.execLaunchRecordPlace cl s
  | .shapeResolve launch => Sys2Proof.Machine.execShapeResolve launch s
  | .retract launch => Sys2Proof.Machine.execRetract launch s
  | .crewComplete part crew => Sys2Proof.Machine.execCrewComplete part crew s
  | .queueDestroy cl queue => Sys2Proof.Machine.execQueueDestroy cl queue s
  | .qstatClear cl => Sys2Proof.Machine.execQstatClear cl s
  | .orreryGo cl => Sys2Proof.Machine.execOrreryGo cl s
  | .orreryNodeFire cl node => Sys2Proof.Machine.execOrreryNodeFire cl node s
  | .orreryIndexTake cl node => Sys2Proof.Machine.execOrreryIndexTake cl node s
  | .ueMessageReceive chip port job pid message => Sys2Proof.Machine.execUeMessageReceive chip port job pid message s
  | .tokeniseRequest chip e => Sys2Proof.Machine.execTokeniseRequest chip e s
  | .requestWordLand chip e => Sys2Proof.Machine.execRequestWordLand chip e s
  | .templateEnqueue chip e => Sys2Proof.Machine.execTemplateEnqueue chip e s
  | .detokeniseWord chip e => Sys2Proof.Machine.execDetokeniseWord chip e s
  | .endpointWrite chip e first rest who => Sys2Proof.Machine.execEndpointWrite chip e first rest who s
  | .almanacLoad chip val who => Sys2Proof.Machine.execAlmanacLoad chip val who s
  | .almanacLoadDone chip => Sys2Proof.Machine.execAlmanacLoadDone chip s
  | .userTrapEntry core => Sys2Proof.Machine.execUserTrapEntry core s
  | .kernelTrapEntry core => Sys2Proof.Machine.execKernelTrapEntry core s
  | .swapOut part => Sys2Proof.Machine.execSwapOut part s
  | .swapIn part => Sys2Proof.Machine.execSwapIn part s
  | .swapComplete part => Sys2Proof.Machine.execSwapComplete part s
  | .partitionReset part => Sys2Proof.Machine.execPartitionReset part s
  | .managementRestart part => Sys2Proof.Machine.execManagementRestart part s
  | .powerOnReset chip => Sys2Proof.Machine.execPowerOnReset chip s
  | .bootStageVerify chip img => Sys2Proof.Machine.execBootStageVerify chip img s
  | .attestationStart chip => Sys2Proof.Machine.execAttestationStart chip s
  | .attestationDone chip => Sys2Proof.Machine.execAttestationDone chip s
  | .freezeCycle core => Sys2Proof.Machine.execFreezeCycle core s
  | .thermalThrottle chip unit temp => Sys2Proof.Machine.execThermalThrottle chip unit temp s
  | .climcapStep chip => Sys2Proof.Machine.execClimcapStep chip s
  | .thermalStop chip unit temp => Sys2Proof.Machine.execThermalStop chip unit temp s
  | .registerWrite ma n val who => Sys2Proof.Machine.execRegisterWrite ma n val who s
  | .remoteAccessReply id => Sys2Proof.Machine.execRemoteAccessReply id s
  | .demotionComplete page => Sys2Proof.Machine.execDemotionComplete page s
  | .stateSramEccError cl slot elem hard => Sys2Proof.Machine.execStateSramEccError cl slot elem hard s
  | .add sl g d a b w => Sys2Proof.Machine.execAdd sl g d a b w s
  | .sub sl g d a b w => Sys2Proof.Machine.execSub sl g d a b w s
  | .mul sl g d a b w => Sys2Proof.Machine.execMul sl g d a b w s
  | .mulh sl g d a b w => Sys2Proof.Machine.execMulh sl g d a b w s
  | .mulhn sl g d a b w => Sys2Proof.Machine.execMulhn sl g d a b w s
  | .div sl g d a b w => Sys2Proof.Machine.execDiv sl g d a b w s
  | .divn sl g d a b w => Sys2Proof.Machine.execDivn sl g d a b w s
  | .rem sl g d a b w => Sys2Proof.Machine.execRem sl g d a b w s
  | .remn sl g d a b w => Sys2Proof.Machine.execRemn sl g d a b w s
  | .min sl g d a b w => Sys2Proof.Machine.execMin sl g d a b w s
  | .max sl g d a b w => Sys2Proof.Machine.execMax sl g d a b w s
  | .minn sl g d a b w => Sys2Proof.Machine.execMinn sl g d a b w s
  | .maxn sl g d a b w => Sys2Proof.Machine.execMaxn sl g d a b w s
  | .abs sl g d a w => Sys2Proof.Machine.execAbs sl g d a w s
  | .and sl g d a b w => Sys2Proof.Machine.execAnd sl g d a b w s
  | .or sl g d a b w => Sys2Proof.Machine.execOr sl g d a b w s
  | .xor sl g d a b w => Sys2Proof.Machine.execXor sl g d a b w s
  | .andn sl g d a b w => Sys2Proof.Machine.execAndn sl g d a b w s
  | .shl sl g d a b w => Sys2Proof.Machine.execShl sl g d a b w s
  | .shr sl g d a b w => Sys2Proof.Machine.execShr sl g d a b w s
  | .sra sl g d a b w => Sys2Proof.Machine.execSra sl g d a b w s
  | .rol sl g d a b w => Sys2Proof.Machine.execRol sl g d a b w s
  | .clz sl g d a w => Sys2Proof.Machine.execClz sl g d a w s
  | .ctz sl g d a w => Sys2Proof.Machine.execCtz sl g d a w s
  | .popc sl g d a w => Sys2Proof.Machine.execPopc sl g d a w s
  | .sel sl g p d a b => Sys2Proof.Machine.execSel sl g p d a b s
  | .addImm sl g d a imm => Sys2Proof.Machine.execAddImm sl g d a imm s
  | .mulImm sl g d a imm => Sys2Proof.Machine.execMulImm sl g d a imm s
  | .andImm sl g d a imm => Sys2Proof.Machine.execAndImm sl g d a imm s
  | .orImm sl g d a imm => Sys2Proof.Machine.execOrImm sl g d a imm s
  | .xorImm sl g d a imm => Sys2Proof.Machine.execXorImm sl g d a imm s
  | .shlImm sl g d a imm => Sys2Proof.Machine.execShlImm sl g d a imm s
  | .shrImm sl g d a imm => Sys2Proof.Machine.execShrImm sl g d a imm s
  | .sraImm sl g d a imm => Sys2Proof.Machine.execSraImm sl g d a imm s
  | .rolImm sl g d a imm => Sys2Proof.Machine.execRolImm sl g d a imm s
  | .movi sl g d imm => Sys2Proof.Machine.execMovi sl g d imm s
  | .movk sl g d imm => Sys2Proof.Machine.execMovk sl g d imm s
  | .cmpEq sl g p q a b => Sys2Proof.Machine.execCmpEq sl g p q a b s
  | .cmpNe sl g p q a b => Sys2Proof.Machine.execCmpNe sl g p q a b s
  | .cmpLt sl g p q a b => Sys2Proof.Machine.execCmpLt sl g p q a b s
  | .cmpLe sl g p q a b => Sys2Proof.Machine.execCmpLe sl g p q a b s
  | .cmpGt sl g p q a b => Sys2Proof.Machine.execCmpGt sl g p q a b s
  | .cmpGe sl g p q a b => Sys2Proof.Machine.execCmpGe sl g p q a b s
  | .cmpLtn sl g p q a b => Sys2Proof.Machine.execCmpLtn sl g p q a b s
  | .cmpLen sl g p q a b => Sys2Proof.Machine.execCmpLen sl g p q a b s
  | .cmpGtn sl g p q a b => Sys2Proof.Machine.execCmpGtn sl g p q a b s
  | .cmpGen sl g p q a b => Sys2Proof.Machine.execCmpGen sl g p q a b s
  | .pand sl g p q a b => Sys2Proof.Machine.execPand sl g p q a b s
  | .por sl g p q a b => Sys2Proof.Machine.execPor sl g p q a b s
  | .pxor sl g p q a b => Sys2Proof.Machine.execPxor sl g p q a b s
  | .pnot sl g p q a => Sys2Proof.Machine.execPnot sl g p q a s
  | .qset g d a => Sys2Proof.Machine.execQset g d a s
  | .xset g d a => Sys2Proof.Machine.execXset g d a s
  | .hset g d a => Sys2Proof.Machine.execHset g d a s
  | .vcfg g a => Sys2Proof.Machine.execVcfg g a s
  | .btsetOffset g d imm => Sys2Proof.Machine.execBtsetOffset g d imm s
  | .btsetRegister g d a => Sys2Proof.Machine.execBtsetRegister g d a s
  | .rdsr g d c => Sys2Proof.Machine.execRdsr g d c s
  | .wrsr g sr c => Sys2Proof.Machine.execWrsr g sr c s
  | .tread g d => Sys2Proof.Machine.execTread g d s
  | .ld1 g d b o => Sys2Proof.Machine.execLd1 g d b o s
  | .ld2 g d b o => Sys2Proof.Machine.execLd2 g d b o s
  | .ld4 g d b o => Sys2Proof.Machine.execLd4 g d b o s
  | .ld g d b o => Sys2Proof.Machine.execLd g d b o s
  | .ld4Acq g d b o => Sys2Proof.Machine.execLd4Acq g d b o s
  | .ldAcq g d b o => Sys2Proof.Machine.execLdAcq g d b o s
  | .st1 g d b o => Sys2Proof.Machine.execSt1 g d b o s
  | .st2 g d b o => Sys2Proof.Machine.execSt2 g d b o s
  | .st4 g d b o => Sys2Proof.Machine.execSt4 g d b o s
  | .st g d b o => Sys2Proof.Machine.execSt g d b o s
  | .st4Rel g d b o => Sys2Proof.Machine.execSt4Rel g d b o s
  | .stRel g d b o => Sys2Proof.Machine.execStRel g d b o s
  | .ldf g d b o => Sys2Proof.Machine.execLdf g d b o s
  | .ldfDom g d b o => Sys2Proof.Machine.execLdfDom g d b o s
  | .ldfe g d b o => Sys2Proof.Machine.execLdfe g d b o s
  | .ldfeDom g d b o => Sys2Proof.Machine.execLdfeDom g d b o s
  | .ste g d b o => Sys2Proof.Machine.execSte g d b o s
  | .steDom g d b o => Sys2Proof.Machine.execSteDom g d b o s
  | .stf g d b o => Sys2Proof.Machine.execStf g d b o s
  | .stfDom g d b o => Sys2Proof.Machine.execStfDom g d b o s
  | .feset g b o => Sys2Proof.Machine.execFeset g b o s
  | .feclr g b o => Sys2Proof.Machine.execFeclr g b o s
  | .aadd4 g d b r sr => Sys2Proof.Machine.execAadd4 g d b r sr s
  | .aadd g d b r sr => Sys2Proof.Machine.execAadd g d b r sr s
  | .aand4 g d b r sr => Sys2Proof.Machine.execAand4 g d b r sr s
  | .aand g d b r sr => Sys2Proof.Machine.execAand g d b r sr s
  | .aor4 g d b r sr => Sys2Proof.Machine.execAor4 g d b r sr s
  | .aor g d b r sr => Sys2Proof.Machine.execAor g d b r sr s
  | .axor4 g d b r sr => Sys2Proof.Machine.execAxor4 g d b r sr s
  | .axor g d b r sr => Sys2Proof.Machine.execAxor g d b r sr s
  | .amin4 g d b r sr => Sys2Proof.Machine.execAmin4 g d b r sr s
  | .amin g d b r sr => Sys2Proof.Machine.execAmin g d b r sr s
  | .amax4 g d b r sr => Sys2Proof.Machine.execAmax4 g d b r sr s
  | .amax g d b r sr => Sys2Proof.Machine.execAmax g d b r sr s
  | .aminn4 g d b r sr => Sys2Proof.Machine.execAminn4 g d b r sr s
  | .aminn g d b r sr => Sys2Proof.Machine.execAminn g d b r sr s
  | .amaxn4 g d b r sr => Sys2Proof.Machine.execAmaxn4 g d b r sr s
  | .amaxn g d b r sr => Sys2Proof.Machine.execAmaxn g d b r sr s
  | .axchg4 g d b r sr => Sys2Proof.Machine.execAxchg4 g d b r sr s
  | .axchg g d b r sr => Sys2Proof.Machine.execAxchg g d b r sr s
  | .acas4 g d b r sr => Sys2Proof.Machine.execAcas4 g d b r sr s
  | .acas g d b r sr => Sys2Proof.Machine.execAcas g d b r sr s
  | .afaddF32 g d b r sr => Sys2Proof.Machine.execAfaddF32 g d b r sr s
  | .afaddF64 g d b r sr => Sys2Proof.Machine.execAfaddF64 g d b r sr s
  | .afminF32 g d b r sr => Sys2Proof.Machine.execAfminF32 g d b r sr s
  | .afmaxF32 g d b r sr => Sys2Proof.Machine.execAfmaxF32 g d b r sr s
  | .afminF64 g d b r sr => Sys2Proof.Machine.execAfminF64 g d b r sr s
  | .afmaxF64 g d b r sr => Sys2Proof.Machine.execAfmaxF64 g d b r sr s
  | .chunk g d b r => Sys2Proof.Machine.execChunk g d b r s
  | .fence g imm => Sys2Proof.Machine.execFence g imm s
  | .drain g imm => Sys2Proof.Machine.execDrain g imm s
  | .barArr g d a w => Sys2Proof.Machine.execBarArr g d a w s
  | .barWt g a b => Sys2Proof.Machine.execBarWt g a b s
  | .barSync g a => Sys2Proof.Machine.execBarSync g a s
  | .cfset g d a => Sys2Proof.Machine.execCfset g d a s
  | .cfadd g a b => Sys2Proof.Machine.execCfadd g a b s
  | .cfrd g d f => Sys2Proof.Machine.execCfrd g d f s
  | .fres g a b => Sys2Proof.Machine.execFres g a b s
  | .fjoin g d a b w => Sys2Proof.Machine.execFjoin g d a b w s
  | .fpoll g d a w => Sys2Proof.Machine.execFpoll g d a w s
  | .xinv g a b => Sys2Proof.Machine.execXinv g a b s
  | .nop sl g => Sys2Proof.Machine.execNop sl g s
  | .br g o => Sys2Proof.Machine.execBr g o s
  | .brt g sr t u v w b => Sys2Proof.Machine.execBrt g sr t u v w b s
  | .call g o => Sys2Proof.Machine.execCall g o s
  | .callr g sr => Sys2Proof.Machine.execCallr g sr s
  | .ret g => Sys2Proof.Machine.execRet g s
  | .jr g sr => Sys2Proof.Machine.execJr g sr s
  | .jt g imm o => Sys2Proof.Machine.execJt g imm o s
  | .loopLc0 g o => Sys2Proof.Machine.execLoopLc0 g o s
  | .loopLc1 g o => Sys2Proof.Machine.execLoopLc1 g o s
  | .suspend g => Sys2Proof.Machine.execSuspend g s
  | .yield g => Sys2Proof.Machine.execYield g s
  | .endBlock g => Sys2Proof.Machine.execEndBlock g s
  | .endF g sr => Sys2Proof.Machine.execEndF g sr s
  | .trap g imm => Sys2Proof.Machine.execTrap g imm s
  | .uiret g => Sys2Proof.Machine.execUiret g s
  | .uiretSkip g => Sys2Proof.Machine.execUiretSkip g s
  | .eret g => Sys2Proof.Machine.execEret g s
  | .halt g => Sys2Proof.Machine.execHalt g s
  | .vadd g d a b p q k => Sys2Proof.Machine.execVadd g d a b p q k s
  | .vsub g d a b p q k => Sys2Proof.Machine.execVsub g d a b p q k s
  | .vmul g d a b p q k => Sys2Proof.Machine.execVmul g d a b p q k s
  | .vmulh g d a b p q k => Sys2Proof.Machine.execVmulh g d a b p q k s
  | .vaddsat g d a b p q k => Sys2Proof.Machine.execVaddsat g d a b p q k s
  | .vsubsat g d a b p q k => Sys2Proof.Machine.execVsubsat g d a b p q k s
  | .vavg g d a b p q k => Sys2Proof.Machine.execVavg g d a b p q k s
  | .vmin g d a b p q k => Sys2Proof.Machine.execVmin g d a b p q k s
  | .vmax g d a b p q k => Sys2Proof.Machine.execVmax g d a b p q k s
  | .vabs g d a p k => Sys2Proof.Machine.execVabs g d a p k s
  | .vand g d a b p q k => Sys2Proof.Machine.execVand g d a b p q k s
  | .vor g d a b p q k => Sys2Proof.Machine.execVor g d a b p q k s
  | .vxor g d a b p q k => Sys2Proof.Machine.execVxor g d a b p q k s
  | .vandn g d a b p q k => Sys2Proof.Machine.execVandn g d a b p q k s
  | .vshl g d a b p q k => Sys2Proof.Machine.execVshl g d a b p q k s
  | .vshr g d a b p q k => Sys2Proof.Machine.execVshr g d a b p q k s
  | .vsra g d a b p q k => Sys2Proof.Machine.execVsra g d a b p q k s
  | .vcmpEq g m a b p q k => Sys2Proof.Machine.execVcmpEq g m a b p q k s
  | .vcmpNe g m a b p q k => Sys2Proof.Machine.execVcmpNe g m a b p q k s
  | .vcmpLt g m a b p q k => Sys2Proof.Machine.execVcmpLt g m a b p q k s
  | .vcmpLe g m a b p q k => Sys2Proof.Machine.execVcmpLe g m a b p q k s
  | .vcmpGt g m a b p q k => Sys2Proof.Machine.execVcmpGt g m a b p q k s
  | .vcmpGe g m a b p q k => Sys2Proof.Machine.execVcmpGe g m a b p q k s
  | .vsel g d a b p q => Sys2Proof.Machine.execVsel g d a b p q s
  | .vfadd g d a b p q k => Sys2Proof.Machine.execVfadd g d a b p q k s
  | .vfsub g d a b p q k => Sys2Proof.Machine.execVfsub g d a b p q k s
  | .vfmul g d a b p q k => Sys2Proof.Machine.execVfmul g d a b p q k s
  | .vffma g d a b p q k => Sys2Proof.Machine.execVffma g d a b p q k s
  | .vffms g d a b p q k => Sys2Proof.Machine.execVffms g d a b p q k s
  | .vfnma g d a b p q k => Sys2Proof.Machine.execVfnma g d a b p q k s
  | .vfmin g d a b p q k => Sys2Proof.Machine.execVfmin g d a b p q k s
  | .vfmax g d a b p q k => Sys2Proof.Machine.execVfmax g d a b p q k s
  | .vfdiv g d a b p q k => Sys2Proof.Machine.execVfdiv g d a b p q k s
  | .vfsqrt g d a p k => Sys2Proof.Machine.execVfsqrt g d a p k s
  | .vfrcp g d a p k => Sys2Proof.Machine.execVfrcp g d a p k s
  | .vfrsq g d a p k => Sys2Proof.Machine.execVfrsq g d a p k s
  | .vfexp2 g d a p k => Sys2Proof.Machine.execVfexp2 g d a p k s
  | .vflog2 g d a p k => Sys2Proof.Machine.execVflog2 g d a p k s
  | .vftanh g d a p k => Sys2Proof.Machine.execVftanh g d a p k s
  | .vfcls g d a p k => Sys2Proof.Machine.execVfcls g d a p k s
  | .vfcmpEq g m a b p q k => Sys2Proof.Machine.execVfcmpEq g m a b p q k s
  | .vfcmpNe g m a b p q k => Sys2Proof.Machine.execVfcmpNe g m a b p q k s
  | .vfcmpLt g m a b p q k => Sys2Proof.Machine.execVfcmpLt g m a b p q k s
  | .vfcmpLe g m a b p q k => Sys2Proof.Machine.execVfcmpLe g m a b p q k s
  | .vfcmpGt g m a b p q k => Sys2Proof.Machine.execVfcmpGt g m a b p q k s
  | .vfcmpGe g m a b p q k => Sys2Proof.Machine.execVfcmpGe g m a b p q k s
  | .vcvt g d a t p sr k => Sys2Proof.Machine.execVcvt g d a t p sr k s
  | .vmxpack g d a f p => Sys2Proof.Machine.execVmxpack g d a f p s
  | .vmxunpack g d a f p => Sys2Proof.Machine.execVmxunpack g d a f p s
  | .vredadd g d a p k => Sys2Proof.Machine.execVredadd g d a p k s
  | .vredmin g d a p k => Sys2Proof.Machine.execVredmin g d a p k s
  | .vredmax g d a p k => Sys2Proof.Machine.execVredmax g d a p k s
  | .vscan g d a p k => Sys2Proof.Machine.execVscan g d a p k s
  | .vperm g d a b p q k => Sys2Proof.Machine.execVperm g d a b p q k s
  | .vcompress g d a p => Sys2Proof.Machine.execVcompress g d a p s
  | .vexpand g d a p => Sys2Proof.Machine.execVexpand g d a p s
  | .vmov g d a p k => Sys2Proof.Machine.execVmov g d a p k s
  | .vsplat g d sr k => Sys2Proof.Machine.execVsplat g d sr k s
  | .vext g sr a imm => Sys2Proof.Machine.execVext g sr a imm s
  | .vins g d v imm => Sys2Proof.Machine.execVins g d v imm s
  | .mand g d a b => Sys2Proof.Machine.execMand g d a b s
  | .mor g d a b => Sys2Proof.Machine.execMor g d a b s
  | .mxor g d a b => Sys2Proof.Machine.execMxor g d a b s
  | .mnot g d a => Sys2Proof.Machine.execMnot g d a s
  | .mpopc g sr m => Sys2Proof.Machine.execMpopc g sr m s
  | .mfirst g sr m => Sys2Proof.Machine.execMfirst g sr m s
  | .laclr g l => Sys2Proof.Machine.execLaclr g l s
  | .lafma g l a b p q k => Sys2Proof.Machine.execLafma g l a b p q k s
  | .laadd g l a p k => Sys2Proof.Machine.execLaadd g l a p k s
  | .laround g d l => Sys2Proof.Machine.execLaround g d l s
  | .lasgn g p q l => Sys2Proof.Machine.execLasgn g p q l s
  | .lamovToVector g d l => Sys2Proof.Machine.execLamovToVector g d l s
  | .lamovFromVector g l a => Sys2Proof.Machine.execLamovFromVector g l a s
  | .mma g c a b o => Sys2Proof.Machine.execMma g c a b o s
  | .mmaSp g c a b o => Sys2Proof.Machine.execMmaSp g c a b o s
  | .mmaMk g c a b o => Sys2Proof.Machine.execMmaMk g c a b o s
  | .mscale g => Sys2Proof.Machine.execMscale g s
  | .mmaS g c a b o => Sys2Proof.Machine.execMmaS g c a b o s
  | .mmaSpS g c a b o => Sys2Proof.Machine.execMmaSpS g c a b o s
  | .mzero g t => Sys2Proof.Machine.execMzero g t s
  | .mcvt g sr d imm t r a => Sys2Proof.Machine.execMcvt g sr d imm t r a s
  | .mmov g d sr => Sys2Proof.Machine.execMmov g d sr s
  | .mtr g d sr e => Sys2Proof.Machine.execMtr g d sr e s
  | .mmask g t => Sys2Proof.Machine.execMmask g t s
  | .mclrmask g => Sys2Proof.Machine.execMclrmask g s
  | .fwbind g h => Sys2Proof.Machine.execFwbind g h s
  | .fwread g q h => Sys2Proof.Machine.execFwread g q h s
  | .fwstepDeltaPre g k v q h => Sys2Proof.Machine.execFwstepDeltaPre g k v q h s
  | .fwstepDeltaPost g k v q h => Sys2Proof.Machine.execFwstepDeltaPost g k v q h s
  | .fwstepHebb g k v q h => Sys2Proof.Machine.execFwstepHebb g k v q h s
  | .fwstepGrad g k q h => Sys2Proof.Machine.execFwstepGrad g k q h s
  | .fwfade g h => Sys2Proof.Machine.execFwfade g h s
  | .fwouter g k v h => Sys2Proof.Machine.execFwouter g k v h s
  | .fwcommit g h => Sys2Proof.Machine.execFwcommit g h s
  | .fwsnap g h d => Sys2Proof.Machine.execFwsnap g h d s
  | .fwfork g c h d => Sys2Proof.Machine.execFwfork g c h d s
  | .fwavg g a b c h e => Sys2Proof.Machine.execFwavg g a b c h e s
  | .fwroll g h sr => Sys2Proof.Machine.execFwroll g h sr s
  | .fwdrop g h => Sys2Proof.Machine.execFwdrop g h s
  | .fwmigr g h d => Sys2Proof.Machine.execFwmigr g h d s
  | .fwpagein g h f => Sys2Proof.Machine.execFwpagein g h f s
  | .fwevict g h => Sys2Proof.Machine.execFwevict g h s
  | .fwstat g t h => Sys2Proof.Machine.execFwstat g t h s
  | .xld g t sr f imm p e => Sys2Proof.Machine.execXld g t sr f imm p e s
  | .xldTr g t sr f imm p e => Sys2Proof.Machine.execXldTr g t sr f imm p e s
  | .xst g t sr f imm p e => Sys2Proof.Machine.execXst g t sr f imm p e s
  | .xldv g v sr f imm p e w => Sys2Proof.Machine.execXldv g v sr f imm p e w s
  | .xstv g v sr f imm p e w => Sys2Proof.Machine.execXstv g v sr f imm p e w s
  | .xldw g sr f imm p e => Sys2Proof.Machine.execXldw g sr f imm p e s
  | .xcopy g sr f imm p e x m => Sys2Proof.Machine.execXcopy g sr f imm p e x m s
  | .xfill g sr f imm p e a => Sys2Proof.Machine.execXfill g sr f imm p e a s
  | .xsub g sr f imm p e x => Sys2Proof.Machine.execXsub g sr f imm p e x s
  | .xpub g sr f imm p e x => Sys2Proof.Machine.execXpub g sr f imm p e x s
  | .xunsub g sr f imm p e x => Sys2Proof.Machine.execXunsub g sr f imm p e x s
  | .xpre g sr f imm p e => Sys2Proof.Machine.execXpre g sr f imm p e s
  | .xpreBar g sr f imm p e => Sys2Proof.Machine.execXpreBar g sr f imm p e s
  | .xpin g sr f imm p e => Sys2Proof.Machine.execXpin g sr f imm p e s
  | .xunpin g sr f imm p e => Sys2Proof.Machine.execXunpin g sr f imm p e s
  | .xmig g sr f imm p e t => Sys2Proof.Machine.execXmig g sr f imm p e t s
  | .xwait g r kd v4 => Sys2Proof.Machine.execXwait g r kd v4 s
  | .ggath g t f p e q sr => Sys2Proof.Machine.execGgath g t f p e q sr s
  | .gscat g t f p e q sr => Sys2Proof.Machine.execGscat g t f p e q sr s
  | .gspd g f p e r sr => Sys2Proof.Machine.execGspd g f p e r sr s
  | .gcar g u f p e sr => Sys2Proof.Machine.execGcar g u f p e sr s
  | .gcred g u f p e sr => Sys2Proof.Machine.execGcred g u f p e sr s
  | .gcbc g u f p e sr => Sys2Proof.Machine.execGcbc g u f p e sr s
  | .gcag g u f p e sr => Sys2Proof.Machine.execGcag g u f p e sr s
  | .gsend g m f p e sr => Sys2Proof.Machine.execGsend g m f p e sr s
  | .grecv g m f p e sr => Sys2Proof.Machine.execGrecv g m f p e sr s
  | .genq g f p e sr => Sys2Proof.Machine.execGenq g f p e sr s
  | .glaunch g f p e sr => Sys2Proof.Machine.execGlaunch g f p e sr s
  | .galloc g a d sr p => Sys2Proof.Machine.execGalloc g a d sr p s
  | .gallocR g a d sr p => Sys2Proof.Machine.execGallocR g a d sr p s
  | .gallocF g a d sr => Sys2Proof.Machine.execGallocF g a d sr s
  | .gallocFR g a d sr => Sys2Proof.Machine.execGallocFR g a d sr s
  | .gfree g a sr p => Sys2Proof.Machine.execGfree g a sr p s
  | .gretract g sr => Sys2Proof.Machine.execGretract g sr s
  | .stopk g u f p e sr => Sys2Proof.Machine.execStopk g u f p e sr s
  | .stemp g u f p e sr => Sys2Proof.Machine.execStemp g u f p e sr s
  | .stopp g u f p e sr => Sys2Proof.Machine.execStopp g u f p e sr s
  | .sgram g u f p e sr => Sys2Proof.Machine.execSgram g u f p e sr s
  | .sdraw g u f p e sr => Sys2Proof.Machine.execSdraw g u f p e sr s
  | .saccept g u f p e sr => Sys2Proof.Machine.execSaccept g u f p e sr s
  | .stok g u f p e sr => Sys2Proof.Machine.execStok g u f p e sr s

end Sys2Proof.Machine
end

