-- ==== Sys2Proof/Machine/Group.lean ====
section
/-! DEFINITION. How a core's turn goes: the group at its PC is fetched and decoded, every slot word is
tried on the state before the group, and the group either takes effect whole or is held, trapped or
skipped (R175 to R180, R189 to R195, R400, R424, R440). The meaning of a slot word is a parameter, which the
step supplies. -/
namespace Sys2Proof.Machine

/-- The meanings of operations and events. -/
abbrev Meaning := Instr → State → Out

/-- The core's group context for a slot word. -/
def atWord (s : State) (c : CodeWord) (target : Option W64) (path : BitVec 5) : State :=
  s.setMe { s.me with grp := { s.me.grp with
    bundle := c.bundle, second := c.second, target := target, path := path, status := .running } }

/-- The slot words of a group in the order in which their effects are made: the draws of slot V come before those
of slot M, whichever bundle holds them (R160), and slot C comes last, since it may leave the core (R267, R399); reads
come before writes in any case (R180).
DEDUCED, log entry 76. -/
def effectOrder (ws : List CodeWord) : List CodeWord :=
  [Slot.A, .B, .V, .M, .F, .X, .G, .C].flatMap fun sl => ws.filter fun w => w.slot == sl

/-- What slot C of the group comes to when tried on the state before the group: the target of a taken
transfer, and the path predicates of its bundle (R185, R186). -/
def transfer (ex : Meaning) (s : State) (ws : List CodeWord) : Option W64 × BitVec 5 × Option W64 :=
  match ws.find? fun w => w.slot == .C with
  | none => (none, 0, none)
  | some w =>
    match ex w.instr (atWord s w none 0) with
    | .next t => if t.me.grp.status = .running then (t.me.grp.target, t.me.grp.path, some w.bundle)
        else (none, 0, none)
    | .fault _ => (none, 0, none)
    | .refused _ => (none, 0, none)

/-- The path predicates in the bundle of a word: those of the tree branch in the same bundle (R185). -/
def pathFor (x : Option W64 × BitVec 5 × Option W64) (w : CodeWord) : BitVec 5 :=
  if x.2.2 = some w.bundle then x.2.1 else 0

/-- How a word that does not take effect ranks among those of its group; the smallest decides (R190, R440):
a word whose registers are not ready, the causes found at decode, PRIVILEGE, a cause found before any access
is sent, a wait, an answer's cause, the allocator's answer, an access to be sent.
DEDUCED, log entry 75. -/
def rankOf (s : State) : Out → Option Nat
  | .next t =>
    match t.me.grp.status with
    | .running => none
    | .left => none
    | .stalled => if t.me.waited = s.me.waited then some 0 else some 4
    | .trapped .decode => some 1
    | .trapped .privilege => some 2
    | .trapped .check => some 3
    | .missing => some 3
    | .trapped .answer => some 5
    | .trapped .allocator => some 6
    | .sent => some 7
  | .fault _ => some 0
  | .refused _ => some 0

/-- The first of the outcomes with the smallest rank. -/
def deciding (s : State) : List Out → Option (Nat × Out)
  | [] => none
  | o :: r =>
    match rankOf s o, deciding s r with
    | none, d => d
    | some n, some (m, d) => if m < n then some (m, d) else some (n, o)
    | some n, none => some (n, o)

/-- What decides about a group: the causes found at decode and PRIVILEGE come before an unsatisfied sync op, whose
group has not issued; the checks made at issue come after it, and so does an access still to be sent; the answer of
one that has been sent comes before it (R119, R177, R190, R434, R440).
DEDUCED, log entry 75. -/
def decided (s : State) (tried waiting : List Out) : Option Out :=
  match deciding s tried, deciding s waiting with
  | some (n, o), some (_, w) => some (if n < 3 || n = 5 then o else w)
  | some (_, o), none => some o
  | none, w => w.map (·.2)

/-- The words of a group that are tried: all of them, but for a group whose own access is on its way, which only that
access's word can end (R440). -/
def Core.toTry (c : Core) (ws : List CodeWord) : List CodeWord :=
  match c.asked with
  | some a => if a.answer.isNone then ws.filter fun w => w.slot == a.slot else ws
  | none => ws

/-- What a word of a group comes to: once the group's own access has performed, no word of it is refused any more, and
one that would be holds the group (R440).
DESIGN CHOICE, log entry 139. -/
def settled (s : State) (o : Out) : Out :=
  match o with
  | .next t =>
    match t.me.grp.status with
    | .trapped _ => if s.me.performed then .next (s.setStatus .stalled) else o
    | _ => o
  | _ => o

/-- The bundles of a group are kept with the access that it has just sent (R440). -/
def State.keepAsked (s : State) (bs : List (W64 × List (BitVec 32))) : State :=
  s.setMe { s.me with awaits := s.me.awaits.map fun a => if a.code.isEmpty then { a with code := bs } else a }

/-- An outcome followed by more. -/
def andThen (o : Out) (f : State → Out) : Out :=
  match o with
  | .next t => f t
  | .fault e => .fault e
  | .refused e => .refused e

/-- The effects of the slot words, one after another. -/
def runWords (ex : Meaning) (x : Option W64 × BitVec 5 × Option W64) (s : State) : List CodeWord → Out
  | [] => .next s
  | w :: r => andThen (ex w.instr (atWord s w x.1 (pathFor x w))) fun t => runWords ex x t r

/-- The slot words of a group whose guards are true. -/
def guardedWords (c : Core) (x : Option W64 × BitVec 5 × Option W64) (ws : List CodeWord) : List CodeWord :=
  ws.filter fun w => { c with grp := { c.grp with path := pathFor x w } }.guarded (guardOf w.word)

/-- The pass cycles of the V word that a group issues with a true guard (R272). -/
def passesIn (c : Core) (x : Option W64 × BitVec 5 × Option W64) (ws : List CodeWord) : Option Nat :=
  ((guardedWords c x ws).find? fun w => w.slot == .V && opcodeOf w.word != 0x7F).map fun w => vPasses c w.word

/-- The charge of the slot words that issue (R423). -/
def wordCharge (c : Core) (x : Option W64 × BitVec 5 × Option W64) (ws : List CodeWord) : Nat :=
  let on := guardedWords c x ws
  if on.isEmpty then 1
  else
    (on.map fun w =>
      let op := opcodeOf w.word
      match w.slot with
      | .C => 1
      | .A => 2
      | .B => 3
      | .V => if op = 0x7F then 0 else passCharge
      | .M => if narrowWord c w.word && c.mq.isEmpty then 40 else 0
      | .F => 0
      | .X => 0
      | .G => 0).foldl (· + ·) 0

/-- Commands that the group would add to the 16 that a core holds (R223, R314). -/
def commandsIn (c : Core) (x : Option W64 × BitVec 5 × Option W64) (ws : List CodeWord) : Nat :=
  ((guardedWords c x ws).filter fun w => isCommand w.slot (opcodeOf w.word)).length

/-- A group whose words could all take effect stalls, which counts toward no limit: its commands would pass the 16 that a
core holds (R223, R314), slot V still has passes of the last instruction to do (R272), or its post, which releases at core
scope, has an earlier group's access to follow (R335, R338). -/
def State.mustStall (s : State) (sync : BitVec 2) (x : Option W64 × BitVec 5 × Option W64) (ws : List CodeWord) : Bool :=
  let c := s.me
  decide (16 < c.xq.length + commandsIn c x ws) || (c.vleft != 0 && (passesIn c x ws).isSome)
    || (sync == 2 && !s.performedBefore (s.partOf s.here) s.here c.ord 1)

/-- A cycle in which a charge is added to that of the engines of the core whose turn it is would exceed its window limit
(R424). -/
def State.overLimit (s : State) (q : Nat) : Bool := s.me.overLimit (q + s.stallCharge s.here)

/-- The code that a fetch keeps: each bundle is kept, and a kept one may be dropped again, so that later
fetches see its old or its new bytes and never both (R193).
DESIGN CHOICE, log entry 31. -/
def State.keepCode (s : State) (bs : List (W64 × List (BitVec 32))) : State :=
  let s := bs.foldl (fun s b => s.cacheCode b.1 b.2) s
  s.setMe { s.me with icache := s.me.icache.filter fun l => Config.choice (s.tick + l.va) % 2 == 0 }

/-- Cycles a turn takes. -/
def State.turnCycles (s : State) : Nat := 1 + Config.extraCycles s.tick

/-- The cycles of a group that did not issue pass; all of them count from the first attempt on (R98, R365, R423). -/
def State.passHeld (s : State) (s0 : State) : State :=
  let c := s.me
  let n := s.turnCycles
  let c := c.spend n none (s0.engineCharge s.here)
  s.setMe { c with waited := if c.waited = 0 then 0 else s0.me.waited + n }

/-- The core after its group has issued: at the next group unless the block has left or the level has
changed, with the waits of the group over and its position counted; its V word, if any, has a number of pass cycles, of
which the first is this one (R186, R194, R272, R297). -/
def State.passIssued (s : State) (s0 : State) (q : Nat) (passes : Option Nat) : State :=
  let c := s.me
  let first := (q + s0.stallCharge s.here, match passes with | some n => n - 1 | none => s0.me.vleft - 1)
  let c := c.spend s.turnCycles (some first) (s0.engineCharge s.here)
  let gone := (s0.me.awaits.filter fun a => !s0.me.dropAwaits.awaits.contains a).map (·.acc)
  let c : Core := { c.endWait with
    pre := none
    awaits := c.awaits.filter fun a => !gone.contains a.acc
    ord := c.ord + 1
    issue := c.issue + 1
    fetch := c.fetch + 1 }
  s.setMe (if c.grp.status == Progress.running then { c with pc := c.grp.target.getD c.grp.next } else c)

/-- The group's effects made, with its sync op (R177): a take at issue, a post once every effect is made. -/
def effects (ex : Meaning) (s : State) (g : Code) (x : Option W64 × BitVec 5 × Option W64) : Out :=
  andThen (if g.sync = 3 then ex (.syncTake g.flag g.count) s else .next s) fun t =>
    let many := decide (1 < g.words.length) || g.sync == 3
    let t := t.setMe { t.me with pre := if many then some s.me.r else none }
    andThen (runWords ex x t (effectOrder g.words)) fun t =>
      if g.sync = 2 then ex (.syncPost g.flag g.count) t else .next t

/-- The group at the PC is tried and, when nothing holds or refuses it, issues (R175 to R195, R424, R440). -/
noncomputable def issueGroup (ex : Meaning) (s : State) : Out :=
  let pc := s.me.pc
  let s0 := s.setMe { s.me with pre := none, grp := ⟨pc, false, pc, none, 0, .running⟩ }
  match codeAt s0 s0.me.r.refusesProduct pc with
  | .error e =>
    if s0.overLimit 0 then ex (.freezeCycle s.here) s0
    else andThen (finish s0 (.error e)) fun t => .next (t.passHeld s0)
  | .ok g =>
    let s0 := s0.setMe { s0.me with grp := { s0.me.grp with next := g.next } }
    if s0.me.skippable g.sync (g.words.map (·.word)) then
      if s0.me.skipCost (g.words.map (·.word)) != 0 && s0.overLimit 0 then
        ex (.freezeCycle s.here) s0
      else andThen (ex .nullifierSkip s0) fun t => .next (t.keepCode g.bundles)
    else if s0.overLimit 0 then ex (.freezeCycle s.here) s0
    else
      let x := transfer ex s0 g.words
      let u := s0.setMe { s0.me with grp := { s0.me.grp with target := x.1 } }
      let tried := (s0.me.toTry g.words).map fun w => settled s0 (ex w.instr (atWord s0 w x.1 (pathFor x w)))
      let waiting := if s0.me.asked.isSome then [] else if g.sync = 1 then [ex (.syncWait g.flag g.count) u]
        else if g.sync = 3 then [ex (.syncTake g.flag g.count) u] else []
      match decided s0 tried waiting with
      | some o => andThen o fun t => .next ((t.keepAsked g.bundles).passHeld s0)
      | none =>
        let q := wordCharge s0.me x g.words
        let passes := passesIn s0.me x g.words
        if s0.mustStall g.sync x g.words then .next ((s0.setStatus .stalled).passHeld s0)
        else if s0.overLimit q then ex (.freezeCycle s.here) s0
        else andThen (effects ex s0 g x) fun t => .next ((t.passIssued s0 q passes).keepCode g.bundles)

/-! ## Turns -/

/-- A core has cycles to count: it runs, has a kernel cause to take, or an engine of it is busy. -/
def State.active (s : State) (k : Nat) : Bool :=
  let c := s.core k
  !c.stopped && (c.blk.isSome || c.kernel || !c.pendK.isEmpty) || s.stallCharge k != 0

/-- A cycle of a core that issues nothing since it is stopped or halted, or has no block and no handler (R182, R424). -/
def idleCycle (s : State) : State := s.setMe (s.me.age s.turnCycles (s.engineCharge s.here))

/-- The turn of the core whose turn it is (R400): a pending kernel cause, then, when no handler is active, a
pending user cause, then the group, which takes its limit when it has waited so long (R98, R178). The cycles of a stopped
or halted core are counted (R182). Whether the turn is over stands beside the outcome. -/
noncomputable def turn (ex : Meaning) (s : State) : Out × Bool :=
  let c := s.me
  if c.stopped || s.halted s.here then (.next (idleCycle s), true)
  else if !c.pendK.isEmpty && !c.kernel then (ex (.kernelTrapEntry s.here) s, false)
  else if c.blk.isNone && !c.kernel then (.next (idleCycle s), true)
  else if c.budgetDue && c.blk.isSome then (ex (.budget s.here) s, false)
  else if !c.pendU.isEmpty && !c.handler && !c.kernel then (ex (.userTrapEntry s.here) s, false)
  else if c.psums.any (fun p => decide (p.pos + 6 ≤ c.issue)) then (ex (.partialSumArrive s.here) s, false)
  else if c.r.waitlim != 0 && decide (c.r.waitlim.toNat ≤ c.waited) && !c.limit then (ex (.feWaitLimit s.here) s, false)
  else (issueGroup ex s, true)

/-- The turn passes to the next core; after the last one the events that are due come, and the cores with
something to do take their turns again (R100, R363: their order is the device's); the rounds are counted in which an event
may be left out (R366). -/
def State.endTurn (s : State) (due : State → List Instr) : State :=
  match s.turns with
  | k :: r => { s with here := k, turns := r }
  | [] =>
    let round := (s.cores.map (·.1)).filter s.active
    { s with
      here := round.headD s.here, turns := round.drop 1, agenda := due s
      quiet := if Config.patience ≤ s.quiet then 0 else s.quiet + 1 }

end Sys2Proof.Machine
end

