-- ==== Sys2Proof/Machine/Progress.lean ====
section
/-! DEFINITION. The events that are due, and how an instruction comes to stand where a core fetches it. -/
namespace Sys2Proof.Machine

/-! ## The events that the machine itself raises -/

/-- What an access in flight can do next. -/
def accEvents (s : State) (a : Acc) : List Instr :=
  let late := if !a.out || 50000 ≤ s.passed a.since then [Instr.remoteAccessTimeout a.id] else []
  let lost := if a.held && (s.coreOf a.part a.core).limit then [Instr.waitWithdraw a.id] else []
  match a.phase with
  | .sent =>
    (match a.target, a.kind with
      | .mem _, .load => [Instr.read a.id]
      | .mem _, .store => [Instr.write a.id]
      | .mem _, _ => [Instr.atomic a.id]
      | .spad _ _, _ => [Instr.remoteScratchpadAccess a.id]) ++ late ++ lost
  | .parked => Instr.remoteScratchpadAccess a.id :: lost
  | .retry => Instr.waiterTableRetry a.id :: lost
  | .done _ _ _ => Instr.remoteAccessReply a.id :: late
  | .lost => late
  | .refused _ => Instr.remoteAccessReply a.id :: late

/-- What an accepted command of a core can do next. -/
def cmdEvents (k : Nat) (c : Cmd) : List Instr :=
  if !c.slotG then [.xCommandComplete k c.id]
  else
    (if 0x08 ≤ c.op && c.op ≤ 0x0B then [Instr.collectiveContribution k c.id]
      else if c.op = 0x10 then [Instr.mailboxDescriptorArrive k c.id, Instr.mailboxDescriptorTimeout k c.id]
      else if c.op = 0x11 then [Instr.grecvTimeout k c.id] else [])
      ++ [Instr.gCommandComplete k c.id]

/-- The last cycle of a core whose engines are busy drew nothing, so that it was a freeze cycle: no engine of the
core advances (R424).
DEDUCED, log entry 122. -/
def State.frozen (s : State) (k : Nat) : Bool :=
  s.active k && s.stallCharge k != 0 && (s.core k).charge.head? == some 0 && !s.halted k

/-- What the engines of a core can do next; those of a halted core count no cycles. -/
def coreEvents (s : State) (k : Nat) (c : Core) : List Instr :=
  if s.frozen k then [] else
    (if c.mq.isEmpty then [] else [Instr.mCommandComplete k])
      ++ (if c.fq.isEmpty then [] else [Instr.fCommandComplete k])
      ++ (if c.spx.busy then [Instr.sparseIndexPush k] else [])
      ++ c.xq.flatMap (cmdEvents k)

/-- The commands of a partition that is out go on against its image (R409). -/
def partEvents (s : State) (p : Nat) (x : Partition) : List Instr :=
  (if x.state == .goingOut || x.state == .comingIn then [Instr.swapComplete p] else [])
    ++ (if x.wantReset then [Instr.partitionReset p] else [])
    ++ x.ending.eraseDups.map (Instr.crewComplete p)
    ++ (if s.isOut p then x.image.flatMap fun (c : Nat × Core) =>
          (if c.2.fq.isEmpty then [] else [Instr.fCommandComplete c.1]) ++ c.2.xq.flatMap (cmdEvents c.1) else [])

/-- What the queues, the scheduler and the orrery of a cluster can do next. -/
def clusterEvents (s : State) (cl : Nat) (c : Cluster) : List Instr :=
  let cores := (List.range 130).map (coreAt cl)
  (if field c.orrctl 62 2 = 1 && c.nodes.isEmpty then [Instr.orreryGo cl] else [])
    ++ (c.signals.eraseDups.map (Instr.orreryNodeFire cl))
    ++ (((List.range c.nodes.length).filter fun i => (c.nodes[i]?.map fun (n : Node) => n.waiting).getD 0 != 0).map
        (Instr.orreryIndexTake cl))
    ++ (if c.store.isEmpty then []
      else (if 4032 < s.storeUsed cl then [Instr.spillToOverflow cl] else [])
        ++ [Instr.fillFromOverflow cl]
        ++ ((cores.filter fun k => (s.idle k) && (s.pick k).isSome).map Instr.dispatch))
    ++ (if s.launches.any fun l => l.pending.any fun e => e.1 / 4096 == cl then [Instr.launchRecordPlace cl] else [])

/-- What a registered ring can do next (R87 to R91): the puller of a MODE 3 ring is its core's X engine, which does not
advance in a freeze cycle (R88, R424). -/
def ringEvents (s : State) (n : Nat) (r : Ring) : List Instr :=
  let cl := n / 512
  let i := n % 512
  (if r.started then [] else if r.mode = 0 then [Instr.subscribe cl i] else if r.mode = 2 then [Instr.pull cl i] else [])
    ++ (if r.mode < 2 then
        (if r.mode = 1 && (match s.feeder n with | some o => s.frozen o.2.core | none => false) then [] else
          [Instr.ringSlotLand cl i])
      else if r.mode = 3 && s.frozen r.core then [] else [Instr.ringSlotDrain cl i])
    ++ (if r.ext.isEmpty then [] else [Instr.ringExtensionMove cl i])
    ++ (if r.crew = 0 then [] else [Instr.ringEnlarge cl r.crew.toNat])

/-- What is under way at a page: a page-in succeeds or fails as the lower tier does, with the poison that CXL memory
indicates (R33). -/
def pageEvents (s : State) (n : Nat) (p : Page) : List Instr :=
  (if s.pageUnderWay n then
      [Instr.pageInComplete n
        (if Config.choice (s.tick + n) % 2 = 0 then some (Config.cxlPoison s.tick n) else none)] else [])
    ++ (if p.demoting.isSome then [Instr.demotionComplete n] else [])
    ++ (if p.hold && 64000 ≤ s.passed p.since then [Instr.residencyHoldExpire n] else [])

/-- What is under way at a state object. -/
def objEvents (s : State) (n : Nat) (o : Obj) : List Instr :=
  let cl := n / 4096
  let i := n % 4096
  if !o.used then []
  else (match o.state with
    | .pagingOut => [Instr.stateEvictDone cl i]
    | .pagingIn => [Instr.statePageinDone cl i (Config.choice (s.tick + n) % 2 == 0)]
    | .resident => [Instr.stateEvict cl]
    | .absent => []
    | .stub => [])
    ++ (if o.moving.isSome then [Instr.fwMigrationCopyDone cl i] else [])
    ++ (if o.hold && 64000 ≤ s.passed o.since then [Instr.fwResidencyHoldExpire cl i] else [])

/-- What an endpoint can do next (R386 to R389). -/
def endpointEvents (ch n : Nat) (e : Endpoint) : List Instr :=
  (match e.cur with
    | none => if e.waiting.isEmpty then [] else [Instr.tokeniseRequest ch n]
    | some t => (if t.words.isEmpty then [] else [Instr.requestWordLand ch n])
        ++ (if t.landed && !t.sent && !t.dropped then [Instr.templateEnqueue ch n] else []))
    ++ (if e.v then [Instr.detokeniseWord ch n] else [])

/-- What is under way at a module. -/
def chipEvents (ch : Nat) (c : Chip) : List Instr :=
  (if field c.almstat 62 2 = 1 then [Instr.almanacLoadDone ch] else [])
    ++ (if c.attgo then [Instr.attestationDone ch] else [])
    ++ (if c.throttle || c.lowered ≠ 0 then [Instr.climcapStep ch] else [])
    ++ c.endpoints.flatMap fun (e : Nat × Endpoint) => endpointEvents ch e.1 e.2

/-- What a fabric unit can do next (R70, R72, R73, R76, R79). -/
def fabricEvents (s : State) (u : Nat) (f : Fabric) : List Instr :=
  let routers := (f.blocked.map fun b => routerOf b.1).eraseDups
  ((f.replays.filter fun r => 64 ≤ r.2).map fun r => Instr.linkFailed u r.1)
    ++ ((List.range 256).filter fun n => f.training.getLsbD n).map (fun n =>
        Instr.linkTrainingDone u n (Config.choice (s.tick + n) % 2 == 0))
    ++ (routers.filter fun r => !(f.timedOut r).isEmpty).map (Instr.headSuspect u)
    ++ (if f.token.isNone then [] else (f.suspects.map routerOf).eraseDups.map (Instr.meridianCapture u))
    ++ (if f.token.isNone && 4 * (Config.ringTrip u).toNat ≤ s.passed f.passed then [Instr.tokenRegenerate u] else [])

/-- Every event that the state makes possible.
DESIGN CHOICE, log entry 9. -/
def possible (s : State) : List Instr :=
  s.accs.flatMap (accEvents s)
    ++ s.posts.map (fun x => Instr.flagPostArrive x.id)
    ++ s.decs.map (fun x => Instr.joinDecrement x.id)
    ++ s.recs.map (fun x => Instr.recordEnqueue x.id)
    ++ s.walks.map (fun x => Instr.translationWalk x.id)
    ++ s.cores.flatMap (fun (c : Nat × Core) => coreEvents s c.1 c.2)
    ++ s.parts.flatMap (fun (p : Nat × Partition) => partEvents s p.1 p.2)
    ++ s.clusters.flatMap (fun (c : Nat × Cluster) => clusterEvents s c.1 c.2)
    ++ s.rings.flatMap (fun (r : Nat × Ring) => ringEvents s r.1 r.2)
    ++ s.pages.flatMap (fun (p : Nat × Page) => pageEvents s p.1 p.2)
    ++ s.objs.flatMap (fun (o : Nat × Obj) => objEvents s o.1 o.2)
    ++ s.chips.flatMap (fun (c : Nat × Chip) => chipEvents c.1 c.2)
    ++ s.fabric.flatMap (fun (f : Nat × Fabric) => fabricEvents s f.1 f.2)
    ++ (s.colls.map fun x => Instr.collectiveTimeout x.id)
    ++ (s.launches.flatMap fun l => (if l.retract.isEmpty then [] else [Instr.retract l.id])
        ++ (if crewDone s l.part l.crew.toNat then [Instr.crewComplete l.part l.crew.toNat] else []))
    ++ s.rings.flatMap (fun (r : Nat × Ring) =>
        if crewDone s r.2.part r.2.crew.toNat then [Instr.crewComplete r.2.part r.2.crew.toNat] else [])
    ++ ((s.chips.map (·.1)).filter fun ch => !(s.pagesIn ch 0).isEmpty).map Instr.tierDemote

/-- A list turned so that another element comes first. -/
def turned {α : Type} (n : Nat) (l : List α) : List α := l.drop (n % l.length) ++ l.take (n % l.length)

/-- The events that come before the next round of turns: which of the possible ones come now, and in which order,
the manual leaves open, but for the time limits that their own meanings test; after some rounds none is left out, so that
each comes, and an eligible record beside an idle core is dispatched, in finite time (R366).
DESIGN CHOICE, log entry 141. -/
def progress (s : State) : List Instr :=
  turned (Config.choice (s.tick + 1)) (((possible s).mapIdx fun i e => (i, e)).filterMap fun x =>
    if Config.choice (s.tick + x.1) % 2 = 0 || Config.patience ≤ s.quiet then some x.2 else none)

/-- Time passes with a step: the count of steps rises, and device time never steps back (R419); heads stand blocked for so
long (R72), crews and rings stand as they are found (R90, R91), and changes of the device's tables come to pass once their pages
are there (R17). A launch whose shape word has become full resolves before anything else happens (R374).
DEDUCED, log entry 8. -/
def State.advance (s : State) : State :=
  let due := (s.launches.filter (wordFull s)).map fun l => Instr.shapeResolve l.id
  { s.noteShapes.noteRings.runEdits.seekCrews with
    tick := s.tick + 1
    now := s.now + (Config.elapsed s.tick).setWidth 48
    fabric := s.fabricTime (Config.elapsed s.tick).toNat
    agenda := due ++ s.agenda.filter fun e => !due.contains e }

/-! ## A program placed from outside -/

/-- The address of code that `withFetchWord` uses: the PC of the core, within tiered memory. -/
def codePc (c : Core) : Nat := c.pc.toNat % 2 ^ 44 / 4 * 4

/-- The memory address of that code. -/
def codeMA (k : Nat) (c : Core) : Nat := chipOf k * 2 ^ 48 + codePc c

/-- A core that will fetch from its PC: it runs a block, or its system handler, with a translation of the PC's
two pages to tiered memory and nothing to take first. -/
def readied (s : State) (k : Nat) : Core :=
  let c := s.core k
  let pc := codePc c
  let first := pc / 2 ^ 16 * 2 ^ 16
  let p := s.partOf k
  { c with
    pre := none
    pc := BitVec.ofNat 64 pc
    stopped := false
    blk := if c.blk.isSome || c.kernel then c.blk
      else some ⟨⟨0, Vector.replicate 8 0, 0, 0, .ready, 0, [], none⟩, [], p, 0, (s.part p).ns, false, false⟩
    pendK := []
    pendU := []
    budgetDue := false
    psums := []
    charge := []
    vleft := 0
    awaits := []
    waited := 0
    limit := false
    idleWait := false
    walkFault := none
    pageFault := none
    icache := []
    ucache := ⟨p, c.ctx, first, first + 2 ^ 17 - 1, chipOf k * 2 ^ 48, 0x00E8, false, []⟩ :: c.ucache }

/-- The state with a bundle of one slot word where the core whose turn it is fetches next: a word of the
sampling opcodes goes to a sextant core of the same cluster (R189). -/
def placeWord (s : State) (sl : Slot) (w : BitVec 32) : State :=
  let k := if samplingWord sl w then coreAt (clusterOf s.here) 128 else s.here
  let s := { s with
    here := k
    agenda := []
    parts := s.parts.map fun (p : Nat × Partition) =>
      if p.1 / 64 = chipOf k ∧ p.2.pgran.getLsbD (granuleOf k) = true
          ∧ (p.2.state = Residence.goingOut ∨ p.2.state = Residence.comingIn
            ∨ (p.2.state = Residence.resident ∧ p.2.wantReset = true))
      then (p.1, { p.2 with state := .resident, wantReset := false }) else p }
  let ma := codeMA k (s.core k)
  let s := s.setCore k (readied s k)
  let s := s.setCluster (clusterOf k) { s.cluster (clusterOf k) with code := [] }
  let s := if s.closed (chipOf k) then s.setChip (chipOf k)
    { s.chip (chipOf k) with boot := { (s.chip (chipOf k)).boot with failed := false } } else s
  let s := if s.present (pageOf ma) then s else s.setPage (pageOf ma) { s.page (pageOf ma) with tier := some 0 }
  { s with
    mem := Memory.writes s.mem ma
      (toBytes 4 (encodeHeader (soloHeader sl)).toNat ++ toBytes 4 w.toNat) }

end Sys2Proof.Machine
end

