-- ==== Sys2Proof/Machine/Step.lean ====
section
/-! DEFINITION. One step of the machine: the first event of the agenda, or the turn of the core whose turn it
is. -/
namespace Sys2Proof.Machine

/-- The next outcome: an event that is due, or a core's turn; then time passes.
DESIGN CHOICE, log entry 1; DESIGN CHOICE, log entry 123. -/
noncomputable def step (s : State) : Host.Outcome State Fault Refusal :=
  if !isCore s.here then .fault (.noSuchCore s.here)
  else
    match s.agenda with
    | e :: rest => andThen (exec e { s with agenda := rest }) fun t => .next t.advance
    | [] =>
      let r := turn exec s
      andThen r.1 fun t => .next ((if r.2 then t.endTurn progress else t).advance)

/-- The state with an instruction where the next step fetches it: a bundle of the one slot word, in the slot
that `decodeTableWord` reads it in. -/
noncomputable def State.withFetchWord (s : State) (nbits w : Nat) : State :=
  let v := BitVec.ofNat 32 (w % 2 ^ nbits)
  placeWord s ((slotOfWord v).getD .A) v

end Sys2Proof.Machine
end

