-- ==== Sys2Proof/Safety.lean ====
section
/-! DEFINITION. What a safe run is, in the terms that claims use: the forms that the parts of a state keep, the
events that a step owes before any other, and the names for what an instruction finds and leaves. -/
namespace Sys2Proof.Machine

/-! ## Forms that a run keeps -/

/-- Memory is in its canonical form (R50, R51). -/
def State.memoryCanonical (s : State) : Prop := Memory.wf s.mem = true

/-- The launches whose shape word is full are resolved before any other event or group (R373): their events head
the agenda, one for each. -/
def State.shapesFirst (s : State) : Prop :=
  ∃ rest, s.agenda = ((s.launches.filter (wordFull s)).map fun l => Instr.shapeResolve l.id) ++ rest

/-- An instruction completes: its meaning answers a next state. -/
def Completes (i : Instr) (s : State) : Prop := ∃ t, exec i s = .next t

/-! ## What a slot word finds -/

/-- A source code reads a value that is ready and not poisoned (R182, R237, R404). -/
def State.reads (s : State) (code : BitVec 6) (x : W64) : Prop := source s code = known x

/-- The results that a scalar destination and its lane's latches hold are ready, so that the group may write them
(R110, R237). -/
def State.definable (s : State) (sl : Lane) (d : BitVec 6) : Prop :=
  writable s d = true ∧ latchFree s sl = true

/-- The slot word with which an instruction stands in a slot. -/
def Site.of (sl : Slot) (i : Instr) (w : Site) : Prop := i.encode = some w.word ∧ w.slot = sl

/-- The group in hand is still running after a slot word: the word has taken effect, and neither trapped, waits
nor has left the core. -/
def State.running (s : State) : Prop := s.me.grp.status = .running

/-! ## Words of the manual's encodings (R174, R179 to R188) -/

/-- The numbers from one to another. -/
def upTo (a b : Nat) : List Nat := (List.range (b + 1)).drop a

/-- The opcodes that slots A and B share (R234). -/
def assignedShared : List Nat :=
  upTo 0x01 0x1A ++ upTo 0x20 0x28 ++ [0x2C, 0x2D] ++ upTo 0x30 0x39 ++ upTo 0x3C 0x3F

/-- The opcodes that the tables of R191, R204, R234 to R236, R269, R289, R304 and R313 assign in each slot. -/
def assigned : Slot → List Nat
  | .C => upTo 0x01 0x12 ++ [0x7F]
  | .A => assignedShared ++ upTo 0x40 0x48 ++ [0x7F]
  | .B => assignedShared ++ upTo 0x40 0x7C ++ [0x7F]
  | .V => upTo 0x01 0x18 ++ upTo 0x20 0x35 ++ upTo 0x38 0x3A ++ upTo 0x40 0x43 ++ upTo 0x48 0x4E ++ upTo 0x50 0x55
      ++ upTo 0x58 0x5E ++ [0x7F]
  | .M => upTo 0x01 0x06 ++ upTo 0x08 0x0D ++ [0x7F]
  | .F => upTo 0x01 0x06 ++ upTo 0x08 0x0C ++ upTo 0x10 0x13 ++ [0x7F]
  | .X => upTo 0x01 0x06 ++ upTo 0x08 0x0C ++ upTo 0x10 0x13 ++ [0x18, 0x7F]
  | .G => upTo 0x01 0x03 ++ upTo 0x08 0x0B ++ upTo 0x10 0x12 ++ [0x14] ++ upTo 0x18 0x1D ++ upTo 0x20 0x26 ++ [0x7F]

/-- The guard `p0`, not inverted: always true (R179). -/
def always : Guard := ⟨0, false⟩

/-- Words written out from the encodings, each with its slot and the instruction it stands for. -/
noncomputable def specWords : List (Slot × BitVec 32 × Instr) :=
  [(.A, 0x0010C108, .add .A always 3 1 2 false), (.B, 0x0010C108, .add .B always 3 1 2 false),
   (.A, 0x02C1FFFD, .movi .A always 7 0x3FFD), (.A, 0x03030082, .cmpEq .A always 3 0 2 2),
   (.B, 0x05614486, .aadd4 always 5 4 2 6), (.B, 0x04F44504, .ldfeDom always 17 5 4),
   (.B, 0x05100504, .steDom always 0 5 4), (.C, 0x00F00000, .uiret always), (.C, 0x01000000, .uiretSkip always),
   (.C, 0x01100000, .eret always), (.C, 0x00C00000, .endBlock always), (.C, 0x001FFFFF, .br always 0xFFFFF),
   (.V, 0x02008860, .vfadd always 1 2 3 0 0 false), (.V, 0x04828440, .vperm always 5 1 2 0 0 false),
   (.V, 0x0310EC00, .vfcmpNe always 1 27 0 0 0 false), (.V, 0x02C39C00, .vfexp2 always 7 7 0 false),
   (.V, 0x0228CA81, .vfmul always 17 18 20 0 0 true), (.M, 0x00541295, .mmaS always 4 1 2 0x95),
   (.M, 0x00400000, .mscale always), (.F, 0x00302411, .fwstepDeltaPost always 0 2 4 1),
   (.X, 0x00122980, .xld always 2 1 4 true true false), (.X, 0x00410280, .xldv always 1 0 1 false true false false),
   (.X, 0x00444001, .xldv always 4 2 0 false false false true), (.G, 0x00103582, .ggath always 3 5 true false false 2),
   (.G, 0x01831464, .galloc always 3 5 6 4), (.V, 0x07F00000, .nop .V always), (.X, 0x0FF00000, .nop .X ⟨0, true⟩)]

end Sys2Proof.Machine
end

