-- ==== Sys2Proof/Vocabulary.lean ====
section
/-! DEFINITION. Instructions of one shape, each with the function that the rules give it: what the statements range
over. -/
namespace Sys2Proof.Machine

/-! ## Scalar operations (R238 to R243) -/

/-- The constructor of a scalar operation with two sources. -/
abbrev TwoSource := Lane → Guard → BitVec 6 → BitVec 6 → BitVec 6 → Bool → Instr

/-- f(a, b) of the operations with two sources (R238). -/
def twoSource : List (TwoSource × (W64 → W64 → W64)) :=
  [(.add, fun a b => a + b), (.sub, fun a b => a - b), (.mul, fun a b => a * b),
   (.mulh, fun a b => BitVec.ofInt 64 (a.toInt * b.toInt / 2 ^ 64)),
   (.mulhn, fun a b => BitVec.ofNat 64 (a.toNat * b.toNat / 2 ^ 64)),
   (.min, fun a b => if a.toInt ≤ b.toInt then a else b), (.max, fun a b => if b.toInt ≤ a.toInt then a else b),
   (.minn, fun a b => if a.toNat ≤ b.toNat then a else b), (.maxn, fun a b => if b.toNat ≤ a.toNat then a else b),
   (.and, fun a b => a &&& b), (.or, fun a b => a ||| b), (.xor, fun a b => a ^^^ b), (.andn, fun a b => a &&& ~~~b),
   (.shl, fun a b => a <<< b.toNat), (.shr, fun a b => a >>> b.toNat), (.sra, fun a b => a.sshiftRight b.toNat),
   (.rol, fun a b => a.rotateLeft (b.toNat % 64))]

/-- The quotient or remainder of the divisions (R239). -/
def divisions : List (TwoSource × (W64 → W64 → W64)) :=
  [(.div, fun a b => if b = 0 then BitVec.allOnes 64 else a.sdiv b),
   (.divn, fun a b => if b = 0 then BitVec.allOnes 64 else a / b),
   (.rem, fun a b => if b = 0 then a else a.srem b), (.remn, fun a b => if b = 0 then a else a % b)]

/-- f(a, imm8) of the operations with an immediate, which is sign-extended (R238). -/
def withImmediate : List ((Lane → Guard → BitVec 6 → BitVec 6 → BitVec 8 → Instr) × (W64 → W64 → W64)) :=
  [(.addImm, fun a b => a + b), (.mulImm, fun a b => a * b), (.andImm, fun a b => a &&& b),
   (.orImm, fun a b => a ||| b), (.xorImm, fun a b => a ^^^ b), (.shlImm, fun a b => a <<< b.toNat),
   (.shrImm, fun a b => a >>> b.toNat), (.sraImm, fun a b => a.sshiftRight b.toNat),
   (.rolImm, fun a b => a.rotateLeft (b.toNat % 64))]

/-- f(a) of the operations with one source (R238); the counts are characterised apart. -/
def oneSource : List ((Lane → Guard → BitVec 6 → BitVec 6 → Bool → Instr) × (W64 → W64)) :=
  [(.abs, fun a => if a.toInt < 0 then -a else a), (.clz, leadingZeros), (.ctz, trailingZeros), (.popc, popCount)]

/-- The relations of the compares (R242). -/
def compares : List ((Lane → Guard → BitVec 4 → BitVec 4 → BitVec 6 → BitVec 6 → Instr) × (W64 → W64 → Bool)) :=
  [(.cmpEq, fun a b => a == b), (.cmpNe, fun a b => a != b), (.cmpLt, fun a b => a.slt b), (.cmpLe, fun a b => a.sle b),
   (.cmpGt, fun a b => b.slt a), (.cmpGe, fun a b => b.sle a), (.cmpLtn, fun a b => a.ult b),
   (.cmpLen, fun a b => a.ule b), (.cmpGtn, fun a b => b.ult a), (.cmpGen, fun a b => b.ule a)]

/-- The operations on two predicates (R243). -/
def predicateOps : List ((Lane → Guard → BitVec 4 → BitVec 4 → BitVec 4 → BitVec 4 → Instr) × (Bool → Bool → Bool)) :=
  [(.pand, fun a b => a && b), (.por, fun a b => a || b), (.pxor, fun a b => xor a b)]

/-! ## Registers of slot A (R244, R245) -/

/-- VCFG after a write of ROWS, COLS, TYPE, MSEL and RM: a reserved RM is left. -/
def vcfgAfter (old x : W64) : W64 :=
  if (x >>> 35 &&& 7).toNat < 6 then x &&& 0x3F3FFFFFFF else x &&& 0x073FFFFFFF ||| old &&& 0x3800000000

/-- A lane pattern after a write: a reserved KIND is left. -/
def vpatAfter (old x : W64) : W64 := if (x &&& 7).toNat < 5 then x &&& 0xFF else x &&& 0xF8 ||| old &&& 7

/-- The control registers that a core holds: number, what a read gives, and the value after a write of x. -/
def controls : List (BitVec 14 × (Arch → W64) × (W64 → W64 → W64)) :=
  [(0x000, fun r => r.vcfg, vcfgAfter), (0x001, fun r => r.fstat, fun _ x => x &&& 0xC07F),
   (0x002, fun r => r.srseed.zeroExtend 64, fun _ x => if x &&& 0xFFFFFFFF = 0 then 1 else x &&& 0xFFFFFFFF),
   (0x003, fun r => r.swz, fun old x => BitVec.ofNat 64 (swizzleAfter old x 12)),
   (0x004, fun r => r.waitlim.zeroExtend 64, fun _ x => x &&& 0xFFFFFFFF), (0x005, fun r => r.cfstat, fun _ x => x),
   (0x006, fun r => r.tstat, fun old x => old &&& ~~~0xFFFF0000 ||| x &&& 0xFFFF0000),
   (0x007, fun r => r.fwstat, fun old _ => old), (0x008, fun r => r.mactl, fun _ x => x &&& 1),
   (0x009, fun r => r.lc[0].zeroExtend 64, fun _ x => x &&& 0xFFFFFFFF),
   (0x00A, fun r => r.lc[1].zeroExtend 64, fun _ x => x &&& 0xFFFFFFFF),
   (0x00B, fun r => r.vpat[0], vpatAfter), (0x00C, fun r => r.vpat[1], vpatAfter), (0x00D, fun r => r.vpat[2], vpatAfter),
   (0x00E, fun r => r.pslost, fun _ x => x), (0x011, fun r => r.uivec, fun _ x => x &&& 0x01FFFFFFFFFFFFFD),
   (0x020, fun r => r.clim,
      fun old x => old &&& ~~~0xFFFF ||| if (x &&& 0xFFFF).toNat < 128 then 128 else x &&& 0xFFFF),
   (0x021, fun r => r.frzcnt, fun _ x => x &&& 0xFFFFFFFFFFFF)]

/-! ## Loads, stores and atomics (R248 to R256) -/

/-- The constructor of an access with a base register and a scaled offset (R248, R249). -/
abbrev Addressed := Guard → BitVec 6 → BitVec 6 → BitVec 8 → Instr

/-- The loads: bytes, and whether the load acquires. -/
def loads : List (Addressed × Nat × Bool) :=
  [(.ld1, 1, false), (.ld2, 2, false), (.ld4, 4, false), (.ld, 8, false), (.ld4Acq, 4, true), (.ldAcq, 8, true)]

/-- The stores: bytes, and whether the store releases. -/
def stores : List (Addressed × Nat × Bool) :=
  [(.st1, 1, false), (.st2, 2, false), (.st4, 4, false), (.st, 8, false), (.st4Rel, 4, true), (.stRel, 8, true)]

/-- The address of an access of n bytes with an offset (R181, R248). -/
def addressOf (base : W64) (o : BitVec 8) (n : Nat) : W64 := base + o.signExtend 64 * BitVec.ofNat 64 n

/-- The scope at which a full/empty store, an opcode with 1 in its lowest bit for the `.dom` form, releases (R253). -/
def releaseOf (op : BitVec 7) : Option Nat := some (if op.getLsbD 0 then 5 else 2)

/-- The state that a local access of the group in hand performs on: what it comes after counts as performed, from now on,
at the scope of what orders it (R335). -/
abbrev State.ordered (s : State) (rel : Option Nat) : State := s.keepOrder (s.partOf s.here) s.here s.me.ord rel

/-- The full/empty loads, which wait for a full word: opcode, and whether the form leaves the word empty (R97). -/
def fullLoads : List (Addressed × BitVec 7 × Bool) :=
  [(.ldf, 0x4C, false), (.ldfDom, 0x4D, false), (.ldfe, 0x4E, true), (.ldfeDom, 0x4F, true)]

/-- The full/empty stores, which fill the word: opcode, and whether the form waits for an empty word (R97). -/
def fullStores : List (Addressed × BitVec 7 × Bool) :=
  [(.ste, 0x50, true), (.steDom, 0x51, true), (.stf, 0x52, false), (.stfDom, 0x53, false)]

/-- A full/empty form, by its opcode, may perform on a word (R97). -/
def fitsWord (op : Nat) (y : SpWord) : Prop := (op < 0x50 → y.full = true) ∧ (op = 0x50 ∨ op = 0x51 → y.full = false)

/-- A word after a full/empty form (R97). -/
def wordAfter (op : Nat) (y : SpWord) (v : W64) (bad : Bool) : SpWord :=
  { full := decide (op < 0x4E) || decide (0x50 ≤ op ∧ op ≤ 0x54)
    data := if 0x50 ≤ op ∧ op ≤ 0x53 then v else y.data
    poison := if 0x50 ≤ op ∧ op ≤ 0x53 then bad else y.poison }

/-- The constructor of an atomic. -/
abbrev AtomicOp := Guard → BitVec 6 → BitVec 6 → BitVec 2 → BitVec 6 → Instr

/-- The integer atomics of 4 and 8 bytes with the new value from the old one, the operand and the comparand
(R251). -/
def integerAtomics : List (AtomicOp × AtomicOp × ((n : Nat) → BitVec n → BitVec n → BitVec n → BitVec n)) :=
  [(.aadd4, .aadd, fun _ m x _ => m + x), (.aand4, .aand, fun _ m x _ => m &&& x), (.aor4, .aor, fun _ m x _ => m ||| x),
   (.axor4, .axor, fun _ m x _ => m ^^^ x), (.amin4, .amin, fun _ m x _ => if m.slt x then m else x),
   (.amax4, .amax, fun _ m x _ => if m.slt x then x else m), (.aminn4, .aminn, fun _ m x _ => if m.ult x then m else x),
   (.amaxn4, .amaxn, fun _ m x _ => if m.ult x then x else m), (.axchg4, .axchg, fun _ _ x _ => x),
   (.acas4, .acas, fun _ m x y => if m = y then x else m)]

/-- The atomics with their bytes and the new value, and flags, from the old value, the operand and the comparand
(R251, R252). -/
def atomics : List (AtomicOp × Nat × (Nat → Nat → Nat → Nat × Flags)) :=
  integerAtomics.flatMap (fun p =>
    [(p.1, 4, fun m x y => ((p.2.2 32 (BitVec.ofNat 32 m) (BitVec.ofNat 32 x) (BitVec.ofNat 32 y)).toNat, 0)),
     (p.2.1, 8, fun m x y => ((p.2.2 64 (BitVec.ofNat 64 m) (BitVec.ofNat 64 x) (BitVec.ofNat 64 y)).toNat, 0))])
  ++ [(.afaddF32, 4, fun m x _ => ((f32.add 0 m (x % 2 ^ 32)).bits, (f32.add 0 m (x % 2 ^ 32)).flags)),
      (.afaddF64, 8, fun m x _ => ((f64.add 0 m x).bits, (f64.add 0 m x).flags)),
      (.afminF32, 4, fun m x _ => ((f32.minMax false m (x % 2 ^ 32)).bits, (f32.minMax false m (x % 2 ^ 32)).flags)),
      (.afmaxF32, 4, fun m x _ => ((f32.minMax true m (x % 2 ^ 32)).bits, (f32.minMax true m (x % 2 ^ 32)).flags)),
      (.afminF64, 8, fun m x _ => ((f64.minMax false m x).bits, (f64.minMax false m x).flags)),
      (.afmaxF64, 8, fun m x _ => ((f64.minMax true m x).bits, (f64.minMax true m x).flags))]

/-- The scratchpad with the values of a register file's word at an index, found through its core. -/
def Core.putWord (c : Core) (w : Nat) (x : SpWord) : Core := { c with r := c.r.setWord w x }

/-! ## Slot V (R269 to R288) -/

/-- VCFG is legal for an instruction that takes the types from one code to another (R114, R269). -/
def Shape.legal (sh : Shape) (lo hi : Nat) : Prop :=
  1 ≤ sh.rows ∧ 1 ≤ sh.cols ∧ sh.type ≠ 15 ∧ sh.n * sh.eb ≤ 4096 ∧ lo ≤ sh.type ∧ sh.type ≤ hi

/-- The vector registers read and written are not busy (R117). -/
def Core.vectorsFree (c : Core) (srcs dsts : List (BitVec 5)) : Prop :=
  (∀ r ∈ srcs, c.canRead (.vec r.toNat) = true) ∧ ∀ r ∈ dsts, c.canWrite (.vec r.toNat) = true

/-- An operand holds no poison at some element positions (R404). -/
def VReg.cleanAt (x : VReg) (eb : Nat) (at_ : List Nat) : Prop := ∀ i ∈ at_, x.bad (eb * i) eb = false

/-- A register is another with clean results at some element positions: every other byte, and its poison, is the
other's (R271). -/
def VReg.isWith (v d : VReg) (eb : Nat) (at_ : List Nat) (f : Nat → Nat) : Prop :=
  ∀ b < 4096,
    (v.bits.extractLsb' (8 * b) 8).toNat
      = (if b / eb ∈ at_ then f (b / eb) / 2 ^ (8 * (b % eb)) % 256 else (d.bits.extractLsb' (8 * b) 8).toNat)
    ∧ v.poison.getLsbD b = (if b / eb ∈ at_ then false else d.poison.getLsbD b)

/-- The flags that results at some positions raise together. -/
def flagsOf (at_ : List Nat) (f : Nat → Rounded) : Flags := at_.foldl (fun fl i => fl ||| (f i).flags) 0

/-- A core with a vector register and flags added. -/
def Core.putVector (c : Core) (d : BitVec 5) (v : VReg) (fl : Flags) : Core :=
  { c with r := { c.r with v := c.r.v.set d.toFin v, fstat := c.r.fstat ||| fl.zeroExtend 64 } }

/-- The constructor of an element-wise operation on two vectors. -/
abbrev VectorTwo := Guard → BitVec 5 → BitVec 5 → BitVec 5 → BitVec 2 → BitVec 2 → Bool → Instr

/-- The element-wise operations on two vectors: the types they take, and the result from the shape and two elements
(R275, R278). -/
noncomputable def vectorTwo : List (VectorTwo × Nat × Nat × (Shape → Nat → Nat → Rounded)) :=
  [(.vadd, 0, 7, intOp (· + ·)), (.vsub, 0, 7, intOp (· - ·)), (.vmul, 0, 7, intOp (· * ·)),
   (.vmulh, 0, 7, fun sh => intOp (fun x y => x * y / (2 ^ sh.w : Nat)) sh),
   (.vaddsat, 0, 7, fun sh x y => clamp sh.signed sh.w (asInt sh.signed sh.w x + asInt sh.signed sh.w y)),
   (.vsubsat, 0, 7, fun sh x y => clamp sh.signed sh.w (asInt sh.signed sh.w x - asInt sh.signed sh.w y)),
   (.vavg, 0, 7, intOp fun x y => (x + y + 1) / 2),
   (.vmin, 0, 7, intOp fun x y => if x ≤ y then x else y), (.vmax, 0, 7, intOp fun x y => if x ≤ y then y else x),
   (.vand, 0, 14, fun _ x y => exactly (x &&& y)), (.vor, 0, 14, fun _ x y => exactly (x ||| y)),
   (.vxor, 0, 14, fun _ x y => exactly (x ^^^ y)), (.vandn, 0, 14, fun sh x y => exactly (x &&& (2 ^ sh.w - 1 - y))),
   (.vshl, 0, 7, fun sh x n => exactly (if sh.w ≤ n then 0 else x * 2 ^ n)),
   (.vshr, 0, 7, fun sh x n => exactly (if sh.w ≤ n then 0 else x / 2 ^ n)),
   (.vsra, 0, 7, fun sh x n => exactly (wrap sh.w (asInt true sh.w x / (2 ^ min n (sh.w - 1) : Nat)))),
   (.vfadd, 8, 11, fun sh => sh.fmt.add sh.mode), (.vfsub, 8, 11, fun sh => sh.fmt.sub sh.mode),
   (.vfmul, 8, 11, fun sh => sh.fmt.mul sh.mode), (.vfmin, 8, 11, fun sh => sh.fmt.minMax false),
   (.vfmax, 8, 11, fun sh => sh.fmt.minMax true), (.vfdiv, 8, 11, fun sh => sh.fmt.div sh.mode)]

/-- The element-wise operations on one vector (R275, R278, R279). -/
noncomputable def vectorOne : List ((Guard → BitVec 5 → BitVec 5 → BitVec 2 → Bool → Instr) × Nat × Nat
    × (Shape → Nat → Rounded)) :=
  [(.vabs, 0, 7, fun sh x => exactly (wrap sh.w (asInt sh.signed sh.w x).natAbs)),
   (.vfsqrt, 8, 11, fun sh => sh.fmt.sqrt sh.mode), (.vfrcp, 8, 11, fun sh => sh.fmt.rcp sh.mode),
   (.vfrsq, 8, 11, fun sh => sh.fmt.rsqrt sh.mode), (.vfexp2, 8, 11, fun sh => sh.fmt.exp2),
   (.vflog2, 8, 11, fun sh => sh.fmt.log2), (.vftanh, 8, 11, fun sh => sh.fmt.tanh),
   (.vfcls, 8, 11, fun sh x => exactly (sh.fmt.classify x))]

/-- The fused operations, which add to or subtract from the prior destination: the product is negated, the addend is
negated (R278). -/
noncomputable def vectorFused : List (VectorTwo × Bool × Bool) :=
  [(.vffma, false, false), (.vffms, false, true), (.vfnma, true, false)]

/-- The constructor of a compare of two vectors. -/
abbrev VectorCompare := Guard → BitVec 3 → BitVec 5 → BitVec 5 → BitVec 2 → BitVec 2 → Bool → Instr

/-- The compares of two vectors (R276, R278). -/
noncomputable def vectorCompares : List (VectorCompare × Nat × Nat × (Shape → Nat → Nat → Bool × Flags)) :=
  [(.vcmpEq, 0, 7, relInt .eq), (.vcmpNe, 0, 7, relInt .ne), (.vcmpLt, 0, 7, relInt .lt), (.vcmpLe, 0, 7, relInt .le),
   (.vcmpGt, 0, 7, relInt .gt), (.vcmpGe, 0, 7, relInt .ge), (.vfcmpEq, 8, 11, relFloat .eq),
   (.vfcmpNe, 8, 11, relFloat .ne), (.vfcmpLt, 8, 11, relFloat .lt), (.vfcmpLe, 8, 11, relFloat .le),
   (.vfcmpGt, 8, 11, relFloat .gt), (.vfcmpGe, 8, 11, relFloat .ge)]

/-- The reductions of a row (R170, R283). -/
noncomputable def vectorReductions : List ((Guard → BitVec 5 → BitVec 5 → BitVec 2 → Bool → Instr)
    × (Shape → Nat → Nat → Rounded)) :=
  [(.vredadd, sumOp), (.vredmin, minMaxOp false), (.vredmax, minMaxOp true)]

/-! ## Slot M (R289 to R303) -/

/-- The products: whether the second stream is sparse, whether the form does what `mscale` does as well, and whether
it masks (R289, R294). -/
noncomputable def products : List ((Guard → BitVec 4 → BitVec 4 → BitVec 4 → BitVec 8 → Instr) × Bool × Bool × Bool) :=
  [(.mma, false, false, false), (.mmaSp, true, false, false), (.mmaMk, false, false, true), (.mmaS, false, true, false),
   (.mmaSpS, true, true, false)]

/-- What an accumulator element becomes under a full-path product without a mask: 32 products on the BF16 and FP16
paths, each added and rounded in turn, or their exact sum modulo 2^32 on the integer path (R164, R165, R294). -/
def accumulated (m : MCmd) (old i j : Nat) : Nat :=
  let a := streamOf m.qa
  let x := (m.a.getD i ([], false)).1
  let y := (m.b.getD j ([], false)).1
  if a.fmt = 8 ∨ a.fmt = 9 then (chain (if a.fmt = 8 then bf16 else f16) m.accftz x y old 0).1
  else wrap 32 ((old : Int) + intDot (a.fmt == 0) ((streamOf m.qb).fmt == 0) x y)

/-! ## Slot F (R304 to R312) -/

/-- A handle passes the checks of R125 that look at the handle and its slot alone, and its object is RESIDENT. -/
def State.goodHandle (s : State) (h : W64) : Prop :=
  let o := s.obj (handleKey h)
  field h 0 16 = 0 ∧ s.member (chipOf s.here) (field h 56 8) = true ∧ field h 53 3 ≤ 4
    ∧ (handleKind h = 1 ∨ handleKind h = 2) ∧ o.used = true ∧ o.gen.toNat = handleGen h ∧ o.kind.toNat = handleKind h
    ∧ s.worldOf s.here = (s.cluster (handleCluster h)).ns ∧ o.state = .resident

/-- A live object's sequence is the block's (R129). -/
def State.inSequence (s : State) (h : W64) : Prop := handleKind h = 1 → s.me.view.seq = (s.obj (handleKey h)).nextSeq

/-- An F operation completes with one command accepted, on some handles, with the busy bits it holds: it is the
newest of the core's queue; its objects count as used, and nothing else of them changes. -/
def State.acceptsF (s : State) (i : Instr) (handles : List W64) (busy : List (Res × Bool)) : Prop :=
  ∃ t c, exec i s = .next t ∧ t.me.fq = s.me.fq ++ [c] ∧ i.encode = some c.word ∧ c.handles = handles ∧ c.busy = busy
    ∧ c.seq = s.me.view.seq ∧ c.phase = 0 ∧ c.status = none ∧ t.me = { s.me with fq := t.me.fq }
    ∧ t = { s with cores := t.cores, objs := t.objs, fresh := t.fresh }
    ∧ ∀ key, t.obj key = { s.obj key with lru := (t.obj key).lru }

/-- The step family: the operation in its registers, with its form number and the operand tiles it names. -/
noncomputable def steps (g : Guard) (k v q h : BitVec 4) : List (Instr × Nat × Nat × Nat × Nat) :=
  [(.fwread g q h, 4, 0, 0, q.toNat), (.fwstepDeltaPre g k v q h, 0, k.toNat, v.toNat, q.toNat),
   (.fwstepDeltaPost g k v q h, 1, k.toNat, v.toNat, q.toNat), (.fwstepHebb g k v q h, 2, k.toNat, v.toNat, q.toNat),
   (.fwstepGrad g k q h, 3, k.toNat, 0, q.toNat), (.fwfade g h, 5, 0, 0, 0), (.fwouter g k v h, 6, k.toNat, v.toNat, 0)]

/-- The busy bits of a step command: its inputs are read and its output is written. -/
def StepShape.busy (z : StepShape) : List (Res × Bool) :=
  (z.inputs.flatMap fun e => (tilesOf e.1 e.2).map fun t => (Res.tile t, false))
    ++ z.out.toList.flatMap fun e => (tilesOf e.1 e.2).map fun t => (Res.tile t, true)

/-- The busy bits a command would hold are clear. -/
def Core.clear (c : Core) (busy : List (Res × Bool)) : Prop :=
  ∀ b ∈ busy, if b.2 then c.canWrite b.1 = true else c.canRead b.1 = true

/-! ## Slots X and G (R196 to R232, R313 to R332) -/

/-- The state with a command accepted by the core whose turn it is (R223). -/
def State.withCommand (s : State) (c : Cmd) : State :=
  { s with fresh := s.fresh + 1 }.setMe { s.me with xq := s.me.xq ++ [c] }

/-- A command holds what its acceptance copies: its word, its staging register and the next one, its issuer, and its
place in the order of the core's accesses (R117, R223). -/
def Cmd.copied (c : Cmd) (s : State) (i : Instr) : Prop :=
  i.encode = some c.word ∧ i.slot? = some (if c.slotG then .G else .X) ∧ c.id = s.fresh
    ∧ c.stg = getReg s.me.view.x c.staging 0 ∧ c.pair = getReg s.me.view.x ((c.staging + 1) % 8) 0
    ∧ c.own = s.ownerOf s.here ∧ c.ord = s.me.ord ∧ c.since = s.now

/-- The X commands, each with what its acceptance asks; `xunsub` is apart. -/
noncomputable def xCommands (s : State) (g : Guard) (t : BitVec 4) (sr : BitVec 3) (f : BitVec 4) (i p e w : Bool)
    (x : BitVec 3) (m : BitVec 2) : List (Instr × Accept) :=
  [(.xld g t sr f i p e, acceptTileLoad false t.toNat), (.xldTr g t sr f i p e, acceptTileLoad true t.toNat),
   (.xst g t sr f i p e, acceptTileStore s t.toNat), (.xldv g t sr f i p e w, acceptVectorLoad (t.toNat + 16 * ofBool w)),
   (.xstv g t sr f i p e w, acceptVectorStore s (t.toNat + 16 * ofBool w)), (.xldw g sr f i p e, acceptWeights),
   (.xcopy g sr f i p e w x, acceptCopy s), (.xfill g sr f i p e m, acceptFill s),
   (.xsub g sr f i p e x, acceptPlain (goodRing s false) false), (.xpub g sr f i p e x, acceptPlain (goodRing s true) true),
   (.xpre g sr f i p e, acceptPlain (goodRange s) false), (.xpreBar g sr f i p e, acceptPlain (goodRange s) true),
   (.xpin g sr f i p e, acceptPlain (goodRange s) false), (.xunpin g sr f i p e, acceptPlain (goodRange s) false),
   (.xmig g sr f i p e m, acceptPlain (goodRange s) false)]

/-- The G commands, each with what its acceptance asks; `gspd` and the collectives are apart. -/
noncomputable def gCommands (s : State) (g : Guard) (t f : BitVec 4) (p e q : Bool) (sr : BitVec 3) (m : BitVec 2) :
    List (Instr × Accept) :=
  let sampler := fun good => { acceptPlain (good s) false with src := sampleSource, dst := sampleTarget }
  [(.ggath g t f p e q sr, gatherAccept s t.toNat false), (.gscat g t f p e q sr, gatherAccept s t.toNat true),
   (.gsend g m f p e sr, sendAccept s), (.grecv g m f p e sr, receiveAccept s), (.genq g f p e sr, enqueueAccept s),
   (.glaunch g f p e sr, launchAccept s), (.stopk g t f p e sr, sampler goodTopK), (.stemp g t f p e sr, sampler goodTemp),
   (.stopp g t f p e sr, sampler goodTopP), (.sgram g t f p e sr, sampler goodGrammar),
   (.sdraw g t f p e sr, sampler goodDraw), (.saccept g t f p e sr, sampler goodAccept),
   (.stok g t f p e sr, sampler goodToken)]

/-- An engine's answer for a command whose extent is translated and whose pages are there: the transfer that reads the
extent's bytes has begun (R208, R347). -/
def State.startsLoad (s : State) (k : Nat) (c : Cmd) (e : Engine) (rs : List (Nat × Nat)) : Prop :=
  ∀ u d ps, s.translate k c rs = (u, d, true) → u.planOf k d .load rs = ⟨ps, none⟩ → u.absentIn ps = [] →
    e = .wait ((((u.touchPages ps).noteFrames k d.own ps).keepOrder d.own.part k d.ord none).setCmd k { d with
      job := some ⟨partsFrom 1 0 (packetsOf false ps), [], List.replicate (lenOf ps) (0, false), false, none,
        .moved none none (lenOf ps), none, [], false⟩ })

/-- The same for one that writes bytes over the extent, with what they leave in the full/empty bits. -/
def State.startsStore (s : State) (k : Nat) (c : Cmd) (e : Engine) (rs : List (Nat × Nat)) (bytes : List Piece → Data)
    (full : Option Bool) : Prop :=
  ∀ u d ps w, s.translate k c rs = (u, d, true) → u.planOf k d .store rs = ⟨ps, none⟩ → u.absentIn ps = [] →
    u.readyPages ps = .ok w →
    e = .wait (((w.noteFrames k d.own ps).keepOrder d.own.part k d.ord none).setCmd k { d with
      job := some ⟨[], partsFrom 1 0 (packetsOf true ps), bytes ps, false, full, .moved none none (lenOf ps), none, [],
        false⟩ })

/-- The transfer of a command has ended with status OK, with some bytes and no poison among them: what it read is there. -/
def Cmd.hasRead (c : Cmd) (bytes : List Byte) : Prop :=
  ∃ j, c.job = some j ∧ j.rd = [] ∧ j.wr = [] ∧ j.result.status = 0 ∧ j.buf = bytes.map fun b => (b, false)

/-! ## Control transfer -/

/-- The group in hand goes on at an address (R186). -/
def State.goesTo (s : State) (pc : W64) : State :=
  s.setMe { s.me with grp := { s.me.grp with target := some (codeAddress pc) } }

/-- R185: the leaf that a tree branch chooses from its tests. -/
def chosenLeaf (shape : BitVec 2) (t0 t1 t2 t3 : Bool) : Nat :=
  if shape = 0 then bif t0 then 0 else bif t1 then 1 else bif t2 then 2 else bif t3 then 3 else 4
  else if shape = 1 then bif t0 then bif t1 then 0 else 1 else bif t2 then 2 else bif t3 then 3 else 4
  else if shape = 2 then bif t0 then bif t1 then 0 else bif t2 then 1 else 2 else bif t3 then 3 else 4
  else bif t0 then bif t1 then bif t2 then 0 else 1 else 2 else bif t3 then 3 else 4

/-! ## A step (R173 to R180, R400) -/

/-- The core whose turn it is reaches the group at its PC: no event is due, it does not stand still, and it has no
cause and no partial sum to take first. -/
def State.issues (s : State) : Prop :=
  isCore s.here = true ∧ s.agenda = [] ∧ s.me.stopped = false ∧ s.halted s.here = false
    ∧ (s.me.kernel = true ∨ s.me.pendK = [] ∧ s.me.blk ≠ none) ∧ (s.me.blk = none ∨ s.me.budgetDue = false)
    ∧ (s.me.kernel = true ∨ s.me.handler = true ∨ s.me.pendU = []) ∧ (∀ p ∈ s.me.psums, s.me.issue < p.pos + 6)
    ∧ (s.me.r.waitlim = 0 ∨ s.me.waited < s.me.r.waitlim.toNat ∨ s.me.limit = true)

/-- The group at the PC in hand, with the address of the next one. -/
def State.atGroup (s : State) (next : W64) : State :=
  s.setMe { s.me with pre := none, grp := ⟨s.me.pc, false, next, none, 0, .running⟩ }

/-- A block leaves its core with its record kept (R267, R367): PC, cause, budget, flags, `s1` and `s2`. -/
def Rec.leaves (r : Rec) (c : Core) (b : Block) (pc : W64) (why : Nat) (st : RecState) : Prop :=
  r.uid = b.rcd.uid ∧ r.queue = b.rcd.queue ∧ r.state = st ∧ r.words[0] = BitVec.ofNat 64 (field pc 2 62 * 4)
    ∧ r.words[1] = b.rcd.words[1] ∧ field r.words[2] 4 8 = why ∧ field r.words[3] 32 32 = c.r.budget.toNat
    ∧ field r.words[3] 16 16 = c.r.seq.toNat ∧ field r.words[3] 0 7 = field c.r.fstat 0 7
    ∧ r.words[4] = b.rcd.words[4] ∧ r.words[5] = b.rcd.words[5] ∧ r.words[6] = c.r.s[1].val ∧ r.words[7] = c.r.s[2].val

/-! ## Queues (R353 to R361) -/

/-- A record arrives at a queue: a bad one is counted in QSTAT.BADREC and one for a queue that is not valid in
QSTAT.DROP, and a READY one that the store has room for becomes its newest record (R355, R358, R359, R361). -/
def State.takesRecord (s t : State) (cl q : Nat) (words : Vector W64 8) (bad : Bool) : Prop :=
  ((bad = true ∨ s.validRecord (chipOfCluster cl) words = false) →
    (t.cluster cl).badrec.toNat = min 0xFFFF ((s.cluster cl).badrec.toNat + 1)
    ∧ (t.cluster cl).store = (s.cluster cl).store)
  ∧ (bad = false → s.validRecord (chipOfCluster cl) words = true →
    (s.queueV cl q = false →
      (t.cluster cl).drop.toNat = min 0xFFFF ((s.cluster cl).drop.toNat + 1)
      ∧ (t.cluster cl).store = (s.cluster cl).store)
    ∧ (s.queueV cl q = true → s.overflowed cl q = 0 → s.storeUsed cl < 4096 → s.isOut (s.queuePart cl q) = false →
      recState words = 0 → ∃ r, (t.cluster cl).store = (s.cluster cl).store ++ [r] ∧ r.queue = q ∧ r.state = .ready
        ∧ r.words = setCause words 0 ∧ r.gen = s.queueGen cl q))

/-! ## The device register space (R8 to R10, R413, R414) -/

/-- The address of a register of a module's management register space. -/
def registerMA (ch o : Nat) : Nat := ch * 2 ^ 48 + managementBase + o

end Sys2Proof.Machine
end

