-- ==== Sys2Proof/Certificates/Slice0/Obligations.lean ====
section
/-! DEFINITION. The statements about the model that are to be proved. -/
open Sys2Proof Sys2Proof.Machine

/-! ## Encodings -/

/-- R179 to R188: the decoder reads from the word that the encoder gives any well-formed instruction that
instruction, in its slot, with every operand at every value; the word carries its guard. -/
def Obligations.DecodeReadsEncode : Prop :=
  ∀ (i : Instr) (w : BitVec 32), i.encode = some w → i.wellFormed = true →
    i.guard? = some (Sys2Proof.guardOf w) ∧ ∃ sl, i.slot? = some sl ∧ decodeSlot sl w = .ok i

/-- R174, R192: no bit of a header is dropped, in either direction; a slot word whose opcode the tables do not assign
in its slot names no instruction; words written out from the encodings decode to the instructions they stand for. -/
def Obligations.WordsDecode : Prop :=
  (∀ h : Header, decodeHeader (encodeHeader h) = h) ∧ (∀ w : BitVec 32, encodeHeader (decodeHeader w) = w)
  ∧ (∀ (sl : Slot) (w : BitVec 32), opcodeOf w ∉ assigned sl → decodeSlot sl w = .error .unassigned)
  ∧ ∀ p ∈ specWords, decodeSlot p.1 p.2.1 = .ok p.2.2

/-! ## Scalar operations -/

/-- R238, R239: the operations with two sources complete with D := f(a, b); `div`, `divn`, `rem` and `remn` complete
with the quotient or remainder, and set FSTAT.IDZ for a divisor of 0. -/
def Obligations.TwoSourceResult : Prop :=
  (∀ p ∈ twoSource, ∀ (s : State) (sl : Lane) (g : Guard) (d a b : BitVec 6) (w : Bool) (x y : W64),
      s.me.guarded g = true → s.reads a x → s.reads b y → s.definable sl d →
        exec (p.1 sl g d a b w) s = .next (s.setMe (s.me.result sl d (known (p.2 x y)))))
  ∧ ∀ p ∈ divisions, ∀ (s : State) (sl : Lane) (g : Guard) (d a b : BitVec 6) (w : Bool) (x y : W64),
    s.me.guarded g = true → s.reads a x → s.reads b y → s.definable sl d →
      let c := s.me.result sl d (known (p.2 x y))
      exec (p.1 sl g d a b w) s
        = .next (s.setMe { c with r := { c.r with fstat := if y = 0 then c.r.fstat ||| 0x20 else c.r.fstat } })

/-- R238, R240, R241: the operations with one source, and those with an immediate, complete with D := f(a) or
D := f(a, imm8); `sel`, `movi` and `movk` with the source chosen, the immediate, and the register moved up by 14 bits
with the immediate below. What `clz`, `ctz` and `popc` count: the zeros above the highest set bit and below the lowest,
64 for 0, and the set bits. -/
def Obligations.OneSourceResult : Prop :=
  (∀ p ∈ oneSource, ∀ (s : State) (sl : Lane) (g : Guard) (d a : BitVec 6) (w : Bool) (x : W64),
    s.me.guarded g = true → s.reads a x → s.definable sl d →
      exec (p.1 sl g d a w) s = .next (s.setMe (s.me.result sl d (known (p.2 x)))))
  ∧ (∀ p ∈ withImmediate, ∀ (s : State) (sl : Lane) (g : Guard) (d a : BitVec 6) (i : BitVec 8) (x : W64),
    s.me.guarded g = true → s.reads a x → s.definable sl d →
      exec (p.1 sl g d a i) s = .next (s.setMe (s.me.result sl d (known (p.2 x (i.signExtend 64))))))
  ∧ (∀ (s : State) (sl : Lane) (g : Guard) (p d : BitVec 4) (a b : BitVec 6) (x y : W64),
    s.me.guarded g = true → s.reads a x → s.reads b y → s.definable sl (d.zeroExtend 6) →
      exec (.sel sl g p d a b) s
        = .next (s.setMe (s.me.result sl (d.zeroExtend 6) (known (if s.me.pred p then x else y)))))
  ∧ (∀ (s : State) (sl : Lane) (g : Guard) (d : BitVec 6) (i : BitVec 14),
    s.me.guarded g = true → s.definable sl d →
      exec (.movi sl g d i) s = .next (s.setMe (s.me.result sl d (known (i.signExtend 64)))))
  ∧ (∀ (s : State) (sl : Lane) (g : Guard) (d : BitVec 6) (i : BitVec 14) (x : W64),
    s.me.guarded g = true → s.reads d x → s.definable sl d →
      exec (.movk sl g d i) s = .next (s.setMe (s.me.result sl d (known (x <<< 14 ||| i.zeroExtend 64)))))
  ∧ ∀ a : W64,
    (leadingZeros a).toNat = ((List.range 64).takeWhile fun i => !a.getLsbD (63 - i)).length
    ∧ (trailingZeros a).toNat = ((List.range 64).takeWhile fun i => !a.getLsbD i).length
    ∧ (popCount a).toNat = ((List.range 64).filter fun i => a.getLsbD i).length

/-- R109, R110, R183: a scalar result writes its destination, unless that is `s0` or no register, and shifts the
latches of its lane; a predicate write reaches `p1` to `p10` alone, for `p0` discards it and the path predicates are
no destinations. Every other register is as before. -/
def Obligations.RegisterWrites : Prop :=
  (∀ (c : Core) (sl : Lane) (d : BitVec 6) (v : Cell64),
      (∀ j : Fin 48, (c.result sl d v).r.s[j] = if j.val = d.toNat ∧ d ≠ 0 then v else c.r.s[j])
      ∧ (c.result sl d v).r.l = (match sl with
        | .A => #v[v, c.r.l[0], c.r.l[1], c.r.l[2], c.r.l[4], c.r.l[5], c.r.l[6], c.r.l[7]]
        | .B => #v[c.r.l[0], c.r.l[1], c.r.l[2], c.r.l[3], v, c.r.l[4], c.r.l[5], c.r.l[6]])
      ∧ c.result sl d v = { c with r := { c.r with s := (c.result sl d v).r.s, l := (c.result sl d v).r.l } })
  ∧ ∀ (c : Core) (n : BitVec 4) (b : Bool),
    (∀ j, j < 16 → (c.setP n b).r.p.getLsbD j
      = if j = n.toNat ∧ 1 ≤ j ∧ j ≤ 10 then b else c.r.p.getLsbD j)
    ∧ c.setP n b = { c with r := { c.r with p := (c.setP n b).r.p }, wrote := (c.setP n b).wrote }

/-- R242 and R243: the compares and the operations on predicates complete with P1 the relation or result and P2 its
complement. -/
def Obligations.PredicateResult : Prop :=
  (∀ p ∈ compares, ∀ (s : State) (sl : Lane) (g : Guard) (m n : BitVec 4) (a b : BitVec 6) (x y : W64),
    s.me.guarded g = true → s.reads a x → s.reads b y →
      exec (p.1 sl g m n a b) s = .next (s.setMe ((s.me.setP m (p.2 x y)).setP n (!p.2 x y))))
  ∧ (∀ p ∈ predicateOps, ∀ (s : State) (sl : Lane) (g : Guard) (m n a b : BitVec 4),
    s.me.guarded g = true →
      let r := p.2 (s.me.pred a) (s.me.pred b)
      exec (p.1 sl g m n a b) s = .next (s.setMe ((s.me.setP m r).setP n (!r))))
  ∧ ∀ (s : State) (sl : Lane) (g : Guard) (m n a : BitVec 4), s.me.guarded g = true →
      exec (.pnot sl g m n a) s = .next (s.setMe ((s.me.setP m (!s.me.pred a)).setP n (s.me.pred a)))

/-! ## Guards, traps and handlers -/

/-- R180, R191: a slot word whose guard is false has no effect of any kind, nor has `nop`. -/
def Obligations.FalseGuardHasNoEffect : Prop :=
  (∀ (i : Instr) (g : Guard) (s : State), i.guard? = some g → s.me.guarded g = false → exec i s = .next s)
  ∧ ∀ (s : State) (sl : Slot) (g : Guard), exec (.nop sl g) s = .next s

/-- R404: an operation with one or two sources, a compare, an access or an atomic whose operands are ready raises POISON for a
poisoned source or base, the first before the second, with its source code, and has no other effect; so no poisoned value
reaches a predicate. R268, R8, R264: `trap n` raises TRAP_INSTR with n; `eret`,
`halt` and `xinv` at user privilege raise PRIVILEGE, as do reads and writes of CLIM and CTXTAB; `uiret` and
`uiret.skip` with no user handler active raise ILLEGAL_SLOT; `ret`, and `eret` at kernel privilege, raise POISON for a
poisoned `s47`. -/
def Obligations.RaisedCauses : Prop :=
  (∀ p ∈ twoSource ++ divisions, ∀ (s : State) (sl : Lane) (g : Guard) (d a b : BitVec 6) (w : Bool) (word : BitVec 32),
      s.me.guarded g = true → available s a = true → available s b = true → s.definable sl d →
      (p.1 sl g d a b w).encode = some word →
      (source s a).poison = true ∨ (source s b).poison = true →
        let n := if (source s a).poison then a else b
        exec (p.1 sl g d a b w) s
          = .next (s.takeSync s.here .check (causeAt s ⟨sl.slot, word⟩ 0x26 n.toNat 0)))
  ∧ (∀ (s : State) (sl : Lane) (g : Guard) (d a b : BitVec 6) (word : BitVec 32), s.me.guarded g = true →
      available s a = true → (source s a).poison = true →
      let raised := fun (sl : Slot) (n : BitVec 6) => .next (s.takeSync s.here .check (causeAt s ⟨sl, word⟩ 0x26 n.toNat 0))
      (s.definable sl d → (∀ p ∈ oneSource, ∀ w : Bool, (p.1 sl g d a w).encode = some word →
          exec (p.1 sl g d a w) s = raised sl.slot a)
        ∧ ∀ p ∈ withImmediate, ∀ i : BitVec 8, (p.1 sl g d a i).encode = some word →
          exec (p.1 sl g d a i) s = raised sl.slot a)
      ∧ (∀ p ∈ compares, ∀ m n : BitVec 4, available s b = true → (p.1 sl g m n a b).encode = some word →
        exec (p.1 sl g m n a b) s = raised sl.slot a)
      ∧ (∀ p ∈ loads, ∀ o : BitVec 8, s.definable .B d → (p.1 g d a o).encode = some word →
        exec (p.1 g d a o) s = raised .B a)
      ∧ (∀ p ∈ stores, ∀ o : BitVec 8, available s d = true → (p.1 g d a o).encode = some word →
        exec (p.1 g d a o) s = raised .B a)
      ∧ ∀ p ∈ atomics, ∀ r : BitVec 2, s.definable .B d → available s b = true → available s d = true →
        ((p.1 g d a r b).encode = some word → exec (p.1 g d a r b) s = raised .B a)
        ∧ ((source s b).poison = false → (p.1 g d b r a).encode = some word → exec (p.1 g d b r a) s = raised .B a))
  ∧ (∀ (s : State) (g : Guard) (n : BitVec 8) (word : BitVec 32), s.me.guarded g = true →
      (Instr.trap g n).encode = some word →
        exec (.trap g n) s = .next (s.takeSync s.here .check (causeAt s ⟨.C, word⟩ 0x01 n.toNat 0)))
  ∧ (∀ i ∈ [Instr.eret always, .halt always, .xinv always 1 2, .rdsr always 1 0x020, .wrsr always 1 0x020,
      .rdsr always 1 0x100, .wrsr always 1 0x100], ∀ (s : State) (sl : Slot) (word : BitVec 32),
    s.me.kernel = false → i.slot? = some sl → i.encode = some word →
      exec i s = .next (s.takeSync s.here .privilege (causeAt s ⟨sl, word⟩ 0x23 0 (word.zeroExtend 64))))
  ∧ (∀ i ∈ [Instr.uiret always, .uiretSkip always], ∀ (s : State) (word : BitVec 32),
    s.me.handler = false → i.encode = some word →
      exec i s = .next (s.takeSync s.here .check (causeAt s ⟨.C, word⟩ 0x21 0 (word.zeroExtend 64))))
  ∧ ∀ (s : State) (g : Guard) (word : BitVec 32), s.me.guarded g = true → (Instr.ret g).encode = some word →
    available s 47 = true → (source s 47).poison = true →
      exec (.ret g) s = .next (s.takeSync s.here .check (causeAt s ⟨.C, word⟩ 0x26 47 0))
      ∧ ∀ w : BitVec 32, (Instr.eret g).encode = some w → s.me.kernel = true →
        exec (.eret g) s = .next (s.takeSync s.here .check (causeAt s ⟨.C, w⟩ 0x26 47 0))

/-- R398: a user cause found at user privilege with UIVEC.EN = 1 and no handler active enters the user handler of
the core: the banks of `s40` to `s47` and `p8` to `p10` are exchanged, TRAPINFO, the retry PC and the skip PC are
recorded, `s46` and `s47` receive OPERAND and the retry PC, the latches are zeroed, and the PC is HANDLER * 4. The
other registers, the other cores and memory stand as they were. -/
def Obligations.UserHandlerEntry : Prop :=
  ∀ (s : State) (k : Nat) (st : Stage) (x : Cause),
    (s.core k).kernel = false → (∀ b, (s.core k).blk = some b → b.squashed = false) → x.code.toNat < 0x20 →
    (s.core k).handler = false → bit (s.core k).r.uivec 0 = true →
      let c := s.core k
      let t := (s.takeSync k st x).core k
      t.trapU = trapInfo x ∧ t.retryU = c.pc ∧ t.skipU = c.grp.target.getD c.grp.next ∧ t.handler = true
      ∧ t.kernel = false ∧ t.trapK = c.trapK ∧ t.bankK = c.bankK
      ∧ t.pc = BitVec.ofNat 64 (field c.r.uivec 2 55 * 4)
      ∧ t.r.s[46] = known x.operand ∧ t.r.s[47] = known c.pc
      ∧ (∀ j : Fin 40, t.r.s[j] = c.r.s[j]) ∧ (∀ j : Fin 6, t.r.s[40 + j.val] = c.bankU.s[j])
      ∧ (∀ j : Fin 8, t.bankU.s[j] = c.r.s[40 + j.val])
      ∧ (∀ j, j < 16 → t.r.p.getLsbD j = if 8 ≤ j ∧ j ≤ 10 then c.bankU.p.getLsbD (j - 8) else c.r.p.getLsbD j)
      ∧ (∀ j, j < 3 → t.bankU.p.getLsbD j = c.r.p.getLsbD (8 + j))
      ∧ t.r.l = Vector.replicate 8 Cell64.zero ∧ t.r.fstat = c.r.fstat ∧ t.r.cf = c.r.cf
      ∧ t.xq = c.xq ∧ t.fq = c.fq ∧ t.mq = c.mq
      ∧ (∀ j, j ≠ k → (s.takeSync k st x).core j = s.core j) ∧ (s.takeSync k st x).mem = s.mem

/-- R401, R398, R403: a kernel cause found at user privilege, and a user cause found there with UIVEC.EN = 0 and no
user handler active, enter the system handler at KVEC.HANDLER * 4, at kernel privilege, with the kernel bank and the
kernel copy of TRAPINFO; a user cause found inside the user handler enters it as NESTED with the code of the inner
cause. The user bank, the user copy of TRAPINFO and the mark of the user handler stand as they were. A cause raised by
a group at kernel privilege stops the core: it writes the kernel copy of TRAPINFO, sets PSTAT.KFAULT and interrupts
the management controller, and both shadow banks stand as they were. -/
def Obligations.SystemHandlerEntry : Prop :=
  (∀ (s : State) (k : Nat) (st : Stage) (x : Cause),
      (s.core k).kernel = false → (∀ b, (s.core k).blk = some b → b.squashed = false) →
      0x20 ≤ x.code.toNat ∨ (s.core k).handler = true ∨ bit (s.core k).r.uivec 0 = false →
        let c := s.core k
        let t := (s.takeSync k st x).core k
        let y := if x.code.toNat < 0x20 ∧ c.handler = true then { x with code := 0x2B, info := x.code.zeroExtend 8 }
          else x
        t.trapK = trapInfo y ∧ t.kernel = true ∧ t.handler = c.handler ∧ t.trapU = c.trapU ∧ t.bankU = c.bankU
        ∧ t.retryU = c.retryU ∧ t.skipU = c.skipU
        ∧ t.pc = BitVec.ofNat 64 (field (s.part (s.partOf k)).kvec 2 55 * 4)
        ∧ t.r.s[46] = known x.operand ∧ t.r.s[47] = known c.pc
        ∧ (∀ j : Fin 40, t.r.s[j] = c.r.s[j]) ∧ (∀ j : Fin 6, t.r.s[40 + j.val] = c.bankK.s[j])
        ∧ (∀ j : Fin 8, t.bankK.s[j] = c.r.s[40 + j.val])
        ∧ t.r.l = Vector.replicate 8 Cell64.zero ∧ t.r.fstat = c.r.fstat
        ∧ (∀ j, j ≠ k → (s.takeSync k st x).core j = s.core j) ∧ (s.takeSync k st x).mem = s.mem)
  ∧ ∀ (s : State) (k : Nat) (st : Stage) (x : Cause), (s.core k).kernel = true →
    let t := s.takeSync k st x
    (t.core k).stopped = true ∧ (t.core k).trapK = trapInfo x ∧ (t.core k).bankU = (s.core k).bankU
    ∧ (t.core k).bankK = (s.core k).bankK ∧ (t.core k).r = (s.core k).r ∧ (t.part (s.partOf k)).kfault = true
    ∧ (t.chip (chipOf k)).interrupts = (s.chip (chipOf k)).interrupts + 1 ∧ t.mem = s.mem

/-- R399, R402: `uiret` and `uiret.skip` return from the user handler: the banks are exchanged back, the latches
zeroed, the mark cleared, and the PC is the retry PC or the skip PC. At kernel privilege `eret` returns to user
privilege at the kernel bank's `s47` with bits [1:0] cleared, and `halt` stops the core; both exchange the kernel bank
back and zero the latches. -/
def Obligations.HandlerReturn : Prop :=
  (∀ p ∈ [((Instr.uiret : Guard → Instr), fun c : Core => c.retryU), (Instr.uiretSkip, fun c => c.skipU)],
      ∀ (s : State) (g : Guard), s.me.guarded g = true → s.me.handler = true → s.me.kernel = false →
        ∃ t, exec (p.1 g) s = .next t ∧ t = s.setMe t.me ∧ t.me.handler = false ∧ t.me.pc = p.2 s.me
          ∧ t.me.kernel = false ∧ t.me.grp.status = .left
          ∧ (∀ j : Fin 40, t.me.r.s[j] = s.me.r.s[j]) ∧ (∀ j : Fin 8, t.me.r.s[40 + j.val] = s.me.bankU.s[j])
          ∧ (∀ j : Fin 8, t.me.bankU.s[j] = s.me.r.s[40 + j.val])
          ∧ (∀ j, j < 16 → t.me.r.p.getLsbD j
            = if 8 ≤ j ∧ j ≤ 10 then s.me.bankU.p.getLsbD (j - 8) else s.me.r.p.getLsbD j)
          ∧ t.me.r.l = Vector.replicate 8 Cell64.zero ∧ t.me.r.fstat = s.me.r.fstat ∧ t.me.trapU = s.me.trapU)
  ∧ ∀ (s : State) (g : Guard), s.me.guarded g = true → s.me.kernel = true →
    (∀ x : W64, s.reads 47 x → ∃ t, exec (.eret g) s = .next t ∧ t = s.setMe t.me ∧ t.me.pc = codeAddress x
      ∧ t.me.kernel = false ∧ t.me.stopped = s.me.stopped ∧ t.me.handler = s.me.handler
      ∧ (∀ j : Fin 40, t.me.r.s[j] = s.me.r.s[j]) ∧ (∀ j : Fin 8, t.me.r.s[40 + j.val] = s.me.bankK.s[j])
      ∧ (∀ j : Fin 8, t.me.bankK.s[j] = s.me.r.s[40 + j.val]) ∧ t.me.r.l = Vector.replicate 8 Cell64.zero)
    ∧ ∃ t, exec (.halt g) s = .next t ∧ t = s.setMe t.me ∧ t.me.stopped = true ∧ t.me.kernel = false
      ∧ (∀ j : Fin 40, t.me.r.s[j] = s.me.r.s[j]) ∧ (∀ j : Fin 8, t.me.r.s[40 + j.val] = s.me.bankK.s[j])
      ∧ (∀ j : Fin 8, t.me.bankK.s[j] = s.me.r.s[40 + j.val]) ∧ t.me.r.l = Vector.replicate 8 Cell64.zero

/-! ## Control transfer -/

/-- R265, R185, R186, R187, R266: the branches, jumps, calls and `ret` take their targets, and `call` and `callr` write
`s47` with the address of the next group. `jt` jumps to word 0 of its table plus 4 times the signed entry of its index,
when the index is below the count in word 0, and raises JT_RANGE otherwise; a word 0 with any of bits [31:24] set
counts 0, and a poisoned word 0 or entry raises POISON (R23). `loop`: a count above 1 falls by one and the group branches, any other becomes 0 and the group goes on.
Nothing else changes, but that `jt` uses its table's page (R39). A tree
branch goes to bt[(BASE + k) mod 8] for the leaf k that its tests choose, and `p`(11 + k) alone of the path predicates
reads true in its bundle. -/
def Obligations.BranchTargets : Prop :=
  (∀ (s : State) (g : Guard), s.me.guarded g = true →
      (∀ o : BitVec 20, exec (.br g o) s = .next (s.goesTo (s.me.grp.bundle + o.signExtend 64 * 4)))
      ∧ (∀ o : BitVec 20, writable s 47 = true → exec (.call g o) s
        = .next ((s.goesTo (s.me.grp.bundle + o.signExtend 64 * 4)).setMe
            ((s.goesTo (s.me.grp.bundle + o.signExtend 64 * 4)).me.setS 47 (known s.me.grp.next))))
      ∧ (∀ (a : BitVec 6) (x : W64), s.reads a x → exec (.jr g a) s = .next (s.goesTo x))
      ∧ (∀ (a : BitVec 6) (x : W64), s.reads a x → writable s 47 = true →
        exec (.callr g a) s = .next ((s.goesTo x).setMe ((s.goesTo x).me.setS 47 (known s.me.grp.next))))
      ∧ ∀ x : W64, s.reads 47 x → exec (.ret g) s = .next (s.goesTo x))
  ∧ (∀ (s : State) (g : Guard) (a : BitVec 6) (o : BitVec 14) (i : W64) (n word : BitVec 32), s.me.guarded g = true →
      s.reads a i → (Instr.jt g a o).encode = some word →
      let table := s.me.grp.bundle + o.signExtend 64 * 4
      let W : Site := ⟨.C, word⟩
      let entry := table + (i + 1) * 4
      let poisoned := exec (.jt g a o) s = .next (s.takeSync s.here .check (causeAt s W 0x26 a.toNat 0))
      fetchWord s (causeAt s W) table = .ok n →
        (badCode s table = true → poisoned)
        ∧ (badCode s table = false → n.toNat < 2 ^ 24 → i.toNat < n.toNat →
          ∀ e : BitVec 32, fetchWord s (causeAt s W) entry = .ok e →
            (badCode s entry = false →
              exec (.jt g a o) s = .next ((s.touchCode table).goesTo (table + e.signExtend 64 * 4)))
            ∧ (badCode s entry = true → poisoned))
        ∧ (badCode s table = false → 2 ^ 24 ≤ n.toNat ∨ n.toNat ≤ i.toNat →
          exec (.jt g a o) s = .next (s.takeSync s.here .check (causeAt s W 0x08 0 i))))
  ∧ (∀ p ∈ [((Instr.loopLc0 : Guard → BitVec 20 → Instr), (0 : Fin 2)), (Instr.loopLc1, 1)],
    ∀ (s : State) (g : Guard) (o : BitVec 20), s.me.guarded g = true →
      let n := s.me.view.lc[p.2]
      let set := fun x : BitVec 32 => s.setMe { s.me with r := { s.me.r with lc := s.me.r.lc.set p.2 x } }
      exec (p.1 g o) s
        = .next (if 1 < n.toNat then (set (n - 1)).goesTo (s.me.grp.bundle + o.signExtend 64 * 4) else set 0))
  ∧ ∀ (s : State) (g : Guard) (shape : BitVec 2) (a b c d : BitVec 4) (base : BitVec 2), s.me.guarded g = true →
    a.toNat < 11 → b.toNat < 11 → c.toNat < 11 → d.toNat < 11 →
      let k := chosenLeaf shape (s.me.pred a) (s.me.pred b) (s.me.pred c) (s.me.pred d)
      k ≤ 4 ∧ ∃ t, exec (.brt g shape a b c d base) s = .next t
        ∧ t = s.setMe { s.me with grp := { s.me.grp with path := t.me.grp.path, target := t.me.grp.target } }
        ∧ t.me.grp.target = some (codeAddress (getReg s.me.view.bt ((base.toNat + k) % 8) 0))
        ∧ ∀ j : BitVec 4, 11 ≤ j.toNat → t.me.pred j = (j.toNat == 11 + k)

/-! ## Slot A: staging registers, control registers and time -/

/-- R244: `qset`, `xset`, `hset`, `vcfg` and `btset` write their register, one word of it for `qset` and `xset`, and
nothing else; `btset` clears bits [1:0]. -/
def Obligations.StagingResult : Prop :=
  ∀ (s : State) (g : Guard) (d a : BitVec 6) (x : W64), s.me.guarded g = true → s.reads a x →
    (∃ q, exec (.qset g d a) s = .next (s.setMe { s.me with r := { s.me.r with q := q } })
      ∧ ∀ (i : Fin 16) (j : Fin 4), q[i].extractLsb' (64 * j.val) 64
        = if d.toNat = 4 * i.val + j.val then x else s.me.r.q[i].extractLsb' (64 * j.val) 64)
    ∧ (∃ y, exec (.xset g d a) s = .next (s.setMe { s.me with r := { s.me.r with x := y } })
      ∧ ∀ (i : Fin 8) (j : Fin 4), y[i].extractLsb' (64 * j.val) 64
        = if d.toNat = 4 * i.val + j.val then x else s.me.r.x[i].extractLsb' (64 * j.val) 64)
    ∧ (s.me.canWrite (.handle d.toNat) = true →
      ∃ h, exec (.hset g d a) s = .next (s.setMe { s.me with r := { s.me.r with h := h } })
        ∧ ∀ i : Fin 16, h[i] = if d.toNat = i.val then x else s.me.r.h[i])
    ∧ exec (.vcfg g a) s = .next (s.setMe { s.me with r := { s.me.r with vcfg := vcfgAfter s.me.r.vcfg x } })
    ∧ (∃ bt, exec (.btsetRegister g d a) s = .next (s.setMe { s.me with r := { s.me.r with bt := bt } })
      ∧ ∀ i : Fin 8, bt[i] = if d.toNat = i.val then x &&& ~~~3 else s.me.r.bt[i])
    ∧ ∀ o : BitVec 14, ∃ bt, exec (.btsetOffset g d o) s = .next (s.setMe { s.me with r := { s.me.r with bt := bt } })
      ∧ ∀ i : Fin 8, bt[i]
        = if d.toNat = i.val then (s.me.grp.bundle + o.signExtend 64 * 4) &&& ~~~3 else s.me.r.bt[i]

/-- R245, R397, R48, R247: `rdsr` completes with the value of its control register; a register with an RK field is
read at kernel privilege; TRAPINFO is the copy of the privilege it is read at. `tread` completes with the time of its module. -/
def Obligations.ControlReads : Prop :=
  (∀ p ∈ controls.map (fun c => (c.1, fun s : State => c.2.1 s.me.view))
        ++ [(0x010, fun s => if s.me.kernel then s.me.trapK else s.me.trapU),
          (0x100, fun s => (s.part (s.partOf s.here)).ctxtab)],
      ∀ (s : State) (g : Guard) (d : BitVec 6), s.me.guarded g = true → s.definable .A d →
        s.me.kernel = true ∨ p.1 ≠ 0x020 ∧ p.1 ≠ 0x100 →
          exec (.rdsr g d p.1) s = .next (s.setMe (s.me.result .A d (known (p.2 s)))))
  ∧ ∀ (s : State) (g : Guard) (d : BitVec 6), s.me.guarded g = true → s.definable .A d →
    exec (.tread g d) s = .next (s.setMe (s.me.result .A d (known ((s.timeAt (chipOf s.here)).zeroExtend 64))))

/-- R245, R8, R11, R94: `wrsr` completes with its control register holding what the rules make of the value, every
other control register as it was, and nothing else changed; CTXTAB is that of the partition. A field of SWZ holds the
code written, or the code before where the one written is reserved. -/
def Obligations.ControlWrites : Prop :=
  (∀ (s : State) (g : Guard) (a : BitVec 6) (x : W64), s.me.guarded g = true → s.reads a x →
      (∀ p ∈ controls, csrReady s p.1.toNat = true → s.me.kernel = true ∨ p.1 ≠ 0x020 →
        ∃ r, exec (.wrsr g a p.1) s = .next (s.setMe { s.me with r := r }) ∧ p.2.1 r = p.2.2 (p.2.1 s.me.r) x
          ∧ (∀ q ∈ controls, q.1 ≠ p.1 → q.2.1 r = q.2.1 s.me.r)
          ∧ r = { s.me.r with vcfg := r.vcfg, fstat := r.fstat, srseed := r.srseed, swz := r.swz, waitlim := r.waitlim,
                              cfstat := r.cfstat, tstat := r.tstat, mactl := r.mactl, lc := r.lc, vpat := r.vpat,
                              pslost := r.pslost, uivec := r.uivec, clim := r.clim, frzcnt := r.frzcnt })
      ∧ exec (.wrsr g a 0x010) s = .next (s.setMe s.me)
      ∧ (s.me.kernel = true → exec (.wrsr g a 0x100) s
        = .next (s.setPart (s.partOf s.here)
            { s.part (s.partOf s.here) with ctxtab := x &&& 0x00FFFFFFFFFFFFFF })))
  ∧ ∀ (old x : W64) (j : Nat), j < 12 →
    let v := (x.extractLsb' (4 * j) 4).toNat
    (BitVec.ofNat 64 (swizzleAfter old x 12)).extractLsb' (4 * j) 4
      = if v = 0 ∨ 5 ≤ v ∧ v ≤ 10 then x.extractLsb' (4 * j) 4 else old.extractLsb' (4 * j) 4

/-! ## Slot B: loads, stores and atomics -/

/-- R46, R248: the window address of an offset of the core's own scratchpad, aligned or with MACTL.MAEN = 0, aims at
those bytes when the world check lets it. R93, R97, R102: bytes stored into a scratchpad read back, with the poison of
what was stored to their word; every other byte, and every full/empty bit, is as before; a word that holds no stored
byte keeps its poison. -/
def Obligations.OwnScratchpad : Prop :=
  (∀ (s : State) (w : Site) (off n : Nat) (need : Need) (aligned : Bool), isCore s.here = true →
      s.member (chipOf s.here) (chipOf s.here) = true → off + n ≤ 0xC0000 → n = 1 ∨ n = 2 ∨ n = 4 ∨ n = 8 ∨ n = 16 →
      (s.worldOf s.here && s.secureCluster (clusterOf s.here)) = false →
      off % n = 0 ∨ aligned = false ∧ bit s.me.view.mactl 0 = false →
        ∃ a, aim s w (BitVec.ofNat 64 (windowVA s.here off)) n need aligned = .ok a ∧ a.own s.here = some off)
  ∧ ∀ (r : Arch) (off : Nat) (bytes : List Byte) (bad : Bool),
    let t := r.putSpad off (bytes.map fun b => (b, bad))
    (∀ a, ((t.spadData a 1).map (·.1))
      = (if off ≤ a then bytes[a - off]? else none).toList ++
        (if off ≤ a ∧ a < off + bytes.length then [] else (r.spadData a 1).map (·.1)))
    ∧ (∀ w, (t.word w).full = (r.word w).full)
    ∧ (∀ w, (t.word w).poison
      = if 8 * w < off + bytes.length ∧ off < 8 * w + 8 ∧ bytes ≠ [] then bad else (r.word w).poison)
    ∧ t = { r with spad := t.spad }

/-- R248, R404: a load from the core's own scratchpad completes with the bytes there, little-endian and zero-extended,
and the poison of their words; a store there with the low bytes of the register, poisoned when the register is. Nothing
else changes, but that what the access comes after counts as performed from then on (R335). -/
def Obligations.LocalLoadsAndStores : Prop :=
  (∀ p ∈ loads, ∀ (s : State) (g : Guard) (d b : BitVec 6) (o : BitVec 8) (word : BitVec 32) (x : W64) (a : Aim)
      (off : Nat), s.me.guarded g = true → s.reads b x → s.definable .B d → (p.1 g d b o).encode = some word →
      aim s ⟨.B, word⟩ (addressOf x o p.2.1) p.2.1 .load false = .ok a → a.own s.here = some off →
      s.localReady none false off p.2.1 = true →
        let data := s.me.view.spadData off p.2.1
        let u := s.ordered none
        exec (p.1 g d b o) s
          = .next (u.setMe (u.me.result .B d ⟨BitVec.ofNat 64 (ofBytes (data.map (·.1))), data.any (·.2), none⟩)))
  ∧ ∀ p ∈ stores, ∀ (s : State) (g : Guard) (d b : BitVec 6) (o : BitVec 8) (word : BitVec 32) (x : W64) (a : Aim)
    (off : Nat), s.me.guarded g = true → s.reads b x → available s d = true → (p.1 g d b o).encode = some word →
    aim s ⟨.B, word⟩ (addressOf x o p.2.1) p.2.1 .store false = .ok a → a.own s.here = some off →
    let rel := if p.2.2 then some 5 else none
    s.localReady rel true off p.2.1 = true →
      let v := source s d
      let u := s.ordered rel
      exec (p.1 g d b o) s
        = .next (u.setMe { u.me with r := u.me.r.putSpad off ((toBytes p.2.1 v.val.toNat).map fun y => (y, v.poison)) })

/-- R237, R248, R254: a load or store elsewhere completes with one access sent, which holds the address, width and
value; a load's destination awaits its reply. Memory and every scratchpad are as they were. R81, R82, R440: the reply fills
the register, or answers the group, that awaits it; a request not yet out is sent, and one out for 50 µs fails: a load
with poison, a store with TRANSFER_ERROR. The access is then over. -/
def Obligations.RemoteLoadsAndStores : Prop :=
  (∀ p ∈ loads, ∀ (s t : State) (g : Guard) (d b : BitVec 6) (o : BitVec 8) (word : BitVec 32) (x : W64) (a : Aim),
    s.me.guarded g = true → s.reads b x → s.definable .B d → (p.1 g d b o).encode = some word →
    let va := addressOf x o p.2.1
    aim s ⟨.B, word⟩ va p.2.1 .load false = .ok a → a.own s.here = none →
    placePages ⟨.B, word⟩ va a.attr false s a.targets = .ok t →
      exec (p.1 g d b o) s = .next (sendFor s d (newAcc s .load a p.2.1 0 0 false p.2.2 false)))
  ∧ (∀ p ∈ stores, ∀ (s t : State) (g : Guard) (d b : BitVec 6) (o : BitVec 8) (word : BitVec 32) (x : W64) (a : Aim),
    s.me.guarded g = true → s.reads b x → available s d = true → (p.1 g d b o).encode = some word →
    let va := addressOf x o p.2.1
    let v := source s d
    aim s ⟨.B, word⟩ va p.2.1 .store false = .ok a → a.own s.here = none → s.mayWrite va p.2.1 = true →
    placePages ⟨.B, word⟩ va a.attr true s a.targets = .ok t →
      exec (p.1 g d b o) s = .next (t.send (newAcc t .store a p.2.1 v.val 0 v.poison false p.2.2)) ∧ t.mem = s.mem)
  ∧ ∀ (s : State) (id : Nat) (a : Acc), (s.accs.find? fun x => x.id == id) = some a → a.host = false →
    s.inImage a.part a.core = false →
    let c := s.core a.core
    let rest := { s with accs := s.accs.filter fun x => x.id != id }
    let filled := fun (v : W64) (bad : Bool) (x : Cell64) => if x.pend = some id then ⟨v, bad, none⟩ else x
    let received := fun (v : W64) (bad : Bool) (t : State) => ∃ d, t = rest.setCore a.core d
      ∧ (∀ j : Fin 48, d.r.s[j] = filled v bad c.r.s[j]) ∧ (∀ j : Fin 8, d.r.l[j] = filled v bad c.r.l[j])
      ∧ (∀ j : Fin 8, d.bankU.s[j] = filled v bad c.bankU.s[j]) ∧ (∀ j : Fin 8, d.bankK.s[j] = filled v bad c.bankK.s[j])
      ∧ d = { c with r := { c.r with s := d.r.s, l := d.r.l }, bankU := { c.bankU with s := d.bankU.s },
                     bankK := { c.bankK with s := d.bankK.s } }
    (∀ v bad, s.noPath a = false → a.phase = .done v bad 0 →
      (a.held = false → ∃ t, exec (.remoteAccessReply id) s = .next t ∧ received v bad t)
      ∧ (a.held = true → exec (.remoteAccessReply id) s = .next (rest.setCore a.core { c with
          awaits := c.awaits.map fun (w : Await) => if w.acc = id then { w with answer := some (v, bad, false) } else w })))
    ∧ (a.phase = .sent → a.out = false →
      (∀ b, s.sendOut a = some b → exec (.remoteAccessTimeout id) s = .next (s.setAcc b))
      ∧ (s.sendOut a = none → exec (.remoteAccessTimeout id) s = .next s))
    ∧ (a.phase = .sent → a.out = true → a.seen = 0 → a.cmd = none →
      (s.passed a.since < 50000 → exec (.remoteAccessTimeout id) s = .next s)
      ∧ (50000 ≤ s.passed a.since →
        (a.kind = .load → a.held = false → ∃ t, exec (.remoteAccessTimeout id) s = .next t ∧ received 0 true t)
        ∧ (a.kind = .store → c.pendK.length < 16 → ∃ x : Cause, exec (.remoteAccessTimeout id) s
            = .next (rest.setCore a.core { c with pendK := c.pendK ++ [x] }) ∧ x.code = 0x29 ∧ x.async = true)))

/-- R74, R97, R98, R99, R178, R249: the full/empty forms on a word of the core's own scratchpad: a load waits for a full
word and returns it, and `ldfe` leaves it empty; `ste` waits for an empty word; the stores fill it; `feset` and `feclr`
set its bit alone. Where the bit is the wrong one, the group waits; at the limit it raises FE_WAIT_LIMIT. The withdrawal of
a remote access at the limit, before which those parked earlier on its word come, finds it not performed, or performs it on
a word that has become as it waits for (log entry 37); one that the waiter table returned is sent again. The order
numbers and what counts as performed at a scope are log entry 45's. -/
def Obligations.FullEmptyWords : Prop :=
  (∀ (s : State) (g : Guard) (d b : BitVec 6) (o : BitVec 8) (word : BitVec 32) (x : W64) (off : Nat) (ns : Bool),
      s.me.guarded g = true → s.reads b x → aimWord s ⟨.B, word⟩ (addressOf x o 8) 8 = .ok (s.here, off, ns) →
      let y := s.me.view.word (off / 8)
      (∀ p ∈ fullLoads, (p.1 g d b o).encode = some word → s.definable .B d →
        s.localReady none p.2.2 off 8 = true →
          let u := s.ordered none
          (y.full = true → exec (p.1 g d b o) s
            = .next (u.setMe ((u.me.putWord (off / 8) { y with full := !p.2.2 }).result .B d ⟨y.data, y.poison, none⟩)))
          ∧ (y.full = false → s.me.limit = false → exec (p.1 g d b o) s = .next (s.held true)))
      ∧ (∀ p ∈ fullStores, (p.1 g d b o).encode = some word → available s d = true →
        s.localReady (releaseOf p.2.1) true off 8 = true →
          let u := s.ordered (releaseOf p.2.1)
          (p.2.2 = false ∨ y.full = false → exec (p.1 g d b o) s
            = .next (u.setMe (u.me.putWord (off / 8) ⟨(source s d).val, true, (source s d).poison⟩)))
          ∧ (p.2.2 = true → y.full = true → s.me.limit = false → exec (p.1 g d b o) s = .next (s.held true)))
      ∧ ∀ p ∈ [((.feset : Guard → BitVec 6 → BitVec 8 → Instr), true), (.feclr, false)],
        (p.1 g b o).encode = some word → s.localReady none true off 8 = true →
          let u := s.ordered none
          exec (p.1 g b o) s = .next (u.setMe (u.me.putWord (off / 8) { y with full := p.2 })))
  ∧ (∀ (s : State) (id : Nat) (a : Acc),
    (∀ op k off, (s.accs.find? fun x => x.id == id && x.held) = some a → (s.coreOf a.part a.core).limit = true →
      a.kind = .fullEmpty op → a.target = .spad k off → 0x4C ≤ op.toNat → op.toNat ≤ 0x55 →
      let t := if a.phase = .parked then (s.parkedBefore a).foldl State.bankStep s else s
      let y := t.bankWord a.part k (off / 8)
      (a.phase = .sent ∨ a.phase = .retry ∨ a.phase = .parked ∧ ¬fitsWord op.toNat y →
        exec (.waitWithdraw id) s = .next (t.setAcc { a with phase := .refused 1, since := t.now }))
      ∧ (a.phase = .parked → fitsWord op.toNat y → t.servedFirst a.part k off t.accs id = false →
        exec (.waitWithdraw id) s
          = .next ((t.setBankWord a.part k (off / 8) (wordAfter op.toNat y a.data a.poison)).setAcc
            { a with since := t.now, phase := .done y.data y.poison 0, tag := none })))
    ∧ ((s.accs.find? fun x => x.id == id && x.phase == Phase.retry) = some a →
      exec (.waiterTableRetry id) s = .next (s.setAcc { a with phase := .sent, since := s.now, out := true })))
  ∧ ∀ (s : State) (g : Guard) (d b : BitVec 6) (o : BitVec 8) (word : BitVec 32) (x : W64) (off : Nat) (ns : Bool),
    s.me.guarded g = true → s.reads b x → aimWord s ⟨.B, word⟩ (addressOf x o 8) 8 = .ok (s.here, off, ns) →
    s.me.limit = true →
    (∀ p ∈ fullLoads, (p.1 g d b o).encode = some word → s.definable .B d → s.localReady none p.2.2 off 8 = true →
      (s.me.view.word (off / 8)).full = false → exec (p.1 g d b o) s
        = .next (s.takeSync s.here .check (causeAt s ⟨.B, word⟩ 0x02 0 (addressOf x o 8))))
    ∧ ∀ p ∈ fullStores, p.2.2 = true → (p.1 g d b o).encode = some word → available s d = true →
      s.localReady (releaseOf p.2.1) true off 8 = true → (s.me.view.word (off / 8)).full = true → exec (p.1 g d b o) s
        = .next (s.takeSync s.here .check (causeAt s ⟨.B, word⟩ 0x02 0 (addressOf x o 8)))

/-- R250, R251, R252, R101: an atomic on a word of the core's own scratchpad completes with the old value in its
destination and the new one in the word; flags accrue; a poisoned word is left and returns poisoned. The next state is
built on the order marks of log entry 45. -/
def Obligations.LocalAtomics : Prop :=
  ∀ p ∈ atomics, ∀ (s : State) (g : Guard) (d b sr : BitVec 6) (r : BitVec 2) (word : BitVec 32) (va x y : W64)
    (a : Aim) (off : Nat), s.me.guarded g = true → s.reads b va → s.reads sr x → s.definable .B d →
    s.reads d y → (p.1 g d b r sr).encode = some word → aim s ⟨.B, word⟩ va p.2.1 .both true = .ok a →
    a.own s.here = some off →
    let rel := if r.getLsbD 1 then some 5 else none
    let u := s.ordered rel
    s.localReady rel true off p.2.1 = true →
      let z := s.me.view.word (off / 8)
      let lo := 8 * (off % 8)
      let old := field z.data lo (8 * p.2.1)
      let q := p.2.2 old x.toNat y.toNat
      (z.poison = false → ∃ c, exec (p.1 g d b r sr) s = .next (u.setMe c)
        ∧ c.r.s = (s.me.result .B d (known (BitVec.ofNat 64 old))).r.s
        ∧ c.r.l = (s.me.result .B d (known (BitVec.ofNat 64 old))).r.l
        ∧ c.r.spad = (s.me.r.setWord (off / 8) { z with data := setField z.data lo (8 * p.2.1) q.1 }).spad
        ∧ c.r.fstat = s.me.r.fstat ||| q.2.zeroExtend 64
        ∧ c = { u.me with r := { s.me.r with s := c.r.s, l := c.r.l, spad := c.r.spad, fstat := c.r.fstat } })
      ∧ (z.poison = true → ∃ c, exec (p.1 g d b r sr) s = .next (u.setMe c)
        ∧ c.r.s = (s.me.result .B d ⟨BitVec.ofNat 64 old, true, none⟩).r.s
        ∧ c.r.l = (s.me.result .B d ⟨BitVec.ofNat 64 old, true, none⟩).r.l
        ∧ c.r.spad = (s.me.r.setWord (off / 8) z).spad ∧ c.r.fstat = s.me.r.fstat
        ∧ c = { u.me with r := { s.me.r with s := c.r.s, l := c.r.l, spad := c.r.spad, fstat := c.r.fstat } })

/-- R256: `chunk` takes the next index and as many as its word leaves, divided over twice the participants and not
fewer than the minimum; on words of the core's own scratchpad it completes with that in its destination and the index
moved on, and a poisoned word is left and returns poisoned. The next state is built on the order marks of log entry 45. -/
def Obligations.Chunk : Prop :=
  (∀ w0 w1 : W64,
      let next := (w0.extractLsb' 0 32).toNat
      let last := (w0.extractLsb' 32 32).toNat
      let share := max (w1.extractLsb' 0 16).toNat 1
      let least := max (w1.extractLsb' 16 16).toNat 1
      let q := chunkStep w0.toNat w1.toNat
      let taken := q.1 / 2 ^ 32
      q.1 = taken * 2 ^ 32 + next ∧ q.2 = last * 2 ^ 32 + next + taken
      ∧ (last ≤ next → taken = 0)
      ∧ (next < last → 1 ≤ taken ∧ next + taken ≤ last ∧ (taken < last - next → least ≤ taken)
        ∧ (last - next ≤ 2 * share * max taken least) ∧ (least < taken → 2 * share * (taken - 1) < last - next)))
  ∧ ∀ (s : State) (g : Guard) (d b : BitVec 6) (r : BitVec 2) (word : BitVec 32) (va : W64) (a : Aim) (off : Nat),
    s.me.guarded g = true → s.reads b va → s.definable .B d → (Instr.chunk g d b r).encode = some word →
    aim s ⟨.B, word⟩ va 16 .both true = .ok a → a.own s.here = some off →
    let rel := if r.getLsbD 1 then some 5 else none
    let u := s.ordered rel
    s.localReady rel true off 16 = true →
      let x := s.me.view.word (off / 8)
      let y := s.me.view.word (off / 8 + 1)
      let q := chunkStep x.data.toNat y.data.toNat
      exec (.chunk g d b r) s
        = .next (u.setMe (if x.poison || y.poison then u.me.result .B d ⟨BitVec.ofNat 64 q.1, true, none⟩
          else (u.me.result .B d (known (BitVec.ofNat 64 q.1))).putWord (off / 8)
            { x with data := BitVec.ofNat 64 q.2 }))

/-- R250, R256, R263, R254: an atomic, `chunk` or `fpoll` elsewhere completes with one access sent, whose reply fills
the destination. That a local `fpoll` returns its word's poison is log entry 48's reading, and the order marks are log
entry 45's. -/
def Obligations.RemoteAtomics : Prop :=
  (∀ p ∈ atomics, ∀ (s t : State) (g : Guard) (d b sr : BitVec 6) (r : BitVec 2) (word : BitVec 32) (va x y : W64)
    (a : Aim), s.me.guarded g = true → s.reads b va → s.reads sr x → s.reads d y → s.definable .B d →
    (p.1 g d b r sr).encode = some word → aim s ⟨.B, word⟩ va p.2.1 .both true = .ok a → a.own s.here = none →
    s.mayWrite va p.2.1 = true → placePages ⟨.B, word⟩ va a.attr true s a.targets = .ok t →
      ∃ acc, exec (p.1 g d b r sr) s = .next (sendFor t d acc) ∧ acc.kind = .atomic (opcodeOf word) ∧ acc.data = x
        ∧ acc.bytes = p.2.1 ∧ acc.target = a.targets.headD (.mem 0) ∧ acc.acq = r.getLsbD 0 ∧ acc.rel = r.getLsbD 1
        ∧ acc.phase = .sent ∧ acc.core = s.here)
  ∧ (∀ (s t : State) (g : Guard) (d b : BitVec 6) (r : BitVec 2) (word : BitVec 32) (va : W64) (a : Aim),
    s.me.guarded g = true → s.reads b va → s.definable .B d → (Instr.chunk g d b r).encode = some word →
    aim s ⟨.B, word⟩ va 16 .both true = .ok a → a.own s.here = none → s.mayWrite va 16 = true →
    placePages ⟨.B, word⟩ va a.attr true s a.targets = .ok t →
      exec (.chunk g d b r) s = .next (sendFor t d (newAcc t .chunk a 16 0 0 false (r.getLsbD 0) (r.getLsbD 1))))
  ∧ ∀ (s : State) (g : Guard) (d a : BitVec 6) (f : Bool) (word : BitVec 32) (x : W64) (k off : Nat) (ns : Bool),
    s.me.guarded g = true → s.reads a x → s.definable .B d → (Instr.fpoll g d a f).encode = some word →
    aimWord s ⟨.B, word⟩ x 16 = .ok (k, off, ns) →
      (k = s.here → s.localReady none false off 16 = true → exec (.fpoll g d a f) s
        = .next ((s.ordered none).setMe ((s.ordered none).me.result .B d
            ⟨((s.me.view.word (off / 8)).data >>> 62), (s.me.view.word (off / 8)).poison, none⟩)))
      ∧ (k ≠ s.here → ∃ acc, exec (.fpoll g d a f) s = .next (sendFor s d acc) ∧ acc.kind = .poll
        ∧ acc.target = .spad k off ∧ acc.acq = true ∧ acc.phase = .sent)

/-! ## Slot B: fences, barriers, flags and futures -/

/-- R255: `fence` records the order number it holds back at, and its scope; `drain` goes on once every access, command and
post of earlier groups has completed, and waits before, but that below host scope it does not wait for the host link to
report a write, which then counts as performed at its scope (R334). R335: an access that performs changes of the state nothing but the marks of what it comes after, and of the polls that it passes.
R62, R264: `xinv` at kernel privilege completes, once earlier accesses have performed, with the selected cached
translations dropped from the caches in its scope and from what the commands there hold and, with CODE = 1, the selected
code; every other translation and everything else stands. -/
def Obligations.FencesAndInvalidation : Prop :=
  (∀ (s : State) (g : Guard) (i : BitVec 14), s.me.guarded g = true → i.toNat < 8 →
      let mine := fun (a : Acc) => a.core = s.here ∧ a.part = s.partOf s.here ∧ a.ord < s.me.ord
      let far := fun (a : Acc) => i.toNat < 6 ∧ a.kind = .store ∧ ∃ ma, a.target = .mem ma ∧ regionOf ma = .host
      let posted := fun (x : Post) => x.src = s.here ∧ x.part = s.partOf s.here ∧ x.ord < s.me.ord
      exec (.fence g i) s = .next (s.setMe { s.me with fences := s.me.fences ++ [(s.me.ord, i.toNat)] })
      ∧ ((∀ x ∈ s.me.xq, s.me.ord ≤ x.ord ∨ x.remoteDone s.here = true) → (∀ x ∈ s.posts, ¬ posted x) →
        ((∀ a ∈ s.accs, ¬ mine a) → exec (.drain g i) s = .next s)
        ∧ ((∀ a ∈ s.accs, mine a → far a ∧ (a.countsAt i.toNat = true ∨ s.mayPromise a = true)) →
          exec (.drain g i) s = .next (s.promiseBefore (s.partOf s.here) s.here s.me.ord i.toNat)))
      ∧ ((∃ a ∈ s.accs, mine a ∧ ¬ far a) ∨ (∃ x ∈ s.me.xq, x.ord < s.me.ord ∧ x.remoteDone s.here = false)
        ∨ (∃ x ∈ s.posts, posted x) → exec (.drain g i) s = .next (s.held false)))
  ∧ (∀ (s : State) (rel : Option Nat),
      let u := s.ordered rel
      let bare := fun (a : Acc) => ({ a with seen := 0, data2 := if a.kind = .poll then 0 else a.data2 } : Acc)
      let plain := fun (c : Core) => ({ c with xq := c.xq.map fun x => { x with seen := 0 } } : Core)
      u = { s with accs := u.accs, cores := u.cores, parts := u.parts } ∧ u.accs.map bare = s.accs.map bare
      ∧ (∀ k, plain (u.core k) = plain (s.core k))
      ∧ ∀ p, u.part p = { s.part p with image := (u.part p).image })
  ∧ ∀ (s : State) (g : Guard) (a b : BitVec 6) (x y : W64), s.me.guarded g = true → s.me.kernel = true →
    s.reads a x → s.reads b y → field x 28 4 = 0 → field x 9 7 = 0 → field x 6 2 = 0 → field x 3 1 = 0 →
    1 ≤ field x 0 3 → field x 0 3 ≤ 5 → field x 4 2 ≠ 2 ∨ field x 32 32 ≠ 0 →
    s.allCount (s.partOf s.here) s.here s.me.ord (field x 0 3) = true → (∀ z ∈ s.accs, z.phase ≠ .sent) →
    (∀ p ∈ s.cores, ∀ z ∈ p.2.xq, z.job = none) →
      let inside := s.inScope (field x 0 3) s.here
      let gone := selected (s.partOf s.here) x y
      let old := fun l => bit x 8 && codeSelected (s.partOf s.here) x y l
      ∃ t, exec (.xinv g a b) s = .next t
        ∧ t = { s with cores := t.cores, clusters := t.clusters, parts := t.parts }
        ∧ (∀ k, t.core k = if inside k then { s.core k with
              ucache := (s.core k).ucache.filter fun e => !gone e
              icache := (s.core k).icache.filter fun l => !old l
              xq := (s.core k).xq.map fun z => { z with tlb := z.tlb.filter fun e => !gone e } } else s.core k)
        ∧ (∀ cl, t.cluster cl
          = if if field x 0 3 = 1 then cl = clusterOf s.here else inside (coreAt cl 0) = true then { s.cluster cl with
              cache := (s.cluster cl).cache.filter fun e => !gone e
              code := (s.cluster cl).code.filter fun l => !old l } else s.cluster cl)
        ∧ ∀ p, t.part p = { s.part p with image := (t.part p).image }

/-- R257, R258, R440: a barrier operation asks its barrier's home once, and completes with the answer: the phase for
`bar.arr`, nothing for the others; one whose home answers MISUSE raises BARRIER_MISUSE with the descriptor. -/
def Obligations.BarrierOperations : Prop :=
  (∀ (s : State) (g : Guard) (d a b : BitVec 6) (f : Bool) (x y : W64) (k : Nat), s.me.guarded g = true →
      s.reads a x → s.reads b y → s.definable .B d → field x 56 8 = 0 → field x 32 4 = 0 → field x 3 8 = 0 →
      coreNamed x = some k → s.member (chipOf s.here) (chipOf k) = true →
      (∀ (w : Await) (v : W64) (bad : Bool), s.me.awaiting .B = some w → w.answer = some (v, bad, false) →
        exec (.barArr g d a f) s = .next (s.setMe (s.me.result .B d ⟨v, bad, none⟩))
        ∧ exec (.barWt g a b) s = .next s ∧ exec (.barSync g a) s = .next s)
      ∧ (s.me.awaiting .B = none →
        ∀ p ∈ [(Instr.barArr g d a f, AccKind.arrive), (.barWt g a b, .await), (.barSync g a, .sync)],
          ∃ acc, exec p.1 s = .next (s.sendAwaited .B acc) ∧ acc.kind = p.2 ∧ acc.target = .spad k (field x 11 5)
            ∧ acc.held = true ∧ acc.data.toNat = field x 16 16 ∧ acc.phase = .sent))
  ∧ ∀ (s : State) (g : Guard) (d a b : BitVec 6) (f : Bool) (x y : W64) (k : Nat) (w : Await) (bad : Bool)
    (word : BitVec 32), s.me.guarded g = true → s.reads a x → s.reads b y → s.definable .B d → field x 56 8 = 0 →
    field x 32 4 = 0 → field x 3 8 = 0 → coreNamed x = some k → s.member (chipOf s.here) (chipOf k) = true →
    s.me.awaiting .B = some w → w.answer = some (0, bad, true) →
      ∀ i ∈ [Instr.barArr g d a f, .barSync g a], i.encode = some word →
        exec i s = .next (s.takeSync s.here .answer (causeAt s ⟨.B, word⟩ 0x07 0 x))

/-- R83, R84, R111, R259: `cfset` sets a flag to the value, 0xFFFF at most, and its status to 0; `cfrd` reads both;
`cfadd` sends a post, which raises its flag once what it releases has performed, and gives a status that is still 0; one
to whose core no path is left is discarded (R79). R260 to R262, R440: `fres` and `fjoin` ask the future's bank once, and complete with its answer: nothing
for `fres`, the code for `fjoin`; a refused `fres` raises DOUBLE_RESOLVE, or WORLD when the world check of the future's
cluster refused it (R67). The post is a message of the model (log entry 40), what it releases is as log entry 45 reads R335,
and the one access that a slot awaits is log entry 46's reading. -/
def Obligations.FlagsAndFutures : Prop :=
  (∀ (s : State) (g : Guard) (a : BitVec 6) (x : W64), s.me.guarded g = true → s.reads a x →
      (∀ n : Fin 16, exec (.cfset g (BitVec.ofNat 6 n.val) a) s
        = .next (s.setMe { s.me with r := { s.me.r with
            cf := s.me.r.cf.set n (BitVec.ofNat 16 (min 0xFFFF x.toNat))
            cfstat := s.me.r.cfstat &&& ~~~((0xF : W64) <<< (4 * n.val)) } }))
      ∧ (∀ (d : BitVec 6) (n : Fin 16), s.definable .B d →
        exec (.cfrd g d (BitVec.ofNat 6 n.val)) s = .next (s.setMe (s.me.result .B d (known
          ((s.me.view.cfstat >>> (4 * n.val) &&& 0xF) <<< 16 ||| s.me.view.cf[n].zeroExtend 64)))))
      ∧ ∀ (b : BitVec 6) (y : W64) (k : Nat), s.reads b y → field x 56 8 = 0 → field x 3 29 = 0 →
        coreNamed x = some k → s.member (chipOf s.here) (chipOf k) = true → s.speculative = none →
          exec (.cfadd g a b) s = .next { s with
            fresh := s.fresh + 1
            posts := s.posts ++ [⟨s.fresh, k, s.partOf s.here, BitVec.ofNat 4 (field x 32 4),
              BitVec.ofNat 16 (min 0xFFFF y.toNat), 0, s.here, s.me.ord, field x 0 3⟩] })
  ∧ (∀ (s : State) (id : Nat) (x : Post), (s.posts.find? fun y => y.id == id) = some x →
    s.inOrder x.part x.src x.ord = true → s.performedBefore x.part x.src x.ord x.scope = true →
    s.inImage x.part x.core = false →
      let u := s.keepOrder x.part x.src x.ord (some x.scope)
      let c := u.core x.core
      let i : Fin 16 := x.flag.toFin
      (s.pathTo x.src (.spad x.core 0) = false →
        exec (.flagPostArrive id) s = .next { s with posts := s.posts.filter fun y => y.id != id })
      ∧ (s.pathTo x.src (.spad x.core 0) = true → ∃ t, exec (.flagPostArrive id) s = .next ({ u with posts := u.posts.filter fun y => y.id != id }.setCore x.core
          { c with r := { c.r with cf := c.r.cf.set i (BitVec.ofNat 16 (min 0xFFFF (c.r.cf[i].toNat + x.count.toNat)))
                                   cfstat := t } })
        ∧ ∀ j : Fin 16, field t (4 * j.val) 4
          = if j = i ∧ field c.r.cfstat (4 * j.val) 4 = 0 then x.status.toNat else field c.r.cfstat (4 * j.val) 4))
  ∧ ∀ (s : State) (g : Guard) (d a b : BitVec 6) (f : Bool) (x y : W64) (k off j o2 : Nat) (ns n2 : Bool)
    (w1 w2 : BitVec 32), s.me.guarded g = true → s.reads a x → s.reads b y → s.definable .B d →
    (Instr.fres g a b).encode = some w1 → (Instr.fjoin g d a b f).encode = some w2 →
    aimWord s ⟨.B, w1⟩ x 16 = .ok (k, off, ns) → aimWord s ⟨.B, w2⟩ x 16 = .ok (k, off, ns) →
    aimWord s ⟨.B, w2⟩ y 8 = .ok (j, o2, n2) → s.speculative = none →
    k ≠ s.here ∨ s.me.localFree true off 16 = true →
    (∀ (w : Await) (v : W64) (bad : Bool), s.me.awaiting .B = some w →
      (w.answer = some (v, bad, false) → exec (.fres g a b) s = .next s
        ∧ exec (.fjoin g d a b f) s = .next (s.setMe (s.me.result .B d ⟨v, bad, none⟩)))
      ∧ (w.answer = some (v, bad, true) → exec (.fres g a b) s
        = .next (s.takeSync s.here .answer (causeAt s ⟨.B, w1⟩ (if v = 2 then 0x25 else 0x05) 0 x))))
    ∧ (s.me.awaiting .B = none →
      (∃ acc, exec (.fres g a b) s = .next (s.sendAwaited .B acc) ∧ acc.kind = .resolve ∧ acc.data = y
        ∧ acc.target = .spad k off ∧ acc.phase = .sent ∧ acc.held = true)
      ∧ ∃ acc, exec (.fjoin g d a b f) s = .next (s.sendAwaited .B acc) ∧ acc.kind = .join ∧ acc.data = y
        ∧ acc.target = .spad k off ∧ acc.phase = .sent ∧ acc.held = true)

/-! ## Slot V -/

/-- R271, R275, R278, R279: the element-wise operations complete with their result at every active position of their
destination and the flags of all of them; every other byte is as before. -/
def Obligations.VectorLanes : Prop :=
  ∀ (s : State) (g : Guard) (d a b : BitVec 5) (p q : BitVec 2) (k : Bool), s.me.guarded g = true →
    let sh := s.me.shape
    let act := sh.active k
    let x := readVec s sh.eb (a, p)
    let y := readVec s sh.eb (b, q)
    let z := s.me.vec d
    let done := fun (i : Instr) (f : Nat → Rounded) =>
      ∃ v, exec i s = .next (s.setMe (s.me.putVector d v (flagsOf act f))) ∧ v.isWith z sh.eb act fun n => (f n).bits
    x.cleanAt sh.eb act →
    (∀ e ∈ vectorOne, sh.legal e.2.1 e.2.2.1 → s.me.vectorsFree [a] [d] →
      done (e.1 g d a p k) fun n => e.2.2.2 sh (x.elem sh.eb n))
    ∧ (y.cleanAt sh.eb act → s.me.vectorsFree [a, b] [d] →
      (∀ e ∈ vectorTwo, sh.legal e.2.1 e.2.2.1 →
        done (e.1 g d a b p q k) fun n => e.2.2.2 sh (x.elem sh.eb n) (y.elem sh.eb n))
      ∧ (z.cleanAt sh.eb act → s.me.canRead (.vec d.toNat) = true → sh.legal 8 11 → ∀ e ∈ vectorFused,
        done (e.1 g d a b p q k) fun n =>
          sh.fmt.fma sh.fmt sh.mode e.2.1 e.2.2 (x.elem sh.eb n) (y.elem sh.eb n) (z.elem sh.eb n))
      ∧ (k = false → sh.legal 0 14 → done (.vsel g d a b p q) fun n =>
        exactly ((if sh.mask.getLsbD n then x else y).elem sh.eb n)))

/-- R276, R284, R285: a compare writes the bits of its active positions alone, and `m0` discards; the mask operations
work on all 4096 bits; `mpopc` and `mfirst` count and find the set bits below N, without shifting a latch. A write of
mask m is read back from mask m, unless m is 0, and leaves every other mask and everything else as it was. -/
def Obligations.MaskResults : Prop :=
  (∀ e ∈ vectorCompares, ∀ (s : State) (g : Guard) (m : BitVec 3) (a b : BitVec 5) (p q : BitVec 2) (k : Bool),
    s.me.guarded g = true →
    let sh := s.me.shape
    let act := sh.active k
    let x := readVec s sh.eb (a, p)
    let y := readVec s sh.eb (b, q)
    sh.legal e.2.1 e.2.2.1 → s.me.vectorsFree [a, b] [] → x.cleanAt sh.eb act → y.cleanAt sh.eb act →
      ∃ (z : BitVec 4096) (fl : Flags),
        exec (e.1 g m a b p q k) s = .next (s.setMe { s.me.setMask m z with
          r := { (s.me.setMask m z).r with fstat := s.me.r.fstat ||| fl.zeroExtend 64 } })
        ∧ (fl = act.foldl (fun f i => f ||| (e.2.2.2 sh (x.elem sh.eb i) (y.elem sh.eb i)).2) 0)
        ∧ ∀ i < 4096, z.getLsbD i = if i ∈ act then (e.2.2.2 sh (x.elem sh.eb i) (y.elem sh.eb i)).1
            else (s.me.mask m).getLsbD i)
  ∧ (∀ (c : Core) (m : BitVec 3) (z : BitVec 4096),
    let t := c.setMask m z
    (∀ j : Fin 8, t.r.m[j] = if j = m.toFin ∧ m ≠ 0 then z else c.r.m[j])
    ∧ t = { c with r := { c.r with m := t.r.m } }
    ∧ (c.pre = none → ∀ n : BitVec 3, t.mask n = if n = m ∧ m ≠ 0 then z else c.mask n))
  ∧ ∀ (s : State) (g : Guard) (d a b : BitVec 3), s.me.guarded g = true →
    exec (.mand g d a b) s = .next (s.setMe (s.me.setMask d (s.me.mask a &&& s.me.mask b)))
    ∧ exec (.mor g d a b) s = .next (s.setMe (s.me.setMask d (s.me.mask a ||| s.me.mask b)))
    ∧ exec (.mxor g d a b) s = .next (s.setMe (s.me.setMask d (s.me.mask a ^^^ s.me.mask b)))
    ∧ exec (.mnot g d a) s = .next (s.setMe (s.me.setMask d (~~~s.me.mask a)))
    ∧ ∀ r : BitVec 6, writable s r = true → s.me.shape.legal 0 14 →
      let set := (List.range s.me.shape.n).filter (s.me.mask a).getLsbD
      exec (.mpopc g r a) s = .next (s.setMe (s.me.setS r (known (BitVec.ofNat 64 set.length))))
      ∧ exec (.mfirst g r a) s
        = .next (s.setMe (s.me.setS r (known ((set.head?.map (BitVec.ofNat 64)).getD (BitVec.allOnes 64)))))

/-- R155, R160, R280 to R282: `vcvt` completes with each active value converted at its place, `vmxpack` with each
block's scale and elements, `vmxunpack` with each element times its scale; under stochastic rounding each value has
its own draw, and the generator ends after the last. -/
def Obligations.VectorConversions : Prop :=
  ∀ (s : State) (g : Guard) (d a : BitVec 5) (p : BitVec 2), s.me.guarded g = true → s.me.vectorsFree [a] [d] →
    let sh := s.me.shape
    let x := readVec s sh.eb (a, p)
    let seed := s.me.r.srseed
    let finish := fun (i : Instr) (v : VReg) (fl : Flags) (n : Nat) =>
      exec i s = .next (s.setMe { s.me.putVector d v fl with
        r := { (s.me.putVector d v fl).r with srseed := stepSeeds n seed } })
    (∀ (t : BitVec 5) (sat k : Bool), sh.legal 0 14 → t.toNat ≠ 15 → t.toNat < 18 → t.toNat ≠ sh.type →
      ((if sh.type = 14 then 2 * sh.n else sh.n) * targetBits t.toNat + 7) / 8 ≤ 4096 →
      x.cleanAt sh.eb (sh.active k) →
      let values := sourceValues sh.type sh.eb x (sh.active k)
      let draws := sh.rm == 5 && isStochastic sh.type t.toNat
      ∃ v fl, finish (.vcvt g d a t p sat k) v fl (if draws then values.length else 0)
        ∧ ∀ j (h : j < values.length),
          let draw := if draws then stepSeeds (j + 1) seed else seed
          bitsOf v.bits.toNat (targetBits t.toNat * values[j].1) (targetBits t.toNat)
            = (convertElement sh.type t.toNat sh.rm sat draw.toNat values[j].2).bits % 2 ^ targetBits t.toNat)
    ∧ ∀ code : BitVec 5, 1 ≤ code.toNat → code.toNat ≤ 6 → sh.legal 8 10 → sh.n % 32 = 0 →
      let nb := sh.n / 32
      let w := mxBits code.toNat
      let draws := sh.rm == 5 && code != 6
      (x.cleanAt sh.eb (sh.active false) →
        ∃ v fl, finish (.vmxpack g d a code p) v fl (if draws then sh.n else 0)
          ∧ ∀ j < nb,
            let block := packBlock code.toNat sh.rm draws
              ((List.range 32).map fun i => sh.fmt.value (x.elem sh.eb (32 * j + i)))
              (if draws then stepSeeds (32 * j) seed else seed)
            v.elem 1 (nb * 4 * w + j) = block.1
            ∧ ∀ i < 32, bitsOf v.bits.toNat (w * (32 * j + i)) w = block.2.1.getD i 0 % 2 ^ w)
      ∧ (x.cleanAt 1 (List.range (nb * 4 * w + nb)) →
        ∃ v fl, exec (.vmxunpack g d a code p) s = .next (s.setMe (s.me.putVector d v fl))
          ∧ v.isWith (s.me.vec d) sh.eb (sh.active false) fun i =>
            let e := bitsOf x.bits.toNat (w * i) w
            match scaleExp (BitVec.ofNat 8 (x.elem 1 (nb * 4 * w + i / 32))), mxFmt code.toNat with
            | none, _ => sh.fmt.qnan
            | some n, some f => (sh.fmt.convert sh.mode false 0 (f.isSignalling e) ((f.value e).scale n)).bits
            | some n, none => (sh.fmt.convert sh.mode false 0 false
                (.fin (decide (asInt true 8 e < 0)) (asInt true 8 e).natAbs (n - 6))).bits)

/-- R170, R283: a reduction writes the pairwise tree of each row with an active position to the row's number, and
`vscan` the running sums of each row to its active positions. -/
def Obligations.VectorReductions : Prop :=
  ∀ (s : State) (g : Guard) (d a : BitVec 5) (p : BitVec 2) (k : Bool), s.me.guarded g = true →
    s.me.vectorsFree [a] [d] →
    let sh := s.me.shape
    let x := readVec s sh.eb (a, p)
    let row := fun r => (sh.active k).filter fun i => i / sh.cols == r
    let vals := fun r => (row r).map fun i => x.elem sh.eb i
    sh.legal 0 11 → x.cleanAt sh.eb (sh.active k) →
    (∀ e ∈ vectorReductions, ∃ v fl, exec (e.1 g d a p k) s = .next (s.setMe (s.me.putVector d v fl))
      ∧ v.isWith (s.me.vec d) sh.eb ((List.range sh.rows).filter fun r => row r ≠ [])
        fun r => (treeReduce (e.2 sh) 13 (vals r) 0).1.headD 0)
    ∧ ∃ v fl, exec (.vscan g d a p k) s = .next (s.setMe (s.me.putVector d v fl))
      ∧ v.isWith (s.me.vec d) sh.eb (sh.active k) fun i =>
        let upto := ((row (i / sh.cols)).filter fun j => j ≤ i).map fun j => x.elem sh.eb j
        upto.tail.foldl (fun acc y => (sumOp sh acc y).bits) (upto.headD 0)

/-- R284: `vperm`, `vcompress`, `vexpand`, `vmov`, `vsplat`, `vext` and `vins` complete with the elements they move;
an index of N or more reads 0 and writes nothing. -/
def Obligations.VectorMovement : Prop :=
  ∀ (s : State) (g : Guard) (d a b : BitVec 5) (p q : BitVec 2) (k : Bool), s.me.guarded g = true →
    let sh := s.me.shape
    let act := sh.active k
    let x := readVec s sh.eb (a, p)
    let y := readVec s sh.eb (b, q)
    let z := s.me.vec d
    let set := (List.range sh.n).filter sh.mask.getLsbD
    let done := fun (i : Instr) (at_ : List Nat) (f : Nat → Nat) =>
      ∃ v, exec i s = .next (s.setMe (s.me.putVector d v 0)) ∧ v.isWith z sh.eb at_ f
    sh.legal 0 14 →
    (s.me.vectorsFree [a, b] [d] → y.cleanAt sh.eb act →
      x.cleanAt sh.eb ((act.map fun i => y.elem sh.eb i).filter fun j => decide (j < sh.n)) →
      done (.vperm g d a b p q k) act fun i => if y.elem sh.eb i < sh.n then x.elem sh.eb (y.elem sh.eb i) else 0)
    ∧ (s.me.vectorsFree [a] [d] → x.cleanAt sh.eb set →
      done (.vcompress g d a p) (List.range set.length) fun i => x.elem sh.eb (set.getD i 0))
    ∧ (s.me.vectorsFree [a] [d] → x.cleanAt sh.eb (List.range set.length) →
      done (.vexpand g d a p) set fun i => x.elem sh.eb (set.idxOf i))
    ∧ (s.me.vectorsFree [a] [d] → ∃ v, exec (.vmov g d a p k) s
        = .next (s.setMe { s.me with r := { s.me.r with v := s.me.r.v.set d.toFin v } })
      ∧ ∀ n < 4096,
        v.bits.extractLsb' (8 * n) 8 = (if n / sh.eb ∈ act then x else z).bits.extractLsb' (8 * n) 8
        ∧ v.poison.getLsbD n = (if n / sh.eb ∈ act then x else z).poison.getLsbD n)
    ∧ (∀ (c : BitVec 6) (e : W64), s.reads c e → s.me.vectorsFree [] [d] →
      done (.vsplat g d c k) act fun _ => e.toNat)
    ∧ (∀ (r c : BitVec 6) (i : W64), s.reads c i → writable s r = true → s.me.vectorsFree [a] [] →
      (i.toNat < sh.n → (s.me.vec a).cleanAt sh.eb [i.toNat]) →
      exec (.vext g r a c) s = .next (s.setMe (s.me.setS r (known
        (if i.toNat < sh.n then BitVec.ofNat 64 ((s.me.vec a).elem sh.eb i.toNat) else 0)))))
    ∧ ∀ (e c : BitVec 6) (i n : W64), s.reads e n → s.reads c i → s.me.vectorsFree [] [d] →
      (sh.n ≤ i.toNat → exec (.vins g d e c) s = .next s)
      ∧ (i.toNat < sh.n → ∃ v, exec (.vins g d e c) s
          = .next (s.setMe { s.me with r := { s.me.r with v := s.me.r.v.set d.toFin v } })
        ∧ v.isWith z sh.eb [i.toNat] fun _ => n.toNat)

/-- R171, R172, R286 to R288: `laclr` clears an accumulator; `lafma` and `laadd` add every active product, or
element, exactly; `laround` reads it out rounded once; `lasgn` gives its sign; `lamov` moves its 4288 bits and its
three marks. -/
def Obligations.LongAccumulators : Prop :=
  ∀ (s : State) (g : Guard) (l : BitVec 2) (a b d : BitVec 5) (p q : BitVec 2) (k : Bool), s.me.guarded g = true →
    let sh := s.me.shape
    let act := sh.active k
    let x := readVec s 8 (a, p)
    let y := readVec s 8 (b, q)
    let acc := s.me.long l
    let write := fun (z : LongAcc) (fl : Flags) =>
      s.setMe { s.me with r := { s.me.r with la := s.me.r.la.set l.toFin z, fstat := s.me.r.fstat ||| fl.zeroExtend 64 } }
    exec (.laclr g l) s
      = .next (s.setMe { s.me with r := { s.me.r with la := s.me.r.la.set l.toFin ⟨0, false, false, false⟩ } })
    ∧ (sh.legal 11 11 → s.me.vectorsFree [a] [] → x.cleanAt 8 act →
      (∃ z fl, exec (.laadd g l a p k) s = .next (write z fl)
        ∧ (z, fl) = act.foldl (fun t i => ((addPair t.1 (x.elem 8 i) 0x3FF0000000000000).1,
            t.2 ||| (addPair t.1 (x.elem 8 i) 0x3FF0000000000000).2)) (acc, 0))
      ∧ (s.me.vectorsFree [a, b] [] → y.cleanAt 8 act → ∃ z fl, exec (.lafma g l a b p q k) s = .next (write z fl)
        ∧ (z, fl) = act.foldl (fun t i => ((addPair t.1 (x.elem 8 i) (y.elem 8 i)).1,
            t.2 ||| (addPair t.1 (x.elem 8 i) (y.elem 8 i)).2)) (acc, 0)))
    ∧ (s.me.vectorsFree [] [d] →
      (∃ v, exec (.laround g d l) s = .next (s.setMe (s.me.putVector d v (acc.read s.me.shape.rm).flags))
        ∧ v.isWith (s.me.vec d) 8 [0] fun _ => (acc.read s.me.shape.rm).bits)
      ∧ ∃ v, exec (.lamovToVector g d l) s
          = .next (s.setMe { s.me with r := { s.me.r with v := s.me.r.v.set d.toFin v } })
        ∧ v.isWith (s.me.vec d) 1 (List.range 537) fun i =>
          if i < 536 then acc.val.toNat / 2 ^ (8 * i) % 256
          else ofBool acc.nan + 2 * ofBool acc.pinf + 4 * ofBool acc.ninf)
    ∧ (s.me.vectorsFree [a] [] → (s.me.vec a).cleanAt 1 (List.range 537) → ∃ z, exec (.lamovFromVector g l a) s
        = .next (s.setMe { s.me with r := { s.me.r with la := s.me.r.la.set l.toFin z } })
      ∧ z.val = (s.me.vec a).bits.extractLsb' 0 4288
      ∧ z.nan = (s.me.vec a).bits.getLsbD 4288 ∧ z.pinf = (s.me.vec a).bits.getLsbD 4289
      ∧ z.ninf = (s.me.vec a).bits.getLsbD 4290)
    ∧ ∀ m n : BitVec 4,
      let bad := acc.nan || acc.pinf && acc.ninf
      let pos := bad || acc.pinf || (!acc.ninf && decide (0 < acc.val.toInt))
      let neg := bad || acc.ninf || (!acc.pinf && decide (acc.val.toInt < 0))
      let c := (s.me.setP m pos).setP n neg
      exec (.lasgn g m n l) s = .next (s.setMe { c with r := { c.r with
        fstat := c.r.fstat ||| if bad then 1 else 0 } })

/-! ## Slot M -/

/-- R289, R294, R296, R301: a product of legal streams on the full path completes with one command accepted, which
holds its word, its streams, the rows read from them and the mask block, and makes its tile busy; one on the narrow
path with one partial sum of its sub-block at the present position, unless it has waited for a full-path command and the
engine is not idle yet. The `.s` forms do what `mscale` does as well. -/
def Obligations.MatrixProducts : Prop :=
  ∀ e ∈ products, ∀ (s : State) (g : Guard) (c a b : BitVec 4) (o : BitVec 8) (word : BitVec 32),
    s.me.guarded g = true → (e.1 g c a b o).encode = some word →
    let qa := getReg s.me.view.q a.toNat 0
    let qb := getReg s.me.view.q b.toNat 0
    let x := streamOf qa
    let y := streamOf qb
    let kb := bitsOf o.toNat 0 4
    let u := if e.2.2.1 then scalePort s else s
    badStream qa = false → badStream qb = false → x.sparse = false → y.sparse = e.2.1 →
    ((pathOf x y = some .fp ∨ pathOf x y = some .int) → bitsOf o.toNat 6 2 = 0 → o.getLsbD 4 = false →
      (e.2.2.2 = true ∨ o.getLsbD 5 = false) → (s.me.mq.filter MCmd.full).length < 4 →
      s.me.canAccumulate c.toNat = true → (∀ r ∈ x.uses s.me rows64 kb ++ y.uses s.me rows64 kb, s.me.canRead r = true) →
      x.free s.me rows64 kb = true → y.free s.me rows64 kb = true → s.me.narrowPending = false →
      x.outside s.me rows64 kb = false → y.outside s.me rows64 kb = false →
        ∃ m, exec (e.1 g c a b o) s = .next (u.acceptMatrix m) ∧ m.word = word ∧ m.qa = qa ∧ m.qb = qb
          ∧ m.mask = s.me.view.maskBlk ∧ m.a = rows64.map (fun r => x.row s.me r kb)
          ∧ m.b = rows64.map (fun r => y.row s.me r kb) ∧ (Res.tile c.toNat, true) ∈ m.busy)
    ∧ (pathOf x y = some .narrow → e.2.2.2 = false →
      let width := if x.fmt = 14 ∧ y.fmt = 14 then 32 else 16
      let ra := (List.range 16).map (· + 16 * bitsOf o.toNat 6 2)
      let rb := (List.range width).map (· + width * bitsOf o.toNat 4 2)
      (width = 32 → bitsOf o.toNat 4 2 < 2) → (∀ m ∈ s.me.mq, m.full = false) → s.me.idleWait = false ∨ s.me.mq = [] →
      (∀ r ∈ x.uses s.me ra kb ++ y.uses s.me rb kb, s.me.canRead r = true) →
      x.free s.me ra kb = true → y.free s.me rb kb = true →
      x.outside s.me ra kb = false → y.outside s.me rb kb = false →
        ∃ p, exec (e.1 g c a b o) s = .next (u.pushSum p) ∧ p.pos = s.me.issue ∧ p.tile = c
          ∧ p.row = 16 * bitsOf o.toNat 6 2 ∧ p.col = width * bitsOf o.toNat 4 2 ∧ p.width = width
          ∧ p.sums.length = 16 * width
          ∧ ∀ i < 16, ∀ j < width, p.sums.getD (i * width + j) Exact.zero
            = (exactDot x.fmt y.fmt s.me.view.nftz (x.row s.me (16 * bitsOf o.toNat 6 2 + i) kb).1
                (y.row s.me (width * bitsOf o.toNat 4 2 + j) kb).1).1)

/-- R297, R298, R300: with no command accepted, `mscale` takes the sum on the port, after those that are due arrive:
each element of its sub-block becomes the element plus the scaled sum, rounded once, and the port is empty; an
`mscale` that finds the port empty writes nothing and counts EMPTY. -/
def Obligations.PartialSums : Prop :=
  ∀ (s : State) (g : Guard), s.me.guarded g = true → s.me.mq = [] →
    let c := s.me.arriveSums
    (c.port = none → exec (.mscale g) s = .next (s.setMe { c with r := c.r.countSums 0 1 }))
    ∧ ∀ p, c.port = some p → p.width = 16 ∨ p.width = 32 → p.row + 16 ≤ 64 → p.col + p.width ≤ 64 →
      p.sums.length = 16 * p.width →
        ∃ t fl, exec (.mscale g) s = .next (s.setMe { c with
            port := none
            r := { c.r with t := c.r.t.set p.tile.toFin t, fstat := c.r.fstat ||| fl } })
          ∧ ∀ i < 64, ∀ j < 64, t.get (256 * i + 4 * j) 4
            = let old := (c.r.t[p.tile.toFin]).get (256 * i + 4 * j) 4
              if p.row ≤ i ∧ i < p.row + 16 ∧ p.col ≤ j ∧ j < p.col + p.width then
                match scaleExp ((p.sa.getD (i - p.row) none).getD 127), scaleExp ((p.sb.getD (j - p.col) none).getD 127) with
                | some m, some n => (flushed c.view.accftz (addExact old
                    ((p.sums.getD ((i - p.row) * p.width + (j - p.col)) Exact.zero).scale (m + n)))).bits % 2 ^ 32
                | _, _ => f32.qnan
              else old

/-- R295, R302: `mzero`, `mcvt`, `mmov` and `mtr` complete with one command accepted, which holds its source tile as
it stands and makes its destination W-busy and its source R-busy; `mcvt` draws its 4096 values at once under stochastic
rounding, and raises POISON for a source that holds poison; `mmask` copies the mask block and `mclrmask` sets it. -/
def Obligations.TileOperations : Prop :=
  ∀ (s : State) (g : Guard) (d r : BitVec 4), s.me.guarded g = true →
    (s.me.canAccumulate d.toNat = true →
      (∃ m, exec (.mzero g d) s = .next (s.acceptMatrix m) ∧ (Instr.mzero g d).encode = some m.word
        ∧ (Res.tile d.toNat, true) ∈ m.busy)
      ∧ (s.me.canRead (.tile r.toNat) = true →
        let holds := fun m : MCmd => m.src = s.me.tile r.toNat
          ∧ (Res.tile d.toNat, true) ∈ m.busy ∧ (Res.tile r.toNat, false) ∈ m.busy
        (∃ m, exec (.mmov g d r) s = .next (s.acceptMatrix m) ∧ (Instr.mmov g d r).encode = some m.word ∧ holds m)
        ∧ (∀ e : BitVec 2, e.toNat < 3 → ∃ m, exec (.mtr g d r e) s = .next (s.acceptMatrix m)
          ∧ (Instr.mtr g d r e).encode = some m.word ∧ holds m)
        ∧ ∀ (int sat : Bool) (t : BitVec 4) (rm : BitVec 3), t.toNat ∈ [0, 1, 2, 3, 8, 9, 12, 13, 14] → rm.toNat < 6 →
          (int = false ∨ t.toNat < 12) →
          let draws := rm.toNat = 5 ∧ isStochastic (if int then 4 else 10) t.toNat = true
          ((s.me.tile r.toNat).poison ≠ 0 → ∀ word, (Instr.mcvt g r d int t rm sat).encode = some word →
            exec (.mcvt g r d int t rm sat) s
              = .next (s.takeSync s.here .check (causeAt s ⟨.M, word⟩ 0x26 r.toNat 0)))
          ∧ ((s.me.tile r.toNat).poison = 0 → ∃ m, (Instr.mcvt g r d int t rm sat).encode = some m.word ∧ holds m
            ∧ m.seed = s.me.r.srseed
            ∧ (¬draws → exec (.mcvt g r d int t rm sat) s = .next (s.acceptMatrix m))
            ∧ (draws → exec (.mcvt g r d int t rm sat) s = .next ((s.acceptMatrix m).setMe
                { (s.acceptMatrix m).me with
                  r := { (s.acceptMatrix m).me.r with srseed := stepSeeds 4096 s.me.r.srseed } })))))
    ∧ (s.me.canRead (.tile d.toNat) = true → (∀ i < 64, (s.me.tile d.toNat).bad (256 * i) 8 = false) →
      ∃ z, exec (.mmask g d) s = .next (s.setMe { s.me with r := { s.me.r with maskBlk := z } })
        ∧ ∀ i < 64, ∀ j < 64, z.getLsbD (64 * i + j)
          = (bitsOf (s.me.tile d.toNat).bits.toNat (8 * (256 * i + j / 8)) 8).testBit (j % 8))
    ∧ exec (.mclrmask g) s = .next (s.setMe { s.me with r := { s.me.r with maskBlk := BitVec.allOnes 4096 } })

/-- R165, R294, R302: the oldest accepted command of a matrix engine completes with its tile written, its flags
accrued to its record and the command gone; a product adds to every element, one with a mask to those whose mask bit is
set and writes minus infinity, or the least integer, to the others when bit 5 says so, a move writes its source or the
source's transpose, `mzero` zeros, and `mcvt` writes each element converted, under stochastic rounding with the next draw
for each, and no other byte. -/
def Obligations.MatrixCommands : Prop :=
  ∀ (s : State) (k : Nat) (m : MCmd) (rest : List MCmd), (s.core k).mq = m :: rest →
    let old := getReg (s.core k).r.t m.dest ⟨0, 0⟩
    let new := m.run old
    exec (.mCommandComplete k) s
      = .next ((s.setCore k { (s.core k).setTile m.dest new.1 with mq := rest }).accrue m.own new.2).settle
    ∧ (opcodeOf m.word = 0x08 → new.1 = ⟨0, 0⟩) ∧ (opcodeOf m.word = 0x0A → new.1 = m.src)
    ∧ (opcodeOf m.word = 0x0B → bitsOf m.word.toNat 0 2 < 3 → ∀ i < 64, ∀ j < 64,
      let eb := 2 ^ bitsOf m.word.toNat 0 2
      new.1.get (256 * j + eb * i) eb = m.src.get (256 * i + eb * j) eb)
    ∧ (opcodeOf m.word ∈ [1, 2, 5, 6] → ∀ i < 64, ∀ j < 64,
      new.1.get (256 * i + 4 * j) 4 = accumulated m (old.get (256 * i + 4 * j) 4) i j % 2 ^ 32)
    ∧ (opcodeOf m.word = 3 → ∀ i < 64, ∀ j < 64,
      let x := old.get (256 * i + 4 * j) 4
      let fp := (streamOf m.qa).fmt = 8 ∨ (streamOf m.qa).fmt = 9
      new.1.get (256 * i + 4 * j) 4 = if m.mask.getLsbD (64 * i + j) then accumulated m x i j % 2 ^ 32
        else if m.word.getLsbD 5 then (if fp then 0xFF800000 else 0x80000000) else x)
    ∧ (opcodeOf m.word = 0x09 →
      let tgt := bitsOf m.word.toNat 4 4
      let rm := bitsOf m.word.toNat 1 3
      let from_ := if m.word.getLsbD 8 then 4 else 10
      let eb := if tgt = 14 then 4 else 8 * typeBytes tgt
      let seedAt := fun n => if rm = 5 ∧ isStochastic from_ tgt = true then stepSeeds (n + 1) m.seed else m.seed
      tgt ∈ [0, 1, 2, 3, 8, 9, 12, 13, 14] → ∀ i < 64,
        (∀ j < 64, bitsOf new.1.bits.toNat (2048 * i + eb * j) eb
          = (convertElement from_ tgt rm (m.word.getLsbD 0) (seedAt (64 * i + j)).toNat
              (m.src.get (256 * i + 4 * j) 4)).bits % 2 ^ eb)
        ∧ ∀ b < 256, 8 * eb ≤ b → new.1.get (256 * i + b) 1 = old.get (256 * i + b) 1)

/-! ## Slot F -/

/-- R125, R143, R305, R307: with good handles, the block's sequence where it counts, its resources clear and room in
the queue, an F operation completes with one command accepted. -/
def Obligations.FastWeightCommands : Prop :=
  ∀ (s : State) (g : Guard) (h : BitVec 4), s.me.guarded g = true → s.me.fq.length < 4 →
    let x := getReg s.me.view.h h.toNat 0
    let kind := handleKind x
    let par := getReg s.me.view.q h.toNat 0
    (s.me.canWrite (.handle h.toNat) = true →
      s.acceptsF (.fwbind g h) [] [(.handle h.toNat, true)])
    ∧ (s.me.canRead (.handle h.toNat) = true → s.goodHandle x → dropPending s [x] = false →
      (s.acceptsF (.fwdrop g h) [x] [] ∧ s.acceptsF (.fwevict g h) [x] [] ∧ ∀ f, s.acceptsF (.fwpagein g h f) [x] [])
      ∧ (∀ t : BitVec 4, s.me.canWrite (.tile t.toNat) = true →
        s.acceptsF (.fwstat g t h) [x] [(.tile t.toNat, true)])
      ∧ (s.inSequence x → kind = 1 → s.acceptsF (.fwcommit g h) [x] [])
      ∧ (∀ d : BitVec 4, s.inSequence x → kind = 1 → s.me.canWrite (.handle d.toNat) = true →
        s.acceptsF (.fwsnap g h d) [x] [(.handle d.toNat, true)])
      ∧ (∀ (c : BitVec 2) (d : BitVec 4), s.inSequence x → d.toNat + c.toNat < 16 →
        (∀ i ≤ c.toNat, s.me.canWrite (.handle (d.toNat + i)) = true) →
        s.acceptsF (.fwfork g c h d) [x] ((List.range (c.toNat + 1)).map fun i => (.handle (d.toNat + i), true)))
      ∧ (∀ k v q : BitVec 4, ∀ e ∈ steps g k v q h, ∀ z, s.inSequence x → (kind = 1 ∨ e.2.1 = 4) →
        stepShape par (s.obj (handleKey x)) e.2.1 e.2.2.1 e.2.2.2.1 e.2.2.2.2 = some z → s.me.clear z.busy →
        (z.par.av = true → s.me.canRead (.vec z.par.avreg) = true) → s.acceptsF e.1 [x] z.busy)
      ∧ (∀ d : BitVec 4, s.me.canWrite (.handle d.toNat) = true → field (word256 par 0) 0 52 = 0 →
        word256 par 1 = 0 → word256 par 2 = 0 → word256 par 3 = 0 → field (word256 par 0) 53 3 ≤ 4 →
        s.member (chipOf s.here) (field (word256 par 0) 56 8) = true →
        (s.cluster (field (word256 par 0) 52 12)).ns = (s.cluster (handleCluster x)).ns →
        s.acceptsF (.fwmigr g h d) [x] [(.handle d.toNat, true)])
      ∧ (∀ r : BitVec 4, let y := getReg s.me.view.h r.toNat 0
        kind = 1 → s.me.canRead (.handle r.toNat) = true → s.goodHandle y → handleKind y = 2 →
        dropPending s [x, y] = false → (s.obj (handleKey y)).heads = (s.obj (handleKey x)).heads →
        (s.obj (handleKey y)).dim = (s.obj (handleKey x)).dim → s.acceptsF (.fwroll g h r) [x, y] [])
      ∧ ∀ a b c e : BitVec 4,
        let n := field (word256 par 2) 0 2 + 2
        let ys := ([a, b, c, e].take n).map fun r => getReg s.me.view.h r.toNat 0
        kind = 1 → s.inSequence x → n ≤ 4 → field (word256 par 2) 2 62 = 0 → word256 par 3 = 0 →
        (∀ r ∈ [a, b, c, e].take n, s.me.canRead (.handle r.toNat) = true) →
        (∀ y ∈ ys, s.goodHandle y ∧ s.inSequence y ∧ (s.obj (handleKey y)).heads = (s.obj (handleKey x)).heads
          ∧ (s.obj (handleKey y)).dim = (s.obj (handleKey x)).dim) →
        dropPending s (x :: ys) = false → s.acceptsF (.fwavg g a b c h e) (x :: ys) [])

/-- R122, R127, R128, R130, R141 to R145, R312: the events of the state SRAM. The first command of a core, when its turn has
come (the model's order among objects is log entry 154), completes with what it has come to: it leaves the queue, FWSTAT and
the handle registers are written, its flags join the core's while it runs the command's block, and a status other than OK raises
TRANSFER_ERROR; `fwcommit` raises its object's sequence, and `fwdrop` frees its slot and raises the generation. R134 to R136,
R139: the step family gives each element of a head, and each row returned, the operations of its form in their order; a dot
product of up to 16 elements is one chain; the object and the output tile receive the results as they store them, and
`fwavg` the weighted mean. Evictions, page-ins, copies, holds and errors end as the rules say. -/
def Obligations.FastWeightEvents : Prop :=
  (∀ (s t : State) (k st reg : Nat) (c : FCmd) (rest : List FCmd) (hs : List W64) (fl : Flags)
    (out : Option (Nat × Data)), commandsF s k = c :: rest → turnOf s k c = true →
    runF s c k = .done t st hs reg fl out →
      let p := c.own.part
      let x := t.coreOf p k
      ∃ z, exec (.fCommandComplete k) s = .next z
        ∧ (z.coreOf p k).fq = x.fq.filter (fun y => y.id != c.id)
        ∧ (z.coreOf p k).r.fwstat
          = BitVec.ofNat 64 (field (hs.headD c.fwd) 16 48 * 2 ^ 16 + (if hs = [] then 0 else reg) * 16 + st)
        ∧ (∀ i h, hs[i]? = some h → reg + i < 16 → getReg (z.coreOf p k).r.h (reg + i) 0 = h)
        ∧ (t.runs p c.own.uid = some k → (z.coreOf p k).r.fstat = x.r.fstat ||| BitVec.zeroExtend 64 fl)
        ∧ (z.coreOf p k).pendK = x.pendK ++ (if st ≠ 0 ∧ x.pendK.length < 16 then
            [⟨0x29, true, 5, false, BitVec.ofNat 7 c.op, BitVec.ofNat 4 st, 0, 0, 0⟩] else [])
        ∧ (∀ key, z.obj key = t.obj key)
        ∧ (c.op = 0x06 → (z.obj (handleKey (c.handles.headD 0))).nextSeq
          = (s.obj (handleKey (c.handles.headD 0))).nextSeq + 1)
        ∧ (c.op = 0x0C → (z.obj (handleKey (c.handles.headD 0))).used = false
          ∧ (z.obj (handleKey (c.handles.headD 0))).gen = nextGen (s.obj (handleKey (c.handles.headD 0))).gen))
  ∧ (∀ x y : List Val, x.length = y.length → x.length ≤ 16 →
    dot x y = (x.zip y).foldl (fun a z => Val.fma z.1 z.2 a) Val.zero)
  ∧ (∀ x y x' y' : List Val, x.length = y.length → x'.length = y'.length → x.length = 16 → x' ≠ [] → x'.length ≤ 16 →
    dot (x ++ x') (y ++ y') = Val.add (dot x y) (dot x' y'))
  ∧ (∀ (d : Nat) (alpha : Nat → Val) (beta : Val) (m k v q : Rows), m.length = d → k.length = v.length →
    (∀ r ∈ m ++ k ++ v ++ q, r.length = d) →
    let at_ := fun (x : Rows) i j => (x.getD i []).getD j Val.zero
    let faded := fun i j => Val.mul (alpha i) (at_ m i j)
    let through := fun (x : Rows) c i => dot (m.getD i []) (x.getD c [])
    let err := fun c i => Val.mul beta (Val.sub (at_ v c i) (through k c i))
    let grown := fun (e : Nat → Nat → Val) (x : Nat → Nat → Val) i j =>
      (List.range k.length).foldl (fun a c => Val.fma (e c i) (at_ k c j) a) (x i j)
    let gives := fun (form : Nat) (new back : Nat → Nat → Val) =>
      let y := headStep form alpha beta m k v q
      (∀ i < d, ∀ j < d, at_ y.1 i j = new i j) ∧ ∀ c < q.length, ∀ i < d, at_ y.2 c i = back c i
    gives 0 (grown err faded) (through q)
    ∧ gives 1 (grown err faded) (fun c i => (List.range k.length).foldl
        (fun a n => Val.fma (err n i) (dot (k.getD n []) (q.getD c [])) a) (Val.mul (alpha i) (through q c i)))
    ∧ gives 2 (grown (fun c i => Val.mul beta (at_ v c i)) faded) (through q)
    ∧ (k.length = d → gives 3 (fun i j => Val.fms beta (at_ k i j) (faded i j)) (through q))
    ∧ gives 4 (at_ m) (through q)
    ∧ (q = [] → gives 5 faded (through q) ∧ gives 6 (grown (at_ v) (at_ m)) (through q)))
  ∧ (∀ (s t : State) (k st reg form : Nat) (c : FCmd) (hs : List W64) (fl : Flags) (out : Option (Nat × Data))
      (z : StepShape),
    let key := handleKey (c.handles.headD 0)
    let o := s.obj key
    let d := o.dim
    let p := z.par
    form = (if c.op = 2 then 4 else if c.op = 4 then 5 else if c.op = 5 then 6 else c.fld 0 4) → form ≤ 6 →
    c.op ∈ [2, 3, 4, 5] → stepShape c.q o form (c.fld 16 4) (c.fld 12 4) (c.fld 8 4) = some z →
    runF s c k = .done t st hs reg fl out → st = 0 →
      let block := fun h i n => operandRows p.bf16 (c.inputs.getD i []) d (h * n) n
      let res := fun h => headStep form (c.alphaOf p d h) (p.beta, false, 0) (o.matrix (p.head + h))
        (if form = 3 then block h 0 d else if form = 4 ∨ form = 5 then [] else block h 0 p.rows)
        (if form ≤ 2 ∨ form = 6 then block h 1 p.rows else [])
        (if form = 3 then block h 1 p.rows else if form = 4 then block h 0 p.rows
          else if form ≤ 2 then block h 2 p.rows else [])
      let at_ := fun (x : Rows) i j => (x.getD i []).getD j Val.zero
      (∀ e, (∀ h < p.nh, ∀ i < d, ∀ j < d, e ≠ (p.head + h) * d * d + i * d + j) → (t.obj key).elem e = o.elem e)
      ∧ (∀ h < p.nh, ∀ i < d, ∀ j < d, let e := (p.head + h) * d * d + i * d + j
        let v := at_ (res h).1 i j
        (form = 4 → (t.obj key).elem e = o.elem e)
        ∧ (form ≠ 4 → ((t.obj key).elem e).1 = (if o.bf16 then widen (v.narrow.1 % 2 ^ 16) else v.1 % 2 ^ 32)
          ∧ ((t.obj key).elem e).2.1 = v.2.1))
      ∧ (form ≤ 4 → ∃ n bs, out = some (n, bs) ∧ n = c.fld 8 4 ∧ ∀ h < p.nh, ∀ r < p.rows, ∀ j < d,
        let v := at_ (res h).2 r j
        let bytes := slice bs (((h * p.rows + r) * d + j) * p.eb) p.eb
        ofBytes (bytes.map (·.1)) = (if p.bf16 then v.narrow.1 % 2 ^ 16 else v.1 % 2 ^ 32)
          ∧ ∀ b ∈ bytes, b.2 = v.2.1))
  ∧ (∀ (s t : State) (k st reg : Nat) (c : FCmd) (hs : List W64) (fl : Flags) (out : Option (Nat × Data)) (x : Obj)
      (r : List Obj), c.op = 0x0A → runF s c k = .done t st hs reg fl out → st = 0 →
      (c.handles.drop 1).map (fun h => s.obj (handleKey h)) = x :: r →
      let o := s.obj (handleKey (c.handles.headD 0))
      let weight := fun i : Nat => ((field (word256 c.q (i / 2)) (32 * (i % 2)) 32, false, 0) : Val)
      ∀ e < o.heads * o.dim * o.dim,
        let v := ((List.range r.length).zip r).foldl (fun a y => Val.fma (weight (y.1 + 1)) (y.2.elem e) a)
          (Val.mul (weight 0) (x.elem e))
        let y := (t.obj (handleKey (c.handles.headD 0))).elem e
        y.1 = (if o.bf16 then widen (v.narrow.1 % 2 ^ 16) else v.1 % 2 ^ 32) ∧ y.2.1 = v.2.1)
  ∧ (∀ (s : State) (k : Nat) (c : FCmd), c.op = 0x12 → c.phase = 4 → runF s c k = .done s 2 [] 0 0 none)
  ∧ (∀ (s : State) (cl key : Nat), unitsAwaited s cl = true → s.evictable cl = some key →
    exec (.stateEvict cl) s = .next (s.setObj key { s.obj key with state := .pagingOut }))
  ∧ ∀ (s : State) (cl slot : Nat),
    let key := cl * 4096 + slot
    let o := s.obj key
    (o.used = true → o.state = .pagingOut →
      (s.imageFits key = true → exec (.stateEvictDone cl slot) s
        = .next (s.setObj key { o with state := .absent, image := State.imageSize o, own := [] }))
      ∧ (s.imageFits key = false → ∃ t, exec (.stateEvictDone cl slot) s = .next t
        ∧ t = { s with objs := (s.setObj key { o with state := .resident }).objs, cores := t.cores, parts := t.parts }
        ∧ ∀ k, (t.core k).fq = (s.core k).fq.map fun c =>
          if c.op = 0x12 ∧ c.phase = 1 ∧ key ∈ c.keys then { c with phase := 4 } else c))
    ∧ (o.used = true → o.state = .pagingIn →
      (∃ t, exec (.statePageinDone cl slot false) s = .next t ∧ (t.obj key).state = .absent ∧ (t.obj key).posts = []
        ∧ t.posts.length = s.posts.length + o.posts.length)
      ∧ (s.grant cl o.units = .now → slot < 4096 → ∃ t, exec (.statePageinDone cl slot true) s = .next t
        ∧ (t.obj key).state = .resident ∧ (t.obj key).hold = true ∧ (t.obj key).since = s.now ∧ (t.obj key).posts = []
        ∧ t.posts.length = s.posts.length + o.posts.length))
    ∧ (∀ new, o.moving = some new → new ≠ key → ∃ t, exec (.fwMigrationCopyDone cl slot) s = .next t
      ∧ (t.obj new).data = o.data ∧ (t.obj new).nextSeq = o.nextSeq ∧ (t.obj key).state = .stub
      ∧ (t.obj key).gen = o.gen ∧ (t.obj key).forward = makeHandle new (t.obj new))
    ∧ (o.used = true → o.hold = true → (∀ e ∈ s.objs, e.2.moving ≠ some key) →
      (64000 ≤ s.passed o.since →
        exec (.fwResidencyHoldExpire cl slot) s = .next (s.setObj key { o with hold := false }))
      ∧ (s.passed o.since < 64000 → exec (.fwResidencyHoldExpire cl slot) s = .next s))
    ∧ ∀ elem, o.holds = true → elem < o.heads * o.dim * o.dim → slot < 4096 →
      (∃ t, exec (.stateSramEccError cl slot elem true) s = .next t ∧ t = { s with objs := t.objs }
        ∧ (Table.look (t.obj key).data elem).map (·.poison) = some true)
      ∧ ∃ t, exec (.stateSramEccError cl slot elem false) s = .next t ∧ t = { s with chips := t.chips }

/-! ## Slots X and G -/

/-- R196, R223, R226, R313, R314: an X or G command whose registers are free, issued by a block that is not
speculative on a core that holds fewer than 16, completes with the command accepted: it holds its copies, its busy
bits, its extents in the core's own scratchpad and the bytes it stores, or the status FORMAT when a field is out of
its limits. Nothing moves yet, but a `grecv` pairs at once with a descriptor that is there (R322). -/
def Obligations.CommandsAccepted : Prop :=
  ∀ (s : State) (g : Guard) (t f : BitVec 4) (sr x : BitVec 3) (i p e w : Bool) (m : BitVec 2), s.me.guarded g = true →
    s.me.xq.length < 16 → s.speculative = none →
    ∀ y ∈ xCommands s g t sr f i p e w x m ++ gCommands s g t f p e w sr m, ∀ (word : BitVec 32) (sl : Slot),
      y.1.encode = some word → y.1.slot? = some sl →
      let c0 := newCmd s ⟨sl, word⟩
      let good := s.goodCompletion s.here c0 && y.2.good c0
      s.me.clear (y.2.busy c0) →
        ∃ c : Cmd, exec y.1 s = .next (if c.slotG = true ∧ c.op = 0x11
            then pairMailbox (s.withCommand c) c.own.part s.here c.mailbox else s.withCommand c) ∧ c.copied s y.1 ∧ c.busy = y.2.busy c0 ∧ c.phase = 0
          ∧ c.status = (if good then none else some 6)
          ∧ (good = true → c.rd = localSide s (y.2.src c0) ∧ c.wr = localSide s (y.2.dst c0) ∧ c.data = y.2.data c0)

/-- R217, R222, R316, R319: `xunsub` completes with its command accepted and its ring released, `gspd` with its
command accepted and the sparse engine started, a collective with its command accepted and counted in its group, and
`xwait` with nothing once what it names is free. -/
def Obligations.CommandsWithEffects : Prop :=
  ∀ (s : State) (g : Guard) (u f : BitVec 4) (sr x : BitVec 3) (i p e : Bool), s.me.guarded g = true →
    (s.me.xq.length < 16 → s.speculative = none →
      (∃ t c, exec (.xunsub g sr f i p e x) s = .next t ∧ c ∈ t.me.xq ∧ c.copied s (.xunsub g sr f i p e x)
        ∧ t.mem = s.mem
        ∧ (c.status = none → ∀ n, s.ringIndexed s.here x = some n → c.phase = 1 ∧ c.value = BitVec.ofNat 64 n
          ∧ t.rings = (s.releaseRing n).rings))
      ∧ (∃ t c, exec (.gspd g f p e x sr) s = .next t ∧ c ∈ t.me.xq ∧ c.copied s (.gspd g f p e x sr)
        ∧ (s.me.spx.busy = true → c.status = some 6 ∧ t.me.spx = s.me.spx)
        ∧ (s.me.spx.busy = false → c.status = none → t.me.spx.busy = true ∧ t.me.spx.base = c.addr
          ∧ t.me.spx.count = c.stf 1 0 32 ∧ t.me.spx.next = 0 ∧ t.me.spx.cmd = c.id ∧ t.me.spx.rate = x.toNat + 1
          ∧ t.me.spx.queue = s.me.spx.queue))
      ∧ ∀ y ∈ [Instr.gcar g u f p e sr, .gcred g u f p e sr, .gcbc g u f p e sr, .gcag g u f p e sr],
        ∀ word, y.encode = some word →
        let c0 := newCmd s ⟨.G, word⟩
        let l := groupList s c0.own.part c0.group
        s.absentPage l.1 l.2 = none → s.goodCompletion s.here c0 = true → goodCollective s c0 = true →
          ∃ t c, exec y s = .next t ∧ c ∈ t.me.xq ∧ c.copied s y ∧ c.status = none
            ∧ c.value = BitVec.ofNat 64 ((Table.look (s.part c.own.part).counts (u.toNat * 2 ^ 16 + s.here % 2 ^ 16)).getD 0))
    ∧ ∀ (r : BitVec 4) (kd : BitVec 2) (v4 : Bool), kd ≠ 3 → (v4 = true → kd = 1) →
      let res := if kd = 0 then Res.tile r.toNat else if kd = 1 then .vec (r.toNat + 16 * ofBool v4) else .region r.toNat
      (s.me.canWrite res = true → exec (.xwait g r kd v4) s = .next s)
      ∧ (s.me.canWrite res = false → exec (.xwait g r kd v4) s = .next (s.held false))

/-- R223, R228, R232, R314, R328: a command whose turn has come goes on, and completes with what it has come to once the
earlier groups' accesses let it report; the core then holds it no more, its TSTAT tells the status, and its flag rises
by one when PE is set. A command with a fixed status ends with that status. R205 to R216, R347: an X command that loads, stores,
copies or fills begins with the bytes of its rows or extents; what is read takes its place among the bytes moved, and what is
written lies where its piece does; a load ends with the bytes in their places in the tile, the vector register or the weight
buffer and with every other byte as before; `xsub` and `xpub` register a ring. -/
def Obligations.CommandCompletion : Prop :=
  (∀ (s t : State) (k id : Nat) (c : Cmd) (v : Verdict), s.commandAt k id = some c → s.samplerTurn k c = true →
    let reported := fun (u : State) (w : Verdict) => if u.mayReport k c then u.complete k c w else s
    (c.status = none → s.mayRun k c = true →
      (c.slotG = false → (runX k s c = .done t v → exec (.xCommandComplete k id) s = .next (reported t v))
        ∧ (runX k s c = .wait t → exec (.xCommandComplete k id) s = .next t))
      ∧ (c.slotG = true → (runG k s c = .done t v → exec (.gCommandComplete k id) s = .next (reported t v))
        ∧ (runG k s c = .wait t → exec (.gCommandComplete k id) s = .next t)))
    ∧ (c.status ≠ none →
      (c.slotG = false → exec (.xCommandComplete k id) s = .next (reported s c.fixedVerdict))
      ∧ (c.slotG = true → leaveG k s c = .done t v → exec (.gCommandComplete k id) s = .next (reported t v)))
    ∧ let u := if c.pe then t.promiseBefore c.own.part k c.ord (t.reportScope k c k) else t
      let r := (u.coreOf c.own.part k).r
      let z := (t.complete k c v).coreOf c.own.part k
      z.xq = (u.coreOf c.own.part k).xq.filter (fun x => x.id != c.id)
      ∧ z.r.tstat = tstatAfter r.tstat c.op v.status
      ∧ z.r.cf = (if c.pe then r.cf.set c.flag.toFin (BitVec.ofNat 16 (min 0xFFFF (r.cf[c.flag.toFin].toNat + 1))) else r.cf))
  ∧ (∀ (s : State) (k : Nat) (c : Cmd), c.job = none →
    let start := s.startsLoad k c (runX k s c)
    let write := s.startsStore k c (runX k s c)
    let rows := (List.range c.rows).flatMap fun r => runs (c.addr + r * c.pitch) c.rowBytes
    (c.op = 0x01 ∨ c.op = 0x02 → start rows)
    ∧ (c.op = 0x03 → c.rowBytes < c.pitch → c.data.length = c.rows * c.rowBytes → write rows (fun _ => c.data) none)
    ∧ (c.op = 0x04 → start (runs c.addr (c.stf 2 0 13)))
    ∧ (c.op = 0x05 → write (runs c.addr (c.stf 2 0 13)) (fun _ => c.data) none)
    ∧ (c.op = 0x06 → start (runs c.addr (c.stf 2 0 19)))
    ∧ (c.op = 0x09 → write (runs c.addr (c.stf 2 0 40))
        (fun ps => ps.flatMap fun p => (List.range p.len).map fun i =>
          ((word256 c.stg 1).extractLsb' (8 * ((p.va + i) % 8)) 8, false))
        (if c.fea = 0 then none else some (c.fea == 1)))
    ∧ (c.op = 0x08 → c.mxf = 0 → ∀ u d a b w,
      let src := runs c.addr c.copyLen
      let dst := runs (c.stf 1 0 57) c.copyLen
      s.translate k c (src ++ dst) = (u, d, true) → u.planOf k d .load src = ⟨a, none⟩ →
      u.planOf k d .store dst = ⟨b, none⟩ → lenOf a = lenOf b →
      let z := pairPieces (a.length + b.length + 2 * lenOf a) (cutTo (lenOf a) a) (cutTo (lenOf a) b)
      u.absentIn (z.map (·.1) ++ z.map (·.2)) = [] → (u.touchPages (z.map (·.1))).readyPages (z.map (·.2)) = .ok w →
      runX k s c = .wait (((w.noteFrames k d.own (z.map (·.1) ++ z.map (·.2))).keepOrder d.own.part k d.ord none).setCmd k
        { d with job := some ⟨partsFrom 1 0 (z.map (·.1)), partsFrom 1 0 (z.map (·.2)),
            List.replicate (lenOf a) (0, false), false, none, .moved none none (lenOf a), none, [], false⟩ }))
    ∧ (c.op = 0x0A ∨ c.op = 0x0B → c.phase = 0 → c.ringMode ≠ 3 → (s.ringsOf k).length < 8 →
      let e := homeExtent (word256 c.stg 1)
      (∀ r ∈ s.ringsOf k, r.2.index ≠ c.ringIndex
        ∧ overlap e.1 e.2 (homeExtent r.2.desc[1]).1 (homeExtent r.2.desc[1]).2 = false) →
      ∀ n, s.freeRing (clusterOf k) = some n → ∃ t r,
        runX k s c = (if c.ringMode = 1 then .done t ⟨0, 0, 0, 0, false, false⟩ else .wait t) ∧ t.ring? n = some r
        ∧ r.core = k ∧ r.index = c.ringIndex ∧ r.next = 0 ∧ r.flights = [] ∧ r.ext = []
        ∧ r.desc = #v[word256 c.stg 0, word256 c.stg 1, word256 c.stg 2, word256 c.stg 3]
        ∧ r.started = decide (c.ringMode = 1) ∧ r.peer = none))
  ∧ (∀ (s : State) (k : Nat) (c : Cmd) (j : Job) (p : Part),
    (p.off + p.piece.len ≤ j.buf.length → (s.readParts k c j [p]).2.buf.length = j.buf.length ∧ ∀ i,
      (s.readParts k c j [p]).2.buf[i]? = (if p.off ≤ i ∧ i < p.off + p.piece.len then (s.readPiece k c p.piece)[i - p.off]?
        else j.buf[i]?))
    ∧ (∀ ma, p.piece.target = .mem ma → s.refusedAt p.piece.ns p.piece.target = false → ∀ i < p.piece.len,
      (s.readPiece k c p.piece)[i]? = some (Memory.read s.mem (ma + i), s.badBeat (ma + i)))
    ∧ (p.off + p.piece.len ≤ j.buf.length → ∀ ma, p.piece.target = .mem ma → regionOf ma = .tiered →
      s.refusedIn [p.piece] = none →
      let u := s.servePiece p.piece
      let w := (u.placeForWrite (pageOf ma) p.piece.attr).getD u
      u.refusedAt p.piece.ns p.piece.target = false → (∀ x ∈ w.hbm, x.2.retired = []) → ∀ a,
        Memory.read (s.writeJob c.own j [p]).1.mem a
          = if ma ≤ a ∧ a < ma + p.piece.len then (j.buf.getD (p.off + (a - ma)) (0, false)).1 else Memory.read w.mem a))
  ∧ ∀ (s : State) (k : Nat) (c : Cmd) (j : Job), c.job = some j → j.rd = [] → j.wr = [] →
    let after := fun (t : State) => t.coreOf c.own.part k
    let old := s.coreOf c.own.part k
    let byte := fun i => j.buf.getD i (0, false)
    (c.op ∈ [0x03, 0x05, 0x08, 0x09] → runX k s c = .done s j.result)
    ∧ (∀ tr : Bool, c.op = (if tr then 0x02 else 0x01) → j.buf.length = c.rows * c.rowBytes → c.rows ≤ 64 →
      c.rowBytes ≤ 256 →
      let e := 2 ^ c.stf 1 48 2
      (tr = true → c.rowBytes % e = 0 ∧ c.rowBytes / e ≤ 64 ∧ c.rows * e ≤ 256) →
      let at_ := fun r b => if tr then 256 * (b / e) + e * r + b % e else 256 * r + b
      ∃ t, runX k s c = .done t j.result
        ∧ (∀ r < c.rows, ∀ b < c.rowBytes,
          (getReg (after t).r.t (c.fld 16 4) ⟨0, 0⟩).get (at_ r b) 1 = (byte (r * c.rowBytes + b)).1.toNat
          ∧ (getReg (after t).r.t (c.fld 16 4) ⟨0, 0⟩).bad (at_ r b) 1 = (byte (r * c.rowBytes + b)).2)
        ∧ ∀ o < 16384, (∀ r < c.rows, ∀ b < c.rowBytes, o ≠ at_ r b) →
          (getReg (after t).r.t (c.fld 16 4) ⟨0, 0⟩).get o 1 = (getReg old.r.t (c.fld 16 4) ⟨0, 0⟩).get o 1)
    ∧ (c.op = 0x04 → j.buf.length ≤ 4096 → ∃ t, runX k s c = .done t j.result ∧ ∀ b < 4096,
      let v := getReg (after t).r.v c.vec ⟨0, 0⟩
      let u := getReg old.r.v c.vec ⟨0, 0⟩
      v.bits.extractLsb' (8 * b) 8 = (if b < j.buf.length then (byte b).1 else u.bits.extractLsb' (8 * b) 8)
      ∧ v.poison.getLsbD b = (if b < j.buf.length then (byte b).2 else u.poison.getLsbD b))
    ∧ (c.op = 0x06 → j.buf.length ≤ (16 - c.stf 1 0 4) * 16384 → ∃ t, runX k s c = .done t j.result
      ∧ ∀ i < j.buf.length, (getReg (after t).wb (c.stf 1 0 4 + i / 16384) WRegion.empty).byte (i % 16384) = byte i)

/-- R316, R319 to R322, R347: the events of the gather engine: the sparse engine takes the units of its metadata one by one, a
clear bit as nothing and a set bit or a delta as a position that is pushed once there is room, up to its rate in one step; a
contribution is made ready, read word by word, and joins its instance; an instance, a descriptor and a `grecv` time out after a
millisecond; a descriptor enters its mailbox, where it pairs with a `grecv` that waits, or finds it full. R315: `ggath` and
`gscat` move each element at BASE plus its shifted index, and `ggath` zeroes what it has no index for. R319 to R321: a
collective combines its members' elements in the order of arrival, integers modulo their width, sums of narrow floats in FP32
rounded once, and completes for a member once its whole result is written. R328 to R332: the sampling commands leave in their
sets, drawn words and scratchpad words what the rules compute. -/
def Obligations.GatherEvents : Prop :=
  (∀ (s : State) (k : Nat) (c : Cmd), s.inImage c.own.part k = false → (s.core k).spx.busy = true → c ∈ (s.core k).xq →
    (∀ d ∈ (s.core k).xq, d.id = c.id → d = c) → c.slotG = true → c.id = (s.core k).spx.cmd → c.status = none →
    s.mayRun k c = true →
    (∀ p ∈ s.parts, s.isOut p.1 = true → ∀ co, Table.look p.2.image k = some co → co.spx.busy = false) →
      exec (.sparseIndexPush k) s
        = .next (decodeMeta k 64 (s.core k).spx.rate (s.keepOrder c.own.part k c.ord none) c))
  ∧ (∀ (s : State) (k n left : Nat) (c : Cmd),
    let p := c.own.part
    let x := (s.coreOf p k).spx
    let put := fun (u : State) (y : SparseEngine) => u.setCoreOf p k { u.coreOf p k with spx := y }
    let run := if x.mode = 0 then (x.base + x.next / 8, 1) else (x.base + 2 * x.next, 2)
    (x.count ≤ x.next → decodeMeta k (n + 1) left s c = (put s { x with busy := false }).setCmd k
      { c with phase := 1, value := BitVec.ofNat 64 x.pushed })
    ∧ (x.next < x.count → left = 0 ∨ 256 ≤ x.queue.length ∧ x.mode ≠ 0 → decodeMeta k (n + 1) left s c = s)
    ∧ (x.next < x.count → left ≠ 0 → x.mode = 0 ∨ x.queue.length < 256 → ∀ u d m, readMeta s k c x = .value u d m →
      (x.mode = 0 → m ≠ 1 → decodeMeta k (n + 1) left s c = decodeMeta k n left (put u { x with next := x.next + 1 }) d)
      ∧ (x.mode = 0 → m = 1 → 256 ≤ x.queue.length → decodeMeta k (n + 1) left s c = u)
      ∧ (x.mode = 0 → m = 1 → x.queue.length < 256 → decodeMeta k (n + 1) left s c
        = decodeMeta k n (left - 1) (put u { x with
            next := x.next + 1, queue := x.queue ++ [BitVec.ofNat 32 x.next], pushed := x.pushed + 1 }) d)
      ∧ (x.mode ≠ 0 → decodeMeta k (n + 1) left s c
        = decodeMeta k n (left - 1) (put u { x with
            next := x.next + 1, pos := x.pos + m + 1, queue := x.queue ++ [BitVec.ofNat 32 (x.pos + m)]
            pushed := x.pushed + 1 }) d))
    ∧ ∀ u d ps, s.translate k c (runs run.1 run.2) = (u, d, true) → u.planOf k d .load (runs run.1 run.2) = ⟨ps, none⟩ →
      u.absentIn ps = [] → u.refusedIn ps = none → (∀ r ∈ ps, u.partFree k d false r = true) →
      let m := ofBytes ((u.readPieces k d ps).map (·.1))
      ∃ w, readMeta s k c x = .value w d (if x.mode = 0 then m / 2 ^ (x.next % 8) % 2 else m))
  ∧ (∀ (s : State) (k id : Nat) (c : Cmd), s.commandAt k id = some c → c.slotG = true → 8 ≤ c.op → c.op ≤ 11 →
    c.phase = 0 → c.status = none → s.mayRun k c = true →
    (∀ (w u : State) (d : Cmd), c.job = none →
      s.translate k c (sourceRuns (c.rankOf k) c ++ resultRuns (c.rankOf k) c.members.length c) = (w, d, true) →
      let a := w.planOf k d .load (sourceRuns (c.rankOf k) c)
      let b := w.planOf k d .store (resultRuns (c.rankOf k) c.members.length c)
      w.absentIn (a.pieces ++ b.pieces) = [] → a.fault = none → b.fault = none →
      w.refusedIn (a.pieces ++ b.pieces) = none → (w.touchPages a.pieces).readyPages b.pieces = .ok u →
        exec (.collectiveContribution k id) s
          = .next (((u.noteFrames k d.own (a.pieces ++ b.pieces)).keepOrder d.own.part k d.ord none).setCmd k { d with
            job := some ⟨partsFrom 1 0 (packetsOf false a.pieces), partsFrom 1 0 (packetsOf true b.pieces),
              List.replicate (lenOf a.pieces) (0, false), false, none, .of stOk (lenOf b.pieces), none, [], false⟩ }))
    ∧ (∀ j, c.job = some j → j.world = none → j.rd ≠ [] → s.jobLate k c { j with wr := [] } = false →
      exec (.collectiveContribution k id) s = .next (s.jobStep k c k c j false))
    ∧ ∀ j x, c.job = some j → j.world = none → j.rd = [] → instanceOf s c = some x → x.failed = none →
      x.differs c = false → x.got.length < x.size → s.passed x.since < 1000000 →
        let y := { x with got := x.got ++ [⟨k, c.rankOf k, j.buf⟩] }
        let lost := y.got.length = y.size ∧ ∃ m ∈ contributors s y, cannotWrite s m = true
        (¬lost → exec (.collectiveContribution k id) s = .next ((s.setColl y).setCmd k { c with phase := 1 }))
        ∧ (lost → exec (.collectiveContribution k id) s
          = .next ((s.setColl { y with failed := some 3, got := [] }).setCmd k { c with phase := 1 })))
  ∧ (∀ (s : State) (id : Nat), ∃ cs, exec (.collectiveTimeout id) s = .next { s with colls := cs }
    ∧ cs = s.colls.map fun x => if x.id = id ∧ x.failed = none ∧ x.got.length < x.size ∧ 1000000 ≤ s.passed x.since
        then { x with failed := some 8, got := [] } else x)
  ∧ (∀ (s : State) (k id j : Nat) (c : Cmd), s.commandAt k id = some c → c.slotG = true →
    let p := c.own.part
    (c.op = 0x10 → c.phase = 0 → c.status = none → s.mayRun k c = true → receiverOf s k c = some j →
      (c.own.ns && s.secureCluster (clusterOf j)) = false →
      let u := s.keepOrder p k c.ord none
      let co := u.coreOf p j
      let box := getReg co.mbox c.mailbox []
      (box.length < 16 → exec (.mailboxDescriptorArrive k id) s = .next (pairMailbox
          ((u.setCoreOf p j (co.setMailbox c.mailbox (box ++ [⟨p, k, c.id, c.messageLen, s.now⟩]))).setCmd k
            { c with phase := 1 }) p j c.mailbox))
      ∧ (16 ≤ box.length → exec (.mailboxDescriptorArrive k id) s
          = .next (u.endWith k { c with phase := 3 } ⟨2, 0, 0, 0, false, false⟩)))
    ∧ (c.op = 0x10 → c.phase = 1 → receiverOf s k c = some j →
      let co := s.coreOf p j
      let box := getReg co.mbox c.mailbox []
      (∃ d ∈ box, d.cmd = id ∧ d.core = k ∧ 1000000 ≤ s.passed d.since) →
        exec (.mailboxDescriptorTimeout k id) s = .next ((s.setCoreOf p j (co.setMailbox c.mailbox
          (box.filter fun d => !(d.cmd == id && d.core == k)))).endWith k { c with phase := 3 }
            ⟨8, 0, 0, 0, false, false⟩))
    ∧ (c.op = 0x11 → c.status = none → c.phase = 0 → 1000000 ≤ s.passed c.since →
      exec (.grecvTimeout k id) s = .next (s.endWith k { c with phase := 3 } ⟨8, 0, 0, 0, false, false⟩))
    ∧ ∀ b, c.op = 0x10 ∨ c.op = 0x11 ∧ c.phase = 3 → c.job = some b → b.ended = true → runG k s c = .done s b.result)
  ∧ (∀ (s : State) (k : Nat) (c : Cmd), c.phase = 1 → c.op = 0x01 ∨ c.op = 0x02 →
    let e := 2 ^ c.stf 1 48 2
    let at_ := fun i : BitVec 32 => (c.addr + i.toNat * 2 ^ c.stf 1 32 6) % 2 ^ 57
    let elems := c.idx.flatMap fun i =>
      if at_ i % e = 0 then [(at_ i, e)] else (List.range e).map fun j => ((at_ i + j) % 2 ^ 57, 1)
    (c.op = 0x01 → c.job = none → s.startsLoad k c (runG k s c) elems)
    ∧ (c.op = 0x02 → c.job = none → s.startsStore k c (runG k s c) elems (fun _ => c.data) none)
    ∧ ∀ j, c.job = some j → j.rd = [] → j.wr = [] →
      (c.op = 0x02 → c.idx.length = c.count → runG k s c = .done s j.result)
      ∧ (c.op = 0x01 → c.idx.length ≤ c.count → c.count * e ≤ 16384 → j.buf.length = c.idx.length * e →
        ∃ t v, runG k s c = .done t v ∧ v.status = j.result.status ∧ ∀ i < c.count * e,
          let x := getReg (t.coreOf c.own.part k).r.t (c.fld 12 4) ⟨0, 0⟩
          let y := j.buf.getD i (0, false)
          x.get i 1 = (if i < c.idx.length * e then y.1.toNat else 0)
          ∧ x.bad i 1 = (decide (i < c.idx.length * e) && (y.2 || (c.data.getD (i / e) (0, false)).2))))
  ∧ (∀ (type op i : Nat) (cs : List Data),
    let e := typeBytes type
    let elem := fun d : Data => ofBytes ((slice d (i * e) e).map (·.1))
    let z := combineElement type op i cs
    let signed := fun x => asInt (typeSigned type) (8 * e) x
    (z.2 = cs.any fun d => (slice d (i * e) e).any (·.2))
    ∧ ∀ x r, cs.map elem = x :: r →
      (type < 8 → op = 0 → z.1.1 % 2 ^ (8 * e) = (x :: r).sum % 2 ^ (8 * e))
      ∧ (type < 8 → op = 1 ∨ op = 2 → x < 2 ^ (8 * e) → (∀ y ∈ r, y < 2 ^ (8 * e)) → z.1.1 ∈ x :: r
        ∧ ∀ y ∈ x :: r, if op = 1 then signed z.1.1 ≤ signed y else signed y ≤ signed z.1.1)
      ∧ (∀ f, fmtOf type = some f → op ≠ 0 → z.1.1 = r.foldl (fun a y => (f.minMax (op == 2) a y).bits) x)
      ∧ (type = 10 ∨ type = 11 → op = 0 →
        z.1.1 = r.foldl (fun a y => ((if type = 10 then f32 else f64).add 0 a y).bits) x)
      ∧ (type = 8 ∨ type = 9 → op = 0 → z.1.1 = (convertElement 10 type 0 false 0
        (r.foldl (fun a y => (f32.add 0 a (convertElement type 10 0 false 0 y).bits).bits)
          (convertElement type 10 0 false 0 x).bits)).bits))
  ∧ (∀ (s : State) (k : Nat) (c : Cmd) (j : Job) (x : Collective), 8 ≤ c.op → c.op ≤ 11 → c.job = some j →
    instanceOf s c = some x →
    let byRank := fun n => ((x.got.find? fun y => y.rank == n).map (·.bytes)).getD []
    let e := typeBytes c.collType
    let z := instanceResult c x
    (c.op = 0x0A → z = (byRank c.root, 0)) ∧ (c.op = 0x0B → z = ((List.range x.got.length).flatMap byRank, 0))
    ∧ (c.op < 0x0A → ∀ i < c.collLen / e,
      let y := combineElement c.collType c.collOp i (x.got.map (·.bytes))
      slice z.1 (i * e) e = (toBytes e y.1.1).map fun b => (b, y.2))
    ∧ (c.phase = 1 → x.failed = none → x.size ≤ x.got.length → c.op ≠ 0x09 ∨ c.rankOf k = c.root →
      runG k s c = .wait (s.setCmd k { c with phase := 3, job := some (resultJob j z.1) }))
    ∧ (c.phase = 3 → j.rd = [] → j.wr = [] →
      runG k s c = .done ((leaveInstance s x k).accrue c.own z.2) j.result)
    ∧ ∀ st, c.phase = 1 → x.failed = some st → runG k s c = .done (leaveInstance s x k) ⟨st.toNat, 0, 0, 0, false, false⟩)
  ∧ (∀ (a b : Candidate) (l : List Candidate),
    let x := f32.value a.logit.toNat
    let y := f32.value b.logit.toNat
    a.before b = (y.lt x || (!x.lt y && decide (a.id.toNat < b.id.toNat)))
    ∧ orderSet [] = [] ∧ ∃ u w, orderSet l = u ++ w ∧ orderSet (a :: l) = u ++ a :: w ∧ (∀ d ∈ u, a.before d = false)
      ∧ ∀ d r, w = d :: r → a.before d = true)
  ∧ (∀ (cs : List Candidate),
    let ws := (weighSet cs).1
    let weight := fun y : Candidate => (expValue (logitDiff y.logit.toNat (cs.headD ⟨0, 0, 0⟩).logit.toNat).1).bits
    ws.map (·.1) = cs.map (fun y => { y with weight := BitVec.ofNat 32 (weight y) })
    ∧ (∀ y r, cs = y :: r → (ws.map (·.2)).head? = some (weight y))
    ∧ ∀ i (h : i + 1 < cs.length), ∀ z, (ws.map (·.2))[i]? = some z →
      (ws.map (·.2))[i + 1]? = some (f32.add 0 z (weight cs[i + 1])).bits)
  ∧ ∀ (s : State) (k : Nat) (c : Cmd) (bytes : List Byte),
    let p := c.own.part
    let old := getReg (s.coreOf p k).sets (c.fld 16 4) CandidateSet.empty
    let left := fun (t : State) => getReg (t.coreOf p k).sets (c.fld 16 4) CandidateSet.empty
    let ok := fun n : Nat => (⟨0, n, 0, 0, false, false⟩ : Verdict)
    let lane := fun i => ofBytes (slice bytes (4 * i) 4)
    let ws := (weighSet old.cands).1
    (c.op = 0x20 → c.hasRead bytes → bytes.length = 4 * c.stf 1 0 32 →
      let all := (List.range (c.stf 1 0 32)).map fun i => (⟨BitVec.ofNat 32 i, BitVec.ofNat 32 (lane i), 0⟩ : Candidate)
      let cs := (orderSet (all.filter fun y => !f32.isNan y.logit.toNat)).take (min (c.stf 1 32 32) (c.stf 1 0 32))
      ∃ t, runG k s c = .done t (ok cs.length) ∧ left t = { old with cands := cs })
    ∧ (c.op = 0x21 →
      let cs := orderSet (old.cands.map fun y =>
        { y with logit := BitVec.ofNat 32 (f32.div 0 y.logit.toNat (c.stf 0 0 32)).bits })
      ∃ t, runG k s c = .done t (ok cs.length) ∧ left t = { old with cands := cs })
    ∧ (c.op = 0x22 → old.cands = [] → runG k s c = .done s (ok 0))
    ∧ (c.op = 0x22 → old.cands ≠ [] →
      let cut := f32.value (f32.mul 0 (c.stf 0 0 32) (ws.getLastD (⟨0, 0, 0⟩, 0)).2).bits
      let reached := fun i => cut.lt (f32.value (ws.getD i (⟨0, 0, 0⟩, 0)).2) || cut.eq (f32.value (ws.getD i (⟨0, 0, 0⟩, 0)).2)
      ∃ t m, 1 ≤ m ∧ m ≤ ws.length ∧ (∀ i, i + 1 < m → reached i = false) ∧ (m < ws.length → reached (m - 1) = true)
        ∧ runG k s c = .done t (ok m) ∧ left t = { old with cands := (ws.map (·.1)).take m })
    ∧ (c.op = 0x23 → c.hasRead bytes →
      let cs := old.cands.filter fun y => decide (y.id.toNat < c.stf 1 0 32)
        && (bytes.getD (y.id.toNat / 8) 0).getLsbD (y.id.toNat % 8)
      ∃ t, runG k s c = .done t (ok cs.length) ∧ left t = { old with cands := cs })
    ∧ (c.op = 0x24 → c.hasRead bytes → old.cands = [] → ∃ t,
      runG k s c = .done t (ok 0x1FFFFFFFF) ∧ left t = { old with drawn := 0x1FFFFFFFF })
    ∧ (c.op = 0x24 → c.hasRead bytes → bytes.length = 16 → old.cands ≠ [] →
      let off := field (word256 c.stg 0) 0 20
      off % 8 = 0 → off + 16 ≤ 2 ^ 20 →
      let key := BitVec.ofNat 64 (ofBytes (bytes.take 8))
      let ctr := BitVec.ofNat 64 (ofBytes (bytes.drop 8))
      let z0 : W64 := key + ctr * 0x9E3779B97F4A7C15
      let z1 := (z0 ^^^ (z0 >>> 30)) * 0xBF58476D1CE4E5B9
      let z2 := (z1 ^^^ (z1 >>> 27)) * 0x94D049BB133111EB
      let u := ((z2 ^^^ (z2 >>> 31)) >>> 32).toNat
      let total := f32.value (ws.getLastD (⟨0, 0, 0⟩, 0)).2
      let r := f32.value (f32.ofExact 0 (total.mul (.fin false u (-32)))).bits
      let above := fun i => r.lt (f32.value (ws.getD i (⟨0, 0, 0⟩, 0)).2)
      ∃ t i y, ws[i]? = some y ∧ (∀ n < i, above n = false) ∧ (above i = true ∨ i + 1 = ws.length)
        ∧ runG k s c = .done t (ok y.1.id.toNat)
        ∧ left t = { cands := ws.map (·.1), drawn := y.1.id.zeroExtend 64 }
        ∧ (t.coreOf p k).r.spadData (off + 8) 8 = clean (toBytes 8 (ctr + 1).toNat))
    ∧ (c.op = 0x25 → c.phase = 0 → c.hasRead bytes → bytes.length = 4 * c.set →
      let holds := fun i => (getReg (s.coreOf p k).sets i CandidateSet.empty).cands.any fun y => y.id.toNat == lane i
      ((∀ i < c.set, holds i = true) →
        runG k s c = .wait (s.setCmd k { c with phase := 1, job := none, value := BitVec.ofNat 64 c.set }))
      ∧ ∀ a < c.set, (∀ i < a, holds i = true) → holds a = false → ∃ j, c.job = some j
        ∧ runG k s c = raiseGeneration s k c j
          (if (getReg (s.coreOf p k).sets a CandidateSet.empty).cands = [] then c.set + 1 else a))
    ∧ (c.op = 0x26 → c.job = none → s.performedBefore p k c.ord 5 = true → ∀ b off,
      s.window (chipOf k) (BitVec.ofNat 64 c.addr) 8 = some (b, off) → ∃ (t : State) (d : Cmd) (j : Job), runG k s c = .wait (t.setCmd k d)
        ∧ d = { c with job := some j } ∧ j.full = some true ∧ j.rd = [] ∧ j.buf = clean (toBytes 8 old.drawn.toNat)
        ∧ j.wr.map (fun r => (r.piece.target, r.piece.len)) = [(.spad b off, 8)])

/-- R326, R327, R418, R440: an allocation takes the lowest granule-aligned address at which its length, rounded up to the
granule, lies in the arena clear of the live allocations; a length of 0 takes nothing and answers 0. Where none fits, or the
arena is unconfigured, `galloc` reports it in P and `galloc.f` raises ALLOC_EXHAUSTED, or waits where another access of its
group has performed (log entry 139). An arena is configured by its entry: a length above 0, and base, length and granule
within their limits. `gfree` frees the allocation that begins at its address, and `gretract` those of the launch from a block
index on. -/
def Obligations.Allocation : Prop :=
  ∀ (s : State) (g : Guard) (a : BitVec 4) (d sr : BitVec 6) (p : BitVec 4) (x : W64), s.me.guarded g = true →
    s.reads sr x →
    let pt := s.partOf s.here
    let ctx := s.me.ctx
    let at_ := field (s.part pt).arenatab 12 44 * 4096 + 256 * ctx.toNat + 16 * a.toNat
    let w0 := s.mem64 at_
    let w1 := s.mem64 (at_ + 8)
    let unit := 2 ^ (field w1 60 4 + 6)
    let configured := field w1 0 57 ≠ 0 ∧ field w1 60 4 ≤ 10 ∧ field w0 0 57 % unit = 0 ∧ field w1 0 57 % unit = 0
      ∧ field w0 57 7 = 0 ∧ field w1 57 3 = 0
    let ready := writable s d = true ∧ s.absentPage at_ 16 = none
    let exhausted := exec (.galloc g a d sr p) s = .next (s.setMe ((s.me.setS d (known 0)).setP p true))
      ∧ exec (.gallocR g a d sr p) s = .next (s.setMe ((s.me.setS d (known 0)).setP p true))
      ∧ ∀ i ∈ [Instr.gallocF g a d sr, .gallocFR g a d sr], ∀ word, i.encode = some word →
        (s.me.performed = false → exec i s = .next (s.takeSync s.here .allocator (causeAt s ⟨.G, word⟩ 0x06 a.toNat x)))
        ∧ (s.me.performed = true → exec i s = .next (s.held false))
    (ready → x = 0 → (∀ i ∈ [Instr.galloc g a d sr p, .gallocR g a d sr p],
        exec i s = .next (s.setMe ((s.me.setS d (known 0)).setP p false)))
      ∧ ∀ i ∈ [Instr.gallocF g a d sr, .gallocFR g a d sr], exec i s = .next (s.setMe (s.me.setS d (known 0))))
    ∧ (ready → x ≠ 0 → ¬configured → exhausted)
    ∧ (ready → x ≠ 0 → configured →
      let base := field w0 0 57
      let len := field w1 0 57
      let gr := unit
      let n := (x.toNat + gr - 1) / gr * gr
      let fits := fun v => v % gr = 0 ∧ base ≤ v ∧ v + n ≤ base + len
        ∧ ∀ y ∈ s.liveIn pt ctx a.toNat, y.len = 0 ∨ v + n ≤ y.addr ∨ y.addr + y.len ≤ v
      let taken := fun (v : Nat) (tag : Option (Nat × W64)) =>
        s.setPart pt { s.part pt with allocs := (s.part pt).allocs ++ [⟨ctx, a, v, n, tag⟩] }
      (∀ v, fits v → (∀ u < v, ¬fits u) →
        exec (.galloc g a d sr p) s
          = .next ((taken v none).setMe ((s.me.setS d (known (BitVec.ofNat 64 v))).setP p false))
        ∧ exec (.gallocR g a d sr p) s
          = .next ((taken v (allocTag s true)).setMe ((s.me.setS d (known (BitVec.ofNat 64 v))).setP p false))
        ∧ exec (.gallocF g a d sr) s = .next ((taken v none).setMe (s.me.setS d (known (BitVec.ofNat 64 v))))
        ∧ exec (.gallocFR g a d sr) s
          = .next ((taken v (allocTag s true)).setMe (s.me.setS d (known (BitVec.ofNat 64 v)))))
      ∧ ((∀ v, ¬fits v) → exhausted))
    ∧ (let hit := fun (y : Alloc) => y.ctx == ctx && y.arena == a && y.addr == x.toNat
      exec (.gfree g a sr p) s = .next ((s.setPart pt { s.part pt with
          allocs := (s.part pt).allocs.filter fun y => !hit y }).setMe (s.me.setP p (!(s.part pt).allocs.any hit))))
    ∧ (∀ l, (s.ownerOf s.here).launch = some l → exec (.gretract g sr) s = .next (s.setPart pt { s.part pt with
        allocs := (s.part pt).allocs.filter fun y => match y.tag with
          | some q => !(q.1 == l && decide (x.toNat ≤ q.2.toNat))
          | none => true }))
    ∧ ((s.ownerOf s.here).launch = none → exec (.gretract g sr) s = .next s)

/-! ## Leaving a core, and what happens around a group -/

/-- R267, R367, R402: a leaving group whose block has nothing pending and whose tag holds completes: `end` and `end.f`
retire the block, `end.f` once its future's bank has answered, and LIVE of its crew falls by one; `yield` and `suspend`
keep its record, with the next group's PC or, from the system handler, that in `s47`, ready with CAUSE 2 and parked with
CAUSE 1, and where older records of its queue lie in the overflow ring `yield` takes a free place there (R359); `suspend` with a wake for its key
pending makes it ready at once, with CAUSE 4 and the wake's values. The core is idle at user privilege with its latches
zeroed. -/
def Obligations.LeavingBlocks : Prop :=
  ∀ (s : State) (g : Guard) (b : Block) (pc : W64), s.me.guarded g = true → s.me.blk = some b → b.squashed = false →
    s.me.mayLeave = true → s.tagFails b s.here = false → s.tagAwaited b s.here = false → (if s.me.kernel = true then s.reads 47 pc else pc = s.me.grp.next) →
    let cl := clusterOf s.here
    let idle := fun t : State => t.me.blk = none ∧ t.me.kernel = false ∧ t.me.handler = false
      ∧ t.me.r.l = Vector.replicate 8 Cell64.zero ∧ t.me.grp.status = .left ∧ t.here = s.here
    let keeps := fun (t : State) (why : Nat) (st : RecState) =>
      s.queueV cl b.rcd.queue = true → s.queueGen cl b.rcd.queue = b.rcd.gen →
      (st = .ready → s.overflowed cl b.rcd.queue = 0) →
        ∃ r, (t.cluster cl).store = (s.cluster cl).store ++ [r] ∧ r.leaves s.me b pc why st
    (exec (.endBlock g) s = .next (s.retire s.here) ∧ idle (s.retire s.here)
      ∧ (let entry := s.crewMA b.part (recCrew b.rcd.words) + 8
        s.me.pendU = [] → b.rcd.held = [] → recCrew b.rcd.words ≠ 0 → s.editing (pageOf entry) = false →
        regionOf entry = .tiered → (s.page (pageOf entry)).tier = some 0 →
          (s.retire s.here).mem = (s.writeMem64 entry ((EditOp.lower 32 32 1).apply (s.mem64 entry))).mem))
    ∧ (s.roomToLeave s.here = true →
      (s.queueV cl b.rcd.queue = false ∨ s.queueGen cl b.rcd.queue ≠ b.rcd.gen ∨ s.overflowed cl b.rcd.queue = 0 →
        ∃ t, exec (.yield g) s = .next t ∧ idle t ∧ keeps t 2 .ready)
      ∧ (∀ n, s.queueV cl b.rcd.queue = true → s.queueGen cl b.rcd.queue = b.rcd.gen →
        s.overflowed cl b.rcd.queue ≠ 0 → s.freePlace cl b.rcd.queue = some n →
        let at_ := s.overflowAt cl b.rcd.queue n
        s.edits = [] → regionOf at_ = .tiered → (s.page (pageOf at_)).tier = some 0 →
        s.me.pendU = [] → b.rcd.held = [] →
          ∃ t r, exec (.yield g) s = .next t ∧ idle t ∧ (t.cluster cl).store = (s.cluster cl).store ++ [r]
            ∧ r.uid = b.rcd.uid ∧ r.state = .overflow n ∧ field r.words[2] 4 8 = 2
            ∧ t.mem = (s.writeMem at_ (clean (recordBytes r.words))).mem)
      ∧ (wakePending s b = false → ∃ t, exec (.suspend g) s = .next t ∧ idle t ∧ keeps t 1 .parked))
    ∧ (∀ wake, oldest ((s.cluster cl).store.filter fun r =>
        r.queue == b.rcd.queue && r.state == .wake && recKey r.words == recKey b.rcd.words) = some wake →
      wake.uid ≠ b.rcd.uid → s.queueV cl b.rcd.queue = true → s.queueGen cl b.rcd.queue = b.rcd.gen →
      s.overflowed cl b.rcd.queue = 0 →
        ∃ t r, exec (.suspend g) s = .next t ∧ idle t ∧ r ∈ (t.cluster cl).store ∧ r.uid = b.rcd.uid
          ∧ r.state = .ready ∧ field r.words[2] 4 8 = 4 ∧ r.words[6] = wake.words[6] ∧ r.words[7] = wake.words[7]
          ∧ ∀ x ∈ (t.cluster cl).store, x.uid ≠ wake.uid)
    ∧ ∀ (a : BitVec 6) (x y : W64) (k off : Nat) (ns : Bool) (word : BitVec 32), s.reads a x → s.reads 2 y →
      (Instr.endF g a).encode = some word → aimWord s ⟨.C, word⟩ x 16 = .ok (k, off, ns) → s.speculative = none →
      k ≠ s.here ∨ s.me.localFree true off 16 = true →
        (∀ (w : Await) (v : W64) (bad : Bool), s.me.awaiting .C = some w → w.answer = some (v, bad, false) →
          exec (.endF g a) s = .next (s.retire s.here))
        ∧ (s.me.awaiting .C = none → ∃ acc, exec (.endF g a) s = .next (s.sendAwaited .C acc) ∧ acc.kind = .resolve
          ∧ acc.data = y ∧ acc.target = .spad k off ∧ acc.phase = .sent ∧ acc.held = true)

/-- R177, R194, R297, R98, R424, R365, R398, R400, R401: what happens around a group: its sync op, of which a post
releases at core scope (as log entry 45 reads R335), a skip by the
nullifier, the arrival of partial sums, the wait limit, a freeze cycle, the budget's cause, and the entry of a pending
cause into its handler. -/
def Obligations.IssueEvents : Prop :=
  (∀ (s : State) (f : BitVec 4) (n : BitVec 6),
    let cf := fun x : Nat => s.setMe { s.me with r := { s.me.r with cf := s.me.r.cf.set f.toFin (BitVec.ofNat 16 x) } }
    let x := s.me.r.cf[f.toFin].toNat
    let u := s.promiseBefore (s.partOf s.here) s.here s.me.ord 1
    (n.toNat ≤ x → exec (.syncWait f n) s = .next s ∧ exec (.syncTake f n) s = .next (cf (x - n.toNat)))
    ∧ exec (.syncPost f n) s = .next (u.setMe { u.me with
        r := { u.me.r with cf := s.me.r.cf.set f.toFin (BitVec.ofNat 16 (min 0xFFFF (x + n.toNat))) } })
    ∧ (x < n.toNat → s.me.limit = false → exec (.syncWait f n) s = .next (s.held true)
      ∧ exec (.syncTake f n) s = .next (s.held true))
    ∧ (x < n.toNat → s.me.limit = true → ∀ i ∈ [Instr.syncWait f n, .syncTake f n], ∃ c : Cause,
      exec i s = .next (s.takeSync s.here .check c) ∧ c.code = 0x02 ∧ c.operand = f.zeroExtend 64))
  ∧ (∀ (s : State) (bs : List (W64 × List (BitVec 32))), fetchGroup s s.me.pc = .ok bs →
    let ws := (rawWords bs).map (·.2.2.2)
    s.me.skippable (syncOf bs).1 ws = true →
      ∃ t n, exec .nullifierSkip s = .next t ∧ t = s.setMe t.me ∧ n ≤ 1
        ∧ (n = 0 ↔ (∀ w ∈ ws, (Sys2Proof.guardOf w).gp = 0) ∨ s.me.guardWritten ws + 2 ≤ s.me.fetch)
        ∧ t.me.pc = s.me.pc + BitVec.ofNat 64 (4 * (bs.map (·.2.length)).foldl (· + ·) 0)
        ∧ t.me.cycles = s.me.cycles + BitVec.ofNat 64 n ∧ t.me.fetch = s.me.fetch + 1 ∧ t.me.issue = s.me.issue
        ∧ t.me.r = { s.me.r with budget := t.me.r.budget, frzcnt := t.me.r.frzcnt })
  ∧ ∀ (s : State) (k : Nat),
    let c := s.core k
    let due := c.psums.filter fun p => decide (p.pos + 6 ≤ c.issue)
    let lost := min 0xFFFFFFFF (field c.r.pslost 0 32 + (due.length - 1 + if c.port.isSome then 1 else 0))
    ((due = [] → exec (.partialSumArrive k) s = .next (s.setCore k c))
      ∧ ∀ p, due.getLast? = some p → exec (.partialSumArrive k) s = .next (s.setCore k { c with
          psums := c.psums.filter fun p => decide (c.issue < p.pos + 6)
          port := some p
          r := { c.r with pslost := setField c.r.pslost 0 32 lost } }))
    ∧ (0 < c.r.waitlim.toNat → c.r.waitlim.toNat ≤ c.waited →
      exec (.feWaitLimit k) s = .next (s.setCore k { c with limit := true }))
    ∧ (c.r.waitlim.toNat = 0 ∨ c.waited < c.r.waitlim.toNat → exec (.feWaitLimit k) s = .next s)
    ∧ (∃ t, exec (.freezeCycle k) s = .next (s.setCore k t) ∧ t.cycles = c.cycles + 1 ∧ t.pc = c.pc
      ∧ t.r.frzcnt = BitVec.ofNat 64 (min (2 ^ 48 - 1) (field c.r.frzcnt 0 48 + 1))
      ∧ t = { c with cycles := t.cycles, waited := t.waited, charge := (0 :: c.charge).take 127,
                     r := { c.r with frzcnt := t.r.frzcnt } })
    ∧ (c.budgetDue = true → c.blk ≠ none → c.pendU.length < 16 → s.inImage (s.partOf k) k = false →
      ∃ x : Cause, exec (.budget k) s = .next (s.setCore k { c with budgetDue := false, pendU := c.pendU ++ [x] })
        ∧ x.code = 0x03 ∧ x.async = true)
    ∧ (c.stopped = false → c.kernel = false → (∀ b, c.blk = some b → b.squashed = false) →
      (∀ x rest, c.pendK = x :: rest → ∃ t, exec (.kernelTrapEntry k) s = .next (s.setCore k t) ∧ t.kernel = true
        ∧ t.trapK = trapInfo x ∧ t.pendK = rest ∧ t.pc = BitVec.ofNat 64 (field (s.part (s.partOf k)).kvec 2 55 * 4)
        ∧ t.r.s[46] = known x.operand ∧ t.r.s[47] = known c.pc ∧ t.handler = c.handler ∧ t.trapU = c.trapU
        ∧ (∀ j : Fin 40, t.r.s[j] = c.r.s[j]) ∧ (∀ j : Fin 8, t.bankK.s[j] = c.r.s[40 + j.val])
        ∧ t.r.l = Vector.replicate 8 Cell64.zero)
      ∧ ∀ x rest, c.pendK = [] → c.pendU = x :: rest → c.handler = false → c.blk ≠ none → bit c.r.uivec 0 = true →
        ∃ t, exec (.userTrapEntry k) s = .next (s.setCore k t) ∧ t.kernel = false ∧ t.handler = true
          ∧ t.trapU = trapInfo x ∧ t.pendU = rest ∧ t.pc = BitVec.ofNat 64 (field c.r.uivec 2 55 * 4)
          ∧ t.retryU = c.pc ∧ t.skipU = c.pc ∧ t.r.s[46] = known x.operand ∧ t.r.s[47] = known c.pc
          ∧ (∀ j : Fin 40, t.r.s[j] = c.r.s[j]) ∧ (∀ j : Fin 8, t.bankU.s[j] = c.r.s[40 + j.val])
          ∧ t.r.l = Vector.replicate 8 Cell64.zero)

/-! ## Steps -/

/-- R173 to R180, R194: a core that reaches a group of one slot word, which the words at its PC decode to, runs that
instruction: where its meaning leaves the core running, or has left its block or handler, the step is the meaning's
state, past the group, unless the group has to stall for slot V or for a command too many; where it has trapped or been held,
the step is that state with the group's cycles counted, but that once the group's own access has performed it is held where it
would trap (log entry 139); a group that fetch may skip is skipped; a cycle that would exceed the limit is a freeze cycle. An
event that is due is what the step does. -/
def Obligations.StepRunsDecodedInstruction : Prop :=
  (∀ (s : State) (h w : BitVec 32) (sl : Slot) (i : Instr), s.issues → s.me.icache = [] →
    (s.cluster (clusterOf s.here)).code = [] →
    let pc := s.me.pc
    let u := s.atGroup (pc + 8)
    let c : CodeWord := ⟨pc, false, sl, w, i⟩
    let kept := [(pc, [h, w])]
    fetchWord (s.atGroup pc) (fetchCause false) pc = .ok h →
    fetchWord (s.atGroup pc) (fetchCause false) (pc + 4) = .ok w →
    (decodeHeader h).legal = true → (decodeHeader h).stop = true → (decodeHeader h).sync = 0 →
    (decodeHeader h).slots = [sl] → decodeSlot sl w = .ok i →
    (samplingWord sl w = true → isSextant s.here = true) → s.me.r.refusesProduct sl w = false →
    (∀ a, s.me.asked = some a → a.slot = sl ∧ a.code = kept) →
      let freezes := ∃ z, exec (.freezeCycle s.here) u = .next z ∧ step s = .next (z.endTurn progress).advance
      let freezes := ∃ z, exec (.freezeCycle s.here) u = .next z ∧ step s = .next (z.endTurn progress).advance
      (u.me.skippable 0 [w] = true →
        (u.me.skipCost [w] = 0 ∨ u.overLimit 0 = false →
          ∃ t, exec .nullifierSkip u = .next t ∧ step s = .next ((t.keepCode kept).endTurn progress).advance)
        ∧ (u.me.skipCost [w] ≠ 0 → u.overLimit 0 = true → freezes))
      ∧ (u.me.skippable 0 [w] = false → u.overLimit 0 = true → freezes)
      ∧ (u.me.skippable 0 [w] = false → u.overLimit 0 = false →
        let x := transfer exec u [c]
        let q := wordCharge u.me x [c]
        let passes := passesIn u.me x [c]
        let stalls := 16 < u.me.xq.length + commandsIn u.me x [c] ∨ u.me.vleft ≠ 0 ∧ passes.isSome = true
        ∀ t, exec i (atWord u c x.1 (pathFor x c)) = .next t →
          (t.me.grp.status = .running ∨ t.me.grp.status = .left →
            (stalls → step s = .next (((u.setStatus .stalled).passHeld u).endTurn progress).advance)
            ∧ (¬stalls → u.overLimit q = false →
              step s = .next (((t.passIssued u q passes).keepCode kept).endTurn progress).advance)
            ∧ (¬stalls → u.overLimit q = true → freezes))
          ∧ (t.me.grp.status ≠ .running → t.me.grp.status ≠ .left →
            (s.me.performed = false ∨ (∀ st, t.me.grp.status ≠ .trapped st) →
              step s = .next ((((t.keepAsked kept).passHeld u).endTurn progress).advance))
            ∧ ∀ st, s.me.performed = true → t.me.grp.status = .trapped st →
              step s = .next (((((u.setStatus .stalled).keepAsked kept).passHeld u).endTurn progress).advance))))
  ∧ ∀ (s t : State) (e : Instr) (rest : List Instr), isCore s.here = true → s.agenda = e :: rest →
    exec e { s with agenda := rest } = .next t → step s = .next t.advance

/-- Every instruction and event has a next state in every state, and so has the step of every state whose turn is that of
a core of R3: no instruction and no data end a run. The one stop of the model is a turn of no core. -/
def Obligations.EveryStepAnswers : Prop :=
  (∀ (i : Instr) (s : State), ∃ t, exec i s = .next t)
  ∧ ∀ s : State, (isCore s.here = true → ∃ t, step s = .next t)
    ∧ (isCore s.here = false → step s = .fault (.noSuchCore s.here))

/-- R8, R401, R402: a slot word that a core at user privilege runs leaves it at user privilege, unless the word has
taken a cause: kernel privilege is reached through the system handler's entry alone. -/
def Obligations.KernelThroughTrapsAlone : Prop :=
  ∀ (i : Instr) (g : Guard) (s t : State), i.guard? = some g → s.me.kernel = false → exec i s = .next t →
    t.here = s.here ∧ (t.me.kernel = true → ∃ st, t.me.grp.status = .trapped st)

/-- R374: every step keeps the resolutions of full shape words first among the events that are due. -/
def Obligations.ShapesFirstKept : Prop :=
  ∀ s t : State, s.shapesFirst → step s = .next t → t.shapesFirst

/-- R253, R298, R303: the operations of slots A, V and M that take effect store nothing: every byte of memory, and every
poison bit of its beats, is as before. The forms that do what `mscale` does have the accepted commands complete first
(R298), which may retire a cancelled block's last command. -/
def Obligations.RegisterSlotsStoreNothing : Prop :=
  ∀ (i : Instr) (s t : State), i.slot? ∈ [some Slot.A, some .V, some .M] → exec i s = .next t →
    t.me.grp.status = .running →
    ∃ u ∈ [s, s.drainMatrix s.here s.me.mq.length],
      ((∀ g c a b o, i ≠ .mscale g ∧ i ≠ .mmaS g c a b o ∧ i ≠ .mmaSpS g c a b o) → u = s)
      ∧ (∀ a, Memory.read t.mem a = Memory.read u.mem a) ∧ t.beats = u.beats

/-- R20, R439: a write of bytes to tiered memory, on chips without a retired row, reads back; every other byte is as
before. A beat is poisoned after it when a byte written into it is, else clean when all its 64 bytes are written, else
as it was. -/
def Obligations.MemoryWrites : Prop :=
  ∀ (s : State) (ma : Nat) (d : Data), (∀ x ∈ s.hbm, x.2.retired = []) → regionOf ma = .tiered →
    let t := s.writeMem ma d
    (∀ a, Memory.read t.mem a
      = if h : ma ≤ a ∧ a < ma + d.length then (d[a - ma]'(by omega)).1 else Memory.read s.mem a)
    ∧ (s.memoryCanonical → t.memoryCanonical)
    ∧ (∀ b, b ∈ t.beats ↔ (∃ i, ∃ h : i < d.length, (ma + i) / 64 = b ∧ (d[i]).2 = true)
      ∨ (¬(ma ≤ 64 * b ∧ 64 * b + 64 ≤ ma + d.length) ∧ b ∈ s.beats))
    ∧ t = { s with mem := t.mem, beats := t.beats }

/-- R93, R107, R113, R98, R160, R425, R406, R411, R415, R426: the state after power-on reset: every core idle at user
privilege with its registers at their reset values and its scratchpad zero, full and clean; every partition out, with
no granule; memory in canonical form, with nothing in it; nothing due. That no core is in its user handler is log entry
10's choice, that unwritten memory reads zero log entry 14's, and what is due log entry 5's. -/
def Obligations.ResetState : Prop :=
  let s := State.reset
  s.shapesFirst ∧ s.memoryCanonical ∧ isCore s.here = true
  ∧ (∀ a, Memory.read s.mem a = 0) ∧ (∀ a, s.badBeat a = false)
  ∧ (∀ k,
    let c := s.core k
    c.blk = none ∧ c.kernel = false ∧ c.stopped = false ∧ c.handler = false ∧ c.xq = [] ∧ c.fq = [] ∧ c.mq = []
    ∧ (∀ w, c.r.word w = ⟨0, true, false⟩) ∧ (∀ i : Fin 48, c.r.s[i] = known 0) ∧ c.r.p = 1
    ∧ (∀ i : Fin 8, c.r.bt[i] = 0 ∧ c.r.x[i] = 0 ∧ c.r.m[i] = BitVec.allOnes 4096)
    ∧ (∀ i : Fin 16, c.r.q[i] = 0 ∧ c.r.h[i] = 0 ∧ (c.r.t[i]).bits = 0 ∧ c.r.cf[i] = 0)
    ∧ (∀ i : Fin 32, (c.r.v[i]).bits = 0 ∧ c.r.bar[i] = ⟨false, 0, 0, 0⟩)
    ∧ field c.r.vcfg 0 4 = 10 ∧ field c.r.vcfg 4 13 = 64 ∧ field c.r.vcfg 17 13 = 16
    ∧ c.r.waitlim = 0x00100000 ∧ c.r.srseed = 1 ∧ field c.r.clim 0 16 = 11136 ∧ c.r.frzcnt = 0)
  ∧ (∀ p, (s.part p).pgran = 0 ∧ (s.part p).state = .out ∧ (s.part p).image = [])
  ∧ ∀ ch, (s.chip ch).domcfg = 0 ∧ (s.chip ch).dommember = 1 ∧ (s.chip ch).climcap = 11136

/-! ## Accesses in flight -/

/-- R18, R20, R22, R23, R251, R439: READ, WRITE and ATOMIC on tiered memory, once what comes before has performed and the
request has left: a load's reply holds the bytes and the poison of their beats, a store writes its bytes, and an atomic
writes the new value and replies with the old one and its flags, or leaves poisoned bytes and replies with poison. Every
other byte of memory reads as before. An access of the host goes where its window maps it (R412). -/
def Obligations.MemoryAccesses : Prop :=
  ∀ (s : State) (id ma : Nat) (b a c : Acc), s.sentAcc id = some b → s.mapHost b = some a → a.target = .mem ma →
    a.split = [] → a.todo = [] → regionOf ma = .tiered → s.mayPerform a = true → s.hostMiss a ma = false →
    s.sendOut a = some c → s.noPath c = false →
    (if c.host then s.secureMA ma = false else s.refusedAt c.ns (.mem ma) = false) →
    let u := (s.keepOrderOf c).serveAcc c
    (∀ x ∈ u.hbm, x.2.retired = []) →
    let replied := fun (t : State) (v : W64) (bad : Bool) (fl : Flags) =>
      t.accs = u.accs.map fun x => if x.id = id then { c with phase := .done v bad fl, tag := none } else x
    let old := ofBytes (Memory.bytes s.mem ma a.bytes)
    let bad := (List.range a.bytes).any fun i => s.badBeat (ma + i)
    let written := fun (t : State) (v : Nat) => ∀ j, Memory.read t.mem j
      = if ma ≤ j ∧ j < ma + a.bytes then BitVec.ofNat 8 (v / 2 ^ (8 * (j - ma))) else Memory.read s.mem j
    (a.kind = .load → ∃ t, exec (.read id) s = .next t ∧ replied t (BitVec.ofNat 64 old) bad 0 ∧ t.mem = s.mem
      ∧ t.beats = s.beats)
    ∧ (a.kind = .store → ∃ t, exec (.write id) s = .next t ∧ replied t 0 false 0 ∧ written t a.data.toNat)
    ∧ ∀ p ∈ atomics, ∀ (g : Guard) (d b sr : BitVec 6) (r : BitVec 2) (word : BitVec 32),
      (p.1 g d b r sr).encode = some word → a.kind = .atomic (opcodeOf word) → a.bytes = p.2.1 →
      let q := p.2.2 old a.data.toNat a.data2.toNat
      (bad = true → ∃ t, exec (.atomic id) s = .next t ∧ replied t (BitVec.ofNat 64 old) true 0 ∧ t.mem = s.mem)
      ∧ (bad = false → ∃ t, exec (.atomic id) s = .next t ∧ replied t (BitVec.ofNat 64 old) false q.2
        ∧ written t q.1)

/-- R74, R97, R112, R257, R261: what becomes of an access at a scratchpad bank, once what comes before has performed: a
full/empty form performs on a word whose bit it waits for, and else is parked, or returned when its bank has 64; a
future is resolved once, and an armed one sends a decrement; a barrier counts an arrival, and one that ends its phase
releases the waits parked there. -/
def Obligations.ScratchpadAccesses : Prop :=
  ∀ (s : State) (id k off : Nat) (a : Acc),
    (s.accs.find? fun x => x.id == id && (x.phase == Phase.sent || x.phase == Phase.parked)) = some a →
    a.phase = .sent → a.target = .spad k off → s.mayPerform a = true → s.inImage a.part k = false →
    let b := { a with since := if a.out then a.since else s.now, out := true }
    s.noPath b = false → b.targets.any (s.refusedAt b.ns) = false →
    let u := s.keepOrderOf b
    let y := (u.core k).r.word (off / 8)
    let become := fun (t : State) (z : Acc) => { t with accs := t.accs.map fun x => if x.id = id then z else x }
    let replied := fun (t : State) (v : W64) (bad : Bool) => become t { b with phase := .done v bad 0, tag := none }
    (∀ op, a.kind = .fullEmpty op → 0x4C ≤ op.toNat → op.toNat ≤ 0x55 →
      (fitsWord op.toNat y → exec (.remoteScratchpadAccess id) s = .next (replied (u.setCore k { u.core k with
        r := (u.core k).r.setWord (off / 8) (wordAfter op.toNat y a.data a.poison) }) y.data y.poison))
      ∧ (¬fitsWord op.toNat y → u.parkedAt a.part k (off / 8) < 64 → exec (.remoteScratchpadAccess id) s = .next { u with
          accs := u.accs.filter (fun x => x.id != id) ++ [{ b with phase := .parked }] })
      ∧ (¬fitsWord op.toNat y → 64 ≤ u.parkedAt a.part k (off / 8) → exec (.remoteScratchpadAccess id) s
        = .next (become u { b with phase := .retry })))
    ∧ (a.kind = .resolve →
      (field y.data 62 2 < 2 → ∃ t, exec (.remoteScratchpadAccess id) s = .next (replied t 0 false)
        ∧ ((t.core k).r.word (off / 8)).data = setField y.data 62 2 (if a.data2 = 3 then 3 else 2)
        ∧ ((t.core k).r.word (off / 8 + 1)).data = a.data ∧ t.decs.length = u.decs.length + field y.data 62 2
        ∧ t = { u.setCore k (t.core k) with decs := t.decs, fresh := t.fresh })
      ∧ (2 ≤ field y.data 62 2 → exec (.remoteScratchpadAccess id) s = .next (become u { b with phase := .refused 0 })))
    ∧ ∀ i : Fin 32, a.kind = .arrive → off = i.val →
      let x := (u.core k).r.bar[i]
      let n := BitVec.ofNat 16 a.data.toNat
      let barred := fun (z : Barrier) => u.setCore k { u.core k with r := { (u.core k).r with bar := (u.core k).r.bar.set i z } }
      (n = 0 ∨ x.expect ≠ 0 ∧ n ≠ x.expect → exec (.remoteScratchpadAccess id) s
        = .next (become u { b with phase := .refused 0 }))
      ∧ (n ≠ 0 → x.expect = 0 ∨ n = x.expect →
        (x.arrived + 1 ≠ n → exec (.remoteScratchpadAccess id) s
          = .next (replied (barred { x with expect := n, arrived := x.arrived + 1 }) (if x.phase then 1 else 0) false))
        ∧ (x.arrived + 1 = n → ∃ t, exec (.remoteScratchpadAccess id) s
            = .next (replied t (if x.phase then 1 else 0) false)
          ∧ t = { barred ⟨!x.phase, 0, 0, 0⟩ with accs := t.accs }
          ∧ ∀ z ∈ t.accs, z.target = a.target → z.kind = .await ∨ z.kind = .sync →
            s.inImage z.part k = false → z.phase ≠ .parked))

/-! ## Memory and its tiers -/

/-- R18, R24 to R31, R439: the base die copies and fills runs of memory within one stack whose pages are at hand, counts
the packets of other kinds that it discards, counts activates toward refresh management and lowers the counts at a refresh,
repairs or fences a bank whose remap copies are bad, retires a row that fails, and hands on its log. R33, R34, R39, R40,
R42 to R44, R60, R61, R63: the tier engine moves a page off a fenced bank, or starts the demotion of the least recently
used page that qualifies when a frame is needed, and a demotion ends with the page in its lower tier and no cached
translation of it; a page-in ends with the page resident and held, its poisoned CXL reads poisoned, or with its requests
told of the failure; a hold ends after 64 µs; a walk whose tables are at hand installs what it finds for every core that
waits for it. -/
def Obligations.MemoryAndTierEvents : Prop :=
  ((∀ (s : State) (src dst len : Nat) (pat : BitVec 64), 0 < len → (∀ x ∈ s.hbm, x.2.retired = []) →
      (s.stackOf dst len).isSome = true →
      (s.stackOf src len = s.stackOf dst len → readyRun (State.serveCopy (len / 1024 + 3) s src dst len) dst len ≠ none →
        ∃ t, exec (.rowcopy src dst len) s = .next t ∧ ∀ j, Memory.read t.mem j
          = if dst ≤ j ∧ j < dst + len then Memory.read s.mem (src + (j - dst)) else Memory.read s.mem j)
      ∧ (readyRun (State.serveFill (len / 2048 + 2) s dst len pat) dst len ≠ none →
        ∃ t, exec (.rowinit dst len pat) s = .next t ∧ ∀ j, Memory.read t.mem j
          = if dst ≤ j ∧ j < dst + len then pat.extractLsb' (8 * ((j - dst) % 8)) 8 else Memory.read s.mem j))
    ∧ ∀ (s : State) (k n row : Nat),
      let x := s.stack k
      let b := n % 1024
      let y := x.bank b
      (∀ kind : BitVec 4, 6 < kind.toNat → exec (.packetDiscard k kind) s
        = .next (s.setStack k { x with badpkt := if x.badpkt = 255 then 255 else x.badpkt + 1 }))
      ∧ (y.fenced = false → y.copyA = true → y.copyB = true → x.counting = true → exec (.dramActivate k ⟨n, row, .none⟩) s
        = .next (s.setStack k (x.setBank b (if x.level ≤ y.count + 1
          then { y with count := y.count + 1 - x.level, rfm := y.rfm + 1 } else { y with count := y.count + 1 }))))
      ∧ (y.fenced = false → x.counting = false → x.events.length < 16 →
        ((y.copyA != y.copyB) = true → ∃ e, exec (.dramActivate k ⟨n, row, .none⟩) s
            = .next (s.setStack k { x.setBank b { y with copyA := true, copyB := true } with events := x.events ++ [e] })
          ∧ e.kind = if y.copyA then 1 else 0)
        ∧ (y.copyA = false → y.copyB = false → ∃ t e, exec (.dramActivate k ⟨n, row, .none⟩) s = .next t ∧ e.kind = 2
          ∧ t.stack k = { x.setBank b { y with fenced := true } with events := x.events ++ [e] }
          ∧ (t.chip (k / 8)).interrupts = (s.chip (k / 8)).interrupts + 1)
        ∧ (y.copyA = true → y.copyB = true → ¬State.rowName b row ∈ x.retired →
          ∃ t, exec (.dramActivate k ⟨n, row, .failing⟩) s = .next t
            ∧ t.stack k = { x with retired := x.retired ++ [State.rowName b row] }))
      ∧ exec (.dramRefresh k n) s = .next (s.setStack k (x.setBank b { y with count := y.count - x.decay }))
      ∧ exec (.rmlogValidClear k) s = .next (s.setStack k { x with events := x.events.drop 1 }))
  ∧ (∀ (s : State) (ch p : Nat),
    (s.touching ch = none → s.needsFrame ch = true → s.victim ch = some p →
      exec (.tierDemote ch) s = .next (s.setPage p { s.page p with demoting := s.demotionTier p }))
    ∧ (s.touching ch = some p → (s.page p).tier = some 0 →
      (∀ f, s.freeFrame (p / 2 ^ 32) = some f → ∃ t, exec (.tierDemote ch) s = .next t ∧ t.mem = s.mem
        ∧ t.page p = { s.page p with frame := f })
      ∧ (s.freeFrame (p / 2 ^ 32) = none → s.evictPage (p / 2 ^ 32) = none → exec (.tierDemote ch) s = .next s)))
  ∧ (∀ (s : State) (p : Nat) (tier : BitVec 2), (s.page p).demoting = some tier →
    (s.finishable p = false → exec (.demotionComplete p) s = .next s)
    ∧ (s.finishable p = true → ∃ t m n, exec (.demotionComplete p) s = .next t ∧ t.mem = s.mem
      ∧ t.page p = { s.page p with tier := some tier, demoting := none, method := m, stored := n }
      ∧ ((s.page p).comp = 0 ∨ s.compressing (p / 2 ^ 32) = false → m = 0 ∧ n = 65536)
      ∧ (∀ k, ∀ e ∈ (t.core k).ucache, State.resolves e p = false)
      ∧ ∀ cl, ∀ e ∈ (t.cluster cl).cache, State.resolves e p = false))
  ∧ (∀ (s : State) (p : Nat) (tier : BitVec 2) (bad : BitVec 1024), s.pageUnderWay p = true →
    (s.page p).tier = some tier → tier ≠ 0 →
    (s.frameFree (p / 2 ^ 32) = true → ∃ t, exec (.pageInComplete p (some bad)) s = .next t ∧ t.mem = s.mem
      ∧ (t.page p).tier = some 0 ∧ (t.page p).hold = true ∧ (t.page p).since = s.now ∧ (t.page p).incoming = false
      ∧ (t.page p).flags = [] ∧ (t.page p).waiters = [] ∧ (t.page p).cmds = []
      ∧ ∀ i < 1024, tier = 2 → bad.getLsbD i = true → t.badBeat (p * 65536 + 64 * i) = true)
    ∧ ∃ t, exec (.pageInComplete p none) s = .next t ∧ t.mem = s.mem ∧ (t.page p).tier = some tier
      ∧ (t.page p).incoming = false ∧ t.posts.length = s.posts.length + (s.page p).flags.length
      ∧ ∀ k ∈ (s.page p).waiters, (t.core k).pageFault = some (p, 3))
  ∧ (∀ (s : State) (p : Nat), (s.page p).hold = true →
    (64000 ≤ s.passed (s.page p).since →
      exec (.residencyHoldExpire p) s = .next (s.setPage p { s.page p with hold := false }))
    ∧ (s.passed (s.page p).since < 64000 → exec (.residencyHoldExpire p) s = .next s))
  ∧ ∀ (s : State) (id : Nat) (w : Walk), (s.walks.find? fun x => x.id == id) = some w →
    (s.walking w.cluster).contains (w.part, w.ctx, w.granule) = true →
    s.walkAbsent w.part w.ctx (w.granule * 65536) = none →
    let without := fun (hit : Walk → Bool) => s.walks.filter fun x => (s.walks.filter hit).all fun y => x.id != y.id
    (∀ e, s.walk w.part w.ctx (w.granule * 65536) = .ok e →
      let hit := fun (x : Walk) => x.cluster == w.cluster && e.covers x.part x.ctx (x.granule * 65536)
      ∃ t, exec (.translationWalk id) s = .next t ∧ t.walks = without hit
        ∧ ∀ x ∈ s.walks, hit x = true → (∀ cl, x.who ≠ .orrery cl) → (t.core x.core).ucache.head? = some e)
    ∧ ∀ n, s.walk w.part w.ctx (w.granule * 65536) = .error n → ∃ t, exec (.translationWalk id) s = .next t
      ∧ t.walks = without (fun x => x.cluster == w.cluster && x.part == w.part && x.ctx == w.ctx && x.granule == w.granule)
      ∧ (w.who = .group → s.partOf w.core = w.part → (s.core w.core).ctx = w.ctx →
        (t.core w.core).walkFault = some (w.granule, BitVec.ofNat 8 n))

/-! ## Rings and the fabric -/

/-- R70, R72, R73, R76 to R79, R87 to R92, R102: the rings and the fabric. A ring's subscription or publication is
taken. A feeder starts its slots in order; a word of one is read from memory and lands in its home, full; a whole slot
that finds no home is kept in the extension. A puller starts the slots that are wholly full, reads a word, writes it to
memory and leaves it empty. An extension's oldest slot moves home; a crew that stands still for 4096 cycles has a ring
enlarged, or RING_POOL_EXHAUSTED raised. A flit is replayed; a link fails after 64 replays, trains, and comes back or fails
again; a head blocked for TIMEOUT is suspect, and drains through the DBL once its router has the token; a lost token is
regenerated; a soft error is counted, or poisons a scratchpad word. How a stall is measured is log entry 130's reading, what
retraining a link that stands does log entry 148's choice, and which links are refused log entry 35's reading; enlargement
is stated of a crew's only ring in its cluster. -/
def Obligations.RingAndFabricEvents : Prop :=
  (∀ (s : State) (cl i : Nat) (r : Ring),
    let n := ringKey cl i
    let lands := fun (x : RingAct) => r.mode < 2 ∧ (s.landActs n r)[pickFrom s.tick (s.landActs n r).length]? = some x
    let drains := fun (x : RingAct) => 2 ≤ r.mode ∧ (s.drainActs r)[pickFrom s.tick (s.drainActs r).length]? = some x
    let home := fun (t : State) (slot j : Nat) => (t.core r.core).r.word (r.wordOf slot j)
    s.ring? n = some r →
      (r.mode = 0 → exec (.subscribe cl i) s = .next (s.setRing n { r with started := true }))
      ∧ (r.mode = 2 → exec (.pull cl i) s = .next (s.setRing n { r with started := true }))
      ∧ (lands .start →
        (r.mode = 0 → exec (.ringSlotLand cl i) s = .next (s.setRing n { r with
          next := r.next + 1, flights := r.flights ++ [r.newFlight r.next (!s.homeFree n r)] }))
        ∧ ∀ m o f, r.mode = 1 → s.feeder n = some (m, o) → (o.flights.find? fun f => f.dest.isNone) = some f →
          exec (.ringSlotLand cl i) s = .next ((s.setRing m (o.setFlight { f with
            dest := some r.next, toExt := !s.homeFree n r })).setRing n { r with next := r.next + 1 }))
      ∧ (∀ slot j f, r.flight slot = some f →
        let moved := fun (g : Flight) => some (r.setFlight { g with refused := f.refused })
        (∀ need ps,
          let rs := Sys2Proof.Machine.runs (r.slotVA f.slot + 8 * j) 8
          s.seekRuns r.core (.ring n) r.owner [] rs = none → s.planFor r.core r.owner need [] rs = ⟨ps, none⟩ →
          s.absentIn ps = [] → s.ringFree r (ps.map fun x => (x.target, x.len)) (need == .store) = true →
          (∀ x ∈ ps, s.pathTo r.core x.target = true) → s.ringWord n r f j need = .ok ps)
        ∧ (∀ (ma : Nat) (ps : List Piece), lands (.read slot j) → s.ringWord n r f j .load = .ok ps →
          ps.map (fun x => (x.target, x.len)) = [(Target.mem ma, 8)] → s.refusedIn ps = none →
            ∃ t, exec (.ringSlotLand cl i) s = .next t ∧ t.mem = s.mem
              ∧ t.ring? n = moved (f.setWord j (some (.held (BitVec.ofNat 64 (ofBytes (Memory.bytes s.mem ma 8)))
                  ((List.range 8).any fun q => s.badBeat (ma + q))))))
        ∧ (∀ v bad, (f.words.find? fun w => w.1 == j) = some (j, .held v bad) → r.closing = none →
          s.inImage r.part r.core = false → lands (.put slot j) →
          s.ringFree r [(.spad r.core (8 * r.wordOf slot j), 8)] true = true →
          s.pathTo r.core (.spad r.core (8 * r.wordOf slot j)) = true →
          s.refusedAt r.ns (.spad r.core (8 * r.wordOf slot j)) = false →
            ∃ t, exec (.ringSlotLand cl i) s = .next t ∧ home t slot j = ⟨v, true, bad⟩
              ∧ t.ring? n = some (if (f.setWord j (some .written)).words.all fun w => w.2 == .written
                  then r.endFlight slot else r.setFlight (f.setWord j (some .written))))
        ∧ (lands (.append slot) → exec (.ringSlotLand cl i) s
          = .next (s.setRing n { r.endFlight slot with ext := r.ext ++ [State.slotWordsOf f] }))
        ∧ (s.inImage r.part r.core = false → drains (.read slot j) →
          s.ringFree r [(.spad r.core (8 * r.wordOf slot j), 8)] false = true →
            exec (.ringSlotDrain cl i) s = .next (s.setRing n (r.setFlight (f.setWord j
              (some (.held (home s slot j).data (home s slot j).poison))))))
        ∧ (∀ v bad u ps, (f.words.find? fun w => w.1 == j) = some (j, .held v bad) → drains (.put slot j) →
          s.ringWord n r f j .store = .ok ps → s.readyPages ps = .ok u → u.refusedIn ps = none →
            ∃ t, exec (.ringSlotDrain cl i) s = .next t
              ∧ t.mem = ((ps.foldl (fun s x => s.servePiece x) (u.noteFrames r.core r.owner ps)).writePieces r.owner ps
                  ((toBytes 8 v.toNat).map fun y => (y, bad))).mem
              ∧ t.ring? n = moved (f.setWord j (some .written)))
        ∧ (r.closing = none → s.inImage r.part r.core = false → drains (.empty slot j) →
          ∃ t, exec (.ringSlotDrain cl i) s = .next t ∧ home t slot j = { home s slot j with full := false }
            ∧ t.ring? n = some (if (f.setWord j none).words = [] then r.endFlight slot
                else r.setFlight (f.setWord j none))))
      ∧ (∀ q, drains .start → s.nextOut r = some q → exec (.ringSlotDrain cl i) s = .next (s.setRing n { r with
          next := max r.next (q + 1), flights := r.flights ++ [r.newFlight q false], closing := r.closing.map (·.drop 1) }))
      ∧ (∀ d rest, r.ext = d :: rest → s.isOut r.part = false → s.slotEmpty r (s.extHead n r) = true →
        s.homeQuiet n r (s.extHead n r) = true → exec (.ringExtensionMove cl i) s = .next (s.setRing n { r with
          ext := rest
          flights := r.flights ++ [⟨s.extHead n r, none, false, d.mapIdx fun i w => (i, .held w.1 w.2), false⟩] }))
      ∧ (∀ since, (s.clusterRings cl).filter (fun x => x.2.crew.toNat == r.crew.toNat) = [(n, r)] →
        s.heldBack n r = true → s.stillNow cl r.part r.crew.toNat = true →
        Table.look (s.cluster cl).stalls (State.crewKey r.part r.crew.toNat) = some since →
        since + 4096 ≤ s.leastWait r.part r.crew.toNat →
        (s.poolUsed cl + (r.nslot + r.extCap) * r.slotBytes ≤ State.poolBytes →
          ∃ t, exec (.ringEnlarge cl r.crew.toNat) s = .next t
            ∧ t.ring? n = some { r with extCap := 2 * r.extCap + r.nslot })
        ∧ (State.poolBytes < s.poolUsed cl + (r.nslot + r.extCap) * r.slotBytes → (s.core r.core).pendK.length < 16 →
          s.inImage r.part r.core = false → ∃ t x, exec (.ringEnlarge cl r.crew.toNat) s = .next t
            ∧ (t.core r.core).pendK = (s.core r.core).pendK ++ [x] ∧ x.code = 0x27 ∧ t.rings = s.rings)))
  ∧ (∀ (s : State) (u link : Nat), isLink u link = true →
    let x := s.fab u
    let turns := fun (b : Bool) (y z : BitVec 256) => ∀ j < 256, z.getLsbD j = if j = link then b else y.getLsbD j
    (x.failed.getLsbD link = false → exec (.flitReplay u link) s
      = .next (s.setFab u { x with replays := Table.put x.replays link ((Table.look x.replays link).getD 0 + 1) }))
    ∧ (64 ≤ (Table.look x.replays link).getD 0 → ∃ t, exec (.linkFailed u link) s = .next t
      ∧ turns true x.failed (t.fab u).failed)
    ∧ ((Table.look x.replays link).getD 0 < 64 → exec (.linkFailed u link) s = .next s)
    ∧ (∃ t, exec (.fablinkRetrain u link) s = .next t ∧ turns true x.training (t.fab u).training)
    ∧ (x.training.getLsbD link = true → ∀ ok, ∃ t, exec (.linkTrainingDone u link ok) s = .next t
      ∧ turns false x.training (t.fab u).training ∧ turns (!ok || s.refusesLink u link) x.failed (t.fab u).failed))
  ∧ (∀ (s : State) (u n : Nat),
    let x := s.fab u
    (∃ t, exec (.headSuspect u n) s = .next t ∧ ∀ b, b ∈ (t.fab u).suspects ↔ b ∈ x.suspects
      ∨ routerOf b = n ∧ isLane b = false ∧ ∃ e ∈ x.blocked, e.1 = b ∧ x.timeout.toNat ≤ e.2.2)
    ∧ (∀ b, x.token ≠ none → x.oldest n = some b → ∃ t, exec (.meridianCapture u n) s = .next t
      ∧ (t.fab u).suspects = x.suspects.erase b ∧ (t.fab u).token = some n
      ∧ (t.fab u).dblpkt.toNat = min 0xFFFFFFFF (x.dblpkt.toNat + 1))
    ∧ (x.token ≠ none ∨ s.passed x.passed < 4 * (Config.ringTrip u).toNat → exec (.tokenRegenerate u) s = .next s)
    ∧ (x.token = none → 4 * (Config.ringTrip u).toNat ≤ s.passed x.passed → ∃ t, exec (.tokenRegenerate u) s = .next t
      ∧ (t.fab u).token = some 0 ∧ (t.fab u).epoch = !x.epoch
      ∧ (t.fab u).tokregen.toNat = min 0xFFFF (x.tokregen.toNat + 1)))
  ∧ ∀ (s : State) (k w : Nat) (b : Bool), w < 98304 → isCore k = true →
    let y := (s.core k).r.word w
    let count := fun (t : State) => field (getReg (t.chip (chipOf k)).secnt (dieOf k) 0) 0 32
    exec (.scratchpadEccError k w (if b then .fullBit else .data)) s = .next (s.setCore k { s.core k with
      r := (s.core k).r.setWord w { y with poison := true, full := y.full || b } })
    ∧ ∃ t, exec (.scratchpadEccError k w .corrected) s = .next t ∧ t = { s with chips := t.chips }
      ∧ count t = min 0xFFFFFFFF (count s + 1)

/-! ## Queues, dispatch and launches -/

/-- R108, R261, R354 to R365, R377: records arrive at their queues, by message, through an enqueue window and from a
join word that has counted down; a store nearly full spills to the overflow rings, and they fill it again; an idle core
begins the block of the record that is picked, its registers as R108 says; a queue is destroyed with its records; QSTAT
is cleared. -/
def Obligations.SchedulerEvents : Prop :=
  (∀ (s : State) (id : Nat) (m : RecMsg), (s.recs.find? fun x => x.id == id) = some m →
    ∃ t, exec (.recordEnqueue id) s = .next t ∧ s.takesRecord t m.cluster m.queue m.words m.poison
      ∧ (s.overflowed m.cluster m.queue = 0 → s.storeUsed m.cluster < 4096 →
        s.isOut (s.queuePart m.cluster m.queue) = false → t.recs = s.recs.filter fun x => x.id != id))
  ∧ (∀ (s : State) (ma cl q off : Nat) (bytes : List (BitVec 8)) (bad : Bool), windowOf ma = some (cl, q, off) →
    ∃ t, exec (.enqueueWindowWrite ma bytes bad) s = .next t
      ∧ (off = 0 → bytes.length = 64 → s.takesRecord t cl q (wordsOf (clean bytes)) bad)
      ∧ (off ≠ 0 ∨ bytes.length ≠ 64 →
        (t.cluster cl).badrec.toNat = min 0xFFFF ((s.cluster cl).badrec.toNat + 1)
        ∧ (t.cluster cl).store = (s.cluster cl).store))
  ∧ (∀ (s : State) (id k off : Nat) (d : Decrement), (s.decs.find? fun x => x.id == id) = some d →
    field d.join 56 8 = 1 → d.join.toNat % 8 = 0 → s.window (chipOfCluster d.cluster) d.join 8 = some (k, off) →
    s.inImage d.part k = false → (d.ns && s.secureCluster (clusterOf k)) = false →
    s.performedBefore d.part d.src d.ord 5 = true → d.ord ≤ (s.coreOf d.part d.src).ord →
    s.path (chipOfCluster d.cluster) (dieOfCluster d.cluster) (chipOf k) (dieOf k) = true →
    let x := (s.core k).r.word (off / 8)
    let n := field x.data 48 16
    let u := { s with decs := s.decs.filter fun y => y.id != id }.promiseBefore d.part d.src d.ord 5
    let counted := u.setCore k { u.core k with
      r := (u.core k).r.setWord (off / 8) { x with data := setField x.data 48 16 (n - 1) } }
    x.poison = false →
      (n = 0 → exec (.joinDecrement id) s = .next u) ∧ (1 < n → exec (.joinDecrement id) s = .next counted)
      ∧ ∀ j w, n = 1 → spadName (field x.data 0 48) = some (j, w) → w % 8 = 0 →
        s.member (chipOfCluster d.cluster) (bitsOf (field x.data 0 48) 40 8) = true →
        (d.ns && s.secureCluster (clusterOf j)) = false → counted.pathTo k (.spad j 0) = true →
          ∃ t m, exec (.joinDecrement id) s = .next t ∧ t.recs = s.recs ++ [m] ∧ m.cluster = clusterOf j
            ∧ m.queue = bitsOf (field x.data 0 48) 17 12 ∧ t.cores = counted.cores
            ∧ ∀ i : Fin 8, m.words[i] = (counted.bankWord d.part j (w + i.val)).data)
  ∧ (∀ (s : State) (cl : Nat), s.storeUsed cl ≤ 4096 →
    (s.storeUsed cl ≤ 4032 → exec (.spillToOverflow cl) s = .next s)
    ∧ (4032 < s.storeUsed cl → ∃ t, exec (.spillToOverflow cl) s = .next t
      ∧ (∀ u, u ∈ (t.cluster cl).store.map (·.uid) ↔ u ∈ (s.cluster cl).store.map (·.uid))
      ∧ (s.edits = [] → (∀ r ∈ (s.cluster cl).store, ∀ n, regionOf (s.overflowAt cl r.queue n) = .tiered →
          (s.page (pageOf (s.overflowAt cl r.queue n))).tier = some 0) →
        t.storeUsed cl ≤ 3968 ∨ t.spillable cl = none))
    ∧ ∀ q r n, s.overflowing cl = [q] → s.storeUsed cl ≤ 3840 →
      oldest ((s.cluster cl).store.filter fun x => x.queue == q && x.place.isSome) = some r → r.place = some n →
      let d := s.memData (s.overflowAt cl q n) 64
      s.absentPage (s.overflowAt cl q n) 64 = none → s.editing (pageOf (s.overflowAt cl q n)) = false →
      d.any (·.2) = false → recState (wordsOf d) ≠ 1 →
        ∃ t, exec (.fillFromOverflow cl) s = .next t ∧ (t.cluster cl).store
          = ((s.cluster cl).store.filter fun x => x.uid != r.uid) ++ [{ r with words := wordsOf d, state := .ready }])
  ∧ (∀ (s : State) (k run : Nat) (r : Rec), isCore k = true → s.idle k = true → s.pick k = some (r, run) →
    let cl := clusterOf k
    let p := s.queuePart cl r.queue
    let ctx := s.queueCtx cl r.queue
    recTagged r.words = false → s.dispatchNeeds p ctx r.words = none →
      ∃ t, exec (.dispatch k) s = .next t ∧ t.mem = s.mem
      ∧ let c := s.core k
        let z := t.core k
        (∃ b, z.blk = some b ∧ b.rcd.uid = r.uid ∧ b.part = p ∧ b.ctx = ctx ∧ b.ns = s.queueNs cl r.queue
          ∧ b.squashed = false)
        ∧ z.walkFault.map (·.2) = (if s.context p ctx = none then some (BitVec.ofNat 8 kCtx) else none)
        ∧ z.kernel = false ∧ z.handler = false ∧ z.pc = BitVec.ofNat 64 (field r.words[0] 2 62 * 4)
        ∧ (∀ j : Fin 48, z.r.s[j]
          = if j.val = 1 then known r.words[6] else if j.val = 2 then known r.words[7] else known 0)
        ∧ (∀ j : Fin 16, z.r.h[j] = if j.val = 0 then r.words[4] else 0) ∧ field z.r.fstat 0 7 = field r.words[3] 0 7
        ∧ z.r.budget.toNat = (if recBudget r.words ≠ 0 then recBudget r.words
          else if recCrew r.words = 0 then 2 ^ 32 - 1
          else field (s.mem64 (s.crewMA p (recCrew r.words) + 16)) 0 32) ∧ z.r.vcfg = Arch.reset.vcfg
        ∧ z.r.m = Arch.reset.m ∧ z.r.q = Arch.reset.q ∧ z.r.x = Arch.reset.x ∧ z.r.t = Arch.reset.t
        ∧ z.r.v = Arch.reset.v ∧ z.r.bt = Arch.reset.bt ∧ z.r.p = 1 ∧ z.r.mactl = 0
        ∧ z.r.spad = c.r.spad ∧ z.r.cf = c.r.cf ∧ z.r.cfstat = c.r.cfstat ∧ z.r.bar = c.r.bar ∧ z.r.swz = c.r.swz
        ∧ z.r.srseed = c.r.srseed ∧ z.pendU = r.held ∧ z.pendK = c.pendK
        ∧ (∀ x ∈ (t.cluster cl).store, x.uid ≠ r.uid) ∧ (t.cluster cl).run = run
        ∧ ∀ j, j ≠ k → t.core j = s.core j)
  ∧ ∀ (s : State) (cl q : Nat),
    (s.queueV cl q = false → exec (.queueDestroy cl q) s = .next s)
    ∧ (s.queueV cl q = true → ∃ t, exec (.queueDestroy cl q) s = .next t ∧ t.queueV cl q = false
      ∧ t.queueGen cl q = (s.queueGen cl q + 1) % 2 ^ 16 ∧ ∀ r ∈ (t.cluster cl).store, r.queue ≠ q)
    ∧ exec (.qstatClear cl) s = .next (s.setCluster cl { s.cluster cl with badrec := 0, drop := 0, late := 0 })

/-- R325, R356, R369 to R376: a launch's next record is placed in its queue; a launch whose shape word is full resolves:
its blocks outside the true shape are squashed and the missing ones built; the allocations of squashed blocks are
freed; a complete crew frees its id. An orrery's GO loads its table; a signal lowers a node's pending count, and at 0
the node fires; a full index word is taken and its entry signalled; what the orrery cannot do is a fault. When allocations
are retracted is log entry 126's reading, whose the orrery's launches are log entry 97's, and which bits of a poisoned shape
word count log entry 66's; log entries 96, 98, 99 and 138 say more. -/
def Obligations.LaunchAndOrreryEvents : Prop :=
  (∀ (s : State) (cl : Nat) (l : Launch) (before after : List Launch) (e : Nat × Vector W64 8),
    s.launches = before ++ l :: after → (∀ x ∈ before, ∀ y ∈ x.pending, y.1 / 4096 ≠ cl) →
    l.pending.find? (fun y => y.1 / 4096 == cl) = some e →
    let q := e.1 % 4096
    let placed := { l with pending := l.pending.erase e }
    (s.queueV cl q = true → s.overflowed cl q = 0 → s.storeUsed cl < 4096 → s.isOut (s.queuePart cl q) = false →
      recState e.2 = 0 → ∃ t r, exec (.launchRecordPlace cl) s = .next t ∧ (t.cluster cl).store
          = (s.cluster cl).store ++ [r] ∧ r.queue = q ∧ r.state = .ready ∧ r.words = setCause e.2 0
          ∧ r.launch = some l.id ∧ t.launches = s.launches.map fun x => if x.id = l.id then placed else x)
    ∧ (s.queueV cl q = false → ∃ t, exec (.launchRecordPlace cl) s = .next t
      ∧ (t.cluster cl).drop.toNat = min 0xFFFF ((s.cluster cl).drop.toNat + 1)
      ∧ t.launches = s.launches.map fun x => if x.id = l.id then { placed with failed := true } else x))
  ∧ (∀ (s : State) (id j w : Nat) (l : Launch), (s.launches.find? fun x => x.id == id) = some l →
    l.word = some (j, w) →
    let full := dimsOf (s.bankWord l.part j w).data
    let shape := clampTo full l.dims
    (wordFull s l = false → exec (.shapeResolve id) s = .next s)
    ∧ (wordFull s l = true → ∃ t m, exec (.shapeResolve id) s = .next t ∧ m ∈ t.launches ∧ m.id = id ∧ m.shape = shape
      ∧ m.openShape = false ∧ m.word = none ∧ m.clamped = decide (shape ≠ full)
      ∧ m.pending = l.pending.filter (fun e => inside (recBlock e.2) shape)
          ++ launchRecords s { l with shape := shape } false ((blocksOf shape).filter fun b => !inside b l.shape)
      ∧ (∀ cl, ∀ r ∈ (t.cluster cl).store, r.launch = some l.id → inside (recBlock r.words) shape = true)
      ∧ (∀ k b, (t.core k).blk = some b → b.rcd.launch = some l.id → inside (recBlock b.rcd.words) shape = false →
        b.squashed = true)
      ∧ (let entry := s.crewMA l.part l.crew.toNat + 8
        (∀ x ∈ s.hbm, x.2.retired = []) → s.edits = [] → s.dying = [] → l.crew ≠ 0 →
        (regionOf entry = .tiered → (s.page (pageOf entry)).tier = some 0) → bit (t.mem64 entry) 1 = false)))
  ∧ (∀ (s : State) (id : Nat) (l : Launch), (s.launches.find? fun x => x.id == id) = some l →
    (l.retract = [] ∨ blocksRemain s l = true → exec (.retract id) s = .next s)
    ∧ (l.retract ≠ [] → blocksRemain s l = false → ∃ t, exec (.retract id) s = .next t
      ∧ t.launches = s.launches.map (fun x => if x.id = l.id then { l with retract := [] } else x)
      ∧ ∀ a, a ∈ (t.part l.part).allocs ↔ a ∈ (s.part l.part).allocs
        ∧ ∀ i ∈ l.retract, a.tag ≠ some (l.id, i)))
  ∧ (∀ (s : State) (p crew : Nat),
    (crewDone s p crew = false → exec (.crewComplete p crew) s = .next s)
    ∧ (crewDone s p crew = true → (∀ x ∈ s.hbm, x.2.retired = []) →
      (regionOf (s.crewMA p crew + 8) = .tiered → (s.page (pageOf (s.crewMA p crew + 8))).tier = some 0) → ∃ t, exec (.crewComplete p crew) s = .next t
      ∧ bit (t.mem64 (s.crewMA p crew + 8)) 0 = false
      ∧ t.launches = s.launches.filter fun l => !(l.part == p && l.crew.toNat == crew)))
  ∧ (∀ (s : State) (cl : Nat),
    let c := s.cluster cl
    let n := field c.orrbase 0 10 + 1
    let base := field c.orrbase 12 44 * 2 ^ 12
    let idle := field c.orrctl 62 2 ≠ 1 ∨ c.nodes = []
    (¬idle → exec (.orreryGo cl) s = .next s)
    ∧ (idle → ∀ p, s.absentPage base (64 * n) = some p →
      (field c.orrctl 62 2 ≠ 1 ∨ (∀ x ∈ c.olost, x.1 ≠ p) → ∃ t, exec (.orreryGo cl) s = .next t
        ∧ field (t.cluster cl).orrctl 62 2 = 1 ∧ (t.cluster cl).nodes = [])
      ∧ (field c.orrctl 62 2 = 1 → (∃ x ∈ c.olost, x.1 = p) → ∃ t, exec (.orreryGo cl) s = .next t
        ∧ field (t.cluster cl).orrctl 62 2 = 3 ∧ field (t.cluster cl).orrctl 48 4 = 4
        ∧ field (t.cluster cl).orrctl 52 10 = 0))
    ∧ (idle → s.absentPage base (64 * n) = none → s.nodeTable cl base n = none → ∃ t, exec (.orreryGo cl) s = .next t
      ∧ field (t.cluster cl).orrctl 62 2 = 3 ∧ field (t.cluster cl).orrctl 48 4 = 4)
    ∧ ∀ bs, idle → s.absentPage base (64 * n) = none → s.nodeTable cl base n = some bs →
      ∃ t, exec (.orreryGo cl) s = .next t
      ∧ (t.cluster cl).nodes = (List.range n).map (fun i => loadNode (slice bs (64 * i) 64))
      ∧ (t.cluster cl).signals
        = (List.range n).filter (fun i => (loadNode (slice bs (64 * i) 64)).pending == 0)
      ∧ ((t.cluster cl).signals ≠ [] → field (t.cluster cl).orrctl 62 2 = 1))
  ∧ ∀ (s : State) (cl i : Nat) (n : Node),
    let c := s.cluster cl
    let faults := fun (e : Instr) (code : Nat) => ∃ t, exec e s = .next t ∧ field (t.cluster cl).orrctl 62 2 = 3
      ∧ field (t.cluster cl).orrctl 48 4 = code ∧ (t.cluster cl).signals = []
    let kind := field n.words[0] 60 4
    field c.orrctl 62 2 = 1 →
      (i ∈ c.signals → c.nodes[i]? = none → faults (.orreryNodeFire cl i) 3)
      ∧ (c.nodes[i]? = some n → i ∈ c.signals →
        (1 < n.pending → exec (.orreryNodeFire cl i) s = .next (s.setCluster cl { c with
            nodes := c.nodes.mapIdx fun j x => if j = i then { x with pending := x.pending - 1 } else x
            signals := c.signals.erase i }))
        ∧ (n.pending ≤ 1 → kind = 1 ∨ kind = 4 → ∃ t, exec (.orreryNodeFire cl i) s = .next t
          ∧ (t.cluster cl).signals = c.signals.erase i ++ (if kind = 1 then n.successors true true else [])
          ∧ (t.cluster cl).nodes[i]? = some { n with
              pending := field n.words[0] 32 16, waiting := n.waiting + if kind = 4 then 1 else 0 })
        ∧ (n.pending ≤ 1 → 5 ≤ kind → faults (.orreryNodeFire cl i) 3))
      ∧ ∀ k off, c.nodes[i]? = some n → n.waiting ≠ 0 → s.window (chipOfCluster cl) n.words[1] 8 = some (k, off) →
        field n.words[1] 57 7 = 0 → bit n.words[1] 56 = true → off % 8 = 0 →
        let o := graphOwner s cl 0
        let x := (s.core k).r.word (off / 8)
        (o.ns && s.secureCluster (clusterOf k)) = false → s.inImage o.part k = false →
        s.promised o.part (orreryAgent cl) 0 0 [(.spad k off, 8)] true = false →
          (x.full = false → exec (.orreryIndexTake cl i) s = .next s)
          ∧ (x.full = true → x.poison = false → field n.words[2] 0 5 ≤ x.data.toNat →
            faults (.orreryIndexTake cl i) 2)
          ∧ (x.full = true → x.poison = false → x.data.toNat < field n.words[2] 0 5 →
            ∃ t, exec (.orreryIndexTake cl i) s = .next t
              ∧ (t.core k).r.word (off / 8) = { x with full := false }
              ∧ (t.cluster cl).signals = c.signals ++ [n.entry x.data.toNat]
              ∧ (t.cluster cl).nodes[i]? = some { n with waiting := n.waiting - 1 })

/-! ## The generation pipeline -/

/-- R379 to R389: a message joins the requests of its endpoint; the tokeniser takes the next request under the entry as
it stands, or drops it; its words land in empty ring words; the template's record is enqueued after the first; a full
reply word gives out its token's bytes as well-formed UTF-8. Software writes an endpoint's words; an almanac is loaded
when every check passes, and else the first that fails is shown. That a request whose template is refused is counted once,
that its written words still land, and what clearing V leaves of it is log entry 101's reading. -/
def Obligations.PipelineEvents : Prop :=
  (∀ (s : State) (ch port job pid sender : Nat) (bytes : List (BitVec 8)),
    let mine := fun (e : Nat × Endpoint) => e.2.v && field e.2.words[0] 48 3 == port
      && field e.2.words[1] 32 24 == job && field e.2.words[1] 0 12 == pid
    (∀ e, s.closed ch = false → (s.chip ch).endpoints.find? mine = some e → exec (.ueMessageReceive ch port job pid (sender, bytes)) s
      = .next (s.setEndpoint ch e.1 { e.2 with waiting := e.2.waiting ++ [(sender, bytes)] }))
    ∧ (s.closed ch = true ∨ (s.chip ch).endpoints.find? mine = none → exec (.ueMessageReceive ch port job pid (sender, bytes)) s = .next s))
  ∧ (∀ (s : State) (ch e : Nat),
    let x := s.endpoint ch e
    (∀ sender bs rest, x.waiting = (sender, bs) :: rest → x.v = true → x.cur = none → engineFree s ch = true →
      (badEntry s ch x.words = true → exec (.tokeniseRequest ch e) s
        = .next (s.setEndpoint ch e { x with
            waiting := rest, dropreq := BitVec.ofNat 16 (min 0xFFFF (x.dropreq.toNat + 1)) }))
      ∧ (∀ a, badEntry s ch x.words = false → almanacOf s ch x.words = some a → ∃ y, exec (.tokeniseRequest ch e) s
          = .next (s.setEndpoint ch e { x with
              waiting := rest, truncs := y
              cur := some ⟨sender, x.words, x.kin, requestWords a.image (field x.words[6] 0 24) bs, false, false, false⟩ })
        ∧ y.toNat = if field x.words[6] 0 24 < bs.length then min 0xFFFF (x.truncs.toNat + 1) else x.truncs.toNat))
    ∧ (∀ t first v more k i n, x.cur = some t → t.words = (first, v) :: more →
      Endpoint.ringOf t.entry[4] = some (k, i, n) → s.inImage (endpointPart s t.entry) k = false →
        let at_ := fun (w : Nat × BitVec 64) => i + (t.base + BitVec.ofNat 32 w.1).toNat % n
        (((s.core k).r.word (at_ (first, v))).full = true → exec (.requestWordLand ch e) s = .next s)
        ∧ (((s.core k).r.word (at_ (first, v))).full = false → ∃ w ∈ t.words, w.1 < first + n
          ∧ ((s.core k).r.word (at_ w)).full = false ∧ ∃ u, exec (.requestWordLand ch e) s = .next u
            ∧ (u.core k).r.word (at_ w) = ⟨w.2, true, false⟩ ∧ (u.endpoint ch e).kin = x.kin + 1
            ∧ (1 < t.words.length ∨ t.sent = false ∧ t.dropped = false → (u.endpoint ch e).cur
              = some { t with words := t.words.erase w, landed := t.landed || w.1 == 0 })))
    ∧ (∀ t, x.cur = some t →
      let q := Endpoint.queueOf t.entry
      let words := templateRecord s t e
      (t.landed = false ∨ t.sent = true ∨ t.dropped = true → exec (.templateEnqueue ch e) s = .next s)
      ∧ (t.landed = true → t.sent = false → t.dropped = false → s.present (pageOf (field t.entry[3] 0 56)) = true →
        (badTemplate s ch t = true ∨ s.queueV q.1 q.2.1 = false ∨ s.queueGen q.1 q.2.1 ≠ q.2.2
          ∨ s.validRecord (chipOfCluster q.1) words = false → exec (.templateEnqueue ch e) s
            = .next (s.setEndpoint ch e { x with
                cur := t.discard (x.kin - t.base).toNat, dropreq := BitVec.ofNat 16 (min 0xFFFF (x.dropreq.toNat + 1)) }))
        ∧ (badTemplate s ch t = false → s.queueV q.1 q.2.1 = true → s.queueGen q.1 q.2.1 = q.2.2 →
          s.queueNs q.1 q.2.1 = bit t.entry[0] 62 → s.validRecord (chipOfCluster q.1) words = true →
          s.overflowed q.1 q.2.1 = 0 → s.storeUsed q.1 < 4096 → s.isOut (s.queuePart q.1 q.2.1) = false →
          recState words = 0 → ∃ u r, exec (.templateEnqueue ch e) s = .next u
            ∧ (u.cluster q.1).store = (s.cluster q.1).store ++ [r] ∧ r.queue = q.2.1 ∧ r.words = setCause words 0
            ∧ (u.endpoint ch e).asked = x.asked ++ [t.sender]
            ∧ (u.endpoint ch e).cur = if t.words = [] then none else some { t with sent := true })))
    ∧ ∀ a k i n, almanacOf s ch x.words = some a → Endpoint.ringOf x.words[5] = some (k, i, n) → x.v = true →
      badEntry s ch x.words = false → s.inImage (endpointPart s x.words) k = false →
      let at_ := i + x.kout.toNat % n
      let w := (s.core k).r.word at_
      let id := field w.data 0 32
      (w.full = false → exec (.detokeniseWord ch e) s = .next s)
      ∧ (w.full = true → ∃ u, exec (.detokeniseWord ch e) s = .next u
        ∧ (u.core k).r.word at_ = { w with full := false } ∧ (u.endpoint ch e).kout = x.kout + 1
        ∧ let bs := x.heldBytes ++ (if w.poison = true ∨ ntok a.image ≤ id then [] else tokenString a.image id)
          let out := emitUtf8 (bs.length + 1) bs
          (u.endpoint ch e).badid.toNat
            = (if w.poison = true ∨ ntok a.image ≤ id then min 0xFFFF (x.badid.toNat + 1) else x.badid.toNat)
          ∧ (bit w.data 63 = false → (u.endpoint ch e).heldBytes = out.2
            ∧ (u.endpoint ch e).sent = x.sent ++ out.1 ∧ (u.endpoint ch e).replies = x.replies)
          ∧ (bit w.data 63 = true → (u.endpoint ch e).heldBytes = [] ∧ (u.endpoint ch e).sent = []
            ∧ (u.endpoint ch e).replies
              = x.replies ++ [(x.asked.headD 0, x.sent ++ out.1 ++ if out.2 = [] then [] else [0xEF, 0xBF, 0xBD])]
            ∧ (u.endpoint ch e).asked = x.asked.drop 1)))
  ∧ (∀ (s : State) (ch e : Nat) (first : Nat × W64) (rest : List (Nat × W64)) (who : Requester),
    let x := s.endpoint ch e
    let vals := first :: rest
    (s.closed ch = true ∨ who = .userCore ∨ x.ns = false ∧ secureAccess who = false → exec (.endpointWrite ch e first rest who) s = .next s)
    ∧ (s.closed ch = false → kernelAccess who = true → e < 65536 → x.ns = true ∨ secureAccess who = true →
      ∃ t, exec (.endpointWrite ch e first rest who) s = .next t
        ∧ let y := t.endpoint ch e
          (∀ i v, vals.Pairwise (fun a b => a.1 ≠ b.1) → (i, v) ∈ vals → i < 7 → y.words[i]? = some v)
          ∧ (∀ i : Fin 8, i.val = 7 ∨ (∀ w ∈ vals, w.1 ≠ i.val) → y.words[i] = x.words[i])
          ∧ (x.v = false → y.v = true → y.kin = 0 ∧ y.kout = 0 ∧ y.heldBytes = [])
          ∧ (x.v = true → y.v = false → y.waiting = [] ∧ y.kin = x.kin
            ∧ y.cur = (match x.cur with | some t => if t.words = [] then some t else none | none => none)
            ∧ y.dropreq.toNat = min 0xFFFF (x.dropreq.toNat + x.waiting.length + ofBool x.unfinished))))
  ∧ ∀ (s : State) (ch : Nat) (val : W64) (who : Requester),
    let c := s.chip ch
    (s.closed ch = true ∨ who = .userCore ∨ field c.almstat 62 2 = 1 → exec (.almanacLoad ch val who) s = .next s)
    ∧ (s.closed ch = false → kernelAccess who = true → field c.almstat 62 2 ≠ 1 → ∃ t, exec (.almanacLoad ch val who) s = .next t
      ∧ field (t.chip ch).almstat 62 2 = 1 ∧ field (t.chip ch).almstat 58 4 = field val 60 4
      ∧ (t.chip ch).almanacs = c.almanacs)
    ∧ (field c.almstat 62 2 = 1 →
      let ma := field c.almload 0 56
      let slot := field c.almload 60 4
      let d := imageData s ch ma (imageLen s ch ma)
      let inUse := c.endpoints.any fun e => e.2.v && field e.2.words[0] 58 4 == slot
      let code := almanacCode (d.map (·.1)) (d.any (·.2)) inUse
      absentPages s ma (imageLen s ch ma) = [] → ∃ t, exec (.almanacLoadDone ch) s = .next t
        ∧ field (t.chip ch).almstat 62 2 = (if code = 0 then 2 else 3) ∧ field (t.chip ch).almstat 48 4 = code
        ∧ (code ≠ 0 → (t.chip ch).almanacs = c.almanacs)
        ∧ (code = 0 → (Table.look (t.chip ch).almanacs slot).map (·.image) = some (d.map (·.1))))

/-! ## Partitions, power and the registers of a module -/

/-- R406 to R411: a swap-out takes the cores of a resident partition into its image when the shadow stores have room,
and is counted otherwise; a swap-in and the ends of both go on as PCTL.STATE says, and a partition that comes in has its
cores as they left; a partition reset waits for its commands, then for its rings, which are released, and then leaves its
cores in the reset state; a management restart returns stopped cores to idle, but in a module too hot for it. CLIM stays
with a core throughout, and FRZCNT, which freeze cycles alone raise. A module whose boot chain has stopped takes none of it. -/
def Obligations.PartitionEvents : Prop :=
  ∀ (s : State) (p : Nat),
    let x := s.part p
    let own := fun (c : Core) (r : Arch) => { r with clim := c.r.clim, frzcnt := c.r.frzcnt }
    let crewsHere := ∀ ma ∈ s.crewPages p, regionOf ma = .tiered → (s.page (pageOf ma)).tier = some 0
    let open_ := s.closed (p / 64) = false
    (x.state ≠ .resident ∨ ¬open_ → exec (.swapOut p) s = .next s)
    ∧ (x.state = .resident → open_ → s.roomFor (p / 64) [p] = false → exec (.swapOut p) s
      = .next (s.setPart p { x with refused := BitVec.ofNat 16 (min 0xFFFF (x.refused.toNat + 1)) }))
    ∧ (x.state = .resident → open_ → s.roomFor (p / 64) [p] = true → ∃ t, exec (.swapOut p) s = .next t
      ∧ (t.part p).state = .goingOut ∧ (t.part p).saved = true ∧ t.mem = s.mem
      ∧ ∀ k, (s.inPart p k = false → t.core k = s.core k)
        ∧ (s.inPart p k = true → (t.core k).blk = none ∧ (t.core k).r = own (s.core k) Arch.reset
          ∧ ∀ c, Table.look s.cores k = some c → ∃ z, Table.look (t.part p).image k = some z ∧ z.r = c.r ∧ z.pc = c.pc
            ∧ z.blk = c.blk ∧ z.kernel = c.kernel ∧ z.xq = c.xq ∧ z.bankU = c.bankU ∧ z.bankK = c.bankK))
    ∧ (x.state ≠ .out ∨ ¬open_ → exec (.swapIn p) s = .next s)
    ∧ (x.state = .out → open_ → s.rivals p .resident = [] → s.rivals p .comingIn = [] →
      exec (.swapIn p) s = .next (s.setPart p { x with state := .comingIn }))
    ∧ (x.state = .goingOut → exec (.swapComplete p) s = .next (s.setPart p { x with state := .out }))
    ∧ (x.state = .comingIn → s.rivals p .resident = [] → s.rivals p .goingOut = [] →
      (∀ c ∈ x.image, (s.core c.1).pageFault = none ∧ ∀ w ∈ c.2.wb.toList, refillNeeds s c.1 w = []) → ∃ t, exec (.swapComplete p) s = .next t
        ∧ (t.part p).state = .resident ∧ (t.part p).image = [] ∧ t.mem = s.mem
        ∧ ∀ k c, (k, c) ∈ x.image → (∀ y ∈ x.image, y.1 = k → y.2 = c) →
          (t.core k).r = { c.r with clim := (s.core k).r.clim, frzcnt := (t.core k).r.frzcnt }
          ∧ ((s.core k).vleft = 0 → (s.core k).charge.foldl (· + ·) 0 ≤ (s.core k).windowLimit →
            (t.core k).r.frzcnt = (s.core k).r.frzcnt) ∧ (t.core k).pc = c.pc ∧ (t.core k).blk = c.blk
          ∧ (t.core k).kernel = c.kernel ∧ (t.core k).xq = c.xq)
    ∧ (x.state = .goingOut ∨ x.state = .comingIn ∨ s.calm p = false → exec (.partitionReset p) s
      = .next (s.setPart p { x with wantReset := true }))
    ∧ (x.state = .resident → s.calm p = true → crewsHere → s.ringsRemain p = true → x.releasing = none →
      ∃ t, exec (.partitionReset p) s = .next t ∧ (t.part p).wantReset = true ∧ (t.part p).releasing = some s.now
        ∧ t.mem = s.mem)
    ∧ (x.state = .resident → s.calm p = true → crewsHere → s.ringsRemain p = false → ∃ t, exec (.partitionReset p) s = .next t
      ∧ (t.part p).wantReset = false ∧ (t.part p).kfault = false ∧ (t.part p).lostU = 0 ∧ (t.part p).lostK = 0
      ∧ (t.part p).image = [] ∧ (t.part p).pgran = x.pgran ∧ (t.part p).state = .resident
      ∧ (∀ k, s.inPart p k = true → (t.core k).blk = none ∧ (t.core k).stopped = false
        ∧ (t.core k).r = own (s.core k) Arch.reset)
      ∧ (∀ k, s.inPart p k = false → t.core k = s.core k) ∧ ∀ r ∈ t.rings, r.2.part ≠ p)
    ∧ (let hot := (s.chip (p / 64)).tempstop = true ∧ (s.chip (p / 64)).cool = false
      (hot ∨ ¬open_ → exec (.managementRestart p) s = .next s)
      ∧ (x.state = .resident → ¬hot → open_ → ∃ t, exec (.managementRestart p) s = .next t
      ∧ ∀ k c, (k, c) ∈ s.cores → (∀ y ∈ s.cores, y.1 = k → y.2 = c) →
        (s.inPart p k = true → c.stopped = true → (t.core k).stopped = false ∧ (t.core k).kernel = false
          ∧ (t.core k).blk = none ∧ (t.core k).r = c.r)
        ∧ (s.inPart p k = false ∨ c.stopped = false → t.core k = c)))

/-- R411, R420, R422, R426: power-on reset puts a module at its Reset values and keeps its fuses; a boot image that
passes its stage moves the chain on and any other stops it; a report is built once at a time; heat throttles a module,
CLIMCAP falls and rises by sixteenths, and 110 degrees stop every core. R8 to R11, R413, R414: a register write from
user privilege, from an agent that is not admitted, to a field map of RS by a requester that is not secure, or to a
register that is only read, does nothing; KVEC, PGRAN, PSTAT, DOMCFG, FABCFG, CLIMCAP and ARENATAB take what their field
maps and access codes say; a module whose boot chain has stopped takes no write. That CLIMCAP rises only by the steps lowered
is log entry 114's reading, that it reaches every core at once log entry 113's, and that the report describes the state at GO
log entry 116's. -/
def Obligations.ModuleEvents : Prop :=
  (∀ (s : State) (ch : Nat),
      let c := s.chip ch
      (∃ t, exec (.powerOnReset ch) s = .next t
        ∧ (∀ k, t.core k = if chipOf k = ch then Core.reset else s.core k)
        ∧ (∀ p, t.part p = if p / 64 = ch then Partition.reset else s.part p)
        ∧ (∀ cl, t.cluster cl = if chipOfCluster cl = ch then Cluster.reset else s.cluster cl)
        ∧ (∀ a, Memory.read t.mem a = if a / 2 ^ 48 = ch ∧ regionOf a = .tiered then 0 else Memory.read s.mem a)
        ∧ (t.chip ch).climcap = 11136 ∧ (t.chip ch).dommember = 1 ∧ (t.chip ch).domcfg = 0 ∧ (t.chip ch).boot.stage = 0
        ∧ (t.chip ch).boot.rootHash = c.boot.rootHash ∧ (t.chip ch).boot.revoked = c.boot.revoked
        ∧ (t.chip ch).boot.version = c.boot.version ∧ t.timeAt ch = 0 ∧ ∀ n, n ≠ ch → t.chip n = s.chip n)
      ∧ (∀ img : BootImage, c.boot.stage < 3 ∨ c.boot.failed = true →
        let stage := if c.boot.failed = true then 0 else c.boot.stage
        let good := img.stage = stage ∧ trusted c.boot img = true
          ∧ Config.sm2Verify img.key (sm3 img.bytes) img.sig = true ∧ c.boot.version ≤ img.version.toNat
        ∃ t, exec (.bootStageVerify ch img) s = .next t
          ∧ (good → (t.chip ch).boot.stage = stage + 1 ∧ t.closed ch = false
            ∧ getReg (t.chip ch).boot.digests stage 0 = sm3 img.bytes
            ∧ (t.chip ch).boot.version
              = if img.advance then max c.boot.version img.version.toNat else c.boot.version)
          ∧ (¬good → (t.chip ch).boot = { c.boot with failed := true } ∧ t.closed ch = true))
      ∧ (c.attgo = true → exec (.attestationStart ch) s = .next s
        ∧ ∃ t, exec (.attestationDone ch) s = .next t ∧ (t.chip ch).attgo = false ∧ (t.chip ch).attdone = true
          ∧ (t.chip ch).report = (c.attbody ++ toBytes 64 (Config.sm2Sign ch (sm3 c.attbody)).toNat
            ++ Config.certificate ch).take 12288)
      ∧ (c.attgo = false → exec (.attestationStart ch) s
          = .next (s.setChip ch { c with attgo := true, attdone := false, attbody := reportBody s ch })
        ∧ exec (.attestationDone ch) s = .next s)
      ∧ (∀ unit temp, unit < 6 → temp < 1024 → ∃ t, exec (.thermalThrottle ch unit temp) s = .next t
        ∧ (getReg (t.chip ch).temps unit 0).toNat = temp ∧ (400 ≤ temp → (t.chip ch).throttle = true)
        ∧ (temp < 400 → c.throttle = false → (t.chip ch).throttle = false)
        ∧ (c.throttle = true → (t.chip ch).throttle = false →
          temp < 380 ∧ ∀ i, i < 6 → i ≠ unit → (getReg c.temps i 0).toNat < 380)
        ∧ (temp < 440 → t.cores = s.cores))
      ∧ (∀ cap, (c.throttle = true ∧ cap = max 128 (c.climcap.toNat - 696)
          ∨ c.throttle = false ∧ c.lowered ≠ 0 ∧ cap = max 128 (min 11136 (c.climcap.toNat + 696))) →
        ∃ t, exec (.climcapStep ch) s = .next t ∧ (t.chip ch).climcap.toNat = cap
          ∧ (∀ k, isCore k = true → chipOf k = ch → field (t.core k).r.clim 32 16 = cap)
          ∧ ∀ k, chipOf k ≠ ch → t.core k = s.core k)
      ∧ (c.throttle = false → c.lowered = 0 → exec (.climcapStep ch) s = .next s)
      ∧ ∀ unit temp, unit < 6 → 440 ≤ temp →
        ∀ i ∈ [Instr.thermalStop ch unit temp, .thermalThrottle ch unit temp], ∃ t, exec i s = .next t
          ∧ (t.chip ch).tempstop = true ∧ ∀ k, isCore k = true → chipOf k = ch → (t.core k).stopped = true
            ∧ ((s.core k).stopped = false → (t.core k).kernel = false))
  ∧ ∀ (s : State) (ch o : Nat) (v : W64) (who : Requester), ch < 256 →
    let write := fun o : Nat => exec (.registerWrite (registerMA ch o) 8 v who) s
    let secure := secureAccess who = true
    (kernelAccess who = false ∨ s.closed ch = true → o < 0x4000000 → write o = .next s)
    ∧ (∀ r, regAt o = some r → o < 0x4000000 → r.secureOnly = true → secureAccess who = false → write o = .next s)
    ∧ (kernelAccess who = true → s.closed ch = false →
      (∀ n, n ∈ [0x0, 0x1000, 0x1008, 0x1010, 0x1018, 0x1020, 0x200018, 0x200100, 0x300008] → write n = .next s)
      ∧ (∀ p < 40,
        let x := s.part (ch * 64 + p)
        write (0x400018 + 0x1000 * p) = .next (s.setPart (ch * 64 + p) { x with kvec := v &&& 0x01FFFFFFFFFFFFFC })
        ∧ write (0x400028 + 0x1000 * p)
          = .next (s.setPart (ch * 64 + p) { x with arenatab := v &&& 0x00FFFFFFFFFFF000 })
        ∧ write (0x400010 + 0x1000 * p)
          = .next (s.setPart (ch * 64 + p) { x with kfault := x.kfault && !v.getLsbD 0 })
        ∧ (secure → write (0x400000 + 0x1000 * p)
          = .next (s.setPart (ch * 64 + p) { x with pgran := v.setWidth 40 })))
      ∧ (secure → ∃ t, write 0x8 = .next t ∧ t.chip (field v 0 8) = { s.chip ch with domcfg := v.setWidth 8 })
      ∧ (secure → ∀ u < 24, write (0x300000 + 0x100 * u) = .next (s.setFab (ch * 32 + u)
        { s.fab (ch * 32 + u) with timeout := BitVec.ofNat 16 (max 256 (field v 0 16)) }))
      ∧ (∃ t, write 0x18 = .next t ∧ (t.chip ch).climcap.toNat = max 128 (field v 0 16)
        ∧ ∀ k, isCore k = true → chipOf k = ch → field (t.core k).r.clim 32 16 = max 128 (field v 0 16)))
end

