-- ==== Sys2Proof/Laws/Encoding.lean ====
section
/-! SUPPORT. What the decoder reads from a word that the encoder has put together: the opcode, the guard and the
form fields (R179). -/
namespace Sys2Proof

/-- The number of a slot word is the sum of its parts. -/
theorem toNat_slotWord {g : Guard} {op form : Nat} (ho : op < 2 ^ 7) (hf : form < 2 ^ 20) :
    (slotWord g op form).toNat = g.gp.toNat * 2 ^ 28 + g.gn.toNat * 2 ^ 27 + op * 2 ^ 20 + form := by
  have h1 := g.gp.isLt
  have h2 : g.gn.toNat ≤ 1 := Bool.toNat_le g.gn
  simp only [slotWord, BitVec.toNat_ofNat]
  omega

/-- A slot word's opcode is the one it was built with. -/
theorem opcodeOf_slotWord {g : Guard} {op form : Nat} (ho : op < 2 ^ 7) (hf : form < 2 ^ 20) :
    opcodeOf (slotWord g op form) = op := by
  simp only [opcodeOf, toNat_slotWord ho hf]
  omega

/-- A slot word's guard is the one it was built with. -/
theorem guardOf_slotWord {g : Guard} {op form : Nat} (ho : op < 2 ^ 7) (hf : form < 2 ^ 20) :
    guardOf (slotWord g op form) = g := by
  have h1 := g.gp.isLt
  have h2 : g.gn.toNat ≤ 1 := Bool.toNat_le g.gn
  obtain ⟨gp, gn⟩ := g
  simp only [guardOf, Guard.mk.injEq]
  refine ⟨BitVec.eq_of_toNat_eq ?_, ?_⟩
  · simp only [fld, BitVec.toNat_ofNat, toNat_slotWord ho hf] at *
    omega
  · simp only [flag, toNat_slotWord ho hf] at *
    cases gn <;> simp at * <;> omega

/-- A run of form bits of a slot word is that run of the form. -/
theorem form_slotWord {g : Guard} {op form : Nat} (ho : op < 2 ^ 7) (hf : form < 2 ^ 20) (lo k : Nat)
    (h : lo + k ≤ 20) : (slotWord g op form).toNat / 2 ^ lo % 2 ^ k = form / 2 ^ lo % 2 ^ k := by
  have h3 : g.gp.toNat * 2 ^ 28 + g.gn.toNat * 2 ^ 27 + op * 2 ^ 20
      = 2 ^ lo * (2 ^ k * ((g.gp.toNat * 2 ^ 8 + g.gn.toNat * 2 ^ 7 + op) * 2 ^ (20 - (lo + k)))) := by
    rw [← Nat.mul_assoc (2 ^ lo), ← Nat.pow_add, Nat.mul_comm (2 ^ (lo + k)), Nat.mul_assoc, ← Nat.pow_add,
      Nat.sub_add_cancel h]
    omega
  rw [toNat_slotWord ho hf, h3, Nat.mul_add_div (Nat.two_pow_pos lo), Nat.mul_add_mod]

/-- A field of a slot word. -/
theorem fld_slotWord {g : Guard} {op form : Nat} (ho : op < 2 ^ 7) (hf : form < 2 ^ 20) (lo k : Nat)
    (h : lo + k ≤ 20) (v : BitVec k) (hv : form / 2 ^ lo % 2 ^ k = v.toNat) :
    fld (slotWord g op form) lo k = v := by
  apply BitVec.eq_of_toNat_eq
  rw [fld, BitVec.toNat_ofNat, form_slotWord ho hf lo k h, hv]

/-- A single bit of a slot word. -/
theorem flag_slotWord {g : Guard} {op form : Nat} (ho : op < 2 ^ 7) (hf : form < 2 ^ 20) (lo : Nat)
    (h : lo + 1 ≤ 20) (v : Bool) (hv : form / 2 ^ lo % 2 ^ 1 = v.toNat) :
    flag (slotWord g op form) lo = v := by
  have := form_slotWord (g := g) ho hf lo 1 h
  rw [flag, ← Nat.pow_one 2, this, hv]
  cases v <;> rfl

/-- A run of constant bits of a slot word. -/
theorem holds_slotWord {g : Guard} {op form : Nat} (ho : op < 2 ^ 7) (hf : form < 2 ^ 20) (lo k c : Nat)
    (h : lo + k ≤ 20) (hv : form / 2 ^ lo % 2 ^ k = c) : holds (slotWord g op form) lo k c = true := by
  rw [holds, form_slotWord ho hf lo k h, hv, beq_self_eq_true]

/-- A field of a word whose constant bits hold is accepted. -/
theorem accept_eq {ok : Bool} {i j : Instr} (h : ok = true) (e : i = j) : accept ok i = .ok j := by
  rw [accept, if_pos h, e]

/-- A well-formed instruction whose word its slot's decoder reads is what the slot decodes. -/
theorem decodeSlot_eq {sl : Slot} {w : BitVec 32} {i : Instr} (h : decodeRaw sl w = .ok i)
    (hw : i.wellFormed = true) : decodeSlot sl w = .ok i := by
  simp only [decodeSlot, h, hw, if_true]

/-! ## Form fields -/

/-- A truth value fits one bit. -/
theorem bool_lt (b : Bool) : b.toNat < 2 ^ 1 := Bool.toNat_lt b

/-- A bound on a form with a field above the others. -/
theorem place_cons_lt {v lo k n : Nat} {r : List (Nat × Nat)} (hv : v < 2 ^ k) (hr : place r < 2 ^ lo)
    (h : lo + k ≤ n) : place ((v, lo) :: r) < 2 ^ n := by
  refine Nat.lt_of_lt_of_le ?_ (Nat.pow_le_pow_right (by decide) h)
  have h1 : (v + 1) * 2 ^ lo ≤ 2 ^ k * 2 ^ lo := Nat.mul_le_mul_right _ hv
  rw [Nat.add_mul, Nat.one_mul] at h1
  rw [Nat.pow_add, Nat.mul_comm (2 ^ lo)]
  show v * 2 ^ lo + place r < _
  omega

/-- An empty form is zero. -/
theorem place_nil_lt (n : Nat) : place [] < 2 ^ n := Nat.two_pow_pos n

/-- A field is read where it was placed. -/
theorem place_hit {v lo k : Nat} {r : List (Nat × Nat)} (hv : v < 2 ^ k) (hr : place r < 2 ^ lo) :
    place ((v, lo) :: r) / 2 ^ lo % 2 ^ k = v := by
  show (v * 2 ^ lo + place r) / 2 ^ lo % 2 ^ k = v
  rw [Nat.mul_comm, Nat.mul_add_div (Nat.two_pow_pos lo), Nat.div_eq_of_lt hr, Nat.add_zero, Nat.mod_eq_of_lt hv]

/-- A field above the run that is read does not matter. -/
theorem place_skip {v hi lo k c : Nat} {r : List (Nat × Nat)} (h : lo + k ≤ hi)
    (hr : place r / 2 ^ lo % 2 ^ k = c) : place ((v, hi) :: r) / 2 ^ lo % 2 ^ k = c := by
  show (v * 2 ^ hi + place r) / 2 ^ lo % 2 ^ k = c
  have h3 : v * 2 ^ hi = 2 ^ lo * (2 ^ k * (v * 2 ^ (hi - (lo + k)))) := by
    rw [← Nat.mul_assoc (2 ^ lo), ← Nat.pow_add, Nat.mul_comm (2 ^ (lo + k)), Nat.mul_assoc, ← Nat.pow_add,
      Nat.sub_add_cancel h]
  rw [h3, Nat.mul_add_div (Nat.two_pow_pos lo), Nat.mul_add_mod, hr]

/-- Bits that no field was placed in are zero. -/
theorem place_zero {lo k : Nat} {r : List (Nat × Nat)} (hr : place r < 2 ^ lo) :
    place r / 2 ^ lo % 2 ^ k = 0 := by
  rw [Nat.div_eq_of_lt hr, Nat.zero_mod]

/-- A run of bits that holds something else. -/
theorem holds_slotWord_ne {g : Guard} {op form : Nat} (ho : op < 2 ^ 7) (hf : form < 2 ^ 20) (lo k c v : Nat)
    (h : lo + k ≤ 20) (hv : form / 2 ^ lo % 2 ^ k = v) (hn : (v == c) = false) :
    holds (slotWord g op form) lo k c = false := by
  rw [holds, form_slotWord ho hf lo k h, hv, hn]

/-! ## The opcodes that slots A and B share -/

/-- Slot A gives an opcode below 0x40 the meaning of R234. -/
theorem decodeA_shared {w : BitVec 32} {n : Nat} (h : opcodeOf w = n) (hn : n < 0x40) :
    decodeA w = decodeShared .A w := by
  unfold decodeA
  split <;> first | rfl | (exfalso; omega)

/-- Slot B gives an opcode below 0x40 the meaning of R234. -/
theorem decodeB_shared {w : BitVec 32} {n : Nat} (h : opcodeOf w = n) (hn : n < 0x40) :
    decodeB w = decodeShared .B w := by
  unfold decodeB
  split <;> first | rfl | (exfalso; omega)

/-- A word with a shared opcode is read alike in its lane's slot. -/
theorem decodeRaw_shared {w : BitVec 32} {n : Nat} {i : Lane → Instr} (h : opcodeOf w = n) (hn : n < 0x40)
    (h7 : n ≠ 0x7F) (e : ∀ l, decodeShared l w = .ok (i l)) (sl : Lane) : decodeRaw sl.slot w = .ok (i sl) := by
  have h7' : opcodeOf w ≠ 0x7F := h ▸ h7
  cases sl
  · show (if opcodeOf w = 0x7F then _ else decodeA w) = _
    rw [if_neg h7', decodeA_shared h hn, e]
  · show (if opcodeOf w = 0x7F then _ else decodeB w) = _
    rw [if_neg h7', decodeB_shared h hn, e]

/-! ## The other slots -/

/-- `nop` is read alike in every slot (R191). -/
theorem decodeRaw_nop {w : BitVec 32} (h : opcodeOf w = 0x7F) (sl : Slot) : decodeRaw sl w = decodeNop sl w := if_pos h

/-- Any other opcode of slot C. -/
theorem decodeRaw_C {w : BitVec 32} {n : Nat} (h : opcodeOf w = n) (hn : n ≠ 0x7F) : decodeRaw .C w = decodeC w :=
  if_neg (h ▸ hn)

/-- Any other opcode of slot A. -/
theorem decodeRaw_A {w : BitVec 32} {n : Nat} (h : opcodeOf w = n) (hn : n ≠ 0x7F) : decodeRaw .A w = decodeA w :=
  if_neg (h ▸ hn)

/-- Any other opcode of slot B. -/
theorem decodeRaw_B {w : BitVec 32} {n : Nat} (h : opcodeOf w = n) (hn : n ≠ 0x7F) : decodeRaw .B w = decodeB w :=
  if_neg (h ▸ hn)

/-- Any other opcode of slot V. -/
theorem decodeRaw_V {w : BitVec 32} {n : Nat} (h : opcodeOf w = n) (hn : n ≠ 0x7F) : decodeRaw .V w = decodeV w :=
  if_neg (h ▸ hn)

/-- Any other opcode of slot M. -/
theorem decodeRaw_M {w : BitVec 32} {n : Nat} (h : opcodeOf w = n) (hn : n ≠ 0x7F) : decodeRaw .M w = decodeM w :=
  if_neg (h ▸ hn)

/-- Any other opcode of slot F. -/
theorem decodeRaw_F {w : BitVec 32} {n : Nat} (h : opcodeOf w = n) (hn : n ≠ 0x7F) : decodeRaw .F w = decodeF w :=
  if_neg (h ▸ hn)

/-- Any other opcode of slot X. -/
theorem decodeRaw_X {w : BitVec 32} {n : Nat} (h : opcodeOf w = n) (hn : n ≠ 0x7F) : decodeRaw .X w = decodeX w :=
  if_neg (h ▸ hn)

/-- Any other opcode of slot G. -/
theorem decodeRaw_G {w : BitVec 32} {n : Nat} (h : opcodeOf w = n) (hn : n ≠ 0x7F) : decodeRaw .G w = decodeG w :=
  if_neg (h ▸ hn)

end Sys2Proof
end

