-- ==== Sys2Proof/Laws/State.lean ====
section
/-! SUPPORT. What each update of State and of Core leaves in each field, and what reading a unit gives after
writing one. -/
namespace Sys2Proof.Machine

/-! ## Tables -/

/-- A key that has been put is found. -/
@[simp] theorem Table.look_put_self {α : Type} (t : Table α) (k : Nat) (v : α) :
    Table.look (Table.put t k v) k = some v := by
  induction t with
  | nil => simp [Table.put, Table.look]
  | cons p r ih =>
    unfold Table.put
    split
    · simp [Table.look]
    · split
      · simp [Table.look]
      · rename_i h1 h2
        have : p.1 ≠ k := fun h => h2 h.symm
        simp [Table.look, this, ih]

/-- Another key is found as before. -/
theorem Table.look_put_ne {α : Type} (t : Table α) {k j : Nat} (v : α) (h : j ≠ k) :
    Table.look (Table.put t k v) j = Table.look t j := by
  induction t with
  | nil => simp [Table.put, Table.look, h.symm]
  | cons p r ih =>
    unfold Table.put
    split
    · simp [Table.look, h.symm]
    · split
      · rename_i h1 h2
        have : p.1 ≠ j := fun e => h (e ▸ h2.symm)
        simp [Table.look, h.symm, this]
      · simp only [Table.look, ih]

/-! ## State by field -/

@[simp] theorem State.setCore_tick (s : State) (k : Nat) (c : Core) : (s.setCore k c).tick = s.tick := rfl
@[simp] theorem State.setCore_now (s : State) (k : Nat) (c : Core) : (s.setCore k c).now = s.now := rfl
@[simp] theorem State.setCore_here (s : State) (k : Nat) (c : Core) : (s.setCore k c).here = s.here := rfl
@[simp] theorem State.setCore_turns (s : State) (k : Nat) (c : Core) : (s.setCore k c).turns = s.turns := rfl
@[simp] theorem State.setCore_agenda (s : State) (k : Nat) (c : Core) : (s.setCore k c).agenda = s.agenda := rfl
@[simp] theorem State.setCore_clusters (s : State) (k : Nat) (c : Core) : (s.setCore k c).clusters = s.clusters := rfl
@[simp] theorem State.setCore_chips (s : State) (k : Nat) (c : Core) : (s.setCore k c).chips = s.chips := rfl
@[simp] theorem State.setCore_parts (s : State) (k : Nat) (c : Core) : (s.setCore k c).parts = s.parts := rfl
@[simp] theorem State.setCore_hbm (s : State) (k : Nat) (c : Core) : (s.setCore k c).hbm = s.hbm := rfl
@[simp] theorem State.setCore_fabric (s : State) (k : Nat) (c : Core) : (s.setCore k c).fabric = s.fabric := rfl
@[simp] theorem State.setCore_pages (s : State) (k : Nat) (c : Core) : (s.setCore k c).pages = s.pages := rfl
@[simp] theorem State.setCore_objs (s : State) (k : Nat) (c : Core) : (s.setCore k c).objs = s.objs := rfl
@[simp] theorem State.setCore_rings (s : State) (k : Nat) (c : Core) : (s.setCore k c).rings = s.rings := rfl
@[simp] theorem State.setCore_mem (s : State) (k : Nat) (c : Core) : (s.setCore k c).mem = s.mem := rfl
@[simp] theorem State.setCore_beats (s : State) (k : Nat) (c : Core) : (s.setCore k c).beats = s.beats := rfl
@[simp] theorem State.setCore_accs (s : State) (k : Nat) (c : Core) : (s.setCore k c).accs = s.accs := rfl
@[simp] theorem State.setCore_posts (s : State) (k : Nat) (c : Core) : (s.setCore k c).posts = s.posts := rfl
@[simp] theorem State.setCore_decs (s : State) (k : Nat) (c : Core) : (s.setCore k c).decs = s.decs := rfl
@[simp] theorem State.setCore_recs (s : State) (k : Nat) (c : Core) : (s.setCore k c).recs = s.recs := rfl
@[simp] theorem State.setCore_walks (s : State) (k : Nat) (c : Core) : (s.setCore k c).walks = s.walks := rfl
@[simp] theorem State.setCore_launches (s : State) (k : Nat) (c : Core) : (s.setCore k c).launches = s.launches := rfl
@[simp] theorem State.setCore_colls (s : State) (k : Nat) (c : Core) : (s.setCore k c).colls = s.colls := rfl
@[simp] theorem State.setCore_dying (s : State) (k : Nat) (c : Core) : (s.setCore k c).dying = s.dying := rfl
@[simp] theorem State.setCore_edits (s : State) (k : Nat) (c : Core) : (s.setCore k c).edits = s.edits := rfl
@[simp] theorem State.setCore_quiet (s : State) (k : Nat) (c : Core) : (s.setCore k c).quiet = s.quiet := rfl
@[simp] theorem State.setCore_fresh (s : State) (k : Nat) (c : Core) : (s.setCore k c).fresh = s.fresh := rfl
@[simp] theorem State.setMe_tick (s : State) (c : Core) : (s.setMe c).tick = s.tick := rfl
@[simp] theorem State.setMe_now (s : State) (c : Core) : (s.setMe c).now = s.now := rfl
@[simp] theorem State.setMe_here (s : State) (c : Core) : (s.setMe c).here = s.here := rfl
@[simp] theorem State.setMe_turns (s : State) (c : Core) : (s.setMe c).turns = s.turns := rfl
@[simp] theorem State.setMe_agenda (s : State) (c : Core) : (s.setMe c).agenda = s.agenda := rfl
@[simp] theorem State.setMe_clusters (s : State) (c : Core) : (s.setMe c).clusters = s.clusters := rfl
@[simp] theorem State.setMe_chips (s : State) (c : Core) : (s.setMe c).chips = s.chips := rfl
@[simp] theorem State.setMe_parts (s : State) (c : Core) : (s.setMe c).parts = s.parts := rfl
@[simp] theorem State.setMe_hbm (s : State) (c : Core) : (s.setMe c).hbm = s.hbm := rfl
@[simp] theorem State.setMe_fabric (s : State) (c : Core) : (s.setMe c).fabric = s.fabric := rfl
@[simp] theorem State.setMe_pages (s : State) (c : Core) : (s.setMe c).pages = s.pages := rfl
@[simp] theorem State.setMe_objs (s : State) (c : Core) : (s.setMe c).objs = s.objs := rfl
@[simp] theorem State.setMe_rings (s : State) (c : Core) : (s.setMe c).rings = s.rings := rfl
@[simp] theorem State.setMe_mem (s : State) (c : Core) : (s.setMe c).mem = s.mem := rfl
@[simp] theorem State.setMe_beats (s : State) (c : Core) : (s.setMe c).beats = s.beats := rfl
@[simp] theorem State.setMe_accs (s : State) (c : Core) : (s.setMe c).accs = s.accs := rfl
@[simp] theorem State.setMe_posts (s : State) (c : Core) : (s.setMe c).posts = s.posts := rfl
@[simp] theorem State.setMe_decs (s : State) (c : Core) : (s.setMe c).decs = s.decs := rfl
@[simp] theorem State.setMe_recs (s : State) (c : Core) : (s.setMe c).recs = s.recs := rfl
@[simp] theorem State.setMe_walks (s : State) (c : Core) : (s.setMe c).walks = s.walks := rfl
@[simp] theorem State.setMe_launches (s : State) (c : Core) : (s.setMe c).launches = s.launches := rfl
@[simp] theorem State.setMe_colls (s : State) (c : Core) : (s.setMe c).colls = s.colls := rfl
@[simp] theorem State.setMe_dying (s : State) (c : Core) : (s.setMe c).dying = s.dying := rfl
@[simp] theorem State.setMe_edits (s : State) (c : Core) : (s.setMe c).edits = s.edits := rfl
@[simp] theorem State.setMe_quiet (s : State) (c : Core) : (s.setMe c).quiet = s.quiet := rfl
@[simp] theorem State.setMe_fresh (s : State) (c : Core) : (s.setMe c).fresh = s.fresh := rfl
@[simp] theorem State.setCluster_tick (s : State) (k : Nat) (c : Cluster) : (s.setCluster k c).tick = s.tick := rfl
@[simp] theorem State.setCluster_now (s : State) (k : Nat) (c : Cluster) : (s.setCluster k c).now = s.now := rfl
@[simp] theorem State.setCluster_here (s : State) (k : Nat) (c : Cluster) : (s.setCluster k c).here = s.here := rfl
@[simp] theorem State.setCluster_turns (s : State) (k : Nat) (c : Cluster) : (s.setCluster k c).turns = s.turns := rfl
@[simp] theorem State.setCluster_agenda (s : State) (k : Nat) (c : Cluster) : (s.setCluster k c).agenda = s.agenda := rfl
@[simp] theorem State.setCluster_cores (s : State) (k : Nat) (c : Cluster) : (s.setCluster k c).cores = s.cores := rfl
@[simp] theorem State.setCluster_chips (s : State) (k : Nat) (c : Cluster) : (s.setCluster k c).chips = s.chips := rfl
@[simp] theorem State.setCluster_parts (s : State) (k : Nat) (c : Cluster) : (s.setCluster k c).parts = s.parts := rfl
@[simp] theorem State.setCluster_hbm (s : State) (k : Nat) (c : Cluster) : (s.setCluster k c).hbm = s.hbm := rfl
@[simp] theorem State.setCluster_fabric (s : State) (k : Nat) (c : Cluster) : (s.setCluster k c).fabric = s.fabric := rfl
@[simp] theorem State.setCluster_pages (s : State) (k : Nat) (c : Cluster) : (s.setCluster k c).pages = s.pages := rfl
@[simp] theorem State.setCluster_objs (s : State) (k : Nat) (c : Cluster) : (s.setCluster k c).objs = s.objs := rfl
@[simp] theorem State.setCluster_rings (s : State) (k : Nat) (c : Cluster) : (s.setCluster k c).rings = s.rings := rfl
@[simp] theorem State.setCluster_mem (s : State) (k : Nat) (c : Cluster) : (s.setCluster k c).mem = s.mem := rfl
@[simp] theorem State.setCluster_beats (s : State) (k : Nat) (c : Cluster) : (s.setCluster k c).beats = s.beats := rfl
@[simp] theorem State.setCluster_accs (s : State) (k : Nat) (c : Cluster) : (s.setCluster k c).accs = s.accs := rfl
@[simp] theorem State.setCluster_posts (s : State) (k : Nat) (c : Cluster) : (s.setCluster k c).posts = s.posts := rfl
@[simp] theorem State.setCluster_decs (s : State) (k : Nat) (c : Cluster) : (s.setCluster k c).decs = s.decs := rfl
@[simp] theorem State.setCluster_recs (s : State) (k : Nat) (c : Cluster) : (s.setCluster k c).recs = s.recs := rfl
@[simp] theorem State.setCluster_walks (s : State) (k : Nat) (c : Cluster) : (s.setCluster k c).walks = s.walks := rfl
@[simp] theorem State.setCluster_launches (s : State) (k : Nat) (c : Cluster) : (s.setCluster k c).launches = s.launches := rfl
@[simp] theorem State.setCluster_colls (s : State) (k : Nat) (c : Cluster) : (s.setCluster k c).colls = s.colls := rfl
@[simp] theorem State.setCluster_dying (s : State) (k : Nat) (c : Cluster) : (s.setCluster k c).dying = s.dying := rfl
@[simp] theorem State.setCluster_edits (s : State) (k : Nat) (c : Cluster) : (s.setCluster k c).edits = s.edits := rfl
@[simp] theorem State.setCluster_quiet (s : State) (k : Nat) (c : Cluster) : (s.setCluster k c).quiet = s.quiet := rfl
@[simp] theorem State.setCluster_fresh (s : State) (k : Nat) (c : Cluster) : (s.setCluster k c).fresh = s.fresh := rfl
@[simp] theorem State.setChip_tick (s : State) (k : Nat) (c : Chip) : (s.setChip k c).tick = s.tick := rfl
@[simp] theorem State.setChip_now (s : State) (k : Nat) (c : Chip) : (s.setChip k c).now = s.now := rfl
@[simp] theorem State.setChip_here (s : State) (k : Nat) (c : Chip) : (s.setChip k c).here = s.here := rfl
@[simp] theorem State.setChip_turns (s : State) (k : Nat) (c : Chip) : (s.setChip k c).turns = s.turns := rfl
@[simp] theorem State.setChip_agenda (s : State) (k : Nat) (c : Chip) : (s.setChip k c).agenda = s.agenda := rfl
@[simp] theorem State.setChip_cores (s : State) (k : Nat) (c : Chip) : (s.setChip k c).cores = s.cores := rfl
@[simp] theorem State.setChip_clusters (s : State) (k : Nat) (c : Chip) : (s.setChip k c).clusters = s.clusters := rfl
@[simp] theorem State.setChip_parts (s : State) (k : Nat) (c : Chip) : (s.setChip k c).parts = s.parts := rfl
@[simp] theorem State.setChip_hbm (s : State) (k : Nat) (c : Chip) : (s.setChip k c).hbm = s.hbm := rfl
@[simp] theorem State.setChip_fabric (s : State) (k : Nat) (c : Chip) : (s.setChip k c).fabric = s.fabric := rfl
@[simp] theorem State.setChip_pages (s : State) (k : Nat) (c : Chip) : (s.setChip k c).pages = s.pages := rfl
@[simp] theorem State.setChip_objs (s : State) (k : Nat) (c : Chip) : (s.setChip k c).objs = s.objs := rfl
@[simp] theorem State.setChip_rings (s : State) (k : Nat) (c : Chip) : (s.setChip k c).rings = s.rings := rfl
@[simp] theorem State.setChip_mem (s : State) (k : Nat) (c : Chip) : (s.setChip k c).mem = s.mem := rfl
@[simp] theorem State.setChip_beats (s : State) (k : Nat) (c : Chip) : (s.setChip k c).beats = s.beats := rfl
@[simp] theorem State.setChip_accs (s : State) (k : Nat) (c : Chip) : (s.setChip k c).accs = s.accs := rfl
@[simp] theorem State.setChip_posts (s : State) (k : Nat) (c : Chip) : (s.setChip k c).posts = s.posts := rfl
@[simp] theorem State.setChip_decs (s : State) (k : Nat) (c : Chip) : (s.setChip k c).decs = s.decs := rfl
@[simp] theorem State.setChip_recs (s : State) (k : Nat) (c : Chip) : (s.setChip k c).recs = s.recs := rfl
@[simp] theorem State.setChip_walks (s : State) (k : Nat) (c : Chip) : (s.setChip k c).walks = s.walks := rfl
@[simp] theorem State.setChip_launches (s : State) (k : Nat) (c : Chip) : (s.setChip k c).launches = s.launches := rfl
@[simp] theorem State.setChip_colls (s : State) (k : Nat) (c : Chip) : (s.setChip k c).colls = s.colls := rfl
@[simp] theorem State.setChip_dying (s : State) (k : Nat) (c : Chip) : (s.setChip k c).dying = s.dying := rfl
@[simp] theorem State.setChip_edits (s : State) (k : Nat) (c : Chip) : (s.setChip k c).edits = s.edits := rfl
@[simp] theorem State.setChip_quiet (s : State) (k : Nat) (c : Chip) : (s.setChip k c).quiet = s.quiet := rfl
@[simp] theorem State.setChip_fresh (s : State) (k : Nat) (c : Chip) : (s.setChip k c).fresh = s.fresh := rfl
@[simp] theorem State.setPart_tick (s : State) (k : Nat) (p : Partition) : (s.setPart k p).tick = s.tick := rfl
@[simp] theorem State.setPart_now (s : State) (k : Nat) (p : Partition) : (s.setPart k p).now = s.now := rfl
@[simp] theorem State.setPart_here (s : State) (k : Nat) (p : Partition) : (s.setPart k p).here = s.here := rfl
@[simp] theorem State.setPart_turns (s : State) (k : Nat) (p : Partition) : (s.setPart k p).turns = s.turns := rfl
@[simp] theorem State.setPart_agenda (s : State) (k : Nat) (p : Partition) : (s.setPart k p).agenda = s.agenda := rfl
@[simp] theorem State.setPart_cores (s : State) (k : Nat) (p : Partition) : (s.setPart k p).cores = s.cores := rfl
@[simp] theorem State.setPart_clusters (s : State) (k : Nat) (p : Partition) : (s.setPart k p).clusters = s.clusters := rfl
@[simp] theorem State.setPart_chips (s : State) (k : Nat) (p : Partition) : (s.setPart k p).chips = s.chips := rfl
@[simp] theorem State.setPart_hbm (s : State) (k : Nat) (p : Partition) : (s.setPart k p).hbm = s.hbm := rfl
@[simp] theorem State.setPart_fabric (s : State) (k : Nat) (p : Partition) : (s.setPart k p).fabric = s.fabric := rfl
@[simp] theorem State.setPart_pages (s : State) (k : Nat) (p : Partition) : (s.setPart k p).pages = s.pages := rfl
@[simp] theorem State.setPart_objs (s : State) (k : Nat) (p : Partition) : (s.setPart k p).objs = s.objs := rfl
@[simp] theorem State.setPart_rings (s : State) (k : Nat) (p : Partition) : (s.setPart k p).rings = s.rings := rfl
@[simp] theorem State.setPart_mem (s : State) (k : Nat) (p : Partition) : (s.setPart k p).mem = s.mem := rfl
@[simp] theorem State.setPart_beats (s : State) (k : Nat) (p : Partition) : (s.setPart k p).beats = s.beats := rfl
@[simp] theorem State.setPart_accs (s : State) (k : Nat) (p : Partition) : (s.setPart k p).accs = s.accs := rfl
@[simp] theorem State.setPart_posts (s : State) (k : Nat) (p : Partition) : (s.setPart k p).posts = s.posts := rfl
@[simp] theorem State.setPart_decs (s : State) (k : Nat) (p : Partition) : (s.setPart k p).decs = s.decs := rfl
@[simp] theorem State.setPart_recs (s : State) (k : Nat) (p : Partition) : (s.setPart k p).recs = s.recs := rfl
@[simp] theorem State.setPart_walks (s : State) (k : Nat) (p : Partition) : (s.setPart k p).walks = s.walks := rfl
@[simp] theorem State.setPart_launches (s : State) (k : Nat) (p : Partition) : (s.setPart k p).launches = s.launches := rfl
@[simp] theorem State.setPart_colls (s : State) (k : Nat) (p : Partition) : (s.setPart k p).colls = s.colls := rfl
@[simp] theorem State.setPart_dying (s : State) (k : Nat) (p : Partition) : (s.setPart k p).dying = s.dying := rfl
@[simp] theorem State.setPart_edits (s : State) (k : Nat) (p : Partition) : (s.setPart k p).edits = s.edits := rfl
@[simp] theorem State.setPart_quiet (s : State) (k : Nat) (p : Partition) : (s.setPart k p).quiet = s.quiet := rfl
@[simp] theorem State.setPart_fresh (s : State) (k : Nat) (p : Partition) : (s.setPart k p).fresh = s.fresh := rfl
@[simp] theorem State.setStack_tick (s : State) (k : Nat) (x : Stack) : (s.setStack k x).tick = s.tick := rfl
@[simp] theorem State.setStack_now (s : State) (k : Nat) (x : Stack) : (s.setStack k x).now = s.now := rfl
@[simp] theorem State.setStack_here (s : State) (k : Nat) (x : Stack) : (s.setStack k x).here = s.here := rfl
@[simp] theorem State.setStack_turns (s : State) (k : Nat) (x : Stack) : (s.setStack k x).turns = s.turns := rfl
@[simp] theorem State.setStack_agenda (s : State) (k : Nat) (x : Stack) : (s.setStack k x).agenda = s.agenda := rfl
@[simp] theorem State.setStack_cores (s : State) (k : Nat) (x : Stack) : (s.setStack k x).cores = s.cores := rfl
@[simp] theorem State.setStack_clusters (s : State) (k : Nat) (x : Stack) : (s.setStack k x).clusters = s.clusters := rfl
@[simp] theorem State.setStack_chips (s : State) (k : Nat) (x : Stack) : (s.setStack k x).chips = s.chips := rfl
@[simp] theorem State.setStack_parts (s : State) (k : Nat) (x : Stack) : (s.setStack k x).parts = s.parts := rfl
@[simp] theorem State.setStack_fabric (s : State) (k : Nat) (x : Stack) : (s.setStack k x).fabric = s.fabric := rfl
@[simp] theorem State.setStack_pages (s : State) (k : Nat) (x : Stack) : (s.setStack k x).pages = s.pages := rfl
@[simp] theorem State.setStack_objs (s : State) (k : Nat) (x : Stack) : (s.setStack k x).objs = s.objs := rfl
@[simp] theorem State.setStack_rings (s : State) (k : Nat) (x : Stack) : (s.setStack k x).rings = s.rings := rfl
@[simp] theorem State.setStack_mem (s : State) (k : Nat) (x : Stack) : (s.setStack k x).mem = s.mem := rfl
@[simp] theorem State.setStack_beats (s : State) (k : Nat) (x : Stack) : (s.setStack k x).beats = s.beats := rfl
@[simp] theorem State.setStack_accs (s : State) (k : Nat) (x : Stack) : (s.setStack k x).accs = s.accs := rfl
@[simp] theorem State.setStack_posts (s : State) (k : Nat) (x : Stack) : (s.setStack k x).posts = s.posts := rfl
@[simp] theorem State.setStack_decs (s : State) (k : Nat) (x : Stack) : (s.setStack k x).decs = s.decs := rfl
@[simp] theorem State.setStack_recs (s : State) (k : Nat) (x : Stack) : (s.setStack k x).recs = s.recs := rfl
@[simp] theorem State.setStack_walks (s : State) (k : Nat) (x : Stack) : (s.setStack k x).walks = s.walks := rfl
@[simp] theorem State.setStack_launches (s : State) (k : Nat) (x : Stack) : (s.setStack k x).launches = s.launches := rfl
@[simp] theorem State.setStack_colls (s : State) (k : Nat) (x : Stack) : (s.setStack k x).colls = s.colls := rfl
@[simp] theorem State.setStack_dying (s : State) (k : Nat) (x : Stack) : (s.setStack k x).dying = s.dying := rfl
@[simp] theorem State.setStack_edits (s : State) (k : Nat) (x : Stack) : (s.setStack k x).edits = s.edits := rfl
@[simp] theorem State.setStack_quiet (s : State) (k : Nat) (x : Stack) : (s.setStack k x).quiet = s.quiet := rfl
@[simp] theorem State.setStack_fresh (s : State) (k : Nat) (x : Stack) : (s.setStack k x).fresh = s.fresh := rfl
@[simp] theorem State.setFab_tick (s : State) (k : Nat) (x : Fabric) : (s.setFab k x).tick = s.tick := rfl
@[simp] theorem State.setFab_now (s : State) (k : Nat) (x : Fabric) : (s.setFab k x).now = s.now := rfl
@[simp] theorem State.setFab_here (s : State) (k : Nat) (x : Fabric) : (s.setFab k x).here = s.here := rfl
@[simp] theorem State.setFab_turns (s : State) (k : Nat) (x : Fabric) : (s.setFab k x).turns = s.turns := rfl
@[simp] theorem State.setFab_agenda (s : State) (k : Nat) (x : Fabric) : (s.setFab k x).agenda = s.agenda := rfl
@[simp] theorem State.setFab_cores (s : State) (k : Nat) (x : Fabric) : (s.setFab k x).cores = s.cores := rfl
@[simp] theorem State.setFab_clusters (s : State) (k : Nat) (x : Fabric) : (s.setFab k x).clusters = s.clusters := rfl
@[simp] theorem State.setFab_chips (s : State) (k : Nat) (x : Fabric) : (s.setFab k x).chips = s.chips := rfl
@[simp] theorem State.setFab_parts (s : State) (k : Nat) (x : Fabric) : (s.setFab k x).parts = s.parts := rfl
@[simp] theorem State.setFab_hbm (s : State) (k : Nat) (x : Fabric) : (s.setFab k x).hbm = s.hbm := rfl
@[simp] theorem State.setFab_pages (s : State) (k : Nat) (x : Fabric) : (s.setFab k x).pages = s.pages := rfl
@[simp] theorem State.setFab_objs (s : State) (k : Nat) (x : Fabric) : (s.setFab k x).objs = s.objs := rfl
@[simp] theorem State.setFab_rings (s : State) (k : Nat) (x : Fabric) : (s.setFab k x).rings = s.rings := rfl
@[simp] theorem State.setFab_mem (s : State) (k : Nat) (x : Fabric) : (s.setFab k x).mem = s.mem := rfl
@[simp] theorem State.setFab_beats (s : State) (k : Nat) (x : Fabric) : (s.setFab k x).beats = s.beats := rfl
@[simp] theorem State.setFab_accs (s : State) (k : Nat) (x : Fabric) : (s.setFab k x).accs = s.accs := rfl
@[simp] theorem State.setFab_posts (s : State) (k : Nat) (x : Fabric) : (s.setFab k x).posts = s.posts := rfl
@[simp] theorem State.setFab_decs (s : State) (k : Nat) (x : Fabric) : (s.setFab k x).decs = s.decs := rfl
@[simp] theorem State.setFab_recs (s : State) (k : Nat) (x : Fabric) : (s.setFab k x).recs = s.recs := rfl
@[simp] theorem State.setFab_walks (s : State) (k : Nat) (x : Fabric) : (s.setFab k x).walks = s.walks := rfl
@[simp] theorem State.setFab_launches (s : State) (k : Nat) (x : Fabric) : (s.setFab k x).launches = s.launches := rfl
@[simp] theorem State.setFab_colls (s : State) (k : Nat) (x : Fabric) : (s.setFab k x).colls = s.colls := rfl
@[simp] theorem State.setFab_dying (s : State) (k : Nat) (x : Fabric) : (s.setFab k x).dying = s.dying := rfl
@[simp] theorem State.setFab_edits (s : State) (k : Nat) (x : Fabric) : (s.setFab k x).edits = s.edits := rfl
@[simp] theorem State.setFab_quiet (s : State) (k : Nat) (x : Fabric) : (s.setFab k x).quiet = s.quiet := rfl
@[simp] theorem State.setFab_fresh (s : State) (k : Nat) (x : Fabric) : (s.setFab k x).fresh = s.fresh := rfl
@[simp] theorem State.setPage_tick (s : State) (k : Nat) (x : Page) : (s.setPage k x).tick = s.tick := rfl
@[simp] theorem State.setPage_now (s : State) (k : Nat) (x : Page) : (s.setPage k x).now = s.now := rfl
@[simp] theorem State.setPage_here (s : State) (k : Nat) (x : Page) : (s.setPage k x).here = s.here := rfl
@[simp] theorem State.setPage_turns (s : State) (k : Nat) (x : Page) : (s.setPage k x).turns = s.turns := rfl
@[simp] theorem State.setPage_agenda (s : State) (k : Nat) (x : Page) : (s.setPage k x).agenda = s.agenda := rfl
@[simp] theorem State.setPage_cores (s : State) (k : Nat) (x : Page) : (s.setPage k x).cores = s.cores := rfl
@[simp] theorem State.setPage_clusters (s : State) (k : Nat) (x : Page) : (s.setPage k x).clusters = s.clusters := rfl
@[simp] theorem State.setPage_chips (s : State) (k : Nat) (x : Page) : (s.setPage k x).chips = s.chips := rfl
@[simp] theorem State.setPage_parts (s : State) (k : Nat) (x : Page) : (s.setPage k x).parts = s.parts := rfl
@[simp] theorem State.setPage_hbm (s : State) (k : Nat) (x : Page) : (s.setPage k x).hbm = s.hbm := rfl
@[simp] theorem State.setPage_fabric (s : State) (k : Nat) (x : Page) : (s.setPage k x).fabric = s.fabric := rfl
@[simp] theorem State.setPage_objs (s : State) (k : Nat) (x : Page) : (s.setPage k x).objs = s.objs := rfl
@[simp] theorem State.setPage_rings (s : State) (k : Nat) (x : Page) : (s.setPage k x).rings = s.rings := rfl
@[simp] theorem State.setPage_mem (s : State) (k : Nat) (x : Page) : (s.setPage k x).mem = s.mem := rfl
@[simp] theorem State.setPage_beats (s : State) (k : Nat) (x : Page) : (s.setPage k x).beats = s.beats := rfl
@[simp] theorem State.setPage_accs (s : State) (k : Nat) (x : Page) : (s.setPage k x).accs = s.accs := rfl
@[simp] theorem State.setPage_posts (s : State) (k : Nat) (x : Page) : (s.setPage k x).posts = s.posts := rfl
@[simp] theorem State.setPage_decs (s : State) (k : Nat) (x : Page) : (s.setPage k x).decs = s.decs := rfl
@[simp] theorem State.setPage_recs (s : State) (k : Nat) (x : Page) : (s.setPage k x).recs = s.recs := rfl
@[simp] theorem State.setPage_walks (s : State) (k : Nat) (x : Page) : (s.setPage k x).walks = s.walks := rfl
@[simp] theorem State.setPage_launches (s : State) (k : Nat) (x : Page) : (s.setPage k x).launches = s.launches := rfl
@[simp] theorem State.setPage_colls (s : State) (k : Nat) (x : Page) : (s.setPage k x).colls = s.colls := rfl
@[simp] theorem State.setPage_dying (s : State) (k : Nat) (x : Page) : (s.setPage k x).dying = s.dying := rfl
@[simp] theorem State.setPage_edits (s : State) (k : Nat) (x : Page) : (s.setPage k x).edits = s.edits := rfl
@[simp] theorem State.setPage_quiet (s : State) (k : Nat) (x : Page) : (s.setPage k x).quiet = s.quiet := rfl
@[simp] theorem State.setPage_fresh (s : State) (k : Nat) (x : Page) : (s.setPage k x).fresh = s.fresh := rfl
@[simp] theorem State.setObj_tick (s : State) (k : Nat) (x : Obj) : (s.setObj k x).tick = s.tick := rfl
@[simp] theorem State.setObj_now (s : State) (k : Nat) (x : Obj) : (s.setObj k x).now = s.now := rfl
@[simp] theorem State.setObj_here (s : State) (k : Nat) (x : Obj) : (s.setObj k x).here = s.here := rfl
@[simp] theorem State.setObj_turns (s : State) (k : Nat) (x : Obj) : (s.setObj k x).turns = s.turns := rfl
@[simp] theorem State.setObj_agenda (s : State) (k : Nat) (x : Obj) : (s.setObj k x).agenda = s.agenda := rfl
@[simp] theorem State.setObj_cores (s : State) (k : Nat) (x : Obj) : (s.setObj k x).cores = s.cores := rfl
@[simp] theorem State.setObj_clusters (s : State) (k : Nat) (x : Obj) : (s.setObj k x).clusters = s.clusters := rfl
@[simp] theorem State.setObj_chips (s : State) (k : Nat) (x : Obj) : (s.setObj k x).chips = s.chips := rfl
@[simp] theorem State.setObj_parts (s : State) (k : Nat) (x : Obj) : (s.setObj k x).parts = s.parts := rfl
@[simp] theorem State.setObj_hbm (s : State) (k : Nat) (x : Obj) : (s.setObj k x).hbm = s.hbm := rfl
@[simp] theorem State.setObj_fabric (s : State) (k : Nat) (x : Obj) : (s.setObj k x).fabric = s.fabric := rfl
@[simp] theorem State.setObj_pages (s : State) (k : Nat) (x : Obj) : (s.setObj k x).pages = s.pages := rfl
@[simp] theorem State.setObj_rings (s : State) (k : Nat) (x : Obj) : (s.setObj k x).rings = s.rings := rfl
@[simp] theorem State.setObj_mem (s : State) (k : Nat) (x : Obj) : (s.setObj k x).mem = s.mem := rfl
@[simp] theorem State.setObj_beats (s : State) (k : Nat) (x : Obj) : (s.setObj k x).beats = s.beats := rfl
@[simp] theorem State.setObj_accs (s : State) (k : Nat) (x : Obj) : (s.setObj k x).accs = s.accs := rfl
@[simp] theorem State.setObj_posts (s : State) (k : Nat) (x : Obj) : (s.setObj k x).posts = s.posts := rfl
@[simp] theorem State.setObj_decs (s : State) (k : Nat) (x : Obj) : (s.setObj k x).decs = s.decs := rfl
@[simp] theorem State.setObj_recs (s : State) (k : Nat) (x : Obj) : (s.setObj k x).recs = s.recs := rfl
@[simp] theorem State.setObj_walks (s : State) (k : Nat) (x : Obj) : (s.setObj k x).walks = s.walks := rfl
@[simp] theorem State.setObj_launches (s : State) (k : Nat) (x : Obj) : (s.setObj k x).launches = s.launches := rfl
@[simp] theorem State.setObj_colls (s : State) (k : Nat) (x : Obj) : (s.setObj k x).colls = s.colls := rfl
@[simp] theorem State.setObj_dying (s : State) (k : Nat) (x : Obj) : (s.setObj k x).dying = s.dying := rfl
@[simp] theorem State.setObj_edits (s : State) (k : Nat) (x : Obj) : (s.setObj k x).edits = s.edits := rfl
@[simp] theorem State.setObj_quiet (s : State) (k : Nat) (x : Obj) : (s.setObj k x).quiet = s.quiet := rfl
@[simp] theorem State.setObj_fresh (s : State) (k : Nat) (x : Obj) : (s.setObj k x).fresh = s.fresh := rfl
@[simp] theorem State.setRing_tick (s : State) (k : Nat) (x : Ring) : (s.setRing k x).tick = s.tick := rfl
@[simp] theorem State.setRing_now (s : State) (k : Nat) (x : Ring) : (s.setRing k x).now = s.now := rfl
@[simp] theorem State.setRing_here (s : State) (k : Nat) (x : Ring) : (s.setRing k x).here = s.here := rfl
@[simp] theorem State.setRing_turns (s : State) (k : Nat) (x : Ring) : (s.setRing k x).turns = s.turns := rfl
@[simp] theorem State.setRing_agenda (s : State) (k : Nat) (x : Ring) : (s.setRing k x).agenda = s.agenda := rfl
@[simp] theorem State.setRing_cores (s : State) (k : Nat) (x : Ring) : (s.setRing k x).cores = s.cores := rfl
@[simp] theorem State.setRing_clusters (s : State) (k : Nat) (x : Ring) : (s.setRing k x).clusters = s.clusters := rfl
@[simp] theorem State.setRing_chips (s : State) (k : Nat) (x : Ring) : (s.setRing k x).chips = s.chips := rfl
@[simp] theorem State.setRing_parts (s : State) (k : Nat) (x : Ring) : (s.setRing k x).parts = s.parts := rfl
@[simp] theorem State.setRing_hbm (s : State) (k : Nat) (x : Ring) : (s.setRing k x).hbm = s.hbm := rfl
@[simp] theorem State.setRing_fabric (s : State) (k : Nat) (x : Ring) : (s.setRing k x).fabric = s.fabric := rfl
@[simp] theorem State.setRing_pages (s : State) (k : Nat) (x : Ring) : (s.setRing k x).pages = s.pages := rfl
@[simp] theorem State.setRing_objs (s : State) (k : Nat) (x : Ring) : (s.setRing k x).objs = s.objs := rfl
@[simp] theorem State.setRing_mem (s : State) (k : Nat) (x : Ring) : (s.setRing k x).mem = s.mem := rfl
@[simp] theorem State.setRing_beats (s : State) (k : Nat) (x : Ring) : (s.setRing k x).beats = s.beats := rfl
@[simp] theorem State.setRing_accs (s : State) (k : Nat) (x : Ring) : (s.setRing k x).accs = s.accs := rfl
@[simp] theorem State.setRing_posts (s : State) (k : Nat) (x : Ring) : (s.setRing k x).posts = s.posts := rfl
@[simp] theorem State.setRing_decs (s : State) (k : Nat) (x : Ring) : (s.setRing k x).decs = s.decs := rfl
@[simp] theorem State.setRing_recs (s : State) (k : Nat) (x : Ring) : (s.setRing k x).recs = s.recs := rfl
@[simp] theorem State.setRing_walks (s : State) (k : Nat) (x : Ring) : (s.setRing k x).walks = s.walks := rfl
@[simp] theorem State.setRing_launches (s : State) (k : Nat) (x : Ring) : (s.setRing k x).launches = s.launches := rfl
@[simp] theorem State.setRing_colls (s : State) (k : Nat) (x : Ring) : (s.setRing k x).colls = s.colls := rfl
@[simp] theorem State.setRing_dying (s : State) (k : Nat) (x : Ring) : (s.setRing k x).dying = s.dying := rfl
@[simp] theorem State.setRing_edits (s : State) (k : Nat) (x : Ring) : (s.setRing k x).edits = s.edits := rfl
@[simp] theorem State.setRing_quiet (s : State) (k : Nat) (x : Ring) : (s.setRing k x).quiet = s.quiet := rfl
@[simp] theorem State.setRing_fresh (s : State) (k : Nat) (x : Ring) : (s.setRing k x).fresh = s.fresh := rfl
@[simp] theorem State.dropRing_tick (s : State) (k : Nat) : (s.dropRing k).tick = s.tick := rfl
@[simp] theorem State.dropRing_now (s : State) (k : Nat) : (s.dropRing k).now = s.now := rfl
@[simp] theorem State.dropRing_here (s : State) (k : Nat) : (s.dropRing k).here = s.here := rfl
@[simp] theorem State.dropRing_turns (s : State) (k : Nat) : (s.dropRing k).turns = s.turns := rfl
@[simp] theorem State.dropRing_agenda (s : State) (k : Nat) : (s.dropRing k).agenda = s.agenda := rfl
@[simp] theorem State.dropRing_cores (s : State) (k : Nat) : (s.dropRing k).cores = s.cores := rfl
@[simp] theorem State.dropRing_clusters (s : State) (k : Nat) : (s.dropRing k).clusters = s.clusters := rfl
@[simp] theorem State.dropRing_chips (s : State) (k : Nat) : (s.dropRing k).chips = s.chips := rfl
@[simp] theorem State.dropRing_parts (s : State) (k : Nat) : (s.dropRing k).parts = s.parts := rfl
@[simp] theorem State.dropRing_hbm (s : State) (k : Nat) : (s.dropRing k).hbm = s.hbm := rfl
@[simp] theorem State.dropRing_fabric (s : State) (k : Nat) : (s.dropRing k).fabric = s.fabric := rfl
@[simp] theorem State.dropRing_pages (s : State) (k : Nat) : (s.dropRing k).pages = s.pages := rfl
@[simp] theorem State.dropRing_objs (s : State) (k : Nat) : (s.dropRing k).objs = s.objs := rfl
@[simp] theorem State.dropRing_mem (s : State) (k : Nat) : (s.dropRing k).mem = s.mem := rfl
@[simp] theorem State.dropRing_beats (s : State) (k : Nat) : (s.dropRing k).beats = s.beats := rfl
@[simp] theorem State.dropRing_accs (s : State) (k : Nat) : (s.dropRing k).accs = s.accs := rfl
@[simp] theorem State.dropRing_posts (s : State) (k : Nat) : (s.dropRing k).posts = s.posts := rfl
@[simp] theorem State.dropRing_decs (s : State) (k : Nat) : (s.dropRing k).decs = s.decs := rfl
@[simp] theorem State.dropRing_recs (s : State) (k : Nat) : (s.dropRing k).recs = s.recs := rfl
@[simp] theorem State.dropRing_walks (s : State) (k : Nat) : (s.dropRing k).walks = s.walks := rfl
@[simp] theorem State.dropRing_launches (s : State) (k : Nat) : (s.dropRing k).launches = s.launches := rfl
@[simp] theorem State.dropRing_colls (s : State) (k : Nat) : (s.dropRing k).colls = s.colls := rfl
@[simp] theorem State.dropRing_dying (s : State) (k : Nat) : (s.dropRing k).dying = s.dying := rfl
@[simp] theorem State.dropRing_edits (s : State) (k : Nat) : (s.dropRing k).edits = s.edits := rfl
@[simp] theorem State.dropRing_quiet (s : State) (k : Nat) : (s.dropRing k).quiet = s.quiet := rfl
@[simp] theorem State.dropRing_fresh (s : State) (k : Nat) : (s.dropRing k).fresh = s.fresh := rfl

/-! ## Units after a write -/

/-- The core whose turn it is reads as it was written. -/
@[simp] theorem State.me_setMe (s : State) (c : Core) : (s.setMe c).me = c := by
  simp [State.me, State.setMe, State.setCore, State.core]

/-- Writing the core whose turn it is twice keeps the second. -/
@[simp] theorem Table.put_put {α : Type} (t : Table α) (k : Nat) (v w : α) :
    Table.put (Table.put t k v) k w = Table.put t k w := by
  induction t with
  | nil => simp [Table.put]
  | cons p r ih =>
    by_cases h1 : k < p.1
    · simp [Table.put, h1]
    · by_cases h2 : k = p.1
      · simp [Table.put, h2]
      · simp [Table.put, h1, h2, ih]

@[simp] theorem State.setMe_setMe (s : State) (c d : Core) : (s.setMe c).setMe d = s.setMe d := by
  simp [State.setMe, State.setCore]

@[simp] theorem State.core_setCore_self (s : State) (k : Nat) (c : Core) : (s.setCore k c).core k = c := by
  simp [State.setCore, State.core]
theorem State.core_setCore_ne (s : State) {k j : Nat} (c : Core) (h : j ≠ k) : (s.setCore k c).core j = s.core j := by
  simp [State.setCore, State.core, Table.look_put_ne _ _ h]
@[simp] theorem State.cluster_setCore (s : State) (k j : Nat) (c : Core) : (s.setCore k c).cluster j = s.cluster j := rfl
@[simp] theorem State.chip_setCore (s : State) (k j : Nat) (c : Core) : (s.setCore k c).chip j = s.chip j := rfl
@[simp] theorem State.part_setCore (s : State) (k j : Nat) (c : Core) : (s.setCore k c).part j = s.part j := rfl
@[simp] theorem State.stack_setCore (s : State) (k j : Nat) (c : Core) : (s.setCore k c).stack j = s.stack j := rfl
@[simp] theorem State.fab_setCore (s : State) (k j : Nat) (c : Core) : (s.setCore k c).fab j = s.fab j := rfl
@[simp] theorem State.page_setCore (s : State) (k j : Nat) (c : Core) : (s.setCore k c).page j = s.page j := rfl
@[simp] theorem State.obj_setCore (s : State) (k j : Nat) (c : Core) : (s.setCore k c).obj j = s.obj j := rfl
@[simp] theorem State.cluster_setCluster_self (s : State) (k : Nat) (c : Cluster) : (s.setCluster k c).cluster k = c := by
  simp [State.setCluster, State.cluster]
theorem State.cluster_setCluster_ne (s : State) {k j : Nat} (c : Cluster) (h : j ≠ k) : (s.setCluster k c).cluster j = s.cluster j := by
  simp [State.setCluster, State.cluster, Table.look_put_ne _ _ h]
@[simp] theorem State.core_setCluster (s : State) (k j : Nat) (c : Cluster) : (s.setCluster k c).core j = s.core j := rfl
@[simp] theorem State.chip_setCluster (s : State) (k j : Nat) (c : Cluster) : (s.setCluster k c).chip j = s.chip j := rfl
@[simp] theorem State.part_setCluster (s : State) (k j : Nat) (c : Cluster) : (s.setCluster k c).part j = s.part j := rfl
@[simp] theorem State.stack_setCluster (s : State) (k j : Nat) (c : Cluster) : (s.setCluster k c).stack j = s.stack j := rfl
@[simp] theorem State.fab_setCluster (s : State) (k j : Nat) (c : Cluster) : (s.setCluster k c).fab j = s.fab j := rfl
@[simp] theorem State.page_setCluster (s : State) (k j : Nat) (c : Cluster) : (s.setCluster k c).page j = s.page j := rfl
@[simp] theorem State.obj_setCluster (s : State) (k j : Nat) (c : Cluster) : (s.setCluster k c).obj j = s.obj j := rfl
@[simp] theorem State.chip_setChip_self (s : State) (k : Nat) (c : Chip) : (s.setChip k c).chip k = c := by
  simp [State.setChip, State.chip]
theorem State.chip_setChip_ne (s : State) {k j : Nat} (c : Chip) (h : j ≠ k) : (s.setChip k c).chip j = s.chip j := by
  simp [State.setChip, State.chip, Table.look_put_ne _ _ h]
@[simp] theorem State.core_setChip (s : State) (k j : Nat) (c : Chip) : (s.setChip k c).core j = s.core j := rfl
@[simp] theorem State.cluster_setChip (s : State) (k j : Nat) (c : Chip) : (s.setChip k c).cluster j = s.cluster j := rfl
@[simp] theorem State.part_setChip (s : State) (k j : Nat) (c : Chip) : (s.setChip k c).part j = s.part j := rfl
@[simp] theorem State.stack_setChip (s : State) (k j : Nat) (c : Chip) : (s.setChip k c).stack j = s.stack j := rfl
@[simp] theorem State.fab_setChip (s : State) (k j : Nat) (c : Chip) : (s.setChip k c).fab j = s.fab j := rfl
@[simp] theorem State.page_setChip (s : State) (k j : Nat) (c : Chip) : (s.setChip k c).page j = s.page j := rfl
@[simp] theorem State.obj_setChip (s : State) (k j : Nat) (c : Chip) : (s.setChip k c).obj j = s.obj j := rfl
@[simp] theorem State.part_setPart_self (s : State) (k : Nat) (c : Partition) : (s.setPart k c).part k = c := by
  simp [State.setPart, State.part]
theorem State.part_setPart_ne (s : State) {k j : Nat} (c : Partition) (h : j ≠ k) : (s.setPart k c).part j = s.part j := by
  simp [State.setPart, State.part, Table.look_put_ne _ _ h]
@[simp] theorem State.core_setPart (s : State) (k j : Nat) (c : Partition) : (s.setPart k c).core j = s.core j := rfl
@[simp] theorem State.cluster_setPart (s : State) (k j : Nat) (c : Partition) : (s.setPart k c).cluster j = s.cluster j := rfl
@[simp] theorem State.chip_setPart (s : State) (k j : Nat) (c : Partition) : (s.setPart k c).chip j = s.chip j := rfl
@[simp] theorem State.stack_setPart (s : State) (k j : Nat) (c : Partition) : (s.setPart k c).stack j = s.stack j := rfl
@[simp] theorem State.fab_setPart (s : State) (k j : Nat) (c : Partition) : (s.setPart k c).fab j = s.fab j := rfl
@[simp] theorem State.page_setPart (s : State) (k j : Nat) (c : Partition) : (s.setPart k c).page j = s.page j := rfl
@[simp] theorem State.obj_setPart (s : State) (k j : Nat) (c : Partition) : (s.setPart k c).obj j = s.obj j := rfl
@[simp] theorem State.stack_setStack_self (s : State) (k : Nat) (c : Stack) : (s.setStack k c).stack k = c := by
  simp [State.setStack, State.stack]
theorem State.stack_setStack_ne (s : State) {k j : Nat} (c : Stack) (h : j ≠ k) : (s.setStack k c).stack j = s.stack j := by
  simp [State.setStack, State.stack, Table.look_put_ne _ _ h]
@[simp] theorem State.core_setStack (s : State) (k j : Nat) (c : Stack) : (s.setStack k c).core j = s.core j := rfl
@[simp] theorem State.cluster_setStack (s : State) (k j : Nat) (c : Stack) : (s.setStack k c).cluster j = s.cluster j := rfl
@[simp] theorem State.chip_setStack (s : State) (k j : Nat) (c : Stack) : (s.setStack k c).chip j = s.chip j := rfl
@[simp] theorem State.part_setStack (s : State) (k j : Nat) (c : Stack) : (s.setStack k c).part j = s.part j := rfl
@[simp] theorem State.fab_setStack (s : State) (k j : Nat) (c : Stack) : (s.setStack k c).fab j = s.fab j := rfl
@[simp] theorem State.page_setStack (s : State) (k j : Nat) (c : Stack) : (s.setStack k c).page j = s.page j := rfl
@[simp] theorem State.obj_setStack (s : State) (k j : Nat) (c : Stack) : (s.setStack k c).obj j = s.obj j := rfl
@[simp] theorem State.fab_setFab_self (s : State) (k : Nat) (c : Fabric) : (s.setFab k c).fab k = c := by
  simp [State.setFab, State.fab]
theorem State.fab_setFab_ne (s : State) {k j : Nat} (c : Fabric) (h : j ≠ k) : (s.setFab k c).fab j = s.fab j := by
  simp [State.setFab, State.fab, Table.look_put_ne _ _ h]
@[simp] theorem State.core_setFab (s : State) (k j : Nat) (c : Fabric) : (s.setFab k c).core j = s.core j := rfl
@[simp] theorem State.cluster_setFab (s : State) (k j : Nat) (c : Fabric) : (s.setFab k c).cluster j = s.cluster j := rfl
@[simp] theorem State.chip_setFab (s : State) (k j : Nat) (c : Fabric) : (s.setFab k c).chip j = s.chip j := rfl
@[simp] theorem State.part_setFab (s : State) (k j : Nat) (c : Fabric) : (s.setFab k c).part j = s.part j := rfl
@[simp] theorem State.stack_setFab (s : State) (k j : Nat) (c : Fabric) : (s.setFab k c).stack j = s.stack j := rfl
@[simp] theorem State.page_setFab (s : State) (k j : Nat) (c : Fabric) : (s.setFab k c).page j = s.page j := rfl
@[simp] theorem State.obj_setFab (s : State) (k j : Nat) (c : Fabric) : (s.setFab k c).obj j = s.obj j := rfl
@[simp] theorem State.page_setPage_self (s : State) (k : Nat) (c : Page) : (s.setPage k c).page k = c := by
  simp [State.setPage, State.page]
theorem State.page_setPage_ne (s : State) {k j : Nat} (c : Page) (h : j ≠ k) : (s.setPage k c).page j = s.page j := by
  simp [State.setPage, State.page, Table.look_put_ne _ _ h]
@[simp] theorem State.core_setPage (s : State) (k j : Nat) (c : Page) : (s.setPage k c).core j = s.core j := rfl
@[simp] theorem State.cluster_setPage (s : State) (k j : Nat) (c : Page) : (s.setPage k c).cluster j = s.cluster j := rfl
@[simp] theorem State.chip_setPage (s : State) (k j : Nat) (c : Page) : (s.setPage k c).chip j = s.chip j := rfl
@[simp] theorem State.part_setPage (s : State) (k j : Nat) (c : Page) : (s.setPage k c).part j = s.part j := rfl
@[simp] theorem State.stack_setPage (s : State) (k j : Nat) (c : Page) : (s.setPage k c).stack j = s.stack j := rfl
@[simp] theorem State.fab_setPage (s : State) (k j : Nat) (c : Page) : (s.setPage k c).fab j = s.fab j := rfl
@[simp] theorem State.obj_setPage (s : State) (k j : Nat) (c : Page) : (s.setPage k c).obj j = s.obj j := rfl
@[simp] theorem State.obj_setObj_self (s : State) (k : Nat) (c : Obj) : (s.setObj k c).obj k = c := by
  simp [State.setObj, State.obj]
theorem State.obj_setObj_ne (s : State) {k j : Nat} (c : Obj) (h : j ≠ k) : (s.setObj k c).obj j = s.obj j := by
  simp [State.setObj, State.obj, Table.look_put_ne _ _ h]
@[simp] theorem State.core_setObj (s : State) (k j : Nat) (c : Obj) : (s.setObj k c).core j = s.core j := rfl
@[simp] theorem State.cluster_setObj (s : State) (k j : Nat) (c : Obj) : (s.setObj k c).cluster j = s.cluster j := rfl
@[simp] theorem State.chip_setObj (s : State) (k j : Nat) (c : Obj) : (s.setObj k c).chip j = s.chip j := rfl
@[simp] theorem State.part_setObj (s : State) (k j : Nat) (c : Obj) : (s.setObj k c).part j = s.part j := rfl
@[simp] theorem State.stack_setObj (s : State) (k j : Nat) (c : Obj) : (s.setObj k c).stack j = s.stack j := rfl
@[simp] theorem State.fab_setObj (s : State) (k j : Nat) (c : Obj) : (s.setObj k c).fab j = s.fab j := rfl
@[simp] theorem State.page_setObj (s : State) (k j : Nat) (c : Obj) : (s.setObj k c).page j = s.page j := rfl
@[simp] theorem State.cluster_setMe (s : State) (c : Core) (j : Nat) : (s.setMe c).cluster j = s.cluster j := rfl
@[simp] theorem State.chip_setMe (s : State) (c : Core) (j : Nat) : (s.setMe c).chip j = s.chip j := rfl
@[simp] theorem State.part_setMe (s : State) (c : Core) (j : Nat) : (s.setMe c).part j = s.part j := rfl
@[simp] theorem State.stack_setMe (s : State) (c : Core) (j : Nat) : (s.setMe c).stack j = s.stack j := rfl
@[simp] theorem State.fab_setMe (s : State) (c : Core) (j : Nat) : (s.setMe c).fab j = s.fab j := rfl
@[simp] theorem State.page_setMe (s : State) (c : Core) (j : Nat) : (s.setMe c).page j = s.page j := rfl
@[simp] theorem State.obj_setMe (s : State) (c : Core) (j : Nat) : (s.setMe c).obj j = s.obj j := rfl

/-! ## Core by field -/

@[simp] theorem Core.setS_pre (c : Core) (d : BitVec 6) (v : Cell64) : (c.setS d v).pre = c.pre := by
  unfold Core.setS; split <;> [split; skip] <;> rfl
@[simp] theorem Core.setS_grp (c : Core) (d : BitVec 6) (v : Cell64) : (c.setS d v).grp = c.grp := by
  unfold Core.setS; split <;> [split; skip] <;> rfl
@[simp] theorem Core.setS_pc (c : Core) (d : BitVec 6) (v : Cell64) : (c.setS d v).pc = c.pc := by
  unfold Core.setS; split <;> [split; skip] <;> rfl
@[simp] theorem Core.setS_kernel (c : Core) (d : BitVec 6) (v : Cell64) : (c.setS d v).kernel = c.kernel := by
  unfold Core.setS; split <;> [split; skip] <;> rfl
@[simp] theorem Core.setS_stopped (c : Core) (d : BitVec 6) (v : Cell64) : (c.setS d v).stopped = c.stopped := by
  unfold Core.setS; split <;> [split; skip] <;> rfl
@[simp] theorem Core.setS_blk (c : Core) (d : BitVec 6) (v : Cell64) : (c.setS d v).blk = c.blk := by
  unfold Core.setS; split <;> [split; skip] <;> rfl
@[simp] theorem Core.setS_handler (c : Core) (d : BitVec 6) (v : Cell64) : (c.setS d v).handler = c.handler := by
  unfold Core.setS; split <;> [split; skip] <;> rfl
@[simp] theorem Core.setS_bankU (c : Core) (d : BitVec 6) (v : Cell64) : (c.setS d v).bankU = c.bankU := by
  unfold Core.setS; split <;> [split; skip] <;> rfl
@[simp] theorem Core.setS_bankK (c : Core) (d : BitVec 6) (v : Cell64) : (c.setS d v).bankK = c.bankK := by
  unfold Core.setS; split <;> [split; skip] <;> rfl
@[simp] theorem Core.setS_retryU (c : Core) (d : BitVec 6) (v : Cell64) : (c.setS d v).retryU = c.retryU := by
  unfold Core.setS; split <;> [split; skip] <;> rfl
@[simp] theorem Core.setS_skipU (c : Core) (d : BitVec 6) (v : Cell64) : (c.setS d v).skipU = c.skipU := by
  unfold Core.setS; split <;> [split; skip] <;> rfl
@[simp] theorem Core.setS_trapU (c : Core) (d : BitVec 6) (v : Cell64) : (c.setS d v).trapU = c.trapU := by
  unfold Core.setS; split <;> [split; skip] <;> rfl
@[simp] theorem Core.setS_trapK (c : Core) (d : BitVec 6) (v : Cell64) : (c.setS d v).trapK = c.trapK := by
  unfold Core.setS; split <;> [split; skip] <;> rfl
@[simp] theorem Core.setS_pendK (c : Core) (d : BitVec 6) (v : Cell64) : (c.setS d v).pendK = c.pendK := by
  unfold Core.setS; split <;> [split; skip] <;> rfl
@[simp] theorem Core.setS_pendU (c : Core) (d : BitVec 6) (v : Cell64) : (c.setS d v).pendU = c.pendU := by
  unfold Core.setS; split <;> [split; skip] <;> rfl
@[simp] theorem Core.setS_waited (c : Core) (d : BitVec 6) (v : Cell64) : (c.setS d v).waited = c.waited := by
  unfold Core.setS; split <;> [split; skip] <;> rfl
@[simp] theorem Core.setS_limit (c : Core) (d : BitVec 6) (v : Cell64) : (c.setS d v).limit = c.limit := by
  unfold Core.setS; split <;> [split; skip] <;> rfl
@[simp] theorem Core.setS_idleWait (c : Core) (d : BitVec 6) (v : Cell64) : (c.setS d v).idleWait = c.idleWait := by
  unfold Core.setS; split <;> [split; skip] <;> rfl
@[simp] theorem Core.setS_cycles (c : Core) (d : BitVec 6) (v : Cell64) : (c.setS d v).cycles = c.cycles := by
  unfold Core.setS; split <;> [split; skip] <;> rfl
@[simp] theorem Core.setS_issue (c : Core) (d : BitVec 6) (v : Cell64) : (c.setS d v).issue = c.issue := by
  unfold Core.setS; split <;> [split; skip] <;> rfl
@[simp] theorem Core.setS_fetch (c : Core) (d : BitVec 6) (v : Cell64) : (c.setS d v).fetch = c.fetch := by
  unfold Core.setS; split <;> [split; skip] <;> rfl
@[simp] theorem Core.setS_wrote (c : Core) (d : BitVec 6) (v : Cell64) : (c.setS d v).wrote = c.wrote := by
  unfold Core.setS; split <;> [split; skip] <;> rfl
@[simp] theorem Core.setS_budgetDue (c : Core) (d : BitVec 6) (v : Cell64) : (c.setS d v).budgetDue = c.budgetDue := by
  unfold Core.setS; split <;> [split; skip] <;> rfl
@[simp] theorem Core.setS_ord (c : Core) (d : BitVec 6) (v : Cell64) : (c.setS d v).ord = c.ord := by
  unfold Core.setS; split <;> [split; skip] <;> rfl
@[simp] theorem Core.setS_fences (c : Core) (d : BitVec 6) (v : Cell64) : (c.setS d v).fences = c.fences := by
  unfold Core.setS; split <;> [split; skip] <;> rfl
@[simp] theorem Core.setS_awaits (c : Core) (d : BitVec 6) (v : Cell64) : (c.setS d v).awaits = c.awaits := by
  unfold Core.setS; split <;> [split; skip] <;> rfl
@[simp] theorem Core.setS_psums (c : Core) (d : BitVec 6) (v : Cell64) : (c.setS d v).psums = c.psums := by
  unfold Core.setS; split <;> [split; skip] <;> rfl
@[simp] theorem Core.setS_port (c : Core) (d : BitVec 6) (v : Cell64) : (c.setS d v).port = c.port := by
  unfold Core.setS; split <;> [split; skip] <;> rfl
@[simp] theorem Core.setS_mq (c : Core) (d : BitVec 6) (v : Cell64) : (c.setS d v).mq = c.mq := by
  unfold Core.setS; split <;> [split; skip] <;> rfl
@[simp] theorem Core.setS_fq (c : Core) (d : BitVec 6) (v : Cell64) : (c.setS d v).fq = c.fq := by
  unfold Core.setS; split <;> [split; skip] <;> rfl
@[simp] theorem Core.setS_xq (c : Core) (d : BitVec 6) (v : Cell64) : (c.setS d v).xq = c.xq := by
  unfold Core.setS; split <;> [split; skip] <;> rfl
@[simp] theorem Core.setS_wb (c : Core) (d : BitVec 6) (v : Cell64) : (c.setS d v).wb = c.wb := by
  unfold Core.setS; split <;> [split; skip] <;> rfl
@[simp] theorem Core.setS_spx (c : Core) (d : BitVec 6) (v : Cell64) : (c.setS d v).spx = c.spx := by
  unfold Core.setS; split <;> [split; skip] <;> rfl
@[simp] theorem Core.setS_mbox (c : Core) (d : BitVec 6) (v : Cell64) : (c.setS d v).mbox = c.mbox := by
  unfold Core.setS; split <;> [split; skip] <;> rfl
@[simp] theorem Core.setS_sets (c : Core) (d : BitVec 6) (v : Cell64) : (c.setS d v).sets = c.sets := by
  unfold Core.setS; split <;> [split; skip] <;> rfl
@[simp] theorem Core.setS_ucache (c : Core) (d : BitVec 6) (v : Cell64) : (c.setS d v).ucache = c.ucache := by
  unfold Core.setS; split <;> [split; skip] <;> rfl
@[simp] theorem Core.setS_icache (c : Core) (d : BitVec 6) (v : Cell64) : (c.setS d v).icache = c.icache := by
  unfold Core.setS; split <;> [split; skip] <;> rfl
@[simp] theorem Core.setS_charge (c : Core) (d : BitVec 6) (v : Cell64) : (c.setS d v).charge = c.charge := by
  unfold Core.setS; split <;> [split; skip] <;> rfl
@[simp] theorem Core.setS_vleft (c : Core) (d : BitVec 6) (v : Cell64) : (c.setS d v).vleft = c.vleft := by
  unfold Core.setS; split <;> [split; skip] <;> rfl
@[simp] theorem Core.setS_walkFault (c : Core) (d : BitVec 6) (v : Cell64) : (c.setS d v).walkFault = c.walkFault := by
  unfold Core.setS; split <;> [split; skip] <;> rfl
@[simp] theorem Core.setS_pageFault (c : Core) (d : BitVec 6) (v : Cell64) : (c.setS d v).pageFault = c.pageFault := by
  unfold Core.setS; split <;> [split; skip] <;> rfl
@[simp] theorem Core.setS_r_l (c : Core) (d : BitVec 6) (v : Cell64) : (c.setS d v).r.l = c.r.l := by
  unfold Core.setS; split <;> [split; skip] <;> rfl
@[simp] theorem Core.setS_r_p (c : Core) (d : BitVec 6) (v : Cell64) : (c.setS d v).r.p = c.r.p := by
  unfold Core.setS; split <;> [split; skip] <;> rfl
@[simp] theorem Core.setS_r_bt (c : Core) (d : BitVec 6) (v : Cell64) : (c.setS d v).r.bt = c.r.bt := by
  unfold Core.setS; split <;> [split; skip] <;> rfl
@[simp] theorem Core.setS_r_lc (c : Core) (d : BitVec 6) (v : Cell64) : (c.setS d v).r.lc = c.r.lc := by
  unfold Core.setS; split <;> [split; skip] <;> rfl
@[simp] theorem Core.setS_r_q (c : Core) (d : BitVec 6) (v : Cell64) : (c.setS d v).r.q = c.r.q := by
  unfold Core.setS; split <;> [split; skip] <;> rfl
@[simp] theorem Core.setS_r_x (c : Core) (d : BitVec 6) (v : Cell64) : (c.setS d v).r.x = c.r.x := by
  unfold Core.setS; split <;> [split; skip] <;> rfl
@[simp] theorem Core.setS_r_h (c : Core) (d : BitVec 6) (v : Cell64) : (c.setS d v).r.h = c.r.h := by
  unfold Core.setS; split <;> [split; skip] <;> rfl
@[simp] theorem Core.setS_r_t (c : Core) (d : BitVec 6) (v : Cell64) : (c.setS d v).r.t = c.r.t := by
  unfold Core.setS; split <;> [split; skip] <;> rfl
@[simp] theorem Core.setS_r_v (c : Core) (d : BitVec 6) (v : Cell64) : (c.setS d v).r.v = c.r.v := by
  unfold Core.setS; split <;> [split; skip] <;> rfl
@[simp] theorem Core.setS_r_m (c : Core) (d : BitVec 6) (v : Cell64) : (c.setS d v).r.m = c.r.m := by
  unfold Core.setS; split <;> [split; skip] <;> rfl
@[simp] theorem Core.setS_r_la (c : Core) (d : BitVec 6) (v : Cell64) : (c.setS d v).r.la = c.r.la := by
  unfold Core.setS; split <;> [split; skip] <;> rfl
@[simp] theorem Core.setS_r_vpat (c : Core) (d : BitVec 6) (v : Cell64) : (c.setS d v).r.vpat = c.r.vpat := by
  unfold Core.setS; split <;> [split; skip] <;> rfl
@[simp] theorem Core.setS_r_vcfg (c : Core) (d : BitVec 6) (v : Cell64) : (c.setS d v).r.vcfg = c.r.vcfg := by
  unfold Core.setS; split <;> [split; skip] <;> rfl
@[simp] theorem Core.setS_r_fstat (c : Core) (d : BitVec 6) (v : Cell64) : (c.setS d v).r.fstat = c.r.fstat := by
  unfold Core.setS; split <;> [split; skip] <;> rfl
@[simp] theorem Core.setS_r_mactl (c : Core) (d : BitVec 6) (v : Cell64) : (c.setS d v).r.mactl = c.r.mactl := by
  unfold Core.setS; split <;> [split; skip] <;> rfl
@[simp] theorem Core.setS_r_uivec (c : Core) (d : BitVec 6) (v : Cell64) : (c.setS d v).r.uivec = c.r.uivec := by
  unfold Core.setS; split <;> [split; skip] <;> rfl
@[simp] theorem Core.setS_r_maskBlk (c : Core) (d : BitVec 6) (v : Cell64) : (c.setS d v).r.maskBlk = c.r.maskBlk := by
  unfold Core.setS; split <;> [split; skip] <;> rfl
@[simp] theorem Core.setS_r_seq (c : Core) (d : BitVec 6) (v : Cell64) : (c.setS d v).r.seq = c.r.seq := by
  unfold Core.setS; split <;> [split; skip] <;> rfl
@[simp] theorem Core.setS_r_budget (c : Core) (d : BitVec 6) (v : Cell64) : (c.setS d v).r.budget = c.r.budget := by
  unfold Core.setS; split <;> [split; skip] <;> rfl
@[simp] theorem Core.setS_r_cf (c : Core) (d : BitVec 6) (v : Cell64) : (c.setS d v).r.cf = c.r.cf := by
  unfold Core.setS; split <;> [split; skip] <;> rfl
@[simp] theorem Core.setS_r_cfstat (c : Core) (d : BitVec 6) (v : Cell64) : (c.setS d v).r.cfstat = c.r.cfstat := by
  unfold Core.setS; split <;> [split; skip] <;> rfl
@[simp] theorem Core.setS_r_bar (c : Core) (d : BitVec 6) (v : Cell64) : (c.setS d v).r.bar = c.r.bar := by
  unfold Core.setS; split <;> [split; skip] <;> rfl
@[simp] theorem Core.setS_r_swz (c : Core) (d : BitVec 6) (v : Cell64) : (c.setS d v).r.swz = c.r.swz := by
  unfold Core.setS; split <;> [split; skip] <;> rfl
@[simp] theorem Core.setS_r_waitlim (c : Core) (d : BitVec 6) (v : Cell64) : (c.setS d v).r.waitlim = c.r.waitlim := by
  unfold Core.setS; split <;> [split; skip] <;> rfl
@[simp] theorem Core.setS_r_srseed (c : Core) (d : BitVec 6) (v : Cell64) : (c.setS d v).r.srseed = c.r.srseed := by
  unfold Core.setS; split <;> [split; skip] <;> rfl
@[simp] theorem Core.setS_r_tstat (c : Core) (d : BitVec 6) (v : Cell64) : (c.setS d v).r.tstat = c.r.tstat := by
  unfold Core.setS; split <;> [split; skip] <;> rfl
@[simp] theorem Core.setS_r_fwstat (c : Core) (d : BitVec 6) (v : Cell64) : (c.setS d v).r.fwstat = c.r.fwstat := by
  unfold Core.setS; split <;> [split; skip] <;> rfl
@[simp] theorem Core.setS_r_pslost (c : Core) (d : BitVec 6) (v : Cell64) : (c.setS d v).r.pslost = c.r.pslost := by
  unfold Core.setS; split <;> [split; skip] <;> rfl
@[simp] theorem Core.setS_r_clim (c : Core) (d : BitVec 6) (v : Cell64) : (c.setS d v).r.clim = c.r.clim := by
  unfold Core.setS; split <;> [split; skip] <;> rfl
@[simp] theorem Core.setS_r_frzcnt (c : Core) (d : BitVec 6) (v : Cell64) : (c.setS d v).r.frzcnt = c.r.frzcnt := by
  unfold Core.setS; split <;> [split; skip] <;> rfl
@[simp] theorem Core.setS_r_spad (c : Core) (d : BitVec 6) (v : Cell64) : (c.setS d v).r.spad = c.r.spad := by
  unfold Core.setS; split <;> [split; skip] <;> rfl
@[simp] theorem Core.shift_pre (c : Core) (sl : Lane) (v : Cell64) : (c.shift sl v).pre = c.pre := by
  cases sl <;> rfl
@[simp] theorem Core.shift_grp (c : Core) (sl : Lane) (v : Cell64) : (c.shift sl v).grp = c.grp := by
  cases sl <;> rfl
@[simp] theorem Core.shift_pc (c : Core) (sl : Lane) (v : Cell64) : (c.shift sl v).pc = c.pc := by
  cases sl <;> rfl
@[simp] theorem Core.shift_kernel (c : Core) (sl : Lane) (v : Cell64) : (c.shift sl v).kernel = c.kernel := by
  cases sl <;> rfl
@[simp] theorem Core.shift_stopped (c : Core) (sl : Lane) (v : Cell64) : (c.shift sl v).stopped = c.stopped := by
  cases sl <;> rfl
@[simp] theorem Core.shift_blk (c : Core) (sl : Lane) (v : Cell64) : (c.shift sl v).blk = c.blk := by
  cases sl <;> rfl
@[simp] theorem Core.shift_handler (c : Core) (sl : Lane) (v : Cell64) : (c.shift sl v).handler = c.handler := by
  cases sl <;> rfl
@[simp] theorem Core.shift_bankU (c : Core) (sl : Lane) (v : Cell64) : (c.shift sl v).bankU = c.bankU := by
  cases sl <;> rfl
@[simp] theorem Core.shift_bankK (c : Core) (sl : Lane) (v : Cell64) : (c.shift sl v).bankK = c.bankK := by
  cases sl <;> rfl
@[simp] theorem Core.shift_retryU (c : Core) (sl : Lane) (v : Cell64) : (c.shift sl v).retryU = c.retryU := by
  cases sl <;> rfl
@[simp] theorem Core.shift_skipU (c : Core) (sl : Lane) (v : Cell64) : (c.shift sl v).skipU = c.skipU := by
  cases sl <;> rfl
@[simp] theorem Core.shift_trapU (c : Core) (sl : Lane) (v : Cell64) : (c.shift sl v).trapU = c.trapU := by
  cases sl <;> rfl
@[simp] theorem Core.shift_trapK (c : Core) (sl : Lane) (v : Cell64) : (c.shift sl v).trapK = c.trapK := by
  cases sl <;> rfl
@[simp] theorem Core.shift_pendK (c : Core) (sl : Lane) (v : Cell64) : (c.shift sl v).pendK = c.pendK := by
  cases sl <;> rfl
@[simp] theorem Core.shift_pendU (c : Core) (sl : Lane) (v : Cell64) : (c.shift sl v).pendU = c.pendU := by
  cases sl <;> rfl
@[simp] theorem Core.shift_waited (c : Core) (sl : Lane) (v : Cell64) : (c.shift sl v).waited = c.waited := by
  cases sl <;> rfl
@[simp] theorem Core.shift_limit (c : Core) (sl : Lane) (v : Cell64) : (c.shift sl v).limit = c.limit := by
  cases sl <;> rfl
@[simp] theorem Core.shift_idleWait (c : Core) (sl : Lane) (v : Cell64) : (c.shift sl v).idleWait = c.idleWait := by
  cases sl <;> rfl
@[simp] theorem Core.shift_cycles (c : Core) (sl : Lane) (v : Cell64) : (c.shift sl v).cycles = c.cycles := by
  cases sl <;> rfl
@[simp] theorem Core.shift_issue (c : Core) (sl : Lane) (v : Cell64) : (c.shift sl v).issue = c.issue := by
  cases sl <;> rfl
@[simp] theorem Core.shift_fetch (c : Core) (sl : Lane) (v : Cell64) : (c.shift sl v).fetch = c.fetch := by
  cases sl <;> rfl
@[simp] theorem Core.shift_wrote (c : Core) (sl : Lane) (v : Cell64) : (c.shift sl v).wrote = c.wrote := by
  cases sl <;> rfl
@[simp] theorem Core.shift_budgetDue (c : Core) (sl : Lane) (v : Cell64) : (c.shift sl v).budgetDue = c.budgetDue := by
  cases sl <;> rfl
@[simp] theorem Core.shift_ord (c : Core) (sl : Lane) (v : Cell64) : (c.shift sl v).ord = c.ord := by
  cases sl <;> rfl
@[simp] theorem Core.shift_fences (c : Core) (sl : Lane) (v : Cell64) : (c.shift sl v).fences = c.fences := by
  cases sl <;> rfl
@[simp] theorem Core.shift_awaits (c : Core) (sl : Lane) (v : Cell64) : (c.shift sl v).awaits = c.awaits := by
  cases sl <;> rfl
@[simp] theorem Core.shift_psums (c : Core) (sl : Lane) (v : Cell64) : (c.shift sl v).psums = c.psums := by
  cases sl <;> rfl
@[simp] theorem Core.shift_port (c : Core) (sl : Lane) (v : Cell64) : (c.shift sl v).port = c.port := by
  cases sl <;> rfl
@[simp] theorem Core.shift_mq (c : Core) (sl : Lane) (v : Cell64) : (c.shift sl v).mq = c.mq := by
  cases sl <;> rfl
@[simp] theorem Core.shift_fq (c : Core) (sl : Lane) (v : Cell64) : (c.shift sl v).fq = c.fq := by
  cases sl <;> rfl
@[simp] theorem Core.shift_xq (c : Core) (sl : Lane) (v : Cell64) : (c.shift sl v).xq = c.xq := by
  cases sl <;> rfl
@[simp] theorem Core.shift_wb (c : Core) (sl : Lane) (v : Cell64) : (c.shift sl v).wb = c.wb := by
  cases sl <;> rfl
@[simp] theorem Core.shift_spx (c : Core) (sl : Lane) (v : Cell64) : (c.shift sl v).spx = c.spx := by
  cases sl <;> rfl
@[simp] theorem Core.shift_mbox (c : Core) (sl : Lane) (v : Cell64) : (c.shift sl v).mbox = c.mbox := by
  cases sl <;> rfl
@[simp] theorem Core.shift_sets (c : Core) (sl : Lane) (v : Cell64) : (c.shift sl v).sets = c.sets := by
  cases sl <;> rfl
@[simp] theorem Core.shift_ucache (c : Core) (sl : Lane) (v : Cell64) : (c.shift sl v).ucache = c.ucache := by
  cases sl <;> rfl
@[simp] theorem Core.shift_icache (c : Core) (sl : Lane) (v : Cell64) : (c.shift sl v).icache = c.icache := by
  cases sl <;> rfl
@[simp] theorem Core.shift_charge (c : Core) (sl : Lane) (v : Cell64) : (c.shift sl v).charge = c.charge := by
  cases sl <;> rfl
@[simp] theorem Core.shift_vleft (c : Core) (sl : Lane) (v : Cell64) : (c.shift sl v).vleft = c.vleft := by
  cases sl <;> rfl
@[simp] theorem Core.shift_walkFault (c : Core) (sl : Lane) (v : Cell64) : (c.shift sl v).walkFault = c.walkFault := by
  cases sl <;> rfl
@[simp] theorem Core.shift_pageFault (c : Core) (sl : Lane) (v : Cell64) : (c.shift sl v).pageFault = c.pageFault := by
  cases sl <;> rfl
@[simp] theorem Core.shift_r_s (c : Core) (sl : Lane) (v : Cell64) : (c.shift sl v).r.s = c.r.s := by
  cases sl <;> rfl
@[simp] theorem Core.shift_r_p (c : Core) (sl : Lane) (v : Cell64) : (c.shift sl v).r.p = c.r.p := by
  cases sl <;> rfl
@[simp] theorem Core.shift_r_bt (c : Core) (sl : Lane) (v : Cell64) : (c.shift sl v).r.bt = c.r.bt := by
  cases sl <;> rfl
@[simp] theorem Core.shift_r_lc (c : Core) (sl : Lane) (v : Cell64) : (c.shift sl v).r.lc = c.r.lc := by
  cases sl <;> rfl
@[simp] theorem Core.shift_r_q (c : Core) (sl : Lane) (v : Cell64) : (c.shift sl v).r.q = c.r.q := by
  cases sl <;> rfl
@[simp] theorem Core.shift_r_x (c : Core) (sl : Lane) (v : Cell64) : (c.shift sl v).r.x = c.r.x := by
  cases sl <;> rfl
@[simp] theorem Core.shift_r_h (c : Core) (sl : Lane) (v : Cell64) : (c.shift sl v).r.h = c.r.h := by
  cases sl <;> rfl
@[simp] theorem Core.shift_r_t (c : Core) (sl : Lane) (v : Cell64) : (c.shift sl v).r.t = c.r.t := by
  cases sl <;> rfl
@[simp] theorem Core.shift_r_v (c : Core) (sl : Lane) (v : Cell64) : (c.shift sl v).r.v = c.r.v := by
  cases sl <;> rfl
@[simp] theorem Core.shift_r_m (c : Core) (sl : Lane) (v : Cell64) : (c.shift sl v).r.m = c.r.m := by
  cases sl <;> rfl
@[simp] theorem Core.shift_r_la (c : Core) (sl : Lane) (v : Cell64) : (c.shift sl v).r.la = c.r.la := by
  cases sl <;> rfl
@[simp] theorem Core.shift_r_vpat (c : Core) (sl : Lane) (v : Cell64) : (c.shift sl v).r.vpat = c.r.vpat := by
  cases sl <;> rfl
@[simp] theorem Core.shift_r_vcfg (c : Core) (sl : Lane) (v : Cell64) : (c.shift sl v).r.vcfg = c.r.vcfg := by
  cases sl <;> rfl
@[simp] theorem Core.shift_r_fstat (c : Core) (sl : Lane) (v : Cell64) : (c.shift sl v).r.fstat = c.r.fstat := by
  cases sl <;> rfl
@[simp] theorem Core.shift_r_mactl (c : Core) (sl : Lane) (v : Cell64) : (c.shift sl v).r.mactl = c.r.mactl := by
  cases sl <;> rfl
@[simp] theorem Core.shift_r_uivec (c : Core) (sl : Lane) (v : Cell64) : (c.shift sl v).r.uivec = c.r.uivec := by
  cases sl <;> rfl
@[simp] theorem Core.shift_r_maskBlk (c : Core) (sl : Lane) (v : Cell64) : (c.shift sl v).r.maskBlk = c.r.maskBlk := by
  cases sl <;> rfl
@[simp] theorem Core.shift_r_seq (c : Core) (sl : Lane) (v : Cell64) : (c.shift sl v).r.seq = c.r.seq := by
  cases sl <;> rfl
@[simp] theorem Core.shift_r_budget (c : Core) (sl : Lane) (v : Cell64) : (c.shift sl v).r.budget = c.r.budget := by
  cases sl <;> rfl
@[simp] theorem Core.shift_r_cf (c : Core) (sl : Lane) (v : Cell64) : (c.shift sl v).r.cf = c.r.cf := by
  cases sl <;> rfl
@[simp] theorem Core.shift_r_cfstat (c : Core) (sl : Lane) (v : Cell64) : (c.shift sl v).r.cfstat = c.r.cfstat := by
  cases sl <;> rfl
@[simp] theorem Core.shift_r_bar (c : Core) (sl : Lane) (v : Cell64) : (c.shift sl v).r.bar = c.r.bar := by
  cases sl <;> rfl
@[simp] theorem Core.shift_r_swz (c : Core) (sl : Lane) (v : Cell64) : (c.shift sl v).r.swz = c.r.swz := by
  cases sl <;> rfl
@[simp] theorem Core.shift_r_waitlim (c : Core) (sl : Lane) (v : Cell64) : (c.shift sl v).r.waitlim = c.r.waitlim := by
  cases sl <;> rfl
@[simp] theorem Core.shift_r_srseed (c : Core) (sl : Lane) (v : Cell64) : (c.shift sl v).r.srseed = c.r.srseed := by
  cases sl <;> rfl
@[simp] theorem Core.shift_r_tstat (c : Core) (sl : Lane) (v : Cell64) : (c.shift sl v).r.tstat = c.r.tstat := by
  cases sl <;> rfl
@[simp] theorem Core.shift_r_fwstat (c : Core) (sl : Lane) (v : Cell64) : (c.shift sl v).r.fwstat = c.r.fwstat := by
  cases sl <;> rfl
@[simp] theorem Core.shift_r_pslost (c : Core) (sl : Lane) (v : Cell64) : (c.shift sl v).r.pslost = c.r.pslost := by
  cases sl <;> rfl
@[simp] theorem Core.shift_r_clim (c : Core) (sl : Lane) (v : Cell64) : (c.shift sl v).r.clim = c.r.clim := by
  cases sl <;> rfl
@[simp] theorem Core.shift_r_frzcnt (c : Core) (sl : Lane) (v : Cell64) : (c.shift sl v).r.frzcnt = c.r.frzcnt := by
  cases sl <;> rfl
@[simp] theorem Core.shift_r_spad (c : Core) (sl : Lane) (v : Cell64) : (c.shift sl v).r.spad = c.r.spad := by
  cases sl <;> rfl
@[simp] theorem Core.result_pre (c : Core) (sl : Lane) (d : BitVec 6) (v : Cell64) : (c.result sl d v).pre = c.pre := by
  simp [Core.result]
@[simp] theorem Core.result_grp (c : Core) (sl : Lane) (d : BitVec 6) (v : Cell64) : (c.result sl d v).grp = c.grp := by
  simp [Core.result]
@[simp] theorem Core.result_pc (c : Core) (sl : Lane) (d : BitVec 6) (v : Cell64) : (c.result sl d v).pc = c.pc := by
  simp [Core.result]
@[simp] theorem Core.result_kernel (c : Core) (sl : Lane) (d : BitVec 6) (v : Cell64) : (c.result sl d v).kernel = c.kernel := by
  simp [Core.result]
@[simp] theorem Core.result_stopped (c : Core) (sl : Lane) (d : BitVec 6) (v : Cell64) : (c.result sl d v).stopped = c.stopped := by
  simp [Core.result]
@[simp] theorem Core.result_blk (c : Core) (sl : Lane) (d : BitVec 6) (v : Cell64) : (c.result sl d v).blk = c.blk := by
  simp [Core.result]
@[simp] theorem Core.result_handler (c : Core) (sl : Lane) (d : BitVec 6) (v : Cell64) : (c.result sl d v).handler = c.handler := by
  simp [Core.result]
@[simp] theorem Core.result_bankU (c : Core) (sl : Lane) (d : BitVec 6) (v : Cell64) : (c.result sl d v).bankU = c.bankU := by
  simp [Core.result]
@[simp] theorem Core.result_bankK (c : Core) (sl : Lane) (d : BitVec 6) (v : Cell64) : (c.result sl d v).bankK = c.bankK := by
  simp [Core.result]
@[simp] theorem Core.result_retryU (c : Core) (sl : Lane) (d : BitVec 6) (v : Cell64) : (c.result sl d v).retryU = c.retryU := by
  simp [Core.result]
@[simp] theorem Core.result_skipU (c : Core) (sl : Lane) (d : BitVec 6) (v : Cell64) : (c.result sl d v).skipU = c.skipU := by
  simp [Core.result]
@[simp] theorem Core.result_trapU (c : Core) (sl : Lane) (d : BitVec 6) (v : Cell64) : (c.result sl d v).trapU = c.trapU := by
  simp [Core.result]
@[simp] theorem Core.result_trapK (c : Core) (sl : Lane) (d : BitVec 6) (v : Cell64) : (c.result sl d v).trapK = c.trapK := by
  simp [Core.result]
@[simp] theorem Core.result_pendK (c : Core) (sl : Lane) (d : BitVec 6) (v : Cell64) : (c.result sl d v).pendK = c.pendK := by
  simp [Core.result]
@[simp] theorem Core.result_pendU (c : Core) (sl : Lane) (d : BitVec 6) (v : Cell64) : (c.result sl d v).pendU = c.pendU := by
  simp [Core.result]
@[simp] theorem Core.result_waited (c : Core) (sl : Lane) (d : BitVec 6) (v : Cell64) : (c.result sl d v).waited = c.waited := by
  simp [Core.result]
@[simp] theorem Core.result_limit (c : Core) (sl : Lane) (d : BitVec 6) (v : Cell64) : (c.result sl d v).limit = c.limit := by
  simp [Core.result]
@[simp] theorem Core.result_idleWait (c : Core) (sl : Lane) (d : BitVec 6) (v : Cell64) : (c.result sl d v).idleWait = c.idleWait := by
  simp [Core.result]
@[simp] theorem Core.result_cycles (c : Core) (sl : Lane) (d : BitVec 6) (v : Cell64) : (c.result sl d v).cycles = c.cycles := by
  simp [Core.result]
@[simp] theorem Core.result_issue (c : Core) (sl : Lane) (d : BitVec 6) (v : Cell64) : (c.result sl d v).issue = c.issue := by
  simp [Core.result]
@[simp] theorem Core.result_fetch (c : Core) (sl : Lane) (d : BitVec 6) (v : Cell64) : (c.result sl d v).fetch = c.fetch := by
  simp [Core.result]
@[simp] theorem Core.result_wrote (c : Core) (sl : Lane) (d : BitVec 6) (v : Cell64) : (c.result sl d v).wrote = c.wrote := by
  simp [Core.result]
@[simp] theorem Core.result_budgetDue (c : Core) (sl : Lane) (d : BitVec 6) (v : Cell64) : (c.result sl d v).budgetDue = c.budgetDue := by
  simp [Core.result]
@[simp] theorem Core.result_ord (c : Core) (sl : Lane) (d : BitVec 6) (v : Cell64) : (c.result sl d v).ord = c.ord := by
  simp [Core.result]
@[simp] theorem Core.result_fences (c : Core) (sl : Lane) (d : BitVec 6) (v : Cell64) : (c.result sl d v).fences = c.fences := by
  simp [Core.result]
@[simp] theorem Core.result_awaits (c : Core) (sl : Lane) (d : BitVec 6) (v : Cell64) : (c.result sl d v).awaits = c.awaits := by
  simp [Core.result]
@[simp] theorem Core.result_psums (c : Core) (sl : Lane) (d : BitVec 6) (v : Cell64) : (c.result sl d v).psums = c.psums := by
  simp [Core.result]
@[simp] theorem Core.result_port (c : Core) (sl : Lane) (d : BitVec 6) (v : Cell64) : (c.result sl d v).port = c.port := by
  simp [Core.result]
@[simp] theorem Core.result_mq (c : Core) (sl : Lane) (d : BitVec 6) (v : Cell64) : (c.result sl d v).mq = c.mq := by
  simp [Core.result]
@[simp] theorem Core.result_fq (c : Core) (sl : Lane) (d : BitVec 6) (v : Cell64) : (c.result sl d v).fq = c.fq := by
  simp [Core.result]
@[simp] theorem Core.result_xq (c : Core) (sl : Lane) (d : BitVec 6) (v : Cell64) : (c.result sl d v).xq = c.xq := by
  simp [Core.result]
@[simp] theorem Core.result_wb (c : Core) (sl : Lane) (d : BitVec 6) (v : Cell64) : (c.result sl d v).wb = c.wb := by
  simp [Core.result]
@[simp] theorem Core.result_spx (c : Core) (sl : Lane) (d : BitVec 6) (v : Cell64) : (c.result sl d v).spx = c.spx := by
  simp [Core.result]
@[simp] theorem Core.result_mbox (c : Core) (sl : Lane) (d : BitVec 6) (v : Cell64) : (c.result sl d v).mbox = c.mbox := by
  simp [Core.result]
@[simp] theorem Core.result_sets (c : Core) (sl : Lane) (d : BitVec 6) (v : Cell64) : (c.result sl d v).sets = c.sets := by
  simp [Core.result]
@[simp] theorem Core.result_ucache (c : Core) (sl : Lane) (d : BitVec 6) (v : Cell64) : (c.result sl d v).ucache = c.ucache := by
  simp [Core.result]
@[simp] theorem Core.result_icache (c : Core) (sl : Lane) (d : BitVec 6) (v : Cell64) : (c.result sl d v).icache = c.icache := by
  simp [Core.result]
@[simp] theorem Core.result_charge (c : Core) (sl : Lane) (d : BitVec 6) (v : Cell64) : (c.result sl d v).charge = c.charge := by
  simp [Core.result]
@[simp] theorem Core.result_vleft (c : Core) (sl : Lane) (d : BitVec 6) (v : Cell64) : (c.result sl d v).vleft = c.vleft := by
  simp [Core.result]
@[simp] theorem Core.result_walkFault (c : Core) (sl : Lane) (d : BitVec 6) (v : Cell64) : (c.result sl d v).walkFault = c.walkFault := by
  simp [Core.result]
@[simp] theorem Core.result_pageFault (c : Core) (sl : Lane) (d : BitVec 6) (v : Cell64) : (c.result sl d v).pageFault = c.pageFault := by
  simp [Core.result]
@[simp] theorem Core.result_r_p (c : Core) (sl : Lane) (d : BitVec 6) (v : Cell64) : (c.result sl d v).r.p = c.r.p := by
  simp [Core.result]
@[simp] theorem Core.result_r_bt (c : Core) (sl : Lane) (d : BitVec 6) (v : Cell64) : (c.result sl d v).r.bt = c.r.bt := by
  simp [Core.result]
@[simp] theorem Core.result_r_lc (c : Core) (sl : Lane) (d : BitVec 6) (v : Cell64) : (c.result sl d v).r.lc = c.r.lc := by
  simp [Core.result]
@[simp] theorem Core.result_r_q (c : Core) (sl : Lane) (d : BitVec 6) (v : Cell64) : (c.result sl d v).r.q = c.r.q := by
  simp [Core.result]
@[simp] theorem Core.result_r_x (c : Core) (sl : Lane) (d : BitVec 6) (v : Cell64) : (c.result sl d v).r.x = c.r.x := by
  simp [Core.result]
@[simp] theorem Core.result_r_h (c : Core) (sl : Lane) (d : BitVec 6) (v : Cell64) : (c.result sl d v).r.h = c.r.h := by
  simp [Core.result]
@[simp] theorem Core.result_r_t (c : Core) (sl : Lane) (d : BitVec 6) (v : Cell64) : (c.result sl d v).r.t = c.r.t := by
  simp [Core.result]
@[simp] theorem Core.result_r_v (c : Core) (sl : Lane) (d : BitVec 6) (v : Cell64) : (c.result sl d v).r.v = c.r.v := by
  simp [Core.result]
@[simp] theorem Core.result_r_m (c : Core) (sl : Lane) (d : BitVec 6) (v : Cell64) : (c.result sl d v).r.m = c.r.m := by
  simp [Core.result]
@[simp] theorem Core.result_r_la (c : Core) (sl : Lane) (d : BitVec 6) (v : Cell64) : (c.result sl d v).r.la = c.r.la := by
  simp [Core.result]
@[simp] theorem Core.result_r_vpat (c : Core) (sl : Lane) (d : BitVec 6) (v : Cell64) : (c.result sl d v).r.vpat = c.r.vpat := by
  simp [Core.result]
@[simp] theorem Core.result_r_vcfg (c : Core) (sl : Lane) (d : BitVec 6) (v : Cell64) : (c.result sl d v).r.vcfg = c.r.vcfg := by
  simp [Core.result]
@[simp] theorem Core.result_r_fstat (c : Core) (sl : Lane) (d : BitVec 6) (v : Cell64) : (c.result sl d v).r.fstat = c.r.fstat := by
  simp [Core.result]
@[simp] theorem Core.result_r_mactl (c : Core) (sl : Lane) (d : BitVec 6) (v : Cell64) : (c.result sl d v).r.mactl = c.r.mactl := by
  simp [Core.result]
@[simp] theorem Core.result_r_uivec (c : Core) (sl : Lane) (d : BitVec 6) (v : Cell64) : (c.result sl d v).r.uivec = c.r.uivec := by
  simp [Core.result]
@[simp] theorem Core.result_r_maskBlk (c : Core) (sl : Lane) (d : BitVec 6) (v : Cell64) : (c.result sl d v).r.maskBlk = c.r.maskBlk := by
  simp [Core.result]
@[simp] theorem Core.result_r_seq (c : Core) (sl : Lane) (d : BitVec 6) (v : Cell64) : (c.result sl d v).r.seq = c.r.seq := by
  simp [Core.result]
@[simp] theorem Core.result_r_budget (c : Core) (sl : Lane) (d : BitVec 6) (v : Cell64) : (c.result sl d v).r.budget = c.r.budget := by
  simp [Core.result]
@[simp] theorem Core.result_r_cf (c : Core) (sl : Lane) (d : BitVec 6) (v : Cell64) : (c.result sl d v).r.cf = c.r.cf := by
  simp [Core.result]
@[simp] theorem Core.result_r_cfstat (c : Core) (sl : Lane) (d : BitVec 6) (v : Cell64) : (c.result sl d v).r.cfstat = c.r.cfstat := by
  simp [Core.result]
@[simp] theorem Core.result_r_bar (c : Core) (sl : Lane) (d : BitVec 6) (v : Cell64) : (c.result sl d v).r.bar = c.r.bar := by
  simp [Core.result]
@[simp] theorem Core.result_r_swz (c : Core) (sl : Lane) (d : BitVec 6) (v : Cell64) : (c.result sl d v).r.swz = c.r.swz := by
  simp [Core.result]
@[simp] theorem Core.result_r_waitlim (c : Core) (sl : Lane) (d : BitVec 6) (v : Cell64) : (c.result sl d v).r.waitlim = c.r.waitlim := by
  simp [Core.result]
@[simp] theorem Core.result_r_srseed (c : Core) (sl : Lane) (d : BitVec 6) (v : Cell64) : (c.result sl d v).r.srseed = c.r.srseed := by
  simp [Core.result]
@[simp] theorem Core.result_r_tstat (c : Core) (sl : Lane) (d : BitVec 6) (v : Cell64) : (c.result sl d v).r.tstat = c.r.tstat := by
  simp [Core.result]
@[simp] theorem Core.result_r_fwstat (c : Core) (sl : Lane) (d : BitVec 6) (v : Cell64) : (c.result sl d v).r.fwstat = c.r.fwstat := by
  simp [Core.result]
@[simp] theorem Core.result_r_pslost (c : Core) (sl : Lane) (d : BitVec 6) (v : Cell64) : (c.result sl d v).r.pslost = c.r.pslost := by
  simp [Core.result]
@[simp] theorem Core.result_r_clim (c : Core) (sl : Lane) (d : BitVec 6) (v : Cell64) : (c.result sl d v).r.clim = c.r.clim := by
  simp [Core.result]
@[simp] theorem Core.result_r_frzcnt (c : Core) (sl : Lane) (d : BitVec 6) (v : Cell64) : (c.result sl d v).r.frzcnt = c.r.frzcnt := by
  simp [Core.result]
@[simp] theorem Core.result_r_spad (c : Core) (sl : Lane) (d : BitVec 6) (v : Cell64) : (c.result sl d v).r.spad = c.r.spad := by
  simp [Core.result]
@[simp] theorem Core.setP_pre (c : Core) (n : BitVec 4) (b : Bool) : (c.setP n b).pre = c.pre := by
  unfold Core.setP; split <;> rfl
@[simp] theorem Core.setP_grp (c : Core) (n : BitVec 4) (b : Bool) : (c.setP n b).grp = c.grp := by
  unfold Core.setP; split <;> rfl
@[simp] theorem Core.setP_pc (c : Core) (n : BitVec 4) (b : Bool) : (c.setP n b).pc = c.pc := by
  unfold Core.setP; split <;> rfl
@[simp] theorem Core.setP_kernel (c : Core) (n : BitVec 4) (b : Bool) : (c.setP n b).kernel = c.kernel := by
  unfold Core.setP; split <;> rfl
@[simp] theorem Core.setP_stopped (c : Core) (n : BitVec 4) (b : Bool) : (c.setP n b).stopped = c.stopped := by
  unfold Core.setP; split <;> rfl
@[simp] theorem Core.setP_blk (c : Core) (n : BitVec 4) (b : Bool) : (c.setP n b).blk = c.blk := by
  unfold Core.setP; split <;> rfl
@[simp] theorem Core.setP_handler (c : Core) (n : BitVec 4) (b : Bool) : (c.setP n b).handler = c.handler := by
  unfold Core.setP; split <;> rfl
@[simp] theorem Core.setP_bankU (c : Core) (n : BitVec 4) (b : Bool) : (c.setP n b).bankU = c.bankU := by
  unfold Core.setP; split <;> rfl
@[simp] theorem Core.setP_bankK (c : Core) (n : BitVec 4) (b : Bool) : (c.setP n b).bankK = c.bankK := by
  unfold Core.setP; split <;> rfl
@[simp] theorem Core.setP_retryU (c : Core) (n : BitVec 4) (b : Bool) : (c.setP n b).retryU = c.retryU := by
  unfold Core.setP; split <;> rfl
@[simp] theorem Core.setP_skipU (c : Core) (n : BitVec 4) (b : Bool) : (c.setP n b).skipU = c.skipU := by
  unfold Core.setP; split <;> rfl
@[simp] theorem Core.setP_trapU (c : Core) (n : BitVec 4) (b : Bool) : (c.setP n b).trapU = c.trapU := by
  unfold Core.setP; split <;> rfl
@[simp] theorem Core.setP_trapK (c : Core) (n : BitVec 4) (b : Bool) : (c.setP n b).trapK = c.trapK := by
  unfold Core.setP; split <;> rfl
@[simp] theorem Core.setP_pendK (c : Core) (n : BitVec 4) (b : Bool) : (c.setP n b).pendK = c.pendK := by
  unfold Core.setP; split <;> rfl
@[simp] theorem Core.setP_pendU (c : Core) (n : BitVec 4) (b : Bool) : (c.setP n b).pendU = c.pendU := by
  unfold Core.setP; split <;> rfl
@[simp] theorem Core.setP_waited (c : Core) (n : BitVec 4) (b : Bool) : (c.setP n b).waited = c.waited := by
  unfold Core.setP; split <;> rfl
@[simp] theorem Core.setP_limit (c : Core) (n : BitVec 4) (b : Bool) : (c.setP n b).limit = c.limit := by
  unfold Core.setP; split <;> rfl
@[simp] theorem Core.setP_idleWait (c : Core) (n : BitVec 4) (b : Bool) : (c.setP n b).idleWait = c.idleWait := by
  unfold Core.setP; split <;> rfl
@[simp] theorem Core.setP_cycles (c : Core) (n : BitVec 4) (b : Bool) : (c.setP n b).cycles = c.cycles := by
  unfold Core.setP; split <;> rfl
@[simp] theorem Core.setP_issue (c : Core) (n : BitVec 4) (b : Bool) : (c.setP n b).issue = c.issue := by
  unfold Core.setP; split <;> rfl
@[simp] theorem Core.setP_fetch (c : Core) (n : BitVec 4) (b : Bool) : (c.setP n b).fetch = c.fetch := by
  unfold Core.setP; split <;> rfl
@[simp] theorem Core.setP_budgetDue (c : Core) (n : BitVec 4) (b : Bool) : (c.setP n b).budgetDue = c.budgetDue := by
  unfold Core.setP; split <;> rfl
@[simp] theorem Core.setP_ord (c : Core) (n : BitVec 4) (b : Bool) : (c.setP n b).ord = c.ord := by
  unfold Core.setP; split <;> rfl
@[simp] theorem Core.setP_fences (c : Core) (n : BitVec 4) (b : Bool) : (c.setP n b).fences = c.fences := by
  unfold Core.setP; split <;> rfl
@[simp] theorem Core.setP_awaits (c : Core) (n : BitVec 4) (b : Bool) : (c.setP n b).awaits = c.awaits := by
  unfold Core.setP; split <;> rfl
@[simp] theorem Core.setP_psums (c : Core) (n : BitVec 4) (b : Bool) : (c.setP n b).psums = c.psums := by
  unfold Core.setP; split <;> rfl
@[simp] theorem Core.setP_port (c : Core) (n : BitVec 4) (b : Bool) : (c.setP n b).port = c.port := by
  unfold Core.setP; split <;> rfl
@[simp] theorem Core.setP_mq (c : Core) (n : BitVec 4) (b : Bool) : (c.setP n b).mq = c.mq := by
  unfold Core.setP; split <;> rfl
@[simp] theorem Core.setP_fq (c : Core) (n : BitVec 4) (b : Bool) : (c.setP n b).fq = c.fq := by
  unfold Core.setP; split <;> rfl
@[simp] theorem Core.setP_xq (c : Core) (n : BitVec 4) (b : Bool) : (c.setP n b).xq = c.xq := by
  unfold Core.setP; split <;> rfl
@[simp] theorem Core.setP_wb (c : Core) (n : BitVec 4) (b : Bool) : (c.setP n b).wb = c.wb := by
  unfold Core.setP; split <;> rfl
@[simp] theorem Core.setP_spx (c : Core) (n : BitVec 4) (b : Bool) : (c.setP n b).spx = c.spx := by
  unfold Core.setP; split <;> rfl
@[simp] theorem Core.setP_mbox (c : Core) (n : BitVec 4) (b : Bool) : (c.setP n b).mbox = c.mbox := by
  unfold Core.setP; split <;> rfl
@[simp] theorem Core.setP_sets (c : Core) (n : BitVec 4) (b : Bool) : (c.setP n b).sets = c.sets := by
  unfold Core.setP; split <;> rfl
@[simp] theorem Core.setP_ucache (c : Core) (n : BitVec 4) (b : Bool) : (c.setP n b).ucache = c.ucache := by
  unfold Core.setP; split <;> rfl
@[simp] theorem Core.setP_icache (c : Core) (n : BitVec 4) (b : Bool) : (c.setP n b).icache = c.icache := by
  unfold Core.setP; split <;> rfl
@[simp] theorem Core.setP_charge (c : Core) (n : BitVec 4) (b : Bool) : (c.setP n b).charge = c.charge := by
  unfold Core.setP; split <;> rfl
@[simp] theorem Core.setP_vleft (c : Core) (n : BitVec 4) (b : Bool) : (c.setP n b).vleft = c.vleft := by
  unfold Core.setP; split <;> rfl
@[simp] theorem Core.setP_walkFault (c : Core) (n : BitVec 4) (b : Bool) : (c.setP n b).walkFault = c.walkFault := by
  unfold Core.setP; split <;> rfl
@[simp] theorem Core.setP_pageFault (c : Core) (n : BitVec 4) (b : Bool) : (c.setP n b).pageFault = c.pageFault := by
  unfold Core.setP; split <;> rfl
@[simp] theorem Core.setP_r_s (c : Core) (n : BitVec 4) (b : Bool) : (c.setP n b).r.s = c.r.s := by
  unfold Core.setP; split <;> rfl
@[simp] theorem Core.setP_r_l (c : Core) (n : BitVec 4) (b : Bool) : (c.setP n b).r.l = c.r.l := by
  unfold Core.setP; split <;> rfl
@[simp] theorem Core.setP_r_bt (c : Core) (n : BitVec 4) (b : Bool) : (c.setP n b).r.bt = c.r.bt := by
  unfold Core.setP; split <;> rfl
@[simp] theorem Core.setP_r_lc (c : Core) (n : BitVec 4) (b : Bool) : (c.setP n b).r.lc = c.r.lc := by
  unfold Core.setP; split <;> rfl
@[simp] theorem Core.setP_r_q (c : Core) (n : BitVec 4) (b : Bool) : (c.setP n b).r.q = c.r.q := by
  unfold Core.setP; split <;> rfl
@[simp] theorem Core.setP_r_x (c : Core) (n : BitVec 4) (b : Bool) : (c.setP n b).r.x = c.r.x := by
  unfold Core.setP; split <;> rfl
@[simp] theorem Core.setP_r_h (c : Core) (n : BitVec 4) (b : Bool) : (c.setP n b).r.h = c.r.h := by
  unfold Core.setP; split <;> rfl
@[simp] theorem Core.setP_r_t (c : Core) (n : BitVec 4) (b : Bool) : (c.setP n b).r.t = c.r.t := by
  unfold Core.setP; split <;> rfl
@[simp] theorem Core.setP_r_v (c : Core) (n : BitVec 4) (b : Bool) : (c.setP n b).r.v = c.r.v := by
  unfold Core.setP; split <;> rfl
@[simp] theorem Core.setP_r_m (c : Core) (n : BitVec 4) (b : Bool) : (c.setP n b).r.m = c.r.m := by
  unfold Core.setP; split <;> rfl
@[simp] theorem Core.setP_r_la (c : Core) (n : BitVec 4) (b : Bool) : (c.setP n b).r.la = c.r.la := by
  unfold Core.setP; split <;> rfl
@[simp] theorem Core.setP_r_vpat (c : Core) (n : BitVec 4) (b : Bool) : (c.setP n b).r.vpat = c.r.vpat := by
  unfold Core.setP; split <;> rfl
@[simp] theorem Core.setP_r_vcfg (c : Core) (n : BitVec 4) (b : Bool) : (c.setP n b).r.vcfg = c.r.vcfg := by
  unfold Core.setP; split <;> rfl
@[simp] theorem Core.setP_r_fstat (c : Core) (n : BitVec 4) (b : Bool) : (c.setP n b).r.fstat = c.r.fstat := by
  unfold Core.setP; split <;> rfl
@[simp] theorem Core.setP_r_mactl (c : Core) (n : BitVec 4) (b : Bool) : (c.setP n b).r.mactl = c.r.mactl := by
  unfold Core.setP; split <;> rfl
@[simp] theorem Core.setP_r_uivec (c : Core) (n : BitVec 4) (b : Bool) : (c.setP n b).r.uivec = c.r.uivec := by
  unfold Core.setP; split <;> rfl
@[simp] theorem Core.setP_r_maskBlk (c : Core) (n : BitVec 4) (b : Bool) : (c.setP n b).r.maskBlk = c.r.maskBlk := by
  unfold Core.setP; split <;> rfl
@[simp] theorem Core.setP_r_seq (c : Core) (n : BitVec 4) (b : Bool) : (c.setP n b).r.seq = c.r.seq := by
  unfold Core.setP; split <;> rfl
@[simp] theorem Core.setP_r_budget (c : Core) (n : BitVec 4) (b : Bool) : (c.setP n b).r.budget = c.r.budget := by
  unfold Core.setP; split <;> rfl
@[simp] theorem Core.setP_r_cf (c : Core) (n : BitVec 4) (b : Bool) : (c.setP n b).r.cf = c.r.cf := by
  unfold Core.setP; split <;> rfl
@[simp] theorem Core.setP_r_cfstat (c : Core) (n : BitVec 4) (b : Bool) : (c.setP n b).r.cfstat = c.r.cfstat := by
  unfold Core.setP; split <;> rfl
@[simp] theorem Core.setP_r_bar (c : Core) (n : BitVec 4) (b : Bool) : (c.setP n b).r.bar = c.r.bar := by
  unfold Core.setP; split <;> rfl
@[simp] theorem Core.setP_r_swz (c : Core) (n : BitVec 4) (b : Bool) : (c.setP n b).r.swz = c.r.swz := by
  unfold Core.setP; split <;> rfl
@[simp] theorem Core.setP_r_waitlim (c : Core) (n : BitVec 4) (b : Bool) : (c.setP n b).r.waitlim = c.r.waitlim := by
  unfold Core.setP; split <;> rfl
@[simp] theorem Core.setP_r_srseed (c : Core) (n : BitVec 4) (b : Bool) : (c.setP n b).r.srseed = c.r.srseed := by
  unfold Core.setP; split <;> rfl
@[simp] theorem Core.setP_r_tstat (c : Core) (n : BitVec 4) (b : Bool) : (c.setP n b).r.tstat = c.r.tstat := by
  unfold Core.setP; split <;> rfl
@[simp] theorem Core.setP_r_fwstat (c : Core) (n : BitVec 4) (b : Bool) : (c.setP n b).r.fwstat = c.r.fwstat := by
  unfold Core.setP; split <;> rfl
@[simp] theorem Core.setP_r_pslost (c : Core) (n : BitVec 4) (b : Bool) : (c.setP n b).r.pslost = c.r.pslost := by
  unfold Core.setP; split <;> rfl
@[simp] theorem Core.setP_r_clim (c : Core) (n : BitVec 4) (b : Bool) : (c.setP n b).r.clim = c.r.clim := by
  unfold Core.setP; split <;> rfl
@[simp] theorem Core.setP_r_frzcnt (c : Core) (n : BitVec 4) (b : Bool) : (c.setP n b).r.frzcnt = c.r.frzcnt := by
  unfold Core.setP; split <;> rfl
@[simp] theorem Core.setP_r_spad (c : Core) (n : BitVec 4) (b : Bool) : (c.setP n b).r.spad = c.r.spad := by
  unfold Core.setP; split <;> rfl
@[simp] theorem Core.setVec_pre (c : Core) (n : BitVec 5) (x : VReg) : (c.setVec n x).pre = c.pre := rfl
@[simp] theorem Core.setVec_grp (c : Core) (n : BitVec 5) (x : VReg) : (c.setVec n x).grp = c.grp := rfl
@[simp] theorem Core.setVec_pc (c : Core) (n : BitVec 5) (x : VReg) : (c.setVec n x).pc = c.pc := rfl
@[simp] theorem Core.setVec_kernel (c : Core) (n : BitVec 5) (x : VReg) : (c.setVec n x).kernel = c.kernel := rfl
@[simp] theorem Core.setVec_stopped (c : Core) (n : BitVec 5) (x : VReg) : (c.setVec n x).stopped = c.stopped := rfl
@[simp] theorem Core.setVec_blk (c : Core) (n : BitVec 5) (x : VReg) : (c.setVec n x).blk = c.blk := rfl
@[simp] theorem Core.setVec_handler (c : Core) (n : BitVec 5) (x : VReg) : (c.setVec n x).handler = c.handler := rfl
@[simp] theorem Core.setVec_bankU (c : Core) (n : BitVec 5) (x : VReg) : (c.setVec n x).bankU = c.bankU := rfl
@[simp] theorem Core.setVec_bankK (c : Core) (n : BitVec 5) (x : VReg) : (c.setVec n x).bankK = c.bankK := rfl
@[simp] theorem Core.setVec_retryU (c : Core) (n : BitVec 5) (x : VReg) : (c.setVec n x).retryU = c.retryU := rfl
@[simp] theorem Core.setVec_skipU (c : Core) (n : BitVec 5) (x : VReg) : (c.setVec n x).skipU = c.skipU := rfl
@[simp] theorem Core.setVec_trapU (c : Core) (n : BitVec 5) (x : VReg) : (c.setVec n x).trapU = c.trapU := rfl
@[simp] theorem Core.setVec_trapK (c : Core) (n : BitVec 5) (x : VReg) : (c.setVec n x).trapK = c.trapK := rfl
@[simp] theorem Core.setVec_pendK (c : Core) (n : BitVec 5) (x : VReg) : (c.setVec n x).pendK = c.pendK := rfl
@[simp] theorem Core.setVec_pendU (c : Core) (n : BitVec 5) (x : VReg) : (c.setVec n x).pendU = c.pendU := rfl
@[simp] theorem Core.setVec_waited (c : Core) (n : BitVec 5) (x : VReg) : (c.setVec n x).waited = c.waited := rfl
@[simp] theorem Core.setVec_limit (c : Core) (n : BitVec 5) (x : VReg) : (c.setVec n x).limit = c.limit := rfl
@[simp] theorem Core.setVec_idleWait (c : Core) (n : BitVec 5) (x : VReg) : (c.setVec n x).idleWait = c.idleWait := rfl
@[simp] theorem Core.setVec_cycles (c : Core) (n : BitVec 5) (x : VReg) : (c.setVec n x).cycles = c.cycles := rfl
@[simp] theorem Core.setVec_issue (c : Core) (n : BitVec 5) (x : VReg) : (c.setVec n x).issue = c.issue := rfl
@[simp] theorem Core.setVec_fetch (c : Core) (n : BitVec 5) (x : VReg) : (c.setVec n x).fetch = c.fetch := rfl
@[simp] theorem Core.setVec_wrote (c : Core) (n : BitVec 5) (x : VReg) : (c.setVec n x).wrote = c.wrote := rfl
@[simp] theorem Core.setVec_budgetDue (c : Core) (n : BitVec 5) (x : VReg) : (c.setVec n x).budgetDue = c.budgetDue := rfl
@[simp] theorem Core.setVec_ord (c : Core) (n : BitVec 5) (x : VReg) : (c.setVec n x).ord = c.ord := rfl
@[simp] theorem Core.setVec_fences (c : Core) (n : BitVec 5) (x : VReg) : (c.setVec n x).fences = c.fences := rfl
@[simp] theorem Core.setVec_awaits (c : Core) (n : BitVec 5) (x : VReg) : (c.setVec n x).awaits = c.awaits := rfl
@[simp] theorem Core.setVec_psums (c : Core) (n : BitVec 5) (x : VReg) : (c.setVec n x).psums = c.psums := rfl
@[simp] theorem Core.setVec_port (c : Core) (n : BitVec 5) (x : VReg) : (c.setVec n x).port = c.port := rfl
@[simp] theorem Core.setVec_mq (c : Core) (n : BitVec 5) (x : VReg) : (c.setVec n x).mq = c.mq := rfl
@[simp] theorem Core.setVec_fq (c : Core) (n : BitVec 5) (x : VReg) : (c.setVec n x).fq = c.fq := rfl
@[simp] theorem Core.setVec_xq (c : Core) (n : BitVec 5) (x : VReg) : (c.setVec n x).xq = c.xq := rfl
@[simp] theorem Core.setVec_wb (c : Core) (n : BitVec 5) (x : VReg) : (c.setVec n x).wb = c.wb := rfl
@[simp] theorem Core.setVec_spx (c : Core) (n : BitVec 5) (x : VReg) : (c.setVec n x).spx = c.spx := rfl
@[simp] theorem Core.setVec_mbox (c : Core) (n : BitVec 5) (x : VReg) : (c.setVec n x).mbox = c.mbox := rfl
@[simp] theorem Core.setVec_sets (c : Core) (n : BitVec 5) (x : VReg) : (c.setVec n x).sets = c.sets := rfl
@[simp] theorem Core.setVec_ucache (c : Core) (n : BitVec 5) (x : VReg) : (c.setVec n x).ucache = c.ucache := rfl
@[simp] theorem Core.setVec_icache (c : Core) (n : BitVec 5) (x : VReg) : (c.setVec n x).icache = c.icache := rfl
@[simp] theorem Core.setVec_charge (c : Core) (n : BitVec 5) (x : VReg) : (c.setVec n x).charge = c.charge := rfl
@[simp] theorem Core.setVec_vleft (c : Core) (n : BitVec 5) (x : VReg) : (c.setVec n x).vleft = c.vleft := rfl
@[simp] theorem Core.setVec_walkFault (c : Core) (n : BitVec 5) (x : VReg) : (c.setVec n x).walkFault = c.walkFault := rfl
@[simp] theorem Core.setVec_pageFault (c : Core) (n : BitVec 5) (x : VReg) : (c.setVec n x).pageFault = c.pageFault := rfl
@[simp] theorem Core.setVec_r_s (c : Core) (n : BitVec 5) (x : VReg) : (c.setVec n x).r.s = c.r.s := rfl
@[simp] theorem Core.setVec_r_l (c : Core) (n : BitVec 5) (x : VReg) : (c.setVec n x).r.l = c.r.l := rfl
@[simp] theorem Core.setVec_r_p (c : Core) (n : BitVec 5) (x : VReg) : (c.setVec n x).r.p = c.r.p := rfl
@[simp] theorem Core.setVec_r_bt (c : Core) (n : BitVec 5) (x : VReg) : (c.setVec n x).r.bt = c.r.bt := rfl
@[simp] theorem Core.setVec_r_lc (c : Core) (n : BitVec 5) (x : VReg) : (c.setVec n x).r.lc = c.r.lc := rfl
@[simp] theorem Core.setVec_r_q (c : Core) (n : BitVec 5) (x : VReg) : (c.setVec n x).r.q = c.r.q := rfl
@[simp] theorem Core.setVec_r_x (c : Core) (n : BitVec 5) (x : VReg) : (c.setVec n x).r.x = c.r.x := rfl
@[simp] theorem Core.setVec_r_h (c : Core) (n : BitVec 5) (x : VReg) : (c.setVec n x).r.h = c.r.h := rfl
@[simp] theorem Core.setVec_r_t (c : Core) (n : BitVec 5) (x : VReg) : (c.setVec n x).r.t = c.r.t := rfl
@[simp] theorem Core.setVec_r_m (c : Core) (n : BitVec 5) (x : VReg) : (c.setVec n x).r.m = c.r.m := rfl
@[simp] theorem Core.setVec_r_la (c : Core) (n : BitVec 5) (x : VReg) : (c.setVec n x).r.la = c.r.la := rfl
@[simp] theorem Core.setVec_r_vpat (c : Core) (n : BitVec 5) (x : VReg) : (c.setVec n x).r.vpat = c.r.vpat := rfl
@[simp] theorem Core.setVec_r_vcfg (c : Core) (n : BitVec 5) (x : VReg) : (c.setVec n x).r.vcfg = c.r.vcfg := rfl
@[simp] theorem Core.setVec_r_fstat (c : Core) (n : BitVec 5) (x : VReg) : (c.setVec n x).r.fstat = c.r.fstat := rfl
@[simp] theorem Core.setVec_r_mactl (c : Core) (n : BitVec 5) (x : VReg) : (c.setVec n x).r.mactl = c.r.mactl := rfl
@[simp] theorem Core.setVec_r_uivec (c : Core) (n : BitVec 5) (x : VReg) : (c.setVec n x).r.uivec = c.r.uivec := rfl
@[simp] theorem Core.setVec_r_maskBlk (c : Core) (n : BitVec 5) (x : VReg) : (c.setVec n x).r.maskBlk = c.r.maskBlk := rfl
@[simp] theorem Core.setVec_r_seq (c : Core) (n : BitVec 5) (x : VReg) : (c.setVec n x).r.seq = c.r.seq := rfl
@[simp] theorem Core.setVec_r_budget (c : Core) (n : BitVec 5) (x : VReg) : (c.setVec n x).r.budget = c.r.budget := rfl
@[simp] theorem Core.setVec_r_cf (c : Core) (n : BitVec 5) (x : VReg) : (c.setVec n x).r.cf = c.r.cf := rfl
@[simp] theorem Core.setVec_r_cfstat (c : Core) (n : BitVec 5) (x : VReg) : (c.setVec n x).r.cfstat = c.r.cfstat := rfl
@[simp] theorem Core.setVec_r_bar (c : Core) (n : BitVec 5) (x : VReg) : (c.setVec n x).r.bar = c.r.bar := rfl
@[simp] theorem Core.setVec_r_swz (c : Core) (n : BitVec 5) (x : VReg) : (c.setVec n x).r.swz = c.r.swz := rfl
@[simp] theorem Core.setVec_r_waitlim (c : Core) (n : BitVec 5) (x : VReg) : (c.setVec n x).r.waitlim = c.r.waitlim := rfl
@[simp] theorem Core.setVec_r_srseed (c : Core) (n : BitVec 5) (x : VReg) : (c.setVec n x).r.srseed = c.r.srseed := rfl
@[simp] theorem Core.setVec_r_tstat (c : Core) (n : BitVec 5) (x : VReg) : (c.setVec n x).r.tstat = c.r.tstat := rfl
@[simp] theorem Core.setVec_r_fwstat (c : Core) (n : BitVec 5) (x : VReg) : (c.setVec n x).r.fwstat = c.r.fwstat := rfl
@[simp] theorem Core.setVec_r_pslost (c : Core) (n : BitVec 5) (x : VReg) : (c.setVec n x).r.pslost = c.r.pslost := rfl
@[simp] theorem Core.setVec_r_clim (c : Core) (n : BitVec 5) (x : VReg) : (c.setVec n x).r.clim = c.r.clim := rfl
@[simp] theorem Core.setVec_r_frzcnt (c : Core) (n : BitVec 5) (x : VReg) : (c.setVec n x).r.frzcnt = c.r.frzcnt := rfl
@[simp] theorem Core.setVec_r_spad (c : Core) (n : BitVec 5) (x : VReg) : (c.setVec n x).r.spad = c.r.spad := rfl
@[simp] theorem Core.setMask_pre (c : Core) (n : BitVec 3) (x : BitVec 4096) : (c.setMask n x).pre = c.pre := by
  unfold Core.setMask; split <;> rfl
@[simp] theorem Core.setMask_grp (c : Core) (n : BitVec 3) (x : BitVec 4096) : (c.setMask n x).grp = c.grp := by
  unfold Core.setMask; split <;> rfl
@[simp] theorem Core.setMask_pc (c : Core) (n : BitVec 3) (x : BitVec 4096) : (c.setMask n x).pc = c.pc := by
  unfold Core.setMask; split <;> rfl
@[simp] theorem Core.setMask_kernel (c : Core) (n : BitVec 3) (x : BitVec 4096) : (c.setMask n x).kernel = c.kernel := by
  unfold Core.setMask; split <;> rfl
@[simp] theorem Core.setMask_stopped (c : Core) (n : BitVec 3) (x : BitVec 4096) : (c.setMask n x).stopped = c.stopped := by
  unfold Core.setMask; split <;> rfl
@[simp] theorem Core.setMask_blk (c : Core) (n : BitVec 3) (x : BitVec 4096) : (c.setMask n x).blk = c.blk := by
  unfold Core.setMask; split <;> rfl
@[simp] theorem Core.setMask_handler (c : Core) (n : BitVec 3) (x : BitVec 4096) : (c.setMask n x).handler = c.handler := by
  unfold Core.setMask; split <;> rfl
@[simp] theorem Core.setMask_bankU (c : Core) (n : BitVec 3) (x : BitVec 4096) : (c.setMask n x).bankU = c.bankU := by
  unfold Core.setMask; split <;> rfl
@[simp] theorem Core.setMask_bankK (c : Core) (n : BitVec 3) (x : BitVec 4096) : (c.setMask n x).bankK = c.bankK := by
  unfold Core.setMask; split <;> rfl
@[simp] theorem Core.setMask_retryU (c : Core) (n : BitVec 3) (x : BitVec 4096) : (c.setMask n x).retryU = c.retryU := by
  unfold Core.setMask; split <;> rfl
@[simp] theorem Core.setMask_skipU (c : Core) (n : BitVec 3) (x : BitVec 4096) : (c.setMask n x).skipU = c.skipU := by
  unfold Core.setMask; split <;> rfl
@[simp] theorem Core.setMask_trapU (c : Core) (n : BitVec 3) (x : BitVec 4096) : (c.setMask n x).trapU = c.trapU := by
  unfold Core.setMask; split <;> rfl
@[simp] theorem Core.setMask_trapK (c : Core) (n : BitVec 3) (x : BitVec 4096) : (c.setMask n x).trapK = c.trapK := by
  unfold Core.setMask; split <;> rfl
@[simp] theorem Core.setMask_pendK (c : Core) (n : BitVec 3) (x : BitVec 4096) : (c.setMask n x).pendK = c.pendK := by
  unfold Core.setMask; split <;> rfl
@[simp] theorem Core.setMask_pendU (c : Core) (n : BitVec 3) (x : BitVec 4096) : (c.setMask n x).pendU = c.pendU := by
  unfold Core.setMask; split <;> rfl
@[simp] theorem Core.setMask_waited (c : Core) (n : BitVec 3) (x : BitVec 4096) : (c.setMask n x).waited = c.waited := by
  unfold Core.setMask; split <;> rfl
@[simp] theorem Core.setMask_limit (c : Core) (n : BitVec 3) (x : BitVec 4096) : (c.setMask n x).limit = c.limit := by
  unfold Core.setMask; split <;> rfl
@[simp] theorem Core.setMask_idleWait (c : Core) (n : BitVec 3) (x : BitVec 4096) : (c.setMask n x).idleWait = c.idleWait := by
  unfold Core.setMask; split <;> rfl
@[simp] theorem Core.setMask_cycles (c : Core) (n : BitVec 3) (x : BitVec 4096) : (c.setMask n x).cycles = c.cycles := by
  unfold Core.setMask; split <;> rfl
@[simp] theorem Core.setMask_issue (c : Core) (n : BitVec 3) (x : BitVec 4096) : (c.setMask n x).issue = c.issue := by
  unfold Core.setMask; split <;> rfl
@[simp] theorem Core.setMask_fetch (c : Core) (n : BitVec 3) (x : BitVec 4096) : (c.setMask n x).fetch = c.fetch := by
  unfold Core.setMask; split <;> rfl
@[simp] theorem Core.setMask_wrote (c : Core) (n : BitVec 3) (x : BitVec 4096) : (c.setMask n x).wrote = c.wrote := by
  unfold Core.setMask; split <;> rfl
@[simp] theorem Core.setMask_budgetDue (c : Core) (n : BitVec 3) (x : BitVec 4096) : (c.setMask n x).budgetDue = c.budgetDue := by
  unfold Core.setMask; split <;> rfl
@[simp] theorem Core.setMask_ord (c : Core) (n : BitVec 3) (x : BitVec 4096) : (c.setMask n x).ord = c.ord := by
  unfold Core.setMask; split <;> rfl
@[simp] theorem Core.setMask_fences (c : Core) (n : BitVec 3) (x : BitVec 4096) : (c.setMask n x).fences = c.fences := by
  unfold Core.setMask; split <;> rfl
@[simp] theorem Core.setMask_awaits (c : Core) (n : BitVec 3) (x : BitVec 4096) : (c.setMask n x).awaits = c.awaits := by
  unfold Core.setMask; split <;> rfl
@[simp] theorem Core.setMask_psums (c : Core) (n : BitVec 3) (x : BitVec 4096) : (c.setMask n x).psums = c.psums := by
  unfold Core.setMask; split <;> rfl
@[simp] theorem Core.setMask_port (c : Core) (n : BitVec 3) (x : BitVec 4096) : (c.setMask n x).port = c.port := by
  unfold Core.setMask; split <;> rfl
@[simp] theorem Core.setMask_mq (c : Core) (n : BitVec 3) (x : BitVec 4096) : (c.setMask n x).mq = c.mq := by
  unfold Core.setMask; split <;> rfl
@[simp] theorem Core.setMask_fq (c : Core) (n : BitVec 3) (x : BitVec 4096) : (c.setMask n x).fq = c.fq := by
  unfold Core.setMask; split <;> rfl
@[simp] theorem Core.setMask_xq (c : Core) (n : BitVec 3) (x : BitVec 4096) : (c.setMask n x).xq = c.xq := by
  unfold Core.setMask; split <;> rfl
@[simp] theorem Core.setMask_wb (c : Core) (n : BitVec 3) (x : BitVec 4096) : (c.setMask n x).wb = c.wb := by
  unfold Core.setMask; split <;> rfl
@[simp] theorem Core.setMask_spx (c : Core) (n : BitVec 3) (x : BitVec 4096) : (c.setMask n x).spx = c.spx := by
  unfold Core.setMask; split <;> rfl
@[simp] theorem Core.setMask_mbox (c : Core) (n : BitVec 3) (x : BitVec 4096) : (c.setMask n x).mbox = c.mbox := by
  unfold Core.setMask; split <;> rfl
@[simp] theorem Core.setMask_sets (c : Core) (n : BitVec 3) (x : BitVec 4096) : (c.setMask n x).sets = c.sets := by
  unfold Core.setMask; split <;> rfl
@[simp] theorem Core.setMask_ucache (c : Core) (n : BitVec 3) (x : BitVec 4096) : (c.setMask n x).ucache = c.ucache := by
  unfold Core.setMask; split <;> rfl
@[simp] theorem Core.setMask_icache (c : Core) (n : BitVec 3) (x : BitVec 4096) : (c.setMask n x).icache = c.icache := by
  unfold Core.setMask; split <;> rfl
@[simp] theorem Core.setMask_charge (c : Core) (n : BitVec 3) (x : BitVec 4096) : (c.setMask n x).charge = c.charge := by
  unfold Core.setMask; split <;> rfl
@[simp] theorem Core.setMask_vleft (c : Core) (n : BitVec 3) (x : BitVec 4096) : (c.setMask n x).vleft = c.vleft := by
  unfold Core.setMask; split <;> rfl
@[simp] theorem Core.setMask_walkFault (c : Core) (n : BitVec 3) (x : BitVec 4096) : (c.setMask n x).walkFault = c.walkFault := by
  unfold Core.setMask; split <;> rfl
@[simp] theorem Core.setMask_pageFault (c : Core) (n : BitVec 3) (x : BitVec 4096) : (c.setMask n x).pageFault = c.pageFault := by
  unfold Core.setMask; split <;> rfl
@[simp] theorem Core.setMask_r_s (c : Core) (n : BitVec 3) (x : BitVec 4096) : (c.setMask n x).r.s = c.r.s := by
  unfold Core.setMask; split <;> rfl
@[simp] theorem Core.setMask_r_l (c : Core) (n : BitVec 3) (x : BitVec 4096) : (c.setMask n x).r.l = c.r.l := by
  unfold Core.setMask; split <;> rfl
@[simp] theorem Core.setMask_r_p (c : Core) (n : BitVec 3) (x : BitVec 4096) : (c.setMask n x).r.p = c.r.p := by
  unfold Core.setMask; split <;> rfl
@[simp] theorem Core.setMask_r_bt (c : Core) (n : BitVec 3) (x : BitVec 4096) : (c.setMask n x).r.bt = c.r.bt := by
  unfold Core.setMask; split <;> rfl
@[simp] theorem Core.setMask_r_lc (c : Core) (n : BitVec 3) (x : BitVec 4096) : (c.setMask n x).r.lc = c.r.lc := by
  unfold Core.setMask; split <;> rfl
@[simp] theorem Core.setMask_r_q (c : Core) (n : BitVec 3) (x : BitVec 4096) : (c.setMask n x).r.q = c.r.q := by
  unfold Core.setMask; split <;> rfl
@[simp] theorem Core.setMask_r_x (c : Core) (n : BitVec 3) (x : BitVec 4096) : (c.setMask n x).r.x = c.r.x := by
  unfold Core.setMask; split <;> rfl
@[simp] theorem Core.setMask_r_h (c : Core) (n : BitVec 3) (x : BitVec 4096) : (c.setMask n x).r.h = c.r.h := by
  unfold Core.setMask; split <;> rfl
@[simp] theorem Core.setMask_r_t (c : Core) (n : BitVec 3) (x : BitVec 4096) : (c.setMask n x).r.t = c.r.t := by
  unfold Core.setMask; split <;> rfl
@[simp] theorem Core.setMask_r_v (c : Core) (n : BitVec 3) (x : BitVec 4096) : (c.setMask n x).r.v = c.r.v := by
  unfold Core.setMask; split <;> rfl
@[simp] theorem Core.setMask_r_la (c : Core) (n : BitVec 3) (x : BitVec 4096) : (c.setMask n x).r.la = c.r.la := by
  unfold Core.setMask; split <;> rfl
@[simp] theorem Core.setMask_r_vpat (c : Core) (n : BitVec 3) (x : BitVec 4096) : (c.setMask n x).r.vpat = c.r.vpat := by
  unfold Core.setMask; split <;> rfl
@[simp] theorem Core.setMask_r_vcfg (c : Core) (n : BitVec 3) (x : BitVec 4096) : (c.setMask n x).r.vcfg = c.r.vcfg := by
  unfold Core.setMask; split <;> rfl
@[simp] theorem Core.setMask_r_fstat (c : Core) (n : BitVec 3) (x : BitVec 4096) : (c.setMask n x).r.fstat = c.r.fstat := by
  unfold Core.setMask; split <;> rfl
@[simp] theorem Core.setMask_r_mactl (c : Core) (n : BitVec 3) (x : BitVec 4096) : (c.setMask n x).r.mactl = c.r.mactl := by
  unfold Core.setMask; split <;> rfl
@[simp] theorem Core.setMask_r_uivec (c : Core) (n : BitVec 3) (x : BitVec 4096) : (c.setMask n x).r.uivec = c.r.uivec := by
  unfold Core.setMask; split <;> rfl
@[simp] theorem Core.setMask_r_maskBlk (c : Core) (n : BitVec 3) (x : BitVec 4096) : (c.setMask n x).r.maskBlk = c.r.maskBlk := by
  unfold Core.setMask; split <;> rfl
@[simp] theorem Core.setMask_r_seq (c : Core) (n : BitVec 3) (x : BitVec 4096) : (c.setMask n x).r.seq = c.r.seq := by
  unfold Core.setMask; split <;> rfl
@[simp] theorem Core.setMask_r_budget (c : Core) (n : BitVec 3) (x : BitVec 4096) : (c.setMask n x).r.budget = c.r.budget := by
  unfold Core.setMask; split <;> rfl
@[simp] theorem Core.setMask_r_cf (c : Core) (n : BitVec 3) (x : BitVec 4096) : (c.setMask n x).r.cf = c.r.cf := by
  unfold Core.setMask; split <;> rfl
@[simp] theorem Core.setMask_r_cfstat (c : Core) (n : BitVec 3) (x : BitVec 4096) : (c.setMask n x).r.cfstat = c.r.cfstat := by
  unfold Core.setMask; split <;> rfl
@[simp] theorem Core.setMask_r_bar (c : Core) (n : BitVec 3) (x : BitVec 4096) : (c.setMask n x).r.bar = c.r.bar := by
  unfold Core.setMask; split <;> rfl
@[simp] theorem Core.setMask_r_swz (c : Core) (n : BitVec 3) (x : BitVec 4096) : (c.setMask n x).r.swz = c.r.swz := by
  unfold Core.setMask; split <;> rfl
@[simp] theorem Core.setMask_r_waitlim (c : Core) (n : BitVec 3) (x : BitVec 4096) : (c.setMask n x).r.waitlim = c.r.waitlim := by
  unfold Core.setMask; split <;> rfl
@[simp] theorem Core.setMask_r_srseed (c : Core) (n : BitVec 3) (x : BitVec 4096) : (c.setMask n x).r.srseed = c.r.srseed := by
  unfold Core.setMask; split <;> rfl
@[simp] theorem Core.setMask_r_tstat (c : Core) (n : BitVec 3) (x : BitVec 4096) : (c.setMask n x).r.tstat = c.r.tstat := by
  unfold Core.setMask; split <;> rfl
@[simp] theorem Core.setMask_r_fwstat (c : Core) (n : BitVec 3) (x : BitVec 4096) : (c.setMask n x).r.fwstat = c.r.fwstat := by
  unfold Core.setMask; split <;> rfl
@[simp] theorem Core.setMask_r_pslost (c : Core) (n : BitVec 3) (x : BitVec 4096) : (c.setMask n x).r.pslost = c.r.pslost := by
  unfold Core.setMask; split <;> rfl
@[simp] theorem Core.setMask_r_clim (c : Core) (n : BitVec 3) (x : BitVec 4096) : (c.setMask n x).r.clim = c.r.clim := by
  unfold Core.setMask; split <;> rfl
@[simp] theorem Core.setMask_r_frzcnt (c : Core) (n : BitVec 3) (x : BitVec 4096) : (c.setMask n x).r.frzcnt = c.r.frzcnt := by
  unfold Core.setMask; split <;> rfl
@[simp] theorem Core.setMask_r_spad (c : Core) (n : BitVec 3) (x : BitVec 4096) : (c.setMask n x).r.spad = c.r.spad := by
  unfold Core.setMask; split <;> rfl
@[simp] theorem Core.setLong_pre (c : Core) (n : BitVec 2) (x : LongAcc) : (c.setLong n x).pre = c.pre := rfl
@[simp] theorem Core.setLong_grp (c : Core) (n : BitVec 2) (x : LongAcc) : (c.setLong n x).grp = c.grp := rfl
@[simp] theorem Core.setLong_pc (c : Core) (n : BitVec 2) (x : LongAcc) : (c.setLong n x).pc = c.pc := rfl
@[simp] theorem Core.setLong_kernel (c : Core) (n : BitVec 2) (x : LongAcc) : (c.setLong n x).kernel = c.kernel := rfl
@[simp] theorem Core.setLong_stopped (c : Core) (n : BitVec 2) (x : LongAcc) : (c.setLong n x).stopped = c.stopped := rfl
@[simp] theorem Core.setLong_blk (c : Core) (n : BitVec 2) (x : LongAcc) : (c.setLong n x).blk = c.blk := rfl
@[simp] theorem Core.setLong_handler (c : Core) (n : BitVec 2) (x : LongAcc) : (c.setLong n x).handler = c.handler := rfl
@[simp] theorem Core.setLong_bankU (c : Core) (n : BitVec 2) (x : LongAcc) : (c.setLong n x).bankU = c.bankU := rfl
@[simp] theorem Core.setLong_bankK (c : Core) (n : BitVec 2) (x : LongAcc) : (c.setLong n x).bankK = c.bankK := rfl
@[simp] theorem Core.setLong_retryU (c : Core) (n : BitVec 2) (x : LongAcc) : (c.setLong n x).retryU = c.retryU := rfl
@[simp] theorem Core.setLong_skipU (c : Core) (n : BitVec 2) (x : LongAcc) : (c.setLong n x).skipU = c.skipU := rfl
@[simp] theorem Core.setLong_trapU (c : Core) (n : BitVec 2) (x : LongAcc) : (c.setLong n x).trapU = c.trapU := rfl
@[simp] theorem Core.setLong_trapK (c : Core) (n : BitVec 2) (x : LongAcc) : (c.setLong n x).trapK = c.trapK := rfl
@[simp] theorem Core.setLong_pendK (c : Core) (n : BitVec 2) (x : LongAcc) : (c.setLong n x).pendK = c.pendK := rfl
@[simp] theorem Core.setLong_pendU (c : Core) (n : BitVec 2) (x : LongAcc) : (c.setLong n x).pendU = c.pendU := rfl
@[simp] theorem Core.setLong_waited (c : Core) (n : BitVec 2) (x : LongAcc) : (c.setLong n x).waited = c.waited := rfl
@[simp] theorem Core.setLong_limit (c : Core) (n : BitVec 2) (x : LongAcc) : (c.setLong n x).limit = c.limit := rfl
@[simp] theorem Core.setLong_idleWait (c : Core) (n : BitVec 2) (x : LongAcc) : (c.setLong n x).idleWait = c.idleWait := rfl
@[simp] theorem Core.setLong_cycles (c : Core) (n : BitVec 2) (x : LongAcc) : (c.setLong n x).cycles = c.cycles := rfl
@[simp] theorem Core.setLong_issue (c : Core) (n : BitVec 2) (x : LongAcc) : (c.setLong n x).issue = c.issue := rfl
@[simp] theorem Core.setLong_fetch (c : Core) (n : BitVec 2) (x : LongAcc) : (c.setLong n x).fetch = c.fetch := rfl
@[simp] theorem Core.setLong_wrote (c : Core) (n : BitVec 2) (x : LongAcc) : (c.setLong n x).wrote = c.wrote := rfl
@[simp] theorem Core.setLong_budgetDue (c : Core) (n : BitVec 2) (x : LongAcc) : (c.setLong n x).budgetDue = c.budgetDue := rfl
@[simp] theorem Core.setLong_ord (c : Core) (n : BitVec 2) (x : LongAcc) : (c.setLong n x).ord = c.ord := rfl
@[simp] theorem Core.setLong_fences (c : Core) (n : BitVec 2) (x : LongAcc) : (c.setLong n x).fences = c.fences := rfl
@[simp] theorem Core.setLong_awaits (c : Core) (n : BitVec 2) (x : LongAcc) : (c.setLong n x).awaits = c.awaits := rfl
@[simp] theorem Core.setLong_psums (c : Core) (n : BitVec 2) (x : LongAcc) : (c.setLong n x).psums = c.psums := rfl
@[simp] theorem Core.setLong_port (c : Core) (n : BitVec 2) (x : LongAcc) : (c.setLong n x).port = c.port := rfl
@[simp] theorem Core.setLong_mq (c : Core) (n : BitVec 2) (x : LongAcc) : (c.setLong n x).mq = c.mq := rfl
@[simp] theorem Core.setLong_fq (c : Core) (n : BitVec 2) (x : LongAcc) : (c.setLong n x).fq = c.fq := rfl
@[simp] theorem Core.setLong_xq (c : Core) (n : BitVec 2) (x : LongAcc) : (c.setLong n x).xq = c.xq := rfl
@[simp] theorem Core.setLong_wb (c : Core) (n : BitVec 2) (x : LongAcc) : (c.setLong n x).wb = c.wb := rfl
@[simp] theorem Core.setLong_spx (c : Core) (n : BitVec 2) (x : LongAcc) : (c.setLong n x).spx = c.spx := rfl
@[simp] theorem Core.setLong_mbox (c : Core) (n : BitVec 2) (x : LongAcc) : (c.setLong n x).mbox = c.mbox := rfl
@[simp] theorem Core.setLong_sets (c : Core) (n : BitVec 2) (x : LongAcc) : (c.setLong n x).sets = c.sets := rfl
@[simp] theorem Core.setLong_ucache (c : Core) (n : BitVec 2) (x : LongAcc) : (c.setLong n x).ucache = c.ucache := rfl
@[simp] theorem Core.setLong_icache (c : Core) (n : BitVec 2) (x : LongAcc) : (c.setLong n x).icache = c.icache := rfl
@[simp] theorem Core.setLong_charge (c : Core) (n : BitVec 2) (x : LongAcc) : (c.setLong n x).charge = c.charge := rfl
@[simp] theorem Core.setLong_vleft (c : Core) (n : BitVec 2) (x : LongAcc) : (c.setLong n x).vleft = c.vleft := rfl
@[simp] theorem Core.setLong_walkFault (c : Core) (n : BitVec 2) (x : LongAcc) : (c.setLong n x).walkFault = c.walkFault := rfl
@[simp] theorem Core.setLong_pageFault (c : Core) (n : BitVec 2) (x : LongAcc) : (c.setLong n x).pageFault = c.pageFault := rfl
@[simp] theorem Core.setLong_r_s (c : Core) (n : BitVec 2) (x : LongAcc) : (c.setLong n x).r.s = c.r.s := rfl
@[simp] theorem Core.setLong_r_l (c : Core) (n : BitVec 2) (x : LongAcc) : (c.setLong n x).r.l = c.r.l := rfl
@[simp] theorem Core.setLong_r_p (c : Core) (n : BitVec 2) (x : LongAcc) : (c.setLong n x).r.p = c.r.p := rfl
@[simp] theorem Core.setLong_r_bt (c : Core) (n : BitVec 2) (x : LongAcc) : (c.setLong n x).r.bt = c.r.bt := rfl
@[simp] theorem Core.setLong_r_lc (c : Core) (n : BitVec 2) (x : LongAcc) : (c.setLong n x).r.lc = c.r.lc := rfl
@[simp] theorem Core.setLong_r_q (c : Core) (n : BitVec 2) (x : LongAcc) : (c.setLong n x).r.q = c.r.q := rfl
@[simp] theorem Core.setLong_r_x (c : Core) (n : BitVec 2) (x : LongAcc) : (c.setLong n x).r.x = c.r.x := rfl
@[simp] theorem Core.setLong_r_h (c : Core) (n : BitVec 2) (x : LongAcc) : (c.setLong n x).r.h = c.r.h := rfl
@[simp] theorem Core.setLong_r_t (c : Core) (n : BitVec 2) (x : LongAcc) : (c.setLong n x).r.t = c.r.t := rfl
@[simp] theorem Core.setLong_r_v (c : Core) (n : BitVec 2) (x : LongAcc) : (c.setLong n x).r.v = c.r.v := rfl
@[simp] theorem Core.setLong_r_m (c : Core) (n : BitVec 2) (x : LongAcc) : (c.setLong n x).r.m = c.r.m := rfl
@[simp] theorem Core.setLong_r_vpat (c : Core) (n : BitVec 2) (x : LongAcc) : (c.setLong n x).r.vpat = c.r.vpat := rfl
@[simp] theorem Core.setLong_r_vcfg (c : Core) (n : BitVec 2) (x : LongAcc) : (c.setLong n x).r.vcfg = c.r.vcfg := rfl
@[simp] theorem Core.setLong_r_fstat (c : Core) (n : BitVec 2) (x : LongAcc) : (c.setLong n x).r.fstat = c.r.fstat := rfl
@[simp] theorem Core.setLong_r_mactl (c : Core) (n : BitVec 2) (x : LongAcc) : (c.setLong n x).r.mactl = c.r.mactl := rfl
@[simp] theorem Core.setLong_r_uivec (c : Core) (n : BitVec 2) (x : LongAcc) : (c.setLong n x).r.uivec = c.r.uivec := rfl
@[simp] theorem Core.setLong_r_maskBlk (c : Core) (n : BitVec 2) (x : LongAcc) : (c.setLong n x).r.maskBlk = c.r.maskBlk := rfl
@[simp] theorem Core.setLong_r_seq (c : Core) (n : BitVec 2) (x : LongAcc) : (c.setLong n x).r.seq = c.r.seq := rfl
@[simp] theorem Core.setLong_r_budget (c : Core) (n : BitVec 2) (x : LongAcc) : (c.setLong n x).r.budget = c.r.budget := rfl
@[simp] theorem Core.setLong_r_cf (c : Core) (n : BitVec 2) (x : LongAcc) : (c.setLong n x).r.cf = c.r.cf := rfl
@[simp] theorem Core.setLong_r_cfstat (c : Core) (n : BitVec 2) (x : LongAcc) : (c.setLong n x).r.cfstat = c.r.cfstat := rfl
@[simp] theorem Core.setLong_r_bar (c : Core) (n : BitVec 2) (x : LongAcc) : (c.setLong n x).r.bar = c.r.bar := rfl
@[simp] theorem Core.setLong_r_swz (c : Core) (n : BitVec 2) (x : LongAcc) : (c.setLong n x).r.swz = c.r.swz := rfl
@[simp] theorem Core.setLong_r_waitlim (c : Core) (n : BitVec 2) (x : LongAcc) : (c.setLong n x).r.waitlim = c.r.waitlim := rfl
@[simp] theorem Core.setLong_r_srseed (c : Core) (n : BitVec 2) (x : LongAcc) : (c.setLong n x).r.srseed = c.r.srseed := rfl
@[simp] theorem Core.setLong_r_tstat (c : Core) (n : BitVec 2) (x : LongAcc) : (c.setLong n x).r.tstat = c.r.tstat := rfl
@[simp] theorem Core.setLong_r_fwstat (c : Core) (n : BitVec 2) (x : LongAcc) : (c.setLong n x).r.fwstat = c.r.fwstat := rfl
@[simp] theorem Core.setLong_r_pslost (c : Core) (n : BitVec 2) (x : LongAcc) : (c.setLong n x).r.pslost = c.r.pslost := rfl
@[simp] theorem Core.setLong_r_clim (c : Core) (n : BitVec 2) (x : LongAcc) : (c.setLong n x).r.clim = c.r.clim := rfl
@[simp] theorem Core.setLong_r_frzcnt (c : Core) (n : BitVec 2) (x : LongAcc) : (c.setLong n x).r.frzcnt = c.r.frzcnt := rfl
@[simp] theorem Core.setLong_r_spad (c : Core) (n : BitVec 2) (x : LongAcc) : (c.setLong n x).r.spad = c.r.spad := rfl
@[simp] theorem Core.setTile_pre (c : Core) (n : Nat) (x : TReg) : (c.setTile n x).pre = c.pre := rfl
@[simp] theorem Core.setTile_grp (c : Core) (n : Nat) (x : TReg) : (c.setTile n x).grp = c.grp := rfl
@[simp] theorem Core.setTile_pc (c : Core) (n : Nat) (x : TReg) : (c.setTile n x).pc = c.pc := rfl
@[simp] theorem Core.setTile_kernel (c : Core) (n : Nat) (x : TReg) : (c.setTile n x).kernel = c.kernel := rfl
@[simp] theorem Core.setTile_stopped (c : Core) (n : Nat) (x : TReg) : (c.setTile n x).stopped = c.stopped := rfl
@[simp] theorem Core.setTile_blk (c : Core) (n : Nat) (x : TReg) : (c.setTile n x).blk = c.blk := rfl
@[simp] theorem Core.setTile_handler (c : Core) (n : Nat) (x : TReg) : (c.setTile n x).handler = c.handler := rfl
@[simp] theorem Core.setTile_bankU (c : Core) (n : Nat) (x : TReg) : (c.setTile n x).bankU = c.bankU := rfl
@[simp] theorem Core.setTile_bankK (c : Core) (n : Nat) (x : TReg) : (c.setTile n x).bankK = c.bankK := rfl
@[simp] theorem Core.setTile_retryU (c : Core) (n : Nat) (x : TReg) : (c.setTile n x).retryU = c.retryU := rfl
@[simp] theorem Core.setTile_skipU (c : Core) (n : Nat) (x : TReg) : (c.setTile n x).skipU = c.skipU := rfl
@[simp] theorem Core.setTile_trapU (c : Core) (n : Nat) (x : TReg) : (c.setTile n x).trapU = c.trapU := rfl
@[simp] theorem Core.setTile_trapK (c : Core) (n : Nat) (x : TReg) : (c.setTile n x).trapK = c.trapK := rfl
@[simp] theorem Core.setTile_pendK (c : Core) (n : Nat) (x : TReg) : (c.setTile n x).pendK = c.pendK := rfl
@[simp] theorem Core.setTile_pendU (c : Core) (n : Nat) (x : TReg) : (c.setTile n x).pendU = c.pendU := rfl
@[simp] theorem Core.setTile_waited (c : Core) (n : Nat) (x : TReg) : (c.setTile n x).waited = c.waited := rfl
@[simp] theorem Core.setTile_limit (c : Core) (n : Nat) (x : TReg) : (c.setTile n x).limit = c.limit := rfl
@[simp] theorem Core.setTile_idleWait (c : Core) (n : Nat) (x : TReg) : (c.setTile n x).idleWait = c.idleWait := rfl
@[simp] theorem Core.setTile_cycles (c : Core) (n : Nat) (x : TReg) : (c.setTile n x).cycles = c.cycles := rfl
@[simp] theorem Core.setTile_issue (c : Core) (n : Nat) (x : TReg) : (c.setTile n x).issue = c.issue := rfl
@[simp] theorem Core.setTile_fetch (c : Core) (n : Nat) (x : TReg) : (c.setTile n x).fetch = c.fetch := rfl
@[simp] theorem Core.setTile_wrote (c : Core) (n : Nat) (x : TReg) : (c.setTile n x).wrote = c.wrote := rfl
@[simp] theorem Core.setTile_budgetDue (c : Core) (n : Nat) (x : TReg) : (c.setTile n x).budgetDue = c.budgetDue := rfl
@[simp] theorem Core.setTile_ord (c : Core) (n : Nat) (x : TReg) : (c.setTile n x).ord = c.ord := rfl
@[simp] theorem Core.setTile_fences (c : Core) (n : Nat) (x : TReg) : (c.setTile n x).fences = c.fences := rfl
@[simp] theorem Core.setTile_awaits (c : Core) (n : Nat) (x : TReg) : (c.setTile n x).awaits = c.awaits := rfl
@[simp] theorem Core.setTile_psums (c : Core) (n : Nat) (x : TReg) : (c.setTile n x).psums = c.psums := rfl
@[simp] theorem Core.setTile_port (c : Core) (n : Nat) (x : TReg) : (c.setTile n x).port = c.port := rfl
@[simp] theorem Core.setTile_mq (c : Core) (n : Nat) (x : TReg) : (c.setTile n x).mq = c.mq := rfl
@[simp] theorem Core.setTile_fq (c : Core) (n : Nat) (x : TReg) : (c.setTile n x).fq = c.fq := rfl
@[simp] theorem Core.setTile_xq (c : Core) (n : Nat) (x : TReg) : (c.setTile n x).xq = c.xq := rfl
@[simp] theorem Core.setTile_wb (c : Core) (n : Nat) (x : TReg) : (c.setTile n x).wb = c.wb := rfl
@[simp] theorem Core.setTile_spx (c : Core) (n : Nat) (x : TReg) : (c.setTile n x).spx = c.spx := rfl
@[simp] theorem Core.setTile_mbox (c : Core) (n : Nat) (x : TReg) : (c.setTile n x).mbox = c.mbox := rfl
@[simp] theorem Core.setTile_sets (c : Core) (n : Nat) (x : TReg) : (c.setTile n x).sets = c.sets := rfl
@[simp] theorem Core.setTile_ucache (c : Core) (n : Nat) (x : TReg) : (c.setTile n x).ucache = c.ucache := rfl
@[simp] theorem Core.setTile_icache (c : Core) (n : Nat) (x : TReg) : (c.setTile n x).icache = c.icache := rfl
@[simp] theorem Core.setTile_charge (c : Core) (n : Nat) (x : TReg) : (c.setTile n x).charge = c.charge := rfl
@[simp] theorem Core.setTile_vleft (c : Core) (n : Nat) (x : TReg) : (c.setTile n x).vleft = c.vleft := rfl
@[simp] theorem Core.setTile_walkFault (c : Core) (n : Nat) (x : TReg) : (c.setTile n x).walkFault = c.walkFault := rfl
@[simp] theorem Core.setTile_pageFault (c : Core) (n : Nat) (x : TReg) : (c.setTile n x).pageFault = c.pageFault := rfl
@[simp] theorem Core.setTile_r_s (c : Core) (n : Nat) (x : TReg) : (c.setTile n x).r.s = c.r.s := rfl
@[simp] theorem Core.setTile_r_l (c : Core) (n : Nat) (x : TReg) : (c.setTile n x).r.l = c.r.l := rfl
@[simp] theorem Core.setTile_r_p (c : Core) (n : Nat) (x : TReg) : (c.setTile n x).r.p = c.r.p := rfl
@[simp] theorem Core.setTile_r_bt (c : Core) (n : Nat) (x : TReg) : (c.setTile n x).r.bt = c.r.bt := rfl
@[simp] theorem Core.setTile_r_lc (c : Core) (n : Nat) (x : TReg) : (c.setTile n x).r.lc = c.r.lc := rfl
@[simp] theorem Core.setTile_r_q (c : Core) (n : Nat) (x : TReg) : (c.setTile n x).r.q = c.r.q := rfl
@[simp] theorem Core.setTile_r_x (c : Core) (n : Nat) (x : TReg) : (c.setTile n x).r.x = c.r.x := rfl
@[simp] theorem Core.setTile_r_h (c : Core) (n : Nat) (x : TReg) : (c.setTile n x).r.h = c.r.h := rfl
@[simp] theorem Core.setTile_r_v (c : Core) (n : Nat) (x : TReg) : (c.setTile n x).r.v = c.r.v := rfl
@[simp] theorem Core.setTile_r_m (c : Core) (n : Nat) (x : TReg) : (c.setTile n x).r.m = c.r.m := rfl
@[simp] theorem Core.setTile_r_la (c : Core) (n : Nat) (x : TReg) : (c.setTile n x).r.la = c.r.la := rfl
@[simp] theorem Core.setTile_r_vpat (c : Core) (n : Nat) (x : TReg) : (c.setTile n x).r.vpat = c.r.vpat := rfl
@[simp] theorem Core.setTile_r_vcfg (c : Core) (n : Nat) (x : TReg) : (c.setTile n x).r.vcfg = c.r.vcfg := rfl
@[simp] theorem Core.setTile_r_fstat (c : Core) (n : Nat) (x : TReg) : (c.setTile n x).r.fstat = c.r.fstat := rfl
@[simp] theorem Core.setTile_r_mactl (c : Core) (n : Nat) (x : TReg) : (c.setTile n x).r.mactl = c.r.mactl := rfl
@[simp] theorem Core.setTile_r_uivec (c : Core) (n : Nat) (x : TReg) : (c.setTile n x).r.uivec = c.r.uivec := rfl
@[simp] theorem Core.setTile_r_maskBlk (c : Core) (n : Nat) (x : TReg) : (c.setTile n x).r.maskBlk = c.r.maskBlk := rfl
@[simp] theorem Core.setTile_r_seq (c : Core) (n : Nat) (x : TReg) : (c.setTile n x).r.seq = c.r.seq := rfl
@[simp] theorem Core.setTile_r_budget (c : Core) (n : Nat) (x : TReg) : (c.setTile n x).r.budget = c.r.budget := rfl
@[simp] theorem Core.setTile_r_cf (c : Core) (n : Nat) (x : TReg) : (c.setTile n x).r.cf = c.r.cf := rfl
@[simp] theorem Core.setTile_r_cfstat (c : Core) (n : Nat) (x : TReg) : (c.setTile n x).r.cfstat = c.r.cfstat := rfl
@[simp] theorem Core.setTile_r_bar (c : Core) (n : Nat) (x : TReg) : (c.setTile n x).r.bar = c.r.bar := rfl
@[simp] theorem Core.setTile_r_swz (c : Core) (n : Nat) (x : TReg) : (c.setTile n x).r.swz = c.r.swz := rfl
@[simp] theorem Core.setTile_r_waitlim (c : Core) (n : Nat) (x : TReg) : (c.setTile n x).r.waitlim = c.r.waitlim := rfl
@[simp] theorem Core.setTile_r_srseed (c : Core) (n : Nat) (x : TReg) : (c.setTile n x).r.srseed = c.r.srseed := rfl
@[simp] theorem Core.setTile_r_tstat (c : Core) (n : Nat) (x : TReg) : (c.setTile n x).r.tstat = c.r.tstat := rfl
@[simp] theorem Core.setTile_r_fwstat (c : Core) (n : Nat) (x : TReg) : (c.setTile n x).r.fwstat = c.r.fwstat := rfl
@[simp] theorem Core.setTile_r_pslost (c : Core) (n : Nat) (x : TReg) : (c.setTile n x).r.pslost = c.r.pslost := rfl
@[simp] theorem Core.setTile_r_clim (c : Core) (n : Nat) (x : TReg) : (c.setTile n x).r.clim = c.r.clim := rfl
@[simp] theorem Core.setTile_r_frzcnt (c : Core) (n : Nat) (x : TReg) : (c.setTile n x).r.frzcnt = c.r.frzcnt := rfl
@[simp] theorem Core.setTile_r_spad (c : Core) (n : Nat) (x : TReg) : (c.setTile n x).r.spad = c.r.spad := rfl
@[simp] theorem Arch.accrue_s (r : Arch) (fl : Flags) : (r.accrue fl).s = r.s := rfl
@[simp] theorem Arch.setWord_s (r : Arch) (w : Nat) (x : SpWord) : (r.setWord w x).s = r.s := rfl
@[simp] theorem Arch.accrue_l (r : Arch) (fl : Flags) : (r.accrue fl).l = r.l := rfl
@[simp] theorem Arch.setWord_l (r : Arch) (w : Nat) (x : SpWord) : (r.setWord w x).l = r.l := rfl
@[simp] theorem Arch.accrue_p (r : Arch) (fl : Flags) : (r.accrue fl).p = r.p := rfl
@[simp] theorem Arch.setWord_p (r : Arch) (w : Nat) (x : SpWord) : (r.setWord w x).p = r.p := rfl
@[simp] theorem Arch.accrue_bt (r : Arch) (fl : Flags) : (r.accrue fl).bt = r.bt := rfl
@[simp] theorem Arch.setWord_bt (r : Arch) (w : Nat) (x : SpWord) : (r.setWord w x).bt = r.bt := rfl
@[simp] theorem Arch.accrue_lc (r : Arch) (fl : Flags) : (r.accrue fl).lc = r.lc := rfl
@[simp] theorem Arch.setWord_lc (r : Arch) (w : Nat) (x : SpWord) : (r.setWord w x).lc = r.lc := rfl
@[simp] theorem Arch.accrue_q (r : Arch) (fl : Flags) : (r.accrue fl).q = r.q := rfl
@[simp] theorem Arch.setWord_q (r : Arch) (w : Nat) (x : SpWord) : (r.setWord w x).q = r.q := rfl
@[simp] theorem Arch.accrue_x (r : Arch) (fl : Flags) : (r.accrue fl).x = r.x := rfl
@[simp] theorem Arch.setWord_x (r : Arch) (w : Nat) (x : SpWord) : (r.setWord w x).x = r.x := rfl
@[simp] theorem Arch.accrue_h (r : Arch) (fl : Flags) : (r.accrue fl).h = r.h := rfl
@[simp] theorem Arch.setWord_h (r : Arch) (w : Nat) (x : SpWord) : (r.setWord w x).h = r.h := rfl
@[simp] theorem Arch.accrue_t (r : Arch) (fl : Flags) : (r.accrue fl).t = r.t := rfl
@[simp] theorem Arch.setWord_t (r : Arch) (w : Nat) (x : SpWord) : (r.setWord w x).t = r.t := rfl
@[simp] theorem Arch.accrue_v (r : Arch) (fl : Flags) : (r.accrue fl).v = r.v := rfl
@[simp] theorem Arch.setWord_v (r : Arch) (w : Nat) (x : SpWord) : (r.setWord w x).v = r.v := rfl
@[simp] theorem Arch.accrue_m (r : Arch) (fl : Flags) : (r.accrue fl).m = r.m := rfl
@[simp] theorem Arch.setWord_m (r : Arch) (w : Nat) (x : SpWord) : (r.setWord w x).m = r.m := rfl
@[simp] theorem Arch.accrue_la (r : Arch) (fl : Flags) : (r.accrue fl).la = r.la := rfl
@[simp] theorem Arch.setWord_la (r : Arch) (w : Nat) (x : SpWord) : (r.setWord w x).la = r.la := rfl
@[simp] theorem Arch.accrue_vpat (r : Arch) (fl : Flags) : (r.accrue fl).vpat = r.vpat := rfl
@[simp] theorem Arch.setWord_vpat (r : Arch) (w : Nat) (x : SpWord) : (r.setWord w x).vpat = r.vpat := rfl
@[simp] theorem Arch.accrue_vcfg (r : Arch) (fl : Flags) : (r.accrue fl).vcfg = r.vcfg := rfl
@[simp] theorem Arch.setWord_vcfg (r : Arch) (w : Nat) (x : SpWord) : (r.setWord w x).vcfg = r.vcfg := rfl
@[simp] theorem Arch.setWord_fstat (r : Arch) (w : Nat) (x : SpWord) : (r.setWord w x).fstat = r.fstat := rfl
@[simp] theorem Arch.accrue_mactl (r : Arch) (fl : Flags) : (r.accrue fl).mactl = r.mactl := rfl
@[simp] theorem Arch.setWord_mactl (r : Arch) (w : Nat) (x : SpWord) : (r.setWord w x).mactl = r.mactl := rfl
@[simp] theorem Arch.accrue_uivec (r : Arch) (fl : Flags) : (r.accrue fl).uivec = r.uivec := rfl
@[simp] theorem Arch.setWord_uivec (r : Arch) (w : Nat) (x : SpWord) : (r.setWord w x).uivec = r.uivec := rfl
@[simp] theorem Arch.accrue_maskBlk (r : Arch) (fl : Flags) : (r.accrue fl).maskBlk = r.maskBlk := rfl
@[simp] theorem Arch.setWord_maskBlk (r : Arch) (w : Nat) (x : SpWord) : (r.setWord w x).maskBlk = r.maskBlk := rfl
@[simp] theorem Arch.accrue_seq (r : Arch) (fl : Flags) : (r.accrue fl).seq = r.seq := rfl
@[simp] theorem Arch.setWord_seq (r : Arch) (w : Nat) (x : SpWord) : (r.setWord w x).seq = r.seq := rfl
@[simp] theorem Arch.accrue_budget (r : Arch) (fl : Flags) : (r.accrue fl).budget = r.budget := rfl
@[simp] theorem Arch.setWord_budget (r : Arch) (w : Nat) (x : SpWord) : (r.setWord w x).budget = r.budget := rfl
@[simp] theorem Arch.accrue_cf (r : Arch) (fl : Flags) : (r.accrue fl).cf = r.cf := rfl
@[simp] theorem Arch.setWord_cf (r : Arch) (w : Nat) (x : SpWord) : (r.setWord w x).cf = r.cf := rfl
@[simp] theorem Arch.accrue_cfstat (r : Arch) (fl : Flags) : (r.accrue fl).cfstat = r.cfstat := rfl
@[simp] theorem Arch.setWord_cfstat (r : Arch) (w : Nat) (x : SpWord) : (r.setWord w x).cfstat = r.cfstat := rfl
@[simp] theorem Arch.accrue_bar (r : Arch) (fl : Flags) : (r.accrue fl).bar = r.bar := rfl
@[simp] theorem Arch.setWord_bar (r : Arch) (w : Nat) (x : SpWord) : (r.setWord w x).bar = r.bar := rfl
@[simp] theorem Arch.accrue_swz (r : Arch) (fl : Flags) : (r.accrue fl).swz = r.swz := rfl
@[simp] theorem Arch.setWord_swz (r : Arch) (w : Nat) (x : SpWord) : (r.setWord w x).swz = r.swz := rfl
@[simp] theorem Arch.accrue_waitlim (r : Arch) (fl : Flags) : (r.accrue fl).waitlim = r.waitlim := rfl
@[simp] theorem Arch.setWord_waitlim (r : Arch) (w : Nat) (x : SpWord) : (r.setWord w x).waitlim = r.waitlim := rfl
@[simp] theorem Arch.accrue_srseed (r : Arch) (fl : Flags) : (r.accrue fl).srseed = r.srseed := rfl
@[simp] theorem Arch.setWord_srseed (r : Arch) (w : Nat) (x : SpWord) : (r.setWord w x).srseed = r.srseed := rfl
@[simp] theorem Arch.accrue_tstat (r : Arch) (fl : Flags) : (r.accrue fl).tstat = r.tstat := rfl
@[simp] theorem Arch.setWord_tstat (r : Arch) (w : Nat) (x : SpWord) : (r.setWord w x).tstat = r.tstat := rfl
@[simp] theorem Arch.accrue_fwstat (r : Arch) (fl : Flags) : (r.accrue fl).fwstat = r.fwstat := rfl
@[simp] theorem Arch.setWord_fwstat (r : Arch) (w : Nat) (x : SpWord) : (r.setWord w x).fwstat = r.fwstat := rfl
@[simp] theorem Arch.accrue_pslost (r : Arch) (fl : Flags) : (r.accrue fl).pslost = r.pslost := rfl
@[simp] theorem Arch.setWord_pslost (r : Arch) (w : Nat) (x : SpWord) : (r.setWord w x).pslost = r.pslost := rfl
@[simp] theorem Arch.accrue_clim (r : Arch) (fl : Flags) : (r.accrue fl).clim = r.clim := rfl
@[simp] theorem Arch.setWord_clim (r : Arch) (w : Nat) (x : SpWord) : (r.setWord w x).clim = r.clim := rfl
@[simp] theorem Arch.accrue_frzcnt (r : Arch) (fl : Flags) : (r.accrue fl).frzcnt = r.frzcnt := rfl
@[simp] theorem Arch.setWord_frzcnt (r : Arch) (w : Nat) (x : SpWord) : (r.setWord w x).frzcnt = r.frzcnt := rfl
@[simp] theorem Arch.accrue_spad (r : Arch) (fl : Flags) : (r.accrue fl).spad = r.spad := rfl

end Sys2Proof.Machine
end

