-- ==== Sys2Proof/Laws/Memory.lean ====
section
/-! SUPPORT. Memory and scratchpads: every operation keeps the canonical form, a write is read back, and it leaves
every other address as it was. -/
namespace Sys2Proof.Machine

/-! ## Rising keys -/

/-- Every key of a table lies above a number. -/
def Table.above {α : Type} (n : Nat) (t : Table α) : Prop := ∀ p ∈ t, n < p.1

theorem Table.sorted_cons {α : Type} (p : Nat × α) (t : Table α) :
    Table.sorted (p :: t) = true ↔ Table.above p.1 t ∧ Table.sorted t = true := by
  induction t generalizing p with
  | nil => simp [Table.sorted, Table.above]
  | cons q r ih =>
    simp only [Table.sorted, Bool.and_eq_true, decide_eq_true_eq, ih q]
    constructor
    · rintro ⟨h, ha, hs⟩
      refine ⟨?_, ha, hs⟩
      intro x hx
      rcases List.mem_cons.mp hx with rfl | hx
      · exact h
      · exact Nat.lt_trans h (ha x hx)
    · rintro ⟨h, ha, hs⟩
      exact ⟨h q List.mem_cons_self, ha, hs⟩

theorem Table.mem_put {α : Type} {t : Table α} {k : Nat} {v : α} {x : Nat × α} (h : x ∈ Table.put t k v) :
    x = (k, v) ∨ x ∈ t := by
  induction t with
  | nil => simpa [Table.put] using h
  | cons p r ih =>
    unfold Table.put at h
    split at h
    · simpa using h
    · split at h
      · rcases List.mem_cons.mp h with h | h
        · exact .inl h
        · exact .inr (List.mem_cons_of_mem _ h)
      · rcases List.mem_cons.mp h with h | h
        · exact .inr (h ▸ List.mem_cons_self)
        · exact (ih h).imp id (List.mem_cons_of_mem _)

theorem Table.sorted_put {α : Type} {t : Table α} (k : Nat) (v : α) (h : Table.sorted t = true) :
    Table.sorted (Table.put t k v) = true := by
  induction t with
  | nil => rfl
  | cons p r ih =>
    obtain ⟨ha, hs⟩ := (Table.sorted_cons p r).mp h
    unfold Table.put
    split
    · rename_i hk
      refine (Table.sorted_cons _ _).mpr ⟨?_, h⟩
      intro x hx
      rcases List.mem_cons.mp hx with rfl | hx
      · exact hk
      · exact Nat.lt_trans hk (ha x hx)
    · split
      · rename_i hk
        exact (Table.sorted_cons _ _).mpr ⟨fun x hx => hk ▸ ha x hx, hs⟩
      · rename_i h1 h2
        refine (Table.sorted_cons _ _).mpr ⟨?_, ih hs⟩
        intro x hx
        rcases Table.mem_put hx with rfl | hx
        · show p.1 < k
          omega
        · exact ha x hx

theorem Table.mem_drop {α : Type} {t : Table α} {k : Nat} {x : Nat × α} (h : x ∈ Table.drop t k) : x ∈ t := by
  induction t with
  | nil => simp [Table.drop] at h
  | cons p r ih =>
    unfold Table.drop at h
    split at h
    · exact List.mem_cons_of_mem _ (ih h)
    · rcases List.mem_cons.mp h with rfl | h
      · exact List.mem_cons_self
      · exact List.mem_cons_of_mem _ (ih h)

theorem Table.sorted_drop {α : Type} {t : Table α} (k : Nat) (h : Table.sorted t = true) :
    Table.sorted (Table.drop t k) = true := by
  induction t with
  | nil => rfl
  | cons p r ih =>
    obtain ⟨ha, hs⟩ := (Table.sorted_cons p r).mp h
    unfold Table.drop
    split
    · exact ih hs
    · exact (Table.sorted_cons _ _).mpr ⟨fun x hx => ha x (Table.mem_drop hx), ih hs⟩

theorem Table.look_drop_self {α : Type} (t : Table α) (k : Nat) : Table.look (Table.drop t k) k = none := by
  induction t with
  | nil => rfl
  | cons p r ih =>
    unfold Table.drop
    split
    · exact ih
    · rename_i e
      simp [Table.look, e, ih]

theorem Table.look_drop_ne {α : Type} (t : Table α) {k j : Nat} (h : j ≠ k) :
    Table.look (Table.drop t k) j = Table.look t j := by
  induction t with
  | nil => rfl
  | cons p r ih =>
    unfold Table.drop
    split
    · rename_i e
      have : p.1 ≠ j := fun x => h (x ▸ e)
      simp [Table.look, this, ih]
    · simp only [Table.look, ih]

/-- What a stored key reads as. -/
theorem Table.look_store_self {α : Type} [DecidableEq α] (t : Table α) (dflt : α) (k : Nat) (v : α) :
    (Table.look (Table.store t dflt k v) k).getD dflt = v := by
  unfold Table.store
  split
  · rename_i e
    rw [Table.look_drop_self t k, e]; rfl
  · rw [Table.look_put_self]; rfl

theorem Table.look_store_ne {α : Type} [DecidableEq α] (t : Table α) (dflt : α) {k j : Nat} (v : α) (h : j ≠ k) :
    Table.look (Table.store t dflt k v) j = Table.look t j := by
  unfold Table.store
  split
  · exact Table.look_drop_ne t h
  · exact Table.look_put_ne t v h

/-- A table in canonical form: the keys rise and no listed value is the one that an unlisted key holds. -/
def Table.canonical {α : Type} [DecidableEq α] (t : Table α) (dflt : α) : Prop :=
  Table.sorted t = true ∧ ∀ p ∈ t, p.2 ≠ dflt

theorem Table.canonical_store {α : Type} [DecidableEq α] {t : Table α} {dflt : α} (k : Nat) (v : α)
    (h : Table.canonical t dflt) : Table.canonical (Table.store t dflt k v) dflt := by
  unfold Table.store
  split
  · exact ⟨Table.sorted_drop k h.1, fun p hp => h.2 p (Table.mem_drop hp)⟩
  · rename_i e
    refine ⟨Table.sorted_put k v h.1, fun p hp => ?_⟩
    rcases Table.mem_put hp with rfl | hp
    · exact e
    · exact h.2 p hp

theorem Table.sorted_filter {α : Type} {t : Table α} (f : Nat × α → Bool) (h : Table.sorted t = true) :
    Table.sorted (t.filter f) = true := by
  induction t with
  | nil => rfl
  | cons p r ih =>
    obtain ⟨ha, hs⟩ := (Table.sorted_cons p r).mp h
    rw [List.filter_cons]
    split
    · exact (Table.sorted_cons _ _).mpr ⟨fun x hx => ha x (List.mem_of_mem_filter hx), ih hs⟩
    · exact ih hs

/-! ## Memory -/

theorem Memory.wf_iff (m : Memory) : Memory.wf m = true ↔ Table.canonical m 0 := by
  simp [Memory.wf, Table.canonical]

/-- Reset memory is in canonical form. -/
theorem Memory.wf_reset : Memory.wf State.reset.mem = true := rfl

/-- Writing a byte keeps the canonical form. -/
theorem Memory.wf_write {m : Memory} (a : Nat) (b : Byte) (h : Memory.wf m = true) :
    Memory.wf (Memory.write m a b) = true :=
  (Memory.wf_iff _).mpr (Table.canonical_store a b ((Memory.wf_iff m).mp h))

/-- Writing bytes keeps the canonical form. -/
theorem Memory.wf_writes {m : Memory} (a : Nat) (bs : List Byte) (h : Memory.wf m = true) :
    Memory.wf (Memory.writes m a bs) = true := by
  induction bs generalizing m a with
  | nil => exact h
  | cons b r ih => exact ih (a + 1) (Memory.wf_write a b h)

/-- A write of a run of bytes keeps the canonical form. -/
theorem State.wf_writeMem {s : State} (ma : Nat) (d : Data) (h : Memory.wf s.mem = true) :
    Memory.wf (s.writeMem ma d).mem = true := by
  unfold State.writeMem
  split
  · exact h
  · exact Memory.wf_writes _ _ h

/-- Clearing a module's memory keeps the canonical form. -/
theorem Memory.wf_filter {m : Memory} (f : Host.Cell → Bool) (h : Memory.wf m = true) :
    Memory.wf (m.filter f) = true := by
  rw [Memory.wf_iff] at h ⊢
  exact ⟨Table.sorted_filter f h.1, fun p hp => h.2 p (List.mem_of_mem_filter hp)⟩

/-- A byte written is read back. -/
theorem Memory.read_write_self (m : Memory) (a : Nat) (b : Byte) : Memory.read (Memory.write m a b) a = b :=
  Table.look_store_self m 0 a b

/-- Another byte reads as before. -/
theorem Memory.read_write_ne (m : Memory) {a j : Nat} (b : Byte) (h : j ≠ a) :
    Memory.read (Memory.write m a b) j = Memory.read m j := by
  simp only [Memory.read, Memory.write, Table.look_store_ne m 0 b h]

/-- A byte outside a run reads as before. -/
theorem Memory.read_writes_out (m : Memory) (a : Nat) (bs : List Byte) {j : Nat} (h : j < a ∨ a + bs.length ≤ j) :
    Memory.read (Memory.writes m a bs) j = Memory.read m j := by
  induction bs generalizing m a with
  | nil => rfl
  | cons b r ih =>
    simp only [List.length_cons] at h
    rw [Memory.writes, ih _ _ (by omega), Memory.read_write_ne _ _ (by omega)]

/-- A byte of a run reads as it was written. -/
theorem Memory.read_writes_in (m : Memory) (a : Nat) (bs : List Byte) {i : Nat}
    (hi : i < bs.length) : Memory.read (Memory.writes m a bs) (a + i) = bs[i] := by
  induction bs generalizing m a i with
  | nil => simp at hi
  | cons b r ih =>
    rw [Memory.writes]
    cases i with
    | zero => rw [Memory.read_writes_out _ _ _ (by omega)]; exact Memory.read_write_self m a b
    | succ n =>
      have := ih (m := Memory.write m a b) (a + 1) (i := n) (by simpa using hi)
      rw [show a + (n + 1) = a + 1 + n by omega, this]; rfl

/-! ## Scratchpads -/

/-- A scratchpad in canonical form. -/
def Arch.spadCanonical (r : Arch) : Prop := Table.canonical r.spad SpWord.reset

theorem Arch.spadCanonical_setWord {r : Arch} (w : Nat) (x : SpWord) (h : r.spadCanonical) :
    (r.setWord w x).spadCanonical := Table.canonical_store w x h

theorem Arch.spadCanonical_storeSpad {r : Arch} (off : Nat) (d : Data) (n : Nat) (h : r.spadCanonical) :
    (r.storeSpad off d n).spadCanonical := by
  induction n generalizing r off d with
  | zero => exact h
  | succ n ih =>
    unfold Arch.storeSpad
    split
    · exact h
    · exact ih _ _ (Arch.spadCanonical_setWord _ _ h)

/-- Storing bytes keeps a scratchpad in canonical form. -/
theorem Arch.spadCanonical_putSpad {r : Arch} (off : Nat) (d : Data) (h : r.spadCanonical) :
    (r.putSpad off d).spadCanonical := Arch.spadCanonical_storeSpad _ _ _ h

/-- A word written is read back. -/
theorem Arch.word_setWord_self (r : Arch) (w : Nat) (x : SpWord) : (r.setWord w x).word w = x :=
  Table.look_store_self _ _ _ _

/-- Another word reads as before. -/
theorem Arch.word_setWord_ne (r : Arch) {w j : Nat} (x : SpWord) (h : j ≠ w) : (r.setWord w x).word j = r.word j := by
  simp only [Arch.word, Arch.setWord, Table.look_store_ne r.spad _ x h]

end Sys2Proof.Machine
end

