-- ==== Sys2Proof/Laws/Ops.lean ====
section
/-! SUPPORT. What each shared operation does, said once: reading an operand, writing a result, what stops a slot word,
taking a synchronous cause, returning from a handler, accepting a command, and the element-wise operations. -/
namespace Sys2Proof.Machine

/-! ## The core whose turn it is -/

@[simp] theorem State.setCore_setCore (s : State) (k : Nat) (c d : Core) :
    (s.setCore k c).setCore k d = s.setCore k d := by simp [State.setCore]

/-- An update of the core whose turn it is leaves every other core. -/
theorem State.core_setMe_ne (s : State) (c : Core) {j : Nat} (h : j ≠ s.here) : (s.setMe c).core j = s.core j := by
  simp [State.core, State.setMe, State.setCore, Table.look_put_ne _ _ h]

/-! ## Guards and outcomes (R179, R180) -/

/-- `p0` is true as a guard. -/
@[simp] theorem Core.pred_zero (c : Core) : c.pred 0 = true := by simp [Core.pred]

/-- A word with a false guard has no effect of any kind. -/
theorem runSlot_false {s : State} {g : Guard} (e : Eff State) (h : s.me.guarded g = false) : runSlot s g e = .next s := by
  simp [runSlot, h]

/-- A word with a true guard comes to what its effect comes to. -/
theorem runSlot_true {s : State} {g : Guard} (e : Eff State) (h : s.me.guarded g = true) :
    runSlot s g e = finish s e := by simp [runSlot, h]

/-- A word with a true guard that nothing stops has its effect. -/
theorem runSlot_ok {s t : State} {g : Guard} {e : Eff State} (h : s.me.guarded g = true) (he : e = .ok t) :
    runSlot s g e = .next t := by simp [runSlot, h, he, finish]

/-- A slot word never faults and is never refused: it has its effect, takes a cause or holds its group. -/
theorem finish_next (s : State) (e : Eff State) : ∃ t, finish s e = .next t := by
  cases e with
  | ok t => exact ⟨t, rfl⟩
  | error x => cases x <;> exact ⟨_, rfl⟩

/-- The same of a word under its guard. -/
theorem runSlot_next (s : State) (g : Guard) (e : Eff State) : ∃ t, runSlot s g e = .next t := by
  unfold runSlot; split
  · exact finish_next s e
  · exact ⟨s, rfl⟩

/-- A word that raises a cause takes it. -/
theorem finish_raise (s : State) (w : Site) (code info : Nat) (x : W64) :
    finish s (raise s w code info x) = .next (s.takeSync s.here .check (causeAt s w code info x)) := rfl

/-- A word that is held keeps everything but its core's wait and group status. -/
theorem finish_hold (s : State) : finish s hold = .next (s.held false) := rfl

/-! ## Operands (R182, R237, R404) -/

theorem ready_ok {b : Bool} : ready b = .ok () ↔ b = true := by cases b <;> simp [ready, hold]

/-- A source that holds no poison gives its value. -/
theorem operand_ok {s : State} {a : BitVec 6} (w : Site) (h : (source s a).poison = false) :
    operand s w a = .ok (source s a).val := by simp [operand, h]

/-- A poisoned source raises POISON with its code. -/
theorem operand_poison {s : State} {a : BitVec 6} (w : Site) (h : (source s a).poison = true) :
    operand s w a = raisePoison s w a.toNat := by simp [operand, h]

/-- A source that reads a known value is ready and clean. -/
theorem available_known {s : State} {a : BitVec 6} {x : W64} (h : source s a = known x) : available s a = true := by
  simp [available, h, known]

theorem operand_known {s : State} {a : BitVec 6} {x : W64} (w : Site) (h : source s a = known x) :
    operand s w a = .ok x := by simp [operand, h, known]

/-- Code 0 reads zero. -/
@[simp] theorem source_zero (s : State) : source s 0 = known 0 := rfl

/-! ## Scalar operations (R238, R242 to R244) -/

/-- A destination whose result and whose latch are ready. -/
theorem scalarReady_iff (s : State) (sl : Lane) (d : BitVec 6) (srcs : List (BitVec 6)) :
    scalarReady s sl d srcs = true ↔
      (∀ a ∈ srcs, available s a = true) ∧ writable s d = true ∧ latchFree s sl = true := by
  simp [scalarReady, and_assoc]

/-- A two-source operation on known values writes its result and shifts the lane's latches. -/
theorem binary_ok {s : State} {sl : Lane} {d a b : BitVec 6} {x y : W64} (w : Site) (f : W64 → W64 → W64)
    (ha : source s a = known x) (hb : source s b = known y) (hd : writable s d = true) (hl : latchFree s sl = true) :
    binary s w sl d a b f = .ok (s.setMe (s.me.result sl d (known (f x y)))) := by
  simp [binary, scalarReady, available_known ha, available_known hb, hd, hl, operand_known w ha, operand_known w hb,
    ready, bind, Except.bind, pure, Except.pure]

/-- All that a two-source operation can come to: its result, a held group, or POISON of a source. -/
theorem binary_cases (s : State) (w : Site) (sl : Lane) (d a b : BitVec 6) (f : W64 → W64 → W64) :
    binary s w sl d a b f = .ok (s.setMe (s.me.result sl d (known (f (source s a).val (source s b).val))))
    ∨ binary s w sl d a b f = hold
    ∨ binary s w sl d a b f = raisePoison s w a.toNat ∨ binary s w sl d a b f = raisePoison s w b.toNat := by
  unfold binary operand ready
  cases scalarReady s sl d [a, b] <;> cases (source s a).poison <;> cases (source s b).poison <;>
    simp [bind, Except.bind, pure, Except.pure, hold, raisePoison, raise]

/-- A one-source operation on a known value. -/
theorem unary_ok {s : State} {sl : Lane} {d a : BitVec 6} {x : W64} (w : Site) (f : W64 → W64)
    (ha : source s a = known x) (hd : writable s d = true) (hl : latchFree s sl = true) :
    unary s w sl d a f = .ok (s.setMe (s.me.result sl d (known (f x)))) := by
  simp [unary, scalarReady, available_known ha, hd, hl, operand_known w ha, ready, bind, Except.bind, pure, Except.pure]

/-- All that a one-source operation can come to. -/
theorem unary_cases (s : State) (w : Site) (sl : Lane) (d a : BitVec 6) (f : W64 → W64) :
    unary s w sl d a f = .ok (s.setMe (s.me.result sl d (known (f (source s a).val))))
    ∨ unary s w sl d a f = hold ∨ unary s w sl d a f = raisePoison s w a.toNat := by
  unfold unary operand ready
  cases scalarReady s sl d [a] <;> cases (source s a).poison <;>
    simp [bind, Except.bind, pure, Except.pure, hold, raisePoison, raise]

/-- A compare of known values writes the relation and its complement. -/
theorem compare_ok {s : State} {a b : BitVec 6} {x y : W64} (w : Site) (p q : BitVec 4) (f : W64 → W64 → Bool)
    (ha : source s a = known x) (hb : source s b = known y) :
    compare s w p q a b f = .ok (s.setMe ((s.me.setP p (f x y)).setP q (!f x y))) := by
  simp [compare, available_known ha, available_known hb, operand_known w ha, operand_known w hb,
    ready, bind, Except.bind, pure, Except.pure]

/-- All that a compare can come to. -/
theorem compare_cases (s : State) (w : Site) (p q : BitVec 4) (a b : BitVec 6) (f : W64 → W64 → Bool) :
    compare s w p q a b f = .ok (s.setMe
      ((s.me.setP p (f (source s a).val (source s b).val)).setP q (!f (source s a).val (source s b).val)))
    ∨ compare s w p q a b f = hold
    ∨ compare s w p q a b f = raisePoison s w a.toNat ∨ compare s w p q a b f = raisePoison s w b.toNat := by
  unfold compare operand ready
  cases (available s a && available s b) <;> cases (source s a).poison <;> cases (source s b).poison <;>
    simp [bind, Except.bind, pure, Except.pure, hold, raisePoison, raise]

/-- A write of one register from a known source. -/
theorem stage_ok {s : State} {a : BitVec 6} {x : W64} (w : Site) (f : W64 → Core → Core) (ha : source s a = known x) :
    stage s w a f = .ok (s.setMe (f x s.me)) := by
  simp [stage, available_known ha, operand_known w ha, ready, bind, Except.bind, pure, Except.pure]

/-- A scalar register written reads as written; every other register is left. -/
theorem Core.setS_self (c : Core) {d : BitVec 6} (v : Cell64) (h : d.toNat < 48) (h0 : d ≠ 0) :
    (c.setS d v).r.s[d.toNat] = v := by
  unfold Core.setS; rw [dif_pos h, if_neg h0]; exact Vector.getElem_set_self h

theorem Core.setS_ne (c : Core) (d : BitVec 6) (v : Cell64) {n : Nat} (hn : n < 48) (h : n ≠ d.toNat) :
    (c.setS d v).r.s[n] = c.r.s[n] := by
  unfold Core.setS
  split
  · split
    · rfl
    · simp only [Vector.getElem_set]; rw [if_neg (fun e => h e.symm)]
  · rfl

/-- `s0` and the codes above 47 discard. -/
theorem Core.setS_discard (c : Core) {d : BitVec 6} (v : Cell64) (h : d = 0 ∨ 48 ≤ d.toNat) : c.setS d v = c := by
  rcases h with rfl | h
  · simp [Core.setS]
  · simp [Core.setS, Nat.not_lt.mpr h]

/-- `p0` and the path predicates discard. -/
theorem Core.setP_discard (c : Core) {n : BitVec 4} (b : Bool) (h : n = 0 ∨ 11 ≤ n.toNat) : c.setP n b = c := by
  rcases h with rfl | h
  · simp [Core.setP]
  · simp [Core.setP, h]

/-! ## Handlers (R397 to R403) -/

@[simp] theorem Core.enterUser_handler (c : Core) (x : Cause) (a b : W64) : (c.enterUser x a b).handler = true := rfl
@[simp] theorem Core.enterUser_trapU (c : Core) (x : Cause) (a b : W64) : (c.enterUser x a b).trapU = trapInfo x := rfl
@[simp] theorem Core.enterUser_retryU (c : Core) (x : Cause) (a b : W64) : (c.enterUser x a b).retryU = a := rfl
@[simp] theorem Core.enterUser_skipU (c : Core) (x : Cause) (a b : W64) : (c.enterUser x a b).skipU = b := rfl
@[simp] theorem Core.enterUser_l (c : Core) (x : Cause) (a b : W64) :
    (c.enterUser x a b).r.l = Vector.replicate 8 Cell64.zero := rfl
@[simp] theorem Core.enterUser_s46 (c : Core) (x : Cause) (a b : W64) : (c.enterUser x a b).r.s[46] = known x.operand := by
  simp [Core.enterUser, Arch.zeroLatches]
@[simp] theorem Core.enterUser_s47 (c : Core) (x : Cause) (a b : W64) : (c.enterUser x a b).r.s[47] = known a := by
  simp [Core.enterUser, Arch.zeroLatches]

@[simp] theorem Core.enterKernel_kernel (c : Core) (v : W64) (x : Cause) (a : W64) :
    (c.enterKernel v x a).kernel = true := rfl
@[simp] theorem Core.enterKernel_trapK (c : Core) (v : W64) (x : Cause) (a : W64) :
    (c.enterKernel v x a).trapK = trapInfo x := rfl
@[simp] theorem Core.enterKernel_pc (c : Core) (v : W64) (x : Cause) (a : W64) :
    (c.enterKernel v x a).pc = BitVec.ofNat 64 (field v 2 55 * 4) := rfl
@[simp] theorem Core.enterKernel_l (c : Core) (v : W64) (x : Cause) (a : W64) :
    (c.enterKernel v x a).r.l = Vector.replicate 8 Cell64.zero := rfl
@[simp] theorem Core.enterKernel_s46 (c : Core) (v : W64) (x : Cause) (a : W64) :
    (c.enterKernel v x a).r.s[46] = known x.operand := by simp [Core.enterKernel, Arch.zeroLatches]
@[simp] theorem Core.enterKernel_s47 (c : Core) (v : W64) (x : Cause) (a : W64) :
    (c.enterKernel v x a).r.s[47] = known a := by simp [Core.enterKernel, Arch.zeroLatches]

@[simp] theorem Core.returnUser_handler (c : Core) (pc : W64) : (c.returnUser pc).handler = false := rfl
@[simp] theorem Core.returnUser_pc (c : Core) (pc : W64) : (c.returnUser pc).pc = pc := rfl
@[simp] theorem Core.returnUser_bankU (c : Core) (pc : W64) : (c.returnUser pc).bankU = c.r.bank := rfl
@[simp] theorem Core.returnKernel_kernel (c : Core) : c.returnKernel.kernel = false := rfl
@[simp] theorem Core.returnKernel_bankK (c : Core) : c.returnKernel.bankK = c.r.bank := rfl

/-- Pending sums are counted, and nothing of the core but the sums and PSLOST changes. -/
theorem Core.dropSums_pc (c : Core) : c.dropSums.pc = c.pc := by unfold Core.dropSums; lift_lets; intro n; split <;> rfl
theorem Core.dropSums_s (c : Core) : c.dropSums.r.s = c.r.s := by unfold Core.dropSums; lift_lets; intro n; split <;> rfl
theorem Core.dropSums_bankU (c : Core) : c.dropSums.bankU = c.bankU := by
  unfold Core.dropSums; lift_lets; intro n; split <;> rfl
theorem Core.dropSums_psums (c : Core) : c.dropSums.psums = [] := by
  unfold Core.dropSums
  lift_lets
  intro n
  split
  · rename_i h; exact List.length_eq_zero_iff.mp (by omega)
  · rfl

/-- What a first fetch finds of a block's context leaves the core's PC, registers and banks. -/
@[simp] theorem ctxFound_pc (c : Core) (x : Cause) : (State.ctxFound c x).pc = c.pc := by unfold State.ctxFound; split <;> rfl
@[simp] theorem ctxFound_r (c : Core) (x : Cause) : (State.ctxFound c x).r = c.r := by unfold State.ctxFound; split <;> rfl
@[simp] theorem ctxFound_bankK (c : Core) (x : Cause) : (State.ctxFound c x).bankK = c.bankK := by unfold State.ctxFound; split <;> rfl

/-- A user cause outside the user handler, with UIVEC.EN set, enters the user handler. -/
theorem State.takeSync_user (s : State) (k : Nat) (st : Stage) (x : Cause) (h1 : (s.core k).kernel = false)
    (h2 : ∀ b, (s.core k).blk = some b → b.squashed = false) (h3 : x.user = true) (h4 : (s.core k).handler = false)
    (h5 : bit (s.core k).r.uivec 0 = true) :
    let c := s.core k
    let d := c.dropAwaits.endWait.enterUser x c.pc (c.grp.target.getD c.grp.next)
    s.takeSync k st x = s.setCore k { d with grp := { d.grp with status := .trapped st } } := by
  unfold State.takeSync
  dsimp only
  rw [if_neg (by simp [h1]), if_neg (by split <;> simp_all), if_neg (by simp [h3]), if_neg (by simp [h4]), if_neg (by simp [h5])]
  simp

/-- A kernel cause at user privilege enters the system handler of the core's partition. -/
theorem State.takeSync_kernel (s : State) (k : Nat) (st : Stage) (x : Cause) (h1 : (s.core k).kernel = false)
    (h2 : ∀ b, (s.core k).blk = some b → b.squashed = false) (h3 : x.user = false) :
    let c := State.ctxFound (s.core k) x
    let d := c.dropAwaits.endWait.enterKernel (s.part (s.partOf k)).kvec x c.pc
    s.takeSync k st x = s.setCore k { d with grp := { d.grp with status := .trapped st } } := by
  unfold State.takeSync State.toSystem
  dsimp only
  rw [if_neg (by simp [h1]), if_neg (by split <;> simp_all), if_pos (by simp [h3])]
  simp

/-! ## Commands (R117, R223) -/

/-- A command whose registers are free is accepted: it stands last among the core's commands, its staging fields
checked. -/
theorem acceptCommand_ok {s : State} {w : Site} {a : Accept} (h : (s.me.pre.isSome || decide (s.me.xq.length < 16)) = true)
    (hb : s.me.mayHold (a.busy (newCmd s w)) = true) :
    let c := newCmd s w
    let d := if s.goodCompletion s.here c && a.good c
      then { c with busy := a.busy c, rd := localSide s (a.src c), wr := localSide s (a.dst c), data := a.data c, src := a.src c, dst := a.dst c }
      else { c with busy := a.busy c, status := some 6 }
    s.commit (s.mayCommand a d) = .ok () →
      acceptCommand s w a = .ok ({ s with fresh := s.fresh + 1 }.setMe { s.me with xq := s.me.xq ++ [d] }) := by
  intro c d hc
  simp only [acceptCommand, h, hb, ready, bind, Except.bind, pure, Except.pure, if_true]
  rw [show s.commit (s.mayCommand a (if (s.goodCompletion s.here (newCmd s w) && a.good (newCmd s w)) = true
      then { newCmd s w with
        busy := a.busy (newCmd s w), rd := localSide s (a.src (newCmd s w)), wr := localSide s (a.dst (newCmd s w))
        data := a.data (newCmd s w), src := a.src (newCmd s w), dst := a.dst (newCmd s w) }
      else { newCmd s w with busy := a.busy (newCmd s w), status := some 6 })) = .ok () from hc]

/-! ## Vectors (R271) -/

/-- The element-wise update of nothing. -/
@[simp] theorem mapElems_nil (eb : Nat) (f : Nat → Rounded) (d : VReg) (fl : Flags) : mapElems eb f [] d fl = (d, fl) := rfl

/-- Registers that are free and hold no poison at the active positions are read. -/
theorem readAll_ok {s : State} {w : Site} {eb : Nat} {at_ : List Nat} (srcs : List VSrc)
    (h : ∀ x ∈ srcs, ∀ i ∈ at_, (readVec s eb x).bad (eb * i) eb = false) :
    readAll s w eb at_ srcs = .ok (srcs.map (readVec s eb)) := by
  induction srcs with
  | nil => rfl
  | cons x r ih =>
    have hx : (at_.any fun i => (readVec s eb x).bad (eb * i) eb) = false := by
      simpa [List.any_eq_false] using h x (by simp)
    simp [readAll, checkVec, hx, ih (fun y hy => h y (by simp [hy])), bind, Except.bind, pure, Except.pure]

/-- An element-wise operation on free, clean registers of a legal shape writes its results and raises its flags. -/
theorem lanes_ok {s : State} {w : Site} {lo hi : Nat} {d : BitVec 5} {srcs : List VSrc} {k : Bool} {sh : Shape}
    (f : Shape → List Nat → Rounded) (hs : shapeFor s w lo hi = .ok sh)
    (hr : vecReady s (srcs.map (·.1)) [d] = .ok ())
    (hc : ∀ x ∈ srcs, ∀ i ∈ sh.active k, (readVec s sh.eb x).bad (sh.eb * i) sh.eb = false) :
    lanes s w lo hi d srcs false k f = .ok (s.setMe (s.me.vresult d
      (mapElems sh.eb (fun i => f sh ((srcs.map (readVec s sh.eb)).map fun x => x.elem sh.eb i)) (sh.active k)
        (s.me.vec d) 0))) := by
  simp [lanes, hr, hs, readAll_ok srcs hc, bind, Except.bind, pure, Except.pure]

end Sys2Proof.Machine
end

