-- ==== Sys2Proof/Laws/PerInstr.lean ====
section
/-! SUPPORT. The per-instruction family `Encoding`: the word that the encoder gives a well-formed instruction is
read back as that instruction in its slot. -/
namespace Sys2Proof.Laws.Encoding

set_option Elab.async false

/-- The word that the encoder gives an instruction carries its guard, and names it in its slot with every
operand. -/
def Statement (i : Instr) : Prop :=
  ∀ w, i.encode = some w → i.guard? = some (guardOf w)
    ∧ ∃ sl, i.slot? = some sl ∧ (i.wellFormed = true → decodeSlot sl w = .ok i)

theorem syncWait (f : BitVec 4) (c : BitVec 6) : Statement (.syncWait f c) := fun _ h => nomatch h

theorem syncPost (f : BitVec 4) (c : BitVec 6) : Statement (.syncPost f c) := fun _ h => nomatch h

theorem syncTake (f : BitVec 4) (c : BitVec 6) : Statement (.syncTake f c) := fun _ h => nomatch h

theorem nullifierSkip : Statement .nullifierSkip := fun _ h => nomatch h

theorem partialSumArrive (core : Nat) : Statement (.partialSumArrive core) := fun _ h => nomatch h

theorem mCommandComplete (core : Nat) : Statement (.mCommandComplete core) := fun _ h => nomatch h

theorem fCommandComplete (core : Nat) : Statement (.fCommandComplete core) := fun _ h => nomatch h

theorem stateEvict (cl : Nat) : Statement (.stateEvict cl) := fun _ h => nomatch h

theorem stateEvictDone (cl : Nat) (slot : Nat) : Statement (.stateEvictDone cl slot) := fun _ h => nomatch h

theorem statePageinDone (cl : Nat) (slot : Nat) (ok : Bool) : Statement (.statePageinDone cl slot ok) := fun _ h => nomatch h

theorem fwMigrationCopyDone (cl : Nat) (slot : Nat) : Statement (.fwMigrationCopyDone cl slot) := fun _ h => nomatch h

theorem fwResidencyHoldExpire (cl : Nat) (slot : Nat) : Statement (.fwResidencyHoldExpire cl slot) := fun _ h => nomatch h

theorem xCommandComplete (core : Nat) (id : Nat) : Statement (.xCommandComplete core id) := fun _ h => nomatch h

theorem gCommandComplete (core : Nat) (id : Nat) : Statement (.gCommandComplete core id) := fun _ h => nomatch h

theorem sparseIndexPush (core : Nat) : Statement (.sparseIndexPush core) := fun _ h => nomatch h

theorem collectiveContribution (core : Nat) (id : Nat) : Statement (.collectiveContribution core id) := fun _ h => nomatch h

theorem collectiveTimeout (inst : Nat) : Statement (.collectiveTimeout inst) := fun _ h => nomatch h

theorem mailboxDescriptorArrive (core : Nat) (id : Nat) : Statement (.mailboxDescriptorArrive core id) := fun _ h => nomatch h

theorem mailboxDescriptorTimeout (core : Nat) (id : Nat) : Statement (.mailboxDescriptorTimeout core id) := fun _ h => nomatch h

theorem grecvTimeout (core : Nat) (id : Nat) : Statement (.grecvTimeout core id) := fun _ h => nomatch h

theorem read (id : Nat) : Statement (.read id) := fun _ h => nomatch h

theorem write (id : Nat) : Statement (.write id) := fun _ h => nomatch h

theorem atomic (id : Nat) : Statement (.atomic id) := fun _ h => nomatch h

theorem rowcopy (src : Nat) (dst : Nat) (len : Nat) : Statement (.rowcopy src dst len) := fun _ h => nomatch h

theorem rowinit (dst : Nat) (len : Nat) (pat : BitVec 64) : Statement (.rowinit dst len pat) := fun _ h => nomatch h

theorem subscribe (cl : Nat) (ring : Nat) : Statement (.subscribe cl ring) := fun _ h => nomatch h

theorem pull (cl : Nat) (ring : Nat) : Statement (.pull cl ring) := fun _ h => nomatch h

theorem packetDiscard (stack : Nat) (kind : BitVec 4) : Statement (.packetDiscard stack kind) := fun _ h => nomatch h

theorem dramActivate (stack : Nat) (act : DramAct) : Statement (.dramActivate stack act) := fun _ h => nomatch h

theorem dramRefresh (stack : Nat) (bank : Nat) : Statement (.dramRefresh stack bank) := fun _ h => nomatch h

theorem rmlogValidClear (stack : Nat) : Statement (.rmlogValidClear stack) := fun _ h => nomatch h

theorem tierDemote (chip : Nat) : Statement (.tierDemote chip) := fun _ h => nomatch h

theorem pageInComplete (page : Nat) (read : Option (BitVec 1024)) : Statement (.pageInComplete page read) := fun _ h => nomatch h

theorem residencyHoldExpire (page : Nat) : Statement (.residencyHoldExpire page) := fun _ h => nomatch h

theorem translationWalk (id : Nat) : Statement (.translationWalk id) := fun _ h => nomatch h

theorem remoteScratchpadAccess (id : Nat) : Statement (.remoteScratchpadAccess id) := fun _ h => nomatch h

theorem waitWithdraw (id : Nat) : Statement (.waitWithdraw id) := fun _ h => nomatch h

theorem waiterTableRetry (id : Nat) : Statement (.waiterTableRetry id) := fun _ h => nomatch h

theorem feWaitLimit (core : Nat) : Statement (.feWaitLimit core) := fun _ h => nomatch h

theorem remoteAccessTimeout (id : Nat) : Statement (.remoteAccessTimeout id) := fun _ h => nomatch h

theorem flagPostArrive (id : Nat) : Statement (.flagPostArrive id) := fun _ h => nomatch h

theorem flitReplay (unit : Nat) (link : Nat) : Statement (.flitReplay unit link) := fun _ h => nomatch h

theorem linkFailed (unit : Nat) (link : Nat) : Statement (.linkFailed unit link) := fun _ h => nomatch h

theorem fablinkRetrain (unit : Nat) (link : Nat) : Statement (.fablinkRetrain unit link) := fun _ h => nomatch h

theorem linkTrainingDone (unit : Nat) (link : Nat) (ok : Bool) : Statement (.linkTrainingDone unit link ok) := fun _ h => nomatch h

theorem headSuspect (unit : Nat) (router : Nat) : Statement (.headSuspect unit router) := fun _ h => nomatch h

theorem meridianCapture (unit : Nat) (router : Nat) : Statement (.meridianCapture unit router) := fun _ h => nomatch h

theorem tokenRegenerate (unit : Nat) : Statement (.tokenRegenerate unit) := fun _ h => nomatch h

theorem ringSlotLand (cl : Nat) (ring : Nat) : Statement (.ringSlotLand cl ring) := fun _ h => nomatch h

theorem ringSlotDrain (cl : Nat) (ring : Nat) : Statement (.ringSlotDrain cl ring) := fun _ h => nomatch h

theorem ringEnlarge (cl : Nat) (crew : Nat) : Statement (.ringEnlarge cl crew) := fun _ h => nomatch h

theorem ringExtensionMove (cl : Nat) (ring : Nat) : Statement (.ringExtensionMove cl ring) := fun _ h => nomatch h

theorem scratchpadEccError (core : Nat) (word : Nat) (up : SpadUpset) : Statement (.scratchpadEccError core word up) := fun _ h => nomatch h

theorem recordEnqueue (id : Nat) : Statement (.recordEnqueue id) := fun _ h => nomatch h

theorem enqueueWindowWrite (ma : Nat) (bytes : List (BitVec 8)) (bad : Bool) : Statement (.enqueueWindowWrite ma bytes bad) := fun _ h => nomatch h

theorem joinDecrement (id : Nat) : Statement (.joinDecrement id) := fun _ h => nomatch h

theorem spillToOverflow (cl : Nat) : Statement (.spillToOverflow cl) := fun _ h => nomatch h

theorem fillFromOverflow (cl : Nat) : Statement (.fillFromOverflow cl) := fun _ h => nomatch h

theorem dispatch (core : Nat) : Statement (.dispatch core) := fun _ h => nomatch h

theorem budget (core : Nat) : Statement (.budget core) := fun _ h => nomatch h

theorem launchRecordPlace (cl : Nat) : Statement (.launchRecordPlace cl) := fun _ h => nomatch h

theorem shapeResolve (launch : Nat) : Statement (.shapeResolve launch) := fun _ h => nomatch h

theorem retract (launch : Nat) : Statement (.retract launch) := fun _ h => nomatch h

theorem crewComplete (part : Nat) (crew : Nat) : Statement (.crewComplete part crew) := fun _ h => nomatch h

theorem queueDestroy (cl : Nat) (queue : Nat) : Statement (.queueDestroy cl queue) := fun _ h => nomatch h

theorem qstatClear (cl : Nat) : Statement (.qstatClear cl) := fun _ h => nomatch h

theorem orreryGo (cl : Nat) : Statement (.orreryGo cl) := fun _ h => nomatch h

theorem orreryNodeFire (cl : Nat) (node : Nat) : Statement (.orreryNodeFire cl node) := fun _ h => nomatch h

theorem orreryIndexTake (cl : Nat) (node : Nat) : Statement (.orreryIndexTake cl node) := fun _ h => nomatch h

theorem ueMessageReceive (chip : Nat) (port : Nat) (job : Nat) (pid : Nat) (message : Nat × List (BitVec 8)) : Statement (.ueMessageReceive chip port job pid message) := fun _ h => nomatch h

theorem tokeniseRequest (chip : Nat) (e : Nat) : Statement (.tokeniseRequest chip e) := fun _ h => nomatch h

theorem requestWordLand (chip : Nat) (e : Nat) : Statement (.requestWordLand chip e) := fun _ h => nomatch h

theorem templateEnqueue (chip : Nat) (e : Nat) : Statement (.templateEnqueue chip e) := fun _ h => nomatch h

theorem detokeniseWord (chip : Nat) (e : Nat) : Statement (.detokeniseWord chip e) := fun _ h => nomatch h

theorem endpointWrite (chip : Nat) (e : Nat) (first : Nat × BitVec 64) (rest : List (Nat × BitVec 64)) (who : Requester) : Statement (.endpointWrite chip e first rest who) := fun _ h => nomatch h

theorem almanacLoad (chip : Nat) (val : BitVec 64) (who : Requester) : Statement (.almanacLoad chip val who) := fun _ h => nomatch h

theorem almanacLoadDone (chip : Nat) : Statement (.almanacLoadDone chip) := fun _ h => nomatch h

theorem userTrapEntry (core : Nat) : Statement (.userTrapEntry core) := fun _ h => nomatch h

theorem kernelTrapEntry (core : Nat) : Statement (.kernelTrapEntry core) := fun _ h => nomatch h

theorem swapOut (part : Nat) : Statement (.swapOut part) := fun _ h => nomatch h

theorem swapIn (part : Nat) : Statement (.swapIn part) := fun _ h => nomatch h

theorem swapComplete (part : Nat) : Statement (.swapComplete part) := fun _ h => nomatch h

theorem partitionReset (part : Nat) : Statement (.partitionReset part) := fun _ h => nomatch h

theorem managementRestart (part : Nat) : Statement (.managementRestart part) := fun _ h => nomatch h

theorem powerOnReset (chip : Nat) : Statement (.powerOnReset chip) := fun _ h => nomatch h

theorem bootStageVerify (chip : Nat) (img : BootImage) : Statement (.bootStageVerify chip img) := fun _ h => nomatch h

theorem attestationStart (chip : Nat) : Statement (.attestationStart chip) := fun _ h => nomatch h

theorem attestationDone (chip : Nat) : Statement (.attestationDone chip) := fun _ h => nomatch h

theorem freezeCycle (core : Nat) : Statement (.freezeCycle core) := fun _ h => nomatch h

theorem thermalThrottle (chip : Nat) (unit : Nat) (temp : Nat) : Statement (.thermalThrottle chip unit temp) := fun _ h => nomatch h

theorem climcapStep (chip : Nat) : Statement (.climcapStep chip) := fun _ h => nomatch h

theorem thermalStop (chip : Nat) (unit : Nat) (temp : Nat) : Statement (.thermalStop chip unit temp) := fun _ h => nomatch h

theorem registerWrite (ma : Nat) (n : Nat) (val : BitVec 64) (who : Requester) : Statement (.registerWrite ma n val who) := fun _ h => nomatch h

theorem remoteAccessReply (id : Nat) : Statement (.remoteAccessReply id) := fun _ h => nomatch h

theorem demotionComplete (page : Nat) : Statement (.demotionComplete page) := fun _ h => nomatch h

theorem stateSramEccError (cl : Nat) (slot : Nat) (elem : Nat) (hard : Bool) : Statement (.stateSramEccError cl slot elem hard) := fun _ h => nomatch h

theorem arm_add (sl : Lane) {w : BitVec 32} (hop : opcodeOf w = 0x01) : decodeShared sl w = accept (holds w 0 1 0) (.add sl (guardOf w) (fld w 14 6) (fld w 8 6) (fld w 2 6) (flag w 1)) := by
  unfold decodeShared
  simp only [hop]

theorem add (sl : Lane) (g : Guard) (d : BitVec 6) (a : BitVec 6) (b : BitVec 6) (w : Bool) : Statement (.add sl g d a b w) := by
  intro W hW
  obtain rfl : slotWord g 0x01 (place [(d.toNat, 14), (a.toNat, 8), (b.toNat, 2), (w.toNat, 1)]) = W := Option.some.inj hW
  have ho : 0x01 < 2 ^ 7 := Nat.le_of_ble_eq_true rfl
  have hf : place [(d.toNat, 14), (a.toNat, 8), (b.toNat, 2), (w.toNat, 1)] < 2 ^ 20 := place_cons_lt d.isLt (place_cons_lt a.isLt (place_cons_lt b.isLt (place_cons_lt (bool_lt w) (place_nil_lt 1) (Nat.le_of_ble_eq_true rfl)) (Nat.le_of_ble_eq_true rfl)) (Nat.le_of_ble_eq_true rfl)) (Nat.le_of_ble_eq_true rfl)
  have hop := opcodeOf_slotWord (g := g) ho hf
  refine ⟨congrArg some (guardOf_slotWord ho hf).symm, _, rfl, decodeSlot_eq ?_⟩
  exact decodeRaw_shared hop (by decide) (by decide) (i := fun l => .add l g d a b w) (fun l => (arm_add l hop).trans (accept_eq (holds_slotWord ho hf 0 1 0 (Nat.le_of_ble_eq_true rfl) (place_skip (Nat.le_of_ble_eq_true rfl) (place_skip (Nat.le_of_ble_eq_true rfl) (place_skip (Nat.le_of_ble_eq_true rfl) (place_skip (Nat.le_of_ble_eq_true rfl) (place_zero (place_nil_lt 0))))))) (by rw [guardOf_slotWord ho hf, fld_slotWord ho hf 14 6 (Nat.le_of_ble_eq_true rfl) d (place_hit d.isLt (place_cons_lt a.isLt (place_cons_lt b.isLt (place_cons_lt (bool_lt w) (place_nil_lt 1) (Nat.le_of_ble_eq_true rfl)) (Nat.le_of_ble_eq_true rfl)) (Nat.le_of_ble_eq_true rfl))), fld_slotWord ho hf 8 6 (Nat.le_of_ble_eq_true rfl) a (place_skip (Nat.le_of_ble_eq_true rfl) (place_hit a.isLt (place_cons_lt b.isLt (place_cons_lt (bool_lt w) (place_nil_lt 1) (Nat.le_of_ble_eq_true rfl)) (Nat.le_of_ble_eq_true rfl)))), fld_slotWord ho hf 2 6 (Nat.le_of_ble_eq_true rfl) b (place_skip (Nat.le_of_ble_eq_true rfl) (place_skip (Nat.le_of_ble_eq_true rfl) (place_hit b.isLt (place_cons_lt (bool_lt w) (place_nil_lt 1) (Nat.le_of_ble_eq_true rfl))))), flag_slotWord ho hf 1 (Nat.le_of_ble_eq_true rfl) w (place_skip (Nat.le_of_ble_eq_true rfl) (place_skip (Nat.le_of_ble_eq_true rfl) (place_skip (Nat.le_of_ble_eq_true rfl) (place_hit (bool_lt w) (place_nil_lt 1)))))]))) sl

theorem arm_sub (sl : Lane) {w : BitVec 32} (hop : opcodeOf w = 0x02) : decodeShared sl w = accept (holds w 0 1 0) (.sub sl (guardOf w) (fld w 14 6) (fld w 8 6) (fld w 2 6) (flag w 1)) := by
  unfold decodeShared
  simp only [hop]

theorem sub (sl : Lane) (g : Guard) (d : BitVec 6) (a : BitVec 6) (b : BitVec 6) (w : Bool) : Statement (.sub sl g d a b w) := by
  intro W hW
  obtain rfl : slotWord g 0x02 (place [(d.toNat, 14), (a.toNat, 8), (b.toNat, 2), (w.toNat, 1)]) = W := Option.some.inj hW
  have ho : 0x02 < 2 ^ 7 := Nat.le_of_ble_eq_true rfl
  have hf : place [(d.toNat, 14), (a.toNat, 8), (b.toNat, 2), (w.toNat, 1)] < 2 ^ 20 := place_cons_lt d.isLt (place_cons_lt a.isLt (place_cons_lt b.isLt (place_cons_lt (bool_lt w) (place_nil_lt 1) (Nat.le_of_ble_eq_true rfl)) (Nat.le_of_ble_eq_true rfl)) (Nat.le_of_ble_eq_true rfl)) (Nat.le_of_ble_eq_true rfl)
  have hop := opcodeOf_slotWord (g := g) ho hf
  refine ⟨congrArg some (guardOf_slotWord ho hf).symm, _, rfl, decodeSlot_eq ?_⟩
  exact decodeRaw_shared hop (by decide) (by decide) (i := fun l => .sub l g d a b w) (fun l => (arm_sub l hop).trans (accept_eq (holds_slotWord ho hf 0 1 0 (Nat.le_of_ble_eq_true rfl) (place_skip (Nat.le_of_ble_eq_true rfl) (place_skip (Nat.le_of_ble_eq_true rfl) (place_skip (Nat.le_of_ble_eq_true rfl) (place_skip (Nat.le_of_ble_eq_true rfl) (place_zero (place_nil_lt 0))))))) (by rw [guardOf_slotWord ho hf, fld_slotWord ho hf 14 6 (Nat.le_of_ble_eq_true rfl) d (place_hit d.isLt (place_cons_lt a.isLt (place_cons_lt b.isLt (place_cons_lt (bool_lt w) (place_nil_lt 1) (Nat.le_of_ble_eq_true rfl)) (Nat.le_of_ble_eq_true rfl)) (Nat.le_of_ble_eq_true rfl))), fld_slotWord ho hf 8 6 (Nat.le_of_ble_eq_true rfl) a (place_skip (Nat.le_of_ble_eq_true rfl) (place_hit a.isLt (place_cons_lt b.isLt (place_cons_lt (bool_lt w) (place_nil_lt 1) (Nat.le_of_ble_eq_true rfl)) (Nat.le_of_ble_eq_true rfl)))), fld_slotWord ho hf 2 6 (Nat.le_of_ble_eq_true rfl) b (place_skip (Nat.le_of_ble_eq_true rfl) (place_skip (Nat.le_of_ble_eq_true rfl) (place_hit b.isLt (place_cons_lt (bool_lt w) (place_nil_lt 1) (Nat.le_of_ble_eq_true rfl))))), flag_slotWord ho hf 1 (Nat.le_of_ble_eq_true rfl) w (place_skip (Nat.le_of_ble_eq_true rfl) (place_skip (Nat.le_of_ble_eq_true rfl) (place_skip (Nat.le_of_ble_eq_true rfl) (place_hit (bool_lt w) (place_nil_lt 1)))))]))) sl

theorem arm_mul (sl : Lane) {w : BitVec 32} (hop : opcodeOf w = 0x03) : decodeShared sl w = accept (holds w 0 1 0) (.mul sl (guardOf w) (fld w 14 6) (fld w 8 6) (fld w 2 6) (flag w 1)) := by
  unfold decodeShared
  simp only [hop]

theorem mul (sl : Lane) (g : Guard) (d : BitVec 6) (a : BitVec 6) (b : BitVec 6) (w : Bool) : Statement (.mul sl g d a b w) := by
  intro W hW
  obtain rfl : slotWord g 0x03 (place [(d.toNat, 14), (a.toNat, 8), (b.toNat, 2), (w.toNat, 1)]) = W := Option.some.inj hW
  have ho : 0x03 < 2 ^ 7 := Nat.le_of_ble_eq_true rfl
  have hf : place [(d.toNat, 14), (a.toNat, 8), (b.toNat, 2), (w.toNat, 1)] < 2 ^ 20 := place_cons_lt d.isLt (place_cons_lt a.isLt (place_cons_lt b.isLt (place_cons_lt (bool_lt w) (place_nil_lt 1) (Nat.le_of_ble_eq_true rfl)) (Nat.le_of_ble_eq_true rfl)) (Nat.le_of_ble_eq_true rfl)) (Nat.le_of_ble_eq_true rfl)
  have hop := opcodeOf_slotWord (g := g) ho hf
  refine ⟨congrArg some (guardOf_slotWord ho hf).symm, _, rfl, decodeSlot_eq ?_⟩
  exact decodeRaw_shared hop (by decide) (by decide) (i := fun l => .mul l g d a b w) (fun l => (arm_mul l hop).trans (accept_eq (holds_slotWord ho hf 0 1 0 (Nat.le_of_ble_eq_true rfl) (place_skip (Nat.le_of_ble_eq_true rfl) (place_skip (Nat.le_of_ble_eq_true rfl) (place_skip (Nat.le_of_ble_eq_true rfl) (place_skip (Nat.le_of_ble_eq_true rfl) (place_zero (place_nil_lt 0))))))) (by rw [guardOf_slotWord ho hf, fld_slotWord ho hf 14 6 (Nat.le_of_ble_eq_true rfl) d (place_hit d.isLt (place_cons_lt a.isLt (place_cons_lt b.isLt (place_cons_lt (bool_lt w) (place_nil_lt 1) (Nat.le_of_ble_eq_true rfl)) (Nat.le_of_ble_eq_true rfl)) (Nat.le_of_ble_eq_true rfl))), fld_slotWord ho hf 8 6 (Nat.le_of_ble_eq_true rfl) a (place_skip (Nat.le_of_ble_eq_true rfl) (place_hit a.isLt (place_cons_lt b.isLt (place_cons_lt (bool_lt w) (place_nil_lt 1) (Nat.le_of_ble_eq_true rfl)) (Nat.le_of_ble_eq_true rfl)))), fld_slotWord ho hf 2 6 (Nat.le_of_ble_eq_true rfl) b (place_skip (Nat.le_of_ble_eq_true rfl) (place_skip (Nat.le_of_ble_eq_true rfl) (place_hit b.isLt (place_cons_lt (bool_lt w) (place_nil_lt 1) (Nat.le_of_ble_eq_true rfl))))), flag_slotWord ho hf 1 (Nat.le_of_ble_eq_true rfl) w (place_skip (Nat.le_of_ble_eq_true rfl) (place_skip (Nat.le_of_ble_eq_true rfl) (place_skip (Nat.le_of_ble_eq_true rfl) (place_hit (bool_lt w) (place_nil_lt 1)))))]))) sl

theorem arm_mulh (sl : Lane) {w : BitVec 32} (hop : opcodeOf w = 0x04) : decodeShared sl w = accept (holds w 0 1 0) (.mulh sl (guardOf w) (fld w 14 6) (fld w 8 6) (fld w 2 6) (flag w 1)) := by
  unfold decodeShared
  simp only [hop]

theorem mulh (sl : Lane) (g : Guard) (d : BitVec 6) (a : BitVec 6) (b : BitVec 6) (w : Bool) : Statement (.mulh sl g d a b w) := by
  intro W hW
  obtain rfl : slotWord g 0x04 (place [(d.toNat, 14), (a.toNat, 8), (b.toNat, 2), (w.toNat, 1)]) = W := Option.some.inj hW
  have ho : 0x04 < 2 ^ 7 := Nat.le_of_ble_eq_true rfl
  have hf : place [(d.toNat, 14), (a.toNat, 8), (b.toNat, 2), (w.toNat, 1)] < 2 ^ 20 := place_cons_lt d.isLt (place_cons_lt a.isLt (place_cons_lt b.isLt (place_cons_lt (bool_lt w) (place_nil_lt 1) (Nat.le_of_ble_eq_true rfl)) (Nat.le_of_ble_eq_true rfl)) (Nat.le_of_ble_eq_true rfl)) (Nat.le_of_ble_eq_true rfl)
  have hop := opcodeOf_slotWord (g := g) ho hf
  refine ⟨congrArg some (guardOf_slotWord ho hf).symm, _, rfl, decodeSlot_eq ?_⟩
  exact decodeRaw_shared hop (by decide) (by decide) (i := fun l => .mulh l g d a b w) (fun l => (arm_mulh l hop).trans (accept_eq (holds_slotWord ho hf 0 1 0 (Nat.le_of_ble_eq_true rfl) (place_skip (Nat.le_of_ble_eq_true rfl) (place_skip (Nat.le_of_ble_eq_true rfl) (place_skip (Nat.le_of_ble_eq_true rfl) (place_skip (Nat.le_of_ble_eq_true rfl) (place_zero (place_nil_lt 0))))))) (by rw [guardOf_slotWord ho hf, fld_slotWord ho hf 14 6 (Nat.le_of_ble_eq_true rfl) d (place_hit d.isLt (place_cons_lt a.isLt (place_cons_lt b.isLt (place_cons_lt (bool_lt w) (place_nil_lt 1) (Nat.le_of_ble_eq_true rfl)) (Nat.le_of_ble_eq_true rfl)) (Nat.le_of_ble_eq_true rfl))), fld_slotWord ho hf 8 6 (Nat.le_of_ble_eq_true rfl) a (place_skip (Nat.le_of_ble_eq_true rfl) (place_hit a.isLt (place_cons_lt b.isLt (place_cons_lt (bool_lt w) (place_nil_lt 1) (Nat.le_of_ble_eq_true rfl)) (Nat.le_of_ble_eq_true rfl)))), fld_slotWord ho hf 2 6 (Nat.le_of_ble_eq_true rfl) b (place_skip (Nat.le_of_ble_eq_true rfl) (place_skip (Nat.le_of_ble_eq_true rfl) (place_hit b.isLt (place_cons_lt (bool_lt w) (place_nil_lt 1) (Nat.le_of_ble_eq_true rfl))))), flag_slotWord ho hf 1 (Nat.le_of_ble_eq_true rfl) w (place_skip (Nat.le_of_ble_eq_true rfl) (place_skip (Nat.le_of_ble_eq_true rfl) (place_skip (Nat.le_of_ble_eq_true rfl) (place_hit (bool_lt w) (place_nil_lt 1)))))]))) sl

theorem arm_mulhn (sl : Lane) {w : BitVec 32} (hop : opcodeOf w = 0x05) : decodeShared sl w = accept (holds w 0 1 0) (.mulhn sl (guardOf w) (fld w 14 6) (fld w 8 6) (fld w 2 6) (flag w 1)) := by
  unfold decodeShared
  simp only [hop]

theorem mulhn (sl : Lane) (g : Guard) (d : BitVec 6) (a : BitVec 6) (b : BitVec 6) (w : Bool) : Statement (.mulhn sl g d a b w) := by
  intro W hW
  obtain rfl : slotWord g 0x05 (place [(d.toNat, 14), (a.toNat, 8), (b.toNat, 2), (w.toNat, 1)]) = W := Option.some.inj hW
  have ho : 0x05 < 2 ^ 7 := Nat.le_of_ble_eq_true rfl
  have hf : place [(d.toNat, 14), (a.toNat, 8), (b.toNat, 2), (w.toNat, 1)] < 2 ^ 20 := place_cons_lt d.isLt (place_cons_lt a.isLt (place_cons_lt b.isLt (place_cons_lt (bool_lt w) (place_nil_lt 1) (Nat.le_of_ble_eq_true rfl)) (Nat.le_of_ble_eq_true rfl)) (Nat.le_of_ble_eq_true rfl)) (Nat.le_of_ble_eq_true rfl)
  have hop := opcodeOf_slotWord (g := g) ho hf
  refine ⟨congrArg some (guardOf_slotWord ho hf).symm, _, rfl, decodeSlot_eq ?_⟩
  exact decodeRaw_shared hop (by decide) (by decide) (i := fun l => .mulhn l g d a b w) (fun l => (arm_mulhn l hop).trans (accept_eq (holds_slotWord ho hf 0 1 0 (Nat.le_of_ble_eq_true rfl) (place_skip (Nat.le_of_ble_eq_true rfl) (place_skip (Nat.le_of_ble_eq_true rfl) (place_skip (Nat.le_of_ble_eq_true rfl) (place_skip (Nat.le_of_ble_eq_true rfl) (place_zero (place_nil_lt 0))))))) (by rw [guardOf_slotWord ho hf, fld_slotWord ho hf 14 6 (Nat.le_of_ble_eq_true rfl) d (place_hit d.isLt (place_cons_lt a.isLt (place_cons_lt b.isLt (place_cons_lt (bool_lt w) (place_nil_lt 1) (Nat.le_of_ble_eq_true rfl)) (Nat.le_of_ble_eq_true rfl)) (Nat.le_of_ble_eq_true rfl))), fld_slotWord ho hf 8 6 (Nat.le_of_ble_eq_true rfl) a (place_skip (Nat.le_of_ble_eq_true rfl) (place_hit a.isLt (place_cons_lt b.isLt (place_cons_lt (bool_lt w) (place_nil_lt 1) (Nat.le_of_ble_eq_true rfl)) (Nat.le_of_ble_eq_true rfl)))), fld_slotWord ho hf 2 6 (Nat.le_of_ble_eq_true rfl) b (place_skip (Nat.le_of_ble_eq_true rfl) (place_skip (Nat.le_of_ble_eq_true rfl) (place_hit b.isLt (place_cons_lt (bool_lt w) (place_nil_lt 1) (Nat.le_of_ble_eq_true rfl))))), flag_slotWord ho hf 1 (Nat.le_of_ble_eq_true rfl) w (place_skip (Nat.le_of_ble_eq_true rfl) (place_skip (Nat.le_of_ble_eq_true rfl) (place_skip (Nat.le_of_ble_eq_true rfl) (place_hit (bool_lt w) (place_nil_lt 1)))))]))) sl

theorem arm_div (sl : Lane) {w : BitVec 32} (hop : opcodeOf w = 0x06) : decodeShared sl w = accept (holds w 0 1 0) (.div sl (guardOf w) (fld w 14 6) (fld w 8 6) (fld w 2 6) (flag w 1)) := by
  unfold decodeShared
  simp only [hop]

theorem div (sl : Lane) (g : Guard) (d : BitVec 6) (a : BitVec 6) (b : BitVec 6) (w : Bool) : Statement (.div sl g d a b w) := by
  intro W hW
  obtain rfl : slotWord g 0x06 (place [(d.toNat, 14), (a.toNat, 8), (b.toNat, 2), (w.toNat, 1)]) = W := Option.some.inj hW
  have ho : 0x06 < 2 ^ 7 := Nat.le_of_ble_eq_true rfl
  have hf : place [(d.toNat, 14), (a.toNat, 8), (b.toNat, 2), (w.toNat, 1)] < 2 ^ 20 := place_cons_lt d.isLt (place_cons_lt a.isLt (place_cons_lt b.isLt (place_cons_lt (bool_lt w) (place_nil_lt 1) (Nat.le_of_ble_eq_true rfl)) (Nat.le_of_ble_eq_true rfl)) (Nat.le_of_ble_eq_true rfl)) (Nat.le_of_ble_eq_true rfl)
  have hop := opcodeOf_slotWord (g := g) ho hf
  refine ⟨congrArg some (guardOf_slotWord ho hf).symm, _, rfl, decodeSlot_eq ?_⟩
  exact decodeRaw_shared hop (by decide) (by decide) (i := fun l => .div l g d a b w) (fun l => (arm_div l hop).trans (accept_eq (holds_slotWord ho hf 0 1 0 (Nat.le_of_ble_eq_true rfl) (place_skip (Nat.le_of_ble_eq_true rfl) (place_skip (Nat.le_of_ble_eq_true rfl) (place_skip (Nat.le_of_ble_eq_true rfl) (place_skip (Nat.le_of_ble_eq_true rfl) (place_zero (place_nil_lt 0))))))) (by rw [guardOf_slotWord ho hf, fld_slotWord ho hf 14 6 (Nat.le_of_ble_eq_true rfl) d (place_hit d.isLt (place_cons_lt a.isLt (place_cons_lt b.isLt (place_cons_lt (bool_lt w) (place_nil_lt 1) (Nat.le_of_ble_eq_true rfl)) (Nat.le_of_ble_eq_true rfl)) (Nat.le_of_ble_eq_true rfl))), fld_slotWord ho hf 8 6 (Nat.le_of_ble_eq_true rfl) a (place_skip (Nat.le_of_ble_eq_true rfl) (place_hit a.isLt (place_cons_lt b.isLt (place_cons_lt (bool_lt w) (place_nil_lt 1) (Nat.le_of_ble_eq_true rfl)) (Nat.le_of_ble_eq_true rfl)))), fld_slotWord ho hf 2 6 (Nat.le_of_ble_eq_true rfl) b (place_skip (Nat.le_of_ble_eq_true rfl) (place_skip (Nat.le_of_ble_eq_true rfl) (place_hit b.isLt (place_cons_lt (bool_lt w) (place_nil_lt 1) (Nat.le_of_ble_eq_true rfl))))), flag_slotWord ho hf 1 (Nat.le_of_ble_eq_true rfl) w (place_skip (Nat.le_of_ble_eq_true rfl) (place_skip (Nat.le_of_ble_eq_true rfl) (place_skip (Nat.le_of_ble_eq_true rfl) (place_hit (bool_lt w) (place_nil_lt 1)))))]))) sl

theorem arm_divn (sl : Lane) {w : BitVec 32} (hop : opcodeOf w = 0x07) : decodeShared sl w = accept (holds w 0 1 0) (.divn sl (guardOf w) (fld w 14 6) (fld w 8 6) (fld w 2 6) (flag w 1)) := by
  unfold decodeShared
  simp only [hop]

theorem divn (sl : Lane) (g : Guard) (d : BitVec 6) (a : BitVec 6) (b : BitVec 6) (w : Bool) : Statement (.divn sl g d a b w) := by
  intro W hW
  obtain rfl : slotWord g 0x07 (place [(d.toNat, 14), (a.toNat, 8), (b.toNat, 2), (w.toNat, 1)]) = W := Option.some.inj hW
  have ho : 0x07 < 2 ^ 7 := Nat.le_of_ble_eq_true rfl
  have hf : place [(d.toNat, 14), (a.toNat, 8), (b.toNat, 2), (w.toNat, 1)] < 2 ^ 20 := place_cons_lt d.isLt (place_cons_lt a.isLt (place_cons_lt b.isLt (place_cons_lt (bool_lt w) (place_nil_lt 1) (Nat.le_of_ble_eq_true rfl)) (Nat.le_of_ble_eq_true rfl)) (Nat.le_of_ble_eq_true rfl)) (Nat.le_of_ble_eq_true rfl)
  have hop := opcodeOf_slotWord (g := g) ho hf
  refine ⟨congrArg some (guardOf_slotWord ho hf).symm, _, rfl, decodeSlot_eq ?_⟩
  exact decodeRaw_shared hop (by decide) (by decide) (i := fun l => .divn l g d a b w) (fun l => (arm_divn l hop).trans (accept_eq (holds_slotWord ho hf 0 1 0 (Nat.le_of_ble_eq_true rfl) (place_skip (Nat.le_of_ble_eq_true rfl) (place_skip (Nat.le_of_ble_eq_true rfl) (place_skip (Nat.le_of_ble_eq_true rfl) (place_skip (Nat.le_of_ble_eq_true rfl) (place_zero (place_nil_lt 0))))))) (by rw [guardOf_slotWord ho hf, fld_slotWord ho hf 14 6 (Nat.le_of_ble_eq_true rfl) d (place_hit d.isLt (place_cons_lt a.isLt (place_cons_lt b.isLt (place_cons_lt (bool_lt w) (place_nil_lt 1) (Nat.le_of_ble_eq_true rfl)) (Nat.le_of_ble_eq_true rfl)) (Nat.le_of_ble_eq_true rfl))), fld_slotWord ho hf 8 6 (Nat.le_of_ble_eq_true rfl) a (place_skip (Nat.le_of_ble_eq_true rfl) (place_hit a.isLt (place_cons_lt b.isLt (place_cons_lt (bool_lt w) (place_nil_lt 1) (Nat.le_of_ble_eq_true rfl)) (Nat.le_of_ble_eq_true rfl)))), fld_slotWord ho hf 2 6 (Nat.le_of_ble_eq_true rfl) b (place_skip (Nat.le_of_ble_eq_true rfl) (place_skip (Nat.le_of_ble_eq_true rfl) (place_hit b.isLt (place_cons_lt (bool_lt w) (place_nil_lt 1) (Nat.le_of_ble_eq_true rfl))))), flag_slotWord ho hf 1 (Nat.le_of_ble_eq_true rfl) w (place_skip (Nat.le_of_ble_eq_true rfl) (place_skip (Nat.le_of_ble_eq_true rfl) (place_skip (Nat.le_of_ble_eq_true rfl) (place_hit (bool_lt w) (place_nil_lt 1)))))]))) sl

theorem arm_rem (sl : Lane) {w : BitVec 32} (hop : opcodeOf w = 0x08) : decodeShared sl w = accept (holds w 0 1 0) (.rem sl (guardOf w) (fld w 14 6) (fld w 8 6) (fld w 2 6) (flag w 1)) := by
  unfold decodeShared
  simp only [hop]

theorem rem (sl : Lane) (g : Guard) (d : BitVec 6) (a : BitVec 6) (b : BitVec 6) (w : Bool) : Statement (.rem sl g d a b w) := by
  intro W hW
  obtain rfl : slotWord g 0x08 (place [(d.toNat, 14), (a.toNat, 8), (b.toNat, 2), (w.toNat, 1)]) = W := Option.some.inj hW
  have ho : 0x08 < 2 ^ 7 := Nat.le_of_ble_eq_true rfl
  have hf : place [(d.toNat, 14), (a.toNat, 8), (b.toNat, 2), (w.toNat, 1)] < 2 ^ 20 := place_cons_lt d.isLt (place_cons_lt a.isLt (place_cons_lt b.isLt (place_cons_lt (bool_lt w) (place_nil_lt 1) (Nat.le_of_ble_eq_true rfl)) (Nat.le_of_ble_eq_true rfl)) (Nat.le_of_ble_eq_true rfl)) (Nat.le_of_ble_eq_true rfl)
  have hop := opcodeOf_slotWord (g := g) ho hf
  refine ⟨congrArg some (guardOf_slotWord ho hf).symm, _, rfl, decodeSlot_eq ?_⟩
  exact decodeRaw_shared hop (by decide) (by decide) (i := fun l => .rem l g d a b w) (fun l => (arm_rem l hop).trans (accept_eq (holds_slotWord ho hf 0 1 0 (Nat.le_of_ble_eq_true rfl) (place_skip (Nat.le_of_ble_eq_true rfl) (place_skip (Nat.le_of_ble_eq_true rfl) (place_skip (Nat.le_of_ble_eq_true rfl) (place_skip (Nat.le_of_ble_eq_true rfl) (place_zero (place_nil_lt 0))))))) (by rw [guardOf_slotWord ho hf, fld_slotWord ho hf 14 6 (Nat.le_of_ble_eq_true rfl) d (place_hit d.isLt (place_cons_lt a.isLt (place_cons_lt b.isLt (place_cons_lt (bool_lt w) (place_nil_lt 1) (Nat.le_of_ble_eq_true rfl)) (Nat.le_of_ble_eq_true rfl)) (Nat.le_of_ble_eq_true rfl))), fld_slotWord ho hf 8 6 (Nat.le_of_ble_eq_true rfl) a (place_skip (Nat.le_of_ble_eq_true rfl) (place_hit a.isLt (place_cons_lt b.isLt (place_cons_lt (bool_lt w) (place_nil_lt 1) (Nat.le_of_ble_eq_true rfl)) (Nat.le_of_ble_eq_true rfl)))), fld_slotWord ho hf 2 6 (Nat.le_of_ble_eq_true rfl) b (place_skip (Nat.le_of_ble_eq_true rfl) (place_skip (Nat.le_of_ble_eq_true rfl) (place_hit b.isLt (place_cons_lt (bool_lt w) (place_nil_lt 1) (Nat.le_of_ble_eq_true rfl))))), flag_slotWord ho hf 1 (Nat.le_of_ble_eq_true rfl) w (place_skip (Nat.le_of_ble_eq_true rfl) (place_skip (Nat.le_of_ble_eq_true rfl) (place_skip (Nat.le_of_ble_eq_true rfl) (place_hit (bool_lt w) (place_nil_lt 1)))))]))) sl

theorem arm_remn (sl : Lane) {w : BitVec 32} (hop : opcodeOf w = 0x09) : decodeShared sl w = accept (holds w 0 1 0) (.remn sl (guardOf w) (fld w 14 6) (fld w 8 6) (fld w 2 6) (flag w 1)) := by
  unfold decodeShared
  simp only [hop]

theorem remn (sl : Lane) (g : Guard) (d : BitVec 6) (a : BitVec 6) (b : BitVec 6) (w : Bool) : Statement (.remn sl g d a b w) := by
  intro W hW
  obtain rfl : slotWord g 0x09 (place [(d.toNat, 14), (a.toNat, 8), (b.toNat, 2), (w.toNat, 1)]) = W := Option.some.inj hW
  have ho : 0x09 < 2 ^ 7 := Nat.le_of_ble_eq_true rfl
  have hf : place [(d.toNat, 14), (a.toNat, 8), (b.toNat, 2), (w.toNat, 1)] < 2 ^ 20 := place_cons_lt d.isLt (place_cons_lt a.isLt (place_cons_lt b.isLt (place_cons_lt (bool_lt w) (place_nil_lt 1) (Nat.le_of_ble_eq_true rfl)) (Nat.le_of_ble_eq_true rfl)) (Nat.le_of_ble_eq_true rfl)) (Nat.le_of_ble_eq_true rfl)
  have hop := opcodeOf_slotWord (g := g) ho hf
  refine ⟨congrArg some (guardOf_slotWord ho hf).symm, _, rfl, decodeSlot_eq ?_⟩
  exact decodeRaw_shared hop (by decide) (by decide) (i := fun l => .remn l g d a b w) (fun l => (arm_remn l hop).trans (accept_eq (holds_slotWord ho hf 0 1 0 (Nat.le_of_ble_eq_true rfl) (place_skip (Nat.le_of_ble_eq_true rfl) (place_skip (Nat.le_of_ble_eq_true rfl) (place_skip (Nat.le_of_ble_eq_true rfl) (place_skip (Nat.le_of_ble_eq_true rfl) (place_zero (place_nil_lt 0))))))) (by rw [guardOf_slotWord ho hf, fld_slotWord ho hf 14 6 (Nat.le_of_ble_eq_true rfl) d (place_hit d.isLt (place_cons_lt a.isLt (place_cons_lt b.isLt (place_cons_lt (bool_lt w) (place_nil_lt 1) (Nat.le_of_ble_eq_true rfl)) (Nat.le_of_ble_eq_true rfl)) (Nat.le_of_ble_eq_true rfl))), fld_slotWord ho hf 8 6 (Nat.le_of_ble_eq_true rfl) a (place_skip (Nat.le_of_ble_eq_true rfl) (place_hit a.isLt (place_cons_lt b.isLt (place_cons_lt (bool_lt w) (place_nil_lt 1) (Nat.le_of_ble_eq_true rfl)) (Nat.le_of_ble_eq_true rfl)))), fld_slotWord ho hf 2 6 (Nat.le_of_ble_eq_true rfl) b (place_skip (Nat.le_of_ble_eq_true rfl) (place_skip (Nat.le_of_ble_eq_true rfl) (place_hit b.isLt (place_cons_lt (bool_lt w) (place_nil_lt 1) (Nat.le_of_ble_eq_true rfl))))), flag_slotWord ho hf 1 (Nat.le_of_ble_eq_true rfl) w (place_skip (Nat.le_of_ble_eq_true rfl) (place_skip (Nat.le_of_ble_eq_true rfl) (place_skip (Nat.le_of_ble_eq_true rfl) (place_hit (bool_lt w) (place_nil_lt 1)))))]))) sl

theorem arm_min (sl : Lane) {w : BitVec 32} (hop : opcodeOf w = 0x0A) : decodeShared sl w = accept (holds w 0 1 0) (.min sl (guardOf w) (fld w 14 6) (fld w 8 6) (fld w 2 6) (flag w 1)) := by
  unfold decodeShared
  simp only [hop]

theorem min (sl : Lane) (g : Guard) (d : BitVec 6) (a : BitVec 6) (b : BitVec 6) (w : Bool) : Statement (.min sl g d a b w) := by
  intro W hW
  obtain rfl : slotWord g 0x0A (place [(d.toNat, 14), (a.toNat, 8), (b.toNat, 2), (w.toNat, 1)]) = W := Option.some.inj hW
  have ho : 0x0A < 2 ^ 7 := Nat.le_of_ble_eq_true rfl
  have hf : place [(d.toNat, 14), (a.toNat, 8), (b.toNat, 2), (w.toNat, 1)] < 2 ^ 20 := place_cons_lt d.isLt (place_cons_lt a.isLt (place_cons_lt b.isLt (place_cons_lt (bool_lt w) (place_nil_lt 1) (Nat.le_of_ble_eq_true rfl)) (Nat.le_of_ble_eq_true rfl)) (Nat.le_of_ble_eq_true rfl)) (Nat.le_of_ble_eq_true rfl)
  have hop := opcodeOf_slotWord (g := g) ho hf
  refine ⟨congrArg some (guardOf_slotWord ho hf).symm, _, rfl, decodeSlot_eq ?_⟩
  exact decodeRaw_shared hop (by decide) (by decide) (i := fun l => .min l g d a b w) (fun l => (arm_min l hop).trans (accept_eq (holds_slotWord ho hf 0 1 0 (Nat.le_of_ble_eq_true rfl) (place_skip (Nat.le_of_ble_eq_true rfl) (place_skip (Nat.le_of_ble_eq_true rfl) (place_skip (Nat.le_of_ble_eq_true rfl) (place_skip (Nat.le_of_ble_eq_true rfl) (place_zero (place_nil_lt 0))))))) (by rw [guardOf_slotWord ho hf, fld_slotWord ho hf 14 6 (Nat.le_of_ble_eq_true rfl) d (place_hit d.isLt (place_cons_lt a.isLt (place_cons_lt b.isLt (place_cons_lt (bool_lt w) (place_nil_lt 1) (Nat.le_of_ble_eq_true rfl)) (Nat.le_of_ble_eq_true rfl)) (Nat.le_of_ble_eq_true rfl))), fld_slotWord ho hf 8 6 (Nat.le_of_ble_eq_true rfl) a (place_skip (Nat.le_of_ble_eq_true rfl) (place_hit a.isLt (place_cons_lt b.isLt (place_cons_lt (bool_lt w) (place_nil_lt 1) (Nat.le_of_ble_eq_true rfl)) (Nat.le_of_ble_eq_true rfl)))), fld_slotWord ho hf 2 6 (Nat.le_of_ble_eq_true rfl) b (place_skip (Nat.le_of_ble_eq_true rfl) (place_skip (Nat.le_of_ble_eq_true rfl) (place_hit b.isLt (place_cons_lt (bool_lt w) (place_nil_lt 1) (Nat.le_of_ble_eq_true rfl))))), flag_slotWord ho hf 1 (Nat.le_of_ble_eq_true rfl) w (place_skip (Nat.le_of_ble_eq_true rfl) (place_skip (Nat.le_of_ble_eq_true rfl) (place_skip (Nat.le_of_ble_eq_true rfl) (place_hit (bool_lt w) (place_nil_lt 1)))))]))) sl

theorem arm_max (sl : Lane) {w : BitVec 32} (hop : opcodeOf w = 0x0B) : decodeShared sl w = accept (holds w 0 1 0) (.max sl (guardOf w) (fld w 14 6) (fld w 8 6) (fld w 2 6) (flag w 1)) := by
  unfold decodeShared
  simp only [hop]

theorem max (sl : Lane) (g : Guard) (d : BitVec 6) (a : BitVec 6) (b : BitVec 6) (w : Bool) : Statement (.max sl g d a b w) := by
  intro W hW
  obtain rfl : slotWord g 0x0B (place [(d.toNat, 14), (a.toNat, 8), (b.toNat, 2), (w.toNat, 1)]) = W := Option.some.inj hW
  have ho : 0x0B < 2 ^ 7 := Nat.le_of_ble_eq_true rfl
  have hf : place [(d.toNat, 14), (a.toNat, 8), (b.toNat, 2), (w.toNat, 1)] < 2 ^ 20 := place_cons_lt d.isLt (place_cons_lt a.isLt (place_cons_lt b.isLt (place_cons_lt (bool_lt w) (place_nil_lt 1) (Nat.le_of_ble_eq_true rfl)) (Nat.le_of_ble_eq_true rfl)) (Nat.le_of_ble_eq_true rfl)) (Nat.le_of_ble_eq_true rfl)
  have hop := opcodeOf_slotWord (g := g) ho hf
  refine ⟨congrArg some (guardOf_slotWord ho hf).symm, _, rfl, decodeSlot_eq ?_⟩
  exact decodeRaw_shared hop (by decide) (by decide) (i := fun l => .max l g d a b w) (fun l => (arm_max l hop).trans (accept_eq (holds_slotWord ho hf 0 1 0 (Nat.le_of_ble_eq_true rfl) (place_skip (Nat.le_of_ble_eq_true rfl) (place_skip (Nat.le_of_ble_eq_true rfl) (place_skip (Nat.le_of_ble_eq_true rfl) (place_skip (Nat.le_of_ble_eq_true rfl) (place_zero (place_nil_lt 0))))))) (by rw [guardOf_slotWord ho hf, fld_slotWord ho hf 14 6 (Nat.le_of_ble_eq_true rfl) d (place_hit d.isLt (place_cons_lt a.isLt (place_cons_lt b.isLt (place_cons_lt (bool_lt w) (place_nil_lt 1) (Nat.le_of_ble_eq_true rfl)) (Nat.le_of_ble_eq_true rfl)) (Nat.le_of_ble_eq_true rfl))), fld_slotWord ho hf 8 6 (Nat.le_of_ble_eq_true rfl) a (place_skip (Nat.le_of_ble_eq_true rfl) (place_hit a.isLt (place_cons_lt b.isLt (place_cons_lt (bool_lt w) (place_nil_lt 1) (Nat.le_of_ble_eq_true rfl)) (Nat.le_of_ble_eq_true rfl)))), fld_slotWord ho hf 2 6 (Nat.le_of_ble_eq_true rfl) b (place_skip (Nat.le_of_ble_eq_true rfl) (place_skip (Nat.le_of_ble_eq_true rfl) (place_hit b.isLt (place_cons_lt (bool_lt w) (place_nil_lt 1) (Nat.le_of_ble_eq_true rfl))))), flag_slotWord ho hf 1 (Nat.le_of_ble_eq_true rfl) w (place_skip (Nat.le_of_ble_eq_true rfl) (place_skip (Nat.le_of_ble_eq_true rfl) (place_skip (Nat.le_of_ble_eq_true rfl) (place_hit (bool_lt w) (place_nil_lt 1)))))]))) sl

theorem arm_minn (sl : Lane) {w : BitVec 32} (hop : opcodeOf w = 0x0C) : decodeShared sl w = accept (holds w 0 1 0) (.minn sl (guardOf w) (fld w 14 6) (fld w 8 6) (fld w 2 6) (flag w 1)) := by
  unfold decodeShared
  simp only [hop]

theorem minn (sl : Lane) (g : Guard) (d : BitVec 6) (a : BitVec 6) (b : BitVec 6) (w : Bool) : Statement (.minn sl g d a b w) := by
  intro W hW
  obtain rfl : slotWord g 0x0C (place [(d.toNat, 14), (a.toNat, 8), (b.toNat, 2), (w.toNat, 1)]) = W := Option.some.inj hW
  have ho : 0x0C < 2 ^ 7 := Nat.le_of_ble_eq_true rfl
  have hf : place [(d.toNat, 14), (a.toNat, 8), (b.toNat, 2), (w.toNat, 1)] < 2 ^ 20 := place_cons_lt d.isLt (place_cons_lt a.isLt (place_cons_lt b.isLt (place_cons_lt (bool_lt w) (place_nil_lt 1) (Nat.le_of_ble_eq_true rfl)) (Nat.le_of_ble_eq_true rfl)) (Nat.le_of_ble_eq_true rfl)) (Nat.le_of_ble_eq_true rfl)
  have hop := opcodeOf_slotWord (g := g) ho hf
  refine ⟨congrArg some (guardOf_slotWord ho hf).symm, _, rfl, decodeSlot_eq ?_⟩
  exact decodeRaw_shared hop (by decide) (by decide) (i := fun l => .minn l g d a b w) (fun l => (arm_minn l hop).trans (accept_eq (holds_slotWord ho hf 0 1 0 (Nat.le_of_ble_eq_true rfl) (place_skip (Nat.le_of_ble_eq_true rfl) (place_skip (Nat.le_of_ble_eq_true rfl) (place_skip (Nat.le_of_ble_eq_true rfl) (place_skip (Nat.le_of_ble_eq_true rfl) (place_zero (place_nil_lt 0))))))) (by rw [guardOf_slotWord ho hf, fld_slotWord ho hf 14 6 (Nat.le_of_ble_eq_true rfl) d (place_hit d.isLt (place_cons_lt a.isLt (place_cons_lt b.isLt (place_cons_lt (bool_lt w) (place_nil_lt 1) (Nat.le_of_ble_eq_true rfl)) (Nat.le_of_ble_eq_true rfl)) (Nat.le_of_ble_eq_true rfl))), fld_slotWord ho hf 8 6 (Nat.le_of_ble_eq_true rfl) a (place_skip (Nat.le_of_ble_eq_true rfl) (place_hit a.isLt (place_cons_lt b.isLt (place_cons_lt (bool_lt w) (place_nil_lt 1) (Nat.le_of_ble_eq_true rfl)) (Nat.le_of_ble_eq_true rfl)))), fld_slotWord ho hf 2 6 (Nat.le_of_ble_eq_true rfl) b (place_skip (Nat.le_of_ble_eq_true rfl) (place_skip (Nat.le_of_ble_eq_true rfl) (place_hit b.isLt (place_cons_lt (bool_lt w) (place_nil_lt 1) (Nat.le_of_ble_eq_true rfl))))), flag_slotWord ho hf 1 (Nat.le_of_ble_eq_true rfl) w (place_skip (Nat.le_of_ble_eq_true rfl) (place_skip (Nat.le_of_ble_eq_true rfl) (place_skip (Nat.le_of_ble_eq_true rfl) (place_hit (bool_lt w) (place_nil_lt 1)))))]))) sl

theorem arm_maxn (sl : Lane) {w : BitVec 32} (hop : opcodeOf w = 0x0D) : decodeShared sl w = accept (holds w 0 1 0) (.maxn sl (guardOf w) (fld w 14 6) (fld w 8 6) (fld w 2 6) (flag w 1)) := by
  unfold decodeShared
  simp only [hop]

theorem maxn (sl : Lane) (g : Guard) (d : BitVec 6) (a : BitVec 6) (b : BitVec 6) (w : Bool) : Statement (.maxn sl g d a b w) := by
  intro W hW
  obtain rfl : slotWord g 0x0D (place [(d.toNat, 14), (a.toNat, 8), (b.toNat, 2), (w.toNat, 1)]) = W := Option.some.inj hW
  have ho : 0x0D < 2 ^ 7 := Nat.le_of_ble_eq_true rfl
  have hf : place [(d.toNat, 14), (a.toNat, 8), (b.toNat, 2), (w.toNat, 1)] < 2 ^ 20 := place_cons_lt d.isLt (place_cons_lt a.isLt (place_cons_lt b.isLt (place_cons_lt (bool_lt w) (place_nil_lt 1) (Nat.le_of_ble_eq_true rfl)) (Nat.le_of_ble_eq_true rfl)) (Nat.le_of_ble_eq_true rfl)) (Nat.le_of_ble_eq_true rfl)
  have hop := opcodeOf_slotWord (g := g) ho hf
  refine ⟨congrArg some (guardOf_slotWord ho hf).symm, _, rfl, decodeSlot_eq ?_⟩
  exact decodeRaw_shared hop (by decide) (by decide) (i := fun l => .maxn l g d a b w) (fun l => (arm_maxn l hop).trans (accept_eq (holds_slotWord ho hf 0 1 0 (Nat.le_of_ble_eq_true rfl) (place_skip (Nat.le_of_ble_eq_true rfl) (place_skip (Nat.le_of_ble_eq_true rfl) (place_skip (Nat.le_of_ble_eq_true rfl) (place_skip (Nat.le_of_ble_eq_true rfl) (place_zero (place_nil_lt 0))))))) (by rw [guardOf_slotWord ho hf, fld_slotWord ho hf 14 6 (Nat.le_of_ble_eq_true rfl) d (place_hit d.isLt (place_cons_lt a.isLt (place_cons_lt b.isLt (place_cons_lt (bool_lt w) (place_nil_lt 1) (Nat.le_of_ble_eq_true rfl)) (Nat.le_of_ble_eq_true rfl)) (Nat.le_of_ble_eq_true rfl))), fld_slotWord ho hf 8 6 (Nat.le_of_ble_eq_true rfl) a (place_skip (Nat.le_of_ble_eq_true rfl) (place_hit a.isLt (place_cons_lt b.isLt (place_cons_lt (bool_lt w) (place_nil_lt 1) (Nat.le_of_ble_eq_true rfl)) (Nat.le_of_ble_eq_true rfl)))), fld_slotWord ho hf 2 6 (Nat.le_of_ble_eq_true rfl) b (place_skip (Nat.le_of_ble_eq_true rfl) (place_skip (Nat.le_of_ble_eq_true rfl) (place_hit b.isLt (place_cons_lt (bool_lt w) (place_nil_lt 1) (Nat.le_of_ble_eq_true rfl))))), flag_slotWord ho hf 1 (Nat.le_of_ble_eq_true rfl) w (place_skip (Nat.le_of_ble_eq_true rfl) (place_skip (Nat.le_of_ble_eq_true rfl) (place_skip (Nat.le_of_ble_eq_true rfl) (place_hit (bool_lt w) (place_nil_lt 1)))))]))) sl

theorem arm_abs (sl : Lane) {w : BitVec 32} (hop : opcodeOf w = 0x0E) : decodeShared sl w = accept (holds w 0 1 0 && holds w 2 6 0) (.abs sl (guardOf w) (fld w 14 6) (fld w 8 6) (flag w 1)) := by
  unfold decodeShared
  simp only [hop]

theorem abs (sl : Lane) (g : Guard) (d : BitVec 6) (a : BitVec 6) (w : Bool) : Statement (.abs sl g d a w) := by
  intro W hW
  obtain rfl : slotWord g 0x0E (place [(d.toNat, 14), (a.toNat, 8), (w.toNat, 1)]) = W := Option.some.inj hW
  have ho : 0x0E < 2 ^ 7 := Nat.le_of_ble_eq_true rfl
  have hf : place [(d.toNat, 14), (a.toNat, 8), (w.toNat, 1)] < 2 ^ 20 := place_cons_lt d.isLt (place_cons_lt a.isLt (place_cons_lt (bool_lt w) (place_nil_lt 1) (Nat.le_of_ble_eq_true rfl)) (Nat.le_of_ble_eq_true rfl)) (Nat.le_of_ble_eq_true rfl)
  have hop := opcodeOf_slotWord (g := g) ho hf
  refine ⟨congrArg some (guardOf_slotWord ho hf).symm, _, rfl, decodeSlot_eq ?_⟩
  exact decodeRaw_shared hop (by decide) (by decide) (i := fun l => .abs l g d a w) (fun l => (arm_abs l hop).trans (accept_eq (Bool.and_eq_true_iff.mpr ⟨(holds_slotWord ho hf 0 1 0 (Nat.le_of_ble_eq_true rfl) (place_skip (Nat.le_of_ble_eq_true rfl) (place_skip (Nat.le_of_ble_eq_true rfl) (place_skip (Nat.le_of_ble_eq_true rfl) (place_zero (place_nil_lt 0)))))), (holds_slotWord ho hf 2 6 0 (Nat.le_of_ble_eq_true rfl) (place_skip (Nat.le_of_ble_eq_true rfl) (place_skip (Nat.le_of_ble_eq_true rfl) (place_zero (place_cons_lt (bool_lt w) (place_nil_lt 1) (Nat.le_of_ble_eq_true rfl))))))⟩) (by rw [guardOf_slotWord ho hf, fld_slotWord ho hf 14 6 (Nat.le_of_ble_eq_true rfl) d (place_hit d.isLt (place_cons_lt a.isLt (place_cons_lt (bool_lt w) (place_nil_lt 1) (Nat.le_of_ble_eq_true rfl)) (Nat.le_of_ble_eq_true rfl))), fld_slotWord ho hf 8 6 (Nat.le_of_ble_eq_true rfl) a (place_skip (Nat.le_of_ble_eq_true rfl) (place_hit a.isLt (place_cons_lt (bool_lt w) (place_nil_lt 1) (Nat.le_of_ble_eq_true rfl)))), flag_slotWord ho hf 1 (Nat.le_of_ble_eq_true rfl) w (place_skip (Nat.le_of_ble_eq_true rfl) (place_skip (Nat.le_of_ble_eq_true rfl) (place_hit (bool_lt w) (place_nil_lt 1))))]))) sl

theorem arm_and (sl : Lane) {w : BitVec 32} (hop : opcodeOf w = 0x0F) : decodeShared sl w = accept (holds w 0 1 0) (.and sl (guardOf w) (fld w 14 6) (fld w 8 6) (fld w 2 6) (flag w 1)) := by
  unfold decodeShared
  simp only [hop]

theorem and (sl : Lane) (g : Guard) (d : BitVec 6) (a : BitVec 6) (b : BitVec 6) (w : Bool) : Statement (.and sl g d a b w) := by
  intro W hW
  obtain rfl : slotWord g 0x0F (place [(d.toNat, 14), (a.toNat, 8), (b.toNat, 2), (w.toNat, 1)]) = W := Option.some.inj hW
  have ho : 0x0F < 2 ^ 7 := Nat.le_of_ble_eq_true rfl
  have hf : place [(d.toNat, 14), (a.toNat, 8), (b.toNat, 2), (w.toNat, 1)] < 2 ^ 20 := place_cons_lt d.isLt (place_cons_lt a.isLt (place_cons_lt b.isLt (place_cons_lt (bool_lt w) (place_nil_lt 1) (Nat.le_of_ble_eq_true rfl)) (Nat.le_of_ble_eq_true rfl)) (Nat.le_of_ble_eq_true rfl)) (Nat.le_of_ble_eq_true rfl)
  have hop := opcodeOf_slotWord (g := g) ho hf
  refine ⟨congrArg some (guardOf_slotWord ho hf).symm, _, rfl, decodeSlot_eq ?_⟩
  exact decodeRaw_shared hop (by decide) (by decide) (i := fun l => .and l g d a b w) (fun l => (arm_and l hop).trans (accept_eq (holds_slotWord ho hf 0 1 0 (Nat.le_of_ble_eq_true rfl) (place_skip (Nat.le_of_ble_eq_true rfl) (place_skip (Nat.le_of_ble_eq_true rfl) (place_skip (Nat.le_of_ble_eq_true rfl) (place_skip (Nat.le_of_ble_eq_true rfl) (place_zero (place_nil_lt 0))))))) (by rw [guardOf_slotWord ho hf, fld_slotWord ho hf 14 6 (Nat.le_of_ble_eq_true rfl) d (place_hit d.isLt (place_cons_lt a.isLt (place_cons_lt b.isLt (place_cons_lt (bool_lt w) (place_nil_lt 1) (Nat.le_of_ble_eq_true rfl)) (Nat.le_of_ble_eq_true rfl)) (Nat.le_of_ble_eq_true rfl))), fld_slotWord ho hf 8 6 (Nat.le_of_ble_eq_true rfl) a (place_skip (Nat.le_of_ble_eq_true rfl) (place_hit a.isLt (place_cons_lt b.isLt (place_cons_lt (bool_lt w) (place_nil_lt 1) (Nat.le_of_ble_eq_true rfl)) (Nat.le_of_ble_eq_true rfl)))), fld_slotWord ho hf 2 6 (Nat.le_of_ble_eq_true rfl) b (place_skip (Nat.le_of_ble_eq_true rfl) (place_skip (Nat.le_of_ble_eq_true rfl) (place_hit b.isLt (place_cons_lt (bool_lt w) (place_nil_lt 1) (Nat.le_of_ble_eq_true rfl))))), flag_slotWord ho hf 1 (Nat.le_of_ble_eq_true rfl) w (place_skip (Nat.le_of_ble_eq_true rfl) (place_skip (Nat.le_of_ble_eq_true rfl) (place_skip (Nat.le_of_ble_eq_true rfl) (place_hit (bool_lt w) (place_nil_lt 1)))))]))) sl

theorem arm_or (sl : Lane) {w : BitVec 32} (hop : opcodeOf w = 0x10) : decodeShared sl w = accept (holds w 0 1 0) (.or sl (guardOf w) (fld w 14 6) (fld w 8 6) (fld w 2 6) (flag w 1)) := by
  unfold decodeShared
  simp only [hop]

theorem or (sl : Lane) (g : Guard) (d : BitVec 6) (a : BitVec 6) (b : BitVec 6) (w : Bool) : Statement (.or sl g d a b w) := by
  intro W hW
  obtain rfl : slotWord g 0x10 (place [(d.toNat, 14), (a.toNat, 8), (b.toNat, 2), (w.toNat, 1)]) = W := Option.some.inj hW
  have ho : 0x10 < 2 ^ 7 := Nat.le_of_ble_eq_true rfl
  have hf : place [(d.toNat, 14), (a.toNat, 8), (b.toNat, 2), (w.toNat, 1)] < 2 ^ 20 := place_cons_lt d.isLt (place_cons_lt a.isLt (place_cons_lt b.isLt (place_cons_lt (bool_lt w) (place_nil_lt 1) (Nat.le_of_ble_eq_true rfl)) (Nat.le_of_ble_eq_true rfl)) (Nat.le_of_ble_eq_true rfl)) (Nat.le_of_ble_eq_true rfl)
  have hop := opcodeOf_slotWord (g := g) ho hf
  refine ⟨congrArg some (guardOf_slotWord ho hf).symm, _, rfl, decodeSlot_eq ?_⟩
  exact decodeRaw_shared hop (by decide) (by decide) (i := fun l => .or l g d a b w) (fun l => (arm_or l hop).trans (accept_eq (holds_slotWord ho hf 0 1 0 (Nat.le_of_ble_eq_true rfl) (place_skip (Nat.le_of_ble_eq_true rfl) (place_skip (Nat.le_of_ble_eq_true rfl) (place_skip (Nat.le_of_ble_eq_true rfl) (place_skip (Nat.le_of_ble_eq_true rfl) (place_zero (place_nil_lt 0))))))) (by rw [guardOf_slotWord ho hf, fld_slotWord ho hf 14 6 (Nat.le_of_ble_eq_true rfl) d (place_hit d.isLt (place_cons_lt a.isLt (place_cons_lt b.isLt (place_cons_lt (bool_lt w) (place_nil_lt 1) (Nat.le_of_ble_eq_true rfl)) (Nat.le_of_ble_eq_true rfl)) (Nat.le_of_ble_eq_true rfl))), fld_slotWord ho hf 8 6 (Nat.le_of_ble_eq_true rfl) a (place_skip (Nat.le_of_ble_eq_true rfl) (place_hit a.isLt (place_cons_lt b.isLt (place_cons_lt (bool_lt w) (place_nil_lt 1) (Nat.le_of_ble_eq_true rfl)) (Nat.le_of_ble_eq_true rfl)))), fld_slotWord ho hf 2 6 (Nat.le_of_ble_eq_true rfl) b (place_skip (Nat.le_of_ble_eq_true rfl) (place_skip (Nat.le_of_ble_eq_true rfl) (place_hit b.isLt (place_cons_lt (bool_lt w) (place_nil_lt 1) (Nat.le_of_ble_eq_true rfl))))), flag_slotWord ho hf 1 (Nat.le_of_ble_eq_true rfl) w (place_skip (Nat.le_of_ble_eq_true rfl) (place_skip (Nat.le_of_ble_eq_true rfl) (place_skip (Nat.le_of_ble_eq_true rfl) (place_hit (bool_lt w) (place_nil_lt 1)))))]))) sl

theorem arm_xor (sl : Lane) {w : BitVec 32} (hop : opcodeOf w = 0x11) : decodeShared sl w = accept (holds w 0 1 0) (.xor sl (guardOf w) (fld w 14 6) (fld w 8 6) (fld w 2 6) (flag w 1)) := by
  unfold decodeShared
  simp only [hop]

theorem xor (sl : Lane) (g : Guard) (d : BitVec 6) (a : BitVec 6) (b : BitVec 6) (w : Bool) : Statement (.xor sl g d a b w) := by
  intro W hW
  obtain rfl : slotWord g 0x11 (place [(d.toNat, 14), (a.toNat, 8), (b.toNat, 2), (w.toNat, 1)]) = W := Option.some.inj hW
  have ho : 0x11 < 2 ^ 7 := Nat.le_of_ble_eq_true rfl
  have hf : place [(d.toNat, 14), (a.toNat, 8), (b.toNat, 2), (w.toNat, 1)] < 2 ^ 20 := place_cons_lt d.isLt (place_cons_lt a.isLt (place_cons_lt b.isLt (place_cons_lt (bool_lt w) (place_nil_lt 1) (Nat.le_of_ble_eq_true rfl)) (Nat.le_of_ble_eq_true rfl)) (Nat.le_of_ble_eq_true rfl)) (Nat.le_of_ble_eq_true rfl)
  have hop := opcodeOf_slotWord (g := g) ho hf
  refine ⟨congrArg some (guardOf_slotWord ho hf).symm, _, rfl, decodeSlot_eq ?_⟩
  exact decodeRaw_shared hop (by decide) (by decide) (i := fun l => .xor l g d a b w) (fun l => (arm_xor l hop).trans (accept_eq (holds_slotWord ho hf 0 1 0 (Nat.le_of_ble_eq_true rfl) (place_skip (Nat.le_of_ble_eq_true rfl) (place_skip (Nat.le_of_ble_eq_true rfl) (place_skip (Nat.le_of_ble_eq_true rfl) (place_skip (Nat.le_of_ble_eq_true rfl) (place_zero (place_nil_lt 0))))))) (by rw [guardOf_slotWord ho hf, fld_slotWord ho hf 14 6 (Nat.le_of_ble_eq_true rfl) d (place_hit d.isLt (place_cons_lt a.isLt (place_cons_lt b.isLt (place_cons_lt (bool_lt w) (place_nil_lt 1) (Nat.le_of_ble_eq_true rfl)) (Nat.le_of_ble_eq_true rfl)) (Nat.le_of_ble_eq_true rfl))), fld_slotWord ho hf 8 6 (Nat.le_of_ble_eq_true rfl) a (place_skip (Nat.le_of_ble_eq_true rfl) (place_hit a.isLt (place_cons_lt b.isLt (place_cons_lt (bool_lt w) (place_nil_lt 1) (Nat.le_of_ble_eq_true rfl)) (Nat.le_of_ble_eq_true rfl)))), fld_slotWord ho hf 2 6 (Nat.le_of_ble_eq_true rfl) b (place_skip (Nat.le_of_ble_eq_true rfl) (place_skip (Nat.le_of_ble_eq_true rfl) (place_hit b.isLt (place_cons_lt (bool_lt w) (place_nil_lt 1) (Nat.le_of_ble_eq_true rfl))))), flag_slotWord ho hf 1 (Nat.le_of_ble_eq_true rfl) w (place_skip (Nat.le_of_ble_eq_true rfl) (place_skip (Nat.le_of_ble_eq_true rfl) (place_skip (Nat.le_of_ble_eq_true rfl) (place_hit (bool_lt w) (place_nil_lt 1)))))]))) sl

theorem arm_andn (sl : Lane) {w : BitVec 32} (hop : opcodeOf w = 0x12) : decodeShared sl w = accept (holds w 0 1 0) (.andn sl (guardOf w) (fld w 14 6) (fld w 8 6) (fld w 2 6) (flag w 1)) := by
  unfold decodeShared
  simp only [hop]

theorem andn (sl : Lane) (g : Guard) (d : BitVec 6) (a : BitVec 6) (b : BitVec 6) (w : Bool) : Statement (.andn sl g d a b w) := by
  intro W hW
  obtain rfl : slotWord g 0x12 (place [(d.toNat, 14), (a.toNat, 8), (b.toNat, 2), (w.toNat, 1)]) = W := Option.some.inj hW
  have ho : 0x12 < 2 ^ 7 := Nat.le_of_ble_eq_true rfl
  have hf : place [(d.toNat, 14), (a.toNat, 8), (b.toNat, 2), (w.toNat, 1)] < 2 ^ 20 := place_cons_lt d.isLt (place_cons_lt a.isLt (place_cons_lt b.isLt (place_cons_lt (bool_lt w) (place_nil_lt 1) (Nat.le_of_ble_eq_true rfl)) (Nat.le_of_ble_eq_true rfl)) (Nat.le_of_ble_eq_true rfl)) (Nat.le_of_ble_eq_true rfl)
  have hop := opcodeOf_slotWord (g := g) ho hf
  refine ⟨congrArg some (guardOf_slotWord ho hf).symm, _, rfl, decodeSlot_eq ?_⟩
  exact decodeRaw_shared hop (by decide) (by decide) (i := fun l => .andn l g d a b w) (fun l => (arm_andn l hop).trans (accept_eq (holds_slotWord ho hf 0 1 0 (Nat.le_of_ble_eq_true rfl) (place_skip (Nat.le_of_ble_eq_true rfl) (place_skip (Nat.le_of_ble_eq_true rfl) (place_skip (Nat.le_of_ble_eq_true rfl) (place_skip (Nat.le_of_ble_eq_true rfl) (place_zero (place_nil_lt 0))))))) (by rw [guardOf_slotWord ho hf, fld_slotWord ho hf 14 6 (Nat.le_of_ble_eq_true rfl) d (place_hit d.isLt (place_cons_lt a.isLt (place_cons_lt b.isLt (place_cons_lt (bool_lt w) (place_nil_lt 1) (Nat.le_of_ble_eq_true rfl)) (Nat.le_of_ble_eq_true rfl)) (Nat.le_of_ble_eq_true rfl))), fld_slotWord ho hf 8 6 (Nat.le_of_ble_eq_true rfl) a (place_skip (Nat.le_of_ble_eq_true rfl) (place_hit a.isLt (place_cons_lt b.isLt (place_cons_lt (bool_lt w) (place_nil_lt 1) (Nat.le_of_ble_eq_true rfl)) (Nat.le_of_ble_eq_true rfl)))), fld_slotWord ho hf 2 6 (Nat.le_of_ble_eq_true rfl) b (place_skip (Nat.le_of_ble_eq_true rfl) (place_skip (Nat.le_of_ble_eq_true rfl) (place_hit b.isLt (place_cons_lt (bool_lt w) (place_nil_lt 1) (Nat.le_of_ble_eq_true rfl))))), flag_slotWord ho hf 1 (Nat.le_of_ble_eq_true rfl) w (place_skip (Nat.le_of_ble_eq_true rfl) (place_skip (Nat.le_of_ble_eq_true rfl) (place_skip (Nat.le_of_ble_eq_true rfl) (place_hit (bool_lt w) (place_nil_lt 1)))))]))) sl

theorem arm_shl (sl : Lane) {w : BitVec 32} (hop : opcodeOf w = 0x13) : decodeShared sl w = accept (holds w 0 1 0) (.shl sl (guardOf w) (fld w 14 6) (fld w 8 6) (fld w 2 6) (flag w 1)) := by
  unfold decodeShared
  simp only [hop]

theorem shl (sl : Lane) (g : Guard) (d : BitVec 6) (a : BitVec 6) (b : BitVec 6) (w : Bool) : Statement (.shl sl g d a b w) := by
  intro W hW
  obtain rfl : slotWord g 0x13 (place [(d.toNat, 14), (a.toNat, 8), (b.toNat, 2), (w.toNat, 1)]) = W := Option.some.inj hW
  have ho : 0x13 < 2 ^ 7 := Nat.le_of_ble_eq_true rfl
  have hf : place [(d.toNat, 14), (a.toNat, 8), (b.toNat, 2), (w.toNat, 1)] < 2 ^ 20 := place_cons_lt d.isLt (place_cons_lt a.isLt (place_cons_lt b.isLt (place_cons_lt (bool_lt w) (place_nil_lt 1) (Nat.le_of_ble_eq_true rfl)) (Nat.le_of_ble_eq_true rfl)) (Nat.le_of_ble_eq_true rfl)) (Nat.le_of_ble_eq_true rfl)
  have hop := opcodeOf_slotWord (g := g) ho hf
  refine ⟨congrArg some (guardOf_slotWord ho hf).symm, _, rfl, decodeSlot_eq ?_⟩
  exact decodeRaw_shared hop (by decide) (by decide) (i := fun l => .shl l g d a b w) (fun l => (arm_shl l hop).trans (accept_eq (holds_slotWord ho hf 0 1 0 (Nat.le_of_ble_eq_true rfl) (place_skip (Nat.le_of_ble_eq_true rfl) (place_skip (Nat.le_of_ble_eq_true rfl) (place_skip (Nat.le_of_ble_eq_true rfl) (place_skip (Nat.le_of_ble_eq_true rfl) (place_zero (place_nil_lt 0))))))) (by rw [guardOf_slotWord ho hf, fld_slotWord ho hf 14 6 (Nat.le_of_ble_eq_true rfl) d (place_hit d.isLt (place_cons_lt a.isLt (place_cons_lt b.isLt (place_cons_lt (bool_lt w) (place_nil_lt 1) (Nat.le_of_ble_eq_true rfl)) (Nat.le_of_ble_eq_true rfl)) (Nat.le_of_ble_eq_true rfl))), fld_slotWord ho hf 8 6 (Nat.le_of_ble_eq_true rfl) a (place_skip (Nat.le_of_ble_eq_true rfl) (place_hit a.isLt (place_cons_lt b.isLt (place_cons_lt (bool_lt w) (place_nil_lt 1) (Nat.le_of_ble_eq_true rfl)) (Nat.le_of_ble_eq_true rfl)))), fld_slotWord ho hf 2 6 (Nat.le_of_ble_eq_true rfl) b (place_skip (Nat.le_of_ble_eq_true rfl) (place_skip (Nat.le_of_ble_eq_true rfl) (place_hit b.isLt (place_cons_lt (bool_lt w) (place_nil_lt 1) (Nat.le_of_ble_eq_true rfl))))), flag_slotWord ho hf 1 (Nat.le_of_ble_eq_true rfl) w (place_skip (Nat.le_of_ble_eq_true rfl) (place_skip (Nat.le_of_ble_eq_true rfl) (place_skip (Nat.le_of_ble_eq_true rfl) (place_hit (bool_lt w) (place_nil_lt 1)))))]))) sl

theorem arm_shr (sl : Lane) {w : BitVec 32} (hop : opcodeOf w = 0x14) : decodeShared sl w = accept (holds w 0 1 0) (.shr sl (guardOf w) (fld w 14 6) (fld w 8 6) (fld w 2 6) (flag w 1)) := by
  unfold decodeShared
  simp only [hop]

theorem shr (sl : Lane) (g : Guard) (d : BitVec 6) (a : BitVec 6) (b : BitVec 6) (w : Bool) : Statement (.shr sl g d a b w) := by
  intro W hW
  obtain rfl : slotWord g 0x14 (place [(d.toNat, 14), (a.toNat, 8), (b.toNat, 2), (w.toNat, 1)]) = W := Option.some.inj hW
  have ho : 0x14 < 2 ^ 7 := Nat.le_of_ble_eq_true rfl
  have hf : place [(d.toNat, 14), (a.toNat, 8), (b.toNat, 2), (w.toNat, 1)] < 2 ^ 20 := place_cons_lt d.isLt (place_cons_lt a.isLt (place_cons_lt b.isLt (place_cons_lt (bool_lt w) (place_nil_lt 1) (Nat.le_of_ble_eq_true rfl)) (Nat.le_of_ble_eq_true rfl)) (Nat.le_of_ble_eq_true rfl)) (Nat.le_of_ble_eq_true rfl)
  have hop := opcodeOf_slotWord (g := g) ho hf
  refine ⟨congrArg some (guardOf_slotWord ho hf).symm, _, rfl, decodeSlot_eq ?_⟩
  exact decodeRaw_shared hop (by decide) (by decide) (i := fun l => .shr l g d a b w) (fun l => (arm_shr l hop).trans (accept_eq (holds_slotWord ho hf 0 1 0 (Nat.le_of_ble_eq_true rfl) (place_skip (Nat.le_of_ble_eq_true rfl) (place_skip (Nat.le_of_ble_eq_true rfl) (place_skip (Nat.le_of_ble_eq_true rfl) (place_skip (Nat.le_of_ble_eq_true rfl) (place_zero (place_nil_lt 0))))))) (by rw [guardOf_slotWord ho hf, fld_slotWord ho hf 14 6 (Nat.le_of_ble_eq_true rfl) d (place_hit d.isLt (place_cons_lt a.isLt (place_cons_lt b.isLt (place_cons_lt (bool_lt w) (place_nil_lt 1) (Nat.le_of_ble_eq_true rfl)) (Nat.le_of_ble_eq_true rfl)) (Nat.le_of_ble_eq_true rfl))), fld_slotWord ho hf 8 6 (Nat.le_of_ble_eq_true rfl) a (place_skip (Nat.le_of_ble_eq_true rfl) (place_hit a.isLt (place_cons_lt b.isLt (place_cons_lt (bool_lt w) (place_nil_lt 1) (Nat.le_of_ble_eq_true rfl)) (Nat.le_of_ble_eq_true rfl)))), fld_slotWord ho hf 2 6 (Nat.le_of_ble_eq_true rfl) b (place_skip (Nat.le_of_ble_eq_true rfl) (place_skip (Nat.le_of_ble_eq_true rfl) (place_hit b.isLt (place_cons_lt (bool_lt w) (place_nil_lt 1) (Nat.le_of_ble_eq_true rfl))))), flag_slotWord ho hf 1 (Nat.le_of_ble_eq_true rfl) w (place_skip (Nat.le_of_ble_eq_true rfl) (place_skip (Nat.le_of_ble_eq_true rfl) (place_skip (Nat.le_of_ble_eq_true rfl) (place_hit (bool_lt w) (place_nil_lt 1)))))]))) sl

theorem arm_sra (sl : Lane) {w : BitVec 32} (hop : opcodeOf w = 0x15) : decodeShared sl w = accept (holds w 0 1 0) (.sra sl (guardOf w) (fld w 14 6) (fld w 8 6) (fld w 2 6) (flag w 1)) := by
  unfold decodeShared
  simp only [hop]

theorem sra (sl : Lane) (g : Guard) (d : BitVec 6) (a : BitVec 6) (b : BitVec 6) (w : Bool) : Statement (.sra sl g d a b w) := by
  intro W hW
  obtain rfl : slotWord g 0x15 (place [(d.toNat, 14), (a.toNat, 8), (b.toNat, 2), (w.toNat, 1)]) = W := Option.some.inj hW
  have ho : 0x15 < 2 ^ 7 := Nat.le_of_ble_eq_true rfl
  have hf : place [(d.toNat, 14), (a.toNat, 8), (b.toNat, 2), (w.toNat, 1)] < 2 ^ 20 := place_cons_lt d.isLt (place_cons_lt a.isLt (place_cons_lt b.isLt (place_cons_lt (bool_lt w) (place_nil_lt 1) (Nat.le_of_ble_eq_true rfl)) (Nat.le_of_ble_eq_true rfl)) (Nat.le_of_ble_eq_true rfl)) (Nat.le_of_ble_eq_true rfl)
  have hop := opcodeOf_slotWord (g := g) ho hf
  refine ⟨congrArg some (guardOf_slotWord ho hf).symm, _, rfl, decodeSlot_eq ?_⟩
  exact decodeRaw_shared hop (by decide) (by decide) (i := fun l => .sra l g d a b w) (fun l => (arm_sra l hop).trans (accept_eq (holds_slotWord ho hf 0 1 0 (Nat.le_of_ble_eq_true rfl) (place_skip (Nat.le_of_ble_eq_true rfl) (place_skip (Nat.le_of_ble_eq_true rfl) (place_skip (Nat.le_of_ble_eq_true rfl) (place_skip (Nat.le_of_ble_eq_true rfl) (place_zero (place_nil_lt 0))))))) (by rw [guardOf_slotWord ho hf, fld_slotWord ho hf 14 6 (Nat.le_of_ble_eq_true rfl) d (place_hit d.isLt (place_cons_lt a.isLt (place_cons_lt b.isLt (place_cons_lt (bool_lt w) (place_nil_lt 1) (Nat.le_of_ble_eq_true rfl)) (Nat.le_of_ble_eq_true rfl)) (Nat.le_of_ble_eq_true rfl))), fld_slotWord ho hf 8 6 (Nat.le_of_ble_eq_true rfl) a (place_skip (Nat.le_of_ble_eq_true rfl) (place_hit a.isLt (place_cons_lt b.isLt (place_cons_lt (bool_lt w) (place_nil_lt 1) (Nat.le_of_ble_eq_true rfl)) (Nat.le_of_ble_eq_true rfl)))), fld_slotWord ho hf 2 6 (Nat.le_of_ble_eq_true rfl) b (place_skip (Nat.le_of_ble_eq_true rfl) (place_skip (Nat.le_of_ble_eq_true rfl) (place_hit b.isLt (place_cons_lt (bool_lt w) (place_nil_lt 1) (Nat.le_of_ble_eq_true rfl))))), flag_slotWord ho hf 1 (Nat.le_of_ble_eq_true rfl) w (place_skip (Nat.le_of_ble_eq_true rfl) (place_skip (Nat.le_of_ble_eq_true rfl) (place_skip (Nat.le_of_ble_eq_true rfl) (place_hit (bool_lt w) (place_nil_lt 1)))))]))) sl

theorem arm_rol (sl : Lane) {w : BitVec 32} (hop : opcodeOf w = 0x16) : decodeShared sl w = accept (holds w 0 1 0) (.rol sl (guardOf w) (fld w 14 6) (fld w 8 6) (fld w 2 6) (flag w 1)) := by
  unfold decodeShared
  simp only [hop]

theorem rol (sl : Lane) (g : Guard) (d : BitVec 6) (a : BitVec 6) (b : BitVec 6) (w : Bool) : Statement (.rol sl g d a b w) := by
  intro W hW
  obtain rfl : slotWord g 0x16 (place [(d.toNat, 14), (a.toNat, 8), (b.toNat, 2), (w.toNat, 1)]) = W := Option.some.inj hW
  have ho : 0x16 < 2 ^ 7 := Nat.le_of_ble_eq_true rfl
  have hf : place [(d.toNat, 14), (a.toNat, 8), (b.toNat, 2), (w.toNat, 1)] < 2 ^ 20 := place_cons_lt d.isLt (place_cons_lt a.isLt (place_cons_lt b.isLt (place_cons_lt (bool_lt w) (place_nil_lt 1) (Nat.le_of_ble_eq_true rfl)) (Nat.le_of_ble_eq_true rfl)) (Nat.le_of_ble_eq_true rfl)) (Nat.le_of_ble_eq_true rfl)
  have hop := opcodeOf_slotWord (g := g) ho hf
  refine ⟨congrArg some (guardOf_slotWord ho hf).symm, _, rfl, decodeSlot_eq ?_⟩
  exact decodeRaw_shared hop (by decide) (by decide) (i := fun l => .rol l g d a b w) (fun l => (arm_rol l hop).trans (accept_eq (holds_slotWord ho hf 0 1 0 (Nat.le_of_ble_eq_true rfl) (place_skip (Nat.le_of_ble_eq_true rfl) (place_skip (Nat.le_of_ble_eq_true rfl) (place_skip (Nat.le_of_ble_eq_true rfl) (place_skip (Nat.le_of_ble_eq_true rfl) (place_zero (place_nil_lt 0))))))) (by rw [guardOf_slotWord ho hf, fld_slotWord ho hf 14 6 (Nat.le_of_ble_eq_true rfl) d (place_hit d.isLt (place_cons_lt a.isLt (place_cons_lt b.isLt (place_cons_lt (bool_lt w) (place_nil_lt 1) (Nat.le_of_ble_eq_true rfl)) (Nat.le_of_ble_eq_true rfl)) (Nat.le_of_ble_eq_true rfl))), fld_slotWord ho hf 8 6 (Nat.le_of_ble_eq_true rfl) a (place_skip (Nat.le_of_ble_eq_true rfl) (place_hit a.isLt (place_cons_lt b.isLt (place_cons_lt (bool_lt w) (place_nil_lt 1) (Nat.le_of_ble_eq_true rfl)) (Nat.le_of_ble_eq_true rfl)))), fld_slotWord ho hf 2 6 (Nat.le_of_ble_eq_true rfl) b (place_skip (Nat.le_of_ble_eq_true rfl) (place_skip (Nat.le_of_ble_eq_true rfl) (place_hit b.isLt (place_cons_lt (bool_lt w) (place_nil_lt 1) (Nat.le_of_ble_eq_true rfl))))), flag_slotWord ho hf 1 (Nat.le_of_ble_eq_true rfl) w (place_skip (Nat.le_of_ble_eq_true rfl) (place_skip (Nat.le_of_ble_eq_true rfl) (place_skip (Nat.le_of_ble_eq_true rfl) (place_hit (bool_lt w) (place_nil_lt 1)))))]))) sl

theorem arm_clz (sl : Lane) {w : BitVec 32} (hop : opcodeOf w = 0x17) : decodeShared sl w = accept (holds w 0 1 0 && holds w 2 6 0) (.clz sl (guardOf w) (fld w 14 6) (fld w 8 6) (flag w 1)) := by
  unfold decodeShared
  simp only [hop]

theorem clz (sl : Lane) (g : Guard) (d : BitVec 6) (a : BitVec 6) (w : Bool) : Statement (.clz sl g d a w) := by
  intro W hW
  obtain rfl : slotWord g 0x17 (place [(d.toNat, 14), (a.toNat, 8), (w.toNat, 1)]) = W := Option.some.inj hW
  have ho : 0x17 < 2 ^ 7 := Nat.le_of_ble_eq_true rfl
  have hf : place [(d.toNat, 14), (a.toNat, 8), (w.toNat, 1)] < 2 ^ 20 := place_cons_lt d.isLt (place_cons_lt a.isLt (place_cons_lt (bool_lt w) (place_nil_lt 1) (Nat.le_of_ble_eq_true rfl)) (Nat.le_of_ble_eq_true rfl)) (Nat.le_of_ble_eq_true rfl)
  have hop := opcodeOf_slotWord (g := g) ho hf
  refine ⟨congrArg some (guardOf_slotWord ho hf).symm, _, rfl, decodeSlot_eq ?_⟩
  exact decodeRaw_shared hop (by decide) (by decide) (i := fun l => .clz l g d a w) (fun l => (arm_clz l hop).trans (accept_eq (Bool.and_eq_true_iff.mpr ⟨(holds_slotWord ho hf 0 1 0 (Nat.le_of_ble_eq_true rfl) (place_skip (Nat.le_of_ble_eq_true rfl) (place_skip (Nat.le_of_ble_eq_true rfl) (place_skip (Nat.le_of_ble_eq_true rfl) (place_zero (place_nil_lt 0)))))), (holds_slotWord ho hf 2 6 0 (Nat.le_of_ble_eq_true rfl) (place_skip (Nat.le_of_ble_eq_true rfl) (place_skip (Nat.le_of_ble_eq_true rfl) (place_zero (place_cons_lt (bool_lt w) (place_nil_lt 1) (Nat.le_of_ble_eq_true rfl))))))⟩) (by rw [guardOf_slotWord ho hf, fld_slotWord ho hf 14 6 (Nat.le_of_ble_eq_true rfl) d (place_hit d.isLt (place_cons_lt a.isLt (place_cons_lt (bool_lt w) (place_nil_lt 1) (Nat.le_of_ble_eq_true rfl)) (Nat.le_of_ble_eq_true rfl))), fld_slotWord ho hf 8 6 (Nat.le_of_ble_eq_true rfl) a (place_skip (Nat.le_of_ble_eq_true rfl) (place_hit a.isLt (place_cons_lt (bool_lt w) (place_nil_lt 1) (Nat.le_of_ble_eq_true rfl)))), flag_slotWord ho hf 1 (Nat.le_of_ble_eq_true rfl) w (place_skip (Nat.le_of_ble_eq_true rfl) (place_skip (Nat.le_of_ble_eq_true rfl) (place_hit (bool_lt w) (place_nil_lt 1))))]))) sl

theorem arm_ctz (sl : Lane) {w : BitVec 32} (hop : opcodeOf w = 0x18) : decodeShared sl w = accept (holds w 0 1 0 && holds w 2 6 0) (.ctz sl (guardOf w) (fld w 14 6) (fld w 8 6) (flag w 1)) := by
  unfold decodeShared
  simp only [hop]

theorem ctz (sl : Lane) (g : Guard) (d : BitVec 6) (a : BitVec 6) (w : Bool) : Statement (.ctz sl g d a w) := by
  intro W hW
  obtain rfl : slotWord g 0x18 (place [(d.toNat, 14), (a.toNat, 8), (w.toNat, 1)]) = W := Option.some.inj hW
  have ho : 0x18 < 2 ^ 7 := Nat.le_of_ble_eq_true rfl
  have hf : place [(d.toNat, 14), (a.toNat, 8), (w.toNat, 1)] < 2 ^ 20 := place_cons_lt d.isLt (place_cons_lt a.isLt (place_cons_lt (bool_lt w) (place_nil_lt 1) (Nat.le_of_ble_eq_true rfl)) (Nat.le_of_ble_eq_true rfl)) (Nat.le_of_ble_eq_true rfl)
  have hop := opcodeOf_slotWord (g := g) ho hf
  refine ⟨congrArg some (guardOf_slotWord ho hf).symm, _, rfl, decodeSlot_eq ?_⟩
  exact decodeRaw_shared hop (by decide) (by decide) (i := fun l => .ctz l g d a w) (fun l => (arm_ctz l hop).trans (accept_eq (Bool.and_eq_true_iff.mpr ⟨(holds_slotWord ho hf 0 1 0 (Nat.le_of_ble_eq_true rfl) (place_skip (Nat.le_of_ble_eq_true rfl) (place_skip (Nat.le_of_ble_eq_true rfl) (place_skip (Nat.le_of_ble_eq_true rfl) (place_zero (place_nil_lt 0)))))), (holds_slotWord ho hf 2 6 0 (Nat.le_of_ble_eq_true rfl) (place_skip (Nat.le_of_ble_eq_true rfl) (place_skip (Nat.le_of_ble_eq_true rfl) (place_zero (place_cons_lt (bool_lt w) (place_nil_lt 1) (Nat.le_of_ble_eq_true rfl))))))⟩) (by rw [guardOf_slotWord ho hf, fld_slotWord ho hf 14 6 (Nat.le_of_ble_eq_true rfl) d (place_hit d.isLt (place_cons_lt a.isLt (place_cons_lt (bool_lt w) (place_nil_lt 1) (Nat.le_of_ble_eq_true rfl)) (Nat.le_of_ble_eq_true rfl))), fld_slotWord ho hf 8 6 (Nat.le_of_ble_eq_true rfl) a (place_skip (Nat.le_of_ble_eq_true rfl) (place_hit a.isLt (place_cons_lt (bool_lt w) (place_nil_lt 1) (Nat.le_of_ble_eq_true rfl)))), flag_slotWord ho hf 1 (Nat.le_of_ble_eq_true rfl) w (place_skip (Nat.le_of_ble_eq_true rfl) (place_skip (Nat.le_of_ble_eq_true rfl) (place_hit (bool_lt w) (place_nil_lt 1))))]))) sl

theorem arm_popc (sl : Lane) {w : BitVec 32} (hop : opcodeOf w = 0x19) : decodeShared sl w = accept (holds w 0 1 0 && holds w 2 6 0) (.popc sl (guardOf w) (fld w 14 6) (fld w 8 6) (flag w 1)) := by
  unfold decodeShared
  simp only [hop]

theorem popc (sl : Lane) (g : Guard) (d : BitVec 6) (a : BitVec 6) (w : Bool) : Statement (.popc sl g d a w) := by
  intro W hW
  obtain rfl : slotWord g 0x19 (place [(d.toNat, 14), (a.toNat, 8), (w.toNat, 1)]) = W := Option.some.inj hW
  have ho : 0x19 < 2 ^ 7 := Nat.le_of_ble_eq_true rfl
  have hf : place [(d.toNat, 14), (a.toNat, 8), (w.toNat, 1)] < 2 ^ 20 := place_cons_lt d.isLt (place_cons_lt a.isLt (place_cons_lt (bool_lt w) (place_nil_lt 1) (Nat.le_of_ble_eq_true rfl)) (Nat.le_of_ble_eq_true rfl)) (Nat.le_of_ble_eq_true rfl)
  have hop := opcodeOf_slotWord (g := g) ho hf
  refine ⟨congrArg some (guardOf_slotWord ho hf).symm, _, rfl, decodeSlot_eq ?_⟩
  exact decodeRaw_shared hop (by decide) (by decide) (i := fun l => .popc l g d a w) (fun l => (arm_popc l hop).trans (accept_eq (Bool.and_eq_true_iff.mpr ⟨(holds_slotWord ho hf 0 1 0 (Nat.le_of_ble_eq_true rfl) (place_skip (Nat.le_of_ble_eq_true rfl) (place_skip (Nat.le_of_ble_eq_true rfl) (place_skip (Nat.le_of_ble_eq_true rfl) (place_zero (place_nil_lt 0)))))), (holds_slotWord ho hf 2 6 0 (Nat.le_of_ble_eq_true rfl) (place_skip (Nat.le_of_ble_eq_true rfl) (place_skip (Nat.le_of_ble_eq_true rfl) (place_zero (place_cons_lt (bool_lt w) (place_nil_lt 1) (Nat.le_of_ble_eq_true rfl))))))⟩) (by rw [guardOf_slotWord ho hf, fld_slotWord ho hf 14 6 (Nat.le_of_ble_eq_true rfl) d (place_hit d.isLt (place_cons_lt a.isLt (place_cons_lt (bool_lt w) (place_nil_lt 1) (Nat.le_of_ble_eq_true rfl)) (Nat.le_of_ble_eq_true rfl))), fld_slotWord ho hf 8 6 (Nat.le_of_ble_eq_true rfl) a (place_skip (Nat.le_of_ble_eq_true rfl) (place_hit a.isLt (place_cons_lt (bool_lt w) (place_nil_lt 1) (Nat.le_of_ble_eq_true rfl)))), flag_slotWord ho hf 1 (Nat.le_of_ble_eq_true rfl) w (place_skip (Nat.le_of_ble_eq_true rfl) (place_skip (Nat.le_of_ble_eq_true rfl) (place_hit (bool_lt w) (place_nil_lt 1))))]))) sl

theorem arm_sel (sl : Lane) {w : BitVec 32} (hop : opcodeOf w = 0x1A) : decodeShared sl w = accept (true) (.sel sl (guardOf w) (fld w 16 4) (fld w 12 4) (fld w 6 6) (fld w 0 6)) := by
  unfold decodeShared
  simp only [hop]

theorem sel (sl : Lane) (g : Guard) (p : BitVec 4) (d : BitVec 4) (a : BitVec 6) (b : BitVec 6) : Statement (.sel sl g p d a b) := by
  intro W hW
  obtain rfl : slotWord g 0x1A (place [(p.toNat, 16), (d.toNat, 12), (a.toNat, 6), (b.toNat, 0)]) = W := Option.some.inj hW
  have ho : 0x1A < 2 ^ 7 := Nat.le_of_ble_eq_true rfl
  have hf : place [(p.toNat, 16), (d.toNat, 12), (a.toNat, 6), (b.toNat, 0)] < 2 ^ 20 := place_cons_lt p.isLt (place_cons_lt d.isLt (place_cons_lt a.isLt (place_cons_lt b.isLt (place_nil_lt 0) (Nat.le_of_ble_eq_true rfl)) (Nat.le_of_ble_eq_true rfl)) (Nat.le_of_ble_eq_true rfl)) (Nat.le_of_ble_eq_true rfl)
  have hop := opcodeOf_slotWord (g := g) ho hf
  refine ⟨congrArg some (guardOf_slotWord ho hf).symm, _, rfl, decodeSlot_eq ?_⟩
  exact decodeRaw_shared hop (by decide) (by decide) (i := fun l => .sel l g p d a b) (fun l => (arm_sel l hop).trans (accept_eq rfl (by rw [guardOf_slotWord ho hf, fld_slotWord ho hf 16 4 (Nat.le_of_ble_eq_true rfl) p (place_hit p.isLt (place_cons_lt d.isLt (place_cons_lt a.isLt (place_cons_lt b.isLt (place_nil_lt 0) (Nat.le_of_ble_eq_true rfl)) (Nat.le_of_ble_eq_true rfl)) (Nat.le_of_ble_eq_true rfl))), fld_slotWord ho hf 12 4 (Nat.le_of_ble_eq_true rfl) d (place_skip (Nat.le_of_ble_eq_true rfl) (place_hit d.isLt (place_cons_lt a.isLt (place_cons_lt b.isLt (place_nil_lt 0) (Nat.le_of_ble_eq_true rfl)) (Nat.le_of_ble_eq_true rfl)))), fld_slotWord ho hf 6 6 (Nat.le_of_ble_eq_true rfl) a (place_skip (Nat.le_of_ble_eq_true rfl) (place_skip (Nat.le_of_ble_eq_true rfl) (place_hit a.isLt (place_cons_lt b.isLt (place_nil_lt 0) (Nat.le_of_ble_eq_true rfl))))), fld_slotWord ho hf 0 6 (Nat.le_of_ble_eq_true rfl) b (place_skip (Nat.le_of_ble_eq_true rfl) (place_skip (Nat.le_of_ble_eq_true rfl) (place_skip (Nat.le_of_ble_eq_true rfl) (place_hit b.isLt (place_nil_lt 0)))))]))) sl

theorem arm_addImm (sl : Lane) {w : BitVec 32} (hop : opcodeOf w = 0x20) : decodeShared sl w = accept (true) (.addImm sl (guardOf w) (fld w 14 6) (fld w 8 6) (fld w 0 8)) := by
  unfold decodeShared
  simp only [hop]

theorem addImm (sl : Lane) (g : Guard) (d : BitVec 6) (a : BitVec 6) (i : BitVec 8) : Statement (.addImm sl g d a i) := by
  intro W hW
  obtain rfl : slotWord g 0x20 (place [(d.toNat, 14), (a.toNat, 8), (i.toNat, 0)]) = W := Option.some.inj hW
  have ho : 0x20 < 2 ^ 7 := Nat.le_of_ble_eq_true rfl
  have hf : place [(d.toNat, 14), (a.toNat, 8), (i.toNat, 0)] < 2 ^ 20 := place_cons_lt d.isLt (place_cons_lt a.isLt (place_cons_lt i.isLt (place_nil_lt 0) (Nat.le_of_ble_eq_true rfl)) (Nat.le_of_ble_eq_true rfl)) (Nat.le_of_ble_eq_true rfl)
  have hop := opcodeOf_slotWord (g := g) ho hf
  refine ⟨congrArg some (guardOf_slotWord ho hf).symm, _, rfl, decodeSlot_eq ?_⟩
  exact decodeRaw_shared hop (by decide) (by decide) (i := fun l => .addImm l g d a i) (fun l => (arm_addImm l hop).trans (accept_eq rfl (by rw [guardOf_slotWord ho hf, fld_slotWord ho hf 14 6 (Nat.le_of_ble_eq_true rfl) d (place_hit d.isLt (place_cons_lt a.isLt (place_cons_lt i.isLt (place_nil_lt 0) (Nat.le_of_ble_eq_true rfl)) (Nat.le_of_ble_eq_true rfl))), fld_slotWord ho hf 8 6 (Nat.le_of_ble_eq_true rfl) a (place_skip (Nat.le_of_ble_eq_true rfl) (place_hit a.isLt (place_cons_lt i.isLt (place_nil_lt 0) (Nat.le_of_ble_eq_true rfl)))), fld_slotWord ho hf 0 8 (Nat.le_of_ble_eq_true rfl) i (place_skip (Nat.le_of_ble_eq_true rfl) (place_skip (Nat.le_of_ble_eq_true rfl) (place_hit i.isLt (place_nil_lt 0))))]))) sl

theorem arm_mulImm (sl : Lane) {w : BitVec 32} (hop : opcodeOf w = 0x21) : decodeShared sl w = accept (true) (.mulImm sl (guardOf w) (fld w 14 6) (fld w 8 6) (fld w 0 8)) := by
  unfold decodeShared
  simp only [hop]

theorem mulImm (sl : Lane) (g : Guard) (d : BitVec 6) (a : BitVec 6) (i : BitVec 8) : Statement (.mulImm sl g d a i) := by
  intro W hW
  obtain rfl : slotWord g 0x21 (place [(d.toNat, 14), (a.toNat, 8), (i.toNat, 0)]) = W := Option.some.inj hW
  have ho : 0x21 < 2 ^ 7 := Nat.le_of_ble_eq_true rfl
  have hf : place [(d.toNat, 14), (a.toNat, 8), (i.toNat, 0)] < 2 ^ 20 := place_cons_lt d.isLt (place_cons_lt a.isLt (place_cons_lt i.isLt (place_nil_lt 0) (Nat.le_of_ble_eq_true rfl)) (Nat.le_of_ble_eq_true rfl)) (Nat.le_of_ble_eq_true rfl)
  have hop := opcodeOf_slotWord (g := g) ho hf
  refine ⟨congrArg some (guardOf_slotWord ho hf).symm, _, rfl, decodeSlot_eq ?_⟩
  exact decodeRaw_shared hop (by decide) (by decide) (i := fun l => .mulImm l g d a i) (fun l => (arm_mulImm l hop).trans (accept_eq rfl (by rw [guardOf_slotWord ho hf, fld_slotWord ho hf 14 6 (Nat.le_of_ble_eq_true rfl) d (place_hit d.isLt (place_cons_lt a.isLt (place_cons_lt i.isLt (place_nil_lt 0) (Nat.le_of_ble_eq_true rfl)) (Nat.le_of_ble_eq_true rfl))), fld_slotWord ho hf 8 6 (Nat.le_of_ble_eq_true rfl) a (place_skip (Nat.le_of_ble_eq_true rfl) (place_hit a.isLt (place_cons_lt i.isLt (place_nil_lt 0) (Nat.le_of_ble_eq_true rfl)))), fld_slotWord ho hf 0 8 (Nat.le_of_ble_eq_true rfl) i (place_skip (Nat.le_of_ble_eq_true rfl) (place_skip (Nat.le_of_ble_eq_true rfl) (place_hit i.isLt (place_nil_lt 0))))]))) sl

theorem arm_andImm (sl : Lane) {w : BitVec 32} (hop : opcodeOf w = 0x22) : decodeShared sl w = accept (true) (.andImm sl (guardOf w) (fld w 14 6) (fld w 8 6) (fld w 0 8)) := by
  unfold decodeShared
  simp only [hop]

theorem andImm (sl : Lane) (g : Guard) (d : BitVec 6) (a : BitVec 6) (i : BitVec 8) : Statement (.andImm sl g d a i) := by
  intro W hW
  obtain rfl : slotWord g 0x22 (place [(d.toNat, 14), (a.toNat, 8), (i.toNat, 0)]) = W := Option.some.inj hW
  have ho : 0x22 < 2 ^ 7 := Nat.le_of_ble_eq_true rfl
  have hf : place [(d.toNat, 14), (a.toNat, 8), (i.toNat, 0)] < 2 ^ 20 := place_cons_lt d.isLt (place_cons_lt a.isLt (place_cons_lt i.isLt (place_nil_lt 0) (Nat.le_of_ble_eq_true rfl)) (Nat.le_of_ble_eq_true rfl)) (Nat.le_of_ble_eq_true rfl)
  have hop := opcodeOf_slotWord (g := g) ho hf
  refine ⟨congrArg some (guardOf_slotWord ho hf).symm, _, rfl, decodeSlot_eq ?_⟩
  exact decodeRaw_shared hop (by decide) (by decide) (i := fun l => .andImm l g d a i) (fun l => (arm_andImm l hop).trans (accept_eq rfl (by rw [guardOf_slotWord ho hf, fld_slotWord ho hf 14 6 (Nat.le_of_ble_eq_true rfl) d (place_hit d.isLt (place_cons_lt a.isLt (place_cons_lt i.isLt (place_nil_lt 0) (Nat.le_of_ble_eq_true rfl)) (Nat.le_of_ble_eq_true rfl))), fld_slotWord ho hf 8 6 (Nat.le_of_ble_eq_true rfl) a (place_skip (Nat.le_of_ble_eq_true rfl) (place_hit a.isLt (place_cons_lt i.isLt (place_nil_lt 0) (Nat.le_of_ble_eq_true rfl)))), fld_slotWord ho hf 0 8 (Nat.le_of_ble_eq_true rfl) i (place_skip (Nat.le_of_ble_eq_true rfl) (place_skip (Nat.le_of_ble_eq_true rfl) (place_hit i.isLt (place_nil_lt 0))))]))) sl

theorem arm_orImm (sl : Lane) {w : BitVec 32} (hop : opcodeOf w = 0x23) : decodeShared sl w = accept (true) (.orImm sl (guardOf w) (fld w 14 6) (fld w 8 6) (fld w 0 8)) := by
  unfold decodeShared
  simp only [hop]

theorem orImm (sl : Lane) (g : Guard) (d : BitVec 6) (a : BitVec 6) (i : BitVec 8) : Statement (.orImm sl g d a i) := by
  intro W hW
  obtain rfl : slotWord g 0x23 (place [(d.toNat, 14), (a.toNat, 8), (i.toNat, 0)]) = W := Option.some.inj hW
  have ho : 0x23 < 2 ^ 7 := Nat.le_of_ble_eq_true rfl
  have hf : place [(d.toNat, 14), (a.toNat, 8), (i.toNat, 0)] < 2 ^ 20 := place_cons_lt d.isLt (place_cons_lt a.isLt (place_cons_lt i.isLt (place_nil_lt 0) (Nat.le_of_ble_eq_true rfl)) (Nat.le_of_ble_eq_true rfl)) (Nat.le_of_ble_eq_true rfl)
  have hop := opcodeOf_slotWord (g := g) ho hf
  refine ⟨congrArg some (guardOf_slotWord ho hf).symm, _, rfl, decodeSlot_eq ?_⟩
  exact decodeRaw_shared hop (by decide) (by decide) (i := fun l => .orImm l g d a i) (fun l => (arm_orImm l hop).trans (accept_eq rfl (by rw [guardOf_slotWord ho hf, fld_slotWord ho hf 14 6 (Nat.le_of_ble_eq_true rfl) d (place_hit d.isLt (place_cons_lt a.isLt (place_cons_lt i.isLt (place_nil_lt 0) (Nat.le_of_ble_eq_true rfl)) (Nat.le_of_ble_eq_true rfl))), fld_slotWord ho hf 8 6 (Nat.le_of_ble_eq_true rfl) a (place_skip (Nat.le_of_ble_eq_true rfl) (place_hit a.isLt (place_cons_lt i.isLt (place_nil_lt 0) (Nat.le_of_ble_eq_true rfl)))), fld_slotWord ho hf 0 8 (Nat.le_of_ble_eq_true rfl) i (place_skip (Nat.le_of_ble_eq_true rfl) (place_skip (Nat.le_of_ble_eq_true rfl) (place_hit i.isLt (place_nil_lt 0))))]))) sl

theorem arm_xorImm (sl : Lane) {w : BitVec 32} (hop : opcodeOf w = 0x24) : decodeShared sl w = accept (true) (.xorImm sl (guardOf w) (fld w 14 6) (fld w 8 6) (fld w 0 8)) := by
  unfold decodeShared
  simp only [hop]

theorem xorImm (sl : Lane) (g : Guard) (d : BitVec 6) (a : BitVec 6) (i : BitVec 8) : Statement (.xorImm sl g d a i) := by
  intro W hW
  obtain rfl : slotWord g 0x24 (place [(d.toNat, 14), (a.toNat, 8), (i.toNat, 0)]) = W := Option.some.inj hW
  have ho : 0x24 < 2 ^ 7 := Nat.le_of_ble_eq_true rfl
  have hf : place [(d.toNat, 14), (a.toNat, 8), (i.toNat, 0)] < 2 ^ 20 := place_cons_lt d.isLt (place_cons_lt a.isLt (place_cons_lt i.isLt (place_nil_lt 0) (Nat.le_of_ble_eq_true rfl)) (Nat.le_of_ble_eq_true rfl)) (Nat.le_of_ble_eq_true rfl)
  have hop := opcodeOf_slotWord (g := g) ho hf
  refine ⟨congrArg some (guardOf_slotWord ho hf).symm, _, rfl, decodeSlot_eq ?_⟩
  exact decodeRaw_shared hop (by decide) (by decide) (i := fun l => .xorImm l g d a i) (fun l => (arm_xorImm l hop).trans (accept_eq rfl (by rw [guardOf_slotWord ho hf, fld_slotWord ho hf 14 6 (Nat.le_of_ble_eq_true rfl) d (place_hit d.isLt (place_cons_lt a.isLt (place_cons_lt i.isLt (place_nil_lt 0) (Nat.le_of_ble_eq_true rfl)) (Nat.le_of_ble_eq_true rfl))), fld_slotWord ho hf 8 6 (Nat.le_of_ble_eq_true rfl) a (place_skip (Nat.le_of_ble_eq_true rfl) (place_hit a.isLt (place_cons_lt i.isLt (place_nil_lt 0) (Nat.le_of_ble_eq_true rfl)))), fld_slotWord ho hf 0 8 (Nat.le_of_ble_eq_true rfl) i (place_skip (Nat.le_of_ble_eq_true rfl) (place_skip (Nat.le_of_ble_eq_true rfl) (place_hit i.isLt (place_nil_lt 0))))]))) sl

theorem arm_shlImm (sl : Lane) {w : BitVec 32} (hop : opcodeOf w = 0x25) : decodeShared sl w = accept (true) (.shlImm sl (guardOf w) (fld w 14 6) (fld w 8 6) (fld w 0 8)) := by
  unfold decodeShared
  simp only [hop]

theorem shlImm (sl : Lane) (g : Guard) (d : BitVec 6) (a : BitVec 6) (i : BitVec 8) : Statement (.shlImm sl g d a i) := by
  intro W hW
  obtain rfl : slotWord g 0x25 (place [(d.toNat, 14), (a.toNat, 8), (i.toNat, 0)]) = W := Option.some.inj hW
  have ho : 0x25 < 2 ^ 7 := Nat.le_of_ble_eq_true rfl
  have hf : place [(d.toNat, 14), (a.toNat, 8), (i.toNat, 0)] < 2 ^ 20 := place_cons_lt d.isLt (place_cons_lt a.isLt (place_cons_lt i.isLt (place_nil_lt 0) (Nat.le_of_ble_eq_true rfl)) (Nat.le_of_ble_eq_true rfl)) (Nat.le_of_ble_eq_true rfl)
  have hop := opcodeOf_slotWord (g := g) ho hf
  refine ⟨congrArg some (guardOf_slotWord ho hf).symm, _, rfl, decodeSlot_eq ?_⟩
  exact decodeRaw_shared hop (by decide) (by decide) (i := fun l => .shlImm l g d a i) (fun l => (arm_shlImm l hop).trans (accept_eq rfl (by rw [guardOf_slotWord ho hf, fld_slotWord ho hf 14 6 (Nat.le_of_ble_eq_true rfl) d (place_hit d.isLt (place_cons_lt a.isLt (place_cons_lt i.isLt (place_nil_lt 0) (Nat.le_of_ble_eq_true rfl)) (Nat.le_of_ble_eq_true rfl))), fld_slotWord ho hf 8 6 (Nat.le_of_ble_eq_true rfl) a (place_skip (Nat.le_of_ble_eq_true rfl) (place_hit a.isLt (place_cons_lt i.isLt (place_nil_lt 0) (Nat.le_of_ble_eq_true rfl)))), fld_slotWord ho hf 0 8 (Nat.le_of_ble_eq_true rfl) i (place_skip (Nat.le_of_ble_eq_true rfl) (place_skip (Nat.le_of_ble_eq_true rfl) (place_hit i.isLt (place_nil_lt 0))))]))) sl

theorem arm_shrImm (sl : Lane) {w : BitVec 32} (hop : opcodeOf w = 0x26) : decodeShared sl w = accept (true) (.shrImm sl (guardOf w) (fld w 14 6) (fld w 8 6) (fld w 0 8)) := by
  unfold decodeShared
  simp only [hop]

theorem shrImm (sl : Lane) (g : Guard) (d : BitVec 6) (a : BitVec 6) (i : BitVec 8) : Statement (.shrImm sl g d a i) := by
  intro W hW
  obtain rfl : slotWord g 0x26 (place [(d.toNat, 14), (a.toNat, 8), (i.toNat, 0)]) = W := Option.some.inj hW
  have ho : 0x26 < 2 ^ 7 := Nat.le_of_ble_eq_true rfl
  have hf : place [(d.toNat, 14), (a.toNat, 8), (i.toNat, 0)] < 2 ^ 20 := place_cons_lt d.isLt (place_cons_lt a.isLt (place_cons_lt i.isLt (place_nil_lt 0) (Nat.le_of_ble_eq_true rfl)) (Nat.le_of_ble_eq_true rfl)) (Nat.le_of_ble_eq_true rfl)
  have hop := opcodeOf_slotWord (g := g) ho hf
  refine ⟨congrArg some (guardOf_slotWord ho hf).symm, _, rfl, decodeSlot_eq ?_⟩
  exact decodeRaw_shared hop (by decide) (by decide) (i := fun l => .shrImm l g d a i) (fun l => (arm_shrImm l hop).trans (accept_eq rfl (by rw [guardOf_slotWord ho hf, fld_slotWord ho hf 14 6 (Nat.le_of_ble_eq_true rfl) d (place_hit d.isLt (place_cons_lt a.isLt (place_cons_lt i.isLt (place_nil_lt 0) (Nat.le_of_ble_eq_true rfl)) (Nat.le_of_ble_eq_true rfl))), fld_slotWord ho hf 8 6 (Nat.le_of_ble_eq_true rfl) a (place_skip (Nat.le_of_ble_eq_true rfl) (place_hit a.isLt (place_cons_lt i.isLt (place_nil_lt 0) (Nat.le_of_ble_eq_true rfl)))), fld_slotWord ho hf 0 8 (Nat.le_of_ble_eq_true rfl) i (place_skip (Nat.le_of_ble_eq_true rfl) (place_skip (Nat.le_of_ble_eq_true rfl) (place_hit i.isLt (place_nil_lt 0))))]))) sl

theorem arm_sraImm (sl : Lane) {w : BitVec 32} (hop : opcodeOf w = 0x27) : decodeShared sl w = accept (true) (.sraImm sl (guardOf w) (fld w 14 6) (fld w 8 6) (fld w 0 8)) := by
  unfold decodeShared
  simp only [hop]

theorem sraImm (sl : Lane) (g : Guard) (d : BitVec 6) (a : BitVec 6) (i : BitVec 8) : Statement (.sraImm sl g d a i) := by
  intro W hW
  obtain rfl : slotWord g 0x27 (place [(d.toNat, 14), (a.toNat, 8), (i.toNat, 0)]) = W := Option.some.inj hW
  have ho : 0x27 < 2 ^ 7 := Nat.le_of_ble_eq_true rfl
  have hf : place [(d.toNat, 14), (a.toNat, 8), (i.toNat, 0)] < 2 ^ 20 := place_cons_lt d.isLt (place_cons_lt a.isLt (place_cons_lt i.isLt (place_nil_lt 0) (Nat.le_of_ble_eq_true rfl)) (Nat.le_of_ble_eq_true rfl)) (Nat.le_of_ble_eq_true rfl)
  have hop := opcodeOf_slotWord (g := g) ho hf
  refine ⟨congrArg some (guardOf_slotWord ho hf).symm, _, rfl, decodeSlot_eq ?_⟩
  exact decodeRaw_shared hop (by decide) (by decide) (i := fun l => .sraImm l g d a i) (fun l => (arm_sraImm l hop).trans (accept_eq rfl (by rw [guardOf_slotWord ho hf, fld_slotWord ho hf 14 6 (Nat.le_of_ble_eq_true rfl) d (place_hit d.isLt (place_cons_lt a.isLt (place_cons_lt i.isLt (place_nil_lt 0) (Nat.le_of_ble_eq_true rfl)) (Nat.le_of_ble_eq_true rfl))), fld_slotWord ho hf 8 6 (Nat.le_of_ble_eq_true rfl) a (place_skip (Nat.le_of_ble_eq_true rfl) (place_hit a.isLt (place_cons_lt i.isLt (place_nil_lt 0) (Nat.le_of_ble_eq_true rfl)))), fld_slotWord ho hf 0 8 (Nat.le_of_ble_eq_true rfl) i (place_skip (Nat.le_of_ble_eq_true rfl) (place_skip (Nat.le_of_ble_eq_true rfl) (place_hit i.isLt (place_nil_lt 0))))]))) sl

theorem arm_rolImm (sl : Lane) {w : BitVec 32} (hop : opcodeOf w = 0x28) : decodeShared sl w = accept (true) (.rolImm sl (guardOf w) (fld w 14 6) (fld w 8 6) (fld w 0 8)) := by
  unfold decodeShared
  simp only [hop]

theorem rolImm (sl : Lane) (g : Guard) (d : BitVec 6) (a : BitVec 6) (i : BitVec 8) : Statement (.rolImm sl g d a i) := by
  intro W hW
  obtain rfl : slotWord g 0x28 (place [(d.toNat, 14), (a.toNat, 8), (i.toNat, 0)]) = W := Option.some.inj hW
  have ho : 0x28 < 2 ^ 7 := Nat.le_of_ble_eq_true rfl
  have hf : place [(d.toNat, 14), (a.toNat, 8), (i.toNat, 0)] < 2 ^ 20 := place_cons_lt d.isLt (place_cons_lt a.isLt (place_cons_lt i.isLt (place_nil_lt 0) (Nat.le_of_ble_eq_true rfl)) (Nat.le_of_ble_eq_true rfl)) (Nat.le_of_ble_eq_true rfl)
  have hop := opcodeOf_slotWord (g := g) ho hf
  refine ⟨congrArg some (guardOf_slotWord ho hf).symm, _, rfl, decodeSlot_eq ?_⟩
  exact decodeRaw_shared hop (by decide) (by decide) (i := fun l => .rolImm l g d a i) (fun l => (arm_rolImm l hop).trans (accept_eq rfl (by rw [guardOf_slotWord ho hf, fld_slotWord ho hf 14 6 (Nat.le_of_ble_eq_true rfl) d (place_hit d.isLt (place_cons_lt a.isLt (place_cons_lt i.isLt (place_nil_lt 0) (Nat.le_of_ble_eq_true rfl)) (Nat.le_of_ble_eq_true rfl))), fld_slotWord ho hf 8 6 (Nat.le_of_ble_eq_true rfl) a (place_skip (Nat.le_of_ble_eq_true rfl) (place_hit a.isLt (place_cons_lt i.isLt (place_nil_lt 0) (Nat.le_of_ble_eq_true rfl)))), fld_slotWord ho hf 0 8 (Nat.le_of_ble_eq_true rfl) i (place_skip (Nat.le_of_ble_eq_true rfl) (place_skip (Nat.le_of_ble_eq_true rfl) (place_hit i.isLt (place_nil_lt 0))))]))) sl

theorem arm_movi (sl : Lane) {w : BitVec 32} (hop : opcodeOf w = 0x2C) : decodeShared sl w = accept (true) (.movi sl (guardOf w) (fld w 14 6) (fld w 0 14)) := by
  unfold decodeShared
  simp only [hop]

theorem movi (sl : Lane) (g : Guard) (d : BitVec 6) (i : BitVec 14) : Statement (.movi sl g d i) := by
  intro W hW
  obtain rfl : slotWord g 0x2C (place [(d.toNat, 14), (i.toNat, 0)]) = W := Option.some.inj hW
  have ho : 0x2C < 2 ^ 7 := Nat.le_of_ble_eq_true rfl
  have hf : place [(d.toNat, 14), (i.toNat, 0)] < 2 ^ 20 := place_cons_lt d.isLt (place_cons_lt i.isLt (place_nil_lt 0) (Nat.le_of_ble_eq_true rfl)) (Nat.le_of_ble_eq_true rfl)
  have hop := opcodeOf_slotWord (g := g) ho hf
  refine ⟨congrArg some (guardOf_slotWord ho hf).symm, _, rfl, decodeSlot_eq ?_⟩
  exact decodeRaw_shared hop (by decide) (by decide) (i := fun l => .movi l g d i) (fun l => (arm_movi l hop).trans (accept_eq rfl (by rw [guardOf_slotWord ho hf, fld_slotWord ho hf 14 6 (Nat.le_of_ble_eq_true rfl) d (place_hit d.isLt (place_cons_lt i.isLt (place_nil_lt 0) (Nat.le_of_ble_eq_true rfl))), fld_slotWord ho hf 0 14 (Nat.le_of_ble_eq_true rfl) i (place_skip (Nat.le_of_ble_eq_true rfl) (place_hit i.isLt (place_nil_lt 0)))]))) sl

theorem arm_movk (sl : Lane) {w : BitVec 32} (hop : opcodeOf w = 0x2D) : decodeShared sl w = accept (true) (.movk sl (guardOf w) (fld w 14 6) (fld w 0 14)) := by
  unfold decodeShared
  simp only [hop]

theorem movk (sl : Lane) (g : Guard) (d : BitVec 6) (i : BitVec 14) : Statement (.movk sl g d i) := by
  intro W hW
  obtain rfl : slotWord g 0x2D (place [(d.toNat, 14), (i.toNat, 0)]) = W := Option.some.inj hW
  have ho : 0x2D < 2 ^ 7 := Nat.le_of_ble_eq_true rfl
  have hf : place [(d.toNat, 14), (i.toNat, 0)] < 2 ^ 20 := place_cons_lt d.isLt (place_cons_lt i.isLt (place_nil_lt 0) (Nat.le_of_ble_eq_true rfl)) (Nat.le_of_ble_eq_true rfl)
  have hop := opcodeOf_slotWord (g := g) ho hf
  refine ⟨congrArg some (guardOf_slotWord ho hf).symm, _, rfl, decodeSlot_eq ?_⟩
  exact decodeRaw_shared hop (by decide) (by decide) (i := fun l => .movk l g d i) (fun l => (arm_movk l hop).trans (accept_eq rfl (by rw [guardOf_slotWord ho hf, fld_slotWord ho hf 14 6 (Nat.le_of_ble_eq_true rfl) d (place_hit d.isLt (place_cons_lt i.isLt (place_nil_lt 0) (Nat.le_of_ble_eq_true rfl))), fld_slotWord ho hf 0 14 (Nat.le_of_ble_eq_true rfl) i (place_skip (Nat.le_of_ble_eq_true rfl) (place_hit i.isLt (place_nil_lt 0)))]))) sl

theorem arm_cmpEq (sl : Lane) {w : BitVec 32} (hop : opcodeOf w = 0x30) : decodeShared sl w = accept (true) (.cmpEq sl (guardOf w) (fld w 16 4) (fld w 12 4) (fld w 6 6) (fld w 0 6)) := by
  unfold decodeShared
  simp only [hop]

theorem cmpEq (sl : Lane) (g : Guard) (p : BitVec 4) (q : BitVec 4) (a : BitVec 6) (b : BitVec 6) : Statement (.cmpEq sl g p q a b) := by
  intro W hW
  obtain rfl : slotWord g 0x30 (place [(p.toNat, 16), (q.toNat, 12), (a.toNat, 6), (b.toNat, 0)]) = W := Option.some.inj hW
  have ho : 0x30 < 2 ^ 7 := Nat.le_of_ble_eq_true rfl
  have hf : place [(p.toNat, 16), (q.toNat, 12), (a.toNat, 6), (b.toNat, 0)] < 2 ^ 20 := place_cons_lt p.isLt (place_cons_lt q.isLt (place_cons_lt a.isLt (place_cons_lt b.isLt (place_nil_lt 0) (Nat.le_of_ble_eq_true rfl)) (Nat.le_of_ble_eq_true rfl)) (Nat.le_of_ble_eq_true rfl)) (Nat.le_of_ble_eq_true rfl)
  have hop := opcodeOf_slotWord (g := g) ho hf
  refine ⟨congrArg some (guardOf_slotWord ho hf).symm, _, rfl, decodeSlot_eq ?_⟩
  exact decodeRaw_shared hop (by decide) (by decide) (i := fun l => .cmpEq l g p q a b) (fun l => (arm_cmpEq l hop).trans (accept_eq rfl (by rw [guardOf_slotWord ho hf, fld_slotWord ho hf 16 4 (Nat.le_of_ble_eq_true rfl) p (place_hit p.isLt (place_cons_lt q.isLt (place_cons_lt a.isLt (place_cons_lt b.isLt (place_nil_lt 0) (Nat.le_of_ble_eq_true rfl)) (Nat.le_of_ble_eq_true rfl)) (Nat.le_of_ble_eq_true rfl))), fld_slotWord ho hf 12 4 (Nat.le_of_ble_eq_true rfl) q (place_skip (Nat.le_of_ble_eq_true rfl) (place_hit q.isLt (place_cons_lt a.isLt (place_cons_lt b.isLt (place_nil_lt 0) (Nat.le_of_ble_eq_true rfl)) (Nat.le_of_ble_eq_true rfl)))), fld_slotWord ho hf 6 6 (Nat.le_of_ble_eq_true rfl) a (place_skip (Nat.le_of_ble_eq_true rfl) (place_skip (Nat.le_of_ble_eq_true rfl) (place_hit a.isLt (place_cons_lt b.isLt (place_nil_lt 0) (Nat.le_of_ble_eq_true rfl))))), fld_slotWord ho hf 0 6 (Nat.le_of_ble_eq_true rfl) b (place_skip (Nat.le_of_ble_eq_true rfl) (place_skip (Nat.le_of_ble_eq_true rfl) (place_skip (Nat.le_of_ble_eq_true rfl) (place_hit b.isLt (place_nil_lt 0)))))]))) sl

theorem arm_cmpNe (sl : Lane) {w : BitVec 32} (hop : opcodeOf w = 0x31) : decodeShared sl w = accept (true) (.cmpNe sl (guardOf w) (fld w 16 4) (fld w 12 4) (fld w 6 6) (fld w 0 6)) := by
  unfold decodeShared
  simp only [hop]

theorem cmpNe (sl : Lane) (g : Guard) (p : BitVec 4) (q : BitVec 4) (a : BitVec 6) (b : BitVec 6) : Statement (.cmpNe sl g p q a b) := by
  intro W hW
  obtain rfl : slotWord g 0x31 (place [(p.toNat, 16), (q.toNat, 12), (a.toNat, 6), (b.toNat, 0)]) = W := Option.some.inj hW
  have ho : 0x31 < 2 ^ 7 := Nat.le_of_ble_eq_true rfl
  have hf : place [(p.toNat, 16), (q.toNat, 12), (a.toNat, 6), (b.toNat, 0)] < 2 ^ 20 := place_cons_lt p.isLt (place_cons_lt q.isLt (place_cons_lt a.isLt (place_cons_lt b.isLt (place_nil_lt 0) (Nat.le_of_ble_eq_true rfl)) (Nat.le_of_ble_eq_true rfl)) (Nat.le_of_ble_eq_true rfl)) (Nat.le_of_ble_eq_true rfl)
  have hop := opcodeOf_slotWord (g := g) ho hf
  refine ⟨congrArg some (guardOf_slotWord ho hf).symm, _, rfl, decodeSlot_eq ?_⟩
  exact decodeRaw_shared hop (by decide) (by decide) (i := fun l => .cmpNe l g p q a b) (fun l => (arm_cmpNe l hop).trans (accept_eq rfl (by rw [guardOf_slotWord ho hf, fld_slotWord ho hf 16 4 (Nat.le_of_ble_eq_true rfl) p (place_hit p.isLt (place_cons_lt q.isLt (place_cons_lt a.isLt (place_cons_lt b.isLt (place_nil_lt 0) (Nat.le_of_ble_eq_true rfl)) (Nat.le_of_ble_eq_true rfl)) (Nat.le_of_ble_eq_true rfl))), fld_slotWord ho hf 12 4 (Nat.le_of_ble_eq_true rfl) q (place_skip (Nat.le_of_ble_eq_true rfl) (place_hit q.isLt (place_cons_lt a.isLt (place_cons_lt b.isLt (place_nil_lt 0) (Nat.le_of_ble_eq_true rfl)) (Nat.le_of_ble_eq_true rfl)))), fld_slotWord ho hf 6 6 (Nat.le_of_ble_eq_true rfl) a (place_skip (Nat.le_of_ble_eq_true rfl) (place_skip (Nat.le_of_ble_eq_true rfl) (place_hit a.isLt (place_cons_lt b.isLt (place_nil_lt 0) (Nat.le_of_ble_eq_true rfl))))), fld_slotWord ho hf 0 6 (Nat.le_of_ble_eq_true rfl) b (place_skip (Nat.le_of_ble_eq_true rfl) (place_skip (Nat.le_of_ble_eq_true rfl) (place_skip (Nat.le_of_ble_eq_true rfl) (place_hit b.isLt (place_nil_lt 0)))))]))) sl

theorem arm_cmpLt (sl : Lane) {w : BitVec 32} (hop : opcodeOf w = 0x32) : decodeShared sl w = accept (true) (.cmpLt sl (guardOf w) (fld w 16 4) (fld w 12 4) (fld w 6 6) (fld w 0 6)) := by
  unfold decodeShared
  simp only [hop]

theorem cmpLt (sl : Lane) (g : Guard) (p : BitVec 4) (q : BitVec 4) (a : BitVec 6) (b : BitVec 6) : Statement (.cmpLt sl g p q a b) := by
  intro W hW
  obtain rfl : slotWord g 0x32 (place [(p.toNat, 16), (q.toNat, 12), (a.toNat, 6), (b.toNat, 0)]) = W := Option.some.inj hW
  have ho : 0x32 < 2 ^ 7 := Nat.le_of_ble_eq_true rfl
  have hf : place [(p.toNat, 16), (q.toNat, 12), (a.toNat, 6), (b.toNat, 0)] < 2 ^ 20 := place_cons_lt p.isLt (place_cons_lt q.isLt (place_cons_lt a.isLt (place_cons_lt b.isLt (place_nil_lt 0) (Nat.le_of_ble_eq_true rfl)) (Nat.le_of_ble_eq_true rfl)) (Nat.le_of_ble_eq_true rfl)) (Nat.le_of_ble_eq_true rfl)
  have hop := opcodeOf_slotWord (g := g) ho hf
  refine ⟨congrArg some (guardOf_slotWord ho hf).symm, _, rfl, decodeSlot_eq ?_⟩
  exact decodeRaw_shared hop (by decide) (by decide) (i := fun l => .cmpLt l g p q a b) (fun l => (arm_cmpLt l hop).trans (accept_eq rfl (by rw [guardOf_slotWord ho hf, fld_slotWord ho hf 16 4 (Nat.le_of_ble_eq_true rfl) p (place_hit p.isLt (place_cons_lt q.isLt (place_cons_lt a.isLt (place_cons_lt b.isLt (place_nil_lt 0) (Nat.le_of_ble_eq_true rfl)) (Nat.le_of_ble_eq_true rfl)) (Nat.le_of_ble_eq_true rfl))), fld_slotWord ho hf 12 4 (Nat.le_of_ble_eq_true rfl) q (place_skip (Nat.le_of_ble_eq_true rfl) (place_hit q.isLt (place_cons_lt a.isLt (place_cons_lt b.isLt (place_nil_lt 0) (Nat.le_of_ble_eq_true rfl)) (Nat.le_of_ble_eq_true rfl)))), fld_slotWord ho hf 6 6 (Nat.le_of_ble_eq_true rfl) a (place_skip (Nat.le_of_ble_eq_true rfl) (place_skip (Nat.le_of_ble_eq_true rfl) (place_hit a.isLt (place_cons_lt b.isLt (place_nil_lt 0) (Nat.le_of_ble_eq_true rfl))))), fld_slotWord ho hf 0 6 (Nat.le_of_ble_eq_true rfl) b (place_skip (Nat.le_of_ble_eq_true rfl) (place_skip (Nat.le_of_ble_eq_true rfl) (place_skip (Nat.le_of_ble_eq_true rfl) (place_hit b.isLt (place_nil_lt 0)))))]))) sl

theorem arm_cmpLe (sl : Lane) {w : BitVec 32} (hop : opcodeOf w = 0x33) : decodeShared sl w = accept (true) (.cmpLe sl (guardOf w) (fld w 16 4) (fld w 12 4) (fld w 6 6) (fld w 0 6)) := by
  unfold decodeShared
  simp only [hop]

theorem cmpLe (sl : Lane) (g : Guard) (p : BitVec 4) (q : BitVec 4) (a : BitVec 6) (b : BitVec 6) : Statement (.cmpLe sl g p q a b) := by
  intro W hW
  obtain rfl : slotWord g 0x33 (place [(p.toNat, 16), (q.toNat, 12), (a.toNat, 6), (b.toNat, 0)]) = W := Option.some.inj hW
  have ho : 0x33 < 2 ^ 7 := Nat.le_of_ble_eq_true rfl
  have hf : place [(p.toNat, 16), (q.toNat, 12), (a.toNat, 6), (b.toNat, 0)] < 2 ^ 20 := place_cons_lt p.isLt (place_cons_lt q.isLt (place_cons_lt a.isLt (place_cons_lt b.isLt (place_nil_lt 0) (Nat.le_of_ble_eq_true rfl)) (Nat.le_of_ble_eq_true rfl)) (Nat.le_of_ble_eq_true rfl)) (Nat.le_of_ble_eq_true rfl)
  have hop := opcodeOf_slotWord (g := g) ho hf
  refine ⟨congrArg some (guardOf_slotWord ho hf).symm, _, rfl, decodeSlot_eq ?_⟩
  exact decodeRaw_shared hop (by decide) (by decide) (i := fun l => .cmpLe l g p q a b) (fun l => (arm_cmpLe l hop).trans (accept_eq rfl (by rw [guardOf_slotWord ho hf, fld_slotWord ho hf 16 4 (Nat.le_of_ble_eq_true rfl) p (place_hit p.isLt (place_cons_lt q.isLt (place_cons_lt a.isLt (place_cons_lt b.isLt (place_nil_lt 0) (Nat.le_of_ble_eq_true rfl)) (Nat.le_of_ble_eq_true rfl)) (Nat.le_of_ble_eq_true rfl))), fld_slotWord ho hf 12 4 (Nat.le_of_ble_eq_true rfl) q (place_skip (Nat.le_of_ble_eq_true rfl) (place_hit q.isLt (place_cons_lt a.isLt (place_cons_lt b.isLt (place_nil_lt 0) (Nat.le_of_ble_eq_true rfl)) (Nat.le_of_ble_eq_true rfl)))), fld_slotWord ho hf 6 6 (Nat.le_of_ble_eq_true rfl) a (place_skip (Nat.le_of_ble_eq_true rfl) (place_skip (Nat.le_of_ble_eq_true rfl) (place_hit a.isLt (place_cons_lt b.isLt (place_nil_lt 0) (Nat.le_of_ble_eq_true rfl))))), fld_slotWord ho hf 0 6 (Nat.le_of_ble_eq_true rfl) b (place_skip (Nat.le_of_ble_eq_true rfl) (place_skip (Nat.le_of_ble_eq_true rfl) (place_skip (Nat.le_of_ble_eq_true rfl) (place_hit b.isLt (place_nil_lt 0)))))]))) sl

theorem arm_cmpGt (sl : Lane) {w : BitVec 32} (hop : opcodeOf w = 0x34) : decodeShared sl w = accept (true) (.cmpGt sl (guardOf w) (fld w 16 4) (fld w 12 4) (fld w 6 6) (fld w 0 6)) := by
  unfold decodeShared
  simp only [hop]

theorem cmpGt (sl : Lane) (g : Guard) (p : BitVec 4) (q : BitVec 4) (a : BitVec 6) (b : BitVec 6) : Statement (.cmpGt sl g p q a b) := by
  intro W hW
  obtain rfl : slotWord g 0x34 (place [(p.toNat, 16), (q.toNat, 12), (a.toNat, 6), (b.toNat, 0)]) = W := Option.some.inj hW
  have ho : 0x34 < 2 ^ 7 := Nat.le_of_ble_eq_true rfl
  have hf : place [(p.toNat, 16), (q.toNat, 12), (a.toNat, 6), (b.toNat, 0)] < 2 ^ 20 := place_cons_lt p.isLt (place_cons_lt q.isLt (place_cons_lt a.isLt (place_cons_lt b.isLt (place_nil_lt 0) (Nat.le_of_ble_eq_true rfl)) (Nat.le_of_ble_eq_true rfl)) (Nat.le_of_ble_eq_true rfl)) (Nat.le_of_ble_eq_true rfl)
  have hop := opcodeOf_slotWord (g := g) ho hf
  refine ⟨congrArg some (guardOf_slotWord ho hf).symm, _, rfl, decodeSlot_eq ?_⟩
  exact decodeRaw_shared hop (by decide) (by decide) (i := fun l => .cmpGt l g p q a b) (fun l => (arm_cmpGt l hop).trans (accept_eq rfl (by rw [guardOf_slotWord ho hf, fld_slotWord ho hf 16 4 (Nat.le_of_ble_eq_true rfl) p (place_hit p.isLt (place_cons_lt q.isLt (place_cons_lt a.isLt (place_cons_lt b.isLt (place_nil_lt 0) (Nat.le_of_ble_eq_true rfl)) (Nat.le_of_ble_eq_true rfl)) (Nat.le_of_ble_eq_true rfl))), fld_slotWord ho hf 12 4 (Nat.le_of_ble_eq_true rfl) q (place_skip (Nat.le_of_ble_eq_true rfl) (place_hit q.isLt (place_cons_lt a.isLt (place_cons_lt b.isLt (place_nil_lt 0) (Nat.le_of_ble_eq_true rfl)) (Nat.le_of_ble_eq_true rfl)))), fld_slotWord ho hf 6 6 (Nat.le_of_ble_eq_true rfl) a (place_skip (Nat.le_of_ble_eq_true rfl) (place_skip (Nat.le_of_ble_eq_true rfl) (place_hit a.isLt (place_cons_lt b.isLt (place_nil_lt 0) (Nat.le_of_ble_eq_true rfl))))), fld_slotWord ho hf 0 6 (Nat.le_of_ble_eq_true rfl) b (place_skip (Nat.le_of_ble_eq_true rfl) (place_skip (Nat.le_of_ble_eq_true rfl) (place_skip (Nat.le_of_ble_eq_true rfl) (place_hit b.isLt (place_nil_lt 0)))))]))) sl

theorem arm_cmpGe (sl : Lane) {w : BitVec 32} (hop : opcodeOf w = 0x35) : decodeShared sl w = accept (true) (.cmpGe sl (guardOf w) (fld w 16 4) (fld w 12 4) (fld w 6 6) (fld w 0 6)) := by
  unfold decodeShared
  simp only [hop]

theorem cmpGe (sl : Lane) (g : Guard) (p : BitVec 4) (q : BitVec 4) (a : BitVec 6) (b : BitVec 6) : Statement (.cmpGe sl g p q a b) := by
  intro W hW
  obtain rfl : slotWord g 0x35 (place [(p.toNat, 16), (q.toNat, 12), (a.toNat, 6), (b.toNat, 0)]) = W := Option.some.inj hW
  have ho : 0x35 < 2 ^ 7 := Nat.le_of_ble_eq_true rfl
  have hf : place [(p.toNat, 16), (q.toNat, 12), (a.toNat, 6), (b.toNat, 0)] < 2 ^ 20 := place_cons_lt p.isLt (place_cons_lt q.isLt (place_cons_lt a.isLt (place_cons_lt b.isLt (place_nil_lt 0) (Nat.le_of_ble_eq_true rfl)) (Nat.le_of_ble_eq_true rfl)) (Nat.le_of_ble_eq_true rfl)) (Nat.le_of_ble_eq_true rfl)
  have hop := opcodeOf_slotWord (g := g) ho hf
  refine ⟨congrArg some (guardOf_slotWord ho hf).symm, _, rfl, decodeSlot_eq ?_⟩
  exact decodeRaw_shared hop (by decide) (by decide) (i := fun l => .cmpGe l g p q a b) (fun l => (arm_cmpGe l hop).trans (accept_eq rfl (by rw [guardOf_slotWord ho hf, fld_slotWord ho hf 16 4 (Nat.le_of_ble_eq_true rfl) p (place_hit p.isLt (place_cons_lt q.isLt (place_cons_lt a.isLt (place_cons_lt b.isLt (place_nil_lt 0) (Nat.le_of_ble_eq_true rfl)) (Nat.le_of_ble_eq_true rfl)) (Nat.le_of_ble_eq_true rfl))), fld_slotWord ho hf 12 4 (Nat.le_of_ble_eq_true rfl) q (place_skip (Nat.le_of_ble_eq_true rfl) (place_hit q.isLt (place_cons_lt a.isLt (place_cons_lt b.isLt (place_nil_lt 0) (Nat.le_of_ble_eq_true rfl)) (Nat.le_of_ble_eq_true rfl)))), fld_slotWord ho hf 6 6 (Nat.le_of_ble_eq_true rfl) a (place_skip (Nat.le_of_ble_eq_true rfl) (place_skip (Nat.le_of_ble_eq_true rfl) (place_hit a.isLt (place_cons_lt b.isLt (place_nil_lt 0) (Nat.le_of_ble_eq_true rfl))))), fld_slotWord ho hf 0 6 (Nat.le_of_ble_eq_true rfl) b (place_skip (Nat.le_of_ble_eq_true rfl) (place_skip (Nat.le_of_ble_eq_true rfl) (place_skip (Nat.le_of_ble_eq_true rfl) (place_hit b.isLt (place_nil_lt 0)))))]))) sl

theorem arm_cmpLtn (sl : Lane) {w : BitVec 32} (hop : opcodeOf w = 0x36) : decodeShared sl w = accept (true) (.cmpLtn sl (guardOf w) (fld w 16 4) (fld w 12 4) (fld w 6 6) (fld w 0 6)) := by
  unfold decodeShared
  simp only [hop]

theorem cmpLtn (sl : Lane) (g : Guard) (p : BitVec 4) (q : BitVec 4) (a : BitVec 6) (b : BitVec 6) : Statement (.cmpLtn sl g p q a b) := by
  intro W hW
  obtain rfl : slotWord g 0x36 (place [(p.toNat, 16), (q.toNat, 12), (a.toNat, 6), (b.toNat, 0)]) = W := Option.some.inj hW
  have ho : 0x36 < 2 ^ 7 := Nat.le_of_ble_eq_true rfl
  have hf : place [(p.toNat, 16), (q.toNat, 12), (a.toNat, 6), (b.toNat, 0)] < 2 ^ 20 := place_cons_lt p.isLt (place_cons_lt q.isLt (place_cons_lt a.isLt (place_cons_lt b.isLt (place_nil_lt 0) (Nat.le_of_ble_eq_true rfl)) (Nat.le_of_ble_eq_true rfl)) (Nat.le_of_ble_eq_true rfl)) (Nat.le_of_ble_eq_true rfl)
  have hop := opcodeOf_slotWord (g := g) ho hf
  refine ⟨congrArg some (guardOf_slotWord ho hf).symm, _, rfl, decodeSlot_eq ?_⟩
  exact decodeRaw_shared hop (by decide) (by decide) (i := fun l => .cmpLtn l g p q a b) (fun l => (arm_cmpLtn l hop).trans (accept_eq rfl (by rw [guardOf_slotWord ho hf, fld_slotWord ho hf 16 4 (Nat.le_of_ble_eq_true rfl) p (place_hit p.isLt (place_cons_lt q.isLt (place_cons_lt a.isLt (place_cons_lt b.isLt (place_nil_lt 0) (Nat.le_of_ble_eq_true rfl)) (Nat.le_of_ble_eq_true rfl)) (Nat.le_of_ble_eq_true rfl))), fld_slotWord ho hf 12 4 (Nat.le_of_ble_eq_true rfl) q (place_skip (Nat.le_of_ble_eq_true rfl) (place_hit q.isLt (place_cons_lt a.isLt (place_cons_lt b.isLt (place_nil_lt 0) (Nat.le_of_ble_eq_true rfl)) (Nat.le_of_ble_eq_true rfl)))), fld_slotWord ho hf 6 6 (Nat.le_of_ble_eq_true rfl) a (place_skip (Nat.le_of_ble_eq_true rfl) (place_skip (Nat.le_of_ble_eq_true rfl) (place_hit a.isLt (place_cons_lt b.isLt (place_nil_lt 0) (Nat.le_of_ble_eq_true rfl))))), fld_slotWord ho hf 0 6 (Nat.le_of_ble_eq_true rfl) b (place_skip (Nat.le_of_ble_eq_true rfl) (place_skip (Nat.le_of_ble_eq_true rfl) (place_skip (Nat.le_of_ble_eq_true rfl) (place_hit b.isLt (place_nil_lt 0)))))]))) sl

theorem arm_cmpLen (sl : Lane) {w : BitVec 32} (hop : opcodeOf w = 0x37) : decodeShared sl w = accept (true) (.cmpLen sl (guardOf w) (fld w 16 4) (fld w 12 4) (fld w 6 6) (fld w 0 6)) := by
  unfold decodeShared
  simp only [hop]

theorem cmpLen (sl : Lane) (g : Guard) (p : BitVec 4) (q : BitVec 4) (a : BitVec 6) (b : BitVec 6) : Statement (.cmpLen sl g p q a b) := by
  intro W hW
  obtain rfl : slotWord g 0x37 (place [(p.toNat, 16), (q.toNat, 12), (a.toNat, 6), (b.toNat, 0)]) = W := Option.some.inj hW
  have ho : 0x37 < 2 ^ 7 := Nat.le_of_ble_eq_true rfl
  have hf : place [(p.toNat, 16), (q.toNat, 12), (a.toNat, 6), (b.toNat, 0)] < 2 ^ 20 := place_cons_lt p.isLt (place_cons_lt q.isLt (place_cons_lt a.isLt (place_cons_lt b.isLt (place_nil_lt 0) (Nat.le_of_ble_eq_true rfl)) (Nat.le_of_ble_eq_true rfl)) (Nat.le_of_ble_eq_true rfl)) (Nat.le_of_ble_eq_true rfl)
  have hop := opcodeOf_slotWord (g := g) ho hf
  refine ⟨congrArg some (guardOf_slotWord ho hf).symm, _, rfl, decodeSlot_eq ?_⟩
  exact decodeRaw_shared hop (by decide) (by decide) (i := fun l => .cmpLen l g p q a b) (fun l => (arm_cmpLen l hop).trans (accept_eq rfl (by rw [guardOf_slotWord ho hf, fld_slotWord ho hf 16 4 (Nat.le_of_ble_eq_true rfl) p (place_hit p.isLt (place_cons_lt q.isLt (place_cons_lt a.isLt (place_cons_lt b.isLt (place_nil_lt 0) (Nat.le_of_ble_eq_true rfl)) (Nat.le_of_ble_eq_true rfl)) (Nat.le_of_ble_eq_true rfl))), fld_slotWord ho hf 12 4 (Nat.le_of_ble_eq_true rfl) q (place_skip (Nat.le_of_ble_eq_true rfl) (place_hit q.isLt (place_cons_lt a.isLt (place_cons_lt b.isLt (place_nil_lt 0) (Nat.le_of_ble_eq_true rfl)) (Nat.le_of_ble_eq_true rfl)))), fld_slotWord ho hf 6 6 (Nat.le_of_ble_eq_true rfl) a (place_skip (Nat.le_of_ble_eq_true rfl) (place_skip (Nat.le_of_ble_eq_true rfl) (place_hit a.isLt (place_cons_lt b.isLt (place_nil_lt 0) (Nat.le_of_ble_eq_true rfl))))), fld_slotWord ho hf 0 6 (Nat.le_of_ble_eq_true rfl) b (place_skip (Nat.le_of_ble_eq_true rfl) (place_skip (Nat.le_of_ble_eq_true rfl) (place_skip (Nat.le_of_ble_eq_true rfl) (place_hit b.isLt (place_nil_lt 0)))))]))) sl

theorem arm_cmpGtn (sl : Lane) {w : BitVec 32} (hop : opcodeOf w = 0x38) : decodeShared sl w = accept (true) (.cmpGtn sl (guardOf w) (fld w 16 4) (fld w 12 4) (fld w 6 6) (fld w 0 6)) := by
  unfold decodeShared
  simp only [hop]

theorem cmpGtn (sl : Lane) (g : Guard) (p : BitVec 4) (q : BitVec 4) (a : BitVec 6) (b : BitVec 6) : Statement (.cmpGtn sl g p q a b) := by
  intro W hW
  obtain rfl : slotWord g 0x38 (place [(p.toNat, 16), (q.toNat, 12), (a.toNat, 6), (b.toNat, 0)]) = W := Option.some.inj hW
  have ho : 0x38 < 2 ^ 7 := Nat.le_of_ble_eq_true rfl
  have hf : place [(p.toNat, 16), (q.toNat, 12), (a.toNat, 6), (b.toNat, 0)] < 2 ^ 20 := place_cons_lt p.isLt (place_cons_lt q.isLt (place_cons_lt a.isLt (place_cons_lt b.isLt (place_nil_lt 0) (Nat.le_of_ble_eq_true rfl)) (Nat.le_of_ble_eq_true rfl)) (Nat.le_of_ble_eq_true rfl)) (Nat.le_of_ble_eq_true rfl)
  have hop := opcodeOf_slotWord (g := g) ho hf
  refine ⟨congrArg some (guardOf_slotWord ho hf).symm, _, rfl, decodeSlot_eq ?_⟩
  exact decodeRaw_shared hop (by decide) (by decide) (i := fun l => .cmpGtn l g p q a b) (fun l => (arm_cmpGtn l hop).trans (accept_eq rfl (by rw [guardOf_slotWord ho hf, fld_slotWord ho hf 16 4 (Nat.le_of_ble_eq_true rfl) p (place_hit p.isLt (place_cons_lt q.isLt (place_cons_lt a.isLt (place_cons_lt b.isLt (place_nil_lt 0) (Nat.le_of_ble_eq_true rfl)) (Nat.le_of_ble_eq_true rfl)) (Nat.le_of_ble_eq_true rfl))), fld_slotWord ho hf 12 4 (Nat.le_of_ble_eq_true rfl) q (place_skip (Nat.le_of_ble_eq_true rfl) (place_hit q.isLt (place_cons_lt a.isLt (place_cons_lt b.isLt (place_nil_lt 0) (Nat.le_of_ble_eq_true rfl)) (Nat.le_of_ble_eq_true rfl)))), fld_slotWord ho hf 6 6 (Nat.le_of_ble_eq_true rfl) a (place_skip (Nat.le_of_ble_eq_true rfl) (place_skip (Nat.le_of_ble_eq_true rfl) (place_hit a.isLt (place_cons_lt b.isLt (place_nil_lt 0) (Nat.le_of_ble_eq_true rfl))))), fld_slotWord ho hf 0 6 (Nat.le_of_ble_eq_true rfl) b (place_skip (Nat.le_of_ble_eq_true rfl) (place_skip (Nat.le_of_ble_eq_true rfl) (place_skip (Nat.le_of_ble_eq_true rfl) (place_hit b.isLt (place_nil_lt 0)))))]))) sl

theorem arm_cmpGen (sl : Lane) {w : BitVec 32} (hop : opcodeOf w = 0x39) : decodeShared sl w = accept (true) (.cmpGen sl (guardOf w) (fld w 16 4) (fld w 12 4) (fld w 6 6) (fld w 0 6)) := by
  unfold decodeShared
  simp only [hop]

theorem cmpGen (sl : Lane) (g : Guard) (p : BitVec 4) (q : BitVec 4) (a : BitVec 6) (b : BitVec 6) : Statement (.cmpGen sl g p q a b) := by
  intro W hW
  obtain rfl : slotWord g 0x39 (place [(p.toNat, 16), (q.toNat, 12), (a.toNat, 6), (b.toNat, 0)]) = W := Option.some.inj hW
  have ho : 0x39 < 2 ^ 7 := Nat.le_of_ble_eq_true rfl
  have hf : place [(p.toNat, 16), (q.toNat, 12), (a.toNat, 6), (b.toNat, 0)] < 2 ^ 20 := place_cons_lt p.isLt (place_cons_lt q.isLt (place_cons_lt a.isLt (place_cons_lt b.isLt (place_nil_lt 0) (Nat.le_of_ble_eq_true rfl)) (Nat.le_of_ble_eq_true rfl)) (Nat.le_of_ble_eq_true rfl)) (Nat.le_of_ble_eq_true rfl)
  have hop := opcodeOf_slotWord (g := g) ho hf
  refine ⟨congrArg some (guardOf_slotWord ho hf).symm, _, rfl, decodeSlot_eq ?_⟩
  exact decodeRaw_shared hop (by decide) (by decide) (i := fun l => .cmpGen l g p q a b) (fun l => (arm_cmpGen l hop).trans (accept_eq rfl (by rw [guardOf_slotWord ho hf, fld_slotWord ho hf 16 4 (Nat.le_of_ble_eq_true rfl) p (place_hit p.isLt (place_cons_lt q.isLt (place_cons_lt a.isLt (place_cons_lt b.isLt (place_nil_lt 0) (Nat.le_of_ble_eq_true rfl)) (Nat.le_of_ble_eq_true rfl)) (Nat.le_of_ble_eq_true rfl))), fld_slotWord ho hf 12 4 (Nat.le_of_ble_eq_true rfl) q (place_skip (Nat.le_of_ble_eq_true rfl) (place_hit q.isLt (place_cons_lt a.isLt (place_cons_lt b.isLt (place_nil_lt 0) (Nat.le_of_ble_eq_true rfl)) (Nat.le_of_ble_eq_true rfl)))), fld_slotWord ho hf 6 6 (Nat.le_of_ble_eq_true rfl) a (place_skip (Nat.le_of_ble_eq_true rfl) (place_skip (Nat.le_of_ble_eq_true rfl) (place_hit a.isLt (place_cons_lt b.isLt (place_nil_lt 0) (Nat.le_of_ble_eq_true rfl))))), fld_slotWord ho hf 0 6 (Nat.le_of_ble_eq_true rfl) b (place_skip (Nat.le_of_ble_eq_true rfl) (place_skip (Nat.le_of_ble_eq_true rfl) (place_skip (Nat.le_of_ble_eq_true rfl) (place_hit b.isLt (place_nil_lt 0)))))]))) sl

theorem arm_pand (sl : Lane) {w : BitVec 32} (hop : opcodeOf w = 0x3C) : decodeShared sl w = accept (holds w 4 2 0 && holds w 10 2 0) (.pand sl (guardOf w) (fld w 16 4) (fld w 12 4) (fld w 6 4) (fld w 0 4)) := by
  unfold decodeShared
  simp only [hop]

theorem pand (sl : Lane) (g : Guard) (p : BitVec 4) (q : BitVec 4) (a : BitVec 4) (b : BitVec 4) : Statement (.pand sl g p q a b) := by
  intro W hW
  obtain rfl : slotWord g 0x3C (place [(p.toNat, 16), (q.toNat, 12), (a.toNat, 6), (b.toNat, 0)]) = W := Option.some.inj hW
  have ho : 0x3C < 2 ^ 7 := Nat.le_of_ble_eq_true rfl
  have hf : place [(p.toNat, 16), (q.toNat, 12), (a.toNat, 6), (b.toNat, 0)] < 2 ^ 20 := place_cons_lt p.isLt (place_cons_lt q.isLt (place_cons_lt a.isLt (place_cons_lt b.isLt (place_nil_lt 0) (Nat.le_of_ble_eq_true rfl)) (Nat.le_of_ble_eq_true rfl)) (Nat.le_of_ble_eq_true rfl)) (Nat.le_of_ble_eq_true rfl)
  have hop := opcodeOf_slotWord (g := g) ho hf
  refine ⟨congrArg some (guardOf_slotWord ho hf).symm, _, rfl, decodeSlot_eq ?_⟩
  exact decodeRaw_shared hop (by decide) (by decide) (i := fun l => .pand l g p q a b) (fun l => (arm_pand l hop).trans (accept_eq (Bool.and_eq_true_iff.mpr ⟨(holds_slotWord ho hf 4 2 0 (Nat.le_of_ble_eq_true rfl) (place_skip (Nat.le_of_ble_eq_true rfl) (place_skip (Nat.le_of_ble_eq_true rfl) (place_skip (Nat.le_of_ble_eq_true rfl) (place_zero (place_cons_lt b.isLt (place_nil_lt 0) (Nat.le_of_ble_eq_true rfl))))))), (holds_slotWord ho hf 10 2 0 (Nat.le_of_ble_eq_true rfl) (place_skip (Nat.le_of_ble_eq_true rfl) (place_skip (Nat.le_of_ble_eq_true rfl) (place_zero (place_cons_lt a.isLt (place_cons_lt b.isLt (place_nil_lt 0) (Nat.le_of_ble_eq_true rfl)) (Nat.le_of_ble_eq_true rfl))))))⟩) (by rw [guardOf_slotWord ho hf, fld_slotWord ho hf 16 4 (Nat.le_of_ble_eq_true rfl) p (place_hit p.isLt (place_cons_lt q.isLt (place_cons_lt a.isLt (place_cons_lt b.isLt (place_nil_lt 0) (Nat.le_of_ble_eq_true rfl)) (Nat.le_of_ble_eq_true rfl)) (Nat.le_of_ble_eq_true rfl))), fld_slotWord ho hf 12 4 (Nat.le_of_ble_eq_true rfl) q (place_skip (Nat.le_of_ble_eq_true rfl) (place_hit q.isLt (place_cons_lt a.isLt (place_cons_lt b.isLt (place_nil_lt 0) (Nat.le_of_ble_eq_true rfl)) (Nat.le_of_ble_eq_true rfl)))), fld_slotWord ho hf 6 4 (Nat.le_of_ble_eq_true rfl) a (place_skip (Nat.le_of_ble_eq_true rfl) (place_skip (Nat.le_of_ble_eq_true rfl) (place_hit a.isLt (place_cons_lt b.isLt (place_nil_lt 0) (Nat.le_of_ble_eq_true rfl))))), fld_slotWord ho hf 0 4 (Nat.le_of_ble_eq_true rfl) b (place_skip (Nat.le_of_ble_eq_true rfl) (place_skip (Nat.le_of_ble_eq_true rfl) (place_skip (Nat.le_of_ble_eq_true rfl) (place_hit b.isLt (place_nil_lt 0)))))]))) sl

theorem arm_por (sl : Lane) {w : BitVec 32} (hop : opcodeOf w = 0x3D) : decodeShared sl w = accept (holds w 4 2 0 && holds w 10 2 0) (.por sl (guardOf w) (fld w 16 4) (fld w 12 4) (fld w 6 4) (fld w 0 4)) := by
  unfold decodeShared
  simp only [hop]

theorem por (sl : Lane) (g : Guard) (p : BitVec 4) (q : BitVec 4) (a : BitVec 4) (b : BitVec 4) : Statement (.por sl g p q a b) := by
  intro W hW
  obtain rfl : slotWord g 0x3D (place [(p.toNat, 16), (q.toNat, 12), (a.toNat, 6), (b.toNat, 0)]) = W := Option.some.inj hW
  have ho : 0x3D < 2 ^ 7 := Nat.le_of_ble_eq_true rfl
  have hf : place [(p.toNat, 16), (q.toNat, 12), (a.toNat, 6), (b.toNat, 0)] < 2 ^ 20 := place_cons_lt p.isLt (place_cons_lt q.isLt (place_cons_lt a.isLt (place_cons_lt b.isLt (place_nil_lt 0) (Nat.le_of_ble_eq_true rfl)) (Nat.le_of_ble_eq_true rfl)) (Nat.le_of_ble_eq_true rfl)) (Nat.le_of_ble_eq_true rfl)
  have hop := opcodeOf_slotWord (g := g) ho hf
  refine ⟨congrArg some (guardOf_slotWord ho hf).symm, _, rfl, decodeSlot_eq ?_⟩
  exact decodeRaw_shared hop (by decide) (by decide) (i := fun l => .por l g p q a b) (fun l => (arm_por l hop).trans (accept_eq (Bool.and_eq_true_iff.mpr ⟨(holds_slotWord ho hf 4 2 0 (Nat.le_of_ble_eq_true rfl) (place_skip (Nat.le_of_ble_eq_true rfl) (place_skip (Nat.le_of_ble_eq_true rfl) (place_skip (Nat.le_of_ble_eq_true rfl) (place_zero (place_cons_lt b.isLt (place_nil_lt 0) (Nat.le_of_ble_eq_true rfl))))))), (holds_slotWord ho hf 10 2 0 (Nat.le_of_ble_eq_true rfl) (place_skip (Nat.le_of_ble_eq_true rfl) (place_skip (Nat.le_of_ble_eq_true rfl) (place_zero (place_cons_lt a.isLt (place_cons_lt b.isLt (place_nil_lt 0) (Nat.le_of_ble_eq_true rfl)) (Nat.le_of_ble_eq_true rfl))))))⟩) (by rw [guardOf_slotWord ho hf, fld_slotWord ho hf 16 4 (Nat.le_of_ble_eq_true rfl) p (place_hit p.isLt (place_cons_lt q.isLt (place_cons_lt a.isLt (place_cons_lt b.isLt (place_nil_lt 0) (Nat.le_of_ble_eq_true rfl)) (Nat.le_of_ble_eq_true rfl)) (Nat.le_of_ble_eq_true rfl))), fld_slotWord ho hf 12 4 (Nat.le_of_ble_eq_true rfl) q (place_skip (Nat.le_of_ble_eq_true rfl) (place_hit q.isLt (place_cons_lt a.isLt (place_cons_lt b.isLt (place_nil_lt 0) (Nat.le_of_ble_eq_true rfl)) (Nat.le_of_ble_eq_true rfl)))), fld_slotWord ho hf 6 4 (Nat.le_of_ble_eq_true rfl) a (place_skip (Nat.le_of_ble_eq_true rfl) (place_skip (Nat.le_of_ble_eq_true rfl) (place_hit a.isLt (place_cons_lt b.isLt (place_nil_lt 0) (Nat.le_of_ble_eq_true rfl))))), fld_slotWord ho hf 0 4 (Nat.le_of_ble_eq_true rfl) b (place_skip (Nat.le_of_ble_eq_true rfl) (place_skip (Nat.le_of_ble_eq_true rfl) (place_skip (Nat.le_of_ble_eq_true rfl) (place_hit b.isLt (place_nil_lt 0)))))]))) sl

theorem arm_pxor (sl : Lane) {w : BitVec 32} (hop : opcodeOf w = 0x3E) : decodeShared sl w = accept (holds w 4 2 0 && holds w 10 2 0) (.pxor sl (guardOf w) (fld w 16 4) (fld w 12 4) (fld w 6 4) (fld w 0 4)) := by
  unfold decodeShared
  simp only [hop]

theorem pxor (sl : Lane) (g : Guard) (p : BitVec 4) (q : BitVec 4) (a : BitVec 4) (b : BitVec 4) : Statement (.pxor sl g p q a b) := by
  intro W hW
  obtain rfl : slotWord g 0x3E (place [(p.toNat, 16), (q.toNat, 12), (a.toNat, 6), (b.toNat, 0)]) = W := Option.some.inj hW
  have ho : 0x3E < 2 ^ 7 := Nat.le_of_ble_eq_true rfl
  have hf : place [(p.toNat, 16), (q.toNat, 12), (a.toNat, 6), (b.toNat, 0)] < 2 ^ 20 := place_cons_lt p.isLt (place_cons_lt q.isLt (place_cons_lt a.isLt (place_cons_lt b.isLt (place_nil_lt 0) (Nat.le_of_ble_eq_true rfl)) (Nat.le_of_ble_eq_true rfl)) (Nat.le_of_ble_eq_true rfl)) (Nat.le_of_ble_eq_true rfl)
  have hop := opcodeOf_slotWord (g := g) ho hf
  refine ⟨congrArg some (guardOf_slotWord ho hf).symm, _, rfl, decodeSlot_eq ?_⟩
  exact decodeRaw_shared hop (by decide) (by decide) (i := fun l => .pxor l g p q a b) (fun l => (arm_pxor l hop).trans (accept_eq (Bool.and_eq_true_iff.mpr ⟨(holds_slotWord ho hf 4 2 0 (Nat.le_of_ble_eq_true rfl) (place_skip (Nat.le_of_ble_eq_true rfl) (place_skip (Nat.le_of_ble_eq_true rfl) (place_skip (Nat.le_of_ble_eq_true rfl) (place_zero (place_cons_lt b.isLt (place_nil_lt 0) (Nat.le_of_ble_eq_true rfl))))))), (holds_slotWord ho hf 10 2 0 (Nat.le_of_ble_eq_true rfl) (place_skip (Nat.le_of_ble_eq_true rfl) (place_skip (Nat.le_of_ble_eq_true rfl) (place_zero (place_cons_lt a.isLt (place_cons_lt b.isLt (place_nil_lt 0) (Nat.le_of_ble_eq_true rfl)) (Nat.le_of_ble_eq_true rfl))))))⟩) (by rw [guardOf_slotWord ho hf, fld_slotWord ho hf 16 4 (Nat.le_of_ble_eq_true rfl) p (place_hit p.isLt (place_cons_lt q.isLt (place_cons_lt a.isLt (place_cons_lt b.isLt (place_nil_lt 0) (Nat.le_of_ble_eq_true rfl)) (Nat.le_of_ble_eq_true rfl)) (Nat.le_of_ble_eq_true rfl))), fld_slotWord ho hf 12 4 (Nat.le_of_ble_eq_true rfl) q (place_skip (Nat.le_of_ble_eq_true rfl) (place_hit q.isLt (place_cons_lt a.isLt (place_cons_lt b.isLt (place_nil_lt 0) (Nat.le_of_ble_eq_true rfl)) (Nat.le_of_ble_eq_true rfl)))), fld_slotWord ho hf 6 4 (Nat.le_of_ble_eq_true rfl) a (place_skip (Nat.le_of_ble_eq_true rfl) (place_skip (Nat.le_of_ble_eq_true rfl) (place_hit a.isLt (place_cons_lt b.isLt (place_nil_lt 0) (Nat.le_of_ble_eq_true rfl))))), fld_slotWord ho hf 0 4 (Nat.le_of_ble_eq_true rfl) b (place_skip (Nat.le_of_ble_eq_true rfl) (place_skip (Nat.le_of_ble_eq_true rfl) (place_skip (Nat.le_of_ble_eq_true rfl) (place_hit b.isLt (place_nil_lt 0)))))]))) sl

theorem arm_pnot (sl : Lane) {w : BitVec 32} (hop : opcodeOf w = 0x3F) : decodeShared sl w = accept (holds w 0 6 0 && holds w 10 2 0) (.pnot sl (guardOf w) (fld w 16 4) (fld w 12 4) (fld w 6 4)) := by
  unfold decodeShared
  simp only [hop]

theorem pnot (sl : Lane) (g : Guard) (p : BitVec 4) (q : BitVec 4) (a : BitVec 4) : Statement (.pnot sl g p q a) := by
  intro W hW
  obtain rfl : slotWord g 0x3F (place [(p.toNat, 16), (q.toNat, 12), (a.toNat, 6)]) = W := Option.some.inj hW
  have ho : 0x3F < 2 ^ 7 := Nat.le_of_ble_eq_true rfl
  have hf : place [(p.toNat, 16), (q.toNat, 12), (a.toNat, 6)] < 2 ^ 20 := place_cons_lt p.isLt (place_cons_lt q.isLt (place_cons_lt a.isLt (place_nil_lt 6) (Nat.le_of_ble_eq_true rfl)) (Nat.le_of_ble_eq_true rfl)) (Nat.le_of_ble_eq_true rfl)
  have hop := opcodeOf_slotWord (g := g) ho hf
  refine ⟨congrArg some (guardOf_slotWord ho hf).symm, _, rfl, decodeSlot_eq ?_⟩
  exact decodeRaw_shared hop (by decide) (by decide) (i := fun l => .pnot l g p q a) (fun l => (arm_pnot l hop).trans (accept_eq (Bool.and_eq_true_iff.mpr ⟨(holds_slotWord ho hf 0 6 0 (Nat.le_of_ble_eq_true rfl) (place_skip (Nat.le_of_ble_eq_true rfl) (place_skip (Nat.le_of_ble_eq_true rfl) (place_skip (Nat.le_of_ble_eq_true rfl) (place_zero (place_nil_lt 0)))))), (holds_slotWord ho hf 10 2 0 (Nat.le_of_ble_eq_true rfl) (place_skip (Nat.le_of_ble_eq_true rfl) (place_skip (Nat.le_of_ble_eq_true rfl) (place_zero (place_cons_lt a.isLt (place_nil_lt 6) (Nat.le_of_ble_eq_true rfl))))))⟩) (by rw [guardOf_slotWord ho hf, fld_slotWord ho hf 16 4 (Nat.le_of_ble_eq_true rfl) p (place_hit p.isLt (place_cons_lt q.isLt (place_cons_lt a.isLt (place_nil_lt 6) (Nat.le_of_ble_eq_true rfl)) (Nat.le_of_ble_eq_true rfl))), fld_slotWord ho hf 12 4 (Nat.le_of_ble_eq_true rfl) q (place_skip (Nat.le_of_ble_eq_true rfl) (place_hit q.isLt (place_cons_lt a.isLt (place_nil_lt 6) (Nat.le_of_ble_eq_true rfl)))), fld_slotWord ho hf 6 4 (Nat.le_of_ble_eq_true rfl) a (place_skip (Nat.le_of_ble_eq_true rfl) (place_skip (Nat.le_of_ble_eq_true rfl) (place_hit a.isLt (place_nil_lt 6))))]))) sl

theorem arm_qset {w : BitVec 32} (hop : opcodeOf w = 0x40) : decodeA w = accept (holds w 0 8 0) (.qset (guardOf w) (fld w 14 6) (fld w 8 6)) := by
  unfold decodeA
  simp only [hop]

theorem qset (g : Guard) (d : BitVec 6) (a : BitVec 6) : Statement (.qset g d a) := by
  intro W hW
  obtain rfl : slotWord g 0x40 (place [(d.toNat, 14), (a.toNat, 8)]) = W := Option.some.inj hW
  have ho : 0x40 < 2 ^ 7 := Nat.le_of_ble_eq_true rfl
  have hf : place [(d.toNat, 14), (a.toNat, 8)] < 2 ^ 20 := place_cons_lt d.isLt (place_cons_lt a.isLt (place_nil_lt 8) (Nat.le_of_ble_eq_true rfl)) (Nat.le_of_ble_eq_true rfl)
  have hop := opcodeOf_slotWord (g := g) ho hf
  refine ⟨congrArg some (guardOf_slotWord ho hf).symm, _, rfl, decodeSlot_eq ?_⟩
  exact (decodeRaw_A hop (by decide)).trans ((arm_qset hop).trans (accept_eq (holds_slotWord ho hf 0 8 0 (Nat.le_of_ble_eq_true rfl) (place_skip (Nat.le_of_ble_eq_true rfl) (place_skip (Nat.le_of_ble_eq_true rfl) (place_zero (place_nil_lt 0))))) (by rw [guardOf_slotWord ho hf, fld_slotWord ho hf 14 6 (Nat.le_of_ble_eq_true rfl) d (place_hit d.isLt (place_cons_lt a.isLt (place_nil_lt 8) (Nat.le_of_ble_eq_true rfl))), fld_slotWord ho hf 8 6 (Nat.le_of_ble_eq_true rfl) a (place_skip (Nat.le_of_ble_eq_true rfl) (place_hit a.isLt (place_nil_lt 8)))])))

theorem arm_xset {w : BitVec 32} (hop : opcodeOf w = 0x41) : decodeA w = accept (holds w 0 8 0) (.xset (guardOf w) (fld w 14 6) (fld w 8 6)) := by
  unfold decodeA
  simp only [hop]

theorem xset (g : Guard) (d : BitVec 6) (a : BitVec 6) : Statement (.xset g d a) := by
  intro W hW
  obtain rfl : slotWord g 0x41 (place [(d.toNat, 14), (a.toNat, 8)]) = W := Option.some.inj hW
  have ho : 0x41 < 2 ^ 7 := Nat.le_of_ble_eq_true rfl
  have hf : place [(d.toNat, 14), (a.toNat, 8)] < 2 ^ 20 := place_cons_lt d.isLt (place_cons_lt a.isLt (place_nil_lt 8) (Nat.le_of_ble_eq_true rfl)) (Nat.le_of_ble_eq_true rfl)
  have hop := opcodeOf_slotWord (g := g) ho hf
  refine ⟨congrArg some (guardOf_slotWord ho hf).symm, _, rfl, decodeSlot_eq ?_⟩
  exact (decodeRaw_A hop (by decide)).trans ((arm_xset hop).trans (accept_eq (holds_slotWord ho hf 0 8 0 (Nat.le_of_ble_eq_true rfl) (place_skip (Nat.le_of_ble_eq_true rfl) (place_skip (Nat.le_of_ble_eq_true rfl) (place_zero (place_nil_lt 0))))) (by rw [guardOf_slotWord ho hf, fld_slotWord ho hf 14 6 (Nat.le_of_ble_eq_true rfl) d (place_hit d.isLt (place_cons_lt a.isLt (place_nil_lt 8) (Nat.le_of_ble_eq_true rfl))), fld_slotWord ho hf 8 6 (Nat.le_of_ble_eq_true rfl) a (place_skip (Nat.le_of_ble_eq_true rfl) (place_hit a.isLt (place_nil_lt 8)))])))

theorem arm_hset {w : BitVec 32} (hop : opcodeOf w = 0x42) : decodeA w = accept (holds w 0 8 0) (.hset (guardOf w) (fld w 14 6) (fld w 8 6)) := by
  unfold decodeA
  simp only [hop]

theorem hset (g : Guard) (d : BitVec 6) (a : BitVec 6) : Statement (.hset g d a) := by
  intro W hW
  obtain rfl : slotWord g 0x42 (place [(d.toNat, 14), (a.toNat, 8)]) = W := Option.some.inj hW
  have ho : 0x42 < 2 ^ 7 := Nat.le_of_ble_eq_true rfl
  have hf : place [(d.toNat, 14), (a.toNat, 8)] < 2 ^ 20 := place_cons_lt d.isLt (place_cons_lt a.isLt (place_nil_lt 8) (Nat.le_of_ble_eq_true rfl)) (Nat.le_of_ble_eq_true rfl)
  have hop := opcodeOf_slotWord (g := g) ho hf
  refine ⟨congrArg some (guardOf_slotWord ho hf).symm, _, rfl, decodeSlot_eq ?_⟩
  exact (decodeRaw_A hop (by decide)).trans ((arm_hset hop).trans (accept_eq (holds_slotWord ho hf 0 8 0 (Nat.le_of_ble_eq_true rfl) (place_skip (Nat.le_of_ble_eq_true rfl) (place_skip (Nat.le_of_ble_eq_true rfl) (place_zero (place_nil_lt 0))))) (by rw [guardOf_slotWord ho hf, fld_slotWord ho hf 14 6 (Nat.le_of_ble_eq_true rfl) d (place_hit d.isLt (place_cons_lt a.isLt (place_nil_lt 8) (Nat.le_of_ble_eq_true rfl))), fld_slotWord ho hf 8 6 (Nat.le_of_ble_eq_true rfl) a (place_skip (Nat.le_of_ble_eq_true rfl) (place_hit a.isLt (place_nil_lt 8)))])))

theorem arm_vcfg {w : BitVec 32} (hop : opcodeOf w = 0x43) : decodeA w = accept (holds w 0 8 0 && holds w 14 6 0) (.vcfg (guardOf w) (fld w 8 6)) := by
  unfold decodeA
  simp only [hop]

theorem vcfg (g : Guard) (a : BitVec 6) : Statement (.vcfg g a) := by
  intro W hW
  obtain rfl : slotWord g 0x43 (place [(a.toNat, 8)]) = W := Option.some.inj hW
  have ho : 0x43 < 2 ^ 7 := Nat.le_of_ble_eq_true rfl
  have hf : place [(a.toNat, 8)] < 2 ^ 20 := place_cons_lt a.isLt (place_nil_lt 8) (Nat.le_of_ble_eq_true rfl)
  have hop := opcodeOf_slotWord (g := g) ho hf
  refine ⟨congrArg some (guardOf_slotWord ho hf).symm, _, rfl, decodeSlot_eq ?_⟩
  exact (decodeRaw_A hop (by decide)).trans ((arm_vcfg hop).trans (accept_eq (Bool.and_eq_true_iff.mpr ⟨(holds_slotWord ho hf 0 8 0 (Nat.le_of_ble_eq_true rfl) (place_skip (Nat.le_of_ble_eq_true rfl) (place_zero (place_nil_lt 0)))), (holds_slotWord ho hf 14 6 0 (Nat.le_of_ble_eq_true rfl) (place_zero (place_cons_lt a.isLt (place_nil_lt 8) (Nat.le_of_ble_eq_true rfl))))⟩) (by rw [guardOf_slotWord ho hf, fld_slotWord ho hf 8 6 (Nat.le_of_ble_eq_true rfl) a (place_hit a.isLt (place_nil_lt 8))])))

theorem arm_btsetOffset {w : BitVec 32} (hop : opcodeOf w = 0x44) : decodeA w = accept (true) (.btsetOffset (guardOf w) (fld w 14 6) (fld w 0 14)) := by
  unfold decodeA
  simp only [hop]

theorem btsetOffset (g : Guard) (d : BitVec 6) (i : BitVec 14) : Statement (.btsetOffset g d i) := by
  intro W hW
  obtain rfl : slotWord g 0x44 (place [(d.toNat, 14), (i.toNat, 0)]) = W := Option.some.inj hW
  have ho : 0x44 < 2 ^ 7 := Nat.le_of_ble_eq_true rfl
  have hf : place [(d.toNat, 14), (i.toNat, 0)] < 2 ^ 20 := place_cons_lt d.isLt (place_cons_lt i.isLt (place_nil_lt 0) (Nat.le_of_ble_eq_true rfl)) (Nat.le_of_ble_eq_true rfl)
  have hop := opcodeOf_slotWord (g := g) ho hf
  refine ⟨congrArg some (guardOf_slotWord ho hf).symm, _, rfl, decodeSlot_eq ?_⟩
  exact (decodeRaw_A hop (by decide)).trans ((arm_btsetOffset hop).trans (accept_eq rfl (by rw [guardOf_slotWord ho hf, fld_slotWord ho hf 14 6 (Nat.le_of_ble_eq_true rfl) d (place_hit d.isLt (place_cons_lt i.isLt (place_nil_lt 0) (Nat.le_of_ble_eq_true rfl))), fld_slotWord ho hf 0 14 (Nat.le_of_ble_eq_true rfl) i (place_skip (Nat.le_of_ble_eq_true rfl) (place_hit i.isLt (place_nil_lt 0)))])))

theorem arm_btsetRegister {w : BitVec 32} (hop : opcodeOf w = 0x45) : decodeA w = accept (holds w 0 8 0) (.btsetRegister (guardOf w) (fld w 14 6) (fld w 8 6)) := by
  unfold decodeA
  simp only [hop]

theorem btsetRegister (g : Guard) (d : BitVec 6) (a : BitVec 6) : Statement (.btsetRegister g d a) := by
  intro W hW
  obtain rfl : slotWord g 0x45 (place [(d.toNat, 14), (a.toNat, 8)]) = W := Option.some.inj hW
  have ho : 0x45 < 2 ^ 7 := Nat.le_of_ble_eq_true rfl
  have hf : place [(d.toNat, 14), (a.toNat, 8)] < 2 ^ 20 := place_cons_lt d.isLt (place_cons_lt a.isLt (place_nil_lt 8) (Nat.le_of_ble_eq_true rfl)) (Nat.le_of_ble_eq_true rfl)
  have hop := opcodeOf_slotWord (g := g) ho hf
  refine ⟨congrArg some (guardOf_slotWord ho hf).symm, _, rfl, decodeSlot_eq ?_⟩
  exact (decodeRaw_A hop (by decide)).trans ((arm_btsetRegister hop).trans (accept_eq (holds_slotWord ho hf 0 8 0 (Nat.le_of_ble_eq_true rfl) (place_skip (Nat.le_of_ble_eq_true rfl) (place_skip (Nat.le_of_ble_eq_true rfl) (place_zero (place_nil_lt 0))))) (by rw [guardOf_slotWord ho hf, fld_slotWord ho hf 14 6 (Nat.le_of_ble_eq_true rfl) d (place_hit d.isLt (place_cons_lt a.isLt (place_nil_lt 8) (Nat.le_of_ble_eq_true rfl))), fld_slotWord ho hf 8 6 (Nat.le_of_ble_eq_true rfl) a (place_skip (Nat.le_of_ble_eq_true rfl) (place_hit a.isLt (place_nil_lt 8)))])))

theorem arm_rdsr {w : BitVec 32} (hop : opcodeOf w = 0x46) : decodeA w = accept (true) (.rdsr (guardOf w) (fld w 14 6) (fld w 0 14)) := by
  unfold decodeA
  simp only [hop]

theorem rdsr (g : Guard) (d : BitVec 6) (c : BitVec 14) : Statement (.rdsr g d c) := by
  intro W hW
  obtain rfl : slotWord g 0x46 (place [(d.toNat, 14), (c.toNat, 0)]) = W := Option.some.inj hW
  have ho : 0x46 < 2 ^ 7 := Nat.le_of_ble_eq_true rfl
  have hf : place [(d.toNat, 14), (c.toNat, 0)] < 2 ^ 20 := place_cons_lt d.isLt (place_cons_lt c.isLt (place_nil_lt 0) (Nat.le_of_ble_eq_true rfl)) (Nat.le_of_ble_eq_true rfl)
  have hop := opcodeOf_slotWord (g := g) ho hf
  refine ⟨congrArg some (guardOf_slotWord ho hf).symm, _, rfl, decodeSlot_eq ?_⟩
  exact (decodeRaw_A hop (by decide)).trans ((arm_rdsr hop).trans (accept_eq rfl (by rw [guardOf_slotWord ho hf, fld_slotWord ho hf 14 6 (Nat.le_of_ble_eq_true rfl) d (place_hit d.isLt (place_cons_lt c.isLt (place_nil_lt 0) (Nat.le_of_ble_eq_true rfl))), fld_slotWord ho hf 0 14 (Nat.le_of_ble_eq_true rfl) c (place_skip (Nat.le_of_ble_eq_true rfl) (place_hit c.isLt (place_nil_lt 0)))])))

theorem arm_wrsr {w : BitVec 32} (hop : opcodeOf w = 0x47) : decodeA w = accept (true) (.wrsr (guardOf w) (fld w 14 6) (fld w 0 14)) := by
  unfold decodeA
  simp only [hop]

theorem wrsr (g : Guard) (sr : BitVec 6) (c : BitVec 14) : Statement (.wrsr g sr c) := by
  intro W hW
  obtain rfl : slotWord g 0x47 (place [(sr.toNat, 14), (c.toNat, 0)]) = W := Option.some.inj hW
  have ho : 0x47 < 2 ^ 7 := Nat.le_of_ble_eq_true rfl
  have hf : place [(sr.toNat, 14), (c.toNat, 0)] < 2 ^ 20 := place_cons_lt sr.isLt (place_cons_lt c.isLt (place_nil_lt 0) (Nat.le_of_ble_eq_true rfl)) (Nat.le_of_ble_eq_true rfl)
  have hop := opcodeOf_slotWord (g := g) ho hf
  refine ⟨congrArg some (guardOf_slotWord ho hf).symm, _, rfl, decodeSlot_eq ?_⟩
  exact (decodeRaw_A hop (by decide)).trans ((arm_wrsr hop).trans (accept_eq rfl (by rw [guardOf_slotWord ho hf, fld_slotWord ho hf 14 6 (Nat.le_of_ble_eq_true rfl) sr (place_hit sr.isLt (place_cons_lt c.isLt (place_nil_lt 0) (Nat.le_of_ble_eq_true rfl))), fld_slotWord ho hf 0 14 (Nat.le_of_ble_eq_true rfl) c (place_skip (Nat.le_of_ble_eq_true rfl) (place_hit c.isLt (place_nil_lt 0)))])))

theorem arm_tread {w : BitVec 32} (hop : opcodeOf w = 0x48) : decodeA w = accept (holds w 0 14 0) (.tread (guardOf w) (fld w 14 6)) := by
  unfold decodeA
  simp only [hop]

theorem tread (g : Guard) (d : BitVec 6) : Statement (.tread g d) := by
  intro W hW
  obtain rfl : slotWord g 0x48 (place [(d.toNat, 14)]) = W := Option.some.inj hW
  have ho : 0x48 < 2 ^ 7 := Nat.le_of_ble_eq_true rfl
  have hf : place [(d.toNat, 14)] < 2 ^ 20 := place_cons_lt d.isLt (place_nil_lt 14) (Nat.le_of_ble_eq_true rfl)
  have hop := opcodeOf_slotWord (g := g) ho hf
  refine ⟨congrArg some (guardOf_slotWord ho hf).symm, _, rfl, decodeSlot_eq ?_⟩
  exact (decodeRaw_A hop (by decide)).trans ((arm_tread hop).trans (accept_eq (holds_slotWord ho hf 0 14 0 (Nat.le_of_ble_eq_true rfl) (place_skip (Nat.le_of_ble_eq_true rfl) (place_zero (place_nil_lt 0)))) (by rw [guardOf_slotWord ho hf, fld_slotWord ho hf 14 6 (Nat.le_of_ble_eq_true rfl) d (place_hit d.isLt (place_nil_lt 14))])))

theorem arm_ld1 {w : BitVec 32} (hop : opcodeOf w = 0x40) : decodeB w = accept (true) (.ld1 (guardOf w) (fld w 14 6) (fld w 8 6) (fld w 0 8)) := by
  unfold decodeB
  simp only [hop]

theorem ld1 (g : Guard) (d : BitVec 6) (b : BitVec 6) (o : BitVec 8) : Statement (.ld1 g d b o) := by
  intro W hW
  obtain rfl : slotWord g 0x40 (place [(d.toNat, 14), (b.toNat, 8), (o.toNat, 0)]) = W := Option.some.inj hW
  have ho : 0x40 < 2 ^ 7 := Nat.le_of_ble_eq_true rfl
  have hf : place [(d.toNat, 14), (b.toNat, 8), (o.toNat, 0)] < 2 ^ 20 := place_cons_lt d.isLt (place_cons_lt b.isLt (place_cons_lt o.isLt (place_nil_lt 0) (Nat.le_of_ble_eq_true rfl)) (Nat.le_of_ble_eq_true rfl)) (Nat.le_of_ble_eq_true rfl)
  have hop := opcodeOf_slotWord (g := g) ho hf
  refine ⟨congrArg some (guardOf_slotWord ho hf).symm, _, rfl, decodeSlot_eq ?_⟩
  exact (decodeRaw_B hop (by decide)).trans ((arm_ld1 hop).trans (accept_eq rfl (by rw [guardOf_slotWord ho hf, fld_slotWord ho hf 14 6 (Nat.le_of_ble_eq_true rfl) d (place_hit d.isLt (place_cons_lt b.isLt (place_cons_lt o.isLt (place_nil_lt 0) (Nat.le_of_ble_eq_true rfl)) (Nat.le_of_ble_eq_true rfl))), fld_slotWord ho hf 8 6 (Nat.le_of_ble_eq_true rfl) b (place_skip (Nat.le_of_ble_eq_true rfl) (place_hit b.isLt (place_cons_lt o.isLt (place_nil_lt 0) (Nat.le_of_ble_eq_true rfl)))), fld_slotWord ho hf 0 8 (Nat.le_of_ble_eq_true rfl) o (place_skip (Nat.le_of_ble_eq_true rfl) (place_skip (Nat.le_of_ble_eq_true rfl) (place_hit o.isLt (place_nil_lt 0))))])))

theorem arm_ld2 {w : BitVec 32} (hop : opcodeOf w = 0x41) : decodeB w = accept (true) (.ld2 (guardOf w) (fld w 14 6) (fld w 8 6) (fld w 0 8)) := by
  unfold decodeB
  simp only [hop]

theorem ld2 (g : Guard) (d : BitVec 6) (b : BitVec 6) (o : BitVec 8) : Statement (.ld2 g d b o) := by
  intro W hW
  obtain rfl : slotWord g 0x41 (place [(d.toNat, 14), (b.toNat, 8), (o.toNat, 0)]) = W := Option.some.inj hW
  have ho : 0x41 < 2 ^ 7 := Nat.le_of_ble_eq_true rfl
  have hf : place [(d.toNat, 14), (b.toNat, 8), (o.toNat, 0)] < 2 ^ 20 := place_cons_lt d.isLt (place_cons_lt b.isLt (place_cons_lt o.isLt (place_nil_lt 0) (Nat.le_of_ble_eq_true rfl)) (Nat.le_of_ble_eq_true rfl)) (Nat.le_of_ble_eq_true rfl)
  have hop := opcodeOf_slotWord (g := g) ho hf
  refine ⟨congrArg some (guardOf_slotWord ho hf).symm, _, rfl, decodeSlot_eq ?_⟩
  exact (decodeRaw_B hop (by decide)).trans ((arm_ld2 hop).trans (accept_eq rfl (by rw [guardOf_slotWord ho hf, fld_slotWord ho hf 14 6 (Nat.le_of_ble_eq_true rfl) d (place_hit d.isLt (place_cons_lt b.isLt (place_cons_lt o.isLt (place_nil_lt 0) (Nat.le_of_ble_eq_true rfl)) (Nat.le_of_ble_eq_true rfl))), fld_slotWord ho hf 8 6 (Nat.le_of_ble_eq_true rfl) b (place_skip (Nat.le_of_ble_eq_true rfl) (place_hit b.isLt (place_cons_lt o.isLt (place_nil_lt 0) (Nat.le_of_ble_eq_true rfl)))), fld_slotWord ho hf 0 8 (Nat.le_of_ble_eq_true rfl) o (place_skip (Nat.le_of_ble_eq_true rfl) (place_skip (Nat.le_of_ble_eq_true rfl) (place_hit o.isLt (place_nil_lt 0))))])))

theorem arm_ld4 {w : BitVec 32} (hop : opcodeOf w = 0x42) : decodeB w = accept (true) (.ld4 (guardOf w) (fld w 14 6) (fld w 8 6) (fld w 0 8)) := by
  unfold decodeB
  simp only [hop]

theorem ld4 (g : Guard) (d : BitVec 6) (b : BitVec 6) (o : BitVec 8) : Statement (.ld4 g d b o) := by
  intro W hW
  obtain rfl : slotWord g 0x42 (place [(d.toNat, 14), (b.toNat, 8), (o.toNat, 0)]) = W := Option.some.inj hW
  have ho : 0x42 < 2 ^ 7 := Nat.le_of_ble_eq_true rfl
  have hf : place [(d.toNat, 14), (b.toNat, 8), (o.toNat, 0)] < 2 ^ 20 := place_cons_lt d.isLt (place_cons_lt b.isLt (place_cons_lt o.isLt (place_nil_lt 0) (Nat.le_of_ble_eq_true rfl)) (Nat.le_of_ble_eq_true rfl)) (Nat.le_of_ble_eq_true rfl)
  have hop := opcodeOf_slotWord (g := g) ho hf
  refine ⟨congrArg some (guardOf_slotWord ho hf).symm, _, rfl, decodeSlot_eq ?_⟩
  exact (decodeRaw_B hop (by decide)).trans ((arm_ld4 hop).trans (accept_eq rfl (by rw [guardOf_slotWord ho hf, fld_slotWord ho hf 14 6 (Nat.le_of_ble_eq_true rfl) d (place_hit d.isLt (place_cons_lt b.isLt (place_cons_lt o.isLt (place_nil_lt 0) (Nat.le_of_ble_eq_true rfl)) (Nat.le_of_ble_eq_true rfl))), fld_slotWord ho hf 8 6 (Nat.le_of_ble_eq_true rfl) b (place_skip (Nat.le_of_ble_eq_true rfl) (place_hit b.isLt (place_cons_lt o.isLt (place_nil_lt 0) (Nat.le_of_ble_eq_true rfl)))), fld_slotWord ho hf 0 8 (Nat.le_of_ble_eq_true rfl) o (place_skip (Nat.le_of_ble_eq_true rfl) (place_skip (Nat.le_of_ble_eq_true rfl) (place_hit o.isLt (place_nil_lt 0))))])))

theorem arm_ld {w : BitVec 32} (hop : opcodeOf w = 0x43) : decodeB w = accept (true) (.ld (guardOf w) (fld w 14 6) (fld w 8 6) (fld w 0 8)) := by
  unfold decodeB
  simp only [hop]

theorem ld (g : Guard) (d : BitVec 6) (b : BitVec 6) (o : BitVec 8) : Statement (.ld g d b o) := by
  intro W hW
  obtain rfl : slotWord g 0x43 (place [(d.toNat, 14), (b.toNat, 8), (o.toNat, 0)]) = W := Option.some.inj hW
  have ho : 0x43 < 2 ^ 7 := Nat.le_of_ble_eq_true rfl
  have hf : place [(d.toNat, 14), (b.toNat, 8), (o.toNat, 0)] < 2 ^ 20 := place_cons_lt d.isLt (place_cons_lt b.isLt (place_cons_lt o.isLt (place_nil_lt 0) (Nat.le_of_ble_eq_true rfl)) (Nat.le_of_ble_eq_true rfl)) (Nat.le_of_ble_eq_true rfl)
  have hop := opcodeOf_slotWord (g := g) ho hf
  refine ⟨congrArg some (guardOf_slotWord ho hf).symm, _, rfl, decodeSlot_eq ?_⟩
  exact (decodeRaw_B hop (by decide)).trans ((arm_ld hop).trans (accept_eq rfl (by rw [guardOf_slotWord ho hf, fld_slotWord ho hf 14 6 (Nat.le_of_ble_eq_true rfl) d (place_hit d.isLt (place_cons_lt b.isLt (place_cons_lt o.isLt (place_nil_lt 0) (Nat.le_of_ble_eq_true rfl)) (Nat.le_of_ble_eq_true rfl))), fld_slotWord ho hf 8 6 (Nat.le_of_ble_eq_true rfl) b (place_skip (Nat.le_of_ble_eq_true rfl) (place_hit b.isLt (place_cons_lt o.isLt (place_nil_lt 0) (Nat.le_of_ble_eq_true rfl)))), fld_slotWord ho hf 0 8 (Nat.le_of_ble_eq_true rfl) o (place_skip (Nat.le_of_ble_eq_true rfl) (place_skip (Nat.le_of_ble_eq_true rfl) (place_hit o.isLt (place_nil_lt 0))))])))

theorem arm_ld4Acq {w : BitVec 32} (hop : opcodeOf w = 0x44) : decodeB w = accept (true) (.ld4Acq (guardOf w) (fld w 14 6) (fld w 8 6) (fld w 0 8)) := by
  unfold decodeB
  simp only [hop]

theorem ld4Acq (g : Guard) (d : BitVec 6) (b : BitVec 6) (o : BitVec 8) : Statement (.ld4Acq g d b o) := by
  intro W hW
  obtain rfl : slotWord g 0x44 (place [(d.toNat, 14), (b.toNat, 8), (o.toNat, 0)]) = W := Option.some.inj hW
  have ho : 0x44 < 2 ^ 7 := Nat.le_of_ble_eq_true rfl
  have hf : place [(d.toNat, 14), (b.toNat, 8), (o.toNat, 0)] < 2 ^ 20 := place_cons_lt d.isLt (place_cons_lt b.isLt (place_cons_lt o.isLt (place_nil_lt 0) (Nat.le_of_ble_eq_true rfl)) (Nat.le_of_ble_eq_true rfl)) (Nat.le_of_ble_eq_true rfl)
  have hop := opcodeOf_slotWord (g := g) ho hf
  refine ⟨congrArg some (guardOf_slotWord ho hf).symm, _, rfl, decodeSlot_eq ?_⟩
  exact (decodeRaw_B hop (by decide)).trans ((arm_ld4Acq hop).trans (accept_eq rfl (by rw [guardOf_slotWord ho hf, fld_slotWord ho hf 14 6 (Nat.le_of_ble_eq_true rfl) d (place_hit d.isLt (place_cons_lt b.isLt (place_cons_lt o.isLt (place_nil_lt 0) (Nat.le_of_ble_eq_true rfl)) (Nat.le_of_ble_eq_true rfl))), fld_slotWord ho hf 8 6 (Nat.le_of_ble_eq_true rfl) b (place_skip (Nat.le_of_ble_eq_true rfl) (place_hit b.isLt (place_cons_lt o.isLt (place_nil_lt 0) (Nat.le_of_ble_eq_true rfl)))), fld_slotWord ho hf 0 8 (Nat.le_of_ble_eq_true rfl) o (place_skip (Nat.le_of_ble_eq_true rfl) (place_skip (Nat.le_of_ble_eq_true rfl) (place_hit o.isLt (place_nil_lt 0))))])))

theorem arm_ldAcq {w : BitVec 32} (hop : opcodeOf w = 0x45) : decodeB w = accept (true) (.ldAcq (guardOf w) (fld w 14 6) (fld w 8 6) (fld w 0 8)) := by
  unfold decodeB
  simp only [hop]

theorem ldAcq (g : Guard) (d : BitVec 6) (b : BitVec 6) (o : BitVec 8) : Statement (.ldAcq g d b o) := by
  intro W hW
  obtain rfl : slotWord g 0x45 (place [(d.toNat, 14), (b.toNat, 8), (o.toNat, 0)]) = W := Option.some.inj hW
  have ho : 0x45 < 2 ^ 7 := Nat.le_of_ble_eq_true rfl
  have hf : place [(d.toNat, 14), (b.toNat, 8), (o.toNat, 0)] < 2 ^ 20 := place_cons_lt d.isLt (place_cons_lt b.isLt (place_cons_lt o.isLt (place_nil_lt 0) (Nat.le_of_ble_eq_true rfl)) (Nat.le_of_ble_eq_true rfl)) (Nat.le_of_ble_eq_true rfl)
  have hop := opcodeOf_slotWord (g := g) ho hf
  refine ⟨congrArg some (guardOf_slotWord ho hf).symm, _, rfl, decodeSlot_eq ?_⟩
  exact (decodeRaw_B hop (by decide)).trans ((arm_ldAcq hop).trans (accept_eq rfl (by rw [guardOf_slotWord ho hf, fld_slotWord ho hf 14 6 (Nat.le_of_ble_eq_true rfl) d (place_hit d.isLt (place_cons_lt b.isLt (place_cons_lt o.isLt (place_nil_lt 0) (Nat.le_of_ble_eq_true rfl)) (Nat.le_of_ble_eq_true rfl))), fld_slotWord ho hf 8 6 (Nat.le_of_ble_eq_true rfl) b (place_skip (Nat.le_of_ble_eq_true rfl) (place_hit b.isLt (place_cons_lt o.isLt (place_nil_lt 0) (Nat.le_of_ble_eq_true rfl)))), fld_slotWord ho hf 0 8 (Nat.le_of_ble_eq_true rfl) o (place_skip (Nat.le_of_ble_eq_true rfl) (place_skip (Nat.le_of_ble_eq_true rfl) (place_hit o.isLt (place_nil_lt 0))))])))

theorem arm_st1 {w : BitVec 32} (hop : opcodeOf w = 0x46) : decodeB w = accept (true) (.st1 (guardOf w) (fld w 14 6) (fld w 8 6) (fld w 0 8)) := by
  unfold decodeB
  simp only [hop]

theorem st1 (g : Guard) (d : BitVec 6) (b : BitVec 6) (o : BitVec 8) : Statement (.st1 g d b o) := by
  intro W hW
  obtain rfl : slotWord g 0x46 (place [(d.toNat, 14), (b.toNat, 8), (o.toNat, 0)]) = W := Option.some.inj hW
  have ho : 0x46 < 2 ^ 7 := Nat.le_of_ble_eq_true rfl
  have hf : place [(d.toNat, 14), (b.toNat, 8), (o.toNat, 0)] < 2 ^ 20 := place_cons_lt d.isLt (place_cons_lt b.isLt (place_cons_lt o.isLt (place_nil_lt 0) (Nat.le_of_ble_eq_true rfl)) (Nat.le_of_ble_eq_true rfl)) (Nat.le_of_ble_eq_true rfl)
  have hop := opcodeOf_slotWord (g := g) ho hf
  refine ⟨congrArg some (guardOf_slotWord ho hf).symm, _, rfl, decodeSlot_eq ?_⟩
  exact (decodeRaw_B hop (by decide)).trans ((arm_st1 hop).trans (accept_eq rfl (by rw [guardOf_slotWord ho hf, fld_slotWord ho hf 14 6 (Nat.le_of_ble_eq_true rfl) d (place_hit d.isLt (place_cons_lt b.isLt (place_cons_lt o.isLt (place_nil_lt 0) (Nat.le_of_ble_eq_true rfl)) (Nat.le_of_ble_eq_true rfl))), fld_slotWord ho hf 8 6 (Nat.le_of_ble_eq_true rfl) b (place_skip (Nat.le_of_ble_eq_true rfl) (place_hit b.isLt (place_cons_lt o.isLt (place_nil_lt 0) (Nat.le_of_ble_eq_true rfl)))), fld_slotWord ho hf 0 8 (Nat.le_of_ble_eq_true rfl) o (place_skip (Nat.le_of_ble_eq_true rfl) (place_skip (Nat.le_of_ble_eq_true rfl) (place_hit o.isLt (place_nil_lt 0))))])))

theorem arm_st2 {w : BitVec 32} (hop : opcodeOf w = 0x47) : decodeB w = accept (true) (.st2 (guardOf w) (fld w 14 6) (fld w 8 6) (fld w 0 8)) := by
  unfold decodeB
  simp only [hop]

theorem st2 (g : Guard) (d : BitVec 6) (b : BitVec 6) (o : BitVec 8) : Statement (.st2 g d b o) := by
  intro W hW
  obtain rfl : slotWord g 0x47 (place [(d.toNat, 14), (b.toNat, 8), (o.toNat, 0)]) = W := Option.some.inj hW
  have ho : 0x47 < 2 ^ 7 := Nat.le_of_ble_eq_true rfl
  have hf : place [(d.toNat, 14), (b.toNat, 8), (o.toNat, 0)] < 2 ^ 20 := place_cons_lt d.isLt (place_cons_lt b.isLt (place_cons_lt o.isLt (place_nil_lt 0) (Nat.le_of_ble_eq_true rfl)) (Nat.le_of_ble_eq_true rfl)) (Nat.le_of_ble_eq_true rfl)
  have hop := opcodeOf_slotWord (g := g) ho hf
  refine ⟨congrArg some (guardOf_slotWord ho hf).symm, _, rfl, decodeSlot_eq ?_⟩
  exact (decodeRaw_B hop (by decide)).trans ((arm_st2 hop).trans (accept_eq rfl (by rw [guardOf_slotWord ho hf, fld_slotWord ho hf 14 6 (Nat.le_of_ble_eq_true rfl) d (place_hit d.isLt (place_cons_lt b.isLt (place_cons_lt o.isLt (place_nil_lt 0) (Nat.le_of_ble_eq_true rfl)) (Nat.le_of_ble_eq_true rfl))), fld_slotWord ho hf 8 6 (Nat.le_of_ble_eq_true rfl) b (place_skip (Nat.le_of_ble_eq_true rfl) (place_hit b.isLt (place_cons_lt o.isLt (place_nil_lt 0) (Nat.le_of_ble_eq_true rfl)))), fld_slotWord ho hf 0 8 (Nat.le_of_ble_eq_true rfl) o (place_skip (Nat.le_of_ble_eq_true rfl) (place_skip (Nat.le_of_ble_eq_true rfl) (place_hit o.isLt (place_nil_lt 0))))])))

theorem arm_st4 {w : BitVec 32} (hop : opcodeOf w = 0x48) : decodeB w = accept (true) (.st4 (guardOf w) (fld w 14 6) (fld w 8 6) (fld w 0 8)) := by
  unfold decodeB
  simp only [hop]

theorem st4 (g : Guard) (d : BitVec 6) (b : BitVec 6) (o : BitVec 8) : Statement (.st4 g d b o) := by
  intro W hW
  obtain rfl : slotWord g 0x48 (place [(d.toNat, 14), (b.toNat, 8), (o.toNat, 0)]) = W := Option.some.inj hW
  have ho : 0x48 < 2 ^ 7 := Nat.le_of_ble_eq_true rfl
  have hf : place [(d.toNat, 14), (b.toNat, 8), (o.toNat, 0)] < 2 ^ 20 := place_cons_lt d.isLt (place_cons_lt b.isLt (place_cons_lt o.isLt (place_nil_lt 0) (Nat.le_of_ble_eq_true rfl)) (Nat.le_of_ble_eq_true rfl)) (Nat.le_of_ble_eq_true rfl)
  have hop := opcodeOf_slotWord (g := g) ho hf
  refine ⟨congrArg some (guardOf_slotWord ho hf).symm, _, rfl, decodeSlot_eq ?_⟩
  exact (decodeRaw_B hop (by decide)).trans ((arm_st4 hop).trans (accept_eq rfl (by rw [guardOf_slotWord ho hf, fld_slotWord ho hf 14 6 (Nat.le_of_ble_eq_true rfl) d (place_hit d.isLt (place_cons_lt b.isLt (place_cons_lt o.isLt (place_nil_lt 0) (Nat.le_of_ble_eq_true rfl)) (Nat.le_of_ble_eq_true rfl))), fld_slotWord ho hf 8 6 (Nat.le_of_ble_eq_true rfl) b (place_skip (Nat.le_of_ble_eq_true rfl) (place_hit b.isLt (place_cons_lt o.isLt (place_nil_lt 0) (Nat.le_of_ble_eq_true rfl)))), fld_slotWord ho hf 0 8 (Nat.le_of_ble_eq_true rfl) o (place_skip (Nat.le_of_ble_eq_true rfl) (place_skip (Nat.le_of_ble_eq_true rfl) (place_hit o.isLt (place_nil_lt 0))))])))

theorem arm_st {w : BitVec 32} (hop : opcodeOf w = 0x49) : decodeB w = accept (true) (.st (guardOf w) (fld w 14 6) (fld w 8 6) (fld w 0 8)) := by
  unfold decodeB
  simp only [hop]

theorem st (g : Guard) (d : BitVec 6) (b : BitVec 6) (o : BitVec 8) : Statement (.st g d b o) := by
  intro W hW
  obtain rfl : slotWord g 0x49 (place [(d.toNat, 14), (b.toNat, 8), (o.toNat, 0)]) = W := Option.some.inj hW
  have ho : 0x49 < 2 ^ 7 := Nat.le_of_ble_eq_true rfl
  have hf : place [(d.toNat, 14), (b.toNat, 8), (o.toNat, 0)] < 2 ^ 20 := place_cons_lt d.isLt (place_cons_lt b.isLt (place_cons_lt o.isLt (place_nil_lt 0) (Nat.le_of_ble_eq_true rfl)) (Nat.le_of_ble_eq_true rfl)) (Nat.le_of_ble_eq_true rfl)
  have hop := opcodeOf_slotWord (g := g) ho hf
  refine ⟨congrArg some (guardOf_slotWord ho hf).symm, _, rfl, decodeSlot_eq ?_⟩
  exact (decodeRaw_B hop (by decide)).trans ((arm_st hop).trans (accept_eq rfl (by rw [guardOf_slotWord ho hf, fld_slotWord ho hf 14 6 (Nat.le_of_ble_eq_true rfl) d (place_hit d.isLt (place_cons_lt b.isLt (place_cons_lt o.isLt (place_nil_lt 0) (Nat.le_of_ble_eq_true rfl)) (Nat.le_of_ble_eq_true rfl))), fld_slotWord ho hf 8 6 (Nat.le_of_ble_eq_true rfl) b (place_skip (Nat.le_of_ble_eq_true rfl) (place_hit b.isLt (place_cons_lt o.isLt (place_nil_lt 0) (Nat.le_of_ble_eq_true rfl)))), fld_slotWord ho hf 0 8 (Nat.le_of_ble_eq_true rfl) o (place_skip (Nat.le_of_ble_eq_true rfl) (place_skip (Nat.le_of_ble_eq_true rfl) (place_hit o.isLt (place_nil_lt 0))))])))

theorem arm_st4Rel {w : BitVec 32} (hop : opcodeOf w = 0x4A) : decodeB w = accept (true) (.st4Rel (guardOf w) (fld w 14 6) (fld w 8 6) (fld w 0 8)) := by
  unfold decodeB
  simp only [hop]

theorem st4Rel (g : Guard) (d : BitVec 6) (b : BitVec 6) (o : BitVec 8) : Statement (.st4Rel g d b o) := by
  intro W hW
  obtain rfl : slotWord g 0x4A (place [(d.toNat, 14), (b.toNat, 8), (o.toNat, 0)]) = W := Option.some.inj hW
  have ho : 0x4A < 2 ^ 7 := Nat.le_of_ble_eq_true rfl
  have hf : place [(d.toNat, 14), (b.toNat, 8), (o.toNat, 0)] < 2 ^ 20 := place_cons_lt d.isLt (place_cons_lt b.isLt (place_cons_lt o.isLt (place_nil_lt 0) (Nat.le_of_ble_eq_true rfl)) (Nat.le_of_ble_eq_true rfl)) (Nat.le_of_ble_eq_true rfl)
  have hop := opcodeOf_slotWord (g := g) ho hf
  refine ⟨congrArg some (guardOf_slotWord ho hf).symm, _, rfl, decodeSlot_eq ?_⟩
  exact (decodeRaw_B hop (by decide)).trans ((arm_st4Rel hop).trans (accept_eq rfl (by rw [guardOf_slotWord ho hf, fld_slotWord ho hf 14 6 (Nat.le_of_ble_eq_true rfl) d (place_hit d.isLt (place_cons_lt b.isLt (place_cons_lt o.isLt (place_nil_lt 0) (Nat.le_of_ble_eq_true rfl)) (Nat.le_of_ble_eq_true rfl))), fld_slotWord ho hf 8 6 (Nat.le_of_ble_eq_true rfl) b (place_skip (Nat.le_of_ble_eq_true rfl) (place_hit b.isLt (place_cons_lt o.isLt (place_nil_lt 0) (Nat.le_of_ble_eq_true rfl)))), fld_slotWord ho hf 0 8 (Nat.le_of_ble_eq_true rfl) o (place_skip (Nat.le_of_ble_eq_true rfl) (place_skip (Nat.le_of_ble_eq_true rfl) (place_hit o.isLt (place_nil_lt 0))))])))

theorem arm_stRel {w : BitVec 32} (hop : opcodeOf w = 0x4B) : decodeB w = accept (true) (.stRel (guardOf w) (fld w 14 6) (fld w 8 6) (fld w 0 8)) := by
  unfold decodeB
  simp only [hop]

theorem stRel (g : Guard) (d : BitVec 6) (b : BitVec 6) (o : BitVec 8) : Statement (.stRel g d b o) := by
  intro W hW
  obtain rfl : slotWord g 0x4B (place [(d.toNat, 14), (b.toNat, 8), (o.toNat, 0)]) = W := Option.some.inj hW
  have ho : 0x4B < 2 ^ 7 := Nat.le_of_ble_eq_true rfl
  have hf : place [(d.toNat, 14), (b.toNat, 8), (o.toNat, 0)] < 2 ^ 20 := place_cons_lt d.isLt (place_cons_lt b.isLt (place_cons_lt o.isLt (place_nil_lt 0) (Nat.le_of_ble_eq_true rfl)) (Nat.le_of_ble_eq_true rfl)) (Nat.le_of_ble_eq_true rfl)
  have hop := opcodeOf_slotWord (g := g) ho hf
  refine ⟨congrArg some (guardOf_slotWord ho hf).symm, _, rfl, decodeSlot_eq ?_⟩
  exact (decodeRaw_B hop (by decide)).trans ((arm_stRel hop).trans (accept_eq rfl (by rw [guardOf_slotWord ho hf, fld_slotWord ho hf 14 6 (Nat.le_of_ble_eq_true rfl) d (place_hit d.isLt (place_cons_lt b.isLt (place_cons_lt o.isLt (place_nil_lt 0) (Nat.le_of_ble_eq_true rfl)) (Nat.le_of_ble_eq_true rfl))), fld_slotWord ho hf 8 6 (Nat.le_of_ble_eq_true rfl) b (place_skip (Nat.le_of_ble_eq_true rfl) (place_hit b.isLt (place_cons_lt o.isLt (place_nil_lt 0) (Nat.le_of_ble_eq_true rfl)))), fld_slotWord ho hf 0 8 (Nat.le_of_ble_eq_true rfl) o (place_skip (Nat.le_of_ble_eq_true rfl) (place_skip (Nat.le_of_ble_eq_true rfl) (place_hit o.isLt (place_nil_lt 0))))])))

theorem arm_ldf {w : BitVec 32} (hop : opcodeOf w = 0x4C) : decodeB w = accept (true) (.ldf (guardOf w) (fld w 14 6) (fld w 8 6) (fld w 0 8)) := by
  unfold decodeB
  simp only [hop]

theorem ldf (g : Guard) (d : BitVec 6) (b : BitVec 6) (o : BitVec 8) : Statement (.ldf g d b o) := by
  intro W hW
  obtain rfl : slotWord g 0x4C (place [(d.toNat, 14), (b.toNat, 8), (o.toNat, 0)]) = W := Option.some.inj hW
  have ho : 0x4C < 2 ^ 7 := Nat.le_of_ble_eq_true rfl
  have hf : place [(d.toNat, 14), (b.toNat, 8), (o.toNat, 0)] < 2 ^ 20 := place_cons_lt d.isLt (place_cons_lt b.isLt (place_cons_lt o.isLt (place_nil_lt 0) (Nat.le_of_ble_eq_true rfl)) (Nat.le_of_ble_eq_true rfl)) (Nat.le_of_ble_eq_true rfl)
  have hop := opcodeOf_slotWord (g := g) ho hf
  refine ⟨congrArg some (guardOf_slotWord ho hf).symm, _, rfl, decodeSlot_eq ?_⟩
  exact (decodeRaw_B hop (by decide)).trans ((arm_ldf hop).trans (accept_eq rfl (by rw [guardOf_slotWord ho hf, fld_slotWord ho hf 14 6 (Nat.le_of_ble_eq_true rfl) d (place_hit d.isLt (place_cons_lt b.isLt (place_cons_lt o.isLt (place_nil_lt 0) (Nat.le_of_ble_eq_true rfl)) (Nat.le_of_ble_eq_true rfl))), fld_slotWord ho hf 8 6 (Nat.le_of_ble_eq_true rfl) b (place_skip (Nat.le_of_ble_eq_true rfl) (place_hit b.isLt (place_cons_lt o.isLt (place_nil_lt 0) (Nat.le_of_ble_eq_true rfl)))), fld_slotWord ho hf 0 8 (Nat.le_of_ble_eq_true rfl) o (place_skip (Nat.le_of_ble_eq_true rfl) (place_skip (Nat.le_of_ble_eq_true rfl) (place_hit o.isLt (place_nil_lt 0))))])))

theorem arm_ldfDom {w : BitVec 32} (hop : opcodeOf w = 0x4D) : decodeB w = accept (true) (.ldfDom (guardOf w) (fld w 14 6) (fld w 8 6) (fld w 0 8)) := by
  unfold decodeB
  simp only [hop]

theorem ldfDom (g : Guard) (d : BitVec 6) (b : BitVec 6) (o : BitVec 8) : Statement (.ldfDom g d b o) := by
  intro W hW
  obtain rfl : slotWord g 0x4D (place [(d.toNat, 14), (b.toNat, 8), (o.toNat, 0)]) = W := Option.some.inj hW
  have ho : 0x4D < 2 ^ 7 := Nat.le_of_ble_eq_true rfl
  have hf : place [(d.toNat, 14), (b.toNat, 8), (o.toNat, 0)] < 2 ^ 20 := place_cons_lt d.isLt (place_cons_lt b.isLt (place_cons_lt o.isLt (place_nil_lt 0) (Nat.le_of_ble_eq_true rfl)) (Nat.le_of_ble_eq_true rfl)) (Nat.le_of_ble_eq_true rfl)
  have hop := opcodeOf_slotWord (g := g) ho hf
  refine ⟨congrArg some (guardOf_slotWord ho hf).symm, _, rfl, decodeSlot_eq ?_⟩
  exact (decodeRaw_B hop (by decide)).trans ((arm_ldfDom hop).trans (accept_eq rfl (by rw [guardOf_slotWord ho hf, fld_slotWord ho hf 14 6 (Nat.le_of_ble_eq_true rfl) d (place_hit d.isLt (place_cons_lt b.isLt (place_cons_lt o.isLt (place_nil_lt 0) (Nat.le_of_ble_eq_true rfl)) (Nat.le_of_ble_eq_true rfl))), fld_slotWord ho hf 8 6 (Nat.le_of_ble_eq_true rfl) b (place_skip (Nat.le_of_ble_eq_true rfl) (place_hit b.isLt (place_cons_lt o.isLt (place_nil_lt 0) (Nat.le_of_ble_eq_true rfl)))), fld_slotWord ho hf 0 8 (Nat.le_of_ble_eq_true rfl) o (place_skip (Nat.le_of_ble_eq_true rfl) (place_skip (Nat.le_of_ble_eq_true rfl) (place_hit o.isLt (place_nil_lt 0))))])))

theorem arm_ldfe {w : BitVec 32} (hop : opcodeOf w = 0x4E) : decodeB w = accept (true) (.ldfe (guardOf w) (fld w 14 6) (fld w 8 6) (fld w 0 8)) := by
  unfold decodeB
  simp only [hop]

theorem ldfe (g : Guard) (d : BitVec 6) (b : BitVec 6) (o : BitVec 8) : Statement (.ldfe g d b o) := by
  intro W hW
  obtain rfl : slotWord g 0x4E (place [(d.toNat, 14), (b.toNat, 8), (o.toNat, 0)]) = W := Option.some.inj hW
  have ho : 0x4E < 2 ^ 7 := Nat.le_of_ble_eq_true rfl
  have hf : place [(d.toNat, 14), (b.toNat, 8), (o.toNat, 0)] < 2 ^ 20 := place_cons_lt d.isLt (place_cons_lt b.isLt (place_cons_lt o.isLt (place_nil_lt 0) (Nat.le_of_ble_eq_true rfl)) (Nat.le_of_ble_eq_true rfl)) (Nat.le_of_ble_eq_true rfl)
  have hop := opcodeOf_slotWord (g := g) ho hf
  refine ⟨congrArg some (guardOf_slotWord ho hf).symm, _, rfl, decodeSlot_eq ?_⟩
  exact (decodeRaw_B hop (by decide)).trans ((arm_ldfe hop).trans (accept_eq rfl (by rw [guardOf_slotWord ho hf, fld_slotWord ho hf 14 6 (Nat.le_of_ble_eq_true rfl) d (place_hit d.isLt (place_cons_lt b.isLt (place_cons_lt o.isLt (place_nil_lt 0) (Nat.le_of_ble_eq_true rfl)) (Nat.le_of_ble_eq_true rfl))), fld_slotWord ho hf 8 6 (Nat.le_of_ble_eq_true rfl) b (place_skip (Nat.le_of_ble_eq_true rfl) (place_hit b.isLt (place_cons_lt o.isLt (place_nil_lt 0) (Nat.le_of_ble_eq_true rfl)))), fld_slotWord ho hf 0 8 (Nat.le_of_ble_eq_true rfl) o (place_skip (Nat.le_of_ble_eq_true rfl) (place_skip (Nat.le_of_ble_eq_true rfl) (place_hit o.isLt (place_nil_lt 0))))])))

theorem arm_ldfeDom {w : BitVec 32} (hop : opcodeOf w = 0x4F) : decodeB w = accept (true) (.ldfeDom (guardOf w) (fld w 14 6) (fld w 8 6) (fld w 0 8)) := by
  unfold decodeB
  simp only [hop]

theorem ldfeDom (g : Guard) (d : BitVec 6) (b : BitVec 6) (o : BitVec 8) : Statement (.ldfeDom g d b o) := by
  intro W hW
  obtain rfl : slotWord g 0x4F (place [(d.toNat, 14), (b.toNat, 8), (o.toNat, 0)]) = W := Option.some.inj hW
  have ho : 0x4F < 2 ^ 7 := Nat.le_of_ble_eq_true rfl
  have hf : place [(d.toNat, 14), (b.toNat, 8), (o.toNat, 0)] < 2 ^ 20 := place_cons_lt d.isLt (place_cons_lt b.isLt (place_cons_lt o.isLt (place_nil_lt 0) (Nat.le_of_ble_eq_true rfl)) (Nat.le_of_ble_eq_true rfl)) (Nat.le_of_ble_eq_true rfl)
  have hop := opcodeOf_slotWord (g := g) ho hf
  refine ⟨congrArg some (guardOf_slotWord ho hf).symm, _, rfl, decodeSlot_eq ?_⟩
  exact (decodeRaw_B hop (by decide)).trans ((arm_ldfeDom hop).trans (accept_eq rfl (by rw [guardOf_slotWord ho hf, fld_slotWord ho hf 14 6 (Nat.le_of_ble_eq_true rfl) d (place_hit d.isLt (place_cons_lt b.isLt (place_cons_lt o.isLt (place_nil_lt 0) (Nat.le_of_ble_eq_true rfl)) (Nat.le_of_ble_eq_true rfl))), fld_slotWord ho hf 8 6 (Nat.le_of_ble_eq_true rfl) b (place_skip (Nat.le_of_ble_eq_true rfl) (place_hit b.isLt (place_cons_lt o.isLt (place_nil_lt 0) (Nat.le_of_ble_eq_true rfl)))), fld_slotWord ho hf 0 8 (Nat.le_of_ble_eq_true rfl) o (place_skip (Nat.le_of_ble_eq_true rfl) (place_skip (Nat.le_of_ble_eq_true rfl) (place_hit o.isLt (place_nil_lt 0))))])))

theorem arm_ste {w : BitVec 32} (hop : opcodeOf w = 0x50) : decodeB w = accept (true) (.ste (guardOf w) (fld w 14 6) (fld w 8 6) (fld w 0 8)) := by
  unfold decodeB
  simp only [hop]

theorem ste (g : Guard) (d : BitVec 6) (b : BitVec 6) (o : BitVec 8) : Statement (.ste g d b o) := by
  intro W hW
  obtain rfl : slotWord g 0x50 (place [(d.toNat, 14), (b.toNat, 8), (o.toNat, 0)]) = W := Option.some.inj hW
  have ho : 0x50 < 2 ^ 7 := Nat.le_of_ble_eq_true rfl
  have hf : place [(d.toNat, 14), (b.toNat, 8), (o.toNat, 0)] < 2 ^ 20 := place_cons_lt d.isLt (place_cons_lt b.isLt (place_cons_lt o.isLt (place_nil_lt 0) (Nat.le_of_ble_eq_true rfl)) (Nat.le_of_ble_eq_true rfl)) (Nat.le_of_ble_eq_true rfl)
  have hop := opcodeOf_slotWord (g := g) ho hf
  refine ⟨congrArg some (guardOf_slotWord ho hf).symm, _, rfl, decodeSlot_eq ?_⟩
  exact (decodeRaw_B hop (by decide)).trans ((arm_ste hop).trans (accept_eq rfl (by rw [guardOf_slotWord ho hf, fld_slotWord ho hf 14 6 (Nat.le_of_ble_eq_true rfl) d (place_hit d.isLt (place_cons_lt b.isLt (place_cons_lt o.isLt (place_nil_lt 0) (Nat.le_of_ble_eq_true rfl)) (Nat.le_of_ble_eq_true rfl))), fld_slotWord ho hf 8 6 (Nat.le_of_ble_eq_true rfl) b (place_skip (Nat.le_of_ble_eq_true rfl) (place_hit b.isLt (place_cons_lt o.isLt (place_nil_lt 0) (Nat.le_of_ble_eq_true rfl)))), fld_slotWord ho hf 0 8 (Nat.le_of_ble_eq_true rfl) o (place_skip (Nat.le_of_ble_eq_true rfl) (place_skip (Nat.le_of_ble_eq_true rfl) (place_hit o.isLt (place_nil_lt 0))))])))

theorem arm_steDom {w : BitVec 32} (hop : opcodeOf w = 0x51) : decodeB w = accept (true) (.steDom (guardOf w) (fld w 14 6) (fld w 8 6) (fld w 0 8)) := by
  unfold decodeB
  simp only [hop]

theorem steDom (g : Guard) (d : BitVec 6) (b : BitVec 6) (o : BitVec 8) : Statement (.steDom g d b o) := by
  intro W hW
  obtain rfl : slotWord g 0x51 (place [(d.toNat, 14), (b.toNat, 8), (o.toNat, 0)]) = W := Option.some.inj hW
  have ho : 0x51 < 2 ^ 7 := Nat.le_of_ble_eq_true rfl
  have hf : place [(d.toNat, 14), (b.toNat, 8), (o.toNat, 0)] < 2 ^ 20 := place_cons_lt d.isLt (place_cons_lt b.isLt (place_cons_lt o.isLt (place_nil_lt 0) (Nat.le_of_ble_eq_true rfl)) (Nat.le_of_ble_eq_true rfl)) (Nat.le_of_ble_eq_true rfl)
  have hop := opcodeOf_slotWord (g := g) ho hf
  refine ⟨congrArg some (guardOf_slotWord ho hf).symm, _, rfl, decodeSlot_eq ?_⟩
  exact (decodeRaw_B hop (by decide)).trans ((arm_steDom hop).trans (accept_eq rfl (by rw [guardOf_slotWord ho hf, fld_slotWord ho hf 14 6 (Nat.le_of_ble_eq_true rfl) d (place_hit d.isLt (place_cons_lt b.isLt (place_cons_lt o.isLt (place_nil_lt 0) (Nat.le_of_ble_eq_true rfl)) (Nat.le_of_ble_eq_true rfl))), fld_slotWord ho hf 8 6 (Nat.le_of_ble_eq_true rfl) b (place_skip (Nat.le_of_ble_eq_true rfl) (place_hit b.isLt (place_cons_lt o.isLt (place_nil_lt 0) (Nat.le_of_ble_eq_true rfl)))), fld_slotWord ho hf 0 8 (Nat.le_of_ble_eq_true rfl) o (place_skip (Nat.le_of_ble_eq_true rfl) (place_skip (Nat.le_of_ble_eq_true rfl) (place_hit o.isLt (place_nil_lt 0))))])))

theorem arm_stf {w : BitVec 32} (hop : opcodeOf w = 0x52) : decodeB w = accept (true) (.stf (guardOf w) (fld w 14 6) (fld w 8 6) (fld w 0 8)) := by
  unfold decodeB
  simp only [hop]

theorem stf (g : Guard) (d : BitVec 6) (b : BitVec 6) (o : BitVec 8) : Statement (.stf g d b o) := by
  intro W hW
  obtain rfl : slotWord g 0x52 (place [(d.toNat, 14), (b.toNat, 8), (o.toNat, 0)]) = W := Option.some.inj hW
  have ho : 0x52 < 2 ^ 7 := Nat.le_of_ble_eq_true rfl
  have hf : place [(d.toNat, 14), (b.toNat, 8), (o.toNat, 0)] < 2 ^ 20 := place_cons_lt d.isLt (place_cons_lt b.isLt (place_cons_lt o.isLt (place_nil_lt 0) (Nat.le_of_ble_eq_true rfl)) (Nat.le_of_ble_eq_true rfl)) (Nat.le_of_ble_eq_true rfl)
  have hop := opcodeOf_slotWord (g := g) ho hf
  refine ⟨congrArg some (guardOf_slotWord ho hf).symm, _, rfl, decodeSlot_eq ?_⟩
  exact (decodeRaw_B hop (by decide)).trans ((arm_stf hop).trans (accept_eq rfl (by rw [guardOf_slotWord ho hf, fld_slotWord ho hf 14 6 (Nat.le_of_ble_eq_true rfl) d (place_hit d.isLt (place_cons_lt b.isLt (place_cons_lt o.isLt (place_nil_lt 0) (Nat.le_of_ble_eq_true rfl)) (Nat.le_of_ble_eq_true rfl))), fld_slotWord ho hf 8 6 (Nat.le_of_ble_eq_true rfl) b (place_skip (Nat.le_of_ble_eq_true rfl) (place_hit b.isLt (place_cons_lt o.isLt (place_nil_lt 0) (Nat.le_of_ble_eq_true rfl)))), fld_slotWord ho hf 0 8 (Nat.le_of_ble_eq_true rfl) o (place_skip (Nat.le_of_ble_eq_true rfl) (place_skip (Nat.le_of_ble_eq_true rfl) (place_hit o.isLt (place_nil_lt 0))))])))

theorem arm_stfDom {w : BitVec 32} (hop : opcodeOf w = 0x53) : decodeB w = accept (true) (.stfDom (guardOf w) (fld w 14 6) (fld w 8 6) (fld w 0 8)) := by
  unfold decodeB
  simp only [hop]

theorem stfDom (g : Guard) (d : BitVec 6) (b : BitVec 6) (o : BitVec 8) : Statement (.stfDom g d b o) := by
  intro W hW
  obtain rfl : slotWord g 0x53 (place [(d.toNat, 14), (b.toNat, 8), (o.toNat, 0)]) = W := Option.some.inj hW
  have ho : 0x53 < 2 ^ 7 := Nat.le_of_ble_eq_true rfl
  have hf : place [(d.toNat, 14), (b.toNat, 8), (o.toNat, 0)] < 2 ^ 20 := place_cons_lt d.isLt (place_cons_lt b.isLt (place_cons_lt o.isLt (place_nil_lt 0) (Nat.le_of_ble_eq_true rfl)) (Nat.le_of_ble_eq_true rfl)) (Nat.le_of_ble_eq_true rfl)
  have hop := opcodeOf_slotWord (g := g) ho hf
  refine ⟨congrArg some (guardOf_slotWord ho hf).symm, _, rfl, decodeSlot_eq ?_⟩
  exact (decodeRaw_B hop (by decide)).trans ((arm_stfDom hop).trans (accept_eq rfl (by rw [guardOf_slotWord ho hf, fld_slotWord ho hf 14 6 (Nat.le_of_ble_eq_true rfl) d (place_hit d.isLt (place_cons_lt b.isLt (place_cons_lt o.isLt (place_nil_lt 0) (Nat.le_of_ble_eq_true rfl)) (Nat.le_of_ble_eq_true rfl))), fld_slotWord ho hf 8 6 (Nat.le_of_ble_eq_true rfl) b (place_skip (Nat.le_of_ble_eq_true rfl) (place_hit b.isLt (place_cons_lt o.isLt (place_nil_lt 0) (Nat.le_of_ble_eq_true rfl)))), fld_slotWord ho hf 0 8 (Nat.le_of_ble_eq_true rfl) o (place_skip (Nat.le_of_ble_eq_true rfl) (place_skip (Nat.le_of_ble_eq_true rfl) (place_hit o.isLt (place_nil_lt 0))))])))

theorem arm_feset {w : BitVec 32} (hop : opcodeOf w = 0x54) : decodeB w = accept (holds w 14 6 0) (.feset (guardOf w) (fld w 8 6) (fld w 0 8)) := by
  unfold decodeB
  simp only [hop]

theorem feset (g : Guard) (b : BitVec 6) (o : BitVec 8) : Statement (.feset g b o) := by
  intro W hW
  obtain rfl : slotWord g 0x54 (place [(b.toNat, 8), (o.toNat, 0)]) = W := Option.some.inj hW
  have ho : 0x54 < 2 ^ 7 := Nat.le_of_ble_eq_true rfl
  have hf : place [(b.toNat, 8), (o.toNat, 0)] < 2 ^ 20 := place_cons_lt b.isLt (place_cons_lt o.isLt (place_nil_lt 0) (Nat.le_of_ble_eq_true rfl)) (Nat.le_of_ble_eq_true rfl)
  have hop := opcodeOf_slotWord (g := g) ho hf
  refine ⟨congrArg some (guardOf_slotWord ho hf).symm, _, rfl, decodeSlot_eq ?_⟩
  exact (decodeRaw_B hop (by decide)).trans ((arm_feset hop).trans (accept_eq (holds_slotWord ho hf 14 6 0 (Nat.le_of_ble_eq_true rfl) (place_zero (place_cons_lt b.isLt (place_cons_lt o.isLt (place_nil_lt 0) (Nat.le_of_ble_eq_true rfl)) (Nat.le_of_ble_eq_true rfl)))) (by rw [guardOf_slotWord ho hf, fld_slotWord ho hf 8 6 (Nat.le_of_ble_eq_true rfl) b (place_hit b.isLt (place_cons_lt o.isLt (place_nil_lt 0) (Nat.le_of_ble_eq_true rfl))), fld_slotWord ho hf 0 8 (Nat.le_of_ble_eq_true rfl) o (place_skip (Nat.le_of_ble_eq_true rfl) (place_hit o.isLt (place_nil_lt 0)))])))

theorem arm_feclr {w : BitVec 32} (hop : opcodeOf w = 0x55) : decodeB w = accept (holds w 14 6 0) (.feclr (guardOf w) (fld w 8 6) (fld w 0 8)) := by
  unfold decodeB
  simp only [hop]

theorem feclr (g : Guard) (b : BitVec 6) (o : BitVec 8) : Statement (.feclr g b o) := by
  intro W hW
  obtain rfl : slotWord g 0x55 (place [(b.toNat, 8), (o.toNat, 0)]) = W := Option.some.inj hW
  have ho : 0x55 < 2 ^ 7 := Nat.le_of_ble_eq_true rfl
  have hf : place [(b.toNat, 8), (o.toNat, 0)] < 2 ^ 20 := place_cons_lt b.isLt (place_cons_lt o.isLt (place_nil_lt 0) (Nat.le_of_ble_eq_true rfl)) (Nat.le_of_ble_eq_true rfl)
  have hop := opcodeOf_slotWord (g := g) ho hf
  refine ⟨congrArg some (guardOf_slotWord ho hf).symm, _, rfl, decodeSlot_eq ?_⟩
  exact (decodeRaw_B hop (by decide)).trans ((arm_feclr hop).trans (accept_eq (holds_slotWord ho hf 14 6 0 (Nat.le_of_ble_eq_true rfl) (place_zero (place_cons_lt b.isLt (place_cons_lt o.isLt (place_nil_lt 0) (Nat.le_of_ble_eq_true rfl)) (Nat.le_of_ble_eq_true rfl)))) (by rw [guardOf_slotWord ho hf, fld_slotWord ho hf 8 6 (Nat.le_of_ble_eq_true rfl) b (place_hit b.isLt (place_cons_lt o.isLt (place_nil_lt 0) (Nat.le_of_ble_eq_true rfl))), fld_slotWord ho hf 0 8 (Nat.le_of_ble_eq_true rfl) o (place_skip (Nat.le_of_ble_eq_true rfl) (place_hit o.isLt (place_nil_lt 0)))])))

theorem arm_aadd4 {w : BitVec 32} (hop : opcodeOf w = 0x56) : decodeB w = accept (true) (.aadd4 (guardOf w) (fld w 14 6) (fld w 8 6) (fld w 6 2) (fld w 0 6)) := by
  unfold decodeB
  simp only [hop]

theorem aadd4 (g : Guard) (d : BitVec 6) (b : BitVec 6) (r : BitVec 2) (sr : BitVec 6) : Statement (.aadd4 g d b r sr) := by
  intro W hW
  obtain rfl : slotWord g 0x56 (place [(d.toNat, 14), (b.toNat, 8), (r.toNat, 6), (sr.toNat, 0)]) = W := Option.some.inj hW
  have ho : 0x56 < 2 ^ 7 := Nat.le_of_ble_eq_true rfl
  have hf : place [(d.toNat, 14), (b.toNat, 8), (r.toNat, 6), (sr.toNat, 0)] < 2 ^ 20 := place_cons_lt d.isLt (place_cons_lt b.isLt (place_cons_lt r.isLt (place_cons_lt sr.isLt (place_nil_lt 0) (Nat.le_of_ble_eq_true rfl)) (Nat.le_of_ble_eq_true rfl)) (Nat.le_of_ble_eq_true rfl)) (Nat.le_of_ble_eq_true rfl)
  have hop := opcodeOf_slotWord (g := g) ho hf
  refine ⟨congrArg some (guardOf_slotWord ho hf).symm, _, rfl, decodeSlot_eq ?_⟩
  exact (decodeRaw_B hop (by decide)).trans ((arm_aadd4 hop).trans (accept_eq rfl (by rw [guardOf_slotWord ho hf, fld_slotWord ho hf 14 6 (Nat.le_of_ble_eq_true rfl) d (place_hit d.isLt (place_cons_lt b.isLt (place_cons_lt r.isLt (place_cons_lt sr.isLt (place_nil_lt 0) (Nat.le_of_ble_eq_true rfl)) (Nat.le_of_ble_eq_true rfl)) (Nat.le_of_ble_eq_true rfl))), fld_slotWord ho hf 8 6 (Nat.le_of_ble_eq_true rfl) b (place_skip (Nat.le_of_ble_eq_true rfl) (place_hit b.isLt (place_cons_lt r.isLt (place_cons_lt sr.isLt (place_nil_lt 0) (Nat.le_of_ble_eq_true rfl)) (Nat.le_of_ble_eq_true rfl)))), fld_slotWord ho hf 6 2 (Nat.le_of_ble_eq_true rfl) r (place_skip (Nat.le_of_ble_eq_true rfl) (place_skip (Nat.le_of_ble_eq_true rfl) (place_hit r.isLt (place_cons_lt sr.isLt (place_nil_lt 0) (Nat.le_of_ble_eq_true rfl))))), fld_slotWord ho hf 0 6 (Nat.le_of_ble_eq_true rfl) sr (place_skip (Nat.le_of_ble_eq_true rfl) (place_skip (Nat.le_of_ble_eq_true rfl) (place_skip (Nat.le_of_ble_eq_true rfl) (place_hit sr.isLt (place_nil_lt 0)))))])))

theorem arm_aadd {w : BitVec 32} (hop : opcodeOf w = 0x57) : decodeB w = accept (true) (.aadd (guardOf w) (fld w 14 6) (fld w 8 6) (fld w 6 2) (fld w 0 6)) := by
  unfold decodeB
  simp only [hop]

theorem aadd (g : Guard) (d : BitVec 6) (b : BitVec 6) (r : BitVec 2) (sr : BitVec 6) : Statement (.aadd g d b r sr) := by
  intro W hW
  obtain rfl : slotWord g 0x57 (place [(d.toNat, 14), (b.toNat, 8), (r.toNat, 6), (sr.toNat, 0)]) = W := Option.some.inj hW
  have ho : 0x57 < 2 ^ 7 := Nat.le_of_ble_eq_true rfl
  have hf : place [(d.toNat, 14), (b.toNat, 8), (r.toNat, 6), (sr.toNat, 0)] < 2 ^ 20 := place_cons_lt d.isLt (place_cons_lt b.isLt (place_cons_lt r.isLt (place_cons_lt sr.isLt (place_nil_lt 0) (Nat.le_of_ble_eq_true rfl)) (Nat.le_of_ble_eq_true rfl)) (Nat.le_of_ble_eq_true rfl)) (Nat.le_of_ble_eq_true rfl)
  have hop := opcodeOf_slotWord (g := g) ho hf
  refine ⟨congrArg some (guardOf_slotWord ho hf).symm, _, rfl, decodeSlot_eq ?_⟩
  exact (decodeRaw_B hop (by decide)).trans ((arm_aadd hop).trans (accept_eq rfl (by rw [guardOf_slotWord ho hf, fld_slotWord ho hf 14 6 (Nat.le_of_ble_eq_true rfl) d (place_hit d.isLt (place_cons_lt b.isLt (place_cons_lt r.isLt (place_cons_lt sr.isLt (place_nil_lt 0) (Nat.le_of_ble_eq_true rfl)) (Nat.le_of_ble_eq_true rfl)) (Nat.le_of_ble_eq_true rfl))), fld_slotWord ho hf 8 6 (Nat.le_of_ble_eq_true rfl) b (place_skip (Nat.le_of_ble_eq_true rfl) (place_hit b.isLt (place_cons_lt r.isLt (place_cons_lt sr.isLt (place_nil_lt 0) (Nat.le_of_ble_eq_true rfl)) (Nat.le_of_ble_eq_true rfl)))), fld_slotWord ho hf 6 2 (Nat.le_of_ble_eq_true rfl) r (place_skip (Nat.le_of_ble_eq_true rfl) (place_skip (Nat.le_of_ble_eq_true rfl) (place_hit r.isLt (place_cons_lt sr.isLt (place_nil_lt 0) (Nat.le_of_ble_eq_true rfl))))), fld_slotWord ho hf 0 6 (Nat.le_of_ble_eq_true rfl) sr (place_skip (Nat.le_of_ble_eq_true rfl) (place_skip (Nat.le_of_ble_eq_true rfl) (place_skip (Nat.le_of_ble_eq_true rfl) (place_hit sr.isLt (place_nil_lt 0)))))])))

theorem arm_aand4 {w : BitVec 32} (hop : opcodeOf w = 0x58) : decodeB w = accept (true) (.aand4 (guardOf w) (fld w 14 6) (fld w 8 6) (fld w 6 2) (fld w 0 6)) := by
  unfold decodeB
  simp only [hop]

theorem aand4 (g : Guard) (d : BitVec 6) (b : BitVec 6) (r : BitVec 2) (sr : BitVec 6) : Statement (.aand4 g d b r sr) := by
  intro W hW
  obtain rfl : slotWord g 0x58 (place [(d.toNat, 14), (b.toNat, 8), (r.toNat, 6), (sr.toNat, 0)]) = W := Option.some.inj hW
  have ho : 0x58 < 2 ^ 7 := Nat.le_of_ble_eq_true rfl
  have hf : place [(d.toNat, 14), (b.toNat, 8), (r.toNat, 6), (sr.toNat, 0)] < 2 ^ 20 := place_cons_lt d.isLt (place_cons_lt b.isLt (place_cons_lt r.isLt (place_cons_lt sr.isLt (place_nil_lt 0) (Nat.le_of_ble_eq_true rfl)) (Nat.le_of_ble_eq_true rfl)) (Nat.le_of_ble_eq_true rfl)) (Nat.le_of_ble_eq_true rfl)
  have hop := opcodeOf_slotWord (g := g) ho hf
  refine ⟨congrArg some (guardOf_slotWord ho hf).symm, _, rfl, decodeSlot_eq ?_⟩
  exact (decodeRaw_B hop (by decide)).trans ((arm_aand4 hop).trans (accept_eq rfl (by rw [guardOf_slotWord ho hf, fld_slotWord ho hf 14 6 (Nat.le_of_ble_eq_true rfl) d (place_hit d.isLt (place_cons_lt b.isLt (place_cons_lt r.isLt (place_cons_lt sr.isLt (place_nil_lt 0) (Nat.le_of_ble_eq_true rfl)) (Nat.le_of_ble_eq_true rfl)) (Nat.le_of_ble_eq_true rfl))), fld_slotWord ho hf 8 6 (Nat.le_of_ble_eq_true rfl) b (place_skip (Nat.le_of_ble_eq_true rfl) (place_hit b.isLt (place_cons_lt r.isLt (place_cons_lt sr.isLt (place_nil_lt 0) (Nat.le_of_ble_eq_true rfl)) (Nat.le_of_ble_eq_true rfl)))), fld_slotWord ho hf 6 2 (Nat.le_of_ble_eq_true rfl) r (place_skip (Nat.le_of_ble_eq_true rfl) (place_skip (Nat.le_of_ble_eq_true rfl) (place_hit r.isLt (place_cons_lt sr.isLt (place_nil_lt 0) (Nat.le_of_ble_eq_true rfl))))), fld_slotWord ho hf 0 6 (Nat.le_of_ble_eq_true rfl) sr (place_skip (Nat.le_of_ble_eq_true rfl) (place_skip (Nat.le_of_ble_eq_true rfl) (place_skip (Nat.le_of_ble_eq_true rfl) (place_hit sr.isLt (place_nil_lt 0)))))])))

theorem arm_aand {w : BitVec 32} (hop : opcodeOf w = 0x59) : decodeB w = accept (true) (.aand (guardOf w) (fld w 14 6) (fld w 8 6) (fld w 6 2) (fld w 0 6)) := by
  unfold decodeB
  simp only [hop]

theorem aand (g : Guard) (d : BitVec 6) (b : BitVec 6) (r : BitVec 2) (sr : BitVec 6) : Statement (.aand g d b r sr) := by
  intro W hW
  obtain rfl : slotWord g 0x59 (place [(d.toNat, 14), (b.toNat, 8), (r.toNat, 6), (sr.toNat, 0)]) = W := Option.some.inj hW
  have ho : 0x59 < 2 ^ 7 := Nat.le_of_ble_eq_true rfl
  have hf : place [(d.toNat, 14), (b.toNat, 8), (r.toNat, 6), (sr.toNat, 0)] < 2 ^ 20 := place_cons_lt d.isLt (place_cons_lt b.isLt (place_cons_lt r.isLt (place_cons_lt sr.isLt (place_nil_lt 0) (Nat.le_of_ble_eq_true rfl)) (Nat.le_of_ble_eq_true rfl)) (Nat.le_of_ble_eq_true rfl)) (Nat.le_of_ble_eq_true rfl)
  have hop := opcodeOf_slotWord (g := g) ho hf
  refine ⟨congrArg some (guardOf_slotWord ho hf).symm, _, rfl, decodeSlot_eq ?_⟩
  exact (decodeRaw_B hop (by decide)).trans ((arm_aand hop).trans (accept_eq rfl (by rw [guardOf_slotWord ho hf, fld_slotWord ho hf 14 6 (Nat.le_of_ble_eq_true rfl) d (place_hit d.isLt (place_cons_lt b.isLt (place_cons_lt r.isLt (place_cons_lt sr.isLt (place_nil_lt 0) (Nat.le_of_ble_eq_true rfl)) (Nat.le_of_ble_eq_true rfl)) (Nat.le_of_ble_eq_true rfl))), fld_slotWord ho hf 8 6 (Nat.le_of_ble_eq_true rfl) b (place_skip (Nat.le_of_ble_eq_true rfl) (place_hit b.isLt (place_cons_lt r.isLt (place_cons_lt sr.isLt (place_nil_lt 0) (Nat.le_of_ble_eq_true rfl)) (Nat.le_of_ble_eq_true rfl)))), fld_slotWord ho hf 6 2 (Nat.le_of_ble_eq_true rfl) r (place_skip (Nat.le_of_ble_eq_true rfl) (place_skip (Nat.le_of_ble_eq_true rfl) (place_hit r.isLt (place_cons_lt sr.isLt (place_nil_lt 0) (Nat.le_of_ble_eq_true rfl))))), fld_slotWord ho hf 0 6 (Nat.le_of_ble_eq_true rfl) sr (place_skip (Nat.le_of_ble_eq_true rfl) (place_skip (Nat.le_of_ble_eq_true rfl) (place_skip (Nat.le_of_ble_eq_true rfl) (place_hit sr.isLt (place_nil_lt 0)))))])))

theorem arm_aor4 {w : BitVec 32} (hop : opcodeOf w = 0x5A) : decodeB w = accept (true) (.aor4 (guardOf w) (fld w 14 6) (fld w 8 6) (fld w 6 2) (fld w 0 6)) := by
  unfold decodeB
  simp only [hop]

theorem aor4 (g : Guard) (d : BitVec 6) (b : BitVec 6) (r : BitVec 2) (sr : BitVec 6) : Statement (.aor4 g d b r sr) := by
  intro W hW
  obtain rfl : slotWord g 0x5A (place [(d.toNat, 14), (b.toNat, 8), (r.toNat, 6), (sr.toNat, 0)]) = W := Option.some.inj hW
  have ho : 0x5A < 2 ^ 7 := Nat.le_of_ble_eq_true rfl
  have hf : place [(d.toNat, 14), (b.toNat, 8), (r.toNat, 6), (sr.toNat, 0)] < 2 ^ 20 := place_cons_lt d.isLt (place_cons_lt b.isLt (place_cons_lt r.isLt (place_cons_lt sr.isLt (place_nil_lt 0) (Nat.le_of_ble_eq_true rfl)) (Nat.le_of_ble_eq_true rfl)) (Nat.le_of_ble_eq_true rfl)) (Nat.le_of_ble_eq_true rfl)
  have hop := opcodeOf_slotWord (g := g) ho hf
  refine ⟨congrArg some (guardOf_slotWord ho hf).symm, _, rfl, decodeSlot_eq ?_⟩
  exact (decodeRaw_B hop (by decide)).trans ((arm_aor4 hop).trans (accept_eq rfl (by rw [guardOf_slotWord ho hf, fld_slotWord ho hf 14 6 (Nat.le_of_ble_eq_true rfl) d (place_hit d.isLt (place_cons_lt b.isLt (place_cons_lt r.isLt (place_cons_lt sr.isLt (place_nil_lt 0) (Nat.le_of_ble_eq_true rfl)) (Nat.le_of_ble_eq_true rfl)) (Nat.le_of_ble_eq_true rfl))), fld_slotWord ho hf 8 6 (Nat.le_of_ble_eq_true rfl) b (place_skip (Nat.le_of_ble_eq_true rfl) (place_hit b.isLt (place_cons_lt r.isLt (place_cons_lt sr.isLt (place_nil_lt 0) (Nat.le_of_ble_eq_true rfl)) (Nat.le_of_ble_eq_true rfl)))), fld_slotWord ho hf 6 2 (Nat.le_of_ble_eq_true rfl) r (place_skip (Nat.le_of_ble_eq_true rfl) (place_skip (Nat.le_of_ble_eq_true rfl) (place_hit r.isLt (place_cons_lt sr.isLt (place_nil_lt 0) (Nat.le_of_ble_eq_true rfl))))), fld_slotWord ho hf 0 6 (Nat.le_of_ble_eq_true rfl) sr (place_skip (Nat.le_of_ble_eq_true rfl) (place_skip (Nat.le_of_ble_eq_true rfl) (place_skip (Nat.le_of_ble_eq_true rfl) (place_hit sr.isLt (place_nil_lt 0)))))])))

theorem arm_aor {w : BitVec 32} (hop : opcodeOf w = 0x5B) : decodeB w = accept (true) (.aor (guardOf w) (fld w 14 6) (fld w 8 6) (fld w 6 2) (fld w 0 6)) := by
  unfold decodeB
  simp only [hop]

theorem aor (g : Guard) (d : BitVec 6) (b : BitVec 6) (r : BitVec 2) (sr : BitVec 6) : Statement (.aor g d b r sr) := by
  intro W hW
  obtain rfl : slotWord g 0x5B (place [(d.toNat, 14), (b.toNat, 8), (r.toNat, 6), (sr.toNat, 0)]) = W := Option.some.inj hW
  have ho : 0x5B < 2 ^ 7 := Nat.le_of_ble_eq_true rfl
  have hf : place [(d.toNat, 14), (b.toNat, 8), (r.toNat, 6), (sr.toNat, 0)] < 2 ^ 20 := place_cons_lt d.isLt (place_cons_lt b.isLt (place_cons_lt r.isLt (place_cons_lt sr.isLt (place_nil_lt 0) (Nat.le_of_ble_eq_true rfl)) (Nat.le_of_ble_eq_true rfl)) (Nat.le_of_ble_eq_true rfl)) (Nat.le_of_ble_eq_true rfl)
  have hop := opcodeOf_slotWord (g := g) ho hf
  refine ⟨congrArg some (guardOf_slotWord ho hf).symm, _, rfl, decodeSlot_eq ?_⟩
  exact (decodeRaw_B hop (by decide)).trans ((arm_aor hop).trans (accept_eq rfl (by rw [guardOf_slotWord ho hf, fld_slotWord ho hf 14 6 (Nat.le_of_ble_eq_true rfl) d (place_hit d.isLt (place_cons_lt b.isLt (place_cons_lt r.isLt (place_cons_lt sr.isLt (place_nil_lt 0) (Nat.le_of_ble_eq_true rfl)) (Nat.le_of_ble_eq_true rfl)) (Nat.le_of_ble_eq_true rfl))), fld_slotWord ho hf 8 6 (Nat.le_of_ble_eq_true rfl) b (place_skip (Nat.le_of_ble_eq_true rfl) (place_hit b.isLt (place_cons_lt r.isLt (place_cons_lt sr.isLt (place_nil_lt 0) (Nat.le_of_ble_eq_true rfl)) (Nat.le_of_ble_eq_true rfl)))), fld_slotWord ho hf 6 2 (Nat.le_of_ble_eq_true rfl) r (place_skip (Nat.le_of_ble_eq_true rfl) (place_skip (Nat.le_of_ble_eq_true rfl) (place_hit r.isLt (place_cons_lt sr.isLt (place_nil_lt 0) (Nat.le_of_ble_eq_true rfl))))), fld_slotWord ho hf 0 6 (Nat.le_of_ble_eq_true rfl) sr (place_skip (Nat.le_of_ble_eq_true rfl) (place_skip (Nat.le_of_ble_eq_true rfl) (place_skip (Nat.le_of_ble_eq_true rfl) (place_hit sr.isLt (place_nil_lt 0)))))])))

theorem arm_axor4 {w : BitVec 32} (hop : opcodeOf w = 0x5C) : decodeB w = accept (true) (.axor4 (guardOf w) (fld w 14 6) (fld w 8 6) (fld w 6 2) (fld w 0 6)) := by
  unfold decodeB
  simp only [hop]

theorem axor4 (g : Guard) (d : BitVec 6) (b : BitVec 6) (r : BitVec 2) (sr : BitVec 6) : Statement (.axor4 g d b r sr) := by
  intro W hW
  obtain rfl : slotWord g 0x5C (place [(d.toNat, 14), (b.toNat, 8), (r.toNat, 6), (sr.toNat, 0)]) = W := Option.some.inj hW
  have ho : 0x5C < 2 ^ 7 := Nat.le_of_ble_eq_true rfl
  have hf : place [(d.toNat, 14), (b.toNat, 8), (r.toNat, 6), (sr.toNat, 0)] < 2 ^ 20 := place_cons_lt d.isLt (place_cons_lt b.isLt (place_cons_lt r.isLt (place_cons_lt sr.isLt (place_nil_lt 0) (Nat.le_of_ble_eq_true rfl)) (Nat.le_of_ble_eq_true rfl)) (Nat.le_of_ble_eq_true rfl)) (Nat.le_of_ble_eq_true rfl)
  have hop := opcodeOf_slotWord (g := g) ho hf
  refine ⟨congrArg some (guardOf_slotWord ho hf).symm, _, rfl, decodeSlot_eq ?_⟩
  exact (decodeRaw_B hop (by decide)).trans ((arm_axor4 hop).trans (accept_eq rfl (by rw [guardOf_slotWord ho hf, fld_slotWord ho hf 14 6 (Nat.le_of_ble_eq_true rfl) d (place_hit d.isLt (place_cons_lt b.isLt (place_cons_lt r.isLt (place_cons_lt sr.isLt (place_nil_lt 0) (Nat.le_of_ble_eq_true rfl)) (Nat.le_of_ble_eq_true rfl)) (Nat.le_of_ble_eq_true rfl))), fld_slotWord ho hf 8 6 (Nat.le_of_ble_eq_true rfl) b (place_skip (Nat.le_of_ble_eq_true rfl) (place_hit b.isLt (place_cons_lt r.isLt (place_cons_lt sr.isLt (place_nil_lt 0) (Nat.le_of_ble_eq_true rfl)) (Nat.le_of_ble_eq_true rfl)))), fld_slotWord ho hf 6 2 (Nat.le_of_ble_eq_true rfl) r (place_skip (Nat.le_of_ble_eq_true rfl) (place_skip (Nat.le_of_ble_eq_true rfl) (place_hit r.isLt (place_cons_lt sr.isLt (place_nil_lt 0) (Nat.le_of_ble_eq_true rfl))))), fld_slotWord ho hf 0 6 (Nat.le_of_ble_eq_true rfl) sr (place_skip (Nat.le_of_ble_eq_true rfl) (place_skip (Nat.le_of_ble_eq_true rfl) (place_skip (Nat.le_of_ble_eq_true rfl) (place_hit sr.isLt (place_nil_lt 0)))))])))

theorem arm_axor {w : BitVec 32} (hop : opcodeOf w = 0x5D) : decodeB w = accept (true) (.axor (guardOf w) (fld w 14 6) (fld w 8 6) (fld w 6 2) (fld w 0 6)) := by
  unfold decodeB
  simp only [hop]

theorem axor (g : Guard) (d : BitVec 6) (b : BitVec 6) (r : BitVec 2) (sr : BitVec 6) : Statement (.axor g d b r sr) := by
  intro W hW
  obtain rfl : slotWord g 0x5D (place [(d.toNat, 14), (b.toNat, 8), (r.toNat, 6), (sr.toNat, 0)]) = W := Option.some.inj hW
  have ho : 0x5D < 2 ^ 7 := Nat.le_of_ble_eq_true rfl
  have hf : place [(d.toNat, 14), (b.toNat, 8), (r.toNat, 6), (sr.toNat, 0)] < 2 ^ 20 := place_cons_lt d.isLt (place_cons_lt b.isLt (place_cons_lt r.isLt (place_cons_lt sr.isLt (place_nil_lt 0) (Nat.le_of_ble_eq_true rfl)) (Nat.le_of_ble_eq_true rfl)) (Nat.le_of_ble_eq_true rfl)) (Nat.le_of_ble_eq_true rfl)
  have hop := opcodeOf_slotWord (g := g) ho hf
  refine ⟨congrArg some (guardOf_slotWord ho hf).symm, _, rfl, decodeSlot_eq ?_⟩
  exact (decodeRaw_B hop (by decide)).trans ((arm_axor hop).trans (accept_eq rfl (by rw [guardOf_slotWord ho hf, fld_slotWord ho hf 14 6 (Nat.le_of_ble_eq_true rfl) d (place_hit d.isLt (place_cons_lt b.isLt (place_cons_lt r.isLt (place_cons_lt sr.isLt (place_nil_lt 0) (Nat.le_of_ble_eq_true rfl)) (Nat.le_of_ble_eq_true rfl)) (Nat.le_of_ble_eq_true rfl))), fld_slotWord ho hf 8 6 (Nat.le_of_ble_eq_true rfl) b (place_skip (Nat.le_of_ble_eq_true rfl) (place_hit b.isLt (place_cons_lt r.isLt (place_cons_lt sr.isLt (place_nil_lt 0) (Nat.le_of_ble_eq_true rfl)) (Nat.le_of_ble_eq_true rfl)))), fld_slotWord ho hf 6 2 (Nat.le_of_ble_eq_true rfl) r (place_skip (Nat.le_of_ble_eq_true rfl) (place_skip (Nat.le_of_ble_eq_true rfl) (place_hit r.isLt (place_cons_lt sr.isLt (place_nil_lt 0) (Nat.le_of_ble_eq_true rfl))))), fld_slotWord ho hf 0 6 (Nat.le_of_ble_eq_true rfl) sr (place_skip (Nat.le_of_ble_eq_true rfl) (place_skip (Nat.le_of_ble_eq_true rfl) (place_skip (Nat.le_of_ble_eq_true rfl) (place_hit sr.isLt (place_nil_lt 0)))))])))

theorem arm_amin4 {w : BitVec 32} (hop : opcodeOf w = 0x5E) : decodeB w = accept (true) (.amin4 (guardOf w) (fld w 14 6) (fld w 8 6) (fld w 6 2) (fld w 0 6)) := by
  unfold decodeB
  simp only [hop]

theorem amin4 (g : Guard) (d : BitVec 6) (b : BitVec 6) (r : BitVec 2) (sr : BitVec 6) : Statement (.amin4 g d b r sr) := by
  intro W hW
  obtain rfl : slotWord g 0x5E (place [(d.toNat, 14), (b.toNat, 8), (r.toNat, 6), (sr.toNat, 0)]) = W := Option.some.inj hW
  have ho : 0x5E < 2 ^ 7 := Nat.le_of_ble_eq_true rfl
  have hf : place [(d.toNat, 14), (b.toNat, 8), (r.toNat, 6), (sr.toNat, 0)] < 2 ^ 20 := place_cons_lt d.isLt (place_cons_lt b.isLt (place_cons_lt r.isLt (place_cons_lt sr.isLt (place_nil_lt 0) (Nat.le_of_ble_eq_true rfl)) (Nat.le_of_ble_eq_true rfl)) (Nat.le_of_ble_eq_true rfl)) (Nat.le_of_ble_eq_true rfl)
  have hop := opcodeOf_slotWord (g := g) ho hf
  refine ⟨congrArg some (guardOf_slotWord ho hf).symm, _, rfl, decodeSlot_eq ?_⟩
  exact (decodeRaw_B hop (by decide)).trans ((arm_amin4 hop).trans (accept_eq rfl (by rw [guardOf_slotWord ho hf, fld_slotWord ho hf 14 6 (Nat.le_of_ble_eq_true rfl) d (place_hit d.isLt (place_cons_lt b.isLt (place_cons_lt r.isLt (place_cons_lt sr.isLt (place_nil_lt 0) (Nat.le_of_ble_eq_true rfl)) (Nat.le_of_ble_eq_true rfl)) (Nat.le_of_ble_eq_true rfl))), fld_slotWord ho hf 8 6 (Nat.le_of_ble_eq_true rfl) b (place_skip (Nat.le_of_ble_eq_true rfl) (place_hit b.isLt (place_cons_lt r.isLt (place_cons_lt sr.isLt (place_nil_lt 0) (Nat.le_of_ble_eq_true rfl)) (Nat.le_of_ble_eq_true rfl)))), fld_slotWord ho hf 6 2 (Nat.le_of_ble_eq_true rfl) r (place_skip (Nat.le_of_ble_eq_true rfl) (place_skip (Nat.le_of_ble_eq_true rfl) (place_hit r.isLt (place_cons_lt sr.isLt (place_nil_lt 0) (Nat.le_of_ble_eq_true rfl))))), fld_slotWord ho hf 0 6 (Nat.le_of_ble_eq_true rfl) sr (place_skip (Nat.le_of_ble_eq_true rfl) (place_skip (Nat.le_of_ble_eq_true rfl) (place_skip (Nat.le_of_ble_eq_true rfl) (place_hit sr.isLt (place_nil_lt 0)))))])))

theorem arm_amin {w : BitVec 32} (hop : opcodeOf w = 0x5F) : decodeB w = accept (true) (.amin (guardOf w) (fld w 14 6) (fld w 8 6) (fld w 6 2) (fld w 0 6)) := by
  unfold decodeB
  simp only [hop]

theorem amin (g : Guard) (d : BitVec 6) (b : BitVec 6) (r : BitVec 2) (sr : BitVec 6) : Statement (.amin g d b r sr) := by
  intro W hW
  obtain rfl : slotWord g 0x5F (place [(d.toNat, 14), (b.toNat, 8), (r.toNat, 6), (sr.toNat, 0)]) = W := Option.some.inj hW
  have ho : 0x5F < 2 ^ 7 := Nat.le_of_ble_eq_true rfl
  have hf : place [(d.toNat, 14), (b.toNat, 8), (r.toNat, 6), (sr.toNat, 0)] < 2 ^ 20 := place_cons_lt d.isLt (place_cons_lt b.isLt (place_cons_lt r.isLt (place_cons_lt sr.isLt (place_nil_lt 0) (Nat.le_of_ble_eq_true rfl)) (Nat.le_of_ble_eq_true rfl)) (Nat.le_of_ble_eq_true rfl)) (Nat.le_of_ble_eq_true rfl)
  have hop := opcodeOf_slotWord (g := g) ho hf
  refine ⟨congrArg some (guardOf_slotWord ho hf).symm, _, rfl, decodeSlot_eq ?_⟩
  exact (decodeRaw_B hop (by decide)).trans ((arm_amin hop).trans (accept_eq rfl (by rw [guardOf_slotWord ho hf, fld_slotWord ho hf 14 6 (Nat.le_of_ble_eq_true rfl) d (place_hit d.isLt (place_cons_lt b.isLt (place_cons_lt r.isLt (place_cons_lt sr.isLt (place_nil_lt 0) (Nat.le_of_ble_eq_true rfl)) (Nat.le_of_ble_eq_true rfl)) (Nat.le_of_ble_eq_true rfl))), fld_slotWord ho hf 8 6 (Nat.le_of_ble_eq_true rfl) b (place_skip (Nat.le_of_ble_eq_true rfl) (place_hit b.isLt (place_cons_lt r.isLt (place_cons_lt sr.isLt (place_nil_lt 0) (Nat.le_of_ble_eq_true rfl)) (Nat.le_of_ble_eq_true rfl)))), fld_slotWord ho hf 6 2 (Nat.le_of_ble_eq_true rfl) r (place_skip (Nat.le_of_ble_eq_true rfl) (place_skip (Nat.le_of_ble_eq_true rfl) (place_hit r.isLt (place_cons_lt sr.isLt (place_nil_lt 0) (Nat.le_of_ble_eq_true rfl))))), fld_slotWord ho hf 0 6 (Nat.le_of_ble_eq_true rfl) sr (place_skip (Nat.le_of_ble_eq_true rfl) (place_skip (Nat.le_of_ble_eq_true rfl) (place_skip (Nat.le_of_ble_eq_true rfl) (place_hit sr.isLt (place_nil_lt 0)))))])))

theorem arm_amax4 {w : BitVec 32} (hop : opcodeOf w = 0x60) : decodeB w = accept (true) (.amax4 (guardOf w) (fld w 14 6) (fld w 8 6) (fld w 6 2) (fld w 0 6)) := by
  unfold decodeB
  simp only [hop]

theorem amax4 (g : Guard) (d : BitVec 6) (b : BitVec 6) (r : BitVec 2) (sr : BitVec 6) : Statement (.amax4 g d b r sr) := by
  intro W hW
  obtain rfl : slotWord g 0x60 (place [(d.toNat, 14), (b.toNat, 8), (r.toNat, 6), (sr.toNat, 0)]) = W := Option.some.inj hW
  have ho : 0x60 < 2 ^ 7 := Nat.le_of_ble_eq_true rfl
  have hf : place [(d.toNat, 14), (b.toNat, 8), (r.toNat, 6), (sr.toNat, 0)] < 2 ^ 20 := place_cons_lt d.isLt (place_cons_lt b.isLt (place_cons_lt r.isLt (place_cons_lt sr.isLt (place_nil_lt 0) (Nat.le_of_ble_eq_true rfl)) (Nat.le_of_ble_eq_true rfl)) (Nat.le_of_ble_eq_true rfl)) (Nat.le_of_ble_eq_true rfl)
  have hop := opcodeOf_slotWord (g := g) ho hf
  refine ⟨congrArg some (guardOf_slotWord ho hf).symm, _, rfl, decodeSlot_eq ?_⟩
  exact (decodeRaw_B hop (by decide)).trans ((arm_amax4 hop).trans (accept_eq rfl (by rw [guardOf_slotWord ho hf, fld_slotWord ho hf 14 6 (Nat.le_of_ble_eq_true rfl) d (place_hit d.isLt (place_cons_lt b.isLt (place_cons_lt r.isLt (place_cons_lt sr.isLt (place_nil_lt 0) (Nat.le_of_ble_eq_true rfl)) (Nat.le_of_ble_eq_true rfl)) (Nat.le_of_ble_eq_true rfl))), fld_slotWord ho hf 8 6 (Nat.le_of_ble_eq_true rfl) b (place_skip (Nat.le_of_ble_eq_true rfl) (place_hit b.isLt (place_cons_lt r.isLt (place_cons_lt sr.isLt (place_nil_lt 0) (Nat.le_of_ble_eq_true rfl)) (Nat.le_of_ble_eq_true rfl)))), fld_slotWord ho hf 6 2 (Nat.le_of_ble_eq_true rfl) r (place_skip (Nat.le_of_ble_eq_true rfl) (place_skip (Nat.le_of_ble_eq_true rfl) (place_hit r.isLt (place_cons_lt sr.isLt (place_nil_lt 0) (Nat.le_of_ble_eq_true rfl))))), fld_slotWord ho hf 0 6 (Nat.le_of_ble_eq_true rfl) sr (place_skip (Nat.le_of_ble_eq_true rfl) (place_skip (Nat.le_of_ble_eq_true rfl) (place_skip (Nat.le_of_ble_eq_true rfl) (place_hit sr.isLt (place_nil_lt 0)))))])))

theorem arm_amax {w : BitVec 32} (hop : opcodeOf w = 0x61) : decodeB w = accept (true) (.amax (guardOf w) (fld w 14 6) (fld w 8 6) (fld w 6 2) (fld w 0 6)) := by
  unfold decodeB
  simp only [hop]

theorem amax (g : Guard) (d : BitVec 6) (b : BitVec 6) (r : BitVec 2) (sr : BitVec 6) : Statement (.amax g d b r sr) := by
  intro W hW
  obtain rfl : slotWord g 0x61 (place [(d.toNat, 14), (b.toNat, 8), (r.toNat, 6), (sr.toNat, 0)]) = W := Option.some.inj hW
  have ho : 0x61 < 2 ^ 7 := Nat.le_of_ble_eq_true rfl
  have hf : place [(d.toNat, 14), (b.toNat, 8), (r.toNat, 6), (sr.toNat, 0)] < 2 ^ 20 := place_cons_lt d.isLt (place_cons_lt b.isLt (place_cons_lt r.isLt (place_cons_lt sr.isLt (place_nil_lt 0) (Nat.le_of_ble_eq_true rfl)) (Nat.le_of_ble_eq_true rfl)) (Nat.le_of_ble_eq_true rfl)) (Nat.le_of_ble_eq_true rfl)
  have hop := opcodeOf_slotWord (g := g) ho hf
  refine ⟨congrArg some (guardOf_slotWord ho hf).symm, _, rfl, decodeSlot_eq ?_⟩
  exact (decodeRaw_B hop (by decide)).trans ((arm_amax hop).trans (accept_eq rfl (by rw [guardOf_slotWord ho hf, fld_slotWord ho hf 14 6 (Nat.le_of_ble_eq_true rfl) d (place_hit d.isLt (place_cons_lt b.isLt (place_cons_lt r.isLt (place_cons_lt sr.isLt (place_nil_lt 0) (Nat.le_of_ble_eq_true rfl)) (Nat.le_of_ble_eq_true rfl)) (Nat.le_of_ble_eq_true rfl))), fld_slotWord ho hf 8 6 (Nat.le_of_ble_eq_true rfl) b (place_skip (Nat.le_of_ble_eq_true rfl) (place_hit b.isLt (place_cons_lt r.isLt (place_cons_lt sr.isLt (place_nil_lt 0) (Nat.le_of_ble_eq_true rfl)) (Nat.le_of_ble_eq_true rfl)))), fld_slotWord ho hf 6 2 (Nat.le_of_ble_eq_true rfl) r (place_skip (Nat.le_of_ble_eq_true rfl) (place_skip (Nat.le_of_ble_eq_true rfl) (place_hit r.isLt (place_cons_lt sr.isLt (place_nil_lt 0) (Nat.le_of_ble_eq_true rfl))))), fld_slotWord ho hf 0 6 (Nat.le_of_ble_eq_true rfl) sr (place_skip (Nat.le_of_ble_eq_true rfl) (place_skip (Nat.le_of_ble_eq_true rfl) (place_skip (Nat.le_of_ble_eq_true rfl) (place_hit sr.isLt (place_nil_lt 0)))))])))

theorem arm_aminn4 {w : BitVec 32} (hop : opcodeOf w = 0x62) : decodeB w = accept (true) (.aminn4 (guardOf w) (fld w 14 6) (fld w 8 6) (fld w 6 2) (fld w 0 6)) := by
  unfold decodeB
  simp only [hop]

theorem aminn4 (g : Guard) (d : BitVec 6) (b : BitVec 6) (r : BitVec 2) (sr : BitVec 6) : Statement (.aminn4 g d b r sr) := by
  intro W hW
  obtain rfl : slotWord g 0x62 (place [(d.toNat, 14), (b.toNat, 8), (r.toNat, 6), (sr.toNat, 0)]) = W := Option.some.inj hW
  have ho : 0x62 < 2 ^ 7 := Nat.le_of_ble_eq_true rfl
  have hf : place [(d.toNat, 14), (b.toNat, 8), (r.toNat, 6), (sr.toNat, 0)] < 2 ^ 20 := place_cons_lt d.isLt (place_cons_lt b.isLt (place_cons_lt r.isLt (place_cons_lt sr.isLt (place_nil_lt 0) (Nat.le_of_ble_eq_true rfl)) (Nat.le_of_ble_eq_true rfl)) (Nat.le_of_ble_eq_true rfl)) (Nat.le_of_ble_eq_true rfl)
  have hop := opcodeOf_slotWord (g := g) ho hf
  refine ⟨congrArg some (guardOf_slotWord ho hf).symm, _, rfl, decodeSlot_eq ?_⟩
  exact (decodeRaw_B hop (by decide)).trans ((arm_aminn4 hop).trans (accept_eq rfl (by rw [guardOf_slotWord ho hf, fld_slotWord ho hf 14 6 (Nat.le_of_ble_eq_true rfl) d (place_hit d.isLt (place_cons_lt b.isLt (place_cons_lt r.isLt (place_cons_lt sr.isLt (place_nil_lt 0) (Nat.le_of_ble_eq_true rfl)) (Nat.le_of_ble_eq_true rfl)) (Nat.le_of_ble_eq_true rfl))), fld_slotWord ho hf 8 6 (Nat.le_of_ble_eq_true rfl) b (place_skip (Nat.le_of_ble_eq_true rfl) (place_hit b.isLt (place_cons_lt r.isLt (place_cons_lt sr.isLt (place_nil_lt 0) (Nat.le_of_ble_eq_true rfl)) (Nat.le_of_ble_eq_true rfl)))), fld_slotWord ho hf 6 2 (Nat.le_of_ble_eq_true rfl) r (place_skip (Nat.le_of_ble_eq_true rfl) (place_skip (Nat.le_of_ble_eq_true rfl) (place_hit r.isLt (place_cons_lt sr.isLt (place_nil_lt 0) (Nat.le_of_ble_eq_true rfl))))), fld_slotWord ho hf 0 6 (Nat.le_of_ble_eq_true rfl) sr (place_skip (Nat.le_of_ble_eq_true rfl) (place_skip (Nat.le_of_ble_eq_true rfl) (place_skip (Nat.le_of_ble_eq_true rfl) (place_hit sr.isLt (place_nil_lt 0)))))])))

theorem arm_aminn {w : BitVec 32} (hop : opcodeOf w = 0x63) : decodeB w = accept (true) (.aminn (guardOf w) (fld w 14 6) (fld w 8 6) (fld w 6 2) (fld w 0 6)) := by
  unfold decodeB
  simp only [hop]

theorem aminn (g : Guard) (d : BitVec 6) (b : BitVec 6) (r : BitVec 2) (sr : BitVec 6) : Statement (.aminn g d b r sr) := by
  intro W hW
  obtain rfl : slotWord g 0x63 (place [(d.toNat, 14), (b.toNat, 8), (r.toNat, 6), (sr.toNat, 0)]) = W := Option.some.inj hW
  have ho : 0x63 < 2 ^ 7 := Nat.le_of_ble_eq_true rfl
  have hf : place [(d.toNat, 14), (b.toNat, 8), (r.toNat, 6), (sr.toNat, 0)] < 2 ^ 20 := place_cons_lt d.isLt (place_cons_lt b.isLt (place_cons_lt r.isLt (place_cons_lt sr.isLt (place_nil_lt 0) (Nat.le_of_ble_eq_true rfl)) (Nat.le_of_ble_eq_true rfl)) (Nat.le_of_ble_eq_true rfl)) (Nat.le_of_ble_eq_true rfl)
  have hop := opcodeOf_slotWord (g := g) ho hf
  refine ⟨congrArg some (guardOf_slotWord ho hf).symm, _, rfl, decodeSlot_eq ?_⟩
  exact (decodeRaw_B hop (by decide)).trans ((arm_aminn hop).trans (accept_eq rfl (by rw [guardOf_slotWord ho hf, fld_slotWord ho hf 14 6 (Nat.le_of_ble_eq_true rfl) d (place_hit d.isLt (place_cons_lt b.isLt (place_cons_lt r.isLt (place_cons_lt sr.isLt (place_nil_lt 0) (Nat.le_of_ble_eq_true rfl)) (Nat.le_of_ble_eq_true rfl)) (Nat.le_of_ble_eq_true rfl))), fld_slotWord ho hf 8 6 (Nat.le_of_ble_eq_true rfl) b (place_skip (Nat.le_of_ble_eq_true rfl) (place_hit b.isLt (place_cons_lt r.isLt (place_cons_lt sr.isLt (place_nil_lt 0) (Nat.le_of_ble_eq_true rfl)) (Nat.le_of_ble_eq_true rfl)))), fld_slotWord ho hf 6 2 (Nat.le_of_ble_eq_true rfl) r (place_skip (Nat.le_of_ble_eq_true rfl) (place_skip (Nat.le_of_ble_eq_true rfl) (place_hit r.isLt (place_cons_lt sr.isLt (place_nil_lt 0) (Nat.le_of_ble_eq_true rfl))))), fld_slotWord ho hf 0 6 (Nat.le_of_ble_eq_true rfl) sr (place_skip (Nat.le_of_ble_eq_true rfl) (place_skip (Nat.le_of_ble_eq_true rfl) (place_skip (Nat.le_of_ble_eq_true rfl) (place_hit sr.isLt (place_nil_lt 0)))))])))

theorem arm_amaxn4 {w : BitVec 32} (hop : opcodeOf w = 0x64) : decodeB w = accept (true) (.amaxn4 (guardOf w) (fld w 14 6) (fld w 8 6) (fld w 6 2) (fld w 0 6)) := by
  unfold decodeB
  simp only [hop]

theorem amaxn4 (g : Guard) (d : BitVec 6) (b : BitVec 6) (r : BitVec 2) (sr : BitVec 6) : Statement (.amaxn4 g d b r sr) := by
  intro W hW
  obtain rfl : slotWord g 0x64 (place [(d.toNat, 14), (b.toNat, 8), (r.toNat, 6), (sr.toNat, 0)]) = W := Option.some.inj hW
  have ho : 0x64 < 2 ^ 7 := Nat.le_of_ble_eq_true rfl
  have hf : place [(d.toNat, 14), (b.toNat, 8), (r.toNat, 6), (sr.toNat, 0)] < 2 ^ 20 := place_cons_lt d.isLt (place_cons_lt b.isLt (place_cons_lt r.isLt (place_cons_lt sr.isLt (place_nil_lt 0) (Nat.le_of_ble_eq_true rfl)) (Nat.le_of_ble_eq_true rfl)) (Nat.le_of_ble_eq_true rfl)) (Nat.le_of_ble_eq_true rfl)
  have hop := opcodeOf_slotWord (g := g) ho hf
  refine ⟨congrArg some (guardOf_slotWord ho hf).symm, _, rfl, decodeSlot_eq ?_⟩
  exact (decodeRaw_B hop (by decide)).trans ((arm_amaxn4 hop).trans (accept_eq rfl (by rw [guardOf_slotWord ho hf, fld_slotWord ho hf 14 6 (Nat.le_of_ble_eq_true rfl) d (place_hit d.isLt (place_cons_lt b.isLt (place_cons_lt r.isLt (place_cons_lt sr.isLt (place_nil_lt 0) (Nat.le_of_ble_eq_true rfl)) (Nat.le_of_ble_eq_true rfl)) (Nat.le_of_ble_eq_true rfl))), fld_slotWord ho hf 8 6 (Nat.le_of_ble_eq_true rfl) b (place_skip (Nat.le_of_ble_eq_true rfl) (place_hit b.isLt (place_cons_lt r.isLt (place_cons_lt sr.isLt (place_nil_lt 0) (Nat.le_of_ble_eq_true rfl)) (Nat.le_of_ble_eq_true rfl)))), fld_slotWord ho hf 6 2 (Nat.le_of_ble_eq_true rfl) r (place_skip (Nat.le_of_ble_eq_true rfl) (place_skip (Nat.le_of_ble_eq_true rfl) (place_hit r.isLt (place_cons_lt sr.isLt (place_nil_lt 0) (Nat.le_of_ble_eq_true rfl))))), fld_slotWord ho hf 0 6 (Nat.le_of_ble_eq_true rfl) sr (place_skip (Nat.le_of_ble_eq_true rfl) (place_skip (Nat.le_of_ble_eq_true rfl) (place_skip (Nat.le_of_ble_eq_true rfl) (place_hit sr.isLt (place_nil_lt 0)))))])))

theorem arm_amaxn {w : BitVec 32} (hop : opcodeOf w = 0x65) : decodeB w = accept (true) (.amaxn (guardOf w) (fld w 14 6) (fld w 8 6) (fld w 6 2) (fld w 0 6)) := by
  unfold decodeB
  simp only [hop]

theorem amaxn (g : Guard) (d : BitVec 6) (b : BitVec 6) (r : BitVec 2) (sr : BitVec 6) : Statement (.amaxn g d b r sr) := by
  intro W hW
  obtain rfl : slotWord g 0x65 (place [(d.toNat, 14), (b.toNat, 8), (r.toNat, 6), (sr.toNat, 0)]) = W := Option.some.inj hW
  have ho : 0x65 < 2 ^ 7 := Nat.le_of_ble_eq_true rfl
  have hf : place [(d.toNat, 14), (b.toNat, 8), (r.toNat, 6), (sr.toNat, 0)] < 2 ^ 20 := place_cons_lt d.isLt (place_cons_lt b.isLt (place_cons_lt r.isLt (place_cons_lt sr.isLt (place_nil_lt 0) (Nat.le_of_ble_eq_true rfl)) (Nat.le_of_ble_eq_true rfl)) (Nat.le_of_ble_eq_true rfl)) (Nat.le_of_ble_eq_true rfl)
  have hop := opcodeOf_slotWord (g := g) ho hf
  refine ⟨congrArg some (guardOf_slotWord ho hf).symm, _, rfl, decodeSlot_eq ?_⟩
  exact (decodeRaw_B hop (by decide)).trans ((arm_amaxn hop).trans (accept_eq rfl (by rw [guardOf_slotWord ho hf, fld_slotWord ho hf 14 6 (Nat.le_of_ble_eq_true rfl) d (place_hit d.isLt (place_cons_lt b.isLt (place_cons_lt r.isLt (place_cons_lt sr.isLt (place_nil_lt 0) (Nat.le_of_ble_eq_true rfl)) (Nat.le_of_ble_eq_true rfl)) (Nat.le_of_ble_eq_true rfl))), fld_slotWord ho hf 8 6 (Nat.le_of_ble_eq_true rfl) b (place_skip (Nat.le_of_ble_eq_true rfl) (place_hit b.isLt (place_cons_lt r.isLt (place_cons_lt sr.isLt (place_nil_lt 0) (Nat.le_of_ble_eq_true rfl)) (Nat.le_of_ble_eq_true rfl)))), fld_slotWord ho hf 6 2 (Nat.le_of_ble_eq_true rfl) r (place_skip (Nat.le_of_ble_eq_true rfl) (place_skip (Nat.le_of_ble_eq_true rfl) (place_hit r.isLt (place_cons_lt sr.isLt (place_nil_lt 0) (Nat.le_of_ble_eq_true rfl))))), fld_slotWord ho hf 0 6 (Nat.le_of_ble_eq_true rfl) sr (place_skip (Nat.le_of_ble_eq_true rfl) (place_skip (Nat.le_of_ble_eq_true rfl) (place_skip (Nat.le_of_ble_eq_true rfl) (place_hit sr.isLt (place_nil_lt 0)))))])))

theorem arm_axchg4 {w : BitVec 32} (hop : opcodeOf w = 0x66) : decodeB w = accept (true) (.axchg4 (guardOf w) (fld w 14 6) (fld w 8 6) (fld w 6 2) (fld w 0 6)) := by
  unfold decodeB
  simp only [hop]

theorem axchg4 (g : Guard) (d : BitVec 6) (b : BitVec 6) (r : BitVec 2) (sr : BitVec 6) : Statement (.axchg4 g d b r sr) := by
  intro W hW
  obtain rfl : slotWord g 0x66 (place [(d.toNat, 14), (b.toNat, 8), (r.toNat, 6), (sr.toNat, 0)]) = W := Option.some.inj hW
  have ho : 0x66 < 2 ^ 7 := Nat.le_of_ble_eq_true rfl
  have hf : place [(d.toNat, 14), (b.toNat, 8), (r.toNat, 6), (sr.toNat, 0)] < 2 ^ 20 := place_cons_lt d.isLt (place_cons_lt b.isLt (place_cons_lt r.isLt (place_cons_lt sr.isLt (place_nil_lt 0) (Nat.le_of_ble_eq_true rfl)) (Nat.le_of_ble_eq_true rfl)) (Nat.le_of_ble_eq_true rfl)) (Nat.le_of_ble_eq_true rfl)
  have hop := opcodeOf_slotWord (g := g) ho hf
  refine ⟨congrArg some (guardOf_slotWord ho hf).symm, _, rfl, decodeSlot_eq ?_⟩
  exact (decodeRaw_B hop (by decide)).trans ((arm_axchg4 hop).trans (accept_eq rfl (by rw [guardOf_slotWord ho hf, fld_slotWord ho hf 14 6 (Nat.le_of_ble_eq_true rfl) d (place_hit d.isLt (place_cons_lt b.isLt (place_cons_lt r.isLt (place_cons_lt sr.isLt (place_nil_lt 0) (Nat.le_of_ble_eq_true rfl)) (Nat.le_of_ble_eq_true rfl)) (Nat.le_of_ble_eq_true rfl))), fld_slotWord ho hf 8 6 (Nat.le_of_ble_eq_true rfl) b (place_skip (Nat.le_of_ble_eq_true rfl) (place_hit b.isLt (place_cons_lt r.isLt (place_cons_lt sr.isLt (place_nil_lt 0) (Nat.le_of_ble_eq_true rfl)) (Nat.le_of_ble_eq_true rfl)))), fld_slotWord ho hf 6 2 (Nat.le_of_ble_eq_true rfl) r (place_skip (Nat.le_of_ble_eq_true rfl) (place_skip (Nat.le_of_ble_eq_true rfl) (place_hit r.isLt (place_cons_lt sr.isLt (place_nil_lt 0) (Nat.le_of_ble_eq_true rfl))))), fld_slotWord ho hf 0 6 (Nat.le_of_ble_eq_true rfl) sr (place_skip (Nat.le_of_ble_eq_true rfl) (place_skip (Nat.le_of_ble_eq_true rfl) (place_skip (Nat.le_of_ble_eq_true rfl) (place_hit sr.isLt (place_nil_lt 0)))))])))

theorem arm_axchg {w : BitVec 32} (hop : opcodeOf w = 0x67) : decodeB w = accept (true) (.axchg (guardOf w) (fld w 14 6) (fld w 8 6) (fld w 6 2) (fld w 0 6)) := by
  unfold decodeB
  simp only [hop]

theorem axchg (g : Guard) (d : BitVec 6) (b : BitVec 6) (r : BitVec 2) (sr : BitVec 6) : Statement (.axchg g d b r sr) := by
  intro W hW
  obtain rfl : slotWord g 0x67 (place [(d.toNat, 14), (b.toNat, 8), (r.toNat, 6), (sr.toNat, 0)]) = W := Option.some.inj hW
  have ho : 0x67 < 2 ^ 7 := Nat.le_of_ble_eq_true rfl
  have hf : place [(d.toNat, 14), (b.toNat, 8), (r.toNat, 6), (sr.toNat, 0)] < 2 ^ 20 := place_cons_lt d.isLt (place_cons_lt b.isLt (place_cons_lt r.isLt (place_cons_lt sr.isLt (place_nil_lt 0) (Nat.le_of_ble_eq_true rfl)) (Nat.le_of_ble_eq_true rfl)) (Nat.le_of_ble_eq_true rfl)) (Nat.le_of_ble_eq_true rfl)
  have hop := opcodeOf_slotWord (g := g) ho hf
  refine ⟨congrArg some (guardOf_slotWord ho hf).symm, _, rfl, decodeSlot_eq ?_⟩
  exact (decodeRaw_B hop (by decide)).trans ((arm_axchg hop).trans (accept_eq rfl (by rw [guardOf_slotWord ho hf, fld_slotWord ho hf 14 6 (Nat.le_of_ble_eq_true rfl) d (place_hit d.isLt (place_cons_lt b.isLt (place_cons_lt r.isLt (place_cons_lt sr.isLt (place_nil_lt 0) (Nat.le_of_ble_eq_true rfl)) (Nat.le_of_ble_eq_true rfl)) (Nat.le_of_ble_eq_true rfl))), fld_slotWord ho hf 8 6 (Nat.le_of_ble_eq_true rfl) b (place_skip (Nat.le_of_ble_eq_true rfl) (place_hit b.isLt (place_cons_lt r.isLt (place_cons_lt sr.isLt (place_nil_lt 0) (Nat.le_of_ble_eq_true rfl)) (Nat.le_of_ble_eq_true rfl)))), fld_slotWord ho hf 6 2 (Nat.le_of_ble_eq_true rfl) r (place_skip (Nat.le_of_ble_eq_true rfl) (place_skip (Nat.le_of_ble_eq_true rfl) (place_hit r.isLt (place_cons_lt sr.isLt (place_nil_lt 0) (Nat.le_of_ble_eq_true rfl))))), fld_slotWord ho hf 0 6 (Nat.le_of_ble_eq_true rfl) sr (place_skip (Nat.le_of_ble_eq_true rfl) (place_skip (Nat.le_of_ble_eq_true rfl) (place_skip (Nat.le_of_ble_eq_true rfl) (place_hit sr.isLt (place_nil_lt 0)))))])))

theorem arm_acas4 {w : BitVec 32} (hop : opcodeOf w = 0x68) : decodeB w = accept (true) (.acas4 (guardOf w) (fld w 14 6) (fld w 8 6) (fld w 6 2) (fld w 0 6)) := by
  unfold decodeB
  simp only [hop]

theorem acas4 (g : Guard) (d : BitVec 6) (b : BitVec 6) (r : BitVec 2) (sr : BitVec 6) : Statement (.acas4 g d b r sr) := by
  intro W hW
  obtain rfl : slotWord g 0x68 (place [(d.toNat, 14), (b.toNat, 8), (r.toNat, 6), (sr.toNat, 0)]) = W := Option.some.inj hW
  have ho : 0x68 < 2 ^ 7 := Nat.le_of_ble_eq_true rfl
  have hf : place [(d.toNat, 14), (b.toNat, 8), (r.toNat, 6), (sr.toNat, 0)] < 2 ^ 20 := place_cons_lt d.isLt (place_cons_lt b.isLt (place_cons_lt r.isLt (place_cons_lt sr.isLt (place_nil_lt 0) (Nat.le_of_ble_eq_true rfl)) (Nat.le_of_ble_eq_true rfl)) (Nat.le_of_ble_eq_true rfl)) (Nat.le_of_ble_eq_true rfl)
  have hop := opcodeOf_slotWord (g := g) ho hf
  refine ⟨congrArg some (guardOf_slotWord ho hf).symm, _, rfl, decodeSlot_eq ?_⟩
  exact (decodeRaw_B hop (by decide)).trans ((arm_acas4 hop).trans (accept_eq rfl (by rw [guardOf_slotWord ho hf, fld_slotWord ho hf 14 6 (Nat.le_of_ble_eq_true rfl) d (place_hit d.isLt (place_cons_lt b.isLt (place_cons_lt r.isLt (place_cons_lt sr.isLt (place_nil_lt 0) (Nat.le_of_ble_eq_true rfl)) (Nat.le_of_ble_eq_true rfl)) (Nat.le_of_ble_eq_true rfl))), fld_slotWord ho hf 8 6 (Nat.le_of_ble_eq_true rfl) b (place_skip (Nat.le_of_ble_eq_true rfl) (place_hit b.isLt (place_cons_lt r.isLt (place_cons_lt sr.isLt (place_nil_lt 0) (Nat.le_of_ble_eq_true rfl)) (Nat.le_of_ble_eq_true rfl)))), fld_slotWord ho hf 6 2 (Nat.le_of_ble_eq_true rfl) r (place_skip (Nat.le_of_ble_eq_true rfl) (place_skip (Nat.le_of_ble_eq_true rfl) (place_hit r.isLt (place_cons_lt sr.isLt (place_nil_lt 0) (Nat.le_of_ble_eq_true rfl))))), fld_slotWord ho hf 0 6 (Nat.le_of_ble_eq_true rfl) sr (place_skip (Nat.le_of_ble_eq_true rfl) (place_skip (Nat.le_of_ble_eq_true rfl) (place_skip (Nat.le_of_ble_eq_true rfl) (place_hit sr.isLt (place_nil_lt 0)))))])))

theorem arm_acas {w : BitVec 32} (hop : opcodeOf w = 0x69) : decodeB w = accept (true) (.acas (guardOf w) (fld w 14 6) (fld w 8 6) (fld w 6 2) (fld w 0 6)) := by
  unfold decodeB
  simp only [hop]

theorem acas (g : Guard) (d : BitVec 6) (b : BitVec 6) (r : BitVec 2) (sr : BitVec 6) : Statement (.acas g d b r sr) := by
  intro W hW
  obtain rfl : slotWord g 0x69 (place [(d.toNat, 14), (b.toNat, 8), (r.toNat, 6), (sr.toNat, 0)]) = W := Option.some.inj hW
  have ho : 0x69 < 2 ^ 7 := Nat.le_of_ble_eq_true rfl
  have hf : place [(d.toNat, 14), (b.toNat, 8), (r.toNat, 6), (sr.toNat, 0)] < 2 ^ 20 := place_cons_lt d.isLt (place_cons_lt b.isLt (place_cons_lt r.isLt (place_cons_lt sr.isLt (place_nil_lt 0) (Nat.le_of_ble_eq_true rfl)) (Nat.le_of_ble_eq_true rfl)) (Nat.le_of_ble_eq_true rfl)) (Nat.le_of_ble_eq_true rfl)
  have hop := opcodeOf_slotWord (g := g) ho hf
  refine ⟨congrArg some (guardOf_slotWord ho hf).symm, _, rfl, decodeSlot_eq ?_⟩
  exact (decodeRaw_B hop (by decide)).trans ((arm_acas hop).trans (accept_eq rfl (by rw [guardOf_slotWord ho hf, fld_slotWord ho hf 14 6 (Nat.le_of_ble_eq_true rfl) d (place_hit d.isLt (place_cons_lt b.isLt (place_cons_lt r.isLt (place_cons_lt sr.isLt (place_nil_lt 0) (Nat.le_of_ble_eq_true rfl)) (Nat.le_of_ble_eq_true rfl)) (Nat.le_of_ble_eq_true rfl))), fld_slotWord ho hf 8 6 (Nat.le_of_ble_eq_true rfl) b (place_skip (Nat.le_of_ble_eq_true rfl) (place_hit b.isLt (place_cons_lt r.isLt (place_cons_lt sr.isLt (place_nil_lt 0) (Nat.le_of_ble_eq_true rfl)) (Nat.le_of_ble_eq_true rfl)))), fld_slotWord ho hf 6 2 (Nat.le_of_ble_eq_true rfl) r (place_skip (Nat.le_of_ble_eq_true rfl) (place_skip (Nat.le_of_ble_eq_true rfl) (place_hit r.isLt (place_cons_lt sr.isLt (place_nil_lt 0) (Nat.le_of_ble_eq_true rfl))))), fld_slotWord ho hf 0 6 (Nat.le_of_ble_eq_true rfl) sr (place_skip (Nat.le_of_ble_eq_true rfl) (place_skip (Nat.le_of_ble_eq_true rfl) (place_skip (Nat.le_of_ble_eq_true rfl) (place_hit sr.isLt (place_nil_lt 0)))))])))

theorem arm_afaddF32 {w : BitVec 32} (hop : opcodeOf w = 0x6A) : decodeB w = accept (true) (.afaddF32 (guardOf w) (fld w 14 6) (fld w 8 6) (fld w 6 2) (fld w 0 6)) := by
  unfold decodeB
  simp only [hop]

theorem afaddF32 (g : Guard) (d : BitVec 6) (b : BitVec 6) (r : BitVec 2) (sr : BitVec 6) : Statement (.afaddF32 g d b r sr) := by
  intro W hW
  obtain rfl : slotWord g 0x6A (place [(d.toNat, 14), (b.toNat, 8), (r.toNat, 6), (sr.toNat, 0)]) = W := Option.some.inj hW
  have ho : 0x6A < 2 ^ 7 := Nat.le_of_ble_eq_true rfl
  have hf : place [(d.toNat, 14), (b.toNat, 8), (r.toNat, 6), (sr.toNat, 0)] < 2 ^ 20 := place_cons_lt d.isLt (place_cons_lt b.isLt (place_cons_lt r.isLt (place_cons_lt sr.isLt (place_nil_lt 0) (Nat.le_of_ble_eq_true rfl)) (Nat.le_of_ble_eq_true rfl)) (Nat.le_of_ble_eq_true rfl)) (Nat.le_of_ble_eq_true rfl)
  have hop := opcodeOf_slotWord (g := g) ho hf
  refine ⟨congrArg some (guardOf_slotWord ho hf).symm, _, rfl, decodeSlot_eq ?_⟩
  exact (decodeRaw_B hop (by decide)).trans ((arm_afaddF32 hop).trans (accept_eq rfl (by rw [guardOf_slotWord ho hf, fld_slotWord ho hf 14 6 (Nat.le_of_ble_eq_true rfl) d (place_hit d.isLt (place_cons_lt b.isLt (place_cons_lt r.isLt (place_cons_lt sr.isLt (place_nil_lt 0) (Nat.le_of_ble_eq_true rfl)) (Nat.le_of_ble_eq_true rfl)) (Nat.le_of_ble_eq_true rfl))), fld_slotWord ho hf 8 6 (Nat.le_of_ble_eq_true rfl) b (place_skip (Nat.le_of_ble_eq_true rfl) (place_hit b.isLt (place_cons_lt r.isLt (place_cons_lt sr.isLt (place_nil_lt 0) (Nat.le_of_ble_eq_true rfl)) (Nat.le_of_ble_eq_true rfl)))), fld_slotWord ho hf 6 2 (Nat.le_of_ble_eq_true rfl) r (place_skip (Nat.le_of_ble_eq_true rfl) (place_skip (Nat.le_of_ble_eq_true rfl) (place_hit r.isLt (place_cons_lt sr.isLt (place_nil_lt 0) (Nat.le_of_ble_eq_true rfl))))), fld_slotWord ho hf 0 6 (Nat.le_of_ble_eq_true rfl) sr (place_skip (Nat.le_of_ble_eq_true rfl) (place_skip (Nat.le_of_ble_eq_true rfl) (place_skip (Nat.le_of_ble_eq_true rfl) (place_hit sr.isLt (place_nil_lt 0)))))])))

theorem arm_afaddF64 {w : BitVec 32} (hop : opcodeOf w = 0x6B) : decodeB w = accept (true) (.afaddF64 (guardOf w) (fld w 14 6) (fld w 8 6) (fld w 6 2) (fld w 0 6)) := by
  unfold decodeB
  simp only [hop]

theorem afaddF64 (g : Guard) (d : BitVec 6) (b : BitVec 6) (r : BitVec 2) (sr : BitVec 6) : Statement (.afaddF64 g d b r sr) := by
  intro W hW
  obtain rfl : slotWord g 0x6B (place [(d.toNat, 14), (b.toNat, 8), (r.toNat, 6), (sr.toNat, 0)]) = W := Option.some.inj hW
  have ho : 0x6B < 2 ^ 7 := Nat.le_of_ble_eq_true rfl
  have hf : place [(d.toNat, 14), (b.toNat, 8), (r.toNat, 6), (sr.toNat, 0)] < 2 ^ 20 := place_cons_lt d.isLt (place_cons_lt b.isLt (place_cons_lt r.isLt (place_cons_lt sr.isLt (place_nil_lt 0) (Nat.le_of_ble_eq_true rfl)) (Nat.le_of_ble_eq_true rfl)) (Nat.le_of_ble_eq_true rfl)) (Nat.le_of_ble_eq_true rfl)
  have hop := opcodeOf_slotWord (g := g) ho hf
  refine ⟨congrArg some (guardOf_slotWord ho hf).symm, _, rfl, decodeSlot_eq ?_⟩
  exact (decodeRaw_B hop (by decide)).trans ((arm_afaddF64 hop).trans (accept_eq rfl (by rw [guardOf_slotWord ho hf, fld_slotWord ho hf 14 6 (Nat.le_of_ble_eq_true rfl) d (place_hit d.isLt (place_cons_lt b.isLt (place_cons_lt r.isLt (place_cons_lt sr.isLt (place_nil_lt 0) (Nat.le_of_ble_eq_true rfl)) (Nat.le_of_ble_eq_true rfl)) (Nat.le_of_ble_eq_true rfl))), fld_slotWord ho hf 8 6 (Nat.le_of_ble_eq_true rfl) b (place_skip (Nat.le_of_ble_eq_true rfl) (place_hit b.isLt (place_cons_lt r.isLt (place_cons_lt sr.isLt (place_nil_lt 0) (Nat.le_of_ble_eq_true rfl)) (Nat.le_of_ble_eq_true rfl)))), fld_slotWord ho hf 6 2 (Nat.le_of_ble_eq_true rfl) r (place_skip (Nat.le_of_ble_eq_true rfl) (place_skip (Nat.le_of_ble_eq_true rfl) (place_hit r.isLt (place_cons_lt sr.isLt (place_nil_lt 0) (Nat.le_of_ble_eq_true rfl))))), fld_slotWord ho hf 0 6 (Nat.le_of_ble_eq_true rfl) sr (place_skip (Nat.le_of_ble_eq_true rfl) (place_skip (Nat.le_of_ble_eq_true rfl) (place_skip (Nat.le_of_ble_eq_true rfl) (place_hit sr.isLt (place_nil_lt 0)))))])))

theorem arm_afminF32 {w : BitVec 32} (hop : opcodeOf w = 0x6C) : decodeB w = accept (true) (.afminF32 (guardOf w) (fld w 14 6) (fld w 8 6) (fld w 6 2) (fld w 0 6)) := by
  unfold decodeB
  simp only [hop]

theorem afminF32 (g : Guard) (d : BitVec 6) (b : BitVec 6) (r : BitVec 2) (sr : BitVec 6) : Statement (.afminF32 g d b r sr) := by
  intro W hW
  obtain rfl : slotWord g 0x6C (place [(d.toNat, 14), (b.toNat, 8), (r.toNat, 6), (sr.toNat, 0)]) = W := Option.some.inj hW
  have ho : 0x6C < 2 ^ 7 := Nat.le_of_ble_eq_true rfl
  have hf : place [(d.toNat, 14), (b.toNat, 8), (r.toNat, 6), (sr.toNat, 0)] < 2 ^ 20 := place_cons_lt d.isLt (place_cons_lt b.isLt (place_cons_lt r.isLt (place_cons_lt sr.isLt (place_nil_lt 0) (Nat.le_of_ble_eq_true rfl)) (Nat.le_of_ble_eq_true rfl)) (Nat.le_of_ble_eq_true rfl)) (Nat.le_of_ble_eq_true rfl)
  have hop := opcodeOf_slotWord (g := g) ho hf
  refine ⟨congrArg some (guardOf_slotWord ho hf).symm, _, rfl, decodeSlot_eq ?_⟩
  exact (decodeRaw_B hop (by decide)).trans ((arm_afminF32 hop).trans (accept_eq rfl (by rw [guardOf_slotWord ho hf, fld_slotWord ho hf 14 6 (Nat.le_of_ble_eq_true rfl) d (place_hit d.isLt (place_cons_lt b.isLt (place_cons_lt r.isLt (place_cons_lt sr.isLt (place_nil_lt 0) (Nat.le_of_ble_eq_true rfl)) (Nat.le_of_ble_eq_true rfl)) (Nat.le_of_ble_eq_true rfl))), fld_slotWord ho hf 8 6 (Nat.le_of_ble_eq_true rfl) b (place_skip (Nat.le_of_ble_eq_true rfl) (place_hit b.isLt (place_cons_lt r.isLt (place_cons_lt sr.isLt (place_nil_lt 0) (Nat.le_of_ble_eq_true rfl)) (Nat.le_of_ble_eq_true rfl)))), fld_slotWord ho hf 6 2 (Nat.le_of_ble_eq_true rfl) r (place_skip (Nat.le_of_ble_eq_true rfl) (place_skip (Nat.le_of_ble_eq_true rfl) (place_hit r.isLt (place_cons_lt sr.isLt (place_nil_lt 0) (Nat.le_of_ble_eq_true rfl))))), fld_slotWord ho hf 0 6 (Nat.le_of_ble_eq_true rfl) sr (place_skip (Nat.le_of_ble_eq_true rfl) (place_skip (Nat.le_of_ble_eq_true rfl) (place_skip (Nat.le_of_ble_eq_true rfl) (place_hit sr.isLt (place_nil_lt 0)))))])))

theorem arm_afmaxF32 {w : BitVec 32} (hop : opcodeOf w = 0x6D) : decodeB w = accept (true) (.afmaxF32 (guardOf w) (fld w 14 6) (fld w 8 6) (fld w 6 2) (fld w 0 6)) := by
  unfold decodeB
  simp only [hop]

theorem afmaxF32 (g : Guard) (d : BitVec 6) (b : BitVec 6) (r : BitVec 2) (sr : BitVec 6) : Statement (.afmaxF32 g d b r sr) := by
  intro W hW
  obtain rfl : slotWord g 0x6D (place [(d.toNat, 14), (b.toNat, 8), (r.toNat, 6), (sr.toNat, 0)]) = W := Option.some.inj hW
  have ho : 0x6D < 2 ^ 7 := Nat.le_of_ble_eq_true rfl
  have hf : place [(d.toNat, 14), (b.toNat, 8), (r.toNat, 6), (sr.toNat, 0)] < 2 ^ 20 := place_cons_lt d.isLt (place_cons_lt b.isLt (place_cons_lt r.isLt (place_cons_lt sr.isLt (place_nil_lt 0) (Nat.le_of_ble_eq_true rfl)) (Nat.le_of_ble_eq_true rfl)) (Nat.le_of_ble_eq_true rfl)) (Nat.le_of_ble_eq_true rfl)
  have hop := opcodeOf_slotWord (g := g) ho hf
  refine ⟨congrArg some (guardOf_slotWord ho hf).symm, _, rfl, decodeSlot_eq ?_⟩
  exact (decodeRaw_B hop (by decide)).trans ((arm_afmaxF32 hop).trans (accept_eq rfl (by rw [guardOf_slotWord ho hf, fld_slotWord ho hf 14 6 (Nat.le_of_ble_eq_true rfl) d (place_hit d.isLt (place_cons_lt b.isLt (place_cons_lt r.isLt (place_cons_lt sr.isLt (place_nil_lt 0) (Nat.le_of_ble_eq_true rfl)) (Nat.le_of_ble_eq_true rfl)) (Nat.le_of_ble_eq_true rfl))), fld_slotWord ho hf 8 6 (Nat.le_of_ble_eq_true rfl) b (place_skip (Nat.le_of_ble_eq_true rfl) (place_hit b.isLt (place_cons_lt r.isLt (place_cons_lt sr.isLt (place_nil_lt 0) (Nat.le_of_ble_eq_true rfl)) (Nat.le_of_ble_eq_true rfl)))), fld_slotWord ho hf 6 2 (Nat.le_of_ble_eq_true rfl) r (place_skip (Nat.le_of_ble_eq_true rfl) (place_skip (Nat.le_of_ble_eq_true rfl) (place_hit r.isLt (place_cons_lt sr.isLt (place_nil_lt 0) (Nat.le_of_ble_eq_true rfl))))), fld_slotWord ho hf 0 6 (Nat.le_of_ble_eq_true rfl) sr (place_skip (Nat.le_of_ble_eq_true rfl) (place_skip (Nat.le_of_ble_eq_true rfl) (place_skip (Nat.le_of_ble_eq_true rfl) (place_hit sr.isLt (place_nil_lt 0)))))])))

theorem arm_afminF64 {w : BitVec 32} (hop : opcodeOf w = 0x6E) : decodeB w = accept (true) (.afminF64 (guardOf w) (fld w 14 6) (fld w 8 6) (fld w 6 2) (fld w 0 6)) := by
  unfold decodeB
  simp only [hop]

theorem afminF64 (g : Guard) (d : BitVec 6) (b : BitVec 6) (r : BitVec 2) (sr : BitVec 6) : Statement (.afminF64 g d b r sr) := by
  intro W hW
  obtain rfl : slotWord g 0x6E (place [(d.toNat, 14), (b.toNat, 8), (r.toNat, 6), (sr.toNat, 0)]) = W := Option.some.inj hW
  have ho : 0x6E < 2 ^ 7 := Nat.le_of_ble_eq_true rfl
  have hf : place [(d.toNat, 14), (b.toNat, 8), (r.toNat, 6), (sr.toNat, 0)] < 2 ^ 20 := place_cons_lt d.isLt (place_cons_lt b.isLt (place_cons_lt r.isLt (place_cons_lt sr.isLt (place_nil_lt 0) (Nat.le_of_ble_eq_true rfl)) (Nat.le_of_ble_eq_true rfl)) (Nat.le_of_ble_eq_true rfl)) (Nat.le_of_ble_eq_true rfl)
  have hop := opcodeOf_slotWord (g := g) ho hf
  refine ⟨congrArg some (guardOf_slotWord ho hf).symm, _, rfl, decodeSlot_eq ?_⟩
  exact (decodeRaw_B hop (by decide)).trans ((arm_afminF64 hop).trans (accept_eq rfl (by rw [guardOf_slotWord ho hf, fld_slotWord ho hf 14 6 (Nat.le_of_ble_eq_true rfl) d (place_hit d.isLt (place_cons_lt b.isLt (place_cons_lt r.isLt (place_cons_lt sr.isLt (place_nil_lt 0) (Nat.le_of_ble_eq_true rfl)) (Nat.le_of_ble_eq_true rfl)) (Nat.le_of_ble_eq_true rfl))), fld_slotWord ho hf 8 6 (Nat.le_of_ble_eq_true rfl) b (place_skip (Nat.le_of_ble_eq_true rfl) (place_hit b.isLt (place_cons_lt r.isLt (place_cons_lt sr.isLt (place_nil_lt 0) (Nat.le_of_ble_eq_true rfl)) (Nat.le_of_ble_eq_true rfl)))), fld_slotWord ho hf 6 2 (Nat.le_of_ble_eq_true rfl) r (place_skip (Nat.le_of_ble_eq_true rfl) (place_skip (Nat.le_of_ble_eq_true rfl) (place_hit r.isLt (place_cons_lt sr.isLt (place_nil_lt 0) (Nat.le_of_ble_eq_true rfl))))), fld_slotWord ho hf 0 6 (Nat.le_of_ble_eq_true rfl) sr (place_skip (Nat.le_of_ble_eq_true rfl) (place_skip (Nat.le_of_ble_eq_true rfl) (place_skip (Nat.le_of_ble_eq_true rfl) (place_hit sr.isLt (place_nil_lt 0)))))])))

theorem arm_afmaxF64 {w : BitVec 32} (hop : opcodeOf w = 0x6F) : decodeB w = accept (true) (.afmaxF64 (guardOf w) (fld w 14 6) (fld w 8 6) (fld w 6 2) (fld w 0 6)) := by
  unfold decodeB
  simp only [hop]

theorem afmaxF64 (g : Guard) (d : BitVec 6) (b : BitVec 6) (r : BitVec 2) (sr : BitVec 6) : Statement (.afmaxF64 g d b r sr) := by
  intro W hW
  obtain rfl : slotWord g 0x6F (place [(d.toNat, 14), (b.toNat, 8), (r.toNat, 6), (sr.toNat, 0)]) = W := Option.some.inj hW
  have ho : 0x6F < 2 ^ 7 := Nat.le_of_ble_eq_true rfl
  have hf : place [(d.toNat, 14), (b.toNat, 8), (r.toNat, 6), (sr.toNat, 0)] < 2 ^ 20 := place_cons_lt d.isLt (place_cons_lt b.isLt (place_cons_lt r.isLt (place_cons_lt sr.isLt (place_nil_lt 0) (Nat.le_of_ble_eq_true rfl)) (Nat.le_of_ble_eq_true rfl)) (Nat.le_of_ble_eq_true rfl)) (Nat.le_of_ble_eq_true rfl)
  have hop := opcodeOf_slotWord (g := g) ho hf
  refine ⟨congrArg some (guardOf_slotWord ho hf).symm, _, rfl, decodeSlot_eq ?_⟩
  exact (decodeRaw_B hop (by decide)).trans ((arm_afmaxF64 hop).trans (accept_eq rfl (by rw [guardOf_slotWord ho hf, fld_slotWord ho hf 14 6 (Nat.le_of_ble_eq_true rfl) d (place_hit d.isLt (place_cons_lt b.isLt (place_cons_lt r.isLt (place_cons_lt sr.isLt (place_nil_lt 0) (Nat.le_of_ble_eq_true rfl)) (Nat.le_of_ble_eq_true rfl)) (Nat.le_of_ble_eq_true rfl))), fld_slotWord ho hf 8 6 (Nat.le_of_ble_eq_true rfl) b (place_skip (Nat.le_of_ble_eq_true rfl) (place_hit b.isLt (place_cons_lt r.isLt (place_cons_lt sr.isLt (place_nil_lt 0) (Nat.le_of_ble_eq_true rfl)) (Nat.le_of_ble_eq_true rfl)))), fld_slotWord ho hf 6 2 (Nat.le_of_ble_eq_true rfl) r (place_skip (Nat.le_of_ble_eq_true rfl) (place_skip (Nat.le_of_ble_eq_true rfl) (place_hit r.isLt (place_cons_lt sr.isLt (place_nil_lt 0) (Nat.le_of_ble_eq_true rfl))))), fld_slotWord ho hf 0 6 (Nat.le_of_ble_eq_true rfl) sr (place_skip (Nat.le_of_ble_eq_true rfl) (place_skip (Nat.le_of_ble_eq_true rfl) (place_skip (Nat.le_of_ble_eq_true rfl) (place_hit sr.isLt (place_nil_lt 0)))))])))

theorem arm_chunk {w : BitVec 32} (hop : opcodeOf w = 0x70) : decodeB w = accept (holds w 0 6 0) (.chunk (guardOf w) (fld w 14 6) (fld w 8 6) (fld w 6 2)) := by
  unfold decodeB
  simp only [hop]

theorem chunk (g : Guard) (d : BitVec 6) (b : BitVec 6) (r : BitVec 2) : Statement (.chunk g d b r) := by
  intro W hW
  obtain rfl : slotWord g 0x70 (place [(d.toNat, 14), (b.toNat, 8), (r.toNat, 6)]) = W := Option.some.inj hW
  have ho : 0x70 < 2 ^ 7 := Nat.le_of_ble_eq_true rfl
  have hf : place [(d.toNat, 14), (b.toNat, 8), (r.toNat, 6)] < 2 ^ 20 := place_cons_lt d.isLt (place_cons_lt b.isLt (place_cons_lt r.isLt (place_nil_lt 6) (Nat.le_of_ble_eq_true rfl)) (Nat.le_of_ble_eq_true rfl)) (Nat.le_of_ble_eq_true rfl)
  have hop := opcodeOf_slotWord (g := g) ho hf
  refine ⟨congrArg some (guardOf_slotWord ho hf).symm, _, rfl, decodeSlot_eq ?_⟩
  exact (decodeRaw_B hop (by decide)).trans ((arm_chunk hop).trans (accept_eq (holds_slotWord ho hf 0 6 0 (Nat.le_of_ble_eq_true rfl) (place_skip (Nat.le_of_ble_eq_true rfl) (place_skip (Nat.le_of_ble_eq_true rfl) (place_skip (Nat.le_of_ble_eq_true rfl) (place_zero (place_nil_lt 0)))))) (by rw [guardOf_slotWord ho hf, fld_slotWord ho hf 14 6 (Nat.le_of_ble_eq_true rfl) d (place_hit d.isLt (place_cons_lt b.isLt (place_cons_lt r.isLt (place_nil_lt 6) (Nat.le_of_ble_eq_true rfl)) (Nat.le_of_ble_eq_true rfl))), fld_slotWord ho hf 8 6 (Nat.le_of_ble_eq_true rfl) b (place_skip (Nat.le_of_ble_eq_true rfl) (place_hit b.isLt (place_cons_lt r.isLt (place_nil_lt 6) (Nat.le_of_ble_eq_true rfl)))), fld_slotWord ho hf 6 2 (Nat.le_of_ble_eq_true rfl) r (place_skip (Nat.le_of_ble_eq_true rfl) (place_skip (Nat.le_of_ble_eq_true rfl) (place_hit r.isLt (place_nil_lt 6))))])))

theorem arm_fence {w : BitVec 32} (hop : opcodeOf w = 0x71) : decodeB w = accept (holds w 14 6 0) (.fence (guardOf w) (fld w 0 14)) := by
  unfold decodeB
  simp only [hop]

theorem fence (g : Guard) (i : BitVec 14) : Statement (.fence g i) := by
  intro W hW
  obtain rfl : slotWord g 0x71 (place [(i.toNat, 0)]) = W := Option.some.inj hW
  have ho : 0x71 < 2 ^ 7 := Nat.le_of_ble_eq_true rfl
  have hf : place [(i.toNat, 0)] < 2 ^ 20 := place_cons_lt i.isLt (place_nil_lt 0) (Nat.le_of_ble_eq_true rfl)
  have hop := opcodeOf_slotWord (g := g) ho hf
  refine ⟨congrArg some (guardOf_slotWord ho hf).symm, _, rfl, decodeSlot_eq ?_⟩
  exact (decodeRaw_B hop (by decide)).trans ((arm_fence hop).trans (accept_eq (holds_slotWord ho hf 14 6 0 (Nat.le_of_ble_eq_true rfl) (place_zero (place_cons_lt i.isLt (place_nil_lt 0) (Nat.le_of_ble_eq_true rfl)))) (by rw [guardOf_slotWord ho hf, fld_slotWord ho hf 0 14 (Nat.le_of_ble_eq_true rfl) i (place_hit i.isLt (place_nil_lt 0))])))

theorem arm_drain {w : BitVec 32} (hop : opcodeOf w = 0x72) : decodeB w = accept (holds w 14 6 0) (.drain (guardOf w) (fld w 0 14)) := by
  unfold decodeB
  simp only [hop]

theorem drain (g : Guard) (i : BitVec 14) : Statement (.drain g i) := by
  intro W hW
  obtain rfl : slotWord g 0x72 (place [(i.toNat, 0)]) = W := Option.some.inj hW
  have ho : 0x72 < 2 ^ 7 := Nat.le_of_ble_eq_true rfl
  have hf : place [(i.toNat, 0)] < 2 ^ 20 := place_cons_lt i.isLt (place_nil_lt 0) (Nat.le_of_ble_eq_true rfl)
  have hop := opcodeOf_slotWord (g := g) ho hf
  refine ⟨congrArg some (guardOf_slotWord ho hf).symm, _, rfl, decodeSlot_eq ?_⟩
  exact (decodeRaw_B hop (by decide)).trans ((arm_drain hop).trans (accept_eq (holds_slotWord ho hf 14 6 0 (Nat.le_of_ble_eq_true rfl) (place_zero (place_cons_lt i.isLt (place_nil_lt 0) (Nat.le_of_ble_eq_true rfl)))) (by rw [guardOf_slotWord ho hf, fld_slotWord ho hf 0 14 (Nat.le_of_ble_eq_true rfl) i (place_hit i.isLt (place_nil_lt 0))])))

theorem arm_barArr {w : BitVec 32} (hop : opcodeOf w = 0x73) : decodeB w = accept (holds w 0 1 0 && holds w 2 6 0) (.barArr (guardOf w) (fld w 14 6) (fld w 8 6) (flag w 1)) := by
  unfold decodeB
  simp only [hop]

theorem barArr (g : Guard) (d : BitVec 6) (a : BitVec 6) (w : Bool) : Statement (.barArr g d a w) := by
  intro W hW
  obtain rfl : slotWord g 0x73 (place [(d.toNat, 14), (a.toNat, 8), (w.toNat, 1)]) = W := Option.some.inj hW
  have ho : 0x73 < 2 ^ 7 := Nat.le_of_ble_eq_true rfl
  have hf : place [(d.toNat, 14), (a.toNat, 8), (w.toNat, 1)] < 2 ^ 20 := place_cons_lt d.isLt (place_cons_lt a.isLt (place_cons_lt (bool_lt w) (place_nil_lt 1) (Nat.le_of_ble_eq_true rfl)) (Nat.le_of_ble_eq_true rfl)) (Nat.le_of_ble_eq_true rfl)
  have hop := opcodeOf_slotWord (g := g) ho hf
  refine ⟨congrArg some (guardOf_slotWord ho hf).symm, _, rfl, decodeSlot_eq ?_⟩
  exact (decodeRaw_B hop (by decide)).trans ((arm_barArr hop).trans (accept_eq (Bool.and_eq_true_iff.mpr ⟨(holds_slotWord ho hf 0 1 0 (Nat.le_of_ble_eq_true rfl) (place_skip (Nat.le_of_ble_eq_true rfl) (place_skip (Nat.le_of_ble_eq_true rfl) (place_skip (Nat.le_of_ble_eq_true rfl) (place_zero (place_nil_lt 0)))))), (holds_slotWord ho hf 2 6 0 (Nat.le_of_ble_eq_true rfl) (place_skip (Nat.le_of_ble_eq_true rfl) (place_skip (Nat.le_of_ble_eq_true rfl) (place_zero (place_cons_lt (bool_lt w) (place_nil_lt 1) (Nat.le_of_ble_eq_true rfl))))))⟩) (by rw [guardOf_slotWord ho hf, fld_slotWord ho hf 14 6 (Nat.le_of_ble_eq_true rfl) d (place_hit d.isLt (place_cons_lt a.isLt (place_cons_lt (bool_lt w) (place_nil_lt 1) (Nat.le_of_ble_eq_true rfl)) (Nat.le_of_ble_eq_true rfl))), fld_slotWord ho hf 8 6 (Nat.le_of_ble_eq_true rfl) a (place_skip (Nat.le_of_ble_eq_true rfl) (place_hit a.isLt (place_cons_lt (bool_lt w) (place_nil_lt 1) (Nat.le_of_ble_eq_true rfl)))), flag_slotWord ho hf 1 (Nat.le_of_ble_eq_true rfl) w (place_skip (Nat.le_of_ble_eq_true rfl) (place_skip (Nat.le_of_ble_eq_true rfl) (place_hit (bool_lt w) (place_nil_lt 1))))])))

theorem arm_barWt {w : BitVec 32} (hop : opcodeOf w = 0x74) : decodeB w = accept (holds w 0 2 0 && holds w 14 6 0) (.barWt (guardOf w) (fld w 8 6) (fld w 2 6)) := by
  unfold decodeB
  simp only [hop]

theorem barWt (g : Guard) (a : BitVec 6) (b : BitVec 6) : Statement (.barWt g a b) := by
  intro W hW
  obtain rfl : slotWord g 0x74 (place [(a.toNat, 8), (b.toNat, 2)]) = W := Option.some.inj hW
  have ho : 0x74 < 2 ^ 7 := Nat.le_of_ble_eq_true rfl
  have hf : place [(a.toNat, 8), (b.toNat, 2)] < 2 ^ 20 := place_cons_lt a.isLt (place_cons_lt b.isLt (place_nil_lt 2) (Nat.le_of_ble_eq_true rfl)) (Nat.le_of_ble_eq_true rfl)
  have hop := opcodeOf_slotWord (g := g) ho hf
  refine ⟨congrArg some (guardOf_slotWord ho hf).symm, _, rfl, decodeSlot_eq ?_⟩
  exact (decodeRaw_B hop (by decide)).trans ((arm_barWt hop).trans (accept_eq (Bool.and_eq_true_iff.mpr ⟨(holds_slotWord ho hf 0 2 0 (Nat.le_of_ble_eq_true rfl) (place_skip (Nat.le_of_ble_eq_true rfl) (place_skip (Nat.le_of_ble_eq_true rfl) (place_zero (place_nil_lt 0))))), (holds_slotWord ho hf 14 6 0 (Nat.le_of_ble_eq_true rfl) (place_zero (place_cons_lt a.isLt (place_cons_lt b.isLt (place_nil_lt 2) (Nat.le_of_ble_eq_true rfl)) (Nat.le_of_ble_eq_true rfl))))⟩) (by rw [guardOf_slotWord ho hf, fld_slotWord ho hf 8 6 (Nat.le_of_ble_eq_true rfl) a (place_hit a.isLt (place_cons_lt b.isLt (place_nil_lt 2) (Nat.le_of_ble_eq_true rfl))), fld_slotWord ho hf 2 6 (Nat.le_of_ble_eq_true rfl) b (place_skip (Nat.le_of_ble_eq_true rfl) (place_hit b.isLt (place_nil_lt 2)))])))

theorem arm_barSync {w : BitVec 32} (hop : opcodeOf w = 0x75) : decodeB w = accept (holds w 0 8 0 && holds w 14 6 0) (.barSync (guardOf w) (fld w 8 6)) := by
  unfold decodeB
  simp only [hop]

theorem barSync (g : Guard) (a : BitVec 6) : Statement (.barSync g a) := by
  intro W hW
  obtain rfl : slotWord g 0x75 (place [(a.toNat, 8)]) = W := Option.some.inj hW
  have ho : 0x75 < 2 ^ 7 := Nat.le_of_ble_eq_true rfl
  have hf : place [(a.toNat, 8)] < 2 ^ 20 := place_cons_lt a.isLt (place_nil_lt 8) (Nat.le_of_ble_eq_true rfl)
  have hop := opcodeOf_slotWord (g := g) ho hf
  refine ⟨congrArg some (guardOf_slotWord ho hf).symm, _, rfl, decodeSlot_eq ?_⟩
  exact (decodeRaw_B hop (by decide)).trans ((arm_barSync hop).trans (accept_eq (Bool.and_eq_true_iff.mpr ⟨(holds_slotWord ho hf 0 8 0 (Nat.le_of_ble_eq_true rfl) (place_skip (Nat.le_of_ble_eq_true rfl) (place_zero (place_nil_lt 0)))), (holds_slotWord ho hf 14 6 0 (Nat.le_of_ble_eq_true rfl) (place_zero (place_cons_lt a.isLt (place_nil_lt 8) (Nat.le_of_ble_eq_true rfl))))⟩) (by rw [guardOf_slotWord ho hf, fld_slotWord ho hf 8 6 (Nat.le_of_ble_eq_true rfl) a (place_hit a.isLt (place_nil_lt 8))])))

theorem arm_cfset {w : BitVec 32} (hop : opcodeOf w = 0x76) : decodeB w = accept (holds w 0 8 0) (.cfset (guardOf w) (fld w 14 6) (fld w 8 6)) := by
  unfold decodeB
  simp only [hop]

theorem cfset (g : Guard) (d : BitVec 6) (a : BitVec 6) : Statement (.cfset g d a) := by
  intro W hW
  obtain rfl : slotWord g 0x76 (place [(d.toNat, 14), (a.toNat, 8)]) = W := Option.some.inj hW
  have ho : 0x76 < 2 ^ 7 := Nat.le_of_ble_eq_true rfl
  have hf : place [(d.toNat, 14), (a.toNat, 8)] < 2 ^ 20 := place_cons_lt d.isLt (place_cons_lt a.isLt (place_nil_lt 8) (Nat.le_of_ble_eq_true rfl)) (Nat.le_of_ble_eq_true rfl)
  have hop := opcodeOf_slotWord (g := g) ho hf
  refine ⟨congrArg some (guardOf_slotWord ho hf).symm, _, rfl, decodeSlot_eq ?_⟩
  exact (decodeRaw_B hop (by decide)).trans ((arm_cfset hop).trans (accept_eq (holds_slotWord ho hf 0 8 0 (Nat.le_of_ble_eq_true rfl) (place_skip (Nat.le_of_ble_eq_true rfl) (place_skip (Nat.le_of_ble_eq_true rfl) (place_zero (place_nil_lt 0))))) (by rw [guardOf_slotWord ho hf, fld_slotWord ho hf 14 6 (Nat.le_of_ble_eq_true rfl) d (place_hit d.isLt (place_cons_lt a.isLt (place_nil_lt 8) (Nat.le_of_ble_eq_true rfl))), fld_slotWord ho hf 8 6 (Nat.le_of_ble_eq_true rfl) a (place_skip (Nat.le_of_ble_eq_true rfl) (place_hit a.isLt (place_nil_lt 8)))])))

theorem arm_cfadd {w : BitVec 32} (hop : opcodeOf w = 0x77) : decodeB w = accept (holds w 0 2 0 && holds w 14 6 0) (.cfadd (guardOf w) (fld w 8 6) (fld w 2 6)) := by
  unfold decodeB
  simp only [hop]

theorem cfadd (g : Guard) (a : BitVec 6) (b : BitVec 6) : Statement (.cfadd g a b) := by
  intro W hW
  obtain rfl : slotWord g 0x77 (place [(a.toNat, 8), (b.toNat, 2)]) = W := Option.some.inj hW
  have ho : 0x77 < 2 ^ 7 := Nat.le_of_ble_eq_true rfl
  have hf : place [(a.toNat, 8), (b.toNat, 2)] < 2 ^ 20 := place_cons_lt a.isLt (place_cons_lt b.isLt (place_nil_lt 2) (Nat.le_of_ble_eq_true rfl)) (Nat.le_of_ble_eq_true rfl)
  have hop := opcodeOf_slotWord (g := g) ho hf
  refine ⟨congrArg some (guardOf_slotWord ho hf).symm, _, rfl, decodeSlot_eq ?_⟩
  exact (decodeRaw_B hop (by decide)).trans ((arm_cfadd hop).trans (accept_eq (Bool.and_eq_true_iff.mpr ⟨(holds_slotWord ho hf 0 2 0 (Nat.le_of_ble_eq_true rfl) (place_skip (Nat.le_of_ble_eq_true rfl) (place_skip (Nat.le_of_ble_eq_true rfl) (place_zero (place_nil_lt 0))))), (holds_slotWord ho hf 14 6 0 (Nat.le_of_ble_eq_true rfl) (place_zero (place_cons_lt a.isLt (place_cons_lt b.isLt (place_nil_lt 2) (Nat.le_of_ble_eq_true rfl)) (Nat.le_of_ble_eq_true rfl))))⟩) (by rw [guardOf_slotWord ho hf, fld_slotWord ho hf 8 6 (Nat.le_of_ble_eq_true rfl) a (place_hit a.isLt (place_cons_lt b.isLt (place_nil_lt 2) (Nat.le_of_ble_eq_true rfl))), fld_slotWord ho hf 2 6 (Nat.le_of_ble_eq_true rfl) b (place_skip (Nat.le_of_ble_eq_true rfl) (place_hit b.isLt (place_nil_lt 2)))])))

theorem arm_cfrd {w : BitVec 32} (hop : opcodeOf w = 0x78) : decodeB w = accept (holds w 0 8 0) (.cfrd (guardOf w) (fld w 14 6) (fld w 8 6)) := by
  unfold decodeB
  simp only [hop]

theorem cfrd (g : Guard) (d : BitVec 6) (f : BitVec 6) : Statement (.cfrd g d f) := by
  intro W hW
  obtain rfl : slotWord g 0x78 (place [(d.toNat, 14), (f.toNat, 8)]) = W := Option.some.inj hW
  have ho : 0x78 < 2 ^ 7 := Nat.le_of_ble_eq_true rfl
  have hf : place [(d.toNat, 14), (f.toNat, 8)] < 2 ^ 20 := place_cons_lt d.isLt (place_cons_lt f.isLt (place_nil_lt 8) (Nat.le_of_ble_eq_true rfl)) (Nat.le_of_ble_eq_true rfl)
  have hop := opcodeOf_slotWord (g := g) ho hf
  refine ⟨congrArg some (guardOf_slotWord ho hf).symm, _, rfl, decodeSlot_eq ?_⟩
  exact (decodeRaw_B hop (by decide)).trans ((arm_cfrd hop).trans (accept_eq (holds_slotWord ho hf 0 8 0 (Nat.le_of_ble_eq_true rfl) (place_skip (Nat.le_of_ble_eq_true rfl) (place_skip (Nat.le_of_ble_eq_true rfl) (place_zero (place_nil_lt 0))))) (by rw [guardOf_slotWord ho hf, fld_slotWord ho hf 14 6 (Nat.le_of_ble_eq_true rfl) d (place_hit d.isLt (place_cons_lt f.isLt (place_nil_lt 8) (Nat.le_of_ble_eq_true rfl))), fld_slotWord ho hf 8 6 (Nat.le_of_ble_eq_true rfl) f (place_skip (Nat.le_of_ble_eq_true rfl) (place_hit f.isLt (place_nil_lt 8)))])))

theorem arm_fres {w : BitVec 32} (hop : opcodeOf w = 0x79) : decodeB w = accept (holds w 0 2 0 && holds w 14 6 0) (.fres (guardOf w) (fld w 8 6) (fld w 2 6)) := by
  unfold decodeB
  simp only [hop]

theorem fres (g : Guard) (a : BitVec 6) (b : BitVec 6) : Statement (.fres g a b) := by
  intro W hW
  obtain rfl : slotWord g 0x79 (place [(a.toNat, 8), (b.toNat, 2)]) = W := Option.some.inj hW
  have ho : 0x79 < 2 ^ 7 := Nat.le_of_ble_eq_true rfl
  have hf : place [(a.toNat, 8), (b.toNat, 2)] < 2 ^ 20 := place_cons_lt a.isLt (place_cons_lt b.isLt (place_nil_lt 2) (Nat.le_of_ble_eq_true rfl)) (Nat.le_of_ble_eq_true rfl)
  have hop := opcodeOf_slotWord (g := g) ho hf
  refine ⟨congrArg some (guardOf_slotWord ho hf).symm, _, rfl, decodeSlot_eq ?_⟩
  exact (decodeRaw_B hop (by decide)).trans ((arm_fres hop).trans (accept_eq (Bool.and_eq_true_iff.mpr ⟨(holds_slotWord ho hf 0 2 0 (Nat.le_of_ble_eq_true rfl) (place_skip (Nat.le_of_ble_eq_true rfl) (place_skip (Nat.le_of_ble_eq_true rfl) (place_zero (place_nil_lt 0))))), (holds_slotWord ho hf 14 6 0 (Nat.le_of_ble_eq_true rfl) (place_zero (place_cons_lt a.isLt (place_cons_lt b.isLt (place_nil_lt 2) (Nat.le_of_ble_eq_true rfl)) (Nat.le_of_ble_eq_true rfl))))⟩) (by rw [guardOf_slotWord ho hf, fld_slotWord ho hf 8 6 (Nat.le_of_ble_eq_true rfl) a (place_hit a.isLt (place_cons_lt b.isLt (place_nil_lt 2) (Nat.le_of_ble_eq_true rfl))), fld_slotWord ho hf 2 6 (Nat.le_of_ble_eq_true rfl) b (place_skip (Nat.le_of_ble_eq_true rfl) (place_hit b.isLt (place_nil_lt 2)))])))

theorem arm_fjoin {w : BitVec 32} (hop : opcodeOf w = 0x7A) : decodeB w = accept (holds w 0 1 0) (.fjoin (guardOf w) (fld w 14 6) (fld w 8 6) (fld w 2 6) (flag w 1)) := by
  unfold decodeB
  simp only [hop]

theorem fjoin (g : Guard) (d : BitVec 6) (a : BitVec 6) (b : BitVec 6) (w : Bool) : Statement (.fjoin g d a b w) := by
  intro W hW
  obtain rfl : slotWord g 0x7A (place [(d.toNat, 14), (a.toNat, 8), (b.toNat, 2), (w.toNat, 1)]) = W := Option.some.inj hW
  have ho : 0x7A < 2 ^ 7 := Nat.le_of_ble_eq_true rfl
  have hf : place [(d.toNat, 14), (a.toNat, 8), (b.toNat, 2), (w.toNat, 1)] < 2 ^ 20 := place_cons_lt d.isLt (place_cons_lt a.isLt (place_cons_lt b.isLt (place_cons_lt (bool_lt w) (place_nil_lt 1) (Nat.le_of_ble_eq_true rfl)) (Nat.le_of_ble_eq_true rfl)) (Nat.le_of_ble_eq_true rfl)) (Nat.le_of_ble_eq_true rfl)
  have hop := opcodeOf_slotWord (g := g) ho hf
  refine ⟨congrArg some (guardOf_slotWord ho hf).symm, _, rfl, decodeSlot_eq ?_⟩
  exact (decodeRaw_B hop (by decide)).trans ((arm_fjoin hop).trans (accept_eq (holds_slotWord ho hf 0 1 0 (Nat.le_of_ble_eq_true rfl) (place_skip (Nat.le_of_ble_eq_true rfl) (place_skip (Nat.le_of_ble_eq_true rfl) (place_skip (Nat.le_of_ble_eq_true rfl) (place_skip (Nat.le_of_ble_eq_true rfl) (place_zero (place_nil_lt 0))))))) (by rw [guardOf_slotWord ho hf, fld_slotWord ho hf 14 6 (Nat.le_of_ble_eq_true rfl) d (place_hit d.isLt (place_cons_lt a.isLt (place_cons_lt b.isLt (place_cons_lt (bool_lt w) (place_nil_lt 1) (Nat.le_of_ble_eq_true rfl)) (Nat.le_of_ble_eq_true rfl)) (Nat.le_of_ble_eq_true rfl))), fld_slotWord ho hf 8 6 (Nat.le_of_ble_eq_true rfl) a (place_skip (Nat.le_of_ble_eq_true rfl) (place_hit a.isLt (place_cons_lt b.isLt (place_cons_lt (bool_lt w) (place_nil_lt 1) (Nat.le_of_ble_eq_true rfl)) (Nat.le_of_ble_eq_true rfl)))), fld_slotWord ho hf 2 6 (Nat.le_of_ble_eq_true rfl) b (place_skip (Nat.le_of_ble_eq_true rfl) (place_skip (Nat.le_of_ble_eq_true rfl) (place_hit b.isLt (place_cons_lt (bool_lt w) (place_nil_lt 1) (Nat.le_of_ble_eq_true rfl))))), flag_slotWord ho hf 1 (Nat.le_of_ble_eq_true rfl) w (place_skip (Nat.le_of_ble_eq_true rfl) (place_skip (Nat.le_of_ble_eq_true rfl) (place_skip (Nat.le_of_ble_eq_true rfl) (place_hit (bool_lt w) (place_nil_lt 1)))))])))

theorem arm_fpoll {w : BitVec 32} (hop : opcodeOf w = 0x7B) : decodeB w = accept (holds w 0 1 0 && holds w 2 6 0) (.fpoll (guardOf w) (fld w 14 6) (fld w 8 6) (flag w 1)) := by
  unfold decodeB
  simp only [hop]

theorem fpoll (g : Guard) (d : BitVec 6) (a : BitVec 6) (w : Bool) : Statement (.fpoll g d a w) := by
  intro W hW
  obtain rfl : slotWord g 0x7B (place [(d.toNat, 14), (a.toNat, 8), (w.toNat, 1)]) = W := Option.some.inj hW
  have ho : 0x7B < 2 ^ 7 := Nat.le_of_ble_eq_true rfl
  have hf : place [(d.toNat, 14), (a.toNat, 8), (w.toNat, 1)] < 2 ^ 20 := place_cons_lt d.isLt (place_cons_lt a.isLt (place_cons_lt (bool_lt w) (place_nil_lt 1) (Nat.le_of_ble_eq_true rfl)) (Nat.le_of_ble_eq_true rfl)) (Nat.le_of_ble_eq_true rfl)
  have hop := opcodeOf_slotWord (g := g) ho hf
  refine ⟨congrArg some (guardOf_slotWord ho hf).symm, _, rfl, decodeSlot_eq ?_⟩
  exact (decodeRaw_B hop (by decide)).trans ((arm_fpoll hop).trans (accept_eq (Bool.and_eq_true_iff.mpr ⟨(holds_slotWord ho hf 0 1 0 (Nat.le_of_ble_eq_true rfl) (place_skip (Nat.le_of_ble_eq_true rfl) (place_skip (Nat.le_of_ble_eq_true rfl) (place_skip (Nat.le_of_ble_eq_true rfl) (place_zero (place_nil_lt 0)))))), (holds_slotWord ho hf 2 6 0 (Nat.le_of_ble_eq_true rfl) (place_skip (Nat.le_of_ble_eq_true rfl) (place_skip (Nat.le_of_ble_eq_true rfl) (place_zero (place_cons_lt (bool_lt w) (place_nil_lt 1) (Nat.le_of_ble_eq_true rfl))))))⟩) (by rw [guardOf_slotWord ho hf, fld_slotWord ho hf 14 6 (Nat.le_of_ble_eq_true rfl) d (place_hit d.isLt (place_cons_lt a.isLt (place_cons_lt (bool_lt w) (place_nil_lt 1) (Nat.le_of_ble_eq_true rfl)) (Nat.le_of_ble_eq_true rfl))), fld_slotWord ho hf 8 6 (Nat.le_of_ble_eq_true rfl) a (place_skip (Nat.le_of_ble_eq_true rfl) (place_hit a.isLt (place_cons_lt (bool_lt w) (place_nil_lt 1) (Nat.le_of_ble_eq_true rfl)))), flag_slotWord ho hf 1 (Nat.le_of_ble_eq_true rfl) w (place_skip (Nat.le_of_ble_eq_true rfl) (place_skip (Nat.le_of_ble_eq_true rfl) (place_hit (bool_lt w) (place_nil_lt 1))))])))

theorem arm_xinv {w : BitVec 32} (hop : opcodeOf w = 0x7C) : decodeB w = accept (holds w 0 2 0 && holds w 14 6 0) (.xinv (guardOf w) (fld w 8 6) (fld w 2 6)) := by
  unfold decodeB
  simp only [hop]

theorem xinv (g : Guard) (a : BitVec 6) (b : BitVec 6) : Statement (.xinv g a b) := by
  intro W hW
  obtain rfl : slotWord g 0x7C (place [(a.toNat, 8), (b.toNat, 2)]) = W := Option.some.inj hW
  have ho : 0x7C < 2 ^ 7 := Nat.le_of_ble_eq_true rfl
  have hf : place [(a.toNat, 8), (b.toNat, 2)] < 2 ^ 20 := place_cons_lt a.isLt (place_cons_lt b.isLt (place_nil_lt 2) (Nat.le_of_ble_eq_true rfl)) (Nat.le_of_ble_eq_true rfl)
  have hop := opcodeOf_slotWord (g := g) ho hf
  refine ⟨congrArg some (guardOf_slotWord ho hf).symm, _, rfl, decodeSlot_eq ?_⟩
  exact (decodeRaw_B hop (by decide)).trans ((arm_xinv hop).trans (accept_eq (Bool.and_eq_true_iff.mpr ⟨(holds_slotWord ho hf 0 2 0 (Nat.le_of_ble_eq_true rfl) (place_skip (Nat.le_of_ble_eq_true rfl) (place_skip (Nat.le_of_ble_eq_true rfl) (place_zero (place_nil_lt 0))))), (holds_slotWord ho hf 14 6 0 (Nat.le_of_ble_eq_true rfl) (place_zero (place_cons_lt a.isLt (place_cons_lt b.isLt (place_nil_lt 2) (Nat.le_of_ble_eq_true rfl)) (Nat.le_of_ble_eq_true rfl))))⟩) (by rw [guardOf_slotWord ho hf, fld_slotWord ho hf 8 6 (Nat.le_of_ble_eq_true rfl) a (place_hit a.isLt (place_cons_lt b.isLt (place_nil_lt 2) (Nat.le_of_ble_eq_true rfl))), fld_slotWord ho hf 2 6 (Nat.le_of_ble_eq_true rfl) b (place_skip (Nat.le_of_ble_eq_true rfl) (place_hit b.isLt (place_nil_lt 2)))])))

theorem nop (sl : Slot) (g : Guard) : Statement (.nop sl g) := by
  intro W hW
  obtain rfl : slotWord g 0x7F (place []) = W := Option.some.inj hW
  have ho : 0x7F < 2 ^ 7 := Nat.le_of_ble_eq_true rfl
  have hf : place [] < 2 ^ 20 := place_nil_lt 20
  have hop := opcodeOf_slotWord (g := g) ho hf
  refine ⟨congrArg some (guardOf_slotWord ho hf).symm, _, rfl, decodeSlot_eq ?_⟩
  exact (decodeRaw_nop hop sl).trans (accept_eq (holds_slotWord ho hf 0 20 0 (Nat.le_of_ble_eq_true rfl) (place_zero (place_nil_lt 0))) (by rw [guardOf_slotWord ho hf]))

theorem arm_br {w : BitVec 32} (hop : opcodeOf w = 0x01) : decodeC w = accept (true) (.br (guardOf w) (fld w 0 20)) := by
  unfold decodeC
  simp only [hop]

theorem br (g : Guard) (o : BitVec 20) : Statement (.br g o) := by
  intro W hW
  obtain rfl : slotWord g 0x01 (place [(o.toNat, 0)]) = W := Option.some.inj hW
  have ho : 0x01 < 2 ^ 7 := Nat.le_of_ble_eq_true rfl
  have hf : place [(o.toNat, 0)] < 2 ^ 20 := place_cons_lt o.isLt (place_nil_lt 0) (Nat.le_of_ble_eq_true rfl)
  have hop := opcodeOf_slotWord (g := g) ho hf
  refine ⟨congrArg some (guardOf_slotWord ho hf).symm, _, rfl, decodeSlot_eq ?_⟩
  exact (decodeRaw_C hop (by decide)).trans ((arm_br hop).trans (accept_eq rfl (by rw [guardOf_slotWord ho hf, fld_slotWord ho hf 0 20 (Nat.le_of_ble_eq_true rfl) o (place_hit o.isLt (place_nil_lt 0))])))

theorem arm_brt {w : BitVec 32} (hop : opcodeOf w = 0x02) : decodeC w = accept (true) (.brt (guardOf w) (fld w 18 2) (fld w 14 4) (fld w 10 4) (fld w 6 4) (fld w 2 4) (fld w 0 2)) := by
  unfold decodeC
  simp only [hop]

theorem brt (g : Guard) (sr : BitVec 2) (t : BitVec 4) (u : BitVec 4) (v : BitVec 4) (w : BitVec 4) (b : BitVec 2) : Statement (.brt g sr t u v w b) := by
  intro W hW
  obtain rfl : slotWord g 0x02 (place [(sr.toNat, 18), (t.toNat, 14), (u.toNat, 10), (v.toNat, 6), (w.toNat, 2), (b.toNat, 0)]) = W := Option.some.inj hW
  have ho : 0x02 < 2 ^ 7 := Nat.le_of_ble_eq_true rfl
  have hf : place [(sr.toNat, 18), (t.toNat, 14), (u.toNat, 10), (v.toNat, 6), (w.toNat, 2), (b.toNat, 0)] < 2 ^ 20 := place_cons_lt sr.isLt (place_cons_lt t.isLt (place_cons_lt u.isLt (place_cons_lt v.isLt (place_cons_lt w.isLt (place_cons_lt b.isLt (place_nil_lt 0) (Nat.le_of_ble_eq_true rfl)) (Nat.le_of_ble_eq_true rfl)) (Nat.le_of_ble_eq_true rfl)) (Nat.le_of_ble_eq_true rfl)) (Nat.le_of_ble_eq_true rfl)) (Nat.le_of_ble_eq_true rfl)
  have hop := opcodeOf_slotWord (g := g) ho hf
  refine ⟨congrArg some (guardOf_slotWord ho hf).symm, _, rfl, decodeSlot_eq ?_⟩
  exact (decodeRaw_C hop (by decide)).trans ((arm_brt hop).trans (accept_eq rfl (by rw [guardOf_slotWord ho hf, fld_slotWord ho hf 18 2 (Nat.le_of_ble_eq_true rfl) sr (place_hit sr.isLt (place_cons_lt t.isLt (place_cons_lt u.isLt (place_cons_lt v.isLt (place_cons_lt w.isLt (place_cons_lt b.isLt (place_nil_lt 0) (Nat.le_of_ble_eq_true rfl)) (Nat.le_of_ble_eq_true rfl)) (Nat.le_of_ble_eq_true rfl)) (Nat.le_of_ble_eq_true rfl)) (Nat.le_of_ble_eq_true rfl))), fld_slotWord ho hf 14 4 (Nat.le_of_ble_eq_true rfl) t (place_skip (Nat.le_of_ble_eq_true rfl) (place_hit t.isLt (place_cons_lt u.isLt (place_cons_lt v.isLt (place_cons_lt w.isLt (place_cons_lt b.isLt (place_nil_lt 0) (Nat.le_of_ble_eq_true rfl)) (Nat.le_of_ble_eq_true rfl)) (Nat.le_of_ble_eq_true rfl)) (Nat.le_of_ble_eq_true rfl)))), fld_slotWord ho hf 10 4 (Nat.le_of_ble_eq_true rfl) u (place_skip (Nat.le_of_ble_eq_true rfl) (place_skip (Nat.le_of_ble_eq_true rfl) (place_hit u.isLt (place_cons_lt v.isLt (place_cons_lt w.isLt (place_cons_lt b.isLt (place_nil_lt 0) (Nat.le_of_ble_eq_true rfl)) (Nat.le_of_ble_eq_true rfl)) (Nat.le_of_ble_eq_true rfl))))), fld_slotWord ho hf 6 4 (Nat.le_of_ble_eq_true rfl) v (place_skip (Nat.le_of_ble_eq_true rfl) (place_skip (Nat.le_of_ble_eq_true rfl) (place_skip (Nat.le_of_ble_eq_true rfl) (place_hit v.isLt (place_cons_lt w.isLt (place_cons_lt b.isLt (place_nil_lt 0) (Nat.le_of_ble_eq_true rfl)) (Nat.le_of_ble_eq_true rfl)))))), fld_slotWord ho hf 2 4 (Nat.le_of_ble_eq_true rfl) w (place_skip (Nat.le_of_ble_eq_true rfl) (place_skip (Nat.le_of_ble_eq_true rfl) (place_skip (Nat.le_of_ble_eq_true rfl) (place_skip (Nat.le_of_ble_eq_true rfl) (place_hit w.isLt (place_cons_lt b.isLt (place_nil_lt 0) (Nat.le_of_ble_eq_true rfl))))))), fld_slotWord ho hf 0 2 (Nat.le_of_ble_eq_true rfl) b (place_skip (Nat.le_of_ble_eq_true rfl) (place_skip (Nat.le_of_ble_eq_true rfl) (place_skip (Nat.le_of_ble_eq_true rfl) (place_skip (Nat.le_of_ble_eq_true rfl) (place_skip (Nat.le_of_ble_eq_true rfl) (place_hit b.isLt (place_nil_lt 0)))))))])))

theorem arm_call {w : BitVec 32} (hop : opcodeOf w = 0x03) : decodeC w = accept (true) (.call (guardOf w) (fld w 0 20)) := by
  unfold decodeC
  simp only [hop]

theorem call (g : Guard) (o : BitVec 20) : Statement (.call g o) := by
  intro W hW
  obtain rfl : slotWord g 0x03 (place [(o.toNat, 0)]) = W := Option.some.inj hW
  have ho : 0x03 < 2 ^ 7 := Nat.le_of_ble_eq_true rfl
  have hf : place [(o.toNat, 0)] < 2 ^ 20 := place_cons_lt o.isLt (place_nil_lt 0) (Nat.le_of_ble_eq_true rfl)
  have hop := opcodeOf_slotWord (g := g) ho hf
  refine ⟨congrArg some (guardOf_slotWord ho hf).symm, _, rfl, decodeSlot_eq ?_⟩
  exact (decodeRaw_C hop (by decide)).trans ((arm_call hop).trans (accept_eq rfl (by rw [guardOf_slotWord ho hf, fld_slotWord ho hf 0 20 (Nat.le_of_ble_eq_true rfl) o (place_hit o.isLt (place_nil_lt 0))])))

theorem arm_callr {w : BitVec 32} (hop : opcodeOf w = 0x04) : decodeC w = accept (holds w 0 14 0) (.callr (guardOf w) (fld w 14 6)) := by
  unfold decodeC
  simp only [hop]

theorem callr (g : Guard) (sr : BitVec 6) : Statement (.callr g sr) := by
  intro W hW
  obtain rfl : slotWord g 0x04 (place [(sr.toNat, 14)]) = W := Option.some.inj hW
  have ho : 0x04 < 2 ^ 7 := Nat.le_of_ble_eq_true rfl
  have hf : place [(sr.toNat, 14)] < 2 ^ 20 := place_cons_lt sr.isLt (place_nil_lt 14) (Nat.le_of_ble_eq_true rfl)
  have hop := opcodeOf_slotWord (g := g) ho hf
  refine ⟨congrArg some (guardOf_slotWord ho hf).symm, _, rfl, decodeSlot_eq ?_⟩
  exact (decodeRaw_C hop (by decide)).trans ((arm_callr hop).trans (accept_eq (holds_slotWord ho hf 0 14 0 (Nat.le_of_ble_eq_true rfl) (place_skip (Nat.le_of_ble_eq_true rfl) (place_zero (place_nil_lt 0)))) (by rw [guardOf_slotWord ho hf, fld_slotWord ho hf 14 6 (Nat.le_of_ble_eq_true rfl) sr (place_hit sr.isLt (place_nil_lt 14))])))

theorem arm_ret {w : BitVec 32} (hop : opcodeOf w = 0x05) : decodeC w = accept (holds w 0 20 0) (.ret (guardOf w)) := by
  unfold decodeC
  simp only [hop]

theorem ret (g : Guard) : Statement (.ret g) := by
  intro W hW
  obtain rfl : slotWord g 0x05 (place []) = W := Option.some.inj hW
  have ho : 0x05 < 2 ^ 7 := Nat.le_of_ble_eq_true rfl
  have hf : place [] < 2 ^ 20 := place_nil_lt 20
  have hop := opcodeOf_slotWord (g := g) ho hf
  refine ⟨congrArg some (guardOf_slotWord ho hf).symm, _, rfl, decodeSlot_eq ?_⟩
  exact (decodeRaw_C hop (by decide)).trans ((arm_ret hop).trans (accept_eq (holds_slotWord ho hf 0 20 0 (Nat.le_of_ble_eq_true rfl) (place_zero (place_nil_lt 0))) (by rw [guardOf_slotWord ho hf])))

theorem arm_jr {w : BitVec 32} (hop : opcodeOf w = 0x06) : decodeC w = accept (holds w 0 14 0) (.jr (guardOf w) (fld w 14 6)) := by
  unfold decodeC
  simp only [hop]

theorem jr (g : Guard) (sr : BitVec 6) : Statement (.jr g sr) := by
  intro W hW
  obtain rfl : slotWord g 0x06 (place [(sr.toNat, 14)]) = W := Option.some.inj hW
  have ho : 0x06 < 2 ^ 7 := Nat.le_of_ble_eq_true rfl
  have hf : place [(sr.toNat, 14)] < 2 ^ 20 := place_cons_lt sr.isLt (place_nil_lt 14) (Nat.le_of_ble_eq_true rfl)
  have hop := opcodeOf_slotWord (g := g) ho hf
  refine ⟨congrArg some (guardOf_slotWord ho hf).symm, _, rfl, decodeSlot_eq ?_⟩
  exact (decodeRaw_C hop (by decide)).trans ((arm_jr hop).trans (accept_eq (holds_slotWord ho hf 0 14 0 (Nat.le_of_ble_eq_true rfl) (place_skip (Nat.le_of_ble_eq_true rfl) (place_zero (place_nil_lt 0)))) (by rw [guardOf_slotWord ho hf, fld_slotWord ho hf 14 6 (Nat.le_of_ble_eq_true rfl) sr (place_hit sr.isLt (place_nil_lt 14))])))

theorem arm_jt {w : BitVec 32} (hop : opcodeOf w = 0x07) : decodeC w = accept (true) (.jt (guardOf w) (fld w 14 6) (fld w 0 14)) := by
  unfold decodeC
  simp only [hop]

theorem jt (g : Guard) (i : BitVec 6) (o : BitVec 14) : Statement (.jt g i o) := by
  intro W hW
  obtain rfl : slotWord g 0x07 (place [(i.toNat, 14), (o.toNat, 0)]) = W := Option.some.inj hW
  have ho : 0x07 < 2 ^ 7 := Nat.le_of_ble_eq_true rfl
  have hf : place [(i.toNat, 14), (o.toNat, 0)] < 2 ^ 20 := place_cons_lt i.isLt (place_cons_lt o.isLt (place_nil_lt 0) (Nat.le_of_ble_eq_true rfl)) (Nat.le_of_ble_eq_true rfl)
  have hop := opcodeOf_slotWord (g := g) ho hf
  refine ⟨congrArg some (guardOf_slotWord ho hf).symm, _, rfl, decodeSlot_eq ?_⟩
  exact (decodeRaw_C hop (by decide)).trans ((arm_jt hop).trans (accept_eq rfl (by rw [guardOf_slotWord ho hf, fld_slotWord ho hf 14 6 (Nat.le_of_ble_eq_true rfl) i (place_hit i.isLt (place_cons_lt o.isLt (place_nil_lt 0) (Nat.le_of_ble_eq_true rfl))), fld_slotWord ho hf 0 14 (Nat.le_of_ble_eq_true rfl) o (place_skip (Nat.le_of_ble_eq_true rfl) (place_hit o.isLt (place_nil_lt 0)))])))

theorem arm_loopLc0 {w : BitVec 32} (hop : opcodeOf w = 0x08) : decodeC w = accept (true) (.loopLc0 (guardOf w) (fld w 0 20)) := by
  unfold decodeC
  simp only [hop]

theorem loopLc0 (g : Guard) (o : BitVec 20) : Statement (.loopLc0 g o) := by
  intro W hW
  obtain rfl : slotWord g 0x08 (place [(o.toNat, 0)]) = W := Option.some.inj hW
  have ho : 0x08 < 2 ^ 7 := Nat.le_of_ble_eq_true rfl
  have hf : place [(o.toNat, 0)] < 2 ^ 20 := place_cons_lt o.isLt (place_nil_lt 0) (Nat.le_of_ble_eq_true rfl)
  have hop := opcodeOf_slotWord (g := g) ho hf
  refine ⟨congrArg some (guardOf_slotWord ho hf).symm, _, rfl, decodeSlot_eq ?_⟩
  exact (decodeRaw_C hop (by decide)).trans ((arm_loopLc0 hop).trans (accept_eq rfl (by rw [guardOf_slotWord ho hf, fld_slotWord ho hf 0 20 (Nat.le_of_ble_eq_true rfl) o (place_hit o.isLt (place_nil_lt 0))])))

theorem arm_loopLc1 {w : BitVec 32} (hop : opcodeOf w = 0x09) : decodeC w = accept (true) (.loopLc1 (guardOf w) (fld w 0 20)) := by
  unfold decodeC
  simp only [hop]

theorem loopLc1 (g : Guard) (o : BitVec 20) : Statement (.loopLc1 g o) := by
  intro W hW
  obtain rfl : slotWord g 0x09 (place [(o.toNat, 0)]) = W := Option.some.inj hW
  have ho : 0x09 < 2 ^ 7 := Nat.le_of_ble_eq_true rfl
  have hf : place [(o.toNat, 0)] < 2 ^ 20 := place_cons_lt o.isLt (place_nil_lt 0) (Nat.le_of_ble_eq_true rfl)
  have hop := opcodeOf_slotWord (g := g) ho hf
  refine ⟨congrArg some (guardOf_slotWord ho hf).symm, _, rfl, decodeSlot_eq ?_⟩
  exact (decodeRaw_C hop (by decide)).trans ((arm_loopLc1 hop).trans (accept_eq rfl (by rw [guardOf_slotWord ho hf, fld_slotWord ho hf 0 20 (Nat.le_of_ble_eq_true rfl) o (place_hit o.isLt (place_nil_lt 0))])))

theorem arm_suspend {w : BitVec 32} (hop : opcodeOf w = 0x0A) : decodeC w = accept (holds w 0 20 0) (.suspend (guardOf w)) := by
  unfold decodeC
  simp only [hop]

theorem suspend (g : Guard) : Statement (.suspend g) := by
  intro W hW
  obtain rfl : slotWord g 0x0A (place []) = W := Option.some.inj hW
  have ho : 0x0A < 2 ^ 7 := Nat.le_of_ble_eq_true rfl
  have hf : place [] < 2 ^ 20 := place_nil_lt 20
  have hop := opcodeOf_slotWord (g := g) ho hf
  refine ⟨congrArg some (guardOf_slotWord ho hf).symm, _, rfl, decodeSlot_eq ?_⟩
  exact (decodeRaw_C hop (by decide)).trans ((arm_suspend hop).trans (accept_eq (holds_slotWord ho hf 0 20 0 (Nat.le_of_ble_eq_true rfl) (place_zero (place_nil_lt 0))) (by rw [guardOf_slotWord ho hf])))

theorem arm_yield {w : BitVec 32} (hop : opcodeOf w = 0x0B) : decodeC w = accept (holds w 0 20 0) (.yield (guardOf w)) := by
  unfold decodeC
  simp only [hop]

theorem yield (g : Guard) : Statement (.yield g) := by
  intro W hW
  obtain rfl : slotWord g 0x0B (place []) = W := Option.some.inj hW
  have ho : 0x0B < 2 ^ 7 := Nat.le_of_ble_eq_true rfl
  have hf : place [] < 2 ^ 20 := place_nil_lt 20
  have hop := opcodeOf_slotWord (g := g) ho hf
  refine ⟨congrArg some (guardOf_slotWord ho hf).symm, _, rfl, decodeSlot_eq ?_⟩
  exact (decodeRaw_C hop (by decide)).trans ((arm_yield hop).trans (accept_eq (holds_slotWord ho hf 0 20 0 (Nat.le_of_ble_eq_true rfl) (place_zero (place_nil_lt 0))) (by rw [guardOf_slotWord ho hf])))

theorem arm_endBlock {w : BitVec 32} (hop : opcodeOf w = 0x0C) : decodeC w = accept (holds w 0 20 0) (.endBlock (guardOf w)) := by
  unfold decodeC
  simp only [hop]

theorem endBlock (g : Guard) : Statement (.endBlock g) := by
  intro W hW
  obtain rfl : slotWord g 0x0C (place []) = W := Option.some.inj hW
  have ho : 0x0C < 2 ^ 7 := Nat.le_of_ble_eq_true rfl
  have hf : place [] < 2 ^ 20 := place_nil_lt 20
  have hop := opcodeOf_slotWord (g := g) ho hf
  refine ⟨congrArg some (guardOf_slotWord ho hf).symm, _, rfl, decodeSlot_eq ?_⟩
  exact (decodeRaw_C hop (by decide)).trans ((arm_endBlock hop).trans (accept_eq (holds_slotWord ho hf 0 20 0 (Nat.le_of_ble_eq_true rfl) (place_zero (place_nil_lt 0))) (by rw [guardOf_slotWord ho hf])))

theorem arm_endF {w : BitVec 32} (hop : opcodeOf w = 0x0D) : decodeC w = accept (holds w 0 14 0) (.endF (guardOf w) (fld w 14 6)) := by
  unfold decodeC
  simp only [hop]

theorem endF (g : Guard) (sr : BitVec 6) : Statement (.endF g sr) := by
  intro W hW
  obtain rfl : slotWord g 0x0D (place [(sr.toNat, 14)]) = W := Option.some.inj hW
  have ho : 0x0D < 2 ^ 7 := Nat.le_of_ble_eq_true rfl
  have hf : place [(sr.toNat, 14)] < 2 ^ 20 := place_cons_lt sr.isLt (place_nil_lt 14) (Nat.le_of_ble_eq_true rfl)
  have hop := opcodeOf_slotWord (g := g) ho hf
  refine ⟨congrArg some (guardOf_slotWord ho hf).symm, _, rfl, decodeSlot_eq ?_⟩
  exact (decodeRaw_C hop (by decide)).trans ((arm_endF hop).trans (accept_eq (holds_slotWord ho hf 0 14 0 (Nat.le_of_ble_eq_true rfl) (place_skip (Nat.le_of_ble_eq_true rfl) (place_zero (place_nil_lt 0)))) (by rw [guardOf_slotWord ho hf, fld_slotWord ho hf 14 6 (Nat.le_of_ble_eq_true rfl) sr (place_hit sr.isLt (place_nil_lt 14))])))

theorem arm_trap {w : BitVec 32} (hop : opcodeOf w = 0x0E) : decodeC w = accept (holds w 8 12 0) (.trap (guardOf w) (fld w 0 8)) := by
  unfold decodeC
  simp only [hop]

theorem trap (g : Guard) (i : BitVec 8) : Statement (.trap g i) := by
  intro W hW
  obtain rfl : slotWord g 0x0E (place [(i.toNat, 0)]) = W := Option.some.inj hW
  have ho : 0x0E < 2 ^ 7 := Nat.le_of_ble_eq_true rfl
  have hf : place [(i.toNat, 0)] < 2 ^ 20 := place_cons_lt i.isLt (place_nil_lt 0) (Nat.le_of_ble_eq_true rfl)
  have hop := opcodeOf_slotWord (g := g) ho hf
  refine ⟨congrArg some (guardOf_slotWord ho hf).symm, _, rfl, decodeSlot_eq ?_⟩
  exact (decodeRaw_C hop (by decide)).trans ((arm_trap hop).trans (accept_eq (holds_slotWord ho hf 8 12 0 (Nat.le_of_ble_eq_true rfl) (place_zero (place_cons_lt i.isLt (place_nil_lt 0) (Nat.le_of_ble_eq_true rfl)))) (by rw [guardOf_slotWord ho hf, fld_slotWord ho hf 0 8 (Nat.le_of_ble_eq_true rfl) i (place_hit i.isLt (place_nil_lt 0))])))

theorem arm_uiret {w : BitVec 32} (hop : opcodeOf w = 0x0F) : decodeC w = accept (holds w 0 20 0) (.uiret (guardOf w)) := by
  unfold decodeC
  simp only [hop]

theorem uiret (g : Guard) : Statement (.uiret g) := by
  intro W hW
  obtain rfl : slotWord g 0x0F (place []) = W := Option.some.inj hW
  have ho : 0x0F < 2 ^ 7 := Nat.le_of_ble_eq_true rfl
  have hf : place [] < 2 ^ 20 := place_nil_lt 20
  have hop := opcodeOf_slotWord (g := g) ho hf
  refine ⟨congrArg some (guardOf_slotWord ho hf).symm, _, rfl, decodeSlot_eq ?_⟩
  exact (decodeRaw_C hop (by decide)).trans ((arm_uiret hop).trans (accept_eq (holds_slotWord ho hf 0 20 0 (Nat.le_of_ble_eq_true rfl) (place_zero (place_nil_lt 0))) (by rw [guardOf_slotWord ho hf])))

theorem arm_uiretSkip {w : BitVec 32} (hop : opcodeOf w = 0x10) : decodeC w = accept (holds w 0 20 0) (.uiretSkip (guardOf w)) := by
  unfold decodeC
  simp only [hop]

theorem uiretSkip (g : Guard) : Statement (.uiretSkip g) := by
  intro W hW
  obtain rfl : slotWord g 0x10 (place []) = W := Option.some.inj hW
  have ho : 0x10 < 2 ^ 7 := Nat.le_of_ble_eq_true rfl
  have hf : place [] < 2 ^ 20 := place_nil_lt 20
  have hop := opcodeOf_slotWord (g := g) ho hf
  refine ⟨congrArg some (guardOf_slotWord ho hf).symm, _, rfl, decodeSlot_eq ?_⟩
  exact (decodeRaw_C hop (by decide)).trans ((arm_uiretSkip hop).trans (accept_eq (holds_slotWord ho hf 0 20 0 (Nat.le_of_ble_eq_true rfl) (place_zero (place_nil_lt 0))) (by rw [guardOf_slotWord ho hf])))

theorem arm_eret {w : BitVec 32} (hop : opcodeOf w = 0x11) : decodeC w = accept (holds w 0 20 0) (.eret (guardOf w)) := by
  unfold decodeC
  simp only [hop]

theorem eret (g : Guard) : Statement (.eret g) := by
  intro W hW
  obtain rfl : slotWord g 0x11 (place []) = W := Option.some.inj hW
  have ho : 0x11 < 2 ^ 7 := Nat.le_of_ble_eq_true rfl
  have hf : place [] < 2 ^ 20 := place_nil_lt 20
  have hop := opcodeOf_slotWord (g := g) ho hf
  refine ⟨congrArg some (guardOf_slotWord ho hf).symm, _, rfl, decodeSlot_eq ?_⟩
  exact (decodeRaw_C hop (by decide)).trans ((arm_eret hop).trans (accept_eq (holds_slotWord ho hf 0 20 0 (Nat.le_of_ble_eq_true rfl) (place_zero (place_nil_lt 0))) (by rw [guardOf_slotWord ho hf])))

theorem arm_halt {w : BitVec 32} (hop : opcodeOf w = 0x12) : decodeC w = accept (holds w 0 20 0) (.halt (guardOf w)) := by
  unfold decodeC
  simp only [hop]

theorem halt (g : Guard) : Statement (.halt g) := by
  intro W hW
  obtain rfl : slotWord g 0x12 (place []) = W := Option.some.inj hW
  have ho : 0x12 < 2 ^ 7 := Nat.le_of_ble_eq_true rfl
  have hf : place [] < 2 ^ 20 := place_nil_lt 20
  have hop := opcodeOf_slotWord (g := g) ho hf
  refine ⟨congrArg some (guardOf_slotWord ho hf).symm, _, rfl, decodeSlot_eq ?_⟩
  exact (decodeRaw_C hop (by decide)).trans ((arm_halt hop).trans (accept_eq (holds_slotWord ho hf 0 20 0 (Nat.le_of_ble_eq_true rfl) (place_zero (place_nil_lt 0))) (by rw [guardOf_slotWord ho hf])))

theorem arm_vadd {w : BitVec 32} (hop : opcodeOf w = 0x01) : decodeV w = accept (true) (.vadd (guardOf w) (fld w 15 5) (fld w 10 5) (fld w 5 5) (fld w 3 2) (fld w 1 2) (flag w 0)) := by
  unfold decodeV
  simp only [hop]

theorem vadd (g : Guard) (d : BitVec 5) (a : BitVec 5) (b : BitVec 5) (p : BitVec 2) (q : BitVec 2) (k : Bool) : Statement (.vadd g d a b p q k) := by
  intro W hW
  obtain rfl : slotWord g 0x01 (place [(d.toNat, 15), (a.toNat, 10), (b.toNat, 5), (p.toNat, 3), (q.toNat, 1), (k.toNat, 0)]) = W := Option.some.inj hW
  have ho : 0x01 < 2 ^ 7 := Nat.le_of_ble_eq_true rfl
  have hf : place [(d.toNat, 15), (a.toNat, 10), (b.toNat, 5), (p.toNat, 3), (q.toNat, 1), (k.toNat, 0)] < 2 ^ 20 := place_cons_lt d.isLt (place_cons_lt a.isLt (place_cons_lt b.isLt (place_cons_lt p.isLt (place_cons_lt q.isLt (place_cons_lt (bool_lt k) (place_nil_lt 0) (Nat.le_of_ble_eq_true rfl)) (Nat.le_of_ble_eq_true rfl)) (Nat.le_of_ble_eq_true rfl)) (Nat.le_of_ble_eq_true rfl)) (Nat.le_of_ble_eq_true rfl)) (Nat.le_of_ble_eq_true rfl)
  have hop := opcodeOf_slotWord (g := g) ho hf
  refine ⟨congrArg some (guardOf_slotWord ho hf).symm, _, rfl, decodeSlot_eq ?_⟩
  exact (decodeRaw_V hop (by decide)).trans ((arm_vadd hop).trans (accept_eq rfl (by rw [guardOf_slotWord ho hf, fld_slotWord ho hf 15 5 (Nat.le_of_ble_eq_true rfl) d (place_hit d.isLt (place_cons_lt a.isLt (place_cons_lt b.isLt (place_cons_lt p.isLt (place_cons_lt q.isLt (place_cons_lt (bool_lt k) (place_nil_lt 0) (Nat.le_of_ble_eq_true rfl)) (Nat.le_of_ble_eq_true rfl)) (Nat.le_of_ble_eq_true rfl)) (Nat.le_of_ble_eq_true rfl)) (Nat.le_of_ble_eq_true rfl))), fld_slotWord ho hf 10 5 (Nat.le_of_ble_eq_true rfl) a (place_skip (Nat.le_of_ble_eq_true rfl) (place_hit a.isLt (place_cons_lt b.isLt (place_cons_lt p.isLt (place_cons_lt q.isLt (place_cons_lt (bool_lt k) (place_nil_lt 0) (Nat.le_of_ble_eq_true rfl)) (Nat.le_of_ble_eq_true rfl)) (Nat.le_of_ble_eq_true rfl)) (Nat.le_of_ble_eq_true rfl)))), fld_slotWord ho hf 5 5 (Nat.le_of_ble_eq_true rfl) b (place_skip (Nat.le_of_ble_eq_true rfl) (place_skip (Nat.le_of_ble_eq_true rfl) (place_hit b.isLt (place_cons_lt p.isLt (place_cons_lt q.isLt (place_cons_lt (bool_lt k) (place_nil_lt 0) (Nat.le_of_ble_eq_true rfl)) (Nat.le_of_ble_eq_true rfl)) (Nat.le_of_ble_eq_true rfl))))), fld_slotWord ho hf 3 2 (Nat.le_of_ble_eq_true rfl) p (place_skip (Nat.le_of_ble_eq_true rfl) (place_skip (Nat.le_of_ble_eq_true rfl) (place_skip (Nat.le_of_ble_eq_true rfl) (place_hit p.isLt (place_cons_lt q.isLt (place_cons_lt (bool_lt k) (place_nil_lt 0) (Nat.le_of_ble_eq_true rfl)) (Nat.le_of_ble_eq_true rfl)))))), fld_slotWord ho hf 1 2 (Nat.le_of_ble_eq_true rfl) q (place_skip (Nat.le_of_ble_eq_true rfl) (place_skip (Nat.le_of_ble_eq_true rfl) (place_skip (Nat.le_of_ble_eq_true rfl) (place_skip (Nat.le_of_ble_eq_true rfl) (place_hit q.isLt (place_cons_lt (bool_lt k) (place_nil_lt 0) (Nat.le_of_ble_eq_true rfl))))))), flag_slotWord ho hf 0 (Nat.le_of_ble_eq_true rfl) k (place_skip (Nat.le_of_ble_eq_true rfl) (place_skip (Nat.le_of_ble_eq_true rfl) (place_skip (Nat.le_of_ble_eq_true rfl) (place_skip (Nat.le_of_ble_eq_true rfl) (place_skip (Nat.le_of_ble_eq_true rfl) (place_hit (bool_lt k) (place_nil_lt 0)))))))])))

theorem arm_vsub {w : BitVec 32} (hop : opcodeOf w = 0x02) : decodeV w = accept (true) (.vsub (guardOf w) (fld w 15 5) (fld w 10 5) (fld w 5 5) (fld w 3 2) (fld w 1 2) (flag w 0)) := by
  unfold decodeV
  simp only [hop]

theorem vsub (g : Guard) (d : BitVec 5) (a : BitVec 5) (b : BitVec 5) (p : BitVec 2) (q : BitVec 2) (k : Bool) : Statement (.vsub g d a b p q k) := by
  intro W hW
  obtain rfl : slotWord g 0x02 (place [(d.toNat, 15), (a.toNat, 10), (b.toNat, 5), (p.toNat, 3), (q.toNat, 1), (k.toNat, 0)]) = W := Option.some.inj hW
  have ho : 0x02 < 2 ^ 7 := Nat.le_of_ble_eq_true rfl
  have hf : place [(d.toNat, 15), (a.toNat, 10), (b.toNat, 5), (p.toNat, 3), (q.toNat, 1), (k.toNat, 0)] < 2 ^ 20 := place_cons_lt d.isLt (place_cons_lt a.isLt (place_cons_lt b.isLt (place_cons_lt p.isLt (place_cons_lt q.isLt (place_cons_lt (bool_lt k) (place_nil_lt 0) (Nat.le_of_ble_eq_true rfl)) (Nat.le_of_ble_eq_true rfl)) (Nat.le_of_ble_eq_true rfl)) (Nat.le_of_ble_eq_true rfl)) (Nat.le_of_ble_eq_true rfl)) (Nat.le_of_ble_eq_true rfl)
  have hop := opcodeOf_slotWord (g := g) ho hf
  refine ⟨congrArg some (guardOf_slotWord ho hf).symm, _, rfl, decodeSlot_eq ?_⟩
  exact (decodeRaw_V hop (by decide)).trans ((arm_vsub hop).trans (accept_eq rfl (by rw [guardOf_slotWord ho hf, fld_slotWord ho hf 15 5 (Nat.le_of_ble_eq_true rfl) d (place_hit d.isLt (place_cons_lt a.isLt (place_cons_lt b.isLt (place_cons_lt p.isLt (place_cons_lt q.isLt (place_cons_lt (bool_lt k) (place_nil_lt 0) (Nat.le_of_ble_eq_true rfl)) (Nat.le_of_ble_eq_true rfl)) (Nat.le_of_ble_eq_true rfl)) (Nat.le_of_ble_eq_true rfl)) (Nat.le_of_ble_eq_true rfl))), fld_slotWord ho hf 10 5 (Nat.le_of_ble_eq_true rfl) a (place_skip (Nat.le_of_ble_eq_true rfl) (place_hit a.isLt (place_cons_lt b.isLt (place_cons_lt p.isLt (place_cons_lt q.isLt (place_cons_lt (bool_lt k) (place_nil_lt 0) (Nat.le_of_ble_eq_true rfl)) (Nat.le_of_ble_eq_true rfl)) (Nat.le_of_ble_eq_true rfl)) (Nat.le_of_ble_eq_true rfl)))), fld_slotWord ho hf 5 5 (Nat.le_of_ble_eq_true rfl) b (place_skip (Nat.le_of_ble_eq_true rfl) (place_skip (Nat.le_of_ble_eq_true rfl) (place_hit b.isLt (place_cons_lt p.isLt (place_cons_lt q.isLt (place_cons_lt (bool_lt k) (place_nil_lt 0) (Nat.le_of_ble_eq_true rfl)) (Nat.le_of_ble_eq_true rfl)) (Nat.le_of_ble_eq_true rfl))))), fld_slotWord ho hf 3 2 (Nat.le_of_ble_eq_true rfl) p (place_skip (Nat.le_of_ble_eq_true rfl) (place_skip (Nat.le_of_ble_eq_true rfl) (place_skip (Nat.le_of_ble_eq_true rfl) (place_hit p.isLt (place_cons_lt q.isLt (place_cons_lt (bool_lt k) (place_nil_lt 0) (Nat.le_of_ble_eq_true rfl)) (Nat.le_of_ble_eq_true rfl)))))), fld_slotWord ho hf 1 2 (Nat.le_of_ble_eq_true rfl) q (place_skip (Nat.le_of_ble_eq_true rfl) (place_skip (Nat.le_of_ble_eq_true rfl) (place_skip (Nat.le_of_ble_eq_true rfl) (place_skip (Nat.le_of_ble_eq_true rfl) (place_hit q.isLt (place_cons_lt (bool_lt k) (place_nil_lt 0) (Nat.le_of_ble_eq_true rfl))))))), flag_slotWord ho hf 0 (Nat.le_of_ble_eq_true rfl) k (place_skip (Nat.le_of_ble_eq_true rfl) (place_skip (Nat.le_of_ble_eq_true rfl) (place_skip (Nat.le_of_ble_eq_true rfl) (place_skip (Nat.le_of_ble_eq_true rfl) (place_skip (Nat.le_of_ble_eq_true rfl) (place_hit (bool_lt k) (place_nil_lt 0)))))))])))

theorem arm_vmul {w : BitVec 32} (hop : opcodeOf w = 0x03) : decodeV w = accept (true) (.vmul (guardOf w) (fld w 15 5) (fld w 10 5) (fld w 5 5) (fld w 3 2) (fld w 1 2) (flag w 0)) := by
  unfold decodeV
  simp only [hop]

theorem vmul (g : Guard) (d : BitVec 5) (a : BitVec 5) (b : BitVec 5) (p : BitVec 2) (q : BitVec 2) (k : Bool) : Statement (.vmul g d a b p q k) := by
  intro W hW
  obtain rfl : slotWord g 0x03 (place [(d.toNat, 15), (a.toNat, 10), (b.toNat, 5), (p.toNat, 3), (q.toNat, 1), (k.toNat, 0)]) = W := Option.some.inj hW
  have ho : 0x03 < 2 ^ 7 := Nat.le_of_ble_eq_true rfl
  have hf : place [(d.toNat, 15), (a.toNat, 10), (b.toNat, 5), (p.toNat, 3), (q.toNat, 1), (k.toNat, 0)] < 2 ^ 20 := place_cons_lt d.isLt (place_cons_lt a.isLt (place_cons_lt b.isLt (place_cons_lt p.isLt (place_cons_lt q.isLt (place_cons_lt (bool_lt k) (place_nil_lt 0) (Nat.le_of_ble_eq_true rfl)) (Nat.le_of_ble_eq_true rfl)) (Nat.le_of_ble_eq_true rfl)) (Nat.le_of_ble_eq_true rfl)) (Nat.le_of_ble_eq_true rfl)) (Nat.le_of_ble_eq_true rfl)
  have hop := opcodeOf_slotWord (g := g) ho hf
  refine ⟨congrArg some (guardOf_slotWord ho hf).symm, _, rfl, decodeSlot_eq ?_⟩
  exact (decodeRaw_V hop (by decide)).trans ((arm_vmul hop).trans (accept_eq rfl (by rw [guardOf_slotWord ho hf, fld_slotWord ho hf 15 5 (Nat.le_of_ble_eq_true rfl) d (place_hit d.isLt (place_cons_lt a.isLt (place_cons_lt b.isLt (place_cons_lt p.isLt (place_cons_lt q.isLt (place_cons_lt (bool_lt k) (place_nil_lt 0) (Nat.le_of_ble_eq_true rfl)) (Nat.le_of_ble_eq_true rfl)) (Nat.le_of_ble_eq_true rfl)) (Nat.le_of_ble_eq_true rfl)) (Nat.le_of_ble_eq_true rfl))), fld_slotWord ho hf 10 5 (Nat.le_of_ble_eq_true rfl) a (place_skip (Nat.le_of_ble_eq_true rfl) (place_hit a.isLt (place_cons_lt b.isLt (place_cons_lt p.isLt (place_cons_lt q.isLt (place_cons_lt (bool_lt k) (place_nil_lt 0) (Nat.le_of_ble_eq_true rfl)) (Nat.le_of_ble_eq_true rfl)) (Nat.le_of_ble_eq_true rfl)) (Nat.le_of_ble_eq_true rfl)))), fld_slotWord ho hf 5 5 (Nat.le_of_ble_eq_true rfl) b (place_skip (Nat.le_of_ble_eq_true rfl) (place_skip (Nat.le_of_ble_eq_true rfl) (place_hit b.isLt (place_cons_lt p.isLt (place_cons_lt q.isLt (place_cons_lt (bool_lt k) (place_nil_lt 0) (Nat.le_of_ble_eq_true rfl)) (Nat.le_of_ble_eq_true rfl)) (Nat.le_of_ble_eq_true rfl))))), fld_slotWord ho hf 3 2 (Nat.le_of_ble_eq_true rfl) p (place_skip (Nat.le_of_ble_eq_true rfl) (place_skip (Nat.le_of_ble_eq_true rfl) (place_skip (Nat.le_of_ble_eq_true rfl) (place_hit p.isLt (place_cons_lt q.isLt (place_cons_lt (bool_lt k) (place_nil_lt 0) (Nat.le_of_ble_eq_true rfl)) (Nat.le_of_ble_eq_true rfl)))))), fld_slotWord ho hf 1 2 (Nat.le_of_ble_eq_true rfl) q (place_skip (Nat.le_of_ble_eq_true rfl) (place_skip (Nat.le_of_ble_eq_true rfl) (place_skip (Nat.le_of_ble_eq_true rfl) (place_skip (Nat.le_of_ble_eq_true rfl) (place_hit q.isLt (place_cons_lt (bool_lt k) (place_nil_lt 0) (Nat.le_of_ble_eq_true rfl))))))), flag_slotWord ho hf 0 (Nat.le_of_ble_eq_true rfl) k (place_skip (Nat.le_of_ble_eq_true rfl) (place_skip (Nat.le_of_ble_eq_true rfl) (place_skip (Nat.le_of_ble_eq_true rfl) (place_skip (Nat.le_of_ble_eq_true rfl) (place_skip (Nat.le_of_ble_eq_true rfl) (place_hit (bool_lt k) (place_nil_lt 0)))))))])))

theorem arm_vmulh {w : BitVec 32} (hop : opcodeOf w = 0x04) : decodeV w = accept (true) (.vmulh (guardOf w) (fld w 15 5) (fld w 10 5) (fld w 5 5) (fld w 3 2) (fld w 1 2) (flag w 0)) := by
  unfold decodeV
  simp only [hop]

theorem vmulh (g : Guard) (d : BitVec 5) (a : BitVec 5) (b : BitVec 5) (p : BitVec 2) (q : BitVec 2) (k : Bool) : Statement (.vmulh g d a b p q k) := by
  intro W hW
  obtain rfl : slotWord g 0x04 (place [(d.toNat, 15), (a.toNat, 10), (b.toNat, 5), (p.toNat, 3), (q.toNat, 1), (k.toNat, 0)]) = W := Option.some.inj hW
  have ho : 0x04 < 2 ^ 7 := Nat.le_of_ble_eq_true rfl
  have hf : place [(d.toNat, 15), (a.toNat, 10), (b.toNat, 5), (p.toNat, 3), (q.toNat, 1), (k.toNat, 0)] < 2 ^ 20 := place_cons_lt d.isLt (place_cons_lt a.isLt (place_cons_lt b.isLt (place_cons_lt p.isLt (place_cons_lt q.isLt (place_cons_lt (bool_lt k) (place_nil_lt 0) (Nat.le_of_ble_eq_true rfl)) (Nat.le_of_ble_eq_true rfl)) (Nat.le_of_ble_eq_true rfl)) (Nat.le_of_ble_eq_true rfl)) (Nat.le_of_ble_eq_true rfl)) (Nat.le_of_ble_eq_true rfl)
  have hop := opcodeOf_slotWord (g := g) ho hf
  refine ⟨congrArg some (guardOf_slotWord ho hf).symm, _, rfl, decodeSlot_eq ?_⟩
  exact (decodeRaw_V hop (by decide)).trans ((arm_vmulh hop).trans (accept_eq rfl (by rw [guardOf_slotWord ho hf, fld_slotWord ho hf 15 5 (Nat.le_of_ble_eq_true rfl) d (place_hit d.isLt (place_cons_lt a.isLt (place_cons_lt b.isLt (place_cons_lt p.isLt (place_cons_lt q.isLt (place_cons_lt (bool_lt k) (place_nil_lt 0) (Nat.le_of_ble_eq_true rfl)) (Nat.le_of_ble_eq_true rfl)) (Nat.le_of_ble_eq_true rfl)) (Nat.le_of_ble_eq_true rfl)) (Nat.le_of_ble_eq_true rfl))), fld_slotWord ho hf 10 5 (Nat.le_of_ble_eq_true rfl) a (place_skip (Nat.le_of_ble_eq_true rfl) (place_hit a.isLt (place_cons_lt b.isLt (place_cons_lt p.isLt (place_cons_lt q.isLt (place_cons_lt (bool_lt k) (place_nil_lt 0) (Nat.le_of_ble_eq_true rfl)) (Nat.le_of_ble_eq_true rfl)) (Nat.le_of_ble_eq_true rfl)) (Nat.le_of_ble_eq_true rfl)))), fld_slotWord ho hf 5 5 (Nat.le_of_ble_eq_true rfl) b (place_skip (Nat.le_of_ble_eq_true rfl) (place_skip (Nat.le_of_ble_eq_true rfl) (place_hit b.isLt (place_cons_lt p.isLt (place_cons_lt q.isLt (place_cons_lt (bool_lt k) (place_nil_lt 0) (Nat.le_of_ble_eq_true rfl)) (Nat.le_of_ble_eq_true rfl)) (Nat.le_of_ble_eq_true rfl))))), fld_slotWord ho hf 3 2 (Nat.le_of_ble_eq_true rfl) p (place_skip (Nat.le_of_ble_eq_true rfl) (place_skip (Nat.le_of_ble_eq_true rfl) (place_skip (Nat.le_of_ble_eq_true rfl) (place_hit p.isLt (place_cons_lt q.isLt (place_cons_lt (bool_lt k) (place_nil_lt 0) (Nat.le_of_ble_eq_true rfl)) (Nat.le_of_ble_eq_true rfl)))))), fld_slotWord ho hf 1 2 (Nat.le_of_ble_eq_true rfl) q (place_skip (Nat.le_of_ble_eq_true rfl) (place_skip (Nat.le_of_ble_eq_true rfl) (place_skip (Nat.le_of_ble_eq_true rfl) (place_skip (Nat.le_of_ble_eq_true rfl) (place_hit q.isLt (place_cons_lt (bool_lt k) (place_nil_lt 0) (Nat.le_of_ble_eq_true rfl))))))), flag_slotWord ho hf 0 (Nat.le_of_ble_eq_true rfl) k (place_skip (Nat.le_of_ble_eq_true rfl) (place_skip (Nat.le_of_ble_eq_true rfl) (place_skip (Nat.le_of_ble_eq_true rfl) (place_skip (Nat.le_of_ble_eq_true rfl) (place_skip (Nat.le_of_ble_eq_true rfl) (place_hit (bool_lt k) (place_nil_lt 0)))))))])))

theorem arm_vaddsat {w : BitVec 32} (hop : opcodeOf w = 0x05) : decodeV w = accept (true) (.vaddsat (guardOf w) (fld w 15 5) (fld w 10 5) (fld w 5 5) (fld w 3 2) (fld w 1 2) (flag w 0)) := by
  unfold decodeV
  simp only [hop]

theorem vaddsat (g : Guard) (d : BitVec 5) (a : BitVec 5) (b : BitVec 5) (p : BitVec 2) (q : BitVec 2) (k : Bool) : Statement (.vaddsat g d a b p q k) := by
  intro W hW
  obtain rfl : slotWord g 0x05 (place [(d.toNat, 15), (a.toNat, 10), (b.toNat, 5), (p.toNat, 3), (q.toNat, 1), (k.toNat, 0)]) = W := Option.some.inj hW
  have ho : 0x05 < 2 ^ 7 := Nat.le_of_ble_eq_true rfl
  have hf : place [(d.toNat, 15), (a.toNat, 10), (b.toNat, 5), (p.toNat, 3), (q.toNat, 1), (k.toNat, 0)] < 2 ^ 20 := place_cons_lt d.isLt (place_cons_lt a.isLt (place_cons_lt b.isLt (place_cons_lt p.isLt (place_cons_lt q.isLt (place_cons_lt (bool_lt k) (place_nil_lt 0) (Nat.le_of_ble_eq_true rfl)) (Nat.le_of_ble_eq_true rfl)) (Nat.le_of_ble_eq_true rfl)) (Nat.le_of_ble_eq_true rfl)) (Nat.le_of_ble_eq_true rfl)) (Nat.le_of_ble_eq_true rfl)
  have hop := opcodeOf_slotWord (g := g) ho hf
  refine ⟨congrArg some (guardOf_slotWord ho hf).symm, _, rfl, decodeSlot_eq ?_⟩
  exact (decodeRaw_V hop (by decide)).trans ((arm_vaddsat hop).trans (accept_eq rfl (by rw [guardOf_slotWord ho hf, fld_slotWord ho hf 15 5 (Nat.le_of_ble_eq_true rfl) d (place_hit d.isLt (place_cons_lt a.isLt (place_cons_lt b.isLt (place_cons_lt p.isLt (place_cons_lt q.isLt (place_cons_lt (bool_lt k) (place_nil_lt 0) (Nat.le_of_ble_eq_true rfl)) (Nat.le_of_ble_eq_true rfl)) (Nat.le_of_ble_eq_true rfl)) (Nat.le_of_ble_eq_true rfl)) (Nat.le_of_ble_eq_true rfl))), fld_slotWord ho hf 10 5 (Nat.le_of_ble_eq_true rfl) a (place_skip (Nat.le_of_ble_eq_true rfl) (place_hit a.isLt (place_cons_lt b.isLt (place_cons_lt p.isLt (place_cons_lt q.isLt (place_cons_lt (bool_lt k) (place_nil_lt 0) (Nat.le_of_ble_eq_true rfl)) (Nat.le_of_ble_eq_true rfl)) (Nat.le_of_ble_eq_true rfl)) (Nat.le_of_ble_eq_true rfl)))), fld_slotWord ho hf 5 5 (Nat.le_of_ble_eq_true rfl) b (place_skip (Nat.le_of_ble_eq_true rfl) (place_skip (Nat.le_of_ble_eq_true rfl) (place_hit b.isLt (place_cons_lt p.isLt (place_cons_lt q.isLt (place_cons_lt (bool_lt k) (place_nil_lt 0) (Nat.le_of_ble_eq_true rfl)) (Nat.le_of_ble_eq_true rfl)) (Nat.le_of_ble_eq_true rfl))))), fld_slotWord ho hf 3 2 (Nat.le_of_ble_eq_true rfl) p (place_skip (Nat.le_of_ble_eq_true rfl) (place_skip (Nat.le_of_ble_eq_true rfl) (place_skip (Nat.le_of_ble_eq_true rfl) (place_hit p.isLt (place_cons_lt q.isLt (place_cons_lt (bool_lt k) (place_nil_lt 0) (Nat.le_of_ble_eq_true rfl)) (Nat.le_of_ble_eq_true rfl)))))), fld_slotWord ho hf 1 2 (Nat.le_of_ble_eq_true rfl) q (place_skip (Nat.le_of_ble_eq_true rfl) (place_skip (Nat.le_of_ble_eq_true rfl) (place_skip (Nat.le_of_ble_eq_true rfl) (place_skip (Nat.le_of_ble_eq_true rfl) (place_hit q.isLt (place_cons_lt (bool_lt k) (place_nil_lt 0) (Nat.le_of_ble_eq_true rfl))))))), flag_slotWord ho hf 0 (Nat.le_of_ble_eq_true rfl) k (place_skip (Nat.le_of_ble_eq_true rfl) (place_skip (Nat.le_of_ble_eq_true rfl) (place_skip (Nat.le_of_ble_eq_true rfl) (place_skip (Nat.le_of_ble_eq_true rfl) (place_skip (Nat.le_of_ble_eq_true rfl) (place_hit (bool_lt k) (place_nil_lt 0)))))))])))

theorem arm_vsubsat {w : BitVec 32} (hop : opcodeOf w = 0x06) : decodeV w = accept (true) (.vsubsat (guardOf w) (fld w 15 5) (fld w 10 5) (fld w 5 5) (fld w 3 2) (fld w 1 2) (flag w 0)) := by
  unfold decodeV
  simp only [hop]

theorem vsubsat (g : Guard) (d : BitVec 5) (a : BitVec 5) (b : BitVec 5) (p : BitVec 2) (q : BitVec 2) (k : Bool) : Statement (.vsubsat g d a b p q k) := by
  intro W hW
  obtain rfl : slotWord g 0x06 (place [(d.toNat, 15), (a.toNat, 10), (b.toNat, 5), (p.toNat, 3), (q.toNat, 1), (k.toNat, 0)]) = W := Option.some.inj hW
  have ho : 0x06 < 2 ^ 7 := Nat.le_of_ble_eq_true rfl
  have hf : place [(d.toNat, 15), (a.toNat, 10), (b.toNat, 5), (p.toNat, 3), (q.toNat, 1), (k.toNat, 0)] < 2 ^ 20 := place_cons_lt d.isLt (place_cons_lt a.isLt (place_cons_lt b.isLt (place_cons_lt p.isLt (place_cons_lt q.isLt (place_cons_lt (bool_lt k) (place_nil_lt 0) (Nat.le_of_ble_eq_true rfl)) (Nat.le_of_ble_eq_true rfl)) (Nat.le_of_ble_eq_true rfl)) (Nat.le_of_ble_eq_true rfl)) (Nat.le_of_ble_eq_true rfl)) (Nat.le_of_ble_eq_true rfl)
  have hop := opcodeOf_slotWord (g := g) ho hf
  refine ⟨congrArg some (guardOf_slotWord ho hf).symm, _, rfl, decodeSlot_eq ?_⟩
  exact (decodeRaw_V hop (by decide)).trans ((arm_vsubsat hop).trans (accept_eq rfl (by rw [guardOf_slotWord ho hf, fld_slotWord ho hf 15 5 (Nat.le_of_ble_eq_true rfl) d (place_hit d.isLt (place_cons_lt a.isLt (place_cons_lt b.isLt (place_cons_lt p.isLt (place_cons_lt q.isLt (place_cons_lt (bool_lt k) (place_nil_lt 0) (Nat.le_of_ble_eq_true rfl)) (Nat.le_of_ble_eq_true rfl)) (Nat.le_of_ble_eq_true rfl)) (Nat.le_of_ble_eq_true rfl)) (Nat.le_of_ble_eq_true rfl))), fld_slotWord ho hf 10 5 (Nat.le_of_ble_eq_true rfl) a (place_skip (Nat.le_of_ble_eq_true rfl) (place_hit a.isLt (place_cons_lt b.isLt (place_cons_lt p.isLt (place_cons_lt q.isLt (place_cons_lt (bool_lt k) (place_nil_lt 0) (Nat.le_of_ble_eq_true rfl)) (Nat.le_of_ble_eq_true rfl)) (Nat.le_of_ble_eq_true rfl)) (Nat.le_of_ble_eq_true rfl)))), fld_slotWord ho hf 5 5 (Nat.le_of_ble_eq_true rfl) b (place_skip (Nat.le_of_ble_eq_true rfl) (place_skip (Nat.le_of_ble_eq_true rfl) (place_hit b.isLt (place_cons_lt p.isLt (place_cons_lt q.isLt (place_cons_lt (bool_lt k) (place_nil_lt 0) (Nat.le_of_ble_eq_true rfl)) (Nat.le_of_ble_eq_true rfl)) (Nat.le_of_ble_eq_true rfl))))), fld_slotWord ho hf 3 2 (Nat.le_of_ble_eq_true rfl) p (place_skip (Nat.le_of_ble_eq_true rfl) (place_skip (Nat.le_of_ble_eq_true rfl) (place_skip (Nat.le_of_ble_eq_true rfl) (place_hit p.isLt (place_cons_lt q.isLt (place_cons_lt (bool_lt k) (place_nil_lt 0) (Nat.le_of_ble_eq_true rfl)) (Nat.le_of_ble_eq_true rfl)))))), fld_slotWord ho hf 1 2 (Nat.le_of_ble_eq_true rfl) q (place_skip (Nat.le_of_ble_eq_true rfl) (place_skip (Nat.le_of_ble_eq_true rfl) (place_skip (Nat.le_of_ble_eq_true rfl) (place_skip (Nat.le_of_ble_eq_true rfl) (place_hit q.isLt (place_cons_lt (bool_lt k) (place_nil_lt 0) (Nat.le_of_ble_eq_true rfl))))))), flag_slotWord ho hf 0 (Nat.le_of_ble_eq_true rfl) k (place_skip (Nat.le_of_ble_eq_true rfl) (place_skip (Nat.le_of_ble_eq_true rfl) (place_skip (Nat.le_of_ble_eq_true rfl) (place_skip (Nat.le_of_ble_eq_true rfl) (place_skip (Nat.le_of_ble_eq_true rfl) (place_hit (bool_lt k) (place_nil_lt 0)))))))])))

theorem arm_vavg {w : BitVec 32} (hop : opcodeOf w = 0x07) : decodeV w = accept (true) (.vavg (guardOf w) (fld w 15 5) (fld w 10 5) (fld w 5 5) (fld w 3 2) (fld w 1 2) (flag w 0)) := by
  unfold decodeV
  simp only [hop]

theorem vavg (g : Guard) (d : BitVec 5) (a : BitVec 5) (b : BitVec 5) (p : BitVec 2) (q : BitVec 2) (k : Bool) : Statement (.vavg g d a b p q k) := by
  intro W hW
  obtain rfl : slotWord g 0x07 (place [(d.toNat, 15), (a.toNat, 10), (b.toNat, 5), (p.toNat, 3), (q.toNat, 1), (k.toNat, 0)]) = W := Option.some.inj hW
  have ho : 0x07 < 2 ^ 7 := Nat.le_of_ble_eq_true rfl
  have hf : place [(d.toNat, 15), (a.toNat, 10), (b.toNat, 5), (p.toNat, 3), (q.toNat, 1), (k.toNat, 0)] < 2 ^ 20 := place_cons_lt d.isLt (place_cons_lt a.isLt (place_cons_lt b.isLt (place_cons_lt p.isLt (place_cons_lt q.isLt (place_cons_lt (bool_lt k) (place_nil_lt 0) (Nat.le_of_ble_eq_true rfl)) (Nat.le_of_ble_eq_true rfl)) (Nat.le_of_ble_eq_true rfl)) (Nat.le_of_ble_eq_true rfl)) (Nat.le_of_ble_eq_true rfl)) (Nat.le_of_ble_eq_true rfl)
  have hop := opcodeOf_slotWord (g := g) ho hf
  refine ⟨congrArg some (guardOf_slotWord ho hf).symm, _, rfl, decodeSlot_eq ?_⟩
  exact (decodeRaw_V hop (by decide)).trans ((arm_vavg hop).trans (accept_eq rfl (by rw [guardOf_slotWord ho hf, fld_slotWord ho hf 15 5 (Nat.le_of_ble_eq_true rfl) d (place_hit d.isLt (place_cons_lt a.isLt (place_cons_lt b.isLt (place_cons_lt p.isLt (place_cons_lt q.isLt (place_cons_lt (bool_lt k) (place_nil_lt 0) (Nat.le_of_ble_eq_true rfl)) (Nat.le_of_ble_eq_true rfl)) (Nat.le_of_ble_eq_true rfl)) (Nat.le_of_ble_eq_true rfl)) (Nat.le_of_ble_eq_true rfl))), fld_slotWord ho hf 10 5 (Nat.le_of_ble_eq_true rfl) a (place_skip (Nat.le_of_ble_eq_true rfl) (place_hit a.isLt (place_cons_lt b.isLt (place_cons_lt p.isLt (place_cons_lt q.isLt (place_cons_lt (bool_lt k) (place_nil_lt 0) (Nat.le_of_ble_eq_true rfl)) (Nat.le_of_ble_eq_true rfl)) (Nat.le_of_ble_eq_true rfl)) (Nat.le_of_ble_eq_true rfl)))), fld_slotWord ho hf 5 5 (Nat.le_of_ble_eq_true rfl) b (place_skip (Nat.le_of_ble_eq_true rfl) (place_skip (Nat.le_of_ble_eq_true rfl) (place_hit b.isLt (place_cons_lt p.isLt (place_cons_lt q.isLt (place_cons_lt (bool_lt k) (place_nil_lt 0) (Nat.le_of_ble_eq_true rfl)) (Nat.le_of_ble_eq_true rfl)) (Nat.le_of_ble_eq_true rfl))))), fld_slotWord ho hf 3 2 (Nat.le_of_ble_eq_true rfl) p (place_skip (Nat.le_of_ble_eq_true rfl) (place_skip (Nat.le_of_ble_eq_true rfl) (place_skip (Nat.le_of_ble_eq_true rfl) (place_hit p.isLt (place_cons_lt q.isLt (place_cons_lt (bool_lt k) (place_nil_lt 0) (Nat.le_of_ble_eq_true rfl)) (Nat.le_of_ble_eq_true rfl)))))), fld_slotWord ho hf 1 2 (Nat.le_of_ble_eq_true rfl) q (place_skip (Nat.le_of_ble_eq_true rfl) (place_skip (Nat.le_of_ble_eq_true rfl) (place_skip (Nat.le_of_ble_eq_true rfl) (place_skip (Nat.le_of_ble_eq_true rfl) (place_hit q.isLt (place_cons_lt (bool_lt k) (place_nil_lt 0) (Nat.le_of_ble_eq_true rfl))))))), flag_slotWord ho hf 0 (Nat.le_of_ble_eq_true rfl) k (place_skip (Nat.le_of_ble_eq_true rfl) (place_skip (Nat.le_of_ble_eq_true rfl) (place_skip (Nat.le_of_ble_eq_true rfl) (place_skip (Nat.le_of_ble_eq_true rfl) (place_skip (Nat.le_of_ble_eq_true rfl) (place_hit (bool_lt k) (place_nil_lt 0)))))))])))

theorem arm_vmin {w : BitVec 32} (hop : opcodeOf w = 0x08) : decodeV w = accept (true) (.vmin (guardOf w) (fld w 15 5) (fld w 10 5) (fld w 5 5) (fld w 3 2) (fld w 1 2) (flag w 0)) := by
  unfold decodeV
  simp only [hop]

theorem vmin (g : Guard) (d : BitVec 5) (a : BitVec 5) (b : BitVec 5) (p : BitVec 2) (q : BitVec 2) (k : Bool) : Statement (.vmin g d a b p q k) := by
  intro W hW
  obtain rfl : slotWord g 0x08 (place [(d.toNat, 15), (a.toNat, 10), (b.toNat, 5), (p.toNat, 3), (q.toNat, 1), (k.toNat, 0)]) = W := Option.some.inj hW
  have ho : 0x08 < 2 ^ 7 := Nat.le_of_ble_eq_true rfl
  have hf : place [(d.toNat, 15), (a.toNat, 10), (b.toNat, 5), (p.toNat, 3), (q.toNat, 1), (k.toNat, 0)] < 2 ^ 20 := place_cons_lt d.isLt (place_cons_lt a.isLt (place_cons_lt b.isLt (place_cons_lt p.isLt (place_cons_lt q.isLt (place_cons_lt (bool_lt k) (place_nil_lt 0) (Nat.le_of_ble_eq_true rfl)) (Nat.le_of_ble_eq_true rfl)) (Nat.le_of_ble_eq_true rfl)) (Nat.le_of_ble_eq_true rfl)) (Nat.le_of_ble_eq_true rfl)) (Nat.le_of_ble_eq_true rfl)
  have hop := opcodeOf_slotWord (g := g) ho hf
  refine ⟨congrArg some (guardOf_slotWord ho hf).symm, _, rfl, decodeSlot_eq ?_⟩
  exact (decodeRaw_V hop (by decide)).trans ((arm_vmin hop).trans (accept_eq rfl (by rw [guardOf_slotWord ho hf, fld_slotWord ho hf 15 5 (Nat.le_of_ble_eq_true rfl) d (place_hit d.isLt (place_cons_lt a.isLt (place_cons_lt b.isLt (place_cons_lt p.isLt (place_cons_lt q.isLt (place_cons_lt (bool_lt k) (place_nil_lt 0) (Nat.le_of_ble_eq_true rfl)) (Nat.le_of_ble_eq_true rfl)) (Nat.le_of_ble_eq_true rfl)) (Nat.le_of_ble_eq_true rfl)) (Nat.le_of_ble_eq_true rfl))), fld_slotWord ho hf 10 5 (Nat.le_of_ble_eq_true rfl) a (place_skip (Nat.le_of_ble_eq_true rfl) (place_hit a.isLt (place_cons_lt b.isLt (place_cons_lt p.isLt (place_cons_lt q.isLt (place_cons_lt (bool_lt k) (place_nil_lt 0) (Nat.le_of_ble_eq_true rfl)) (Nat.le_of_ble_eq_true rfl)) (Nat.le_of_ble_eq_true rfl)) (Nat.le_of_ble_eq_true rfl)))), fld_slotWord ho hf 5 5 (Nat.le_of_ble_eq_true rfl) b (place_skip (Nat.le_of_ble_eq_true rfl) (place_skip (Nat.le_of_ble_eq_true rfl) (place_hit b.isLt (place_cons_lt p.isLt (place_cons_lt q.isLt (place_cons_lt (bool_lt k) (place_nil_lt 0) (Nat.le_of_ble_eq_true rfl)) (Nat.le_of_ble_eq_true rfl)) (Nat.le_of_ble_eq_true rfl))))), fld_slotWord ho hf 3 2 (Nat.le_of_ble_eq_true rfl) p (place_skip (Nat.le_of_ble_eq_true rfl) (place_skip (Nat.le_of_ble_eq_true rfl) (place_skip (Nat.le_of_ble_eq_true rfl) (place_hit p.isLt (place_cons_lt q.isLt (place_cons_lt (bool_lt k) (place_nil_lt 0) (Nat.le_of_ble_eq_true rfl)) (Nat.le_of_ble_eq_true rfl)))))), fld_slotWord ho hf 1 2 (Nat.le_of_ble_eq_true rfl) q (place_skip (Nat.le_of_ble_eq_true rfl) (place_skip (Nat.le_of_ble_eq_true rfl) (place_skip (Nat.le_of_ble_eq_true rfl) (place_skip (Nat.le_of_ble_eq_true rfl) (place_hit q.isLt (place_cons_lt (bool_lt k) (place_nil_lt 0) (Nat.le_of_ble_eq_true rfl))))))), flag_slotWord ho hf 0 (Nat.le_of_ble_eq_true rfl) k (place_skip (Nat.le_of_ble_eq_true rfl) (place_skip (Nat.le_of_ble_eq_true rfl) (place_skip (Nat.le_of_ble_eq_true rfl) (place_skip (Nat.le_of_ble_eq_true rfl) (place_skip (Nat.le_of_ble_eq_true rfl) (place_hit (bool_lt k) (place_nil_lt 0)))))))])))

theorem arm_vmax {w : BitVec 32} (hop : opcodeOf w = 0x09) : decodeV w = accept (true) (.vmax (guardOf w) (fld w 15 5) (fld w 10 5) (fld w 5 5) (fld w 3 2) (fld w 1 2) (flag w 0)) := by
  unfold decodeV
  simp only [hop]

theorem vmax (g : Guard) (d : BitVec 5) (a : BitVec 5) (b : BitVec 5) (p : BitVec 2) (q : BitVec 2) (k : Bool) : Statement (.vmax g d a b p q k) := by
  intro W hW
  obtain rfl : slotWord g 0x09 (place [(d.toNat, 15), (a.toNat, 10), (b.toNat, 5), (p.toNat, 3), (q.toNat, 1), (k.toNat, 0)]) = W := Option.some.inj hW
  have ho : 0x09 < 2 ^ 7 := Nat.le_of_ble_eq_true rfl
  have hf : place [(d.toNat, 15), (a.toNat, 10), (b.toNat, 5), (p.toNat, 3), (q.toNat, 1), (k.toNat, 0)] < 2 ^ 20 := place_cons_lt d.isLt (place_cons_lt a.isLt (place_cons_lt b.isLt (place_cons_lt p.isLt (place_cons_lt q.isLt (place_cons_lt (bool_lt k) (place_nil_lt 0) (Nat.le_of_ble_eq_true rfl)) (Nat.le_of_ble_eq_true rfl)) (Nat.le_of_ble_eq_true rfl)) (Nat.le_of_ble_eq_true rfl)) (Nat.le_of_ble_eq_true rfl)) (Nat.le_of_ble_eq_true rfl)
  have hop := opcodeOf_slotWord (g := g) ho hf
  refine ⟨congrArg some (guardOf_slotWord ho hf).symm, _, rfl, decodeSlot_eq ?_⟩
  exact (decodeRaw_V hop (by decide)).trans ((arm_vmax hop).trans (accept_eq rfl (by rw [guardOf_slotWord ho hf, fld_slotWord ho hf 15 5 (Nat.le_of_ble_eq_true rfl) d (place_hit d.isLt (place_cons_lt a.isLt (place_cons_lt b.isLt (place_cons_lt p.isLt (place_cons_lt q.isLt (place_cons_lt (bool_lt k) (place_nil_lt 0) (Nat.le_of_ble_eq_true rfl)) (Nat.le_of_ble_eq_true rfl)) (Nat.le_of_ble_eq_true rfl)) (Nat.le_of_ble_eq_true rfl)) (Nat.le_of_ble_eq_true rfl))), fld_slotWord ho hf 10 5 (Nat.le_of_ble_eq_true rfl) a (place_skip (Nat.le_of_ble_eq_true rfl) (place_hit a.isLt (place_cons_lt b.isLt (place_cons_lt p.isLt (place_cons_lt q.isLt (place_cons_lt (bool_lt k) (place_nil_lt 0) (Nat.le_of_ble_eq_true rfl)) (Nat.le_of_ble_eq_true rfl)) (Nat.le_of_ble_eq_true rfl)) (Nat.le_of_ble_eq_true rfl)))), fld_slotWord ho hf 5 5 (Nat.le_of_ble_eq_true rfl) b (place_skip (Nat.le_of_ble_eq_true rfl) (place_skip (Nat.le_of_ble_eq_true rfl) (place_hit b.isLt (place_cons_lt p.isLt (place_cons_lt q.isLt (place_cons_lt (bool_lt k) (place_nil_lt 0) (Nat.le_of_ble_eq_true rfl)) (Nat.le_of_ble_eq_true rfl)) (Nat.le_of_ble_eq_true rfl))))), fld_slotWord ho hf 3 2 (Nat.le_of_ble_eq_true rfl) p (place_skip (Nat.le_of_ble_eq_true rfl) (place_skip (Nat.le_of_ble_eq_true rfl) (place_skip (Nat.le_of_ble_eq_true rfl) (place_hit p.isLt (place_cons_lt q.isLt (place_cons_lt (bool_lt k) (place_nil_lt 0) (Nat.le_of_ble_eq_true rfl)) (Nat.le_of_ble_eq_true rfl)))))), fld_slotWord ho hf 1 2 (Nat.le_of_ble_eq_true rfl) q (place_skip (Nat.le_of_ble_eq_true rfl) (place_skip (Nat.le_of_ble_eq_true rfl) (place_skip (Nat.le_of_ble_eq_true rfl) (place_skip (Nat.le_of_ble_eq_true rfl) (place_hit q.isLt (place_cons_lt (bool_lt k) (place_nil_lt 0) (Nat.le_of_ble_eq_true rfl))))))), flag_slotWord ho hf 0 (Nat.le_of_ble_eq_true rfl) k (place_skip (Nat.le_of_ble_eq_true rfl) (place_skip (Nat.le_of_ble_eq_true rfl) (place_skip (Nat.le_of_ble_eq_true rfl) (place_skip (Nat.le_of_ble_eq_true rfl) (place_skip (Nat.le_of_ble_eq_true rfl) (place_hit (bool_lt k) (place_nil_lt 0)))))))])))

theorem arm_vabs {w : BitVec 32} (hop : opcodeOf w = 0x0A) : decodeV w = accept (holds w 1 2 0 && holds w 5 5 0) (.vabs (guardOf w) (fld w 15 5) (fld w 10 5) (fld w 3 2) (flag w 0)) := by
  unfold decodeV
  simp only [hop]

theorem vabs (g : Guard) (d : BitVec 5) (a : BitVec 5) (p : BitVec 2) (k : Bool) : Statement (.vabs g d a p k) := by
  intro W hW
  obtain rfl : slotWord g 0x0A (place [(d.toNat, 15), (a.toNat, 10), (p.toNat, 3), (k.toNat, 0)]) = W := Option.some.inj hW
  have ho : 0x0A < 2 ^ 7 := Nat.le_of_ble_eq_true rfl
  have hf : place [(d.toNat, 15), (a.toNat, 10), (p.toNat, 3), (k.toNat, 0)] < 2 ^ 20 := place_cons_lt d.isLt (place_cons_lt a.isLt (place_cons_lt p.isLt (place_cons_lt (bool_lt k) (place_nil_lt 0) (Nat.le_of_ble_eq_true rfl)) (Nat.le_of_ble_eq_true rfl)) (Nat.le_of_ble_eq_true rfl)) (Nat.le_of_ble_eq_true rfl)
  have hop := opcodeOf_slotWord (g := g) ho hf
  refine ⟨congrArg some (guardOf_slotWord ho hf).symm, _, rfl, decodeSlot_eq ?_⟩
  exact (decodeRaw_V hop (by decide)).trans ((arm_vabs hop).trans (accept_eq (Bool.and_eq_true_iff.mpr ⟨(holds_slotWord ho hf 1 2 0 (Nat.le_of_ble_eq_true rfl) (place_skip (Nat.le_of_ble_eq_true rfl) (place_skip (Nat.le_of_ble_eq_true rfl) (place_skip (Nat.le_of_ble_eq_true rfl) (place_zero (place_cons_lt (bool_lt k) (place_nil_lt 0) (Nat.le_of_ble_eq_true rfl))))))), (holds_slotWord ho hf 5 5 0 (Nat.le_of_ble_eq_true rfl) (place_skip (Nat.le_of_ble_eq_true rfl) (place_skip (Nat.le_of_ble_eq_true rfl) (place_zero (place_cons_lt p.isLt (place_cons_lt (bool_lt k) (place_nil_lt 0) (Nat.le_of_ble_eq_true rfl)) (Nat.le_of_ble_eq_true rfl))))))⟩) (by rw [guardOf_slotWord ho hf, fld_slotWord ho hf 15 5 (Nat.le_of_ble_eq_true rfl) d (place_hit d.isLt (place_cons_lt a.isLt (place_cons_lt p.isLt (place_cons_lt (bool_lt k) (place_nil_lt 0) (Nat.le_of_ble_eq_true rfl)) (Nat.le_of_ble_eq_true rfl)) (Nat.le_of_ble_eq_true rfl))), fld_slotWord ho hf 10 5 (Nat.le_of_ble_eq_true rfl) a (place_skip (Nat.le_of_ble_eq_true rfl) (place_hit a.isLt (place_cons_lt p.isLt (place_cons_lt (bool_lt k) (place_nil_lt 0) (Nat.le_of_ble_eq_true rfl)) (Nat.le_of_ble_eq_true rfl)))), fld_slotWord ho hf 3 2 (Nat.le_of_ble_eq_true rfl) p (place_skip (Nat.le_of_ble_eq_true rfl) (place_skip (Nat.le_of_ble_eq_true rfl) (place_hit p.isLt (place_cons_lt (bool_lt k) (place_nil_lt 0) (Nat.le_of_ble_eq_true rfl))))), flag_slotWord ho hf 0 (Nat.le_of_ble_eq_true rfl) k (place_skip (Nat.le_of_ble_eq_true rfl) (place_skip (Nat.le_of_ble_eq_true rfl) (place_skip (Nat.le_of_ble_eq_true rfl) (place_hit (bool_lt k) (place_nil_lt 0)))))])))

theorem arm_vand {w : BitVec 32} (hop : opcodeOf w = 0x0B) : decodeV w = accept (true) (.vand (guardOf w) (fld w 15 5) (fld w 10 5) (fld w 5 5) (fld w 3 2) (fld w 1 2) (flag w 0)) := by
  unfold decodeV
  simp only [hop]

theorem vand (g : Guard) (d : BitVec 5) (a : BitVec 5) (b : BitVec 5) (p : BitVec 2) (q : BitVec 2) (k : Bool) : Statement (.vand g d a b p q k) := by
  intro W hW
  obtain rfl : slotWord g 0x0B (place [(d.toNat, 15), (a.toNat, 10), (b.toNat, 5), (p.toNat, 3), (q.toNat, 1), (k.toNat, 0)]) = W := Option.some.inj hW
  have ho : 0x0B < 2 ^ 7 := Nat.le_of_ble_eq_true rfl
  have hf : place [(d.toNat, 15), (a.toNat, 10), (b.toNat, 5), (p.toNat, 3), (q.toNat, 1), (k.toNat, 0)] < 2 ^ 20 := place_cons_lt d.isLt (place_cons_lt a.isLt (place_cons_lt b.isLt (place_cons_lt p.isLt (place_cons_lt q.isLt (place_cons_lt (bool_lt k) (place_nil_lt 0) (Nat.le_of_ble_eq_true rfl)) (Nat.le_of_ble_eq_true rfl)) (Nat.le_of_ble_eq_true rfl)) (Nat.le_of_ble_eq_true rfl)) (Nat.le_of_ble_eq_true rfl)) (Nat.le_of_ble_eq_true rfl)
  have hop := opcodeOf_slotWord (g := g) ho hf
  refine ⟨congrArg some (guardOf_slotWord ho hf).symm, _, rfl, decodeSlot_eq ?_⟩
  exact (decodeRaw_V hop (by decide)).trans ((arm_vand hop).trans (accept_eq rfl (by rw [guardOf_slotWord ho hf, fld_slotWord ho hf 15 5 (Nat.le_of_ble_eq_true rfl) d (place_hit d.isLt (place_cons_lt a.isLt (place_cons_lt b.isLt (place_cons_lt p.isLt (place_cons_lt q.isLt (place_cons_lt (bool_lt k) (place_nil_lt 0) (Nat.le_of_ble_eq_true rfl)) (Nat.le_of_ble_eq_true rfl)) (Nat.le_of_ble_eq_true rfl)) (Nat.le_of_ble_eq_true rfl)) (Nat.le_of_ble_eq_true rfl))), fld_slotWord ho hf 10 5 (Nat.le_of_ble_eq_true rfl) a (place_skip (Nat.le_of_ble_eq_true rfl) (place_hit a.isLt (place_cons_lt b.isLt (place_cons_lt p.isLt (place_cons_lt q.isLt (place_cons_lt (bool_lt k) (place_nil_lt 0) (Nat.le_of_ble_eq_true rfl)) (Nat.le_of_ble_eq_true rfl)) (Nat.le_of_ble_eq_true rfl)) (Nat.le_of_ble_eq_true rfl)))), fld_slotWord ho hf 5 5 (Nat.le_of_ble_eq_true rfl) b (place_skip (Nat.le_of_ble_eq_true rfl) (place_skip (Nat.le_of_ble_eq_true rfl) (place_hit b.isLt (place_cons_lt p.isLt (place_cons_lt q.isLt (place_cons_lt (bool_lt k) (place_nil_lt 0) (Nat.le_of_ble_eq_true rfl)) (Nat.le_of_ble_eq_true rfl)) (Nat.le_of_ble_eq_true rfl))))), fld_slotWord ho hf 3 2 (Nat.le_of_ble_eq_true rfl) p (place_skip (Nat.le_of_ble_eq_true rfl) (place_skip (Nat.le_of_ble_eq_true rfl) (place_skip (Nat.le_of_ble_eq_true rfl) (place_hit p.isLt (place_cons_lt q.isLt (place_cons_lt (bool_lt k) (place_nil_lt 0) (Nat.le_of_ble_eq_true rfl)) (Nat.le_of_ble_eq_true rfl)))))), fld_slotWord ho hf 1 2 (Nat.le_of_ble_eq_true rfl) q (place_skip (Nat.le_of_ble_eq_true rfl) (place_skip (Nat.le_of_ble_eq_true rfl) (place_skip (Nat.le_of_ble_eq_true rfl) (place_skip (Nat.le_of_ble_eq_true rfl) (place_hit q.isLt (place_cons_lt (bool_lt k) (place_nil_lt 0) (Nat.le_of_ble_eq_true rfl))))))), flag_slotWord ho hf 0 (Nat.le_of_ble_eq_true rfl) k (place_skip (Nat.le_of_ble_eq_true rfl) (place_skip (Nat.le_of_ble_eq_true rfl) (place_skip (Nat.le_of_ble_eq_true rfl) (place_skip (Nat.le_of_ble_eq_true rfl) (place_skip (Nat.le_of_ble_eq_true rfl) (place_hit (bool_lt k) (place_nil_lt 0)))))))])))

theorem arm_vor {w : BitVec 32} (hop : opcodeOf w = 0x0C) : decodeV w = accept (true) (.vor (guardOf w) (fld w 15 5) (fld w 10 5) (fld w 5 5) (fld w 3 2) (fld w 1 2) (flag w 0)) := by
  unfold decodeV
  simp only [hop]

theorem vor (g : Guard) (d : BitVec 5) (a : BitVec 5) (b : BitVec 5) (p : BitVec 2) (q : BitVec 2) (k : Bool) : Statement (.vor g d a b p q k) := by
  intro W hW
  obtain rfl : slotWord g 0x0C (place [(d.toNat, 15), (a.toNat, 10), (b.toNat, 5), (p.toNat, 3), (q.toNat, 1), (k.toNat, 0)]) = W := Option.some.inj hW
  have ho : 0x0C < 2 ^ 7 := Nat.le_of_ble_eq_true rfl
  have hf : place [(d.toNat, 15), (a.toNat, 10), (b.toNat, 5), (p.toNat, 3), (q.toNat, 1), (k.toNat, 0)] < 2 ^ 20 := place_cons_lt d.isLt (place_cons_lt a.isLt (place_cons_lt b.isLt (place_cons_lt p.isLt (place_cons_lt q.isLt (place_cons_lt (bool_lt k) (place_nil_lt 0) (Nat.le_of_ble_eq_true rfl)) (Nat.le_of_ble_eq_true rfl)) (Nat.le_of_ble_eq_true rfl)) (Nat.le_of_ble_eq_true rfl)) (Nat.le_of_ble_eq_true rfl)) (Nat.le_of_ble_eq_true rfl)
  have hop := opcodeOf_slotWord (g := g) ho hf
  refine ⟨congrArg some (guardOf_slotWord ho hf).symm, _, rfl, decodeSlot_eq ?_⟩
  exact (decodeRaw_V hop (by decide)).trans ((arm_vor hop).trans (accept_eq rfl (by rw [guardOf_slotWord ho hf, fld_slotWord ho hf 15 5 (Nat.le_of_ble_eq_true rfl) d (place_hit d.isLt (place_cons_lt a.isLt (place_cons_lt b.isLt (place_cons_lt p.isLt (place_cons_lt q.isLt (place_cons_lt (bool_lt k) (place_nil_lt 0) (Nat.le_of_ble_eq_true rfl)) (Nat.le_of_ble_eq_true rfl)) (Nat.le_of_ble_eq_true rfl)) (Nat.le_of_ble_eq_true rfl)) (Nat.le_of_ble_eq_true rfl))), fld_slotWord ho hf 10 5 (Nat.le_of_ble_eq_true rfl) a (place_skip (Nat.le_of_ble_eq_true rfl) (place_hit a.isLt (place_cons_lt b.isLt (place_cons_lt p.isLt (place_cons_lt q.isLt (place_cons_lt (bool_lt k) (place_nil_lt 0) (Nat.le_of_ble_eq_true rfl)) (Nat.le_of_ble_eq_true rfl)) (Nat.le_of_ble_eq_true rfl)) (Nat.le_of_ble_eq_true rfl)))), fld_slotWord ho hf 5 5 (Nat.le_of_ble_eq_true rfl) b (place_skip (Nat.le_of_ble_eq_true rfl) (place_skip (Nat.le_of_ble_eq_true rfl) (place_hit b.isLt (place_cons_lt p.isLt (place_cons_lt q.isLt (place_cons_lt (bool_lt k) (place_nil_lt 0) (Nat.le_of_ble_eq_true rfl)) (Nat.le_of_ble_eq_true rfl)) (Nat.le_of_ble_eq_true rfl))))), fld_slotWord ho hf 3 2 (Nat.le_of_ble_eq_true rfl) p (place_skip (Nat.le_of_ble_eq_true rfl) (place_skip (Nat.le_of_ble_eq_true rfl) (place_skip (Nat.le_of_ble_eq_true rfl) (place_hit p.isLt (place_cons_lt q.isLt (place_cons_lt (bool_lt k) (place_nil_lt 0) (Nat.le_of_ble_eq_true rfl)) (Nat.le_of_ble_eq_true rfl)))))), fld_slotWord ho hf 1 2 (Nat.le_of_ble_eq_true rfl) q (place_skip (Nat.le_of_ble_eq_true rfl) (place_skip (Nat.le_of_ble_eq_true rfl) (place_skip (Nat.le_of_ble_eq_true rfl) (place_skip (Nat.le_of_ble_eq_true rfl) (place_hit q.isLt (place_cons_lt (bool_lt k) (place_nil_lt 0) (Nat.le_of_ble_eq_true rfl))))))), flag_slotWord ho hf 0 (Nat.le_of_ble_eq_true rfl) k (place_skip (Nat.le_of_ble_eq_true rfl) (place_skip (Nat.le_of_ble_eq_true rfl) (place_skip (Nat.le_of_ble_eq_true rfl) (place_skip (Nat.le_of_ble_eq_true rfl) (place_skip (Nat.le_of_ble_eq_true rfl) (place_hit (bool_lt k) (place_nil_lt 0)))))))])))

theorem arm_vxor {w : BitVec 32} (hop : opcodeOf w = 0x0D) : decodeV w = accept (true) (.vxor (guardOf w) (fld w 15 5) (fld w 10 5) (fld w 5 5) (fld w 3 2) (fld w 1 2) (flag w 0)) := by
  unfold decodeV
  simp only [hop]

theorem vxor (g : Guard) (d : BitVec 5) (a : BitVec 5) (b : BitVec 5) (p : BitVec 2) (q : BitVec 2) (k : Bool) : Statement (.vxor g d a b p q k) := by
  intro W hW
  obtain rfl : slotWord g 0x0D (place [(d.toNat, 15), (a.toNat, 10), (b.toNat, 5), (p.toNat, 3), (q.toNat, 1), (k.toNat, 0)]) = W := Option.some.inj hW
  have ho : 0x0D < 2 ^ 7 := Nat.le_of_ble_eq_true rfl
  have hf : place [(d.toNat, 15), (a.toNat, 10), (b.toNat, 5), (p.toNat, 3), (q.toNat, 1), (k.toNat, 0)] < 2 ^ 20 := place_cons_lt d.isLt (place_cons_lt a.isLt (place_cons_lt b.isLt (place_cons_lt p.isLt (place_cons_lt q.isLt (place_cons_lt (bool_lt k) (place_nil_lt 0) (Nat.le_of_ble_eq_true rfl)) (Nat.le_of_ble_eq_true rfl)) (Nat.le_of_ble_eq_true rfl)) (Nat.le_of_ble_eq_true rfl)) (Nat.le_of_ble_eq_true rfl)) (Nat.le_of_ble_eq_true rfl)
  have hop := opcodeOf_slotWord (g := g) ho hf
  refine ⟨congrArg some (guardOf_slotWord ho hf).symm, _, rfl, decodeSlot_eq ?_⟩
  exact (decodeRaw_V hop (by decide)).trans ((arm_vxor hop).trans (accept_eq rfl (by rw [guardOf_slotWord ho hf, fld_slotWord ho hf 15 5 (Nat.le_of_ble_eq_true rfl) d (place_hit d.isLt (place_cons_lt a.isLt (place_cons_lt b.isLt (place_cons_lt p.isLt (place_cons_lt q.isLt (place_cons_lt (bool_lt k) (place_nil_lt 0) (Nat.le_of_ble_eq_true rfl)) (Nat.le_of_ble_eq_true rfl)) (Nat.le_of_ble_eq_true rfl)) (Nat.le_of_ble_eq_true rfl)) (Nat.le_of_ble_eq_true rfl))), fld_slotWord ho hf 10 5 (Nat.le_of_ble_eq_true rfl) a (place_skip (Nat.le_of_ble_eq_true rfl) (place_hit a.isLt (place_cons_lt b.isLt (place_cons_lt p.isLt (place_cons_lt q.isLt (place_cons_lt (bool_lt k) (place_nil_lt 0) (Nat.le_of_ble_eq_true rfl)) (Nat.le_of_ble_eq_true rfl)) (Nat.le_of_ble_eq_true rfl)) (Nat.le_of_ble_eq_true rfl)))), fld_slotWord ho hf 5 5 (Nat.le_of_ble_eq_true rfl) b (place_skip (Nat.le_of_ble_eq_true rfl) (place_skip (Nat.le_of_ble_eq_true rfl) (place_hit b.isLt (place_cons_lt p.isLt (place_cons_lt q.isLt (place_cons_lt (bool_lt k) (place_nil_lt 0) (Nat.le_of_ble_eq_true rfl)) (Nat.le_of_ble_eq_true rfl)) (Nat.le_of_ble_eq_true rfl))))), fld_slotWord ho hf 3 2 (Nat.le_of_ble_eq_true rfl) p (place_skip (Nat.le_of_ble_eq_true rfl) (place_skip (Nat.le_of_ble_eq_true rfl) (place_skip (Nat.le_of_ble_eq_true rfl) (place_hit p.isLt (place_cons_lt q.isLt (place_cons_lt (bool_lt k) (place_nil_lt 0) (Nat.le_of_ble_eq_true rfl)) (Nat.le_of_ble_eq_true rfl)))))), fld_slotWord ho hf 1 2 (Nat.le_of_ble_eq_true rfl) q (place_skip (Nat.le_of_ble_eq_true rfl) (place_skip (Nat.le_of_ble_eq_true rfl) (place_skip (Nat.le_of_ble_eq_true rfl) (place_skip (Nat.le_of_ble_eq_true rfl) (place_hit q.isLt (place_cons_lt (bool_lt k) (place_nil_lt 0) (Nat.le_of_ble_eq_true rfl))))))), flag_slotWord ho hf 0 (Nat.le_of_ble_eq_true rfl) k (place_skip (Nat.le_of_ble_eq_true rfl) (place_skip (Nat.le_of_ble_eq_true rfl) (place_skip (Nat.le_of_ble_eq_true rfl) (place_skip (Nat.le_of_ble_eq_true rfl) (place_skip (Nat.le_of_ble_eq_true rfl) (place_hit (bool_lt k) (place_nil_lt 0)))))))])))

theorem arm_vandn {w : BitVec 32} (hop : opcodeOf w = 0x0E) : decodeV w = accept (true) (.vandn (guardOf w) (fld w 15 5) (fld w 10 5) (fld w 5 5) (fld w 3 2) (fld w 1 2) (flag w 0)) := by
  unfold decodeV
  simp only [hop]

theorem vandn (g : Guard) (d : BitVec 5) (a : BitVec 5) (b : BitVec 5) (p : BitVec 2) (q : BitVec 2) (k : Bool) : Statement (.vandn g d a b p q k) := by
  intro W hW
  obtain rfl : slotWord g 0x0E (place [(d.toNat, 15), (a.toNat, 10), (b.toNat, 5), (p.toNat, 3), (q.toNat, 1), (k.toNat, 0)]) = W := Option.some.inj hW
  have ho : 0x0E < 2 ^ 7 := Nat.le_of_ble_eq_true rfl
  have hf : place [(d.toNat, 15), (a.toNat, 10), (b.toNat, 5), (p.toNat, 3), (q.toNat, 1), (k.toNat, 0)] < 2 ^ 20 := place_cons_lt d.isLt (place_cons_lt a.isLt (place_cons_lt b.isLt (place_cons_lt p.isLt (place_cons_lt q.isLt (place_cons_lt (bool_lt k) (place_nil_lt 0) (Nat.le_of_ble_eq_true rfl)) (Nat.le_of_ble_eq_true rfl)) (Nat.le_of_ble_eq_true rfl)) (Nat.le_of_ble_eq_true rfl)) (Nat.le_of_ble_eq_true rfl)) (Nat.le_of_ble_eq_true rfl)
  have hop := opcodeOf_slotWord (g := g) ho hf
  refine ⟨congrArg some (guardOf_slotWord ho hf).symm, _, rfl, decodeSlot_eq ?_⟩
  exact (decodeRaw_V hop (by decide)).trans ((arm_vandn hop).trans (accept_eq rfl (by rw [guardOf_slotWord ho hf, fld_slotWord ho hf 15 5 (Nat.le_of_ble_eq_true rfl) d (place_hit d.isLt (place_cons_lt a.isLt (place_cons_lt b.isLt (place_cons_lt p.isLt (place_cons_lt q.isLt (place_cons_lt (bool_lt k) (place_nil_lt 0) (Nat.le_of_ble_eq_true rfl)) (Nat.le_of_ble_eq_true rfl)) (Nat.le_of_ble_eq_true rfl)) (Nat.le_of_ble_eq_true rfl)) (Nat.le_of_ble_eq_true rfl))), fld_slotWord ho hf 10 5 (Nat.le_of_ble_eq_true rfl) a (place_skip (Nat.le_of_ble_eq_true rfl) (place_hit a.isLt (place_cons_lt b.isLt (place_cons_lt p.isLt (place_cons_lt q.isLt (place_cons_lt (bool_lt k) (place_nil_lt 0) (Nat.le_of_ble_eq_true rfl)) (Nat.le_of_ble_eq_true rfl)) (Nat.le_of_ble_eq_true rfl)) (Nat.le_of_ble_eq_true rfl)))), fld_slotWord ho hf 5 5 (Nat.le_of_ble_eq_true rfl) b (place_skip (Nat.le_of_ble_eq_true rfl) (place_skip (Nat.le_of_ble_eq_true rfl) (place_hit b.isLt (place_cons_lt p.isLt (place_cons_lt q.isLt (place_cons_lt (bool_lt k) (place_nil_lt 0) (Nat.le_of_ble_eq_true rfl)) (Nat.le_of_ble_eq_true rfl)) (Nat.le_of_ble_eq_true rfl))))), fld_slotWord ho hf 3 2 (Nat.le_of_ble_eq_true rfl) p (place_skip (Nat.le_of_ble_eq_true rfl) (place_skip (Nat.le_of_ble_eq_true rfl) (place_skip (Nat.le_of_ble_eq_true rfl) (place_hit p.isLt (place_cons_lt q.isLt (place_cons_lt (bool_lt k) (place_nil_lt 0) (Nat.le_of_ble_eq_true rfl)) (Nat.le_of_ble_eq_true rfl)))))), fld_slotWord ho hf 1 2 (Nat.le_of_ble_eq_true rfl) q (place_skip (Nat.le_of_ble_eq_true rfl) (place_skip (Nat.le_of_ble_eq_true rfl) (place_skip (Nat.le_of_ble_eq_true rfl) (place_skip (Nat.le_of_ble_eq_true rfl) (place_hit q.isLt (place_cons_lt (bool_lt k) (place_nil_lt 0) (Nat.le_of_ble_eq_true rfl))))))), flag_slotWord ho hf 0 (Nat.le_of_ble_eq_true rfl) k (place_skip (Nat.le_of_ble_eq_true rfl) (place_skip (Nat.le_of_ble_eq_true rfl) (place_skip (Nat.le_of_ble_eq_true rfl) (place_skip (Nat.le_of_ble_eq_true rfl) (place_skip (Nat.le_of_ble_eq_true rfl) (place_hit (bool_lt k) (place_nil_lt 0)))))))])))

theorem arm_vshl {w : BitVec 32} (hop : opcodeOf w = 0x0F) : decodeV w = accept (true) (.vshl (guardOf w) (fld w 15 5) (fld w 10 5) (fld w 5 5) (fld w 3 2) (fld w 1 2) (flag w 0)) := by
  unfold decodeV
  simp only [hop]

theorem vshl (g : Guard) (d : BitVec 5) (a : BitVec 5) (b : BitVec 5) (p : BitVec 2) (q : BitVec 2) (k : Bool) : Statement (.vshl g d a b p q k) := by
  intro W hW
  obtain rfl : slotWord g 0x0F (place [(d.toNat, 15), (a.toNat, 10), (b.toNat, 5), (p.toNat, 3), (q.toNat, 1), (k.toNat, 0)]) = W := Option.some.inj hW
  have ho : 0x0F < 2 ^ 7 := Nat.le_of_ble_eq_true rfl
  have hf : place [(d.toNat, 15), (a.toNat, 10), (b.toNat, 5), (p.toNat, 3), (q.toNat, 1), (k.toNat, 0)] < 2 ^ 20 := place_cons_lt d.isLt (place_cons_lt a.isLt (place_cons_lt b.isLt (place_cons_lt p.isLt (place_cons_lt q.isLt (place_cons_lt (bool_lt k) (place_nil_lt 0) (Nat.le_of_ble_eq_true rfl)) (Nat.le_of_ble_eq_true rfl)) (Nat.le_of_ble_eq_true rfl)) (Nat.le_of_ble_eq_true rfl)) (Nat.le_of_ble_eq_true rfl)) (Nat.le_of_ble_eq_true rfl)
  have hop := opcodeOf_slotWord (g := g) ho hf
  refine ⟨congrArg some (guardOf_slotWord ho hf).symm, _, rfl, decodeSlot_eq ?_⟩
  exact (decodeRaw_V hop (by decide)).trans ((arm_vshl hop).trans (accept_eq rfl (by rw [guardOf_slotWord ho hf, fld_slotWord ho hf 15 5 (Nat.le_of_ble_eq_true rfl) d (place_hit d.isLt (place_cons_lt a.isLt (place_cons_lt b.isLt (place_cons_lt p.isLt (place_cons_lt q.isLt (place_cons_lt (bool_lt k) (place_nil_lt 0) (Nat.le_of_ble_eq_true rfl)) (Nat.le_of_ble_eq_true rfl)) (Nat.le_of_ble_eq_true rfl)) (Nat.le_of_ble_eq_true rfl)) (Nat.le_of_ble_eq_true rfl))), fld_slotWord ho hf 10 5 (Nat.le_of_ble_eq_true rfl) a (place_skip (Nat.le_of_ble_eq_true rfl) (place_hit a.isLt (place_cons_lt b.isLt (place_cons_lt p.isLt (place_cons_lt q.isLt (place_cons_lt (bool_lt k) (place_nil_lt 0) (Nat.le_of_ble_eq_true rfl)) (Nat.le_of_ble_eq_true rfl)) (Nat.le_of_ble_eq_true rfl)) (Nat.le_of_ble_eq_true rfl)))), fld_slotWord ho hf 5 5 (Nat.le_of_ble_eq_true rfl) b (place_skip (Nat.le_of_ble_eq_true rfl) (place_skip (Nat.le_of_ble_eq_true rfl) (place_hit b.isLt (place_cons_lt p.isLt (place_cons_lt q.isLt (place_cons_lt (bool_lt k) (place_nil_lt 0) (Nat.le_of_ble_eq_true rfl)) (Nat.le_of_ble_eq_true rfl)) (Nat.le_of_ble_eq_true rfl))))), fld_slotWord ho hf 3 2 (Nat.le_of_ble_eq_true rfl) p (place_skip (Nat.le_of_ble_eq_true rfl) (place_skip (Nat.le_of_ble_eq_true rfl) (place_skip (Nat.le_of_ble_eq_true rfl) (place_hit p.isLt (place_cons_lt q.isLt (place_cons_lt (bool_lt k) (place_nil_lt 0) (Nat.le_of_ble_eq_true rfl)) (Nat.le_of_ble_eq_true rfl)))))), fld_slotWord ho hf 1 2 (Nat.le_of_ble_eq_true rfl) q (place_skip (Nat.le_of_ble_eq_true rfl) (place_skip (Nat.le_of_ble_eq_true rfl) (place_skip (Nat.le_of_ble_eq_true rfl) (place_skip (Nat.le_of_ble_eq_true rfl) (place_hit q.isLt (place_cons_lt (bool_lt k) (place_nil_lt 0) (Nat.le_of_ble_eq_true rfl))))))), flag_slotWord ho hf 0 (Nat.le_of_ble_eq_true rfl) k (place_skip (Nat.le_of_ble_eq_true rfl) (place_skip (Nat.le_of_ble_eq_true rfl) (place_skip (Nat.le_of_ble_eq_true rfl) (place_skip (Nat.le_of_ble_eq_true rfl) (place_skip (Nat.le_of_ble_eq_true rfl) (place_hit (bool_lt k) (place_nil_lt 0)))))))])))

theorem arm_vshr {w : BitVec 32} (hop : opcodeOf w = 0x10) : decodeV w = accept (true) (.vshr (guardOf w) (fld w 15 5) (fld w 10 5) (fld w 5 5) (fld w 3 2) (fld w 1 2) (flag w 0)) := by
  unfold decodeV
  simp only [hop]

theorem vshr (g : Guard) (d : BitVec 5) (a : BitVec 5) (b : BitVec 5) (p : BitVec 2) (q : BitVec 2) (k : Bool) : Statement (.vshr g d a b p q k) := by
  intro W hW
  obtain rfl : slotWord g 0x10 (place [(d.toNat, 15), (a.toNat, 10), (b.toNat, 5), (p.toNat, 3), (q.toNat, 1), (k.toNat, 0)]) = W := Option.some.inj hW
  have ho : 0x10 < 2 ^ 7 := Nat.le_of_ble_eq_true rfl
  have hf : place [(d.toNat, 15), (a.toNat, 10), (b.toNat, 5), (p.toNat, 3), (q.toNat, 1), (k.toNat, 0)] < 2 ^ 20 := place_cons_lt d.isLt (place_cons_lt a.isLt (place_cons_lt b.isLt (place_cons_lt p.isLt (place_cons_lt q.isLt (place_cons_lt (bool_lt k) (place_nil_lt 0) (Nat.le_of_ble_eq_true rfl)) (Nat.le_of_ble_eq_true rfl)) (Nat.le_of_ble_eq_true rfl)) (Nat.le_of_ble_eq_true rfl)) (Nat.le_of_ble_eq_true rfl)) (Nat.le_of_ble_eq_true rfl)
  have hop := opcodeOf_slotWord (g := g) ho hf
  refine ⟨congrArg some (guardOf_slotWord ho hf).symm, _, rfl, decodeSlot_eq ?_⟩
  exact (decodeRaw_V hop (by decide)).trans ((arm_vshr hop).trans (accept_eq rfl (by rw [guardOf_slotWord ho hf, fld_slotWord ho hf 15 5 (Nat.le_of_ble_eq_true rfl) d (place_hit d.isLt (place_cons_lt a.isLt (place_cons_lt b.isLt (place_cons_lt p.isLt (place_cons_lt q.isLt (place_cons_lt (bool_lt k) (place_nil_lt 0) (Nat.le_of_ble_eq_true rfl)) (Nat.le_of_ble_eq_true rfl)) (Nat.le_of_ble_eq_true rfl)) (Nat.le_of_ble_eq_true rfl)) (Nat.le_of_ble_eq_true rfl))), fld_slotWord ho hf 10 5 (Nat.le_of_ble_eq_true rfl) a (place_skip (Nat.le_of_ble_eq_true rfl) (place_hit a.isLt (place_cons_lt b.isLt (place_cons_lt p.isLt (place_cons_lt q.isLt (place_cons_lt (bool_lt k) (place_nil_lt 0) (Nat.le_of_ble_eq_true rfl)) (Nat.le_of_ble_eq_true rfl)) (Nat.le_of_ble_eq_true rfl)) (Nat.le_of_ble_eq_true rfl)))), fld_slotWord ho hf 5 5 (Nat.le_of_ble_eq_true rfl) b (place_skip (Nat.le_of_ble_eq_true rfl) (place_skip (Nat.le_of_ble_eq_true rfl) (place_hit b.isLt (place_cons_lt p.isLt (place_cons_lt q.isLt (place_cons_lt (bool_lt k) (place_nil_lt 0) (Nat.le_of_ble_eq_true rfl)) (Nat.le_of_ble_eq_true rfl)) (Nat.le_of_ble_eq_true rfl))))), fld_slotWord ho hf 3 2 (Nat.le_of_ble_eq_true rfl) p (place_skip (Nat.le_of_ble_eq_true rfl) (place_skip (Nat.le_of_ble_eq_true rfl) (place_skip (Nat.le_of_ble_eq_true rfl) (place_hit p.isLt (place_cons_lt q.isLt (place_cons_lt (bool_lt k) (place_nil_lt 0) (Nat.le_of_ble_eq_true rfl)) (Nat.le_of_ble_eq_true rfl)))))), fld_slotWord ho hf 1 2 (Nat.le_of_ble_eq_true rfl) q (place_skip (Nat.le_of_ble_eq_true rfl) (place_skip (Nat.le_of_ble_eq_true rfl) (place_skip (Nat.le_of_ble_eq_true rfl) (place_skip (Nat.le_of_ble_eq_true rfl) (place_hit q.isLt (place_cons_lt (bool_lt k) (place_nil_lt 0) (Nat.le_of_ble_eq_true rfl))))))), flag_slotWord ho hf 0 (Nat.le_of_ble_eq_true rfl) k (place_skip (Nat.le_of_ble_eq_true rfl) (place_skip (Nat.le_of_ble_eq_true rfl) (place_skip (Nat.le_of_ble_eq_true rfl) (place_skip (Nat.le_of_ble_eq_true rfl) (place_skip (Nat.le_of_ble_eq_true rfl) (place_hit (bool_lt k) (place_nil_lt 0)))))))])))

theorem arm_vsra {w : BitVec 32} (hop : opcodeOf w = 0x11) : decodeV w = accept (true) (.vsra (guardOf w) (fld w 15 5) (fld w 10 5) (fld w 5 5) (fld w 3 2) (fld w 1 2) (flag w 0)) := by
  unfold decodeV
  simp only [hop]

theorem vsra (g : Guard) (d : BitVec 5) (a : BitVec 5) (b : BitVec 5) (p : BitVec 2) (q : BitVec 2) (k : Bool) : Statement (.vsra g d a b p q k) := by
  intro W hW
  obtain rfl : slotWord g 0x11 (place [(d.toNat, 15), (a.toNat, 10), (b.toNat, 5), (p.toNat, 3), (q.toNat, 1), (k.toNat, 0)]) = W := Option.some.inj hW
  have ho : 0x11 < 2 ^ 7 := Nat.le_of_ble_eq_true rfl
  have hf : place [(d.toNat, 15), (a.toNat, 10), (b.toNat, 5), (p.toNat, 3), (q.toNat, 1), (k.toNat, 0)] < 2 ^ 20 := place_cons_lt d.isLt (place_cons_lt a.isLt (place_cons_lt b.isLt (place_cons_lt p.isLt (place_cons_lt q.isLt (place_cons_lt (bool_lt k) (place_nil_lt 0) (Nat.le_of_ble_eq_true rfl)) (Nat.le_of_ble_eq_true rfl)) (Nat.le_of_ble_eq_true rfl)) (Nat.le_of_ble_eq_true rfl)) (Nat.le_of_ble_eq_true rfl)) (Nat.le_of_ble_eq_true rfl)
  have hop := opcodeOf_slotWord (g := g) ho hf
  refine ⟨congrArg some (guardOf_slotWord ho hf).symm, _, rfl, decodeSlot_eq ?_⟩
  exact (decodeRaw_V hop (by decide)).trans ((arm_vsra hop).trans (accept_eq rfl (by rw [guardOf_slotWord ho hf, fld_slotWord ho hf 15 5 (Nat.le_of_ble_eq_true rfl) d (place_hit d.isLt (place_cons_lt a.isLt (place_cons_lt b.isLt (place_cons_lt p.isLt (place_cons_lt q.isLt (place_cons_lt (bool_lt k) (place_nil_lt 0) (Nat.le_of_ble_eq_true rfl)) (Nat.le_of_ble_eq_true rfl)) (Nat.le_of_ble_eq_true rfl)) (Nat.le_of_ble_eq_true rfl)) (Nat.le_of_ble_eq_true rfl))), fld_slotWord ho hf 10 5 (Nat.le_of_ble_eq_true rfl) a (place_skip (Nat.le_of_ble_eq_true rfl) (place_hit a.isLt (place_cons_lt b.isLt (place_cons_lt p.isLt (place_cons_lt q.isLt (place_cons_lt (bool_lt k) (place_nil_lt 0) (Nat.le_of_ble_eq_true rfl)) (Nat.le_of_ble_eq_true rfl)) (Nat.le_of_ble_eq_true rfl)) (Nat.le_of_ble_eq_true rfl)))), fld_slotWord ho hf 5 5 (Nat.le_of_ble_eq_true rfl) b (place_skip (Nat.le_of_ble_eq_true rfl) (place_skip (Nat.le_of_ble_eq_true rfl) (place_hit b.isLt (place_cons_lt p.isLt (place_cons_lt q.isLt (place_cons_lt (bool_lt k) (place_nil_lt 0) (Nat.le_of_ble_eq_true rfl)) (Nat.le_of_ble_eq_true rfl)) (Nat.le_of_ble_eq_true rfl))))), fld_slotWord ho hf 3 2 (Nat.le_of_ble_eq_true rfl) p (place_skip (Nat.le_of_ble_eq_true rfl) (place_skip (Nat.le_of_ble_eq_true rfl) (place_skip (Nat.le_of_ble_eq_true rfl) (place_hit p.isLt (place_cons_lt q.isLt (place_cons_lt (bool_lt k) (place_nil_lt 0) (Nat.le_of_ble_eq_true rfl)) (Nat.le_of_ble_eq_true rfl)))))), fld_slotWord ho hf 1 2 (Nat.le_of_ble_eq_true rfl) q (place_skip (Nat.le_of_ble_eq_true rfl) (place_skip (Nat.le_of_ble_eq_true rfl) (place_skip (Nat.le_of_ble_eq_true rfl) (place_skip (Nat.le_of_ble_eq_true rfl) (place_hit q.isLt (place_cons_lt (bool_lt k) (place_nil_lt 0) (Nat.le_of_ble_eq_true rfl))))))), flag_slotWord ho hf 0 (Nat.le_of_ble_eq_true rfl) k (place_skip (Nat.le_of_ble_eq_true rfl) (place_skip (Nat.le_of_ble_eq_true rfl) (place_skip (Nat.le_of_ble_eq_true rfl) (place_skip (Nat.le_of_ble_eq_true rfl) (place_skip (Nat.le_of_ble_eq_true rfl) (place_hit (bool_lt k) (place_nil_lt 0)))))))])))

theorem arm_vcmpEq {w : BitVec 32} (hop : opcodeOf w = 0x12) : decodeV w = accept (holds w 18 2 0) (.vcmpEq (guardOf w) (fld w 15 3) (fld w 10 5) (fld w 5 5) (fld w 3 2) (fld w 1 2) (flag w 0)) := by
  unfold decodeV
  simp only [hop]

theorem vcmpEq (g : Guard) (m : BitVec 3) (a : BitVec 5) (b : BitVec 5) (p : BitVec 2) (q : BitVec 2) (k : Bool) : Statement (.vcmpEq g m a b p q k) := by
  intro W hW
  obtain rfl : slotWord g 0x12 (place [(m.toNat, 15), (a.toNat, 10), (b.toNat, 5), (p.toNat, 3), (q.toNat, 1), (k.toNat, 0)]) = W := Option.some.inj hW
  have ho : 0x12 < 2 ^ 7 := Nat.le_of_ble_eq_true rfl
  have hf : place [(m.toNat, 15), (a.toNat, 10), (b.toNat, 5), (p.toNat, 3), (q.toNat, 1), (k.toNat, 0)] < 2 ^ 20 := place_cons_lt m.isLt (place_cons_lt a.isLt (place_cons_lt b.isLt (place_cons_lt p.isLt (place_cons_lt q.isLt (place_cons_lt (bool_lt k) (place_nil_lt 0) (Nat.le_of_ble_eq_true rfl)) (Nat.le_of_ble_eq_true rfl)) (Nat.le_of_ble_eq_true rfl)) (Nat.le_of_ble_eq_true rfl)) (Nat.le_of_ble_eq_true rfl)) (Nat.le_of_ble_eq_true rfl)
  have hop := opcodeOf_slotWord (g := g) ho hf
  refine ⟨congrArg some (guardOf_slotWord ho hf).symm, _, rfl, decodeSlot_eq ?_⟩
  exact (decodeRaw_V hop (by decide)).trans ((arm_vcmpEq hop).trans (accept_eq (holds_slotWord ho hf 18 2 0 (Nat.le_of_ble_eq_true rfl) (place_zero (place_cons_lt m.isLt (place_cons_lt a.isLt (place_cons_lt b.isLt (place_cons_lt p.isLt (place_cons_lt q.isLt (place_cons_lt (bool_lt k) (place_nil_lt 0) (Nat.le_of_ble_eq_true rfl)) (Nat.le_of_ble_eq_true rfl)) (Nat.le_of_ble_eq_true rfl)) (Nat.le_of_ble_eq_true rfl)) (Nat.le_of_ble_eq_true rfl)) (Nat.le_of_ble_eq_true rfl)))) (by rw [guardOf_slotWord ho hf, fld_slotWord ho hf 15 3 (Nat.le_of_ble_eq_true rfl) m (place_hit m.isLt (place_cons_lt a.isLt (place_cons_lt b.isLt (place_cons_lt p.isLt (place_cons_lt q.isLt (place_cons_lt (bool_lt k) (place_nil_lt 0) (Nat.le_of_ble_eq_true rfl)) (Nat.le_of_ble_eq_true rfl)) (Nat.le_of_ble_eq_true rfl)) (Nat.le_of_ble_eq_true rfl)) (Nat.le_of_ble_eq_true rfl))), fld_slotWord ho hf 10 5 (Nat.le_of_ble_eq_true rfl) a (place_skip (Nat.le_of_ble_eq_true rfl) (place_hit a.isLt (place_cons_lt b.isLt (place_cons_lt p.isLt (place_cons_lt q.isLt (place_cons_lt (bool_lt k) (place_nil_lt 0) (Nat.le_of_ble_eq_true rfl)) (Nat.le_of_ble_eq_true rfl)) (Nat.le_of_ble_eq_true rfl)) (Nat.le_of_ble_eq_true rfl)))), fld_slotWord ho hf 5 5 (Nat.le_of_ble_eq_true rfl) b (place_skip (Nat.le_of_ble_eq_true rfl) (place_skip (Nat.le_of_ble_eq_true rfl) (place_hit b.isLt (place_cons_lt p.isLt (place_cons_lt q.isLt (place_cons_lt (bool_lt k) (place_nil_lt 0) (Nat.le_of_ble_eq_true rfl)) (Nat.le_of_ble_eq_true rfl)) (Nat.le_of_ble_eq_true rfl))))), fld_slotWord ho hf 3 2 (Nat.le_of_ble_eq_true rfl) p (place_skip (Nat.le_of_ble_eq_true rfl) (place_skip (Nat.le_of_ble_eq_true rfl) (place_skip (Nat.le_of_ble_eq_true rfl) (place_hit p.isLt (place_cons_lt q.isLt (place_cons_lt (bool_lt k) (place_nil_lt 0) (Nat.le_of_ble_eq_true rfl)) (Nat.le_of_ble_eq_true rfl)))))), fld_slotWord ho hf 1 2 (Nat.le_of_ble_eq_true rfl) q (place_skip (Nat.le_of_ble_eq_true rfl) (place_skip (Nat.le_of_ble_eq_true rfl) (place_skip (Nat.le_of_ble_eq_true rfl) (place_skip (Nat.le_of_ble_eq_true rfl) (place_hit q.isLt (place_cons_lt (bool_lt k) (place_nil_lt 0) (Nat.le_of_ble_eq_true rfl))))))), flag_slotWord ho hf 0 (Nat.le_of_ble_eq_true rfl) k (place_skip (Nat.le_of_ble_eq_true rfl) (place_skip (Nat.le_of_ble_eq_true rfl) (place_skip (Nat.le_of_ble_eq_true rfl) (place_skip (Nat.le_of_ble_eq_true rfl) (place_skip (Nat.le_of_ble_eq_true rfl) (place_hit (bool_lt k) (place_nil_lt 0)))))))])))

theorem arm_vcmpNe {w : BitVec 32} (hop : opcodeOf w = 0x13) : decodeV w = accept (holds w 18 2 0) (.vcmpNe (guardOf w) (fld w 15 3) (fld w 10 5) (fld w 5 5) (fld w 3 2) (fld w 1 2) (flag w 0)) := by
  unfold decodeV
  simp only [hop]

theorem vcmpNe (g : Guard) (m : BitVec 3) (a : BitVec 5) (b : BitVec 5) (p : BitVec 2) (q : BitVec 2) (k : Bool) : Statement (.vcmpNe g m a b p q k) := by
  intro W hW
  obtain rfl : slotWord g 0x13 (place [(m.toNat, 15), (a.toNat, 10), (b.toNat, 5), (p.toNat, 3), (q.toNat, 1), (k.toNat, 0)]) = W := Option.some.inj hW
  have ho : 0x13 < 2 ^ 7 := Nat.le_of_ble_eq_true rfl
  have hf : place [(m.toNat, 15), (a.toNat, 10), (b.toNat, 5), (p.toNat, 3), (q.toNat, 1), (k.toNat, 0)] < 2 ^ 20 := place_cons_lt m.isLt (place_cons_lt a.isLt (place_cons_lt b.isLt (place_cons_lt p.isLt (place_cons_lt q.isLt (place_cons_lt (bool_lt k) (place_nil_lt 0) (Nat.le_of_ble_eq_true rfl)) (Nat.le_of_ble_eq_true rfl)) (Nat.le_of_ble_eq_true rfl)) (Nat.le_of_ble_eq_true rfl)) (Nat.le_of_ble_eq_true rfl)) (Nat.le_of_ble_eq_true rfl)
  have hop := opcodeOf_slotWord (g := g) ho hf
  refine ⟨congrArg some (guardOf_slotWord ho hf).symm, _, rfl, decodeSlot_eq ?_⟩
  exact (decodeRaw_V hop (by decide)).trans ((arm_vcmpNe hop).trans (accept_eq (holds_slotWord ho hf 18 2 0 (Nat.le_of_ble_eq_true rfl) (place_zero (place_cons_lt m.isLt (place_cons_lt a.isLt (place_cons_lt b.isLt (place_cons_lt p.isLt (place_cons_lt q.isLt (place_cons_lt (bool_lt k) (place_nil_lt 0) (Nat.le_of_ble_eq_true rfl)) (Nat.le_of_ble_eq_true rfl)) (Nat.le_of_ble_eq_true rfl)) (Nat.le_of_ble_eq_true rfl)) (Nat.le_of_ble_eq_true rfl)) (Nat.le_of_ble_eq_true rfl)))) (by rw [guardOf_slotWord ho hf, fld_slotWord ho hf 15 3 (Nat.le_of_ble_eq_true rfl) m (place_hit m.isLt (place_cons_lt a.isLt (place_cons_lt b.isLt (place_cons_lt p.isLt (place_cons_lt q.isLt (place_cons_lt (bool_lt k) (place_nil_lt 0) (Nat.le_of_ble_eq_true rfl)) (Nat.le_of_ble_eq_true rfl)) (Nat.le_of_ble_eq_true rfl)) (Nat.le_of_ble_eq_true rfl)) (Nat.le_of_ble_eq_true rfl))), fld_slotWord ho hf 10 5 (Nat.le_of_ble_eq_true rfl) a (place_skip (Nat.le_of_ble_eq_true rfl) (place_hit a.isLt (place_cons_lt b.isLt (place_cons_lt p.isLt (place_cons_lt q.isLt (place_cons_lt (bool_lt k) (place_nil_lt 0) (Nat.le_of_ble_eq_true rfl)) (Nat.le_of_ble_eq_true rfl)) (Nat.le_of_ble_eq_true rfl)) (Nat.le_of_ble_eq_true rfl)))), fld_slotWord ho hf 5 5 (Nat.le_of_ble_eq_true rfl) b (place_skip (Nat.le_of_ble_eq_true rfl) (place_skip (Nat.le_of_ble_eq_true rfl) (place_hit b.isLt (place_cons_lt p.isLt (place_cons_lt q.isLt (place_cons_lt (bool_lt k) (place_nil_lt 0) (Nat.le_of_ble_eq_true rfl)) (Nat.le_of_ble_eq_true rfl)) (Nat.le_of_ble_eq_true rfl))))), fld_slotWord ho hf 3 2 (Nat.le_of_ble_eq_true rfl) p (place_skip (Nat.le_of_ble_eq_true rfl) (place_skip (Nat.le_of_ble_eq_true rfl) (place_skip (Nat.le_of_ble_eq_true rfl) (place_hit p.isLt (place_cons_lt q.isLt (place_cons_lt (bool_lt k) (place_nil_lt 0) (Nat.le_of_ble_eq_true rfl)) (Nat.le_of_ble_eq_true rfl)))))), fld_slotWord ho hf 1 2 (Nat.le_of_ble_eq_true rfl) q (place_skip (Nat.le_of_ble_eq_true rfl) (place_skip (Nat.le_of_ble_eq_true rfl) (place_skip (Nat.le_of_ble_eq_true rfl) (place_skip (Nat.le_of_ble_eq_true rfl) (place_hit q.isLt (place_cons_lt (bool_lt k) (place_nil_lt 0) (Nat.le_of_ble_eq_true rfl))))))), flag_slotWord ho hf 0 (Nat.le_of_ble_eq_true rfl) k (place_skip (Nat.le_of_ble_eq_true rfl) (place_skip (Nat.le_of_ble_eq_true rfl) (place_skip (Nat.le_of_ble_eq_true rfl) (place_skip (Nat.le_of_ble_eq_true rfl) (place_skip (Nat.le_of_ble_eq_true rfl) (place_hit (bool_lt k) (place_nil_lt 0)))))))])))

theorem arm_vcmpLt {w : BitVec 32} (hop : opcodeOf w = 0x14) : decodeV w = accept (holds w 18 2 0) (.vcmpLt (guardOf w) (fld w 15 3) (fld w 10 5) (fld w 5 5) (fld w 3 2) (fld w 1 2) (flag w 0)) := by
  unfold decodeV
  simp only [hop]

theorem vcmpLt (g : Guard) (m : BitVec 3) (a : BitVec 5) (b : BitVec 5) (p : BitVec 2) (q : BitVec 2) (k : Bool) : Statement (.vcmpLt g m a b p q k) := by
  intro W hW
  obtain rfl : slotWord g 0x14 (place [(m.toNat, 15), (a.toNat, 10), (b.toNat, 5), (p.toNat, 3), (q.toNat, 1), (k.toNat, 0)]) = W := Option.some.inj hW
  have ho : 0x14 < 2 ^ 7 := Nat.le_of_ble_eq_true rfl
  have hf : place [(m.toNat, 15), (a.toNat, 10), (b.toNat, 5), (p.toNat, 3), (q.toNat, 1), (k.toNat, 0)] < 2 ^ 20 := place_cons_lt m.isLt (place_cons_lt a.isLt (place_cons_lt b.isLt (place_cons_lt p.isLt (place_cons_lt q.isLt (place_cons_lt (bool_lt k) (place_nil_lt 0) (Nat.le_of_ble_eq_true rfl)) (Nat.le_of_ble_eq_true rfl)) (Nat.le_of_ble_eq_true rfl)) (Nat.le_of_ble_eq_true rfl)) (Nat.le_of_ble_eq_true rfl)) (Nat.le_of_ble_eq_true rfl)
  have hop := opcodeOf_slotWord (g := g) ho hf
  refine ⟨congrArg some (guardOf_slotWord ho hf).symm, _, rfl, decodeSlot_eq ?_⟩
  exact (decodeRaw_V hop (by decide)).trans ((arm_vcmpLt hop).trans (accept_eq (holds_slotWord ho hf 18 2 0 (Nat.le_of_ble_eq_true rfl) (place_zero (place_cons_lt m.isLt (place_cons_lt a.isLt (place_cons_lt b.isLt (place_cons_lt p.isLt (place_cons_lt q.isLt (place_cons_lt (bool_lt k) (place_nil_lt 0) (Nat.le_of_ble_eq_true rfl)) (Nat.le_of_ble_eq_true rfl)) (Nat.le_of_ble_eq_true rfl)) (Nat.le_of_ble_eq_true rfl)) (Nat.le_of_ble_eq_true rfl)) (Nat.le_of_ble_eq_true rfl)))) (by rw [guardOf_slotWord ho hf, fld_slotWord ho hf 15 3 (Nat.le_of_ble_eq_true rfl) m (place_hit m.isLt (place_cons_lt a.isLt (place_cons_lt b.isLt (place_cons_lt p.isLt (place_cons_lt q.isLt (place_cons_lt (bool_lt k) (place_nil_lt 0) (Nat.le_of_ble_eq_true rfl)) (Nat.le_of_ble_eq_true rfl)) (Nat.le_of_ble_eq_true rfl)) (Nat.le_of_ble_eq_true rfl)) (Nat.le_of_ble_eq_true rfl))), fld_slotWord ho hf 10 5 (Nat.le_of_ble_eq_true rfl) a (place_skip (Nat.le_of_ble_eq_true rfl) (place_hit a.isLt (place_cons_lt b.isLt (place_cons_lt p.isLt (place_cons_lt q.isLt (place_cons_lt (bool_lt k) (place_nil_lt 0) (Nat.le_of_ble_eq_true rfl)) (Nat.le_of_ble_eq_true rfl)) (Nat.le_of_ble_eq_true rfl)) (Nat.le_of_ble_eq_true rfl)))), fld_slotWord ho hf 5 5 (Nat.le_of_ble_eq_true rfl) b (place_skip (Nat.le_of_ble_eq_true rfl) (place_skip (Nat.le_of_ble_eq_true rfl) (place_hit b.isLt (place_cons_lt p.isLt (place_cons_lt q.isLt (place_cons_lt (bool_lt k) (place_nil_lt 0) (Nat.le_of_ble_eq_true rfl)) (Nat.le_of_ble_eq_true rfl)) (Nat.le_of_ble_eq_true rfl))))), fld_slotWord ho hf 3 2 (Nat.le_of_ble_eq_true rfl) p (place_skip (Nat.le_of_ble_eq_true rfl) (place_skip (Nat.le_of_ble_eq_true rfl) (place_skip (Nat.le_of_ble_eq_true rfl) (place_hit p.isLt (place_cons_lt q.isLt (place_cons_lt (bool_lt k) (place_nil_lt 0) (Nat.le_of_ble_eq_true rfl)) (Nat.le_of_ble_eq_true rfl)))))), fld_slotWord ho hf 1 2 (Nat.le_of_ble_eq_true rfl) q (place_skip (Nat.le_of_ble_eq_true rfl) (place_skip (Nat.le_of_ble_eq_true rfl) (place_skip (Nat.le_of_ble_eq_true rfl) (place_skip (Nat.le_of_ble_eq_true rfl) (place_hit q.isLt (place_cons_lt (bool_lt k) (place_nil_lt 0) (Nat.le_of_ble_eq_true rfl))))))), flag_slotWord ho hf 0 (Nat.le_of_ble_eq_true rfl) k (place_skip (Nat.le_of_ble_eq_true rfl) (place_skip (Nat.le_of_ble_eq_true rfl) (place_skip (Nat.le_of_ble_eq_true rfl) (place_skip (Nat.le_of_ble_eq_true rfl) (place_skip (Nat.le_of_ble_eq_true rfl) (place_hit (bool_lt k) (place_nil_lt 0)))))))])))

theorem arm_vcmpLe {w : BitVec 32} (hop : opcodeOf w = 0x15) : decodeV w = accept (holds w 18 2 0) (.vcmpLe (guardOf w) (fld w 15 3) (fld w 10 5) (fld w 5 5) (fld w 3 2) (fld w 1 2) (flag w 0)) := by
  unfold decodeV
  simp only [hop]

theorem vcmpLe (g : Guard) (m : BitVec 3) (a : BitVec 5) (b : BitVec 5) (p : BitVec 2) (q : BitVec 2) (k : Bool) : Statement (.vcmpLe g m a b p q k) := by
  intro W hW
  obtain rfl : slotWord g 0x15 (place [(m.toNat, 15), (a.toNat, 10), (b.toNat, 5), (p.toNat, 3), (q.toNat, 1), (k.toNat, 0)]) = W := Option.some.inj hW
  have ho : 0x15 < 2 ^ 7 := Nat.le_of_ble_eq_true rfl
  have hf : place [(m.toNat, 15), (a.toNat, 10), (b.toNat, 5), (p.toNat, 3), (q.toNat, 1), (k.toNat, 0)] < 2 ^ 20 := place_cons_lt m.isLt (place_cons_lt a.isLt (place_cons_lt b.isLt (place_cons_lt p.isLt (place_cons_lt q.isLt (place_cons_lt (bool_lt k) (place_nil_lt 0) (Nat.le_of_ble_eq_true rfl)) (Nat.le_of_ble_eq_true rfl)) (Nat.le_of_ble_eq_true rfl)) (Nat.le_of_ble_eq_true rfl)) (Nat.le_of_ble_eq_true rfl)) (Nat.le_of_ble_eq_true rfl)
  have hop := opcodeOf_slotWord (g := g) ho hf
  refine ⟨congrArg some (guardOf_slotWord ho hf).symm, _, rfl, decodeSlot_eq ?_⟩
  exact (decodeRaw_V hop (by decide)).trans ((arm_vcmpLe hop).trans (accept_eq (holds_slotWord ho hf 18 2 0 (Nat.le_of_ble_eq_true rfl) (place_zero (place_cons_lt m.isLt (place_cons_lt a.isLt (place_cons_lt b.isLt (place_cons_lt p.isLt (place_cons_lt q.isLt (place_cons_lt (bool_lt k) (place_nil_lt 0) (Nat.le_of_ble_eq_true rfl)) (Nat.le_of_ble_eq_true rfl)) (Nat.le_of_ble_eq_true rfl)) (Nat.le_of_ble_eq_true rfl)) (Nat.le_of_ble_eq_true rfl)) (Nat.le_of_ble_eq_true rfl)))) (by rw [guardOf_slotWord ho hf, fld_slotWord ho hf 15 3 (Nat.le_of_ble_eq_true rfl) m (place_hit m.isLt (place_cons_lt a.isLt (place_cons_lt b.isLt (place_cons_lt p.isLt (place_cons_lt q.isLt (place_cons_lt (bool_lt k) (place_nil_lt 0) (Nat.le_of_ble_eq_true rfl)) (Nat.le_of_ble_eq_true rfl)) (Nat.le_of_ble_eq_true rfl)) (Nat.le_of_ble_eq_true rfl)) (Nat.le_of_ble_eq_true rfl))), fld_slotWord ho hf 10 5 (Nat.le_of_ble_eq_true rfl) a (place_skip (Nat.le_of_ble_eq_true rfl) (place_hit a.isLt (place_cons_lt b.isLt (place_cons_lt p.isLt (place_cons_lt q.isLt (place_cons_lt (bool_lt k) (place_nil_lt 0) (Nat.le_of_ble_eq_true rfl)) (Nat.le_of_ble_eq_true rfl)) (Nat.le_of_ble_eq_true rfl)) (Nat.le_of_ble_eq_true rfl)))), fld_slotWord ho hf 5 5 (Nat.le_of_ble_eq_true rfl) b (place_skip (Nat.le_of_ble_eq_true rfl) (place_skip (Nat.le_of_ble_eq_true rfl) (place_hit b.isLt (place_cons_lt p.isLt (place_cons_lt q.isLt (place_cons_lt (bool_lt k) (place_nil_lt 0) (Nat.le_of_ble_eq_true rfl)) (Nat.le_of_ble_eq_true rfl)) (Nat.le_of_ble_eq_true rfl))))), fld_slotWord ho hf 3 2 (Nat.le_of_ble_eq_true rfl) p (place_skip (Nat.le_of_ble_eq_true rfl) (place_skip (Nat.le_of_ble_eq_true rfl) (place_skip (Nat.le_of_ble_eq_true rfl) (place_hit p.isLt (place_cons_lt q.isLt (place_cons_lt (bool_lt k) (place_nil_lt 0) (Nat.le_of_ble_eq_true rfl)) (Nat.le_of_ble_eq_true rfl)))))), fld_slotWord ho hf 1 2 (Nat.le_of_ble_eq_true rfl) q (place_skip (Nat.le_of_ble_eq_true rfl) (place_skip (Nat.le_of_ble_eq_true rfl) (place_skip (Nat.le_of_ble_eq_true rfl) (place_skip (Nat.le_of_ble_eq_true rfl) (place_hit q.isLt (place_cons_lt (bool_lt k) (place_nil_lt 0) (Nat.le_of_ble_eq_true rfl))))))), flag_slotWord ho hf 0 (Nat.le_of_ble_eq_true rfl) k (place_skip (Nat.le_of_ble_eq_true rfl) (place_skip (Nat.le_of_ble_eq_true rfl) (place_skip (Nat.le_of_ble_eq_true rfl) (place_skip (Nat.le_of_ble_eq_true rfl) (place_skip (Nat.le_of_ble_eq_true rfl) (place_hit (bool_lt k) (place_nil_lt 0)))))))])))

theorem arm_vcmpGt {w : BitVec 32} (hop : opcodeOf w = 0x16) : decodeV w = accept (holds w 18 2 0) (.vcmpGt (guardOf w) (fld w 15 3) (fld w 10 5) (fld w 5 5) (fld w 3 2) (fld w 1 2) (flag w 0)) := by
  unfold decodeV
  simp only [hop]

theorem vcmpGt (g : Guard) (m : BitVec 3) (a : BitVec 5) (b : BitVec 5) (p : BitVec 2) (q : BitVec 2) (k : Bool) : Statement (.vcmpGt g m a b p q k) := by
  intro W hW
  obtain rfl : slotWord g 0x16 (place [(m.toNat, 15), (a.toNat, 10), (b.toNat, 5), (p.toNat, 3), (q.toNat, 1), (k.toNat, 0)]) = W := Option.some.inj hW
  have ho : 0x16 < 2 ^ 7 := Nat.le_of_ble_eq_true rfl
  have hf : place [(m.toNat, 15), (a.toNat, 10), (b.toNat, 5), (p.toNat, 3), (q.toNat, 1), (k.toNat, 0)] < 2 ^ 20 := place_cons_lt m.isLt (place_cons_lt a.isLt (place_cons_lt b.isLt (place_cons_lt p.isLt (place_cons_lt q.isLt (place_cons_lt (bool_lt k) (place_nil_lt 0) (Nat.le_of_ble_eq_true rfl)) (Nat.le_of_ble_eq_true rfl)) (Nat.le_of_ble_eq_true rfl)) (Nat.le_of_ble_eq_true rfl)) (Nat.le_of_ble_eq_true rfl)) (Nat.le_of_ble_eq_true rfl)
  have hop := opcodeOf_slotWord (g := g) ho hf
  refine ⟨congrArg some (guardOf_slotWord ho hf).symm, _, rfl, decodeSlot_eq ?_⟩
  exact (decodeRaw_V hop (by decide)).trans ((arm_vcmpGt hop).trans (accept_eq (holds_slotWord ho hf 18 2 0 (Nat.le_of_ble_eq_true rfl) (place_zero (place_cons_lt m.isLt (place_cons_lt a.isLt (place_cons_lt b.isLt (place_cons_lt p.isLt (place_cons_lt q.isLt (place_cons_lt (bool_lt k) (place_nil_lt 0) (Nat.le_of_ble_eq_true rfl)) (Nat.le_of_ble_eq_true rfl)) (Nat.le_of_ble_eq_true rfl)) (Nat.le_of_ble_eq_true rfl)) (Nat.le_of_ble_eq_true rfl)) (Nat.le_of_ble_eq_true rfl)))) (by rw [guardOf_slotWord ho hf, fld_slotWord ho hf 15 3 (Nat.le_of_ble_eq_true rfl) m (place_hit m.isLt (place_cons_lt a.isLt (place_cons_lt b.isLt (place_cons_lt p.isLt (place_cons_lt q.isLt (place_cons_lt (bool_lt k) (place_nil_lt 0) (Nat.le_of_ble_eq_true rfl)) (Nat.le_of_ble_eq_true rfl)) (Nat.le_of_ble_eq_true rfl)) (Nat.le_of_ble_eq_true rfl)) (Nat.le_of_ble_eq_true rfl))), fld_slotWord ho hf 10 5 (Nat.le_of_ble_eq_true rfl) a (place_skip (Nat.le_of_ble_eq_true rfl) (place_hit a.isLt (place_cons_lt b.isLt (place_cons_lt p.isLt (place_cons_lt q.isLt (place_cons_lt (bool_lt k) (place_nil_lt 0) (Nat.le_of_ble_eq_true rfl)) (Nat.le_of_ble_eq_true rfl)) (Nat.le_of_ble_eq_true rfl)) (Nat.le_of_ble_eq_true rfl)))), fld_slotWord ho hf 5 5 (Nat.le_of_ble_eq_true rfl) b (place_skip (Nat.le_of_ble_eq_true rfl) (place_skip (Nat.le_of_ble_eq_true rfl) (place_hit b.isLt (place_cons_lt p.isLt (place_cons_lt q.isLt (place_cons_lt (bool_lt k) (place_nil_lt 0) (Nat.le_of_ble_eq_true rfl)) (Nat.le_of_ble_eq_true rfl)) (Nat.le_of_ble_eq_true rfl))))), fld_slotWord ho hf 3 2 (Nat.le_of_ble_eq_true rfl) p (place_skip (Nat.le_of_ble_eq_true rfl) (place_skip (Nat.le_of_ble_eq_true rfl) (place_skip (Nat.le_of_ble_eq_true rfl) (place_hit p.isLt (place_cons_lt q.isLt (place_cons_lt (bool_lt k) (place_nil_lt 0) (Nat.le_of_ble_eq_true rfl)) (Nat.le_of_ble_eq_true rfl)))))), fld_slotWord ho hf 1 2 (Nat.le_of_ble_eq_true rfl) q (place_skip (Nat.le_of_ble_eq_true rfl) (place_skip (Nat.le_of_ble_eq_true rfl) (place_skip (Nat.le_of_ble_eq_true rfl) (place_skip (Nat.le_of_ble_eq_true rfl) (place_hit q.isLt (place_cons_lt (bool_lt k) (place_nil_lt 0) (Nat.le_of_ble_eq_true rfl))))))), flag_slotWord ho hf 0 (Nat.le_of_ble_eq_true rfl) k (place_skip (Nat.le_of_ble_eq_true rfl) (place_skip (Nat.le_of_ble_eq_true rfl) (place_skip (Nat.le_of_ble_eq_true rfl) (place_skip (Nat.le_of_ble_eq_true rfl) (place_skip (Nat.le_of_ble_eq_true rfl) (place_hit (bool_lt k) (place_nil_lt 0)))))))])))

theorem arm_vcmpGe {w : BitVec 32} (hop : opcodeOf w = 0x17) : decodeV w = accept (holds w 18 2 0) (.vcmpGe (guardOf w) (fld w 15 3) (fld w 10 5) (fld w 5 5) (fld w 3 2) (fld w 1 2) (flag w 0)) := by
  unfold decodeV
  simp only [hop]

theorem vcmpGe (g : Guard) (m : BitVec 3) (a : BitVec 5) (b : BitVec 5) (p : BitVec 2) (q : BitVec 2) (k : Bool) : Statement (.vcmpGe g m a b p q k) := by
  intro W hW
  obtain rfl : slotWord g 0x17 (place [(m.toNat, 15), (a.toNat, 10), (b.toNat, 5), (p.toNat, 3), (q.toNat, 1), (k.toNat, 0)]) = W := Option.some.inj hW
  have ho : 0x17 < 2 ^ 7 := Nat.le_of_ble_eq_true rfl
  have hf : place [(m.toNat, 15), (a.toNat, 10), (b.toNat, 5), (p.toNat, 3), (q.toNat, 1), (k.toNat, 0)] < 2 ^ 20 := place_cons_lt m.isLt (place_cons_lt a.isLt (place_cons_lt b.isLt (place_cons_lt p.isLt (place_cons_lt q.isLt (place_cons_lt (bool_lt k) (place_nil_lt 0) (Nat.le_of_ble_eq_true rfl)) (Nat.le_of_ble_eq_true rfl)) (Nat.le_of_ble_eq_true rfl)) (Nat.le_of_ble_eq_true rfl)) (Nat.le_of_ble_eq_true rfl)) (Nat.le_of_ble_eq_true rfl)
  have hop := opcodeOf_slotWord (g := g) ho hf
  refine ⟨congrArg some (guardOf_slotWord ho hf).symm, _, rfl, decodeSlot_eq ?_⟩
  exact (decodeRaw_V hop (by decide)).trans ((arm_vcmpGe hop).trans (accept_eq (holds_slotWord ho hf 18 2 0 (Nat.le_of_ble_eq_true rfl) (place_zero (place_cons_lt m.isLt (place_cons_lt a.isLt (place_cons_lt b.isLt (place_cons_lt p.isLt (place_cons_lt q.isLt (place_cons_lt (bool_lt k) (place_nil_lt 0) (Nat.le_of_ble_eq_true rfl)) (Nat.le_of_ble_eq_true rfl)) (Nat.le_of_ble_eq_true rfl)) (Nat.le_of_ble_eq_true rfl)) (Nat.le_of_ble_eq_true rfl)) (Nat.le_of_ble_eq_true rfl)))) (by rw [guardOf_slotWord ho hf, fld_slotWord ho hf 15 3 (Nat.le_of_ble_eq_true rfl) m (place_hit m.isLt (place_cons_lt a.isLt (place_cons_lt b.isLt (place_cons_lt p.isLt (place_cons_lt q.isLt (place_cons_lt (bool_lt k) (place_nil_lt 0) (Nat.le_of_ble_eq_true rfl)) (Nat.le_of_ble_eq_true rfl)) (Nat.le_of_ble_eq_true rfl)) (Nat.le_of_ble_eq_true rfl)) (Nat.le_of_ble_eq_true rfl))), fld_slotWord ho hf 10 5 (Nat.le_of_ble_eq_true rfl) a (place_skip (Nat.le_of_ble_eq_true rfl) (place_hit a.isLt (place_cons_lt b.isLt (place_cons_lt p.isLt (place_cons_lt q.isLt (place_cons_lt (bool_lt k) (place_nil_lt 0) (Nat.le_of_ble_eq_true rfl)) (Nat.le_of_ble_eq_true rfl)) (Nat.le_of_ble_eq_true rfl)) (Nat.le_of_ble_eq_true rfl)))), fld_slotWord ho hf 5 5 (Nat.le_of_ble_eq_true rfl) b (place_skip (Nat.le_of_ble_eq_true rfl) (place_skip (Nat.le_of_ble_eq_true rfl) (place_hit b.isLt (place_cons_lt p.isLt (place_cons_lt q.isLt (place_cons_lt (bool_lt k) (place_nil_lt 0) (Nat.le_of_ble_eq_true rfl)) (Nat.le_of_ble_eq_true rfl)) (Nat.le_of_ble_eq_true rfl))))), fld_slotWord ho hf 3 2 (Nat.le_of_ble_eq_true rfl) p (place_skip (Nat.le_of_ble_eq_true rfl) (place_skip (Nat.le_of_ble_eq_true rfl) (place_skip (Nat.le_of_ble_eq_true rfl) (place_hit p.isLt (place_cons_lt q.isLt (place_cons_lt (bool_lt k) (place_nil_lt 0) (Nat.le_of_ble_eq_true rfl)) (Nat.le_of_ble_eq_true rfl)))))), fld_slotWord ho hf 1 2 (Nat.le_of_ble_eq_true rfl) q (place_skip (Nat.le_of_ble_eq_true rfl) (place_skip (Nat.le_of_ble_eq_true rfl) (place_skip (Nat.le_of_ble_eq_true rfl) (place_skip (Nat.le_of_ble_eq_true rfl) (place_hit q.isLt (place_cons_lt (bool_lt k) (place_nil_lt 0) (Nat.le_of_ble_eq_true rfl))))))), flag_slotWord ho hf 0 (Nat.le_of_ble_eq_true rfl) k (place_skip (Nat.le_of_ble_eq_true rfl) (place_skip (Nat.le_of_ble_eq_true rfl) (place_skip (Nat.le_of_ble_eq_true rfl) (place_skip (Nat.le_of_ble_eq_true rfl) (place_skip (Nat.le_of_ble_eq_true rfl) (place_hit (bool_lt k) (place_nil_lt 0)))))))])))

theorem arm_vsel {w : BitVec 32} (hop : opcodeOf w = 0x18) : decodeV w = accept (holds w 0 1 0) (.vsel (guardOf w) (fld w 15 5) (fld w 10 5) (fld w 5 5) (fld w 3 2) (fld w 1 2)) := by
  unfold decodeV
  simp only [hop]

theorem vsel (g : Guard) (d : BitVec 5) (a : BitVec 5) (b : BitVec 5) (p : BitVec 2) (q : BitVec 2) : Statement (.vsel g d a b p q) := by
  intro W hW
  obtain rfl : slotWord g 0x18 (place [(d.toNat, 15), (a.toNat, 10), (b.toNat, 5), (p.toNat, 3), (q.toNat, 1)]) = W := Option.some.inj hW
  have ho : 0x18 < 2 ^ 7 := Nat.le_of_ble_eq_true rfl
  have hf : place [(d.toNat, 15), (a.toNat, 10), (b.toNat, 5), (p.toNat, 3), (q.toNat, 1)] < 2 ^ 20 := place_cons_lt d.isLt (place_cons_lt a.isLt (place_cons_lt b.isLt (place_cons_lt p.isLt (place_cons_lt q.isLt (place_nil_lt 1) (Nat.le_of_ble_eq_true rfl)) (Nat.le_of_ble_eq_true rfl)) (Nat.le_of_ble_eq_true rfl)) (Nat.le_of_ble_eq_true rfl)) (Nat.le_of_ble_eq_true rfl)
  have hop := opcodeOf_slotWord (g := g) ho hf
  refine ⟨congrArg some (guardOf_slotWord ho hf).symm, _, rfl, decodeSlot_eq ?_⟩
  exact (decodeRaw_V hop (by decide)).trans ((arm_vsel hop).trans (accept_eq (holds_slotWord ho hf 0 1 0 (Nat.le_of_ble_eq_true rfl) (place_skip (Nat.le_of_ble_eq_true rfl) (place_skip (Nat.le_of_ble_eq_true rfl) (place_skip (Nat.le_of_ble_eq_true rfl) (place_skip (Nat.le_of_ble_eq_true rfl) (place_skip (Nat.le_of_ble_eq_true rfl) (place_zero (place_nil_lt 0)))))))) (by rw [guardOf_slotWord ho hf, fld_slotWord ho hf 15 5 (Nat.le_of_ble_eq_true rfl) d (place_hit d.isLt (place_cons_lt a.isLt (place_cons_lt b.isLt (place_cons_lt p.isLt (place_cons_lt q.isLt (place_nil_lt 1) (Nat.le_of_ble_eq_true rfl)) (Nat.le_of_ble_eq_true rfl)) (Nat.le_of_ble_eq_true rfl)) (Nat.le_of_ble_eq_true rfl))), fld_slotWord ho hf 10 5 (Nat.le_of_ble_eq_true rfl) a (place_skip (Nat.le_of_ble_eq_true rfl) (place_hit a.isLt (place_cons_lt b.isLt (place_cons_lt p.isLt (place_cons_lt q.isLt (place_nil_lt 1) (Nat.le_of_ble_eq_true rfl)) (Nat.le_of_ble_eq_true rfl)) (Nat.le_of_ble_eq_true rfl)))), fld_slotWord ho hf 5 5 (Nat.le_of_ble_eq_true rfl) b (place_skip (Nat.le_of_ble_eq_true rfl) (place_skip (Nat.le_of_ble_eq_true rfl) (place_hit b.isLt (place_cons_lt p.isLt (place_cons_lt q.isLt (place_nil_lt 1) (Nat.le_of_ble_eq_true rfl)) (Nat.le_of_ble_eq_true rfl))))), fld_slotWord ho hf 3 2 (Nat.le_of_ble_eq_true rfl) p (place_skip (Nat.le_of_ble_eq_true rfl) (place_skip (Nat.le_of_ble_eq_true rfl) (place_skip (Nat.le_of_ble_eq_true rfl) (place_hit p.isLt (place_cons_lt q.isLt (place_nil_lt 1) (Nat.le_of_ble_eq_true rfl)))))), fld_slotWord ho hf 1 2 (Nat.le_of_ble_eq_true rfl) q (place_skip (Nat.le_of_ble_eq_true rfl) (place_skip (Nat.le_of_ble_eq_true rfl) (place_skip (Nat.le_of_ble_eq_true rfl) (place_skip (Nat.le_of_ble_eq_true rfl) (place_hit q.isLt (place_nil_lt 1))))))])))

theorem arm_vfadd {w : BitVec 32} (hop : opcodeOf w = 0x20) : decodeV w = accept (true) (.vfadd (guardOf w) (fld w 15 5) (fld w 10 5) (fld w 5 5) (fld w 3 2) (fld w 1 2) (flag w 0)) := by
  unfold decodeV
  simp only [hop]

theorem vfadd (g : Guard) (d : BitVec 5) (a : BitVec 5) (b : BitVec 5) (p : BitVec 2) (q : BitVec 2) (k : Bool) : Statement (.vfadd g d a b p q k) := by
  intro W hW
  obtain rfl : slotWord g 0x20 (place [(d.toNat, 15), (a.toNat, 10), (b.toNat, 5), (p.toNat, 3), (q.toNat, 1), (k.toNat, 0)]) = W := Option.some.inj hW
  have ho : 0x20 < 2 ^ 7 := Nat.le_of_ble_eq_true rfl
  have hf : place [(d.toNat, 15), (a.toNat, 10), (b.toNat, 5), (p.toNat, 3), (q.toNat, 1), (k.toNat, 0)] < 2 ^ 20 := place_cons_lt d.isLt (place_cons_lt a.isLt (place_cons_lt b.isLt (place_cons_lt p.isLt (place_cons_lt q.isLt (place_cons_lt (bool_lt k) (place_nil_lt 0) (Nat.le_of_ble_eq_true rfl)) (Nat.le_of_ble_eq_true rfl)) (Nat.le_of_ble_eq_true rfl)) (Nat.le_of_ble_eq_true rfl)) (Nat.le_of_ble_eq_true rfl)) (Nat.le_of_ble_eq_true rfl)
  have hop := opcodeOf_slotWord (g := g) ho hf
  refine ⟨congrArg some (guardOf_slotWord ho hf).symm, _, rfl, decodeSlot_eq ?_⟩
  exact (decodeRaw_V hop (by decide)).trans ((arm_vfadd hop).trans (accept_eq rfl (by rw [guardOf_slotWord ho hf, fld_slotWord ho hf 15 5 (Nat.le_of_ble_eq_true rfl) d (place_hit d.isLt (place_cons_lt a.isLt (place_cons_lt b.isLt (place_cons_lt p.isLt (place_cons_lt q.isLt (place_cons_lt (bool_lt k) (place_nil_lt 0) (Nat.le_of_ble_eq_true rfl)) (Nat.le_of_ble_eq_true rfl)) (Nat.le_of_ble_eq_true rfl)) (Nat.le_of_ble_eq_true rfl)) (Nat.le_of_ble_eq_true rfl))), fld_slotWord ho hf 10 5 (Nat.le_of_ble_eq_true rfl) a (place_skip (Nat.le_of_ble_eq_true rfl) (place_hit a.isLt (place_cons_lt b.isLt (place_cons_lt p.isLt (place_cons_lt q.isLt (place_cons_lt (bool_lt k) (place_nil_lt 0) (Nat.le_of_ble_eq_true rfl)) (Nat.le_of_ble_eq_true rfl)) (Nat.le_of_ble_eq_true rfl)) (Nat.le_of_ble_eq_true rfl)))), fld_slotWord ho hf 5 5 (Nat.le_of_ble_eq_true rfl) b (place_skip (Nat.le_of_ble_eq_true rfl) (place_skip (Nat.le_of_ble_eq_true rfl) (place_hit b.isLt (place_cons_lt p.isLt (place_cons_lt q.isLt (place_cons_lt (bool_lt k) (place_nil_lt 0) (Nat.le_of_ble_eq_true rfl)) (Nat.le_of_ble_eq_true rfl)) (Nat.le_of_ble_eq_true rfl))))), fld_slotWord ho hf 3 2 (Nat.le_of_ble_eq_true rfl) p (place_skip (Nat.le_of_ble_eq_true rfl) (place_skip (Nat.le_of_ble_eq_true rfl) (place_skip (Nat.le_of_ble_eq_true rfl) (place_hit p.isLt (place_cons_lt q.isLt (place_cons_lt (bool_lt k) (place_nil_lt 0) (Nat.le_of_ble_eq_true rfl)) (Nat.le_of_ble_eq_true rfl)))))), fld_slotWord ho hf 1 2 (Nat.le_of_ble_eq_true rfl) q (place_skip (Nat.le_of_ble_eq_true rfl) (place_skip (Nat.le_of_ble_eq_true rfl) (place_skip (Nat.le_of_ble_eq_true rfl) (place_skip (Nat.le_of_ble_eq_true rfl) (place_hit q.isLt (place_cons_lt (bool_lt k) (place_nil_lt 0) (Nat.le_of_ble_eq_true rfl))))))), flag_slotWord ho hf 0 (Nat.le_of_ble_eq_true rfl) k (place_skip (Nat.le_of_ble_eq_true rfl) (place_skip (Nat.le_of_ble_eq_true rfl) (place_skip (Nat.le_of_ble_eq_true rfl) (place_skip (Nat.le_of_ble_eq_true rfl) (place_skip (Nat.le_of_ble_eq_true rfl) (place_hit (bool_lt k) (place_nil_lt 0)))))))])))

theorem arm_vfsub {w : BitVec 32} (hop : opcodeOf w = 0x21) : decodeV w = accept (true) (.vfsub (guardOf w) (fld w 15 5) (fld w 10 5) (fld w 5 5) (fld w 3 2) (fld w 1 2) (flag w 0)) := by
  unfold decodeV
  simp only [hop]

theorem vfsub (g : Guard) (d : BitVec 5) (a : BitVec 5) (b : BitVec 5) (p : BitVec 2) (q : BitVec 2) (k : Bool) : Statement (.vfsub g d a b p q k) := by
  intro W hW
  obtain rfl : slotWord g 0x21 (place [(d.toNat, 15), (a.toNat, 10), (b.toNat, 5), (p.toNat, 3), (q.toNat, 1), (k.toNat, 0)]) = W := Option.some.inj hW
  have ho : 0x21 < 2 ^ 7 := Nat.le_of_ble_eq_true rfl
  have hf : place [(d.toNat, 15), (a.toNat, 10), (b.toNat, 5), (p.toNat, 3), (q.toNat, 1), (k.toNat, 0)] < 2 ^ 20 := place_cons_lt d.isLt (place_cons_lt a.isLt (place_cons_lt b.isLt (place_cons_lt p.isLt (place_cons_lt q.isLt (place_cons_lt (bool_lt k) (place_nil_lt 0) (Nat.le_of_ble_eq_true rfl)) (Nat.le_of_ble_eq_true rfl)) (Nat.le_of_ble_eq_true rfl)) (Nat.le_of_ble_eq_true rfl)) (Nat.le_of_ble_eq_true rfl)) (Nat.le_of_ble_eq_true rfl)
  have hop := opcodeOf_slotWord (g := g) ho hf
  refine ⟨congrArg some (guardOf_slotWord ho hf).symm, _, rfl, decodeSlot_eq ?_⟩
  exact (decodeRaw_V hop (by decide)).trans ((arm_vfsub hop).trans (accept_eq rfl (by rw [guardOf_slotWord ho hf, fld_slotWord ho hf 15 5 (Nat.le_of_ble_eq_true rfl) d (place_hit d.isLt (place_cons_lt a.isLt (place_cons_lt b.isLt (place_cons_lt p.isLt (place_cons_lt q.isLt (place_cons_lt (bool_lt k) (place_nil_lt 0) (Nat.le_of_ble_eq_true rfl)) (Nat.le_of_ble_eq_true rfl)) (Nat.le_of_ble_eq_true rfl)) (Nat.le_of_ble_eq_true rfl)) (Nat.le_of_ble_eq_true rfl))), fld_slotWord ho hf 10 5 (Nat.le_of_ble_eq_true rfl) a (place_skip (Nat.le_of_ble_eq_true rfl) (place_hit a.isLt (place_cons_lt b.isLt (place_cons_lt p.isLt (place_cons_lt q.isLt (place_cons_lt (bool_lt k) (place_nil_lt 0) (Nat.le_of_ble_eq_true rfl)) (Nat.le_of_ble_eq_true rfl)) (Nat.le_of_ble_eq_true rfl)) (Nat.le_of_ble_eq_true rfl)))), fld_slotWord ho hf 5 5 (Nat.le_of_ble_eq_true rfl) b (place_skip (Nat.le_of_ble_eq_true rfl) (place_skip (Nat.le_of_ble_eq_true rfl) (place_hit b.isLt (place_cons_lt p.isLt (place_cons_lt q.isLt (place_cons_lt (bool_lt k) (place_nil_lt 0) (Nat.le_of_ble_eq_true rfl)) (Nat.le_of_ble_eq_true rfl)) (Nat.le_of_ble_eq_true rfl))))), fld_slotWord ho hf 3 2 (Nat.le_of_ble_eq_true rfl) p (place_skip (Nat.le_of_ble_eq_true rfl) (place_skip (Nat.le_of_ble_eq_true rfl) (place_skip (Nat.le_of_ble_eq_true rfl) (place_hit p.isLt (place_cons_lt q.isLt (place_cons_lt (bool_lt k) (place_nil_lt 0) (Nat.le_of_ble_eq_true rfl)) (Nat.le_of_ble_eq_true rfl)))))), fld_slotWord ho hf 1 2 (Nat.le_of_ble_eq_true rfl) q (place_skip (Nat.le_of_ble_eq_true rfl) (place_skip (Nat.le_of_ble_eq_true rfl) (place_skip (Nat.le_of_ble_eq_true rfl) (place_skip (Nat.le_of_ble_eq_true rfl) (place_hit q.isLt (place_cons_lt (bool_lt k) (place_nil_lt 0) (Nat.le_of_ble_eq_true rfl))))))), flag_slotWord ho hf 0 (Nat.le_of_ble_eq_true rfl) k (place_skip (Nat.le_of_ble_eq_true rfl) (place_skip (Nat.le_of_ble_eq_true rfl) (place_skip (Nat.le_of_ble_eq_true rfl) (place_skip (Nat.le_of_ble_eq_true rfl) (place_skip (Nat.le_of_ble_eq_true rfl) (place_hit (bool_lt k) (place_nil_lt 0)))))))])))

theorem arm_vfmul {w : BitVec 32} (hop : opcodeOf w = 0x22) : decodeV w = accept (true) (.vfmul (guardOf w) (fld w 15 5) (fld w 10 5) (fld w 5 5) (fld w 3 2) (fld w 1 2) (flag w 0)) := by
  unfold decodeV
  simp only [hop]

theorem vfmul (g : Guard) (d : BitVec 5) (a : BitVec 5) (b : BitVec 5) (p : BitVec 2) (q : BitVec 2) (k : Bool) : Statement (.vfmul g d a b p q k) := by
  intro W hW
  obtain rfl : slotWord g 0x22 (place [(d.toNat, 15), (a.toNat, 10), (b.toNat, 5), (p.toNat, 3), (q.toNat, 1), (k.toNat, 0)]) = W := Option.some.inj hW
  have ho : 0x22 < 2 ^ 7 := Nat.le_of_ble_eq_true rfl
  have hf : place [(d.toNat, 15), (a.toNat, 10), (b.toNat, 5), (p.toNat, 3), (q.toNat, 1), (k.toNat, 0)] < 2 ^ 20 := place_cons_lt d.isLt (place_cons_lt a.isLt (place_cons_lt b.isLt (place_cons_lt p.isLt (place_cons_lt q.isLt (place_cons_lt (bool_lt k) (place_nil_lt 0) (Nat.le_of_ble_eq_true rfl)) (Nat.le_of_ble_eq_true rfl)) (Nat.le_of_ble_eq_true rfl)) (Nat.le_of_ble_eq_true rfl)) (Nat.le_of_ble_eq_true rfl)) (Nat.le_of_ble_eq_true rfl)
  have hop := opcodeOf_slotWord (g := g) ho hf
  refine ⟨congrArg some (guardOf_slotWord ho hf).symm, _, rfl, decodeSlot_eq ?_⟩
  exact (decodeRaw_V hop (by decide)).trans ((arm_vfmul hop).trans (accept_eq rfl (by rw [guardOf_slotWord ho hf, fld_slotWord ho hf 15 5 (Nat.le_of_ble_eq_true rfl) d (place_hit d.isLt (place_cons_lt a.isLt (place_cons_lt b.isLt (place_cons_lt p.isLt (place_cons_lt q.isLt (place_cons_lt (bool_lt k) (place_nil_lt 0) (Nat.le_of_ble_eq_true rfl)) (Nat.le_of_ble_eq_true rfl)) (Nat.le_of_ble_eq_true rfl)) (Nat.le_of_ble_eq_true rfl)) (Nat.le_of_ble_eq_true rfl))), fld_slotWord ho hf 10 5 (Nat.le_of_ble_eq_true rfl) a (place_skip (Nat.le_of_ble_eq_true rfl) (place_hit a.isLt (place_cons_lt b.isLt (place_cons_lt p.isLt (place_cons_lt q.isLt (place_cons_lt (bool_lt k) (place_nil_lt 0) (Nat.le_of_ble_eq_true rfl)) (Nat.le_of_ble_eq_true rfl)) (Nat.le_of_ble_eq_true rfl)) (Nat.le_of_ble_eq_true rfl)))), fld_slotWord ho hf 5 5 (Nat.le_of_ble_eq_true rfl) b (place_skip (Nat.le_of_ble_eq_true rfl) (place_skip (Nat.le_of_ble_eq_true rfl) (place_hit b.isLt (place_cons_lt p.isLt (place_cons_lt q.isLt (place_cons_lt (bool_lt k) (place_nil_lt 0) (Nat.le_of_ble_eq_true rfl)) (Nat.le_of_ble_eq_true rfl)) (Nat.le_of_ble_eq_true rfl))))), fld_slotWord ho hf 3 2 (Nat.le_of_ble_eq_true rfl) p (place_skip (Nat.le_of_ble_eq_true rfl) (place_skip (Nat.le_of_ble_eq_true rfl) (place_skip (Nat.le_of_ble_eq_true rfl) (place_hit p.isLt (place_cons_lt q.isLt (place_cons_lt (bool_lt k) (place_nil_lt 0) (Nat.le_of_ble_eq_true rfl)) (Nat.le_of_ble_eq_true rfl)))))), fld_slotWord ho hf 1 2 (Nat.le_of_ble_eq_true rfl) q (place_skip (Nat.le_of_ble_eq_true rfl) (place_skip (Nat.le_of_ble_eq_true rfl) (place_skip (Nat.le_of_ble_eq_true rfl) (place_skip (Nat.le_of_ble_eq_true rfl) (place_hit q.isLt (place_cons_lt (bool_lt k) (place_nil_lt 0) (Nat.le_of_ble_eq_true rfl))))))), flag_slotWord ho hf 0 (Nat.le_of_ble_eq_true rfl) k (place_skip (Nat.le_of_ble_eq_true rfl) (place_skip (Nat.le_of_ble_eq_true rfl) (place_skip (Nat.le_of_ble_eq_true rfl) (place_skip (Nat.le_of_ble_eq_true rfl) (place_skip (Nat.le_of_ble_eq_true rfl) (place_hit (bool_lt k) (place_nil_lt 0)))))))])))

theorem arm_vffma {w : BitVec 32} (hop : opcodeOf w = 0x23) : decodeV w = accept (true) (.vffma (guardOf w) (fld w 15 5) (fld w 10 5) (fld w 5 5) (fld w 3 2) (fld w 1 2) (flag w 0)) := by
  unfold decodeV
  simp only [hop]

theorem vffma (g : Guard) (d : BitVec 5) (a : BitVec 5) (b : BitVec 5) (p : BitVec 2) (q : BitVec 2) (k : Bool) : Statement (.vffma g d a b p q k) := by
  intro W hW
  obtain rfl : slotWord g 0x23 (place [(d.toNat, 15), (a.toNat, 10), (b.toNat, 5), (p.toNat, 3), (q.toNat, 1), (k.toNat, 0)]) = W := Option.some.inj hW
  have ho : 0x23 < 2 ^ 7 := Nat.le_of_ble_eq_true rfl
  have hf : place [(d.toNat, 15), (a.toNat, 10), (b.toNat, 5), (p.toNat, 3), (q.toNat, 1), (k.toNat, 0)] < 2 ^ 20 := place_cons_lt d.isLt (place_cons_lt a.isLt (place_cons_lt b.isLt (place_cons_lt p.isLt (place_cons_lt q.isLt (place_cons_lt (bool_lt k) (place_nil_lt 0) (Nat.le_of_ble_eq_true rfl)) (Nat.le_of_ble_eq_true rfl)) (Nat.le_of_ble_eq_true rfl)) (Nat.le_of_ble_eq_true rfl)) (Nat.le_of_ble_eq_true rfl)) (Nat.le_of_ble_eq_true rfl)
  have hop := opcodeOf_slotWord (g := g) ho hf
  refine ⟨congrArg some (guardOf_slotWord ho hf).symm, _, rfl, decodeSlot_eq ?_⟩
  exact (decodeRaw_V hop (by decide)).trans ((arm_vffma hop).trans (accept_eq rfl (by rw [guardOf_slotWord ho hf, fld_slotWord ho hf 15 5 (Nat.le_of_ble_eq_true rfl) d (place_hit d.isLt (place_cons_lt a.isLt (place_cons_lt b.isLt (place_cons_lt p.isLt (place_cons_lt q.isLt (place_cons_lt (bool_lt k) (place_nil_lt 0) (Nat.le_of_ble_eq_true rfl)) (Nat.le_of_ble_eq_true rfl)) (Nat.le_of_ble_eq_true rfl)) (Nat.le_of_ble_eq_true rfl)) (Nat.le_of_ble_eq_true rfl))), fld_slotWord ho hf 10 5 (Nat.le_of_ble_eq_true rfl) a (place_skip (Nat.le_of_ble_eq_true rfl) (place_hit a.isLt (place_cons_lt b.isLt (place_cons_lt p.isLt (place_cons_lt q.isLt (place_cons_lt (bool_lt k) (place_nil_lt 0) (Nat.le_of_ble_eq_true rfl)) (Nat.le_of_ble_eq_true rfl)) (Nat.le_of_ble_eq_true rfl)) (Nat.le_of_ble_eq_true rfl)))), fld_slotWord ho hf 5 5 (Nat.le_of_ble_eq_true rfl) b (place_skip (Nat.le_of_ble_eq_true rfl) (place_skip (Nat.le_of_ble_eq_true rfl) (place_hit b.isLt (place_cons_lt p.isLt (place_cons_lt q.isLt (place_cons_lt (bool_lt k) (place_nil_lt 0) (Nat.le_of_ble_eq_true rfl)) (Nat.le_of_ble_eq_true rfl)) (Nat.le_of_ble_eq_true rfl))))), fld_slotWord ho hf 3 2 (Nat.le_of_ble_eq_true rfl) p (place_skip (Nat.le_of_ble_eq_true rfl) (place_skip (Nat.le_of_ble_eq_true rfl) (place_skip (Nat.le_of_ble_eq_true rfl) (place_hit p.isLt (place_cons_lt q.isLt (place_cons_lt (bool_lt k) (place_nil_lt 0) (Nat.le_of_ble_eq_true rfl)) (Nat.le_of_ble_eq_true rfl)))))), fld_slotWord ho hf 1 2 (Nat.le_of_ble_eq_true rfl) q (place_skip (Nat.le_of_ble_eq_true rfl) (place_skip (Nat.le_of_ble_eq_true rfl) (place_skip (Nat.le_of_ble_eq_true rfl) (place_skip (Nat.le_of_ble_eq_true rfl) (place_hit q.isLt (place_cons_lt (bool_lt k) (place_nil_lt 0) (Nat.le_of_ble_eq_true rfl))))))), flag_slotWord ho hf 0 (Nat.le_of_ble_eq_true rfl) k (place_skip (Nat.le_of_ble_eq_true rfl) (place_skip (Nat.le_of_ble_eq_true rfl) (place_skip (Nat.le_of_ble_eq_true rfl) (place_skip (Nat.le_of_ble_eq_true rfl) (place_skip (Nat.le_of_ble_eq_true rfl) (place_hit (bool_lt k) (place_nil_lt 0)))))))])))

theorem arm_vffms {w : BitVec 32} (hop : opcodeOf w = 0x24) : decodeV w = accept (true) (.vffms (guardOf w) (fld w 15 5) (fld w 10 5) (fld w 5 5) (fld w 3 2) (fld w 1 2) (flag w 0)) := by
  unfold decodeV
  simp only [hop]

theorem vffms (g : Guard) (d : BitVec 5) (a : BitVec 5) (b : BitVec 5) (p : BitVec 2) (q : BitVec 2) (k : Bool) : Statement (.vffms g d a b p q k) := by
  intro W hW
  obtain rfl : slotWord g 0x24 (place [(d.toNat, 15), (a.toNat, 10), (b.toNat, 5), (p.toNat, 3), (q.toNat, 1), (k.toNat, 0)]) = W := Option.some.inj hW
  have ho : 0x24 < 2 ^ 7 := Nat.le_of_ble_eq_true rfl
  have hf : place [(d.toNat, 15), (a.toNat, 10), (b.toNat, 5), (p.toNat, 3), (q.toNat, 1), (k.toNat, 0)] < 2 ^ 20 := place_cons_lt d.isLt (place_cons_lt a.isLt (place_cons_lt b.isLt (place_cons_lt p.isLt (place_cons_lt q.isLt (place_cons_lt (bool_lt k) (place_nil_lt 0) (Nat.le_of_ble_eq_true rfl)) (Nat.le_of_ble_eq_true rfl)) (Nat.le_of_ble_eq_true rfl)) (Nat.le_of_ble_eq_true rfl)) (Nat.le_of_ble_eq_true rfl)) (Nat.le_of_ble_eq_true rfl)
  have hop := opcodeOf_slotWord (g := g) ho hf
  refine ⟨congrArg some (guardOf_slotWord ho hf).symm, _, rfl, decodeSlot_eq ?_⟩
  exact (decodeRaw_V hop (by decide)).trans ((arm_vffms hop).trans (accept_eq rfl (by rw [guardOf_slotWord ho hf, fld_slotWord ho hf 15 5 (Nat.le_of_ble_eq_true rfl) d (place_hit d.isLt (place_cons_lt a.isLt (place_cons_lt b.isLt (place_cons_lt p.isLt (place_cons_lt q.isLt (place_cons_lt (bool_lt k) (place_nil_lt 0) (Nat.le_of_ble_eq_true rfl)) (Nat.le_of_ble_eq_true rfl)) (Nat.le_of_ble_eq_true rfl)) (Nat.le_of_ble_eq_true rfl)) (Nat.le_of_ble_eq_true rfl))), fld_slotWord ho hf 10 5 (Nat.le_of_ble_eq_true rfl) a (place_skip (Nat.le_of_ble_eq_true rfl) (place_hit a.isLt (place_cons_lt b.isLt (place_cons_lt p.isLt (place_cons_lt q.isLt (place_cons_lt (bool_lt k) (place_nil_lt 0) (Nat.le_of_ble_eq_true rfl)) (Nat.le_of_ble_eq_true rfl)) (Nat.le_of_ble_eq_true rfl)) (Nat.le_of_ble_eq_true rfl)))), fld_slotWord ho hf 5 5 (Nat.le_of_ble_eq_true rfl) b (place_skip (Nat.le_of_ble_eq_true rfl) (place_skip (Nat.le_of_ble_eq_true rfl) (place_hit b.isLt (place_cons_lt p.isLt (place_cons_lt q.isLt (place_cons_lt (bool_lt k) (place_nil_lt 0) (Nat.le_of_ble_eq_true rfl)) (Nat.le_of_ble_eq_true rfl)) (Nat.le_of_ble_eq_true rfl))))), fld_slotWord ho hf 3 2 (Nat.le_of_ble_eq_true rfl) p (place_skip (Nat.le_of_ble_eq_true rfl) (place_skip (Nat.le_of_ble_eq_true rfl) (place_skip (Nat.le_of_ble_eq_true rfl) (place_hit p.isLt (place_cons_lt q.isLt (place_cons_lt (bool_lt k) (place_nil_lt 0) (Nat.le_of_ble_eq_true rfl)) (Nat.le_of_ble_eq_true rfl)))))), fld_slotWord ho hf 1 2 (Nat.le_of_ble_eq_true rfl) q (place_skip (Nat.le_of_ble_eq_true rfl) (place_skip (Nat.le_of_ble_eq_true rfl) (place_skip (Nat.le_of_ble_eq_true rfl) (place_skip (Nat.le_of_ble_eq_true rfl) (place_hit q.isLt (place_cons_lt (bool_lt k) (place_nil_lt 0) (Nat.le_of_ble_eq_true rfl))))))), flag_slotWord ho hf 0 (Nat.le_of_ble_eq_true rfl) k (place_skip (Nat.le_of_ble_eq_true rfl) (place_skip (Nat.le_of_ble_eq_true rfl) (place_skip (Nat.le_of_ble_eq_true rfl) (place_skip (Nat.le_of_ble_eq_true rfl) (place_skip (Nat.le_of_ble_eq_true rfl) (place_hit (bool_lt k) (place_nil_lt 0)))))))])))

theorem arm_vfnma {w : BitVec 32} (hop : opcodeOf w = 0x25) : decodeV w = accept (true) (.vfnma (guardOf w) (fld w 15 5) (fld w 10 5) (fld w 5 5) (fld w 3 2) (fld w 1 2) (flag w 0)) := by
  unfold decodeV
  simp only [hop]

theorem vfnma (g : Guard) (d : BitVec 5) (a : BitVec 5) (b : BitVec 5) (p : BitVec 2) (q : BitVec 2) (k : Bool) : Statement (.vfnma g d a b p q k) := by
  intro W hW
  obtain rfl : slotWord g 0x25 (place [(d.toNat, 15), (a.toNat, 10), (b.toNat, 5), (p.toNat, 3), (q.toNat, 1), (k.toNat, 0)]) = W := Option.some.inj hW
  have ho : 0x25 < 2 ^ 7 := Nat.le_of_ble_eq_true rfl
  have hf : place [(d.toNat, 15), (a.toNat, 10), (b.toNat, 5), (p.toNat, 3), (q.toNat, 1), (k.toNat, 0)] < 2 ^ 20 := place_cons_lt d.isLt (place_cons_lt a.isLt (place_cons_lt b.isLt (place_cons_lt p.isLt (place_cons_lt q.isLt (place_cons_lt (bool_lt k) (place_nil_lt 0) (Nat.le_of_ble_eq_true rfl)) (Nat.le_of_ble_eq_true rfl)) (Nat.le_of_ble_eq_true rfl)) (Nat.le_of_ble_eq_true rfl)) (Nat.le_of_ble_eq_true rfl)) (Nat.le_of_ble_eq_true rfl)
  have hop := opcodeOf_slotWord (g := g) ho hf
  refine ⟨congrArg some (guardOf_slotWord ho hf).symm, _, rfl, decodeSlot_eq ?_⟩
  exact (decodeRaw_V hop (by decide)).trans ((arm_vfnma hop).trans (accept_eq rfl (by rw [guardOf_slotWord ho hf, fld_slotWord ho hf 15 5 (Nat.le_of_ble_eq_true rfl) d (place_hit d.isLt (place_cons_lt a.isLt (place_cons_lt b.isLt (place_cons_lt p.isLt (place_cons_lt q.isLt (place_cons_lt (bool_lt k) (place_nil_lt 0) (Nat.le_of_ble_eq_true rfl)) (Nat.le_of_ble_eq_true rfl)) (Nat.le_of_ble_eq_true rfl)) (Nat.le_of_ble_eq_true rfl)) (Nat.le_of_ble_eq_true rfl))), fld_slotWord ho hf 10 5 (Nat.le_of_ble_eq_true rfl) a (place_skip (Nat.le_of_ble_eq_true rfl) (place_hit a.isLt (place_cons_lt b.isLt (place_cons_lt p.isLt (place_cons_lt q.isLt (place_cons_lt (bool_lt k) (place_nil_lt 0) (Nat.le_of_ble_eq_true rfl)) (Nat.le_of_ble_eq_true rfl)) (Nat.le_of_ble_eq_true rfl)) (Nat.le_of_ble_eq_true rfl)))), fld_slotWord ho hf 5 5 (Nat.le_of_ble_eq_true rfl) b (place_skip (Nat.le_of_ble_eq_true rfl) (place_skip (Nat.le_of_ble_eq_true rfl) (place_hit b.isLt (place_cons_lt p.isLt (place_cons_lt q.isLt (place_cons_lt (bool_lt k) (place_nil_lt 0) (Nat.le_of_ble_eq_true rfl)) (Nat.le_of_ble_eq_true rfl)) (Nat.le_of_ble_eq_true rfl))))), fld_slotWord ho hf 3 2 (Nat.le_of_ble_eq_true rfl) p (place_skip (Nat.le_of_ble_eq_true rfl) (place_skip (Nat.le_of_ble_eq_true rfl) (place_skip (Nat.le_of_ble_eq_true rfl) (place_hit p.isLt (place_cons_lt q.isLt (place_cons_lt (bool_lt k) (place_nil_lt 0) (Nat.le_of_ble_eq_true rfl)) (Nat.le_of_ble_eq_true rfl)))))), fld_slotWord ho hf 1 2 (Nat.le_of_ble_eq_true rfl) q (place_skip (Nat.le_of_ble_eq_true rfl) (place_skip (Nat.le_of_ble_eq_true rfl) (place_skip (Nat.le_of_ble_eq_true rfl) (place_skip (Nat.le_of_ble_eq_true rfl) (place_hit q.isLt (place_cons_lt (bool_lt k) (place_nil_lt 0) (Nat.le_of_ble_eq_true rfl))))))), flag_slotWord ho hf 0 (Nat.le_of_ble_eq_true rfl) k (place_skip (Nat.le_of_ble_eq_true rfl) (place_skip (Nat.le_of_ble_eq_true rfl) (place_skip (Nat.le_of_ble_eq_true rfl) (place_skip (Nat.le_of_ble_eq_true rfl) (place_skip (Nat.le_of_ble_eq_true rfl) (place_hit (bool_lt k) (place_nil_lt 0)))))))])))

theorem arm_vfmin {w : BitVec 32} (hop : opcodeOf w = 0x26) : decodeV w = accept (true) (.vfmin (guardOf w) (fld w 15 5) (fld w 10 5) (fld w 5 5) (fld w 3 2) (fld w 1 2) (flag w 0)) := by
  unfold decodeV
  simp only [hop]

theorem vfmin (g : Guard) (d : BitVec 5) (a : BitVec 5) (b : BitVec 5) (p : BitVec 2) (q : BitVec 2) (k : Bool) : Statement (.vfmin g d a b p q k) := by
  intro W hW
  obtain rfl : slotWord g 0x26 (place [(d.toNat, 15), (a.toNat, 10), (b.toNat, 5), (p.toNat, 3), (q.toNat, 1), (k.toNat, 0)]) = W := Option.some.inj hW
  have ho : 0x26 < 2 ^ 7 := Nat.le_of_ble_eq_true rfl
  have hf : place [(d.toNat, 15), (a.toNat, 10), (b.toNat, 5), (p.toNat, 3), (q.toNat, 1), (k.toNat, 0)] < 2 ^ 20 := place_cons_lt d.isLt (place_cons_lt a.isLt (place_cons_lt b.isLt (place_cons_lt p.isLt (place_cons_lt q.isLt (place_cons_lt (bool_lt k) (place_nil_lt 0) (Nat.le_of_ble_eq_true rfl)) (Nat.le_of_ble_eq_true rfl)) (Nat.le_of_ble_eq_true rfl)) (Nat.le_of_ble_eq_true rfl)) (Nat.le_of_ble_eq_true rfl)) (Nat.le_of_ble_eq_true rfl)
  have hop := opcodeOf_slotWord (g := g) ho hf
  refine ⟨congrArg some (guardOf_slotWord ho hf).symm, _, rfl, decodeSlot_eq ?_⟩
  exact (decodeRaw_V hop (by decide)).trans ((arm_vfmin hop).trans (accept_eq rfl (by rw [guardOf_slotWord ho hf, fld_slotWord ho hf 15 5 (Nat.le_of_ble_eq_true rfl) d (place_hit d.isLt (place_cons_lt a.isLt (place_cons_lt b.isLt (place_cons_lt p.isLt (place_cons_lt q.isLt (place_cons_lt (bool_lt k) (place_nil_lt 0) (Nat.le_of_ble_eq_true rfl)) (Nat.le_of_ble_eq_true rfl)) (Nat.le_of_ble_eq_true rfl)) (Nat.le_of_ble_eq_true rfl)) (Nat.le_of_ble_eq_true rfl))), fld_slotWord ho hf 10 5 (Nat.le_of_ble_eq_true rfl) a (place_skip (Nat.le_of_ble_eq_true rfl) (place_hit a.isLt (place_cons_lt b.isLt (place_cons_lt p.isLt (place_cons_lt q.isLt (place_cons_lt (bool_lt k) (place_nil_lt 0) (Nat.le_of_ble_eq_true rfl)) (Nat.le_of_ble_eq_true rfl)) (Nat.le_of_ble_eq_true rfl)) (Nat.le_of_ble_eq_true rfl)))), fld_slotWord ho hf 5 5 (Nat.le_of_ble_eq_true rfl) b (place_skip (Nat.le_of_ble_eq_true rfl) (place_skip (Nat.le_of_ble_eq_true rfl) (place_hit b.isLt (place_cons_lt p.isLt (place_cons_lt q.isLt (place_cons_lt (bool_lt k) (place_nil_lt 0) (Nat.le_of_ble_eq_true rfl)) (Nat.le_of_ble_eq_true rfl)) (Nat.le_of_ble_eq_true rfl))))), fld_slotWord ho hf 3 2 (Nat.le_of_ble_eq_true rfl) p (place_skip (Nat.le_of_ble_eq_true rfl) (place_skip (Nat.le_of_ble_eq_true rfl) (place_skip (Nat.le_of_ble_eq_true rfl) (place_hit p.isLt (place_cons_lt q.isLt (place_cons_lt (bool_lt k) (place_nil_lt 0) (Nat.le_of_ble_eq_true rfl)) (Nat.le_of_ble_eq_true rfl)))))), fld_slotWord ho hf 1 2 (Nat.le_of_ble_eq_true rfl) q (place_skip (Nat.le_of_ble_eq_true rfl) (place_skip (Nat.le_of_ble_eq_true rfl) (place_skip (Nat.le_of_ble_eq_true rfl) (place_skip (Nat.le_of_ble_eq_true rfl) (place_hit q.isLt (place_cons_lt (bool_lt k) (place_nil_lt 0) (Nat.le_of_ble_eq_true rfl))))))), flag_slotWord ho hf 0 (Nat.le_of_ble_eq_true rfl) k (place_skip (Nat.le_of_ble_eq_true rfl) (place_skip (Nat.le_of_ble_eq_true rfl) (place_skip (Nat.le_of_ble_eq_true rfl) (place_skip (Nat.le_of_ble_eq_true rfl) (place_skip (Nat.le_of_ble_eq_true rfl) (place_hit (bool_lt k) (place_nil_lt 0)))))))])))

theorem arm_vfmax {w : BitVec 32} (hop : opcodeOf w = 0x27) : decodeV w = accept (true) (.vfmax (guardOf w) (fld w 15 5) (fld w 10 5) (fld w 5 5) (fld w 3 2) (fld w 1 2) (flag w 0)) := by
  unfold decodeV
  simp only [hop]

theorem vfmax (g : Guard) (d : BitVec 5) (a : BitVec 5) (b : BitVec 5) (p : BitVec 2) (q : BitVec 2) (k : Bool) : Statement (.vfmax g d a b p q k) := by
  intro W hW
  obtain rfl : slotWord g 0x27 (place [(d.toNat, 15), (a.toNat, 10), (b.toNat, 5), (p.toNat, 3), (q.toNat, 1), (k.toNat, 0)]) = W := Option.some.inj hW
  have ho : 0x27 < 2 ^ 7 := Nat.le_of_ble_eq_true rfl
  have hf : place [(d.toNat, 15), (a.toNat, 10), (b.toNat, 5), (p.toNat, 3), (q.toNat, 1), (k.toNat, 0)] < 2 ^ 20 := place_cons_lt d.isLt (place_cons_lt a.isLt (place_cons_lt b.isLt (place_cons_lt p.isLt (place_cons_lt q.isLt (place_cons_lt (bool_lt k) (place_nil_lt 0) (Nat.le_of_ble_eq_true rfl)) (Nat.le_of_ble_eq_true rfl)) (Nat.le_of_ble_eq_true rfl)) (Nat.le_of_ble_eq_true rfl)) (Nat.le_of_ble_eq_true rfl)) (Nat.le_of_ble_eq_true rfl)
  have hop := opcodeOf_slotWord (g := g) ho hf
  refine ⟨congrArg some (guardOf_slotWord ho hf).symm, _, rfl, decodeSlot_eq ?_⟩
  exact (decodeRaw_V hop (by decide)).trans ((arm_vfmax hop).trans (accept_eq rfl (by rw [guardOf_slotWord ho hf, fld_slotWord ho hf 15 5 (Nat.le_of_ble_eq_true rfl) d (place_hit d.isLt (place_cons_lt a.isLt (place_cons_lt b.isLt (place_cons_lt p.isLt (place_cons_lt q.isLt (place_cons_lt (bool_lt k) (place_nil_lt 0) (Nat.le_of_ble_eq_true rfl)) (Nat.le_of_ble_eq_true rfl)) (Nat.le_of_ble_eq_true rfl)) (Nat.le_of_ble_eq_true rfl)) (Nat.le_of_ble_eq_true rfl))), fld_slotWord ho hf 10 5 (Nat.le_of_ble_eq_true rfl) a (place_skip (Nat.le_of_ble_eq_true rfl) (place_hit a.isLt (place_cons_lt b.isLt (place_cons_lt p.isLt (place_cons_lt q.isLt (place_cons_lt (bool_lt k) (place_nil_lt 0) (Nat.le_of_ble_eq_true rfl)) (Nat.le_of_ble_eq_true rfl)) (Nat.le_of_ble_eq_true rfl)) (Nat.le_of_ble_eq_true rfl)))), fld_slotWord ho hf 5 5 (Nat.le_of_ble_eq_true rfl) b (place_skip (Nat.le_of_ble_eq_true rfl) (place_skip (Nat.le_of_ble_eq_true rfl) (place_hit b.isLt (place_cons_lt p.isLt (place_cons_lt q.isLt (place_cons_lt (bool_lt k) (place_nil_lt 0) (Nat.le_of_ble_eq_true rfl)) (Nat.le_of_ble_eq_true rfl)) (Nat.le_of_ble_eq_true rfl))))), fld_slotWord ho hf 3 2 (Nat.le_of_ble_eq_true rfl) p (place_skip (Nat.le_of_ble_eq_true rfl) (place_skip (Nat.le_of_ble_eq_true rfl) (place_skip (Nat.le_of_ble_eq_true rfl) (place_hit p.isLt (place_cons_lt q.isLt (place_cons_lt (bool_lt k) (place_nil_lt 0) (Nat.le_of_ble_eq_true rfl)) (Nat.le_of_ble_eq_true rfl)))))), fld_slotWord ho hf 1 2 (Nat.le_of_ble_eq_true rfl) q (place_skip (Nat.le_of_ble_eq_true rfl) (place_skip (Nat.le_of_ble_eq_true rfl) (place_skip (Nat.le_of_ble_eq_true rfl) (place_skip (Nat.le_of_ble_eq_true rfl) (place_hit q.isLt (place_cons_lt (bool_lt k) (place_nil_lt 0) (Nat.le_of_ble_eq_true rfl))))))), flag_slotWord ho hf 0 (Nat.le_of_ble_eq_true rfl) k (place_skip (Nat.le_of_ble_eq_true rfl) (place_skip (Nat.le_of_ble_eq_true rfl) (place_skip (Nat.le_of_ble_eq_true rfl) (place_skip (Nat.le_of_ble_eq_true rfl) (place_skip (Nat.le_of_ble_eq_true rfl) (place_hit (bool_lt k) (place_nil_lt 0)))))))])))

theorem arm_vfdiv {w : BitVec 32} (hop : opcodeOf w = 0x28) : decodeV w = accept (true) (.vfdiv (guardOf w) (fld w 15 5) (fld w 10 5) (fld w 5 5) (fld w 3 2) (fld w 1 2) (flag w 0)) := by
  unfold decodeV
  simp only [hop]

theorem vfdiv (g : Guard) (d : BitVec 5) (a : BitVec 5) (b : BitVec 5) (p : BitVec 2) (q : BitVec 2) (k : Bool) : Statement (.vfdiv g d a b p q k) := by
  intro W hW
  obtain rfl : slotWord g 0x28 (place [(d.toNat, 15), (a.toNat, 10), (b.toNat, 5), (p.toNat, 3), (q.toNat, 1), (k.toNat, 0)]) = W := Option.some.inj hW
  have ho : 0x28 < 2 ^ 7 := Nat.le_of_ble_eq_true rfl
  have hf : place [(d.toNat, 15), (a.toNat, 10), (b.toNat, 5), (p.toNat, 3), (q.toNat, 1), (k.toNat, 0)] < 2 ^ 20 := place_cons_lt d.isLt (place_cons_lt a.isLt (place_cons_lt b.isLt (place_cons_lt p.isLt (place_cons_lt q.isLt (place_cons_lt (bool_lt k) (place_nil_lt 0) (Nat.le_of_ble_eq_true rfl)) (Nat.le_of_ble_eq_true rfl)) (Nat.le_of_ble_eq_true rfl)) (Nat.le_of_ble_eq_true rfl)) (Nat.le_of_ble_eq_true rfl)) (Nat.le_of_ble_eq_true rfl)
  have hop := opcodeOf_slotWord (g := g) ho hf
  refine ⟨congrArg some (guardOf_slotWord ho hf).symm, _, rfl, decodeSlot_eq ?_⟩
  exact (decodeRaw_V hop (by decide)).trans ((arm_vfdiv hop).trans (accept_eq rfl (by rw [guardOf_slotWord ho hf, fld_slotWord ho hf 15 5 (Nat.le_of_ble_eq_true rfl) d (place_hit d.isLt (place_cons_lt a.isLt (place_cons_lt b.isLt (place_cons_lt p.isLt (place_cons_lt q.isLt (place_cons_lt (bool_lt k) (place_nil_lt 0) (Nat.le_of_ble_eq_true rfl)) (Nat.le_of_ble_eq_true rfl)) (Nat.le_of_ble_eq_true rfl)) (Nat.le_of_ble_eq_true rfl)) (Nat.le_of_ble_eq_true rfl))), fld_slotWord ho hf 10 5 (Nat.le_of_ble_eq_true rfl) a (place_skip (Nat.le_of_ble_eq_true rfl) (place_hit a.isLt (place_cons_lt b.isLt (place_cons_lt p.isLt (place_cons_lt q.isLt (place_cons_lt (bool_lt k) (place_nil_lt 0) (Nat.le_of_ble_eq_true rfl)) (Nat.le_of_ble_eq_true rfl)) (Nat.le_of_ble_eq_true rfl)) (Nat.le_of_ble_eq_true rfl)))), fld_slotWord ho hf 5 5 (Nat.le_of_ble_eq_true rfl) b (place_skip (Nat.le_of_ble_eq_true rfl) (place_skip (Nat.le_of_ble_eq_true rfl) (place_hit b.isLt (place_cons_lt p.isLt (place_cons_lt q.isLt (place_cons_lt (bool_lt k) (place_nil_lt 0) (Nat.le_of_ble_eq_true rfl)) (Nat.le_of_ble_eq_true rfl)) (Nat.le_of_ble_eq_true rfl))))), fld_slotWord ho hf 3 2 (Nat.le_of_ble_eq_true rfl) p (place_skip (Nat.le_of_ble_eq_true rfl) (place_skip (Nat.le_of_ble_eq_true rfl) (place_skip (Nat.le_of_ble_eq_true rfl) (place_hit p.isLt (place_cons_lt q.isLt (place_cons_lt (bool_lt k) (place_nil_lt 0) (Nat.le_of_ble_eq_true rfl)) (Nat.le_of_ble_eq_true rfl)))))), fld_slotWord ho hf 1 2 (Nat.le_of_ble_eq_true rfl) q (place_skip (Nat.le_of_ble_eq_true rfl) (place_skip (Nat.le_of_ble_eq_true rfl) (place_skip (Nat.le_of_ble_eq_true rfl) (place_skip (Nat.le_of_ble_eq_true rfl) (place_hit q.isLt (place_cons_lt (bool_lt k) (place_nil_lt 0) (Nat.le_of_ble_eq_true rfl))))))), flag_slotWord ho hf 0 (Nat.le_of_ble_eq_true rfl) k (place_skip (Nat.le_of_ble_eq_true rfl) (place_skip (Nat.le_of_ble_eq_true rfl) (place_skip (Nat.le_of_ble_eq_true rfl) (place_skip (Nat.le_of_ble_eq_true rfl) (place_skip (Nat.le_of_ble_eq_true rfl) (place_hit (bool_lt k) (place_nil_lt 0)))))))])))

theorem arm_vfsqrt {w : BitVec 32} (hop : opcodeOf w = 0x29) : decodeV w = accept (holds w 1 2 0 && holds w 5 5 0) (.vfsqrt (guardOf w) (fld w 15 5) (fld w 10 5) (fld w 3 2) (flag w 0)) := by
  unfold decodeV
  simp only [hop]

theorem vfsqrt (g : Guard) (d : BitVec 5) (a : BitVec 5) (p : BitVec 2) (k : Bool) : Statement (.vfsqrt g d a p k) := by
  intro W hW
  obtain rfl : slotWord g 0x29 (place [(d.toNat, 15), (a.toNat, 10), (p.toNat, 3), (k.toNat, 0)]) = W := Option.some.inj hW
  have ho : 0x29 < 2 ^ 7 := Nat.le_of_ble_eq_true rfl
  have hf : place [(d.toNat, 15), (a.toNat, 10), (p.toNat, 3), (k.toNat, 0)] < 2 ^ 20 := place_cons_lt d.isLt (place_cons_lt a.isLt (place_cons_lt p.isLt (place_cons_lt (bool_lt k) (place_nil_lt 0) (Nat.le_of_ble_eq_true rfl)) (Nat.le_of_ble_eq_true rfl)) (Nat.le_of_ble_eq_true rfl)) (Nat.le_of_ble_eq_true rfl)
  have hop := opcodeOf_slotWord (g := g) ho hf
  refine ⟨congrArg some (guardOf_slotWord ho hf).symm, _, rfl, decodeSlot_eq ?_⟩
  exact (decodeRaw_V hop (by decide)).trans ((arm_vfsqrt hop).trans (accept_eq (Bool.and_eq_true_iff.mpr ⟨(holds_slotWord ho hf 1 2 0 (Nat.le_of_ble_eq_true rfl) (place_skip (Nat.le_of_ble_eq_true rfl) (place_skip (Nat.le_of_ble_eq_true rfl) (place_skip (Nat.le_of_ble_eq_true rfl) (place_zero (place_cons_lt (bool_lt k) (place_nil_lt 0) (Nat.le_of_ble_eq_true rfl))))))), (holds_slotWord ho hf 5 5 0 (Nat.le_of_ble_eq_true rfl) (place_skip (Nat.le_of_ble_eq_true rfl) (place_skip (Nat.le_of_ble_eq_true rfl) (place_zero (place_cons_lt p.isLt (place_cons_lt (bool_lt k) (place_nil_lt 0) (Nat.le_of_ble_eq_true rfl)) (Nat.le_of_ble_eq_true rfl))))))⟩) (by rw [guardOf_slotWord ho hf, fld_slotWord ho hf 15 5 (Nat.le_of_ble_eq_true rfl) d (place_hit d.isLt (place_cons_lt a.isLt (place_cons_lt p.isLt (place_cons_lt (bool_lt k) (place_nil_lt 0) (Nat.le_of_ble_eq_true rfl)) (Nat.le_of_ble_eq_true rfl)) (Nat.le_of_ble_eq_true rfl))), fld_slotWord ho hf 10 5 (Nat.le_of_ble_eq_true rfl) a (place_skip (Nat.le_of_ble_eq_true rfl) (place_hit a.isLt (place_cons_lt p.isLt (place_cons_lt (bool_lt k) (place_nil_lt 0) (Nat.le_of_ble_eq_true rfl)) (Nat.le_of_ble_eq_true rfl)))), fld_slotWord ho hf 3 2 (Nat.le_of_ble_eq_true rfl) p (place_skip (Nat.le_of_ble_eq_true rfl) (place_skip (Nat.le_of_ble_eq_true rfl) (place_hit p.isLt (place_cons_lt (bool_lt k) (place_nil_lt 0) (Nat.le_of_ble_eq_true rfl))))), flag_slotWord ho hf 0 (Nat.le_of_ble_eq_true rfl) k (place_skip (Nat.le_of_ble_eq_true rfl) (place_skip (Nat.le_of_ble_eq_true rfl) (place_skip (Nat.le_of_ble_eq_true rfl) (place_hit (bool_lt k) (place_nil_lt 0)))))])))

theorem arm_vfrcp {w : BitVec 32} (hop : opcodeOf w = 0x2A) : decodeV w = accept (holds w 1 2 0 && holds w 5 5 0) (.vfrcp (guardOf w) (fld w 15 5) (fld w 10 5) (fld w 3 2) (flag w 0)) := by
  unfold decodeV
  simp only [hop]

theorem vfrcp (g : Guard) (d : BitVec 5) (a : BitVec 5) (p : BitVec 2) (k : Bool) : Statement (.vfrcp g d a p k) := by
  intro W hW
  obtain rfl : slotWord g 0x2A (place [(d.toNat, 15), (a.toNat, 10), (p.toNat, 3), (k.toNat, 0)]) = W := Option.some.inj hW
  have ho : 0x2A < 2 ^ 7 := Nat.le_of_ble_eq_true rfl
  have hf : place [(d.toNat, 15), (a.toNat, 10), (p.toNat, 3), (k.toNat, 0)] < 2 ^ 20 := place_cons_lt d.isLt (place_cons_lt a.isLt (place_cons_lt p.isLt (place_cons_lt (bool_lt k) (place_nil_lt 0) (Nat.le_of_ble_eq_true rfl)) (Nat.le_of_ble_eq_true rfl)) (Nat.le_of_ble_eq_true rfl)) (Nat.le_of_ble_eq_true rfl)
  have hop := opcodeOf_slotWord (g := g) ho hf
  refine ⟨congrArg some (guardOf_slotWord ho hf).symm, _, rfl, decodeSlot_eq ?_⟩
  exact (decodeRaw_V hop (by decide)).trans ((arm_vfrcp hop).trans (accept_eq (Bool.and_eq_true_iff.mpr ⟨(holds_slotWord ho hf 1 2 0 (Nat.le_of_ble_eq_true rfl) (place_skip (Nat.le_of_ble_eq_true rfl) (place_skip (Nat.le_of_ble_eq_true rfl) (place_skip (Nat.le_of_ble_eq_true rfl) (place_zero (place_cons_lt (bool_lt k) (place_nil_lt 0) (Nat.le_of_ble_eq_true rfl))))))), (holds_slotWord ho hf 5 5 0 (Nat.le_of_ble_eq_true rfl) (place_skip (Nat.le_of_ble_eq_true rfl) (place_skip (Nat.le_of_ble_eq_true rfl) (place_zero (place_cons_lt p.isLt (place_cons_lt (bool_lt k) (place_nil_lt 0) (Nat.le_of_ble_eq_true rfl)) (Nat.le_of_ble_eq_true rfl))))))⟩) (by rw [guardOf_slotWord ho hf, fld_slotWord ho hf 15 5 (Nat.le_of_ble_eq_true rfl) d (place_hit d.isLt (place_cons_lt a.isLt (place_cons_lt p.isLt (place_cons_lt (bool_lt k) (place_nil_lt 0) (Nat.le_of_ble_eq_true rfl)) (Nat.le_of_ble_eq_true rfl)) (Nat.le_of_ble_eq_true rfl))), fld_slotWord ho hf 10 5 (Nat.le_of_ble_eq_true rfl) a (place_skip (Nat.le_of_ble_eq_true rfl) (place_hit a.isLt (place_cons_lt p.isLt (place_cons_lt (bool_lt k) (place_nil_lt 0) (Nat.le_of_ble_eq_true rfl)) (Nat.le_of_ble_eq_true rfl)))), fld_slotWord ho hf 3 2 (Nat.le_of_ble_eq_true rfl) p (place_skip (Nat.le_of_ble_eq_true rfl) (place_skip (Nat.le_of_ble_eq_true rfl) (place_hit p.isLt (place_cons_lt (bool_lt k) (place_nil_lt 0) (Nat.le_of_ble_eq_true rfl))))), flag_slotWord ho hf 0 (Nat.le_of_ble_eq_true rfl) k (place_skip (Nat.le_of_ble_eq_true rfl) (place_skip (Nat.le_of_ble_eq_true rfl) (place_skip (Nat.le_of_ble_eq_true rfl) (place_hit (bool_lt k) (place_nil_lt 0)))))])))

theorem arm_vfrsq {w : BitVec 32} (hop : opcodeOf w = 0x2B) : decodeV w = accept (holds w 1 2 0 && holds w 5 5 0) (.vfrsq (guardOf w) (fld w 15 5) (fld w 10 5) (fld w 3 2) (flag w 0)) := by
  unfold decodeV
  simp only [hop]

theorem vfrsq (g : Guard) (d : BitVec 5) (a : BitVec 5) (p : BitVec 2) (k : Bool) : Statement (.vfrsq g d a p k) := by
  intro W hW
  obtain rfl : slotWord g 0x2B (place [(d.toNat, 15), (a.toNat, 10), (p.toNat, 3), (k.toNat, 0)]) = W := Option.some.inj hW
  have ho : 0x2B < 2 ^ 7 := Nat.le_of_ble_eq_true rfl
  have hf : place [(d.toNat, 15), (a.toNat, 10), (p.toNat, 3), (k.toNat, 0)] < 2 ^ 20 := place_cons_lt d.isLt (place_cons_lt a.isLt (place_cons_lt p.isLt (place_cons_lt (bool_lt k) (place_nil_lt 0) (Nat.le_of_ble_eq_true rfl)) (Nat.le_of_ble_eq_true rfl)) (Nat.le_of_ble_eq_true rfl)) (Nat.le_of_ble_eq_true rfl)
  have hop := opcodeOf_slotWord (g := g) ho hf
  refine ⟨congrArg some (guardOf_slotWord ho hf).symm, _, rfl, decodeSlot_eq ?_⟩
  exact (decodeRaw_V hop (by decide)).trans ((arm_vfrsq hop).trans (accept_eq (Bool.and_eq_true_iff.mpr ⟨(holds_slotWord ho hf 1 2 0 (Nat.le_of_ble_eq_true rfl) (place_skip (Nat.le_of_ble_eq_true rfl) (place_skip (Nat.le_of_ble_eq_true rfl) (place_skip (Nat.le_of_ble_eq_true rfl) (place_zero (place_cons_lt (bool_lt k) (place_nil_lt 0) (Nat.le_of_ble_eq_true rfl))))))), (holds_slotWord ho hf 5 5 0 (Nat.le_of_ble_eq_true rfl) (place_skip (Nat.le_of_ble_eq_true rfl) (place_skip (Nat.le_of_ble_eq_true rfl) (place_zero (place_cons_lt p.isLt (place_cons_lt (bool_lt k) (place_nil_lt 0) (Nat.le_of_ble_eq_true rfl)) (Nat.le_of_ble_eq_true rfl))))))⟩) (by rw [guardOf_slotWord ho hf, fld_slotWord ho hf 15 5 (Nat.le_of_ble_eq_true rfl) d (place_hit d.isLt (place_cons_lt a.isLt (place_cons_lt p.isLt (place_cons_lt (bool_lt k) (place_nil_lt 0) (Nat.le_of_ble_eq_true rfl)) (Nat.le_of_ble_eq_true rfl)) (Nat.le_of_ble_eq_true rfl))), fld_slotWord ho hf 10 5 (Nat.le_of_ble_eq_true rfl) a (place_skip (Nat.le_of_ble_eq_true rfl) (place_hit a.isLt (place_cons_lt p.isLt (place_cons_lt (bool_lt k) (place_nil_lt 0) (Nat.le_of_ble_eq_true rfl)) (Nat.le_of_ble_eq_true rfl)))), fld_slotWord ho hf 3 2 (Nat.le_of_ble_eq_true rfl) p (place_skip (Nat.le_of_ble_eq_true rfl) (place_skip (Nat.le_of_ble_eq_true rfl) (place_hit p.isLt (place_cons_lt (bool_lt k) (place_nil_lt 0) (Nat.le_of_ble_eq_true rfl))))), flag_slotWord ho hf 0 (Nat.le_of_ble_eq_true rfl) k (place_skip (Nat.le_of_ble_eq_true rfl) (place_skip (Nat.le_of_ble_eq_true rfl) (place_skip (Nat.le_of_ble_eq_true rfl) (place_hit (bool_lt k) (place_nil_lt 0)))))])))

theorem arm_vfexp2 {w : BitVec 32} (hop : opcodeOf w = 0x2C) : decodeV w = accept (holds w 1 2 0 && holds w 5 5 0) (.vfexp2 (guardOf w) (fld w 15 5) (fld w 10 5) (fld w 3 2) (flag w 0)) := by
  unfold decodeV
  simp only [hop]

theorem vfexp2 (g : Guard) (d : BitVec 5) (a : BitVec 5) (p : BitVec 2) (k : Bool) : Statement (.vfexp2 g d a p k) := by
  intro W hW
  obtain rfl : slotWord g 0x2C (place [(d.toNat, 15), (a.toNat, 10), (p.toNat, 3), (k.toNat, 0)]) = W := Option.some.inj hW
  have ho : 0x2C < 2 ^ 7 := Nat.le_of_ble_eq_true rfl
  have hf : place [(d.toNat, 15), (a.toNat, 10), (p.toNat, 3), (k.toNat, 0)] < 2 ^ 20 := place_cons_lt d.isLt (place_cons_lt a.isLt (place_cons_lt p.isLt (place_cons_lt (bool_lt k) (place_nil_lt 0) (Nat.le_of_ble_eq_true rfl)) (Nat.le_of_ble_eq_true rfl)) (Nat.le_of_ble_eq_true rfl)) (Nat.le_of_ble_eq_true rfl)
  have hop := opcodeOf_slotWord (g := g) ho hf
  refine ⟨congrArg some (guardOf_slotWord ho hf).symm, _, rfl, decodeSlot_eq ?_⟩
  exact (decodeRaw_V hop (by decide)).trans ((arm_vfexp2 hop).trans (accept_eq (Bool.and_eq_true_iff.mpr ⟨(holds_slotWord ho hf 1 2 0 (Nat.le_of_ble_eq_true rfl) (place_skip (Nat.le_of_ble_eq_true rfl) (place_skip (Nat.le_of_ble_eq_true rfl) (place_skip (Nat.le_of_ble_eq_true rfl) (place_zero (place_cons_lt (bool_lt k) (place_nil_lt 0) (Nat.le_of_ble_eq_true rfl))))))), (holds_slotWord ho hf 5 5 0 (Nat.le_of_ble_eq_true rfl) (place_skip (Nat.le_of_ble_eq_true rfl) (place_skip (Nat.le_of_ble_eq_true rfl) (place_zero (place_cons_lt p.isLt (place_cons_lt (bool_lt k) (place_nil_lt 0) (Nat.le_of_ble_eq_true rfl)) (Nat.le_of_ble_eq_true rfl))))))⟩) (by rw [guardOf_slotWord ho hf, fld_slotWord ho hf 15 5 (Nat.le_of_ble_eq_true rfl) d (place_hit d.isLt (place_cons_lt a.isLt (place_cons_lt p.isLt (place_cons_lt (bool_lt k) (place_nil_lt 0) (Nat.le_of_ble_eq_true rfl)) (Nat.le_of_ble_eq_true rfl)) (Nat.le_of_ble_eq_true rfl))), fld_slotWord ho hf 10 5 (Nat.le_of_ble_eq_true rfl) a (place_skip (Nat.le_of_ble_eq_true rfl) (place_hit a.isLt (place_cons_lt p.isLt (place_cons_lt (bool_lt k) (place_nil_lt 0) (Nat.le_of_ble_eq_true rfl)) (Nat.le_of_ble_eq_true rfl)))), fld_slotWord ho hf 3 2 (Nat.le_of_ble_eq_true rfl) p (place_skip (Nat.le_of_ble_eq_true rfl) (place_skip (Nat.le_of_ble_eq_true rfl) (place_hit p.isLt (place_cons_lt (bool_lt k) (place_nil_lt 0) (Nat.le_of_ble_eq_true rfl))))), flag_slotWord ho hf 0 (Nat.le_of_ble_eq_true rfl) k (place_skip (Nat.le_of_ble_eq_true rfl) (place_skip (Nat.le_of_ble_eq_true rfl) (place_skip (Nat.le_of_ble_eq_true rfl) (place_hit (bool_lt k) (place_nil_lt 0)))))])))

theorem arm_vflog2 {w : BitVec 32} (hop : opcodeOf w = 0x2D) : decodeV w = accept (holds w 1 2 0 && holds w 5 5 0) (.vflog2 (guardOf w) (fld w 15 5) (fld w 10 5) (fld w 3 2) (flag w 0)) := by
  unfold decodeV
  simp only [hop]

theorem vflog2 (g : Guard) (d : BitVec 5) (a : BitVec 5) (p : BitVec 2) (k : Bool) : Statement (.vflog2 g d a p k) := by
  intro W hW
  obtain rfl : slotWord g 0x2D (place [(d.toNat, 15), (a.toNat, 10), (p.toNat, 3), (k.toNat, 0)]) = W := Option.some.inj hW
  have ho : 0x2D < 2 ^ 7 := Nat.le_of_ble_eq_true rfl
  have hf : place [(d.toNat, 15), (a.toNat, 10), (p.toNat, 3), (k.toNat, 0)] < 2 ^ 20 := place_cons_lt d.isLt (place_cons_lt a.isLt (place_cons_lt p.isLt (place_cons_lt (bool_lt k) (place_nil_lt 0) (Nat.le_of_ble_eq_true rfl)) (Nat.le_of_ble_eq_true rfl)) (Nat.le_of_ble_eq_true rfl)) (Nat.le_of_ble_eq_true rfl)
  have hop := opcodeOf_slotWord (g := g) ho hf
  refine ⟨congrArg some (guardOf_slotWord ho hf).symm, _, rfl, decodeSlot_eq ?_⟩
  exact (decodeRaw_V hop (by decide)).trans ((arm_vflog2 hop).trans (accept_eq (Bool.and_eq_true_iff.mpr ⟨(holds_slotWord ho hf 1 2 0 (Nat.le_of_ble_eq_true rfl) (place_skip (Nat.le_of_ble_eq_true rfl) (place_skip (Nat.le_of_ble_eq_true rfl) (place_skip (Nat.le_of_ble_eq_true rfl) (place_zero (place_cons_lt (bool_lt k) (place_nil_lt 0) (Nat.le_of_ble_eq_true rfl))))))), (holds_slotWord ho hf 5 5 0 (Nat.le_of_ble_eq_true rfl) (place_skip (Nat.le_of_ble_eq_true rfl) (place_skip (Nat.le_of_ble_eq_true rfl) (place_zero (place_cons_lt p.isLt (place_cons_lt (bool_lt k) (place_nil_lt 0) (Nat.le_of_ble_eq_true rfl)) (Nat.le_of_ble_eq_true rfl))))))⟩) (by rw [guardOf_slotWord ho hf, fld_slotWord ho hf 15 5 (Nat.le_of_ble_eq_true rfl) d (place_hit d.isLt (place_cons_lt a.isLt (place_cons_lt p.isLt (place_cons_lt (bool_lt k) (place_nil_lt 0) (Nat.le_of_ble_eq_true rfl)) (Nat.le_of_ble_eq_true rfl)) (Nat.le_of_ble_eq_true rfl))), fld_slotWord ho hf 10 5 (Nat.le_of_ble_eq_true rfl) a (place_skip (Nat.le_of_ble_eq_true rfl) (place_hit a.isLt (place_cons_lt p.isLt (place_cons_lt (bool_lt k) (place_nil_lt 0) (Nat.le_of_ble_eq_true rfl)) (Nat.le_of_ble_eq_true rfl)))), fld_slotWord ho hf 3 2 (Nat.le_of_ble_eq_true rfl) p (place_skip (Nat.le_of_ble_eq_true rfl) (place_skip (Nat.le_of_ble_eq_true rfl) (place_hit p.isLt (place_cons_lt (bool_lt k) (place_nil_lt 0) (Nat.le_of_ble_eq_true rfl))))), flag_slotWord ho hf 0 (Nat.le_of_ble_eq_true rfl) k (place_skip (Nat.le_of_ble_eq_true rfl) (place_skip (Nat.le_of_ble_eq_true rfl) (place_skip (Nat.le_of_ble_eq_true rfl) (place_hit (bool_lt k) (place_nil_lt 0)))))])))

theorem arm_vftanh {w : BitVec 32} (hop : opcodeOf w = 0x2E) : decodeV w = accept (holds w 1 2 0 && holds w 5 5 0) (.vftanh (guardOf w) (fld w 15 5) (fld w 10 5) (fld w 3 2) (flag w 0)) := by
  unfold decodeV
  simp only [hop]

theorem vftanh (g : Guard) (d : BitVec 5) (a : BitVec 5) (p : BitVec 2) (k : Bool) : Statement (.vftanh g d a p k) := by
  intro W hW
  obtain rfl : slotWord g 0x2E (place [(d.toNat, 15), (a.toNat, 10), (p.toNat, 3), (k.toNat, 0)]) = W := Option.some.inj hW
  have ho : 0x2E < 2 ^ 7 := Nat.le_of_ble_eq_true rfl
  have hf : place [(d.toNat, 15), (a.toNat, 10), (p.toNat, 3), (k.toNat, 0)] < 2 ^ 20 := place_cons_lt d.isLt (place_cons_lt a.isLt (place_cons_lt p.isLt (place_cons_lt (bool_lt k) (place_nil_lt 0) (Nat.le_of_ble_eq_true rfl)) (Nat.le_of_ble_eq_true rfl)) (Nat.le_of_ble_eq_true rfl)) (Nat.le_of_ble_eq_true rfl)
  have hop := opcodeOf_slotWord (g := g) ho hf
  refine ⟨congrArg some (guardOf_slotWord ho hf).symm, _, rfl, decodeSlot_eq ?_⟩
  exact (decodeRaw_V hop (by decide)).trans ((arm_vftanh hop).trans (accept_eq (Bool.and_eq_true_iff.mpr ⟨(holds_slotWord ho hf 1 2 0 (Nat.le_of_ble_eq_true rfl) (place_skip (Nat.le_of_ble_eq_true rfl) (place_skip (Nat.le_of_ble_eq_true rfl) (place_skip (Nat.le_of_ble_eq_true rfl) (place_zero (place_cons_lt (bool_lt k) (place_nil_lt 0) (Nat.le_of_ble_eq_true rfl))))))), (holds_slotWord ho hf 5 5 0 (Nat.le_of_ble_eq_true rfl) (place_skip (Nat.le_of_ble_eq_true rfl) (place_skip (Nat.le_of_ble_eq_true rfl) (place_zero (place_cons_lt p.isLt (place_cons_lt (bool_lt k) (place_nil_lt 0) (Nat.le_of_ble_eq_true rfl)) (Nat.le_of_ble_eq_true rfl))))))⟩) (by rw [guardOf_slotWord ho hf, fld_slotWord ho hf 15 5 (Nat.le_of_ble_eq_true rfl) d (place_hit d.isLt (place_cons_lt a.isLt (place_cons_lt p.isLt (place_cons_lt (bool_lt k) (place_nil_lt 0) (Nat.le_of_ble_eq_true rfl)) (Nat.le_of_ble_eq_true rfl)) (Nat.le_of_ble_eq_true rfl))), fld_slotWord ho hf 10 5 (Nat.le_of_ble_eq_true rfl) a (place_skip (Nat.le_of_ble_eq_true rfl) (place_hit a.isLt (place_cons_lt p.isLt (place_cons_lt (bool_lt k) (place_nil_lt 0) (Nat.le_of_ble_eq_true rfl)) (Nat.le_of_ble_eq_true rfl)))), fld_slotWord ho hf 3 2 (Nat.le_of_ble_eq_true rfl) p (place_skip (Nat.le_of_ble_eq_true rfl) (place_skip (Nat.le_of_ble_eq_true rfl) (place_hit p.isLt (place_cons_lt (bool_lt k) (place_nil_lt 0) (Nat.le_of_ble_eq_true rfl))))), flag_slotWord ho hf 0 (Nat.le_of_ble_eq_true rfl) k (place_skip (Nat.le_of_ble_eq_true rfl) (place_skip (Nat.le_of_ble_eq_true rfl) (place_skip (Nat.le_of_ble_eq_true rfl) (place_hit (bool_lt k) (place_nil_lt 0)))))])))

theorem arm_vfcls {w : BitVec 32} (hop : opcodeOf w = 0x2F) : decodeV w = accept (holds w 1 2 0 && holds w 5 5 0) (.vfcls (guardOf w) (fld w 15 5) (fld w 10 5) (fld w 3 2) (flag w 0)) := by
  unfold decodeV
  simp only [hop]

theorem vfcls (g : Guard) (d : BitVec 5) (a : BitVec 5) (p : BitVec 2) (k : Bool) : Statement (.vfcls g d a p k) := by
  intro W hW
  obtain rfl : slotWord g 0x2F (place [(d.toNat, 15), (a.toNat, 10), (p.toNat, 3), (k.toNat, 0)]) = W := Option.some.inj hW
  have ho : 0x2F < 2 ^ 7 := Nat.le_of_ble_eq_true rfl
  have hf : place [(d.toNat, 15), (a.toNat, 10), (p.toNat, 3), (k.toNat, 0)] < 2 ^ 20 := place_cons_lt d.isLt (place_cons_lt a.isLt (place_cons_lt p.isLt (place_cons_lt (bool_lt k) (place_nil_lt 0) (Nat.le_of_ble_eq_true rfl)) (Nat.le_of_ble_eq_true rfl)) (Nat.le_of_ble_eq_true rfl)) (Nat.le_of_ble_eq_true rfl)
  have hop := opcodeOf_slotWord (g := g) ho hf
  refine ⟨congrArg some (guardOf_slotWord ho hf).symm, _, rfl, decodeSlot_eq ?_⟩
  exact (decodeRaw_V hop (by decide)).trans ((arm_vfcls hop).trans (accept_eq (Bool.and_eq_true_iff.mpr ⟨(holds_slotWord ho hf 1 2 0 (Nat.le_of_ble_eq_true rfl) (place_skip (Nat.le_of_ble_eq_true rfl) (place_skip (Nat.le_of_ble_eq_true rfl) (place_skip (Nat.le_of_ble_eq_true rfl) (place_zero (place_cons_lt (bool_lt k) (place_nil_lt 0) (Nat.le_of_ble_eq_true rfl))))))), (holds_slotWord ho hf 5 5 0 (Nat.le_of_ble_eq_true rfl) (place_skip (Nat.le_of_ble_eq_true rfl) (place_skip (Nat.le_of_ble_eq_true rfl) (place_zero (place_cons_lt p.isLt (place_cons_lt (bool_lt k) (place_nil_lt 0) (Nat.le_of_ble_eq_true rfl)) (Nat.le_of_ble_eq_true rfl))))))⟩) (by rw [guardOf_slotWord ho hf, fld_slotWord ho hf 15 5 (Nat.le_of_ble_eq_true rfl) d (place_hit d.isLt (place_cons_lt a.isLt (place_cons_lt p.isLt (place_cons_lt (bool_lt k) (place_nil_lt 0) (Nat.le_of_ble_eq_true rfl)) (Nat.le_of_ble_eq_true rfl)) (Nat.le_of_ble_eq_true rfl))), fld_slotWord ho hf 10 5 (Nat.le_of_ble_eq_true rfl) a (place_skip (Nat.le_of_ble_eq_true rfl) (place_hit a.isLt (place_cons_lt p.isLt (place_cons_lt (bool_lt k) (place_nil_lt 0) (Nat.le_of_ble_eq_true rfl)) (Nat.le_of_ble_eq_true rfl)))), fld_slotWord ho hf 3 2 (Nat.le_of_ble_eq_true rfl) p (place_skip (Nat.le_of_ble_eq_true rfl) (place_skip (Nat.le_of_ble_eq_true rfl) (place_hit p.isLt (place_cons_lt (bool_lt k) (place_nil_lt 0) (Nat.le_of_ble_eq_true rfl))))), flag_slotWord ho hf 0 (Nat.le_of_ble_eq_true rfl) k (place_skip (Nat.le_of_ble_eq_true rfl) (place_skip (Nat.le_of_ble_eq_true rfl) (place_skip (Nat.le_of_ble_eq_true rfl) (place_hit (bool_lt k) (place_nil_lt 0)))))])))

theorem arm_vfcmpEq {w : BitVec 32} (hop : opcodeOf w = 0x30) : decodeV w = accept (holds w 18 2 0) (.vfcmpEq (guardOf w) (fld w 15 3) (fld w 10 5) (fld w 5 5) (fld w 3 2) (fld w 1 2) (flag w 0)) := by
  unfold decodeV
  simp only [hop]

theorem vfcmpEq (g : Guard) (m : BitVec 3) (a : BitVec 5) (b : BitVec 5) (p : BitVec 2) (q : BitVec 2) (k : Bool) : Statement (.vfcmpEq g m a b p q k) := by
  intro W hW
  obtain rfl : slotWord g 0x30 (place [(m.toNat, 15), (a.toNat, 10), (b.toNat, 5), (p.toNat, 3), (q.toNat, 1), (k.toNat, 0)]) = W := Option.some.inj hW
  have ho : 0x30 < 2 ^ 7 := Nat.le_of_ble_eq_true rfl
  have hf : place [(m.toNat, 15), (a.toNat, 10), (b.toNat, 5), (p.toNat, 3), (q.toNat, 1), (k.toNat, 0)] < 2 ^ 20 := place_cons_lt m.isLt (place_cons_lt a.isLt (place_cons_lt b.isLt (place_cons_lt p.isLt (place_cons_lt q.isLt (place_cons_lt (bool_lt k) (place_nil_lt 0) (Nat.le_of_ble_eq_true rfl)) (Nat.le_of_ble_eq_true rfl)) (Nat.le_of_ble_eq_true rfl)) (Nat.le_of_ble_eq_true rfl)) (Nat.le_of_ble_eq_true rfl)) (Nat.le_of_ble_eq_true rfl)
  have hop := opcodeOf_slotWord (g := g) ho hf
  refine ⟨congrArg some (guardOf_slotWord ho hf).symm, _, rfl, decodeSlot_eq ?_⟩
  exact (decodeRaw_V hop (by decide)).trans ((arm_vfcmpEq hop).trans (accept_eq (holds_slotWord ho hf 18 2 0 (Nat.le_of_ble_eq_true rfl) (place_zero (place_cons_lt m.isLt (place_cons_lt a.isLt (place_cons_lt b.isLt (place_cons_lt p.isLt (place_cons_lt q.isLt (place_cons_lt (bool_lt k) (place_nil_lt 0) (Nat.le_of_ble_eq_true rfl)) (Nat.le_of_ble_eq_true rfl)) (Nat.le_of_ble_eq_true rfl)) (Nat.le_of_ble_eq_true rfl)) (Nat.le_of_ble_eq_true rfl)) (Nat.le_of_ble_eq_true rfl)))) (by rw [guardOf_slotWord ho hf, fld_slotWord ho hf 15 3 (Nat.le_of_ble_eq_true rfl) m (place_hit m.isLt (place_cons_lt a.isLt (place_cons_lt b.isLt (place_cons_lt p.isLt (place_cons_lt q.isLt (place_cons_lt (bool_lt k) (place_nil_lt 0) (Nat.le_of_ble_eq_true rfl)) (Nat.le_of_ble_eq_true rfl)) (Nat.le_of_ble_eq_true rfl)) (Nat.le_of_ble_eq_true rfl)) (Nat.le_of_ble_eq_true rfl))), fld_slotWord ho hf 10 5 (Nat.le_of_ble_eq_true rfl) a (place_skip (Nat.le_of_ble_eq_true rfl) (place_hit a.isLt (place_cons_lt b.isLt (place_cons_lt p.isLt (place_cons_lt q.isLt (place_cons_lt (bool_lt k) (place_nil_lt 0) (Nat.le_of_ble_eq_true rfl)) (Nat.le_of_ble_eq_true rfl)) (Nat.le_of_ble_eq_true rfl)) (Nat.le_of_ble_eq_true rfl)))), fld_slotWord ho hf 5 5 (Nat.le_of_ble_eq_true rfl) b (place_skip (Nat.le_of_ble_eq_true rfl) (place_skip (Nat.le_of_ble_eq_true rfl) (place_hit b.isLt (place_cons_lt p.isLt (place_cons_lt q.isLt (place_cons_lt (bool_lt k) (place_nil_lt 0) (Nat.le_of_ble_eq_true rfl)) (Nat.le_of_ble_eq_true rfl)) (Nat.le_of_ble_eq_true rfl))))), fld_slotWord ho hf 3 2 (Nat.le_of_ble_eq_true rfl) p (place_skip (Nat.le_of_ble_eq_true rfl) (place_skip (Nat.le_of_ble_eq_true rfl) (place_skip (Nat.le_of_ble_eq_true rfl) (place_hit p.isLt (place_cons_lt q.isLt (place_cons_lt (bool_lt k) (place_nil_lt 0) (Nat.le_of_ble_eq_true rfl)) (Nat.le_of_ble_eq_true rfl)))))), fld_slotWord ho hf 1 2 (Nat.le_of_ble_eq_true rfl) q (place_skip (Nat.le_of_ble_eq_true rfl) (place_skip (Nat.le_of_ble_eq_true rfl) (place_skip (Nat.le_of_ble_eq_true rfl) (place_skip (Nat.le_of_ble_eq_true rfl) (place_hit q.isLt (place_cons_lt (bool_lt k) (place_nil_lt 0) (Nat.le_of_ble_eq_true rfl))))))), flag_slotWord ho hf 0 (Nat.le_of_ble_eq_true rfl) k (place_skip (Nat.le_of_ble_eq_true rfl) (place_skip (Nat.le_of_ble_eq_true rfl) (place_skip (Nat.le_of_ble_eq_true rfl) (place_skip (Nat.le_of_ble_eq_true rfl) (place_skip (Nat.le_of_ble_eq_true rfl) (place_hit (bool_lt k) (place_nil_lt 0)))))))])))

theorem arm_vfcmpNe {w : BitVec 32} (hop : opcodeOf w = 0x31) : decodeV w = accept (holds w 18 2 0) (.vfcmpNe (guardOf w) (fld w 15 3) (fld w 10 5) (fld w 5 5) (fld w 3 2) (fld w 1 2) (flag w 0)) := by
  unfold decodeV
  simp only [hop]

theorem vfcmpNe (g : Guard) (m : BitVec 3) (a : BitVec 5) (b : BitVec 5) (p : BitVec 2) (q : BitVec 2) (k : Bool) : Statement (.vfcmpNe g m a b p q k) := by
  intro W hW
  obtain rfl : slotWord g 0x31 (place [(m.toNat, 15), (a.toNat, 10), (b.toNat, 5), (p.toNat, 3), (q.toNat, 1), (k.toNat, 0)]) = W := Option.some.inj hW
  have ho : 0x31 < 2 ^ 7 := Nat.le_of_ble_eq_true rfl
  have hf : place [(m.toNat, 15), (a.toNat, 10), (b.toNat, 5), (p.toNat, 3), (q.toNat, 1), (k.toNat, 0)] < 2 ^ 20 := place_cons_lt m.isLt (place_cons_lt a.isLt (place_cons_lt b.isLt (place_cons_lt p.isLt (place_cons_lt q.isLt (place_cons_lt (bool_lt k) (place_nil_lt 0) (Nat.le_of_ble_eq_true rfl)) (Nat.le_of_ble_eq_true rfl)) (Nat.le_of_ble_eq_true rfl)) (Nat.le_of_ble_eq_true rfl)) (Nat.le_of_ble_eq_true rfl)) (Nat.le_of_ble_eq_true rfl)
  have hop := opcodeOf_slotWord (g := g) ho hf
  refine ⟨congrArg some (guardOf_slotWord ho hf).symm, _, rfl, decodeSlot_eq ?_⟩
  exact (decodeRaw_V hop (by decide)).trans ((arm_vfcmpNe hop).trans (accept_eq (holds_slotWord ho hf 18 2 0 (Nat.le_of_ble_eq_true rfl) (place_zero (place_cons_lt m.isLt (place_cons_lt a.isLt (place_cons_lt b.isLt (place_cons_lt p.isLt (place_cons_lt q.isLt (place_cons_lt (bool_lt k) (place_nil_lt 0) (Nat.le_of_ble_eq_true rfl)) (Nat.le_of_ble_eq_true rfl)) (Nat.le_of_ble_eq_true rfl)) (Nat.le_of_ble_eq_true rfl)) (Nat.le_of_ble_eq_true rfl)) (Nat.le_of_ble_eq_true rfl)))) (by rw [guardOf_slotWord ho hf, fld_slotWord ho hf 15 3 (Nat.le_of_ble_eq_true rfl) m (place_hit m.isLt (place_cons_lt a.isLt (place_cons_lt b.isLt (place_cons_lt p.isLt (place_cons_lt q.isLt (place_cons_lt (bool_lt k) (place_nil_lt 0) (Nat.le_of_ble_eq_true rfl)) (Nat.le_of_ble_eq_true rfl)) (Nat.le_of_ble_eq_true rfl)) (Nat.le_of_ble_eq_true rfl)) (Nat.le_of_ble_eq_true rfl))), fld_slotWord ho hf 10 5 (Nat.le_of_ble_eq_true rfl) a (place_skip (Nat.le_of_ble_eq_true rfl) (place_hit a.isLt (place_cons_lt b.isLt (place_cons_lt p.isLt (place_cons_lt q.isLt (place_cons_lt (bool_lt k) (place_nil_lt 0) (Nat.le_of_ble_eq_true rfl)) (Nat.le_of_ble_eq_true rfl)) (Nat.le_of_ble_eq_true rfl)) (Nat.le_of_ble_eq_true rfl)))), fld_slotWord ho hf 5 5 (Nat.le_of_ble_eq_true rfl) b (place_skip (Nat.le_of_ble_eq_true rfl) (place_skip (Nat.le_of_ble_eq_true rfl) (place_hit b.isLt (place_cons_lt p.isLt (place_cons_lt q.isLt (place_cons_lt (bool_lt k) (place_nil_lt 0) (Nat.le_of_ble_eq_true rfl)) (Nat.le_of_ble_eq_true rfl)) (Nat.le_of_ble_eq_true rfl))))), fld_slotWord ho hf 3 2 (Nat.le_of_ble_eq_true rfl) p (place_skip (Nat.le_of_ble_eq_true rfl) (place_skip (Nat.le_of_ble_eq_true rfl) (place_skip (Nat.le_of_ble_eq_true rfl) (place_hit p.isLt (place_cons_lt q.isLt (place_cons_lt (bool_lt k) (place_nil_lt 0) (Nat.le_of_ble_eq_true rfl)) (Nat.le_of_ble_eq_true rfl)))))), fld_slotWord ho hf 1 2 (Nat.le_of_ble_eq_true rfl) q (place_skip (Nat.le_of_ble_eq_true rfl) (place_skip (Nat.le_of_ble_eq_true rfl) (place_skip (Nat.le_of_ble_eq_true rfl) (place_skip (Nat.le_of_ble_eq_true rfl) (place_hit q.isLt (place_cons_lt (bool_lt k) (place_nil_lt 0) (Nat.le_of_ble_eq_true rfl))))))), flag_slotWord ho hf 0 (Nat.le_of_ble_eq_true rfl) k (place_skip (Nat.le_of_ble_eq_true rfl) (place_skip (Nat.le_of_ble_eq_true rfl) (place_skip (Nat.le_of_ble_eq_true rfl) (place_skip (Nat.le_of_ble_eq_true rfl) (place_skip (Nat.le_of_ble_eq_true rfl) (place_hit (bool_lt k) (place_nil_lt 0)))))))])))

theorem arm_vfcmpLt {w : BitVec 32} (hop : opcodeOf w = 0x32) : decodeV w = accept (holds w 18 2 0) (.vfcmpLt (guardOf w) (fld w 15 3) (fld w 10 5) (fld w 5 5) (fld w 3 2) (fld w 1 2) (flag w 0)) := by
  unfold decodeV
  simp only [hop]

theorem vfcmpLt (g : Guard) (m : BitVec 3) (a : BitVec 5) (b : BitVec 5) (p : BitVec 2) (q : BitVec 2) (k : Bool) : Statement (.vfcmpLt g m a b p q k) := by
  intro W hW
  obtain rfl : slotWord g 0x32 (place [(m.toNat, 15), (a.toNat, 10), (b.toNat, 5), (p.toNat, 3), (q.toNat, 1), (k.toNat, 0)]) = W := Option.some.inj hW
  have ho : 0x32 < 2 ^ 7 := Nat.le_of_ble_eq_true rfl
  have hf : place [(m.toNat, 15), (a.toNat, 10), (b.toNat, 5), (p.toNat, 3), (q.toNat, 1), (k.toNat, 0)] < 2 ^ 20 := place_cons_lt m.isLt (place_cons_lt a.isLt (place_cons_lt b.isLt (place_cons_lt p.isLt (place_cons_lt q.isLt (place_cons_lt (bool_lt k) (place_nil_lt 0) (Nat.le_of_ble_eq_true rfl)) (Nat.le_of_ble_eq_true rfl)) (Nat.le_of_ble_eq_true rfl)) (Nat.le_of_ble_eq_true rfl)) (Nat.le_of_ble_eq_true rfl)) (Nat.le_of_ble_eq_true rfl)
  have hop := opcodeOf_slotWord (g := g) ho hf
  refine ⟨congrArg some (guardOf_slotWord ho hf).symm, _, rfl, decodeSlot_eq ?_⟩
  exact (decodeRaw_V hop (by decide)).trans ((arm_vfcmpLt hop).trans (accept_eq (holds_slotWord ho hf 18 2 0 (Nat.le_of_ble_eq_true rfl) (place_zero (place_cons_lt m.isLt (place_cons_lt a.isLt (place_cons_lt b.isLt (place_cons_lt p.isLt (place_cons_lt q.isLt (place_cons_lt (bool_lt k) (place_nil_lt 0) (Nat.le_of_ble_eq_true rfl)) (Nat.le_of_ble_eq_true rfl)) (Nat.le_of_ble_eq_true rfl)) (Nat.le_of_ble_eq_true rfl)) (Nat.le_of_ble_eq_true rfl)) (Nat.le_of_ble_eq_true rfl)))) (by rw [guardOf_slotWord ho hf, fld_slotWord ho hf 15 3 (Nat.le_of_ble_eq_true rfl) m (place_hit m.isLt (place_cons_lt a.isLt (place_cons_lt b.isLt (place_cons_lt p.isLt (place_cons_lt q.isLt (place_cons_lt (bool_lt k) (place_nil_lt 0) (Nat.le_of_ble_eq_true rfl)) (Nat.le_of_ble_eq_true rfl)) (Nat.le_of_ble_eq_true rfl)) (Nat.le_of_ble_eq_true rfl)) (Nat.le_of_ble_eq_true rfl))), fld_slotWord ho hf 10 5 (Nat.le_of_ble_eq_true rfl) a (place_skip (Nat.le_of_ble_eq_true rfl) (place_hit a.isLt (place_cons_lt b.isLt (place_cons_lt p.isLt (place_cons_lt q.isLt (place_cons_lt (bool_lt k) (place_nil_lt 0) (Nat.le_of_ble_eq_true rfl)) (Nat.le_of_ble_eq_true rfl)) (Nat.le_of_ble_eq_true rfl)) (Nat.le_of_ble_eq_true rfl)))), fld_slotWord ho hf 5 5 (Nat.le_of_ble_eq_true rfl) b (place_skip (Nat.le_of_ble_eq_true rfl) (place_skip (Nat.le_of_ble_eq_true rfl) (place_hit b.isLt (place_cons_lt p.isLt (place_cons_lt q.isLt (place_cons_lt (bool_lt k) (place_nil_lt 0) (Nat.le_of_ble_eq_true rfl)) (Nat.le_of_ble_eq_true rfl)) (Nat.le_of_ble_eq_true rfl))))), fld_slotWord ho hf 3 2 (Nat.le_of_ble_eq_true rfl) p (place_skip (Nat.le_of_ble_eq_true rfl) (place_skip (Nat.le_of_ble_eq_true rfl) (place_skip (Nat.le_of_ble_eq_true rfl) (place_hit p.isLt (place_cons_lt q.isLt (place_cons_lt (bool_lt k) (place_nil_lt 0) (Nat.le_of_ble_eq_true rfl)) (Nat.le_of_ble_eq_true rfl)))))), fld_slotWord ho hf 1 2 (Nat.le_of_ble_eq_true rfl) q (place_skip (Nat.le_of_ble_eq_true rfl) (place_skip (Nat.le_of_ble_eq_true rfl) (place_skip (Nat.le_of_ble_eq_true rfl) (place_skip (Nat.le_of_ble_eq_true rfl) (place_hit q.isLt (place_cons_lt (bool_lt k) (place_nil_lt 0) (Nat.le_of_ble_eq_true rfl))))))), flag_slotWord ho hf 0 (Nat.le_of_ble_eq_true rfl) k (place_skip (Nat.le_of_ble_eq_true rfl) (place_skip (Nat.le_of_ble_eq_true rfl) (place_skip (Nat.le_of_ble_eq_true rfl) (place_skip (Nat.le_of_ble_eq_true rfl) (place_skip (Nat.le_of_ble_eq_true rfl) (place_hit (bool_lt k) (place_nil_lt 0)))))))])))

theorem arm_vfcmpLe {w : BitVec 32} (hop : opcodeOf w = 0x33) : decodeV w = accept (holds w 18 2 0) (.vfcmpLe (guardOf w) (fld w 15 3) (fld w 10 5) (fld w 5 5) (fld w 3 2) (fld w 1 2) (flag w 0)) := by
  unfold decodeV
  simp only [hop]

theorem vfcmpLe (g : Guard) (m : BitVec 3) (a : BitVec 5) (b : BitVec 5) (p : BitVec 2) (q : BitVec 2) (k : Bool) : Statement (.vfcmpLe g m a b p q k) := by
  intro W hW
  obtain rfl : slotWord g 0x33 (place [(m.toNat, 15), (a.toNat, 10), (b.toNat, 5), (p.toNat, 3), (q.toNat, 1), (k.toNat, 0)]) = W := Option.some.inj hW
  have ho : 0x33 < 2 ^ 7 := Nat.le_of_ble_eq_true rfl
  have hf : place [(m.toNat, 15), (a.toNat, 10), (b.toNat, 5), (p.toNat, 3), (q.toNat, 1), (k.toNat, 0)] < 2 ^ 20 := place_cons_lt m.isLt (place_cons_lt a.isLt (place_cons_lt b.isLt (place_cons_lt p.isLt (place_cons_lt q.isLt (place_cons_lt (bool_lt k) (place_nil_lt 0) (Nat.le_of_ble_eq_true rfl)) (Nat.le_of_ble_eq_true rfl)) (Nat.le_of_ble_eq_true rfl)) (Nat.le_of_ble_eq_true rfl)) (Nat.le_of_ble_eq_true rfl)) (Nat.le_of_ble_eq_true rfl)
  have hop := opcodeOf_slotWord (g := g) ho hf
  refine ⟨congrArg some (guardOf_slotWord ho hf).symm, _, rfl, decodeSlot_eq ?_⟩
  exact (decodeRaw_V hop (by decide)).trans ((arm_vfcmpLe hop).trans (accept_eq (holds_slotWord ho hf 18 2 0 (Nat.le_of_ble_eq_true rfl) (place_zero (place_cons_lt m.isLt (place_cons_lt a.isLt (place_cons_lt b.isLt (place_cons_lt p.isLt (place_cons_lt q.isLt (place_cons_lt (bool_lt k) (place_nil_lt 0) (Nat.le_of_ble_eq_true rfl)) (Nat.le_of_ble_eq_true rfl)) (Nat.le_of_ble_eq_true rfl)) (Nat.le_of_ble_eq_true rfl)) (Nat.le_of_ble_eq_true rfl)) (Nat.le_of_ble_eq_true rfl)))) (by rw [guardOf_slotWord ho hf, fld_slotWord ho hf 15 3 (Nat.le_of_ble_eq_true rfl) m (place_hit m.isLt (place_cons_lt a.isLt (place_cons_lt b.isLt (place_cons_lt p.isLt (place_cons_lt q.isLt (place_cons_lt (bool_lt k) (place_nil_lt 0) (Nat.le_of_ble_eq_true rfl)) (Nat.le_of_ble_eq_true rfl)) (Nat.le_of_ble_eq_true rfl)) (Nat.le_of_ble_eq_true rfl)) (Nat.le_of_ble_eq_true rfl))), fld_slotWord ho hf 10 5 (Nat.le_of_ble_eq_true rfl) a (place_skip (Nat.le_of_ble_eq_true rfl) (place_hit a.isLt (place_cons_lt b.isLt (place_cons_lt p.isLt (place_cons_lt q.isLt (place_cons_lt (bool_lt k) (place_nil_lt 0) (Nat.le_of_ble_eq_true rfl)) (Nat.le_of_ble_eq_true rfl)) (Nat.le_of_ble_eq_true rfl)) (Nat.le_of_ble_eq_true rfl)))), fld_slotWord ho hf 5 5 (Nat.le_of_ble_eq_true rfl) b (place_skip (Nat.le_of_ble_eq_true rfl) (place_skip (Nat.le_of_ble_eq_true rfl) (place_hit b.isLt (place_cons_lt p.isLt (place_cons_lt q.isLt (place_cons_lt (bool_lt k) (place_nil_lt 0) (Nat.le_of_ble_eq_true rfl)) (Nat.le_of_ble_eq_true rfl)) (Nat.le_of_ble_eq_true rfl))))), fld_slotWord ho hf 3 2 (Nat.le_of_ble_eq_true rfl) p (place_skip (Nat.le_of_ble_eq_true rfl) (place_skip (Nat.le_of_ble_eq_true rfl) (place_skip (Nat.le_of_ble_eq_true rfl) (place_hit p.isLt (place_cons_lt q.isLt (place_cons_lt (bool_lt k) (place_nil_lt 0) (Nat.le_of_ble_eq_true rfl)) (Nat.le_of_ble_eq_true rfl)))))), fld_slotWord ho hf 1 2 (Nat.le_of_ble_eq_true rfl) q (place_skip (Nat.le_of_ble_eq_true rfl) (place_skip (Nat.le_of_ble_eq_true rfl) (place_skip (Nat.le_of_ble_eq_true rfl) (place_skip (Nat.le_of_ble_eq_true rfl) (place_hit q.isLt (place_cons_lt (bool_lt k) (place_nil_lt 0) (Nat.le_of_ble_eq_true rfl))))))), flag_slotWord ho hf 0 (Nat.le_of_ble_eq_true rfl) k (place_skip (Nat.le_of_ble_eq_true rfl) (place_skip (Nat.le_of_ble_eq_true rfl) (place_skip (Nat.le_of_ble_eq_true rfl) (place_skip (Nat.le_of_ble_eq_true rfl) (place_skip (Nat.le_of_ble_eq_true rfl) (place_hit (bool_lt k) (place_nil_lt 0)))))))])))

theorem arm_vfcmpGt {w : BitVec 32} (hop : opcodeOf w = 0x34) : decodeV w = accept (holds w 18 2 0) (.vfcmpGt (guardOf w) (fld w 15 3) (fld w 10 5) (fld w 5 5) (fld w 3 2) (fld w 1 2) (flag w 0)) := by
  unfold decodeV
  simp only [hop]

theorem vfcmpGt (g : Guard) (m : BitVec 3) (a : BitVec 5) (b : BitVec 5) (p : BitVec 2) (q : BitVec 2) (k : Bool) : Statement (.vfcmpGt g m a b p q k) := by
  intro W hW
  obtain rfl : slotWord g 0x34 (place [(m.toNat, 15), (a.toNat, 10), (b.toNat, 5), (p.toNat, 3), (q.toNat, 1), (k.toNat, 0)]) = W := Option.some.inj hW
  have ho : 0x34 < 2 ^ 7 := Nat.le_of_ble_eq_true rfl
  have hf : place [(m.toNat, 15), (a.toNat, 10), (b.toNat, 5), (p.toNat, 3), (q.toNat, 1), (k.toNat, 0)] < 2 ^ 20 := place_cons_lt m.isLt (place_cons_lt a.isLt (place_cons_lt b.isLt (place_cons_lt p.isLt (place_cons_lt q.isLt (place_cons_lt (bool_lt k) (place_nil_lt 0) (Nat.le_of_ble_eq_true rfl)) (Nat.le_of_ble_eq_true rfl)) (Nat.le_of_ble_eq_true rfl)) (Nat.le_of_ble_eq_true rfl)) (Nat.le_of_ble_eq_true rfl)) (Nat.le_of_ble_eq_true rfl)
  have hop := opcodeOf_slotWord (g := g) ho hf
  refine ⟨congrArg some (guardOf_slotWord ho hf).symm, _, rfl, decodeSlot_eq ?_⟩
  exact (decodeRaw_V hop (by decide)).trans ((arm_vfcmpGt hop).trans (accept_eq (holds_slotWord ho hf 18 2 0 (Nat.le_of_ble_eq_true rfl) (place_zero (place_cons_lt m.isLt (place_cons_lt a.isLt (place_cons_lt b.isLt (place_cons_lt p.isLt (place_cons_lt q.isLt (place_cons_lt (bool_lt k) (place_nil_lt 0) (Nat.le_of_ble_eq_true rfl)) (Nat.le_of_ble_eq_true rfl)) (Nat.le_of_ble_eq_true rfl)) (Nat.le_of_ble_eq_true rfl)) (Nat.le_of_ble_eq_true rfl)) (Nat.le_of_ble_eq_true rfl)))) (by rw [guardOf_slotWord ho hf, fld_slotWord ho hf 15 3 (Nat.le_of_ble_eq_true rfl) m (place_hit m.isLt (place_cons_lt a.isLt (place_cons_lt b.isLt (place_cons_lt p.isLt (place_cons_lt q.isLt (place_cons_lt (bool_lt k) (place_nil_lt 0) (Nat.le_of_ble_eq_true rfl)) (Nat.le_of_ble_eq_true rfl)) (Nat.le_of_ble_eq_true rfl)) (Nat.le_of_ble_eq_true rfl)) (Nat.le_of_ble_eq_true rfl))), fld_slotWord ho hf 10 5 (Nat.le_of_ble_eq_true rfl) a (place_skip (Nat.le_of_ble_eq_true rfl) (place_hit a.isLt (place_cons_lt b.isLt (place_cons_lt p.isLt (place_cons_lt q.isLt (place_cons_lt (bool_lt k) (place_nil_lt 0) (Nat.le_of_ble_eq_true rfl)) (Nat.le_of_ble_eq_true rfl)) (Nat.le_of_ble_eq_true rfl)) (Nat.le_of_ble_eq_true rfl)))), fld_slotWord ho hf 5 5 (Nat.le_of_ble_eq_true rfl) b (place_skip (Nat.le_of_ble_eq_true rfl) (place_skip (Nat.le_of_ble_eq_true rfl) (place_hit b.isLt (place_cons_lt p.isLt (place_cons_lt q.isLt (place_cons_lt (bool_lt k) (place_nil_lt 0) (Nat.le_of_ble_eq_true rfl)) (Nat.le_of_ble_eq_true rfl)) (Nat.le_of_ble_eq_true rfl))))), fld_slotWord ho hf 3 2 (Nat.le_of_ble_eq_true rfl) p (place_skip (Nat.le_of_ble_eq_true rfl) (place_skip (Nat.le_of_ble_eq_true rfl) (place_skip (Nat.le_of_ble_eq_true rfl) (place_hit p.isLt (place_cons_lt q.isLt (place_cons_lt (bool_lt k) (place_nil_lt 0) (Nat.le_of_ble_eq_true rfl)) (Nat.le_of_ble_eq_true rfl)))))), fld_slotWord ho hf 1 2 (Nat.le_of_ble_eq_true rfl) q (place_skip (Nat.le_of_ble_eq_true rfl) (place_skip (Nat.le_of_ble_eq_true rfl) (place_skip (Nat.le_of_ble_eq_true rfl) (place_skip (Nat.le_of_ble_eq_true rfl) (place_hit q.isLt (place_cons_lt (bool_lt k) (place_nil_lt 0) (Nat.le_of_ble_eq_true rfl))))))), flag_slotWord ho hf 0 (Nat.le_of_ble_eq_true rfl) k (place_skip (Nat.le_of_ble_eq_true rfl) (place_skip (Nat.le_of_ble_eq_true rfl) (place_skip (Nat.le_of_ble_eq_true rfl) (place_skip (Nat.le_of_ble_eq_true rfl) (place_skip (Nat.le_of_ble_eq_true rfl) (place_hit (bool_lt k) (place_nil_lt 0)))))))])))

theorem arm_vfcmpGe {w : BitVec 32} (hop : opcodeOf w = 0x35) : decodeV w = accept (holds w 18 2 0) (.vfcmpGe (guardOf w) (fld w 15 3) (fld w 10 5) (fld w 5 5) (fld w 3 2) (fld w 1 2) (flag w 0)) := by
  unfold decodeV
  simp only [hop]

theorem vfcmpGe (g : Guard) (m : BitVec 3) (a : BitVec 5) (b : BitVec 5) (p : BitVec 2) (q : BitVec 2) (k : Bool) : Statement (.vfcmpGe g m a b p q k) := by
  intro W hW
  obtain rfl : slotWord g 0x35 (place [(m.toNat, 15), (a.toNat, 10), (b.toNat, 5), (p.toNat, 3), (q.toNat, 1), (k.toNat, 0)]) = W := Option.some.inj hW
  have ho : 0x35 < 2 ^ 7 := Nat.le_of_ble_eq_true rfl
  have hf : place [(m.toNat, 15), (a.toNat, 10), (b.toNat, 5), (p.toNat, 3), (q.toNat, 1), (k.toNat, 0)] < 2 ^ 20 := place_cons_lt m.isLt (place_cons_lt a.isLt (place_cons_lt b.isLt (place_cons_lt p.isLt (place_cons_lt q.isLt (place_cons_lt (bool_lt k) (place_nil_lt 0) (Nat.le_of_ble_eq_true rfl)) (Nat.le_of_ble_eq_true rfl)) (Nat.le_of_ble_eq_true rfl)) (Nat.le_of_ble_eq_true rfl)) (Nat.le_of_ble_eq_true rfl)) (Nat.le_of_ble_eq_true rfl)
  have hop := opcodeOf_slotWord (g := g) ho hf
  refine ⟨congrArg some (guardOf_slotWord ho hf).symm, _, rfl, decodeSlot_eq ?_⟩
  exact (decodeRaw_V hop (by decide)).trans ((arm_vfcmpGe hop).trans (accept_eq (holds_slotWord ho hf 18 2 0 (Nat.le_of_ble_eq_true rfl) (place_zero (place_cons_lt m.isLt (place_cons_lt a.isLt (place_cons_lt b.isLt (place_cons_lt p.isLt (place_cons_lt q.isLt (place_cons_lt (bool_lt k) (place_nil_lt 0) (Nat.le_of_ble_eq_true rfl)) (Nat.le_of_ble_eq_true rfl)) (Nat.le_of_ble_eq_true rfl)) (Nat.le_of_ble_eq_true rfl)) (Nat.le_of_ble_eq_true rfl)) (Nat.le_of_ble_eq_true rfl)))) (by rw [guardOf_slotWord ho hf, fld_slotWord ho hf 15 3 (Nat.le_of_ble_eq_true rfl) m (place_hit m.isLt (place_cons_lt a.isLt (place_cons_lt b.isLt (place_cons_lt p.isLt (place_cons_lt q.isLt (place_cons_lt (bool_lt k) (place_nil_lt 0) (Nat.le_of_ble_eq_true rfl)) (Nat.le_of_ble_eq_true rfl)) (Nat.le_of_ble_eq_true rfl)) (Nat.le_of_ble_eq_true rfl)) (Nat.le_of_ble_eq_true rfl))), fld_slotWord ho hf 10 5 (Nat.le_of_ble_eq_true rfl) a (place_skip (Nat.le_of_ble_eq_true rfl) (place_hit a.isLt (place_cons_lt b.isLt (place_cons_lt p.isLt (place_cons_lt q.isLt (place_cons_lt (bool_lt k) (place_nil_lt 0) (Nat.le_of_ble_eq_true rfl)) (Nat.le_of_ble_eq_true rfl)) (Nat.le_of_ble_eq_true rfl)) (Nat.le_of_ble_eq_true rfl)))), fld_slotWord ho hf 5 5 (Nat.le_of_ble_eq_true rfl) b (place_skip (Nat.le_of_ble_eq_true rfl) (place_skip (Nat.le_of_ble_eq_true rfl) (place_hit b.isLt (place_cons_lt p.isLt (place_cons_lt q.isLt (place_cons_lt (bool_lt k) (place_nil_lt 0) (Nat.le_of_ble_eq_true rfl)) (Nat.le_of_ble_eq_true rfl)) (Nat.le_of_ble_eq_true rfl))))), fld_slotWord ho hf 3 2 (Nat.le_of_ble_eq_true rfl) p (place_skip (Nat.le_of_ble_eq_true rfl) (place_skip (Nat.le_of_ble_eq_true rfl) (place_skip (Nat.le_of_ble_eq_true rfl) (place_hit p.isLt (place_cons_lt q.isLt (place_cons_lt (bool_lt k) (place_nil_lt 0) (Nat.le_of_ble_eq_true rfl)) (Nat.le_of_ble_eq_true rfl)))))), fld_slotWord ho hf 1 2 (Nat.le_of_ble_eq_true rfl) q (place_skip (Nat.le_of_ble_eq_true rfl) (place_skip (Nat.le_of_ble_eq_true rfl) (place_skip (Nat.le_of_ble_eq_true rfl) (place_skip (Nat.le_of_ble_eq_true rfl) (place_hit q.isLt (place_cons_lt (bool_lt k) (place_nil_lt 0) (Nat.le_of_ble_eq_true rfl))))))), flag_slotWord ho hf 0 (Nat.le_of_ble_eq_true rfl) k (place_skip (Nat.le_of_ble_eq_true rfl) (place_skip (Nat.le_of_ble_eq_true rfl) (place_skip (Nat.le_of_ble_eq_true rfl) (place_skip (Nat.le_of_ble_eq_true rfl) (place_skip (Nat.le_of_ble_eq_true rfl) (place_hit (bool_lt k) (place_nil_lt 0)))))))])))

theorem arm_vcvt {w : BitVec 32} (hop : opcodeOf w = 0x38) : decodeV w = accept (holds w 2 1 0) (.vcvt (guardOf w) (fld w 15 5) (fld w 10 5) (fld w 5 5) (fld w 3 2) (flag w 1) (flag w 0)) := by
  unfold decodeV
  simp only [hop]

theorem vcvt (g : Guard) (d : BitVec 5) (a : BitVec 5) (t : BitVec 5) (p : BitVec 2) (sr : Bool) (k : Bool) : Statement (.vcvt g d a t p sr k) := by
  intro W hW
  obtain rfl : slotWord g 0x38 (place [(d.toNat, 15), (a.toNat, 10), (t.toNat, 5), (p.toNat, 3), (sr.toNat, 1), (k.toNat, 0)]) = W := Option.some.inj hW
  have ho : 0x38 < 2 ^ 7 := Nat.le_of_ble_eq_true rfl
  have hf : place [(d.toNat, 15), (a.toNat, 10), (t.toNat, 5), (p.toNat, 3), (sr.toNat, 1), (k.toNat, 0)] < 2 ^ 20 := place_cons_lt d.isLt (place_cons_lt a.isLt (place_cons_lt t.isLt (place_cons_lt p.isLt (place_cons_lt (bool_lt sr) (place_cons_lt (bool_lt k) (place_nil_lt 0) (Nat.le_of_ble_eq_true rfl)) (Nat.le_of_ble_eq_true rfl)) (Nat.le_of_ble_eq_true rfl)) (Nat.le_of_ble_eq_true rfl)) (Nat.le_of_ble_eq_true rfl)) (Nat.le_of_ble_eq_true rfl)
  have hop := opcodeOf_slotWord (g := g) ho hf
  refine ⟨congrArg some (guardOf_slotWord ho hf).symm, _, rfl, decodeSlot_eq ?_⟩
  exact (decodeRaw_V hop (by decide)).trans ((arm_vcvt hop).trans (accept_eq (holds_slotWord ho hf 2 1 0 (Nat.le_of_ble_eq_true rfl) (place_skip (Nat.le_of_ble_eq_true rfl) (place_skip (Nat.le_of_ble_eq_true rfl) (place_skip (Nat.le_of_ble_eq_true rfl) (place_skip (Nat.le_of_ble_eq_true rfl) (place_zero (place_cons_lt (bool_lt sr) (place_cons_lt (bool_lt k) (place_nil_lt 0) (Nat.le_of_ble_eq_true rfl)) (Nat.le_of_ble_eq_true rfl)))))))) (by rw [guardOf_slotWord ho hf, fld_slotWord ho hf 15 5 (Nat.le_of_ble_eq_true rfl) d (place_hit d.isLt (place_cons_lt a.isLt (place_cons_lt t.isLt (place_cons_lt p.isLt (place_cons_lt (bool_lt sr) (place_cons_lt (bool_lt k) (place_nil_lt 0) (Nat.le_of_ble_eq_true rfl)) (Nat.le_of_ble_eq_true rfl)) (Nat.le_of_ble_eq_true rfl)) (Nat.le_of_ble_eq_true rfl)) (Nat.le_of_ble_eq_true rfl))), fld_slotWord ho hf 10 5 (Nat.le_of_ble_eq_true rfl) a (place_skip (Nat.le_of_ble_eq_true rfl) (place_hit a.isLt (place_cons_lt t.isLt (place_cons_lt p.isLt (place_cons_lt (bool_lt sr) (place_cons_lt (bool_lt k) (place_nil_lt 0) (Nat.le_of_ble_eq_true rfl)) (Nat.le_of_ble_eq_true rfl)) (Nat.le_of_ble_eq_true rfl)) (Nat.le_of_ble_eq_true rfl)))), fld_slotWord ho hf 5 5 (Nat.le_of_ble_eq_true rfl) t (place_skip (Nat.le_of_ble_eq_true rfl) (place_skip (Nat.le_of_ble_eq_true rfl) (place_hit t.isLt (place_cons_lt p.isLt (place_cons_lt (bool_lt sr) (place_cons_lt (bool_lt k) (place_nil_lt 0) (Nat.le_of_ble_eq_true rfl)) (Nat.le_of_ble_eq_true rfl)) (Nat.le_of_ble_eq_true rfl))))), fld_slotWord ho hf 3 2 (Nat.le_of_ble_eq_true rfl) p (place_skip (Nat.le_of_ble_eq_true rfl) (place_skip (Nat.le_of_ble_eq_true rfl) (place_skip (Nat.le_of_ble_eq_true rfl) (place_hit p.isLt (place_cons_lt (bool_lt sr) (place_cons_lt (bool_lt k) (place_nil_lt 0) (Nat.le_of_ble_eq_true rfl)) (Nat.le_of_ble_eq_true rfl)))))), flag_slotWord ho hf 1 (Nat.le_of_ble_eq_true rfl) sr (place_skip (Nat.le_of_ble_eq_true rfl) (place_skip (Nat.le_of_ble_eq_true rfl) (place_skip (Nat.le_of_ble_eq_true rfl) (place_skip (Nat.le_of_ble_eq_true rfl) (place_hit (bool_lt sr) (place_cons_lt (bool_lt k) (place_nil_lt 0) (Nat.le_of_ble_eq_true rfl))))))), flag_slotWord ho hf 0 (Nat.le_of_ble_eq_true rfl) k (place_skip (Nat.le_of_ble_eq_true rfl) (place_skip (Nat.le_of_ble_eq_true rfl) (place_skip (Nat.le_of_ble_eq_true rfl) (place_skip (Nat.le_of_ble_eq_true rfl) (place_skip (Nat.le_of_ble_eq_true rfl) (place_hit (bool_lt k) (place_nil_lt 0)))))))])))

theorem arm_vmxpack {w : BitVec 32} (hop : opcodeOf w = 0x39) : decodeV w = accept (holds w 0 3 0) (.vmxpack (guardOf w) (fld w 15 5) (fld w 10 5) (fld w 5 5) (fld w 3 2)) := by
  unfold decodeV
  simp only [hop]

theorem vmxpack (g : Guard) (d : BitVec 5) (a : BitVec 5) (f : BitVec 5) (p : BitVec 2) : Statement (.vmxpack g d a f p) := by
  intro W hW
  obtain rfl : slotWord g 0x39 (place [(d.toNat, 15), (a.toNat, 10), (f.toNat, 5), (p.toNat, 3)]) = W := Option.some.inj hW
  have ho : 0x39 < 2 ^ 7 := Nat.le_of_ble_eq_true rfl
  have hf : place [(d.toNat, 15), (a.toNat, 10), (f.toNat, 5), (p.toNat, 3)] < 2 ^ 20 := place_cons_lt d.isLt (place_cons_lt a.isLt (place_cons_lt f.isLt (place_cons_lt p.isLt (place_nil_lt 3) (Nat.le_of_ble_eq_true rfl)) (Nat.le_of_ble_eq_true rfl)) (Nat.le_of_ble_eq_true rfl)) (Nat.le_of_ble_eq_true rfl)
  have hop := opcodeOf_slotWord (g := g) ho hf
  refine ⟨congrArg some (guardOf_slotWord ho hf).symm, _, rfl, decodeSlot_eq ?_⟩
  exact (decodeRaw_V hop (by decide)).trans ((arm_vmxpack hop).trans (accept_eq (holds_slotWord ho hf 0 3 0 (Nat.le_of_ble_eq_true rfl) (place_skip (Nat.le_of_ble_eq_true rfl) (place_skip (Nat.le_of_ble_eq_true rfl) (place_skip (Nat.le_of_ble_eq_true rfl) (place_skip (Nat.le_of_ble_eq_true rfl) (place_zero (place_nil_lt 0))))))) (by rw [guardOf_slotWord ho hf, fld_slotWord ho hf 15 5 (Nat.le_of_ble_eq_true rfl) d (place_hit d.isLt (place_cons_lt a.isLt (place_cons_lt f.isLt (place_cons_lt p.isLt (place_nil_lt 3) (Nat.le_of_ble_eq_true rfl)) (Nat.le_of_ble_eq_true rfl)) (Nat.le_of_ble_eq_true rfl))), fld_slotWord ho hf 10 5 (Nat.le_of_ble_eq_true rfl) a (place_skip (Nat.le_of_ble_eq_true rfl) (place_hit a.isLt (place_cons_lt f.isLt (place_cons_lt p.isLt (place_nil_lt 3) (Nat.le_of_ble_eq_true rfl)) (Nat.le_of_ble_eq_true rfl)))), fld_slotWord ho hf 5 5 (Nat.le_of_ble_eq_true rfl) f (place_skip (Nat.le_of_ble_eq_true rfl) (place_skip (Nat.le_of_ble_eq_true rfl) (place_hit f.isLt (place_cons_lt p.isLt (place_nil_lt 3) (Nat.le_of_ble_eq_true rfl))))), fld_slotWord ho hf 3 2 (Nat.le_of_ble_eq_true rfl) p (place_skip (Nat.le_of_ble_eq_true rfl) (place_skip (Nat.le_of_ble_eq_true rfl) (place_skip (Nat.le_of_ble_eq_true rfl) (place_hit p.isLt (place_nil_lt 3)))))])))

theorem arm_vmxunpack {w : BitVec 32} (hop : opcodeOf w = 0x3A) : decodeV w = accept (holds w 0 3 0) (.vmxunpack (guardOf w) (fld w 15 5) (fld w 10 5) (fld w 5 5) (fld w 3 2)) := by
  unfold decodeV
  simp only [hop]

theorem vmxunpack (g : Guard) (d : BitVec 5) (a : BitVec 5) (f : BitVec 5) (p : BitVec 2) : Statement (.vmxunpack g d a f p) := by
  intro W hW
  obtain rfl : slotWord g 0x3A (place [(d.toNat, 15), (a.toNat, 10), (f.toNat, 5), (p.toNat, 3)]) = W := Option.some.inj hW
  have ho : 0x3A < 2 ^ 7 := Nat.le_of_ble_eq_true rfl
  have hf : place [(d.toNat, 15), (a.toNat, 10), (f.toNat, 5), (p.toNat, 3)] < 2 ^ 20 := place_cons_lt d.isLt (place_cons_lt a.isLt (place_cons_lt f.isLt (place_cons_lt p.isLt (place_nil_lt 3) (Nat.le_of_ble_eq_true rfl)) (Nat.le_of_ble_eq_true rfl)) (Nat.le_of_ble_eq_true rfl)) (Nat.le_of_ble_eq_true rfl)
  have hop := opcodeOf_slotWord (g := g) ho hf
  refine ⟨congrArg some (guardOf_slotWord ho hf).symm, _, rfl, decodeSlot_eq ?_⟩
  exact (decodeRaw_V hop (by decide)).trans ((arm_vmxunpack hop).trans (accept_eq (holds_slotWord ho hf 0 3 0 (Nat.le_of_ble_eq_true rfl) (place_skip (Nat.le_of_ble_eq_true rfl) (place_skip (Nat.le_of_ble_eq_true rfl) (place_skip (Nat.le_of_ble_eq_true rfl) (place_skip (Nat.le_of_ble_eq_true rfl) (place_zero (place_nil_lt 0))))))) (by rw [guardOf_slotWord ho hf, fld_slotWord ho hf 15 5 (Nat.le_of_ble_eq_true rfl) d (place_hit d.isLt (place_cons_lt a.isLt (place_cons_lt f.isLt (place_cons_lt p.isLt (place_nil_lt 3) (Nat.le_of_ble_eq_true rfl)) (Nat.le_of_ble_eq_true rfl)) (Nat.le_of_ble_eq_true rfl))), fld_slotWord ho hf 10 5 (Nat.le_of_ble_eq_true rfl) a (place_skip (Nat.le_of_ble_eq_true rfl) (place_hit a.isLt (place_cons_lt f.isLt (place_cons_lt p.isLt (place_nil_lt 3) (Nat.le_of_ble_eq_true rfl)) (Nat.le_of_ble_eq_true rfl)))), fld_slotWord ho hf 5 5 (Nat.le_of_ble_eq_true rfl) f (place_skip (Nat.le_of_ble_eq_true rfl) (place_skip (Nat.le_of_ble_eq_true rfl) (place_hit f.isLt (place_cons_lt p.isLt (place_nil_lt 3) (Nat.le_of_ble_eq_true rfl))))), fld_slotWord ho hf 3 2 (Nat.le_of_ble_eq_true rfl) p (place_skip (Nat.le_of_ble_eq_true rfl) (place_skip (Nat.le_of_ble_eq_true rfl) (place_skip (Nat.le_of_ble_eq_true rfl) (place_hit p.isLt (place_nil_lt 3)))))])))

theorem arm_vredadd {w : BitVec 32} (hop : opcodeOf w = 0x40) : decodeV w = accept (holds w 1 2 0 && holds w 5 5 0) (.vredadd (guardOf w) (fld w 15 5) (fld w 10 5) (fld w 3 2) (flag w 0)) := by
  unfold decodeV
  simp only [hop]

theorem vredadd (g : Guard) (d : BitVec 5) (a : BitVec 5) (p : BitVec 2) (k : Bool) : Statement (.vredadd g d a p k) := by
  intro W hW
  obtain rfl : slotWord g 0x40 (place [(d.toNat, 15), (a.toNat, 10), (p.toNat, 3), (k.toNat, 0)]) = W := Option.some.inj hW
  have ho : 0x40 < 2 ^ 7 := Nat.le_of_ble_eq_true rfl
  have hf : place [(d.toNat, 15), (a.toNat, 10), (p.toNat, 3), (k.toNat, 0)] < 2 ^ 20 := place_cons_lt d.isLt (place_cons_lt a.isLt (place_cons_lt p.isLt (place_cons_lt (bool_lt k) (place_nil_lt 0) (Nat.le_of_ble_eq_true rfl)) (Nat.le_of_ble_eq_true rfl)) (Nat.le_of_ble_eq_true rfl)) (Nat.le_of_ble_eq_true rfl)
  have hop := opcodeOf_slotWord (g := g) ho hf
  refine ⟨congrArg some (guardOf_slotWord ho hf).symm, _, rfl, decodeSlot_eq ?_⟩
  exact (decodeRaw_V hop (by decide)).trans ((arm_vredadd hop).trans (accept_eq (Bool.and_eq_true_iff.mpr ⟨(holds_slotWord ho hf 1 2 0 (Nat.le_of_ble_eq_true rfl) (place_skip (Nat.le_of_ble_eq_true rfl) (place_skip (Nat.le_of_ble_eq_true rfl) (place_skip (Nat.le_of_ble_eq_true rfl) (place_zero (place_cons_lt (bool_lt k) (place_nil_lt 0) (Nat.le_of_ble_eq_true rfl))))))), (holds_slotWord ho hf 5 5 0 (Nat.le_of_ble_eq_true rfl) (place_skip (Nat.le_of_ble_eq_true rfl) (place_skip (Nat.le_of_ble_eq_true rfl) (place_zero (place_cons_lt p.isLt (place_cons_lt (bool_lt k) (place_nil_lt 0) (Nat.le_of_ble_eq_true rfl)) (Nat.le_of_ble_eq_true rfl))))))⟩) (by rw [guardOf_slotWord ho hf, fld_slotWord ho hf 15 5 (Nat.le_of_ble_eq_true rfl) d (place_hit d.isLt (place_cons_lt a.isLt (place_cons_lt p.isLt (place_cons_lt (bool_lt k) (place_nil_lt 0) (Nat.le_of_ble_eq_true rfl)) (Nat.le_of_ble_eq_true rfl)) (Nat.le_of_ble_eq_true rfl))), fld_slotWord ho hf 10 5 (Nat.le_of_ble_eq_true rfl) a (place_skip (Nat.le_of_ble_eq_true rfl) (place_hit a.isLt (place_cons_lt p.isLt (place_cons_lt (bool_lt k) (place_nil_lt 0) (Nat.le_of_ble_eq_true rfl)) (Nat.le_of_ble_eq_true rfl)))), fld_slotWord ho hf 3 2 (Nat.le_of_ble_eq_true rfl) p (place_skip (Nat.le_of_ble_eq_true rfl) (place_skip (Nat.le_of_ble_eq_true rfl) (place_hit p.isLt (place_cons_lt (bool_lt k) (place_nil_lt 0) (Nat.le_of_ble_eq_true rfl))))), flag_slotWord ho hf 0 (Nat.le_of_ble_eq_true rfl) k (place_skip (Nat.le_of_ble_eq_true rfl) (place_skip (Nat.le_of_ble_eq_true rfl) (place_skip (Nat.le_of_ble_eq_true rfl) (place_hit (bool_lt k) (place_nil_lt 0)))))])))

theorem arm_vredmin {w : BitVec 32} (hop : opcodeOf w = 0x41) : decodeV w = accept (holds w 1 2 0 && holds w 5 5 0) (.vredmin (guardOf w) (fld w 15 5) (fld w 10 5) (fld w 3 2) (flag w 0)) := by
  unfold decodeV
  simp only [hop]

theorem vredmin (g : Guard) (d : BitVec 5) (a : BitVec 5) (p : BitVec 2) (k : Bool) : Statement (.vredmin g d a p k) := by
  intro W hW
  obtain rfl : slotWord g 0x41 (place [(d.toNat, 15), (a.toNat, 10), (p.toNat, 3), (k.toNat, 0)]) = W := Option.some.inj hW
  have ho : 0x41 < 2 ^ 7 := Nat.le_of_ble_eq_true rfl
  have hf : place [(d.toNat, 15), (a.toNat, 10), (p.toNat, 3), (k.toNat, 0)] < 2 ^ 20 := place_cons_lt d.isLt (place_cons_lt a.isLt (place_cons_lt p.isLt (place_cons_lt (bool_lt k) (place_nil_lt 0) (Nat.le_of_ble_eq_true rfl)) (Nat.le_of_ble_eq_true rfl)) (Nat.le_of_ble_eq_true rfl)) (Nat.le_of_ble_eq_true rfl)
  have hop := opcodeOf_slotWord (g := g) ho hf
  refine ⟨congrArg some (guardOf_slotWord ho hf).symm, _, rfl, decodeSlot_eq ?_⟩
  exact (decodeRaw_V hop (by decide)).trans ((arm_vredmin hop).trans (accept_eq (Bool.and_eq_true_iff.mpr ⟨(holds_slotWord ho hf 1 2 0 (Nat.le_of_ble_eq_true rfl) (place_skip (Nat.le_of_ble_eq_true rfl) (place_skip (Nat.le_of_ble_eq_true rfl) (place_skip (Nat.le_of_ble_eq_true rfl) (place_zero (place_cons_lt (bool_lt k) (place_nil_lt 0) (Nat.le_of_ble_eq_true rfl))))))), (holds_slotWord ho hf 5 5 0 (Nat.le_of_ble_eq_true rfl) (place_skip (Nat.le_of_ble_eq_true rfl) (place_skip (Nat.le_of_ble_eq_true rfl) (place_zero (place_cons_lt p.isLt (place_cons_lt (bool_lt k) (place_nil_lt 0) (Nat.le_of_ble_eq_true rfl)) (Nat.le_of_ble_eq_true rfl))))))⟩) (by rw [guardOf_slotWord ho hf, fld_slotWord ho hf 15 5 (Nat.le_of_ble_eq_true rfl) d (place_hit d.isLt (place_cons_lt a.isLt (place_cons_lt p.isLt (place_cons_lt (bool_lt k) (place_nil_lt 0) (Nat.le_of_ble_eq_true rfl)) (Nat.le_of_ble_eq_true rfl)) (Nat.le_of_ble_eq_true rfl))), fld_slotWord ho hf 10 5 (Nat.le_of_ble_eq_true rfl) a (place_skip (Nat.le_of_ble_eq_true rfl) (place_hit a.isLt (place_cons_lt p.isLt (place_cons_lt (bool_lt k) (place_nil_lt 0) (Nat.le_of_ble_eq_true rfl)) (Nat.le_of_ble_eq_true rfl)))), fld_slotWord ho hf 3 2 (Nat.le_of_ble_eq_true rfl) p (place_skip (Nat.le_of_ble_eq_true rfl) (place_skip (Nat.le_of_ble_eq_true rfl) (place_hit p.isLt (place_cons_lt (bool_lt k) (place_nil_lt 0) (Nat.le_of_ble_eq_true rfl))))), flag_slotWord ho hf 0 (Nat.le_of_ble_eq_true rfl) k (place_skip (Nat.le_of_ble_eq_true rfl) (place_skip (Nat.le_of_ble_eq_true rfl) (place_skip (Nat.le_of_ble_eq_true rfl) (place_hit (bool_lt k) (place_nil_lt 0)))))])))

theorem arm_vredmax {w : BitVec 32} (hop : opcodeOf w = 0x42) : decodeV w = accept (holds w 1 2 0 && holds w 5 5 0) (.vredmax (guardOf w) (fld w 15 5) (fld w 10 5) (fld w 3 2) (flag w 0)) := by
  unfold decodeV
  simp only [hop]

theorem vredmax (g : Guard) (d : BitVec 5) (a : BitVec 5) (p : BitVec 2) (k : Bool) : Statement (.vredmax g d a p k) := by
  intro W hW
  obtain rfl : slotWord g 0x42 (place [(d.toNat, 15), (a.toNat, 10), (p.toNat, 3), (k.toNat, 0)]) = W := Option.some.inj hW
  have ho : 0x42 < 2 ^ 7 := Nat.le_of_ble_eq_true rfl
  have hf : place [(d.toNat, 15), (a.toNat, 10), (p.toNat, 3), (k.toNat, 0)] < 2 ^ 20 := place_cons_lt d.isLt (place_cons_lt a.isLt (place_cons_lt p.isLt (place_cons_lt (bool_lt k) (place_nil_lt 0) (Nat.le_of_ble_eq_true rfl)) (Nat.le_of_ble_eq_true rfl)) (Nat.le_of_ble_eq_true rfl)) (Nat.le_of_ble_eq_true rfl)
  have hop := opcodeOf_slotWord (g := g) ho hf
  refine ⟨congrArg some (guardOf_slotWord ho hf).symm, _, rfl, decodeSlot_eq ?_⟩
  exact (decodeRaw_V hop (by decide)).trans ((arm_vredmax hop).trans (accept_eq (Bool.and_eq_true_iff.mpr ⟨(holds_slotWord ho hf 1 2 0 (Nat.le_of_ble_eq_true rfl) (place_skip (Nat.le_of_ble_eq_true rfl) (place_skip (Nat.le_of_ble_eq_true rfl) (place_skip (Nat.le_of_ble_eq_true rfl) (place_zero (place_cons_lt (bool_lt k) (place_nil_lt 0) (Nat.le_of_ble_eq_true rfl))))))), (holds_slotWord ho hf 5 5 0 (Nat.le_of_ble_eq_true rfl) (place_skip (Nat.le_of_ble_eq_true rfl) (place_skip (Nat.le_of_ble_eq_true rfl) (place_zero (place_cons_lt p.isLt (place_cons_lt (bool_lt k) (place_nil_lt 0) (Nat.le_of_ble_eq_true rfl)) (Nat.le_of_ble_eq_true rfl))))))⟩) (by rw [guardOf_slotWord ho hf, fld_slotWord ho hf 15 5 (Nat.le_of_ble_eq_true rfl) d (place_hit d.isLt (place_cons_lt a.isLt (place_cons_lt p.isLt (place_cons_lt (bool_lt k) (place_nil_lt 0) (Nat.le_of_ble_eq_true rfl)) (Nat.le_of_ble_eq_true rfl)) (Nat.le_of_ble_eq_true rfl))), fld_slotWord ho hf 10 5 (Nat.le_of_ble_eq_true rfl) a (place_skip (Nat.le_of_ble_eq_true rfl) (place_hit a.isLt (place_cons_lt p.isLt (place_cons_lt (bool_lt k) (place_nil_lt 0) (Nat.le_of_ble_eq_true rfl)) (Nat.le_of_ble_eq_true rfl)))), fld_slotWord ho hf 3 2 (Nat.le_of_ble_eq_true rfl) p (place_skip (Nat.le_of_ble_eq_true rfl) (place_skip (Nat.le_of_ble_eq_true rfl) (place_hit p.isLt (place_cons_lt (bool_lt k) (place_nil_lt 0) (Nat.le_of_ble_eq_true rfl))))), flag_slotWord ho hf 0 (Nat.le_of_ble_eq_true rfl) k (place_skip (Nat.le_of_ble_eq_true rfl) (place_skip (Nat.le_of_ble_eq_true rfl) (place_skip (Nat.le_of_ble_eq_true rfl) (place_hit (bool_lt k) (place_nil_lt 0)))))])))

theorem arm_vscan {w : BitVec 32} (hop : opcodeOf w = 0x43) : decodeV w = accept (holds w 1 2 0 && holds w 5 5 0) (.vscan (guardOf w) (fld w 15 5) (fld w 10 5) (fld w 3 2) (flag w 0)) := by
  unfold decodeV
  simp only [hop]

theorem vscan (g : Guard) (d : BitVec 5) (a : BitVec 5) (p : BitVec 2) (k : Bool) : Statement (.vscan g d a p k) := by
  intro W hW
  obtain rfl : slotWord g 0x43 (place [(d.toNat, 15), (a.toNat, 10), (p.toNat, 3), (k.toNat, 0)]) = W := Option.some.inj hW
  have ho : 0x43 < 2 ^ 7 := Nat.le_of_ble_eq_true rfl
  have hf : place [(d.toNat, 15), (a.toNat, 10), (p.toNat, 3), (k.toNat, 0)] < 2 ^ 20 := place_cons_lt d.isLt (place_cons_lt a.isLt (place_cons_lt p.isLt (place_cons_lt (bool_lt k) (place_nil_lt 0) (Nat.le_of_ble_eq_true rfl)) (Nat.le_of_ble_eq_true rfl)) (Nat.le_of_ble_eq_true rfl)) (Nat.le_of_ble_eq_true rfl)
  have hop := opcodeOf_slotWord (g := g) ho hf
  refine ⟨congrArg some (guardOf_slotWord ho hf).symm, _, rfl, decodeSlot_eq ?_⟩
  exact (decodeRaw_V hop (by decide)).trans ((arm_vscan hop).trans (accept_eq (Bool.and_eq_true_iff.mpr ⟨(holds_slotWord ho hf 1 2 0 (Nat.le_of_ble_eq_true rfl) (place_skip (Nat.le_of_ble_eq_true rfl) (place_skip (Nat.le_of_ble_eq_true rfl) (place_skip (Nat.le_of_ble_eq_true rfl) (place_zero (place_cons_lt (bool_lt k) (place_nil_lt 0) (Nat.le_of_ble_eq_true rfl))))))), (holds_slotWord ho hf 5 5 0 (Nat.le_of_ble_eq_true rfl) (place_skip (Nat.le_of_ble_eq_true rfl) (place_skip (Nat.le_of_ble_eq_true rfl) (place_zero (place_cons_lt p.isLt (place_cons_lt (bool_lt k) (place_nil_lt 0) (Nat.le_of_ble_eq_true rfl)) (Nat.le_of_ble_eq_true rfl))))))⟩) (by rw [guardOf_slotWord ho hf, fld_slotWord ho hf 15 5 (Nat.le_of_ble_eq_true rfl) d (place_hit d.isLt (place_cons_lt a.isLt (place_cons_lt p.isLt (place_cons_lt (bool_lt k) (place_nil_lt 0) (Nat.le_of_ble_eq_true rfl)) (Nat.le_of_ble_eq_true rfl)) (Nat.le_of_ble_eq_true rfl))), fld_slotWord ho hf 10 5 (Nat.le_of_ble_eq_true rfl) a (place_skip (Nat.le_of_ble_eq_true rfl) (place_hit a.isLt (place_cons_lt p.isLt (place_cons_lt (bool_lt k) (place_nil_lt 0) (Nat.le_of_ble_eq_true rfl)) (Nat.le_of_ble_eq_true rfl)))), fld_slotWord ho hf 3 2 (Nat.le_of_ble_eq_true rfl) p (place_skip (Nat.le_of_ble_eq_true rfl) (place_skip (Nat.le_of_ble_eq_true rfl) (place_hit p.isLt (place_cons_lt (bool_lt k) (place_nil_lt 0) (Nat.le_of_ble_eq_true rfl))))), flag_slotWord ho hf 0 (Nat.le_of_ble_eq_true rfl) k (place_skip (Nat.le_of_ble_eq_true rfl) (place_skip (Nat.le_of_ble_eq_true rfl) (place_skip (Nat.le_of_ble_eq_true rfl) (place_hit (bool_lt k) (place_nil_lt 0)))))])))

theorem arm_vperm {w : BitVec 32} (hop : opcodeOf w = 0x48) : decodeV w = accept (true) (.vperm (guardOf w) (fld w 15 5) (fld w 10 5) (fld w 5 5) (fld w 3 2) (fld w 1 2) (flag w 0)) := by
  unfold decodeV
  simp only [hop]

theorem vperm (g : Guard) (d : BitVec 5) (a : BitVec 5) (b : BitVec 5) (p : BitVec 2) (q : BitVec 2) (k : Bool) : Statement (.vperm g d a b p q k) := by
  intro W hW
  obtain rfl : slotWord g 0x48 (place [(d.toNat, 15), (a.toNat, 10), (b.toNat, 5), (p.toNat, 3), (q.toNat, 1), (k.toNat, 0)]) = W := Option.some.inj hW
  have ho : 0x48 < 2 ^ 7 := Nat.le_of_ble_eq_true rfl
  have hf : place [(d.toNat, 15), (a.toNat, 10), (b.toNat, 5), (p.toNat, 3), (q.toNat, 1), (k.toNat, 0)] < 2 ^ 20 := place_cons_lt d.isLt (place_cons_lt a.isLt (place_cons_lt b.isLt (place_cons_lt p.isLt (place_cons_lt q.isLt (place_cons_lt (bool_lt k) (place_nil_lt 0) (Nat.le_of_ble_eq_true rfl)) (Nat.le_of_ble_eq_true rfl)) (Nat.le_of_ble_eq_true rfl)) (Nat.le_of_ble_eq_true rfl)) (Nat.le_of_ble_eq_true rfl)) (Nat.le_of_ble_eq_true rfl)
  have hop := opcodeOf_slotWord (g := g) ho hf
  refine ⟨congrArg some (guardOf_slotWord ho hf).symm, _, rfl, decodeSlot_eq ?_⟩
  exact (decodeRaw_V hop (by decide)).trans ((arm_vperm hop).trans (accept_eq rfl (by rw [guardOf_slotWord ho hf, fld_slotWord ho hf 15 5 (Nat.le_of_ble_eq_true rfl) d (place_hit d.isLt (place_cons_lt a.isLt (place_cons_lt b.isLt (place_cons_lt p.isLt (place_cons_lt q.isLt (place_cons_lt (bool_lt k) (place_nil_lt 0) (Nat.le_of_ble_eq_true rfl)) (Nat.le_of_ble_eq_true rfl)) (Nat.le_of_ble_eq_true rfl)) (Nat.le_of_ble_eq_true rfl)) (Nat.le_of_ble_eq_true rfl))), fld_slotWord ho hf 10 5 (Nat.le_of_ble_eq_true rfl) a (place_skip (Nat.le_of_ble_eq_true rfl) (place_hit a.isLt (place_cons_lt b.isLt (place_cons_lt p.isLt (place_cons_lt q.isLt (place_cons_lt (bool_lt k) (place_nil_lt 0) (Nat.le_of_ble_eq_true rfl)) (Nat.le_of_ble_eq_true rfl)) (Nat.le_of_ble_eq_true rfl)) (Nat.le_of_ble_eq_true rfl)))), fld_slotWord ho hf 5 5 (Nat.le_of_ble_eq_true rfl) b (place_skip (Nat.le_of_ble_eq_true rfl) (place_skip (Nat.le_of_ble_eq_true rfl) (place_hit b.isLt (place_cons_lt p.isLt (place_cons_lt q.isLt (place_cons_lt (bool_lt k) (place_nil_lt 0) (Nat.le_of_ble_eq_true rfl)) (Nat.le_of_ble_eq_true rfl)) (Nat.le_of_ble_eq_true rfl))))), fld_slotWord ho hf 3 2 (Nat.le_of_ble_eq_true rfl) p (place_skip (Nat.le_of_ble_eq_true rfl) (place_skip (Nat.le_of_ble_eq_true rfl) (place_skip (Nat.le_of_ble_eq_true rfl) (place_hit p.isLt (place_cons_lt q.isLt (place_cons_lt (bool_lt k) (place_nil_lt 0) (Nat.le_of_ble_eq_true rfl)) (Nat.le_of_ble_eq_true rfl)))))), fld_slotWord ho hf 1 2 (Nat.le_of_ble_eq_true rfl) q (place_skip (Nat.le_of_ble_eq_true rfl) (place_skip (Nat.le_of_ble_eq_true rfl) (place_skip (Nat.le_of_ble_eq_true rfl) (place_skip (Nat.le_of_ble_eq_true rfl) (place_hit q.isLt (place_cons_lt (bool_lt k) (place_nil_lt 0) (Nat.le_of_ble_eq_true rfl))))))), flag_slotWord ho hf 0 (Nat.le_of_ble_eq_true rfl) k (place_skip (Nat.le_of_ble_eq_true rfl) (place_skip (Nat.le_of_ble_eq_true rfl) (place_skip (Nat.le_of_ble_eq_true rfl) (place_skip (Nat.le_of_ble_eq_true rfl) (place_skip (Nat.le_of_ble_eq_true rfl) (place_hit (bool_lt k) (place_nil_lt 0)))))))])))

theorem arm_vcompress {w : BitVec 32} (hop : opcodeOf w = 0x49) : decodeV w = accept (holds w 0 3 1 && holds w 5 5 0) (.vcompress (guardOf w) (fld w 15 5) (fld w 10 5) (fld w 3 2)) := by
  unfold decodeV
  simp only [hop]

theorem vcompress (g : Guard) (d : BitVec 5) (a : BitVec 5) (p : BitVec 2) : Statement (.vcompress g d a p) := by
  intro W hW
  obtain rfl : slotWord g 0x49 (place [(d.toNat, 15), (a.toNat, 10), (p.toNat, 3), (1, 0)]) = W := Option.some.inj hW
  have ho : 0x49 < 2 ^ 7 := Nat.le_of_ble_eq_true rfl
  have hf : place [(d.toNat, 15), (a.toNat, 10), (p.toNat, 3), (1, 0)] < 2 ^ 20 := place_cons_lt d.isLt (place_cons_lt a.isLt (place_cons_lt p.isLt (place_cons_lt (Nat.le_of_ble_eq_true rfl : 1 < 2 ^ 1) (place_nil_lt 0) (Nat.le_of_ble_eq_true rfl)) (Nat.le_of_ble_eq_true rfl)) (Nat.le_of_ble_eq_true rfl)) (Nat.le_of_ble_eq_true rfl)
  have hop := opcodeOf_slotWord (g := g) ho hf
  refine ⟨congrArg some (guardOf_slotWord ho hf).symm, _, rfl, decodeSlot_eq ?_⟩
  exact (decodeRaw_V hop (by decide)).trans ((arm_vcompress hop).trans (accept_eq (Bool.and_eq_true_iff.mpr ⟨(holds_slotWord ho hf 0 3 1 (Nat.le_of_ble_eq_true rfl) (place_skip (Nat.le_of_ble_eq_true rfl) (place_skip (Nat.le_of_ble_eq_true rfl) (place_skip (Nat.le_of_ble_eq_true rfl) (place_hit (Nat.le_of_ble_eq_true rfl : 1 < 2 ^ 3) (place_nil_lt 0)))))), (holds_slotWord ho hf 5 5 0 (Nat.le_of_ble_eq_true rfl) (place_skip (Nat.le_of_ble_eq_true rfl) (place_skip (Nat.le_of_ble_eq_true rfl) (place_zero (place_cons_lt p.isLt (place_cons_lt (Nat.le_of_ble_eq_true rfl : 1 < 2 ^ 1) (place_nil_lt 0) (Nat.le_of_ble_eq_true rfl)) (Nat.le_of_ble_eq_true rfl))))))⟩) (by rw [guardOf_slotWord ho hf, fld_slotWord ho hf 15 5 (Nat.le_of_ble_eq_true rfl) d (place_hit d.isLt (place_cons_lt a.isLt (place_cons_lt p.isLt (place_cons_lt (Nat.le_of_ble_eq_true rfl : 1 < 2 ^ 1) (place_nil_lt 0) (Nat.le_of_ble_eq_true rfl)) (Nat.le_of_ble_eq_true rfl)) (Nat.le_of_ble_eq_true rfl))), fld_slotWord ho hf 10 5 (Nat.le_of_ble_eq_true rfl) a (place_skip (Nat.le_of_ble_eq_true rfl) (place_hit a.isLt (place_cons_lt p.isLt (place_cons_lt (Nat.le_of_ble_eq_true rfl : 1 < 2 ^ 1) (place_nil_lt 0) (Nat.le_of_ble_eq_true rfl)) (Nat.le_of_ble_eq_true rfl)))), fld_slotWord ho hf 3 2 (Nat.le_of_ble_eq_true rfl) p (place_skip (Nat.le_of_ble_eq_true rfl) (place_skip (Nat.le_of_ble_eq_true rfl) (place_hit p.isLt (place_cons_lt (Nat.le_of_ble_eq_true rfl : 1 < 2 ^ 1) (place_nil_lt 0) (Nat.le_of_ble_eq_true rfl)))))])))

theorem arm_vexpand {w : BitVec 32} (hop : opcodeOf w = 0x4A) : decodeV w = accept (holds w 0 3 1 && holds w 5 5 0) (.vexpand (guardOf w) (fld w 15 5) (fld w 10 5) (fld w 3 2)) := by
  unfold decodeV
  simp only [hop]

theorem vexpand (g : Guard) (d : BitVec 5) (a : BitVec 5) (p : BitVec 2) : Statement (.vexpand g d a p) := by
  intro W hW
  obtain rfl : slotWord g 0x4A (place [(d.toNat, 15), (a.toNat, 10), (p.toNat, 3), (1, 0)]) = W := Option.some.inj hW
  have ho : 0x4A < 2 ^ 7 := Nat.le_of_ble_eq_true rfl
  have hf : place [(d.toNat, 15), (a.toNat, 10), (p.toNat, 3), (1, 0)] < 2 ^ 20 := place_cons_lt d.isLt (place_cons_lt a.isLt (place_cons_lt p.isLt (place_cons_lt (Nat.le_of_ble_eq_true rfl : 1 < 2 ^ 1) (place_nil_lt 0) (Nat.le_of_ble_eq_true rfl)) (Nat.le_of_ble_eq_true rfl)) (Nat.le_of_ble_eq_true rfl)) (Nat.le_of_ble_eq_true rfl)
  have hop := opcodeOf_slotWord (g := g) ho hf
  refine ⟨congrArg some (guardOf_slotWord ho hf).symm, _, rfl, decodeSlot_eq ?_⟩
  exact (decodeRaw_V hop (by decide)).trans ((arm_vexpand hop).trans (accept_eq (Bool.and_eq_true_iff.mpr ⟨(holds_slotWord ho hf 0 3 1 (Nat.le_of_ble_eq_true rfl) (place_skip (Nat.le_of_ble_eq_true rfl) (place_skip (Nat.le_of_ble_eq_true rfl) (place_skip (Nat.le_of_ble_eq_true rfl) (place_hit (Nat.le_of_ble_eq_true rfl : 1 < 2 ^ 3) (place_nil_lt 0)))))), (holds_slotWord ho hf 5 5 0 (Nat.le_of_ble_eq_true rfl) (place_skip (Nat.le_of_ble_eq_true rfl) (place_skip (Nat.le_of_ble_eq_true rfl) (place_zero (place_cons_lt p.isLt (place_cons_lt (Nat.le_of_ble_eq_true rfl : 1 < 2 ^ 1) (place_nil_lt 0) (Nat.le_of_ble_eq_true rfl)) (Nat.le_of_ble_eq_true rfl))))))⟩) (by rw [guardOf_slotWord ho hf, fld_slotWord ho hf 15 5 (Nat.le_of_ble_eq_true rfl) d (place_hit d.isLt (place_cons_lt a.isLt (place_cons_lt p.isLt (place_cons_lt (Nat.le_of_ble_eq_true rfl : 1 < 2 ^ 1) (place_nil_lt 0) (Nat.le_of_ble_eq_true rfl)) (Nat.le_of_ble_eq_true rfl)) (Nat.le_of_ble_eq_true rfl))), fld_slotWord ho hf 10 5 (Nat.le_of_ble_eq_true rfl) a (place_skip (Nat.le_of_ble_eq_true rfl) (place_hit a.isLt (place_cons_lt p.isLt (place_cons_lt (Nat.le_of_ble_eq_true rfl : 1 < 2 ^ 1) (place_nil_lt 0) (Nat.le_of_ble_eq_true rfl)) (Nat.le_of_ble_eq_true rfl)))), fld_slotWord ho hf 3 2 (Nat.le_of_ble_eq_true rfl) p (place_skip (Nat.le_of_ble_eq_true rfl) (place_skip (Nat.le_of_ble_eq_true rfl) (place_hit p.isLt (place_cons_lt (Nat.le_of_ble_eq_true rfl : 1 < 2 ^ 1) (place_nil_lt 0) (Nat.le_of_ble_eq_true rfl)))))])))

theorem arm_vmov {w : BitVec 32} (hop : opcodeOf w = 0x4B) : decodeV w = accept (holds w 1 2 0 && holds w 5 5 0) (.vmov (guardOf w) (fld w 15 5) (fld w 10 5) (fld w 3 2) (flag w 0)) := by
  unfold decodeV
  simp only [hop]

theorem vmov (g : Guard) (d : BitVec 5) (a : BitVec 5) (p : BitVec 2) (k : Bool) : Statement (.vmov g d a p k) := by
  intro W hW
  obtain rfl : slotWord g 0x4B (place [(d.toNat, 15), (a.toNat, 10), (p.toNat, 3), (k.toNat, 0)]) = W := Option.some.inj hW
  have ho : 0x4B < 2 ^ 7 := Nat.le_of_ble_eq_true rfl
  have hf : place [(d.toNat, 15), (a.toNat, 10), (p.toNat, 3), (k.toNat, 0)] < 2 ^ 20 := place_cons_lt d.isLt (place_cons_lt a.isLt (place_cons_lt p.isLt (place_cons_lt (bool_lt k) (place_nil_lt 0) (Nat.le_of_ble_eq_true rfl)) (Nat.le_of_ble_eq_true rfl)) (Nat.le_of_ble_eq_true rfl)) (Nat.le_of_ble_eq_true rfl)
  have hop := opcodeOf_slotWord (g := g) ho hf
  refine ⟨congrArg some (guardOf_slotWord ho hf).symm, _, rfl, decodeSlot_eq ?_⟩
  exact (decodeRaw_V hop (by decide)).trans ((arm_vmov hop).trans (accept_eq (Bool.and_eq_true_iff.mpr ⟨(holds_slotWord ho hf 1 2 0 (Nat.le_of_ble_eq_true rfl) (place_skip (Nat.le_of_ble_eq_true rfl) (place_skip (Nat.le_of_ble_eq_true rfl) (place_skip (Nat.le_of_ble_eq_true rfl) (place_zero (place_cons_lt (bool_lt k) (place_nil_lt 0) (Nat.le_of_ble_eq_true rfl))))))), (holds_slotWord ho hf 5 5 0 (Nat.le_of_ble_eq_true rfl) (place_skip (Nat.le_of_ble_eq_true rfl) (place_skip (Nat.le_of_ble_eq_true rfl) (place_zero (place_cons_lt p.isLt (place_cons_lt (bool_lt k) (place_nil_lt 0) (Nat.le_of_ble_eq_true rfl)) (Nat.le_of_ble_eq_true rfl))))))⟩) (by rw [guardOf_slotWord ho hf, fld_slotWord ho hf 15 5 (Nat.le_of_ble_eq_true rfl) d (place_hit d.isLt (place_cons_lt a.isLt (place_cons_lt p.isLt (place_cons_lt (bool_lt k) (place_nil_lt 0) (Nat.le_of_ble_eq_true rfl)) (Nat.le_of_ble_eq_true rfl)) (Nat.le_of_ble_eq_true rfl))), fld_slotWord ho hf 10 5 (Nat.le_of_ble_eq_true rfl) a (place_skip (Nat.le_of_ble_eq_true rfl) (place_hit a.isLt (place_cons_lt p.isLt (place_cons_lt (bool_lt k) (place_nil_lt 0) (Nat.le_of_ble_eq_true rfl)) (Nat.le_of_ble_eq_true rfl)))), fld_slotWord ho hf 3 2 (Nat.le_of_ble_eq_true rfl) p (place_skip (Nat.le_of_ble_eq_true rfl) (place_skip (Nat.le_of_ble_eq_true rfl) (place_hit p.isLt (place_cons_lt (bool_lt k) (place_nil_lt 0) (Nat.le_of_ble_eq_true rfl))))), flag_slotWord ho hf 0 (Nat.le_of_ble_eq_true rfl) k (place_skip (Nat.le_of_ble_eq_true rfl) (place_skip (Nat.le_of_ble_eq_true rfl) (place_skip (Nat.le_of_ble_eq_true rfl) (place_hit (bool_lt k) (place_nil_lt 0)))))])))

theorem arm_vsplat {w : BitVec 32} (hop : opcodeOf w = 0x4C) : decodeV w = accept (holds w 1 4 0 && holds w 11 4 0) (.vsplat (guardOf w) (fld w 15 5) (fld w 5 6) (flag w 0)) := by
  unfold decodeV
  simp only [hop]

theorem vsplat (g : Guard) (d : BitVec 5) (sr : BitVec 6) (k : Bool) : Statement (.vsplat g d sr k) := by
  intro W hW
  obtain rfl : slotWord g 0x4C (place [(d.toNat, 15), (sr.toNat, 5), (k.toNat, 0)]) = W := Option.some.inj hW
  have ho : 0x4C < 2 ^ 7 := Nat.le_of_ble_eq_true rfl
  have hf : place [(d.toNat, 15), (sr.toNat, 5), (k.toNat, 0)] < 2 ^ 20 := place_cons_lt d.isLt (place_cons_lt sr.isLt (place_cons_lt (bool_lt k) (place_nil_lt 0) (Nat.le_of_ble_eq_true rfl)) (Nat.le_of_ble_eq_true rfl)) (Nat.le_of_ble_eq_true rfl)
  have hop := opcodeOf_slotWord (g := g) ho hf
  refine ⟨congrArg some (guardOf_slotWord ho hf).symm, _, rfl, decodeSlot_eq ?_⟩
  exact (decodeRaw_V hop (by decide)).trans ((arm_vsplat hop).trans (accept_eq (Bool.and_eq_true_iff.mpr ⟨(holds_slotWord ho hf 1 4 0 (Nat.le_of_ble_eq_true rfl) (place_skip (Nat.le_of_ble_eq_true rfl) (place_skip (Nat.le_of_ble_eq_true rfl) (place_zero (place_cons_lt (bool_lt k) (place_nil_lt 0) (Nat.le_of_ble_eq_true rfl)))))), (holds_slotWord ho hf 11 4 0 (Nat.le_of_ble_eq_true rfl) (place_skip (Nat.le_of_ble_eq_true rfl) (place_zero (place_cons_lt sr.isLt (place_cons_lt (bool_lt k) (place_nil_lt 0) (Nat.le_of_ble_eq_true rfl)) (Nat.le_of_ble_eq_true rfl)))))⟩) (by rw [guardOf_slotWord ho hf, fld_slotWord ho hf 15 5 (Nat.le_of_ble_eq_true rfl) d (place_hit d.isLt (place_cons_lt sr.isLt (place_cons_lt (bool_lt k) (place_nil_lt 0) (Nat.le_of_ble_eq_true rfl)) (Nat.le_of_ble_eq_true rfl))), fld_slotWord ho hf 5 6 (Nat.le_of_ble_eq_true rfl) sr (place_skip (Nat.le_of_ble_eq_true rfl) (place_hit sr.isLt (place_cons_lt (bool_lt k) (place_nil_lt 0) (Nat.le_of_ble_eq_true rfl)))), flag_slotWord ho hf 0 (Nat.le_of_ble_eq_true rfl) k (place_skip (Nat.le_of_ble_eq_true rfl) (place_skip (Nat.le_of_ble_eq_true rfl) (place_hit (bool_lt k) (place_nil_lt 0))))])))

theorem arm_vext {w : BitVec 32} (hop : opcodeOf w = 0x4D) : decodeV w = accept (holds w 0 3 0) (.vext (guardOf w) (fld w 14 6) (fld w 9 5) (fld w 3 6)) := by
  unfold decodeV
  simp only [hop]

theorem vext (g : Guard) (sr : BitVec 6) (a : BitVec 5) (i : BitVec 6) : Statement (.vext g sr a i) := by
  intro W hW
  obtain rfl : slotWord g 0x4D (place [(sr.toNat, 14), (a.toNat, 9), (i.toNat, 3)]) = W := Option.some.inj hW
  have ho : 0x4D < 2 ^ 7 := Nat.le_of_ble_eq_true rfl
  have hf : place [(sr.toNat, 14), (a.toNat, 9), (i.toNat, 3)] < 2 ^ 20 := place_cons_lt sr.isLt (place_cons_lt a.isLt (place_cons_lt i.isLt (place_nil_lt 3) (Nat.le_of_ble_eq_true rfl)) (Nat.le_of_ble_eq_true rfl)) (Nat.le_of_ble_eq_true rfl)
  have hop := opcodeOf_slotWord (g := g) ho hf
  refine ⟨congrArg some (guardOf_slotWord ho hf).symm, _, rfl, decodeSlot_eq ?_⟩
  exact (decodeRaw_V hop (by decide)).trans ((arm_vext hop).trans (accept_eq (holds_slotWord ho hf 0 3 0 (Nat.le_of_ble_eq_true rfl) (place_skip (Nat.le_of_ble_eq_true rfl) (place_skip (Nat.le_of_ble_eq_true rfl) (place_skip (Nat.le_of_ble_eq_true rfl) (place_zero (place_nil_lt 0)))))) (by rw [guardOf_slotWord ho hf, fld_slotWord ho hf 14 6 (Nat.le_of_ble_eq_true rfl) sr (place_hit sr.isLt (place_cons_lt a.isLt (place_cons_lt i.isLt (place_nil_lt 3) (Nat.le_of_ble_eq_true rfl)) (Nat.le_of_ble_eq_true rfl))), fld_slotWord ho hf 9 5 (Nat.le_of_ble_eq_true rfl) a (place_skip (Nat.le_of_ble_eq_true rfl) (place_hit a.isLt (place_cons_lt i.isLt (place_nil_lt 3) (Nat.le_of_ble_eq_true rfl)))), fld_slotWord ho hf 3 6 (Nat.le_of_ble_eq_true rfl) i (place_skip (Nat.le_of_ble_eq_true rfl) (place_skip (Nat.le_of_ble_eq_true rfl) (place_hit i.isLt (place_nil_lt 3))))])))

theorem arm_vins {w : BitVec 32} (hop : opcodeOf w = 0x4E) : decodeV w = accept (holds w 0 3 0) (.vins (guardOf w) (fld w 15 5) (fld w 9 6) (fld w 3 6)) := by
  unfold decodeV
  simp only [hop]

theorem vins (g : Guard) (d : BitVec 5) (v : BitVec 6) (i : BitVec 6) : Statement (.vins g d v i) := by
  intro W hW
  obtain rfl : slotWord g 0x4E (place [(d.toNat, 15), (v.toNat, 9), (i.toNat, 3)]) = W := Option.some.inj hW
  have ho : 0x4E < 2 ^ 7 := Nat.le_of_ble_eq_true rfl
  have hf : place [(d.toNat, 15), (v.toNat, 9), (i.toNat, 3)] < 2 ^ 20 := place_cons_lt d.isLt (place_cons_lt v.isLt (place_cons_lt i.isLt (place_nil_lt 3) (Nat.le_of_ble_eq_true rfl)) (Nat.le_of_ble_eq_true rfl)) (Nat.le_of_ble_eq_true rfl)
  have hop := opcodeOf_slotWord (g := g) ho hf
  refine ⟨congrArg some (guardOf_slotWord ho hf).symm, _, rfl, decodeSlot_eq ?_⟩
  exact (decodeRaw_V hop (by decide)).trans ((arm_vins hop).trans (accept_eq (holds_slotWord ho hf 0 3 0 (Nat.le_of_ble_eq_true rfl) (place_skip (Nat.le_of_ble_eq_true rfl) (place_skip (Nat.le_of_ble_eq_true rfl) (place_skip (Nat.le_of_ble_eq_true rfl) (place_zero (place_nil_lt 0)))))) (by rw [guardOf_slotWord ho hf, fld_slotWord ho hf 15 5 (Nat.le_of_ble_eq_true rfl) d (place_hit d.isLt (place_cons_lt v.isLt (place_cons_lt i.isLt (place_nil_lt 3) (Nat.le_of_ble_eq_true rfl)) (Nat.le_of_ble_eq_true rfl))), fld_slotWord ho hf 9 6 (Nat.le_of_ble_eq_true rfl) v (place_skip (Nat.le_of_ble_eq_true rfl) (place_hit v.isLt (place_cons_lt i.isLt (place_nil_lt 3) (Nat.le_of_ble_eq_true rfl)))), fld_slotWord ho hf 3 6 (Nat.le_of_ble_eq_true rfl) i (place_skip (Nat.le_of_ble_eq_true rfl) (place_skip (Nat.le_of_ble_eq_true rfl) (place_hit i.isLt (place_nil_lt 3))))])))

theorem arm_mand {w : BitVec 32} (hop : opcodeOf w = 0x50) : decodeV w = accept (holds w 0 5 0 && holds w 8 2 0 && holds w 13 2 0 && holds w 18 2 0) (.mand (guardOf w) (fld w 15 3) (fld w 10 3) (fld w 5 3)) := by
  unfold decodeV
  simp only [hop]

theorem mand (g : Guard) (d : BitVec 3) (a : BitVec 3) (b : BitVec 3) : Statement (.mand g d a b) := by
  intro W hW
  obtain rfl : slotWord g 0x50 (place [(d.toNat, 15), (a.toNat, 10), (b.toNat, 5)]) = W := Option.some.inj hW
  have ho : 0x50 < 2 ^ 7 := Nat.le_of_ble_eq_true rfl
  have hf : place [(d.toNat, 15), (a.toNat, 10), (b.toNat, 5)] < 2 ^ 20 := place_cons_lt d.isLt (place_cons_lt a.isLt (place_cons_lt b.isLt (place_nil_lt 5) (Nat.le_of_ble_eq_true rfl)) (Nat.le_of_ble_eq_true rfl)) (Nat.le_of_ble_eq_true rfl)
  have hop := opcodeOf_slotWord (g := g) ho hf
  refine ⟨congrArg some (guardOf_slotWord ho hf).symm, _, rfl, decodeSlot_eq ?_⟩
  exact (decodeRaw_V hop (by decide)).trans ((arm_mand hop).trans (accept_eq (Bool.and_eq_true_iff.mpr ⟨(Bool.and_eq_true_iff.mpr ⟨(Bool.and_eq_true_iff.mpr ⟨(holds_slotWord ho hf 0 5 0 (Nat.le_of_ble_eq_true rfl) (place_skip (Nat.le_of_ble_eq_true rfl) (place_skip (Nat.le_of_ble_eq_true rfl) (place_skip (Nat.le_of_ble_eq_true rfl) (place_zero (place_nil_lt 0)))))), (holds_slotWord ho hf 8 2 0 (Nat.le_of_ble_eq_true rfl) (place_skip (Nat.le_of_ble_eq_true rfl) (place_skip (Nat.le_of_ble_eq_true rfl) (place_zero (place_cons_lt b.isLt (place_nil_lt 5) (Nat.le_of_ble_eq_true rfl))))))⟩), (holds_slotWord ho hf 13 2 0 (Nat.le_of_ble_eq_true rfl) (place_skip (Nat.le_of_ble_eq_true rfl) (place_zero (place_cons_lt a.isLt (place_cons_lt b.isLt (place_nil_lt 5) (Nat.le_of_ble_eq_true rfl)) (Nat.le_of_ble_eq_true rfl)))))⟩), (holds_slotWord ho hf 18 2 0 (Nat.le_of_ble_eq_true rfl) (place_zero (place_cons_lt d.isLt (place_cons_lt a.isLt (place_cons_lt b.isLt (place_nil_lt 5) (Nat.le_of_ble_eq_true rfl)) (Nat.le_of_ble_eq_true rfl)) (Nat.le_of_ble_eq_true rfl))))⟩) (by rw [guardOf_slotWord ho hf, fld_slotWord ho hf 15 3 (Nat.le_of_ble_eq_true rfl) d (place_hit d.isLt (place_cons_lt a.isLt (place_cons_lt b.isLt (place_nil_lt 5) (Nat.le_of_ble_eq_true rfl)) (Nat.le_of_ble_eq_true rfl))), fld_slotWord ho hf 10 3 (Nat.le_of_ble_eq_true rfl) a (place_skip (Nat.le_of_ble_eq_true rfl) (place_hit a.isLt (place_cons_lt b.isLt (place_nil_lt 5) (Nat.le_of_ble_eq_true rfl)))), fld_slotWord ho hf 5 3 (Nat.le_of_ble_eq_true rfl) b (place_skip (Nat.le_of_ble_eq_true rfl) (place_skip (Nat.le_of_ble_eq_true rfl) (place_hit b.isLt (place_nil_lt 5))))])))

theorem arm_mor {w : BitVec 32} (hop : opcodeOf w = 0x51) : decodeV w = accept (holds w 0 5 0 && holds w 8 2 0 && holds w 13 2 0 && holds w 18 2 0) (.mor (guardOf w) (fld w 15 3) (fld w 10 3) (fld w 5 3)) := by
  unfold decodeV
  simp only [hop]

theorem mor (g : Guard) (d : BitVec 3) (a : BitVec 3) (b : BitVec 3) : Statement (.mor g d a b) := by
  intro W hW
  obtain rfl : slotWord g 0x51 (place [(d.toNat, 15), (a.toNat, 10), (b.toNat, 5)]) = W := Option.some.inj hW
  have ho : 0x51 < 2 ^ 7 := Nat.le_of_ble_eq_true rfl
  have hf : place [(d.toNat, 15), (a.toNat, 10), (b.toNat, 5)] < 2 ^ 20 := place_cons_lt d.isLt (place_cons_lt a.isLt (place_cons_lt b.isLt (place_nil_lt 5) (Nat.le_of_ble_eq_true rfl)) (Nat.le_of_ble_eq_true rfl)) (Nat.le_of_ble_eq_true rfl)
  have hop := opcodeOf_slotWord (g := g) ho hf
  refine ⟨congrArg some (guardOf_slotWord ho hf).symm, _, rfl, decodeSlot_eq ?_⟩
  exact (decodeRaw_V hop (by decide)).trans ((arm_mor hop).trans (accept_eq (Bool.and_eq_true_iff.mpr ⟨(Bool.and_eq_true_iff.mpr ⟨(Bool.and_eq_true_iff.mpr ⟨(holds_slotWord ho hf 0 5 0 (Nat.le_of_ble_eq_true rfl) (place_skip (Nat.le_of_ble_eq_true rfl) (place_skip (Nat.le_of_ble_eq_true rfl) (place_skip (Nat.le_of_ble_eq_true rfl) (place_zero (place_nil_lt 0)))))), (holds_slotWord ho hf 8 2 0 (Nat.le_of_ble_eq_true rfl) (place_skip (Nat.le_of_ble_eq_true rfl) (place_skip (Nat.le_of_ble_eq_true rfl) (place_zero (place_cons_lt b.isLt (place_nil_lt 5) (Nat.le_of_ble_eq_true rfl))))))⟩), (holds_slotWord ho hf 13 2 0 (Nat.le_of_ble_eq_true rfl) (place_skip (Nat.le_of_ble_eq_true rfl) (place_zero (place_cons_lt a.isLt (place_cons_lt b.isLt (place_nil_lt 5) (Nat.le_of_ble_eq_true rfl)) (Nat.le_of_ble_eq_true rfl)))))⟩), (holds_slotWord ho hf 18 2 0 (Nat.le_of_ble_eq_true rfl) (place_zero (place_cons_lt d.isLt (place_cons_lt a.isLt (place_cons_lt b.isLt (place_nil_lt 5) (Nat.le_of_ble_eq_true rfl)) (Nat.le_of_ble_eq_true rfl)) (Nat.le_of_ble_eq_true rfl))))⟩) (by rw [guardOf_slotWord ho hf, fld_slotWord ho hf 15 3 (Nat.le_of_ble_eq_true rfl) d (place_hit d.isLt (place_cons_lt a.isLt (place_cons_lt b.isLt (place_nil_lt 5) (Nat.le_of_ble_eq_true rfl)) (Nat.le_of_ble_eq_true rfl))), fld_slotWord ho hf 10 3 (Nat.le_of_ble_eq_true rfl) a (place_skip (Nat.le_of_ble_eq_true rfl) (place_hit a.isLt (place_cons_lt b.isLt (place_nil_lt 5) (Nat.le_of_ble_eq_true rfl)))), fld_slotWord ho hf 5 3 (Nat.le_of_ble_eq_true rfl) b (place_skip (Nat.le_of_ble_eq_true rfl) (place_skip (Nat.le_of_ble_eq_true rfl) (place_hit b.isLt (place_nil_lt 5))))])))

theorem arm_mxor {w : BitVec 32} (hop : opcodeOf w = 0x52) : decodeV w = accept (holds w 0 5 0 && holds w 8 2 0 && holds w 13 2 0 && holds w 18 2 0) (.mxor (guardOf w) (fld w 15 3) (fld w 10 3) (fld w 5 3)) := by
  unfold decodeV
  simp only [hop]

theorem mxor (g : Guard) (d : BitVec 3) (a : BitVec 3) (b : BitVec 3) : Statement (.mxor g d a b) := by
  intro W hW
  obtain rfl : slotWord g 0x52 (place [(d.toNat, 15), (a.toNat, 10), (b.toNat, 5)]) = W := Option.some.inj hW
  have ho : 0x52 < 2 ^ 7 := Nat.le_of_ble_eq_true rfl
  have hf : place [(d.toNat, 15), (a.toNat, 10), (b.toNat, 5)] < 2 ^ 20 := place_cons_lt d.isLt (place_cons_lt a.isLt (place_cons_lt b.isLt (place_nil_lt 5) (Nat.le_of_ble_eq_true rfl)) (Nat.le_of_ble_eq_true rfl)) (Nat.le_of_ble_eq_true rfl)
  have hop := opcodeOf_slotWord (g := g) ho hf
  refine ⟨congrArg some (guardOf_slotWord ho hf).symm, _, rfl, decodeSlot_eq ?_⟩
  exact (decodeRaw_V hop (by decide)).trans ((arm_mxor hop).trans (accept_eq (Bool.and_eq_true_iff.mpr ⟨(Bool.and_eq_true_iff.mpr ⟨(Bool.and_eq_true_iff.mpr ⟨(holds_slotWord ho hf 0 5 0 (Nat.le_of_ble_eq_true rfl) (place_skip (Nat.le_of_ble_eq_true rfl) (place_skip (Nat.le_of_ble_eq_true rfl) (place_skip (Nat.le_of_ble_eq_true rfl) (place_zero (place_nil_lt 0)))))), (holds_slotWord ho hf 8 2 0 (Nat.le_of_ble_eq_true rfl) (place_skip (Nat.le_of_ble_eq_true rfl) (place_skip (Nat.le_of_ble_eq_true rfl) (place_zero (place_cons_lt b.isLt (place_nil_lt 5) (Nat.le_of_ble_eq_true rfl))))))⟩), (holds_slotWord ho hf 13 2 0 (Nat.le_of_ble_eq_true rfl) (place_skip (Nat.le_of_ble_eq_true rfl) (place_zero (place_cons_lt a.isLt (place_cons_lt b.isLt (place_nil_lt 5) (Nat.le_of_ble_eq_true rfl)) (Nat.le_of_ble_eq_true rfl)))))⟩), (holds_slotWord ho hf 18 2 0 (Nat.le_of_ble_eq_true rfl) (place_zero (place_cons_lt d.isLt (place_cons_lt a.isLt (place_cons_lt b.isLt (place_nil_lt 5) (Nat.le_of_ble_eq_true rfl)) (Nat.le_of_ble_eq_true rfl)) (Nat.le_of_ble_eq_true rfl))))⟩) (by rw [guardOf_slotWord ho hf, fld_slotWord ho hf 15 3 (Nat.le_of_ble_eq_true rfl) d (place_hit d.isLt (place_cons_lt a.isLt (place_cons_lt b.isLt (place_nil_lt 5) (Nat.le_of_ble_eq_true rfl)) (Nat.le_of_ble_eq_true rfl))), fld_slotWord ho hf 10 3 (Nat.le_of_ble_eq_true rfl) a (place_skip (Nat.le_of_ble_eq_true rfl) (place_hit a.isLt (place_cons_lt b.isLt (place_nil_lt 5) (Nat.le_of_ble_eq_true rfl)))), fld_slotWord ho hf 5 3 (Nat.le_of_ble_eq_true rfl) b (place_skip (Nat.le_of_ble_eq_true rfl) (place_skip (Nat.le_of_ble_eq_true rfl) (place_hit b.isLt (place_nil_lt 5))))])))

theorem arm_mnot {w : BitVec 32} (hop : opcodeOf w = 0x53) : decodeV w = accept (holds w 0 10 0 && holds w 13 2 0 && holds w 18 2 0) (.mnot (guardOf w) (fld w 15 3) (fld w 10 3)) := by
  unfold decodeV
  simp only [hop]

theorem mnot (g : Guard) (d : BitVec 3) (a : BitVec 3) : Statement (.mnot g d a) := by
  intro W hW
  obtain rfl : slotWord g 0x53 (place [(d.toNat, 15), (a.toNat, 10)]) = W := Option.some.inj hW
  have ho : 0x53 < 2 ^ 7 := Nat.le_of_ble_eq_true rfl
  have hf : place [(d.toNat, 15), (a.toNat, 10)] < 2 ^ 20 := place_cons_lt d.isLt (place_cons_lt a.isLt (place_nil_lt 10) (Nat.le_of_ble_eq_true rfl)) (Nat.le_of_ble_eq_true rfl)
  have hop := opcodeOf_slotWord (g := g) ho hf
  refine ⟨congrArg some (guardOf_slotWord ho hf).symm, _, rfl, decodeSlot_eq ?_⟩
  exact (decodeRaw_V hop (by decide)).trans ((arm_mnot hop).trans (accept_eq (Bool.and_eq_true_iff.mpr ⟨(Bool.and_eq_true_iff.mpr ⟨(holds_slotWord ho hf 0 10 0 (Nat.le_of_ble_eq_true rfl) (place_skip (Nat.le_of_ble_eq_true rfl) (place_skip (Nat.le_of_ble_eq_true rfl) (place_zero (place_nil_lt 0))))), (holds_slotWord ho hf 13 2 0 (Nat.le_of_ble_eq_true rfl) (place_skip (Nat.le_of_ble_eq_true rfl) (place_zero (place_cons_lt a.isLt (place_nil_lt 10) (Nat.le_of_ble_eq_true rfl)))))⟩), (holds_slotWord ho hf 18 2 0 (Nat.le_of_ble_eq_true rfl) (place_zero (place_cons_lt d.isLt (place_cons_lt a.isLt (place_nil_lt 10) (Nat.le_of_ble_eq_true rfl)) (Nat.le_of_ble_eq_true rfl))))⟩) (by rw [guardOf_slotWord ho hf, fld_slotWord ho hf 15 3 (Nat.le_of_ble_eq_true rfl) d (place_hit d.isLt (place_cons_lt a.isLt (place_nil_lt 10) (Nat.le_of_ble_eq_true rfl))), fld_slotWord ho hf 10 3 (Nat.le_of_ble_eq_true rfl) a (place_skip (Nat.le_of_ble_eq_true rfl) (place_hit a.isLt (place_nil_lt 10)))])))

theorem arm_mpopc {w : BitVec 32} (hop : opcodeOf w = 0x54) : decodeV w = accept (holds w 0 11 0) (.mpopc (guardOf w) (fld w 14 6) (fld w 11 3)) := by
  unfold decodeV
  simp only [hop]

theorem mpopc (g : Guard) (sr : BitVec 6) (m : BitVec 3) : Statement (.mpopc g sr m) := by
  intro W hW
  obtain rfl : slotWord g 0x54 (place [(sr.toNat, 14), (m.toNat, 11)]) = W := Option.some.inj hW
  have ho : 0x54 < 2 ^ 7 := Nat.le_of_ble_eq_true rfl
  have hf : place [(sr.toNat, 14), (m.toNat, 11)] < 2 ^ 20 := place_cons_lt sr.isLt (place_cons_lt m.isLt (place_nil_lt 11) (Nat.le_of_ble_eq_true rfl)) (Nat.le_of_ble_eq_true rfl)
  have hop := opcodeOf_slotWord (g := g) ho hf
  refine ⟨congrArg some (guardOf_slotWord ho hf).symm, _, rfl, decodeSlot_eq ?_⟩
  exact (decodeRaw_V hop (by decide)).trans ((arm_mpopc hop).trans (accept_eq (holds_slotWord ho hf 0 11 0 (Nat.le_of_ble_eq_true rfl) (place_skip (Nat.le_of_ble_eq_true rfl) (place_skip (Nat.le_of_ble_eq_true rfl) (place_zero (place_nil_lt 0))))) (by rw [guardOf_slotWord ho hf, fld_slotWord ho hf 14 6 (Nat.le_of_ble_eq_true rfl) sr (place_hit sr.isLt (place_cons_lt m.isLt (place_nil_lt 11) (Nat.le_of_ble_eq_true rfl))), fld_slotWord ho hf 11 3 (Nat.le_of_ble_eq_true rfl) m (place_skip (Nat.le_of_ble_eq_true rfl) (place_hit m.isLt (place_nil_lt 11)))])))

theorem arm_mfirst {w : BitVec 32} (hop : opcodeOf w = 0x55) : decodeV w = accept (holds w 0 11 0) (.mfirst (guardOf w) (fld w 14 6) (fld w 11 3)) := by
  unfold decodeV
  simp only [hop]

theorem mfirst (g : Guard) (sr : BitVec 6) (m : BitVec 3) : Statement (.mfirst g sr m) := by
  intro W hW
  obtain rfl : slotWord g 0x55 (place [(sr.toNat, 14), (m.toNat, 11)]) = W := Option.some.inj hW
  have ho : 0x55 < 2 ^ 7 := Nat.le_of_ble_eq_true rfl
  have hf : place [(sr.toNat, 14), (m.toNat, 11)] < 2 ^ 20 := place_cons_lt sr.isLt (place_cons_lt m.isLt (place_nil_lt 11) (Nat.le_of_ble_eq_true rfl)) (Nat.le_of_ble_eq_true rfl)
  have hop := opcodeOf_slotWord (g := g) ho hf
  refine ⟨congrArg some (guardOf_slotWord ho hf).symm, _, rfl, decodeSlot_eq ?_⟩
  exact (decodeRaw_V hop (by decide)).trans ((arm_mfirst hop).trans (accept_eq (holds_slotWord ho hf 0 11 0 (Nat.le_of_ble_eq_true rfl) (place_skip (Nat.le_of_ble_eq_true rfl) (place_skip (Nat.le_of_ble_eq_true rfl) (place_zero (place_nil_lt 0))))) (by rw [guardOf_slotWord ho hf, fld_slotWord ho hf 14 6 (Nat.le_of_ble_eq_true rfl) sr (place_hit sr.isLt (place_cons_lt m.isLt (place_nil_lt 11) (Nat.le_of_ble_eq_true rfl))), fld_slotWord ho hf 11 3 (Nat.le_of_ble_eq_true rfl) m (place_skip (Nat.le_of_ble_eq_true rfl) (place_hit m.isLt (place_nil_lt 11)))])))

theorem arm_laclr {w : BitVec 32} (hop : opcodeOf w = 0x58) : decodeV w = accept (holds w 0 15 0 && holds w 17 3 0) (.laclr (guardOf w) (fld w 15 2)) := by
  unfold decodeV
  simp only [hop]

theorem laclr (g : Guard) (l : BitVec 2) : Statement (.laclr g l) := by
  intro W hW
  obtain rfl : slotWord g 0x58 (place [(l.toNat, 15)]) = W := Option.some.inj hW
  have ho : 0x58 < 2 ^ 7 := Nat.le_of_ble_eq_true rfl
  have hf : place [(l.toNat, 15)] < 2 ^ 20 := place_cons_lt l.isLt (place_nil_lt 15) (Nat.le_of_ble_eq_true rfl)
  have hop := opcodeOf_slotWord (g := g) ho hf
  refine ⟨congrArg some (guardOf_slotWord ho hf).symm, _, rfl, decodeSlot_eq ?_⟩
  exact (decodeRaw_V hop (by decide)).trans ((arm_laclr hop).trans (accept_eq (Bool.and_eq_true_iff.mpr ⟨(holds_slotWord ho hf 0 15 0 (Nat.le_of_ble_eq_true rfl) (place_skip (Nat.le_of_ble_eq_true rfl) (place_zero (place_nil_lt 0)))), (holds_slotWord ho hf 17 3 0 (Nat.le_of_ble_eq_true rfl) (place_zero (place_cons_lt l.isLt (place_nil_lt 15) (Nat.le_of_ble_eq_true rfl))))⟩) (by rw [guardOf_slotWord ho hf, fld_slotWord ho hf 15 2 (Nat.le_of_ble_eq_true rfl) l (place_hit l.isLt (place_nil_lt 15))])))

theorem arm_lafma {w : BitVec 32} (hop : opcodeOf w = 0x59) : decodeV w = accept (holds w 17 3 0) (.lafma (guardOf w) (fld w 15 2) (fld w 10 5) (fld w 5 5) (fld w 3 2) (fld w 1 2) (flag w 0)) := by
  unfold decodeV
  simp only [hop]

theorem lafma (g : Guard) (l : BitVec 2) (a : BitVec 5) (b : BitVec 5) (p : BitVec 2) (q : BitVec 2) (k : Bool) : Statement (.lafma g l a b p q k) := by
  intro W hW
  obtain rfl : slotWord g 0x59 (place [(l.toNat, 15), (a.toNat, 10), (b.toNat, 5), (p.toNat, 3), (q.toNat, 1), (k.toNat, 0)]) = W := Option.some.inj hW
  have ho : 0x59 < 2 ^ 7 := Nat.le_of_ble_eq_true rfl
  have hf : place [(l.toNat, 15), (a.toNat, 10), (b.toNat, 5), (p.toNat, 3), (q.toNat, 1), (k.toNat, 0)] < 2 ^ 20 := place_cons_lt l.isLt (place_cons_lt a.isLt (place_cons_lt b.isLt (place_cons_lt p.isLt (place_cons_lt q.isLt (place_cons_lt (bool_lt k) (place_nil_lt 0) (Nat.le_of_ble_eq_true rfl)) (Nat.le_of_ble_eq_true rfl)) (Nat.le_of_ble_eq_true rfl)) (Nat.le_of_ble_eq_true rfl)) (Nat.le_of_ble_eq_true rfl)) (Nat.le_of_ble_eq_true rfl)
  have hop := opcodeOf_slotWord (g := g) ho hf
  refine ⟨congrArg some (guardOf_slotWord ho hf).symm, _, rfl, decodeSlot_eq ?_⟩
  exact (decodeRaw_V hop (by decide)).trans ((arm_lafma hop).trans (accept_eq (holds_slotWord ho hf 17 3 0 (Nat.le_of_ble_eq_true rfl) (place_zero (place_cons_lt l.isLt (place_cons_lt a.isLt (place_cons_lt b.isLt (place_cons_lt p.isLt (place_cons_lt q.isLt (place_cons_lt (bool_lt k) (place_nil_lt 0) (Nat.le_of_ble_eq_true rfl)) (Nat.le_of_ble_eq_true rfl)) (Nat.le_of_ble_eq_true rfl)) (Nat.le_of_ble_eq_true rfl)) (Nat.le_of_ble_eq_true rfl)) (Nat.le_of_ble_eq_true rfl)))) (by rw [guardOf_slotWord ho hf, fld_slotWord ho hf 15 2 (Nat.le_of_ble_eq_true rfl) l (place_hit l.isLt (place_cons_lt a.isLt (place_cons_lt b.isLt (place_cons_lt p.isLt (place_cons_lt q.isLt (place_cons_lt (bool_lt k) (place_nil_lt 0) (Nat.le_of_ble_eq_true rfl)) (Nat.le_of_ble_eq_true rfl)) (Nat.le_of_ble_eq_true rfl)) (Nat.le_of_ble_eq_true rfl)) (Nat.le_of_ble_eq_true rfl))), fld_slotWord ho hf 10 5 (Nat.le_of_ble_eq_true rfl) a (place_skip (Nat.le_of_ble_eq_true rfl) (place_hit a.isLt (place_cons_lt b.isLt (place_cons_lt p.isLt (place_cons_lt q.isLt (place_cons_lt (bool_lt k) (place_nil_lt 0) (Nat.le_of_ble_eq_true rfl)) (Nat.le_of_ble_eq_true rfl)) (Nat.le_of_ble_eq_true rfl)) (Nat.le_of_ble_eq_true rfl)))), fld_slotWord ho hf 5 5 (Nat.le_of_ble_eq_true rfl) b (place_skip (Nat.le_of_ble_eq_true rfl) (place_skip (Nat.le_of_ble_eq_true rfl) (place_hit b.isLt (place_cons_lt p.isLt (place_cons_lt q.isLt (place_cons_lt (bool_lt k) (place_nil_lt 0) (Nat.le_of_ble_eq_true rfl)) (Nat.le_of_ble_eq_true rfl)) (Nat.le_of_ble_eq_true rfl))))), fld_slotWord ho hf 3 2 (Nat.le_of_ble_eq_true rfl) p (place_skip (Nat.le_of_ble_eq_true rfl) (place_skip (Nat.le_of_ble_eq_true rfl) (place_skip (Nat.le_of_ble_eq_true rfl) (place_hit p.isLt (place_cons_lt q.isLt (place_cons_lt (bool_lt k) (place_nil_lt 0) (Nat.le_of_ble_eq_true rfl)) (Nat.le_of_ble_eq_true rfl)))))), fld_slotWord ho hf 1 2 (Nat.le_of_ble_eq_true rfl) q (place_skip (Nat.le_of_ble_eq_true rfl) (place_skip (Nat.le_of_ble_eq_true rfl) (place_skip (Nat.le_of_ble_eq_true rfl) (place_skip (Nat.le_of_ble_eq_true rfl) (place_hit q.isLt (place_cons_lt (bool_lt k) (place_nil_lt 0) (Nat.le_of_ble_eq_true rfl))))))), flag_slotWord ho hf 0 (Nat.le_of_ble_eq_true rfl) k (place_skip (Nat.le_of_ble_eq_true rfl) (place_skip (Nat.le_of_ble_eq_true rfl) (place_skip (Nat.le_of_ble_eq_true rfl) (place_skip (Nat.le_of_ble_eq_true rfl) (place_skip (Nat.le_of_ble_eq_true rfl) (place_hit (bool_lt k) (place_nil_lt 0)))))))])))

theorem arm_laadd {w : BitVec 32} (hop : opcodeOf w = 0x5A) : decodeV w = accept (holds w 1 2 0 && holds w 5 5 0 && holds w 17 3 0) (.laadd (guardOf w) (fld w 15 2) (fld w 10 5) (fld w 3 2) (flag w 0)) := by
  unfold decodeV
  simp only [hop]

theorem laadd (g : Guard) (l : BitVec 2) (a : BitVec 5) (p : BitVec 2) (k : Bool) : Statement (.laadd g l a p k) := by
  intro W hW
  obtain rfl : slotWord g 0x5A (place [(l.toNat, 15), (a.toNat, 10), (p.toNat, 3), (k.toNat, 0)]) = W := Option.some.inj hW
  have ho : 0x5A < 2 ^ 7 := Nat.le_of_ble_eq_true rfl
  have hf : place [(l.toNat, 15), (a.toNat, 10), (p.toNat, 3), (k.toNat, 0)] < 2 ^ 20 := place_cons_lt l.isLt (place_cons_lt a.isLt (place_cons_lt p.isLt (place_cons_lt (bool_lt k) (place_nil_lt 0) (Nat.le_of_ble_eq_true rfl)) (Nat.le_of_ble_eq_true rfl)) (Nat.le_of_ble_eq_true rfl)) (Nat.le_of_ble_eq_true rfl)
  have hop := opcodeOf_slotWord (g := g) ho hf
  refine ⟨congrArg some (guardOf_slotWord ho hf).symm, _, rfl, decodeSlot_eq ?_⟩
  exact (decodeRaw_V hop (by decide)).trans ((arm_laadd hop).trans (accept_eq (Bool.and_eq_true_iff.mpr ⟨(Bool.and_eq_true_iff.mpr ⟨(holds_slotWord ho hf 1 2 0 (Nat.le_of_ble_eq_true rfl) (place_skip (Nat.le_of_ble_eq_true rfl) (place_skip (Nat.le_of_ble_eq_true rfl) (place_skip (Nat.le_of_ble_eq_true rfl) (place_zero (place_cons_lt (bool_lt k) (place_nil_lt 0) (Nat.le_of_ble_eq_true rfl))))))), (holds_slotWord ho hf 5 5 0 (Nat.le_of_ble_eq_true rfl) (place_skip (Nat.le_of_ble_eq_true rfl) (place_skip (Nat.le_of_ble_eq_true rfl) (place_zero (place_cons_lt p.isLt (place_cons_lt (bool_lt k) (place_nil_lt 0) (Nat.le_of_ble_eq_true rfl)) (Nat.le_of_ble_eq_true rfl))))))⟩), (holds_slotWord ho hf 17 3 0 (Nat.le_of_ble_eq_true rfl) (place_zero (place_cons_lt l.isLt (place_cons_lt a.isLt (place_cons_lt p.isLt (place_cons_lt (bool_lt k) (place_nil_lt 0) (Nat.le_of_ble_eq_true rfl)) (Nat.le_of_ble_eq_true rfl)) (Nat.le_of_ble_eq_true rfl)) (Nat.le_of_ble_eq_true rfl))))⟩) (by rw [guardOf_slotWord ho hf, fld_slotWord ho hf 15 2 (Nat.le_of_ble_eq_true rfl) l (place_hit l.isLt (place_cons_lt a.isLt (place_cons_lt p.isLt (place_cons_lt (bool_lt k) (place_nil_lt 0) (Nat.le_of_ble_eq_true rfl)) (Nat.le_of_ble_eq_true rfl)) (Nat.le_of_ble_eq_true rfl))), fld_slotWord ho hf 10 5 (Nat.le_of_ble_eq_true rfl) a (place_skip (Nat.le_of_ble_eq_true rfl) (place_hit a.isLt (place_cons_lt p.isLt (place_cons_lt (bool_lt k) (place_nil_lt 0) (Nat.le_of_ble_eq_true rfl)) (Nat.le_of_ble_eq_true rfl)))), fld_slotWord ho hf 3 2 (Nat.le_of_ble_eq_true rfl) p (place_skip (Nat.le_of_ble_eq_true rfl) (place_skip (Nat.le_of_ble_eq_true rfl) (place_hit p.isLt (place_cons_lt (bool_lt k) (place_nil_lt 0) (Nat.le_of_ble_eq_true rfl))))), flag_slotWord ho hf 0 (Nat.le_of_ble_eq_true rfl) k (place_skip (Nat.le_of_ble_eq_true rfl) (place_skip (Nat.le_of_ble_eq_true rfl) (place_skip (Nat.le_of_ble_eq_true rfl) (place_hit (bool_lt k) (place_nil_lt 0)))))])))

theorem arm_laround {w : BitVec 32} (hop : opcodeOf w = 0x5B) : decodeV w = accept (holds w 0 10 0 && holds w 12 3 0) (.laround (guardOf w) (fld w 15 5) (fld w 10 2)) := by
  unfold decodeV
  simp only [hop]

theorem laround (g : Guard) (d : BitVec 5) (l : BitVec 2) : Statement (.laround g d l) := by
  intro W hW
  obtain rfl : slotWord g 0x5B (place [(d.toNat, 15), (l.toNat, 10)]) = W := Option.some.inj hW
  have ho : 0x5B < 2 ^ 7 := Nat.le_of_ble_eq_true rfl
  have hf : place [(d.toNat, 15), (l.toNat, 10)] < 2 ^ 20 := place_cons_lt d.isLt (place_cons_lt l.isLt (place_nil_lt 10) (Nat.le_of_ble_eq_true rfl)) (Nat.le_of_ble_eq_true rfl)
  have hop := opcodeOf_slotWord (g := g) ho hf
  refine ⟨congrArg some (guardOf_slotWord ho hf).symm, _, rfl, decodeSlot_eq ?_⟩
  exact (decodeRaw_V hop (by decide)).trans ((arm_laround hop).trans (accept_eq (Bool.and_eq_true_iff.mpr ⟨(holds_slotWord ho hf 0 10 0 (Nat.le_of_ble_eq_true rfl) (place_skip (Nat.le_of_ble_eq_true rfl) (place_skip (Nat.le_of_ble_eq_true rfl) (place_zero (place_nil_lt 0))))), (holds_slotWord ho hf 12 3 0 (Nat.le_of_ble_eq_true rfl) (place_skip (Nat.le_of_ble_eq_true rfl) (place_zero (place_cons_lt l.isLt (place_nil_lt 10) (Nat.le_of_ble_eq_true rfl)))))⟩) (by rw [guardOf_slotWord ho hf, fld_slotWord ho hf 15 5 (Nat.le_of_ble_eq_true rfl) d (place_hit d.isLt (place_cons_lt l.isLt (place_nil_lt 10) (Nat.le_of_ble_eq_true rfl))), fld_slotWord ho hf 10 2 (Nat.le_of_ble_eq_true rfl) l (place_skip (Nat.le_of_ble_eq_true rfl) (place_hit l.isLt (place_nil_lt 10)))])))

theorem arm_lasgn {w : BitVec 32} (hop : opcodeOf w = 0x5C) : decodeV w = accept (holds w 0 10 0) (.lasgn (guardOf w) (fld w 16 4) (fld w 12 4) (fld w 10 2)) := by
  unfold decodeV
  simp only [hop]

theorem lasgn (g : Guard) (p : BitVec 4) (q : BitVec 4) (l : BitVec 2) : Statement (.lasgn g p q l) := by
  intro W hW
  obtain rfl : slotWord g 0x5C (place [(p.toNat, 16), (q.toNat, 12), (l.toNat, 10)]) = W := Option.some.inj hW
  have ho : 0x5C < 2 ^ 7 := Nat.le_of_ble_eq_true rfl
  have hf : place [(p.toNat, 16), (q.toNat, 12), (l.toNat, 10)] < 2 ^ 20 := place_cons_lt p.isLt (place_cons_lt q.isLt (place_cons_lt l.isLt (place_nil_lt 10) (Nat.le_of_ble_eq_true rfl)) (Nat.le_of_ble_eq_true rfl)) (Nat.le_of_ble_eq_true rfl)
  have hop := opcodeOf_slotWord (g := g) ho hf
  refine ⟨congrArg some (guardOf_slotWord ho hf).symm, _, rfl, decodeSlot_eq ?_⟩
  exact (decodeRaw_V hop (by decide)).trans ((arm_lasgn hop).trans (accept_eq (holds_slotWord ho hf 0 10 0 (Nat.le_of_ble_eq_true rfl) (place_skip (Nat.le_of_ble_eq_true rfl) (place_skip (Nat.le_of_ble_eq_true rfl) (place_skip (Nat.le_of_ble_eq_true rfl) (place_zero (place_nil_lt 0)))))) (by rw [guardOf_slotWord ho hf, fld_slotWord ho hf 16 4 (Nat.le_of_ble_eq_true rfl) p (place_hit p.isLt (place_cons_lt q.isLt (place_cons_lt l.isLt (place_nil_lt 10) (Nat.le_of_ble_eq_true rfl)) (Nat.le_of_ble_eq_true rfl))), fld_slotWord ho hf 12 4 (Nat.le_of_ble_eq_true rfl) q (place_skip (Nat.le_of_ble_eq_true rfl) (place_hit q.isLt (place_cons_lt l.isLt (place_nil_lt 10) (Nat.le_of_ble_eq_true rfl)))), fld_slotWord ho hf 10 2 (Nat.le_of_ble_eq_true rfl) l (place_skip (Nat.le_of_ble_eq_true rfl) (place_skip (Nat.le_of_ble_eq_true rfl) (place_hit l.isLt (place_nil_lt 10))))])))

theorem arm_lamovToVector {w : BitVec 32} (hop : opcodeOf w = 0x5D) : decodeV w = accept (holds w 0 10 0 && holds w 12 3 0) (.lamovToVector (guardOf w) (fld w 15 5) (fld w 10 2)) := by
  unfold decodeV
  simp only [hop]

theorem lamovToVector (g : Guard) (d : BitVec 5) (l : BitVec 2) : Statement (.lamovToVector g d l) := by
  intro W hW
  obtain rfl : slotWord g 0x5D (place [(d.toNat, 15), (l.toNat, 10)]) = W := Option.some.inj hW
  have ho : 0x5D < 2 ^ 7 := Nat.le_of_ble_eq_true rfl
  have hf : place [(d.toNat, 15), (l.toNat, 10)] < 2 ^ 20 := place_cons_lt d.isLt (place_cons_lt l.isLt (place_nil_lt 10) (Nat.le_of_ble_eq_true rfl)) (Nat.le_of_ble_eq_true rfl)
  have hop := opcodeOf_slotWord (g := g) ho hf
  refine ⟨congrArg some (guardOf_slotWord ho hf).symm, _, rfl, decodeSlot_eq ?_⟩
  exact (decodeRaw_V hop (by decide)).trans ((arm_lamovToVector hop).trans (accept_eq (Bool.and_eq_true_iff.mpr ⟨(holds_slotWord ho hf 0 10 0 (Nat.le_of_ble_eq_true rfl) (place_skip (Nat.le_of_ble_eq_true rfl) (place_skip (Nat.le_of_ble_eq_true rfl) (place_zero (place_nil_lt 0))))), (holds_slotWord ho hf 12 3 0 (Nat.le_of_ble_eq_true rfl) (place_skip (Nat.le_of_ble_eq_true rfl) (place_zero (place_cons_lt l.isLt (place_nil_lt 10) (Nat.le_of_ble_eq_true rfl)))))⟩) (by rw [guardOf_slotWord ho hf, fld_slotWord ho hf 15 5 (Nat.le_of_ble_eq_true rfl) d (place_hit d.isLt (place_cons_lt l.isLt (place_nil_lt 10) (Nat.le_of_ble_eq_true rfl))), fld_slotWord ho hf 10 2 (Nat.le_of_ble_eq_true rfl) l (place_skip (Nat.le_of_ble_eq_true rfl) (place_hit l.isLt (place_nil_lt 10)))])))

theorem arm_lamovFromVector {w : BitVec 32} (hop : opcodeOf w = 0x5E) : decodeV w = accept (holds w 0 10 0 && holds w 17 3 0) (.lamovFromVector (guardOf w) (fld w 15 2) (fld w 10 5)) := by
  unfold decodeV
  simp only [hop]

theorem lamovFromVector (g : Guard) (l : BitVec 2) (a : BitVec 5) : Statement (.lamovFromVector g l a) := by
  intro W hW
  obtain rfl : slotWord g 0x5E (place [(l.toNat, 15), (a.toNat, 10)]) = W := Option.some.inj hW
  have ho : 0x5E < 2 ^ 7 := Nat.le_of_ble_eq_true rfl
  have hf : place [(l.toNat, 15), (a.toNat, 10)] < 2 ^ 20 := place_cons_lt l.isLt (place_cons_lt a.isLt (place_nil_lt 10) (Nat.le_of_ble_eq_true rfl)) (Nat.le_of_ble_eq_true rfl)
  have hop := opcodeOf_slotWord (g := g) ho hf
  refine ⟨congrArg some (guardOf_slotWord ho hf).symm, _, rfl, decodeSlot_eq ?_⟩
  exact (decodeRaw_V hop (by decide)).trans ((arm_lamovFromVector hop).trans (accept_eq (Bool.and_eq_true_iff.mpr ⟨(holds_slotWord ho hf 0 10 0 (Nat.le_of_ble_eq_true rfl) (place_skip (Nat.le_of_ble_eq_true rfl) (place_skip (Nat.le_of_ble_eq_true rfl) (place_zero (place_nil_lt 0))))), (holds_slotWord ho hf 17 3 0 (Nat.le_of_ble_eq_true rfl) (place_zero (place_cons_lt l.isLt (place_cons_lt a.isLt (place_nil_lt 10) (Nat.le_of_ble_eq_true rfl)) (Nat.le_of_ble_eq_true rfl))))⟩) (by rw [guardOf_slotWord ho hf, fld_slotWord ho hf 15 2 (Nat.le_of_ble_eq_true rfl) l (place_hit l.isLt (place_cons_lt a.isLt (place_nil_lt 10) (Nat.le_of_ble_eq_true rfl))), fld_slotWord ho hf 10 5 (Nat.le_of_ble_eq_true rfl) a (place_skip (Nat.le_of_ble_eq_true rfl) (place_hit a.isLt (place_nil_lt 10)))])))

theorem arm_mma {w : BitVec 32} (hop : opcodeOf w = 0x01) : decodeM w = accept (true) (.mma (guardOf w) (fld w 16 4) (fld w 12 4) (fld w 8 4) (fld w 0 8)) := by
  unfold decodeM
  simp only [hop]

theorem mma (g : Guard) (c : BitVec 4) (a : BitVec 4) (b : BitVec 4) (o : BitVec 8) : Statement (.mma g c a b o) := by
  intro W hW
  obtain rfl : slotWord g 0x01 (place [(c.toNat, 16), (a.toNat, 12), (b.toNat, 8), (o.toNat, 0)]) = W := Option.some.inj hW
  have ho : 0x01 < 2 ^ 7 := Nat.le_of_ble_eq_true rfl
  have hf : place [(c.toNat, 16), (a.toNat, 12), (b.toNat, 8), (o.toNat, 0)] < 2 ^ 20 := place_cons_lt c.isLt (place_cons_lt a.isLt (place_cons_lt b.isLt (place_cons_lt o.isLt (place_nil_lt 0) (Nat.le_of_ble_eq_true rfl)) (Nat.le_of_ble_eq_true rfl)) (Nat.le_of_ble_eq_true rfl)) (Nat.le_of_ble_eq_true rfl)
  have hop := opcodeOf_slotWord (g := g) ho hf
  refine ⟨congrArg some (guardOf_slotWord ho hf).symm, _, rfl, decodeSlot_eq ?_⟩
  exact (decodeRaw_M hop (by decide)).trans ((arm_mma hop).trans (accept_eq rfl (by rw [guardOf_slotWord ho hf, fld_slotWord ho hf 16 4 (Nat.le_of_ble_eq_true rfl) c (place_hit c.isLt (place_cons_lt a.isLt (place_cons_lt b.isLt (place_cons_lt o.isLt (place_nil_lt 0) (Nat.le_of_ble_eq_true rfl)) (Nat.le_of_ble_eq_true rfl)) (Nat.le_of_ble_eq_true rfl))), fld_slotWord ho hf 12 4 (Nat.le_of_ble_eq_true rfl) a (place_skip (Nat.le_of_ble_eq_true rfl) (place_hit a.isLt (place_cons_lt b.isLt (place_cons_lt o.isLt (place_nil_lt 0) (Nat.le_of_ble_eq_true rfl)) (Nat.le_of_ble_eq_true rfl)))), fld_slotWord ho hf 8 4 (Nat.le_of_ble_eq_true rfl) b (place_skip (Nat.le_of_ble_eq_true rfl) (place_skip (Nat.le_of_ble_eq_true rfl) (place_hit b.isLt (place_cons_lt o.isLt (place_nil_lt 0) (Nat.le_of_ble_eq_true rfl))))), fld_slotWord ho hf 0 8 (Nat.le_of_ble_eq_true rfl) o (place_skip (Nat.le_of_ble_eq_true rfl) (place_skip (Nat.le_of_ble_eq_true rfl) (place_skip (Nat.le_of_ble_eq_true rfl) (place_hit o.isLt (place_nil_lt 0)))))])))

theorem arm_mmaSp {w : BitVec 32} (hop : opcodeOf w = 0x02) : decodeM w = accept (true) (.mmaSp (guardOf w) (fld w 16 4) (fld w 12 4) (fld w 8 4) (fld w 0 8)) := by
  unfold decodeM
  simp only [hop]

theorem mmaSp (g : Guard) (c : BitVec 4) (a : BitVec 4) (b : BitVec 4) (o : BitVec 8) : Statement (.mmaSp g c a b o) := by
  intro W hW
  obtain rfl : slotWord g 0x02 (place [(c.toNat, 16), (a.toNat, 12), (b.toNat, 8), (o.toNat, 0)]) = W := Option.some.inj hW
  have ho : 0x02 < 2 ^ 7 := Nat.le_of_ble_eq_true rfl
  have hf : place [(c.toNat, 16), (a.toNat, 12), (b.toNat, 8), (o.toNat, 0)] < 2 ^ 20 := place_cons_lt c.isLt (place_cons_lt a.isLt (place_cons_lt b.isLt (place_cons_lt o.isLt (place_nil_lt 0) (Nat.le_of_ble_eq_true rfl)) (Nat.le_of_ble_eq_true rfl)) (Nat.le_of_ble_eq_true rfl)) (Nat.le_of_ble_eq_true rfl)
  have hop := opcodeOf_slotWord (g := g) ho hf
  refine ⟨congrArg some (guardOf_slotWord ho hf).symm, _, rfl, decodeSlot_eq ?_⟩
  exact (decodeRaw_M hop (by decide)).trans ((arm_mmaSp hop).trans (accept_eq rfl (by rw [guardOf_slotWord ho hf, fld_slotWord ho hf 16 4 (Nat.le_of_ble_eq_true rfl) c (place_hit c.isLt (place_cons_lt a.isLt (place_cons_lt b.isLt (place_cons_lt o.isLt (place_nil_lt 0) (Nat.le_of_ble_eq_true rfl)) (Nat.le_of_ble_eq_true rfl)) (Nat.le_of_ble_eq_true rfl))), fld_slotWord ho hf 12 4 (Nat.le_of_ble_eq_true rfl) a (place_skip (Nat.le_of_ble_eq_true rfl) (place_hit a.isLt (place_cons_lt b.isLt (place_cons_lt o.isLt (place_nil_lt 0) (Nat.le_of_ble_eq_true rfl)) (Nat.le_of_ble_eq_true rfl)))), fld_slotWord ho hf 8 4 (Nat.le_of_ble_eq_true rfl) b (place_skip (Nat.le_of_ble_eq_true rfl) (place_skip (Nat.le_of_ble_eq_true rfl) (place_hit b.isLt (place_cons_lt o.isLt (place_nil_lt 0) (Nat.le_of_ble_eq_true rfl))))), fld_slotWord ho hf 0 8 (Nat.le_of_ble_eq_true rfl) o (place_skip (Nat.le_of_ble_eq_true rfl) (place_skip (Nat.le_of_ble_eq_true rfl) (place_skip (Nat.le_of_ble_eq_true rfl) (place_hit o.isLt (place_nil_lt 0)))))])))

theorem arm_mmaMk {w : BitVec 32} (hop : opcodeOf w = 0x03) : decodeM w = accept (true) (.mmaMk (guardOf w) (fld w 16 4) (fld w 12 4) (fld w 8 4) (fld w 0 8)) := by
  unfold decodeM
  simp only [hop]

theorem mmaMk (g : Guard) (c : BitVec 4) (a : BitVec 4) (b : BitVec 4) (o : BitVec 8) : Statement (.mmaMk g c a b o) := by
  intro W hW
  obtain rfl : slotWord g 0x03 (place [(c.toNat, 16), (a.toNat, 12), (b.toNat, 8), (o.toNat, 0)]) = W := Option.some.inj hW
  have ho : 0x03 < 2 ^ 7 := Nat.le_of_ble_eq_true rfl
  have hf : place [(c.toNat, 16), (a.toNat, 12), (b.toNat, 8), (o.toNat, 0)] < 2 ^ 20 := place_cons_lt c.isLt (place_cons_lt a.isLt (place_cons_lt b.isLt (place_cons_lt o.isLt (place_nil_lt 0) (Nat.le_of_ble_eq_true rfl)) (Nat.le_of_ble_eq_true rfl)) (Nat.le_of_ble_eq_true rfl)) (Nat.le_of_ble_eq_true rfl)
  have hop := opcodeOf_slotWord (g := g) ho hf
  refine ⟨congrArg some (guardOf_slotWord ho hf).symm, _, rfl, decodeSlot_eq ?_⟩
  exact (decodeRaw_M hop (by decide)).trans ((arm_mmaMk hop).trans (accept_eq rfl (by rw [guardOf_slotWord ho hf, fld_slotWord ho hf 16 4 (Nat.le_of_ble_eq_true rfl) c (place_hit c.isLt (place_cons_lt a.isLt (place_cons_lt b.isLt (place_cons_lt o.isLt (place_nil_lt 0) (Nat.le_of_ble_eq_true rfl)) (Nat.le_of_ble_eq_true rfl)) (Nat.le_of_ble_eq_true rfl))), fld_slotWord ho hf 12 4 (Nat.le_of_ble_eq_true rfl) a (place_skip (Nat.le_of_ble_eq_true rfl) (place_hit a.isLt (place_cons_lt b.isLt (place_cons_lt o.isLt (place_nil_lt 0) (Nat.le_of_ble_eq_true rfl)) (Nat.le_of_ble_eq_true rfl)))), fld_slotWord ho hf 8 4 (Nat.le_of_ble_eq_true rfl) b (place_skip (Nat.le_of_ble_eq_true rfl) (place_skip (Nat.le_of_ble_eq_true rfl) (place_hit b.isLt (place_cons_lt o.isLt (place_nil_lt 0) (Nat.le_of_ble_eq_true rfl))))), fld_slotWord ho hf 0 8 (Nat.le_of_ble_eq_true rfl) o (place_skip (Nat.le_of_ble_eq_true rfl) (place_skip (Nat.le_of_ble_eq_true rfl) (place_skip (Nat.le_of_ble_eq_true rfl) (place_hit o.isLt (place_nil_lt 0)))))])))

theorem arm_mscale {w : BitVec 32} (hop : opcodeOf w = 0x04) : decodeM w = accept (holds w 0 20 0) (.mscale (guardOf w)) := by
  unfold decodeM
  simp only [hop]

theorem mscale (g : Guard) : Statement (.mscale g) := by
  intro W hW
  obtain rfl : slotWord g 0x04 (place []) = W := Option.some.inj hW
  have ho : 0x04 < 2 ^ 7 := Nat.le_of_ble_eq_true rfl
  have hf : place [] < 2 ^ 20 := place_nil_lt 20
  have hop := opcodeOf_slotWord (g := g) ho hf
  refine ⟨congrArg some (guardOf_slotWord ho hf).symm, _, rfl, decodeSlot_eq ?_⟩
  exact (decodeRaw_M hop (by decide)).trans ((arm_mscale hop).trans (accept_eq (holds_slotWord ho hf 0 20 0 (Nat.le_of_ble_eq_true rfl) (place_zero (place_nil_lt 0))) (by rw [guardOf_slotWord ho hf])))

theorem arm_mmaS {w : BitVec 32} (hop : opcodeOf w = 0x05) : decodeM w = accept (true) (.mmaS (guardOf w) (fld w 16 4) (fld w 12 4) (fld w 8 4) (fld w 0 8)) := by
  unfold decodeM
  simp only [hop]

theorem mmaS (g : Guard) (c : BitVec 4) (a : BitVec 4) (b : BitVec 4) (o : BitVec 8) : Statement (.mmaS g c a b o) := by
  intro W hW
  obtain rfl : slotWord g 0x05 (place [(c.toNat, 16), (a.toNat, 12), (b.toNat, 8), (o.toNat, 0)]) = W := Option.some.inj hW
  have ho : 0x05 < 2 ^ 7 := Nat.le_of_ble_eq_true rfl
  have hf : place [(c.toNat, 16), (a.toNat, 12), (b.toNat, 8), (o.toNat, 0)] < 2 ^ 20 := place_cons_lt c.isLt (place_cons_lt a.isLt (place_cons_lt b.isLt (place_cons_lt o.isLt (place_nil_lt 0) (Nat.le_of_ble_eq_true rfl)) (Nat.le_of_ble_eq_true rfl)) (Nat.le_of_ble_eq_true rfl)) (Nat.le_of_ble_eq_true rfl)
  have hop := opcodeOf_slotWord (g := g) ho hf
  refine ⟨congrArg some (guardOf_slotWord ho hf).symm, _, rfl, decodeSlot_eq ?_⟩
  exact (decodeRaw_M hop (by decide)).trans ((arm_mmaS hop).trans (accept_eq rfl (by rw [guardOf_slotWord ho hf, fld_slotWord ho hf 16 4 (Nat.le_of_ble_eq_true rfl) c (place_hit c.isLt (place_cons_lt a.isLt (place_cons_lt b.isLt (place_cons_lt o.isLt (place_nil_lt 0) (Nat.le_of_ble_eq_true rfl)) (Nat.le_of_ble_eq_true rfl)) (Nat.le_of_ble_eq_true rfl))), fld_slotWord ho hf 12 4 (Nat.le_of_ble_eq_true rfl) a (place_skip (Nat.le_of_ble_eq_true rfl) (place_hit a.isLt (place_cons_lt b.isLt (place_cons_lt o.isLt (place_nil_lt 0) (Nat.le_of_ble_eq_true rfl)) (Nat.le_of_ble_eq_true rfl)))), fld_slotWord ho hf 8 4 (Nat.le_of_ble_eq_true rfl) b (place_skip (Nat.le_of_ble_eq_true rfl) (place_skip (Nat.le_of_ble_eq_true rfl) (place_hit b.isLt (place_cons_lt o.isLt (place_nil_lt 0) (Nat.le_of_ble_eq_true rfl))))), fld_slotWord ho hf 0 8 (Nat.le_of_ble_eq_true rfl) o (place_skip (Nat.le_of_ble_eq_true rfl) (place_skip (Nat.le_of_ble_eq_true rfl) (place_skip (Nat.le_of_ble_eq_true rfl) (place_hit o.isLt (place_nil_lt 0)))))])))

theorem arm_mmaSpS {w : BitVec 32} (hop : opcodeOf w = 0x06) : decodeM w = accept (true) (.mmaSpS (guardOf w) (fld w 16 4) (fld w 12 4) (fld w 8 4) (fld w 0 8)) := by
  unfold decodeM
  simp only [hop]

theorem mmaSpS (g : Guard) (c : BitVec 4) (a : BitVec 4) (b : BitVec 4) (o : BitVec 8) : Statement (.mmaSpS g c a b o) := by
  intro W hW
  obtain rfl : slotWord g 0x06 (place [(c.toNat, 16), (a.toNat, 12), (b.toNat, 8), (o.toNat, 0)]) = W := Option.some.inj hW
  have ho : 0x06 < 2 ^ 7 := Nat.le_of_ble_eq_true rfl
  have hf : place [(c.toNat, 16), (a.toNat, 12), (b.toNat, 8), (o.toNat, 0)] < 2 ^ 20 := place_cons_lt c.isLt (place_cons_lt a.isLt (place_cons_lt b.isLt (place_cons_lt o.isLt (place_nil_lt 0) (Nat.le_of_ble_eq_true rfl)) (Nat.le_of_ble_eq_true rfl)) (Nat.le_of_ble_eq_true rfl)) (Nat.le_of_ble_eq_true rfl)
  have hop := opcodeOf_slotWord (g := g) ho hf
  refine ⟨congrArg some (guardOf_slotWord ho hf).symm, _, rfl, decodeSlot_eq ?_⟩
  exact (decodeRaw_M hop (by decide)).trans ((arm_mmaSpS hop).trans (accept_eq rfl (by rw [guardOf_slotWord ho hf, fld_slotWord ho hf 16 4 (Nat.le_of_ble_eq_true rfl) c (place_hit c.isLt (place_cons_lt a.isLt (place_cons_lt b.isLt (place_cons_lt o.isLt (place_nil_lt 0) (Nat.le_of_ble_eq_true rfl)) (Nat.le_of_ble_eq_true rfl)) (Nat.le_of_ble_eq_true rfl))), fld_slotWord ho hf 12 4 (Nat.le_of_ble_eq_true rfl) a (place_skip (Nat.le_of_ble_eq_true rfl) (place_hit a.isLt (place_cons_lt b.isLt (place_cons_lt o.isLt (place_nil_lt 0) (Nat.le_of_ble_eq_true rfl)) (Nat.le_of_ble_eq_true rfl)))), fld_slotWord ho hf 8 4 (Nat.le_of_ble_eq_true rfl) b (place_skip (Nat.le_of_ble_eq_true rfl) (place_skip (Nat.le_of_ble_eq_true rfl) (place_hit b.isLt (place_cons_lt o.isLt (place_nil_lt 0) (Nat.le_of_ble_eq_true rfl))))), fld_slotWord ho hf 0 8 (Nat.le_of_ble_eq_true rfl) o (place_skip (Nat.le_of_ble_eq_true rfl) (place_skip (Nat.le_of_ble_eq_true rfl) (place_skip (Nat.le_of_ble_eq_true rfl) (place_hit o.isLt (place_nil_lt 0)))))])))

theorem arm_mzero {w : BitVec 32} (hop : opcodeOf w = 0x08) : decodeM w = accept (holds w 0 16 0) (.mzero (guardOf w) (fld w 16 4)) := by
  unfold decodeM
  simp only [hop]

theorem mzero (g : Guard) (t : BitVec 4) : Statement (.mzero g t) := by
  intro W hW
  obtain rfl : slotWord g 0x08 (place [(t.toNat, 16)]) = W := Option.some.inj hW
  have ho : 0x08 < 2 ^ 7 := Nat.le_of_ble_eq_true rfl
  have hf : place [(t.toNat, 16)] < 2 ^ 20 := place_cons_lt t.isLt (place_nil_lt 16) (Nat.le_of_ble_eq_true rfl)
  have hop := opcodeOf_slotWord (g := g) ho hf
  refine ⟨congrArg some (guardOf_slotWord ho hf).symm, _, rfl, decodeSlot_eq ?_⟩
  exact (decodeRaw_M hop (by decide)).trans ((arm_mzero hop).trans (accept_eq (holds_slotWord ho hf 0 16 0 (Nat.le_of_ble_eq_true rfl) (place_skip (Nat.le_of_ble_eq_true rfl) (place_zero (place_nil_lt 0)))) (by rw [guardOf_slotWord ho hf, fld_slotWord ho hf 16 4 (Nat.le_of_ble_eq_true rfl) t (place_hit t.isLt (place_nil_lt 16))])))

theorem arm_mcvt {w : BitVec 32} (hop : opcodeOf w = 0x09) : decodeM w = accept (holds w 9 3 0) (.mcvt (guardOf w) (fld w 16 4) (fld w 12 4) (flag w 8) (fld w 4 4) (fld w 1 3) (flag w 0)) := by
  unfold decodeM
  simp only [hop]

theorem mcvt (g : Guard) (sr : BitVec 4) (d : BitVec 4) (i : Bool) (t : BitVec 4) (r : BitVec 3) (a : Bool) : Statement (.mcvt g sr d i t r a) := by
  intro W hW
  obtain rfl : slotWord g 0x09 (place [(sr.toNat, 16), (d.toNat, 12), (i.toNat, 8), (t.toNat, 4), (r.toNat, 1), (a.toNat, 0)]) = W := Option.some.inj hW
  have ho : 0x09 < 2 ^ 7 := Nat.le_of_ble_eq_true rfl
  have hf : place [(sr.toNat, 16), (d.toNat, 12), (i.toNat, 8), (t.toNat, 4), (r.toNat, 1), (a.toNat, 0)] < 2 ^ 20 := place_cons_lt sr.isLt (place_cons_lt d.isLt (place_cons_lt (bool_lt i) (place_cons_lt t.isLt (place_cons_lt r.isLt (place_cons_lt (bool_lt a) (place_nil_lt 0) (Nat.le_of_ble_eq_true rfl)) (Nat.le_of_ble_eq_true rfl)) (Nat.le_of_ble_eq_true rfl)) (Nat.le_of_ble_eq_true rfl)) (Nat.le_of_ble_eq_true rfl)) (Nat.le_of_ble_eq_true rfl)
  have hop := opcodeOf_slotWord (g := g) ho hf
  refine ⟨congrArg some (guardOf_slotWord ho hf).symm, _, rfl, decodeSlot_eq ?_⟩
  exact (decodeRaw_M hop (by decide)).trans ((arm_mcvt hop).trans (accept_eq (holds_slotWord ho hf 9 3 0 (Nat.le_of_ble_eq_true rfl) (place_skip (Nat.le_of_ble_eq_true rfl) (place_skip (Nat.le_of_ble_eq_true rfl) (place_zero (place_cons_lt (bool_lt i) (place_cons_lt t.isLt (place_cons_lt r.isLt (place_cons_lt (bool_lt a) (place_nil_lt 0) (Nat.le_of_ble_eq_true rfl)) (Nat.le_of_ble_eq_true rfl)) (Nat.le_of_ble_eq_true rfl)) (Nat.le_of_ble_eq_true rfl)))))) (by rw [guardOf_slotWord ho hf, fld_slotWord ho hf 16 4 (Nat.le_of_ble_eq_true rfl) sr (place_hit sr.isLt (place_cons_lt d.isLt (place_cons_lt (bool_lt i) (place_cons_lt t.isLt (place_cons_lt r.isLt (place_cons_lt (bool_lt a) (place_nil_lt 0) (Nat.le_of_ble_eq_true rfl)) (Nat.le_of_ble_eq_true rfl)) (Nat.le_of_ble_eq_true rfl)) (Nat.le_of_ble_eq_true rfl)) (Nat.le_of_ble_eq_true rfl))), fld_slotWord ho hf 12 4 (Nat.le_of_ble_eq_true rfl) d (place_skip (Nat.le_of_ble_eq_true rfl) (place_hit d.isLt (place_cons_lt (bool_lt i) (place_cons_lt t.isLt (place_cons_lt r.isLt (place_cons_lt (bool_lt a) (place_nil_lt 0) (Nat.le_of_ble_eq_true rfl)) (Nat.le_of_ble_eq_true rfl)) (Nat.le_of_ble_eq_true rfl)) (Nat.le_of_ble_eq_true rfl)))), flag_slotWord ho hf 8 (Nat.le_of_ble_eq_true rfl) i (place_skip (Nat.le_of_ble_eq_true rfl) (place_skip (Nat.le_of_ble_eq_true rfl) (place_hit (bool_lt i) (place_cons_lt t.isLt (place_cons_lt r.isLt (place_cons_lt (bool_lt a) (place_nil_lt 0) (Nat.le_of_ble_eq_true rfl)) (Nat.le_of_ble_eq_true rfl)) (Nat.le_of_ble_eq_true rfl))))), fld_slotWord ho hf 4 4 (Nat.le_of_ble_eq_true rfl) t (place_skip (Nat.le_of_ble_eq_true rfl) (place_skip (Nat.le_of_ble_eq_true rfl) (place_skip (Nat.le_of_ble_eq_true rfl) (place_hit t.isLt (place_cons_lt r.isLt (place_cons_lt (bool_lt a) (place_nil_lt 0) (Nat.le_of_ble_eq_true rfl)) (Nat.le_of_ble_eq_true rfl)))))), fld_slotWord ho hf 1 3 (Nat.le_of_ble_eq_true rfl) r (place_skip (Nat.le_of_ble_eq_true rfl) (place_skip (Nat.le_of_ble_eq_true rfl) (place_skip (Nat.le_of_ble_eq_true rfl) (place_skip (Nat.le_of_ble_eq_true rfl) (place_hit r.isLt (place_cons_lt (bool_lt a) (place_nil_lt 0) (Nat.le_of_ble_eq_true rfl))))))), flag_slotWord ho hf 0 (Nat.le_of_ble_eq_true rfl) a (place_skip (Nat.le_of_ble_eq_true rfl) (place_skip (Nat.le_of_ble_eq_true rfl) (place_skip (Nat.le_of_ble_eq_true rfl) (place_skip (Nat.le_of_ble_eq_true rfl) (place_skip (Nat.le_of_ble_eq_true rfl) (place_hit (bool_lt a) (place_nil_lt 0)))))))])))

theorem arm_mmov {w : BitVec 32} (hop : opcodeOf w = 0x0A) : decodeM w = accept (holds w 0 12 0) (.mmov (guardOf w) (fld w 16 4) (fld w 12 4)) := by
  unfold decodeM
  simp only [hop]

theorem mmov (g : Guard) (d : BitVec 4) (sr : BitVec 4) : Statement (.mmov g d sr) := by
  intro W hW
  obtain rfl : slotWord g 0x0A (place [(d.toNat, 16), (sr.toNat, 12)]) = W := Option.some.inj hW
  have ho : 0x0A < 2 ^ 7 := Nat.le_of_ble_eq_true rfl
  have hf : place [(d.toNat, 16), (sr.toNat, 12)] < 2 ^ 20 := place_cons_lt d.isLt (place_cons_lt sr.isLt (place_nil_lt 12) (Nat.le_of_ble_eq_true rfl)) (Nat.le_of_ble_eq_true rfl)
  have hop := opcodeOf_slotWord (g := g) ho hf
  refine ⟨congrArg some (guardOf_slotWord ho hf).symm, _, rfl, decodeSlot_eq ?_⟩
  exact (decodeRaw_M hop (by decide)).trans ((arm_mmov hop).trans (accept_eq (holds_slotWord ho hf 0 12 0 (Nat.le_of_ble_eq_true rfl) (place_skip (Nat.le_of_ble_eq_true rfl) (place_skip (Nat.le_of_ble_eq_true rfl) (place_zero (place_nil_lt 0))))) (by rw [guardOf_slotWord ho hf, fld_slotWord ho hf 16 4 (Nat.le_of_ble_eq_true rfl) d (place_hit d.isLt (place_cons_lt sr.isLt (place_nil_lt 12) (Nat.le_of_ble_eq_true rfl))), fld_slotWord ho hf 12 4 (Nat.le_of_ble_eq_true rfl) sr (place_skip (Nat.le_of_ble_eq_true rfl) (place_hit sr.isLt (place_nil_lt 12)))])))

theorem arm_mtr {w : BitVec 32} (hop : opcodeOf w = 0x0B) : decodeM w = accept (holds w 2 10 0) (.mtr (guardOf w) (fld w 16 4) (fld w 12 4) (fld w 0 2)) := by
  unfold decodeM
  simp only [hop]

theorem mtr (g : Guard) (d : BitVec 4) (sr : BitVec 4) (e : BitVec 2) : Statement (.mtr g d sr e) := by
  intro W hW
  obtain rfl : slotWord g 0x0B (place [(d.toNat, 16), (sr.toNat, 12), (e.toNat, 0)]) = W := Option.some.inj hW
  have ho : 0x0B < 2 ^ 7 := Nat.le_of_ble_eq_true rfl
  have hf : place [(d.toNat, 16), (sr.toNat, 12), (e.toNat, 0)] < 2 ^ 20 := place_cons_lt d.isLt (place_cons_lt sr.isLt (place_cons_lt e.isLt (place_nil_lt 0) (Nat.le_of_ble_eq_true rfl)) (Nat.le_of_ble_eq_true rfl)) (Nat.le_of_ble_eq_true rfl)
  have hop := opcodeOf_slotWord (g := g) ho hf
  refine ⟨congrArg some (guardOf_slotWord ho hf).symm, _, rfl, decodeSlot_eq ?_⟩
  exact (decodeRaw_M hop (by decide)).trans ((arm_mtr hop).trans (accept_eq (holds_slotWord ho hf 2 10 0 (Nat.le_of_ble_eq_true rfl) (place_skip (Nat.le_of_ble_eq_true rfl) (place_skip (Nat.le_of_ble_eq_true rfl) (place_zero (place_cons_lt e.isLt (place_nil_lt 0) (Nat.le_of_ble_eq_true rfl)))))) (by rw [guardOf_slotWord ho hf, fld_slotWord ho hf 16 4 (Nat.le_of_ble_eq_true rfl) d (place_hit d.isLt (place_cons_lt sr.isLt (place_cons_lt e.isLt (place_nil_lt 0) (Nat.le_of_ble_eq_true rfl)) (Nat.le_of_ble_eq_true rfl))), fld_slotWord ho hf 12 4 (Nat.le_of_ble_eq_true rfl) sr (place_skip (Nat.le_of_ble_eq_true rfl) (place_hit sr.isLt (place_cons_lt e.isLt (place_nil_lt 0) (Nat.le_of_ble_eq_true rfl)))), fld_slotWord ho hf 0 2 (Nat.le_of_ble_eq_true rfl) e (place_skip (Nat.le_of_ble_eq_true rfl) (place_skip (Nat.le_of_ble_eq_true rfl) (place_hit e.isLt (place_nil_lt 0))))])))

theorem arm_mmask {w : BitVec 32} (hop : opcodeOf w = 0x0C) : decodeM w = accept (holds w 0 16 0) (.mmask (guardOf w) (fld w 16 4)) := by
  unfold decodeM
  simp only [hop]

theorem mmask (g : Guard) (t : BitVec 4) : Statement (.mmask g t) := by
  intro W hW
  obtain rfl : slotWord g 0x0C (place [(t.toNat, 16)]) = W := Option.some.inj hW
  have ho : 0x0C < 2 ^ 7 := Nat.le_of_ble_eq_true rfl
  have hf : place [(t.toNat, 16)] < 2 ^ 20 := place_cons_lt t.isLt (place_nil_lt 16) (Nat.le_of_ble_eq_true rfl)
  have hop := opcodeOf_slotWord (g := g) ho hf
  refine ⟨congrArg some (guardOf_slotWord ho hf).symm, _, rfl, decodeSlot_eq ?_⟩
  exact (decodeRaw_M hop (by decide)).trans ((arm_mmask hop).trans (accept_eq (holds_slotWord ho hf 0 16 0 (Nat.le_of_ble_eq_true rfl) (place_skip (Nat.le_of_ble_eq_true rfl) (place_zero (place_nil_lt 0)))) (by rw [guardOf_slotWord ho hf, fld_slotWord ho hf 16 4 (Nat.le_of_ble_eq_true rfl) t (place_hit t.isLt (place_nil_lt 16))])))

theorem arm_mclrmask {w : BitVec 32} (hop : opcodeOf w = 0x0D) : decodeM w = accept (holds w 0 20 0) (.mclrmask (guardOf w)) := by
  unfold decodeM
  simp only [hop]

theorem mclrmask (g : Guard) : Statement (.mclrmask g) := by
  intro W hW
  obtain rfl : slotWord g 0x0D (place []) = W := Option.some.inj hW
  have ho : 0x0D < 2 ^ 7 := Nat.le_of_ble_eq_true rfl
  have hf : place [] < 2 ^ 20 := place_nil_lt 20
  have hop := opcodeOf_slotWord (g := g) ho hf
  refine ⟨congrArg some (guardOf_slotWord ho hf).symm, _, rfl, decodeSlot_eq ?_⟩
  exact (decodeRaw_M hop (by decide)).trans ((arm_mclrmask hop).trans (accept_eq (holds_slotWord ho hf 0 20 0 (Nat.le_of_ble_eq_true rfl) (place_zero (place_nil_lt 0))) (by rw [guardOf_slotWord ho hf])))

theorem arm_fwbind {w : BitVec 32} (hop : opcodeOf w = 0x01) : decodeF w = accept (holds w 0 4 0 && holds w 8 12 0) (.fwbind (guardOf w) (fld w 4 4)) := by
  unfold decodeF
  simp only [hop]

theorem fwbind (g : Guard) (h : BitVec 4) : Statement (.fwbind g h) := by
  intro W hW
  obtain rfl : slotWord g 0x01 (place [(h.toNat, 4)]) = W := Option.some.inj hW
  have ho : 0x01 < 2 ^ 7 := Nat.le_of_ble_eq_true rfl
  have hf : place [(h.toNat, 4)] < 2 ^ 20 := place_cons_lt h.isLt (place_nil_lt 4) (Nat.le_of_ble_eq_true rfl)
  have hop := opcodeOf_slotWord (g := g) ho hf
  refine ⟨congrArg some (guardOf_slotWord ho hf).symm, _, rfl, decodeSlot_eq ?_⟩
  exact (decodeRaw_F hop (by decide)).trans ((arm_fwbind hop).trans (accept_eq (Bool.and_eq_true_iff.mpr ⟨(holds_slotWord ho hf 0 4 0 (Nat.le_of_ble_eq_true rfl) (place_skip (Nat.le_of_ble_eq_true rfl) (place_zero (place_nil_lt 0)))), (holds_slotWord ho hf 8 12 0 (Nat.le_of_ble_eq_true rfl) (place_zero (place_cons_lt h.isLt (place_nil_lt 4) (Nat.le_of_ble_eq_true rfl))))⟩) (by rw [guardOf_slotWord ho hf, fld_slotWord ho hf 4 4 (Nat.le_of_ble_eq_true rfl) h (place_hit h.isLt (place_nil_lt 4))])))

theorem arm_fwread {w : BitVec 32} (hop : opcodeOf w = 0x02) : decodeF w = accept (holds w 0 4 0 && holds w 12 8 0) (.fwread (guardOf w) (fld w 8 4) (fld w 4 4)) := by
  unfold decodeF
  simp only [hop]

theorem fwread (g : Guard) (q : BitVec 4) (h : BitVec 4) : Statement (.fwread g q h) := by
  intro W hW
  obtain rfl : slotWord g 0x02 (place [(q.toNat, 8), (h.toNat, 4)]) = W := Option.some.inj hW
  have ho : 0x02 < 2 ^ 7 := Nat.le_of_ble_eq_true rfl
  have hf : place [(q.toNat, 8), (h.toNat, 4)] < 2 ^ 20 := place_cons_lt q.isLt (place_cons_lt h.isLt (place_nil_lt 4) (Nat.le_of_ble_eq_true rfl)) (Nat.le_of_ble_eq_true rfl)
  have hop := opcodeOf_slotWord (g := g) ho hf
  refine ⟨congrArg some (guardOf_slotWord ho hf).symm, _, rfl, decodeSlot_eq ?_⟩
  exact (decodeRaw_F hop (by decide)).trans ((arm_fwread hop).trans (accept_eq (Bool.and_eq_true_iff.mpr ⟨(holds_slotWord ho hf 0 4 0 (Nat.le_of_ble_eq_true rfl) (place_skip (Nat.le_of_ble_eq_true rfl) (place_skip (Nat.le_of_ble_eq_true rfl) (place_zero (place_nil_lt 0))))), (holds_slotWord ho hf 12 8 0 (Nat.le_of_ble_eq_true rfl) (place_zero (place_cons_lt q.isLt (place_cons_lt h.isLt (place_nil_lt 4) (Nat.le_of_ble_eq_true rfl)) (Nat.le_of_ble_eq_true rfl))))⟩) (by rw [guardOf_slotWord ho hf, fld_slotWord ho hf 8 4 (Nat.le_of_ble_eq_true rfl) q (place_hit q.isLt (place_cons_lt h.isLt (place_nil_lt 4) (Nat.le_of_ble_eq_true rfl))), fld_slotWord ho hf 4 4 (Nat.le_of_ble_eq_true rfl) h (place_skip (Nat.le_of_ble_eq_true rfl) (place_hit h.isLt (place_nil_lt 4)))])))

theorem arm_fwstepDeltaPre {w : BitVec 32} (hop : opcodeOf w = 0x03) : decodeF w = if holds w 0 4 0 then .ok (.fwstepDeltaPre (guardOf w) (fld w 16 4) (fld w 12 4) (fld w 8 4) (fld w 4 4)) else if holds w 0 4 1 then .ok (.fwstepDeltaPost (guardOf w) (fld w 16 4) (fld w 12 4) (fld w 8 4) (fld w 4 4)) else if holds w 0 4 2 then .ok (.fwstepHebb (guardOf w) (fld w 16 4) (fld w 12 4) (fld w 8 4) (fld w 4 4)) else if holds w 0 4 3 && holds w 12 4 0 then .ok (.fwstepGrad (guardOf w) (fld w 16 4) (fld w 8 4) (fld w 4 4)) else .error .zeroField := by
  unfold decodeF
  simp only [hop]

theorem fwstepDeltaPre (g : Guard) (k : BitVec 4) (v : BitVec 4) (q : BitVec 4) (h : BitVec 4) : Statement (.fwstepDeltaPre g k v q h) := by
  intro W hW
  obtain rfl : slotWord g 0x03 (place [(k.toNat, 16), (v.toNat, 12), (q.toNat, 8), (h.toNat, 4)]) = W := Option.some.inj hW
  have ho : 0x03 < 2 ^ 7 := Nat.le_of_ble_eq_true rfl
  have hf : place [(k.toNat, 16), (v.toNat, 12), (q.toNat, 8), (h.toNat, 4)] < 2 ^ 20 := place_cons_lt k.isLt (place_cons_lt v.isLt (place_cons_lt q.isLt (place_cons_lt h.isLt (place_nil_lt 4) (Nat.le_of_ble_eq_true rfl)) (Nat.le_of_ble_eq_true rfl)) (Nat.le_of_ble_eq_true rfl)) (Nat.le_of_ble_eq_true rfl)
  have hop := opcodeOf_slotWord (g := g) ho hf
  refine ⟨congrArg some (guardOf_slotWord ho hf).symm, _, rfl, decodeSlot_eq ?_⟩
  exact (decodeRaw_F hop (by decide)).trans (by rw [arm_fwstepDeltaPre hop, if_pos (holds_slotWord ho hf 0 4 0 (Nat.le_of_ble_eq_true rfl) (place_skip (Nat.le_of_ble_eq_true rfl) (place_skip (Nat.le_of_ble_eq_true rfl) (place_skip (Nat.le_of_ble_eq_true rfl) (place_skip (Nat.le_of_ble_eq_true rfl) (place_zero (place_nil_lt 0)))))))]; exact congrArg Except.ok (by rw [guardOf_slotWord ho hf, fld_slotWord ho hf 16 4 (Nat.le_of_ble_eq_true rfl) k (place_hit k.isLt (place_cons_lt v.isLt (place_cons_lt q.isLt (place_cons_lt h.isLt (place_nil_lt 4) (Nat.le_of_ble_eq_true rfl)) (Nat.le_of_ble_eq_true rfl)) (Nat.le_of_ble_eq_true rfl))), fld_slotWord ho hf 12 4 (Nat.le_of_ble_eq_true rfl) v (place_skip (Nat.le_of_ble_eq_true rfl) (place_hit v.isLt (place_cons_lt q.isLt (place_cons_lt h.isLt (place_nil_lt 4) (Nat.le_of_ble_eq_true rfl)) (Nat.le_of_ble_eq_true rfl)))), fld_slotWord ho hf 8 4 (Nat.le_of_ble_eq_true rfl) q (place_skip (Nat.le_of_ble_eq_true rfl) (place_skip (Nat.le_of_ble_eq_true rfl) (place_hit q.isLt (place_cons_lt h.isLt (place_nil_lt 4) (Nat.le_of_ble_eq_true rfl))))), fld_slotWord ho hf 4 4 (Nat.le_of_ble_eq_true rfl) h (place_skip (Nat.le_of_ble_eq_true rfl) (place_skip (Nat.le_of_ble_eq_true rfl) (place_skip (Nat.le_of_ble_eq_true rfl) (place_hit h.isLt (place_nil_lt 4)))))]))

theorem arm_fwstepDeltaPost {w : BitVec 32} (hop : opcodeOf w = 0x03) : decodeF w = if holds w 0 4 0 then .ok (.fwstepDeltaPre (guardOf w) (fld w 16 4) (fld w 12 4) (fld w 8 4) (fld w 4 4)) else if holds w 0 4 1 then .ok (.fwstepDeltaPost (guardOf w) (fld w 16 4) (fld w 12 4) (fld w 8 4) (fld w 4 4)) else if holds w 0 4 2 then .ok (.fwstepHebb (guardOf w) (fld w 16 4) (fld w 12 4) (fld w 8 4) (fld w 4 4)) else if holds w 0 4 3 && holds w 12 4 0 then .ok (.fwstepGrad (guardOf w) (fld w 16 4) (fld w 8 4) (fld w 4 4)) else .error .zeroField := by
  unfold decodeF
  simp only [hop]

theorem fwstepDeltaPost (g : Guard) (k : BitVec 4) (v : BitVec 4) (q : BitVec 4) (h : BitVec 4) : Statement (.fwstepDeltaPost g k v q h) := by
  intro W hW
  obtain rfl : slotWord g 0x03 (place [(k.toNat, 16), (v.toNat, 12), (q.toNat, 8), (h.toNat, 4), (1, 0)]) = W := Option.some.inj hW
  have ho : 0x03 < 2 ^ 7 := Nat.le_of_ble_eq_true rfl
  have hf : place [(k.toNat, 16), (v.toNat, 12), (q.toNat, 8), (h.toNat, 4), (1, 0)] < 2 ^ 20 := place_cons_lt k.isLt (place_cons_lt v.isLt (place_cons_lt q.isLt (place_cons_lt h.isLt (place_cons_lt (Nat.le_of_ble_eq_true rfl : 1 < 2 ^ 1) (place_nil_lt 0) (Nat.le_of_ble_eq_true rfl)) (Nat.le_of_ble_eq_true rfl)) (Nat.le_of_ble_eq_true rfl)) (Nat.le_of_ble_eq_true rfl)) (Nat.le_of_ble_eq_true rfl)
  have hop := opcodeOf_slotWord (g := g) ho hf
  refine ⟨congrArg some (guardOf_slotWord ho hf).symm, _, rfl, decodeSlot_eq ?_⟩
  exact (decodeRaw_F hop (by decide)).trans (by rw [arm_fwstepDeltaPost hop, if_neg (Bool.eq_false_iff.mp (holds_slotWord_ne ho hf 0 4 0 1 (Nat.le_of_ble_eq_true rfl) (place_skip (Nat.le_of_ble_eq_true rfl) (place_skip (Nat.le_of_ble_eq_true rfl) (place_skip (Nat.le_of_ble_eq_true rfl) (place_skip (Nat.le_of_ble_eq_true rfl) (place_hit (Nat.le_of_ble_eq_true rfl : 1 < 2 ^ 4) (place_nil_lt 0)))))) rfl)), if_pos (holds_slotWord ho hf 0 4 1 (Nat.le_of_ble_eq_true rfl) (place_skip (Nat.le_of_ble_eq_true rfl) (place_skip (Nat.le_of_ble_eq_true rfl) (place_skip (Nat.le_of_ble_eq_true rfl) (place_skip (Nat.le_of_ble_eq_true rfl) (place_hit (Nat.le_of_ble_eq_true rfl : 1 < 2 ^ 4) (place_nil_lt 0)))))))]; exact congrArg Except.ok (by rw [guardOf_slotWord ho hf, fld_slotWord ho hf 16 4 (Nat.le_of_ble_eq_true rfl) k (place_hit k.isLt (place_cons_lt v.isLt (place_cons_lt q.isLt (place_cons_lt h.isLt (place_cons_lt (Nat.le_of_ble_eq_true rfl : 1 < 2 ^ 1) (place_nil_lt 0) (Nat.le_of_ble_eq_true rfl)) (Nat.le_of_ble_eq_true rfl)) (Nat.le_of_ble_eq_true rfl)) (Nat.le_of_ble_eq_true rfl))), fld_slotWord ho hf 12 4 (Nat.le_of_ble_eq_true rfl) v (place_skip (Nat.le_of_ble_eq_true rfl) (place_hit v.isLt (place_cons_lt q.isLt (place_cons_lt h.isLt (place_cons_lt (Nat.le_of_ble_eq_true rfl : 1 < 2 ^ 1) (place_nil_lt 0) (Nat.le_of_ble_eq_true rfl)) (Nat.le_of_ble_eq_true rfl)) (Nat.le_of_ble_eq_true rfl)))), fld_slotWord ho hf 8 4 (Nat.le_of_ble_eq_true rfl) q (place_skip (Nat.le_of_ble_eq_true rfl) (place_skip (Nat.le_of_ble_eq_true rfl) (place_hit q.isLt (place_cons_lt h.isLt (place_cons_lt (Nat.le_of_ble_eq_true rfl : 1 < 2 ^ 1) (place_nil_lt 0) (Nat.le_of_ble_eq_true rfl)) (Nat.le_of_ble_eq_true rfl))))), fld_slotWord ho hf 4 4 (Nat.le_of_ble_eq_true rfl) h (place_skip (Nat.le_of_ble_eq_true rfl) (place_skip (Nat.le_of_ble_eq_true rfl) (place_skip (Nat.le_of_ble_eq_true rfl) (place_hit h.isLt (place_cons_lt (Nat.le_of_ble_eq_true rfl : 1 < 2 ^ 1) (place_nil_lt 0) (Nat.le_of_ble_eq_true rfl))))))]))

theorem arm_fwstepHebb {w : BitVec 32} (hop : opcodeOf w = 0x03) : decodeF w = if holds w 0 4 0 then .ok (.fwstepDeltaPre (guardOf w) (fld w 16 4) (fld w 12 4) (fld w 8 4) (fld w 4 4)) else if holds w 0 4 1 then .ok (.fwstepDeltaPost (guardOf w) (fld w 16 4) (fld w 12 4) (fld w 8 4) (fld w 4 4)) else if holds w 0 4 2 then .ok (.fwstepHebb (guardOf w) (fld w 16 4) (fld w 12 4) (fld w 8 4) (fld w 4 4)) else if holds w 0 4 3 && holds w 12 4 0 then .ok (.fwstepGrad (guardOf w) (fld w 16 4) (fld w 8 4) (fld w 4 4)) else .error .zeroField := by
  unfold decodeF
  simp only [hop]

theorem fwstepHebb (g : Guard) (k : BitVec 4) (v : BitVec 4) (q : BitVec 4) (h : BitVec 4) : Statement (.fwstepHebb g k v q h) := by
  intro W hW
  obtain rfl : slotWord g 0x03 (place [(k.toNat, 16), (v.toNat, 12), (q.toNat, 8), (h.toNat, 4), (2, 0)]) = W := Option.some.inj hW
  have ho : 0x03 < 2 ^ 7 := Nat.le_of_ble_eq_true rfl
  have hf : place [(k.toNat, 16), (v.toNat, 12), (q.toNat, 8), (h.toNat, 4), (2, 0)] < 2 ^ 20 := place_cons_lt k.isLt (place_cons_lt v.isLt (place_cons_lt q.isLt (place_cons_lt h.isLt (place_cons_lt (Nat.le_of_ble_eq_true rfl : 2 < 2 ^ 2) (place_nil_lt 0) (Nat.le_of_ble_eq_true rfl)) (Nat.le_of_ble_eq_true rfl)) (Nat.le_of_ble_eq_true rfl)) (Nat.le_of_ble_eq_true rfl)) (Nat.le_of_ble_eq_true rfl)
  have hop := opcodeOf_slotWord (g := g) ho hf
  refine ⟨congrArg some (guardOf_slotWord ho hf).symm, _, rfl, decodeSlot_eq ?_⟩
  exact (decodeRaw_F hop (by decide)).trans (by rw [arm_fwstepHebb hop, if_neg (Bool.eq_false_iff.mp (holds_slotWord_ne ho hf 0 4 0 2 (Nat.le_of_ble_eq_true rfl) (place_skip (Nat.le_of_ble_eq_true rfl) (place_skip (Nat.le_of_ble_eq_true rfl) (place_skip (Nat.le_of_ble_eq_true rfl) (place_skip (Nat.le_of_ble_eq_true rfl) (place_hit (Nat.le_of_ble_eq_true rfl : 2 < 2 ^ 4) (place_nil_lt 0)))))) rfl)), if_neg (Bool.eq_false_iff.mp (holds_slotWord_ne ho hf 0 4 1 2 (Nat.le_of_ble_eq_true rfl) (place_skip (Nat.le_of_ble_eq_true rfl) (place_skip (Nat.le_of_ble_eq_true rfl) (place_skip (Nat.le_of_ble_eq_true rfl) (place_skip (Nat.le_of_ble_eq_true rfl) (place_hit (Nat.le_of_ble_eq_true rfl : 2 < 2 ^ 4) (place_nil_lt 0)))))) rfl)), if_pos (holds_slotWord ho hf 0 4 2 (Nat.le_of_ble_eq_true rfl) (place_skip (Nat.le_of_ble_eq_true rfl) (place_skip (Nat.le_of_ble_eq_true rfl) (place_skip (Nat.le_of_ble_eq_true rfl) (place_skip (Nat.le_of_ble_eq_true rfl) (place_hit (Nat.le_of_ble_eq_true rfl : 2 < 2 ^ 4) (place_nil_lt 0)))))))]; exact congrArg Except.ok (by rw [guardOf_slotWord ho hf, fld_slotWord ho hf 16 4 (Nat.le_of_ble_eq_true rfl) k (place_hit k.isLt (place_cons_lt v.isLt (place_cons_lt q.isLt (place_cons_lt h.isLt (place_cons_lt (Nat.le_of_ble_eq_true rfl : 2 < 2 ^ 2) (place_nil_lt 0) (Nat.le_of_ble_eq_true rfl)) (Nat.le_of_ble_eq_true rfl)) (Nat.le_of_ble_eq_true rfl)) (Nat.le_of_ble_eq_true rfl))), fld_slotWord ho hf 12 4 (Nat.le_of_ble_eq_true rfl) v (place_skip (Nat.le_of_ble_eq_true rfl) (place_hit v.isLt (place_cons_lt q.isLt (place_cons_lt h.isLt (place_cons_lt (Nat.le_of_ble_eq_true rfl : 2 < 2 ^ 2) (place_nil_lt 0) (Nat.le_of_ble_eq_true rfl)) (Nat.le_of_ble_eq_true rfl)) (Nat.le_of_ble_eq_true rfl)))), fld_slotWord ho hf 8 4 (Nat.le_of_ble_eq_true rfl) q (place_skip (Nat.le_of_ble_eq_true rfl) (place_skip (Nat.le_of_ble_eq_true rfl) (place_hit q.isLt (place_cons_lt h.isLt (place_cons_lt (Nat.le_of_ble_eq_true rfl : 2 < 2 ^ 2) (place_nil_lt 0) (Nat.le_of_ble_eq_true rfl)) (Nat.le_of_ble_eq_true rfl))))), fld_slotWord ho hf 4 4 (Nat.le_of_ble_eq_true rfl) h (place_skip (Nat.le_of_ble_eq_true rfl) (place_skip (Nat.le_of_ble_eq_true rfl) (place_skip (Nat.le_of_ble_eq_true rfl) (place_hit h.isLt (place_cons_lt (Nat.le_of_ble_eq_true rfl : 2 < 2 ^ 2) (place_nil_lt 0) (Nat.le_of_ble_eq_true rfl))))))]))

theorem arm_fwstepGrad {w : BitVec 32} (hop : opcodeOf w = 0x03) : decodeF w = if holds w 0 4 0 then .ok (.fwstepDeltaPre (guardOf w) (fld w 16 4) (fld w 12 4) (fld w 8 4) (fld w 4 4)) else if holds w 0 4 1 then .ok (.fwstepDeltaPost (guardOf w) (fld w 16 4) (fld w 12 4) (fld w 8 4) (fld w 4 4)) else if holds w 0 4 2 then .ok (.fwstepHebb (guardOf w) (fld w 16 4) (fld w 12 4) (fld w 8 4) (fld w 4 4)) else if holds w 0 4 3 && holds w 12 4 0 then .ok (.fwstepGrad (guardOf w) (fld w 16 4) (fld w 8 4) (fld w 4 4)) else .error .zeroField := by
  unfold decodeF
  simp only [hop]

theorem fwstepGrad (g : Guard) (k : BitVec 4) (q : BitVec 4) (h : BitVec 4) : Statement (.fwstepGrad g k q h) := by
  intro W hW
  obtain rfl : slotWord g 0x03 (place [(k.toNat, 16), (q.toNat, 8), (h.toNat, 4), (3, 0)]) = W := Option.some.inj hW
  have ho : 0x03 < 2 ^ 7 := Nat.le_of_ble_eq_true rfl
  have hf : place [(k.toNat, 16), (q.toNat, 8), (h.toNat, 4), (3, 0)] < 2 ^ 20 := place_cons_lt k.isLt (place_cons_lt q.isLt (place_cons_lt h.isLt (place_cons_lt (Nat.le_of_ble_eq_true rfl : 3 < 2 ^ 2) (place_nil_lt 0) (Nat.le_of_ble_eq_true rfl)) (Nat.le_of_ble_eq_true rfl)) (Nat.le_of_ble_eq_true rfl)) (Nat.le_of_ble_eq_true rfl)
  have hop := opcodeOf_slotWord (g := g) ho hf
  refine ⟨congrArg some (guardOf_slotWord ho hf).symm, _, rfl, decodeSlot_eq ?_⟩
  exact (decodeRaw_F hop (by decide)).trans (by rw [arm_fwstepGrad hop, if_neg (Bool.eq_false_iff.mp (holds_slotWord_ne ho hf 0 4 0 3 (Nat.le_of_ble_eq_true rfl) (place_skip (Nat.le_of_ble_eq_true rfl) (place_skip (Nat.le_of_ble_eq_true rfl) (place_skip (Nat.le_of_ble_eq_true rfl) (place_hit (Nat.le_of_ble_eq_true rfl : 3 < 2 ^ 4) (place_nil_lt 0))))) rfl)), if_neg (Bool.eq_false_iff.mp (holds_slotWord_ne ho hf 0 4 1 3 (Nat.le_of_ble_eq_true rfl) (place_skip (Nat.le_of_ble_eq_true rfl) (place_skip (Nat.le_of_ble_eq_true rfl) (place_skip (Nat.le_of_ble_eq_true rfl) (place_hit (Nat.le_of_ble_eq_true rfl : 3 < 2 ^ 4) (place_nil_lt 0))))) rfl)), if_neg (Bool.eq_false_iff.mp (holds_slotWord_ne ho hf 0 4 2 3 (Nat.le_of_ble_eq_true rfl) (place_skip (Nat.le_of_ble_eq_true rfl) (place_skip (Nat.le_of_ble_eq_true rfl) (place_skip (Nat.le_of_ble_eq_true rfl) (place_hit (Nat.le_of_ble_eq_true rfl : 3 < 2 ^ 4) (place_nil_lt 0))))) rfl)), if_pos (Bool.and_eq_true_iff.mpr ⟨(holds_slotWord ho hf 0 4 3 (Nat.le_of_ble_eq_true rfl) (place_skip (Nat.le_of_ble_eq_true rfl) (place_skip (Nat.le_of_ble_eq_true rfl) (place_skip (Nat.le_of_ble_eq_true rfl) (place_hit (Nat.le_of_ble_eq_true rfl : 3 < 2 ^ 4) (place_nil_lt 0)))))), (holds_slotWord ho hf 12 4 0 (Nat.le_of_ble_eq_true rfl) (place_skip (Nat.le_of_ble_eq_true rfl) (place_zero (place_cons_lt q.isLt (place_cons_lt h.isLt (place_cons_lt (Nat.le_of_ble_eq_true rfl : 3 < 2 ^ 2) (place_nil_lt 0) (Nat.le_of_ble_eq_true rfl)) (Nat.le_of_ble_eq_true rfl)) (Nat.le_of_ble_eq_true rfl)))))⟩)]; exact congrArg Except.ok (by rw [guardOf_slotWord ho hf, fld_slotWord ho hf 16 4 (Nat.le_of_ble_eq_true rfl) k (place_hit k.isLt (place_cons_lt q.isLt (place_cons_lt h.isLt (place_cons_lt (Nat.le_of_ble_eq_true rfl : 3 < 2 ^ 2) (place_nil_lt 0) (Nat.le_of_ble_eq_true rfl)) (Nat.le_of_ble_eq_true rfl)) (Nat.le_of_ble_eq_true rfl))), fld_slotWord ho hf 8 4 (Nat.le_of_ble_eq_true rfl) q (place_skip (Nat.le_of_ble_eq_true rfl) (place_hit q.isLt (place_cons_lt h.isLt (place_cons_lt (Nat.le_of_ble_eq_true rfl : 3 < 2 ^ 2) (place_nil_lt 0) (Nat.le_of_ble_eq_true rfl)) (Nat.le_of_ble_eq_true rfl)))), fld_slotWord ho hf 4 4 (Nat.le_of_ble_eq_true rfl) h (place_skip (Nat.le_of_ble_eq_true rfl) (place_skip (Nat.le_of_ble_eq_true rfl) (place_hit h.isLt (place_cons_lt (Nat.le_of_ble_eq_true rfl : 3 < 2 ^ 2) (place_nil_lt 0) (Nat.le_of_ble_eq_true rfl)))))]))

theorem arm_fwfade {w : BitVec 32} (hop : opcodeOf w = 0x04) : decodeF w = accept (holds w 0 4 0 && holds w 8 12 0) (.fwfade (guardOf w) (fld w 4 4)) := by
  unfold decodeF
  simp only [hop]

theorem fwfade (g : Guard) (h : BitVec 4) : Statement (.fwfade g h) := by
  intro W hW
  obtain rfl : slotWord g 0x04 (place [(h.toNat, 4)]) = W := Option.some.inj hW
  have ho : 0x04 < 2 ^ 7 := Nat.le_of_ble_eq_true rfl
  have hf : place [(h.toNat, 4)] < 2 ^ 20 := place_cons_lt h.isLt (place_nil_lt 4) (Nat.le_of_ble_eq_true rfl)
  have hop := opcodeOf_slotWord (g := g) ho hf
  refine ⟨congrArg some (guardOf_slotWord ho hf).symm, _, rfl, decodeSlot_eq ?_⟩
  exact (decodeRaw_F hop (by decide)).trans ((arm_fwfade hop).trans (accept_eq (Bool.and_eq_true_iff.mpr ⟨(holds_slotWord ho hf 0 4 0 (Nat.le_of_ble_eq_true rfl) (place_skip (Nat.le_of_ble_eq_true rfl) (place_zero (place_nil_lt 0)))), (holds_slotWord ho hf 8 12 0 (Nat.le_of_ble_eq_true rfl) (place_zero (place_cons_lt h.isLt (place_nil_lt 4) (Nat.le_of_ble_eq_true rfl))))⟩) (by rw [guardOf_slotWord ho hf, fld_slotWord ho hf 4 4 (Nat.le_of_ble_eq_true rfl) h (place_hit h.isLt (place_nil_lt 4))])))

theorem arm_fwouter {w : BitVec 32} (hop : opcodeOf w = 0x05) : decodeF w = accept (holds w 0 4 0 && holds w 8 4 0) (.fwouter (guardOf w) (fld w 16 4) (fld w 12 4) (fld w 4 4)) := by
  unfold decodeF
  simp only [hop]

theorem fwouter (g : Guard) (k : BitVec 4) (v : BitVec 4) (h : BitVec 4) : Statement (.fwouter g k v h) := by
  intro W hW
  obtain rfl : slotWord g 0x05 (place [(k.toNat, 16), (v.toNat, 12), (h.toNat, 4)]) = W := Option.some.inj hW
  have ho : 0x05 < 2 ^ 7 := Nat.le_of_ble_eq_true rfl
  have hf : place [(k.toNat, 16), (v.toNat, 12), (h.toNat, 4)] < 2 ^ 20 := place_cons_lt k.isLt (place_cons_lt v.isLt (place_cons_lt h.isLt (place_nil_lt 4) (Nat.le_of_ble_eq_true rfl)) (Nat.le_of_ble_eq_true rfl)) (Nat.le_of_ble_eq_true rfl)
  have hop := opcodeOf_slotWord (g := g) ho hf
  refine ⟨congrArg some (guardOf_slotWord ho hf).symm, _, rfl, decodeSlot_eq ?_⟩
  exact (decodeRaw_F hop (by decide)).trans ((arm_fwouter hop).trans (accept_eq (Bool.and_eq_true_iff.mpr ⟨(holds_slotWord ho hf 0 4 0 (Nat.le_of_ble_eq_true rfl) (place_skip (Nat.le_of_ble_eq_true rfl) (place_skip (Nat.le_of_ble_eq_true rfl) (place_skip (Nat.le_of_ble_eq_true rfl) (place_zero (place_nil_lt 0)))))), (holds_slotWord ho hf 8 4 0 (Nat.le_of_ble_eq_true rfl) (place_skip (Nat.le_of_ble_eq_true rfl) (place_skip (Nat.le_of_ble_eq_true rfl) (place_zero (place_cons_lt h.isLt (place_nil_lt 4) (Nat.le_of_ble_eq_true rfl))))))⟩) (by rw [guardOf_slotWord ho hf, fld_slotWord ho hf 16 4 (Nat.le_of_ble_eq_true rfl) k (place_hit k.isLt (place_cons_lt v.isLt (place_cons_lt h.isLt (place_nil_lt 4) (Nat.le_of_ble_eq_true rfl)) (Nat.le_of_ble_eq_true rfl))), fld_slotWord ho hf 12 4 (Nat.le_of_ble_eq_true rfl) v (place_skip (Nat.le_of_ble_eq_true rfl) (place_hit v.isLt (place_cons_lt h.isLt (place_nil_lt 4) (Nat.le_of_ble_eq_true rfl)))), fld_slotWord ho hf 4 4 (Nat.le_of_ble_eq_true rfl) h (place_skip (Nat.le_of_ble_eq_true rfl) (place_skip (Nat.le_of_ble_eq_true rfl) (place_hit h.isLt (place_nil_lt 4))))])))

theorem arm_fwcommit {w : BitVec 32} (hop : opcodeOf w = 0x06) : decodeF w = accept (holds w 0 4 0 && holds w 8 12 0) (.fwcommit (guardOf w) (fld w 4 4)) := by
  unfold decodeF
  simp only [hop]

theorem fwcommit (g : Guard) (h : BitVec 4) : Statement (.fwcommit g h) := by
  intro W hW
  obtain rfl : slotWord g 0x06 (place [(h.toNat, 4)]) = W := Option.some.inj hW
  have ho : 0x06 < 2 ^ 7 := Nat.le_of_ble_eq_true rfl
  have hf : place [(h.toNat, 4)] < 2 ^ 20 := place_cons_lt h.isLt (place_nil_lt 4) (Nat.le_of_ble_eq_true rfl)
  have hop := opcodeOf_slotWord (g := g) ho hf
  refine ⟨congrArg some (guardOf_slotWord ho hf).symm, _, rfl, decodeSlot_eq ?_⟩
  exact (decodeRaw_F hop (by decide)).trans ((arm_fwcommit hop).trans (accept_eq (Bool.and_eq_true_iff.mpr ⟨(holds_slotWord ho hf 0 4 0 (Nat.le_of_ble_eq_true rfl) (place_skip (Nat.le_of_ble_eq_true rfl) (place_zero (place_nil_lt 0)))), (holds_slotWord ho hf 8 12 0 (Nat.le_of_ble_eq_true rfl) (place_zero (place_cons_lt h.isLt (place_nil_lt 4) (Nat.le_of_ble_eq_true rfl))))⟩) (by rw [guardOf_slotWord ho hf, fld_slotWord ho hf 4 4 (Nat.le_of_ble_eq_true rfl) h (place_hit h.isLt (place_nil_lt 4))])))

theorem arm_fwsnap {w : BitVec 32} (hop : opcodeOf w = 0x08) : decodeF w = accept (holds w 8 12 0) (.fwsnap (guardOf w) (fld w 4 4) (fld w 0 4)) := by
  unfold decodeF
  simp only [hop]

theorem fwsnap (g : Guard) (h : BitVec 4) (d : BitVec 4) : Statement (.fwsnap g h d) := by
  intro W hW
  obtain rfl : slotWord g 0x08 (place [(h.toNat, 4), (d.toNat, 0)]) = W := Option.some.inj hW
  have ho : 0x08 < 2 ^ 7 := Nat.le_of_ble_eq_true rfl
  have hf : place [(h.toNat, 4), (d.toNat, 0)] < 2 ^ 20 := place_cons_lt h.isLt (place_cons_lt d.isLt (place_nil_lt 0) (Nat.le_of_ble_eq_true rfl)) (Nat.le_of_ble_eq_true rfl)
  have hop := opcodeOf_slotWord (g := g) ho hf
  refine ⟨congrArg some (guardOf_slotWord ho hf).symm, _, rfl, decodeSlot_eq ?_⟩
  exact (decodeRaw_F hop (by decide)).trans ((arm_fwsnap hop).trans (accept_eq (holds_slotWord ho hf 8 12 0 (Nat.le_of_ble_eq_true rfl) (place_zero (place_cons_lt h.isLt (place_cons_lt d.isLt (place_nil_lt 0) (Nat.le_of_ble_eq_true rfl)) (Nat.le_of_ble_eq_true rfl)))) (by rw [guardOf_slotWord ho hf, fld_slotWord ho hf 4 4 (Nat.le_of_ble_eq_true rfl) h (place_hit h.isLt (place_cons_lt d.isLt (place_nil_lt 0) (Nat.le_of_ble_eq_true rfl))), fld_slotWord ho hf 0 4 (Nat.le_of_ble_eq_true rfl) d (place_skip (Nat.le_of_ble_eq_true rfl) (place_hit d.isLt (place_nil_lt 0)))])))

theorem arm_fwfork {w : BitVec 32} (hop : opcodeOf w = 0x09) : decodeF w = accept (holds w 8 8 0 && holds w 18 2 0) (.fwfork (guardOf w) (fld w 16 2) (fld w 4 4) (fld w 0 4)) := by
  unfold decodeF
  simp only [hop]

theorem fwfork (g : Guard) (c : BitVec 2) (h : BitVec 4) (d : BitVec 4) : Statement (.fwfork g c h d) := by
  intro W hW
  obtain rfl : slotWord g 0x09 (place [(c.toNat, 16), (h.toNat, 4), (d.toNat, 0)]) = W := Option.some.inj hW
  have ho : 0x09 < 2 ^ 7 := Nat.le_of_ble_eq_true rfl
  have hf : place [(c.toNat, 16), (h.toNat, 4), (d.toNat, 0)] < 2 ^ 20 := place_cons_lt c.isLt (place_cons_lt h.isLt (place_cons_lt d.isLt (place_nil_lt 0) (Nat.le_of_ble_eq_true rfl)) (Nat.le_of_ble_eq_true rfl)) (Nat.le_of_ble_eq_true rfl)
  have hop := opcodeOf_slotWord (g := g) ho hf
  refine ⟨congrArg some (guardOf_slotWord ho hf).symm, _, rfl, decodeSlot_eq ?_⟩
  exact (decodeRaw_F hop (by decide)).trans ((arm_fwfork hop).trans (accept_eq (Bool.and_eq_true_iff.mpr ⟨(holds_slotWord ho hf 8 8 0 (Nat.le_of_ble_eq_true rfl) (place_skip (Nat.le_of_ble_eq_true rfl) (place_zero (place_cons_lt h.isLt (place_cons_lt d.isLt (place_nil_lt 0) (Nat.le_of_ble_eq_true rfl)) (Nat.le_of_ble_eq_true rfl))))), (holds_slotWord ho hf 18 2 0 (Nat.le_of_ble_eq_true rfl) (place_zero (place_cons_lt c.isLt (place_cons_lt h.isLt (place_cons_lt d.isLt (place_nil_lt 0) (Nat.le_of_ble_eq_true rfl)) (Nat.le_of_ble_eq_true rfl)) (Nat.le_of_ble_eq_true rfl))))⟩) (by rw [guardOf_slotWord ho hf, fld_slotWord ho hf 16 2 (Nat.le_of_ble_eq_true rfl) c (place_hit c.isLt (place_cons_lt h.isLt (place_cons_lt d.isLt (place_nil_lt 0) (Nat.le_of_ble_eq_true rfl)) (Nat.le_of_ble_eq_true rfl))), fld_slotWord ho hf 4 4 (Nat.le_of_ble_eq_true rfl) h (place_skip (Nat.le_of_ble_eq_true rfl) (place_hit h.isLt (place_cons_lt d.isLt (place_nil_lt 0) (Nat.le_of_ble_eq_true rfl)))), fld_slotWord ho hf 0 4 (Nat.le_of_ble_eq_true rfl) d (place_skip (Nat.le_of_ble_eq_true rfl) (place_skip (Nat.le_of_ble_eq_true rfl) (place_hit d.isLt (place_nil_lt 0))))])))

theorem arm_fwavg {w : BitVec 32} (hop : opcodeOf w = 0x0A) : decodeF w = accept (true) (.fwavg (guardOf w) (fld w 16 4) (fld w 12 4) (fld w 8 4) (fld w 4 4) (fld w 0 4)) := by
  unfold decodeF
  simp only [hop]

theorem fwavg (g : Guard) (a : BitVec 4) (b : BitVec 4) (c : BitVec 4) (h : BitVec 4) (e : BitVec 4) : Statement (.fwavg g a b c h e) := by
  intro W hW
  obtain rfl : slotWord g 0x0A (place [(a.toNat, 16), (b.toNat, 12), (c.toNat, 8), (h.toNat, 4), (e.toNat, 0)]) = W := Option.some.inj hW
  have ho : 0x0A < 2 ^ 7 := Nat.le_of_ble_eq_true rfl
  have hf : place [(a.toNat, 16), (b.toNat, 12), (c.toNat, 8), (h.toNat, 4), (e.toNat, 0)] < 2 ^ 20 := place_cons_lt a.isLt (place_cons_lt b.isLt (place_cons_lt c.isLt (place_cons_lt h.isLt (place_cons_lt e.isLt (place_nil_lt 0) (Nat.le_of_ble_eq_true rfl)) (Nat.le_of_ble_eq_true rfl)) (Nat.le_of_ble_eq_true rfl)) (Nat.le_of_ble_eq_true rfl)) (Nat.le_of_ble_eq_true rfl)
  have hop := opcodeOf_slotWord (g := g) ho hf
  refine ⟨congrArg some (guardOf_slotWord ho hf).symm, _, rfl, decodeSlot_eq ?_⟩
  exact (decodeRaw_F hop (by decide)).trans ((arm_fwavg hop).trans (accept_eq rfl (by rw [guardOf_slotWord ho hf, fld_slotWord ho hf 16 4 (Nat.le_of_ble_eq_true rfl) a (place_hit a.isLt (place_cons_lt b.isLt (place_cons_lt c.isLt (place_cons_lt h.isLt (place_cons_lt e.isLt (place_nil_lt 0) (Nat.le_of_ble_eq_true rfl)) (Nat.le_of_ble_eq_true rfl)) (Nat.le_of_ble_eq_true rfl)) (Nat.le_of_ble_eq_true rfl))), fld_slotWord ho hf 12 4 (Nat.le_of_ble_eq_true rfl) b (place_skip (Nat.le_of_ble_eq_true rfl) (place_hit b.isLt (place_cons_lt c.isLt (place_cons_lt h.isLt (place_cons_lt e.isLt (place_nil_lt 0) (Nat.le_of_ble_eq_true rfl)) (Nat.le_of_ble_eq_true rfl)) (Nat.le_of_ble_eq_true rfl)))), fld_slotWord ho hf 8 4 (Nat.le_of_ble_eq_true rfl) c (place_skip (Nat.le_of_ble_eq_true rfl) (place_skip (Nat.le_of_ble_eq_true rfl) (place_hit c.isLt (place_cons_lt h.isLt (place_cons_lt e.isLt (place_nil_lt 0) (Nat.le_of_ble_eq_true rfl)) (Nat.le_of_ble_eq_true rfl))))), fld_slotWord ho hf 4 4 (Nat.le_of_ble_eq_true rfl) h (place_skip (Nat.le_of_ble_eq_true rfl) (place_skip (Nat.le_of_ble_eq_true rfl) (place_skip (Nat.le_of_ble_eq_true rfl) (place_hit h.isLt (place_cons_lt e.isLt (place_nil_lt 0) (Nat.le_of_ble_eq_true rfl)))))), fld_slotWord ho hf 0 4 (Nat.le_of_ble_eq_true rfl) e (place_skip (Nat.le_of_ble_eq_true rfl) (place_skip (Nat.le_of_ble_eq_true rfl) (place_skip (Nat.le_of_ble_eq_true rfl) (place_skip (Nat.le_of_ble_eq_true rfl) (place_hit e.isLt (place_nil_lt 0))))))])))

theorem arm_fwroll {w : BitVec 32} (hop : opcodeOf w = 0x0B) : decodeF w = accept (holds w 8 12 0) (.fwroll (guardOf w) (fld w 4 4) (fld w 0 4)) := by
  unfold decodeF
  simp only [hop]

theorem fwroll (g : Guard) (h : BitVec 4) (sr : BitVec 4) : Statement (.fwroll g h sr) := by
  intro W hW
  obtain rfl : slotWord g 0x0B (place [(h.toNat, 4), (sr.toNat, 0)]) = W := Option.some.inj hW
  have ho : 0x0B < 2 ^ 7 := Nat.le_of_ble_eq_true rfl
  have hf : place [(h.toNat, 4), (sr.toNat, 0)] < 2 ^ 20 := place_cons_lt h.isLt (place_cons_lt sr.isLt (place_nil_lt 0) (Nat.le_of_ble_eq_true rfl)) (Nat.le_of_ble_eq_true rfl)
  have hop := opcodeOf_slotWord (g := g) ho hf
  refine ⟨congrArg some (guardOf_slotWord ho hf).symm, _, rfl, decodeSlot_eq ?_⟩
  exact (decodeRaw_F hop (by decide)).trans ((arm_fwroll hop).trans (accept_eq (holds_slotWord ho hf 8 12 0 (Nat.le_of_ble_eq_true rfl) (place_zero (place_cons_lt h.isLt (place_cons_lt sr.isLt (place_nil_lt 0) (Nat.le_of_ble_eq_true rfl)) (Nat.le_of_ble_eq_true rfl)))) (by rw [guardOf_slotWord ho hf, fld_slotWord ho hf 4 4 (Nat.le_of_ble_eq_true rfl) h (place_hit h.isLt (place_cons_lt sr.isLt (place_nil_lt 0) (Nat.le_of_ble_eq_true rfl))), fld_slotWord ho hf 0 4 (Nat.le_of_ble_eq_true rfl) sr (place_skip (Nat.le_of_ble_eq_true rfl) (place_hit sr.isLt (place_nil_lt 0)))])))

theorem arm_fwdrop {w : BitVec 32} (hop : opcodeOf w = 0x0C) : decodeF w = accept (holds w 0 4 0 && holds w 8 12 0) (.fwdrop (guardOf w) (fld w 4 4)) := by
  unfold decodeF
  simp only [hop]

theorem fwdrop (g : Guard) (h : BitVec 4) : Statement (.fwdrop g h) := by
  intro W hW
  obtain rfl : slotWord g 0x0C (place [(h.toNat, 4)]) = W := Option.some.inj hW
  have ho : 0x0C < 2 ^ 7 := Nat.le_of_ble_eq_true rfl
  have hf : place [(h.toNat, 4)] < 2 ^ 20 := place_cons_lt h.isLt (place_nil_lt 4) (Nat.le_of_ble_eq_true rfl)
  have hop := opcodeOf_slotWord (g := g) ho hf
  refine ⟨congrArg some (guardOf_slotWord ho hf).symm, _, rfl, decodeSlot_eq ?_⟩
  exact (decodeRaw_F hop (by decide)).trans ((arm_fwdrop hop).trans (accept_eq (Bool.and_eq_true_iff.mpr ⟨(holds_slotWord ho hf 0 4 0 (Nat.le_of_ble_eq_true rfl) (place_skip (Nat.le_of_ble_eq_true rfl) (place_zero (place_nil_lt 0)))), (holds_slotWord ho hf 8 12 0 (Nat.le_of_ble_eq_true rfl) (place_zero (place_cons_lt h.isLt (place_nil_lt 4) (Nat.le_of_ble_eq_true rfl))))⟩) (by rw [guardOf_slotWord ho hf, fld_slotWord ho hf 4 4 (Nat.le_of_ble_eq_true rfl) h (place_hit h.isLt (place_nil_lt 4))])))

theorem arm_fwmigr {w : BitVec 32} (hop : opcodeOf w = 0x10) : decodeF w = accept (holds w 8 12 0) (.fwmigr (guardOf w) (fld w 4 4) (fld w 0 4)) := by
  unfold decodeF
  simp only [hop]

theorem fwmigr (g : Guard) (h : BitVec 4) (d : BitVec 4) : Statement (.fwmigr g h d) := by
  intro W hW
  obtain rfl : slotWord g 0x10 (place [(h.toNat, 4), (d.toNat, 0)]) = W := Option.some.inj hW
  have ho : 0x10 < 2 ^ 7 := Nat.le_of_ble_eq_true rfl
  have hf : place [(h.toNat, 4), (d.toNat, 0)] < 2 ^ 20 := place_cons_lt h.isLt (place_cons_lt d.isLt (place_nil_lt 0) (Nat.le_of_ble_eq_true rfl)) (Nat.le_of_ble_eq_true rfl)
  have hop := opcodeOf_slotWord (g := g) ho hf
  refine ⟨congrArg some (guardOf_slotWord ho hf).symm, _, rfl, decodeSlot_eq ?_⟩
  exact (decodeRaw_F hop (by decide)).trans ((arm_fwmigr hop).trans (accept_eq (holds_slotWord ho hf 8 12 0 (Nat.le_of_ble_eq_true rfl) (place_zero (place_cons_lt h.isLt (place_cons_lt d.isLt (place_nil_lt 0) (Nat.le_of_ble_eq_true rfl)) (Nat.le_of_ble_eq_true rfl)))) (by rw [guardOf_slotWord ho hf, fld_slotWord ho hf 4 4 (Nat.le_of_ble_eq_true rfl) h (place_hit h.isLt (place_cons_lt d.isLt (place_nil_lt 0) (Nat.le_of_ble_eq_true rfl))), fld_slotWord ho hf 0 4 (Nat.le_of_ble_eq_true rfl) d (place_skip (Nat.le_of_ble_eq_true rfl) (place_hit d.isLt (place_nil_lt 0)))])))

theorem arm_fwpagein {w : BitVec 32} (hop : opcodeOf w = 0x11) : decodeF w = accept (holds w 8 12 0) (.fwpagein (guardOf w) (fld w 4 4) (fld w 0 4)) := by
  unfold decodeF
  simp only [hop]

theorem fwpagein (g : Guard) (h : BitVec 4) (f : BitVec 4) : Statement (.fwpagein g h f) := by
  intro W hW
  obtain rfl : slotWord g 0x11 (place [(h.toNat, 4), (f.toNat, 0)]) = W := Option.some.inj hW
  have ho : 0x11 < 2 ^ 7 := Nat.le_of_ble_eq_true rfl
  have hf : place [(h.toNat, 4), (f.toNat, 0)] < 2 ^ 20 := place_cons_lt h.isLt (place_cons_lt f.isLt (place_nil_lt 0) (Nat.le_of_ble_eq_true rfl)) (Nat.le_of_ble_eq_true rfl)
  have hop := opcodeOf_slotWord (g := g) ho hf
  refine ⟨congrArg some (guardOf_slotWord ho hf).symm, _, rfl, decodeSlot_eq ?_⟩
  exact (decodeRaw_F hop (by decide)).trans ((arm_fwpagein hop).trans (accept_eq (holds_slotWord ho hf 8 12 0 (Nat.le_of_ble_eq_true rfl) (place_zero (place_cons_lt h.isLt (place_cons_lt f.isLt (place_nil_lt 0) (Nat.le_of_ble_eq_true rfl)) (Nat.le_of_ble_eq_true rfl)))) (by rw [guardOf_slotWord ho hf, fld_slotWord ho hf 4 4 (Nat.le_of_ble_eq_true rfl) h (place_hit h.isLt (place_cons_lt f.isLt (place_nil_lt 0) (Nat.le_of_ble_eq_true rfl))), fld_slotWord ho hf 0 4 (Nat.le_of_ble_eq_true rfl) f (place_skip (Nat.le_of_ble_eq_true rfl) (place_hit f.isLt (place_nil_lt 0)))])))

theorem arm_fwevict {w : BitVec 32} (hop : opcodeOf w = 0x12) : decodeF w = accept (holds w 0 4 0 && holds w 8 12 0) (.fwevict (guardOf w) (fld w 4 4)) := by
  unfold decodeF
  simp only [hop]

theorem fwevict (g : Guard) (h : BitVec 4) : Statement (.fwevict g h) := by
  intro W hW
  obtain rfl : slotWord g 0x12 (place [(h.toNat, 4)]) = W := Option.some.inj hW
  have ho : 0x12 < 2 ^ 7 := Nat.le_of_ble_eq_true rfl
  have hf : place [(h.toNat, 4)] < 2 ^ 20 := place_cons_lt h.isLt (place_nil_lt 4) (Nat.le_of_ble_eq_true rfl)
  have hop := opcodeOf_slotWord (g := g) ho hf
  refine ⟨congrArg some (guardOf_slotWord ho hf).symm, _, rfl, decodeSlot_eq ?_⟩
  exact (decodeRaw_F hop (by decide)).trans ((arm_fwevict hop).trans (accept_eq (Bool.and_eq_true_iff.mpr ⟨(holds_slotWord ho hf 0 4 0 (Nat.le_of_ble_eq_true rfl) (place_skip (Nat.le_of_ble_eq_true rfl) (place_zero (place_nil_lt 0)))), (holds_slotWord ho hf 8 12 0 (Nat.le_of_ble_eq_true rfl) (place_zero (place_cons_lt h.isLt (place_nil_lt 4) (Nat.le_of_ble_eq_true rfl))))⟩) (by rw [guardOf_slotWord ho hf, fld_slotWord ho hf 4 4 (Nat.le_of_ble_eq_true rfl) h (place_hit h.isLt (place_nil_lt 4))])))

theorem arm_fwstat {w : BitVec 32} (hop : opcodeOf w = 0x13) : decodeF w = accept (holds w 0 4 0 && holds w 8 8 0) (.fwstat (guardOf w) (fld w 16 4) (fld w 4 4)) := by
  unfold decodeF
  simp only [hop]

theorem fwstat (g : Guard) (t : BitVec 4) (h : BitVec 4) : Statement (.fwstat g t h) := by
  intro W hW
  obtain rfl : slotWord g 0x13 (place [(t.toNat, 16), (h.toNat, 4)]) = W := Option.some.inj hW
  have ho : 0x13 < 2 ^ 7 := Nat.le_of_ble_eq_true rfl
  have hf : place [(t.toNat, 16), (h.toNat, 4)] < 2 ^ 20 := place_cons_lt t.isLt (place_cons_lt h.isLt (place_nil_lt 4) (Nat.le_of_ble_eq_true rfl)) (Nat.le_of_ble_eq_true rfl)
  have hop := opcodeOf_slotWord (g := g) ho hf
  refine ⟨congrArg some (guardOf_slotWord ho hf).symm, _, rfl, decodeSlot_eq ?_⟩
  exact (decodeRaw_F hop (by decide)).trans ((arm_fwstat hop).trans (accept_eq (Bool.and_eq_true_iff.mpr ⟨(holds_slotWord ho hf 0 4 0 (Nat.le_of_ble_eq_true rfl) (place_skip (Nat.le_of_ble_eq_true rfl) (place_skip (Nat.le_of_ble_eq_true rfl) (place_zero (place_nil_lt 0))))), (holds_slotWord ho hf 8 8 0 (Nat.le_of_ble_eq_true rfl) (place_skip (Nat.le_of_ble_eq_true rfl) (place_zero (place_cons_lt h.isLt (place_nil_lt 4) (Nat.le_of_ble_eq_true rfl)))))⟩) (by rw [guardOf_slotWord ho hf, fld_slotWord ho hf 16 4 (Nat.le_of_ble_eq_true rfl) t (place_hit t.isLt (place_cons_lt h.isLt (place_nil_lt 4) (Nat.le_of_ble_eq_true rfl))), fld_slotWord ho hf 4 4 (Nat.le_of_ble_eq_true rfl) h (place_skip (Nat.le_of_ble_eq_true rfl) (place_hit h.isLt (place_nil_lt 4)))])))

theorem arm_xld {w : BitVec 32} (hop : opcodeOf w = 0x01) : decodeX w = accept (holds w 0 6 0) (.xld (guardOf w) (fld w 16 4) (fld w 13 3) (fld w 9 4) (flag w 8) (flag w 7) (flag w 6)) := by
  unfold decodeX
  simp only [hop]

theorem xld (g : Guard) (t : BitVec 4) (sr : BitVec 3) (f : BitVec 4) (i : Bool) (p : Bool) (e : Bool) : Statement (.xld g t sr f i p e) := by
  intro W hW
  obtain rfl : slotWord g 0x01 (place [(t.toNat, 16), (sr.toNat, 13), (f.toNat, 9), (i.toNat, 8), (p.toNat, 7), (e.toNat, 6)]) = W := Option.some.inj hW
  have ho : 0x01 < 2 ^ 7 := Nat.le_of_ble_eq_true rfl
  have hf : place [(t.toNat, 16), (sr.toNat, 13), (f.toNat, 9), (i.toNat, 8), (p.toNat, 7), (e.toNat, 6)] < 2 ^ 20 := place_cons_lt t.isLt (place_cons_lt sr.isLt (place_cons_lt f.isLt (place_cons_lt (bool_lt i) (place_cons_lt (bool_lt p) (place_cons_lt (bool_lt e) (place_nil_lt 6) (Nat.le_of_ble_eq_true rfl)) (Nat.le_of_ble_eq_true rfl)) (Nat.le_of_ble_eq_true rfl)) (Nat.le_of_ble_eq_true rfl)) (Nat.le_of_ble_eq_true rfl)) (Nat.le_of_ble_eq_true rfl)
  have hop := opcodeOf_slotWord (g := g) ho hf
  refine ⟨congrArg some (guardOf_slotWord ho hf).symm, _, rfl, decodeSlot_eq ?_⟩
  exact (decodeRaw_X hop (by decide)).trans ((arm_xld hop).trans (accept_eq (holds_slotWord ho hf 0 6 0 (Nat.le_of_ble_eq_true rfl) (place_skip (Nat.le_of_ble_eq_true rfl) (place_skip (Nat.le_of_ble_eq_true rfl) (place_skip (Nat.le_of_ble_eq_true rfl) (place_skip (Nat.le_of_ble_eq_true rfl) (place_skip (Nat.le_of_ble_eq_true rfl) (place_skip (Nat.le_of_ble_eq_true rfl) (place_zero (place_nil_lt 0))))))))) (by rw [guardOf_slotWord ho hf, fld_slotWord ho hf 16 4 (Nat.le_of_ble_eq_true rfl) t (place_hit t.isLt (place_cons_lt sr.isLt (place_cons_lt f.isLt (place_cons_lt (bool_lt i) (place_cons_lt (bool_lt p) (place_cons_lt (bool_lt e) (place_nil_lt 6) (Nat.le_of_ble_eq_true rfl)) (Nat.le_of_ble_eq_true rfl)) (Nat.le_of_ble_eq_true rfl)) (Nat.le_of_ble_eq_true rfl)) (Nat.le_of_ble_eq_true rfl))), fld_slotWord ho hf 13 3 (Nat.le_of_ble_eq_true rfl) sr (place_skip (Nat.le_of_ble_eq_true rfl) (place_hit sr.isLt (place_cons_lt f.isLt (place_cons_lt (bool_lt i) (place_cons_lt (bool_lt p) (place_cons_lt (bool_lt e) (place_nil_lt 6) (Nat.le_of_ble_eq_true rfl)) (Nat.le_of_ble_eq_true rfl)) (Nat.le_of_ble_eq_true rfl)) (Nat.le_of_ble_eq_true rfl)))), fld_slotWord ho hf 9 4 (Nat.le_of_ble_eq_true rfl) f (place_skip (Nat.le_of_ble_eq_true rfl) (place_skip (Nat.le_of_ble_eq_true rfl) (place_hit f.isLt (place_cons_lt (bool_lt i) (place_cons_lt (bool_lt p) (place_cons_lt (bool_lt e) (place_nil_lt 6) (Nat.le_of_ble_eq_true rfl)) (Nat.le_of_ble_eq_true rfl)) (Nat.le_of_ble_eq_true rfl))))), flag_slotWord ho hf 8 (Nat.le_of_ble_eq_true rfl) i (place_skip (Nat.le_of_ble_eq_true rfl) (place_skip (Nat.le_of_ble_eq_true rfl) (place_skip (Nat.le_of_ble_eq_true rfl) (place_hit (bool_lt i) (place_cons_lt (bool_lt p) (place_cons_lt (bool_lt e) (place_nil_lt 6) (Nat.le_of_ble_eq_true rfl)) (Nat.le_of_ble_eq_true rfl)))))), flag_slotWord ho hf 7 (Nat.le_of_ble_eq_true rfl) p (place_skip (Nat.le_of_ble_eq_true rfl) (place_skip (Nat.le_of_ble_eq_true rfl) (place_skip (Nat.le_of_ble_eq_true rfl) (place_skip (Nat.le_of_ble_eq_true rfl) (place_hit (bool_lt p) (place_cons_lt (bool_lt e) (place_nil_lt 6) (Nat.le_of_ble_eq_true rfl))))))), flag_slotWord ho hf 6 (Nat.le_of_ble_eq_true rfl) e (place_skip (Nat.le_of_ble_eq_true rfl) (place_skip (Nat.le_of_ble_eq_true rfl) (place_skip (Nat.le_of_ble_eq_true rfl) (place_skip (Nat.le_of_ble_eq_true rfl) (place_skip (Nat.le_of_ble_eq_true rfl) (place_hit (bool_lt e) (place_nil_lt 6)))))))])))

theorem arm_xldTr {w : BitVec 32} (hop : opcodeOf w = 0x02) : decodeX w = accept (holds w 0 6 0) (.xldTr (guardOf w) (fld w 16 4) (fld w 13 3) (fld w 9 4) (flag w 8) (flag w 7) (flag w 6)) := by
  unfold decodeX
  simp only [hop]

theorem xldTr (g : Guard) (t : BitVec 4) (sr : BitVec 3) (f : BitVec 4) (i : Bool) (p : Bool) (e : Bool) : Statement (.xldTr g t sr f i p e) := by
  intro W hW
  obtain rfl : slotWord g 0x02 (place [(t.toNat, 16), (sr.toNat, 13), (f.toNat, 9), (i.toNat, 8), (p.toNat, 7), (e.toNat, 6)]) = W := Option.some.inj hW
  have ho : 0x02 < 2 ^ 7 := Nat.le_of_ble_eq_true rfl
  have hf : place [(t.toNat, 16), (sr.toNat, 13), (f.toNat, 9), (i.toNat, 8), (p.toNat, 7), (e.toNat, 6)] < 2 ^ 20 := place_cons_lt t.isLt (place_cons_lt sr.isLt (place_cons_lt f.isLt (place_cons_lt (bool_lt i) (place_cons_lt (bool_lt p) (place_cons_lt (bool_lt e) (place_nil_lt 6) (Nat.le_of_ble_eq_true rfl)) (Nat.le_of_ble_eq_true rfl)) (Nat.le_of_ble_eq_true rfl)) (Nat.le_of_ble_eq_true rfl)) (Nat.le_of_ble_eq_true rfl)) (Nat.le_of_ble_eq_true rfl)
  have hop := opcodeOf_slotWord (g := g) ho hf
  refine ⟨congrArg some (guardOf_slotWord ho hf).symm, _, rfl, decodeSlot_eq ?_⟩
  exact (decodeRaw_X hop (by decide)).trans ((arm_xldTr hop).trans (accept_eq (holds_slotWord ho hf 0 6 0 (Nat.le_of_ble_eq_true rfl) (place_skip (Nat.le_of_ble_eq_true rfl) (place_skip (Nat.le_of_ble_eq_true rfl) (place_skip (Nat.le_of_ble_eq_true rfl) (place_skip (Nat.le_of_ble_eq_true rfl) (place_skip (Nat.le_of_ble_eq_true rfl) (place_skip (Nat.le_of_ble_eq_true rfl) (place_zero (place_nil_lt 0))))))))) (by rw [guardOf_slotWord ho hf, fld_slotWord ho hf 16 4 (Nat.le_of_ble_eq_true rfl) t (place_hit t.isLt (place_cons_lt sr.isLt (place_cons_lt f.isLt (place_cons_lt (bool_lt i) (place_cons_lt (bool_lt p) (place_cons_lt (bool_lt e) (place_nil_lt 6) (Nat.le_of_ble_eq_true rfl)) (Nat.le_of_ble_eq_true rfl)) (Nat.le_of_ble_eq_true rfl)) (Nat.le_of_ble_eq_true rfl)) (Nat.le_of_ble_eq_true rfl))), fld_slotWord ho hf 13 3 (Nat.le_of_ble_eq_true rfl) sr (place_skip (Nat.le_of_ble_eq_true rfl) (place_hit sr.isLt (place_cons_lt f.isLt (place_cons_lt (bool_lt i) (place_cons_lt (bool_lt p) (place_cons_lt (bool_lt e) (place_nil_lt 6) (Nat.le_of_ble_eq_true rfl)) (Nat.le_of_ble_eq_true rfl)) (Nat.le_of_ble_eq_true rfl)) (Nat.le_of_ble_eq_true rfl)))), fld_slotWord ho hf 9 4 (Nat.le_of_ble_eq_true rfl) f (place_skip (Nat.le_of_ble_eq_true rfl) (place_skip (Nat.le_of_ble_eq_true rfl) (place_hit f.isLt (place_cons_lt (bool_lt i) (place_cons_lt (bool_lt p) (place_cons_lt (bool_lt e) (place_nil_lt 6) (Nat.le_of_ble_eq_true rfl)) (Nat.le_of_ble_eq_true rfl)) (Nat.le_of_ble_eq_true rfl))))), flag_slotWord ho hf 8 (Nat.le_of_ble_eq_true rfl) i (place_skip (Nat.le_of_ble_eq_true rfl) (place_skip (Nat.le_of_ble_eq_true rfl) (place_skip (Nat.le_of_ble_eq_true rfl) (place_hit (bool_lt i) (place_cons_lt (bool_lt p) (place_cons_lt (bool_lt e) (place_nil_lt 6) (Nat.le_of_ble_eq_true rfl)) (Nat.le_of_ble_eq_true rfl)))))), flag_slotWord ho hf 7 (Nat.le_of_ble_eq_true rfl) p (place_skip (Nat.le_of_ble_eq_true rfl) (place_skip (Nat.le_of_ble_eq_true rfl) (place_skip (Nat.le_of_ble_eq_true rfl) (place_skip (Nat.le_of_ble_eq_true rfl) (place_hit (bool_lt p) (place_cons_lt (bool_lt e) (place_nil_lt 6) (Nat.le_of_ble_eq_true rfl))))))), flag_slotWord ho hf 6 (Nat.le_of_ble_eq_true rfl) e (place_skip (Nat.le_of_ble_eq_true rfl) (place_skip (Nat.le_of_ble_eq_true rfl) (place_skip (Nat.le_of_ble_eq_true rfl) (place_skip (Nat.le_of_ble_eq_true rfl) (place_skip (Nat.le_of_ble_eq_true rfl) (place_hit (bool_lt e) (place_nil_lt 6)))))))])))

theorem arm_xst {w : BitVec 32} (hop : opcodeOf w = 0x03) : decodeX w = accept (holds w 0 6 0) (.xst (guardOf w) (fld w 16 4) (fld w 13 3) (fld w 9 4) (flag w 8) (flag w 7) (flag w 6)) := by
  unfold decodeX
  simp only [hop]

theorem xst (g : Guard) (t : BitVec 4) (sr : BitVec 3) (f : BitVec 4) (i : Bool) (p : Bool) (e : Bool) : Statement (.xst g t sr f i p e) := by
  intro W hW
  obtain rfl : slotWord g 0x03 (place [(t.toNat, 16), (sr.toNat, 13), (f.toNat, 9), (i.toNat, 8), (p.toNat, 7), (e.toNat, 6)]) = W := Option.some.inj hW
  have ho : 0x03 < 2 ^ 7 := Nat.le_of_ble_eq_true rfl
  have hf : place [(t.toNat, 16), (sr.toNat, 13), (f.toNat, 9), (i.toNat, 8), (p.toNat, 7), (e.toNat, 6)] < 2 ^ 20 := place_cons_lt t.isLt (place_cons_lt sr.isLt (place_cons_lt f.isLt (place_cons_lt (bool_lt i) (place_cons_lt (bool_lt p) (place_cons_lt (bool_lt e) (place_nil_lt 6) (Nat.le_of_ble_eq_true rfl)) (Nat.le_of_ble_eq_true rfl)) (Nat.le_of_ble_eq_true rfl)) (Nat.le_of_ble_eq_true rfl)) (Nat.le_of_ble_eq_true rfl)) (Nat.le_of_ble_eq_true rfl)
  have hop := opcodeOf_slotWord (g := g) ho hf
  refine ⟨congrArg some (guardOf_slotWord ho hf).symm, _, rfl, decodeSlot_eq ?_⟩
  exact (decodeRaw_X hop (by decide)).trans ((arm_xst hop).trans (accept_eq (holds_slotWord ho hf 0 6 0 (Nat.le_of_ble_eq_true rfl) (place_skip (Nat.le_of_ble_eq_true rfl) (place_skip (Nat.le_of_ble_eq_true rfl) (place_skip (Nat.le_of_ble_eq_true rfl) (place_skip (Nat.le_of_ble_eq_true rfl) (place_skip (Nat.le_of_ble_eq_true rfl) (place_skip (Nat.le_of_ble_eq_true rfl) (place_zero (place_nil_lt 0))))))))) (by rw [guardOf_slotWord ho hf, fld_slotWord ho hf 16 4 (Nat.le_of_ble_eq_true rfl) t (place_hit t.isLt (place_cons_lt sr.isLt (place_cons_lt f.isLt (place_cons_lt (bool_lt i) (place_cons_lt (bool_lt p) (place_cons_lt (bool_lt e) (place_nil_lt 6) (Nat.le_of_ble_eq_true rfl)) (Nat.le_of_ble_eq_true rfl)) (Nat.le_of_ble_eq_true rfl)) (Nat.le_of_ble_eq_true rfl)) (Nat.le_of_ble_eq_true rfl))), fld_slotWord ho hf 13 3 (Nat.le_of_ble_eq_true rfl) sr (place_skip (Nat.le_of_ble_eq_true rfl) (place_hit sr.isLt (place_cons_lt f.isLt (place_cons_lt (bool_lt i) (place_cons_lt (bool_lt p) (place_cons_lt (bool_lt e) (place_nil_lt 6) (Nat.le_of_ble_eq_true rfl)) (Nat.le_of_ble_eq_true rfl)) (Nat.le_of_ble_eq_true rfl)) (Nat.le_of_ble_eq_true rfl)))), fld_slotWord ho hf 9 4 (Nat.le_of_ble_eq_true rfl) f (place_skip (Nat.le_of_ble_eq_true rfl) (place_skip (Nat.le_of_ble_eq_true rfl) (place_hit f.isLt (place_cons_lt (bool_lt i) (place_cons_lt (bool_lt p) (place_cons_lt (bool_lt e) (place_nil_lt 6) (Nat.le_of_ble_eq_true rfl)) (Nat.le_of_ble_eq_true rfl)) (Nat.le_of_ble_eq_true rfl))))), flag_slotWord ho hf 8 (Nat.le_of_ble_eq_true rfl) i (place_skip (Nat.le_of_ble_eq_true rfl) (place_skip (Nat.le_of_ble_eq_true rfl) (place_skip (Nat.le_of_ble_eq_true rfl) (place_hit (bool_lt i) (place_cons_lt (bool_lt p) (place_cons_lt (bool_lt e) (place_nil_lt 6) (Nat.le_of_ble_eq_true rfl)) (Nat.le_of_ble_eq_true rfl)))))), flag_slotWord ho hf 7 (Nat.le_of_ble_eq_true rfl) p (place_skip (Nat.le_of_ble_eq_true rfl) (place_skip (Nat.le_of_ble_eq_true rfl) (place_skip (Nat.le_of_ble_eq_true rfl) (place_skip (Nat.le_of_ble_eq_true rfl) (place_hit (bool_lt p) (place_cons_lt (bool_lt e) (place_nil_lt 6) (Nat.le_of_ble_eq_true rfl))))))), flag_slotWord ho hf 6 (Nat.le_of_ble_eq_true rfl) e (place_skip (Nat.le_of_ble_eq_true rfl) (place_skip (Nat.le_of_ble_eq_true rfl) (place_skip (Nat.le_of_ble_eq_true rfl) (place_skip (Nat.le_of_ble_eq_true rfl) (place_skip (Nat.le_of_ble_eq_true rfl) (place_hit (bool_lt e) (place_nil_lt 6)))))))])))

theorem arm_xldv {w : BitVec 32} (hop : opcodeOf w = 0x04) : decodeX w = accept (holds w 1 5 0) (.xldv (guardOf w) (fld w 16 4) (fld w 13 3) (fld w 9 4) (flag w 8) (flag w 7) (flag w 6) (flag w 0)) := by
  unfold decodeX
  simp only [hop]

theorem xldv (g : Guard) (v : BitVec 4) (sr : BitVec 3) (f : BitVec 4) (i : Bool) (p : Bool) (e : Bool) (w : Bool) : Statement (.xldv g v sr f i p e w) := by
  intro W hW
  obtain rfl : slotWord g 0x04 (place [(v.toNat, 16), (sr.toNat, 13), (f.toNat, 9), (i.toNat, 8), (p.toNat, 7), (e.toNat, 6), (w.toNat, 0)]) = W := Option.some.inj hW
  have ho : 0x04 < 2 ^ 7 := Nat.le_of_ble_eq_true rfl
  have hf : place [(v.toNat, 16), (sr.toNat, 13), (f.toNat, 9), (i.toNat, 8), (p.toNat, 7), (e.toNat, 6), (w.toNat, 0)] < 2 ^ 20 := place_cons_lt v.isLt (place_cons_lt sr.isLt (place_cons_lt f.isLt (place_cons_lt (bool_lt i) (place_cons_lt (bool_lt p) (place_cons_lt (bool_lt e) (place_cons_lt (bool_lt w) (place_nil_lt 0) (Nat.le_of_ble_eq_true rfl)) (Nat.le_of_ble_eq_true rfl)) (Nat.le_of_ble_eq_true rfl)) (Nat.le_of_ble_eq_true rfl)) (Nat.le_of_ble_eq_true rfl)) (Nat.le_of_ble_eq_true rfl)) (Nat.le_of_ble_eq_true rfl)
  have hop := opcodeOf_slotWord (g := g) ho hf
  refine ⟨congrArg some (guardOf_slotWord ho hf).symm, _, rfl, decodeSlot_eq ?_⟩
  exact (decodeRaw_X hop (by decide)).trans ((arm_xldv hop).trans (accept_eq (holds_slotWord ho hf 1 5 0 (Nat.le_of_ble_eq_true rfl) (place_skip (Nat.le_of_ble_eq_true rfl) (place_skip (Nat.le_of_ble_eq_true rfl) (place_skip (Nat.le_of_ble_eq_true rfl) (place_skip (Nat.le_of_ble_eq_true rfl) (place_skip (Nat.le_of_ble_eq_true rfl) (place_skip (Nat.le_of_ble_eq_true rfl) (place_zero (place_cons_lt (bool_lt w) (place_nil_lt 0) (Nat.le_of_ble_eq_true rfl)))))))))) (by rw [guardOf_slotWord ho hf, fld_slotWord ho hf 16 4 (Nat.le_of_ble_eq_true rfl) v (place_hit v.isLt (place_cons_lt sr.isLt (place_cons_lt f.isLt (place_cons_lt (bool_lt i) (place_cons_lt (bool_lt p) (place_cons_lt (bool_lt e) (place_cons_lt (bool_lt w) (place_nil_lt 0) (Nat.le_of_ble_eq_true rfl)) (Nat.le_of_ble_eq_true rfl)) (Nat.le_of_ble_eq_true rfl)) (Nat.le_of_ble_eq_true rfl)) (Nat.le_of_ble_eq_true rfl)) (Nat.le_of_ble_eq_true rfl))), fld_slotWord ho hf 13 3 (Nat.le_of_ble_eq_true rfl) sr (place_skip (Nat.le_of_ble_eq_true rfl) (place_hit sr.isLt (place_cons_lt f.isLt (place_cons_lt (bool_lt i) (place_cons_lt (bool_lt p) (place_cons_lt (bool_lt e) (place_cons_lt (bool_lt w) (place_nil_lt 0) (Nat.le_of_ble_eq_true rfl)) (Nat.le_of_ble_eq_true rfl)) (Nat.le_of_ble_eq_true rfl)) (Nat.le_of_ble_eq_true rfl)) (Nat.le_of_ble_eq_true rfl)))), fld_slotWord ho hf 9 4 (Nat.le_of_ble_eq_true rfl) f (place_skip (Nat.le_of_ble_eq_true rfl) (place_skip (Nat.le_of_ble_eq_true rfl) (place_hit f.isLt (place_cons_lt (bool_lt i) (place_cons_lt (bool_lt p) (place_cons_lt (bool_lt e) (place_cons_lt (bool_lt w) (place_nil_lt 0) (Nat.le_of_ble_eq_true rfl)) (Nat.le_of_ble_eq_true rfl)) (Nat.le_of_ble_eq_true rfl)) (Nat.le_of_ble_eq_true rfl))))), flag_slotWord ho hf 8 (Nat.le_of_ble_eq_true rfl) i (place_skip (Nat.le_of_ble_eq_true rfl) (place_skip (Nat.le_of_ble_eq_true rfl) (place_skip (Nat.le_of_ble_eq_true rfl) (place_hit (bool_lt i) (place_cons_lt (bool_lt p) (place_cons_lt (bool_lt e) (place_cons_lt (bool_lt w) (place_nil_lt 0) (Nat.le_of_ble_eq_true rfl)) (Nat.le_of_ble_eq_true rfl)) (Nat.le_of_ble_eq_true rfl)))))), flag_slotWord ho hf 7 (Nat.le_of_ble_eq_true rfl) p (place_skip (Nat.le_of_ble_eq_true rfl) (place_skip (Nat.le_of_ble_eq_true rfl) (place_skip (Nat.le_of_ble_eq_true rfl) (place_skip (Nat.le_of_ble_eq_true rfl) (place_hit (bool_lt p) (place_cons_lt (bool_lt e) (place_cons_lt (bool_lt w) (place_nil_lt 0) (Nat.le_of_ble_eq_true rfl)) (Nat.le_of_ble_eq_true rfl))))))), flag_slotWord ho hf 6 (Nat.le_of_ble_eq_true rfl) e (place_skip (Nat.le_of_ble_eq_true rfl) (place_skip (Nat.le_of_ble_eq_true rfl) (place_skip (Nat.le_of_ble_eq_true rfl) (place_skip (Nat.le_of_ble_eq_true rfl) (place_skip (Nat.le_of_ble_eq_true rfl) (place_hit (bool_lt e) (place_cons_lt (bool_lt w) (place_nil_lt 0) (Nat.le_of_ble_eq_true rfl)))))))), flag_slotWord ho hf 0 (Nat.le_of_ble_eq_true rfl) w (place_skip (Nat.le_of_ble_eq_true rfl) (place_skip (Nat.le_of_ble_eq_true rfl) (place_skip (Nat.le_of_ble_eq_true rfl) (place_skip (Nat.le_of_ble_eq_true rfl) (place_skip (Nat.le_of_ble_eq_true rfl) (place_skip (Nat.le_of_ble_eq_true rfl) (place_hit (bool_lt w) (place_nil_lt 0))))))))])))

theorem arm_xstv {w : BitVec 32} (hop : opcodeOf w = 0x05) : decodeX w = accept (holds w 1 5 0) (.xstv (guardOf w) (fld w 16 4) (fld w 13 3) (fld w 9 4) (flag w 8) (flag w 7) (flag w 6) (flag w 0)) := by
  unfold decodeX
  simp only [hop]

theorem xstv (g : Guard) (v : BitVec 4) (sr : BitVec 3) (f : BitVec 4) (i : Bool) (p : Bool) (e : Bool) (w : Bool) : Statement (.xstv g v sr f i p e w) := by
  intro W hW
  obtain rfl : slotWord g 0x05 (place [(v.toNat, 16), (sr.toNat, 13), (f.toNat, 9), (i.toNat, 8), (p.toNat, 7), (e.toNat, 6), (w.toNat, 0)]) = W := Option.some.inj hW
  have ho : 0x05 < 2 ^ 7 := Nat.le_of_ble_eq_true rfl
  have hf : place [(v.toNat, 16), (sr.toNat, 13), (f.toNat, 9), (i.toNat, 8), (p.toNat, 7), (e.toNat, 6), (w.toNat, 0)] < 2 ^ 20 := place_cons_lt v.isLt (place_cons_lt sr.isLt (place_cons_lt f.isLt (place_cons_lt (bool_lt i) (place_cons_lt (bool_lt p) (place_cons_lt (bool_lt e) (place_cons_lt (bool_lt w) (place_nil_lt 0) (Nat.le_of_ble_eq_true rfl)) (Nat.le_of_ble_eq_true rfl)) (Nat.le_of_ble_eq_true rfl)) (Nat.le_of_ble_eq_true rfl)) (Nat.le_of_ble_eq_true rfl)) (Nat.le_of_ble_eq_true rfl)) (Nat.le_of_ble_eq_true rfl)
  have hop := opcodeOf_slotWord (g := g) ho hf
  refine ⟨congrArg some (guardOf_slotWord ho hf).symm, _, rfl, decodeSlot_eq ?_⟩
  exact (decodeRaw_X hop (by decide)).trans ((arm_xstv hop).trans (accept_eq (holds_slotWord ho hf 1 5 0 (Nat.le_of_ble_eq_true rfl) (place_skip (Nat.le_of_ble_eq_true rfl) (place_skip (Nat.le_of_ble_eq_true rfl) (place_skip (Nat.le_of_ble_eq_true rfl) (place_skip (Nat.le_of_ble_eq_true rfl) (place_skip (Nat.le_of_ble_eq_true rfl) (place_skip (Nat.le_of_ble_eq_true rfl) (place_zero (place_cons_lt (bool_lt w) (place_nil_lt 0) (Nat.le_of_ble_eq_true rfl)))))))))) (by rw [guardOf_slotWord ho hf, fld_slotWord ho hf 16 4 (Nat.le_of_ble_eq_true rfl) v (place_hit v.isLt (place_cons_lt sr.isLt (place_cons_lt f.isLt (place_cons_lt (bool_lt i) (place_cons_lt (bool_lt p) (place_cons_lt (bool_lt e) (place_cons_lt (bool_lt w) (place_nil_lt 0) (Nat.le_of_ble_eq_true rfl)) (Nat.le_of_ble_eq_true rfl)) (Nat.le_of_ble_eq_true rfl)) (Nat.le_of_ble_eq_true rfl)) (Nat.le_of_ble_eq_true rfl)) (Nat.le_of_ble_eq_true rfl))), fld_slotWord ho hf 13 3 (Nat.le_of_ble_eq_true rfl) sr (place_skip (Nat.le_of_ble_eq_true rfl) (place_hit sr.isLt (place_cons_lt f.isLt (place_cons_lt (bool_lt i) (place_cons_lt (bool_lt p) (place_cons_lt (bool_lt e) (place_cons_lt (bool_lt w) (place_nil_lt 0) (Nat.le_of_ble_eq_true rfl)) (Nat.le_of_ble_eq_true rfl)) (Nat.le_of_ble_eq_true rfl)) (Nat.le_of_ble_eq_true rfl)) (Nat.le_of_ble_eq_true rfl)))), fld_slotWord ho hf 9 4 (Nat.le_of_ble_eq_true rfl) f (place_skip (Nat.le_of_ble_eq_true rfl) (place_skip (Nat.le_of_ble_eq_true rfl) (place_hit f.isLt (place_cons_lt (bool_lt i) (place_cons_lt (bool_lt p) (place_cons_lt (bool_lt e) (place_cons_lt (bool_lt w) (place_nil_lt 0) (Nat.le_of_ble_eq_true rfl)) (Nat.le_of_ble_eq_true rfl)) (Nat.le_of_ble_eq_true rfl)) (Nat.le_of_ble_eq_true rfl))))), flag_slotWord ho hf 8 (Nat.le_of_ble_eq_true rfl) i (place_skip (Nat.le_of_ble_eq_true rfl) (place_skip (Nat.le_of_ble_eq_true rfl) (place_skip (Nat.le_of_ble_eq_true rfl) (place_hit (bool_lt i) (place_cons_lt (bool_lt p) (place_cons_lt (bool_lt e) (place_cons_lt (bool_lt w) (place_nil_lt 0) (Nat.le_of_ble_eq_true rfl)) (Nat.le_of_ble_eq_true rfl)) (Nat.le_of_ble_eq_true rfl)))))), flag_slotWord ho hf 7 (Nat.le_of_ble_eq_true rfl) p (place_skip (Nat.le_of_ble_eq_true rfl) (place_skip (Nat.le_of_ble_eq_true rfl) (place_skip (Nat.le_of_ble_eq_true rfl) (place_skip (Nat.le_of_ble_eq_true rfl) (place_hit (bool_lt p) (place_cons_lt (bool_lt e) (place_cons_lt (bool_lt w) (place_nil_lt 0) (Nat.le_of_ble_eq_true rfl)) (Nat.le_of_ble_eq_true rfl))))))), flag_slotWord ho hf 6 (Nat.le_of_ble_eq_true rfl) e (place_skip (Nat.le_of_ble_eq_true rfl) (place_skip (Nat.le_of_ble_eq_true rfl) (place_skip (Nat.le_of_ble_eq_true rfl) (place_skip (Nat.le_of_ble_eq_true rfl) (place_skip (Nat.le_of_ble_eq_true rfl) (place_hit (bool_lt e) (place_cons_lt (bool_lt w) (place_nil_lt 0) (Nat.le_of_ble_eq_true rfl)))))))), flag_slotWord ho hf 0 (Nat.le_of_ble_eq_true rfl) w (place_skip (Nat.le_of_ble_eq_true rfl) (place_skip (Nat.le_of_ble_eq_true rfl) (place_skip (Nat.le_of_ble_eq_true rfl) (place_skip (Nat.le_of_ble_eq_true rfl) (place_skip (Nat.le_of_ble_eq_true rfl) (place_skip (Nat.le_of_ble_eq_true rfl) (place_hit (bool_lt w) (place_nil_lt 0))))))))])))

theorem arm_xldw {w : BitVec 32} (hop : opcodeOf w = 0x06) : decodeX w = accept (holds w 0 6 0 && holds w 16 4 0) (.xldw (guardOf w) (fld w 13 3) (fld w 9 4) (flag w 8) (flag w 7) (flag w 6)) := by
  unfold decodeX
  simp only [hop]

theorem xldw (g : Guard) (sr : BitVec 3) (f : BitVec 4) (i : Bool) (p : Bool) (e : Bool) : Statement (.xldw g sr f i p e) := by
  intro W hW
  obtain rfl : slotWord g 0x06 (place [(sr.toNat, 13), (f.toNat, 9), (i.toNat, 8), (p.toNat, 7), (e.toNat, 6)]) = W := Option.some.inj hW
  have ho : 0x06 < 2 ^ 7 := Nat.le_of_ble_eq_true rfl
  have hf : place [(sr.toNat, 13), (f.toNat, 9), (i.toNat, 8), (p.toNat, 7), (e.toNat, 6)] < 2 ^ 20 := place_cons_lt sr.isLt (place_cons_lt f.isLt (place_cons_lt (bool_lt i) (place_cons_lt (bool_lt p) (place_cons_lt (bool_lt e) (place_nil_lt 6) (Nat.le_of_ble_eq_true rfl)) (Nat.le_of_ble_eq_true rfl)) (Nat.le_of_ble_eq_true rfl)) (Nat.le_of_ble_eq_true rfl)) (Nat.le_of_ble_eq_true rfl)
  have hop := opcodeOf_slotWord (g := g) ho hf
  refine ⟨congrArg some (guardOf_slotWord ho hf).symm, _, rfl, decodeSlot_eq ?_⟩
  exact (decodeRaw_X hop (by decide)).trans ((arm_xldw hop).trans (accept_eq (Bool.and_eq_true_iff.mpr ⟨(holds_slotWord ho hf 0 6 0 (Nat.le_of_ble_eq_true rfl) (place_skip (Nat.le_of_ble_eq_true rfl) (place_skip (Nat.le_of_ble_eq_true rfl) (place_skip (Nat.le_of_ble_eq_true rfl) (place_skip (Nat.le_of_ble_eq_true rfl) (place_skip (Nat.le_of_ble_eq_true rfl) (place_zero (place_nil_lt 0)))))))), (holds_slotWord ho hf 16 4 0 (Nat.le_of_ble_eq_true rfl) (place_zero (place_cons_lt sr.isLt (place_cons_lt f.isLt (place_cons_lt (bool_lt i) (place_cons_lt (bool_lt p) (place_cons_lt (bool_lt e) (place_nil_lt 6) (Nat.le_of_ble_eq_true rfl)) (Nat.le_of_ble_eq_true rfl)) (Nat.le_of_ble_eq_true rfl)) (Nat.le_of_ble_eq_true rfl)) (Nat.le_of_ble_eq_true rfl))))⟩) (by rw [guardOf_slotWord ho hf, fld_slotWord ho hf 13 3 (Nat.le_of_ble_eq_true rfl) sr (place_hit sr.isLt (place_cons_lt f.isLt (place_cons_lt (bool_lt i) (place_cons_lt (bool_lt p) (place_cons_lt (bool_lt e) (place_nil_lt 6) (Nat.le_of_ble_eq_true rfl)) (Nat.le_of_ble_eq_true rfl)) (Nat.le_of_ble_eq_true rfl)) (Nat.le_of_ble_eq_true rfl))), fld_slotWord ho hf 9 4 (Nat.le_of_ble_eq_true rfl) f (place_skip (Nat.le_of_ble_eq_true rfl) (place_hit f.isLt (place_cons_lt (bool_lt i) (place_cons_lt (bool_lt p) (place_cons_lt (bool_lt e) (place_nil_lt 6) (Nat.le_of_ble_eq_true rfl)) (Nat.le_of_ble_eq_true rfl)) (Nat.le_of_ble_eq_true rfl)))), flag_slotWord ho hf 8 (Nat.le_of_ble_eq_true rfl) i (place_skip (Nat.le_of_ble_eq_true rfl) (place_skip (Nat.le_of_ble_eq_true rfl) (place_hit (bool_lt i) (place_cons_lt (bool_lt p) (place_cons_lt (bool_lt e) (place_nil_lt 6) (Nat.le_of_ble_eq_true rfl)) (Nat.le_of_ble_eq_true rfl))))), flag_slotWord ho hf 7 (Nat.le_of_ble_eq_true rfl) p (place_skip (Nat.le_of_ble_eq_true rfl) (place_skip (Nat.le_of_ble_eq_true rfl) (place_skip (Nat.le_of_ble_eq_true rfl) (place_hit (bool_lt p) (place_cons_lt (bool_lt e) (place_nil_lt 6) (Nat.le_of_ble_eq_true rfl)))))), flag_slotWord ho hf 6 (Nat.le_of_ble_eq_true rfl) e (place_skip (Nat.le_of_ble_eq_true rfl) (place_skip (Nat.le_of_ble_eq_true rfl) (place_skip (Nat.le_of_ble_eq_true rfl) (place_skip (Nat.le_of_ble_eq_true rfl) (place_hit (bool_lt e) (place_nil_lt 6))))))])))

theorem arm_xcopy {w : BitVec 32} (hop : opcodeOf w = 0x08) : decodeX w = accept (holds w 4 2 0 && holds w 16 4 0) (.xcopy (guardOf w) (fld w 13 3) (fld w 9 4) (flag w 8) (flag w 7) (flag w 6) (flag w 3) (fld w 0 3)) := by
  unfold decodeX
  simp only [hop]

theorem xcopy (g : Guard) (sr : BitVec 3) (f : BitVec 4) (i : Bool) (p : Bool) (e : Bool) (x : Bool) (m : BitVec 3) : Statement (.xcopy g sr f i p e x m) := by
  intro W hW
  obtain rfl : slotWord g 0x08 (place [(sr.toNat, 13), (f.toNat, 9), (i.toNat, 8), (p.toNat, 7), (e.toNat, 6), (x.toNat, 3), (m.toNat, 0)]) = W := Option.some.inj hW
  have ho : 0x08 < 2 ^ 7 := Nat.le_of_ble_eq_true rfl
  have hf : place [(sr.toNat, 13), (f.toNat, 9), (i.toNat, 8), (p.toNat, 7), (e.toNat, 6), (x.toNat, 3), (m.toNat, 0)] < 2 ^ 20 := place_cons_lt sr.isLt (place_cons_lt f.isLt (place_cons_lt (bool_lt i) (place_cons_lt (bool_lt p) (place_cons_lt (bool_lt e) (place_cons_lt (bool_lt x) (place_cons_lt m.isLt (place_nil_lt 0) (Nat.le_of_ble_eq_true rfl)) (Nat.le_of_ble_eq_true rfl)) (Nat.le_of_ble_eq_true rfl)) (Nat.le_of_ble_eq_true rfl)) (Nat.le_of_ble_eq_true rfl)) (Nat.le_of_ble_eq_true rfl)) (Nat.le_of_ble_eq_true rfl)
  have hop := opcodeOf_slotWord (g := g) ho hf
  refine ⟨congrArg some (guardOf_slotWord ho hf).symm, _, rfl, decodeSlot_eq ?_⟩
  exact (decodeRaw_X hop (by decide)).trans ((arm_xcopy hop).trans (accept_eq (Bool.and_eq_true_iff.mpr ⟨(holds_slotWord ho hf 4 2 0 (Nat.le_of_ble_eq_true rfl) (place_skip (Nat.le_of_ble_eq_true rfl) (place_skip (Nat.le_of_ble_eq_true rfl) (place_skip (Nat.le_of_ble_eq_true rfl) (place_skip (Nat.le_of_ble_eq_true rfl) (place_skip (Nat.le_of_ble_eq_true rfl) (place_zero (place_cons_lt (bool_lt x) (place_cons_lt m.isLt (place_nil_lt 0) (Nat.le_of_ble_eq_true rfl)) (Nat.le_of_ble_eq_true rfl))))))))), (holds_slotWord ho hf 16 4 0 (Nat.le_of_ble_eq_true rfl) (place_zero (place_cons_lt sr.isLt (place_cons_lt f.isLt (place_cons_lt (bool_lt i) (place_cons_lt (bool_lt p) (place_cons_lt (bool_lt e) (place_cons_lt (bool_lt x) (place_cons_lt m.isLt (place_nil_lt 0) (Nat.le_of_ble_eq_true rfl)) (Nat.le_of_ble_eq_true rfl)) (Nat.le_of_ble_eq_true rfl)) (Nat.le_of_ble_eq_true rfl)) (Nat.le_of_ble_eq_true rfl)) (Nat.le_of_ble_eq_true rfl)) (Nat.le_of_ble_eq_true rfl))))⟩) (by rw [guardOf_slotWord ho hf, fld_slotWord ho hf 13 3 (Nat.le_of_ble_eq_true rfl) sr (place_hit sr.isLt (place_cons_lt f.isLt (place_cons_lt (bool_lt i) (place_cons_lt (bool_lt p) (place_cons_lt (bool_lt e) (place_cons_lt (bool_lt x) (place_cons_lt m.isLt (place_nil_lt 0) (Nat.le_of_ble_eq_true rfl)) (Nat.le_of_ble_eq_true rfl)) (Nat.le_of_ble_eq_true rfl)) (Nat.le_of_ble_eq_true rfl)) (Nat.le_of_ble_eq_true rfl)) (Nat.le_of_ble_eq_true rfl))), fld_slotWord ho hf 9 4 (Nat.le_of_ble_eq_true rfl) f (place_skip (Nat.le_of_ble_eq_true rfl) (place_hit f.isLt (place_cons_lt (bool_lt i) (place_cons_lt (bool_lt p) (place_cons_lt (bool_lt e) (place_cons_lt (bool_lt x) (place_cons_lt m.isLt (place_nil_lt 0) (Nat.le_of_ble_eq_true rfl)) (Nat.le_of_ble_eq_true rfl)) (Nat.le_of_ble_eq_true rfl)) (Nat.le_of_ble_eq_true rfl)) (Nat.le_of_ble_eq_true rfl)))), flag_slotWord ho hf 8 (Nat.le_of_ble_eq_true rfl) i (place_skip (Nat.le_of_ble_eq_true rfl) (place_skip (Nat.le_of_ble_eq_true rfl) (place_hit (bool_lt i) (place_cons_lt (bool_lt p) (place_cons_lt (bool_lt e) (place_cons_lt (bool_lt x) (place_cons_lt m.isLt (place_nil_lt 0) (Nat.le_of_ble_eq_true rfl)) (Nat.le_of_ble_eq_true rfl)) (Nat.le_of_ble_eq_true rfl)) (Nat.le_of_ble_eq_true rfl))))), flag_slotWord ho hf 7 (Nat.le_of_ble_eq_true rfl) p (place_skip (Nat.le_of_ble_eq_true rfl) (place_skip (Nat.le_of_ble_eq_true rfl) (place_skip (Nat.le_of_ble_eq_true rfl) (place_hit (bool_lt p) (place_cons_lt (bool_lt e) (place_cons_lt (bool_lt x) (place_cons_lt m.isLt (place_nil_lt 0) (Nat.le_of_ble_eq_true rfl)) (Nat.le_of_ble_eq_true rfl)) (Nat.le_of_ble_eq_true rfl)))))), flag_slotWord ho hf 6 (Nat.le_of_ble_eq_true rfl) e (place_skip (Nat.le_of_ble_eq_true rfl) (place_skip (Nat.le_of_ble_eq_true rfl) (place_skip (Nat.le_of_ble_eq_true rfl) (place_skip (Nat.le_of_ble_eq_true rfl) (place_hit (bool_lt e) (place_cons_lt (bool_lt x) (place_cons_lt m.isLt (place_nil_lt 0) (Nat.le_of_ble_eq_true rfl)) (Nat.le_of_ble_eq_true rfl))))))), flag_slotWord ho hf 3 (Nat.le_of_ble_eq_true rfl) x (place_skip (Nat.le_of_ble_eq_true rfl) (place_skip (Nat.le_of_ble_eq_true rfl) (place_skip (Nat.le_of_ble_eq_true rfl) (place_skip (Nat.le_of_ble_eq_true rfl) (place_skip (Nat.le_of_ble_eq_true rfl) (place_hit (bool_lt x) (place_cons_lt m.isLt (place_nil_lt 0) (Nat.le_of_ble_eq_true rfl)))))))), fld_slotWord ho hf 0 3 (Nat.le_of_ble_eq_true rfl) m (place_skip (Nat.le_of_ble_eq_true rfl) (place_skip (Nat.le_of_ble_eq_true rfl) (place_skip (Nat.le_of_ble_eq_true rfl) (place_skip (Nat.le_of_ble_eq_true rfl) (place_skip (Nat.le_of_ble_eq_true rfl) (place_skip (Nat.le_of_ble_eq_true rfl) (place_hit m.isLt (place_nil_lt 0))))))))])))

theorem arm_xfill {w : BitVec 32} (hop : opcodeOf w = 0x09) : decodeX w = accept (holds w 2 4 0 && holds w 16 4 0) (.xfill (guardOf w) (fld w 13 3) (fld w 9 4) (flag w 8) (flag w 7) (flag w 6) (fld w 0 2)) := by
  unfold decodeX
  simp only [hop]

theorem xfill (g : Guard) (sr : BitVec 3) (f : BitVec 4) (i : Bool) (p : Bool) (e : Bool) (a : BitVec 2) : Statement (.xfill g sr f i p e a) := by
  intro W hW
  obtain rfl : slotWord g 0x09 (place [(sr.toNat, 13), (f.toNat, 9), (i.toNat, 8), (p.toNat, 7), (e.toNat, 6), (a.toNat, 0)]) = W := Option.some.inj hW
  have ho : 0x09 < 2 ^ 7 := Nat.le_of_ble_eq_true rfl
  have hf : place [(sr.toNat, 13), (f.toNat, 9), (i.toNat, 8), (p.toNat, 7), (e.toNat, 6), (a.toNat, 0)] < 2 ^ 20 := place_cons_lt sr.isLt (place_cons_lt f.isLt (place_cons_lt (bool_lt i) (place_cons_lt (bool_lt p) (place_cons_lt (bool_lt e) (place_cons_lt a.isLt (place_nil_lt 0) (Nat.le_of_ble_eq_true rfl)) (Nat.le_of_ble_eq_true rfl)) (Nat.le_of_ble_eq_true rfl)) (Nat.le_of_ble_eq_true rfl)) (Nat.le_of_ble_eq_true rfl)) (Nat.le_of_ble_eq_true rfl)
  have hop := opcodeOf_slotWord (g := g) ho hf
  refine ⟨congrArg some (guardOf_slotWord ho hf).symm, _, rfl, decodeSlot_eq ?_⟩
  exact (decodeRaw_X hop (by decide)).trans ((arm_xfill hop).trans (accept_eq (Bool.and_eq_true_iff.mpr ⟨(holds_slotWord ho hf 2 4 0 (Nat.le_of_ble_eq_true rfl) (place_skip (Nat.le_of_ble_eq_true rfl) (place_skip (Nat.le_of_ble_eq_true rfl) (place_skip (Nat.le_of_ble_eq_true rfl) (place_skip (Nat.le_of_ble_eq_true rfl) (place_skip (Nat.le_of_ble_eq_true rfl) (place_zero (place_cons_lt a.isLt (place_nil_lt 0) (Nat.le_of_ble_eq_true rfl))))))))), (holds_slotWord ho hf 16 4 0 (Nat.le_of_ble_eq_true rfl) (place_zero (place_cons_lt sr.isLt (place_cons_lt f.isLt (place_cons_lt (bool_lt i) (place_cons_lt (bool_lt p) (place_cons_lt (bool_lt e) (place_cons_lt a.isLt (place_nil_lt 0) (Nat.le_of_ble_eq_true rfl)) (Nat.le_of_ble_eq_true rfl)) (Nat.le_of_ble_eq_true rfl)) (Nat.le_of_ble_eq_true rfl)) (Nat.le_of_ble_eq_true rfl)) (Nat.le_of_ble_eq_true rfl))))⟩) (by rw [guardOf_slotWord ho hf, fld_slotWord ho hf 13 3 (Nat.le_of_ble_eq_true rfl) sr (place_hit sr.isLt (place_cons_lt f.isLt (place_cons_lt (bool_lt i) (place_cons_lt (bool_lt p) (place_cons_lt (bool_lt e) (place_cons_lt a.isLt (place_nil_lt 0) (Nat.le_of_ble_eq_true rfl)) (Nat.le_of_ble_eq_true rfl)) (Nat.le_of_ble_eq_true rfl)) (Nat.le_of_ble_eq_true rfl)) (Nat.le_of_ble_eq_true rfl))), fld_slotWord ho hf 9 4 (Nat.le_of_ble_eq_true rfl) f (place_skip (Nat.le_of_ble_eq_true rfl) (place_hit f.isLt (place_cons_lt (bool_lt i) (place_cons_lt (bool_lt p) (place_cons_lt (bool_lt e) (place_cons_lt a.isLt (place_nil_lt 0) (Nat.le_of_ble_eq_true rfl)) (Nat.le_of_ble_eq_true rfl)) (Nat.le_of_ble_eq_true rfl)) (Nat.le_of_ble_eq_true rfl)))), flag_slotWord ho hf 8 (Nat.le_of_ble_eq_true rfl) i (place_skip (Nat.le_of_ble_eq_true rfl) (place_skip (Nat.le_of_ble_eq_true rfl) (place_hit (bool_lt i) (place_cons_lt (bool_lt p) (place_cons_lt (bool_lt e) (place_cons_lt a.isLt (place_nil_lt 0) (Nat.le_of_ble_eq_true rfl)) (Nat.le_of_ble_eq_true rfl)) (Nat.le_of_ble_eq_true rfl))))), flag_slotWord ho hf 7 (Nat.le_of_ble_eq_true rfl) p (place_skip (Nat.le_of_ble_eq_true rfl) (place_skip (Nat.le_of_ble_eq_true rfl) (place_skip (Nat.le_of_ble_eq_true rfl) (place_hit (bool_lt p) (place_cons_lt (bool_lt e) (place_cons_lt a.isLt (place_nil_lt 0) (Nat.le_of_ble_eq_true rfl)) (Nat.le_of_ble_eq_true rfl)))))), flag_slotWord ho hf 6 (Nat.le_of_ble_eq_true rfl) e (place_skip (Nat.le_of_ble_eq_true rfl) (place_skip (Nat.le_of_ble_eq_true rfl) (place_skip (Nat.le_of_ble_eq_true rfl) (place_skip (Nat.le_of_ble_eq_true rfl) (place_hit (bool_lt e) (place_cons_lt a.isLt (place_nil_lt 0) (Nat.le_of_ble_eq_true rfl))))))), fld_slotWord ho hf 0 2 (Nat.le_of_ble_eq_true rfl) a (place_skip (Nat.le_of_ble_eq_true rfl) (place_skip (Nat.le_of_ble_eq_true rfl) (place_skip (Nat.le_of_ble_eq_true rfl) (place_skip (Nat.le_of_ble_eq_true rfl) (place_skip (Nat.le_of_ble_eq_true rfl) (place_hit a.isLt (place_nil_lt 0)))))))])))

theorem arm_xsub {w : BitVec 32} (hop : opcodeOf w = 0x0A) : decodeX w = accept (holds w 3 3 0 && holds w 16 4 0) (.xsub (guardOf w) (fld w 13 3) (fld w 9 4) (flag w 8) (flag w 7) (flag w 6) (fld w 0 3)) := by
  unfold decodeX
  simp only [hop]

theorem xsub (g : Guard) (sr : BitVec 3) (f : BitVec 4) (i : Bool) (p : Bool) (e : Bool) (x : BitVec 3) : Statement (.xsub g sr f i p e x) := by
  intro W hW
  obtain rfl : slotWord g 0x0A (place [(sr.toNat, 13), (f.toNat, 9), (i.toNat, 8), (p.toNat, 7), (e.toNat, 6), (x.toNat, 0)]) = W := Option.some.inj hW
  have ho : 0x0A < 2 ^ 7 := Nat.le_of_ble_eq_true rfl
  have hf : place [(sr.toNat, 13), (f.toNat, 9), (i.toNat, 8), (p.toNat, 7), (e.toNat, 6), (x.toNat, 0)] < 2 ^ 20 := place_cons_lt sr.isLt (place_cons_lt f.isLt (place_cons_lt (bool_lt i) (place_cons_lt (bool_lt p) (place_cons_lt (bool_lt e) (place_cons_lt x.isLt (place_nil_lt 0) (Nat.le_of_ble_eq_true rfl)) (Nat.le_of_ble_eq_true rfl)) (Nat.le_of_ble_eq_true rfl)) (Nat.le_of_ble_eq_true rfl)) (Nat.le_of_ble_eq_true rfl)) (Nat.le_of_ble_eq_true rfl)
  have hop := opcodeOf_slotWord (g := g) ho hf
  refine ⟨congrArg some (guardOf_slotWord ho hf).symm, _, rfl, decodeSlot_eq ?_⟩
  exact (decodeRaw_X hop (by decide)).trans ((arm_xsub hop).trans (accept_eq (Bool.and_eq_true_iff.mpr ⟨(holds_slotWord ho hf 3 3 0 (Nat.le_of_ble_eq_true rfl) (place_skip (Nat.le_of_ble_eq_true rfl) (place_skip (Nat.le_of_ble_eq_true rfl) (place_skip (Nat.le_of_ble_eq_true rfl) (place_skip (Nat.le_of_ble_eq_true rfl) (place_skip (Nat.le_of_ble_eq_true rfl) (place_zero (place_cons_lt x.isLt (place_nil_lt 0) (Nat.le_of_ble_eq_true rfl))))))))), (holds_slotWord ho hf 16 4 0 (Nat.le_of_ble_eq_true rfl) (place_zero (place_cons_lt sr.isLt (place_cons_lt f.isLt (place_cons_lt (bool_lt i) (place_cons_lt (bool_lt p) (place_cons_lt (bool_lt e) (place_cons_lt x.isLt (place_nil_lt 0) (Nat.le_of_ble_eq_true rfl)) (Nat.le_of_ble_eq_true rfl)) (Nat.le_of_ble_eq_true rfl)) (Nat.le_of_ble_eq_true rfl)) (Nat.le_of_ble_eq_true rfl)) (Nat.le_of_ble_eq_true rfl))))⟩) (by rw [guardOf_slotWord ho hf, fld_slotWord ho hf 13 3 (Nat.le_of_ble_eq_true rfl) sr (place_hit sr.isLt (place_cons_lt f.isLt (place_cons_lt (bool_lt i) (place_cons_lt (bool_lt p) (place_cons_lt (bool_lt e) (place_cons_lt x.isLt (place_nil_lt 0) (Nat.le_of_ble_eq_true rfl)) (Nat.le_of_ble_eq_true rfl)) (Nat.le_of_ble_eq_true rfl)) (Nat.le_of_ble_eq_true rfl)) (Nat.le_of_ble_eq_true rfl))), fld_slotWord ho hf 9 4 (Nat.le_of_ble_eq_true rfl) f (place_skip (Nat.le_of_ble_eq_true rfl) (place_hit f.isLt (place_cons_lt (bool_lt i) (place_cons_lt (bool_lt p) (place_cons_lt (bool_lt e) (place_cons_lt x.isLt (place_nil_lt 0) (Nat.le_of_ble_eq_true rfl)) (Nat.le_of_ble_eq_true rfl)) (Nat.le_of_ble_eq_true rfl)) (Nat.le_of_ble_eq_true rfl)))), flag_slotWord ho hf 8 (Nat.le_of_ble_eq_true rfl) i (place_skip (Nat.le_of_ble_eq_true rfl) (place_skip (Nat.le_of_ble_eq_true rfl) (place_hit (bool_lt i) (place_cons_lt (bool_lt p) (place_cons_lt (bool_lt e) (place_cons_lt x.isLt (place_nil_lt 0) (Nat.le_of_ble_eq_true rfl)) (Nat.le_of_ble_eq_true rfl)) (Nat.le_of_ble_eq_true rfl))))), flag_slotWord ho hf 7 (Nat.le_of_ble_eq_true rfl) p (place_skip (Nat.le_of_ble_eq_true rfl) (place_skip (Nat.le_of_ble_eq_true rfl) (place_skip (Nat.le_of_ble_eq_true rfl) (place_hit (bool_lt p) (place_cons_lt (bool_lt e) (place_cons_lt x.isLt (place_nil_lt 0) (Nat.le_of_ble_eq_true rfl)) (Nat.le_of_ble_eq_true rfl)))))), flag_slotWord ho hf 6 (Nat.le_of_ble_eq_true rfl) e (place_skip (Nat.le_of_ble_eq_true rfl) (place_skip (Nat.le_of_ble_eq_true rfl) (place_skip (Nat.le_of_ble_eq_true rfl) (place_skip (Nat.le_of_ble_eq_true rfl) (place_hit (bool_lt e) (place_cons_lt x.isLt (place_nil_lt 0) (Nat.le_of_ble_eq_true rfl))))))), fld_slotWord ho hf 0 3 (Nat.le_of_ble_eq_true rfl) x (place_skip (Nat.le_of_ble_eq_true rfl) (place_skip (Nat.le_of_ble_eq_true rfl) (place_skip (Nat.le_of_ble_eq_true rfl) (place_skip (Nat.le_of_ble_eq_true rfl) (place_skip (Nat.le_of_ble_eq_true rfl) (place_hit x.isLt (place_nil_lt 0)))))))])))

theorem arm_xpub {w : BitVec 32} (hop : opcodeOf w = 0x0B) : decodeX w = accept (holds w 3 3 0 && holds w 16 4 0) (.xpub (guardOf w) (fld w 13 3) (fld w 9 4) (flag w 8) (flag w 7) (flag w 6) (fld w 0 3)) := by
  unfold decodeX
  simp only [hop]

theorem xpub (g : Guard) (sr : BitVec 3) (f : BitVec 4) (i : Bool) (p : Bool) (e : Bool) (x : BitVec 3) : Statement (.xpub g sr f i p e x) := by
  intro W hW
  obtain rfl : slotWord g 0x0B (place [(sr.toNat, 13), (f.toNat, 9), (i.toNat, 8), (p.toNat, 7), (e.toNat, 6), (x.toNat, 0)]) = W := Option.some.inj hW
  have ho : 0x0B < 2 ^ 7 := Nat.le_of_ble_eq_true rfl
  have hf : place [(sr.toNat, 13), (f.toNat, 9), (i.toNat, 8), (p.toNat, 7), (e.toNat, 6), (x.toNat, 0)] < 2 ^ 20 := place_cons_lt sr.isLt (place_cons_lt f.isLt (place_cons_lt (bool_lt i) (place_cons_lt (bool_lt p) (place_cons_lt (bool_lt e) (place_cons_lt x.isLt (place_nil_lt 0) (Nat.le_of_ble_eq_true rfl)) (Nat.le_of_ble_eq_true rfl)) (Nat.le_of_ble_eq_true rfl)) (Nat.le_of_ble_eq_true rfl)) (Nat.le_of_ble_eq_true rfl)) (Nat.le_of_ble_eq_true rfl)
  have hop := opcodeOf_slotWord (g := g) ho hf
  refine ⟨congrArg some (guardOf_slotWord ho hf).symm, _, rfl, decodeSlot_eq ?_⟩
  exact (decodeRaw_X hop (by decide)).trans ((arm_xpub hop).trans (accept_eq (Bool.and_eq_true_iff.mpr ⟨(holds_slotWord ho hf 3 3 0 (Nat.le_of_ble_eq_true rfl) (place_skip (Nat.le_of_ble_eq_true rfl) (place_skip (Nat.le_of_ble_eq_true rfl) (place_skip (Nat.le_of_ble_eq_true rfl) (place_skip (Nat.le_of_ble_eq_true rfl) (place_skip (Nat.le_of_ble_eq_true rfl) (place_zero (place_cons_lt x.isLt (place_nil_lt 0) (Nat.le_of_ble_eq_true rfl))))))))), (holds_slotWord ho hf 16 4 0 (Nat.le_of_ble_eq_true rfl) (place_zero (place_cons_lt sr.isLt (place_cons_lt f.isLt (place_cons_lt (bool_lt i) (place_cons_lt (bool_lt p) (place_cons_lt (bool_lt e) (place_cons_lt x.isLt (place_nil_lt 0) (Nat.le_of_ble_eq_true rfl)) (Nat.le_of_ble_eq_true rfl)) (Nat.le_of_ble_eq_true rfl)) (Nat.le_of_ble_eq_true rfl)) (Nat.le_of_ble_eq_true rfl)) (Nat.le_of_ble_eq_true rfl))))⟩) (by rw [guardOf_slotWord ho hf, fld_slotWord ho hf 13 3 (Nat.le_of_ble_eq_true rfl) sr (place_hit sr.isLt (place_cons_lt f.isLt (place_cons_lt (bool_lt i) (place_cons_lt (bool_lt p) (place_cons_lt (bool_lt e) (place_cons_lt x.isLt (place_nil_lt 0) (Nat.le_of_ble_eq_true rfl)) (Nat.le_of_ble_eq_true rfl)) (Nat.le_of_ble_eq_true rfl)) (Nat.le_of_ble_eq_true rfl)) (Nat.le_of_ble_eq_true rfl))), fld_slotWord ho hf 9 4 (Nat.le_of_ble_eq_true rfl) f (place_skip (Nat.le_of_ble_eq_true rfl) (place_hit f.isLt (place_cons_lt (bool_lt i) (place_cons_lt (bool_lt p) (place_cons_lt (bool_lt e) (place_cons_lt x.isLt (place_nil_lt 0) (Nat.le_of_ble_eq_true rfl)) (Nat.le_of_ble_eq_true rfl)) (Nat.le_of_ble_eq_true rfl)) (Nat.le_of_ble_eq_true rfl)))), flag_slotWord ho hf 8 (Nat.le_of_ble_eq_true rfl) i (place_skip (Nat.le_of_ble_eq_true rfl) (place_skip (Nat.le_of_ble_eq_true rfl) (place_hit (bool_lt i) (place_cons_lt (bool_lt p) (place_cons_lt (bool_lt e) (place_cons_lt x.isLt (place_nil_lt 0) (Nat.le_of_ble_eq_true rfl)) (Nat.le_of_ble_eq_true rfl)) (Nat.le_of_ble_eq_true rfl))))), flag_slotWord ho hf 7 (Nat.le_of_ble_eq_true rfl) p (place_skip (Nat.le_of_ble_eq_true rfl) (place_skip (Nat.le_of_ble_eq_true rfl) (place_skip (Nat.le_of_ble_eq_true rfl) (place_hit (bool_lt p) (place_cons_lt (bool_lt e) (place_cons_lt x.isLt (place_nil_lt 0) (Nat.le_of_ble_eq_true rfl)) (Nat.le_of_ble_eq_true rfl)))))), flag_slotWord ho hf 6 (Nat.le_of_ble_eq_true rfl) e (place_skip (Nat.le_of_ble_eq_true rfl) (place_skip (Nat.le_of_ble_eq_true rfl) (place_skip (Nat.le_of_ble_eq_true rfl) (place_skip (Nat.le_of_ble_eq_true rfl) (place_hit (bool_lt e) (place_cons_lt x.isLt (place_nil_lt 0) (Nat.le_of_ble_eq_true rfl))))))), fld_slotWord ho hf 0 3 (Nat.le_of_ble_eq_true rfl) x (place_skip (Nat.le_of_ble_eq_true rfl) (place_skip (Nat.le_of_ble_eq_true rfl) (place_skip (Nat.le_of_ble_eq_true rfl) (place_skip (Nat.le_of_ble_eq_true rfl) (place_skip (Nat.le_of_ble_eq_true rfl) (place_hit x.isLt (place_nil_lt 0)))))))])))

theorem arm_xunsub {w : BitVec 32} (hop : opcodeOf w = 0x0C) : decodeX w = accept (holds w 3 3 0 && holds w 16 4 0) (.xunsub (guardOf w) (fld w 13 3) (fld w 9 4) (flag w 8) (flag w 7) (flag w 6) (fld w 0 3)) := by
  unfold decodeX
  simp only [hop]

theorem xunsub (g : Guard) (sr : BitVec 3) (f : BitVec 4) (i : Bool) (p : Bool) (e : Bool) (x : BitVec 3) : Statement (.xunsub g sr f i p e x) := by
  intro W hW
  obtain rfl : slotWord g 0x0C (place [(sr.toNat, 13), (f.toNat, 9), (i.toNat, 8), (p.toNat, 7), (e.toNat, 6), (x.toNat, 0)]) = W := Option.some.inj hW
  have ho : 0x0C < 2 ^ 7 := Nat.le_of_ble_eq_true rfl
  have hf : place [(sr.toNat, 13), (f.toNat, 9), (i.toNat, 8), (p.toNat, 7), (e.toNat, 6), (x.toNat, 0)] < 2 ^ 20 := place_cons_lt sr.isLt (place_cons_lt f.isLt (place_cons_lt (bool_lt i) (place_cons_lt (bool_lt p) (place_cons_lt (bool_lt e) (place_cons_lt x.isLt (place_nil_lt 0) (Nat.le_of_ble_eq_true rfl)) (Nat.le_of_ble_eq_true rfl)) (Nat.le_of_ble_eq_true rfl)) (Nat.le_of_ble_eq_true rfl)) (Nat.le_of_ble_eq_true rfl)) (Nat.le_of_ble_eq_true rfl)
  have hop := opcodeOf_slotWord (g := g) ho hf
  refine ⟨congrArg some (guardOf_slotWord ho hf).symm, _, rfl, decodeSlot_eq ?_⟩
  exact (decodeRaw_X hop (by decide)).trans ((arm_xunsub hop).trans (accept_eq (Bool.and_eq_true_iff.mpr ⟨(holds_slotWord ho hf 3 3 0 (Nat.le_of_ble_eq_true rfl) (place_skip (Nat.le_of_ble_eq_true rfl) (place_skip (Nat.le_of_ble_eq_true rfl) (place_skip (Nat.le_of_ble_eq_true rfl) (place_skip (Nat.le_of_ble_eq_true rfl) (place_skip (Nat.le_of_ble_eq_true rfl) (place_zero (place_cons_lt x.isLt (place_nil_lt 0) (Nat.le_of_ble_eq_true rfl))))))))), (holds_slotWord ho hf 16 4 0 (Nat.le_of_ble_eq_true rfl) (place_zero (place_cons_lt sr.isLt (place_cons_lt f.isLt (place_cons_lt (bool_lt i) (place_cons_lt (bool_lt p) (place_cons_lt (bool_lt e) (place_cons_lt x.isLt (place_nil_lt 0) (Nat.le_of_ble_eq_true rfl)) (Nat.le_of_ble_eq_true rfl)) (Nat.le_of_ble_eq_true rfl)) (Nat.le_of_ble_eq_true rfl)) (Nat.le_of_ble_eq_true rfl)) (Nat.le_of_ble_eq_true rfl))))⟩) (by rw [guardOf_slotWord ho hf, fld_slotWord ho hf 13 3 (Nat.le_of_ble_eq_true rfl) sr (place_hit sr.isLt (place_cons_lt f.isLt (place_cons_lt (bool_lt i) (place_cons_lt (bool_lt p) (place_cons_lt (bool_lt e) (place_cons_lt x.isLt (place_nil_lt 0) (Nat.le_of_ble_eq_true rfl)) (Nat.le_of_ble_eq_true rfl)) (Nat.le_of_ble_eq_true rfl)) (Nat.le_of_ble_eq_true rfl)) (Nat.le_of_ble_eq_true rfl))), fld_slotWord ho hf 9 4 (Nat.le_of_ble_eq_true rfl) f (place_skip (Nat.le_of_ble_eq_true rfl) (place_hit f.isLt (place_cons_lt (bool_lt i) (place_cons_lt (bool_lt p) (place_cons_lt (bool_lt e) (place_cons_lt x.isLt (place_nil_lt 0) (Nat.le_of_ble_eq_true rfl)) (Nat.le_of_ble_eq_true rfl)) (Nat.le_of_ble_eq_true rfl)) (Nat.le_of_ble_eq_true rfl)))), flag_slotWord ho hf 8 (Nat.le_of_ble_eq_true rfl) i (place_skip (Nat.le_of_ble_eq_true rfl) (place_skip (Nat.le_of_ble_eq_true rfl) (place_hit (bool_lt i) (place_cons_lt (bool_lt p) (place_cons_lt (bool_lt e) (place_cons_lt x.isLt (place_nil_lt 0) (Nat.le_of_ble_eq_true rfl)) (Nat.le_of_ble_eq_true rfl)) (Nat.le_of_ble_eq_true rfl))))), flag_slotWord ho hf 7 (Nat.le_of_ble_eq_true rfl) p (place_skip (Nat.le_of_ble_eq_true rfl) (place_skip (Nat.le_of_ble_eq_true rfl) (place_skip (Nat.le_of_ble_eq_true rfl) (place_hit (bool_lt p) (place_cons_lt (bool_lt e) (place_cons_lt x.isLt (place_nil_lt 0) (Nat.le_of_ble_eq_true rfl)) (Nat.le_of_ble_eq_true rfl)))))), flag_slotWord ho hf 6 (Nat.le_of_ble_eq_true rfl) e (place_skip (Nat.le_of_ble_eq_true rfl) (place_skip (Nat.le_of_ble_eq_true rfl) (place_skip (Nat.le_of_ble_eq_true rfl) (place_skip (Nat.le_of_ble_eq_true rfl) (place_hit (bool_lt e) (place_cons_lt x.isLt (place_nil_lt 0) (Nat.le_of_ble_eq_true rfl))))))), fld_slotWord ho hf 0 3 (Nat.le_of_ble_eq_true rfl) x (place_skip (Nat.le_of_ble_eq_true rfl) (place_skip (Nat.le_of_ble_eq_true rfl) (place_skip (Nat.le_of_ble_eq_true rfl) (place_skip (Nat.le_of_ble_eq_true rfl) (place_skip (Nat.le_of_ble_eq_true rfl) (place_hit x.isLt (place_nil_lt 0)))))))])))

theorem arm_xpre {w : BitVec 32} (hop : opcodeOf w = 0x10) : decodeX w = if holds w 0 6 0 && holds w 16 4 0 then .ok (.xpre (guardOf w) (fld w 13 3) (fld w 9 4) (flag w 8) (flag w 7) (flag w 6)) else if holds w 0 6 1 && holds w 16 4 0 then .ok (.xpreBar (guardOf w) (fld w 13 3) (fld w 9 4) (flag w 8) (flag w 7) (flag w 6)) else .error .zeroField := by
  unfold decodeX
  simp only [hop]

theorem xpre (g : Guard) (sr : BitVec 3) (f : BitVec 4) (i : Bool) (p : Bool) (e : Bool) : Statement (.xpre g sr f i p e) := by
  intro W hW
  obtain rfl : slotWord g 0x10 (place [(sr.toNat, 13), (f.toNat, 9), (i.toNat, 8), (p.toNat, 7), (e.toNat, 6)]) = W := Option.some.inj hW
  have ho : 0x10 < 2 ^ 7 := Nat.le_of_ble_eq_true rfl
  have hf : place [(sr.toNat, 13), (f.toNat, 9), (i.toNat, 8), (p.toNat, 7), (e.toNat, 6)] < 2 ^ 20 := place_cons_lt sr.isLt (place_cons_lt f.isLt (place_cons_lt (bool_lt i) (place_cons_lt (bool_lt p) (place_cons_lt (bool_lt e) (place_nil_lt 6) (Nat.le_of_ble_eq_true rfl)) (Nat.le_of_ble_eq_true rfl)) (Nat.le_of_ble_eq_true rfl)) (Nat.le_of_ble_eq_true rfl)) (Nat.le_of_ble_eq_true rfl)
  have hop := opcodeOf_slotWord (g := g) ho hf
  refine ⟨congrArg some (guardOf_slotWord ho hf).symm, _, rfl, decodeSlot_eq ?_⟩
  exact (decodeRaw_X hop (by decide)).trans (by rw [arm_xpre hop, if_pos (Bool.and_eq_true_iff.mpr ⟨(holds_slotWord ho hf 0 6 0 (Nat.le_of_ble_eq_true rfl) (place_skip (Nat.le_of_ble_eq_true rfl) (place_skip (Nat.le_of_ble_eq_true rfl) (place_skip (Nat.le_of_ble_eq_true rfl) (place_skip (Nat.le_of_ble_eq_true rfl) (place_skip (Nat.le_of_ble_eq_true rfl) (place_zero (place_nil_lt 0)))))))), (holds_slotWord ho hf 16 4 0 (Nat.le_of_ble_eq_true rfl) (place_zero (place_cons_lt sr.isLt (place_cons_lt f.isLt (place_cons_lt (bool_lt i) (place_cons_lt (bool_lt p) (place_cons_lt (bool_lt e) (place_nil_lt 6) (Nat.le_of_ble_eq_true rfl)) (Nat.le_of_ble_eq_true rfl)) (Nat.le_of_ble_eq_true rfl)) (Nat.le_of_ble_eq_true rfl)) (Nat.le_of_ble_eq_true rfl))))⟩)]; exact congrArg Except.ok (by rw [guardOf_slotWord ho hf, fld_slotWord ho hf 13 3 (Nat.le_of_ble_eq_true rfl) sr (place_hit sr.isLt (place_cons_lt f.isLt (place_cons_lt (bool_lt i) (place_cons_lt (bool_lt p) (place_cons_lt (bool_lt e) (place_nil_lt 6) (Nat.le_of_ble_eq_true rfl)) (Nat.le_of_ble_eq_true rfl)) (Nat.le_of_ble_eq_true rfl)) (Nat.le_of_ble_eq_true rfl))), fld_slotWord ho hf 9 4 (Nat.le_of_ble_eq_true rfl) f (place_skip (Nat.le_of_ble_eq_true rfl) (place_hit f.isLt (place_cons_lt (bool_lt i) (place_cons_lt (bool_lt p) (place_cons_lt (bool_lt e) (place_nil_lt 6) (Nat.le_of_ble_eq_true rfl)) (Nat.le_of_ble_eq_true rfl)) (Nat.le_of_ble_eq_true rfl)))), flag_slotWord ho hf 8 (Nat.le_of_ble_eq_true rfl) i (place_skip (Nat.le_of_ble_eq_true rfl) (place_skip (Nat.le_of_ble_eq_true rfl) (place_hit (bool_lt i) (place_cons_lt (bool_lt p) (place_cons_lt (bool_lt e) (place_nil_lt 6) (Nat.le_of_ble_eq_true rfl)) (Nat.le_of_ble_eq_true rfl))))), flag_slotWord ho hf 7 (Nat.le_of_ble_eq_true rfl) p (place_skip (Nat.le_of_ble_eq_true rfl) (place_skip (Nat.le_of_ble_eq_true rfl) (place_skip (Nat.le_of_ble_eq_true rfl) (place_hit (bool_lt p) (place_cons_lt (bool_lt e) (place_nil_lt 6) (Nat.le_of_ble_eq_true rfl)))))), flag_slotWord ho hf 6 (Nat.le_of_ble_eq_true rfl) e (place_skip (Nat.le_of_ble_eq_true rfl) (place_skip (Nat.le_of_ble_eq_true rfl) (place_skip (Nat.le_of_ble_eq_true rfl) (place_skip (Nat.le_of_ble_eq_true rfl) (place_hit (bool_lt e) (place_nil_lt 6))))))]))

theorem arm_xpreBar {w : BitVec 32} (hop : opcodeOf w = 0x10) : decodeX w = if holds w 0 6 0 && holds w 16 4 0 then .ok (.xpre (guardOf w) (fld w 13 3) (fld w 9 4) (flag w 8) (flag w 7) (flag w 6)) else if holds w 0 6 1 && holds w 16 4 0 then .ok (.xpreBar (guardOf w) (fld w 13 3) (fld w 9 4) (flag w 8) (flag w 7) (flag w 6)) else .error .zeroField := by
  unfold decodeX
  simp only [hop]

theorem xpreBar (g : Guard) (sr : BitVec 3) (f : BitVec 4) (i : Bool) (p : Bool) (e : Bool) : Statement (.xpreBar g sr f i p e) := by
  intro W hW
  obtain rfl : slotWord g 0x10 (place [(sr.toNat, 13), (f.toNat, 9), (i.toNat, 8), (p.toNat, 7), (e.toNat, 6), (1, 0)]) = W := Option.some.inj hW
  have ho : 0x10 < 2 ^ 7 := Nat.le_of_ble_eq_true rfl
  have hf : place [(sr.toNat, 13), (f.toNat, 9), (i.toNat, 8), (p.toNat, 7), (e.toNat, 6), (1, 0)] < 2 ^ 20 := place_cons_lt sr.isLt (place_cons_lt f.isLt (place_cons_lt (bool_lt i) (place_cons_lt (bool_lt p) (place_cons_lt (bool_lt e) (place_cons_lt (Nat.le_of_ble_eq_true rfl : 1 < 2 ^ 1) (place_nil_lt 0) (Nat.le_of_ble_eq_true rfl)) (Nat.le_of_ble_eq_true rfl)) (Nat.le_of_ble_eq_true rfl)) (Nat.le_of_ble_eq_true rfl)) (Nat.le_of_ble_eq_true rfl)) (Nat.le_of_ble_eq_true rfl)
  have hop := opcodeOf_slotWord (g := g) ho hf
  refine ⟨congrArg some (guardOf_slotWord ho hf).symm, _, rfl, decodeSlot_eq ?_⟩
  exact (decodeRaw_X hop (by decide)).trans (by rw [arm_xpreBar hop, if_neg (Bool.eq_false_iff.mp (Bool.and_eq_false_iff.mpr (.inl (holds_slotWord_ne ho hf 0 6 0 1 (Nat.le_of_ble_eq_true rfl) (place_skip (Nat.le_of_ble_eq_true rfl) (place_skip (Nat.le_of_ble_eq_true rfl) (place_skip (Nat.le_of_ble_eq_true rfl) (place_skip (Nat.le_of_ble_eq_true rfl) (place_skip (Nat.le_of_ble_eq_true rfl) (place_hit (Nat.le_of_ble_eq_true rfl : 1 < 2 ^ 6) (place_nil_lt 0))))))) rfl)))), if_pos (Bool.and_eq_true_iff.mpr ⟨(holds_slotWord ho hf 0 6 1 (Nat.le_of_ble_eq_true rfl) (place_skip (Nat.le_of_ble_eq_true rfl) (place_skip (Nat.le_of_ble_eq_true rfl) (place_skip (Nat.le_of_ble_eq_true rfl) (place_skip (Nat.le_of_ble_eq_true rfl) (place_skip (Nat.le_of_ble_eq_true rfl) (place_hit (Nat.le_of_ble_eq_true rfl : 1 < 2 ^ 6) (place_nil_lt 0)))))))), (holds_slotWord ho hf 16 4 0 (Nat.le_of_ble_eq_true rfl) (place_zero (place_cons_lt sr.isLt (place_cons_lt f.isLt (place_cons_lt (bool_lt i) (place_cons_lt (bool_lt p) (place_cons_lt (bool_lt e) (place_cons_lt (Nat.le_of_ble_eq_true rfl : 1 < 2 ^ 1) (place_nil_lt 0) (Nat.le_of_ble_eq_true rfl)) (Nat.le_of_ble_eq_true rfl)) (Nat.le_of_ble_eq_true rfl)) (Nat.le_of_ble_eq_true rfl)) (Nat.le_of_ble_eq_true rfl)) (Nat.le_of_ble_eq_true rfl))))⟩)]; exact congrArg Except.ok (by rw [guardOf_slotWord ho hf, fld_slotWord ho hf 13 3 (Nat.le_of_ble_eq_true rfl) sr (place_hit sr.isLt (place_cons_lt f.isLt (place_cons_lt (bool_lt i) (place_cons_lt (bool_lt p) (place_cons_lt (bool_lt e) (place_cons_lt (Nat.le_of_ble_eq_true rfl : 1 < 2 ^ 1) (place_nil_lt 0) (Nat.le_of_ble_eq_true rfl)) (Nat.le_of_ble_eq_true rfl)) (Nat.le_of_ble_eq_true rfl)) (Nat.le_of_ble_eq_true rfl)) (Nat.le_of_ble_eq_true rfl))), fld_slotWord ho hf 9 4 (Nat.le_of_ble_eq_true rfl) f (place_skip (Nat.le_of_ble_eq_true rfl) (place_hit f.isLt (place_cons_lt (bool_lt i) (place_cons_lt (bool_lt p) (place_cons_lt (bool_lt e) (place_cons_lt (Nat.le_of_ble_eq_true rfl : 1 < 2 ^ 1) (place_nil_lt 0) (Nat.le_of_ble_eq_true rfl)) (Nat.le_of_ble_eq_true rfl)) (Nat.le_of_ble_eq_true rfl)) (Nat.le_of_ble_eq_true rfl)))), flag_slotWord ho hf 8 (Nat.le_of_ble_eq_true rfl) i (place_skip (Nat.le_of_ble_eq_true rfl) (place_skip (Nat.le_of_ble_eq_true rfl) (place_hit (bool_lt i) (place_cons_lt (bool_lt p) (place_cons_lt (bool_lt e) (place_cons_lt (Nat.le_of_ble_eq_true rfl : 1 < 2 ^ 1) (place_nil_lt 0) (Nat.le_of_ble_eq_true rfl)) (Nat.le_of_ble_eq_true rfl)) (Nat.le_of_ble_eq_true rfl))))), flag_slotWord ho hf 7 (Nat.le_of_ble_eq_true rfl) p (place_skip (Nat.le_of_ble_eq_true rfl) (place_skip (Nat.le_of_ble_eq_true rfl) (place_skip (Nat.le_of_ble_eq_true rfl) (place_hit (bool_lt p) (place_cons_lt (bool_lt e) (place_cons_lt (Nat.le_of_ble_eq_true rfl : 1 < 2 ^ 1) (place_nil_lt 0) (Nat.le_of_ble_eq_true rfl)) (Nat.le_of_ble_eq_true rfl)))))), flag_slotWord ho hf 6 (Nat.le_of_ble_eq_true rfl) e (place_skip (Nat.le_of_ble_eq_true rfl) (place_skip (Nat.le_of_ble_eq_true rfl) (place_skip (Nat.le_of_ble_eq_true rfl) (place_skip (Nat.le_of_ble_eq_true rfl) (place_hit (bool_lt e) (place_cons_lt (Nat.le_of_ble_eq_true rfl : 1 < 2 ^ 1) (place_nil_lt 0) (Nat.le_of_ble_eq_true rfl)))))))]))

theorem arm_xpin {w : BitVec 32} (hop : opcodeOf w = 0x11) : decodeX w = accept (holds w 0 6 0 && holds w 16 4 0) (.xpin (guardOf w) (fld w 13 3) (fld w 9 4) (flag w 8) (flag w 7) (flag w 6)) := by
  unfold decodeX
  simp only [hop]

theorem xpin (g : Guard) (sr : BitVec 3) (f : BitVec 4) (i : Bool) (p : Bool) (e : Bool) : Statement (.xpin g sr f i p e) := by
  intro W hW
  obtain rfl : slotWord g 0x11 (place [(sr.toNat, 13), (f.toNat, 9), (i.toNat, 8), (p.toNat, 7), (e.toNat, 6)]) = W := Option.some.inj hW
  have ho : 0x11 < 2 ^ 7 := Nat.le_of_ble_eq_true rfl
  have hf : place [(sr.toNat, 13), (f.toNat, 9), (i.toNat, 8), (p.toNat, 7), (e.toNat, 6)] < 2 ^ 20 := place_cons_lt sr.isLt (place_cons_lt f.isLt (place_cons_lt (bool_lt i) (place_cons_lt (bool_lt p) (place_cons_lt (bool_lt e) (place_nil_lt 6) (Nat.le_of_ble_eq_true rfl)) (Nat.le_of_ble_eq_true rfl)) (Nat.le_of_ble_eq_true rfl)) (Nat.le_of_ble_eq_true rfl)) (Nat.le_of_ble_eq_true rfl)
  have hop := opcodeOf_slotWord (g := g) ho hf
  refine ⟨congrArg some (guardOf_slotWord ho hf).symm, _, rfl, decodeSlot_eq ?_⟩
  exact (decodeRaw_X hop (by decide)).trans ((arm_xpin hop).trans (accept_eq (Bool.and_eq_true_iff.mpr ⟨(holds_slotWord ho hf 0 6 0 (Nat.le_of_ble_eq_true rfl) (place_skip (Nat.le_of_ble_eq_true rfl) (place_skip (Nat.le_of_ble_eq_true rfl) (place_skip (Nat.le_of_ble_eq_true rfl) (place_skip (Nat.le_of_ble_eq_true rfl) (place_skip (Nat.le_of_ble_eq_true rfl) (place_zero (place_nil_lt 0)))))))), (holds_slotWord ho hf 16 4 0 (Nat.le_of_ble_eq_true rfl) (place_zero (place_cons_lt sr.isLt (place_cons_lt f.isLt (place_cons_lt (bool_lt i) (place_cons_lt (bool_lt p) (place_cons_lt (bool_lt e) (place_nil_lt 6) (Nat.le_of_ble_eq_true rfl)) (Nat.le_of_ble_eq_true rfl)) (Nat.le_of_ble_eq_true rfl)) (Nat.le_of_ble_eq_true rfl)) (Nat.le_of_ble_eq_true rfl))))⟩) (by rw [guardOf_slotWord ho hf, fld_slotWord ho hf 13 3 (Nat.le_of_ble_eq_true rfl) sr (place_hit sr.isLt (place_cons_lt f.isLt (place_cons_lt (bool_lt i) (place_cons_lt (bool_lt p) (place_cons_lt (bool_lt e) (place_nil_lt 6) (Nat.le_of_ble_eq_true rfl)) (Nat.le_of_ble_eq_true rfl)) (Nat.le_of_ble_eq_true rfl)) (Nat.le_of_ble_eq_true rfl))), fld_slotWord ho hf 9 4 (Nat.le_of_ble_eq_true rfl) f (place_skip (Nat.le_of_ble_eq_true rfl) (place_hit f.isLt (place_cons_lt (bool_lt i) (place_cons_lt (bool_lt p) (place_cons_lt (bool_lt e) (place_nil_lt 6) (Nat.le_of_ble_eq_true rfl)) (Nat.le_of_ble_eq_true rfl)) (Nat.le_of_ble_eq_true rfl)))), flag_slotWord ho hf 8 (Nat.le_of_ble_eq_true rfl) i (place_skip (Nat.le_of_ble_eq_true rfl) (place_skip (Nat.le_of_ble_eq_true rfl) (place_hit (bool_lt i) (place_cons_lt (bool_lt p) (place_cons_lt (bool_lt e) (place_nil_lt 6) (Nat.le_of_ble_eq_true rfl)) (Nat.le_of_ble_eq_true rfl))))), flag_slotWord ho hf 7 (Nat.le_of_ble_eq_true rfl) p (place_skip (Nat.le_of_ble_eq_true rfl) (place_skip (Nat.le_of_ble_eq_true rfl) (place_skip (Nat.le_of_ble_eq_true rfl) (place_hit (bool_lt p) (place_cons_lt (bool_lt e) (place_nil_lt 6) (Nat.le_of_ble_eq_true rfl)))))), flag_slotWord ho hf 6 (Nat.le_of_ble_eq_true rfl) e (place_skip (Nat.le_of_ble_eq_true rfl) (place_skip (Nat.le_of_ble_eq_true rfl) (place_skip (Nat.le_of_ble_eq_true rfl) (place_skip (Nat.le_of_ble_eq_true rfl) (place_hit (bool_lt e) (place_nil_lt 6))))))])))

theorem arm_xunpin {w : BitVec 32} (hop : opcodeOf w = 0x12) : decodeX w = accept (holds w 0 6 0 && holds w 16 4 0) (.xunpin (guardOf w) (fld w 13 3) (fld w 9 4) (flag w 8) (flag w 7) (flag w 6)) := by
  unfold decodeX
  simp only [hop]

theorem xunpin (g : Guard) (sr : BitVec 3) (f : BitVec 4) (i : Bool) (p : Bool) (e : Bool) : Statement (.xunpin g sr f i p e) := by
  intro W hW
  obtain rfl : slotWord g 0x12 (place [(sr.toNat, 13), (f.toNat, 9), (i.toNat, 8), (p.toNat, 7), (e.toNat, 6)]) = W := Option.some.inj hW
  have ho : 0x12 < 2 ^ 7 := Nat.le_of_ble_eq_true rfl
  have hf : place [(sr.toNat, 13), (f.toNat, 9), (i.toNat, 8), (p.toNat, 7), (e.toNat, 6)] < 2 ^ 20 := place_cons_lt sr.isLt (place_cons_lt f.isLt (place_cons_lt (bool_lt i) (place_cons_lt (bool_lt p) (place_cons_lt (bool_lt e) (place_nil_lt 6) (Nat.le_of_ble_eq_true rfl)) (Nat.le_of_ble_eq_true rfl)) (Nat.le_of_ble_eq_true rfl)) (Nat.le_of_ble_eq_true rfl)) (Nat.le_of_ble_eq_true rfl)
  have hop := opcodeOf_slotWord (g := g) ho hf
  refine ⟨congrArg some (guardOf_slotWord ho hf).symm, _, rfl, decodeSlot_eq ?_⟩
  exact (decodeRaw_X hop (by decide)).trans ((arm_xunpin hop).trans (accept_eq (Bool.and_eq_true_iff.mpr ⟨(holds_slotWord ho hf 0 6 0 (Nat.le_of_ble_eq_true rfl) (place_skip (Nat.le_of_ble_eq_true rfl) (place_skip (Nat.le_of_ble_eq_true rfl) (place_skip (Nat.le_of_ble_eq_true rfl) (place_skip (Nat.le_of_ble_eq_true rfl) (place_skip (Nat.le_of_ble_eq_true rfl) (place_zero (place_nil_lt 0)))))))), (holds_slotWord ho hf 16 4 0 (Nat.le_of_ble_eq_true rfl) (place_zero (place_cons_lt sr.isLt (place_cons_lt f.isLt (place_cons_lt (bool_lt i) (place_cons_lt (bool_lt p) (place_cons_lt (bool_lt e) (place_nil_lt 6) (Nat.le_of_ble_eq_true rfl)) (Nat.le_of_ble_eq_true rfl)) (Nat.le_of_ble_eq_true rfl)) (Nat.le_of_ble_eq_true rfl)) (Nat.le_of_ble_eq_true rfl))))⟩) (by rw [guardOf_slotWord ho hf, fld_slotWord ho hf 13 3 (Nat.le_of_ble_eq_true rfl) sr (place_hit sr.isLt (place_cons_lt f.isLt (place_cons_lt (bool_lt i) (place_cons_lt (bool_lt p) (place_cons_lt (bool_lt e) (place_nil_lt 6) (Nat.le_of_ble_eq_true rfl)) (Nat.le_of_ble_eq_true rfl)) (Nat.le_of_ble_eq_true rfl)) (Nat.le_of_ble_eq_true rfl))), fld_slotWord ho hf 9 4 (Nat.le_of_ble_eq_true rfl) f (place_skip (Nat.le_of_ble_eq_true rfl) (place_hit f.isLt (place_cons_lt (bool_lt i) (place_cons_lt (bool_lt p) (place_cons_lt (bool_lt e) (place_nil_lt 6) (Nat.le_of_ble_eq_true rfl)) (Nat.le_of_ble_eq_true rfl)) (Nat.le_of_ble_eq_true rfl)))), flag_slotWord ho hf 8 (Nat.le_of_ble_eq_true rfl) i (place_skip (Nat.le_of_ble_eq_true rfl) (place_skip (Nat.le_of_ble_eq_true rfl) (place_hit (bool_lt i) (place_cons_lt (bool_lt p) (place_cons_lt (bool_lt e) (place_nil_lt 6) (Nat.le_of_ble_eq_true rfl)) (Nat.le_of_ble_eq_true rfl))))), flag_slotWord ho hf 7 (Nat.le_of_ble_eq_true rfl) p (place_skip (Nat.le_of_ble_eq_true rfl) (place_skip (Nat.le_of_ble_eq_true rfl) (place_skip (Nat.le_of_ble_eq_true rfl) (place_hit (bool_lt p) (place_cons_lt (bool_lt e) (place_nil_lt 6) (Nat.le_of_ble_eq_true rfl)))))), flag_slotWord ho hf 6 (Nat.le_of_ble_eq_true rfl) e (place_skip (Nat.le_of_ble_eq_true rfl) (place_skip (Nat.le_of_ble_eq_true rfl) (place_skip (Nat.le_of_ble_eq_true rfl) (place_skip (Nat.le_of_ble_eq_true rfl) (place_hit (bool_lt e) (place_nil_lt 6))))))])))

theorem arm_xmig {w : BitVec 32} (hop : opcodeOf w = 0x13) : decodeX w = accept (holds w 2 4 0 && holds w 16 4 0) (.xmig (guardOf w) (fld w 13 3) (fld w 9 4) (flag w 8) (flag w 7) (flag w 6) (fld w 0 2)) := by
  unfold decodeX
  simp only [hop]

theorem xmig (g : Guard) (sr : BitVec 3) (f : BitVec 4) (i : Bool) (p : Bool) (e : Bool) (t : BitVec 2) : Statement (.xmig g sr f i p e t) := by
  intro W hW
  obtain rfl : slotWord g 0x13 (place [(sr.toNat, 13), (f.toNat, 9), (i.toNat, 8), (p.toNat, 7), (e.toNat, 6), (t.toNat, 0)]) = W := Option.some.inj hW
  have ho : 0x13 < 2 ^ 7 := Nat.le_of_ble_eq_true rfl
  have hf : place [(sr.toNat, 13), (f.toNat, 9), (i.toNat, 8), (p.toNat, 7), (e.toNat, 6), (t.toNat, 0)] < 2 ^ 20 := place_cons_lt sr.isLt (place_cons_lt f.isLt (place_cons_lt (bool_lt i) (place_cons_lt (bool_lt p) (place_cons_lt (bool_lt e) (place_cons_lt t.isLt (place_nil_lt 0) (Nat.le_of_ble_eq_true rfl)) (Nat.le_of_ble_eq_true rfl)) (Nat.le_of_ble_eq_true rfl)) (Nat.le_of_ble_eq_true rfl)) (Nat.le_of_ble_eq_true rfl)) (Nat.le_of_ble_eq_true rfl)
  have hop := opcodeOf_slotWord (g := g) ho hf
  refine ⟨congrArg some (guardOf_slotWord ho hf).symm, _, rfl, decodeSlot_eq ?_⟩
  exact (decodeRaw_X hop (by decide)).trans ((arm_xmig hop).trans (accept_eq (Bool.and_eq_true_iff.mpr ⟨(holds_slotWord ho hf 2 4 0 (Nat.le_of_ble_eq_true rfl) (place_skip (Nat.le_of_ble_eq_true rfl) (place_skip (Nat.le_of_ble_eq_true rfl) (place_skip (Nat.le_of_ble_eq_true rfl) (place_skip (Nat.le_of_ble_eq_true rfl) (place_skip (Nat.le_of_ble_eq_true rfl) (place_zero (place_cons_lt t.isLt (place_nil_lt 0) (Nat.le_of_ble_eq_true rfl))))))))), (holds_slotWord ho hf 16 4 0 (Nat.le_of_ble_eq_true rfl) (place_zero (place_cons_lt sr.isLt (place_cons_lt f.isLt (place_cons_lt (bool_lt i) (place_cons_lt (bool_lt p) (place_cons_lt (bool_lt e) (place_cons_lt t.isLt (place_nil_lt 0) (Nat.le_of_ble_eq_true rfl)) (Nat.le_of_ble_eq_true rfl)) (Nat.le_of_ble_eq_true rfl)) (Nat.le_of_ble_eq_true rfl)) (Nat.le_of_ble_eq_true rfl)) (Nat.le_of_ble_eq_true rfl))))⟩) (by rw [guardOf_slotWord ho hf, fld_slotWord ho hf 13 3 (Nat.le_of_ble_eq_true rfl) sr (place_hit sr.isLt (place_cons_lt f.isLt (place_cons_lt (bool_lt i) (place_cons_lt (bool_lt p) (place_cons_lt (bool_lt e) (place_cons_lt t.isLt (place_nil_lt 0) (Nat.le_of_ble_eq_true rfl)) (Nat.le_of_ble_eq_true rfl)) (Nat.le_of_ble_eq_true rfl)) (Nat.le_of_ble_eq_true rfl)) (Nat.le_of_ble_eq_true rfl))), fld_slotWord ho hf 9 4 (Nat.le_of_ble_eq_true rfl) f (place_skip (Nat.le_of_ble_eq_true rfl) (place_hit f.isLt (place_cons_lt (bool_lt i) (place_cons_lt (bool_lt p) (place_cons_lt (bool_lt e) (place_cons_lt t.isLt (place_nil_lt 0) (Nat.le_of_ble_eq_true rfl)) (Nat.le_of_ble_eq_true rfl)) (Nat.le_of_ble_eq_true rfl)) (Nat.le_of_ble_eq_true rfl)))), flag_slotWord ho hf 8 (Nat.le_of_ble_eq_true rfl) i (place_skip (Nat.le_of_ble_eq_true rfl) (place_skip (Nat.le_of_ble_eq_true rfl) (place_hit (bool_lt i) (place_cons_lt (bool_lt p) (place_cons_lt (bool_lt e) (place_cons_lt t.isLt (place_nil_lt 0) (Nat.le_of_ble_eq_true rfl)) (Nat.le_of_ble_eq_true rfl)) (Nat.le_of_ble_eq_true rfl))))), flag_slotWord ho hf 7 (Nat.le_of_ble_eq_true rfl) p (place_skip (Nat.le_of_ble_eq_true rfl) (place_skip (Nat.le_of_ble_eq_true rfl) (place_skip (Nat.le_of_ble_eq_true rfl) (place_hit (bool_lt p) (place_cons_lt (bool_lt e) (place_cons_lt t.isLt (place_nil_lt 0) (Nat.le_of_ble_eq_true rfl)) (Nat.le_of_ble_eq_true rfl)))))), flag_slotWord ho hf 6 (Nat.le_of_ble_eq_true rfl) e (place_skip (Nat.le_of_ble_eq_true rfl) (place_skip (Nat.le_of_ble_eq_true rfl) (place_skip (Nat.le_of_ble_eq_true rfl) (place_skip (Nat.le_of_ble_eq_true rfl) (place_hit (bool_lt e) (place_cons_lt t.isLt (place_nil_lt 0) (Nat.le_of_ble_eq_true rfl))))))), fld_slotWord ho hf 0 2 (Nat.le_of_ble_eq_true rfl) t (place_skip (Nat.le_of_ble_eq_true rfl) (place_skip (Nat.le_of_ble_eq_true rfl) (place_skip (Nat.le_of_ble_eq_true rfl) (place_skip (Nat.le_of_ble_eq_true rfl) (place_skip (Nat.le_of_ble_eq_true rfl) (place_hit t.isLt (place_nil_lt 0)))))))])))

theorem arm_xwait {w : BitVec 32} (hop : opcodeOf w = 0x18) : decodeX w = accept (holds w 3 13 0) (.xwait (guardOf w) (fld w 16 4) (fld w 1 2) (flag w 0)) := by
  unfold decodeX
  simp only [hop]

theorem xwait (g : Guard) (r : BitVec 4) (kd : BitVec 2) (v4 : Bool) : Statement (.xwait g r kd v4) := by
  intro W hW
  obtain rfl : slotWord g 0x18 (place [(r.toNat, 16), (kd.toNat, 1), (v4.toNat, 0)]) = W := Option.some.inj hW
  have ho : 0x18 < 2 ^ 7 := Nat.le_of_ble_eq_true rfl
  have hf : place [(r.toNat, 16), (kd.toNat, 1), (v4.toNat, 0)] < 2 ^ 20 := place_cons_lt r.isLt (place_cons_lt kd.isLt (place_cons_lt (bool_lt v4) (place_nil_lt 0) (Nat.le_of_ble_eq_true rfl)) (Nat.le_of_ble_eq_true rfl)) (Nat.le_of_ble_eq_true rfl)
  have hop := opcodeOf_slotWord (g := g) ho hf
  refine ⟨congrArg some (guardOf_slotWord ho hf).symm, _, rfl, decodeSlot_eq ?_⟩
  exact (decodeRaw_X hop (by decide)).trans ((arm_xwait hop).trans (accept_eq (holds_slotWord ho hf 3 13 0 (Nat.le_of_ble_eq_true rfl) (place_skip (Nat.le_of_ble_eq_true rfl) (place_zero (place_cons_lt kd.isLt (place_cons_lt (bool_lt v4) (place_nil_lt 0) (Nat.le_of_ble_eq_true rfl)) (Nat.le_of_ble_eq_true rfl))))) (by rw [guardOf_slotWord ho hf, fld_slotWord ho hf 16 4 (Nat.le_of_ble_eq_true rfl) r (place_hit r.isLt (place_cons_lt kd.isLt (place_cons_lt (bool_lt v4) (place_nil_lt 0) (Nat.le_of_ble_eq_true rfl)) (Nat.le_of_ble_eq_true rfl))), fld_slotWord ho hf 1 2 (Nat.le_of_ble_eq_true rfl) kd (place_skip (Nat.le_of_ble_eq_true rfl) (place_hit kd.isLt (place_cons_lt (bool_lt v4) (place_nil_lt 0) (Nat.le_of_ble_eq_true rfl)))), flag_slotWord ho hf 0 (Nat.le_of_ble_eq_true rfl) v4 (place_skip (Nat.le_of_ble_eq_true rfl) (place_skip (Nat.le_of_ble_eq_true rfl) (place_hit (bool_lt v4) (place_nil_lt 0))))])))

theorem arm_ggath {w : BitVec 32} (hop : opcodeOf w = 0x01) : decodeG w = accept (holds w 3 2 0 && holds w 16 4 0) (.ggath (guardOf w) (fld w 12 4) (fld w 8 4) (flag w 7) (flag w 6) (flag w 5) (fld w 0 3)) := by
  unfold decodeG
  simp only [hop]

theorem ggath (g : Guard) (t : BitVec 4) (f : BitVec 4) (p : Bool) (e : Bool) (q : Bool) (sr : BitVec 3) : Statement (.ggath g t f p e q sr) := by
  intro W hW
  obtain rfl : slotWord g 0x01 (place [(t.toNat, 12), (f.toNat, 8), (p.toNat, 7), (e.toNat, 6), (q.toNat, 5), (sr.toNat, 0)]) = W := Option.some.inj hW
  have ho : 0x01 < 2 ^ 7 := Nat.le_of_ble_eq_true rfl
  have hf : place [(t.toNat, 12), (f.toNat, 8), (p.toNat, 7), (e.toNat, 6), (q.toNat, 5), (sr.toNat, 0)] < 2 ^ 20 := place_cons_lt t.isLt (place_cons_lt f.isLt (place_cons_lt (bool_lt p) (place_cons_lt (bool_lt e) (place_cons_lt (bool_lt q) (place_cons_lt sr.isLt (place_nil_lt 0) (Nat.le_of_ble_eq_true rfl)) (Nat.le_of_ble_eq_true rfl)) (Nat.le_of_ble_eq_true rfl)) (Nat.le_of_ble_eq_true rfl)) (Nat.le_of_ble_eq_true rfl)) (Nat.le_of_ble_eq_true rfl)
  have hop := opcodeOf_slotWord (g := g) ho hf
  refine ⟨congrArg some (guardOf_slotWord ho hf).symm, _, rfl, decodeSlot_eq ?_⟩
  exact (decodeRaw_G hop (by decide)).trans ((arm_ggath hop).trans (accept_eq (Bool.and_eq_true_iff.mpr ⟨(holds_slotWord ho hf 3 2 0 (Nat.le_of_ble_eq_true rfl) (place_skip (Nat.le_of_ble_eq_true rfl) (place_skip (Nat.le_of_ble_eq_true rfl) (place_skip (Nat.le_of_ble_eq_true rfl) (place_skip (Nat.le_of_ble_eq_true rfl) (place_skip (Nat.le_of_ble_eq_true rfl) (place_zero (place_cons_lt sr.isLt (place_nil_lt 0) (Nat.le_of_ble_eq_true rfl))))))))), (holds_slotWord ho hf 16 4 0 (Nat.le_of_ble_eq_true rfl) (place_zero (place_cons_lt t.isLt (place_cons_lt f.isLt (place_cons_lt (bool_lt p) (place_cons_lt (bool_lt e) (place_cons_lt (bool_lt q) (place_cons_lt sr.isLt (place_nil_lt 0) (Nat.le_of_ble_eq_true rfl)) (Nat.le_of_ble_eq_true rfl)) (Nat.le_of_ble_eq_true rfl)) (Nat.le_of_ble_eq_true rfl)) (Nat.le_of_ble_eq_true rfl)) (Nat.le_of_ble_eq_true rfl))))⟩) (by rw [guardOf_slotWord ho hf, fld_slotWord ho hf 12 4 (Nat.le_of_ble_eq_true rfl) t (place_hit t.isLt (place_cons_lt f.isLt (place_cons_lt (bool_lt p) (place_cons_lt (bool_lt e) (place_cons_lt (bool_lt q) (place_cons_lt sr.isLt (place_nil_lt 0) (Nat.le_of_ble_eq_true rfl)) (Nat.le_of_ble_eq_true rfl)) (Nat.le_of_ble_eq_true rfl)) (Nat.le_of_ble_eq_true rfl)) (Nat.le_of_ble_eq_true rfl))), fld_slotWord ho hf 8 4 (Nat.le_of_ble_eq_true rfl) f (place_skip (Nat.le_of_ble_eq_true rfl) (place_hit f.isLt (place_cons_lt (bool_lt p) (place_cons_lt (bool_lt e) (place_cons_lt (bool_lt q) (place_cons_lt sr.isLt (place_nil_lt 0) (Nat.le_of_ble_eq_true rfl)) (Nat.le_of_ble_eq_true rfl)) (Nat.le_of_ble_eq_true rfl)) (Nat.le_of_ble_eq_true rfl)))), flag_slotWord ho hf 7 (Nat.le_of_ble_eq_true rfl) p (place_skip (Nat.le_of_ble_eq_true rfl) (place_skip (Nat.le_of_ble_eq_true rfl) (place_hit (bool_lt p) (place_cons_lt (bool_lt e) (place_cons_lt (bool_lt q) (place_cons_lt sr.isLt (place_nil_lt 0) (Nat.le_of_ble_eq_true rfl)) (Nat.le_of_ble_eq_true rfl)) (Nat.le_of_ble_eq_true rfl))))), flag_slotWord ho hf 6 (Nat.le_of_ble_eq_true rfl) e (place_skip (Nat.le_of_ble_eq_true rfl) (place_skip (Nat.le_of_ble_eq_true rfl) (place_skip (Nat.le_of_ble_eq_true rfl) (place_hit (bool_lt e) (place_cons_lt (bool_lt q) (place_cons_lt sr.isLt (place_nil_lt 0) (Nat.le_of_ble_eq_true rfl)) (Nat.le_of_ble_eq_true rfl)))))), flag_slotWord ho hf 5 (Nat.le_of_ble_eq_true rfl) q (place_skip (Nat.le_of_ble_eq_true rfl) (place_skip (Nat.le_of_ble_eq_true rfl) (place_skip (Nat.le_of_ble_eq_true rfl) (place_skip (Nat.le_of_ble_eq_true rfl) (place_hit (bool_lt q) (place_cons_lt sr.isLt (place_nil_lt 0) (Nat.le_of_ble_eq_true rfl))))))), fld_slotWord ho hf 0 3 (Nat.le_of_ble_eq_true rfl) sr (place_skip (Nat.le_of_ble_eq_true rfl) (place_skip (Nat.le_of_ble_eq_true rfl) (place_skip (Nat.le_of_ble_eq_true rfl) (place_skip (Nat.le_of_ble_eq_true rfl) (place_skip (Nat.le_of_ble_eq_true rfl) (place_hit sr.isLt (place_nil_lt 0)))))))])))

theorem arm_gscat {w : BitVec 32} (hop : opcodeOf w = 0x02) : decodeG w = accept (holds w 3 2 0 && holds w 16 4 0) (.gscat (guardOf w) (fld w 12 4) (fld w 8 4) (flag w 7) (flag w 6) (flag w 5) (fld w 0 3)) := by
  unfold decodeG
  simp only [hop]

theorem gscat (g : Guard) (t : BitVec 4) (f : BitVec 4) (p : Bool) (e : Bool) (q : Bool) (sr : BitVec 3) : Statement (.gscat g t f p e q sr) := by
  intro W hW
  obtain rfl : slotWord g 0x02 (place [(t.toNat, 12), (f.toNat, 8), (p.toNat, 7), (e.toNat, 6), (q.toNat, 5), (sr.toNat, 0)]) = W := Option.some.inj hW
  have ho : 0x02 < 2 ^ 7 := Nat.le_of_ble_eq_true rfl
  have hf : place [(t.toNat, 12), (f.toNat, 8), (p.toNat, 7), (e.toNat, 6), (q.toNat, 5), (sr.toNat, 0)] < 2 ^ 20 := place_cons_lt t.isLt (place_cons_lt f.isLt (place_cons_lt (bool_lt p) (place_cons_lt (bool_lt e) (place_cons_lt (bool_lt q) (place_cons_lt sr.isLt (place_nil_lt 0) (Nat.le_of_ble_eq_true rfl)) (Nat.le_of_ble_eq_true rfl)) (Nat.le_of_ble_eq_true rfl)) (Nat.le_of_ble_eq_true rfl)) (Nat.le_of_ble_eq_true rfl)) (Nat.le_of_ble_eq_true rfl)
  have hop := opcodeOf_slotWord (g := g) ho hf
  refine ⟨congrArg some (guardOf_slotWord ho hf).symm, _, rfl, decodeSlot_eq ?_⟩
  exact (decodeRaw_G hop (by decide)).trans ((arm_gscat hop).trans (accept_eq (Bool.and_eq_true_iff.mpr ⟨(holds_slotWord ho hf 3 2 0 (Nat.le_of_ble_eq_true rfl) (place_skip (Nat.le_of_ble_eq_true rfl) (place_skip (Nat.le_of_ble_eq_true rfl) (place_skip (Nat.le_of_ble_eq_true rfl) (place_skip (Nat.le_of_ble_eq_true rfl) (place_skip (Nat.le_of_ble_eq_true rfl) (place_zero (place_cons_lt sr.isLt (place_nil_lt 0) (Nat.le_of_ble_eq_true rfl))))))))), (holds_slotWord ho hf 16 4 0 (Nat.le_of_ble_eq_true rfl) (place_zero (place_cons_lt t.isLt (place_cons_lt f.isLt (place_cons_lt (bool_lt p) (place_cons_lt (bool_lt e) (place_cons_lt (bool_lt q) (place_cons_lt sr.isLt (place_nil_lt 0) (Nat.le_of_ble_eq_true rfl)) (Nat.le_of_ble_eq_true rfl)) (Nat.le_of_ble_eq_true rfl)) (Nat.le_of_ble_eq_true rfl)) (Nat.le_of_ble_eq_true rfl)) (Nat.le_of_ble_eq_true rfl))))⟩) (by rw [guardOf_slotWord ho hf, fld_slotWord ho hf 12 4 (Nat.le_of_ble_eq_true rfl) t (place_hit t.isLt (place_cons_lt f.isLt (place_cons_lt (bool_lt p) (place_cons_lt (bool_lt e) (place_cons_lt (bool_lt q) (place_cons_lt sr.isLt (place_nil_lt 0) (Nat.le_of_ble_eq_true rfl)) (Nat.le_of_ble_eq_true rfl)) (Nat.le_of_ble_eq_true rfl)) (Nat.le_of_ble_eq_true rfl)) (Nat.le_of_ble_eq_true rfl))), fld_slotWord ho hf 8 4 (Nat.le_of_ble_eq_true rfl) f (place_skip (Nat.le_of_ble_eq_true rfl) (place_hit f.isLt (place_cons_lt (bool_lt p) (place_cons_lt (bool_lt e) (place_cons_lt (bool_lt q) (place_cons_lt sr.isLt (place_nil_lt 0) (Nat.le_of_ble_eq_true rfl)) (Nat.le_of_ble_eq_true rfl)) (Nat.le_of_ble_eq_true rfl)) (Nat.le_of_ble_eq_true rfl)))), flag_slotWord ho hf 7 (Nat.le_of_ble_eq_true rfl) p (place_skip (Nat.le_of_ble_eq_true rfl) (place_skip (Nat.le_of_ble_eq_true rfl) (place_hit (bool_lt p) (place_cons_lt (bool_lt e) (place_cons_lt (bool_lt q) (place_cons_lt sr.isLt (place_nil_lt 0) (Nat.le_of_ble_eq_true rfl)) (Nat.le_of_ble_eq_true rfl)) (Nat.le_of_ble_eq_true rfl))))), flag_slotWord ho hf 6 (Nat.le_of_ble_eq_true rfl) e (place_skip (Nat.le_of_ble_eq_true rfl) (place_skip (Nat.le_of_ble_eq_true rfl) (place_skip (Nat.le_of_ble_eq_true rfl) (place_hit (bool_lt e) (place_cons_lt (bool_lt q) (place_cons_lt sr.isLt (place_nil_lt 0) (Nat.le_of_ble_eq_true rfl)) (Nat.le_of_ble_eq_true rfl)))))), flag_slotWord ho hf 5 (Nat.le_of_ble_eq_true rfl) q (place_skip (Nat.le_of_ble_eq_true rfl) (place_skip (Nat.le_of_ble_eq_true rfl) (place_skip (Nat.le_of_ble_eq_true rfl) (place_skip (Nat.le_of_ble_eq_true rfl) (place_hit (bool_lt q) (place_cons_lt sr.isLt (place_nil_lt 0) (Nat.le_of_ble_eq_true rfl))))))), fld_slotWord ho hf 0 3 (Nat.le_of_ble_eq_true rfl) sr (place_skip (Nat.le_of_ble_eq_true rfl) (place_skip (Nat.le_of_ble_eq_true rfl) (place_skip (Nat.le_of_ble_eq_true rfl) (place_skip (Nat.le_of_ble_eq_true rfl) (place_skip (Nat.le_of_ble_eq_true rfl) (place_hit sr.isLt (place_nil_lt 0)))))))])))

theorem arm_gspd {w : BitVec 32} (hop : opcodeOf w = 0x03) : decodeG w = accept (holds w 12 8 0) (.gspd (guardOf w) (fld w 8 4) (flag w 7) (flag w 6) (fld w 3 3) (fld w 0 3)) := by
  unfold decodeG
  simp only [hop]

theorem gspd (g : Guard) (f : BitVec 4) (p : Bool) (e : Bool) (r : BitVec 3) (sr : BitVec 3) : Statement (.gspd g f p e r sr) := by
  intro W hW
  obtain rfl : slotWord g 0x03 (place [(f.toNat, 8), (p.toNat, 7), (e.toNat, 6), (r.toNat, 3), (sr.toNat, 0)]) = W := Option.some.inj hW
  have ho : 0x03 < 2 ^ 7 := Nat.le_of_ble_eq_true rfl
  have hf : place [(f.toNat, 8), (p.toNat, 7), (e.toNat, 6), (r.toNat, 3), (sr.toNat, 0)] < 2 ^ 20 := place_cons_lt f.isLt (place_cons_lt (bool_lt p) (place_cons_lt (bool_lt e) (place_cons_lt r.isLt (place_cons_lt sr.isLt (place_nil_lt 0) (Nat.le_of_ble_eq_true rfl)) (Nat.le_of_ble_eq_true rfl)) (Nat.le_of_ble_eq_true rfl)) (Nat.le_of_ble_eq_true rfl)) (Nat.le_of_ble_eq_true rfl)
  have hop := opcodeOf_slotWord (g := g) ho hf
  refine ⟨congrArg some (guardOf_slotWord ho hf).symm, _, rfl, decodeSlot_eq ?_⟩
  exact (decodeRaw_G hop (by decide)).trans ((arm_gspd hop).trans (accept_eq (holds_slotWord ho hf 12 8 0 (Nat.le_of_ble_eq_true rfl) (place_zero (place_cons_lt f.isLt (place_cons_lt (bool_lt p) (place_cons_lt (bool_lt e) (place_cons_lt r.isLt (place_cons_lt sr.isLt (place_nil_lt 0) (Nat.le_of_ble_eq_true rfl)) (Nat.le_of_ble_eq_true rfl)) (Nat.le_of_ble_eq_true rfl)) (Nat.le_of_ble_eq_true rfl)) (Nat.le_of_ble_eq_true rfl)))) (by rw [guardOf_slotWord ho hf, fld_slotWord ho hf 8 4 (Nat.le_of_ble_eq_true rfl) f (place_hit f.isLt (place_cons_lt (bool_lt p) (place_cons_lt (bool_lt e) (place_cons_lt r.isLt (place_cons_lt sr.isLt (place_nil_lt 0) (Nat.le_of_ble_eq_true rfl)) (Nat.le_of_ble_eq_true rfl)) (Nat.le_of_ble_eq_true rfl)) (Nat.le_of_ble_eq_true rfl))), flag_slotWord ho hf 7 (Nat.le_of_ble_eq_true rfl) p (place_skip (Nat.le_of_ble_eq_true rfl) (place_hit (bool_lt p) (place_cons_lt (bool_lt e) (place_cons_lt r.isLt (place_cons_lt sr.isLt (place_nil_lt 0) (Nat.le_of_ble_eq_true rfl)) (Nat.le_of_ble_eq_true rfl)) (Nat.le_of_ble_eq_true rfl)))), flag_slotWord ho hf 6 (Nat.le_of_ble_eq_true rfl) e (place_skip (Nat.le_of_ble_eq_true rfl) (place_skip (Nat.le_of_ble_eq_true rfl) (place_hit (bool_lt e) (place_cons_lt r.isLt (place_cons_lt sr.isLt (place_nil_lt 0) (Nat.le_of_ble_eq_true rfl)) (Nat.le_of_ble_eq_true rfl))))), fld_slotWord ho hf 3 3 (Nat.le_of_ble_eq_true rfl) r (place_skip (Nat.le_of_ble_eq_true rfl) (place_skip (Nat.le_of_ble_eq_true rfl) (place_skip (Nat.le_of_ble_eq_true rfl) (place_hit r.isLt (place_cons_lt sr.isLt (place_nil_lt 0) (Nat.le_of_ble_eq_true rfl)))))), fld_slotWord ho hf 0 3 (Nat.le_of_ble_eq_true rfl) sr (place_skip (Nat.le_of_ble_eq_true rfl) (place_skip (Nat.le_of_ble_eq_true rfl) (place_skip (Nat.le_of_ble_eq_true rfl) (place_skip (Nat.le_of_ble_eq_true rfl) (place_hit sr.isLt (place_nil_lt 0))))))])))

theorem arm_gcar {w : BitVec 32} (hop : opcodeOf w = 0x08) : decodeG w = accept (holds w 3 3 0 && holds w 12 4 0) (.gcar (guardOf w) (fld w 16 4) (fld w 8 4) (flag w 7) (flag w 6) (fld w 0 3)) := by
  unfold decodeG
  simp only [hop]

theorem gcar (g : Guard) (u : BitVec 4) (f : BitVec 4) (p : Bool) (e : Bool) (sr : BitVec 3) : Statement (.gcar g u f p e sr) := by
  intro W hW
  obtain rfl : slotWord g 0x08 (place [(u.toNat, 16), (f.toNat, 8), (p.toNat, 7), (e.toNat, 6), (sr.toNat, 0)]) = W := Option.some.inj hW
  have ho : 0x08 < 2 ^ 7 := Nat.le_of_ble_eq_true rfl
  have hf : place [(u.toNat, 16), (f.toNat, 8), (p.toNat, 7), (e.toNat, 6), (sr.toNat, 0)] < 2 ^ 20 := place_cons_lt u.isLt (place_cons_lt f.isLt (place_cons_lt (bool_lt p) (place_cons_lt (bool_lt e) (place_cons_lt sr.isLt (place_nil_lt 0) (Nat.le_of_ble_eq_true rfl)) (Nat.le_of_ble_eq_true rfl)) (Nat.le_of_ble_eq_true rfl)) (Nat.le_of_ble_eq_true rfl)) (Nat.le_of_ble_eq_true rfl)
  have hop := opcodeOf_slotWord (g := g) ho hf
  refine ⟨congrArg some (guardOf_slotWord ho hf).symm, _, rfl, decodeSlot_eq ?_⟩
  exact (decodeRaw_G hop (by decide)).trans ((arm_gcar hop).trans (accept_eq (Bool.and_eq_true_iff.mpr ⟨(holds_slotWord ho hf 3 3 0 (Nat.le_of_ble_eq_true rfl) (place_skip (Nat.le_of_ble_eq_true rfl) (place_skip (Nat.le_of_ble_eq_true rfl) (place_skip (Nat.le_of_ble_eq_true rfl) (place_skip (Nat.le_of_ble_eq_true rfl) (place_zero (place_cons_lt sr.isLt (place_nil_lt 0) (Nat.le_of_ble_eq_true rfl)))))))), (holds_slotWord ho hf 12 4 0 (Nat.le_of_ble_eq_true rfl) (place_skip (Nat.le_of_ble_eq_true rfl) (place_zero (place_cons_lt f.isLt (place_cons_lt (bool_lt p) (place_cons_lt (bool_lt e) (place_cons_lt sr.isLt (place_nil_lt 0) (Nat.le_of_ble_eq_true rfl)) (Nat.le_of_ble_eq_true rfl)) (Nat.le_of_ble_eq_true rfl)) (Nat.le_of_ble_eq_true rfl)))))⟩) (by rw [guardOf_slotWord ho hf, fld_slotWord ho hf 16 4 (Nat.le_of_ble_eq_true rfl) u (place_hit u.isLt (place_cons_lt f.isLt (place_cons_lt (bool_lt p) (place_cons_lt (bool_lt e) (place_cons_lt sr.isLt (place_nil_lt 0) (Nat.le_of_ble_eq_true rfl)) (Nat.le_of_ble_eq_true rfl)) (Nat.le_of_ble_eq_true rfl)) (Nat.le_of_ble_eq_true rfl))), fld_slotWord ho hf 8 4 (Nat.le_of_ble_eq_true rfl) f (place_skip (Nat.le_of_ble_eq_true rfl) (place_hit f.isLt (place_cons_lt (bool_lt p) (place_cons_lt (bool_lt e) (place_cons_lt sr.isLt (place_nil_lt 0) (Nat.le_of_ble_eq_true rfl)) (Nat.le_of_ble_eq_true rfl)) (Nat.le_of_ble_eq_true rfl)))), flag_slotWord ho hf 7 (Nat.le_of_ble_eq_true rfl) p (place_skip (Nat.le_of_ble_eq_true rfl) (place_skip (Nat.le_of_ble_eq_true rfl) (place_hit (bool_lt p) (place_cons_lt (bool_lt e) (place_cons_lt sr.isLt (place_nil_lt 0) (Nat.le_of_ble_eq_true rfl)) (Nat.le_of_ble_eq_true rfl))))), flag_slotWord ho hf 6 (Nat.le_of_ble_eq_true rfl) e (place_skip (Nat.le_of_ble_eq_true rfl) (place_skip (Nat.le_of_ble_eq_true rfl) (place_skip (Nat.le_of_ble_eq_true rfl) (place_hit (bool_lt e) (place_cons_lt sr.isLt (place_nil_lt 0) (Nat.le_of_ble_eq_true rfl)))))), fld_slotWord ho hf 0 3 (Nat.le_of_ble_eq_true rfl) sr (place_skip (Nat.le_of_ble_eq_true rfl) (place_skip (Nat.le_of_ble_eq_true rfl) (place_skip (Nat.le_of_ble_eq_true rfl) (place_skip (Nat.le_of_ble_eq_true rfl) (place_hit sr.isLt (place_nil_lt 0))))))])))

theorem arm_gcred {w : BitVec 32} (hop : opcodeOf w = 0x09) : decodeG w = accept (holds w 3 3 0 && holds w 12 4 0) (.gcred (guardOf w) (fld w 16 4) (fld w 8 4) (flag w 7) (flag w 6) (fld w 0 3)) := by
  unfold decodeG
  simp only [hop]

theorem gcred (g : Guard) (u : BitVec 4) (f : BitVec 4) (p : Bool) (e : Bool) (sr : BitVec 3) : Statement (.gcred g u f p e sr) := by
  intro W hW
  obtain rfl : slotWord g 0x09 (place [(u.toNat, 16), (f.toNat, 8), (p.toNat, 7), (e.toNat, 6), (sr.toNat, 0)]) = W := Option.some.inj hW
  have ho : 0x09 < 2 ^ 7 := Nat.le_of_ble_eq_true rfl
  have hf : place [(u.toNat, 16), (f.toNat, 8), (p.toNat, 7), (e.toNat, 6), (sr.toNat, 0)] < 2 ^ 20 := place_cons_lt u.isLt (place_cons_lt f.isLt (place_cons_lt (bool_lt p) (place_cons_lt (bool_lt e) (place_cons_lt sr.isLt (place_nil_lt 0) (Nat.le_of_ble_eq_true rfl)) (Nat.le_of_ble_eq_true rfl)) (Nat.le_of_ble_eq_true rfl)) (Nat.le_of_ble_eq_true rfl)) (Nat.le_of_ble_eq_true rfl)
  have hop := opcodeOf_slotWord (g := g) ho hf
  refine ⟨congrArg some (guardOf_slotWord ho hf).symm, _, rfl, decodeSlot_eq ?_⟩
  exact (decodeRaw_G hop (by decide)).trans ((arm_gcred hop).trans (accept_eq (Bool.and_eq_true_iff.mpr ⟨(holds_slotWord ho hf 3 3 0 (Nat.le_of_ble_eq_true rfl) (place_skip (Nat.le_of_ble_eq_true rfl) (place_skip (Nat.le_of_ble_eq_true rfl) (place_skip (Nat.le_of_ble_eq_true rfl) (place_skip (Nat.le_of_ble_eq_true rfl) (place_zero (place_cons_lt sr.isLt (place_nil_lt 0) (Nat.le_of_ble_eq_true rfl)))))))), (holds_slotWord ho hf 12 4 0 (Nat.le_of_ble_eq_true rfl) (place_skip (Nat.le_of_ble_eq_true rfl) (place_zero (place_cons_lt f.isLt (place_cons_lt (bool_lt p) (place_cons_lt (bool_lt e) (place_cons_lt sr.isLt (place_nil_lt 0) (Nat.le_of_ble_eq_true rfl)) (Nat.le_of_ble_eq_true rfl)) (Nat.le_of_ble_eq_true rfl)) (Nat.le_of_ble_eq_true rfl)))))⟩) (by rw [guardOf_slotWord ho hf, fld_slotWord ho hf 16 4 (Nat.le_of_ble_eq_true rfl) u (place_hit u.isLt (place_cons_lt f.isLt (place_cons_lt (bool_lt p) (place_cons_lt (bool_lt e) (place_cons_lt sr.isLt (place_nil_lt 0) (Nat.le_of_ble_eq_true rfl)) (Nat.le_of_ble_eq_true rfl)) (Nat.le_of_ble_eq_true rfl)) (Nat.le_of_ble_eq_true rfl))), fld_slotWord ho hf 8 4 (Nat.le_of_ble_eq_true rfl) f (place_skip (Nat.le_of_ble_eq_true rfl) (place_hit f.isLt (place_cons_lt (bool_lt p) (place_cons_lt (bool_lt e) (place_cons_lt sr.isLt (place_nil_lt 0) (Nat.le_of_ble_eq_true rfl)) (Nat.le_of_ble_eq_true rfl)) (Nat.le_of_ble_eq_true rfl)))), flag_slotWord ho hf 7 (Nat.le_of_ble_eq_true rfl) p (place_skip (Nat.le_of_ble_eq_true rfl) (place_skip (Nat.le_of_ble_eq_true rfl) (place_hit (bool_lt p) (place_cons_lt (bool_lt e) (place_cons_lt sr.isLt (place_nil_lt 0) (Nat.le_of_ble_eq_true rfl)) (Nat.le_of_ble_eq_true rfl))))), flag_slotWord ho hf 6 (Nat.le_of_ble_eq_true rfl) e (place_skip (Nat.le_of_ble_eq_true rfl) (place_skip (Nat.le_of_ble_eq_true rfl) (place_skip (Nat.le_of_ble_eq_true rfl) (place_hit (bool_lt e) (place_cons_lt sr.isLt (place_nil_lt 0) (Nat.le_of_ble_eq_true rfl)))))), fld_slotWord ho hf 0 3 (Nat.le_of_ble_eq_true rfl) sr (place_skip (Nat.le_of_ble_eq_true rfl) (place_skip (Nat.le_of_ble_eq_true rfl) (place_skip (Nat.le_of_ble_eq_true rfl) (place_skip (Nat.le_of_ble_eq_true rfl) (place_hit sr.isLt (place_nil_lt 0))))))])))

theorem arm_gcbc {w : BitVec 32} (hop : opcodeOf w = 0x0A) : decodeG w = accept (holds w 3 3 0 && holds w 12 4 0) (.gcbc (guardOf w) (fld w 16 4) (fld w 8 4) (flag w 7) (flag w 6) (fld w 0 3)) := by
  unfold decodeG
  simp only [hop]

theorem gcbc (g : Guard) (u : BitVec 4) (f : BitVec 4) (p : Bool) (e : Bool) (sr : BitVec 3) : Statement (.gcbc g u f p e sr) := by
  intro W hW
  obtain rfl : slotWord g 0x0A (place [(u.toNat, 16), (f.toNat, 8), (p.toNat, 7), (e.toNat, 6), (sr.toNat, 0)]) = W := Option.some.inj hW
  have ho : 0x0A < 2 ^ 7 := Nat.le_of_ble_eq_true rfl
  have hf : place [(u.toNat, 16), (f.toNat, 8), (p.toNat, 7), (e.toNat, 6), (sr.toNat, 0)] < 2 ^ 20 := place_cons_lt u.isLt (place_cons_lt f.isLt (place_cons_lt (bool_lt p) (place_cons_lt (bool_lt e) (place_cons_lt sr.isLt (place_nil_lt 0) (Nat.le_of_ble_eq_true rfl)) (Nat.le_of_ble_eq_true rfl)) (Nat.le_of_ble_eq_true rfl)) (Nat.le_of_ble_eq_true rfl)) (Nat.le_of_ble_eq_true rfl)
  have hop := opcodeOf_slotWord (g := g) ho hf
  refine ⟨congrArg some (guardOf_slotWord ho hf).symm, _, rfl, decodeSlot_eq ?_⟩
  exact (decodeRaw_G hop (by decide)).trans ((arm_gcbc hop).trans (accept_eq (Bool.and_eq_true_iff.mpr ⟨(holds_slotWord ho hf 3 3 0 (Nat.le_of_ble_eq_true rfl) (place_skip (Nat.le_of_ble_eq_true rfl) (place_skip (Nat.le_of_ble_eq_true rfl) (place_skip (Nat.le_of_ble_eq_true rfl) (place_skip (Nat.le_of_ble_eq_true rfl) (place_zero (place_cons_lt sr.isLt (place_nil_lt 0) (Nat.le_of_ble_eq_true rfl)))))))), (holds_slotWord ho hf 12 4 0 (Nat.le_of_ble_eq_true rfl) (place_skip (Nat.le_of_ble_eq_true rfl) (place_zero (place_cons_lt f.isLt (place_cons_lt (bool_lt p) (place_cons_lt (bool_lt e) (place_cons_lt sr.isLt (place_nil_lt 0) (Nat.le_of_ble_eq_true rfl)) (Nat.le_of_ble_eq_true rfl)) (Nat.le_of_ble_eq_true rfl)) (Nat.le_of_ble_eq_true rfl)))))⟩) (by rw [guardOf_slotWord ho hf, fld_slotWord ho hf 16 4 (Nat.le_of_ble_eq_true rfl) u (place_hit u.isLt (place_cons_lt f.isLt (place_cons_lt (bool_lt p) (place_cons_lt (bool_lt e) (place_cons_lt sr.isLt (place_nil_lt 0) (Nat.le_of_ble_eq_true rfl)) (Nat.le_of_ble_eq_true rfl)) (Nat.le_of_ble_eq_true rfl)) (Nat.le_of_ble_eq_true rfl))), fld_slotWord ho hf 8 4 (Nat.le_of_ble_eq_true rfl) f (place_skip (Nat.le_of_ble_eq_true rfl) (place_hit f.isLt (place_cons_lt (bool_lt p) (place_cons_lt (bool_lt e) (place_cons_lt sr.isLt (place_nil_lt 0) (Nat.le_of_ble_eq_true rfl)) (Nat.le_of_ble_eq_true rfl)) (Nat.le_of_ble_eq_true rfl)))), flag_slotWord ho hf 7 (Nat.le_of_ble_eq_true rfl) p (place_skip (Nat.le_of_ble_eq_true rfl) (place_skip (Nat.le_of_ble_eq_true rfl) (place_hit (bool_lt p) (place_cons_lt (bool_lt e) (place_cons_lt sr.isLt (place_nil_lt 0) (Nat.le_of_ble_eq_true rfl)) (Nat.le_of_ble_eq_true rfl))))), flag_slotWord ho hf 6 (Nat.le_of_ble_eq_true rfl) e (place_skip (Nat.le_of_ble_eq_true rfl) (place_skip (Nat.le_of_ble_eq_true rfl) (place_skip (Nat.le_of_ble_eq_true rfl) (place_hit (bool_lt e) (place_cons_lt sr.isLt (place_nil_lt 0) (Nat.le_of_ble_eq_true rfl)))))), fld_slotWord ho hf 0 3 (Nat.le_of_ble_eq_true rfl) sr (place_skip (Nat.le_of_ble_eq_true rfl) (place_skip (Nat.le_of_ble_eq_true rfl) (place_skip (Nat.le_of_ble_eq_true rfl) (place_skip (Nat.le_of_ble_eq_true rfl) (place_hit sr.isLt (place_nil_lt 0))))))])))

theorem arm_gcag {w : BitVec 32} (hop : opcodeOf w = 0x0B) : decodeG w = accept (holds w 3 3 0 && holds w 12 4 0) (.gcag (guardOf w) (fld w 16 4) (fld w 8 4) (flag w 7) (flag w 6) (fld w 0 3)) := by
  unfold decodeG
  simp only [hop]

theorem gcag (g : Guard) (u : BitVec 4) (f : BitVec 4) (p : Bool) (e : Bool) (sr : BitVec 3) : Statement (.gcag g u f p e sr) := by
  intro W hW
  obtain rfl : slotWord g 0x0B (place [(u.toNat, 16), (f.toNat, 8), (p.toNat, 7), (e.toNat, 6), (sr.toNat, 0)]) = W := Option.some.inj hW
  have ho : 0x0B < 2 ^ 7 := Nat.le_of_ble_eq_true rfl
  have hf : place [(u.toNat, 16), (f.toNat, 8), (p.toNat, 7), (e.toNat, 6), (sr.toNat, 0)] < 2 ^ 20 := place_cons_lt u.isLt (place_cons_lt f.isLt (place_cons_lt (bool_lt p) (place_cons_lt (bool_lt e) (place_cons_lt sr.isLt (place_nil_lt 0) (Nat.le_of_ble_eq_true rfl)) (Nat.le_of_ble_eq_true rfl)) (Nat.le_of_ble_eq_true rfl)) (Nat.le_of_ble_eq_true rfl)) (Nat.le_of_ble_eq_true rfl)
  have hop := opcodeOf_slotWord (g := g) ho hf
  refine ⟨congrArg some (guardOf_slotWord ho hf).symm, _, rfl, decodeSlot_eq ?_⟩
  exact (decodeRaw_G hop (by decide)).trans ((arm_gcag hop).trans (accept_eq (Bool.and_eq_true_iff.mpr ⟨(holds_slotWord ho hf 3 3 0 (Nat.le_of_ble_eq_true rfl) (place_skip (Nat.le_of_ble_eq_true rfl) (place_skip (Nat.le_of_ble_eq_true rfl) (place_skip (Nat.le_of_ble_eq_true rfl) (place_skip (Nat.le_of_ble_eq_true rfl) (place_zero (place_cons_lt sr.isLt (place_nil_lt 0) (Nat.le_of_ble_eq_true rfl)))))))), (holds_slotWord ho hf 12 4 0 (Nat.le_of_ble_eq_true rfl) (place_skip (Nat.le_of_ble_eq_true rfl) (place_zero (place_cons_lt f.isLt (place_cons_lt (bool_lt p) (place_cons_lt (bool_lt e) (place_cons_lt sr.isLt (place_nil_lt 0) (Nat.le_of_ble_eq_true rfl)) (Nat.le_of_ble_eq_true rfl)) (Nat.le_of_ble_eq_true rfl)) (Nat.le_of_ble_eq_true rfl)))))⟩) (by rw [guardOf_slotWord ho hf, fld_slotWord ho hf 16 4 (Nat.le_of_ble_eq_true rfl) u (place_hit u.isLt (place_cons_lt f.isLt (place_cons_lt (bool_lt p) (place_cons_lt (bool_lt e) (place_cons_lt sr.isLt (place_nil_lt 0) (Nat.le_of_ble_eq_true rfl)) (Nat.le_of_ble_eq_true rfl)) (Nat.le_of_ble_eq_true rfl)) (Nat.le_of_ble_eq_true rfl))), fld_slotWord ho hf 8 4 (Nat.le_of_ble_eq_true rfl) f (place_skip (Nat.le_of_ble_eq_true rfl) (place_hit f.isLt (place_cons_lt (bool_lt p) (place_cons_lt (bool_lt e) (place_cons_lt sr.isLt (place_nil_lt 0) (Nat.le_of_ble_eq_true rfl)) (Nat.le_of_ble_eq_true rfl)) (Nat.le_of_ble_eq_true rfl)))), flag_slotWord ho hf 7 (Nat.le_of_ble_eq_true rfl) p (place_skip (Nat.le_of_ble_eq_true rfl) (place_skip (Nat.le_of_ble_eq_true rfl) (place_hit (bool_lt p) (place_cons_lt (bool_lt e) (place_cons_lt sr.isLt (place_nil_lt 0) (Nat.le_of_ble_eq_true rfl)) (Nat.le_of_ble_eq_true rfl))))), flag_slotWord ho hf 6 (Nat.le_of_ble_eq_true rfl) e (place_skip (Nat.le_of_ble_eq_true rfl) (place_skip (Nat.le_of_ble_eq_true rfl) (place_skip (Nat.le_of_ble_eq_true rfl) (place_hit (bool_lt e) (place_cons_lt sr.isLt (place_nil_lt 0) (Nat.le_of_ble_eq_true rfl)))))), fld_slotWord ho hf 0 3 (Nat.le_of_ble_eq_true rfl) sr (place_skip (Nat.le_of_ble_eq_true rfl) (place_skip (Nat.le_of_ble_eq_true rfl) (place_skip (Nat.le_of_ble_eq_true rfl) (place_skip (Nat.le_of_ble_eq_true rfl) (place_hit sr.isLt (place_nil_lt 0))))))])))

theorem arm_gsend {w : BitVec 32} (hop : opcodeOf w = 0x10) : decodeG w = accept (holds w 3 3 0 && holds w 12 4 0 && holds w 18 2 0) (.gsend (guardOf w) (fld w 16 2) (fld w 8 4) (flag w 7) (flag w 6) (fld w 0 3)) := by
  unfold decodeG
  simp only [hop]

theorem gsend (g : Guard) (m : BitVec 2) (f : BitVec 4) (p : Bool) (e : Bool) (sr : BitVec 3) : Statement (.gsend g m f p e sr) := by
  intro W hW
  obtain rfl : slotWord g 0x10 (place [(m.toNat, 16), (f.toNat, 8), (p.toNat, 7), (e.toNat, 6), (sr.toNat, 0)]) = W := Option.some.inj hW
  have ho : 0x10 < 2 ^ 7 := Nat.le_of_ble_eq_true rfl
  have hf : place [(m.toNat, 16), (f.toNat, 8), (p.toNat, 7), (e.toNat, 6), (sr.toNat, 0)] < 2 ^ 20 := place_cons_lt m.isLt (place_cons_lt f.isLt (place_cons_lt (bool_lt p) (place_cons_lt (bool_lt e) (place_cons_lt sr.isLt (place_nil_lt 0) (Nat.le_of_ble_eq_true rfl)) (Nat.le_of_ble_eq_true rfl)) (Nat.le_of_ble_eq_true rfl)) (Nat.le_of_ble_eq_true rfl)) (Nat.le_of_ble_eq_true rfl)
  have hop := opcodeOf_slotWord (g := g) ho hf
  refine ⟨congrArg some (guardOf_slotWord ho hf).symm, _, rfl, decodeSlot_eq ?_⟩
  exact (decodeRaw_G hop (by decide)).trans ((arm_gsend hop).trans (accept_eq (Bool.and_eq_true_iff.mpr ⟨(Bool.and_eq_true_iff.mpr ⟨(holds_slotWord ho hf 3 3 0 (Nat.le_of_ble_eq_true rfl) (place_skip (Nat.le_of_ble_eq_true rfl) (place_skip (Nat.le_of_ble_eq_true rfl) (place_skip (Nat.le_of_ble_eq_true rfl) (place_skip (Nat.le_of_ble_eq_true rfl) (place_zero (place_cons_lt sr.isLt (place_nil_lt 0) (Nat.le_of_ble_eq_true rfl)))))))), (holds_slotWord ho hf 12 4 0 (Nat.le_of_ble_eq_true rfl) (place_skip (Nat.le_of_ble_eq_true rfl) (place_zero (place_cons_lt f.isLt (place_cons_lt (bool_lt p) (place_cons_lt (bool_lt e) (place_cons_lt sr.isLt (place_nil_lt 0) (Nat.le_of_ble_eq_true rfl)) (Nat.le_of_ble_eq_true rfl)) (Nat.le_of_ble_eq_true rfl)) (Nat.le_of_ble_eq_true rfl)))))⟩), (holds_slotWord ho hf 18 2 0 (Nat.le_of_ble_eq_true rfl) (place_zero (place_cons_lt m.isLt (place_cons_lt f.isLt (place_cons_lt (bool_lt p) (place_cons_lt (bool_lt e) (place_cons_lt sr.isLt (place_nil_lt 0) (Nat.le_of_ble_eq_true rfl)) (Nat.le_of_ble_eq_true rfl)) (Nat.le_of_ble_eq_true rfl)) (Nat.le_of_ble_eq_true rfl)) (Nat.le_of_ble_eq_true rfl))))⟩) (by rw [guardOf_slotWord ho hf, fld_slotWord ho hf 16 2 (Nat.le_of_ble_eq_true rfl) m (place_hit m.isLt (place_cons_lt f.isLt (place_cons_lt (bool_lt p) (place_cons_lt (bool_lt e) (place_cons_lt sr.isLt (place_nil_lt 0) (Nat.le_of_ble_eq_true rfl)) (Nat.le_of_ble_eq_true rfl)) (Nat.le_of_ble_eq_true rfl)) (Nat.le_of_ble_eq_true rfl))), fld_slotWord ho hf 8 4 (Nat.le_of_ble_eq_true rfl) f (place_skip (Nat.le_of_ble_eq_true rfl) (place_hit f.isLt (place_cons_lt (bool_lt p) (place_cons_lt (bool_lt e) (place_cons_lt sr.isLt (place_nil_lt 0) (Nat.le_of_ble_eq_true rfl)) (Nat.le_of_ble_eq_true rfl)) (Nat.le_of_ble_eq_true rfl)))), flag_slotWord ho hf 7 (Nat.le_of_ble_eq_true rfl) p (place_skip (Nat.le_of_ble_eq_true rfl) (place_skip (Nat.le_of_ble_eq_true rfl) (place_hit (bool_lt p) (place_cons_lt (bool_lt e) (place_cons_lt sr.isLt (place_nil_lt 0) (Nat.le_of_ble_eq_true rfl)) (Nat.le_of_ble_eq_true rfl))))), flag_slotWord ho hf 6 (Nat.le_of_ble_eq_true rfl) e (place_skip (Nat.le_of_ble_eq_true rfl) (place_skip (Nat.le_of_ble_eq_true rfl) (place_skip (Nat.le_of_ble_eq_true rfl) (place_hit (bool_lt e) (place_cons_lt sr.isLt (place_nil_lt 0) (Nat.le_of_ble_eq_true rfl)))))), fld_slotWord ho hf 0 3 (Nat.le_of_ble_eq_true rfl) sr (place_skip (Nat.le_of_ble_eq_true rfl) (place_skip (Nat.le_of_ble_eq_true rfl) (place_skip (Nat.le_of_ble_eq_true rfl) (place_skip (Nat.le_of_ble_eq_true rfl) (place_hit sr.isLt (place_nil_lt 0))))))])))

theorem arm_grecv {w : BitVec 32} (hop : opcodeOf w = 0x11) : decodeG w = accept (holds w 3 3 0 && holds w 12 4 0 && holds w 18 2 0) (.grecv (guardOf w) (fld w 16 2) (fld w 8 4) (flag w 7) (flag w 6) (fld w 0 3)) := by
  unfold decodeG
  simp only [hop]

theorem grecv (g : Guard) (m : BitVec 2) (f : BitVec 4) (p : Bool) (e : Bool) (sr : BitVec 3) : Statement (.grecv g m f p e sr) := by
  intro W hW
  obtain rfl : slotWord g 0x11 (place [(m.toNat, 16), (f.toNat, 8), (p.toNat, 7), (e.toNat, 6), (sr.toNat, 0)]) = W := Option.some.inj hW
  have ho : 0x11 < 2 ^ 7 := Nat.le_of_ble_eq_true rfl
  have hf : place [(m.toNat, 16), (f.toNat, 8), (p.toNat, 7), (e.toNat, 6), (sr.toNat, 0)] < 2 ^ 20 := place_cons_lt m.isLt (place_cons_lt f.isLt (place_cons_lt (bool_lt p) (place_cons_lt (bool_lt e) (place_cons_lt sr.isLt (place_nil_lt 0) (Nat.le_of_ble_eq_true rfl)) (Nat.le_of_ble_eq_true rfl)) (Nat.le_of_ble_eq_true rfl)) (Nat.le_of_ble_eq_true rfl)) (Nat.le_of_ble_eq_true rfl)
  have hop := opcodeOf_slotWord (g := g) ho hf
  refine ⟨congrArg some (guardOf_slotWord ho hf).symm, _, rfl, decodeSlot_eq ?_⟩
  exact (decodeRaw_G hop (by decide)).trans ((arm_grecv hop).trans (accept_eq (Bool.and_eq_true_iff.mpr ⟨(Bool.and_eq_true_iff.mpr ⟨(holds_slotWord ho hf 3 3 0 (Nat.le_of_ble_eq_true rfl) (place_skip (Nat.le_of_ble_eq_true rfl) (place_skip (Nat.le_of_ble_eq_true rfl) (place_skip (Nat.le_of_ble_eq_true rfl) (place_skip (Nat.le_of_ble_eq_true rfl) (place_zero (place_cons_lt sr.isLt (place_nil_lt 0) (Nat.le_of_ble_eq_true rfl)))))))), (holds_slotWord ho hf 12 4 0 (Nat.le_of_ble_eq_true rfl) (place_skip (Nat.le_of_ble_eq_true rfl) (place_zero (place_cons_lt f.isLt (place_cons_lt (bool_lt p) (place_cons_lt (bool_lt e) (place_cons_lt sr.isLt (place_nil_lt 0) (Nat.le_of_ble_eq_true rfl)) (Nat.le_of_ble_eq_true rfl)) (Nat.le_of_ble_eq_true rfl)) (Nat.le_of_ble_eq_true rfl)))))⟩), (holds_slotWord ho hf 18 2 0 (Nat.le_of_ble_eq_true rfl) (place_zero (place_cons_lt m.isLt (place_cons_lt f.isLt (place_cons_lt (bool_lt p) (place_cons_lt (bool_lt e) (place_cons_lt sr.isLt (place_nil_lt 0) (Nat.le_of_ble_eq_true rfl)) (Nat.le_of_ble_eq_true rfl)) (Nat.le_of_ble_eq_true rfl)) (Nat.le_of_ble_eq_true rfl)) (Nat.le_of_ble_eq_true rfl))))⟩) (by rw [guardOf_slotWord ho hf, fld_slotWord ho hf 16 2 (Nat.le_of_ble_eq_true rfl) m (place_hit m.isLt (place_cons_lt f.isLt (place_cons_lt (bool_lt p) (place_cons_lt (bool_lt e) (place_cons_lt sr.isLt (place_nil_lt 0) (Nat.le_of_ble_eq_true rfl)) (Nat.le_of_ble_eq_true rfl)) (Nat.le_of_ble_eq_true rfl)) (Nat.le_of_ble_eq_true rfl))), fld_slotWord ho hf 8 4 (Nat.le_of_ble_eq_true rfl) f (place_skip (Nat.le_of_ble_eq_true rfl) (place_hit f.isLt (place_cons_lt (bool_lt p) (place_cons_lt (bool_lt e) (place_cons_lt sr.isLt (place_nil_lt 0) (Nat.le_of_ble_eq_true rfl)) (Nat.le_of_ble_eq_true rfl)) (Nat.le_of_ble_eq_true rfl)))), flag_slotWord ho hf 7 (Nat.le_of_ble_eq_true rfl) p (place_skip (Nat.le_of_ble_eq_true rfl) (place_skip (Nat.le_of_ble_eq_true rfl) (place_hit (bool_lt p) (place_cons_lt (bool_lt e) (place_cons_lt sr.isLt (place_nil_lt 0) (Nat.le_of_ble_eq_true rfl)) (Nat.le_of_ble_eq_true rfl))))), flag_slotWord ho hf 6 (Nat.le_of_ble_eq_true rfl) e (place_skip (Nat.le_of_ble_eq_true rfl) (place_skip (Nat.le_of_ble_eq_true rfl) (place_skip (Nat.le_of_ble_eq_true rfl) (place_hit (bool_lt e) (place_cons_lt sr.isLt (place_nil_lt 0) (Nat.le_of_ble_eq_true rfl)))))), fld_slotWord ho hf 0 3 (Nat.le_of_ble_eq_true rfl) sr (place_skip (Nat.le_of_ble_eq_true rfl) (place_skip (Nat.le_of_ble_eq_true rfl) (place_skip (Nat.le_of_ble_eq_true rfl) (place_skip (Nat.le_of_ble_eq_true rfl) (place_hit sr.isLt (place_nil_lt 0))))))])))

theorem arm_genq {w : BitVec 32} (hop : opcodeOf w = 0x12) : decodeG w = accept (holds w 3 3 0 && holds w 12 8 0) (.genq (guardOf w) (fld w 8 4) (flag w 7) (flag w 6) (fld w 0 3)) := by
  unfold decodeG
  simp only [hop]

theorem genq (g : Guard) (f : BitVec 4) (p : Bool) (e : Bool) (sr : BitVec 3) : Statement (.genq g f p e sr) := by
  intro W hW
  obtain rfl : slotWord g 0x12 (place [(f.toNat, 8), (p.toNat, 7), (e.toNat, 6), (sr.toNat, 0)]) = W := Option.some.inj hW
  have ho : 0x12 < 2 ^ 7 := Nat.le_of_ble_eq_true rfl
  have hf : place [(f.toNat, 8), (p.toNat, 7), (e.toNat, 6), (sr.toNat, 0)] < 2 ^ 20 := place_cons_lt f.isLt (place_cons_lt (bool_lt p) (place_cons_lt (bool_lt e) (place_cons_lt sr.isLt (place_nil_lt 0) (Nat.le_of_ble_eq_true rfl)) (Nat.le_of_ble_eq_true rfl)) (Nat.le_of_ble_eq_true rfl)) (Nat.le_of_ble_eq_true rfl)
  have hop := opcodeOf_slotWord (g := g) ho hf
  refine ⟨congrArg some (guardOf_slotWord ho hf).symm, _, rfl, decodeSlot_eq ?_⟩
  exact (decodeRaw_G hop (by decide)).trans ((arm_genq hop).trans (accept_eq (Bool.and_eq_true_iff.mpr ⟨(holds_slotWord ho hf 3 3 0 (Nat.le_of_ble_eq_true rfl) (place_skip (Nat.le_of_ble_eq_true rfl) (place_skip (Nat.le_of_ble_eq_true rfl) (place_skip (Nat.le_of_ble_eq_true rfl) (place_zero (place_cons_lt sr.isLt (place_nil_lt 0) (Nat.le_of_ble_eq_true rfl))))))), (holds_slotWord ho hf 12 8 0 (Nat.le_of_ble_eq_true rfl) (place_zero (place_cons_lt f.isLt (place_cons_lt (bool_lt p) (place_cons_lt (bool_lt e) (place_cons_lt sr.isLt (place_nil_lt 0) (Nat.le_of_ble_eq_true rfl)) (Nat.le_of_ble_eq_true rfl)) (Nat.le_of_ble_eq_true rfl)) (Nat.le_of_ble_eq_true rfl))))⟩) (by rw [guardOf_slotWord ho hf, fld_slotWord ho hf 8 4 (Nat.le_of_ble_eq_true rfl) f (place_hit f.isLt (place_cons_lt (bool_lt p) (place_cons_lt (bool_lt e) (place_cons_lt sr.isLt (place_nil_lt 0) (Nat.le_of_ble_eq_true rfl)) (Nat.le_of_ble_eq_true rfl)) (Nat.le_of_ble_eq_true rfl))), flag_slotWord ho hf 7 (Nat.le_of_ble_eq_true rfl) p (place_skip (Nat.le_of_ble_eq_true rfl) (place_hit (bool_lt p) (place_cons_lt (bool_lt e) (place_cons_lt sr.isLt (place_nil_lt 0) (Nat.le_of_ble_eq_true rfl)) (Nat.le_of_ble_eq_true rfl)))), flag_slotWord ho hf 6 (Nat.le_of_ble_eq_true rfl) e (place_skip (Nat.le_of_ble_eq_true rfl) (place_skip (Nat.le_of_ble_eq_true rfl) (place_hit (bool_lt e) (place_cons_lt sr.isLt (place_nil_lt 0) (Nat.le_of_ble_eq_true rfl))))), fld_slotWord ho hf 0 3 (Nat.le_of_ble_eq_true rfl) sr (place_skip (Nat.le_of_ble_eq_true rfl) (place_skip (Nat.le_of_ble_eq_true rfl) (place_skip (Nat.le_of_ble_eq_true rfl) (place_hit sr.isLt (place_nil_lt 0)))))])))

theorem arm_glaunch {w : BitVec 32} (hop : opcodeOf w = 0x14) : decodeG w = accept (holds w 3 3 0 && holds w 12 8 0) (.glaunch (guardOf w) (fld w 8 4) (flag w 7) (flag w 6) (fld w 0 3)) := by
  unfold decodeG
  simp only [hop]

theorem glaunch (g : Guard) (f : BitVec 4) (p : Bool) (e : Bool) (sr : BitVec 3) : Statement (.glaunch g f p e sr) := by
  intro W hW
  obtain rfl : slotWord g 0x14 (place [(f.toNat, 8), (p.toNat, 7), (e.toNat, 6), (sr.toNat, 0)]) = W := Option.some.inj hW
  have ho : 0x14 < 2 ^ 7 := Nat.le_of_ble_eq_true rfl
  have hf : place [(f.toNat, 8), (p.toNat, 7), (e.toNat, 6), (sr.toNat, 0)] < 2 ^ 20 := place_cons_lt f.isLt (place_cons_lt (bool_lt p) (place_cons_lt (bool_lt e) (place_cons_lt sr.isLt (place_nil_lt 0) (Nat.le_of_ble_eq_true rfl)) (Nat.le_of_ble_eq_true rfl)) (Nat.le_of_ble_eq_true rfl)) (Nat.le_of_ble_eq_true rfl)
  have hop := opcodeOf_slotWord (g := g) ho hf
  refine ⟨congrArg some (guardOf_slotWord ho hf).symm, _, rfl, decodeSlot_eq ?_⟩
  exact (decodeRaw_G hop (by decide)).trans ((arm_glaunch hop).trans (accept_eq (Bool.and_eq_true_iff.mpr ⟨(holds_slotWord ho hf 3 3 0 (Nat.le_of_ble_eq_true rfl) (place_skip (Nat.le_of_ble_eq_true rfl) (place_skip (Nat.le_of_ble_eq_true rfl) (place_skip (Nat.le_of_ble_eq_true rfl) (place_zero (place_cons_lt sr.isLt (place_nil_lt 0) (Nat.le_of_ble_eq_true rfl))))))), (holds_slotWord ho hf 12 8 0 (Nat.le_of_ble_eq_true rfl) (place_zero (place_cons_lt f.isLt (place_cons_lt (bool_lt p) (place_cons_lt (bool_lt e) (place_cons_lt sr.isLt (place_nil_lt 0) (Nat.le_of_ble_eq_true rfl)) (Nat.le_of_ble_eq_true rfl)) (Nat.le_of_ble_eq_true rfl)) (Nat.le_of_ble_eq_true rfl))))⟩) (by rw [guardOf_slotWord ho hf, fld_slotWord ho hf 8 4 (Nat.le_of_ble_eq_true rfl) f (place_hit f.isLt (place_cons_lt (bool_lt p) (place_cons_lt (bool_lt e) (place_cons_lt sr.isLt (place_nil_lt 0) (Nat.le_of_ble_eq_true rfl)) (Nat.le_of_ble_eq_true rfl)) (Nat.le_of_ble_eq_true rfl))), flag_slotWord ho hf 7 (Nat.le_of_ble_eq_true rfl) p (place_skip (Nat.le_of_ble_eq_true rfl) (place_hit (bool_lt p) (place_cons_lt (bool_lt e) (place_cons_lt sr.isLt (place_nil_lt 0) (Nat.le_of_ble_eq_true rfl)) (Nat.le_of_ble_eq_true rfl)))), flag_slotWord ho hf 6 (Nat.le_of_ble_eq_true rfl) e (place_skip (Nat.le_of_ble_eq_true rfl) (place_skip (Nat.le_of_ble_eq_true rfl) (place_hit (bool_lt e) (place_cons_lt sr.isLt (place_nil_lt 0) (Nat.le_of_ble_eq_true rfl))))), fld_slotWord ho hf 0 3 (Nat.le_of_ble_eq_true rfl) sr (place_skip (Nat.le_of_ble_eq_true rfl) (place_skip (Nat.le_of_ble_eq_true rfl) (place_skip (Nat.le_of_ble_eq_true rfl) (place_hit sr.isLt (place_nil_lt 0)))))])))

theorem arm_galloc {w : BitVec 32} (hop : opcodeOf w = 0x18) : decodeG w = accept (true) (.galloc (guardOf w) (fld w 16 4) (fld w 10 6) (fld w 4 6) (fld w 0 4)) := by
  unfold decodeG
  simp only [hop]

theorem galloc (g : Guard) (a : BitVec 4) (d : BitVec 6) (sr : BitVec 6) (p : BitVec 4) : Statement (.galloc g a d sr p) := by
  intro W hW
  obtain rfl : slotWord g 0x18 (place [(a.toNat, 16), (d.toNat, 10), (sr.toNat, 4), (p.toNat, 0)]) = W := Option.some.inj hW
  have ho : 0x18 < 2 ^ 7 := Nat.le_of_ble_eq_true rfl
  have hf : place [(a.toNat, 16), (d.toNat, 10), (sr.toNat, 4), (p.toNat, 0)] < 2 ^ 20 := place_cons_lt a.isLt (place_cons_lt d.isLt (place_cons_lt sr.isLt (place_cons_lt p.isLt (place_nil_lt 0) (Nat.le_of_ble_eq_true rfl)) (Nat.le_of_ble_eq_true rfl)) (Nat.le_of_ble_eq_true rfl)) (Nat.le_of_ble_eq_true rfl)
  have hop := opcodeOf_slotWord (g := g) ho hf
  refine ⟨congrArg some (guardOf_slotWord ho hf).symm, _, rfl, decodeSlot_eq ?_⟩
  exact (decodeRaw_G hop (by decide)).trans ((arm_galloc hop).trans (accept_eq rfl (by rw [guardOf_slotWord ho hf, fld_slotWord ho hf 16 4 (Nat.le_of_ble_eq_true rfl) a (place_hit a.isLt (place_cons_lt d.isLt (place_cons_lt sr.isLt (place_cons_lt p.isLt (place_nil_lt 0) (Nat.le_of_ble_eq_true rfl)) (Nat.le_of_ble_eq_true rfl)) (Nat.le_of_ble_eq_true rfl))), fld_slotWord ho hf 10 6 (Nat.le_of_ble_eq_true rfl) d (place_skip (Nat.le_of_ble_eq_true rfl) (place_hit d.isLt (place_cons_lt sr.isLt (place_cons_lt p.isLt (place_nil_lt 0) (Nat.le_of_ble_eq_true rfl)) (Nat.le_of_ble_eq_true rfl)))), fld_slotWord ho hf 4 6 (Nat.le_of_ble_eq_true rfl) sr (place_skip (Nat.le_of_ble_eq_true rfl) (place_skip (Nat.le_of_ble_eq_true rfl) (place_hit sr.isLt (place_cons_lt p.isLt (place_nil_lt 0) (Nat.le_of_ble_eq_true rfl))))), fld_slotWord ho hf 0 4 (Nat.le_of_ble_eq_true rfl) p (place_skip (Nat.le_of_ble_eq_true rfl) (place_skip (Nat.le_of_ble_eq_true rfl) (place_skip (Nat.le_of_ble_eq_true rfl) (place_hit p.isLt (place_nil_lt 0)))))])))

theorem arm_gallocR {w : BitVec 32} (hop : opcodeOf w = 0x19) : decodeG w = accept (true) (.gallocR (guardOf w) (fld w 16 4) (fld w 10 6) (fld w 4 6) (fld w 0 4)) := by
  unfold decodeG
  simp only [hop]

theorem gallocR (g : Guard) (a : BitVec 4) (d : BitVec 6) (sr : BitVec 6) (p : BitVec 4) : Statement (.gallocR g a d sr p) := by
  intro W hW
  obtain rfl : slotWord g 0x19 (place [(a.toNat, 16), (d.toNat, 10), (sr.toNat, 4), (p.toNat, 0)]) = W := Option.some.inj hW
  have ho : 0x19 < 2 ^ 7 := Nat.le_of_ble_eq_true rfl
  have hf : place [(a.toNat, 16), (d.toNat, 10), (sr.toNat, 4), (p.toNat, 0)] < 2 ^ 20 := place_cons_lt a.isLt (place_cons_lt d.isLt (place_cons_lt sr.isLt (place_cons_lt p.isLt (place_nil_lt 0) (Nat.le_of_ble_eq_true rfl)) (Nat.le_of_ble_eq_true rfl)) (Nat.le_of_ble_eq_true rfl)) (Nat.le_of_ble_eq_true rfl)
  have hop := opcodeOf_slotWord (g := g) ho hf
  refine ⟨congrArg some (guardOf_slotWord ho hf).symm, _, rfl, decodeSlot_eq ?_⟩
  exact (decodeRaw_G hop (by decide)).trans ((arm_gallocR hop).trans (accept_eq rfl (by rw [guardOf_slotWord ho hf, fld_slotWord ho hf 16 4 (Nat.le_of_ble_eq_true rfl) a (place_hit a.isLt (place_cons_lt d.isLt (place_cons_lt sr.isLt (place_cons_lt p.isLt (place_nil_lt 0) (Nat.le_of_ble_eq_true rfl)) (Nat.le_of_ble_eq_true rfl)) (Nat.le_of_ble_eq_true rfl))), fld_slotWord ho hf 10 6 (Nat.le_of_ble_eq_true rfl) d (place_skip (Nat.le_of_ble_eq_true rfl) (place_hit d.isLt (place_cons_lt sr.isLt (place_cons_lt p.isLt (place_nil_lt 0) (Nat.le_of_ble_eq_true rfl)) (Nat.le_of_ble_eq_true rfl)))), fld_slotWord ho hf 4 6 (Nat.le_of_ble_eq_true rfl) sr (place_skip (Nat.le_of_ble_eq_true rfl) (place_skip (Nat.le_of_ble_eq_true rfl) (place_hit sr.isLt (place_cons_lt p.isLt (place_nil_lt 0) (Nat.le_of_ble_eq_true rfl))))), fld_slotWord ho hf 0 4 (Nat.le_of_ble_eq_true rfl) p (place_skip (Nat.le_of_ble_eq_true rfl) (place_skip (Nat.le_of_ble_eq_true rfl) (place_skip (Nat.le_of_ble_eq_true rfl) (place_hit p.isLt (place_nil_lt 0)))))])))

theorem arm_gallocF {w : BitVec 32} (hop : opcodeOf w = 0x1A) : decodeG w = accept (holds w 0 4 0) (.gallocF (guardOf w) (fld w 16 4) (fld w 10 6) (fld w 4 6)) := by
  unfold decodeG
  simp only [hop]

theorem gallocF (g : Guard) (a : BitVec 4) (d : BitVec 6) (sr : BitVec 6) : Statement (.gallocF g a d sr) := by
  intro W hW
  obtain rfl : slotWord g 0x1A (place [(a.toNat, 16), (d.toNat, 10), (sr.toNat, 4)]) = W := Option.some.inj hW
  have ho : 0x1A < 2 ^ 7 := Nat.le_of_ble_eq_true rfl
  have hf : place [(a.toNat, 16), (d.toNat, 10), (sr.toNat, 4)] < 2 ^ 20 := place_cons_lt a.isLt (place_cons_lt d.isLt (place_cons_lt sr.isLt (place_nil_lt 4) (Nat.le_of_ble_eq_true rfl)) (Nat.le_of_ble_eq_true rfl)) (Nat.le_of_ble_eq_true rfl)
  have hop := opcodeOf_slotWord (g := g) ho hf
  refine ⟨congrArg some (guardOf_slotWord ho hf).symm, _, rfl, decodeSlot_eq ?_⟩
  exact (decodeRaw_G hop (by decide)).trans ((arm_gallocF hop).trans (accept_eq (holds_slotWord ho hf 0 4 0 (Nat.le_of_ble_eq_true rfl) (place_skip (Nat.le_of_ble_eq_true rfl) (place_skip (Nat.le_of_ble_eq_true rfl) (place_skip (Nat.le_of_ble_eq_true rfl) (place_zero (place_nil_lt 0)))))) (by rw [guardOf_slotWord ho hf, fld_slotWord ho hf 16 4 (Nat.le_of_ble_eq_true rfl) a (place_hit a.isLt (place_cons_lt d.isLt (place_cons_lt sr.isLt (place_nil_lt 4) (Nat.le_of_ble_eq_true rfl)) (Nat.le_of_ble_eq_true rfl))), fld_slotWord ho hf 10 6 (Nat.le_of_ble_eq_true rfl) d (place_skip (Nat.le_of_ble_eq_true rfl) (place_hit d.isLt (place_cons_lt sr.isLt (place_nil_lt 4) (Nat.le_of_ble_eq_true rfl)))), fld_slotWord ho hf 4 6 (Nat.le_of_ble_eq_true rfl) sr (place_skip (Nat.le_of_ble_eq_true rfl) (place_skip (Nat.le_of_ble_eq_true rfl) (place_hit sr.isLt (place_nil_lt 4))))])))

theorem arm_gallocFR {w : BitVec 32} (hop : opcodeOf w = 0x1B) : decodeG w = accept (holds w 0 4 0) (.gallocFR (guardOf w) (fld w 16 4) (fld w 10 6) (fld w 4 6)) := by
  unfold decodeG
  simp only [hop]

theorem gallocFR (g : Guard) (a : BitVec 4) (d : BitVec 6) (sr : BitVec 6) : Statement (.gallocFR g a d sr) := by
  intro W hW
  obtain rfl : slotWord g 0x1B (place [(a.toNat, 16), (d.toNat, 10), (sr.toNat, 4)]) = W := Option.some.inj hW
  have ho : 0x1B < 2 ^ 7 := Nat.le_of_ble_eq_true rfl
  have hf : place [(a.toNat, 16), (d.toNat, 10), (sr.toNat, 4)] < 2 ^ 20 := place_cons_lt a.isLt (place_cons_lt d.isLt (place_cons_lt sr.isLt (place_nil_lt 4) (Nat.le_of_ble_eq_true rfl)) (Nat.le_of_ble_eq_true rfl)) (Nat.le_of_ble_eq_true rfl)
  have hop := opcodeOf_slotWord (g := g) ho hf
  refine ⟨congrArg some (guardOf_slotWord ho hf).symm, _, rfl, decodeSlot_eq ?_⟩
  exact (decodeRaw_G hop (by decide)).trans ((arm_gallocFR hop).trans (accept_eq (holds_slotWord ho hf 0 4 0 (Nat.le_of_ble_eq_true rfl) (place_skip (Nat.le_of_ble_eq_true rfl) (place_skip (Nat.le_of_ble_eq_true rfl) (place_skip (Nat.le_of_ble_eq_true rfl) (place_zero (place_nil_lt 0)))))) (by rw [guardOf_slotWord ho hf, fld_slotWord ho hf 16 4 (Nat.le_of_ble_eq_true rfl) a (place_hit a.isLt (place_cons_lt d.isLt (place_cons_lt sr.isLt (place_nil_lt 4) (Nat.le_of_ble_eq_true rfl)) (Nat.le_of_ble_eq_true rfl))), fld_slotWord ho hf 10 6 (Nat.le_of_ble_eq_true rfl) d (place_skip (Nat.le_of_ble_eq_true rfl) (place_hit d.isLt (place_cons_lt sr.isLt (place_nil_lt 4) (Nat.le_of_ble_eq_true rfl)))), fld_slotWord ho hf 4 6 (Nat.le_of_ble_eq_true rfl) sr (place_skip (Nat.le_of_ble_eq_true rfl) (place_skip (Nat.le_of_ble_eq_true rfl) (place_hit sr.isLt (place_nil_lt 4))))])))

theorem arm_gfree {w : BitVec 32} (hop : opcodeOf w = 0x1C) : decodeG w = accept (holds w 10 6 0) (.gfree (guardOf w) (fld w 16 4) (fld w 4 6) (fld w 0 4)) := by
  unfold decodeG
  simp only [hop]

theorem gfree (g : Guard) (a : BitVec 4) (sr : BitVec 6) (p : BitVec 4) : Statement (.gfree g a sr p) := by
  intro W hW
  obtain rfl : slotWord g 0x1C (place [(a.toNat, 16), (sr.toNat, 4), (p.toNat, 0)]) = W := Option.some.inj hW
  have ho : 0x1C < 2 ^ 7 := Nat.le_of_ble_eq_true rfl
  have hf : place [(a.toNat, 16), (sr.toNat, 4), (p.toNat, 0)] < 2 ^ 20 := place_cons_lt a.isLt (place_cons_lt sr.isLt (place_cons_lt p.isLt (place_nil_lt 0) (Nat.le_of_ble_eq_true rfl)) (Nat.le_of_ble_eq_true rfl)) (Nat.le_of_ble_eq_true rfl)
  have hop := opcodeOf_slotWord (g := g) ho hf
  refine ⟨congrArg some (guardOf_slotWord ho hf).symm, _, rfl, decodeSlot_eq ?_⟩
  exact (decodeRaw_G hop (by decide)).trans ((arm_gfree hop).trans (accept_eq (holds_slotWord ho hf 10 6 0 (Nat.le_of_ble_eq_true rfl) (place_skip (Nat.le_of_ble_eq_true rfl) (place_zero (place_cons_lt sr.isLt (place_cons_lt p.isLt (place_nil_lt 0) (Nat.le_of_ble_eq_true rfl)) (Nat.le_of_ble_eq_true rfl))))) (by rw [guardOf_slotWord ho hf, fld_slotWord ho hf 16 4 (Nat.le_of_ble_eq_true rfl) a (place_hit a.isLt (place_cons_lt sr.isLt (place_cons_lt p.isLt (place_nil_lt 0) (Nat.le_of_ble_eq_true rfl)) (Nat.le_of_ble_eq_true rfl))), fld_slotWord ho hf 4 6 (Nat.le_of_ble_eq_true rfl) sr (place_skip (Nat.le_of_ble_eq_true rfl) (place_hit sr.isLt (place_cons_lt p.isLt (place_nil_lt 0) (Nat.le_of_ble_eq_true rfl)))), fld_slotWord ho hf 0 4 (Nat.le_of_ble_eq_true rfl) p (place_skip (Nat.le_of_ble_eq_true rfl) (place_skip (Nat.le_of_ble_eq_true rfl) (place_hit p.isLt (place_nil_lt 0))))])))

theorem arm_gretract {w : BitVec 32} (hop : opcodeOf w = 0x1D) : decodeG w = accept (holds w 0 4 0 && holds w 10 10 0) (.gretract (guardOf w) (fld w 4 6)) := by
  unfold decodeG
  simp only [hop]

theorem gretract (g : Guard) (sr : BitVec 6) : Statement (.gretract g sr) := by
  intro W hW
  obtain rfl : slotWord g 0x1D (place [(sr.toNat, 4)]) = W := Option.some.inj hW
  have ho : 0x1D < 2 ^ 7 := Nat.le_of_ble_eq_true rfl
  have hf : place [(sr.toNat, 4)] < 2 ^ 20 := place_cons_lt sr.isLt (place_nil_lt 4) (Nat.le_of_ble_eq_true rfl)
  have hop := opcodeOf_slotWord (g := g) ho hf
  refine ⟨congrArg some (guardOf_slotWord ho hf).symm, _, rfl, decodeSlot_eq ?_⟩
  exact (decodeRaw_G hop (by decide)).trans ((arm_gretract hop).trans (accept_eq (Bool.and_eq_true_iff.mpr ⟨(holds_slotWord ho hf 0 4 0 (Nat.le_of_ble_eq_true rfl) (place_skip (Nat.le_of_ble_eq_true rfl) (place_zero (place_nil_lt 0)))), (holds_slotWord ho hf 10 10 0 (Nat.le_of_ble_eq_true rfl) (place_zero (place_cons_lt sr.isLt (place_nil_lt 4) (Nat.le_of_ble_eq_true rfl))))⟩) (by rw [guardOf_slotWord ho hf, fld_slotWord ho hf 4 6 (Nat.le_of_ble_eq_true rfl) sr (place_hit sr.isLt (place_nil_lt 4))])))

theorem arm_stopk {w : BitVec 32} (hop : opcodeOf w = 0x20) : decodeG w = accept (holds w 3 3 0 && holds w 12 4 0) (.stopk (guardOf w) (fld w 16 4) (fld w 8 4) (flag w 7) (flag w 6) (fld w 0 3)) := by
  unfold decodeG
  simp only [hop]

theorem stopk (g : Guard) (u : BitVec 4) (f : BitVec 4) (p : Bool) (e : Bool) (sr : BitVec 3) : Statement (.stopk g u f p e sr) := by
  intro W hW
  obtain rfl : slotWord g 0x20 (place [(u.toNat, 16), (f.toNat, 8), (p.toNat, 7), (e.toNat, 6), (sr.toNat, 0)]) = W := Option.some.inj hW
  have ho : 0x20 < 2 ^ 7 := Nat.le_of_ble_eq_true rfl
  have hf : place [(u.toNat, 16), (f.toNat, 8), (p.toNat, 7), (e.toNat, 6), (sr.toNat, 0)] < 2 ^ 20 := place_cons_lt u.isLt (place_cons_lt f.isLt (place_cons_lt (bool_lt p) (place_cons_lt (bool_lt e) (place_cons_lt sr.isLt (place_nil_lt 0) (Nat.le_of_ble_eq_true rfl)) (Nat.le_of_ble_eq_true rfl)) (Nat.le_of_ble_eq_true rfl)) (Nat.le_of_ble_eq_true rfl)) (Nat.le_of_ble_eq_true rfl)
  have hop := opcodeOf_slotWord (g := g) ho hf
  refine ⟨congrArg some (guardOf_slotWord ho hf).symm, _, rfl, decodeSlot_eq ?_⟩
  exact (decodeRaw_G hop (by decide)).trans ((arm_stopk hop).trans (accept_eq (Bool.and_eq_true_iff.mpr ⟨(holds_slotWord ho hf 3 3 0 (Nat.le_of_ble_eq_true rfl) (place_skip (Nat.le_of_ble_eq_true rfl) (place_skip (Nat.le_of_ble_eq_true rfl) (place_skip (Nat.le_of_ble_eq_true rfl) (place_skip (Nat.le_of_ble_eq_true rfl) (place_zero (place_cons_lt sr.isLt (place_nil_lt 0) (Nat.le_of_ble_eq_true rfl)))))))), (holds_slotWord ho hf 12 4 0 (Nat.le_of_ble_eq_true rfl) (place_skip (Nat.le_of_ble_eq_true rfl) (place_zero (place_cons_lt f.isLt (place_cons_lt (bool_lt p) (place_cons_lt (bool_lt e) (place_cons_lt sr.isLt (place_nil_lt 0) (Nat.le_of_ble_eq_true rfl)) (Nat.le_of_ble_eq_true rfl)) (Nat.le_of_ble_eq_true rfl)) (Nat.le_of_ble_eq_true rfl)))))⟩) (by rw [guardOf_slotWord ho hf, fld_slotWord ho hf 16 4 (Nat.le_of_ble_eq_true rfl) u (place_hit u.isLt (place_cons_lt f.isLt (place_cons_lt (bool_lt p) (place_cons_lt (bool_lt e) (place_cons_lt sr.isLt (place_nil_lt 0) (Nat.le_of_ble_eq_true rfl)) (Nat.le_of_ble_eq_true rfl)) (Nat.le_of_ble_eq_true rfl)) (Nat.le_of_ble_eq_true rfl))), fld_slotWord ho hf 8 4 (Nat.le_of_ble_eq_true rfl) f (place_skip (Nat.le_of_ble_eq_true rfl) (place_hit f.isLt (place_cons_lt (bool_lt p) (place_cons_lt (bool_lt e) (place_cons_lt sr.isLt (place_nil_lt 0) (Nat.le_of_ble_eq_true rfl)) (Nat.le_of_ble_eq_true rfl)) (Nat.le_of_ble_eq_true rfl)))), flag_slotWord ho hf 7 (Nat.le_of_ble_eq_true rfl) p (place_skip (Nat.le_of_ble_eq_true rfl) (place_skip (Nat.le_of_ble_eq_true rfl) (place_hit (bool_lt p) (place_cons_lt (bool_lt e) (place_cons_lt sr.isLt (place_nil_lt 0) (Nat.le_of_ble_eq_true rfl)) (Nat.le_of_ble_eq_true rfl))))), flag_slotWord ho hf 6 (Nat.le_of_ble_eq_true rfl) e (place_skip (Nat.le_of_ble_eq_true rfl) (place_skip (Nat.le_of_ble_eq_true rfl) (place_skip (Nat.le_of_ble_eq_true rfl) (place_hit (bool_lt e) (place_cons_lt sr.isLt (place_nil_lt 0) (Nat.le_of_ble_eq_true rfl)))))), fld_slotWord ho hf 0 3 (Nat.le_of_ble_eq_true rfl) sr (place_skip (Nat.le_of_ble_eq_true rfl) (place_skip (Nat.le_of_ble_eq_true rfl) (place_skip (Nat.le_of_ble_eq_true rfl) (place_skip (Nat.le_of_ble_eq_true rfl) (place_hit sr.isLt (place_nil_lt 0))))))])))

theorem arm_stemp {w : BitVec 32} (hop : opcodeOf w = 0x21) : decodeG w = accept (holds w 3 3 0 && holds w 12 4 0) (.stemp (guardOf w) (fld w 16 4) (fld w 8 4) (flag w 7) (flag w 6) (fld w 0 3)) := by
  unfold decodeG
  simp only [hop]

theorem stemp (g : Guard) (u : BitVec 4) (f : BitVec 4) (p : Bool) (e : Bool) (sr : BitVec 3) : Statement (.stemp g u f p e sr) := by
  intro W hW
  obtain rfl : slotWord g 0x21 (place [(u.toNat, 16), (f.toNat, 8), (p.toNat, 7), (e.toNat, 6), (sr.toNat, 0)]) = W := Option.some.inj hW
  have ho : 0x21 < 2 ^ 7 := Nat.le_of_ble_eq_true rfl
  have hf : place [(u.toNat, 16), (f.toNat, 8), (p.toNat, 7), (e.toNat, 6), (sr.toNat, 0)] < 2 ^ 20 := place_cons_lt u.isLt (place_cons_lt f.isLt (place_cons_lt (bool_lt p) (place_cons_lt (bool_lt e) (place_cons_lt sr.isLt (place_nil_lt 0) (Nat.le_of_ble_eq_true rfl)) (Nat.le_of_ble_eq_true rfl)) (Nat.le_of_ble_eq_true rfl)) (Nat.le_of_ble_eq_true rfl)) (Nat.le_of_ble_eq_true rfl)
  have hop := opcodeOf_slotWord (g := g) ho hf
  refine ⟨congrArg some (guardOf_slotWord ho hf).symm, _, rfl, decodeSlot_eq ?_⟩
  exact (decodeRaw_G hop (by decide)).trans ((arm_stemp hop).trans (accept_eq (Bool.and_eq_true_iff.mpr ⟨(holds_slotWord ho hf 3 3 0 (Nat.le_of_ble_eq_true rfl) (place_skip (Nat.le_of_ble_eq_true rfl) (place_skip (Nat.le_of_ble_eq_true rfl) (place_skip (Nat.le_of_ble_eq_true rfl) (place_skip (Nat.le_of_ble_eq_true rfl) (place_zero (place_cons_lt sr.isLt (place_nil_lt 0) (Nat.le_of_ble_eq_true rfl)))))))), (holds_slotWord ho hf 12 4 0 (Nat.le_of_ble_eq_true rfl) (place_skip (Nat.le_of_ble_eq_true rfl) (place_zero (place_cons_lt f.isLt (place_cons_lt (bool_lt p) (place_cons_lt (bool_lt e) (place_cons_lt sr.isLt (place_nil_lt 0) (Nat.le_of_ble_eq_true rfl)) (Nat.le_of_ble_eq_true rfl)) (Nat.le_of_ble_eq_true rfl)) (Nat.le_of_ble_eq_true rfl)))))⟩) (by rw [guardOf_slotWord ho hf, fld_slotWord ho hf 16 4 (Nat.le_of_ble_eq_true rfl) u (place_hit u.isLt (place_cons_lt f.isLt (place_cons_lt (bool_lt p) (place_cons_lt (bool_lt e) (place_cons_lt sr.isLt (place_nil_lt 0) (Nat.le_of_ble_eq_true rfl)) (Nat.le_of_ble_eq_true rfl)) (Nat.le_of_ble_eq_true rfl)) (Nat.le_of_ble_eq_true rfl))), fld_slotWord ho hf 8 4 (Nat.le_of_ble_eq_true rfl) f (place_skip (Nat.le_of_ble_eq_true rfl) (place_hit f.isLt (place_cons_lt (bool_lt p) (place_cons_lt (bool_lt e) (place_cons_lt sr.isLt (place_nil_lt 0) (Nat.le_of_ble_eq_true rfl)) (Nat.le_of_ble_eq_true rfl)) (Nat.le_of_ble_eq_true rfl)))), flag_slotWord ho hf 7 (Nat.le_of_ble_eq_true rfl) p (place_skip (Nat.le_of_ble_eq_true rfl) (place_skip (Nat.le_of_ble_eq_true rfl) (place_hit (bool_lt p) (place_cons_lt (bool_lt e) (place_cons_lt sr.isLt (place_nil_lt 0) (Nat.le_of_ble_eq_true rfl)) (Nat.le_of_ble_eq_true rfl))))), flag_slotWord ho hf 6 (Nat.le_of_ble_eq_true rfl) e (place_skip (Nat.le_of_ble_eq_true rfl) (place_skip (Nat.le_of_ble_eq_true rfl) (place_skip (Nat.le_of_ble_eq_true rfl) (place_hit (bool_lt e) (place_cons_lt sr.isLt (place_nil_lt 0) (Nat.le_of_ble_eq_true rfl)))))), fld_slotWord ho hf 0 3 (Nat.le_of_ble_eq_true rfl) sr (place_skip (Nat.le_of_ble_eq_true rfl) (place_skip (Nat.le_of_ble_eq_true rfl) (place_skip (Nat.le_of_ble_eq_true rfl) (place_skip (Nat.le_of_ble_eq_true rfl) (place_hit sr.isLt (place_nil_lt 0))))))])))

theorem arm_stopp {w : BitVec 32} (hop : opcodeOf w = 0x22) : decodeG w = accept (holds w 3 3 0 && holds w 12 4 0) (.stopp (guardOf w) (fld w 16 4) (fld w 8 4) (flag w 7) (flag w 6) (fld w 0 3)) := by
  unfold decodeG
  simp only [hop]

theorem stopp (g : Guard) (u : BitVec 4) (f : BitVec 4) (p : Bool) (e : Bool) (sr : BitVec 3) : Statement (.stopp g u f p e sr) := by
  intro W hW
  obtain rfl : slotWord g 0x22 (place [(u.toNat, 16), (f.toNat, 8), (p.toNat, 7), (e.toNat, 6), (sr.toNat, 0)]) = W := Option.some.inj hW
  have ho : 0x22 < 2 ^ 7 := Nat.le_of_ble_eq_true rfl
  have hf : place [(u.toNat, 16), (f.toNat, 8), (p.toNat, 7), (e.toNat, 6), (sr.toNat, 0)] < 2 ^ 20 := place_cons_lt u.isLt (place_cons_lt f.isLt (place_cons_lt (bool_lt p) (place_cons_lt (bool_lt e) (place_cons_lt sr.isLt (place_nil_lt 0) (Nat.le_of_ble_eq_true rfl)) (Nat.le_of_ble_eq_true rfl)) (Nat.le_of_ble_eq_true rfl)) (Nat.le_of_ble_eq_true rfl)) (Nat.le_of_ble_eq_true rfl)
  have hop := opcodeOf_slotWord (g := g) ho hf
  refine ⟨congrArg some (guardOf_slotWord ho hf).symm, _, rfl, decodeSlot_eq ?_⟩
  exact (decodeRaw_G hop (by decide)).trans ((arm_stopp hop).trans (accept_eq (Bool.and_eq_true_iff.mpr ⟨(holds_slotWord ho hf 3 3 0 (Nat.le_of_ble_eq_true rfl) (place_skip (Nat.le_of_ble_eq_true rfl) (place_skip (Nat.le_of_ble_eq_true rfl) (place_skip (Nat.le_of_ble_eq_true rfl) (place_skip (Nat.le_of_ble_eq_true rfl) (place_zero (place_cons_lt sr.isLt (place_nil_lt 0) (Nat.le_of_ble_eq_true rfl)))))))), (holds_slotWord ho hf 12 4 0 (Nat.le_of_ble_eq_true rfl) (place_skip (Nat.le_of_ble_eq_true rfl) (place_zero (place_cons_lt f.isLt (place_cons_lt (bool_lt p) (place_cons_lt (bool_lt e) (place_cons_lt sr.isLt (place_nil_lt 0) (Nat.le_of_ble_eq_true rfl)) (Nat.le_of_ble_eq_true rfl)) (Nat.le_of_ble_eq_true rfl)) (Nat.le_of_ble_eq_true rfl)))))⟩) (by rw [guardOf_slotWord ho hf, fld_slotWord ho hf 16 4 (Nat.le_of_ble_eq_true rfl) u (place_hit u.isLt (place_cons_lt f.isLt (place_cons_lt (bool_lt p) (place_cons_lt (bool_lt e) (place_cons_lt sr.isLt (place_nil_lt 0) (Nat.le_of_ble_eq_true rfl)) (Nat.le_of_ble_eq_true rfl)) (Nat.le_of_ble_eq_true rfl)) (Nat.le_of_ble_eq_true rfl))), fld_slotWord ho hf 8 4 (Nat.le_of_ble_eq_true rfl) f (place_skip (Nat.le_of_ble_eq_true rfl) (place_hit f.isLt (place_cons_lt (bool_lt p) (place_cons_lt (bool_lt e) (place_cons_lt sr.isLt (place_nil_lt 0) (Nat.le_of_ble_eq_true rfl)) (Nat.le_of_ble_eq_true rfl)) (Nat.le_of_ble_eq_true rfl)))), flag_slotWord ho hf 7 (Nat.le_of_ble_eq_true rfl) p (place_skip (Nat.le_of_ble_eq_true rfl) (place_skip (Nat.le_of_ble_eq_true rfl) (place_hit (bool_lt p) (place_cons_lt (bool_lt e) (place_cons_lt sr.isLt (place_nil_lt 0) (Nat.le_of_ble_eq_true rfl)) (Nat.le_of_ble_eq_true rfl))))), flag_slotWord ho hf 6 (Nat.le_of_ble_eq_true rfl) e (place_skip (Nat.le_of_ble_eq_true rfl) (place_skip (Nat.le_of_ble_eq_true rfl) (place_skip (Nat.le_of_ble_eq_true rfl) (place_hit (bool_lt e) (place_cons_lt sr.isLt (place_nil_lt 0) (Nat.le_of_ble_eq_true rfl)))))), fld_slotWord ho hf 0 3 (Nat.le_of_ble_eq_true rfl) sr (place_skip (Nat.le_of_ble_eq_true rfl) (place_skip (Nat.le_of_ble_eq_true rfl) (place_skip (Nat.le_of_ble_eq_true rfl) (place_skip (Nat.le_of_ble_eq_true rfl) (place_hit sr.isLt (place_nil_lt 0))))))])))

theorem arm_sgram {w : BitVec 32} (hop : opcodeOf w = 0x23) : decodeG w = accept (holds w 3 3 0 && holds w 12 4 0) (.sgram (guardOf w) (fld w 16 4) (fld w 8 4) (flag w 7) (flag w 6) (fld w 0 3)) := by
  unfold decodeG
  simp only [hop]

theorem sgram (g : Guard) (u : BitVec 4) (f : BitVec 4) (p : Bool) (e : Bool) (sr : BitVec 3) : Statement (.sgram g u f p e sr) := by
  intro W hW
  obtain rfl : slotWord g 0x23 (place [(u.toNat, 16), (f.toNat, 8), (p.toNat, 7), (e.toNat, 6), (sr.toNat, 0)]) = W := Option.some.inj hW
  have ho : 0x23 < 2 ^ 7 := Nat.le_of_ble_eq_true rfl
  have hf : place [(u.toNat, 16), (f.toNat, 8), (p.toNat, 7), (e.toNat, 6), (sr.toNat, 0)] < 2 ^ 20 := place_cons_lt u.isLt (place_cons_lt f.isLt (place_cons_lt (bool_lt p) (place_cons_lt (bool_lt e) (place_cons_lt sr.isLt (place_nil_lt 0) (Nat.le_of_ble_eq_true rfl)) (Nat.le_of_ble_eq_true rfl)) (Nat.le_of_ble_eq_true rfl)) (Nat.le_of_ble_eq_true rfl)) (Nat.le_of_ble_eq_true rfl)
  have hop := opcodeOf_slotWord (g := g) ho hf
  refine ⟨congrArg some (guardOf_slotWord ho hf).symm, _, rfl, decodeSlot_eq ?_⟩
  exact (decodeRaw_G hop (by decide)).trans ((arm_sgram hop).trans (accept_eq (Bool.and_eq_true_iff.mpr ⟨(holds_slotWord ho hf 3 3 0 (Nat.le_of_ble_eq_true rfl) (place_skip (Nat.le_of_ble_eq_true rfl) (place_skip (Nat.le_of_ble_eq_true rfl) (place_skip (Nat.le_of_ble_eq_true rfl) (place_skip (Nat.le_of_ble_eq_true rfl) (place_zero (place_cons_lt sr.isLt (place_nil_lt 0) (Nat.le_of_ble_eq_true rfl)))))))), (holds_slotWord ho hf 12 4 0 (Nat.le_of_ble_eq_true rfl) (place_skip (Nat.le_of_ble_eq_true rfl) (place_zero (place_cons_lt f.isLt (place_cons_lt (bool_lt p) (place_cons_lt (bool_lt e) (place_cons_lt sr.isLt (place_nil_lt 0) (Nat.le_of_ble_eq_true rfl)) (Nat.le_of_ble_eq_true rfl)) (Nat.le_of_ble_eq_true rfl)) (Nat.le_of_ble_eq_true rfl)))))⟩) (by rw [guardOf_slotWord ho hf, fld_slotWord ho hf 16 4 (Nat.le_of_ble_eq_true rfl) u (place_hit u.isLt (place_cons_lt f.isLt (place_cons_lt (bool_lt p) (place_cons_lt (bool_lt e) (place_cons_lt sr.isLt (place_nil_lt 0) (Nat.le_of_ble_eq_true rfl)) (Nat.le_of_ble_eq_true rfl)) (Nat.le_of_ble_eq_true rfl)) (Nat.le_of_ble_eq_true rfl))), fld_slotWord ho hf 8 4 (Nat.le_of_ble_eq_true rfl) f (place_skip (Nat.le_of_ble_eq_true rfl) (place_hit f.isLt (place_cons_lt (bool_lt p) (place_cons_lt (bool_lt e) (place_cons_lt sr.isLt (place_nil_lt 0) (Nat.le_of_ble_eq_true rfl)) (Nat.le_of_ble_eq_true rfl)) (Nat.le_of_ble_eq_true rfl)))), flag_slotWord ho hf 7 (Nat.le_of_ble_eq_true rfl) p (place_skip (Nat.le_of_ble_eq_true rfl) (place_skip (Nat.le_of_ble_eq_true rfl) (place_hit (bool_lt p) (place_cons_lt (bool_lt e) (place_cons_lt sr.isLt (place_nil_lt 0) (Nat.le_of_ble_eq_true rfl)) (Nat.le_of_ble_eq_true rfl))))), flag_slotWord ho hf 6 (Nat.le_of_ble_eq_true rfl) e (place_skip (Nat.le_of_ble_eq_true rfl) (place_skip (Nat.le_of_ble_eq_true rfl) (place_skip (Nat.le_of_ble_eq_true rfl) (place_hit (bool_lt e) (place_cons_lt sr.isLt (place_nil_lt 0) (Nat.le_of_ble_eq_true rfl)))))), fld_slotWord ho hf 0 3 (Nat.le_of_ble_eq_true rfl) sr (place_skip (Nat.le_of_ble_eq_true rfl) (place_skip (Nat.le_of_ble_eq_true rfl) (place_skip (Nat.le_of_ble_eq_true rfl) (place_skip (Nat.le_of_ble_eq_true rfl) (place_hit sr.isLt (place_nil_lt 0))))))])))

theorem arm_sdraw {w : BitVec 32} (hop : opcodeOf w = 0x24) : decodeG w = accept (holds w 3 3 0 && holds w 12 4 0) (.sdraw (guardOf w) (fld w 16 4) (fld w 8 4) (flag w 7) (flag w 6) (fld w 0 3)) := by
  unfold decodeG
  simp only [hop]

theorem sdraw (g : Guard) (u : BitVec 4) (f : BitVec 4) (p : Bool) (e : Bool) (sr : BitVec 3) : Statement (.sdraw g u f p e sr) := by
  intro W hW
  obtain rfl : slotWord g 0x24 (place [(u.toNat, 16), (f.toNat, 8), (p.toNat, 7), (e.toNat, 6), (sr.toNat, 0)]) = W := Option.some.inj hW
  have ho : 0x24 < 2 ^ 7 := Nat.le_of_ble_eq_true rfl
  have hf : place [(u.toNat, 16), (f.toNat, 8), (p.toNat, 7), (e.toNat, 6), (sr.toNat, 0)] < 2 ^ 20 := place_cons_lt u.isLt (place_cons_lt f.isLt (place_cons_lt (bool_lt p) (place_cons_lt (bool_lt e) (place_cons_lt sr.isLt (place_nil_lt 0) (Nat.le_of_ble_eq_true rfl)) (Nat.le_of_ble_eq_true rfl)) (Nat.le_of_ble_eq_true rfl)) (Nat.le_of_ble_eq_true rfl)) (Nat.le_of_ble_eq_true rfl)
  have hop := opcodeOf_slotWord (g := g) ho hf
  refine ⟨congrArg some (guardOf_slotWord ho hf).symm, _, rfl, decodeSlot_eq ?_⟩
  exact (decodeRaw_G hop (by decide)).trans ((arm_sdraw hop).trans (accept_eq (Bool.and_eq_true_iff.mpr ⟨(holds_slotWord ho hf 3 3 0 (Nat.le_of_ble_eq_true rfl) (place_skip (Nat.le_of_ble_eq_true rfl) (place_skip (Nat.le_of_ble_eq_true rfl) (place_skip (Nat.le_of_ble_eq_true rfl) (place_skip (Nat.le_of_ble_eq_true rfl) (place_zero (place_cons_lt sr.isLt (place_nil_lt 0) (Nat.le_of_ble_eq_true rfl)))))))), (holds_slotWord ho hf 12 4 0 (Nat.le_of_ble_eq_true rfl) (place_skip (Nat.le_of_ble_eq_true rfl) (place_zero (place_cons_lt f.isLt (place_cons_lt (bool_lt p) (place_cons_lt (bool_lt e) (place_cons_lt sr.isLt (place_nil_lt 0) (Nat.le_of_ble_eq_true rfl)) (Nat.le_of_ble_eq_true rfl)) (Nat.le_of_ble_eq_true rfl)) (Nat.le_of_ble_eq_true rfl)))))⟩) (by rw [guardOf_slotWord ho hf, fld_slotWord ho hf 16 4 (Nat.le_of_ble_eq_true rfl) u (place_hit u.isLt (place_cons_lt f.isLt (place_cons_lt (bool_lt p) (place_cons_lt (bool_lt e) (place_cons_lt sr.isLt (place_nil_lt 0) (Nat.le_of_ble_eq_true rfl)) (Nat.le_of_ble_eq_true rfl)) (Nat.le_of_ble_eq_true rfl)) (Nat.le_of_ble_eq_true rfl))), fld_slotWord ho hf 8 4 (Nat.le_of_ble_eq_true rfl) f (place_skip (Nat.le_of_ble_eq_true rfl) (place_hit f.isLt (place_cons_lt (bool_lt p) (place_cons_lt (bool_lt e) (place_cons_lt sr.isLt (place_nil_lt 0) (Nat.le_of_ble_eq_true rfl)) (Nat.le_of_ble_eq_true rfl)) (Nat.le_of_ble_eq_true rfl)))), flag_slotWord ho hf 7 (Nat.le_of_ble_eq_true rfl) p (place_skip (Nat.le_of_ble_eq_true rfl) (place_skip (Nat.le_of_ble_eq_true rfl) (place_hit (bool_lt p) (place_cons_lt (bool_lt e) (place_cons_lt sr.isLt (place_nil_lt 0) (Nat.le_of_ble_eq_true rfl)) (Nat.le_of_ble_eq_true rfl))))), flag_slotWord ho hf 6 (Nat.le_of_ble_eq_true rfl) e (place_skip (Nat.le_of_ble_eq_true rfl) (place_skip (Nat.le_of_ble_eq_true rfl) (place_skip (Nat.le_of_ble_eq_true rfl) (place_hit (bool_lt e) (place_cons_lt sr.isLt (place_nil_lt 0) (Nat.le_of_ble_eq_true rfl)))))), fld_slotWord ho hf 0 3 (Nat.le_of_ble_eq_true rfl) sr (place_skip (Nat.le_of_ble_eq_true rfl) (place_skip (Nat.le_of_ble_eq_true rfl) (place_skip (Nat.le_of_ble_eq_true rfl) (place_skip (Nat.le_of_ble_eq_true rfl) (place_hit sr.isLt (place_nil_lt 0))))))])))

theorem arm_saccept {w : BitVec 32} (hop : opcodeOf w = 0x25) : decodeG w = accept (holds w 3 3 0 && holds w 12 4 0) (.saccept (guardOf w) (fld w 16 4) (fld w 8 4) (flag w 7) (flag w 6) (fld w 0 3)) := by
  unfold decodeG
  simp only [hop]

theorem saccept (g : Guard) (u : BitVec 4) (f : BitVec 4) (p : Bool) (e : Bool) (sr : BitVec 3) : Statement (.saccept g u f p e sr) := by
  intro W hW
  obtain rfl : slotWord g 0x25 (place [(u.toNat, 16), (f.toNat, 8), (p.toNat, 7), (e.toNat, 6), (sr.toNat, 0)]) = W := Option.some.inj hW
  have ho : 0x25 < 2 ^ 7 := Nat.le_of_ble_eq_true rfl
  have hf : place [(u.toNat, 16), (f.toNat, 8), (p.toNat, 7), (e.toNat, 6), (sr.toNat, 0)] < 2 ^ 20 := place_cons_lt u.isLt (place_cons_lt f.isLt (place_cons_lt (bool_lt p) (place_cons_lt (bool_lt e) (place_cons_lt sr.isLt (place_nil_lt 0) (Nat.le_of_ble_eq_true rfl)) (Nat.le_of_ble_eq_true rfl)) (Nat.le_of_ble_eq_true rfl)) (Nat.le_of_ble_eq_true rfl)) (Nat.le_of_ble_eq_true rfl)
  have hop := opcodeOf_slotWord (g := g) ho hf
  refine ⟨congrArg some (guardOf_slotWord ho hf).symm, _, rfl, decodeSlot_eq ?_⟩
  exact (decodeRaw_G hop (by decide)).trans ((arm_saccept hop).trans (accept_eq (Bool.and_eq_true_iff.mpr ⟨(holds_slotWord ho hf 3 3 0 (Nat.le_of_ble_eq_true rfl) (place_skip (Nat.le_of_ble_eq_true rfl) (place_skip (Nat.le_of_ble_eq_true rfl) (place_skip (Nat.le_of_ble_eq_true rfl) (place_skip (Nat.le_of_ble_eq_true rfl) (place_zero (place_cons_lt sr.isLt (place_nil_lt 0) (Nat.le_of_ble_eq_true rfl)))))))), (holds_slotWord ho hf 12 4 0 (Nat.le_of_ble_eq_true rfl) (place_skip (Nat.le_of_ble_eq_true rfl) (place_zero (place_cons_lt f.isLt (place_cons_lt (bool_lt p) (place_cons_lt (bool_lt e) (place_cons_lt sr.isLt (place_nil_lt 0) (Nat.le_of_ble_eq_true rfl)) (Nat.le_of_ble_eq_true rfl)) (Nat.le_of_ble_eq_true rfl)) (Nat.le_of_ble_eq_true rfl)))))⟩) (by rw [guardOf_slotWord ho hf, fld_slotWord ho hf 16 4 (Nat.le_of_ble_eq_true rfl) u (place_hit u.isLt (place_cons_lt f.isLt (place_cons_lt (bool_lt p) (place_cons_lt (bool_lt e) (place_cons_lt sr.isLt (place_nil_lt 0) (Nat.le_of_ble_eq_true rfl)) (Nat.le_of_ble_eq_true rfl)) (Nat.le_of_ble_eq_true rfl)) (Nat.le_of_ble_eq_true rfl))), fld_slotWord ho hf 8 4 (Nat.le_of_ble_eq_true rfl) f (place_skip (Nat.le_of_ble_eq_true rfl) (place_hit f.isLt (place_cons_lt (bool_lt p) (place_cons_lt (bool_lt e) (place_cons_lt sr.isLt (place_nil_lt 0) (Nat.le_of_ble_eq_true rfl)) (Nat.le_of_ble_eq_true rfl)) (Nat.le_of_ble_eq_true rfl)))), flag_slotWord ho hf 7 (Nat.le_of_ble_eq_true rfl) p (place_skip (Nat.le_of_ble_eq_true rfl) (place_skip (Nat.le_of_ble_eq_true rfl) (place_hit (bool_lt p) (place_cons_lt (bool_lt e) (place_cons_lt sr.isLt (place_nil_lt 0) (Nat.le_of_ble_eq_true rfl)) (Nat.le_of_ble_eq_true rfl))))), flag_slotWord ho hf 6 (Nat.le_of_ble_eq_true rfl) e (place_skip (Nat.le_of_ble_eq_true rfl) (place_skip (Nat.le_of_ble_eq_true rfl) (place_skip (Nat.le_of_ble_eq_true rfl) (place_hit (bool_lt e) (place_cons_lt sr.isLt (place_nil_lt 0) (Nat.le_of_ble_eq_true rfl)))))), fld_slotWord ho hf 0 3 (Nat.le_of_ble_eq_true rfl) sr (place_skip (Nat.le_of_ble_eq_true rfl) (place_skip (Nat.le_of_ble_eq_true rfl) (place_skip (Nat.le_of_ble_eq_true rfl) (place_skip (Nat.le_of_ble_eq_true rfl) (place_hit sr.isLt (place_nil_lt 0))))))])))

theorem arm_stok {w : BitVec 32} (hop : opcodeOf w = 0x26) : decodeG w = accept (holds w 3 3 0 && holds w 12 4 0) (.stok (guardOf w) (fld w 16 4) (fld w 8 4) (flag w 7) (flag w 6) (fld w 0 3)) := by
  unfold decodeG
  simp only [hop]

theorem stok (g : Guard) (u : BitVec 4) (f : BitVec 4) (p : Bool) (e : Bool) (sr : BitVec 3) : Statement (.stok g u f p e sr) := by
  intro W hW
  obtain rfl : slotWord g 0x26 (place [(u.toNat, 16), (f.toNat, 8), (p.toNat, 7), (e.toNat, 6), (sr.toNat, 0)]) = W := Option.some.inj hW
  have ho : 0x26 < 2 ^ 7 := Nat.le_of_ble_eq_true rfl
  have hf : place [(u.toNat, 16), (f.toNat, 8), (p.toNat, 7), (e.toNat, 6), (sr.toNat, 0)] < 2 ^ 20 := place_cons_lt u.isLt (place_cons_lt f.isLt (place_cons_lt (bool_lt p) (place_cons_lt (bool_lt e) (place_cons_lt sr.isLt (place_nil_lt 0) (Nat.le_of_ble_eq_true rfl)) (Nat.le_of_ble_eq_true rfl)) (Nat.le_of_ble_eq_true rfl)) (Nat.le_of_ble_eq_true rfl)) (Nat.le_of_ble_eq_true rfl)
  have hop := opcodeOf_slotWord (g := g) ho hf
  refine ⟨congrArg some (guardOf_slotWord ho hf).symm, _, rfl, decodeSlot_eq ?_⟩
  exact (decodeRaw_G hop (by decide)).trans ((arm_stok hop).trans (accept_eq (Bool.and_eq_true_iff.mpr ⟨(holds_slotWord ho hf 3 3 0 (Nat.le_of_ble_eq_true rfl) (place_skip (Nat.le_of_ble_eq_true rfl) (place_skip (Nat.le_of_ble_eq_true rfl) (place_skip (Nat.le_of_ble_eq_true rfl) (place_skip (Nat.le_of_ble_eq_true rfl) (place_zero (place_cons_lt sr.isLt (place_nil_lt 0) (Nat.le_of_ble_eq_true rfl)))))))), (holds_slotWord ho hf 12 4 0 (Nat.le_of_ble_eq_true rfl) (place_skip (Nat.le_of_ble_eq_true rfl) (place_zero (place_cons_lt f.isLt (place_cons_lt (bool_lt p) (place_cons_lt (bool_lt e) (place_cons_lt sr.isLt (place_nil_lt 0) (Nat.le_of_ble_eq_true rfl)) (Nat.le_of_ble_eq_true rfl)) (Nat.le_of_ble_eq_true rfl)) (Nat.le_of_ble_eq_true rfl)))))⟩) (by rw [guardOf_slotWord ho hf, fld_slotWord ho hf 16 4 (Nat.le_of_ble_eq_true rfl) u (place_hit u.isLt (place_cons_lt f.isLt (place_cons_lt (bool_lt p) (place_cons_lt (bool_lt e) (place_cons_lt sr.isLt (place_nil_lt 0) (Nat.le_of_ble_eq_true rfl)) (Nat.le_of_ble_eq_true rfl)) (Nat.le_of_ble_eq_true rfl)) (Nat.le_of_ble_eq_true rfl))), fld_slotWord ho hf 8 4 (Nat.le_of_ble_eq_true rfl) f (place_skip (Nat.le_of_ble_eq_true rfl) (place_hit f.isLt (place_cons_lt (bool_lt p) (place_cons_lt (bool_lt e) (place_cons_lt sr.isLt (place_nil_lt 0) (Nat.le_of_ble_eq_true rfl)) (Nat.le_of_ble_eq_true rfl)) (Nat.le_of_ble_eq_true rfl)))), flag_slotWord ho hf 7 (Nat.le_of_ble_eq_true rfl) p (place_skip (Nat.le_of_ble_eq_true rfl) (place_skip (Nat.le_of_ble_eq_true rfl) (place_hit (bool_lt p) (place_cons_lt (bool_lt e) (place_cons_lt sr.isLt (place_nil_lt 0) (Nat.le_of_ble_eq_true rfl)) (Nat.le_of_ble_eq_true rfl))))), flag_slotWord ho hf 6 (Nat.le_of_ble_eq_true rfl) e (place_skip (Nat.le_of_ble_eq_true rfl) (place_skip (Nat.le_of_ble_eq_true rfl) (place_skip (Nat.le_of_ble_eq_true rfl) (place_hit (bool_lt e) (place_cons_lt sr.isLt (place_nil_lt 0) (Nat.le_of_ble_eq_true rfl)))))), fld_slotWord ho hf 0 3 (Nat.le_of_ble_eq_true rfl) sr (place_skip (Nat.le_of_ble_eq_true rfl) (place_skip (Nat.le_of_ble_eq_true rfl) (place_skip (Nat.le_of_ble_eq_true rfl) (place_skip (Nat.le_of_ble_eq_true rfl) (place_hit sr.isLt (place_nil_lt 0))))))])))

end Sys2Proof.Laws.Encoding
end

