-- ==== Sys2Proof/Tests/Slice0.lean ====
section
/-! SUPPORT. Tests of the model on fixed values, taken from the manual's encodings and worked examples or worked out
by hand from its rules, and the states and operands that meet the premises of the statements. -/
namespace Sys2Proof.Tests
open Sys2Proof.Machine

set_option maxRecDepth 100000
set_option Elab.async false

/-! ## Small states -/

/-- A record of a block in queue 3. -/
def record : Rec := ⟨7, Vector.replicate 8 0, 3, 0, .ready, 0, [], none⟩

/-- A secure block of partition 0 in context 5. -/
def block : Block := ⟨record, [], 0, 5, false, false, false⟩

/-- 64 KiB at 0x2_0000 for data and at 0x1_0000 for code, both mapped to the same memory address with every
permission. -/
def mapping : List XEntry := [⟨0, 5, 0x10000, 0x2FFFF, 0, 0x00F8, false, []⟩]

/-- A core with a block at 0x1_0000, with scalar registers set. -/
def coreWith (l : List (BitVec 6 × W64)) : Core :=
  l.foldl (fun c p => c.setS p.1 (known p.2))
    { Core.reset with blk := some block, pc := 0x10000, ucache := mapping, ord := 1,
                      grp := ⟨0x10000, false, 0x10008, none, 0, .running⟩ }

/-- The machine with core 0 as given, in a resident partition 0. -/
def stateOf (c : Core) : State :=
  { State.reset with cores := [(0, c)], parts := [(0, { Partition.reset with state := .resident, pgran := 1 })] }

/-- The machine with scalar registers of core 0 set. -/
def stateWith (l : List (BitVec 6 × W64)) : State := stateOf (coreWith l)

/-- The core of a state after an instruction, or the reset core where there is no next state. -/
def after (o : Out) : Core :=
  match o with
  | .next t => t.me
  | _ => Core.reset

/-- The state after an instruction. -/
def stateAfter (o : Out) : State :=
  match o with
  | .next t => t
  | _ => State.reset

/-- Whether an outcome is a next state. -/
def answers (o : Out) : Bool :=
  match o with
  | .next _ => true
  | _ => false

/-- The address of byte 0x1000 of core 0's scratchpad, and of byte 0x40 of core 1's. -/
def ownVA : W64 := 0x0100000000001000
def peerVA : W64 := 0x0100002000000040

/-! ## Decoding (R174, R179 to R193) -/

/-- The header words that R12, R173 and R174 write out. -/
theorem test_headers : decodeHeader 0x0AC60800 = ⟨0x0A, true, 2, 3, 1, 0⟩
    ∧ decodeHeader 0x0A281000 = ⟨0x0A, false, 1, 4, 2, 0⟩ ∧ decodeHeader 0x14800000 = ⟨0x14, true, 0, 0, 0, 0⟩ := by
  decide

theorem test_decode_a : decodeSlot .A 0x0010C108 = .ok (.add .A always 3 1 2 false) := rfl
theorem test_decode_b : decodeSlot .B 0x05614486 = .ok (.aadd4 always 5 4 2 6) := rfl
theorem test_decode_c : decodeSlot .C 0x01000000 = .ok (.uiretSkip always) := rfl
theorem test_decode_v : decodeSlot .V 0x0228CA81 = .ok (.vfmul always 17 18 20 0 0 true) := rfl
theorem test_decode_m : decodeSlot .M 0x00541295 = .ok (.mmaS always 4 1 2 0x95) := rfl
theorem test_decode_f : decodeSlot .F 0x00302411 = .ok (.fwstepDeltaPost always 0 2 4 1) := rfl
theorem test_decode_x : decodeSlot .X 0x00122980 = .ok (.xld always 2 1 4 true true false) := rfl
theorem test_decode_g : decodeSlot .G 0x01831464 = .ok (.galloc always 3 5 6 4) := rfl
theorem test_decode_table_word : decodeTableWord 32 0x0010C108 = some (.add .A always 3 1 2 false) := rfl

/-- A word whose opcode no table assigns is refused: opcode 0 in every slot (R192). -/
theorem test_decode_refuses : (decodeSlot .A 0).toOption = none ∧ (decodeSlot .X 0).toOption = none := ⟨rfl, rfl⟩

/-! ## Ill-formed instructions (R189, R438): one for each check -/

theorem test_dest_refused : (Instr.movi .A always 48 1).wellFormed = false ∧ (Instr.movi .A always 47 1).wellFormed = true := by
  decide
theorem test_pair_refused : (Instr.pnot .A always 11 0 0).wellFormed = false ∧ (Instr.pnot .A always 3 3 0).wellFormed = false
    ∧ (Instr.pnot .A always 0 0 0).wellFormed = true := by decide
theorem test_latch_refused : (Instr.add .A always 1 1 2 true).wellFormed = false
    ∧ (Instr.add .A always 0 1 2 true).wellFormed = true := by decide
theorem test_tested_predicate_refused : (Instr.brt always 0 11 0 0 0 0).wellFormed = false
    ∧ (Instr.brt always 0 10 0 0 0 0).wellFormed = true := by decide
theorem test_flag_refused : (Instr.xpre always 0 3 false false false).wellFormed = false
    ∧ (Instr.xpre always 0 3 false true false).wellFormed = true := by decide
theorem test_csr_refused : (Instr.rdsr always 1 0x00F).wellFormed = false
    ∧ (Instr.rdsr always 1 0x00E).wellFormed = true := by decide
theorem test_vcvt_target_refused : (Instr.vcvt always 1 2 15 0 false false).wellFormed = false
    ∧ (Instr.vcvt always 1 2 17 0 false false).wellFormed = true := by decide
theorem test_mx_code_refused : (Instr.vmxpack always 1 2 7 0).wellFormed = false
    ∧ (Instr.vmxpack always 1 2 6 0).wellFormed = true := by decide
theorem test_mcvt_refused : (Instr.mcvt always 1 2 true 12 0 false).wellFormed = false
    ∧ (Instr.mcvt always 1 2 true 9 0 false).wellFormed = true := by decide

/-! ## Fetch and step -/

/-- From reset with a word placed, the next step runs it (R173). -/
theorem test_step_runs_placed_word : ∃ t, step (State.reset.withFetchWord 32 0x02C1FFFD) = .next t := ⟨_, rfl⟩
theorem test_step_runs_sampling_word : ∃ t, step (State.reset.withFetchWord 32 0x02000000) = .next t := ⟨_, rfl⟩
theorem test_staging_destinations_refused : (Instr.xset always 32 1).wellFormed = false
    ∧ (Instr.hset always 16 1).wellFormed = false ∧ (Instr.btsetRegister always 8 1).wellFormed = false
    ∧ (Instr.cfset always 16 1).wellFormed = false ∧ (Instr.xset always 31 1).wellFormed = true := by decide
theorem test_scope_refused : (Instr.fence always 8).wellFormed = false ∧ (Instr.fence always 7).wellFormed = true := by
  decide
theorem test_matrix_fields_refused : (Instr.mtr always 1 2 3).wellFormed = false
    ∧ (Instr.fwfork always 3 1 13).wellFormed = false ∧ (Instr.fwfork always 3 1 12).wellFormed = true := by decide
theorem test_xwait_refused : (Instr.xwait always 1 3 false).wellFormed = false
    ∧ (Instr.xwait always 1 0 true).wellFormed = false ∧ (Instr.xwait always 1 1 true).wellFormed = true := by decide
theorem test_gfree_refused : (Instr.gfree always 1 1 11).wellFormed = false
    ∧ (Instr.galloc always 1 48 1 0).wellFormed = false ∧ (Instr.galloc always 1 47 1 10).wellFormed = true := by decide

/-! ## Premises of the statements: scalar operations, traps and control -/

/-- A core with operands 5 and 0 in `s1` and `s2`. -/
def scalars : State := stateWith [(1, 5), (2, 0)]

/-- DecodeReadsEncode. -/
theorem test_encode_premise : (Instr.add .A always 3 1 2 false).encode = some 0x0010C108
    ∧ (Instr.add .A always 3 1 2 false).wellFormed = true := ⟨rfl, rfl⟩
/-- WordsDecode: opcode 0 lies below the first that slot A assigns, 0x1B between two runs. -/
theorem test_unassigned_premise : opcodeOf 0 ∉ assigned .A ∧ opcodeOf 0x01B00000 ∉ assigned .A
    ∧ opcodeOf 0x00100000 ∈ assigned .A := by decide
/-- TwoSourceResult and OneSourceResult: a divisor of 0 and a destination `s47`. -/
theorem test_two_source_premise : scalars.me.guarded always = true ∧ scalars.reads 1 5 ∧ scalars.reads 2 0
    ∧ scalars.definable .A 47 := ⟨rfl, rfl, rfl, rfl, rfl⟩
theorem test_one_source_premise : scalars.reads 2 0 ∧ scalars.definable .B 0
    ∧ scalars.definable .B ((15 : BitVec 4).zeroExtend 6) := ⟨rfl, ⟨rfl, rfl⟩, rfl, rfl⟩
/-- FalseGuardHasNoEffect: `p0` inverted. -/
theorem test_false_guard_premise : (Instr.add .A ⟨0, true⟩ 3 1 2 false).guard? = some ⟨0, true⟩
    ∧ scalars.me.guarded ⟨0, true⟩ = false := ⟨rfl, rfl⟩

/-- A core whose `s1` is poisoned. -/
def poisoned : State := stateOf { coreWith [(2, 1)] with r := { (coreWith [(2, 1)]).r with
  s := (coreWith [(2, 1)]).r.s.set 1 ⟨5, true, none⟩ } }

/-- RaisedCauses. -/
theorem test_poison_premise : poisoned.me.guarded always = true ∧ available poisoned 1 = true ∧ available poisoned 2 = true
    ∧ poisoned.definable .A 3 ∧ (Instr.add .A always 3 1 2 false).encode = some 0x0010C108
    ∧ (source poisoned 1).poison = true := ⟨rfl, rfl, rfl, ⟨rfl, rfl⟩, rfl, rfl⟩
theorem test_poison_forms : poisoned.definable .B 3 ∧ available poisoned 3 = true ∧ (source poisoned 2).poison = false
    ∧ (∀ p ∈ oneSource, (p.1 .A always 3 1 false).encode.isSome = true)
    ∧ (∀ p ∈ withImmediate, (p.1 .B always 3 1 0x80).encode.isSome = true)
    ∧ (∀ p ∈ compares, (p.1 .A always 1 2 1 2).encode.isSome = true)
    ∧ (∀ p ∈ loads, (p.1 always 3 1 0xFF).encode.isSome = true) ∧ (∀ p ∈ stores, (p.1 always 3 1 0).encode.isSome = true)
    ∧ ∀ p ∈ atomics, (p.1 always 3 1 0 2).encode.isSome = true ∧ (p.1 always 3 2 3 1).encode.isSome = true := by
  refine ⟨⟨rfl, rfl⟩, rfl, rfl, ?_⟩
  decide +kernel
theorem test_trap_premise : (Instr.trap always 255).encode = some 0x00E000FF := rfl
theorem test_privilege_premise : scalars.me.kernel = false ∧ (Instr.eret always).slot? = some .C
    ∧ (Instr.eret always).encode = some 0x01100000 ∧ (Instr.rdsr always 1 0x100).slot? = some .A
    ∧ (Instr.rdsr always 1 0x100).encode = some 0x04604100 := ⟨rfl, rfl, rfl, rfl, rfl⟩
theorem test_uiret_premise : scalars.me.handler = false ∧ (Instr.uiretSkip always).encode = some 0x01000000 := ⟨rfl, rfl⟩

/-- A user cause, TRAP_INSTR with code 3, and a kernel cause, the least code of its class. -/
def trapInstr : Cause := ⟨0x01, false, 0, false, 0x0E, 0, 0, 3, 0⟩
def illegalHeader : Cause := ⟨0x20, false, 0, false, 0, 0, 0, 0, 0⟩
/-- A core with a user handler at 0x5_0000. -/
def withHandler : Core := { coreWith [(40, 9)] with r := { (coreWith [(40, 9)]).r with uivec := 0x50001 } }

/-- UserHandlerEntry and SystemHandlerEntry. -/
theorem test_user_entry_premise : (((stateOf withHandler).core 0).kernel = false)
    ∧ ((stateOf withHandler).core 0).blk = some block ∧ block.squashed = false ∧ trapInstr.code.toNat < 0x20
    ∧ ((stateOf withHandler).core 0).handler = false ∧ bit ((stateOf withHandler).core 0).r.uivec 0 = true := by
  decide
theorem test_system_entry_premise : (scalars.core 0).kernel = false ∧ (scalars.core 0).blk = some block
    ∧ 0x20 ≤ illegalHeader.code.toNat ∧ bit (scalars.core 0).r.uivec 0 = false
    ∧ ((stateOf { withHandler with handler := true }).core 0).handler = true := by decide
theorem test_kernel_stop_premise : ((stateOf { withHandler with kernel := true }).core 0).kernel = true := rfl
/-- HandlerReturn. -/
theorem test_uiret_return_premise : (stateOf { withHandler with handler := true }).me.guarded always = true
    ∧ (stateOf { withHandler with handler := true }).me.handler = true
    ∧ (stateOf { withHandler with handler := true }).me.kernel = false := ⟨rfl, rfl, rfl⟩
theorem test_eret_premise : (stateOf { withHandler with kernel := true }).me.kernel = true
    ∧ (stateOf { withHandler with kernel := true }).me.r.s[47].pend = none := ⟨rfl, rfl⟩

/-- A jump table of two entries at 0x1_0100, the second with offset -4, an index in `s1` and a table at 0x1_0200
with bits above its count set. -/
def jumps (i : W64) : State := { stateWith [(1, i)] with
  mem := Memory.writes [] 0x10100 ([2, 0, 0, 0, 8, 0, 0, 0, 0xFC, 0xFF, 0xFF, 0xFF])
    |> fun m => Memory.writes m 0x10200 [0, 0, 0, 1] }
/-- BranchTargets. -/
theorem test_jump_table_premise : (jumps 1).reads 1 1 ∧ (Instr.jt always 1 0x40).encode = some 0x00704040
    ∧ fetchWord (jumps 1) (causeAt (jumps 1) ⟨.C, 0x00704040⟩) 0x10100 = .ok 2
    ∧ fetchWord (jumps 1) (causeAt (jumps 1) ⟨.C, 0x00704040⟩) 0x10108 = .ok 0xFFFFFFFC :=
  ⟨rfl, rfl, rfl, rfl⟩
theorem test_jump_table_poison_premise : badCode (jumps 1) 0x10100 = false ∧ badCode (jumps 1) 0x10108 = false
    ∧ badCode { jumps 1 with beats := [0x404] } 0x10100 = true := by decide +kernel
theorem test_jump_table_range_premise : (jumps 2).reads 1 2 ∧ (2 : BitVec 32).toNat ≤ (2 : W64).toNat
    ∧ fetchWord (jumps 2) (causeAt (jumps 2) ⟨.C, 0x00704080⟩) 0x10200 = .ok 0x01000000 := ⟨rfl, by decide, rfl⟩
theorem test_call_premise : scalars.reads 1 5 ∧ writable scalars 47 = true ∧ scalars.reads 47 0 := ⟨rfl, rfl, rfl⟩
theorem test_tree_premise : scalars.me.guarded always = true ∧ (10 : BitVec 4).toNat < 11 := ⟨rfl, by decide⟩
/-- StagingResult: handle register 15 is free. -/
theorem test_staging_premise : scalars.me.guarded always = true ∧ scalars.reads 1 5
    ∧ scalars.me.canWrite (.handle 15) = true := ⟨rfl, rfl, rfl⟩
/-- ControlReads and ControlWrites: at kernel privilege for CLIM and CTXTAB. -/
theorem test_control_premise : scalars.definable .A 3 ∧ csrReady scalars 3 = true
    ∧ (stateOf { withHandler with kernel := true }).me.kernel = true
    ∧ csrReady (stateOf { withHandler with kernel := true }) 0x20 = true := ⟨⟨rfl, rfl⟩, rfl, rfl, rfl⟩

/-! ## Premises of the statements: loads, stores, atomics and synchronisation -/

/-- The offset in the core's own scratchpad at which a word's access of n bytes aims. -/
noncomputable def ownAt (s : State) (i : Instr) (va : W64) (n : Nat) (need : Need) (aligned : Bool) : Option Nat :=
  match aim s ⟨.B, (i.encode).getD 0⟩ va n need aligned with
  | .ok a => a.own s.here
  | _ => none
/-- The one target outside the core's own scratchpad at which a word's access aims, its page at hand. -/
noncomputable def otherAt (s : State) (i : Instr) (va : W64) (n : Nat) (need : Need) : Option Target :=
  match aim s ⟨.B, (i.encode).getD 0⟩ va n need false with
  | .ok a => if (a.own s.here).isNone && (match placePages ⟨.B, (i.encode).getD 0⟩ va a.attr (need != .load) s a.targets with
      | .ok _ => true
      | _ => false) then a.targets.head? else none
  | _ => none

/-- A core with an own scratchpad address in `s1`, an address of core 1 in `s2`, a memory address in `s5`, and
operands in `s3` and `s4`. -/
def locals : State := stateWith [(1, ownVA), (2, peerVA), (5, 0x20040), (3, 7), (4, 9)]

/-- OwnScratchpad: the last word of the scratchpad, and an unaligned access that is split. -/
theorem test_own_scratchpad_premise : isCore scalars.here = true ∧ scalars.member 0 0 = true
    ∧ (scalars.worldOf scalars.here && scalars.secureCluster (clusterOf scalars.here)) = false
    ∧ bit scalars.me.view.mactl 0 = false
    ∧ ownAt scalars (.ld always 3 1 0) (BitVec.ofNat 64 (windowVA 0 0xBFFF8)) 8 .load false = some 0xBFFF8
    ∧ ownAt scalars (.ld always 3 1 0) (BitVec.ofNat 64 (windowVA 0 0xBFFF1)) 8 .load false = some 0xBFFF1 := by
  decide +kernel
/-- LocalLoadsAndStores: every form, at offset -1. -/
theorem test_local_load_premise : ∀ p ∈ loads, (p.1 always 3 1 0xFF).encode.isSome = true
    ∧ ownAt locals (p.1 always 3 1 0xFF) (addressOf ownVA 0xFF p.2.1) p.2.1 .load false = some (0x1000 - p.2.1)
    ∧ locals.localReady none false (0x1000 - p.2.1) p.2.1 = true := by decide +kernel
theorem test_local_store_premise : ∀ p ∈ stores, (p.1 always 3 1 0x7F).encode.isSome = true
    ∧ ownAt locals (p.1 always 3 1 0x7F) (addressOf ownVA 0x7F p.2.1) p.2.1 .store false = some (0x1000 + 127 * p.2.1)
    ∧ locals.localReady (if p.2.2 then some 5 else none) true (0x1000 + 127 * p.2.1) p.2.1 = true ∧ available locals 3 = true := by decide +kernel
/-- RemoteLoadsAndStores: the scratchpad of core 1, and memory. -/
theorem test_remote_load_premise : ∀ p ∈ loads,
    otherAt locals (p.1 always 3 2 0) (addressOf peerVA 0 p.2.1) p.2.1 .load = some (.spad 1 0x40)
    ∧ otherAt locals (p.1 always 3 5 1) (addressOf 0x20040 1 p.2.1) p.2.1 .load = some (.mem (0x20040 + p.2.1)) := by
  decide +kernel
theorem test_remote_store_premise : ∀ p ∈ stores,
    otherAt locals (p.1 always 3 2 0) (addressOf peerVA 0 p.2.1) p.2.1 .store = some (.spad 1 0x40)
    ∧ otherAt locals (p.1 always 3 5 1) (addressOf 0x20040 1 p.2.1) p.2.1 .store = some (.mem (0x20040 + p.2.1))
    ∧ locals.mayWrite (addressOf peerVA 0 p.2.1) p.2.1 = true := by decide +kernel

/-- An access of core 0 to a word of core 1 that is full, of some kind and in some phase. -/
def flying (kind : AccKind) (ph : Phase) (out held : Bool) : Acc :=
  { newAcc (stateWith []) kind ⟨[.spad 1 0x40], 0, false, peerVA⟩ 8 9 0 false false false with
    id := 4, phase := ph, out := out, held := held }
/-- A machine in which it is in flight, at a time, its core having reached WAITLIM. -/
def inFlight (a : Acc) (now : BitVec 48) : State :=
  { stateOf { coreWith [] with limit := true } with accs := [a], now := now }
/-- RemoteLoadsAndStores: replies that fill a register or answer a group, a request that leaves and one that a release
holds, and 50 µs. -/
theorem test_reply_premise : ∀ held ∈ [true, false], let a := flying .load (.done 7 true 0) true held
    ((inFlight a 0).accs.find? fun x => x.id == 4) = some a ∧ a.host = false ∧ (inFlight a 0).inImage a.part a.core = false
    ∧ (inFlight a 0).noPath a = false ∧ a.held = held := by decide +kernel
theorem test_send_out_premise : let a := flying .load .sent false false
    let b := { flying .store .sent false false with rel := true, ord := 2 }
    (inFlight a 0).sendOut a ≠ none
    ∧ { inFlight b 0 with accs := [{ a with id := 3, ord := 1 }, b] }.sendOut b = none := by decide +kernel
theorem test_timeout_premise : ∀ kind ∈ [AccKind.load, .store], let a := flying kind .sent true false
    (inFlight a 49999).passed a.since < 50000 ∧ 50000 ≤ (inFlight a 50000).passed a.since ∧ a.seen = 0 ∧ a.cmd = none
    ∧ ((inFlight a 50000).core a.core).pendK.length < 16 := by decide +kernel
/-- FullEmptyWords: withdrawals of a load that waits, or has been served in the meantime, and of a store whose word is
full; an access that the waiter table returned. -/
theorem test_withdraw_premise : ∀ ph ∈ [Phase.sent, .parked, .retry], ∀ op ∈ [(0x4E : BitVec 7), 0x50],
    let a := flying (.fullEmpty op) ph true true
    ((inFlight a 0).accs.find? fun x => x.id == 4 && x.held) = some a ∧ ((inFlight a 0).coreOf a.part a.core).limit = true
    ∧ ((inFlight a 0).bankWord a.part 1 8).full = true ∧ (inFlight a 0).servedFirst a.part 1 0x40 [a] 4 = false
    ∧ (inFlight a 0).parkedBefore a = []
    ∧ (((inFlight a 0).accs.find? fun x => x.id == 4 && x.phase == Phase.retry) = some a ↔ ph = .retry) := by
  decide +kernel

/-- FullEmptyWords: the word at 0x1000 full, as reset leaves it, or empty; the limit reached or not. -/
def words (full limit : Bool) : State := { locals with
  cores := [(0, { locals.me with r := locals.me.r.setWord 0x200 ⟨5, full, false⟩, limit := limit })] }
theorem test_full_empty_premise : ∀ b ∈ [true, false], ∀ l ∈ [true, false],
    (∀ p ∈ fullLoads, (p.1 always 3 1 0).encode.isSome = true ∧ (words b l).localReady none p.2.2 0x1000 8 = true)
    ∧ (∀ p ∈ fullStores, (p.1 always 3 1 0).encode.isSome = true ∧ (words b l).localReady (releaseOf p.2.1) true 0x1000 8 = true)
    ∧ ((words b l).me.view.word 0x200).full = b ∧ (words b l).me.limit = l := by decide +kernel
theorem test_full_empty_address : aimWord (words true false) ⟨.B, 0x04C0C100⟩ (addressOf ownVA 0 8) 8 = .ok (0, 0x1000, false)
    ∧ (Instr.ldf always 3 1 0).encode = some 0x04C0C100 := ⟨rfl, rfl⟩

/-- LocalAtomics: every atomic, on a word that is poisoned and on one that is not. -/
def atomicWord (bad : Bool) : State := { locals with
  cores := [(0, { locals.me with r := locals.me.r.setWord 0x200 ⟨0x500000003, true, bad⟩ })] }
theorem test_local_atomic_premise : ∀ p ∈ atomics, (p.1 always 3 1 0 4).encode.isSome = true
    ∧ ownAt locals (p.1 always 3 1 0 4) ownVA p.2.1 .both true = some 0x1000
    ∧ locals.localReady none true 0x1000 p.2.1 = true ∧ locals.localReady (some 5) true 0x1000 p.2.1 = true := by decide +kernel
theorem test_atomic_word_premise : ∀ b ∈ [true, false], ((atomicWord b).me.view.word 0x200).poison = b := by decide +kernel
/-- Chunk. -/
theorem test_chunk_premise : (Instr.chunk always 3 1 0).encode.isSome = true
    ∧ ownAt locals (.chunk always 3 1 0) ownVA 16 .both true = some 0x1000
    ∧ locals.localReady none true 0x1000 16 = true := by decide +kernel
/-- RemoteAtomics: the scratchpad of core 1, and memory; `fpoll` of a future of core 1 and of one of its own. -/
theorem test_remote_atomic_premise : ∀ p ∈ atomics,
    otherAt locals (p.1 always 3 2 0 4) peerVA p.2.1 .both = some (.spad 1 0x40)
    ∧ otherAt locals (p.1 always 3 5 0 4) 0x20040 p.2.1 .both = some (.mem 0x20040)
    ∧ locals.mayWrite 0x20040 p.2.1 = true := by decide +kernel
theorem test_remote_chunk_premise : otherAt locals (.chunk always 3 2 0) peerVA 16 .both = some (.spad 1 0x40)
    ∧ otherAt locals (.chunk always 3 5 0) 0x20040 16 .both = some (.mem 0x20040) := by decide +kernel
theorem test_poll_premise : (Instr.fpoll always 3 2 false).encode = some 0x07B0C200
    ∧ aimWord locals ⟨.B, 0x07B0C200⟩ peerVA 16 = .ok (1, 0x40, false)
    ∧ aimWord locals ⟨.B, 0x07B0C200⟩ ownVA 16 = .ok (0, 0x1000, false)
    ∧ locals.localReady none false 0x1000 16 = true := ⟨rfl, rfl, rfl, rfl⟩

/-- A store of group 0 of the core that has not performed, and one to host memory. -/
def earlier (ma : Nat) : Acc :=
  { newAcc (stateWith []) .store ⟨[.mem ma], 0xF8, false, 0⟩ 8 1 0 false false false with ord := 0 }
/-- A post of group 0 of the core to its own flag 15, with a status, at cluster scope. -/
def post : Post := ⟨9, 0, 0, 15, 0xFFFF, 3, 0, 0, 2⟩
/-- FencesAndInvalidation: `fence`, a `drain` that waits for a store or a post, and one that does not wait, though a write
of host memory is to perform; `xinv` of one translation. -/
theorem test_fence_premise : scalars.accs = [] ∧ scalars.me.xq = [] ∧ scalars.posts = []
    ∧ (earlier 0x20000).core = 0 ∧ (earlier 0x20000).part = scalars.partOf 0 ∧ (earlier 0x20000).ord < scalars.me.ord
    ∧ regionOf 0x20000 ≠ .host ∧ regionOf 0x200000000000 = .host ∧ (earlier 0x200000000000).kind = .store
    ∧ (5 : BitVec 14).toNat < 6 ∧ (7 : BitVec 14).toNat < 8 ∧ post.src = 0 ∧ post.part = scalars.partOf 0
    ∧ post.ord < scalars.me.ord := by decide +kernel
/-- The core at kernel privilege, with its translation cached; `xinv` of all translations and code, and of a range of
one granule. -/
def invalidator (x y : W64) : State := stateOf { coreWith [(1, x), (2, y)] with kernel := true }
theorem test_xinv_premise : ∀ n ∈ [0x105, 0x100000021], let x := BitVec.ofNat 64 n
    (invalidator x 0x20000).me.kernel = true
    ∧ source (invalidator x 0x20000) 1 = known x ∧ field x 28 4 = 0 ∧ field x 9 7 = 0 ∧ field x 6 2 = 0 ∧ field x 3 1 = 0
    ∧ 1 ≤ field x 0 3 ∧ field x 0 3 ≤ 5 ∧ (field x 4 2 ≠ 2 ∨ field x 32 32 ≠ 0)
    ∧ (invalidator x 0x20000).allCount 0 0 1 (field x 0 3) = true ∧ (invalidator x 0x20000).accs = []
    ∧ (invalidator x 0x20000).me.xq = [] := by decide +kernel

/-- A core that awaits an answer in a slot: the value 1, or none yet. -/
def awaiting (l : List (BitVec 6 × W64)) (sl : Slot) (answer : Option (W64 × Bool × Bool)) : State :=
  stateOf { coreWith l with awaits := [⟨5, sl, 0x10000, false, false, [], answer⟩] }
/-- BarrierOperations: barrier 31 of core 1 with 2 participants. -/
def barrier : W64 := 0x200002F800
theorem test_barrier_premise : field barrier 56 8 = 0 ∧ field barrier 32 4 = 0 ∧ field barrier 3 8 = 0
    ∧ coreNamed barrier = some 1 ∧ field barrier 11 5 = 31 ∧ field barrier 16 16 = 2 ∧ scalars.member 0 0 = true
    ∧ (stateWith [(1, barrier)]).me.awaiting .B = none
    ∧ ((awaiting [(1, barrier)] .B (some (1, false, false))).me.awaiting .B).map (·.answer) = some (some (1, false, false))
    ∧ ((awaiting [(1, barrier)] .B (some (0, false, true))).me.awaiting .B).map (·.answer) = some (some (0, false, true))
    ∧ (Instr.barArr always 3 1 false).encode.isSome = true ∧ (Instr.barSync always 1).encode.isSome = true := by decide +kernel

/-- FlagsAndFutures: a flag of core 1 with its number in bits [35:32], and a future in the core's own scratchpad and
in core 1's, with answers. -/
theorem test_flag_premise : field 0x2F00000000 56 8 = 0 ∧ field 0x2F00000000 3 29 = 0 ∧ coreNamed 0x2F00000000 = some 1
    ∧ scalars.speculative = none ∧ writable scalars 47 = true ∧ latchFree scalars .B = true := by decide +kernel
/-- The post on its way to its flag, whose status is n. -/
def posted (n : Nat) : State :=
  { stateOf { coreWith [] with r := { Arch.reset with cfstat := BitVec.ofNat 64 (n * 2 ^ 60) } } with posts := [post] }
/-- FlagsAndFutures: the post of a group with nothing before it arrives at a flag with a status or without; no path is left
to a core of another die when the links of die 0 have failed. -/
theorem test_post_premise : ∀ n ∈ [0, 15], let s := posted n
    (s.posts.find? fun y => y.id == 9) = some post ∧ s.inOrder post.part post.src post.ord = true
    ∧ s.performedBefore post.part post.src post.ord post.scope = true ∧ s.inImage post.part post.core = false
    ∧ field (s.core post.core).r.cfstat (4 * 15) 4 = n
    ∧ s.pathTo post.src (.spad post.core 0) = true
    ∧ ({ s with fabric := [(0, { Fabric.reset with failed := 7 })] } : State).pathTo 0 (.spad 512 0) = false := by decide +kernel
theorem test_future_premise : ∀ n ∈ [0x0100000000001000, 0x0100002000000040], ∀ i ∈ [Instr.fres always 1 4, .fjoin always 3 1 2 false],
    (match aimWord locals ⟨.B, i.encode.getD 0⟩ (BitVec.ofNat 64 n) 16 with
      | .ok p => decide (p.1 ≠ 0) || locals.me.localFree true p.2.1 16
      | _ => false) = true := by decide +kernel
theorem test_answer_premise : ∀ bad ∈ [true, false],
    ((awaiting [(1, ownVA)] .B (some (3, false, bad))).me.awaiting .B).map (·.answer) = some (some (3, false, bad)) := by
  decide +kernel

/-! ## Premises of the statements: slots V, M and F -/

/-- A core with VCFG of R rows, C columns, a type and a rounding mode, and vectors in `v1` and `v2`. -/
def vectors (r c ty rm x y : Nat) : State := stateOf { coreWith [(1, 3), (2, 9)] with
  r := { (coreWith [(1, 3), (2, 9)]).r with
    vcfg := BitVec.ofNat 64 (ty + 16 * c + 2 ^ 17 * r + 2 ^ 35 * rm)
    v := ((coreWith []).r.v.set 1 ⟨BitVec.ofNat 32768 x, 0⟩).set 2 ⟨BitVec.ofNat 32768 y, 0⟩ } }

/-- The vectors in `v1` and `v2` are free and hold no poison at any active position, and so is `v3`. -/
def cleanVectors (s : State) : Bool :=
  let sh := s.me.shape
  [(1 : BitVec 5), 2, 3].all fun v => s.me.canRead (.vec v.toNat) && s.me.canWrite (.vec v.toNat)
    && (sh.active false).all fun i => !(readVec s sh.eb (v, 1)).bad (sh.eb * i) sh.eb

/-- VectorLanes, MaskResults, VectorReductions and VectorMovement: one FP32 row of two, a full register of bytes in
16 rows, and the most columns. -/
theorem test_vector_premise : ∀ p ∈ [(1, 2, 10), (2, 3, 4), (1, 5, 6)],
    let s := vectors p.1 p.2.1 p.2.2 0 0x3F8000003F800000 5
    cleanVectors s = true ∧ 1 ≤ s.me.shape.rows ∧ 1 ≤ s.me.shape.cols ∧ s.me.shape.type = p.2.2
      ∧ s.me.shape.n * s.me.shape.eb ≤ 4096 := by decide +kernel
theorem test_legal_premise : (vectors 1 2 10 0 0 0).me.shape.legal 8 11 ∧ (vectors 2 3 4 0 0 0).me.shape.legal 0 7
    ∧ (vectors 64 64 0 0 0 0).me.shape.legal 0 14 := by
  unfold Shape.legal; decide +kernel
theorem test_vector_move_premise : source (vectors 1 2 10 0 0 0) 1 = known 3 ∧ writable (vectors 1 2 10 0 0 0) 47 = true
    ∧ (vectors 1 2 10 0 0 0).me.shape.n ≤ (3 : W64).toNat ∧ (3 : W64).toNat < (vectors 2 3 4 0 0 0).me.shape.n := by
  decide +kernel
/-- VectorConversions: FP32 to BF16 under stochastic rounding, and blocks of 32. -/
theorem test_convert_premise : (vectors 1 2 10 5 0 0).me.shape.legal 0 14 ∧ (vectors 1 2 10 5 0 0).me.shape.rm = 5
    ∧ isStochastic 10 8 = true ∧ ((vectors 1 2 10 5 0 0).me.shape.n * targetBits 8 + 7) / 8 ≤ 4096 := by
  unfold Shape.legal; decide +kernel
theorem test_block_premise : (vectors 2 32 10 5 0 0).me.shape.legal 8 10 ∧ (vectors 2 32 10 5 0 0).me.shape.n % 32 = 0
    ∧ cleanVectors (vectors 2 32 10 5 0 0) = true := by
  unfold Shape.legal; decide +kernel
/-- LongAccumulators. -/
theorem test_long_premise : (vectors 1 2 11 0 0 0).me.shape.legal 11 11 ∧ cleanVectors (vectors 1 2 11 0 0 0) = true
    ∧ (List.range 537).all (fun i => !((vectors 1 2 11 0 0 0).me.vec 1).bad i 1) = true := by
  unfold Shape.legal; decide +kernel

/-- A stream of rows of 64 bytes in a tile, of a format: all dense, or one that breaks no rule. -/
def stream (tile fmt : Nat) : BitVec 256 :=
  BitVec.ofNat 256 (tile * 2 ^ 56 + (fmt * 2 ^ 59 + 64 * 2 ^ 32 + 64 * 2 ^ 16) * 2 ^ 64)
/-- The same, 2:4 sparse, with 16 bytes of metadata a row. -/
def sparseStream (tile fmt : Nat) : BitVec 256 :=
  BitVec.ofNat 256 (tile * 2 ^ 56 + (fmt * 2 ^ 59 + 2 ^ 57 + 64 * 2 ^ 32 + 64 * 2 ^ 16 + 64) * 2 ^ 64)

/-- A core with two streams in `q1` and `q2` over tiles of small numbers. -/
def productState (a b : BitVec 256) : State := stateOf { coreWith [] with
  r := { (coreWith []).r with
    q := ((coreWith []).r.q.set 1 a).set 2 b
    t := (((coreWith []).r.t.set 1 ⟨BitVec.ofNat 131072 0x3F80408000003F80, 0⟩).set 2
      ⟨BitVec.ofNat 131072 0x40004040BF803F80, 0⟩).set 4 ⟨BitVec.ofNat 131072 0x3F800000, 0⟩ } }

/-- The premises that a product asks of its streams and storage. -/
def productReady (s : State) (ra rb : List Nat) : Bool :=
  let qa := getReg s.me.view.q 1 0
  let qb := getReg s.me.view.q 2 0
  let x := streamOf qa
  let y := streamOf qb
  !badStream qa && !badStream qb && !x.sparse && s.me.canAccumulate 4 && !s.me.narrowPending
    && (x.uses s.me ra 0 ++ y.uses s.me rb 0).all (fun r => s.me.canRead r)
    && x.free s.me ra 0 && y.free s.me rb 0 && !x.outside s.me ra 0 && !y.outside s.me rb 0
/-- MatrixProducts: the BF16 path, the INT8 path, the sparse form, and the narrow path in FP8 and FP4. -/
theorem test_product_premise :
    productReady (productState (stream 1 8) (stream 2 8)) rows64 rows64 = true
    ∧ pathOf (streamOf (stream 1 8)) (streamOf (stream 2 8)) = some .fp
    ∧ productReady (productState (stream 1 0) (stream 2 1)) rows64 rows64 = true
    ∧ pathOf (streamOf (stream 1 0)) (streamOf (stream 2 1)) = some .int
    ∧ productReady (productState (stream 1 8) (sparseStream 2 8)) rows64 rows64 = true
    ∧ (streamOf (sparseStream 2 8)).sparse = true := by decide +kernel
theorem test_narrow_premise :
    productReady (productState (stream 1 12) (stream 2 12)) ((List.range 16).map (· + 48)) ((List.range 16).map (· + 48)) = true
    ∧ pathOf (streamOf (stream 1 12)) (streamOf (stream 2 12)) = some .narrow
    ∧ productReady (productState (stream 1 14) (stream 2 14)) ((List.range 16).map (· + 48)) ((List.range 32).map (· + 32)) = true
    ∧ pathOf (streamOf (stream 1 14)) (streamOf (stream 2 14)) = some .narrow := by decide +kernel

/-- A sum of the last sub-block of `t4`, and one that falls due with it. -/
def lastSum : PartialSum :=
  { pos := 1, tile := 4, row := 48, col := 48, width := 16, sums := List.replicate 256 (.fin false 3 0),
    sa := List.replicate 16 none, sb := List.replicate 16 (some 128), flags := 0, poison := [] }
def summing (port : Option PartialSum) : State := stateOf { coreWith [] with port := port, issue := 7 }
/-- PartialSums: the port empty, and with the last sub-block. -/
theorem test_sum_premise : (summing none).me.mq = [] ∧ (summing none).me.arriveSums.port = none
    ∧ (summing (some lastSum)).me.arriveSums.port = some lastSum ∧ lastSum.width = 16 ∧ lastSum.row + 16 ≤ 64
    ∧ lastSum.col + lastSum.width ≤ 64 ∧ lastSum.sums.length = 16 * lastSum.width := by decide +kernel
/-- TileOperations: a source that holds no poison, and one that does. -/
theorem test_tile_premise : let s := productState 0 0
    (s.me.tile 1).poison = 0 ∧ (getReg (s.me.r.t.set 1 ⟨0, 2⟩) 1 ⟨0, 0⟩).poison ≠ 0
    ∧ ((stateOf { s.me with r := { s.me.r with t := s.me.r.t.set 1 ⟨0, 2⟩ } }).me.tile 1).poison ≠ 0
    ∧ s.me.canAccumulate 15 = true ∧ s.me.canRead (.tile 1) = true
    ∧ (List.range 64).all (fun i => !(s.me.tile 1).bad (256 * i) 8) = true ∧ isStochastic 10 8 = true := by decide +kernel
/-- MatrixCommands: a product, a move, a transpose and a zero that a core has accepted. -/
def accepting (i : Instr) : State := stateAfter (exec i (productState (stream 1 8) (stream 2 8)))
theorem test_matrix_command_premise :
    ∀ i ∈ [Instr.mma always 4 1 2 0, .mmaMk always 4 1 2 0, .mmov always 4 1, .mtr always 4 1 2, .mzero always 4, .mcvt always 1 4 true 9 5 false],
      ((accepting i).core 0).mq.length = 1 := by decide +kernel

/-! ## Premises of the statements: slot F -/

/-- An object of two heads of dimension 4, and a core with handles of a live one in `h1` and `h3`, of a snapshot in
`h2`, and a parameter word in `q1`. -/
def object (kind : BitVec 8) (state : Residency) : Obj :=
  { Obj.free with used := true, kind := kind, heads := 2, dim := 4, state := state, base := 1 }
def fast (par : Nat) : State := { stateOf { coreWith [] with
  r := { (coreWith []).r with
    q := (coreWith []).r.q.set 1 (BitVec.ofNat 256 par)
    h := (((coreWith []).r.h.set 1 (makeHandle 1 (object 1 .resident))).set 2 (makeHandle 2 (object 2 .resident))).set 3
      (makeHandle 3 (object 1 .resident)) } } with
  objs := [(1, object 1 .resident), (2, object 2 .resident), (3, object 1 .resident)] }
/-- Two heads from head 0, two rows, FP32: a step's parameters. -/
def stepWord : Nat := (2 ^ 24 + 2 * 2 ^ 8) * 2 ^ 64

theorem test_handle_premise : (fast 0).goodHandle (makeHandle 1 (object 1 .resident))
    ∧ (fast 0).goodHandle (makeHandle 2 (object 2 .resident)) ∧ (fast 0).inSequence (makeHandle 1 (object 1 .resident))
    ∧ (fast 0).inSequence (makeHandle 3 (object 1 .resident)) := by
  unfold State.goodHandle State.inSequence; decide +kernel
/-- FastWeightCommands. -/
theorem test_fast_premise : let s := fast 0
    s.me.fq.length < 4 ∧ getReg s.me.view.h 1 0 = makeHandle 1 (object 1 .resident)
    ∧ handleKind (getReg s.me.view.h 1 0) = 1 ∧ handleKind (getReg s.me.view.h 2 0) = 2
    ∧ dropPending s [getReg s.me.view.h 1 0, getReg s.me.view.h 2 0, getReg s.me.view.h 3 0] = false
    ∧ (List.range 16).all (fun i => s.me.canRead (.handle i) && s.me.canWrite (.handle i) && s.me.canWrite (.tile i))
      = true := by decide +kernel
theorem test_step_premise : ∀ f ∈ List.range 7,
    (match stepShape (BitVec.ofNat 256 stepWord) (object 1 .resident) f 4 5 6 with
      | some z => z.busy.all fun b => if b.2 then (fast stepWord).me.canWrite b.1 else (fast stepWord).me.canRead b.1
      | none => false) = true := by decide +kernel
theorem test_migrate_premise : let par := BitVec.ofNat 256 (3 * 2 ^ 52)
    field (word256 par 0) 0 52 = 0 ∧ word256 par 1 = 0 ∧ word256 par 2 = 0 ∧ word256 par 3 = 0
    ∧ field (word256 par 0) 53 3 ≤ 4 ∧ (fast 0).member 0 (field (word256 par 0) 56 8) = true
    ∧ ((fast 0).cluster (field (word256 par 0) 52 12)).ns = ((fast 0).cluster 0).ns := by decide +kernel

/-- A core whose oldest F command is one of an instruction. -/
def fastAccepting (i : Instr) : State := stateAfter (exec i (fast stepWord))
/-- FastWeightEvents: commands that complete with OK while the core runs their block, among them those of the step family. -/
theorem test_fast_command_premise :
    ∀ i ∈ [Instr.fwcommit always 1, .fwdrop always 1, .fwfade always 1, .fwread always 4 1, .fwstepDeltaPre always 5 6 7 1,
        .fwavg always 3 3 0 1 0],
      let s := fastAccepting i
      (match commandsF s 0 with
        | c :: _ => turnOf s 0 c && (match runF s c 0 with
            | .done t st _ _ _ _ => st == 0 && t.runs c.own.part c.own.uid == some 0
            | _ => false)
          && (c.op < 2 || 5 < c.op || (stepShape c.q (s.obj (handleKey (c.handles.headD 0)))
            (if c.op = 2 then 4 else if c.op = 4 then 5 else if c.op = 5 then 6 else c.fld 0 4)
            (c.fld 16 4) (c.fld 12 4) (c.fld 8 4)).isSome)
        | _ => false) = true := by decide +kernel
/-- A head of dimension 1 with one row of each operand, and an `fwevict` that found no room. -/
theorem test_head_premise : let r : Rows := [[Val.zero]]
    r.length = 1 ∧ (∀ x ∈ r ++ r ++ r ++ r, x.length = 1) ∧ (List.replicate 16 Val.zero).length = 16
    ∧ ∃ c : FCmd, c.op = 0x12 ∧ c.phase = 4 :=
  ⟨rfl, by decide, rfl, ⟨0, 0x01200000, 0, ⟨0, 0⟩, [], 0, [], 0, scalars.ownerOf 0, 0, [], none, 4⟩, rfl, rfl⟩
/-- Objects going out, coming in for a flag, held, migrating, and resident with an element, on a chip whose pager
region has room. -/
def moving (o : Obj) : State := { fast 0 with
  objs := [(1, o), (2, { object 1 .resident with base := 2 })], chips := [(0, { Chip.reset with tiercfg := 0x1000 })] }
theorem test_pager_premise :
    (object 1 .resident).holds = true ∧ 31 < (object 1 .resident).heads * (object 1 .resident).dim * (object 1 .resident).dim
    ∧ (moving { object 1 .resident with hold := true }).objs.all (fun e => e.2.moving != some 1) = true
    ∧ (moving (object 1 .pagingIn)).unitsUsed 0 + (object 1 .pagingIn).units ≤ stateUnits := by decide +kernel
theorem test_page_in_premise : (moving (object 1 .pagingIn)).grant 0 (object 1 .pagingIn).units = .now :=
  if_pos (by decide +kernel)
theorem test_image_premise : (moving (object 1 .pagingOut)).imageFits 1 = true 
    ∧ ({ moving (object 1 .pagingOut) with chips := [(0, { Chip.reset with tiercfg := 0 })] } : State).imageFits 1 = false := by
  have small : ∀ o : Obj, o.units = 1 → State.imageSize o = 1 := fun o h => by
    unfold State.imageSize; rw [h]; omega
  constructor <;> unfold State.imageFits <;> rw [small _ (by decide)] <;> decide
/-- A page-in in cluster 0 that needs more units than there are, and an object that may leave. -/
def crowded : State := { moving (object 1 .resident) with
  objs := [(1, object 1 .resident), (2, { object 1 .resident with base := 2 }),
    (3, { object 1 .pagingIn with heads := 2 ^ 40 })] }
theorem test_evict_premise : unitsAwaited crowded 0 = true ∧ crowded.evictable 0 = some 1 := by
  have fits : ∀ k, k = 1 ∨ k = 2 → crowded.imageFits k = true := fun k h => by
    have small : ∀ o : Obj, o.units = 1 → State.imageSize o = 1 := fun o h => by
      unfold State.imageSize; rw [h]; omega
    unfold State.imageFits
    rcases h with rfl | rfl <;> rw [small _ (by decide)] <;> decide
  refine ⟨by decide +kernel, ?_⟩
  have one : crowded.qualifies 1 = true := by unfold State.qualifies; rw [fits 1 (.inl rfl)]; decide +kernel
  have two : crowded.qualifies 2 = true := by unfold State.qualifies; rw [fits 2 (.inr rfl)]; decide +kernel
  have both : (crowded.objectsOf 0).map (·.1) = [1, 2, 3] := by decide +kernel
  have three : crowded.qualifies 3 = false := by decide +kernel
  unfold State.evictable
  rw [both]
  simp only [List.filter, one, two, three, List.foldl]
  rfl

/-! ## Premises of the statements: slots X and G -/

/-- A staging register of four words. -/
def staging (a b c d : Nat) : BitVec 256 := BitVec.ofNat 256 (a + b * 2 ^ 64 + c * 2 ^ 128 + d * 2 ^ 192)
/-- A core with staging registers: in `x0` two rows of 16 bytes with a pitch of 32 at 0x2_0000, in `x1` an IN ring of
two slots in the core's own scratchpad, in `x2` 64 bits of metadata, in `x3` an all-reduce of two U32, in `x4` a range of
one granule, in `x5` a message of 64 bytes to core 0. -/
def commander : State := stateOf { coreWith [(1, 64), (2, 0x20100)] with
  r := { (coreWith [(1, 64), (2, 0x20100)]).r with
    x := #v[staging 0x20000 (32 + 2 * 2 ^ 40) 16 0, staging 0x20000 (0x1000 + 2 ^ 20 + 2 * 2 ^ 32) 0 0,
            staging 0x20000 64 0 0, staging 0x20000 0x20100 (8 + 4 * 2 ^ 40) 0, staging 0x20000 0 0x10000 0,
            staging 0x20000 0 64 0, 0, 0] } }

/-- CommandsAccepted: every form, in a core whose registers are free. -/
theorem test_command_premise : commander.me.xq.length < 16 ∧ commander.speculative = none
    ∧ (xCommands commander always 3 0 15 true true false false 0 0 ++ gCommands commander always 3 15 true true false 0 0).all
      (fun y => y.1.encode.isSome && y.1.slot?.isSome
        && (y.2.busy (newCmd commander ⟨(y.1.slot?).getD .A, y.1.encode.getD 0⟩)).all fun b =>
          if b.2 then commander.me.canWrite b.1 else commander.me.canRead b.1) = true := by decide +kernel
/-- A command that an instruction has had accepted. -/
def commanded (i : Instr) : State := stateAfter (exec i commander)
noncomputable def newest (i : Instr) : Option Cmd := (commanded i).me.xq.getLast?
/-- CommandsWithEffects: the sparse engine free, a good collective. -/
theorem test_effect_premise : commander.me.spx.busy = false
    ∧ (newest (.gspd always 15 true false 0 2)).map (·.status) = some none
    ∧ (newest (.gcar always 0 15 true false 3)).map (·.status) = some none
    ∧ (let c := newCmd commander ⟨.G, (Instr.gcar always 0 15 true false 3).encode.getD 0⟩
      commander.goodCompletion commander.here c && goodCollective commander c) = true := by decide +kernel
/-- A ring registered, started by its first event. -/
noncomputable def subscribed : State := { (stateAfter (exec (.xCommandComplete 0 (((newest (.xsub always 1 15 true true false 0)).map (·.id)).getD 0))
  (commanded (.xsub always 1 15 true true false 0)))) with here := 0 }
theorem test_release_premise : (subscribed.ringIndexed 0 0).isSome = true ∧ subscribed.me.xq.length < 16
    ∧ (((stateAfter (exec (.xunsub always 0 15 true true false 0) subscribed)).me.xq.getLast?).map (·.status)) = some none := by
  decide +kernel
/-- A sparse engine that decodes. -/
theorem test_busy_engine_premise : (commanded (.gspd always 15 true false 0 2)).me.spx.busy = true
    ∧ (commanded (.gspd always 15 true false 0 2)).me.xq.length < 16 := by decide +kernel
theorem test_wait_premise : commander.me.canWrite (.tile 15) = true ∧ commander.me.canWrite (.vec 31) = true
    ∧ (commanded (.xld always 3 0 15 true true false)).me.canWrite (.tile 3) = false := by decide +kernel
/-- CommandCompletion: commands that complete, and one with a fixed status. -/
theorem test_completion_premise :
    ∀ i ∈ [Instr.xld always 3 0 15 true true false, .xst always 3 0 15 true true false, .gspd always 15 true false 0 2],
      let s := commanded i
      (match newest i with
        | some c => c.status.isNone && s.mayRun 0 c && s.samplerTurn 0 c && (s.commandAt 0 c.id).isSome
        | none => false) = true := by decide +kernel
/-- What an engine comes to: 1 when it is done with a command, 2 when it goes on with it later. -/
noncomputable def comesTo (run : State → Cmd → Engine) (i : Instr) : Nat :=
  match newest i with
  | some c => (match run (commanded i) c with
    | .done _ _ => 1
    | .wait _ => 2)
  | none => 0
theorem test_run_premise : comesTo (runX 0) (.xunsub always 0 15 true true false 0) = 1
    ∧ comesTo (runX 0) (.xld always 3 0 15 true true false) = 2 ∧ comesTo (runG 0) (.gspd always 15 true false 0 2) = 2
    ∧ comesTo (leaveG 0) (.ggath always 3 15 true false false 1) = 1 := by decide +kernel
theorem test_fixed_status_premise : (newest (.xld always 3 1 15 true true false)).map (·.status) = some (some 6)
    ∧ (newest (.ggath always 3 15 true false false 1)).map (·.status) = some (some 6) := by decide +kernel
/-- A command that an instruction's acceptance leaves in the core's queue, or one that nothing names. -/
noncomputable def cmdOf (i : Instr) : Cmd := (newest i).getD (newCmd commander ⟨.X, 0⟩)
/-- The extent of a command is translated, its pages are at hand, and nothing of it has begun. -/
noncomputable def extentMeets (s : State) (c : Cmd) (need : Need) (rs : List (Nat × Nat)) : Bool :=
  let u := s.translate 0 c rs
  let a := u.1.planOf 0 u.2.1 need rs
  c.job.isNone && u.2.2 && !a.pieces.isEmpty && a.fault.isNone && u.1.absentIn a.pieces == []
    && (match u.1.readyPages a.pieces with
      | .ok _ => true
      | _ => false)
/-- CommandCompletion: transfers that begin, in two rows of 16 bytes, in 16 bytes, and from 64 bytes to 64 others. -/
theorem test_transfer_premise :
    (∀ i ∈ [Instr.xld always 3 0 15 true true false, .xldTr always 3 0 15 true true false, .xst always 3 0 15 true true false],
      let c := cmdOf i
      1 ≤ c.op ∧ c.op ≤ 3 ∧ c.rowBytes < c.pitch ∧ c.data.length = (if c.op = 3 then c.rows * c.rowBytes else 0)
      ∧ extentMeets (commanded i) c (if c.op = 3 then .store else .load)
        ((List.range c.rows).flatMap fun r => Sys2Proof.Machine.runs (c.addr + r * c.pitch) c.rowBytes) = true)
    ∧ (∀ i ∈ [Instr.xldv always 3 0 15 true true false false, .xldw always 0 15 true true false],
      extentMeets (commanded i) (cmdOf i) .load (Sys2Proof.Machine.runs (cmdOf i).addr ((cmdOf i).stf 2 0 13)) = true)
    ∧ (∀ i ∈ [Instr.xstv always 3 0 15 true true false false, .xfill always 0 15 true true false 0],
      extentMeets (commanded i) (cmdOf i) .store (Sys2Proof.Machine.runs (cmdOf i).addr 16) = true)
    ∧ (let c := { cmdOf (.xcopy always 0 15 true true false false 0) with stg := staging 0x20000 0x20100 64 0 }
      let s := commanded (.xcopy always 0 15 true true false false 0)
      c.op = 8 ∧ c.mxf = 0 ∧ extentMeets s c .store (Sys2Proof.Machine.runs 0x20000 64 ++ Sys2Proof.Machine.runs 0x20100 64)
        = true)
    ∧ (let c := cmdOf (.xsub always 1 15 true true false 0)
      let s := commanded (.xsub always 1 15 true true false 0)
      c.phase = 0 ∧ c.ringMode = 0 ∧ s.ringsOf 0 = [] ∧ (s.freeRing (clusterOf 0)).isSome = true) := by decide +kernel
/-- A command with its transfer begun, and with nothing left to read or write. -/
noncomputable def begun (i : Instr) (over_ : Bool) : State :=
  let s := stateAfter (exec (.xCommandComplete 0 (cmdOf i).id) (commanded i))
  if over_ then s.setCore 0 { s.core 0 with
    xq := (s.core 0).xq.map fun c => { c with job := c.job.map fun j => { j with rd := [], wr := [] } } } else s
noncomputable def jobIn (s : State) : Option (Cmd × Job) := ((s.core 0).xq.head?).bind fun c => c.job.map fun j => (c, j)
theorem test_job_premise : ∀ b ∈ [true, false],
    ∀ i ∈ [Instr.xld always 3 0 15 true true false, .xldTr always 3 0 15 true true false, .xst always 3 0 15 true true false],
      let s := begun i b
      (match jobIn s with
        | some (c, j) => decide (j.buf.length = c.rows * c.rowBytes) && decide (c.rows = 2) && decide (c.rowBytes = 16)
          && (j.rd.isEmpty && j.wr.isEmpty) == b && (j.rd ++ j.wr).all fun p => decide (p.off + p.piece.len ≤ j.buf.length)
            && (match p.piece.target with
              | .mem ma => regionOf ma == .tiered
              | _ => false) && !s.refusedAt p.piece.ns p.piece.target && (s.refusedIn [p.piece]).isNone
            && ((s.servePiece p.piece).placeForWrite 2 p.piece.attr).isSome
            && !(s.servePiece p.piece).refusedAt p.piece.ns p.piece.target
        | none => false) = true := by decide +kernel
/-- GatherEvents: an engine in a mode, at a rate, its first bit of metadata set or clear, its queue of a length. -/
noncomputable def sparse (mode : BitVec 2) (rate next held : Nat) : State :=
  let s := commanded (.gspd always 15 true false 0 2)
  { s.setMe { s.me with spx := { s.me.spx with mode := mode, rate := rate, next := next, queue := List.replicate held 0 } } with
    mem := Memory.writes [] 0x20000 [5, 0, 7] }
noncomputable def sparseMeets (s : State) : Bool :=
  let c := cmdOf (.gspd always 15 true false 0 2)
  let x := (s.core 0).spx
  let run := if x.mode = 0 then (x.base + x.next / 8, 1) else (x.base + 2 * x.next, 2)
  let u := s.translate 0 c (runs run.1 run.2)
  let a := u.1.planOf 0 u.2.1 .load (runs run.1 run.2)
  (s.core 0).xq == [c] && c.slotG && c.id == x.cmd && c.status.isNone && s.mayRun 0 c && s.inImage c.own.part 0 == false
    && x.busy && s.parts.all (fun p => !s.isOut p.1) && u.2.2 && a.fault.isNone && u.1.absentIn a.pieces == []
    && (u.1.refusedIn a.pieces).isNone && a.pieces.all fun r => u.1.partFree 0 u.2.1 false r
noncomputable def unitRead (s : State) : Option Nat :=
  match readMeta s 0 (cmdOf (.gspd always 15 true false 0 2)) (s.core 0).spx with
  | .value _ _ n => some n
  | _ => none
theorem test_sparse_premise : sparseMeets (sparse 0 1 0 0) = true ∧ sparseMeets (sparse 1 8 1 255) = true
    ∧ (unitRead (sparse 0 1 0 256), unitRead (sparse 0 4 1 256), unitRead (sparse 1 8 1 255)) = (some 1, some 0, some 7)
    ∧ ((sparse 0 1 0 0).core 0).spx.count = 64 ∧ ((sparse 0 1 64 0).core 0).spx.next = 64 := by decide +kernel
/-- A collective of one member, its instance made by its first command. -/
noncomputable def collective : State :=
  let s := commanded (.gcar always 0 15 true false 3)
  match s.me.xq with
  | c :: _ => (openInstance s c 5).1
  | [] => s
theorem test_collective_premise : let c := cmdOf (.gcar always 0 15 true false 3)
    (let x := collective.translate 0 c (sourceRuns (c.rankOf 0) c ++ resultRuns (c.rankOf 0) c.members.length c)
      let a := x.1.planOf 0 x.2.1 .load (sourceRuns (c.rankOf 0) c)
      let b := x.1.planOf 0 x.2.1 .store (resultRuns (c.rankOf 0) c.members.length c)
      x.2.2 && x.1.absentIn (a.pieces ++ b.pieces) == [] && a.fault.isNone && b.fault.isNone
        && (x.1.refusedIn (a.pieces ++ b.pieces)).isNone && match (x.1.touchPages a.pieces).readyPages b.pieces with
          | .ok _ => true
          | .error _ => false) = true
    ∧ collective.commandAt 0 c.id = some c ∧ collective.mayRun 0 c = true ∧ c.phase = 0 ∧ c.status = none ∧ c.job = none
    ∧ 8 ≤ c.op ∧ c.op ≤ 11 := by decide +kernel
/-- The same with its contribution made ready, and then with all of it read. -/
noncomputable def contributing (read : Bool) : State :=
  let s := stateAfter (exec (.collectiveContribution 0 (cmdOf (.gcar always 0 15 true false 3)).id) collective)
  if read then s.setCore 0 { s.core 0 with
    xq := (s.core 0).xq.map fun c => { c with job := c.job.map fun j => { j with rd := [] } } } else s
theorem test_contribution_premise : ∀ b ∈ [true, false], let s := contributing b
    (match s.commandAt 0 (cmdOf (.gcar always 0 15 true false 3)).id with
      | some c => s.mayRun 0 c && c.phase == 0 && c.status.isNone && match c.job with
        | some j => j.world.isNone && j.rd.isEmpty == b && !s.jobLate 0 c { j with wr := [] }
            && match instanceOf s c with
              | some x => x.failed.isNone && !x.differs c && x.got.length < x.size
              | none => false
        | none => false
      | none => false) = true := by decide +kernel
/-- A message of 64 bytes to core 0, its mailbox with room or full. -/
noncomputable def sending (n : Nat) : State :=
  let s := commanded (.gsend always 2 15 true false 5)
  s.setCore 0 { s.me with mbox := setReg s.me.mbox 2 (List.replicate n ⟨0, 1, 9, 64, 0⟩) }
theorem test_message_premise : let c := cmdOf (.gsend always 2 15 true false 5)
    (∀ n ∈ [15, 16], receiverOf (sending n) 0 c = some 0 ∧ (sending n).mayRun 0 c = true
      ∧ (getReg (((sending n).keepOrder c.own.part 0 c.ord none).coreOf c.own.part 0).mbox c.mailbox []).length = n)
    ∧ c.op = 0x10 ∧ c.phase = 0 ∧ c.status = none
    ∧ (c.own.ns && (sending 0).secureCluster (clusterOf 0)) = false := by decide +kernel
/-- A descriptor of the message that has waited a millisecond, and a `grecv` accepted a millisecond ago. -/
noncomputable def waiting : State :=
  let s := commanded (.gsend always 2 15 true false 5)
  { s.setCore 0 { s.me with
    mbox := setReg s.me.mbox 2 [⟨0, 0, (cmdOf (.gsend always 2 15 true false 5)).id, 64, s.now⟩]
    xq := s.me.xq.map fun c => { c with phase := 1 } } with now := s.now + 1000000 }
theorem test_message_timeout_premise : let c := cmdOf (.grecv always 2 15 true false 5)
    (getReg ((waiting).coreOf 0 0).mbox 2 []).any (fun d => decide (1000000 ≤ waiting.passed d.since)) = true
    ∧ c.op = 0x11 ∧ waiting.passed c.since = 1000000 := by decide +kernel
theorem test_ended_premise : ((stateAfter (exec (.mailboxDescriptorTimeout 0
      (cmdOf (.gsend always 2 15 true false 5)).id) waiting)).core 0).xq.map (fun c => (c.op, c.phase, c.job.map (·.ended)))
    = [(0x10, 3, some true)] := by decide +kernel
/-- A transfer that has read some bytes. -/
def readJob (bytes : List Byte) : Job :=
  ⟨[], [], bytes.map fun b => (b, false), false, none, .moved none none bytes.length, none, [], false⟩
/-- GatherEvents: two elements of 4 bytes at indices 1 and 2, 16 bytes apart, of a tile of three; and read. -/
noncomputable def gathering (i : Instr) (j : Option Job) : Cmd :=
  { cmdOf i with phase := 1, idx := [1, 2], job := j, stg := staging 0x20000 (3 + 4 * 2 ^ 32 + 2 * 2 ^ 48) 0 0 }
theorem test_gather_premise :
    (∀ i ∈ [Instr.ggath always 3 15 true false false 1, .gscat always 3 15 true false false 1],
      let c := gathering i none
      (c.op = 1 ∨ c.op = 2) ∧ c.count = 3 ∧ 2 ^ c.stf 1 48 2 = 4
      ∧ extentMeets (commanded i) c (if c.op = 1 then .load else .store) [(0x20010, 4), (0x20020, 4)] = true)
    ∧ 3 * 4 ≤ 16384 ∧ (readJob (List.replicate 8 7)).buf.length = 8 := by decide +kernel
/-- GatherEvents: an instance with the contribution of its one member, of a sum of two U32, and the members' turns. -/
noncomputable def combined : State :=
  stateAfter (exec (.collectiveContribution 0 (cmdOf (.gcar always 0 15 true false 3)).id) (contributing true))
theorem test_combined_premise : (match (combined.core 0).xq with
    | [c] => c.phase == 1 && c.op == 8 && c.job.isSome && (match instanceOf combined c with
      | some x => x.failed.isNone && decide (x.size ≤ x.got.length)
      | none => false)
    | _ => false) = true := by decide +kernel
theorem test_combine_premise : let l : List Data := [(List.replicate 8 (1, false)), List.replicate 8 (2, false)]
    l.map (fun d => ofBytes ((slice d 4 4).map (·.1))) = [0x01010101, 0x02020202] ∧ fmtOf 8 ≠ none ∧ typeBytes 4 = 4 := by
  decide +kernel
/-- GatherEvents: sampling commands whose bytes are read, over set 3 and, for `sdraw`, a generator at 0x1000. -/
theorem test_sampling_premise :
    (∀ n ∈ [1, 16], (readJob (List.replicate n 0)).result.status = 0) ∧ (cmdOf (.stopk always 3 15 true false 0)).op = 0x20
    ∧ 0x1000 % 8 = 0 ∧ (0x1000 + 16 ≤ 2 ^ 20)
    ∧ (let c := { cmdOf (.stok always 3 15 true false 0) with stg := staging 0x0100000000001000 0 0 0 }
      c.op = 0x26 ∧ c.job = none ∧ (commanded (.stok always 3 15 true false 0)).performedBefore c.own.part 0 c.ord 5 = true
      ∧ (commanded (.stok always 3 15 true false 0)).window 0 (BitVec.ofNat 64 c.addr) 8 = some (0, 0x1000))
    ∧ (cmdOf (.saccept always 3 15 true false 0)).set = 3 ∧ (cmdOf (.saccept always 3 15 true false 0)).phase = 0 := by
  decide +kernel
/-- Allocation: an arena of 512 bytes at 0x4_0000 with two allocations; 64 bytes fit at its base, 0x2_0100 nowhere. -/
def arenas : State := { commander with
  mem := Memory.writes (Memory.writes [] 0x1500 (toBytes 8 0x40000)) 0x1508 (toBytes 8 0x200)
  parts := [(0, { commander.part 0 with
    arenatab := 0x1000, allocs := [⟨5, 0, 0x40040, 0x40, none⟩, ⟨5, 0, 0x40080, 0x80, some (9, 3)⟩] })] }
theorem test_arena_premise : arenas.arena 0 5 0 = some (0x40000, 0x200, 64) ∧ (arenas.liveIn 0 5 0).length = 2
    ∧ (∀ y ∈ arenas.liveIn 0 5 0, y.len = 0 ∨ 0x40000 + 64 ≤ y.addr ∨ y.addr + y.len ≤ 0x40000)
    ∧ 0x200 < 0x20100 ∧ (arenas.ownerOf 0).launch = none ∧ writable arenas 3 = true ∧ arenas.absentPage 0x1500 16 = none
    ∧ field (arenas.part 0).arenatab 12 44 * 4096 + 256 * 5 = 0x1500 ∧ arenas.mem64 0x1508 = 0x200
    ∧ arenas.mem64 0x1500 = 0x40000 ∧ commander.mem64 0x508 = 0 ∧ arenas.me.performed = false
    ∧ (stateOf { commander.me with awaits := [⟨5, .B, 0x10000, false, false, [], some (1, false, false)⟩] }).me.performed
      = true := by decide +kernel

/-! ## Premises of the statements: leaving, what happens around a group, and steps -/

/-- The block's queue, valid, in partition 0 and context 5 of a secure world, and a store with some records. -/
def queued (c : Core) (l : List Rec) : State := { stateOf c with
  clusters := [(0, { Cluster.reset with
    queues := [(3, #v[2 ^ 63 + 5 * 2 ^ 44, 1, 0, 0, 0, 0, 0, 0])], store := l })] }
/-- A wake for the block's key. -/
def wake : Rec := { record with uid := 8, state := .wake, words := (Vector.replicate 8 0).set 6 77 }

/-- LeavingBlocks: with no wake, with one, and with an answered and an unanswered future. -/
theorem test_leaving_premise : let s := queued (coreWith []) []
    s.me.blk = some block ∧ block.squashed = false ∧ s.me.mayLeave = true ∧ s.tagFails block s.here = false
    ∧ s.tagAwaited block s.here = false
    ∧ s.queueV 0 3 = true ∧ s.queueGen 0 3 = block.rcd.gen ∧ s.roomToLeave s.here = true ∧ wakePending s block = false
    ∧ wakePending (queued (coreWith []) [wake]) block = true ∧ s.me.pendU = [] ∧ block.rcd.held = [] := by decide +kernel
/-- A block of crew 1, and two records in the overflow ring of its queue, whose pages are in tier 0. -/
def crewBlock : Block := { block with rcd := { record with words := record.words.set 1 (2 ^ 40) } }
def leavingRing : State :=
  let s := queued { coreWith [] with blk := some crewBlock }
    [{ record with uid := 20, state := .overflow 0 }, { record with uid := 21, state := .overflow 1, age := 2 }]
  { s with
    pages := [(0, { Page.reset with tier := some 0 }), (4, { Page.reset with tier := some 0 })]
    clusters := [(0, { s.cluster 0 with queues := [(3, #v[2 ^ 63 + 5 * 2 ^ 44, 1, 0, 0, 0x40000, 6, 0, 0])] })] }
theorem test_leaving_ring_premise : let s := leavingRing
    s.me.blk = some crewBlock ∧ crewBlock.squashed = false ∧ s.me.mayLeave = true ∧ s.tagFails crewBlock s.here = false
    ∧ s.tagAwaited crewBlock s.here = false ∧ s.queueV 0 3 = true ∧ s.queueGen 0 3 = crewBlock.rcd.gen
    ∧ s.roomToLeave s.here = true ∧ s.me.pendU = [] ∧ crewBlock.rcd.held = [] ∧ recCrew crewBlock.rcd.words = 1
    ∧ s.crewMA 0 1 + 8 = 40 ∧ regionOf 40 = .tiered ∧ s.editing 0 = false ∧ (s.page 0).tier = some 0
    ∧ s.overflowed 0 3 = 2 ∧ s.freePlace 0 3 = some 2 ∧ s.overflowAt 0 3 2 = 0x40080 ∧ s.edits = []
    ∧ (s.page 4).tier = some 0 := by decide +kernel
theorem test_wake_premise : let s := queued (coreWith []) [wake]
    oldest ((s.cluster 0).store.filter fun r => r.queue == block.rcd.queue && r.state == .wake
      && recKey r.words == recKey block.rcd.words) = some wake ∧ wake.uid ≠ block.rcd.uid := by decide +kernel
theorem test_resolving_end_premise : let s := queued (coreWith [(1, peerVA), (2, 9)]) []
    (match aimWord s ⟨.C, (Instr.endF always 1).encode.getD 0⟩ peerVA 16 with
      | .ok p => p.1 == 1 && p.2.1 == 0x40
      | _ => false) = true ∧ s.speculative = none ∧ s.me.awaiting .C = none
    ∧ ((awaiting [(1, peerVA)] .C (some (0, false, false))).me.awaiting .C).map (·.answer)
      = some (some (0, false, false)) := by decide +kernel

/-- A group of one slot word at the PC whose guard is false or `p0`, of header and word. -/
def grouped (h w : Nat) : State := { stateWith [(1, 5), (2, 6)] with
  mem := Memory.writes [] 0x10000 (toBytes 4 h ++ toBytes 4 w) }
/-- A state in which flag 15 holds 5, the wait's limit is reached or not, and causes of both kinds are pending. -/
def around (limit : Bool) : State := stateOf { coreWith [(40, 9)] with
  limit := limit, waited := 0x100000, budgetDue := true, pendU := [trapInstr], pendK := [illegalHeader], psums := [lastSum],
  issue := 7, r := { (coreWith [(40, 9)]).r with cf := (coreWith []).r.cf.set 15 5, uivec := 0x50001 } }
/-- IssueEvents. -/
theorem test_sync_premise : (around true).me.limit = true ∧ (around false).me.limit = false
    ∧ (5 : BitVec 6).toNat ≤ ((around true).me.r.cf[15]).toNat ∧ ((around true).me.r.cf[15]).toNat < (6 : BitVec 6).toNat := by
  decide +kernel
theorem test_skip_premise : (match fetchGroup (grouped 0x02800000 0x0810C108) 0x10000 with
    | .ok bs => (grouped 0x02800000 0x0810C108).me.skippable (syncOf bs).1 ((rawWords bs).map (·.2.2.2))
    | _ => false) = true := by decide +kernel
theorem test_around_premise : let c := (around false).core 0
    c.psums.filter (fun p => decide (p.pos + 6 ≤ c.issue)) = [lastSum] ∧ 0 < c.r.waitlim.toNat
    ∧ c.r.waitlim.toNat ≤ c.waited ∧ (stateWith []).me.waited < (stateWith []).me.r.waitlim.toNat
    ∧ c.budgetDue = true ∧ c.blk ≠ none ∧ c.pendU.length < 16 ∧ (around false).inImage ((around false).partOf 0) 0 = false
    ∧ c.stopped = false ∧ c.kernel = false ∧ block.squashed = false ∧ c.handler = false ∧ bit c.r.uivec 0 = true := by
  decide +kernel

/-- StepRunsDecodedInstruction: `add s3, s1, s2` at the PC, alone in its group. -/
theorem test_issue_premise : (grouped 0x02800000 0x0010C108).issues := by
  unfold State.issues; decide +kernel
theorem test_group_premise : (decodeHeader 0x02800000).legal = true ∧ (decodeHeader 0x02800000).stop = true
    ∧ (decodeHeader 0x02800000).sync = 0 ∧ (decodeHeader 0x02800000).slots = [.A] := by decide +kernel
theorem test_fetch_premise : let s := grouped 0x02800000 0x0010C108
    fetchWord (s.atGroup 0x10000) (fetchCause false) 0x10000 = .ok 0x02800000
    ∧ fetchWord (s.atGroup 0x10000) (fetchCause false) 0x10004 = .ok 0x0010C108 ∧ s.me.icache = []
    ∧ (s.atGroup 0x10008).me.skippable 0 [0x0010C108] = false := ⟨rfl, rfl, rfl, rfl⟩
/-- A group under its limit of power and one over it, one that fetch skips at a cost, and one that stalls for slot V. -/
def limited (w n : Nat) : State :=
  let s := grouped 0x02800000 w
  s.setMe { s.me with charge := List.replicate n 51, vleft := 3, r := { s.me.r with clim := BitVec.ofNat 64 (11136 * 2 ^ 32 + 2048) } }
theorem test_limit_premise : (∀ n ∈ [0, 41], ((limited 0x0010C108 n).atGroup 0x10008).overLimit 0 = decide (n = 41))
    ∧ ((limited 0x0810C108 41).atGroup 0x10008).me.skippable 0 [0x0810C108] = true
    ∧ ({ (limited 0x0810C108 0).me with wrote := Vector.replicate 16 0, fetch := 0 } : Core).skipCost [0x0810C108] = 0
    ∧ (limited 0x0010C108 0).me.vleft ≠ 0 ∧ (limited 0x0010C108 0).me.performed = false
    ∧ (limited 0x0010C108 0).me.asked = none := by decide +kernel
theorem test_due_premise : let s := { grouped 0x02800000 0x0010C108 with agenda := [.qstatClear 0] }
    s.agenda = [.qstatClear 0] ∧ ∃ t, exec (.qstatClear 0) { s with agenda := [] } = .next t := ⟨rfl, _, rfl⟩
/-- KernelThroughTrapsAlone and RegisterSlotsStoreNothing: words at user privilege. -/
theorem test_user_word_premise : scalars.me.kernel = false ∧ (Instr.add .A always 3 1 2 false).guard? = some always
    ∧ (stateAfter (exec (.add .A always 3 1 2 false) scalars)).me.grp.status = .running
    ∧ (Instr.add .A always 3 1 2 false).slot? = some .A := ⟨rfl, rfl, rfl, rfl⟩
/-- ShapesFirstKept: reset, and a state with a full shape word and its resolution first. -/
theorem test_shapes_premise : State.reset.shapesFirst := ⟨[], rfl⟩
/-- MemoryWrites: the last byte of a line and the next, no row retired. -/
theorem test_memory_premise : regionOf 0x2003F = .tiered ∧ State.reset.hbm = [] ∧ State.reset.memoryCanonical :=
  ⟨rfl, rfl, by unfold State.memoryCanonical; decide⟩

/-! ## Premises of the statements: events -/

/-- The state of `locals` after an instruction that has sent an access, its number 0. -/
def sent (i : Instr) : State := stateAfter (exec i locals)
/-- The access in flight. -/
def flight (s : State) : Acc := s.accs.headD (newAcc locals .load ⟨[.mem 0], 0, false, 0⟩ 8 0 0 false false false)

/-- MemoryAccesses: a load, a store and an atomic of memory, of clean and of poisoned bytes, from a core and from the host
through BAR6. -/
noncomputable def reaching (s : State) : Bool :=
  match s.mapHost (flight s) with
  | some a => a.target == .mem 0x20040 && a.split == [] && a.todo == [] && s.mayPerform a && !s.hostMiss a 0x20040
      && match s.sendOut a with
        | some c => !s.noPath c && !(if c.host then s.secureMA 0x20040 else s.refusedAt c.ns (.mem 0x20040))
            && ((s.keepOrderOf c).serveAcc c).hbm.all fun x => x.2.retired.isEmpty
        | none => false
  | none => false
theorem test_access_premise :
    ∀ i ∈ [Instr.ld always 3 5 0, .st always 3 5 0, .aadd4 always 3 5 0 4, .afmaxF64 always 3 5 0 4],
      let s := sent i
      s.sentAcc (flight s).id = some (flight s) ∧ reaching s = true := by decide +kernel
theorem test_host_access_premise : ∀ i ∈ [Instr.ld always 3 5 0, .st always 3 5 0],
    let s := sent i
    reaching { s with accs := [{ flight s with core := hostPort, target := .mem (6 * 2 ^ 44 + 0x20040) }] } = true := by
  decide +kernel
theorem test_bad_access_premise : let s := { sent (.aadd4 always 3 5 0 4) with beats := [0x801] }
    (List.range 4).any (fun i => s.badBeat (0x20040 + i)) = true ∧ regionOf 0x20040 = .tiered
    ∧ (List.range 4).any (fun i => (sent (.aadd4 always 3 5 0 4)).badBeat (0x20040 + i)) = false := by decide +kernel

/-- The scratchpad of core 1 with a word, a future and a barrier. -/
def target (i : Instr) (y : SpWord) (x : Barrier) : State :=
  let s := stateAfter (exec i (stateWith [(1, barrier), (2, peerVA), (3, 7), (4, 9)]))
  s.setCore 1 { s.core 1 with r := { (s.core 1).r.setWord 8 y with bar := (s.core 1).r.bar.set 31 x } }
/-- ScratchpadAccesses: full/empty forms on a word of either state; a future resolved and not; an arrival. -/
theorem test_bank_premise : ∀ b ∈ [true, false],
    ∀ i ∈ [Instr.ldf always 3 2 0, .ldfe always 3 2 0, .ste always 3 2 0, .stf always 3 2 0, .feset always 2 0],
      let s := target i ⟨5, b, false⟩ ⟨false, 0, 0, 0⟩
      (s.accs.find? fun x => x.id == (flight s).id && (x.phase == Phase.sent || x.phase == Phase.parked)) = some (flight s)
        ∧ (flight s).phase = .sent ∧ (flight s).target = .spad 1 0x40 ∧ s.mayPerform (flight s) = true
        ∧ s.inImage (flight s).part 1 = false ∧ s.noPath (flight s) = false
        ∧ (flight s).targets.any (s.refusedAt (flight s).ns) = false ∧ s.parkedAt (flight s).part 1 8 < 64 := by decide +kernel
theorem test_bank_kinds : (flight (target (.ldf always 3 2 0) ⟨5, true, false⟩ ⟨false, 0, 0, 0⟩)).kind = .fullEmpty 0x4C
    ∧ (flight (target (.feset always 2 0) ⟨5, true, false⟩ ⟨false, 0, 0, 0⟩)).kind = .fullEmpty 0x54
    ∧ (flight (target (.fres always 2 4) ⟨0, true, false⟩ ⟨false, 0, 0, 0⟩)).kind = .resolve
    ∧ (flight (target (.barArr always 3 1 false) ⟨0, true, false⟩ ⟨false, 0, 0, 0⟩)).kind = .arrive
    ∧ (flight (target (.barArr always 3 1 false) ⟨0, true, false⟩ ⟨false, 0, 0, 0⟩)).target = .spad 1 31 := by decide +kernel
/-- A bank with 64 accesses parked on the word. -/
def fullBank : State :=
  let s := target (.ldf always 3 2 0) ⟨5, false, false⟩ ⟨false, 0, 0, 0⟩
  { s with accs := s.accs ++ (List.range 64).map fun i => { flight s with id := i + 100, phase := .parked } }
theorem test_full_bank_premise : 64 ≤ fullBank.parkedAt 0 1 8 ∧ fullBank.mayPerform (flight fullBank) = true := by decide +kernel
/-- MemoryAndTierEvents: two runs of a granule that overlap, in a page in tier 0; serving a packet changes no placement. -/
def resident : State := { State.reset with pages := [(2, { Page.reset with tier := some 0, lru := 3 })] }
theorem State.serveRow_pages (s : State) (r : DramRow) (n : Nat) : (s.serveRow r n).pages = s.pages := by
  unfold State.serveRow; dsimp only; split <;> rfl
theorem State.serve_pages (s : State) (ma len : Nat) : (s.serve ma len).pages = s.pages := by
  have fold : ∀ (l : List (Option DramRow)) (s : State), (l.foldl (fun s r => match r with
      | some r => s.serveRow r (if Config.rowOpen s.tick (State.rowName r.bank r.row) then 0 else 1)
      | none => s) s).pages = s.pages := fun l => by
    induction l with
    | nil => exact fun _ => rfl
    | cons r l ih =>
      intro s
      rw [List.foldl_cons, ih]
      cases r with
      | none => rfl
      | some r => exact State.serveRow_pages _ _ _
  exact fold _ s
theorem readyRun_resident (s : State) (h : s.pages = resident.pages) : readyRun s 0x20100 16 ≠ none := by
  have g : s.page 2 = { Page.reset with tier := some 0, lru := 3 } := by unfold State.page; rw [h]; rfl
  have r : (List.range ((0x20100 + 16 - 1) / 65536 - 0x20100 / 65536 + 1)).map (· + 0x20100 / 65536) = [2] := by decide
  unfold readyRun
  rw [r]
  simp [State.present, g]
theorem test_base_die_premise : (resident.stackOf 0x20100 16).isSome = true
    ∧ resident.stackOf 0x20108 16 = resident.stackOf 0x20100 16 ∧ resident.hbm = []
    ∧ readyRun (State.serveCopy (16 / 1024 + 3) resident 0x20108 0x20100 16) 0x20100 16 ≠ none
    ∧ readyRun (State.serveFill (16 / 2048 + 2) resident 0x20100 16 0) 0x20100 16 ≠ none := by
  refine ⟨rfl, rfl, rfl, readyRun_resident _ ?_, readyRun_resident _ ?_⟩
  · have c : resident.copyInArray 0x20108 0x20100 16 = false := by
      simp [State.copyInArray]; cases resident.dramRow 0x20108 <;> cases resident.dramRow 0x20100 <;> rfl
    simp [State.serveCopy, c, State.serve_pages]
  · have c : resident.fillInArray 0x20100 16 0#64 = false := by
      unfold State.fillInArray; cases resident.dramRow 0x20100 <;> rfl
    simp [State.serveFill, c, State.serve_pages]
/-- A stack whose bank 3 has a bad copy, or two, counting or not. -/
def stacked (budget : BitVec 32) (a b : Bool) : State := { State.reset with
  hbm := [(0, { (State.reset.stack 0) with abudget := budget, banks := [(3, ⟨7, a, b, false, 0⟩)] })] }
theorem test_bank_copies_premise : ∀ a ∈ [true, false], ∀ b ∈ [true, false],
    let y := ((stacked 0 a b).stack 0).bank 3
    y.fenced = false ∧ y.copyA = a ∧ y.copyB = b ∧ ((stacked 0 a b).stack 0).counting = false
      ∧ ((stacked 0x81 a b).stack 0).counting = true ∧ ((stacked 0x81 a b).stack 0).level = 8
      ∧ ((stacked 0 a b).stack 0).events.length < 16 ∧ ((stacked 0 a b).stack 0).retired = [] := by decide +kernel

/-- A chip on which n frames hold pages: page 0 may be demoted, the others are pinned, and page n is on its way in. -/
def full (n : Nat) : State := { State.reset with
  pages := (0, { Page.reset with tier := some 0 }) ::
    (List.range (n - 1)).map (fun i => (i + 1, { Page.reset with tier := some 0, frame := i + 1, pin := 1 }))
      ++ [(n, { Page.reset with tier := some 1, incoming := true })] }
theorem look_of_mem {α : Type} {P : Nat → α → Prop} : ∀ {t : Table α} {k : Nat}, (∀ x ∈ t, P x.1 x.2) →
    k ∈ t.map (·.1) → ∃ v, Table.look t k = some v ∧ P k v
  | p :: r, k, h, m => by
    unfold Table.look
    by_cases e : p.1 = k
    · exact ⟨p.2, by rw [if_pos e], e ▸ h p (List.mem_cons_self ..)⟩
    · rw [if_neg e]
      exact look_of_mem (fun x hx => h x (List.mem_cons_of_mem _ hx))
        ((List.mem_cons.1 m).resolve_left fun h => e h.symm)
theorem firstNat_none {ok : Nat → Bool} : ∀ (k n : Nat), (∀ m, n ≤ m → m < n + k → ok m = false) →
    State.firstNat ok k n = none
  | 0, _, _ => rfl
  | k + 1, n, h => by
    unfold State.firstNat
    rw [if_neg (by rw [h n (Nat.le_refl n) (by omega)]; decide)]
    exact firstNat_none k (n + 1) fun m a b => h m (by omega) (by omega)
/-- What the pages of `full n` are. -/
def FullPage (n k : Nat) (g : Page) : Prop :=
  g.demoting = none ∧ g.stored = 0 ∧ g.nodem = false ∧ g.hold = false ∧ g.home = 0 ∧ (k = 0 → 0 < n → g.pin = 0)
    ∧ (k < n → g.tier = some 0 ∧ g.frame = k ∧ (k ≠ 0 → g.pin = 1)) ∧ (k = n → g.tier = some 1)
theorem full_pages {n : Nat} (f : 0 < n) :
    (∀ x ∈ (full n).pages, FullPage n x.1 x.2) ∧ ∀ k, k ∈ (full n).pages.map (·.1) ↔ k ≤ n := by
  constructor
  · intro x hx
    simp only [full, List.cons_append, List.mem_cons, List.mem_append, List.mem_map, List.mem_range, List.not_mem_nil,
      or_false] at hx
    rcases hx with rfl | ⟨i, hi, rfl⟩ | rfl
    · exact ⟨rfl, rfl, rfl, rfl, rfl, fun _ _ => rfl, fun _ => ⟨rfl, rfl, fun h => absurd rfl h⟩,
        fun h => absurd h (by dsimp; omega)⟩
    · exact ⟨rfl, rfl, rfl, rfl, rfl, fun h => absurd h (by dsimp; omega), fun _ => ⟨rfl, rfl, fun _ => rfl⟩,
        fun h => absurd h (by dsimp; omega)⟩
    · exact ⟨rfl, rfl, rfl, rfl, rfl, fun _ _ => rfl, fun h => absurd h (by dsimp; omega), fun _ => rfl⟩
  · intro k
    simp only [full, List.cons_append, List.map_cons, List.map_append, List.map_map, List.mem_cons, List.mem_append,
      List.mem_map, List.mem_range, Function.comp, List.map_nil, List.not_mem_nil, or_false]
    constructor
    · rintro (rfl | ⟨i, hi, rfl⟩ | rfl) <;> omega
    · intro h
      by_cases a : k = 0
      · exact .inl a
      · by_cases b : k = n
        · exact .inr (.inr b)
        · exact .inr (.inl ⟨k - 1, by omega, by omega⟩)
theorem full_page {n k : Nat} (f : 0 < n) (h : k ≤ n) : FullPage n k ((full n).page k) := by
  obtain ⟨v, e, p⟩ := look_of_mem (full_pages f).1 (((full_pages f).2 k).2 h)
  unfold State.page
  rw [e]
  exact p
theorem mem_pagesIn_full {n : Nat} {t : BitVec 2} {k : Nat} (f : 0 < n) (c : n < 2 ^ 32) :
    k ∈ (full n).pagesIn 0 t ↔ t = 0 ∧ k < n ∨ t = 1 ∧ k = n := by
  have key : ∀ x ∈ (full n).pages, x.1 ≤ n := fun x hx => ((full_pages f).2 _).1 (List.mem_map_of_mem hx)
  have chip : ∀ k, k ≤ n → k / 2 ^ 32 = 0 := fun k h => Nat.div_eq_of_lt (by omega)
  simp only [State.pagesIn, List.mem_map, List.mem_filter, Bool.and_eq_true, beq_iff_eq]
  constructor
  · rintro ⟨x, ⟨hx, -, ht⟩, rfl⟩
    have p := (full_pages f).1 x hx
    rcases Nat.lt_or_eq_of_le (key x hx) with a | a
    · exact .inl ⟨by rw [(p.2.2.2.2.2.2.1 a).1] at ht; exact (Option.some.inj ht).symm, a⟩
    · exact .inr ⟨by rw [p.2.2.2.2.2.2.2 a] at ht; exact (Option.some.inj ht).symm, a⟩
  · rintro (⟨rfl, h⟩ | ⟨rfl, h⟩)
    · obtain ⟨x, hx, rfl⟩ := List.mem_map.1 (((full_pages f).2 k).2 (Nat.le_of_lt h))
      exact ⟨x, ⟨hx, chip _ (key x hx), by rw [(((full_pages f).1 x hx).2.2.2.2.2.2.1 h).1]⟩, rfl⟩
    · obtain ⟨x, hx, rfl⟩ := List.mem_map.1 (((full_pages f).2 k).2 (Nat.le_of_eq h))
      exact ⟨x, ⟨hx, chip _ (key x hx), by rw [((full_pages f).1 x hx).2.2.2.2.2.2.2 h]⟩, rfl⟩
theorem foldl_zero : ∀ (l : List Nat), (∀ x ∈ l, x = 0) → l.foldl (· + ·) 0 = 0
  | [], _ => rfl
  | x :: l, h => by
    rw [List.foldl_cons, h x (List.mem_cons_self ..)]
    exact foldl_zero l fun y hy => h y (List.mem_cons_of_mem _ hy)
theorem full_room {n : Nat} (f : 0 < n) (c : n < 2 ^ 32) : (full n).tierRoom 0 1 = true := by
  have sum : (((full n).pagesIn 0 1).map fun p => ((full n).page p).stored).foldl (· + ·) 0 = 0 :=
    foldl_zero _ fun x hx => by
      obtain ⟨k, hk, rfl⟩ := List.mem_map.1 hx
      rcases (mem_pagesIn_full f c).1 hk with ⟨h, -⟩ | ⟨-, rfl⟩
      · exact absurd h (by decide)
      · exact (full_page f (Nat.le_refl _)).2.1
  have none : ((full n).pages.filter fun p => p.1 / 2 ^ 32 == 0 && p.2.demoting == some 1) = [] :=
    List.filter_eq_nil_iff.2 fun x hx => by rw [((full_pages f).1 x hx).1]; simp
  unfold State.tierRoom
  rw [sum, none]
  have bytes : (full n).tierBytes 0 1 = State.reset.tierBytes 0 1 := rfl
  have fits : 0 + 65536 * 0 + 65536 ≤ State.reset.tierBytes 0 1 := by decide
  rw [bytes, List.length_nil, decide_eq_true fits]
  rfl
theorem full_demotable {n k : Nat} (f : 0 < n) (c : n < 2 ^ 32) (h : k < n) :
    (full n).demotable k = decide (k = 0) := by
  obtain ⟨dem, -, nodem, hold, home, zero, here, -⟩ := full_page f (Nat.le_of_lt h)
  have ch : k / 2 ^ 32 = 0 := Nat.div_eq_of_lt (by omega)
  have tier : ((full n).demotionTier k).isSome = true := by
    have room : (full n).tierRoom 0 1#2 = true := full_room f c
    unfold State.demotionTier
    rw [ch, home]
    simp [room]
  have flight : (full n).inFlight k = false := rfl
  unfold State.demotable
  simp only [dem, nodem, hold, (here h).1, tier, flight]
  by_cases e : k = 0
  · simp [e ▸ zero e f, e]
  · simp [(here h).2.2 e, e]
theorem foldl_same {s : State} : ∀ (l : List Nat), (∀ x ∈ l, x = 0) → l.foldl (fun best p => match best with
      | none => some p
      | some b => if (s.page p).lru < (s.page b).lru then some p else some b) (some 0) = some 0
  | [], _ => rfl
  | x :: l, h => by
    rw [List.foldl_cons, h x (List.mem_cons_self ..)]
    simp only [Nat.lt_irrefl, if_false]
    exact foldl_same l fun y hy => h y (List.mem_cons_of_mem _ hy)
theorem full_victim {n : Nat} (f : 0 < n) (c : n < 2 ^ 32) : (full n).victim 0 = some 0 := by
  have only : ∀ x ∈ ((full n).pagesIn 0 0).filter (full n).demotable, x = 0 := fun x hx => by
    obtain ⟨a, b⟩ := List.mem_filter.1 hx
    rcases (mem_pagesIn_full f c).1 a with ⟨-, h⟩ | ⟨h, -⟩
    · rw [full_demotable f c h] at b; exact of_decide_eq_true b
    · exact absurd h (by decide)
  have some_ : 0 ∈ ((full n).pagesIn 0 0).filter (full n).demotable :=
    List.mem_filter.2 ⟨(mem_pagesIn_full f c).2 (.inl ⟨rfl, f⟩), by rw [full_demotable f c f]; rfl⟩
  unfold State.victim
  generalize ((full n).pagesIn 0 0).filter (full n).demotable = l at only some_
  cases l with
  | nil => exact absurd some_ (List.not_mem_nil)
  | cons x l =>
    rw [List.foldl_cons, only x (List.mem_cons_self ..)]
    exact foldl_same l fun y hy => only y (List.mem_cons_of_mem _ hy)
theorem test_demote_premise : (full State.frames).touching 0 = none ∧ (full State.frames).needsFrame 0 = true
    ∧ (full State.frames).victim 0 = some 0 := by
  have f : 0 < State.frames := by decide
  have c : State.frames < 2 ^ 32 := by decide
  refine ⟨rfl, ?_, full_victim f c⟩
  have taken : (full State.frames).frameFree 0 = false := by
    unfold State.frameFree State.freeFrame
    rw [firstNat_none State.frames 0 fun m _ h => ?_]; · rfl
    have m0 : m ∈ ((full State.frames).pagesIn 0 0).map fun p => ((full State.frames).page p).frame := by
      have h : m < State.frames := by omega
      exact List.mem_map.2 ⟨m, (mem_pagesIn_full f c).2 (.inl ⟨rfl, h⟩), ((full_page f (Nat.le_of_lt h)).2.2.2.2.2.2.1 h).2.1⟩
    rw [List.contains_iff_mem.2 m0]; rfl
  unfold State.needsFrame
  rw [taken, Bool.not_false, Bool.true_and, List.any_eq_true]
  refine ⟨(State.frames, { Page.reset with tier := some 1, incoming := true }), ?_, ?_⟩
  · exact List.mem_append_right _ (List.mem_singleton.2 rfl)
  · rw [Nat.div_eq_of_lt c]; rfl
/-- A chip with a page whose first granule lies in a fenced bank. -/
noncomputable def touched : State := { resident with
  hbm := [((State.granuleRow 0 0 0).stack, { (State.reset.stack 0) with
    banks := [((State.granuleRow 0 0 0).bank, ⟨0, false, false, true, 0⟩)] })] }
theorem test_touching_premise : touched.touching 0 = some 2 := by
  have any : (touched.hbm.any fun x => x.1 / 8 == 0 && x.2.banks.any fun b => b.2.fenced) = true := by
    have : (State.granuleRow 0 0 0).stack / 8 = 0 := Nat.div_eq_of_lt (by unfold State.granuleRow; dsimp only; omega)
    simp [touched, this]
  have row : touched.fencedBank (State.granuleRow 0 0 0) = true := by
    simp [State.fencedBank, State.stack, touched, Table.look]
  have frame : touched.fencedFrame 0 0 = true := by
    unfold State.fencedFrame
    rw [any, Bool.true_and, List.any_eq_true]
    exact ⟨0, List.mem_range.2 (by decide), row⟩
  unfold State.touching
  rw [if_pos any]
  have pages : touched.pagesIn 0 0 = [2] := rfl
  have zero : (touched.page 2).frame = 0 := rfl
  have flight : touched.inFlight 2 = false := rfl
  rw [pages, List.find?_cons_of_pos]
  rw [zero, frame, flight]; rfl
/-- Frame 1 of that chip is the one its page may take, where no granule of it lies in the fenced bank. -/
theorem test_touching_free (h : ∀ g < 32, touched.fencedBank (State.granuleRow 0 1 g) = false) :
    touched.freeFrame 0 = some 1 := by
  have frame : touched.fencedFrame 0 1 = false := by
    unfold State.fencedFrame
    rw [Bool.and_eq_false_iff]
    exact .inr (List.any_eq_false.2 fun g m => by rw [h g (List.mem_range.1 m)]; decide)
  have used : ((touched.pagesIn 0 0).map fun p => (touched.page p).frame) = [0] := rfl
  unfold State.freeFrame
  rw [used, show State.frames = (State.frames - 2) + 1 + 1 by decide]
  unfold State.firstNat State.firstNat
  simp [frame]
/-- A chip all of whose banks are fenced, its one page pinned. -/
def fencedOff : State := { State.reset with
  pages := [(2, { Page.reset with tier := some 0, pin := 1 })]
  hbm := (List.range 8).map fun k => (k, { (State.reset.stack 0) with
    banks := (List.range stackBanks).map fun b => (b, ⟨0, false, false, true, 0⟩) }) }
theorem test_touching_full : fencedOff.touching 0 = some 2 ∧ fencedOff.freeFrame 0 = none ∧ fencedOff.evictPage 0 = none := by
  have any : (fencedOff.hbm.any fun x => x.1 / 8 == 0 && x.2.banks.any fun b => b.2.fenced) = true := by
    rw [List.any_eq_true]
    exact ⟨_, List.mem_map.2 ⟨0, List.mem_range.2 (by decide), rfl⟩, by
      rw [Bool.and_eq_true, List.any_eq_true]
      exact ⟨rfl, _, List.mem_map.2 ⟨0, List.mem_range.2 (by decide), rfl⟩, rfl⟩⟩
  have bank : ∀ r : DramRow, r.stack < 8 → r.bank < stackBanks → fencedOff.fencedBank r = true := fun r a b => by
    obtain ⟨v, e, rfl⟩ := look_of_mem (t := fencedOff.hbm) (k := r.stack)
      (P := fun _ v => v = { (State.reset.stack 0) with
        banks := (List.range stackBanks).map fun b => (b, ⟨0, false, false, true, 0⟩) })
      (fun x m => by obtain ⟨i, -, rfl⟩ := List.mem_map.1 m; rfl)
      (List.mem_map.2 ⟨_, List.mem_map.2 ⟨r.stack, List.mem_range.2 a, rfl⟩, rfl⟩)
    obtain ⟨w, f, rfl⟩ := look_of_mem (t := (List.range stackBanks).map fun b => (b, (⟨0, false, false, true, 0⟩ : Bank4)))
      (k := r.bank) (P := fun _ v => v = ⟨0, false, false, true, 0⟩)
      (fun x m => by obtain ⟨i, -, rfl⟩ := List.mem_map.1 m; rfl)
      (List.mem_map.2 ⟨_, List.mem_map.2 ⟨r.bank, List.mem_range.2 b, rfl⟩, rfl⟩)
    unfold State.fencedBank State.stack
    rw [e]
    simp only [Option.getD_some]
    rw [f]
    rfl
  have frame : ∀ f, fencedOff.fencedFrame 0 f = true := fun f => by
    unfold State.fencedFrame
    rw [any, Bool.true_and, List.any_eq_true]
    refine ⟨0, List.mem_range.2 (by decide), bank _ ?_ ?_⟩ <;> unfold State.granuleRow <;> dsimp only
    · omega
    · exact Nat.mod_lt _ (by decide)
  have none_ : fencedOff.freeFrame 0 = none := by
    unfold State.freeFrame
    exact firstNat_none State.frames 0 fun m _ _ => by rw [frame m, Bool.not_true, Bool.and_false]
  have pages : fencedOff.pagesIn 0 0 = [2] := rfl
  have flight : fencedOff.inFlight 2 = false := rfl
  refine ⟨?_, none_, rfl⟩
  unfold State.touching
  rw [if_pos any, pages, List.find?_cons_of_pos]
  rw [frame, flight]; rfl
/-- Pages of chip 0: one that may be on its way down, and held, and one on its way in. -/
def paged (tier : BitVec 2) (hold : Bool) (demoting : Option (BitVec 2)) : State := { State.reset with
  pages := [(2, { Page.reset with tier := some 0, hold := hold, lru := 3, demoting := demoting }),
            (3, { Page.reset with tier := some tier, lru := 4, incoming := true, flags := [(0, 0, 0, 1)], waiters := [0] })] }
theorem test_demotion_premise : (paged 1 false (some 1)).finishable 2 = true ∧ ((paged 1 false (some 1)).page 2).demoting = some 1
    ∧ (paged 1 false none).finishable 2 = false ∧ ((paged 1 false (some 1)).page 2).comp = 0 := by decide +kernel
theorem test_incoming_premise : ∀ n ∈ [1, 2], let s := paged (BitVec.ofNat 2 n) false none
    s.pageUnderWay 3 = true ∧ (s.page 3).tier = some (BitVec.ofNat 2 n) ∧ s.frameFree 0 = true := by decide +kernel
theorem test_hold_premise : ((paged 1 true none).page 2).hold = true
    ∧ (paged 1 true none).passed ((paged 1 true none).page 2).since < 64000
    ∧ 64000 ≤ ({ paged 1 true none with now := 64000 } : State).passed ((paged 1 true none).page 2).since := by decide +kernel
/-- A range entry for 0x2_0000 of context 5, or none, with a core that waits for its walk. -/
def walked (count : Nat) : State := { stateOf (coreWith []) with
  mem := Memory.writes (Memory.writes [] 0x3140 (toBytes 8 (2 ^ 63 + 0x3800 + count))) 0x3800
    (toBytes 8 (2 ^ 63 + 0x20000) ++ toBytes 8 0x20000 ++ toBytes 8 0 ++ toBytes 8 0xF8)
  parts := [(0, { Partition.reset with state := .resident, pgran := 1, ctxtab := 0x3006 })]
  walks := [⟨4, 0, 0, .group, 0, 5, 2, none⟩, ⟨6, 0, 0, .group, 0, 5, 2, none⟩] }
theorem test_walk_premise : ((walked 1).walks.find? fun x => x.id == 4) = some ⟨4, 0, 0, .group, 0, 5, 2, none⟩
    ∧ ((walked 1).walking 0).contains (0, 5, 2) = true ∧ (walked 1).walkAbsent 0 5 (2 * 65536) = none
    ∧ (walked 0).walkAbsent 0 5 (2 * 65536) = none
    ∧ (match (walked 1).walk 0 5 (2 * 65536) with
      | .ok e => e == ⟨0, 5, 0x20000, 0x2FFFF, 0, 0xF8, false, []⟩ && e.covers 0 5 (2 * 65536)
      | .error _ => false) = true
    ∧ (match (walked 0).walk 0 5 (2 * 65536) with
      | .ok _ => false
      | .error n => n == kNomap) = true
    ∧ (walked 0).partOf 0 = 0 ∧ ((walked 0).core 0).ctx = 5 := by decide +kernel

/-- RingAndFabricEvents: a ring of a mode over two slots of eight words at 0x1000 of core 0 and at 0x2_0000. -/
def ringOf (mode : Nat) : Ring :=
  ⟨0, 0, 0, 7, 0, 5, false, #v[0x20000, BitVec.ofNat 64 (0x1000 + 2 ^ 20 + 2 * 2 ^ 32 + mode * 2 ^ 40), 0, 0],
    0, [], [], 1, none, none, true, false⟩
/-- The machine with that ring, its home words full or empty, and a MODE 3 ring of core 0 that feeds it with the slot it
holds. -/
def ringed (full : Bool) (r : Ring) : State :=
  let words := (List.range 16).foldl (fun (r : Arch) i => r.setWord (0x200 + i) ⟨BitVec.ofNat 64 i, full, false⟩) (coreWith []).r
  { stateOf { coreWith [] with r := words } with
    rings := [(0, r), (1, { r with
      index := 1, desc := #v[0, 0x30102001000, 0, 0], peer := some 0, ext := []
      flights := [⟨0, none, false, (List.range 8).map fun i => (i, .held 5 true), false⟩] })] }
/-- The only step that the ring's feeder or puller can take, with its feeder. -/
noncomputable def onlyStep (s : State) (r : Ring) (x : RingAct) : Bool :=
  s.ring? (ringKey 0 0) == some r && (if r.mode < 2 then s.landActs 0 r == [x] else s.drainActs r == [x])
    && s.inImage r.part r.core == false && r.closing.isNone
theorem test_ring_start_premise : ∀ b ∈ [true, false],
    onlyStep (ringed b (ringOf 0)) (ringOf 0) .start = true ∧ onlyStep (ringed b (ringOf 1)) (ringOf 1) .start = true
    ∧ ((ringed b (ringOf 1)).feeder 0).isSome = true ∧ onlyStep (ringed true (ringOf 2)) (ringOf 2) .start = true
    ∧ (ringed true (ringOf 2)).nextOut (ringOf 2) = some 0 := by decide +kernel
/-- A ring with one slot in flight, of which one word is left. -/
def flown (mode : Nat) (ext : Bool) (w : WordAt) : Ring :=
  { ringOf mode with started := false, flights := [⟨0, none, ext, [(3, w)], false⟩] }
/-- The pieces to which a ring's word maps, when the feeder or puller may read or write them. -/
noncomputable def wordMeets (s : State) (r : Ring) (f : Flight) (j : Nat) (need : Need) : Option (List (Target × Nat)) :=
  let rs := Sys2Proof.Machine.runs (r.slotVA f.slot + 8 * j) 8
  let p := s.planFor r.core r.owner need [] rs
  let ts := p.pieces.map fun x => (x.target, x.len)
  if s.seekRuns r.core (.ring 0) r.owner [] rs == none && p.fault.isNone && s.absentIn p.pieces == []
    && s.ringFree r ts (need == .store) && p.pieces.all (fun x => s.pathTo r.core x.target)
    && (s.refusedIn p.pieces).isNone then some ts else none
theorem test_ring_read_premise : ∀ m ∈ [0, 2], let r := flown m false .unread
    let s := ringed true r
    onlyStep s r (.read 0 3) = true
    ∧ wordMeets s r ⟨0, none, false, [(3, .unread)], false⟩ 3 .load = some [(.mem 0x20018, 8)]
    ∧ s.ringFree r [(.spad r.core (8 * r.wordOf 0 3), 8)] false = true := by decide +kernel
theorem test_ring_put_premise : let r := flown 0 false (.held 9 true)
    onlyStep (ringed false r) r (.put 0 3) = true
    ∧ (ringed false r).ringFree r [(.spad r.core (8 * r.wordOf 0 3), 8)] true = true
    ∧ (ringed false r).pathTo r.core (.spad r.core (8 * r.wordOf 0 3)) = true
    ∧ (ringed false r).refusedAt r.ns (.spad r.core (8 * r.wordOf 0 3)) = false
    ∧ onlyStep (ringed false (flown 0 true (.held 9 true))) (flown 0 true (.held 9 true)) (.append 0) = true
    ∧ onlyStep (ringed true (flown 2 false .written)) (flown 2 false .written) (.empty 0 3) = true := by decide +kernel
theorem test_ring_memory_premise : let r := flown 2 false (.held 9 true)
    let s := ringed true r
    let p := s.planFor r.core r.owner .store [] (Sys2Proof.Machine.runs (r.slotVA 0 + 8 * 3) 8)
    onlyStep s r (.put 0 3) = true
    ∧ wordMeets s r ⟨0, none, false, [(3, .held 9 true)], false⟩ 3 .store = some [(.mem 0x20018, 8)]
    ∧ (match s.readyPages p.pieces with
      | .ok u => (u.refusedIn p.pieces).isNone
      | _ => false) = true := by decide +kernel
theorem test_extension_premise : let r := { ringOf 0 with next := 1, ext := [List.replicate 8 (9, false)] }
    let s := ringed false r
    s.isOut r.part = false ∧ s.slotEmpty r (s.extHead 0 r) = true ∧ s.homeQuiet 0 r (s.extHead 0 r) = true := by
  decide +kernel
/-- The one core of a crew has waited 4096 cycles at a `ste` on a word of a full ring that holds a slot back. -/
def stalled (cap : Nat) : State :=
  let r := { ringOf 0 with extCap := 0 }
  let s := ringed true r
  { s.setCore 0 { (s.core 0).setS 1 (known 0x0100000000001000) with waited := 4096 } with
    clusters := [(0, { Cluster.reset with stalls := [(0, 0)] })]
    rings := [(0, r)] ++ if cap = 0 then [] else [(5, { r with crew := 1, extCap := cap })]
    mem := Memory.writes [] 0x10000 (toBytes 4 0x04800000 ++ toBytes 4 0x0500C100) }
theorem test_stalled_premise : ∀ n ∈ [0, 2 ^ 17], let s := stalled n
    let r := { ringOf 0 with extCap := 0 }
    (s.clusterRings 0).filter (fun x => x.2.crew.toNat == r.crew.toNat) = [(0, r)]
    ∧ s.heldBack 0 r = true ∧ s.stillNow 0 r.part r.crew.toNat = true
    ∧ Table.look (s.cluster 0).stalls (State.crewKey r.part r.crew.toNat) = some 0
    ∧ 0 + 4096 ≤ s.leastWait r.part r.crew.toNat
    ∧ decide (State.poolBytes < s.poolUsed 0 + (r.nslot + r.extCap) * r.slotBytes) = decide (n ≠ 0)
    ∧ (s.core 0).pendK.length < 16 ∧ s.inImage 0 0 = false := by decide +kernel
/-- A link that has replayed 64 flits, trains, and heads that are blocked; the token with or without. -/
def fabricked (token : Option Nat) : State := { State.reset with now := BitVec.allOnes 48, fabric := [(6, { (State.reset.fab 6) with
  replays := [(0, 64), (1, 63)], training := 4, suspects := [147], blocked := [(147, 3, 2048), (148, 9, 2047)], token := token })] }
theorem test_fabric_premise : isLink 6 255 = true ∧ isLink 5 22 = true ∧ isLink 4 2 = true ∧ isLink 6 0 = true
    ∧ ((fabricked none).fab 6).failed.getLsbD 0 = false ∧ 64 ≤ (Table.look ((fabricked none).fab 6).replays 0).getD 0
    ∧ (Table.look ((fabricked none).fab 6).replays 1).getD 0 < 64 ∧ ((fabricked none).fab 6).training.getLsbD 2 = true
    ∧ ((fabricked (some 0)).fab 6).token ≠ none ∧ ((fabricked (some 0)).fab 6).oldest 9 = some 147
    ∧ ((fabricked none).fab 6).token = none ∧ isCore 129 = true ∧ 98303 < 98304 := by decide +kernel
theorem test_token_premise : 4 * (Config.ringTrip 6).toNat ≤ (fabricked none).passed ((fabricked none).fab 6).passed := by
  have h : (fabricked none).passed ((fabricked none).fab 6).passed = 2 ^ 48 - 1 := by decide +kernel
  have := (Config.ringTrip 6).isLt
  omega

/-- A message, a decrement and a launch's record for the queue of `queued`. -/
def arriving : State := { queued (coreWith []) [] with
  recs := [⟨4, 0, 3, Vector.replicate 8 0, false⟩, ⟨5, 0, 3, (Vector.replicate 8 0).set 0 (2 ^ 57), false⟩]
  decs := [⟨6, 0, ownVA, 0, false, 0, 0⟩] }
/-- SchedulerEvents: a record that is valid and one that is not, a queue that is valid and one that is not, and room. -/
theorem test_record_premise : (arriving.recs.find? fun x => x.id == 4) = some ⟨4, 0, 3, Vector.replicate 8 0, false⟩
    ∧ arriving.validRecord 0 (Vector.replicate 8 0) = true ∧ arriving.queueV 0 3 = true ∧ arriving.queueV 0 4 = false
    ∧ arriving.validRecord 0 ((Vector.replicate 8 0).set 0 (2 ^ 57)) = false ∧ arriving.overflowed 0 3 = 0
    ∧ arriving.storeUsed 0 < 4096 ∧ arriving.isOut (arriving.queuePart 0 3) = false ∧ recState (Vector.replicate 8 0) = 0 := by
  decide +kernel
theorem test_window_premise : windowOf 0x3000400000C0 = some (0, 3, 0) ∧ windowOf 0x3000400000C8 = some (0, 3, 8)
    ∧ windowOf 0x30004027FFC0 = some (9, 4095, 0) := by decide +kernel
/-- A join word at 0x1000 of core 0 with a count, which names the record at word 0x208. -/
def joined (n : Nat) : State := arriving.setCore 0 { arriving.me with
  r := arriving.me.r.setWord 0x200 ⟨BitVec.ofNat 64 (n * 2 ^ 48 + 3 * 2 ^ 17 + 0x208), true, false⟩ }
theorem test_join_premise : ∀ n ∈ [0, 1, 2], let s := joined n
    (s.decs.find? fun x => x.id == 6) = some ⟨6, 0, ownVA, 0, false, 0, 0⟩ ∧ s.performedBefore 0 0 0 5 = true
    ∧ bitsOf (field ((s.core 0).r.word 0x200).data 0 48) 40 8 = 0 ∧ 0x208 % 8 = 0 ∧ field ownVA 56 8 = 1 ∧ ownVA.toNat % 8 = 0
    ∧ s.window 0 ownVA 8 = some (0, 0x1000) ∧ s.inImage 0 0 = false ∧ ((s.core 0).r.word 0x200).poison = false
    ∧ field ((s.core 0).r.word 0x200).data 48 16 = n
    ∧ spadName (field ((s.core 0).r.word 0x200).data 0 48) = some (0, 0x208) ∧ s.member 0 0 = true
    ∧ 0 ≤ (s.coreOf 0 0).ord ∧ s.path 0 (dieOfCluster 0) 0 (dieOf 0) = true ∧ s.pathTo 0 (.spad 0 0) = true := by decide +kernel
/-- A store with records in the overflow ring, the oldest of them in hand. -/
def overflow : List Rec :=
  [{ record with uid := 20, state := .overflow 0 }, { record with uid := 21, state := .overflow 1, age := 2 }]
theorem test_fill_premise : let q := queued (coreWith []) overflow
    let s := { q with pages := [(0, { Page.reset with tier := some 0 })] }
    s.overflowing 0 = [3] ∧ s.storeUsed 0 ≤ 3840 ∧ s.storeUsed 0 ≤ 4032
    ∧ oldest ((s.cluster 0).store.filter fun x => x.queue == 3 && x.place.isSome)
      = some { record with uid := 20, state := .overflow 0 }
    ∧ ({ record with uid := 20, state := .overflow 0 } : Rec).place = some 0
    ∧ s.absentPage (s.overflowAt 0 3 0) 64 = none ∧ s.editing 0 = false ∧ s.edits = [] ∧ (s.memData (s.overflowAt 0 3 0) 64).any (·.2) = false
    ∧ recState (wordsOf (s.memData (s.overflowAt 0 3 0) 64)) ≠ 1 := by decide +kernel
/-- A store past its mark, and one that is full. -/
theorem test_spill_premise : ∀ n ∈ [4033, 4096],
    let q := queued (coreWith []) (List.replicate n { record with state := .parked })
    let s := { q with pages := [(0, { Page.reset with tier := some 0 })] }
    4032 < s.storeUsed 0 ∧ s.storeUsed 0 ≤ 4096
    ∧ (s.page (pageOf (s.overflowAt 0 3 0))).tier = some 0 := by decide +kernel
/-- A ready record and an idle core. -/
def dispatching : State := { queued { coreWith [] with blk := none } [{ record with
  words := #v[0x10100, 0, 0xFFFFFFFFFFFF0000, 2 ^ 32 * 99 + 0x55, 4, 0, 6, 7] }] with
  parts := [(0, { Partition.reset with state := .resident, pgran := 1 })] }
theorem test_dispatch_premise : isCore 0 = true ∧ dispatching.idle 0 = true ∧ (dispatching.pick 0).isSome = true
    ∧ ((dispatching.pick 0).map fun p => recTagged p.1.words) = some false
    ∧ ((dispatching.pick 0).map fun p => dispatching.dispatchNeeds (dispatching.queuePart 0 p.1.queue)
      (dispatching.queueCtx 0 p.1.queue) p.1.words) = some none := by decide +kernel

/-- A launch of partition 0 with one record to place, and one with a shape word at word 0x200 of core 0. -/
def launch : Launch := ⟨9, 0, 0, 0, none, 0, 5, false, 1, 0, (2, 2, 1), (2, 1, 1), 1, 0x10000, 0, 0, 0, 0, some (0, 0x200), true,
  [(3, Vector.replicate 8 0), (5, Vector.replicate 8 0)], false, false, false, []⟩
def launching (full : Bool) (retract : List W64) : State :=
  let s := queued (coreWith []) []
  { s.setCore 0 { s.me with r := s.me.r.setWord 0x200 ⟨2 + 2 ^ 16 * 2 + 2 ^ 28 * 1, full, false⟩ } with
    launches := [{ launch with retract := retract }] }
/-- LaunchAndOrreryEvents: the first record's queue valid, and the second's not. -/
theorem test_launch_premise : let s := launching true []
    launch.pending.find? (fun y => y.1 / 4096 == 0) = some (3, Vector.replicate 8 0) ∧ s.queueV 0 3 = true
    ∧ s.queueV 0 5 = false ∧ s.overflowed 0 3 = 0 ∧ s.isOut (s.queuePart 0 3) = false
    ∧ wordFull s launch = true ∧ wordFull (launching false []) launch = false
    ∧ blocksRemain (launching true [3]) { launch with retract := [3] } = false ∧ s.hbm = [] ∧ launch.crew ≠ 0
    ∧ s.edits = [] ∧ s.dying = []
    ∧ (({ s with pages := [(0, { Page.reset with tier := some 0 })] } : State).page (pageOf (s.crewMA 0 1 + 8))).tier = some 0 := by
  decide +kernel
/-- A crew entry in use with no live block, and one with one. -/
def crewed (live : Nat) : State := { queued (coreWith []) [] with
  parts := [(0, { Partition.reset with state := .resident, pgran := 1, crewcfg := BitVec.ofNat 64 (4 + 2 ^ 40 * 8) })]
  mem := Memory.writes [] 0x40028 (toBytes 8 (1 + live * 2 ^ 32)) }
theorem test_crew_premise : crewDone (crewed 0) 0 1 = true ∧ crewDone (crewed 1) 0 1 = false := by decide +kernel
/-- A cluster's orrery at rest, its table at 0x3000 or outside memory, and one that runs with a node of a kind. -/
def orrery (base run : Nat) (kind pending waiting : Nat) : State := { queued (coreWith []) [] with
  clusters := [(0, { Cluster.reset with
    orrbase := BitVec.ofNat 64 base, orrctl := BitVec.ofNat 64 (run * 2 ^ 62), signals := [0, 7, 0]
    nodes := [⟨#v[BitVec.ofNat 64 (kind * 2 ^ 60 + 2 * 2 ^ 32 + 3 * 2 ^ 20 + 5), ownVA, 2, 0, 0, 0, 0, 0], pending, waiting⟩] })] }
theorem test_orrery_premise : let s := orrery 0x3000 0 1 0 0
    field (s.cluster 0).orrctl 62 2 ≠ 1 ∧ s.absentPage 0x3000 64 = none ∧ (s.nodeTable 0 0x3000 1).isSome = true
    ∧ ((orrery 0x380000000000 0 1 0 0).nodeTable 0 0x380000000000 1).isNone = true
    ∧ (orrery 0x380000000000 0 1 0 0).absentPage 0x380000000000 64 = none
    ∧ (∀ r ∈ [0, 1], ∀ l ∈ [[], [(0, 1)]],
      let u := { orrery 0x3000 r 1 0 0 with pages := [(0, { Page.reset with tier := some 1 })] }
      let z := { u.cluster 0 with olost := l, nodes := [] }
      (u.setCluster 0 z).absentPage 0x3000 64 = some 0 ∧ field ((u.setCluster 0 z).cluster 0).orrctl 62 2 = r
      ∧ z.olost.any (fun x => x.1 == 0) = !l.isEmpty) := by
  decide +kernel
theorem test_node_premise : ∀ k ∈ [1, 4, 5], ∀ p ∈ [1, 2], let s := orrery 0x3000 1 k p (k / 4)
    field (s.cluster 0).orrctl 62 2 = 1 ∧ 0 ∈ (s.cluster 0).signals ∧ (s.cluster 0).nodes[7]? = none
    ∧ 7 ∈ (s.cluster 0).signals
    ∧ (((s.cluster 0).nodes[0]?).map fun n => (field n.words[0] 60 4, n.pending, n.waiting)) = some (k, p, k / 4) := by
  decide +kernel
theorem test_index_premise : ∀ b ∈ [true, false],
    let s0 := orrery 0x3000 1 4 1 2
    let s := s0.setCore 0 { s0.me with r := s0.me.r.setWord 0x200 ⟨1, b, false⟩ }
    s.window 0 ownVA 8 = some (0, 0x1000) ∧ field ownVA 57 7 = 0 ∧ bit ownVA 56 = true
    ∧ ((s.core 0).r.word 0x200).full = b ∧ ((s.core 0).r.word 0x200).data.toNat < field (2 : W64) 0 5
    ∧ ((graphOwner s 0 0).ns && s.secureCluster 0) = false ∧ s.inImage (graphOwner s 0 0).part 0 = false
    ∧ s.promised (graphOwner s 0 0).part (orreryAgent 0) 0 0 [(.spad 0 0x1000, 8)] true = false := by decide +kernel

/-! ## Premises of the statements: the pipeline, partitions and a module -/

/-- The almanac of the worked examples of R386 and R389: 302 tokens, four merges, BOUND of 0x20 alone, a pool of the
256 bytes and then 61 62 61 20 61 62 78 E2 82 AC 21. -/
def image : List Byte :=
  let n := fun (x : Nat) => toBytes 4 x
  let pool := 1152 + 8 * 302 + 16 * 4
  let place := fun (at_ len : Nat) => n (pool + at_) ++ [BitVec.ofNat 8 len, 0, 0, 0]
  let row := fun (a b c r : Nat) => n a ++ n b ++ n c ++ n r
  n 0x31434C41 ++ n 302 ++ n 4 ++ n 0 ++ toBytes 8 (pool + 267) ++ toBytes 8 0
    ++ toBytes 32 (2 ^ 0x20) ++ toBytes 32 0 ++ toBytes 32 0
    ++ (List.range 256).flatMap n
    ++ (List.range 256).flatMap (fun i => place i 1)
    ++ place 256 2 ++ place 256 3 ++ place 257 2 ++ place 259 3
    ++ (List.range 40).flatMap (fun _ => place 0 0) ++ place 262 2 ++ place 264 3
    ++ row 0x61 0x62 256 0 ++ row 256 0x61 257 1 ++ row 0x62 0x61 258 2 ++ row 0x20 256 259 3
    ++ (List.range 256).map (BitVec.ofNat 8)
    ++ [0x61, 0x62, 0x61, 0x20, 0x61, 0x62, 0x78, 0xE2, 0x82, 0xAC, 0x21]

/-- R386, the worked example: `abab aba`. -/
theorem test_tokenise : tokenise image [0x61, 0x62, 0x61, 0x62, 0x20, 0x61, 0x62, 0x61] = [256, 256, 32, 257] := by
  decide +kernel
/-- R387: the words of that request, whole, cut to four bytes, and of an empty one. -/
theorem test_request_words :
    requestWords image 8 [0x61, 0x62, 0x61, 0x62, 0x20, 0x61, 0x62, 0x61]
      = [(0, 0x100), (1, 0x100), (2, 0x20), (3, 0x8000000000000101)]
    ∧ requestWords image 4 [0x61, 0x62, 0x61, 0x62, 0x20] = [(0, 0x100), (1, 0xC000000000000100)]
    ∧ requestWords image 4 [] = [(0, 0x8000000000000000)] := by decide +kernel

/-- Entry 2 of module 0: port 1, job 9, process 4, queue 3 of cluster 0, rings of 64 words at words 0x200 and 0x300 of
core 0, a limit of 8 bytes. -/
def entry : Vector W64 8 := #v[BitVec.ofNat 64 (2 ^ 63 + 2 ^ 48), BitVec.ofNat 64 (9 * 2 ^ 32 + 4),
  BitVec.ofNat 64 (3 * 2 ^ 40), 0x8000, BitVec.ofNat 64 (63 * 2 ^ 48 + 0x200), BitVec.ofNat 64 (63 * 2 ^ 48 + 0x300), 8, 0]
/-- The bytes of the worked example. -/
def asked : List Byte := [0x61, 0x62, 0x61, 0x62, 0x20, 0x61, 0x62, 0x61]
/-- A module with that entry and almanac, KIN at 40, and a reply word. -/
def served (cur : Option Tokenising) (reply : SpWord) : State :=
  let s := queued (coreWith []) []
  { s.setCore 0 { s.me with r := s.me.r.setWord 0x300 reply } with
    chips := [(0, { Chip.reset with
      almanacs := [(0, ⟨image, 0⟩)]
      endpoints := [(2, { Endpoint.reset with words := entry, kin := 40, waiting := [(7, asked)], asked := [7], cur := cur })] })] }
/-- The request in hand, with its first word landed or not, and the template sent or not. -/
def inHand (landed sent : Bool) : Tokenising := ⟨7, entry, 40, [(0, 0x100), (1, 0x100)], landed, sent, false⟩

/-- PipelineEvents: an entry that serves and one with a reserved bit, and a message that matches and one that does not. -/
theorem test_endpoint_premise : let s := served none ⟨300, true, false⟩
    s.closed 0 = false ∧ (s.endpoint 0 2).v = true ∧ engineFree s 0 = true ∧ badEntry s 0 entry = false ∧ (almanacOf s 0 entry).isSome = true
    ∧ badEntry s 0 (entry.set 6 (2 ^ 24)) = true
    ∧ ((s.chip 0).endpoints.any fun e => e.2.v && field e.2.words[0] 48 3 == 1 && field e.2.words[1] 32 24 == 9
      && field e.2.words[1] 0 12 == 4) = true
    ∧ ((s.chip 0).endpoints.any fun e => e.2.v && field e.2.words[0] 48 3 == 2) = false
    ∧ endpointPart s entry = 0 ∧ s.inImage 0 0 = false ∧ Endpoint.ringOf entry[4] = some (0, 0x200, 64)
    ∧ Endpoint.ringOf entry[5] = some (0, 0x300, 64) ∧ ((s.core 0).r.word 0x300).full = true := by decide +kernel
/-- The worked example of R386 lands at ring words 40 to 43, whichever word comes first. -/
theorem test_request_base : (((stateAfter (exec (.tokeniseRequest 0 2) (served none ⟨0, false, false⟩))).endpoint 0 2).cur.map
    fun t => (t.base, t.words)) = some (40, [(0, 0x100), (1, 0x100), (2, 0x20), (3, 0x8000000000000101)]) := by
  decide +kernel
/-- A template ready to go: its page written, its queue's generation the handle's. -/
def template (landed sent : Bool) : State :=
  let s := served (some (inHand landed sent)) ⟨0, false, false⟩
  { s with pages := [(0, { Page.reset with tier := some 0 })] }
theorem test_template_premise : ∀ b ∈ [true, false], let s := template b false
    badTemplate s 0 (inHand b false) = false ∧ s.present (pageOf (field entry[3] 0 56)) = true ∧ s.queueV 0 3 = true
    ∧ s.queueGen 0 3 = 0 ∧ s.queueNs 0 3 = false ∧ Endpoint.queueOf entry = (0, 3, 0)
    ∧ s.validRecord 0 (templateRecord s (inHand b false) 2) = true ∧ s.overflowed 0 3 = 0 ∧ s.storeUsed 0 < 4096
    ∧ s.isOut (s.queuePart 0 3) = false ∧ recState (templateRecord s (inHand b false) 2) = 0 := by decide +kernel
/-- R388: the record carries KIN of the first word and the endpoint's number. -/
theorem test_template : ((((stateAfter (exec (.templateEnqueue 0 2) (template true false))).cluster 0).store.map
    fun r => (r.words[6], r.words[7]))) = [(40, 2)] := by decide +kernel

/-- The replies and the held bytes after some reply words. -/
def detokenised : List W64 → State
  | [] => served none ⟨0, false, false⟩
  | w :: r =>
    let s := detokenised r
    let e := s.endpoint 0 2
    stateAfter (exec (.detokeniseWord 0 2) (s.setCore 0 { s.core 0 with
      r := (s.core 0).r.setWord (0x300 + e.kout.toNat) ⟨w, true, false⟩ }))
/-- R389, the worked example (the words are listed last first). -/
theorem test_detokenise :
    ((detokenised [300]).endpoint 0 2).sent = [0x78] ∧ ((detokenised [300]).endpoint 0 2).heldBytes = [0xE2]
    ∧ ((detokenised [0x800000000000012D, 300]).endpoint 0 2).replies = [(7, [0x78, 0xE2, 0x82, 0xAC, 0x21])]
    ∧ ((detokenised [0x800000000000012C]).endpoint 0 2).replies = [(7, [0x78, 0xEF, 0xBF, 0xBD])]
    ∧ ((detokenised [0x8000000000000041, 300]).endpoint 0 2).replies = [(7, [0x78, 0xEF, 0xBF, 0xBD, 0x41])]
    ∧ ((detokenised [0xFFFFFFFF]).endpoint 0 2).badid = 1 := by decide +kernel

/-- An ALMLOAD under way of an image at 0x10_0000, or none. -/
def loading (stat : Nat) : State := { State.reset with
  chips := [(0, { Chip.reset with almload := 0x100000, almstat := BitVec.ofNat 64 (stat * 2 ^ 62) })] }
theorem test_almanac_premise : ∀ n ∈ [0, 1], field ((loading n).chip 0).almstat 62 2 = n
    ∧ regionOf 0x100000 = .tiered ∧ absentPages (loading n) 0x100000 (imageLen (loading n) 0 0x100000) = []
    ∧ (loading n).member 0 0 = true ∧ field ((loading n).chip 0).almload 0 56 = 0x100000 := by
  decide +kernel
/-- R385: the merges of the image join the strings of their tokens, and no two share a pair or a rank. -/
theorem test_almanac_merges : goodMerges image = true ∧ distinctMerges (merges image) = true
    ∧ distinctMerges (merges image ++ merges image) = false := by decide +kernel

/-- Core 0 in partition 0 as given, core 1 in none. -/
def parted (x : Partition) (c : Core) : State := { State.reset with cores := [(0, c), (129, Core.reset)], parts := [(0, x)] }
/-- Partition 0 with one granule. -/
def home (st : Residence) (image : Table Core) : Partition := { Partition.reset with state := st, pgran := 1, image := image }
/-- PartitionEvents: each state; room and none; a rival that holds the granule; quiet and not. -/
theorem test_partition_premise :
    (parted (home .resident []) (coreWith [])).roomFor 0 [0] = true
    ∧ (parted (home .resident []) (coreWith [])).calm 0 = true ∧ (home .resident []).releasing = none
    ∧ (parted (home .resident []) (coreWith [])).ringsRemain 0 = false
    ∧ ({ parted (home .resident []) (coreWith []) with rings := [(0, ringOf 0)] } : State).ringsRemain 0 = true
    ∧ ({ parted (home .resident []) (coreWith []) with rings := [(0, ringOf 0)] } : State).calm 0 = true
    ∧ (parted (home .resident []) { coreWith [] with stopped := true }).isOut 0 = false
    ∧ (parted (home .resident []) (coreWith [])).inPart 0 0 = true
    ∧ (parted (home .resident []) (coreWith [])).inPart 0 1300 = false
    ∧ (parted (home .out [(0, coreWith [])]) Core.reset).rivals 0 .resident = []
    ∧ (parted (home .out [(0, coreWith [])]) Core.reset).rivals 0 .comingIn = []
    ∧ (parted (home .comingIn [(0, coreWith [])]) Core.reset).rivals 0 .goingOut = []
    ∧ (∀ w ∈ (coreWith []).wb.toList, refillNeeds (parted (home .comingIn [(0, coreWith [])]) Core.reset) 0 w = [])
    ∧ ((parted (home .comingIn [(0, coreWith [])]) Core.reset).core 0).pageFault = none
    ∧ ({ parted (home .resident []) (coreWith []) with parts := [(0, home .resident []),
        (1, { home .out [] with saved := true }), (2, { home .out [] with saved := true })] } : State).roomFor 0 [0]
      = false := by decide +kernel

/-- PartitionEvents: a module that boots and one whose chain has stopped, a crew table in tier 0, a module that has stopped its
cores by its heat, and a swap-in of a core within its limit of power. -/
theorem test_partition_module_premise :
    (parted (home .resident []) (coreWith [])).closed 0 = false
    ∧ ({ State.reset with chips := [(0, { Chip.reset with boot := { Chip.reset.boot with failed := true } })] } : State).closed 0
      = true
    ∧ (crewed 1).crewPages 0 = [0x40000]
    ∧ (({ crewed 1 with pages := [(4, { Page.reset with tier := some 0 })] } : State).page 4).tier = some 0
    ∧ (∀ b ∈ [true, false],
      (({ State.reset with chips := [(0, { Chip.reset with
        tempstop := true, temps := Vector.replicate 6 (if b then 380 else 379) })] } : State).chip 0).cool = !b)
    ∧ ((parted (home .comingIn [(0, coreWith [])]) Core.reset).core 0).vleft = 0
    ∧ ((parted (home .comingIn [(0, coreWith [])]) Core.reset).core 0).charge = [] := by decide +kernel

/-- A module whose boot, report, temperatures and cap are as given. -/
def module (c : Chip) : State := { State.reset with chips := [(0, c)] }
/-- ModuleEvents: a chain at its first stage; a report under way; throttling, and steps to make good. -/
theorem test_module_premise : (Chip.reset.boot.failed, Chip.reset.boot.stage) = (false, 0)
    ∧ (module { Chip.reset with boot := { Chip.reset.boot with failed := true } }).closed 0 = true
    ∧ (module Chip.reset).closed 0 = false
    ∧ ((module { Chip.reset with attgo := true }).chip 0).attgo = true
    ∧ ((module { Chip.reset with throttle := true }).chip 0).throttle = true
    ∧ max 128 (Chip.reset.climcap.toNat - 696) = 10440 ∧ max 128 (min 11136 (10440 + 696)) = 11136
    ∧ ((module { Chip.reset with lowered := 1, climcap := 10440 }).chip 0).lowered ≠ 0 := by decide +kernel
theorem test_registers_premise : kernelAccess .host = true ∧ kernelAccess .security = true ∧ secureAccess .security = true
    ∧ kernelAccess .engine = false ∧ secureAccess .host = false
    ∧ (((regAt 8).map Reg.secureOnly) = some true) ∧ ((regAt 0x400000).map Reg.secureOnly) = some true
    ∧ (0x200018 < 0x4000000) := by decide +kernel

/-! ## The manual's worked examples -/

/-- R174's group of two bundles: the words of slots A and M, and the tree branch of R185. -/
theorem test_worked_words : decodeSlot .A 0x001003C6 = .ok (.add .A always 0 3 49 true)
    ∧ decodeSlot .C 0x0024D15A = .ok (.brt always 1 3 4 5 6 2)
    ∧ leaf 1 false true false true = 3 ∧ leaf 1 true false false false = 1 := ⟨rfl, rfl, rfl, rfl⟩

/-- R194: groups at positions 2 and 3 after `p3` was written at position 0, counted as one more than that. -/
theorem test_skip_cost : ({ Core.reset with fetch := 2, wrote := (Vector.replicate 16 0).set 3 1 }).skipCost [0x30000000] = 1
    ∧ ({ Core.reset with fetch := 3, wrote := (Vector.replicate 16 0).set 3 1 }).skipCost [0x30000000] = 0
    ∧ ({ Core.reset with fetch := 1, wrote := Vector.replicate 16 1 }).skipCost [0x08000000] = 0 := by decide +kernel

/-- R156: two stochastic conversions of 0x3F80_4000 to BF16 from SRSEED 1. -/
theorem test_stochastic :
    let c := after (exec (.vcvt always 3 1 8 0 false false) (vectors 1 2 10 5 0x3F8040003F804000 0))
    (c.vec 3).bits = 0x3F813F80 ∧ c.r.srseed = 0xC0300002 ∧ c.r.fstat = 0x10 := by decide +kernel
/-- R281: 3.0 and -0.75 packed in MXFP4, and R282: the block unpacked. -/
theorem test_pack : ((after (exec (.vmxpack always 3 1 5 0) (vectors 1 32 10 0 0xBF40000040400000 0))).vec 3).bits
    = BitVec.ofNat 32768 (0xB7 + 0x7E * 2 ^ 128) := by decide +kernel
theorem test_unpack : ((after (exec (.vmxunpack always 3 1 5 0) (vectors 1 32 10 0 (0xB7 + 0x7E * 2 ^ 128) 0))).vec 3).bits
    = 0xBF40000040400000 := by decide +kernel
/-- R172: 2^60, 1 and -2^60 summed in a long accumulator give 1.0 with no flag. -/
theorem test_long_sum : (addPairs [(0x43B0000000000000, 0x3FF0000000000000), (0x3FF0000000000000, 0x3FF0000000000000),
      (0xC3B0000000000000, 0x3FF0000000000000)] ⟨0, false, false, false⟩ 0).1.read 0 = ⟨0x3FF0000000000000, 0⟩ := by
  decide +kernel

/-- R135: the delta step of Fast-Weight State on 2·I. -/
def unit8 (i x : Nat) : List Val := (List.range 8).map fun j => if j = i then (x, false, 0) else Val.zero
theorem test_delta_step :
    let q : Val := (0x3F800000, false, 0)
    headStep 1 (fun _ => (0x3F000000, false, 0)) (0x3E800000, false, 0) ((List.range 8).map fun i => unit8 i 0x40000000)
      [unit8 0 0x3F800000] [unit8 0 0x40C00000] [[q, q] ++ List.replicate 6 Val.zero]
    = ((unit8 0 0x40000000) :: (List.range 7).map fun i => unit8 (i + 1) 0x3F800000,
      [[(0x40000000, false, 0), q] ++ List.replicate 6 Val.zero]) := by decide +kernel

/-- R330, R331: the cut keeps 3 and 5 of weights 1, 1 and 0.135, and r = 1.0 draws 5. -/
def choices : List Candidate := [⟨3, 0x40000000, 0⟩, ⟨5, 0x40000000, 0⟩, ⟨8, 0, 0⟩]
theorem test_weights : (weighSet choices).1.map (·.2) = [0x3F800000, 0x40000000, 0x4008A955] := by decide +kernel
theorem test_cut : (cutAt (f32.value (f32.mul 0 0x3F666666 (totalOf (weighSet choices).1)).bits) (weighSet choices).1).map (·.id)
    = [3, 5] := by decide +kernel
theorem test_drawn : drawnFrom (f32.value 0x3F800000) (weighSet (choices.take 2)).1 = 5 := by decide +kernel
/-- R332: drafts 17, 40 and 9 or 3 against three sets. -/
def drafts : Core :=
  let c := fun (l : List Nat) => (⟨l.map fun i => ⟨BitVec.ofNat 32 i, 0, 0⟩, 0⟩ : CandidateSet)
  ((Core.reset.setSet 0 (c [17, 22])).setSet 1 (c [40])).setSet 2 (c [3, 5])
theorem test_refused : refusedAt drafts 0 [17, 40, 9] = 2 ∧ refusedAt drafts 0 [17, 40, 3] = 3 := by decide +kernel

/-- R372: shapes 3, 6, 5 and 4 predict 6 of 8; after 4 is recorded the entry still predicts 6. -/
theorem test_predict : predict [⟨7, [(4, 1, 1), (5, 1, 1), (6, 1, 1), (3, 1, 1)], 0⟩] 7 (8, 1, 1) = (6, 1, 1)
    ∧ predict [⟨7, [(4, 1, 1), (4, 1, 1), (5, 1, 1), (6, 1, 1)], 0⟩] 7 (8, 1, 1) = (6, 1, 1)
    ∧ predict [] 7 (8, 1, 1) = (8, 1, 1) ∧ clampTo (12, 1, 1) (8, 1, 1) = (8, 1, 1) := by decide +kernel
/-- R424: at a limit of 2048, 40 cycles of 51 issue and the next would not. -/
theorem test_window : ∀ n ∈ [39, 40],
    ({ Core.reset with r := { Core.reset.r with clim := BitVec.ofNat 64 (11136 * 2 ^ 32 + 2048) }, charge := List.replicate n 51 }).overLimit 51
      = decide (n = 40) := by decide +kernel

/-- Tables of context 5 of partition 0 at 0x1_0000: one range, and pages below. -/
def tables : State :=
  let w := fun (m : Memory) (a : Nat) (v : Nat) => Memory.writes m a (toBytes 8 v)
  let m := w [] (0x10000 + 64 * 5) (2 ^ 63 + 2 ^ 62 + 0x20000 + 1)
  let m := w m (0x10000 + 64 * 5 + 8) (0x100000 + 1)
  let m := w m 0x20000 (2 ^ 63 + 0x400000 * 2 ^ 16)
  let m := w m 0x20008 (0x40FFFF * 2 ^ 16)
  let m := w m 0x20010 (0x120000 * 2 ^ 16)
  { State.reset with mem := w m 0x20018 0x80D8
                     parts := [(0, { Partition.reset with ctxtab := BitVec.ofNat 64 (0x10000 + 8) })] }
/-- R54: the range of the worked example gives 0x0052_0123_4568. -/
theorem test_range_walk : (match tables.walk 0 5 0x004001234568 with
    | .ok e => (e.ma 0x004001234568, e.ns)
    | .error k => (k, false)) = (0x005201234568, true) := by decide +kernel

/-- SM3 of "abc", from the standard that defines it. -/
theorem test_sm3 : ofBytes (sm3Bytes [0x61, 0x62, 0x63]).reverse
    = 0x66C7F0F462EEEDD9D1F2D46BDC10E4E24167C4875CF2F7A2297DA02B8F4BA8E0 := by decide +kernel

end Sys2Proof.Tests
end

section
namespace Sys2Proof.Machine

/-! ## No core reaches kernel privilege (R8, R401, R402) -/

/-- From one state to another the turn stays with its core, and no core is at kernel privilege that was not. -/
def NoKernelGained (s t : State) : Prop :=
  t.here = s.here ∧ ∀ k, (t.core k).kernel = true → (s.core k).kernel = true

namespace NoKernelGained

variable {s t u : State}

theorem self (s : State) : NoKernelGained s s := ⟨rfl, fun _ h => h⟩

theorem trans (h : NoKernelGained s t) (h' : NoKernelGained t u) : NoKernelGained s u :=
  ⟨h'.1.trans h.1, fun k hk => h.2 k (h'.2 k hk)⟩

/-- What changes no core and no turn. -/
theorem of_same (h : NoKernelGained s t) (hh : u.here = t.here := by rfl) (hc : u.cores = t.cores := by rfl) :
    NoKernelGained s u :=
  ⟨hh.trans h.1, fun k hk => h.2 k (by simpa only [State.core, hc] using hk)⟩

/-- Every core changed by a function that gives none kernel privilege. -/
theorem of_map (h : NoKernelGained s t) (f : Nat × Core → Nat × Core) (hh : u.here = t.here)
    (hc : u.cores = t.cores.map f) (h1 : ∀ p, (f p).1 = p.1) (hk : ∀ p, (f p).2.kernel = p.2.kernel) :
    NoKernelGained s u := by
  have look : ∀ (l : Table Core) (k : Nat), ((Table.look (l.map f) k).getD Core.reset).kernel
      = ((Table.look l k).getD Core.reset).kernel := by
    intro l k
    induction l with
    | nil => rfl
    | cons p r ih =>
      simp only [List.map_cons, Table.look, h1]
      split
      · exact hk p
      · exact ih
  exact ⟨hh.trans h.1, fun k hx => h.2 k (by rw [← hx, State.core, State.core, hc, look])⟩

theorem setCore (h : NoKernelGained s t) {k : Nat} {c : Core} (hc : c.kernel = true → (t.core k).kernel = true) :
    NoKernelGained s (t.setCore k c) := by
  refine ⟨h.1, fun j hj => h.2 j ?_⟩
  by_cases e : j = k
  · subst e; exact hc (by simpa using hj)
  · rwa [State.core_setCore_ne _ _ e] at hj

theorem setMe (h : NoKernelGained s t) {c : Core} (hc : c.kernel = true → t.me.kernel = true) :
    NoKernelGained s (t.setMe c) := h.setCore hc

/-! What the setters of the other parts of the state leave. -/

theorem fresher (h : NoKernelGained s t) (n : Nat) : NoKernelGained s { t with fresh := n } := h.of_same

theorem accs (h : NoKernelGained s t) (as : List Acc) : NoKernelGained s { t with accs := as } := h.of_same

theorem setPage (h : NoKernelGained s t) (p : Nat) (x : Page) : NoKernelGained s (t.setPage p x) := h.of_same

theorem setPart (h : NoKernelGained s t) (p : Nat) (x : Partition) : NoKernelGained s (t.setPart p x) := h.of_same

theorem setChip (h : NoKernelGained s t) (ch : Nat) (x : Chip) : NoKernelGained s (t.setChip ch x) := h.of_same

theorem setCluster (h : NoKernelGained s t) (cl : Nat) (x : Cluster) : NoKernelGained s (t.setCluster cl x) := h.of_same

theorem setRing (h : NoKernelGained s t) (k : Nat) (x : Ring) : NoKernelGained s (t.setRing k x) := h.of_same

theorem removeRing (h : NoKernelGained s t) (k : Nat) : NoKernelGained s (t.removeRing k) := h.of_same

theorem addRec (h : NoKernelGained s t) (cl : Nat) (r : Rec) : NoKernelGained s (t.addRec cl r) := h.setCluster ..

theorem mapStore (h : NoKernelGained s t) (cl : Nat) (f : Rec → Rec) : NoKernelGained s (t.mapStore cl f) :=
  h.setCluster ..

theorem dropRec (h : NoKernelGained s t) (cl uid : Nat) : NoKernelGained s (t.dropRec cl uid) := h.setCluster ..

theorem dropped (h : NoKernelGained s t) (cl n : Nat) : NoKernelGained s (t.dropped cl n) := h.setCluster ..

theorem dying (h : NoKernelGained s t) (os : List Owner) : NoKernelGained s { t with dying := os } := h.of_same

/-- The core that an arrival finds, or its image, replaced. -/
theorem setCoreOf (h : NoKernelGained s t) {p k : Nat} {c : Core}
    (hc : c.kernel = true → (t.coreOf p k).kernel = true) : NoKernelGained s (t.setCoreOf p k c) := by
  unfold State.setCoreOf
  split
  · exact h.of_same
  · rename_i e
    exact h.setCore fun x => by simpa only [State.coreOf, e] using hc x

theorem foldl {α : Type} (f : State → α → State) (hf : ∀ {u : State} (x : α), NoKernelGained s u → NoKernelGained s (f u x))
    (l : List α) (h : NoKernelGained s t) : NoKernelGained s (l.foldl f t) := by
  induction l generalizing t with
  | nil => exact h
  | cons x r ih => exact ih (hf x h)

/-! ### Memory, pages and the device's tables -/

theorem touch (h : NoKernelGained s t) (p : Nat) (a : BitVec 16) : NoKernelGained s (t.touch p a) := by
  unfold State.touch
  dsimp only
  split
  · exact h
  · exact h.of_same

theorem use (h : NoKernelGained s t) (p : Nat) : NoKernelGained s (t.use p) := by
  unfold State.use
  split
  · exact h
  · exact h.of_same

theorem keepPoison (h : NoKernelGained s t) (p : Nat) : NoKernelGained s (t.keepPoison p) := by
  unfold State.keepPoison
  split
  · exact h
  · exact h.of_same

theorem purge (h : NoKernelGained s t) (cores clusters : Nat → Bool) (hit : XEntry → Bool) :
    NoKernelGained s (t.purge cores clusters hit) :=
  h.of_map (fun p => (p.1, if cores p.1 then { p.2 with ucache := p.2.ucache.filter fun e => !hit e } else p.2))
    rfl rfl (fun _ => rfl) fun p => by dsimp only; split <;> rfl

theorem purgeCmds (h : NoKernelGained s t) (cores : Nat → Bool) (hit : XEntry → Bool) :
    NoKernelGained s (t.purgeCmds cores hit) :=
  h.of_map _ rfl rfl (fun _ => rfl) fun p => by dsimp only; split <;> rfl

theorem demote (h : NoKernelGained s t) (p : Nat) (x : BitVec 2) : NoKernelGained s (t.demote p x) :=
  setChip (setPage ((h.purge ..).keepPoison p) ..) ..

theorem finishDemotion (h : NoKernelGained s t) (p : Nat) : NoKernelGained s (t.finishDemotion p) := by
  unfold State.finishDemotion
  split
  · split
    · exact h.demote p _
    · exact h
  · exact h

theorem evictPage (h : NoKernelGained s t) {ch : Nat} (e : t.evictPage ch = some u) : NoKernelGained s u := by
  unfold State.evictPage at e
  split at e
  · exact Option.some.inj e ▸ h.finishDemotion _
  · split at e
    · exact nomatch e
    · obtain ⟨x, -, rfl⟩ := Option.map_eq_some_iff.mp e
      exact h.demote _ x

theorem makeFrameIn {ch n : Nat} (h : NoKernelGained s t) (e : State.makeFrameIn ch n t = some u) :
    NoKernelGained s u := by
  induction n generalizing t with
  | zero =>
    unfold State.makeFrameIn at e
    split at e
    · exact Option.some.inj e ▸ h
    · exact nomatch e
  | succ n ih =>
    unfold State.makeFrameIn at e
    split at e
    · exact Option.some.inj e ▸ h
    · obtain ⟨v, hv, hu⟩ := Option.bind_eq_some_iff.mp e
      exact ih (h.evictPage hv) hu

theorem makeFrame (h : NoKernelGained s t) {ch : Nat} (e : t.makeFrame ch = some u) : NoKernelGained s u := by
  unfold State.makeFrame at e
  split at e
  · exact Option.some.inj e ▸ h
  · exact h.makeFrameIn e

theorem placeForWrite (h : NoKernelGained s t) {p : Nat} {a : BitVec 16} (e : t.placeForWrite p a = some u) :
    NoKernelGained s u := by
  unfold State.placeForWrite at e
  split at e
  · obtain ⟨v, hv, rfl⟩ := Option.map_eq_some_iff.mp e
    exact ((h.makeFrame hv).fresher _).setPage ..
  · exact Option.some.inj e ▸ (h.setPage ..).touch p a

theorem requestPage (h : NoKernelGained s t) (p : Nat) (a : BitVec 16) (f : Option (Nat × Nat × Nat × BitVec 4)) :
    NoKernelGained s (t.requestPage p a f) := h.of_same

theorem writeMem (h : NoKernelGained s t) (ma : Nat) (d : Data) : NoKernelGained s (t.writeMem ma d) := by
  unfold State.writeMem
  split
  · exact h
  · exact h.of_same

theorem noteCrew (h : NoKernelGained s t) (p crew : Nat) : NoKernelGained s (t.noteCrew p crew) := by
  unfold State.noteCrew
  split
  · exact h
  · exact h.of_same

theorem applyEdit (h : NoKernelGained s t) (e : TableEdit) : NoKernelGained s (t.applyEdit e) := by
  have hw : NoKernelGained s (t.writeMem64 e.ma (e.op.apply (t.mem64 e.ma))) := h.writeMem _ _
  unfold State.applyEdit
  split
  · exact hw.noteCrew _ _
  · exact hw

/-- The state with which the device goes on once it has reached a word of one of its tables, if it does. -/
theorem readyTable_now (h : NoKernelGained s t) {ma : Nat} (e : t.readyTable ma = .now u) : NoKernelGained s u := by
  unfold State.readyTable at e
  split at e
  · cases e; exact h
  · dsimp only at e
    split at e
    · split at e
      · rename_i hp
        cases e; exact h.placeForWrite hp
      · exact nomatch e
    · split at e
      · cases e; exact use (h.setPage ..) _
      · exact nomatch e

theorem readyTable_wait (h : NoKernelGained s t) {ma : Nat} (e : t.readyTable ma = .wait u) : NoKernelGained s u := by
  unfold State.readyTable at e
  split at e
  · exact nomatch e
  · dsimp only at e
    split at e
    · split at e <;> exact nomatch e
    · split at e
      · exact nomatch e
      · cases e; exact h.requestPage _ _ _

theorem editTable (h : NoKernelGained s t) (e : TableEdit) : NoKernelGained s (t.editTable e) := by
  unfold State.editTable
  dsimp only
  split
  · exact h.of_same
  · split
    · rename_i hu
      exact (h.readyTable_now hu).applyEdit e
    · rename_i hu
      exact (h.readyTable_wait hu).of_same
    · exact h.of_same

theorem editCrew (h : NoKernelGained s t) (p crew w : Nat) (op : EditOp) (live : Bool) :
    NoKernelGained s (t.editCrew p crew w op live) := by
  unfold State.editCrew
  split
  · exact h
  · exact h.editTable _

theorem lowerLive (h : NoKernelGained s t) (p crew n : Nat) : NoKernelGained s (t.lowerLive p crew n) :=
  h.editCrew _ _ _ _ _

theorem loseCauses (h : NoKernelGained s t) (p crew n : Nat) : NoKernelGained s (t.loseCauses p crew n) := by
  unfold State.loseCauses
  split
  · exact h
  · exact h.editCrew _ _ _ _ _

theorem crewFlags (h : NoKernelGained s t) (p crew : Nat) (fl : BitVec 7) : NoKernelGained s (t.crewFlags p crew fl) := by
  unfold State.crewFlags
  split
  · exact h
  · exact h.editCrew _ _ _ _ _

/-! ### Records -/

theorem editRec (h : NoKernelGained s t) (cl uid : Nat) (w : Fin 8) (op : EditOp) :
    NoKernelGained s (t.editRec cl uid w op) := by
  have hm : NoKernelGained s (t.mapStore cl fun r =>
      if r.uid == uid then { r with words := r.words.set w (op.apply r.words[w]) } else r) := h.mapStore ..
  unfold State.editRec
  dsimp only
  split
  · split
    · exact hm.editTable _
    · exact hm
  · exact hm

theorem putOverflow (h : NoKernelGained s t) {cl : Nat} {r : Rec} (e : t.putOverflow cl r = .taken u) :
    NoKernelGained s u := by
  unfold State.putOverflow at e
  split at e
  · exact nomatch e
  · dsimp only at e
    split at e
    · exact nomatch e
    · split at e
      · exact nomatch e
      · exact nomatch e
      · rename_i hv
        cases e
        exact ((h.readyTable_now hv).writeMem _ _).addRec ..

theorem accrue (h : NoKernelGained s t) (o : Owner) (fl : BitVec 7) : NoKernelGained s (t.accrue o fl) := by
  unfold State.accrue
  split
  · exact h
  · split
    · exact h.setCoreOf id
    · split
      · split
        · exact h.editRec _ _ _ _
        · exact h.crewFlags _ _ _
      · exact h.crewFlags _ _ _

/-! ### Rings, and blocks that leave their core -/

theorem endRing (h : NoKernelGained s t) (k : Nat) : NoKernelGained s (t.endRing k) := by
  unfold State.endRing
  split
  · exact h
  · split
    · exact h.removeRing k
    · exact h

theorem releaseRing (h : NoKernelGained s t) (k : Nat) : NoKernelGained s (t.releaseRing k) := by
  unfold State.releaseRing
  split
  · exact h
  · split
    · exact h
    · split
      · dsimp only
        split
        · exact ((h.setRing ..).setRing ..).endRing k
        · exact (h.setRing ..).endRing k
      · exact (h.setRing ..).endRing k

theorem endOfBlock (h : NoKernelGained s t) (o : Owner) : NoKernelGained s (t.endOfBlock o) := by
  unfold State.endOfBlock
  split
  · exact foldl _ (fun x hu => hu.releaseRing x.1) _ h
  · exact h

theorem settle (h : NoKernelGained s t) : NoKernelGained s t.settle :=
  foldl _ (fun _ hu => hu.lowerLive _ _ _) _ (h.dying _)

/-- A core whose block leaves it is at user privilege. -/
theorem vacate (h : NoKernelGained s t) (k : Nat) : NoKernelGained s (t.setCore k (t.core k).vacate) :=
  h.setCore fun x => nomatch x

theorem cancel (h : NoKernelGained s t) (k : Nat) : NoKernelGained s (t.cancel k) := by
  unfold State.cancel
  dsimp only
  split
  · exact h
  · exact (endOfBlock (dying (loseCauses (h.vacate k) _ _ _) _) _).settle

theorem retire (h : NoKernelGained s t) (k : Nat) : NoKernelGained s (t.retire k) := by
  unfold State.retire
  dsimp only
  split
  · exact h
  · exact endOfBlock (lowerLive (loseCauses (h.vacate k) _ _ _) _ _ _) _

theorem leaveWith (h : NoKernelGained s t) (k : Nat) (pc : W64) (why : Nat) (st : RecState) :
    NoKernelGained s (t.leaveWith k pc why st) := by
  unfold State.leaveWith
  dsimp only
  split
  · exact h
  · rename_i b _
    have hl := fun w n => (h.vacate k).loseCauses b.part (recCrew w) n
    split
    · exact lowerLive (loseCauses ((hl _ _).dropped ..) _ _ _) _ _ _
    · split
      · split
        · rename_i hu
          exact putOverflow ((hl _ _).fresher _) hu
        · exact ((hl _ _).fresher _).addRec ..
      · exact ((hl _ _).fresher _).addRec ..

theorem retractLater (h : NoKernelGained s t) (o : Owner) : NoKernelGained s (t.retractLater o) := by
  unfold State.retractLater
  split
  · exact h
  · exact h.of_same

/-! ### The order of a core's accesses, and translations -/

theorem passPolls (h : NoKernelGained s t) (p k ord : Nat) : NoKernelGained s (t.passPolls p k ord) := by
  unfold State.passPolls
  dsimp only
  split
  · exact h.of_same
  · exact h

theorem promiseBefore (h : NoKernelGained s t) (p k ord scope : Nat) : NoKernelGained s (t.promiseBefore p k ord scope) := by
  unfold State.promiseBefore
  split
  · exact h
  · exact setCoreOf ((h.passPolls p k ord).accs _) id

theorem keepOrder (h : NoKernelGained s t) (p k ord : Nat) (rel : Option Nat) :
    NoKernelGained s (t.keepOrder p k ord rel) := by
  have hf := foldl _ (fun (f : Nat × Nat) hu => hu.promiseBefore p k f.1 f.2)
    (((t.passPolls p k ord).coreOf p k).fences.filter fun f => decide (f.1 < ord)) (h.passPolls p k ord)
  unfold State.keepOrder
  dsimp only
  split
  · exact hf.promiseBefore _ _ _ _
  · exact hf

theorem noteFrame (h : NoKernelGained s t) (k part : Nat) (ctx : BitVec 12) (va p : Nat) :
    NoKernelGained s (t.noteFrame k part ctx va p) := by
  unfold State.noteFrame
  dsimp only
  split
  · exact h
  · split
    · have hc : NoKernelGained s (t.setCore k { t.core k with
          ucache := (t.core k).ucache.map fun e => e.resolved part ctx va p (t.page p).frame }) := h.setCore id
      exact hc.setCluster ..
    · exact h.setCluster ..

theorem touchCode (h : NoKernelGained s t) (va : W64) : NoKernelGained s (t.touchCode va) := by
  unfold State.touchCode
  split
  · exact noteFrame (h.touch _ _) _ _ _ _ _
  · exact h

theorem seek (h : NoKernelGained s t) (k : Nat) (who : Seeker) (p : Nat) (ctx : BitVec 12) (g : Nat) :
    NoKernelGained s (t.seek k who p ctx g) := by
  unfold State.seek
  split
  · exact h
  · exact h.of_same

/-! ### The engines -/

theorem completeMatrix (h : NoKernelGained s t) (k : Nat) : NoKernelGained s (t.completeMatrix k) := by
  unfold State.completeMatrix
  dsimp only
  split
  · exact h
  · refine settle (accrue (h.setCore ?_) _ _)
    exact id

theorem drainMatrix (h : NoKernelGained s t) (k n : Nat) : NoKernelGained s (t.drainMatrix k n) := by
  induction n generalizing t with
  | zero => exact h
  | succ n ih => exact ih (h.completeMatrix k)

end NoKernelGained

@[simp] theorem Core.arriveSums_kernel (c : Core) : c.arriveSums.kernel = c.kernel := by
  unfold Core.arriveSums
  dsimp only
  split <;> rfl

namespace NoKernelGained

variable {s t u : State}

theorem scalePort (h : NoKernelGained s t) : NoKernelGained s (scalePort t) := by
  have hd := h.drainMatrix t.here t.me.mq.length
  unfold Machine.scalePort
  dsimp only
  split
  · exact hd.setMe fun x => by simpa using x
  · exact hd.setMe fun x => by simpa [Core.setTile] using x

theorem arriveAtObjects (h : NoKernelGained s t) (op : Nat) (named handles : List W64) :
    NoKernelGained s (t.arriveAtObjects op named handles) := by
  refine foldl _ (fun x hu => ?_) _ (foldl _ (fun _ hu => hu.of_same) _ h)
  split
  · exact hu
  · exact hu.of_same

theorem acceptF (h : NoKernelGained s t) (w : Site) (named handles : List W64) (q : BitVec 256) (alpha : VReg)
    (inputs : List Data) (busy : List (Res × Bool)) : NoKernelGained s (t.acceptF w named handles q alpha inputs busy) :=
  setMe ((h.arriveAtObjects _ named handles).fresher _) id

theorem setCmd (h : NoKernelGained s t) (k : Nat) (c : Cmd) : NoKernelGained s (t.setCmd k c) := h.setCoreOf id

theorem setMine (h : NoKernelGained s t) (c : Cmd) : NoKernelGained s (t.setMine c) := h.setMe id

theorem pairMailbox (h : NoKernelGained s t) (p j m : Nat) : NoKernelGained s (pairMailbox t p j m) := by
  unfold Machine.pairMailbox
  dsimp only
  split
  · split
    · exact setCmd (h.setCoreOf fun x => by simpa [Core.setMailbox] using x) _ _
    · exact h.setCoreOf fun x => by simpa [Core.setMailbox] using x
  · exact h

theorem openInstance (h : NoKernelGained s t) (c : Cmd) (n : Nat) : NoKernelGained s (openInstance t c n).1 := by
  unfold Machine.openInstance
  split
  · exact h
  · exact h.of_same

theorem leaveInstance (h : NoKernelGained s t) (x : Collective) (k : Nat) : NoKernelGained s (leaveInstance t x k) := by
  unfold Machine.leaveInstance
  dsimp only
  split
  · exact h.of_same
  · exact h.of_same

theorem failInstance (h : NoKernelGained s t) (k : Nat) (c : Cmd) : NoKernelGained s (failInstance t k c) :=
  (h.openInstance c 0).leaveInstance _ _

theorem allocate (h : NoKernelGained s t) {a size : Nat} {r : Bool} {v : Nat} (e : allocate t a size r = some (v, u)) :
    NoKernelGained s u := by
  unfold Machine.allocate at e
  split at e
  · cases e; exact h
  · dsimp only at e
    split at e
    · exact nomatch e
    · split at e
      · exact nomatch e
      · cases e; exact h.setPart ..

end NoKernelGained

end Sys2Proof.Machine
end

section
namespace Sys2Proof.Machine

/-! ### Slot words that keep the privilege of every core -/

namespace NoKernelGained

variable {s t : State}

/-- The core of the turn with an equal privilege. -/
theorem setMe_eq (h : NoKernelGained s t) {c : Core} (hc : c.kernel = t.me.kernel) : NoKernelGained s (t.setMe c) :=
  h.setMe fun x => hc ▸ x

/-- The core of the turn with other registers. -/
theorem setRegs (h : NoKernelGained s t) (r : Arch) : NoKernelGained s (t.setMe { t.me with r := r }) := h.setMe_eq rfl

theorem result (h : NoKernelGained s t) (sl : Lane) (d : BitVec 6) (v : Cell64) :
    NoKernelGained s (t.setMe (t.me.result sl d v)) := h.setMe_eq (Core.result_kernel ..)

theorem setS (h : NoKernelGained s t) (d : BitVec 6) (v : Cell64) : NoKernelGained s (t.setMe (t.me.setS d v)) :=
  h.setMe_eq (Core.setS_kernel ..)

theorem vresult (h : NoKernelGained s t) (d : BitVec 5) (x : VReg × Flags) :
    NoKernelGained s (t.setMe (t.me.vresult d x)) := h.setMe_eq rfl

theorem converted (h : NoKernelGained s t) (d : BitVec 5) (x : VReg × Flags × BitVec 32) :
    NoKernelGained s (t.setMe (t.me.converted d x)) := h.setMe_eq rfl

theorem setPP (h : NoKernelGained s t) (p q : BitVec 4) (x y : Bool) :
    NoKernelGained s (t.setMe ((t.me.setP p x).setP q y)) := h.setMe_eq (by simp)

theorem send (h : NoKernelGained s t) (a : Acc) : NoKernelGained s (t.send a) := h.of_same

theorem sendFor (h : NoKernelGained s t) (d : BitVec 6) (a : Acc) : NoKernelGained s (sendFor t d a) :=
  (h.result .B d t.promise).send a

theorem jump (h : NoKernelGained s t) (pc : W64) : NoKernelGained s (t.jump pc) := h.setMe_eq rfl

theorem link (h : NoKernelGained s t) : NoKernelGained s t.link := h.setS _ _

theorem acceptMatrix (h : NoKernelGained s t) (m : MCmd) : NoKernelGained s (t.acceptMatrix m) := h.setMe_eq rfl

end NoKernelGained

/-- When a slot word takes effect, no core is at kernel privilege that was not. -/
structure Keeps (s : State) (e : Eff State) : Prop where
  keeps : ∀ t, e = .ok t → NoKernelGained s t

namespace Keeps

open NoKernelGained (self)

variable {s : State}

theorem ok {t : State} (h : NoKernelGained s t) : Keeps s (.ok t) := ⟨fun _ e => Except.ok.inj e ▸ h⟩

/-- A slot word that stops, with a cause or held. -/
theorem stop (e : Stop) : Keeps s (.error e) := ⟨fun _ h => nomatch h⟩

theorem bind {α : Type} {x : Eff α} {f : α → Eff State} (h : ∀ a, Keeps s (f a)) : Keeps s (x >>= f) := by
  cases x with
  | error e => exact stop e
  | ok a => exact h a

/-- What goes on from a state that an earlier part of the word has made. -/
theorem bindState {x : Eff State} {f : State → Eff State} (hx : Keeps s x)
    (h : ∀ t, NoKernelGained s t → Keeps s (f t)) : Keeps s (x >>= f) := by
  cases x with
  | error e => exact stop e
  | ok t => exact h t (hx.keeps t rfl)

theorem ite {c : Prop} [Decidable c] {x y : Eff State} (hx : Keeps s x) (hy : Keeps s y) :
    Keeps s (if c then x else y) := by
  split
  · exact hx
  · exact hy

/-! #### Slots A and B -/

theorem binary (w sl d a b f) : Keeps s (binary s w sl d a b f) :=
  bind fun _ => bind fun _ => bind fun _ => ok ((self s).result ..)

theorem unary (w sl d a f) : Keeps s (unary s w sl d a f) := bind fun _ => bind fun _ => ok ((self s).result ..)

theorem compare (w p q a b f) : Keeps s (compare s w p q a b f) :=
  bind fun _ => bind fun _ => bind fun _ => ok ((self s).setPP ..)

theorem predicates (p q r) : Keeps s (predicates s p q r) := ok ((self s).setPP ..)

theorem stage (w a) {f : W64 → Core → Core} (hf : ∀ x, (f x s.me).kernel = s.me.kernel) : Keeps s (stage s w a f) :=
  bind fun _ => bind fun _ => ok ((self s).setMe_eq (hf _))

theorem division (w sl d a b f) : Keeps s (division s w sl d a b f) :=
  bind fun _ => bind fun _ => bind fun _ => ok ((self s).setMe_eq (Core.result_kernel ..))

theorem select (w sl p d a b) : Keeps s (select s w sl p d a b) :=
  bind fun _ => bind fun _ => bind fun _ => ok ((self s).result ..)

theorem moveImm (sl d i) : Keeps s (moveImm s sl d i) := bind fun _ => ok ((self s).result ..)

theorem readControl (w d n) : Keeps s (readControl s w d n) :=
  ite (stop _) (ite (stop _) (bind fun _ => ok ((self s).result ..)))

theorem writeCsr (n : Nat) (x : W64) : NoKernelGained s (writeCsr s n x) := by
  unfold Machine.writeCsr
  split
  · exact (self s).of_same
  · exact (self s).setMe_eq rfl

theorem writeControl (w a n) : Keeps s (writeControl s w a n) :=
  ite (stop _) (ite (stop _) (bind fun _ => bind fun _ => ok (writeCsr n _)))

theorem localOrder (rel write off n) : Keeps s (s.localOrder rel write off n) :=
  bind fun _ => ok ((self s).keepOrder ..)

theorem placePages {s t : State} (h : NoKernelGained s t) (w va attr write ts) :
    Keeps s (placePages w va attr write t ts) := by
  induction ts generalizing t va with
  | nil => exact ok h
  | cons x r ih =>
    cases x with
    | spad k off => exact ih h _
    | mem ma =>
      unfold Machine.placePages
      dsimp only
      split
      · exact ih h _
      · split
        · exact ite (stop _) (stop _)
        · split
          · split
            · rename_i hp
              exact ih (h.placeForWrite hp) _
            · exact stop _
          · exact ih h _

theorem loadBytes (w d b o n acq) : Keeps s (loadBytes s w d b o n acq) := by
  refine bind fun _ => bind fun _ => bind fun a => ?_
  dsimp only
  split
  · exact bindState (localOrder ..) fun t h => ok (h.result ..)
  · exact bindState (placePages (self s) ..) fun t h => ok (h.sendFor ..)

theorem storeBytes (w d b o n rel) : Keeps s (storeBytes s w d b o n rel) := by
  refine bind fun _ => bind fun _ => bind fun a => ?_
  dsimp only
  split
  · exact bindState (localOrder ..) fun t h => ok (h.setMe_eq rfl)
  · exact bind fun _ => bindState (placePages (self s) ..) fun t h => ok h.of_same

theorem fullEmpty (w op dst src b o) : Keeps s (fullEmpty s w op dst src b o) := by
  refine bind fun _ => bind fun _ => bind fun a => ?_
  dsimp only
  split
  · refine bindState (localOrder ..) fun t h => ?_
    refine ite (ite (stop _) (stop _)) (ok ?_)
    split
    · exact (h.setRegs _).result ..
    · exact h.setRegs _
  · refine bind fun _ => ite (ok (self s).of_same) (bind fun r => ite (stop _) (ok ?_))
    split
    · exact (self s).result ..
    · exact self s

theorem atomic (w op d b r sr) : Keeps s (atomic s w op d b r sr) := by
  refine bind fun _ => bind fun _ => bind fun _ => ite (bind fun _ => bind fun a => ?_) (bind fun _ => bind fun a => ?_)
  all_goals
    dsimp only
    split
    · exact bindState (localOrder ..) fun t h => ok (h.setMe_eq (Core.result_kernel ..))
    · exact bind fun _ => bindState (placePages (self s) ..) fun t h => ok (h.sendFor ..)

theorem chunkAt (w d b r) : Keeps s (chunkAt s w d b r) := by
  refine bind fun _ => bind fun _ => bind fun a => ?_
  dsimp only
  split
  · refine bindState (localOrder ..) fun t h => ok (h.setMe_eq ?_)
    split
    · exact Core.result_kernel ..
    · exact Core.result_kernel ..
  · exact bind fun _ => bindState (placePages (self s) ..) fun t h => ok (h.sendFor ..)

theorem fenceAt (scope) : Keeps s (fenceAt s scope) := ok ((self s).setMe_eq rfl)

theorem drainAt (scope) : Keeps s (drainAt s scope) := bind fun _ => ok ((self s).promiseBefore ..)

theorem barrierAt (w kind a b dst) : Keeps s (barrierAt s w kind a b dst) := by
  refine bind fun _ => bind fun _ => bind fun _ => ite (stop _) (bind fun _ => bind fun r => ?_)
  refine ite (ite (stop _) (stop _)) ?_
  split
  · exact ok ((self s).result ..)
  · exact ok (self s)

theorem setFlag (w n a) : Keeps s (setFlag s w n a) := bind fun _ => bind fun _ => ok ((self s).setMe_eq rfl)

theorem readFlag (d n) : Keeps s (readFlag s d n) := bind fun _ => ok ((self s).result ..)

theorem addFlag (w a b) : Keeps s (addFlag s w a b) :=
  bind fun _ => bind fun _ => bind fun _ => ite (stop _) (bind fun _ => bind fun _ => ok (self s).of_same)

theorem resolveAt (w a v ends) : Keeps s (resolveAt s w a v ends) :=
  bind fun _ => bind fun _ => bind fun _ => bind fun _ => ite (stop _) (ok (self s))

theorem joinAt (w d a b) : Keeps s (joinAt s w d a b) :=
  bind fun _ => bind fun _ => bind fun _ => bind fun _ => bind fun _ => bind fun _ => bind fun _ => bind fun _ =>
    ok ((self s).result ..)

theorem pollAt (w d a) : Keeps s (pollAt s w d a) :=
  bind fun _ => bind fun _ => bind fun _ =>
    ite (bindState (localOrder ..) fun _ h => ok (h.result ..)) (ok ((self s).sendFor ..))

theorem invalidate (w a b) : Keeps s (invalidate s w a b) := by
  refine ite (stop _) (bind fun _ => bind fun _ => bind fun _ => ite (stop _) (bind fun _ => bind fun _ => ?_))
  refine ite (ok ?_) (ok (((self s).purge ..).purgeCmds ..))
  refine (((self s).purge ..).purgeCmds ..).of_map _ rfl rfl (fun _ => rfl) fun p => ?_
  dsimp only
  split
  · rfl
  · rfl

/-! #### Slot V -/

theorem lanes (w lo hi d srcs prior k f) : Keeps s (lanes s w lo hi d srcs prior k f) :=
  bind fun _ => bind fun _ => bind fun _ => ok ((self s).vresult ..)

theorem compareLanes (w lo hi m a b p q k f) : Keeps s (compareLanes s w lo hi m a b p q k f) :=
  bind fun _ => bind fun _ => bind fun _ => bind fun _ => ok ((self s).setMe_eq (Core.setMask_kernel ..))

theorem maskOp (d x) : Keeps s (maskOp s d x) := ok ((self s).setMe_eq (Core.setMask_kernel ..))

theorem scalarFromMask (w d f) : Keeps s (scalarFromMask s w d f) := bind fun _ => bind fun _ => ok ((self s).setS ..)

theorem selectLanes (w d a b p q) : Keeps s (selectLanes s w d a b p q) :=
  bind fun _ => bind fun _ => bind fun _ => bind fun _ => ok ((self s).vresult ..)

theorem convertLanes (w d a t p sat k) : Keeps s (convertLanes s w d a t p sat k) :=
  ite (stop _) (bind fun _ => bind fun _ => ite (stop _) (bind fun _ => ok ((self s).converted ..)))

theorem packLanes (w d a code p) : Keeps s (packLanes s w d a code p) :=
  ite (stop _) (bind fun _ => bind fun _ => ite (stop _) (bind fun _ => ok ((self s).converted ..)))

theorem unpackLanes (w d a code p) : Keeps s (unpackLanes s w d a code p) :=
  ite (stop _) (bind fun _ => bind fun _ => ite (stop _) (bind fun _ => ok ((self s).vresult ..)))

theorem reduceRows (w d a p k f) : Keeps s (reduceRows s w d a p k f) :=
  bind fun _ => bind fun _ => bind fun _ => ok ((self s).vresult ..)

theorem scanRows (w d a p k f) : Keeps s (scanRows s w d a p k f) :=
  bind fun _ => bind fun _ => bind fun _ => ok ((self s).vresult ..)

theorem permute (w d a b p q k) : Keeps s (permute s w d a b p q k) :=
  bind fun _ => bind fun _ => bind fun _ => bind fun _ => ok ((self s).vresult ..)

theorem moveLanes (w d a p f) : Keeps s (moveLanes s w d a p f) :=
  bind fun _ => bind fun _ => bind fun _ => ok ((self s).vresult ..)

theorem moveVector (w d a p k) : Keeps s (moveVector s w d a p k) :=
  bind fun _ => bind fun _ => ok ((self s).setMe_eq rfl)

theorem splat (w d code k) : Keeps s (splat s w d code k) :=
  bind fun _ => bind fun _ => bind fun _ => bind fun _ => ok ((self s).vresult ..)

theorem extract (w d a code) : Keeps s (extract s w d a code) :=
  bind fun _ => bind fun _ => bind fun _ => bind fun _ => ite (ok ((self s).setS ..)) (bind fun _ => ok ((self s).setS ..))

theorem insert (w d v code) : Keeps s (insert s w d v code) :=
  bind fun _ => bind fun _ => bind fun _ => bind fun _ => bind fun _ => ite (ok (self s)) (ok ((self s).setMe_eq rfl))

theorem accumulate (w l a b k) : Keeps s (accumulate s w l a b k) :=
  bind fun _ => bind fun _ => bind fun _ => ok ((self s).setMe_eq rfl)

theorem roundLong (d l) : Keeps s (roundLong s d l) := bind fun _ => ok ((self s).vresult ..)

theorem signLong (p q l) : Keeps s (signLong s p q l) := ok ((self s).setMe_eq (by simp))

theorem longToVector (d l) : Keeps s (longToVector s d l) := bind fun _ => ok ((self s).setMe_eq rfl)

theorem vectorToLong (w l a) : Keeps s (vectorToLong s w l a) := bind fun _ => bind fun _ => ok ((self s).setMe_eq rfl)

/-! #### Slots M and F -/

theorem product (w op c a b o) : Keeps s (product s w op c a b o) := by
  have port : ∀ (q : Prop) [Decidable q], NoKernelGained s (if q then scalePort s else s) := fun q _ => by
    split
    · exact (self s).scalePort
    · exact self s
  refine bind fun _ => ite (stop _) ?_
  split
  · exact stop _
  · exact ite (stop _) (bind fun _ => ok ((port _).setMe_eq rfl))
  · exact ite (stop _) (bind fun _ => ok ((port _).acceptMatrix _))

theorem acceptMove (w d src) : Keeps s (acceptMove s w d src) := bind fun _ => ok ((self s).acceptMatrix _)

theorem convertTile (w d src int tgt rm) : Keeps s (convertTile s w d src int tgt rm) :=
  bind fun _ => ite (stop _) (ite (stop _) (bindState (acceptMove ..) fun _ h => ite (ok (h.setRegs _)) (ok h)))

theorem loadMask (w n) : Keeps s (loadMask s w n) := bind fun _ => ite (stop _) (ok ((self s).setRegs _))

theorem issueF (w us q alpha shape ins busy) : Keeps s (issueF s w us q alpha shape ins busy) :=
  bind fun _ => ite (ok ((self s).acceptF ..)) (bind fun _ => ok ((self s).acceptF ..))

theorem issueStep (w h form k v q) : Keeps s (issueStep s w h form k v q) :=
  bind fun _ => bind fun _ => issueF ..

theorem issueOn (w h u busy) : Keeps s (issueOn s w h u busy) := bind fun _ => issueF ..

theorem issueAverage (w h srcs) : Keeps s (issueAverage s w h srcs) :=
  bind fun _ => bind fun _ => issueF ..

theorem issueRoll (w h src) : Keeps s (issueRoll s w h src) := bind fun _ => bind fun _ => issueF ..

theorem issueMigrate (w h d) : Keeps s (issueMigrate s w h d) :=
  bind fun _ => bind fun _ => ite (ite (stop _) (issueF ..))
    (bind fun _ => ite (stop _) (issueF ..))

/-! #### Slots X and G -/

theorem acceptCommand (w a) : Keeps s (acceptCommand s w a) :=
  bind fun _ => bind fun _ => bind fun _ => ok (((self s).fresher _).setMe_eq rfl)

theorem acceptUnsub (w a) : Keeps s (acceptUnsub s w a) := by
  refine bindState (acceptCommand ..) fun t h => ?_
  split
  · refine ok ?_
    split
    · exact h
    · exact (h.releaseRing _).setMine _
  · exact ok h

theorem waitFor (w kd v4 n) : Keeps s (waitFor s w kd v4 n) := ite (stop _) (bind fun _ => ok (self s))

theorem acceptSparse (w a) : Keeps s (acceptSparse s w a) := by
  refine bindState (acceptCommand ..) fun t h => ?_
  split
  · exact ite (ok h) (ite (ok (h.setMine _)) (ok (h.setMe_eq rfl)))
  · exact ok h

theorem acceptCollective (w) : Keeps s (acceptCollective s w) := by
  rw [Machine.acceptCollective]
  split
  · exact stop _
  · refine bindState (acceptCommand ..) fun t h => ?_
    have counted : ∀ (k : Nat) (x : Partition) (y : Cmd), NoKernelGained s ((t.setPart k x).setMine y) :=
      fun _ _ y => (h.setPart ..).setMine y
    split
    · exact ok (h.setMine _)
    · refine ite (ok h) ?_
      split
      · refine ok ?_
        extract_lets
        split
        · exact (counted _ _ _).failInstance ..
        · exact counted _ _ _
      · exact ok h

theorem acceptReceive (w a) : Keeps s (acceptReceive s w a) :=
  bindState (acceptCommand ..) fun _ h => ok (h.pairMailbox ..)

theorem acceptLaunch (w) : Keeps s (acceptLaunch s w) := bind fun _ => acceptCommand ..

theorem acceptSampler (w good) : Keeps s (acceptSampler s w good) := acceptCommand ..

theorem allocPlain (w a d sr p r) : Keeps s (allocPlain s w a d sr p r) := by
  refine bind fun _ => bind fun _ => bind fun _ => ?_
  split
  · rename_i e
    exact ok (((self s).allocate e).setMe_eq (by simp))
  · exact ok ((self s).setMe_eq (by simp))

theorem allocTrap (w a d sr r) : Keeps s (allocTrap s w a d sr r) := by
  refine bind fun _ => bind fun _ => bind fun _ => ?_
  split
  · rename_i e
    exact ok (((self s).allocate e).setS ..)
  · exact ite (stop _) (stop _)

theorem freeAt (w a sr p) : Keeps s (freeAt s w a sr p) :=
  bind fun _ => bind fun _ => ok (((self s).setPart ..).setMe_eq (Core.setP_kernel ..))

theorem retractFrom (w sr) : Keeps s (retractFrom s w sr) := by
  refine bind fun _ => bind fun _ => ?_
  split
  · exact ok (self s).of_same
  · exact ok (self s)

/-! #### Slot C -/

theorem jump (pc) : Keeps s (.ok (s.jump pc)) := ok ((self s).jump _)

theorem treeBranch (shape a b c d base) : Keeps s (.ok (treeBranch s shape a b c d base)) := by
  refine ok (NoKernelGained.jump (NoKernelGained.setMe (self s) ?_) _)
  exact id

theorem loopOn (n target) : Keeps s (.ok (loopOn s n target)) := by
  refine ok ?_
  unfold Machine.loopOn
  dsimp only
  split
  · exact ((self s).setRegs _).jump _
  · exact (self s).setRegs _

theorem suspendBlock (b pc) : NoKernelGained s (suspendBlock s b pc) := by
  unfold Machine.suspendBlock
  dsimp only
  split
  · exact (self s).leaveWith ..
  · exact ((((self s).dropRec ..).leaveWith ..).editRec ..).editRec ..

theorem endResolving (w code) : Keeps s (endResolving s w code) :=
  bind fun _ => bind fun _ => bind fun _ => bind fun _ => bindState (resolveAt ..) fun _ h => ok (h.retire _)

theorem returnTo (w pc) : Keeps s (returnTo s w pc) := ite (stop _) (ok ((self s).setMe_eq rfl))

theorem returnSystem (w) : Keeps s (returnSystem s w) :=
  ite (stop _) (bind fun _ => bind fun _ => ok ((self s).setMe fun x => nomatch x))

theorem haltCore (w) : Keeps s (haltCore s w) := ite (stop _) (ok ((self s).setMe fun x => nomatch x))

end Keeps

end Sys2Proof.Machine
end

section
namespace Sys2Proof.Machine

/-- What an instruction comes to in a state, by its guard: a slot word that keeps the privilege of every core, or an
event's next state. -/
inductive HasMeaning (s : State) : Option Guard → Out → Prop
  | word {g : Guard} {e : Eff State} (h : Keeps s e) : HasMeaning s (some g) (runSlot s g e)
  | event (t : State) : HasMeaning s none (.next t)

/-- Every slot word is run under its guard, and every event has a next state. -/
theorem exec_meaning (i : Instr) (s : State) : HasMeaning s i.guard? (exec i s) := by
  cases i
  case add | sub | mul | mulh | mulhn | min | max | minn | maxn | and | or | xor | andn | shl | shr | sra | rol =>
    exact .word (Keeps.binary ..)
  case div | divn | rem | remn =>
    exact .word (Keeps.division ..)
  case abs | clz | ctz | popc | addImm | mulImm | andImm | orImm | xorImm | shlImm | shrImm | sraImm | rolImm =>
    exact .word (Keeps.unary ..)
  case sel =>
    exact .word (Keeps.select ..)
  case movi =>
    exact .word (Keeps.moveImm ..)
  case movk =>
    exact .word (Keeps.unary ..)
  case cmpEq | cmpNe | cmpLt | cmpLe | cmpGt | cmpGe | cmpLtn | cmpLen | cmpGtn | cmpGen =>
    exact .word (Keeps.compare ..)
  case pand | por | pxor | pnot =>
    exact .word (Keeps.predicates ..)
  case qset | xset | vcfg | btsetRegister =>
    exact .word (Keeps.stage _ _ fun _ => rfl)
  case hset =>
    exact .word (Keeps.bind fun _ => Keeps.stage _ _ fun _ => rfl)
  case btsetOffset | mclrmask =>
    exact .word (Keeps.ok ((NoKernelGained.self s).setRegs _))
  case rdsr =>
    exact .word (Keeps.readControl ..)
  case wrsr =>
    exact .word (Keeps.writeControl ..)
  case tread =>
    exact .word (Keeps.bind fun _ => Keeps.ok ((NoKernelGained.self s).result ..))
  case ld1 | ld2 | ld4 | ld | ld4Acq | ldAcq =>
    exact .word (Keeps.loadBytes ..)
  case st1 | st2 | st4 | st | st4Rel | stRel =>
    exact .word (Keeps.storeBytes ..)
  case ldf | ldfDom | ldfe | ldfeDom | ste | steDom | stf | stfDom | feset | feclr =>
    exact .word (Keeps.fullEmpty ..)
  case aadd4 | aadd | aand4 | aand | aor4 | aor | axor4 | axor | amin4 | amin | amax4 | amax | aminn4 | aminn
        | amaxn4 | amaxn | axchg4 | axchg | acas4 | acas | afaddF32 | afaddF64 | afminF32 | afmaxF32 | afminF64
        | afmaxF64 =>
    exact .word (Keeps.atomic ..)
  case chunk =>
    exact .word (Keeps.chunkAt ..)
  case fence =>
    exact .word (Keeps.ite (Keeps.stop _) (Keeps.fenceAt _))
  case drain =>
    exact .word (Keeps.ite (Keeps.stop _) (Keeps.drainAt _))
  case barArr | barWt | barSync =>
    exact .word (Keeps.barrierAt ..)
  case cfset =>
    exact .word (Keeps.ite (Keeps.stop _) (Keeps.setFlag ..))
  case cfadd =>
    exact .word (Keeps.addFlag ..)
  case cfrd =>
    exact .word (Keeps.ite (Keeps.stop _) (Keeps.readFlag ..))
  case fres =>
    exact .word (Keeps.bind fun _ => Keeps.bind fun _ => Keeps.bind fun _ => Keeps.resolveAt ..)
  case fjoin =>
    exact .word (Keeps.joinAt ..)
  case fpoll =>
    exact .word (Keeps.pollAt ..)
  case xinv =>
    exact .word (Keeps.invalidate ..)
  case nop =>
    exact .word (Keeps.ok (.self s))
  case br =>
    exact .word (Keeps.jump _)
  case brt =>
    exact .word (Keeps.ite (Keeps.stop _) (Keeps.treeBranch ..))
  case call =>
    exact .word (Keeps.bind fun _ => Keeps.ok ((NoKernelGained.self s).jump _).link)
  case callr =>
    exact .word (Keeps.bind fun _ => Keeps.bind fun _ => Keeps.ok ((NoKernelGained.self s).jump _).link)
  case ret | jr =>
    exact .word (Keeps.bind fun _ => Keeps.jump _)
  case jt =>
    exact .word (Keeps.bind fun _ => Keeps.ok (((NoKernelGained.self s).touchCode _).jump _))
  case loopLc0 | loopLc1 =>
    exact .word (Keeps.loopOn ..)
  case suspend =>
    exact .word (Keeps.bind fun _ => Keeps.bind fun _ =>
      Keeps.ite (Keeps.bind fun _ => Keeps.bind fun _ => Keeps.ok (Keeps.suspendBlock ..))
        (Keeps.bind fun _ => Keeps.ok (Keeps.suspendBlock ..)))
  case yield =>
    exact .word (Keeps.bind fun _ => Keeps.bind fun _ => Keeps.bind fun _ => Keeps.bind fun _ =>
      Keeps.ok ((NoKernelGained.self s).leaveWith ..))
  case endBlock =>
    exact .word (Keeps.bind fun _ => Keeps.ok ((NoKernelGained.self s).retire _))
  case endF =>
    exact .word (Keeps.endResolving ..)
  case trap =>
    exact .word (Keeps.stop _)
  case uiret | uiretSkip =>
    exact .word (Keeps.returnTo ..)
  case eret =>
    exact .word (Keeps.returnSystem ..)
  case halt =>
    exact .word (Keeps.haltCore ..)
  case vadd | vsub | vmul | vmulh | vaddsat | vsubsat | vavg | vmin | vmax | vand | vor | vxor | vandn | vshl
        | vshr | vsra | vfadd | vfsub | vfmul | vfmin | vfmax | vfdiv | vabs | vfsqrt | vfrcp | vfrsq | vfexp2
        | vflog2 | vftanh | vfcls | vffma | vffms | vfnma =>
    exact .word (Keeps.lanes ..)
  case vcmpEq | vcmpNe | vcmpLt | vcmpLe | vcmpGt | vcmpGe | vfcmpEq | vfcmpNe | vfcmpLt | vfcmpLe | vfcmpGt
        | vfcmpGe =>
    exact .word (Keeps.compareLanes ..)
  case vsel =>
    exact .word (Keeps.selectLanes ..)
  case vcvt =>
    exact .word (Keeps.convertLanes ..)
  case vmxpack =>
    exact .word (Keeps.packLanes ..)
  case vmxunpack =>
    exact .word (Keeps.unpackLanes ..)
  case vredadd | vredmin | vredmax =>
    exact .word (Keeps.reduceRows ..)
  case vscan =>
    exact .word (Keeps.scanRows ..)
  case vperm =>
    exact .word (Keeps.permute ..)
  case vcompress | vexpand =>
    exact .word (Keeps.moveLanes ..)
  case vmov =>
    exact .word (Keeps.moveVector ..)
  case vsplat =>
    exact .word (Keeps.splat ..)
  case vext =>
    exact .word (Keeps.extract ..)
  case vins =>
    exact .word (Keeps.insert ..)
  case mand | mor | mxor | mnot =>
    exact .word (Keeps.maskOp ..)
  case mpopc | mfirst =>
    exact .word (Keeps.scalarFromMask ..)
  case laclr =>
    exact .word (Keeps.ok ((NoKernelGained.self s).setMe_eq rfl))
  case lafma | laadd =>
    exact .word (Keeps.accumulate ..)
  case laround =>
    exact .word (Keeps.roundLong ..)
  case lasgn =>
    exact .word (Keeps.signLong ..)
  case lamovToVector =>
    exact .word (Keeps.longToVector ..)
  case lamovFromVector =>
    exact .word (Keeps.vectorToLong ..)
  case mma | mmaSp | mmaMk | mmaS | mmaSpS =>
    exact .word (Keeps.product ..)
  case mscale =>
    exact .word (Keeps.ok (NoKernelGained.self s).scalePort)
  case mzero | mmov =>
    exact .word (Keeps.acceptMove ..)
  case mcvt =>
    exact .word (Keeps.convertTile ..)
  case mtr =>
    exact .word (Keeps.bind fun _ => Keeps.ite (Keeps.stop _) (Keeps.acceptMove ..))
  case mmask =>
    exact .word (Keeps.loadMask ..)
  case fwbind =>
    exact .word (Keeps.issueF ..)
  case fwread | fwstepDeltaPre | fwstepDeltaPost | fwstepHebb | fwstepGrad | fwfade | fwouter =>
    exact .word (Keeps.issueStep ..)
  case fwcommit | fwsnap | fwdrop | fwpagein | fwevict | fwstat =>
    exact .word (Keeps.issueOn ..)
  case fwfork =>
    exact .word (Keeps.ite (Keeps.stop _) (Keeps.issueOn ..))
  case fwavg =>
    exact .word (Keeps.issueAverage ..)
  case fwroll =>
    exact .word (Keeps.issueRoll ..)
  case fwmigr =>
    exact .word (Keeps.issueMigrate ..)
  case xld | xldTr | xst | xldv | xstv | xldw | xcopy | xfill | xsub | xpub | xpre | xpreBar | xpin | xunpin
        | xmig | ggath | gscat | gsend | genq =>
    exact .word (Keeps.acceptCommand ..)
  case xunsub =>
    exact .word (Keeps.acceptUnsub ..)
  case xwait =>
    exact .word (Keeps.waitFor ..)
  case gspd =>
    exact .word (Keeps.acceptSparse ..)
  case gcar | gcred | gcbc | gcag =>
    exact .word (Keeps.acceptCollective ..)
  case grecv =>
    exact .word (Keeps.acceptReceive ..)
  case glaunch =>
    exact .word (Keeps.acceptLaunch ..)
  case galloc | gallocR =>
    exact .word (Keeps.allocPlain ..)
  case gallocF | gallocFR =>
    exact .word (Keeps.allocTrap ..)
  case gfree =>
    exact .word (Keeps.freeAt ..)
  case gretract =>
    exact .word (Keeps.retractFrom ..)
  case stopk | stemp | stopp | sgram | sdraw | saccept | stok =>
    exact .word (Keeps.acceptSampler ..)
  case syncWait | syncPost | syncTake | nullifierSkip | partialSumArrive | mCommandComplete | fCommandComplete
        | stateEvict | stateEvictDone | statePageinDone | fwMigrationCopyDone | fwResidencyHoldExpire
        | xCommandComplete | gCommandComplete | sparseIndexPush | collectiveContribution | collectiveTimeout
        | mailboxDescriptorArrive | mailboxDescriptorTimeout | grecvTimeout | read | write | atomic | rowcopy
        | rowinit | subscribe | pull | packetDiscard | dramActivate | dramRefresh | rmlogValidClear | tierDemote
        | pageInComplete | residencyHoldExpire | translationWalk | remoteScratchpadAccess | waitWithdraw
        | waiterTableRetry | feWaitLimit | remoteAccessTimeout | flagPostArrive | flitReplay | linkFailed
        | fablinkRetrain | linkTrainingDone | headSuspect | meridianCapture | tokenRegenerate | ringSlotLand
        | ringSlotDrain | ringEnlarge | ringExtensionMove | scratchpadEccError | recordEnqueue
        | enqueueWindowWrite | joinDecrement | spillToOverflow | fillFromOverflow | dispatch | budget
        | launchRecordPlace | shapeResolve | retract | crewComplete | queueDestroy | qstatClear | orreryGo
        | orreryNodeFire | orreryIndexTake | ueMessageReceive | tokeniseRequest | requestWordLand
        | templateEnqueue | detokeniseWord | endpointWrite | almanacLoad | almanacLoadDone | userTrapEntry
        | kernelTrapEntry | swapOut | swapIn | swapComplete | partitionReset | managementRestart | powerOnReset
        | bootStageVerify | attestationStart | attestationDone | freezeCycle | thermalThrottle | climcapStep
        | thermalStop | registerWrite | remoteAccessReply | demotionComplete | stateSramEccError =>
    exact .event _

/-! ### Causes -/

namespace NoKernelGained

variable {s t : State}

theorem setStatus (h : NoKernelGained s t) (p : Progress) : NoKernelGained s (t.setStatus p) := h.setMe_eq rfl

theorem held (h : NoKernelGained s t) (counts : Bool) : NoKernelGained s (t.held counts) := h.setMe_eq rfl

theorem sendAwaited (h : NoKernelGained s t) (slot : Slot) (a : Acc) : NoKernelGained s (t.sendAwaited slot a) :=
  NoKernelGained.setMe_eq (t := { t with fresh := _, accs := _ }) h.of_same rfl

/-- The core of the turn was at user privilege, and is so still. -/
theorem user (h : NoKernelGained s t) (hs : s.me.kernel = false) : t.here = s.here ∧ t.me.kernel = false := by
  refine ⟨h.1, Bool.eq_false_iff.mpr fun hk => ?_⟩
  have hk' : (s.core t.here).kernel = true := h.2 _ hk
  rw [h.1] at hk'
  exact absurd hk' (Bool.eq_false_iff.mp hs)

end NoKernelGained

/-- However a synchronous cause is taken, the group of its core ends with it (R398, R403), and the turn stays. -/
theorem State.takeSync_marks (s : State) (k : Nat) (st : Stage) (x : Cause) :
    ∃ u : State, u.here = s.here ∧
      s.takeSync k st x = u.setCore k { u.core k with grp := { (u.core k).grp with status := .trapped st } } := by
  unfold State.takeSync
  extract_lets c mark
  have marked : ∀ u : State, u.here = s.here → ∃ v : State, v.here = s.here ∧
      mark u = v.setCore k { v.core k with grp := { (v.core k).grp with status := .trapped st } } :=
    fun u hu => ⟨u, hu, rfl⟩
  split_ifs
  · exact marked _ rfl
  · exact marked _ ((NoKernelGained.self s).cancel k).1
  · exact marked _ rfl
  · exact marked _ rfl
  · exact marked _ rfl
  · exact marked _ rfl

theorem State.takeSync_here (s : State) (k : Nat) (st : Stage) (x : Cause) : (s.takeSync k st x).here = s.here := by
  obtain ⟨u, hu, e⟩ := s.takeSync_marks k st x
  rw [e]
  exact hu

theorem State.takeSync_status (s : State) (k : Nat) (st : Stage) (x : Cause) :
    ((s.takeSync k st x).core k).grp.status = .trapped st := by
  obtain ⟨u, -, e⟩ := s.takeSync_marks k st x
  simp [e]

/-- A core at user privilege runs a slot word that keeps it: it stays at user privilege, unless its group has taken a
cause. -/
theorem finish_user {s t : State} {e : Eff State} (he : Keeps s e) (hs : s.me.kernel = false) (hf : finish s e = .next t) :
    t.here = s.here ∧ (t.me.kernel = true → ∃ st, t.me.grp.status = .trapped st) := by
  have kept : ∀ {u : State}, NoKernelGained s u → Host.Outcome.next u = (.next t : Out) →
      t.here = s.here ∧ (t.me.kernel = true → ∃ st, t.me.grp.status = .trapped st) := fun h e => by
    obtain ⟨hh, hk⟩ := h.user hs
    cases e
    exact ⟨hh, fun hx => absurd hx (Bool.eq_false_iff.mp hk)⟩
  have trapped : ∀ {u : State} {st : Stage}, u.here = s.here → (u.core s.here).grp.status = .trapped st →
      Host.Outcome.next u = (.next t : Out) →
      t.here = s.here ∧ (t.me.kernel = true → ∃ st, t.me.grp.status = .trapped st) := fun {u st} hh hst e => by
    cases e
    exact ⟨hh, fun _ => ⟨st, by rwa [State.me, hh]⟩⟩
  have hk := NoKernelGained.self s
  match e, hf with
  | .ok u, hf => exact kept (he.keeps u rfl) hf
  | .error (.trap st x), hf => exact trapped (s.takeSync_here ..) (s.takeSync_status ..) hf
  | .error (.stall _), hf => exact kept (hk.held _) hf
  | .error .engine, hf => exact kept ((hk.setMe_eq (c := { s.me with idleWait := true }) rfl).held _) hf
  | .error (.miss _), hf => exact kept ((hk.seek ..).setStatus _) hf
  | .error (.absent _ _), hf => exact kept (NoKernelGained.setStatus hk.of_same _) hf
  | .error (.send _ _), hf => exact kept (hk.sendAwaited ..) hf
  | .error .discard, hf =>
    exact trapped (st := .check) (u := s.discardBlock s.here) ((hk.retire s.here).retractLater _).1 (by simp [State.discardBlock]) hf
  | .error .cancel, hf =>
    exact trapped (st := .check) (u := s.cancelBlock s.here) (hk.cancel s.here).1 (by simp [State.cancelBlock]) hf
  | .error (.orderWait object), hf =>
    simp only [finish] at hf
    split at hf
    · exact trapped (st := .check) (u := s.waitInOrder s.here object)
        (hk.leaveWith s.here s.me.pc 3 (.waiting object)).1 (by simp [State.waitInOrder]) hf
    · exact kept (hk.held _) hf

/-- Settles O47: a slot word gives no core kernel privilege but by the cause it takes. -/
theorem kernelThroughTrapsAlone : Obligations.KernelThroughTrapsAlone := by
  unfold Obligations.KernelThroughTrapsAlone
  intro i g s t hg hs he
  have hm := exec_meaning i s
  rw [hg, he] at hm
  generalize ho : Host.Outcome.next t = o at hm
  cases hm with
  | word hk =>
    unfold runSlot at ho
    split at ho
    · exact finish_user hk hs ho.symm
    · cases ho
      exact ⟨rfl, fun hx => absurd hx (Bool.eq_false_iff.mp hs)⟩

end Sys2Proof.Machine
end

section
namespace Sys2Proof.Machine

/-! ## Every step answers (R3, R14) -/

/-- The outcome is a next state: neither a fault of the model nor a refusal. -/
def Answers (o : Out) : Prop := ∃ t, o = .next t

namespace Answers

theorem next (t : State) : Answers (.next t) := ⟨t, rfl⟩

theorem ite {c : Prop} [Decidable c] {o p : Out} (ho : Answers o) (hp : Answers p) : Answers (if c then o else p) := by
  split
  · exact ho
  · exact hp

theorem andThen {o : Out} {f : State → Out} (ho : Answers o) (hf : ∀ t, Answers (f t)) : Answers (andThen o f) := by
  obtain ⟨t, rfl⟩ := ho
  exact hf t

theorem exec (i : Instr) (s : State) : Answers (exec i s) := by
  have hm := exec_meaning i s
  generalize i.guard? = g, Machine.exec i s = o at hm
  cases hm with
  | word _ => exact runSlot_next ..
  | event t => exact next t

theorem settled {o : Out} (s : State) (ho : Answers o) : Answers (settled s o) := by
  obtain ⟨t, rfl⟩ := ho
  unfold Machine.settled
  dsimp only
  split
  · exact ite (next _) (next t)
  · exact next t

end Answers

/-- The outcome that decides among some is one of them. -/
theorem mem_of_deciding {s : State} {l : List Out} {n : Nat} {o : Out} (h : deciding s l = some (n, o)) : o ∈ l := by
  induction l generalizing n o with
  | nil => exact nomatch h
  | cons p r ih =>
    unfold deciding at h
    split at h
    · exact List.mem_cons_of_mem _ (ih h)
    · rename_i hd
      split at h
      · cases h
        exact List.mem_cons_of_mem _ (ih hd)
      · cases h
        exact List.mem_cons_self
    · cases h
      exact List.mem_cons_self

theorem mem_of_decided {s : State} {tried waiting : List Out} {o : Out} (h : decided s tried waiting = some o) :
    o ∈ tried ∨ o ∈ waiting := by
  unfold decided at h
  split at h
  · rename_i ht hw
    split at h
    · exact .inl (Option.some.inj h ▸ mem_of_deciding ht)
    · exact .inr (Option.some.inj h ▸ mem_of_deciding hw)
  · rename_i ht _
    exact .inl (Option.some.inj h ▸ mem_of_deciding ht)
  · obtain ⟨p, hp, rfl⟩ := Option.map_eq_some_iff.mp h
    exact .inr (mem_of_deciding hp)

namespace Answers

section
variable {ex : Meaning} (hex : ∀ i s, Answers (ex i s))
include hex

theorem runWords (x : Option W64 × BitVec 5 × Option W64) (ws : List CodeWord) (s : State) :
    Answers (runWords ex x s ws) := by
  induction ws generalizing s with
  | nil => exact next s
  | cons w r ih => exact andThen (hex _ _) ih

theorem effects (s : State) (g : Code) (x : Option W64 × BitVec 5 × Option W64) : Answers (effects ex s g x) :=
  andThen (ite (hex _ _) (next s)) fun _ => andThen (runWords hex _ _ _) fun t => ite (hex _ _) (next t)

/-- What the sync op of a group comes to as a wait, if it has one. -/
theorem waiting {g : Code} {u : State} {c : Prop} [Decidable c] {o : Out}
    (h : o ∈ if c then [] else if g.sync = 1 then [ex (.syncWait g.flag g.count) u]
      else if g.sync = 3 then [ex (.syncTake g.flag g.count) u] else []) : Answers o := by
  split_ifs at h
  · exact nomatch h
  · exact List.mem_singleton.mp h ▸ hex _ _
  · exact List.mem_singleton.mp h ▸ hex _ _
  · exact nomatch h

theorem issueGroup (s : State) : Answers (issueGroup ex s) := by
  unfold Machine.issueGroup
  extract_lets pc s0
  split
  · exact ite (hex _ _) (andThen (finish_next ..) fun _ => next _)
  · extract_lets s1
    refine ite (ite (hex _ _) (andThen (hex _ _) fun _ => next _)) (ite (hex _ _) ?_)
    extract_lets
    split
    · rename_i o ho
      refine andThen ?_ fun _ => next _
      obtain h | h := mem_of_decided ho
      · obtain ⟨w, -, rfl⟩ := List.mem_map.mp h
        exact settled _ (hex _ _)
      · exact waiting hex h
    · exact ite (next _) (ite (hex _ _) (andThen (effects hex _ _ _) fun _ => next _))

theorem turn (s : State) : Answers (turn ex s).1 := by
  unfold Machine.turn
  dsimp only
  split_ifs
  · exact next _
  · exact hex _ _
  · exact next _
  · exact hex _ _
  · exact hex _ _
  · exact hex _ _
  · exact hex _ _
  · exact issueGroup hex s

end

/-- The step of a state whose turn is that of a core of the module. -/
theorem step {s : State} (h : isCore s.here = true) : Answers (step s) := by
  unfold Machine.step
  rw [if_neg (by simp [h])]
  split
  · exact andThen (exec _ _) fun _ => next _
  · exact andThen (turn exec s) fun _ => next _

end Answers

/-- Settles O46: slot words and events always answer, and so does a turn, whose outcome is one of theirs. -/
theorem everyStepAnswers : Obligations.EveryStepAnswers := by
  unfold Obligations.EveryStepAnswers
  refine ⟨Answers.exec, fun s => ⟨Answers.step, fun h => ?_⟩⟩
  unfold step
  rw [h]
  rfl

end Sys2Proof.Machine
end

section
namespace Sys2Proof.Machine

/-! ## Poisoned operands and causes (R182, R268, R404) -/

/-- A slot word that waits until its registers are ready and then uses an operand, before it does anything else. -/
def UsesFirst (s : State) (g : Guard) (w : Site) (ok : Bool) (a : BitVec 6) (o : Out) : Prop :=
  ∃ r : W64 → Eff State, o = runSlot s g (ready ok >>= fun _ => operand s w a >>= r)

/-- One that uses a second operand next. -/
def UsesBoth (s : State) (g : Guard) (w : Site) (ok : Bool) (a b : BitVec 6) (o : Out) : Prop :=
  ∃ r : W64 → W64 → Eff State,
    o = runSlot s g (ready ok >>= fun _ => operand s w a >>= fun x => operand s w b >>= r x)

/-- What a word that raises POISON comes to. -/
def poisonTaken (s : State) (w : Site) (a : BitVec 6) : Out :=
  .next (s.takeSync s.here .check (causeAt s w 0x26 a.toNat 0))

section
variable {s : State} {g : Guard} {w : Site} {ok : Bool} {a b : BitVec 6} {o : Out}

theorem UsesFirst.poison (h : UsesFirst s g w ok a o) (hg : s.me.guarded g = true) (hok : ok = true)
    (ha : (source s a).poison = true) : o = poisonTaken s w a := by
  obtain ⟨r, rfl⟩ := h
  rw [runSlot_true _ hg, ready_ok.mpr hok, operand_poison w ha]
  rfl

theorem UsesBoth.first (h : UsesBoth s g w ok a b o) : UsesFirst s g w ok a o :=
  let ⟨r, hr⟩ := h
  ⟨fun x => operand s w b >>= r x, hr⟩

theorem UsesBoth.poison (h : UsesBoth s g w ok a b o) (hg : s.me.guarded g = true) (hok : ok = true)
    (ha : (source s a).poison = false) (hb : (source s b).poison = true) : o = poisonTaken s w b := by
  obtain ⟨r, rfl⟩ := h
  rw [runSlot_true _ hg, ready_ok.mpr hok, operand_ok w ha, operand_poison w hb]
  rfl

end

/-! ### Which operands the operations use -/

section
variable (s : State) (g : Guard) {word : BitVec 32}

theorem twoSource_usesBoth : ∀ p ∈ twoSource ++ divisions, ∀ (sl : Lane) (d a b : BitVec 6) (w : Bool),
    (p.1 sl g d a b w).encode = some word →
      UsesBoth s g ⟨sl.slot, word⟩ (scalarReady s sl d [a, b]) a b (exec (p.1 sl g d a b w) s) := by
  intro p hp sl d a b w he
  fin_cases hp
  all_goals
    cases he
    exact ⟨_, rfl⟩

theorem oneSource_usesFirst : ∀ p ∈ oneSource, ∀ (sl : Lane) (d a : BitVec 6) (w : Bool),
    (p.1 sl g d a w).encode = some word →
      UsesFirst s g ⟨sl.slot, word⟩ (scalarReady s sl d [a]) a (exec (p.1 sl g d a w) s) := by
  intro p hp sl d a w he
  fin_cases hp
  all_goals
    cases he
    exact ⟨_, rfl⟩

theorem withImmediate_usesFirst : ∀ p ∈ withImmediate, ∀ (sl : Lane) (d a : BitVec 6) (i : BitVec 8),
    (p.1 sl g d a i).encode = some word →
      UsesFirst s g ⟨sl.slot, word⟩ (scalarReady s sl d [a]) a (exec (p.1 sl g d a i) s) := by
  intro p hp sl d a i he
  fin_cases hp
  all_goals
    cases he
    exact ⟨_, rfl⟩

theorem compares_usesBoth : ∀ p ∈ compares, ∀ (sl : Lane) (m n : BitVec 4) (a b : BitVec 6),
    (p.1 sl g m n a b).encode = some word →
      UsesBoth s g ⟨sl.slot, word⟩ (available s a && available s b) a b (exec (p.1 sl g m n a b) s) := by
  intro p hp sl m n a b he
  fin_cases hp
  all_goals
    cases he
    exact ⟨_, rfl⟩

theorem loads_usesFirst : ∀ p ∈ loads, ∀ (d b : BitVec 6) (o : BitVec 8), (p.1 g d b o).encode = some word →
    UsesFirst s g ⟨.B, word⟩ (scalarReady s .B d [b]) b (exec (p.1 g d b o) s) := by
  intro p hp d b o he
  fin_cases hp
  all_goals
    cases he
    exact ⟨_, rfl⟩

theorem stores_usesFirst : ∀ p ∈ stores, ∀ (d b : BitVec 6) (o : BitVec 8), (p.1 g d b o).encode = some word →
    UsesFirst s g ⟨.B, word⟩ (available s d && available s b) b (exec (p.1 g d b o) s) := by
  intro p hp d b o he
  fin_cases hp
  all_goals
    cases he
    exact ⟨_, rfl⟩

/-- Only `acas` and `acas4` wait for their destination as a source too. -/
theorem atomics_usesBoth : ∀ p ∈ atomics, ∀ (d b : BitVec 6) (r : BitVec 2) (sr : BitVec 6),
    (p.1 g d b r sr).encode = some word →
      ∃ cas : Bool, UsesBoth s g ⟨.B, word⟩ (scalarReady s .B d [b, sr] && (!cas || available s d)) b sr
        (exec (p.1 g d b r sr) s) := by
  intro p hp d b r sr he
  fin_cases hp
  all_goals
    cases he
    exact ⟨_, _, rfl⟩

end

/-! ### The statement's clauses -/

section
variable {s : State} {g : Guard} {word : BitVec 32}

theorem scalarReady_one {sl : Lane} {d a : BitVec 6} (hd : s.definable sl d) (ha : available s a = true) :
    scalarReady s sl d [a] = true :=
  (scalarReady_iff ..).mpr ⟨by simpa using ha, hd⟩

theorem scalarReady_two {sl : Lane} {d a b : BitVec 6} (hd : s.definable sl d) (ha : available s a = true)
    (hb : available s b = true) : scalarReady s sl d [a, b] = true :=
  (scalarReady_iff ..).mpr ⟨by simp [ha, hb], hd⟩

/-- The first poisoned source of a two-source operation is the one named. -/
theorem twoSource_poison (p) (hp : p ∈ twoSource ++ divisions) (sl : Lane) (d a b : BitVec 6) (w : Bool)
    (hg : s.me.guarded g = true) (ha : available s a = true) (hb : available s b = true) (hd : s.definable sl d)
    (he : (p.1 sl g d a b w).encode = some word) (h : (source s a).poison = true ∨ (source s b).poison = true) :
    exec (p.1 sl g d a b w) s = poisonTaken s ⟨sl.slot, word⟩ (if (source s a).poison then a else b) := by
  have hu := twoSource_usesBoth s g p hp sl d a b w he
  have hok := scalarReady_two hd ha hb
  by_cases hx : (source s a).poison = true
  · rw [if_pos hx]
    exact hu.first.poison hg hok hx
  · rw [if_neg hx]
    exact hu.poison hg hok (Bool.eq_false_iff.mpr hx) (h.resolve_left hx)

theorem atomic_poison (p) (hp : p ∈ atomics) (d a b : BitVec 6) (r : BitVec 2) (hg : s.me.guarded g = true)
    (ha : available s a = true) (hb : available s b = true) (hdd : available s d = true) (hd : s.definable .B d)
    (hx : (source s a).poison = true) :
    ((p.1 g d a r b).encode = some word → exec (p.1 g d a r b) s = poisonTaken s ⟨.B, word⟩ a)
    ∧ ((source s b).poison = false → (p.1 g d b r a).encode = some word →
      exec (p.1 g d b r a) s = poisonTaken s ⟨.B, word⟩ a) := by
  refine ⟨fun he => ?_, fun hb' he => ?_⟩
  · obtain ⟨cas, hu⟩ := atomics_usesBoth s g p hp d a r b he
    exact hu.first.poison hg (by simp [scalarReady_two hd ha hb, hdd]) hx
  · obtain ⟨cas, hu⟩ := atomics_usesBoth s g p hp d b r a he
    exact hu.poison hg (by simp [scalarReady_two hd hb ha, hdd]) hb' hx

theorem guarded_always (s : State) : s.me.guarded always = true :=
  congrArg (· != false) (Core.pred_zero s.me)

/-- `eret`, `halt` and `xinv`, and the reads and writes of the registers that only the kernel may reach. -/
theorem privilege_raised : ∀ i ∈ [Instr.eret always, .halt always, .xinv always 1 2, .rdsr always 1 0x020,
    .wrsr always 1 0x020, .rdsr always 1 0x100, .wrsr always 1 0x100], ∀ sl : Slot,
    s.me.kernel = false → i.slot? = some sl → i.encode = some word → exec i s = finish s (raisePrivilege s ⟨sl, word⟩) := by
  intro i hi sl hk hs he
  fin_cases hi
  all_goals
    obtain rfl := Option.some.inj he
    obtain rfl := Option.some.inj hs
    refine (runSlot_true _ (guarded_always s)).trans (congrArg (finish s) ?_)
  · exact if_pos (by simp [hk])
  · exact if_pos (by simp [hk])
  · exact if_pos (by simp [hk])
  all_goals exact (if_neg (by decide)).trans (if_pos (by simp [hk]; decide))

theorem uiret_raised : ∀ i ∈ [Instr.uiret always, .uiretSkip always], s.me.handler = false → i.encode = some word →
    exec i s = finish s (raiseIllegal s ⟨.C, word⟩) := by
  intro i hi hh he
  fin_cases hi
  all_goals
    obtain rfl := Option.some.inj he
    exact (runSlot_true _ (guarded_always s)).trans (congrArg (finish s) (if_pos (by simp [hh])))

theorem ret_usesFirst (he : (Instr.ret g).encode = some word) :
    UsesFirst s g ⟨.C, word⟩ (available s 47) 47 (exec (.ret g) s) := by
  obtain rfl := Option.some.inj he
  refine ⟨fun x => .ok (s.jump x), congrArg (runSlot s g) (bind_assoc ..)⟩

theorem eret_usesFirst (he : (Instr.eret g).encode = some word) (hk : s.me.kernel = true) :
    UsesFirst s g ⟨.C, word⟩ (available s 47) 47 (exec (.eret g) s) := by
  obtain rfl := Option.some.inj he
  exact ⟨_, congrArg (runSlot s g) (if_neg (by simp [hk]))⟩

end

/-- Settles O8: each word stops at the operand or the privilege that raises its cause, before any effect. -/
theorem raisedCauses : Obligations.RaisedCauses := by
  unfold Obligations.RaisedCauses
  refine ⟨fun p hp s sl g d a b w word hg ha hb hd he h => twoSource_poison p hp sl d a b w hg ha hb hd he h,
    fun s sl g d a b word hg ha hx => ?_, fun s g n word hg he => ?_, fun i hi s sl word hk hs he => ?_,
    fun i hi s word hh he => ?_, fun s g word hg he ha hx => ⟨?_, fun w he' hk => ?_⟩⟩
  · refine ⟨fun hd => ⟨fun p hp w he => ?_, fun p hp i he => ?_⟩, fun p hp m n hb he => ?_, fun p hp o hd he => ?_,
      fun p hp o hd he => ?_, fun p hp r hd hb hdd => atomic_poison p hp d a b r hg ha hb hdd hd hx⟩
    · exact (oneSource_usesFirst s g p hp sl d a w he).poison hg (scalarReady_one hd ha) hx
    · exact (withImmediate_usesFirst s g p hp sl d a i he).poison hg (scalarReady_one hd ha) hx
    · exact (compares_usesBoth s g p hp sl m n a b he).first.poison hg (by simp [ha, hb]) hx
    · exact (loads_usesFirst s g p hp d a o he).poison hg (scalarReady_one hd ha) hx
    · exact (stores_usesFirst s g p hp d a o he).poison hg (by simp [ha, hd]) hx
  · obtain rfl := Option.some.inj he
    exact runSlot_true _ hg
  · exact privilege_raised i hi sl hk hs he
  · exact uiret_raised i hi hh he
  · exact (ret_usesFirst he).poison hg ha hx
  · exact (eret_usesFirst he' hk).poison hg ha hx

end Sys2Proof.Machine
end

section
namespace Sys2Proof.Machine

/-! ## Fields and masks (R5) -/

/-- The mask of k bits from a position. -/
def maskAt (lo k : Nat) : W64 := BitVec.ofNat 64 ((2 ^ k - 1) * 2 ^ lo)

/-- A field in its place is the value under the field's mask. -/
theorem ofNat_field (x : W64) (lo k : Nat) : BitVec.ofNat 64 (field x lo k * 2 ^ lo) = x &&& maskAt lo k := by
  apply BitVec.eq_of_getLsbD_eq
  intro i hi
  rw [BitVec.getLsbD_and, BitVec.getLsbD_ofNat, maskAt, BitVec.getLsbD_ofNat, Nat.testBit_mul_two_pow,
    Nat.testBit_mul_two_pow, Nat.testBit_two_pow_sub_one, field, bitsOf, Nat.testBit_mod_two_pow,
    Nat.testBit_div_two_pow]
  by_cases h : lo ≤ i
  · rw [Nat.sub_add_cancel h, BitVec.testBit_toNat]
    simp [hi, h, Bool.and_comm]
  · simp [h]

theorem ofNat_field_zero (x : W64) (k : Nat) : BitVec.ofNat 64 (field x 0 k) = x &&& maskAt 0 k := by
  rw [← ofNat_field, Nat.pow_zero, Nat.mul_one]

theorem field_le (x : W64) (lo k : Nat) : field x lo k * 2 ^ lo ≤ x.toNat :=
  (Nat.mul_le_mul_right _ (Nat.mod_le _ _)).trans (Nat.div_mul_le_self _ _)

theorem field_lt (x : W64) (lo k : Nat) : field x lo k < 2 ^ k := Nat.mod_lt _ (Nat.two_pow_pos k)

/-- The low bits of a value, under their mask. -/
theorem toNat_and_maskAt (x : W64) (k : Nat) : (x &&& maskAt 0 k).toNat = field x 0 k := by
  rw [← ofNat_field_zero, BitVec.toNat_ofNat, Nat.mod_eq_of_lt]
  exact Nat.lt_of_le_of_lt (by simpa using field_le x 0 k) x.isLt

/-- Values under masks that share no bit add up to the value under both. -/
theorem and_add_and (x : W64) {m n : W64} (h : m &&& n = 0) : (x &&& m) + (x &&& n) = x &&& (m ||| n) := by
  rw [BitVec.add_eq_or_of_and_eq_zero, BitVec.and_or_distrib_left]
  rw [show x &&& m &&& (x &&& n) = x &&& x &&& (m &&& n) by ac_rfl, h]
  simp

/-- Values of two words under masks that share no bit. -/
theorem and_add_and_eq_or (x y : W64) {m n : W64} (h : m &&& n = 0) : (x &&& m) + (y &&& n) = x &&& m ||| y &&& n := by
  rw [BitVec.add_eq_or_of_and_eq_zero]
  rw [show x &&& m &&& (y &&& n) = x &&& y &&& (m &&& n) by ac_rfl, h]
  simp

/-- A value with a field replaced: the rest of it under the other bits. -/
theorem setField_eq (x : W64) (lo k v : Nat) :
    setField x lo k v = (x &&& ~~~maskAt lo k) + BitVec.ofNat 64 (v % 2 ^ k * 2 ^ lo) := by
  have hx : (x &&& ~~~maskAt lo k) + (x &&& maskAt lo k) = x := by
    rw [and_add_and x (by simp)]
    exact (congrArg (x &&& ·) (BitVec.not_or_self _)).trans BitVec.and_allOnes
  have hs : BitVec.ofNat 64 (x.toNat - field x lo k * 2 ^ lo) + BitVec.ofNat 64 (field x lo k * 2 ^ lo) = x := by
    rw [← BitVec.ofNat_add, Nat.sub_add_cancel (field_le ..), BitVec.ofNat_toNat]
    simp
  rw [ofNat_field] at hs
  rw [setField, BitVec.ofNat_add, (BitVec.add_left_inj _).mp (hs.trans hx.symm)]

/-- The low 32 bits of a value, as a register of 32 bits is read. -/
theorem zeroExtend_truncate_32 (x : W64) : (x.truncate 32).zeroExtend 64 = x &&& 0xFFFFFFFF := by
  rw [show (0xFFFFFFFF : W64) = maskAt 0 32 by decide, ← ofNat_field_zero]
  apply BitVec.eq_of_toNat_eq
  simp [field, bitsOf]

/-! ## Writes of the control registers (R245) -/

theorem writeVcfg_vcfg (r : Arch) (x : W64) : (r.writeVcfg x).vcfg = vcfgAfter r.vcfg x := by
  have hrm : (x >>> 35 &&& 7).toNat = field x 35 3 := by
    refine (toNat_and_maskAt (x >>> 35) 3).trans ?_
    simp [field, bitsOf, Nat.shiftRight_eq_div_pow]
  have hlow : ∀ y : W64, BitVec.ofNat 64 (field y 35 3 * 2 ^ 35 + field x 32 3 * 2 ^ 32 + field x 0 30)
      = (y &&& maskAt 35 3) + (x &&& 0x073FFFFFFF) := fun y => by
    rw [BitVec.ofNat_add, BitVec.ofNat_add, ofNat_field, ofNat_field, ofNat_field_zero, BitVec.add_assoc,
      and_add_and x (by decide)]
    rfl
  unfold Arch.writeVcfg vcfgAfter
  rw [hrm]
  dsimp only
  split
  · rw [if_neg (by omega), hlow, and_add_and_eq_or _ _ (by decide), BitVec.or_comm]
    rfl
  · rw [if_pos (by omega), hlow, and_add_and x (by decide)]
    rfl

theorem patternAfter_eq (old x : W64) : patternAfter old x = vpatAfter old x := by
  have hkind : (x &&& 7).toNat = field x 0 3 := toNat_and_maskAt x 3
  unfold patternAfter vpatAfter
  rw [hkind]
  dsimp only
  split
  · rw [if_neg (by omega), BitVec.ofNat_add, ofNat_field, ofNat_field_zero, and_add_and_eq_or _ _ (by decide)]
    rfl
  · rw [if_pos (by omega), BitVec.ofNat_add, ofNat_field, ofNat_field_zero, and_add_and x (by decide)]
    rfl

theorem climAfter (old x : W64) : setField old 0 16 (max 128 (field x 0 16))
    = old &&& ~~~0xFFFF ||| if (x &&& 0xFFFF).toNat < 128 then 128 else x &&& 0xFFFF := by
  have hlim : (x &&& 0xFFFF).toNat = field x 0 16 := toNat_and_maskAt x 16
  rw [setField_eq, hlim]
  split
  · rw [max_eq_left (by omega)]
    exact and_add_and_eq_or old 128 (m := ~~~0xFFFF) (n := 128) (by decide)
  · rw [max_eq_right (by omega), Nat.mod_eq_of_lt (field_lt ..), ofNat_field, and_add_and_eq_or _ _ (by decide)]
    rfl

theorem seedAfter (x : W64) : (if x.truncate 32 = (0 : BitVec 32) then 1 else x.truncate 32).zeroExtend 64
    = if x &&& 0xFFFFFFFF = 0 then 1 else x &&& 0xFFFFFFFF := by
  have hz : x.truncate 32 = (0 : BitVec 32) ↔ x &&& 0xFFFFFFFF = 0 := by
    rw [← zeroExtend_truncate_32]
    refine ⟨fun h => by rw [h]; rfl, fun h => ?_⟩
    have := congrArg (BitVec.truncate 32) h
    simpa using this
  by_cases h : x.truncate 32 = (0 : BitVec 32)
  · rw [if_pos h, if_pos (hz.mp h)]
    rfl
  · rw [if_neg h, if_neg (mt hz.mpr h), zeroExtend_truncate_32]

/-- A control register holds after a write what its field map makes of the value. -/
theorem writeCsr_self (r : Arch) (x : W64) : ∀ p ∈ controls, p.2.1 (r.writeCsr p.1.toNat x) = p.2.2 (p.2.1 r) x := by
  have two : ∀ {a b m n} {y : W64}, y = BitVec.ofNat 64 (field x a b * 2 ^ a + field x 0 n) → maskAt a b &&& maskAt 0 n = 0 →
      maskAt a b ||| maskAt 0 n = m → y = x &&& m := by
    rintro a b m n y rfl hd rfl
    rw [BitVec.ofNat_add, ofNat_field, ofNat_field_zero, and_add_and x hd]
  intro p hp
  fin_cases hp
  · exact writeVcfg_vcfg r x
  · exact two (a := 14) (b := 2) (n := 7) rfl (by decide) (by decide)
  · exact seedAfter x
  · rfl
  · exact zeroExtend_truncate_32 x
  · rfl
  · refine (setField_eq ..).trans ?_
    rw [Nat.mod_eq_of_lt (field_lt ..), ofNat_field, and_add_and_eq_or _ _ (by decide)]
    rfl
  · rfl
  · exact ofNat_field_zero x 1
  · exact (congrArg (BitVec.zeroExtend 64) (Vector.getElem_set_self ..)).trans (zeroExtend_truncate_32 x)
  · exact (congrArg (BitVec.zeroExtend 64) (Vector.getElem_set_self ..)).trans (zeroExtend_truncate_32 x)
  · exact (Vector.getElem_set_self ..).trans (patternAfter_eq _ x)
  · exact (Vector.getElem_set_self ..).trans (patternAfter_eq _ x)
  · exact (Vector.getElem_set_self ..).trans (patternAfter_eq _ x)
  · rfl
  · exact two (a := 2) (b := 55) (n := 1) rfl (by decide) (by decide)
  · exact climAfter _ x
  · exact ofNat_field_zero x 48

theorem writeCsr_other (r : Arch) (x : W64) :
    ∀ p ∈ controls, ∀ q ∈ controls, q.1 ≠ p.1 → q.2.1 (r.writeCsr p.1.toNat x) = q.2.1 r := by
  intro p hp
  fin_cases hp
  all_goals simp [controls, Arch.writeCsr, Arch.writeVcfg]

theorem writeCsr_writes (r : Arch) (n : Nat) (x : W64) :
    ∃ vcfg fstat srseed swz waitlim cfstat tstat mactl lc vpat pslost uivec clim frzcnt,
      r.writeCsr n x = { r with
        vcfg := vcfg, fstat := fstat, srseed := srseed, swz := swz, waitlim := waitlim, cfstat := cfstat, tstat := tstat
        mactl := mactl, lc := lc, vpat := vpat, pslost := pslost, uivec := uivec, clim := clim, frzcnt := frzcnt } := by
  unfold Arch.writeCsr
  split
  all_goals exact ⟨_, _, _, _, _, _, _, _, _, _, _, _, _, _, rfl⟩

/-- A write of a control register changes none but the registers that `wrsr` writes. -/
theorem writeCsr_frame (r : Arch) (n : Nat) (x : W64) :
    let t := r.writeCsr n x
    t = { r with vcfg := t.vcfg, fstat := t.fstat, srseed := t.srseed, swz := t.swz, waitlim := t.waitlim,
                 cfstat := t.cfstat, tstat := t.tstat, mactl := t.mactl, lc := t.lc, vpat := t.vpat,
                 pslost := t.pslost, uivec := t.uivec, clim := t.clim, frzcnt := t.frzcnt } := by
  obtain ⟨_, _, _, _, _, _, _, _, _, _, _, _, _, _, e⟩ := writeCsr_writes r n x
  rw [e]

/-- `wrsr` of a register that its core may write, whose source is known. -/
theorem wrsr_exec {s : State} {g : Guard} {a : BitVec 6} {x : W64} {n : BitVec 14} (hg : s.me.guarded g = true)
    (hx : s.reads a x) (hn : csrs.contains n.toNat = true) (hp : csrPrivileged n.toNat = true → s.me.kernel = true)
    (hr : csrReady s n.toNat = true) : exec (.wrsr g a n) s = .next (writeCsr s n.toNat x) := by
  refine runSlot_ok hg ?_
  unfold writeControl
  rw [if_neg (by rw [hn]; decide), if_neg (by simpa using hp), ready_ok.mpr (by simp [available_known hx, hr]),
    operand_known _ hx]
  rfl

/-- Every control register of a core is one that `wrsr` names, and CLIM alone of them asks for the kernel. -/
theorem controls_csrs : ∀ p ∈ controls, csrs.contains p.1.toNat = true
    ∧ (csrPrivileged p.1.toNat = true → p.1 = 0x020) ∧ p.1.toNat ≠ 0x100 := by
  intro p hp
  fin_cases hp
  all_goals decide

/-! ### SWZ (R94) -/

/-- The code that a field of SWZ holds after a write. -/
def swizzleCode (old x : W64) (j : Nat) : Nat :=
  let v := field x (4 * j) 4
  if v = 0 || (5 ≤ v && v ≤ 10) then v else field old (4 * j) 4

theorem swizzleAfter_succ (old x : W64) (n : Nat) :
    swizzleAfter old x (n + 1) = swizzleAfter old x n + swizzleCode old x n * 2 ^ (4 * n) := rfl

theorem swizzleCode_lt (old x : W64) (j : Nat) : swizzleCode old x j < 16 := by
  unfold swizzleCode
  dsimp only
  split
  · exact field_lt ..
  · exact field_lt ..

theorem swizzleAfter_lt (old x : W64) (n : Nat) : swizzleAfter old x n < 2 ^ (4 * n) := by
  induction n with
  | zero => exact Nat.one_pos
  | succ n ih =>
    have hc := swizzleCode_lt old x n
    rw [swizzleAfter_succ, Nat.mul_succ, Nat.pow_add]
    nlinarith

theorem bitsOf_swizzleAfter (old x : W64) {n j : Nat} (h : j < n) :
    bitsOf (swizzleAfter old x n) (4 * j) 4 = swizzleCode old x j := by
  induction n with
  | zero => exact absurd h (Nat.not_lt_zero j)
  | succ n ih =>
    rw [swizzleAfter_succ, bitsOf]
    obtain hj | rfl := Nat.lt_succ_iff_lt_or_eq.mp h
    · have hpow : swizzleCode old x n * 2 ^ (4 * n)
          = swizzleCode old x n * 2 ^ (4 * (n - j - 1)) * 2 ^ 4 * 2 ^ (4 * j) := by
        rw [Nat.mul_assoc, Nat.mul_assoc, ← Nat.pow_add, ← Nat.pow_add]
        congr 2
        omega
      rw [hpow, Nat.add_mul_div_right _ _ (Nat.two_pow_pos _), Nat.add_mul_mod_self_right]
      exact ih hj
    · rw [Nat.add_mul_div_right _ _ (Nat.two_pow_pos _), Nat.div_eq_of_lt (swizzleAfter_lt ..), Nat.zero_add]
      exact Nat.mod_eq_of_lt (swizzleCode_lt ..)

theorem extractLsb'_toNat_eq_field (x : W64) (lo : Nat) : (x.extractLsb' lo 4).toNat = field x lo 4 := by
  rw [BitVec.extractLsb'_toNat, Nat.shiftRight_eq_div_pow]
  rfl

theorem swizzle_field (old x : W64) (j : Nat) (h : j < 12) :
    let v := (x.extractLsb' (4 * j) 4).toNat
    (BitVec.ofNat 64 (swizzleAfter old x 12)).extractLsb' (4 * j) 4
      = if v = 0 ∨ 5 ≤ v ∧ v ≤ 10 then x.extractLsb' (4 * j) 4 else old.extractLsb' (4 * j) 4 := by
  have hlt : swizzleAfter old x 12 < 2 ^ 64 := (swizzleAfter_lt old x 12).trans (by decide)
  have hcode : field (BitVec.ofNat 64 (swizzleAfter old x 12)) (4 * j) 4 = swizzleCode old x j := by
    rw [field, BitVec.toNat_ofNat, Nat.mod_eq_of_lt hlt, bitsOf_swizzleAfter old x h]
  apply BitVec.eq_of_toNat_eq
  rw [apply_ite BitVec.toNat]
  simp only [extractLsb'_toNat_eq_field, hcode, swizzleCode, Bool.or_eq_true, Bool.and_eq_true, decide_eq_true_eq]

/-- Settles O15: each write leaves its register with what the field map makes of the value, and touches no other. -/
theorem controlWrites : Obligations.ControlWrites := by
  unfold Obligations.ControlWrites
  refine ⟨fun s g a x hg hx => ⟨fun p hp hr hk => ?_, ?_, fun hk => ?_⟩, swizzle_field⟩
  · obtain ⟨hn, hpriv, hctx⟩ := controls_csrs p hp
    refine ⟨s.me.r.writeCsr p.1.toNat x, ?_, writeCsr_self _ x p hp, fun q hq => writeCsr_other _ x p hp q hq,
      writeCsr_frame _ _ x⟩
    rw [wrsr_exec hg hx hn (fun h => hk.resolve_right (not_not_intro (hpriv h))) hr]
    exact congrArg _ (if_neg hctx)
  · exact wrsr_exec hg hx (by decide) (fun h => absurd h (by decide)) rfl
  · rw [wrsr_exec hg hx (by decide) (fun _ => hk) rfl]
    have hctx : BitVec.ofNat 64 (field x 0 56) = x &&& 0x00FFFFFFFFFFFFFF := ofNat_field_zero x 56
    rw [← hctx]
    rfl

end Sys2Proof.Machine
end

section
namespace Sys2Proof.Machine

/-! ## Power-on reset (R411) -/

/-- Entries kept by their key alone: the others read as unlisted. -/
theorem Table.look_filter_key {α : Type} (t : Table α) (f : Nat × α → Bool) (keep : Nat → Bool)
    (hf : ∀ p, f p = keep p.1) (k : Nat) :
    Table.look (t.filter f) k = if keep k then Table.look t k else none := by
  induction t with
  | nil => simp [Table.look]
  | cons p r ih =>
    simp only [List.filter_cons, hf]
    by_cases hk : p.1 = k
    · subst hk
      by_cases h : keep p.1 = true
      · simp [h, Table.look]
      · simp [h, ih]
    · by_cases h : keep p.1 = true
      · simp [h, Table.look, hk, ih]
      · simp [h, Table.look, hk, ih]

theorem Table.look_without {α : Type} (t : Table α) (ch per k : Nat) :
    Table.look (Table.without t ch per) k = if k / per = ch then none else Table.look t k := by
  rw [Table.without, Table.look_filter_key t _ (fun k => k / per != ch) fun _ => rfl]
  by_cases h : k / per = ch
  · simp [h]
  · simp [h]

theorem Memory.read_filter (m : Memory) (keep : Nat → Bool) (a : Nat) :
    Memory.read (m.filter fun c => keep c.1) a = if keep a then Memory.read m a else 0 := by
  rw [Memory.read, Table.look_filter_key m _ keep fun _ => rfl]
  split
  · rfl
  · rfl

theorem chipOf_eq (k : Nat) : chipOf k = k / 4096 := by
  rw [chipOf, chipOfCluster, clusterOf, Nat.div_div_eq_div_mul]

theorem powerOn_core (s : State) (ch k : Nat) :
    (s.powerOn ch).core k = if chipOf k = ch then Core.reset else s.core k := by
  have h : (s.powerOn ch).core k = (Table.look (Table.without s.cores ch 4096) k).getD Core.reset := rfl
  rw [h, Table.look_without, chipOf_eq]
  split
  · rfl
  · rfl

theorem powerOn_part (s : State) (ch p : Nat) :
    (s.powerOn ch).part p = if p / 64 = ch then Partition.reset else s.part p := by
  have h : (s.powerOn ch).part p = (Table.look (Table.without s.parts ch 64) p).getD Partition.reset := rfl
  rw [h, Table.look_without]
  split
  · rfl
  · rfl

theorem powerOn_cluster (s : State) (ch cl : Nat) :
    (s.powerOn ch).cluster cl = if chipOfCluster cl = ch then Cluster.reset else s.cluster cl := by
  have h : (s.powerOn ch).cluster cl = (Table.look (Table.without s.clusters ch 16) cl).getD Cluster.reset := rfl
  rw [h, Table.look_without, chipOfCluster]
  split
  · rfl
  · rfl

theorem powerOn_mem (s : State) (ch a : Nat) : Memory.read (s.powerOn ch).mem a
    = if a / 2 ^ 48 = ch ∧ regionOf a = .tiered then 0 else Memory.read s.mem a := by
  refine (Memory.read_filter s.mem (fun a => !(a / 2 ^ 48 == ch && regionOf a == .tiered)) a).trans ?_
  by_cases h : a / 2 ^ 48 = ch ∧ regionOf a = .tiered
  · simp [h]
  · rw [if_neg h, if_pos]
    simpa [imp_iff_not_or] using h

theorem powerOn_chip (s : State) (ch : Nat) : (s.powerOn ch).chip ch = { Chip.reset with
    epoch := s.now
    boot := { Chip.reset.boot with rootHash := (s.chip ch).boot.rootHash, revoked := (s.chip ch).boot.revoked,
                                   version := (s.chip ch).boot.version } } := State.chip_setChip_self ..

theorem powerOn_timeAt (s : State) (ch : Nat) : (s.powerOn ch).timeAt ch = 0 := by
  unfold State.timeAt State.powerOn State.setChip
  simp

/-! ## The chips of a state, and what they hold -/

/-- A module's boot chain has stopped: as its chip, set, says. -/
theorem State.closed_setChip_self (s : State) (ch : Nat) (c : Chip) : (s.setChip ch c).closed ch = c.boot.failed := by
  simp [State.closed, State.setChip]

theorem getReg_setReg_self {α : Type} {n : Nat} (v : Vector α n) {i : Nat} (x d : α) (h : i < n) :
    getReg (setReg v i x) i d = x := by
  simp [getReg, setReg, h]

theorem getReg_setReg_ne {α : Type} {n : Nat} (v : Vector α n) {i j : Nat} (x d : α) (h : j ≠ i) :
    getReg (setReg v i x) j d = getReg v j d := by
  unfold getReg setReg
  by_cases hi : i < n
  · by_cases hj : j < n
    · simp [hi, hj, Vector.getElem_set_ne _ _ (Ne.symm h)]
    · simp [hj]
  · simp [hi]

/-! ## The boot chain (R420) -/

/-- What an image's check asks, and what follows when it passes or does not. -/
theorem verifyStage_eq (b : Boot) (img : BootImage) (h : b.stage < 3 ∨ b.failed = true) :
    verifyStage b img = if img.stage = (if b.failed = true then 0 else b.stage) ∧ trusted b img = true
        ∧ Config.sm2Verify img.key (sm3 img.bytes) img.sig = true ∧ b.version ≤ img.version.toNat
      then b.accept img else { b with failed := true } := by
  unfold verifyStage goodImage
  rw [if_neg (by simp; exact fun h3 => h.resolve_left (by omega))]
  congr 1
  simp [and_assoc]

/-! ## The cores of a module (R3) -/

theorem mem_coresOfChip {ch k : Nat} : k ∈ coresOfChip ch ↔ ∃ c < 10, ∃ n < 130, (ch * 16 + c) * 256 + n = k := by
  simp [coresOfChip, coreAt]

theorem chipOf_of_mem_coresOfChip {ch k : Nat} (h : k ∈ coresOfChip ch) : chipOf k = ch := by
  obtain ⟨c, hc, n, hn, rfl⟩ := mem_coresOfChip.mp h
  rw [chipOf_eq]
  omega

theorem mem_coresOfChip_of_isCore {ch k : Nat} (h : isCore k = true) (hc : chipOf k = ch) : k ∈ coresOfChip ch := by
  simp only [isCore, dieOf, dieOfCluster, clusterOf, coreNum, Bool.and_eq_true, decide_eq_true_eq] at h
  obtain ⟨⟨-, hd⟩, hn⟩ := h
  rw [chipOf_eq] at hc
  have hd := of_decide_eq_true hd
  have hn := of_decide_eq_true hn
  exact mem_coresOfChip.mpr ⟨k / 256 % 16, by omega, k % 256, by omega, by omega⟩

theorem nodup_coresOfChip (ch : Nat) : (coresOfChip ch).Nodup := by
  refine List.nodup_flatMap.mpr ⟨fun c _ => List.nodup_range.map fun a b h => ?_, ?_⟩
  · simpa [coreAt] using h
  · refine List.nodup_range.pairwise_of_forall_ne fun a _ b _ hab => ?_
    intro k ha hb
    simp only [coreAt, List.mem_map, List.mem_range] at ha hb
    obtain ⟨n, hn, rfl⟩ := ha
    obtain ⟨m, hm, e⟩ := hb
    omega

theorem foldl_setCore_core (f : Core → Core) (l : List Nat) (hl : l.Nodup) (s : State) (k : Nat) :
    (l.foldl (fun s k => s.setCore k (f (s.core k))) s).core k = if k ∈ l then f (s.core k) else s.core k := by
  induction l generalizing s with
  | nil => rfl
  | cons j r ih =>
    obtain ⟨hj, hr⟩ := List.nodup_cons.mp hl
    rw [List.foldl_cons, ih hr]
    by_cases h : k = j
    · subst h
      simp [hj]
    · simp [h, State.core_setCore_ne]

theorem mapChip_core (s : State) (ch : Nat) (f : Core → Core) (k : Nat) :
    (s.mapChip ch f).core k = if k ∈ coresOfChip ch then f (s.core k) else s.core k :=
  foldl_setCore_core f _ (nodup_coresOfChip ch) s k

theorem mapChip_chips (s : State) (ch : Nat) (f : Core → Core) : (s.mapChip ch f).chips = s.chips := by
  unfold State.mapChip
  generalize coresOfChip ch = l
  induction l generalizing s with
  | nil => rfl
  | cons k r ih => exact ih _

theorem mapChip_chip (s : State) (ch : Nat) (f : Core → Core) (n : Nat) : (s.mapChip ch f).chip n = s.chip n := by
  rw [State.chip, mapChip_chips, State.chip]

/-! ## CLIMCAP (R425, R426) -/

/-- CLIM.CAP reads as it was written. -/
theorem field_setField_cap (x : W64) (v : Nat) : field (setField x 32 16 v) 32 16 = v % 2 ^ 16 := by
  have hx := x.isLt
  simp only [setField, field, bitsOf, BitVec.toNat_ofNat]
  omega

theorem setClimcap_climcap (s : State) (ch : Nat) {cap : Nat} (h : cap < 2 ^ 16) :
    ((s.setClimcap ch cap).chip ch).climcap.toNat = max 128 cap := by
  unfold State.setClimcap
  dsimp only
  rw [mapChip_chip, State.chip_setChip_self, BitVec.toNat_ofNat, Nat.mod_eq_of_lt (by omega)]

theorem setClimcap_core (s : State) {ch k : Nat} (cap : Nat) (h : isCore k = true) (hc : chipOf k = ch) (hcap : cap < 2 ^ 16) :
    field ((s.setClimcap ch cap).core k).r.clim 32 16 = max 128 cap := by
  unfold State.setClimcap
  dsimp only
  rw [mapChip_core, if_pos (mem_coresOfChip_of_isCore h hc)]
  refine (field_setField_cap ..).trans ?_
  omega

theorem setClimcap_core_ne (s : State) {ch k : Nat} (cap : Nat) (hc : chipOf k ≠ ch) :
    (s.setClimcap ch cap).core k = s.core k := by
  unfold State.setClimcap
  dsimp only
  rw [mapChip_core, if_neg fun h => hc (chipOf_of_mem_coresOfChip h)]
  rfl

/-! ## Thermal limits (R426) -/

theorem heat_temps_self (c : Chip) {unit temp : Nat} (hu : unit < 6) (ht : temp < 1024) :
    (getReg (c.heat unit temp).temps unit 0).toNat = temp := by
  unfold Chip.heat
  dsimp only
  rw [getReg_setReg_self _ _ _ hu, BitVec.toNat_ofNat, Nat.mod_eq_of_lt (by omega)]
  omega

theorem heat_temps_ne (c : Chip) {unit i : Nat} (temp : Nat) (h : i ≠ unit) :
    getReg (c.heat unit temp).temps i 0 = getReg c.temps i 0 := getReg_setReg_ne _ _ _ h

/-- Every temperature of a module that is cool throughout. -/
theorem cool_iff (c : Chip) : c.cool = true ↔ ∀ i < 6, (getReg c.temps i 0).toNat < 380 := by
  simp only [Chip.cool, List.all_eq_true, coolAt]
  refine ⟨fun h i hi => ?_, fun h t ht => ?_⟩
  · have hc := of_decide_eq_true (h c.temps[i] (by simp))
    simpa [getReg, hi] using hc
  · obtain ⟨i, hi, rfl⟩ := List.getElem_of_mem ht
    have hi : i < 6 := by simpa using hi
    exact decide_eq_true (by simpa [getReg, hi] using h i hi)

theorem heat_throttle (c : Chip) (unit temp : Nat) :
    (c.heat unit temp).throttle = (decide (400 ≤ temp) || (c.throttle && !(c.heat unit temp).cool)) := rfl

/-- A throttling ends only when every temperature is below 95 degrees. -/
theorem cool_of_heat {c : Chip} {unit temp : Nat} (h : c.throttle = true) (h' : (c.heat unit temp).throttle = false) :
    (c.heat unit temp).cool = true := by
  rw [heat_throttle, h] at h'
  simp at h'
  exact h'.2

theorem heatStop_below (s : State) (ch unit : Nat) {temp : Nat} (h : temp < 440) :
    s.heatStop ch unit temp = s.setChip ch ((s.chip ch).heat unit temp) := if_pos h

theorem heatStop_from (s : State) (ch unit : Nat) {temp : Nat} (h : 440 ≤ temp) : s.heatStop ch unit temp =
    let t := s.setChip ch ((s.chip ch).heat unit temp)
    (t.setChip ch { t.chip ch with tempstop := true }).mapChip ch Core.heatHalt := if_neg (Nat.not_lt.mpr h)

theorem heatStop_chip (s : State) (ch unit temp : Nat) : (s.heatStop ch unit temp).chip ch
    = if temp < 440 then (s.chip ch).heat unit temp else { (s.chip ch).heat unit temp with tempstop := true } := by
  split
  · rename_i h
    rw [heatStop_below _ _ _ h, State.chip_setChip_self]
  · rename_i h
    rw [heatStop_from _ _ _ (Nat.not_lt.mp h), mapChip_chip, State.chip_setChip_self, State.chip_setChip_self]

/-- A core stopped by heat: it stands still, out of any system handler it was in. -/
theorem heatHalt_stopped (c : Core) : c.heatHalt.stopped = true := by
  unfold Core.heatHalt
  split
  · assumption
  · split
    · rfl
    · rfl

theorem heatHalt_kernel {c : Core} (h : c.stopped = false) : c.heatHalt.kernel = false := by
  unfold Core.heatHalt
  rw [if_neg (by simp [h])]
  split
  · rfl
  · rename_i hk
    exact Bool.eq_false_iff.mpr hk

theorem heatStop_core (s : State) {ch k : Nat} (unit : Nat) {temp : Nat} (ht : 440 ≤ temp) (h : isCore k = true)
    (hc : chipOf k = ch) : (s.heatStop ch unit temp).core k = (s.core k).heatHalt := by
  rw [heatStop_from _ _ _ ht, mapChip_core, if_pos (mem_coresOfChip_of_isCore h hc)]
  rfl


end Sys2Proof.Machine
end

section
namespace Sys2Proof.Machine

/-! ## Writes of the management registers (R8 to R11, R413, R414) -/

/-- A write of 8 bytes in the management register space. -/
theorem registerWrite_exec (s : State) (ch : Nat) {o : Nat} (v : W64) (who : Requester) (h : o < 0x4000000) :
    exec (.registerWrite (registerMA ch o) 8 v who) s = .next (if s.closed ch || !kernelAccess who then s
      else match regAt o with
        | some r => r.write s ch v who none
        | none => s) := by
  have hbase : managementBase = 0x300080000000 := rfl
  have hend : endpointBase = 0x300010000000 := rfl
  have hch : registerMA ch o / 2 ^ 48 = ch := by
    rw [registerMA]
    omega
  have ha : registerMA ch o % 2 ^ 48 = managementBase + o := by
    rw [registerMA]
    omega
  have hw : windowOf (registerMA ch o) = none := by
    unfold windowOf
    dsimp only
    rw [ha]
    exact if_neg (by rw [Bool.and_eq_true, decide_eq_true_eq, decide_eq_true_eq]; omega)
  have he : (decide (endpointBase ≤ managementBase + o) && decide (managementBase + o < endpointBase + 0x400000)) = false := by
    rw [decide_eq_false (p := managementBase + o < _) (by omega), Bool.and_false]
  have hm : (decide (managementBase ≤ managementBase + o) && decide (managementBase + o < managementBase + 0x4000000)) = true := by
    rw [decide_eq_true (by omega), decide_eq_true (by omega), Bool.and_self]
  refine congrArg Host.Outcome.next ?_
  unfold deviceWrite
  dsimp only
  rw [hch, ha, hw, he, hm, Nat.add_sub_cancel_left]
  cases s.closed ch
  · cases kernelAccess who
    · rfl
    · cases regAt o with
      | none => rfl
      | some r => rfl
  · rfl

/-- A write that is admitted does what it does to the register there. -/
theorem registerWrite_reg {s : State} {ch o : Nat} {v : W64} {who : Requester} {r : Reg} (h : o < 0x4000000)
    (hr : regAt o = some r) (hk : kernelAccess who = true) (hc : s.closed ch = false) :
    exec (.registerWrite (registerMA ch o) 8 v who) s = .next (r.write s ch v who none) := by
  rw [registerWrite_exec s ch v who h, hr, hk, hc]
  rfl

theorem registerWrite_refused {s : State} {ch o : Nat} {v : W64} {who : Requester} (h : o < 0x4000000)
    (hx : kernelAccess who = false ∨ s.closed ch = true) :
    exec (.registerWrite (registerMA ch o) 8 v who) s = .next s := by
  rw [registerWrite_exec s ch v who h, if_pos (by simpa [or_comm] using hx)]

/-- A field map of RS by a requester that is not secure. -/
theorem write_secureOnly (s : State) (ch : Nat) (v : W64) {who : Requester} (from_ : Option Nat) {r : Reg}
    (hr : r.secureOnly = true) (hs : secureAccess who = false) : r.write s ch v who from_ = s := by
  unfold Reg.write
  exact if_pos (by simp [hr, hs])

/-! ### Registers by their offsets -/

/-- Registers of a partition, by their offsets in its block of 4 KiB. -/
theorem regAt_part : ∀ x ∈ [(0x00, Reg.pgran), (0x10, .pstat), (0x18, .kvec), (0x28, .arenatab)], ∀ {p : Nat}, p < 40 →
    regAt (0x400000 + x.1 + 0x1000 * p) = some (x.2 p) := by
  intro x hx p hp
  fin_cases hx
  all_goals
    dsimp only
    unfold regAt
    rw [if_neg (by omega), if_neg (by omega), if_neg (by omega), if_pos (by omega), partReg,
      Nat.add_assoc, Nat.add_sub_cancel_left, Nat.add_mul_div_left _ _ (by decide), ← Nat.add_assoc,
      Nat.add_mul_mod_self_left, if_neg (by omega)]
    simp

theorem regAt_fabcfg {u : Nat} (hu : u < 24) : regAt (0x300000 + 0x100 * u) = some (.fabcfg u) := by
  unfold regAt
  rw [if_neg (by omega), if_neg (by omega), if_pos (by omega), midReg, if_neg (by omega), if_neg (by omega),
    if_neg (by omega), if_neg (by omega), if_neg (by rw [Bool.and_eq_true, decide_eq_true_eq, decide_eq_true_eq]; omega),
    if_neg (by rw [Bool.and_eq_true, decide_eq_true_eq, decide_eq_true_eq]; omega), if_pos (by omega),
    Nat.add_sub_cancel_left, Nat.mul_div_cancel_left _ (by decide), Nat.add_mul_mod_self_left]
  exact if_neg (by omega)

/-! ### What their writes store -/

theorem underMask_zero (mask : Nat) (v : W64) : underMask mask 0 v = v &&& BitVec.ofNat 64 mask := by
  simp [underMask]

theorem bit_zero (v : W64) : bit v 0 = v.getLsbD 0 := by
  rw [← BitVec.testBit_toNat, Nat.testBit_zero, bit, field, bitsOf, Nat.pow_zero, Nat.div_one, Nat.pow_one]
  rfl

/-! ### Modules that exchange their numbers (R415) -/

theorem Table.look_rekey {α : Type} {f : Nat → Nat} (hf : Function.Injective f) (t : Table α) (k : Nat) :
    Table.look (Table.rekey f t) (f k) = Table.look t k := by
  induction t with
  | nil => rfl
  | cons p r ih =>
    rw [Table.rekey, List.foldr_cons, Table.look]
    split
    · rename_i h
      rw [h, Table.look_put_self]
    · rename_i h
      rw [Table.look_put_ne _ _ (fun e => h (hf e).symm)]
      exact ih

theorem Table.look_map_val {α : Type} (t : Table α) (g : Nat × α → α) (k : Nat) :
    Table.look (t.map fun x => (x.1, g x)) k = (Table.look t k).map fun x => g (k, x) := by
  induction t with
  | nil => rfl
  | cons p r ih =>
    simp only [List.map_cons, Table.look]
    split
    · rename_i h
      subst h
      rfl
    · exact ih

theorem exchange_one (a b n : Nat) : exchange a b 1 n = if n = a then b else if n = b then a else n := by
  simp [exchange, Nat.mod_one]

theorem exchange_one_injective (a b : Nat) : Function.Injective (exchange a b 1) := by
  intro m n h
  simp only [exchange_one] at h
  split_ifs at h <;> omega

/-- The module that takes a number is found under it as it was. -/
theorem renumber_chip (s : State) (a b : Nat) : (s.renumber a b).chip b = s.chip a := by
  unfold State.renumber
  split
  · rename_i h
    rw [h]
  · rename_i h
    have hb : exchange a b 1 a = b := by rw [exchange_one, if_pos rfl]
    have hl : Table.look (Table.rekey (exchange a b 1) s.chips) b = Table.look s.chips a :=
      (congrArg _ hb.symm).trans (Table.look_rekey (exchange_one_injective a b) s.chips a)
    rw [State.chip, State.chip]
    refine congrArg (Option.getD · Chip.reset) ((Table.look_map_val _ _ b).trans ?_)
    rw [hl]
    refine (congrArg (Option.map · _) (funext fun x => if_neg (Ne.symm h))).trans ?_
    exact congrFun Option.map_id _


/-! ## The statement's clauses -/

/-- What a module keeps through power-on reset, and what it begins with again. -/
theorem powerOn_clause (s : State) (ch : Nat) :
    let c := s.chip ch
    ∃ t, exec (.powerOnReset ch) s = .next t
      ∧ (∀ k, t.core k = if chipOf k = ch then Core.reset else s.core k)
      ∧ (∀ p, t.part p = if p / 64 = ch then Partition.reset else s.part p)
      ∧ (∀ cl, t.cluster cl = if chipOfCluster cl = ch then Cluster.reset else s.cluster cl)
      ∧ (∀ a, Memory.read t.mem a = if a / 2 ^ 48 = ch ∧ regionOf a = .tiered then 0 else Memory.read s.mem a)
      ∧ (t.chip ch).climcap = 11136 ∧ (t.chip ch).dommember = 1 ∧ (t.chip ch).domcfg = 0 ∧ (t.chip ch).boot.stage = 0
      ∧ (t.chip ch).boot.rootHash = c.boot.rootHash ∧ (t.chip ch).boot.revoked = c.boot.revoked
      ∧ (t.chip ch).boot.version = c.boot.version ∧ t.timeAt ch = 0 ∧ ∀ n, n ≠ ch → t.chip n = s.chip n := by
  refine ⟨s.powerOn ch, rfl, powerOn_core s ch, powerOn_part s ch, powerOn_cluster s ch, powerOn_mem s ch, ?_⟩
  rw [powerOn_chip]
  exact ⟨rfl, rfl, rfl, rfl, rfl, rfl, rfl, powerOn_timeAt s ch, fun n hn => State.chip_setChip_ne _ _ hn⟩

theorem bootStage_clause (s : State) (ch : Nat) (img : BootImage) :
    let c := s.chip ch
    c.boot.stage < 3 ∨ c.boot.failed = true →
    let stage := if c.boot.failed = true then 0 else c.boot.stage
    let good := img.stage = stage ∧ trusted c.boot img = true
      ∧ Config.sm2Verify img.key (sm3 img.bytes) img.sig = true ∧ c.boot.version ≤ img.version.toNat
    ∃ t, exec (.bootStageVerify ch img) s = .next t
      ∧ (good → (t.chip ch).boot.stage = stage + 1 ∧ t.closed ch = false
        ∧ getReg (t.chip ch).boot.digests stage 0 = sm3 img.bytes
        ∧ (t.chip ch).boot.version = if img.advance then max c.boot.version img.version.toNat else c.boot.version)
      ∧ (¬good → (t.chip ch).boot = { c.boot with failed := true } ∧ t.closed ch = true) := by
  intro c h stage good
  have hstage : stage < 3 := by
    dsimp only [stage]
    split
    · decide
    · exact h.resolve_right ‹_›
  have hv := verifyStage_eq c.boot img h
  refine ⟨_, rfl, fun hg => ?_, fun hg => ?_⟩
  · rw [State.closed_setChip_self, State.chip_setChip_self]
    dsimp only
    rw [hv, if_pos hg]
    have hi : img.stage = stage := hg.1
    refine ⟨by rw [← hi]; rfl, rfl, ?_, rfl⟩
    rw [← hi] at hstage ⊢
    exact getReg_setReg_self _ _ _ hstage
  · rw [State.closed_setChip_self, State.chip_setChip_self]
    dsimp only
    rw [hv, if_neg hg]
    exact ⟨rfl, rfl⟩

theorem throttle_clause (s : State) (ch unit temp : Nat) (hu : unit < 6) (ht : temp < 1024) :
    let c := s.chip ch
    ∃ t, exec (.thermalThrottle ch unit temp) s = .next t
      ∧ (getReg (t.chip ch).temps unit 0).toNat = temp ∧ (400 ≤ temp → (t.chip ch).throttle = true)
      ∧ (temp < 400 → c.throttle = false → (t.chip ch).throttle = false)
      ∧ (c.throttle = true → (t.chip ch).throttle = false →
        temp < 380 ∧ ∀ i, i < 6 → i ≠ unit → (getReg c.temps i 0).toNat < 380)
      ∧ (temp < 440 → t.cores = s.cores) := by
  intro c
  have htemps : ((s.heatStop ch unit temp).chip ch).temps = (c.heat unit temp).temps := by
    rw [heatStop_chip]
    split
    · rfl
    · rfl
  have hthr : ((s.heatStop ch unit temp).chip ch).throttle = (c.heat unit temp).throttle := by
    rw [heatStop_chip]
    split
    · rfl
    · rfl
  refine ⟨s.heatStop ch unit temp, rfl, ?_⟩
  rw [htemps, hthr]
  refine ⟨heat_temps_self c hu ht, fun h => ?_, fun h hc => ?_, fun hc h => ?_, fun h => ?_⟩
  · simp [heat_throttle, h]
  · simp [heat_throttle, hc, h]
  · have hcool := (cool_iff _).mp (cool_of_heat hc h)
    refine ⟨heat_temps_self c hu ht ▸ hcool unit hu, fun i hi hne => ?_⟩
    rw [← heat_temps_ne c temp hne]
    exact hcool i hi
  · rw [heatStop_below _ _ _ h]
    rfl

theorem climcapStep_clause (s : State) (ch cap : Nat) :
    let c := s.chip ch
    (c.throttle = true ∧ cap = max 128 (c.climcap.toNat - 696)
      ∨ c.throttle = false ∧ c.lowered ≠ 0 ∧ cap = max 128 (min 11136 (c.climcap.toNat + 696))) →
    ∃ t, exec (.climcapStep ch) s = .next t ∧ (t.chip ch).climcap.toNat = cap
      ∧ (∀ k, isCore k = true → chipOf k = ch → field (t.core k).r.clim 32 16 = cap)
      ∧ ∀ k, chipOf k ≠ ch → t.core k = s.core k := by
  intro c h
  have hlim := c.climcap.isLt
  have key : ∀ (d : Chip) {n : Nat}, n < 2 ^ 16 → cap = max 128 n → s.stepCap ch = (s.setChip ch d).setClimcap ch n →
      ∃ t, exec (.climcapStep ch) s = .next t ∧ (t.chip ch).climcap.toNat = cap
        ∧ (∀ k, isCore k = true → chipOf k = ch → field (t.core k).r.clim 32 16 = cap)
        ∧ ∀ k, chipOf k ≠ ch → t.core k = s.core k := by
    rintro d n hn rfl e
    exact ⟨_, congrArg Host.Outcome.next e, setClimcap_climcap _ ch hn,
      fun k hk hc => setClimcap_core _ n hk hc hn, fun k hc => setClimcap_core_ne _ n hc⟩
  obtain ⟨ht, hcap⟩ | ⟨ht, hl, hcap⟩ := h
  · exact key _ (by omega) hcap (if_pos ht)
  · exact key _ (by omega) hcap ((if_neg (Bool.eq_false_iff.mp ht)).trans (if_neg hl))

theorem thermalStop_clause (s : State) (ch unit temp : Nat) (ht : 440 ≤ temp) :
    ∀ i ∈ [Instr.thermalStop ch unit temp, .thermalThrottle ch unit temp], ∃ t, exec i s = .next t
      ∧ (t.chip ch).tempstop = true ∧ ∀ k, isCore k = true → chipOf k = ch → (t.core k).stopped = true
        ∧ ((s.core k).stopped = false → (t.core k).kernel = false) := by
  intro i hi
  refine ⟨s.heatStop ch unit temp, ?_, ?_, fun k hk hc => ?_⟩
  · fin_cases hi
    · rfl
    · rfl
  · rw [heatStop_chip, if_neg (Nat.not_lt.mpr ht)]
  · rw [heatStop_core s unit ht hk hc]
    exact ⟨heatHalt_stopped _, heatHalt_kernel⟩

section
variable {s : State} {ch : Nat} {v : W64} {who : Requester} (hk : kernelAccess who = true) (hc : s.closed ch = false)
include hk hc

/-- The registers that are only read: a write of one leaves the state as it is. -/
theorem write_readOnly : ∀ n ∈ [0x0, 0x1000, 0x1008, 0x1010, 0x1018, 0x1020, 0x200018, 0x200100, 0x300008],
    exec (.registerWrite (registerMA ch n) 8 v who) s = .next s := by
  have key : ∀ {n : Nat} (r : Reg), n < 0x4000000 → regAt n = some r → Reg.write s ch v who none r = s →
      exec (.registerWrite (registerMA ch n) 8 v who) s = .next s := fun r hn hr hw =>
    (registerWrite_reg hn hr hk hc).trans (congrArg Host.Outcome.next hw)
  simp only [List.forall_mem_cons]
  refine ⟨key .dtime (by decide) rfl rfl, key .temps (by decide) rfl rfl, key .railcur (by decide) rfl rfl,
    key .pkgcur (by decide) rfl rfl, key .pkgpwr (by decide) rfl rfl, key .tempstop (by decide) rfl rfl,
    key .almstat (by decide) rfl rfl, key (.almdig 0 0) (by decide) rfl rfl, key (.fabstat 0) (by decide) rfl rfl,
    by simp⟩

theorem write_partition {p : Nat} (hp : p < 40) :
    let write := fun o : Nat => exec (.registerWrite (registerMA ch o) 8 v who) s
    let x := s.part (ch * 64 + p)
    write (0x400018 + 0x1000 * p) = .next (s.setPart (ch * 64 + p) { x with kvec := v &&& 0x01FFFFFFFFFFFFFC })
    ∧ write (0x400028 + 0x1000 * p) = .next (s.setPart (ch * 64 + p) { x with arenatab := v &&& 0x00FFFFFFFFFFF000 })
    ∧ write (0x400010 + 0x1000 * p) = .next (s.setPart (ch * 64 + p) { x with kfault := x.kfault && !v.getLsbD 0 })
    ∧ (secureAccess who = true →
      write (0x400000 + 0x1000 * p) = .next (s.setPart (ch * 64 + p) { x with pgran := v.setWidth 40 })) := by
  refine ⟨?_, ?_, ?_, fun hs => ?_⟩
  · refine (registerWrite_reg (by omega) (regAt_part (0x18, .kvec) (by simp) hp) hk hc).trans ?_
    exact congrArg (fun y => Host.Outcome.next (s.setPart _ { s.part _ with kvec := y })) (underMask_zero ..)
  · refine (registerWrite_reg (by omega) (regAt_part (0x28, .arenatab) (by simp) hp) hk hc).trans ?_
    exact congrArg (fun y => Host.Outcome.next (s.setPart _ { s.part _ with arenatab := y })) (underMask_zero ..)
  · refine (registerWrite_reg (by omega) (regAt_part (0x10, .pstat) (by simp) hp) hk hc).trans ?_
    rw [← bit_zero]
    rfl
  · refine (registerWrite_reg (by omega) (regAt_part (0x00, .pgran) (by simp) hp) hk hc).trans ?_
    exact congrArg Host.Outcome.next (if_neg (by simp [hs]))

theorem write_domcfg (hs : secureAccess who = true) :
    ∃ t, exec (.registerWrite (registerMA ch 0x8) 8 v who) s = .next t
      ∧ t.chip (field v 0 8) = { s.chip ch with domcfg := v.setWidth 8 } := by
  refine ⟨_, (registerWrite_reg (by decide) rfl hk hc).trans (congrArg Host.Outcome.next (if_neg (by simp [hs]))), ?_⟩
  dsimp only
  rw [State.chip_setChip_self, renumber_chip]

theorem write_fabcfg (hs : secureAccess who = true) {u : Nat} (hu : u < 24) :
    exec (.registerWrite (registerMA ch (0x300000 + 0x100 * u)) 8 v who) s = .next (s.setFab (ch * 32 + u)
      { s.fab (ch * 32 + u) with timeout := BitVec.ofNat 16 (max 256 (field v 0 16)) }) :=
  (registerWrite_reg (by omega) (regAt_fabcfg hu) hk hc).trans (congrArg Host.Outcome.next (if_neg (by simp [hs])))

theorem write_climcap : ∃ t, exec (.registerWrite (registerMA ch 0x18) 8 v who) s = .next t
    ∧ (t.chip ch).climcap.toNat = max 128 (field v 0 16)
    ∧ ∀ k, isCore k = true → chipOf k = ch → field (t.core k).r.clim 32 16 = max 128 (field v 0 16) := by
  have hr : regAt 0x18 = some .climcap := rfl
  have hcap : field v 0 16 < 2 ^ 16 := field_lt v 0 16
  have hw : Reg.write s ch v who none .climcap = s.setClimcap ch (field v 0 16) := by
    simp [Reg.write, Reg.secureOnly]
  exact ⟨s.setClimcap ch (field v 0 16), (registerWrite_reg (by decide) hr hk hc).trans (congrArg _ hw),
    setClimcap_climcap s ch hcap, fun k hi hch => setClimcap_core s _ hi hch hcap⟩

end

/-- Settles O60: the events of a module through what each does to its chip and its cores, and the writes of its
management registers through the register at each offset. -/
theorem moduleEvents : Obligations.ModuleEvents := by
  unfold Obligations.ModuleEvents
  refine ⟨fun s ch => ⟨powerOn_clause s ch, bootStage_clause s ch, fun h => ⟨?_, ?_⟩, fun h => ⟨?_, ?_⟩,
    throttle_clause s ch, climcapStep_clause s ch, fun ht hl => ?_, fun unit temp _ => thermalStop_clause s ch unit temp⟩,
    fun s ch o v who _ => ⟨fun hx ho => registerWrite_refused ho hx, fun r hr ho hsec hs => ?_, fun hk hc =>
      ⟨write_readOnly hk hc, fun p hp => write_partition hk hc hp, write_domcfg hk hc,
        fun hs u hu => write_fabcfg hk hc hs hu, write_climcap hk hc⟩⟩⟩
  · exact congrArg Host.Outcome.next (if_pos h)
  · refine ⟨_, congrArg Host.Outcome.next (if_pos h), ?_⟩
    rw [State.chip_setChip_self]
    exact ⟨rfl, rfl, rfl⟩
  · exact congrArg Host.Outcome.next (if_neg (Bool.eq_false_iff.mp h))
  · exact congrArg Host.Outcome.next (if_neg (Bool.eq_false_iff.mp h))
  · exact congrArg Host.Outcome.next ((if_neg (Bool.eq_false_iff.mp ht)).trans (if_pos hl))
  · by_cases hx : kernelAccess who = false ∨ s.closed ch = true
    · exact registerWrite_refused ho hx
    · obtain ⟨hk, hc⟩ := not_or.mp hx
      refine (registerWrite_reg ho hr (Bool.not_eq_false _ ▸ hk) (Bool.not_eq_true _ ▸ hc)).trans ?_
      rw [write_secureOnly _ _ _ _ hsec hs]

end Sys2Proof.Machine
end

section
namespace Sys2Proof.Machine

/-! ## Tables whose entries share a property -/

/-- What every entry has, and what an unlisted key holds has too, is had by what a key reads as. -/
theorem Table.look_forall {α : Type} {P : α → Prop} {dflt : α} (hd : P dflt) {t : Table α} (h : ∀ x ∈ t, P x.2)
    (k : Nat) : P ((Table.look t k).getD dflt) := by
  induction t with
  | nil => exact hd
  | cons p r ih =>
    obtain ⟨hp, hr⟩ := List.forall_mem_cons.mp h
    rw [Table.look]
    split
    · exact hp
    · exact ih hr

/-- A key's entry replaced by one that has a property as the former one had it: the entries all have it as before. -/
theorem Table.forall_put_iff {α : Type} {P : α → Prop} {dflt : α} (hd : P dflt) {t : Table α} {k : Nat} {v : α}
    (hv : P v ↔ P ((Table.look t k).getD dflt)) : (∀ x ∈ Table.put t k v, P x.2) ↔ ∀ x ∈ t, P x.2 := by
  induction t with
  | nil => simpa [Table.put] using hv.mpr hd
  | cons p r ih =>
    unfold Table.put
    split
    · rw [List.forall_mem_cons]
      exact ⟨And.right, fun h => ⟨hv.mpr (Table.look_forall hd h k), h⟩⟩
    · split
      · rename_i hk
        subst hk
        rw [Table.look, if_pos rfl] at hv
        rw [List.forall_mem_cons, List.forall_mem_cons]
        exact and_congr_left fun _ => hv
      · rename_i hk
        rw [Table.look, if_neg (Ne.symm hk)] at hv
        rw [List.forall_mem_cons, List.forall_mem_cons, ih hv]

/-! ## Bytes of memory (R6, R20, R23, R51) -/

/-- The memory that a run of bytes leaves: its own bytes there, and the others as they were. -/
theorem Memory.read_writes (m : Memory) (a j : Nat) (bs : List Byte) : Memory.read (Memory.writes m a bs) j
    = if h : a ≤ j ∧ j < a + bs.length then bs[j - a]'(by omega) else Memory.read m j := by
  split
  · rename_i h
    obtain ⟨i, rfl⟩ := Nat.exists_eq_add_of_le h.1
    simp only [Nat.add_sub_cancel_left]
    exact Memory.read_writes_in m a bs (by omega)
  · exact Memory.read_writes_out m a bs (by omega)

/-! ## The poison of beats (R439) -/

theorem mem_insertBeat {k b : Nat} {l : List Nat} : b ∈ insertBeat k l ↔ b = k ∨ b ∈ l := by
  induction l with
  | nil => simp [insertBeat]
  | cons x r ih =>
    unfold insertBeat
    split
    · simp
    · split
      · rename_i h
        simp [h]
      · simp [ih, or_left_comm]

/-- A run of bytes from an address writes a poisoned byte into a beat. -/
def Data.poisons (a : Nat) (d : Data) (b : Nat) : Prop := ∃ i, ∃ h : i < d.length, (a + i) / 64 = b ∧ (d[i]).2 = true

/-- The part of a run that lies in a beat has a poisoned byte. -/
theorem any_slice_beat (a : Nat) (d : Data) (b : Nat) :
    (slice d (b * 64 - a) (b * 64 + 64 - max a (b * 64))).any (·.2) = true ↔ d.poisons a b := by
  rw [List.any_eq_true, slice, Data.poisons]
  constructor
  · rintro ⟨x, hx, hp⟩
    obtain ⟨i, hi, rfl⟩ := List.getElem_of_mem hx
    rw [List.length_take, List.length_drop] at hi
    rw [List.getElem_take, List.getElem_drop] at hp
    exact ⟨b * 64 - a + i, by omega, by omega, hp⟩
  · rintro ⟨i, hi, rfl, hp⟩
    refine ⟨d[i], List.mem_iff_getElem.mpr ⟨i - ((a + i) / 64 * 64 - a), ?_, ?_⟩, hp⟩
    · rw [List.length_take, List.length_drop]
      omega
    · rw [List.getElem_take, List.getElem_drop]
      congr 1
      omega

/-- The beats that have been settled so far, from the last one of a run down, and the others. -/
theorem mem_beatsAfter (beats : List Nat) (a : Nat) (d : Data) (b : Nat) {n : Nat}
    (hn : n ≤ (a + d.length - 1) / 64 + 1) :
    b ∈ beatsAfter beats a d n ↔
      if b ≤ (a + d.length - 1) / 64 ∧ (a + d.length - 1) / 64 < b + n
        then d.poisons a b ∨ ¬(a ≤ 64 * b ∧ 64 * b + 64 ≤ a + d.length) ∧ b ∈ beats
        else b ∈ beats := by
  induction n with
  | zero =>
    rw [if_neg (by omega)]
    rfl
  | succ n ih =>
    replace ih := ih (by omega)
    unfold beatsAfter
    dsimp only
    generalize (a + d.length - 1) / 64 = last at *
    by_cases hb : b = last - n
    · subst hb
      have hin : last - n ≤ last ∧ last < last - n + (n + 1) := by omega
      rw [if_neg (by omega)] at ih
      rw [if_pos hin, ← any_slice_beat, Nat.mul_comm 64]
      split
      · rename_i hp
        simp [mem_insertBeat, hp]
      · rename_i hp
        rw [or_iff_right hp]
        split
        · rename_i hc
          simp only [Bool.and_eq_true, decide_eq_true_eq] at hc
          simp [hc]
        · rename_i hc
          simp only [Bool.and_eq_true, decide_eq_true_eq] at hc
          simp [hc, ih]
    · have hsame : (b ≤ last ∧ last < b + (n + 1)) ↔ (b ≤ last ∧ last < b + n) := by omega
      simp only [hsame, ← ih]
      split
      · simp [mem_insertBeat, hb]
      · split
        · simp [hb]
        · rfl

/-- The beats after a run of bytes: one into which a poisoned byte was written is poisoned, any other that was written
whole is clean, and the rest are as they were. -/
theorem mem_beatsAfter_run (beats : List Nat) (a : Nat) {d : Data} (hd : d ≠ []) (b : Nat) :
    b ∈ beatsAfter beats a d ((a + d.length - 1) / 64 - a / 64 + 1)
      ↔ d.poisons a b ∨ ¬(a ≤ 64 * b ∧ 64 * b + 64 ≤ a + d.length) ∧ b ∈ beats := by
  have hl := List.length_pos_iff.mpr hd
  rw [mem_beatsAfter _ _ _ _ (by omega)]
  split
  · rfl
  · rename_i hb
    have hp : ¬d.poisons a b := by
      rintro ⟨i, hi, rfl, -⟩
      omega
    have hc : ¬(a ≤ 64 * b ∧ 64 * b + 64 ≤ a + d.length) := by omega
    simp [hp, hc]

/-! ## A write of a run (R20, R29) -/

/-- No row of any stack is retired. -/
def State.unretired (s : State) : Prop := ∀ x ∈ s.hbm, x.2.retired = []

theorem State.unretired.all {s : State} (h : s.unretired) : (s.hbm.all fun x => x.2.retired.isEmpty) = true :=
  List.all_eq_true.mpr fun x hx => List.isEmpty_iff.mpr (h x hx)

/-- Without a retired row a beat is poisoned as its bit says. -/
theorem State.unretired.badBeat {s : State} (h : s.unretired) (a : Nat) : s.badBeat a = s.beats.contains (a / 64) := by
  rw [State.badBeat, State.fencedRow, if_pos h.all, Bool.or_false]

theorem writeMem_mem {s : State} (h : s.unretired) (ma : Nat) (d : Data) :
    (s.writeMem ma d).mem = Memory.writes s.mem ma (d.map (·.1)) := by
  unfold State.writeMem
  split
  · rename_i hd
    rw [hd]
    rfl
  · rw [if_pos h.all]

theorem mem_writeMem_beats {s : State} (h : s.unretired) {ma : Nat} (hr : regionOf ma = .tiered) (d : Data) (b : Nat) :
    b ∈ (s.writeMem ma d).beats
      ↔ d.poisons ma b ∨ ¬(ma ≤ 64 * b ∧ 64 * b + 64 ≤ ma + d.length) ∧ b ∈ s.beats := by
  unfold State.writeMem
  split
  · rename_i hd
    subst hd
    have hp : ¬Data.poisons ma [] b := fun ⟨_, hi, _⟩ => absurd hi (Nat.not_lt_zero _)
    have hc : ¬(ma ≤ 64 * b ∧ 64 * b + 64 ≤ ma + ([] : Data).length) := by
      rw [List.length_nil]
      omega
    exact ⟨fun hb => .inr ⟨hc, hb⟩, fun hx => (hx.resolve_left hp).2⟩
  · rename_i hd
    rw [if_pos h.all]
    dsimp only
    exact mem_beatsAfter_run s.beats ma hd b

theorem writeMem_frame (s : State) (ma : Nat) (d : Data) :
    s.writeMem ma d = { s with mem := (s.writeMem ma d).mem, beats := (s.writeMem ma d).beats } := by
  unfold State.writeMem
  split
  · rfl
  · rfl

/-- What a byte of memory reads as after a write of a run. -/
theorem read_writeMem {s : State} (h : s.unretired) (ma a : Nat) (d : Data) : Memory.read (s.writeMem ma d).mem a
    = if h : ma ≤ a ∧ a < ma + d.length then (d[a - ma]'(by omega)).1 else Memory.read s.mem a := by
  simp [writeMem_mem h, Memory.read_writes]

/-- Settles O50: the bytes and the beats of a run, each on its own. -/
theorem memoryWrites : Obligations.MemoryWrites := by
  unfold Obligations.MemoryWrites
  intro s ma d h hr
  exact ⟨fun a => read_writeMem h ma a d, State.wf_writeMem ma d, mem_writeMem_beats h hr d, writeMem_frame s ma d⟩

end Sys2Proof.Machine
end

section
namespace Sys2Proof.Machine

/-! ## Operations that leave memory as it is -/

/-- Memory is as it was, and so are the retired rows, the poison of beats where no row is retired, and what is
secure. -/
structure MemoryKept (s t : State) : Prop where
  mem : t.mem = s.mem
  unretired : t.unretired ↔ s.unretired
  beats : s.unretired → t.beats = s.beats
  secure : ∀ ma, t.secureMA ma = s.secureMA ma

/-- Memory is as it was, and so are the accesses in flight. -/
structure AccessesKept (s t : State) : Prop extends MemoryKept s t where
  accs : t.accs = s.accs

namespace MemoryKept

variable {s t u : State}

theorem self (s : State) : MemoryKept s s := ⟨rfl, Iff.rfl, fun _ => rfl, fun _ => rfl⟩

theorem trans (h : MemoryKept s t) (h' : MemoryKept t u) : MemoryKept s u where
  mem := h'.mem.trans h.mem
  unretired := h'.unretired.trans h.unretired
  beats := fun hs => (h'.beats (h.unretired.mpr hs)).trans (h.beats hs)
  secure := fun ma => (h'.secure ma).trans (h.secure ma)

/-- What changes neither memory nor the stacks and modules. -/
theorem of_same (h : MemoryKept s t) (hm : u.mem = t.mem := by rfl) (hb : u.beats = t.beats := by rfl)
    (hh : u.hbm = t.hbm := by rfl) (hc : u.chips = t.chips := by rfl) : MemoryKept s u where
  mem := hm.trans h.mem
  unretired := by rw [State.unretired, hh]; exact h.unretired
  beats := fun hs => hb.trans (h.beats hs)
  secure := fun ma => by rw [← h.secure ma, State.secureMA, State.secureMA, State.chip, State.chip, hc]

theorem foldl {α : Type} (f : State → α → State) (hf : ∀ {u : State} (x : α), MemoryKept s u → MemoryKept s (f u x))
    (l : List α) (h : MemoryKept s t) : MemoryKept s (l.foldl f t) := by
  induction l generalizing t with
  | nil => exact h
  | cons x r ih => exact ih (hf x h)

theorem setCoreOf (h : MemoryKept s t) (p k : Nat) (c : Core) : MemoryKept s (t.setCoreOf p k c) := by
  unfold State.setCoreOf
  split
  · exact h.of_same
  · exact h.of_same

/-! ### The order of a core's accesses -/

theorem passPolls (h : MemoryKept s t) (p k ord : Nat) : MemoryKept s (t.passPolls p k ord) := by
  unfold State.passPolls
  dsimp only
  split
  · exact h.of_same
  · exact h

theorem promiseBefore (h : MemoryKept s t) (p k ord scope : Nat) : MemoryKept s (t.promiseBefore p k ord scope) := by
  unfold State.promiseBefore
  split
  · exact h
  · exact setCoreOf (of_same (h.passPolls p k ord)) _ _ _

theorem keepOrder (h : MemoryKept s t) (p k ord : Nat) (rel : Option Nat) : MemoryKept s (t.keepOrder p k ord rel) := by
  have hf := foldl _ (fun (f : Nat × Nat) hu => hu.promiseBefore p k f.1 f.2)
    (((t.passPolls p k ord).coreOf p k).fences.filter fun f => decide (f.1 < ord)) (h.passPolls p k ord)
  unfold State.keepOrder
  dsimp only
  split
  · exact hf.promiseBefore _ _ _ _
  · exact hf

end MemoryKept

namespace AccessesKept

variable {s t u : State}

theorem self (s : State) : AccessesKept s s := ⟨.self s, rfl⟩

theorem of_same (h : AccessesKept s t) (hm : u.mem = t.mem := by rfl) (hb : u.beats = t.beats := by rfl)
    (hh : u.hbm = t.hbm := by rfl) (hc : u.chips = t.chips := by rfl) (ha : u.accs = t.accs := by rfl) :
    AccessesKept s u := ⟨h.toMemoryKept.of_same hm hb hh hc, ha.trans h.accs⟩

theorem foldl {α : Type} (f : State → α → State)
    (hf : ∀ {u : State} (x : α), AccessesKept s u → AccessesKept s (f u x)) (l : List α) (h : AccessesKept s t) :
    AccessesKept s (l.foldl f t) := by
  induction l generalizing t with
  | nil => exact h
  | cons x r ih => exact ih (hf x h)

/-- A module whose regions of R65 stay is replaced. -/
theorem setChip (h : AccessesKept s t) {ch : Nat} {c : Chip} (hc : c.wrgn = (t.chip ch).wrgn) :
    AccessesKept s (t.setChip ch c) where
  mem := h.mem
  unretired := h.unretired
  beats := h.beats
  accs := h.accs
  secure ma := by
    rw [← h.secure ma, State.secureMA, State.secureMA]
    by_cases e : ma / 2 ^ 48 = ch
    · rw [e, State.chip_setChip_self, hc]
    · rw [State.chip_setChip_ne _ _ e]

/-- A stack whose retired rows stay is replaced. -/
theorem setStack (h : AccessesKept s t) {k : Nat} {x : Stack} (hx : x.retired = (t.stack k).retired) :
    AccessesKept s (t.setStack k x) where
  mem := h.mem
  unretired := (Table.forall_put_iff (P := fun y : Stack => y.retired = []) (dflt := Stack.reset) rfl
    (by rw [hx]; rfl)).trans h.unretired
  beats := h.beats
  accs := h.accs
  secure := h.secure

theorem interrupt (h : AccessesKept s t) (ch : Nat) : AccessesKept s (t.interrupt ch) := h.setChip rfl

end AccessesKept

/-! ### Frames made ready (R39, R40) -/

section
variable {P : State → Prop} (hP : ∀ {v : State} (p : Nat) (x : BitVec 2), P v → P (v.demote p x))
include hP

theorem evictPage_of_demote {s t : State} {ch : Nat} (h : P s) (e : s.evictPage ch = some t) : P t := by
  have hf : ∀ p, P (s.finishDemotion p) := fun p => by
    unfold State.finishDemotion
    split
    · split
      · exact hP p _ h
      · exact h
    · exact h
  unfold State.evictPage at e
  split at e
  · exact Option.some.inj e ▸ hf _
  · split at e
    · exact nomatch e
    · obtain ⟨x, -, rfl⟩ := Option.map_eq_some_iff.mp e
      exact hP _ x h

/-- What every demotion keeps, a frame made ready keeps. -/
theorem makeFrame_of_demote {s t : State} {ch : Nat} (h : P s) (e : s.makeFrame ch = some t) : P t := by
  have hin : ∀ (n : Nat) {v : State}, P v → State.makeFrameIn ch n v = some t → P t := by
    intro n
    induction n with
    | zero =>
      intro v hv e
      unfold State.makeFrameIn at e
      split at e
      · exact Option.some.inj e ▸ hv
      · exact nomatch e
    | succ n ih =>
      intro v hv e
      unfold State.makeFrameIn at e
      split at e
      · exact Option.some.inj e ▸ hv
      · obtain ⟨w, hw, hu⟩ := Option.bind_eq_some_iff.mp e
        exact ih (evictPage_of_demote hP hv hw) hu
  unfold State.makeFrame at e
  split at e
  · exact Option.some.inj e ▸ h
  · exact hin _ h e

end

/-! ### Packets at a base die (R26, R28) -/

theorem Stack.log_retired (x : Stack) (kind : BitVec 2) (b : Nat) : (x.log kind b).retired = x.retired := by
  unfold Stack.log
  split
  · rfl
  · rfl

theorem Stack.lookup_retired (x : Stack) (b : Nat) : (x.lookup b).1.retired = x.retired := by
  unfold Stack.lookup
  dsimp only
  split
  · rfl
  · split
    · rfl
    · exact Stack.log_retired ..
    · exact Stack.log_retired ..
    · exact Stack.log_retired ..

namespace AccessesKept

variable {s t u : State}

theorem serveRow (h : AccessesKept s t) (r : DramRow) (n : Nat) : AccessesKept s (t.serveRow r n) := by
  have hs : ∀ {x : Stack}, x.retired = ((t.stack r.stack).lookup r.bank).1.retired →
      AccessesKept s (t.setStack r.stack x) := fun e => h.setStack (e.trans (Stack.lookup_retired ..))
  unfold State.serveRow
  dsimp only
  split
  · refine interrupt (hs ?_) _
    split
    · rfl
    · rfl
  · refine hs ?_
    split
    · rfl
    · rfl

theorem serve (h : AccessesKept s t) (ma len : Nat) : AccessesKept s (t.serve ma len) := by
  refine foldl _ (fun {u} r hu => ?_) _ h
  cases r with
  | none => exact hu
  | some r => exact hu.serveRow r _

theorem serveAcc (h : AccessesKept s t) (a : Acc) : AccessesKept s (t.serveAcc a) := by
  unfold State.serveAcc
  split
  · split
    · exact h.serve _ _
    · exact h
  · exact h

/-! ### Pages (R37 to R51) -/

theorem touch (h : AccessesKept s t) (p : Nat) (a : BitVec 16) : AccessesKept s (t.touch p a) := by
  unfold State.touch
  dsimp only
  split
  · exact h
  · exact h.of_same

theorem noteFrame (h : AccessesKept s t) (k part : Nat) (ctx : BitVec 12) (va p : Nat) :
    AccessesKept s (t.noteFrame k part ctx va p) := by
  unfold State.noteFrame
  dsimp only
  split
  · exact h
  · split
    · exact h.of_same
    · exact h.of_same

theorem touchTarget (h : AccessesKept s t) (a : Acc) (i : Nat) (x : Target) : AccessesKept s (t.touchTarget a i x) := by
  unfold State.touchTarget
  split
  · split
    · exact (h.touch _ _).noteFrame _ _ _ _ _
    · exact h
  · exact h

/-- The poison of beats may change where a row is retired. -/
theorem setBeats (h : AccessesKept s t) (hr : ¬s.unretired) (bs : List Nat) : AccessesKept s { t with beats := bs } :=
  ⟨⟨h.mem, h.unretired, fun hs => absurd hs hr, h.secure⟩, h.accs⟩

/-- A page is moved with the poison that its rows are read with, which is that of its beats where none is retired. -/
theorem keepPoison (h : AccessesKept s t) (p : Nat) : AccessesKept s (t.keepPoison p) := by
  unfold State.keepPoison
  split
  · exact h
  · rename_i hr
    exact h.setBeats (fun hs => hr (h.unretired.mpr hs).all) _

theorem demote (h : AccessesKept s t) (p : Nat) (x : BitVec 2) : AccessesKept s (t.demote p x) := by
  have hp : AccessesKept s (t.purge (fun _ => true) (fun _ => true) fun e => State.resolves e p) := h.of_same
  unfold State.demote
  exact setChip (of_same (hp.keepPoison p)) rfl

theorem makeFrame (h : AccessesKept s t) {ch : Nat} (e : t.makeFrame ch = some u) : AccessesKept s u :=
  makeFrame_of_demote (fun p x hv => hv.demote p x) h e

theorem placeForWrite (h : AccessesKept s t) {p : Nat} {a : BitVec 16} (e : t.placeForWrite p a = some u) :
    AccessesKept s u := by
  unfold State.placeForWrite at e
  split at e
  · obtain ⟨v, hv, rfl⟩ := Option.map_eq_some_iff.mp e
    exact (h.makeFrame hv).of_same
  · have hp : AccessesKept s (t.setPage p { t.page p with demoting := none }) := h.of_same
    exact Option.some.inj e ▸ hp.touch p a

/-- The page placed, or the state as it was where no frame can be had. -/
theorem placed (h : AccessesKept s t) (p : Nat) (a : BitVec 16) : AccessesKept s ((t.placeForWrite p a).getD t) := by
  cases e : t.placeForWrite p a with
  | none => exact h
  | some u => exact h.placeForWrite e

end AccessesKept

end Sys2Proof.Machine
end

section
namespace Sys2Proof.Machine

/-! ## Bytes of a run (R6, R23) -/

theorem length_toBytes (n x : Nat) : (toBytes n x).length = n := by
  induction n generalizing x with
  | zero => rfl
  | succ n ih => rw [toBytes, List.length_cons, ih]

theorem getElem_toBytes {n i : Nat} (x : Nat) (h : i < (toBytes n x).length) :
    (toBytes n x)[i] = BitVec.ofNat 8 (x / 2 ^ (8 * i)) := by
  induction n generalizing x i with
  | zero => exact absurd h (Nat.not_lt_zero i)
  | succ n ih =>
    cases i with
    | zero => simp [toBytes]
    | succ i =>
      simp only [toBytes, List.getElem_cons_succ, ih]
      rw [Nat.div_div_eq_div_mul, Nat.mul_succ, Nat.pow_add, Nat.mul_comm 256]

theorem ofBytes_lt (l : List Byte) : ofBytes l < 2 ^ (8 * l.length) := by
  induction l with
  | nil => decide
  | cons b r ih =>
    have hb := b.isLt
    rw [ofBytes, List.length_cons, Nat.mul_succ, Nat.pow_add]
    omega

theorem Memory.length_bytes (m : Memory) (a n : Nat) : (Memory.bytes m a n).length = n := by
  induction n generalizing a with
  | zero => rfl
  | succ n ih => rw [Memory.bytes, List.length_cons, ih]

theorem map_fst_memData (s : State) (ma n : Nat) : (s.memData ma n).map (·.1) = Memory.bytes s.mem ma n := by
  induction n generalizing ma with
  | zero => rfl
  | succ n ih => rw [State.memData, Memory.bytes, List.map_cons, ih]

theorem any_snd_memData (s : State) (ma n : Nat) :
    (s.memData ma n).any (·.2) = (List.range n).any fun i => s.badBeat (ma + i) := by
  induction n generalizing ma with
  | zero => rfl
  | succ n ih =>
    rw [State.memData, List.any_cons, ih, List.range_succ_eq_map, List.any_cons, List.any_map]
    simp only [Function.comp_def, Nat.add_assoc, Nat.add_comm 1, Nat.add_zero]

/-- Bytes that carry one and the same mark. -/
theorem map_fst_const (bs : List Byte) (bad : Bool) : (bs.map fun b => (b, bad)).map (·.1) = bs := by
  simp [Function.comp_def]

/-- A run of the bytes of a number, and where it does not lie memory as it was. -/
theorem read_writeMem_toBytes {s : State} (h : s.unretired) (ma n v : Nat) {d : Data} (hd : d.map (·.1) = toBytes n v)
    (j : Nat) : Memory.read (s.writeMem ma d).mem j
      = if ma ≤ j ∧ j < ma + n then BitVec.ofNat 8 (v / 2 ^ (8 * (j - ma))) else Memory.read s.mem j := by
  simp only [writeMem_mem h, hd, Memory.read_writes, length_toBytes, getElem_toBytes]
  split
  · rfl
  · rfl

/-! ## The functions of the atomics (R251, R252) -/

theorem toSigned_mod {w : Nat} (hw : 0 < w) (x : Nat) : toSigned w (x % 2 ^ w) = (BitVec.ofNat w x).toInt := by
  have h2 : 2 ^ w = 2 * 2 ^ (w - 1) := by
    rw [← Nat.pow_succ']
    congr 1
    omega
  rw [toSigned, BitVec.toInt, BitVec.toNat_ofNat, Nat.mod_mod]
  refine ite_congr (propext ?_) (fun _ => rfl) fun _ => rfl
  omega

theorem atomicBytes_pos (op : Nat) : 0 < 8 * atomicBytes op := by
  unfold atomicBytes
  split_ifs
  all_goals decide

/-- The form fields of an atomic (R181). -/
def atomicForm (d b : BitVec 6) (r : BitVec 2) (sr : BitVec 6) : Nat :=
  place [(d.toNat, 14), (b.toNat, 8), (r.toNat, 6), (sr.toNat, 0)]

theorem opcodeOf_atomic {g : Guard} {d b sr : BitVec 6} {r : BitVec 2} {op : Nat} {word : BitVec 32} (ho : op < 2 ^ 7)
    (h : some (slotWord g op (atomicForm d b r sr)) = some word) : ((opcodeOf word : Nat) : BitVec 7).toNat = op := by
  have hf : atomicForm d b r sr < 2 ^ 20 := by
    simp only [atomicForm, place]
    omega
  rw [← Option.some.inj h, opcodeOf_slotWord ho hf]
  exact Nat.mod_eq_of_lt ho

/-- The integer atomics have the opcodes from 0x56 on, two for each function. -/
theorem integerAtomics_encode : ∀ q ∈ integerAtomics.zipIdx 0x2B, q.2 < 0x35 ∧ ∀ (g : Guard)
    (d b : BitVec 6) (r : BitVec 2) (sr : BitVec 6), (q.1.1 g d b r sr).encode = some (slotWord g (2 * q.2) (atomicForm d b r sr))
      ∧ (q.1.2.1 g d b r sr).encode = some (slotWord g (2 * q.2 + 1) (atomicForm d b r sr)) := by
  intro q hq
  fin_cases hq
  all_goals exact ⟨by decide, fun g d b r sr => ⟨rfl, rfl⟩⟩

/-- The functions on the values of an integer atomic's width, by half the opcode. -/
theorem integerAtomics_result : ∀ q ∈ integerAtomics.zipIdx 0x2B, ∀ {op n : Nat} (m x y : Nat), op / 2 = q.2 →
    8 * atomicBytes op = n →
      atomicResult op m x y = ((q.1.2.2 n (BitVec.ofNat n m) (BitVec.ofNat n x) (BitVec.ofNat n y)).toNat, 0) := by
  intro q hq op n m x y ho hn
  subst hn
  have signed := toSigned_mod (atomicBytes_pos op)
  fin_cases hq
  all_goals
    dsimp only at ho
    simp [atomicResult, ho, signed, BitVec.slt, BitVec.ult, apply_ite, min_def_lt, max_def_lt, ← BitVec.toNat_inj]

/-- What an atomic of R251 or R252 does is what its opcode names. -/
theorem atomicResult_opcodeOf : ∀ p ∈ atomics, ∀ {g : Guard} {d b sr : BitVec 6} {r : BitVec 2} {word : BitVec 32},
    (p.1 g d b r sr).encode = some word → ∀ {m x : Nat} (y : Nat), m < 2 ^ (8 * p.2.1) → x < 2 ^ 64 →
      atomicResult ((opcodeOf word : Nat) : BitVec 7).toNat m x y = p.2.2 m x y := by
  intro p hp g d b sr r word he m x y hm hx
  obtain hp | hp := List.mem_append.mp hp
  · obtain ⟨q, hq, hp⟩ := List.mem_flatMap.mp hp
    obtain ⟨z, hz, rfl⟩ := List.mem_map.mp ((List.zipIdx_map_fst 0x2B integerAtomics).symm ▸ hq)
    obtain ⟨hk, enc⟩ := integerAtomics_encode z hz
    obtain ⟨e4, e8⟩ := enc g d b r sr
    simp only [List.mem_cons, List.not_mem_nil, or_false] at hp
    obtain rfl | rfl := hp
    · rw [opcodeOf_atomic (by omega) (e4.symm.trans he)]
      refine integerAtomics_result z hz m x y (by omega) ?_
      rw [atomicBytes, if_pos (by omega), if_pos (by omega)]
    · rw [opcodeOf_atomic (by omega) (e8.symm.trans he)]
      refine integerAtomics_result z hz m x y (by omega) ?_
      rw [atomicBytes, if_pos (by omega), if_neg (by omega)]
  · fin_cases hp
    all_goals
      rw [opcodeOf_atomic (by decide) he]
      simp only [Nat.reduceMul, Nat.reducePow] at hm hx
      simp [atomicResult, atomicBytes, Nat.mod_eq_of_lt hm, Nat.mod_eq_of_lt hx]

/-! ## A whole access at tiered memory (R18, R20, R22, R412) -/

/-- An access of one part that lies in tiered memory, which no world check refuses. -/
structure Acc.AtTiered (s : State) (c : Acc) (ma : Nat) : Prop where
  target : c.target = .mem ma
  whole : c.split = []
  todo : c.todo = []
  tiered : regionOf ma = .tiered
  allowed : (c.host && s.secureMA ma) = false

namespace Acc.AtTiered

variable {s : State} {c : Acc} {ma : Nat} (h : c.AtTiered s ma)
include h

theorem parts : c.parts = [(.mem ma, c.bytes)] := by
  rw [Acc.parts, if_pos h.whole, h.target]

theorem nextByte : s.nextByte c = none := by
  simp [State.nextByte, h.todo]

theorem readPart (n : Nat) : s.readPart c (.mem ma, n) = s.memData ma n := by
  simp [State.readPart, State.hostRefused, h.allowed, h.tiered]

/-- What an access finds at its bytes. -/
theorem flatMap_readPart : c.parts.flatMap (s.readPart c) = s.memData ma c.bytes := by
  rw [h.parts, List.flatMap_singleton, h.readPart]

theorem writePart (n : Nat) (d : Data) :
    s.writePart c (.mem ma, n) d = ((s.placeForWrite (pageOf ma) c.attr).getD s).writeMem ma d := by
  simp [State.writePart, State.hostRefused, h.allowed, h.tiered]

theorem writeParts {d : Data} (hd : d.length = c.bytes) :
    s.writeParts c c.parts d = ((s.placeForWrite (pageOf ma) c.attr).getD s).writeMem ma d := by
  rw [h.parts, State.writeParts, State.writeParts, h.writePart, ← hd, List.take_length]

theorem of_kept {t : State} (ht : MemoryKept s t) : c.AtTiered t ma :=
  { h with allowed := by rw [ht.secure]; exact h.allowed }

/-! What each kind of access comes to. -/

theorem performLoad : s.performLoad c = (s.touchTarget c 0 (.mem ma)).performed c
    (BitVec.ofNat 64 (ofBytes (Memory.bytes s.mem ma c.bytes)))
    ((List.range c.bytes).any fun i => s.badBeat (ma + i)) 0 := by
  rw [State.performLoad, h.nextByte]
  dsimp only
  rw [h.flatMap_readPart, map_fst_memData, any_snd_memData, h.parts]
  rfl

theorem performStore : s.performStore c = (((s.placeForWrite (pageOf ma) c.attr).getD s).writeMem ma
    ((toBytes c.bytes c.data.toNat).map fun b => (b, c.poison))).performed c 0 false 0 := by
  rw [State.performStore, h.nextByte]
  dsimp only
  rw [h.writeParts (by rw [List.length_map, length_toBytes])]

theorem readyAtomic : s.readyAtomic c = (s.placeForWrite (pageOf ma) c.attr).getD s := by
  simp [State.readyAtomic, h.target, h.tiered]

theorem performAtomic {op : BitVec 7} (hk : c.kind = .atomic op) : s.performAtomic c =
    let t := (s.placeForWrite (pageOf ma) c.attr).getD s
    let old := ofBytes (Memory.bytes s.mem ma c.bytes)
    let r := atomicResult op.toNat old c.data.toNat c.data2.toNat
    if ((List.range c.bytes).any fun i => t.badBeat (ma + i)) = true then t.performed c (BitVec.ofNat 64 old) true 0
    else (((t.placeForWrite (pageOf ma) c.attr).getD t).writeMem ma (clean (toBytes c.bytes r.1))).performed c
      (BitVec.ofNat 64 old) false r.2 := by
  have ht := (AccessesKept.self s).placed (pageOf ma) c.attr
  have hc := h.of_kept ht.toMemoryKept
  rw [State.performAtomic, h.readyAtomic]
  dsimp only
  rw [hc.flatMap_readPart, map_fst_memData, any_snd_memData, ht.mem, hk]
  dsimp only
  rw [hc.writeParts (by rw [clean, List.length_map, length_toBytes])]

end Acc.AtTiered

/-! ## What becomes of an access whose turn has come (R18, R253, R412) -/

theorem MemoryKept.badBeat {s t : State} (h : MemoryKept s t) (ht : t.unretired) (a : Nat) :
    t.badBeat a = s.badBeat a := by
  have hs := h.unretired.mp ht
  rw [ht.badBeat, hs.badBeat, h.beats hs]

theorem sentAcc_id {s : State} {id : Nat} {b : Acc} (h : s.sentAcc id = some b) : b.id = id := by
  have hx := List.find?_some (show (s.accs.find? fun a => a.id == id && a.phase == .sent) = some b from h)
  exact beq_iff_eq.mp (Bool.and_eq_true_iff.mp hx).1

theorem mapHost_id {s : State} {b a : Acc} (h : s.mapHost b = some a) : a.id = b.id := by
  unfold State.mapHost at h
  split at h
  · split at h
    · split at h
      · exact nomatch h
      · obtain ⟨x, -, rfl⟩ := Option.map_eq_some_iff.mp h
        rfl
    · exact Option.some.inj h ▸ rfl
  · exact Option.some.inj h ▸ rfl

/-- A request that has left its core is the one that was to leave, but for its timer and its tag. -/
theorem sendOut_eq {s : State} {a c : Acc} (h : s.sendOut a = some c) :
    ∃ o n t, c = { a with out := o, since := n, tag := t } := by
  unfold State.sendOut at h
  split at h
  · exact ⟨_, _, _, (Option.some.inj h).symm⟩
  · split at h
    · obtain ⟨t, -, rfl⟩ := Option.map_eq_some_iff.mp h
      exact ⟨_, _, t, rfl⟩
    · exact nomatch h

/-- The world check lets an access of either kind through: the host's at its memory, any other at its target. -/
theorem allowed_of_world {s : State} {c : Acc} {ma : Nat} (ht : c.targets = [.mem ma])
    (hw : if c.host then s.secureMA ma = false else s.refusedAt c.ns (.mem ma) = false) :
    (c.host && s.secureMA ma) = false ∧ (!c.host && c.targets.any (s.refusedAt c.ns)) = false := by
  rw [ht]
  split at hw
  · rename_i hh
    simp [hh, hw]
  · rename_i hh
    simp [hh, hw]

/-- An access whose order is met and whose request has left performs. -/
theorem atMemory_performs {s : State} {id ma : Nat} {b a c : Acc} {ok : AccKind → Bool} {go : State → Acc → State}
    (hb : s.sentAcc id = some b) (ha : s.mapHost b = some a) (hm : a.target = .mem ma) (hk : ok a.kind = true)
    (hp : s.mayPerform a = true) (hmiss : s.hostMiss a ma = false) (hc : s.sendOut a = some c)
    (hpath : s.noPath c = false) (hw : (!c.host && c.targets.any (s.refusedAt c.ns)) = false) :
    s.atMemory id ok go = go ((s.keepOrderOf c).serveAcc c) c := by
  simp [State.atMemory, hb, ha, hm, hk, hp, hmiss, hc, hpath, hw]

/-- The bytes of a number written where an access lies, once its page has been placed. -/
theorem read_placed_writeMem {s u : State} (hu : MemoryKept s u) (hr : u.unretired) (p : Nat) (attr : BitVec 16)
    (ma n v : Nat) {d : Data} (hd : d.map (·.1) = toBytes n v) (j : Nat) :
    Memory.read (((u.placeForWrite p attr).getD u).writeMem ma d).mem j
      = if ma ≤ j ∧ j < ma + n then BitVec.ofNat 8 (v / 2 ^ (8 * (j - ma))) else Memory.read s.mem j := by
  have ht := (AccessesKept.self u).placed p attr
  rw [read_writeMem_toBytes (ht.unretired.mpr hr) ma n v hd, ht.mem, hu.mem]

theorem placed_writeMem_accs (u : State) (p : Nat) (attr : BitVec 16) (ma : Nat) (d : Data) :
    (((u.placeForWrite p attr).getD u).writeMem ma d).accs = u.accs := by
  rw [writeMem_frame]
  exact ((AccessesKept.self u).placed p attr).accs

/-! ## The statement's clauses -/

section
variable {s u : State} {c : Acc} {ma : Nat} (hu : MemoryKept s u) (hr : u.unretired) (hc : c.AtTiered u ma)
include hu hr hc

theorem performLoad_clause :
    (u.performLoad c).accs = (u.performed c (BitVec.ofNat 64 (ofBytes (Memory.bytes s.mem ma c.bytes)))
      ((List.range c.bytes).any fun i => s.badBeat (ma + i)) 0).accs
    ∧ (u.performLoad c).mem = s.mem ∧ (u.performLoad c).beats = s.beats := by
  have ht := (AccessesKept.self u).touchTarget c 0 (.mem ma)
  rw [hc.performLoad, ← hu.mem, ← hu.beats (hu.unretired.mp hr)]
  simp only [hu.badBeat hr]
  exact ⟨congrArg (List.map _) ht.accs, ht.mem, ht.beats hr⟩

theorem performStore_clause :
    (u.performStore c).accs = (u.performed c 0 false 0).accs
    ∧ ∀ j, Memory.read (u.performStore c).mem j = if ma ≤ j ∧ j < ma + c.bytes
        then BitVec.ofNat 8 (c.data.toNat / 2 ^ (8 * (j - ma))) else Memory.read s.mem j := by
  rw [hc.performStore]
  refine ⟨congrArg (List.map _) (placed_writeMem_accs ..), fun j => ?_⟩
  exact read_placed_writeMem hu hr _ _ ma c.bytes _ (map_fst_const ..) j

theorem performAtomic_clause {op : BitVec 7} (hk : c.kind = .atomic op) :
    let old := ofBytes (Memory.bytes s.mem ma c.bytes)
    let bad := (List.range c.bytes).any fun i => s.badBeat (ma + i)
    let q := atomicResult op.toNat old c.data.toNat c.data2.toNat
    (bad = true → (u.performAtomic c).accs = (u.performed c (BitVec.ofNat 64 old) true 0).accs
      ∧ (u.performAtomic c).mem = s.mem)
    ∧ (bad = false → (u.performAtomic c).accs = (u.performed c (BitVec.ofNat 64 old) false q.2).accs
      ∧ ∀ j, Memory.read (u.performAtomic c).mem j = if ma ≤ j ∧ j < ma + c.bytes
        then BitVec.ofNat 8 (q.1 / 2 ^ (8 * (j - ma))) else Memory.read s.mem j) := by
  intro old bad q
  have hp := (AccessesKept.self u).placed (pageOf ma) c.attr
  have ht : MemoryKept s ((u.placeForWrite (pageOf ma) c.attr).getD u) := hu.trans hp.toMemoryKept
  have hrt := hp.unretired.mpr hr
  rw [hc.performAtomic hk]
  simp only [ht.badBeat hrt, hu.mem]
  refine ⟨fun h => ?_, fun h => ?_⟩
  · rw [if_pos h]
    exact ⟨congrArg (List.map _) hp.accs, ht.mem⟩
  · rw [if_neg (Bool.eq_false_iff.mp h)]
    refine ⟨congrArg (List.map _) ((placed_writeMem_accs ..).trans hp.accs), fun j => ?_⟩
    exact read_placed_writeMem ht hrt _ _ ma c.bytes _ (map_fst_const ..) j

end

/-- Settles O52: an access that may perform does so on memory as it was, since what comes before it and the packets that
it sends change no byte. -/
theorem memoryAccesses : Obligations.MemoryAccesses := by
  unfold Obligations.MemoryAccesses
  intro s id ma b a c hb ha hm hsplit htodo hreg hmay hmiss hsend hpath hw u hr replied old bad written
  have hid : a.id = id := (mapHost_id ha).trans (sentAcc_id hb)
  obtain ⟨o, n, tag, hc⟩ := sendOut_eq hsend
  have ht : c.targets = [.mem ma] := by
    rw [hc, Acc.targets, if_pos hsplit]
    exact congrArg (fun x => [x]) hm
  obtain ⟨hs, hw⟩ := allowed_of_world ht hw
  have hu : MemoryKept s u := ((MemoryKept.self s).keepOrder ..).trans ((AccessesKept.self _).serveAcc c).toMemoryKept
  have performs : ∀ {ok go}, ok a.kind = true → s.atMemory id ok go = go u c := fun hk =>
    atMemory_performs hb ha hm hk hmay hmiss hsend hpath hw
  have hat : c.AtTiered u ma := Acc.AtTiered.of_kept
    ⟨by rw [hc]; exact hm, by rw [hc]; exact hsplit, by rw [hc]; exact htodo, hreg, hs⟩ hu
  subst hc hid
  refine ⟨fun hk => ⟨_, congrArg Host.Outcome.next (performs (by rw [hk]; rfl)), performLoad_clause hu hr hat⟩,
    fun hk => ⟨_, congrArg Host.Outcome.next (performs (by rw [hk]; rfl)), performStore_clause hu hr hat⟩,
    fun p hp g d b sr r word he hk hbytes => ?_⟩
  obtain ⟨hbad, hclean⟩ := performAtomic_clause hu hr hat hk
  have hq : atomicResult ((opcodeOf word : Nat) : BitVec 7).toNat old a.data.toNat a.data2.toNat
      = p.2.2 old a.data.toNat a.data2.toNat := by
    refine atomicResult_opcodeOf p hp he _ ?_ a.data.isLt
    rw [← hbytes, ← Memory.length_bytes s.mem ma a.bytes]
    exact ofBytes_lt _
  rw [hq] at hclean
  have hx := performs (ok := fun k => match k with | .atomic _ => true | .chunk => true | _ => false)
    (go := State.performAtomic) (by rw [hk])
  exact ⟨fun hb => ⟨_, congrArg Host.Outcome.next hx, hbad hb⟩, fun hb => ⟨_, congrArg Host.Outcome.next hx, hclean hb⟩⟩

end Sys2Proof.Machine
end

section
namespace Sys2Proof.Machine

/-! ## Copies and fills of a base die (R24, R25, R439) -/

/-- What every step of a fold keeps that may have no result, its result has. -/
theorem foldl_some_induct {α : Type} {P : State → Prop} {f : Option State → α → Option State}
    (hn : ∀ x, f none x = none) (hs : ∀ {u v : State} (x : α), P u → f (some u) x = some v → P v) (l : List α) {u v : State} (hu : P u)
    (h : l.foldl f (some u) = some v) : P v := by
  induction l generalizing u with
  | nil => exact Option.some.inj h ▸ hu
  | cons x r ih =>
    rw [List.foldl_cons] at h
    cases hx : f (some u) x with
    | some w => exact ih (hs x hu hx) (hx ▸ h)
    | none =>
      rw [hx, List.foldl_fixed' hn] at h
      exact nomatch h

namespace AccessesKept

variable {s t u : State}

theorem readyRun (h : AccessesKept s t) {ma len : Nat} (e : Machine.readyRun t ma len = some u) : AccessesKept s u := by
  refine foldl_some_induct (P := AccessesKept s) (fun _ => rfl) (fun {v w} p hv hw => ?_) _ h e
  dsimp only at hw
  split at hw
  · exact nomatch hw
  · split at hw
    · exact hv.placeForWrite hw
    · exact Option.some.inj hw ▸ hv.of_same

theorem serveCopy (h : AccessesKept s t) (k src dst len : Nat) : AccessesKept s (State.serveCopy k t src dst len) := by
  induction k generalizing t src dst len with
  | zero => exact h
  | succ k ih =>
    unfold State.serveCopy
    dsimp only
    split
    · exact h
    · refine ih ?_ _ _ _
      split
      · split
        · exact h.serveRow _ 2
        · exact h
      · exact (h.serve _ _).serve _ _

theorem serveFill (h : AccessesKept s t) (k dst len : Nat) (pat : BitVec 64) :
    AccessesKept s (State.serveFill k t dst len pat) := by
  induction k generalizing t dst len with
  | zero => exact h
  | succ k ih =>
    unfold State.serveFill
    dsimp only
    split
    · exact h
    · refine ih ?_ _ _
      split
      · split
        · exact h.serveRow _ 2
        · exact h
      · exact h.serve _ _

end AccessesKept

/-- What the base die writes is in memory once the pages of the run are ready. -/
theorem read_baseWrite {s u : State} (hu : AccessesKept s u) (hs : s.unretired) {dst len : Nat} (hl : 0 < len)
    (hr : readyRun u dst len ≠ none) {d : Data} (hd : d.length = len) (j : Nat) :
    Memory.read (baseWrite u dst len d).mem j
      = if h : dst ≤ j ∧ j < dst + len then (d[j - dst]'(by omega)).1 else Memory.read s.mem j := by
  obtain ⟨v, hv⟩ := Option.ne_none_iff_exists'.mp hr
  have hk := hu.readyRun hv
  subst hd
  rw [baseWrite, if_neg (by omega), hv]
  dsimp only
  rw [read_writeMem (hk.unretired.mpr hs), hk.mem]

theorem length_memData (s : State) (ma n : Nat) : (s.memData ma n).length = n := by
  rw [← List.length_map (·.1), map_fst_memData, Memory.length_bytes]

theorem getElem_memData_fst (s : State) (ma : Nat) {n i : Nat} (h : i < (s.memData ma n).length) :
    ((s.memData ma n)[i]).1 = Memory.read s.mem (ma + i) := by
  induction n generalizing ma i with
  | zero => exact absurd h (Nat.not_lt_zero i)
  | succ n ih =>
    cases i with
    | zero => rfl
    | succ i =>
      simp only [State.memData, List.getElem_cons_succ, ih]
      rw [Nat.add_assoc, Nat.add_comm 1]

theorem rowcopy_clause {s : State} {src dst len : Nat} (hl : 0 < len) (hs : s.unretired)
    (hd : (s.stackOf dst len).isSome = true) (he : s.stackOf src len = s.stackOf dst len)
    (hr : readyRun (State.serveCopy (len / 1024 + 3) s src dst len) dst len ≠ none) :
    ∃ t, exec (.rowcopy src dst len) s = .next t ∧ ∀ j, Memory.read t.mem j
      = if dst ≤ j ∧ j < dst + len then Memory.read s.mem (src + (j - dst)) else Memory.read s.mem j := by
  have hk := (AccessesKept.self s).serveCopy (len / 1024 + 3) src dst len
  refine ⟨_, congrArg Host.Outcome.next (if_pos (by simp [he, hd])), fun j => ?_⟩
  refine (read_baseWrite hk hs hl hr (length_memData ..) j).trans ?_
  simp only [getElem_memData_fst, hk.mem]
  split
  · rfl
  · rfl

theorem rowinit_clause {s : State} {dst len : Nat} (pat : BitVec 64) (hl : 0 < len) (hs : s.unretired)
    (hd : (s.stackOf dst len).isSome = true)
    (hr : readyRun (State.serveFill (len / 2048 + 2) s dst len pat) dst len ≠ none) :
    ∃ t, exec (.rowinit dst len pat) s = .next t ∧ ∀ j, Memory.read t.mem j
      = if dst ≤ j ∧ j < dst + len then pat.extractLsb' (8 * ((j - dst) % 8)) 8 else Memory.read s.mem j := by
  have hk := (AccessesKept.self s).serveFill (len / 2048 + 2) dst len pat
  have hlen : (patternBytes pat len).length = len := by simp [patternBytes]
  refine ⟨_, congrArg Host.Outcome.next (if_pos hd), fun j => ?_⟩
  refine (read_baseWrite hk hs hl hr hlen j).trans ?_
  split
  · simp [patternBytes, BitVec.extractLsb', Nat.shiftRight_eq_div_pow]
  · rfl

end Sys2Proof.Machine
end

section
namespace Sys2Proof.Machine

/-! ## Banks of a stack (R26, R28 to R30) -/

theorem State.setStack_setStack (s : State) (k : Nat) (x y : Stack) :
    (s.setStack k x).setStack k y = s.setStack k y := by
  simp [State.setStack]

namespace Stack

/-- The event that is logged of a bank's entry (R30). -/
def event (kind : BitVec 2) (b : Nat) : RemapEvent :=
  ⟨kind, BitVec.ofNat 5 (b / 32), b / 16 % 2 == 1, BitVec.ofNat 4 b⟩

/-- An event of a bank whose entry has been changed is logged while fewer than 16 are held. -/
theorem log_setBank {x : Stack} (h : x.events.length < 16) (b : Nat) (y : Bank4) (kind : BitVec 2) :
    (x.setBank b y).log kind b = { x.setBank b y with events := x.events ++ [event kind b] } := if_pos h

variable {x : Stack} {b : Nat} (hf : (x.bank b).fenced = false)
include hf

theorem lookup_intact (ha : (x.bank b).copyA = true) (hb : (x.bank b).copyB = true) : x.lookup b = (x, false) := by
  simp [lookup, hf, ha, hb]

/-- One copy of an entry that is bad is repaired from the other. -/
theorem lookup_oneBad (hx : ((x.bank b).copyA != (x.bank b).copyB) = true) (hr : x.events.length < 16) :
    ∃ e, x.lookup b
        = ({ x.setBank b { x.bank b with copyA := true, copyB := true } with events := x.events ++ [e] }, false)
      ∧ e.kind = if (x.bank b).copyA then 1 else 0 := by
  generalize hy : x.bank b = y at *
  obtain ⟨count, a, b', fenced, rfm⟩ := y
  obtain rfl : fenced = false := hf
  cases a with
  | true =>
    obtain rfl : b' = false := by simpa using hx
    refine ⟨event 1 b, ?_, rfl⟩
    simp only [lookup, hy]
    exact congrArg (·, false) (log_setBank hr ..)
  | false =>
    obtain rfl : b' = true := by simpa using hx
    refine ⟨event 0 b, ?_, rfl⟩
    simp only [lookup, hy]
    exact congrArg (·, false) (log_setBank hr ..)

/-- With both copies bad the bank is fenced. -/
theorem lookup_bothBad (ha : (x.bank b).copyA = false) (hb : (x.bank b).copyB = false) (hr : x.events.length < 16) :
    ∃ e, x.lookup b = ({ x.setBank b { x.bank b with fenced := true } with events := x.events ++ [e] }, true)
      ∧ e.kind = 2 := by
  generalize hy : x.bank b = y at *
  obtain ⟨count, a, b', fenced, rfm⟩ := y
  obtain rfl : fenced = false := hf
  obtain rfl : a = false := ha
  obtain rfl : b' = false := hb
  refine ⟨event 2 b, ?_, rfl⟩
  simp only [lookup, hy]
  exact congrArg (·, true) (log_setBank hr ..)

end Stack

/-- An activate of a row, after what the base die found wrong with it. -/
theorem exec_dramActivate (s : State) (k n row : Nat) (up : DramUpset) :
    exec (.dramActivate k ⟨n, row, up⟩) s =
      let b := n % 1024
      let z := ((s.stack k).upset b row up).lookup b
      let x := if z.1.counting then z.1.setBank b (activates z.1.level 1 (z.1.bank b)) else z.1
      .next (if z.2 then (s.setStack k x).interrupt (k / 8) else s.setStack k x) := by
  refine congrArg Host.Outcome.next ?_
  simp only [State.serveRow, State.stack_setStack_self, State.setStack_setStack]
  rfl

/-- A count of 8 bits raised by one, saturating. -/
theorem ofNat_satAdd_one (x : BitVec 8) : BitVec.ofNat 8 (satAdd 255 x.toNat 1) = if x = 255 then 255 else x + 1 := by
  split
  · rename_i h
    rw [h]
    rfl
  · rename_i h
    have hx : x.toNat ≠ 255 := fun e => h (BitVec.eq_of_toNat_eq e)
    apply BitVec.eq_of_toNat_eq
    rw [BitVec.toNat_ofNat, BitVec.toNat_add, satAdd, show (1 : BitVec 8).toNat = 1 from rfl]
    omega

section
variable (s : State) (k n row : Nat)

theorem packetDiscard_clause {kind : BitVec 4} (h : 6 < kind.toNat) : exec (.packetDiscard k kind) s
    = .next (s.setStack k { s.stack k with
        badpkt := if (s.stack k).badpkt = 255 then 255 else (s.stack k).badpkt + 1 }) := by
  refine congrArg Host.Outcome.next ((if_neg (Nat.not_le.mpr h)).trans ?_)
  rw [ofNat_satAdd_one]

section
variable (hf : ((s.stack k).bank (n % 1024)).fenced = false)
include hf

theorem activate_counts (ha : ((s.stack k).bank (n % 1024)).copyA = true)
    (hb : ((s.stack k).bank (n % 1024)).copyB = true) (hc : (s.stack k).counting = true) :
    let x := s.stack k
    let y := x.bank (n % 1024)
    exec (.dramActivate k ⟨n, row, .none⟩) s
      = .next (s.setStack k (x.setBank (n % 1024) (if x.level ≤ y.count + 1
        then { y with count := y.count + 1 - x.level, rfm := y.rfm + 1 } else { y with count := y.count + 1 }))) := by
  rw [exec_dramActivate]
  simp only [Stack.upset, Stack.lookup_intact hf ha hb, hc]
  rfl

theorem activate_repairs (hc : (s.stack k).counting = false) (hr : (s.stack k).events.length < 16)
    (hx : (((s.stack k).bank (n % 1024)).copyA != ((s.stack k).bank (n % 1024)).copyB) = true) :
    let x := s.stack k
    let y := x.bank (n % 1024)
    ∃ e, exec (.dramActivate k ⟨n, row, .none⟩) s
        = .next (s.setStack k { x.setBank (n % 1024) { y with copyA := true, copyB := true } with
            events := x.events ++ [e] })
      ∧ e.kind = if y.copyA then 1 else 0 := by
  obtain ⟨e, he, hk⟩ := Stack.lookup_oneBad hf hx hr
  refine ⟨e, ?_, hk⟩
  rw [exec_dramActivate]
  simp only [Stack.upset, he]
  exact congrArg (fun z => Host.Outcome.next (s.setStack k z)) (if_neg (Bool.eq_false_iff.mp hc))

theorem activate_fences (hc : (s.stack k).counting = false) (hr : (s.stack k).events.length < 16)
    (ha : ((s.stack k).bank (n % 1024)).copyA = false) (hb : ((s.stack k).bank (n % 1024)).copyB = false) :
    let x := s.stack k
    let y := x.bank (n % 1024)
    ∃ t e, exec (.dramActivate k ⟨n, row, .none⟩) s = .next t ∧ e.kind = 2
      ∧ t.stack k = { x.setBank (n % 1024) { y with fenced := true } with events := x.events ++ [e] }
      ∧ (t.chip (k / 8)).interrupts = (s.chip (k / 8)).interrupts + 1 := by
  obtain ⟨e, he, hk⟩ := Stack.lookup_bothBad hf ha hb hr
  have hx := exec_dramActivate s k n row .none
  simp only [Stack.upset, he] at hx
  refine ⟨_, e, hx, hk, ?_, ?_⟩
  · refine (State.stack_setStack_self ..).trans ?_
    exact if_neg (Bool.eq_false_iff.mp hc)
  · exact congrArg Chip.interrupts (State.chip_setChip_self ..)

theorem activate_retires (hc : (s.stack k).counting = false) (ha : ((s.stack k).bank (n % 1024)).copyA = true)
    (hb : ((s.stack k).bank (n % 1024)).copyB = true)
    (hr : ¬State.rowName (n % 1024) row ∈ (s.stack k).retired) :
    let x := s.stack k
    ∃ t, exec (.dramActivate k ⟨n, row, .failing⟩) s = .next t
      ∧ t.stack k = { x with retired := x.retired ++ [State.rowName (n % 1024) row] } := by
  have hu : (s.stack k).upset (n % 1024) row .failing
      = { s.stack k with retired := (s.stack k).retired ++ [State.rowName (n % 1024) row] } := by
    simp [Stack.upset, hf, hr]
  have hl := Stack.lookup_intact (x := (s.stack k).upset (n % 1024) row .failing) (b := n % 1024)
    (by rw [hu]; exact hf) (by rw [hu]; exact ha) (by rw [hu]; exact hb)
  refine ⟨_, exec_dramActivate .., ?_⟩
  rw [hl, hu]
  refine (State.stack_setStack_self ..).trans ?_
  exact if_neg (Bool.eq_false_iff.mp hc)

end

end

end Sys2Proof.Machine
end

section
namespace Sys2Proof.Machine

/-! ## Cached translations of a page (R62, R63) -/

/-- What does not speak of a core's commands stays when every command is changed. -/
theorem core_mapCmds {α : Type} (φ : Core → α) (hφ : ∀ c q, φ { c with xq := q } = φ c) (s : State) (f : Cmd → Cmd)
    (k : Nat) : φ ((s.mapCmds f).core k) = φ (s.core k) := by
  rw [State.core, State.mapCmds, Table.look_map_val, State.core]
  cases Table.look s.cores k with
  | none => rfl
  | some c => exact hφ c _

/-- The state with every cached translation of a page removed (R63). -/
abbrev State.unmapped (s : State) (p : Nat) : State :=
  s.purge (fun _ => true) (fun _ => true) fun e => State.resolves e p

theorem purge_ucache (s : State) (clusters : Nat → Bool) (hit : XEntry → Bool) (k : Nat) :
    ∀ e ∈ ((s.purge (fun _ => true) clusters hit).core k).ucache, hit e = false := by
  rw [State.core, State.purge, Table.look_map_val]
  cases Table.look s.cores k with
  | none => exact fun e he => nomatch he
  | some c => exact fun e he => by simpa using (List.mem_filter.mp he).2

theorem purge_cache (s : State) (cores : Nat → Bool) (hit : XEntry → Bool) (cl : Nat) :
    ∀ e ∈ ((s.purge cores (fun _ => true) hit).cluster cl).cache, hit e = false := by
  rw [State.cluster, State.purge, Table.look_map_val]
  cases Table.look s.clusters cl with
  | none => exact fun e he => nomatch he
  | some c => exact fun e he => by simpa using (List.mem_filter.mp he).2

/-! ## Demotions (R29, R34, R39, R40) -/

/-- Nothing but the poison of beats is changed when a page is read to be moved. -/
theorem keepPoison_eq (s : State) (p : Nat) : ∃ bs, s.keepPoison p = { s with beats := bs } := by
  unfold State.keepPoison
  split
  · exact ⟨s.beats, rfl⟩
  · exact ⟨_, rfl⟩

section
variable {s : State} {ch p : Nat}

theorem tierDemote_starts (ht : s.touching ch = none) (hn : s.needsFrame ch = true) (hv : s.victim ch = some p) :
    exec (.tierDemote ch) s = .next (s.setPage p { s.page p with demoting := s.demotionTier p }) := by
  refine congrArg Host.Outcome.next ?_
  rw [ht]
  dsimp only
  rw [if_pos hn, hv]

theorem exec_tierDemote_moves (ht : s.touching ch = some p) : exec (.tierDemote ch) s = .next (s.moveFrame p) := by
  refine congrArg Host.Outcome.next ?_
  rw [ht]

theorem tierDemote_moves {f : Nat} (ht : s.touching ch = some p) (h0 : (s.page p).tier = some 0)
    (hf : s.freeFrame (p / 2 ^ 32) = some f) : ∃ t, exec (.tierDemote ch) s = .next t ∧ t.mem = s.mem
      ∧ t.page p = { s.page p with frame := f } := by
  have hfree : s.frameFree (p / 2 ^ 32) = true := by rw [State.frameFree, hf]; rfl
  have hm : s.moveFrame p = ((s.keepPoison p).unmapped p).setPage p
      { s.page p with frame := f } := by
    rw [State.moveFrame, State.makeFrame, if_pos hfree]
    dsimp only
    rw [if_neg (by simp [h0]), State.nextFrame, hf]
    rfl
  refine ⟨_, exec_tierDemote_moves ht, ?_, ?_⟩
  · exact hm ▸ ((AccessesKept.self s).keepPoison p).mem
  · rw [hm]
    exact State.page_setPage_self ..

theorem tierDemote_waits (ht : s.touching ch = some p) (hf : s.freeFrame (p / 2 ^ 32) = none)
    (he : s.evictPage (p / 2 ^ 32) = none) : exec (.tierDemote ch) s = .next s := by
  have hfree : ¬s.frameFree (p / 2 ^ 32) = true := by
    rw [State.frameFree, hf]
    exact Bool.false_ne_true
  have hin : ∀ n, State.makeFrameIn (p / 2 ^ 32) n s = none := by
    intro n
    cases n with
    | zero => rw [State.makeFrameIn, if_neg hfree]
    | succ n => rw [State.makeFrameIn, if_neg hfree, he, Option.bind_none]
  rw [exec_tierDemote_moves ht, State.moveFrame, State.makeFrame, if_neg hfree, hin]

end

/-- A page that may not be compressed is stored raw (R34). -/
theorem packing_raw {s : State} {p : Nat} (h : (s.page p).comp = 0 ∨ s.compressing (p / 2 ^ 32) = false) :
    s.packing p = (0, 65536) := by
  rw [State.packing]
  exact if_pos (by simpa using h)

/-- A page demoted: what becomes of it, of the translations and of the tiers' use. -/
theorem demote_eq (s : State) (p : Nat) (tier : BitVec 2) : ∃ (bs : List Nat) (z : BitVec 2 × Nat),
    s.demote p tier = (State.setPage { s.unmapped p with beats := bs } p
        { s.page p with tier := some tier, demoting := none, method := z.1, stored := z.2 }).setChip (p / 2 ^ 32)
        { s.chip (p / 2 ^ 32) with tierUsed := true }
      ∧ ((s.page p).comp = 0 ∨ s.compressing (p / 2 ^ 32) = false → z = (0, 65536)) := by
  obtain ⟨bs, hb⟩ := keepPoison_eq (s.unmapped p) p
  refine ⟨bs, State.packing { s.unmapped p with beats := bs } p, ?_,
    packing_raw (s := { s.unmapped p with beats := bs })⟩
  rw [State.demote, hb]
  rfl

theorem demotionComplete_clause {s : State} {p : Nat} {tier : BitVec 2} (hd : (s.page p).demoting = some tier) :
    (s.finishable p = false → exec (.demotionComplete p) s = .next s)
    ∧ (s.finishable p = true → ∃ t m n, exec (.demotionComplete p) s = .next t ∧ t.mem = s.mem
      ∧ t.page p = { s.page p with tier := some tier, demoting := none, method := m, stored := n }
      ∧ ((s.page p).comp = 0 ∨ s.compressing (p / 2 ^ 32) = false → m = 0 ∧ n = 65536)
      ∧ (∀ k, ∀ e ∈ (t.core k).ucache, State.resolves e p = false)
      ∧ ∀ cl, ∀ e ∈ (t.cluster cl).cache, State.resolves e p = false) := by
  have he : exec (.demotionComplete p) s = .next (if s.finishable p then s.demote p tier else s) := by
    refine congrArg Host.Outcome.next ?_
    rw [State.finishDemotion, hd]
  refine ⟨fun h => by rw [he, if_neg (Bool.eq_false_iff.mp h)], fun h => ?_⟩
  rw [if_pos h] at he
  obtain ⟨bs, z, hz, hraw⟩ := demote_eq s p tier
  rw [hz] at he
  exact ⟨_, z.1, z.2, he, rfl, State.page_setPage_self .., fun hc => Prod.ext_iff.mp (hraw hc),
    purge_ucache s (fun _ => true) fun e => State.resolves e p,
    purge_cache s (fun _ => true) fun e => State.resolves e p⟩

end Sys2Proof.Machine
end

section
namespace Sys2Proof.Machine

/-! ## Page-ins (R33, R42 to R44) -/

theorem setPage_setPage (s : State) (p : Nat) (x y : Page) : (s.setPage p x).setPage p y = s.setPage p y := by
  simp [State.setPage]

/-- Resident flags posted: one post for each, and nothing else but the numbers drawn. -/
theorem foldl_postResident (st : Nat) (l : List (Nat × Nat × Nat × BitVec 4)) (s : State) : ∃ n ps,
    l.foldl (fun s f => s.postResident st f) s = { s with fresh := n, posts := ps }
      ∧ ps.length = s.posts.length + l.length := by
  induction l generalizing s with
  | nil => exact ⟨s.fresh, s.posts, rfl, rfl⟩
  | cons f r ih =>
    obtain ⟨n, ps, h, hl⟩ := ih (s.postResident st f)
    refine ⟨n, ps, h, hl.trans ?_⟩
    simp only [State.postResident, State.sendPost, List.length_append, List.length_cons, List.length_nil]
    omega

theorem pageEnded_setPage (s : State) (p : Nat) (x : Page) : (s.setPage p x).pageEnded p
    = s.setPage p { x with incoming := false, flags := [], waiters := [], cmds := [] } := by
  rw [State.pageEnded, State.page_setPage_self, setPage_setPage]

/-- A page that has arrived is held, and holds no request. -/
theorem pageArrived_eq (s : State) (p : Nat) : ∃ n ps, s.pageArrived p = { (s.unmapped p).setPage p { s.page p with
    tier := some 0, hold := true, since := s.now, lru := s.fresh, incoming := false, flags := [], waiters := [],
    cmds := [] } with fresh := n, posts := ps } := by
  unfold State.pageArrived
  dsimp only
  rw [pageEnded_setPage]
  obtain ⟨n, ps, h, -⟩ := foldl_postResident stOk _ _
  exact ⟨n, ps, h⟩

/-- The beats that the lower tier reports as poisoned are poisoned. -/
theorem mem_foldl_insertBeat (f : Nat → Bool) (g : Nat → Nat) (l : List Nat) (bs : List Nat) (b : Nat) :
    b ∈ l.foldl (fun l i => if f i then insertBeat (g i) l else l) bs ↔ (∃ i ∈ l, f i = true ∧ g i = b) ∨ b ∈ bs := by
  induction l generalizing bs with
  | nil => simp
  | cons i r ih =>
    rw [List.foldl_cons, ih]
    by_cases h : f i = true
    · simp only [h, if_pos, mem_insertBeat, List.exists_mem_cons_iff, true_and]
      rw [eq_comm (a := b), ← or_assoc, or_comm (a := g i = b)]
    · simp [h]

theorem cxlRead_eq (s : State) (p : Nat) (bad : BitVec 1024) : ∃ bs, s.cxlRead p bad = { s with beats := bs }
    ∧ ((s.page p).tier = some 2 → ∀ i < 1024, bad.getLsbD i = true → p * 1024 + i ∈ bs) := by
  unfold State.cxlRead
  split
  · refine ⟨_, rfl, fun _ i hi hb => ?_⟩
    exact (mem_foldl_insertBeat ..).mpr (.inl ⟨i, List.mem_range.mpr hi, hb, rfl⟩)
  · rename_i h
    exact ⟨s.beats, rfl, fun h' => absurd h' h⟩

section
variable {s : State} {p : Nat} {tier : BitVec 2} (hw : s.pageUnderWay p = true) (ht : (s.page p).tier = some tier)
  (h0 : tier ≠ 0)
include ht h0

theorem not_resident : ¬((s.page p).tier.isNone || (s.page p).tier == some 0) = true := by
  rw [ht]
  simpa using h0

include hw

/-- The lower tier fails to give a page (R42). -/
theorem endPageIn_failed (bad : BitVec 1024) : s.endPageIn p false bad = s.pageLost p stFailed := by
  unfold State.endPageIn
  exact (if_neg (by simp [hw])).trans ((if_neg (not_resident ht h0)).trans (if_pos rfl))

/-- A page that a lower tier gives takes a free frame (R44). -/
theorem endPageIn_given (bad : BitVec 1024) (hf : s.frameFree (p / 2 ^ 32) = true) : s.endPageIn p true bad
    = ((s.cxlRead p bad).setPage p { s.page p with frame := s.nextFrame p }).pageArrived p := by
  have hm : s.makeFrame (p / 2 ^ 32) = some s := if_pos hf
  unfold State.endPageIn
  refine (if_neg (by simp [hw])).trans ((if_neg (not_resident ht h0)).trans ((if_neg Bool.false_ne_true).trans ?_))
  simp only [hm]

end

theorem pageIn_arrives {s : State} {p : Nat} {tier : BitVec 2} (bad : BitVec 1024) (hw : s.pageUnderWay p = true)
    (ht : (s.page p).tier = some tier) (h0 : tier ≠ 0) (hf : s.frameFree (p / 2 ^ 32) = true) :
    ∃ t, exec (.pageInComplete p (some bad)) s = .next t ∧ t.mem = s.mem
      ∧ (t.page p).tier = some 0 ∧ (t.page p).hold = true ∧ (t.page p).since = s.now ∧ (t.page p).incoming = false
      ∧ (t.page p).flags = [] ∧ (t.page p).waiters = [] ∧ (t.page p).cmds = []
      ∧ ∀ i < 1024, tier = 2 → bad.getLsbD i = true → t.badBeat (p * 65536 + 64 * i) = true := by
  obtain ⟨bs, hb, hbad⟩ := cxlRead_eq s p bad
  have he : exec (.pageInComplete p (some bad)) s = .next ((State.setPage { s with beats := bs } p
      { s.page p with frame := s.nextFrame p }).pageArrived p) := by
    rw [← hb]
    exact congrArg Host.Outcome.next (endPageIn_given hw ht h0 bad hf)
  obtain ⟨n, ps, ha⟩ := pageArrived_eq
    (State.setPage { s with beats := bs } p { s.page p with frame := s.nextFrame p }) p
  rw [ha] at he
  have hp : ∀ (u : State) (x : Page) (q : List Post), State.page { u.setPage p x with fresh := n, posts := q } p = x :=
    fun u x _ => State.page_setPage_self u p x
  refine ⟨_, he, rfl, ?_⟩
  rw [hp]
  refine ⟨rfl, rfl, rfl, rfl, rfl, rfl, rfl, fun i hi h2 hx => ?_⟩
  have hm : p * 1024 + i ∈ bs := hbad (h2 ▸ ht) i hi hx
  have hd : (p * 65536 + 64 * i) / 64 = p * 1024 + i := by omega
  rw [State.badBeat, hd]
  exact Bool.or_eq_true_iff.mpr (.inl (List.contains_iff_mem.mpr hm))

end Sys2Proof.Machine
end

section
namespace Sys2Proof.Machine

/-! ## What the loss of a page leaves (R42) -/

/-- Memory, pages and posts are as they were, and so is what each core knows of a page it waited for. -/
structure PagesKept (s t : State) : Prop where
  mem : t.mem = s.mem
  pages : t.pages = s.pages
  posts : t.posts = s.posts
  fault : ∀ k, (t.core k).pageFault = (s.core k).pageFault

namespace PagesKept

variable {s t u : State}

theorem self (s : State) : PagesKept s s := ⟨rfl, rfl, rfl, fun _ => rfl⟩

theorem of_same (h : PagesKept s t) (hm : u.mem = t.mem := by rfl) (hp : u.pages = t.pages := by rfl)
    (hq : u.posts = t.posts := by rfl) (hc : u.cores = t.cores := by rfl) : PagesKept s u :=
  ⟨hm.trans h.mem, hp.trans h.pages, hq.trans h.posts, fun k => by rw [← h.fault k, State.core, State.core, hc]⟩

theorem foldl {α : Type} (f : State → α → State) (hf : ∀ {u : State} (x : α), PagesKept s u → PagesKept s (f u x))
    (l : List α) (h : PagesKept s t) : PagesKept s (l.foldl f t) := by
  induction l generalizing t with
  | nil => exact h
  | cons x r ih => exact ih (hf x h)

theorem setCore (h : PagesKept s t) {k : Nat} {c : Core} (hc : c.pageFault = (t.core k).pageFault) :
    PagesKept s (t.setCore k c) := by
  refine ⟨h.mem, h.pages, h.posts, fun j => ?_⟩
  rw [← h.fault j]
  by_cases e : j = k
  · rw [e, State.core_setCore_self, hc]
  · rw [State.core_setCore_ne _ _ e]

theorem mapCmds (h : PagesKept s t) (f : Cmd → Cmd) : PagesKept s (t.mapCmds f) :=
  ⟨h.mem, h.pages, h.posts, fun k => (core_mapCmds Core.pageFault (fun _ _ => rfl) t f k).trans (h.fault k)⟩

theorem pendKernel (h : PagesKept s t) (p k : Nat) (x : Cause) : PagesKept s (t.pendKernel p k x) := by
  unfold State.pendKernel
  dsimp only
  split
  · unfold State.setCoreOf State.coreOf
    split
    · exact h.of_same
    · exact h.setCore rfl
  · exact h.of_same

theorem ringLost (h : PagesKept s t) (n st va : Nat) : PagesKept s (t.ringLost n st va) := by
  unfold State.ringLost
  split
  · exact h.pendKernel _ _ _
  · exact h

theorem walkFailed (h : PagesKept s t) (w : Walk) (kind : Nat) : PagesKept s (t.walkFailed w kind) := by
  have hw : PagesKept s { t with walks := t.walks.filter fun y => y.id != w.id } := h.of_same
  unfold State.walkFailed
  dsimp only
  split
  · exact hw.mapCmds _
  · split
    · exact hw.setCore rfl
    · exact hw
  · split
    · exact hw.ringLost _ _ _
    · exact hw
  · exact hw.of_same

theorem seekerLost (h : PagesKept s t) (p st : Nat) (x : Seeker × W64) : PagesKept s (t.seekerLost p st x) := by
  unfold State.seekerLost
  split
  · exact h.ringLost _ _ _
  · exact h.of_same
  · exact h

end PagesKept

/-- The cores that waited for a page are told of its loss, and nothing else changes. -/
theorem foldl_pageFault (x : Option (Nat × BitVec 4)) (l : List Nat) (s : State) :
    ∃ cs, l.foldl (fun s k => s.setCore k { s.core k with pageFault := x }) s = { s with cores := cs }
      ∧ ∀ k, k ∈ l ∨ (s.core k).pageFault = x → (State.core { s with cores := cs } k).pageFault = x := by
  induction l generalizing s with
  | nil => exact ⟨s.cores, rfl, fun k h => h.resolve_left (by simp)⟩
  | cons j r ih =>
    obtain ⟨cs, h, hx⟩ := ih (s.setCore j { s.core j with pageFault := x })
    refine ⟨cs, h, fun k hk => hx k ?_⟩
    by_cases e : k = j
    · subst e
      exact .inr (by rw [State.core_setCore_self])
    · rw [State.core_setCore_ne _ _ e]
      exact hk.imp_left fun hm => (List.mem_cons.mp hm).resolve_left e

/-- A page without its requests, and the other pages without the resident flags that were posted for them. -/
def State.requestsDropped (s : State) (p : Nat) : State := { s.pageEnded p with
  pages := (s.pageEnded p).pages.map fun (x : Nat × Page) =>
    (x.1, { x.2 with flags := x.2.flags.filter fun f => !(s.page p).flags.any fun y => y.1 == f.1 }) }

theorem requestsDropped_page (s : State) (p : Nat) : ((s.requestsDropped p).page p).tier = (s.page p).tier
    ∧ ((s.requestsDropped p).page p).incoming = false := by
  simp [State.requestsDropped, State.page, Table.look_map_val, State.pageEnded, State.setPage]

/-- A page is lost in three parts: its flags are posted, its waiting cores are told, and then its walks and commands. -/
theorem pageLost_kept (s : State) (p st : Nat) : ∃ n ps cs,
    let u : State := { s.requestsDropped p with fresh := n, posts := ps, cores := cs }
    PagesKept u (s.pageLost p st) ∧ ps.length = s.posts.length + (s.page p).flags.length
      ∧ ∀ k ∈ (s.page p).waiters, (u.core k).pageFault = some (p, BitVec.ofNat 4 st) := by
  obtain ⟨n, ps, hpost, hlen⟩ := foldl_postResident st (s.page p).flags (s.requestsDropped p)
  obtain ⟨cs, hw, hfault⟩ := foldl_pageFault (some (p, BitVec.ofNat 4 st)) (s.page p).waiters
    { s.requestsDropped p with fresh := n, posts := ps }
  refine ⟨n, ps, cs, ?_, hlen, fun k hk => hfault k (.inl hk)⟩
  refine PagesKept.mapCmds (PagesKept.foldl _ (fun x hu => hu.seekerLost p st x) _
    (PagesKept.foldl _ (fun w hu => hu.walkFailed w (kTier + st)) _ ?_)) _
  rw [← hw, ← hpost]
  exact PagesKept.self _

theorem pageIn_fails {s : State} {p : Nat} {tier : BitVec 2} (hw : s.pageUnderWay p = true)
    (ht : (s.page p).tier = some tier) (h0 : tier ≠ 0) :
    ∃ t, exec (.pageInComplete p none) s = .next t ∧ t.mem = s.mem ∧ (t.page p).tier = some tier
      ∧ (t.page p).incoming = false ∧ t.posts.length = s.posts.length + (s.page p).flags.length
      ∧ ∀ k ∈ (s.page p).waiters, (t.core k).pageFault = some (p, 3) := by
  obtain ⟨n, ps, cs, hk, hlen, hfault⟩ := pageLost_kept s p stFailed
  obtain ⟨htier, hin⟩ := requestsDropped_page s p
  have hp : (s.pageLost p stFailed).page p = (s.requestsDropped p).page p := by
    rw [State.page, hk.pages]
    rfl
  refine ⟨_, congrArg Host.Outcome.next (endPageIn_failed hw ht h0 0), hk.mem, ?_, ?_, ?_, fun k hw => ?_⟩
  · exact (congrArg Page.tier hp).trans (htier.trans ht)
  · exact (congrArg Page.incoming hp).trans hin
  · exact (congrArg List.length hk.posts).trans hlen
  · exact (hk.fault k).trans (hfault k hw)

/-! ## Residency holds (R44) -/

theorem residencyHold_clause {s : State} {p : Nat} (h : (s.page p).hold = true) :
    (64000 ≤ s.passed (s.page p).since →
      exec (.residencyHoldExpire p) s = .next (s.setPage p { s.page p with hold := false }))
    ∧ (s.passed (s.page p).since < 64000 → exec (.residencyHoldExpire p) s = .next s) :=
  ⟨fun ht => congrArg Host.Outcome.next (if_pos (by simp [h, ht])),
    fun ht => congrArg Host.Outcome.next (if_neg (by simp [ht]))⟩

end Sys2Proof.Machine
end

section
namespace Sys2Proof.Machine

/-! ## Uses of the tables that a walk reads (R39, R61) -/

/-- Pages have been used: only the numbers drawn and the order of use of pages differ. -/
structure UsesOnly (s t : State) : Prop where
  frame : t = { s with fresh := t.fresh, pages := t.pages }
  pages : ∀ p, (t.page p).tier = (s.page p).tier ∧ (t.page p).frame = (s.page p).frame

namespace UsesOnly

variable {s t : State}

theorem use (h : UsesOnly s t) (p : Nat) : UsesOnly s (t.use p) := by
  unfold State.use
  split
  · exact h
  · refine ⟨?_, fun q => ?_⟩
    · rw [h.frame]
      rfl
    · rw [← (h.pages q).1, ← (h.pages q).2]
      by_cases e : q = p
      · rw [e, State.page_setPage_self]
        exact ⟨rfl, rfl⟩
      · rw [State.page_setPage_ne _ _ e]
        exact ⟨rfl, rfl⟩

theorem useTables (s : State) (part : Nat) (ctx : BitVec 12) (va : Nat) : UsesOnly s (s.useTables part ctx va) := by
  unfold State.useTables
  generalize List.eraseDups (α := Nat) _ = l
  have h : UsesOnly s s := ⟨rfl, fun _ => ⟨rfl, rfl⟩⟩
  suffices ∀ t, UsesOnly s t → UsesOnly s (l.foldl State.use t) from this s h
  induction l with
  | nil => exact fun _ h => h
  | cons p r ih => exact fun t h => ih _ (h.use p)

variable (h : UsesOnly s t)
include h

theorem mem : t.mem = s.mem := by rw [h.frame]

theorem walks : t.walks = s.walks := by rw [h.frame]

theorem badBeat (a : Nat) : t.badBeat a = s.badBeat a := by
  have hr : t.dramRow a = s.dramRow a := by
    rw [State.dramRow, (h.pages _).1, (h.pages _).2]
    rfl
  have hf : t.fencedRow a = s.fencedRow a := by
    rw [State.fencedRow, hr, h.frame]
    rfl
  rw [State.badBeat, hf, h.frame]
  rfl

theorem mem64 (a : Nat) : t.mem64 a = s.mem64 a := by rw [State.mem64, h.mem]; rfl

theorem context (part : Nat) (ctx : BitVec 12) : t.context part ctx = s.context part ctx := by
  rw [h.frame]
  rfl

theorem badDescriptor (part : Nat) (ctx : BitVec 12) : t.badDescriptor part ctx = s.badDescriptor part ctx := by
  have hd : t.descriptor part ctx = s.descriptor part ctx := by
    rw [h.frame]
    rfl
  rw [State.badDescriptor, hd, State.badDescriptor, funext h.badBeat]

theorem pageWalk (part : Nat) (ctx : BitVec 12) (ns : Bool) (va table : Nat) (ls : List (Nat × Nat)) :
    pageWalk t part ctx ns va table ls = Machine.pageWalk s part ctx ns va table ls := by
  induction ls generalizing table with
  | nil => rfl
  | cons l r ih =>
    obtain ⟨lo, k⟩ := l
    simp only [Machine.pageWalk, h.mem64, h.badBeat, ih]

theorem rangeWalk (base part : Nat) (ctx : BitVec 12) (ns : Bool) (va : Nat) (pages : Except Nat XEntry) (i n : Nat) :
    rangeWalk t base part ctx ns va pages i n = Machine.rangeWalk s base part ctx ns va pages i n := by
  induction n generalizing i with
  | zero => rfl
  | succ n ih => simp only [Machine.rangeWalk, h.mem64, h.badBeat, ih]

/-- The walk finds the same. -/
theorem walk (part : Nat) (ctx : BitVec 12) (va : Nat) : t.walk part ctx va = s.walk part ctx va := by
  simp only [State.walk, h.context, h.badDescriptor, h.pageWalk, h.rangeWalk]

end UsesOnly

/-! ## Kinds of faults of a walk (R58, R61) -/

/-- A fault of a walk is none of those that the loss of a page of a table stands for. -/
def Walked (x : Except Nat XEntry) : Prop := ∀ n, x = .error n → n < kTier

namespace Walked

theorem ok (e : XEntry) : Walked (.ok e) := fun _ h => nomatch h

theorem error {n : Nat} (h : n < kTier) : Walked (.error n) := fun _ e => Except.error.inj e ▸ h

theorem ite {c : Prop} [Decidable c] {x y : Except Nat XEntry} (hx : Walked x) (hy : Walked y) :
    Walked (if c then x else y) := by
  split
  · exact hx
  · exact hy

theorem map {x : Except Nat XEntry} (h : Walked x) (f : XEntry → XEntry) : Walked (x.map f) := by
  intro n e
  cases x with
  | ok _ => exact nomatch e
  | error m => exact h n e

theorem pageWalk (s : State) (part : Nat) (ctx : BitVec 12) (ns : Bool) (va table : Nat) (ls : List (Nat × Nat)) :
    Walked (pageWalk s part ctx ns va table ls) := by
  induction ls generalizing table with
  | nil => exact error (by decide)
  | cons l r ih =>
    obtain ⟨lo, k⟩ := l
    unfold Machine.pageWalk
    exact ite (error (by decide)) (ite (error (by decide)) (ite (error (by decide))
      (ite (ite (error (by decide)) (ok _)) (ite (error (by decide)) (ih _)))))

theorem rangeWalk (s : State) (base part : Nat) (ctx : BitVec 12) (ns : Bool) (va : Nat) {pages : Except Nat XEntry}
    (hp : Walked pages) (i n : Nat) : Walked (rangeWalk s base part ctx ns va pages i n) := by
  induction n generalizing i with
  | zero => exact hp
  | succ n ih =>
    unfold Machine.rangeWalk
    exact ite (error (by decide)) (ite (ih _) (ite (error (by decide)) (ite (ok _) ((ih _).map _))))

theorem walk (s : State) (part : Nat) (ctx : BitVec 12) (va : Nat) : Walked (s.walk part ctx va) := by
  unfold State.walk
  split
  · split
    · exact error (by decide)
    · exact error (by decide)
  · exact ite (error (by decide)) (ite (error (by decide))
      (rangeWalk _ _ _ _ _ _ (ite (pageWalk _ _ _ _ _ _ _) (error (by decide))) _ _))

end Walked

/-! ## Walks that end (R60, R61) -/

/-- The walks that have ended are gone, each by its number. -/
theorem foldl_walks {f : State → Walk → State}
    (hf : ∀ u x, (f u x).walks = u.walks.filter fun y => y.id != x.id) (l : List Walk) (s : State) :
    (l.foldl f s).walks = s.walks.filter fun y => l.all fun x => y.id != x.id := by
  induction l generalizing s with
  | nil => simp
  | cons x r ih =>
    rw [List.foldl_cons, ih, hf, List.filter_filter]
    simp only [List.all_cons, Bool.and_comm]

theorem walkFound_walks (e : XEntry) (u : State) (x : Walk) :
    (u.walkFound x e).walks = u.walks.filter fun y => y.id != x.id := by
  unfold State.walkFound
  dsimp only
  split
  · rfl
  · rfl
  · rfl

theorem pendKernel_walks (s : State) (p k : Nat) (x : Cause) : (s.pendKernel p k x).walks = s.walks := by
  unfold State.pendKernel State.setCoreOf
  dsimp only
  split
  · split
    · rfl
    · rfl
  · rfl

theorem ringLost_walks (s : State) (n st va : Nat) : (s.ringLost n st va).walks = s.walks := by
  unfold State.ringLost
  split
  · exact pendKernel_walks ..
  · rfl

theorem walkFailed_walks (kind : Nat) (u : State) (x : Walk) :
    (u.walkFailed x kind).walks = u.walks.filter fun y => y.id != x.id := by
  unfold State.walkFailed
  dsimp only
  split
  · rfl
  · split
    · rfl
    · rfl
  · split
    · exact ringLost_walks ..
    · rfl
  · rfl

/-! ### A walk that finds an entry -/

theorem install_head (s : State) (j k : Nat) (e : XEntry) (h : k = j ∨ (s.core k).ucache.head? = some e) :
    ((s.install j e).core k).ucache.head? = some e := by
  rw [State.install, State.installShared, State.core_setCluster]
  by_cases hk : k = j
  · rw [hk, State.core_setCore_self]
    rfl
  · rw [State.core_setCore_ne _ _ hk]
    exact h.resolve_left hk

/-- The core of a walk that finds an entry has it, and so has every core that had it. -/
theorem walkFound_head (e : XEntry) (u : State) (x : Walk) (k : Nat)
    (h : (k = x.core ∧ ∀ cl, x.who ≠ .orrery cl) ∨ (u.core k).ucache.head? = some e) :
    ((u.walkFound x e).core k).ucache.head? = some e := by
  have hi : ∀ v : State, v.cores = u.cores → ((v.install x.core e).core k).ucache.head? = some e := fun v hv =>
    install_head v x.core k e (h.imp And.left fun hh => by rwa [State.core, hv])
  unfold State.walkFound
  dsimp only
  split
  · exact (core_mapCmds (fun c => c.ucache.head?) (fun _ _ => rfl) _ _ k).trans (hi _ rfl)
  · rename_i cl hw
    exact h.resolve_left fun hx => hx.2 cl hw
  · exact hi _ rfl

theorem foldl_walkFound_head (e : XEntry) (l : List Walk) (s : State) {k : Nat}
    (h : (∃ x ∈ l, k = x.core ∧ ∀ cl, x.who ≠ .orrery cl) ∨ (s.core k).ucache.head? = some e) :
    ((l.foldl (fun s x => s.walkFound x e) s).core k).ucache.head? = some e := by
  induction l generalizing s with
  | nil => exact h.resolve_left (by simp)
  | cons x r ih =>
    refine ih _ ?_
    rw [List.exists_mem_cons_iff, or_assoc] at h
    rcases h with hx | hr | hs
    · exact .inr (walkFound_head e s x k (.inl hx))
    · exact .inl hr
    · exact .inr (walkFound_head e s x k (.inr hs))

/-! ### A walk that ends in a fault -/

/-- The cores' blocks, and the partitions that are resident on them, are as they were. -/
structure BlocksKept (s t : State) : Prop where
  blk : ∀ k, (t.core k).blk = (s.core k).blk
  owner : ∀ k, t.owner k = s.owner k

namespace BlocksKept

variable {s t : State}

theorem partOf (h : BlocksKept s t) (k : Nat) : t.partOf k = s.partOf k := by
  rw [State.partOf, h.blk, h.owner]
  rfl

theorem ctx (h : BlocksKept s t) (k : Nat) : (t.core k).ctx = (s.core k).ctx := by
  rw [Core.ctx, h.blk]
  rfl

theorem mapCmds (h : BlocksKept s t) (f : Cmd → Cmd) : BlocksKept s (t.mapCmds f) := by
  refine ⟨fun k => (core_mapCmds Core.blk (fun _ _ => rfl) t f k).trans (h.blk k), fun k => ?_⟩
  rw [← h.owner k, State.owner, State.mapCmds, List.find?_map, Option.map_map]
  rfl

theorem setCore (h : BlocksKept s t) {k : Nat} {c : Core} (hc : c.blk = (t.core k).blk) :
    BlocksKept s (t.setCore k c) := by
  refine ⟨fun j => ?_, h.owner⟩
  rw [← h.blk j]
  by_cases e : j = k
  · rw [e, State.core_setCore_self, hc]
  · rw [State.core_setCore_ne _ _ e]

end BlocksKept

theorem UsesOnly.blocks {s t : State} (h : UsesOnly s t) : BlocksKept s t := by
  rw [h.frame]
  exact ⟨fun _ => rfl, fun _ => rfl⟩

section
variable {kind : Nat} (hk : kind < kTier) (u : State) (x : Walk)
include hk

theorem walkFailed_blocks : BlocksKept u (u.walkFailed x kind) := by
  have hw : BlocksKept u { u with walks := u.walks.filter fun y => y.id != x.id } := ⟨fun _ => rfl, fun _ => rfl⟩
  unfold State.walkFailed
  dsimp only
  split
  · exact hw.mapCmds _
  · split
    · exact hw.setCore rfl
    · exact hw
  · rw [if_neg (Nat.not_le.mpr hk)]
    exact hw
  · exact ⟨hw.blk, hw.owner⟩

/-- A fault of a walk is that of the group which waits for it, and of every group that had it. -/
theorem walkFailed_fault {k g : Nat} (hg : x.granule = g)
    (h : (x.core = k ∧ x.who = .group ∧ u.partOf k = x.part ∧ (u.core k).ctx = x.ctx)
      ∨ (u.core k).walkFault = some (g, BitVec.ofNat 8 kind)) :
    ((u.walkFailed x kind).core k).walkFault = some (g, BitVec.ofNat 8 kind) := by
  subst hg
  unfold State.walkFailed
  dsimp only
  split
  · rename_i hw
    refine (core_mapCmds Core.walkFault (fun _ _ => rfl) _ _ k).trans ?_
    exact h.resolve_left (by simp [hw])
  · by_cases e : k = x.core
    · subst e
      split
      · rw [State.core_setCore_self]
      · rename_i hn
        exact h.resolve_left fun hx => hn (by simpa using ⟨hx.2.2.1, hx.2.2.2⟩)
    · have hs := h.resolve_left fun hx => e hx.1.symm
      split
      · rw [State.core_setCore_ne _ _ e]
        exact hs
      · exact hs
  · rename_i hw
    rw [if_neg (Nat.not_le.mpr hk)]
    exact h.resolve_left (by simp [hw])
  · rename_i hw
    exact h.resolve_left (by simp [hw])

theorem foldl_walkFailed_fault {w : Walk} (l : List Walk) (hl : ∀ x ∈ l, x.granule = w.granule) (s : State)
    (hw : w.who = .group) (hp : s.partOf w.core = w.part) (hc : (s.core w.core).ctx = w.ctx)
    (h : w ∈ l ∨ (s.core w.core).walkFault = some (w.granule, BitVec.ofNat 8 kind)) :
    ((l.foldl (fun s x => s.walkFailed x kind) s).core w.core).walkFault = some (w.granule, BitVec.ofNat 8 kind) := by
  induction l generalizing s with
  | nil => exact h.resolve_left (by simp)
  | cons x r ih =>
    obtain ⟨hx, hr⟩ := List.forall_mem_cons.mp hl
    have hb := walkFailed_blocks hk s x
    have hf := walkFailed_fault hk s x (k := w.core) hx
    refine ih hr _ ((hb.partOf _).trans hp) ((hb.ctx _).trans hc) ?_
    rw [List.mem_cons, or_assoc] at h
    rcases h with rfl | hm | hs
    · exact .inr (hf (.inl ⟨rfl, hw, hp, hc⟩))
    · exact .inl hm
    · exact .inr (hf (.inr hs))

end

/-! ### The statement's clause -/

section
variable {s : State} {id : Nat} {w : Walk} (hw : (s.walks.find? fun x => x.id == id) = some w)
  (hc : (s.walking w.cluster).contains (w.part, w.ctx, w.granule) = true)
  (ha : s.walkAbsent w.part w.ctx (w.granule * 65536) = none)
include hw hc ha

/-- A walk whose tables are at hand installs the entry that it finds for every miss that it covers. -/
theorem endWalk_ok {e : XEntry} (he : s.walk w.part w.ctx (w.granule * 65536) = .ok e) : s.endWalk id =
    (s.walks.filter fun x => x.cluster == w.cluster && e.covers x.part x.ctx (x.granule * 65536)).foldl
      (fun s x => s.walkFound x e) (s.useTables w.part w.ctx (w.granule * 65536)) := by
  have hu := UsesOnly.useTables s w.part w.ctx (w.granule * 65536)
  unfold State.endWalk
  simp only [hw, hc, ha, hu.walk, he, hu.walks, Bool.not_true, Bool.false_eq_true, if_false]

/-- Its fault is that of every miss of its granule. -/
theorem endWalk_error {n : Nat} (he : s.walk w.part w.ctx (w.granule * 65536) = .error n) : s.endWalk id =
    (s.walks.filter fun x => x.cluster == w.cluster && x.part == w.part && x.ctx == w.ctx
      && x.granule == w.granule).foldl (fun s x => s.walkFailed x n) (s.useTables w.part w.ctx (w.granule * 65536)) := by
  have hu := UsesOnly.useTables s w.part w.ctx (w.granule * 65536)
  unfold State.endWalk
  simp only [hw, hc, ha, hu.walk, he, hu.walks, Bool.not_true, Bool.false_eq_true, if_false]

theorem translationWalk_clause :
    let without := fun (hit : Walk → Bool) => s.walks.filter fun x => (s.walks.filter hit).all fun y => x.id != y.id
    (∀ e, s.walk w.part w.ctx (w.granule * 65536) = .ok e →
      let hit := fun (x : Walk) => x.cluster == w.cluster && e.covers x.part x.ctx (x.granule * 65536)
      ∃ t, exec (.translationWalk id) s = .next t ∧ t.walks = without hit
        ∧ ∀ x ∈ s.walks, hit x = true → (∀ cl, x.who ≠ .orrery cl) → (t.core x.core).ucache.head? = some e)
    ∧ ∀ n, s.walk w.part w.ctx (w.granule * 65536) = .error n → ∃ t, exec (.translationWalk id) s = .next t
      ∧ t.walks = without (fun x => x.cluster == w.cluster && x.part == w.part && x.ctx == w.ctx
        && x.granule == w.granule)
      ∧ (w.who = .group → s.partOf w.core = w.part → (s.core w.core).ctx = w.ctx →
        (t.core w.core).walkFault = some (w.granule, BitVec.ofNat 8 n)) := by
  intro without
  have hu := UsesOnly.useTables s w.part w.ctx (w.granule * 65536)
  refine ⟨fun e he => ⟨_, congrArg Host.Outcome.next (endWalk_ok hw hc ha he), ?_, fun x hx hh ho => ?_⟩,
    fun n he => ⟨_, congrArg Host.Outcome.next (endWalk_error hw hc ha he), ?_, fun hg hp hx => ?_⟩⟩
  · exact (foldl_walks (walkFound_walks e) _ _).trans (by rw [hu.walks])
  · exact foldl_walkFound_head e _ _ (.inl ⟨x, List.mem_filter.mpr ⟨hx, hh⟩, rfl, ho⟩)
  · exact (foldl_walks (walkFailed_walks n) _ _).trans (by rw [hu.walks])
  · have hb := hu.blocks
    refine foldl_walkFailed_fault (Walked.walk s _ _ _ n he) _ (fun x hx => ?_) _ hg ((hb.partOf _).trans hp)
      ((hb.ctx _).trans hx) (.inl ?_)
    · simpa using (Bool.and_eq_true_iff.mp (List.mem_filter.mp hx).2).2
    · exact List.mem_filter.mpr ⟨List.mem_of_find?_eq_some hw, by simp⟩

end

/-- Settles O54: each event of the base die, of the tier engine and of the translation unit, by the lemma that says what
it leaves. -/
theorem memoryAndTierEvents : Obligations.MemoryAndTierEvents := by
  unfold Obligations.MemoryAndTierEvents
  refine ⟨⟨fun s src dst len pat hl hs hd => ⟨rowcopy_clause hl hs hd, rowinit_clause pat hl hs hd⟩,
      fun s k n row => ⟨fun kind => packetDiscard_clause s k, activate_counts s k n row, fun hf hc hr =>
        ⟨activate_repairs s k n row hf hc hr, activate_fences s k n row hf hc hr, activate_retires s k n row hf hc⟩,
        rfl, rfl⟩⟩,
    fun s ch p => ⟨tierDemote_starts, fun ht h0 => ⟨fun f => tierDemote_moves ht h0, tierDemote_waits ht⟩⟩,
    fun s p tier => demotionComplete_clause,
    fun s p tier bad hw ht h0 => ⟨pageIn_arrives bad hw ht h0, pageIn_fails hw ht h0⟩,
    fun s p => residencyHold_clause, fun s id w => translationWalk_clause⟩

end Sys2Proof.Machine
end

section
namespace Sys2Proof.Machine

/-! ## Reads of the control registers and of time (R245, R247) -/

/-- Each control register of a core reads as its field of the register file that the group views. -/
theorem readCsr_controls (s : State) : ∀ p ∈ controls, readCsr s p.1.toNat = p.2.1 s.me.view := by
  intro p hp
  fin_cases hp
  all_goals rfl

theorem scalarReady_none {s : State} {sl : Lane} {d : BitVec 6} (hd : s.definable sl d) : scalarReady s sl d [] = true :=
  (scalarReady_iff ..).mpr ⟨nofun, hd⟩

section
variable {s : State} {g : Guard} {d : BitVec 6} (hg : s.me.guarded g = true) (hd : s.definable .A d)
include hg hd

/-- `rdsr` of a register that its core may read. -/
theorem rdsr_exec {n : BitVec 14} (hn : csrs.contains n.toNat = true)
    (hp : csrPrivileged n.toNat = true → s.me.kernel = true) :
    exec (.rdsr g d n) s = .next (s.setMe (s.me.result .A d (known (readCsr s n.toNat)))) := by
  refine runSlot_ok hg ?_
  unfold readControl
  rw [if_neg (by rw [hn]; decide), if_neg (by simpa using hp), ready_ok.mpr (scalarReady_none hd)]
  rfl

theorem tread_exec : exec (.tread g d) s
    = .next (s.setMe (s.me.result .A d (known ((s.timeAt (chipOf s.here)).zeroExtend 64)))) := by
  refine runSlot_ok hg ?_
  rw [ready_ok.mpr (scalarReady_none hd)]
  rfl

end

/-- Settles O14: a read that R245 permits gives the register's value, of which TRAPINFO is that of the privilege in force
and CTXTAB the partition's. -/
theorem controlReads : Obligations.ControlReads := by
  unfold Obligations.ControlReads
  refine ⟨fun p hp s g d hg hd hk => ?_, fun s g d hg hd => tread_exec hg hd⟩
  obtain hp | hp := List.mem_append.mp hp
  · obtain ⟨c, hc, rfl⟩ := List.mem_map.mp hp
    obtain ⟨hn, hpriv, -⟩ := controls_csrs c hc
    rw [rdsr_exec hg hd hn fun h => hk.resolve_right fun h' => h'.1 (hpriv h), readCsr_controls s c hc]
  · obtain rfl | rfl := by simpa using hp
    · exact rdsr_exec hg hd (by decide) fun h => absurd h (by decide)
    · exact rdsr_exec hg hd (by decide) fun _ => hk.resolve_right fun h => h.2 rfl

end Sys2Proof.Machine
end

section
namespace Sys2Proof.Machine

/-! ## Window addresses (R46) -/

/-- The fields of the window address of an offset, each at its place. -/
theorem windowVA_fields {k off : Nat} (hk : isCore k = true) (ho : off < 2 ^ 20) :
    let x := BitVec.ofNat 64 (windowVA k off)
    x.toNat = windowVA k off ∧ windowVA k off < 2 ^ 57 ∧ 2 ^ 56 ≤ windowVA k off ∧ field x 0 20 = off
    ∧ field x 20 16 = 0 ∧ field x 36 1 = ofBool (isSextant k) ∧ field x 37 7 = coreNum k % 128
    ∧ field x 44 1 = clusterOf k % 2 ∧ field x 45 3 = dieOf k ∧ field x 48 8 = chipOf k := by
  simp only [isCore, Bool.and_eq_true, decide_eq_true_eq] at hk
  obtain ⟨⟨hchip, hdie⟩, hnum⟩ := hk
  have hcl : clusterOf k % 2 < 2 := Nat.mod_lt _ (by decide)
  have hsx : ofBool (isSextant k) < 2 := by
    cases isSextant k
    · exact Nat.two_pos
    · exact Nat.one_lt_two
  have hx : (BitVec.ofNat 64 (windowVA k off)).toNat = windowVA k off := by
    rw [BitVec.toNat_ofNat, Nat.mod_eq_of_lt]
    unfold windowVA
    omega
  simp only [field, bitsOf, hx]
  unfold windowVA
  generalize chipOf k = chip, dieOf k = die, coreNum k = num, clusterOf k % 2 = cl, ofBool (isSextant k) = sx at *
  refine ⟨trivial, ?_, ?_, ?_, ?_, ?_, ?_, ?_, ?_, ?_⟩
  all_goals omega

/-- The core whose window it is, by the fields [55:36]. -/
theorem coreNamed_windowVA {k off : Nat} (hk : isCore k = true) (ho : off < 2 ^ 20) :
    coreNamed (BitVec.ofNat 64 (windowVA k off)) = some k := by
  obtain ⟨-, -, -, -, -, hsx, hnum, hcl, hdie, hchip⟩ := windowVA_fields hk ho
  simp only [isCore, Bool.and_eq_true, decide_eq_true_eq] at hk
  obtain ⟨⟨-, hd4⟩, hn⟩ := hk
  have hat : ∀ n, n = coreNum k → coreAt (chipOf k * 16 + dieOf k * 2 + clusterOf k % 2) n = k := by
    rintro n rfl
    unfold coreAt coreNum dieOf chipOf dieOfCluster chipOfCluster clusterOf
    unfold dieOf dieOfCluster clusterOf at hd4
    omega
  simp only [coreNamed, hsx, hnum, hcl, hdie, hchip]
  by_cases h : 128 ≤ coreNum k
  · have hs : isSextant k = true := decide_eq_true h
    simp only [hs, ofBool, if_true, beq_self_eq_true, Bool.true_and]
    rw [if_neg (by simp only [Bool.or_eq_true, decide_eq_true_eq]; omega)]
    exact congrArg some (hat _ (by omega))
  · have hs : isSextant k = false := decide_eq_false h
    simp only [hs, ofBool, Bool.false_eq_true, if_false]
    rw [if_neg (by simp only [Bool.or_eq_true, Bool.and_eq_true, decide_eq_true_eq, beq_iff_eq]; omega)]
    exact congrArg some (hat _ (Nat.mod_eq_of_lt (by omega)))

/-! ## The own scratchpad through the window (R46, R66, R248) -/

/-- A run of bytes of a core's scratchpad passes the limits of the window. -/
theorem window_own {s : State} {k off n : Nat} (hk : isCore k = true) (hm : s.member (chipOf k) (chipOf k) = true)
    (hn : off + n ≤ spadBytes) (ho : off < 2 ^ 20) :
    s.window (chipOf k) (BitVec.ofNat 64 (windowVA k off)) n = some (k, off) := by
  obtain ⟨-, -, -, hoff, hmid, -⟩ := windowVA_fields hk ho
  rw [State.window, coreNamed_windowVA hk ho]
  dsimp only
  rw [hoff, hmid, hm, decide_eq_true hn]
  exact if_pos rfl

section
variable {s : State} (w : Site) {off : Nat} (need : Need) (hk : isCore s.here = true)
  (hm : s.member (chipOf s.here) (chipOf s.here) = true)
  (hw : (s.worldOf s.here && s.secureCluster (clusterOf s.here)) = false)
include hk hm hw

theorem reach_own {n : Nat} (hn : off + n ≤ spadBytes) (ho : off < 2 ^ 20) :
    s.reach s.here (BitVec.ofNat 64 (windowVA s.here off)) n need
      = .hit (.spad s.here off) spadAttr (s.worldOf s.here) := by
  obtain ⟨hx, hlt, hle, -⟩ := windowVA_fields hk ho
  unfold State.reach
  rw [hx, if_neg (Nat.not_le.mpr hlt), if_pos hle, window_own hk hm hn ho]
  simp only [hw, Bool.false_eq_true, if_false]

/-- A run of bytes of the own scratchpad is reached. -/
theorem reachOne_window {n : Nat} (h0 : 0 < n) (hn : off + n ≤ 0xC0000) :
    reachOne s w (BitVec.ofNat 64 (windowVA s.here off)) n need
      = .ok (.spad s.here off, spadAttr, s.worldOf s.here) := by
  rw [reachOne, reach_own need hk hm hw hn (by omega)]

/-- Byte by byte, each at its own offset. -/
theorem aimBytes_window (n : Nat) (hn : off + n ≤ 0xC0000) :
    ∃ a, aimBytes s w need (BitVec.ofNat 64 (windowVA s.here off)) n = .ok a
      ∧ a.targets = (List.range' off n).map (Target.spad s.here) := by
  induction n generalizing off with
  | zero => exact ⟨_, rfl, rfl⟩
  | succ n ih =>
    obtain ⟨a, ha, ht⟩ := ih (off := off + 1) (by omega)
    have hnext : BitVec.ofNat 64 (windowVA s.here off) + 1 = BitVec.ofNat 64 (windowVA s.here (off + 1)) :=
      (BitVec.ofNat_add ..).symm
    refine ⟨⟨.spad s.here off :: a.targets, spadAttr, s.worldOf s.here || a.ns,
      BitVec.ofNat 64 (windowVA s.here off)⟩, ?_, ?_⟩
    · rw [aimBytes, reachOne_window w need hk hm hw Nat.one_pos (by omega), hnext, ha]
      rfl
    · rw [ht]
      rfl

end

/-- Targets in the own scratchpad, the first of them named. -/
theorem own_of_spads (a : Aim) (here off n : Nat) (h : a.targets = (List.range' off (n + 1)).map (Target.spad here)) :
    a.own here = some off := by
  rw [Aim.own, h]
  exact if_pos ⟨rfl, by simp⟩

/-- The window address of an offset is as aligned as the offset. -/
theorem windowVA_mod {n : Nat} (k off : Nat) (hn : n = 1 ∨ n = 2 ∨ n = 4 ∨ n = 8 ∨ n = 16) :
    windowVA k off % n = off % n := by
  unfold windowVA
  rcases hn with rfl | rfl | rfl | rfl | rfl
  all_goals omega

/-- R46, R248: an access to the own scratchpad through the window. -/
theorem aim_window {s : State} (w : Site) {off n : Nat} (need : Need) (aligned : Bool) (hk : isCore s.here = true)
    (hm : s.member (chipOf s.here) (chipOf s.here) = true) (ho : off + n ≤ 0xC0000)
    (hn : n = 1 ∨ n = 2 ∨ n = 4 ∨ n = 8 ∨ n = 16)
    (hw : (s.worldOf s.here && s.secureCluster (clusterOf s.here)) = false)
    (ha : off % n = 0 ∨ aligned = false ∧ bit s.me.view.mactl 0 = false) :
    ∃ a, aim s w (BitVec.ofNat 64 (windowVA s.here off)) n need aligned = .ok a ∧ a.own s.here = some off := by
  have h0 : 0 < n := by omega
  obtain ⟨hx, -⟩ := windowVA_fields (off := off) hk (by omega)
  unfold aim
  rw [hx, windowVA_mod _ _ hn]
  by_cases h : off % n = 0
  · rw [if_pos h, reachOne_window w need hk hm hw h0 ho]
    exact ⟨_, rfl, own_of_spads _ _ _ 0 rfl⟩
  · obtain ⟨rfl, hb⟩ := ha.resolve_left h
    obtain ⟨a, he, ht⟩ := aimBytes_window w need hk hm hw n ho
    rw [if_neg h, if_neg (by simp [hb])]
    exact ⟨a, he, own_of_spads a _ _ (n - 1) (by rwa [Nat.sub_add_cancel h0])⟩

end Sys2Proof.Machine
end

section
namespace Sys2Proof.Machine

/-! ## Fields by bit (R5) -/

theorem getLsbD_maskAt (lo k : Nat) {i : Nat} (hi : i < 64) :
    (maskAt lo k).getLsbD i = decide (lo ≤ i ∧ i < lo + k) := by
  rw [maskAt, BitVec.getLsbD_ofNat, Nat.testBit_mul_two_pow, Nat.testBit_two_pow_sub_one]
  simp only [hi, decide_true, Bool.true_and, ← Bool.decide_and]
  exact decide_eq_decide.mpr (by omega)

/-- A field's value in its place. -/
theorem getLsbD_placed (lo k v : Nat) {i : Nat} (hi : i < 64) :
    (BitVec.ofNat 64 (v % 2 ^ k * 2 ^ lo)).getLsbD i = (decide (lo ≤ i ∧ i < lo + k) && v.testBit (i - lo)) := by
  rw [BitVec.getLsbD_ofNat, Nat.testBit_mul_two_pow, Nat.testBit_mod_two_pow]
  simp only [hi, decide_true, Bool.true_and, ← Bool.and_assoc, ← Bool.decide_and]
  exact congrArg (· && _) (decide_eq_decide.mpr (by omega))

/-- A value with a field replaced, bit by bit. -/
theorem getLsbD_setField (x : W64) (lo k v : Nat) {i : Nat} (hi : i < 64) :
    (setField x lo k v).getLsbD i = if lo ≤ i ∧ i < lo + k then v.testBit (i - lo) else x.getLsbD i := by
  have hdisjoint : (x &&& ~~~maskAt lo k) &&& BitVec.ofNat 64 (v % 2 ^ k * 2 ^ lo) = 0#64 := by
    refine BitVec.eq_of_getLsbD_eq fun i hi => ?_
    rw [BitVec.getLsbD_and, BitVec.getLsbD_and, BitVec.getLsbD_not, getLsbD_maskAt _ _ hi, getLsbD_placed _ _ _ hi]
    cases decide (lo ≤ i ∧ i < lo + k) <;> simp
  rw [setField_eq, BitVec.add_eq_or_of_and_eq_zero _ _ hdisjoint, BitVec.getLsbD_or, BitVec.getLsbD_and,
    BitVec.getLsbD_not, getLsbD_maskAt _ _ hi, getLsbD_placed _ _ _ hi]
  by_cases h : lo ≤ i ∧ i < lo + k
  · simp [h]
  · simp [h, hi]

theorem testBit_field (x : W64) (lo k j : Nat) : (field x lo k).testBit j = (decide (j < k) && x.getLsbD (lo + j)) := by
  rw [field, bitsOf, Nat.testBit_mod_two_pow, Nat.testBit_div_two_pow, BitVec.testBit_toNat, Nat.add_comm]

/-- A field that has been replaced holds the new value's low bits. -/
theorem field_setField_self (x : W64) (lo k v : Nat) (h : lo + k ≤ 64) : field (setField x lo k v) lo k = v % 2 ^ k := by
  refine Nat.eq_of_testBit_eq fun j => ?_
  rw [testBit_field, Nat.testBit_mod_two_pow]
  by_cases hj : j < k
  · rw [getLsbD_setField _ _ _ _ (by omega), if_pos (by omega), Nat.add_sub_cancel_left]
  · simp [hj]

/-- A field beside it is left. -/
theorem field_setField_other (x : W64) (lo k v : Nat) {hi n : Nat} (h : hi + n ≤ lo ∨ lo + k ≤ hi) (hn : hi + n ≤ 64) :
    field (setField x lo k v) hi n = field x hi n := by
  refine Nat.eq_of_testBit_eq fun j => ?_
  rw [testBit_field, testBit_field]
  by_cases hj : j < n
  · rw [getLsbD_setField _ _ _ _ (by omega), if_neg (by omega)]
  · simp [hj]

/-! ## Bytes stored into a scratchpad (R93, R97, R102) -/

/-- A byte of a word. -/
def SpWord.byte (w : SpWord) (i : Nat) : Byte := BitVec.ofNat 8 (w.data.toNat / 2 ^ (8 * i))

/-- A byte of a scratchpad. -/
def Arch.spadByte (r : Arch) (a : Nat) : Byte := (r.word (a / 8)).byte (a % 8)

theorem spadData_one (r : Arch) (a : Nat) : (r.spadData a 1).map (·.1) = [r.spadByte a] := rfl

theorem SpWord.byte_eq (w : SpWord) (i : Nat) : w.byte i = BitVec.ofNat 8 (field w.data (8 * i) 8) := by
  apply BitVec.eq_of_toNat_eq
  simp [SpWord.byte, field, bitsOf]

theorem SpWord.setByte_byte (w : SpWord) (b : Byte) (bad : Bool) {n i : Nat} (hn : n < 8) (hi : i < 8) :
    (w.setByte n b bad).byte i = if i = n then b else w.byte i := by
  rw [SpWord.byte_eq, SpWord.byte_eq, SpWord.setByte]
  split
  · rename_i h
    subst h
    rw [field_setField_self _ _ _ _ (by omega), Nat.mod_eq_of_lt b.isLt, BitVec.ofNat_toNat]
    exact BitVec.setWidth_eq b
  · rw [field_setField_other _ _ _ _ (by omega) (by omega)]

/-- The value of a byte after some have been stored from an offset: the one stored there, or the one before. -/
def storedAt (bytes : List Byte) (off a : Nat) (old : Byte) : Byte :=
  (if off ≤ a then bytes[a - off]? else none).getD old

theorem storedAt_nil (off a : Nat) (old : Byte) : storedAt [] off a old = old := by simp [storedAt]

theorem storedAt_singleton (b : Byte) (off a : Nat) (old : Byte) :
    storedAt [b] off a old = if a = off then b else old := by
  unfold storedAt
  by_cases h : a = off
  · simp [h]
  · rw [if_neg h]
    by_cases h2 : off ≤ a
    · rw [if_pos h2, List.getElem?_eq_none (by rw [List.length_singleton]; omega)]
      rfl
    · rw [if_neg h2]
      rfl

theorem storedAt_append (l m : List Byte) (off a : Nat) (old : Byte) :
    storedAt (l ++ m) off a old = storedAt m (off + l.length) a (storedAt l off a old) := by
  unfold storedAt
  by_cases h : off ≤ a
  · by_cases h2 : a - off < l.length
    · rw [if_pos h, if_neg (by omega), if_pos h, List.getElem?_append_left h2]
      rfl
    · rw [if_pos h, if_pos (by omega), if_pos h, List.getElem?_append_right (by omega),
        List.getElem?_eq_none (l := l) (by omega), Nat.sub_sub]
      rfl
  · rw [if_neg h, if_neg (by omega), if_neg h]
    rfl

/-- Bytes of one poison stored into a word: the bytes, the full/empty bit and the poison that it holds then. -/
theorem SpWord.setBytes_spec (w : SpWord) (bad : Bool) (bytes : List Byte) {n : Nat} (h : n + bytes.length ≤ 8) :
    let t := w.setBytes n (bytes.map fun b => (b, bad))
    (∀ i < 8, t.byte i = storedAt bytes n i (w.byte i)) ∧ t.full = w.full
      ∧ t.poison = if bytes = [] then w.poison else bad := by
  induction bytes generalizing w n with
  | nil => exact ⟨fun i _ => (storedAt_nil ..).symm, rfl, rfl⟩
  | cons b l ih =>
    simp only [List.length_cons] at h
    obtain ⟨hbyte, hfull, hpoison⟩ := ih (w.setByte n b bad) (n := n + 1) (by omega)
    have hmap : (l.map fun b => (b, bad)) = [] ↔ l = [] := List.map_eq_nil_iff
    refine ⟨fun i hi => ?_, hfull, ?_⟩
    · refine (hbyte i hi).trans ((congrArg _ ?_).trans (storedAt_append [b] l n i (w.byte i)).symm)
      rw [SpWord.setByte_byte _ _ _ (by omega) hi, storedAt_singleton]
    · rw [List.map_cons, SpWord.setBytes, hpoison, if_neg (List.cons_ne_nil b l)]
      by_cases hl : l = []
      · simp [hl]
      · simp [hl, hmap]

/-- What a scratchpad holds after bytes of one poison have been stored from an offset. -/
structure Arch.Stored (r : Arch) (off : Nat) (bytes : List Byte) (bad : Bool) (t : Arch) : Prop where
  byte : ∀ a, t.spadByte a = storedAt bytes off a (r.spadByte a)
  full : ∀ w, (t.word w).full = (r.word w).full
  poison : ∀ w, (t.word w).poison
    = if 8 * w < off + bytes.length ∧ off < 8 * w + 8 ∧ bytes ≠ [] then bad else (r.word w).poison
  frame : t = { r with spad := t.spad }

namespace Arch.Stored

theorem none (r : Arch) (off : Nat) (bad : Bool) : r.Stored off [] bad r :=
  ⟨fun _ => (storedAt_nil ..).symm, fun _ => rfl, fun _ => (if_neg (by simp)).symm, rfl⟩

/-- One run after another is one run. -/
theorem append {r t u : Arch} {off : Nat} {l m : List Byte} {bad : Bool} (h : r.Stored off l bad t)
    (h' : t.Stored (off + l.length) m bad u) : r.Stored off (l ++ m) bad u where
  byte a := by rw [h'.byte, h.byte, storedAt_append]
  full w := (h'.full w).trans (h.full w)
  poison w := by
    rw [h'.poison, h.poison]
    simp only [← List.length_pos_iff, List.length_append]
    by_cases hm : 8 * w < off + l.length + m.length ∧ off + l.length < 8 * w + 8 ∧ 0 < m.length
    · rw [if_pos hm, if_pos (by omega)]
    · rw [if_neg hm]
      by_cases hl : 8 * w < off + l.length ∧ off < 8 * w + 8 ∧ 0 < l.length
      · rw [if_pos hl, if_pos (by omega)]
      · rw [if_neg hl, if_neg (by omega)]
  frame := by
    rw [h'.frame, h.frame]

/-- Bytes that lie in one word. -/
theorem within (r : Arch) (off : Nat) (bytes : List Byte) (bad : Bool) (h : off % 8 + bytes.length ≤ 8) (h0 : bytes ≠ []) :
    r.Stored off bytes bad (r.setWord (off / 8) ((r.word (off / 8)).setBytes (off % 8) (bytes.map fun b => (b, bad)))) := by
  obtain ⟨hbyte, hfull, hpoison⟩ := SpWord.setBytes_spec (r.word (off / 8)) bad bytes h
  have hlen := List.length_pos_iff.mpr h0
  refine ⟨fun a => ?_, fun w => ?_, fun w => ?_, rfl⟩
  · unfold Arch.spadByte
    by_cases ha : a / 8 = off / 8
    · rw [ha, Arch.word_setWord_self, hbyte _ (Nat.mod_lt _ (by decide))]
      unfold storedAt
      by_cases hle : off ≤ a
      · rw [if_pos (by omega), if_pos hle, show a % 8 - off % 8 = a - off by omega]
      · rw [if_neg (by omega), if_neg hle]
    · rw [Arch.word_setWord_ne _ _ ha]
      unfold storedAt
      by_cases hle : off ≤ a
      · rw [if_pos hle, List.getElem?_eq_none (by omega)]
        rfl
      · rw [if_neg hle]
        rfl
  · by_cases hw : w = off / 8
    · rw [hw, Arch.word_setWord_self, hfull]
    · rw [Arch.word_setWord_ne _ _ hw]
  · by_cases hw : w = off / 8
    · rw [hw, Arch.word_setWord_self, hpoison, if_neg h0, if_pos ⟨by omega, by omega, h0⟩]
    · rw [Arch.word_setWord_ne _ _ hw, if_neg (by omega)]

end Arch.Stored

/-- Word by word, with fuel for as many words as bytes. -/
theorem Arch.stored_storeSpad (bad : Bool) (n : Nat) (r : Arch) (off : Nat) (bytes : List Byte) (h : bytes.length ≤ n) :
    r.Stored off bytes bad (r.storeSpad off (bytes.map fun b => (b, bad)) n) := by
  induction n generalizing r off bytes with
  | zero =>
    obtain rfl := List.length_eq_zero_iff.mp (Nat.le_zero.mp h)
    exact .none ..
  | succ n ih =>
    by_cases h0 : bytes = []
    · subst h0
      exact .none ..
    · have hlen := List.length_pos_iff.mpr h0
      have hfirst := Arch.Stored.within r off (bytes.take (8 - off % 8)) bad
        (by rw [List.length_take]; omega) (by simp [h0]; omega)
      have hrest := ih (r.setWord (off / 8) ((r.word (off / 8)).setBytes (off % 8)
        ((bytes.take (8 - off % 8)).map fun b => (b, bad)))) (off + min (8 - off % 8) bytes.length) (bytes.drop (8 - off % 8))
        (by rw [List.length_drop]; omega)
      rw [← List.length_take] at hrest
      have hall := hfirst.append hrest
      rw [List.take_append_drop] at hall
      rw [Arch.storeSpad, if_neg (by simpa using h0)]
      simpa only [List.map_take, List.map_drop, List.length_map, List.length_take] using hall

theorem Arch.stored_putSpad (r : Arch) (off : Nat) (bytes : List Byte) (bad : Bool) :
    r.Stored off bytes bad (r.putSpad off (bytes.map fun b => (b, bad))) :=
  Arch.stored_storeSpad bad _ r off bytes (by rw [List.length_map]; exact Nat.le_succ _)

/-- A byte of those stored, or the one before where none was. -/
theorem singleton_storedAt (bytes : List Byte) (off a : Nat) (old : Byte) : [storedAt bytes off a old]
    = (if off ≤ a then bytes[a - off]? else none).toList ++ (if off ≤ a ∧ a < off + bytes.length then [] else [old]) := by
  unfold storedAt
  by_cases h : off ≤ a
  · by_cases h2 : a - off < bytes.length
    · rw [if_pos h, List.getElem?_eq_getElem h2, if_pos (by omega)]
      rfl
    · rw [if_pos h, List.getElem?_eq_none (by omega), if_neg (by omega)]
      rfl
  · rw [if_neg h, if_neg (by omega)]
    rfl

/-- Settles O16: the window of the own scratchpad by its fields, and a store by the byte, the bits and the words that it
leaves. -/
theorem ownScratchpad : Obligations.OwnScratchpad := by
  unfold Obligations.OwnScratchpad
  refine ⟨fun s w off n need aligned hk hm ho hn hw ha => aim_window w need aligned hk hm ho hn hw ha,
    fun r off bytes bad => ?_⟩
  obtain ⟨hbyte, hfull, hpoison, hframe⟩ := Arch.stored_putSpad r off bytes bad
  refine ⟨fun a => ?_, hfull, hpoison, hframe⟩
  rw [spadData_one, spadData_one, hbyte]
  exact singleton_storedAt ..

end Sys2Proof.Machine
end

section
namespace Sys2Proof.Machine

/-! ## Images while the order of accesses is kept (R335, R409) -/

theorem Table.mem_of_look {α : Type} {t : Table α} {k : Nat} {x : α} (h : Table.look t k = some x) : (k, x) ∈ t := by
  induction t with
  | nil => exact nomatch h
  | cons p r ih =>
    rw [Table.look] at h
    split at h
    · rename_i hk
      obtain rfl := Option.some.inj h
      exact List.mem_cons.mpr (.inl (Prod.ext hk.symm rfl))
    · exact List.mem_cons_of_mem _ (ih h)

/-- A key's entry replaced by one that passes a test as the former did: some entry passes it as before. -/
theorem Table.any_put {α : Type} {t : Table α} {k : Nat} {x v : α} {f : Nat × α → Bool} (hx : Table.look t k = some x)
    (hv : f (k, v) = f (k, x)) : (Table.put t k v).any f = t.any f := by
  induction t with
  | nil => exact nomatch hx
  | cons p r ih =>
    have hmem := Table.mem_of_look hx
    rw [Table.look] at hx
    unfold Table.put
    split
    · rw [List.any_cons, hv]
      cases hf : f (k, x) with
      | false => exact Bool.false_or _
      | true => exact (Bool.true_or _).trans (List.any_eq_true.mpr ⟨_, hmem, hf⟩).symm
    · split
      · rename_i hk
        rw [if_pos hk.symm] at hx
        obtain rfl := Option.some.inj hx
        subst hk
        rw [List.any_cons, List.any_cons, hv]
      · rename_i hk
        rw [if_neg (Ne.symm hk)] at hx
        rw [List.any_cons, List.any_cons, ih hx]

/-- What a partition sends to a core is applied to an image: its own, or that of one of those out of the core. -/
theorem inImage_eq (s : State) (p k : Nat) : s.inImage p k = (s.isOut p && s.holds p k
    || !(s.parts.any fun q => q.1 / 64 == chipOf k && q.2.state == .resident && q.2.pgran.getLsbD (granuleOf k))
      && s.parts.any fun q => q.2.saved && s.isOut q.1 && s.holds q.1 k) := by
  have howner : (s.owner k).isSome = s.parts.any fun q =>
      q.1 / 64 == chipOf k && q.2.state == .resident && q.2.pgran.getLsbD (granuleOf k) := by
    rw [State.owner, Option.isSome_map, List.isSome_find?]
  rw [← howner]
  unfold State.inImage State.imageOf
  cases s.isOut p && s.holds p k with
  | true => rfl
  | false =>
    cases (s.owner k).isSome with
    | true => rfl
    | false =>
      refine Bool.eq_iff_iff.mpr ?_
      simp [List.isSome_min?_iff, and_assoc]

/-- A partition whose image receives what is sent to a core is one that is listed. -/
theorem look_of_imageOf {s : State} {p k q : Nat} (h : s.imageOf p k = some q) :
    ∃ x, Table.look s.parts q = some x := by
  have hholds : s.holds q k = true := by
    unfold State.imageOf at h
    split at h
    · rename_i hp
      exact Option.some.inj h ▸ (Bool.and_eq_true_iff.mp hp).2
    · split at h
      · exact nomatch h
      · obtain ⟨y, hy, rfl⟩ := List.mem_map.mp (List.min?_mem h)
        exact (Bool.and_eq_true_iff.mp (List.mem_filter.mp hy).2).2
  cases hq : Table.look s.parts q with
  | some x => exact ⟨x, rfl⟩
  | none =>
    have hreset : s.part q = Partition.reset := by rw [State.part, hq]; rfl
    rw [State.holds, hreset] at hholds
    simp [Partition.reset] at hholds

/-- An image replaced: where its partition stands and which cores it has are as before. -/
theorem setImage_place (s : State) (n : Nat) (l : Table Core) :
    let t := s.setPart n { s.part n with image := l }
    (∀ m, t.isOut m = s.isOut m) ∧ ∀ m k, t.holds m k = s.holds m k := by
  intro t
  have hpart : ∀ m, (t.part m).state = (s.part m).state ∧ (t.part m).saved = (s.part m).saved
      ∧ (t.part m).pgran = (s.part m).pgran := by
    intro m
    by_cases e : m = n
    · rw [e, State.part_setPart_self]
      exact ⟨rfl, rfl, rfl⟩
    · rw [State.part_setPart_ne _ _ e]
      exact ⟨rfl, rfl, rfl⟩
  refine ⟨fun m => ?_, fun m k => ?_⟩
  · rw [State.isOut, (hpart m).1, (hpart m).2.1]
    rfl
  · rw [State.holds, (hpart m).2.2]
    rfl

/-- A write of an image leaves which partition's image receives what. -/
theorem inImage_setCoreOf (s : State) (p k : Nat) (c : Core) (q j : Nat) :
    (s.setCoreOf p k c).inImage q j = s.inImage q j := by
  unfold State.setCoreOf
  split
  · rename_i n h
    obtain ⟨x, hx⟩ := look_of_imageOf h
    have hpart : s.part n = x := by rw [State.part, hx]; rfl
    obtain ⟨hout, hholds⟩ := setImage_place s n (Table.put (s.part n).image k c)
    simp only [inImage_eq, hout, hholds]
    rw [State.setPart, Table.any_put hx (by rw [hpart]), Table.any_put hx (by rw [hpart])]
  · rfl

theorem inImage_passPolls (s : State) (p k ord q j : Nat) : (s.passPolls p k ord).inImage q j = s.inImage q j := by
  unfold State.passPolls
  dsimp only
  split
  · rfl
  · rfl

theorem inImage_promiseBefore (s : State) (p k ord scope q j : Nat) :
    (s.promiseBefore p k ord scope).inImage q j = s.inImage q j := by
  unfold State.promiseBefore
  split
  · rfl
  · exact (inImage_setCoreOf ..).trans (inImage_passPolls s p k ord q j)

theorem inImage_keepOrder (s : State) (p k ord : Nat) (rel : Option Nat) (q j : Nat) :
    (s.keepOrder p k ord rel).inImage q j = s.inImage q j := by
  have hfold : ∀ (l : List (Nat × Nat)) (t : State),
      (l.foldl (fun t f => t.promiseBefore p k f.1 f.2) t).inImage q j = t.inImage q j := by
    intro l
    induction l with
    | nil => exact fun _ => rfl
    | cons f r ih => exact fun t => (ih _).trans (inImage_promiseBefore ..)
  have hfences := (hfold (((s.passPolls p k ord).coreOf p k).fences.filter fun f => decide (f.1 < ord)) _).trans
    (inImage_passPolls s p k ord q j)
  unfold State.keepOrder
  cases rel with
  | none => exact hfences
  | some scope => exact (inImage_promiseBefore ..).trans hfences

section
variable {s : State} {p k : Nat} (h : s.inImage p k = false)
include h

theorem imageOf_of_not_inImage : s.imageOf p k = none := by
  rwa [State.inImage, Option.isSome_eq_false_iff, Option.isNone_iff_eq_none] at h

theorem coreOf_of_not_inImage : s.coreOf p k = s.core k := by
  rw [State.coreOf, imageOf_of_not_inImage h]

theorem setCoreOf_of_not_inImage (c : Core) : s.setCoreOf p k c = s.setCore k c := by
  rw [State.setCoreOf, imageOf_of_not_inImage h]

end

/-! ## Posts (R79, R83, R84, R111) -/

/-- A flag's status after a post: the post's, where none but OK was held. -/
theorem field_post_cfstat (r : Arch) (f st : BitVec 4) (n : Nat) (j : Fin 16) :
    field (r.post f n st).cfstat (4 * j.val) 4
      = if j = f.toFin ∧ field r.cfstat (4 * j.val) 4 = 0 then st.toNat else field r.cfstat (4 * j.val) 4 := by
  unfold Arch.post
  dsimp only
  by_cases hj : j = f.toFin
  · subst hj
    by_cases h : field r.cfstat (4 * f.toFin.val) 4 = 0
    · rw [if_pos h, field_setField_self _ _ _ _ (by omega), if_pos ⟨rfl, h⟩, Nat.mod_eq_of_lt st.isLt]
    · rw [if_neg h, if_neg (mt And.right h)]
  · have hne : j.val ≠ f.toFin.val := fun e => hj (Fin.ext e)
    rw [if_neg (mt And.left hj)]
    split
    · exact field_setField_other _ _ _ _ (by omega) (by omega)
    · rfl

section
variable {s : State} {id : Nat} {x : Post} (hx : (s.posts.find? fun y => y.id == id) = some x)
  (ho : s.inOrder x.part x.src x.ord = true) (hp : s.performedBefore x.part x.src x.ord x.scope = true)
include hx ho hp

theorem postArrives_discarded (h : s.pathTo x.src (.spad x.core 0) = false) :
    s.postArrives id = { s with posts := s.posts.filter fun y => y.id != id } := by
  simp [State.postArrives, hx, ho, hp, h]

/-- A post that arrives at a core is counted there, once what it releases counts as performed. -/
theorem postArrives_counted (hi : s.inImage x.part x.core = false) (h : s.pathTo x.src (.spad x.core 0) = true) :
    let u := s.keepOrder x.part x.src x.ord (some x.scope)
    let c := u.core x.core
    s.postArrives id = { u with posts := u.posts.filter fun y => y.id != id }.setCore x.core
      { c with r := c.r.post x.flag x.count.toNat x.status } := by
  intro u c
  have hu : u.inImage x.part x.core = false := (inImage_keepOrder ..).trans hi
  have hc : u.coreOf x.part x.core = c := coreOf_of_not_inImage hu
  rw [← setCoreOf_of_not_inImage (s := { u with posts := u.posts.filter fun y => y.id != id }) hu, ← hc]
  simp [State.postArrives, hx, ho, hp, h, u]

end

/-! ## Counting flags (R111, R259) -/

/-- A 4-bit field of a register of flags cleared. -/
theorem setField_nibble_zero (x : W64) (n : Fin 16) :
    setField x (4 * n.val) 4 0 = x &&& ~~~((0xF : W64) <<< (4 * n.val)) := by
  have hmask : maskAt (4 * n.val) 4 = (0xF : W64) <<< (4 * n.val) := by
    revert n
    decide
  rw [setField_eq, hmask, Nat.zero_mod, Nat.zero_mul]
  exact BitVec.add_zero _

theorem setReg_fin {α : Type} {n : Nat} (v : Vector α n) (i : Fin n) (x : α) : setReg v i.val x = v.set i.val x :=
  dif_pos i.isLt

theorem getReg_fin {α : Type} {n : Nat} (v : Vector α n) (i : Fin n) (x : α) : getReg v i.val x = v[i.val] :=
  dif_pos i.isLt

/-- A status above its count, as `cfrd` gives them. -/
theorem flagValue_eq (st : W64) (n : Fin 16) (c : BitVec 16) : BitVec.ofNat 64 (field st (4 * n.val) 4 * 2 ^ 16 + c.toNat)
    = (st >>> (4 * n.val) &&& 0xF) <<< 16 ||| c.zeroExtend 64 := by
  have hnib : (st >>> (4 * n.val) &&& 0xF).toNat = field st (4 * n.val) 4 := by
    refine (toNat_and_maskAt (st >>> (4 * n.val)) 4).trans ?_
    simp [field, bitsOf, Nat.shiftRight_eq_div_pow]
  have hlt : field st (4 * n.val) 4 < 2 ^ 4 := field_lt ..
  have hc : c.toNat < 2 ^ 16 := c.isLt
  apply BitVec.eq_of_toNat_eq
  rw [BitVec.toNat_or, BitVec.toNat_shiftLeft, hnib, BitVec.toNat_ofNat, BitVec.toNat_setWidth, Nat.shiftLeft_eq,
    Nat.mod_eq_of_lt (by omega), Nat.mod_eq_of_lt (by omega), Nat.mod_eq_of_lt (by omega), ← Nat.shiftLeft_eq,
    Nat.shiftLeft_add_eq_or_of_lt hc]

theorem flagNumber_toNat (n : Fin 16) : (BitVec.ofNat 6 n.val).toNat = n.val := by
  rw [BitVec.toNat_ofNat]
  omega

section
variable {s : State} {g : Guard} {a : BitVec 6} {x : W64} (hg : s.me.guarded g = true)
include hg

theorem cfset_exec (ha : s.reads a x) (n : Fin 16) : exec (.cfset g (BitVec.ofNat 6 n.val) a) s
    = .next (s.setMe { s.me with r := { s.me.r with
        cf := s.me.r.cf.set n (BitVec.ofNat 16 (min 0xFFFF x.toNat))
        cfstat := s.me.r.cfstat &&& ~~~((0xF : W64) <<< (4 * n.val)) } }) := by
  refine runSlot_ok hg ?_
  rw [flagNumber_toNat, if_neg (Nat.not_le.mpr n.isLt), setFlag, ready_ok.mpr (available_known ha), operand_known _ ha]
  simp only [bind, Except.bind, pure, Except.pure, setField_nibble_zero, setReg_fin]

theorem cfrd_exec {d : BitVec 6} (hd : s.definable .B d) (n : Fin 16) : exec (.cfrd g d (BitVec.ofNat 6 n.val)) s
    = .next (s.setMe (s.me.result .B d (known
        ((s.me.view.cfstat >>> (4 * n.val) &&& 0xF) <<< 16 ||| s.me.view.cf[n].zeroExtend 64)))) := by
  refine runSlot_ok hg ?_
  rw [flagNumber_toNat, if_neg (Nat.not_le.mpr n.isLt), readFlag, ready_ok.mpr (scalarReady_none hd)]
  simp only [bind, Except.bind, pure, Except.pure, getReg_fin, flagValue_eq]
  rfl

theorem cfadd_exec {b : BitVec 6} {y : W64} {k : Nat} (ha : s.reads a x) (hb : s.reads b y) (h1 : field x 56 8 = 0)
    (h2 : field x 3 29 = 0) (hk : coreNamed x = some k) (hm : s.member (chipOf s.here) (chipOf k) = true)
    (hs : s.speculative = none) : exec (.cfadd g a b) s = .next (s.sendPost (s.partOf s.here) s.here k
      (BitVec.ofNat 4 (field x 32 4)) y.toNat 0 s.me.ord (field x 0 3)) := by
  refine runSlot_ok hg ?_
  simp [addFlag, available_known ha, available_known hb, operand_known _ ha, operand_known _ hb, ready, h1, h2, homeOf,
    hk, hm, hs, State.commit, bind, Except.bind, pure, Except.pure]

end

/-! ## The answer that a group awaits (R67, R440) -/

section
variable {s : State} {w : Site} {counts : Bool} {acc : Acc}

theorem ask_sends (h : s.me.awaiting w.slot = none) : ask s w counts acc = .error (.send w.slot acc) := by
  simp [ask, h]

theorem ask_answered {x : Await} {v : W64} {bad : Bool} (h : s.me.awaiting w.slot = some x)
    (ha : x.answer = some (v, bad, false)) : ask s w counts acc = .ok (v, bad, false) := by
  simp [ask, h, ha]

/-- A refusal is WORLD's when its code is 2, and the operation's own otherwise. -/
theorem ask_refused {x : Await} {v : W64} {bad : Bool} (h : s.me.awaiting w.slot = some x)
    (ha : x.answer = some (v, bad, true)) : ask s w counts acc
      = if v = 2 then raiseAnswer s w cWorld 0 acc.va else .ok (v, bad, true) := by
  simp [ask, h, ha]

end

/-! ## Futures (R260 to R262) -/

/-- An access of the group in hand to the bank of a future, whose answer it awaits. -/
def futureAcc (s : State) (kind : AccKind) (k off : Nat) (ns : Bool) (x v data2 : W64) (acq rel : Bool) : Acc :=
  { newAcc s kind ⟨[.spad k off], spadAttr, ns, x⟩ 16 v data2 false acq rel with
    scope := scopeOf s.here k, held := true }

section
variable {s : State} {g : Guard} {a b d : BitVec 6} {f : Bool} {x y : W64} {k off j o2 : Nat} {ns n2 : Bool}
  {word : BitVec 32} (hg : s.me.guarded g = true) (ha : s.reads a x) (hb : s.reads b y) (hs : s.speculative = none)
  (hl : k ≠ s.here ∨ s.me.localFree true off 16 = true) (hx : aimWord s ⟨.B, word⟩ x 16 = .ok (k, off, ns))
include hg ha hb hs hl hx

/-- `fres` asks the future's bank, and goes on or raises its cause. -/
theorem fres_exec (he : (Instr.fres g a b).encode = some word) : exec (.fres g a b) s
    = finish s (ask s ⟨.B, word⟩ false (futureAcc s .resolve k off ns x y 2 false true) >>= fun r =>
      if r.2.2 then raiseAnswer s ⟨.B, word⟩ cDoubleResolve 0 x else .ok s) := by
  obtain rfl := Option.some.inj he
  refine (runSlot_true _ hg).trans (congrArg (finish s) ?_)
  have hfree : (k != s.here || s.me.localFree true off 16) = true := by simpa using hl
  rw [ready_ok.mpr (by rw [available_known ha, available_known hb]; rfl), operand_known _ ha, operand_known _ hb]
  simp only [bind, Except.bind, resolveAt, hx, State.commit, hs, Option.isNone_none, if_true, ready_ok.mpr hfree]
  rfl

/-- `fjoin` asks the future's bank, and completes with the answer. -/
theorem fjoin_exec (hd : s.definable .B d) (hy : aimWord s ⟨.B, word⟩ y 8 = .ok (j, o2, n2))
    (he : (Instr.fjoin g d a b f).encode = some word) : exec (.fjoin g d a b f) s
    = finish s (ask s ⟨.B, word⟩ false (futureAcc s .join k off ns x y 0 true false) >>= fun r =>
      .ok (s.setMe (s.me.result .B d ⟨r.1, r.2.1, none⟩))) := by
  obtain rfl := Option.some.inj he
  refine (runSlot_true _ hg).trans (congrArg (finish s) ?_)
  have hfree : (k != s.here || s.me.localFree true off 16) = true := by simpa using hl
  rw [joinAt, ready_ok.mpr (scalarReady_two hd (available_known ha) (available_known hb)), operand_known _ ha,
    operand_known _ hb]
  simp only [bind, Except.bind, hx, hy, State.commit, hs, Option.isNone_none, if_true, ready_ok.mpr hfree]
  rfl

end

/-- Settles O25: a flag's operations and its posts by what they leave in the flag and in its status, and a future's by the
one access they send and by what its answer makes of the group. -/
theorem flagsAndFutures : Obligations.FlagsAndFutures := by
  unfold Obligations.FlagsAndFutures
  refine ⟨fun s g a x hg ha => ⟨cfset_exec hg ha, fun d n hd => cfrd_exec hg hd n,
      fun b y k hb h1 h2 hk hm hs => cfadd_exec hg ha hb h1 h2 hk hm hs⟩,
    fun s id x hx ho hp hi => ⟨fun h => congrArg Host.Outcome.next (postArrives_discarded hx ho hp h), fun h =>
      ⟨_, congrArg Host.Outcome.next (postArrives_counted hx ho hp hi h), field_post_cfstat _ x.flag x.status x.count.toNat⟩⟩,
    fun s g d a b f x y k off j o2 ns n2 w1 w2 hg ha hb hd he1 he2 hx1 hx2 hy hs hl => ?_⟩
  have hfres := fres_exec hg ha hb hs hl hx1 he1
  have hfjoin := fjoin_exec hg ha hb hs hl hx2 hd hy he2
  refine ⟨fun w v bad hw => ⟨fun hv => ⟨?_, ?_⟩, fun hv => ?_⟩, fun hw =>
    ⟨⟨futureAcc s .resolve k off ns x y 2 false true, ?_, rfl, rfl, rfl, rfl, rfl⟩,
      ⟨futureAcc s .join k off ns x y 0 true false, ?_, rfl, rfl, rfl, rfl, rfl⟩⟩⟩
  · rw [hfres, ask_answered hw hv]
    rfl
  · rw [hfjoin, ask_answered hw hv]
    rfl
  · rw [hfres, ask_refused hw hv]
    split
    · rfl
    · rfl
  · rw [hfres, ask_sends hw]
    rfl
  · rw [hfjoin, ask_sends hw]
    rfl

end Sys2Proof.Machine
end

section
namespace Sys2Proof.Machine

/-! ## A `drain` whose core sends into an image (R255, R409) -/

/-- A command of group 0 of a core, with its transfer still to come. -/
def lateCommand : Cmd :=
  { id := 0, slotG := false, word := 0, stg := 0, pair := 0, own := State.reset.ownerOf 0, ord := 0, rd := [], wr := []
    before := [], data := [], busy := [], status := none, tier := false, value := 0, fail := 0, kind := 0, phase := 0
    idx := [], since := 0, src := [], dst := [], tlb := [], miss := [], job := none, seen := 0 }

/-- Core 0 in group 1 of a block of partition 0, whose granules a write of PGRAN has taken away, and the saved image of
partition 1, which has the core too and whose command is still to perform. -/
def drainBesideImage : State :=
  { State.reset with
    cores := [(0, { Core.reset with
      ord := 1
      blk := some ⟨⟨7, Vector.replicate 8 0, 3, 0, .ready, 0, [], none⟩, [], 0, 5, false, false, false⟩ })]
    parts := [(0, { Partition.reset with state := .resident }),
      (1, { Partition.reset with pgran := 1, saved := true, image := [(0, { Core.reset with xq := [lateCommand] })] })] }

/-- The marks of the commands in the image of partition 1: 0 for one that counts as performed at no scope. -/
def imageMarks : Out → List Nat
  | .next t => (t.part 1).image.flatMap fun c => c.2.xq.map Cmd.seen
  | _ => []

/-- A `drain` at engine scope marks the command of the image, where an arrival from the core's partition would be
received, as performed at that scope. -/
theorem drain_marks_image : imageMarks (exec (.drain always 0) drainBesideImage) = [1] := by decide +kernel

/-- Refutes O23: with no access, command or post of earlier groups still to perform, `drain` waits for nothing and yet need
not leave the state as it is. It waits for the commands of its own core, and marks as performed those of the core or image
that receives for its partition there (R409); where that is an image, whose command is under way, the command is marked.
Such a state takes a PGRAN write under a running block, which R406 does not have the security processor make. -/
theorem not_fencesAndInvalidation : ¬ Obligations.FencesAndInvalidation := by
  unfold Obligations.FencesAndInvalidation
  rintro ⟨hfence, -, -⟩
  obtain ⟨-, hgoes, -⟩ := hfence drainBesideImage always 0 (guarded_always _) (by decide)
  obtain ⟨hsame, -⟩ := hgoes (fun _ hx => nomatch hx) (fun _ hx => nomatch hx)
  have hmarks := drain_marks_image
  rw [hsame fun _ ha => nomatch ha] at hmarks
  exact absurd hmarks (by decide)

end Sys2Proof.Machine
end

section
namespace Sys2Proof.Machine

/-! ## Loads and stores that go elsewhere (R237, R248, R254) -/

theorem loads_exec (s : State) (g : Guard) {word : BitVec 32} : ∀ p ∈ loads, ∀ (d b : BitVec 6) (o : BitVec 8),
    (p.1 g d b o).encode = some word →
      exec (p.1 g d b o) s = runSlot s g (loadBytes s ⟨.B, word⟩ d b o p.2.1 p.2.2) := by
  intro p hp d b o he
  fin_cases hp
  all_goals
    cases he
    rfl

theorem stores_exec (s : State) (g : Guard) {word : BitVec 32} : ∀ p ∈ stores, ∀ (d b : BitVec 6) (o : BitVec 8),
    (p.1 g d b o).encode = some word →
      exec (p.1 g d b o) s = runSlot s g (storeBytes s ⟨.B, word⟩ d b o p.2.1 p.2.2) := by
  intro p hp d b o he
  fin_cases hp
  all_goals
    cases he
    rfl

theorem effective_eq_addressOf (x : W64) (o : BitVec 8) (n : Nat) : effective x o n = addressOf x o n := rfl

/-- What every page placed for a write keeps, an access's pages made ready keep. -/
theorem placePages_induct {P : State → Prop} {w : Site} {attr : BitVec 16} {write : Bool}
    (hP : ∀ {u v : State} {p : Nat}, write = true → P u → u.placeForWrite p attr = some v → P v) {u t : State}
    {ts : List Target} {va : W64} (hu : P u) (h : placePages w va attr write u ts = .ok t) : P t := by
  induction ts generalizing u va with
  | nil => exact Except.ok.inj h ▸ hu
  | cons x r ih =>
    cases x with
    | spad k off => exact ih hu h
    | mem ma =>
      rw [placePages] at h
      split at h
      · exact ih hu h
      · split at h
        · split at h
          · split at h
            · exact nomatch h
            · exact nomatch h
          · exact nomatch h
        · split at h
          · rename_i hw
            split at h
            · rename_i hp
              exact ih (hP (Bool.and_eq_true_iff.mp hw).1 hu hp) h
            · exact nomatch h
          · exact ih hu h

/-- A read finds its pages at hand: none is placed for it. -/
theorem placePages_read {w : Site} {attr : BitVec 16} {s t : State} {ts : List Target} {va : W64}
    (h : placePages w va attr false s ts = .ok t) : t = s :=
  placePages_induct (P := (· = s)) (write := false) (fun hw => nomatch hw) rfl h

theorem placePages_kept {w : Site} {attr : BitVec 16} {write : Bool} {s t : State} {ts : List Target} {va : W64}
    (h : placePages w va attr write s ts = .ok t) : AccessesKept s t :=
  placePages_induct (fun _ hu hp => hu.placeForWrite hp) (.self s) h

section
variable {s t : State} {w : Site} {d b : BitVec 6} {o : BitVec 8} {x : W64} {a : Aim} {n : Nat} (hb : s.reads b x)
  (ha : a.own s.here = none)
include hb ha

theorem loadBytes_elsewhere {acq : Bool} (hd : s.definable .B d)
    (hx : aim s w (addressOf x o n) n .load false = .ok a)
    (hp : placePages w (addressOf x o n) a.attr false s a.targets = .ok t) :
    loadBytes s w d b o n acq = .ok (sendFor s d (newAcc s .load a n 0 0 false acq false)) := by
  obtain rfl := placePages_read hp
  rw [loadBytes, ready_ok.mpr (scalarReady_one hd (available_known hb)), operand_known _ hb]
  simp only [bind, Except.bind, effective_eq_addressOf, hx, ha, hp]
  rfl

theorem storeBytes_elsewhere {rel : Bool} (hd : available s d = true)
    (hx : aim s w (addressOf x o n) n .store false = .ok a) (hw : s.mayWrite (addressOf x o n) n = true)
    (hp : placePages w (addressOf x o n) a.attr true s a.targets = .ok t) :
    storeBytes s w d b o n rel
      = .ok (t.send (newAcc t .store a n (source s d).val 0 (source s d).poison false rel)) := by
  rw [storeBytes, ready_ok.mpr (by rw [hd, available_known hb]; rfl), operand_known _ hb]
  simp only [bind, Except.bind, effective_eq_addressOf, hx, ha, hw, hp]
  rfl

end

/-! ## Replies and timeouts (R81, R82, R440) -/

theorem find_id {s : State} {id : Nat} {a : Acc} (h : (s.accs.find? fun x => x.id == id) = some a) : a.id = id := by
  have hx := List.find?_some h
  exact beq_iff_eq.mp hx

/-- An access is over, and its core is as it receives the answer. -/
theorem deliver_eq {s : State} {a : Acc} (hh : a.host = false) (hi : s.inImage a.part a.core = false) (v : W64)
    (bad refused : Bool) : s.deliver a v bad refused = (s.dropAcc a.id).setCore a.core
      (if a.held then (s.core a.core).answered a.id v bad refused else (s.core a.core).receive a.id v bad) := by
  rw [State.deliver, coreOf_of_not_inImage hi, ← setCoreOf_of_not_inImage (s := s.dropAcc a.id) (p := a.part) hi]
  simp [hh]

/-- A register that awaits an access holds its reply, in each bank of registers, and the rest of the core stays. -/
theorem receive_fills (id : Nat) (v : W64) (bad : Bool) (c : Core) :
    let d := c.receive id v bad
    (∀ j : Fin 48, d.r.s[j] = (c.r.s[j]).fill id v bad) ∧ (∀ j : Fin 8, d.r.l[j] = (c.r.l[j]).fill id v bad)
    ∧ (∀ j : Fin 8, d.bankU.s[j] = (c.bankU.s[j]).fill id v bad)
    ∧ (∀ j : Fin 8, d.bankK.s[j] = (c.bankK.s[j]).fill id v bad)
    ∧ d = { c with r := { c.r with s := d.r.s, l := d.r.l }, bankU := { c.bankU with s := d.bankU.s },
                   bankK := { c.bankK with s := d.bankK.s } } := by
  simp [Core.receive]

/-- What a store raises on its core that fails after 50 µs. -/
def transferError : Cause := ⟨BitVec.ofNat 6 cTransferError, true, 2, false, 0, BitVec.ofNat 4 stFailed, 0, 0, 0⟩

section
variable {s : State} {id : Nat} {a : Acc} (ha : (s.accs.find? fun x => x.id == id) = some a)
include ha

theorem reply_done {v : W64} {bad : Bool} (hp : s.noPath a = false) (hd : a.phase = .done v bad 0) :
    s.reply id = s.deliver a v bad false := by
  simp [State.reply, ha, hp, hd, State.accrueAcc]

theorem timeout_unsent (hs : a.phase = .sent) (ho : a.out = false) : s.timeout id = (s.sendOut a).elim s s.setAcc := by
  simp only [State.timeout, ha, hs, ho, Bool.not_false]
  cases s.sendOut a with
  | none => rfl
  | some b => rfl

section
variable (hs : a.phase = .sent) (ho : a.out = true)
include hs ho

theorem timeout_waits (h : s.passed a.since < 50000) : s.timeout id = s := by
  simp [State.timeout, ha, hs, ho, h]

variable (hseen : a.seen = 0) (hh : a.host = false) (h : 50000 ≤ s.passed a.since)
include hseen hh h

theorem timeout_load (hc : a.cmd = none) (hk : a.kind = .load) : s.timeout id = s.deliver a 0 true false := by
  simp [State.timeout, ha, hs, ho, hseen, hh, Nat.not_lt.mpr h, hc, hk]

theorem timeout_store (hk : a.kind = .store) : s.timeout id = (s.dropAcc id).pendKernel a.part a.core transferError := by
  simp [State.timeout, ha, hs, ho, hseen, hh, Nat.not_lt.mpr h, hk, transferError]

end

end

/-- A kernel cause is pending on a core that no image stands for and that holds fewer than 16. -/
theorem pendKernel_core {s : State} {p k : Nat} (hi : s.inImage p k = false) (h : (s.core k).pendK.length < 16)
    (x : Cause) : s.pendKernel p k x = s.setCore k { s.core k with pendK := (s.core k).pendK ++ [x] } := by
  rw [State.pendKernel, coreOf_of_not_inImage hi, setCoreOf_of_not_inImage hi, if_pos h]

/-- Settles O18: a load or a store elsewhere by the access it sends, and an access by what its reply, its leaving and its
timer make of it. -/
theorem remoteLoadsAndStores : Obligations.RemoteLoadsAndStores := by
  unfold Obligations.RemoteLoadsAndStores
  refine ⟨fun p hp s t g d b o word x a hg hb hd he hx ha ht => ?_,
    fun p hp s t g d b o word x a hg hb hd he hx ha hw ht => ⟨?_, ?_⟩, fun s id a ha hh hi => ?_⟩
  · rw [loads_exec s g p hp d b o he]
    exact runSlot_ok hg (loadBytes_elsewhere hb ha hd hx ht)
  · rw [stores_exec s g p hp d b o he]
    exact runSlot_ok hg (storeBytes_elsewhere hb ha hd hx hw ht)
  · exact (placePages_kept ht).mem
  intro c rest filled received
  obtain rfl := find_id ha
  have hreceived : ∀ v bad, a.held = false → received v bad (s.deliver a v bad false) := fun v bad hheld =>
    ⟨c.receive a.id v bad, by rw [deliver_eq hh hi, hheld]; rfl, receive_fills a.id v bad c⟩
  refine ⟨fun v bad hp hd => ⟨fun hheld => ⟨_, congrArg Host.Outcome.next (reply_done ha hp hd), hreceived v bad hheld⟩,
      fun hheld => congrArg Host.Outcome.next ?_⟩,
    fun hs ho => ⟨fun b hb => congrArg Host.Outcome.next ?_, fun hb => congrArg Host.Outcome.next ?_⟩,
    fun hs ho hseen hc => ⟨fun h => congrArg Host.Outcome.next (timeout_waits ha hs ho h), fun h =>
      ⟨fun hk hheld => ⟨_, congrArg Host.Outcome.next (timeout_load ha hs ho hseen hh h hc hk), hreceived 0 true hheld⟩,
        fun hk hroom => ⟨transferError, congrArg Host.Outcome.next ?_, rfl, rfl⟩⟩⟩⟩
  · rw [reply_done ha hp hd, deliver_eq hh hi, hheld]
    rfl
  · rw [timeout_unsent ha hs ho, hb, Option.elim_some]
  · rw [timeout_unsent ha hs ho, hb, Option.elim_none]
  · rw [timeout_store ha hs ho hseen hh h hk]
    exact pendKernel_core (s := s.dropAcc a.id) hi hroom _

end Sys2Proof.Machine
end

section
namespace Sys2Proof.Machine

/-! ## The core whose order is kept (R335) -/

/-- The turn stays with its core, and of each core nothing changes but its commands, which may count as performed. -/
structure CommandsMarked (s t : State) : Prop where
  here : t.here = s.here
  core : ∀ k, ∃ q, t.core k = { s.core k with xq := q }

namespace CommandsMarked

variable {s t u : State}

theorem self (s : State) : CommandsMarked s s := ⟨rfl, fun k => ⟨(s.core k).xq, rfl⟩⟩

theorem of_same (h : CommandsMarked s t) (hh : u.here = t.here := by rfl) (hc : u.cores = t.cores := by rfl) :
    CommandsMarked s u :=
  ⟨hh.trans h.here, fun k => by rw [State.core, hc]; exact h.core k⟩

theorem setCoreOf (h : CommandsMarked s t) (p k : Nat) (q : List Cmd) :
    CommandsMarked s (t.setCoreOf p k { t.coreOf p k with xq := q }) := by
  unfold State.setCoreOf State.coreOf
  cases t.imageOf p k with
  | some n => exact h.of_same
  | none =>
    refine ⟨h.here, fun j => ?_⟩
    by_cases e : j = k
    · obtain ⟨l, hl⟩ := h.core k
      subst e
      exact ⟨q, by simp [hl]⟩
    · rw [State.core_setCore_ne _ _ e]
      exact h.core j

theorem passPolls (h : CommandsMarked s t) (p k ord : Nat) : CommandsMarked s (t.passPolls p k ord) := by
  unfold State.passPolls
  dsimp only
  split
  · exact h.of_same
  · exact h

theorem promiseBefore (h : CommandsMarked s t) (p k ord scope : Nat) :
    CommandsMarked s (t.promiseBefore p k ord scope) := by
  unfold State.promiseBefore
  split
  · exact h
  · exact setCoreOf (of_same (h.passPolls p k ord)) _ _ _

theorem foldl {α : Type} (f : State → α → State)
    (hf : ∀ {u : State} (x : α), CommandsMarked s u → CommandsMarked s (f u x)) (l : List α) (h : CommandsMarked s t) :
    CommandsMarked s (l.foldl f t) := by
  induction l generalizing t with
  | nil => exact h
  | cons x r ih => exact ih (hf x h)

theorem keepOrder (h : CommandsMarked s t) (p k ord : Nat) (rel : Option Nat) :
    CommandsMarked s (t.keepOrder p k ord rel) := by
  have hf := foldl _ (fun (f : Nat × Nat) hu => hu.promiseBefore p k f.1 f.2)
    (((t.passPolls p k ord).coreOf p k).fences.filter fun f => decide (f.1 < ord)) (h.passPolls p k ord)
  unfold State.keepOrder
  dsimp only
  split
  · exact hf.promiseBefore _ _ _ _
  · exact hf

theorem me (h : CommandsMarked s t) : ∃ q, t.me = { s.me with xq := q } := by
  rw [State.me, h.here]
  exact h.core s.here

theorem view (h : CommandsMarked s t) : t.me.view = s.me.view := by
  obtain ⟨q, hq⟩ := h.me
  rw [hq]
  rfl

theorem waitHere (h : CommandsMarked s t) {α : Type} (w : Site) (info : Nat) (va : W64) :
    Machine.waitHere (α := α) t w info va = Machine.waitHere s w info va := by
  obtain ⟨q, hq⟩ := h.me
  unfold Machine.waitHere raise causeAt
  rw [hq]

end CommandsMarked

theorem ordered_marked (s : State) (rel : Option Nat) : CommandsMarked s (s.ordered rel) := (CommandsMarked.self s).keepOrder ..

theorem localOrder_ready {s : State} {rel : Option Nat} {write : Bool} {off n : Nat}
    (h : s.localReady rel write off n = true) : s.localOrder rel write off n = .ok (s.ordered rel) := by
  rw [State.localOrder, ready_ok.mpr h]
  rfl

/-! ## Full/empty forms by their opcodes (R97, R249, R253) -/

/-- The scope at which a full/empty form releases. -/
def fullEmptyRelease (op : Nat) : Option Nat :=
  if 0x50 ≤ op && op ≤ 0x53 then some (if op % 2 = 1 then 5 else 2) else none

/-- The form writes its word or the word's bit. -/
def fullEmptyWrites (op : Nat) : Bool := !waitsFull op || 0x4E ≤ op

theorem fullLoads_exec (s : State) (g : Guard) {word : BitVec 32} : ∀ p ∈ fullLoads, ∀ (d b : BitVec 6) (o : BitVec 8),
    (p.1 g d b o).encode = some word →
      exec (p.1 g d b o) s = runSlot s g (fullEmpty s ⟨.B, word⟩ p.2.1.toNat (some d) none b o) := by
  intro p hp d b o he
  fin_cases hp
  all_goals
    cases he
    rfl

theorem fullStores_exec (s : State) (g : Guard) {word : BitVec 32} : ∀ p ∈ fullStores, ∀ (d b : BitVec 6) (o : BitVec 8),
    (p.1 g d b o).encode = some word →
      exec (p.1 g d b o) s = runSlot s g (fullEmpty s ⟨.B, word⟩ p.2.1.toNat none (some d) b o) := by
  intro p hp d b o he
  fin_cases hp
  all_goals
    cases he
    rfl

/-- A full/empty load orders nothing before it, waits for a full word, and leaves it full or empty. -/
theorem fullLoads_form : ∀ p ∈ fullLoads, fullEmptyRelease p.2.1.toNat = none ∧ fullEmptyWrites p.2.1.toNat = p.2.2
    ∧ ∀ y : SpWord, fullEmptyMay p.2.1.toNat y = y.full
      ∧ ∀ v bad, y.full = true → fullEmptyWord p.2.1.toNat y v bad = { y with full := !p.2.2 } := by
  intro p hp
  fin_cases hp
  all_goals
    refine ⟨rfl, rfl, fun y => ⟨?_, fun v bad h => ?_⟩⟩
    · simp [fullEmptyMay, waitsFull, waitsEmpty]
    · simp [fullEmptyWord, ← h]

/-- A full/empty store releases, waits for an empty word if it is `ste`, and fills the word. -/
theorem fullStores_form : ∀ p ∈ fullStores, fullEmptyRelease p.2.1.toNat = releaseOf p.2.1
    ∧ fullEmptyWrites p.2.1.toNat = true
    ∧ ∀ y : SpWord, fullEmptyMay p.2.1.toNat y = (!p.2.2 || !y.full)
      ∧ ∀ v bad, fullEmptyWord p.2.1.toNat y v bad = ⟨v, true, bad⟩ := by
  intro p hp
  fin_cases hp
  all_goals
    refine ⟨rfl, rfl, fun y => ⟨?_, fun v bad => ?_⟩⟩
    · simp [fullEmptyMay, waitsFull, waitsEmpty]
    · simp [fullEmptyWord]

/-! ## A full/empty form on an own word (R97, R98, R249) -/

/-- The destination of a full/empty form, if it has one, receives what the form returns. -/
def State.returns (s : State) (dst : Option (BitVec 6)) (r : Cell64) : State :=
  match dst with
  | some d => s.setMe (s.me.result .B d r)
  | none => s

section
variable {s : State} {g : Guard} {d b : BitVec 6} {o : BitVec 8} {word : BitVec 32} {x : W64} {off : Nat} {ns : Bool}
  (hb : s.reads b x) (hx : aimWord s ⟨.B, word⟩ (addressOf x o 8) 8 = .ok (s.here, off, ns))
include hb hx

/-- It performs on the word, once what comes before it counts as performed, or waits for the word. -/
theorem fullEmpty_own {op : Nat} {dst src : Option (BitVec 6)} (hs : ∀ a ∈ src, available s a = true)
    (hd : ∀ d ∈ dst, s.definable .B d)
    (hl : s.localReady (fullEmptyRelease op) (fullEmptyWrites op) off 8 = true) :
    let y := s.me.view.word (off / 8)
    let u := s.ordered (fullEmptyRelease op)
    let v := src.elim Cell64.zero (source s)
    fullEmpty s ⟨.B, word⟩ op dst src b o = if fullEmptyMay op y = true
      then .ok ((u.setMe (u.me.putWord (off / 8) (fullEmptyWord op y v.val v.poison))).returns dst ⟨y.data, y.poison, none⟩)
      else waitHere s ⟨.B, word⟩ 0 (addressOf x o 8) := by
  intro y u v
  have hu := ordered_marked s (fullEmptyRelease op)
  unfold fullEmpty
  rw [ready_ok.mpr ?regs, operand_known _ hb]
  case regs =>
    refine Bool.and_eq_true_iff.mpr ⟨Bool.and_eq_true_iff.mpr ⟨available_known hb, ?_⟩, ?_⟩
    · cases src with
      | none => rfl
      | some a => exact hs a rfl
    · cases dst with
      | none => rfl
      | some d => exact Bool.and_eq_true_iff.mpr (hd d rfl)
  show (aimWord s _ (addressOf x o 8) 8 >>= _) = _
  rw [hx]
  refine (if_pos rfl).trans ?_
  show (s.localOrder (fullEmptyRelease op) (fullEmptyWrites op) off 8 >>= _) = _
  rw [localOrder_ready hl]
  show (if (!fullEmptyMay op (u.me.view.word (off / 8))) = true then waitHere u _ _ _ else _) = _
  rw [hu.view, hu.waitHere]
  cases hm : fullEmptyMay op y with
  | true =>
    cases src with
    | none => cases dst with
      | none => rfl
      | some d => rfl
    | some a => cases dst with
      | none => rfl
      | some d => rfl
  | false => rfl

variable (hg : s.me.guarded g = true)
include hg

theorem fullLoad_own {p : Addressed × BitVec 7 × Bool} (hp : p ∈ fullLoads) (he : (p.1 g d b o).encode = some word)
    (hd : s.definable .B d) (hl : s.localReady none p.2.2 off 8 = true) :
    let y := s.me.view.word (off / 8)
    let u := s.ordered none
    exec (p.1 g d b o) s = if y.full
      then .next (u.setMe ((u.me.putWord (off / 8) { y with full := !p.2.2 }).result .B d ⟨y.data, y.poison, none⟩))
      else finish s (waitHere s ⟨.B, word⟩ 0 (addressOf x o 8)) := by
  intro y u
  obtain ⟨hrel, hwr, hform⟩ := fullLoads_form p hp
  obtain ⟨hmay, hword⟩ := hform y
  rw [fullLoads_exec s g p hp d b o he, runSlot_true _ hg, fullEmpty_own hb hx (src := none) nofun (dst := some d)
    (fun _ e => Option.some.inj e ▸ hd) (by rw [hrel, hwr]; exact hl), hmay]
  cases hy : y.full with
  | true =>
    rw [if_pos rfl, hrel, hword _ _ hy]
    simp only [finish, State.returns, State.me_setMe, State.setMe_setMe]
    rfl
  | false => rfl

theorem fullStore_own {p : Addressed × BitVec 7 × Bool} (hp : p ∈ fullStores) (he : (p.1 g d b o).encode = some word)
    (hd : available s d = true) (hl : s.localReady (releaseOf p.2.1) true off 8 = true) :
    let y := s.me.view.word (off / 8)
    let u := s.ordered (releaseOf p.2.1)
    exec (p.1 g d b o) s = if p.2.2 && y.full then finish s (waitHere s ⟨.B, word⟩ 0 (addressOf x o 8))
      else .next (u.setMe (u.me.putWord (off / 8) ⟨(source s d).val, true, (source s d).poison⟩)) := by
  intro y u
  obtain ⟨hrel, hwr, hform⟩ := fullStores_form p hp
  obtain ⟨hmay, hword⟩ := hform y
  rw [fullStores_exec s g p hp d b o he, runSlot_true _ hg, fullEmpty_own hb hx (src := some d)
    (fun _ e => Option.some.inj e ▸ hd) (dst := none) nofun (by rw [hrel, hwr]; exact hl), hmay, hrel, hword]
  cases p.2.2 with
  | true => cases y.full with
    | true => rfl
    | false => rfl
  | false => rfl

theorem fullBit_own {p : (Guard → BitVec 6 → BitVec 8 → Instr) × Bool} (hp : p ∈ [(Instr.feset, true), (.feclr, false)])
    (he : (p.1 g b o).encode = some word) (hl : s.localReady none true off 8 = true) :
    let y := s.me.view.word (off / 8)
    let u := s.ordered none
    exec (p.1 g b o) s = .next (u.setMe (u.me.putWord (off / 8) { y with full := p.2 })) := by
  fin_cases hp
  all_goals
    cases he
    refine (runSlot_true _ hg).trans ?_
    rw [fullEmpty_own hb hx (src := none) nofun (dst := none) nofun ?_]
    · rfl
    · exact hl

end

/-! ## Full/empty forms at a bank (R97) -/

theorem fullEmptyMay_iff {op : Nat} (h : 0x4C ≤ op) (y : SpWord) : fullEmptyMay op y = true ↔ fitsWord op y := by
  simp only [fullEmptyMay, waitsFull, waitsEmpty, fitsWord, Bool.and_eq_true, Bool.or_eq_true]
  grind

/-- A form that performs leaves the word as R97 says. -/
theorem fullEmptyWord_eq {op : Nat} {y : SpWord} (h : op ≤ 0x55) (hy : fitsWord op y) (v : W64) (bad : Bool) :
    fullEmptyWord op y v bad = wordAfter op y v bad := by
  obtain ⟨hfull, -⟩ := hy
  cases y
  unfold fullEmptyWord wordAfter
  split_ifs
  all_goals
    simp only [SpWord.mk.injEq]
    grind

/-! ## Withdrawals and retries (R74, R99) -/

section
variable {s : State} {id : Nat} {a : Acc} {op : BitVec 7} {k off : Nat}
  (ha : (s.accs.find? fun x => x.id == id && x.held) = some a) (hl : (s.coreOf a.part a.core).limit = true)
  (hk : a.kind = .fullEmpty op) (ht : a.target = .spad k off)
include hk ht

theorem granted_fullEmpty (t : State) : t.granted a = (a.phase == Phase.parked
    && fullEmptyMay op.toNat (t.bankWord a.part k (off / 8)) && !t.servedFirst a.part k off t.accs a.id) := by
  simp only [State.granted, hk, ht]

include ha hl

/-- The withdrawal of an access that has not performed, once those parked before it on its word have come. -/
theorem withdraw_unperformed {t : State} (hp : a.phase = .sent ∨ a.phase = .retry ∨ a.phase = .parked)
    (hs : (if a.phase == Phase.parked then (s.parkedBefore a).foldl State.bankStep s else s) = t) :
    s.withdraw id = if t.granted a then t.fullEmptyHere { a with since := t.now } op.toNat k off
      else t.setAcc { a with phase := .refused 1, since := t.now } := by
  have hbank : t.atBank { a with since := t.now } k off = t.fullEmptyHere { a with since := t.now } op.toNat k off := by
    simp only [State.atBank, hk]
  have hpark : t.unpark a = t := by simp only [State.unpark, hk, ht]
  rw [← hbank]
  unfold State.withdraw
  simp only [ha, hl, hs, hpark, ht]
  obtain hp | hp | hp := hp
  all_goals
    rw [hp]
    rfl

end

/-- An access that performs leaves its word so and returns what it found. -/
theorem fullEmptyHere_fits {s : State} {a : Acc} {op k off : Nat} (h1 : 0x4C ≤ op) (h2 : op ≤ 0x55)
    (hfirst : (a.phase == Phase.parked && s.servedFirst a.part k off s.accs a.id) = false)
    (hy : fitsWord op (s.bankWord a.part k (off / 8))) : s.fullEmptyHere a op k off
      = (s.setBankWord a.part k (off / 8) (wordAfter op (s.bankWord a.part k (off / 8)) a.data a.poison)).performed a
          (s.bankWord a.part k (off / 8)).data (s.bankWord a.part k (off / 8)).poison 0 := by
  rw [State.fullEmptyHere, hfirst, if_neg Bool.false_ne_true, if_pos ((fullEmptyMay_iff h1 _).mpr hy),
    fullEmptyWord_eq h2 hy]

/-- Settles O19: a form on an own word by the word that it finds there, and a withdrawal by what has become of the word once
those before it have come. -/
theorem fullEmptyWords : Obligations.FullEmptyWords := by
  unfold Obligations.FullEmptyWords
  refine ⟨fun s g d b o word x off ns hg hb hx => ⟨fun p hp he hd hl => ⟨fun hy => ?_, fun hy hlim => ?_⟩,
      fun p hp he hd hl => ⟨fun hy => ?_, fun hw hy hlim => ?_⟩, fun p hp he hl => fullBit_own hb hx hg hp he hl⟩,
    fun s id a => ⟨fun op k off ha hlim hk ht h1 h2 => ?_, fun ha => ?_⟩,
    fun s g d b o word x off ns hg hb hx hlim => ⟨fun p hp he hd hl hy => ?_, fun p hp hw he hd hl hy => ?_⟩⟩
  · rw [fullLoad_own hb hx hg hp he hd hl, if_pos hy]
  · rw [fullLoad_own hb hx hg hp he hd hl, hy, waitHere, hlim]
    rfl
  · rw [fullStore_own hb hx hg hp he hd hl, if_neg (by simpa [imp_iff_not_or] using hy)]
  · rw [fullStore_own hb hx hg hp he hd hl, hw, hy, waitHere, hlim]
    rfl
  · intro t y
    have hid : a.id = id := by
      have hx := List.find?_some ha
      exact beq_iff_eq.mp (Bool.and_eq_true_iff.mp hx).1
    have hw := fun hp => withdraw_unperformed (t := t) ha hlim hk ht hp (by simp [t])
    have hgrant := granted_fullEmpty hk ht t
    refine ⟨fun hp => congrArg Host.Outcome.next ?_, fun hp hy hfirst => congrArg Host.Outcome.next ?_⟩
    · have hno : t.granted a = false := by
        rw [hgrant]
        obtain hp | hp | ⟨hp, hy⟩ := hp
        · simp [hp]
        · simp [hp]
        · rw [Bool.eq_false_iff.mpr (mt (fullEmptyMay_iff h1 _).mp hy), Bool.and_false, Bool.false_and]
      rw [hw (by tauto), hno]
      rfl
    · have hyes : t.granted a = true := by
        rw [hgrant, hid, hfirst, (fullEmptyMay_iff h1 _).mpr hy, hp]
        rfl
      rw [hw (.inr (.inr hp)), hyes, if_pos rfl]
      exact (fullEmptyHere_fits (a := { a with since := t.now }) h1 h2 (by simp [hid, hfirst]) hy).trans rfl
  · exact congrArg Host.Outcome.next (by simp [State.resend, ha])
  · rw [fullLoad_own hb hx hg hp he hd hl, hy, waitHere, hlim]
    rfl
  · rw [fullStore_own hb hx hg hp he hd hl, hw, hy, waitHere, hlim]
    rfl

end Sys2Proof.Machine
end

section
namespace Sys2Proof.Machine

/-! ## An access at a scratchpad bank (R74, R97, R112, R257, R261) -/

/-- An access that reaches its bank does there what it is for, once what comes before it counts as performed. -/
theorem bankStep_sent {s : State} {id k off : Nat} {a : Acc}
    (ha : (s.accs.find? fun x => x.id == id && (x.phase == Phase.sent || x.phase == Phase.parked)) = some a)
    (hp : a.phase = .sent) (ht : a.target = .spad k off) (hmay : s.mayPerform a = true) {b : Acc}
    (hb : { a with since := if a.out then a.since else s.now, out := true } = b) (hpath : s.noPath b = false)
    (hworld : b.targets.any (s.refusedAt b.ns) = false) : s.bankStep id = (s.keepOrderOf b).atBank b k off := by
  cases a
  cases hp
  cases ht
  subst hb
  have hpark : (Phase.sent == Phase.parked) = false := rfl
  simp only [State.bankStep, ha, hmay, hpark, hpath, hworld, Bool.false_and, Bool.not_true, Bool.false_eq_true, if_false]

/-- A full/empty form that finds its word in the wrong state is parked, or returned when its bank has 64 (R74). -/
theorem fullEmptyHere_waits {u : State} {b : Acc} {op k off : Nat} (h : 0x4C ≤ op) (hp : b.phase = .sent)
    (hi : u.inImage b.part k = false) (hy : ¬fitsWord op (u.bankWord b.part k (off / 8))) :
    u.fullEmptyHere b op k off = u.park b (decide (u.parkedAt b.part k (off / 8) < 64)) := by
  have hpark : (b.phase == Phase.parked) = false := by rw [hp]; rfl
  have hmay : fullEmptyMay op (u.bankWord b.part k (off / 8)) = false :=
    Bool.eq_false_iff.mpr (mt (fullEmptyMay_iff h _).mp hy)
  simp only [State.fullEmptyHere, hpark, hmay, hi, Bool.false_and, Bool.not_false, Bool.true_and, Bool.false_eq_true,
    if_false]

/-- The registers of a core once the future at a word has received its state and value (R261). -/
def Arch.resolved (r : Arch) (w state : Nat) (v : W64) : Arch :=
  let t := r.setWord w { r.word w with data := setField (r.word w).data 62 2 state }
  t.setWord (w + 1) { t.word (w + 1) with data := v, poison := false }

theorem Arch.resolved_state (r : Arch) (w state : Nat) (v : W64) :
    ((r.resolved w state v).word w).data = setField (r.word w).data 62 2 state := by
  rw [Arch.resolved, Arch.word_setWord_ne _ _ (Nat.ne_of_lt (Nat.lt_succ_self w)), Arch.word_setWord_self]

theorem Arch.resolved_value (r : Arch) (w state : Nat) (v : W64) : ((r.resolved w state v).word (w + 1)).data = v := by
  rw [Arch.resolved, Arch.word_setWord_self]

/-- A future of a core resolved: it has its state and value, and an armed one has sent a decrement of its join word
(R261). -/
def State.resolved (u : State) (p k off state : Nat) (v : W64) (src ord : Nat) : State :=
  let y := (u.core k).r.word (off / 8)
  let t := u.setCore k { u.core k with r := (u.core k).r.resolved (off / 8) state v }
  if field y.data 62 2 = 1
  then t.sendDecrement p (BitVec.ofNat 64 (field y.data 0 57)) (clusterOf k) (u.cluster (clusterOf k)).ns src ord
  else t

theorem State.resolved_core (u : State) (p k off state : Nat) (v : W64) (src ord : Nat) :
    (u.resolved p k off state v src ord).core k = { u.core k with r := (u.core k).r.resolved (off / 8) state v } := by
  unfold State.resolved
  dsimp only
  split
  · exact State.core_setCore_self ..
  · exact State.core_setCore_self ..

theorem State.resolved_frame (u : State) (p k off state : Nat) (v : W64) (src ord : Nat) :
    let t := u.resolved p k off state v src ord
    t = { u.setCore k (t.core k) with decs := t.decs, fresh := t.fresh } := by
  intro t
  rw [show t.core k = _ from State.resolved_core ..]
  unfold t State.resolved
  dsimp only
  split
  · rfl
  · rfl

theorem State.resolved_decs {u : State} {k off : Nat} (h : field ((u.core k).r.word (off / 8)).data 62 2 < 2)
    (p state : Nat) (v : W64) (src ord : Nat) : (u.resolved p k off state v src ord).decs.length
      = u.decs.length + field ((u.core k).r.word (off / 8)).data 62 2 := by
  unfold State.resolved
  dsimp only
  split
  · simp_all [State.sendDecrement]
  · rw [show field ((u.core k).r.word (off / 8)).data 62 2 = 0 by omega]
    rfl

/-- What resolving a future does: its state and value are written, and one decrement is sent if it was armed. -/
theorem State.resolved_does {u : State} {k off : Nat} (h : field ((u.core k).r.word (off / 8)).data 62 2 < 2)
    (p state : Nat) (v : W64) (src ord : Nat) :
    let y := (u.core k).r.word (off / 8)
    let t := u.resolved p k off state v src ord
    ((t.core k).r.word (off / 8)).data = setField y.data 62 2 state ∧ ((t.core k).r.word (off / 8 + 1)).data = v
      ∧ t.decs.length = u.decs.length + field y.data 62 2
      ∧ t = { u.setCore k (t.core k) with decs := t.decs, fresh := t.fresh } := by
  intro y t
  refine ⟨?_, ?_, State.resolved_decs h .., State.resolved_frame ..⟩
  · rw [State.resolved_core]
    exact Arch.resolved_state ..
  · rw [State.resolved_core]
    exact Arch.resolved_value ..

/-- A barrier of a core replaced. -/
def State.withBarrier (u : State) (k : Nat) (i : Fin 32) (z : Barrier) : State :=
  u.setCore k { u.core k with r := { (u.core k).r with bar := (u.core k).r.bar.set i z } }

/-- The accesses once those that wait at a barrier of a core, or of an image of it, are released (R112). -/
def State.released (u : State) (p k i : Nat) : List Acc :=
  u.accs.map fun z =>
    if z.phase == .parked && z.target == .spad k i && (z.kind == .await || z.kind == .sync)
      && (u.imageOf z.part k == u.imageOf p k)
    then { z with phase := .done 0 false 0, since := u.now } else z

/-- Of those that waited there, none is parked any more. -/
theorem State.released_waits {u : State} {p k i : Nat} {z : Acc} (hz : z ∈ u.released p k i) (ht : z.target = .spad k i)
    (hk : z.kind = .await ∨ z.kind = .sync) (hi : u.imageOf z.part k = u.imageOf p k) : z.phase ≠ .parked := by
  obtain ⟨w, -, hwz⟩ := List.mem_map.mp hz
  split at hwz
  · subst hwz
    exact nofun
  · rename_i hw
    subst hwz
    intro hp
    exact hw (by simp [hp, ht, hi, hk])

section
variable {u : State} {p k : Nat} (hi : u.inImage p k = false)
include hi

theorem bankWord_of_not_inImage (w : Nat) : u.bankWord p k w = (u.core k).r.word w := by
  rw [State.bankWord, coreOf_of_not_inImage hi]

theorem setBankWord_of_not_inImage (w : Nat) (y : SpWord) :
    u.setBankWord p k w y = u.setCore k { u.core k with r := (u.core k).r.setWord w y } := by
  rw [State.setBankWord, coreOf_of_not_inImage hi, setCoreOf_of_not_inImage hi]

/-- A future resolved is one that was not yet; an armed one sends a decrement of its join word (R261). -/
theorem resolve_eq (off state : Nat) (v : W64) (src ord : Nat) : u.resolve p k off state v src ord
    = if 2 ≤ field ((u.core k).r.word (off / 8)).data 62 2 then none else some (u.resolved p k off state v src ord) := by
  have ht (c : Core) : (u.setCore k c).inImage p k = false := hi
  simp only [State.resolve, bankWord_of_not_inImage hi, setBankWord_of_not_inImage hi, bankWord_of_not_inImage (ht _),
    setBankWord_of_not_inImage (ht _), State.core_setCore_self, State.setCore_setCore]
  rfl

/-- An arrival at a barrier of the core (R257): MISUSE, one that is counted, or one that ends the phase and releases
those that wait there. -/
theorem arriveAt_eq {x : Barrier} (i : Fin 32) (hx : (u.core k).r.bar[i] = x) (n : BitVec 16) :
    u.arriveAt p k i n = if n = 0 ∨ x.expect ≠ 0 ∧ n ≠ x.expect then none
      else some (x.phase, if x.arrived + 1 = n
        then { u.withBarrier k i ⟨!x.phase, 0, 0, 0⟩ with accs := u.released p k i.val }
        else u.withBarrier k i { x with expect := n, arrived := x.arrived + 1 }) := by
  subst hx
  simp only [State.arriveAt, coreOf_of_not_inImage hi, setCoreOf_of_not_inImage hi]
  by_cases h : n = 0 ∨ (u.core k).r.bar[i].expect ≠ 0 ∧ n ≠ (u.core k).r.bar[i].expect
  · rw [if_pos h, if_pos (by simpa using h)]
  · rw [if_neg h, if_neg (by simpa using h)]
    split
    · rfl
    · rfl

end

/-- Settles O53: what the bank does with an access by its kind and by the word or the barrier that it finds. -/
theorem scratchpadAccesses : Obligations.ScratchpadAccesses := by
  unfold Obligations.ScratchpadAccesses
  intro s id k off a ha hp ht hmay hin b hpath hworld u y become replied
  have hid := List.find?_some ha
  obtain rfl : a.id = id := beq_iff_eq.mp (Bool.and_eq_true_iff.mp hid).1
  have hbank : exec (.remoteScratchpadAccess a.id) s = .next (u.atBank b k off) :=
    congrArg Host.Outcome.next (bankStep_sent ha hp ht hmay rfl hpath hworld)
  have hi : u.inImage b.part k = false := (inImage_keepOrder ..).trans hin
  have hb : b.phase = .sent := hp
  have hy : u.bankWord b.part k (off / 8) = y := bankWord_of_not_inImage hi _
  rw [hbank]
  refine ⟨fun op hk h1 h2 => ?_, fun hk => ?_, fun i hk hoff => ?_⟩
  · have hat : u.atBank b k off = u.fullEmptyHere b op.toNat k off := by
      simp only [State.atBank, show b.kind = _ from hk]
    have hfirst : (b.phase == Phase.parked && u.servedFirst b.part k off u.accs b.id) = false := by
      rw [hb]
      rfl
    rw [hat]
    refine ⟨fun hfit => ?_, fun hfit hroom => ?_, fun hfit hfull => ?_⟩
    · rw [fullEmptyHere_fits h1 h2 hfirst (hy.symm ▸ hfit), hy, setBankWord_of_not_inImage hi]
      rfl
    · rw [fullEmptyHere_waits h1 hb hi (hy.symm ▸ hfit), decide_eq_true hroom]
      rfl
    · rw [fullEmptyHere_waits h1 hb hi (hy.symm ▸ hfit), decide_eq_false (Nat.not_lt.mpr hfull)]
      rfl
  · have hres := resolve_eq hi off (if b.data2 = 3 then 3 else 2) b.data b.core (b.ord + if b.data2 = 4 then 1 else 0)
    refine ⟨fun hopen => ?_, fun hdone => ?_⟩
    · rw [if_neg (Nat.not_le.mpr hopen)] at hres
      refine ⟨_, congrArg Host.Outcome.next ?_, State.resolved_does hopen b.part (if b.data2 = 3 then 3 else 2) b.data
        b.core (b.ord + if b.data2 = 4 then 1 else 0)⟩
      simp only [State.atBank, show b.kind = _ from hk, hres]
      rfl
    · rw [if_pos hdone] at hres
      refine congrArg Host.Outcome.next ?_
      simp only [State.atBank, show b.kind = _ from hk, hres]
      rfl
  · have hat : u.atBank b k off = u.barrierArrive b k off := by
      simp only [State.atBank, show b.kind = _ from hk]
    intro x n barred
    have hsync : (b.kind == .sync) = false := by
      rw [show b.kind = _ from hk]
      rfl
    have hcode (ph : Bool) : BitVec.ofNat 64 (ofBool ph) = if ph then 1 else 0 := by
      cases ph with
      | true => rfl
      | false => rfl
    have hbar : (BitVec.ofNat 5 off).toFin = i := by
      rw [hoff]
      exact Fin.ext (Nat.mod_eq_of_lt i.isLt)
    have harr := arriveAt_eq hi i (x := x) rfl n
    rw [hat, State.barrierArrive, hbar]
    refine ⟨fun hmis => ?_, fun hn hexp => ?_⟩
    · rw [harr, if_pos hmis]
      rfl
    · rw [if_neg (by tauto)] at harr
      refine ⟨fun hmore => ?_, fun hends => ⟨{ barred ⟨!x.phase, 0, 0, 0⟩ with accs := u.released b.part k i.val }, ?_,
        rfl, fun z hz htz hkz hiz => ?_⟩⟩
      · rw [harr, if_neg hmore]
        simp only [hsync, hcode]
        rfl
      · rw [harr, if_pos hends]
        simp only [hsync, hcode]
        rfl
      · have hnone : u.imageOf z.part k = none := imageOf_of_not_inImage ((inImage_keepOrder ..).trans hiz)
        rw [ht, hoff] at htz
        exact State.released_waits hz htz hkz (hnone.trans (imageOf_of_not_inImage hi).symm)

end Sys2Proof.Machine
end

section
namespace Sys2Proof.Machine

/-! ## Links, tokens and soft errors (R70, R72, R73, R76, R79, R102) -/

theorem getLsbD_setLink (x : BitVec 256) {n : Nat} (hn : n < 256) (b : Bool) :
    ∀ j < 256, (setLink x n b).getLsbD j = if j = n then b else x.getLsbD j := by
  intro j hj
  have hbit : (BitVec.twoPow 256 n).getLsbD j = decide (j = n) := by
    rw [BitVec.getLsbD_twoPow, decide_eq_true hn, Bool.true_and]
    exact Bool.decide_congr eq_comm
  cases b with
  | true =>
    rw [setLink, if_pos rfl, BitVec.getLsbD_or, hbit]
    split <;> simp [*]
  | false =>
    rw [setLink, if_neg Bool.false_ne_true, BitVec.getLsbD_and, BitVec.getLsbD_not, hbit]
    split <;> simp [*]

theorem lt_of_isLink {u link : Nat} (h : isLink u link = true) : link < 256 := by
  unfold isLink at h
  grind

/-- No link joins a unit to itself. -/
theorem neighbour_ne {u link v : Nat} (h : neighbour u link = some v) : v ≠ u := by
  unfold neighbour isLink at h
  grind

theorem toNat_ofNat_satAdd {w m : Nat} (h : m < 2 ^ w) (x : Nat) : (BitVec.ofNat w (satAdd m x 1)).toNat = min m (x + 1) :=
  Nat.mod_eq_of_lt (Nat.lt_of_le_of_lt (Nat.min_le_left ..) h)

section
variable {s : State} {u link : Nat} (h : isLink u link = true)
include h

theorem replayFlit_counts (hf : (s.fab u).failed.getLsbD link = false) : s.replayFlit u link = s.setFab u { s.fab u with
    replays := Table.put (s.fab u).replays link ((Table.look (s.fab u).replays link).getD 0 + 1) } := by
  simp only [State.replayFlit, h, hf, Bool.not_true, Bool.or_false, Bool.false_eq_true, if_false]

theorem failLink_failed (hr : 64 ≤ (Table.look (s.fab u).replays link).getD 0) :
    ((s.failLink u link).fab u).failed = setLink (s.fab u).failed link true := by
  unfold State.failLink
  dsimp only
  rw [if_neg (by simp [h, hr])]
  exact congrArg Fabric.failed (State.fab_setFab_self ..)

theorem retrain_training : ((s.retrain u link).fab u).training = setLink (s.fab u).training link true := by
  simp only [State.retrain, h, Bool.not_true, Bool.false_eq_true, if_false, State.fab_setFab_self]

end

theorem failLink_few {s : State} {u link : Nat} (hr : (Table.look (s.fab u).replays link).getD 0 < 64) :
    s.failLink u link = s := by
  simp [State.failLink, hr]

theorem endTraining_fab {s : State} {u link : Nat} (ht : (s.fab u).training.getLsbD link = true) (ok : Bool) :
    let x := ((s.endTraining u link ok).fab u)
    x.training = setLink (s.fab u).training link false
      ∧ x.failed = setLink (s.fab u).failed link (!ok || s.refusesLink u link) := by
  simp [State.endTraining, ht]

/-! ### Blocked heads and the token -/

theorem suspect_suspects (s : State) (u n : Nat) :
    ((s.suspect u n).fab u).suspects = (s.fab u).suspects ++ (s.fab u).timedOut n := by
  unfold State.suspect
  dsimp only
  split
  · rename_i h
    rw [List.isEmpty_iff.mp h, List.append_nil]
  · rw [State.fab_setFab_self]

theorem mem_timedOut {x : Fabric} {n b : Nat} : b ∈ x.timedOut n ↔ (routerOf b = n ∧ isLane b = false
    ∧ ∃ e ∈ x.blocked, e.1 = b ∧ x.timeout.toNat ≤ e.2.2) ∧ b ∉ x.suspects := by
  simp only [Fabric.timedOut, List.mem_map, List.mem_filter, Bool.and_eq_true, beq_iff_eq, Bool.not_eq_true',
    decide_eq_true_eq, List.contains_eq_mem, decide_eq_false_iff_not]
  constructor
  · rintro ⟨e, ⟨he, ⟨⟨hr, hl⟩, ht⟩, hs⟩, rfl⟩
    exact ⟨⟨hr, hl, e, he, rfl, ht⟩, hs⟩
  · rintro ⟨⟨hr, hl, e, he, rfl, ht⟩, hs⟩
    exact ⟨e, ⟨he, ⟨⟨hr, hl⟩, ht⟩, hs⟩, rfl⟩

/-- The unit that captures the token: a packet that crosses over enters another unit. -/
theorem capture_fab {s : State} {u n b : Nat} (ht : (s.fab u).token ≠ none) (hb : (s.fab u).oldest n = some b) :
    (s.capture u n).fab u = { s.fab u with
      suspects := (s.fab u).suspects.erase b
      blocked := Table.drop (s.fab u).blocked b
      token := some n
      dblpkt := BitVec.ofNat 32 (satAdd 0xFFFFFFFF (s.fab u).dblpkt.toNat 1) } := by
  obtain ⟨k, hk⟩ := Option.ne_none_iff_exists'.mp ht
  unfold State.capture
  simp only [hk, hb]
  split
  · rename_i v r ho
    have hv : u ≠ v := by
      unfold State.onward at ho
      dsimp only at ho
      split at ho
      · rename_i w hw
        obtain ⟨-, e⟩ := Option.ite_none_right_eq_some.mp ho
        cases e
        exact (neighbour_ne hw).symm
      · exact nomatch ho
    rw [State.fab_setFab_ne _ _ hv, State.fab_setFab_self]
  · exact State.fab_setFab_self ..

theorem regenerate_stands {s : State} {u : Nat}
    (h : (s.fab u).token ≠ none ∨ s.passed (s.fab u).passed < 4 * (Config.ringTrip u).toNat) : s.regenerate u = s := by
  unfold State.regenerate
  exact if_pos (by simpa [Option.isSome_iff_ne_none] using h)

theorem regenerate_fab {s : State} {u : Nat} (ht : (s.fab u).token = none)
    (h : 4 * (Config.ringTrip u).toNat ≤ s.passed (s.fab u).passed) : (s.regenerate u).fab u = { s.fab u with
      token := some 0
      epoch := !(s.fab u).epoch
      stale := true
      passed := s.now
      tokregen := BitVec.ofNat 16 (satAdd 0xFFFF (s.fab u).tokregen.toNat 1) } := by
  unfold State.regenerate
  dsimp only
  rw [if_neg (by simp [ht, h])]
  exact State.fab_setFab_self ..

/-! ### Soft errors -/

theorem spadError_word (s : State) {k w : Nat} (hw : w < 98304) (b : Bool) :
    s.spadError k w (if b then .fullBit else .data) = s.setCore k { s.core k with
      r := (s.core k).r.setWord w { (s.core k).r.word w with poison := true, full := ((s.core k).r.word w).full || b } } := by
  cases b with
  | true => simp [State.spadError, Nat.not_le.mpr hw]
  | false => simp [State.spadError, Nat.not_le.mpr hw]

theorem spadError_corrected (s : State) {k w : Nat} (hw : w < 98304) (hk : isCore k = true) :
    let t := s.spadError k w .corrected
    let count := fun (t : State) => field (getReg (t.chip (chipOf k)).secnt (dieOf k) 0) 0 32
    t = { s with chips := t.chips } ∧ count t = min 0xFFFFFFFF (count s + 1) := by
  have hdie : dieOf k < 5 := by
    unfold isCore at hk
    grind
  unfold State.spadError
  simp only [if_neg (Nat.not_le.mpr hw), if_true]
  refine ⟨rfl, ?_⟩
  rw [State.chip_setChip_self, getReg_setReg_self _ _ _ hdie, field_setField_self _ _ _ _ (by omega)]
  exact Nat.mod_eq_of_lt (Nat.lt_of_le_of_lt (Nat.min_le_left ..) (by omega))

/-! ## Rings (R85 to R92) -/

@[simp] theorem State.ring?_setRing_self (s : State) (n : Nat) (r : Ring) : (s.setRing n r).ring? n = some r :=
  Table.look_put_self ..

theorem postRing_ring? (s : State) (r : Ring) (n : Nat) : (s.postRing r).ring? n = s.ring? n := by
  unfold State.postRing
  split
  · rfl
  · rfl

theorem postRing_core (s : State) (r : Ring) (k : Nat) : (s.postRing r).core k = s.core k := by
  unfold State.postRing
  split
  · rfl
  · rfl

/-- A ring that is not released stays (R217). -/
theorem endRing_of_open {s : State} {n : Nat} {r : Ring} (h : s.ring? n = some r) (hc : r.closing = none) :
    s.endRing n = s := by
  have hnone : (none == some ([] : List Nat)) = false := rfl
  simp only [State.endRing, h, hc, hnone, Bool.false_and, Bool.false_eq_true, if_false]

/-- The flag of a slot landed or drained is posted, of a ring that stays, with no other change to it or to a core. -/
theorem endRing_posted {s : State} {n : Nat} {e : Ring} (h : s.ring? n = some e) (hc : e.closing = none) (r : Ring)
    (whole : Bool) : let t := (if whole then s.postRing r else s).endRing n
    (∀ k, t.core k = s.core k) ∧ t.ring? n = some e := by
  intro t
  cases whole with
  | true =>
    have hp : (s.postRing r).ring? n = some e := (postRing_ring? s r n).trans h
    have ht : t = s.postRing r := endRing_of_open hp hc
    exact ⟨ht ▸ postRing_core s r, ht ▸ hp⟩
  | false =>
    have ht : t = s := endRing_of_open h hc
    exact ⟨ht ▸ fun _ => rfl, ht ▸ h⟩

theorem setRingWord_of_not_inImage {s : State} {r : Ring} (hi : s.inImage r.part r.core = false) (w : Nat)
    (f : SpWord → SpWord) : s.setRingWord r w f
      = s.setCore r.core { s.core r.core with r := (s.core r.core).r.setWord w (f ((s.core r.core).r.word w)) } := by
  rw [State.setRingWord, coreOf_of_not_inImage hi, setCoreOf_of_not_inImage hi]

section
variable {s : State} {n : Nat} {r : Ring} (hr : s.ring? n = some r)
include hr

/-- The feeder of an IN ring takes the step that is chosen. -/
theorem landSlot_does {x : RingAct} (hm : r.mode < 2)
    (hx : (s.landActs n r)[pickFrom s.tick (s.landActs n r).length]? = some x) : s.landSlot n = s.landDo n r x := by
  simp only [State.landSlot, hr, if_neg (Nat.not_le.mpr hm), hx]

/-- The puller of an OUT ring takes the step that is chosen. -/
theorem drainSlot_does {x : RingAct} (hm : 2 ≤ r.mode)
    (hx : (s.drainActs r)[pickFrom s.tick (s.drainActs r).length]? = some x) : s.drainSlot n = s.drainDo n r x := by
  simp only [State.drainSlot, hr, if_neg (Nat.not_lt.mpr hm), hx]

end

/-! ### Words of slots in memory -/

/-- A word whose translations are at hand, whose pages are there and to which a path remains can be moved. -/
theorem ringWord_ready {s : State} {n : Nat} {r : Ring} {f : Flight} {j : Nat} {need : Need} {ps : List Piece}
    (hseek : s.seekRuns r.core (.ring n) r.owner [] (Machine.runs (r.slotVA f.slot + 8 * j) 8) = none)
    (hplan : s.planFor r.core r.owner need [] (Machine.runs (r.slotVA f.slot + 8 * j) 8) = ⟨ps, none⟩)
    (hps : s.absentIn ps = []) (hfree : s.ringFree r (ps.map fun x => (x.target, x.len)) (need == .store) = true)
    (hpath : ∀ x ∈ ps, s.pathTo r.core x.target = true) : s.ringWord n r f j need = .ok ps := by
  have hany : (ps.any fun x => !s.pathTo r.core x.target) = false :=
    List.any_eq_false.mpr fun x hx => by simp [hpath x hx]
  simp only [State.ringWord, hseek, hplan, hps, hfree, hany, Option.isSome_none, Bool.not_true, Bool.or_self,
    Bool.false_eq_true, if_false]

namespace AccessesKept

variable {s t : State}

theorem touchPages (h : AccessesKept s t) (ps : List Piece) : AccessesKept s (t.touchPages ps) := by
  refine foldl _ (fun {u} p hu => ?_) _ h
  split
  · split
    · exact hu.touch _ _
    · exact hu
  · exact hu

theorem noteFrames (h : AccessesKept s t) (k : Nat) (o : Owner) (ps : List Piece) :
    AccessesKept s (t.noteFrames k o ps) := by
  refine foldl _ (fun {u} p hu => ?_) _ h
  split
  · split
    · exact hu.noteFrame _ _ _ _ _
    · exact hu
  · exact hu

theorem servePiece (h : AccessesKept s t) (p : Piece) : AccessesKept s (t.servePiece p) := by
  unfold State.servePiece
  split
  · split
    · exact h.serve _ _
    · exact h
  · exact h

theorem servePieces (h : AccessesKept s t) (ps : List Piece) :
    AccessesKept s (ps.foldl (fun s x => s.servePiece x) t) := foldl _ (fun p hu => hu.servePiece p) ps h

end AccessesKept

/-- No piece of some is refused where the first refused is none. -/
theorem refusedAt_of_refusedIn {s : State} {ps : List Piece} (h : s.refusedIn ps = none) {p : Piece} (hp : p ∈ ps) :
    s.refusedAt p.ns p.target = false := by
  have hnone := List.find?_eq_none.mp (Option.map_eq_none_iff.mp h) p hp
  simpa using hnone

/-- A word of one run of memory that is read leaves memory as it is, and the slot holds it with its poison. -/
theorem readRing_memory {s : State} {n : Nat} {r : Ring} {f : Flight} {j ma : Nat} {ps : List Piece}
    (hw : s.ringWord n r f j .load = .ok ps) (hps : ps.map (fun x => (x.target, x.len)) = [(Target.mem ma, 8)])
    (hok : s.refusedIn ps = none) : (s.readRing n r f j).mem = s.mem
      ∧ (s.readRing n r f j).ring? n = some (r.setFlight { f.setWord j (some (.held
          (BitVec.ofNat 64 (ofBytes (Memory.bytes s.mem ma 8))) ((List.range 8).any fun q => s.badBeat (ma + q)))) with
        refused := f.refused }) := by
  obtain ⟨p, rfl, hp⟩ := List.map_eq_singleton_iff.mp hps
  obtain ⟨ht, hlen⟩ := Prod.mk.inj hp
  have hmem := (((AccessesKept.self s).touchPages [p]).noteFrames r.core r.owner [p]).servePieces [p]
  have hno := refusedAt_of_refusedIn hok (List.mem_singleton_self p)
  rw [ht] at hno
  unfold State.readRing
  simp only [hw, hok, ht, hlen, hno, List.flatMap_cons, List.flatMap_nil, List.append_nil, map_fst_memData, any_snd_memData,
    Option.isSome_none, Bool.or_false, Bool.false_eq_true, if_false]
  exact ⟨hmem.mem, State.ring?_setRing_self ..⟩

/-- A word that is written to memory goes there as pieces do, and the slot has it written. -/
theorem putMemory_writes {s u : State} {n : Nat} {r : Ring} {f : Flight} {j : Nat} {v : W64} {bad : Bool} {ps : List Piece}
    (hw : s.ringWord n r f j .store = .ok ps) (hu : s.readyPages ps = .ok u) (hok : u.refusedIn ps = none) :
    (s.putMemory n r f j v bad).mem = ((ps.foldl (fun s x => s.servePiece x) (u.noteFrames r.core r.owner ps)).writePieces
        r.owner ps ((toBytes 8 v.toNat).map fun y => (y, bad))).mem
      ∧ (s.putMemory n r f j v bad).ring? n
        = some (r.setFlight { f.setWord j (some .written) with refused := f.refused }) := by
  unfold State.putMemory
  simp only [hw, hu, hok, Option.isSome_none, Bool.or_false]
  exact ⟨rfl, State.ring?_setRing_self ..⟩

/-! ### Words of slots at home -/

theorem word_setCore_setWord (s : State) (k w : Nat) (y : SpWord) :
    ((s.setCore k { s.core k with r := (s.core k).r.setWord w y }).core k).r.word w = y := by
  rw [State.core_setCore_self]
  exact Arch.word_setWord_self ..

/-- What is written at home is a word of the ring's scratchpad, and the ring with what the write leaves of its flights. -/
theorem setCore_setRing_word (s : State) (n k w : Nat) (y : SpWord) (e r : Ring) (he : e.closing = none) (whole : Bool) :
    let u := (s.setCore k { s.core k with r := (s.core k).r.setWord w y }).setRing n e
    let t := (if whole then u.postRing r else u).endRing n
    (t.core k).r.word w = y ∧ t.ring? n = some e := by
  intro u t
  obtain ⟨hcore, hring⟩ := endRing_posted (State.ring?_setRing_self _ n e) he r whole
  refine ⟨?_, hring⟩
  rw [hcore]
  exact word_setCore_setWord s k w y

section
variable {s : State} {n : Nat} {r : Ring} {slot j : Nat} {f : Flight} (hc : r.closing = none)
  (hi : s.inImage r.part r.core = false)
include hc hi

/-- A word put in its home slot is full there; with the last word of its slot the flight is over (R87). -/
theorem landDo_put {v : W64} {bad : Bool} (hf : r.flight slot = some f)
    (hv : (f.words.find? fun w => w.1 == j) = some (j, .held v bad))
    (hfree : s.ringFree r [(.spad r.core (8 * r.wordOf slot j), 8)] true = true)
    (hpath : s.pathTo r.core (.spad r.core (8 * r.wordOf slot j)) = true)
    (hok : s.refusedAt r.ns (.spad r.core (8 * r.wordOf slot j)) = false) :
    let g := f.setWord j (some .written)
    let t := s.landDo n r (.put slot j)
    (t.core r.core).r.word (r.wordOf slot j) = ⟨v, true, bad⟩
      ∧ t.ring? n = some (if g.words.all fun w => w.2 == .written then r.endFlight slot else r.setFlight g) := by
  intro g t
  have ht := setCore_setRing_word s n r.core (r.wordOf slot j) ⟨v, true, bad⟩
    (if g.words.all fun w => w.2 == .written then r.endFlight slot else r.setFlight g) r ?_
    (g.words.all fun w => w.2 == .written)
  · simp only [t, State.landDo, hf, State.putHome, hv, hfree, hpath, hok, setRingWord_of_not_inImage hi, Bool.not_true,
      Bool.or_self, Bool.false_eq_true, if_false]
    exact ht
  · split
    · exact hc
    · exact hc

/-- A word made empty is as it was but for its bit; with the last of its slot the flight is over (R88). -/
theorem drainDo_empty (hf : r.flight slot = some f) :
    let t := s.drainDo n r (.empty slot j)
    (t.core r.core).r.word (r.wordOf slot j) = { (s.core r.core).r.word (r.wordOf slot j) with full := false }
      ∧ t.ring? n = some (if (f.setWord j none).words = [] then r.endFlight slot else r.setFlight (f.setWord j none)) := by
  intro t
  simp only [t, State.drainDo, hf, setRingWord_of_not_inImage hi, List.isEmpty_iff]
  by_cases he : (f.setWord j none).words = []
  · simp only [if_pos he]
    exact setCore_setRing_word s n r.core (r.wordOf slot j) _ (r.endFlight slot) r hc true
  · simp only [if_neg he]
    exact ⟨word_setCore_setWord .., State.ring?_setRing_self ..⟩

end

/-! ### Enlargement (R90 to R92) -/

section
variable {s : State} {cl n : Nat} {r : Ring}
  (hcrew : (s.clusterRings cl).filter (fun x => x.2.crew.toNat == r.crew.toNat) = [(n, r)])
include hcrew

/-- Of the one ring that a crew has in a cluster, it is that ring which is enlarged. -/
theorem enlarge_only : s.enlarge cl r.crew.toNat = s.enlargeFor cl r.part r.crew.toNat := by
  simp only [State.enlarge, hcrew]
  rfl

theorem crewRings_only : s.crewRings cl r.part r.crew.toNat = [(n, r)] := by
  have hpart : s.crewRings cl r.part r.crew.toNat
      = ((s.clusterRings cl).filter fun x => x.2.crew.toNat == r.crew.toNat).filter fun x => x.2.part == r.part := by
    rw [List.filter_filter]
    exact congrArg (List.filter · _) (funext fun x => Bool.and_comm ..)
  rw [hpart, hcrew]
  simp

variable (hheld : s.heldBack n r = true) (hstill : s.stillNow cl r.part r.crew.toNat = true) {since : Nat}
  (hsince : Table.look (s.cluster cl).stalls (State.crewKey r.part r.crew.toNat) = some since)
  (hwait : since + 4096 ≤ s.leastWait r.part r.crew.toNat)
include hheld hstill hsince hwait

/-- A crew that has stood still for long has its ring enlarged, or RING_POOL_EXHAUSTED raised. -/
theorem enlargeFor_only :
    let u := s.setCluster cl { s.cluster cl with
      stalls := Table.put (s.cluster cl).stalls (State.crewKey r.part r.crew.toNat) (s.leastWait r.part r.crew.toNat) }
    s.enlargeFor cl r.part r.crew.toNat = if s.poolUsed cl + (r.nslot + r.extCap) * r.slotBytes ≤ State.poolBytes
      then u.setRing n { r with extCap := 2 * r.extCap + r.nslot }
      else u.pendKernel r.part r.core
        ⟨BitVec.ofNat 6 cRingPool, true, 0, false, 0, 0, 0, r.index.zeroExtend 8, BitVec.ofNat 64 (n % 512)⟩ := by
  intro u
  have hsmall : s.smallestHeld (s.crewRings cl r.part r.crew.toNat) = some (n, r) := by
    rw [crewRings_only hcrew]
    simp [State.smallestHeld, hheld]
  simp only [State.enlargeFor, hsince, hsmall, hstill, Nat.not_lt.mpr hwait, decide_false, Bool.not_true, Bool.or_self,
    Bool.false_eq_true, if_false]
  rfl

theorem enlargeFor_grows (hroom : s.poolUsed cl + (r.nslot + r.extCap) * r.slotBytes ≤ State.poolBytes) :
    (s.enlargeFor cl r.part r.crew.toNat).ring? n = some { r with extCap := 2 * r.extCap + r.nslot } := by
  rw [enlargeFor_only hcrew hheld hstill hsince hwait, if_pos hroom]
  exact State.ring?_setRing_self ..

theorem enlargeFor_raises (hfull : State.poolBytes < s.poolUsed cl + (r.nslot + r.extCap) * r.slotBytes)
    (hpend : (s.core r.core).pendK.length < 16) (hi : s.inImage r.part r.core = false) :
    let t := s.enlargeFor cl r.part r.crew.toNat
    ∃ x, (t.core r.core).pendK = (s.core r.core).pendK ++ [x] ∧ x.code = 0x27 ∧ t.rings = s.rings := by
  intro t
  have ht : t = _ := enlargeFor_only hcrew hheld hstill hsince hwait
  rw [if_neg (Nat.not_le.mpr hfull), pendKernel_core (by exact hi) (by exact hpend)] at ht
  exact ⟨_, ht ▸ congrArg Core.pendK (State.core_setCore_self ..), rfl, ht ▸ rfl⟩

end

/-! ### Slots that start, and moves out of an extension -/

section
variable {s : State} {n : Nat} {r : Ring}

theorem landDo_start_own (hm : r.mode = 0) : s.landDo n r .start = s.setRing n { r with
    next := r.next + 1, flights := r.flights ++ [r.newFlight r.next (!s.homeFree n r)] } := by
  simp only [State.landDo, if_pos hm]

theorem landDo_start_fed {m : Nat} {o : Ring} {f : Flight} (hm : r.mode = 1) (ho : s.feeder n = some (m, o))
    (hf : (o.flights.find? fun f => f.dest.isNone) = some f) : s.landDo n r .start = (s.setRing m (o.setFlight { f with
      dest := some r.next, toExt := !s.homeFree n r })).setRing n { r with next := r.next + 1 } := by
  simp only [State.landDo, hm, ho, hf, one_ne_zero, if_false]

theorem landDo_append {slot : Nat} {f : Flight} (hf : r.flight slot = some f) : s.landDo n r (.append slot)
    = s.setRing n { r.endFlight slot with ext := r.ext ++ [State.slotWordsOf f] } := by
  simp only [State.landDo, hf]

theorem drainDo_read {slot j : Nat} {f : Flight} (hf : r.flight slot = some f) (hi : s.inImage r.part r.core = false)
    (hfree : s.ringFree r [(.spad r.core (8 * r.wordOf slot j), 8)] false = true) :
    let x := (s.core r.core).r.word (r.wordOf slot j)
    s.drainDo n r (.read slot j) = s.setRing n (r.setFlight (f.setWord j (some (.held x.data x.poison)))) := by
  simp only [State.drainDo, hf, hfree, coreOf_of_not_inImage hi, Bool.not_true, Bool.false_eq_true, if_false]

theorem drainDo_put {slot j : Nat} {f : Flight} {v : W64} {bad : Bool} (hf : r.flight slot = some f)
    (hv : (f.words.find? fun w => w.1 == j) = some (j, .held v bad)) :
    s.drainDo n r (.put slot j) = s.putMemory n r f j v bad := by
  simp only [State.drainDo, hf, hv]

theorem drainDo_start {q : Nat} (hq : s.nextOut r = some q) : s.drainDo n r .start = s.setRing n { r with
    next := max r.next (q + 1), flights := r.flights ++ [r.newFlight q false], closing := r.closing.map (·.drop 1) } := by
  simp only [State.drainDo, hq]

theorem moveExtension_lands {d : List (W64 × Bool)} {rest : List (List (W64 × Bool))} (hr : s.ring? n = some r)
    (he : r.ext = d :: rest) (ho : s.isOut r.part = false) (hs : s.slotEmpty r (s.extHead n r) = true)
    (hq : s.homeQuiet n r (s.extHead n r) = true) : s.moveExtension n = s.setRing n { r with
      ext := rest
      flights := r.flights ++ [⟨s.extHead n r, none, false, d.mapIdx fun i w => (i, .held w.1 w.2), false⟩] } := by
  simp only [State.moveExtension, hr, he, ho, hs, hq, Bool.not_true, Bool.or_self, Bool.false_eq_true, if_false]

end

theorem subscribe_starts {s : State} {cl i : Nat} {r : Ring} (hr : s.ring? (ringKey cl i) = some r) (hm : r.mode = 0) :
    exec (.subscribe cl i) s = .next (s.setRing (ringKey cl i) { r with started := true }) := by
  change execSubscribe cl i s = _
  simp only [execSubscribe, hr, if_pos hm]

theorem pull_starts {s : State} {cl i : Nat} {r : Ring} (hr : s.ring? (ringKey cl i) = some r) (hm : r.mode = 2) :
    exec (.pull cl i) s = .next (s.setRing (ringKey cl i) { r with started := true }) := by
  change execPull cl i s = _
  simp only [execPull, hr, if_pos hm]

/-! ## The rings' and the fabric's events -/

/-- Settles O55: each event of a ring by the step that is chosen of its feeder or puller, and each event of a fabric unit
by what its registers hold. -/
theorem ringAndFabricEvents : Obligations.RingAndFabricEvents := by
  unfold Obligations.RingAndFabricEvents
  refine ⟨fun s cl i r => ?_, fun s u link hl => ⟨fun hf => ?_, fun hr => ⟨_, rfl, ?_⟩, fun hr => ?_, ⟨_, rfl, ?_⟩,
      fun ht ok => ⟨_, rfl, ?_, ?_⟩⟩,
    fun s u n => ⟨⟨_, rfl, fun b => ?_⟩, fun b ht hb => ⟨_, rfl, ?_⟩, fun hs => ?_, fun ht hp => ⟨_, rfl, ?_⟩⟩,
    fun s k w b hw hk => ⟨?_, _, rfl, spadError_corrected s hw hk⟩⟩
  · intro n lands drains home hr
    have hland {x : RingAct} (hx : lands x) : exec (.ringSlotLand cl i) s = .next (s.landDo n r x) :=
      congrArg Host.Outcome.next (landSlot_does hr hx.1 hx.2)
    have hdrain {x : RingAct} (hx : drains x) : exec (.ringSlotDrain cl i) s = .next (s.drainDo n r x) :=
      congrArg Host.Outcome.next (drainSlot_does hr hx.1 hx.2)
    refine ⟨subscribe_starts hr, pull_starts hr, fun hx => ⟨fun hm => ?_, fun m o f hm ho hf => ?_⟩,
      fun slot j f hf => ⟨fun need ps hseek hplan hps hfree hpath => ringWord_ready hseek hplan hps hfree hpath,
        fun ma ps hx hw hps hok => ⟨_, hland hx, ?_⟩,
        fun v bad hv hc hi hx hfree hpath hok => ⟨_, hland hx, landDo_put hc hi hf hv hfree hpath hok⟩,
        fun hx => ?_, fun hi hx hfree => ?_, fun v bad u ps hv hx hw hu hok => ⟨_, hdrain hx, ?_⟩,
        fun hc hi hx => ⟨_, hdrain hx, drainDo_empty hc hi hf⟩⟩,
      fun q hx hq => ?_, fun d rest he ho hs hq => congrArg Host.Outcome.next (moveExtension_lands hr he ho hs hq),
      fun since hcrew hheld hstill hsince hwait => ?_⟩
    · rw [hland hx, landDo_start_own hm]
    · rw [hland hx, landDo_start_fed hm ho hf]
    · simp only [State.landDo, hf]
      exact readRing_memory hw hps hok
    · rw [hland hx, landDo_append hf]
    · rw [hdrain hx, drainDo_read hf hi hfree]
    · rw [drainDo_put hf hv]
      exact putMemory_writes hw hu hok
    · rw [hdrain hx, drainDo_start hq]
    · have hexec : exec (.ringEnlarge cl r.crew.toNat) s = .next (s.enlargeFor cl r.part r.crew.toNat) :=
        congrArg Host.Outcome.next (enlarge_only hcrew)
      refine ⟨fun hroom => ⟨_, hexec, enlargeFor_grows hcrew hheld hstill hsince hwait hroom⟩, fun hfull hpend hi => ?_⟩
      obtain ⟨x, hx⟩ := enlargeFor_raises hcrew hheld hstill hsince hwait hfull hpend hi
      exact ⟨_, x, hexec, hx⟩
  · exact congrArg Host.Outcome.next (replayFlit_counts hl hf)
  · rw [failLink_failed hl hr]
    exact getLsbD_setLink _ (lt_of_isLink hl) _
  · exact congrArg Host.Outcome.next (failLink_few hr)
  · rw [retrain_training hl]
    exact getLsbD_setLink _ (lt_of_isLink hl) _
  · rw [(endTraining_fab ht ok).1]
    exact getLsbD_setLink _ (lt_of_isLink hl) _
  · rw [(endTraining_fab ht ok).2]
    exact getLsbD_setLink _ (lt_of_isLink hl) _
  · rw [suspect_suspects, List.mem_append, mem_timedOut]
    tauto
  · rw [capture_fab ht hb]
    exact ⟨rfl, rfl, toNat_ofNat_satAdd (by decide) _⟩
  · exact congrArg Host.Outcome.next (regenerate_stands hs)
  · rw [regenerate_fab ht hp]
    exact ⟨rfl, rfl, toNat_ofNat_satAdd (by decide) _⟩
  · exact congrArg Host.Outcome.next (spadError_word s hw b)

end Sys2Proof.Machine
end

section
namespace Sys2Proof.Machine

/-! ## Bits of a number with a field replaced (R5) -/

/-- A number with a field replaced, by what lies above the field, in it and below it. -/
theorem putBits_eq (x lo k v : Nat) :
    putBits x lo k v = 2 ^ lo * (2 ^ k * (x / 2 ^ lo / 2 ^ k) + v % 2 ^ k) + x % 2 ^ lo := by
  have hx : x = 2 ^ lo * (2 ^ k * (x / 2 ^ lo / 2 ^ k)) + x % 2 ^ lo + bitsOf x lo k * 2 ^ lo := by
    rw [Nat.mul_comm (bitsOf x lo k), Nat.add_right_comm, ← Nat.mul_add, bitsOf, Nat.div_add_mod, Nat.div_add_mod]
  rw [putBits, Nat.sub_eq_of_eq_add hx, Nat.mul_comm (v % 2 ^ k), Nat.add_right_comm, ← Nat.mul_add]

theorem testBit_mod_of_lt (x : Nat) {i k : Nat} (h : i < k) : (x % 2 ^ k).testBit i = x.testBit i := by
  rw [Nat.testBit_mod_two_pow, decide_eq_true h, Bool.true_and]

/-- A bit string with a field replaced, bit by bit. -/
theorem testBit_putBits (x lo k v i : Nat) :
    (putBits x lo k v).testBit i = if lo ≤ i ∧ i < lo + k then v.testBit (i - lo) else x.testBit i := by
  refine (congrArg (Nat.testBit · i) (putBits_eq x lo k v)).trans
    ((Nat.testBit_two_pow_mul_add _ (Nat.mod_lt _ (Nat.two_pow_pos lo)) i).trans ?_)
  by_cases hlo : i < lo
  · exact (if_pos hlo).trans ((testBit_mod_of_lt x hlo).trans (if_neg fun h => Nat.not_le.mpr hlo h.1).symm)
  · have hle : lo ≤ i := Nat.not_lt.mp hlo
    refine (if_neg hlo).trans ((Nat.testBit_two_pow_mul_add _ (Nat.mod_lt _ (Nat.two_pow_pos k)) _).trans
      (ite_congr (propext ((Nat.sub_lt_iff_lt_add' hle).trans (and_iff_right hle).symm))
        (fun h => testBit_mod_of_lt v ((Nat.sub_lt_iff_lt_add' hle).mpr h.2)) fun h => ?_))
    rw [Nat.testBit_div_two_pow, Nat.testBit_div_two_pow, Nat.sub_add_cancel, Nat.sub_add_cancel hle]
    exact Nat.not_lt.mp fun hk => h ⟨hle, (Nat.sub_lt_iff_lt_add' hle).mp hk⟩

theorem getLsbD_ofNat_of_lt {n i : Nat} (x : Nat) (hi : i < n) : (BitVec.ofNat n x).getLsbD i = x.testBit i := by
  rw [BitVec.getLsbD_ofNat, decide_eq_true hi, Bool.true_and]

/-- A word with a field replaced, bit by bit. -/
theorem getLsbD_putBits {n : Nat} (x : BitVec n) (lo k v : Nat) {i : Nat} (hi : i < n) :
    (BitVec.ofNat n (putBits x.toNat lo k v)).getLsbD i
      = if lo ≤ i ∧ i < lo + k then v.testBit (i - lo) else x.getLsbD i :=
  (getLsbD_ofNat_of_lt _ hi).trans (testBit_putBits ..)

/-! ## Scalar results and predicates (R109, R110, R183) -/

theorem Core.result_s (c : Core) (sl : Lane) (d : BitVec 6) (v : Cell64) (j : Fin 48) :
    (c.result sl d v).r.s[j] = if j.val = d.toNat ∧ d ≠ 0 then v else c.r.s[j] := by
  refine (congrArg (·[j]) (Core.shift_r_s ..)).trans ?_
  by_cases h : j.val = d.toNat ∧ d ≠ 0
  · exact (getElem_congr_idx h.1).trans ((c.setS_self v (h.1 ▸ j.isLt) h.2).trans (if_pos h).symm)
  · refine Eq.trans ?_ (if_neg h).symm
    by_cases h0 : d = 0
    · exact congrArg (fun x : Core => x.r.s[j]) (Core.setS_discard c v (.inl h0))
    · exact Core.setS_ne c d v j.isLt fun e => h ⟨e, h0⟩

/-- A core with its registers replaced. -/
def Core.withRegs (c : Core) (r : Arch) : Core := { c with r := r }

/-- Registers with other scalar registers and latches. -/
def Arch.withResult (r : Arch) (regs : Vector Cell64 48) (latches : Vector Cell64 8) : Arch :=
  { r with s := regs, l := latches }

theorem Core.setS_regs (d : BitVec 6) (v : Cell64) : ∃ f : Vector Cell64 48 → Vector Cell64 48,
    ∀ c : Core, c.setS d v = c.withRegs (c.r.withResult (f c.r.s) c.r.l) := by
  by_cases h : d.toNat < 48
  · by_cases h0 : d = 0
    · exact ⟨id, fun c => c.setS_discard v (.inl h0)⟩
    · exact ⟨fun regs => regs.set d.toNat v h, fun c => (dif_pos h).trans (if_neg h0)⟩
  · exact ⟨id, fun c => c.setS_discard v (.inr (Nat.not_lt.mp h))⟩

theorem Core.shift_regs (sl : Lane) (v : Cell64) : ∃ f : Vector Cell64 8 → Vector Cell64 8,
    ∀ c : Core, c.shift sl v = c.withRegs (c.r.withResult c.r.s (f c.r.l)) := by
  cases sl
  · exact ⟨fun l => #v[v, l[0], l[1], l[2], l[4], l[5], l[6], l[7]], fun c => Eq.refl (c.shift .A v)⟩
  · exact ⟨fun l => #v[l[0], l[1], l[2], l[3], v, l[4], l[5], l[6]], fun c => Eq.refl (c.shift .B v)⟩

/-- A result changes the scalar registers and the latches alone, by what stands in them. -/
theorem Core.result_regs (sl : Lane) (d : BitVec 6) (v : Cell64) :
    ∃ (f : Vector Cell64 48 → Vector Cell64 48) (f' : Vector Cell64 8 → Vector Cell64 8),
      ∀ c : Core, c.result sl d v = c.withRegs (c.r.withResult (f c.r.s) (f' c.r.l)) := by
  obtain ⟨f, hf⟩ := Core.setS_regs d v
  obtain ⟨f', hf'⟩ := Core.shift_regs sl v
  exact ⟨f, f', fun c => (congrArg (Core.shift · sl v) (hf c)).trans (hf' _)⟩

theorem Core.result_frame (c : Core) (sl : Lane) (d : BitVec 6) (v : Cell64) : c.result sl d v
    = c.withRegs (c.r.withResult (c.result sl d v).r.s (c.result sl d v).r.l) := by
  obtain ⟨f, f', h⟩ := Core.result_regs sl d v
  rw [h]
  rfl

theorem Core.result_l (c : Core) (sl : Lane) (d : BitVec 6) (v : Cell64) :
    (c.result sl d v).r.l = (c.shift sl v).r.l := by
  obtain ⟨f, hf⟩ := Core.shift_regs sl v
  rw [Core.result, hf, hf, Core.setS_r_l]
  rfl

theorem testBit_ofBool (b : Bool) : (ofBool b).testBit 0 = b := by cases b <;> rfl

/-- A predicate written, as a bit of the predicate register; `p0` and the path predicates are none. -/
theorem Core.setP_p (c : Core) (n : BitVec 4) (b : Bool) : (c.setP n b).r.p
    = if 1 ≤ n.toNat ∧ n.toNat ≤ 10 then BitVec.ofNat 16 (putBits c.r.p.toNat n.toNat 1 (ofBool b)) else c.r.p := by
  have hn : (n = 0 || 11 ≤ n.toNat) = true ↔ ¬(1 ≤ n.toNat ∧ n.toNat ≤ 10) := by
    revert n
    decide
  refine ((apply_ite (fun x : Core => x.r.p) ..).trans (ite_congr (propext hn) (fun _ => rfl) fun _ => ?_)).trans (ite_not ..)
  cases b <;> rfl

theorem Core.setP_bit (c : Core) (n : BitVec 4) (b : Bool) {j : Nat} (hj : j < 16) :
    (c.setP n b).r.p.getLsbD j = if j = n.toNat ∧ 1 ≤ j ∧ j ≤ 10 then b else c.r.p.getLsbD j := by
  rw [Core.setP_p]
  by_cases h : 1 ≤ n.toNat ∧ n.toNat ≤ 10
  · have hiff : n.toNat ≤ j ∧ j < n.toNat + 1 ↔ j = n.toNat ∧ 1 ≤ j ∧ j ≤ 10 :=
      ⟨fun hx => have e := Nat.le_antisymm (Nat.le_of_lt_succ hx.2) hx.1; ⟨e, e ▸ h⟩,
        fun hx => ⟨hx.1.ge, Nat.lt_succ_of_le hx.1.le⟩⟩
    refine (congrArg (BitVec.getLsbD · j) (if_pos h)).trans ((getLsbD_putBits _ _ _ _ hj).trans
      (ite_congr (propext hiff) (fun hx => ?_) fun _ => rfl))
    exact (congrArg (ofBool b).testBit (Nat.sub_eq_zero_of_le hx.1.le)).trans (testBit_ofBool b)
  · exact (congrArg (BitVec.getLsbD · j) (if_neg h)).trans
      (if_neg fun hx : j = n.toNat ∧ 1 ≤ j ∧ j ≤ 10 => h (hx.1 ▸ hx.2)).symm

theorem Core.setP_frame (c : Core) (n : BitVec 4) (b : Bool) :
    c.setP n b = { c with r := { c.r with p := (c.setP n b).r.p }, wrote := (c.setP n b).wrote } := by
  unfold Core.setP
  exact iteInduction (motive := fun x : Core => x = { c with r := { c.r with p := x.r.p }, wrote := x.wrote })
    (fun _ => rfl) fun _ => rfl

/-- Settles O5: a result by the register that it writes and the latches that it shifts, a predicate write by its bit. -/
theorem registerWrites : Obligations.RegisterWrites := by
  unfold Obligations.RegisterWrites
  exact ⟨fun c sl d v => ⟨c.result_s sl d v, (c.result_l sl d v).trans (by cases sl <;> rfl), c.result_frame sl d v⟩,
    fun c n b => ⟨fun _ hj => c.setP_bit n b hj, c.setP_frame n b⟩⟩

end Sys2Proof.Machine
end

section
namespace Sys2Proof.Machine

/-! ## Staging registers (R114, R244) -/

/-- What waits for a register that is free. -/
theorem ready_bind {α : Type} {b : Bool} {e : Unit → Eff α} (h : b = true) : (ready b >>= e) = e () := by
  rw [ready_ok.mpr h]
  rfl

theorem word256_toNat (x : BitVec 256) (w : Nat) : (word256 x w).toNat = bitsOf x.toNat (64 * w) 64 :=
  BitVec.toNat_ofNat ..

theorem setWord256_eq (x : BitVec 256) (w : Nat) (v : W64) :
    setWord256 x w v = BitVec.ofNat 256 (putBits x.toNat (64 * w) 64 v.toNat) := by
  rw [setWord256, word256_toNat, putBits, Nat.mod_eq_of_lt v.isLt]

theorem getLsbD_extractLsb'_64 {n : Nat} (x : BitVec n) (lo : Nat) {i : Nat} (hi : i < 64) :
    (x.extractLsb' lo 64).getLsbD i = x.getLsbD (lo + i) := by
  rw [BitVec.getLsbD_extractLsb', decide_eq_true hi, Bool.true_and]

/-- A position of one word among four lies in the word that its number names. -/
theorem word_position {i : Nat} (hi : i < 64) (j w : Nat) :
    64 * w ≤ 64 * j + i ∧ 64 * j + i < 64 * w + 64 ↔ j = w := by
  have hj : (64 * j + i) / 64 = j := by rw [Nat.mul_add_div (by decide), Nat.div_eq_of_lt hi, Nat.add_zero]
  rw [Nat.mul_comm 64 w]
  exact ((Nat.div_eq_iff (by decide)).trans (and_congr_right' Nat.lt_succ_iff.symm)).symm.trans
    (iff_of_eq (congrArg (· = w) hj))

theorem extractLsb'_setWord256 (x : BitVec 256) (w : Nat) (v : W64) (j : Fin 4) :
    (setWord256 x w v).extractLsb' (64 * j.val) 64 = if j.val = w then v else x.extractLsb' (64 * j.val) 64 := by
  refine BitVec.eq_of_getLsbD_eq fun i hi => ?_
  refine (getLsbD_extractLsb'_64 _ _ hi).trans ((congrArg (BitVec.getLsbD · _) (setWord256_eq ..)).trans
    ((getLsbD_putBits _ _ _ _ ?_).trans ((ite_congr (propext (word_position hi ..)) (fun h => ?_) fun _ =>
      (getLsbD_extractLsb'_64 _ _ hi).symm).trans (apply_ite (BitVec.getLsbD · i) ..).symm)))
  · exact Nat.lt_of_lt_of_le (Nat.add_lt_add_left hi _) (Nat.mul_le_mul_left 64 (Nat.succ_le_of_lt j.isLt))
  · rw [h, Nat.add_sub_cancel_left, BitVec.testBit_toNat]

theorem getElem_setReg {α : Type} {n : Nat} (v : Vector α n) (k : Nat) (x : α) (i : Fin n) :
    (setReg v k x)[i] = if k = i.val then x else v[i] := by
  unfold setReg
  by_cases h : k < n
  · rw [dif_pos h]
    exact Vector.getElem_set ..
  · rw [dif_neg h, if_neg fun e : k = i.val => h (e ▸ i.isLt)]

/-- One word of one staging register replaced, word by word. -/
theorem extractLsb'_setReg_setWord256 {n : Nat} (v : Vector (BitVec 256) n) (d : Nat) (x : W64) (i : Fin n) (j : Fin 4) :
    (setReg v (d / 4) (setWord256 (getReg v (d / 4) 0) (d % 4) x))[i].extractLsb' (64 * j.val) 64
      = if d = 4 * i.val + j.val then x else v[i].extractLsb' (64 * j.val) 64 := by
  have hd : d = 4 * i.val + j.val ↔ d / 4 = i.val ∧ j.val = d % 4 := by
    rw [eq_comm (a := j.val), Nat.div_mod_unique (by decide), eq_comm, Nat.add_comm, and_iff_left j.isLt]
  exact (congrArg (BitVec.extractLsb' (64 * j.val) 64) (getElem_setReg ..)).trans ((apply_ite ..).trans
    ((ite_congr rfl (fun h => (extractLsb'_setWord256 ..).trans
      (congrArg (fun y : BitVec 256 => if j.val = d % 4 then x else y.extractLsb' (64 * j.val) 64)
        ((congrArg (getReg v · 0) h).trans (getReg_fin ..)))) fun _ => rfl).trans
      ((ite_and ..).symm.trans (if_congr hd.symm rfl rfl))))

theorem codeAddress_eq (x : W64) : codeAddress x = x &&& ~~~3 := by
  have hfield : field x 2 62 = x.toNat / 4 := Nat.mod_eq_of_lt (Nat.div_lt_of_lt_mul x.isLt)
  have hmask : maskAt 2 62 = ~~~3 := by decide
  rw [codeAddress, ← hfield, ← hmask, ← ofNat_field]
  rfl

/-- A value with a property, which the proof names. -/
theorem exists_of_let {α : Sort*} {p : α → Prop} (w : α) (h : let x := w; p x) : ∃ x, p x := ⟨w, h⟩

/-- A value with a property and another one, from a proof of each. -/
theorem exists_and_of {α : Sort*} {p q : α → Prop} (w : α) (hp : p w) (hq : q w) : ∃ x, p x ∧ q x := ⟨w, hp, hq⟩

theorem runSlot_stage {s : State} {g : Guard} {a : BitVec 6} {x : W64} (w : Site) (f : W64 → Core → Core)
    (hg : s.me.guarded g = true) (ha : s.reads a x) : runSlot s g (stage s w a f) = .next (s.setMe (f x s.me)) :=
  runSlot_ok hg (stage_ok w f ha)

theorem runSlot_ready_stage {s : State} {g : Guard} {a : BitVec 6} {x : W64} {b : Bool} (h : b = true) (w : Site)
    (f : W64 → Core → Core) (hg : s.me.guarded g = true) (ha : s.reads a x) :
    runSlot s g (ready b >>= fun _ => stage s w a f) = .next (s.setMe (f x s.me)) :=
  (congrArg (runSlot s g) (ready_bind h)).trans (runSlot_stage w f hg ha)

theorem getElem_setReg_codeAddress (v : Vector W64 8) (d : Nat) (x : W64) (i : Fin 8) :
    (setReg v d (codeAddress x))[i] = if d = i.val then x &&& ~~~3 else v[i] := by
  rw [← codeAddress_eq]
  exact getElem_setReg ..

theorem withRegs_writeVcfg (c : Core) (x : W64) :
    c.withRegs (c.r.writeVcfg x) = c.withRegs { c.r with vcfg := vcfgAfter c.r.vcfg x } :=
  congrArg (fun v => c.withRegs { c.r with vcfg := v }) (writeVcfg_vcfg c.r x)

/-- Settles O13: each write by the register that `stage` replaces. -/
theorem stagingResult : Obligations.StagingResult := by
  unfold Obligations.StagingResult
  intro s g d a x hg ha
  exact ⟨exists_and_of _ (runSlot_stage _ (fun x c => c.withRegs { c.r with
        q := setReg c.r.q (d.toNat / 4) (setWord256 (getReg c.r.q (d.toNat / 4) 0) (d.toNat % 4) x) }) hg ha)
      (extractLsb'_setReg_setWord256 _ _ x),
    exists_and_of _ (runSlot_stage _ (fun x c => c.withRegs { c.r with
        x := setReg c.r.x (d.toNat / 4) (setWord256 (getReg c.r.x (d.toNat / 4) 0) (d.toNat % 4) x) }) hg ha)
      (extractLsb'_setReg_setWord256 _ _ x),
    fun hw => exists_and_of _ (runSlot_ready_stage hw _ (fun x c => c.withRegs { c.r with
      h := setReg c.r.h d.toNat x }) hg ha) (getElem_setReg _ _ x),
    (runSlot_stage _ (fun x c => c.withRegs (c.r.writeVcfg x)) hg ha).trans
      (congrArg (Host.Outcome.next <| s.setMe ·) (withRegs_writeVcfg ..)),
    exists_and_of _ (runSlot_stage _ (fun x c => c.withRegs { c.r with
      bt := setReg c.r.bt d.toNat (codeAddress x) }) hg ha) (getElem_setReg_codeAddress _ _ x),
    fun o => exists_and_of _ (runSlot_true (.ok (s.setMe (s.me.withRegs { s.me.r with
      bt := setReg s.me.r.bt d.toNat (codeAddress (s.me.grp.bundle + o.signExtend 64 * 4)) }))) hg)
      (getElem_setReg_codeAddress _ _ _)⟩

end Sys2Proof.Machine
end

section
namespace Sys2Proof.Machine

theorem getElem_replicate_fin {α : Type} {n : Nat} (x : α) (i : Fin n) : (Vector.replicate n x)[i] = x :=
  Vector.getElem_replicate i.isLt

/-- Settles O51: every table of the machine is empty at reset, so that each unit has its reset value. -/
theorem resetState : Obligations.ResetState := by
  unfold Obligations.ResetState
  intro s
  refine ⟨⟨[], rfl⟩, Memory.wf_reset, by decide, fun _ => rfl, fun _ => rfl, ?_, fun _ => ⟨rfl, rfl, rfl⟩,
    fun _ => ⟨rfl, rfl, rfl⟩⟩
  intro k c
  exact ⟨rfl, rfl, rfl, rfl, rfl, rfl, rfl, fun _ => rfl, getElem_replicate_fin _, rfl,
    fun i => ⟨getElem_replicate_fin _ i, getElem_replicate_fin _ i, getElem_replicate_fin _ i⟩,
    fun i => ⟨getElem_replicate_fin _ i, getElem_replicate_fin _ i,
      (congrArg TReg.bits (getElem_replicate_fin ⟨0, 0⟩ i) :), getElem_replicate_fin _ i⟩,
    fun i => ⟨(congrArg VReg.bits (getElem_replicate_fin ⟨0, 0⟩ i) :), getElem_replicate_fin _ i⟩,
    (by decide : field Core.reset.r.vcfg 0 4 = 10), (by decide : field Core.reset.r.vcfg 4 13 = 64),
    (by decide : field Core.reset.r.vcfg 17 13 = 16), rfl, rfl, (by decide : field Core.reset.r.clim 0 16 = 11136), rfl⟩

end Sys2Proof.Machine
end

section
namespace Sys2Proof.Machine

/-! ## Loads and stores on the own scratchpad (R102, R248, R404) -/

/-- A step of an effect that succeeds. -/
theorem ok_bind {α β : Type} {e : Eff α} {x : α} {f : α → Eff β} (h : e = .ok x) : (e >>= f) = f x := by
  rw [h]
  rfl

theorem ok_bind₃ {α β γ δ : Type} {e : Eff α} {x : α} {e' : α → Eff β} {y : β} {e'' : α → β → Eff γ} {z : γ}
    {f : α → β → γ → Eff δ} (h : e = .ok x) (h' : e' x = .ok y) (h'' : e'' x y = .ok z) :
    (e >>= fun a => e' a >>= fun b => e'' a b >>= f a b) = f x y z :=
  (ok_bind h).trans ((ok_bind h').trans (ok_bind h''))

section
variable {s : State} {e : Eff Aim} {a : Aim} {rel : Option Nat} {write : Bool} {off n : Nat} (ha : a.own s.here = some off)
  (hl : s.localReady rel write off n = true)
include ha hl

/-- What goes to the own scratchpad goes on in the order there. -/
theorem aim_own {f : Aim → Nat → State → Eff State} {g : Aim → Eff State} (he : e = .ok a) :
    (e >>= fun a => match a.own s.here with
      | some off => s.localOrder rel write off n >>= f a off
      | none => g a) = f a off (s.ordered rel) := by
  refine (ok_bind he).trans ?_
  rw [ha]
  exact ok_bind (localOrder_ready hl)

theorem access_own {α β : Type} {e₁ : Eff α} {x : α} {e₂ : α → Eff β} {y : β} {e : α → β → Eff Aim}
    {f : α → β → Aim → Nat → State → Eff State} {g : α → β → Aim → Eff State} (h₁ : e₁ = .ok x) (h₂ : e₂ x = .ok y)
    (he : e x y = .ok a) :
    (e₁ >>= fun x => e₂ x >>= fun y => e x y >>= fun a => match a.own s.here with
      | some off => s.localOrder rel write off n >>= f x y a off
      | none => g x y a) = f x y a off (s.ordered rel) :=
  (ok_bind h₁).trans ((ok_bind h₂).trans (aim_own ha hl he))

end

section
variable {s : State} {w : Site} {d b : BitVec 6} {o : BitVec 8} {x : W64} {a : Aim} {n off : Nat} (hb : s.reads b x)
  (ha : a.own s.here = some off)
include hb ha

theorem loadBytes_own {acq : Bool} (hd : s.definable .B d) (hx : aim s w (addressOf x o n) n .load false = .ok a)
    (hl : s.localReady none false off n = true) :
    let data := s.me.view.spadData off n
    let u := s.ordered none
    loadBytes s w d b o n acq
      = .ok (u.setMe (u.me.result .B d ⟨BitVec.ofNat 64 (ofBytes (data.map (·.1))), data.any (·.2), none⟩)) :=
  (access_own ha hl (ready_ok.mpr (scalarReady_one hd (available_known hb))) (operand_known _ hb) hx).trans
    ((ordered_marked s none).view ▸ rfl)

theorem storeBytes_own {rel : Bool} (hd : available s d = true)
    (hx : aim s w (addressOf x o n) n .store false = .ok a)
    (hl : s.localReady (if rel then some 5 else none) true off n = true) :
    let v := source s d
    let u := s.ordered (if rel then some 5 else none)
    storeBytes s w d b o n rel
      = .ok (u.setMe (u.me.withRegs (u.me.r.putSpad off ((toBytes n v.val.toNat).map fun y => (y, v.poison))))) :=
  access_own ha hl (ready_ok.mpr (Bool.and_eq_true_iff.mpr ⟨hd, available_known hb⟩)) (operand_known _ hb) hx

end

/-- Settles O17: a load or a store by what it does once it goes to the own scratchpad. -/
theorem localLoadsAndStores : Obligations.LocalLoadsAndStores := by
  unfold Obligations.LocalLoadsAndStores
  constructor
  · intro p hp s g d b o word x a off hg hb hd he hx ha hl data u
    exact (loads_exec s g p hp d b o he).trans (runSlot_ok hg (loadBytes_own hb ha hd hx hl))
  · intro p hp s g d b o word x a off hg hb hd he hx ha rel hl v u
    exact (stores_exec s g p hp d b o he).trans (runSlot_ok hg (storeBytes_own hb ha hd hx hl))

/-! ## Atomics on the own scratchpad (R101, R250 to R252) -/

section
variable {p : AtomicOp × Nat × (Nat → Nat → Nat → Nat × Flags)} {op : Nat} (hp : (p, op) ∈ atomics.zipIdx 0x56)
include hp

/-! The atomics have the opcodes from 0x56 on, in their order. -/

theorem atomicBytes_of_mem : atomicBytes op = p.2.1 :=
  (List.map_inj_left (f := fun q => atomicBytes q.2) (g := fun q => q.1.2.1)).mp rfl _ hp

theorem encode_atomic (g : Guard) (d b : BitVec 6) (r : BitVec 2) (sr : BitVec 6) :
    (p.1 g d b r sr).encode = some (slotWord g op (atomicForm d b r sr)) :=
  (List.map_inj_left (f := fun q => (q.1.1 g d b r sr).encode)
    (g := fun q => some (slotWord g q.2 (atomicForm d b r sr)))).mp rfl _ hp

theorem exec_atomic (s : State) (g : Guard) (d b : BitVec 6) (r : BitVec 2) (sr : BitVec 6) :
    exec (p.1 g d b r sr) s = runSlot s g (atomic s ⟨.B, slotWord g op (atomicForm d b r sr)⟩ op d b r sr) :=
  (List.map_inj_left (f := fun q => exec (q.1.1 g d b r sr) s)
    (g := fun q => runSlot s g (atomic s ⟨.B, slotWord g q.2 (atomicForm d b r sr)⟩ q.2 d b r sr))).mp rfl _ hp

/-- `acas` alone takes the comparand. -/
theorem atomicResult_comparand (m x : Nat) (y : W64) :
    atomicResult op m x (if op = 0x68 ∨ op = 0x69 then y else 0).toNat = atomicResult op m x y.toNat :=
  (List.map_inj_left (f := fun q => atomicResult q.2 m x (if q.2 = 0x68 ∨ q.2 = 0x69 then y else 0).toNat)
    (g := fun q => atomicResult q.2 m x y.toNat)).mp rfl _ hp

end

theorem exists_opcode_of_mem {p} (hp : p ∈ atomics) : ∃ op, (p, op) ∈ atomics.zipIdx 0x56 ∧ op < 2 ^ 7 := by
  obtain ⟨q, hq, rfl⟩ := List.mem_map.mp ((List.zipIdx_map_fst 0x56 atomics).symm ▸ hp)
  exact ⟨q.2, hq, Nat.lt_of_lt_of_le (List.snd_lt_add_of_mem_zipIdx hq) (by decide)⟩

/-- The word and the values that an atomic leaves, for the result that it has. -/
theorem atomicWord_clean {op off x y n lo old : Nat} {z : SpWord} {q : Nat × Flags} (h : z.poison = false)
    (hn : atomicBytes op = n) (hlo : 8 * (off % 8) = lo) (hold : field z.data lo (8 * n) = old)
    (hq : atomicResult op old x y = q) :
    atomicWord op z off x y = ({ z with data := setField z.data lo (8 * n) q.1 }, BitVec.ofNat 64 old, false, q.2) := by
  subst hn hlo hold hq
  exact if_neg (Bool.eq_false_iff.mp h)

theorem atomicWord_poisoned {op off x y n lo old : Nat} {z : SpWord} (h : z.poison = true) (hn : atomicBytes op = n)
    (hlo : 8 * (off % 8) = lo) (hold : field z.data lo (8 * n) = old) :
    atomicWord op z off x y = (z, BitVec.ofNat 64 old, true, 0) := by
  subst hn hlo hold
  exact if_pos h

/-- What an atomic leaves on an own word: the old value in its destination, the new one in the word, and its flags. -/
noncomputable def State.atomicDone (u : State) (d : BitVec 6) (w : Nat) (q : SpWord × W64 × Bool × Flags) : State :=
  let c := u.me.result .B d ⟨q.2.1, q.2.2.1, none⟩
  u.setMe (c.withRegs ((c.r.setWord w q.1).accrue q.2.2.2))

section
variable {s : State} {w : Site} {d b sr : BitVec 6} {r : BitVec 2} {va x y : W64} {a : Aim} {op off : Nat}
  (hb : s.reads b va) (hs : s.reads sr x) (hd : s.definable .B d) (hy : s.reads d y)
  (hx : aim s w va (atomicBytes op) .both true = .ok a) (ha : a.own s.here = some off)
  (hl : s.localReady (if ordRel r then some 5 else none) true off (atomicBytes op) = true)
include hb hs hd hy hx ha hl

theorem atomic_own : atomic s w op d b r sr
    = .ok ((s.ordered (if ordRel r then some 5 else none)).atomicDone d (off / 8)
      (atomicWord op (s.me.view.word (off / 8)) off x.toNat (if op = 0x68 ∨ op = 0x69 then y else 0).toNat)) := by
  have hready : (scalarReady s .B d [b, sr] && (!decide (op = 0x68 ∨ op = 0x69) || available s d)) = true :=
    Bool.and_eq_true_iff.mpr ⟨scalarReady_two hd (available_known hb) (available_known hs),
      Bool.or_eq_true_iff.mpr (.inr (available_known hy))⟩
  have hcmp (f : W64 → Eff State) : (if op = 0x68 ∨ op = 0x69 then operand s w d >>= f else .ok 0 >>= f)
      = f (if op = 0x68 ∨ op = 0x69 then y else 0) := by
    rw [operand_known _ hy]
    exact (apply_ite f ..).symm
  exact (ok_bind₃ (ready_ok.mpr hready) (operand_known _ hb) (operand_known _ hs)).trans
    ((hcmp _).trans ((aim_own ha hl hx).trans (congrArg (fun v : Arch => Except.ok ((s.ordered _).atomicDone d (off / 8)
      (atomicWord op (v.word (off / 8)) off x.toNat _))) (ordered_marked s _).view)))

end

theorem exec_atomic_encode {p : AtomicOp × Nat × (Nat → Nat → Nat → Nat × Flags)} {op : Nat}
    (hp : (p, op) ∈ atomics.zipIdx 0x56) (s : State) {g : Guard} {d b sr : BitVec 6} {r : BitVec 2} {word : BitVec 32}
    (he : (p.1 g d b r sr).encode = some word) :
    exec (p.1 g d b r sr) s = runSlot s g (atomic s ⟨.B, word⟩ op d b r sr) := by
  rw [← Option.some.inj ((encode_atomic hp ..).symm.trans he)]
  exact exec_atomic hp ..

/-- What an atomic of R251 or R252 does is what its opcode names. -/
theorem atomicResult_eq {p : AtomicOp × Nat × (Nat → Nat → Nat → Nat × Flags)} (hp : p ∈ atomics) {g : Guard}
    {d b sr : BitVec 6} {r : BitVec 2} {word : BitVec 32} (he : (p.1 g d b r sr).encode = some word) :
    ∃ op, (p, op) ∈ atomics.zipIdx 0x56 ∧ ∀ m < 2 ^ (8 * p.2.1), ∀ x y : W64,
      atomicResult op m x.toNat (if op = 0x68 ∨ op = 0x69 then y else 0).toNat = p.2.2 m x.toNat y.toNat := by
  obtain ⟨op, hop, hlt⟩ := exists_opcode_of_mem hp
  refine ⟨op, hop, fun m hm x y => (atomicResult_comparand hop ..).trans ?_⟩
  exact opcodeOf_atomic hlt ((encode_atomic hop ..).symm.trans he) ▸ atomicResult_opcodeOf p hp he y.toNat hm x.isLt

/-- A result is one of the registers. -/
theorem Core.withRegs_result (e c : Core) (sl : Lane) (d : BitVec 6) (v : Cell64) :
    (e.withRegs c.r).result sl d v = e.withRegs (c.result sl d v).r := by
  obtain ⟨f, f', h⟩ := Core.result_regs sl d v
  rw [h, h]
  rfl

theorem CommandsMarked.me_regs {s u : State} (hu : CommandsMarked s u) : u.me = u.me.withRegs s.me.r := by
  obtain ⟨q, hq⟩ := hu.me
  rw [hq]
  rfl

/-- What an atomic leaves of a core: a result's scalar registers and latches, a word of the scratchpad, and FSTAT. -/
def AtomicResult (s u : State) (r : Arch) (w : Nat) (z : SpWord) (f : W64) (c : Core) : Prop :=
  c.r.s = r.s ∧ c.r.l = r.l ∧ c.r.spad = (s.me.r.setWord w z).spad ∧ c.r.fstat = f
  ∧ c = { u.me with r := { s.me.r with s := c.r.s, l := c.r.l, spad := c.r.spad, fstat := c.r.fstat } }

theorem atomicResult_withResult (s u : State) (regs : Vector Cell64 48) (latches : Vector Cell64 8) (w : Nat) (z : SpWord)
    {fl : Flags} {f : W64} (hf : s.me.r.fstat ||| fl.zeroExtend 64 = f) :
    AtomicResult s u (s.me.r.withResult regs latches) w z f
      (u.me.withRegs (((s.me.r.withResult regs latches).setWord w z).accrue fl)) :=
  ⟨rfl, rfl, rfl, hf, rfl⟩

section
variable {p : AtomicOp × Nat × (Nat → Nat → Nat → Nat × Flags)} {s : State} {g : Guard} {d b sr : BitVec 6} {r : BitVec 2}
  {word : BitVec 32} {va x y : W64} {a : Aim} {off : Nat} (hg : s.me.guarded g = true) (hb : s.reads b va)
  (hs : s.reads sr x) (hd : s.definable .B d) (hy : s.reads d y) (he : (p.1 g d b r sr).encode = some word)
  (hx : aim s ⟨.B, word⟩ va p.2.1 .both true = .ok a) (ha : a.own s.here = some off)
  (hl : s.localReady (if ordRel r then some 5 else none) true off p.2.1 = true)
include hg hb hs hd hy he hx ha hl

theorem exec_atomic_own {op : Nat} (hp : (p, op) ∈ atomics.zipIdx 0x56) {q : SpWord × W64 × Bool × Flags}
    (hq : atomicWord op (s.me.view.word (off / 8)) off x.toNat (if op = 0x68 ∨ op = 0x69 then y else 0).toNat = q)
    {f : W64} (hf : s.me.r.fstat ||| q.2.2.2.zeroExtend 64 = f) :
    let u := s.ordered (if ordRel r then some 5 else none)
    ∃ c, exec (p.1 g d b r sr) s = .next (u.setMe c)
      ∧ AtomicResult s u (s.me.result .B d ⟨q.2.1, q.2.2.1, none⟩).r (off / 8) q.1 f c := by
  subst hq
  rw [← atomicBytes_of_mem hp] at hx hl
  refine ⟨_, (exec_atomic_encode hp s he).trans (runSlot_ok hg (atomic_own hb hs hd hy hx ha hl)), ?_⟩
  rw [(ordered_marked s _).me_regs, Core.withRegs_result, Core.result_frame s.me]
  exact atomicResult_withResult s _ _ _ _ _ hf

/-- The atomic on a word that holds no poison, and on one that holds some. -/
theorem exec_atomic_clean (hp : p ∈ atomics) {z : SpWord} (hw : s.me.view.word (off / 8) = z) (hz : z.poison = false) :
    let u := s.ordered (if ordRel r then some 5 else none)
    let old := field z.data (8 * (off % 8)) (8 * p.2.1)
    let q := p.2.2 old x.toNat y.toNat
    ∃ c, exec (p.1 g d b r sr) s = .next (u.setMe c)
      ∧ AtomicResult s u (s.me.result .B d (known (BitVec.ofNat 64 old))).r (off / 8)
        { z with data := setField z.data (8 * (off % 8)) (8 * p.2.1) q.1 } (s.me.r.fstat ||| q.2.zeroExtend 64) c := by
  obtain ⟨op, hop, hres⟩ := atomicResult_eq hp he
  exact exec_atomic_own hg hb hs hd hy he hx ha hl hop ((congrArg (atomicWord op · off x.toNat _) hw).trans
    (atomicWord_clean hz (atomicBytes_of_mem hop) rfl rfl (hres _ (field_lt ..) x y))) rfl

theorem exec_atomic_poisoned (hp : p ∈ atomics) {z : SpWord} (hw : s.me.view.word (off / 8) = z) (hz : z.poison = true) :
    let u := s.ordered (if ordRel r then some 5 else none)
    let old := field z.data (8 * (off % 8)) (8 * p.2.1)
    ∃ c, exec (p.1 g d b r sr) s = .next (u.setMe c)
      ∧ AtomicResult s u (s.me.result .B d ⟨BitVec.ofNat 64 old, true, none⟩).r (off / 8) z s.me.r.fstat c := by
  obtain ⟨op, hop, -⟩ := exists_opcode_of_mem hp
  exact exec_atomic_own hg hb hs hd hy he hx ha hl hop ((congrArg (atomicWord op · off x.toNat _) hw).trans
    (atomicWord_poisoned hz (atomicBytes_of_mem hop) rfl rfl)) BitVec.or_zero

end

/-- Settles O20: an atomic by what it does once it goes to an own word, with the value that its opcode names. -/
theorem localAtomics : Obligations.LocalAtomics := by
  unfold Obligations.LocalAtomics
  intro p hp s g d b sr r word va x y a off hg hb hs hd hy he hx ha rel u hl z lo old q
  exact ⟨exec_atomic_clean hg hb hs hd hy he hx ha hl hp rfl, exec_atomic_poisoned hg hb hs hd hy he hx ha hl hp rfl⟩

end Sys2Proof.Machine
end

section
namespace Sys2Proof.Machine

/-! ## Moves of tiles (R117, R302) -/

/-- The command that moves a tile, as it is accepted: it holds its source tile as it stands. -/
noncomputable def moveCommand (s : State) (w : Site) (d r : Nat) : MCmd :=
  { newMCmd s w [(.tile d, true), (.tile r, false)] with src := s.me.tile r }

/-- What `mcvt` converts: the types that the decoder lets pass. -/
theorem convertTile_legal {int : Bool} {t rm : Nat} (ht : t ∈ [0, 1, 2, 3, 8, 9, 12, 13, 14]) (hm : rm < 6)
    (hi : int = false ∨ t < 12) :
    (!(t ≤ 3 || t = 8 || t = 9 || (12 ≤ t && t ≤ 14)) || 6 ≤ rm || (int && 12 ≤ t)) = false := by
  have htype : ∀ t ∈ [0, 1, 2, 3, 8, 9, 12, 13, 14], (t ≤ 3 || t = 8 || t = 9 || (12 ≤ t && t ≤ 14)) = true := by decide
  have hint : (int && decide (12 ≤ t)) = false := by
    rcases hi with rfl | hi
    · rfl
    · rw [decide_eq_false (Nat.not_le.mpr hi), Bool.and_false]
  rw [hint, decide_eq_false (Nat.not_le.mpr hm), htype t ht]
  rfl

/-- A state whose core's seeds of stochastic rounding are others. -/
noncomputable def State.withSeed (u : State) (seed : BitVec 32) : State :=
  u.setMe (u.me.withRegs { u.me.r with srseed := seed })

theorem acceptMatrix_srseed (s : State) (m : MCmd) : (s.acceptMatrix m).me.r.srseed = s.me.r.srseed :=
  (congrArg (fun c : Core => c.r.srseed) (State.me_setMe s _) :)

section
variable {s : State} {w : Site} {d : Nat} (hd : s.me.canAccumulate d = true)
include hd

theorem acceptMove_none : acceptMove s w d none = .ok (s.acceptMatrix (newMCmd s w [(.tile d, true)])) :=
  ready_bind (Bool.and_eq_true_iff.mpr ⟨hd, rfl⟩)

variable {r : Nat} (hr : s.me.canRead (.tile r) = true)
include hr

theorem moveReady_ok : moveReady s d r = true := Bool.and_eq_true_iff.mpr ⟨hd, hr⟩

theorem acceptMove_some : acceptMove s w d (some r) = .ok (s.acceptMatrix (moveCommand s w d r)) :=
  ready_bind (moveReady_ok hd hr)

variable {int : Bool} {t rm : Nat} (ht : t ∈ [0, 1, 2, 3, 8, 9, 12, 13, 14]) (hm : rm < 6) (hi : int = false ∨ t < 12)
include ht hm hi

theorem convertTile_poison (hp : (s.me.tile r).poison ≠ 0) :
    convertTile s w d r int t rm = raisePoison s w r :=
  (ready_bind (moveReady_ok hd hr)).trans
    ((if_neg (Bool.eq_false_iff.mp (convertTile_legal ht hm hi))).trans (if_pos hp))

/-- What `mcvt` does once it has accepted its command. -/
theorem convertTile_ok (hp : (s.me.tile r).poison = 0) :
    let u := s.acceptMatrix (moveCommand s w d r)
    convertTile s w d r int t rm
      = if (rm = 5 && isStochastic (if int then 4 else 10) t) = true then .ok (u.withSeed (stepSeeds 4096 u.me.r.srseed))
        else .ok u :=
  (ready_bind (moveReady_ok hd hr)).trans ((if_neg (Bool.eq_false_iff.mp (convertTile_legal ht hm hi))).trans
    ((if_neg (not_not_intro hp)).trans (ok_bind (acceptMove_some hd hr))))

theorem convertTile_drawless (hp : (s.me.tile r).poison = 0)
    (h : ¬(rm = 5 ∧ isStochastic (if int then 4 else 10) t = true)) :
    convertTile s w d r int t rm = .ok (s.acceptMatrix (moveCommand s w d r)) :=
  (convertTile_ok hd hr ht hm hi hp).trans
    (if_neg (mt Bool.and_eq_true_iff.mp fun e => h ⟨of_decide_eq_true e.1, e.2⟩))

theorem convertTile_draws (hp : (s.me.tile r).poison = 0)
    (h : rm = 5 ∧ isStochastic (if int then 4 else 10) t = true) : convertTile s w d r int t rm
      = .ok ((s.acceptMatrix (moveCommand s w d r)).withSeed (stepSeeds 4096 s.me.r.srseed)) :=
  (convertTile_ok hd hr ht hm hi hp).trans ((if_pos (Bool.and_eq_true_iff.mpr ⟨decide_eq_true h.1, h.2⟩)).trans
    (congrArg (fun x => Except.ok (State.withSeed _ (stepSeeds 4096 x))) (acceptMatrix_srseed ..)))

end

/-! ## The mask block (R295) -/

theorem packBits_lt (k : Nat) (f : Nat → Nat) (n : Nat) : packBits k f n < 2 ^ (k * n) := by
  induction n with
  | zero => exact Nat.one_pos
  | succ n ih =>
    calc packBits k f n + f n % 2 ^ k * 2 ^ (k * n)
      _ < (f n % 2 ^ k + 1) * 2 ^ (k * n) := by rw [Nat.succ_mul, Nat.add_comm]; exact Nat.add_lt_add_left ih _
      _ ≤ 2 ^ k * 2 ^ (k * n) := Nat.mul_le_mul_right _ (Nat.mod_lt _ (Nat.two_pow_pos k))
      _ = 2 ^ (k * (n + 1)) := by rw [← Nat.pow_add, Nat.mul_succ, Nat.add_comm]

theorem digit_lt {k n i j : Nat} (hi : i < n) (hj : j < k) : k * i + j < k * n :=
  Nat.lt_of_lt_of_le (Nat.add_lt_add_left hj _) (Nat.mul_le_mul_left k hi)

theorem packBits_succ (k : Nat) (f : Nat → Nat) (n : Nat) :
    packBits k f (n + 1) = 2 ^ (k * n) * (f n % 2 ^ k) + packBits k f n :=
  (Nat.add_comm ..).trans (congrArg (· + packBits k f n) (Nat.mul_comm ..))

/-- Number i of some numbers packed, bit by bit. -/
theorem testBit_packBits (k : Nat) (f : Nat → Nat) {n i j : Nat} (hi : i < n) (hj : j < k) :
    (packBits k f n).testBit (k * i + j) = (f i).testBit j := by
  induction n with
  | zero => exact absurd hi (Nat.not_lt_zero i)
  | succ n ih =>
    refine (congrArg (Nat.testBit · _) (packBits_succ k f n)).trans
      ((Nat.testBit_two_pow_mul_add _ (packBits_lt k f n) _).trans ?_)
    by_cases h : i < n
    · exact (if_pos (digit_lt h hj)).trans (ih h)
    · obtain rfl : i = n := Nat.le_antisymm (Nat.le_of_lt_succ hi) (Nat.not_lt.mp h)
      exact (if_neg (Nat.not_lt.mpr (Nat.le_add_right ..))).trans
        ((congrArg (Nat.testBit _) (Nat.add_sub_cancel_left ..)).trans (testBit_mod_of_lt _ hj))

theorem testBit_bitsOf (x lo : Nat) {k i : Nat} (h : i < k) : (bitsOf x lo k).testBit i = x.testBit (i + lo) :=
  (testBit_mod_of_lt _ h).trans (Nat.testBit_div_two_pow ..)

theorem maskOfTile_bit (t : TReg) {i j : Nat} (hi : i < 64) (hj : j < 64) : (maskOfTile t).getLsbD (64 * i + j)
    = (bitsOf t.bits.toNat (8 * (256 * i + j / 8)) 8).testBit (j % 8) := by
  have hbit : j + 8 * (256 * i) = j % 8 + 8 * (256 * i + j / 8) := by
    rw [Nat.mul_add, Nat.add_comm (8 * (256 * i)), ← Nat.add_assoc, Nat.mod_add_div]
  exact (getLsbD_ofNat_of_lt _ (digit_lt hi hj)).trans ((testBit_packBits 64 _ hi hj).trans ((testBit_bitsOf _ _ hj).trans
    ((congrArg (Nat.testBit _) hbit).trans (testBit_bitsOf _ _ (Nat.mod_lt j (by decide))).symm)))

theorem loadMask_ok {s : State} {w : Site} {n : BitVec 4} (hr : s.me.canRead (.tile n.toNat) = true)
    (hc : ∀ i < 64, (s.me.tile n.toNat).bad (256 * i) 8 = false) : loadMask s w n
      = .ok (s.setMe (s.me.withRegs { s.me.r with maskBlk := maskOfTile (s.me.tile n.toNat) })) := by
  refine (ready_bind hr).trans (if_neg fun h => ?_)
  obtain ⟨i, hi, hb⟩ := List.any_eq_true.mp h
  exact Bool.noConfusion ((hc i (List.mem_range.mp hi)).symm.trans hb)

theorem moveCommand_holds (s : State) (w : Site) (d r : Nat) : (moveCommand s w d r).src = s.me.tile r
    ∧ (Res.tile d, true) ∈ (moveCommand s w d r).busy ∧ (Res.tile r, false) ∈ (moveCommand s w d r).busy :=
  ⟨rfl, List.mem_cons_self .., List.mem_cons_of_mem _ (List.mem_singleton_self _)⟩

/-- Settles O34: each operation by the command that it has accepted, and the mask block by its bits. -/
theorem tileOperations : Obligations.TileOperations := by
  unfold Obligations.TileOperations
  intro s g d r hg
  refine ⟨fun hd => ⟨⟨_, runSlot_ok hg (acceptMove_none hd), rfl, List.mem_singleton_self _⟩, fun hr => ?_⟩,
    fun hr hc => exists_and_of _ (runSlot_ok hg (loadMask_ok hr hc) :) fun _ hi _ hj => maskOfTile_bit _ hi hj,
    (runSlot_true (.ok (s.setMe (s.me.withRegs { s.me.r with maskBlk := BitVec.allOnes 4096 }))) hg :)⟩
  intro holds
  refine ⟨⟨_, runSlot_ok hg (acceptMove_some hd hr), rfl, moveCommand_holds ..⟩, fun e he => ⟨_, runSlot_ok hg
    ((ready_bind (moveReady_ok hd hr)).trans ((if_neg (Nat.ne_of_lt he)).trans (acceptMove_some hd hr))), rfl,
    moveCommand_holds ..⟩, ?_⟩
  intro int sat t rm ht hm hi draws
  exact ⟨fun hp word he => Option.some.inj he ▸
      (runSlot_true _ hg).trans (congrArg (finish s) (convertTile_poison hd hr ht hm hi hp)),
    fun hp => ⟨moveCommand s ⟨.M, _⟩ _ _, rfl, moveCommand_holds .., rfl,
      fun h => (runSlot_ok hg (convertTile_drawless hd hr ht hm hi hp h) :),
      fun h => (runSlot_ok hg (convertTile_draws hd hr ht hm hi hp h) :)⟩⟩

end Sys2Proof.Machine
end

section
namespace Sys2Proof.Machine

/-! ## Sync ops (R177, R178) -/

section
variable {s : State} {f : BitVec 4} {n : BitVec 6}

/-- The cause that a sync op takes at the limit of its wait. -/
noncomputable def flagLimit (f : BitVec 4) : Cause :=
  ⟨BitVec.ofNat 6 cWaitLimit, false, 0, false, 0, 0, 0, 1, f.zeroExtend 64⟩

/-- A sync op whose flag is too low waits. -/
theorem sync_waits (h : s.flag f < n.toNat) :
    ∀ i ∈ [Instr.syncWait f n, .syncTake f n], exec i s = .next (flagWait s f) :=
  have hlow := Nat.not_le.mpr h
  List.forall_iff_forall_mem.mp ⟨congrArg Host.Outcome.next (if_neg hlow), congrArg Host.Outcome.next (if_neg hlow)⟩

theorem flagWait_held (h : s.me.limit = false) : flagWait s f = s.held true := if_neg (Bool.eq_false_iff.mp h)

theorem flagWait_limit (h : s.me.limit = true) : flagWait s f = s.takeSync s.here .check (flagLimit f) := if_pos h

/-- The state with these flags, of which one is raised by COUNT. -/
noncomputable def State.raiseFlag (u : State) (f : BitVec 4) (count : Nat) (cf : Vector (BitVec 16) 16) : State :=
  u.setMe (u.me.withRegs { u.me.r with
    cf := cf.set f.toFin (BitVec.ofNat 16 (min 0xFFFF ((cf[f.toFin]'f.toFin.isLt).toNat + count))) })

theorem promiseBefore_cf (p k ord scope : Nat) : (s.promiseBefore p k ord scope).me.r.cf = s.me.r.cf := by
  obtain ⟨q, hq⟩ := ((CommandsMarked.self s).promiseBefore p k ord scope).me
  exact congrArg (·.r.cf) hq

end

/-! ## The nullifier (R194) -/

theorem Core.skipCost_le (c : Core) (ws : List (BitVec 32)) : c.skipCost ws ≤ 1 :=
  iteInduction (motive := (· ≤ 1)) (fun _ => Nat.zero_le 1) (fun _ => Nat.le_refl 1)

theorem onlyP0_iff (ws : List (BitVec 32)) : onlyP0 ws = true ↔ ∀ w ∈ ws, (Sys2Proof.guardOf w).gp = 0 := by
  simp only [onlyP0, List.all_eq_true, beq_iff_eq]

theorem Core.skipCost_eq_zero_iff (c : Core) (ws : List (BitVec 32)) : c.skipCost ws = 0
    ↔ (∀ w ∈ ws, (Sys2Proof.guardOf w).gp = 0) ∨ c.guardWritten ws + 2 ≤ c.fetch := by
  rw [← onlyP0_iff, ← decide_eq_true_iff (p := c.guardWritten ws + 2 ≤ c.fetch), ← Bool.or_eq_true]
  exact ite_eq_left_iff.trans (not_imp_comm.trans (forall_prop_of_true Nat.one_ne_zero))

/-- A core past some words. -/
noncomputable def Core.passing (c : Core) (words : Nat) : Core :=
  { c.endWait with pc := c.pc + BitVec.ofNat 64 (4 * words), fetch := c.fetch + 1 }

/-- The core after a skip that costs some cycles, each with some charge, and passes some words. -/
noncomputable def Core.skipped (c : Core) (n e words : Nat) : Core := (if n = 0 then c else c.spend n none e).passing words

/-- The cycles count, and of the registers only the counters that they drive. -/
def Core.Passed (c : Core) (n words : Nat) (d : Core) : Prop :=
  d.pc = c.pc + BitVec.ofNat 64 (4 * words) ∧ d.cycles = c.cycles + BitVec.ofNat 64 n ∧ d.fetch = c.fetch + 1
    ∧ d.issue = c.issue ∧ d.r = { c.r with budget := d.r.budget, frzcnt := d.r.frzcnt }

theorem Core.skipped_passed {c d : Core} {n e words : Nat} (h : d = c.skipped n e words) : c.Passed n words d :=
  h ▸ iteInduction (motive := fun d : Core => c.Passed n words (d.passing words))
    (fun h => ⟨rfl, h ▸ (BitVec.add_zero _).symm, rfl, rfl, rfl⟩) (fun _ => ⟨rfl, rfl, rfl, rfl, rfl⟩)

theorem nullifierSkip_exec {s : State} {bs : List (W64 × List (BitVec 32))} (hf : fetchGroup s s.me.pc = .ok bs)
    (h : s.me.skippable (syncOf bs).1 ((rawWords bs).map (·.2.2.2)) = true) :
    exec .nullifierSkip s = .next (s.setMe (s.me.skipped (s.me.skipCost ((rawWords bs).map (·.2.2.2)))
      (s.engineCharge s.here) ((bs.map (·.2.length)).foldl (· + ·) 0))) := by
  refine congrArg Host.Outcome.next ?_
  unfold skipGroup
  rw [hf]
  exact if_pos h

/-! ## Partial sums that arrive (R297, R300) -/

theorem setField_field (x : W64) (lo k : Nat) : setField x lo k (field x lo k) = x := by
  refine BitVec.eq_of_getLsbD_eq fun i hi => ?_
  rw [getLsbD_setField _ _ _ _ hi, testBit_field]
  refine ite_eq_right_iff.mpr fun h => ?_
  rw [decide_eq_true (Nat.sub_lt_left_of_lt_add h.1 h.2), Bool.true_and, Nat.add_sub_cancel' h.1]

theorem Arch.countSums_lost (r : Arch) (lost : Nat) : r.countSums lost 0
    = { r with pslost := setField r.pslost 0 32 (satAdd 0xFFFFFFFF (field r.pslost 0 32) lost) } := by
  have hsame (p : W64) : setField p 32 32 (satAdd 0xFFFFFFFF (field p 32 32) 0) = p :=
    (congrArg (setField p 32 32) (Nat.min_eq_right (Nat.le_of_lt_succ (field_lt p 32 32)))).trans (setField_field p 32 32)
  exact congrArg (fun p => { r with pslost := p }) (hsame _)

theorem later_eq (n : Nat) : (fun p : PartialSum => !decide (p.pos + 6 ≤ n)) = fun p => decide (n < p.pos + 6) :=
  funext fun p => by rw [← decide_not, decide_eq_decide, Nat.not_le]

theorem match_none {o : Option PartialSum} {a : Core} {f : PartialSum → Core} (h : o = none) :
    (match (generalizing := false) o with | none => a | some p => f p) = a := by
  rw [h]

theorem match_some {o : Option PartialSum} {p : PartialSum} {a : Core} {f : PartialSum → Core} (h : o = some p) :
    (match (generalizing := false) o with | none => a | some p => f p) = f p := by
  rw [h]

theorem Core.arriveSums_none {c : Core} (h : (c.psums.filter fun p => decide (p.pos + 6 ≤ c.issue)) = []) :
    c.arriveSums = c :=
  match_none (List.getLast?_eq_none_iff.mpr h)

/-- A core with the partial sums that are still to arrive, the one that stands at the port, and some registers. -/
noncomputable def Core.withSums (c : Core) (later : List PartialSum) (p : PartialSum) (r : Arch) : Core :=
  { c with psums := later, port := some p, r := r }

theorem Core.arriveSums_some {c : Core} {p : PartialSum}
    (h : (c.psums.filter fun p => decide (p.pos + 6 ≤ c.issue)).getLast? = some p) :
    let lost := (c.psums.filter fun p => decide (p.pos + 6 ≤ c.issue)).length - 1 + if c.port.isSome then 1 else 0
    c.arriveSums = c.withSums (c.psums.filter fun p => decide (c.issue < p.pos + 6)) p
      { c.r with pslost := setField c.r.pslost 0 32 (min 0xFFFFFFFF (field c.r.pslost 0 32 + lost)) } :=
  (match_some h).trans
    (congrArg₂ (fun q r => c.withSums (c.psums.filter q) p r) (later_eq c.issue) (c.r.countSums_lost _))

/-! ## Waits, freeze cycles and the budget (R98, R365, R424) -/

theorem waitOver_iff {l n : Nat} : (l != 0 && decide (l ≤ n)) = true ↔ 0 < l ∧ l ≤ n := by
  rw [Bool.and_eq_true, bne_iff_ne, decide_eq_true_eq, Nat.pos_iff_ne_zero]

section
variable {s : State} {k : Nat}

theorem feWaitLimit_reached (h0 : 0 < (s.core k).r.waitlim.toNat) (h : (s.core k).r.waitlim.toNat ≤ (s.core k).waited) :
    exec (.feWaitLimit k) s = .next (s.setCore k { s.core k with limit := true }) :=
  congrArg Host.Outcome.next (if_pos (waitOver_iff.mpr ⟨h0, h⟩))

theorem feWaitLimit_waits (h : (s.core k).r.waitlim.toNat = 0 ∨ (s.core k).waited < (s.core k).r.waitlim.toNat) :
    exec (.feWaitLimit k) s = .next s :=
  congrArg Host.Outcome.next (if_neg fun e => h.elim (waitOver_iff.mp e).1.ne' (Nat.not_lt.mpr (waitOver_iff.mp e).2))

/-- A core with its pending user causes replaced. -/
noncomputable def Core.withPending (c : Core) (l : List Cause) : Core := { c with pendU := l }

theorem pendUser_core {p : Nat} {c : Core} (hi : s.inImage p k = false) (hc : s.core k = c) (h : c.pendU.length < 16)
    (x : Cause) : s.pendUser p k x = s.setCore k (c.withPending (c.pendU ++ [x])) := by
  have hco : s.coreOf p k = c := (coreOf_of_not_inImage hi).trans hc
  subst hco
  exact (if_pos h).trans (setCoreOf_of_not_inImage hi _)

/-- The cause of an exhausted budget. -/
noncomputable def budgetCause : Cause := ⟨BitVec.ofNat 6 cBudget, true, 0, false, 0, 0, 0, 0, 0⟩

theorem pendUser_setCore {p : Nat} (hi : s.inImage p k = false) (c : Core) (h : c.pendU.length < 16) (x : Cause) :
    (s.setCore k c).pendUser p k x = s.setCore k (c.withPending (c.pendU ++ [x])) :=
  (pendUser_core (s := s.setCore k c) hi (State.core_setCore_self s k c) h x).trans (State.setCore_setCore ..)

theorem budget_exec (hd : (s.core k).budgetDue = true) (hb : (s.core k).blk ≠ none)
    (hl : (s.core k).pendU.length < 16) (hi : s.inImage (s.partOf k) k = false) :
    exec (.budget k) s = .next (s.setCore k
      ({ s.core k with budgetDue := false }.withPending ((s.core k).pendU ++ [budgetCause]))) :=
  congrArg Host.Outcome.next
    ((if_pos (Bool.and_eq_true_iff.mpr ⟨hd, Option.isSome_iff_ne_none.mpr hb⟩)).trans
      (pendUser_setCore hi { s.core k with budgetDue := false } hl _))

end

/-! ## Entry into a handler (R398, R400, R401) -/

/-- A core but for its partial sums and PSLOST. -/
noncomputable def Core.sumless (c : Core) : Core := { c with psums := [], port := none, r := { c.r with pslost := 0 } }

/-- A core that discards its partial sums has all else but PSLOST as it was. -/
theorem Core.dropSums_sumless (c : Core) : c.dropSums.sumless = c.sumless :=
  iteInduction (motive := fun d => Core.sumless d = c.sumless) (fun _ => rfl) (fun _ => rfl)

theorem bank_lt (j : Fin 8) : 40 + j.val < 48 := Nat.add_lt_add_left j.isLt 40

theorem low_lt {j : Nat} (hj : j < 40) : j < 48 := Nat.lt_trans hj (by decide)

theorem Arch.bank_s (r : Arch) (j : Fin 8) : r.bank.s[j.val]'j.isLt = r.s[40 + j.val]'(bank_lt j) :=
  have hbank : r.bank.s = Vector.ofFn fun j : Fin 8 => r.s[40 + j.val]'(bank_lt j) := rfl
  (congrArg (fun v : Vector Cell64 8 => v[j.val]'j.isLt) hbank).trans (Vector.getElem_ofFn j.isLt)

/-- The registers below the bank, through a write above them. -/
theorem getElem_set_high {v : Vector Cell64 48} {n j : Nat} (hn : n < 48) (h : 40 ≤ n) (hj : j < 40) (x : Cell64) :
    (v.set n x hn)[j]'(low_lt hj) = v[j]'(low_lt hj) :=
  Vector.getElem_set_ne _ _ (Nat.ne_of_gt (Nat.lt_of_lt_of_le hj h))

/-- The registers below the bank, through an exchange of the bank and the writes of `s46` and `s47`. -/
theorem Arch.loadBank_low (r : Arch) (b : Bank) (x y : Cell64) {j : Nat} (hj : j < 40) :
    (((r.loadBank b).s.set 46 x).set 47 y)[j]'(low_lt hj) = r.s[j]'(low_lt hj) := by
  iterate 2 refine (getElem_set_high (by decide) (by decide) hj _).trans ?_
  unfold Arch.loadBank
  iterate 7 refine (getElem_set_high (by decide) (by decide) hj _).trans ?_
  exact getElem_set_high (by decide) (by decide) hj _

section
variable (c : Core) (v : W64) (x : Cause) (a b : W64)

theorem Core.enterKernel_low (j : Fin 40) :
    (c.enterKernel v x a).r.s[j.val]'(low_lt j.isLt) = c.r.s[j.val]'(low_lt j.isLt) :=
  (Arch.loadBank_low _ _ _ _ j.isLt).trans (congrArg (fun v : Vector Cell64 48 => v[j.val]'(low_lt j.isLt)) c.dropSums_s)

theorem Core.enterUser_low (j : Fin 40) :
    (c.enterUser x a b).r.s[j.val]'(low_lt j.isLt) = c.r.s[j.val]'(low_lt j.isLt) :=
  (Arch.loadBank_low _ _ _ _ j.isLt).trans (congrArg (fun v : Vector Cell64 48 => v[j.val]'(low_lt j.isLt)) c.dropSums_s)

theorem Core.enterKernel_bankK (j : Fin 8) : (c.enterKernel v x a).bankK.s[j.val]'j.isLt = c.r.s[40 + j.val]'(bank_lt j) :=
  (Arch.bank_s _ j).trans (congrArg (fun v : Vector Cell64 48 => v[40 + j.val]'(bank_lt j)) c.dropSums_s)

theorem Core.enterUser_bankU (j : Fin 8) : (c.enterUser x a b).bankU.s[j.val]'j.isLt = c.r.s[40 + j.val]'(bank_lt j) :=
  (Arch.bank_s _ j).trans (congrArg (fun v : Vector Cell64 48 => v[40 + j.val]'(bank_lt j)) c.dropSums_s)

theorem Core.enterKernel_handler : (c.enterKernel v x a).handler = c.handler :=
  (congrArg Core.handler c.dropSums_sumless :)

theorem Core.enterKernel_trapU : (c.enterKernel v x a).trapU = c.trapU := (congrArg Core.trapU c.dropSums_sumless :)

theorem Core.enterKernel_pendK : (c.enterKernel v x a).pendK = c.pendK := (congrArg Core.pendK c.dropSums_sumless :)

theorem Core.enterUser_kernel : (c.enterUser x a b).kernel = c.kernel := (congrArg Core.kernel c.dropSums_sumless :)

theorem Core.enterUser_pendU : (c.enterUser x a b).pendU = c.pendU := (congrArg Core.pendU c.dropSums_sumless :)

theorem Core.enterUser_pc : (c.enterUser x a b).pc = BitVec.ofNat 64 (field c.r.uivec 2 55 * 4) :=
  congrArg (fun u => BitVec.ofNat 64 (field u 2 55 * 4)) (congrArg (·.r.uivec) c.dropSums_sumless :)

end

/-- The core that a pending kernel cause finds: of an idle one the cycles that have passed count. -/
noncomputable def State.entering (s : State) (k : Nat) : Core :=
  let c := s.core k
  if c.blk.isNone && !c.kernel && !c.stopped then c.idled s.tick else c

theorem State.entering_keeps (s : State) (k : Nat) {α : Type} (f : Core → α)
    (h : f ((s.core k).idled s.tick) = f (s.core k)) : f (s.entering k) = f (s.core k) :=
  iteInduction (motive := fun d => f d = f (s.core k)) (fun _ => h) (fun _ => rfl)

/-- The state that a pending kernel cause leaves with the core in the system handler. -/
noncomputable def State.enterSystem (s : State) (k : Nat) (x : Cause) (rest : List Cause) : Core :=
  { s.entering k with pendK := rest }.endWait.enterKernel (s.part (s.partOf k)).kvec x (s.entering k).pc

/-- A core that a pending user cause takes to the user handler. -/
noncomputable def Core.enterHandler (c : Core) (x : Cause) (rest : List Cause) : Core :=
  { c with pendU := rest, blk := c.blk.map fun b : Block => { b with ahead := b.ahead.map (· - 1) } }.endWait.enterUser
    x c.pc c.pc

theorem match_cons {l rest : List Cause} {x : Cause} {a : State} {f : Cause → List Cause → State} (h : l = x :: rest) :
    (match (generalizing := false) l with | [] => a | x :: rest => f x rest) = f x rest := by
  rw [h]

theorem not_squashed {o : Option Block} (h : ∀ b, o = some b → b.squashed = false) :
    (match (generalizing := false) o with | some b => b.squashed | none => false) = false := by
  cases o with
  | none => rfl
  | some b => exact h b rfl

section
variable {s : State} {k : Nat} (hs : (s.core k).stopped = false) (hk : (s.core k).kernel = false)
  (hq : ∀ b, (s.core k).blk = some b → b.squashed = false) {x : Cause} {rest : List Cause}
include hs hk hq

theorem kernelEntry_enters (hp : (s.core k).pendK = x :: rest) :
    kernelEntry s k = s.setCore k (s.enterSystem k x rest) := by
  have hrun : ((s.entering k).kernel || (s.entering k).stopped) = false := by
    rw [s.entering_keeps k Core.kernel rfl, s.entering_keeps k Core.stopped rfl, hk, hs]
    rfl
  have hkept (b : Block) (h : (s.entering k).blk = some b) : b.squashed = false :=
    hq b ((s.entering_keeps k Core.blk rfl).symm.trans h)
  have hpend := (s.entering_keeps k Core.pendK rfl).trans hp
  refine (match_cons hpend).trans ?_
  exact (if_neg (Bool.eq_false_iff.mp hrun)).trans (if_neg (Bool.eq_false_iff.mp (not_squashed hkept)))

theorem userEntry_enters (hn : (s.core k).pendK = []) (hp : (s.core k).pendU = x :: rest)
    (hh : (s.core k).handler = false) (hb : (s.core k).blk ≠ none) (he : bit (s.core k).r.uivec 0 = true) :
    userEntry s k = s.setCore k ((s.core k).enterHandler x rest) := by
  have hfree : ((s.core k).handler || (s.core k).kernel || (s.core k).stopped || (s.core k).blk.isNone
      || !(s.core k).pendK.isEmpty) = false := by
    rw [hh, hk, hs, hn, Option.isNone_eq_false_iff.mpr (Option.isSome_iff_ne_none.mpr hb)]
    rfl
  refine (match_cons hp).trans ?_
  exact (if_neg (Bool.eq_false_iff.mp hfree)).trans ((if_neg (Bool.eq_false_iff.mp (not_squashed hq))).trans (if_pos he))

end

section
variable (s : State) (k : Nat) (x : Cause) (rest : List Cause)

theorem State.enterSystem_s47 : (s.enterSystem k x rest).r.s[47] = known (s.core k).pc :=
  (Core.enterKernel_s47 ..).trans (congrArg known (s.entering_keeps k Core.pc rfl))

theorem State.enterSystem_handler : (s.enterSystem k x rest).handler = (s.core k).handler :=
  (Core.enterKernel_handler ..).trans (s.entering_keeps k Core.handler rfl)

theorem State.enterSystem_trapU : (s.enterSystem k x rest).trapU = (s.core k).trapU :=
  (Core.enterKernel_trapU ..).trans (s.entering_keeps k Core.trapU rfl)

theorem State.enterSystem_low (j : Fin 40) :
    (s.enterSystem k x rest).r.s[j.val]'(low_lt j.isLt) = (s.core k).r.s[j.val]'(low_lt j.isLt) :=
  (Core.enterKernel_low _ _ _ _ j).trans (s.entering_keeps k (fun c => c.r.s[j.val]'(low_lt j.isLt)) rfl)

theorem State.enterSystem_bankK (j : Fin 8) :
    (s.enterSystem k x rest).bankK.s[j.val]'j.isLt = (s.core k).r.s[40 + j.val]'(bank_lt j) :=
  (Core.enterKernel_bankK _ _ _ _ j).trans (s.entering_keeps k (fun c => c.r.s[40 + j.val]'(bank_lt j)) rfl)

end

/-- A core after a freeze cycle. -/
noncomputable def Core.afterFreeze (c : Core) : Core :=
  { c with cycles := c.cycles + 1, waited := if c.waited = 0 then 0 else c.waited + 1, charge := (0 :: c.charge).take 127
           r := { c.r with frzcnt := BitVec.ofNat 64 (satAdd (2 ^ 48 - 1) (field c.r.frzcnt 0 48) 1) } }

/-! ## The events around a group -/

/-- Settles O44: each event around a group by what it does to the core that it concerns. -/
theorem issueEvents : Obligations.IssueEvents := by
  unfold Obligations.IssueEvents
  refine ⟨?_, ?_, ?_⟩
  · intro s f n cf x u
    exact ⟨fun h => ⟨congrArg _ (if_pos h), congrArg _ (if_pos h)⟩,
      congrArg (fun cf => Host.Outcome.next (State.raiseFlag _ f n.toNat cf)) (promiseBefore_cf ..),
      fun h hl => List.forall_iff_forall_mem.mpr fun i hi =>
        (sync_waits h i hi).trans (congrArg Host.Outcome.next (flagWait_held hl)),
      fun h hl i hi => ⟨flagLimit f, (sync_waits h i hi).trans (congrArg Host.Outcome.next (flagWait_limit hl)), rfl, rfl⟩⟩
  · intro s bs hf ws hskip
    refine exists_of_let (s.setMe (s.me.skipped (s.me.skipCost ws) (s.engineCharge s.here)
      ((bs.map (·.2.length)).foldl (· + ·) 0))) ?_
    intro t
    refine exists_of_let (s.me.skipCost ws) ?_
    intro n
    exact ⟨nullifierSkip_exec hf hskip, congrArg s.setMe (State.me_setMe s _).symm, s.me.skipCost_le _,
      s.me.skipCost_eq_zero_iff _, Core.skipped_passed (State.me_setMe s _)⟩
  · intro s k c due lost
    refine ⟨⟨fun h => congrArg (fun d => Host.Outcome.next (s.setCore k d)) (Core.arriveSums_none h),
      fun p h => congrArg (fun d => Host.Outcome.next (s.setCore k d)) (Core.arriveSums_some h)⟩,
      feWaitLimit_reached, feWaitLimit_waits, ?_,
      fun hd hb hl hi => exists_and_of budgetCause (budget_exec hd hb hl hi) ⟨rfl, rfl⟩, fun hs hk hq => ⟨?_, ?_⟩⟩
    · refine exists_of_let c.afterFreeze ?_
      intro t
      exact ⟨rfl, rfl, rfl, rfl, rfl⟩
    · intro x rest hp
      refine exists_of_let (s.enterSystem k x rest) ?_
      intro t
      exact ⟨congrArg _ (kernelEntry_enters hs hk hq hp), rfl, rfl, Core.enterKernel_pendK .., rfl,
        Core.enterKernel_s46 .., s.enterSystem_s47 .., s.enterSystem_handler .., s.enterSystem_trapU ..,
        s.enterSystem_low k x rest, s.enterSystem_bankK k x rest, rfl⟩
    · intro x rest hn hp hh hb he
      refine exists_of_let (c.enterHandler x rest) ?_
      intro t
      exact ⟨congrArg _ (userEntry_enters hs hk hq hn hp hh hb he),
        (Core.enterUser_kernel ..).trans hk, rfl, rfl, Core.enterUser_pendU .., Core.enterUser_pc .., rfl, rfl,
        Core.enterUser_s46 .., Core.enterUser_s47 .., Core.enterUser_low _ _ _ _, Core.enterUser_bankU _ _ _ _, rfl⟩

end Sys2Proof.Machine
end

section
namespace Sys2Proof.Machine

/-! ## Tests that fail -/

theorem bnot_ne_true {b : Bool} (h : b = true) : ¬(!b) = true := by
  rw [h]
  exact Bool.false_ne_true

theorem or_ne_true {a b : Bool} (ha : a = false) (hb : b = false) : ¬(a || b) = true := by
  rw [ha, hb]
  exact Bool.false_ne_true

/-! ## Arrivals at a queue (R355, R359 to R361) -/

theorem badrec_counts {s t : State} {cl : Nat} (h : t = s.badrec cl) :
    (t.cluster cl).badrec.toNat = min 0xFFFF ((s.cluster cl).badrec.toNat + 1)
    ∧ (t.cluster cl).store = (s.cluster cl).store := by
  subst h
  exact ⟨(congrArg (fun c : Cluster => c.badrec.toNat) (State.cluster_setCluster_self s cl _)).trans
    (toNat_ofNat_satAdd (by decide) _), (congrArg Cluster.store (State.cluster_setCluster_self s cl _) :)⟩

theorem dropped_counts {s t : State} {cl : Nat} (h : t = s.dropped cl 1) :
    (t.cluster cl).drop.toNat = min 0xFFFF ((s.cluster cl).drop.toNat + 1)
    ∧ (t.cluster cl).store = (s.cluster cl).store := by
  subst h
  exact ⟨(congrArg (fun c : Cluster => c.drop.toNat) (State.cluster_setCluster_self s cl _)).trans
    (toNat_ofNat_satAdd (by decide) _), (congrArg Cluster.store (State.cluster_setCluster_self s cl _) :)⟩

theorem addRec_store (s : State) (cl : Nat) (r : Rec) :
    ((s.addRec cl r).cluster cl).store = (s.cluster cl).store ++ [r] :=
  congrArg Cluster.store (State.cluster_setCluster_self ..)

theorem recState_setCause (w : Vector W64 8) (c : Nat) : recState (setCause w c) = recState w :=
  congrArg (field · 0 2) (Vector.getElem_set_ne _ _ (by decide))

theorem placeRec_recs (s : State) (cl : Nat) (r : Rec) : (s.placeRec cl r).recs = s.recs := by
  refine iteInduction (motive := fun t : State => t.recs = s.recs) (fun _ => ?_) (fun _ => rfl)
  cases oldest _
  · rfl
  · rfl

/-- The record that a message becomes in the store of its cluster. -/
noncomputable def State.arrived (s : State) (cl q : Nat) (words : Vector W64 8) : Rec :=
  ⟨s.fresh, setCause words 0, q, s.queueGen cl q, .ready, s.fresh, [], none⟩

/-- A state that has given out a number. -/
noncomputable def State.numbered (s : State) : State := { s with fresh := s.fresh + 1 }

/-- What becomes of a record whose fate is known and that no one answers for. -/
noncomputable def State.quietly (s : State) (cl q : Nat) (words : Vector W64 8) (bad : Bool) : Arrival → State
  | .taken s' => s'
  | .stale => s.dropped cl 1
  | .noSpace => s.dropped cl 1
  | .wait t => { t with fresh := t.fresh + 1, recs := t.recs ++ [⟨t.fresh, cl, q, words, bad⟩] }

section
variable {s : State} {cl q : Nat} {words : Vector W64 8} {bad : Bool}

theorem bad_iff {v : Bool} : (bad || !v) = true ↔ bad = true ∨ v = false := by
  rw [Bool.or_eq_true, Bool.not_eq_true']

theorem not_bad {v : Bool} (hb : bad = false) (hv : v = true) : ¬(bad = true ∨ v = false) :=
  not_or.mpr ⟨Bool.eq_false_iff.mp hb, ne_false_of_eq_true hv⟩

theorem arriveQuiet_bad (h : bad = true ∨ s.validRecord (chipOfCluster cl) words = false) :
    s.arriveQuiet cl q words bad = s.badrec cl := if_pos (bad_iff.mpr h)

theorem arriveQuiet_good (h : ¬(bad = true ∨ s.validRecord (chipOfCluster cl) words = false)) :
    s.arriveQuiet cl q words bad = s.quietly cl q words bad (s.arrive cl q words none) := if_neg (mt bad_iff.mp h)

theorem arrive_stale (hq : s.queueV cl q = false) : s.arrive cl q words none = .stale :=
  if_pos (congrArg (!·) hq)

/-- A record that its queue has room for in the store is placed there. -/
theorem arrive_taken (ho : s.overflowed cl q = 0) (hu : s.storeUsed cl < 4096) (hp : s.isOut (s.queuePart cl q) = false)
    (hq : s.queueV cl q = true) :
    s.arrive cl q words none = .taken (s.numbered.placeRec cl (s.arrived cl q words)) :=
  (if_neg (bnot_ne_true hq)).trans (if_neg (or_ne_true (Bool.or_eq_false_iff.mpr
    ⟨bne_eq_false_iff_eq.mpr ho, decide_eq_false (Nat.not_le.mpr hu)⟩) hp))

/-- No record that arrives where its queue has room in the store waits. -/
theorem arriveQuiet_recs (ho : s.overflowed cl q = 0) (hu : s.storeUsed cl < 4096)
    (hp : s.isOut (s.queuePart cl q) = false) : (s.arriveQuiet cl q words bad).recs = s.recs := by
  by_cases h : bad = true ∨ s.validRecord (chipOfCluster cl) words = false
  · exact (congrArg State.recs (arriveQuiet_bad h) :)
  · refine (congrArg State.recs (arriveQuiet_good h)).trans ?_
    cases hq : s.queueV cl q
    · exact (congrArg (fun a => (s.quietly cl q words bad a).recs) (arrive_stale hq) :)
    · exact (congrArg (fun a => (s.quietly cl q words bad a).recs) (arrive_taken ho hu hp hq)).trans (placeRec_recs ..)

end

theorem placed_store {s t : State} {cl q : Nat} {words : Vector W64 8}
    (ht : t = s.numbered.placeRec cl (s.arrived cl q words)) (h : recState words = 0) :
    (t.cluster cl).store = (s.cluster cl).store ++ [{ s.arrived cl q words with state := .ready }] := by
  have hready : recState (s.arrived cl q words).words ≠ 1 :=
    ((recState_setCause ..).trans h).trans_ne Nat.zero_ne_one
  exact (congrArg (fun t : State => (t.cluster cl).store) (ht.trans (if_neg hready))).trans (addRec_store s.numbered ..)

theorem takesRecord_of (s t : State) (cl q : Nat) (words : Vector W64 8) (bad : Bool)
    (ht : t = s.arriveQuiet cl q words bad) : s.takesRecord t cl q words bad := by
  refine ⟨fun h => badrec_counts (ht.trans (arriveQuiet_bad h)), fun hb hv =>
    ⟨fun hq => dropped_counts (ht.trans ((arriveQuiet_good (not_bad hb hv)).trans (congrArg _ (arrive_stale hq)))), ?_⟩⟩
  intro hq ho hu hp hr
  refine exists_of_let { s.arrived cl q words with state := .ready } ?_
  intro r
  exact ⟨placed_store (ht.trans ((arriveQuiet_good (not_bad hb hv)).trans (congrArg _ (arrive_taken ho hu hp hq)))) hr,
    rfl, rfl, rfl, rfl⟩

/-- A state without some message that was on its way to a queue. -/
noncomputable def State.withoutRec (s : State) (id : Nat) : State := { s with recs := s.recs.filter fun x => x.id != id }

theorem match_message {o : Option RecMsg} {m : RecMsg} {a : State} {f : RecMsg → State} (h : o = some m) :
    (match (generalizing := false) o with | none => a | some m => f m) = f m := by
  rw [h]

theorem recordEnqueue_clause (s : State) (id : Nat) (m : RecMsg) (hm : (s.recs.find? fun x => x.id == id) = some m) :
    ∃ t, exec (.recordEnqueue id) s = .next t ∧ s.takesRecord t m.cluster m.queue m.words m.poison
      ∧ (s.overflowed m.cluster m.queue = 0 → s.storeUsed m.cluster < 4096 →
        s.isOut (s.queuePart m.cluster m.queue) = false → t.recs = s.recs.filter fun x => x.id != id) := by
  refine exists_of_let ((s.withoutRec id).arriveQuiet m.cluster m.queue m.words m.poison) ?_
  intro t
  exact ⟨congrArg Host.Outcome.next (match_message hm), takesRecord_of (s.withoutRec id) t _ _ _ _ rfl,
    arriveQuiet_recs (s := s.withoutRec id)⟩

theorem writeWindow_eq {s : State} {ma cl q off : Nat} (bytes : List (BitVec 8)) (bad : Bool)
    (hw : windowOf ma = some (cl, q, off)) : s.writeWindow ma bytes bad = if (off = 0 && bytes.length = 64) = true
      then s.arriveQuiet cl q (wordsOf (clean bytes)) bad else s.badrec cl := by
  unfold State.writeWindow
  rw [hw]

theorem enqueueWindowWrite_clause (s : State) (ma cl q off : Nat) (bytes : List (BitVec 8)) (bad : Bool)
    (hw : windowOf ma = some (cl, q, off)) :
    ∃ t, exec (.enqueueWindowWrite ma bytes bad) s = .next t
      ∧ (off = 0 → bytes.length = 64 → s.takesRecord t cl q (wordsOf (clean bytes)) bad)
      ∧ (off ≠ 0 ∨ bytes.length ≠ 64 →
        (t.cluster cl).badrec.toNat = min 0xFFFF ((s.cluster cl).badrec.toNat + 1)
        ∧ (t.cluster cl).store = (s.cluster cl).store) := by
  refine exists_of_let (s.writeWindow ma bytes bad) ?_
  intro t
  exact ⟨rfl, fun h0 h64 => takesRecord_of s t _ _ _ _ ((writeWindow_eq bytes bad hw).trans
      (if_pos (Bool.and_eq_true_iff.mpr ⟨decide_eq_true h0, decide_eq_true h64⟩))),
    fun h => badrec_counts ((writeWindow_eq bytes bad hw).trans (if_neg fun e => h.elim
      (· (of_decide_eq_true (Bool.and_eq_true_iff.mp e).1)) (· (of_decide_eq_true (Bool.and_eq_true_iff.mp e).2))))⟩

/-! ## Decrements of a join word (R79, R261, R354) -/

/-- A state without what an order of performance changes, accesses, cores and images, and without decrements. -/
noncomputable def State.bare (s : State) : State := { s with accs := [], cores := [], parts := [], decs := [] }

theorem setCoreOf_bare (s : State) (p k : Nat) (c : Core) : (s.setCoreOf p k c).bare = s.bare := by
  unfold State.setCoreOf
  cases s.imageOf p k
  · rfl
  · rfl

theorem passPolls_bare (s : State) (p k ord : Nat) : (s.passPolls p k ord).bare = s.bare :=
  iteInduction (motive := fun t => State.bare t = s.bare) (fun _ => rfl) (fun _ => rfl)

theorem promiseBefore_bare (s : State) (p k ord scope : Nat) : (s.promiseBefore p k ord scope).bare = s.bare :=
  iteInduction (motive := fun t => State.bare t = s.bare) (fun _ => rfl) fun _ =>
    (setCoreOf_bare ..).trans (passPolls_bare ..)

theorem getD_map_range {α : Type} (f : Nat → α) (x : α) {n i : Nat} (h : i < n) :
    ((List.range n).map f).getD i x = f i := by
  rw [List.getD_eq_getElem?_getD, List.getElem?_map, List.getElem?_range h]
  rfl

theorem match_named {o : Option (Nat × Nat)} {x y : Nat} {a : State} {f : Nat → Nat → State} (h : o = some (x, y)) :
    (match (generalizing := false) o with | some (x, y) => f x y | none => a) = f x y := by
  rw [h]

theorem match_bank {o : Option (Nat × Nat)} {x y : Nat} {a : State} {f : Nat → Nat → State} (h : o = some (x, y)) :
    (match (generalizing := false) o with | none => a | some (x, y) => f x y) = f x y := by
  rw [h]

section
variable {u : State} {d : Decrement} {k off j w crp : Nat}

/-- The record that a join word names, with the words at its bank. -/
noncomputable def State.named (u : State) (d : Decrement) (j w crp : Nat) : RecMsg :=
  let ws := (List.range 8).map fun i => u.bankWord d.part j (w + i)
  let word := fun i => (ws.getD i SpWord.reset).data
  ⟨u.fresh, clusterOf j, bitsOf crp 17 12, #v[word 0, word 1, word 2, word 3, word 4, word 5, word 6, word 7],
    ws.any (·.poison)⟩

theorem named_words (u : State) (d : Decrement) (j w crp : Nat) (i : Fin 8) :
    (u.named d j w crp).words[i.val]'i.isLt = (u.bankWord d.part j (w + i.val)).data :=
  let word := fun i => (((List.range 8).map fun i => u.bankWord d.part j (w + i)).getD i SpWord.reset).data
  have hwords : (u.named d j w crp).words = Vector.ofFn fun i : Fin 8 => word i.val := rfl
  (congrArg (fun v : Vector W64 8 => v[i.val]'i.isLt) hwords).trans
    ((Vector.getElem_ofFn i.isLt).trans (congrArg SpWord.data (getD_map_range _ _ i.isLt)))

/-- A record is on its way to its queue. -/
noncomputable def State.enqueued (u : State) (m : RecMsg) : State :=
  { u with fresh := u.fresh + 1, recs := u.recs ++ [m] }

/-- A named record within its limits is sent to its queue. -/
theorem enqueueNamed_sent (hj : spadName crp = some (j, w)) (hw : w % 8 = 0)
    (hm : u.member (chipOfCluster d.cluster) (bitsOf crp 40 8) = true)
    (hns : (d.ns && u.secureCluster (clusterOf j)) = false) (hpath : u.pathTo k (.spad j 0) = true) :
    u.enqueueNamed d k crp = u.enqueued (u.named d j w crp) :=
  have hdie := (Bool.and_eq_true_iff.mp (Option.ite_none_right_eq_some.mp hj).1).1
  (match_named hj).trans ((if_neg (bnot_ne_true (Bool.and_eq_true_iff.mpr ⟨hdie, hm⟩))).trans
    ((if_neg (bnot_ne_true hpath)).trans (if_neg (or_ne_true (decide_eq_false (not_not_intro hw)) hns))))

/-- What a decrement makes of the join word that it reaches. -/
noncomputable def State.countedDown (u : State) (d : Decrement) (k w : Nat) (x : SpWord) : State :=
  let n := field x.data 48 16
  let v := u.setBankWord d.part k w { x with data := setField x.data 48 16 (n - 1) }
  if n = 0 then u else if n = 1 then v.enqueueNamed d k (field x.data 0 48) else v

/-- A decrement whose JOIN may receive it, over a path that remains. -/
theorem decrementJoin_eq (h56 : field d.join 56 8 = 1) (h8 : d.join.toNat % 8 = 0)
    (hw : u.window (chipOfCluster d.cluster) d.join 8 = some (k, off))
    (hns : (d.ns && u.secureCluster (clusterOf k)) = false)
    (hpath : u.path (chipOfCluster d.cluster) (dieOfCluster d.cluster) (chipOf k) (dieOf k) = true)
    {x : SpWord} (hx : u.bankWord d.part k (off / 8) = x) (hp : x.poison = false) :
    u.decrementJoin d = u.countedDown d k (off / 8) x := by
  subst hx
  exact (if_neg (or_ne_true (decide_eq_false (not_not_intro h56)) (decide_eq_false (not_not_intro h8)))).trans
    ((match_bank hw).trans ((if_neg (bnot_ne_true hpath)).trans (if_neg (or_ne_true hp hns))))

end

theorem core_r_promiseBefore (s : State) (p c ord scope k : Nat) :
    ((s.promiseBefore p c ord scope).core k).r = (s.core k).r := by
  obtain ⟨q, hq⟩ := ((CommandsMarked.self s).promiseBefore p c ord scope).core k
  exact (congrArg Core.r hq).trans rfl

/-- A state without a decrement that was on its way. -/
noncomputable def State.withoutDec (s : State) (id : Nat) : State := { s with decs := s.decs.filter fun y => y.id != id }

theorem match_decrement {o : Option Decrement} {d : Decrement} {a : State} {f : Decrement → State} (h : o = some d) :
    (match (generalizing := false) o with | none => a | some d => f d) = f d := by
  rw [h]

section
variable (s : State) (id k off : Nat) (d : Decrement)
    (hd : (s.decs.find? fun x => x.id == id) = some d) (h56 : field d.join 56 8 = 1) (h8 : d.join.toNat % 8 = 0)
    (hw : s.window (chipOfCluster d.cluster) d.join 8 = some (k, off)) (hi : s.inImage d.part k = false)
    (hns : (d.ns && s.secureCluster (clusterOf k)) = false) (hperf : s.performedBefore d.part d.src d.ord 5 = true)
    (hord : d.ord ≤ (s.coreOf d.part d.src).ord)
    (hpath : s.path (chipOfCluster d.cluster) (dieOfCluster d.cluster) (chipOf k) (dieOf k) = true)
include hd h56 h8 hw hi hns hperf hord hpath

/-- A decrement reaches its join word, once what its resolver sent before it counts as performed. -/
theorem joinDecrement_exec (hp : ((s.core k).r.word (off / 8)).poison = false) : exec (.joinDecrement id) s
    = .next (((s.withoutDec id).promiseBefore d.part d.src d.ord 5).countedDown d k (off / 8)
      ((s.core k).r.word (off / 8))) := by
  obtain ⟨u, hu⟩ : ∃ u, (s.withoutDec id).promiseBefore d.part d.src d.ord 5 = u := ⟨_, rfl⟩
  have hbare : u.bare = s.bare := hu ▸ promiseBefore_bare ..
  have hcore : (u.core k).r = (s.core k).r := hu ▸ core_r_promiseBefore (s.withoutDec id) ..
  have hiu : u.inImage d.part k = false := hu ▸ (inImage_promiseBefore ..).trans hi
  have hsecure : u.secureCluster (clusterOf k) = s.secureCluster (clusterOf k) :=
    (congrArg (State.secureCluster · (clusterOf k)) hbare :)
  have hwin : u.window (chipOfCluster d.cluster) d.join 8 = s.window (chipOfCluster d.cluster) d.join 8 :=
    (congrArg (State.window · (chipOfCluster d.cluster) d.join 8) hbare :)
  have hreach : u.path (chipOfCluster d.cluster) (dieOfCluster d.cluster) (chipOf k) (dieOf k)
      = s.path (chipOfCluster d.cluster) (dieOfCluster d.cluster) (chipOf k) (dieOf k) :=
    (congrArg (State.path · (chipOfCluster d.cluster) (dieOfCluster d.cluster) (chipOf k) (dieOf k)) hbare :)
  refine congrArg Host.Outcome.next ((match_decrement hd).trans ((if_neg (or_ne_true (congrArg (!·) hperf)
    (decide_eq_false (Nat.not_lt.mpr hord)))).trans ?_))
  exact hu ▸ decrementJoin_eq h56 h8 (hwin.trans hw) ((congrArg (d.ns && ·) hsecure).trans hns) (hreach.trans hpath)
    ((bankWord_of_not_inImage hiu _).trans (congrArg (fun r : Arch => r.word (off / 8)) hcore)) hp

end

/-- A join word that counts down to more than zero. -/
theorem countedDown_more {u : State} {d : Decrement} {k w : Nat} {x : SpWord} (hi : u.inImage d.part k = false)
    (h : 1 < field x.data 48 16) : u.countedDown d k w x
      = u.setCore k ((u.core k).withRegs ((u.core k).r.setWord w
        { x with data := setField x.data 48 16 (field x.data 48 16 - 1) })) :=
  (if_neg (Nat.ne_of_gt (Nat.zero_lt_of_lt h))).trans ((if_neg (Nat.ne_of_gt h)).trans (setBankWord_of_not_inImage hi _ _))

/-- A join word that counts down to zero sends the record that it names. -/
theorem countedDown_last {u v : State} {d : Decrement} {k w j n : Nat} {x : SpWord} (hi : u.inImage d.part k = false)
    (hv : v = u.setCore k ((u.core k).withRegs
      ((u.core k).r.setWord w { x with data := setField x.data 48 16 (field x.data 48 16 - 1) })))
    (h : field x.data 48 16 = 1) (hj : spadName (field x.data 0 48) = some (j, n)) (hn : n % 8 = 0)
    (hm : v.member (chipOfCluster d.cluster) (bitsOf (field x.data 0 48) 40 8) = true)
    (hns : (d.ns && v.secureCluster (clusterOf j)) = false) (hpath : v.pathTo k (.spad j 0) = true) :
    u.countedDown d k w x = v.enqueued (v.named d j n (field x.data 0 48)) := by
  refine (if_neg (h.trans_ne Nat.one_ne_zero)).trans ((if_pos h).trans (Eq.trans ?_ (enqueueNamed_sent hj hn hm hns hpath)))
  exact congrArg (State.enqueueNamed · d k (field x.data 0 48)) ((setBankWord_of_not_inImage hi _ _).trans hv.symm)

theorem joinDecrement_clause (s : State) (id k off : Nat) (d : Decrement)
    (hd : (s.decs.find? fun x => x.id == id) = some d) (h56 : field d.join 56 8 = 1) (h8 : d.join.toNat % 8 = 0)
    (hw : s.window (chipOfCluster d.cluster) d.join 8 = some (k, off)) (hi : s.inImage d.part k = false)
    (hns : (d.ns && s.secureCluster (clusterOf k)) = false) (hperf : s.performedBefore d.part d.src d.ord 5 = true)
    (hord : d.ord ≤ (s.coreOf d.part d.src).ord)
    (hpath : s.path (chipOfCluster d.cluster) (dieOfCluster d.cluster) (chipOf k) (dieOf k) = true) :
    let x := (s.core k).r.word (off / 8)
    let n := field x.data 48 16
    let u := { s with decs := s.decs.filter fun y => y.id != id }.promiseBefore d.part d.src d.ord 5
    let counted := u.setCore k { u.core k with
      r := (u.core k).r.setWord (off / 8) { x with data := setField x.data 48 16 (n - 1) } }
    x.poison = false →
      (n = 0 → exec (.joinDecrement id) s = .next u) ∧ (1 < n → exec (.joinDecrement id) s = .next counted)
      ∧ ∀ j w, n = 1 → spadName (field x.data 0 48) = some (j, w) → w % 8 = 0 →
        s.member (chipOfCluster d.cluster) (bitsOf (field x.data 0 48) 40 8) = true →
        (d.ns && s.secureCluster (clusterOf j)) = false → counted.pathTo k (.spad j 0) = true →
          ∃ t m, exec (.joinDecrement id) s = .next t ∧ t.recs = s.recs ++ [m] ∧ m.cluster = clusterOf j
            ∧ m.queue = bitsOf (field x.data 0 48) 17 12 ∧ t.cores = counted.cores
            ∧ ∀ i : Fin 8, m.words[i]'i.isLt = (counted.bankWord d.part j (w + i.val)).data := by
  intro x n u counted hp
  refine ⟨fun h0 => (joinDecrement_exec s id k off d hd h56 h8 hw hi hns hperf hord hpath hp).trans (congrArg _ (if_pos h0)),
    fun h1 => (joinDecrement_exec s id k off d hd h56 h8 hw hi hns hperf hord hpath hp).trans
      (congrArg _ (countedDown_more ((inImage_promiseBefore ..).trans hi) h1)), ?_⟩
  intro j w h1 hj hw8 hm hnj hpj
  refine exists_of_let (counted.enqueued (counted.named d j w (field x.data 0 48))) ?_
  intro t
  refine exists_of_let (counted.named d j w (field x.data 0 48)) ?_
  intro m
  exact ⟨(joinDecrement_exec s id k off d hd h56 h8 hw hi hns hperf hord hpath hp).trans (congrArg _
      (countedDown_last (v := counted) ((inImage_promiseBefore ..).trans hi) rfl h1 hj hw8
        ((congrArg (State.member · _ _) (promiseBefore_bare (s.withoutDec id) ..) :).trans hm)
        ((congrArg (fun v : State => d.ns && v.secureCluster (clusterOf j)) (promiseBefore_bare (s.withoutDec id) ..) :).trans
          hnj) hpj)),
    (congrArg (fun v : State => v.recs ++ [m]) (promiseBefore_bare (s.withoutDec id) ..) :), rfl, rfl, rfl,
    fun i => named_words counted d j w _ i⟩

end Sys2Proof.Machine
end

section
namespace Sys2Proof.Machine

/-! ## Stores and queues that stay (R17, R39, R219, R356) -/

/-- The records and the queues of each cluster. -/
noncomputable def State.stores (t : State) (cl : Nat) : List Rec × Table (Vector W64 8) :=
  ((t.cluster cl).store, (t.cluster cl).queues)

section
variable {x : Nat → List Rec × Table (Vector W64 8)}

theorem stores_ite {c : Prop} [Decidable c] {u v : State} (hu : u.stores = x) (hv : v.stores = x) :
    (if c then u else v).stores = x :=
  iteInduction (motive := fun t : State => t.stores = x) (fun _ => hu) (fun _ => hv)

theorem stores_foldl {α : Type} (f : State → α → State) (hf : ∀ u y, (f u y).stores = u.stores) (l : List α) (t : State) :
    (l.foldl f t).stores = t.stores := by
  induction l generalizing t with
  | nil => rfl
  | cons y r ih => exact (ih _).trans (hf t y)

end

theorem stores_setCluster {t : State} {cl : Nat} {c : Cluster} (hs : c.store = (t.cluster cl).store)
    (hq : c.queues = (t.cluster cl).queues) : (t.setCluster cl c).stores = t.stores := by
  refine funext fun j => ?_
  unfold State.stores
  by_cases e : j = cl
  · rw [e, State.cluster_setCluster_self, hs, hq]
  · rw [State.cluster_setCluster_ne _ _ e]

section
variable (t : State)

theorem stores_dropped (cl n : Nat) : (t.dropped cl n).stores = t.stores := stores_setCluster rfl rfl

/-- Cached translations alone are removed from a cluster. -/
theorem stores_unmapped (p : Nat) : (t.unmapped p).stores = t.stores := by
  refine funext fun cl => ?_
  have hlook := Table.look_map_val t.clusters
    (fun y => { y.2 with cache := y.2.cache.filter fun e => !State.resolves e p }) cl
  refine (congrArg (fun o => ((Option.getD o Cluster.reset).store, (Option.getD o Cluster.reset).queues)) hlook).trans ?_
  unfold State.stores State.cluster
  cases Table.look t.clusters cl
  · rfl
  · rfl

theorem stores_demote (p : Nat) (y : BitVec 2) : (t.demote p y).stores = t.stores := by
  obtain ⟨bs, z, hd, -⟩ := demote_eq t p y
  exact (congrArg State.stores hd).trans (stores_unmapped t p)

theorem stores_use (p : Nat) : (t.use p).stores = t.stores := stores_ite rfl rfl

theorem stores_touch (p : Nat) (a : BitVec 16) : (t.touch p a).stores = t.stores := stores_ite rfl rfl

theorem stores_writeMem (ma : Nat) (d : Data) : (t.writeMem ma d).stores = t.stores := stores_ite rfl rfl

theorem stores_noteCrew (p crew : Nat) : (t.noteCrew p crew).stores = t.stores := stores_ite rfl rfl

theorem stores_applyEdit (e : TableEdit) : (t.applyEdit e).stores = t.stores := by
  have hwrite : (t.writeMem64 e.ma (e.op.apply (t.mem64 e.ma))).stores = t.stores := stores_writeMem ..
  unfold State.applyEdit
  cases e.crew
  · exact hwrite
  · exact (stores_noteCrew ..).trans hwrite

theorem stores_placeForWrite {u : State} {p : Nat} {a : BitVec 16} (e : t.placeForWrite p a = some u) :
    u.stores = t.stores := by
  unfold State.placeForWrite at e
  cases h : (t.page p).tier
  · rw [h] at e
    obtain ⟨v, hv, rfl⟩ := Option.map_eq_some_iff.mp e
    have hframe : v.stores = t.stores :=
      makeFrame_of_demote (P := fun v => v.stores = t.stores) (fun p x hv => (stores_demote _ p x).trans hv) rfl hv
    exact hframe
  · rw [h] at e
    exact Option.some.inj e ▸ stores_touch ..

/-- What a table's word needs of its page leaves the stores. -/
def State.Ready.Keeps (t : State) : State.Ready → Prop
  | .now u => u.stores = t.stores
  | .wait u => u.stores = t.stores
  | .noFrame => True

theorem readyTable_keeps (ma : Nat) : (t.readyTable ma).Keeps t := by
  refine iteInduction (motive := State.Ready.Keeps t) (fun _ => rfl) fun _ => ?_
  dsimp only
  cases (t.page (pageOf ma)).tier
  · dsimp only
    cases h : t.placeForWrite (pageOf ma) State.tableAttr
    · trivial
    · exact stores_placeForWrite t h
  · exact iteInduction (motive := State.Ready.Keeps t) (fun _ => stores_use ..) (fun _ => rfl)

theorem stores_editTable (e : TableEdit) : (t.editTable e).stores = t.stores := by
  refine stores_ite rfl ?_
  have h := readyTable_keeps t e.ma
  revert h
  cases t.readyTable e.ma
  · exact (stores_applyEdit _ e).trans
  · exact fun h => h
  · exact fun _ => rfl

theorem stores_editCrew (p crew w : Nat) (op : EditOp) (live : Bool) :
    (t.editCrew p crew w op live).stores = t.stores := stores_ite rfl (stores_editTable ..)

theorem stores_loseCauses (p crew n : Nat) : (t.loseCauses p crew n).stores = t.stores :=
  stores_ite rfl (stores_editCrew ..)

theorem stores_setLaunch (l : Launch) : (t.setLaunch l).stores = t.stores := rfl

theorem stores_endRing (k : Nat) : (t.endRing k).stores = t.stores := by
  unfold State.endRing
  cases t.ring? k
  · rfl
  · exact stores_ite rfl rfl

theorem stores_releaseRing (k : Nat) : (t.releaseRing k).stores = t.stores := by
  unfold State.releaseRing
  cases t.ring? k
  · rfl
  · refine stores_ite rfl (stores_ite ((stores_endRing _ k).trans ?_) (stores_endRing _ k))
    cases State.feeder _ k
    · rfl
    · rfl

theorem stores_releaseRings (f : Ring → Bool) : (t.releaseRings f).stores = t.stores :=
  stores_foldl (fun (u : State) (y : Nat × Ring) => u.releaseRing y.1) (fun u y => stores_releaseRing u y.1) _ t

theorem stores_endOfBlock (o : Owner) : (t.endOfBlock o).stores = t.stores :=
  stores_ite (stores_releaseRings ..) rfl

end

/-! ## Queues destroyed (R358, R361) -/

theorem queue_of_stores {s t : State} (h : s.stores = t.stores) (cl q : Nat) : s.queue cl q = t.queue cl q :=
  congrArg (fun y : List Rec × Table (Vector W64 8) => (Table.look y.2 q).getD (Vector.replicate 8 0)) (congrFun h cl)

theorem store_of_stores {s t : State} (h : s.stores = t.stores) (cl : Nat) : (s.cluster cl).store = (t.cluster cl).store :=
  congrArg Prod.fst (congrFun h cl)

theorem dropRec_cluster (s : State) (cl uid : Nat) : (s.dropRec cl uid).cluster cl
    = { s.cluster cl with store := (s.cluster cl).store.filter fun r => r.uid != uid } := State.cluster_setCluster_self ..

theorem dropRec_queue (s : State) (cl uid q : Nat) : (s.dropRec cl uid).queue cl q = s.queue cl q :=
  (congrArg (fun c : Cluster => (Table.look c.queues q).getD (Vector.replicate 8 0)) (dropRec_cluster s cl uid)).trans rfl

/-- A record that is discarded leaves the store, and no other record or queue changes. -/
theorem discardRec_stores (s : State) (cl p : Nat) (r : Rec) :
    (s.discardRec cl p r).stores = (s.dropRec cl r.uid).stores :=
  stores_ite rfl ((stores_endOfBlock ..).trans ((stores_loseCauses ..).trans (stores_editCrew ..)))

theorem discardRecs_store {x : Rec} {cl p : Nat} (rs : List Rec) {s : State}
    (hx : x ∈ ((rs.foldl (fun s r => s.discardRec cl p r) s).cluster cl).store) :
    x ∈ (s.cluster cl).store ∧ ∀ r ∈ rs, x.uid ≠ r.uid := by
  induction rs generalizing s with
  | nil => exact ⟨hx, fun r hr => nomatch hr⟩
  | cons r rs ih =>
    obtain ⟨hmem, hne⟩ := ih hx
    rw [store_of_stores (discardRec_stores s cl p r), dropRec_cluster, List.mem_filter, bne_iff_ne] at hmem
    exact ⟨hmem.1, List.forall_mem_cons.mpr ⟨hmem.2, hne⟩⟩

theorem discardRecs_queue {cl p q : Nat} (rs : List Rec) (s : State) :
    (rs.foldl (fun s r => s.discardRec cl p r) s).queue cl q = s.queue cl q := by
  induction rs generalizing s with
  | nil => rfl
  | cons r rs ih =>
    exact (ih _).trans ((queue_of_stores (discardRec_stores s cl p r) cl q).trans
      (dropRec_queue ..))

/-- The launches give up what they hold for a queue; the stores and the queues stay. -/
theorem discardQueue_stores (s : State) (cl q : Nat) : (s.discardQueue cl q).stores
    = (((s.cluster cl).store.filter fun r => r.queue == q).foldl
      (fun t r => t.discardRec cl (s.queuePart cl q) r) s).stores := by
  refine (stores_foldl _ (fun u l => ?_) _ _).trans (stores_dropped ..)
  exact stores_ite rfl ((stores_setLaunch ..).trans ((stores_editCrew ..).trans (stores_dropped ..)))

theorem discardQueue_store {s : State} {cl q : Nat} {x : Rec} (hx : x ∈ ((s.discardQueue cl q).cluster cl).store) :
    x.queue ≠ q := by
  rw [store_of_stores (discardQueue_stores s cl q)] at hx
  obtain ⟨hmem, hne⟩ := discardRecs_store _ hx
  exact fun e => hne x (List.mem_filter.mpr ⟨hmem, beq_iff_eq.mpr e⟩) rfl

theorem setQueueWord_store (s : State) (cl q : Nat) (f : Vector W64 8 → Vector W64 8) :
    ((s.setQueueWord cl q f).cluster cl).store = (s.cluster cl).store :=
  (congrArg Cluster.store (State.cluster_setCluster_self ..)).trans rfl

theorem setQueueWord_queue (s : State) (cl q : Nat) (f : Vector W64 8 → Vector W64 8) :
    (s.setQueueWord cl q f).queue cl q = f (s.queue cl q) :=
  (congrArg (fun c : Cluster => (Table.look c.queues q).getD (Vector.replicate 8 0))
    (State.cluster_setCluster_self ..)).trans (congrArg (Option.getD · _) (Table.look_put_self ..))

theorem destroyQueue_eq {s : State} {cl q : Nat} (h : s.queueV cl q = true) : s.destroyQueue cl q
    = ((s.discardQueue cl q).setQueueWord cl q fun e => e.set 0 (setField e[0] 63 1 0)).raiseGen cl q :=
  if_neg (by rw [h]; exact Bool.false_ne_true)

/-- Word 0 of a queue that has been destroyed: V is clear, and GEN has counted up. -/
theorem destroyQueue_word {s : State} {cl q : Nat} {w : W64} (h : s.queueV cl q = true) (hw : (s.queue cl q)[0] = w) :
    ((s.destroyQueue cl q).queue cl q)[0]
      = setField (setField w 63 1 0) 16 16 (field (setField w 63 1 0) 16 16 + 1) := by
  have hkept : ((s.discardQueue cl q).queue cl q)[0] = w :=
    (congrArg (·[0]) ((queue_of_stores (discardQueue_stores s cl q) cl q).trans (discardRecs_queue ..))).trans hw
  rw [destroyQueue_eq h, State.raiseGen, setQueueWord_queue, setQueueWord_queue, Vector.getElem_set_self,
    Vector.getElem_set_self, hkept]

theorem destroyQueue_store {s : State} {cl q : Nat} {r : Rec} (h : s.queueV cl q = true)
    (hr : r ∈ ((s.destroyQueue cl q).cluster cl).store) : r.queue ≠ q := by
  rw [destroyQueue_eq h, State.raiseGen, setQueueWord_store, setQueueWord_store] at hr
  exact discardQueue_store hr

theorem queueDestroy_clause (s : State) (cl q : Nat) :
    (s.queueV cl q = false → exec (.queueDestroy cl q) s = .next s)
    ∧ (s.queueV cl q = true → ∃ t, exec (.queueDestroy cl q) s = .next t ∧ t.queueV cl q = false
      ∧ t.queueGen cl q = (s.queueGen cl q + 1) % 2 ^ 16 ∧ ∀ r ∈ (t.cluster cl).store, r.queue ≠ q)
    ∧ exec (.qstatClear cl) s = .next (s.setCluster cl { s.cluster cl with badrec := 0, drop := 0, late := 0 }) := by
  refine ⟨fun h => congrArg Host.Outcome.next (if_pos (by rw [h]; rfl)),
    fun h => ⟨_, rfl, ?_, ?_, fun r => destroyQueue_store h⟩, rfl⟩
  · refine (congrArg (bit · 63) (destroyQueue_word h rfl)).trans ?_
    rw [bit, field_setField_other _ _ _ _ (by decide) (by decide), field_setField_self _ _ _ _ (by decide)]
    rfl
  · refine (congrArg (field · 16 16) (destroyQueue_word h rfl)).trans ?_
    rw [field_setField_self _ _ _ _ (by decide), field_setField_other _ _ _ _ (by decide) (by decide)]
    rfl

end Sys2Proof.Machine
end

section
namespace Sys2Proof.Machine

/-! ## Places of an overflow ring (R359) -/

section
variable {s : State} {cl q : Nat}

theorem freePlace_eq_none : s.freePlace cl q = none ↔ ∀ n < min (s.overflowed cl q + 1) (s.ringRoom cl q),
    ∃ r ∈ (s.cluster cl).store, r.queue = q ∧ r.place = some n := by
  simp only [State.freePlace, List.find?_eq_none, List.mem_range, Bool.not_eq_true', Bool.not_eq_false, List.any_eq_true,
    Bool.and_eq_true, beq_iff_eq]

/-- A ring has no free place only when each of its places holds a record: the search looks at more places than there
are records. -/
theorem ring_full (h : s.freePlace cl q = none) {n : Nat} (hn : n < s.ringRoom cl q) :
    ∃ r ∈ (s.cluster cl).store, r.queue = q ∧ r.place = some n := by
  have hocc := freePlace_eq_none.mp h
  have hall : List.range (min (s.overflowed cl q + 1) (s.ringRoom cl q))
      ⊆ ((s.cluster cl).store.filter fun r => r.queue == q && r.place.isSome).filterMap Rec.place := by
    intro m hm
    obtain ⟨r, hr, hq, hp⟩ := hocc m (List.mem_range.mp hm)
    exact List.mem_filterMap.mpr ⟨r, List.mem_filter.mpr ⟨hr, by rw [hq, hp, beq_self_eq_true]; rfl⟩, hp⟩
  have hlen := (List.subperm_of_subset List.nodup_range hall).length_le.trans (List.length_filterMap_le ..)
  have hroom := (min_le_iff.mp (List.length_range.symm.trans_le hlen)).resolve_left (Nat.not_succ_le_self _)
  exact hocc n (lt_min (Nat.lt_succ_of_lt (Nat.lt_of_lt_of_le hn hroom)) hn)

/-- A record that leaves leaves a ring with a free place one. -/
theorem freePlace_dropRec (uid : Nat) (h : s.freePlace cl q ≠ none) : (s.dropRec cl uid).freePlace cl q ≠ none := by
  refine fun hnone => h (freePlace_eq_none.mpr fun n hn => ?_)
  have hroom : (s.dropRec cl uid).ringRoom cl q = s.ringRoom cl q := by
    unfold State.ringRoom
    rw [dropRec_queue]
  obtain ⟨r, hr, hq⟩ := ring_full hnone (hroom ▸ (lt_min_iff.mp hn).2)
  rw [dropRec_cluster] at hr
  exact ⟨r, (List.mem_filter.mp hr).1, hq⟩

end

/-! ## Spills (R359) -/

theorem mem_spillable {s : State} {cl : Nat} {r : Rec} (h : s.spillable cl = some r) :
    r ∈ (s.cluster cl).store.filter fun r => r.state == .ready && (s.freePlace cl r.queue).isSome := by
  have hfold : ∀ l : List Rec, ∀ x ∈ l.foldl (fun b r => match b with
      | none => some r
      | some x => if x.age < r.age then some r else some x) none, x ∈ l := by
    intro l
    refine List.foldlRecOn (motive := fun b : Option Rec => ∀ x ∈ b, x ∈ l) l _ (fun x hx => nomatch hx) fun b hb a ha => ?_
    cases b
    · exact fun x hx => Option.some.inj hx ▸ ha
    · exact iteInduction (motive := fun b : Option Rec => ∀ x ∈ b, x ∈ l) (fun _ x hx => Option.some.inj hx ▸ ha) fun _ => hb
  exact hfold _ r h

theorem mem_uids_filter (l : List Rec) (a u : Nat) :
    u ∈ (l.filter fun r => r.uid != a).map (·.uid) ↔ u ∈ l.map (·.uid) ∧ u ≠ a := by
  simp only [List.mem_map, List.mem_filter, bne_iff_ne]
  constructor
  · rintro ⟨r, ⟨hr, hne⟩, rfl⟩
    exact ⟨⟨r, hr, rfl⟩, hne⟩
  · rintro ⟨⟨r, hr, rfl⟩, hne⟩
    exact ⟨r, ⟨hr, hne⟩, rfl⟩

section
variable {s t : State} {cl : Nat} {r : Rec}

theorem addRec_stores {u : State} (h : u.stores = s.stores) :
    (u.addRec cl r).stores cl = ((s.cluster cl).store ++ [r], (s.cluster cl).queues) :=
  (congrArg (fun c : Cluster => (c.store, c.queues)) (State.cluster_setCluster_self ..)).trans
    (congrArg (fun y => (y.1 ++ [r], y.2)) (congrFun h cl))

theorem ite_taken {P : State → Prop} {c : Prop} [Decidable c] {a b : Arrival} (ha : ∀ t, a = .taken t → P t)
    (hb : ∀ t, b = .taken t → P t) : ∀ t, (if c then a else b) = .taken t → P t :=
  iteInduction (motive := fun a => ∀ t, a = Arrival.taken t → P t) (fun _ => ha) (fun _ => hb)

/-- A record that its ring takes lies in the store's list at a place of the ring, behind the others. -/
theorem putOverflow_stores : ∀ t, s.putOverflow cl r = .taken t → ∃ n, t.stores cl
    = ((s.cluster cl).store ++ [{ r with state := .overflow n }], (s.cluster cl).queues) := by
  unfold State.putOverflow
  cases s.freePlace cl r.queue with
  | none => exact fun t h => Arrival.noConfusion h
  | some n =>
    refine ite_taken (fun t h => Arrival.noConfusion h) ?_
    have hready := readyTable_keeps s (s.overflowAt cl r.queue n)
    revert hready
    cases s.readyTable (s.overflowAt cl r.queue n)
    · exact fun hv t h => ⟨n, Arrival.taken.inj h ▸ addRec_stores ((stores_writeMem ..).trans hv)⟩
    · exact fun _ t h => Arrival.noConfusion h
    · exact fun _ t h => Arrival.noConfusion h

theorem overflowAt_of_queue {q : Nat} (h : t.queue cl q = s.queue cl q) (n : Nat) :
    t.overflowAt cl q n = s.overflowAt cl q n :=
  congrArg (fun w : Vector W64 8 => field (w[4]'(by decide)) 12 44 * 2 ^ 12 + 64 * n) h

/-- No change of a table waits, and the pages of the rings of all queues with records in a cluster are in tier 0. -/
def State.RingsHere (s : State) (cl : Nat) : Prop :=
  s.edits = [] ∧ ∀ r ∈ (s.cluster cl).store, ∀ n, regionOf (s.overflowAt cl r.queue n) = .tiered →
    (s.page (pageOf (s.overflowAt cl r.queue n))).tier = some 0

/-- A record with a place in a ring whose page is here is written there. -/
theorem putOverflow_now {n : Nat} {v : State} (hn : s.freePlace cl r.queue = some n) (he : s.edits = [])
    (hv : s.readyTable (s.overflowAt cl r.queue n) = .now v) : s.putOverflow cl r
      = .taken ((v.writeMem (s.overflowAt cl r.queue n) (clean (recordBytes r.words))).addRec cl
        { r with state := .overflow n }) := by
  have hedit : s.editing (pageOf (s.overflowAt cl r.queue n)) = false :=
    congrArg (fun l : List TableEdit => l.any fun e => pageOf e.ma == _) he
  unfold State.putOverflow
  rw [hn]
  refine (if_neg (Bool.eq_false_iff.mp hedit)).trans ?_
  rw [hv]

/-- A demotion that is abandoned leaves the page where it is. -/
theorem usesOnly_abandon (s : State) (p : Nat) : UsesOnly s (s.setPage p { s.page p with demoting := none }) := by
  refine ⟨rfl, fun q => ?_⟩
  by_cases e : q = p
  · rw [e, State.page_setPage_self]
    exact ⟨rfl, rfl⟩
  · rw [State.page_setPage_ne _ _ e]
    exact ⟨rfl, rfl⟩

/-- A table whose page is in tier 0 is ready now. -/
theorem readyTable_here {ma : Nat} (h : regionOf ma = .tiered → (s.page (pageOf ma)).tier = some 0) :
    ∃ t, s.readyTable ma = .now t ∧ UsesOnly s t := by
  by_cases hr : regionOf ma = .tiered
  · refine ⟨_, (if_neg (not_not_intro hr)).trans ?_, (usesOnly_abandon s (pageOf ma)).use (pageOf ma)⟩
    dsimp only
    rw [h hr]
    exact if_pos rfl
  · exact ⟨s, if_pos hr, rfl, fun _ => ⟨rfl, rfl⟩⟩

theorem writeMem_keeps {α : Type} (f : State → α) (hf : ∀ (u : State) m bs, f { u with mem := m, beats := bs } = f u)
    (s : State) (ma : Nat) (d : Data) : f (s.writeMem ma d) = f s :=
  iteInduction (motive := fun t => f t = f s) (fun _ => rfl) (fun _ => hf s _ _)

/-- Rings whose queues and pages stay as they are stay here. -/
theorem ringsHere_of {l : List Rec} (hs : s.RingsHere cl) (he : t.edits = s.edits)
    (hp : ∀ p, (t.page p).tier = (s.page p).tier) (hst : t.stores cl = (l, (s.cluster cl).queues))
    (hl : ∀ x ∈ l, ∃ y ∈ (s.cluster cl).store, y.queue = x.queue) : t.RingsHere cl := by
  have hqueue (q : Nat) : t.queue cl q = s.queue cl q :=
    congrArg (fun y : List Rec × Table (Vector W64 8) => (Table.look y.2 q).getD (Vector.replicate 8 0)) hst
  have hstore : (t.cluster cl).store = l := congrArg Prod.fst hst
  refine ⟨he.trans hs.1, fun x hx n => ?_⟩
  obtain ⟨y, hy, hyx⟩ := hl x (hstore ▸ hx)
  rw [overflowAt_of_queue (hqueue x.queue), hp, ← hyx]
  exact hs.2 y hy n

section
variable (h : (s.dropRec cl r.uid).putOverflow cl r = .taken t)
include h

/-- A record that moves to its ring leaves its entry of the store, and the queues stay. -/
theorem moved_stores : ∃ n, t.stores cl
    = (((s.cluster cl).store.filter fun x => x.uid != r.uid) ++ [{ r with state := .overflow n }], (s.cluster cl).queues) := by
  obtain ⟨n, hn⟩ := putOverflow_stores t h
  rw [dropRec_cluster] at hn
  exact ⟨n, hn⟩

variable (hr : r ∈ (s.cluster cl).store)
include hr

/-- The store has an entry less in use once a ready record lies in its ring. -/
theorem storeUsed_moved (hready : r.state = .ready) : t.storeUsed cl < s.storeUsed cl := by
  obtain ⟨n, hstore⟩ := moved_stores h
  have hin : r.inStore = true := by rw [Rec.inStore, Rec.place, hready]; rfl
  have hlt := List.length_filter_lt_length_iff_exists (p := fun x : Rec => x.uid != r.uid)
    (l := (s.cluster cl).store.filter Rec.inStore) |>.mpr
      ⟨r, List.mem_filter.mpr ⟨hr, hin⟩, by rw [bne_self_eq_false]; exact Bool.false_ne_true⟩
  rw [List.filter_comm] at hlt
  refine (congrArg (fun y : List Rec × Table (Vector W64 8) => (y.1.filter Rec.inStore).length) hstore).trans_lt ?_
  rw [List.filter_append]
  exact (congrArg List.length (List.append_nil _)).trans_lt hlt

/-- A record that moves to its ring stays in the store's list. -/
theorem uids_moved (u : Nat) : u ∈ (t.cluster cl).store.map (·.uid) ↔ u ∈ (s.cluster cl).store.map (·.uid) := by
  obtain ⟨n, hstore⟩ := moved_stores h
  rw [show (t.cluster cl).store = _ from congrArg Prod.fst hstore, List.map_append, List.mem_append,
    mem_uids_filter, List.map_singleton, List.mem_singleton]
  refine ⟨fun hu => hu.elim And.left fun e => (show u = r.uid from e) ▸ List.mem_map_of_mem hr, fun hu => ?_⟩
  by_cases e : u = r.uid
  · exact .inr e
  · exact .inl ⟨hu, e⟩

end

/-- A record with a free place in its ring is taken there, where the rings' pages are here; they stay so. -/
theorem putOverflow_here (hs : s.RingsHere cl) (hr : r ∈ (s.cluster cl).store) (hf : s.freePlace cl r.queue ≠ none) :
    ∃ t, (s.dropRec cl r.uid).putOverflow cl r = .taken t ∧ t.RingsHere cl := by
  obtain ⟨n, hn⟩ := Option.ne_none_iff_exists'.mp (freePlace_dropRec r.uid hf)
  have hat := overflowAt_of_queue (dropRec_queue s cl r.uid r.queue) n
  obtain ⟨v, hv, hu⟩ := readyTable_here (s := s.dropRec cl r.uid) (ma := (s.dropRec cl r.uid).overflowAt cl r.queue n)
    (by rw [hat]; exact hs.2 r hr n)
  have htaken := putOverflow_now hn hs.1 hv
  obtain ⟨m, hstore⟩ := moved_stores htaken
  have hqueue : ∀ x ∈ ((s.cluster cl).store.filter fun x => x.uid != r.uid) ++ [{ r with state := .overflow m }],
      ∃ y ∈ (s.cluster cl).store, y.queue = x.queue := fun x hx => (List.mem_append.mp hx).elim
    (fun hx => ⟨x, (List.mem_filter.mp hx).1, rfl⟩) (fun hx => ⟨r, hr, (congrArg Rec.queue (List.mem_singleton.mp hx)).symm⟩)
  have hedits : v.edits = s.edits := (congrArg State.edits hu.frame).trans rfl
  exact ⟨_, htaken, ringsHere_of hs ((writeMem_keeps State.edits (fun _ _ _ => rfl) ..).trans hedits)
    (fun p => (congrArg Page.tier (writeMem_keeps (State.page · p) (fun _ _ _ => rfl) ..)).trans (hu.pages p).1) hstore hqueue⟩

end

theorem used_le_of_free {u : Nat} (h : 128 ≤ 4096 - u) : u ≤ 3968 :=
  Nat.le_of_not_lt fun hlt => absurd (h.trans (Nat.sub_le_sub_left hlt 4096)) (by decide)

/-- What a spill of so many records comes to: every record is still in the store's list, and where the rings' pages are
here 128 entries are free or nothing is left to spill. -/
def State.SpillsTo (s : State) (cl n : Nat) (t : State) : Prop :=
  (∀ u, u ∈ (t.cluster cl).store.map (·.uid) ↔ u ∈ (s.cluster cl).store.map (·.uid))
  ∧ (s.RingsHere cl → s.storeUsed cl ≤ 3968 + n → t.storeUsed cl ≤ 3968 ∨ t.spillable cl = none)

section
variable {s t u : State} {cl n : Nat} {r : Rec} (hr : s.spillable cl = some r)
include hr

/-- A record that is to be spilled is ready, and has a free place in its ring. -/
theorem spillable_ready : r ∈ (s.cluster cl).store ∧ r.state = .ready ∧ s.freePlace cl r.queue ≠ none := by
  obtain ⟨hmem, hfree⟩ := List.mem_filter.mp (mem_spillable hr)
  obtain ⟨hready, hplace⟩ := Bool.and_eq_true_iff.mp hfree
  exact ⟨hmem, eq_of_beq hready, Option.isSome_iff_ne_none.mp hplace⟩

theorem spillsTo_of_taken (ht : (s.dropRec cl r.uid).putOverflow cl r = .taken t) (h : t.SpillsTo cl n u) :
    s.SpillsTo cl (n + 1) u := by
  obtain ⟨hmem, hready, hplace⟩ := spillable_ready hr
  refine ⟨fun x => (h.1 x).trans (uids_moved ht hmem x), fun hs hn => ?_⟩
  obtain ⟨v, hv, hhere⟩ := putOverflow_here hs hmem hplace
  exact h.2 (Arrival.taken.inj (hv.symm.trans ht) ▸ hhere)
    (Nat.le_of_lt_succ ((storeUsed_moved ht hmem hready).trans_le hn))

theorem spillsTo_of_not_taken (hno : ∀ v, (s.dropRec cl r.uid).putOverflow cl r ≠ .taken v) (hu : u.stores = s.stores) :
    s.SpillsTo cl n u := by
  obtain ⟨hmem, -, hplace⟩ := spillable_ready hr
  refine ⟨fun _ => by rw [store_of_stores hu], fun hs => ?_⟩
  obtain ⟨v, hv, -⟩ := putOverflow_here hs hmem hplace
  exact absurd hv (hno v)

end

theorem spill_spillsTo (s : State) (cl n : Nat) : s.SpillsTo cl n (s.spill cl n) := by
  induction n generalizing s with
  | zero => exact ⟨fun _ => Iff.rfl, fun _ => .inl⟩
  | succ n ih =>
    refine iteInduction (c := 128 ≤ 4096 - s.storeUsed cl) (motive := s.SpillsTo cl (n + 1))
      (fun h => ⟨fun _ => Iff.rfl, fun _ _ => .inl (used_le_of_free h)⟩) fun _ => ?_
    cases hr : s.spillable cl with
    | none => exact ⟨fun _ => Iff.rfl, fun _ _ => .inr hr⟩
    | some r =>
      dsimp only
      cases ht : (s.dropRec cl r.uid).putOverflow cl r with
      | taken t => exact spillsTo_of_taken hr ht (ih t)
      | wait =>
        cases s.absentPage _ 64
        · exact spillsTo_of_not_taken hr (fun v h => Arrival.noConfusion (ht.symm.trans h)) rfl
        · exact spillsTo_of_not_taken hr (fun v h => Arrival.noConfusion (ht.symm.trans h)) rfl
      | _ => exact spillsTo_of_not_taken hr (fun v h => Arrival.noConfusion (ht.symm.trans h)) rfl

/-! ## Fills (R359) -/

theorem memData_of_usesOnly {s t : State} (h : UsesOnly s t) (ma n : Nat) : t.memData ma n = s.memData ma n := by
  induction n generalizing ma with
  | zero => rfl
  | succ n ih => exact congrArg₂ List.cons (by rw [h.mem, h.badBeat]) (ih _)

/-- The state in which the tier is used that a fill reads its record from. -/
noncomputable def State.filling (s : State) (ma : Nat) : State := if regionOf ma = .tiered then s.use (pageOf ma) else s

theorem filling_usesOnly (s : State) (ma : Nat) : UsesOnly s (s.filling ma) :=
  have hself : UsesOnly s s := ⟨rfl, fun _ => ⟨rfl, rfl⟩⟩
  iteInduction (motive := UsesOnly s) (fun _ => hself.use _) (fun _ => hself)

theorem fillOne_eq {s : State} {cl q ma : Nat} {r : Rec}
    (ho : oldest ((s.cluster cl).store.filter fun x => x.queue == q && x.place.isSome) = some r)
    (hm : s.overflowAt cl q (r.place.getD 0) = ma) (ha : s.absentPage ma 64 = none) (he : s.editing (pageOf ma) = false)
    (hb : ((s.filling ma).memData ma 64).any (·.2) = false) : s.fillOne cl q
      = ((s.filling ma).dropRec cl r.uid).placeRec cl { r with words := wordsOf ((s.filling ma).memData ma 64) } := by
  -- The search of `absentPage` is hidden from the kernel, which would evaluate it.
  obtain ⟨absent, habsent⟩ : ∃ f, s.absentPage = f := ⟨_, rfl⟩
  rw [habsent] at ha
  unfold State.fillOne
  rw [habsent, ho]
  dsimp only
  rw [hm, ha]
  exact (if_neg (Bool.eq_false_iff.mp he)).trans (if_neg (Bool.eq_false_iff.mp hb))

/-- The oldest record of a queue in overflow moves back, with the words that its place in the ring holds. -/
theorem fillOne_moves {s : State} {cl q n : Nat} {r : Rec}
    (ho : oldest ((s.cluster cl).store.filter fun x => x.queue == q && x.place.isSome) = some r) (hp : r.place = some n)
    (ha : s.absentPage (s.overflowAt cl q n) 64 = none) (he : s.editing (pageOf (s.overflowAt cl q n)) = false)
    {d : Data} (hd : s.memData (s.overflowAt cl q n) 64 = d) (hb : d.any (·.2) = false) (hw : recState (wordsOf d) ≠ 1) :
    ((s.fillOne cl q).cluster cl).store
      = ((s.cluster cl).store.filter fun x => x.uid != r.uid) ++ [{ r with words := wordsOf d, state := .ready }] := by
  have hu := filling_usesOnly s (s.overflowAt cl q n)
  have hdata := (memData_of_usesOnly hu (s.overflowAt cl q n) 64).trans hd
  have hstore : ((s.filling (s.overflowAt cl q n)).cluster cl).store = (s.cluster cl).store :=
    (congrArg (fun u : State => (u.cluster cl).store) hu.frame).trans rfl
  rw [fillOne_eq ho (by rw [hp]; rfl) ha he (by rw [hdata]; exact hb), hdata, ← hstore]
  exact (congrArg (fun u : State => (u.cluster cl).store) (if_neg hw)).trans ((addRec_store ..).trans
    (congrArg (fun c : Cluster => c.store ++ _) (dropRec_cluster ..)))

theorem overflow_clause (s : State) (cl : Nat) (h4096 : s.storeUsed cl ≤ 4096) :
    (s.storeUsed cl ≤ 4032 → exec (.spillToOverflow cl) s = .next s)
    ∧ (4032 < s.storeUsed cl → ∃ t, exec (.spillToOverflow cl) s = .next t
      ∧ (∀ u, u ∈ (t.cluster cl).store.map (·.uid) ↔ u ∈ (s.cluster cl).store.map (·.uid))
      ∧ (s.edits = [] → (∀ r ∈ (s.cluster cl).store, ∀ n, regionOf (s.overflowAt cl r.queue n) = .tiered →
          (s.page (pageOf (s.overflowAt cl r.queue n))).tier = some 0) →
        t.storeUsed cl ≤ 3968 ∨ t.spillable cl = none))
    ∧ ∀ q r n, s.overflowing cl = [q] → s.storeUsed cl ≤ 3840 →
      oldest ((s.cluster cl).store.filter fun x => x.queue == q && x.place.isSome) = some r → r.place = some n →
      let d := s.memData (s.overflowAt cl q n) 64
      s.absentPage (s.overflowAt cl q n) 64 = none → s.editing (pageOf (s.overflowAt cl q n)) = false →
      d.any (·.2) = false → recState (wordsOf d) ≠ 1 →
        ∃ t, exec (.fillFromOverflow cl) s = .next t ∧ (t.cluster cl).store
          = ((s.cluster cl).store.filter fun x => x.uid != r.uid) ++ [{ r with words := wordsOf d, state := .ready }] := by
  refine ⟨fun h => congrArg Host.Outcome.next (if_neg ?_), fun h => ⟨_, congrArg Host.Outcome.next (if_pos ?_),
    (spill_spillsTo s cl 128).left, fun hedits hhere => (spill_spillsTo s cl 128).right ⟨hedits, hhere⟩ h4096⟩,
    fun q r n hq h3840 ho hp ha he hb hw => ⟨_, congrArg Host.Outcome.next ?_, fillOne_moves ho hp ha he rfl hb hw⟩⟩
  · exact Nat.not_lt.mpr (Nat.le_sub_of_add_le (Nat.add_le_add_left h 64))
  · exact Nat.sub_lt_left_of_lt_add h4096 (Nat.add_lt_add_right h 64)
  · unfold State.fill
    rw [hq]
    exact if_pos (Nat.le_sub_of_add_le (Nat.add_le_add_left h3840 256))

end Sys2Proof.Machine
end

section
namespace Sys2Proof.Machine

/-! ## Dispatch (R108, R362 to R365) -/

/-- The core that begins a block (R108, R364). -/
noncomputable def State.begun (s : State) (k : Nat) (b : Block) : Core :=
  let x := ((s.core k).idled s.tick).begin b (s.firstBudget b.part b.rcd.words)
  { x with walkFault := if (s.context b.part b.ctx).isNone then some (x.pc.toNat / 2 ^ 16, BitVec.ofNat 8 kCtx) else none }

/-- The block that a record's dispatch begins (R363). -/
noncomputable def State.blockOf (s : State) (cl : Nat) (r : Rec) : Block :=
  let p := s.queuePart cl r.queue
  let ctx := s.queueCtx cl r.queue
  ⟨r, [], p, ctx, s.queueNs cl r.queue, false, (s.context p ctx).isNone⟩

/-- A cluster's store without the record that is dispatched, which is counted in LATE when its deadline has passed. -/
noncomputable def State.givenUp (s : State) (k run : Nat) (r : Rec) : State :=
  let cl := clusterOf k
  let late := recDeadline r.words != noDeadline && decide (recDeadline r.words < (s.timeAt (chipOf k)).toNat)
  let w := (s.setCluster cl { s.cluster cl with run := run }).dropRec cl r.uid
  if late then w.setCluster cl { w.cluster cl with late := BitVec.ofNat 16 (satAdd 0xFFFF (w.cluster cl).late.toNat 1) }
  else w

section
variable (s : State) (k run : Nat) (r : Rec)

theorem givenUp_keeps {α : Type} (f : State → α) (h : ∀ cs, f { s with clusters := cs } = f s) :
    f (s.givenUp k run r) = f s :=
  iteInduction (motive := fun t => f t = f s) (fun _ => h _) (fun _ => h _)

theorem givenUp_filed {α : Type} (f : Cluster → α) (h : ∀ c n, f { c with late := n } = f c) :
    f ((s.givenUp k run r).cluster (clusterOf k)) = f { s.cluster (clusterOf k) with
      run := run, store := (s.cluster (clusterOf k)).store.filter fun x => x.uid != r.uid } := by
  have hdropped := dropRec_cluster (s.setCluster (clusterOf k) { s.cluster (clusterOf k) with run := run }) (clusterOf k) r.uid
  rw [State.cluster_setCluster_self] at hdropped
  exact iteInduction (motive := fun t : State => f (t.cluster (clusterOf k)) = _)
    (fun _ => (congrArg f (State.cluster_setCluster_self ..)).trans ((h _ _).trans (congrArg f hdropped)))
    (fun _ => congrArg f hdropped)

theorem givenUp_run : ((s.givenUp k run r).cluster (clusterOf k)).run = run :=
  givenUp_filed s k run r Cluster.run fun _ _ => rfl

theorem givenUp_store : ∀ x ∈ ((s.givenUp k run r).cluster (clusterOf k)).store, x.uid ≠ r.uid := by
  intro x hx
  rw [givenUp_filed s k run r Cluster.store fun _ _ => rfl] at hx
  exact bne_iff_ne.mp (List.mem_filter.mp hx).2

/-- The core of a dispatch is read after it. -/
theorem begun_at {α : Type} (f : Core → α) : f (((s.givenUp k run r).setCore k
    ((s.givenUp k run r).begun k (s.blockOf (clusterOf k) r))).core k) = f (s.begun k (s.blockOf (clusterOf k) r)) :=
  congrArg f ((State.core_setCore_self ..).trans (givenUp_keeps s k run r (State.begun · k _) fun _ => rfl))

/-- What does not speak of partial sums, a core that discards them keeps. -/
theorem begun_sums {α : Type} (f : Core → α) : f ((s.core k).idled s.tick).dropSums.sumless
    = f ((s.core k).idled s.tick).sumless := congrArg f (Core.dropSums_sumless _)

end

section
variable {s : State} {b : Block} {k : Nat} (ht : recTagged b.rcd.words = false)
include ht

theorem tagAwaited_untagged : s.tagAwaited b k = false := by
  rw [State.tagAwaited, ht, Bool.false_and]

theorem tagFails_untagged : s.tagFails b k = false := by
  rw [State.tagFails, ht, Bool.false_and]

end

/-- An idle core begins the block of the record that is picked, which leaves the store. -/
theorem dispatch_begins {s : State} {k run : Nat} {r : Rec} (hk : isCore k = true) (hi : s.idle k = true)
    (hp : s.pick k = some (r, run)) (ht : recTagged r.words = false)
    (hn : s.dispatchNeeds (s.queuePart (clusterOf k) r.queue) (s.queueCtx (clusterOf k) r.queue) r.words = none) :
    s.dispatch k = (s.givenUp k run r).setCore k ((s.givenUp k run r).begun k (s.blockOf (clusterOf k) r)) := by
  refine (if_neg (by rw [hk, hi]; exact Bool.false_ne_true)).trans ?_
  rw [hp]
  dsimp -zeta only
  extract_lets cl p ctx b
  rw [show s.dispatchNeeds p ctx r.words = none from hn]
  exact (if_neg (Bool.eq_false_iff.mp (tagAwaited_untagged (b := b) ht))).trans
    (if_neg (Bool.eq_false_iff.mp (tagFails_untagged (b := b) ht)))

/-- A block whose context is invalid begins with a fault of kind CTX (R49, R64). -/
theorem begun_walkFault (s : State) (k : Nat) (b : Block) : (s.begun k b).walkFault.map (·.2)
    = if s.context b.part b.ctx = none then some (BitVec.ofNat 8 kCtx) else none := by
  unfold State.begun
  cases s.context b.part b.ctx
  · rfl
  · rfl

theorem firstBudget_toNat (s : State) (p : Nat) (w : Vector W64 8) : (s.firstBudget p w).toNat
    = if recBudget w ≠ 0 then recBudget w
      else if recCrew w = 0 then 2 ^ 32 - 1
      else field (s.mem64 (s.crewMA p (recCrew w) + 16)) 0 32 :=
  (apply_ite BitVec.toNat ..).trans (if_congr Iff.rfl (Nat.mod_eq_of_lt (field_lt ..))
    ((apply_ite BitVec.toNat ..).trans (if_congr Iff.rfl rfl (Nat.mod_eq_of_lt (field_lt ..)))))

/-! What the block's registers are loaded with. -/

theorem loaded_s (x y z : Cell64) {j : Nat} (hj : j < 48) :
    (((Vector.replicate 48 z).set 1 x (by decide)).set 2 y (by decide))[j] = if j = 1 then x else if j = 2 then y else z := by
  rw [Vector.getElem_set, Vector.getElem_set, Vector.getElem_replicate]
  by_cases h2 : j = 2
  · rw [if_pos h2.symm, if_neg (h2.trans_ne (by decide)), if_pos h2]
  · rw [if_neg (Ne.symm h2), if_neg h2]
    exact if_congr eq_comm rfl rfl

theorem loaded_h (x z : W64) {j : Nat} (hj : j < 16) :
    ((Vector.replicate 16 z).set 0 x (by decide))[j] = if j = 0 then x else z := by
  rw [Vector.getElem_set, Vector.getElem_replicate]
  exact if_congr eq_comm rfl rfl

theorem field_ofNat_low {n : Nat} (h : n < 2 ^ 7) : field (BitVec.ofNat 64 n) 0 7 = n := by
  rw [field, bitsOf, BitVec.toNat_ofNat, Nat.mod_eq_of_lt (Nat.lt_trans h (by decide)), Nat.pow_zero, Nat.div_one,
    Nat.mod_eq_of_lt h]

theorem dispatch_clause (s : State) (k run : Nat) (r : Rec) (hk : isCore k = true) (hi : s.idle k = true)
    (hp : s.pick k = some (r, run)) :
    let cl := clusterOf k
    let p := s.queuePart cl r.queue
    let ctx := s.queueCtx cl r.queue
    recTagged r.words = false → s.dispatchNeeds p ctx r.words = none →
      ∃ t, exec (.dispatch k) s = .next t ∧ t.mem = s.mem
      ∧ let c := s.core k
        let z := t.core k
        (∃ b, z.blk = some b ∧ b.rcd.uid = r.uid ∧ b.part = p ∧ b.ctx = ctx ∧ b.ns = s.queueNs cl r.queue
          ∧ b.squashed = false)
        ∧ z.walkFault.map (·.2) = (if s.context p ctx = none then some (BitVec.ofNat 8 kCtx) else none)
        ∧ z.kernel = false ∧ z.handler = false ∧ z.pc = BitVec.ofNat 64 (field r.words[0] 2 62 * 4)
        ∧ (∀ j : Fin 48, z.r.s[j]
          = if j.val = 1 then known r.words[6] else if j.val = 2 then known r.words[7] else known 0)
        ∧ (∀ j : Fin 16, z.r.h[j] = if j.val = 0 then r.words[4] else 0) ∧ field z.r.fstat 0 7 = field r.words[3] 0 7
        ∧ z.r.budget.toNat = (if recBudget r.words ≠ 0 then recBudget r.words
          else if recCrew r.words = 0 then 2 ^ 32 - 1
          else field (s.mem64 (s.crewMA p (recCrew r.words) + 16)) 0 32) ∧ z.r.vcfg = Arch.reset.vcfg
        ∧ z.r.m = Arch.reset.m ∧ z.r.q = Arch.reset.q ∧ z.r.x = Arch.reset.x ∧ z.r.t = Arch.reset.t
        ∧ z.r.v = Arch.reset.v ∧ z.r.bt = Arch.reset.bt ∧ z.r.p = 1 ∧ z.r.mactl = 0
        ∧ z.r.spad = c.r.spad ∧ z.r.cf = c.r.cf ∧ z.r.cfstat = c.r.cfstat ∧ z.r.bar = c.r.bar ∧ z.r.swz = c.r.swz
        ∧ z.r.srseed = c.r.srseed ∧ z.pendU = r.held ∧ z.pendK = c.pendK
        ∧ (∀ x ∈ (t.cluster cl).store, x.uid ≠ r.uid) ∧ (t.cluster cl).run = run
        ∧ ∀ j, j ≠ k → t.core j = s.core j := by
  intro cl p ctx ht hn
  refine ⟨_, congrArg Host.Outcome.next (dispatch_begins hk hi hp ht hn), givenUp_keeps s k run r State.mem fun _ => rfl, ?_⟩
  intro c z
  exact ⟨⟨_, begun_at s k run r Core.blk, rfl, rfl, rfl, rfl, rfl⟩,
    (begun_at s k run r fun z => z.walkFault.map (·.2)).trans (begun_walkFault ..), begun_at s k run r Core.kernel,
    begun_at s k run r Core.handler, begun_at s k run r Core.pc,
    fun j => (begun_at s k run r fun z => z.r.s[j.val]'j.isLt).trans (loaded_s _ _ _ j.isLt),
    fun j => (begun_at s k run r fun z => z.r.h[j.val]'j.isLt).trans (loaded_h _ _ j.isLt),
    (begun_at s k run r fun z => field z.r.fstat 0 7).trans (field_ofNat_low (field_lt ..)),
    (begun_at s k run r fun z => z.r.budget.toNat).trans (firstBudget_toNat ..), begun_at s k run r (·.r.vcfg),
    begun_at s k run r (·.r.m), begun_at s k run r (·.r.q), begun_at s k run r (·.r.x), begun_at s k run r (·.r.t),
    begun_at s k run r (·.r.v), begun_at s k run r (·.r.bt), begun_at s k run r (·.r.p), begun_at s k run r (·.r.mactl),
    (begun_at s k run r (·.r.spad)).trans (begun_sums s k (·.r.spad)),
    (begun_at s k run r (·.r.cf)).trans (begun_sums s k (·.r.cf)),
    (begun_at s k run r (·.r.cfstat)).trans (begun_sums s k (·.r.cfstat)),
    (begun_at s k run r (·.r.bar)).trans (begun_sums s k (·.r.bar)),
    (begun_at s k run r (·.r.swz)).trans (begun_sums s k (·.r.swz)),
    (begun_at s k run r (·.r.srseed)).trans (begun_sums s k (·.r.srseed)), begun_at s k run r Core.pendU,
    (begun_at s k run r Core.pendK).trans (begun_sums s k Core.pendK), givenUp_store s k run r, givenUp_run s k run r,
    fun j hj => (State.core_setCore_ne _ _ hj).trans (givenUp_keeps s k run r (State.core · j) fun _ => rfl)⟩

/-- Settles O56: one clause for each engine of the queues; a record's place in a ring is found by counting, and spills end
since each lowers the entries in use. -/
theorem schedulerEvents : Obligations.SchedulerEvents :=
  ⟨recordEnqueue_clause, enqueueWindowWrite_clause, joinDecrement_clause, overflow_clause, dispatch_clause,
    queueDestroy_clause⟩

end Sys2Proof.Machine
end
